-- ==== Sys2Proof/Word.lean ====
section
/-! DEFINITION. The machine words of the ZTX-2: a register is 64 bits wide (R5), a memory location one byte (R4). -/

namespace Sys2Proof

/-- A register, or a 64-bit word of a table or a record (R5). -/
abbrev W64 := BitVec 64

/-- One byte of memory (R4). -/
abbrev Byte := BitVec 8

end Sys2Proof
end

