-- ==== Sys2Proof/Machine/Bits.lean ====
section
/-! DEFINITION. Bit fields, byte order, and the sparse maps in which the model keeps registers, memories and tiles.
A sparse map is a list of (key, value) pairs with strictly rising keys; a key it does not list holds the map's
default, and no listed value equals it, so equal contents are equal data. -/

namespace Sys2Proof.Machine

/-! ### Bit fields (R4: bit 0 is the least significant) -/

/-- Bits `hi:lo` of the number `n`. -/
def bits (n hi lo : Nat) : Nat := (n >>> lo) % 2 ^ (hi + 1 - lo)

/-- `n` with its bits `hi:lo` replaced by the low bits of `v`. -/
def putBits (n hi lo v : Nat) : Nat :=
  n - (bits n hi lo) <<< lo + (v % 2 ^ (hi + 1 - lo)) <<< lo

/-- Bit `k` of the number `n`. -/
def bit (n k : Nat) : Bool := n.testBit k

/-- A field of a register: its highest and its lowest bit. -/
structure Fld where
  hi : Nat
  lo : Nat
  deriving DecidableEq, Repr

/-- The value of a field of a word. -/
def Fld.of (f : Fld) (w : W64) : Nat := bits w.toNat f.hi f.lo

/-- The bits of a field. -/
def Fld.mask (f : Fld) : Nat := (2 ^ (f.hi + 1 - f.lo) - 1) <<< f.lo

/-- A word with a field replaced. -/
def Fld.put (f : Fld) (w : W64) (v : Nat) : W64 := BitVec.ofNat 64 (putBits w.toNat f.hi f.lo v)

/-- 1 for true and 0 for false. -/
def b2n (b : Bool) : Nat := if b then 1 else 0

/-- The two's-complement value of the low `w` bits of `n`. -/
def signed (w n : Nat) : Int :=
  let m := n % 2 ^ w
  if m < 2 ^ (w - 1) then (m : Int) else (m : Int) - 2 ^ w

/-- The low `w` bits of the two's-complement form of `i`. -/
def unsigned (w : Nat) (i : Int) : Nat := (i % (2 ^ w : Int)).toNat

/-! ### Byte order: little-endian everywhere (R4) -/

/-- The number that a list of bytes holds, the first byte least significant. -/
def leNat : List Byte → Nat
  | [] => 0
  | b :: r => b.toNat + 256 * leNat r

/-- The `k` bytes of the number `n`, the least significant first. -/
def leBytes : Nat → Nat → List Byte
  | 0, _ => []
  | k + 1, n => BitVec.ofNat 8 n :: leBytes k (n / 256)

/-- The number at byte `off`, `k` bytes long, of a list of bytes. -/
def leAt (bs : List Byte) (off k : Nat) : Nat := leNat ((bs.drop off).take k)

/-- A list of bytes with the bytes from `off` on replaced by `new`. -/
def splice (bs : List Byte) (off : Nat) (new : List Byte) : List Byte :=
  bs.take off ++ new ++ bs.drop (off + new.length)

/-! ### Sparse maps -/

/-- The value a sparse map lists for `k`, if it lists one. -/
def sfind {α : Type} (k : Nat) : List (Nat × α) → Option α
  | [] => none
  | (j, v) :: r => if j = k then some v else sfind k r

/-- The map with `k` listed as `v`. -/
def sput {α : Type} (k : Nat) (v : α) : List (Nat × α) → List (Nat × α)
  | [] => [(k, v)]
  | (j, w) :: r =>
    if k < j then (k, v) :: (j, w) :: r else if j = k then (k, v) :: r else (j, w) :: sput k v r

/-- The map without an entry for `k`. -/
def sdel {α : Type} (k : Nat) (m : List (Nat × α)) : List (Nat × α) := m.filter (fun e => e.1 ≠ k)

/-- The value at `k` of a map whose unlisted keys hold `d`. -/
def sget {α : Type} (d : α) (k : Nat) (m : List (Nat × α)) : α := (sfind k m).getD d

/-- The map after `v` is stored at `k`; storing the default `d` removes the entry. -/
def sset {α : Type} [DecidableEq α] (d : α) (k : Nat) (v : α) (m : List (Nat × α)) : List (Nat × α) :=
  if v = d then sdel k m else sput k v m

/-- The keys of a sparse map rise strictly, and each is above the bound. -/
def risesFrom {α : Type} : Option Nat → List (Nat × α) → Bool
  | _, [] => true
  | none, (j, _) :: r => risesFrom (some j) r
  | some k, (j, _) :: r => decide (k < j) && risesFrom (some j) r

/-- The canonical form: keys strictly rising, no entry equal to the default. -/
def swf {α : Type} [DecidableEq α] (d : α) (m : List (Nat × α)) : Bool :=
  risesFrom none m && m.all (fun e => decide (e.2 ≠ d))

/-- The values at `n` consecutive keys from `k` on, of a map whose unlisted keys hold `d`. -/
def denseFrom {α : Type} (d : α) : Nat → Nat → List (Nat × α) → List α
  | 0, _, _ => []
  | n + 1, k, [] => d :: denseFrom d n (k + 1) []
  | n + 1, k, (j, v) :: r => if j = k then v :: denseFrom d n (k + 1) r else d :: denseFrom d n (k + 1) ((j, v) :: r)

/-- The values at `n` consecutive keys from `k` on. -/
def dense {α : Type} (d : α) (k n : Nat) (m : List (Nat × α)) : List α :=
  denseFrom d n k (m.dropWhile (fun e => decide (e.1 < k)))

/-- The map with the values of a list stored at consecutive keys from `k` on. -/
def putRange {α : Type} [DecidableEq α] (d : α) (k : Nat) (vs : List α) (m : List (Nat × α)) : List (Nat × α) :=
  m.takeWhile (fun e => decide (e.1 < k))
    ++ (vs.zipIdx.filter (fun p => decide (p.1 ≠ d))).map (fun p => (k + p.2, p.1))
    ++ m.dropWhile (fun e => decide (e.1 < k + vs.length))

/-- The consecutive numbers from `a`, `n` of them. -/
def range' (a n : Nat) : List Nat := (List.range n).map (a + ·)

/-- A list with its element `i` replaced. -/
def setAt {α : Type} (l : List α) (i : Nat) (v : α) : List α := l.set i v

/-- A list with its element `i` changed by `f`. -/
def modAt {α : Type} (l : List α) (i : Nat) (f : α → α) : List α := l.modify i f

/-- The element `i` of a list, or the given value beyond its end. -/
def at? {α : Type} (l : List α) (i : Nat) (d : α) : α := l.getD i d

/-- One row of the register map: registers at `base`, `base + stride`, …, `count` of them, their reset value, the
bits a write stores and the bits a 1 clears (R7). -/
structure RegRow where
  base : Nat
  count : Nat
  stride : Nat
  reset : Nat
  rw : Nat
  w1c : Nat
  deriving DecidableEq, Repr

/-- Whether the row defines the register at BAR0 offset `a`. -/
def RegRow.holds (r : RegRow) (a : Nat) : Bool :=
  decide (r.base ≤ a) && decide ((a - r.base) % r.stride = 0) && decide ((a - r.base) / r.stride < r.count)

end Sys2Proof.Machine
end

