-- ==== Sys2Proof/Machine/Fec.lean ====
section
/-! DEFINITION. Forward error correction of a Hermen frame: RS(544,514) over GF(2^10), the frame's symbols, its flits,
lane check field and lane parity (R445 to R447). -/

namespace Sys2Proof.Machine

/-! ### GF(2^10), x^10 + x^3 + 1 -/

/-- Multiplication in the field. -/
def gfMul (a b : Nat) : Nat :=
  ((List.range 10).foldl (fun (p : Nat × Nat) i =>
    let acc := if b.testBit i then p.1 ^^^ p.2 else p.1
    let x := p.2 * 2
    (acc, if x ≥ 1024 then x ^^^ 0x409 else x)) (0, a)).1

/-- Powers, by squaring. -/
def gfPow (a n : Nat) : Nat :=
  ((List.range 10).foldl (fun (p : Nat × Nat) i =>
    (if n.testBit i then gfMul p.1 p.2 else p.1, gfMul p.2 p.2)) (1, a)).1

def gfInv (a : Nat) : Nat := gfPow a 1022

/-- α^n, α being x. -/
def gfAlpha (n : Nat) : Nat := gfPow 2 (n % 1023)

/-- A polynomial, lowest coefficient first, at a point. -/
def polyAt (p : List Nat) (x : Nat) : Nat := p.foldr (fun c acc => gfMul acc x ^^^ c) 0

/-- Sum and product of polynomials. -/
def polyAdd : List Nat → List Nat → List Nat
  | [], q => q
  | p, [] => p
  | a :: p, b :: q => (a ^^^ b) :: polyAdd p q

def polyMul : List Nat → List Nat → List Nat
  | [], _ => []
  | a :: p, q => polyAdd (q.map (gfMul a)) (0 :: polyMul p q)

/-! ### The code (R445) -/

/-- The generator: the product of x + α^i for i = 0 … 29, lowest coefficient first. -/
def rsGen : List Nat := (List.range 30).foldl (fun g i => polyMul g [gfAlpha i, 1]) [1]

/-- The 30 check symbols of 514 message symbols, the first of each the highest power. -/
def rsCheck (msg : List Nat) : List Nat :=
  let g := (rsGen.take 30).reverse
  msg.foldl (fun reg m =>
    let f := m ^^^ reg.headD 0
    ((reg.drop 1 ++ [0]).zip g).map (fun (p : Nat × Nat) => p.1 ^^^ gfMul f p.2)) (List.replicate 30 0)

/-- A codeword: the message and its check symbols. -/
def rsEncode (msg : List Nat) : List Nat := msg ++ rsCheck msg

/-- The 30 syndromes of a received word. -/
def rsSyndromes (w : List Nat) : List Nat :=
  (List.range 30).map (fun j =>
    let x := gfAlpha j
    w.foldl (fun acc s => gfMul acc x ^^^ s) 0)

/-- State of the search for the shortest register: C, B, L, m, b. -/
structure RsReg where
  c : List Nat
  b : List Nat
  len : Nat
  m : Nat
  lead : Nat

/-- The error locator of a list of syndromes, with its degree. -/
def rsLocator (syn : List Nat) : List Nat × Nat :=
  let r := (List.range 30).foldl (fun (r : RsReg) n =>
    let delta := (List.range (r.len + 1)).foldl (fun a i => a ^^^ gfMul (r.c.getD i 0) (syn.getD (n - i) 0)) 0
    if delta = 0 then { r with m := r.m + 1 }
    else
      let k := gfMul delta (gfInv r.lead)
      let c := polyAdd r.c (List.replicate r.m 0 ++ r.b.map (gfMul k))
      if 2 * r.len ≤ n then ⟨c, r.c, n + 1 - r.len, 1, delta⟩ else { r with c := c, m := r.m + 1 }) ⟨[1], [1], 0, 1, 1⟩
  (r.c, r.len)

/-- The corrected word and the number of symbols corrected; none: more errors than the code corrects. -/
def rsDecode (w : List Nat) : Option (List Nat × Nat) :=
  let syn := rsSyndromes w
  if syn.all (fun s => s == 0) then some (w, 0)
  else
    let (loc, len) := rsLocator syn
    let omega := (polyMul syn loc).take 30
    let deriv := (loc.drop 1).zipIdx.map (fun p => if p.2 % 2 = 0 then p.1 else 0)
    let fix := w.zipIdx.map (fun p =>
      let pw := 543 - p.2
      let xi := gfAlpha ((1023 - pw % 1023) % 1023)
      if polyAt loc xi = 0 then
        (p.1 ^^^ gfMul (gfAlpha pw) (gfMul (polyAt omega xi) (gfInv (polyAt deriv xi))), 1)
      else (p.1, 0))
    let n := (fix.map Prod.snd).foldl (· + ·) 0
    let out := fix.map Prod.fst
    if len ≤ 15 ∧ n = len ∧ (rsSyndromes out).all (fun s => s == 0) = true then some (out, n) else none

/-! ### Frames (R445 to R447) -/

/-- The number that a list of 10-bit symbols spells, the first lowest. -/
def symNat (l : List Nat) : Nat := l.foldr (fun s acc => s % 1024 + 1024 * acc) 0

/-- The symbols of a frame from its 20,560 data bits: symbol k of codeword c at position 4k + c. -/
def frameSymbols (data : Nat) : List Nat :=
  let cws := (List.range 4).map (fun c => rsEncode ((List.range 514).map (fun k => bits data (5140 * c + 10 * k + 9) (5140 * c + 10 * k))))
  ((List.range 544).map (fun k => cws.map (fun w => w.getD k 0))).flatten

/-- Parity of the bits of a symbol. -/
def symParity (s : Nat) : Nat := ((List.range 10).foldl (fun a i => a + b2n (s.testBit i)) 0) % 2

/-- Symbol `k`, `k + n`, `k + 2n`, … of a list. -/
def everyNth (n : Nat) (l : List Nat) (k : Nat) : List Nat :=
  (l.zipIdx.filter (fun p => decide (p.2 % n = k))).map Prod.fst

/-- The 4 parity bits of each lane position of a frame's symbols on W lanes (R447). -/
def laneParity (w : Nat) (syms : List Nat) : List Nat :=
  (List.range w).map (fun l =>
    let lane := everyNth w syms l
    (List.range 4).foldl (fun a i => a + (((everyNth 4 lane i).foldl (fun b s => b + symParity s) 0) % 2) * 2 ^ i) 0)

/-- The data bits of a frame: ten flits, the parity of the frame before, and the frame number. -/
def frameData (flits : List (List Byte)) (parity : List Nat) (no : Nat) : Nat :=
  leNat (flits.flatten) + (parity.zipIdx.foldl (fun a p => a + (p.1 % 16) * 2 ^ (4 * p.2)) 0) * 2 ^ 20480 + (no % 4096) * 2 ^ 20544

/-- What a received frame holds: its flits, lane check field, frame number, the codewords corrected and those that
cannot be. -/
structure FrameIn where
  flits : List (List Byte)
  parity : List Nat
  no : Nat
  corrected : Nat
  failed : Nat

/-- A frame decoded from its 2,176 symbols as received. -/
def frameDecode (w : Nat) (syms : List Nat) : FrameIn :=
  let cws := (List.range 4).map (everyNth 4 syms)
  let outs := cws.map rsDecode
  let data := ((cws.zip outs).zipIdx).foldl (fun a p =>
    let word := match p.1.2 with
      | some (x, _) => x
      | none => p.1.1
    a + symNat (word.take 514) * 2 ^ (5140 * p.2)) 0
  { flits := (List.range 10).map (fun f => leBytes 256 (bits data (2048 * f + 2047) (2048 * f))),
    parity := (List.range w).map (fun l => bits data (20483 + 4 * l) (20480 + 4 * l)), no := bits data 20555 20544,
    corrected := (outs.filter (fun o => match o with | some (_, n) => decide (0 < n) | none => false)).length,
    failed := (outs.filter (fun o => o.isNone)).length }

end Sys2Proof.Machine
end

