-- ==== Sys2Proof/Syntax.lean ====
section
/-! DEFINITION. The commands the package takes, one constructor of `Instr` for each row of the opcode table, and the
slot operations of a bundle with their operand fields. A field the spec encodes is a bit vector of the encoded width;
what an outside party supplies (a time, a port, bytes) is a number or a list. -/

namespace Sys2Proof

/-! ### Who issues, and when -/

/-- The strands of the stream (02, "Strands and issue"). -/
inductive StrandId where
  | main | segA | segB
  deriving DecidableEq, Repr

/-- One half of the package (R11). -/
inductive Half where
  | A | B
  deriving DecidableEq, Repr

/-! ### Memory requests (R375, R381, R388, R393) -/

/-- A queued client's request: a read of `n` bytes or a write. -/
inductive MemReq where
  | read (n : Nat)
  | write (bytes : List Byte)
  deriving DecidableEq, Repr

/-- A soft error that an access meets: its address, whether it lies in the pool's copy of a stack line, whether it is
uncorrectable, and for a stack the row (pseudo-channel in bit 0, bank in bits 4:1, row in bits 24:5). -/
structure Ecc where
  addr : Nat
  pool : Bool
  ue : Bool
  row : Nat
  deriving DecidableEq, Repr

/-- The issue of one slot op: the array cycle at which it issues (1 sc is 2 ac), the half whose slot holds it, the
strand whose bundle holds it, and the soft errors its reads of the reservoirs meet (R381). -/
structure Issue where
  t : Nat
  half : Half
  strand : StrandId
  ecc : List Ecc
  deriving DecidableEq, Repr

/-- The blocks with an enable bit and a state (R23, and each unit's chapter). -/
inductive Blk where
  | seq | cas (h : Half) | jet (h : Half) | ril (n : Nat) | eph | wei (h : Half) | ast (h : Half)
  | aqd (h : Half) (c : Nat) | hrm (p : Nat) | col | ring (n : Nat)
  deriving DecidableEq, Repr

/-! ### Messages -/

/-- A Hermen message (R455): the header's fields, `w1` its bytes 8–15, `w2` its bytes 16–23, `hi` bits 63:32 of its
bytes 24–31, and its data. -/
structure Msg where
  dchip : Nat
  schip : Nat
  mtype : Nat
  lepoch : Nat
  ttl : Nat
  gp : Bool
  w1 : Nat
  w2 : Nat
  hi : Nat
  vc : Nat
  data : List Byte
  deriving DecidableEq, Repr

/-! ### What bring-up finds (R628 to R634) -/

/-- What the phases of bring-up find outside the registers and the NV store: the straps (R659), whether the die bridge
trains, the channels that fail training or their memory test (32 · stack + channel, R399), soft-repair spares per bank
(R396), and boot slots that give a read error (R654). -/
structure BootIn where
  diag : Bool
  smb : BitVec 2
  bridge : Bool
  bad : List (BitVec 8)
  spares : List (Nat × Nat)
  readA : Bool
  readB : Bool
  deriving DecidableEq, Repr

/-! ### State changes of the board management controller (R597, R605, R608, R610, R615) -/

/-- What a PLDM state change asks for; `clear` is the equivalent of PWR_THR.CLR. -/
inductive PldmReq where
  | hold | wake | cold | run | clear
  deriving DecidableEq, Repr

/-! ### CTL slot ops (R48) -/

/-- The CTL ops of R48. `none` of their fields is wider than the table gives it. -/
inductive CtlOp where
  | nop
  | loop (count : BitVec 24) (len : BitVec 20)
  | br (target : BitVec 28)
  | brc (ix : BitVec 3) (cmp : BitVec 2) (imm : BitVec 24) (target : BitVec 28)
  | call (target : BitVec 28)
  | ret
  | awaitr (kind : BitVec 1) (rill : BitVec 12) (thresh : BitVec 16)
  | awaita (chan : BitVec 5) (limit : BitVec 8)
  | awaitq (ring : BitVec 8)
  | sida (time : BitVec 56)
  | sidr (offset : BitVec 32)
  | delay (cycles : BitVec 24)
  | stepb (t0src : BitVec 1)
  | verd
  | fork (desc : BitVec 8)
  | join
  | page (mode : BitVec 2) (page : BitVec 17)
  | trap (stop : BitVec 1) (code : BitVec 16)
  | halt (code : BitVec 16)
  deriving DecidableEq, Repr

/-- The ops of the CAS slot of a terrace (R156), without the no-op. -/
inductive CasOp where
  | lds (umask : BitVec 8) (desc : BitVec 10) (buf : BitVec 1) (epv : BitVec 1)
  | mm (umask : BitVec 8) (desc : BitVec 10) (rowsm1 : BitVec 7) (buf : BitVec 1) (bt : BitVec 2) (acm : BitVec 2) (cmp : BitVec 1) (gp : BitVec 1) (pdt : BitVec 1)
  | opa (umask : BitVec 8) (adesc : BitVec 10) (bdesc : BitVec 10) (rowsm1 : BitVec 7) (bt : BitVec 2) (acm : BitVec 2) (cmp : BitVec 1) (gp : BitVec 1) (pdt : BitVec 1)
  | twf (pmask : BitVec 4) (gdesc : BitVec 10) (xdesc : BitVec 10) (rowsm1 : BitVec 7) (buf : BitVec 1) (ebt : BitVec 2) (eacm : BitVec 2) (obt : BitVec 2) (oacm : BitVec 2) (cmp : BitVec 1)
  | bctl (umask : BitVec 8) (fn : BitVec 4) (tmask : BitVec 4)
  | bin (umask : BitVec 8) (desc : BitVec 10) (bt : BitVec 2) (add : BitVec 1)
  | bout (umask : BitVec 8) (desc : BitVec 10) (bt : BitVec 2) (rnd : BitVec 2) (nfm : BitVec 1) (gp : BitVec 1)
  | root (umask : BitVec 8) (desc : BitVec 10) (nt : BitVec 2) (pc : BitVec 2) (nit : BitVec 5) (gp : BitVec 1)
  deriving DecidableEq, Repr

/-- The ops of the JET slot of a terrace (R216), without the no-op. -/
inductive JetOp where
  | jld (vd : BitVec 5) (desc : BitVec 10) (rg : BitVec 3) (w : BitVec 2) (rnd : BitVec 2) (nfm : BitVec 1)
  | jst (vs : BitVec 5) (desc : BitVec 10) (rg : BitVec 3) (w : BitVec 2) (rnd : BitVec 2) (nfm : BitVec 1) (gp : BitVec 1)
  | alu (vd : BitVec 5) (va : BitVec 5) (vb : BitVec 5) (vc : BitVec 5) (fn : BitVec 4) (w : BitVec 2) (gp : BitVec 1)
  | cvt (vd : BitVec 5) (va : BitVec 5) (ws : BitVec 2) (wd : BitVec 2) (rnd : BitVec 2) (nfm : BitVec 1) (gp : BitVec 1)
  | tab (vd : BitVec 5) (va : BitVec 5) (tsel : BitVec 3) (gp : BitVec 1)
  | der (vd : BitVec 5) (vx : BitVec 5) (vg : BitVec 5)
  | red (va : BitVec 5) (vb : BitVec 5) (bank : BitVec 2) (rg : BitVec 3) (rk : BitVec 2) (init : BitVec 1) (gp : BitVec 1)
  | rsr (vd : BitVec 5) (bank : BitVec 2) (rg : BitVec 3) (what : BitVec 1)
  | rsld (bank : BitVec 2) (rg : BitVec 3) (desc : BitVec 10) (rk : BitVec 2) (mrg : BitVec 1) (gp : BitVec 1)
  | rsst (bank : BitVec 2) (rg : BitVec 3) (desc : BitVec 10)
  | tld (tgt : BitVec 1) (desc : BitVec 10)
  | tsum (vd : BitVec 5) (desc : BitVec 10) (rg : BitVec 3) (nb : BitVec 4) (gp : BitVec 1)
  deriving DecidableEq, Repr

/-- The ops of the RIL slot (R261), without the no-op. -/
inductive RilOp where
  | send (rill : BitVec 12) (desc : BitVec 10) (hsrc : BitVec 12) (hm : BitVec 1) (first : BitVec 1) (last : BitVec 1)
  | commit (rill : BitVec 12) (hsrc : BitVec 12) (hm : BitVec 1) (first : BitVec 1) (last : BitVec 1)
  | release (rill : BitVec 12) (cnt : BitVec 8)
  deriving DecidableEq, Repr

/-- The ops of the EPH slot (R285), without the no-op. -/
inductive EphOp where
  | res (desc : BitVec 10)
  | hold (desc : BitVec 10)
  | drop (desc : BitVec 10)
  | lag (arg : BitVec 3)
  | floor (k : BitVec 3)
  deriving DecidableEq, Repr

/-- The ops of the WEI slot (R327), without the no-op. -/
inductive WeiOp where
  | upd (weir : BitVec 2) (desc : BitVec 10) (sel : BitVec 4) (span0 : BitVec 12)
  | clrm (weir : BitVec 2) (desc : BitVec 10) (sel : BitVec 4) (span0 : BitVec 12)
  deriving DecidableEq, Repr

/-- The ops of the AST slot (R360), without the no-op. -/
inductive AstOp where
  | snap
  | gnopen (acc : BitVec 4)
  | gnwr (acc : BitVec 4)
  | gnrec (acc : BitVec 4)
  | sforce (terr : BitVec 3)
  deriving DecidableEq, Repr

/-- The ops of the AQD slot (R425), without the no-op. -/
inductive AqdOp where
  | xfer (chan : BitVec 5) (desc : BitVec 10) (eps : BitVec 1) (epd : BitVec 1) (gp : BitVec 1) (note : BitVec 1)
  deriving DecidableEq, Repr
/-- The commands the package takes, one constructor for each row of the opcode table; each docstring cites the rule
the row names. -/
inductive Instr where
  /-- REGISTER_WRITE (R7). -/
  | registerWrite (t : Nat) (host : Bool) (off : Nat) (data : List Byte)
  /-- BLOCK_ENABLE (R26). -/
  | blockEnable (t : Nat) (b : Blk)
  /-- BLOCK_DISABLE (R26). -/
  | blockDisable (t : Nat) (b : Blk)
  /-- DRAIN_COMPLETE (R26). -/
  | drainComplete (t : Nat) (b : Blk)
  /-- DRAIN_TIMEOUT (R27). -/
  | drainTimeout (t : Nat) (b : Blk)
  /-- STATE_OBSERVATION (R39). -/
  | stateObservation (t : Nat)
  /-- SEQ_START (R95). -/
  | seqStart (t : Nat)
  /-- SEQ_STOP (R96). -/
  | seqStop (t : Nat)
  /-- BUNDLE_ISSUE (R40). -/
  | bundleIssue (t : Nat) (strand : StrandId) (ecc : List Ecc)
  /-- PAGE_ARRIVAL (R45). -/
  | pageArrival (t : Nat) (half : Half) (page : BitVec 17)
  /-- LOOP (R51). -/
  | loop (t : Nat) (strand : StrandId) (count : BitVec 24) (len : BitVec 20)
  /-- BR (R54). -/
  | br (t : Nat) (strand : StrandId) (target : BitVec 28)
  /-- BRC (R54). -/
  | brc (t : Nat) (strand : StrandId) (ix : BitVec 3) (cmp : BitVec 2) (imm : BitVec 24) (target : BitVec 28)
  /-- CALL (R56). -/
  | call (t : Nat) (strand : StrandId) (target : BitVec 28)
  /-- RET (R56). -/
  | ret (t : Nat) (strand : StrandId)
  /-- AWAITR (R57). -/
  | awaitr (t : Nat) (strand : StrandId) (half : Half) (kind : BitVec 1) (rill : BitVec 12) (thresh : BitVec 16)
  /-- AWAITA (R58). -/
  | awaita (t : Nat) (strand : StrandId) (half : Half) (chan : BitVec 5) (limit : BitVec 8)
  /-- AWAITQ (R59). -/
  | awaitq (t : Nat) (strand : StrandId) (ring : BitVec 8)
  /-- SIDA (R61). -/
  | sida (t : Nat) (strand : StrandId) (half : Half) (time : BitVec 56)
  /-- SIDR (R61). -/
  | sidr (t : Nat) (strand : StrandId) (half : Half) (offset : BitVec 32)
  /-- DELAY (R60). -/
  | delay (t : Nat) (strand : StrandId) (half : Half) (cycles : BitVec 24)
  /-- STEPB (R75). -/
  | stepb (t : Nat) (strand : StrandId) (t0src : BitVec 1)
  /-- VERD (R77). -/
  | verd (t : Nat) (strand : StrandId)
  /-- FORK (R70). -/
  | fork (t : Nat) (strand : StrandId) (desc : BitVec 8)
  /-- SEGMENT_START (R71). -/
  | segmentStart (t : Nat) (segB : Bool)
  /-- JOIN (R74). -/
  | join (t : Nat) (strand : StrandId)
  /-- PAGE_PREFETCH (R64). -/
  | pagePrefetch (t : Nat) (strand : StrandId) (page : BitVec 17)
  /-- PAGE_PIN (R64). -/
  | pagePin (t : Nat) (strand : StrandId) (page : BitVec 17)
  /-- PAGE_UNPIN (R64). -/
  | pageUnpin (t : Nat) (strand : StrandId) (page : BitVec 17)
  /-- TRAP (R65). -/
  | trap (t : Nat) (strand : StrandId) (half : Half) (stop : BitVec 1) (code : BitVec 16)
  /-- HALT (R65). -/
  | halt (t : Nat) (strand : StrandId) (code : BitVec 16)
  /-- WAIT_TIMEOUT (R87). -/
  | waitTimeout (t : Nat) (strand : StrandId)
  /-- UNWIND_RESUME (R80). -/
  | unwindResume (t : Nat)
  /-- LDS (R145). -/
  | lds (iss : Issue) (terr : BitVec 3) (umask : BitVec 8) (desc : BitVec 10) (buf : BitVec 1) (epv : BitVec 1)
  /-- MM (R124). -/
  | mm (iss : Issue) (terr : BitVec 3) (umask : BitVec 8) (desc : BitVec 10) (rowsm1 : BitVec 7) (buf : BitVec 1) (bt : BitVec 2) (acm : BitVec 2) (cmp : BitVec 1) (gp : BitVec 1) (pdt : BitVec 1)
  /-- OPA (R124). -/
  | opa (iss : Issue) (terr : BitVec 3) (umask : BitVec 8) (adesc : BitVec 10) (bdesc : BitVec 10) (rowsm1 : BitVec 7) (bt : BitVec 2) (acm : BitVec 2) (cmp : BitVec 1) (gp : BitVec 1) (pdt : BitVec 1)
  /-- TWF (R148). -/
  | twf (iss : Issue) (terr : BitVec 3) (pmask : BitVec 4) (gdesc : BitVec 10) (xdesc : BitVec 10) (rowsm1 : BitVec 7) (buf : BitVec 1) (ebt : BitVec 2) (eacm : BitVec 2) (obt : BitVec 2) (oacm : BitVec 2) (cmp : BitVec 1)
  /-- BCTL_OPEN (R141). -/
  | bctlOpen (iss : Issue) (terr : BitVec 3) (umask : BitVec 8) (tmask : BitVec 4)
  /-- BCTL_CLOSE (R141). -/
  | bctlClose (iss : Issue) (terr : BitVec 3) (umask : BitVec 8) (tmask : BitVec 4)
  /-- BCTL_LOPEN (R141). -/
  | bctlLopen (iss : Issue) (terr : BitVec 3) (umask : BitVec 8) (tmask : BitVec 4)
  /-- BCTL_FINISH (R177). -/
  | bctlFinish (iss : Issue) (terr : BitVec 3) (umask : BitVec 8) (tmask : BitVec 4)
  /-- BIN (R159). -/
  | bin (iss : Issue) (terr : BitVec 3) (umask : BitVec 8) (desc : BitVec 10) (bt : BitVec 2) (add : BitVec 1)
  /-- BOUT (R159). -/
  | bout (iss : Issue) (terr : BitVec 3) (umask : BitVec 8) (desc : BitVec 10) (bt : BitVec 2) (rnd : BitVec 2) (nfm : BitVec 1) (gp : BitVec 1)
  /-- ROOT (R152). -/
  | root (iss : Issue) (terr : BitVec 3) (umask : BitVec 8) (desc : BitVec 10) (nt : BitVec 2) (pc : BitVec 2) (nit : BitVec 5) (gp : BitVec 1)
  /-- ROOT_COMPLETE (R154). -/
  | rootComplete (half : Half) (terr : BitVec 3)
  /-- BASIN_ROW_APPLY (R176). -/
  | basinRowApply (uid : BitVec 7)
  /-- BASIN_WINDOW_WRITE (R144). -/
  | basinWindowWrite (off : BitVec 26) (data : List Byte)
  /-- SHADOW_COMPARE (R358). -/
  | shadowCompare (half : Half)
  /-- JLD (R196). -/
  | jld (iss : Issue) (terr : BitVec 3) (vd : BitVec 5) (desc : BitVec 10) (rg : BitVec 3) (w : BitVec 2) (rnd : BitVec 2) (nfm : BitVec 1)
  /-- JST (R196). -/
  | jst (iss : Issue) (terr : BitVec 3) (vs : BitVec 5) (desc : BitVec 10) (rg : BitVec 3) (w : BitVec 2) (rnd : BitVec 2) (nfm : BitVec 1) (gp : BitVec 1)
  /-- ALU (R197). -/
  | alu (iss : Issue) (terr : BitVec 3) (vd : BitVec 5) (va : BitVec 5) (vb : BitVec 5) (vc : BitVec 5) (fn : BitVec 4) (w : BitVec 2) (gp : BitVec 1)
  /-- CVT (R198). -/
  | cvt (iss : Issue) (terr : BitVec 3) (vd : BitVec 5) (va : BitVec 5) (ws : BitVec 2) (wd : BitVec 2) (rnd : BitVec 2) (nfm : BitVec 1) (gp : BitVec 1)
  /-- TAB (R200). -/
  | tab (iss : Issue) (terr : BitVec 3) (vd : BitVec 5) (va : BitVec 5) (tsel : BitVec 3) (gp : BitVec 1)
  /-- DER (R204). -/
  | der (iss : Issue) (terr : BitVec 3) (vd : BitVec 5) (vx : BitVec 5) (vg : BitVec 5)
  /-- RED (R206). -/
  | red (iss : Issue) (terr : BitVec 3) (va : BitVec 5) (vb : BitVec 5) (bank : BitVec 2) (rg : BitVec 3) (rk : BitVec 2) (init : BitVec 1) (gp : BitVec 1)
  /-- RSR (R210). -/
  | rsr (iss : Issue) (terr : BitVec 3) (vd : BitVec 5) (bank : BitVec 2) (rg : BitVec 3) (what : BitVec 1)
  /-- RSLD (R208). -/
  | rsld (iss : Issue) (terr : BitVec 3) (bank : BitVec 2) (rg : BitVec 3) (desc : BitVec 10) (rk : BitVec 2) (mrg : BitVec 1) (gp : BitVec 1)
  /-- RSST (R208). -/
  | rsst (iss : Issue) (terr : BitVec 3) (bank : BitVec 2) (rg : BitVec 3) (desc : BitVec 10)
  /-- TLD (R203). -/
  | tld (iss : Issue) (terr : BitVec 3) (tgt : BitVec 1) (desc : BitVec 10)
  /-- TSUM (R211). -/
  | tsum (iss : Issue) (terr : BitVec 3) (vd : BitVec 5) (desc : BitVec 10) (rg : BitVec 3) (nb : BitVec 4) (gp : BitVec 1)
  /-- SEND (R240). -/
  | send (iss : Issue) (port : BitVec 1) (rill : BitVec 12) (desc : BitVec 10) (hsrc : BitVec 12) (hm : BitVec 1) (first : BitVec 1) (last : BitVec 1)
  /-- SEND_DONE (R240). -/
  | sendDone (t : Nat) (ctx : BitVec 12)
  /-- COMMIT (R242). -/
  | commit (iss : Issue) (port : BitVec 1) (rill : BitVec 12) (hsrc : BitVec 12) (hm : BitVec 1) (first : BitVec 1) (last : BitVec 1)
  /-- RELEASE (R243). -/
  | release (iss : Issue) (port : BitVec 1) (rill : BitVec 12) (cnt : BitVec 8)
  /-- SLAB_ARRIVAL (R249). -/
  | slabArrival (t : Nat) (port : BitVec 3) (m : Msg)
  /-- CRED_ARRIVAL (R249). -/
  | credArrival (t : Nat) (port : BitVec 3) (m : Msg)
  /-- OPEN_ARRIVAL (R247). -/
  | openArrival (t : Nat) (port : BitVec 3) (m : Msg)
  /-- RIL_STALL (R245). -/
  | rilStall (t : Nat) (half : Half) (port : BitVec 1)
  /-- RES (R274). -/
  | res (iss : Issue) (desc : BitVec 10)
  /-- HOLD (R274). -/
  | hold (iss : Issue) (desc : BitVec 10)
  /-- DROP (R274). -/
  | drop (iss : Issue) (desc : BitVec 10)
  /-- LAG (R271). -/
  | lag (iss : Issue) (arg : BitVec 3)
  /-- FLOOR (R272). -/
  | floor (iss : Issue) (k : BitVec 3)
  /-- UPD (R299). -/
  | upd (iss : Issue) (weir : BitVec 2) (desc : BitVec 10) (sel : BitVec 4) (span0 : BitVec 12)
  /-- CLRM (R310). -/
  | clrm (iss : Issue) (weir : BitVec 2) (desc : BitVec 10) (sel : BitVec 4) (span0 : BitVec 12)
  /-- WEIR_COMMAND_COMPLETE (R307). -/
  | weirCommandComplete (half : Half) (weir : BitVec 2)
  /-- WEI_NOSLOT (R304). -/
  | weiNoslot (t : Nat) (half : Half) (weir : BitVec 2)
  /-- ROLLBACK_COMPLETE (R320). -/
  | rollbackComplete
  /-- SNAP (R348). -/
  | snap (iss : Issue)
  /-- SNAP_EMIT (R348). -/
  | snapEmit
  /-- GNOPEN (R353). -/
  | gnopen (iss : Issue) (acc : BitVec 4)
  /-- GNWR (R353). -/
  | gnwr (iss : Issue) (acc : BitVec 4)
  /-- GNREC (R353). -/
  | gnrec (iss : Issue) (acc : BitVec 4)
  /-- SFORCE (R361). -/
  | sforce (iss : Issue) (terr : BitVec 3)
  /-- CNT_CLEAR (R366). -/
  | cntClear (blk : Option Half)
  /-- MEMORY_ACCESS (R375). -/
  | memoryAccess (t : Nat) (addr : BitVec 42) (req : MemReq) (ecc : List Ecc)
  /-- POOL_ATOMIC (R385). -/
  | poolAtomic (t : Nat) (addr : BitVec 42) (atop : BitVec 4) (data : List Byte) (gp : Bool)
  /-- POL_WB (R389). -/
  | polWb (half : Half)
  /-- POL_INV (R389). -/
  | polInv (half : Half)
  /-- WRITE_BACK_COMPLETE (R389). -/
  | writeBackComplete (half : Half)
  /-- PATROL_SCRUB (R395). -/
  | patrolScrub (t : Nat) (half : Half) (found : List Ecc)
  /-- ROW_REMAP (R396). -/
  | rowRemap (t : Nat) (half : Half) (fits : Bool)
  /-- BRIDGE_FLIT_RECEIVE (R406). -/
  | bridgeFlitReceive (t : Nat) (dir : BitVec 1) (lane : BitVec 7) (good : Bool)
  /-- BAR4_ACCESS (R549). -/
  | bar4Access (t : Nat) (off : BitVec 28) (req : MemReq) (en : List Bool) (ecc : List Ecc)
  /-- XFER (R421). -/
  | xfer (iss : Issue) (port : BitVec 1) (chan : BitVec 5) (desc : BitVec 10) (eps : BitVec 1) (epd : BitVec 1) (gp : BitVec 1) (note : BitVec 1)
  /-- BURST_START (R428). -/
  | burstStart (t : Nat) (half : Half) (hostData : Option (List Byte))
  /-- TRANSFER_COMPLETE (R430). -/
  | transferComplete (t : Nat) (half : Half) (chan : BitVec 5)
  /-- LINK_ON (R468). -/
  | linkOn (t : Nat) (port : BitVec 3)
  /-- LINK_OFF (R468). -/
  | linkOff (t : Nat) (port : BitVec 3)
  /-- RETRAIN (R468). -/
  | retrain (t : Nat) (port : BitVec 3)
  /-- RESET_RECEIVE (R469). -/
  | resetReceive (t : Nat) (port : BitVec 3)
  /-- QUIET_END (R470). -/
  | quietEnd (t : Nat) (port : BitVec 3)
  /-- DETECT_DONE (R473). -/
  | detectDone (t : Nat) (port : BitVec 3) (chip : BitVec 14) (nonce : BitVec 16) (epoch : BitVec 16) (rw : BitVec 2) (excl : BitVec 16)
  /-- EQ_DONE (R471). -/
  | eqDone (t : Nat) (port : BitVec 3)
  /-- TEST_END (R471). -/
  | testEnd (t : Nat) (port : BitVec 3) (lanes : List (Option Nat))
  /-- DECIDE_DONE (R474). -/
  | decideDone (t : Nat) (port : BitVec 3) (pass : BitVec 16) (width : BitVec 2) (lgrp : BitVec 2)
  /-- LOCK_DONE (R471). -/
  | lockDone (t : Nat) (port : BitVec 3)
  /-- IDENT (R476). -/
  | ident (t : Nat) (port : BitVec 3) (m : Msg)
  /-- TRAINING_TIMEOUT (R471). -/
  | trainingTimeout (t : Nat) (port : BitVec 3)
  /-- TRAINFAIL_RESET (R471). -/
  | trainfailReset (t : Nat) (port : BitVec 3)
  /-- FRAME_RECEIVE (R449). -/
  | frameReceive (t : Nat) (port : BitVec 3) (symbols : List Nat)
  /-- FLIT_RECEIVE (R465). -/
  | flitReceive (t : Nat) (port : BitVec 3) (flit : List Byte)
  /-- IDLE_SEND (R453). -/
  | idleSend (t : Nat) (port : BitVec 3)
  /-- IDLE_RECEIVE (R509). -/
  | idleReceive (t : Nat) (port : BitVec 3) (content : List Byte)
  /-- MESSAGE_FORWARD (R458). -/
  | messageForward (t : Nat) (port : BitVec 3) (m : Msg)
  /-- RDREQ (R501). -/
  | rdreq (t : Nat) (port : BitVec 3) (m : Msg) (ecc : List Ecc)
  /-- WRREQ (R501). -/
  | wrreq (t : Nat) (port : BitVec 3) (m : Msg) (ecc : List Ecc)
  /-- RDRSP (R483). -/
  | rdrsp (t : Nat) (port : BitVec 3) (m : Msg)
  /-- WRACK (R483). -/
  | wrack (t : Nat) (port : BitVec 3) (m : Msg)
  /-- RESPONSE_TIMEOUT (R483). -/
  | responseTimeout (t : Nat)
  /-- MGMT (R586). -/
  | mgmt (t : Nat) (port : BitVec 3) (m : Msg)
  /-- SID_SET (R507). -/
  | sidSet (value : BitVec 64)
  /-- PPS_PULSE (R507). -/
  | ppsPulse (t : Nat) (high : Nat)
  /-- REFERENCE_LOSS (R508). -/
  | referenceLoss (t : Nat) (edge : Bool)
  /-- MEASUREMENT_TIMEOUT (R512). -/
  | measurementTimeout (t : Nat)
  /-- HOLDOVER_LIMIT (R512). -/
  | holdoverLimit (t : Nat)
  /-- PPS_OUT (R513). -/
  | ppsOut (t : Nat)
  /-- RECLAIM_ORIGINATE (R535). -/
  | reclaimOriginate (fields : BitVec 64)
  /-- RECLAIM_CLEAR (R517). -/
  | reclaimClear
  /-- HOLD_NOTICE_ORIGINATE (R515). -/
  | holdNoticeOriginate
  /-- HOLD_NOTICE_CLEAR (R517). -/
  | holdNoticeClear
  /-- DRILL_CLOSE (R536). -/
  | drillClose (t : Nat)
  /-- PERMUTATION_LAUNCH (R536). -/
  | permutationLaunch (t : Nat)
  /-- PERMUTATION_COMPLETE (R532). -/
  | permutationComplete (t : Nat)
  /-- PERMUTATION_BUDGET (R536). -/
  | permutationBudget (t : Nat)
  /-- BANK_SWITCH (R500). -/
  | bankSwitch
  /-- REPORT_RECEIVE (R520). -/
  | reportReceive (t : Nat) (port : BitVec 3) (step : BitVec 32) (val : BitVec 2) (perm : Bool)
  /-- VERDICT_RECEIVE (R520). -/
  | verdictReceive (t : Nat) (step : BitVec 32) (val : BitVec 2) (perm : Bool)
  /-- CHILD_TIMEOUT (R521). -/
  | childTimeout (t : Nat) (port : BitVec 3)
  /-- COLLECTIVE_LAUNCH (R526). -/
  | collectiveLaunch (t : Nat)
  /-- COLL_ADD (R527). -/
  | collAdd (port : BitVec 3) (m : Msg)
  /-- COLL_WRITE (R527). -/
  | collWrite (port : BitVec 3) (m : Msg)
  /-- COLL_READY (R527). -/
  | collReady (port : BitVec 3) (m : Msg)
  /-- COLL_ACK (R527). -/
  | collAck (port : BitVec 3) (m : Msg)
  /-- PWRITE (R532). -/
  | pwrite (port : BitVec 3) (m : Msg)
  /-- PHASE_LANDED (R527). -/
  | phaseLanded (cid : BitVec 10)
  /-- COLLECTIVE_COMPLETE (R527). -/
  | collectiveComplete (cid : BitVec 10)
  /-- COLLECTIVE_TIMEOUT (R531). -/
  | collectiveTimeout (t : Nat) (cid : BitVec 10)
  /-- DOORBELL (R555). -/
  | doorbell (off : BitVec 20) (data : List Byte)
  /-- DESCRIPTOR_FETCH (R556). -/
  | descriptorFetch (t : Nat) (ring : BitVec 8) (desc : Option (List Byte))
  /-- OVERFLOW_RECORD_WRITE (R567). -/
  | overflowRecordWrite
  /-- MSIX_MODERATION (R568). -/
  | msixModeration (t : Nat) (ring : BitVec 8)
  /-- DATA_WAIT_TIMEOUT (R563). -/
  | dataWaitTimeout (t : Nat) (half : Half) (chan : BitVec 5)
  /-- FLR (R552). -/
  | flr (t : Nat)
  /-- SCRUB_GO (R572). -/
  | scrubGo (t : Nat)
  /-- SCRUB_COMPLETE (R572). -/
  | scrubComplete (t : Nat)
  /-- MCTP_PACKET (R583). -/
  | mctpPacket (t : Nat) (addr : BitVec 7) (data : List Byte)
  /-- PLDM_FIRMWARE_UPDATE (R585). -/
  | pldmFirmwareUpdate (t : Nat) (image : List Byte) (whole : Bool)
  /-- PLDM_STATE_CHANGE (R596). -/
  | pldmStateChange (t : Nat) (req : PldmReq) (boot : BootIn)
  /-- PKG_PWROK_RISE (R626). -/
  | pkgPwrokRise (t : Nat) (boot : BootIn)
  /-- PKG_PWROK_FALL (R626). -/
  | pkgPwrokFall (t : Nat)
  /-- PKG_RST_N_ASSERT (R626). -/
  | pkgRstNAssert (t : Nat)
  /-- PKG_RST_N_RELEASE (R628). -/
  | pkgRstNRelease (t : Nat) (boot : BootIn)
  /-- BRINGUP_COMPLETE (R628). -/
  | bringupComplete (t : Nat)
  /-- PERST_N (R626). -/
  | perstN (t : Nat)
  /-- TRST_N (R626). -/
  | trstN
  /-- VAUX_LOSS (R590). -/
  | vauxLoss (t : Nat)
  /-- PWR_RAILWARN (R589). -/
  | pwrRailwarn (t : Nat) (rail : BitVec 4) (mv : BitVec 16)
  /-- PWR_RAILFAULT (R589). -/
  | pwrRailfault (t : Nat) (rail : BitVec 4) (mv : BitVec 16) (absent : Bool)
  /-- CURRENT_INTERVAL (R591). -/
  | currentInterval (t : Nat) (ia : BitVec 16) (ib : BitVec 16) (est : List (Nat × Nat))
  /-- THROTTLE_SAMPLE (R614). -/
  | throttleSample (t : Nat) (asserted : Bool)
  /-- THROTTLE_STUCK (R615). -/
  | throttleStuck (t : Nat)
  /-- THROTTLE_CLEAR (R615). -/
  | throttleClear
  /-- THERMAL_FLOOR (R616). -/
  | thermalFloor (t : Nat) (temp : Nat)
  /-- POWER_CAP_INTERVAL (R617). -/
  | powerCapInterval (t : Nat) (watts : Nat)
  /-- THERMTRIP (R619). -/
  | thermtrip (t : Nat)
  /-- CLK_LOSS (R666). -/
  | clkLoss (t : Nat)
  /-- HOLD_REQUEST (R597). -/
  | holdRequest (t : Nat)
  /-- HOLD_ANSWER (R598). -/
  | holdAnswer (t : Nat) (code : BitVec 4) (inst : BitVec 3)
  /-- HOLD_ANSWER_TIMEOUT (R598). -/
  | holdAnswerTimeout (t : Nat) (code : BitVec 4) (inst : BitVec 3)
  /-- QUIESCE_DONE (R599). -/
  | quiesceDone (t : Nat)
  /-- HOLD_SAVE_DONE (R602). -/
  | holdSaveDone (t : Nat)
  /-- WAKE (R605). -/
  | wake
  /-- WAKE_TIMER (R605). -/
  | wakeTimer (t : Nat)
  /-- HOLD_EXIT_DONE (R604). -/
  | holdExitDone (t : Nat)
  /-- COLD_ENTRY (R608). -/
  | coldEntry (t : Nat)
  /-- PWR_BROWNOUT (R609). -/
  | pwrBrownout (t : Nat)
  /-- PWR_NVGUARD (R611). -/
  | pwrNvguard (t : Nat) (auxLow : Bool)
  /-- NV_GUARD_RELEASE (R611). -/
  | nvGuardRelease (t : Nat)
  /-- NV_WP_N (R660). -/
  | nvWpN (t : Nat) (low : Bool)
  /-- AUDIT_COMPARE (R637). -/
  | auditCompare (t : Nat)
  /-- AUDIT_RUN (R635). -/
  | auditRun
  /-- PAIR_CHECK (R638). -/
  | pairCheck (kind : BitVec 2) (index : BitVec 12) (value : BitVec 32)
  /-- CAPTURE_ARM (R643). -/
  | captureArm (t : Nat) (arm : Bool) (desc : BitVec 36)
  /-- CAPTURE_BASE_DONE (R644). -/
  | captureBaseDone (t : Nat)
  /-- REPLAY_GO (R647). -/
  | replayGo (t : Nat)
  /-- REPLAY_DELIVER (R648). -/
  | replayDeliver (t : Nat)
  /-- EXTEST (R639). -/
  | extest (t : Nat)
  /-- SAMPLE_PRELOAD (R639). -/
  | samplePreload
  /-- IDCODE (R640). -/
  | idcode
  /-- CLAMP (R639). -/
  | clamp (t : Nat)
  /-- HIGHZ (R639). -/
  | highz (t : Nat)
  /-- EXTEST_PULSE (R639). -/
  | extestPulse (t : Nat)
  /-- EXTEST_TRAIN (R639). -/
  | extestTrain (t : Nat)
  /-- IJTAG (R641). -/
  | ijtag (t : Nat) (sibs : BitVec 13) (intr : Bool)
  /-- BYPASS (R639). -/
  | bypass
  /-- FLIT_SEND (R463). -/
  | flitSend (t : Nat) (port : BitVec 3)
  /-- DATA_DESCRIPTOR_FETCH (R561). -/
  | dataDescriptorFetch (t : Nat) (ring : BitVec 8) (desc : Option (List Byte))
  /-- CHANNEL_TRAINING_LOSS (R398). -/
  | channelTrainingLoss (stack : BitVec 3) (ch : BitVec 5)
  /-- VAUX_RISE (R590). -/
  | vauxRise (t : Nat) (boot : BootIn)
  /-- RAIL_RECOVERY (R589). -/
  | railRecovery (t : Nat) (rail : BitVec 4)
  /-- PERST_N_RELEASE (R626). -/
  | perstNRelease
  /-- REFCLK_SERDES_LOSS (R666). -/
  | refclkSerdesLoss (t : Nat) (clock : BitVec 1)
  /-- REFCLK_PCIE_LOSS (R666). -/
  | refclkPcieLoss
  deriving DecidableEq, Repr

end Sys2Proof
end

