-- ==== Sys2Proof/Decode.lean ====
section
/-! DEFINITION. Words and operations: the slot ops of a bundle and the words that spell them (R48, R156, R216, R261,
R285, R327, R360, R425), and the command that a word of the opcode table spells. -/

namespace Sys2Proof

/-! ### Slot words -/

/-- The word of an op of the CAS slot of a terrace (R156). -/
def encodeCas : CasOp → BitVec 48
  | .lds umask desc buf epv => 1#4 ++ umask ++ desc ++ buf ++ epv ++ 0#24
  | .mm umask desc rowsm1 buf bt acm cmp gp pdt => 2#4 ++ umask ++ desc ++ rowsm1 ++ buf ++ bt ++ acm ++ cmp ++ gp ++ pdt ++ 0#11
  | .opa umask adesc bdesc rowsm1 bt acm cmp gp pdt => 3#4 ++ umask ++ adesc ++ bdesc ++ rowsm1 ++ bt ++ acm ++ cmp ++ gp ++ pdt ++ 0#2
  | .twf pmask gdesc xdesc rowsm1 buf ebt eacm obt oacm cmp => 4#4 ++ pmask ++ gdesc ++ xdesc ++ rowsm1 ++ buf ++ ebt ++ eacm ++ obt ++ oacm ++ cmp ++ 0#3
  | .bctl umask fn tmask => 5#4 ++ umask ++ fn ++ tmask ++ 0#28
  | .bin umask desc bt add => 6#4 ++ umask ++ desc ++ bt ++ add ++ 0#23
  | .bout umask desc bt rnd nfm gp => 7#4 ++ umask ++ desc ++ bt ++ rnd ++ nfm ++ gp ++ 0#20
  | .root umask desc nt pc nit gp => 8#4 ++ umask ++ desc ++ nt ++ pc ++ nit ++ gp ++ 0#16

/-- The op that a non-zero word of the CAS slot of a terrace names; `none` where the opcode is not in the table or a reserved
bit is 1 (R156); the all-zero word is the no-op (R34). -/
def decodeCas (w : BitVec 48) : Option CasOp :=
  match (w.extractLsb' 44 4).toNat with
  | 1 => if w.extractLsb' 0 24 = 0#24 then some (.lds (w.extractLsb' 36 8) (w.extractLsb' 26 10) (w.extractLsb' 25 1) (w.extractLsb' 24 1)) else none
  | 2 => if w.extractLsb' 0 11 = 0#11 then some (.mm (w.extractLsb' 36 8) (w.extractLsb' 26 10) (w.extractLsb' 19 7) (w.extractLsb' 18 1) (w.extractLsb' 16 2) (w.extractLsb' 14 2) (w.extractLsb' 13 1) (w.extractLsb' 12 1) (w.extractLsb' 11 1)) else none
  | 3 => if w.extractLsb' 0 2 = 0#2 then some (.opa (w.extractLsb' 36 8) (w.extractLsb' 26 10) (w.extractLsb' 16 10) (w.extractLsb' 9 7) (w.extractLsb' 7 2) (w.extractLsb' 5 2) (w.extractLsb' 4 1) (w.extractLsb' 3 1) (w.extractLsb' 2 1)) else none
  | 4 => if w.extractLsb' 0 3 = 0#3 then some (.twf (w.extractLsb' 40 4) (w.extractLsb' 30 10) (w.extractLsb' 20 10) (w.extractLsb' 13 7) (w.extractLsb' 12 1) (w.extractLsb' 10 2) (w.extractLsb' 8 2) (w.extractLsb' 6 2) (w.extractLsb' 4 2) (w.extractLsb' 3 1)) else none
  | 5 => if w.extractLsb' 0 28 = 0#28 then some (.bctl (w.extractLsb' 36 8) (w.extractLsb' 32 4) (w.extractLsb' 28 4)) else none
  | 6 => if w.extractLsb' 0 23 = 0#23 then some (.bin (w.extractLsb' 36 8) (w.extractLsb' 26 10) (w.extractLsb' 24 2) (w.extractLsb' 23 1)) else none
  | 7 => if w.extractLsb' 0 20 = 0#20 then some (.bout (w.extractLsb' 36 8) (w.extractLsb' 26 10) (w.extractLsb' 24 2) (w.extractLsb' 22 2) (w.extractLsb' 21 1) (w.extractLsb' 20 1)) else none
  | 8 => if w.extractLsb' 0 16 = 0#16 then some (.root (w.extractLsb' 36 8) (w.extractLsb' 26 10) (w.extractLsb' 24 2) (w.extractLsb' 22 2) (w.extractLsb' 17 5) (w.extractLsb' 16 1)) else none
  | _ => none

/-- The word of an op of the JET slot of a terrace (R216). -/
def encodeJet : JetOp → BitVec 40
  | .jld vd desc rg w rnd nfm => 1#5 ++ vd ++ desc ++ rg ++ w ++ rnd ++ nfm ++ 0#12
  | .jst vs desc rg w rnd nfm gp => 2#5 ++ vs ++ desc ++ rg ++ w ++ rnd ++ nfm ++ gp ++ 0#11
  | .alu vd va vb vc fn w gp => 3#5 ++ vd ++ va ++ vb ++ vc ++ fn ++ w ++ gp ++ 0#8
  | .cvt vd va ws wd rnd nfm gp => 4#5 ++ vd ++ va ++ ws ++ wd ++ rnd ++ nfm ++ gp ++ 0#17
  | .tab vd va tsel gp => 5#5 ++ vd ++ va ++ tsel ++ gp ++ 0#21
  | .der vd vx vg => 6#5 ++ vd ++ vx ++ vg ++ 0#20
  | .red va vb bank rg rk init gp => 7#5 ++ va ++ vb ++ bank ++ rg ++ rk ++ init ++ gp ++ 0#16
  | .rsr vd bank rg what => 8#5 ++ vd ++ bank ++ rg ++ what ++ 0#24
  | .rsld bank rg desc rk mrg gp => 9#5 ++ bank ++ rg ++ desc ++ rk ++ mrg ++ gp ++ 0#16
  | .rsst bank rg desc => 10#5 ++ bank ++ rg ++ desc ++ 0#20
  | .tld tgt desc => 11#5 ++ tgt ++ desc ++ 0#24
  | .tsum vd desc rg nb gp => 12#5 ++ vd ++ desc ++ rg ++ nb ++ gp ++ 0#12

/-- The op that a non-zero word of the JET slot of a terrace names; `none` where the opcode is not in the table or a reserved
bit is 1 (R216); the all-zero word is the no-op (R34). -/
def decodeJet (w : BitVec 40) : Option JetOp :=
  match (w.extractLsb' 35 5).toNat with
  | 1 => if w.extractLsb' 0 12 = 0#12 then some (.jld (w.extractLsb' 30 5) (w.extractLsb' 20 10) (w.extractLsb' 17 3) (w.extractLsb' 15 2) (w.extractLsb' 13 2) (w.extractLsb' 12 1)) else none
  | 2 => if w.extractLsb' 0 11 = 0#11 then some (.jst (w.extractLsb' 30 5) (w.extractLsb' 20 10) (w.extractLsb' 17 3) (w.extractLsb' 15 2) (w.extractLsb' 13 2) (w.extractLsb' 12 1) (w.extractLsb' 11 1)) else none
  | 3 => if w.extractLsb' 0 8 = 0#8 then some (.alu (w.extractLsb' 30 5) (w.extractLsb' 25 5) (w.extractLsb' 20 5) (w.extractLsb' 15 5) (w.extractLsb' 11 4) (w.extractLsb' 9 2) (w.extractLsb' 8 1)) else none
  | 4 => if w.extractLsb' 0 17 = 0#17 then some (.cvt (w.extractLsb' 30 5) (w.extractLsb' 25 5) (w.extractLsb' 23 2) (w.extractLsb' 21 2) (w.extractLsb' 19 2) (w.extractLsb' 18 1) (w.extractLsb' 17 1)) else none
  | 5 => if w.extractLsb' 0 21 = 0#21 then some (.tab (w.extractLsb' 30 5) (w.extractLsb' 25 5) (w.extractLsb' 22 3) (w.extractLsb' 21 1)) else none
  | 6 => if w.extractLsb' 0 20 = 0#20 then some (.der (w.extractLsb' 30 5) (w.extractLsb' 25 5) (w.extractLsb' 20 5)) else none
  | 7 => if w.extractLsb' 0 16 = 0#16 then some (.red (w.extractLsb' 30 5) (w.extractLsb' 25 5) (w.extractLsb' 23 2) (w.extractLsb' 20 3) (w.extractLsb' 18 2) (w.extractLsb' 17 1) (w.extractLsb' 16 1)) else none
  | 8 => if w.extractLsb' 0 24 = 0#24 then some (.rsr (w.extractLsb' 30 5) (w.extractLsb' 28 2) (w.extractLsb' 25 3) (w.extractLsb' 24 1)) else none
  | 9 => if w.extractLsb' 0 16 = 0#16 then some (.rsld (w.extractLsb' 33 2) (w.extractLsb' 30 3) (w.extractLsb' 20 10) (w.extractLsb' 18 2) (w.extractLsb' 17 1) (w.extractLsb' 16 1)) else none
  | 10 => if w.extractLsb' 0 20 = 0#20 then some (.rsst (w.extractLsb' 33 2) (w.extractLsb' 30 3) (w.extractLsb' 20 10)) else none
  | 11 => if w.extractLsb' 0 24 = 0#24 then some (.tld (w.extractLsb' 34 1) (w.extractLsb' 24 10)) else none
  | 12 => if w.extractLsb' 0 12 = 0#12 then some (.tsum (w.extractLsb' 30 5) (w.extractLsb' 20 10) (w.extractLsb' 17 3) (w.extractLsb' 13 4) (w.extractLsb' 12 1)) else none
  | _ => none

/-- The word of an op of the RIL slot (R261). -/
def encodeRil : RilOp → BitVec 48
  | .send rill desc hsrc hm first last => 1#4 ++ rill ++ desc ++ hsrc ++ hm ++ first ++ last ++ 0#7
  | .commit rill hsrc hm first last => 2#4 ++ rill ++ 0#10 ++ hsrc ++ hm ++ first ++ last ++ 0#7
  | .release rill cnt => 3#4 ++ rill ++ cnt ++ 0#24

/-- The op that a non-zero word of the RIL slot names; `none` where the opcode is not in the table or a reserved
bit is 1 (R261); the all-zero word is the no-op (R34). -/
def decodeRil (w : BitVec 48) : Option RilOp :=
  match (w.extractLsb' 44 4).toNat with
  | 1 => if w.extractLsb' 0 7 = 0#7 then some (.send (w.extractLsb' 32 12) (w.extractLsb' 22 10) (w.extractLsb' 10 12) (w.extractLsb' 9 1) (w.extractLsb' 8 1) (w.extractLsb' 7 1)) else none
  | 2 => if w.extractLsb' 22 10 = 0#10 ∧ w.extractLsb' 0 7 = 0#7 then some (.commit (w.extractLsb' 32 12) (w.extractLsb' 10 12) (w.extractLsb' 9 1) (w.extractLsb' 8 1) (w.extractLsb' 7 1)) else none
  | 3 => if w.extractLsb' 0 24 = 0#24 then some (.release (w.extractLsb' 32 12) (w.extractLsb' 24 8)) else none
  | _ => none

/-- The word of an op of the EPH slot (R285). -/
def encodeEph : EphOp → BitVec 16
  | .res desc => 1#3 ++ desc ++ 0#3
  | .hold desc => 2#3 ++ desc ++ 0#3
  | .drop desc => 3#3 ++ desc ++ 0#3
  | .lag arg => 4#3 ++ 0#10 ++ arg
  | .floor k => 5#3 ++ 0#10 ++ k

/-- The op that a non-zero word of the EPH slot names; `none` where the opcode is not in the table or a reserved
bit is 1 (R285); the all-zero word is the no-op (R34). -/
def decodeEph (w : BitVec 16) : Option EphOp :=
  match (w.extractLsb' 13 3).toNat with
  | 1 => if w.extractLsb' 0 3 = 0#3 then some (.res (w.extractLsb' 3 10)) else none
  | 2 => if w.extractLsb' 0 3 = 0#3 then some (.hold (w.extractLsb' 3 10)) else none
  | 3 => if w.extractLsb' 0 3 = 0#3 then some (.drop (w.extractLsb' 3 10)) else none
  | 4 => if w.extractLsb' 3 10 = 0#10 then some (.lag (w.extractLsb' 0 3)) else none
  | 5 => if w.extractLsb' 3 10 = 0#10 then some (.floor (w.extractLsb' 0 3)) else none
  | _ => none

/-- The word of an op of the WEI slot (R327). -/
def encodeWei : WeiOp → BitVec 32
  | .upd weir desc sel span0 => 1#4 ++ weir ++ desc ++ sel ++ span0
  | .clrm weir desc sel span0 => 2#4 ++ weir ++ desc ++ sel ++ span0

/-- The op that a non-zero word of the WEI slot names; `none` where the opcode is not in the table or a reserved
bit is 1 (R327); the all-zero word is the no-op (R34). -/
def decodeWei (w : BitVec 32) : Option WeiOp :=
  match (w.extractLsb' 28 4).toNat with
  | 1 => some (.upd (w.extractLsb' 26 2) (w.extractLsb' 16 10) (w.extractLsb' 12 4) (w.extractLsb' 0 12))
  | 2 => some (.clrm (w.extractLsb' 26 2) (w.extractLsb' 16 10) (w.extractLsb' 12 4) (w.extractLsb' 0 12))
  | _ => none

/-- The word of an op of the AST slot (R360). -/
def encodeAst : AstOp → BitVec 16
  | .snap => 1#4 ++ 0#12
  | .gnopen acc => 2#4 ++ 0#8 ++ acc
  | .gnwr acc => 3#4 ++ 0#8 ++ acc
  | .gnrec acc => 4#4 ++ 0#8 ++ acc
  | .sforce terr => 5#4 ++ 0#9 ++ terr

/-- The op that a non-zero word of the AST slot names; `none` where the opcode is not in the table or a reserved
bit is 1 (R360); the all-zero word is the no-op (R34). -/
def decodeAst (w : BitVec 16) : Option AstOp :=
  match (w.extractLsb' 12 4).toNat with
  | 1 => if w.extractLsb' 0 12 = 0#12 then some (.snap) else none
  | 2 => if w.extractLsb' 4 8 = 0#8 then some (.gnopen (w.extractLsb' 0 4)) else none
  | 3 => if w.extractLsb' 4 8 = 0#8 then some (.gnwr (w.extractLsb' 0 4)) else none
  | 4 => if w.extractLsb' 4 8 = 0#8 then some (.gnrec (w.extractLsb' 0 4)) else none
  | 5 => if w.extractLsb' 3 9 = 0#9 then some (.sforce (w.extractLsb' 0 3)) else none
  | _ => none

/-- The word of an op of the AQD slot (R425). -/
def encodeAqd : AqdOp → BitVec 40
  | .xfer chan desc eps epd gp note => 1#4 ++ chan ++ desc ++ eps ++ epd ++ gp ++ note ++ 0#17

/-- The op that a non-zero word of the AQD slot names; `none` where the opcode is not in the table or a reserved
bit is 1 (R425); the all-zero word is the no-op (R34). -/
def decodeAqd (w : BitVec 40) : Option AqdOp :=
  match (w.extractLsb' 36 4).toNat with
  | 1 => if w.extractLsb' 0 17 = 0#17 then some (.xfer (w.extractLsb' 31 5) (w.extractLsb' 21 10) (w.extractLsb' 20 1) (w.extractLsb' 19 1) (w.extractLsb' 18 1) (w.extractLsb' 17 1)) else none
  | _ => none

/-- The word of an op of the CTL slot (R48). -/
def encodeCtl : CtlOp → BitVec 64
  | .nop => 0#64
  | .loop count len => 1#6 ++ 0#8 ++ count ++ 0#6 ++ len
  | .br target => 2#6 ++ 0#30 ++ target
  | .brc ix cmp imm target => 3#6 ++ ix ++ cmp ++ imm ++ 0#1 ++ target
  | .call target => 4#6 ++ 0#30 ++ target
  | .ret => 5#6 ++ 0#58
  | .awaitr kind rill thresh => 8#6 ++ kind ++ 0#1 ++ rill ++ 0#28 ++ thresh
  | .awaita chan limit => 9#6 ++ 0#37 ++ chan ++ 0#8 ++ limit
  | .awaitq ring => 10#6 ++ 0#50 ++ ring
  | .sida time => 12#6 ++ 0#2 ++ time
  | .sidr offset => 13#6 ++ 0#26 ++ offset
  | .delay cycles => 14#6 ++ 0#34 ++ cycles
  | .stepb t0src => 16#6 ++ t0src ++ 0#57
  | .verd => 17#6 ++ 0#58
  | .fork desc => 24#6 ++ 0#50 ++ desc
  | .join => 25#6 ++ 0#58
  | .page mode page => 32#6 ++ mode ++ 0#39 ++ page
  | .trap stop code => 56#6 ++ stop ++ 0#41 ++ code
  | .halt code => 63#6 ++ 0#42 ++ code

/-- The op that a word of the CTL slot names; `none` where the opcode is not in the table or a reserved
bit is 1 (R49). -/
def decodeCtl (w : BitVec 64) : Option CtlOp :=
  match (w.extractLsb' 58 6).toNat with
  | 0 => if w.extractLsb' 0 58 = 0#58 then some .nop else none
  | 1 => if w.extractLsb' 50 8 = 0#8 ∧ w.extractLsb' 20 6 = 0#6 then some (.loop (w.extractLsb' 26 24) (w.extractLsb' 0 20)) else none
  | 2 => if w.extractLsb' 28 30 = 0#30 then some (.br (w.extractLsb' 0 28)) else none
  | 3 => if w.extractLsb' 28 1 = 0#1 then some (.brc (w.extractLsb' 55 3) (w.extractLsb' 53 2) (w.extractLsb' 29 24) (w.extractLsb' 0 28)) else none
  | 4 => if w.extractLsb' 28 30 = 0#30 then some (.call (w.extractLsb' 0 28)) else none
  | 5 => if w.extractLsb' 0 58 = 0#58 then some (.ret) else none
  | 8 => if w.extractLsb' 56 1 = 0#1 ∧ w.extractLsb' 16 28 = 0#28 then some (.awaitr (w.extractLsb' 57 1) (w.extractLsb' 44 12) (w.extractLsb' 0 16)) else none
  | 9 => if w.extractLsb' 21 37 = 0#37 ∧ w.extractLsb' 8 8 = 0#8 then some (.awaita (w.extractLsb' 16 5) (w.extractLsb' 0 8)) else none
  | 10 => if w.extractLsb' 8 50 = 0#50 then some (.awaitq (w.extractLsb' 0 8)) else none
  | 12 => if w.extractLsb' 56 2 = 0#2 then some (.sida (w.extractLsb' 0 56)) else none
  | 13 => if w.extractLsb' 32 26 = 0#26 then some (.sidr (w.extractLsb' 0 32)) else none
  | 14 => if w.extractLsb' 24 34 = 0#34 then some (.delay (w.extractLsb' 0 24)) else none
  | 16 => if w.extractLsb' 0 57 = 0#57 then some (.stepb (w.extractLsb' 57 1)) else none
  | 17 => if w.extractLsb' 0 58 = 0#58 then some (.verd) else none
  | 24 => if w.extractLsb' 8 50 = 0#50 then some (.fork (w.extractLsb' 0 8)) else none
  | 25 => if w.extractLsb' 0 58 = 0#58 then some (.join) else none
  | 32 => if w.extractLsb' 17 39 = 0#39 then some (.page (w.extractLsb' 56 2) (w.extractLsb' 0 17)) else none
  | 56 => if w.extractLsb' 16 41 = 0#41 then some (.trap (w.extractLsb' 57 1) (w.extractLsb' 0 16)) else none
  | 63 => if w.extractLsb' 16 42 = 0#42 then some (.halt (w.extractLsb' 0 16)) else none
  | _ => none

/-- The command a word spells by the opcode table's bits. The table gives no row any bits, so no word spells one. -/
def decodeTableWord (_nbits _w : Nat) : Option Instr := none

end Sys2Proof
end

