-- ==== Sys2Proof/Machine/Regs.lean ====
section
/-! DEFINITION. The register map: where each register lies in BAR0 (R550, R551 and each chapter's register table),
its reset value, which bits a write stores (RW) and which a 1 clears (W1C), and the places of its fields.
`A` holds addresses, `F` fields; both keep the spec's own names. Written from the register tables of spec/. -/

namespace Sys2Proof.Machine

/-! The BAR0 offset of each register (R550, R551). A half's register takes the half `h` (0 or 1), an element of an
array its index `n`; a Hermen port register takes its port. `GCNT_` names the package counters (R364). -/
namespace A
def SEQ_CTL (h : Nat) : Nat := (h + 1) * 0x1000000 + 0x0
def SEQ_STS (h : Nat) : Nat := (h + 1) * 0x1000000 + 0x8
def SEQ_ENTRY (h : Nat) : Nat := (h + 1) * 0x1000000 + 0x10
def SEQ_SPC (h : Nat) : Nat := (h + 1) * 0x1000000 + 0x18
def SEQ_SSPC (h : Nat) : Nat := (h + 1) * 0x1000000 + 0x20
def SEQ_IMG (h : Nat) : Nat := (h + 1) * 0x1000000 + 0x28
def SEQ_FDT (h : Nat) : Nat := (h + 1) * 0x1000000 + 0x30
def SEQ_PGCTL (h : Nat) : Nat := (h + 1) * 0x1000000 + 0x38
def SEQ_GAP (h : Nat) : Nat := (h + 1) * 0x1000000 + 0x40
def SEQ_WDOG (h : Nat) : Nat := (h + 1) * 0x1000000 + 0x48
def SEQ_SIDLIM (h : Nat) : Nat := (h + 1) * 0x1000000 + 0x50
def SEQ_STEP (h : Nat) : Nat := (h + 1) * 0x1000000 + 0x58
def SEQ_T0 (h : Nat) : Nat := (h + 1) * 0x1000000 + 0x60
def CAS_CTL (h : Nat) : Nat := (h + 1) * 0x1000000 + 0x100000
def CAS_STS (h : Nat) : Nat := (h + 1) * 0x1000000 + 0x100008
def CAS_CAT (h : Nat) : Nat := (h + 1) * 0x1000000 + 0x100010
def CAS_LADR (h n : Nat) : Nat := (h + 1) * 0x1000000 + 0x100100 + 0x8 * n
def CAS_BSTS (h n : Nat) : Nat := (h + 1) * 0x1000000 + 0x100400 + 0x8 * n
def JET_CTL (h : Nat) : Nat := (h + 1) * 0x1000000 + 0x200000
def JET_STS (h : Nat) : Nat := (h + 1) * 0x1000000 + 0x200008
def JET_JAT (h : Nat) : Nat := (h + 1) * 0x1000000 + 0x200010
def JET_TID (h n : Nat) : Nat := (h + 1) * 0x1000000 + 0x200100 + 0x8 * n
def RIL_STS : Nat := 0x800000
def RIL_TMO : Nat := 0x800008
def RIL_RATA : Nat := 0x800010
def RIL_RATB : Nat := 0x800018
def RIL_SUM : Nat := 0x800020
def RIL_CCTL (n : Nat) : Nat := 0x810000 + 0x40 * n
def RIL_CSTS (n : Nat) : Nat := 0x810008 + 0x40 * n
def RIL_RING (n : Nat) : Nat := 0x810010 + 0x40 * n
def RIL_PEER (n : Nat) : Nat := 0x810018 + 0x40 * n
def RIL_CNTA (n : Nat) : Nat := 0x810020 + 0x40 * n
def RIL_CNTB (n : Nat) : Nat := 0x810028 + 0x40 * n
def RIL_CNTC (n : Nat) : Nat := 0x810030 + 0x40 * n
def RIL_GEN (n : Nat) : Nat := 0x810038 + 0x40 * n
def EPH_CTL : Nat := 0xA00000
def EPH_STS : Nat := 0xA00008
def EPH_CFG : Nat := 0xA00010
def EPH_TAG : Nat := 0xA00018
def EPH_ERTA : Nat := 0xA00020
def EPH_ERTB : Nat := 0xA00028
def EPH_HOLDS : Nat := 0xA00030
def EPH_DROPS : Nat := 0xA00038
def EPH_CLEARED : Nat := 0xA00040
def EPH_ENT (n : Nat) : Nat := 0xA10000 + 0x8 * n
def EPH_SLOT (n : Nat) : Nat := 0xA20000 + 0x8 * n
def WEI_CTL (h : Nat) : Nat := (h + 1) * 0x1000000 + 0x600000
def WEI_STS (h : Nat) : Nat := (h + 1) * 0x1000000 + 0x600008
def WEI_WST (h : Nat) : Nat := (h + 1) * 0x1000000 + 0x600010
def WEI_SEED (h : Nat) : Nat := (h + 1) * 0x1000000 + 0x600018
def WEI_TMO (h : Nat) : Nat := (h + 1) * 0x1000000 + 0x600020
def WEI_SPA (h : Nat) : Nat := (h + 1) * 0x1000000 + 0x600028
def WEI_SPB (h : Nat) : Nat := (h + 1) * 0x1000000 + 0x600030
def WEI_BW (h n : Nat) : Nat := (h + 1) * 0x1000000 + 0x600040 + 0x8 * n
def WEI_BWUSED (h n : Nat) : Nat := (h + 1) * 0x1000000 + 0x600060 + 0x8 * n
def WEI_WSTS (h n : Nat) : Nat := (h + 1) * 0x1000000 + 0x600080 + 0x8 * n
def WEI_RULE0 (h n : Nat) : Nat := (h + 1) * 0x1000000 + 0x600400 + 0x40 * n
def WEI_RULE1 (h n : Nat) : Nat := (h + 1) * 0x1000000 + 0x600408 + 0x40 * n
def WEI_RULE2 (h n : Nat) : Nat := (h + 1) * 0x1000000 + 0x600410 + 0x40 * n
def WEI_RULE3 (h n : Nat) : Nat := (h + 1) * 0x1000000 + 0x600418 + 0x40 * n
def WEI_RULE4 (h n : Nat) : Nat := (h + 1) * 0x1000000 + 0x600420 + 0x40 * n
def WEI_RULE5 (h n : Nat) : Nat := (h + 1) * 0x1000000 + 0x600428 + 0x40 * n
def WEI_RULE6 (h n : Nat) : Nat := (h + 1) * 0x1000000 + 0x600430 + 0x40 * n
def WEI_RULE7 (h n : Nat) : Nat := (h + 1) * 0x1000000 + 0x600438 + 0x40 * n
def WEI_BUILD (n : Nat) : Nat := 0x1610000 + 0x8 * n
def CNT_CTL (h : Nat) : Nat := (h + 1) * 0x1000000 + 0x900000
def CNT_SEL (h n : Nat) : Nat := (h + 1) * 0x1000000 + 0x900100 + 0x8 * n
def CNT_VAL (h n : Nat) : Nat := (h + 1) * 0x1000000 + 0x900400 + 0x8 * n
def AST_CTL (h : Nat) : Nat := (h + 1) * 0x1000000 + 0x800000
def AST_STS (h : Nat) : Nat := (h + 1) * 0x1000000 + 0x800008
def AST_UWR (h : Nat) : Nat := (h + 1) * 0x1000000 + 0x800010
def AST_SMP (h : Nat) : Nat := (h + 1) * 0x1000000 + 0x800018
def AST_SHD (h : Nat) : Nat := (h + 1) * 0x1000000 + 0x800020
def AST_GNOUT : Nat := 0x1800028
def AST_PSN (h : Nat) : Nat := (h + 1) * 0x1000000 + 0x800030
def AST_BANK0 (h : Nat) : Nat := (h + 1) * 0x1000000 + 0x800038
def AST_BANK1 (h : Nat) : Nat := (h + 1) * 0x1000000 + 0x800040
def SHD_STS (h : Nat) : Nat := (h + 1) * 0x1000000 + 0x180000
def SHD_CNT (h : Nat) : Nat := (h + 1) * 0x1000000 + 0x180008
def SHD_MIS (h : Nat) : Nat := (h + 1) * 0x1000000 + 0x180010
def RVR_ERR (h : Nat) : Nat := (h + 1) * 0x1000000 + 0x300000
def RVR_ECC (h n : Nat) : Nat := (h + 1) * 0x1000000 + 0x300100 + 0x8 * n
def POL_CTL (h : Nat) : Nat := (h + 1) * 0x1000000 + 0x400000
def POL_STS (h : Nat) : Nat := (h + 1) * 0x1000000 + 0x400008
def POL_ECC (h : Nat) : Nat := (h + 1) * 0x1000000 + 0x400010
def POL_ERR (h : Nat) : Nat := (h + 1) * 0x1000000 + 0x400018
def STK_CAP (h n : Nat) : Nat := (h + 1) * 0x1000000 + 0x500000 + 0x8 * n
def STK_TOTAL (h : Nat) : Nat := (h + 1) * 0x1000000 + 0x500020
def STK_ECC (h n : Nat) : Nat := (h + 1) * 0x1000000 + 0x500040 + 0x8 * n
def STK_ERR (h : Nat) : Nat := (h + 1) * 0x1000000 + 0x500060
def STK_SCRUB (h : Nat) : Nat := (h + 1) * 0x1000000 + 0x500068
def STK_RMP (h : Nat) : Nat := (h + 1) * 0x1000000 + 0x500070
def STK_RMPSTS (h n : Nat) : Nat := (h + 1) * 0x1000000 + 0x500080 + 0x8 * n
def BRG_STS : Nat := 0xC00000
def BRG_CFG : Nat := 0xC00008
def BRG_CNT : Nat := 0xC00010
def AQD_STS (h : Nat) : Nat := (h + 1) * 0x1000000 + 0x700000
def AQD_ADT (h : Nat) : Nat := (h + 1) * 0x1000000 + 0x700008
def AQD_TMO (h : Nat) : Nat := (h + 1) * 0x1000000 + 0x700010
def AQD_SUM (h : Nat) : Nat := (h + 1) * 0x1000000 + 0x700018
def AQD_CHCTL (h n : Nat) : Nat := (h + 1) * 0x1000000 + 0x701000 + 0x20 * n
def AQD_CHSTS (h n : Nat) : Nat := (h + 1) * 0x1000000 + 0x701008 + 0x20 * n
def AQD_CHCNTA (h n : Nat) : Nat := (h + 1) * 0x1000000 + 0x701010 + 0x20 * n
def AQD_CHCNTB (h n : Nat) : Nat := (h + 1) * 0x1000000 + 0x701018 + 0x20 * n
def HRM_PCTL (n : Nat) : Nat := 0x600000 + 0x20000 * n
def HRM_PSTS (n : Nat) : Nat := 0x600008 + 0x20000 * n
def HRM_EPOCH (n : Nat) : Nat := 0x600010 + 0x20000 * n
def HRM_LANE (n : Nat) : Nat := 0x600018 + 0x20000 * n
def HRM_CFG (n : Nat) : Nat := 0x600020 + 0x20000 * n
def HRM_VCBUF (n : Nat) : Nat := 0x600028 + 0x20000 * n
def HRM_PARB (n : Nat) : Nat := 0x600030 + 0x20000 * n
def HRM_PEERA (n : Nat) : Nat := 0x600040 + 0x20000 * n
def HRM_PEERB (n : Nat) : Nat := 0x600048 + 0x20000 * n
def HRM_PEERC (n : Nat) : Nat := 0x600050 + 0x20000 * n
def HRM_VCCRED (p v : Nat) : Nat := 0x600060 + 0x20000 * p + 8 * v
def HRM_RPL (n : Nat) : Nat := 0x600090 + 0x20000 * n
def HRM_ERRCNT (n : Nat) : Nat := 0x600098 + 0x20000 * n
def HRM_DROPCNT (n : Nat) : Nat := 0x6000A0 + 0x20000 * n
def SID_CTL : Nat := 0x500000
def SID_STS : Nat := 0x500008
def SID_TIME : Nat := 0x500010
def SID_SET : Nat := 0x500018
def SID_MEAS : Nat := 0x500020
def SID_CFG : Nat := 0x500028
def SID_SLICE : Nat := 0x500030
def SID_STEP : Nat := 0x500038
def SID_FLAGS : Nat := 0x500040
def SID_RCLM : Nat := 0x500048
def SID_RCLMT : Nat := 0x500050
def SID_HOLDN : Nat := 0x500058
def SID_RCFG : Nat := 0x500060
def SID_VTREE (n : Nat) : Nat := 0x500068 + 0x8 * n
def SID_VSTS : Nat := 0x500078
def SID_RBANK : Nat := 0x500080
def COL_CTL : Nat := 0x500088
def COL_STS : Nat := 0x500090
def COL_CLT : Nat := 0x500098
def COL_PERM : Nat := 0x5000A0
def COL_PRX : Nat := 0x5000A8
def COL_CFG : Nat := 0x5000B0
def HST_STS : Nat := 0x100000
def HST_EVROUTE : Nat := 0x100008
def HST_CFG : Nat := 0x100010
def HST_OVF : Nat := 0x100018
def HST_RBASE (n : Nat) : Nat := 0x110000 + 0x40 * n
def HST_RCFG (n : Nat) : Nat := 0x110008 + 0x40 * n
def HST_RDLV (n : Nat) : Nat := 0x110010 + 0x40 * n
def HST_RWB (n : Nat) : Nat := 0x110018 + 0x40 * n
def HST_RSTS (n : Nat) : Nat := 0x110020 + 0x40 * n
def HST_RIDX (n : Nat) : Nat := 0x110028 + 0x40 * n
def GLB_ID : Nat := 0x0
def GLB_CHIP : Nat := 0x8
def GLB_CAP : Nat := 0x10
def GLB_ERRSUM : Nat := 0x18
def GLB_ALERT : Nat := 0x20
def GLB_SCRUB : Nat := 0x28
def GLB_DBGWIN : Nat := 0x30
def GLB_FATAL (n : Nat) : Nat := 0x40 + 0x8 * n
def PWR_STS : Nat := 0x200000
def PWR_HCTL : Nat := 0x200008
def PWR_HSTS : Nat := 0x200010
def PWR_WAKE : Nat := 0x200018
def PWR_WAKET : Nat := 0x200020
def PWR_ACCT : Nat := 0x200028
def PWR_RAMP : Nat := 0x200030
def PWR_THR : Nat := 0x200038
def PWR_FLOOR : Nat := 0x200040
def PWR_MON : Nat := 0x200048
def PWR_SUP : Nat := 0x200050
def TST_STS : Nat := 0x400000
def TST_BOOT : Nat := 0x400008
def TST_AUDCTL : Nat := 0x400010
def TST_AUDSTS : Nat := 0x400018
def TST_PAIR : Nat := 0x400020
def TST_CAP : Nat := 0x400028
def TST_CAPSTS : Nat := 0x400030
def TST_RPL : Nat := 0x400038
def GCNT_CTL : Nat := 0x8000
def GCNT_SEL (n : Nat) : Nat := 0x8100 + 0x8 * n
def GCNT_VAL (n : Nat) : Nat := 0x8400 + 0x8 * n
def SID_MEMB (n : Nat) : Nat := 0x501000 + 0x8 * n
def SID_RTAB (n : Nat) : Nat := 0x510000 + 0x8 * n

end A

/-! The bit ranges of the registers' fields. -/
namespace F

/-- The common fields of R23 and R24. -/
def EN : Fld := ⟨0, 0⟩
def RUNGEN : Fld := ⟨31, 16⟩
def DRAINED : Fld := ⟨4, 4⟩
def PEND : Fld := ⟨2, 2⟩
def STATE : Fld := ⟨1, 0⟩
def EXC : Fld := ⟨47, 40⟩
def SEQ_CTL_LATEREC : Fld := ⟨1, 1⟩
def SEQ_CTL_EN : Fld := ⟨0, 0⟩
def SEQ_STS_CODE : Fld := ⟨63, 48⟩
def SEQ_STS_EXC : Fld := ⟨47, 40⟩
def SEQ_STS_STEPOPEN : Fld := ⟨35, 35⟩
def SEQ_STS_STRANDS : Fld := ⟨34, 32⟩
def SEQ_ENTRY_ADDR : Fld := ⟨27, 0⟩
def SEQ_SPC_SPC : Fld := ⟨27, 0⟩
def SEQ_SSPC_BSPC : Fld := ⟨59, 32⟩
def SEQ_SSPC_ASPC : Fld := ⟨27, 0⟩
def SEQ_IMG_NPAGE : Fld := ⟨63, 47⟩
def SEQ_IMG_BASE : Fld := ⟨41, 18⟩
def SEQ_FDT_NDESC : Fld := ⟨55, 48⟩
def SEQ_FDT_BASE : Fld := ⟨41, 14⟩
def SEQ_PGCTL_PINNED : Fld := ⟨12, 8⟩
def SEQ_PGCTL_AHEAD : Fld := ⟨3, 0⟩
def SEQ_GAP_EFF : Fld := ⟨19, 16⟩
def SEQ_GAP_PWR : Fld := ⟨11, 8⟩
def SEQ_GAP_FLOOR : Fld := ⟨3, 0⟩
def SEQ_WDOG_LIMIT : Fld := ⟨31, 0⟩
def SEQ_SIDLIM_LATE : Fld := ⟨31, 0⟩
def SEQ_STEP_ADDR : Fld := ⟨59, 32⟩
def SEQ_STEP_CUR : Fld := ⟨31, 0⟩
def SEQ_T0_T0 : Fld := ⟨63, 0⟩
def CAS_CTL_EN : Fld := ⟨0, 0⟩
def CAS_STS_UNIT : Fld := ⟨53, 51⟩
def CAS_STS_TERR : Fld := ⟨50, 48⟩
def CAS_STS_EXC : Fld := ⟨47, 40⟩
def CAS_CAT_NENT : Fld := ⟨57, 48⟩
def CAS_CAT_BASE : Fld := ⟨41, 15⟩
def CAS_LADR_NLEV : Fld := ⟨51, 48⟩
def CAS_LADR_BASE : Fld := ⟨41, 17⟩
def CAS_BSTS_LTOP : Fld := ⟨23, 16⟩
def CAS_BSTS_SBUF : Fld := ⟨11, 8⟩
def CAS_BSTS_TILE : Fld := ⟨7, 0⟩
def JET_CTL_EN : Fld := ⟨0, 0⟩
def JET_STS_TERR : Fld := ⟨50, 48⟩
def JET_STS_EXC : Fld := ⟨47, 40⟩
def JET_JAT_NENT : Fld := ⟨57, 48⟩
def JET_JAT_BASE : Fld := ⟨41, 15⟩
def JET_TID_DID : Fld := ⟨63, 32⟩
def JET_TID_FID : Fld := ⟨31, 0⟩
def RIL_STS_CTX : Fld := ⟨59, 48⟩
def RIL_STS_EXC : Fld := ⟨47, 40⟩
def RIL_TMO_STALL : Fld := ⟨63, 32⟩
def RIL_TMO_DRAIN : Fld := ⟨15, 0⟩
def RIL_RATA_NENT : Fld := ⟨57, 48⟩
def RIL_RATA_BASE : Fld := ⟨41, 15⟩
def RIL_RATB_NENT : Fld := ⟨57, 48⟩
def RIL_RATB_BASE : Fld := ⟨41, 15⟩
def RIL_SUM_DRAINING : Fld := ⟨28, 16⟩
def RIL_SUM_RUNNING : Fld := ⟨12, 0⟩
def RIL_CCTL_LOGSZ : Fld := ⟨33, 29⟩
def RIL_CCTL_LOGN : Fld := ⟨28, 25⟩
def RIL_CCTL_SDEPTH : Fld := ⟨24, 17⟩
def RIL_CCTL_DIR : Fld := ⟨16, 16⟩
def RIL_CCTL_STAGE : Fld := ⟨15, 6⟩
def RIL_CCTL_KIND : Fld := ⟨2, 1⟩
def RIL_CCTL_EN : Fld := ⟨0, 0⟩
def RIL_CSTS_OPENPEND : Fld := ⟨49, 49⟩
def RIL_CSTS_BOUND : Fld := ⟨48, 48⟩
def RIL_CSTS_EXC : Fld := ⟨47, 40⟩
def RIL_CSTS_STALE : Fld := ⟨39, 32⟩
def RIL_RING_BASE : Fld := ⟨41, 6⟩
def RIL_PEER_PORT : Fld := ⟨34, 32⟩
def RIL_PEER_RILL : Fld := ⟨27, 16⟩
def RIL_PEER_CHIP : Fld := ⟨13, 0⟩
def RIL_CNTA_CONS : Fld := ⟨63, 32⟩
def RIL_CNTA_PROD : Fld := ⟨31, 0⟩
def RIL_CNTB_ISSUED : Fld := ⟨63, 32⟩
def RIL_CNTB_FREED : Fld := ⟨31, 0⟩
def RIL_CNTC_GRANT : Fld := ⟨63, 32⟩
def RIL_CNTC_DONE : Fld := ⟨31, 0⟩
def RIL_GEN_REPOCH : Fld := ⟨63, 48⟩
def RIL_GEN_SLABNEXT : Fld := ⟨39, 24⟩
def RIL_GEN_MBNEXT : Fld := ⟨23, 0⟩
def EPH_CTL_EN : Fld := ⟨0, 0⟩
def EPH_STS_SLOT : Fld := ⟨61, 59⟩
def EPH_STS_ENTRY : Fld := ⟨58, 48⟩
def EPH_STS_EXC : Fld := ⟨47, 40⟩
def EPH_CFG_DLAG : Fld := ⟨5, 3⟩
def EPH_CFG_MODE : Fld := ⟨1, 0⟩
def EPH_TAG_NEWTAG : Fld := ⟨63, 48⟩
def EPH_TAG_PFV : Fld := ⟨35, 35⟩
def EPH_TAG_LAG : Fld := ⟨34, 32⟩
def EPH_TAG_PFTAG : Fld := ⟨31, 16⟩
def EPH_TAG_FTAG : Fld := ⟨15, 0⟩
def EPH_ERTA_NENT : Fld := ⟨57, 48⟩
def EPH_ERTA_BASE : Fld := ⟨41, 15⟩
def EPH_ERTB_NENT : Fld := ⟨57, 48⟩
def EPH_ERTB_BASE : Fld := ⟨41, 15⟩
def EPH_HOLDS_COUNT : Fld := ⟨63, 0⟩
def EPH_DROPS_COUNT : Fld := ⟨63, 0⟩
def EPH_CLEARED_COUNT : Fld := ⟨63, 0⟩
def EPH_ENT_GID : Fld := ⟨63, 48⟩
def EPH_ENT_LOGSS : Fld := ⟨47, 42⟩
def EPH_ENT_BASE : Fld := ⟨41, 12⟩
def EPH_ENT_MX : Fld := ⟨1, 1⟩
def EPH_ENT_VALID : Fld := ⟨0, 0⟩
def EPH_SLOT_TAG : Fld := ⟨63, 48⟩
def EPH_SLOT_RC : Fld := ⟨47, 32⟩
def EPH_SLOT_STATE : Fld := ⟨18, 16⟩
def WEI_CTL_EN : Fld := ⟨0, 0⟩
def WEI_STS_WEIR : Fld := ⟨50, 48⟩
def WEI_STS_EXC : Fld := ⟨47, 40⟩
def WEI_WST_NENT : Fld := ⟨57, 48⟩
def WEI_WST_BASE : Fld := ⟨41, 15⟩
def WEI_SEED_SEED : Fld := ⟨63, 0⟩
def WEI_TMO_SLOT : Fld := ⟨63, 32⟩
def WEI_TMO_DRAIN : Fld := ⟨15, 0⟩
def WEI_SPA_INVLS : Fld := ⟨63, 32⟩
def WEI_SPA_STEP : Fld := ⟨31, 0⟩
def WEI_SPB_LAMBDA : Fld := ⟨63, 32⟩
def WEI_SPB_ETA : Fld := ⟨31, 0⟩
def WEI_BW_LOGSZ : Fld := ⟨51, 48⟩
def WEI_BW_BASE : Fld := ⟨41, 20⟩
def WEI_BW_ON : Fld := ⟨0, 0⟩
def WEI_BWUSED_HIGH : Fld := ⟨63, 32⟩
def WEI_BWUSED_USED : Fld := ⟨31, 0⟩
def WEI_WSTS_QFILL : Fld := ⟨55, 48⟩
def WEI_WSTS_ACT : Fld := ⟨35, 32⟩
def WEI_WSTS_ROLLBACKS : Fld := ⟨31, 0⟩
def WEI_RULE_B1 : Fld := ⟨63, 32⟩
def WEI_RULE_A1 : Fld := ⟨31, 0⟩
def WEI_RULE_B2 : Fld := ⟨63, 32⟩
def WEI_RULE_A2 : Fld := ⟨31, 0⟩
def WEI_RULE_K1 : Fld := ⟨63, 32⟩
def WEI_RULE_C0 : Fld := ⟨31, 0⟩
def WEI_RULE_BB1 : Fld := ⟨63, 32⟩
def WEI_RULE_K2 : Fld := ⟨31, 0⟩
def WEI_RULE_EPS : Fld := ⟨63, 32⟩
def WEI_RULE_BB2 : Fld := ⟨31, 0⟩
def WEI_RULE_ETAM : Fld := ⟨63, 32⟩
def WEI_RULE_TAU : Fld := ⟨31, 0⟩
def WEI_RULE_LAMM : Fld := ⟨31, 0⟩
def WEI_RULE_RND : Fld := ⟨7, 6⟩
def WEI_RULE_BC2 : Fld := ⟨5, 5⟩
def WEI_RULE_BC1 : Fld := ⟨4, 4⟩
def WEI_RULE_PSI : Fld := ⟨3, 2⟩
def WEI_RULE_LAYOUT : Fld := ⟨1, 0⟩
def WEI_BUILD_COUNT : Fld := ⟨47, 32⟩
def WEI_BUILD_NSPAN : Fld := ⟨11, 0⟩
def CNT_CTL_CLR : Fld := ⟨1, 1⟩
def CNT_CTL_FRZ : Fld := ⟨0, 0⟩
def CNT_SEL_STEPCLR : Fld := ⟨26, 26⟩
def CNT_SEL_ALL : Fld := ⟨25, 25⟩
def CNT_SEL_INST : Fld := ⟨23, 16⟩
def CNT_SEL_SRC : Fld := ⟨11, 0⟩
def CNT_VAL_VALUE : Fld := ⟨63, 0⟩
def AST_CTL_NREC : Fld := ⟨2, 1⟩
def AST_CTL_EN : Fld := ⟨0, 0⟩
def AST_STS_EXC : Fld := ⟨47, 40⟩
def AST_UWR_HI : Fld := ⟨63, 32⟩
def AST_UWR_LO : Fld := ⟨31, 0⟩
def AST_SMP_OPMASK : Fld := ⟨42, 40⟩
def AST_SMP_TMASK : Fld := ⟨39, 32⟩
def AST_SMP_RATE : Fld := ⟨31, 0⟩
def AST_SHD_POISON : Fld := ⟨48, 48⟩
def AST_SHD_LIMIT : Fld := ⟨47, 40⟩
def AST_SHD_TOL : Fld := ⟨31, 0⟩
def AST_GNOUT_BASE : Fld := ⟨41, 4⟩
def AST_PSN_STEP : Fld := ⟨63, 32⟩
def AST_PSN_SRC : Fld := ⟨15, 8⟩
def AST_PSN_NEXT : Fld := ⟨1, 1⟩
def AST_PSN_CUR : Fld := ⟨0, 0⟩
def AST_BANK0_TAG : Fld := ⟨63, 32⟩
def AST_BANK0_TAGGED : Fld := ⟨2, 2⟩
def AST_BANK0_PEND : Fld := ⟨1, 1⟩
def AST_BANK0_EMIT : Fld := ⟨0, 0⟩
def AST_BANK1_TAG : Fld := ⟨63, 32⟩
def AST_BANK1_TAGGED : Fld := ⟨2, 2⟩
def AST_BANK1_PEND : Fld := ⟨1, 1⟩
def AST_BANK1_EMIT : Fld := ⟨0, 0⟩
def SHD_STS_LASTERR : Fld := ⟨63, 32⟩
def SHD_STS_CONSEC : Fld := ⟨15, 8⟩
def SHD_STS_BUSY : Fld := ⟨0, 0⟩
def SHD_CNT_SKIPPED : Fld := ⟨63, 32⟩
def SHD_CNT_COMPARED : Fld := ⟨31, 0⟩
def SHD_MIS_MAXERR : Fld := ⟨63, 32⟩
def SHD_MIS_COUNT : Fld := ⟨31, 0⟩
def RVR_ERR_EXC : Fld := ⟨55, 48⟩
def RVR_ERR_TERR : Fld := ⟨44, 42⟩
def RVR_ERR_BANK : Fld := ⟨41, 36⟩
def RVR_ERR_OFF : Fld := ⟨24, 0⟩
def RVR_ECC_UE : Fld := ⟨63, 32⟩
def RVR_ECC_CE : Fld := ⟨31, 0⟩
def POL_CTL_INV : Fld := ⟨1, 1⟩
def POL_CTL_WB : Fld := ⟨0, 0⟩
def POL_STS_BUSY : Fld := ⟨32, 32⟩
def POL_STS_DIRTY : Fld := ⟨19, 0⟩
def POL_ECC_UE : Fld := ⟨63, 32⟩
def POL_ECC_CE : Fld := ⟨31, 0⟩
def POL_ERR_EXC : Fld := ⟨55, 48⟩
def POL_ERR_ADDR : Fld := ⟨41, 0⟩
def STK_CAP_NCH : Fld := ⟨37, 32⟩
def STK_CAP_MAP : Fld := ⟨31, 0⟩
def STK_TOTAL_NCH : Fld := ⟨7, 0⟩
def STK_ECC_UE : Fld := ⟨63, 48⟩
def STK_ECC_SCRUBUE : Fld := ⟨47, 32⟩
def STK_ECC_CE : Fld := ⟨31, 0⟩
def STK_ERR_STACK : Fld := ⟨57, 56⟩
def STK_ERR_CH : Fld := ⟨55, 51⟩
def STK_ERR_EXC : Fld := ⟨50, 43⟩
def STK_ERR_ADDR : Fld := ⟨41, 0⟩
def STK_SCRUB_ON : Fld := ⟨16, 16⟩
def STK_SCRUB_PERIOD : Fld := ⟨15, 0⟩
def STK_RMP_THRESH : Fld := ⟨23, 16⟩
def STK_RMP_HOLD : Fld := ⟨11, 8⟩
def STK_RMP_LIVE : Fld := ⟨0, 0⟩
def STK_RMPSTS_PEND : Fld := ⟨63, 48⟩
def STK_RMPSTS_DONE : Fld := ⟨47, 32⟩
def STK_RMPSTS_SPARE : Fld := ⟨15, 0⟩
def BRG_STS_EXC : Fld := ⟨55, 48⟩
def BRG_STS_LANE : Fld := ⟨39, 33⟩
def BRG_STS_DIR : Fld := ⟨32, 32⟩
def BRG_STS_FATAL : Fld := ⟨1, 1⟩
def BRG_STS_UP : Fld := ⟨0, 0⟩
def BRG_CFG_RLIM : Fld := ⟨15, 0⟩
def BRG_CNT_RETRY2 : Fld := ⟨63, 32⟩
def BRG_CNT_RETRY : Fld := ⟨31, 0⟩
def AQD_STS_CHAN : Fld := ⟨52, 48⟩
def AQD_STS_EXC : Fld := ⟨47, 40⟩
def AQD_ADT_NENT : Fld := ⟨57, 48⟩
def AQD_ADT_BASE : Fld := ⟨41, 15⟩
def AQD_TMO_DRAIN : Fld := ⟨15, 0⟩
def AQD_SUM_DRAINING : Fld := ⟨37, 32⟩
def AQD_SUM_RUNNING : Fld := ⟨5, 0⟩
def AQD_CHCTL_PRI : Fld := ⟨2, 1⟩
def AQD_CHCTL_EN : Fld := ⟨0, 0⟩
def AQD_CHSTS_EXC : Fld := ⟨47, 40⟩
def AQD_CHSTS_OUT : Fld := ⟨39, 32⟩
def AQD_CHCNTA_COMPLETED : Fld := ⟨63, 32⟩
def AQD_CHCNTA_ISSUED : Fld := ⟨31, 0⟩
def AQD_CHCNTB_STALE : Fld := ⟨47, 32⟩
def AQD_CHCNTB_DISCARDED : Fld := ⟨31, 0⟩
def HRM_PCTL_CLASS : Fld := ⟨7, 6⟩
def HRM_PCTL_RW : Fld := ⟨5, 4⟩
def HRM_PCTL_RETRAIN : Fld := ⟨2, 2⟩
def HRM_PCTL_LINK : Fld := ⟨1, 1⟩
def HRM_PCTL_EN : Fld := ⟨0, 0⟩
def HRM_PSTS_CAUSE : Fld := ⟨55, 52⟩
def HRM_PSTS_MINOR : Fld := ⟨51, 48⟩
def HRM_PSTS_EXC : Fld := ⟨47, 40⟩
def HRM_PSTS_LGRP : Fld := ⟨39, 38⟩
def HRM_PSTS_WIDTH : Fld := ⟨37, 36⟩
def HRM_PSTS_LSTATE : Fld := ⟨34, 32⟩
def HRM_EPOCH_RESETS : Fld := ⟨47, 16⟩
def HRM_EPOCH_EPOCH : Fld := ⟨15, 0⟩
def HRM_LANE_PARFAIL : Fld := ⟨47, 32⟩
def HRM_LANE_PASS : Fld := ⟨31, 16⟩
def HRM_LANE_EXCL : Fld := ⟨15, 0⟩
def HRM_CFG_RSP : Fld := ⟨63, 48⟩
def HRM_CFG_TRAIN : Fld := ⟨47, 32⟩
def HRM_CFG_RPLIM : Fld := ⟨19, 16⟩
def HRM_CFG_PTHR : Fld := ⟨15, 8⟩
def HRM_CFG_RWIN : Fld := ⟨7, 0⟩
def HRM_VCBUF_VC5 : Fld := ⟨47, 40⟩
def HRM_VCBUF_VC4 : Fld := ⟨39, 32⟩
def HRM_VCBUF_VC3 : Fld := ⟨31, 24⟩
def HRM_VCBUF_VC2 : Fld := ⟨23, 16⟩
def HRM_VCBUF_VC1 : Fld := ⟨15, 8⟩
def HRM_VCBUF_VC0 : Fld := ⟨7, 0⟩
def HRM_PARB_W4 : Fld := ⟨15, 12⟩
def HRM_PARB_W3 : Fld := ⟨11, 8⟩
def HRM_PARB_W2 : Fld := ⟨7, 4⟩
def HRM_PARB_W1 : Fld := ⟨3, 0⟩
def HRM_PEERA_MACHINE : Fld := ⟨63, 0⟩
def HRM_PEERB_MAJOR : Fld := ⟨39, 32⟩
def HRM_PEERB_MINOR : Fld := ⟨31, 24⟩
def HRM_PEERB_CLASS : Fld := ⟨18, 17⟩
def HRM_PEERB_PORT : Fld := ⟨16, 14⟩
def HRM_PEERB_CHIP : Fld := ⟨13, 0⟩
def HRM_PEERC_BUILD : Fld := ⟨31, 0⟩
def HRM_VCCRED_PEERBUF : Fld := ⟨63, 48⟩
def HRM_VCCRED_RXBUF : Fld := ⟨47, 32⟩
def HRM_VCCRED_RXOCC : Fld := ⟨31, 16⟩
def HRM_VCCRED_SCRED : Fld := ⟨15, 0⟩
def HRM_RPL_OCC : Fld := ⟨43, 32⟩
def HRM_RPL_ACKED : Fld := ⟨27, 16⟩
def HRM_RPL_NEXTSEQ : Fld := ⟨11, 0⟩
def HRM_ERRCNT_REPLAYS : Fld := ⟨63, 48⟩
def HRM_ERRCNT_FECUNC : Fld := ⟨47, 32⟩
def HRM_ERRCNT_FECCORR : Fld := ⟨31, 0⟩
def HRM_DROPCNT_TMO : Fld := ⟨63, 48⟩
def HRM_DROPCNT_STALE : Fld := ⟨47, 32⟩
def HRM_DROPCNT_DROPPED : Fld := ⟨31, 0⟩
def SID_CTL_UP1V : Fld := ⟨11, 11⟩
def SID_CTL_UP1 : Fld := ⟨10, 8⟩
def SID_CTL_UP0V : Fld := ⟨7, 7⟩
def SID_CTL_UP0 : Fld := ⟨6, 4⟩
def SID_CTL_ROLE : Fld := ⟨0, 0⟩
def SID_STS_EXC : Fld := ⟨55, 48⟩
def SID_STS_HOPS : Fld := ⟨37, 32⟩
def SID_STS_UPIN : Fld := ⟨19, 16⟩
def SID_STS_REFOK : Fld := ⟨2, 2⟩
def SID_STS_STATE : Fld := ⟨1, 0⟩
def SID_TIME_TIME : Fld := ⟨63, 0⟩
def SID_SET_VALUE : Fld := ⟨63, 0⟩
def SID_MEAS_DELAY : Fld := ⟨63, 32⟩
def SID_MEAS_OFFSET : Fld := ⟨31, 0⟩
def SID_CFG_HOLDMAX : Fld := ⟨63, 48⟩
def SID_CFG_SLEW : Fld := ⟨47, 32⟩
def SID_CFG_TTL : Fld := ⟨23, 16⟩
def SID_CFG_PPSWIN : Fld := ⟨15, 0⟩
def SID_SLICE_SLICE : Fld := ⟨15, 0⟩
def SID_STEP_STEP : Fld := ⟨63, 32⟩
def SID_STEP_ATTEMPT : Fld := ⟨7, 0⟩
def SID_FLAGS_FSTEP : Fld := ⟨63, 32⟩
def SID_FLAGS_HOLD : Fld := ⟨3, 3⟩
def SID_FLAGS_RECLAIM : Fld := ⟨2, 2⟩
def SID_FLAGS_ABORT : Fld := ⟨1, 1⟩
def SID_FLAGS_POISON : Fld := ⟨0, 0⟩
def SID_RCLM_ACTIVE : Fld := ⟨63, 63⟩
def SID_RCLM_CLR : Fld := ⟨62, 62⟩
def SID_RCLM_ORIG : Fld := ⟨61, 61⟩
def SID_RCLM_DEADLINE : Fld := ⟨53, 48⟩
def SID_RCLM_EZ : Fld := ⟨47, 44⟩
def SID_RCLM_EY : Fld := ⟨43, 39⟩
def SID_RCLM_EX : Fld := ⟨38, 34⟩
def SID_RCLM_ORIGIN : Fld := ⟨13, 0⟩
def SID_RCLMT_TN : Fld := ⟨63, 0⟩
def SID_HOLDN_ACTIVE : Fld := ⟨63, 63⟩
def SID_HOLDN_CLR : Fld := ⟨62, 62⟩
def SID_HOLDN_ORIG : Fld := ⟨61, 61⟩
def SID_HOLDN_TIME : Fld := ⟨55, 0⟩
def SID_RCFG_PBUDGET : Fld := ⟨47, 32⟩
def SID_RCFG_PSTART : Fld := ⟨31, 16⟩
def SID_RCFG_CLOSE : Fld := ⟨15, 0⟩
def SID_VTREE_CHILDTMO : Fld := ⟨63, 32⟩
def SID_VTREE_CHILD : Fld := ⟨15, 8⟩
def SID_VTREE_ROOT : Fld := ⟨4, 4⟩
def SID_VTREE_PARENT : Fld := ⟨2, 0⟩
def SID_VSTS_VSTEP : Fld := ⟨63, 32⟩
def SID_VSTS_PERMV : Fld := ⟨3, 2⟩
def SID_VSTS_VERDICT : Fld := ⟨1, 0⟩
def SID_RBANK_PREP : Fld := ⟨2, 2⟩
def SID_RBANK_SWITCH : Fld := ⟨1, 1⟩
def SID_RBANK_ACT : Fld := ⟨0, 0⟩
def COL_CTL_EN : Fld := ⟨0, 0⟩
def COL_STS_CID : Fld := ⟨57, 48⟩
def COL_STS_EXC : Fld := ⟨47, 40⟩
def COL_STS_RUN : Fld := ⟨36, 32⟩
def COL_CLT_NENT : Fld := ⟨57, 48⟩
def COL_CLT_BASE : Fld := ⟨41, 15⟩
def COL_PERM_NPM1 : Fld := ⟨63, 48⟩
def COL_PERM_BASE : Fld := ⟨41, 5⟩
def COL_PRX_ARM : Fld := ⟨63, 63⟩
def COL_PRX_VC : Fld := ⟨62, 62⟩
def COL_PRX_CHAN : Fld := ⟨61, 57⟩
def COL_PRX_HALF : Fld := ⟨56, 56⟩
def COL_PRX_PATT : Fld := ⟨55, 48⟩
def COL_PRX_RXBYTES : Fld := ⟨47, 0⟩
def COL_CFG_TMO : Fld := ⟨63, 32⟩
def COL_CFG_DRAIN : Fld := ⟨15, 0⟩
def HST_STS_RING : Fld := ⟨55, 48⟩
def HST_STS_EXC : Fld := ⟨47, 40⟩
def HST_EVROUTE_PKG : Fld := ⟨47, 40⟩
def HST_EVROUTE_CHIP : Fld := ⟨39, 32⟩
def HST_EVROUTE_STEP : Fld := ⟨31, 24⟩
def HST_EVROUTE_CORR : Fld := ⟨23, 16⟩
def HST_EVROUTE_INFO : Fld := ⟨15, 8⟩
def HST_EVROUTE_STAT : Fld := ⟨7, 0⟩
def HST_CFG_DWAIT : Fld := ⟨63, 32⟩
def HST_CFG_MODT : Fld := ⟨31, 16⟩
def HST_CFG_MODN : Fld := ⟨15, 8⟩
def HST_OVF_DROPPED : Fld := ⟨63, 32⟩
def HST_OVF_HELD : Fld := ⟨8, 0⟩
def HST_RBASE_ADDR : Fld := ⟨63, 6⟩
def HST_RCFG_VEC : Fld := ⟨63, 56⟩
def HST_RCFG_XPER : Fld := ⟨55, 48⟩
def HST_RCFG_DLOG : Fld := ⟨47, 45⟩
def HST_RCFG_LOGN : Fld := ⟨43, 40⟩
def HST_RCFG_KIND : Fld := ⟨37, 36⟩
def HST_RCFG_EN : Fld := ⟨0, 0⟩
def HST_RDLV_BASE : Fld := ⟨41, 6⟩
def HST_RWB_ADDR : Fld := ⟨63, 3⟩
def HST_RSTS_EXC : Fld := ⟨47, 40⟩
def HST_RIDX_DEVIDX : Fld := ⟨63, 32⟩
def HST_RIDX_HOSTIDX : Fld := ⟨31, 0⟩
def GLB_ID_DEVID : Fld := ⟨63, 48⟩
def GLB_ID_STEPPING : Fld := ⟨47, 40⟩
def GLB_ID_HMAJ : Fld := ⟨39, 32⟩
def GLB_ID_BUILD : Fld := ⟨31, 0⟩
def GLB_CHIP_VALID : Fld := ⟨16, 16⟩
def GLB_CHIP_CHIP : Fld := ⟨13, 0⟩
def GLB_CAP_NCH : Fld := ⟨40, 32⟩
def GLB_CAP_UNITS : Fld := ⟨15, 8⟩
def GLB_CAP_TERR : Fld := ⟨7, 0⟩
def GLB_ERRSUM_SEV : Fld := ⟨4, 0⟩
def GLB_ALERT_MASK : Fld := ⟨4, 0⟩
def GLB_SCRUB_PROG : Fld := ⟨63, 32⟩
def GLB_SCRUB_STATE : Fld := ⟨3, 2⟩
def GLB_SCRUB_GO : Fld := ⟨0, 0⟩
def GLB_DBGWIN_BASE : Fld := ⟨41, 28⟩
def GLB_FATAL_WORD : Fld := ⟨63, 0⟩
def PWR_STS_EXC : Fld := ⟨47, 40⟩
def PWR_STS_COLDRDY : Fld := ⟨7, 7⟩
def PWR_STS_NVWP : Fld := ⟨6, 6⟩
def PWR_STS_THROT : Fld := ⟨5, 5⟩
def PWR_STS_PSTATE : Fld := ⟨2, 0⟩
def PWR_HCTL_COLD : Fld := ⟨2, 2⟩
def PWR_HCTL_WAKE : Fld := ⟨1, 1⟩
def PWR_HCTL_REQ : Fld := ⟨0, 0⟩
def PWR_HSTS_DELAYS : Fld := ⟨39, 32⟩
def PWR_HSTS_REASON : Fld := ⟨31, 28⟩
def PWR_HSTS_INST : Fld := ⟨27, 24⟩
def PWR_HSTS_BLOCK : Fld := ⟨23, 16⟩
def PWR_HSTS_AP : Fld := ⟨9, 8⟩
def PWR_HSTS_OUTCOME : Fld := ⟨5, 4⟩
def PWR_HSTS_PHASE : Fld := ⟨2, 0⟩
def PWR_WAKE_TIME : Fld := ⟨63, 8⟩
def PWR_WAKE_PEND : Fld := ⟨4, 4⟩
def PWR_WAKE_SRC : Fld := ⟨3, 0⟩
def PWR_WAKET_EN : Fld := ⟨63, 63⟩
def PWR_WAKET_TIME : Fld := ⟨55, 0⟩
def PWR_ACCT_LREASON : Fld := ⟨63, 60⟩
def PWR_ACCT_LINST : Fld := ⟨59, 56⟩
def PWR_ACCT_LBLOCK : Fld := ⟨55, 48⟩
def PWR_ACCT_ABANDONED : Fld := ⟨47, 32⟩
def PWR_ACCT_REFUSED : Fld := ⟨31, 16⟩
def PWR_ACCT_MODE : Fld := ⟨0, 0⟩
def PWR_RAMP_RATE : Fld := ⟨7, 0⟩
def PWR_THR_RAW : Fld := ⟨35, 35⟩
def PWR_THR_FILT : Fld := ⟨34, 34⟩
def PWR_THR_STUCK : Fld := ⟨33, 33⟩
def PWR_THR_CLR : Fld := ⟨32, 32⟩
def PWR_THR_CAP : Fld := ⟨31, 16⟩
def PWR_THR_TWARN : Fld := ⟨15, 8⟩
def PWR_THR_TGAP : Fld := ⟨7, 4⟩
def PWR_THR_GAP : Fld := ⟨3, 0⟩
def PWR_FLOOR_CAP : Fld := ⟨19, 16⟩
def PWR_FLOOR_THERM : Fld := ⟨15, 12⟩
def PWR_FLOOR_THR : Fld := ⟨11, 8⟩
def PWR_FLOOR_LIM : Fld := ⟨7, 4⟩
def PWR_FLOOR_EFF : Fld := ⟨3, 0⟩
def PWR_MON_SPILLB : Fld := ⟨63, 48⟩
def PWR_MON_SPILLA : Fld := ⟨47, 32⟩
def PWR_MON_IB : Fld := ⟨31, 16⟩
def PWR_MON_IA : Fld := ⟨15, 0⟩
def PWR_SUP_BROWNOUT : Fld := ⟨35, 35⟩
def PWR_SUP_IMGCOLD : Fld := ⟨34, 34⟩
def PWR_SUP_IMGVALID : Fld := ⟨33, 33⟩
def PWR_SUP_NVBLOCK : Fld := ⟨32, 32⟩
def PWR_SUP_RAIL : Fld := ⟨17, 0⟩
def TST_STS_EXC : Fld := ⟨47, 40⟩
def TST_STS_DIAG : Fld := ⟨1, 1⟩
def TST_STS_INTRUSIVE : Fld := ⟨0, 0⟩
def TST_BOOT_BUILD : Fld := ⟨63, 32⟩
def TST_BOOT_SECVER : Fld := ⟨31, 16⟩
def TST_BOOT_REASB : Fld := ⟨15, 12⟩
def TST_BOOT_REASA : Fld := ⟨11, 8⟩
def TST_BOOT_SLOT : Fld := ⟨5, 5⟩
def TST_BOOT_ROM : Fld := ⟨4, 4⟩
def TST_BOOT_PHASE : Fld := ⟨3, 0⟩
def TST_AUDCTL_RUN : Fld := ⟨0, 0⟩
def TST_AUDSTS_SKIPPED : Fld := ⟨63, 48⟩
def TST_AUDSTS_EXEMPT : Fld := ⟨47, 32⟩
def TST_AUDSTS_DIFFS : Fld := ⟨31, 16⟩
def TST_AUDSTS_PAIRRES : Fld := ⟨3, 2⟩
def TST_AUDSTS_BUSY : Fld := ⟨1, 1⟩
def TST_PAIR_KIND : Fld := ⟨63, 62⟩
def TST_PAIR_INDEX : Fld := ⟨43, 32⟩
def TST_PAIR_VALUE : Fld := ⟨31, 0⟩
def TST_CAP_ARM : Fld := ⟨63, 63⟩
def TST_CAP_DESC : Fld := ⟨41, 6⟩
def TST_CAPSTS_STEP : Fld := ⟨63, 32⟩
def TST_CAPSTS_STATE : Fld := ⟨31, 30⟩
def TST_CAPSTS_END : Fld := ⟨29, 28⟩
def TST_CAPSTS_USED : Fld := ⟨27, 0⟩
def TST_RPL_DIVERGE : Fld := ⟨63, 32⟩
def TST_RPL_STATE : Fld := ⟨3, 2⟩
def TST_RPL_GO : Fld := ⟨1, 1⟩
def TST_RPL_MODE : Fld := ⟨0, 0⟩
def SID_MEMB_WORD : Fld := ⟨63, 0⟩
def SID_RTAB_WORD : Fld := ⟨63, 0⟩

end F

/-- Rows of the register map: base, count, stride, reset value, RW bits, W1C bits. -/
def regRows0 : List RegRow := [
  ⟨0x1000000, 0x1, 0x8, 0x0, 0x3, 0x0⟩,
  ⟨0x2000000, 0x1, 0x8, 0x0, 0x3, 0x0⟩,
  ⟨0x1000008, 0x1, 0x8, 0x0, 0x0, 0x10⟩,
  ⟨0x2000008, 0x1, 0x8, 0x0, 0x0, 0x10⟩,
  ⟨0x1000010, 0x1, 0x8, 0x0, 0xFFFFFFF, 0x0⟩,
  ⟨0x2000010, 0x1, 0x8, 0x0, 0xFFFFFFF, 0x0⟩,
  ⟨0x1000018, 0x1, 0x8, 0x0, 0x0, 0x0⟩,
  ⟨0x2000018, 0x1, 0x8, 0x0, 0x0, 0x0⟩,
  ⟨0x1000020, 0x1, 0x8, 0x0, 0x0, 0x0⟩,
  ⟨0x2000020, 0x1, 0x8, 0x0, 0x0, 0x0⟩,
  ⟨0x1000028, 0x1, 0x8, 0x0, 0xFFFF83FFFFFC0000, 0x0⟩,
  ⟨0x2000028, 0x1, 0x8, 0x0, 0xFFFF83FFFFFC0000, 0x0⟩,
  ⟨0x1000030, 0x1, 0x8, 0x0, 0xFF03FFFFFFC000, 0x0⟩,
  ⟨0x2000030, 0x1, 0x8, 0x0, 0xFF03FFFFFFC000, 0x0⟩,
  ⟨0x1000038, 0x1, 0x8, 0x4, 0xF, 0x0⟩,
  ⟨0x2000038, 0x1, 0x8, 0x4, 0xF, 0x0⟩,
  ⟨0x1000040, 0x1, 0x8, 0x0, 0xF, 0x0⟩,
  ⟨0x2000040, 0x1, 0x8, 0x0, 0xF, 0x0⟩,
  ⟨0x1000048, 0x1, 0x8, 0xF4240, 0xFFFFFFFF, 0x0⟩,
  ⟨0x2000048, 0x1, 0x8, 0xF4240, 0xFFFFFFFF, 0x0⟩,
  ⟨0x1000050, 0x1, 0x8, 0x3E8, 0xFFFFFFFF, 0x0⟩,
  ⟨0x2000050, 0x1, 0x8, 0x3E8, 0xFFFFFFFF, 0x0⟩,
  ⟨0x1000058, 0x1, 0x8, 0x0, 0x0, 0x0⟩,
  ⟨0x2000058, 0x1, 0x8, 0x0, 0x0, 0x0⟩]

/-- Rows of the register map: base, count, stride, reset value, RW bits, W1C bits. -/
def regRows1 : List RegRow := [
  ⟨0x1000060, 0x1, 0x8, 0x0, 0x0, 0x0⟩,
  ⟨0x2000060, 0x1, 0x8, 0x0, 0x0, 0x0⟩,
  ⟨0x1100000, 0x1, 0x8, 0x0, 0x1, 0x0⟩,
  ⟨0x2100000, 0x1, 0x8, 0x0, 0x1, 0x0⟩,
  ⟨0x1100008, 0x1, 0x8, 0x0, 0x0, 0x10⟩,
  ⟨0x2100008, 0x1, 0x8, 0x0, 0x0, 0x10⟩,
  ⟨0x1100010, 0x1, 0x8, 0x0, 0x3FF03FFFFFF8000, 0x0⟩,
  ⟨0x2100010, 0x1, 0x8, 0x0, 0x3FF03FFFFFF8000, 0x0⟩,
  ⟨0x1100100, 0x40, 0x8, 0x0, 0xF03FFFFFE0000, 0x0⟩,
  ⟨0x2100100, 0x40, 0x8, 0x0, 0xF03FFFFFE0000, 0x0⟩,
  ⟨0x1100400, 0x40, 0x8, 0xFF0000, 0x0, 0x0⟩,
  ⟨0x2100400, 0x40, 0x8, 0xFF0000, 0x0, 0x0⟩,
  ⟨0x1200000, 0x1, 0x8, 0x0, 0x1, 0x0⟩,
  ⟨0x2200000, 0x1, 0x8, 0x0, 0x1, 0x0⟩,
  ⟨0x1200008, 0x1, 0x8, 0x0, 0x0, 0x10⟩,
  ⟨0x2200008, 0x1, 0x8, 0x0, 0x0, 0x10⟩,
  ⟨0x1200010, 0x1, 0x8, 0x0, 0x3FF03FFFFFF8000, 0x0⟩,
  ⟨0x2200010, 0x1, 0x8, 0x0, 0x3FF03FFFFFF8000, 0x0⟩,
  ⟨0x1200100, 0x8, 0x8, 0x0, 0x0, 0x0⟩,
  ⟨0x2200100, 0x8, 0x8, 0x0, 0x0, 0x0⟩,
  ⟨0x800000, 0x1, 0x8, 0x0, 0x0, 0x0⟩,
  ⟨0x800008, 0x1, 0x8, 0xF424000000064, 0xFFFFFFFF0000FFFF, 0x0⟩,
  ⟨0x800010, 0x1, 0x8, 0x0, 0x3FF03FFFFFF8000, 0x0⟩,
  ⟨0x800018, 0x1, 0x8, 0x0, 0x3FF03FFFFFF8000, 0x0⟩]

/-- Rows of the register map: base, count, stride, reset value, RW bits, W1C bits. -/
def regRows2 : List RegRow := [
  ⟨0x800020, 0x1, 0x8, 0x0, 0x0, 0x0⟩,
  ⟨0x810000, 0x1000, 0x40, 0x0, 0x3FFFFFFC7, 0x0⟩,
  ⟨0x810008, 0x1000, 0x40, 0x0, 0x0, 0x10⟩,
  ⟨0x810010, 0x1000, 0x40, 0x0, 0x3FFFFFFFFC0, 0x0⟩,
  ⟨0x810018, 0x1000, 0x40, 0x0, 0x70FFF3FFF, 0x0⟩,
  ⟨0x810020, 0x1000, 0x40, 0x0, 0x0, 0x0⟩,
  ⟨0x810028, 0x1000, 0x40, 0x0, 0x0, 0x0⟩,
  ⟨0x810030, 0x1000, 0x40, 0x0, 0x0, 0x0⟩,
  ⟨0x810038, 0x1000, 0x40, 0x0, 0xFFFFFF, 0x0⟩,
  ⟨0xA00000, 0x1, 0x8, 0x0, 0x1, 0x0⟩,
  ⟨0xA00008, 0x1, 0x8, 0x0, 0x0, 0x10⟩,
  ⟨0xA00010, 0x1, 0x8, 0x0, 0x3B, 0x0⟩,
  ⟨0xA00018, 0x1, 0x8, 0x0, 0xFFFF, 0x0⟩,
  ⟨0xA00020, 0x1, 0x8, 0x0, 0x3FF03FFFFFF8000, 0x0⟩,
  ⟨0xA00028, 0x1, 0x8, 0x0, 0x3FF03FFFFFF8000, 0x0⟩,
  ⟨0xA00030, 0x1, 0x8, 0x0, 0x0, 0x0⟩,
  ⟨0xA00038, 0x1, 0x8, 0x0, 0x0, 0x0⟩,
  ⟨0xA00040, 0x1, 0x8, 0x0, 0x0, 0x0⟩,
  ⟨0xA10000, 0x800, 0x8, 0x0, 0xFFFFFFFFFFFFF003, 0x0⟩,
  ⟨0xA20000, 0x4000, 0x8, 0x0, 0xFFFF000000070000, 0x0⟩,
  ⟨0x1600000, 0x1, 0x8, 0x0, 0x1, 0x0⟩,
  ⟨0x2600000, 0x1, 0x8, 0x0, 0x1, 0x0⟩,
  ⟨0x1600008, 0x1, 0x8, 0x0, 0x0, 0x10⟩,
  ⟨0x2600008, 0x1, 0x8, 0x0, 0x0, 0x10⟩]

/-- Rows of the register map: base, count, stride, reset value, RW bits, W1C bits. -/
def regRows3 : List RegRow := [
  ⟨0x1600010, 0x1, 0x8, 0x0, 0x3FF03FFFFFF8000, 0x0⟩,
  ⟨0x2600010, 0x1, 0x8, 0x0, 0x3FF03FFFFFF8000, 0x0⟩,
  ⟨0x1600018, 0x1, 0x8, 0x0, 0xFFFFFFFFFFFFFFFF, 0x0⟩,
  ⟨0x2600018, 0x1, 0x8, 0x0, 0xFFFFFFFFFFFFFFFF, 0x0⟩,
  ⟨0x1600020, 0x1, 0x8, 0xF424000002710, 0xFFFFFFFF0000FFFF, 0x0⟩,
  ⟨0x2600020, 0x1, 0x8, 0xF424000002710, 0xFFFFFFFF0000FFFF, 0x0⟩,
  ⟨0x1600028, 0x1, 0x8, 0x0, 0x0, 0x0⟩,
  ⟨0x2600028, 0x1, 0x8, 0x0, 0x0, 0x0⟩,
  ⟨0x1600030, 0x1, 0x8, 0x0, 0x0, 0x0⟩,
  ⟨0x2600030, 0x1, 0x8, 0x0, 0x0, 0x0⟩,
  ⟨0x1600040, 0x4, 0x8, 0x0, 0xF03FFFFF00001, 0x0⟩,
  ⟨0x2600040, 0x4, 0x8, 0x0, 0xF03FFFFF00001, 0x0⟩,
  ⟨0x1600060, 0x4, 0x8, 0x0, 0x0, 0x0⟩,
  ⟨0x2600060, 0x4, 0x8, 0x0, 0x0, 0x0⟩,
  ⟨0x1600080, 0x4, 0x8, 0x0, 0x0, 0x0⟩,
  ⟨0x2600080, 0x4, 0x8, 0x0, 0x0, 0x0⟩,
  ⟨0x1600400, 0x10, 0x40, 0x0, 0xFFFFFFFFFFFFFFFF, 0x0⟩,
  ⟨0x2600400, 0x10, 0x40, 0x0, 0xFFFFFFFFFFFFFFFF, 0x0⟩,
  ⟨0x1600408, 0x10, 0x40, 0x0, 0xFFFFFFFFFFFFFFFF, 0x0⟩,
  ⟨0x2600408, 0x10, 0x40, 0x0, 0xFFFFFFFFFFFFFFFF, 0x0⟩,
  ⟨0x1600410, 0x10, 0x40, 0x0, 0xFFFFFFFFFFFFFFFF, 0x0⟩,
  ⟨0x2600410, 0x10, 0x40, 0x0, 0xFFFFFFFFFFFFFFFF, 0x0⟩,
  ⟨0x1600418, 0x10, 0x40, 0x0, 0xFFFFFFFFFFFFFFFF, 0x0⟩,
  ⟨0x2600418, 0x10, 0x40, 0x0, 0xFFFFFFFFFFFFFFFF, 0x0⟩]

/-- Rows of the register map: base, count, stride, reset value, RW bits, W1C bits. -/
def regRows4 : List RegRow := [
  ⟨0x1600420, 0x10, 0x40, 0x0, 0xFFFFFFFFFFFFFFFF, 0x0⟩,
  ⟨0x2600420, 0x10, 0x40, 0x0, 0xFFFFFFFFFFFFFFFF, 0x0⟩,
  ⟨0x1600428, 0x10, 0x40, 0x0, 0xFFFFFFFFFFFFFFFF, 0x0⟩,
  ⟨0x2600428, 0x10, 0x40, 0x0, 0xFFFFFFFFFFFFFFFF, 0x0⟩,
  ⟨0x1600430, 0x10, 0x40, 0x0, 0xFFFFFFFF, 0x0⟩,
  ⟨0x2600430, 0x10, 0x40, 0x0, 0xFFFFFFFF, 0x0⟩,
  ⟨0x1600438, 0x10, 0x40, 0x0, 0xFF, 0x0⟩,
  ⟨0x2600438, 0x10, 0x40, 0x0, 0xFF, 0x0⟩,
  ⟨0x1610000, 0x800, 0x8, 0x0, 0xFFF, 0x0⟩,
  ⟨0x1900000, 0x1, 0x8, 0x0, 0x1, 0x0⟩,
  ⟨0x2900000, 0x1, 0x8, 0x0, 0x1, 0x0⟩,
  ⟨0x1900100, 0x40, 0x8, 0xFFF, 0x6FF0FFF, 0x0⟩,
  ⟨0x2900100, 0x40, 0x8, 0xFFF, 0x6FF0FFF, 0x0⟩,
  ⟨0x1900400, 0x40, 0x8, 0x0, 0xFFFFFFFFFFFFFFFF, 0x0⟩,
  ⟨0x2900400, 0x40, 0x8, 0x0, 0xFFFFFFFFFFFFFFFF, 0x0⟩,
  ⟨0x1800000, 0x1, 0x8, 0x2, 0x7, 0x0⟩,
  ⟨0x2800000, 0x1, 0x8, 0x2, 0x7, 0x0⟩,
  ⟨0x1800008, 0x1, 0x8, 0x0, 0x0, 0x10⟩,
  ⟨0x2800008, 0x1, 0x8, 0x0, 0x0, 0x10⟩,
  ⟨0x1800010, 0x1, 0x8, 0x7F80000000000000, 0xFFFFFFFFFFFFFFFF, 0x0⟩,
  ⟨0x2800010, 0x1, 0x8, 0x7F80000000000000, 0xFFFFFFFFFFFFFFFF, 0x0⟩,
  ⟨0x1800018, 0x1, 0x8, 0x7FF00000000, 0x7FFFFFFFFFF, 0x0⟩,
  ⟨0x2800018, 0x1, 0x8, 0x7FF00000000, 0x7FFFFFFFFFF, 0x0⟩,
  ⟨0x1800020, 0x1, 0x8, 0x80038800000, 0x1FF00FFFFFFFF, 0x0⟩]

/-- Rows of the register map: base, count, stride, reset value, RW bits, W1C bits. -/
def regRows5 : List RegRow := [
  ⟨0x2800020, 0x1, 0x8, 0x80038800000, 0x1FF00FFFFFFFF, 0x0⟩,
  ⟨0x1800028, 0x1, 0x8, 0x0, 0x3FFFFFFFFF0, 0x0⟩,
  ⟨0x1800030, 0x1, 0x8, 0x0, 0x0, 0x0⟩,
  ⟨0x2800030, 0x1, 0x8, 0x0, 0x0, 0x0⟩,
  ⟨0x1800038, 0x1, 0x8, 0x0, 0x0, 0x0⟩,
  ⟨0x2800038, 0x1, 0x8, 0x0, 0x0, 0x0⟩,
  ⟨0x1800040, 0x1, 0x8, 0x0, 0x0, 0x0⟩,
  ⟨0x2800040, 0x1, 0x8, 0x0, 0x0, 0x0⟩,
  ⟨0x1180000, 0x1, 0x8, 0x0, 0x0, 0x0⟩,
  ⟨0x2180000, 0x1, 0x8, 0x0, 0x0, 0x0⟩,
  ⟨0x1180008, 0x1, 0x8, 0x0, 0x0, 0x0⟩,
  ⟨0x2180008, 0x1, 0x8, 0x0, 0x0, 0x0⟩,
  ⟨0x1180010, 0x1, 0x8, 0x0, 0x0, 0x0⟩,
  ⟨0x2180010, 0x1, 0x8, 0x0, 0x0, 0x0⟩,
  ⟨0x1300000, 0x1, 0x8, 0x0, 0x0, 0x0⟩,
  ⟨0x2300000, 0x1, 0x8, 0x0, 0x0, 0x0⟩,
  ⟨0x1300100, 0x8, 0x8, 0x0, 0x0, 0x0⟩,
  ⟨0x2300100, 0x8, 0x8, 0x0, 0x0, 0x0⟩,
  ⟨0x1400000, 0x1, 0x8, 0x0, 0x0, 0x0⟩,
  ⟨0x2400000, 0x1, 0x8, 0x0, 0x0, 0x0⟩,
  ⟨0x1400008, 0x1, 0x8, 0x0, 0x0, 0x0⟩,
  ⟨0x2400008, 0x1, 0x8, 0x0, 0x0, 0x0⟩,
  ⟨0x1400010, 0x1, 0x8, 0x0, 0x0, 0x0⟩,
  ⟨0x2400010, 0x1, 0x8, 0x0, 0x0, 0x0⟩]

/-- Rows of the register map: base, count, stride, reset value, RW bits, W1C bits. -/
def regRows6 : List RegRow := [
  ⟨0x1400018, 0x1, 0x8, 0x0, 0x0, 0x0⟩,
  ⟨0x2400018, 0x1, 0x8, 0x0, 0x0, 0x0⟩,
  ⟨0x1500000, 0x4, 0x8, 0x0, 0x0, 0x0⟩,
  ⟨0x2500000, 0x4, 0x8, 0x0, 0x0, 0x0⟩,
  ⟨0x1500020, 0x1, 0x8, 0x0, 0x0, 0x0⟩,
  ⟨0x2500020, 0x1, 0x8, 0x0, 0x0, 0x0⟩,
  ⟨0x1500040, 0x4, 0x8, 0x0, 0x0, 0x0⟩,
  ⟨0x2500040, 0x4, 0x8, 0x0, 0x0, 0x0⟩,
  ⟨0x1500060, 0x1, 0x8, 0x0, 0x0, 0x0⟩,
  ⟨0x2500060, 0x1, 0x8, 0x0, 0x0, 0x0⟩,
  ⟨0x1500068, 0x1, 0x8, 0x10018, 0x1FFFF, 0x0⟩,
  ⟨0x2500068, 0x1, 0x8, 0x10018, 0x1FFFF, 0x0⟩,
  ⟨0x1500070, 0x1, 0x8, 0x40201, 0xFF0F01, 0x0⟩,
  ⟨0x2500070, 0x1, 0x8, 0x40201, 0xFF0F01, 0x0⟩,
  ⟨0x1500080, 0x4, 0x8, 0x0, 0x0, 0x0⟩,
  ⟨0x2500080, 0x4, 0x8, 0x0, 0x0, 0x0⟩,
  ⟨0xC00000, 0x1, 0x8, 0x0, 0x0, 0x0⟩,
  ⟨0xC00008, 0x1, 0x8, 0x40, 0xFFFF, 0x0⟩,
  ⟨0xC00010, 0x1, 0x8, 0x0, 0x0, 0x0⟩,
  ⟨0x1700000, 0x1, 0x8, 0x0, 0x0, 0x0⟩,
  ⟨0x2700000, 0x1, 0x8, 0x0, 0x0, 0x0⟩,
  ⟨0x1700008, 0x1, 0x8, 0x0, 0x3FF03FFFFFF8000, 0x0⟩,
  ⟨0x2700008, 0x1, 0x8, 0x0, 0x3FF03FFFFFF8000, 0x0⟩,
  ⟨0x1700010, 0x1, 0x8, 0x64, 0xFFFF, 0x0⟩]

/-- Rows of the register map: base, count, stride, reset value, RW bits, W1C bits. -/
def regRows7 : List RegRow := [
  ⟨0x2700010, 0x1, 0x8, 0x64, 0xFFFF, 0x0⟩,
  ⟨0x1700018, 0x1, 0x8, 0x0, 0x0, 0x0⟩,
  ⟨0x2700018, 0x1, 0x8, 0x0, 0x0, 0x0⟩,
  ⟨0x1701000, 0x20, 0x20, 0x0, 0x7, 0x0⟩,
  ⟨0x2701000, 0x20, 0x20, 0x0, 0x7, 0x0⟩,
  ⟨0x1701008, 0x20, 0x20, 0x0, 0x0, 0x10⟩,
  ⟨0x2701008, 0x20, 0x20, 0x0, 0x0, 0x10⟩,
  ⟨0x1701010, 0x20, 0x20, 0x0, 0x0, 0x0⟩,
  ⟨0x2701010, 0x20, 0x20, 0x0, 0x0, 0x0⟩,
  ⟨0x1701018, 0x20, 0x20, 0x0, 0x0, 0x0⟩,
  ⟨0x2701018, 0x20, 0x20, 0x0, 0x0, 0x0⟩,
  ⟨0x600000, 0x8, 0x20000, 0x0, 0xF3, 0x0⟩,
  ⟨0x600008, 0x8, 0x20000, 0x0, 0x0, 0x10⟩,
  ⟨0x600010, 0x8, 0x20000, 0x0, 0x0, 0x0⟩,
  ⟨0x600018, 0x8, 0x20000, 0x0, 0x0, 0xFFFF⟩,
  ⟨0x600020, 0x8, 0x20000, 0x3E807D000040804, 0xFFFFFFFF000FFFFF, 0x0⟩,
  ⟨0x600028, 0x8, 0x20000, 0x103020204040, 0xFFFFFFFFFFFF, 0x0⟩,
  ⟨0x600030, 0x8, 0x20000, 0x1111, 0xFFFF, 0x0⟩,
  ⟨0x600040, 0x8, 0x20000, 0x0, 0x0, 0x0⟩,
  ⟨0x600048, 0x8, 0x20000, 0x0, 0x0, 0x0⟩,
  ⟨0x600050, 0x8, 0x20000, 0x0, 0x0, 0x0⟩,
  ⟨0x600060, 0x8, 0x20000, 0x0, 0x0, 0x0⟩,
  ⟨0x600068, 0x8, 0x20000, 0x0, 0x0, 0x0⟩,
  ⟨0x600070, 0x8, 0x20000, 0x0, 0x0, 0x0⟩]

/-- Rows of the register map: base, count, stride, reset value, RW bits, W1C bits. -/
def regRows8 : List RegRow := [
  ⟨0x600078, 0x8, 0x20000, 0x0, 0x0, 0x0⟩,
  ⟨0x600080, 0x8, 0x20000, 0x0, 0x0, 0x0⟩,
  ⟨0x600088, 0x8, 0x20000, 0x0, 0x0, 0x0⟩,
  ⟨0x600090, 0x8, 0x20000, 0x0, 0x0, 0x0⟩,
  ⟨0x600098, 0x8, 0x20000, 0x0, 0x0, 0x0⟩,
  ⟨0x6000A0, 0x8, 0x20000, 0x0, 0x0, 0x0⟩,
  ⟨0x500000, 0x1, 0x8, 0x0, 0xFF0, 0x0⟩,
  ⟨0x500008, 0x1, 0x8, 0x3F000F0000, 0x0, 0x0⟩,
  ⟨0x500010, 0x1, 0x8, 0x0, 0x0, 0x0⟩,
  ⟨0x500018, 0x1, 0x8, 0x0, 0x0, 0x0⟩,
  ⟨0x500020, 0x1, 0x8, 0x0, 0x0, 0x0⟩,
  ⟨0x500028, 0x1, 0x8, 0x271003E800400064, 0xFFFFFFFF00FFFFFF, 0x0⟩,
  ⟨0x500030, 0x1, 0x8, 0x0, 0xFFFF, 0x0⟩,
  ⟨0x500038, 0x1, 0x8, 0x0, 0xFFFFFFFF00000000, 0x0⟩,
  ⟨0x500040, 0x1, 0x8, 0x0, 0x0, 0x0⟩,
  ⟨0x500048, 0x1, 0x8, 0x0, 0x3FFFFC00003FFF, 0x0⟩,
  ⟨0x500050, 0x1, 0x8, 0x0, 0x0, 0x0⟩,
  ⟨0x500058, 0x1, 0x8, 0x0, 0x0, 0x0⟩,
  ⟨0x500060, 0x1, 0x8, 0xA00150014, 0xFFFFFFFFFFFF, 0x0⟩,
  ⟨0x500068, 0x2, 0x8, 0x0, 0xFFFFFFFF0000FF17, 0x0⟩,
  ⟨0x500078, 0x1, 0x8, 0x0, 0x0, 0x0⟩,
  ⟨0x500080, 0x1, 0x8, 0x0, 0x4, 0x0⟩,
  ⟨0x500088, 0x1, 0x8, 0x0, 0x1, 0x0⟩,
  ⟨0x500090, 0x1, 0x8, 0x0, 0x0, 0x10⟩]

/-- Rows of the register map: base, count, stride, reset value, RW bits, W1C bits. -/
def regRows9 : List RegRow := [
  ⟨0x500098, 0x1, 0x8, 0x0, 0x3FF03FFFFFF8000, 0x0⟩,
  ⟨0x5000A0, 0x1, 0x8, 0x0, 0xFFFF03FFFFFFFFE0, 0x0⟩,
  ⟨0x5000A8, 0x1, 0x8, 0x4000000000000000, 0xFFFFFFFFFFFFFFFF, 0x0⟩,
  ⟨0x5000B0, 0x1, 0x8, 0xF424000000064, 0xFFFFFFFF0000FFFF, 0x0⟩,
  ⟨0x100000, 0x1, 0x8, 0x0, 0x0, 0x0⟩,
  ⟨0x100008, 0x1, 0x8, 0x0, 0xFFFFFFFFFFFF, 0x0⟩,
  ⟨0x100010, 0x1, 0x8, 0x3E800101000, 0xFFFFFFFFFFFFFF00, 0x0⟩,
  ⟨0x100018, 0x1, 0x8, 0x0, 0x0, 0x0⟩,
  ⟨0x110000, 0x100, 0x40, 0x0, 0xFFFFFFFFFFFFFFC0, 0x0⟩,
  ⟨0x110008, 0x100, 0x40, 0x200000000000, 0xFFFFEF3000000001, 0x0⟩,
  ⟨0x110010, 0x100, 0x40, 0x0, 0x3FFFFFFFFC0, 0x0⟩,
  ⟨0x110018, 0x100, 0x40, 0x0, 0xFFFFFFFFFFFFFFF8, 0x0⟩,
  ⟨0x110020, 0x100, 0x40, 0x0, 0x0, 0x10⟩,
  ⟨0x110028, 0x100, 0x40, 0x0, 0x0, 0x0⟩,
  ⟨0x0, 0x1, 0x8, 0x2640A10200000000, 0x0, 0x0⟩,
  ⟨0x8, 0x1, 0x8, 0x0, 0x0, 0x0⟩,
  ⟨0x10, 0x1, 0x8, 0x8010, 0x0, 0x0⟩,
  ⟨0x18, 0x1, 0x8, 0x0, 0x0, 0x1F⟩,
  ⟨0x20, 0x1, 0x8, 0x18, 0x1F, 0x0⟩,
  ⟨0x28, 0x1, 0x8, 0x0, 0x0, 0x0⟩,
  ⟨0x30, 0x1, 0x8, 0x0, 0x3FFF0000000, 0x0⟩,
  ⟨0x40, 0x8, 0x8, 0x0, 0x0, 0x0⟩,
  ⟨0x200000, 0x1, 0x8, 0x0, 0x0, 0x0⟩,
  ⟨0x200008, 0x1, 0x8, 0x0, 0x0, 0x0⟩]

/-- Rows of the register map: base, count, stride, reset value, RW bits, W1C bits. -/
def regRows10 : List RegRow := [
  ⟨0x200010, 0x1, 0x8, 0x0, 0x0, 0x0⟩,
  ⟨0x200018, 0x1, 0x8, 0x0, 0x0, 0x0⟩,
  ⟨0x200020, 0x1, 0x8, 0x0, 0x80FFFFFFFFFFFFFF, 0x0⟩,
  ⟨0x200028, 0x1, 0x8, 0x0, 0x1, 0x0⟩,
  ⟨0x200030, 0x1, 0x8, 0xFA, 0xFF, 0x0⟩,
  ⟨0x200038, 0x1, 0x8, 0x7D06443, 0xFFFFFFFF, 0x0⟩,
  ⟨0x200040, 0x1, 0x8, 0x0, 0x0, 0x0⟩,
  ⟨0x200048, 0x1, 0x8, 0x0, 0x0, 0x0⟩,
  ⟨0x200050, 0x1, 0x8, 0x0, 0x0, 0x800000000⟩,
  ⟨0x400000, 0x1, 0x8, 0x0, 0x0, 0x0⟩,
  ⟨0x400008, 0x1, 0x8, 0x0, 0x0, 0x0⟩,
  ⟨0x400010, 0x1, 0x8, 0x0, 0x0, 0x0⟩,
  ⟨0x400018, 0x1, 0x8, 0x0, 0x0, 0x0⟩,
  ⟨0x400020, 0x1, 0x8, 0x0, 0x0, 0x0⟩,
  ⟨0x400028, 0x1, 0x8, 0x0, 0x800003FFFFFFFFC0, 0x0⟩,
  ⟨0x400030, 0x1, 0x8, 0x0, 0xFFFFFFFF00000000, 0x0⟩,
  ⟨0x400038, 0x1, 0x8, 0x0, 0x1, 0x0⟩,
  ⟨0x8000, 0x1, 0x8, 0x0, 0x1, 0x0⟩,
  ⟨0x8100, 0x20, 0x8, 0xFFF, 0x6FF0FFF, 0x0⟩,
  ⟨0x8400, 0x20, 0x8, 0x0, 0xFFFFFFFFFFFFFFFF, 0x0⟩,
  ⟨0x501000, 0x200, 0x8, 0x0, 0xFFFFFFFFFFFFFFFF, 0x0⟩,
  ⟨0x510000, 0x800, 0x8, 0x0, 0xFFFFFFFFFFFFFFFF, 0x0⟩]

/-- The register map, one row for each register or array of registers (R5, R7). -/
def regRows : List RegRow := regRows0 ++ regRows1 ++ regRows2 ++ regRows3 ++ regRows4 ++ regRows5 ++ regRows6 ++ regRows7 ++ regRows8 ++ regRows9 ++ regRows10

/-- The row that defines BAR0 offset `a`, if a block defines it (R550). -/
def regRow (a : Nat) : Option RegRow := regRows.find? (fun r => r.holds a)

/-- The reset value of the register at `a`; an offset no block defines reads zero (R550). -/
def regReset (a : Nat) : W64 :=
  match regRow a with
  | some r => BitVec.ofNat 64 r.reset
  | none => 0

end Sys2Proof.Machine
end

