-- ==== Sys2Proof/Config.lean ====
section
/-! DEFINITION. What the spec leaves to the implementation, and the free values: constants without a body, so that
no proof can rest on a particular value. Each is named in a log entry. -/

namespace Sys2Proof

/-- The element code an MX element conversion writes for a NaN into a block whose scale is 0xFF (R110 names only the
scale). FREE VALUE, log 11. -/
opaque Config.mxNanCode : Nat

/-- How far the sidereal counter moves in `ac` array cycles, before the bounds of R505 are applied; the second
argument tells successive intervals apart. FREE VALUE, log 12. -/
opaque Config.sidAdvance (ac fresh : Nat) : Nat

/-- The function that gives an address its set in a half's pool (R383 leaves it open). FREE VALUE, log 13. -/
opaque Config.poolSet (addr : Nat) : Nat

/-- The coefficients of segment `k` of built-in jet table `f` as FP32 codes (R201 bounds the error and gives no
coefficients). FREE VALUE, log 14. -/
opaque Config.romCoef (f k i : Nat) : Nat

/-- The NONCE a port sends in training (R472); the argument tells successive draws apart. FREE VALUE, log 15. -/
opaque Config.nonce (port fresh : Nat) : Nat

/-- The FP32 sum that ROOT forms of a list of FP32 codes: R152 gives the arithmetic and not the order of the additions
in the trace and in the Frobenius norm. FREE VALUE, log 16. -/
opaque Config.rootSum (codes : List Nat) : Nat

/-- RESID of a ROOT that ran no iteration (R153 defines it at the last iteration). FREE VALUE, log 16. -/
opaque Config.rootNoResid : Nat

/-- The lane whose value a JST through an entry with BC = 1 stores in the one element it addresses (R194 defines BC for
reads only). FREE VALUE, log 17. -/
opaque Config.bcLane : Nat

/-- Olkusal's JEDEC manufacturer identity in the device identification register (R640 publishes it elsewhere). FREE
VALUE, log 18. -/
opaque Config.jedecId : Nat

/-- What the boundary-scan register captures: its cells are described in the BSDL files of the stepping (R639). FREE
VALUE, log 19. -/
opaque Config.boundary (fresh : Nat) : Nat

/-- How many cycles a queued access of the reservoir waits (counter 0x602) and a channel is held for a remap (0x623):
R380 and R396 bound them and give no value. The argument tells successive draws apart. FREE VALUE, log 69. -/
opaque Config.waited (draw : Nat) : Nat

end Sys2Proof
end

