-- ==== Sys2Proof/Machine/Num.lean ====
section
/-! DEFINITION. Number formats, conversion, rounding and exact arithmetic (03), and the sums of the cascade (05).
A value is exact: a NaN, an infinity, or a sign with a magnitude `m · 2^e`. Every operation computes exactly and
rounds once. -/

namespace Sys2Proof.Machine

/-- An exact value of a floating-point format: NaN, ±Inf, or (−1)^neg · m · 2^e (R99, R100). -/
inductive FVal where
  | nan
  | inf (neg : Bool)
  | fin (neg : Bool) (m : Nat) (e : Int)
  deriving DecidableEq, Repr

/-- What the largest exponent field of a format encodes (R99, R100). -/
inductive TopExp where
  | ieee      -- infinities and NaNs
  | e4m3      -- normal values, and NaN at the all-ones code
  | finite    -- normal values only
  deriving DecidableEq, Repr

/-- A floating-point layout: exponent and fraction widths, bias, largest exponent field (R99). -/
structure FFmt where
  ew : Nat
  fw : Nat
  bias : Nat
  top : TopExp
  deriving DecidableEq, Repr

def fmtFP32 : FFmt := ⟨8, 23, 127, .ieee⟩
def fmtBF16 : FFmt := ⟨8, 7, 127, .ieee⟩
def fmtFP16 : FFmt := ⟨5, 10, 15, .ieee⟩
def fmtA40 : FFmt := ⟨8, 31, 127, .ieee⟩
def fmtE4M3 : FFmt := ⟨4, 3, 7, .e4m3⟩
def fmtE5M2 : FFmt := ⟨5, 2, 15, .ieee⟩
def fmtE3M2 : FFmt := ⟨3, 2, 3, .finite⟩
def fmtE2M3 : FFmt := ⟨2, 3, 1, .finite⟩
def fmtE2M1 : FFmt := ⟨2, 1, 1, .finite⟩

/-- Positive zero. -/
def fzero : FVal := .fin false 0 0
/-- One. -/
def fone : FVal := .fin false 1 0

namespace FVal

def isNan : FVal → Bool
  | .nan => true
  | _ => false

def isFinite : FVal → Bool
  | .fin _ _ _ => true
  | _ => false

def isZero : FVal → Bool
  | .fin _ m _ => m == 0
  | _ => false

def isNeg : FVal → Bool
  | .nan => false
  | .inf n => n
  | .fin n _ _ => n

def neg : FVal → FVal
  | .nan => .nan
  | .inf n => .inf (!n)
  | .fin n m e => .fin (!n) m e

def abs : FVal → FVal
  | .nan => .nan
  | .inf _ => .inf false
  | .fin _ m e => .fin false m e

/-- The value times 2^k. -/
def scale (v : FVal) (k : Int) : FVal :=
  match v with
  | .fin n m e => .fin n m (e + k)
  | w => w

end FVal

/-! ### Exact arithmetic on finite values, as integers at a common exponent -/

/-- The signed integer that a finite value is at exponent `e0` (exact when `e0` is at or below its exponent). -/
def atExp (neg : Bool) (m : Nat) (e e0 : Int) : Int :=
  let k := (m <<< (e - e0).toNat : Nat)
  if neg then -(k : Int) else (k : Int)

/-- The finite value of a signed integer at exponent `e`; zero takes the sign given. -/
def ofInt (i e : Int) (zneg : Bool) : FVal :=
  if i = 0 then .fin zneg 0 0 else .fin (decide (i < 0)) i.natAbs e

/-- The exact sum, with the IEEE rules for NaN, infinities and the sign of zero (R115). -/
def fadd (a b : FVal) : FVal :=
  match a, b with
  | .nan, _ => .nan
  | _, .nan => .nan
  | .inf x, .inf y => if x = y then .inf x else .nan
  | .inf x, _ => .inf x
  | _, .inf y => .inf y
  | .fin na ma ea, .fin nb mb eb =>
    let e0 := min ea eb
    ofInt (atExp na ma ea e0 + atExp nb mb eb e0) e0 (ma == 0 && mb == 0 && na && nb)

/-- The exact difference. -/
def fsub (a b : FVal) : FVal := fadd a b.neg

/-- The exact product (R128). -/
def fmul (a b : FVal) : FVal :=
  match a, b with
  | .nan, _ => .nan
  | _, .nan => .nan
  | .inf x, .inf y => .inf (x != y)
  | .inf x, .fin n m _ => if m = 0 then .nan else .inf (x != n)
  | .fin n m _, .inf y => if m = 0 then .nan else .inf (n != y)
  | .fin na ma ea, .fin nb mb eb => .fin (na != nb) (ma * mb) (ea + eb)

/-- A quotient of naturals to at least 80 significant bits, the last bit set when anything was cut off, so that one
later rounding to any format of R99 is the rounding of the exact quotient. -/
def stickyDiv (a b : Nat) : Nat × Int :=
  let k := 80 + Nat.log2 b
  let q := (a <<< k) / b
  (2 * q + b2n (decide ((a <<< k) % b ≠ 0)), -(k : Int) - 1)

/-- The exact quotient under IEEE 754, up to the sticky bit. -/
def fdiv (a b : FVal) : FVal :=
  match a, b with
  | .nan, _ => .nan
  | _, .nan => .nan
  | .inf _, .inf _ => .nan
  | .inf x, .fin n _ _ => .inf (x != n)
  | .fin n _ _, .inf y => .fin (n != y) 0 0
  | .fin na ma ea, .fin nb mb eb =>
    if mb = 0 then (if ma = 0 then .nan else .inf (na != nb))
    else
      let (q, e) := stickyDiv ma mb
      .fin (na != nb) q (e + ea - eb)

/-- The largest r with r^p ≤ n, found bit by bit from bit `k - 1` down. -/
def irootFrom (p n : Nat) : Nat → Nat → Nat
  | 0, r => r
  | k + 1, r => if (r + 2 ^ k) ^ p ≤ n then irootFrom p n k (r + 2 ^ k) else irootFrom p n k r

/-- ⌊n^(1/p)⌋ for p ≥ 1. -/
def iroot (p n : Nat) : Nat := irootFrom p n (Nat.log2 n / p + 1) 0

/-- The p-th root of a positive magnitude m · 2^e to at least 80 bits with a sticky last bit. -/
def stickyRoot (p m : Nat) (e : Int) : Nat × Int :=
  let k := 80 * p + ((e - 80 * p) % p).toNat
  let n := m <<< k
  let r := iroot p n
  (2 * r + b2n (decide (r ^ p ≠ n)), (e - k) / p - 1)

/-- The square root under IEEE 754, up to the sticky bit. -/
def fsqrt (a : FVal) : FVal :=
  match a with
  | .nan => .nan
  | .inf n => if n then .nan else .inf false
  | .fin n m e =>
    if m = 0 then .fin n 0 0
    else if n then .nan
    else
      let (r, f) := stickyRoot 2 m e
      .fin false r f

/-- a < b as IEEE compares; false when either is NaN. -/
def flt (a b : FVal) : Bool :=
  match a, b with
  | .nan, _ => false
  | _, .nan => false
  | .inf x, .inf y => x && !y
  | .inf x, _ => x
  | _, .inf y => !y
  | .fin na ma ea, .fin nb mb eb =>
    let e0 := min ea eb
    decide (atExp na ma ea e0 < atExp nb mb eb e0)

/-- The larger of two values; +0 over −0; NaN if either is NaN (R197 MAX). -/
def fmax (a b : FVal) : FVal :=
  if a.isNan || b.isNan then .nan
  else if flt a b then b
  else if flt b a then a
  else if a.isNeg then b else a

/-- The smaller of two values; −0 under +0; NaN if either is NaN (R197 MIN). -/
def fmin (a b : FVal) : FVal :=
  if a.isNan || b.isNan then .nan
  else if flt a b then a
  else if flt b a then b
  else if a.isNeg then a else b

/-! ### Rounding (R109) -/

/-- The rounding of RND (R109); `sr` carries the 16 random bits of R118. -/
inductive Rnd where
  | rne | rtz | sr (bits : Nat)
  deriving DecidableEq, Repr

/-- The rounding that an RND field selects, where it is not stochastic. -/
def rndOf (n : Nat) : Rnd := if n = 1 then .rtz else .rne

/-- Whether a discarded part `rem / 2^s` rounds the kept magnitude `k` up. -/
def roundsUp (md : Rnd) (k rem s : Nat) : Bool :=
  match md with
  | .rne => decide (2 * rem > 2 ^ s) || (decide (2 * rem = 2 ^ s) && decide (k % 2 = 1))
  | .rtz => false
  | .sr r => decide ((rem <<< 16) >>> s + r ≥ 2 ^ 16)

/-- The kept magnitude of m · 2^e in units of 2^q (R109). -/
def keepAt (md : Rnd) (m : Nat) (e q : Int) : Nat :=
  if q ≤ e then m <<< (e - q).toNat
  else
    let s := (q - e).toNat
    let k := m >>> s
    let rem := m - k <<< s
    if roundsUp md k rem s then k + 1 else k

/-- ⌊log2 (m · 2^e)⌋ of a non-zero magnitude. -/
def log2Floor (m : Nat) (e : Int) : Int := (Nat.log2 m : Int) + e

/-- The exponent of the spacing q of a format at the magnitude m · 2^e (R109). -/
def qExp (f : FFmt) (m : Nat) (e : Int) : Int := max (log2Floor m e) (1 - (f.bias : Int)) - (f.fw : Int)

/-- A magnitude rounded to a format with the exponent range unbounded above (R109). -/
def roundMag (f : FFmt) (md : Rnd) (m : Nat) (e : Int) : Nat × Int :=
  if m = 0 then (0, 0) else (keepAt md m e (qExp f m e), qExp f m e)

/-- The largest finite magnitude of a format, k · 2^e. -/
def maxFinite (f : FFmt) : Nat × Int :=
  match f.top with
  | .ieee => (2 ^ (f.fw + 1) - 1, (2 ^ f.ew - 2 : Int) - f.bias - f.fw)
  | .e4m3 => (2 ^ (f.fw + 1) - 2, (2 ^ f.ew - 1 : Int) - f.bias - f.fw)
  | .finite => (2 ^ (f.fw + 1) - 1, (2 ^ f.ew - 1 : Int) - f.bias - f.fw)

/-- k · 2^e exceeds the format's largest finite magnitude. -/
def beyond (f : FFmt) (k : Nat) (e : Int) : Bool := flt (.fin false (maxFinite f).1 (maxFinite f).2) (.fin false k e)

/-- One RNE rounding of an exact value to a format of IEEE arithmetic; a result beyond the largest finite value is an
infinity (R115, R172). -/
def rndTo (f : FFmt) (v : FVal) : FVal :=
  match v with
  | .fin n m e =>
    let (k, q) := roundMag f .rne m e
    if beyond f k q then .inf n else .fin n k q
  | w => w

/-- One rounding to A40 with RNE. -/
def a40 (v : FVal) : FVal := rndTo fmtA40 v

/-- One rounding to FP32 with RNE. -/
def f32 (v : FVal) : FVal := rndTo fmtFP32 v

/-! ### Codes -/

/-- The value of a code of a format (R99, R100). -/
def decF (f : FFmt) (c : Nat) : FVal :=
  let frac := bits c (f.fw - 1) 0
  let ex := bits c (f.fw + f.ew - 1) f.fw
  let n := bit c (f.fw + f.ew)
  if f.top = .ieee ∧ ex = 2 ^ f.ew - 1 then (if frac = 0 then .inf n else .nan)
  else if f.top = .e4m3 ∧ ex = 2 ^ f.ew - 1 ∧ frac = 2 ^ f.fw - 1 then .nan
  else if ex = 0 then .fin n frac (1 - (f.bias : Int) - f.fw)
  else .fin n (2 ^ f.fw + frac) ((ex : Int) - f.bias - f.fw)

/-- The canonical NaN of a format (R100); E3M2, E2M3 and E2M1 elements have none. -/
def canonNan (f : FFmt) : Nat :=
  match f.top with
  | .ieee => ((2 ^ f.ew - 1) <<< f.fw) + 2 ^ (f.fw - 1)
  | .e4m3 => 2 ^ (f.ew + f.fw) - 1
  | .finite => 0

/-- The code of a magnitude already rounded to the format and not beyond its largest finite value. -/
def encMag (f : FFmt) (k : Nat) (q : Int) : Nat :=
  if k = 0 then 0
  else
    let e := log2Floor k q
    if e < 1 - (f.bias : Int) then keepAt .rtz k q (1 - (f.bias : Int) - f.fw)
    else ((e + f.bias).toNat <<< f.fw) + (keepAt .rtz k q (e - f.fw) - 2 ^ f.fw)

/-- The sign bit of a format, at its place. -/
def signBit (f : FFmt) (n : Bool) : Nat := if n then 2 ^ (f.ew + f.fw) else 0

/-- The code of a value that the format holds exactly, or of an infinity or NaN of it. -/
def encF (f : FFmt) (v : FVal) : Nat :=
  match v with
  | .nan => canonNan f
  | .inf n => signBit f n + ((2 ^ f.ew - 1) <<< f.fw)
  | .fin n m e => signBit f n + encMag f m e

/-- The FP32 value of a code, and the code of a value rounded to FP32. -/
def dec32 (c : Nat) : FVal := decF fmtFP32 (c % 2 ^ 32)
def enc32 (v : FVal) : Nat := encF fmtFP32 (f32 v)
/-- The A40 value in a container (R101), and the container of a value rounded to A40. -/
def decA40 (c : Nat) : FVal := decF fmtA40 (c % 2 ^ 40)
def encA40 (v : FVal) : Nat := encF fmtA40 (a40 v)

/-! ### Conversion and its events (R108 to R113) -/

/-- Events of R113: saturations, non-finite inputs, non-finite outputs. -/
structure Events where
  sat : Nat
  nin : Nat
  nout : Nat
  deriving DecidableEq, Repr

def noEvents : Events := ⟨0, 0, 0⟩
def Events.add (a b : Events) : Events := ⟨a.sat + b.sat, a.nin + b.nin, a.nout + b.nout⟩

/-- A conversion result: the code written, and its events. -/
structure Conv where
  code : Nat
  ev : Events
  deriving DecidableEq, Repr

/-- ± the largest finite code of a format. -/
def maxCode (f : FFmt) (n : Bool) : Nat := signBit f n + encMag f (maxFinite f).1 (maxFinite f).2

/-- Conversion to a floating-point format (R109, R110); `mx` says that the target is an MX element, whose finite
results saturate whatever NFM is (R107). -/
def convF (f : FFmt) (mx : Bool) (md : Rnd) (nfm : Bool) (v : FVal) : Conv :=
  match v with
  | .nan => ⟨canonNan f, ⟨0, 1, 1⟩⟩
  | .inf n =>
    if !nfm then ⟨maxCode f n, ⟨0, 1, 0⟩⟩
    else match f.top with
      | .ieee => ⟨encF f (.inf n), ⟨0, 1, 1⟩⟩
      | _ => ⟨canonNan f, ⟨0, 1, 1⟩⟩
  | .fin n m e =>
    let (k, q) := roundMag f md m e
    if beyond f k q then
      if mx || !nfm then ⟨maxCode f n, ⟨1, 0, 0⟩⟩
      else match f.top with
        | .ieee => ⟨encF f (.inf n), ⟨0, 0, 1⟩⟩
        | _ => ⟨canonNan f, ⟨0, 0, 1⟩⟩
    else ⟨signBit f n + encMag f k q, noEvents⟩

/-- Conversion to a two's-complement integer of `w` bits (R112). -/
def convInt (w : Nat) (md : Rnd) (v : FVal) : Conv :=
  let lo : Int := -(2 ^ (w - 1) : Int)
  let hi : Int := 2 ^ (w - 1) - 1
  match v with
  | .nan => ⟨0, ⟨0, 1, 0⟩⟩
  | .inf n => ⟨unsigned w (if n then lo else hi), ⟨0, 1, 0⟩⟩
  | .fin n m e =>
    let k := keepAt md m e 0
    let i : Int := if n then -(k : Int) else (k : Int)
    if i < lo then ⟨unsigned w lo, ⟨1, 0, 0⟩⟩
    else if i > hi then ⟨unsigned w hi, ⟨1, 0, 0⟩⟩
    else ⟨unsigned w i, noEvents⟩

/-! ### Format codes (R98) -/

/-- Bits of one stored element; an A40 takes a 64-bit container. -/
def elemBits (fmt : Nat) : Nat :=
  match fmt with
  | 0 => 32 | 1 => 16 | 2 => 16 | 3 => 8 | 4 => 8 | 5 => 8 | 6 => 8 | 7 => 6 | 8 => 6 | 9 => 4
  | 10 => 64 | 11 => 8 | 12 => 16 | 13 => 32 | _ => 0

/-- The format has a shared scale (R103). -/
def isMx (fmt : Nat) : Bool := decide (5 ≤ fmt ∧ fmt ≤ 9)
/-- The format is INT8, INT16 or INT32. -/
def isIntFmt (fmt : Nat) : Bool := decide (11 ≤ fmt ∧ fmt ≤ 13)
/-- The code is not reserved. -/
def fmtDefined (fmt : Nat) : Bool := decide (fmt ≤ 13)

/-- The element layout of a floating-point or MX format code. -/
def elemFmt (fmt : Nat) : FFmt :=
  match fmt with
  | 0 => fmtFP32 | 1 => fmtBF16 | 2 => fmtFP16 | 3 => fmtE4M3 | 4 => fmtE5M2 | 5 => fmtE4M3 | 6 => fmtE5M2
  | 7 => fmtE3M2 | 8 => fmtE2M3 | 9 => fmtE2M1 | _ => fmtA40

/-- emax of R106. -/
def mxEmax (fmt : Nat) : Int :=
  match fmt with
  | 5 => 8 | 6 => 15 | 7 => 4 | 8 => 2 | _ => 2

/-- The value of element code `c` of a format, for an MX format at scale byte `x` (R103, R105). -/
def decElem (fmt c x : Nat) : FVal :=
  if isIntFmt fmt then
    let i := signed (elemBits fmt) c
    .fin (decide (i < 0)) i.natAbs 0
  else if isMx fmt then
    if x = 255 then .nan else (decF (elemFmt fmt) c).scale ((x : Int) - 127)
  else decF (elemFmt fmt) (c % 2 ^ (if fmt = 10 then 40 else elemBits fmt))

/-- Conversion to a format that is not MX (R108 to R112). -/
def convTo (fmt : Nat) (md : Rnd) (nfm : Bool) (v : FVal) : Conv :=
  if isIntFmt fmt then convInt (elemBits fmt) md v else convF (elemFmt fmt) false md nfm v

/-- The largest finite magnitude of a list: its ⌊log2⌋, or none where every value is zero or not finite. -/
def amaxLog : List FVal → Option Int
  | [] => none
  | .fin _ m e :: r =>
    if m = 0 then amaxLog r
    else match amaxLog r with
      | none => some (log2Floor m e)
      | some x => some (max x (log2Floor m e))
  | _ :: r => amaxLog r

/-- The exponent X of the scale of an MX block (R106). -/
def mxScale (fmt : Nat) (vs : List FVal) : Int :=
  match amaxLog vs with
  | none => 0
  | some l => max (l - mxEmax fmt) (-127)

/-- The element layout has no NaN, so a NaN makes the block's scale 0xFF (R110). -/
def mxNoNan (fmt : Nat) : Bool := decide ((elemFmt fmt).top = .finite)

/-- One MX block: scale byte, element codes, events (R106, R107, R110). `mds` gives each element's rounding. -/
def convMx (fmt : Nat) (mds : List Rnd) (nfm : Bool) (vs : List FVal) : Nat × List Nat × Events :=
  let x := mxScale fmt vs
  let poisoned := mxNoNan fmt && vs.any (fun v => v.isNan || (nfm && !v.isFinite))
  let cs := (vs.zip mds).map (fun p => convF (elemFmt fmt) true p.2 nfm (p.1.scale (-x)))
  let ev := cs.foldl (fun a c => a.add c.ev) noEvents
  if poisoned then
    (255, (vs.zip cs).map (fun p =>
        if p.1.isNan || (nfm && !p.1.isFinite) then Config.mxNanCode % 2 ^ elemBits fmt else p.2.code),
      { ev with nout := vs.length })
  else ((x + 127).toNat, cs.map (·.code), ev)

/-! ### The rounding generator (R116) -/

/-- One round of R116 on (k, x, y). -/
def genRound (s : W64 × W64 × W64) : W64 × W64 × W64 :=
  let k := s.1 + 0xC6E127A94B05F8DD#64
  let x := (s.2.1 + s.2.2) ^^^ k
  let x := x * 0x8F3A5C71D24E96B3#64
  let x := x ^^^ (x >>> (32 : Nat))
  (k, x, s.2.2.rotateLeft 23 ^^^ x)

/-- Eight rounds, or as many as `n` says. -/
def genRounds : Nat → W64 × W64 × W64 → W64 × W64 × W64
  | 0, s => s
  | n + 1, s => genRounds n (genRound s)

/-- gen(seed, step, gid, dom, c) of R116. -/
def gen (seed step gid dom c : Nat) : Nat :=
  let r := genRounds 8 (BitVec.ofNat 64 seed, BitVec.ofNat 64 c,
    BitVec.ofNat 64 ((step % 2 ^ 32) <<< 32 + (gid % 2 ^ 16) <<< 16 + dom % 2 ^ 16))
  (r.2.1 ^^^ r.2.2).toNat

/-- The 16 random bits of element `i` of a weight block (R118). -/
def srBits (seed step gid i : Nat) : Nat :=
  bits (gen seed step gid 1 (i / 4)) (16 * (i % 4) + 15) (16 * (i % 4))

/-! ### Block sums and passes (R168 to R174, R185) -/

/-- The exact sum of a list of finite values as an integer at exponent `e0`; other values count zero. -/
def sumAt (e0 : Int) : List FVal → Int
  | [] => 0
  | .fin n m e :: r => atExp n m e e0 + sumAt e0 r
  | _ :: r => sumAt e0 r

/-- The lowest exponent of the finite values of a list. -/
def minExp : List FVal → Int
  | [] => 0
  | .fin _ _ e :: r => match r with
    | [] => e
    | _ => min e (minExp r)
  | _ :: r => minExp r

/-- A value cut toward zero to a multiple of 2^l (R171). -/
def truncAt (l : Int) (v : FVal) : FVal :=
  match v with
  | .fin n m e => if e ≥ l then v else .fin n (m >>> (l - e).toNat) l
  | w => w

/-- The exact sum a block rounds, with the special cases of R172; `win` is the window width 59 or 124 of R171, or none
for the exact classes of R170. -/
def blockExact (win : Option Nat) (ps : List FVal) : FVal :=
  if ps.any FVal.isNan then .nan
  else
    let pinf := ps.any (fun p => p == .inf false)
    let ninf := ps.any (fun p => p == .inf true)
    if pinf && ninf then .nan
    else if pinf then .inf false
    else if ninf then .inf true
    else
      let qs := match win, amaxLog ps with
        | some w, some emax => ps.map (truncAt (emax - w))
        | _, _ => ps
      let e0 := minExp qs
      ofInt (sumAt e0 qs) e0 (ps.all (fun p => p.isZero && p.isNeg))

/-- A value of the accumulation with its companion (R185); a plain value has companion +0. -/
structure Pair where
  h : FVal
  e : FVal
  deriving DecidableEq, Repr

def plain (v : FVal) : Pair := ⟨v, fzero⟩

/-- A block as a pair: one rounding to A40, and in compensated mode the error of that rounding (R185). -/
def blockPair (comp : Bool) (b : FVal) : Pair :=
  let h := a40 b
  if comp && h.isFinite then ⟨h, a40 (fsub b h)⟩ else ⟨h, fzero⟩

/-- The addition of R173, or the compensated addition of R185. -/
def pairAdd (comp : Bool) (x y : Pair) : Pair :=
  let s := fadd x.h y.h
  let h := a40 s
  if comp && h.isFinite then ⟨h, a40 (fadd (a40 (fadd x.e y.e)) (fsub s h))⟩ else ⟨h, fzero⟩

/-- The value a pair leaves: a40(h + e) (R185). -/
def pairOut (comp : Bool) (p : Pair) : FVal := if comp then a40 (fadd p.h p.e) else p.h

/-- One level of the pairwise tree of R174. -/
def treeLevel (comp : Bool) : List Pair → List Pair
  | a :: b :: r => pairAdd comp a b :: treeLevel comp r
  | r => r

/-- The pairwise tree: `d` levels, leaving one value. -/
def tree (comp : Bool) : Nat → List Pair → Pair
  | 0, ps => ps.headD (plain fzero)
  | d + 1, ps => tree comp d (treeLevel comp ps)

/-- A list cut into pieces of `k`, `n` of them. -/
def chunks {α : Type} (k : Nat) : Nat → List α → List (List α)
  | 0, _ => []
  | n + 1, l => l.take k :: chunks k n (l.drop k)

/-- Block size, number of blocks, tree depth and window of a width class in bits: 4 and 8, 16, 32 (R168). -/
def blockShape (width : Nat) : Nat × Nat × Nat × Option Nat :=
  if width ≤ 8 then (32, 4, 2, none) else if width = 16 then (8, 16, 4, some 59) else (4, 32, 5, some 124)

/-- The pass of 128 products of a width class (R174). -/
def pass (width : Nat) (comp : Bool) (ps : List FVal) : Pair :=
  let (bs, nb, d, win) := blockShape width
  tree comp d ((chunks bs nb ps).map (fun b => blockPair comp (blockExact win b)))

/-! ### Prordaut conformance arithmetic (R121, R122) -/

/-- Subnormals of FP32 flushed to a zero of their sign. -/
def ftz (v : FVal) : FVal :=
  match v with
  | .fin n m e => if m ≠ 0 ∧ log2Floor m e < -126 then .fin n 0 0 else v
  | w => w

/-- The sequential accumulation of R121 over pairs of operands. -/
def pdtAcc : FVal → List (FVal × FVal) → FVal
  | acc, [] => acc
  | acc, (a, b) :: r => pdtAcc (ftz (f32 (fadd acc (ftz (f32 (fmul (ftz a) (ftz b))))))) r

end Sys2Proof.Machine
end

