-- ==== Sys2Proof/Machine/State.lean ====
section
/-! DEFINITION. The state of the package: plain data, everything the spec gives the machine. The registers of BAR0 are
one sparse map keyed by BAR0 offset (a register the map does not list holds its reset value), and every register has
that one home. What no register shows has a field of its own below. Times are array cycles since reset (1 sc = 2 ac,
00). Sparse maps (`List (Nat × α)`) list only keys whose value differs from the map's default, in rising order. -/

namespace Sys2Proof.Machine

/-! ### Records and outputs (R564, R161) -/

/-- A 64-byte error or statistics record without its PHASE and DROPPED fields, which the write to a ring fills in. -/
structure Record where
  number : Nat
  sev : Nat
  stat : Bool
  src : Nat
  chip : Nat
  rseq : Nat
  step : Nat
  attempt : Nat
  slice : Nat
  time : Nat
  payload : List Nat        -- four 64-bit words, bytes 32-63
  deriving DecidableEq, Repr

/-- How the last PCIe access of a BAR completed (R6, R549, R634). -/
inductive Completion where
  | none | success | unsupportedRequest | completerAbort
  deriving DecidableEq, Repr

/-! ### The sequencers -/

/-- The state that governs issue and is observed 25 sc late (R39). -/
inductive GovKey where
  | rillOcc (n : Nat) | rillCred (n : Nat)
  | aqdOut (h c : Nat)
  | ringArr (n : Nat)
  | verdict | permVerdict
  | abort
  | reclaim | hold
  | qfill (h q : Nat)         -- q: 0, 1 RIL0, RIL1; 2, 3 AQD0, AQD1; 4 WEI
  | resident (h page : Nat)
  | gapPwr (h : Nat)
  | rollback
  deriving DecidableEq, Repr

/-- A change of governing state on its way to the sequencers: when both observe it, and the value it brings. -/
structure GovEvent where
  due : Nat
  key : GovKey
  val : Nat
  deriving DecidableEq, Repr

/-- An active loop (R51): first bundle of the body, LEN, COUNT and the iteration running. -/
structure LoopFrame where
  start : Nat
  len : Nat
  count : Nat
  iter : Nat
  deriving DecidableEq, Repr

/-- One strand (R37): whether it runs, its SPC, the address of its last issued bundle, how many times the bundle at
SPC has issued (REPEAT), when it last issued (its start, before its first issue), since when a wait, JOIN or VERD holds it with the gap time then counted
(R87), and its active loops, the innermost first. -/
structure Strand where
  on : Bool
  spc : Nat
  lastSpc : Nat
  rep : Nat
  lastIssue : Nat
  held : Option (Nat × Nat)
  loops : List LoopFrame
  cycle : Nat                     -- 1 + the time of its last issue, 0 before the first
  deriving DecidableEq, Repr

/-- A segment of a confluence (R70). -/
inductive SegPhase where
  | pending | running | ended
  deriving DecidableEq, Repr

/-- An open confluence: its fork descriptor and the phase of each segment. -/
structure Confluence where
  desc : Nat
  a : SegPhase
  b : SegPhase
  at' : Nat                       -- when the FORK issued
  deriving DecidableEq, Repr

/-- How far an unwind has come (R80). -/
inductive Unwind where
  | no             -- no step is being unwound
  | waitVerdict    -- step 4: waiting for the slice verdict
  | waitRollback   -- step 5: waiting for the rollback
  | resume         -- step 6 may begin
  deriving DecidableEq, Repr

/-- One page frame of a stream reservoir (R44, R45): the page whose contents it holds, those contents (sparse bytes,
default 0), whether the page is resident in truth, the page being fetched into it, whether it is pinned, and when a
strand last issued from it. -/
structure Frame where
  page : Option Nat
  data : List (Nat × Byte)
  resident : Bool
  fetch : Option Nat
  pinned : Bool
  used : Nat
  deriving DecidableEq, Repr

/-- The paging engine of one half: frames, pages wanted by held strands and by prefetch with no frame free yet, and
the bundle addresses whose page is fetched again after a parity failure (R46). -/
structure Pager where
  frames : List Frame
  demand : List Nat
  prefetch : List Nat
  refetched : List Nat
  deriving DecidableEq, Repr

/-- The sequencer pair (02). -/
structure Seq where
  main : Strand
  segA : Strand
  segB : Strand
  calls : List (Nat × Nat)        -- return address and loop depth, the last pushed first (R56)
  confl : Option Confluence
  sidaTime : Option Nat           -- TIME of the last SIDA issued since the start (R75)
  late : Nat                      -- late-issue counter (R62)
  gapEnd : Nat                    -- no issue before this time (R83)
  lastCycle : Option Nat          -- the last issue cycle (R37)
  gapTotal : Nat                  -- gap time so far, not counted by the watchdog (R87)
  startAt : Nat                   -- time of the last start (R60, R379)
  stepOpen : Bool
  report : Option Nat             -- VERD or unwind report sent for the open step: 1 CLEAN, 2 POISON, 3 ABORT
  wdogStep : Option Nat           -- step of the last WAIT_TIMEOUT (R87)
  unwind : Unwind
  abortNext : Option Nat          -- an abort held for a step whose STEPB has not issued (R81)
  abortsDiscarded : Nat           -- aborts that named a closed step (R81)
  reclaimSeen : Bool              -- reclaim notice observed (R82)
  holdSeen : Bool                 -- hold notice observed (R82)
  stepbHeld : Bool                -- a STEPB held while a capture base is written (R644)
  pagerA : Pager
  pagerB : Pager
  deriving DecidableEq, Repr

/-! ### Host rings (15) -/

/-- A data descriptor prefetched from host memory (R561). -/
structure DataDesc where
  addr : Nat
  len : Nat
  deriving DecidableEq, Repr

/-- What a ring keeps beyond its registers: descriptors fetched (CMD) or prefetched (DIN, DOUT), whether a bad TYPE
stopped its fetching (R558), the type of each delivered descriptor not yet consumed, transfers completed at the head,
the head (R561; HST_RIDX.DEVIDX is the committed head, R562), a doorbell not acted on yet (R555), records not yet signalled and since when (R568), and records dropped since the
last one written (R564). -/
structure RingH where
  fetched : Nat
  stopped : Bool
  headXfers : Nat
  head : Nat
  bell : Bool
  descs : List (Nat × DataDesc)
  unsig : Nat
  unsigAt : Nat
  dropped : Nat
  deriving DecidableEq, Repr

def RingH.init : RingH := ⟨0, false, 0, 0, false, [], 0, 0, 0⟩

/-- Everything the host interface keeps beyond its registers (R564 to R569). -/
structure Hst where
  rings : List (Nat × RingH)
  rseq : Nat
  ovf : List (Nat × Record)          -- overflow buffer, oldest first, with the ring each record is bound for
  statWait : List (Nat × Record)     -- statistics records whose source waits (R567)
  evovf : Option Nat                 -- the ring of a drop that HST_EVOVF has not reported yet
  hostMem : List Host.Cell           -- host memory as the device has written it (MODEL'S OWN)
  msix : List Nat                    -- vectors signalled, the last first (MODEL'S OWN)
  cpl : Completion                   -- how the last host access completed (MODEL'S OWN)
  errlog : List Record               -- persistent error log, the last first (R569, R401)
  pldmEvents : List Record           -- PLDM event messages sent, the last first (R583)
  flr : Bool                         -- a Function Level Reset waits for the drains to complete (R552)
  deriving DecidableEq, Repr

def Hst.init : Hst := ⟨[], 0, [], [], none, [], [], .none, [], [], false⟩

/-! ### Cascade units (04, 05) -/

/-- A stationary buffer: when its load ends, when its last reader ends (R146), its element width and valid lengths. -/
structure SbMeta where
  loadAt : Nat
  loadEnd : Nat
  readEnd : Nat
  fmt : Nat
  klen : Nat
  nlen : Nat
  deriving DecidableEq, Repr

/-- An open ladder (R139, R175): NLEV and BASE in force at LOPEN, occupied levels (key 32 · row + level), compensated
rows, and whether a carry beyond the top was reported (R140). -/
structure Ladder where
  nlev : Nat
  base : Nat
  occ : List (Nat × Nat)
  comp : List (Nat × Nat)
  top : Bool
  deriving DecidableEq, Repr

/-- A pass row on its way to a basin (R145, R176): when it applies, unit, tile, row, its 128 pass values, ACM, whether
it is compensated, and how many BCTLs the unit had taken at its issue. -/
structure RowApp where
  due : Nat
  uid : Nat
  bt : Nat
  row : Nat
  vals : List Pair
  acm : Nat
  comp : Bool
  pdt : List (List (FVal × FVal))   -- operand pairs of a conformance-mode row (R121), else empty
  gp : Bool
  serial : Nat
  step : Nat
  deriving DecidableEq, Repr

/-- A ROOT in progress on a terrace (R150 to R154). -/
structure RootRun where
  issued : Nat
  ends : Nat
  op : BitVec 48
  spc : Nat
  strand : Nat
  aaddr : Nat
  oaddr : Nat
  saddr : Nat
  delta : Nat
  tol : Nat
  nt : Nat
  pc : Nat
  nit : Nat
  gp : Bool
  step : Nat
  input : List Nat          -- A as FP32 codes, row-major, read at the issue
  deriving DecidableEq, Repr

/-- The 128 cascade units. Keys: a tile is 4 · uid + b, an element (tile · 128 + row) · 128 + column, a stationary
buffer 2 · uid + b, its element buffer · 16384 + k · 128 + n. -/
structure Cas where
  elems : List (Nat × Nat)          -- A40 containers of the basins, 0 where unlisted
  tstate : List (Nat × Nat)         -- 0 CLOSED, 1 OPEN, 2 LADDER (R137, R164)
  ladders : List (Nat × Ladder)
  sb : List (Nat × SbMeta)          -- buffers loaded since reset or since a ROOT
  sbElems : List (Nat × FVal)
  streamFree : List (Nat × Nat)     -- per unit: end of the last streaming op (R146)
  loadFree : List (Nat × Nat)       -- per unit: end of the last LDS's load (R146)
  rows : List RowApp                -- in order of issue
  bctls : List (Nat × Nat)          -- per unit: number of BCTLs taken
  lastFn : List (Nat × Nat)         -- per unit: FN of the last BCTL
  roots : List (Nat × RootRun)      -- per terrace
  busy : List (Nat × Nat)           -- per half: when the last accepted op completes (R166)
  deriving DecidableEq, Repr

def Cas.init : Cas := ⟨[], [], [], [], [], [], [], [], [], [], [], []⟩

/-! ### Jets (06) -/

/-- A result on its way (R213, R214): when it lands; the vector register it replaces (32 · terrace + register) with
its 8192 bytes; the table it replaces (2 · terrace + TGT) with its bytes; the runs of memory bytes it stores. -/
structure JetLand where
  due : Nat
  reg : Option (Nat × List Byte)
  table : Option (Nat × List Byte)
  runs : List (Nat × List Byte)
  deriving DecidableEq, Repr

/-- The 16 jets. Keys: a register byte is (32 · terrace + register) · 8192 + byte; P of row r of a bank is
((4 · terrace + bank) · 128 + r) · 2 and Q the next; the kind of a row group (4 · terrace + bank) · 8 + group. -/
structure Jet where
  bytes : List (Nat × Byte)
  rows : List (Nat × Nat)           -- A40 containers
  kinds : List (Nat × Nat)          -- RK + 1; 0 where the group has no kind
  tables : List (Nat × List Byte)   -- 2 · terrace + TGT: the loaded table's bytes
  portFree : List (Nat × Nat)       -- per terrace: when the memory port is free (R215)
  lands : List JetLand              -- in order of issue
  busy : List (Nat × Nat)           -- per half: when the last accepted op completes
  deriving DecidableEq, Repr

def Jet.init : Jet := ⟨[], [], [], [], [], [], []⟩

/-! ### Astrolabe and shadow cascade (10) -/

/-- A sampled window in the shadow cascade of a half (R354 to R357): until when it occupies the cascade, which window
of which op it is, its metric as an FP32 code and how many elements it excluded. -/
structure Shadow where
  ends : Nat
  terr : Nat
  unit : Nat
  odd : Bool
  rb : Nat
  cb : Nat
  c : Nat
  step : Nat
  word : Nat
  spc : Nat
  strand : Nat
  metric : Nat
  excluded : Nat
  deriving DecidableEq, Repr

/-- A gradient-norm accumulator (R352): exact sums in units of 2^-298, counts, and the non-finite flag. -/
structure GnAcc where
  loc : Nat
  red : Nat
  nloc : Nat
  nred : Nat
  nf : Bool
  deriving DecidableEq, Repr

def GnAcc.init : GnAcc := ⟨0, 0, 0, 0, false⟩

/-- Both astrolabes. A bank is 2 · half + bank; its sums are keyed (bank · 4 + kind) · 2048 + entry with kinds W, G, U,
S; its sample counts bank · 4 + 0 compared, 1 skipped, 2 mismatches, 3 largest metric (R345). -/
structure Ast where
  sums : List (Nat × Nat)
  nel : List (Nat × Nat)
  hasu : List (Nat × Nat)
  samples : List (Nat × Nat)
  lateStep : List (Nat × Nat)       -- per half: 1 + the step in which a late contribution was last reported (R345)
  discards : List (Nat × Nat)       -- per half: contributions discarded (R345, R346)
  gn : List (Nat × GnAcc)
  draws : List (Nat × Nat)          -- per half: matrix ops drawn for since STEPB (R354)
  shadow : List (Nat × Shadow)      -- per half: the sample in flight
  forced : List (Nat × Nat)         -- 8 · half + terrace: 1 + issue time of an SFORCE (R361)
  mism : List (Nat × Nat)           -- per half: mismatches of the step (R358)
  snapSerial : Nat                  -- WEI commands issued before the SNAP that waits (R348)
  deriving DecidableEq, Repr

def Ast.init : Ast := ⟨[], [], [], [], [], [], [], [], [], [], [], 0⟩

/-- The resolution the EPH op of a half-word made at its issue (R275): the resolved data base, or none where the op
raised an exception or gave none. -/
structure EphRes where
  t : Nat
  base : Option Nat
  failed : Bool
  deriving DecidableEq, Repr

/-! ### Ephemeris (08) -/

/-- What the ephemeris keeps beyond its registers: condemned slots, keyed 8 · entry + slot (R281), and LAG at the
step's STEPB (R282). -/
structure Eph where
  condemned : List (Nat × Nat)
  lagAtStep : Nat
  deriving DecidableEq, Repr

def Eph.init : Eph := ⟨[], 0⟩

/-! ### Rills (07) -/

/-- A rill command in a command port's queue (R238 to R244, R257): what it noted at its issue. `m` is the stride sum
of R241, `h` the slab of HSRC whose header it copies, `tag` and `step` those of R231. -/
structure RilCmd where
  op : BitVec 48
  spc : Nat
  strand : Nat
  running : Bool
  rungen : Nat
  m : Int
  h : Nat
  tag : Nat
  step : Nat
  deriving DecidableEq, Repr

/-- A COMMIT that has executed and is on its way across the bridge to its ring: when it reaches it, the context, and
the header it writes (R13, R227). -/
structure RilCross where
  due : Nat
  ctx : Nat
  header : List Byte
  deriving DecidableEq, Repr

/-- What the stage engine keeps beyond its registers. A command port is 2 · half + port. -/
structure Ril where
  queues : List (Nat × List RilCmd)
  waits : List (Nat × Nat)          -- per command port: 1 + when its head began to wait (R245)
  said : List (Nat × Nat)           -- per command port: 1 once this wait has raised RIL_STALL
  started : List (Nat × Nat)        -- per TX context: SENDs started, S of R252
  sends : List (Nat × Nat)          -- SENDs transmitting: context and command port, oldest first (R239)
  sendPort : List (Nat × Nat)       -- per context: 1 + port of its SENDs or COMMITs (R238)
  relPort : List (Nat × Nat)        -- per context: 1 + port of its RELEASEs
  savedMb : List (Nat × Nat)        -- MBNEXT at STEPB (R232)
  opens : List (Nat × (Nat × Nat))  -- the OPEN held: RUNGEN, and LOGN + 256 · LOGSZ (R247)
  credSent : List (Nat × Nat)       -- 1: a CRED was sent since the start (R247)
  unwinding : List Nat              -- contexts that drain and restart in an unwind (R256)
  cross : List RilCross             -- COMMITs on their way across the bridge, in order of execution
  deriving DecidableEq, Repr

def Ril.init : Ril := ⟨[], [], [], [], [], [], [], [], [], [], [], []⟩

/-! ### Weirs (09) -/

/-- A weir command with what it took at its issue (R303, R313, R328): span j, parameters in force, whether it is
speculative and the step it belongs to; and how far it has come: its build slot and the next group of its span. -/
structure WeiCmd where
  op : BitVec 32
  spc : Nat
  strand : Nat
  span : Nat
  pstep : Nat
  eta : Nat
  lambda : Nat
  invls : Nat
  spec : Bool
  step : Nat
  serial : Nat
  ent : List Nat                    -- its table entry once begun, else empty
  slot : Option Nat
  next : Nat
  rowT : Option Nat                 -- the count t of the row in progress, where it is updated (R309)
  nonfin : Bool
  deriving DecidableEq, Repr

/-- A weir (R315 to R326): its queue, the command it runs, the entries in its ring (position and size, the newest
first), its write position, the ring in force, when it began to wait for a slot, and the step of its last WEI_BWFULL. -/
structure Weir where
  queue : List WeiCmd
  cur : Option WeiCmd
  log : List (Nat × Nat)
  pos : Nat
  cfg : Nat                         -- WEI_BW in force
  waitAt : Nat                      -- 1 + when it began to wait for a build slot or for ring space, else 0
  waitRing : Bool                   -- it waits for ring space
  waitSaid : Bool                   -- this wait has raised WEI_NOSLOT
  full : Nat                        -- 1 + the step of the last WEI_BWFULL
  rolling : Option Nat              -- the step whose rollback it has still to make (R320)
  deriving DecidableEq, Repr

def Weir.init : Weir := ⟨[], none, [], 0, 0, 0, false, false, 0, none⟩

/-- The eight weirs and the halves' WEI queues (R38, R326). -/
structure Wei where
  weirs : List (Nat × Weir)
  queues : List (Nat × List WeiCmd)
  issued : List (Nat × Nat)         -- per weir: commands issued, by serial number (R348)
  counts : List (Nat × Nat)         -- 8 · weir + k: issued, dispatched, completed, discarded (R325)
  verdict : Nat                     -- 1 + the last step whose verdict was applied clear (R314)
  deriving DecidableEq, Repr

def Wei.init : Wei := ⟨[], [], [], [], 0⟩

/-! ### Aqueduct (12) -/

/-- A transfer (R421 to R434): the op, the table entry's words, the stride sums and resolved bases it took at its
issue, and how far it has come: next row and byte, bursts started, destination of the last byte written, read-back (0
not begun, 1 outstanding, 2 done) and its begin, since when it waits for a data descriptor (R563, 1 + time), and
whether it has stopped while bursts are still in flight. -/
structure Xfer where
  serial : Nat
  op : BitVec 40
  half : Nat
  spc : Nat
  strand : Nat
  ent : List Nat
  ms : Int
  md : Int
  sres : Option Nat
  dres : Option Nat
  step : Nat
  row : Nat
  pos : Nat
  bursts : Nat
  last : Option Nat
  readBack : Nat
  ackAt : Nat
  waitHost : Nat
  dead : Bool
  deriving DecidableEq, Repr

/-- A piece of a burst in flight: a remote request outstanding (R483), or bytes read that wait behind an earlier read
of their channel (R429). Its owner is 0 a read of source bytes, 1 a write, 2 a read-back, 4 bytes that wait; `data`
holds what has been read and not yet written. -/
structure Req where
  tag : Nat
  oport : Nat
  oepoch : Nat
  at' : Nat
  owner : Nat
  half : Nat
  chan : Nat
  rungen : Nat
  serial : Nat
  burst : Nat
  row : Nat
  chip : Nat
  addr : Nat                        -- offset on the remote chip
  dst : Int                         -- where a read's bytes go
  len : Nat
  data : Option (List Byte)
  deriving DecidableEq, Repr

/-- The aqueduct. A port is 2 · half + port, a channel 32 · half + channel. -/
structure Aqd where
  queues : List (Nat × List Xfer)
  chans : List (Nat × List Xfer)
  rr : List (Nat × Nat)             -- 4 · half + level: 1 + the channel that last started a burst (R428)
  lastBurst : List (Nat × Nat)      -- per half: 1 + time of the last burst start (R428)
  reqs : List Req
  nextTag : Nat
  nextSerial : Nat
  since : List (Nat × Nat)          -- per channel: 1 + when it began to discard its transfers (R433, R434)
  ready : List (Nat × Nat)          -- per channel: 1 + when its next burst became ready (counter 0x703)
  deriving DecidableEq, Repr

def Aqd.init : Aqd := ⟨[], [], [], [], [], 0, 0, [], []⟩

/-! ### Hermen ports (13) -/

/-- A message at an egress port: its number there, the flits already formed of it and, where a rill SEND, CRED or OPEN
of this chip made it, the context. -/
structure Out where
  id : Nat
  msg : Msg
  sent : Nat
  ctx : Option Nat
  deriving DecidableEq, Repr

/-- A message being received on a virtual channel: its header, its data so far and the data bytes still to come. -/
structure Part where
  msg : Msg
  bits' : Nat                       -- header bytes 0–7, for its reserved bits
  left : Nat
  deriving DecidableEq, Repr

/-- A flit in the replay buffer: SEQ, TYPE, payload, the replays that began with it, and its message (R464, R466). -/
structure Replay where
  seq : Nat
  kind : Nat
  bytes : List Byte
  count : Nat
  out : Out
  deriving DecidableEq, Repr

/-- What a training sequence told of the peer (R472). -/
structure Peer where
  chip : Nat
  nonce : Nat
  epoch : Nat
  rw : Nat
  excl : Nat
  deriving DecidableEq, Repr

def Peer.init : Peer := ⟨0, 0, 0, 0, 0⟩

/-- Verdict-tree content of an IDLE: VSTEP, VKIND, VAL, PERM (R514). -/
structure Content where
  step : Nat
  kind : Nat
  val : Nat
  perm : Bool
  deriving DecidableEq, Repr

def Content.none : Content := ⟨0, 0, 0, false⟩

/-- A Hermen port beyond its registers. -/
structure Port where
  queue : List Out
  nextId : Nat
  replay : List Replay
  resend : Option Nat               -- index in the replay buffer of the next flit to resend
  expect : Nat                      -- SEQ expected
  accepted : Bool                   -- a flit was accepted since the reset
  nak : Bool                        -- the next flit carries NAK
  nakAt : Nat                       -- 1 + when a NAK was last sent (R465)
  parts : List (Nat × Part)         -- per virtual channel
  inbox : List Msg                  -- messages received whole and not yet delivered or forwarded
  owed : List (Nat × Nat)           -- per virtual channel: credits to return
  deficit : List (Nat × Nat)        -- per virtual channel: flits sent in the round (R463)
  phase : Nat                       -- of training: 0 none, 1 EQ, 2 TEST, 3 DECIDE, 4 LOCK (R471)
  phaseAt : Nat                     -- when that phase began
  resetAt : Nat                     -- when it entered RESET
  resetCfg : Bool                   -- stopped in RESET by bad buffer sizes (R479)
  trainAt : Nat                     -- when DETECT ended
  failAt : Nat                      -- 1 + when training failed (R471)
  nonce : Nat
  peer : Peer
  master : Bool
  passOwn : Nat                     -- lanes passing at this end (R474)
  ident : List Nat                  -- RES of the IDENTs received, the last first
  ownRes : Nat
  idleAt : Nat                      -- 1 + SID_TIME of the last IDLE sent
  echo : Option (Nat × Nat)         -- TXTIME of the last IDLE received, and its arrival (R514)
  peerSlice : Nat                   -- SLICE of the last IDLE received
  peerState : Nat
  peerHops : Nat
  seen : Content                    -- content of the last IDLE received
  newContent : Bool                 -- verdict content or a notice changed since the last IDLE (R518)
  staleSeen : Bool                  -- HRM_STALE posted since the reset (R460)
  replayMs : Nat                    -- 1 + the ms of the last HRM_REPLAY (R466)
  parMs : Nat                       -- the ms that the parity counts belong to (R448)
  parCnt : List (Nat × Nat)         -- per lane: frames with a mismatch in that ms
  parRaw : List Nat                 -- parity of the last frame as received, per lane position
  frameNo : Option Nat              -- sequence number of the last frame
  badFrames : Nat                   -- bad frames in a row (R449)
  frameBad : Bool                   -- the last frame held an uncorrectable codeword
  rx : List (List Byte)             -- flits of the last frame (MODEL'S OWN output)
  tx : List Byte                    -- the last flit sent (MODEL'S OWN output)
  deriving DecidableEq, Repr

def Port.init : Port :=
  { queue := [], nextId := 0, replay := [], resend := none, expect := 0, accepted := false, nak := false, nakAt := 0,
    parts := [], inbox := [], owed := [], deficit := [], phase := 0, phaseAt := 0, resetAt := 0, resetCfg := false,
    trainAt := 0, failAt := 0, nonce := 0, peer := Peer.init, master := false, passOwn := 0, ident := [], ownRes := 0,
    idleAt := 0, echo := none, peerSlice := 0, peerState := 0, peerHops := 0x3F, seen := Content.none,
    newContent := false, staleSeen := false, replayMs := 0, parMs := 0, parCnt := [], parRaw := [], frameNo := none,
    badFrames := 0, frameBad := false, rx := [], tx := [] }

/-! ### Machine (14) -/

/-- A running collective (R526, R527): its entry, the step and attempt it belongs to, and how far it has come. -/
structure Coll where
  cid : Nat
  ent : List Nat
  step : Nat
  attempt : Nat
  launchedAt : Nat
  ready : Bool                      -- READY of the successor has arrived
  next : Nat                        -- the next phase to send
  acked : Nat                       -- phases acknowledged
  bytes : List (Nat × Nat)          -- bytes landed per phase
  landed : Nat                      -- the next phase to land
  scaled : Bool
  deriving DecidableEq, Repr

/-- The permutation (R532, R536): whether it runs, its PWRITEs not acknowledged, bytes landed since arming, the report
made for it (1 CLEAN, 3 ABORT), the PATT of its last launch, and whether a failed verdict lets it launch again. -/
structure Perm where
  run : Bool
  unacked : Nat
  landed : Nat
  ended : Option Nat
  patt : Nat
  retry : Bool
  deriving DecidableEq, Repr

/-- The verdict-tree node (R519 to R521), for step reports and for permutation reports: own input, the children's
inputs, the report formed and sent, when the own report was made, and children silent for CHILDTMO. A report is (step,
value) with 0 STOPPED, 1 CLEAN, 2 POISON, 3 ABORT. -/
structure Tree where
  own : Option (Nat × Nat)
  child : List (Nat × (Nat × Nat))
  sent : Option (Nat × Nat)
  ownAt : Nat
  silent : List Nat
  deriving DecidableEq, Repr

def Tree.init : Tree := ⟨none, [], none, 0, []⟩

/-- A notice (R517): its time, 0 where none is held, the time last cleared, and the different times counted. -/
structure Notice where
  time : Nat
  cleared : Nat
  lost : List Nat
  deriving DecidableEq, Repr

def Notice.init : Notice := ⟨0, 0, []⟩

/-- What the machine keeps beyond its registers. -/
structure Mach where
  abortStep : Option Nat            -- the step of the abort flag held (R516)
  poisonStep : Option Nat
  armed : Nat                       -- launch-table entries armed since STEPB (R526)
  launched : Nat
  colls : List Coll
  issued0 : List (Nat × Nat)        -- ISSUED of each trigger context at STEPB
  prod0 : List (Nat × Nat)
  keptReady : List (Nat × Nat)      -- READYs that came before their launch: CID, and step · 256 + attempt (R529)
  ended : Nat                       -- 1: the rest of the list is discarded until the next STEPB (R531)
  done : Nat                        -- collectives completed, failed and abandoned since STEPB (R539)
  perm : Perm
  tree : Tree
  ptree : Tree
  content : Content                 -- toward the parent
  contentDown : Content             -- toward the children
  reclaim : Notice
  hold : Notice
  closed : Nat                      -- T_N whose CLOSE was acted on, and whose PSTART
  started : Nat
  sidGood : Nat                     -- consecutive good measurements or pulses (R507, R508, R510)
  sidAt : Nat                       -- time of the last valid measurement or accepted pulse
  sidStepped : Bool                 -- the one step of ACQUIRE has been made
  holdoverAt : Nat                  -- when HOLDOVER began
  ppsIn : Nat                       -- 1 + the second of the last rising edge of SID_PPS_IN (R663)
  ppsMark : Nat                     -- the last multiple of 10^9 for which SID_PPS_OUT was driven
  ppsUntil : Nat                    -- SID_PPS_OUT is high before this time (R513)
  reportSid : Nat                   -- SID_TIME of the own report (counter 0xC03)
  rejectMs : Nat                    -- 1 + the ms of the last REMOTE_REJECT (R502)
  verdicts : List Nat               -- steps that a clear verdict has closed, the last first (R539)
  cutOut : Bool                     -- a bank change left this chip outside an empty membership (R534)
  deriving DecidableEq, Repr

def Mach.init : Mach :=
  { abortStep := none, poisonStep := none, armed := 0, launched := 0, colls := [], issued0 := [], prod0 := [],
    keptReady := [], ended := 1, done := 0, perm := ⟨false, 0, 0, none, 0, false⟩, tree := Tree.init,
    ptree := Tree.init, content := Content.none, contentDown := Content.none, reclaim := Notice.init,
    hold := Notice.init, closed := 0, started := 0, sidGood := 0, sidAt := 0, sidStepped := false, holdoverAt := 0,
    ppsIn := 0, ppsMark := 0, ppsUntil := 0, reportSid := 0, rejectMs := 0, verdicts := [], cutOut := false }

/-! ### Memory system (11) -/

/-- A line in a pool: whether it is dirty, and the stamp of its last use (R383). -/
structure PoolLine where
  dirty : Bool
  used : Nat
  deriving DecidableEq, Repr

/-- A half's pool: its lines by number (local offset / 128), the next stamp, and what a write to POL_CTL asked for: 0
nothing, 1 write-back, 2 write-back and invalidate (R389). -/
structure Pool where
  lines : List (Nat × PoolLine)
  stamp : Nat
  ask : Nat
  deriving DecidableEq, Repr

def Pool.init : Pool := ⟨[], 0, 0⟩

/-- A lane of the die bridge, 128 · direction + lane: failed attempts of the flit in flight, and its retries in the
aligned millisecond `ms` (R406, R407). -/
structure BrgLane where
  tries : Nat
  ms : Nat
  retries : Nat
  deriving DecidableEq, Repr

def BrgLane.init : BrgLane := ⟨0, 0, 0⟩

/-- What the memories and the bridge keep beyond registers and bytes. A channel is 32 · stack + channel, a row
channel · 2^25 + row, a bank channel · 32 + pseudo-channel + 2 · bank. -/
structure MemSys where
  pools : List (Nat × Pool)
  under : List (Nat × Nat)          -- bytes of the stacks that dirty pool lines cover: 1 + the byte (R388)
  marks : List (Nat × Nat)          -- 64-byte units the scrub has marked: 1 + row (R395)
  corrMs : List (Nat × Nat)         -- per source: 1 + the ms of its last corrected record (R410)
  rowCe : List (Nat × Nat)          -- corrected errors of a row in this scrub period (R396)
  cand : List Nat                   -- rows waiting for an on-the-fly remap, the first at the front
  ueRows : List Nat                 -- rows with STK_UE since reset (R398)
  spares : List (Nat × Nat)         -- soft-repair spares per bank (R396)
  badCh : List Nat                  -- channels for which STK_CHFAIL was raised
  scrubAt : List (Nat × Nat)        -- per half: when the last patrol scrub ended (R395)
  lanes : List (Nat × BrgLane)
  resp : Option (List Byte)         -- answer to the last queued access; none: an error response (MODEL'S OWN)
  draws : Nat                       -- free waits drawn (MODEL'S OWN)
  deriving DecidableEq, Repr

def MemSys.init : MemSys := ⟨[], [], [], [], [], [], [], [], [], [], [], some [], 0⟩


/-! ### Power and states (16) -/

/-- A block asked to hold (R598): its code and its half or port (R606; 0x0D: the counter and the tree node), its answer
(0 none yet, 1 accepted, 2 delaying), when it was last asked or began to delay, and its delays in this entry. -/
structure HoldBlk where
  code : Nat
  inst : Nat
  ans : Nat
  since : Nat
  delays : Nat
  deriving DecidableEq, Repr

/-- The Hold image in always-on memory: the registers of its two parts as saved (R602, R608). PWR_SUP shows whether it
is valid and holds its Cold part. -/
structure Image where
  hold : List (Nat × W64)
  cold : List (Nat × W64)
  deriving DecidableEq, Repr

/-- What the power controller keeps beyond its registers, and the pins it watches. -/
structure Pwr where
  vaux : Bool                       -- VAUX is at or above 2.95 V (R590)
  pwrok : Bool                      -- PKG_PWROK is high
  rstN : Bool                       -- PKG_RST_N is high
  perst : Bool                      -- PERST_N is asserted
  pcieUp : Bool                     -- the PCIe link is up
  diag : Bool                       -- STRAP_DIAG as sampled
  smb : Nat                         -- STRAP_SMB1 and STRAP_SMB0 as sampled
  blocks : List HoldBlk
  reqAt : Nat                       -- when the Hold request was made
  heldEn : List Blk                 -- EN = 1 writes held during an entry or in Hold (R601)
  committed : Bool                  -- the entry has committed (R599)
  wakeAfter : Bool                  -- a wake event came after commit (R600)
  asleep : Bool                     -- the half logic is power-gated
  image : Image
  samples : Nat                     -- consecutive samples of THROTTLE_N away from the filtered level (R614)
  filtAt : Nat                      -- when the filtered assertion began, or its count was restarted (R615)
  coolAt : Nat                      -- 1 + since when the junction has been below TWARN − 3 °C (R616)
  throtAt : Nat                     -- when throttling began (R618)
  cause : Nat                       -- cause bits of the throttling in progress
  railMs : List (Nat × Nat)         -- per rail: 1 + the ms of its last PWR_RAILWARN (R589)
  auxLow : Bool                     -- VAUX was below 3.10 V and has not recovered (R611)
  tot : List (Nat × Nat)            -- per half: estimate and spillway load in 1/50 A (R592)
  wpLow : Bool                      -- NV_WP_N is low (R660)
  wpAt : Nat                        -- when NV_WP_N last rose
  thermtrip : Bool                  -- THERMTRIP_N is asserted (R619)
  clocksOff : Bool                  -- the clocks of both halves are stopped (R619, R666)
  brownStart : Bool                 -- a brown-out has not been posted yet (R609)
  deriving DecidableEq, Repr

def Pwr.init : Pwr :=
  { vaux := true, pwrok := false, rstN := false, perst := true, pcieUp := false, diag := false, smb := 0, blocks := [],
    reqAt := 0, heldEn := [], committed := false, wakeAfter := false, asleep := false, image := ⟨[], []⟩, samples := 0,
    filtAt := 0, coolAt := 0, throtAt := 0, cause := 0, railMs := [], auxLow := false, tot := [], wpLow := false,
    wpAt := 0, thermtrip := false, clocksOff := false, brownStart := false }

/-! ### Bring-up, test and replay (17) -/

/-- A fuse field of one die: its two copies, none where the check bits of a copy are wrong (R629). -/
structure Fuse where
  a : Option Nat
  b : Option Nat
  deriving DecidableEq, Repr

/-- The fuses of one die (R629). -/
structure Fuses where
  olkey : Fuse
  secver : Fuse
  curwt : Fuse
  sramrpr : Fuse
  dieid : Fuse
  deriving DecidableEq, Repr

def Fuse.init : Fuse := ⟨some 0, some 0⟩
def Fuses.init : Fuses := ⟨Fuse.init, Fuse.init, Fuse.init, Fuse.init, Fuse.init⟩

/-- An identity of the books that a snapshot found false: its record number and the context, entry, weir, channel, port
or ring it is about (R637). -/
structure BookFail where
  number : Nat
  inst : Nat
  deriving DecidableEq, Repr

/-- A capture or a replay at work on a buffer (R643 to R649): BUFBASE and BUFLEN, the offset at which the log begins,
the offset and the number of the next log entry, and for a replay the numbers of the OUT entries already compared. -/
structure Cap where
  base : Nat
  len : Nat
  start : Nat
  pos : Nat
  num : Nat
  seen : List Nat
  deriving DecidableEq, Repr

def Cap.init : Cap := ⟨0, 0, 0, 0, 0, []⟩

/-- What test and bring-up keep beyond registers: the fuses of the two dies; whether bring-up has ended, and whether it
failed (R634); the snapshot being compared and when it was taken (R636), 1 + the step of the last AUD_SKIP; the capture
or replay; the TAP's instruction in force (R639). -/
structure Tst where
  fuseA : Fuses
  fuseB : Fuses
  up : Bool
  failed : Bool
  commit : Nat                      -- SECVER of the booted image where its COMMIT bit is set, else 0 (R633)
  audit : Option (List BookFail)
  auditAt : Nat
  skipStep : Nat
  cap : Cap
  tap : Nat
  sib : Nat                         -- the SIBs that are open under IJTAG (R641)
  dr : Nat                          -- what the selected data register captured (R639, R640)
  deriving DecidableEq, Repr

def Tst.init : Tst :=
  { fuseA := Fuses.init, fuseB := Fuses.init, up := false, failed := false, commit := 0, audit := none, auditAt := 0,
    skipStep := 0, cap := Cap.init, tap := 2, sib := 0, dr := 0 }

/-! ### Management (15, R582 to R586) -/

/-- The controller as an MCTP endpoint: its endpoint ID, 0 until one is assigned, the packets it has accepted with the
physical address of their source, the last first, and whether the last PLDM request was refused (MODEL'S OWN outputs). -/
structure Mgt where
  eid : Nat
  packets : List (Nat × List Byte)
  refused : Bool
  discarded : Nat                   -- MGMT messages of a reserved KIND or a bad length (R586)
  deriving DecidableEq, Repr

def Mgt.init : Mgt := ⟨0, [], false, 0⟩
/-! ### Tables loaded at a sequencer start (R66, R133, R193, R241, R273, R297, R419, R524) -/

/-- The tables of one half, each as its 64-bit words in order; empty before the first start. -/
structure HalfTables where
  cat : List Nat
  jat : List Nat
  rat : List Nat
  ert : List Nat
  wst : List Nat
  adt : List Nat
  deriving DecidableEq, Repr

/-- Both halves' tables, the fork descriptors and the collective launch table. -/
structure Tables where
  a : HalfTables
  b : HalfTables
  fdt : List Nat
  clt : List Nat
  deriving DecidableEq, Repr

def HalfTables.init : HalfTables := ⟨[], [], [], [], [], []⟩
def Tables.init : Tables := ⟨HalfTables.init, HalfTables.init, [], []⟩

/-! ### The package -/

/-- Everything of the package but the queue of commands. -/
structure Dev where
  now : Nat                          -- array cycles since reset (MODEL'S OWN)
  fresh : Nat                        -- free values drawn so far (MODEL'S OWN)
  sidPrev : Nat                      -- SID_TIME at the start of the sequencer cycle before the current one (R62)
  regs : List (Nat × W64)            -- registers by BAR0 offset
  live : List (Nat × W64)            -- the copies in force
  roleLocked : Bool                  -- SID_CTL.ROLE is locked (R9)
  mem : List Host.Cell               -- stacks and reservoirs by local offset
  nv : List Host.Cell                -- NV store bytes
  nvNext : List Host.Cell            -- the NV store once the writes that the guard holds back are made (R611)
  pend : List GovEvent               -- changes not yet observed (R39)
  obs : List (GovKey × Nat)          -- governing state as observed
  seq : Seq
  tables : Tables
  cas : Cas
  jet : Jet
  ast : Ast
  ephRes : List (Nat × EphRes)       -- per half: the resolution of its last EPH op
  rvrUse : List (Nat × Nat)          -- timed accesses: 1024 · window + 64 · terrace + bank (R379)
  eph : Eph
  ril : Ril
  wei : Wei
  aqd : Aqd
  drainAt : List (Nat × Nat)         -- by status register: when the block's drain, or the rollback in it, began or ended
  ports : List (Nat × Port)          -- Hermen ports 0 to 7
  mach : Mach
  hst : Hst
  ms : MemSys
  pwr : Pwr
  tst : Tst
  mgt : Mgt
  deriving DecidableEq, Repr

/-- The state of the model: the package, and the commands waiting to be taken, the first to come at the front. -/
structure State where
  dev : Dev
  pending : List Instr
  deriving DecidableEq, Repr

/-! ### Reset -/

def Strand.init : Strand := ⟨false, 0, 0, 0, 0, none, [], 0⟩
def Frame.init : Frame := ⟨none, [], false, none, false, 0⟩
def Pager.init : Pager := ⟨List.replicate 32 Frame.init, [], [], []⟩
def Seq.init : Seq :=
  { main := Strand.init, segA := Strand.init, segB := Strand.init, calls := [], confl := none, sidaTime := none,
    late := 0, gapEnd := 0, lastCycle := none, gapTotal := 0, startAt := 0, stepOpen := false, report := none, wdogStep := none, unwind := .no, abortNext := none,
    abortsDiscarded := 0, reclaimSeen := false, holdSeen := false, stepbHeld := false,
    pagerA := Pager.init, pagerB := Pager.init }

/-- The package right after reset, before PKG_RST_N is released and bring-up runs (R626, R628). -/
def Dev.reset : Dev :=
  { now := 0, fresh := 0, sidPrev := 0, regs := [], live := [], roleLocked := false, mem := [], nv := [], nvNext := [], pend := [], obs := [],
    seq := Seq.init, tables := Tables.init, cas := Cas.init, jet := Jet.init, ast := Ast.init, ephRes := [], rvrUse := [], eph := Eph.init, ril := Ril.init, wei := Wei.init, aqd := Aqd.init, drainAt := [], ports := [],
    mach := Mach.init, hst := Hst.init, ms := MemSys.init, pwr := Pwr.init, tst := Tst.init, mgt := Mgt.init }

/-- The machine right after reset, with no command waiting. -/
def State.reset : State := ⟨Dev.reset, []⟩

/-! ### How a step can stop -/

/-- Why a step stops with a fault. No meaning of this model raises one: the spec answers every command with an effect,
a record or an error response. -/
inductive Fault where
  /-- Raised by no meaning; it stands for a command whose operands no outside party can form (`Instr.wf` fails). Safe:
  nothing is claimed of what follows. -/
  | illFormed
  deriving DecidableEq, Repr

/-- Why a step refuses a command. -/
inductive Refusal where
  /-- Raised by the arm of `exec` of a command that has no meaning yet. Safe: nothing is claimed of it. -/
  | notModelled (mnemonic : String)
  deriving DecidableEq, Repr

end Sys2Proof.Machine
end

