-- ==== Sys2Proof/Machine/Ops.lean ====
section
/-! DEFINITION. The named operations that every unit shares: registers, time, memory, observation, counters, records,
aborts and the enable rule. -/

namespace Sys2Proof.Machine

/-! ### Updates of one field of the package -/

def Dev.withNow (d : Dev) (v : Nat) : Dev := { d with now := v }
def Dev.withFresh (d : Dev) (v : Nat) : Dev := { d with fresh := v }
def Dev.withSidPrev (d : Dev) (v : Nat) : Dev := { d with sidPrev := v }
def Dev.withRegs (d : Dev) (v : List (Nat × W64)) : Dev := { d with regs := v }
def Dev.withLive (d : Dev) (v : List (Nat × W64)) : Dev := { d with live := v }
def Dev.withRoleLocked (d : Dev) (v : Bool) : Dev := { d with roleLocked := v }
def Dev.withMem (d : Dev) (v : List Host.Cell) : Dev := { d with mem := v }
def Dev.withNv (d : Dev) (v : List Host.Cell) : Dev := { d with nv := v }
def Dev.withNvNext (d : Dev) (v : List Host.Cell) : Dev := { d with nvNext := v }
def Dev.withPend (d : Dev) (v : List GovEvent) : Dev := { d with pend := v }
def Dev.withObs (d : Dev) (v : List (GovKey × Nat)) : Dev := { d with obs := v }
def Dev.withSeq (d : Dev) (v : Seq) : Dev := { d with seq := v }
def Dev.withTables (d : Dev) (v : Tables) : Dev := { d with tables := v }
def Dev.withCas (d : Dev) (v : Cas) : Dev := { d with cas := v }
def Dev.withJet (d : Dev) (v : Jet) : Dev := { d with jet := v }
def Dev.withAst (d : Dev) (v : Ast) : Dev := { d with ast := v }
def Dev.withEphRes (d : Dev) (v : List (Nat × EphRes)) : Dev := { d with ephRes := v }
def Dev.withRvrUse (d : Dev) (v : List (Nat × Nat)) : Dev := { d with rvrUse := v }
def Dev.withEph (d : Dev) (v : Eph) : Dev := { d with eph := v }
def Dev.withRil (d : Dev) (v : Ril) : Dev := { d with ril := v }
def Dev.withWei (d : Dev) (v : Wei) : Dev := { d with wei := v }
def Dev.withAqd (d : Dev) (v : Aqd) : Dev := { d with aqd := v }
def Dev.withDrainAt (d : Dev) (v : List (Nat × Nat)) : Dev := { d with drainAt := v }
def Dev.withPorts (d : Dev) (v : List (Nat × Port)) : Dev := { d with ports := v }
def Dev.withMach (d : Dev) (v : Mach) : Dev := { d with mach := v }
def Dev.withHst (d : Dev) (v : Hst) : Dev := { d with hst := v }
def Dev.withMs (d : Dev) (v : MemSys) : Dev := { d with ms := v }
def Dev.withPwr (d : Dev) (v : Pwr) : Dev := { d with pwr := v }
def Dev.withTst (d : Dev) (v : Tst) : Dev := { d with tst := v }
def Dev.withMgt (d : Dev) (v : Mgt) : Dev := { d with mgt := v }

/-! ### Registers (R5, R7) -/

/-- The outcome of a command whose effect is `f` on the package: a next state in every case. -/
def act (f : Dev → Dev) (s : State) : Host.Outcome State Fault Refusal := .next { s with dev := f s.dev }

/-- The number of a half: 0 for A, 1 for B. -/
def hn : Half → Nat
  | .A => 0
  | .B => 1

/-- The stored value of the register at BAR0 offset `a`. -/
def regGet (d : Dev) (a : Nat) : W64 := sget (regReset a) a d.regs

/-- The package with the register at `a` holding `v`. -/
def regSet (d : Dev) (a : Nat) (v : W64) : Dev := d.withRegs (sset (regReset a) a v d.regs)

/-- A field of a register. -/
def fget (d : Dev) (a : Nat) (f : Fld) : Nat := f.of (regGet d a)

/-- The package with a field of a register replaced. -/
def fset (d : Dev) (a : Nat) (f : Fld) (v : Nat) : Dev := regSet d a (f.put (regGet d a) v)

/-- A field increased modulo its width. -/
def finc (d : Dev) (a : Nat) (f : Fld) (k : Nat) : Dev := fset d a f (fget d a f + k)

/-- A field increased, staying at its largest value where the spec says a count saturates. -/
def fincSat (d : Dev) (a : Nat) (f : Fld) (k : Nat) : Dev :=
  fset d a f (min (fget d a f + k) (2 ^ (f.hi + 1 - f.lo) - 1))

/-- A field of the copy of a register that is in force: the value latched at the start, link reset or sequencer start
that the register's chapter names (R94, R165, R223, R265, R292, R336, R371, R441, R494, R544, R578). -/
def liveGet (d : Dev) (a : Nat) (f : Fld) : Nat := f.of (sget (regReset a) a d.live)

/-- The package with the registers listed put in force. -/
def latch (d : Dev) (as : List Nat) : Dev :=
  d.withLive (as.foldl (fun l a => sset (regReset a) a (regGet d a) l) d.live)

/-- The package with every register from `lo` to `hi` put in force. -/
def latchRange (d : Dev) (lo hi : Nat) : Dev :=
  let inside (e : Nat × W64) : Bool := decide (lo ≤ e.1) && decide (e.1 ≤ hi)
  (d.withLive ((d.live.filter (fun e => decide (e.1 < lo))) ++ d.regs.filter inside
      ++ d.live.filter (fun e => decide (hi < e.1))))

/-- SEQ_STEP.CUR, the number of the current step (R93). Half A's block holds what both halves show. -/
def curStep (d : Dev) : Nat := fget d (A.SEQ_STEP 0) F.SEQ_STEP_CUR

/-- SID_TIME, the sidereal counter (R505). -/
def sidNow (d : Dev) : Nat := (regGet d A.SID_TIME).toNat

/-- The state field of a status register (R24, R25): 0 STOPPED, 1 RUNNING, 2 DRAINING. -/
def stOf (d : Dev) (sts : Nat) : Nat := fget d sts F.STATE

/-! ### Free values -/

/-- The package after one free value has been drawn; `d.fresh` tells draws apart. -/
def drawn (d : Dev) : Dev := d.withFresh (d.fresh + 1)

/-! ### Counters (R364 to R366) -/

/-- Adds `k` to a counter when its selection counts source `src` of element `inst`; `single` says that the source has
one element only, for which INST and ALL are ignored (R365). -/
def countIn (src inst k : Nat) (single : Bool) (base n : Nat) (d : Dev) : Dev :=
  let sel := base + 0x100 + 8 * n
  if fget d base F.CNT_CTL_FRZ = 1 then d
  else if fget d sel F.CNT_SEL_SRC = src ∧
      (single = true ∨ fget d sel F.CNT_SEL_ALL = 1 ∨ fget d sel F.CNT_SEL_INST = inst) then
    finc d (base + 0x400 + 8 * n) F.CNT_VAL_VALUE k
  else d

/-- The counters that have been given a selection, by number, in the block at `base` with `n` counters. A counter
whose CNT_SEL holds its reset value selects source 0xFFF and counts nothing. -/
def selectedCounters (d : Dev) (base n : Nat) : List Nat :=
  (d.regs.filter (fun e => decide (base + 0x100 ≤ e.1) && decide (e.1 < base + 0x100 + 8 * n))).map
    (fun e => (e.1 - base - 0x100) / 8)

/-- `k` events of source `src`, element `inst`, in the CNT block of a half (R364). -/
def count (d : Dev) (h src inst k : Nat) (single : Bool) : Dev :=
  let base := A.CNT_CTL h
  (selectedCounters d base 64).foldl (fun d n => countIn src inst k single base n d) d

/-- `k` events of source `src`, element `inst`, in the package's counters (R364). -/
def countPkg (d : Dev) (src inst k : Nat) (single : Bool) : Dev :=
  (selectedCounters d A.GCNT_CTL 32).foldl (fun d n => countIn src inst k single A.GCNT_CTL n d) d

/-- One event of a source with one element in both halves' counters. -/
def countBoth (d : Dev) (src k : Nat) : Dev := count (count d 0 src 0 k true) 1 src 0 k true

/-! ### Time (00, R505) -/

/-- The least and the most the sidereal counter may move in `ac` array cycles: 5 st in 8 ac nominally, within the
±100 ppm of REFCLK_CORE and one tick in every SLEW slewed (R505; SLEW below 100 acts as 100). -/
def sidBounds (d : Dev) (ac : Nat) : Nat × Nat :=
  let slew := max (fget d A.SID_CFG F.SID_CFG_SLEW) 100
  (ac * 5 * (9999 * slew - 10000) / (8 * 10000 * slew), ac * 5 * (10001 * slew + 10000) / (8 * 10000 * slew) + 1)

/-- How far the counter moves in `ac` array cycles: a free value within those bounds. -/
def sidMove (d : Dev) (ac : Nat) : Nat :=
  min (max (Config.sidAdvance ac d.fresh) (sidBounds d ac).1) (sidBounds d ac).2

/-- The page of a running strand is not observed as resident in both halves (R40, counter 0x004). -/
def pageMissed (d : Dev) (x : Strand) : Bool :=
  let shows (h : Nat) : Bool := d.obs.any (fun e => decide (e.1 = .resident h (x.spc / 2048)) && e.2 == 1)
  x.on && !(shows 0 && shows 1)

/-- A flit of VC0 waits for a credit at a port (counter 0x809). -/
def starved (d : Dev) (e : Nat × Port) : Bool :=
  decide (fget d (A.HRM_PSTS e.1) F.HRM_PSTS_LSTATE = 5) && decide (fget d (A.HRM_VCCRED e.1 0) F.HRM_VCCRED_SCRED = 0) &&
    e.2.queue.any (fun o => o.msg.vc == 0)

/-- `n` sequencer cycles counted for every port at which, in `old`, a flit of VC0 waits for a credit. -/
def countStarved (d old : Dev) (n : Nat) : Dev :=
  (old.ports.filter (starved old)).foldl (fun d e => countPkg d 0x809 e.1 n false) d

/-- The clock moved on to array cycle `t`, if that is later than now: the sidereal counter moves with it, and the
counters of cycles and of ticks in HOLDOVER count (0x000, 0x003, 0x004, 0x809, 0xC0C). -/
def tickTo (d : Dev) (t : Nat) : Dev :=
  if t ≤ d.now then d
  else
    let s0 := sidNow d
    let move := sidMove d (t - d.now)
    let n := t / 2 - d.now / 2
    let d' := regSet d A.SID_TIME (BitVec.ofNat 64 (s0 + move))
    let d' := countBoth (drawn ((d'.withNow t).withSidPrev (if d.now / 2 < t / 2 then s0 else d.sidPrev))) 0x000 n
    let d' := countStarved d' d n
    let strands := [d.seq.main, d.seq.segA, d.seq.segB]
    let d' := if strands.any (fun x => x.on && x.held.isSome) then countBoth d' 0x003 n else d'
    let d' := if strands.any (pageMissed d) then countBoth d' 0x004 n else d'
    if fget d A.SID_STS F.SID_STS_STATE = 3 then countPkg d' 0xC0C 0 move true else d'

/-- The clock moved on to `t`, stopping at the start of the sequencer cycle before `t`, whose counter reading R62
compares. -/
def tick (d : Dev) (t : Nat) : Dev := tickTo (tickTo d (t - 2)) t

/-- Array cycles in n sequencer cycles, nanoseconds being 8/5 ac, microseconds and milliseconds. -/
def sc (n : Nat) : Nat := 2 * n
def us (n : Nat) : Nat := 1600 * n
def ms (n : Nat) : Nat := 1600000 * n

/-! ### Memory bytes (R372 to R374) -/

/-- The byte at a local offset of the stacks or the reservoirs; a byte nothing has written reads zero (R413). -/
def memGet (m : List Host.Cell) (a : Nat) : Byte := sget 0 a m

/-- The memory after a byte is stored, in its canonical form. -/
def memSet (m : List Host.Cell) (a : Nat) (v : Byte) : List Host.Cell := sset 0 a v m

/-- `n` bytes from `a` on. -/
def memRead (m : List Host.Cell) (a : Nat) : Nat → List Byte
  | 0 => []
  | n + 1 => memGet m a :: memRead m (a + 1) n

/-- The memory after the bytes are stored from `a` on. -/
def memWrite (m : List Host.Cell) (a : Nat) : List Byte → List Host.Cell
  | [] => m
  | v :: r => memWrite (memSet m a v) (a + 1) r

/-- The number of `k` bytes at `a`, little-endian. -/
def memNat (m : List Host.Cell) (a k : Nat) : Nat := leNat (memRead m a k)

/-- The memory after the number `n` is stored at `a` in `k` bytes. -/
def memPut (m : List Host.Cell) (a k n : Nat) : List Host.Cell := memWrite m a (leBytes k n)

/-- The canonical form of a memory: addresses strictly rising, no entry equal to what an unlisted address reads as. -/
def Memory.wf (m : List Host.Cell) : Bool := swf (0 : Byte) m

/-- Usable channels of stack `s` of the package (R374, R400). -/
def stackCh (d : Dev) (s : Nat) : Nat := fget d (A.STK_CAP (s / 4) (s % 4)) F.STK_CAP_NCH

/-- Bytes of one stack's 80 GiB stride, and of one channel (R372, R374). -/
def stackStride : Nat := 0x1400000000
def channelBytes : Nat := 0xA0000000

/-- The byte at `a` lies in the stack range: in the in-use range of a stack (R374). -/
def inStackByte (d : Dev) (a : Nat) : Bool :=
  decide (a / stackStride < 8) && decide (a % stackStride < stackCh d (a / stackStride) * channelBytes)

/-- The `n` bytes from `a` lie wholly inside the stack range. A range that spans whole stacks needs each of them at
its full 32 channels. -/
def inStacks (d : Dev) (a n : Nat) : Bool :=
  if n = 0 then true
  else
    inStackByte d a && inStackByte d (a + n - 1) &&
      (range' (a / stackStride) ((a + n - 1) / stackStride - a / stackStride)).all (fun s => stackCh d s == 32)

/-- The first byte of `a … a + n - 1` outside the stack range, if there is one. -/
def firstOutside (d : Dev) (a n : Nat) : Option Nat :=
  if inStacks d a n then none
  else if !inStackByte d a then some a
  else
    let s := a / stackStride
    some (s * stackStride + stackCh d s * channelBytes)

/-- The base of terrace T's reservoir range and its size (R373). -/
def resBase (T : Nat) : Nat := 0x3F000000000 + T * 0x2000000
def resBytes : Nat := 0x1400000

/-- The `n` bytes from `a` lie wholly inside terrace T's reservoir range (R373). -/
def inRes (T a n : Nat) : Bool := decide (resBase T ≤ a) && decide (a + n ≤ resBase T + resBytes)

/-- The terrace whose reservoir range holds byte `a`, if one does. -/
def resTerrace (a : Nat) : Option Nat :=
  let T := (a - 0x3F000000000) / 0x2000000
  if 0x3F000000000 ≤ a ∧ T < 16 ∧ inRes T a 1 = true then some T else none

/-! ### Observation (R39) -/

/-- The value of a piece of governing state as both sequencers observe it; 0 before any change was observed. -/
def obsGet (d : Dev) (k : GovKey) : Nat := ((d.obs.find? (fun e => e.1 = k)).map Prod.snd).getD 0

/-- The observed state with `k` at `v`. -/
def obsPut (l : List (GovKey × Nat)) (k : GovKey) (v : Nat) : List (GovKey × Nat) :=
  if l.any (fun e => decide (e.1 = k)) then l.map (fun e => if e.1 = k then (k, v) else e) else l ++ [(k, v)]

/-- A change of governing state at this moment, to be observed 25 sc later (R39). -/
def govSet (d : Dev) (k : GovKey) (v : Nat) : Dev := d.withPend (d.pend ++ [⟨d.now + sc 25, k, v⟩])

/-- The last value a piece of governing state was given, observed or not. -/
def govNow (d : Dev) (k : GovKey) : Nat :=
  match (d.pend.filter (fun e => e.key = k)).getLast? with
  | some e => e.val
  | none => obsGet d k

/-! ### Records (R564 to R569) -/

/-- What a ring keeps beyond its registers. -/
def ringH (d : Dev) (n : Nat) : RingH := sget RingH.init n d.hst.rings

/-- The package with what ring `n` keeps replaced. -/
def setRingH (d : Dev) (n : Nat) (r : RingH) : Dev :=
  d.withHst { d.hst with rings := sset RingH.init n r d.hst.rings }

/-- A write of bytes into host memory. -/
def hostWrite (d : Dev) (a : Nat) (bs : List Byte) : Dev :=
  d.withHst { d.hst with hostMem := memWrite d.hst.hostMem a bs }

/-- A 64-bit index written to a ring's write-back word, zero-extended (R554). -/
def ringWb (d : Dev) (n v : Nat) : Dev :=
  hostWrite d (liveGet d (A.HST_RWB n) F.HST_RWB_ADDR * 8) (leBytes 8 (v % 2 ^ 32))

/-- Entries a ring holds, 2^LOGN (R553). -/
def ringSize (d : Dev) (n : Nat) : Nat := 2 ^ liveGet d (A.HST_RCFG n) F.HST_RCFG_LOGN

/-- A record's 64 bytes with a PHASE and a DROPPED field (R564). -/
def recordBytes (r : Record) (phase dropped : Nat) : List Byte :=
  leBytes 8 (r.number % 256 + (r.sev % 8) <<< 8 + (b2n r.stat) <<< 11 + (r.src % 16) <<< 12 + (r.chip % 2 ^ 14) <<< 16
      + (phase % 2) <<< 31 + (r.rseq % 2 ^ 32) <<< 32)
  ++ leBytes 8 (r.step % 2 ^ 32 + (r.attempt % 256) <<< 32 + (r.slice % 2 ^ 16) <<< 40)
  ++ leBytes 8 r.time ++ leBytes 8 (dropped % 2 ^ 16)
  ++ (r.payload.map (leBytes 8)).flatten

/-- One MSI-X message (R568, counter 0xE05). -/
def msixSend (d : Dev) (vec : Nat) : Dev :=
  countPkg (d.withHst { d.hst with msix := vec :: d.hst.msix }) 0xE05 0 1 true

/-- A ring can take a record now: it is of kind EVT, RUNNING and not full (R567). -/
def ringTakes (d : Dev) (n : Nat) : Bool :=
  decide (liveGet d (A.HST_RCFG n) F.HST_RCFG_KIND = 1) && decide (stOf d (A.HST_RSTS n) = 1) &&
    decide ((fget d (A.HST_RIDX n) F.HST_RIDX_DEVIDX + 2 ^ 32 - fget d (A.HST_RIDX n) F.HST_RIDX_HOSTIDX) % 2 ^ 32
      < ringSize d n)

/-- The moderation count: MODN, and 0 acts as 1 (R578). -/
def modN (d : Dev) : Nat := max (fget d A.HST_CFG F.HST_CFG_MODN) 1

/-- A record written to its ring: its bytes with PHASE and DROPPED, the produced count, the write-back word and the
MSI-X moderation (R554, R564, R566, R568). -/
def ringPut (d : Dev) (n : Nat) (r : Record) : Dev :=
  let k := fget d (A.HST_RIDX n) F.HST_RIDX_DEVIDX
  let h := ringH d n
  let phase := 1 - (k >>> liveGet d (A.HST_RCFG n) F.HST_RCFG_LOGN) % 2
  let at' := liveGet d (A.HST_RBASE n) F.HST_RBASE_ADDR * 64 + 64 * (k % ringSize d n)
  let d := hostWrite d at' (recordBytes r phase h.dropped)
  let d := finc d (A.HST_RIDX n) F.HST_RIDX_DEVIDX 1
  let d := ringWb d n (k + 1)
  let d := countPkg d 0xE03 0 1 true
  let u := h.unsig + 1
  if u ≥ modN d then
    msixSend (setRingH d n { h with dropped := 0, unsig := 0, unsigAt := d.now })
      (liveGet d (A.HST_RCFG n) F.HST_RCFG_VEC)
  else setRingH d n { h with dropped := 0, unsig := u, unsigAt := if h.unsig = 0 then d.now else h.unsigAt }

/-- The ring HST_EVROUTE names for a record (R566). -/
def routeOf (d : Dev) (stat : Bool) (sev : Nat) : Nat :=
  let f := if stat then F.HST_EVROUTE_STAT
    else match sev with
      | 0 => F.HST_EVROUTE_INFO
      | 1 => F.HST_EVROUTE_CORR
      | 2 => F.HST_EVROUTE_STEP
      | 3 => F.HST_EVROUTE_CHIP
      | _ => F.HST_EVROUTE_PKG
  fget d A.HST_EVROUTE f

/-- The overflow buffer has room for a record of this severity: 256 records, 64 of them kept for step-fatal and more
severe ones (R567). -/
def ovfRoom (d : Dev) (sev : Nat) : Bool :=
  if sev ≥ 2 then decide (d.hst.ovf.length < 256) else decide (d.hst.ovf.length < 192)

/-- HST_OVF.HELD follows the buffer. -/
def setOvf (d : Dev) (l : List (Nat × Record)) : Dev :=
  fset (d.withHst { d.hst with ovf := l }) A.HST_OVF F.HST_OVF_HELD l.length

/-- Sends an error record to its ring, or to the overflow buffer behind the records held for the same ring, or drops
it (R567). The result says whether it was kept. -/
def deliver (d : Dev) (n : Nat) (r : Record) : Dev × Bool :=
  if ringTakes d n && !(d.hst.ovf.any (fun e => e.1 == n)) then (ringPut d n r, true)
  else if ovfRoom d r.sev then (setOvf d (d.hst.ovf ++ [(n, r)]), true)
  else
    let d := finc d A.HST_OVF F.HST_OVF_DROPPED 1
    let d := setRingH d n { ringH d n with dropped := min ((ringH d n).dropped + 1) 65535 }
    (countPkg d 0xE04 0 1 true, false)

/-- A record with its header filled in (R564). -/
def mkRecord (d : Dev) (number sev : Nat) (stat : Bool) (src : Nat) (payload : List Nat) : Record :=
  { number := number, sev := sev, stat := stat, src := src, chip := fget d A.GLB_CHIP F.GLB_CHIP_CHIP,
    rseq := d.hst.rseq, step := curStep d, attempt := fget d A.SID_STEP F.SID_STEP_ATTEMPT,
    slice := fget d A.SID_SLICE F.SID_SLICE_SLICE, time := sidNow d, payload := payload }

/-- The next record number of the chip is taken (R564). -/
def nextRseq (d : Dev) : Dev := d.withHst { d.hst with rseq := (d.hst.rseq + 1) % 2 ^ 32 }

/-- The last exception of the host interface and of a ring (R578). -/
def hstNote (d : Dev) (number ring : Nat) : Dev :=
  fset (fset (fset d A.HST_STS F.HST_STS_EXC number) A.HST_STS F.HST_STS_RING ring) (A.HST_RSTS (ring % 256)) F.EXC
    number

/-- Posting HST_EVOVF when a drop waits to be reported and the record can be kept (R567). -/
def reportDrops (d : Dev) : Dev :=
  let n := routeOf d false 0
  match d.hst.evovf with
  | some ring =>
    if (ringTakes d n && !(d.hst.ovf.any (fun e => e.1 == n))) || ovfRoom d 0 then
      let r := mkRecord d 0xA9 0 false 11 [ring, 0xA9 <<< 32, 0, sidNow d]
      let d := fset (nextRseq d) A.GLB_ERRSUM F.GLB_ERRSUM_SEV (fget d A.GLB_ERRSUM F.GLB_ERRSUM_SEV ||| 1)
      let d := d.withHst { d.hst with evovf := none }
      (deliver (hstNote d 0xA9 ring) n r).1
    else d
  | none => d

/-- The effects of a record's severity on the package's summary registers: GLB_ERRSUM, GLB_FATAL, the persistent error
log and the PLDM event (R569, R583). -/
def sumRecord (d : Dev) (r : Record) : Dev :=
  let d := fset d A.GLB_ERRSUM F.GLB_ERRSUM_SEV (fget d A.GLB_ERRSUM F.GLB_ERRSUM_SEV ||| 2 ^ r.sev)
  if r.sev ≥ 3 then
    let ws := chunks 8 8 (recordBytes r 0 0)
    let d := (ws.zipIdx).foldl (fun d p => regSet d (A.GLB_FATAL p.2) (BitVec.ofNat 64 (leNat p.1))) d
    let d := d.withHst { d.hst with pldmEvents := r :: d.hst.pldmEvents }
    if r.sev = 4 then (d.withHst { d.hst with errlog := r :: d.hst.errlog }) else d
  else d

/-- Posts an error record of number, severity, source and payload (R564 to R569). -/
def post (d : Dev) (number sev src : Nat) (payload : List Nat) : Dev :=
  let r := mkRecord d number sev false src payload
  let n := routeOf d false sev
  let (d, kept) := deliver (sumRecord (nextRseq d) r) n r
  if kept then reportDrops d
  else reportDrops (d.withHst { d.hst with evovf := some (d.hst.evovf.getD n) })

/-- Posts a statistics record; its source waits while its ring does not accept it (R567). -/
def postStat (d : Dev) (number src : Nat) (payload : List Nat) : Dev :=
  let r := mkRecord d number 0 true src payload
  let n := routeOf d true 0
  if ringTakes d n && !(d.hst.statWait.any (fun e => e.1 == n)) then ringPut (nextRseq d) n r
  else ((nextRseq d).withHst { (nextRseq d).hst with statWait := d.hst.statWait ++ [(n, r)] })

/-- ALERT_N is asserted (R569). -/
def alertAsserted (d : Dev) : Bool :=
  decide (fget d A.GLB_ERRSUM F.GLB_ERRSUM_SEV &&& fget d A.GLB_ALERT F.GLB_ALERT_MASK ≠ 0)

/-! ### Poison, abort, stop (R79, R81, R86, R339, R516) -/

/-- The chip holds the abort flag for step `s`, sends it on, and its own sequencers observe it 25 sc later (R79,
R516). -/
def raiseAbort (d : Dev) (s : Nat) : Dev :=
  govSet (d.withMach { d.mach with abortStep := some s }) .abort s

/-- A step-fatal exception: abort for the open step, or for the next step when none is open. Both carry the number
SEQ_STEP.CUR (R79, R81, R339). -/
def stepFatal (d : Dev) : Dev := raiseAbort d (curStep d)

/-- The state of the sequencers as a block (R25). -/
def seqState (d : Dev) : Nat := stOf d (A.SEQ_STS 0)

/-- A strand that is stopped keeps the address of its last issued bundle in its SPC (R92). -/
def Strand.stopped (s : Strand) : Strand :=
  if s.on then { s with on := false, spc := s.lastSpc, rep := 0, held := none } else s

/-- The sequencers with every strand stopped and no STEPB held. -/
def Seq.stopped (q : Seq) : Seq :=
  { q with main := q.main.stopped, segA := q.segA.stopped, segB := q.segB.stopped, stepbHeld := false }

/-- Every strand stops (R92). A capture whose STEPB is still held waits for the next one (R644). -/
def stopStrands (d : Dev) : Dev :=
  (if d.seq.stepbHeld then fset d A.TST_CAPSTS F.TST_CAPSTS_STATE 1 else d).withSeq d.seq.stopped

/-- A drain of the block with this status register begins (R25). -/
def drainBegins (d : Dev) (sts : Nat) : Dev := fset (d.withDrainAt (sset 0 sts d.now d.drainAt)) sts F.STATE 2

/-- The sequencers stop by their own action: issue stops in every strand, the block drains and clears EN (R29). -/
def seqSelfStop (d : Dev) : Dev :=
  if seqState d = 1 then fset (drainBegins (stopStrands d) (A.SEQ_STS 0)) (A.SEQ_CTL 0) F.EN 0
  else d

/-- A chip-fatal exception: issue stops in every strand, abort is raised for an open step, the sequencers drain and
clear EN (R86). -/
def chipFatal (d : Dev) : Dev :=
  let d := if d.seq.stepOpen then raiseAbort d (curStep d) else d
  seqSelfStop d

/-- The consequence of a severity (R565): step-fatal aborts the step, chip-fatal acts as R86 states, package-fatal
stops issue and needs a reset. -/
def consequence (d : Dev) (sev : Nat) : Dev :=
  match sev with
  | 2 => stepFatal d
  | 3 => chipFatal d
  | 4 => seqSelfStop (if d.seq.stepOpen then raiseAbort d (curStep d) else d)
  | _ => d

/-- Posts an error record and takes the consequence of its severity. -/
def raise (d : Dev) (number sev src : Nat) (payload : List Nat) : Dev :=
  consequence (post d number sev src payload) sev

/-- Strand code of the payload of R88 and R161. -/
def strandCode : StrandId → Nat
  | .main => 0
  | .segA => 1
  | .segB => 2

/-- A strand of the sequencers. -/
def strandOf (d : Dev) (s : StrandId) : Strand :=
  match s with
  | .main => d.seq.main
  | .segA => d.seq.segA
  | .segB => d.seq.segB

/-- The package with a strand replaced. -/
def setStrand (d : Dev) (s : StrandId) (x : Strand) : Dev :=
  match s with
  | .main => (d.withSeq { d.seq with main := x })
  | .segA => (d.withSeq { d.seq with segA := x })
  | .segB => (d.withSeq { d.seq with segB := x })

/-- The 32-byte payload of R88 and R161 for an op of a slot: the slot word, the issue, the number, two small fields at
bits 42:40 and 45:43, a detail word and the time. -/
def opPayload (d : Dev) (word spc strand half number terr unit detail : Nat) : List Nat :=
  [word, spc % 2 ^ 28 + (strand % 4) <<< 28 + (half % 2) <<< 30 + (number % 256) <<< 32 + (terr % 8) <<< 40
      + (unit % 8) <<< 43, detail, sidNow d]

/-! ### The enable rule (R23 to R29) -/

/-- Control and status registers of a block. -/
def ctlAddr : Blk → Nat
  | .seq => A.SEQ_CTL 0 | .cas h => A.CAS_CTL (hn h) | .jet h => A.JET_CTL (hn h) | .ril n => A.RIL_CCTL n
  | .eph => A.EPH_CTL | .wei h => A.WEI_CTL (hn h) | .ast h => A.AST_CTL (hn h) | .aqd h c => A.AQD_CHCTL (hn h) c
  | .hrm p => A.HRM_PCTL p | .col => A.COL_CTL | .ring n => A.HST_RCFG n

def stsAddr : Blk → Nat
  | .seq => A.SEQ_STS 0 | .cas h => A.CAS_STS (hn h) | .jet h => A.JET_STS (hn h) | .ril n => A.RIL_CSTS n
  | .eph => A.EPH_STS | .wei h => A.WEI_STS (hn h) | .ast h => A.AST_STS (hn h) | .aqd h c => A.AQD_CHSTS (hn h) c
  | .hrm p => A.HRM_PSTS p | .col => A.COL_STS | .ring n => A.HST_RSTS n

/-- The state of a block (R25). -/
def blkState (d : Dev) (b : Blk) : Nat := stOf d (stsAddr b)

/-- The block is RUNNING. -/
def running (d : Dev) (b : Blk) : Bool := decide (blkState d b = 1)

/-- start() of R26: one more start, and the block runs. -/
def startCommon (d : Dev) (b : Blk) : Dev :=
  fset (finc d (stsAddr b) F.RUNGEN 1) (stsAddr b) F.STATE 1

/-- The common part of a write of EN = 0 (R26). -/
def disableCommon (d : Dev) (b : Blk) : Dev :=
  match blkState d b with
  | 1 => drainBegins d (stsAddr b)
  | 2 => fset d (stsAddr b) F.PEND 0
  | _ => d

/-- The common part of the end of a drain, before a pending start (R26). -/
def drainedCommon (d : Dev) (b : Blk) : Dev :=
  fset (fset d (stsAddr b) F.STATE 0) (stsAddr b) F.DRAINED 1

end Sys2Proof.Machine
end

