-- ==== Sys2Proof/Machine/Seq.lean ====
section
/-! DEFINITION. The sequencers without the units they issue to: images and paging, strands, loops, calls, waits,
confluence, and the tests a bundle undergoes when it reaches issue (02). -/

namespace Sys2Proof.Machine

/-! ### Sequencer records (R85, R88) -/

/-- The severity of a sequencer exception (R85). WAIT_TIMEOUT is step-fatal unless R87 makes it chip-fatal. -/
def seqSev (number : Nat) : Nat :=
  match number with
  | 0x10 => 1
  | 0x20 => 2
  | 0x21 | 0x22 | 0x30 | 0x31 => 0
  | _ => 3

/-- The payload of a sequencer record (R88). -/
def seqPayload (d : Dev) (ctl spc strand half number code late : Nat) : List Nat :=
  [ctl, spc % 2 ^ 28 + (strand % 4) <<< 28 + (half % 2) <<< 30 + (number % 256) <<< 32 + (code % 2 ^ 16) <<< 40,
    curStep d + (late % 2 ^ 32) <<< 32, sidNow d]

/-- A sequencer exception: SEQ_STS.EXC, the record, and the consequence of its severity (R85, R86). -/
def seqRaiseSev (d : Dev) (number sev : Nat) (ctl spc strand half code late : Nat) : Dev :=
  raise (fset d (A.SEQ_STS 0) F.SEQ_STS_EXC number) number sev 0 (seqPayload d ctl spc strand half number code late)

def seqRaise (d : Dev) (number : Nat) (ctl spc strand half code late : Nat) : Dev :=
  seqRaiseSev d number (seqSev number) ctl spc strand half code late

/-! ### The image (R43, R673) -/

/-- Base of a half's image and its number of pages, as in force since the last start. -/
def imgBase (d : Dev) (h : Nat) : Nat := liveGet d (A.SEQ_IMG h) F.SEQ_IMG_BASE * 2 ^ 18
def imgPages (d : Dev) (h : Nat) : Nat := liveGet d (A.SEQ_IMG h) F.SEQ_IMG_NPAGE + 1

/-- The bundle addresses inside the image run below this bound (R673). -/
def imgBound (d : Dev) : Nat := 2048 * min (imgPages d 0) (imgPages d 1)

/-- Pages inside the image. -/
def imgPageBound (d : Dev) : Nat := min (imgPages d 0) (imgPages d 1)

/-! ### Paging (R44 to R46, R64) -/

def pagerOf (d : Dev) (h : Nat) : Pager := if h = 0 then d.seq.pagerA else d.seq.pagerB

def setPager (d : Dev) (h : Nat) (p : Pager) : Dev :=
  if h = 0 then (d.withSeq { d.seq with pagerA := p }) else (d.withSeq { d.seq with pagerB := p })

/-- The pages in which a running strand's SPC lies. -/
def spcPages (d : Dev) : List Nat :=
  [d.seq.main, d.seq.segA, d.seq.segB].filterMap (fun s => if s.on then some (s.spc / 2048) else none)

/-- The page is resident in truth, or being fetched. -/
def pageIn (p : Pager) (page : Nat) : Bool := p.frames.any (fun f => decide (f.page = some page) && f.resident)
def pageComing (p : Pager) (page : Nat) : Bool := p.frames.any (fun f => decide (f.fetch = some page))

/-- A frame may be chosen for replacement: not pinned, no strand's SPC in it, no fetch into it in progress (R44). -/
def frameFree (used : List Nat) (f : Frame) : Bool :=
  !f.pinned && f.fetch.isNone &&
    (match f.page with
     | some p => !(f.resident && used.contains p)
     | none => true)

/-- Which of two frames is replaced first: an empty one, else the least recently used (R44). -/
def frameAge (f : Frame) : Nat := if f.page.isNone then 0 else f.used + 1

/-- The number of the frame to replace, if one is free to choose (R44). -/
def chooseFrame (used : List Nat) (fs : List Frame) : Option Nat :=
  (fs.zipIdx.filter (fun p => frameFree used p.1)).foldl
    (fun best p => match best with
      | none => some p.2
      | some i => if frameAge p.1 < frameAge (fs.getD i Frame.init) then some p.2 else some i) none

/-- A fetch of a page into frame `i`: the page it held stops being resident from now on (R45). -/
def startFetch (d : Dev) (h i page : Nat) (pin : Bool) : Dev :=
  let p := pagerOf d h
  let f := p.frames.getD i Frame.init
  let d := match f.page with
    | some q => if f.resident then govSet d (.resident h q) 0 else d
    | none => d
  setPager d h { p with frames := p.frames.set i { f with resident := false, fetch := some page, pinned := pin } }

/-- A page is fetched if it is neither resident nor on its way and a frame is free; otherwise it waits, a demand fetch
ahead of any prefetch (R44). -/
def fetchPage (d : Dev) (h page : Nat) (demand : Bool) : Dev :=
  let p := pagerOf d h
  if pageIn p page || pageComing p page then d
  else match chooseFrame (spcPages d) p.frames with
    | some i => startFetch d h i page false
    | none =>
      if demand then (if p.demand.contains page then d else setPager d h { p with demand := p.demand ++ [page] })
      else (if p.prefetch.contains page then d else setPager d h { p with prefetch := p.prefetch ++ [page] })

/-- The waiting fetches take the frames that have become free, demand fetches first. -/
def serveFetches (d : Dev) (h : Nat) : Dev :=
  let p := pagerOf d h
  let ds := p.demand
  let ps := p.prefetch
  let d := setPager d h { p with demand := [], prefetch := [] }
  let d := ds.foldl (fun d q => fetchPage d h q true) d
  ps.foldl (fun d q => fetchPage d h q false) d

/-- After a strand changes to page p, each half prefetches of p + 1 … p + A those inside the image (R44). -/
def prefetchAhead (d : Dev) (page : Nat) : Dev :=
  [0, 1].foldl (fun d h =>
    let ahead := min (liveGet d (A.SEQ_PGCTL h) F.SEQ_PGCTL_AHEAD) 8
    ((range' (page + 1) ahead).filter (fun q => q < imgPageBound d)).foldl (fun d q => fetchPage d h q false) d) d

/-- Frames pinned in a half (SEQ_PGCTL.PINNED). -/
def pinnedCount (p : Pager) : Nat := (p.frames.filter (·.pinned)).length

/-- The frame that holds or is receiving a page. -/
def frameOf (p : Pager) (page : Nat) : Option Nat :=
  p.frames.findIdx? (fun f => (decide (f.page = some page) && f.resident) || decide (f.fetch = some page))

/-- PAGE mode 0b01 in one half: the page is fetched and its frame pinned, unless 24 frames are pinned. The result says
whether the limit was met (R64). -/
def pinPage (d : Dev) (h page : Nat) : Dev × Bool :=
  let p := pagerOf d h
  match frameOf p page with
  | some i =>
    if (p.frames.getD i Frame.init).pinned then (d, false)
    else if pinnedCount p ≥ 24 then (d, true)
    else (setPager d h { p with frames := p.frames.modify i (fun f => { f with pinned := true }) }, false)
  | none =>
    if pinnedCount p ≥ 24 then (fetchPage d h page false, true)
    else match chooseFrame (spcPages d) p.frames with
      | some i => (startFetch d h i page true, false)
      | none => (fetchPage d h page false, false)

/-- PAGE mode 0b10 in one half (R64). -/
def unpinPage (d : Dev) (h page : Nat) : Dev :=
  let p := pagerOf d h
  match frameOf p page with
  | some i => serveFetches (setPager d h { p with frames := p.frames.modify i (fun f => { f with pinned := false }) }) h
  | none => d

/-- The bytes of a half-word in the frame that still holds its page (R45). -/
def halfWordIn (p : Pager) (addr : Nat) : Option Nat :=
  (p.frames.find? (fun f => decide (f.page = some (addr / 2048)))).map
    (fun f => leNat ((List.range 128).map (fun k => sget 0 (128 * (addr % 2048) + k) f.data)))

/-- The bytes of a page, as the memory holds them now, rebased to 0. -/
def pageBytes (m : List Host.Cell) (base : Nat) : List (Nat × Byte) :=
  (m.filter (fun c => decide (base ≤ c.1) && decide (c.1 < base + 2 ^ 18))).map (fun c => (c.1 - base, c.2))

/-- A fetched page lands in its frame and becomes resident (R45), once the removal of the page the frame held has been
observed. -/
def pageArrive (d : Dev) (h page : Nat) : Dev :=
  let p := pagerOf d h
  match p.frames.findIdx? (fun f => decide (f.fetch = some page)) with
  | none => d
  | some i =>
    let f := p.frames.getD i Frame.init
    let waiting : Bool := match f.page with
      | some q => d.pend.any (fun e => decide (e.key = .resident h q) && decide (e.val = 0))
      | none => false
    if waiting then d
    else
      let data := pageBytes d.mem (imgBase d h + page * 2 ^ 18)
      let f' := { f with page := some page, data := data, resident := true, fetch := none, used := d.now }
      serveFetches (govSet (setPager d h { p with frames := p.frames.set i f' }) (.resident h page) 1) h

/-- The four parity nibbles of a half-word are even (R33). -/
def parityOk (w : Nat) : Bool :=
  (List.range 4).all (fun i => ((List.range 256).foldl (fun a k => a + b2n (w.testBit (4 * k + i))) 0) % 2 == 0)

/-! ### Half-words (R31, R32) -/

def hwCtl (w : Nat) : Nat := bits w 63 0
def hwCas (w t : Nat) : Nat := bits w (48 * t + 111) (48 * t + 64)
def hwJet (w t : Nat) : Nat := bits w (40 * t + 487) (40 * t + 448)
def hwRil (w p : Nat) : Nat := bits w (48 * p + 815) (48 * p + 768)
def hwAqd (w p : Nat) : Nat := bits w (40 * p + 903) (40 * p + 864)
def hwWei (w : Nat) : Nat := bits w 975 944
def hwEph (w : Nat) : Nat := bits w 991 976
def hwAst (w : Nat) : Nat := bits w 1007 992
def hwRepeat (w : Nat) : Nat := bits w 1015 1008
def hwClass (w : Nat) : Nat := bits w 1019 1016

/-- The slots of a half-word that hold something, as a mask of R67. -/
def hwUsed (w : Nat) : Nat :=
  (List.range 8).foldl (fun m t => m + (b2n (hwCas w t != 0)) * 2 ^ t + (b2n (hwJet w t != 0)) * 2 ^ (8 + t)) 0
  + b2n (hwRil w 0 != 0) * 2 ^ 16 + b2n (hwRil w 1 != 0) * 2 ^ 17 + b2n (hwAqd w 0 != 0) * 2 ^ 18
  + b2n (hwAqd w 1 != 0) * 2 ^ 19 + b2n (hwWei w != 0) * 2 ^ 20 + b2n (hwEph w != 0) * 2 ^ 21
  + b2n (hwAst w != 0) * 2 ^ 22

/-- A half-word that holds only a CTL op, of the class the strand wants. -/
def ctlOnly (s : StrandId) (op : CtlOp) : Nat :=
  (encodeCtl op).toNat + (match s with | .main => 0 | _ => 1) <<< 1016

/-- The CTL op of a half-word (R48). -/
def ctlOf (w : Nat) : Option CtlOp := decodeCtl (BitVec.ofNat 64 (hwCtl w))

/-- The flow ops of R48. -/
def isFlow : CtlOp → Bool
  | .loop .. | .br .. | .brc .. | .call .. | .ret | .stepb .. | .verd | .fork .. | .join | .page .. | .halt .. => true
  | _ => false

/-- The wait ops of R48. -/
def isWait : CtlOp → Bool
  | .awaitr .. | .awaita .. | .awaitq .. | .sida .. | .sidr .. | .delay .. => true
  | _ => false

def isPage : CtlOp → Bool
  | .page .. => true
  | _ => false

/-- Allowed inside a segment (R73). -/
def segAllows : CtlOp → Bool
  | .nop | .loop .. | .page .. | .trap .. => true
  | o => isWait o

/-- Allowed in the main strand between FORK and JOIN (R73). -/
def forkAllows : CtlOp → Bool
  | .nop | .page .. | .trap .. | .join => true
  | o => isWait o

/-! ### Index registers (R53) -/

/-- Iteration of the loop at depth `k` of a strand's loops, outermost 0; 0 where no loop is active there. -/
def loopIter (loops : List LoopFrame) (k : Nat) : Nat :=
  if k < loops.length then (loops.getD (loops.length - 1 - k) ⟨0, 0, 0, 0⟩).iter else 0

/-- The index register that a SEL code names, for the strand that issues (R53, R133): ix0–ix7 of the main strand, sx0
and sx1 of the issuing segment, none. -/
def idxSel (d : Dev) (s : StrandId) (sel : Nat) : Nat :=
  if sel < 8 then loopIter d.seq.main.loops sel
  else if sel = 8 ∨ sel = 9 then
    (match s with
     | .main => 0
     | _ => loopIter (strandOf d s).loops (sel - 8))
  else 0

/-- The SEL codes that R133 defines. -/
def selDefined (sel : Nat) : Bool := decide (sel ≤ 9) || decide (sel = 15)

/-! ### Fork descriptors (R66 to R69) -/

/-- Word `i` of fork descriptor `n`. -/
def fdtWord (d : Dev) (n i : Nat) : Nat := d.tables.fdt.getD (8 * n + i) 0

/-- A readiness term is valid and its reserved bits are 0, or it breaks R68. -/
def termReserved (t : Nat) : Bool := decide (bits t 61 60 ≠ 0) || decide (bits t 47 16 ≠ 0)

/-- Declared slots of segment A or B in half h (R66, R67). -/
def segMask (d : Dev) (n h : Nat) (b : Bool) : Nat :=
  bits (fdtWord d n (if b then 3 else 2)) (22 + 32 * h) (32 * h)

/-- The masks overlap in either half (R70). -/
def masksOverlap (d : Dev) (n : Nat) : Bool :=
  decide (segMask d n 0 false &&& segMask d n 0 true ≠ 0) || decide (segMask d n 1 false &&& segMask d n 1 true ≠ 0)

/-- First address and last address of a segment. -/
def segStart (d : Dev) (n : Nat) (b : Bool) : Nat := bits (fdtWord d n (b2n b)) 27 0
def segLast (d : Dev) (n : Nat) (b : Bool) : Nat := segStart d n b + bits (fdtWord d n (b2n b)) 47 28

def segPref (d : Dev) (n : Nat) : Bool := bit (fdtWord d n 0) 63

/-- The readiness terms of a segment. -/
def segTerms (d : Dev) (n : Nat) (b : Bool) : List Nat :=
  if b then [fdtWord d n 6, fdtWord d n 7] else [fdtWord d n 4, fdtWord d n 5]

/-- FORK raises FDESC on this descriptor (R69). -/
def fdescBad (d : Dev) (n : Nat) : Bool :=
  decide (8 * n + 7 ≥ d.tables.fdt.length)
  || decide (bits (fdtWord d n 0) 62 48 ≠ 0) || decide (bits (fdtWord d n 1) 63 48 ≠ 0)
  || decide (bits (fdtWord d n 2) 31 23 ≠ 0) || decide (bits (fdtWord d n 2) 63 55 ≠ 0)
  || decide (bits (fdtWord d n 3) 31 23 ≠ 0) || decide (bits (fdtWord d n 3) 63 55 ≠ 0)
  || (segTerms d n false ++ segTerms d n true).any termReserved
  || decide (segLast d n false ≥ imgBound d) || decide (segLast d n true ≥ imgBound d)
  || (segPref d n && masksOverlap d n && !((segTerms d n true).any (fun t => bit t 63)))

/-- AWAITR's condition, also that of a readiness term (R57, R68). -/
def rillShows (d : Dev) (kind rill thresh : Nat) : Bool :=
  decide (obsGet d (if kind = 0 then .rillOcc rill else .rillCred rill) ≥ thresh)

/-- A segment is ready: every valid term holds as observed (R68). -/
def segReady (d : Dev) (n : Nat) (b : Bool) : Bool :=
  (segTerms d n b).all (fun t => !(bit t 63) || rillShows d (bits t 62 62) (bits t 59 48) (bits t 15 0))

/-! ### Waits (R57 to R62) -/

/-- How far the sidereal counter is past a target, or none while the target lies ahead, for SIDA modulo 2^56 (R61). -/
def pastSida (sid time : Nat) : Option Nat :=
  let k := (sid + 2 ^ 56 - time % 2 ^ 56) % 2 ^ 56
  if k < 2 ^ 55 then some k else none

/-- How far the counter is past SEQ_T0 + OFFSET, or none (R61). -/
def pastSidr (sid t0 offset : Nat) : Option Nat := if sid < t0 + offset then none else some (sid - (t0 + offset))

/-- Descriptors of a command ring that have arrived, as observed, and that the stream has not consumed (R59, R557). -/
def ringHolds (d : Dev) (n : Nat) : Bool :=
  decide (0 < (obsGet d (.ringArr n) + 2 ^ 32 - fget d (A.HST_RIDX n) F.HST_RIDX_DEVIDX) % 2 ^ 32) &&
    decide ((obsGet d (.ringArr n) + 2 ^ 32 - fget d (A.HST_RIDX n) F.HST_RIDX_DEVIDX) % 2 ^ 32 ≤ 2 ^ 31)

/-- A wait op of half `h` is satisfied at the time the package now shows, for the strand (R57 to R61). -/
def waitOk (d : Dev) (h : Nat) (s : StrandId) (op : CtlOp) : Bool :=
  match op with
  | .awaitr kind rill thresh => rillShows d kind.toNat rill.toNat thresh.toNat
  | .awaita chan limit => decide (obsGet d (.aqdOut h chan.toNat) ≤ limit.toNat)
  | .awaitq ring => ringHolds d ring.toNat
  | .sida time => (pastSida (sidNow d) time.toNat).isSome
  | .sidr offset => (pastSidr (sidNow d) (regGet d (A.SEQ_T0 0)).toNat offset.toNat).isSome
  | .delay cycles => decide ((strandOf d s).lastIssue + sc cycles.toNat ≤ d.now)
  | _ => true

/-- The lateness in st of a sidereal op that issues now, and whether its target had already been passed at the start
of the cycle before, which makes the issue late (R62). -/
def sidLateness (d : Dev) (op : CtlOp) : Option (Nat × Bool) :=
  match op with
  | .sida time => (pastSida (sidNow d) time.toNat).map (fun k => (k, (pastSida d.sidPrev time.toNat).isSome))
  | .sidr offset =>
    let t0 := (regGet d (A.SEQ_T0 0)).toNat
    (pastSidr (sidNow d) t0 offset.toNat).map (fun k => (k, (pastSidr d.sidPrev t0 offset.toNat).isSome))
  | _ => none

/-- The gap G in force: the larger of the halves' floors and the observed floor of the power controller (R83). -/
def gapNow (d : Dev) : Nat :=
  max (max (fget d (A.SEQ_GAP 0) F.SEQ_GAP_FLOOR) (fget d (A.SEQ_GAP 1) F.SEQ_GAP_FLOOR))
    (max (obsGet d (.gapPwr 0)) (obsGet d (.gapPwr 1)))

/-! ### Where a strand goes next (R51) -/

/-- The address after `a`, with the loops advanced: at the end of a body the loop runs again or ends, and an enclosing
body that ends at the same bundle advances at once. -/
def advance (a : Nat) : List LoopFrame → Nat × List LoopFrame
  | [] => (a + 1, [])
  | l :: r =>
    if a = l.start + l.len then
      if l.iter < l.count then (l.start, { l with iter := l.iter + 1 } :: r) else advance a r
    else (a + 1, l :: r)

/-- The page of an address. -/
def pageOf (a : Nat) : Nat := a / 2048

/-- A segment has issued its last bundle: its strand is off and the confluence records it. -/
def endSegment (d : Dev) (s : StrandId) (c : Confluence) : Dev :=
  let d := setStrand d s { strandOf d s with on := false, loops := [] }
  (d.withSeq { d.seq with confl := some c })

/-- A strand moved to its next address with new loops; a change of page prefetches ahead (R44). A segment that leaves
its bundles has ended (R70). -/
def goTo (d : Dev) (s : StrandId) (a : Nat) (loops : List LoopFrame) : Dev :=
  let x := strandOf d s
  let d := setStrand d s { x with spc := a, rep := 0, loops := loops, held := none }
  let d := match s, d.seq.confl with
    | .segA, some c =>
      if segStart d c.desc false ≤ a ∧ a ≤ segLast d c.desc false then d else endSegment d .segA { c with a := .ended }
    | .segB, some c =>
      if segStart d c.desc true ≤ a ∧ a ≤ segLast d c.desc true then d else endSegment d .segB { c with b := .ended }
    | _, _ => d
  let d := if (strandOf d s).on && pageOf a != pageOf x.spc && decide (a < imgBound d) then
      prefetchAhead ([0, 1].foldl (fun d h => fetchPage d h (pageOf a) true) d) (pageOf a)
    else d
  [0, 1].foldl (fun d h => serveFetches d h) d

/-- The loop depth at which the current call frame began (R55, R56). -/
def frameDepth (d : Dev) : Nat := match d.seq.calls with | [] => 0 | c :: _ => c.2

/-- A branch target lies inside the body of the innermost active loop of the current call frame, where there is one
(R55). -/
def targetInScope (d : Dev) (s : StrandId) (target : Nat) : Bool :=
  let loops := (strandOf d s).loops
  if loops.length ≤ frameDepth d then true
  else match loops with
    | [] => true
    | l :: _ => decide (l.start ≤ target) && decide (target ≤ l.start + l.len)

/-- The comparison of BRC (R54). -/
def brcTakes (cmp a b : Nat) : Bool :=
  match cmp with
  | 0 => decide (a = b)
  | 1 => decide (a ≠ b)
  | 2 => decide (a < b)
  | _ => decide (a ≥ b)

/-- The confluence state, the loop stack and the call stack discarded, every strand but the main one off (R80). -/
def dropFlow (d : Dev) : Dev :=
  let m := d.seq.main
  let off (x : Strand) : Strand := { x with on := false, loops := [], rep := 0, held := none }
  let q := { d.seq with confl := none, calls := [], main := { m with loops := [], rep := 0, held := none } }
  (d.withSeq { q with segA := off q.segA, segB := off q.segB })

/-! ### The tests a bundle undergoes when it reaches issue -/

/-- What a bundle fails first, as an exception number and the half concerned, or none: class and halves (R35, R36),
CTL encoding (R49), repeats (R50), confluence (R72, R73), placement (R75, R76) and the kind of ring (R59). -/
def bundleFault (d : Dev) (s : StrandId) (wa wb : Nat) : Option (Nat × Nat) :=
  let cls := hwClass wa
  if hwClass wa ≠ hwClass wb ∨ hwRepeat wa ≠ hwRepeat wb then some (0x01, 0)
  else if cls = 15 then some (0x05, 0)
  else if cls > 1 ∨ (cls = 1) ≠ (s ≠ .main) then some (0x04, 0)
  else
    match ctlOf wa, ctlOf wb with
    | none, _ => some (0x02, 0)
    | _, none => some (0x02, 1)
    | some oa, some ob =>
      let pageBad (o : CtlOp) : Bool := match o with | .page mode _ => decide (mode.toNat = 3) | _ => false
      let both (o : CtlOp) : Bool := isFlow o || (match o with | .awaitq _ => true | _ => false)
      if pageBad oa then some (0x02, 0)
      else if pageBad ob then some (0x02, 1)
      else if (both oa || both ob) && hwCtl wa != hwCtl wb then some (0x01, 0)
      else if hwRepeat wa ≠ 0 ∧ isFlow oa = true ∧ isPage oa = false then some (0x03, 0)
      else if s ≠ .main ∧ (segAllows oa = false ∨ segAllows ob = false) then some (0x0B, 0)
      else if s = .main ∧ d.seq.confl.isSome ∧ (forkAllows oa = false ∨ forkAllows ob = false) then some (0x0B, 0)
      else if d.seq.confl.isNone ∧ oa = .join then some (0x0B, 0)
      else
        let slotBad (h w : Nat) : Bool := match d.seq.confl with
          | none => false
          | some c =>
            let ma := segMask d c.desc h false
            let mb := segMask d c.desc h true
            match s with
            | .main => decide (oa ≠ .join) && decide (hwUsed w &&& (ma ||| mb) ≠ 0)
            | .segA => decide (hwUsed w &&& ma ≠ hwUsed w)
            | .segB => decide (hwUsed w &&& mb ≠ hwUsed w)
        if slotBad 0 wa then some (0x0A, 0)
        else if slotBad 1 wb then some (0x0A, 1)
        else
          let place (opens : Bool) : Bool :=
            decide (s ≠ .main) || d.seq.confl.isSome || !d.seq.main.loops.isEmpty || !d.seq.calls.isEmpty
              || (opens == d.seq.stepOpen)
          match oa with
          | .stepb t0src =>
            if place true || (decide (t0src.toNat = 1) && d.seq.sidaTime.isNone) then some (0x0D, 0) else none
          | .verd => if place false then some (0x0D, 0) else none
          | .awaitq ring =>
            if liveGet d (A.HST_RCFG ring.toNat) F.HST_RCFG_KIND ≠ 0 then some (0x0E, 0) else none
          | _ => none

/-- The queued slots that a half-word uses show an observed fill of at most 31 (R40). Queues 0 and 1 are RIL0 and RIL1,
2 and 3 AQD0 and AQD1, 4 WEI. -/
def queuesOk (d : Dev) (h w : Nat) : Bool :=
  let ok (q word : Nat) : Bool := decide (word = 0) || decide (obsGet d (.qfill h q) ≤ 31)
  ok 0 (hwRil w 0) && ok 1 (hwRil w 1) && ok 2 (hwAqd w 0) && ok 3 (hwAqd w 1) && ok 4 (hwWei w)

/-- Both halves observe the page of an address as resident (R40, R45). -/
def pageObserved (d : Dev) (a : Nat) : Bool :=
  decide (obsGet d (.resident 0 (pageOf a)) = 1) && decide (obsGet d (.resident 1 (pageOf a)) = 1)

/-- The strand is held by a wait from now on, if it was not (R87). -/
def holdStrand (d : Dev) (s : StrandId) : Dev :=
  let x := strandOf d s
  match x.held with
  | some _ => d
  | none => setStrand d s { x with held := some (d.now, d.seq.gapTotal) }

/-- One issue of a strand at this moment: its last issue, its issue count for REPEAT, the issue cycle with the gap
after it (R37, R83), and the frames' use. -/
def noteIssue (d : Dev) (s : StrandId) : Dev :=
  let x := strandOf d s
  let touch (p : Pager) : Pager :=
    { p with frames := p.frames.map (fun f => if f.page = some (pageOf x.spc) then { f with used := d.now } else f),
             refetched := p.refetched.filter (fun q => q != x.spc) }
  let x' : Strand := { x with lastIssue := d.now, lastSpc := x.spc, rep := x.rep + 1, held := none }
  let d := setStrand d s { x' with cycle := d.now + 1 }
  let d : Dev := d.withSeq { d.seq with pagerA := touch d.seq.pagerA, pagerB := touch d.seq.pagerB }
  if d.seq.lastCycle = some d.now then d
  else
    let g := gapNow d
    let q := { d.seq with lastCycle := some d.now, gapEnd := d.now + sc (g + 1), gapTotal := d.seq.gapTotal + sc g }
    let d : Dev := d.withSeq q
    countBoth (countBoth d 0x001 1) 0x002 g

end Sys2Proof.Machine
end

