-- ==== Sys2Proof/Machine/Operands.lean ====
section
/-! DEFINITION. Operand forms: the entries of the address tables, the index registers they read, and stored tiles with
their element formats (R130 to R135, R193, R194). -/

namespace Sys2Proof.Machine

/-- The tables of a half. -/
def halfTables (d : Dev) (h : Nat) : HalfTables := if h = 0 then d.tables.a else d.tables.b

/-- An entry of a CAT, JAT or RAT (R133, R193, R241). -/
structure TileEntry where
  base : Nat
  fmt : Nat
  tr : Bool
  bc : Bool
  sbase : Nat
  str : List Int
  ustr : Int
  sel : List Nat
  klen : Nat
  nlen : Nat
  bstr : Int
  deriving DecidableEq, Repr

/-- The four words of entry `n` of a table of 32-byte entries, if the table has it. -/
def entry32 (t : List Nat) (n : Nat) : Option (List Nat) :=
  if 4 * n + 3 < t.length then some ((t.drop (4 * n)).take 4) else none

/-- The fields of four words under R133. -/
def tileFields (w : List Nat) : TileEntry :=
  let w0 := w.getD 0 0; let w1 := w.getD 1 0; let w2 := w.getD 2 0; let w3 := w.getD 3 0
  { base := bits w0 41 0, fmt := bits w0 45 42, tr := bit w0 46, bc := bit w0 47, sbase := bits w1 41 0,
    str := [signed 16 (bits w2 15 0), signed 16 (bits w2 31 16), signed 16 (bits w2 47 32)],
    ustr := signed 16 (bits w2 63 48), sel := [bits w3 3 0, bits w3 7 4, bits w3 11 8],
    klen := bits w3 22 16, nlen := bits w3 30 24, bstr := signed 16 (bits w3 63 48) }

/-- Reserved bits common to a CAT and a JAT entry, the SEL values and the format code (R98, R133, R134). -/
def tileReserved (w : List Nat) : Bool :=
  let w0 := w.getD 0 0; let w1 := w.getD 1 0; let w3 := w.getD 3 0
  decide (bits w0 63 48 ≠ 0) || decide (bits w1 63 42 ≠ 0) || decide (bits w3 15 12 ≠ 0) || bit w3 23 || bit w3 31
    || decide (bits w3 47 32 ≠ 0) || !((tileFields w).sel.all selDefined) || !(fmtDefined (tileFields w).fmt)

/-- A CAT entry: its fields, and whether a bit R133 reserves is 1. -/
def catEntry (d : Dev) (h n : Nat) : Option (TileEntry × Bool) :=
  (entry32 (halfTables d h).cat n).map
    (fun w => (tileFields w, tileReserved w || bit (w.getD 0 0) 47 || decide (bits (w.getD 3 0) 63 48 ≠ 0)))

/-- A JAT entry (R193). -/
def jatEntry (d : Dev) (h n : Nat) : Option (TileEntry × Bool) :=
  (entry32 (halfTables d h).jat n).map (fun w => (tileFields w, tileReserved w))

/-- The stride sum m of R134, with the unit term. -/
def tileM (d : Dev) (s : StrandId) (e : TileEntry) (u : Nat) : Int :=
  ((e.str.zip e.sel).map (fun p => p.1 * (idxSel d s p.2 : Int))).foldl (· + ·) 0 + e.ustr * (u : Int)

/-- Bytes of 256 elements of a format (R134). -/
def unitBytes (fmt : Nat) : Nat := 32 * elemBits fmt

/-- Where a tile lies: first data byte and first scale byte, as integers that may fall outside any range (R134). -/
structure TileAt where
  data : Int
  scale : Int
  fmt : Nat
  tr : Bool
  deriving DecidableEq, Repr

/-- R134's addresses from a base. -/
def tileAt (e : TileEntry) (base : Nat) (m : Int) : TileAt :=
  ⟨(base : Int) + m * (unitBytes e.fmt : Int), (e.sbase : Int) + m * 8, e.fmt, e.tr⟩

/-- The address an integer is, when it lies in the 42-bit space. -/
def addrOf (i : Int) : Option Nat := if 0 ≤ i ∧ i < 2 ^ 42 then some i.toNat else none

/-- The `n` bytes at an integer address lie in terrace T's reservoir range. -/
def inResAt (T : Nat) (i : Int) (n : Nat) : Bool :=
  match addrOf i with
  | some a => inRes T a n
  | none => false

/-- The address that fails the tests of R134, if one does: data of a whole tile aligned to 64 bytes in the terrace, and
the scales of an MX tile. -/
def tileBad (T : Nat) (t : TileAt) : Option Int :=
  if t.data % 64 ≠ 0 || !inResAt T t.data (64 * unitBytes t.fmt) then some t.data
  else if isMx t.fmt && !inResAt T t.scale 512 then some t.scale
  else none

/-- The code of `w` bits that starts at bit `i` of the bytes from `a` (R104). -/
def codeAt (m : List Host.Cell) (a i w : Nat) : Nat :=
  bits (memNat m (a + i / 8) ((w + 14) / 8)) (i % 8 + w - 1) (i % 8)

/-- The value of element `i` of a stored tile (R98 to R105, R130). -/
def tileElem (m : List Host.Cell) (t : TileAt) (i : Nat) : FVal :=
  let w := elemBits t.fmt
  decElem t.fmt (codeAt m t.data.toNat (i * w) w)
    (if isMx t.fmt then (memGet m (t.scale.toNat + i / 32)).toNat else 127)

/-- Element (row r, column c) of an operand: a stored row with TR = 0, a stored column with TR = 1 (R131). -/
def operandElem (m : List Host.Cell) (t : TileAt) (r c : Nat) : FVal :=
  tileElem m t (if t.tr then c * 128 + r else r * 128 + c)

/-- A memory with the code of `w` bits at bit `i` of the bytes from `a` replaced (R104). -/
def codePut (m : List Host.Cell) (a i w v : Nat) : List Host.Cell :=
  let b := a + i / 8
  let n := (w + 14) / 8
  memPut m b n (putBits (memNat m b n) (i % 8 + w - 1) (i % 8) v)

/-- A memory with the codes listed stored from element `i` of a tile on. -/
def codesPut (m : List Host.Cell) (a w : Nat) : Nat → List Nat → List Host.Cell
  | _, [] => m
  | i, c :: r => codesPut (codePut m a (i * w) w c) a w (i + 1) r

/-- The 128-element rows of an operand, `n` of them, each element at or beyond `klen + 1` reading as zero along the
row (R135). -/
def operandRows (m : List Host.Cell) (t : TileAt) (n klen : Nat) : List (List FVal) :=
  (List.range n).map (fun r => (List.range 128).map (fun c => if c ≤ klen then operandElem m t r c else fzero))

end Sys2Proof.Machine
end

