-- ==== Sys2Proof/Machine/Flags.lean ====
section
/-! DEFINITION. The flags a numeric result raises: the events of R113, their counters (R338, R365), poison (R339 to
R342) and the synchronisation flags that follow from it (R516). -/

namespace Sys2Proof.Machine

/-- Units that report events, by the source code of R363. -/
def srcCAS : Nat := 0
def srcJET : Nat := 1
def srcWEI : Nat := 2
def srcSHD : Nat := 3
def srcOTHER : Nat := 4

/-- Sets poison for step `s` in half `h`: CUR or NEXT of AST_PSN, the half's first source, one AST_POISON record for
the step and its counter, and the chip's poison flag (R339, R342, R516). `word` is the slot op of the unit. -/
def poisonFor (d : Dev) (h s src ev word : Nat) (next : Bool) : Dev :=
  let f := if next then F.AST_PSN_NEXT else F.AST_PSN_CUR
  if fget d (A.AST_PSN h) f = 1 then d
  else
    let first := fget d (A.AST_PSN h) F.AST_PSN_CUR = 0 ∧ fget d (A.AST_PSN h) F.AST_PSN_NEXT = 0
    let d := fset d (A.AST_PSN h) f 1
    let d := if first then fset (fset d (A.AST_PSN h) F.AST_PSN_STEP s) (A.AST_PSN h) F.AST_PSN_SRC (ev + 16 * src) else d
    let d := count d h 0x205 0 1 true
    let d := d.withMach { d.mach with poisonStep := some s }
    raise (fset d (A.AST_STS h) F.AST_STS_EXC 0x99) 0x99 0 6
      (opPayload d word 0 0 h 0x99 0 0 (ev % 16 + 16 * (src % 16) + s <<< 32))

/-- An event of the gradient path that belongs to step `s` (R339, R341): it poisons that step, or the step after it
once the report for `s` has been sent or its verdict applied, with AST_LATE. -/
def poisonEvent (d : Dev) (h s src ev word : Nat) : Dev :=
  let cur := curStep d
  if s = cur ∧ (d.seq.report.isNone ∨ d.seq.stepOpen = false) then poisonFor d h cur src ev word false
  else
    let late := opPayload d 0 0 0 h 0x9A 0 0 (s % 2 ^ 32)
    let d := raise (fset d (A.AST_STS h) F.AST_STS_EXC 0x9A) 0x9A 0 6 late
    let s' := (s + 1) % 2 ^ 32
    poisonFor d h s' src ev word (decide (s' = (cur + 1) % 2 ^ 32))

/-- Reports the events of one op in half `h`: the counters always, poison when the op is in the gradient path and an
element had a non-finite input or output (R113, R338, R339). -/
def reportEvents (d : Dev) (h : Nat) (gp : Bool) (s src word : Nat) (e : Events) : Dev :=
  let d := count d h 0x200 0 e.sat true
  let d := count d h 0x201 0 e.nin true
  let d := count d h 0x202 0 e.nout true
  if gp then
    let d := count d h 0x203 0 e.nin true
    let d := count d h 0x204 0 e.nout true
    if e.nin ≠ 0 then poisonEvent d h s src 1 word
    else if e.nout ≠ 0 then poisonEvent d h s src 2 word
    else d
  else d

/-- The chip's poison for the open step is set: either half holds it (R340, R342). -/
def chipPoisoned (d : Dev) : Bool :=
  decide (fget d (A.AST_PSN 0) F.AST_PSN_CUR = 1) || decide (fget d (A.AST_PSN 1) F.AST_PSN_CUR = 1)

/-! ### Banks of the astrolabe (R345) -/

/-- Register of bank b of a half. -/
def bankReg (h b : Nat) : Nat := if b % 2 = 0 then A.AST_BANK0 h else A.AST_BANK1 h

/-- Fields of a bank's register; both banks share one layout. -/
def bankTag (d : Dev) (h b : Nat) : Nat := fget d (bankReg h b) F.AST_BANK0_TAG
def bankTagged (d : Dev) (h b : Nat) : Bool := decide (fget d (bankReg h b) F.AST_BANK0_TAGGED = 1)
def bankPend (d : Dev) (h b : Nat) : Bool := decide (fget d (bankReg h b) F.AST_BANK0_PEND = 1)
def bankEmit (d : Dev) (h b : Nat) : Bool := decide (fget d (bankReg h b) F.AST_BANK0_EMIT = 1)

/-- An astrolabe record without an op (R362, R363). -/
def astNote (d : Dev) (h number detail : Nat) : Dev :=
  raise (fset d (A.AST_STS h) F.AST_STS_EXC number) number 0 6 (opPayload d 0 0 0 h number 0 0 detail)

/-- A contribution of step n reaches its bank: an untagged bank takes the tag; a bank with another tag discards the
contribution, and the first discard in each step is reported. The result says whether it is accepted. -/
def bankFor (d : Dev) (h n : Nat) : Dev × Bool :=
  let r := bankReg h n
  if !bankTagged d h n then (fset (fset d r F.AST_BANK0_TAG n) r F.AST_BANK0_TAGGED 1, true)
  else if bankTag d h n = n then (d, true)
  else
    let first := sget 0 h d.ast.lateStep ≠ curStep d + 1
    let d : Dev := d.withAst { d.ast with discards := sset 0 h (sget 0 h d.ast.discards + 1) d.ast.discards,
                                                lateStep := sset 0 h (curStep d + 1) d.ast.lateStep }
    (if first then astNote d h 0x9A n else d, false)

/-- A sample count of the bank of step n (R345): 0 compared, 1 skipped, 2 mismatches. -/
def bankSample (d : Dev) (h n kind : Nat) : Dev :=
  match bankFor d h n with
  | (d, false) => d
  | (d, true) =>
    let k := (2 * h + n % 2) * 4 + kind
    (d.withAst { d.ast with samples := sset 0 k (sget 0 k d.ast.samples + 1) d.ast.samples })

end Sys2Proof.Machine
end

