-- ==== Sys2Proof/Machine/Cas.lean ====
section
/-! DEFINITION. The cascade: basins, ladders, LDS, MM, OPA, TWF, BCTL, BIN, BOUT, ROOT and the shadow draw (04, 05,
R354 to R358). A unit is named by its package-wide id; times are array cycles. -/

namespace Sys2Proof.Machine

/-! ### Reservoir timing (R377 to R379) -/

/-- The bank that holds a line of a terrace (R377). -/
def rvrBank (line : Nat) : Nat := (line + line / 64) % 64

/-- A memory or bridge record's detail word (R411). -/
def memDetail (off idx ch bank lane dir : Nat) : Nat :=
  off % 2 ^ 42 + (idx % 8) <<< 42 + (ch % 32) <<< 45 + (bank % 64) <<< 50 + (lane % 128) <<< 56 + (dir % 2) <<< 63

/-- Timed accesses of terrace T: each line with its time. A bank serves 15 in a window; beyond that RVR_CONFLICT is
raised and the access fails (R379). The result lists the lines whose access failed. -/
def rvrTimed (d : Dev) (T : Nat) (acc : List (Nat × Nat)) : Dev × List Nat :=
  let live (d : Dev) (t : Nat) : Dev :=
    d.withRvrUse (d.rvrUse.filter (fun e => decide ((t - d.seq.startAt) / 16 ≤ e.1 / 1024)))
  acc.foldl (fun (r : Dev × List Nat) a =>
    let w := (a.2 - r.1.seq.startAt) / 16
    let k := 1024 * w + 64 * T + rvrBank a.1
    let n := sget 0 k r.1.rvrUse
    if n < 15 then ((r.1.withRvrUse (sset 0 k (n + 1) r.1.rvrUse)), r.2)
    else
      let d := fset (fset r.1 (A.RVR_ERR (T / 8)) F.RVR_ERR_EXC 0xB0) (A.RVR_ERR (T / 8)) F.RVR_ERR_TERR (T % 8)
      let d := fset (fset d (A.RVR_ERR (T / 8)) F.RVR_ERR_BANK (rvrBank a.1)) (A.RVR_ERR (T / 8)) F.RVR_ERR_OFF (a.1 * 128)
      let p := opPayload d 0 0 0 (T / 8) 0xB0 0 0 (memDetail (resBase T + a.1 * 128) (T % 8) 0 (rvrBank a.1) 0 0)
      (raise d 0xB0 3 7 p, r.2 ++ [a.1]))
    (live (count d (T / 8) 0x600 (T % 8) acc.length false) d.now, [])

/-- The distinct lines of terrace T under a list of byte runs, in rising order. -/
def linesOf (T : Nat) (runs : List (Nat × Nat)) : List Nat :=
  (runs.foldl (fun m r =>
    let l0 := (r.1 - resBase T) / 128
    let l1 := (r.1 + r.2 - 1 - resBase T) / 128
    if r.2 = 0 then m else (range' l0 (l1 + 1 - l0)).foldl (fun m l => sput l () m) m) []).map Prod.fst

/-- The access times of an op's lines over a port hold P from `t` on (R378). -/
def spread (t P : Nat) (ls : List Nat) : List (Nat × Nat) :=
  ls.zipIdx.map (fun p => (p.1, t + p.2 * P / ls.length))

/-- The memory as an op reads it when the accesses to some lines failed: those lines read zero (R379). -/
def maskLines (m : List Host.Cell) (T : Nat) (ls : List Nat) : List Host.Cell :=
  if ls.isEmpty then m
  else m.filter (fun c => !(decide (resTerrace c.1 = some T) && ls.contains ((c.1 - resBase T) / 128)))

/-- The memory after an op's writes when the accesses to some lines failed: those lines keep what they held (R379). -/
def keepLines (old new : List Host.Cell) (T : Nat) (ls : List Nat) : List Host.Cell :=
  if ls.isEmpty then new
  else
    let hit (c : Host.Cell) : Bool := decide (resTerrace c.1 = some T) && ls.contains ((c.1 - resBase T) / 128)
    (old.filter hit).foldl (fun m c => memSet m c.1 c.2) (new.filter (fun c => !hit c))

/-- Byte runs of a whole stored tile and its scales. -/
def tileRuns (t : TileAt) : List (Nat × Nat) :=
  (t.data.toNat, 64 * unitBytes t.fmt) :: (if isMx t.fmt then [(t.scale.toNat, 512)] else [])

/-- Byte runs of the first `n` operand rows: stored rows, or stored columns under TR = 1 (R131). -/
def rowRuns (t : TileAt) (n : Nat) : List (Nat × Nat) :=
  let w := elemBits t.fmt
  let a := t.data.toNat
  let sc := if isMx t.fmt then (if t.tr then [(t.scale.toNat, 512)] else [(t.scale.toNat, 4 * n)]) else []
  if t.tr then
    (List.range 128).map (fun x => (a + x * 16 * w, (n * w + 7) / 8)) ++ sc
  else (a, 16 * w * n) :: sc

/-- The accesses of a basin transfer whose row x moves at t0 + x: each line of the operands once, with the first row
that it holds data of (R378). -/
def basinAcc (T t0 : Nat) (ats : List TileAt) : List (Nat × Nat) :=
  let run (x : Nat) (t : TileAt) : List (Nat × Nat) :=
    let w := elemBits t.fmt
    let a := t.data.toNat
    (if t.tr then (List.range 128).map (fun y => (a + (y * 128 + x) * w / 8, (w + 7) / 8)) else [(a + 16 * w * x, 16 * w)])
      ++ (if isMx t.fmt then [(t.scale.toNat + 4 * x, 4)] else [])
  (List.range 128).foldl (fun s x =>
    s ++ ((linesOf T ((ats.map (run x)).flatten)).filter (fun l => !s.any (fun e => e.1 == l))).map (fun l => (l, t0 + x))) []

/-! ### Basins (R137, R143) -/

/-- Key of element (row x, column y) of a tile. -/
def elemKey (tile x y : Nat) : Nat := (tile * 128 + x) * 128 + y

/-- A row of a basin tile, as values and as containers. -/
def basinRow (d : Dev) (tile x : Nat) : List FVal :=
  (List.range 128).map (fun y => decA40 (sget 0 (elemKey tile x y) d.cas.elems))

/-- The package with a row of a basin tile replaced; values are rounded to A40, which leaves an A40 value as it is. -/
def setBasinRow (d : Dev) (tile x : Nat) (vs : List FVal) : Dev :=
  d.withCas { d.cas with
      elems := (vs.zipIdx.take 128).foldl (fun m p => sset 0 (elemKey tile x p.2) (encA40 p.1) m) d.cas.elems }

/-- A tile made all zero. -/
def zeroTile (d : Dev) (tile : Nat) : Dev :=
  d.withCas { d.cas with elems := d.cas.elems.filter (fun e => e.1 / 16384 != tile) }

def tileState (d : Dev) (tile : Nat) : Nat := sget 0 tile d.cas.tstate

def setTileState (d : Dev) (tile s : Nat) : Dev :=
  d.withCas { d.cas with tstate := sset 0 tile s d.cas.tstate }

def ladderOf (d : Dev) (uid : Nat) : Option Ladder := sfind uid d.cas.ladders
def setLadder (d : Dev) (uid : Nat) (l : Ladder) : Dev :=
  d.withCas { d.cas with ladders := sput uid l d.cas.ladders }

/-! ### Ladders (R139, R175 to R178, R185 to R188) -/

/-- Address of element (row x, column y) of tile `k` of a ladder region. -/
def ladAddr (l : Ladder) (k x y : Nat) : Nat := l.base + k * 0x20000 + x * 0x400 + y * 8

/-- The highest level T (R175). -/
def ladTop (l : Ladder) : Nat := 3 + l.nlev

/-- A level of a row as pairs: level values in the basin or the ladder region, companions in the region for a
compensated row (R139, R187, R188). -/
def ladLevel (d : Dev) (uid : Nat) (l : Ladder) (x L : Nat) : List Pair :=
  let hs := if L ≤ 3 then basinRow d (4 * uid + L) x
    else (List.range 128).map (fun y => decA40 (memNat d.mem (ladAddr l (L - 4) x y) 8))
  let es := if sget 0 x l.comp = 1 then
      (List.range 128).map (fun y => decA40 (memNat d.mem (ladAddr l (l.nlev + L) x y) 8))
    else List.replicate 128 fzero
  (hs.zip es).map (fun p => ⟨p.1, p.2⟩)

/-- Lines of the reservoir that a row of a ladder tile occupies, accessed at a time. -/
def ladAcc (l : Ladder) (T k x t : Nat) : List (Nat × Nat) :=
  (linesOf T [(ladAddr l k x 0, 1024)]).map (fun n => (n, t))

/-- A level of a row stored, with its companions in a compensated row. -/
def setLadLevel (d : Dev) (uid : Nat) (l : Ladder) (x L : Nat) (ps : List Pair) : Dev :=
  let put (m : List Host.Cell) (k : Nat) (vs : List FVal) : List Host.Cell :=
    memWrite m (ladAddr l k x 0) ((vs.map (fun v => leBytes 8 (encA40 v))).flatten)
  let d := if L ≤ 3 then setBasinRow d (4 * uid + L) x (ps.map (·.h))
    else
      let T := uid / 8
      let (d, bad) := rvrTimed d T (ladAcc l T (L - 4) x d.now)
      (d.withMem (keepLines d.mem (put d.mem (L - 4) (ps.map (·.h))) T bad))
  if sget 0 x l.comp = 1 then (d.withMem (put d.mem (l.nlev + L) (ps.map (·.e)))) else d

/-- Level L of row x is occupied (R175). -/
def ladOcc (l : Ladder) (x L : Nat) : Bool := sget 0 (32 * x + L) l.occ == 1
def setOcc (l : Ladder) (x L v : Nat) : Ladder := { l with occ := sset 0 (32 * x + L) v l.occ }

/-- enter(v, x) of R176 from level L on, with `n` levels still to go up to the top. -/
def ladEnter (uid x : Nat) : Nat → Nat → Dev → Ladder → List Pair → Dev × Ladder
  | 0, L, d, l, v =>
    if ladOcc l x L then
      let comp := sget 0 x l.comp == 1
      let s := ((ladLevel d uid l x L).zip v).map (fun p => pairAdd comp p.1 p.2)
      let d := setLadLevel d uid l x L s
      let d := count d (uid / 64) 0x102 uid 1 false
      let d := if l.top then d
        else raise (fset d (A.CAS_STS (uid / 64)) F.CAS_STS_EXC 0x49) 0x49 0 1
          (opPayload d 0 0 0 (uid / 64) 0x49 (uid / 8 % 8) (uid % 8) 0)
      (d, { l with top := true })
    else (setLadLevel d uid l x L v, setOcc l x L 1)
  | n + 1, L, d, l, v =>
    if ladOcc l x L then
      let comp := sget 0 x l.comp == 1
      let s := ((ladLevel d uid l x L).zip v).map (fun p => pairAdd comp p.1 p.2)
      let d := if L ≤ 3 then setBasinRow d (4 * uid + L) x (List.replicate 128 fzero) else d
      ladEnter uid x n (L + 1) d (setOcc l x L 0) s
    else (setLadLevel d uid l x L v, setOcc l x L 1)

/-- A pass row enters an open ladder; a compensated pass makes the row compensated (R176, R188). -/
def ladPass (d : Dev) (uid x : Nat) (comp : Bool) (v : List Pair) : Dev :=
  match ladderOf d uid with
  | none => d
  | some l =>
    let newly := comp && sget 0 x l.comp == 0
    let l := if newly then { l with comp := sput x 1 l.comp } else l
    let d := if newly then
        (List.range (ladTop l + 1)).foldl (fun d L =>
          if ladOcc l x L then
            (d.withMem (memWrite d.mem (ladAddr l (l.nlev + L) x 0) (List.replicate 1024 0))) else d) d
      else d
    let v := if comp then v else v.map (fun p => plain p.h)
    let (d, l) := ladEnter uid x (ladTop l) 0 d l v
    setLadder d uid l

/-- finish(x) of R177: the occupied levels from the lowest up. -/
def ladCollapse (d : Dev) (uid : Nat) (l : Ladder) (x : Nat) : Nat → Nat → Option (List Pair) → Option (List Pair)
  | 0, _, acc => acc
  | n + 1, L, acc =>
    let acc := if ladOcc l x L then
        match acc with
        | none => some (ladLevel d uid l x L)
        | some a => some (((ladLevel d uid l x L).zip a).map (fun p => pairAdd (sget 0 x l.comp == 1) p.1 p.2))
      else acc
    ladCollapse d uid l x n (L + 1) acc

/-- FINISH of one row into B0 (R177, R188). -/
def ladFinishRow (d : Dev) (uid : Nat) (l : Ladder) (x : Nat) : Dev :=
  let comp := sget 0 x l.comp == 1
  match ladCollapse d uid l x (ladTop l + 1) 0 none with
  | none => setBasinRow d (4 * uid) x (List.replicate 128 fzero)
  | some ps => setBasinRow d (4 * uid) x (ps.map (pairOut comp))

/-! ### Applying pass rows (R138, R145, R147, R179, R186) -/

/-- A conformance-mode row: each column accumulated in FP32 from its initial value (R121, R158). -/
def pdtRow (acm : Nat) (old : List FVal) (cols : List (List (FVal × FVal))) : List FVal :=
  (old.zip cols).map (fun p => pdtAcc (ftz (if acm = 1 then f32 p.1 else fzero)) p.2)

/-- The BCTL that the unit last took, when it came after the pass row's issue. -/
def laterFn (d : Dev) (r : RowApp) : Option Nat :=
  if sget 0 r.uid d.cas.bctls > r.serial then some (sget 0 r.uid d.cas.lastFn) else none

/-- One pass row applied at its time (R138, R176, R179). A WRITE or ADD row that reaches a tile no longer OPEN is
discarded. -/
def applyRow (d : Dev) (r : RowApp) : Dev :=
  let addB0 (d : Dev) : Dev :=
    setBasinRow d (4 * r.uid) r.row
      (((basinRow d (4 * r.uid) r.row).zip r.vals).map (fun p => a40 (fadd p.1 (pairOut r.comp p.2))))
  if r.acm = 2 then
    match laterFn d r with
    | some 4 => addB0 d
    | some 3 => ladPass d r.uid r.row r.comp r.vals
    | some _ => d
    | none => ladPass d r.uid r.row r.comp r.vals
  else
    let tile := 4 * r.uid + r.bt
    if tileState d tile ≠ 1 then d
    else
      let old := basinRow d tile r.row
      if !r.pdt.isEmpty then
        let new := pdtRow r.acm old r.pdt
        let bad := (r.pdt.filter (fun c => c.any (fun p => !p.1.isFinite || !p.2.isFinite))).length
        reportEvents (setBasinRow d tile r.row new) (r.uid / 64) r.gp r.step srcCAS 0
          ⟨0, bad, (new.filter (fun v => !v.isFinite)).length⟩
      else
        let new := r.vals.map (pairOut r.comp)
        setBasinRow d tile r.row (if r.acm = 1 then (old.zip new).map (fun p => a40 (fadd p.1 p.2)) else new)

/-- The row that applies next among those that meet a test: the earliest due, the first issued among equals (R147). -/
def nextRow (rs : List RowApp) (p : RowApp → Bool) : Option Nat :=
  (rs.zipIdx.filter (fun e => p e.1)).foldl
    (fun best e => match best with
      | none => some e.2
      | some i => if e.1.due < (rs.getD i e.1).due then some e.2 else some i) none

/-- One due row applied and removed. -/
def applyOne (d : Dev) (i : Nat) : Dev :=
  match d.cas.rows[i]? with
  | some r => applyRow (d.withCas { d.cas with rows := d.cas.rows.eraseIdx i }) r
  | none => d

/-- Every waiting row that meets a test, applied in order; `n` bounds their number. -/
def settleRows (p : RowApp → Bool) : Nat → Dev → Dev
  | 0, d => d
  | n + 1, d =>
    match nextRow d.cas.rows p with
    | some i => settleRows p n (applyOne d i)
    | none => d

/-- Every pass row due by now. -/
def settleDue (d : Dev) : Dev := settleRows (fun r => decide (r.due ≤ d.now)) d.cas.rows.length d

/-- Row x of a unit with every row application due by `t` applied. -/
def settleRow (d : Dev) (uid x t : Nat) : Dev :=
  settleRows (fun r => decide (r.uid = uid) && decide (r.row = x) && decide (r.due ≤ t)) d.cas.rows.length d

/-! ### Issue of CAS ops -/

/-- The issue of a CAS op: time, half, strand, SPC, terrace within the half, slot word. -/
structure CasCtx where
  t : Nat
  h : Nat
  s : StrandId
  spc : Nat
  terr : Nat
  word : Nat
  deriving DecidableEq, Repr

/-- What makes an op fail: exception number, unit, detail (R160, R161). -/
abbrev CasFail := Nat × Nat × Nat

/-- A cascade exception of an op (R160, R161). -/
def casRaise (d : Dev) (c : CasCtx) (f : CasFail) : Dev :=
  let d := fset d (A.CAS_STS c.h) F.CAS_STS_EXC f.1
  let d := fset (fset d (A.CAS_STS c.h) F.CAS_STS_TERR c.terr) (A.CAS_STS c.h) F.CAS_STS_UNIT f.2.1
  raise d f.1 (if f.1 < 0x48 then 3 else 0) 1 (opPayload d c.word c.spc (strandCode c.s) c.h f.1 c.terr f.2.1 f.2.2)

/-- The terrace's package number and a unit's package id. -/
def CasCtx.T (c : CasCtx) : Nat := 8 * c.h + c.terr
def CasCtx.uid (c : CasCtx) (u : Nat) : Nat := 8 * c.T + u

/-- The units of a mask, in increasing order. -/
def maskUnits (mask : Nat) (n : Nat) : List Nat := (List.range n).filter (fun u => mask.testBit u)

/-- A CAT entry that the op may use: R133, R157. -/
def casEntry (d : Dev) (c : CasCtx) (n : Nat) : Except CasFail TileEntry :=
  match catEntry d c.h n with
  | none => .error (0x41, 0, 0)
  | some (e, bad) => if bad then .error (0x40, 0, 0) else .ok e

/-- The operand of an entry for a unit (or pair) u, with the tests of R134; `unit` is the unit a record names. -/
def casOperand (d : Dev) (c : CasCtx) (e : TileEntry) (base u unit : Nat) : Except CasFail TileAt :=
  let t := tileAt e base (tileM d c.s e u)
  match tileBad c.T t with
  | some a => .error (0x41, unit, unsigned 64 a)
  | none => .ok t

/-- The first failure of a list of tests, or the list of results. -/
def allOk {α β : Type} (f : α → Except CasFail β) : List α → Except CasFail (List β)
  | [] => .ok []
  | a :: r =>
    match f a with
    | .error e => .error e
    | .ok b =>
      match allOk f r with
      | .error e => .error e
      | .ok bs => .ok (b :: bs)

/-- The element width of a format's class, 4, 8, 16 or 32; none for A40 and the integers (R125, R126). -/
def fmtWidth (fmt : Nat) : Option Nat :=
  if fmt = 9 then some 4
  else if 3 ≤ fmt ∧ fmt ≤ 8 then some 8
  else if fmt = 1 ∨ fmt = 2 then some 16
  else if fmt = 0 then some 32
  else none

/-- The width class of an op from its operand formats (R125, R126). -/
def widthClass (fmts : List Nat) : Option Nat :=
  if fmts.any (fun f => (fmtWidth f).isNone) then none
  else if fmts.any (fun f => decide (f = 0)) && !(fmts.all (fun f => decide (f = 0))) then none
  else some (fmts.foldl (fun w f => max w ((fmtWidth f).getD 0)) 0)

/-- Twice the rate r in ac per row (R125, R127). -/
def rate2 (width : Nat) (pdt cmp : Bool) : Nat :=
  (if pdt then 64 else if width = 4 then 1 else if width = 8 then 2 else if width = 16 then 4 else 16)
    * (if cmp then 2 else 1)

/-- Tload of R145. -/
def tload (fmt : Nat) : Nat := match fmtWidth fmt with | some 16 => 128 | some 32 => 256 | _ => 64

/-- The half's cascade is busy until `t` at least (R166). -/
def casBusy (d : Dev) (h t : Nat) : Dev :=
  d.withCas { d.cas with busy := sset 0 h (max (sget 0 h d.cas.busy) t) d.cas.busy }

/-- The step to which a timed op belongs: the step open at its issue, or the next to open; both carry CUR (R339). -/
def opStep (d : Dev) : Nat := curStep d

/-! #### LDS (R134 to R136, R145, R146) -/

def ldsIssue (d : Dev) (c : CasCtx) (umask desc buf epv : Nat) : Except CasFail Dev :=
  match casEntry d c desc with
  | .error e => .error e
  | .ok e =>
    let res := sfind c.h d.ephRes
    let resNow := match res with
      | some r => if r.t = c.t then some r else none
      | none => none
    let base : Option Nat := if epv = 1 then resNow.bind (·.base) else some e.base
    if epv = 1 ∧ resNow.isNone then .error (0x40, 0, 0)
    else if (fmtWidth e.fmt).isNone ∨ (isMx e.fmt = true ∧ e.tr = true) then .error (0x40, 0, 0)
    else match base with
    | none => if (resNow.map (·.failed)).getD false then .ok d else .error (0x40, 0, 0)
    | some base =>
      let us := maskUnits umask 8
      let test (u : Nat) : Except CasFail TileAt :=
        let uid := c.uid u
        let rdEnd := ((sfind (2 * uid + buf) d.cas.sb).map (·.readEnd)).getD 0
        if c.t < sget 0 uid d.cas.loadFree ∨ c.t < rdEnd then .error (0x42, u, 0)
        else casOperand d c e base u u
      match allOk test us with
      | .error f => .error f
      | .ok ats =>
        let tl := tload e.fmt
        let (d, bad) := rvrTimed d c.T (spread c.t tl (linesOf c.T ((ats.map tileRuns).flatten)))
        let m := maskLines d.mem c.T bad
        let d := (us.zip ats).foldl (fun d p =>
          let uid := c.uid p.1
          let b := 2 * uid + buf
          let vals := (List.range 16384).map (fun i =>
            let k := i / 128
            let n := i % 128
            (b * 16384 + i, if p.2.tr then tileElem m p.2 (k * 128 + n) else tileElem m p.2 (n * 128 + k)))
          let cas := { d.cas with
            sbElems := vals.foldl (fun l v => sset fzero v.1 v.2 l) (d.cas.sbElems.filter (fun x => x.1 / 16384 != b)),
            sb := sput b ⟨c.t, c.t + tl, 0, e.fmt, e.klen, e.nlen⟩ d.cas.sb,
            loadFree := sset 0 uid (c.t + tl) d.cas.loadFree }
          (d.withCas cas)) d
        .ok (casBusy d c.h (c.t + tl))

/-! #### Passes -/

/-- The products of contraction positions 0 to 127: +0 outside the valid positions (R128, R169). -/
def products (valid : Nat → Bool) (a b : Nat → FVal) : List FVal :=
  (List.range 128).map (fun k => if valid k then fmul (a k) (b k) else fzero)

/-- A non-finite operand enters the pass (R128). -/
def anyNonFinite (valid : Nat → Bool) (a b : Nat → FVal) : Bool :=
  (List.range 128).any (fun k => valid k && (!(a k).isFinite || !(b k).isFinite))

/-- Element W[k][n] of a loaded stationary buffer. -/
def sbElem (d : Dev) (b k n : Nat) : FVal := sget fzero (b * 16384 + k * 128 + n) d.cas.sbElems

/-- The pass rows of one unit: for each row the pass values, the operand pairs in conformance mode, and the events. -/
structure PassRows where
  rows : List (List Pair)
  pdt : List (List (List (FVal × FVal)))
  ev : Events

/-- The passes of an op over its rows and columns, from the operand functions of an element (R124, R128, R174). -/
def passRows (width : Nat) (cmp pdt : Bool) (nrows ncol : Nat) (valid : Nat → Bool)
    (a b : Nat → Nat → Nat → FVal) : PassRows :=
  let rows := (List.range nrows).map (fun r => (List.range 128).map (fun n =>
    if n < ncol then pass width cmp (products valid (a r n) (b r n)) else plain fzero))
  let pairs := if pdt then (List.range nrows).map (fun r => (List.range 128).map (fun n =>
      if n < ncol then ((List.range 128).filter valid).map (fun k => (a r n k, b r n k)) else [])) else []
  let nin := if pdt then 0 else (List.range nrows).foldl (fun s r => s + ((List.range ncol).filter (fun n =>
    anyNonFinite valid (a r n) (b r n))).length) 0
  let nout := if pdt then 0 else rows.foldl (fun s r => s + (r.filter (fun p => !(pairOut cmp p).isFinite)).length) 0
  ⟨rows, pairs, ⟨0, nin, nout⟩⟩

/-- The basin target of an accumulating op: R137, R138, R187. -/
def casTarget (d : Dev) (c : CasCtx) (u bt acm : Nat) (cmp : Bool) : Except CasFail Unit :=
  let uid := c.uid u
  if acm = 3 then .error (0x40, u, 0)
  else if acm = 2 then
    match ladderOf d uid with
    | none => .error (0x43, u, 0)
    | some l =>
      if cmp && l.comp.isEmpty && !inRes c.T l.base ((2 * l.nlev + 4) * 0x20000) then .error (0x41, u, l.base) else .ok ()
  else if tileState d (4 * uid + bt) = 1 then .ok ()
  else .error (0x43, u, 0)

/-- A unit's stationary buffer may be read now: R146. -/
def casBuffer (d : Dev) (c : CasCtx) (u buf : Nat) : Except CasFail SbMeta :=
  match sfind (2 * c.uid u + buf) d.cas.sb with
  | none => .error (0x43, u, 0)
  | some m => if c.t < m.loadEnd then .error (0x42, u, 0) else .ok m

/-- A unit's stream port is free: R146. -/
def casStream (d : Dev) (c : CasCtx) (u : Nat) : Except CasFail Unit :=
  if c.t < sget 0 (c.uid u) d.cas.streamFree then .error (0x42, u, 0) else .ok ()

/-- Pass rows queued for their times (R145), and the stream port held for D. -/
def queueRows (d : Dev) (c : CasCtx) (u bt acm : Nat) (cmp gp : Bool) (D : Nat) (due : Nat → Nat) (p : PassRows) : Dev :=
  let uid := c.uid u
  let mk (x : Nat × List Pair) : RowApp :=
    { due := due x.1, uid := uid, bt := bt, row := x.1, vals := x.2, acm := acm, comp := cmp,
      pdt := p.pdt.getD x.1 [], gp := gp, serial := sget 0 uid d.cas.bctls, step := opStep d }
  let cas := { d.cas with rows := d.cas.rows ++ (p.rows.zipIdx.map (fun r => mk (r.2, r.1))),
                          streamFree := sset 0 uid (c.t + D) d.cas.streamFree }
  let d : Dev := d.withCas cas
  count (casBusy d c.h (c.t + 184 + D)) c.h 0x101 uid D false

/-- The buffer a streaming op reads is held for D (R146). -/
def holdBuffer (d : Dev) (uid buf till : Nat) : Dev :=
  match sfind (2 * uid + buf) d.cas.sb with
  | some m => (d.withCas { d.cas with sb := sput (2 * uid + buf) { m with readEnd := till } d.cas.sb })
  | none => d

/-! #### Shadow sampling (R354 to R357) -/

/-- The metric of a window (R356): the largest err over the elements given as (products, pass value), and how many
were excluded. -/
def windowMetric (els : List (List FVal × FVal)) : FVal × Nat :=
  els.foldl (fun (acc : FVal × Nat) e =>
    let ps := e.1.map f32
    let r := ps.foldl (fun s p => f32 (fadd s p)) fzero
    let a := ps.foldl (fun s p => f32 (fadd s p.abs)) fzero
    let c := e.2
    if !c.isFinite || !r.isFinite || !a.isFinite then (acc.1, acc.2 + 1)
    else
      let den := fmax a (.fin false 1 (-126))
      (fmax acc.1 (f32 (fdiv (fsub c r).abs den)), acc.2)) (fzero, 0)

/-- A matrix op that the astrolabe may sample: its kind (bit of OPMASK), units, streamed rows, completion time, and for
a unit the window's elements. -/
structure SampleOp where
  kind : Nat
  units : List Nat
  rows : Nat
  done : Nat
  twf : Bool

/-- The draw of R354 and, when the op is sampled and the shadow cascade is free, its window taken (R355, R357).
`win u odd rb cb` lists the window's elements of unit u. -/
def shadowDraw (d : Dev) (c : CasCtx) (o : SampleOp) (win : Nat → Bool → Nat → Nat → List (List FVal × FVal)) : Dev :=
  let smp := A.AST_SMP c.h
  if !running d (.ast (if c.h = 0 then .A else .B)) || !(liveGet d smp F.AST_SMP_TMASK).testBit c.terr
      || !(liveGet d smp F.AST_SMP_OPMASK).testBit o.kind then d
  else
    let n := sget 0 c.h d.ast.draws
    let x := gen (liveGet d (A.WEI_SEED c.h) F.WEI_SEED_SEED) (curStep d) c.h 2 n
    let d := d.withAst { d.ast with draws := sset 0 c.h (n + 1) d.ast.draws }
    let forced := decide (sget 0 (8 * c.h + c.terr) d.ast.forced = c.t + 1)
    if !(forced || decide (bits x 31 0 < liveGet d smp F.AST_SMP_RATE)) then d
    else
      let d := count d c.h 0x500 0 1 true
      match sfind c.h d.ast.shadow with
      | some s =>
        if c.t < s.ends then
          count (finc (bankSample d c.h (curStep d) 1) (A.SHD_CNT c.h) F.SHD_CNT_SKIPPED 1) c.h 0x502 0 1 true
        else d
      | none =>
        let u := o.units.getD (bits x 39 32 % o.units.length) 0
        let odd := o.twf && bit x 40
        let rb := if o.kind = 1 || odd then bits x 45 44 else bits x 45 44 % ((o.rows + 31) / 32)
        let cb := bits x 47 46
        let unit := if o.twf then 2 * u + b2n odd else u
        let m := windowMetric (win u odd rb cb)
        let s : Shadow :=
          { ends := o.done + 128, terr := c.terr, unit := unit, odd := odd, rb := rb, cb := cb, c := n,
            step := curStep d, word := c.word, spc := c.spc, strand := strandCode c.s, metric := enc32 m.1,
            excluded := m.2 }
        fset (d.withAst { d.ast with shadow := sput c.h s d.ast.shadow }) (A.SHD_STS c.h) F.SHD_STS_BUSY 1

/-! #### MM (R124 to R139) -/

/-- The elements of a 32 × 32 window of pass rows, with their products. -/
def windowOf (rows : List (List Pair)) (cmp : Bool) (nrows ncol : Nat) (rb cb : Nat) (prod : Nat → Nat → List FVal) :
    List (List FVal × FVal) :=
  ((range' (32 * rb) 32).map (fun r => ((range' (32 * cb) 32).filterMap (fun n =>
    if r < nrows ∧ n < ncol then some (prod r n, pairOut cmp ((rows.getD r []).getD n (plain fzero))) else none)))).flatten

def mmIssue (d : Dev) (c : CasCtx) (umask desc rowsm1 buf bt acm cmp gp pdt : Nat) : Except CasFail Dev :=
  match casEntry d c desc with
  | .error e => .error e
  | .ok e =>
    let us := maskUnits umask 8
    let rows := rowsm1 + 1
    let cm := cmp == 1
    let pd := pdt == 1
    if acm = 3 ∨ (pd = true ∧ acm = 2) ∨ (pd = true ∧ cm = true) ∨ (isMx e.fmt = true ∧ e.tr = true) then .error (0x40, 0, 0)
    else match allOk (fun u => casBuffer d c u buf) us with
    | .error f => .error f
    | .ok metas =>
      match widthClass (e.fmt :: metas.map (·.fmt)) with
      | none => .error (0x40, 0, 0)
      | some w =>
        if pd = true ∧ !((e.fmt :: metas.map (·.fmt)).all (fun f => f == 1)) = true then .error (0x40, 0, 0)
        else
          let r2 := rate2 w pd cm
          let D := (rows * r2 + 1) / 2
          let test (u : Nat) : Except CasFail TileAt :=
            match casStream d c u with
            | .error f => .error f
            | .ok _ => match casTarget d c u bt acm cm with
              | .error f => .error f
              | .ok _ => casOperand d c e e.base u u
          match allOk test us with
          | .error f => .error f
          | .ok ats =>
            let (d, bad) := rvrTimed d c.T (spread c.t D (linesOf c.T ((ats.map (fun a => rowRuns a rows)).flatten)))
            let m := maskLines d.mem c.T bad
            let work := (us.zip (metas.zip ats)).map (fun p =>
              let b := 2 * c.uid p.1 + buf
              let valid (k : Nat) : Bool := decide (k ≤ e.klen) && decide (k ≤ p.2.1.klen)
              let s (t _ k : Nat) : FVal := operandElem m p.2.2 t k
              let wt (_ n k : Nat) : FVal := sbElem d b k n
              (p.1, p.2.1.nlen + 1, (fun r n => products valid (s r n) (wt r n)),
                passRows w cm pd rows (p.2.1.nlen + 1) valid s wt))
            let d := work.foldl (fun d x =>
              let d := queueRows d c x.1 bt acm cm (gp == 1) D (fun t => c.t + 184 + t * r2 / 2) x.2.2.2
              let d := holdBuffer d (c.uid x.1) buf (c.t + D)
              reportEvents d c.h (gp == 1) (opStep d) srcCAS c.word x.2.2.2.ev) d
            .ok (shadowDraw d c ⟨0, us, rows, c.t + 184 + D, false⟩ (fun u _ rb cb =>
              match work.find? (fun x => x.1 == u) with
              | some x => windowOf x.2.2.2.rows cm rows x.2.1 rb cb x.2.2.1
              | none => []))

/-! #### OPA -/

/-- The outer-product passes of two operands over `rows` row pairs (R123, R124, R169). -/
def outerRows (m : List Host.Cell) (w : Nat) (cm pd : Bool) (rows ka kb : Nat) (a b : TileAt) :
    PassRows × (Nat → Nat → List FVal) :=
  let valid (t : Nat) : Bool := decide (t < rows) && decide (t ≤ ka) && decide (t ≤ kb)
  let fa (i _ t : Nat) : FVal := operandElem m a t i
  let fb (_ j t : Nat) : FVal := operandElem m b t j
  (passRows w cm pd 128 128 valid fa fb, fun i j => products valid (fa i j) (fb i j))

def opaIssue (d : Dev) (c : CasCtx) (umask adesc bdesc rowsm1 bt acm cmp gp pdt : Nat) : Except CasFail Dev :=
  match casEntry d c adesc, casEntry d c bdesc with
  | .error e, _ => .error e
  | _, .error e => .error e
  | .ok ea, .ok eb =>
    let us := maskUnits umask 8
    let rows := rowsm1 + 1
    let cm := cmp == 1
    let pd := pdt == 1
    let mxBad (e : TileEntry) : Bool := isMx e.fmt && !e.tr
    if acm = 3 ∨ (pd = true ∧ acm = 2) ∨ (pd = true ∧ cm = true) ∨ mxBad ea = true ∨ mxBad eb = true then .error (0x40, 0, 0)
    else match widthClass [ea.fmt, eb.fmt] with
    | none => .error (0x40, 0, 0)
    | some w =>
      if pd = true ∧ (ea.fmt ≠ 1 ∨ eb.fmt ≠ 1) then .error (0x40, 0, 0)
      else
        let r2 := rate2 w pd cm
        let D := (rows * r2 + 1) / 2
        let test (u : Nat) : Except CasFail (TileAt × TileAt) :=
          match casStream d c u with
          | .error f => .error f
          | .ok _ => match casTarget d c u bt acm cm with
            | .error f => .error f
            | .ok _ => match casOperand d c ea ea.base u u, casOperand d c eb eb.base u u with
              | .error f, _ => .error f
              | _, .error f => .error f
              | .ok x, .ok y => .ok (x, y)
        match allOk test us with
        | .error f => .error f
        | .ok ats =>
          let runs := (ats.map (fun a => rowRuns a.1 rows ++ rowRuns a.2 rows)).flatten
          let (d, bad) := rvrTimed d c.T (spread c.t D (linesOf c.T runs))
          let m := maskLines d.mem c.T bad
          let work := (us.zip ats).map (fun p => (p.1, outerRows m w cm pd rows ea.klen eb.klen p.2.1 p.2.2))
          let d := work.foldl (fun d x =>
            let d := queueRows d c x.1 bt acm cm (gp == 1) D (fun i => c.t + 56 + D + i) x.2.1
            reportEvents d c.h (gp == 1) (opStep d) srcCAS c.word x.2.1.ev) d
          .ok (shadowDraw d c ⟨1, us, rows, c.t + 184 + D, false⟩ (fun u _ rb cb =>
            match work.find? (fun x => x.1 == u) with
            | some x => windowOf x.2.1.rows cm 128 128 rb cb x.2.2
            | none => []))

/-! #### TWF (R148, R149) -/

def twfIssue (d : Dev) (c : CasCtx) (pmask gdesc xdesc rowsm1 buf ebt eacm obt oacm cmp : Nat) : Except CasFail Dev :=
  match casEntry d c gdesc, casEntry d c xdesc with
  | .error e, _ => .error e
  | _, .error e => .error e
  | .ok eg, .ok ex =>
    let ps := maskUnits pmask 4
    let rows := rowsm1 + 1
    let cm := cmp == 1
    if eacm = 3 ∨ oacm = 3 ∨ isMx eg.fmt = true ∨ eg.tr = true ∨ (isMx ex.fmt = true ∧ ex.tr = false) then .error (0x40, 0, 0)
    else match allOk (fun p => casBuffer d c (2 * p) buf) ps with
    | .error f => .error f
    | .ok metas =>
      match widthClass (eg.fmt :: ex.fmt :: metas.map (·.fmt)) with
      | none => .error (0x40, 0, 0)
      | some w =>
        let r2 := rate2 w false cm
        let D := (rows * r2 + 1) / 2
        let test (p : Nat) : Except CasFail (TileAt × TileAt) :=
          match casStream d c (2 * p), casStream d c (2 * p + 1) with
          | .error f, _ => .error f
          | _, .error f => .error f
          | .ok _, .ok _ => match casTarget d c (2 * p) ebt eacm cm, casTarget d c (2 * p + 1) obt oacm cm with
            | .error f, _ => .error f
            | _, .error f => .error f
            | .ok _, .ok _ => match casOperand d c eg eg.base p (2 * p), casOperand d c ex ex.base p (2 * p + 1) with
              | .error f, _ => .error f
              | _, .error f => .error f
              | .ok x, .ok y => .ok (x, y)
        match allOk test ps with
        | .error f => .error f
        | .ok ats =>
          let runs := (ats.map (fun a => rowRuns a.1 rows ++ rowRuns a.2 rows)).flatten
          let (d, bad) := rvrTimed d c.T (spread c.t D (linesOf c.T runs))
          let m := maskLines d.mem c.T bad
          let work := (ps.zip (metas.zip ats)).map (fun p =>
            let b := 2 * c.uid (2 * p.1) + buf
            let valid (k : Nat) : Bool := decide (k ≤ eg.klen) && decide (k ≤ p.2.1.klen)
            let s (t _ k : Nat) : FVal := operandElem m p.2.2.1 t k
            let wt (_ n k : Nat) : FVal := sbElem d b k n
            let outer := outerRows m w cm false rows ex.klen eg.klen p.2.2.2 p.2.2.1
            (p.1, p.2.1.nlen + 1, (fun r n => products valid (s r n) (wt r n)),
              passRows w cm false rows (p.2.1.nlen + 1) valid s wt, outer))
          let d := work.foldl (fun d x =>
            let inner := x.2.2.2.1
            let outer := x.2.2.2.2.1
            let d := queueRows d c (2 * x.1) ebt eacm cm true D (fun t => c.t + 184 + t * r2 / 2) inner
            let d := queueRows d c (2 * x.1 + 1) obt oacm cm true D (fun i => c.t + 56 + D + i) outer
            let d := holdBuffer d (c.uid (2 * x.1)) buf (c.t + D)
            reportEvents d c.h true (opStep d) srcCAS c.word (inner.ev.add outer.ev)) d
          .ok (shadowDraw d c ⟨2, ps, rows, c.t + 184 + D, true⟩ (fun p odd rb cb =>
            match work.find? (fun x => x.1 == p) with
            | some x =>
              if odd then windowOf x.2.2.2.2.1.rows cm 128 128 rb cb x.2.2.2.2.2
              else windowOf x.2.2.2.1.rows cm rows x.2.1 rb cb x.2.2.1
            | none => []))

/-! #### BCTL (R141) -/

/-- The unit takes one more BCTL (R179). -/
def noteBctl (d : Dev) (uid fn : Nat) : Dev :=
  d.withCas { d.cas with bctls := sset 0 uid (sget 0 uid d.cas.bctls + 1) d.cas.bctls,
                               lastFn := sset 0 uid fn d.cas.lastFn }

/-- The tiles of a mask put into a state, zeroed when they open. -/
def setTiles (d : Dev) (uid tmask st : Nat) (zero : Bool) : Dev :=
  (maskUnits tmask 4).foldl (fun d b =>
    setTileState (if zero then zeroTile d (4 * uid + b) else d) (4 * uid + b) st) d

/-- LOPEN of one unit: NLEV (above 13 acts as 13) and BASE in force (R139, R165). -/
def ladRegion (d : Dev) (uid : Nat) : Nat × Nat :=
  let a := A.CAS_LADR (uid / 64) (uid % 64)
  (min (liveGet d a F.CAS_LADR_NLEV) 13, liveGet d a F.CAS_LADR_BASE * 2 ^ 17)

def bctlTest (d : Dev) (c : CasCtx) (fn tmask u : Nat) : Except CasFail Unit :=
  let uid := c.uid u
  let anyLadder := (maskUnits tmask 4).any (fun b => tileState d (4 * uid + b) == 2)
  match fn with
  | 1 | 2 => if anyLadder then .error (0x43, u, 0) else .ok ()
  | 3 =>
    if tmask ≠ 15 then .error (0x43, u, 0)
    else
      let r := ladRegion d uid
      if r.1 = 0 ∨ inRes c.T r.2 (r.1 * 0x20000) = true then .ok () else .error (0x41, u, r.2)
  | _ => if (ladderOf d uid).isNone then .error (0x43, u, 0) else .ok ()

def bctlUnit (d : Dev) (c : CasCtx) (fn tmask u : Nat) : Dev :=
  let uid := c.uid u
  match fn with
  | 1 => setTiles (noteBctl d uid fn) uid tmask 1 true
  | 2 => setTiles (noteBctl d uid fn) uid tmask 0 false
  | 3 =>
    let r := ladRegion d uid
    setLadder (setTiles (noteBctl d uid fn) uid 15 2 true) uid ⟨r.1, r.2, [], [], false⟩
  | _ =>
    match ladderOf d uid with
    | none => d
    | some _ =>
      let d := (List.range 128).foldl (fun d x =>
        let d := settleRow d uid x (c.t + 64 + x)
        match ladderOf d uid with
        | some l => ladFinishRow d uid l x
        | none => d) d
      let d := noteBctl d uid fn
      let d := [1, 2, 3].foldl (fun d b => zeroTile d (4 * uid + b)) d
      let d := setTiles d uid 15 1 false
      (d.withCas { d.cas with ladders := sdel uid d.cas.ladders })

def bctlIssue (d : Dev) (c : CasCtx) (umask fn tmask : Nat) : Except CasFail Dev :=
  let us := maskUnits umask 8
  if fn = 0 ∨ fn > 4 then .error (0x40, 0, 0)
  else match allOk (bctlTest d c fn tmask) us with
  | .error f => .error f
  | .ok _ =>
    let d := us.foldl (fun d u => bctlUnit d c fn tmask u) d
    .ok (casBusy d c.h (c.t + if fn = 4 then 192 else 24))

/-! #### BIN and BOUT (R142, R159, R178) -/

def binTest (d : Dev) (c : CasCtx) (e : TileEntry) (bt u : Nat) : Except CasFail TileAt :=
  let uid := c.uid u
  if tileState d (4 * uid + bt) = 1 ∨ (bt = 0 ∧ (ladderOf d uid).isSome) then casOperand d c e e.base u u
  else .error (0x43, u, 0)

def binIssue (d : Dev) (c : CasCtx) (umask desc bt add : Nat) : Except CasFail Dev :=
  match casEntry d c desc with
  | .error e => .error e
  | .ok e =>
    let us := maskUnits umask 8
    if isIntFmt e.fmt ∨ (isMx e.fmt = true ∧ e.tr = true) then .error (0x40, 0, 0)
    else match allOk (binTest d c e bt) us with
    | .error f => .error f
    | .ok ats =>
      let (d, bad) := rvrTimed d c.T (basinAcc c.T (c.t + 64) ats)
      let m := maskLines d.mem c.T bad
      let d := (us.zip ats).foldl (fun d p => (List.range 128).foldl (fun d x =>
        let uid := c.uid p.1
        let vs := (List.range 128).map (fun y => operandElem m p.2 x y)
        let nf := (vs.filter (fun v => !v.isFinite)).length
        let d := reportEvents d c.h false (opStep d) srcCAS c.word ⟨0, nf, nf⟩
        let row : RowApp :=
          { due := c.t + 64 + x, uid := uid, bt := bt, row := x, vals := vs.map (fun v => plain (a40 v)),
            acm := if (ladderOf d uid).isSome then 2 else add, comp := false, pdt := [], gp := false,
            serial := sget 0 uid d.cas.bctls, step := opStep d }
        (d.withCas { d.cas with rows := d.cas.rows ++ [row] })) d) d
      .ok (casBusy d c.h (c.t + 192))

/-- One row of values converted to a target format: element codes, scale bytes, events (R108 to R110, R106). -/
def convRow (fmt : Nat) (md : Rnd) (nfm : Bool) (vs : List FVal) : List Nat × List Nat × Events :=
  if isMx fmt then
    let bs := (chunks 32 (vs.length / 32) vs).map (fun b => convMx fmt (List.replicate 32 md) nfm b)
    ((bs.map (fun b => b.2.1)).flatten, bs.map (·.1), bs.foldl (fun e b => e.add b.2.2) noEvents)
  else
    let cs := vs.map (convTo fmt md nfm)
    (cs.map (·.code), [], cs.foldl (fun e k => e.add k.ev) noEvents)

/-- A row stored in a tile at stored row x, or at stored column x with TR = 1. -/
def storeRow (m : List Host.Cell) (t : TileAt) (x : Nat) (codes scales : List Nat) : List Host.Cell :=
  let w := elemBits t.fmt
  let m := if t.tr then
      codes.zipIdx.foldl (fun m p => codePut m t.data.toNat ((p.2 * 128 + x) * w) w p.1) m
    else codesPut m t.data.toNat w (128 * x) codes
  scales.zipIdx.foldl (fun m p => memSet m (t.scale.toNat + 4 * x + p.2) (BitVec.ofNat 8 p.1)) m

def boutIssue (d : Dev) (c : CasCtx) (umask desc bt rnd nfm gp : Nat) : Except CasFail Dev :=
  match casEntry d c desc with
  | .error e => .error e
  | .ok e =>
    let us := maskUnits umask 8
    if rnd ≥ 2 ∨ isIntFmt e.fmt ∨ (isMx e.fmt = true ∧ e.tr = true) then .error (0x40, 0, 0)
    else match allOk (fun u => casOperand d c e e.base u u) us with
    | .error f => .error f
    | .ok ats =>
      let (d, bad) := rvrTimed d c.T (basinAcc c.T (c.t + 24) ats)
      let old := d.mem
      let d := (us.zip ats).foldl (fun d p => (List.range 128).foldl (fun d x =>
        let uid := c.uid p.1
        let d := settleRow d uid x (c.t + 24 + x)
        let r := convRow e.fmt (rndOf rnd) (nfm == 1) (basinRow d (4 * uid + bt) x)
        let d := d.withMem (storeRow d.mem p.2 x r.1 r.2.1)
        reportEvents d c.h (gp == 1) (opStep d) srcCAS c.word r.2.2) d) d
      let d := d.withMem (keepLines old d.mem c.T bad)
      .ok (casBusy d c.h (c.t + 192))

/-! #### ROOT (R150 to R154, R184) -/

/-- p of PC. -/
def rootP (pc : Nat) : Nat := match pc with | 0 => 1 | 1 => 2 | _ => 4

/-- log2 p. -/
def rootLogP (pc : Nat) : Nat := match pc with | 0 => 0 | 1 => 1 | _ => 2

/-- Array cycles from the issue of a ROOT to its completion (R154). -/
def rootTime (nt pc nit : Nat) : Nat :=
  let q := nt + 1
  (64 * q ^ 2 + 1024) + (nit + 1) * ((2 + rootLogP pc) * q ^ 3 * 128 + 512) + (16 * q ^ 2 + 256)

def rootIssue (d : Dev) (c : CasCtx) (umask desc nt pc nit gp : Nat) : Except CasFail Dev :=
  match casEntry d c desc with
  | .error e => .error e
  | .ok e =>
    if umask ≠ 255 ∨ pc = 3 then .error (0x40, 0, 0)
    else
      let at' := (tileAt e e.base (tileM d c.s e 0)).data
      if at' % 64 ≠ 0 ∨ inResAt c.T at' 64 = false then .error (0x41, 0, unsigned 64 at')
      else
        let a := at'.toNat
        let n := 128 * (nt + 1)
        let aaddr := bits (memNat d.mem a 8) 41 0
        let oaddr := bits (memNat d.mem (a + 8) 8) 41 0
        let waddr := bits (memNat d.mem (a + 16) 8) 41 0
        let saddr := bits (memNat d.mem (a + 24) 8) 41 0
        if !inRes c.T aaddr (4 * n * n) then .error (0x41, 0, aaddr)
        else if !inRes c.T oaddr (4 * n * n) then .error (0x41, 0, oaddr)
        else if !inRes c.T waddr (12 * n * n) then .error (0x41, 0, waddr)
        else if !inRes c.T saddr 32 then .error (0x41, 0, saddr)
        else if (List.range 32).any (fun k => tileState d (4 * c.uid 0 + k) != 0) then .error (0x43, 0, 0)
        else
          let input := (List.range (n * n)).map (fun i => memNat d.mem (aaddr + 4 * i) 4)
          let nin := (input.filter (fun x => !(dec32 x).isFinite)).length
          let ends := c.t + rootTime nt pc nit
          let run : RootRun :=
            { issued := c.t, ends := ends, op := BitVec.ofNat 48 c.word, spc := c.spc, strand := strandCode c.s,
              aaddr := aaddr, oaddr := oaddr, saddr := saddr, delta := memNat d.mem (a + 32) 4,
              tol := memNat d.mem (a + 36) 4, nt := nt, pc := pc, nit := nit, gp := gp == 1, step := opStep d,
              input := input }
          let cas := { d.cas with roots := sput c.T run d.cas.roots }
          let d : Dev := d.withCas cas
          .ok (casBusy (reportEvents d c.h (gp == 1) (opStep d) srcCAS c.word ⟨0, nin, 0⟩) c.h ends)

/-- A square matrix as its rows. -/
abbrev Mat := List (List FVal)

/-- Row-major rows of a list of n² values. -/
def matOf (n : Nat) (vs : List FVal) : Mat := chunks n n vs

/-- The columns of a matrix of n columns, as lists. -/
def matCols (n : Nat) (m : Mat) : Mat := (List.range n).map (fun j => m.map (fun r => r.getD j fzero))

/-- One element of a matrix product in FP32 wide mode (R184). -/
def matElem (q : Nat) (row col : List FVal) : FVal :=
  let ps := (row.zip col).map (fun p => fmul p.1 p.2)
  f32 (tree false 2 ((chunks 128 q ps).map (fun b => pass 32 false b))).h

/-- A matrix product, rounded once per element to FP32 (R152, R184). -/
def matMul (q : Nat) (a b : Mat) : Mat :=
  let cols := matCols (128 * q) b
  a.map (fun r => cols.map (fun c => matElem q r c))

/-- A scalar times the identity. -/
def matDiag (n : Nat) (v : FVal) : Mat :=
  (List.range n).map (fun i => (List.range n).map (fun j => if i = j then v else fzero))

/-- Two matrices combined element by element. -/
def matZip (f : FVal → FVal → FVal) (a b : Mat) : Mat := (a.zip b).map (fun r => (r.1.zip r.2).map (fun p => f p.1 p.2))

/-- T^p by repeated squaring (R152). -/
def matPow (q logp : Nat) (t : Mat) : Mat :=
  match logp with
  | 0 => t
  | 1 => matMul q t t
  | _ => let s := matMul q t t; matMul q s s

/-- max |M − I|, in FP32 (R152). -/
def matResid (n : Nat) (m : Mat) : FVal :=
  (matZip (fun a b => (f32 (fsub a b)).abs) m (matDiag n fone)).foldl (fun x r => r.foldl fmax x) fzero

/-- x^(−1/p), rounded once to FP32, of a positive value (R152). -/
def invRoot (p : Nat) (x : FVal) : FVal :=
  match x with
  | .fin false m e =>
    if m = 0 then .inf false
    else
      let k0 := 80 * p + Nat.log2 m + 2
      let k := k0 + ((-(e + (k0 : Int))) % p).toNat
      let n := 2 ^ k / m
      let r := iroot p n
      f32 (.fin false (2 * r + b2n (decide (r ^ p * m ≠ 2 ^ k))) (-((e + (k : Int)) / p) - 1))
  | .inf false => fzero
  | _ => .nan

/-- x^p rounded once to FP32 (R152). -/
def powOnce (p : Nat) (x : FVal) : FVal := f32 (match p with | 1 => x | 2 => fmul x x | _ => fmul (fmul x x) (fmul x x))

/-- The iteration of R152: X, M, the residual and the iteration of convergence. -/
def rootIter (q p logp n : Nat) (tol : FVal) : Nat → Nat → Mat → Mat → FVal → Mat × FVal × Option Nat
  | 0, _, x, _, r => (x, r, none)
  | k + 1, i, x, m, _ =>
    let t := matZip (fun a b => f32 (fdiv (f32 (fsub a b)) (.fin false p 0))) (matDiag n (.fin false (p + 1) 0)) m
    let x := matMul q x t
    let m := matMul q (matPow q logp t) m
    let r := matResid n m
    if !flt tol r && !r.isNan && !tol.isNan then (x, r, some (i + 1)) else rootIter q p logp n tol k (i + 1) x m r

/-- The outcome of a ROOT: reason (R153), root where there is one, residual code, ITERS, and s. -/
def rootCompute (run : RootRun) : Nat × Option Mat × Nat × Nat × FVal :=
  let n := 128 * (run.nt + 1)
  let q := run.nt + 1
  let p := rootP run.pc
  let a := matOf n (run.input.map dec32)
  let diag := (List.range n).map (fun i => (a.getD i []).getD i fzero)
  let s := f32 (fdiv (dec32 (Config.rootSum (diag.map enc32))) (.fin false n 0))
  if run.input.any (fun x => !(dec32 x).isFinite) then (2, none, Config.rootNoResid % 2 ^ 32, 0, s)
  else if !flt fzero s then (3, none, Config.rootNoResid % 2 ^ 32, 0, s)
  else
    let ds := f32 (fmul (dec32 run.delta) s)
    let ad := a.zipIdx.map (fun r => r.1.zipIdx.map (fun v => if r.2 = v.2 then f32 (fadd v.1 ds) else v.1))
    let sq := (ad.map (fun r => r.map (fun v => enc32 (fmul v v)))).flatten
    let g := f32 (fsqrt (dec32 (Config.rootSum sq)))
    let f := invRoot p g
    let fp := powOnce p f
    let m := ad.map (fun r => r.map (fun v => f32 (fmul fp v)))
    let (x, r, conv) := rootIter q p (rootLogP run.pc) n (dec32 run.tol) (run.nit + 1) 0 (matDiag n f) m fzero
    match conv with
    | none => (1, none, enc32 r, 0, s)
    | some i => if x.any (fun row => row.any (fun v => !v.isFinite)) then (2, none, enc32 r, i, s)
      else (0, some x, enc32 r, i, s)

/-- A matrix stored as FP32, row-major. -/
def matStore (m : List Host.Cell) (a : Nat) (x : Mat) : List Host.Cell :=
  memWrite m a ((x.map (fun r => (r.map (fun v => leBytes 4 (enc32 v))).flatten)).flatten)

/-- ROOT completes on a terrace: output, status record, record and counter, and the terrace's basins and buffers
cleared (R150, R152, R153). -/
def rootComplete (d : Dev) (T : Nat) : Dev :=
  match sfind T d.cas.roots with
  | none => d
  | some run =>
    let d := tick d run.ends
    let h := T / 8
    let n := 128 * (run.nt + 1)
    let p := rootP run.pc
    let (reason, x, resid, iters, s) := rootCompute run
    let w0 := memNat d.mem run.saddr 8
    let valid := bit w0 0
    let sd := f32 (fadd s (dec32 run.delta))
    let ident := if reason = 2 ∨ flt fzero sd = false then fone else invRoot p sd
    let (o, valid', result) : Option Mat × Nat × Nat :=
      match x with
      | some x => (some x, 1, 0)
      | none => if valid then (none, 1, 1) else (some (matDiag n ident), 1, 2)
    let sing := (bits w0 63 32 + (if reason = 0 then 0 else 1)) % 2 ^ 32
    let w0' := valid' + result <<< 4 + reason <<< 8 + iters <<< 16 + sing <<< 32
    let m := match o with | some x => matStore d.mem run.oaddr x | none => d.mem
    let m := memWrite m run.saddr (leBytes 8 w0' ++ leBytes 4 resid ++ leBytes 4 (enc32 s) ++ leBytes 8 (curStep d)
      ++ leBytes 8 0)
    let u0 := 8 * T
    let cas := { d.cas with
      elems := d.cas.elems.filter (fun e => decide (e.1 / 16384 / 4 < u0) || decide (u0 + 8 ≤ e.1 / 16384 / 4)),
      tstate := d.cas.tstate.filter (fun e => decide (e.1 / 4 < u0) || decide (u0 + 8 ≤ e.1 / 4)),
      ladders := d.cas.ladders.filter (fun e => decide (e.1 < u0) || decide (u0 + 8 ≤ e.1)),
      sb := d.cas.sb.filter (fun e => decide (e.1 / 2 < u0) || decide (u0 + 8 ≤ e.1 / 2)),
      sbElems := d.cas.sbElems.filter (fun e => decide (e.1 / 16384 / 2 < u0) || decide (u0 + 8 ≤ e.1 / 16384 / 2)),
      roots := sdel T d.cas.roots }
    let d : Dev := (d.withMem m).withCas cas
    if reason = 0 then d
    else
      let d := count d h 0x103 (T % 8) 1 false
      casRaise d ⟨run.issued, h, .main, run.spc, T % 8, run.op.toNat⟩ (0x4A, 0, reason + iters <<< 4)

/-! #### Basin window (R143, R144) -/

/-- The tile, row, column and byte of a window address. -/
def windowAt (a : Nat) : Nat × Nat × Nat × Nat :=
  let o := a - 0x3FC00000000
  (o / 0x20000, o / 0x400 % 128, o / 8 % 128, o % 8)

/-- The byte of a basin tile at a window address (R101, R143). -/
def windowByte (d : Dev) (a : Nat) : Byte :=
  let w := windowAt a
  BitVec.ofNat 8 (sget 0 (elemKey w.1 w.2.1 w.2.2.1) d.cas.elems >>> (8 * w.2.2.2))

/-- One byte stored through the window into a CLOSED tile; bits 63:40 of a container stay zero (R101). -/
def windowSet (d : Dev) (a : Nat) (v : Byte) : Dev :=
  let w := windowAt a
  let k := elemKey w.1 w.2.1 w.2.2.1
  let old := sget 0 k d.cas.elems
  let new := putBits old (8 * w.2.2.2 + 7) (8 * w.2.2.2) v.toNat % 2 ^ 40
  (d.withCas { d.cas with elems := sset 0 k new d.cas.elems })

/-- BASIN_BUSY for a window address (R144, R160, R161). -/
def basinBusy (d : Dev) (a : Nat) : Dev :=
  let uid := (windowAt a).1 / 4
  let h := uid / 64
  let d := fset d (A.CAS_STS h) F.CAS_STS_EXC 0x48
  let d := fset (fset d (A.CAS_STS h) F.CAS_STS_TERR (uid / 8 % 8)) (A.CAS_STS h) F.CAS_STS_UNIT (uid % 8)
  raise d 0x48 0 1 (opPayload d 0 0 0 h 0x48 (uid / 8 % 8) (uid % 8) a)

/-- Bytes written through the window: stored where the tile is CLOSED, otherwise discarded with one record for each
tile the write meets in another state (R144). -/
def windowWrite (d : Dev) (a : Nat) (bs : List Byte) : Dev :=
  let d := settleDue d
  let tiles := (range' (windowAt a).1 ((windowAt (a + bs.length - 1)).1 + 1 - (windowAt a).1))
  let busy := if bs.isEmpty then [] else tiles.filter (fun t => tileState d t != 0)
  let d := bs.zipIdx.foldl (fun d p =>
    if busy.contains (windowAt (a + p.2)).1 then d else windowSet d (a + p.2) p.1) d
  busy.foldl (fun d t => basinBusy d (max a (0x3FC00000000 + t * 0x20000))) d

/-! #### Timed results of the jets (R213, R214) -/

/-- Bytes stored by a jet: through the basin window where the address lies in it, else in the reservoir (R144, R195). -/
def jetStore (d : Dev) (a : Nat) (bs : List Byte) : Dev :=
  if 0x3FC00000000 ≤ a ∧ a < 0x3FC04000000 then windowWrite d a bs else (d.withMem (memWrite d.mem a bs))

/-- A jet result lands. JET_TID records the ID of a loaded table (R199, R203). -/
def jetLand (d : Dev) (l : JetLand) : Dev :=
  let d : Dev := match l.reg with
    | some (r, bs) => (d.withJet { d.jet with bytes := putRange 0 (8192 * r) bs d.jet.bytes })
    | none => d
  let d : Dev := match l.table with
    | some (k, bs) =>
      let a := A.JET_TID (k / 16) (k / 2 % 8)
      fset (d.withJet { d.jet with tables := sput k bs d.jet.tables }) a
        (if k % 2 = 0 then F.JET_TID_FID else F.JET_TID_DID) (leAt bs 24 4)
    | none => d
  l.runs.foldl (fun d r => jetStore d r.1 r.2) d

/-- The jet result that lands first among those due by now, the first issued among equals. -/
def nextLand (ls : List JetLand) (t : Nat) : Option Nat :=
  (ls.zipIdx.filter (fun e => decide (e.1.due ≤ t))).foldl
    (fun best e => match best with
      | none => some e.2
      | some i => if e.1.due < (ls.getD i e.1).due then some e.2 else some i) none

def settleLands : Nat → Dev → Dev
  | 0, d => d
  | n + 1, d =>
    match nextLand d.jet.lands d.now with
    | none => d
    | some i => match d.jet.lands[i]? with
      | none => d
      | some l => settleLands n (jetLand (d.withJet { d.jet with lands := d.jet.lands.eraseIdx i }) l)

/-- Every timed result due by now: pass rows and jet results. -/
def settle (d : Dev) : Dev := let d := settleLands d.jet.lands.length (settleDue d); settleDue d

/-! #### The slot -/

/-- The tests and the effect of a CAS op (R126 to R160). -/
def casOp (d : Dev) (c : CasCtx) (op : CasOp) : Except CasFail Dev :=
  match op with
  | .lds umask desc buf epv =>
    if umask = 0 then .error (0x40, 0, 0) else ldsIssue d c umask.toNat desc.toNat buf.toNat epv.toNat
  | .mm umask desc rowsm1 buf bt acm cmp gp pdt =>
    if umask = 0 then .error (0x40, 0, 0)
    else mmIssue d c umask.toNat desc.toNat rowsm1.toNat buf.toNat bt.toNat acm.toNat cmp.toNat gp.toNat pdt.toNat
  | .opa umask adesc bdesc rowsm1 bt acm cmp gp pdt =>
    if umask = 0 then .error (0x40, 0, 0)
    else opaIssue d c umask.toNat adesc.toNat bdesc.toNat rowsm1.toNat bt.toNat acm.toNat cmp.toNat gp.toNat pdt.toNat
  | .twf pmask gdesc xdesc rowsm1 buf ebt eacm obt oacm cmp =>
    if pmask = 0 then .error (0x40, 0, 0)
    else twfIssue d c pmask.toNat gdesc.toNat xdesc.toNat rowsm1.toNat buf.toNat ebt.toNat eacm.toNat obt.toNat
      oacm.toNat cmp.toNat
  | .bctl umask fn tmask =>
    if umask = 0 then .error (0x40, 0, 0) else bctlIssue d c umask.toNat fn.toNat tmask.toNat
  | .bin umask desc bt add =>
    if umask = 0 then .error (0x40, 0, 0) else binIssue d c umask.toNat desc.toNat bt.toNat add.toNat
  | .bout umask desc bt rnd nfm gp =>
    if umask = 0 then .error (0x40, 0, 0)
    else boutIssue d c umask.toNat desc.toNat bt.toNat rnd.toNat nfm.toNat gp.toNat
  | .root umask desc nt pc nit gp =>
    if umask = 0 then .error (0x40, 0, 0)
    else rootIssue d c umask.toNat desc.toNat nt.toNat pc.toNat nit.toNat gp.toNat

/-- A CAS op issues on a terrace: the cascade must be RUNNING (CAS_OFF), no ROOT may hold the terrace (R146); a failing
op is discarded and raises its exception (R160). -/
def casIssue (d : Dev) (iss : Issue) (terr : Nat) (op : CasOp) : Dev :=
  let d := settle (tick d iss.t)
  let h := hn iss.half
  let c : CasCtx := ⟨iss.t, h, iss.strand, (strandOf d iss.strand).lastSpc, terr % 8, (encodeCas op).toNat⟩
  let d := count d h 0x100 c.terr 1 false
  if !running d (.cas iss.half) then casRaise d c (0x44, 0, 0)
  else
    let rooted := match sfind c.T d.cas.roots with
      | some r => decide (c.t < r.ends)
      | none => false
    if rooted then casRaise d c (0x42, 0, 0)
    else match casOp (if (sfind c.T d.cas.roots).isSome then rootComplete d c.T else d) c op with
      | .ok d' => d'
      | .error f => casRaise d c f

/-- A slot word that names no op is an illegal encoding (R156). -/
def casIllegal (d : Dev) (iss : Issue) (terr word : Nat) : Dev :=
  let d := tick d iss.t
  casRaise d ⟨iss.t, hn iss.half, iss.strand, (strandOf d iss.strand).lastSpc, terr % 8, word⟩ (0x40, 0, 0)

/-- CAS_BSTS of a unit: LTOP, SBUF, TILE (R164). -/
def casBsts (d : Dev) (uid : Nat) : Nat :=
  let ltop := match ladderOf d uid with
    | none => 0xFF
    | some l => match (l.occ.map (fun e => e.1 % 32)).max? with
      | none => 0xFE
      | some L => L
  let sb (b : Nat) : Nat := match sfind (2 * uid + b) d.cas.sb with
    | none => 0
    | some m => if d.now < m.loadEnd then 1 else 2
  ltop <<< 16 + sb 0 <<< 8 + sb 1 <<< 10 + tileState d (4 * uid) + tileState d (4 * uid + 1) <<< 2
    + tileState d (4 * uid + 2) <<< 4 + tileState d (4 * uid + 3) <<< 6

/-- The earliest pass row of a unit is applied, at its time (R145, R176). -/
def rowApply (d : Dev) (uid : Nat) : Dev :=
  match nextRow d.cas.rows (fun r => decide (r.uid = uid)) with
  | none => d
  | some i => applyOne (tick d ((d.cas.rows[i]?.map (·.due)).getD d.now)) i

/-- BASIN_ROW_APPLY (R176). -/
def execBasinRowApply (uid : BitVec 7) (s : State) : Host.Outcome State Fault Refusal :=
  act (fun d => rowApply d uid.toNat) s

/-- ROOT_COMPLETE (R154). -/
def execRootComplete (half : Half) (terr : BitVec 3) (s : State) : Host.Outcome State Fault Refusal :=
  act (fun d => rootComplete d (8 * hn half + terr.toNat)) s

/-- BASIN_WINDOW_WRITE (R144). `off` is the offset in the window; bytes past the window's end are no part of it. -/
def execBasinWindowWrite (off : BitVec 26) (data : List Byte) (s : State) : Host.Outcome State Fault Refusal :=
  act (fun d => windowWrite d (0x3FC00000000 + off.toNat) (data.take (2 ^ 26 - off.toNat))) s

end Sys2Proof.Machine
end

