-- ==== Sys2Proof/Machine/Jet.lean ====
section
/-! DEFINITION. The jets: vector registers, loads and stores, elementwise ops, tables, row states, the tie-sum pass and
their timing (06). Times are array cycles; a terrace is named by its package number 0 to 15. -/

namespace Sys2Proof.Machine

/-! ### Lanes and registers (R190 to R192) -/

/-- Format code of a lane width (R191). -/
def laneFmt (w : Nat) : Nat := match w with | 0 => 0 | 1 => 1 | 2 => 2 | _ => 13

/-- Bytes of a lane, elements of a vector, segments of a vector (R191). -/
def laneBytes (w : Nat) : Nat := if w = 1 ∨ w = 2 then 2 else 4
def laneCount (w : Nat) : Nat := 8192 / laneBytes w
def laneSegs (w : Nat) : Nat := laneCount w / 128

/-- The bytes of vector register `r` of terrace T. -/
def vecBytes (d : Dev) (T r : Nat) : List Byte := dense 0 (8192 * (32 * T + r)) 8192 d.jet.bytes

/-- The lanes of a register, as codes at a width. -/
def vecCodes (d : Dev) (T r w : Nat) : List Nat :=
  (chunks (laneBytes w) (laneCount w) (vecBytes d T r)).map leNat

/-- The lanes of a register, as values at a width. -/
def vecVals (d : Dev) (T r w : Nat) : List FVal := (vecCodes d T r w).map (fun c => decElem (laneFmt w) c 127)

/-- The bytes of a vector of codes. -/
def codesBytes (w : Nat) (cs : List Nat) : List Byte := (cs.map (leBytes (laneBytes w))).flatten

/-- The code of a value in a lane of a floating-point width, rounded once to nearest even (R115). -/
def laneCode (w : Nat) (v : FVal) : Nat := let f := elemFmt (laneFmt w); encF f (rndTo f v)

/-- A register takes its new bytes at `due` (R214). -/
def landReg (d : Dev) (T r due : Nat) (bs : List Byte) : Dev :=
  d.withJet { d.jet with lands := d.jet.lands ++ [⟨due, some (32 * T + r, bs), none, []⟩] }

/-! ### Issue of JET ops -/

/-- What makes a jet op fail: exception number and detail (R219, R220). -/
abbrev JetFail := Nat × Nat

/-- A jet exception of an op (R219, R220). All are chip-fatal. -/
def jetRaise (d : Dev) (c : CasCtx) (f : JetFail) : Dev :=
  let d := fset (fset d (A.JET_STS c.h) F.JET_STS_EXC f.1) (A.JET_STS c.h) F.JET_STS_TERR c.terr
  raise d f.1 3 2 (opPayload d c.word c.spc (strandCode c.s) c.h f.1 c.terr 0 f.2)

/-- The half's jets are busy until `t` at least (R224). -/
def jetBusy (d : Dev) (h t : Nat) : Dev :=
  d.withJet { d.jet with busy := sset 0 h (max (sget 0 h d.jet.busy) t) d.jet.busy }

/-- The JAT entry an op names: beyond NENT is JET_ADDR, a reserved bit JET_ENC (R193, R217). -/
def jetEntry (d : Dev) (c : CasCtx) (n : Nat) : Except JetFail TileEntry :=
  match jatEntry d c.h n with
  | none => .error (0x51, 0)
  | some (e, bad) => if bad || (isMx e.fmt && (e.tr || e.bc)) then .error (0x50, 0) else .ok e

/-- Terrace T's share of the basin window (R143, R195). -/
def winBase (T : Nat) : Nat := 0x3FC00000000 + T * 0x400000

/-- The bytes from an integer address lie in what terrace T's jet may touch (R195). -/
def jetReach (T : Nat) (i : Int) (n : Nat) : Bool :=
  match addrOf i with
  | some a => inRes T a n || (decide (winBase T ≤ a) && decide (a + n ≤ winBase T + 0x400000))
  | none => false

/-- The byte a jet reads: through the basin window or from the reservoir. -/
def jetByte (d : Dev) (m : List Host.Cell) (a : Nat) : Byte :=
  if 0x3FC00000000 ≤ a ∧ a < 0x3FC04000000 then windowByte d a else memGet m a

/-- The code of `w` bits at bit `i` of the bytes from `a`. -/
def jetCode (d : Dev) (m : List Host.Cell) (a i w : Nat) : Nat :=
  bits (leNat ((range' (a + i / 8) ((w + 14) / 8)).map (jetByte d m))) (i % 8 + w - 1) (i % 8)

/-- Memory-port hold of an op on a format (R213). -/
def portHold (fmt : Nat) : Nat := if fmt = 10 then 4 else 2

/-- The port is free (R215), and is held for `hold` from now on. -/
def takePort (d : Dev) (c : CasCtx) (hold : Nat) : Except JetFail Dev :=
  if c.t < sget 0 c.T d.jet.portFree then .error (0x52, 0)
  else
    .ok (count (d.withJet { d.jet with portFree := sset 0 c.T (c.t + hold) d.jet.portFree }) c.h 0x301 c.terr hold false)

/-- Timed accesses of an op's byte runs over its hold (R378); the memory as it reads it. -/
def jetLines (d : Dev) (c : CasCtx) (hold : Nat) (runs : List (Nat × Nat)) : Dev × List Nat :=
  rvrTimed d c.T (spread c.t hold (linesOf c.T (runs.filter (fun r => inRes c.T r.1 r.2))))

/-- Element indices of segment lanes of a tile under a row group, `segs` rows or columns of it (R194). -/
def groupElems (e : TileEntry) (segs g : Nat) : List Nat :=
  ((range' (segs * g) segs).map (fun r => (List.range 128).map (fun c => if e.tr then c * 128 + r else r * 128 + c))).flatten

/-- The byte runs of a row group of a tile at `a`, `segs` rows of it. -/
def groupRuns (e : TileEntry) (a s segs g : Nat) : List (Nat × Nat) :=
  let w := elemBits e.fmt
  if e.bc then [(a, (w + 7) / 8)]
  else if e.tr then (List.range 128).map (fun x => (a + (x * 128 + segs * g) * w / 8, (segs * w + 7) / 8))
  else (a + segs * g * 16 * w, segs * 16 * w) :: (if isMx e.fmt then [(s + 4 * segs * g, 4 * segs)] else [])

/-- The tile of an entry, with the tests of R195: alignment, and every byte the op touches within reach. -/
def jetTile (d : Dev) (c : CasCtx) (e : TileEntry) (base : Int) (segs g : Nat) : Except JetFail TileAt :=
  let m := tileM d c.s e 0
  let a := base + m * (unitBytes e.fmt : Int)
  let s := (e.sbase : Int) + m * 8
  let unit : Int := if e.bc then ((elemBits e.fmt / 8 : Nat) : Int) else 64
  let ok : Bool := decide (0 ≤ a) && decide (0 ≤ s) && decide (a % unit = 0)
    && (groupRuns e a.toNat s.toNat segs g).all (fun r => jetReach c.T r.1 r.2)
  if ok then .ok ⟨a, s, e.fmt, e.tr⟩ else .error (0x51, unsigned 64 a)

/-- The value of element `i` of a tile as a jet reads it. -/
def jetElem (d : Dev) (m : List Host.Cell) (t : TileAt) (i : Nat) : FVal :=
  let w := elemBits t.fmt
  decElem t.fmt (jetCode d m t.data.toNat (i * w) w)
    (if isMx t.fmt then (jetByte d m (t.scale.toNat + i / 32)).toNat else 127)

/-- The elements a row-group read brings, one for each lane (R194). -/
def groupVals (d : Dev) (m : List Host.Cell) (e : TileEntry) (t : TileAt) (segs g : Nat) : List FVal :=
  if e.bc then List.replicate (128 * segs) (jetElem d m t 0) else (groupElems e segs g).map (jetElem d m t)

/-- RG is within the range of the width (R217). -/
def rgOk (w rg : Nat) : Bool := decide (laneSegs w = 16) || decide (rg < 4)

/-- A format and a lane width convert to each other (R196). -/
def widthFits (fmt w : Nat) : Bool := isIntFmt fmt == decide (w = 3)

/-! #### JLD and JST (R196) -/

def jldIssue (d : Dev) (c : CasCtx) (vd desc rg w rnd nfm : Nat) : Except JetFail Dev :=
  match jetEntry d c desc with
  | .error f => .error f
  | .ok e =>
    if rnd ≥ 2 ∨ rgOk w rg = false ∨ widthFits e.fmt w = false then .error (0x50, 0)
    else match jetTile d c e e.base (laneSegs w) rg with
    | .error f => .error f
    | .ok t => match takePort d c (portHold e.fmt) with
      | .error f => .error f
      | .ok d =>
        let (d, bad) := jetLines d c (portHold e.fmt) (groupRuns e t.data.toNat t.scale.toNat (laneSegs w) rg)
        let vs := groupVals d (maskLines d.mem c.T bad) e t (laneSegs w) rg
        let cs := vs.map (convTo (laneFmt w) (rndOf rnd) (nfm == 1))
        let ev := (if e.bc then cs.take 1 else cs).foldl (fun a k => a.add k.ev) noEvents
        let d := reportEvents d c.h false (opStep d) srcJET c.word ev
        .ok (jetBusy (landReg d c.T vd (c.t + 32) (codesBytes w (cs.map (·.code)))) c.h (c.t + 32))

/-- The runs that a store of converted rows makes; with BC = 1 the one element takes a lane that no rule names. -/
def storeRuns (e : TileEntry) (t : TileAt) (segs g : Nat) (rows : List (List Nat × List Nat)) : List (Nat × List Byte) :=
  let w := elemBits e.fmt
  let a := t.data.toNat
  let codes := (rows.map (·.1)).flatten
  if e.bc then [(a, leBytes (w / 8) (codes.getD (Config.bcLane % codes.length) 0))]
  else if e.tr then
    codes.zipIdx.map (fun p => (a + (p.2 % 128 * 128 + segs * g + p.2 / 128) * w / 8, leBytes (w / 8) p.1))
  else
    (rows.zipIdx.map (fun r =>
      (a + (segs * g + r.2) * 16 * w, leBytes (16 * w) (r.1.1.zipIdx.foldl (fun n p => n + p.1 <<< (w * p.2)) 0)))) ++
    (rows.zipIdx.filter (fun r => !r.1.2.isEmpty)).map (fun r =>
      (t.scale.toNat + 4 * (segs * g + r.2), r.1.2.map (BitVec.ofNat 8)))

/-- The parts of stores that survive when accesses to some lines failed (R379). -/
def dropLines (T : Nat) (bad : List Nat) (runs : List (Nat × List Byte)) : List (Nat × List Byte) :=
  if bad.isEmpty then runs
  else
    let cells := (runs.map (fun r => r.2.zipIdx.map (fun p => (r.1 + p.2, [p.1])))).flatten
    cells.filter (fun r => !(inRes T r.1 1 && bad.contains ((r.1 - resBase T) / 128)))

def jstIssue (d : Dev) (c : CasCtx) (vs desc rg w rnd nfm gp : Nat) : Except JetFail Dev :=
  match jetEntry d c desc with
  | .error f => .error f
  | .ok e =>
    if rnd ≥ 2 ∨ rgOk w rg = false ∨ widthFits e.fmt w = false then .error (0x50, 0)
    else match jetTile d c e e.base (laneSegs w) rg with
    | .error f => .error f
    | .ok t => match takePort d c (portHold e.fmt) with
      | .error f => .error f
      | .ok d =>
        let (d, bad) := jetLines d c (portHold e.fmt) (groupRuns e t.data.toNat t.scale.toNat (laneSegs w) rg)
        let rs := (chunks 128 (laneSegs w) (vecVals d c.T vs w)).map (convRow e.fmt (rndOf rnd) (nfm == 1))
        let ev := rs.foldl (fun a r => a.add r.2.2) noEvents
        let d := reportEvents d c.h (gp == 1) (opStep d) srcJET c.word ev
        let runs := dropLines c.T bad (storeRuns e t (laneSegs w) rg (rs.map (fun r => (r.1, r.2.1))))
        .ok (jetBusy (d.withJet { d.jet with lands := d.jet.lands ++ [⟨c.t + 32, none, none, runs⟩] }) c.h (c.t + 32))

/-! #### ALU and CVT (R197, R198) -/

/-- FN and W go together (R197). -/
def aluLegal (fn w : Nat) : Bool :=
  match fn with
  | 0 | 1 | 2 | 3 => decide (w ≠ 3)
  | 6 | 7 => decide (w = 0)
  | 13 => decide (w = 3)
  | 14 | 15 => false
  | _ => true

/-- One lane of an ALU op on codes at a width (R197). -/
def aluLane (fn w a b c : Nat) : Nat :=
  let n := 8 * laneBytes w
  let va := decElem (laneFmt w) a 127
  let vb := decElem (laneFmt w) b 127
  let vc := decElem (laneFmt w) c 127
  let fl (v : FVal) : Nat := laneCode w v
  match fn with
  | 0 => fl (fadd va vb)
  | 1 => fl (fsub va vb)
  | 2 => fl (fmul va vb)
  | 3 => fl (fadd (fmul va vb) vc)
  | 4 => if w = 3 then (if signed 32 a < signed 32 b then b else a) else fl (fmax va vb)
  | 5 => if w = 3 then (if signed 32 b < signed 32 a then b else a) else fl (fmin va vb)
  | 6 => fl (fdiv va vb)
  | 7 => fl (fsqrt va)
  | 8 => if c ≠ 0 then a else b
  | 9 => if (if w = 3 then decide (signed 32 a < signed 32 b) else flt va vb) then 2 ^ n - 1 else 0
  | 10 => a &&& b
  | 11 => a ||| b
  | 12 => a ^^^ b
  | _ => (a + b) % 2 ^ 32

/-- Operands an ALU function reads: VA, VB, VC. -/
def aluReads (fn : Nat) : List Nat := match fn with | 3 => [0, 1, 2] | 7 => [0] | _ => [0, 1]

/-- Non-finite inputs and outputs of lanes, counted per element. -/
def laneEvents (ins : List (List FVal)) (out : List FVal) : Events :=
  let nf (l : List FVal) : Nat := (l.filter (fun v => !v.isFinite)).length
  let anyIn := match ins with
    | [] => []
    | x :: r => r.foldl (fun m l => (m.zip l).map (fun p => if p.1.isFinite then p.2 else p.1)) x
  ⟨0, nf anyIn, nf out⟩

def aluIssue (d : Dev) (c : CasCtx) (vd va vb vc fn w gp : Nat) : Except JetFail Dev :=
  if aluLegal fn w = false then .error (0x50, 0)
  else
    let a := vecCodes d c.T va w
    let b := vecCodes d c.T vb w
    let x := vecCodes d c.T vc w
    let out := (a.zip (b.zip x)).map (fun p => aluLane fn w p.1 p.2.1 p.2.2)
    let val (l : List Nat) : List FVal := l.map (fun k => decElem (laneFmt w) k 127)
    let d := if gp = 1 ∧ fn ≤ 7 ∧ w ≠ 3 then
        reportEvents d c.h true (opStep d) srcJET c.word
          (laneEvents ((aluReads fn).map (fun i => val (match i with | 0 => a | 1 => b | _ => x))) (val out))
      else d
    let due := c.t + if fn = 6 ∨ fn = 7 then 40 else 12
    .ok (jetBusy (landReg d c.T vd due (codesBytes w out)) c.h due)

def cvtIssue (d : Dev) (c : CasCtx) (vd va ws wd rnd nfm gp : Nat) : Except JetFail Dev :=
  if rnd ≥ 2 then .error (0x50, 0)
  else
    let n := min (laneCount ws) (laneCount wd)
    let cs := ((vecVals d c.T va ws).take n).map (convTo (laneFmt wd) (rndOf rnd) (nfm == 1))
    let ev := cs.foldl (fun a k => a.add k.ev) noEvents
    let d := reportEvents d c.h (gp == 1) (opStep d) srcJET c.word ev
    let out := cs.map (·.code) ++ List.replicate (laneCount wd - n) 0
    .ok (jetBusy (landReg d c.T vd (c.t + 12) (codesBytes wd out)) c.h (c.t + 12))

/-! #### Tables (R199 to R204) -/

/-- The parts of a function table that evaluation uses: LO, E, the side lines, and the coefficients of a segment. -/
structure FTable where
  lo : FVal
  e : Int
  la : FVal
  lb : FVal
  ra : FVal
  rb : FVal
  bytes : List Byte

/-- The loaded table of a terrace, F for 0 and D for 1; zero bytes before any load. -/
def loadedTable (d : Dev) (T tgt : Nat) : FTable :=
  let b := sget [] (2 * T + tgt) d.jet.tables
  let f (o : Nat) : FVal := dec32 (leAt b o 4)
  ⟨f 0, signed 8 (leAt b 4 1), f 8, f 12, f 16, f 20, b⟩

/-- ⌊v⌋ of a non-negative finite value; 0 for anything else. -/
def floorVal (v : FVal) : Nat :=
  match v with
  | .fin _ m e => keepAt .rtz m e 0
  | _ => 0

/-- The FP32 fused multiply-add (R115, R200). -/
def fma32 (a b c : FVal) : FVal := f32 (fadd (fmul a b) c)

/-- side(A, B, x) of R200. -/
def sideLine (a b x : FVal) : FVal := if b.isZero then a else fma32 b x a

/-- The quadratic of segment coefficients at offset d (R200). -/
def quadratic (c0 c1 c2 dd : FVal) : FVal := fma32 (fma32 c2 dd c1) dd c0

/-- eval(x) of R200. -/
def tabEval (t : FTable) (x : FVal) : FVal :=
  if x.isNan then .nan
  else if flt x t.lo then sideLine t.la t.lb x
  else if !flt x (fadd t.lo (.fin false 1024 t.e)) then sideLine t.ra t.rb x
  else
    let u := (fsub x t.lo).scale (-t.e)
    let j := floorVal u
    let dd := f32 (fsub u (.fin false j 0))
    let f (o : Nat) : FVal := dec32 (leAt t.bytes (64 + 16 * j + o) 4)
    quadratic (f 0) (f 4) (f 8) dd

/-- Coefficient `i` of segment `k` of built-in table `f` (R201). -/
def romCoefOf (f k i : Nat) : FVal := dec32 (Config.romCoef f k i % 2 ^ 32)

/-- A built-in table at u = (x − LO) / 2^E (R200, R201). -/
def romEval (f : Nat) (u : FVal) : FVal :=
  let j := floorVal u
  quadratic (romCoefOf f j 0) (romCoefOf f j 1) (romCoefOf f j 2) (f32 (fsub u (.fin false j 0)))

/-- 2 units in the last place of FP32 at a magnitude (R201). -/
def ulp2 (v : FVal) : FVal :=
  match v with
  | .fin _ m e => if m = 0 then .fin false 1 (-148) else .fin false 1 (qExp fmtFP32 m e + 1)
  | _ => fzero

/-- A table result held within 2 units in the last place of the exact function value (R201). The exact value is given
to more than 60 bits. -/
def within2 (exact v : FVal) : FVal :=
  let lo := f32 (fsub exact (ulp2 exact))
  let hi := f32 (fadd exact (ulp2 exact))
  if v.isNan || flt v lo then lo else if flt hi v then hi else v

/-- 2^(2^-i) · 2^100, by repeated square roots. -/
def rootTwos : Nat → Nat → List Nat
  | 0, _ => []
  | n + 1, x => let y := iroot 2 (x <<< 100); y :: rootTwos n y

/-- 2^f for a fraction f = k / 2^64, as a value to about 90 bits. -/
def exp2Frac (k : Nat) : FVal :=
  .fin false (((rootTwos 64 (2 ^ 101)).zipIdx).foldl
    (fun a p => if k.testBit (63 - p.2) then (a * p.1) >>> 100 else a) (2 ^ 100)) (-100)

/-- The first `n` fraction bits of log2 μ for μ = x / 2^128 in [1, 2). -/
def log2Bits : Nat → Nat → Nat → Nat
  | 0, _, acc => acc
  | n + 1, x, acc =>
    let y := (x * x) >>> 128
    if y ≥ 2 ^ 129 then log2Bits n (y / 2) (2 * acc + 1) else log2Bits n y (2 * acc)

/-- EXP2 (R201). -/
def exp2Fn (x : FVal) : FVal :=
  match x with
  | .nan => .nan
  | .inf n => if n then fzero else .inf false
  | .fin neg m e =>
    if !flt x (.fin false 128 0) then .inf false
    else if flt x (.fin true 150 0) then fzero
    else
      let n : Int := if neg then -((keepAt .rtz m e 0 : Nat) : Int)
          - (if (FVal.isZero (fsub (.fin true m e) (.fin true (keepAt .rtz m e 0) 0))) then 0 else 1)
        else (keepAt .rtz m e 0 : Nat)
      let f := fsub x (ofInt n 0 false)
      if f.isZero then f32 (.fin false 1 n)
      else
        let v := f32 ((romEval 0 (f.scale 10)).scale n)
        within2 ((exp2Frac (floorVal (f.scale 64))).scale n) v

/-- LOG2 (R201). -/
def log2Fn (x : FVal) : FVal :=
  match x with
  | .nan => .nan
  | .inf n => if n then .nan else .inf false
  | .fin neg m e =>
    if m = 0 then .inf true
    else if neg then .nan
    else
      let k := log2Floor m e
      let mu := x.scale (-k)
      if mu = fone ∨ (fsub mu fone).isZero then f32 (ofInt k 0 false)
      else
        let v := f32 (fadd (ofInt k 0 false) (romEval 1 ((fsub mu fone).scale 10)))
        let bitsN := log2Bits 100 (floorVal (mu.scale 128)) 0
        within2 (fadd (ofInt k 0 false) (.fin false bitsN (-100))) v

/-- RCP (R201). -/
def rcpFn (x : FVal) : FVal :=
  match x with
  | .nan => .nan
  | .inf n => .fin n 0 0
  | .fin neg m e =>
    if m = 0 then .inf neg
    else
      let k := log2Floor m e
      let v := f32 ((romEval 2 ((fsub (x.abs.scale (-k)) fone).scale 10)).scale (-k))
      let v := within2 (fdiv fone x.abs) v
      if neg then v.neg else v

/-- RSQRT (R201). -/
def rsqrtFn (x : FVal) : FVal :=
  match x with
  | .nan => .nan
  | .inf n => if n then .nan else fzero
  | .fin neg m e =>
    if m = 0 then .inf neg
    else if neg then .nan
    else
      let k := (log2Floor m e) / 2
      let v := f32 ((romEval 3 ((fsub (x.scale (-2 * k)) fone).scale 8)).scale (-k))
      within2 (fsqrt (fdiv fone x)) v

/-- TAB of one lane (R200 to R202). -/
def tabLane (d : Dev) (T tsel : Nat) (x : FVal) : FVal :=
  match tsel with
  | 4 => exp2Fn x
  | 5 => log2Fn x
  | 6 => rcpFn x
  | 7 => rsqrtFn x
  | k => tabEval (loadedTable d T k) x

def tabIssue (d : Dev) (c : CasCtx) (vd va tsel gp : Nat) : Except JetFail Dev :=
  if tsel = 2 ∨ tsel = 3 then .error (0x50, 0)
  else
    let xs := vecVals d c.T va 0
    let ys := xs.map (tabLane d c.T tsel)
    let d := if gp = 1 then reportEvents d c.h true (opStep d) srcJET c.word (laneEvents [xs] ys) else d
    .ok (jetBusy (landReg d c.T vd (c.t + 24) (codesBytes 0 (ys.map enc32))) c.h (c.t + 24))

def derIssue (d : Dev) (c : CasCtx) (vd vx vg : Nat) : Except JetFail Dev :=
  let xs := vecVals d c.T vx 0
  let gs := vecVals d c.T vg 0
  let t := loadedTable d c.T 1
  let ys := (xs.zip gs).map (fun p => f32 (fmul (tabEval t p.1) p.2))
  let d := reportEvents d c.h true (opStep d) srcJET c.word (laneEvents [xs, gs] ys)
  .ok (jetBusy (landReg d c.T vd (c.t + 24) (codesBytes 0 (ys.map enc32))) c.h (c.t + 24))

/-- The address of an entry that addresses `unit`-byte pieces, `n` bytes at `off` in one, with the tests of R195. -/
def jetAt (d : Dev) (c : CasCtx) (e : TileEntry) (unit off n : Nat) : Except JetFail Nat :=
  let a := (e.base : Int) + tileM d c.s e 0 * (unit : Int) + (off : Int)
  if a % 64 = 0 ∧ jetReach c.T a n = true then .ok a.toNat else .error (0x51, unsigned 64 a)

def tldIssue (d : Dev) (c : CasCtx) (tgt desc : Nat) : Except JetFail Dev :=
  match jetEntry d c desc with
  | .error f => .error f
  | .ok e =>
    if e.fmt ≠ 0 ∨ e.bc = true ∨ e.tr = true then .error (0x50, 0)
    else match jetAt d c e 1024 0 16448 with
    | .error f => .error f
    | .ok a =>
      let bs0 := (range' a 64).map (jetByte d d.mem)
      let ex := signed 8 (leAt bs0 4 1)
      if ex < -126 ∨ ex > 100 ∨ leAt bs0 5 3 ≠ 0 ∨ leAt bs0 28 36 ≠ 0 then .error (0x50, 0)
      else match takePort d c 6 with
      | .error f => .error f
      | .ok d =>
        let (d, bad) := jetLines d c 6 [(a, 16448)]
        let bs := (range' a 16448).map (jetByte d (maskLines d.mem c.T bad))
        .ok (jetBusy (d.withJet { d.jet with lands := d.jet.lands ++ [⟨c.t + 48, none, some (2 * c.T + tgt, bs), []⟩] })
          c.h (c.t + 48))

/-! #### Row states (R205 to R210) -/

/-- Keys of row r of a bank, and of a row group. -/
def rowKey (T bank r : Nat) : Nat := ((4 * T + bank) * 128 + r) * 2
def groupKey (T bank g : Nat) : Nat := (4 * T + bank) * 8 + g

def rowState (d : Dev) (T bank r : Nat) : FVal × FVal :=
  (decA40 (sget 0 (rowKey T bank r) d.jet.rows), decA40 (sget 0 (rowKey T bank r + 1) d.jet.rows))

def setRowState (d : Dev) (T bank r : Nat) (p : FVal × FVal) : Dev :=
  let k := rowKey T bank r
  (d.withJet { d.jet with rows := sset 0 (k + 1) (encA40 p.2) (sset 0 k (encA40 p.1) d.jet.rows) })

def groupKind (d : Dev) (T bank g : Nat) : Nat := sget 0 (groupKey T bank g) d.jet.kinds
def setGroupKind (d : Dev) (T bank g rk : Nat) : Dev :=
  d.withJet { d.jet with kinds := sset 0 (groupKey T bank g) (rk + 1) d.jet.kinds }

/-- The empty state of a kind (R206). -/
def emptyRow (rk : Nat) : FVal × FVal := if rk = 0 then (.inf true, fzero) else (fzero, fzero)

/-- LOG2E of R206. -/
def log2e : FVal := dec32 0x3FB8AA3B

/-- EXP2(round_fp32(round_fp32(a − M) × LOG2E)) (R206). -/
def expShift (a m : FVal) : FVal := exp2Fn (f32 (fmul (f32 (fsub a m)) log2e))

/-- The tree sum of 128 A40 terms (R174, R206). -/
def sum128 (ts : List FVal) : FVal := (tree false 7 (ts.map plain)).h

/-- A row updated by a segment, with the terms the update used (R206). -/
def redRow (rk : Nat) (p : FVal × FVal) (xs ys : List FVal) : (FVal × FVal) × List FVal :=
  match rk with
  | 0 =>
    let m := fmax p.1 (xs.foldl fmax (.inf true))
    if m = .inf true then ((m, a40 (fadd (a40 (fmul p.2 fone)) (sum128 (List.replicate 128 fzero)))), [])
    else
      let es := xs.map (fun x => expShift x m)
      ((m, a40 (fadd (a40 (fmul p.2 (expShift p.1 m))) (sum128 es))), es)
  | 1 =>
    let sq := xs.map (fun x => a40 (fmul x x))
    ((a40 (fadd p.1 (sum128 xs)), a40 (fadd p.2 (sum128 sq))), xs ++ sq)
  | _ =>
    let pr := (xs.zip ys).map (fun q => a40 (fmul q.1 q.2))
    ((a40 (fadd p.1 (sum128 pr)), a40 (fadd p.2 (sum128 xs))), pr ++ xs)

/-- Two row states merged (R206). -/
def mergeRow (rk : Nat) (p q : FVal × FVal) : FVal × FVal :=
  match rk with
  | 0 =>
    let m := fmax p.1 q.1
    let c (v : FVal) : FVal := if m = .inf true then fone else expShift v m
    (m, a40 (fadd (a40 (fmul p.2 (c p.1))) (a40 (fmul q.2 (c q.1)))))
  | _ => (a40 (fadd p.1 q.1), a40 (fadd p.2 q.2))

/-- Non-finite values of a list. -/
def nonFinites (l : List FVal) : Nat := (l.filter (fun v => !v.isFinite)).length

/-- The detail of JET_STATE (R220). -/
def stateDetail (bank rg : Nat) : Nat := bank + rg <<< 4

def redIssue (d : Dev) (c : CasCtx) (va vb bank rg rk init gp : Nat) : Except JetFail Dev :=
  if rk = 3 then .error (0x50, 0)
  else if init = 0 ∧ groupKind d c.T bank rg ≠ rk + 1 then .error (0x53, stateDetail bank rg)
  else
    let as := chunks 128 16 (vecVals d c.T va 0)
    let bs := chunks 128 16 (vecVals d c.T vb 0)
    let d := setGroupKind d c.T bank rg rk
    let (d, ev) := (List.range 16).foldl (fun (x : Dev × Events) i =>
      let r := 16 * rg + i
      let p := if init = 1 then emptyRow rk else rowState x.1 c.T bank r
      let q := redRow rk p (as.getD i []) (bs.getD i [])
      (setRowState x.1 c.T bank r q.1, x.2.add ⟨0, nonFinites q.2, nonFinites [q.1.1, q.1.2]⟩)) (d, noEvents)
    .ok (jetBusy (reportEvents d c.h (gp == 1) (opStep d) srcJET c.word ev) c.h (c.t + 2))

def rsrIssue (d : Dev) (c : CasCtx) (vd bank rg what : Nat) : Except JetFail Dev :=
  let vals := (List.range 16).map (fun i =>
    let p := rowState d c.T bank (16 * rg + i)
    f32 (if what = 0 then p.1 else p.2))
  let d := reportEvents d c.h false (opStep d) srcJET c.word ⟨0, 0, nonFinites vals⟩
  .ok (jetBusy (landReg d c.T vd (c.t + 60) (codesBytes 0 ((vals.map (fun v => List.replicate 128 (enc32 v))).flatten)))
    c.h (c.t + 60))

/-- The entry of RSLD and RSST: FMT A40, BC and TR 0 (R205). -/
def rowEntry (d : Dev) (c : CasCtx) (desc rg : Nat) : Except JetFail Nat :=
  match jetEntry d c desc with
  | .error f => .error f
  | .ok e => if e.fmt ≠ 10 ∨ e.bc = true ∨ e.tr = true then .error (0x50, 0) else jetAt d c e 2048 (256 * rg) 256

def rsldIssue (d : Dev) (c : CasCtx) (bank rg desc rk mrg gp : Nat) : Except JetFail Dev :=
  if rk = 3 then .error (0x50, 0)
  else match rowEntry d c desc rg with
  | .error f => .error f
  | .ok a =>
    if mrg = 1 ∧ groupKind d c.T bank rg ≠ rk + 1 then .error (0x53, stateDetail bank rg)
    else match takePort d c 2 with
    | .error f => .error f
    | .ok d =>
      let (d, bad) := jetLines d c 2 [(a, 256)]
      let m := maskLines d.mem c.T bad
      let d := setGroupKind d c.T bank rg rk
      let v (k : Nat) : FVal := decA40 (leNat ((range' (a + 8 * k) 8).map (jetByte d m)))
      let (d, ev) := (List.range 16).foldl (fun (x : Dev × Events) i =>
        let r := 16 * rg + i
        let s := (v (2 * i), v (2 * i + 1))
        let q := if mrg = 1 then mergeRow rk (rowState x.1 c.T bank r) s else s
        (setRowState x.1 c.T bank r q, x.2.add ⟨0, 0, nonFinites [q.1, q.2]⟩)) (d, noEvents)
      .ok (jetBusy (reportEvents d c.h (gp == 1) (opStep d) srcJET c.word ev) c.h (c.t + 2))

def rsstIssue (d : Dev) (c : CasCtx) (bank rg desc : Nat) : Except JetFail Dev :=
  match rowEntry d c desc rg with
  | .error f => .error f
  | .ok a => match takePort d c 2 with
    | .error f => .error f
    | .ok d =>
      let (d, bad) := jetLines d c 2 [(a, 256)]
      let bs := ((List.range 16).map (fun i =>
        let p := rowState d c.T bank (16 * rg + i)
        leBytes 8 (encA40 p.1) ++ leBytes 8 (encA40 p.2))).flatten
      let runs := dropLines c.T bad [(a, bs)]
      .ok (jetBusy (d.withJet { d.jet with lands := d.jet.lands ++ [⟨c.t + 64, none, none, runs⟩] }) c.h (c.t + 64))

/-! #### TSUM (R211) -/

/-- Levels of the tree over `n` buffers padded to a power of two. -/
def padLog (n : Nat) : Nat := if n ≤ 1 then 0 else Nat.log2 (n - 1) + 1

/-- Every element of a list of results, or the first failure. -/
def collect {α : Type} : List (Except JetFail α) → Except JetFail (List α)
  | [] => .ok []
  | .error f :: _ => .error f
  | .ok a :: r => match collect r with
    | .ok l => .ok (a :: l)
    | .error f => .error f

def tsumIssue (d : Dev) (c : CasCtx) (vd desc rg nb gp : Nat) : Except JetFail Dev :=
  match jetEntry d c desc with
  | .error f => .error f
  | .ok e =>
    if nb = 0 ∨ isMx e.fmt = true ∨ e.bc = true then .error (0x50, 0)
    else
      let n := nb + 1
      match collect ((List.range n).map (fun (b : Nat) =>
        jetTile d c e ((e.base : Int) + (b : Int) * e.bstr * (unitBytes e.fmt : Int)) 16 rg)) with
      | .error f => .error f
      | .ok ts =>
        let hold := n * portHold e.fmt
        match takePort d c hold with
        | .error f => .error f
        | .ok d =>
          let (d, bad) := jetLines d c hold ((ts.map (fun t => groupRuns e t.data.toNat t.scale.toNat 16 rg)).flatten)
          let m := maskLines d.mem c.T bad
          let vs := ts.map (fun t => groupVals d m e t 16 rg)
          let k := padLog n
          let out := (List.range 2048).map (fun i =>
            f32 (tree false k ((vs.map (fun v => plain (v.getD i fzero))) ++ List.replicate (2 ^ k - n) (plain fzero))).h)
          let nin := vs.foldl (fun a v => a + nonFinites v) 0
          let d := reportEvents d c.h (gp == 1) (opStep d) srcJET c.word ⟨0, nin, nonFinites out⟩
          .ok (jetBusy (landReg d c.T vd (c.t + 32 + hold) (codesBytes 0 (out.map enc32))) c.h (c.t + 32 + hold))

/-! #### The slot -/

/-- The tests and the effect of a JET op (R196 to R217). -/
def jetOp (d : Dev) (c : CasCtx) (op : JetOp) : Except JetFail Dev :=
  match op with
  | .jld vd desc rg w rnd nfm => jldIssue d c vd.toNat desc.toNat rg.toNat w.toNat rnd.toNat nfm.toNat
  | .jst vs desc rg w rnd nfm gp => jstIssue d c vs.toNat desc.toNat rg.toNat w.toNat rnd.toNat nfm.toNat gp.toNat
  | .alu vd va vb vc fn w gp => aluIssue d c vd.toNat va.toNat vb.toNat vc.toNat fn.toNat w.toNat gp.toNat
  | .cvt vd va ws wd rnd nfm gp => cvtIssue d c vd.toNat va.toNat ws.toNat wd.toNat rnd.toNat nfm.toNat gp.toNat
  | .tab vd va tsel gp => tabIssue d c vd.toNat va.toNat tsel.toNat gp.toNat
  | .der vd vx vg => derIssue d c vd.toNat vx.toNat vg.toNat
  | .red va vb bank rg rk init gp =>
    redIssue d c va.toNat vb.toNat bank.toNat rg.toNat rk.toNat init.toNat gp.toNat
  | .rsr vd bank rg what => rsrIssue d c vd.toNat bank.toNat rg.toNat what.toNat
  | .rsld bank rg desc rk mrg gp =>
    rsldIssue d c bank.toNat rg.toNat desc.toNat rk.toNat mrg.toNat gp.toNat
  | .rsst bank rg desc => rsstIssue d c bank.toNat rg.toNat desc.toNat
  | .tld tgt desc => tldIssue d c tgt.toNat desc.toNat
  | .tsum vd desc rg nb gp => tsumIssue d c vd.toNat desc.toNat rg.toNat nb.toNat gp.toNat

/-- The issue of a JET op in the bundle its strand last issued. -/
def jetCtx (d : Dev) (iss : Issue) (terr word : Nat) : CasCtx :=
  ⟨iss.t, hn iss.half, iss.strand, (strandOf d iss.strand).lastSpc, terr % 8, word⟩

/-- A JET op issues on a terrace: the half's jets must be RUNNING (JET_OFF); a failing op is discarded (R219). -/
def jetIssue (d : Dev) (iss : Issue) (terr : Nat) (op : JetOp) : Dev :=
  let d := settle (tick d iss.t)
  let c := jetCtx d iss terr (encodeJet op).toNat
  let d := count d c.h 0x300 c.terr 1 false
  if !running d (.jet iss.half) then jetRaise d c (0x54, 0)
  else match jetOp d c op with
    | .ok d' => d'
    | .error f => jetRaise d c f

/-- A slot word that names no op is an illegal encoding (R216). -/
def jetIllegal (d : Dev) (iss : Issue) (terr word : Nat) : Dev :=
  let d := tick d iss.t
  jetRaise d (jetCtx d iss terr word) (0x50, 0)

end Sys2Proof.Machine
end

