-- ==== Sys2Proof/Machine/Mem.lean ====
section
/-! DEFINITION. The memory system: queued reads and writes through the local map, the pools, atomics, stack errors,
scrub, remap and repair record, and the die bridge (11). `mem` holds the coherent bytes (R384); what a dirty pool line
covers in its stack is kept beside it. -/

namespace Sys2Proof.Machine

/-! ### CRC-32C (R402, R451) -/

/-- One byte taken into a CRC-32C register (reflected polynomial 0x82F63B78). -/
def crcByte (c : Nat) (b : Byte) : Nat :=
  (List.range 8).foldl (fun c _ => if c % 2 = 1 then (c / 2) ^^^ 0x82F63B78 else c / 2) (c ^^^ b.toNat)

/-- CRC-32C of a list of bytes. -/
def crc32c (bs : List Byte) : Nat := (bs.foldl crcByte 0xFFFFFFFF) ^^^ 0xFFFFFFFF

/-! ### Where a byte lies (R372 to R376, R382, R391) -/

/-- Stack of a stack address; its half; the line's home half. -/
def stackOf (a : Nat) : Nat := a / stackStride
def homeHalf (a : Nat) : Nat := stackOf a / 4

/-- The usable channels of a stack in increasing number. -/
def channelsOf (d : Dev) (s : Nat) : List Nat :=
  (List.range 32).filter (fun c => (fget d (A.STK_CAP (s / 4) (s % 4)) F.STK_CAP_MAP).testBit c)

/-- The channel an address lies in, as 32 · stack + channel (R391). -/
def channelOf (d : Dev) (a : Nat) : Nat :=
  let s := stackOf a
  let ch := channelsOf d s
  32 * s + ch.getD (a % stackStride / 256 % max ch.length 1) 0

/-- The NV store window (R372, R403). -/
def inNv (a n : Nat) : Bool := decide (0x3FD00000000 ≤ a) && decide (a + n ≤ 0x3FD04000000)

/-- The register range (R372, R376). -/
def inRegs (a : Nat) : Bool := decide (0x3FE00000000 ≤ a) && decide (a < 0x3FE04000000)

/-- The bytes lie wholly in a terrace's reservoir range; the basin window (R143). -/
def inAnyRes (a n : Nat) : Bool :=
  match resTerrace a with
  | some T => inRes T a n
  | none => false

def inWindow (a n : Nat) : Bool := decide (0x3FC00000000 ≤ a) && decide (a + n ≤ 0x3FC04000000)

/-! ### Records (R409 to R411) -/

/-- A memory or bridge record. -/
def memRaise (d : Dev) (number sev half detail : Nat) : Dev :=
  raise d number sev 7 (opPayload d 0 0 0 half number 0 0 detail)

/-- A corrected record, at most one in an aligned millisecond from one source: terraces 0–15, pools 16 and 17, channels
from 32, bridge lanes from 512. -/
def memCorrected (d : Dev) (src number half detail : Nat) : Dev :=
  let m := d.now / ms 1 + 1
  if sget 0 src d.ms.corrMs = m then d
  else memRaise (d.withMs { d.ms with corrMs := sset 0 src m d.ms.corrMs }) number 1 half detail

/-! ### NV store and repair record (R401, R402) -/

/-- Bytes of the NV store replaced. While the write guard stops writes, the bytes wait in `nvNext` (R611, R660). -/
def nvWrite (d : Dev) (off : Nat) (bs : List Byte) : Dev :=
  let m := memWrite d.nvNext off bs
  if fget d A.PWR_STS F.PWR_STS_NVWP = 1 then (d.withNvNext m) else ((d.withNv m).withNvNext m)

/-- The CRC of the repair record, over its header up to the CRC and over its entries. -/
def repairSeal (d : Dev) : Dev :=
  let n := memNat d.nvNext 0x20020 4
  nvWrite d 0x2003C (leBytes 4 (crc32c (memRead d.nvNext 0x20000 60 ++ memRead d.nvNext 0x20040 (16 * n))))

/-- A remap entry appended for a row: state 0 pending, 1 soft-remapped. -/
def repairAppend (d : Dev) (row state : Nat) : Dev :=
  let n := memNat d.nvNext 0x20020 4
  let ch := row / 2 ^ 25
  let w := ch / 32 + (ch % 32) <<< 3 + (row % 2) <<< 8 + (row / 2 % 16) <<< 12 + (row / 32 % 2 ^ 20) <<< 16 + state <<< 36
  let d := nvWrite d (0x20040 + 16 * n) (leBytes 8 w ++ leBytes 8 (sidNow d))
  let d := repairSeal (nvWrite d 0x20020 (leBytes 4 (n + 1)))
  let s := ch / 32
  if state = 0 then fincSat d (A.STK_RMPSTS (s / 4) (s % 4)) F.STK_RMPSTS_PEND 1 else d

/-- A channel recorded as bad. -/
def repairBad (d : Dev) (ch : Nat) : Dev :=
  let a := 0x20000 + 4 * (ch / 32)
  repairSeal (nvWrite d a (leBytes 4 (memNat d.nvNext a 4 ||| 2 ^ (ch % 32))))

/-! ### Stack errors (R393 to R398) -/

/-- The detail of a stack record. -/
def stkDetail (ch a : Nat) : Nat := memDetail a (ch / 32 % 4) (ch % 32) 0 0 0

/-- A stack record: STK_ERR, the record. -/
def stkRaise (d : Dev) (number sev ch a : Nat) : Dev :=
  let h := ch / 128
  let e := A.STK_ERR h
  let d := fset (fset d e F.STK_ERR_STACK (ch / 32 % 4)) e F.STK_ERR_CH (ch % 32)
  let d := fset (fset d e F.STK_ERR_EXC number) e F.STK_ERR_ADDR a
  memRaise d number sev h (stkDetail ch a)

/-- STK_CHFAIL: the channel is recorded as bad and mapped out at the next reset (R398). -/
def stkChfail (d : Dev) (ch : Nat) : Dev :=
  if d.ms.badCh.contains ch then d
  else stkRaise (repairBad (d.withMs { d.ms with badCh := ch :: d.ms.badCh }) ch) 0xB4 3 ch 0

/-- The bank of a row. -/
def bankOfRow (row : Nat) : Nat := row / 2 ^ 25 * 32 + row % 32

/-- A candidate that cannot be remapped now goes into the repair record as pending (R397). -/
def remapDefer (d : Dev) (row : Nat) : Dev :=
  let ch := row / 2 ^ 25
  memRaise (repairAppend d row 0) 0xBC 0 (ch / 128) (stkDetail ch 0)

/-- A row becomes a remap candidate (R396, R397). -/
def remapCandidate (d : Dev) (row : Nat) : Dev :=
  if d.ms.cand.contains row then d
  else if fget d (A.STK_RMP (row / 2 ^ 25 / 128)) F.STK_RMP_LIVE = 1 ∧ 0 < sget 0 (bankOfRow row) d.ms.spares then
    (d.withMs { d.ms with cand := d.ms.cand ++ [row] })
  else remapDefer d row

/-- A corrected stack error counts against its row (R393, R396). -/
def stkCorrected (d : Dev) (a row : Nat) : Dev :=
  let ch := channelOf d a
  let s := ch / 32
  let key := ch * 2 ^ 25 + row % 2 ^ 25
  let d := fincSat d (A.STK_ECC (s / 4) (s % 4)) F.STK_ECC_CE 1
  let d := memCorrected (count d (s / 4) 0x622 (s % 4) 1 false) (32 + ch) 0xBA (s / 4) (stkDetail ch a)
  let n := sget 0 key d.ms.rowCe + 1
  let d : Dev := d.withMs { d.ms with rowCe := sset 0 key n d.ms.rowCe }
  if n = max (fget d (A.STK_RMP (s / 4)) F.STK_RMP_THRESH) 1 then remapCandidate d key else d

/-- STK_UE on a demand read: 64 bytes read zero, the row is noted for repair at the next reset, and more than 16 such
rows fail the channel (R394, R398). -/
def stkUe (d : Dev) (a row : Nat) : Dev :=
  let ch := channelOf d a
  let s := ch / 32
  let key := ch * 2 ^ 25 + row % 2 ^ 25
  let d := stkRaise (fincSat d (A.STK_ECC (s / 4) (s % 4)) F.STK_ECC_UE 1) 0xB3 3 ch a
  if d.ms.ueRows.contains key then d
  else
    let d := repairAppend (d.withMs { d.ms with ueRows := key :: d.ms.ueRows }) key 0
    if 16 < (d.ms.ueRows.filter (fun r => r / 2 ^ 25 == ch)).length then stkChfail d ch else d

/-- Reads of the bytes from `a` on meet the units the scrub has marked: each raises STK_UE and reads zero (R395). -/
def markTouch (d : Dev) (a n : Nat) : Dev :=
  (d.ms.marks.filter (fun u => decide (a < 64 * u.1 + 64) && decide (64 * u.1 < a + n))).foldl (fun d u =>
    stkUe (d.withMem (memWrite d.mem (64 * u.1) (List.replicate 64 0))) (64 * u.1) (u.2 - 1)) d

/-- A write of whole units clears their marks (R395). -/
def markClear (d : Dev) (a n : Nat) : Dev :=
  d.withMs { d.ms with marks := d.ms.marks.filter (fun u =>
      !(decide (a ≤ 64 * u.1) && decide (64 * u.1 + 64 ≤ a + n))) }

/-! ### The pools (R382 to R389) -/

def poolOf (d : Dev) (h : Nat) : Pool := sget Pool.init h d.ms.pools

/-- A pool replaced; POL_STS.DIRTY counts its dirty lines. -/
def setPool (d : Dev) (h : Nat) (p : Pool) : Dev :=
  fset (d.withMs { d.ms with pools := sset Pool.init h p d.ms.pools }) (A.POL_STS h) F.POL_STS_DIRTY
    (p.lines.filter (fun l => l.2.dirty)).length

/-- The stack takes a line's bytes: nothing of it is covered any more, and a whole line clears its units' marks. -/
def underClear (d : Dev) (a n : Nat) : Dev :=
  d.withMs { d.ms with under := d.ms.under.filter (fun e => !(decide (a ≤ e.1) && decide (e.1 < a + n))) }

/-- A dirty line written back. -/
def lineBack (d : Dev) (h line : Nat) : Dev :=
  let s := stackOf (128 * line)
  let d := count (count d h 0x612 0 1 true) h 0x621 (s % 4) 2 false
  markClear (underClear d (128 * line) 128) (128 * line) 128

/-- A line leaves its pool to make room, written back if it is dirty. -/
def evict (d : Dev) (h line : Nat) : Dev :=
  let p := poolOf d h
  let dirty := match sfind line p.lines with
    | some l => l.dirty
    | none => false
  setPool (if dirty then lineBack d h line else d) h { p with lines := sdel line p.lines }

/-- The least recently used line of a full set (R383). -/
def victim (p : Pool) (line : Nat) : Option Nat :=
  let set := p.lines.filter (fun l => Config.poolSet (128 * l.1) % 32768 == Config.poolSet (128 * line) % 32768)
  if set.length < 16 then none
  else (set.foldl (fun (b : Option (Nat × Nat)) l => match b with
    | none => some (l.1, l.2.used)
    | some x => if l.2.used < x.2 then some (l.1, l.2.used) else some x) none).map Prod.fst

/-- A queued access to a line in its home pool: a hit, or a miss that allocates it; `fill` says that its old bytes are
read from the stack. -/
def poolTouch (d : Dev) (line : Nat) (write fill : Bool) : Dev :=
  let h := homeHalf (128 * line)
  let p := poolOf d h
  match sfind line p.lines with
  | some l =>
    count (setPool d h { p with lines := sput line ⟨l.dirty || write, p.stamp⟩ p.lines, stamp := p.stamp + 1 }) h 0x610 0 1
      true
  | none =>
    let d := match victim p line with
      | some v => evict d h v
      | none => d
    let d := if fill then markTouch (count d h 0x620 (stackOf (128 * line) % 4) 2 false) (128 * line) 128 else d
    let p := poolOf d h
    count (setPool d h { p with lines := sput line ⟨write, p.stamp⟩ p.lines, stamp := p.stamp + 1 }) h 0x611 0 1 true

/-- The lines under a run of bytes. -/
def linesUnder (a n : Nat) : List Nat := if n = 0 then [] else range' (a / 128) ((a + n - 1) / 128 - a / 128 + 1)

/-- A write covers the whole of a line. -/
def coversLine (a n line : Nat) : Bool := decide (a ≤ 128 * line) && decide (128 * line + 128 ≤ a + n)

/-- Queued line accesses of a terrace (source 0x601), and the cycles they wait, a free value (0x602, R380). -/
def countQueued (d : Dev) (a n : Nat) : Dev :=
  match resTerrace a with
  | some T =>
    let e : Dev := d.withMs { d.ms with draws := d.ms.draws + 1 }
    count (count e (T / 8) 0x602 (T % 8) (Config.waited d.ms.draws) false) (T / 8) 0x601 (T % 8) (linesUnder a n).length
      false
  | none => d

/-- Bytes stored in the stacks through the pool: what they cover is kept until the line is written back. -/
def poolWrite (d : Dev) (a : Nat) (bs : List Byte) : Dev :=
  let d := (linesUnder a bs.length).foldl (fun d l => poolTouch d l true (!coversLine a bs.length l)) d
  let under := (List.range bs.length).foldl (fun u i =>
    if sget 0 (a + i) u = 0 then sput (a + i) (1 + (memGet d.mem (a + i)).toNat) u else u) d.ms.under
  ((d.withMem (memWrite d.mem a bs)).withMs { d.ms with under := under })

/-- The 64-byte units under a run of bytes. -/
def unitsUnder (a n : Nat) : Nat := if n = 0 then 0 else (a + n - 1) / 64 - a / 64 + 1

/-- Bytes stored at the memory controller, as a weir does: the pool's copy of them is replaced (R384). -/
def ctlWrite (d : Dev) (a : Nat) (bs : List Byte) : Dev :=
  let d := if inStackByte d a then count d (homeHalf a) 0x621 (stackOf a % 4) (unitsUnder a bs.length) false else d
  markClear (underClear (d.withMem (memWrite d.mem a bs)) a bs.length) a bs.length

/-- A read at the memory controller, as a weir and the paging engine make it (R384, R395). -/
def ctlTouch (d : Dev) (a n : Nat) : Dev :=
  if inStackByte d a then markTouch (count d (homeHalf a) 0x620 (stackOf a % 4) (unitsUnder a n) false) a n else d

/-! ### Queued clients (R375, R380, R384, R403) -/

/-- A read by local offset outside the register range; none: an unmapped byte (R375). -/
def qRead (d : Dev) (a n : Nat) : Dev × Option (List Byte) :=
  if n = 0 then (d, some [])
  else if inStacks d a n then
    let d := (linesUnder a n).foldl (fun d l => poolTouch d l false true) d
    (d, some (memRead d.mem a n))
  else if inAnyRes a n then (countQueued d a n, some (memRead d.mem a n))
  else if inWindow a n then
    let d := settleDue d
    (d, some ((List.range n).map (fun i => windowByte d (a + i))))
  else if inNv a n then (d, some (memRead d.nv (a - 0x3FD00000000) n))
  else (d, none)

/-- A write by local offset outside the register range; the result says whether it was accepted. The NV window takes no
write (R403). -/
def qWrite (d : Dev) (a : Nat) (bs : List Byte) : Dev × Bool :=
  if bs.isEmpty then (d, true)
  else if inStacks d a bs.length then (poolWrite d a bs, true)
  else if inAnyRes a bs.length then (countQueued (d.withMem (memWrite d.mem a bs)) a bs.length, true)
  else if inWindow a bs.length then (windowWrite d a bs, true)
  else (d, false)

/-- The same where the unit has already tested the range. -/
def qGet (d : Dev) (a n : Nat) : Dev × List Byte :=
  let r := qRead d a n
  (r.1, r.2.getD (List.replicate n 0))

def qPut (d : Dev) (a : Nat) (bs : List Byte) : Dev := (qWrite d a bs).1

/-! ### Soft errors (R381, R388, R393, R394) -/

/-- A soft error met by an access to reservoir, pool or stack; the result lists the bytes that read zero. -/
def eccApply (d : Dev) (read : Bool) (e : Ecc) : Dev × List Nat :=
  match resTerrace e.addr with
  | some T =>
    let h := T / 8
    let line := (e.addr - resBase T) / 128
    let det := memDetail e.addr (T % 8) 0 (rvrBank line) 0 0
    if !e.ue then (memCorrected (fincSat d (A.RVR_ECC h (T % 8)) F.RVR_ECC_CE 1) T 0xB8 h det, [])
    else
      let a := A.RVR_ERR h
      let d := fset (fset (fincSat d (A.RVR_ECC h (T % 8)) F.RVR_ECC_UE 1) a F.RVR_ERR_EXC 0xB1) a F.RVR_ERR_TERR (T % 8)
      let d := fset (fset d a F.RVR_ERR_BANK (rvrBank line)) a F.RVR_ERR_OFF (e.addr - resBase T)
      (memRaise d 0xB1 3 h det, if read then range' (e.addr / 8 * 8) 8 else [])
  | none =>
    if !inStackByte d e.addr then (d, [])
    else if e.pool then
      let h := homeHalf e.addr
      let line := e.addr / 128
      let det := memDetail e.addr 0 0 0 0 0
      match sfind line (poolOf d h).lines with
      | none => (d, [])
      | some l =>
        if !e.ue then (memCorrected (fincSat d (A.POL_ECC h) F.POL_ECC_CE 1) (16 + h) 0xB9 h det, [])
        else
          let p := poolOf d h
          let d := fincSat d (A.POL_ECC h) F.POL_ECC_UE 1
          let drop (d : Dev) : Dev := setPool d h { p with lines := sdel line p.lines }
          if !l.dirty then (memCorrected (poolTouch (drop d) line false true) (16 + h) 0xB9 h det, [])
          else
            let old := d.ms.under.filter (fun u => u.1 / 128 == line)
            let d := underClear (d.withMem (old.foldl (fun m u => memSet m u.1 (BitVec.ofNat 8 (u.2 - 1))) d.mem))
              (128 * line) 128
            let a := A.POL_ERR h
            let d := fset (fset (drop d) a F.POL_ERR_EXC 0xB2) a F.POL_ERR_ADDR (128 * line)
            (memRaise d 0xB2 3 h det, [])
    else if !e.ue then (stkCorrected d e.addr e.row, [])
    else if read then (stkUe d e.addr e.row, range' (e.addr / 64 * 64) 64)
    else (d, [])

/-- The soft errors of one access that lie in it. -/
def eccAll (d : Dev) (read : Bool) (a n : Nat) (es : List Ecc) : Dev × List Nat :=
  (es.filter (fun e => decide (a ≤ e.addr) && decide (e.addr < a + n))).foldl (fun r e =>
    let o := eccApply r.1 read e
    (o.1, r.2 ++ o.2)) (d, [])

/-- A request of a queued client outside the register range, with the soft errors it meets. -/
def memRequest (d : Dev) (a : Nat) (r : MemReq) (es : List Ecc) : Dev × Option (List Byte) :=
  match r with
  | .read n =>
    match qRead d a n with
    | (d, none) => (d, none)
    | (d, some _) =>
      let (d, zeros) := eccAll d true a n es
      (d, (qRead d a n).2.map (fun bs => bs.zipIdx.map (fun p => if zeros.contains (a + p.2) then 0 else p.1)))
  | .write bs =>
    let (d, _) := eccAll d false a bs.length es
    match qWrite d a bs with
    | (d, true) => (d, some [])
    | (d, false) => (d, none)

/-! ### Atomics (R385 to R387) -/

/-- Element bytes of an atomic; none for a reserved code. -/
def atomSize (atop : Nat) : Option Nat :=
  match atop with
  | 0 | 4 | 5 | 6 | 9 | 10 => some 4
  | 1 | 3 | 7 | 8 => some 2
  | 2 => some 1
  | 11 => some 8
  | _ => none

/-- One element of an atomic, and whether its floating-point result is not finite. -/
def atomElem (atop x y : Nat) : Nat × Bool :=
  let fp (f : FFmt) (g : FVal → FVal → FVal) : Nat × Bool :=
    let v := rndTo f (g (decF f x) (decF f y))
    (encF f v, !v.isFinite)
  let int (w : Nat) (g : Int → Int → Int) : Nat × Bool := (unsigned w (g (signed w x) (signed w y)), false)
  match atop with
  | 0 => fp fmtFP32 fadd
  | 1 => fp fmtBF16 fadd
  | 2 => int 8 (· + ·)
  | 3 => int 16 (· + ·)
  | 4 => int 32 (· + ·)
  | 5 => fp fmtFP32 fmin
  | 6 => fp fmtFP32 fmax
  | 7 => fp fmtBF16 fmin
  | 8 => fp fmtBF16 fmax
  | 9 => int 32 min
  | 10 => int 32 max
  | _ => (x ||| y, false)

/-- A pool atomic on the run from `a` on; the result says whether it was applied. The parts of a run that crosses lines
are applied in address order. -/
def poolAtomic (d : Dev) (a atop : Nat) (bs : List Byte) (gp : Bool) (step : Nat) : Dev × Bool :=
  match atomSize atop with
  | none => (d, false)
  | some k =>
    if a % k ≠ 0 ∨ bs.length % k ≠ 0 ∨ bs.isEmpty = true ∨ inStacks d a bs.length = false then (d, false)
    else
      let d := (linesUnder a bs.length).foldl (fun d l => poolTouch d l true true) d
      let n := bs.length / k
      let rs := (List.range n).map (fun i => atomElem atop (memNat d.mem (a + k * i) k) (leAt bs (k * i) k))
      let h := homeHalf a
      let d := count (poolWrite d a (rs.map (fun r => leBytes k r.1)).flatten) h 0x613 0 n true
      (reportEvents d h gp step srcOTHER 0 ⟨0, 0, (rs.filter (·.2)).length⟩, true)

/-! ### Write-back (R389) -/

/-- A write of 1 to POL_CTL.WB (`ask` 1) or INV (2). -/
def poolAsk (d : Dev) (h ask : Nat) : Dev :=
  fset (setPool d h { poolOf d h with ask := max (poolOf d h).ask ask }) (A.POL_STS h) F.POL_STS_BUSY 1

/-- The write-back has brought DIRTY to 0; an invalidate empties the pool. -/
def poolBack (d : Dev) (h : Nat) : Dev :=
  if fget d (A.POL_STS h) F.POL_STS_BUSY = 0 then d
  else
    let p := poolOf d h
    let d := (p.lines.filter (fun l => l.2.dirty)).foldl (fun d l => lineBack d h l.1) d
    let lines := if p.ask = 2 then [] else p.lines.map (fun l => (l.1, { l.2 with dirty := false }))
    fset (setPool d h { p with lines := lines, ask := 0 }) (A.POL_STS h) F.POL_STS_BUSY 0

/-! ### Scrub and remap (R395 to R397) -/

/-- Array cycles in an hour. -/
def hour : Nat := ms 3600000

/-- The patrol scrub of a half's stacks has read every row; `found` lists the errors it met. -/
def patrolScrub (d : Dev) (h : Nat) (found : List Ecc) : Dev :=
  if fget d (A.STK_SCRUB h) F.STK_SCRUB_ON = 0
      ∨ d.now < sget 0 h d.ms.scrubAt + hour * max (fget d (A.STK_SCRUB h) F.STK_SCRUB_PERIOD) 1 then d
  else
    let d := (found.filter (fun e => inStackByte d e.addr && homeHalf e.addr == h)).foldl (fun d e =>
      if !e.ue then stkCorrected d e.addr e.row
      else
        let ch := channelOf d e.addr
        let s := ch / 32
        let d := stkRaise (fincSat d (A.STK_ECC (s / 4) (s % 4)) F.STK_ECC_SCRUBUE 1) 0xBD 0 ch (e.addr / 64 * 64)
        repairAppend (d.withMs { d.ms with marks := sput (e.addr / 64) (1 + e.row % 2 ^ 25) d.ms.marks })
          (ch * 2 ^ 25 + e.row % 2 ^ 25) 0) d
    (d.withMs { d.ms with rowCe := d.ms.rowCe.filter (fun e => e.1 / 2 ^ 25 / 128 != h),
                               scrubAt := sset 0 h d.now d.ms.scrubAt })

/-- The first candidate of a half is remapped while no step is open, or deferred where the hold does not fit or nothing
is left to remap it with. How long the channel is held, up to HOLD, is a free value (counter 0x623). -/
def rowRemap (d : Dev) (h : Nat) (fits : Bool) : Dev :=
  if d.seq.stepOpen then d
  else match d.ms.cand.find? (fun r => r / 2 ^ 25 / 128 == h) with
  | none => d
  | some row =>
    let d : Dev := d.withMs { d.ms with cand := d.ms.cand.erase row }
    let ch := row / 2 ^ 25
    let a := A.STK_RMPSTS h (ch / 32 % 4)
    let b := bankOfRow row
    if fits && decide (fget d (A.STK_RMP h) F.STK_RMP_LIVE = 1) && decide (0 < sget 0 b d.ms.spares) then
      let held := min (Config.waited d.ms.draws) (fget d (A.STK_RMP h) F.STK_RMP_HOLD * 800)
      let d := count (d.withMs { d.ms with draws := d.ms.draws + 1 }) h 0x623 (ch / 32 % 4) held false
      let d : Dev := d.withMs { d.ms with spares := sset 0 b (sget 0 b d.ms.spares - 1) d.ms.spares }
      let d := fset d a F.STK_RMPSTS_SPARE (fget d a F.STK_RMPSTS_SPARE - 1)
      let d := repairAppend (fincSat d a F.STK_RMPSTS_DONE 1) row 1
      memRaise d 0xBB 0 h (stkDetail ch 0)
    else remapDefer d row

/-! ### The die bridge (R404 to R407) -/

/-- BRG_FATAL: the bridge stops, issue stops, and the package needs a reset. -/
def brgFatal (d : Dev) (dir lane : Nat) : Dev :=
  let d := fset (fset (fset d A.BRG_STS F.BRG_STS_EXC 0xC1) A.BRG_STS F.BRG_STS_FATAL 1) A.BRG_STS F.BRG_STS_UP 0
  memRaise d 0xC1 4 0 (memDetail 0 0 0 0 lane dir)

/-- An attempt of a flit arrives on a lane of the bridge, its CRC good or not. -/
def brgFlit (d : Dev) (dir lane : Nat) (good : Bool) : Dev :=
  if fget d A.BRG_STS F.BRG_STS_UP = 0 then d
  else
    let k := 128 * dir + lane
    let x := sget BrgLane.init k d.ms.lanes
    let put (d : Dev) (y : BrgLane) : Dev := d.withMs { d.ms with lanes := sset BrgLane.init k y d.ms.lanes }
    if good then
      let d := count (put d { x with tries := 0 }) dir 0x630 0 1 true
      if x.tries = 2 then fincSat d A.BRG_CNT F.BRG_CNT_RETRY2 1 else d
    else
      let d := fset (fset d A.BRG_STS F.BRG_STS_LANE lane) A.BRG_STS F.BRG_STS_DIR dir
      if x.tries ≥ 2 then brgFatal (put d { x with tries := 0 }) dir lane
      else
        let m := d.now / ms 1
        let n := if x.ms = m then x.retries + 1 else 1
        let d := count (fincSat (put d ⟨x.tries + 1, m, n⟩) A.BRG_CNT F.BRG_CNT_RETRY 1) dir 0x631 0 1 true
        let d := fset d A.BRG_STS F.BRG_STS_EXC 0xC0
        let d := memCorrected d (512 + k) 0xC0 0 (memDetail 0 0 0 0 lane dir)
        if fget d A.BRG_CFG F.BRG_CFG_RLIM < n then brgFatal d dir lane else d

/-! ### The meanings of the commands -/

/-- POOL_ATOMIC (R385). -/
def execPoolAtomic (t : Nat) (addr : BitVec 42) (atop : BitVec 4) (data : List Byte) (gp : Bool) (s : State) :
    Host.Outcome State Fault Refusal :=
  act (fun d =>
    let r := poolAtomic (settle (tick d t)) addr.toNat atop.toNat data gp (curStep d)
    (r.1.withMs { r.1.ms with resp := if r.2 then some [] else none })) s

/-- POL_WB (R389). -/
def execPolWb (half : Half) (s : State) : Host.Outcome State Fault Refusal := act (fun d => poolAsk d (hn half) 1) s

/-- POL_INV (R389). -/
def execPolInv (half : Half) (s : State) : Host.Outcome State Fault Refusal := act (fun d => poolAsk d (hn half) 2) s

/-- WRITE_BACK_COMPLETE (R389). -/
def execWriteBackComplete (half : Half) (s : State) : Host.Outcome State Fault Refusal :=
  act (fun d => poolBack d (hn half)) s

/-- PATROL_SCRUB (R395). -/
def execPatrolScrub (t : Nat) (half : Half) (found : List Ecc) (s : State) : Host.Outcome State Fault Refusal :=
  act (fun d => patrolScrub (tick d t) (hn half) found) s

/-- ROW_REMAP (R396). `fits` says whether the hold fits within STK_RMP.HOLD. -/
def execRowRemap (t : Nat) (half : Half) (fits : Bool) (s : State) : Host.Outcome State Fault Refusal :=
  act (fun d => rowRemap (tick d t) (hn half) fits) s

/-- BRIDGE_FLIT_RECEIVE (R406). `dir` is 0 from A to B; `good` is the outcome of the CRC check. -/
def execBridgeFlitReceive (t : Nat) (dir : BitVec 1) (lane : BitVec 7) (good : Bool) (s : State) :
    Host.Outcome State Fault Refusal :=
  act (fun d => brgFlit (tick d t) dir.toNat lane.toNat good) s

/-- CHANNEL_TRAINING_LOSS (R398). -/
def execChannelTrainingLoss (stack : BitVec 3) (ch : BitVec 5) (s : State) : Host.Outcome State Fault Refusal :=
  act (fun d => stkChfail d (32 * stack.toNat + ch.toNat)) s

end Sys2Proof.Machine
end

