-- ==== Sys2Proof/Machine/Capt.lean ====
section
/-! DEFINITION. The log of a step capture and what a replay compares with it: messages as bytes, log entries, OUT
digests (R645 to R649). -/

namespace Sys2Proof.Machine

/-! ### Messages as bytes (R455) -/

/-- The 32 header bytes of a message with these LEPOCH and TTL fields. -/
def headBytes (m : Msg) (lepoch ttl : Nat) : List Byte :=
  leBytes 8 (m.dchip % 2 ^ 14 + (m.schip % 2 ^ 14) <<< 14 + (m.mtype % 16) <<< 28 + (lepoch % 2 ^ 16) <<< 32
      + (ttl % 256) <<< 48 + (b2n m.gp) <<< 56)
    ++ leBytes 8 m.w1 ++ leBytes 8 m.w2 ++ leBytes 8 (m.data.length + m.hi <<< 32)

/-- The message that header and data bytes spell, on virtual channel `vc`. -/
def msgOf (bs : List Byte) (vc : Nat) : Msg :=
  let w0 := leAt bs 0 8
  let w3 := leAt bs 24 8
  { dchip := bits w0 13 0, schip := bits w0 27 14, mtype := bits w0 31 28, lepoch := bits w0 47 32, ttl := bits w0 55 48,
    gp := bit w0 56, w1 := leAt bs 8 8, w2 := leAt bs 16 8, hi := bits w3 63 32, vc := vc,
    data := (bs.drop 32).take (bits w3 31 0) }

/-- What the CRC of an output covers: header and data, with LEPOCH, TTL and the TIME of a slab header taken as zero
(R645). -/
def digestBytes (m : Msg) : List Byte :=
  headBytes m 0 0 ++ (if m.mtype = 0 then splice m.data 24 ((List.replicate 8 0).take (m.data.length - 24)) else m.data)

/-- KIND of a message's log entry (R645); 0 for a message that is not logged. -/
def logKind (mtype : Nat) : Nat :=
  match mtype with
  | 0 => 1 | 1 => 2 | 2 => 3 | 3 => 4 | 4 => 5 | 5 => 6 | 6 => 7 | 7 => 8
  | _ => 0

/-- KEY of a message's log entry (R645): the rill context, CID and PHASE, or the TAG. -/
def logKey (m : Msg) : Nat :=
  match m.mtype with
  | 0 | 1 | 2 => bits m.w1 11 0
  | 3 => bits m.w1 13 4 + (bits m.w1 31 24) <<< 16
  | 4 | 5 => bits m.w2 15 0
  | _ => bits m.w1 15 0

/-! ### Test records (R651, R652) -/

/-- A record of test and bring-up. -/
def tstRaise (d : Dev) (number sev detail : Nat) : Dev :=
  raise (fset d A.TST_STS F.TST_STS_EXC number) number sev 14 [0, number <<< 32, detail, sidNow d]

/-! ### Capture (R645, R646) -/

/-- The package is in replay mode: the outside is served nothing (R648). -/
def replayMode (d : Dev) : Bool := decide (fget d A.TST_RPL F.TST_RPL_MODE = 1)

/-- A replay runs: its outputs are compared (R649). -/
def replaying (d : Dev) : Bool := replayMode d && decide (fget d A.TST_RPL F.TST_RPL_STATE = 2)

/-- The capture ends: 0 COMPLETE, 1 OVERFLOW, 2 CANCELLED (R646). -/
def capEnd (d : Dev) (code : Nat) : Dev :=
  let d := fset (fset d A.TST_CAPSTS F.TST_CAPSTS_STATE 3) A.TST_CAPSTS F.TST_CAPSTS_END code
  tstRaise (fset d A.TST_CAP F.TST_CAP_ARM 0) 0x5E 0 (regGet d A.TST_CAPSTS).toNat

/-- The capture appends log entries: it has begun and its STEPB has taken effect. -/
def capturing (d : Dev) : Bool := decide (fget d A.TST_CAPSTS F.TST_CAPSTS_STATE = 2) && !d.seq.stepbHeld

/-- Data padded to a multiple of 32 bytes. -/
def pad32 (bs : List Byte) : List Byte := bs ++ List.replicate ((32 - bs.length % 32) % 32) 0

/-- One log entry appended, or the capture ended for want of room (R645, R646). -/
def capLog (d : Dev) (kind src key : Nat) (data : List Byte) : Dev :=
  if !capturing d then d
  else
    let c := d.tst.cap
    let e := [BitVec.ofNat 8 kind, BitVec.ofNat 8 src, 0, 0] ++ leBytes 4 data.length ++ leBytes 8 (sidNow d)
      ++ leBytes 8 c.num ++ leBytes 8 key ++ pad32 data
    if c.len < c.pos + e.length then capEnd d 1
    else
      let d := ctlWrite d (c.base + c.pos) e
      let d : Dev := d.withTst { d.tst with cap := { c with pos := c.pos + e.length, num := c.num + 1 } }
      fset d A.TST_CAPSTS F.TST_CAPSTS_USED ((c.pos + e.length) / 2 ^ 20)

/-- A message that arrives from another chip is logged. -/
def capMsg (d : Dev) (p : Nat) (m : Msg) : Dev :=
  if logKind m.mtype = 0 then d else capLog d (logKind m.mtype) p (logKey m) (headBytes m m.lepoch m.ttl ++ m.data)

/-! ### The log as a replay reads it (R648, R649) -/

/-- A log entry: KIND, SRC, KEY, its data, and the offset behind it. -/
structure LogEntry where
  kind : Nat
  src : Nat
  key : Nat
  data : List Byte
  next : Nat
  deriving DecidableEq, Repr

/-- Entry `num` at an offset of the buffer, if the log has one there. -/
def logAt (d : Dev) (pos num : Nat) : Option LogEntry :=
  let c := d.tst.cap
  let h := memRead d.mem (c.base + pos) 32
  let n := leAt h 4 4
  let next := pos + 32 + (n + 31) / 32 * 32
  if c.len < next ∨ leAt h 0 1 = 0 ∨ leAt h 16 8 ≠ num then none
  else some ⟨leAt h 0 1, leAt h 1 1, leAt h 24 8, memRead d.mem (c.base + pos + 32) n, next⟩

/-- The first OUT entry of this key, from entry `num` on, that has not been compared: its number and its CRC. -/
def outEntry (d : Dev) (key : Nat) : Nat → Nat → Nat → Option (Nat × Nat)
  | 0, _, _ => none
  | fuel + 1, pos, num =>
    match logAt d pos num with
    | none => none
    | some e =>
      if e.kind = 0x20 ∧ e.key = key ∧ !d.tst.cap.seen.contains num then some (num, leAt e.data 0 4)
      else outEntry d key fuel e.next (num + 1)

/-- A log entry takes at least 32 bytes, which bounds the entries of a buffer. -/
def logBound (d : Dev) : Nat := d.tst.cap.len / 32 + 1

/-- An output that differs from the log: counted, and the first one reported with its entry's number (R649). -/
def outDiffers (d : Dev) (num : Nat) : Dev :=
  let n := fget d A.TST_RPL F.TST_RPL_DIVERGE
  let d := fincSat d A.TST_RPL F.TST_RPL_DIVERGE 1
  if n = 0 then tstRaise d 0x5F 0 num else d

/-- An output of the chip for chip `dst`, of this log KIND, with the bytes its CRC covers: a capture logs its digest, a
replay compares it (R645, R649). -/
def outNote (d : Dev) (dst kind : Nat) (bs : List Byte) : Dev :=
  let key := dst + kind <<< 16
  if replaying d then
    let c := d.tst.cap
    match outEntry d key (logBound d) c.start 0 with
    | none => outDiffers d c.num
    | some (n, crc) =>
      let d : Dev := d.withTst { d.tst with cap := { c with seen := n :: c.seen } }
      if crc = crc32c bs then d else outDiffers d n
  else if capturing d then capLog d 0x20 0 key (leBytes 4 (crc32c bs))
  else d

/-- A message that the chip sends. -/
def outMsg (d : Dev) (m : Msg) : Dev :=
  if logKind m.mtype = 0 then d else outNote d m.dchip (logKind m.mtype) (digestBytes m)

end Sys2Proof.Machine
end

