-- ==== Sys2Proof/Machine/Link.lean ====
section
/-! DEFINITION. Messages between chips: routes, egress queues, what becomes of a message that cannot travel, and whom a
drop is told to (R458, R459, R480 to R483, R498, R251, R531, R432). -/

namespace Sys2Proof.Machine

/-! ### Ports -/

/-- What a port keeps beyond its registers; number 8 stands for messages the chip sends to itself. -/
def portOf (d : Dev) (p : Nat) : Port := sget Port.init p d.ports
def setPort (d : Dev) (p : Nat) (x : Port) : Dev := d.withPorts (sset Port.init p x d.ports)
def modPort (d : Dev) (p : Nat) (f : Port → Port) : Dev := setPort d p (f (portOf d p))

/-- LSTATE of a port (R467). -/
def lstate (d : Dev) (p : Nat) : Nat := fget d (A.HRM_PSTS p) F.HRM_PSTS_LSTATE

/-- The current epoch of a port. -/
def epochOf (d : Dev) (p : Nat) : Nat := fget d (A.HRM_EPOCH p) F.HRM_EPOCH_EPOCH

/-- The data path of a port is RUNNING (R486). -/
def dataRuns (d : Dev) (p : Nat) : Bool := decide (stOf d (A.HRM_PSTS p) = 1)

/-- The port's state carries a virtual channel; the data channels need the data path, and a chip that the bank change cut
out carries VC5 only (R467, R481, R534). -/
def carries (d : Dev) (p vc : Nat) : Bool :=
  if vc = 5 then decide (lstate d p ≥ 4) else decide (lstate d p = 5) && dataRuns d p && !d.mach.cutOut

/-- This chip's number. -/
def ownChip (d : Dev) : Nat := fget d A.GLB_CHIP F.GLB_CHIP_CHIP

/-- A link record (R490, R491). -/
def hrmRaise (d : Dev) (p number sev epoch cause mask vc dropped : Nat) : Dev :=
  let det := epoch % 2 ^ 16 + (cause % 16) <<< 16 + (mask % 2 ^ 16) <<< 20
    + (fget d (A.HRM_PSTS p) F.HRM_PSTS_WIDTH) <<< 36 + (fget d (A.HRM_PEERB p) F.HRM_PEERB_CHIP) <<< 38
    + (vc % 8) <<< 52 + (min dropped 255) <<< 56
  raise (fset d (A.HRM_PSTS p) F.HRM_PSTS_EXC number) number sev 9
    [0, (number % 256) <<< 32 + (p % 8) <<< 40, det, sidNow d]

/-- A link record with the current epoch and no further detail. -/
def hrmNote (d : Dev) (p number sev : Nat) : Dev := hrmRaise d p number sev (epochOf d p) 0 0 0 0

/-- A count of a port, which saturates (R493). -/
def dropCount (d : Dev) (p : Nat) (f : Fld) (k : Nat) : Dev := fincSat d (A.HRM_DROPCNT p) f k

/-! ### Routes and membership (R496 to R500) -/

/-- The active bank (R500). -/
def actBank (d : Dev) : Nat := fget d A.SID_RBANK F.SID_RBANK_ACT

/-- The chip is set in the active membership bitmap. -/
def isMember (d : Dev) (chip : Nat) : Bool :=
  (regGet d (A.SID_MEMB (256 * actBank d + chip / 64))).toNat.testBit (chip % 64)

/-- Two chips lie in one rack (R497). -/
def sameRack (a b : Nat) : Bool :=
  a % 32 / 4 == b % 32 / 4 && a / 32 % 32 / 4 == b / 32 % 32 / 4 && a / 1024 / 4 == b / 1024 / 4

/-- The egress port for a chip from the active route table, or none (R498). -/
def routeTo (d : Dev) (chip : Nat) : Option Nat :=
  let w := (regGet d (A.SID_RTAB (1024 * actBank d + chip / 16))).toNat
  let e := bits w (4 * (chip % 16) + 3) (4 * (chip % 16))
  if e > 7 then none
  else if e ≥ 6 ∧ sameRack chip (ownChip d) = false then none
  else some e

/-- TTL of a message that this chip originates (R458; 0 acts as 1). -/
def initTtl (d : Dev) : Nat := max (fget d A.SID_CFG F.SID_CFG_TTL) 1

/-! ### Who is told (R251, R432, R482, R531) -/

/-- A rill record (R259, R260): RIL_STS, RIL_CSTS of the context, payload. -/
def rilRaise (d : Dev) (number sev ctx : Nat) (op spc strand half port value : Nat) : Dev :=
  let d := fset (fset d A.RIL_STS F.RIL_STS_EXC number) A.RIL_STS F.RIL_STS_CTX ctx
  let d := fset d (A.RIL_CSTS ctx) F.RIL_CSTS_EXC number
  raise d number sev 3 (opPayload d op spc strand half number 0 0
    (ctx % 2 ^ 12 + ((2 * half + port) % 4) <<< 12 + (value % 2 ^ 32) <<< 16))

/-- A rill record of arriving traffic or of a link (R260). -/
def rilEvent (d : Dev) (number sev ctx value : Nat) : Dev := rilRaise d number sev ctx 0 0 0 0 0 value

/-- ISSUED − COMPLETED − DISCARDED of an aqueduct channel (R431). -/
def aqdOutOf (d : Dev) (h c : Nat) : Nat :=
  (fget d (A.AQD_CHCNTA h c) F.AQD_CHCNTA_ISSUED + 2 ^ 33 - fget d (A.AQD_CHCNTA h c) F.AQD_CHCNTA_COMPLETED
    - fget d (A.AQD_CHCNTB h c) F.AQD_CHCNTB_DISCARDED) % 2 ^ 32

/-- AQD_CHSTS.OUT follows the counts, and the change travels to the sequencers (R39, R440). -/
def aqdShow (d : Dev) (h c : Nat) : Dev :=
  let o := aqdOutOf d h c
  let d := fset d (A.AQD_CHSTS h c) F.AQD_CHSTS_OUT (min o 255)
  if govNow d (.aqdOut h c) = o then d else govSet d (.aqdOut h c) o

/-- `k` more of ISSUED, COMPLETED or DISCARDED of a channel. -/
def aqdIssued (d : Dev) (h c k : Nat) : Dev := aqdShow (finc d (A.AQD_CHCNTA h c) F.AQD_CHCNTA_ISSUED k) h c
def aqdCompleted (d : Dev) (h c k : Nat) : Dev := aqdShow (finc d (A.AQD_CHCNTA h c) F.AQD_CHCNTA_COMPLETED k) h c
def aqdDiscarded (d : Dev) (h c k : Nat) : Dev := aqdShow (finc d (A.AQD_CHCNTB h c) F.AQD_CHCNTB_DISCARDED k) h c

/-- The transfers a channel holds, the running one first. -/
def chanOf (d : Dev) (h c : Nat) : List Xfer := sget [] (32 * h + c) d.aqd.chans
def setChan (d : Dev) (h c : Nat) (l : List Xfer) : Dev :=
  d.withAqd { d.aqd with chans := sset [] (32 * h + c) l d.aqd.chans }

/-- An aqueduct record (R437, R438). -/
def aqdRaise (d : Dev) (number sev h c : Nat) (op spc strand detail : Nat) : Dev :=
  let d := fset (fset d (A.AQD_STS h) F.AQD_STS_EXC number) (A.AQD_STS h) F.AQD_STS_CHAN c
  let d := fset d (A.AQD_CHSTS h c) F.AQD_CHSTS_EXC number
  raise d number sev 8 (opPayload d op spc strand h number c (c / 8) detail)

/-- A transfer stops: DISCARDED advances, and it leaves the channel, or stays as a stopped one while bursts of it are
in flight (R432). -/
def xferStop (d : Dev) (h c serial : Nat) : Dev :=
  let l := chanOf d h c
  let d := if d.aqd.reqs.any (fun r => r.serial == serial) then
      setChan d h c (l.map (fun y => if y.serial = serial then { y with dead := true } else y))
    else setChan d h c (l.filter (fun y => y.serial != serial))
  aqdDiscarded d h c 1

/-- An error during a transfer: it stops and the error is raised; a step-fatal one aborts the transfer's step (R432,
R437). -/
def xferFail (d : Dev) (h c serial number sev detail : Nat) : Dev :=
  match (chanOf d h c).find? (fun x => x.serial == serial && !x.dead) with
  | none => d
  | some x =>
    let d := xferStop d h c serial
    let d := fset (fset d (A.AQD_STS h) F.AQD_STS_EXC number) (A.AQD_STS h) F.AQD_STS_CHAN c
    let d := fset d (A.AQD_CHSTS h c) F.AQD_CHSTS_EXC number
    let pay := opPayload d x.op.toNat x.spc x.strand h number c (c / 8) detail
    if sev = 2 then raiseAbort (post d number sev 8 pay) x.step else raise d number sev 8 pay

/-- The accounting channel of a launch-table entry, as (half, channel) (R524). -/
def collChan (ent : List Nat) : Nat × Nat := (bits (ent.getD 0 0) 54 54, bits (ent.getD 0 0) 53 49)

/-- The accounting channel of the permutation (R532). -/
def permChan (d : Dev) : Nat × Nat := (fget d A.COL_PRX F.COL_PRX_HALF, fget d A.COL_PRX F.COL_PRX_CHAN)

/-- A collective record (R540, R541). -/
def colRaise (d : Dev) (number sev cid detail : Nat) : Dev :=
  let d := fset (fset d A.COL_STS F.COL_STS_EXC number) A.COL_STS F.COL_STS_CID cid
  raise d number sev 10 [cid % 1024, (number % 256) <<< 32, detail, sidNow d]

/-- COL_STS.RUN follows the list of running collectives. -/
def setColls (d : Dev) (l : List Coll) : Dev :=
  fset (d.withMach { d.mach with colls := l }) A.COL_STS F.COL_STS_RUN l.length

/-- The phase from `base` on whose low 8 bits are `low`: a COLL header has 8 bits of its own for PHASE (R528). -/
def phaseNear (base low : Nat) : Nat := base + (low % 256 + 256 - base % 256) % 256

/-- A collective fails (R531): it ends, its channel's DISCARDED advances, and COL_FAIL is raised for its step. `low` is
the phase concerned, modulo 256. -/
def collFail (d : Dev) (cid low chip : Nat) : Dev :=
  match d.mach.colls.find? (fun c => c.cid == cid) with
  | none => d
  | some c =>
    let d := setColls d (d.mach.colls.filter (fun x => x.cid != cid))
    let d : Dev := d.withMach { d.mach with done := d.mach.done + 1 }
    let ch := collChan c.ent
    let d := countPkg (aqdDiscarded d ch.1 ch.2 1) 0xC08 0 1 true
    colRaise d 0xF8 2 cid (c.step % 2 ^ 32 + (phaseNear c.acked low % 2 ^ 11) <<< 32 + (chip % 2 ^ 14) <<< 43)

/-- The permutation ends with a report value (R536): its channel counts it as completed or discarded. -/
def permEnd (d : Dev) (val : Nat) : Dev :=
  if d.mach.perm.run then
    let ch := permChan d
    let d : Dev := d.withMach { d.mach with perm := { d.mach.perm with run := false, ended := some val } }
    if val = 1 then countPkg (aqdCompleted d ch.1 ch.2 1) 0xC07 0 1 true
    else countPkg (aqdDiscarded d ch.1 ch.2 1) 0xC08 0 1 true
  else d

/-- An outstanding request ends in error: its transfer fails with AQD_REMOTE (R432, R483). -/
def reqFail (d : Dev) (r : Req) : Dev :=
  let d : Dev := d.withAqd { d.aqd with reqs := d.aqd.reqs.filter (fun q => q.tag != r.tag) }
  xferFail d r.half r.chan r.serial 0xD8 2 (r.addr % 2 ^ 42 + (r.chip % 2 ^ 14) <<< 42)

/-- The outstanding request a message answers, or that it is. -/
def reqOf (d : Dev) (tag oport oepoch : Nat) : Option Req :=
  d.aqd.reqs.find? (fun r => r.tag == tag && r.oport == oport && r.oepoch == oepoch)

/-! ### Synthetic responses (R459, R482) -/

/-- The RDRSP or WRACK that answers a request with an error; `to` receives it, TAG, OPORT and OEPOCH come from word
`w` at bit 0, and this chip, port and epoch are named. -/
def synthetic (d : Dev) (write : Bool) (dst w status port epoch : Nat) : Msg :=
  { dchip := dst, schip := ownChip d, mtype := if write then 7 else 6, lepoch := 0, ttl := initTtl d, gp := false,
    w1 := bits w 18 0 + (bits w 47 32) <<< 32 + status <<< 48,
    w2 := ownChip d + port <<< 16 + (epoch % 2 ^ 16) <<< 32, hi := 0, vc := 3, data := [] }

/-- A message placed at an egress port. -/
def enqueue (d : Dev) (p : Nat) (m : Msg) (ctx : Option Nat) : Dev :=
  modPort d p (fun x => { x with queue := x.queue ++ [⟨x.nextId, m, 0, ctx⟩], nextId := x.nextId + 1 })

/-- A synthetic response set on its way; one that cannot leave at once is counted and answered by nothing. -/
def sendSynthetic (d : Dev) (m : Msg) : Dev :=
  let d := if m.dchip = ownChip d then d else outMsg d m
  if replayMode d && m.dchip != ownChip d then d
  else if m.dchip = ownChip d then modPort d 8 (fun x => { x with inbox := x.inbox ++ [m] })
  else match routeTo d m.dchip with
    | none => dropCount d 0 F.HRM_DROPCNT_DROPPED 1
    | some p => if carries d p m.vc then enqueue d p m none else dropCount d p F.HRM_DROPCNT_DROPPED 1

/-- The context whose SLAB or CRED a message is, where this chip sent it (R251, R482). -/
def droppedCtx (d : Dev) (m : Msg × Option Nat) : Option Nat :=
  if m.1.mtype ≤ 1 then
    match m.2 with
    | some c => some c
    | none => if m.1.schip = ownChip d then some (bits m.1.w1 27 16) else none
  else none

/-- The owner of a dropped message is told (R482); `epoch` is the port's epoch before the reset. -/
def tellOwner (d : Dev) (p epoch : Nat) (m : Msg) : Dev :=
  let d := dropCount d p F.HRM_DROPCNT_DROPPED 1
  match m.mtype with
  | 3 =>
    if m.schip = ownChip d then
      (if bits m.w1 3 0 = 4 then permEnd d 3 else collFail d (bits m.w1 13 4) (bits m.w1 31 24) m.dchip)
    else d
  | 4 | 5 =>
    if m.schip = ownChip d then
      match reqOf d (bits m.w2 15 0) (bits m.w2 18 16) (bits m.w2 47 32) with
      | some r => reqFail d r
      | none => d
    else sendSynthetic d (synthetic d (m.mtype == 5) m.schip m.w2 2 p epoch)
  | 6 | 7 => sendSynthetic d (synthetic d (m.mtype == 7) m.dchip m.w1 2 p epoch)
  | _ => d

/-- The drop of this message posts HRM_LINKDROP (R482). -/
def stepDrop (m : Msg) : Bool := m.mtype == 3 || ((m.vc == 0 || m.vc == 1) && m.mtype != 2)

/-- Messages dropped at a port: their owners are told, each rill context once (R251), and HRM_LINKDROP is posted where one of them calls for it. -/
def dropAll (d : Dev) (p epoch cause : Nat) (ms : List (Msg × Option Nat)) : Dev :=
  let d' := ms.foldl (fun d m => tellOwner d p epoch m.1) d
  let d' := (ms.filterMap (droppedCtx d)).eraseDups.foldl (fun d c => rilEvent d 0x6A 2 c 0) d'
  if ms.any (fun m => stepDrop m.1) then
    hrmRaise d' p 0xE0 2 epoch cause 0 (((ms.find? (fun m => stepDrop m.1)).map (·.1.vc)).getD 0) ms.length
  else d'

/-- A message leaves by a port (in replay mode only its digest is compared, R649), or is dropped at once where the port does not carry its channel (R481). -/
def sendBy (d : Dev) (p : Nat) (m : Msg) (ctx : Option Nat) : Dev :=
  let d := if m.schip = ownChip d then outMsg d m else d
  if replayMode d && m.vc != 5 then d
  else if carries d p m.vc then enqueue d p m ctx
  else dropAll d p (epochOf d p) (fget d (A.HRM_PSTS p) F.HRM_PSTS_CAUSE) [(m, ctx)]

/-- A message of this chip sent by the route table (R458, R498). Without a route it is discarded with HRM_NOROUTE, and
a request completes at once (R459). -/
def sendMsg (d : Dev) (m : Msg) : Dev :=
  if m.dchip = ownChip d then modPort d 8 (fun x => { x with inbox := x.inbox ++ [m] })
  else match routeTo d m.dchip with
    | some p => sendBy d p m none
    | none =>
      let d := hrmRaise d 0 0xE1 2 (epochOf d 0) 0 0 m.vc 0
      if m.mtype = 4 ∨ m.mtype = 5 then
        match reqOf d (bits m.w2 15 0) (bits m.w2 18 16) (bits m.w2 47 32) with
        | some r => reqFail d r
        | none => d
      else d

/-- Flits of a message: 212 data bytes in the HEAD, 244 in each BODY (R451, R454). -/
def flitsOf (m : Msg) : Nat := 1 + (m.data.length - 212 + 243) / 244

/-- Flits leave the receiver's buffer of a virtual channel and their credits are to be returned (R462). -/
def freeFlits (d : Dev) (p vc n : Nat) : Dev :=
  let r := A.HRM_VCCRED p vc
  modPort (fset d r F.HRM_VCCRED_RXOCC (fget d r F.HRM_VCCRED_RXOCC - n)) p
    (fun x => { x with owed := sset 0 vc (sget 0 vc x.owed + n) x.owed })

/-- A message that has come in is taken from the inbox that holds it, if one does; its flits leave the buffer, unless
the link has been reset since. -/
def takeInbox (d : Dev) (p : Nat) (m : Msg) : Dev :=
  let x := portOf d p
  if x.inbox.contains m then
    let d := setPort d p { x with inbox := x.inbox.erase m }
    if p < 8 ∧ m.lepoch = epochOf d p then freeFlits d p m.vc (flitsOf m) else d
  else modPort d 8 (fun y => { y with inbox := y.inbox.erase m })

/-- The message is one the chip sent to itself: it crossed no link. -/
def fromSelf (d : Dev) (p : Nat) (m : Msg) : Bool := !(portOf d p).inbox.contains m && (portOf d 8).inbox.contains m

/-- The link the message came by has been reset since (R460), or its data path does not run (R486). -/
def linkStale (d : Dev) (p : Nat) (m : Msg) : Bool := !fromSelf d p m && m.lepoch != epochOf d p
def portDead (d : Dev) (p : Nat) (m : Msg) : Bool := !fromSelf d p m && m.vc != 5 && !dataRuns d p

/-- HRM_STALE for the first stale message of a port since its reset (R460, R483). -/
def staleNote (d : Dev) (p : Nat) : Dev :=
  let d := countPkg (dropCount d p F.HRM_DROPCNT_STALE 1) 0x818 p 1 false
  if (portOf d p).staleSeen then d else hrmNote (modPort d p (fun x => { x with staleSeen := true })) p 0xED 0

end Sys2Proof.Machine
end

