-- ==== Sys2Proof/Machine/Ril.lean ====
section
/-! DEFINITION. Rills: contexts, rings, headers, the command ports and the three messages of a pair (07), with the
arming of collectives by trigger COMMITs (R524 to R526). -/

namespace Sys2Proof.Machine

/-! ### Contexts (R226 to R229, R233, R234) -/

/-- The configuration of a context in force since its last start (R265). -/
def rilKind (d : Dev) (n : Nat) : Nat := liveGet d (A.RIL_CCTL n) F.RIL_CCTL_KIND
def rilSlots (d : Dev) (n : Nat) : Nat := 2 ^ liveGet d (A.RIL_CCTL n) F.RIL_CCTL_LOGN
def rilSize (d : Dev) (n : Nat) : Nat := 2 ^ liveGet d (A.RIL_CCTL n) F.RIL_CCTL_LOGSZ
def rilBase (d : Dev) (n : Nat) : Nat := liveGet d (A.RIL_RING n) F.RIL_RING_BASE * 64

def rilProd (d : Dev) (n : Nat) : Nat := fget d (A.RIL_CNTA n) F.RIL_CNTA_PROD
def rilCons (d : Dev) (n : Nat) : Nat := fget d (A.RIL_CNTA n) F.RIL_CNTA_CONS
def rilFreed (d : Dev) (n : Nat) : Nat := fget d (A.RIL_CNTB n) F.RIL_CNTB_FREED
def rilIssued (d : Dev) (n : Nat) : Nat := fget d (A.RIL_CNTB n) F.RIL_CNTB_ISSUED
def rilDone (d : Dev) (n : Nat) : Nat := fget d (A.RIL_CNTC n) F.RIL_CNTC_DONE
def rilGrant (d : Dev) (n : Nat) : Nat := fget d (A.RIL_CNTC n) F.RIL_CNTC_GRANT
def rilRungen (d : Dev) (n : Nat) : Nat := fget d (A.RIL_CSTS n) F.RUNGEN
def rilEpoch (d : Dev) (n : Nat) : Nat := fget d (A.RIL_GEN n) F.RIL_GEN_REPOCH

/-- a − b modulo 2^32. -/
def sub32 (a b : Nat) : Nat := (a + 2 ^ 32 - b % 2 ^ 32) % 2 ^ 32

/-- A quantity as a wait reads it: below 0 reads 0, above 65,535 reads 65,535 (R234). -/
def clip16 (i : Int) : Nat := min i.toNat 65535

/-- Occupancy and credit of a context (R234). -/
def rilOcc (d : Dev) (n : Nat) : Nat :=
  match rilKind d n with
  | 2 => clip16 ((liveGet d (A.RIL_CCTL n) F.RIL_CCTL_SDEPTH : Int) + 1 - signed 32 (sub32 (rilIssued d n) (rilDone d n)))
  | _ => clip16 (signed 32 (sub32 (rilProd d n) (rilCons d n)))

def rilCred (d : Dev) (n : Nat) : Nat :=
  match rilKind d n with
  | 0 => clip16 ((rilSlots d n : Int) - signed 32 (sub32 (rilIssued d n) (rilFreed d n)))
  | 2 => clip16 (signed 32 (sub32 (rilGrant d n) (rilIssued d n)))
  | _ => 0

/-- A change of a context's counts travels to the sequencers (R39). -/
def rilShow (d : Dev) (n : Nat) : Dev :=
  let d := if govNow d (.rillOcc n) = rilOcc d n then d else govSet d (.rillOcc n) (rilOcc d n)
  if govNow d (.rillCred n) = rilCred d n then d else govSet d (.rillCred n) (rilCred d n)

/-- The bytes lie in one stack, or in one terrace's reservoir range. -/
def inOneMemory (d : Dev) (a n : Nat) : Bool :=
  (inStacks d a n && decide (a / stackStride = (a + n - 1) / stackStride))
    || (match resTerrace a with
        | some T => inRes T a n
        | none => false)

/-- The configuration written to a context is one that can start (R229). -/
def rilConfigOk (d : Dev) (n : Nat) : Bool :=
  let c := A.RIL_CCTL n
  let kind := fget d c F.RIL_CCTL_KIND
  let logn := fget d c F.RIL_CCTL_LOGN
  let logsz := fget d c F.RIL_CCTL_LOGSZ
  let base := fget d (A.RIL_RING n) F.RIL_RING_BASE * 64
  let bytes := 2 ^ logn * (2 ^ logsz + 64)
  decide (kind ≠ 3) && decide (logn ≤ 12) && decide (6 ≤ logsz) && decide (logsz ≤ 26) && decide (base % 2 ^ logsz = 0)
    && (decide (kind = 2) || inStacks d base bytes
        || (match resTerrace base with
            | some T => inRes T base bytes
            | none => false))

/-- Contexts whose state is not STOPPED. -/
def rilActive (d : Dev) : List Nat :=
  ((d.regs.filter (fun e => decide (A.RIL_CSTS 0 ≤ e.1) && decide (e.1 ≤ A.RIL_CSTS 4095)
    && decide ((e.1 - A.RIL_CSTS 0) % 0x40 = 0))).map (fun e => (e.1 - A.RIL_CSTS 0) / 0x40)).filter
      (fun n => stOf d (A.RIL_CSTS n) != 0)

/-! ### Headers (R228, R230 to R232, R237) -/

/-- Addresses of slab k's slot and header (R228). -/
def slabAt (d : Dev) (n k : Nat) : Nat := rilBase d n + k % rilSlots d n * rilSize d n
def headerAt (d : Dev) (n k : Nat) : Nat := rilBase d n + rilSlots d n * rilSize d n + 64 * (k % rilSlots d n)

/-- Words 0 and 1 of the header of slab k. -/
def headerWords (d : Dev) (n k : Nat) : Nat × Nat := (memNat d.mem (headerAt d n k) 8, memNat d.mem (headerAt d n k + 8) 8)

/-- The head header's VTAG, where the ring has a head (R237). -/
def headTag (d : Dev) (n : Nat) : Option Nat :=
  if rilKind d n ≤ 1 ∧ 0 < signed 32 (sub32 (rilProd d n) (rilCons d n)) then
    some (bits (headerWords d n (rilCons d n)).2 15 0)
  else none

/-- NEWTAG (R271). -/
def newTag (d : Dev) : Nat := (curStep d + 2 ^ 32 - fget d A.EPH_TAG F.EPH_TAG_LAG) % 2 ^ 16

/-- The header a SEND or COMMIT writes (R231), 64 bytes. `w0` and `tag` carry MBID, STEP and VTAG. -/
def makeHeader (d : Dev) (n : Nat) (first last : Bool) (w0 tag slab : Nat) : List Byte :=
  let c := A.RIL_CCTL n
  let w1 := tag % 2 ^ 16 + (liveGet d c F.RIL_CCTL_STAGE) <<< 16 + (liveGet d c F.RIL_CCTL_DIR) <<< 26
    + (b2n first) <<< 27 + (b2n last) <<< 28 + (slab % 2 ^ 16) <<< 32 + (rilEpoch d n) <<< 48
  leBytes 8 w0 ++ leBytes 8 w1 ++ leBytes 8 (ownChip d + n <<< 16) ++ leBytes 8 (sidNow d) ++ List.replicate 32 0

/-- SLABNEXT and MBNEXT after a SEND or COMMIT (R232). -/
def noteSlab (d : Dev) (n slab : Nat) (last : Bool) : Dev :=
  let d := fset d (A.RIL_GEN n) F.RIL_GEN_SLABNEXT (slab + 1)
  if last then finc d (A.RIL_GEN n) F.RIL_GEN_MBNEXT 1 else d

/-! ### Arming of collectives (R524 to R526) -/

/-- The eight words of launch-table entry k, if the table has it. -/
def cltEntry (d : Dev) (k : Nat) : Option (List Nat) :=
  if 8 * k + 7 < d.tables.clt.length then some ((d.tables.clt.drop (8 * k)).take 8) else none

/-- Fields of an entry. -/
def cltBuf (e : List Nat) : Nat := bits (e.getD 0 0) 41 0
def cltOp (e : List Nat) : Nat := bits (e.getD 0 0) 43 42
def cltFmt (e : List Nat) : Nat := bits (e.getD 0 0) 48 45
def cltNm (e : List Nat) : Nat := bits (e.getD 1 0) 51 42 + 1
def cltIdx (e : List Nat) : Nat := bits (e.getD 1 0) 61 52
def cltLen (e : List Nat) : Nat := bits (e.getD 2 0) 31 0
def cltMember (d : Dev) (e : List Nat) (i : Nat) : Nat := memNat d.mem (bits (e.getD 1 0) 41 0 + 2 * i) 2 % 2 ^ 14

/-- The entry may arm (R524, R525). -/
def cltOk (d : Dev) (e : List Nat) : Bool :=
  let w3 := e.getD 3 0
  !bit (e.getD 0 0) 63 && decide (bits (e.getD 1 0) 63 62 = 0) && decide (bits w3 15 12 = 0) && decide (bits w3 63 32 = 0)
    && (e.drop 4).all (fun w => w == 0)
    && decide (cltBuf e % 128 = 0) && inStacks d (cltBuf e) (cltLen e) && decide (cltOp e ≠ 3) && decide (cltFmt e ≤ 1)
    && decide (2 ≤ cltNm e) && decide (cltIdx e < cltNm e) && decide (cltLen e % (128 * cltNm e) = 0)
    && decide (rilKind d (bits w3 11 0) = 0) && decide (cltMember d e (cltIdx e) = ownChip d)

/-- COMMITs on a trigger context since STEPB, issued and landed. -/
def trigIssued (d : Dev) (n : Nat) : Nat := sub32 (rilIssued d n) (sget 0 n d.mach.issued0)
def trigProd (d : Dev) (n : Nat) : Nat := sub32 (rilProd d n) (sget 0 n d.mach.prod0)

/-- The rest of the launch table is discarded until the next STEPB. -/
def endList (d : Dev) : Dev := d.withMach { d.mach with ended := 1 }

/-- Entries arm in order while their triggers have been issued (R526); `fuel` bounds their number. No COMMIT brings a
count to 0, so an entry whose TCOUNT is 0 never arms (DEDUCED, log 42). -/
def colArm : Nat → Dev → Dev
  | 0, d => d
  | fuel + 1, d =>
    if d.mach.ended = 1 then d
    else match cltEntry d d.mach.armed with
    | none => d
    | some e =>
      let w3 := e.getD 3 0
      if bits w3 31 16 = 0 ∨ trigIssued d (bits w3 11 0) < bits w3 31 16 then d
      else if !running d .col then colRaise (endList d) 0xF3 3 d.mach.armed 0
      else if !cltOk d e then colRaise (endList d) 0xF0 3 d.mach.armed 0
      else
        let ch := collChan e
        colArm fuel (aqdIssued (d.withMach { d.mach with armed := d.mach.armed + 1 }) ch.1 ch.2 1)

/-! ### Command ports (R238 to R245, R257) -/

def rilQueue (d : Dev) (q : Nat) : List RilCmd := sget [] q d.ril.queues

/-- The wait of a port's head is over (R245). -/
def waitOver (d : Dev) (q : Nat) : Dev :=
  d.withRil { d.ril with waits := sset 0 q 0 d.ril.waits, said := sset 0 q 0 d.ril.said }

/-- The queue of a command port replaced; its fill travels to the sequencers (R38, R39), and a new head has not waited. -/
def setRilQueue (d : Dev) (q : Nat) (l : List RilCmd) : Dev :=
  let n := (rilQueue d q).length
  let d := if (rilQueue d q).head? = l.head? then d else waitOver d q
  let d : Dev := d.withRil { d.ril with queues := sset [] q l d.ril.queues }
  if n = l.length then d else govSet d (.qfill (q / 2) (q % 2)) l.length

/-- The context, opcode, HM, FIRST, LAST, HSRC and CNT of a command's slot word (R261, R262). -/
def rcRill (c : RilCmd) : Nat := bits c.op.toNat 43 32
def rcOp (c : RilCmd) : Nat := bits c.op.toNat 47 44
def rcDesc (c : RilCmd) : Nat := bits c.op.toNat 31 22
def rcHsrc (c : RilCmd) : Nat := bits c.op.toNat 21 10
def rcNew (c : RilCmd) : Bool := bit c.op.toNat 9
def rcFirst (c : RilCmd) : Bool := bit c.op.toNat 8
def rcLast (c : RilCmd) : Bool := bit c.op.toNat 7
def rcCount (c : RilCmd) : Nat := bits c.op.toNat 31 24 + 1

/-- A rill exception of a command at a port. -/
def rilFail (d : Dev) (q : Nat) (c : RilCmd) (number sev value : Nat) : Dev :=
  rilRaise d number sev (rcRill c) c.op.toNat c.spc c.strand (q / 2) (q % 2) value

/-- What becomes of a command at the head of its queue. -/
inductive RilStep where
  | waits
  | done (d : Dev)

/-- MBID and STEP, and VTAG, of the header a command writes; none where the copied slab has been freed (R231, R244). -/
def rcSource (d : Dev) (n : Nat) (c : RilCmd) : Option (Nat × Nat) :=
  if rcNew c then some (fget d (A.RIL_GEN n) F.RIL_GEN_MBNEXT + (c.step % 2 ^ 32) <<< 32, c.tag)
  else if 0 < signed 32 (sub32 (rilFreed d (rcHsrc c)) c.h) then none
  else
    let w := headerWords d (rcHsrc c) c.h
    some (bits w.1 23 0 + (bits w.1 63 32) <<< 32, bits w.2 15 0)

/-- SLAB of the header a command writes (R231). -/
def rcSlab (d : Dev) (n : Nat) (c : RilCmd) : Nat :=
  if rcFirst c then 0 else fget d (A.RIL_GEN n) F.RIL_GEN_SLABNEXT

/-- The first failing test of a SEND's table entry, else its source address (R241). -/
def sendSource (d : Dev) (h n : Nat) (c : RilCmd) : Except Nat Nat :=
  match entry32 (halfTables d h).rat (rcDesc c) with
  | none => .error 0x61
  | some w =>
    let w0 := w.getD 0 0
    let w3 := w.getD 3 0
    let e := tileFields w
    if bits w0 63 47 ≠ 0 ∨ bits (w.getD 1 0) 63 42 ≠ 0 ∨ bits w3 15 12 ≠ 0 ∨ bit w3 23 = true ∨ bits w3 63 31 ≠ 0
        ∨ e.sel.all selDefined = false then .error 0x60
    else if e.base % 64 ≠ 0 then .error 0x61
    else
      let a := (e.base : Int) + c.m * (rilSize d n : Int)
      match addrOf a with
      | none => .error 0x61
      | some a => if inOneMemory d a (rilSize d n) then .ok a else .error 0x61

/-- The SLAB, CRED or OPEN a context sends to its peer (R246, R456). -/
def rilMsg (d : Dev) (n mtype epoch w2 : Nat) (data : List Byte) : Msg :=
  { dchip := liveGet d (A.RIL_PEER n) F.RIL_PEER_CHIP, schip := ownChip d, mtype := mtype, lepoch := 0, ttl := initTtl d,
    gp := false, w1 := liveGet d (A.RIL_PEER n) F.RIL_PEER_RILL + n <<< 16 + (epoch % 2 ^ 16) <<< 32, w2 := w2, hi := 0,
    vc := 0, data := data }

/-- A rill message leaves by the port RIL_PEER names (R240). -/
def rilSend (d : Dev) (n : Nat) (m : Msg) : Dev :=
  sendBy d (liveGet d (A.RIL_PEER n) F.RIL_PEER_PORT) m (some n)

/-- SEND (R240). -/
def execSendCmd (d : Dev) (q n : Nat) (c : RilCmd) : RilStep :=
  match sendSource d (q / 2) n c with
  | .error f => .done (rilFail d q c f 3 0)
  | .ok a =>
    let s := sget 0 n d.ril.started
    if signed 32 (sub32 (rilGrant d n) s) < 1 ∨ 8 ≤ (d.ril.sends.filter (fun e => e.2 == q)).length then .waits
    else match rcSource d n c with
    | none => .done (rilFail d q c 0x65 3 0)
    | some (w0, tag) =>
      let slab := rcSlab d n c
      let (d, src) := qGet d a (rilSize d n)
      let bytes := makeHeader d n (rcFirst c) (rcLast c) w0 tag slab ++ src
      let d : Dev := d.withRil { d.ril with started := sset 0 n ((s + 1) % 2 ^ 32) d.ril.started,
                                                  sends := d.ril.sends ++ [(n, q)] }
      .done (rilSend (noteSlab d n slab (rcLast c)) n (rilMsg d n 0 (rilEpoch d n) 0 bytes))

/-- The half that holds a context's ring. -/
def ringHalf (d : Dev) (n : Nat) : Nat :=
  match resTerrace (rilBase d n) with
  | some T => T / 8
  | none => homeHalf (rilBase d n)

/-- COMMITs of a context on their way across the bridge. -/
def rilFlight (d : Dev) (n : Nat) : Nat := (d.ril.cross.filter (fun e => e.ctx == n)).length

/-- A COMMIT reaches its ring: the header is written, and PROD and DONE advance (R242). -/
def landCommit (d : Dev) (e : RilCross) : Dev :=
  let x := qPut (d.withNow e.due) (headerAt d e.ctx (rilDone d e.ctx)) e.header
  (rilShow (finc (finc x (A.RIL_CNTA e.ctx) F.RIL_CNTA_PROD 1) (A.RIL_CNTC e.ctx) F.RIL_CNTC_DONE 1) e.ctx).withNow d.now

/-- Every COMMIT that has crossed the bridge by now reaches its ring, 24 sc after it executed (R13, R227). -/
def landCommits (d : Dev) : Dev :=
  (d.ril.cross.filter (fun e => decide (e.due ≤ d.now))).foldl landCommit
    (d.withRil { d.ril with cross := d.ril.cross.filter (fun e => decide (d.now < e.due)) })

/-- COMMIT (R242). Where the ring lies in the other half, it reaches the ring 24 sc later (R13, R227). -/
def execCommitCmd (d : Dev) (q n : Nat) (c : RilCmd) : RilStep :=
  let k := (rilDone d n + rilFlight d n) % 2 ^ 32
  if (rilSlots d n : Int) ≤ signed 32 (sub32 k (rilFreed d n)) then .waits
  else match rcSource d n c with
  | none => .done (rilFail d q c 0x65 3 0)
  | some (w0, tag) =>
    let slab := rcSlab d n c
    let hdr := makeHeader d n (rcFirst c) (rcLast c) w0 tag slab
    if ringHalf d n ≠ q / 2 then
      .done (noteSlab (d.withRil { d.ril with cross := d.ril.cross ++ [⟨d.now + sc 24, n, hdr⟩] }) n slab (rcLast c))
    else
    let d := qPut d (headerAt d n k) hdr
    let d := finc (finc d (A.RIL_CNTA n) F.RIL_CNTA_PROD 1) (A.RIL_CNTC n) F.RIL_CNTC_DONE 1
    .done (rilShow (noteSlab d n slab (rcLast c)) n)

/-- RELEASE (R243). -/
def execReleaseCmd (d : Dev) (q n : Nat) (c : RilCmd) : RilStep :=
  let held := sub32 (rilProd d n) (rilFreed d n)
  if signed 32 held < rcCount c then .done (rilFail d q c 0x64 3 held)
  else
    let d := rilShow (finc d (A.RIL_CNTB n) F.RIL_CNTB_FREED (rcCount c)) n
    if rilKind d n = 1 then
      let d : Dev := d.withRil { d.ril with credSent := sset 0 n 1 d.ril.credSent }
      .done (rilSend d n (rilMsg d n 1 (rilRungen d n) (rcCount c) []))
    else .done d

/-- The port test of R238: the first op of each sort fixes the port. -/
def rilPortOk (d : Dev) (q n : Nat) (rel : Bool) : Bool :=
  let p := sget 0 n (if rel then d.ril.relPort else d.ril.sendPort)
  p == 0 || p == q + 1

def rilFixPort (d : Dev) (q n : Nat) (rel : Bool) : Dev :=
  if rel then (d.withRil { d.ril with relPort := sset 0 n (q + 1) d.ril.relPort })
  else (d.withRil { d.ril with sendPort := sset 0 n (q + 1) d.ril.sendPort })

/-- A command that has reached the head of its queue (R238, R257). -/
def rilHead (d : Dev) (q : Nat) (c : RilCmd) : RilStep :=
  let n := rcRill c
  let rel := rcOp c == 3
  let kind := rilKind d n
  if !c.running then .done (rilFail d q c 0x62 3 0)
  else if !running d (.ril n) || rilRungen d n != c.rungen then .done d
  else if !(match rcOp c with | 1 => kind == 2 | 2 => kind == 0 | _ => decide (kind ≤ 1)) then
    .done (rilFail d q c 0x61 3 0)
  else if !rilPortOk d q n rel then .done (rilFail d q c 0x63 3 0)
  else
    let d := rilFixPort d q n rel
    match rcOp c with
    | 1 => execSendCmd d q n c
    | 2 => execCommitCmd d q n c
    | _ => execReleaseCmd d q n c

/-- A command port works off its queue until its head waits (R239). -/
def rilPump (q : Nat) : Nat → Dev → Dev
  | 0, d => d
  | fuel + 1, d =>
    match rilQueue d q with
    | [] => d
    | c :: r =>
      match rilHead d q c with
      | .waits =>
        if sget 0 q d.ril.waits = 0 then (d.withRil { d.ril with waits := sset 0 q (d.now + 1) d.ril.waits }) else d
      | .done d =>
        let d := waitOver d q
        rilPump q fuel (setRilQueue d q r)

/-- Every command port, again and again until none can go on. -/
def rilPumpAll : Nat → Dev → Dev
  | 0, d => d
  | fuel + 1, d => rilPumpAll fuel ([0, 1, 2, 3].foldl (fun d q => rilPump q (rilQueue d q).length d) d)

/-- The engines go on after a change. -/
def rilRun (d : Dev) : Dev :=
  rilPumpAll (([0, 1, 2, 3].map (fun q => (rilQueue d q).length)).foldl (· + ·) 1) d

/-! ### Issue (R231, R233, R244, R257, R261) -/

/-- The stride sum of a SEND's table entry at its issue (R241). -/
def rilStride (d : Dev) (h : Nat) (s : StrandId) (desc : Nat) : Int :=
  match entry32 (halfTables d h).rat desc with
  | some w => tileM d s (tileFields w) 0
  | none => 0

/-- HSRC can be copied from (R244). -/
def hsrcOk (d : Dev) (n : Nat) : Bool :=
  decide (rilKind d n ≤ 1) && running d (.ril n) && decide (0 < signed 32 (sub32 (rilProd d n) (rilCons d n)))

/-- A RIL op issues: counts that change at issue, arming, and its place in the queue. -/
def rilIssue (d : Dev) (iss : Issue) (port : Nat) (op : RilOp) : Dev :=
  let d := landCommits (settle (tick d iss.t))
  let h := hn iss.half
  let q := 2 * h + port % 2
  let spc := (strandOf d iss.strand).lastSpc
  let word := encodeRil op
  let c0 : RilCmd := ⟨word, spc, strandCode iss.strand, false, 0, 0, 0, 0, 0⟩
  let n := rcRill c0
  let copies := rcOp c0 ≠ 3 && !rcNew c0
  let enc := rcOp c0 ≠ 3 && rcNew c0 && decide (rcHsrc c0 ≠ 0)
  if enc then rilFail d q c0 0x60 3 0
  else if copies && !hsrcOk d (rcHsrc c0) then rilFail d q c0 0x65 3 0
  else
    let runs := running d (.ril n)
    let c : RilCmd := { c0 with running := runs, rungen := rilRungen d n,
                                m := if rcOp c0 = 1 then rilStride d h iss.strand (rcDesc c0) else 0,
                                h := if copies then rilCons d (rcHsrc c0) else 0, tag := newTag d, step := curStep d }
    let kind := rilKind d n
    let d := if !runs then d
      else if rcOp c0 = 3 then (if kind ≤ 1 then rilShow (finc d (A.RIL_CNTA n) F.RIL_CNTA_CONS (rcCount c0)) n else d)
      else if (rcOp c0 = 1 ∧ kind = 2) ∨ (rcOp c0 = 2 ∧ kind = 0) then
        rilShow (finc d (A.RIL_CNTB n) F.RIL_CNTB_ISSUED 1) n
      else d
    let d := if rcOp c0 = 2 then colArm d.tables.clt.length d else d
    rilRun (setRilQueue d q (rilQueue d q ++ [c]))

/-- A slot word that names no op is an illegal encoding (R261); its bits 43:32 name the context, as in every op of the
slot (DEDUCED, log 42). -/
def rilIllegal (d : Dev) (iss : Issue) (port word : Nat) : Dev :=
  let d := tick d iss.t
  rilRaise d 0x60 3 (bits word 43 32) word (strandOf d iss.strand).lastSpc (strandCode iss.strand) (hn iss.half) (port % 2) 0

/-- A SEND of a context has read its whole source: none of its flits remains to be formed (R233, R240). -/
def sendDone (d : Dev) (n : Nat) : Dev :=
  let left := ((List.range 9).map (fun p => ((portOf d p).queue.filter (fun o => o.ctx == some n && o.msg.mtype == 0)).length)).foldl (· + ·) 0
  let mine := (d.ril.sends.filter (fun e => e.1 == n)).length
  if mine ≤ left then d
  else match d.ril.sends.find? (fun e => e.1 == n) with
  | none => d
  | some e =>
    let d : Dev := d.withRil { d.ril with sends := d.ril.sends.erase e }
    rilRun (rilShow (finc d (A.RIL_CNTC n) F.RIL_CNTC_DONE 1) n)

/-- The head of a command port has waited longer than RIL_TMO.STALL µs (R245). -/
def rilStall (d : Dev) (q : Nat) : Dev :=
  match rilQueue d q, sget 0 q d.ril.waits with
  | c :: _, w + 1 =>
    if sget 0 q d.ril.said = 1 ∨ d.now ≤ w + us (fget d A.RIL_TMO F.RIL_TMO_STALL) then d
    else
      let d : Dev := d.withRil { d.ril with said := sset 0 q 1 d.ril.said }
      rilFail d q c 0x6B 2 0
  | _, _ => d

/-! ### Messages in (R247 to R250) -/

/-- A stale SLAB or CRED: counted, and the first since the start is reported (R250). -/
def rilStale (d : Dev) (n epoch : Nat) : Dev :=
  let first := fget d (A.RIL_CSTS n) F.RIL_CSTS_STALE = 0
  let d := fincSat d (A.RIL_CSTS n) F.RIL_CSTS_STALE 1
  if first then rilEvent d 0x6D 0 n epoch else d

/-- SLAB (R249). -/
def slabArrive (d : Dev) (p : Nat) (m : Msg) : Dev :=
  let own := fromSelf d p m
  let dead := portDead d p m || (!own && replayMode d)
  let old := linkStale d p m
  let d := takeInbox d p m
  let d := if own || dead || old then d else capMsg d p m
  let n := bits m.w1 11 0
  let epoch := bits m.w1 47 32
  let src := leAt m.data 16 8
  if dead then dropCount d p F.HRM_DROPCNT_DROPPED 1
  else if old = true ∨ running d (.ril n) = false ∨ rilKind d n ≠ 1 ∨ epoch ≠ rilRungen d n then
    rilStale d n epoch
  else if bits src 13 0 ≠ liveGet d (A.RIL_PEER n) F.RIL_PEER_CHIP ∨ bits src 27 16 ≠ liveGet d (A.RIL_PEER n) F.RIL_PEER_RILL then
    rilEvent d 0x69 2 n (bits src 13 0)
  else if sub32 (rilProd d n) (rilFreed d n) = rilSlots d n then
    rilEvent d 0x68 2 n (sub32 (rilProd d n) (rilFreed d n))
  else
    let k := rilProd d n
    let d := qPut (qPut d (slabAt d n k) ((m.data.drop 64).take (rilSize d n))) (headerAt d n k) (m.data.take 64)
    rilRun (rilShow (finc d (A.RIL_CNTA n) F.RIL_CNTA_PROD 1) n)

/-- CRED (R243, R249). -/
def credArrive (d : Dev) (p : Nat) (m : Msg) : Dev :=
  let own := fromSelf d p m
  let dead := portDead d p m || (!own && replayMode d)
  let old := linkStale d p m
  let d := takeInbox d p m
  let d := if own || dead || old then d else capMsg d p m
  let n := bits m.w1 11 0
  let epoch := bits m.w1 47 32
  if dead then dropCount d p F.HRM_DROPCNT_DROPPED 1
  else if old = true ∨ running d (.ril n) = false ∨ rilKind d n ≠ 2 ∨ epoch ≠ rilEpoch d n
      ∨ fget d (A.RIL_CSTS n) F.RIL_CSTS_BOUND = 0 then rilStale d n epoch
  else rilRun (rilShow (finc d (A.RIL_CNTC n) F.RIL_CNTC_GRANT (bits m.w2 8 0)) n)

/-- An OPEN is adopted, or RIL_BIND is raised where its geometry differs (R247, R248). -/
def rilAdopt (d : Dev) (n rungen geom : Nat) : Dev :=
  let c := A.RIL_CCTL n
  if geom % 256 ≠ liveGet d c F.RIL_CCTL_LOGN ∨ geom / 256 ≠ liveGet d c F.RIL_CCTL_LOGSZ then rilEvent d 0x66 3 n 0
  else
    let d := fset (fset d (A.RIL_GEN n) F.RIL_GEN_REPOCH rungen) (A.RIL_CNTC n) F.RIL_CNTC_GRANT (rilSlots d n)
    rilRun (rilShow (fset d (A.RIL_CSTS n) F.RIL_CSTS_BOUND 1) n)

/-- An OPEN held for the next start (R247). -/
def rilHold (d : Dev) (n rungen geom : Nat) : Dev :=
  fset (d.withRil { d.ril with opens := sput n (rungen, geom) d.ril.opens }) (A.RIL_CSTS n) F.RIL_CSTS_OPENPEND 1

/-- OPEN (R247). A context that is neither running nor configured as TX takes no notice of it. -/
def openArrive (d : Dev) (p : Nat) (m : Msg) : Dev :=
  let own := fromSelf d p m
  let dead := portDead d p m || (!own && replayMode d)
  let d := takeInbox d p m
  let d := if own || dead then d else capMsg d p m
  let n := bits m.w1 11 0
  let rungen := bits m.w1 47 32
  let geom := bits m.w2 3 0 + 256 * bits m.w2 12 8
  if dead then dropCount d p F.HRM_DROPCNT_DROPPED 1
  else if running d (.ril n) then
    if rilKind d n ≠ 2 then d
    else if fget d (A.RIL_CSTS n) F.RIL_CSTS_BOUND = 1 then rilHold d n rungen geom
    else if rungen = rilEpoch d n then d
    else rilAdopt d n rungen geom
  else if fget d (A.RIL_CCTL n) F.RIL_CCTL_KIND = 2 then rilHold d n rungen geom
  else d

/-! ### Start, drain, unwind (R229, R247, R254 to R256) -/

/-- The OPEN an RX context sends (R247). -/
def rilOpen (d : Dev) (n : Nat) : Dev :=
  rilSend d n (rilMsg d n 2 (rilRungen d n)
    (liveGet d (A.RIL_CCTL n) F.RIL_CCTL_LOGN + (liveGet d (A.RIL_CCTL n) F.RIL_CCTL_LOGSZ) <<< 8) [])

/-- What a start of a context does beyond the common part: the configuration comes into force, counts and STALE are
zeroed, BOUND is cleared, REPOCH follows RUNGEN on a ring, an RX context sends its OPEN and a TX context adopts the one
it holds (R233, R247, R250, R255, R265). -/
def rilStart (d : Dev) (n : Nat) : Dev :=
  let d := latch d [A.RIL_CCTL n, A.RIL_RING n, A.RIL_PEER n]
  let d := regSet (regSet (regSet d (A.RIL_CNTA n) 0) (A.RIL_CNTB n) 0) (A.RIL_CNTC n) 0
  let d := fset (fset d (A.RIL_GEN n) F.RIL_GEN_SLABNEXT 0) (A.RIL_CSTS n) F.RIL_CSTS_STALE 0
  let d := fset d (A.RIL_CSTS n) F.RIL_CSTS_BOUND 0
  let r := d.ril
  let d : Dev := d.withRil { r with started := sset 0 n 0 r.started, sendPort := sset 0 n 0 r.sendPort,
                                          relPort := sset 0 n 0 r.relPort, credSent := sset 0 n 0 r.credSent,
                                          sends := r.sends.filter (fun e => e.1 != n) }
  let d := if rilKind d n = 2 then d else fset d (A.RIL_GEN n) F.RIL_GEN_REPOCH (rilRungen d n)
  let d := rilShow d n
  match rilKind d n with
  | 1 => rilOpen d n
  | 2 =>
    match sfind n d.ril.opens with
    | none => d
    | some o =>
      let d := fset (d.withRil { d.ril with opens := sdel n d.ril.opens }) (A.RIL_CSTS n) F.RIL_CSTS_OPENPEND 0
      if o.1 = rilEpoch d n then d else rilAdopt d n o.1 o.2
  | _ => d

/-- OPENs sent again after a reset of a port's link (R247). -/
def rilReopen (d : Dev) (p : Nat) : Dev :=
  (rilActive d).foldl (fun d n =>
    if running d (.ril n) && rilKind d n == 1 && liveGet d (A.RIL_PEER n) F.RIL_PEER_PORT == p && rilProd d n == 0
        && sget 0 n d.ril.credSent == 0 then rilOpen d n else d) d

/-- A drain of a context begins: its queued commands are discarded (R254). -/
def rilDrain (d : Dev) (n : Nat) : Dev :=
  rilRun ([0, 1, 2, 3].foldl (fun d q => setRilQueue d q ((rilQueue d q).filter (fun c => rcRill c != n))) d)

/-- The drain of a context is complete: no COMMIT is in progress, and on TX no flit remains to hand over (R254). -/
def rilDrained (d : Dev) (n : Nat) : Bool :=
  decide (rilFlight d n = 0) && (decide (rilKind d n ≠ 2) ||
    (List.range 9).all (fun p => (portOf d p).queue.all (fun o => o.ctx != some n || o.msg.mtype != 0)))

/-- What remains of a context's drain is discarded after its bound (R27, R254). -/
def rilDiscard (d : Dev) (n : Nat) : Dev :=
  let d := (List.range 9).foldl (fun d p =>
    modPort d p (fun x => { x with queue := x.queue.filter (fun o => o.ctx != some n || o.msg.mtype != 0) })) d
  let d := d.withRil { d.ril with cross := d.ril.cross.filter (fun e => e.ctx != n) }
  rilEvent d 0x6C 0 n 0

/-- STEPB saves every context's MBNEXT (R232). -/
def rilStep (d : Dev) : Dev :=
  let gens := d.regs.filter (fun e => decide (A.RIL_GEN 0 ≤ e.1) && decide (e.1 ≤ A.RIL_GEN 4095)
    && decide ((e.1 - A.RIL_GEN 0) % 0x40 = 0))
  (d.withRil { d.ril with savedMb := gens.map (fun e => ((e.1 - A.RIL_GEN 0) / 0x40, F.RIL_GEN_MBNEXT.of e.2)) })

/-- Step 3 of an unwind: every RUNNING context drains, to restart on its own, and MBNEXT takes its saved value (R256). -/
def rilUnwind (d : Dev) : Dev :=
  (rilActive d).foldl (fun d n =>
    if running d (.ril n) then
      let d := fset d (A.RIL_GEN n) F.RIL_GEN_MBNEXT (sget 0 n d.ril.savedMb)
      let d := drainBegins d (A.RIL_CSTS n)
      rilDrain (fset (d.withRil { d.ril with unwinding := d.ril.unwinding ++ [n] }) (A.RIL_CSTS n) F.PEND 1) n
    else d) d

/-! ### The meanings of the commands -/

/-- SEND (R240). -/
def execSend (iss : Issue) (port : BitVec 1) (rill : BitVec 12) (desc : BitVec 10) (hsrc : BitVec 12) (hm : BitVec 1) (first : BitVec 1) (last : BitVec 1) (s : State) :
    Host.Outcome State Fault Refusal :=
  act (fun d => rilIssue d iss port.toNat (.send rill desc hsrc hm first last)) s

/-- COMMIT (R242). -/
def execCommit (iss : Issue) (port : BitVec 1) (rill : BitVec 12) (hsrc : BitVec 12) (hm : BitVec 1) (first : BitVec 1) (last : BitVec 1) (s : State) :
    Host.Outcome State Fault Refusal :=
  act (fun d => rilIssue d iss port.toNat (.commit rill hsrc hm first last)) s

/-- RELEASE (R243). -/
def execRelease (iss : Issue) (port : BitVec 1) (rill : BitVec 12) (cnt : BitVec 8) (s : State) :
    Host.Outcome State Fault Refusal :=
  act (fun d => rilIssue d iss port.toNat (.release rill cnt)) s

end Sys2Proof.Machine
end

