-- ==== Sys2Proof/Machine/Eph.lean ====
section
/-! DEFINITION. The ephemeris: version slots, tags and the floor, resolution, build slots, the verdict gate and
retirement (08). Slot j of entry e is number 8 · e + j. -/

namespace Sys2Proof.Machine

/-! ### Tags, modes and slots (R266 to R270) -/

/-- Tag a is older than tag b (R268). -/
def tagOlder (a b : Nat) : Bool :=
  decide (1 ≤ (b + 65536 - a % 65536) % 65536) && decide ((b + 65536 - a % 65536) % 65536 ≤ 32767)

/-- The slot cap C and the staleness limit SMAX of a mode (R269); mode 0b11 is reserved and never starts (R289). -/
def modeCap (mode : Nat) : Nat := match mode with | 0 => 2 | 1 => 3 | _ => 8
def modeSmax (mode : Nat) : Nat := match mode with | 0 => 0 | 1 => 1 | _ => 7

/-- The mode in force (R292). -/
def ephMode (d : Dev) : Nat := liveGet d A.EPH_CFG F.EPH_CFG_MODE
def ephSmax (d : Dev) : Nat := modeSmax (ephMode d)

/-- Fields of slot k. -/
def slotState (d : Dev) (k : Nat) : Nat := fget d (A.EPH_SLOT k) F.EPH_SLOT_STATE
def slotTag (d : Dev) (k : Nat) : Nat := fget d (A.EPH_SLOT k) F.EPH_SLOT_TAG
def slotRc (d : Dev) (k : Nat) : Nat := fget d (A.EPH_SLOT k) F.EPH_SLOT_RC
def setSlotState (d : Dev) (k v : Nat) : Dev := fset d (A.EPH_SLOT k) F.EPH_SLOT_STATE v

/-- The slots of an entry. -/
def entrySlots (e : Nat) : List Nat := range' (8 * e) 8

/-- The slots whose register does not hold its reset value, in rising order. -/
def ephSlots (d : Dev) : List Nat :=
  (d.regs.filter (fun r => decide (A.EPH_SLOT 0 ≤ r.1) && decide (r.1 ≤ A.EPH_SLOT 16383))).map
    (fun r => (r.1 - A.EPH_SLOT 0) / 8)

/-- Data base of slot k (R266). -/
def slotBase (d : Dev) (k : Nat) : Nat :=
  fget d (A.EPH_ENT (k / 8)) F.EPH_ENT_BASE * 4096 + (k % 8) * 2 ^ fget d (A.EPH_ENT (k / 8)) F.EPH_ENT_LOGSS

/-- A slot is condemned (R281). -/
def condemned (d : Dev) (k : Nat) : Bool := decide (sget 0 k d.eph.condemned = 1)
def setCondemned (d : Dev) (k v : Nat) : Dev :=
  d.withEph { d.eph with condemned := sset 0 k v d.eph.condemned }

/-! ### Records (R287, R288) -/

/-- What an ephemeris record names. -/
structure EphFail where
  number : Nat
  entry : Nat
  slot : Nat
  tag : Nat
  rc : Nat
  ctx : Nat
  deriving DecidableEq, Repr

/-- The severity of an ephemeris exception (R287). -/
def ephSev (number : Nat) : Nat := if number < 0x78 then 3 else if number = 0x7B then 0 else 2

/-- An ephemeris exception: EPH_STS, the record, the consequence. -/
def ephRaise (d : Dev) (f : EphFail) (op spc strand half : Nat) : Dev :=
  let d := fset (fset d A.EPH_STS F.EPH_STS_EXC f.number) A.EPH_STS F.EPH_STS_ENTRY f.entry
  let d := fset d A.EPH_STS F.EPH_STS_SLOT f.slot
  raise d f.number (ephSev f.number) 4 (opPayload d op spc strand half f.number 0 0
    (f.entry % 2 ^ 11 + (f.slot % 8) <<< 11 + (f.tag % 2 ^ 16) <<< 16 + (f.rc % 2 ^ 16) <<< 32
      + (f.ctx % 2 ^ 12) <<< 48))

/-! ### Retirement (R278) -/

/-- A LIVE slot that meets the three conditions of R278. -/
def retires (d : Dev) (k : Nat) : Bool :=
  decide (slotState d k = 4) && decide (slotRc d k = 0)
    && tagOlder (slotTag d k) (fget d A.EPH_TAG F.EPH_TAG_FTAG)
    && (entrySlots (k / 8)).any (fun j => decide (slotState d j = 4) && tagOlder (slotTag d k) (slotTag d j))

/-- Retirement at the end of a cycle. -/
def ephRetire (d : Dev) : Dev := ((ephSlots d).filter (retires d)).foldl (fun d k => setSlotState d k 0) d

/-! ### The floor and LAG (R271, R272) -/

/-- FTAG moves to a newer tag. -/
def raiseFloor (d : Dev) (tag : Nat) : Dev :=
  if tagOlder (fget d A.EPH_TAG F.EPH_TAG_FTAG) (tag % 65536) then fset d A.EPH_TAG F.EPH_TAG_FTAG tag else d

/-- STEPB: LAG and the automatic floor (R271, R272); retirement follows in the same cycle. -/
def ephStep (d : Dev) : Dev :=
  let d := fset d A.EPH_TAG F.EPH_TAG_LAG (liveGet d A.EPH_CFG F.EPH_CFG_DLAG)
  let d : Dev := d.withEph { d.eph with lagAtStep := fget d A.EPH_TAG F.EPH_TAG_LAG }
  ephRetire (raiseFloor d (curStep d + 65536 - ephSmax d))

/-- FLOOR with ARG = K (R272). -/
def ephFloor (d : Dev) (k : Nat) : Dev :=
  let t := (curStep d + 1 + 65536 - k) % 65536
  let d := if fget d A.EPH_TAG F.EPH_TAG_PFV = 0 || tagOlder (fget d A.EPH_TAG F.EPH_TAG_PFTAG) t then
      fset d A.EPH_TAG F.EPH_TAG_PFTAG t else d
  fset d A.EPH_TAG F.EPH_TAG_PFV 1

/-! ### Resolution (R273 to R276) -/

/-- What resolution found: entry, tag, slot. -/
structure Resolved where
  e : Nat
  tag : Nat
  k : Nat
  deriving DecidableEq, Repr

/-- Word `desc` of a half's resolution table, if it has it (R273, R286). -/
def ertEntry (d : Dev) (h desc : Nat) : Option Nat := (halfTables d h).ert[desc]?

/-- The encoding tests of a resolution-table entry (R273, R274). -/
def ertBad (w : Nat) : Bool :=
  bit w 11 || decide (bits w 63 57 ≠ 0) || !selDefined (bits w 27 24) || !selDefined (bits w 43 40)

/-- Entry number that an ERT entry computes (R274). -/
def ertNumber (d : Dev) (s : StrandId) (w : Nat) : Int :=
  (bits w 10 0 : Int) + signed 12 (bits w 23 12) * (idxSel d s (bits w 27 24) : Int)
    + signed 12 (bits w 39 28) * (idxSel d s (bits w 43 40) : Int)

/-- resolve(op) of R274 up to the slot. -/
def ephResolve (d : Dev) (h : Nat) (s : StrandId) (desc : Nat) : Except EphFail Resolved :=
  match ertEntry d h desc with
  | none => .error ⟨0x71, 0, 0, 0, 0, 0⟩
  | some w =>
    let rill := bits w 55 44
    if ertBad w then .error ⟨0x70, 0, 0, 0, 0, 0⟩
    else
      let i := ertNumber d s w
      if i < 0 ∨ i > 2047 ∨ fget d (A.EPH_ENT i.toNat) F.EPH_ENT_VALID = 0 then
        .error ⟨0x71, unsigned 11 i, 0, 0, 0, rill⟩
      else
        let e := i.toNat
        let tag? : Option Nat := if bit w 56 then some (newTag d) else headTag d rill
        match tag? with
        | none => .error ⟨0x73, e, 0, 0, 0, rill⟩
        | some tag =>
          if tagOlder tag (fget d A.EPH_TAG F.EPH_TAG_FTAG) then .error ⟨0x7A, e, 0, tag, 0, rill⟩
          else match (entrySlots e).find? (fun k => decide (slotState d k = 4) && decide (slotTag d k = tag)) with
          | some k => .ok ⟨e, tag, k⟩
          | none =>
            match (entrySlots e).find? (fun k =>
              decide (1 ≤ slotState d k) && decide (slotState d k ≤ 3) && decide (slotTag d k = tag)) with
            | some k => .error ⟨0x79, e, k % 8, tag, slotRc d k, rill⟩
            | none => .error ⟨0x78, e, 0, tag, 0, rill⟩

/-- The rill context an ERT entry names. -/
def ertRill (d : Dev) (h desc : Nat) : Nat := bits ((ertEntry d h desc).getD 0) 55 44

/-- RES, HOLD (`up` = 1) and DROP (`up` = 2) after resolution: the counts (R274). -/
def ephCount (d : Dev) (up : Nat) (r : Resolved) (rill : Nat) : Except EphFail Dev :=
  let rc := slotRc d r.k
  match up with
  | 0 => .ok d
  | 1 =>
    if rc = 65535 then .error ⟨0x74, r.e, r.k % 8, r.tag, rc, rill⟩
    else .ok (finc (fset d (A.EPH_SLOT r.k) F.EPH_SLOT_RC (rc + 1)) A.EPH_HOLDS F.EPH_HOLDS_COUNT 1)
  | _ =>
    if rc = 0 then .error ⟨0x74, r.e, r.k % 8, r.tag, rc, rill⟩
    else .ok (finc (fset d (A.EPH_SLOT r.k) F.EPH_SLOT_RC (rc - 1)) A.EPH_DROPS F.EPH_DROPS_COUNT 1)

/-- The resolution of a half's EPH op is kept for the LDS and AQD ops of the same half-word (R275). -/
def setRes (d : Dev) (h t : Nat) (base : Option Nat) (failed : Bool) : Dev :=
  d.withEphRes (sput h ⟨t, base, failed⟩ d.ephRes)

/-- A failing EPH op is discarded and raises its exception (R287). -/
def ephFail (d : Dev) (iss : Issue) (word : Nat) (f : EphFail) : Dev :=
  ephRaise (setRes d (hn iss.half) iss.t none true) f word (strandOf d iss.strand).lastSpc (strandCode iss.strand)
    (hn iss.half)

/-- RES, HOLD and DROP. -/
def ephOp (d : Dev) (iss : Issue) (word up desc : Nat) : Dev :=
  let h := hn iss.half
  match ephResolve d h iss.strand desc with
  | .error f => ephFail d iss word f
  | .ok r =>
    match ephCount d up r (ertRill d h desc) with
    | .error f => ephFail d iss word f
    | .ok d => ephRetire (setRes d h iss.t (some (slotBase d r.k)) false)

/-- An EPH op issues (R274, R285, R287): the ephemeris must be RUNNING, and LAG and FLOOR are half A's. -/
def ephIssue (d : Dev) (iss : Issue) (op : EphOp) : Dev :=
  let d := landCommits (settle (tick d iss.t))
  let word := (encodeEph op).toNat
  if !running d .eph then ephFail d iss word ⟨0x72, 0, 0, 0, 0, 0⟩
  else match op with
  | .res desc => ephOp d iss word 0 desc.toNat
  | .hold desc => ephOp d iss word 1 desc.toNat
  | .drop desc => ephOp d iss word 2 desc.toNat
  | .lag arg =>
    if iss.half = .B ∨ ephSmax d < arg.toNat then ephFail d iss word ⟨0x70, 0, 0, 0, 0, 0⟩
    else setRes (fset d A.EPH_TAG F.EPH_TAG_LAG arg.toNat) (hn iss.half) iss.t none false
  | .floor k =>
    if iss.half = .B then ephFail d iss word ⟨0x70, 0, 0, 0, 0, 0⟩
    else setRes (ephFloor d k.toNat) (hn iss.half) iss.t none false

/-- A slot word that names no op is an illegal encoding (R285). -/
def ephIllegal (d : Dev) (iss : Issue) (word : Nat) : Dev :=
  ephFail (tick d iss.t) iss word ⟨0x70, 0, 0, 0, 0, 0⟩

/-! ### Build slots (R279, R280) -/

/-- The verdict of step s has been applied and was clear: s is behind the current step, or the step whose clear verdict
was applied last (R77, R93, R314). -/
def stepCommitted (d : Dev) (s : Nat) : Bool :=
  decide (0 < signed 32 (sub32 (curStep d) s)) || decide (d.wei.verdict = s + 1)

/-- A weir's request for a build slot of entry e under step s: an exception, or the package and the slot, if the answer
is not none (R279). While the ephemeris is not RUNNING the answer is none (R293). -/
def ephRequest (d : Dev) (e s : Nat) : Except EphFail (Dev × Option Nat) :=
  let t := (s + 1) % 65536
  if !running d .eph then .ok (d, none)
  else if e > 2047 ∨ fget d (A.EPH_ENT e) F.EPH_ENT_VALID = 0 then .error ⟨0x71, e, 0, t, 0, 0⟩
  else if fget d (A.EPH_ENT e) F.EPH_ENT_MX = 1 ∧ (ephMode d ≠ 0 ∨ stepCommitted d s = false) then
    .error ⟨0x75, e, 0, t, 0, 0⟩
  else
    let mine := (entrySlots e).filter (fun k => decide (slotTag d k = t) && decide (slotState d k ≠ 0))
    if mine.any (condemned d) then .ok (d, none)
    else match mine.find? (fun k => decide (slotState d k ≤ 3)) with
    | some k => .ok (d, some k)
    | none =>
      match mine.find? (fun k => decide (slotState d k = 4)) with
      | some k => .error ⟨0x76, e, k % 8, t, slotRc d k, 0⟩
      | none =>
        if ((entrySlots e).filter (fun k => decide (slotState d k ≠ 0))).length < modeCap (ephMode d) then
          match (entrySlots e).find? (fun k => decide (slotState d k = 0)) with
          | none => .ok (d, none)
          | some k =>
            let d := fset (fset d (A.EPH_SLOT k) F.EPH_SLOT_TAG t) (A.EPH_SLOT k) F.EPH_SLOT_RC 0
            let d := setSlotState d k (if stepCommitted d s then 3 else 1)
            .ok (fset d (A.WEI_BUILD e) F.WEI_BUILD_COUNT 0, some k)
        else .ok (d, none)

/-- A build is complete (R280). -/
def ephBuilt (d : Dev) (k : Nat) : Dev :=
  match slotState d k with
  | 1 => setSlotState d k 2
  | 3 => ephRetire (setSlotState d k 4)
  | _ => d

/-- A weir is still writing slot k. -/
def slotWritten (d : Dev) (k : Nat) : Bool :=
  d.wei.weirs.any (fun w => match w.2.cur with
    | some c => decide (c.slot = some k)
    | none => false)

/-- A build slot is freed: FREE, no longer condemned, and its build count returns to 0 (R281, R307). -/
def freeSlot (d : Dev) (k : Nat) : Dev :=
  fset (setCondemned (setSlotState d k 0) k 0) (A.WEI_BUILD (k / 8)) F.WEI_BUILD_COUNT 0

/-- Condemned slots that no weir writes any more become FREE (R281). -/
def freeCondemned (d : Dev) : Dev :=
  (d.eph.condemned.map Prod.fst).foldl (fun d k => if slotWritten d k then d else freeSlot d k) d

/-! ### The verdict gate (R281 to R283) -/

/-- A clear verdict for step s. -/
def ephClear (d : Dev) (s : Nat) : Dev :=
  let t := (s + 1) % 65536
  let d := ((ephSlots d).filter (fun k => decide (slotTag d k = t))).foldl (fun d k =>
    match slotState d k with
    | 1 => setSlotState d k 3
    | 2 => setSlotState d k 4
    | _ => d) d
  let d := if fget d A.EPH_TAG F.EPH_TAG_PFV = 1 then raiseFloor d (fget d A.EPH_TAG F.EPH_TAG_PFTAG) else d
  ephRetire (fset d A.EPH_TAG F.EPH_TAG_PFV 0)

/-- A poisoned or aborted verdict for step s: build slots are freed or condemned, LAG returns, every RC is cleared. -/
def ephBad (d : Dev) (s : Nat) : Dev :=
  let t := (s + 1) % 65536
  let ks := ephSlots d
  let d := (ks.filter (fun k => decide (slotTag d k = t))).foldl (fun d k =>
    match slotState d k with
    | 1 => if slotWritten d k then setCondemned d k 1 else freeSlot d k
    | 2 => freeSlot d k
    | _ => d) d
  let sum := (ks.map (slotRc d)).foldl (· + ·) 0
  let d := ks.foldl (fun d k => fset d (A.EPH_SLOT k) F.EPH_SLOT_RC 0) d
  let d := finc d A.EPH_CLEARED F.EPH_CLEARED_COUNT sum
  ephRetire (fset (fset d A.EPH_TAG F.EPH_TAG_LAG d.eph.lagAtStep) A.EPH_TAG F.EPH_TAG_PFV 0)

/-! ### Start (R289) -/

/-- The ephemeris may start with the configuration written. -/
def ephConfigOk (d : Dev) : Bool :=
  let mode := fget d A.EPH_CFG F.EPH_CFG_MODE
  let ents := (d.regs.filter (fun r => decide (A.EPH_ENT 0 ≤ r.1) && decide (r.1 ≤ A.EPH_ENT 2047))).map
    (fun r => (r.1 - A.EPH_ENT 0) / 8)
  let used (e : Nat) : List Nat := (entrySlots e).filter (fun k => decide (slotState d k ≠ 0))
  decide (mode ≠ 3) && decide (fget d A.EPH_CFG F.EPH_CFG_DLAG ≤ modeSmax mode)
    && ents.all (fun e =>
      let logss := fget d (A.EPH_ENT e) F.EPH_ENT_LOGSS
      decide (fget d (A.EPH_ENT e) F.EPH_ENT_VALID = 0)
        || ((decide (fget d (A.EPH_ENT e) F.EPH_ENT_MX = 0) || decide (mode = 0)) && decide (12 ≤ logss)
            && decide (logss ≤ 34)))
    && ((ephSlots d).map (· / 8)).all (fun e =>
      let ks := used e
      decide (ks.length ≤ modeCap mode)
        && ks.all (fun k => ks.all (fun j => decide (j = k) || decide (slotTag d j ≠ slotTag d k))))

/-- A start of the ephemeris: its configuration comes into force (R292). -/
def ephStart (d : Dev) : Dev := ephRetire (latch d [A.EPH_CFG])

/-! ### The meanings of the commands -/

/-- RES (R274). -/
def execRes (iss : Issue) (desc : BitVec 10) (s : State) :
    Host.Outcome State Fault Refusal :=
  act (fun d => ephIssue d iss (.res desc)) s

/-- HOLD (R274). -/
def execHold (iss : Issue) (desc : BitVec 10) (s : State) :
    Host.Outcome State Fault Refusal :=
  act (fun d => ephIssue d iss (.hold desc)) s

/-- DROP (R274). -/
def execDrop (iss : Issue) (desc : BitVec 10) (s : State) :
    Host.Outcome State Fault Refusal :=
  act (fun d => ephIssue d iss (.drop desc)) s

/-- LAG (R271). -/
def execLag (iss : Issue) (arg : BitVec 3) (s : State) :
    Host.Outcome State Fault Refusal :=
  act (fun d => ephIssue d iss (.lag arg)) s

/-- FLOOR (R272). -/
def execFloor (iss : Issue) (k : BitVec 3) (s : State) :
    Host.Outcome State Fault Refusal :=
  act (fun d => ephIssue d iss (.floor k)) s

end Sys2Proof.Machine
end

