-- ==== Sys2Proof/Machine/Ast.lean ====
section
/-! DEFINITION. The astrolabe: banks of exact sums, the gradient-norm accumulators, comparison of sampled windows, the
AST slot ops, SNAP, and clearing of counters (10). Sums are in units of 2^-298. -/

namespace Sys2Proof.Machine

/-! ### Exact sums (R343 to R346) -/

/-- The square of a finite value in units of 2^-298, the value being a multiple of 2^-149. -/
def sq298 (v : FVal) : Nat :=
  match v with
  | .fin n m e => (atExp n m e (-149)).natAbs ^ 2
  | _ => 0

/-- A sum rounded once to FP32 with RNE (R348). -/
def sum32 (n : Nat) : Nat := enc32 (if n = 0 then fzero else .fin false n (-298))

/-- What one element adds: a finite value for each of W, G, U and S it forms (R343). -/
structure NormTerm where
  w : Option FVal
  g : Option FVal
  u : Option FVal
  s : Option FVal
  deriving DecidableEq, Repr

/-- A term's value, if it is finite. -/
def termSq (v : Option FVal) : Nat := match v with | some x => sq298 x | none => 0
def termIn (v : Option FVal) : Bool := match v with | some x => x.isFinite | none => false

/-- The elements of a weir group, as contributions of step `n` to entry `e` (R343, R345); a stopped astrolabe discards
them (R367). -/
def normGroup (d : Dev) (h n e : Nat) (full : Bool) (ts : List NormTerm) : Dev :=
  if stOf d (A.AST_STS h) ≠ 1 ∨ ts.isEmpty = true then d
  else match bankFor d h n with
  | (d, false) => d
  | (d, true) =>
    let b := 2 * h + n % 2
    let add (kind v : Nat) (m : List (Nat × Nat)) : List (Nat × Nat) :=
      let k := (b * 4 + kind) * 2048 + e
      sset 0 k (sget 0 k m + v) m
    let tot (f : NormTerm → Option FVal) : Nat := (ts.map (fun t => termSq (f t))).foldl (· + ·) 0
    let k := b * 2048 + e
    let live := (ts.filter (fun t => termIn t.w || termIn t.g || termIn t.u || termIn t.s)).length
    let sums := add 3 (tot (·.s)) (add 2 (tot (·.u)) (add 1 (tot (·.g)) (add 0 (tot (·.w)) d.ast.sums)))
    (d.withAst { d.ast with sums := sums, nel := sset 0 k (sget 0 k d.ast.nel + live) d.ast.nel,
                                 hasu := if full then sset 0 k 1 d.ast.hasu else d.ast.hasu })

/-- A bank's contents set to nothing; its tag stays (R346, R347). -/
def zeroBank (d : Dev) (h n : Nat) : Dev :=
  let b := 2 * h + n % 2
  (d.withAst { d.ast with
      sums := d.ast.sums.filter (fun e => e.1 / 8192 != b), nel := d.ast.nel.filter (fun e => e.1 / 2048 != b),
      hasu := d.ast.hasu.filter (fun e => e.1 / 2048 != b),
      samples := d.ast.samples.filter (fun e => e.1 / 4 != b) })

/-- A bank holds contributions. -/
def bankHolds (d : Dev) (h n : Nat) : Bool :=
  let b := 2 * h + n % 2
  d.ast.sums.any (fun e => e.1 / 8192 == b) || d.ast.nel.any (fun e => e.1 / 2048 == b)
    || d.ast.samples.any (fun e => e.1 / 4 == b)

/-! ### STEPB and the verdict (R341, R346, R347, R354, R358) -/

/-- STEPB of step n in one half: the bank takes its tag, and unclaimed statistics of an earlier step are lost. A bank
that a SNAP has claimed keeps its tag until it has been emitted. -/
def bankStep (d : Dev) (h n : Nat) : Dev :=
  if bankPend d h n || bankEmit d h n then d
  else
    let lost := bankTagged d h n && decide (bankTag d h n ≠ n) && bankHolds d h n
    let d := if lost then astNote (zeroBank d h n) h 0x9B (bankTag d h n) else d
    fset (fset d (bankReg h n) F.AST_BANK0_TAG n) (bankReg h n) F.AST_BANK0_TAGGED 1

/-- The counters that STEPB sets to 0 (R366). -/
def cntStep (d : Dev) : Dev :=
  let clear (d : Dev) (base n : Nat) : Dev :=
    (selectedCounters d base n).foldl (fun d k =>
      if fget d (base + 0x100 + 8 * k) F.CNT_SEL_STEPCLR = 1 then regSet d (base + 0x400 + 8 * k) 0 else d) d
  clear (clear (clear d (A.CNT_CTL 0) 64) (A.CNT_CTL 1) 64) A.GCNT_CTL 32

/-- STEPB: banks, draws and mismatches of the step begin anew. -/
def astStep (d : Dev) : Dev :=
  let n := curStep d
  let d : Dev := d.withAst { d.ast with draws := [], mism := [], forced := [] }
  bankStep (bankStep d 0 n) 1 n

/-- Poison when the verdict of a step is applied (R341): a clear verdict brings NEXT into CUR, another withdraws both. -/
def psnVerdict (d : Dev) (clear : Bool) : Dev :=
  [0, 1].foldl (fun d h =>
    let nx := fget d (A.AST_PSN h) F.AST_PSN_NEXT
    fset (fset d (A.AST_PSN h) F.AST_PSN_CUR (if clear then nx else 0)) (A.AST_PSN h) F.AST_PSN_NEXT 0) d

/-- Step 5 of an unwind of step s (R347). -/
def astRollback (d : Dev) (s : Nat) : Dev :=
  [0, 1].foldl (fun d h => if bankTag d h s = s then zeroBank d h s else d) d

/-- A start of a half's astrolabe (R371). -/
def astStart (d : Dev) (h : Nat) : Dev := latch d [A.AST_UWR h, A.AST_SMP h, A.AST_SHD h, A.AST_GNOUT]

/-! ### Comparison of a sampled window (R356 to R358) -/

/-- The record of a shadow comparison. -/
def shdRaise (d : Dev) (h : Nat) (s : Shadow) (number sev : Nat) : Dev :=
  raise (fset d (A.AST_STS h) F.AST_STS_EXC number) number sev 6
    (opPayload d s.word s.spc s.strand h number s.terr s.unit
      (s.metric % 2 ^ 32 + (s.rb % 4) <<< 32 + (s.cb % 4) <<< 34 + (b2n s.odd) <<< 36 + (s.c % 2 ^ 24) <<< 40))

/-- A mismatch (R358). -/
def shdMismatch (d : Dev) (h : Nat) (s : Shadow) : Dev :=
  let d := count (finc d (A.SHD_MIS h) F.SHD_MIS_COUNT 1) h 0x504 0 1 true
  let n := sget 0 h d.ast.mism
  let d := bankSample (d.withAst { d.ast with mism := sset 0 h (n + 1) d.ast.mism }) h s.step 2
  let d := if n < 16 then shdRaise d h s 0x98 0 else d
  let d := if liveGet d (A.AST_SHD h) F.AST_SHD_POISON = 1 then poisonEvent d h s.step srcSHD 3 s.word else d
  let d := fincSat d (A.SHD_STS h) F.SHD_STS_CONSEC 1
  let limit := liveGet d (A.AST_SHD h) F.AST_SHD_LIMIT
  if limit ≠ 0 ∧ limit ≤ fget d (A.SHD_STS h) F.SHD_STS_CONSEC then shdRaise d h s 0x93 3 else d

/-- The larger of two FP32 codes of values that are not negative. -/
def maxCode32 (a b : Nat) : Nat := max a b

/-- The window in flight in a half is compared at its time. -/
def shadowCompare (d : Dev) (h : Nat) : Dev :=
  match sfind h d.ast.shadow with
  | none => d
  | some s =>
    let d := settle (tick d s.ends)
    let d : Dev := d.withAst { d.ast with shadow := sdel h d.ast.shadow }
    let d := fset (fset d (A.SHD_STS h) F.SHD_STS_BUSY 0) (A.SHD_STS h) F.SHD_STS_LASTERR s.metric
    let d := finc d (A.SHD_CNT h) F.SHD_CNT_COMPARED 1
    let d := fset d (A.SHD_MIS h) F.SHD_MIS_MAXERR (maxCode32 (fget d (A.SHD_MIS h) F.SHD_MIS_MAXERR) s.metric)
    let d := count (count d h 0x501 0 1 true) h 0x503 0 s.excluded true
    let d := match bankFor d h s.step with
      | (d, false) => d
      | (d, true) =>
        let k := (2 * h + s.step % 2) * 4
        let sm := sset 0 k (sget 0 k d.ast.samples + 1) d.ast.samples
        (d.withAst { d.ast with samples := sset 0 (k + 3) (maxCode32 (sget 0 (k + 3) sm) s.metric) sm })
    if flt (dec32 (liveGet d (A.AST_SHD h) F.AST_SHD_TOL)) (dec32 s.metric) then shdMismatch d h s
    else fset d (A.SHD_STS h) F.SHD_STS_CONSEC 0

/-! ### Gradient norms (R352, R353) -/

def gnGet (d : Dev) (acc : Nat) : GnAcc := sget GnAcc.init acc d.ast.gn
def gnSet (d : Dev) (acc : Nat) (g : GnAcc) : Dev :=
  d.withAst { d.ast with gn := sset GnAcc.init acc g d.ast.gn }

/-- The squares of elements that cross a collective's tap (R352); a stopped astrolabe discards them (R367). -/
def gnTap (d : Dev) (acc : Nat) (red : Bool) (vs : List FVal) : Dev :=
  if stOf d (A.AST_STS 0) ≠ 1 then d
  else
    let g := gnGet d acc
    let fin := vs.filter (·.isFinite)
    let s := (fin.map sq298).foldl (· + ·) 0
    let g := { g with nf := g.nf || decide (fin.length < vs.length) }
    gnSet d acc (if red then { g with red := g.red + s, nred := g.nred + fin.length }
                 else { g with loc := g.loc + s, nloc := g.nloc + fin.length })

/-- An astrolabe exception of an op (R362, R363). -/
def astFail (d : Dev) (iss : Issue) (word number : Nat) : Dev :=
  let h := hn iss.half
  raise (fset d (A.AST_STS h) F.AST_STS_EXC number) number 3 6
    (opPayload d word (strandOf d iss.strand).lastSpc (strandCode iss.strand) h number 0 0 0)

/-- GNWR: 16 bytes into a reservoir, 32 ac after the issue (R353). -/
def gnWrite (d : Dev) (iss : Issue) (word acc : Nat) : Dev :=
  let a := liveGet d A.AST_GNOUT F.AST_GNOUT_BASE * 16 + 16 * acc
  match resTerrace a with
  | none => astFail d iss word 0x91
  | some T =>
    if !inRes T a 16 then astFail d iss word 0x91
    else
      let g := gnGet d acc
      let bs := leBytes 4 (sum32 g.loc) ++ leBytes 4 (sum32 g.red) ++ leBytes 4 g.nloc ++ leBytes 4 g.nred
      let (d, bad) := rvrTimed d T [((a - resBase T) / 128, iss.t + 32)]
      if bad.isEmpty then (d.withJet { d.jet with lands := d.jet.lands ++ [⟨iss.t + 32, none, none, [(a, bs)]⟩] })
      else d

/-- GNREC: a GNORM record (R353, R359). -/
def gnRecord (d : Dev) (acc : Nat) : Dev :=
  let g := gnGet d acc
  let range := decide (sum32 g.loc = 0x7F800000) || decide (sum32 g.red = 0x7F800000)
  postStat d 0xA2 6 [sum32 g.loc + (sum32 g.red) <<< 32, g.nloc % 2 ^ 32 + (g.nred % 2 ^ 32) <<< 32,
    curStep d + (acc % 16) <<< 32 + (b2n range) <<< 36 + (b2n g.nf) <<< 37, sidNow d]

/-! ### SNAP and the readout (R348 to R351) -/

/-- WEI commands issued so far, in both halves. -/
def weiSerial (d : Dev) : Nat := (d.wei.issued.map Prod.snd).foldl (· + ·) 0

/-- SNAP claims the bank of the step before the current one. -/
def snapClaim (d : Dev) : Dev :=
  let L := (curStep d + 2 ^ 32 - 1) % 2 ^ 32
  let ok (h : Nat) : Bool :=
    bankTagged d h L && decide (bankTag d h L = L) && !bankPend d h L && !bankEmit d h L
  if ok 0 && ok 1 then
    let d := fset (fset d (bankReg 0 L) F.AST_BANK0_PEND 1) (bankReg 1 L) F.AST_BANK0_PEND 1
    latch (d.withAst { d.ast with snapSerial := weiSerial d }) [A.AST_CTL 0]
  else d

/-- A WEI command of step L issued before the SNAP has still to complete. -/
def snapWaits (d : Dev) (L : Nat) : Bool :=
  let mine (c : WeiCmd) : Bool := decide (c.step = L) && decide (c.serial < d.ast.snapSerial)
  d.wei.queues.any (fun q => q.2.any mine) || d.wei.weirs.any (fun w => w.2.queue.any mine ||
    (match w.2.cur with
     | some c => mine c
     | none => false))

/-- The NORM record's fields for an entry: the four sums, ρ, and the marks HASU, RHI, RLO and RANGE (R348, R349). -/
structure Norm where
  w : Nat
  g : Nat
  u : Nat
  s : Nat
  rho : Nat
  nel : Nat
  hasu : Bool
  rhi : Bool
  rlo : Bool
  range : Bool
  deriving DecidableEq, Repr

def normOf (d : Dev) (L e : Nat) : Norm :=
  let sum (kind : Nat) : Nat :=
    sum32 (sget 0 (((L % 2) * 4 + kind) * 2048 + e) d.ast.sums + sget 0 (((2 + L % 2) * 4 + kind) * 2048 + e) d.ast.sums)
  let k (h : Nat) : Nat := (2 * h + L % 2) * 2048 + e
  let w := sum 0
  let u := sum 2
  let rho := if w = 0 then (if u = 0 then 0 else 0x7F800000)
    else enc32 (fsqrt (dec32 (enc32 (fdiv (dec32 u) (dec32 w)))))
  let hasu := decide (sget 0 (k 0) d.ast.hasu = 1) || decide (sget 0 (k 1) d.ast.hasu = 1)
  { w := w, g := sum 1, u := u, s := sum 3, rho := rho, nel := sget 0 (k 0) d.ast.nel + sget 0 (k 1) d.ast.nel,
    hasu := hasu, rhi := flt (dec32 (liveGet d (A.AST_UWR 0) F.AST_UWR_HI)) (dec32 rho),
    rlo := hasu && flt (dec32 rho) (dec32 (liveGet d (A.AST_UWR 0) F.AST_UWR_LO)),
    range := [w, sum 1, u, sum 3].contains 0x7F800000 }

/-- A NORM record. -/
def normRecord (d : Dev) (L e : Nat) (n : Norm) : Dev :=
  postStat d 0xA0 6 [n.w + n.g <<< 32, n.u + n.s <<< 32, n.rho + L <<< 32,
    n.nel % 2 ^ 32 + (e % 2 ^ 11) <<< 32 + (b2n n.hasu) <<< 43 + (b2n n.rhi) <<< 44 + (b2n n.rlo) <<< 45
      + (b2n n.range) <<< 46]

/-- NREC allows the entry's record (R350). -/
def normAllowed (nrec : Nat) (n : Norm) : Bool :=
  match nrec with
  | 1 => n.rhi || n.rlo
  | 2 => decide (n.nel ≠ 0)
  | _ => false

/-- Records of an emission still wait for their ring. -/
def emitWaits (d : Dev) : Bool := d.hst.statWait.any (fun e => e.2.number == 0xA0 || e.2.number == 0xA1)

/-- EMIT is cleared when the last record of the emission has been written. -/
def emitEnd (d : Dev) : Dev :=
  if emitWaits d then d
  else [(0, 0), (0, 1), (1, 0), (1, 1)].foldl (fun d p => fset d (bankReg p.1 p.2) F.AST_BANK0_EMIT 0) d

/-- The bank of step L is emitted in both halves, zeroed and left without a tag (R348). -/
def bankEmission (d : Dev) (L : Nat) : Dev :=
  let nrec := liveGet d (A.AST_CTL 0) F.AST_CTL_NREC
  let ns := (List.range 2048).map (fun e => (e, normOf d L e))
  let out := ns.filter (fun p => normAllowed nrec p.2)
  let smp (kind : Nat) (h : Nat) : Nat := sget 0 ((2 * h + L % 2) * 4 + kind) d.ast.samples
  let hi := (ns.filter (fun p => p.2.rhi)).length
  let lo := (ns.filter (fun p => p.2.rlo)).length
  let last := [L + out.length <<< 32, hi + lo <<< 32,
    (smp 0 0 + smp 0 1) % 2 ^ 32 + ((smp 1 0 + smp 1 1) % 2 ^ 32) <<< 32,
    (smp 2 0 + smp 2 1) % 2 ^ 32 + (maxCode32 (smp 3 0) (smp 3 1)) <<< 32]
  let d := out.foldl (fun d p => normRecord d L p.1 p.2) d
  let d := zeroBank (zeroBank (postStat d 0xA1 6 last) 0 L) 1 L
  [0, 1].foldl (fun d h =>
    let r := bankReg h L
    fset (fset (fset (fset d r F.AST_BANK0_TAG 0) r F.AST_BANK0_TAGGED 0) r F.AST_BANK0_PEND 0) r F.AST_BANK0_EMIT
      (b2n (emitWaits d))) d

/-- The emission of a claimed bank whose WEI commands have completed; both banks cannot be claimed at once. -/
def snapEmit (d : Dev) : Dev :=
  match [0, 1].find? (fun b => bankPend d 0 b) with
  | none => d
  | some b =>
    let L := bankTag d 0 b
    if snapWaits d L then d else bankEmission d L

/-- A bank of this parity is claimed or being emitted: the weirs hold their commands of such steps (R351). -/
def snapHolds (d : Dev) (n : Nat) : Bool := bankPend d 0 n || bankEmit d 0 n

/-! ### The AST slot (R360, R361) -/

/-- An AST op issues. -/
def astIssue (d : Dev) (iss : Issue) (op : AstOp) : Dev :=
  let d := settle (tick d iss.t)
  let word := (encodeAst op).toNat
  let own : Bool := match op with | .sforce _ => true | _ => decide (iss.half = .A)
  if !own then astFail d iss word 0x90
  else if !running d (.ast iss.half) then astFail d iss word 0x92
  else match op with
  | .snap => snapClaim d
  | .gnopen acc => gnSet d acc.toNat GnAcc.init
  | .gnwr acc => gnWrite d iss word acc.toNat
  | .gnrec acc => gnRecord d acc.toNat
  | .sforce terr =>
    (d.withAst { d.ast with forced := sset 0 (8 * hn iss.half + terr.toNat) (iss.t + 1) d.ast.forced })

/-- A slot word that names no op is an illegal encoding (R360). -/
def astIllegal (d : Dev) (iss : Issue) (word : Nat) : Dev := astFail (tick d iss.t) iss word 0x90

/-! ### Counters (R366) -/

/-- Every counter of a block set to 0; none names the package's block. -/
def cntClear (d : Dev) (blk : Option Half) : Dev :=
  let (base, n) := match blk with
    | some h => (A.CNT_CTL (hn h), 64)
    | none => (A.GCNT_CTL, 32)
  (d.withRegs (d.regs.filter (fun e => !(decide (base + 0x400 ≤ e.1) && decide (e.1 < base + 0x400 + 8 * n)))))

/-! ### The meanings of the commands -/

/-- SHADOW_COMPARE (R358). -/
def execShadowCompare (half : Half) (s : State) : Host.Outcome State Fault Refusal :=
  act (fun d => shadowCompare d (hn half)) s

/-- CNT_CLEAR (R366). `none` names the package's counters. -/
def execCntClear (blk : Option Half) (s : State) : Host.Outcome State Fault Refusal := act (fun d => cntClear d blk) s

/-! ### The meanings of the commands -/

/-- SNAP (R348). -/
def execSnap (iss : Issue) (s : State) :
    Host.Outcome State Fault Refusal :=
  act (fun d => astIssue d iss .snap) s

/-- GNOPEN (R353). -/
def execGnopen (iss : Issue) (acc : BitVec 4) (s : State) :
    Host.Outcome State Fault Refusal :=
  act (fun d => astIssue d iss (.gnopen acc)) s

/-- GNWR (R353). -/
def execGnwr (iss : Issue) (acc : BitVec 4) (s : State) :
    Host.Outcome State Fault Refusal :=
  act (fun d => astIssue d iss (.gnwr acc)) s

/-- GNREC (R353). -/
def execGnrec (iss : Issue) (acc : BitVec 4) (s : State) :
    Host.Outcome State Fault Refusal :=
  act (fun d => astIssue d iss (.gnrec acc)) s

/-- SFORCE (R361). -/
def execSforce (iss : Issue) (terr : BitVec 3) (s : State) :
    Host.Outcome State Fault Refusal :=
  act (fun d => astIssue d iss (.sforce terr)) s

end Sys2Proof.Machine
end

