-- ==== Sys2Proof/Machine/Wei.lean ====
section
/-! DEFINITION. The weirs: span tables, rules, the recurrence, the narrow copy, row control, the backwash ring, the
verdict gate and the command queues (09). Weir w is 4 · half + weir. A command's groups are processed as soon as it can
begin; WEIR_COMMAND_COMPLETE ends it. -/

namespace Sys2Proof.Machine

/-! ### Span table entries (R296, R297) -/

/-- An entry of a weir span table. -/
structure Wst where
  rbase : Nat
  rule : Nat
  gbase : Nat
  gfmt : Nat
  mbase : Nat
  cbase : Nat
  entry : Nat
  nfmt : Nat
  sparse : Bool
  sg : Nat
  rowg : Nat
  scbase : Nat
  torg : Nat
  gidx0 : Nat
  deriving DecidableEq, Repr

/-- The fields of an entry's eight words. -/
def wstFields (w : List Nat) : Wst :=
  let g (i : Nat) : Nat := w.getD i 0
  { rbase := bits (g 0) 41 0, rule := bits (g 0) 45 42, gbase := bits (g 1) 41 0, gfmt := bits (g 1) 45 42,
    mbase := bits (g 2) 41 0, cbase := bits (g 3) 41 0, entry := bits (g 4) 10 0, nfmt := bits (g 4) 15 12,
    sparse := bit (g 4) 16, sg := bits (g 5) 23 0 + 1, rowg := bits (g 5) 55 32, scbase := bits (g 6) 41 0,
    torg := bits (g 7) 31 0, gidx0 := bits (g 7) 55 32 }

/-- A bit of the entry that R297 reserves is 1. -/
def wstReserved (w : List Nat) : Bool :=
  let g (i : Nat) : Nat := w.getD i 0
  decide (bits (g 0) 63 46 ≠ 0) || decide (bits (g 1) 63 46 ≠ 0) || decide (bits (g 2) 63 42 ≠ 0)
    || decide (bits (g 3) 63 42 ≠ 0) || bit (g 4) 11 || decide (bits (g 4) 63 17 ≠ 0)
    || decide (bits (g 5) 31 24 ≠ 0) || decide (bits (g 5) 63 56 ≠ 0) || decide (bits (g 6) 63 42 ≠ 0)
    || decide (bits (g 7) 63 56 ≠ 0)

/-- The eight words of entry n of a half's table, if it has it. -/
def wstWords (d : Dev) (h n : Nat) : Option (List Nat) :=
  let t := (halfTables d h).wst
  if 8 * n + 7 < t.length then some ((t.drop (8 * n)).take 8) else none

/-! ### Rules (R295, R300, R301) -/

/-- A rule in force. -/
structure Rule where
  a1 : FVal
  b1 : FVal
  a2 : FVal
  b2 : FVal
  c0 : FVal
  k1 : FVal
  bb1 : FVal
  k2 : FVal
  bb2 : FVal
  eps : FVal
  tau : FVal
  etam : FVal
  lamm : FVal
  bc1 : Bool
  bc2 : Bool
  layout : Nat
  psi : Nat
  rnd : Nat
  deriving DecidableEq, Repr

/-- Rule r of a half's block. -/
def ruleOf (d : Dev) (h r : Nat) : Rule :=
  let g (a : Nat) (f : Fld) : FVal := dec32 (liveGet d a f)
  let m7 := A.WEI_RULE7 h r
  { a1 := g (A.WEI_RULE0 h r) F.WEI_RULE_A1, b1 := g (A.WEI_RULE0 h r) F.WEI_RULE_B1,
    a2 := g (A.WEI_RULE1 h r) F.WEI_RULE_A2, b2 := g (A.WEI_RULE1 h r) F.WEI_RULE_B2,
    c0 := g (A.WEI_RULE2 h r) F.WEI_RULE_C0, k1 := g (A.WEI_RULE2 h r) F.WEI_RULE_K1,
    k2 := g (A.WEI_RULE3 h r) F.WEI_RULE_K2, bb1 := g (A.WEI_RULE3 h r) F.WEI_RULE_BB1,
    bb2 := g (A.WEI_RULE4 h r) F.WEI_RULE_BB2, eps := g (A.WEI_RULE4 h r) F.WEI_RULE_EPS,
    tau := g (A.WEI_RULE5 h r) F.WEI_RULE_TAU, etam := g (A.WEI_RULE5 h r) F.WEI_RULE_ETAM,
    lamm := g (A.WEI_RULE6 h r) F.WEI_RULE_LAMM,
    bc1 := decide (liveGet d m7 F.WEI_RULE_BC1 = 1), bc2 := decide (liveGet d m7 F.WEI_RULE_BC2 = 1),
    layout := liveGet d m7 F.WEI_RULE_LAYOUT, psi := liveGet d m7 F.WEI_RULE_PSI, rnd := liveGet d m7 F.WEI_RULE_RND }

/-- Record bytes of a layout (R295). -/
def recordSize (layout : Nat) : Nat := if layout = 0 then 12 else 4

/-- A product rounded once to FP32 (R115, R299). -/
def mul32 (a b : FVal) : FVal := f32 (fmul a b)

/-- The power of R301, by square-and-multiply over the bits of t from the most significant. -/
def powBits (bb : FVal) (t : Nat) : Nat → FVal → FVal
  | 0, p => p
  | b + 1, p =>
    let p := mul32 p p
    powBits bb t b (if t.testBit b then mul32 p bb else p)

/-- c(K, BB, BC, t) of R301. -/
def biasFactor (k bb : FVal) (bc : Bool) (t : Nat) : FVal :=
  if bc then f32 (fdiv k (f32 (fsub fone (powBits bb t 32 fone)))) else k

/-- psi(n, q) of R299. -/
def weiPsi (r : Rule) (n q : FVal) : FVal :=
  match r.psi with
  | 0 => n
  | 2 => if n.isNan then .nan else if flt fzero n then fone else if flt n fzero then fone.neg else fzero
  | p =>
    let x := f32 (fdiv n (f32 (fadd (f32 (fsqrt q)) r.eps)))
    if p = 1 then x else fmax r.tau.neg (fmin r.tau x)

/-- A record's element: w, s1, s2; STAT uses s1 and COPY w. -/
structure Elem where
  w : FVal
  s1 : FVal
  s2 : FVal
  deriving DecidableEq, Repr

/-- The recurrence of R299 from a gradient element; the result's second part is g. -/
def weiElem (r : Rule) (c1 c2 eta lam invls : FVal) (x : Elem) (gsrc : FVal) : Elem × FVal :=
  let g := f32 (fmul gsrc invls)
  let s1 := fma32 r.a1 x.s1 (mul32 r.b1 g)
  if r.layout = 1 then ({ x with s1 := s1 }, g)
  else
    let s2 := fma32 r.a2 x.s2 (mul32 r.b2 (mul32 g g))
    let n := fma32 c1 s1 (mul32 r.c0 g)
    let u := fma32 lam x.w (weiPsi r n (mul32 c2 s2))
    (⟨fma32 eta.neg u x.w, s1, s2⟩, g)

/-! ### Weirs, queues and registers (R326, R335) -/

def weirOf (d : Dev) (w : Nat) : Weir := sget Weir.init w d.wei.weirs

/-- ACT of a weir (R335). -/
def weirAct (x : Weir) : Nat :=
  if x.rolling.isSome && x.cur.isNone && x.queue.isEmpty then 4
  else if x.cur.isNone then 0
  else if x.waitAt = 0 then 1
  else if x.waitRing then 3 else 2

/-- A weir replaced; WEI_WSTS follows. -/
def setWeir (d : Dev) (w : Nat) (x : Weir) : Dev :=
  let a := A.WEI_WSTS (w / 4) (w % 4)
  fset (fset (d.withWei { d.wei with weirs := sset Weir.init w x d.wei.weirs }) a F.WEI_WSTS_QFILL x.queue.length)
    a F.WEI_WSTS_ACT (weirAct x)

/-- The half's WEI queue. -/
def weiQueue (d : Dev) (h : Nat) : List WeiCmd := sget [] h d.wei.queues

/-- The half's WEI queue replaced; its fill travels to the sequencers (R38, R39). -/
def setWeiQueue (d : Dev) (h : Nat) (l : List WeiCmd) : Dev :=
  let n := (weiQueue d h).length
  let d : Dev := d.withWei { d.wei with queues := sset [] h l d.wei.queues }
  if n = l.length then d else govSet d (.qfill h 4) l.length

/-- The command books of a weir (R325): 0 issued, 1 dispatched, 2 completed, 3 discarded. -/
def weiNote (d : Dev) (w k n : Nat) : Dev :=
  d.withWei { d.wei with counts := sset 0 (8 * w + k) (sget 0 (8 * w + k) d.wei.counts + n) d.wei.counts }

/-- The severity of a weir exception (R329). -/
def weiSev (number : Nat) : Nat := if number < 0x88 then 3 else if number = 0x88 then 2 else 0

/-- The weir of the half, the opcode, DESC, SEL and SPAN0 of a command word (R327). -/
def wcWeir (op : Nat) : Nat := bits op 27 26
def wcOp (op : Nat) : Nat := bits op 31 28
def wcDesc (op : Nat) : Nat := bits op 25 16
def wcSel (op : Nat) : Nat := bits op 15 12

/-- A weir record (R329, R330); a step-fatal one aborts the command's step. -/
def weiRaise (d : Dev) (w number : Nat) (op spc strand step detail : Nat) : Dev :=
  let h := w / 4
  let d := fset (fset d (A.WEI_STS h) F.WEI_STS_EXC number) (A.WEI_STS h) F.WEI_STS_WEIR (w % 4)
  let d := post d number (weiSev number) 5 (opPayload d op spc strand h number (w % 4) 0 detail)
  match weiSev number with
  | 2 => raiseAbort d step
  | s => consequence d s

/-- The group, span and entry of a command, as a record's detail (R330). -/
def weiDetail (c : WeiCmd) : Nat :=
  let e := wstFields c.ent
  (c.span * e.sg + c.next) % 2 ^ 24 * (b2n (!c.ent.isEmpty)) + (c.span % 2 ^ 12) <<< 24 + e.entry <<< 36

/-- A record of a command. -/
def weiCmdRaise (d : Dev) (w : Nat) (c : WeiCmd) (number detail : Nat) : Dev :=
  weiRaise d w number c.op.toNat c.spc c.strand c.step detail

/-! ### Tests before the first byte (R298, R327) -/

/-- The bytes lie in the range of weir w's stack (R295). -/
def inOwnStack (d : Dev) (w a n : Nat) : Bool :=
  decide (w * stackStride ≤ a) && decide (a + n ≤ w * stackStride + stackCh d w * channelBytes)

/-- A command that begins, with its entry and rule. -/
structure WeiJob where
  w : Nat
  clrm : Bool
  e : Wst
  r : Rule
  c : WeiCmd

/-- The job of a begun command. -/
def jobOf (d : Dev) (w : Nat) (c : WeiCmd) : WeiJob :=
  let e := wstFields c.ent
  ⟨w, decide (wcOp c.op.toNat = 2), e, ruleOf d (w / 4) e.rule, c⟩

/-- The layout writes a narrow copy (R295). -/
def WeiJob.narrow (j : WeiJob) : Bool := !j.clrm && (decide (j.r.layout = 0) || decide (j.r.layout = 2))

/-- The first group of the command's span. -/
def WeiJob.g0 (j : WeiJob) : Nat := j.c.span * j.e.sg

/-- Bytes of a gradient element. -/
def WeiJob.gb (j : WeiJob) : Nat := elemBits j.e.gfmt / 8

/-- The encoding tests (R298, R327). -/
def weiEncBad (j : WeiJob) : Bool :=
  decide (j.r.layout = 3) || decide (j.r.rnd = 3) || (j.e.sparse && decide (j.r.layout ≠ 0))
    || (j.e.sparse && (decide (j.e.rowg = 0) || decide (j.e.sg % j.e.rowg ≠ 0)))
    || (decide (j.r.layout = 0 ∨ j.r.layout = 2) && (decide (10 ≤ j.e.nfmt)))
    || !(decide (j.e.gfmt = 0) || decide (j.e.gfmt = 1) || decide (j.e.gfmt = 10))
    || wstReserved j.c.ent || (j.clrm && !j.e.sparse)

/-- The control bits of a row, TOUCHED + 2 · FROZEN (R308). -/
def rowBits (d : Dev) (e : Wst) (row : Nat) : Nat :=
  bits (memNat d.mem (e.mbase + 8 * (row / 32)) 8) (2 * (row % 32) + 1) (2 * (row % 32))

/-- Address tests of one group: those of its row's map word, and where it is worked on, of its count, its records, its
gradients; and of the index and the narrow bytes (R298). -/
def weiGroupBad (d : Dev) (j : WeiJob) (k G : Nat) : Option Nat :=
  let e := j.e
  let row := G / e.rowg
  let ma := e.mbase + 8 * (row / 32)
  if e.sparse && !inOwnStack d j.w ma 8 then some ma
  else
    let worked := if !e.sparse then true else if j.clrm then (rowBits d e row).testBit 0 else rowBits d e row == 1
    let ca := e.cbase + 4 * row
    let ra := e.rbase + G * 256 * recordSize j.r.layout
    let ga := e.gbase + G * 256 * j.gb
    let i0 := 256 * (e.gidx0 + G)
    let na := slotBase d k + i0 * elemBits e.nfmt / 8
    let nb := 32 * elemBits e.nfmt
    let sa := e.scbase + i0 / 32
    if worked && e.sparse && !j.clrm && !inOwnStack d j.w ca 4 then some ca
    else if worked && !j.clrm && !inOwnStack d j.w ra (256 * recordSize j.r.layout) then some ra
    else if worked && (j.clrm || j.r.layout != 2)
        && !(inStacks d ga (256 * j.gb) || inAnyRes ga (256 * j.gb) || inWindow ga (256 * j.gb)) then some ga
    else if !j.clrm && decide (2 ^ 32 < i0 + 256) then some ra
    else if j.narrow && !(inStacks d na nb || inAnyRes na nb) then some na
    else if j.narrow && isMx e.nfmt && !(inStacks d sa 8 || inAnyRes sa 8) then some sa
    else none

/-- The first failing address of a command (R298). The alignment of MBASE and CBASE counts in a SPARSE entry, where
alone they have a meaning (R297). -/
def weiAddrBad (d : Dev) (j : WeiJob) (k : Nat) : Option Nat :=
  let e := j.e
  if e.rbase % 64 ≠ 0 then some e.rbase
  else if e.gbase % 64 ≠ 0 then some e.gbase
  else if e.sparse && decide (e.cbase % 64 ≠ 0) then some e.cbase
  else if e.sparse && decide (e.mbase % 8 ≠ 0) then some e.mbase
  else (range' j.g0 e.sg).findSome? (weiGroupBad d j k)

/-! ### The backwash ring (R315 to R317) -/

/-- The ring in force of a weir: base, size, ON. -/
def ringBase (x : Weir) : Nat := bits x.cfg 41 20 * 2 ^ 20
def ringBytes (x : Weir) : Nat := 2 ^ (20 + bits x.cfg 51 48)
def ringOn (x : Weir) : Bool := bit x.cfg 0
def ringUsed (x : Weir) : Nat := (x.log.map Prod.snd).foldl (· + ·) 0

/-- Bytes written at a position of the ring, modulo its size. -/
def ringWrite (d : Dev) (x : Weir) (pos : Nat) (bs : List Byte) : Dev :=
  let p := pos % ringBytes x
  let n := ringBytes x - p
  ctlWrite (ctlWrite d (ringBase x + p) (bs.take n)) (ringBase x) (bs.drop n)

/-- `n` bytes at a position of the ring, modulo its size. -/
def ringRead (m : List Host.Cell) (x : Weir) (pos n : Nat) : List Byte :=
  let p := pos % ringBytes x
  let k := min n (ringBytes x - p)
  memRead m (ringBase x + p) k ++ memRead m (ringBase x) (n - k)

/-- WEI_BWUSED follows the log. -/
def showRing (d : Dev) (w : Nat) : Dev :=
  let a := A.WEI_BWUSED (w / 4) (w % 4)
  let u := ringUsed (weirOf d w)
  fset (fset d a F.WEI_BWUSED_USED u) a F.WEI_BWUSED_HIGH (max u (fget d a F.WEI_BWUSED_HIGH))

/-- One entry logged (R315, R316). -/
def ringLog (d : Dev) (w : Nat) (c : WeiCmd) (layout raddr : Nat) (cnt : Option (Nat × Nat)) (old : List Byte) : Dev :=
  let x := weirOf d w
  let h := leBytes 8 (raddr % 2 ^ 42 + layout <<< 42 + (b2n cnt.isSome) <<< 44)
    ++ leBytes 8 ((cnt.map Prod.fst).getD 0 % 2 ^ 42)
    ++ leBytes 4 ((cnt.map Prod.snd).getD 0) ++ leBytes 4 c.step ++ leBytes 8 x.log.length ++ leBytes 8 (sidNow d)
    ++ List.replicate 24 0
  let bs := h ++ old
  let d := ringWrite d x x.pos bs
  showRing (setWeir d w { x with log := (x.pos, bs.length) :: x.log, pos := (x.pos + bs.length) % ringBytes x }) w

/-- The ring emptied; the written configuration comes into force (R315, R336). -/
def ringEmpty (d : Dev) (w : Nat) : Dev :=
  let cfg := (sget (regReset (A.WEI_BW (w / 4) (w % 4))) (A.WEI_BW (w / 4) (w % 4)) d.live).toNat
  showRing (setWeir d w { weirOf d w with log := [], pos := 0, cfg := cfg }) w

/-! ### Groups (R299 to R310, R318, R323) -/

/-- A byte by local offset, also of the basins (R143). -/
def localByte (d : Dev) (a : Nat) : Byte := if inWindow a 1 then windowByte d a else memGet d.mem a

/-- The number of `k` bytes by local offset. -/
def localNat (d : Dev) (a k : Nat) : Nat := leNat ((List.range k).map (fun i => localByte d (a + i)))

/-- Bytes stored by local offset. -/
def localWrite (d : Dev) (a : Nat) (bs : List Byte) : Dev :=
  if inWindow a 1 then windowWrite d a bs else ctlWrite d a bs

/-- The element at a record address. -/
def readElem (m : List Host.Cell) (layout a : Nat) : Elem :=
  let f (i : Nat) : FVal := dec32 (memNat m (a + i) 4)
  match layout with
  | 0 => ⟨f 0, f 4, f 8⟩
  | 1 => ⟨fzero, f 0, fzero⟩
  | _ => ⟨f 0, fzero, fzero⟩

/-- The bytes of an updated element. -/
def elemBytes (layout : Nat) (x : Elem) : List Byte :=
  match layout with
  | 0 => leBytes 4 (enc32 x.w) ++ leBytes 4 (enc32 x.s1) ++ leBytes 4 (enc32 x.s2)
  | 1 => leBytes 4 (enc32 x.s1)
  | _ => leBytes 4 (enc32 x.w)

/-- Codes of `w` bits packed from bit 0 up (R104). -/
def packCodes (w : Nat) : List Nat → Nat
  | [] => 0
  | c :: r => c % 2 ^ w + packCodes w r <<< w

/-- The roundings of the 256 elements from index i0 on (R118, R120, R305). -/
def narrowRnd (d : Dev) (j : WeiJob) (rnd i0 : Nat) : List Rnd :=
  let seed := liveGet d (A.WEI_SEED (j.w / 4)) F.WEI_SEED_SEED
  let gid := fget d (A.EPH_ENT j.e.entry) F.EPH_ENT_GID
  (List.range 256).map (fun k => if rnd = 2 then .sr (srBits seed j.c.pstep gid (i0 + k)) else rndOf rnd)

/-- The narrow copy of one group: its bytes, for MX its scale bytes, and the events (R305). -/
def narrowCodes (nfmt : Nat) (mds : List Rnd) (ws : List FVal) : List Byte × List Byte × Events :=
  let w := elemBits nfmt
  if isMx nfmt then
    let bs := ((chunks 32 8 ws).zip (chunks 32 8 mds)).map (fun p => convMx nfmt p.2 false p.1)
    (leBytes (32 * w) (packCodes w (bs.map (fun b => b.2.1)).flatten), bs.map (fun b => BitVec.ofNat 8 b.1),
      bs.foldl (fun a b => a.add b.2.2) noEvents)
  else
    let cs := (ws.zip mds).map (fun p => convTo nfmt p.2 false p.1)
    (leBytes (32 * w) (packCodes w (cs.map (·.code))), [], cs.foldl (fun a c => a.add c.ev) noEvents)

/-- The narrow copy of group G written to slot k with rounding `rnd`. -/
def narrowWrite (d : Dev) (j : WeiJob) (k G rnd : Nat) (ws : List FVal) : Dev × Events :=
  let i0 := 256 * (j.e.gidx0 + G)
  let o := narrowCodes j.e.nfmt (narrowRnd d j rnd i0) ws
  let d := ctlWrite d (slotBase d k + i0 * elemBits j.e.nfmt / 8) o.1
  (if isMx j.e.nfmt then ctlWrite d (j.e.scbase + i0 / 32) o.2.1 else d, o.2.2)

/-- The newest LIVE slot of an entry (R306). -/
def newestLive (d : Dev) (e : Nat) : Option Nat :=
  ((entrySlots e).filter (fun k => decide (slotState d k = 4))).foldl (fun best k => match best with
    | none => some k
    | some b => if tagOlder (slotTag d b) (slotTag d k) then some k else some b) none

/-- One WEI_NONFIN for the command at its first non-finite element (R318). -/
def weiNonfin (d : Dev) (w : Nat) (c : WeiCmd) (bad : Bool) : Dev × WeiCmd :=
  if bad && !c.nonfin then (weiCmdRaise d w c 0x89 (weiDetail c), { c with nonfin := true }) else (d, c)

/-- A group of a row that is not updated: its narrow bytes are copied, or converted with RNE (R306). -/
def weiCopyRow (d : Dev) (j : WeiJob) (k G : Nat) : Dev × WeiCmd :=
  let nb := 32 * elemBits j.e.nfmt
  let off := 256 * (j.e.gidx0 + G) * elemBits j.e.nfmt / 8
  match newestLive d j.e.entry with
  | some l =>
    let d := ctlTouch d (slotBase d l + off) nb
    (ctlWrite d (slotBase d k + off) (memRead d.mem (slotBase d l + off) nb), j.c)
  | none =>
    let ws := (List.range 256).map (fun i => (readElem d.mem 0 (j.e.rbase + (G * 256 + i) * 12)).w)
    let (d, ev) := narrowWrite d j k G 0 ws
    let d := reportEvents d (j.w / 4) true j.c.step srcWEI j.c.op.toNat ev
    weiNonfin d j.w j.c (ws.any (fun x => !x.isFinite))

/-- One element of a group after the recurrence: what is kept, g, and its events (R113, R318). -/
structure ElemOut where
  old : Elem
  new : Elem
  g : FVal
  kept : Bool
  ev : Events

/-- The elements of a worked group. -/
def weiElems (d : Dev) (j : WeiJob) (G t : Nat) : List ElemOut :=
  let r := j.r
  let c1 := biasFactor r.k1 r.bb1 r.bc1 t
  let c2 := biasFactor r.k2 r.bb2 r.bc2 t
  let eta := mul32 (dec32 j.c.eta) r.etam
  let lam := mul32 (dec32 j.c.lambda) r.lamm
  let invls := dec32 j.c.invls
  let rb := recordSize r.layout
  (List.range 256).map (fun i =>
    let old := readElem d.mem r.layout (j.e.rbase + (G * 256 + i) * rb)
    if r.layout = 2 then ⟨old, old, fzero, !old.w.isFinite, noEvents⟩
    else
      let gsrc := decElem j.e.gfmt (localNat d (j.e.gbase + (G * 256 + i) * j.gb) j.gb) 127
      let o := weiElem r c1 c2 eta lam invls old gsrc
      let bad := !o.2.isFinite || !o.1.s1.isFinite || (decide (r.layout = 0) && (!o.1.s2.isFinite || !o.1.w.isFinite))
      ⟨old, if bad then old else o.1, o.2, bad, ⟨0, b2n (!gsrc.isFinite), b2n bad⟩⟩)

/-- The values that a group passes to the astrolabe (R323, R343). -/
def weiTerms (layout : Nat) (xs : List ElemOut) : List NormTerm :=
  xs.map (fun x => match layout with
    | 0 => ⟨some x.new.w, some x.g, some (if x.kept then fzero else fsub x.new.w x.old.w), none⟩
    | 1 => ⟨none, some x.g, none, some x.new.s1⟩
    | _ => ⟨some x.new.w, none, none, none⟩)

/-- A worked group: entry of the ring, count, records, narrow copy, events, statistics, in that order (R299, R309,
R316, R318, R323). `t` is the count of R302, `cnt` the row count's address and old value in the first group of a row. -/
def weiWorkGroup (d : Dev) (j : WeiJob) (G t : Nat) (cnt : Option (Nat × Nat)) (logged : Bool) : Dev × WeiCmd :=
  let r := j.r
  let rb := recordSize r.layout
  let ra := j.e.rbase + G * 256 * rb
  let d := ctlTouch (ctlTouch d ra (256 * rb)) (j.e.gbase + G * 256 * j.gb) (if r.layout = 2 then 0 else 256 * j.gb)
  let xs : List ElemOut := weiElems d j G t
  let d := if logged then ringLog d j.w j.c r.layout ra cnt (memRead d.mem ra (256 * rb)) else d
  let d : Dev := match cnt with
    | some c => ctlWrite d c.1 (leBytes 4 t)
    | none => d
  let out (p : ElemOut × Nat) : List Byte :=
    if p.1.kept then memRead d.mem (ra + rb * p.2) rb else elemBytes r.layout p.1.new
  let d : Dev := if r.layout = 2 then d else ctlWrite d ra (xs.zipIdx.map out).flatten
  let (d, ev) := match j.c.slot with
    | some k => if j.narrow then narrowWrite d j k G r.rnd (xs.map (fun x : ElemOut => x.new.w)) else (d, noEvents)
    | none => (d, noEvents)
  let h := j.w / 4
  let d := reportEvents d h true j.c.step srcWEI j.c.op.toNat ((xs.foldl (fun (a : Events) x => a.add x.ev) noEvents).add ev)
  let d := normGroup d h j.c.step j.e.entry (decide (r.layout = 0)) (weiTerms r.layout xs)
  let d := count d h 0x400 (j.w % 4) 1 false
  let d := if logged then count d h 0x401 (j.w % 4) 1 false else d
  weiNonfin d j.w j.c (xs.any (·.kept))

/-- A group of a CLRM: in the first group of a touched row, its gradients become zero and then TOUCHED is cleared
(R310). -/
def clrmGroup (d : Dev) (j : WeiJob) (G : Nat) : Dev :=
  let row := G / j.e.rowg
  if G % j.e.rowg = 0 ∧ (rowBits d j.e row).testBit 0 = true then
    let d := localWrite d (j.e.gbase + G * 256 * j.gb) (List.replicate (j.e.rowg * 256 * j.gb) 0)
    let ma := j.e.mbase + 8 * (row / 32)
    ctlWrite d ma (leBytes 8 (putBits (memNat d.mem ma 8) (2 * (row % 32)) (2 * (row % 32)) 0))
  else d

/-- The group must be logged: a speculative command's before the verdict of its step, FULL or STAT (R313, R314). -/
def mustLog (d : Dev) (j : WeiJob) : Bool :=
  !j.clrm && j.c.spec && decide (j.r.layout ≤ 1) && !stepCommitted d j.c.step

/-- One wait of a weir begins: for a slot, or for ring space with WEI_BWFULL once in a step (R317). -/
def weirWait (d : Dev) (w : Nat) (c : WeiCmd) (ring : Bool) : Dev :=
  let x := weirOf d w
  let d := setWeir d w { x with cur := some c, waitAt := if x.waitAt = 0 then d.now + 1 else x.waitAt, waitRing := ring }
  if ring && x.full != c.step + 1 then
    let d := setWeir d w { weirOf d w with full := c.step + 1 }
    weiCmdRaise d w c 0x8A (ringUsed x)
  else d

/-- A weir's wait, if it has one, is over: its cycles are counted (source 0x402). -/
def weirGo (d : Dev) (w : Nat) : Dev :=
  let x := weirOf d w
  if x.waitAt = 0 then d
  else setWeir (count d (w / 4) 0x402 (w % 4) ((d.now - (x.waitAt - 1)) / 2) false) w
    { x with waitAt := 0, waitRing := false, waitSaid := false }

/-- One group of a command (R306 to R310, R317): none where it waits for ring space. -/
def weiGroup (d : Dev) (j : WeiJob) : Option (Dev × WeiCmd) :=
  let c := j.c
  let G := j.g0 + c.next
  let next (p : Dev × WeiCmd) : Option (Dev × WeiCmd) := some (p.1, { p.2 with next := p.2.next + 1 })
  if j.clrm then next (clrmGroup d j G, c)
  else
    let logged := mustLog d j
    let x := weirOf d j.w
    let room := ringOn x && decide (ringUsed x + 64 + 256 * recordSize j.r.layout ≤ ringBytes x)
    if !j.e.sparse then
      if logged && !room then none
      else next (weiWorkGroup d j G ((c.pstep + 2 ^ 32 - j.e.torg + 1) % 2 ^ 32) none logged)
    else
      let row := G / j.e.rowg
      let head := decide (G % j.e.rowg = 0)
      let ca := j.e.cbase + 4 * row
      let cnt := memNat d.mem ca 4
      let rowT := if head then (if rowBits d j.e row = 1 then some ((cnt + 1) % 2 ^ 32) else none) else c.rowT
      match rowT with
      | none => next (weiCopyRow d { j with c := { c with rowT := none } } (c.slot.getD 0) G)
      | some t =>
        if logged && !room then none
        else next (weiWorkGroup d { j with c := { c with rowT := some t } } G t (if head then some (ca, cnt) else none) logged)

/-- The groups of a running command, one after the other, until the last or until one waits. -/
def weiGroups (w : Nat) : Nat → Dev → Dev
  | 0, d => d
  | fuel + 1, d =>
    match (weirOf d w).cur with
    | none => d
    | some c =>
      let j := jobOf d w c
      if j.e.sg ≤ c.next then d
      else match weiGroup d j with
      | none => weirWait d w c true
      | some (d, c) => weiGroups w fuel (setWeir (weirGo d w) w { weirOf (weirGo d w) w with cur := some c })

/-! ### Commands begin (R298, R304, R326, R327) -/

/-- A command is discarded (R325). -/
def weiDiscard (d : Dev) (w : Nat) : Dev :=
  freeCondemned (weiNote (setWeir (weirGo d w) w { weirOf (weirGo d w) w with cur := none }) w 3 1)

/-- What a weir does with the command it has taken and not begun, or which waits for its slot: it begins, waits or is
discarded. -/
def weiBegin (d : Dev) (w : Nat) (c : WeiCmd) : Dev :=
  let fail (d : Dev) (c : WeiCmd) (number detail : Nat) : Dev := weiCmdRaise (weiDiscard d w) w c number detail
  let op := c.op.toNat
  if (wcOp op ≠ 1 ∧ wcOp op ≠ 2) ∨ selDefined (wcSel op) = false then fail d c 0x80 (weiDetail c)
  else match wstWords d (w / 4) (wcDesc op) with
  | none => fail d c 0x81 0
  | some words =>
    let c := { c with ent := words }
    let j := jobOf d w c
    let tests (d : Dev) (c : WeiCmd) (k : Nat) : Dev :=
      let j := jobOf d w c
      if weiEncBad j then fail d c 0x80 (weiDetail c)
      else match weiAddrBad d j k with
      | some a => fail d c 0x81 a
      | none => weiGroups w j.e.sg (setWeir (weirGo d w) w { weirOf (weirGo d w) w with cur := some c })
    if !j.narrow then tests d c 0
    else match ephRequest d j.e.entry c.pstep with
    | .error f => ephRaise (weiDiscard d w) f 0 c.spc c.strand (w / 4)
    | .ok (d, none) => weirWait d w { c with ent := [] } false
    | .ok (d, some k) => tests d { c with slot := some k } k

/-- R351: the command's step has the parity of a claimed bank, and the SNAP does not itself wait for the command. -/
def weiHeld (d : Dev) (c : WeiCmd) : Bool :=
  snapHolds d c.step && !(bankPend d 0 c.step && decide (c.step = bankTag d 0 c.step)
    && decide (c.serial < d.ast.snapSerial))

/-- The half's queue hands over its head while the weir it names has room; a stopped block refuses it (R326, R329). -/
def weiDispatch (h : Nat) : Nat → Dev → Dev
  | 0, d => d
  | fuel + 1, d =>
    match weiQueue d h with
    | [] => d
    | c :: r =>
      let w := 4 * h + wcWeir c.op.toNat
      if stOf d (A.WEI_STS h) = 2 then d
      else if stOf d (A.WEI_STS h) ≠ 1 then
        let d := weiNote (weiNote (setWeiQueue d h r) w 1 1) w 3 1
        weiDispatch h fuel (weiCmdRaise d w c 0x82 (weiDetail c))
      else if 8 ≤ (weirOf d w).queue.length then d
      else
        let d := weiNote (setWeiQueue d h r) w 1 1
        weiDispatch h fuel (setWeir d w { weirOf d w with queue := (weirOf d w).queue ++ [c] })

/-- A weir takes its next command, or goes on with one that waits. -/
def weirPump (w : Nat) : Nat → Dev → Dev
  | 0, d => d
  | fuel + 1, d =>
    let x := weirOf d w
    match x.cur with
    | some c =>
      if c.ent.isEmpty then
        let d := weiBegin d w c
        if (weirOf d w).cur.isNone then weirPump w fuel d else d
      else weiGroups w (wstFields c.ent).sg d
    | none =>
      match x.queue with
      | [] => d
      | c :: r =>
        if weiHeld d c then d
        else
          let d := setWeir d w { x with cur := some c, queue := r }
          weirPump w fuel d

/-- The weirs go on after a change: queues are handed over and every weir runs as far as it can; `fuel` rounds. -/
def weiPump : Nat → Dev → Dev
  | 0, d => d
  | fuel + 1, d =>
    let d := weiDispatch 1 (weiQueue d 1).length (weiDispatch 0 (weiQueue d 0).length d)
    weiPump fuel ((List.range 8).foldl (fun d w => weirPump w (2 * (weirOf d w).queue.length + 2) d) d)

def weiRun (d : Dev) : Dev := weiPump ((weiQueue d 0).length + (weiQueue d 1).length + 2) d

/-! ### The WEI slot (R303, R313, R327, R328) -/

/-- The step parameters of a descriptor that an AWAITQ has consumed come into force in both halves (R303). -/
def weiParams (d : Dev) (step eta lambda invls : Nat) : Dev :=
  [0, 1].foldl (fun d h =>
    let d := fset (fset d (A.WEI_SPA h) F.WEI_SPA_STEP step) (A.WEI_SPA h) F.WEI_SPA_INVLS invls
    fset (fset d (A.WEI_SPB h) F.WEI_SPB_ETA eta) (A.WEI_SPB h) F.WEI_SPB_LAMBDA lambda) d

/-- A WEI command word issues: it takes its span, the parameters in force and its step, and joins the half's queue. -/
def weiPush (d : Dev) (iss : Issue) (word : BitVec 32) : Dev :=
  let d := settle (tick d iss.t)
  let h := hn iss.half
  let op := word.toNat
  let w := 4 * h + wcWeir op
  let spec := d.seq.stepOpen
  let c : WeiCmd :=
    { op := word, spc := (strandOf d iss.strand).lastSpc, strand := strandCode iss.strand,
      span := bits op 11 0 + idxSel d iss.strand (wcSel op), pstep := fget d (A.WEI_SPA h) F.WEI_SPA_STEP,
      eta := fget d (A.WEI_SPB h) F.WEI_SPB_ETA, lambda := fget d (A.WEI_SPB h) F.WEI_SPB_LAMBDA,
      invls := fget d (A.WEI_SPA h) F.WEI_SPA_INVLS, spec := spec,
      step := if spec then curStep d else (curStep d + 2 ^ 32 - 1) % 2 ^ 32, serial := weiSerial d, ent := [],
      slot := none, next := 0, rowT := none, nonfin := false }
  let d : Dev := d.withWei { d.wei with issued := sset 0 w (sget 0 w d.wei.issued + 1) d.wei.issued }
  weiRun (setWeiQueue (weiNote d w 0 1) h (weiQueue d h ++ [c]))

/-- A WEI op issues. -/
def weiIssue (d : Dev) (iss : Issue) (op : WeiOp) : Dev := weiPush d iss (encodeWei op)

/-- A slot word that names no op is a command too, whose tests its weir makes when it begins it (R327). -/
def weiIllegal (d : Dev) (iss : Issue) (word : Nat) : Dev := weiPush d iss (BitVec.ofNat 32 word)

/-! ### Completion (R307) -/

/-- A command that has written every group of its span ends; one with a narrow copy advances the build count. -/
def weiComplete (d : Dev) (w : Nat) : Dev :=
  match (weirOf d w).cur with
  | none => d
  | some c =>
    let j := jobOf d w c
    if c.ent.isEmpty ∨ c.next < j.e.sg then d
    else
      let d := weiNote (setWeir d w { weirOf d w with cur := none }) w 2 1
      let d := if j.narrow then
          let a := A.WEI_BUILD j.e.entry
          let n := fget d a F.WEI_BUILD_COUNT
          let max := liveGet d a F.WEI_BUILD_NSPAN + 1
          if max ≤ n then weiCmdRaise d w c 0x83 (weiDetail { c with next := c.next - 1 })
          else
            let d := fset d a F.WEI_BUILD_COUNT (n + 1)
            if n + 1 = max then
              (match c.slot with
               | some k => ephBuilt d k
               | none => d)
            else d
        else d
      weiRun (freeCondemned d)

/-- A command has waited longer than WEI_TMO.SLOT µs for its build slot (R304). -/
def weiNoslot (d : Dev) (w : Nat) : Dev :=
  let x := weirOf d w
  match x.cur with
  | none => d
  | some c =>
    if x.waitAt = 0 || x.waitRing || x.waitSaid || decide (d.now ≤ x.waitAt - 1 + us (fget d (A.WEI_TMO (w / 4)) F.WEI_TMO_SLOT)) then d
    else weiCmdRaise (setWeir d w { x with waitSaid := true }) w c 0x88 (weiDetail c)

/-! ### The verdict gate (R319 to R322) -/

/-- A clear verdict for step s: nothing of it is logged any more, and every ring is emptied. -/
def weiClear (d : Dev) (s : Nat) : Dev :=
  let d : Dev := d.withWei { d.wei with verdict := s + 1 }
  weiRun ((List.range 8).foldl (fun d w => ringEmpty d w) d)

/-- Commands that meet a test are discarded from the half's queue, the weir's queue and the weir. A command discarded
from the half's queue counts as dispatched. -/
def weiDrop (d : Dev) (w : Nat) (p : WeiCmd → Bool) : Dev :=
  let h := w / 4
  let mine (c : WeiCmd) : Bool := decide (4 * h + wcWeir c.op.toNat = w) && p c
  let q := weiQueue d h
  let n := (q.filter mine).length
  let d := weiNote (weiNote (setWeiQueue d h (q.filter (fun c => !mine c))) w 1 n) w 3 n
  let x := weirOf d w
  let d := weiNote (setWeir d w { x with queue := x.queue.filter (fun c => !p c) }) w 3 (x.queue.filter p).length
  match x.cur with
  | some c => if p c then weiDiscard d w else d
  | none => d

/-- Step 3 of an unwind of step s (R320): commands of the step are discarded, a running one stops. -/
def weiStop (d : Dev) (s : Nat) : Dev :=
  weiRun ((List.range 8).foldl (fun d w => weiDrop d w (fun c => c.spec && decide (c.step = s))) d)

/-- Step 5: every weir is to roll its ring back once its earlier commands are done. -/
def weiRollback (d : Dev) (s : Nat) : Dev :=
  (List.range 8).foldl (fun d w => setWeir d w { weirOf d w with rolling := some s }) d

/-- An entry of a ring as it stands in memory, with what R321 tests: it may be restored. -/
def entryOk (d : Dev) (w s : Nat) (prev : Option Nat) (h : List Byte) : Bool :=
  let a := leAt h 0 8
  let layout := bits a 43 42
  decide (leAt h 20 4 = s % 2 ^ 32) && (match prev with
      | none => true
      | some p => decide (leAt h 24 8 + 1 = p))
    && decide (layout ≤ 1) && inOwnStack d w (bits a 41 0) (256 * recordSize layout)
    && (!bit a 44 || inOwnStack d w (bits (leAt h 8 8) 41 0) 4)

/-- The entries of a ring restored from the newest to the oldest (R320, R321). -/
def ringRestore (w s : Nat) : Option Nat → List (Nat × Nat) → Dev → Dev
  | _, [], d => d
  | prev, (pos, _) :: r, d =>
    let x := weirOf d w
    let h := ringRead d.mem x pos 64
    if !entryOk d w s prev h then weiRaise d w 0x84 0 0 0 s 0
    else
      let a := leAt h 0 8
      let d := ctlWrite d (bits a 41 0) (ringRead d.mem x (pos + 64) (256 * recordSize (bits a 43 42)))
      let d := if bit a 44 then ctlWrite d (bits (leAt h 8 8) 41 0) (leBytes 4 (leAt h 16 4)) else d
      ringRestore w s (some (leAt h 24 8)) r d

/-- One weir's rollback. -/
def weirRestore (d : Dev) (w : Nat) : Dev :=
  let x := weirOf d w
  match x.rolling with
  | none => d
  | some s =>
    let d := ringRestore w s none x.log d
    let d := if x.log.isEmpty then d
      else count (finc d (A.WEI_WSTS (w / 4) (w % 4)) F.WEI_WSTS_ROLLBACKS 1) (w / 4) 0x403 (w % 4) 1 false
    let d := ringEmpty d w
    setWeir d w { weirOf d w with rolling := none }

/-- A rollback is in progress somewhere. -/
def rollingBack (d : Dev) : Bool := d.wei.weirs.any (fun w => w.2.rolling.isSome)

/-- Every weir has worked off the earlier commands that go before its rollback. -/
def rollbackReady (d : Dev) : Bool :=
  rollingBack d && (weiQueue d 0).isEmpty && (weiQueue d 1).isEmpty
    && d.wei.weirs.all (fun w => w.2.cur.isNone && w.2.queue.isEmpty)

/-- Every weir has emptied its ring: the rollback is reported complete (R320), which the sequencers observe (R39). -/
def rollbackComplete (d : Dev) : Dev :=
  if rollbackReady d then
    let d := (List.range 8).foldl weirRestore d
    govSet (d.withDrainAt (sset 0 (A.WEI_STS 0) d.now (sset 0 (A.WEI_STS 1) d.now d.drainAt))) .rollback 1
  else d

/-! ### Start and drain (R331, R332, R336) -/

/-- The rings of a half are configured so that the block can start (R331). -/
def weiConfigOk (d : Dev) (h : Nat) : Bool :=
  (List.range 4).all (fun k =>
    let a := A.WEI_BW h k
    let size := 2 ^ (20 + fget d a F.WEI_BW_LOGSZ)
    let base := fget d a F.WEI_BW_BASE * 2 ^ 20
    decide (fget d a F.WEI_BW_ON = 0) || (decide (fget d a F.WEI_BW_LOGSZ ≤ 11) && decide (base % size = 0)
      && inOwnStack d (4 * h + k) base size))

/-- The first weir whose ring keeps the block from starting. -/
def weiConfigBad (d : Dev) (h : Nat) : Nat :=
  ((List.range 4).find? (fun k =>
    let a := A.WEI_BW h k
    let size := 2 ^ (20 + fget d a F.WEI_BW_LOGSZ)
    let base := fget d a F.WEI_BW_BASE * 2 ^ 20
    decide (fget d a F.WEI_BW_ON = 1) && !(decide (fget d a F.WEI_BW_LOGSZ ≤ 11) && decide (base % size = 0)
      && inOwnStack d (4 * h + k) base size))).getD 0

/-- A start of a half's weirs: rules, seed, rings and span counts come into force; a ring that is not empty keeps its
configuration until it has been emptied. -/
def weiStart (d : Dev) (h : Nat) : Dev :=
  let d := latchRange d (A.WEI_RULE0 h 0) (A.WEI_RULE7 h 15)
  let d := latch d ([A.WEI_SEED h] ++ (List.range 4).map (A.WEI_BW h))
  let d := if h = 0 then latchRange d (A.WEI_BUILD 0) (A.WEI_BUILD 2047) else d
  weiRun ((List.range 4).foldl (fun d k =>
    if (weirOf d (4 * h + k)).log.isEmpty then ringEmpty d (4 * h + k) else d) d)

/-- A drain of a half's weirs begins: each weir discards its commands, and one that had any reports it. -/
def weiDrain (d : Dev) (h : Nat) : Dev :=
  (range' (4 * h) 4).foldl (fun d w =>
    let x := weirOf d w
    if x.cur.isNone && x.queue.isEmpty then d
    else
      let n := x.queue.length
      let d := weiNote (setWeir d w { x with queue := [] }) w 3 n
      let d := if x.cur.isSome then weiDiscard d w else d
      weiRaise d w 0x8B 0 0 0 0 0) d

/-- A half's drain can end: no rollback is in progress. -/
def weiDrained (d : Dev) (h : Nat) : Bool := (range' (4 * h) 4).all (fun w => (weirOf d w).rolling.isNone)

/-- The commands still in a half's queue are discarded: at the bound of a sequencer drain (R96), and at a start that
was pending when the block's drain ended (R28). -/
def weiDropQueue (d : Dev) (h : Nat) : Dev :=
  let q := weiQueue d h
  let d := setWeiQueue d h []
  q.foldl (fun d c =>
    let w := 4 * h + wcWeir c.op.toNat
    weiNote (weiNote d w 1 1) w 3 1) d

/-! ### The meanings of the commands -/

/-- WEIR_COMMAND_COMPLETE (R307). -/
def execWeirCommandComplete (half : Half) (weir : BitVec 2) (s : State) : Host.Outcome State Fault Refusal :=
  act (fun d => weiComplete d (4 * hn half + weir.toNat)) s

/-- WEI_NOSLOT (R304). -/
def execWeiNoslot (t : Nat) (half : Half) (weir : BitVec 2) (s : State) : Host.Outcome State Fault Refusal :=
  act (fun d => weiNoslot (tick d t) (4 * hn half + weir.toNat)) s

/-- ROLLBACK_COMPLETE (R320). -/
def execRollbackComplete (s : State) : Host.Outcome State Fault Refusal := act rollbackComplete s

/-- SNAP_EMIT (R348). The weirs that R351 held go on. -/
def execSnapEmit (s : State) : Host.Outcome State Fault Refusal := act (fun d => weiRun (snapEmit d)) s

/-! ### The meanings of the commands -/

/-- UPD (R299). -/
def execUpd (iss : Issue) (weir : BitVec 2) (desc : BitVec 10) (sel : BitVec 4) (span0 : BitVec 12) (s : State) :
    Host.Outcome State Fault Refusal :=
  act (fun d => weiIssue d iss (.upd weir desc sel span0)) s

/-- CLRM (R310). -/
def execClrm (iss : Issue) (weir : BitVec 2) (desc : BitVec 10) (sel : BitVec 4) (span0 : BitVec 12) (s : State) :
    Host.Outcome State Fault Refusal :=
  act (fun d => weiIssue d iss (.clrm weir desc sel span0)) s

end Sys2Proof.Machine
end

