-- ==== Sys2Proof/Machine/Aqd.lean ====
section
/-! DEFINITION. The aqueduct: the AQD slot, channels, bursts, remote requests, completion and discards (12, with
R483 and R561 to R563). -/

namespace Sys2Proof.Machine

/-! ### Descriptors (R420 to R422) -/

/-- The eight words of entry `n` of a half's aqueduct descriptor table, if the table has it. -/
def adtEntry (d : Dev) (h n : Nat) : Option (List Nat) :=
  let t := (halfTables d h).adt
  if 8 * n + 7 < t.length then some ((t.drop (8 * n)).take 8) else none

/-- Fields of an entry. -/
def adWord (e : List Nat) (i : Nat) : Nat := e.getD i 0
def adSbase (e : List Nat) : Nat := bits (adWord e 0) 41 0
def adSspace (e : List Nat) : Nat := bits (adWord e 0) 43 42
def adSwrap (e : List Nat) : Nat := bits (adWord e 0) 49 44
def adSel (e : List Nat) (i : Nat) : Nat := bits (adWord e 0) (53 + 4 * i) (50 + 4 * i)
def adDbase (e : List Nat) : Nat := bits (adWord e 1) 41 0
def adDspace (e : List Nat) : Nat := bits (adWord e 1) 43 42
def adDwrap (e : List Nat) : Nat := bits (adWord e 1) 49 44
def adSstr (e : List Nat) (i : Nat) : Int := signed 32 (bits (adWord e 2) (31 + 32 * i) (32 * i))
def adDstr (e : List Nat) (i : Nat) : Int := signed 32 (bits (adWord e 3) (31 + 32 * i) (32 * i))
def adIbase (e : List Nat) : Nat := bits (adWord e 4) 41 0
def adChip (e : List Nat) : Nat := bits (adWord e 4) 55 42
def adRing (e : List Nat) : Nat := bits (adWord e 4) 63 56
def adLen (e : List Nat) : Nat := bits (adWord e 5) 31 0
def adNrowm1 (e : List Nat) : Nat := bits (adWord e 5) 55 32
def adKind (e : List Nat) : Nat := bits (adWord e 5) 57 56
def adAtom (e : List Nat) : Bool := bit (adWord e 5) 58
def adVc (e : List Nat) : Nat := if bit (adWord e 5) 59 then 4 else 2
def adAtop (e : List Nat) : Nat := bits (adWord e 5) 63 60
def adSrstr (e : List Nat) : Int := signed 32 (bits (adWord e 6) 31 0)
def adDrstr (e : List Nat) : Int := signed 32 (bits (adWord e 6) 63 32)
def adTmap (e : List Nat) : Nat := bits (adWord e 7) 41 0
def adTouch (e : List Nat) : Bool := bit (adWord e 7) 42

/-- A wrap field's value is one that R420 defines. -/
def wrapOk (w : Nat) : Bool := w == 0 || (decide (12 ≤ w) && decide (w ≤ 41))

/-- The entry is an illegal encoding of every XFER that names it (R422); `epd` says that the destination base comes
from a resolution. -/
def adtBad (d : Dev) (e : List Nat) (epd : Bool) : Bool :=
  let align : Nat := if adAtom e && adAtop e == 11 then 8 else 4
  decide (bits (adWord e 0) 63 58 ≠ 0) || decide (bits (adWord e 1) 63 50 ≠ 0) || decide (bits (adWord e 7) 63 43 ≠ 0)
    || adSspace e == 3 || adDspace e == 3 || !wrapOk (adSwrap e) || !wrapOk (adDwrap e)
    || !selDefined (adSel e 0) || !selDefined (adSel e 1) || adKind e == 3 || decide (11 < adAtop e)
    || (adSspace e != 0 && adDspace e != 0)
    || adLen e == 0 || decide (adSbase e % align ≠ 0) || decide (adDbase e % align ≠ 0) || decide (adLen e % align ≠ 0)
    || decide (adSrstr e % align ≠ 0) || decide (adDrstr e % align ≠ 0) || decide (adIbase e % align ≠ 0)
    || (adAtom e && (adDspace e == 2 || (adDspace e == 0 && !epd && !inStackByte d (adDbase e))))
    || (adTouch e && (adKind e != 2 || decide (adTmap e % 8 ≠ 0)))

/-! ### A transfer's addresses (R421, R426) -/

def xEps (x : Xfer) : Bool := bit x.op.toNat 20
def xEpd (x : Xfer) : Bool := bit x.op.toNat 19
def xGp (x : Xfer) : Bool := bit x.op.toNat 18
def xNote (x : Xfer) : Bool := bit x.op.toNat 17
def xChan (x : Xfer) : Nat := bits x.op.toNat 35 31

/-- Space, base and wrap of each side; a resolved base makes its side LOCAL without a wrap. -/
def xSspace (x : Xfer) : Nat := if x.sres.isSome then 0 else adSspace x.ent
def xDspace (x : Xfer) : Nat := if x.dres.isSome then 0 else adDspace x.ent
def xSbase (x : Xfer) : Nat := x.sres.getD (adSbase x.ent)
def xDbase (x : Xfer) : Nat := x.dres.getD (adDbase x.ent)
def xSwrap (x : Xfer) : Nat := if x.sres.isSome then 0 else adSwrap x.ent
def xDwrap (x : Xfer) : Nat := if x.dres.isSome then 0 else adDwrap x.ent

/-- Source and destination offsets of byte `b` of row `j`, whose list index is `ix`. -/
def xSo (x : Xfer) (j : Nat) (ix : Int) (b : Nat) : Int :=
  64 * x.ms + (if adKind x.ent = 1 then ix else (j : Int)) * adSrstr x.ent + b
def xDo (x : Xfer) (j : Nat) (ix : Int) (b : Nat) : Int :=
  64 * x.md + (if adKind x.ent = 2 then ix else (j : Int)) * adDrstr x.ent + b

/-- The runs of addresses of `n` ≤ 4096 consecutive bytes from an offset, wrapped at 2^w; w = 0: no wrap. -/
def wrapRuns (base : Nat) (off : Int) (w n : Nat) : List (Int × Nat) :=
  if w = 0 then [((base : Int) + off, n)]
  else
    let o := (off % (2 ^ w : Int)).toNat
    let k := min n (2 ^ w - o)
    ((base + o : Nat), k) :: (if k < n then [((base : Int), n - k)] else [])

/-- Source runs beside destination runs, cut so that each piece is one run on both sides. -/
def pairRuns : Nat → List (Int × Nat) → List (Int × Nat) → List (Int × Int × Nat)
  | f + 1, (a, m) :: s, (b, n) :: t =>
    let k := min m n
    (a, b, k) :: pairRuns f (if k < m then (a + k, m - k) :: s else s) (if k < n then (b + k, n - k) :: t else t)
  | _, _, _ => []

/-- Bytes cut at the multiples of `m` of their addresses. -/
def pieces (m : Nat) : Nat → Nat → List Byte → List (Nat × List Byte)
  | 0, _, _ => []
  | f + 1, a, bs =>
    if bs.isEmpty then []
    else
      let k := m - a % m
      (a, bs.take k) :: pieces m f (a + k) (bs.drop k)

/-! ### The channel's transfers -/

/-- A transfer of a channel replaced. -/
def setXfer (d : Dev) (h c : Nat) (x : Xfer) : Dev :=
  setChan d h c ((chanOf d h c).map (fun y => if y.serial = x.serial then x else y))

/-- A transfer of a channel. -/
def xferOf (d : Dev) (h c serial : Nat) : Option Xfer := (chanOf d h c).find? (fun x => x.serial == serial)

/-- Pieces of bursts of a transfer are in flight. -/
def inFlight (d : Dev) (serial : Nat) : Bool := d.aqd.reqs.any (fun r => r.serial == serial)

/-- Bursts in flight of a half, or of one channel (R428). -/
def burstsFlying (d : Dev) (h : Nat) (c : Option Nat) : Nat :=
  ((d.aqd.reqs.filter (fun r => r.half == h && r.owner != 2 && (match c with | some c => r.chan == c | none => true))).map
    (fun r => (r.serial, r.burst))).eraseDups.length

/-- The detail of AQD_ADDR and AQD_REMOTE (R438). -/
def aqdDetail (chip : Nat) (a : Int) (host : Bool) : Nat :=
  (a % (2 ^ 42 : Int)).toNat + (chip % 2 ^ 14) <<< 42 + (b2n host) <<< 63

/-- AQD_ADDR at a local address. -/
def xAddrFail (d : Dev) (x : Xfer) (a : Int) (host : Bool) : Dev :=
  xferFail d x.half (xChan x) x.serial 0xD1 3 (aqdDetail (ownChip d) a host)

/-- A host record of the interface (R575, R576). -/
def hstPost (d : Dev) (number sev ring index addr : Nat) : Dev :=
  let d := hstNote d number ring
  post d number sev 11 [ring + (index % 2 ^ 32) <<< 32, number <<< 32, addr, sidNow d]

/-- The descriptor at the head of a data ring (R561). In replay mode host memory is not reached, and the log stands in for
the descriptor (R648). -/
def headDesc (d : Dev) (ring : Nat) : Option DataDesc :=
  if liveGet d (A.HST_RCFG ring) F.HST_RCFG_KIND ≥ 2 ∧ stOf d (A.HST_RSTS ring) = 1 then
    if replayMode d then some ⟨0, 2 ^ 32⟩
    else ((ringH d ring).descs.find? (fun e => e.1 == (ringH d ring).head)).map Prod.snd
  else none

/-! ### Remote requests (R456, R483) -/

/-- A request to another chip leaves: it takes a tag, the egress port and that port's epoch. -/
def aqdRequest (d : Dev) (x : Xfer) (owner : Nat) (a dst : Int) (n : Nat) (bs : List Byte) (atop : Option Nat) : Dev :=
  let chip := adChip x.ent
  let tag := d.aqd.nextTag % 65535 + 1
  let port := (routeTo d chip).getD 0
  let off := (a % (2 ^ 42 : Int)).toNat
  let c := xChan x
  let r : Req := { tag := tag, oport := port, oepoch := epochOf d port, at' := d.now, owner := owner, half := x.half,
                   chan := c, rungen := fget d (A.AQD_CHSTS x.half c) F.RUNGEN, serial := x.serial, burst := x.bursts,
                   row := x.row, chip := chip, addr := off, dst := dst, len := n, data := none }
  let d : Dev := d.withAqd { d.aqd with reqs := d.aqd.reqs ++ [r], nextTag := tag }
  let w2 := tag + port <<< 16 + (epochOf d port) <<< 32
    + (match atop with | some o => 1 <<< 48 + o <<< 49 | none => 0)
  sendMsg (count d x.half 0x705 c 1 false)
    { dchip := chip, schip := ownChip d, mtype := if owner = 1 then 5 else 4, lepoch := 0, ttl := initTtl d,
      gp := xGp x && atop.isSome, w1 := off + (n - 1) <<< 42, w2 := w2, hi := 0, vc := adVc x.ent, data := bs }

/-! ### Writing a burst's bytes (R423, R424, R427) -/

/-- Local atomics, one for each line; the failing address where one is refused. -/
def atomLocal (d : Dev) (x : Xfer) (atop : Nat) (a : Nat) (bs : List Byte) : Dev × Option Int :=
  (pieces 128 bs.length a bs).foldl (fun r p =>
    match r.2 with
    | some _ => r
    | none =>
      let o := poolAtomic r.1 p.1 atop p.2 (xGp x) x.step
      (o.1, if o.2 then none else some (p.1 : Int))) (d, none)

/-- One run of a burst written to its destination. -/
def writeRun (d : Dev) (x : Xfer) (a : Int) (bs : List Byte) : Dev :=
  let h := x.half
  let c := xChan x
  let d := match xferOf d h c x.serial with
    | some y => setXfer d h c { y with last := some ((a + bs.length - 1) % (2 ^ 42 : Int)).toNat }
    | none => d
  let d := count d h 0x702 c (unitsUnder (a % (2 ^ 42 : Int)).toNat bs.length) false
  match xDspace x with
  | 0 =>
    match addrOf a with
    | none => xAddrFail d x a false
    | some o =>
      if adAtom x.ent then
        match atomLocal d x (adAtop x.ent) o bs with
        | (d, none) => d
        | (d, some b) => xAddrFail d x b false
      else
        match qWrite d o bs with
        | (d, true) => d
        | (d, false) => xAddrFail d x a false
  | 1 =>
    if adAtom x.ent then
      (pieces 128 bs.length (a % (2 ^ 42 : Int)).toNat bs).foldl (fun d p =>
        aqdRequest d x 1 p.1 0 p.2.length p.2 (some (adAtop x.ent))) d
    else aqdRequest d x 1 a 0 bs.length bs none
  | _ =>
    match headDesc d (adRing x.ent) with
    | none => d
    | some q =>
      if ¬(0 ≤ a ∧ a + bs.length ≤ q.len) then xAddrFail d x a true
      else
        let d := outNote d (ownChip d) 0x0A bs
        if replayMode d then d else hostWrite d (q.addr + a.toNat) bs

/-- The touched bit of row `r` of a SCATTER (R424). -/
def touchRow (d : Dev) (x : Xfer) (r : Nat) : Dev :=
  let a := adTmap x.ent + 8 * (r / 32)
  let bs := leBytes 8 (2 ^ (2 * (r % 32)))
  if xDspace x = 1 then aqdRequest d x 1 a 0 8 bs (some 11)
  else match atomLocal d x 11 a bs with
    | (d, none) => d
    | (d, some b) => xAddrFail d x b false

/-- The index of row `j`: the row itself for COPY, else the list's entry; none: the list lies at no local byte. -/
def listIndex (d : Dev) (x : Xfer) (j : Nat) : Dev × Option Int :=
  if adKind x.ent = 0 then (d, some (j : Int))
  else match qRead d (adIbase x.ent + 4 * j) 4 with
    | (d, some bs) => (d, some (signed 32 (leNat bs)))
    | (d, none) => (d, none)

/-- Once every burst of a row has been written, its touched bit is set. -/
def rowDone (d : Dev) (h c serial row : Nat) : Dev :=
  match xferOf d h c serial with
  | none => d
  | some x =>
    if adTouch x.ent && decide (row < x.row)
        && !(d.aqd.reqs.any (fun r => r.serial == serial && r.row == row && (r.owner == 0 || r.owner == 4))) then
      match listIndex d x row with
      | (d, some ix) => if 0 ≤ ix then touchRow d x ix.toNat else d
      | (d, none) => d
    else d

/-- A read of a channel that has come back, at the front of the channel's reads, is written (R429). -/
def aqdFlush (h c : Nat) : Nat → Dev → Dev
  | 0, d => d
  | fuel + 1, d =>
    match d.aqd.reqs.find? (fun r => r.half == h && r.chan == c && (r.owner == 0 || r.owner == 4)) with
    | none => d
    | some r =>
      match r.data with
      | none => d
      | some bs =>
        let d : Dev := d.withAqd { d.aqd with reqs := d.aqd.reqs.erase r }
        let d := match xferOf d h c r.serial with
          | some x => rowDone (writeRun d x r.dst bs) h c r.serial r.row
          | none => d
        aqdFlush h c fuel d

/-! ### What goes on without a command -/

/-- A stopped transfer with nothing in flight leaves its channel. -/
def buryXfers (d : Dev) (h c : Nat) : Dev :=
  let l := chanOf d h c
  let l' := l.filter (fun x => !(x.dead && !inFlight d x.serial))
  if l'.length = l.length then d else setChan d h c l'

/-- All bursts of a transfer have started. -/
def xStarted (x : Xfer) : Bool := decide (adNrowm1 x.ent < x.row)

/-- The read-back of a REMOTE transfer once its writes are acknowledged (R430). -/
def aqdReadBack (d : Dev) (h c : Nat) : Dev :=
  (chanOf d h c).foldl (fun d x =>
    if !x.dead && xStarted x && x.readBack == 0 && xDspace x == 1 && !inFlight d x.serial then
      match x.last with
      | none => d
      | some a =>
        let y : Xfer := { x with readBack := 1, ackAt := d.now }
        aqdRequest (setXfer d h c y) y 2 ((a / 64 * 64 : Nat) : Int) 0 64 [] none
    else d) d

/-- A channel that discards its transfers has no burst in flight: DISCARDED takes every transfer not completed (R433). -/
def aqdDiscardEnd (d : Dev) (h c : Nat) : Dev :=
  let d := setChan d h c []
  let d : Dev := d.withAqd { d.aqd with since := sset 0 (32 * h + c) 0 d.aqd.since }
  aqdDiscarded d h c (aqdOutOf d h c)

/-- Pieces of bursts of a channel's present run are in flight. -/
def chanFlying (d : Dev) (h c : Nat) : Bool :=
  d.aqd.reqs.any (fun r => r.half == h && r.chan == c && r.rungen == fget d (A.AQD_CHSTS h c) F.RUNGEN)

/-- The transfer whose burst the channel would start next, in its order (R429). -/
def nextXfer (d : Dev) (h c : Nat) : Option Xfer :=
  (chanOf d h c).find? (fun x => !x.dead && !xStarted x)

/-- A side of a transfer is HOST. -/
def xHost (x : Xfer) : Bool := xSspace x == 2 || xDspace x == 2

/-- A channel has a burst ready (R428). -/
def burstReady (d : Dev) (h c : Nat) : Bool :=
  running d (.aqd (if h = 0 then .A else .B) c) && decide (burstsFlying d h (some c) < 4) &&
    (match nextXfer d h c with
     | some x => !xHost x || (headDesc d (adRing x.ent)).isSome
     | none => false)

/-- A HOST transfer at the front with no descriptor at its ring's head waits from now on (R563). -/
def noteHost (d : Dev) (h c : Nat) : Dev :=
  match nextXfer d h c with
  | none => d
  | some x =>
    let waits := xHost x && (headDesc d (adRing x.ent)).isNone
    if waits && x.waitHost == 0 then setXfer d h c { x with waitHost := d.now + 1 }
    else if !waits && x.waitHost != 0 then setXfer d h c { x with waitHost := 0 }
    else d

/-- Since when the channel's next burst has been ready; the cycles are counted when it starts (0x703). -/
def noteReady (d : Dev) (h c : Nat) : Dev :=
  let k := 32 * h + c
  let w := sget 0 k d.aqd.ready
  let r := burstReady d h c
  if r && w == 0 then (d.withAqd { d.aqd with ready := sset 0 k (d.now + 1) d.aqd.ready })
  else if !r && w != 0 then (d.withAqd { d.aqd with ready := sset 0 k 0 d.aqd.ready })
  else d

def aqdQueue (d : Dev) (q : Nat) : List Xfer := sget [] q d.aqd.queues

/-- A port's queue replaced; its fill travels to the sequencers (R38, R39). -/
def setAqdQueue (d : Dev) (q : Nat) (l : List Xfer) : Dev :=
  let n := (aqdQueue d q).length
  let d : Dev := d.withAqd { d.aqd with queues := sset [] q l d.aqd.queues }
  if n = l.length then d else govSet d (.qfill (q / 2) (2 + q % 2)) l.length

/-- Transfers that a channel holds and has not begun (R427, R436). -/
def heldXfers (d : Dev) (h c : Nat) : Nat := ((chanOf d h c).filter (fun x => !x.dead && x.bursts == 0)).length

/-- The head of a port's queue moves to its channel, as long as it can (R427); a channel that is not RUNNING raises
AQD_OFF. -/
def aqdMove (q : Nat) : Nat → Dev → Dev
  | 0, d => d
  | fuel + 1, d =>
    match aqdQueue d q with
    | [] => d
    | x :: r =>
      let h := q / 2
      let c := xChan x
      if !running d (.aqd (if h = 0 then .A else .B) c) then
        aqdMove q fuel (aqdRaise (aqdDiscarded (setAqdQueue d q r) h c 1) 0xD2 3 h c x.op.toNat x.spc x.strand 0)
      else if heldXfers d h c < 32 then aqdMove q fuel (setChan (setAqdQueue d q r) h c (chanOf d h c ++ [x]))
      else d

/-- What a channel does without a command. -/
def chanTidy (d : Dev) (k : Nat) : Dev :=
  let h := k / 32
  let c := k % 32
  let d := aqdReadBack (buryXfers (aqdFlush h c d.aqd.reqs.length d) h c) h c
  let d := if sget 0 k d.aqd.since ≠ 0 ∧ stOf d (A.AQD_CHSTS h c) = 1 ∧ chanFlying d h c = false then aqdDiscardEnd d h c
    else d
  noteReady (noteHost d h c) h c

/-- The aqueduct goes on after a change. -/
def aqdRun (d : Dev) : Dev :=
  let d := [0, 1, 2, 3].foldl (fun d q => aqdMove q (aqdQueue d q).length d) d
  ((d.aqd.chans.map Prod.fst ++ d.aqd.since.map Prod.fst ++ d.aqd.ready.map Prod.fst).eraseDups).foldl chanTidy d

/-! ### Issue (R425, R426, R431) -/

/-- An AQD slot that is an illegal encoding (R425). -/
def aqdIllegal (d : Dev) (iss : Issue) (_port word : Nat) : Dev :=
  let d := tick d iss.t
  aqdRaise d 0xD0 3 (hn iss.half) (bits word 35 31) word (strandOf d iss.strand).lastSpc (strandCode iss.strand)
    0

/-- An AQD op issues. -/
def aqdIssue (d : Dev) (iss : Issue) (port : Nat) (op : AqdOp) : Dev :=
  let d := settle (tick d iss.t)
  let h := hn iss.half
  let w := encodeAqd op
  let word := w.toNat
  let c := bits word 35 31
  let spc := (strandOf d iss.strand).lastSpc
  let bad (d : Dev) : Dev := aqdRaise d 0xD0 3 h c word spc (strandCode iss.strand) 0
  let eps := bit word 20
  let epd := bit word 19
  let res := match sfind h d.ephRes with
    | some r => if r.t = iss.t then some r else none
    | none => none
  match adtEntry d h (bits word 30 21) with
  | none => bad d
  | some e =>
    if c / 16 ≠ port % 2 ∨ adtBad d e epd = true ∨ ((eps || epd) = true ∧ res.isNone = true) then bad d
    else
      let base := res.bind (·.base)
      if (eps || epd) = true ∧ base.isNone = true then
        (if (res.map (·.failed)).getD false then d else bad d)
      else
        let ix (i : Nat) : Int := (idxSel d iss.strand (adSel e i) : Int)
        let x : Xfer :=
          { serial := d.aqd.nextSerial, op := w, half := h, spc := spc, strand := strandCode iss.strand, ent := e,
            ms := adSstr e 0 * ix 0 + adSstr e 1 * ix 1, md := adDstr e 0 * ix 0 + adDstr e 1 * ix 1,
            sres := if eps then base else none, dres := if epd then base else none,
            step := if d.seq.stepOpen then curStep d else (curStep d + 2 ^ 32 - 1) % 2 ^ 32, row := 0,
            pos := 0, bursts := 0, last := none, readBack := 0, ackAt := 0, waitHost := 0, dead := false }
        let d : Dev := d.withAqd { d.aqd with nextSerial := d.aqd.nextSerial + 1 }
        let q := 2 * h + port % 2
        aqdRun (setAqdQueue (aqdIssued d h c 1) q (aqdQueue d q ++ [x]))

/-! ### Bursts (R427 to R429) -/

/-- The next row from `j` on that is not skipped, with its index; the row count where none is left. -/
def findRow (x : Xfer) : Nat → Dev → Nat → Dev × Option (Nat × Int)
  | 0, d, j => (d, some (j, 0))
  | fuel + 1, d, j =>
    match listIndex d x j with
    | (d, none) => (d, none)
    | (d, some ix) => if 0 ≤ ix then (d, some (j, ix)) else findRow x fuel d (j + 1)

/-- Local source runs read in order; the failing address where a byte lies at no listed place. -/
def readRuns (d : Dev) : List (Int × Nat) → Dev × Except Int (List Byte)
  | [] => (d, .ok [])
  | (a, n) :: r =>
    match addrOf a with
    | none => (d, .error a)
    | some o =>
      match qRead d o n with
      | (d, none) => (d, .error a)
      | (d, some bs) =>
        match readRuns d r with
        | (d, .ok rest) => (d, .ok (bs ++ rest))
        | (d, .error e) => (d, .error e)

/-- The bytes of a burst go to its destination runs, behind the channel's reads that have not come back. -/
def putBurst (d : Dev) (x : Xfer) (row : Nat) (dst : List (Int × Nat)) (bs : List Byte) : Dev :=
  let h := x.half
  let c := xChan x
  let waits := d.aqd.reqs.any (fun r => r.half == h && r.chan == c && (r.owner == 0 || r.owner == 4))
  let d := (dst.foldl (fun (p : Dev × List Byte) run =>
    let part := p.2.take run.2
    let rest := p.2.drop run.2
    if waits then
      let r : Req := { tag := 0, oport := 0, oepoch := 0, at' := p.1.now, owner := 4, half := h, chan := c,
                       rungen := fget p.1 (A.AQD_CHSTS h c) F.RUNGEN, serial := x.serial, burst := x.bursts, row := row,
                       chip := 0, addr := 0, dst := run.1, len := run.2, data := some part }
      ((p.1.withAqd { p.1.aqd with reqs := p.1.aqd.reqs ++ [r] }), rest)
    else
      match xferOf p.1 h c x.serial with
      | some y => if y.dead then (p.1, rest) else (writeRun p.1 x run.1 part, rest)
      | none => (p.1, rest)) (d, bs)).1
  rowDone d h c x.serial row

/-- A burst of a transfer from byte `pos` of row `row`; `host` is what a HOST access brings: the bytes read, or none
where the access fails (R427, R432). -/
def runBurst (d : Dev) (x : Xfer) (row : Nat) (ix : Int) (host : Option (List Byte)) : Dev :=
  let h := x.half
  let c := xChan x
  let pos := if row = x.row then x.pos else 0
  let off := xDo x row ix pos
  let n := min (adLen x.ent - pos) (4096 - (off % 4096).toNat)
  let src := wrapRuns (xSbase x) (xSo x row ix pos) (xSwrap x) n
  let dst := wrapRuns (xDbase x) off (xDwrap x) n
  let ends := decide (adLen x.ent ≤ pos + n)
  let x : Xfer := { x with row := if ends then row + 1 else row, pos := if ends then 0 else pos + n, bursts := x.bursts + 1 }
  let d := setXfer d h c x
  let y : Xfer := { x with row := row }
  match xSspace x with
  | 0 =>
    match readRuns d src with
    | (d, .error a) => xAddrFail d x a false
    | (d, .ok bs) => if xDspace x = 2 ∧ host.isNone = true ∧ replayMode d = false then xAddrFail d x off true else putBurst d y row dst bs
  | 1 =>
    (pairRuns 8 src dst).foldl (fun d p => aqdRequest d y 0 p.1 p.2.1 p.2.2 [] none) d
  | _ =>
    let len := ((headDesc d (adRing x.ent)).map (·.len)).getD 0
    match src.find? (fun r => decide (r.1 < 0) || decide ((len : Int) < r.1 + r.2)) with
    | some r => xAddrFail d x (if r.1 < 0 then r.1 else max r.1 len) true
    | none =>
      match host with
      | none => xAddrFail d x (xSo x row ix pos) true
      | some bs =>
        let bs := (bs ++ List.replicate n 0).take n
        putBurst (capLog d 0x0A (adRing x.ent) (ringH d (adRing x.ent)).head bs) y row dst bs

/-- The next burst of a channel reads host memory through ring `ring`. -/
def readsHost (d : Dev) (h c : Nat) : Option Nat :=
  match nextXfer d h c with
  | some x => if xSspace x = 2 then some (adRing x.ent) else none
  | none => none

/-- The channel of a half that starts the next burst: the highest level with a burst ready, and within it round robin
after the channel that last started one (R428). In replay mode the log alone brings host bytes (R648). -/
def pickChan (d : Dev) (h : Nat) : Option (Nat × Nat) :=
  let rs := ((d.aqd.chans.map Prod.fst).filter (fun k => k / 32 == h)).map (· % 32) |>.filter
    (fun c => burstReady d h c && !(replayMode d && (readsHost d h c).isSome))
  let pri (c : Nat) : Nat := fget d (A.AQD_CHCTL h c) F.AQD_CHCTL_PRI
  let top := rs.foldl (fun m c => max m (pri c)) 0
  let last := (sget 0 (4 * h + top) d.aqd.rr + 31) % 32
  let key (c : Nat) : Nat := (c + 31 - last) % 32
  ((rs.filter (fun c => pri c == top)).foldl (fun b c => match b with
    | none => some c
    | some a => if key c < key a then some c else b) none).map (fun c => (top, c))

/-- Channel `c` of a half starts its next burst at a level of R428. -/
def burstOf (d : Dev) (h level c : Nat) (host : Option (List Byte)) : Dev :=
  match nextXfer d h c with
  | none => d
  | some x =>
    match findRow x (adNrowm1 x.ent + 1 - x.row) d x.row with
    | (d, none) => aqdRun (xAddrFail d x ((adIbase x.ent + 4 * x.row : Nat) : Int) false)
    | (d, some (row, ix)) =>
      if adNrowm1 x.ent < row then aqdRun (setXfer d h c { x with row := row, pos := 0 })
      else
        let k := 32 * h + c
        let d := count (count d h 0x701 c 1 false) h 0x703 c ((d.now + 1 - sget 0 k d.aqd.ready) / 2) false
        let d : Dev := d.withAqd { d.aqd with rr := sset 0 (4 * h + level) (c + 1) d.aqd.rr,
                                                    lastBurst := sset 0 h (d.now + 1) d.aqd.lastBurst,
                                                    ready := sset 0 k 0 d.aqd.ready }
        aqdRun (runBurst d x row ix host)

/-- A half starts its next burst, if it may (R428). -/
def burstStart (d : Dev) (h : Nat) (host : Option (List Byte)) : Dev :=
  let d := aqdRun d
  let lb := sget 0 h d.aqd.lastBurst
  if (lb ≠ 0 ∧ (lb - 1) / 2 = d.now / 2) ∨ 16 ≤ burstsFlying d h none then d
  else match pickChan d h with
  | none => d
  | some (level, c) => burstOf d h level c host

/-! ### Responses (R434, R483) -/

/-- A matching response has come in: `bytes` for a read that succeeded, none for an error (R432, R434). -/
def aqdAnswer (d : Dev) (r : Req) (ok : Bool) (bs : List Byte) : Dev :=
  let rest := d.aqd.reqs.filter (fun q => q.tag != r.tag)
  if r.rungen ≠ fget d (A.AQD_CHSTS r.half r.chan) F.RUNGEN then
    aqdRun (fincSat (d.withAqd { d.aqd with reqs := rest }) (A.AQD_CHCNTB r.half r.chan) F.AQD_CHCNTB_STALE 1)
  else if !ok then aqdRun (reqFail d r)
  else match r.owner with
  | 0 =>
    aqdRun (d.withAqd { d.aqd with reqs := d.aqd.reqs.map (fun q =>
      if q.tag = r.tag then { q with data := some ((bs ++ List.replicate r.len 0).take r.len) } else q) })
  | 2 =>
    let d : Dev := d.withAqd { d.aqd with reqs := rest }
    aqdRun (match xferOf d r.half r.chan r.serial with
      | some x => count (setXfer d r.half r.chan { x with readBack := 2 }) r.half 0x704 r.chan ((d.now - x.ackAt) / 2) false
      | none => d)
  | _ => aqdRun (d.withAqd { d.aqd with reqs := rest })

/-! ### Completion (R430, R561, R562) -/

/-- The committed head of a data ring takes the head, and is written back (R562). -/
def commitHead (d : Dev) (ring : Nat) : Dev :=
  let i := (ringH d ring).head
  ringWb (fset d (A.HST_RIDX ring) F.HST_RIDX_DEVIDX i) ring i

/-- A data ring's head after one more completed transfer (R561, R562). -/
def headAdvance (d : Dev) (ring : Nat) : Dev :=
  let r := ringH d ring
  let k := r.headXfers + 1
  if k ≤ liveGet d (A.HST_RCFG ring) F.HST_RCFG_XPER then setRingH d ring { r with headXfers := k }
  else
    let i := r.head
    let d := setRingH d ring { r with headXfers := 0, descs := r.descs.filter (fun e => e.1 != i), head := (i + 1) % 2 ^ 32 }
    if d.seq.stepOpen then d else commitHead d ring

/-- The transfer at the front of a channel completes, where everything it waited for has come (R430). -/
def transferComplete (d : Dev) (h c : Nat) : Dev :=
  let d := aqdRun d
  match chanOf d h c with
  | [] => d
  | x :: r =>
    if x.dead || !xStarted x || inFlight d x.serial || (xDspace x == 1 && x.last.isSome && x.readBack != 2) then d
    else
      let d := match xDspace x, x.last with
        | 0, some a => (qRead d (a / 64 * 64) 64).1
        | _, _ => d
      let d := count (aqdCompleted (setChan d h c r) h c 1) h 0x700 c 1 false
      let d := if xHost x then headAdvance d (adRing x.ent) else d
      let d := if xNote x then
          aqdRaise d 0xD9 0 h c x.op.toNat x.spc x.strand (fget d (A.AQD_CHCNTA h c) F.AQD_CHCNTA_COMPLETED)
        else d
      aqdRun d

/-- A HOST transfer has waited longer than HST_CFG.DWAIT µs for a data descriptor (R563). -/
def dataWaitTimeout (d : Dev) (h c : Nat) : Dev :=
  match nextXfer d h c with
  | none => d
  | some x =>
    if x.waitHost = 0 ∨ d.now ≤ x.waitHost - 1 + us (fget d A.HST_CFG F.HST_CFG_DWAIT) then d
    else
      let ring := adRing x.ent
      let d := hstPost (xferStop d h c x.serial) 0xAA 2 ring (ringH d ring).head 0
      aqdRun (stepFatal d)

/-! ### Start, drain, unwind (R433, R434, R441) -/

/-- What the start of a channel does beyond the common part: its counts are zeroed. -/
def aqdStart (d : Dev) (h c : Nat) : Dev :=
  aqdShow (regSet (regSet d (A.AQD_CHCNTA h c) 0) (A.AQD_CHCNTB h c) 0) h c

/-- A channel discards its transfers, those still in the port's queue among them; bursts in flight go on. -/
def aqdDiscard (d : Dev) (h c : Nat) : Dev :=
  let q := 2 * h + c / 16
  let d := setAqdQueue d q ((aqdQueue d q).filter (fun x => xChan x != c))
  let l := ((chanOf d h c).filter (fun x => inFlight d x.serial)).map (fun x => { x with dead := true })
  let k := 32 * h + c
  let d := setChan d h c l
  let d : Dev := d.withAqd { d.aqd with since := sset 0 k (d.now + 1) d.aqd.since }
  chanTidy d k

/-- The drain of a channel is complete: no burst or response remains. -/
def aqdDrained (d : Dev) (h c : Nat) : Bool := !chanFlying d h c

/-- A channel discards for longer than AQD_TMO.DRAIN µs. -/
def aqdLate (d : Dev) (h c : Nat) : Bool :=
  let w := sget 0 (32 * h + c) d.aqd.since
  decide (w ≠ 0) && decide (w - 1 + us (fget d (A.AQD_TMO h) F.AQD_TMO_DRAIN) ≤ d.now)

/-- Step 3 of an unwind: every channel that runs discards its transfers (R433). -/
def aqdUnwind (d : Dev) : Dev :=
  (List.range 64).foldl (fun d k =>
    if stOf d (A.AQD_CHSTS (k / 32) (k % 32)) = 1 then aqdDiscard d (k / 32) (k % 32) else d) d

/-- No RUNNING channel is still discarding, those past AQD_TMO.DRAIN having given up. -/
def aqdUnwound (d : Dev) : Dev × Bool :=
  let d := (d.aqd.since.map Prod.fst).foldl (fun d k =>
    if aqdLate d (k / 32) (k % 32) && stOf d (A.AQD_CHSTS (k / 32) (k % 32)) == 1 then aqdDiscardEnd d (k / 32) (k % 32)
    else d) d
  (d, d.aqd.since.all (fun e => stOf d (A.AQD_CHSTS (e.1 / 32) (e.1 % 32)) != 1))

/-- The transfers still in a port's queue are discarded at the bound of a sequencer drain (R96). -/
def aqdDropQueue (d : Dev) (q : Nat) : Dev :=
  (aqdQueue d q).foldl (fun d x => aqdDiscarded d (q / 2) (xChan x) 1) (setAqdQueue d q [])

/-! ### The meanings of the commands -/

/-- BURST_START (R428). `hostData` is what a HOST access brings: the bytes read, or none where it fails. -/
def execBurstStart (t : Nat) (half : Half) (hostData : Option (List Byte)) (s : State) : Host.Outcome State Fault Refusal :=
  act (fun d => burstStart (settle (tick d t)) (hn half) hostData) s

/-- TRANSFER_COMPLETE (R430). -/
def execTransferComplete (t : Nat) (half : Half) (chan : BitVec 5) (s : State) : Host.Outcome State Fault Refusal :=
  act (fun d => transferComplete (settle (tick d t)) (hn half) chan.toNat) s

/-- DATA_WAIT_TIMEOUT (R563). -/
def execDataWaitTimeout (t : Nat) (half : Half) (chan : BitVec 5) (s : State) : Host.Outcome State Fault Refusal :=
  act (fun d => dataWaitTimeout (aqdRun (tick d t)) (hn half) chan.toNat) s

/-! ### The meanings of the commands -/

/-- XFER (R421). -/
def execXfer (iss : Issue) (port : BitVec 1) (chan : BitVec 5) (desc : BitVec 10) (eps : BitVec 1) (epd : BitVec 1) (gp : BitVec 1) (note : BitVec 1) (s : State) :
    Host.Outcome State Fault Refusal :=
  act (fun d => aqdIssue d iss port.toNat (.xfer chan desc eps epd gp note)) s

end Sys2Proof.Machine
end

