-- ==== Sys2Proof/Machine/Sid.lean ====
section
/-! DEFINITION. Sidereal time, the synchronisation flags, notices and the verdict tree (R505 to R523, R535, R536, R538,
R540, R541). -/

namespace Sys2Proof.Machine

/-- Ticks of the sidereal counter in n seconds and in n microseconds (00: 1 st is 1 ns). -/
def stSec (n : Nat) : Nat := 1000000000 * n

/-- A machine record (R540, R541). -/
def machRaise (d : Dev) (number sev port detail : Nat) : Dev :=
  raise (fset d A.SID_STS F.SID_STS_EXC number) number sev 10
    [0, (number % 256) <<< 32 + (port % 8) <<< 40, detail, sidNow d]

/-- The detail of a sidereal record: the last θ. -/
def lastTheta (d : Dev) : Nat := fget d A.SID_MEAS F.SID_MEAS_OFFSET

/-! ### Sidereal state (R506 to R513) -/

def sidState (d : Dev) : Nat := fget d A.SID_STS F.SID_STS_STATE
def isMaster (d : Dev) : Bool := decide (fget d A.SID_CTL F.SID_CTL_ROLE = 1)

def setMach (d : Dev) (f : Mach → Mach) : Dev := d.withMach (f d.mach)

/-- A new sidereal state; the count of good pulses or measurements begins again. -/
def sidEnter (d : Dev) (st : Nat) : Dev := setMach (fset d A.SID_STS F.SID_STS_STATE st) (fun m => { m with sidGood := 0 })

/-- HOPS as a chip sends it: the master's is 0 (R510). -/
def sidHops (d : Dev) : Nat := if isMaster d then 0 else fget d A.SID_STS F.SID_STS_HOPS

/-- The configured upstream ports, the primary first. -/
def upPorts (d : Dev) : List Nat :=
  (if fget d A.SID_CTL F.SID_CTL_UP0V = 1 then [fget d A.SID_CTL F.SID_CTL_UP0] else [])
    ++ (if fget d A.SID_CTL F.SID_CTL_UP1V = 1 then [fget d A.SID_CTL F.SID_CTL_UP1] else [])

/-- The upstream port in use; 15 for none. -/
def upIn (d : Dev) : Nat := fget d A.SID_STS F.SID_STS_UPIN

/-- HOLDOVER entered at this moment. -/
def enterHoldover (d : Dev) : Dev := setMach (sidEnter d 3) (fun m => { m with holdoverAt := d.now })

/-- A follower loses its upstream: HOLDOVER with SID_HOLDOVER, and the other configured port if its peer is LOCKED
(R512). -/
def sidHoldover (d : Dev) : Dev :=
  if isMaster d || !(sidState d == 1 || sidState d == 2) then d
  else
    let d := machRaise (enterHoldover d) 0xFB 0 (upIn d % 8) (lastTheta d)
    match (upPorts d).find? (fun q => q != upIn d && (portOf d q).peerState == 2 && decide (lstate d q ≥ 5)) with
    | some q => fset d A.SID_STS F.SID_STS_UPIN q
    | none => d

/-- A port's link state has changed: an upstream port in use that is neither UP nor MGMT is lost (R512). -/
def sidPort (d : Dev) (p : Nat) : Dev :=
  if upIn d = p ∧ lstate d p ≠ 5 ∧ lstate d p ≠ 6 then sidHoldover d else d

/-- A write to SID_SET (R507). -/
def sidSet (d : Dev) (v : Nat) : Dev :=
  if isMaster d && decide (sidState d ≤ 1) then
    setMach (sidEnter (regSet d A.SID_TIME (BitVec.ofNat 64 v)) 1) (fun m => { m with sidStepped := false, sidAt := d.now })
  else d

/-- The nearest multiple of 10^9 to a counter value, and the signed difference from it. -/
def nearSecond (v : Nat) : Nat × Int :=
  let n := (v + 500000000) / 1000000000 * 1000000000
  (n, (v : Int) - n)

/-- The master loses its reference (R508). -/
def refLost (d : Dev) : Dev :=
  let d := fset d A.SID_STS F.SID_STS_REFOK 0
  if sidState d = 1 ∨ sidState d = 2 then machRaise (enterHoldover d) 0xFA 0 0 (lastTheta d)
  else setMach d (fun m => { m with sidGood := 0 })

/-- A pulse of SID_PPS_IN at the master, high for `high` ns: ignored where it is too short or too long (R507, R508,
R663). A second rising edge in one counter second loses the reference; the second is the nearest one. -/
def ppsPulse (d : Dev) (high : Nat) : Dev :=
  if !isMaster d || sidState d == 0 || decide (high < 100) || decide (500000000 < high) then d
  else
    let (n, diff) := nearSecond (sidNow d)
    let again := decide (d.mach.ppsIn = n / 1000000000 + 1)
    let d := setMach d (fun m => { m with ppsIn := n / 1000000000 + 1 })
    if sidState d = 1 ∧ d.mach.sidStepped = false then
      let d := fset (regSet d A.SID_TIME (BitVec.ofNat 64 n)) A.SID_STS F.SID_STS_REFOK 1
      setMach d (fun m => { m with sidStepped := true, sidAt := d.now })
    else if again = true ∨ fget d A.SID_CFG F.SID_CFG_PPSWIN < diff.natAbs then refLost d
    else
      let good := if sidState d = 3 ∨ diff.natAbs ≤ 1 then d.mach.sidGood + 1 else 0
      let d := countPkg (fset d A.SID_STS F.SID_STS_REFOK 1) 0xC0B 0 diff.natAbs true
      let d := setMach d (fun m => { m with sidGood := good, sidAt := d.now })
      if 4 ≤ good ∧ sidState d ≠ 2 then setMach (fset d A.SID_STS F.SID_STS_STATE 2) (fun m => { m with sidGood := good })
      else d

/-- No pulse accepted for 3 s, or no edge of SID_REF_10M for 1 µs (R508). -/
def referenceLoss (d : Dev) (edge : Bool) : Dev :=
  if !isMaster d then d
  else if edge || decide (d.mach.sidAt + ms 3000 ≤ d.now) then refLost d
  else d

/-- A measurement from an IDLE of the upstream port in use (R509, R510). -/
def sidMeasure (d : Dev) (p txtime echo holdt sstate hops : Nat) : Dev :=
  let valid := decide (holdt ≠ 0xFFFFFFFF) && (sstate == 2 || (sstate == 3 && hops == 0))
  if !valid then d
  else
    let t2 : Int := sidNow d
    let delay : Int := ((t2 - echo) - holdt) / 2
    let theta : Int := txtime + delay - t2
    let d := fset (fset d A.SID_MEAS F.SID_MEAS_DELAY (unsigned 32 delay)) A.SID_MEAS F.SID_MEAS_OFFSET (unsigned 32 theta)
    let d := setMach (countPkg d 0xC0A p 1 false) (fun m => { m with sidAt := d.now })
    if sidState d = 0 then
      let d := regSet d A.SID_TIME (BitVec.ofNat 64 (unsigned 64 (t2 + theta)))
      setMach (sidEnter d 1) (fun m => { m with sidStepped := true })
    else
      let good := if theta.natAbs ≤ 1 then d.mach.sidGood + 1 else 0
      let d := setMach (countPkg d 0xC0B 0 theta.natAbs true) (fun m => { m with sidGood := good })
      if sidState d = 2 then fset d A.SID_STS F.SID_STS_HOPS (hops + 1)
      else if 16 ≤ good then fset (fset d A.SID_STS F.SID_STS_HOPS (hops + 1)) A.SID_STS F.SID_STS_STATE 2
      else d

/-- The timing content of an IDLE from port `p`: the upstream port is chosen or changed where R512 says so, and the
port in use is measured. -/
def sidIdle (d : Dev) (p txtime echo holdt sstate hops : Nat) : Dev :=
  if isMaster d || !(upPorts d).contains p then d
  else
    let ups := upPorts d
    let d := if upIn d = 15 ∨ !ups.contains (upIn d) then fset d A.SID_STS F.SID_STS_UPIN (ups.headD 15)
      else if sidState d = 3 ∧ upIn d ≠ p ∧ sstate = 2
          ∧ ((portOf d (upIn d)).peerState ≠ 2 ∨ (lstate d (upIn d) ≠ 5 ∧ lstate d (upIn d) ≠ 6)) then
        setMach (fset d A.SID_STS F.SID_STS_UPIN p) (fun m => { m with sidGood := 0 })
      else d
    if upIn d ≠ p then d
    else
      let d := if sstate ≠ 2 ∧ !(sstate = 3 ∧ hops = 0) ∧ sidState d = 2 then sidHoldover d else d
      if upIn d = p then sidMeasure d p txtime echo holdt sstate hops else d

/-- A follower without a valid measurement for 10 µs (R512). -/
def measurementTimeout (d : Dev) : Dev := if d.mach.sidAt + us 10 ≤ d.now then sidHoldover d else d

/-- A follower's HOLDOVER longer than HOLDMAX (R512). -/
def holdoverLimit (d : Dev) : Dev :=
  if sidState d = 3 ∧ isMaster d = false ∧ d.mach.holdoverAt + us (fget d A.SID_CFG F.SID_CFG_HOLDMAX) < d.now then
    machRaise (sidEnter d 0) 0xF1 3 (upIn d % 8) (lastTheta d)
  else d

/-- The counter has passed a multiple of 10^9: SID_PPS_OUT is high for 1 µs (R513). -/
def ppsOut (d : Dev) : Dev :=
  let n := sidNow d / 1000000000
  if sidState d ≥ 2 ∧ n ≠ d.mach.ppsMark then setMach d (fun m => { m with ppsMark := n, ppsUntil := d.now + us 1 }) else d

/-! ### Flags (R515, R516) -/

/-- Every port has changed content to send (R518). -/
def touchPorts (d : Dev) (ps : List Nat) : Dev :=
  ps.foldl (fun d p => modPort d p (fun x => { x with newContent := true })) d

/-- The step in CUR − 128 … CUR + 127 whose low 8 bits are SSTEP (R515). -/
def stepNamed (d : Dev) (sstep : Nat) : Nat :=
  let cur := curStep d
  let lo := cur + 2 ^ 32 - 128
  (lo + (sstep + 256 - lo % 256) % 256) % 2 ^ 32

/-- A step that this chip has closed. -/
def stepClosed (d : Dev) (s : Nat) : Bool := decide (2 ^ 31 ≤ sub32 s (curStep d))

/-- Flags and notices are taken from this port (R515). -/
def adoptsFrom (d : Dev) (p : Nat) : Bool :=
  let x := portOf d p
  decide (x.peerSlice ≠ 0) && x.peerSlice == fget d A.SID_SLICE F.SID_SLICE_SLICE
    && (decide (p ≥ 6) || isMember d (fget d (A.HRM_PEERB p) F.HRM_PEERB_CHIP))

/-- Poison and abort bits of a flit (R515, R516, R81). -/
def adoptFlags (d : Dev) (p sflag sstep : Nat) : Dev :=
  if !adoptsFrom d p then d
  else
    let s := stepNamed d sstep
    let d := if sflag.testBit 0 && !stepClosed d s && d.mach.poisonStep != some s then
        setMach (capLog d 0x0B p 0 (leBytes 8 (s + 1 <<< 32))) (fun m => { m with poisonStep := some s })
      else d
    if sflag.testBit 1 && d.mach.abortStep != some s then
      (if stepClosed d s then (d.withSeq { d.seq with abortsDiscarded := d.seq.abortsDiscarded + 1 })
       else raiseAbort (capLog d 0x0B p 0 (leBytes 8 (s + 2 <<< 32))) s)
    else d

/-- SFLAG and SSTEP as this chip sends them (R516). -/
def ownFlags (d : Dev) : Nat × Nat :=
  let m := d.mach
  let s := match m.abortStep with
    | some a => a
    | none => m.poisonStep.getD 0
  let poison := decide (m.poisonStep = some s)
  (b2n poison + 2 * b2n m.abortStep.isSome + 4 * b2n (m.reclaim.time != 0) + 8 * b2n (m.hold.time != 0), s % 256)

/-! ### Notices (R517, R518, R535) -/

/-- What becomes of a notice of time `t` (and corner `rorig`) beside one held with corner `held`: it stands, is lost, or
is a repeat. -/
inductive NoticeFate where
  | adopted | lost | repeated
  deriving DecidableEq, Repr

def noticeFate (n : Notice) (t rorig held : Nat) : NoticeFate :=
  if t = 0 ∨ t = n.cleared then .repeated
  else if n.time = 0 then .adopted
  else if t = n.time then (if rorig < held then .adopted else .repeated)
  else if t < n.time then .adopted
  else .lost

/-- A different notice that is not adopted, counted once for each time and kind. -/
def noticeLost (d : Dev) (n : Notice) (t : Nat) : Dev × Notice :=
  if n.lost.contains t then (d, n) else (countPkg d 0xC0D 0 1 true, { n with lost := t :: n.lost })

/-- A reclaim notice is held from now on, with its block and deadline (R517, R535). -/
def holdReclaim (d : Dev) (t origin ex ey ez dl : Nat) : Dev :=
  let r := A.SID_RCLM
  let d := fset (fset (fset d r F.SID_RCLM_ORIGIN origin) r F.SID_RCLM_EX ex) r F.SID_RCLM_EY ey
  let d := fset (fset (fset d r F.SID_RCLM_EZ ez) r F.SID_RCLM_DEADLINE dl) r F.SID_RCLM_ACTIVE 1
  let d := setMach (regSet d A.SID_RCLMT (BitVec.ofNat 64 t)) (fun m => { m with reclaim := { m.reclaim with time := t } })
  govSet (touchPorts d (List.range 8)) .reclaim 1

/-- The notice contents of an IDLE (R514, R517). -/
def adoptReclaim (d : Dev) (p w t : Nat) : Dev :=
  let n := d.mach.reclaim
  let origin := bits w 13 0
  match noticeFate n t origin (fget d A.SID_RCLM F.SID_RCLM_ORIGIN) with
  | .repeated => d
  | .lost =>
    let (d, n) := noticeLost d n t
    setMach d (fun m => { m with reclaim := n })
  | .adopted =>
    let d := capLog d 0x0D p 0 (leBytes 8 w ++ leBytes 8 t)
    machRaise (holdReclaim d t origin (bits w 18 14) (bits w 23 19) (bits w 27 24) (bits w 33 28)) 0xFD 0 0 origin

/-- A hold notice is held from now on. -/
def holdHold (d : Dev) (t : Nat) : Dev :=
  let d := fset (fset d A.SID_HOLDN F.SID_HOLDN_TIME t) A.SID_HOLDN F.SID_HOLDN_ACTIVE 1
  let d := setMach d (fun m => { m with hold := { m.hold with time := t } })
  govSet (touchPorts d (List.range 8)) .hold 1

def adoptHold (d : Dev) (p t : Nat) : Dev :=
  let n := d.mach.hold
  match noticeFate n t 0 0 with
  | .repeated => d
  | .lost =>
    let (d, n) := noticeLost d n t
    setMach d (fun m => { m with hold := n })
  | .adopted => holdHold (capLog d 0x0D p 1 (leBytes 8 t)) t

/-- The host originates a reclaim notice: T_N is the counter now; block and deadline are the register's fields. Of two
different notices the one that stands under R517 is kept. -/
def reclaimOriginate (d : Dev) : Dev :=
  let r := A.SID_RCLM
  let t := sidNow d
  match noticeFate d.mach.reclaim t (fget d r F.SID_RCLM_ORIGIN) (fget d r F.SID_RCLM_ORIGIN) with
  | .adopted =>
    holdReclaim d t (fget d r F.SID_RCLM_ORIGIN) (fget d r F.SID_RCLM_EX) (fget d r F.SID_RCLM_EY)
      (fget d r F.SID_RCLM_EZ) (min (fget d r F.SID_RCLM_DEADLINE) 60)
  | .lost =>
    let (d, n) := noticeLost d d.mach.reclaim t
    setMach d (fun m => { m with reclaim := n })
  | .repeated => d

/-- The notice held is cleared on this chip (R517). -/
def reclaimClear (d : Dev) : Dev :=
  if d.mach.reclaim.time = 0 then d
  else
    let d := regSet (fset d A.SID_RCLM F.SID_RCLM_ACTIVE 0) A.SID_RCLMT 0
    let d := setMach d (fun m => { m with reclaim := { m.reclaim with time := 0, cleared := m.reclaim.time } })
    govSet (touchPorts d (List.range 8)) .reclaim 0

def holdOriginate (d : Dev) : Dev :=
  match noticeFate d.mach.hold (sidNow d) 0 0 with
  | .adopted => holdHold d (sidNow d)
  | .lost =>
    let (d, n) := noticeLost d d.mach.hold (sidNow d)
    setMach d (fun m => { m with hold := n })
  | .repeated => d

def holdClear (d : Dev) : Dev :=
  if d.mach.hold.time = 0 then d
  else
    let d := fset (fset d A.SID_HOLDN F.SID_HOLDN_ACTIVE 0) A.SID_HOLDN F.SID_HOLDN_TIME 0
    let d := setMach d (fun m => { m with hold := { m.hold with time := 0, cleared := m.hold.time } })
    govSet (touchPorts d (List.range 8)) .hold 0

/-! ### The verdict tree (R519 to R523) -/

/-- The tree registers in force. -/
def vtree (d : Dev) : Nat := A.SID_VTREE (actBank d)
def treeChildren (d : Dev) : List Nat := (List.range 8).filter (fun p => (fget d (vtree d) F.SID_VTREE_CHILD).testBit p)
def treeRoot (d : Dev) : Bool := decide (fget d (vtree d) F.SID_VTREE_ROOT = 1)
def treeParent (d : Dev) : Nat := fget d (vtree d) F.SID_VTREE_PARENT

def treeOf (d : Dev) (perm : Bool) : Tree := if perm then d.mach.ptree else d.mach.tree
def setTree (d : Dev) (perm : Bool) (t : Tree) : Dev :=
  setMach d (fun m => if perm then { m with ptree := t } else { m with tree := t })

/-- The node's own input: the report it made, or STOPPED while the sequencer is not RUNNING (R520). -/
def ownInput (d : Dev) (perm : Bool) : Option (Nat × Nat) :=
  if perm then d.mach.perm.ended.map (fun v => (fget d A.SID_STEP F.SID_STEP_STEP, v))
  else if seqState d ≠ 1 then some (0, 0)
  else d.mach.tree.own

/-- A child whose input is taken as ABORT (R521). -/
def childGone (d : Dev) (perm : Bool) (p : Nat) : Bool :=
  (lstate d p != 5 && lstate d p != 6) || (treeOf d perm).silent.contains p

/-- The value of a child's input for step `s`, if there is one: 3 for a substitution; STOPPED counts as ABORT. -/
def childInput (d : Dev) (perm : Bool) (s p : Nat) : Option Nat :=
  if childGone d perm p then some 3
  else match sfind p (treeOf d perm).child with
  | none => none
  | some (c, v) => if v = 0 then (if perm then none else some 3) else if c = s then some v else none

/-- The report a node can form: its step, the combined value and the children substituted. -/
def treeForm (d : Dev) (perm : Bool) : Option (Nat × Nat × List Nat) :=
  match ownInput d perm with
  | none => none
  | some (os, ov) =>
    let cs := treeChildren d
    let steps := (if ov = 0 then [] else [os])
      ++ (cs.filterMap (fun p => (sfind p (treeOf d perm).child).bind (fun c => if c.2 = 0 then none else some c.1)))
    (steps.find? (fun s => (ov == 0 || os == s) && cs.all (fun p => (childInput d perm s p).isSome))).map (fun s =>
      (s, (cs.filterMap (childInput d perm s)).foldl max (if ov = 0 then 3 else ov), cs.filter (childGone d perm)))

/-- The bank of routes, membership and tree changes over (R500). In a drill a chip whose new bitmap is empty leaves the
slice (R534); a switch to a bitmap with members ends that. -/
def switchBank (d : Dev) (drill : Bool) : Dev :=
  let b := 1 - actBank d
  let d := fset d A.SID_RBANK F.SID_RBANK_ACT b
  let empty := (List.range 256).all (fun w => regGet d (A.SID_MEMB (256 * b + w)) == 0)
  let d := setMach d (fun m => { m with cutOut := empty && (drill || m.cutOut) })
  if empty && drill then fset d A.SID_SLICE F.SID_SLICE_SLICE 0 else d

/-- A verdict is taken: SID_VSTS, the counters, the end of the flags for its step, the way to the sequencers and the
content for the children; a permutation verdict switches prepared banks (R516, R520, R536). -/
def applyVerdict (d : Dev) (s v : Nat) (perm : Bool) : Dev :=
  let d := capLog d 0x0C 0 0 (leBytes 8 (s + v <<< 32 + (b2n perm) <<< 36))
  let d := if capturing d && !perm && s == fget d A.TST_CAPSTS F.TST_CAPSTS_STEP then capEnd d 0 else d
  let t := treeOf d perm
  let d := setTree d perm { Tree.init with child := t.child.filter (fun e => e.2.2 == 0) }
  let d := setMach d (fun m => { m with contentDown := ⟨s, 2, v, perm⟩, content := if m.content.perm = perm then Content.none else m.content })
  let d := touchPorts d (treeChildren d)
  if perm then
    let d := fset d A.SID_VSTS F.SID_VSTS_PERMV v
    let d := setMach d (fun m => { m with perm := { m.perm with ended := none, retry := decide (v ≠ 1) } })
    if v = 1 ∧ fget d A.SID_RBANK F.SID_RBANK_PREP = 1 then
      machRaise (switchBank d true) 0xFE 0 0 (v + (fget d A.COL_PRX F.COL_PRX_PATT) <<< 8)
    else d
  else
    let d := fset (fset d A.SID_VSTS F.SID_VSTS_VSTEP s) A.SID_VSTS F.SID_VSTS_VERDICT v
    let d := countPkg (countPkg d (0xC00 + (v - 1)) 0 1 true) 0xC03 0 (sidNow d - d.mach.reportSid) true
    let d := setMach d (fun m => { m with abortStep := if m.abortStep = some s then none else m.abortStep,
                                          poisonStep := if m.poisonStep = some s then none else m.poisonStep,
                                          verdicts := if v = 1 then s :: m.verdicts else m.verdicts })
    govSet d .verdict (4 * s + v)

/-- What the node does with the inputs it holds: STOPPED to the parent, a report, or at the root a verdict (R520). -/
def treeRun (d : Dev) (perm : Bool) : Dev :=
  let t := treeOf d perm
  let put (d : Dev) (s v : Nat) : Dev :=
    let d := setTree d perm { treeOf d perm with sent := some (s, v) }
    touchPorts (setMach d (fun m => { m with content := ⟨s, 1, v, perm⟩ })) [treeParent d]
  let stopped := !perm && ownInput d perm == some (0, 0)
    && (treeChildren d).all (fun p => !childGone d perm p && ((sfind p t.child).map Prod.snd) == some 0)
  if stopped then
    (if treeRoot d || t.sent == some (0, 0) then d else put d 0 0)
  else match treeForm d perm with
    | none => d
    | some (s, v, gone) =>
      if (t.sent.map Prod.fst) = some s ∧ (t.sent.map Prod.snd) ≠ some 0 then d
      else
        let d := gone.foldl (fun d p => machRaise d 0xFC 0 p 0) d
        if treeRoot d then (if replayMode d then d else applyVerdict d s v perm) else put d s v

/-- Both trees. -/
def trees (d : Dev) : Dev := treeRun (treeRun d false) true

/-- The chip's own step report (R77, R80). -/
def ownReport (d : Dev) (s v : Nat) : Dev :=
  let d := setTree d false { d.mach.tree with own := some (s, v), ownAt := d.now }
  treeRun (setMach d (fun m => { m with reportSid := sidNow d })) false

/-- A child's report (R520). -/
def childReport (d : Dev) (p s v : Nat) (perm : Bool) : Dev :=
  if !(treeChildren d).contains p then d
  else
    let t := treeOf d perm
    treeRun (setTree d perm { t with child := sput p (s, v) t.child, silent := t.silent.erase p }) perm

/-- A verdict from the parent (R520). -/
def parentVerdict (d : Dev) (s v : Nat) (perm : Bool) : Dev := if treeRoot d || v == 0 then d else trees (applyVerdict d s v perm)

/-- CHILDTMO µs have passed since the node's own report without an input of a child for its step (R521). -/
def childTimeout (d : Dev) (p : Nat) : Dev :=
  let tmo := fget d (vtree d) F.SID_VTREE_CHILDTMO
  let t := d.mach.tree
  match t.own with
  | none => d
  | some (s, _) =>
    if tmo = 0 ∨ d.now < t.ownAt + us tmo ∨ (treeChildren d).contains p = false ∨ (childInput d false s p).isSome then d
    else treeRun (setTree d false { t with silent := p :: t.silent }) false

/-- Verdict-tree content of an IDLE from port `p`, taken when it differs from that port's last (R514, R520). -/
def takeContent (d : Dev) (p : Nat) (c : Content) : Dev :=
  if (portOf d p).seen = c then d
  else
    let d := modPort d p (fun x => { x with seen := c })
    if c.kind = 1 then childReport d p (if c.val = 0 ∧ c.perm = false then 0 else c.step) c.val c.perm
    else if c.kind = 2 ∧ p = treeParent d then parentVerdict d c.step c.val c.perm
    else d

/-! ### IDLE content (R509, R514) -/

/-- The synchronisation content that port `p` sends now: bytes 8–251 of an IDLE. -/
def idleContent (d : Dev) (p : Nat) : List Byte :=
  let m := d.mach
  let (echo, holdt) := match (portOf d p).echo with
    | some (e, a) => (e, min (sidNow d - a) 0xFFFFFFFE)
    | none => (0, 0xFFFFFFFF)
  let c := if (treeChildren d).contains p then m.contentDown
    else if p = treeParent d && !treeRoot d then m.content else Content.none
  let r := A.SID_RCLM
  let w40 := if m.reclaim.time = 0 then 0 else fget d r F.SID_RCLM_ORIGIN + (fget d r F.SID_RCLM_EX) <<< 14
    + (fget d r F.SID_RCLM_EY) <<< 19 + (fget d r F.SID_RCLM_EZ) <<< 24 + (fget d r F.SID_RCLM_DEADLINE) <<< 28
  leBytes 8 (sidNow d) ++ leBytes 8 echo ++ leBytes 4 holdt ++ leBytes 2 (sidState d + sidHops d * 4)
    ++ leBytes 2 (fget d A.SID_SLICE F.SID_SLICE_SLICE)
    ++ leBytes 8 (c.step % 2 ^ 32 + c.kind <<< 32 + c.val <<< 34 + (b2n c.perm) <<< 36)
    ++ leBytes 8 w40 ++ leBytes 8 m.reclaim.time ++ leBytes 8 m.hold.time ++ List.replicate 188 0

/-- The content of an IDLE that has come in at port `p`: `b` is its bytes 8–251. -/
def idleTake (d : Dev) (p : Nat) (b : List Byte) : Dev :=
  let tx := leAt b 0 8
  let s28 := leAt b 20 1
  let w := leAt b 24 8
  let d := modPort d p (fun x => { x with echo := some (tx, sidNow d), peerSlice := leAt b 22 2, peerState := s28 % 4,
                                          peerHops := s28 / 4 })
  let d := sidIdle d p tx (leAt b 8 8) (leAt b 16 4) (s28 % 4) (s28 / 4)
  let d := if adoptsFrom d p then adoptHold (adoptReclaim d p (leAt b 32 8) (leAt b 40 8)) p (leAt b 48 8) else d
  takeContent d p ⟨bits w 31 0, bits w 33 32, bits w 35 34, bit w 36⟩

/-! ### The drill's close (R536) -/

/-- T_N + CLOSE has come: a step still open is aborted with RCLM_ABORT. -/
def drillClose (d : Dev) : Dev :=
  let t := d.mach.reclaim.time
  if t = 0 ∨ t = d.mach.closed ∨ sidNow d < t + stSec (fget d A.SID_RCFG F.SID_RCFG_CLOSE) then d
  else
    let d := setMach d (fun m => { m with closed := t })
    if d.seq.stepOpen then machRaise d 0xF9 2 0 0 else d

/-! ### The meanings of the commands -/

/-- SID_SET (R507): the host writes the register. -/
def execSidSet (value : BitVec 64) (s : State) : Host.Outcome State Fault Refusal := act (fun d => sidSet d value.toNat) s

/-- PPS_PULSE (R507, R663): a rising edge at `t`, high for `high` ns. -/
def execPpsPulse (t : Nat) (high : Nat) (s : State) : Host.Outcome State Fault Refusal :=
  act (fun d => ppsPulse (tick d t) high) s

/-- REFERENCE_LOSS (R508). `edge`: SID_REF_10M shows no edge; otherwise no pulse has been accepted. -/
def execReferenceLoss (t : Nat) (edge : Bool) (s : State) : Host.Outcome State Fault Refusal :=
  act (fun d => referenceLoss (tick d t) edge) s

/-- MEASUREMENT_TIMEOUT (R512). -/
def execMeasurementTimeout (t : Nat) (s : State) : Host.Outcome State Fault Refusal :=
  act (fun d => measurementTimeout (tick d t)) s

/-- HOLDOVER_LIMIT (R512). -/
def execHoldoverLimit (t : Nat) (s : State) : Host.Outcome State Fault Refusal := act (fun d => holdoverLimit (tick d t)) s

/-- PPS_OUT (R513). -/
def execPpsOut (t : Nat) (s : State) : Host.Outcome State Fault Refusal := act (fun d => ppsOut (tick d t)) s

/-- RECLAIM_ORIGINATE (R535): SID_RCLM written with ORIG = 1 and the block and deadline fields. -/
def execReclaimOriginate (fields : BitVec 64) (s : State) : Host.Outcome State Fault Refusal :=
  act (fun d =>
    let r := A.SID_RCLM
    let put (d : Dev) (f : Fld) : Dev := fset d r f (f.of fields)
    reclaimOriginate ([F.SID_RCLM_DEADLINE, F.SID_RCLM_EZ, F.SID_RCLM_EY, F.SID_RCLM_EX, F.SID_RCLM_ORIGIN].foldl put d)) s

/-- RECLAIM_CLEAR (R517). -/
def execReclaimClear (s : State) : Host.Outcome State Fault Refusal := act reclaimClear s

/-- HOLD_NOTICE_ORIGINATE (R517). -/
def execHoldNoticeOriginate (s : State) : Host.Outcome State Fault Refusal := act holdOriginate s

/-- HOLD_NOTICE_CLEAR (R517). -/
def execHoldNoticeClear (s : State) : Host.Outcome State Fault Refusal := act holdClear s

/-- DRILL_CLOSE (R536). -/
def execDrillClose (t : Nat) (s : State) : Host.Outcome State Fault Refusal := act (fun d => drillClose (tick d t)) s

/-- BANK_SWITCH (R500): SID_RBANK.SWITCH written. -/
def bankSwitch (d : Dev) : Dev :=
  if blkState d .col = 0 ∧ (List.range 8).all (fun p => stOf d (A.HRM_PSTS p) == 0) = true then switchBank d false else d

def execBankSwitch (s : State) : Host.Outcome State Fault Refusal := act bankSwitch s

/-- REPORT_RECEIVE (R520). -/
def execReportReceive (t : Nat) (port : BitVec 3) (step : BitVec 32) (val : BitVec 2) (perm : Bool) (s : State) :
    Host.Outcome State Fault Refusal :=
  act (fun d => childReport (tick d t) port.toNat step.toNat val.toNat perm) s

/-- VERDICT_RECEIVE (R520). -/
def execVerdictReceive (t : Nat) (step : BitVec 32) (val : BitVec 2) (perm : Bool) (s : State) :
    Host.Outcome State Fault Refusal :=
  act (fun d => parentVerdict (tick d t) step.toNat val.toNat perm) s

/-- CHILD_TIMEOUT (R521). -/
def execChildTimeout (t : Nat) (port : BitVec 3) (s : State) : Host.Outcome State Fault Refusal :=
  act (fun d => childTimeout (tick d t) port.toNat) s

/-- IDLE_RECEIVE (R509): `content` is bytes 8–251 of the IDLE. -/
def execIdleReceive (t : Nat) (port : BitVec 3) (content : List Byte) (s : State) : Host.Outcome State Fault Refusal :=
  act (fun d => idleTake (tick d t) port.toNat content) s

end Sys2Proof.Machine
end

