-- ==== Sys2Proof/Machine/Hrm.lean ====
section
/-! DEFINITION. Hermen ports: link states, resets and training, identity, frames, flits, credits, replay and forwarding
(13). -/

namespace Sys2Proof.Machine

/-! ### Names of the installation record (R401, R477) -/

/-- Machine id, and the peer that the record names for a port: chip or switch id, and port. -/
def instMachine (d : Dev) : Nat := memNat d.nv 0x10000 8
def instPeer (d : Dev) (p : Nat) : Option (Nat × Nat) :=
  let w := memNat d.nv (0x10010 + 8 * p) 8
  if bit w 63 then some (bits w 13 0, bits w 16 14) else none

/-! ### Resets (R468 to R470, R475, R479 to R482) -/

def setLstate (d : Dev) (p st : Nat) : Dev := fset d (A.HRM_PSTS p) F.HRM_PSTS_LSTATE st

/-- What depends on a port's link state takes notice of a change. -/
def linkChanged (d : Dev) (p : Nat) : Dev := trees (sidPort d p)

/-- Receiver buffer of a virtual channel in flits, as in force since the last reset. -/
def vcBuf (d : Dev) (p v : Nat) : Nat :=
  let f : Fld := ⟨8 * v + 7, 8 * v⟩
  16 * liveGet d (A.HRM_VCBUF p) f

/-- The buffer sizes in force are such that the port stays in RESET (R479). -/
def vcBufBad (d : Dev) (p : Nat) : Bool :=
  let us := (List.range 6).map (vcBuf d p)
  us.any (fun u => u == 0) || decide (4096 < us.foldl (· + ·) 0)

/-- Messages at a port that a reset drops: those with flits in the replay buffer and those still queued, each once. -/
def heldMessages (x : Port) : List (Msg × Option Nat) :=
  let outs := x.replay.map (·.out) ++ x.queue
  ((outs.foldl (fun (l : List Out) o => if l.any (fun q => q.id == o.id) then l else l ++ [o]) [])).map (fun o => (o.msg, o.ctx))

/-- The port enters RESET (R470). -/
def linkReset (d : Dev) (p cause : Nat) : Dev :=
  let x := portOf d p
  let old := epochOf d p
  let ms := heldMessages x
  let d := latch d [A.HRM_PCTL p, A.HRM_CFG p, A.HRM_VCBUF p, A.HRM_PARB p, A.HRM_LANE p]
  let e := A.HRM_EPOCH p
  let d := fincSat (fset d e F.HRM_EPOCH_EPOCH (old + 1)) e F.HRM_EPOCH_RESETS 1
  let d := countPkg d 0x808 p 1 false
  let d := setLstate (fset d (A.HRM_PSTS p) F.HRM_PSTS_CAUSE cause) p 1
  let d := (List.range 6).foldl (fun d v => regSet d (A.HRM_VCCRED p v) 0) d
  let d := regSet d (A.HRM_RPL p) 0
  let d := drawn (setPort d p
    { Port.init with nextId := x.nextId, inbox := x.inbox, resetAt := d.now, resetCfg := vcBufBad d p,
                     nonce := Config.nonce p d.fresh % 2 ^ 16, peerSlice := x.peerSlice, peerState := x.peerState,
                     peerHops := x.peerHops, idleAt := x.idleAt, replayMs := x.replayMs, tx := x.tx,
                     rx := x.rx })
  let d := hrmRaise d p 0xE8 0 old cause 0 0 ms.length
  let d := if vcBufBad d p then hrmNote d p 0xEE 0 else d
  linkChanged (dropAll d p old cause ms) p

/-- A reset request of the port or its peer (R468, R469). -/
def resetRequest (d : Dev) (p cause : Nat) : Dev :=
  if lstate d p = 0 then d
  else if d.now ≤ (portOf d p).resetAt + us (liveGet d (A.HRM_CFG p) F.HRM_CFG_RWIN) then
    fset d (A.HRM_PSTS p) F.HRM_PSTS_CAUSE cause
  else linkReset d p cause

/-- HRM_PCTL.LINK written 1 (R468). -/
def linkOn (d : Dev) (p : Nat) : Dev :=
  if fget d (A.HRM_PCTL p) F.HRM_PCTL_LINK = 1 then d
  else
    let d := fset d (A.HRM_PCTL p) F.HRM_PCTL_LINK 1
    if lstate d p = 0 then linkReset d p 0 else resetRequest d p 0

/-- HRM_PCTL.LINK written 0: a reset, at the end of whose quiet interval the port goes to OFF (R468, R470; DEDUCED, log
42). Where the request joins a reset whose quiet interval has ended, the port goes to OFF at once, by a reset of its own
where messages could be under way. -/
def linkOff (d : Dev) (p : Nat) : Dev :=
  if fget d (A.HRM_PCTL p) F.HRM_PCTL_LINK = 0 then d
  else
    let d := resetRequest (fset d (A.HRM_PCTL p) F.HRM_PCTL_LINK 0) p 0
    if 4 ≤ lstate d p then linkReset d p 0
    else if 2 ≤ lstate d p then linkChanged (setLstate d p 0) p
    else d

/-- HRM_PCTL.RETRAIN written 1 (R468). -/
def retrain (d : Dev) (p : Nat) : Dev :=
  if fget d (A.HRM_PCTL p) F.HRM_PCTL_LINK = 0 then d else resetRequest d p 0

/-! ### Training (R471 to R474) -/

/-- The quiet interval of RESET has ended (R470). -/
def quietEnd (d : Dev) (p : Nat) : Dev :=
  let x := portOf d p
  if lstate d p = 1 ∧ x.resetAt + us 1 ≤ d.now then
    if fget d (A.HRM_PCTL p) F.HRM_PCTL_LINK = 0 then linkChanged (setLstate d p 0) p
    else if x.resetCfg then d
    else setLstate d p 2
  else d

/-- A phase of training begins. -/
def setPhase (d : Dev) (p ph : Nat) : Dev := modPort d p (fun x => { x with phase := ph, phaseAt := d.now })

/-- The port is in this phase of training, and training has not failed. -/
def inPhase (d : Dev) (p ph : Nat) : Bool :=
  decide (lstate d p = 3) && (portOf d p).phase == ph && (portOf d p).failAt == 0

/-- DETECT ends: 16 good training sequences of the peer (R471, R473). -/
def detectDone (d : Dev) (p : Nat) (peer : Peer) : Dev :=
  if lstate d p ≠ 2 then d
  else
    let x := portOf d p
    let own := ownChip d
    if peer.chip = own ∧ peer.nonce = x.nonce then linkReset d p (fget d (A.HRM_PSTS p) F.HRM_PSTS_CAUSE)
    else
      let e := epochOf d p
      let d := fset d (A.HRM_EPOCH p) F.HRM_EPOCH_EPOCH (if tagOlder e peer.epoch then peer.epoch else e)
      let master := decide (own < peer.chip) || (own == peer.chip && decide (x.nonce < peer.nonce))
      let d := setPort d p { x with peer := peer, master := master, phase := 1, phaseAt := d.now, trainAt := d.now }
      setLstate (fset d (A.HRM_PEERB p) F.HRM_PEERB_CHIP peer.chip) p 3

def eqDone (d : Dev) (p : Nat) : Dev := if inPhase d p 1 then setPhase d p 2 else d

/-- Lanes passing at this end: in lock, with at most 112 symbol errors, and not excluded (R474). `lanes` gives each
lane's errors, none where it is not in lock. -/
def lanesPassing (d : Dev) (p : Nat) (lanes : List (Option Nat)) : Nat :=
  let excl := liveGet d (A.HRM_LANE p) F.HRM_LANE_EXCL
  (lanes.zipIdx.filter (fun l => decide (l.2 < 16) && !excl.testBit l.2 && (match l.1 with
    | some n => decide (n ≤ 112)
    | none => false))).foldl (fun a l => a + 2 ^ l.2) 0

/-- TEST ends (R471). -/
def testEnd (d : Dev) (p : Nat) (lanes : List (Option Nat)) : Dev :=
  if inPhase d p 2 && decide ((portOf d p).phaseAt + us 100 ≤ d.now) then
    setPhase (modPort d p (fun x => { x with passOwn := lanesPassing d p lanes })) p 3
  else d

/-- Training fails (R471). -/
def trainFail (d : Dev) (p pass : Nat) : Dev :=
  hrmRaise (modPort d p (fun x => { x with failAt := d.now + 1 })) p 0xEA 0 (epochOf d p)
    (fget d (A.HRM_PSTS p) F.HRM_PSTS_CAUSE) pass 0 0

/-- Lanes in a group of a width code, and whether a group passes. -/
def groupPasses (pass w g : Nat) : Bool :=
  let n := 16 >>> w
  (range' (g * n) n).all (fun l => pass.testBit l)

/-- The master's choice: the narrowest of both requests and of the widest width with a passing group, and its lowest
passing group (R474). Width codes rise as widths narrow. -/
def chooseWidth (own peer pass : Nat) : Option (Nat × Nat) :=
  let has (w : Nat) : Bool := (List.range (2 ^ w)).any (groupPasses pass w)
  match [0, 1, 2].find? has with
  | none => none
  | some widest =>
    let norm (r : Nat) : Nat := if r = 3 then 0 else r
    let w := max (max (norm own) (norm peer)) widest
    ((List.range (2 ^ w)).find? (groupPasses pass w)).map (fun g => (w, g))

/-- DECIDE ends: the peer's PASS has come, and at the slave the master's decision (R471, R474). -/
def decideDone (d : Dev) (p peerPass width lgrp : Nat) : Dev :=
  if !inPhase d p 3 then d
  else
    let x := portOf d p
    let pass := x.passOwn &&& peerPass &&& (0xFFFF - x.peer.excl % 2 ^ 16)
    let d := fset d (A.HRM_LANE p) F.HRM_LANE_PASS pass
    let choice := if x.master then chooseWidth (liveGet d (A.HRM_PCTL p) F.HRM_PCTL_RW) x.peer.rw pass
      else if (chooseWidth 0 0 pass).isSome then some (width, lgrp) else none
    match choice with
    | none => trainFail d p pass
    | some (w, g) => setPhase (fset (fset d (A.HRM_PSTS p) F.HRM_PSTS_WIDTH w) (A.HRM_PSTS p) F.HRM_PSTS_LGRP g) p 4

/-- The whole buffer of a virtual channel granted to the peer (R479). -/
def grantVc (d : Dev) (p v : Nat) : Dev :=
  let d := fset d (A.HRM_VCCRED p v) F.HRM_VCCRED_RXBUF (vcBuf d p v)
  modPort d p (fun x => { x with owed := sset 0 v (sget 0 v x.owed + vcBuf d p v) x.owed })

/-- An IDENT of this end (R476). -/
def identMsg (d : Dev) (p res : Nat) : Msg :=
  { dchip := (portOf d p).peer.chip, schip := ownChip d, mtype := 9, lepoch := 0, ttl := initTtl d, gp := false,
    w1 := instMachine d,
    w2 := ownChip d + p <<< 14 + 1 <<< 24 + (fget d A.GLB_ID F.GLB_ID_HMAJ) <<< 32
      + (liveGet d (A.HRM_PCTL p) F.HRM_PCTL_CLASS) <<< 40 + res <<< 42,
    hi := fget d A.GLB_ID F.GLB_ID_BUILD, vc := 5, data := [] }

/-- LOCK ends: IDENT, with the VC5 buffer granted and the first IDENT on its way (R471, R476, R479). -/
def lockDone (d : Dev) (p : Nat) : Dev :=
  if !inPhase d p 4 then d
  else
    let d := setLstate (modPort d p (fun x => { x with phase := 0, ident := [], frameNo := none, badFrames := 0 })) p 4
    enqueue (grantVc d p 5) p (identMsg d p 0) none

/-- TRAIN µs have passed since DETECT ended without IDENT (R471). -/
def trainingTimeout (d : Dev) (p : Nat) : Dev :=
  let x := portOf d p
  if lstate d p = 3 ∧ x.failAt = 0 ∧ x.trainAt + us (liveGet d (A.HRM_CFG p) F.HRM_CFG_TRAIN) ≤ d.now then
    trainFail d p (fget d (A.HRM_LANE p) F.HRM_LANE_PASS)
  else d

/-- 1 ms after a failed training the port enters a new reset (R471). -/
def trainfailReset (d : Dev) (p : Nat) : Dev :=
  let x := portOf d p
  if x.failAt ≠ 0 ∧ x.failAt - 1 + ms 1 ≤ d.now then linkReset d p 5 else d

/-- This end's finding of an IDENT: 1 UP, 2 MGMT, 3 MISWIRED (R477, R478). -/
def identFinding (d : Dev) (p : Nat) (m : Msg) : Nat :=
  let named := match instPeer d p with
    | some (c, q) => c == bits m.w2 13 0 && q == bits m.w2 16 14
    | none => false
  if m.w1 ≠ instMachine d ∨ named = false then 3
  else if bits m.w2 39 32 ≠ fget d A.GLB_ID F.GLB_ID_HMAJ then 2
  else 1

/-- The link leaves IDENT for the state of the larger RES (R476, R478, R479). -/
def linkCame (d : Dev) (p res : Nat) : Dev :=
  let d := fset (setLstate d p (4 + res)) (A.HRM_LANE p) F.HRM_LANE_PARFAIL 0
  let d := touchPorts d [p]
  let d := if res = 1 then rilReopen ((List.range 5).foldl (fun d v => grantVc d p v) d) p else d
  linkChanged d p

/-- An IDENT is processed (R476 to R478). -/
def identTake (d : Dev) (p : Nat) (m : Msg) : Dev :=
  let d := takeInbox d p m
  if lstate d p ≠ 4 then d
  else
    let x := portOf d p
    let res := bits m.w2 43 42
    let b := A.HRM_PEERB p
    let d := regSet (regSet d (A.HRM_PEERA p) (BitVec.ofNat 64 m.w1)) (A.HRM_PEERC p) (BitVec.ofNat 64 (m.hi % 2 ^ 32))
    let d := fset (fset d b F.HRM_PEERB_MAJOR (bits m.w2 39 32)) b F.HRM_PEERB_MINOR (bits m.w2 31 24)
    let d := fset (fset d b F.HRM_PEERB_CLASS (bits m.w2 41 40)) b F.HRM_PEERB_PORT (bits m.w2 16 14)
    let d := fset d b F.HRM_PEERB_CHIP (bits m.w2 13 0)
    if x.ident.isEmpty then
      let own := identFinding d p m
      let d := fset d (A.HRM_PSTS p) F.HRM_PSTS_MINOR (min (bits m.w2 31 24) 1)
      let d := modPort d p (fun x => { x with ident := [res], ownRes := own })
      let d := if own = 3 then hrmNote d p 0xEB 0 else if own = 2 then hrmNote d p 0xEC 0 else d
      enqueue d p (identMsg d p own) none
    else
      linkCame (modPort d p (fun x => { x with ident := res :: x.ident })) p (max x.ownRes (max res 1))

/-! ### Frames (R445 to R449) -/

/-- Lanes of the link. -/
def linkLanes (d : Dev) (p : Nat) : Nat := 16 >>> fget d (A.HRM_PSTS p) F.HRM_PSTS_WIDTH

/-- A lane whose parity mismatched counts it in the aligned ms; at PTHR the lane fails (R448). -/
def laneMismatch (d : Dev) (p lane : Nat) : Dev :=
  let l := A.HRM_LANE p
  let d := fset (countPkg d 0x807 p 1 false) l F.HRM_LANE_PARFAIL (fget d l F.HRM_LANE_PARFAIL ||| 2 ^ lane)
  let x := portOf d p
  let m := d.now / ms 1
  let cnt := if x.parMs = m then x.parCnt else []
  let n := sget 0 lane cnt + 1
  let d := setPort d p { x with parMs := m, parCnt := sset 0 lane n cnt }
  if n = fget d (A.HRM_CFG p) F.HRM_CFG_PTHR ∧ (fget d l F.HRM_LANE_EXCL).testBit lane = false then
    let d := fset d l F.HRM_LANE_EXCL (fget d l F.HRM_LANE_EXCL ||| 2 ^ lane)
    let d := hrmRaise d p 0xE9 0 (epochOf d p) (fget d (A.HRM_PSTS p) F.HRM_PSTS_CAUSE) (fget d l F.HRM_LANE_EXCL) 0 0
    resetRequest d p 2
  else d

/-- A frame of 2,176 symbols is decoded: its codewords corrected, lock watched, its lane parity compared with what the
frame before carried, and its flits laid out (R445 to R449). -/
def frameReceive (d : Dev) (p : Nat) (syms : List Nat) : Dev :=
  if lstate d p < 4 then d
  else
    let w := linkLanes d p
    let f := frameDecode w syms
    let e := A.HRM_ERRCNT p
    let d := fincSat (countPkg d 0x805 p f.corrected false) e F.HRM_ERRCNT_FECCORR f.corrected
    let d := fincSat (countPkg d 0x806 p f.failed false) e F.HRM_ERRCNT_FECUNC f.failed
    let x := portOf d p
    let odd := match x.frameNo with
      | some n => decide (f.no ≠ (n + 1) % 4096)
      | none => false
    let bad := decide (0 < f.failed) || odd
    let n := if bad then x.badFrames + 1 else 0
    let no := if f.failed = 0 then f.no else match x.frameNo with
      | some n => (n + 1) % 4096
      | none => f.no
    let d := setPort d p { x with badFrames := n, frameNo := some no, frameBad := decide (0 < f.failed), rx := f.flits,
                                  parRaw := laneParity w syms }
    if 8 ≤ n then resetRequest (modPort d p (fun x => { x with badFrames := 0 })) p 4
    else if 5 ≤ lstate d p ∧ bad = false ∧ x.parRaw.length = w then
      let base := fget d (A.HRM_PSTS p) F.HRM_PSTS_LGRP * w
      (((x.parRaw.zip f.parity).zipIdx.filter (fun q => decide (q.1.1 ≠ q.1.2))).map (·.2)).foldl (fun d l => laneMismatch d p (base + l)) d
    else d

/-! ### Flits out (R450 to R454, R462 to R464) -/

/-- A flit: header, 244 payload bytes and CRC. -/
def flitBytes (d : Dev) (p kind vc seq cvc ccnt : Nat) (payload : List Byte) : List Byte :=
  let x := portOf d p
  let ack := if x.accepted then (x.expect + 4095) % 4096 else 0xFFF
  let (flags, sstep) := ownFlags d
  let h := kind + vc <<< 4 + (seq % 4096) <<< 8 + ack <<< 20 + (b2n x.nak) <<< 32 + cvc <<< 33 + ccnt <<< 36 + flags <<< 45
    + sstep <<< 49
  let body := leBytes 8 h ++ (payload ++ List.replicate 244 0).take 244
  body ++ leBytes 4 (crc32c body)

/-- A flit leaves: it carries a credit return, ACK and NAK. -/
def flitOut (d : Dev) (p kind vc seq : Nat) (payload : List Byte) : Dev :=
  let x := portOf d p
  let (cvc, ccnt) := match x.owed with
    | (v, n) :: _ => (v, min n 511)
    | [] => (0, 0)
  let b := flitBytes d p kind vc seq cvc ccnt payload
  setPort d p { x with tx := b, nak := false, owed := if ccnt = 0 then x.owed else sset 0 cvc (sget 0 cvc x.owed - ccnt) x.owed }

/-- The header bytes of a message as the link carries it: LEPOCH is the port's epoch, and TTL is 0 at minor version 0
(R455, R460, R478). -/
def msgHeader (d : Dev) (p : Nat) (m : Msg) : List Byte :=
  let ttl := if fget d (A.HRM_PSTS p) F.HRM_PSTS_MINOR = 0 ∧ lstate d p ≠ 4 then 0 else m.ttl
  leBytes 8 (m.dchip % 2 ^ 14 + (m.schip % 2 ^ 14) <<< 14 + (m.mtype % 16) <<< 28 + (epochOf d p) <<< 32 + (ttl % 256) <<< 48
      + (b2n m.gp) <<< 56)
    ++ leBytes 8 m.w1 ++ leBytes 8 m.w2 ++ leBytes 8 (m.data.length + m.hi <<< 32)

/-- Credits held for a virtual channel (SCRED). -/
def creditOf (d : Dev) (p v : Nat) : Nat := fget d (A.HRM_VCCRED p v) F.HRM_VCCRED_SCRED

/-- The message of a virtual channel whose next flit may be sent (R454, R462, R464, R467, R486). -/
def nextOut (d : Dev) (p v : Nat) : Option Out :=
  let x := portOf d p
  if creditOf d p v = 0 ∨ 2048 ≤ x.replay.length then none
  else match x.queue.find? (fun o => o.msg.vc == v) with
    | none => none
    | some o =>
      if v = 5 ∨ (lstate d p = 5 ∧ (dataRuns d p = true ∨ (0 < o.sent ∧ stOf d (A.HRM_PSTS p) = 2))) then some o else none

/-- The next flit of a message is formed and sent. -/
def sendData (d : Dev) (p : Nat) (o : Out) : Dev :=
  let n := flitsOf o.msg
  let v := o.msg.vc
  let last := decide (o.sent + 1 = n)
  let payload := if o.sent = 0 then msgHeader d p o.msg ++ o.msg.data.take 212
    else (o.msg.data.drop (212 + 244 * (o.sent - 1))).take 244
  let kind := (if o.sent = 0 then 4 else 6) + b2n last
  let r := A.HRM_RPL p
  let seq := fget d r F.HRM_RPL_NEXTSEQ
  let d := flitOut d p kind v seq payload
  let d := modPort d p (fun x =>
    { x with replay := x.replay ++ [⟨seq, kind, payload, 0, o⟩],
             queue := if last then x.queue.filter (fun q => q.id != o.id)
               else x.queue.map (fun q => if q.id = o.id then { q with sent := q.sent + 1 } else q) })
  let d := finc (fset d r F.HRM_RPL_NEXTSEQ (seq + 1)) r F.HRM_RPL_OCC 1
  let d := fset d (A.HRM_VCCRED p v) F.HRM_VCCRED_SCRED (creditOf d p v - 1)
  countPkg (countPkg d 0x800 p 1 false) (0x810 + v) p 1 false

/-- An IDLE leaves (R453, R514, R518). -/
def sendIdle (d : Dev) (p : Nat) : Dev :=
  let d := flitOut d p 0 0 (fget d (A.HRM_RPL p) F.HRM_RPL_NEXTSEQ) (idleContent d p)
  countPkg (modPort d p (fun x => { x with idleAt := sidNow d + 1, newContent := false })) 0x802 p 1 false

/-- Weight of VC v in the round; 0 acts as 1 (R463). -/
def drrWeight (d : Dev) (p v : Nat) : Nat :=
  let f : Fld := ⟨4 * (v - 1) + 3, 4 * (v - 1)⟩
  max (liveGet d (A.HRM_PARB p) f) 1

/-- The weighted flit of VC1 to VC4 by deficit round robin (R463). -/
def weighted (d : Dev) (p : Nat) : Option (Dev × Out) :=
  let ready := [1, 2, 3, 4].filter (fun v => (nextOut d p v).isSome)
  if ready.isEmpty then none
  else
    let x := portOf d p
    let left (l : List (Nat × Nat)) (v : Nat) : Bool := decide (sget 0 v l < drrWeight d p v)
    let round := if ready.any (left x.deficit) then x.deficit else []
    match ready.find? (left round) with
    | none => none
    | some v => (nextOut d p v).map (fun o => (setPort d p { x with deficit := sset 0 v (sget 0 v round + 1) round }, o))

/-- An IDLE is due: 448 st since the last, or changed content (R453, R518). -/
def idleDue (d : Dev) (p : Nat) : Bool :=
  let x := portOf d p
  x.newContent || x.idleAt == 0 || decide (x.idleAt - 1 + 448 ≤ sidNow d)

/-- A flit slot of a port (R463). -/
def flitSend (d : Dev) (p : Nat) : Dev :=
  if lstate d p < 4 then d
  else if idleDue d p then sendIdle d p
  else
    let x := portOf d p
    match x.resend.bind (fun i => x.replay[i]?) with
    | some r =>
      let i := x.resend.getD 0 + 1
      let d := flitOut d p r.kind r.out.msg.vc r.seq r.bytes
      countPkg (countPkg (modPort d p (fun x => { x with resend := if i < x.replay.length then some i else none })) 0x800 p 1 false)
        (0x810 + r.out.msg.vc) p 1 false
    | none =>
      match nextOut d p 0 with
      | some o => sendData d p o
      | none =>
        match nextOut d p 5 with
        | some o => sendData d p o
        | none =>
          match weighted d p with
          | some (d, o) => sendData d p o
          | none => sendIdle d p

/-! ### Flits in (R452, R455, R456, R464 to R466) -/

/-- An ACK covers every flit up to it (R464). -/
def takeAck (d : Dev) (p ack : Nat) : Dev :=
  let x := portOf d p
  match x.replay.findIdx? (fun r => r.seq == ack) with
  | none => d
  | some i =>
    let d := setPort d p { x with replay := x.replay.drop (i + 1), resend := x.resend.bind (fun k => if k ≤ i then (if i + 1 < x.replay.length then some 0 else none) else some (k - i - 1)) }
    let r := A.HRM_RPL p
    fset (fset d r F.HRM_RPL_ACKED (ack + 1)) r F.HRM_RPL_OCC (portOf d p).replay.length

/-- A NAK: every flit from ACK + 1 on is sent again, unless the first has been replayed too often (R465, R466). -/
def takeNak (d : Dev) (p : Nat) : Dev :=
  let x := portOf d p
  match x.replay with
  | [] => d
  | r :: rest =>
    if fget d (A.HRM_CFG p) F.HRM_CFG_RPLIM < r.count + 1 then resetRequest d p 3
    else
      let m := d.now / ms 1 + 1
      let d := setPort d p { x with replay := { r with count := r.count + 1 } :: rest, resend := some 0, replayMs := m }
      let d := fincSat (countPkg d 0x804 p 1 false) (A.HRM_ERRCNT p) F.HRM_ERRCNT_REPLAYS 1
      if x.replayMs = m then d else hrmNote d p 0xEF 1

/-- Credits returned (R462); the peer's buffer is as large as the credits it grants. -/
def takeCredits (d : Dev) (p cvc n : Nat) : Dev :=
  if n = 0 ∨ 5 < cvc then d
  else
    let r := A.HRM_VCCRED p cvc
    let held := creditOf d p cvc + n
    let d := fset d r F.HRM_VCCRED_SCRED held
    let open' := held + ((portOf d p).replay.filter (fun q => q.out.msg.vc == cvc)).length
    fset d r F.HRM_VCCRED_PEERBUF (max (fget d r F.HRM_VCCRED_PEERBUF) open')

/-- A NAK is to be sent, unless one was sent in the last 2 µs (R465). -/
def nakNow (d : Dev) (p : Nat) : Dev :=
  let x := portOf d p
  if x.nakAt ≠ 0 ∧ d.now < x.nakAt - 1 + us 2 then d else setPort d p { x with nak := true, nakAt := d.now + 1 }

/-- Bits of bytes 8–15 and 16–23 that a message type names (R456, R528). -/
def namedBits (mtype : Nat) : Nat × Nat :=
  let f (hi lo : Nat) : Nat := 2 ^ (hi + 1) - 2 ^ lo
  let rill := f 11 0 + f 27 16 + f 47 32
  let all := 2 ^ 64 - 1
  match mtype with
  | 0 => (rill, 0)
  | 1 => (rill, f 8 0)
  | 2 => (rill, f 3 0 + f 12 8)
  | 3 => (f 13 0 + f 23 16 + f 63 24, f 61 0)
  | 4 => (f 53 0, f 18 0 + f 47 32)
  | 5 => (f 53 0, f 18 0 + f 52 32)
  | 6 | 7 => (f 18 0 + f 51 32, f 13 0 + f 18 16 + f 47 32)
  | 9 => (all, f 16 0 + f 43 24)
  | _ => (all, all)

/-- Virtual channels a type may use (R456). -/
def vcAllowed (mtype vc : Nat) : Bool :=
  match mtype with
  | 0 | 1 | 2 => vc == 0
  | 3 => vc == 1 || vc == 4
  | 4 | 5 => vc == 2 || vc == 4
  | 6 | 7 => vc == 3
  | 8 | 9 => vc == 5
  | _ => false

/-- A message that R456 discards. `w0` is bytes 0–7 of its header. -/
def protoBad (m : Msg) (w0 : Nat) : Bool :=
  let n := namedBits m.mtype
  !vcAllowed m.mtype m.vc || decide (bits w0 63 57 ≠ 0) || decide (m.w1 &&& (2 ^ 64 - 1 - n.1) ≠ 0)
    || decide (m.w2 &&& (2 ^ 64 - 1 - n.2) ≠ 0) || (m.mtype != 9 && m.hi != 0)

/-- A message has come in whole: it waits in the inbox, or is discarded with HRM_PROTO. -/
def msgWhole (d : Dev) (p : Nat) (m : Msg) (w0 : Nat) : Dev :=
  if protoBad m w0 then hrmRaise (freeFlits d p m.vc (flitsOf m)) p 0xE2 2 (epochOf d p) 0 0 m.vc 0
  else modPort d p (fun x => { x with inbox := x.inbox ++ [m] })

/-- An accepted HEAD or BODY flit (R454, R455). -/
def flitTake (d : Dev) (p kind vc : Nat) (payload : List Byte) : Dev :=
  let r := A.HRM_VCCRED p vc
  let d := fset d r F.HRM_VCCRED_RXOCC (fget d r F.HRM_VCCRED_RXOCC + 1)
  let part : Option Part :=
    if kind < 6 then
      let w0 := leAt payload 0 8
      let w3 := leAt payload 24 8
      some ⟨{ dchip := bits w0 13 0, schip := bits w0 27 14, mtype := bits w0 31 28, lepoch := bits w0 47 32,
              ttl := bits w0 55 48, gp := bit w0 56, w1 := leAt payload 8 8, w2 := leAt payload 16 8, hi := bits w3 63 32,
              vc := vc, data := (payload.drop 32).take (bits w3 31 0) }, w0, bits w3 31 0 - 212⟩
    else (sfind vc (portOf d p).parts).map (fun q =>
      { q with msg := { q.msg with data := q.msg.data ++ payload.take q.left }, left := q.left - 244 })
  match part with
  | none => freeFlits d p vc 1
  | some q =>
    if kind % 2 = 1 then msgWhole (modPort d p (fun x => { x with parts := sdel vc x.parts })) p q.msg q.bits'
    else modPort d p (fun x => { x with parts := sput vc q x.parts })

/-- A flit arrives (R465). -/
def flitReceive (d : Dev) (p : Nat) (b : List Byte) : Dev :=
  if lstate d p < 4 then d
  else
    let h := leAt b 0 8
    let kind := bits h 3 0
    let vc := bits h 6 4
    let seq := bits h 19 8
    let x := portOf d p
    let good := decide (b.length = 256) && leAt b 252 4 == crc32c (b.take 252) && [0, 4, 5, 6, 7].contains kind && !x.frameBad
      && decide (vc ≤ 5)
    if !good then nakNow (countPkg d 0x803 p 1 false) p
    else
      let payload := (b.drop 8).take 244
      let d := if kind = 0 ∧ seq = x.expect then modPort d p (fun x => { x with peerSlice := leAt payload 22 2 }) else d
      let d := adoptFlags d p (bits h 48 45) (bits h 56 49)
      let d := takeCredits (takeAck d p (bits h 31 20)) p (bits h 35 33) (bits h 44 36)
      if seq = x.expect then
        let d := if bit h 32 then takeNak d p else d
        if lstate d p < 4 then d
        else if kind = 0 then idleTake d p payload
        else
          let d := modPort d p (fun x => { x with expect := (x.expect + 1) % 4096, accepted := true })
          flitTake (countPkg d 0x801 p 1 false) p kind vc payload
      else if kind ≠ 0 ∧ (x.expect + 4096 - seq) % 4096 ≤ 2048 then d
      else nakNow d p

/-! ### Forwarding (R458 to R460) -/

/-- A request that cannot travel on is answered NOROUTE; a response is counted (R459). -/
def noRoute (d : Dev) (p : Nat) (m : Msg) : Dev :=
  let d := hrmRaise d p 0xE1 2 (epochOf d p) 0 0 m.vc 0
  if m.mtype = 4 ∨ m.mtype = 5 then sendSynthetic d (synthetic d (m.mtype == 5) m.schip m.w2 4 p (epochOf d p))
  else if m.mtype = 6 ∨ m.mtype = 7 then dropCount d p F.HRM_DROPCNT_DROPPED 1
  else d

/-- A message for another chip is routed on (R458, R460, R486, R498). -/
def messageForward (d : Dev) (p : Nat) (m : Msg) : Dev :=
  let d := takeInbox d p m
  if m.dchip = ownChip d then d
  else if m.lepoch ≠ epochOf d p then staleNote d p
  else if m.vc ≠ 5 ∧ dataRuns d p = false then dropCount d p F.HRM_DROPCNT_DROPPED 1
  else
    let minor := fget d (A.HRM_PSTS p) F.HRM_PSTS_MINOR
    if 6 ≤ p ∨ (minor ≠ 0 ∧ m.ttl = 0) then noRoute d p m
    else match routeTo d m.dchip with
      | none => noRoute d p m
      | some q =>
        let ttl := if minor = 0 then initTtl d else m.ttl
        sendBy (countPkg d 0xC04 p 1 false) q { m with ttl := ttl - 1 } none

/-! ### Response timeouts (R483) -/

/-- A request outstanding for longer than RSP µs of its port completes with TIMEOUT. -/
def responseTimeout (d : Dev) : Dev :=
  match d.aqd.reqs.find? (fun r => r.owner != 4 && r.data.isNone
      && decide (r.at' + us (fget d (A.HRM_CFG r.oport) F.HRM_CFG_RSP) < d.now)) with
  | none => d
  | some r => aqdAnswer (countPkg (dropCount d r.oport F.HRM_DROPCNT_TMO 1) 0x819 r.oport 1 false) r false []

/-! ### The data path as a block (R486) -/

/-- Messages of a port on the data channels. -/
def dataOuts (x : Port) : List Out := (x.replay.map (·.out) ++ x.queue).filter (fun o => o.msg.vc != 5)

/-- No data-VC flit is queued or unacknowledged. -/
def hrmDrained (d : Dev) (p : Nat) : Bool := (dataOuts (portOf d p)).isEmpty

/-- What is left after 100 µs is dropped without a reset. -/
def hrmDiscard (d : Dev) (p : Nat) : Dev :=
  let x := portOf d p
  let ms := heldMessages { x with replay := x.replay.filter (fun r => r.out.msg.vc != 5), queue := x.queue.filter (fun o => o.msg.vc != 5) }
  dropAll (setPort d p { x with queue := x.queue.filter (fun o => o.msg.vc == 5) }) p (epochOf d p)
    (fget d (A.HRM_PSTS p) F.HRM_PSTS_CAUSE) ms

/-! ### The meanings of the commands -/

/-- LINK_ON (R468): the host writes HRM_PCTL.LINK = 1. -/
def execLinkOn (t : Nat) (port : BitVec 3) (s : State) : Host.Outcome State Fault Refusal :=
  act (fun d => linkOn (tick d t) port.toNat) s

/-- LINK_OFF (R468): the host writes HRM_PCTL.LINK = 0. -/
def execLinkOff (t : Nat) (port : BitVec 3) (s : State) : Host.Outcome State Fault Refusal :=
  act (fun d => linkOff (tick d t) port.toNat) s

/-- RETRAIN (R468). -/
def execRetrain (t : Nat) (port : BitVec 3) (s : State) : Host.Outcome State Fault Refusal :=
  act (fun d => retrain (tick d t) port.toNat) s

/-- RESET_RECEIVE (R469): a RESET ordered set of the peer. -/
def execResetReceive (t : Nat) (port : BitVec 3) (s : State) : Host.Outcome State Fault Refusal :=
  act (fun d => resetRequest (tick d t) port.toNat 1) s

/-- QUIET_END (R470). -/
def execQuietEnd (t : Nat) (port : BitVec 3) (s : State) : Host.Outcome State Fault Refusal :=
  act (fun d => quietEnd (tick d t) port.toNat) s

/-- DETECT_DONE (R473): the peer's CHIP, NONCE, EPOCH, RW and EXCL. -/
def execDetectDone (t : Nat) (port : BitVec 3) (chip : BitVec 14) (nonce : BitVec 16) (epoch : BitVec 16) (rw : BitVec 2)
    (excl : BitVec 16) (s : State) : Host.Outcome State Fault Refusal :=
  act (fun d => detectDone (tick d t) port.toNat ⟨chip.toNat, nonce.toNat, epoch.toNat, rw.toNat, excl.toNat⟩) s

/-- EQ_DONE (R471). -/
def execEqDone (t : Nat) (port : BitVec 3) (s : State) : Host.Outcome State Fault Refusal :=
  act (fun d => eqDone (tick d t) port.toNat) s

/-- TEST_END (R471): each lane's symbol errors, none where it is not in lock. -/
def execTestEnd (t : Nat) (port : BitVec 3) (lanes : List (Option Nat)) (s : State) : Host.Outcome State Fault Refusal :=
  act (fun d => testEnd (tick d t) port.toNat lanes) s

/-- DECIDE_DONE (R474): the peer's PASS, WIDTH and LGRP. -/
def execDecideDone (t : Nat) (port : BitVec 3) (pass : BitVec 16) (width : BitVec 2) (lgrp : BitVec 2) (s : State) :
    Host.Outcome State Fault Refusal :=
  act (fun d => decideDone (tick d t) port.toNat pass.toNat width.toNat lgrp.toNat) s

/-- LOCK_DONE (R471). -/
def execLockDone (t : Nat) (port : BitVec 3) (s : State) : Host.Outcome State Fault Refusal :=
  act (fun d => lockDone (tick d t) port.toNat) s

/-- IDENT (R476). -/
def execIdent (t : Nat) (port : BitVec 3) (m : Msg) (s : State) : Host.Outcome State Fault Refusal :=
  act (fun d => identTake (tick d t) port.toNat m) s

/-- TRAINING_TIMEOUT (R471). -/
def execTrainingTimeout (t : Nat) (port : BitVec 3) (s : State) : Host.Outcome State Fault Refusal :=
  act (fun d => trainingTimeout (tick d t) port.toNat) s

/-- TRAINFAIL_RESET (R471). -/
def execTrainfailReset (t : Nat) (port : BitVec 3) (s : State) : Host.Outcome State Fault Refusal :=
  act (fun d => trainfailReset (tick d t) port.toNat) s

/-- FRAME_RECEIVE (R449): the frame's 2,176 symbols, descrambled. -/
def execFrameReceive (t : Nat) (port : BitVec 3) (symbols : List Nat) (s : State) : Host.Outcome State Fault Refusal :=
  act (fun d => frameReceive (tick d t) port.toNat symbols) s

/-- FLIT_RECEIVE (R465): the flit's 256 bytes. -/
def execFlitReceive (t : Nat) (port : BitVec 3) (flit : List Byte) (s : State) : Host.Outcome State Fault Refusal :=
  act (fun d => flitReceive (tick d t) port.toNat flit) s

/-- FLIT_SEND (R463). -/
def execFlitSend (t : Nat) (port : BitVec 3) (s : State) : Host.Outcome State Fault Refusal :=
  act (fun d => flitSend (tick d t) port.toNat) s

/-- IDLE_SEND (R453): an IDLE that is due, or that the port sends for want of anything else. -/
def execIdleSend (t : Nat) (port : BitVec 3) (s : State) : Host.Outcome State Fault Refusal :=
  act (fun d => let d := tick d t; if lstate d port.toNat < 4 then d else sendIdle d port.toNat) s

/-- MESSAGE_FORWARD (R458). -/
def execMessageForward (t : Nat) (port : BitVec 3) (m : Msg) (s : State) : Host.Outcome State Fault Refusal :=
  act (fun d => messageForward (tick d t) port.toNat m) s

/-- RESPONSE_TIMEOUT (R483). -/
def execResponseTimeout (t : Nat) (s : State) : Host.Outcome State Fault Refusal :=
  act (fun d => responseTimeout (tick d t)) s

end Sys2Proof.Machine
end

