-- ==== Sys2Proof/Machine/Col.lean ====
section
/-! DEFINITION. The collective engine: ring collectives and the permutation of the reclaim drill (R524 to R532, R536,
R544). -/

namespace Sys2Proof.Machine

/-! ### Entries (R524, R527) -/

/-- Chunk bytes, first and last phase, element format of an entry. -/
def ceChunk (e : List Nat) : Nat := cltLen e / cltNm e
def ceFirst (e : List Nat) : Nat := if cltOp e = 2 then cltNm e - 1 else 0
def ceLast (e : List Nat) : Nat := if cltOp e = 1 then cltNm e - 2 else 2 * cltNm e - 3
def ceFmt (e : List Nat) : FFmt := if cltFmt e = 0 then fmtFP32 else fmtBF16
def ceBytes (e : List Nat) : Nat := if cltFmt e = 0 then 4 else 2
def ceVc (e : List Nat) : Nat := if bit (e.getD 0 0) 44 then 4 else 1
def ceGp (e : List Nat) : Bool := bit (e.getD 0 0) 55
def ceAcc (e : List Nat) : Nat := bits (e.getD 0 0) 59 56
def ceTapL (e : List Nat) : Bool := bit (e.getD 0 0) 60 && bit (e.getD 0 0) 62
def ceTapR (e : List Nat) : Bool := bit (e.getD 0 0) 61 && bit (e.getD 0 0) 62
def ceScale (e : List Nat) : Nat := bits (e.getD 2 0) 63 32
def ceTrill (e : List Nat) : Nat := bits (e.getD 3 0) 11 0
def ceTcount (e : List Nat) : Nat := bits (e.getD 3 0) 31 16

/-- The chunk that position `i` sends in phase `p` (R527). -/
def ceSends (e : List Nat) (p : Nat) : Nat :=
  let n := cltNm e
  let i := cltIdx e
  if p + 1 < n then (i + n - p) % n else (i + 1 + 2 * n - (p + 1 - n)) % n

/-- Elements of a run of bytes as values. -/
def ceValues (e : List Nat) (bs : List Byte) : List FVal := (chunks (ceBytes e) (ceBytes e) bs).map (fun c => decF (ceFmt e) (leNat c))

/-- Attempt number as it is now. -/
def attemptNow (d : Dev) : Nat := fget d A.SID_STEP F.SID_STEP_ATTEMPT

/-- A COLL message of this chip (R528). -/
def collMsg (d : Dev) (dst vc ck cid attempt phase step off fmt : Nat) (gp : Bool) (data : List Byte) : Msg :=
  { dchip := dst, schip := ownChip d, mtype := 3, lepoch := 0, ttl := initTtl d, gp := gp,
    w1 := ck + (cid % 1024) <<< 4 + (attempt % 256) <<< 16 + (phase % 256) <<< 24 + (step % 2 ^ 32) <<< 32,
    w2 := off % 2 ^ 42 + (fmt % 16) <<< 42 + (fget d A.SID_SLICE F.SID_SLICE_SLICE) <<< 46, hi := 0, vc := vc, data := data }

def collOf (d : Dev) (cid : Nat) : Option Coll := d.mach.colls.find? (fun c => c.cid == cid)
def setColl (d : Dev) (c : Coll) : Dev := setColls d (d.mach.colls.map (fun x => if x.cid = c.cid then c else x))

/-- The chip at ring position `i` of an entry's list, modulo N. -/
def cltPeer (d : Dev) (e : List Nat) (i : Nat) : Nat := cltMember d e (i % cltNm e)

/-! ### Running a collective (R527, R530) -/

/-- The bytes of a phase are sent, in messages of at most 4 KiB. -/
def sendPhase (d : Dev) (c : Coll) : Dev :=
  let e := c.ent
  let off := ceSends e c.next * ceChunk e
  let (d, bs) := qGet d (cltBuf e + off) (ceChunk e)
  let ck := if c.next + 1 < cltNm e then 0 else 1
  let dst := cltPeer d e (cltIdx e + 1)
  (pieces 4096 bs.length 0 bs).foldl (fun d p =>
    sendMsg d (collMsg d dst (ceVc e) ck c.cid c.attempt c.next c.step (off + p.1) (cltFmt e) (ceGp e) p.2)) d

/-- The reduced chunk is scaled and tapped once phase N − 2 has landed (R527, R530). -/
def scaleChunk (d : Dev) (c : Coll) : Dev :=
  let e := c.ent
  let a := cltBuf e + (cltIdx e + 1) % cltNm e * ceChunk e
  let (d, bs) := qGet d a (ceChunk e)
  let vs := if ceScale e = 0 then ceValues e bs
    else (ceValues e bs).map (fun v => rndTo (ceFmt e) (fmul v (decF fmtFP32 (ceScale e))))
  let d := if ceScale e = 0 then d else qPut d a (vs.map (fun v => leBytes (ceBytes e) (encF (ceFmt e) v))).flatten
  let d := if ceScale e = 0 then d
    else reportEvents d 0 (ceGp e) c.step srcOTHER 0 ⟨0, 0, (vs.filter (fun v => !v.isFinite)).length⟩
  if ceTapR e then gnTap d (ceAcc e) true vs else d

/-- The phases whose conditions hold are sent; `fuel` bounds their number. -/
def collGo (cid : Nat) : Nat → Dev → Dev
  | 0, d => d
  | fuel + 1, d =>
    match collOf d cid with
    | none => d
    | some c =>
      let e := c.ent
      if cltOp e ≠ 2 ∧ c.scaled = false ∧ cltNm e - 1 ≤ c.landed then
        collGo cid fuel (scaleChunk (setColl d { c with scaled := true }) c)
      else
        let ready := if c.next = ceFirst e then c.ready else decide (c.next ≤ c.landed)
        if c.next ≤ ceLast e ∧ ready = true then
          collGo cid fuel (sendPhase (setColl d { c with next := c.next + 1 }) c)
        else d

/-- A running collective goes on. -/
def collRun (d : Dev) (cid : Nat) : Dev :=
  match collOf d cid with
  | none => d
  | some c => collGo cid (2 * cltNm c.ent + 1) d

/-- The next armed entry launches, where it may (R526, R527, R530). -/
def collLaunch (d : Dev) : Dev :=
  let k := d.mach.launched
  match cltEntry d k with
  | none => d
  | some e =>
    if d.mach.armed ≤ k ∨ d.mach.ended = 1 ∨ trigProd d (ceTrill e) < ceTcount e ∨ 16 ≤ d.mach.colls.length
        ∨ running d .col = false then d
    else
      let at' := curStep d * 256 + attemptNow d
      let kept := d.mach.keptReady.contains (k, at')
      let c : Coll := { cid := k, ent := e, step := curStep d, attempt := attemptNow d, launchedAt := d.now, ready := kept,
                        next := ceFirst e, acked := ceFirst e, bytes := [], landed := ceFirst e, scaled := false }
      let d := setMach d (fun m => { m with launched := k + 1, keptReady := m.keptReady.erase (k, at') })
      let d := setColls d (d.mach.colls ++ [c])
      let d := if ceTapL e then
          let own := cltOp e = 2
          let a := cltBuf e + (if own then (cltIdx e + 1) % cltNm e * ceChunk e else 0)
          let (d, bs) := qGet d a (if own then ceChunk e else cltLen e)
          gnTap d (ceAcc e) false (ceValues e bs)
        else d
      let d := sendMsg d (collMsg d (cltPeer d e (cltIdx e + cltNm e - 1)) (ceVc e) 2 k c.attempt 0 c.step 0 (cltFmt e) false [])
      collRun d k

/-! ### COLL messages in (R527 to R529) -/

/-- What every COLL message but PWRITE is tested for: the data path, the link's epoch, SLICE, STEP and ATTEMPT. -/
def collCurrent (d : Dev) (m : Msg) : Bool :=
  bits m.w2 61 46 == fget d A.SID_SLICE F.SID_SLICE_SLICE && bits m.w1 63 32 == curStep d && bits m.w1 23 16 == attemptNow d

/-- A stale COLL message is discarded and counted (R529). -/
def collStale (d : Dev) : Dev := countPkg d 0xC09 0 1 true

/-- What becomes of an arriving message before its own tests: dropped, stale on the link, or taken. -/
def arrival (d : Dev) (p : Nat) (m : Msg) (f : Dev → Dev) : Dev :=
  let own := fromSelf d p m
  let dead := portDead d p m || (!own && replayMode d)
  let old := linkStale d p m
  let d := takeInbox d p m
  if dead then dropCount d p F.HRM_DROPCNT_DROPPED 1
  else if old then staleNote d p
  else f (if own then d else capMsg d p m)

/-- ADD and WRITE: the chunk's bytes are added, or written, and counted for their phase (R527, R530). -/
def collData (d : Dev) (m : Msg) (add : Bool) : Dev :=
  match collOf d (bits m.w1 13 4) with
  | none => collStale d
  | some c =>
    let e := c.ent
    let off := bits m.w2 41 0
    if !collCurrent d m || decide (cltLen e < off + m.data.length) then collStale d
    else
      let a := cltBuf e + off
      let d := if add then
          (pieces 128 m.data.length a m.data).foldl (fun d p => (poolAtomic d p.1 (cltFmt e) p.2 m.gp c.step).1) d
        else
          let d := qPut d a m.data
          if ceTapR e then gnTap d (ceAcc e) true (ceValues e m.data) else d
      let p := phaseNear c.landed (bits m.w1 31 24)
      setColl d { c with bytes := sset 0 p (sget 0 p c.bytes + m.data.length) c.bytes }

/-- A phase has landed: all its bytes can be read by every unit; ACK goes to the sender (R527). -/
def phaseLanded (d : Dev) (cid : Nat) : Dev :=
  match collOf d cid with
  | none => d
  | some c =>
    let e := c.ent
    if ceLast e < c.landed ∨ sget 0 c.landed c.bytes < ceChunk e then d
    else
      let d := setColl d { c with landed := c.landed + 1 }
      let d := sendMsg d (collMsg d (cltPeer d e (cltIdx e + cltNm e - 1)) (ceVc e) 3 cid c.attempt c.landed c.step 0 (cltFmt e) false [])
      collRun d cid

/-- READY of the successor (R529). -/
def collReady (d : Dev) (m : Msg) : Dev :=
  let cid := bits m.w1 13 4
  if !collCurrent d m then collStale d
  else match collOf d cid with
  | some c => collRun (setColl d { c with ready := true }) cid
  | none =>
    if d.mach.launched ≤ cid then
      setMach d (fun mm => { mm with keptReady := mm.keptReady ++ [(cid, curStep d * 256 + attemptNow d)] })
    else collStale d

/-- ACK of a phase. -/
def collAck (d : Dev) (m : Msg) : Dev :=
  match collOf d (bits m.w1 13 4) with
  | none => collStale d
  | some c => if collCurrent d m then setColl d { c with acked := min (c.acked + 1) c.next } else collStale d

/-- A collective is complete when all phases have landed and every phase sent is acknowledged. -/
def collComplete (d : Dev) (cid : Nat) : Dev :=
  match collOf d cid with
  | none => d
  | some c =>
    if c.next ≤ ceLast c.ent ∨ c.landed ≤ ceLast c.ent ∨ c.acked < c.next ∨ (cltOp c.ent ≠ 2 ∧ c.scaled = false) then d
    else
      let d := setColls d (d.mach.colls.filter (fun x => x.cid != cid))
      let d := setMach d (fun m => { m with done := m.done + 1 })
      let ch := collChan c.ent
      countPkg (aqdCompleted d ch.1 ch.2 1) 0xC07 0 1 true

/-- A collective has not completed TMO µs after its launch (R531). -/
def collTimeout (d : Dev) (cid : Nat) : Dev :=
  match collOf d cid with
  | none => d
  | some c =>
    if c.launchedAt + us (fget d A.COL_CFG F.COL_CFG_TMO) < d.now then collFail d cid (max c.landed c.acked) 0 else d

/-! ### Unwind, drain, step (R526, R531, R544) -/

/-- Every armed collective is abandoned, sends stop at a message boundary, and the rest of the list is discarded. -/
def colAbandon (d : Dev) : Dev :=
  let chans := d.mach.colls.map (·.ent)
    ++ (range' d.mach.launched (d.mach.armed - d.mach.launched)).filterMap (cltEntry d)
  let n := d.mach.colls.length
  let d := chans.foldl (fun d e => aqdDiscarded d (collChan e).1 (collChan e).2 1) d
  let d := (List.range 9).foldl (fun d p =>
    modPort d p (fun x => { x with queue := x.queue.filter (fun o =>
      !(o.msg.mtype == 3 && o.msg.schip == ownChip d && bits o.msg.w1 3 0 != 4 && o.sent == 0)) })) d
  endList (setMach (setColls d []) (fun m => { m with done := m.done + n, armed := m.launched }))

/-- STEPB begins the list again (R526). -/
def colStep (d : Dev) : Dev :=
  let trills := ((List.range (d.tables.clt.length / 8)).filterMap (cltEntry d)).map ceTrill
  let at' (f : Nat → Nat) : List (Nat × Nat) := trills.foldl (fun l n => sset 0 n (f n) l) []
  setMach d (fun m => { m with armed := 0, launched := 0, ended := 0, done := 0, issued0 := at' (rilIssued d), prod0 := at' (rilProd d) })

/-- A drain of the engine: its collectives are abandoned. -/
def colDrain (d : Dev) : Dev := colAbandon d

/-- No COLL message of this chip is queued. -/
def colDrained (d : Dev) : Bool :=
  (List.range 9).all (fun p => (portOf d p).queue.all (fun o => !(o.msg.mtype == 3 && o.msg.schip == ownChip d)))

/-- What is left at the bound of a drain. -/
def colDiscard (d : Dev) : Dev :=
  (List.range 9).foldl (fun d p =>
    modPort d p (fun x => { x with queue := x.queue.filter (fun o => !(o.msg.mtype == 3 && o.msg.schip == ownChip d)) })) d

/-! ### The permutation (R532, R536) -/

/-- The entries of the permutation table, four words each; none where the table does not lie in local memory. -/
def permTable (d : Dev) : Dev × Option (List (List Nat)) :=
  let n := fget d A.COL_PERM F.COL_PERM_NPM1 + 1
  match qRead d (fget d A.COL_PERM F.COL_PERM_BASE * 32) (32 * n) with
  | (d, none) => (d, none)
  | (d, some bs) => (d, some ((List.range n).map (fun k => (List.range 4).map (fun i => leAt bs (32 * k + 8 * i) 8))))

/-- The PWRITEs of one entry. -/
def permEntry (d : Dev) (w : List Nat) : Dev :=
  if !d.mach.perm.run then d
  else
    let soff := bits (w.getD 1 0) 41 0
    let doff := bits (w.getD 2 0) 41 0
    let len := bits (w.getD 3 0) 31 0
    match qRead d soff len with
    | (d, none) => permEnd d 3
    | (d, some bs) =>
      let vc := if fget d A.COL_PRX F.COL_PRX_VC = 1 then 4 else 1
      (pieces 4096 bs.length 0 bs).foldl (fun d p =>
        let d := setMach d (fun m => { m with perm := { m.perm with unacked := m.perm.unacked + 1 } })
        sendMsg d (collMsg d (bits (w.getD 0 0) 13 0) vc 4 0 (fget d A.COL_PRX F.COL_PRX_PATT) 0 (curStep d) (doff + p.1) 0 false p.2)) d

/-- The permutation launches, or is reported as failed where it is not armed. -/
def permStart (d : Dev) : Dev :=
  let fail (d : Dev) : Dev := setMach d (fun m => { m with perm := { m.perm with ended := some 3, retry := false } })
  let patt := fget d A.COL_PRX F.COL_PRX_PATT
  if fget d A.COL_PRX F.COL_PRX_ARM = 0 ∨ running d .col = false then
    trees (setMach (fail d) (fun m => { m with perm := { m.perm with patt := patt } }))
  else
    let d := setMach d (fun m => { m with perm := { m.perm with run := true, unacked := 0, ended := none, retry := false, patt := patt } })
    let d := aqdIssued d (permChan d).1 (permChan d).2 1
    match permTable d with
    | (d, none) => trees (permEnd d 3)
    | (d, some ws) => trees (ws.foldl permEntry d)

/-- T_N + PSTART, or after a failed verdict a new PATT that the host has armed in time (R536). -/
def permLaunch (d : Dev) : Dev :=
  let t := d.mach.reclaim.time
  let start := t + stSec (fget d A.SID_RCFG F.SID_RCFG_PSTART)
  if t = 0 ∨ d.mach.perm.run = true ∨ sidNow d < start then d
  else if d.mach.started ≠ t then permStart (setMach d (fun m => { m with started := t }))
  else if d.mach.perm.retry = true ∧ fget d A.COL_PRX F.COL_PRX_ARM = 1 ∧ fget d A.COL_PRX F.COL_PRX_PATT ≠ d.mach.perm.patt
      ∧ sidNow d < start + stSec (fget d A.SID_RCFG F.SID_RCFG_PBUDGET) then permStart d
  else d

/-- Every PWRITE is acknowledged and RXBYTES bytes have landed (R532). -/
def permComplete (d : Dev) : Dev :=
  let p := d.mach.perm
  if p.run = true ∧ p.unacked = 0 ∧ fget d A.COL_PRX F.COL_PRX_RXBYTES ≤ p.landed then trees (permEnd d 1) else trees d

/-- T_N + PSTART + PBUDGET: a permutation still running fails (R536). -/
def permBudget (d : Dev) : Dev :=
  let t := d.mach.reclaim.time
  if t ≠ 0 ∧ d.mach.perm.run = true
      ∧ t + stSec (fget d A.SID_RCFG F.SID_RCFG_PSTART + fget d A.SID_RCFG F.SID_RCFG_PBUDGET) ≤ sidNow d then
    trees (permEnd d 3)
  else trees d

/-- PWRITE: its bytes are accepted while armed and with a matching PATT, and acknowledged (R529, R532). -/
def pwrite (d : Dev) (p : Nat) (m : Msg) : Dev :=
  if fget d A.COL_PRX F.COL_PRX_ARM = 0 ∨ bits m.w1 23 16 ≠ fget d A.COL_PRX F.COL_PRX_PATT
      ∨ bits m.w2 61 46 ≠ fget d A.SID_SLICE F.SID_SLICE_SLICE ∨ bits m.w1 63 32 ≠ curStep d then collStale d
  else
    let (d, ok) := qWrite d (bits m.w2 41 0) m.data
    let d := if ok then setMach d (fun mm => { mm with perm := { mm.perm with landed := mm.perm.landed + m.data.length } }) else d
    sendSynthetic d { synthetic d true m.schip 0 (if ok then 0 else 1) p (epochOf d p) with w2 := 0 }

/-- The WRACK of a PWRITE. -/
def permAck (d : Dev) (ok : Bool) : Dev :=
  if !d.mach.perm.run then d
  else if !ok then trees (permEnd d 3)
  else setMach d (fun m => { m with perm := { m.perm with unacked := m.perm.unacked - 1 } })

/-! ### The meanings of the commands -/

/-- COLLECTIVE_LAUNCH (R526). -/
def execCollectiveLaunch (t : Nat) (s : State) : Host.Outcome State Fault Refusal :=
  act (fun d => collLaunch (landCommits (settle (tick d t)))) s

/-- COLL_ADD (R527). -/
def execCollAdd (port : BitVec 3) (m : Msg) (s : State) : Host.Outcome State Fault Refusal :=
  act (fun d => arrival d port.toNat m (fun d => collData d m true)) s

/-- COLL_WRITE (R527). -/
def execCollWrite (port : BitVec 3) (m : Msg) (s : State) : Host.Outcome State Fault Refusal :=
  act (fun d => arrival d port.toNat m (fun d => collData d m false)) s

/-- COLL_READY (R529). -/
def execCollReady (port : BitVec 3) (m : Msg) (s : State) : Host.Outcome State Fault Refusal :=
  act (fun d => arrival d port.toNat m (fun d => collReady d m)) s

/-- COLL_ACK (R527). -/
def execCollAck (port : BitVec 3) (m : Msg) (s : State) : Host.Outcome State Fault Refusal :=
  act (fun d => arrival d port.toNat m (fun d => collAck d m)) s

/-- PWRITE (R532). -/
def execPwrite (port : BitVec 3) (m : Msg) (s : State) : Host.Outcome State Fault Refusal :=
  act (fun d => arrival d port.toNat m (fun d => pwrite d port.toNat m)) s

/-- PHASE_LANDED (R527). -/
def execPhaseLanded (cid : BitVec 10) (s : State) : Host.Outcome State Fault Refusal := act (fun d => phaseLanded d cid.toNat) s

/-- COLLECTIVE_COMPLETE (R527). -/
def execCollectiveComplete (cid : BitVec 10) (s : State) : Host.Outcome State Fault Refusal :=
  act (fun d => collComplete d cid.toNat) s

/-- COLLECTIVE_TIMEOUT (R531). -/
def execCollectiveTimeout (t : Nat) (cid : BitVec 10) (s : State) : Host.Outcome State Fault Refusal :=
  act (fun d => collTimeout (tick d t) cid.toNat) s

/-- PERMUTATION_LAUNCH (R536). -/
def execPermutationLaunch (t : Nat) (s : State) : Host.Outcome State Fault Refusal := act (fun d => permLaunch (tick d t)) s

/-- PERMUTATION_COMPLETE (R532): the permutation's end is reported. -/
def execPermutationComplete (t : Nat) (s : State) : Host.Outcome State Fault Refusal :=
  act (fun d => permComplete (tick d t)) s

/-- PERMUTATION_BUDGET (R536). -/
def execPermutationBudget (t : Nat) (s : State) : Host.Outcome State Fault Refusal := act (fun d => permBudget (tick d t)) s

end Sys2Proof.Machine
end

