-- ==== Sys2Proof/Machine/Hst.lean ====
section
/-! DEFINITION. The host's side: doorbells, command rings and their delivery, data rings, the overflow buffer and MSI-X
moderation (15, R553 to R571). -/

namespace Sys2Proof.Machine

/-! ### Rings (R553 to R555, R578) -/

/-- A field of HST_RCFG for a doorbell: as in force while the ring is not STOPPED, else as written (log 40). -/
def ringCfg (d : Dev) (n : Nat) (f : Fld) : Nat :=
  if stOf d (A.HST_RSTS n) = 0 then fget d (A.HST_RCFG n) f else liveGet d (A.HST_RCFG n) f

/-- How far a doorbell's value may lie ahead of the device's index (R555). -/
def bellLimit (d : Dev) (n : Nat) : Nat :=
  if ringCfg d n F.HST_RCFG_KIND = 1 then 0 else 2 ^ ringCfg d n F.HST_RCFG_LOGN

/-- The value moves the host's index backward, or beyond the limit of its ring's kind (R555). -/
def bellBad (d : Dev) (n v : Nat) : Bool :=
  let host := fget d (A.HST_RIDX n) F.HST_RIDX_HOSTIDX
  let dev := fget d (A.HST_RIDX n) F.HST_RIDX_DEVIDX
  decide (2 ^ 31 ≤ sub32 v host) || decide ((bellLimit d n : Int) < signed 32 (sub32 v dev))

/-- A write to BAR2 at byte `off`: an aligned 32-bit write at offset 0 of ring n's page is its doorbell; any other is
discarded (R555). -/
def doorbell (d : Dev) (off : Nat) (bs : List Byte) : Dev :=
  if off % 0x1000 ≠ 0 ∨ bs.length ≠ 4 then d
  else
    let n := off / 0x1000
    let v := leNat bs
    if bellBad d n v then hstPost d 0xA8 0 n v 0
    else
      let d := fset d (A.HST_RIDX n) F.HST_RIDX_HOSTIDX v
      let r := ringH d n
      let d := countPkg (setRingH d n { r with bell := true }) 0xE00 0 1 true
      reportDrops (if r.bell then countPkg d 0xE01 0 1 true else d)

/-! ### Command rings (R556 to R559) -/

/-- The package is in Hold or on its way into or out of it. -/
def pstate (d : Dev) : Nat := fget d A.PWR_STS F.PWR_STS_PSTATE

/-- The scrub runs: nothing it clears is served (R572). -/
def scrubbing (d : Dev) : Bool := decide (fget d A.GLB_SCRUB F.GLB_SCRUB_STATE = 1)

/-- The slots of a command ring's delivery queue, and slot of descriptor `k` (R556). -/
def ringSlots (d : Dev) (n : Nat) : Nat := 2 ^ liveGet d (A.HST_RCFG n) F.HST_RCFG_DLOG
def slotAt (d : Dev) (n k : Nat) : Nat := liveGet d (A.HST_RDLV n) F.HST_RDLV_BASE * 64 + 64 * (k % ringSlots d n)

/-- Host address of entry `k` (R554). -/
def entryAt (d : Dev) (n k : Nat) : Nat := liveGet d (A.HST_RBASE n) F.HST_RBASE_ADDR * 64 + 64 * (k % ringSize d n)

/-- A ring of this kind fetches: it is RUNNING and no bad descriptor has stopped it. -/
def ringFetches (d : Dev) (n : Nat) (cmd : Bool) : Bool :=
  let kind := liveGet d (A.HST_RCFG n) F.HST_RCFG_KIND
  decide (stOf d (A.HST_RSTS n) = 1) && !(ringH d n).stopped && (if cmd then kind == 0 else decide (2 ≤ kind))

/-- The delivery queue of a command ring has a slot free for the next descriptor (R557). -/
def slotFree (d : Dev) (n : Nat) : Bool :=
  decide (sub32 (ringH d n).fetched (fget d (A.HST_RIDX n) F.HST_RIDX_DEVIDX) < ringSlots d n - 1)

/-- Descriptor `fetched` of a command ring arrives with these bytes (R556, R558). -/
def cmdDeliver (d : Dev) (n : Nat) (bs : List Byte) : Dev :=
  let d := capLog d 0x09 n 0 ((bs ++ List.replicate 64 0).take 64)
  let r := ringH d n
  let k := r.fetched
  let ty := (bs.headD 0).toNat
  if ty ≠ 1 ∧ ty ≠ 2 then
    consequence (hstPost (setRingH d n { r with stopped := true }) 0xAB 3 n k (entryAt d n k)) 3
  else
    let d := qPut (setRingH d n { r with fetched := (k + 1) % 2 ^ 32 }) (slotAt d n k)
      ((bs ++ List.replicate 64 0).take 64)
    govSet (countPkg d 0xE02 0 1 true) (.ringArr n) ((k + 1) % 2 ^ 32)

/-- An access that the device makes to host memory fails (R575). -/
def pcieFail (d : Dev) (n k : Nat) : Dev := consequence (hstPost d 0xAC 3 n k (entryAt d n k)) 3

/-- The device acts on the latest doorbell. -/
def bellDone (d : Dev) (n : Nat) : Dev := setRingH d n { ringH d n with bell := false }

/-- A command ring fetches its next descriptor: the host has posted it and a slot is free for it. `desc` is what the
read of host memory brings, or none where it fails. In Hold no command descriptor is fetched (R574). -/
def descriptorFetch (d : Dev) (n : Nat) (desc : Option (List Byte)) : Dev :=
  if replayMode d || decide (2 ≤ pstate d) || !ringFetches d n true then d
  else
    let d := bellDone d n
    let k := (ringH d n).fetched
    if k = fget d (A.HST_RIDX n) F.HST_RIDX_HOSTIDX ∨ slotFree d n = false then d
    else match desc with
      | none => pcieFail d n k
      | some bs => cmdDeliver d n bs

/-- An AWAITQ consumes the oldest descriptor: the count advances and is written back, and the parameters of a STEPPARAM
come into force (R59, R303, R557, R559, R570). -/
def cmdConsume (d : Dev) (n : Nat) : Dev :=
  let k := fget d (A.HST_RIDX n) F.HST_RIDX_DEVIDX
  let k1 := (k + 1) % 2 ^ 32
  let r := ringH d n
  let bs := memRead d.mem (slotAt d n k) 64
  let d := fset d (A.HST_RIDX n) F.HST_RIDX_DEVIDX k1
  let d := if r.fetched = k then setRingH d n { r with fetched := k1 } else d
  let d := ringWb d n k1
  if (bs.headD 0).toNat = 1 then weiParams d (leAt bs 4 4) (leAt bs 8 4) (leAt bs 12 4) (leAt bs 20 4) else d

/-! ### Data rings (R561, R562) -/

/-- A data descriptor arrives. -/
def dataDeliver (d : Dev) (n : Nat) (bs : List Byte) : Dev :=
  let r := ringH d n
  let d := setRingH d n { r with fetched := (r.fetched + 1) % 2 ^ 32,
                                 descs := sput r.fetched ⟨leAt bs 0 8, leAt bs 8 4⟩ r.descs }
  aqdRun (countPkg d 0xE02 0 1 true)

/-- A data ring fetches its next descriptor, up to 4 ahead of its head. -/
def dataFetch (d : Dev) (n : Nat) (desc : Option (List Byte)) : Dev :=
  if replayMode d || !ringFetches d n false then d
  else
    let d := bellDone d n
    let r := ringH d n
    if r.fetched = fget d (A.HST_RIDX n) F.HST_RIDX_HOSTIDX ∨ 4 < sub32 r.fetched r.head then d
    else match desc with
      | none => pcieFail d n r.fetched
      | some bs => dataDeliver d n bs

/-- The data rings that hold anything. -/
def dataRings (d : Dev) : List Nat :=
  (d.hst.rings.map Prod.fst).filter (fun n => decide (2 ≤ liveGet d (A.HST_RCFG n) F.HST_RCFG_KIND))

/-- STEPB: the committed head of every data ring is the head (R562). -/
def headsCommit (d : Dev) : Dev :=
  (dataRings d).foldl (fun d n =>
    if (ringH d n).head = fget d (A.HST_RIDX n) F.HST_RIDX_DEVIDX then d else commitHead d n) d

/-- Step 3 of an unwind: every head returns to its committed head, and what was prefetched behind it is fetched again
(R562). -/
def headsReturn (d : Dev) : Dev :=
  (dataRings d).foldl (fun d n =>
    let r := ringH d n
    let i := fget d (A.HST_RIDX n) F.HST_RIDX_DEVIDX
    if r.head = i then setRingH d n { r with headXfers := 0 }
    else setRingH d n { r with head := i, fetched := i, headXfers := 0, descs := [] }) d

/-! ### Start and drain (R556, R570) -/

/-- The ring may start: a CMD ring's DLOG is 1 to 6 and its delivery queue lies in one terrace's range (R556). -/
def ringConfigOk (d : Dev) (n : Nat) : Bool :=
  let dlog := fget d (A.HST_RCFG n) F.HST_RCFG_DLOG
  let base := fget d (A.HST_RDLV n) F.HST_RDLV_BASE * 64
  decide (fget d (A.HST_RCFG n) F.HST_RCFG_KIND ≠ 0) ||
    (decide (1 ≤ dlog) && decide (dlog ≤ 6) && (List.range 16).any (fun T => inRes T base (64 * 2 ^ dlog)))

/-- What a ring's start does: its registers come into force, and fetching begins at the device's index (R570, R578). -/
def ringStart (d : Dev) (n : Nat) : Dev :=
  let d := latch d [A.HST_RBASE n, A.HST_RCFG n, A.HST_RDLV n, A.HST_RWB n]
  let r := ringH d n
  let i := fget d (A.HST_RIDX n) F.HST_RIDX_DEVIDX
  if liveGet d (A.HST_RCFG n) F.HST_RCFG_KIND = 1 then reportDrops (setRingH d n { r with stopped := false })
  else setRingH d n { r with stopped := false, head := i, fetched := i, headXfers := 0, descs := [] }

/-- A ring's drain begins: what was fetched and not consumed is discarded, which the sequencers observe (R570). -/
def ringDrain (d : Dev) (n : Nat) : Dev :=
  let r := ringH d n
  let i := fget d (A.HST_RIDX n) F.HST_RIDX_DEVIDX
  match liveGet d (A.HST_RCFG n) F.HST_RCFG_KIND with
  | 0 => govSet (setRingH d n { r with fetched := i }) (.ringArr n) i
  | 1 => d
  | _ => setRingH d n { r with fetched := r.head, descs := [] }

/-! ### Records held back (R567, R568) -/

/-- The first record that waits for a ring that takes it: of each ring only its oldest one counts. -/
def firstTaken (d : Dev) : List Nat → List (Nat × Record) → Option (Nat × Record)
  | _, [] => none
  | blocked, (n, r) :: rest =>
    if blocked.contains n then firstTaken d blocked rest
    else if ringTakes d n then some (n, r) else firstTaken d (n :: blocked) rest

/-- A record that its ring can take now is written: a statistics record that waits, else one of the overflow buffer. -/
def overflowWrite (d : Dev) : Dev :=
  match firstTaken d [] d.hst.statWait with
  | some (n, r) =>
    let d : Dev := d.withHst { d.hst with statWait := d.hst.statWait.erase (n, r) }
    reportDrops (emitEnd (ringPut d n r))
  | none =>
    match firstTaken d [] d.hst.ovf with
    | some (n, r) => reportDrops (ringPut (setOvf d (d.hst.ovf.erase (n, r))) n r)
    | none => d

/-- MODT µs after the first record not yet signalled, the ring signals its vector (R568). -/
def msixModeration (d : Dev) (n : Nat) : Dev :=
  let r := ringH d n
  if r.unsig ≠ 0 ∧ r.unsigAt + us (fget d A.HST_CFG F.HST_CFG_MODT) ≤ d.now then
    msixSend (setRingH d n { r with unsig := 0, unsigAt := 0 }) (liveGet d (A.HST_RCFG n) F.HST_RCFG_VEC)
  else d

/-! ### Reset of the block (R552) -/

/-- A range of registers returns to its reset values, with the copies in force. -/
def resetRange (d : Dev) (lo hi : Nat) : Dev :=
  let out (e : Nat × W64) : Bool := decide (e.1 < lo) || decide (hi ≤ e.1)
  ((d.withRegs (d.regs.filter out)).withLive (d.live.filter out))

/-- The HST block at its reset values: its registers, its rings and the overflow buffer. -/
def hstReset (d : Dev) : Dev :=
  let ns := (d.hst.rings.map Prod.fst).filter (fun n => decide (govNow d (.ringArr n) ≠ 0))
  let d := ns.foldl (fun d n => govSet d (.ringArr n) 0) (resetRange d 0x100000 0x200000)
  (d.withHst { d.hst with rings := [], ovf := [], evovf := none, flr := false })

/-! ### The meanings of the commands -/

/-- DOORBELL (R555). `off` is the BAR2 offset of the write, `data` its bytes. -/
def execDoorbell (off : BitVec 20) (data : List Byte) (s : State) : Host.Outcome State Fault Refusal :=
  act (fun d => doorbell d off.toNat data) s

/-- DESCRIPTOR_FETCH (R556). -/
def execDescriptorFetch (t : Nat) (ring : BitVec 8) (desc : Option (List Byte)) (s : State) :
    Host.Outcome State Fault Refusal :=
  act (fun d => descriptorFetch (tick d t) ring.toNat desc) s

/-- OVERFLOW_RECORD_WRITE (R567). -/
def execOverflowRecordWrite (s : State) : Host.Outcome State Fault Refusal := act overflowWrite s

/-- MSIX_MODERATION (R568). -/
def execMsixModeration (t : Nat) (ring : BitVec 8) (s : State) : Host.Outcome State Fault Refusal :=
  act (fun d => msixModeration (tick d t) ring.toNat) s

/-- DATA_DESCRIPTOR_FETCH (R561). -/
def execDataDescriptorFetch (t : Nat) (ring : BitVec 8) (desc : Option (List Byte)) (s : State) :
    Host.Outcome State Fault Refusal :=
  act (fun d => dataFetch (settle (tick d t)) ring.toNat desc) s

end Sys2Proof.Machine
end

