-- ==== Sys2Proof/Machine/Power.lean ====
section
/-! DEFINITION. The power controller without the states: rails, the NV write guard, the ramp limiter and spillway, the
throttle floors, and wake events (16, R587 to R593, R605, R606, R611 to R619, R660, R666). -/

namespace Sys2Proof.Machine

/-! ### Records (R621, R622) -/

/-- A power record. -/
def pwrRaise (d : Dev) (number sev detail : Nat) : Dev :=
  raise (fset d A.PWR_STS F.PWR_STS_EXC number) number sev 12 [0, number <<< 32, detail, sidNow d]

def setPwr (d : Dev) (f : Pwr → Pwr) : Dev := d.withPwr (f d.pwr)

/-! ### Rails (R589) -/

/-- Bits of PWR_SUP.RAIL for rail `r`: 0 OK, 1 WARN, 2 FAULT, 3 absent. -/
def railState (d : Dev) (r : Nat) : Nat := fget d A.PWR_SUP ⟨2 * r + 1, 2 * r⟩

def setRail (d : Dev) (r v : Nat) : Dev := fset d A.PWR_SUP ⟨2 * r + 1, 2 * r⟩ v

/-! ### The NV write guard (R611, R660) -/

/-- The conditions under which no NV write starts: AUXLOW, COREWARN, COLD. -/
def nvConditions (d : Dev) : Nat :=
  b2n d.pwr.auxLow + 2 * b2n (railState d 0 != 0 || railState d 1 != 0) + 4 * b2n (pstate d == 4)

/-- NV writes stop where a condition holds; each stop is posted. -/
def nvStop (d : Dev) : Dev :=
  let c := nvConditions d
  if c = 0 ∨ fget d A.PWR_SUP F.PWR_SUP_NVBLOCK = 1 then d
  else pwrRaise (fset (fset d A.PWR_SUP F.PWR_SUP_NVBLOCK 1) A.PWR_STS F.PWR_STS_NVWP 1) 0xCF 0 c

/-- A fuse field read from the first copy whose check bits are correct (R629). -/
def Fuse.read (f : Fuse) : Option Nat := f.a.or f.b

/-- The number of bits set. -/
def popcount (w n : Nat) : Nat := ((List.range w).filter n.testBit).length

/-- The fuse count of SECVER as the dies hold it. -/
def fuseCount (d : Dev) : Nat := popcount 64 (d.tst.fuseA.secver.read.getD 0)

/-- SECVER of a committed image is blown into the fuses of both dies, where no guard forbids it (R633). -/
def secverBlow (d : Dev) : Dev :=
  let v := d.tst.commit
  if !d.tst.up || decide (v ≤ fuseCount d) || decide (fget d A.PWR_STS F.PWR_STS_NVWP = 1) then d
  else
    let w := 2 ^ (min v 64) - 1
    let blow (f : Fuses) : Fuses := { f with secver := ⟨f.secver.a.map (· ||| w), f.secver.b.map (· ||| w)⟩ }
    (d.withTst { d.tst with fuseA := blow d.tst.fuseA, fuseB := blow d.tst.fuseB })

/-- NV writes resume where nothing forbids them any more, 10 ms after NV_WP_N has risen: what waited is written. -/
def nvResume (d : Dev) : Dev :=
  let d := if nvConditions d = 0 then fset d A.PWR_SUP F.PWR_SUP_NVBLOCK 0 else d
  if fget d A.PWR_SUP F.PWR_SUP_NVBLOCK = 1 ∨ d.pwr.wpLow = true
      ∨ (fget d A.PWR_STS F.PWR_STS_NVWP = 1 ∧ d.pwr.wpAt ≠ 0 ∧ d.now < d.pwr.wpAt + ms 10) then d
  else secverBlow (fset (d.withNv d.nvNext) A.PWR_STS F.PWR_STS_NVWP 0)

/-- VAUX has fallen below 3.10 V, or another condition is to be seen (R611). -/
def nvGuard (d : Dev) (auxLow : Bool) : Dev := nvStop (setPwr d (fun p => { p with auxLow := p.auxLow || auxLow }))

/-- VAUX has been at or above 3.15 V for 10 ms (R611). -/
def nvRelease (d : Dev) : Dev := nvResume (setPwr d (fun p => { p with auxLow := false }))

/-- NV_WP_N changes (R660). -/
def nvWp (d : Dev) (low : Bool) : Dev :=
  if low then fset (setPwr d (fun p => { p with wpLow := true })) A.PWR_STS F.PWR_STS_NVWP 1
  else nvResume (setPwr d (fun p => { p with wpLow := false, wpAt := if p.wpLow then d.now else p.wpAt }))

/-- A rail has been outside its operating range for 1 µs (R589). -/
def railWarn (d : Dev) (r mv : Nat) : Dev :=
  let d := nvStop (setRail d r 1)
  let k := d.now / ms 1 + 1
  if sget 0 r d.pwr.railMs = k then d
  else pwrRaise (setPwr d (fun p => { p with railMs := sset 0 r k p.railMs })) 0xCA 1 (r + mv <<< 16)

/-- A rail has been more than 8 % from nominal, or absent, for 1 µs. In Cold rails 0 to 7 raise nothing. -/
def railFault (d : Dev) (r mv : Nat) (absent : Bool) : Dev :=
  let d := setRail d r (if absent then 3 else 2)
  if r < 8 ∧ pstate d = 4 then d
  else
    let d := nvStop d
    if d.pwr.pwrok then pwrRaise d 0xC8 4 (r + mv <<< 16) else d

/-- A rail is within its operating range again. -/
def railRecovery (d : Dev) (r : Nat) : Dev := nvResume (setRail d r 0)

/-! ### Floors (R613, R618) -/

/-- The floor in force and what follows from it: SEQ_GAP.PWR, which the sequencers observe, and the start or the end of
throttling (R613, R618). -/
def floorsApply (d : Dev) : Dev :=
  let f (x : Fld) : Nat := fget d A.PWR_FLOOR x
  let eff := max (max (f F.PWR_FLOOR_LIM) (f F.PWR_FLOOR_THR)) (max (f F.PWR_FLOOR_THERM) (f F.PWR_FLOOR_CAP))
  let cause := b2n (f F.PWR_FLOOR_THR != 0) + 2 * b2n (f F.PWR_FLOOR_THERM != 0) + 4 * b2n (f F.PWR_FLOOR_CAP != 0)
  let d := if eff = f F.PWR_FLOOR_EFF then d
    else [0, 1].foldl (fun d h => govSet (fset d (A.SEQ_GAP h) F.SEQ_GAP_PWR eff) (.gapPwr h) eff)
      (fset d A.PWR_FLOOR F.PWR_FLOOR_EFF eff)
  let was := fget d A.PWR_STS F.PWR_STS_THROT
  if cause ≠ 0 ∧ was = 0 then
    pwrRaise (setPwr (fset d A.PWR_STS F.PWR_STS_THROT 1) (fun p => { p with throtAt := d.now, cause := cause })) 0xCB 0 cause
  else if cause = 0 ∧ was = 1 then
    pwrRaise (fset d A.PWR_STS F.PWR_STS_THROT 0) 0xCB 0 (d.pwr.cause + 8 + ((d.now - d.pwr.throtAt) / us 1) <<< 8)
  else d

/-- THR follows the filtered level and the latched fault (R614, R615). -/
def thrApply (d : Dev) : Dev :=
  let on := fget d A.PWR_THR F.PWR_THR_FILT = 1 ∨ fget d A.PWR_THR F.PWR_THR_STUCK = 1
  floorsApply (fset d A.PWR_FLOOR F.PWR_FLOOR_THR (if on then fget d A.PWR_THR F.PWR_THR_GAP else 0))

/-- One sample of THROTTLE_N; four in a row at the new level change the filtered level (R614). -/
def throttleSample (d : Dev) (on : Bool) : Dev :=
  let d := fset d A.PWR_THR F.PWR_THR_RAW (b2n on)
  if b2n on = fget d A.PWR_THR F.PWR_THR_FILT then setPwr d (fun p => { p with samples := 0 })
  else if d.pwr.samples < 3 then setPwr d (fun p => { p with samples := p.samples + 1 })
  else
    thrApply (setPwr (fset d A.PWR_THR F.PWR_THR_FILT (b2n on)) (fun p => { p with samples := 0, filtAt := d.now }))

/-- A filtered assertion longer than 10 s (R615). -/
def throttleStuck (d : Dev) : Dev :=
  if fget d A.PWR_THR F.PWR_THR_FILT = 1 ∧ fget d A.PWR_THR F.PWR_THR_STUCK = 0 ∧ d.pwr.filtAt + ms 10000 < d.now then
    thrApply (pwrRaise (fset d A.PWR_THR F.PWR_THR_STUCK 1) 0xCC 0 0)
  else d

/-- PWR_THR.CLR written 1: the latch is cleared and the 10 s start again (R615). -/
def throttleClear (d : Dev) : Dev :=
  thrApply (setPwr (fset d A.PWR_THR F.PWR_THR_STUCK 0) (fun p => { p with filtAt := d.now }))

/-- The hottest junction, in °C (R616). -/
def thermalFloor (d : Dev) (temp : Nat) : Dev :=
  let warn := fget d A.PWR_THR F.PWR_THR_TWARN
  let put (d : Dev) (v : Nat) : Dev := floorsApply (fset d A.PWR_FLOOR F.PWR_FLOOR_THERM v)
  let hot (d : Dev) : Dev := setPwr d (fun p => { p with coolAt := 0 })
  if 105 ≤ temp then put (hot d) 15
  else if warn ≤ temp then put (hot d) (fget d A.PWR_THR F.PWR_THR_TGAP)
  else if warn ≤ temp + 3 then hot d
  else if d.pwr.coolAt = 0 then setPwr d (fun p => { p with coolAt := d.now + 1 })
  else if d.pwr.coolAt - 1 + ms 1 ≤ d.now then put d 0
  else d

/-- The package power averaged over an aligned millisecond, in W (R617). -/
def powerCapInterval (d : Dev) (watts : Nat) : Dev :=
  let cap := fget d A.PWR_THR F.PWR_THR_CAP
  let v := fget d A.PWR_FLOOR F.PWR_FLOOR_CAP
  let v' := if cap < watts then min (v + 1) 15 else if 100 * watts < 95 * cap then v - 1 else v
  floorsApply (fset d A.PWR_FLOOR F.PWR_FLOOR_CAP v')

/-! ### Ramp and spillway (R591 to R593) -/

/-- PWR_RAMP.RATE within its range, in A/µs; 20 ns at that rate move the current by RATE/50 A. -/
def rampRate (d : Dev) : Nat := min (max (fget d A.PWR_RAMP F.PWR_RAMP_RATE) 10) 250

/-- The smallest gap under which neither half's estimate exceeds the ceiling; 15 where none meets it. `est` lists the two
halves' estimates in A under the gaps 0 to 15. -/
def limFloor (d : Dev) (est : List (Nat × Nat)) : Nat :=
  let ok (e : Nat × Nat) : Bool := decide (50 * e.1 ≤ 50 * fget d A.PWR_MON F.PWR_MON_IA + rampRate d)
    && decide (50 * e.2 ≤ 50 * fget d A.PWR_MON F.PWR_MON_IB + rampRate d)
  ((est.take 16).findIdx? ok).getD 15

/-- A half's spillway after its estimate has become `i` A: what a half draws falls by at most RATE/50 A in an interval,
and a spillway draws at most 640 A. -/
def spill (d : Dev) (h i : Nat) (fi fs : Fld) : Dev :=
  let tot := min (max (50 * i) (sget 0 h d.pwr.tot - rampRate d)) (50 * (i + 640))
  let d := setPwr d (fun p => { p with tot := sset 0 h tot p.tot })
  fset (fset d A.PWR_MON fi i) A.PWR_MON fs ((tot - 50 * i + 49) / 50)

/-- An interval of 16 sc ends: the halves' estimates, the limiter's floor, the spillways. -/
def currentInterval (d : Dev) (ia ib : Nat) (est : List (Nat × Nat)) : Dev :=
  let lim := limFloor d est
  let d := spill (spill d 0 ia F.PWR_MON_IA F.PWR_MON_SPILLA) 1 ib F.PWR_MON_IB F.PWR_MON_SPILLB
  floorsApply (fset d A.PWR_FLOOR F.PWR_FLOOR_LIM lim)

/-! ### Clocks (R619, R666) -/

/-- The clocks of both halves stop: nothing issues any more. -/
def clocksStop (d : Dev) : Dev := setPwr d (fun p => { p with clocksOff := true })

/-- 115 °C: THERMTRIP_N, every clock of both halves, and the controller's record. -/
def thermTrip (d : Dev) : Dev :=
  let d := clocksStop (setPwr d (fun p => { p with thermtrip := true }))
  pwrRaise d 0xC9 4 0

/-- REFCLK_CORE is lost. -/
def clkLoss (d : Dev) : Dev := pwrRaise (clocksStop d) 0xC4 4 0

/-- REFCLK_SERDES0 or 1 is lost: loss of lock on its four ports (R449, R666). -/
def serdesLoss (d : Dev) (n : Nat) : Dev :=
  (range' (4 * n) 4).foldl (fun d p => resetRequest d p 4) d

/-! ### Wake events (R600, R605, R606) -/

/-- A wake event of a source: recorded with its time; during an entry it abandons it at the next abort point, after its
commit it starts the exit once the entry is complete, and in Hold it starts the exit. -/
def wakeEvent (d : Dev) (src : Nat) : Dev :=
  let note (d : Dev) (pend : Nat) : Dev :=
    let d := fset (fset d A.PWR_WAKE F.PWR_WAKE_SRC src) A.PWR_WAKE F.PWR_WAKE_TIME (sidNow d)
    fset d A.PWR_WAKE F.PWR_WAKE_PEND pend
  match pstate d with
  | 1 => if d.pwr.committed then setPwr (note d 0) (fun p => { p with wakeAfter := true }) else note d 1
  | 2 => fset (note d 0) A.PWR_STS F.PWR_STS_PSTATE 3
  | _ => d

/-- The timer: the counter has reached PWR_WAKET.TIME, modulo 2^56, while EN = 1. -/
def wakeTimer (d : Dev) : Dev :=
  if fget d A.PWR_WAKET F.PWR_WAKET_EN = 1 ∧ (pastSida (sidNow d) (fget d A.PWR_WAKET F.PWR_WAKET_TIME)).isSome then
    wakeEvent d 4
  else d

/-! ### The meanings of the commands -/

/-- PWR_RAILWARN (R589). `mv` is the rail's voltage in mV. -/
def execPwrRailwarn (t : Nat) (rail : BitVec 4) (mv : BitVec 16) (s : State) : Host.Outcome State Fault Refusal :=
  act (fun d => railWarn (tick d t) (min rail.toNat 8) mv.toNat) s

/-- PWR_RAILFAULT (R589). -/
def execPwrRailfault (t : Nat) (rail : BitVec 4) (mv : BitVec 16) (absent : Bool) (s : State) :
    Host.Outcome State Fault Refusal :=
  act (fun d => railFault (tick d t) (min rail.toNat 8) mv.toNat absent) s

/-- RAIL_RECOVERY (R589). -/
def execRailRecovery (t : Nat) (rail : BitVec 4) (s : State) : Host.Outcome State Fault Refusal :=
  act (fun d => railRecovery (tick d t) (min rail.toNat 8)) s

/-- CURRENT_INTERVAL (R591). `ia` and `ib` are the halves' estimates of the interval, `est` what they would be under
the gaps 0 to 15. -/
def execCurrentInterval (t : Nat) (ia ib : BitVec 16) (est : List (Nat × Nat)) (s : State) :
    Host.Outcome State Fault Refusal :=
  act (fun d => currentInterval (tick d t) ia.toNat ib.toNat est) s

/-- THROTTLE_SAMPLE (R614). -/
def execThrottleSample (t : Nat) (asserted : Bool) (s : State) : Host.Outcome State Fault Refusal :=
  act (fun d => throttleSample (tick d t) asserted) s

/-- THROTTLE_STUCK (R615). -/
def execThrottleStuck (t : Nat) (s : State) : Host.Outcome State Fault Refusal := act (fun d => throttleStuck (tick d t)) s

/-- THROTTLE_CLEAR (R615). -/
def execThrottleClear (s : State) : Host.Outcome State Fault Refusal := act throttleClear s

/-- THERMAL_FLOOR (R616). `temp` is the hottest junction in °C. -/
def execThermalFloor (t : Nat) (temp : Nat) (s : State) : Host.Outcome State Fault Refusal :=
  act (fun d => thermalFloor (tick d t) temp) s

/-- POWER_CAP_INTERVAL (R617). `watts` is the package power averaged over the millisecond. -/
def execPowerCapInterval (t : Nat) (watts : Nat) (s : State) : Host.Outcome State Fault Refusal :=
  act (fun d => powerCapInterval (tick d t) watts) s

/-- THERMTRIP (R619). -/
def execThermtrip (t : Nat) (s : State) : Host.Outcome State Fault Refusal := act (fun d => thermTrip (tick d t)) s

/-- CLK_LOSS (R666). -/
def execClkLoss (t : Nat) (s : State) : Host.Outcome State Fault Refusal := act (fun d => clkLoss (tick d t)) s

/-- REFCLK_SERDES_LOSS (R666). -/
def execRefclkSerdesLoss (t : Nat) (clock : BitVec 1) (s : State) : Host.Outcome State Fault Refusal :=
  act (fun d => serdesLoss (tick d t) clock.toNat) s

/-- REFCLK_PCIE_LOSS (R666). -/
def execRefclkPcieLoss (s : State) : Host.Outcome State Fault Refusal :=
  act (fun d => setPwr d (fun p => { p with pcieUp := false })) s

/-- PWR_NVGUARD (R611). `auxLow` says that VAUX is below 3.10 V. -/
def execPwrNvguard (t : Nat) (auxLow : Bool) (s : State) : Host.Outcome State Fault Refusal :=
  act (fun d => nvGuard (tick d t) auxLow) s

/-- NV_GUARD_RELEASE (R611). -/
def execNvGuardRelease (t : Nat) (s : State) : Host.Outcome State Fault Refusal := act (fun d => nvRelease (tick d t)) s

/-- NV_WP_N (R660). -/
def execNvWpN (t : Nat) (low : Bool) (s : State) : Host.Outcome State Fault Refusal := act (fun d => nvWp (tick d t) low) s

/-- WAKE (R605). -/
def execWake (s : State) : Host.Outcome State Fault Refusal := act (fun d => wakeEvent d 1) s

/-- WAKE_TIMER (R605). -/
def execWakeTimer (t : Nat) (s : State) : Host.Outcome State Fault Refusal := act (fun d => wakeTimer (tick d t)) s

end Sys2Proof.Machine
end

