-- ==== Sys2Proof/Machine/Books.lean ====
section
/-! DEFINITION. The books audit: the identities of every chapter, the snapshot, its comparison, and the cross-chip check
(R252, R253, R284, R325, R408, R436, R488, R489, R539, R571, R620, R635 to R638). An identity whose two sides this model
keeps as one number (bridge credits and replay, remaps, unacknowledged phases, records posted) holds by construction and
is not evaluated (log 41). -/

namespace Sys2Proof.Machine

/-- An identity as a snapshot finds it: the number of its books exception, the element it is about, whether it holds and
whether its chapter declares it out of balance at this moment. -/
structure Book where
  number : Nat
  inst : Nat
  ok : Bool
  exempt : Bool
  deriving DecidableEq, Repr

def bk (number inst : Nat) (ok : Bool) : Book := ⟨number, inst, ok, false⟩

/-- Rills (R252, R253): the books of a context that runs. -/
def rilBooks (d : Dev) (n : Nat) : List Book :=
  let held := sub32 (rilProd d n) (rilCons d n)
  let kept := sub32 (rilProd d n) (rilFreed d n)
  let ring := bk 0x67 n (decide (held ≤ kept) && decide (kept ≤ rilSlots d n))
  let sent := sget 0 n d.ril.started
  match rilKind d n with
  | 0 => [ring, bk 0x67 n (decide (rilDone d n = rilProd d n)
      && decide (sub32 (rilIssued d n) (rilDone d n) < 2 ^ 31))]
  | 1 => [ring]
  | _ => [bk 0x67 n (decide (sub32 (rilGrant d n) sent ≤ rilSlots d n)
      && decide (sub32 (rilIssued d n) (rilDone d n) < 2 ^ 31))]

/-- The last step to close was closed by a clear verdict, and no step is open. -/
def atBoundary (d : Dev) : Bool :=
  !d.seq.stepOpen && decide (fget d A.SID_STEP F.SID_STEP_ATTEMPT = 0)
    && d.mach.verdicts.headD 0 == sub32 (curStep d) 1 && !d.mach.verdicts.isEmpty

/-- No two of a list are equal. -/
def distinct : List Nat → Bool
  | [] => true
  | a :: r => !r.contains a && distinct r

/-- Ephemeris (R284). -/
def ephBooks (d : Dev) : List Book :=
  let ks := ephSlots d
  let rc := (ks.map (slotRc d)).foldl (· + ·) 0
  let cnt (a : Nat) : Nat := (regGet d a).toNat
  let es := (ks.map (· / 8)).eraseDups
  let used (e : Nat) : List Nat := (entrySlots e).filter (fun k => decide (slotState d k ≠ 0))
  [bk 0x77 0 (decide (rc = (cnt A.EPH_HOLDS + 2 ^ 65 - cnt A.EPH_DROPS - cnt A.EPH_CLEARED) % 2 ^ 64)),
   bk 0x77 0 (!atBoundary d || decide (rc = 0)),
   bk 0x77 0 (ks.all (fun k => !retires d k))]
  ++ es.map (fun e => bk 0x77 e (decide ((used e).length ≤ modeCap (ephMode d))))
  ++ es.map (fun e => bk 0x77 e (decide (((used e).filter (fun k => decide (slotState d k ≤ 3))).length ≤ 1)))
  ++ es.map (fun e => bk 0x77 e (distinct ((used e).map (slotTag d))))

/-- Weirs of a half (R325), with the Builds identity in half A's block. -/
def weiBooks (d : Dev) (h : Nat) : List Book :=
  let cnt (w k : Nat) : Nat := sget 0 (8 * w + k) d.wei.counts
  let per (w : Nat) : List Book :=
    let x := weirOf d w
    let used := fget d (A.WEI_BWUSED h (w % 4)) F.WEI_BWUSED_USED
    let queued := ((weiQueue d h).filter (fun c => 4 * h + wcWeir c.op.toNat == w)).length
    let runs := x.queue.length + b2n x.cur.isSome
    [bk 0x85 w (decide (used = ringUsed x) && decide (used ≤ ringBytes x)),
     bk 0x85 w (x.log.all (fun p => d.seq.stepOpen && leAt (ringRead d.mem x p.1 64) 20 4 == curStep d)),
     bk 0x85 w (!atBoundary d || decide (used = 0)),
     bk 0x85 w (decide (cnt w 0 = queued + cnt w 1) && decide (cnt w 1 = cnt w 2 + cnt w 3 + runs))]
  let builds := (d.regs.filter (fun e => decide (A.WEI_BUILD 0 ≤ e.1) && decide (e.1 ≤ A.WEI_BUILD 2047))).map (fun e =>
    let n := (e.1 - A.WEI_BUILD 0) / 8
    let c := F.WEI_BUILD_COUNT.of e.2
    let span := liveGet d (A.WEI_BUILD n) F.WEI_BUILD_NSPAN
    let building := (entrySlots n).any (fun k => slotState d k == 1 || slotState d k == 3)
    bk 0x85 n (decide (c ≤ span + 1) && (!building || decide (c ≤ span))))
  (range' (4 * h) 4).flatMap per ++ (if h = 0 then builds else [])

/-- Memories of a half (R408). -/
def memBooks (d : Dev) (h : Nat) : List Book :=
  let dirty := ((poolOf d h).lines.filter (fun l => l.2.dirty)).length
  let cap (k : Nat) : Bool :=
    decide (fget d (A.STK_CAP h k) F.STK_CAP_NCH = popcount 32 (fget d (A.STK_CAP h k) F.STK_CAP_MAP))
  [bk 0xB5 h (decide (fget d (A.POL_STS h) F.POL_STS_DIRTY = dirty)),
   bk 0xB5 h (cap 0 && cap 1 && cap 2 && cap 3)]

/-- The transfers and collectives that count in a channel's OUT (R436, R539). -/
def chanHolds (d : Dev) (h c : Nat) : Nat :=
  let waits := (range' d.mach.launched (d.mach.armed - d.mach.launched)).filterMap (cltEntry d)
  ((aqdQueue d (2 * h + c / 16)).filter (fun x => xChan x == c)).length
    + ((chanOf d h c).filter (fun x => !x.dead)).length
    + ((waits ++ d.mach.colls.map (·.ent)).filter (fun e => collChan e == (h, c))).length
    + b2n (d.mach.perm.run && permChan d == (h, c))

/-- Aqueduct of a half (R436). -/
def aqdBooks (d : Dev) (h : Nat) : List Book :=
  let used := (List.range 32).filter (fun c =>
    decide (regGet d (A.AQD_CHCNTA h c) ≠ 0) || !(chanOf d h c).isEmpty)
  let per (c : Nat) : List Book :=
    let out := aqdOutOf d h c
    [bk 0xD3 c (decide (fget d (A.AQD_CHSTS h c) F.AQD_CHSTS_OUT = min out 255)),
     bk 0xD3 c (decide (out = chanHolds d h c) && decide (heldXfers d h c ≤ 32)),
     bk 0xD3 c (decide (burstsFlying d h (some c) ≤ 4)),
     bk 0xD3 c (d.seq.stepOpen || decide (fget d A.SID_STEP F.SID_STEP_ATTEMPT = 0) || decide (out = 0))]
  bk 0xD3 0 (decide (burstsFlying d h none ≤ 16)) :: used.flatMap per

/-- A Hermen port (R488, R489): replay, replay limit, buffer. -/
def hrmBooks (d : Dev) (p : Nat) : List Book :=
  let r := regGet d (A.HRM_RPL p)
  let occ := F.HRM_RPL_OCC.of r
  let held := (portOf d p).replay.length
  [bk 0xE3 p (decide (occ = (F.HRM_RPL_NEXTSEQ.of r + 4096 - F.HRM_RPL_ACKED.of r) % 4096) && decide (occ = held)),
   bk 0xE3 p (decide (occ ≤ 2048)),
   bk 0xE3 p ((List.range 6).all (fun v => decide (fget d (A.HRM_VCCRED p v) F.HRM_VCCRED_RXOCC
      ≤ fget d (A.HRM_VCCRED p v) F.HRM_VCCRED_RXBUF)))]

/-- The machine (R539). -/
def sidBooks (d : Dev) : List Book :=
  let m := d.mach
  let locked := decide (sidState d = 2) && !isMaster d
  let hops := decide (fget d A.SID_STS F.SID_STS_HOPS = ((portOf d (upIn d)).peerHops + 1) % 64)
  [bk 0xF2 0 (decide (m.launched ≤ m.armed) && decide (m.launched = m.colls.length + m.done)),
   ⟨0xF2, 0, !locked || hops, locked && decide (m.sidGood = 0)⟩,
   bk 0xF2 0 (distinct m.verdicts)]

/-- A ring (R571). -/
def ringBooks (d : Dev) (n : Nat) : List Book :=
  let host := fget d (A.HST_RIDX n) F.HST_RIDX_HOSTIDX
  let dev := fget d (A.HST_RIDX n) F.HST_RIDX_DEVIDX
  let kind := liveGet d (A.HST_RCFG n) F.HST_RCFG_KIND
  let occ := if kind = 1 then sub32 dev host else sub32 host dev
  [bk 0xAD n (decide (occ ≤ ringSize d n)),
   bk 0xAD n (kind != 0 || decide (sub32 (ringH d n).fetched dev ≤ ringSlots d n - 1))]

/-- Power (R620): floor and image; the handshake's count holds by construction. -/
def pwrBooks (d : Dev) : List Book :=
  let f (x : Fld) : Nat := fget d A.PWR_FLOOR x
  let eff := max (max (f F.PWR_FLOOR_LIM) (f F.PWR_FLOOR_THR)) (max (f F.PWR_FLOOR_THERM) (f F.PWR_FLOOR_CAP))
  let valid := decide (fget d A.PWR_SUP F.PWR_SUP_IMGVALID = 1)
  [bk 0xC3 0 (decide (f F.PWR_FLOOR_EFF = eff)),
   ⟨0xC3, 0, !valid || decide (fget d A.PWR_SUP F.PWR_SUP_BROWNOUT = 0), decide (fget d A.PWR_HSTS F.PWR_HSTS_PHASE = 4)⟩]

/-- The books of the package-level blocks, and those of the halves. -/
def packageBooks (d : Dev) : List Book :=
  ((rilActive d).filter (fun n => decide (stOf d (A.RIL_CSTS n) = 1))).flatMap (rilBooks d) ++ ephBooks d
    ++ (List.range 8).flatMap (hrmBooks d) ++ sidBooks d
    ++ ((d.hst.rings.map Prod.fst).filter (fun n => stOf d (A.HST_RSTS n) == 1)).flatMap (ringBooks d)
def halfBooks (d : Dev) : List Book :=
  [0, 1].flatMap (fun h => weiBooks d h ++ memBooks d h ++ aqdBooks d h)

/-! ### Snapshot and comparison (R635 to R637) -/

/-- A snapshot point: at a STEPB, at AP3, or in Hold. One that arrives while a comparison runs is skipped, and posts
AUD_SKIP once in a step. -/
def audit (d : Dev) (bs : List Book) : Dev :=
  match d.tst.audit with
  | some _ =>
    let d := fincSat d A.TST_AUDSTS F.TST_AUDSTS_SKIPPED 1
    if d.tst.skipStep = curStep d + 1 then d
    else tstRaise (d.withTst { d.tst with skipStep := curStep d + 1 }) 0x5D 0 0
  | none =>
    let fails := (bs.filter (fun b => !b.ok && !b.exempt)).map (fun b => (⟨b.number, b.inst⟩ : BookFail))
    let d := fincSat d A.TST_AUDSTS F.TST_AUDSTS_EXEMPT (bs.filter (·.exempt)).length
    fset (d.withTst { d.tst with audit := some fails, auditAt := d.now }) A.TST_AUDSTS F.TST_AUDSTS_BUSY 1

/-- The books exception of an identity that fails, with the record of its chapter. -/
def bookRaise (d : Dev) (b : BookFail) : Dev :=
  match b.number with
  | 0x67 => rilEvent d 0x67 3 b.inst 0
  | 0x77 => ephRaise d ⟨0x77, b.inst, 0, 0, 0, 0⟩ 0 0 0 0
  | 0x85 => weiRaise d (b.inst % 8) 0x85 0 0 0 (curStep d) 0
  | 0xB5 => memRaise d 0xB5 3 (b.inst % 2) 0
  | 0xD3 => aqdRaise d 0xD3 3 0 b.inst 0 0 0 0
  | 0xE3 => hrmNote d b.inst 0xE3 3
  | 0xAD => consequence (hstPost d 0xAD 3 b.inst 0 0) 3
  | 0xC3 => pwrRaise d 0xC3 3 0
  | _ => machRaise d 0xF2 3 0 0

/-- The comparison of the snapshot ends: one record for each identity that failed. -/
def auditCompare (d : Dev) : Dev :=
  match d.tst.audit with
  | none => d
  | some fs =>
    let d := fset (d.withTst { d.tst with audit := none }) A.TST_AUDSTS F.TST_AUDSTS_BUSY 0
    fs.foldl (fun d b => bookRaise (fincSat d A.TST_AUDSTS F.TST_AUDSTS_DIFFS 1) b) d

/-- TST_AUDCTL.RUN written 1 while PSTATE is HOLD: the package-level blocks (R635). -/
def auditRun (d : Dev) : Dev := if pstate d = 2 then audit d (packageBooks d ++ pwrBooks d) else d

/-! ### The cross-chip check (R638) -/

/-- A write to TST_PAIR: the peer's value beside this chip's own register. -/
def pairCheck (d : Dev) (kind index value : Nat) : Dev :=
  let res (d : Dev) (v : Nat) : Dev := fset d A.TST_AUDSTS F.TST_AUDSTS_PAIRRES v
  if pstate d ≠ 2 then res d 2
  else if kind = 0 then
    if rilKind d index ≠ 2 then res d 2
    else if rilGrant d index = (value + rilSlots d index) % 2 ^ 32 then res d 0
    else rilEvent (res d 1) 0x67 3 index 0
  else if kind = 1 ∧ index < 64 ∧ index % 8 ≤ 4 then
    if fget d (A.HRM_VCCRED (index / 8) (index % 8)) F.HRM_VCCRED_SCRED = value then res d 0
    else hrmNote (res d 1) (index / 8) 0xE3 3
  else res d 2

/-! ### The meanings of the commands -/

/-- AUDIT_COMPARE (R637). -/
def execAuditCompare (t : Nat) (s : State) : Host.Outcome State Fault Refusal := act (fun d => auditCompare (tick d t)) s

/-- AUDIT_RUN (R635). -/
def execAuditRun (s : State) : Host.Outcome State Fault Refusal := act auditRun s

/-- PAIR_CHECK (R638). -/
def execPairCheck (kind : BitVec 2) (index : BitVec 12) (value : BitVec 32) (s : State) :
    Host.Outcome State Fault Refusal :=
  act (fun d => pairCheck d kind.toNat index.toNat value.toNat) s

end Sys2Proof.Machine
end

