-- ==== Sys2Proof/Machine/Timed.lean ====
section
/-! DEFINITION. The commands of the CAS and JET slots, with the soft errors that their reads of the reservoirs meet
(R381). -/

namespace Sys2Proof.Machine

/-- A timed op of terrace `terr` whose reads meet the soft errors of its issue: each is corrected and reported, or
reported with the bytes of its word read as zero (R381). -/
def timedOp (d : Dev) (iss : Issue) (terr : Nat) (f : Dev → Dev) : Dev :=
  let es := iss.ecc.filter (fun e => decide (resTerrace e.addr = some (8 * hn iss.half + terr)))
  if es.isEmpty then f d
  else
    let (d, zeros) := es.foldl (fun r e =>
      let o := eccApply r.1 true e
      (o.1, r.2 ++ o.2)) (tick d iss.t, [])
    let m := d.mem
    let d := f (d.withMem (zeros.foldl (fun m a => memSet m a 0) m))
    (d.withMem (zeros.foldl (fun n a => if memGet n a = 0 then memSet n a (memGet m a) else n) d.mem))

/-! ### The meanings of the commands -/

/-- LDS (R145). -/
def execLds (iss : Issue) (terr : BitVec 3) (umask : BitVec 8) (desc : BitVec 10) (buf : BitVec 1) (epv : BitVec 1) (s : State) :
    Host.Outcome State Fault Refusal :=
  act (fun d => timedOp d iss terr.toNat fun d => casIssue d iss terr.toNat (.lds umask desc buf epv)) s

/-- MM (R124). -/
def execMm (iss : Issue) (terr : BitVec 3) (umask : BitVec 8) (desc : BitVec 10) (rowsm1 : BitVec 7) (buf : BitVec 1) (bt : BitVec 2) (acm : BitVec 2) (cmp : BitVec 1) (gp : BitVec 1) (pdt : BitVec 1) (s : State) :
    Host.Outcome State Fault Refusal :=
  act (fun d => timedOp d iss terr.toNat fun d => casIssue d iss terr.toNat (.mm umask desc rowsm1 buf bt acm cmp gp pdt)) s

/-- OPA (R124). -/
def execOpa (iss : Issue) (terr : BitVec 3) (umask : BitVec 8) (adesc : BitVec 10) (bdesc : BitVec 10) (rowsm1 : BitVec 7) (bt : BitVec 2) (acm : BitVec 2) (cmp : BitVec 1) (gp : BitVec 1) (pdt : BitVec 1) (s : State) :
    Host.Outcome State Fault Refusal :=
  act (fun d => timedOp d iss terr.toNat fun d => casIssue d iss terr.toNat (.opa umask adesc bdesc rowsm1 bt acm cmp gp pdt)) s

/-- TWF (R148). -/
def execTwf (iss : Issue) (terr : BitVec 3) (pmask : BitVec 4) (gdesc : BitVec 10) (xdesc : BitVec 10) (rowsm1 : BitVec 7) (buf : BitVec 1) (ebt : BitVec 2) (eacm : BitVec 2) (obt : BitVec 2) (oacm : BitVec 2) (cmp : BitVec 1) (s : State) :
    Host.Outcome State Fault Refusal :=
  act (fun d => timedOp d iss terr.toNat fun d => casIssue d iss terr.toNat (.twf pmask gdesc xdesc rowsm1 buf ebt eacm obt oacm cmp)) s

/-- BCTL_OPEN (R141). -/
def execBctlOpen (iss : Issue) (terr : BitVec 3) (umask : BitVec 8) (tmask : BitVec 4) (s : State) :
    Host.Outcome State Fault Refusal :=
  act (fun d => timedOp d iss terr.toNat fun d => casIssue d iss terr.toNat (.bctl umask 1#4 tmask)) s

/-- BCTL_CLOSE (R141). -/
def execBctlClose (iss : Issue) (terr : BitVec 3) (umask : BitVec 8) (tmask : BitVec 4) (s : State) :
    Host.Outcome State Fault Refusal :=
  act (fun d => timedOp d iss terr.toNat fun d => casIssue d iss terr.toNat (.bctl umask 2#4 tmask)) s

/-- BCTL_LOPEN (R141). -/
def execBctlLopen (iss : Issue) (terr : BitVec 3) (umask : BitVec 8) (tmask : BitVec 4) (s : State) :
    Host.Outcome State Fault Refusal :=
  act (fun d => timedOp d iss terr.toNat fun d => casIssue d iss terr.toNat (.bctl umask 3#4 tmask)) s

/-- BCTL_FINISH (R177). -/
def execBctlFinish (iss : Issue) (terr : BitVec 3) (umask : BitVec 8) (tmask : BitVec 4) (s : State) :
    Host.Outcome State Fault Refusal :=
  act (fun d => timedOp d iss terr.toNat fun d => casIssue d iss terr.toNat (.bctl umask 4#4 tmask)) s

/-- BIN (R159). -/
def execBin (iss : Issue) (terr : BitVec 3) (umask : BitVec 8) (desc : BitVec 10) (bt : BitVec 2) (add : BitVec 1) (s : State) :
    Host.Outcome State Fault Refusal :=
  act (fun d => timedOp d iss terr.toNat fun d => casIssue d iss terr.toNat (.bin umask desc bt add)) s

/-- BOUT (R159). -/
def execBout (iss : Issue) (terr : BitVec 3) (umask : BitVec 8) (desc : BitVec 10) (bt : BitVec 2) (rnd : BitVec 2) (nfm : BitVec 1) (gp : BitVec 1) (s : State) :
    Host.Outcome State Fault Refusal :=
  act (fun d => timedOp d iss terr.toNat fun d => casIssue d iss terr.toNat (.bout umask desc bt rnd nfm gp)) s

/-- ROOT (R152). -/
def execRoot (iss : Issue) (terr : BitVec 3) (umask : BitVec 8) (desc : BitVec 10) (nt : BitVec 2) (pc : BitVec 2) (nit : BitVec 5) (gp : BitVec 1) (s : State) :
    Host.Outcome State Fault Refusal :=
  act (fun d => timedOp d iss terr.toNat fun d => casIssue d iss terr.toNat (.root umask desc nt pc nit gp)) s


/-- JLD (R196). -/
def execJld (iss : Issue) (terr : BitVec 3) (vd : BitVec 5) (desc : BitVec 10) (rg : BitVec 3) (w : BitVec 2) (rnd : BitVec 2) (nfm : BitVec 1) (s : State) :
    Host.Outcome State Fault Refusal :=
  act (fun d => timedOp d iss terr.toNat fun d => jetIssue d iss terr.toNat (.jld vd desc rg w rnd nfm)) s

/-- JST (R196). -/
def execJst (iss : Issue) (terr : BitVec 3) (vs : BitVec 5) (desc : BitVec 10) (rg : BitVec 3) (w : BitVec 2) (rnd : BitVec 2) (nfm : BitVec 1) (gp : BitVec 1) (s : State) :
    Host.Outcome State Fault Refusal :=
  act (fun d => timedOp d iss terr.toNat fun d => jetIssue d iss terr.toNat (.jst vs desc rg w rnd nfm gp)) s

/-- ALU (R197). -/
def execAlu (iss : Issue) (terr : BitVec 3) (vd : BitVec 5) (va : BitVec 5) (vb : BitVec 5) (vc : BitVec 5) (fn : BitVec 4) (w : BitVec 2) (gp : BitVec 1) (s : State) :
    Host.Outcome State Fault Refusal :=
  act (fun d => timedOp d iss terr.toNat fun d => jetIssue d iss terr.toNat (.alu vd va vb vc fn w gp)) s

/-- CVT (R198). -/
def execCvt (iss : Issue) (terr : BitVec 3) (vd : BitVec 5) (va : BitVec 5) (ws : BitVec 2) (wd : BitVec 2) (rnd : BitVec 2) (nfm : BitVec 1) (gp : BitVec 1) (s : State) :
    Host.Outcome State Fault Refusal :=
  act (fun d => timedOp d iss terr.toNat fun d => jetIssue d iss terr.toNat (.cvt vd va ws wd rnd nfm gp)) s

/-- TAB (R200). -/
def execTab (iss : Issue) (terr : BitVec 3) (vd : BitVec 5) (va : BitVec 5) (tsel : BitVec 3) (gp : BitVec 1) (s : State) :
    Host.Outcome State Fault Refusal :=
  act (fun d => timedOp d iss terr.toNat fun d => jetIssue d iss terr.toNat (.tab vd va tsel gp)) s

/-- DER (R204). -/
def execDer (iss : Issue) (terr : BitVec 3) (vd : BitVec 5) (vx : BitVec 5) (vg : BitVec 5) (s : State) :
    Host.Outcome State Fault Refusal :=
  act (fun d => timedOp d iss terr.toNat fun d => jetIssue d iss terr.toNat (.der vd vx vg)) s

/-- RED (R206). -/
def execRed (iss : Issue) (terr : BitVec 3) (va : BitVec 5) (vb : BitVec 5) (bank : BitVec 2) (rg : BitVec 3) (rk : BitVec 2) (init : BitVec 1) (gp : BitVec 1) (s : State) :
    Host.Outcome State Fault Refusal :=
  act (fun d => timedOp d iss terr.toNat fun d => jetIssue d iss terr.toNat (.red va vb bank rg rk init gp)) s

/-- RSR (R210). -/
def execRsr (iss : Issue) (terr : BitVec 3) (vd : BitVec 5) (bank : BitVec 2) (rg : BitVec 3) (what : BitVec 1) (s : State) :
    Host.Outcome State Fault Refusal :=
  act (fun d => timedOp d iss terr.toNat fun d => jetIssue d iss terr.toNat (.rsr vd bank rg what)) s

/-- RSLD (R208). -/
def execRsld (iss : Issue) (terr : BitVec 3) (bank : BitVec 2) (rg : BitVec 3) (desc : BitVec 10) (rk : BitVec 2) (mrg : BitVec 1) (gp : BitVec 1) (s : State) :
    Host.Outcome State Fault Refusal :=
  act (fun d => timedOp d iss terr.toNat fun d => jetIssue d iss terr.toNat (.rsld bank rg desc rk mrg gp)) s

/-- RSST (R208). -/
def execRsst (iss : Issue) (terr : BitVec 3) (bank : BitVec 2) (rg : BitVec 3) (desc : BitVec 10) (s : State) :
    Host.Outcome State Fault Refusal :=
  act (fun d => timedOp d iss terr.toNat fun d => jetIssue d iss terr.toNat (.rsst bank rg desc)) s

/-- TLD (R203). -/
def execTld (iss : Issue) (terr : BitVec 3) (tgt : BitVec 1) (desc : BitVec 10) (s : State) :
    Host.Outcome State Fault Refusal :=
  act (fun d => timedOp d iss terr.toNat fun d => jetIssue d iss terr.toNat (.tld tgt desc)) s

/-- TSUM (R211). -/
def execTsum (iss : Issue) (terr : BitVec 3) (vd : BitVec 5) (desc : BitVec 10) (rg : BitVec 3) (nb : BitVec 4) (gp : BitVec 1) (s : State) :
    Host.Outcome State Fault Refusal :=
  act (fun d => timedOp d iss terr.toNat fun d => jetIssue d iss terr.toNat (.tsum vd desc rg nb gp)) s

end Sys2Proof.Machine
end

