-- ==== Sys2Proof/Machine/Stream.lean ====
section
/-! DEFINITION. Bundles at work: observation, the unwind of a step, the issue of bundles with their slots, segments,
the watchdog, and the start and stop of the sequencer pair (02). -/

namespace Sys2Proof.Machine

def setSeq (d : Dev) (f : Seq → Seq) : Dev := d.withSeq (f d.seq)

/-- The strands may issue: the pair is RUNNING, no step is being unwound, and the half logic has its clocks. -/
def canIssue (d : Dev) : Bool :=
  decide (seqState d = 1) && decide (d.seq.unwind = .no) && !d.pwr.clocksOff && !d.pwr.asleep

/-! ### Steps (R75 to R81) -/

/-- The open step closes (R77, R523, R529; counter 0x006). -/
def closeStep (d : Dev) : Dev :=
  let d := finc (finc d (A.SEQ_STEP 0) F.SEQ_STEP_CUR 1) A.SID_STEP F.SID_STEP_STEP 1
  let d := fset d A.SID_STEP F.SID_STEP_ATTEMPT 0
  countBoth (setSeq d (fun q => { q with stepOpen := false, report := none })) 0x006 1

/-- The chip's report for the open step, unless one has been sent (R77, R80). -/
def stepReport (d : Dev) (v : Nat) : Dev :=
  if d.seq.report.isSome then d else ownReport (setSeq d (fun q => { q with report := some v })) (curStep d) v

/-- Steps 1 to 4 of an unwind (R80; counter 0x007): issue stops, queued slots and the units discard what the step began,
and the chip reports the step as aborted. -/
def unwindBegin (d : Dev) : Dev :=
  let d := countBoth (setSeq (dropFlow d) (fun q => { q with unwind := .waitVerdict })) 0x007 1
  let d := headsReturn (colAbandon (weiStop (aqdUnwind (rilUnwind d)) (curStep d)))
  stepReport (finc d A.SID_STEP F.SID_STEP_ATTEMPT 1) 3

/-- An abort flag for step `s` is observed (R79, R81). -/
def abortSeen (d : Dev) (s : Nat) : Dev :=
  if stepClosed d s then setSeq d (fun q => { q with abortsDiscarded := q.abortsDiscarded + 1 })
  else if d.seq.stepOpen ∧ s = curStep d then
    (if seqState d = 1 ∧ d.seq.unwind = .no then unwindBegin d else d)
  else setSeq d (fun q => { q with abortNext := some s })

/-- A clear verdict for step `s` is observed (R77, R281, R319, R341, R562). A step that VERD does not hold closes at
once. -/
def verdictClear (d : Dev) (s : Nat) : Dev :=
  let d := weiClear (ephClear (psnVerdict d true) s) s
  let d := (dataRings d).foldl (fun d n => commitHead d n) d
  let own := d.seq.stepOpen && s == curStep d
  let d := if own && (d.seq.unwind != .no || seqState d != 1) then closeStep d else d
  if d.seq.unwind != .no then setSeq d (fun q => { q with unwind := .resume }) else d

/-- A poisoned or aborted verdict for step `s` is observed: the rest of the unwind (R77, R80, R281, R320, R341, R347). -/
def verdictBad (d : Dev) (s : Nat) : Dev :=
  let own := d.seq.stepOpen && s == curStep d
  let d := if own && seqState d == 1 && d.seq.unwind == .no then
      unwindBegin (setSeq d (fun q => { q with report := some (q.report.getD 3) }))
    else weiStop d s
  let d := psnVerdict (astRollback (weiRollback (ephBad d s) s) s) false
  if d.seq.unwind != .no then setSeq d (fun q => { q with unwind := .waitRollback })
  else if own then setSeq d (fun q => { q with stepOpen := false, report := none })
  else d

/-- One change of governing state is observed (R39). -/
def observeOne (d : Dev) (e : GovEvent) : Dev :=
  let d : Dev := (d.withObs (obsPut d.obs e.key e.val)).withPend (d.pend.erase e)
  match e.key with
  | .abort => abortSeen d e.val
  | .verdict => if e.val % 4 = 1 then verdictClear d (e.val / 4) else verdictBad d (e.val / 4)
  | .reclaim => setSeq d (fun q => { q with reclaimSeen := e.val == 1 })
  | .hold => setSeq d (fun q => { q with holdSeen := e.val == 1 })
  | .rollback => setSeq d (fun q => { q with unwind := if q.unwind = .waitRollback then .resume else q.unwind })
  | _ => d

/-- Every change due is observed, in order; `fuel` bounds their number. -/
def observeAll : Nat → Dev → Dev
  | 0, d => d
  | n + 1, d =>
    match d.pend.find? (fun e => decide (e.due ≤ d.now)) with
    | none => d
    | some e => observeAll n (observeOne d e)

/-- The sequencers at the time of a command: the clock and what they observe by then. -/
def observe (d : Dev) (t : Nat) : Dev :=
  let d := landCommits (tick d t)
  observeAll d.pend.length d

/-! ### The slots of a bundle (R37, R38, R277) -/

/-- A slot word of a half-word goes to its unit, unless it is a no-op (R34). -/
def slotEph (d : Dev) (iss : Issue) (w : Nat) : Dev :=
  if w = 0 then d
  else match decodeEph (BitVec.ofNat 16 w) with
  | some op => ephIssue d iss op
  | none => ephIllegal d iss w

def slotAst (d : Dev) (iss : Issue) (w : Nat) : Dev :=
  if w = 0 then d
  else match decodeAst (BitVec.ofNat 16 w) with
  | some op => astIssue d iss op
  | none => astIllegal d iss w

def slotCas (d : Dev) (iss : Issue) (t w : Nat) : Dev :=
  if w = 0 then d
  else timedOp d iss t (fun d => match decodeCas (BitVec.ofNat 48 w) with
    | some op => casIssue d iss t op
    | none => casIllegal d iss t w)

def slotJet (d : Dev) (iss : Issue) (t w : Nat) : Dev :=
  if w = 0 then d
  else timedOp d iss t (fun d => match decodeJet (BitVec.ofNat 40 w) with
    | some op => jetIssue d iss t op
    | none => jetIllegal d iss t w)

def slotRil (d : Dev) (iss : Issue) (p w : Nat) : Dev :=
  if w = 0 then d
  else match decodeRil (BitVec.ofNat 48 w) with
  | some op => rilIssue d iss p op
  | none => rilIllegal d iss p w

def slotAqd (d : Dev) (iss : Issue) (p w : Nat) : Dev :=
  if w = 0 then d
  else match decodeAqd (BitVec.ofNat 40 w) with
  | some op => aqdIssue d iss p op
  | none => aqdIllegal d iss p w

def slotWei (d : Dev) (iss : Issue) (w : Nat) : Dev :=
  if w = 0 then d
  else match decodeWei (BitVec.ofNat 32 w) with
  | some op => weiIssue d iss op
  | none => weiIllegal d iss w

/-- The slots of one half-word but EPH. A soft error that a terrace meets in the cycle is met by its CAS op, or by its
JET op where it has no CAS op. -/
def halfSlots (d : Dev) (iss : Issue) (w : Nat) : Dev :=
  let d := slotAst d iss (hwAst w)
  let d := (List.range 8).foldl (fun d t => slotCas d iss t (hwCas w t)) d
  let d := (List.range 8).foldl (fun d t =>
    slotJet d (if hwCas w t = 0 then iss else { iss with ecc := [] }) t (hwJet w t)) d
  let d := slotRil (slotRil d iss 0 (hwRil w 0)) iss 1 (hwRil w 1)
  let d := slotAqd (slotAqd d iss 0 (hwAqd w 0)) iss 1 (hwAqd w 1)
  slotWei d iss (hwWei w)

/-- Every slot of a bundle issues in both halves, EPH first (R37, R277). -/
def issueSlots (d : Dev) (s : StrandId) (ecc : List Ecc) (wa wb : Nat) : Dev :=
  let ia : Issue := ⟨d.now, .A, s, ecc⟩
  let ib : Issue := ⟨d.now, .B, s, ecc⟩
  let d := slotEph (slotEph d ia (hwEph wa)) ib (hwEph wb)
  halfSlots (halfSlots d ia wa) ib wb

/-! ### Flow (R51 to R56, R69, R70, R74) -/

/-- Where a strand goes after its bundle. -/
structure Flow where
  addr : Nat
  loops : List LoopFrame
  calls : List (Nat × Nat)

/-- The target test of BR and BRC (R55); the result is the exception it raises. -/
def branchFault (d : Dev) (s : StrandId) (target : Nat) : Option Nat :=
  if imgBound d ≤ target then some 0x06
  else if targetInScope d s target then none
  else some 0x07

/-- Where the bundle's CTL op leads, or the exception it raises. -/
def flowOf (d : Dev) (s : StrandId) (op : CtlOp) : Except Nat Flow :=
  let x := strandOf d s
  let cs := d.seq.calls
  let (a, l) := advance x.spc x.loops
  let on : Flow := ⟨a, l, cs⟩
  match op with
  | .loop count len =>
    if (if s = .main then 8 else 2) ≤ x.loops.length then .error 0x08
    else if imgBound d ≤ x.spc + 1 + len.toNat then .error 0x06
    else .ok ⟨x.spc + 1, ⟨x.spc + 1, len.toNat, count.toNat, 0⟩ :: x.loops, cs⟩
  | .br target =>
    match branchFault d s target.toNat with
    | some e => .error e
    | none => .ok ⟨target.toNat, x.loops, cs⟩
  | .brc ix cmp imm target =>
    match branchFault d s target.toNat with
    | some e => .error e
    | none =>
      if brcTakes cmp.toNat (loopIter x.loops ix.toNat) imm.toNat then .ok ⟨target.toNat, x.loops, cs⟩ else .ok on
  | .call target =>
    if 8 ≤ cs.length then .error 0x09
    else if imgBound d ≤ target.toNat then .error 0x06
    else .ok ⟨target.toNat, x.loops, (x.spc + 1, x.loops.length) :: cs⟩
  | .ret =>
    match cs with
    | [] => .error 0x09
    | (r, depth) :: rest =>
      if x.loops.length ≠ depth then .error 0x09
      else
        let (a, l) := advance (r - 1) x.loops
        .ok ⟨a, l, rest⟩
  | .fork desc => if fdescBad d desc.toNat then .error 0x0C else .ok on
  | _ => .ok on

/-! ### The effects of CTL ops at issue -/

/-- A sequencer exception of half `h`'s half-word in the bundle of a strand (R85, R88). -/
def seqFault (d : Dev) (s : StrandId) (h w number code late : Nat) : Dev :=
  seqRaise d number (hwCtl w) (strandOf d s).spc (strandCode s) h code late

/-- HALT, and what a stopping TRAP and R82 do as HALT does: CODE, the record, and the stop (R65, R82). -/
def seqHalt (d : Dev) (s : StrandId) (h w code : Nat) : Dev :=
  seqSelfStop (seqFault (fset d (A.SEQ_STS 0) F.SEQ_STS_CODE code) s h w 0x31 code 0)

/-- Lateness of a sidereal-held bundle (R62, R63, counter 0x005): of two sidereal ops the one that held it longest. -/
def noteLate (d : Dev) (s : StrandId) (wa wb : Nat) (oa ob : CtlOp) : Dev :=
  let l := ([(0, wa, sidLateness d oa), (1, wb, sidLateness d ob)]).filterMap (fun e => e.2.2.map (fun v => (e.1, e.2.1, v)))
  match l with
  | [] => d
  | e :: r =>
    let m := r.foldl (fun m f => if f.2.2.1 < m.2.2.1 then f else m) e
    let d := if (e :: r).all (fun f => f.2.2.2) then
        countBoth (setSeq d (fun q => { q with late := q.late + 1 })) 0x005 1
      else d
    if fget d (A.SEQ_SIDLIM 0) F.SEQ_SIDLIM_LATE < m.2.2.1 ∧ fget d (A.SEQ_CTL 0) F.SEQ_CTL_LATEREC = 1 then
      seqFault d s m.1 m.2.1 0x21 0 m.2.2.1
    else d

/-- TIME of the last SIDA issued (R75). -/
def noteSida (d : Dev) (oa ob : CtlOp) : Dev :=
  match oa, ob with
  | .sida t, _ => setSeq d (fun q => { q with sidaTime := some t.toNat })
  | _, .sida t => setSeq d (fun q => { q with sidaTime := some t.toNat })
  | _, _ => d

/-- PAGE (R64); the limit on pins is reported once. -/
def pageOp (d : Dev) (s : StrandId) (w mode page : Nat) : Dev :=
  if imgPageBound d ≤ page then d
  else match mode with
  | 0 => [0, 1].foldl (fun d h => fetchPage d h page false) d
  | 1 =>
    let (d, a) := pinPage d 0 page
    let (d, b) := pinPage d 1 page
    if a || b then seqFault d s (if a then 0 else 1) w 0x22 0 0 else d
  | _ => [0, 1].foldl (fun d h => unpinPage d h page) d

/-- STEPB opens a step (R75), with what the units do at it: rills, the ephemeris, the astrolabes, counters, collectives
and data rings (R232, R271, R272, R346, R366, R526, R562). -/
def openStep (d : Dev) (spc t0src : Nat) : Dev :=
  let t0 := if t0src = 1 then d.seq.sidaTime.getD 0 else sidNow d
  let d := fset (regSet d (A.SEQ_T0 0) (BitVec.ofNat 64 t0)) (A.SEQ_STEP 0) F.SEQ_STEP_ADDR spc
  let d := setSeq d (fun q => { q with stepOpen := true, report := none })
  let d : Dev := d.withObs (obsPut d.obs .verdict 0)
  headsCommit (colStep (cntStep (astStep (ephStep (rilStep d)))))

/-- The CTL ops with an effect beside where they lead, at the first issue of their bundle. -/
def ctlEffect (d : Dev) (s : StrandId) (w : Nat) (op : CtlOp) : Dev :=
  match op with
  | .stepb t0src => openStep d (strandOf d s).spc t0src.toNat
  | .verd => closeStep d
  | .awaitq ring => cmdConsume d ring.toNat
  | .fork desc => setSeq d (fun q => { q with confl := some ⟨desc.toNat, .pending, .pending, d.now⟩ })
  | .join => setSeq d (fun q => { q with confl := none })
  | .page mode page => pageOp d s w mode.toNat page.toNat
  | _ => d

/-- The record of a TRAP (R65). -/
def trapNote (d : Dev) (s : StrandId) (h w : Nat) (op : CtlOp) : Dev :=
  match op with
  | .trap _ code => seqFault d s h w 0x30 code.toNat 0
  | _ => d

/-- CODE, half and half-word of the op that stops the sequencer after its bundle, if one does (R65). -/
def stopsAfter (wa wb : Nat) (oa ob : CtlOp) : Option (Nat × Nat × Nat) :=
  match oa, ob with
  | .halt code, _ => some (code.toNat, 0, wa)
  | .trap stop code, .trap stop2 code2 =>
    if stop = 1 then some (code.toNat, 0, wa) else if stop2 = 1 then some (code2.toNat, 1, wb) else none
  | .trap stop code, _ => if stop = 1 then some (code.toNat, 0, wa) else none
  | _, .trap stop code => if stop = 1 then some (code.toNat, 1, wb) else none
  | _, _ => none

/-! ### Issue (R40) -/

/-- What a bundle does at the moment it issues; `go` is where its flow leads. -/
def issueBundle (d : Dev) (s : StrandId) (ecc : List Ecc) (wa wb : Nat) (oa ob : CtlOp) (go : Flow) : Dev :=
  let x := strandOf d s
  let first := x.rep == 0
  let d := match oa with
    | .stepb _ => audit d (packageBooks d ++ halfBooks d)
    | _ => d
  let d := if first then noteSida (noteLate d s wa wb oa ob) oa ob else d
  let d := noteIssue d s
  let d := if first || isPage oa then ctlEffect d s wa oa else d
  let d := if isPage ob && !isPage oa then ctlEffect d s wb ob else d
  let d := issueSlots d s ecc wa wb
  let d := if first then trapNote (trapNote d s 0 wa oa) s 1 wb ob else d
  let d := match (if first then stopsAfter wa wb oa ob else none) with
    | some (code, h, w) => seqHalt d s h w code
    | none => d
  if !canIssue d then d
  else
    let d := if (strandOf d s).rep ≤ hwRepeat wa then d
      else goTo (setSeq d (fun q => { q with calls := go.calls })) s go.addr go.loops
    match oa, d.seq.abortNext with
    | .stepb _, some n => if n = curStep d then unwindBegin (setSeq d (fun q => { q with abortNext := none })) else d
    | _, _ => d

/-- STEPB or VERD at its first issue: what else it needs, and what it does while it is held (R77, R82, R644). The
answer is none where the bundle may issue now. -/
def stepGate (d : Dev) (s : StrandId) (w : Nat) (op : CtlOp) : Option Dev :=
  match op with
  | .verd =>
    if d.seq.report.isSome ∧ obsGet d .verdict = 4 * curStep d + 1 then none
    else some (holdStrand (stepReport d (if d.mach.poisonStep = some (curStep d) then 2 else 1)) s)
  | .stepb _ =>
    let armed := fget d A.TST_CAPSTS F.TST_CAPSTS_STATE = 1
      ∧ fget d A.TST_CAPSTS F.TST_CAPSTS_STEP = curStep d
    if d.seq.reclaimSeen || d.seq.holdSeen then
      let d := if d.seq.stepbHeld then capEnd (setSeq d (fun q => { q with stepbHeld := false })) 2 else d
      some (seqHalt d s 0 w (if d.seq.reclaimSeen then 1 else 2))
    else if d.seq.stepbHeld then some d
    else if armed then
      let d := setSeq (fset d A.TST_CAPSTS F.TST_CAPSTS_STATE 2) (fun q => { q with stepbHeld := true })
      some (poolAsk (poolAsk d 0 1) 1 1)
    else none
  | .join =>
    match d.seq.confl with
    | some c => if c.a = .ended ∧ c.b = .ended then none else some (holdStrand d s)
    | none => none
  | _ => none

/-- A bundle whose half-words are sound issues if it may, or is held (R40, R50). `paged`: it was read from the image,
so its page must be resident. -/
def tryBundle (d : Dev) (s : StrandId) (ecc : List Ecc) (wa wb : Nat) : Dev :=
  let x := strandOf d s
  let first := x.rep == 0
  match (if first then bundleFault d s wa wb else none), ctlOf wa, ctlOf wb with
  | some (n, h), _, _ => seqFault d s h (if h = 0 then wa else wb) n 0 0
  | none, some oa, some ob =>
    if first && !(waitOk d 0 s oa && waitOk d 1 s ob) then holdStrand d s
    else
      let gapped := decide (d.seq.lastCycle ≠ some d.now) && decide (d.now < d.seq.gapEnd)
      if gapped || !queuesOk d 0 wa || !queuesOk d 1 wb then
        (match oa with
         | .join | .verd => d
         | _ => setStrand d s { x with held := none })
      else match (if first then stepGate d s wa oa else none) with
      | some d' => d'
      | none =>
        match flowOf d s oa with
        | .error e => if first then seqFault d s 0 wa e 0 0 else d
        | .ok go => issueBundle d s ecc wa wb oa ob go
  | none, _, _ => d

/-- A half-word in half `h` fails R33: its page is fetched again once, or the failure stands (R46). -/
def parityFail (d : Dev) (s : StrandId) (h w : Nat) : Dev :=
  let a := (strandOf d s).spc
  let p := pagerOf d h
  if p.refetched.contains a then seqFault d s h w 0x11 0 0
  else
    let d := seqFault d s h w 0x10 0 0
    let again (f : Frame) : Frame :=
      if f.page = some (pageOf a) then { f with resident := false, fetch := some (pageOf a) } else f
    let d := setPager d h { p with frames := p.frames.map again, refetched := a :: p.refetched }
    govSet d (.resident h (pageOf a)) 0

/-- The strand is due for an issue attempt at this moment: it runs, the cycle starts now, and it has not issued in it. -/
def strandDue (d : Dev) (s : StrandId) : Bool :=
  canIssue d && (strandOf d s).on && d.now % 2 == 0 && (strandOf d s).cycle != d.now + 1

/-- BUNDLE_ISSUE: the strand's next bundle issues, or is held (R40). -/
def bundleIssue (d : Dev) (s : StrandId) (ecc : List Ecc) : Dev :=
  let a := (strandOf d s).spc
  if !strandDue d s then d
  else if imgBound d ≤ a then seqFault d s 0 0 0x05 0 0
  else if !pageObserved d a then [0, 1].foldl (fun d h => fetchPage d h (pageOf a) true) d
  else match halfWordIn d.seq.pagerA a, halfWordIn d.seq.pagerB a with
  | some wa, some wb =>
    if pageComing d.seq.pagerA (pageOf a) || pageComing d.seq.pagerB (pageOf a) then d
    else if !parityOk wa || !parityOk wb then
      let d := if parityOk wa then d else parityFail d s 0 wa
      if parityOk wb then d else parityFail d s 1 wb
    else tryBundle d s ecc wa wb
  | _, _ => d

/-- One CTL op alone in both half-words of the strand's next bundle, which then issues or is held. -/
def ctlIssue (d : Dev) (s : StrandId) (op : CtlOp) : Dev :=
  if !strandDue d s then d
  else if imgBound d ≤ (strandOf d s).spc then seqFault d s 0 0 0x05 0 0
  else tryBundle d s [] (ctlOnly s op) (ctlOnly s op)

/-- A CTL op that the two half-words may not share: it stands in half `h` alone (R36, R58). -/
def ctlIssueIn (d : Dev) (s : StrandId) (h : Nat) (op : CtlOp) : Dev :=
  if !strandDue d s then d
  else if imgBound d ≤ (strandOf d s).spc then seqFault d s 0 0 0x05 0 0
  else if h = 0 then tryBundle d s [] (ctlOnly s op) (ctlOnly s .nop)
  else tryBundle d s [] (ctlOnly s .nop) (ctlOnly s op)

/-! ### Pages, segments, the watchdog, resumption -/

/-- PAGE_ARRIVAL: the page lands (R45), and a half-word that was fetched again is tested again (R46). -/
def pageArrival (d : Dev) (h page : Nat) : Dev :=
  let d := pageArrive d h page
  let p := pagerOf d h
  let bad := p.refetched.filter (fun a => pageOf a == page && pageIn p page
    && (match halfWordIn p a with | some w => !parityOk w | none => false))
  match bad with
  | [] => d
  | a :: _ =>
    let s : StrandId := if d.seq.segA.on && d.seq.segA.spc == a then .segA
      else if d.seq.segB.on && d.seq.segB.spc == a then .segB else .main
    seqRaise d 0x11 (hwCtl ((halfWordIn p a).getD 0)) a (strandCode s) h 0 0

/-- SEGMENT_START: a pending segment that is ready starts where R70 and R71 let it. `b`: segment B. -/
def segmentStart (d : Dev) (b : Bool) : Dev :=
  match d.seq.confl with
  | none => d
  | some c =>
    let mine := if b then c.b else c.a
    let other := if b then c.a else c.b
    let overlap := masksOverlap d c.desc
    let turn := !overlap || (other != .running
      && !(other == .pending && segReady d c.desc (!b) && segPref d c.desc != b))
    if canIssue d && d.now % 2 == 0 && decide (c.at' < d.now) && mine == .pending && segReady d c.desc b && turn then
      let a := segStart d c.desc b
      let x : Strand := { Strand.init with on := true, spc := a, lastSpc := a, lastIssue := d.now }
      let d := setStrand d (if b then .segB else .segA) x
      let d := setSeq d (fun q => { q with confl := some (if b then { c with b := .running } else { c with a := .running }) })
      prefetchAhead ([0, 1].foldl (fun d h => fetchPage d h (pageOf a) true) d) (pageOf a)
    else d

/-- The half-word that holds the strand, with its half: the one with a wait, else half A's. -/
def holdingWord (d : Dev) (s : StrandId) : Nat × Nat :=
  let a := (strandOf d s).spc
  let wa := (halfWordIn d.seq.pagerA a).getD 0
  let wb := (halfWordIn d.seq.pagerB a).getD 0
  match ctlOf wa, ctlOf wb with
  | some oa, some ob => if !waitOk d 1 s ob && waitOk d 0 s oa then (1, wb) else (0, wa)
  | _, _ => (0, wa)

/-- WAIT_TIMEOUT: a strand has been held for more than LIMIT µs, gaps not counted (R87). -/
def waitTimeout (d : Dev) (s : StrandId) : Dev :=
  let x := strandOf d s
  let limit := fget d (A.SEQ_WDOG 0) F.SEQ_WDOG_LIMIT
  match x.held with
  | none => d
  | some (since, gaps) =>
    if !canIssue d || limit == 0 || !x.on || decide (d.now ≤ since + (d.seq.gapTotal - gaps) + us limit) then d
    else
      let again := d.seq.wdogStep == some (curStep d)
      let (h, w) := holdingWord d s
      let d := setStrand d s { x with held := some (d.now, d.seq.gapTotal) }
      let d := setSeq d (fun q => { q with wdogStep := some (curStep d) })
      seqRaiseSev d 0x20 (if again then 3 else 2) (hwCtl w) x.spc (strandCode s) h 0 0

/-- UNWIND_RESUME: step 6, once the channels have dealt with their work and every rill context that drained runs again
(R80, R256, R433). -/
def unwindResume (d : Dev) : Dev :=
  if seqState d = 1 ∧ d.seq.unwind = .resume ∧ d.ril.unwinding = [] then
    let (d, done) := aqdUnwound d
    if !done then d
    else
      let a := fget d (A.SEQ_STEP 0) F.SEQ_STEP_ADDR
      let m : Strand := { Strand.init with on := true, spc := a, lastSpc := a, lastIssue := d.now }
      let d := setSeq d (fun q => { q with main := m, unwind := .no, stepOpen := false, report := none })
      prefetchAhead ([0, 1].foldl (fun d h => fetchPage d h (pageOf a) true) d) (pageOf a)
  else d

/-! ### Start and stop (R43, R92, R95, R96, R674) -/

/-- The tables a start loads, as base and length, in the order in which they are checked: the fork descriptors, then
each half's CAT, JAT, RAT, ERT, WST and ADT, and the collective launch table. -/
def startTables (d : Dev) : List (Nat × Nat) :=
  let tb (a : Nat) (fb fn : Fld) (sh size : Nat) : Nat × Nat := (fget d a fb * 2 ^ sh, size * (fget d a fn + 1))
  let half (h : Nat) : List (Nat × Nat) :=
    [tb (A.CAS_CAT h) F.CAS_CAT_BASE F.CAS_CAT_NENT 15 32, tb (A.JET_JAT h) F.JET_JAT_BASE F.JET_JAT_NENT 15 32,
     if h = 0 then tb A.RIL_RATA F.RIL_RATA_BASE F.RIL_RATA_NENT 15 32
     else tb A.RIL_RATB F.RIL_RATB_BASE F.RIL_RATB_NENT 15 32,
     if h = 0 then tb A.EPH_ERTA F.EPH_ERTA_BASE F.EPH_ERTA_NENT 15 8
     else tb A.EPH_ERTB F.EPH_ERTB_BASE F.EPH_ERTB_NENT 15 8,
     tb (A.WEI_WST h) F.WEI_WST_BASE F.WEI_WST_NENT 15 64, tb (A.AQD_ADT h) F.AQD_ADT_BASE F.AQD_ADT_NENT 15 64]
  [tb (A.SEQ_FDT 0) F.SEQ_FDT_BASE F.SEQ_FDT_NDESC 14 64] ++ half 0 ++ half 1
    ++ [tb A.COL_CLT F.COL_CLT_BASE F.COL_CLT_NENT 15 64]

/-- The 64-bit words of a table in memory. -/
def tableWords (d : Dev) (t : Nat × Nat) : List Nat := (List.range (t.2 / 8)).map (fun i => memNat d.mem (t.1 + 8 * i) 8)

/-- The tables loaded (R95). -/
def loadTables (d : Dev) : Dev :=
  let ts := startTables d
  let w (i : Nat) : List Nat := tableWords d (ts.getD i (0, 0))
  let half (i : Nat) : HalfTables := ⟨w i, w (i + 1), w (i + 2), w (i + 3), w (i + 4), w (i + 5)⟩
  let d := ts.foldl (fun d t => ctlTouch d t.1 t.2) d
  (d.withTables ⟨half 1, half 7, w 0, w 13⟩)

/-- A start that does not take place: EN is cleared and the exception is raised (R43, R674). -/
def startFails (d : Dev) (number ctl half : Nat) : Dev :=
  let d := fset d (A.SEQ_CTL 0) F.SEQ_CTL_EN 0
  seqRaise d number ctl (fget d (A.SEQ_ENTRY 0) F.SEQ_ENTRY_ADDR) 0 half 0 0

/-- The halves whose image does not lie in the stack range (R43). -/
def badImages (d : Dev) : List Nat :=
  [0, 1].filter (fun h => !inStacks d (fget d (A.SEQ_IMG h) F.SEQ_IMG_BASE * 2 ^ 18)
    ((fget d (A.SEQ_IMG h) F.SEQ_IMG_NPAGE + 1) * 2 ^ 18))

/-- A start of the sequencer pair (R95): not while TST_STS.INTRUSIVE is set (R642), nor with an image or a table outside
the stack range. -/
def seqStart (d : Dev) : Dev :=
  if fget d A.TST_STS F.TST_STS_INTRUSIVE = 1 then d
  else if badImages d ≠ [] then (badImages d).foldl (fun d h => startFails d 0x12 0 h) d
  else match (startTables d).findSome? (fun t => firstOutside d t.1 t.2) with
  | some a => startFails d 0x13 a 0
  | none =>
    let d := startCommon (loadTables d) .seq
    let d := latch d [A.SEQ_IMG 0, A.SEQ_IMG 1, A.SEQ_FDT 0, A.SEQ_ENTRY 0, A.SEQ_PGCTL 0, A.SEQ_PGCTL 1]
    let d := fset d (A.SEQ_STEP 0) F.SEQ_STEP_CUR (fget d A.SID_STEP F.SID_STEP_STEP)
    let a := fget d (A.SEQ_ENTRY 0) F.SEQ_ENTRY_ADDR
    let q := d.seq
    let gone (h : Nat) : List Nat := ((pagerOf d h).frames.filterMap (fun f => if f.resident then f.page else none))
    let d := [0, 1].foldl (fun d h => (gone h).foldl (fun d p => govSet d (.resident h p) 0) d) d
    let d := setSeq d (fun _ =>
      { Seq.init with main := { Strand.init with on := true, spc := a, lastSpc := a, lastIssue := d.now },
                      late := q.late, gapTotal := q.gapTotal, gapEnd := q.gapEnd, lastCycle := q.lastCycle,
                      startAt := d.now, abortNext := q.abortNext, abortsDiscarded := q.abortsDiscarded,
                      reclaimSeen := q.reclaimSeen, holdSeen := q.holdSeen })
    let d : Dev := (d.withRvrUse []).withAst { d.ast with draws := [] }
    prefetchAhead ([0, 1].foldl (fun d h => fetchPage d h (pageOf a) true) d) (pageOf a)

/-- The drain of the sequencer pair begins: issue stops in every strand (R96). -/
def seqDrain (d : Dev) : Dev := stopStrands d

/-- Every timed unit has finished and every command queue is empty (R96). -/
def seqDrained (d : Dev) : Bool :=
  d.cas.busy.all (fun e => decide (e.2 ≤ d.now)) && d.jet.busy.all (fun e => decide (e.2 ≤ d.now))
    && (List.range 4).all (fun q => (rilQueue d q).isEmpty && (aqdQueue d q).isEmpty)
    && (weiQueue d 0).isEmpty && (weiQueue d 1).isEmpty

/-- The commands still queued at the bound of a drain are discarded (R96). -/
def seqDropQueues (d : Dev) : Dev :=
  let d := (List.range 4).foldl (fun d q => aqdDropQueue (setRilQueue d q []) q) d
  weiDropQueue (weiDropQueue d 0) 1

/-! ### The meanings of the commands -/

/-- STATE_OBSERVATION (R39). -/
def execStateObservation (t : Nat) (s : State) : Host.Outcome State Fault Refusal := act (fun d => observe d t) s

/-- BUNDLE_ISSUE (R40). -/
def execBundleIssue (t : Nat) (strand : StrandId) (ecc : List Ecc) (s : State) : Host.Outcome State Fault Refusal :=
  act (fun d => bundleIssue (observe d t) strand ecc) s

/-- PAGE_ARRIVAL (R45). -/
def execPageArrival (t : Nat) (half : Half) (page : BitVec 17) (s : State) : Host.Outcome State Fault Refusal :=
  act (fun d => pageArrival (observe d t) (hn half) page.toNat) s

/-- LOOP (R51). -/
def execLoop (t : Nat) (strand : StrandId) (count : BitVec 24) (len : BitVec 20) (s : State) :
    Host.Outcome State Fault Refusal :=
  act (fun d => ctlIssue (observe d t) strand (.loop count len)) s

/-- BR (R54). -/
def execBr (t : Nat) (strand : StrandId) (target : BitVec 28) (s : State) : Host.Outcome State Fault Refusal :=
  act (fun d => ctlIssue (observe d t) strand (.br target)) s

/-- BRC (R54). -/
def execBrc (t : Nat) (strand : StrandId) (ix : BitVec 3) (cmp : BitVec 2) (imm : BitVec 24) (target : BitVec 28) (s : State) :
    Host.Outcome State Fault Refusal :=
  act (fun d => ctlIssue (observe d t) strand (.brc ix cmp imm target)) s

/-- CALL (R56). -/
def execCall (t : Nat) (strand : StrandId) (target : BitVec 28) (s : State) : Host.Outcome State Fault Refusal :=
  act (fun d => ctlIssue (observe d t) strand (.call target)) s

/-- RET (R56). -/
def execRet (t : Nat) (strand : StrandId) (s : State) : Host.Outcome State Fault Refusal := act (fun d => ctlIssue (observe d t) strand .ret) s

/-- AWAITR (R57). -/
def execAwaitr (t : Nat) (strand : StrandId) (half : Half) (kind : BitVec 1) (rill : BitVec 12) (thresh : BitVec 16)
    (s : State) : Host.Outcome State Fault Refusal :=
  act (fun d => ctlIssueIn (observe d t) strand (hn half) (.awaitr kind rill thresh)) s

/-- AWAITA (R58). -/
def execAwaita (t : Nat) (strand : StrandId) (half : Half) (chan : BitVec 5) (limit : BitVec 8) (s : State) :
    Host.Outcome State Fault Refusal :=
  act (fun d => ctlIssueIn (observe d t) strand (hn half) (.awaita chan limit)) s

/-- AWAITQ (R59). -/
def execAwaitq (t : Nat) (strand : StrandId) (ring : BitVec 8) (s : State) : Host.Outcome State Fault Refusal :=
  act (fun d => ctlIssue (observe d t) strand (.awaitq ring)) s

/-- SIDA (R61). -/
def execSida (t : Nat) (strand : StrandId) (half : Half) (time : BitVec 56) (s : State) :
    Host.Outcome State Fault Refusal :=
  act (fun d => ctlIssueIn (observe d t) strand (hn half) (.sida time)) s

/-- SIDR (R61). -/
def execSidr (t : Nat) (strand : StrandId) (half : Half) (offset : BitVec 32) (s : State) :
    Host.Outcome State Fault Refusal :=
  act (fun d => ctlIssueIn (observe d t) strand (hn half) (.sidr offset)) s

/-- DELAY (R60). -/
def execDelay (t : Nat) (strand : StrandId) (half : Half) (cycles : BitVec 24) (s : State) :
    Host.Outcome State Fault Refusal :=
  act (fun d => ctlIssueIn (observe d t) strand (hn half) (.delay cycles)) s

/-- STEPB (R75). -/
def execStepb (t : Nat) (strand : StrandId) (t0src : BitVec 1) (s : State) : Host.Outcome State Fault Refusal :=
  act (fun d => ctlIssue (observe d t) strand (.stepb t0src)) s

/-- VERD (R77). -/
def execVerd (t : Nat) (strand : StrandId) (s : State) : Host.Outcome State Fault Refusal := act (fun d => ctlIssue (observe d t) strand .verd) s

/-- FORK (R70). -/
def execFork (t : Nat) (strand : StrandId) (desc : BitVec 8) (s : State) : Host.Outcome State Fault Refusal :=
  act (fun d => ctlIssue (observe d t) strand (.fork desc)) s

/-- SEGMENT_START (R71). -/
def execSegmentStart (t : Nat) (segB : Bool) (s : State) : Host.Outcome State Fault Refusal :=
  act (fun d => segmentStart (observe d t) segB) s

/-- JOIN (R74). -/
def execJoin (t : Nat) (strand : StrandId) (s : State) : Host.Outcome State Fault Refusal := act (fun d => ctlIssue (observe d t) strand .join) s

/-- PAGE_PREFETCH (R64). -/
def execPagePrefetch (t : Nat) (strand : StrandId) (page : BitVec 17) (s : State) : Host.Outcome State Fault Refusal :=
  act (fun d => ctlIssue (observe d t) strand (.page 0 page)) s

/-- PAGE_PIN (R64). -/
def execPagePin (t : Nat) (strand : StrandId) (page : BitVec 17) (s : State) : Host.Outcome State Fault Refusal :=
  act (fun d => ctlIssue (observe d t) strand (.page 1 page)) s

/-- PAGE_UNPIN (R64). -/
def execPageUnpin (t : Nat) (strand : StrandId) (page : BitVec 17) (s : State) : Host.Outcome State Fault Refusal :=
  act (fun d => ctlIssue (observe d t) strand (.page 2 page)) s

/-- TRAP (R65). -/
def execTrap (t : Nat) (strand : StrandId) (half : Half) (stop : BitVec 1) (code : BitVec 16) (s : State) :
    Host.Outcome State Fault Refusal :=
  act (fun d => ctlIssueIn (observe d t) strand (hn half) (.trap stop code)) s

/-- HALT (R65). -/
def execHalt (t : Nat) (strand : StrandId) (code : BitVec 16) (s : State) : Host.Outcome State Fault Refusal :=
  act (fun d => ctlIssue (observe d t) strand (.halt code)) s

/-- WAIT_TIMEOUT (R87). -/
def execWaitTimeout (t : Nat) (strand : StrandId) (s : State) : Host.Outcome State Fault Refusal :=
  act (fun d => waitTimeout (observe d t) strand) s

/-- UNWIND_RESUME (R80). -/
def execUnwindResume (t : Nat) (s : State) : Host.Outcome State Fault Refusal := act (fun d => unwindResume (observe d t)) s

end Sys2Proof.Machine
end

