-- ==== Sys2Proof/Machine/Blocks.lean ====
section
/-! DEFINITION. Blocks: enable, drain and re-enable of everything that has an enable bit (R23 to R29), and what a start
and a drain mean for each (R96, R166, R224, R229, R254, R289, R293, R331, R332, R367, R434, R486, R544, R552, R570). -/

namespace Sys2Proof.Machine

/-! ### Starts -/

/-- A start of a STOPPED block: its own tests, the common part, and what its chapter adds. A block that fails its tests
stays STOPPED. -/
def startBlock (d : Dev) (b : Blk) : Dev :=
  match b with
  | .seq => seqStart d
  | .cas h => startCommon (latchRange d (A.CAS_LADR (hn h) 0) (A.CAS_LADR (hn h) 63)) b
  | .jet _ | .hrm _ | .col => startCommon d b
  | .ril n =>
    if rilConfigOk d n then rilStart (startCommon d b) n
    else rilEvent (fset d (A.RIL_CCTL n) F.EN 0) 0x6E 0 n 0
  | .eph => if ephConfigOk d then ephStart (startCommon d b) else ephRaise d ⟨0x7B, 0, 0, 0, 0, 0⟩ 0 0 0 0
  | .wei h =>
    if weiConfigOk d (hn h) then weiStart (startCommon d b) (hn h)
    else weiRaise d (4 * hn h + weiConfigBad d (hn h)) 0x8C 0 0 0 0 0
  | .ast h => astStart (startCommon d b) (hn h)
  | .aqd h c => aqdStart (startCommon d b) (hn h) c
  | .ring n =>
    if ringConfigOk d n then ringStart (startCommon d b) n
    else hstPost (fset d (A.HST_RCFG n) F.EN 0) 0xAF 0 n 0 (fget d (A.HST_RDLV n) F.HST_RDLV_BASE * 64)

/-! ### Drains -/

/-- What a block does when its drain begins. -/
def drainBlock (d : Dev) (b : Blk) : Dev :=
  match b with
  | .seq => seqDrain d
  | .ril n => rilDrain d n
  | .wei h => weiDrain d (hn h)
  | .aqd h c => aqdDiscard d (hn h) c
  | .col => colDrain d
  | .ring n => ringDrain d n
  | .cas _ | .jet _ | .eph | .ast _ | .hrm _ => d

/-- Nothing of the block's accepted work remains. -/
def drained (d : Dev) (b : Blk) : Bool :=
  match b with
  | .seq => seqDrained d
  | .cas h => decide (sget 0 (hn h) d.cas.busy ≤ d.now)
  | .jet h => decide (sget 0 (hn h) d.jet.busy ≤ d.now)
  | .ril n => rilDrained d n
  | .eph => decide (sget 0 A.EPH_STS d.drainAt + sc 1 ≤ d.now)
  | .wei h => weiDrained d (hn h)
  | .ast h => (sfind (hn h) d.ast.shadow).isNone && !emitWaits d
  | .aqd h c => aqdDrained d (hn h) c
  | .hrm p => hrmDrained d p
  | .col => colDrained d
  | .ring _ => true

/-- The bound of a block's drain in array cycles (R27). Work of timed units ends by itself within its bound. -/
def drainBound (d : Dev) (b : Blk) : Nat :=
  match b with
  | .seq => ms 10
  | .cas _ => 1067520
  | .jet _ => 96
  | .ril _ => us (fget d A.RIL_TMO F.RIL_TMO_DRAIN)
  | .eph => sc 1
  | .wei h => us (fget d (A.WEI_TMO (hn h)) F.WEI_TMO_DRAIN)
  | .ast _ => us 1000
  | .aqd h _ => us (fget d (A.AQD_TMO (hn h)) F.AQD_TMO_DRAIN)
  | .hrm _ => us 100
  | .col => us (fget d A.COL_CFG F.COL_CFG_DRAIN)
  | .ring _ => us 100

/-- The records of an emission that wait for their ring are discarded, and the sample in flight with them (R367). -/
def astDiscard (d : Dev) (h : Nat) : Dev :=
  let d : Dev := (d.withHst { d.hst with statWait := d.hst.statWait.filter (fun e => e.2.src != 6) }).withAst { d.ast with shadow := sdel h d.ast.shadow }
  let d := fset (emitEnd d) (A.SHD_STS h) F.SHD_STS_BUSY 0
  raise (fset d (A.AST_STS h) F.AST_STS_EXC 0x9C) 0x9C 0 6 (opPayload d 0 0 0 h 0x9C 0 0 0)

/-- What remains at the bound is discarded and reported as the block's chapter says (R27). -/
def discardBlock (d : Dev) (b : Blk) : Dev :=
  match b with
  | .seq => seqDropQueues d
  | .ril n => rilDiscard d n
  | .ast h => astDiscard d (hn h)
  | .aqd h c => aqdRaise d 0xDA 0 (hn h) c 0 0 0 0
  | .hrm p => hrmDiscard d p
  | .col => colDiscard d
  | .cas _ | .jet _ | .eph | .wei _ | .ring _ => d

/-- The blocks whose state is not STOPPED among those that have an enable, the contexts and rings in use. -/
def blocksActive (d : Dev) : List Blk :=
  let halves : List Half := [.A, .B]
  let rings := (d.regs.filter (fun e => decide (A.HST_RSTS 0 ≤ e.1) && decide (e.1 ≤ A.HST_RSTS 255)
    && decide ((e.1 - A.HST_RSTS 0) % (A.HST_RSTS 1 - A.HST_RSTS 0) = 0))).map
      (fun e => (e.1 - A.HST_RSTS 0) / (A.HST_RSTS 1 - A.HST_RSTS 0))
  let all : List Blk := [.seq, .eph, .col] ++ (halves.map (fun h => [Blk.cas h, .jet h, .wei h, .ast h])).flatten
    ++ (rilActive d).map Blk.ril ++ (halves.map (fun h => (List.range 32).map (Blk.aqd h))).flatten
    ++ (List.range 8).map Blk.hrm ++ rings.map Blk.ring
  all.filter (fun b => blkState d b != 0)

/-- Every block that has an enable; of the contexts and rings those whose control register has been written. -/
def allBlocks (d : Dev) : List Blk :=
  let halves : List Half := [.A, .B]
  let written (lo n stride : Nat) : List Nat := (d.regs.filter (fun e => decide (lo ≤ e.1)
    && decide (e.1 < lo + n * stride) && decide ((e.1 - lo) % stride = 0))).map (fun e => (e.1 - lo) / stride)
  [.seq, .eph, .col] ++ (halves.map (fun h => [Blk.cas h, .jet h, .wei h, .ast h])).flatten
    ++ (written (A.RIL_CCTL 0) 4096 0x40).map Blk.ril ++ (halves.map (fun h => (List.range 32).map (Blk.aqd h))).flatten
    ++ (List.range 8).map Blk.hrm ++ (written (A.HST_RCFG 0) 256 0x40).map Blk.ring

/-- A Function Level Reset that waits for the drains goes on once every block is STOPPED (R552). -/
def flrCheck (d : Dev) : Dev := if d.hst.flr && (blocksActive d).isEmpty then hstReset d else d

/-- The end of a drain (R26): STOPPED, DRAINED, and a pending start, before which what is still queued for a weir is
discarded (R28). A rill context that an unwind drained has restarted (R256). -/
def endDrain (d : Dev) (b : Blk) : Dev :=
  let pend := fget d (stsAddr b) F.PEND == 1
  let d := match b with
    | .aqd h c => aqdDiscardEnd d (hn h) c
    | _ => d
  let d := drainedCommon d b
  let d := if pend then
      let d := fset d (stsAddr b) F.PEND 0
      startBlock (match b with | .wei h => weiDropQueue d (hn h) | _ => d) b
    else d
  let d := match b with
    | .ril n => (d.withRil { d.ril with unwinding := d.ril.unwinding.erase n })
    | _ => d
  flrCheck d

/-! ### Writes of EN (R26) -/

/-- Starts of the sequencers and rings wait for the end of a scrub, which serves none of them (R572). -/
def scrubHolds (d : Dev) (b : Blk) : Bool :=
  scrubbing d && (match b with | .seq | .ring _ => true | _ => false)

/-- EN = 1 on a block, with no entry into Hold in the way. -/
def enableNow (d : Dev) (b : Blk) : Dev :=
  let d := fset d (ctlAddr b) F.EN 1
  match blkState d b with
  | 0 => if scrubHolds d b then setPwr d (fun p => { p with heldEn := p.heldEn ++ [b] }) else startBlock d b
  | 2 => fset d (stsAddr b) F.PEND 1
  | _ => d

/-- A write of EN = 1. During an entry into Hold, or in it, it is a wake event and is held (R601). -/
def enableBlock (d : Dev) (b : Blk) : Dev :=
  if pstate d = 0 then enableNow d b
  else wakeEvent (setPwr d (fun p => { p with heldEn := p.heldEn ++ [b] })) 1

/-- The writes of EN = 1 that were held take effect. -/
def heldEnables (d : Dev) : Dev :=
  let bs := d.pwr.heldEn
  bs.foldl enableNow (setPwr d (fun p => { p with heldEn := [] }))

/-- A write of EN = 0. A write of EN = 1 that is still held is overtaken by it. -/
def disableBlock (d : Dev) (b : Blk) : Dev :=
  let was := blkState d b
  let d := setPwr d (fun p => { p with heldEn := p.heldEn.filter (fun x => x != b) })
  let d := disableCommon (fset d (ctlAddr b) F.EN 0) b
  if was = 1 then drainBlock d b else d

/-- The drain of a block is complete. -/
def drainComplete (d : Dev) (b : Blk) : Dev := if blkState d b = 2 ∧ drained d b = true then endDrain d b else d

/-- The drain of a block has lasted for its bound: what remains is discarded and reported, and the drain ends (R27). A
rollback of the weirs is not cut short (R332), and timed ops complete (R96, R166, R224). -/
def drainTimeout (d : Dev) (b : Blk) : Dev :=
  if blkState d b ≠ 2 ∨ d.now < sget 0 (stsAddr b) d.drainAt + drainBound d b then d
  else if drained d b then endDrain d b
  else match b with
    | .wei _ | .cas _ | .jet _ => d
    | _ => endDrain (discardBlock d b) b

/-! ### The meanings of the commands -/

/-- BLOCK_ENABLE (R26): the host writes EN = 1. -/
def execBlockEnable (t : Nat) (b : Blk) (s : State) : Host.Outcome State Fault Refusal :=
  act (fun d => enableBlock (observe d t) b) s

/-- BLOCK_DISABLE (R26): the host writes EN = 0. -/
def execBlockDisable (t : Nat) (b : Blk) (s : State) : Host.Outcome State Fault Refusal :=
  act (fun d => disableBlock (observe d t) b) s

/-- DRAIN_COMPLETE (R26). -/
def execDrainComplete (t : Nat) (b : Blk) (s : State) : Host.Outcome State Fault Refusal :=
  act (fun d => drainComplete (observe d t) b) s

/-- DRAIN_TIMEOUT (R27). -/
def execDrainTimeout (t : Nat) (b : Blk) (s : State) : Host.Outcome State Fault Refusal :=
  act (fun d => drainTimeout (observe d t) b) s

/-- SEQ_START (R95): SEQ_CTL.EN = 1 in half A. -/
def execSeqStart (t : Nat) (s : State) : Host.Outcome State Fault Refusal := act (fun d => enableBlock (observe d t) .seq) s

/-- SEQ_STOP (R96): SEQ_CTL.EN = 0 in half A. -/
def execSeqStop (t : Nat) (s : State) : Host.Outcome State Fault Refusal := act (fun d => disableBlock (observe d t) .seq) s

end Sys2Proof.Machine
end

