-- ==== Sys2Proof/Machine/Boot.lean ====
section
/-! DEFINITION. What bring-up checks: SHA-384 and ECDSA over P-384 as FIPS 180 and FIPS 186 give them, boot slots, the NV
directory and the fuses (R401, R629 to R632). -/

namespace Sys2Proof.Machine

/-! ### SHA-384 (R631) -/

def sha512K0 : List Nat :=
  [0x428A2F98D728AE22, 0x7137449123EF65CD, 0xB5C0FBCFEC4D3B2F, 0xE9B5DBA58189DBBC,
  0x3956C25BF348B538, 0x59F111F1B605D019, 0x923F82A4AF194F9B, 0xAB1C5ED5DA6D8118,
  0xD807AA98A3030242, 0x12835B0145706FBE, 0x243185BE4EE4B28C, 0x550C7DC3D5FFB4E2,
  0x72BE5D74F27B896F, 0x80DEB1FE3B1696B1, 0x9BDC06A725C71235, 0xC19BF174CF692694,
  0xE49B69C19EF14AD2, 0xEFBE4786384F25E3, 0x0FC19DC68B8CD5B5, 0x240CA1CC77AC9C65,
  0x2DE92C6F592B0275, 0x4A7484AA6EA6E483, 0x5CB0A9DCBD41FBD4, 0x76F988DA831153B5,
  0x983E5152EE66DFAB, 0xA831C66D2DB43210, 0xB00327C898FB213F, 0xBF597FC7BEEF0EE4,
  0xC6E00BF33DA88FC2, 0xD5A79147930AA725, 0x06CA6351E003826F, 0x142929670A0E6E70,
  0x27B70A8546D22FFC, 0x2E1B21385C26C926, 0x4D2C6DFC5AC42AED, 0x53380D139D95B3DF,
  0x650A73548BAF63DE, 0x766A0ABB3C77B2A8, 0x81C2C92E47EDAEE6, 0x92722C851482353B]

def sha512K1 : List Nat :=
  [0xA2BFE8A14CF10364, 0xA81A664BBC423001, 0xC24B8B70D0F89791, 0xC76C51A30654BE30,
  0xD192E819D6EF5218, 0xD69906245565A910, 0xF40E35855771202A, 0x106AA07032BBD1B8,
  0x19A4C116B8D2D0C8, 0x1E376C085141AB53, 0x2748774CDF8EEB99, 0x34B0BCB5E19B48A8,
  0x391C0CB3C5C95A63, 0x4ED8AA4AE3418ACB, 0x5B9CCA4F7763E373, 0x682E6FF3D6B2B8A3,
  0x748F82EE5DEFB2FC, 0x78A5636F43172F60, 0x84C87814A1F0AB72, 0x8CC702081A6439EC,
  0x90BEFFFA23631E28, 0xA4506CEBDE82BDE9, 0xBEF9A3F7B2C67915, 0xC67178F2E372532B,
  0xCA273ECEEA26619C, 0xD186B8C721C0C207, 0xEADA7DD6CDE0EB1E, 0xF57D4F7FEE6ED178,
  0x06F067AA72176FBA, 0x0A637DC5A2C898A6, 0x113F9804BEF90DAE, 0x1B710B35131C471B,
  0x28DB77F523047D84, 0x32CAAB7B40C72493, 0x3C9EBE0A15C9BEBC, 0x431D67C49C100D4C,
  0x4CC5D4BECB3E42B6, 0x597F299CFC657E2A, 0x5FCB6FAB3AD6FAEC, 0x6C44198C4A475817]

def sha384Init : List Nat :=
  [0xCBBB9D5DC1059ED8, 0x629A292A367CD507, 0x9159015A3070DD17, 0x152FECD8F70E5939,
  0x67332667FFC00B31, 0x8EB44A8768581511, 0xDB0C2E0D64F98FA7, 0x47B5481DBEFA4FA4]

/-- Addition and rotation of 64-bit words. -/
def add64 (a b : Nat) : Nat := (a + b) % 2 ^ 64
def rotr64 (n x : Nat) : Nat := (x >>> n ||| x <<< (64 - n)) % 2 ^ 64

/-- A number of `k` bytes, the most significant first. -/
def beNat (bs : List Byte) : Nat := bs.foldl (fun n b => 256 * n + b.toNat) 0
def beBytes (k n : Nat) : List Byte := (leBytes k n).reverse

/-- The message padded to whole blocks of 128 bytes. -/
def shaPad (bs : List Byte) : List Byte :=
  bs ++ [0x80] ++ List.replicate ((240 - (bs.length + 1) % 128) % 128) 0 ++ beBytes 16 (8 * bs.length)

/-- The message schedule of a block, extended `n` words at a time at its front; words stand newest first. -/
def shaSchedule : Nat → List Nat → List Nat
  | 0, w => w
  | n + 1, w =>
    let a := w.getD 14 0
    let e := w.getD 1 0
    let s0 := rotr64 1 a ^^^ rotr64 8 a ^^^ a >>> 7
    let s1 := rotr64 19 e ^^^ rotr64 61 e ^^^ e >>> 6
    shaSchedule n (add64 (add64 s1 (w.getD 6 0)) (add64 s0 (w.getD 15 0)) :: w)

/-- One round on the eight working words. -/
def shaRound (v : List Nat) (kw : Nat × Nat) : List Nat :=
  match v with
  | [a, b, c, d, e, f, g, h] =>
    let ch := (e &&& f) ^^^ ((2 ^ 64 - 1 - e) &&& g)
    let maj := (a &&& b) ^^^ (a &&& c) ^^^ (b &&& c)
    let t1 := add64 (add64 h (rotr64 14 e ^^^ rotr64 18 e ^^^ rotr64 41 e)) (add64 ch (add64 kw.1 kw.2))
    let t2 := add64 (rotr64 28 a ^^^ rotr64 34 a ^^^ rotr64 39 a) maj
    [add64 t1 t2, a, b, c, add64 d t1, e, f, g]
  | _ => v

/-- A block of 128 bytes taken into the hash. -/
def shaBlock (hs : List Nat) (blk : List Byte) : List Nat :=
  let w := (shaSchedule 64 ((chunks 8 16 blk).map beNat).reverse).reverse
  let v := ((sha512K0 ++ sha512K1).zip w).foldl shaRound hs
  (hs.zip v).map (fun p => add64 p.1 p.2)

/-- SHA-384 as 48 bytes. -/
def sha384 (bs : List Byte) : List Byte :=
  let p := shaPad bs
  (((chunks 128 (p.length / 128) p).foldl shaBlock sha384Init).take 6).flatMap (beBytes 8)

/-! ### ECDSA over P-384 (R631) -/

def p384P : Nat := 2 ^ 384 - 2 ^ 128 - 2 ^ 96 + 2 ^ 32 - 1
def p384B : Nat := 0xB3312FA7E23EE7E4988E056BE3F82D19181D9C6EFE8141120314088F5013875AC656398D8A2ED19D2A85C8EDD3EC2AEF
def p384N : Nat := 0xFFFFFFFFFFFFFFFFFFFFFFFFFFFFFFFFFFFFFFFFFFFFFFFFC7634D81F4372DDF581A0DB248B0A77AECEC196ACCC52973
def p384Gx : Nat := 0xAA87CA22BE8B05378EB1C71EF320AD746E1D3B628BA79B9859F741E082542A385502F25DBF55296C3A545E3872760AB7
def p384Gy : Nat := 0x3617DE4A96262C6F5D9E98BF9292DC29F8F41DBD289A147CE9DA3113B5F0B8C00A60B1CE1D7E819D7A431D7C90EA0E5F

/-- a^e modulo m, over the lowest `n` bits of e. -/
def powMod (m : Nat) : Nat → Nat → Nat → Nat
  | 0, _, _ => 1 % m
  | n + 1, a, e => (if e % 2 = 1 then a else 1) * powMod m n (a * a % m) (e / 2) % m

/-- The inverse modulo a prime. -/
def invMod (m a : Nat) : Nat := powMod m 384 (a % m) (m - 2)

/-- The sum of two points of the curve; none is the point at infinity. -/
def ecAdd (a b : Option (Nat × Nat)) : Option (Nat × Nat) :=
  match a, b with
  | none, b => b
  | a, none => a
  | some (x1, y1), some (x2, y2) =>
    let p := p384P
    if x1 = x2 ∧ (y1 + y2) % p = 0 then none
    else
      let l := if x1 = x2 then (3 * x1 * x1 + p - 3) * invMod p (2 * y1) % p
        else (y2 + p - y1) * invMod p (x2 + p - x1) % p
      let x := (l * l + 2 * p - x1 - x2) % p
      some (x, (l * (x1 + p - x) + p - y1) % p)

/-- The point k · a, over the lowest `n` bits of k. -/
def ecMul : Nat → Nat → Option (Nat × Nat) → Option (Nat × Nat)
  | 0, _, _ => none
  | n + 1, k, a =>
    let r := ecMul n (k / 2) (ecAdd a a)
    if k % 2 = 1 then ecAdd a r else r

/-- The signature (r, s) over the digest verifies under the public key (x, y). -/
def ecdsaOk (x y digest r s : Nat) : Bool :=
  let onCurve := decide (x < p384P) && decide (y < p384P)
    && decide (y * y % p384P = (x * x * x + (p384P - 3) * x + p384B) % p384P)
  if !onCurve || r == 0 || s == 0 || decide (p384N ≤ r) || decide (p384N ≤ s) then false
  else
    let w := invMod p384N s
    match ecAdd (ecMul 384 (digest * w % p384N) (some (p384Gx, p384Gy))) (ecMul 384 (r * w % p384N) (some (x, y))) with
    | none => false
    | some (a, _) => a % p384N == r

/-! ### Boot slots and the directory (R401, R631, R632) -/

/-- Offsets of the boot slots and of the staging area in the NV store. -/
def bootBase (b : Bool) : Nat := if b then 0x1000000 else 0x100000
def stagingBase : Nat := 0x1F00000

/-- What is wrong with a boot image at an offset of the NV store, as TST_BOOT codes it: 0 nothing, 1 magic or length, 2
digest, 3 signature, 4 version (R631, R654). The public key's x lies in the low half of OLKEY, its y in the high half;
SIGR and SIGS are little-endian (R4). -/
def slotReason (d : Dev) (base : Nat) : Nat :=
  let g (o k : Nat) : Nat := memNat d.nv (base + o) k
  let len := g 8 4
  let key := d.tst.fuseA.olkey.read.getD 0
  if memRead d.nv base 8 ≠ [0x5A, 0x54, 0x58, 0x32, 0x42, 0x4F, 0x4F, 0x54] ∨ 15 * 2 ^ 20 - 512 < len then 1
  else
    let digest := sha384 (memRead d.nv base 64 ++ memRead d.nv (base + 512) len)
    if memRead d.nv (base + 64) 48 ≠ digest then 2
    else if !ecdsaOk (key % 2 ^ 384) (key / 2 ^ 384) (beNat digest) (g 112 48) (g 160 48) then 3
    else if g 16 2 < fuseCount d then 4
    else 0

/-- The directory's CRC-32C is right; its ACTIVE slot (true: B). -/
def dirOk (d : Dev) : Bool := decide (memNat d.nv 60 4 = crc32c (memRead d.nv 0 60))
def dirActive (d : Dev) : Bool := (memNat d.nv 16 1).testBit 0

/-- The directory with another ACTIVE slot (R585). -/
def dirSet (d : Dev) (b : Bool) : Dev :=
  let h := (memRead d.nvNext 0 16) ++ leBytes 1 (memNat d.nvNext 16 1 / 2 * 2 + b2n b) ++ memRead d.nvNext 17 43
  nvWrite d 0 (h ++ leBytes 4 (crc32c h))

/-! ### Fuses (R629, R630) -/

/-- FUSE_FAIL: neither copy of a field reads correctly on a die, or OLKEY or SECVER differs between the dies. -/
def fuseBad (d : Dev) : Bool :=
  let a := d.tst.fuseA
  let b := d.tst.fuseB
  let bad (f : Fuses) : Bool := [f.olkey, f.secver, f.curwt, f.sramrpr, f.dieid].any (fun x => x.read.isNone)
  bad a || bad b || a.olkey.read != b.olkey.read || a.secver.read != b.secver.read

end Sys2Proof.Machine
end

