-- ==== Sys2Proof/Machine/States.lean ====
section
/-! DEFINITION. Resets, bring-up, the Hold handshake, the Hold image, Cold, and the tenant scrub (R399, R412, R413, R552,
R572, R573, R596 to R610, R626 to R634, R659, R661, R675). -/

namespace Sys2Proof.Machine

/-! ### Function Level Reset (R552) -/

/-- EN = 0 to every block that has an enable; the HST block is reset once every drain is complete. -/
def flr (d : Dev) : Dev :=
  let d := (allBlocks d).foldl disableBlock d
  flrCheck (d.withHst { d.hst with flr := true })

/-! ### The tenant scrub (R572, R573) -/

/-- GLB_SCRUB.GO written 1. -/
def scrubGo (d : Dev) : Dev :=
  if scrubbing d then d
  else if pstate d ≠ 0 ∨ (blocksActive d).isEmpty = false then fset d A.GLB_SCRUB F.GLB_SCRUB_STATE 3
  else fset (fset d A.GLB_SCRUB F.GLB_SCRUB_STATE 1) A.GLB_SCRUB F.GLB_SCRUB_PROG 0

/-- `n` registers from `base` on at their reset values. -/
def resetArray (d : Dev) (base n : Nat) : Dev := resetRange d base (base + 8 * n)

/-- Registers that a scrub of a half clears. -/
def scrubHalf (d : Dev) (h : Nat) : Dev :=
  let d := resetArray d (A.CAS_BSTS h 0) 64
  let d := resetRange d (A.JET_TID h 0) (A.JET_TID h 0 + 64)
  let d := setPool d h Pool.init
  let d := resetRange (resetRange d (A.WEI_SEED h) (A.WEI_SEED h + 8)) (A.WEI_BWUSED h 0) (A.WEI_BWUSED h 4)
  let d := resetRange d (A.WEI_RULE0 h 0) (A.WEI_RULE0 h 16)
  let d := resetRange d (A.AST_PSN h) (A.AST_BANK1 h + 8)
  resetArray d (A.CNT_VAL h 0) 64

/-- The scrub has cleared everything it clears. -/
def scrubComplete (d : Dev) : Dev :=
  if !scrubbing d then d
  else
    let d := scrubHalf (scrubHalf d 0) 1
    let frames (p : Pager) : Pager := { p with frames := p.frames.map (fun f => { f with page := none, data := [], resident := false }) }
    let d : Dev := d.withMem []
        |>.withCas { Cas.init with busy := d.cas.busy }
        |>.withJet { Jet.init with busy := d.jet.busy }
        |>.withEph Eph.init
        |>.withEphRes []
        |>.withWei { d.wei with weirs := d.wei.weirs.map (fun w => (w.1, { w.2 with log := [], pos := 0 })) }
        |>.withAst { d.ast with sums := [], nel := [], hasu := [], samples := [], gn := [], mism := [], discards := [] }
        |>.withSeq { d.seq with pagerA := frames d.seq.pagerA, pagerB := frames d.seq.pagerB }
        |>.withMs { d.ms with under := [], marks := [] }
    let d := resetRange (resetRange d (A.EPH_ENT 0) (A.EPH_SLOT 16384)) A.EPH_TAG (A.EPH_TAG + 8)
    let d := resetRange d A.EPH_HOLDS (A.EPH_CLEARED + 8)
    let d := resetRange (resetArray d (A.GCNT_VAL 0) 32) (A.WEI_BUILD 0) (A.WEI_BUILD 2048)
    let d := resetRange (resetRange d A.SID_SLICE (A.SID_STEP + 8)) (A.SID_MEMB 0) (A.SID_MEMB 512)
    let n := fget d A.GLB_CAP F.GLB_CAP_NCH
    let d := fset (fset d A.GLB_SCRUB F.GLB_SCRUB_PROG (n * 5 / 2)) A.GLB_SCRUB F.GLB_SCRUB_STATE 2
    let d := post (fset d A.HST_STS F.HST_STS_EXC 0xAE) 0xAE 0 11 [0, 0xAE <<< 32, 0, sidNow d]
    heldEnables d

/-! ### The Hold image (R602, R603, R608) -/

/-- Registers of a part of the image: the first one, how many, their stride, and the bits that are saved. Every EN field
is saved as 0. -/
structure SaveRow where
  base : Nat
  n : Nat
  stride : Nat
  mask : Nat
  deriving DecidableEq, Repr

def allBits : Nat := 2 ^ 64 - 1
def noEn : Nat := 2 ^ 64 - 2

def holdRows (h : Nat) : List SaveRow :=
  [⟨A.SEQ_CTL h, 1, 8, noEn⟩, ⟨A.SEQ_ENTRY h, 1, 8, allBits⟩, ⟨A.SEQ_IMG h, 1, 8, allBits⟩, ⟨A.SEQ_FDT h, 1, 8, allBits⟩,
   ⟨A.SEQ_PGCTL h, 1, 8, allBits⟩, ⟨A.SEQ_GAP h, 1, 8, allBits⟩, ⟨A.SEQ_WDOG h, 1, 8, allBits⟩,
   ⟨A.SEQ_SIDLIM h, 1, 8, allBits⟩, ⟨A.CAS_CAT h, 1, 8, allBits⟩, ⟨A.CAS_LADR h 0, 64, 8, allBits⟩,
   ⟨A.JET_JAT h, 1, 8, allBits⟩, ⟨A.STK_SCRUB h, 1, 8, allBits⟩, ⟨A.STK_RMP h, 1, 8, allBits⟩,
   ⟨A.WEI_WST h, 1, 8, allBits⟩, ⟨A.WEI_SEED h, 1, 8, allBits⟩, ⟨A.WEI_TMO h, 1, 8, allBits⟩,
   ⟨A.WEI_BW h 0, 4, 8, allBits⟩, ⟨A.WEI_RULE0 h 0, 128, 8, allBits⟩,
   ⟨A.AQD_ADT h, 1, 8, allBits⟩, ⟨A.AQD_TMO h, 1, 8, allBits⟩, ⟨A.AQD_CHCTL h 0, 32, 0x20, noEn⟩,
   ⟨A.AST_CTL h, 1, 8, noEn⟩, ⟨A.AST_UWR h, 1, 8, allBits⟩, ⟨A.AST_SMP h, 1, 8, allBits⟩, ⟨A.AST_SHD h, 1, 8, allBits⟩,
   ⟨A.CNT_CTL h, 1, 8, allBits⟩, ⟨A.CNT_SEL h 0, 64, 8, allBits⟩, ⟨A.CNT_VAL h 0, 64, 8, allBits⟩]
  ++ (if h = 0 then [⟨A.WEI_BUILD 0, 2048, 8, F.WEI_BUILD_NSPAN.mask⟩, ⟨A.AST_GNOUT, 1, 8, allBits⟩] else [])

def coldRows : List SaveRow :=
  [⟨A.GLB_ALERT, 1, 8, allBits⟩, ⟨A.GLB_DBGWIN, 1, 8, allBits⟩, ⟨A.HST_EVROUTE, 1, 8, allBits⟩, ⟨A.HST_CFG, 1, 8, allBits⟩,
   ⟨A.HST_RBASE 0, 256, 0x40, allBits⟩, ⟨A.HST_RCFG 0, 256, 0x40, noEn⟩, ⟨A.HST_RDLV 0, 256, 0x40, allBits⟩,
   ⟨A.HST_RWB 0, 256, 0x40, allBits⟩, ⟨A.SID_CTL, 1, 8, allBits⟩, ⟨A.SID_CFG, 1, 8, allBits⟩, ⟨A.SID_SLICE, 1, 8, allBits⟩,
   ⟨A.SID_STEP, 1, 8, F.SID_STEP_STEP.mask⟩, ⟨A.SID_RCFG, 1, 8, allBits⟩, ⟨A.SID_VTREE 0, 2, 8, allBits⟩,
   ⟨A.SID_RBANK, 1, 8, F.SID_RBANK_ACT.mask⟩, ⟨A.SID_MEMB 0, 512, 8, allBits⟩, ⟨A.SID_RTAB 0, 2048, 8, allBits⟩,
   ⟨A.COL_CLT, 1, 8, allBits⟩, ⟨A.COL_PERM, 1, 8, allBits⟩, ⟨A.COL_CFG, 1, 8, allBits⟩,
   ⟨A.HRM_PCTL 0, 8, 0x20000, noEn⟩, ⟨A.HRM_CFG 0, 8, 0x20000, allBits⟩, ⟨A.HRM_VCBUF 0, 8, 0x20000, allBits⟩,
   ⟨A.HRM_PARB 0, 8, 0x20000, allBits⟩, ⟨A.HRM_LANE 0, 8, 0x20000, F.HRM_LANE_EXCL.mask⟩, ⟨A.BRG_CFG, 1, 8, allBits⟩,
   ⟨A.PWR_RAMP, 1, 8, allBits⟩, ⟨A.PWR_THR, 1, 8, 0xFFFFFFFF⟩, ⟨A.PWR_WAKET, 1, 8, 2 ^ 63 - 1⟩,
   ⟨A.GCNT_SEL 0, 32, 8, allBits⟩, ⟨A.GCNT_VAL 0, 32, 8, allBits⟩]

/-- The registers of a part with the bits that are saved; a register that the list leaves out is at its reset value. -/
def saveRows (d : Dev) (rows : List SaveRow) : List (Nat × W64) :=
  rows.flatMap (fun r => (d.regs.filter (fun e => decide (r.base ≤ e.1) && decide (e.1 < r.base + r.n * r.stride)
    && decide ((e.1 - r.base) % r.stride = 0))).map (fun e =>
      (e.1, (e.2 &&& BitVec.ofNat 64 r.mask) ||| (regReset e.1 &&& ~~~ BitVec.ofNat 64 r.mask))))

/-- The registers of a part restored. -/
def restoreRows (d : Dev) (l : List (Nat × W64)) : Dev := l.foldl (fun d e => regSet d e.1 e.2) d

/-- The gap in force reaches the sequencers again (R613). -/
def gapApply (d : Dev) : Dev :=
  let eff := fget d A.PWR_FLOOR F.PWR_FLOOR_EFF
  [0, 1].foldl (fun d h => let d := fset d (A.SEQ_GAP h) F.SEQ_GAP_PWR eff; (d.withObs (obsPut d.obs (.gapPwr h) eff))) d

/-! ### Entering Hold (R597 to R601, R606) -/

/-- PWR_HSTS.PHASE and PWR_STS.PSTATE. -/
def setPhaseHold (d : Dev) (n : Nat) : Dev := fset d A.PWR_HSTS F.PWR_HSTS_PHASE n
def setPstate (d : Dev) (n : Nat) : Dev := fset d A.PWR_STS F.PWR_STS_PSTATE n

/-- The blocks that are asked: code and half or port. 0x0D stands for the counter and the tree node. -/
def holdAsked : List (Nat × Nat) :=
  [1, 2, 3, 6, 7, 8, 0xB].flatMap (fun c => [(c, 0), (c, 1)]) ++ [(4, 0), (5, 0), (0xA, 0), (0xC, 0), (0xD, 0)]
    ++ (List.range 8).map (fun p => (9, p))

/-- A block's answer: it accepts, delays, or refuses for a reason (R97, R167, R225, R258, R294, R333, R368, R412, R435,
R487, R545, R574). -/
inductive HoldAnswer where
  | accept | delay | refuse (reason : Nat)
  deriving DecidableEq, Repr

/-- The answer of a block that goes by its state alone. -/
def byState (st : Nat) : HoldAnswer :=
  match st with
  | 0 => .accept
  | 2 => .delay
  | _ => .refuse 1

/-- The answer of a group of blocks: all STOPPED, or some DRAINING, or else running. -/
def byStates (l : List Nat) : HoldAnswer :=
  if l.all (· == 0) then .accept else if l.any (· == 2) then .delay else .refuse 1

def holdAnswer (d : Dev) (code inst : Nat) : HoldAnswer :=
  match code with
  | 1 => byState (seqState d)
  | 2 => byState (stOf d (A.CAS_STS inst))
  | 3 => byState (stOf d (A.JET_STS inst))
  | 4 => byStates ((rilActive d).map (fun n => stOf d (A.RIL_CSTS n)))
  | 5 => byState (stOf d A.EPH_STS)
  | 6 =>
    let ws := (range' (4 * inst) 4).map (weirOf d)
    let st := stOf d (A.WEI_STS inst)
    if st = 2 ∨ ws.any (·.rolling.isSome) = true then .delay
    else if st = 1 then .refuse 1
    else if ws.all (fun w => w.log.isEmpty) then .accept else .refuse 2
  | 7 => byState (stOf d (A.AST_STS inst))
  | 8 => byStates ((List.range 32).map (fun c => stOf d (A.AQD_CHSTS inst c)))
  | 9 => byState (stOf d (A.HRM_PSTS inst))
  | 0xA => byState (stOf d A.COL_STS)
  | 0xB =>
    if fget d (A.POL_STS inst) F.POL_STS_DIRTY ≠ 0 ∨ d.ms.lanes.any (fun l => l.2.tries != 0) = true then .delay else .accept
  | _ => .accept

/-- A Hold request (R597, R598). The pools begin a write-back at once (R412). -/
def holdRequest (d : Dev) : Dev :=
  if pstate d ≠ 0 then d
  else
    let d := setPhaseHold (regSet (setPstate d 1) A.PWR_HSTS 0) 1
    let d := setPwr d (fun p => { p with blocks := holdAsked.map (fun b => ⟨b.1, b.2, 0, d.now, 0⟩), reqAt := d.now,
                                         committed := false, wakeAfter := false })
    poolAsk (poolAsk d 0 1) 1 1

/-- An entry ends without Hold: every block is released, its outcome is recorded and posted, and the writes of EN = 1
that were held take effect (R598, R600, R601). -/
def holdRelease (d : Dev) : Dev :=
  let d := setPstate (setPhaseHold d 0) 0
  let d := setPwr (fset d A.PWR_WAKE F.PWR_WAKE_PEND 0) (fun p => { p with blocks := [], committed := false, wakeAfter := false })
  heldEnables (pwrRaise d 0xCD 0 ((regGet d A.PWR_HSTS).toNat % 2 ^ 40))

/-- A refusal (R598, R606). -/
def holdRefuse (d : Dev) (code inst reason : Nat) : Dev :=
  let s := A.PWR_HSTS
  let d := fset (fset d s F.PWR_HSTS_OUTCOME 1) s F.PWR_HSTS_BLOCK code
  let d := fset (fset d s F.PWR_HSTS_INST inst) s F.PWR_HSTS_REASON reason
  let a := A.PWR_ACCT
  let d := if fget d a F.PWR_ACCT_MODE = 0 then d
    else
      let d := fset (fincSat d a F.PWR_ACCT_REFUSED 1) a F.PWR_ACCT_LBLOCK code
      fset (fset d a F.PWR_ACCT_LINST inst) a F.PWR_ACCT_LREASON reason
  holdRelease d

/-- An entry abandoned at an abort point (R600, R606). -/
def holdAbandon (d : Dev) (ap : Nat) : Dev :=
  let d := fset (fset d A.PWR_HSTS F.PWR_HSTS_OUTCOME 2) A.PWR_HSTS F.PWR_HSTS_AP ap
  holdRelease (if fget d A.PWR_ACCT F.PWR_ACCT_MODE = 0 then d else fincSat d A.PWR_ACCT F.PWR_ACCT_ABANDONED 1)

def wakePending (d : Dev) : Bool := decide (fget d A.PWR_WAKE F.PWR_WAKE_PEND = 1)

/-- What a block asked to hold is replaced by. -/
def setHoldBlk (d : Dev) (b : HoldBlk) : Dev :=
  setPwr d (fun p => { p with blocks := p.blocks.map (fun x => if x.code = b.code ∧ x.inst = b.inst then b else x) })

/-- A block that has been asked and has not accepted. -/
def holdWaits (d : Dev) (code inst : Nat) : Option HoldBlk :=
  if pstate d ≠ 1 then none else d.pwr.blocks.find? (fun b => b.code == code && b.inst == inst && b.ans != 1)

/-- When a block must have answered: 10 µs after the request, or after the end of its longest delay. -/
def answerBy (b : HoldBlk) : Nat := b.since + (if b.ans = 2 then us 110 else us 10)

/-- A block answers (R598, R599). The first answer ends the phase Request, at AP1. -/
def holdAnswered (d : Dev) (code inst : Nat) : Dev :=
  match holdWaits d code inst with
  | none => d
  | some b =>
    if fget d A.PWR_HSTS F.PWR_HSTS_PHASE = 1 ∧ wakePending d = true then holdAbandon d 1
    else
      let d := setPhaseHold d 2
      if answerBy b < d.now then holdRefuse d code inst 4
      else match holdAnswer d code inst with
      | .refuse r => holdRefuse d code inst r
      | .delay =>
        if b.delays = 3 then holdRefuse d code inst 3
        else setHoldBlk (fincSat d A.PWR_HSTS F.PWR_HSTS_DELAYS 1) { b with ans := 2, since := d.now, delays := b.delays + 1 }
      | .accept =>
        let d := setHoldBlk d { b with ans := 1 }
        if d.pwr.blocks.all (fun x => x.ans == 1) then
          if wakePending d then holdAbandon d 2 else setPhaseHold d 3
        else d

/-- A missing answer, or a delay longer than 100 µs, counts as a refusal (R598). -/
def holdTimeout (d : Dev) (code inst : Nat) : Dev :=
  match holdWaits d code inst with
  | none => d
  | some b =>
    if answerBy b < d.now then holdRefuse d code inst 4
    else if b.ans = 2 ∧ b.since + us 100 < d.now then holdRefuse d code inst 3
    else d

/-- Quiesce ends at AP3: the books are audited, and the entry commits or is abandoned (R599, R620, R635). -/
def quiesceDone (d : Dev) : Dev :=
  if pstate d ≠ 1 ∨ fget d A.PWR_HSTS F.PWR_HSTS_PHASE ≠ 3 then d
  else
    let d := audit d (packageBooks d ++ halfBooks d ++ pwrBooks d)
    if wakePending d then holdAbandon d 3
    else setPhaseHold (setPwr d (fun p => { p with committed := true })) 4

/-- The image is written, the halves are power-gated and PSTATE becomes HOLD; a wake event after commit starts the exit
at once (R599, R600, R602). -/
def holdSaved (d : Dev) : Dev :=
  if pstate d ≠ 1 ∨ d.pwr.committed = false then d
  else
    let wake := d.pwr.wakeAfter
    let valid := 1 - fget d A.PWR_SUP F.PWR_SUP_BROWNOUT
    let d := setPwr d (fun p => { p with image := ⟨saveRows d (holdRows 0 ++ holdRows 1), []⟩, asleep := true, blocks := [],
                                         committed := false, wakeAfter := false })
    let d := fset (fset d A.PWR_SUP F.PWR_SUP_IMGVALID valid) A.PWR_SUP F.PWR_SUP_IMGCOLD 0
    let d := setPhaseHold (fset d A.PWR_HSTS F.PWR_HSTS_OUTCOME 0) 0
    let d := pwrRaise (setPstate d 2) 0xCD 0 ((regGet d A.PWR_HSTS).toNat % 2 ^ 40)
    if wake then setPstate d 3 else d

/-! ### Hold exit (R603, R604) -/

/-- Governing state of the half logic. -/
def halfKey : GovKey → Bool
  | .aqdOut _ _ | .qfill _ _ | .resident _ _ | .gapPwr _ | .rollback => true
  | _ => false

/-- The half logic as it comes up: every register of a half at its reset value but the capacities that bring-up found,
and the units empty (R400, R603). The stream reservoirs keep their contents (R595). -/
def halvesReset (d : Dev) : Dev :=
  let found (e : Nat × W64) : Bool :=
    let o := e.1 % 0x1000000
    decide (0x500000 ≤ o) && (decide (o < 0x500028) || (decide (0x500080 ≤ o) && decide (o < 0x5000A0)))
  let kept := d.regs.filter (fun e => decide (0x1000000 ≤ e.1) && decide (e.1 < 0x3000000) && found e)
  let d := restoreRows (resetRange d 0x1000000 0x3000000) kept
  let pager (p : Pager) : Pager := { Pager.init with frames := p.frames.map (fun f => { f with resident := false, fetch := none, pinned := false }) }
  (d.withSeq { Seq.init with pagerA := pager d.seq.pagerA, pagerB := pager d.seq.pagerB }
    |>.withTables { Tables.init with clt := d.tables.clt }
    |>.withCas Cas.init
    |>.withJet Jet.init
    |>.withAst Ast.init
    |>.withEphRes []
    |>.withRvrUse []
    |>.withWei { Wei.init with verdict := d.wei.verdict }
    |>.withAqd { Aqd.init with nextTag := d.aqd.nextTag, nextSerial := d.aqd.nextSerial }
    |>.withPend (d.pend.filter (fun e => !halfKey e.key))
    |>.withObs (d.obs.filter (fun e => !halfKey e.1)))

/-- Hold exit is complete: the Hold part is restored and PSTATE becomes RUN. -/
def holdExitDone (d : Dev) : Dev :=
  if pstate d ≠ 3 then d
  else
    let d := gapApply (restoreRows (halvesReset d) d.pwr.image.hold)
    heldEnables (setPstate (setPwr d (fun p => { p with asleep := false })) 0)

/-! ### Cold (R608) -/

/-- PWR_HCTL.COLD, or its PLDM equivalent, in Hold. -/
def coldEntry (d : Dev) : Dev :=
  if pstate d ≠ 2 then d
  else
    let d := setPwr d (fun p => { p with image := { p.image with cold := saveRows d coldRows }, heldEn := [] })
    let d := fset d A.PWR_SUP F.PWR_SUP_IMGCOLD 1
    let d := setPwr ((List.range 8).foldl (fun d p => setLstate (linkOff d p) p 0) d) (fun p => { p with pcieUp := false })
    nvStop (fset (setPstate d 4) A.PWR_STS F.PWR_STS_COLDRDY 1)

/-! ### Resets (R590, R626, R661) -/

/-- Registers of the always-on domain: the PWR, MGT and TST blocks (R672). -/
def alwaysOn (a : Nat) : Bool := decide (0x200000 ≤ a) && decide (a < 0x500000)

/-- Everything outside the always-on domain is reset. The sidereal counter restarts at 0 (R675); the outside keeps what it
was sent. An entry into Hold, or Hold itself, ends. -/
def packageReset (d : Dev) : Dev :=
  let aon (l : List (Nat × W64)) : List (Nat × W64) := l.filter (fun e => alwaysOn e.1)
  let d : Dev := { Dev.reset with
    now := d.now, fresh := d.fresh, regs := aon d.regs, live := aon d.live, nv := d.nv, nvNext := d.nvNext,
    hst := { Hst.init with hostMem := d.hst.hostMem, msix := d.hst.msix, cpl := d.hst.cpl, errlog := d.hst.errlog,
                           pldmEvents := d.hst.pldmEvents },
    pwr := { d.pwr with blocks := [], heldEn := [], committed := false, wakeAfter := false, asleep := false,
                        clocksOff := d.pwr.thermtrip, pcieUp := d.pwr.pcieUp },
    tst := { d.tst with up := false, failed := false, commit := 0 }, mgt := d.mgt }
  let d := if pstate d = 4 then d else setPhaseHold (setPstate (fset d A.PWR_WAKE F.PWR_WAKE_PEND 0) 0) 0
  gapApply d

/-- PKG_RST_N alone clears the replay mode and INTRUSIVE (R642, R655). -/
def rstClears (d : Dev) : Dev := fset (fset d A.TST_RPL F.TST_RPL_MODE 0) A.TST_STS F.TST_STS_INTRUSIVE 0

/-- The first controller start after a brown-out posts PWR_BROWNOUT (R609). -/
def controllerStart (d : Dev) : Dev :=
  if d.pwr.brownStart then pwrRaise (setPwr d (fun p => { p with brownStart := false })) 0xCE 0 0 else d

/-- Cold exit begins: the regulator returns to normal mode. The registers of the always-on domain go to their reset
values, the image being what survives (R610, R625); the rails, the image's flags and the write guard stand as they
are. -/
def coldExit (d : Dev) : Dev :=
  let sup := regGet d A.PWR_SUP
  let nvwp := fget d A.PWR_STS F.PWR_STS_NVWP
  let intr := fget d A.TST_STS F.TST_STS_INTRUSIVE
  let d := fset (resetRange (resetRange d 0x200000 0x300000) 0x400000 0x500000) A.TST_STS F.TST_STS_INTRUSIVE intr
  nvResume (fset (regSet d A.PWR_SUP sup) A.PWR_STS F.PWR_STS_NVWP nvwp)

/-! ### Bring-up (R399, R628 to R634) -/

def setBoot (d : Dev) (f : Fld) (v : Nat) : Dev := fset d A.TST_BOOT f v

/-- A boot record carries TST_BOOT (R652). -/
def bootRaise (d : Dev) (number sev : Nat) : Dev := tstRaise d number sev (regGet d A.TST_BOOT).toNat

/-- Bring-up ends here: the restricted access stays in force until a reset (R634). -/
def bootFails (d : Dev) : Dev := d.withTst { d.tst with failed := true }

/-- Phase 0: the straps (R606, R628, R654, R659). -/
def bootRom (d : Dev) (i : BootIn) : Dev :=
  let d := setPwr (controllerStart d) (fun p => { p with diag := i.diag, smb := i.smb.toNat })
  let d := fset (regSet d A.TST_BOOT 0) A.TST_STS F.TST_STS_DIAG (b2n i.diag)
  fset d A.PWR_ACCT F.PWR_ACCT_MODE (b2n i.diag)

/-- Phase 1: the fuses (R629, R630). -/
def bootFuse (d : Dev) : Dev :=
  let d := setBoot d F.TST_BOOT_PHASE 1
  if fuseBad d then bootFails (bootRaise d 0x58 4) else setBoot d F.TST_BOOT_SECVER (fuseCount d)

/-- What is wrong with a boot slot; a read error comes before everything else. -/
def bootReason (d : Dev) (i : BootIn) (b : Bool) : Nat :=
  if (if b then i.readB else i.readA) then 5 else slotReason d (bootBase b)

/-- A slot is booted: its BUILD, and the version it commits to (R632, R633). -/
def bootSlot (d : Dev) (b : Bool) : Dev :=
  let g (o k : Nat) : Nat := memNat d.nv (bootBase b + o) k
  let d := setBoot (setBoot d F.TST_BOOT_SLOT (b2n b)) F.TST_BOOT_BUILD (g 12 4)
  let d := fset d A.GLB_ID F.GLB_ID_BUILD (g 12 4)
  (d.withTst { d.tst with commit := if bit (g 18 1) 0 then g 16 2 else 0 })

/-- ROM recovery: no boot slot is valid (R632). -/
def bootRecovery (d : Dev) : Dev := let d := setBoot d F.TST_BOOT_ROM 1; bootFails (bootRaise d 0x59 4)

/-- Phase 2: the NV directory and the boot image (R631, R632). -/
def bootImage (d : Dev) (i : BootIn) : Dev :=
  let d := setBoot d F.TST_BOOT_PHASE 2
  let reas (b : Bool) : Fld := if b then F.TST_BOOT_REASB else F.TST_BOOT_REASA
  if !dirOk d then bootRecovery d
  else
    let act := dirActive d
    let r := bootReason d i act
    if r = 0 then bootSlot d act
    else
      let d := setBoot d (reas act) r
      let r' := bootReason d i (!act)
      if r' = 0 then let d := bootSlot d (!act); bootRaise d 0x5A 0 else bootRecovery (setBoot d (reas (!act)) r')

/-- Phase 3: the die bridge. -/
def bootCore (d : Dev) (i : BootIn) : Dev :=
  let d := setBoot d F.TST_BOOT_PHASE 3
  if i.bridge then fset d A.BRG_STS F.BRG_STS_UP 1 else bootFails (brgFatal d 0 0)

/-- The channels of a stack that are mapped out: those that failed and those that the repair record lists (R399). -/
def badChannels (d : Dev) (i : BootIn) (s : Nat) : List Nat :=
  let mask := memNat d.nv (0x20000 + 4 * s) 4
  (List.range 32).filter (fun c => mask.testBit c || i.bad.contains (BitVec.ofNat 8 (32 * s + c)))

/-- One stack: its capacity and its spares, a record for each channel mapped out. -/
def bootStack (d : Dev) (i : BootIn) (s : Nat) : Dev :=
  let bad := badChannels d i s
  let good := (List.range 32).filter (fun c => !bad.contains c)
  let a := A.STK_CAP (s / 4) (s % 4)
  let d := fset (fset d a F.STK_CAP_NCH good.length) a F.STK_CAP_MAP ((good.map (2 ^ ·)).foldl (· + ·) 0)
  let d := fincSat d (A.STK_TOTAL (s / 4)) F.STK_TOTAL_NCH good.length
  let d := finc d A.GLB_CAP F.GLB_CAP_NCH good.length
  let own := i.spares.filter (fun e => e.1 / 1024 == s)
  let d : Dev := d.withMs { d.ms with spares := own.foldl (fun l e => sset 0 e.1 e.2 l) d.ms.spares }
  let d := fset d (A.STK_RMPSTS (s / 4) (s % 4)) F.STK_RMPSTS_SPARE (min ((own.map Prod.snd).foldl (· + ·) 0) 65535)
  bad.foldl (fun d c => stkRaise d 0xBE 0 (32 * s + c) 0) d

/-- Every pending row of the repair record is hard-repaired (R397). -/
def hardRepair (d : Dev) : Dev :=
  let n := memNat d.nvNext 0x20020 4
  let at' (k : Nat) : Nat := 0x20040 + 16 * k
  let pending := (List.range (min n 4000)).filter (fun k => bits (memNat d.nvNext (at' k) 8) 37 36 == 0)
  if pending.isEmpty then d
  else repairSeal (pending.foldl (fun d k => nvWrite d (at' k) (leBytes 8 (putBits (memNat d.nvNext (at' k) 8) 37 36 2))) d)

/-- Phase 4: the stacks. More than 4 channels mapped out of one stack make the package unfit (R399). -/
def bootStacks (d : Dev) (i : BootIn) : Dev :=
  let d := hardRepair (setBoot d F.TST_BOOT_PHASE 4)
  let d := (List.range 8).foldl (fun d s => bootStack d i s) d
  match (List.range 8).filter (fun s => decide (4 < (badChannels d i s).length)) with
  | [] => d
  | l => bootFails (l.foldl (fun d s => stkRaise d 0xC2 4 (32 * s) 0) d)

/-- Phase 6: chip number and cable classes, and after Cold the image (R610, R628). -/
def bootConfig (d : Dev) (cold : Bool) : Dev :=
  let d := setBoot d F.TST_BOOT_PHASE 6
  let w := memNat d.nv 0x10008 8
  let d := if bit w 63 then fset (fset d A.GLB_CHIP F.GLB_CHIP_CHIP (bits w 13 0)) A.GLB_CHIP F.GLB_CHIP_VALID 1 else d
  let d := (List.range 8).foldl (fun d p => fset d (A.HRM_PCTL p) F.HRM_PCTL_CLASS (bits (memNat d.nv (0x10010 + 8 * p) 8) 41 40)) d
  let ok := cold && decide (fget d A.PWR_SUP F.PWR_SUP_IMGVALID = 1) && decide (fget d A.PWR_SUP F.PWR_SUP_IMGCOLD = 1)
  if !ok then d
  else
    let d := gapApply (restoreRows (restoreRows d d.pwr.image.hold) d.pwr.image.cold)
    let on := (List.range 8).filter (fun p => fget d (A.HRM_PCTL p) F.HRM_PCTL_LINK == 1)
    on.foldl (fun d p => linkOn (fset d (A.HRM_PCTL p) F.HRM_PCTL_LINK 0) p) d

/-- Bring-up from phase 0 to the beginning of phase 7. After Run or Hold the Hold image becomes invalid (R596); after Cold
it is restored. Memory lists nothing: every byte is zero (R413). -/
def bringUp (d : Dev) (i : BootIn) : Dev :=
  let cold := decide (pstate d = 4)
  let d := packageReset (if cold then coldExit (setPstate d 0) else d)
  let d := if cold then d else fset (fset d A.PWR_SUP F.PWR_SUP_IMGVALID 0) A.PWR_SUP F.PWR_SUP_IMGCOLD 0
  let go (d : Dev) (f : Dev → Dev) : Dev := if d.tst.failed then d else f d
  let d := go (bootRom d i) bootFuse
  let d := go d (fun d => bootImage d i)
  let d := go d (fun d => bootCore d i)
  let d := go d (fun d => bootStacks d i)
  let d := go d (fun d => bootConfig d cold)
  go d (fun d => setBoot d F.TST_BOOT_PHASE 7)

/-- Phase 7 ends: BOOTED, normal service, and the fuses of a committed image (R628, R633, R675). -/
def bringupComplete (d : Dev) : Dev :=
  if d.tst.up ∨ d.tst.failed ∨ fget d A.TST_BOOT F.TST_BOOT_PHASE ≠ 7 ∨ d.pwr.pwrok = false ∨ d.pwr.rstN = false then d
  else
    let d := regSet (setBoot ((d.withSidPrev 0).withTst { d.tst with up := true }) F.TST_BOOT_PHASE 15) A.SID_TIME 0
    secverBlow (bootRaise d 0x5B 0)

/-! ### Pins and supplies (R590, R626, R627) -/

/-- Bring-up begins where PKG_PWROK is high and PKG_RST_N is released; otherwise it waits for the other pin. -/
def bringUpIf (d : Dev) (i : BootIn) : Dev :=
  if d.pwr.vaux && d.pwr.pwrok && d.pwr.rstN then bringUp d i else d

def pwrokRise (d : Dev) (i : BootIn) : Dev :=
  if d.pwr.pwrok then d else bringUpIf (setPwr d (fun p => { p with pwrok := true })) i

def pwrokFall (d : Dev) : Dev :=
  packageReset (setPwr d (fun p => { p with pwrok := false, thermtrip := false }))

def rstAssert (d : Dev) : Dev :=
  let d := setPwr d (fun p => { p with rstN := false })
  if d.pwr.pwrok then rstClears (packageReset d) else rstClears d

def rstRelease (d : Dev) (i : BootIn) : Dev :=
  if d.pwr.rstN then d else bringUpIf (setPwr d (fun p => { p with rstN := true })) i

/-- PERST_N asserted: a wake event, and the PCIe link and function are reset as an FLR does (R605, R626). -/
def perstAssert (d : Dev) : Dev :=
  let d := setPwr d (fun p => { p with perst := true, pcieUp := false })
  flr (wakeEvent d 5)

/-- PERST_N released: link and function leave their reset. -/
def perstRelease (d : Dev) : Dev := setPwr d (fun p => { p with perst := false, pcieUp := decide (pstate d ≠ 4) })

/-- VAUX below 2.95 V: everything but the NV store and the fuses is reset (R590, R626). -/
def vauxLoss (d : Dev) : Dev :=
  { Dev.reset with
    now := d.now, fresh := d.fresh, nv := d.nv, nvNext := d.nv,
    hst := { Hst.init with hostMem := d.hst.hostMem, msix := d.hst.msix, cpl := d.hst.cpl, errlog := d.hst.errlog,
                           pldmEvents := d.hst.pldmEvents },
    pwr := { Pwr.init with vaux := false, pwrok := d.pwr.pwrok, rstN := d.pwr.rstN, perst := d.pwr.perst,
                           brownStart := d.pwr.brownStart, wpLow := d.pwr.wpLow },
    tst := { Tst.init with fuseA := d.tst.fuseA, fuseB := d.tst.fuseB } }

/-- VAUX at or above 2.95 V again: the controller starts, and bring-up follows as soon as both pins allow it. -/
def vauxRise (d : Dev) (i : BootIn) : Dev :=
  if d.pwr.vaux then d else bringUpIf (controllerStart (setPwr d (fun p => { p with vaux := true }))) i

/-- The always-on domain below 0.68 V: it is reset, BROWNOUT is latched and the image is invalid (R609). PSTATE, the
state of the rails, TST_STS and TST_BOOT stand. -/
def brownOut (d : Dev) : Dev :=
  let st := pstate d
  let rails := fget d A.PWR_SUP F.PWR_SUP_RAIL
  let kept := [(A.TST_STS, regGet d A.TST_STS), (A.TST_BOOT, regGet d A.TST_BOOT)]
  let d := resetRange (resetRange d 0x200000 0x300000) 0x400000 0x500000
  let d := restoreRows (fset (fset (setPstate d st) A.PWR_SUP F.PWR_SUP_RAIL rails) A.PWR_SUP F.PWR_SUP_BROWNOUT 1) kept
  let q := d.pwr
  let p : Pwr :=
    { Pwr.init with vaux := q.vaux, pwrok := q.pwrok, rstN := q.rstN, perst := q.perst, pcieUp := q.pcieUp,
                    diag := q.diag, smb := q.smb, asleep := q.asleep, wpLow := q.wpLow, thermtrip := q.thermtrip,
                    clocksOff := q.clocksOff, brownStart := true }
  ((d.withPwr p).withTst { d.tst with audit := none, cap := Cap.init }).withMgt { Mgt.init with packets := d.mgt.packets }

/-! ### The meanings of the commands -/

/-- FLR (R552). -/
def execFlr (t : Nat) (s : State) : Host.Outcome State Fault Refusal := act (fun d => flr (observe d t)) s

/-- SCRUB_GO (R572). -/
def execScrubGo (t : Nat) (s : State) : Host.Outcome State Fault Refusal := act (fun d => scrubGo (observe d t)) s

/-- SCRUB_COMPLETE (R572, R573). -/
def execScrubComplete (t : Nat) (s : State) : Host.Outcome State Fault Refusal := act (fun d => scrubComplete (observe d t)) s

/-- HOLD_REQUEST (R597). -/
def execHoldRequest (t : Nat) (s : State) : Host.Outcome State Fault Refusal := act (fun d => holdRequest (observe d t)) s

/-- HOLD_ANSWER (R598): the block with this code and half or port answers. -/
def execHoldAnswer (t : Nat) (code : BitVec 4) (inst : BitVec 3) (s : State) : Host.Outcome State Fault Refusal :=
  act (fun d => holdAnswered (observe d t) code.toNat inst.toNat) s

/-- HOLD_ANSWER_TIMEOUT (R598). -/
def execHoldAnswerTimeout (t : Nat) (code : BitVec 4) (inst : BitVec 3) (s : State) : Host.Outcome State Fault Refusal :=
  act (fun d => holdTimeout (observe d t) code.toNat inst.toNat) s

/-- QUIESCE_DONE (R599). -/
def execQuiesceDone (t : Nat) (s : State) : Host.Outcome State Fault Refusal := act (fun d => quiesceDone (observe d t)) s

/-- HOLD_SAVE_DONE (R602). -/
def execHoldSaveDone (t : Nat) (s : State) : Host.Outcome State Fault Refusal := act (fun d => holdSaved (observe d t)) s

/-- HOLD_EXIT_DONE (R604). -/
def execHoldExitDone (t : Nat) (s : State) : Host.Outcome State Fault Refusal := act (fun d => holdExitDone (tick d t)) s

/-- COLD_ENTRY (R608). -/
def execColdEntry (t : Nat) (s : State) : Host.Outcome State Fault Refusal := act (fun d => coldEntry (tick d t)) s

/-- PKG_PWROK_RISE (R626). `boot` is what bring-up finds. -/
def execPkgPwrokRise (t : Nat) (boot : BootIn) (s : State) : Host.Outcome State Fault Refusal :=
  act (fun d => pwrokRise (tick d t) boot) s

/-- PKG_PWROK_FALL (R626). -/
def execPkgPwrokFall (t : Nat) (s : State) : Host.Outcome State Fault Refusal := act (fun d => pwrokFall (tick d t)) s

/-- PKG_RST_N_ASSERT (R626): an assertion of at least 10 µs (R657). -/
def execPkgRstNAssert (t : Nat) (s : State) : Host.Outcome State Fault Refusal := act (fun d => rstAssert (tick d t)) s

/-- PKG_RST_N_RELEASE (R628). -/
def execPkgRstNRelease (t : Nat) (boot : BootIn) (s : State) : Host.Outcome State Fault Refusal :=
  act (fun d => rstRelease (tick d t) boot) s

/-- BRINGUP_COMPLETE (R628). -/
def execBringupComplete (t : Nat) (s : State) : Host.Outcome State Fault Refusal :=
  act (fun d => bringupComplete (tick d t)) s

/-- PERST_N (R626). -/
def execPerstN (t : Nat) (s : State) : Host.Outcome State Fault Refusal := act (fun d => perstAssert (observe d t)) s

/-- PERST_N_RELEASE (R626). -/
def execPerstNRelease (s : State) : Host.Outcome State Fault Refusal := act perstRelease s

/-- TRST_N (R626, R639): the TAP controller is reset and selects IDCODE. -/
def execTrstN (s : State) : Host.Outcome State Fault Refusal := act (fun d => (d.withTst { d.tst with tap := 2, sib := 0 })) s

/-- VAUX_LOSS (R590). -/
def execVauxLoss (t : Nat) (s : State) : Host.Outcome State Fault Refusal := act (fun d => vauxLoss (tick d t)) s

/-- VAUX_RISE (R590, R609). -/
def execVauxRise (t : Nat) (boot : BootIn) (s : State) : Host.Outcome State Fault Refusal :=
  act (fun d => vauxRise (tick d t) boot) s

/-- PWR_BROWNOUT (R609). -/
def execPwrBrownout (t : Nat) (s : State) : Host.Outcome State Fault Refusal := act (fun d => brownOut (tick d t)) s

end Sys2Proof.Machine
end

