-- ==== Sys2Proof/Machine/Access.lean ====
section
/-! DEFINITION. Accesses to registers and memory from outside: what a register reads as, writes by access code and the
actions behind them, the local map, BAR4, and remote requests with their responses (R5 to R10, R372 to R376, R483,
R501 to R504, R549, R550, R634). -/

namespace Sys2Proof.Machine

/-! ### What a register reads as -/

/-- The registers that half A's sequencer block holds for both halves (R89, R93). -/
def sharedReg (a : Nat) : Nat :=
  let o := a - 0x2000000
  if 0x2000000 ≤ a ∧ (o = 0x8 ∨ o = 0x18 ∨ o = 0x20 ∨ o = 0x58 ∨ o = 0x60) then a - 0x1000000 else a

/-- SID_FLAGS: the flags in force and the step of the poison or abort flag (R516, R543). -/
def sidFlags (d : Dev) : Nat :=
  let m := d.mach
  let s := match m.abortStep with
    | some s => s
    | none => m.poisonStep.getD 0
  b2n m.poisonStep.isSome + 2 * b2n m.abortStep.isSome + 4 * b2n (m.reclaim.time != 0) + 8 * b2n (m.hold.time != 0)
    + s <<< 32

/-- How many of the status registers listed are in a state. -/
def inState (d : Dev) (st : Nat) (sts : List Nat) : Nat := (sts.filter (fun a => stOf d a == st)).length

/-- The value of the register at a BAR0 offset, with the fields that other state shows through. -/
def regRead (d : Dev) (a0 : Nat) : W64 :=
  let a := sharedReg a0
  let w := regGet d a
  let h := a / 0x1000000 - 1
  let q := d.seq
  if a = A.SEQ_STS 0 then
    F.SEQ_STS_STRANDS.put (F.SEQ_STS_STEPOPEN.put w (b2n q.stepOpen)) (b2n q.main.on + 2 * b2n q.segA.on + 4 * b2n q.segB.on)
  else if a = A.SEQ_SPC 0 then BitVec.ofNat 64 q.main.spc
  else if a = A.SEQ_SSPC 0 then BitVec.ofNat 64 (q.segA.spc + q.segB.spc <<< 32)
  else if a = A.SEQ_CTL 1 then F.EN.put w (fget d (A.SEQ_CTL 0) F.EN)
  else if a = A.SEQ_PGCTL h then F.SEQ_PGCTL_PINNED.put w (pinnedCount (pagerOf d h))
  else if a = A.SEQ_GAP h then F.SEQ_GAP_EFF.put w (gapNow d)
  else if A.CAS_BSTS h 0 ≤ a ∧ a < A.CAS_BSTS h 64 then BitVec.ofNat 64 (casBsts d (64 * h + (a - A.CAS_BSTS h 0) / 8))
  else if a = A.RIL_SUM then
    let sts := (rilActive d).map A.RIL_CSTS
    F.RIL_SUM_DRAINING.put (F.RIL_SUM_RUNNING.put w (inState d 1 sts)) (inState d 2 sts)
  else if a = A.AQD_SUM h then
    let sts := (List.range 32).map (A.AQD_CHSTS h)
    F.AQD_SUM_DRAINING.put (F.AQD_SUM_RUNNING.put w (inState d 1 sts)) (inState d 2 sts)
  else if a = A.EPH_TAG then F.EPH_TAG_NEWTAG.put w (newTag d)
  else if a = A.SID_FLAGS then BitVec.ofNat 64 (sidFlags d)
  else w

/-! ### Writes (R7 to R9, R26) -/

/-- The block whose control register lies at a BAR0 offset. SEQ_CTL acts from half A only (R89). -/
def blkAt (a : Nat) : Option Blk :=
  let half (f : Half → Blk) (g : Nat → Nat) : Option Blk := if a = g 0 then some (f .A) else if a = g 1 then some (f .B) else none
  let many (lo n stride : Nat) (f : Nat → Blk) : Option Blk :=
    if lo ≤ a ∧ a < lo + n * stride ∧ (a - lo) % stride = 0 then some (f ((a - lo) / stride)) else none
  if a = A.SEQ_CTL 0 then some .seq
  else if a = A.EPH_CTL then some .eph
  else if a = A.COL_CTL then some .col
  else (half .cas A.CAS_CTL).or ((half .jet A.JET_CTL).or ((half .wei A.WEI_CTL).or ((half .ast A.AST_CTL).or
    ((many (A.RIL_CCTL 0) 4096 0x40 .ril).or ((many (A.AQD_CHCTL 0 0) 32 0x20 (.aqd .A)).or
    ((many (A.AQD_CHCTL 1 0) 32 0x20 (.aqd .B)).or ((many (A.HRM_PCTL 0) 8 0x20000 .hrm).or
    (many (A.HST_RCFG 0) 256 0x40 .ring))))))))

/-- RW and W1C bits of the register at `a` take the data, within the bits of `mask` (R7, R9). -/
def storeBits (d : Dev) (a mask data : Nat) : Dev :=
  match regRow a with
  | none => d
  | some r =>
    let old := (regGet d a).toNat
    let rw := r.rw &&& mask
    let clear := data &&& r.w1c &&& mask
    regSet d a (BitVec.ofNat 64 (((old ^^^ (old &&& rw)) ^^^ (old &&& clear)) ||| (data &&& rw)))

/-- TST_CAP written: ARM = 1 arms a capture, ARM = 0 cancels one, and either takes effect only as R655 allows. -/
def captureArm (d : Dev) (arm : Bool) (desc : Nat) : Dev :=
  let st := fget d A.TST_CAPSTS F.TST_CAPSTS_STATE
  if arm then
    if st = 1 ∨ st = 2 then d
    else fset (fset (fset d A.TST_CAP F.TST_CAP_DESC desc) A.TST_CAP F.TST_CAP_ARM 1) A.TST_CAPSTS F.TST_CAPSTS_STATE 1
  else if st = 1 ∨ st = 2 then capEnd (setSeq d (fun q => { q with stepbHeld := false })) 2
  else fset (fset d A.TST_CAP F.TST_CAP_DESC desc) A.TST_CAP F.TST_CAP_ARM 0

/-- A region of a capture descriptor: its base and its length. -/
structure CapRegion where
  base : Nat
  len : Nat
  deriving DecidableEq, Repr

/-- What a capture descriptor says (R643). -/
structure CapDesc where
  base : Nat
  len : Nat
  regions : List CapRegion
  deriving DecidableEq, Repr

def capDesc (d : Dev) : CapDesc :=
  let a := fget d A.TST_CAP F.TST_CAP_DESC * 64
  let g (o k : Nat) : Nat := memNat d.mem (a + o) k
  ⟨g 0 8, g 8 8, (List.range (g 16 4)).map (fun k => ⟨g (64 + 16 * k) 8, g (72 + 16 * k) 8⟩)⟩

/-! ### The base of a capture (R644, R647)

The spec gives the base's parts and their order, and no layout. Here it is a row of planes: a plane of `n` keys of `w`
bytes each holds the value at key k at byte w · k, little-endian, and zero bytes where the map lists nothing. -/

/-- The bytes that differ from zero of a sparse map of numbers. -/
def planeCells (w : Nat) (l : List (Nat × Nat)) : List Host.Cell :=
  l.flatMap (fun e => (((leBytes w e.2).zipIdx).filter (fun b => b.1 != 0)).map (fun b => (w * e.1 + b.2, b.1)))

/-- The sparse map that cells spell. -/
def planeMap (w : Nat) (l : List Host.Cell) : List (Nat × Nat) :=
  l.foldl (fun m c => let k := c.1 / w; sput k (sget 0 k m + c.2.toNat * 256 ^ (c.1 % w)) m) []

/-- Cells in `n` bytes from `lo` on, with offsets from there. -/
def cellsIn (m : List Host.Cell) (lo n : Nat) : List Host.Cell :=
  (m.filter (fun c => decide (lo ≤ c.1) && decide (c.1 < lo + n))).map (fun c => (c.1 - lo, c.2))

/-- The memory whose `n` bytes from `lo` on are the cells, and zero elsewhere. -/
def putCells (m : List Host.Cell) (lo n : Nat) (l : List Host.Cell) : List Host.Cell :=
  (l.filter (fun c => decide (c.1 < n))).foldl (fun m c => memSet m (lo + c.1) c.2)
    (m.filter (fun c => !(decide (lo ≤ c.1) && decide (c.1 < lo + n))))

/-- A value as a number, and back: 0 for zero. -/
def fvalCode : FVal → Nat
  | .nan => 1
  | .inf neg => 2 + b2n neg
  | .fin neg m e => if m = 0 ∧ neg = false ∧ e = 0 then 0 else 4 + b2n neg + (unsigned 32 e) <<< 32 + m <<< 64
def codeFval (n : Nat) : FVal :=
  match bits n 31 0 with
  | 0 => fzero
  | 1 => .nan
  | 2 => .inf false
  | 3 => .inf true
  | k => .fin (k == 5) (n >>> 64) (signed 32 (n >>> 32))

/-- A ladder as numbers under 8192 · tile: NLEV, BASE, whether a carry was reported, levels and compensated rows. -/
def ladderWords (e : Nat × Ladder) : List (Nat × Nat) :=
  let k := 8192 * e.1
  [(k, e.2.nlev + 1), (k + 1, e.2.base), (k + 2, b2n e.2.top)] ++ e.2.occ.map (fun o => (k + 8 + o.1, o.2 + 1))
    ++ e.2.comp.map (fun o => (k + 4104 + o.1, o.2 + 1))
def wordsLadder (l : List (Nat × Nat)) : List (Nat × Ladder) :=
  ((l.filter (fun e => e.1 % 8192 == 0)).map (fun e => (e.1 / 8192, e.2))).map (fun t =>
    let g (lo hi : Nat) : List (Nat × Nat) := (l.filter (fun e => e.1 / 8192 == t.1 && decide (lo ≤ e.1 % 8192)
      && decide (e.1 % 8192 < hi))).map (fun e => (e.1 % 8192 - lo, e.2 - 1))
    (t.1, ⟨t.2 - 1, sget 0 (8192 * t.1 + 1) l, g 8 4104, g 4104 8192, sget 0 (8192 * t.1 + 2) l == 1⟩))

/-- Offsets of the registers that a base holds (R644). -/
def inBase (a : Nat) : Bool :=
  let within (lo hi : Nat) : Bool := decide (lo ≤ a) && decide (a < hi)
  within (A.EPH_ENT 0) (A.EPH_SLOT 16384) || a == A.EPH_TAG || within (A.RIL_CCTL 0) (A.RIL_CCTL 4096)
    || [0, 1].any (fun h => (within (A.AQD_CHCTL h 0) (A.AQD_CHCTL h 32) && decide (a % 0x20 ≥ 0x10)) || a == A.WEI_SPA h
        || a == A.WEI_SPB h || a == A.SEQ_STEP h || a == A.SEQ_T0 h)
    || within (A.WEI_BUILD 0) (A.WEI_BUILD 2048) || a == A.SID_STEP || a == A.SID_TIME

/-- A plane: its keys, its width, and the map it holds. -/
structure Plane where
  n : Nat
  w : Nat
  map : List (Nat × Nat)
  deriving DecidableEq, Repr

def Plane.bytes (p : Plane) : Nat := p.n * p.w

/-- The planes of the base before the reservoirs, in order: registers (each exclusive-or its reset value), the jets'
registers, tables, row states and their kinds, the tiles' states, elements and ladders, the stationary buffers, and the TAG of the next remote request, which the log
names. -/
def basePlanes (d : Dev) : List Plane :=
  let c := d.cas
  [⟨0x400000, 8, (d.regs.filter (fun e => inBase e.1)).map (fun e => (e.1 / 8, (e.2 ^^^ regReset e.1).toNat))⟩,
   ⟨0x400000, 1, d.jet.bytes.map (fun e => (e.1, e.2.toNat))⟩,
   ⟨32 * 0x4100, 1, d.jet.tables.flatMap (fun t =>
      (0x4100 * t.1, 1) :: (t.2.zipIdx.map (fun b => (0x4100 * t.1 + 64 + b.2, b.1.toNat))))⟩,
   ⟨16384, 8, d.jet.rows⟩, ⟨512, 1, d.jet.kinds⟩,
   ⟨512, 1, c.tstate⟩, ⟨0x800000, 8, c.elems⟩, ⟨0x400000, 8, c.ladders.flatMap ladderWords⟩,
   ⟨256, 8, c.sb.map (fun e => (e.1, 1 + e.2.fmt <<< 8 + e.2.klen <<< 16 + e.2.nlen <<< 32))⟩,
   ⟨0x400000, 16, c.sbElems.map (fun e => (e.1, fvalCode e.2))⟩, ⟨1, 8, [(0, d.aqd.nextTag)]⟩]

/-- Bytes of the base without its regions, and of one region with its CRC. -/
def baseBytes : Nat := ((basePlanes Dev.reset).map Plane.bytes).foldl (· + ·) 0 + 16 * resBytes
def regionBytes (r : CapRegion) : Nat := r.len + 32

/-- The base is written: the pools are written back, then come the planes, the reservoirs and the regions, each region
followed by its CRC-32C. The result says how long it is, or that it does not fit. -/
def baseWrite (d : Dev) (c : CapDesc) : Dev × Option Nat :=
  let d := poolBack (poolBack d 0) 1
  let total := baseBytes + (c.regions.map regionBytes).foldl (· + ·) 0
  if c.len < total then (d, none)
  else
    let step (s : List Host.Cell × Nat) (n : Nat) (l : List Host.Cell) : List Host.Cell × Nat := (putCells s.1 s.2 n l, s.2 + n)
    let s := (basePlanes d).foldl (fun s p => step s p.bytes (planeCells p.w p.map)) (d.mem, c.base)
    let s := (List.range 16).foldl (fun s T => step s resBytes (cellsIn d.mem (resBase T) resBytes)) s
    let s := c.regions.foldl (fun s r =>
      let s := step s r.len (cellsIn d.mem r.base r.len)
      step s 32 (planeCells 4 [(0, crc32c (memRead d.mem r.base r.len))])) s
    ((d.withMem s.1), some total)

/-- The base is written into the buffer, and the STEPB takes effect (R644). -/
def captureBaseDone (d : Dev) : Dev :=
  if !d.seq.stepbHeld then d
  else if d.seq.reclaimSeen || d.seq.holdSeen then bundleIssue d .main []
  else
    let c := capDesc d
    let free (d : Dev) : Dev := setSeq d (fun q => { q with stepbHeld := false })
    match baseWrite (settle d) c with
    | (d, none) => bundleIssue (capEnd (free d) 1) .main []
    | (d, some n) =>
      let d := free (d.withTst { d.tst with cap := ⟨c.base, c.len, n, n, 0, []⟩ })
      bundleIssue (fset d A.TST_CAPSTS F.TST_CAPSTS_USED (n / 2 ^ 20)) .main []

/-- What the planes of a base restore. -/
def planesTake (d : Dev) (ms : List (List (Nat × Nat))) : Dev :=
  let g (i : Nat) : List (Nat × Nat) := ms.getD i []
  let d : Dev := d.withRegs (d.regs.filter (fun e => !inBase e.1))
  let d := (g 0).foldl (fun d e => regSet d (8 * e.1) (regReset (8 * e.1) ^^^ BitVec.ofNat 64 e.2)) d
  let d := latchRange (latchRange d (A.RIL_CCTL 0) (A.RIL_CCTL 4096)) (A.WEI_BUILD 0) (A.WEI_BUILD 2047)
  let table (k : Nat) : Nat × List Byte :=
    let bs := (g 2).filter (fun e => e.1 / 0x4100 == k && decide (64 ≤ e.1 % 0x4100))
    (k, (List.range 16448).map (fun i => BitVec.ofNat 8 (sget 0 (0x4100 * k + 64 + i) bs)))
  let tables := ((g 2).filter (fun e => e.1 % 0x4100 == 0)).map (fun e => table (e.1 / 0x4100))
  let sb := (g 8).map (fun e => (e.1, ({ loadAt := 0, loadEnd := 0, readEnd := 0, fmt := bits e.2 15 8, klen := bits e.2 31 16,
                                         nlen := bits e.2 47 32 } : SbMeta)))
  let started := ((g 0).filter (fun e => decide (A.RIL_CNTC 0 ≤ 8 * e.1) && decide (8 * e.1 < A.RIL_CNTC 4096)
    && decide ((8 * e.1 - A.RIL_CNTC 0) % 0x40 = 0))).map (fun e => let n := (8 * e.1 - A.RIL_CNTC 0) / 0x40; (n, rilDone d n))
  let bytes := (g 1).map (fun e => (e.1, BitVec.ofNat 8 e.2))
  let els := (g 9).map (fun e => (e.1, codeFval e.2))
  (d.withJet { Jet.init with bytes := bytes, tables := tables, rows := g 3, kinds := g 4 }
    |>.withCas { Cas.init with tstate := g 5, elems := g 6, ladders := wordsLadder (g 7), sb := sb, sbElems := els }
    |>.withRil { Ril.init with started := started.filter (fun e => decide (e.2 ≠ 0)), opens := d.ril.opens }
    |>.withEph Eph.init
    |>.withAqd { d.aqd with nextTag := sget 0 0 (g 10) })

/-- The base is restored: planes, reservoirs, regions. The result says whether every region lies in the stack range and
its CRC matches (R647). -/
def baseRead (d : Dev) (c : CapDesc) : Dev × Bool :=
  let ps := basePlanes d
  let m := d.mem
  let r := ps.foldl (fun (s : List (List (Nat × Nat)) × Nat) p =>
    (s.1 ++ [planeMap p.w (cellsIn m s.2 p.bytes)], s.2 + p.bytes)) ([], c.base)
  let d := planesTake d r.1
  let res := (List.range 16).foldl (fun (s : List Host.Cell × Nat) T =>
    (putCells s.1 (resBase T) resBytes (cellsIn m s.2 resBytes), s.2 + resBytes)) (m, r.2)
  let reg := c.regions.foldl (fun (s : List Host.Cell × Nat × Bool) x =>
    let crc := crc32c (memRead m s.2.1 x.len)
    (putCells s.1 x.base x.len (cellsIn m s.2.1 x.len), s.2.1 + regionBytes x,
      s.2.2 && inStacks d x.base x.len && decide (memNat m (s.2.1 + x.len) 4 = crc))) (res.1, res.2, true)
  (((d.withMem reg.1).withMs { d.ms with pools := [], under := [] }), reg.2.2)

/-- TST_RPL.GO written 1 in replay mode (R647). DIVERGE counts from here on. -/
def replayGo (d : Dev) : Dev :=
  if !replayMode d || !(blocksActive d).isEmpty then d
  else
    let c := capDesc d
    let d := fset (fset d A.TST_RPL F.TST_RPL_STATE 1) A.TST_RPL F.TST_RPL_DIVERGE 0
    let (r, ok) := baseRead d c
    if !ok then tstRaise (fset d A.TST_RPL F.TST_RPL_STATE 3) 0x5F 0 0
    else
      let n := baseBytes + (c.regions.map regionBytes).foldl (· + ·) 0
      let r := fset (r.withTst { r.tst with cap := ⟨c.base, c.len, n, n, 0, []⟩ }) A.TST_RPL F.TST_RPL_STATE 2
      setMach (fset r A.SID_STS F.SID_STS_STATE 0) (fun m => { m with sidGood := 0 })

/-- The actions behind the bits of a register that are written 1, and the effects of the fields just stored. `w` holds
the data within the bits written, `mask` those bits. -/
def regActions (d : Dev) (a mask w : Nat) : Dev :=
  let hit (k : Nat) : Bool := w.testBit k
  let also (d : Dev) (k : Nat) (f : Dev → Dev) : Dev := if hit k then f d else d
  let p := (a - A.HRM_PCTL 0) / 0x20000
  if a = A.CNT_CTL 0 then also d 1 (fun d => cntClear d (some .A))
  else if a = A.CNT_CTL 1 then also d 1 (fun d => cntClear d (some .B))
  else if a = A.GCNT_CTL then also d 1 (fun d => cntClear d none)
  else if a = A.POL_CTL 0 then also (also d 0 (fun d => poolAsk d 0 1)) 1 (fun d => poolAsk d 0 2)
  else if a = A.POL_CTL 1 then also (also d 0 (fun d => poolAsk d 1 1)) 1 (fun d => poolAsk d 1 2)
  else if a = A.HRM_PCTL p ∧ p < 8 then
    let d := if mask.testBit 1 then (if hit 1 then linkOn d p else linkOff d p) else d
    also d 2 (fun d => retrain d p)
  else if a = A.SID_CTL then
    (if mask.testBit 0 && !d.roleLocked then fset (d.withRoleLocked true) A.SID_CTL F.SID_CTL_ROLE (b2n (hit 0)) else d)
  else if a = A.SID_SET then sidSet d w
  else if a = A.SID_RCLM then also (also d 62 reclaimClear) 61 reclaimOriginate
  else if a = A.SID_HOLDN then also (also d 62 holdClear) 61 holdOriginate
  else if a = A.SID_RBANK then also d 1 bankSwitch
  else if a = A.COL_PRX then
    also d 63 (fun d => permLaunch (setMach d (fun m => { m with perm := { m.perm with landed := 0 } })))
  else if a = A.GLB_SCRUB then also d 0 scrubGo
  else if a = A.PWR_HCTL then also (also (also d 0 holdRequest) 1 (fun d => wakeEvent d 1)) 2 coldEntry
  else if a = A.PWR_THR then thrApply (also d 32 throttleClear)
  else if a = A.TST_AUDCTL then also d 0 auditRun
  else if a = A.TST_PAIR then pairCheck d (bits w 63 62) (bits w 43 32) (bits w 31 0)
  else if a = A.TST_CAP then captureArm d (hit 63) (bits w 41 6)
  else if a = A.TST_RPL then also d 1 replayGo
  else d

/-- Bits that the plain store leaves to an action: EN of a block, LINK, TST_CAP, half B's SEQ_CTL.EN; and TST_RPL.MODE
unless every block with an enable is STOPPED (R89, R647, R655). -/
def actionBits (d : Dev) (a : Nat) : Nat :=
  if (A.HRM_PCTL 0 ≤ a ∧ a < A.HRM_PCTL 8 ∧ (a - A.HRM_PCTL 0) % 0x20000 = 0) then 3
  else if (blkAt a).isSome ∨ a = A.SEQ_CTL 1 then 1
  else if a = A.TST_CAP then 2 ^ 64 - 1
  else if a = A.TST_RPL ∧ (blocksActive d).isEmpty = false then 1
  else 0

/-- A register write of the bits in `mask`: stored, then the actions, then EN (R7, R9, R26). -/
def regWrite (d : Dev) (a0 mask data : Nat) : Dev :=
  let a := sharedReg a0
  if (regRow a).isNone then d
  else
    let w := data &&& mask
    let skip := actionBits d a
    let d := regActions (storeBits d a (mask ^^^ (mask &&& skip)) w) a mask w
    match blkAt a with
    | some b => if mask.testBit 0 then (if w.testBit 0 then enableBlock d b else disableBlock d b) else d
    | none => d

/-- An access of `n` bytes at offset `off` is one that R5 allows. -/
def sizeOk (off n : Nat) : Bool := (n == 8 && off % 8 == 0) || (n == 4 && off % 4 == 0)

/-- A write of bytes at a register offset: 8 bytes, or the 4 of one half. -/
def regWriteBytes (d : Dev) (off : Nat) (bs : List Byte) : Dev :=
  let s := 8 * (off % 8)
  regWrite d (off / 8 * 8) ((2 ^ (8 * bs.length) - 1) <<< s) (leNat bs <<< s)

/-- A read of bytes at a register offset. -/
def regReadBytes (d : Dev) (off n : Nat) : List Byte := leBytes n ((regRead d (off / 8 * 8)).toNat >>> (8 * (off % 8)))

/-! ### The host's accesses (R6, R549, R550, R634) -/

def complete (d : Dev) (c : Completion) : Dev := d.withHst { d.hst with cpl := c }

/-- BAR0 offsets that are served before bring-up ends: GLB_ID, GLB_FATAL and the TST block (R634). -/
def servedEarly (off : Nat) : Bool :=
  decide (off < 8) || (decide (0x40 ≤ off) && decide (off < 0x80)) || (decide (0x400000 ≤ off) && decide (off < 0x500000))

/-- The host's memory requests reach the function: the link is up, and the package is not in Cold. -/
def hostReaches (d : Dev) : Bool := d.pwr.pcieUp && decide (pstate d ≠ 4)

/-- A host write to BAR0. -/
def hostWriteReg (d : Dev) (off : Nat) (bs : List Byte) : Dev :=
  if !hostReaches d then complete d .none
  else if !sizeOk off bs.length || decide (0x4000000 ≤ off) || !(d.tst.up || servedEarly off) then complete d .unsupportedRequest
  else complete (regWriteBytes d off bs) .success

/-- Bytes kept where a byte enable is off. -/
def enabledPieces (a : Nat) (bs : List Byte) (en : List Bool) : List (Nat × List Byte) :=
  (bs.zipIdx.filter (fun b => en.getD b.2 true)).map (fun b => (a + b.2, [b.1]))

/-- An access through BAR4 (R549). It is served in Run only, when the stacks are out of self-refresh. -/
def bar4Access (d : Dev) (off : Nat) (r : MemReq) (en : List Bool) (es : List Ecc) : Dev :=
  if !hostReaches d then complete d .none
  else if !d.tst.up then complete d .unsupportedRequest
  else
    let a := fget d A.GLB_DBGWIN F.GLB_DBGWIN_BASE * 2 ^ 28 + off
    match r with
    | .read n =>
      if d.pwr.asleep || !inStacks d a n then complete d .completerAbort
      else
        let (d, o) := memRequest d a (.read n) es
        complete (d.withMs { d.ms with resp := o }) .success
    | .write bs =>
      if d.pwr.asleep || !inStacks d a bs.length then complete d .none
      else if en.all (fun b => b) then complete (memRequest d a (.write bs) es).1 .success
      else complete ((enabledPieces a bs en).foldl (fun d p => (memRequest d p.1 (.write p.2) es).1) d) .success

/-! ### The local map (R375, R376) -/

/-- An access by local offset: a register access, or one to memory. The result is the bytes read, nothing for a write,
and none for an error response. -/
def localAccess (d : Dev) (a : Nat) (r : MemReq) (es : List Ecc) : Dev × Option (List Byte) :=
  if inRegs a then
    let off := a - 0x3FE00000000
    match r with
    | .read n => if sizeOk off n then (d, some (regReadBytes d off n)) else (d, none)
    | .write bs => if sizeOk off bs.length then (regWriteBytes d off bs, some []) else (d, none)
  else memRequest d a r es

/-- A queued client's request: what it answers is kept, and an unmapped read returns zeros (R375). -/
def memoryAccess (d : Dev) (a : Nat) (r : MemReq) (es : List Ecc) : Dev :=
  let (d, o) := localAccess (settle d) a r es
  (d.withMs { d.ms with resp := o })

/-! ### Remote requests (R501 to R504) -/

/-- The response to a request, with the bytes read; it copies TAG, OPORT and OEPOCH (R503). -/
def respond (d : Dev) (m : Msg) (status : Nat) (bs : List Byte) : Dev :=
  sendSynthetic d { synthetic d (m.mtype == 5) m.schip m.w2 status 0 0 with w2 := 0, data := bs }

/-- A request from a chip outside the membership (R502, R541). -/
def remoteReject (d : Dev) (m : Msg) : Dev :=
  let d := respond (countPkg d 0xC06 0 1 true) m 1 []
  let k := d.now / ms 1 + 1
  if d.mach.rejectMs = k then d else machRaise (setMach d (fun x => { x with rejectMs := k })) 0xFF 0 0 m.schip

/-- A request is performed (R501). -/
def remoteServe (d : Dev) (m : Msg) (es : List Ecc) : Dev :=
  let a := bits m.w1 41 0
  let n := bits m.w1 53 42 + 1
  let d := settle (countPkg d 0xC05 0 1 true)
  if m.mtype = 4 then
    match localAccess d a (.read n) es with
    | (d, some bs) => respond d m 0 bs
    | (d, none) => respond d m 1 []
  else
    let bs := (m.data ++ List.replicate n 0).take n
    if bit m.w2 48 then
      let (d, ok) := poolAtomic d a (bits m.w2 52 49) bs m.gp (curStep d)
      respond d m (if ok then 0 else 1) []
    else
      match localAccess d a (.write bs) es with
      | (d, some _) => respond d m 0 []
      | (d, none) => respond d m 1 []

/-- RDREQ and WRREQ. A scrub serves no remote request until it is done (R572). -/
def remoteRequest (d : Dev) (p : Nat) (m : Msg) (es : List Ecc) : Dev :=
  if scrubbing d then d
  else arrival d p m (fun d => if isMember d m.schip then remoteServe d m es else remoteReject d m)

/-- RDRSP and WRACK (R483). A WRACK without a TAG is that of a PWRITE. -/
def remoteResponse (d : Dev) (p : Nat) (m : Msg) : Dev :=
  arrival d p m (fun d =>
    let tag := bits m.w1 15 0
    let ok := decide (bits m.w1 51 48 = 0)
    if tag = 0 ∧ m.mtype = 7 then permAck d ok
    else match reqOf d tag (bits m.w1 18 16) (bits m.w1 47 32) with
    | none => staleNote d (bits m.w1 18 16)
    | some r => aqdAnswer (settle d) r ok m.data)

/-! ### The meanings of the commands -/

/-- REGISTER_WRITE (R7): bytes written at a BAR0 offset, by the host, or by the package through the register range. -/
def execRegisterWrite (t : Nat) (host : Bool) (off : Nat) (data : List Byte) (s : State) :
    Host.Outcome State Fault Refusal :=
  act (fun d =>
    let d := observe d t
    if host then hostWriteReg d off data else memoryAccess d (0x3FE00000000 + off % 0x4000000) (.write data) []) s

/-- MEMORY_ACCESS (R375): a queued client's read or write of a local offset, with the soft errors it meets. -/
def execMemoryAccess (t : Nat) (addr : BitVec 42) (req : MemReq) (ecc : List Ecc) (s : State) :
    Host.Outcome State Fault Refusal :=
  act (fun d => memoryAccess (observe d t) addr.toNat req ecc) s

/-- BAR4_ACCESS (R549). `en` holds the byte enables of a write; one that it leaves out is on. -/
def execBar4Access (t : Nat) (off : BitVec 28) (req : MemReq) (en : List Bool) (ecc : List Ecc) (s : State) :
    Host.Outcome State Fault Refusal :=
  act (fun d => bar4Access (settle (observe d t)) off.toNat req en ecc) s

/-- RDREQ (R501). -/
def execRdreq (t : Nat) (port : BitVec 3) (m : Msg) (ecc : List Ecc) (s : State) : Host.Outcome State Fault Refusal :=
  act (fun d => remoteRequest (observe d t) port.toNat { m with mtype := 4 } ecc) s

/-- WRREQ (R501). -/
def execWrreq (t : Nat) (port : BitVec 3) (m : Msg) (ecc : List Ecc) (s : State) : Host.Outcome State Fault Refusal :=
  act (fun d => remoteRequest (observe d t) port.toNat { m with mtype := 5 } ecc) s

/-- RDRSP (R483). -/
def execRdrsp (t : Nat) (port : BitVec 3) (m : Msg) (s : State) : Host.Outcome State Fault Refusal :=
  act (fun d => remoteResponse (observe d t) port.toNat { m with mtype := 6 }) s

/-- WRACK (R483). -/
def execWrack (t : Nat) (port : BitVec 3) (m : Msg) (s : State) : Host.Outcome State Fault Refusal :=
  act (fun d => remoteResponse (observe d t) port.toNat { m with mtype := 7 }) s

/-- SEND_DONE (R240): a SEND of this TX context has read the last byte of its source. -/
def execSendDone (t : Nat) (ctx : BitVec 12) (s : State) : Host.Outcome State Fault Refusal :=
  act (fun d => sendDone (observe d t) ctx.toNat) s

/-- SLAB_ARRIVAL (R249). -/
def execSlabArrival (t : Nat) (port : BitVec 3) (m : Msg) (s : State) : Host.Outcome State Fault Refusal :=
  act (fun d => slabArrive (observe d t) port.toNat { m with mtype := 0 }) s

/-- CRED_ARRIVAL (R243, R249). -/
def execCredArrival (t : Nat) (port : BitVec 3) (m : Msg) (s : State) : Host.Outcome State Fault Refusal :=
  act (fun d => credArrive (observe d t) port.toNat { m with mtype := 1 }) s

/-- OPEN_ARRIVAL (R247). -/
def execOpenArrival (t : Nat) (port : BitVec 3) (m : Msg) (s : State) : Host.Outcome State Fault Refusal :=
  act (fun d => openArrive (observe d t) port.toNat { m with mtype := 2 }) s

/-- RIL_STALL (R245): the head of a command port waits. -/
def execRilStall (t : Nat) (half : Half) (port : BitVec 1) (s : State) : Host.Outcome State Fault Refusal :=
  act (fun d => rilStall (observe d t) (2 * hn half + port.toNat)) s

end Sys2Proof.Machine
end

