-- ==== Sys2Proof/Machine/Test.lean ====
section
/-! DEFINITION. Step capture, replay and the test access port (R639 to R649). -/

namespace Sys2Proof.Machine

/-! ### Replay (R648, R649) -/

/-- The next log entry that is an input, from an entry on: its number and the entry. OUT entries are for comparison. -/
def nextInput (d : Dev) : Nat → Nat → Nat → Option (Nat × LogEntry)
  | 0, _, _ => none
  | fuel + 1, pos, num =>
    match logAt d pos num with
    | none => none
    | some e => if e.kind = 0x20 then nextInput d fuel e.next (num + 1) else some (num, e)

/-- The message of a log entry of kinds 0x01 to 0x08. -/
def entryMsg (e : LogEntry) : Msg := { msgOf e.data 1 with mtype := e.kind - 1 }

/-- The outstanding request with a TAG. In a replay the link epochs of the original run mean nothing. -/
def replayReq (d : Dev) (m : Msg) : Option Req := d.aqd.reqs.find? (fun r => r.tag == bits m.w1 15 0)

/-- The AQD channel whose next transfer reads host memory through a data ring, and can start a burst: half, channel. -/
def hostWaits (d : Dev) (ring : Nat) : Option (Nat × Nat) :=
  ((List.range 64).map (fun k => (k / 32, k % 32))).find? (fun k =>
    burstReady d k.1 k.2 && readsHost d k.1 k.2 == some ring && decide (burstsFlying d k.1 none < 16))

/-- The condition on which a log entry is delivered (R648). -/
def deliverable (d : Dev) (e : LogEntry) : Bool :=
  let m := entryMsg e
  match e.kind with
  | 1 => let n := bits m.w1 11 0; decide (sub32 (rilProd d n) (rilFreed d n) ≠ rilSlots d n)
  | 7 => (replayReq d m).isSome
  | 8 => (replayReq d m).isSome || (bits m.w1 15 0 == 0 && d.mach.perm.run)
  | 9 => ringFetches d e.src true && slotFree d e.src
  | 0xA => (hostWaits d e.src).isSome
  | 0xC =>
    let w := leAt e.data 0 8
    if bit w 36 then d.mach.perm.ended.isSome else d.mach.tree.own.map Prod.fst == some (bits w 31 0)
  | _ => true

/-- A COLL message by its CK (R528). -/
def collTake (d : Dev) (p : Nat) (m : Msg) : Dev :=
  arrival d p m (fun d =>
    match bits m.w1 3 0 with
    | 0 => collData d m true
    | 1 => collData d m false
    | 2 => collReady d m
    | 3 => collAck d m
    | _ => pwrite d p m)

/-- A logged message is delivered where it arrived. It comes by no link: it stands among the chip's own messages. -/
def replayMsg (d : Dev) (p : Nat) (m : Msg) : Dev :=
  let put (d : Dev) : Dev := modPort d 8 (fun x => { x with inbox := x.inbox ++ [m] })
  match m.mtype with
  | 0 => slabArrive (put d) p m
  | 1 => credArrive (put d) p m
  | 2 => openArrive (put d) p m
  | 3 => collTake (put d) p m
  | 4 | 5 => remoteRequest (put d) p m []
  | _ =>
    let ok := decide (bits m.w1 51 48 = 0)
    match replayReq d m with
    | some r => aqdAnswer (settle d) r ok m.data
    | none => permAck d ok

/-- The replay has ended. -/
def replayEnd (d : Dev) : Dev := fset d A.TST_RPL F.TST_RPL_STATE 3

/-- A log entry is delivered to the place where it originally arrived. The logged verdict of the step ends the replay. -/
def deliverEntry (d : Dev) (e : LogEntry) : Dev :=
  let w := leAt e.data 0 8
  match e.kind with
  | 0x9 => cmdDeliver d e.src e.data
  | 0xA =>
    match hostWaits d e.src with
    | some (h, c) => burstOf d h (fget d (A.AQD_CHCTL h c) F.AQD_CHCTL_PRI) c (some e.data)
    | none => d
  | 0xB =>
    if bits w 33 32 = 1 then setMach d (fun m => { m with poisonStep := some (bits w 31 0) }) else raiseAbort d (bits w 31 0)
  | 0xC =>
    let d := applyVerdict d (bits w 31 0) (bits w 33 32) (bit w 36)
    if bit w 36 then d else replayEnd d
  | 0xD => if e.key = 0 then adoptReclaim d e.src w (leAt e.data 8 8) else adoptHold d e.src w
  | _ => replayMsg d e.src (entryMsg e)

/-- The replay engine delivers the next entry, or waits for its condition; the log's end ends the replay. -/
def replayDeliver (d : Dev) : Dev :=
  if !replaying d then d
  else match nextInput d (logBound d) d.tst.cap.pos d.tst.cap.num with
    | none => replayEnd d
    | some (num, e) =>
      if deliverable d e then
        deliverEntry (d.withTst { d.tst with cap := { d.tst.cap with pos := e.next, num := num + 1 } }) e
      else d

/-! ### The test access port (R639 to R642) -/

/-- The device identification register (R640). -/
def idcodeWord : Nat := 0x1 <<< 28 + 0x2640 <<< 12 + (Config.jedecId % 2 ^ 11) <<< 1 + 1

/-- An instruction is in force, with what its data register captures. -/
def tapSelect (d : Dev) (ir dr : Nat) : Dev := d.withTst { d.tst with tap := ir, dr := dr }

/-- BYPASS, and every instruction that acts as it. -/
def tapBypass (d : Dev) : Dev := tapSelect d 0xFF 0

/-- The boundary-scan register is selected and captures the pins. -/
def tapBoundary (d : Dev) (ir : Nat) : Dev :=
  let d := tapSelect d ir (Config.boundary d.fresh)
  (d.withFresh (d.fresh + 1))

/-- INTRUSIVE is set, and posted (R642). -/
def intrusive (d : Dev) : Dev := tstRaise (fset d A.TST_STS F.TST_STS_INTRUSIVE 1) 0x5C 0 0

/-- A diagnostic instruction: BYPASS unless STRAP_DIAG was high (R642). -/
def tapDiag (d : Dev) (f : Dev → Dev) : Dev := if fget d A.TST_STS F.TST_STS_DIAG = 1 then f d else tapBypass d

/-- IJTAG with the SIBs that are open and whether an instrument that runs is marked intrusive (R641, R642). -/
def tapIjtag (d : Dev) (sibs : Nat) (intr : Bool) : Dev :=
  let d := tapSelect (d.withTst { d.tst with sib := sibs }) 0x10 0
  if intr then intrusive d else d

/-! ### The meanings of the commands -/

/-- CAPTURE_ARM (R643, R646): TST_CAP is written with ARM and bits 41:6 of DESC. -/
def execCaptureArm (t : Nat) (arm : Bool) (desc : BitVec 36) (s : State) : Host.Outcome State Fault Refusal :=
  act (fun d => captureArm (observe d t) arm desc.toNat) s

/-- CAPTURE_BASE_DONE (R644). -/
def execCaptureBaseDone (t : Nat) (s : State) : Host.Outcome State Fault Refusal :=
  act (fun d => captureBaseDone (observe d t)) s

/-- REPLAY_GO (R647). -/
def execReplayGo (t : Nat) (s : State) : Host.Outcome State Fault Refusal := act (fun d => replayGo (observe d t)) s

/-- REPLAY_DELIVER (R648). -/
def execReplayDeliver (t : Nat) (s : State) : Host.Outcome State Fault Refusal :=
  act (fun d => replayDeliver (observe d t)) s

/-- EXTEST (R639). -/
def execExtest (t : Nat) (s : State) : Host.Outcome State Fault Refusal :=
  act (fun d => tapDiag (tick d t) (fun d => intrusive (tapBoundary d 0x00))) s

/-- SAMPLE/PRELOAD (R639). -/
def execSamplePreload (s : State) : Host.Outcome State Fault Refusal := act (fun d => tapBoundary d 0x01) s

/-- IDCODE (R639, R640). -/
def execIdcode (s : State) : Host.Outcome State Fault Refusal := act (fun d => tapSelect d 0x02 idcodeWord) s

/-- CLAMP (R639). -/
def execClamp (t : Nat) (s : State) : Host.Outcome State Fault Refusal :=
  act (fun d => tapDiag (tick d t) (fun d => intrusive (tapSelect d 0x03 0))) s

/-- HIGHZ (R639). -/
def execHighz (t : Nat) (s : State) : Host.Outcome State Fault Refusal :=
  act (fun d => tapDiag (tick d t) (fun d => intrusive (tapSelect d 0x04 0))) s

/-- EXTEST_PULSE (R639). -/
def execExtestPulse (t : Nat) (s : State) : Host.Outcome State Fault Refusal :=
  act (fun d => tapDiag (tick d t) (fun d => intrusive (tapBoundary d 0x05))) s

/-- EXTEST_TRAIN (R639). -/
def execExtestTrain (t : Nat) (s : State) : Host.Outcome State Fault Refusal :=
  act (fun d => tapDiag (tick d t) (fun d => intrusive (tapBoundary d 0x06))) s

/-- IJTAG (R641). -/
def execIjtag (t : Nat) (sibs : BitVec 13) (intr : Bool) (s : State) : Host.Outcome State Fault Refusal :=
  act (fun d => tapDiag (tick d t) (fun d => tapIjtag d sibs.toNat intr)) s

/-- BYPASS (R639). -/
def execBypass (s : State) : Host.Outcome State Fault Refusal := act tapBypass s

end Sys2Proof.Machine
end

