-- ==== Sys2Proof/Machine/Mgmt.lean ====
section
/-! DEFINITION. The controller as an MCTP endpoint, firmware update and state changes (R582 to R586, R597, R605, R608,
R610, R615, R660). -/

namespace Sys2Proof.Machine

/-! ### MCTP packets (R582, R583, R586) -/

/-- CRC-8 of an SMBus transaction, polynomial x⁸ + x² + x + 1. -/
def crc8Step (c : Nat) : Nat := if c.testBit 7 then ((c <<< 1) ^^^ 0x107) % 256 else (c <<< 1) % 256
def crc8 (bs : List Byte) : Nat :=
  bs.foldl (fun c b => (List.range 8).foldl (fun c _ => crc8Step c) (c ^^^ b.toNat)) 0

/-- An MCTP packet that the controller accepts, with the physical address of its source. A Set Endpoint ID request that
sets or forces one assigns the endpoint ID. -/
def mctpTake (d : Dev) (phys : Nat) (pkt : List Byte) : Dev :=
  let b (i : Nat) : Nat := (pkt.getD i 0).toNat
  let sets := decide (8 < pkt.length) && b 4 % 128 == 0 && bit (b 5) 7 && b 6 == 1 && decide (b 7 % 4 < 2)
    && decide (b 8 ≠ 0) && decide (b 8 ≠ 255)
  let g := d.mgt
  (d.withMgt { g with packets := (phys, pkt) :: g.packets, eid := if sets then b 8 else g.eid })

/-- The packet holds the start of a PLDM request. -/
def pldmRequest (pkt : List Byte) : Bool :=
  let b (i : Nat) : Nat := (pkt.getD i 0).toNat
  bit (b 3) 7 && b 4 % 128 == 1 && bit (b 5) 7

/-- An SMBus write with its PEC: to the controller's address, command 0x0F, the count, the source's address and the
packet. -/
def smbusWrite (d : Dev) (addr : Nat) (bs : List Byte) : Dev :=
  let n := (bs.getD 1 0).toNat
  let mine := decide (addr = 0x4C + d.pwr.smb)
  let pec := decide (crc8 ((BitVec.ofNat 8 (2 * addr) : Byte) :: bs) = 0)
  if !d.pwr.vaux || !mine || !pec || (bs.headD 0) != 0x0F || decide (bs.length ≠ n + 3) || decide (n < 5) then d
  else mctpTake d ((bs.getD 2 0).toNat / 2) ((bs.drop 3).take (n - 1))

/-- A MGMT message (R460, R586). A PLDM request that it brings is a wake event of a peer (R605). -/
def mgmtTake (d : Dev) (p : Nat) (m : Msg) : Dev :=
  let old := linkStale d p m
  let d := takeInbox d p m
  if old then staleNote d p
  else if bits m.w1 7 0 ≠ 1 ∨ m.data.length < 4 ∨ 1024 < m.data.length then
    (d.withMgt { d.mgt with discarded := d.mgt.discarded + 1 })
  else
    let d := mctpTake d m.schip m.data
    if pldmRequest m.data then wakeEvent d 3 else d

/-! ### Firmware update (R585, R609, R660) -/

/-- What the NV store holds once the writes that the guard holds back are made. -/
def nvLater (d : Dev) : Dev := d.withNv d.nvNext

/-- A firmware update: the image goes to the staging area, is checked there and copied to the slot that is not active,
which the directory then names. An update that is interrupted, or whose check fails, leaves the active slot alone. In
Cold, and while NV_WP_N is low, the transfer is refused. -/
def firmwareUpdate (d : Dev) (image : List Byte) (whole : Bool) : Dev :=
  let note (d : Dev) (bad : Bool) : Dev := d.withMgt { d.mgt with refused := bad }
  if !d.pwr.vaux then d
  else if d.pwr.wpLow || decide (pstate d = 4) || decide (0x100000 * 15 < image.length) then note d true
  else
    let d := nvWrite d stagingBase image
    if !whole then note d false
    else if slotReason (nvLater d) stagingBase ≠ 0 then note d true
    else
      let b := !dirActive (nvLater d)
      note (dirSet (nvWrite d (bootBase b) image) b) false

/-! ### State changes -/

/-- A PLDM state change of the board management controller. Run in Hold is a wake. -/
def pldmChange (d : Dev) (req : PldmReq) (i : BootIn) : Dev :=
  let note (d : Dev) (bad : Bool) : Dev := d.withMgt { d.mgt with refused := bad }
  if !d.pwr.vaux then d
  else match req with
  | .hold => note (holdRequest d) false
  | .wake => note (wakeEvent d 2) false
  | .cold => note (coldEntry d) (decide (pstate d ≠ 2))
  | .run =>
    if pstate d = 4 then (if d.pwr.pwrok then bringUpIf (note d false) i else note d true)
    else note (wakeEvent d 2) false
  | .clear => note (throttleClear d) false

/-! ### The meanings of the commands -/

/-- MGMT (R586). -/
def execMgmt (t : Nat) (port : BitVec 3) (m : Msg) (s : State) : Host.Outcome State Fault Refusal :=
  act (fun d => mgmtTake (observe d t) port.toNat { m with mtype := 8 }) s

/-- MCTP_PACKET (R583): the bytes of an SMBus write behind its address byte, the PEC among them. -/
def execMctpPacket (t : Nat) (addr : BitVec 7) (data : List Byte) (s : State) : Host.Outcome State Fault Refusal :=
  act (fun d => smbusWrite (tick d t) addr.toNat data) s

/-- PLDM_FIRMWARE_UPDATE (R585). -/
def execPldmFirmwareUpdate (t : Nat) (image : List Byte) (whole : Bool) (s : State) : Host.Outcome State Fault Refusal :=
  act (fun d => firmwareUpdate (tick d t) image whole) s

/-- PLDM_STATE_CHANGE (R596). `boot` is what bring-up finds, where one follows. -/
def execPldmStateChange (t : Nat) (req : PldmReq) (boot : BootIn) (s : State) : Host.Outcome State Fault Refusal :=
  act (fun d => pldmChange (observe d t) req boot) s

end Sys2Proof.Machine
end

