-- ==== Sys2Proof/Machine/Dispatch.lean ====
section
/-! DEFINITION. What each command does: one arm for each constructor of `Instr`, each one call of its meaning. -/

namespace Sys2Proof.Machine

def exec (i : Instr) (s : State) : Host.Outcome State Fault Refusal :=
  match i with
  | .registerWrite t host off data => Sys2Proof.Machine.execRegisterWrite t host off data s
  | .blockEnable t b => Sys2Proof.Machine.execBlockEnable t b s
  | .blockDisable t b => Sys2Proof.Machine.execBlockDisable t b s
  | .drainComplete t b => Sys2Proof.Machine.execDrainComplete t b s
  | .drainTimeout t b => Sys2Proof.Machine.execDrainTimeout t b s
  | .stateObservation t => Sys2Proof.Machine.execStateObservation t s
  | .seqStart t => Sys2Proof.Machine.execSeqStart t s
  | .seqStop t => Sys2Proof.Machine.execSeqStop t s
  | .bundleIssue t strand ecc => Sys2Proof.Machine.execBundleIssue t strand ecc s
  | .pageArrival t half page => Sys2Proof.Machine.execPageArrival t half page s
  | .loop t strand count len => Sys2Proof.Machine.execLoop t strand count len s
  | .br t strand target => Sys2Proof.Machine.execBr t strand target s
  | .brc t strand ix cmp imm target => Sys2Proof.Machine.execBrc t strand ix cmp imm target s
  | .call t strand target => Sys2Proof.Machine.execCall t strand target s
  | .ret t strand => Sys2Proof.Machine.execRet t strand s
  | .awaitr t strand half kind rill thresh => Sys2Proof.Machine.execAwaitr t strand half kind rill thresh s
  | .awaita t strand half chan limit => Sys2Proof.Machine.execAwaita t strand half chan limit s
  | .awaitq t strand ring => Sys2Proof.Machine.execAwaitq t strand ring s
  | .sida t strand half time => Sys2Proof.Machine.execSida t strand half time s
  | .sidr t strand half offset => Sys2Proof.Machine.execSidr t strand half offset s
  | .delay t strand half cycles => Sys2Proof.Machine.execDelay t strand half cycles s
  | .stepb t strand t0src => Sys2Proof.Machine.execStepb t strand t0src s
  | .verd t strand => Sys2Proof.Machine.execVerd t strand s
  | .fork t strand desc => Sys2Proof.Machine.execFork t strand desc s
  | .segmentStart t segB => Sys2Proof.Machine.execSegmentStart t segB s
  | .join t strand => Sys2Proof.Machine.execJoin t strand s
  | .pagePrefetch t strand page => Sys2Proof.Machine.execPagePrefetch t strand page s
  | .pagePin t strand page => Sys2Proof.Machine.execPagePin t strand page s
  | .pageUnpin t strand page => Sys2Proof.Machine.execPageUnpin t strand page s
  | .trap t strand half stop code => Sys2Proof.Machine.execTrap t strand half stop code s
  | .halt t strand code => Sys2Proof.Machine.execHalt t strand code s
  | .waitTimeout t strand => Sys2Proof.Machine.execWaitTimeout t strand s
  | .unwindResume t => Sys2Proof.Machine.execUnwindResume t s
  | .lds iss terr umask desc buf epv => Sys2Proof.Machine.execLds iss terr umask desc buf epv s
  | .mm iss terr umask desc rowsm1 buf bt acm cmp gp pdt => Sys2Proof.Machine.execMm iss terr umask desc rowsm1 buf bt acm cmp gp pdt s
  | .opa iss terr umask adesc bdesc rowsm1 bt acm cmp gp pdt => Sys2Proof.Machine.execOpa iss terr umask adesc bdesc rowsm1 bt acm cmp gp pdt s
  | .twf iss terr pmask gdesc xdesc rowsm1 buf ebt eacm obt oacm cmp => Sys2Proof.Machine.execTwf iss terr pmask gdesc xdesc rowsm1 buf ebt eacm obt oacm cmp s
  | .bctlOpen iss terr umask tmask => Sys2Proof.Machine.execBctlOpen iss terr umask tmask s
  | .bctlClose iss terr umask tmask => Sys2Proof.Machine.execBctlClose iss terr umask tmask s
  | .bctlLopen iss terr umask tmask => Sys2Proof.Machine.execBctlLopen iss terr umask tmask s
  | .bctlFinish iss terr umask tmask => Sys2Proof.Machine.execBctlFinish iss terr umask tmask s
  | .bin iss terr umask desc bt add => Sys2Proof.Machine.execBin iss terr umask desc bt add s
  | .bout iss terr umask desc bt rnd nfm gp => Sys2Proof.Machine.execBout iss terr umask desc bt rnd nfm gp s
  | .root iss terr umask desc nt pc nit gp => Sys2Proof.Machine.execRoot iss terr umask desc nt pc nit gp s
  | .rootComplete half terr => Sys2Proof.Machine.execRootComplete half terr s
  | .basinRowApply uid => Sys2Proof.Machine.execBasinRowApply uid s
  | .basinWindowWrite off data => Sys2Proof.Machine.execBasinWindowWrite off data s
  | .shadowCompare half => Sys2Proof.Machine.execShadowCompare half s
  | .jld iss terr vd desc rg w rnd nfm => Sys2Proof.Machine.execJld iss terr vd desc rg w rnd nfm s
  | .jst iss terr vs desc rg w rnd nfm gp => Sys2Proof.Machine.execJst iss terr vs desc rg w rnd nfm gp s
  | .alu iss terr vd va vb vc fn w gp => Sys2Proof.Machine.execAlu iss terr vd va vb vc fn w gp s
  | .cvt iss terr vd va ws wd rnd nfm gp => Sys2Proof.Machine.execCvt iss terr vd va ws wd rnd nfm gp s
  | .tab iss terr vd va tsel gp => Sys2Proof.Machine.execTab iss terr vd va tsel gp s
  | .der iss terr vd vx vg => Sys2Proof.Machine.execDer iss terr vd vx vg s
  | .red iss terr va vb bank rg rk init gp => Sys2Proof.Machine.execRed iss terr va vb bank rg rk init gp s
  | .rsr iss terr vd bank rg what => Sys2Proof.Machine.execRsr iss terr vd bank rg what s
  | .rsld iss terr bank rg desc rk mrg gp => Sys2Proof.Machine.execRsld iss terr bank rg desc rk mrg gp s
  | .rsst iss terr bank rg desc => Sys2Proof.Machine.execRsst iss terr bank rg desc s
  | .tld iss terr tgt desc => Sys2Proof.Machine.execTld iss terr tgt desc s
  | .tsum iss terr vd desc rg nb gp => Sys2Proof.Machine.execTsum iss terr vd desc rg nb gp s
  | .send iss port rill desc hsrc hm first last => Sys2Proof.Machine.execSend iss port rill desc hsrc hm first last s
  | .sendDone t ctx => Sys2Proof.Machine.execSendDone t ctx s
  | .commit iss port rill hsrc hm first last => Sys2Proof.Machine.execCommit iss port rill hsrc hm first last s
  | .release iss port rill cnt => Sys2Proof.Machine.execRelease iss port rill cnt s
  | .slabArrival t port m => Sys2Proof.Machine.execSlabArrival t port m s
  | .credArrival t port m => Sys2Proof.Machine.execCredArrival t port m s
  | .openArrival t port m => Sys2Proof.Machine.execOpenArrival t port m s
  | .rilStall t half port => Sys2Proof.Machine.execRilStall t half port s
  | .res iss desc => Sys2Proof.Machine.execRes iss desc s
  | .hold iss desc => Sys2Proof.Machine.execHold iss desc s
  | .drop iss desc => Sys2Proof.Machine.execDrop iss desc s
  | .lag iss arg => Sys2Proof.Machine.execLag iss arg s
  | .floor iss k => Sys2Proof.Machine.execFloor iss k s
  | .upd iss weir desc sel span0 => Sys2Proof.Machine.execUpd iss weir desc sel span0 s
  | .clrm iss weir desc sel span0 => Sys2Proof.Machine.execClrm iss weir desc sel span0 s
  | .weirCommandComplete half weir => Sys2Proof.Machine.execWeirCommandComplete half weir s
  | .weiNoslot t half weir => Sys2Proof.Machine.execWeiNoslot t half weir s
  | .rollbackComplete => Sys2Proof.Machine.execRollbackComplete s
  | .snap iss => Sys2Proof.Machine.execSnap iss s
  | .snapEmit => Sys2Proof.Machine.execSnapEmit s
  | .gnopen iss acc => Sys2Proof.Machine.execGnopen iss acc s
  | .gnwr iss acc => Sys2Proof.Machine.execGnwr iss acc s
  | .gnrec iss acc => Sys2Proof.Machine.execGnrec iss acc s
  | .sforce iss terr => Sys2Proof.Machine.execSforce iss terr s
  | .cntClear blk => Sys2Proof.Machine.execCntClear blk s
  | .memoryAccess t addr req ecc => Sys2Proof.Machine.execMemoryAccess t addr req ecc s
  | .poolAtomic t addr atop data gp => Sys2Proof.Machine.execPoolAtomic t addr atop data gp s
  | .polWb half => Sys2Proof.Machine.execPolWb half s
  | .polInv half => Sys2Proof.Machine.execPolInv half s
  | .writeBackComplete half => Sys2Proof.Machine.execWriteBackComplete half s
  | .patrolScrub t half found => Sys2Proof.Machine.execPatrolScrub t half found s
  | .rowRemap t half fits => Sys2Proof.Machine.execRowRemap t half fits s
  | .bridgeFlitReceive t dir lane good => Sys2Proof.Machine.execBridgeFlitReceive t dir lane good s
  | .bar4Access t off req en ecc => Sys2Proof.Machine.execBar4Access t off req en ecc s
  | .xfer iss port chan desc eps epd gp note => Sys2Proof.Machine.execXfer iss port chan desc eps epd gp note s
  | .burstStart t half hostData => Sys2Proof.Machine.execBurstStart t half hostData s
  | .transferComplete t half chan => Sys2Proof.Machine.execTransferComplete t half chan s
  | .linkOn t port => Sys2Proof.Machine.execLinkOn t port s
  | .linkOff t port => Sys2Proof.Machine.execLinkOff t port s
  | .retrain t port => Sys2Proof.Machine.execRetrain t port s
  | .resetReceive t port => Sys2Proof.Machine.execResetReceive t port s
  | .quietEnd t port => Sys2Proof.Machine.execQuietEnd t port s
  | .detectDone t port chip nonce epoch rw excl => Sys2Proof.Machine.execDetectDone t port chip nonce epoch rw excl s
  | .eqDone t port => Sys2Proof.Machine.execEqDone t port s
  | .testEnd t port lanes => Sys2Proof.Machine.execTestEnd t port lanes s
  | .decideDone t port pass width lgrp => Sys2Proof.Machine.execDecideDone t port pass width lgrp s
  | .lockDone t port => Sys2Proof.Machine.execLockDone t port s
  | .ident t port m => Sys2Proof.Machine.execIdent t port m s
  | .trainingTimeout t port => Sys2Proof.Machine.execTrainingTimeout t port s
  | .trainfailReset t port => Sys2Proof.Machine.execTrainfailReset t port s
  | .frameReceive t port symbols => Sys2Proof.Machine.execFrameReceive t port symbols s
  | .flitReceive t port flit => Sys2Proof.Machine.execFlitReceive t port flit s
  | .idleSend t port => Sys2Proof.Machine.execIdleSend t port s
  | .idleReceive t port content => Sys2Proof.Machine.execIdleReceive t port content s
  | .messageForward t port m => Sys2Proof.Machine.execMessageForward t port m s
  | .rdreq t port m ecc => Sys2Proof.Machine.execRdreq t port m ecc s
  | .wrreq t port m ecc => Sys2Proof.Machine.execWrreq t port m ecc s
  | .rdrsp t port m => Sys2Proof.Machine.execRdrsp t port m s
  | .wrack t port m => Sys2Proof.Machine.execWrack t port m s
  | .responseTimeout t => Sys2Proof.Machine.execResponseTimeout t s
  | .mgmt t port m => Sys2Proof.Machine.execMgmt t port m s
  | .sidSet value => Sys2Proof.Machine.execSidSet value s
  | .ppsPulse t high => Sys2Proof.Machine.execPpsPulse t high s
  | .referenceLoss t edge => Sys2Proof.Machine.execReferenceLoss t edge s
  | .measurementTimeout t => Sys2Proof.Machine.execMeasurementTimeout t s
  | .holdoverLimit t => Sys2Proof.Machine.execHoldoverLimit t s
  | .ppsOut t => Sys2Proof.Machine.execPpsOut t s
  | .reclaimOriginate fields => Sys2Proof.Machine.execReclaimOriginate fields s
  | .reclaimClear => Sys2Proof.Machine.execReclaimClear s
  | .holdNoticeOriginate => Sys2Proof.Machine.execHoldNoticeOriginate s
  | .holdNoticeClear => Sys2Proof.Machine.execHoldNoticeClear s
  | .drillClose t => Sys2Proof.Machine.execDrillClose t s
  | .permutationLaunch t => Sys2Proof.Machine.execPermutationLaunch t s
  | .permutationComplete t => Sys2Proof.Machine.execPermutationComplete t s
  | .permutationBudget t => Sys2Proof.Machine.execPermutationBudget t s
  | .bankSwitch => Sys2Proof.Machine.execBankSwitch s
  | .reportReceive t port step val perm => Sys2Proof.Machine.execReportReceive t port step val perm s
  | .verdictReceive t step val perm => Sys2Proof.Machine.execVerdictReceive t step val perm s
  | .childTimeout t port => Sys2Proof.Machine.execChildTimeout t port s
  | .collectiveLaunch t => Sys2Proof.Machine.execCollectiveLaunch t s
  | .collAdd port m => Sys2Proof.Machine.execCollAdd port m s
  | .collWrite port m => Sys2Proof.Machine.execCollWrite port m s
  | .collReady port m => Sys2Proof.Machine.execCollReady port m s
  | .collAck port m => Sys2Proof.Machine.execCollAck port m s
  | .pwrite port m => Sys2Proof.Machine.execPwrite port m s
  | .phaseLanded cid => Sys2Proof.Machine.execPhaseLanded cid s
  | .collectiveComplete cid => Sys2Proof.Machine.execCollectiveComplete cid s
  | .collectiveTimeout t cid => Sys2Proof.Machine.execCollectiveTimeout t cid s
  | .doorbell off data => Sys2Proof.Machine.execDoorbell off data s
  | .descriptorFetch t ring desc => Sys2Proof.Machine.execDescriptorFetch t ring desc s
  | .overflowRecordWrite => Sys2Proof.Machine.execOverflowRecordWrite s
  | .msixModeration t ring => Sys2Proof.Machine.execMsixModeration t ring s
  | .dataWaitTimeout t half chan => Sys2Proof.Machine.execDataWaitTimeout t half chan s
  | .flr t => Sys2Proof.Machine.execFlr t s
  | .scrubGo t => Sys2Proof.Machine.execScrubGo t s
  | .scrubComplete t => Sys2Proof.Machine.execScrubComplete t s
  | .mctpPacket t addr data => Sys2Proof.Machine.execMctpPacket t addr data s
  | .pldmFirmwareUpdate t image whole => Sys2Proof.Machine.execPldmFirmwareUpdate t image whole s
  | .pldmStateChange t req boot => Sys2Proof.Machine.execPldmStateChange t req boot s
  | .pkgPwrokRise t boot => Sys2Proof.Machine.execPkgPwrokRise t boot s
  | .pkgPwrokFall t => Sys2Proof.Machine.execPkgPwrokFall t s
  | .pkgRstNAssert t => Sys2Proof.Machine.execPkgRstNAssert t s
  | .pkgRstNRelease t boot => Sys2Proof.Machine.execPkgRstNRelease t boot s
  | .bringupComplete t => Sys2Proof.Machine.execBringupComplete t s
  | .perstN t => Sys2Proof.Machine.execPerstN t s
  | .trstN => Sys2Proof.Machine.execTrstN s
  | .vauxLoss t => Sys2Proof.Machine.execVauxLoss t s
  | .pwrRailwarn t rail mv => Sys2Proof.Machine.execPwrRailwarn t rail mv s
  | .pwrRailfault t rail mv absent => Sys2Proof.Machine.execPwrRailfault t rail mv absent s
  | .currentInterval t ia ib est => Sys2Proof.Machine.execCurrentInterval t ia ib est s
  | .throttleSample t asserted => Sys2Proof.Machine.execThrottleSample t asserted s
  | .throttleStuck t => Sys2Proof.Machine.execThrottleStuck t s
  | .throttleClear => Sys2Proof.Machine.execThrottleClear s
  | .thermalFloor t temp => Sys2Proof.Machine.execThermalFloor t temp s
  | .powerCapInterval t watts => Sys2Proof.Machine.execPowerCapInterval t watts s
  | .thermtrip t => Sys2Proof.Machine.execThermtrip t s
  | .clkLoss t => Sys2Proof.Machine.execClkLoss t s
  | .holdRequest t => Sys2Proof.Machine.execHoldRequest t s
  | .holdAnswer t code inst => Sys2Proof.Machine.execHoldAnswer t code inst s
  | .holdAnswerTimeout t code inst => Sys2Proof.Machine.execHoldAnswerTimeout t code inst s
  | .quiesceDone t => Sys2Proof.Machine.execQuiesceDone t s
  | .holdSaveDone t => Sys2Proof.Machine.execHoldSaveDone t s
  | .wake => Sys2Proof.Machine.execWake s
  | .wakeTimer t => Sys2Proof.Machine.execWakeTimer t s
  | .holdExitDone t => Sys2Proof.Machine.execHoldExitDone t s
  | .coldEntry t => Sys2Proof.Machine.execColdEntry t s
  | .pwrBrownout t => Sys2Proof.Machine.execPwrBrownout t s
  | .pwrNvguard t auxLow => Sys2Proof.Machine.execPwrNvguard t auxLow s
  | .nvGuardRelease t => Sys2Proof.Machine.execNvGuardRelease t s
  | .nvWpN t low => Sys2Proof.Machine.execNvWpN t low s
  | .auditCompare t => Sys2Proof.Machine.execAuditCompare t s
  | .auditRun => Sys2Proof.Machine.execAuditRun s
  | .pairCheck kind index value => Sys2Proof.Machine.execPairCheck kind index value s
  | .captureArm t arm desc => Sys2Proof.Machine.execCaptureArm t arm desc s
  | .captureBaseDone t => Sys2Proof.Machine.execCaptureBaseDone t s
  | .replayGo t => Sys2Proof.Machine.execReplayGo t s
  | .replayDeliver t => Sys2Proof.Machine.execReplayDeliver t s
  | .extest t => Sys2Proof.Machine.execExtest t s
  | .samplePreload => Sys2Proof.Machine.execSamplePreload s
  | .idcode => Sys2Proof.Machine.execIdcode s
  | .clamp t => Sys2Proof.Machine.execClamp t s
  | .highz t => Sys2Proof.Machine.execHighz t s
  | .extestPulse t => Sys2Proof.Machine.execExtestPulse t s
  | .extestTrain t => Sys2Proof.Machine.execExtestTrain t s
  | .ijtag t sibs intr => Sys2Proof.Machine.execIjtag t sibs intr s
  | .bypass => Sys2Proof.Machine.execBypass s
  | .flitSend t port => Sys2Proof.Machine.execFlitSend t port s
  | .dataDescriptorFetch t ring desc => Sys2Proof.Machine.execDataDescriptorFetch t ring desc s
  | .channelTrainingLoss stack ch => Sys2Proof.Machine.execChannelTrainingLoss stack ch s
  | .vauxRise t boot => Sys2Proof.Machine.execVauxRise t boot s
  | .railRecovery t rail => Sys2Proof.Machine.execRailRecovery t rail s
  | .perstNRelease => Sys2Proof.Machine.execPerstNRelease s
  | .refclkSerdesLoss t clock => Sys2Proof.Machine.execRefclkSerdesLoss t clock s
  | .refclkPcieLoss => Sys2Proof.Machine.execRefclkPcieLoss s

end Sys2Proof.Machine
end

