-- ==== Sys2Proof/WellFormed.lean ====
section
/-! DEFINITION. Well-formed commands: operands that the outside can form. A field that the spec encodes is a bit vector
and needs no check; numbers that stand for an index, a wire format or a length are checked here. -/

namespace Sys2Proof

/-- The block exists (R231, R418, R440, R553). -/
def Blk.wf : Blk → Bool
  | .ril n => decide (n < 4096)
  | .aqd _ c => decide (c < 32)
  | .hrm p => decide (p < 8)
  | .ring n => decide (n < 256)
  | _ => true

/-- The fields fit their places in the header, and the data their length (R455). -/
def Msg.wf (m : Msg) : Bool :=
  decide (m.dchip < 2 ^ 14) && decide (m.schip < 2 ^ 14) && decide (m.mtype < 16) && decide (m.lepoch < 2 ^ 16)
    && decide (m.ttl < 256) && decide (m.w1 < 2 ^ 64) && decide (m.w2 < 2 ^ 64) && decide (m.hi < 2 ^ 32)
    && decide (m.vc < 6) && decide (m.data.length < 2 ^ 32)

/-- A request touches at least one byte. -/
def MemReq.wf : MemReq → Bool
  | .read n => decide (0 < n)
  | .write bs => decide (0 < bs.length)

/-- Spares belong to banks that exist: channel · 32 + pseudo-channel + 2 · bank, 256 channels (R396). -/
def BootIn.wf (b : BootIn) : Bool := b.spares.all (fun e => decide (e.1 < 8192))

/-- The operands are such as an outside party can form. -/
def Instr.wf : Instr → Bool
  | .registerWrite _ _ _ data => decide (0 < data.length)
  | .blockEnable _ b => b.wf
  | .blockDisable _ b => b.wf
  | .drainComplete _ b => b.wf
  | .drainTimeout _ b => b.wf
  | .stateObservation _ => true
  | .seqStart _ => true
  | .seqStop _ => true
  | .bundleIssue _ _ _ => true
  | .pageArrival _ _ _ => true
  | .loop _ _ _ _ => true
  | .br _ _ _ => true
  | .brc _ _ _ _ _ _ => true
  | .call _ _ _ => true
  | .ret _ _ => true
  | .awaitr _ _ _ _ _ _ => true
  | .awaita _ _ _ _ _ => true
  | .awaitq _ _ _ => true
  | .sida _ _ _ _ => true
  | .sidr _ _ _ _ => true
  | .delay _ _ _ _ => true
  | .stepb _ _ _ => true
  | .verd _ _ => true
  | .fork _ _ _ => true
  | .segmentStart _ _ => true
  | .join _ _ => true
  | .pagePrefetch _ _ _ => true
  | .pagePin _ _ _ => true
  | .pageUnpin _ _ _ => true
  | .trap _ _ _ _ _ => true
  | .halt _ _ _ => true
  | .waitTimeout _ _ => true
  | .unwindResume _ => true
  | .lds _ _ _ _ _ _ => true
  | .mm _ _ _ _ _ _ _ _ _ _ _ => true
  | .opa _ _ _ _ _ _ _ _ _ _ _ => true
  | .twf _ _ _ _ _ _ _ _ _ _ _ _ => true
  | .bctlOpen _ _ _ _ => true
  | .bctlClose _ _ _ _ => true
  | .bctlLopen _ _ _ _ => true
  | .bctlFinish _ _ _ _ => true
  | .bin _ _ _ _ _ _ => true
  | .bout _ _ _ _ _ _ _ _ => true
  | .root _ _ _ _ _ _ _ _ => true
  | .rootComplete _ _ => true
  | .basinRowApply _ => true
  | .basinWindowWrite _ data => decide (0 < data.length)
  | .shadowCompare _ => true
  | .jld _ _ _ _ _ _ _ _ => true
  | .jst _ _ _ _ _ _ _ _ _ => true
  | .alu _ _ _ _ _ _ _ _ _ => true
  | .cvt _ _ _ _ _ _ _ _ _ => true
  | .tab _ _ _ _ _ _ => true
  | .der _ _ _ _ _ => true
  | .red _ _ _ _ _ _ _ _ _ => true
  | .rsr _ _ _ _ _ _ => true
  | .rsld _ _ _ _ _ _ _ _ => true
  | .rsst _ _ _ _ _ => true
  | .tld _ _ _ _ => true
  | .tsum _ _ _ _ _ _ _ => true
  | .send _ _ _ _ _ _ _ _ => true
  | .sendDone _ _ => true
  | .commit _ _ _ _ _ _ _ => true
  | .release _ _ _ _ => true
  | .slabArrival _ _ m => m.wf
  | .credArrival _ _ m => m.wf
  | .openArrival _ _ m => m.wf
  | .rilStall _ _ _ => true
  | .res _ _ => true
  | .hold _ _ => true
  | .drop _ _ => true
  | .lag _ _ => true
  | .floor _ _ => true
  | .upd _ _ _ _ _ => true
  | .clrm _ _ _ _ _ => true
  | .weirCommandComplete _ _ => true
  | .weiNoslot _ _ _ => true
  | .rollbackComplete => true
  | .snap _ => true
  | .snapEmit => true
  | .gnopen _ _ => true
  | .gnwr _ _ => true
  | .gnrec _ _ => true
  | .sforce _ _ => true
  | .cntClear _ => true
  | .memoryAccess _ _ req _ => req.wf
  | .poolAtomic _ _ _ data _ => decide (0 < data.length) && decide (data.length ≤ 128)
  | .polWb _ => true
  | .polInv _ => true
  | .writeBackComplete _ => true
  | .patrolScrub _ _ _ => true
  | .rowRemap _ _ _ => true
  | .bridgeFlitReceive _ _ _ _ => true
  | .bar4Access _ _ req _ _ => req.wf
  | .xfer _ _ _ _ _ _ _ _ => true
  | .burstStart _ _ _ => true
  | .transferComplete _ _ _ => true
  | .linkOn _ _ => true
  | .linkOff _ _ => true
  | .retrain _ _ => true
  | .resetReceive _ _ => true
  | .quietEnd _ _ => true
  | .detectDone _ _ _ _ _ _ _ => true
  | .eqDone _ _ => true
  | .testEnd _ _ lanes => decide (lanes.length ≤ 16)
  | .decideDone _ _ _ _ _ => true
  | .lockDone _ _ => true
  | .ident _ _ m => m.wf
  | .trainingTimeout _ _ => true
  | .trainfailReset _ _ => true
  | .frameReceive _ _ symbols => decide (symbols.length = 2176) && symbols.all (fun x => decide (x < 1024))
  | .flitReceive _ _ flit => decide (flit.length = 256)
  | .idleSend _ _ => true
  | .idleReceive _ _ content => decide (content.length = 244)
  | .messageForward _ _ m => m.wf
  | .rdreq _ _ m _ => m.wf
  | .wrreq _ _ m _ => m.wf
  | .rdrsp _ _ m => m.wf
  | .wrack _ _ m => m.wf
  | .responseTimeout _ => true
  | .mgmt _ _ m => m.wf
  | .sidSet _ => true
  | .ppsPulse _ _ => true
  | .referenceLoss _ _ => true
  | .measurementTimeout _ => true
  | .holdoverLimit _ => true
  | .ppsOut _ => true
  | .reclaimOriginate _ => true
  | .reclaimClear => true
  | .holdNoticeOriginate => true
  | .holdNoticeClear => true
  | .drillClose _ => true
  | .permutationLaunch _ => true
  | .permutationComplete _ => true
  | .permutationBudget _ => true
  | .bankSwitch => true
  | .reportReceive _ _ _ _ _ => true
  | .verdictReceive _ _ _ _ => true
  | .childTimeout _ _ => true
  | .collectiveLaunch _ => true
  | .collAdd _ m => m.wf
  | .collWrite _ m => m.wf
  | .collReady _ m => m.wf
  | .collAck _ m => m.wf
  | .pwrite _ m => m.wf
  | .phaseLanded _ => true
  | .collectiveComplete _ => true
  | .collectiveTimeout _ _ => true
  | .doorbell _ _ => true
  | .descriptorFetch _ _ desc => desc.all (fun b => decide (b.length = 64))
  | .overflowRecordWrite => true
  | .msixModeration _ _ => true
  | .dataWaitTimeout _ _ _ => true
  | .flr _ => true
  | .scrubGo _ => true
  | .scrubComplete _ => true
  | .mctpPacket _ _ _ => true
  | .pldmFirmwareUpdate _ _ _ => true
  | .pldmStateChange _ _ boot => boot.wf
  | .pkgPwrokRise _ boot => boot.wf
  | .pkgPwrokFall _ => true
  | .pkgRstNAssert _ => true
  | .pkgRstNRelease _ boot => boot.wf
  | .bringupComplete _ => true
  | .perstN _ => true
  | .trstN => true
  | .vauxLoss _ => true
  | .pwrRailwarn _ _ _ => true
  | .pwrRailfault _ _ _ _ => true
  | .currentInterval _ _ _ _ => true
  | .throttleSample _ _ => true
  | .throttleStuck _ => true
  | .throttleClear => true
  | .thermalFloor _ _ => true
  | .powerCapInterval _ _ => true
  | .thermtrip _ => true
  | .clkLoss _ => true
  | .holdRequest _ => true
  | .holdAnswer _ _ _ => true
  | .holdAnswerTimeout _ _ _ => true
  | .quiesceDone _ => true
  | .holdSaveDone _ => true
  | .wake => true
  | .wakeTimer _ => true
  | .holdExitDone _ => true
  | .coldEntry _ => true
  | .pwrBrownout _ => true
  | .pwrNvguard _ _ => true
  | .nvGuardRelease _ => true
  | .nvWpN _ _ => true
  | .auditCompare _ => true
  | .auditRun => true
  | .pairCheck _ _ _ => true
  | .captureArm _ _ _ => true
  | .captureBaseDone _ => true
  | .replayGo _ => true
  | .replayDeliver _ => true
  | .extest _ => true
  | .samplePreload => true
  | .idcode => true
  | .clamp _ => true
  | .highz _ => true
  | .extestPulse _ => true
  | .extestTrain _ => true
  | .ijtag _ _ _ => true
  | .bypass => true
  | .flitSend _ _ => true
  | .dataDescriptorFetch _ _ desc => desc.all (fun b => decide (b.length = 64))
  | .channelTrainingLoss _ _ => true
  | .vauxRise _ boot => boot.wf
  | .railRecovery _ _ => true
  | .perstNRelease => true
  | .refclkSerdesLoss _ _ => true
  | .refclkPcieLoss => true

end Sys2Proof
end

