-- ==== Sys2Proof/Safety.lean ====
section
/-! DEFINITION. What counts as a sound state and a safe run, and the words in which statements say what a command leaves
alone. -/

namespace Sys2Proof

/-- The bytes of the machine stand in canonical form: its memory, the NV store, what the guard holds back of it, and host
memory (R372, R401). -/
def Machine.State.wf (s : Machine.State) : Bool :=
  Machine.Memory.wf s.dev.mem && Machine.Memory.wf s.dev.nv && Machine.Memory.wf s.dev.nvNext
    && Machine.Memory.wf s.dev.hst.hostMem

/-- A safe run of `k` steps: it neither faults nor refuses, and its state stays sound. -/
def Safe (k : Nat) (s : Machine.State) : Prop :=
  ∃ t, core.run k s = .next t ∧ t.wf = true

namespace Machine

/-! ### What a command leaves alone -/

/-- The parts of the package in which frames are stated: every field of `Dev` but the registers, with the fields that
time moves together under `clock`, and what the sequencers observe under `gov`. -/
inductive Piece where
  | clock | live | role | mem | nv | gov | seq | tables | cas | jet | ast | ephRes | rvrUse | eph | ril | wei | aqd
  | drain | ports | mach | hst | ms | pwr | tst | mgt
  deriving DecidableEq, Repr

/-- A part is the same in both packages; memory and the NV store byte by byte. -/
def Piece.same (d e : Dev) : Piece → Prop
  | .clock => e.now = d.now ∧ e.fresh = d.fresh ∧ e.sidPrev = d.sidPrev
  | .live => e.live = d.live
  | .role => e.roleLocked = d.roleLocked
  | .mem => ∀ a, memGet e.mem a = memGet d.mem a
  | .nv => ∀ a, memGet e.nv a = memGet d.nv a ∧ memGet e.nvNext a = memGet d.nvNext a
  | .gov => e.pend = d.pend ∧ e.obs = d.obs
  | .seq => e.seq = d.seq
  | .tables => e.tables = d.tables
  | .cas => e.cas = d.cas
  | .jet => e.jet = d.jet
  | .ast => e.ast = d.ast
  | .ephRes => e.ephRes = d.ephRes
  | .rvrUse => e.rvrUse = d.rvrUse
  | .eph => e.eph = d.eph
  | .ril => e.ril = d.ril
  | .wei => e.wei = d.wei
  | .aqd => e.aqd = d.aqd
  | .drain => e.drainAt = d.drainAt
  | .ports => e.ports = d.ports
  | .mach => e.mach = d.mach
  | .hst => e.hst = d.hst
  | .ms => e.ms = d.ms
  | .pwr => e.pwr = d.pwr
  | .tst => e.tst = d.tst
  | .mgt => e.mgt = d.mgt

/-- Every part but those listed is the same. -/
def keepsBut (ps : List Piece) (d e : Dev) : Prop := ∀ p, p ∉ ps → p.same d e

/-- Every register but those at the addresses `p` marks reads as before. -/
def keepsRegs (p : Nat → Bool) (d e : Dev) : Prop := ∀ a, p a = false → regGet e a = regGet d a

/-- The addresses of a list. -/
def these (as : List Nat) (a : Nat) : Bool := as.contains a

/-- The counter values of the halves and of the package, which any event may move (R364). -/
def isCounter (a : Nat) : Bool :=
  [A.CNT_CTL 0, A.CNT_CTL 1, A.GCNT_CTL].any (fun b => decide (b + 0x400 ≤ a) && decide (a < b + 0x600))

/-- What posting a record may change: the counters, GLB_ERRSUM, GLB_FATAL, HST_STS, HST_OVF, and the index and status
registers of the rings (R564 to R569). -/
def isReport (a : Nat) : Bool :=
  isCounter a || these [A.GLB_ERRSUM, A.HST_STS, A.HST_OVF] a || (decide (0x40 ≤ a) && decide (a < 0x80))
    || (decide (0x110000 ≤ a) && decide (a < 0x114000) && (a % 0x40 == 0x20 || a % 0x40 == 0x28))

/-- What the passing of time changes: the counters and SID_TIME. -/
def isClock (a : Nat) : Bool := isCounter a || a == A.SID_TIME

/-! ### When a bundle of one CTL op may issue -/

/-- The strand has a bundle to issue at this moment: the pair runs and no unwind holds it, the strand is on and has not
issued in this cycle, its SPC lies inside the image, its bundle has not issued before, and no gap is in progress (R37,
R40, R80, R83, R673). -/
def ctlReady (d : Dev) (s : StrandId) : Prop :=
  strandDue d s = true ∧ (strandOf d s).spc < imgBound d ∧ (strandOf d s).rep = 0 ∧
    (d.seq.lastCycle = some d.now ∨ d.seq.gapEnd ≤ d.now)

/-- `ctlReady`, with the main strand and no confluence open, as flow ops need it (R73). -/
def flowReady (d : Dev) : Prop := ctlReady d .main ∧ d.seq.confl = none

/-! ### When a timed op may issue -/

/-- The context of a CAS op on a terrace of the issuing half. -/
def casCtx (d : Dev) (iss : Issue) (terr : BitVec 3) (op : CasOp) : CasCtx :=
  ⟨iss.t, hn iss.half, iss.strand, (strandOf d iss.strand).lastSpc, terr.toNat % 8, (encodeCas op).toNat⟩

/-- The half's cascade runs, no ROOT holds the terrace, and the op's reads meet no soft error (R146, R160, R381). -/
def casReady (d : Dev) (iss : Issue) (terr : BitVec 3) : Prop :=
  running d (.cas iss.half) = true ∧ sfind (8 * hn iss.half + terr.toNat % 8) d.cas.roots = none ∧ iss.ecc = []

/-- What the results of a jet op may report: the records of a report, and the poison registers of the half. -/
def jetReports (h : Half) (a : Nat) : Bool := isReport a || these [A.AST_PSN (hn h), A.AST_STS (hn h)] a

/-- Package-wide id of unit `u` of the terrace. -/
def unitOf (iss : Issue) (terr : BitVec 3) (u : Nat) : Nat := 8 * (8 * hn iss.half + terr.toNat % 8) + u

/-! ### When messages pass -/

/-- Nothing is captured or replayed (R644 to R649). -/
def quiet (d : Dev) : Prop := fget d A.TST_CAPSTS F.TST_CAPSTS_STATE ≠ 2 ∧ replayMode d = false

/-- A message that came by a port may be delivered: its link's data path runs and has not been reset since, or the chip
sent it to itself; its virtual channel is one of the six (R453, R460, R486). -/
def arrives (d : Dev) (p : Nat) (m : Msg) : Prop :=
  portDead d p m = false ∧ linkStale d p m = false ∧ m.vc < 6 ∧ quiet d

/-- The buffer registers of the virtual channels of a port. -/
def isVc (p a : Nat) : Bool := (List.range 6).any (fun v => a == A.HRM_VCCRED p v)

/-- No rill command waits at a command port, and no COMMIT is on its way across the bridge. -/
def rilIdle (d : Dev) : Prop := (∀ q, q < 4 → rilQueue d q = []) ∧ d.ril.cross = []

/-- The counters of a rill context, its GEN register, and what accesses to the stacks count. -/
def isRill (n a : Nat) : Bool :=
  isCounter a || these [A.RIL_CNTA n, A.RIL_CNTB n, A.RIL_CNTC n, A.RIL_GEN n, A.POL_STS 0, A.POL_STS 1] a

/-! ### When weirs are free -/

/-- No weir command waits or is at work in either half. -/
def weiIdle (d : Dev) : Prop :=
  weiQueue d 0 = [] ∧ weiQueue d 1 = [] ∧ ∀ w, w < 8 → (weirOf d w).cur = none ∧ (weirOf d w).queue = []

/-- What a weir command takes at its issue (R303, R313, R327, R328). -/
def weiTaken (d : Dev) (iss : Issue) (op : WeiOp) : WeiCmd :=
  let word := encodeWei op
  let h := hn iss.half
  { op := word, spc := (strandOf d iss.strand).lastSpc, strand := strandCode iss.strand,
    span := bits word.toNat 11 0 + idxSel d iss.strand (wcSel word.toNat), pstep := fget d (A.WEI_SPA h) F.WEI_SPA_STEP,
    eta := fget d (A.WEI_SPB h) F.WEI_SPB_ETA, lambda := fget d (A.WEI_SPB h) F.WEI_SPB_LAMBDA,
    invls := fget d (A.WEI_SPA h) F.WEI_SPA_INVLS, spec := d.seq.stepOpen,
    step := if d.seq.stepOpen then curStep d else (curStep d + 2 ^ 32 - 1) % 2 ^ 32, serial := weiSerial d, ent := [],
    slot := none, next := 0, rowT := none, nonfin := false }

/-- The version slots of the ephemeris. -/
def isSlot (a : Nat) : Bool := decide (A.EPH_SLOT 0 ≤ a) && decide (a ≤ A.EPH_SLOT 16383)

/-- What a half's weirs report and count while they work. -/
def weiReports (h a : Nat) : Bool :=
  jetReports (if h = 0 then .A else .B) a || these [A.WEI_STS h, A.AST_BANK0 h, A.AST_BANK1 h] a
    || (List.range 4).any (fun k => a == A.WEI_WSTS h k)

/-! ### Accesses -/

/-- The bytes lie in the stacks, or in one terrace's reservoir: memory that keeps what is stored. -/
def plainMem (d : Dev) (a n : Nat) : Prop := inStacks d a n = true ∨ inAnyRes a n = true

/-- What queued accesses count: the counters and the pools' count of dirty lines. -/
def isAccess (a : Nat) : Bool := isCounter a || these [A.POL_STS 0, A.POL_STS 1] a

/-- Registers that a write reaches with an action of their own beside the plain store (R7). -/
def actsOnWrite (a : Nat) : Bool :=
  (blkAt a).isSome || these [A.SEQ_CTL 1, A.CNT_CTL 0, A.CNT_CTL 1, A.GCNT_CTL, A.POL_CTL 0, A.POL_CTL 1, A.SID_CTL,
    A.SID_SET, A.SID_RCLM, A.SID_HOLDN, A.SID_RBANK, A.COL_PRX, A.GLB_SCRUB, A.PWR_HCTL, A.PWR_THR, A.TST_AUDCTL,
    A.TST_PAIR, A.TST_CAP, A.TST_RPL] a || (List.range 8).any (fun p => a == A.HRM_PCTL p)

/-- Nothing of the aqueduct is at work. -/
def aqdIdle (d : Dev) : Prop :=
  (∀ q, q < 4 → aqdQueue d q = []) ∧ d.aqd.chans = [] ∧ d.aqd.reqs = [] ∧ d.aqd.since = [] ∧ d.aqd.ready = []

/-- One channel holds one transfer and nothing else of the aqueduct is at work. -/
def aqdOnly (d : Dev) (h c : Nat) (x : Xfer) : Prop :=
  (∀ q, q < 4 → aqdQueue d q = []) ∧ d.aqd.chans = [(32 * h + c, [x])] ∧ d.aqd.reqs = [] ∧ d.aqd.since = [] ∧
    x.dead = false ∧ x.waitHost = 0 ∧ x.half = h ∧ xChan x = c

/-- Nothing of the aqueduct is at work but its outstanding requests. -/
def aqdWaits (d : Dev) : Prop :=
  (∀ q, q < 4 → aqdQueue d q = []) ∧ d.aqd.chans = [] ∧ d.aqd.since = [] ∧ d.aqd.ready = []

/-! ### Ports and machine -/

/-- The registers of a Hermen port. -/
def isPort (p a : Nat) : Bool := decide (A.HRM_PCTL p ≤ a) && decide (a < A.HRM_PCTL (p + 1))

/-- The registers of time, slice, notices, verdicts and collectives below the membership bitmaps. -/
def isMachReg (a : Nat) : Bool := decide (A.SID_CTL ≤ a) && decide (a < A.SID_MEMB 0)

/-- What the machine may change as a consequence of a link or of the verdict tree: the records it posts and the registers
of the machine. -/
def machReports (a : Nat) : Bool := isReport a || isMachReg a

/-- A port with nothing queued and nothing unacknowledged. -/
def portEmpty (d : Dev) (p : Nat) : Prop := (portOf d p).queue = [] ∧ (portOf d p).replay = []

end Machine
end Sys2Proof
end

