-- ==== Sys2Proof/Certificates/Slice0/Obligations.lean ====
section
/-! DEFINITION. What is stated of the model, for the provers. A statement gives, for the commands it names, hypotheses on
the state and the operands alone, the next state's contents by the rules, and what stays as it was. -/

open Sys2Proof Sys2Proof.Machine

/-! ### The queue, idling, reset, soundness -/

/-- A step takes the command at the front of the queue: it is `exec` of that command on the state with the rest of the
queue. With nothing waiting the package stays as it is (the model's choice, log 2). -/
def Obligations.StepRunsFrontCommand : Prop :=
  (∀ (c : Instr) (rest : List Instr) (s : State), s.pending = c :: rest → step s = exec c { s with pending := rest }) ∧
  (∀ s : State, s.pending = [] → step s = .next s)

/-- No command faults or is refused, and none touches the queue. -/
def Obligations.EveryCommandAnswersANextState : Prop :=
  ∀ (c : Instr) (s : State), ∃ u, exec c s = .next u ∧ u.pending = s.pending

/-- What the spec gives reset: every block STOPPED with no start counted, every counter deselected, the identity and the
limits at their reset values, no record held, no strand running, no step open. The values that a log entry chose
(registers for which the spec gives none) are left out. -/
def Obligations.ResetLeavesTheSpecsValues : Prop :=
  (∀ b : Blk, b.wf = true → blkState State.reset.dev b = 0 ∧ fget State.reset.dev (stsAddr b) F.RUNGEN = 0 ∧
      fget State.reset.dev (stsAddr b) F.DRAINED = 0 ∧ fget State.reset.dev (stsAddr b) F.PEND = 0) ∧
    (∀ h n, h < 2 → n < 64 → fget State.reset.dev (A.CNT_SEL h n) F.CNT_SEL_SRC = 0xFFF) ∧
    (∀ s : StrandId, (strandOf State.reset.dev s).on = false) ∧ State.reset.dev.seq.stepOpen = false ∧
    State.reset.dev.hst.ovf = [] ∧ State.reset.pending = []

/-- The state right after reset is sound: every memory stands in canonical form. -/
def Obligations.ResetIsSound : Prop := State.reset.wf = true

/-- Every step keeps every memory in canonical form: local memory, the NV store, what the guard holds back of it, and
host memory. -/
def Obligations.StepKeepsMemoriesCanonical : Prop :=
  ∀ s u : State, s.wf = true → step s = .next u → u.wf = true

/-- A byte of local memory just stored is read back, every other byte reads as before, and the canonical form stays. -/
def Obligations.MemoryReadsBackWhatWasStored : Prop :=
  ∀ (m : List Host.Cell) (a : Nat) (bs : List Byte),
    memRead (memWrite m a bs) a bs.length = bs ∧
    (∀ b, (b < a ∨ a + bs.length ≤ b) → memGet (memWrite m a bs) b = memGet m b) ∧
    (Memory.wf m = true → Memory.wf (memWrite m a bs) = true)

/-- Slot words and slot ops correspond one to one in every slot of a bundle: a word spells an op exactly when it is that
op's word, so no bit of an encoding is dropped and no word with a reserved bit set spells an op. -/
def Obligations.SlotWordsAndOpsCorrespond : Prop :=
  (∀ (w : BitVec 64) (op : CtlOp), decodeCtl w = some op ↔ encodeCtl op = w) ∧
  (∀ (w : BitVec 48) (op : CasOp), decodeCas w = some op ↔ encodeCas op = w) ∧
  (∀ (w : BitVec 40) (op : JetOp), decodeJet w = some op ↔ encodeJet op = w) ∧
  (∀ (w : BitVec 48) (op : RilOp), decodeRil w = some op ↔ encodeRil op = w) ∧
  (∀ (w : BitVec 40) (op : AqdOp), decodeAqd w = some op ↔ encodeAqd op = w) ∧
  (∀ (w : BitVec 32) (op : WeiOp), decodeWei w = some op ↔ encodeWei op = w) ∧
  (∀ (w : BitVec 16) (op : EphOp), decodeEph w = some op ↔ encodeEph op = w) ∧
  (∀ (w : BitVec 16) (op : AstOp), decodeAst w = some op ↔ encodeAst op = w)

/-! ### Blocks (R23 to R29) -/

/-- BLOCK_ENABLE in state RUN, by the state of the block. A STOPPED block whose start adds no test of its own (cascade
units, jets, astrolabes, Hermen ports, collectives) starts: RUNNING, one more start counted modulo 2^16. A DRAINING block
of any kind notes the start as pending. A RUNNING block of any kind is not touched. EN reads 1 in all three. In states
other than RUN the write is held. -/
def Obligations.EnableFollowsTheBlockState : Prop :=
  ∀ (t : Nat) (b : Blk) (s : State), b.wf = true → let d := observe s.dev t
    (pstate d = 0 → blkState d b = 0 →
      (match b with | .cas _ | .jet _ | .ast _ | .hrm _ | .col => true | _ => false) = true →
      ∃ u, exec (.blockEnable t b) s = .next u ∧ blkState u.dev b = 1 ∧
        fget u.dev (stsAddr b) F.RUNGEN = (fget d (stsAddr b) F.RUNGEN + 1) % 65536 ∧
        fget u.dev (ctlAddr b) F.EN = 1 ∧ keepsBut [.live] d u.dev ∧
        keepsRegs (these [ctlAddr b, stsAddr b]) d u.dev) ∧
    (pstate d = 0 → blkState d b = 2 →
      ∃ u, exec (.blockEnable t b) s = .next u ∧ blkState u.dev b = 2 ∧ fget u.dev (stsAddr b) F.PEND = 1 ∧
        fget u.dev (stsAddr b) F.RUNGEN = fget d (stsAddr b) F.RUNGEN ∧ fget u.dev (ctlAddr b) F.EN = 1 ∧
        keepsBut [] d u.dev ∧ keepsRegs (these [ctlAddr b, stsAddr b]) d u.dev) ∧
    (pstate d = 0 → blkState d b = 1 →
      ∃ u, exec (.blockEnable t b) s = .next u ∧ fget u.dev (ctlAddr b) F.EN = 1 ∧ keepsBut [] d u.dev ∧
        keepsRegs (these [ctlAddr b]) d u.dev) ∧
    (pstate d ≠ 0 → ∃ u, exec (.blockEnable t b) s = .next u ∧ b ∈ u.dev.pwr.heldEn ∧
        blkState u.dev b = blkState d b ∧ fget u.dev (ctlAddr b) F.EN = fget d (ctlAddr b) F.EN)

/-- BLOCK_DISABLE and SEQ_STOP. A RUNNING block drains from that moment on; a DRAINING one loses its pending start; a
STOPPED one is not touched. EN reads 0. -/
def Obligations.DisableFollowsTheBlockState : Prop :=
  ∀ (t : Nat) (b : Blk) (s : State), b.wf = true → let d := observe s.dev t
    (blkState d b = 1 →
      (match b with | .cas _ | .jet _ | .ast _ | .hrm _ | .eph => true | _ => false) = true →
      ∃ u, exec (.blockDisable t b) s = .next u ∧ blkState u.dev b = 2 ∧ sget 0 (stsAddr b) u.dev.drainAt = d.now ∧
        fget u.dev (ctlAddr b) F.EN = 0 ∧ keepsBut [.drain, .pwr] d u.dev ∧
        keepsRegs (these [ctlAddr b, stsAddr b]) d u.dev) ∧
    (blkState d b = 2 →
      ∃ u, exec (.blockDisable t b) s = .next u ∧ blkState u.dev b = 2 ∧ fget u.dev (stsAddr b) F.PEND = 0 ∧
        fget u.dev (ctlAddr b) F.EN = 0 ∧ keepsBut [.pwr] d u.dev ∧
        keepsRegs (these [ctlAddr b, stsAddr b]) d u.dev) ∧
    (blkState d b = 0 →
      ∃ u, exec (.blockDisable t b) s = .next u ∧ fget u.dev (ctlAddr b) F.EN = 0 ∧ keepsBut [.pwr] d u.dev ∧
        keepsRegs (these [ctlAddr b]) d u.dev) ∧
    (blkState d .seq = 1 →
      ∃ u, exec (.seqStop t) s = .next u ∧ blkState u.dev .seq = 2 ∧ fget u.dev (A.SEQ_CTL 0) F.EN = 0 ∧
        (∀ x, (strandOf u.dev x).on = false) ∧
        (∀ x, (strandOf d x).on = true → (strandOf u.dev x).spc = (strandOf d x).lastSpc) ∧
        keepsBut [.drain, .pwr, .seq] d u.dev ∧ keepsRegs (these [A.SEQ_CTL 0, A.SEQ_STS 0, A.TST_CAPSTS]) d u.dev)

/-- DRAIN_COMPLETE and DRAIN_TIMEOUT of a unit without queued work (cascade units, jets, the ephemeris) that has no start
pending, when nothing waits for a Function Level Reset: STOPPED, DRAINED set, the starts counted as before. The timeout
acts from the bound on. Before a drain is complete DRAIN_COMPLETE does nothing. -/
def Obligations.DrainEndsInStopped : Prop :=
  ∀ (t : Nat) (b : Blk) (s : State), b.wf = true → let d := observe s.dev t
    (match b with | .cas _ | .jet _ | .eph => true | _ => false) = true → blkState d b = 2 →
    fget d (stsAddr b) F.PEND = 0 → d.hst.flr = false →
    (drained d b = true →
      ∃ u, exec (.drainComplete t b) s = .next u ∧ blkState u.dev b = 0 ∧ fget u.dev (stsAddr b) F.DRAINED = 1 ∧
        fget u.dev (stsAddr b) F.RUNGEN = fget d (stsAddr b) F.RUNGEN ∧ keepsBut [] d u.dev ∧
        keepsRegs (these [stsAddr b]) d u.dev) ∧
    (drained d b = false → exec (.drainComplete t b) s = .next { s with dev := d }) ∧
    (drained d b = true → sget 0 (stsAddr b) d.drainAt + drainBound d b ≤ d.now →
      ∃ u, exec (.drainTimeout t b) s = .next u ∧ blkState u.dev b = 0 ∧ fget u.dev (stsAddr b) F.DRAINED = 1 ∧
        keepsBut [] d u.dev ∧ keepsRegs (these [stsAddr b]) d u.dev)

/-- DRAIN_COMPLETE with a start pending: the block starts again, and the start is no longer pending. -/
def Obligations.PendingStartFollowsTheDrain : Prop :=
  ∀ (t : Nat) (b : Blk) (s : State), b.wf = true → let d := observe s.dev t
    (match b with | .cas _ | .jet _ => true | _ => false) = true → blkState d b = 2 →
    fget d (stsAddr b) F.PEND = 1 → drained d b = true → d.hst.flr = false →
      ∃ u, exec (.drainComplete t b) s = .next u ∧ blkState u.dev b = 1 ∧ fget u.dev (stsAddr b) F.PEND = 0 ∧
        fget u.dev (stsAddr b) F.DRAINED = 1 ∧
        fget u.dev (stsAddr b) F.RUNGEN = (fget d (stsAddr b) F.RUNGEN + 1) % 65536 ∧
        keepsBut [.live] d u.dev ∧ keepsRegs (these [stsAddr b]) d u.dev

/-! ### The sequencers (02) -/

/-- STATE_OBSERVATION. A change of governing state is observed once it is due and not before: the observed value is then
the new one, and the change is no longer waiting. Nothing but the clock moves beside it. -/
def Obligations.ObservationWaitsUntilDue : Prop :=
  ∀ (t due n v : Nat) (s : State), s.dev.pend = [⟨due, .rillOcc n, v⟩] →
    (due ≤ max s.dev.now t →
      ∃ u, exec (.stateObservation t) s = .next u ∧ obsGet u.dev (.rillOcc n) = v ∧ u.dev.pend = [] ∧
        u.dev.now = max s.dev.now t ∧ keepsBut [.clock, .gov] s.dev u.dev ∧ keepsRegs isClock s.dev u.dev) ∧
    (max s.dev.now t < due →
      ∃ u, exec (.stateObservation t) s = .next u ∧ obsGet u.dev (.rillOcc n) = obsGet s.dev (.rillOcc n) ∧
        u.dev.pend = s.dev.pend ∧ keepsBut [.clock] s.dev u.dev ∧ keepsRegs isClock s.dev u.dev)

/-- SEQ_START. A start whose images and tables lie in the stack range runs the pair: RUNNING, one more start, the main
strand at SEQ_ENTRY.ADDR with no loop, no call and no confluence, SEQ_STEP.CUR at SID_STEP.STEP, no step open. -/
def Obligations.SequencerStartsAtItsEntry : Prop :=
  ∀ (t : Nat) (s : State), let d := observe s.dev t
    pstate d = 0 → blkState d .seq = 0 → scrubbing d = false → fget d A.TST_STS F.TST_STS_INTRUSIVE = 0 →
    d.ms.marks = [] → badImages d = [] → (startTables d).all (fun e => inStacks d e.1 e.2) = true →
      ∃ u, exec (.seqStart t) s = .next u ∧ blkState u.dev .seq = 1 ∧
        fget u.dev (A.SEQ_STS 0) F.RUNGEN = (fget d (A.SEQ_STS 0) F.RUNGEN + 1) % 65536 ∧
        fget u.dev (A.SEQ_CTL 0) F.EN = 1 ∧ u.dev.seq.main.on = true ∧
        u.dev.seq.main.spc = fget d (A.SEQ_ENTRY 0) F.SEQ_ENTRY_ADDR ∧ u.dev.seq.main.loops = [] ∧
        u.dev.seq.calls = [] ∧ u.dev.seq.confl = none ∧ u.dev.seq.stepOpen = false ∧
        curStep u.dev = fget d A.SID_STEP F.SID_STEP_STEP ∧
        (∀ a, memGet u.dev.mem a = memGet d.mem a) ∧ u.dev.cas = d.cas ∧ u.dev.jet = d.jet

/-- LOOP, BR, BRC, CALL and RET in the main strand, where no confluence is open and the test that each makes passes: a
loop's frame is pushed and its body begins at the next bundle; a branch goes to its target, a conditional one only where
its comparison of the index register holds; a call saves the return address with the loop depth; a return goes to the
bundle after its call, with the enclosing loops advanced. -/
def Obligations.FlowOpsMoveTheMainStrand : Prop :=
  ∀ (t : Nat) (s : State), let d := observe s.dev t
    let m := d.seq.main
    flowReady d →
    (∀ count len, m.loops.length < 8 → m.spc + 1 + len.toNat < imgBound d →
      ∃ u, exec (.loop t .main count len) s = .next u ∧ u.dev.seq.main.spc = m.spc + 1 ∧
        u.dev.seq.main.loops = ⟨m.spc + 1, len.toNat, count.toNat, 0⟩ :: m.loops ∧ u.dev.seq.calls = d.seq.calls ∧
        keepsBut [.seq, .gov] d u.dev ∧ keepsRegs isCounter d u.dev) ∧
    (∀ target, target.toNat < imgBound d → targetInScope d .main target.toNat = true →
      ∃ u, exec (.br t .main target) s = .next u ∧ u.dev.seq.main.spc = target.toNat ∧
        u.dev.seq.main.loops = m.loops ∧ u.dev.seq.calls = d.seq.calls ∧
        keepsBut [.seq, .gov] d u.dev ∧ keepsRegs isCounter d u.dev) ∧
    (∀ ix cmp imm target, target.toNat < imgBound d → targetInScope d .main target.toNat = true →
      ∃ u, exec (.brc t .main ix cmp imm target) s = .next u ∧
        u.dev.seq.main.spc = (if brcTakes cmp.toNat (loopIter m.loops ix.toNat) imm.toNat then target.toNat
          else (advance m.spc m.loops).1) ∧
        u.dev.seq.calls = d.seq.calls ∧ keepsBut [.seq, .gov] d u.dev ∧ keepsRegs isCounter d u.dev) ∧
    (∀ target, d.seq.calls.length < 8 → target.toNat < imgBound d →
      ∃ u, exec (.call t .main target) s = .next u ∧ u.dev.seq.main.spc = target.toNat ∧
        u.dev.seq.calls = (m.spc + 1, m.loops.length) :: d.seq.calls ∧ u.dev.seq.main.loops = m.loops ∧
        keepsBut [.seq, .gov] d u.dev ∧ keepsRegs isCounter d u.dev) ∧
    (∀ r rest, d.seq.calls = (r, m.loops.length) :: rest →
      ∃ u, exec (.ret t .main) s = .next u ∧ u.dev.seq.main.spc = (advance (r - 1) m.loops).1 ∧
        u.dev.seq.main.loops = (advance (r - 1) m.loops).2 ∧ u.dev.seq.calls = rest ∧
        keepsBut [.seq, .gov] d u.dev ∧ keepsRegs isCounter d u.dev)

/-- The wait ops AWAITR, AWAITA, SIDA, SIDR and DELAY, in any strand and either half: satisfied at the time of the
command, the bundle issues then and the strand moves on; otherwise the strand is held where it is, and nothing but the
strand changes. -/
def Obligations.WaitsHoldUntilSatisfied : Prop :=
  ∀ (t : Nat) (x : StrandId) (h : Half) (s : State), let d := observe s.dev t
    let moves := fun (c : Instr) => ∃ u, exec c s = .next u ∧ (strandOf u.dev x).lastIssue = d.now ∧
      (strandOf u.dev x).spc = (advance (strandOf d x).spc (strandOf d x).loops).1 ∧ (∀ a, memGet u.dev.mem a = memGet d.mem a) ∧
      keepsBut [.seq, .gov, .hst] d u.dev ∧ keepsRegs (fun a => isReport a || a == A.SEQ_STS 0) d u.dev
    let held := fun (c : Instr) => ∃ u, exec c s = .next u ∧ (strandOf u.dev x).held.isSome = true ∧
      (strandOf u.dev x).spc = (strandOf d x).spc ∧ keepsBut [.seq] d u.dev ∧ keepsRegs (fun _ => false) d u.dev
    ctlReady d x →
    (∀ kind rill thresh, if waitOk d (hn h) x (.awaitr kind rill thresh) then moves (.awaitr t x h kind rill thresh)
      else held (.awaitr t x h kind rill thresh)) ∧
    (∀ chan limit, if waitOk d (hn h) x (.awaita chan limit) then moves (.awaita t x h chan limit)
      else held (.awaita t x h chan limit)) ∧
    (∀ time, if waitOk d (hn h) x (.sida time) then moves (.sida t x h time) else held (.sida t x h time)) ∧
    (∀ offset, if waitOk d (hn h) x (.sidr offset) then moves (.sidr t x h offset) else held (.sidr t x h offset)) ∧
    (∀ cycles, if waitOk d (hn h) x (.delay cycles) then moves (.delay t x h cycles) else held (.delay t x h cycles))

/-- AWAITQ on a command ring. With a descriptor shown as arrived and not consumed the bundle issues: the ring's consumed
count advances by one modulo 2^32 and the strand moves on. With none the strand is held and the ring stays as it is. -/
def Obligations.AwaitqConsumesOneDescriptor : Prop :=
  ∀ (t : Nat) (x : StrandId) (ring : BitVec 8) (s : State), let d := observe s.dev t
    let a := A.HST_RIDX ring.toNat
    ctlReady d x → liveGet d (A.HST_RCFG ring.toNat) F.HST_RCFG_KIND = 0 →
    (ringHolds d ring.toNat = true →
      ∃ u, exec (.awaitq t x ring) s = .next u ∧
        fget u.dev a F.HST_RIDX_DEVIDX = (fget d a F.HST_RIDX_DEVIDX + 1) % 2 ^ 32 ∧
        fget u.dev a F.HST_RIDX_HOSTIDX = fget d a F.HST_RIDX_HOSTIDX ∧
        (strandOf u.dev x).spc = (advance (strandOf d x).spc (strandOf d x).loops).1 ∧ u.dev.mem = d.mem) ∧
    (ringHolds d ring.toNat = false →
      ∃ u, exec (.awaitq t x ring) s = .next u ∧ (strandOf u.dev x).held.isSome = true ∧
        (strandOf u.dev x).spc = (strandOf d x).spc ∧ keepsBut [.seq] d u.dev ∧ keepsRegs (fun _ => false) d u.dev)

/-- STEPB and VERD. A STEPB that nothing holds opens the step: SEQ_T0 takes SID_TIME, or the TIME of the last SIDA, and
SEQ_STEP.ADDR the bundle's own address. A VERD whose step has been reported and has its clear verdict closes it: the step
numbers of the sequencers and of the slice count on by one. A VERD without its verdict holds the strand with the step
open. -/
def Obligations.StepsOpenAndClose : Prop :=
  ∀ (t : Nat) (s : State), let d := observe s.dev t
    flowReady d → d.seq.main.loops = [] → d.seq.calls = [] →
    (∀ src : BitVec 1, d.seq.stepOpen = false → (src = 1#1 → d.seq.sidaTime.isSome = true) →
      d.seq.reclaimSeen = false → d.seq.holdSeen = false → d.seq.stepbHeld = false →
      fget d A.TST_CAPSTS F.TST_CAPSTS_STATE ≠ 1 → d.seq.abortNext ≠ some (curStep d) →
      ∃ u, exec (.stepb t .main src) s = .next u ∧ u.dev.seq.stepOpen = true ∧
        regGet u.dev (A.SEQ_T0 0) = BitVec.ofNat 64 (if src = 1#1 then d.seq.sidaTime.getD 0 else sidNow d) ∧
        fget u.dev (A.SEQ_STEP 0) F.SEQ_STEP_ADDR = d.seq.main.spc % 2 ^ 28 ∧ curStep u.dev = curStep d ∧
        u.dev.seq.main.spc = d.seq.main.spc + 1 ∧ u.dev.cas = d.cas ∧ u.dev.jet = d.jet) ∧
    (d.seq.stepOpen = true → d.seq.report.isSome = true → obsGet d .verdict = 4 * curStep d + 1 →
      ∃ u, exec (.verd t .main) s = .next u ∧ u.dev.seq.stepOpen = false ∧
        curStep u.dev = (curStep d + 1) % 2 ^ 32 ∧
        fget u.dev A.SID_STEP F.SID_STEP_STEP = (fget d A.SID_STEP F.SID_STEP_STEP + 1) % 2 ^ 32 ∧
        fget u.dev A.SID_STEP F.SID_STEP_ATTEMPT = 0 ∧ u.dev.seq.main.spc = d.seq.main.spc + 1 ∧
        keepsBut [.seq, .gov] d u.dev ∧
        keepsRegs (fun a => isCounter a || these [A.SEQ_STEP 0, A.SID_STEP] a) d u.dev) ∧
    (d.seq.stepOpen = true → d.seq.report.isSome = true → obsGet d .verdict ≠ 4 * curStep d + 1 →
      ∃ u, exec (.verd t .main) s = .next u ∧ u.dev.seq.stepOpen = true ∧ u.dev.seq.main.held.isSome = true ∧
        u.dev.seq.main.spc = d.seq.main.spc ∧ keepsBut [.seq] d u.dev ∧ keepsRegs (fun _ => false) d u.dev)

/-- FORK, SEGMENT_START and JOIN. A FORK of a sound descriptor opens the confluence with both segments pending; a pending
segment that is ready, of masks that do not overlap, starts its strand at the descriptor's address from the cycle after
the FORK on, while one whose masks overlap waits for the other to end; a JOIN ends the confluence once both segments have
ended, and holds the main strand before. -/
def Obligations.ConfluenceForksAndJoins : Prop :=
  ∀ (t : Nat) (s : State), let d := observe s.dev t
    (flowReady d → ∀ desc, fdescBad d desc.toNat = false →
      ∃ u, exec (.fork t .main desc) s = .next u ∧ u.dev.seq.confl = some ⟨desc.toNat, .pending, .pending, d.now⟩ ∧
        u.dev.seq.main.spc = (advance d.seq.main.spc d.seq.main.loops).1 ∧ u.dev.seq.segA = d.seq.segA ∧
        u.dev.seq.segB = d.seq.segB ∧ keepsBut [.seq, .gov] d u.dev ∧ keepsRegs isCounter d u.dev) ∧
    (∀ (b : Bool) (c : Confluence), canIssue d = true → d.now % 2 = 0 → d.seq.confl = some c → c.at' < d.now →
      (if b then c.b else c.a) = .pending → segReady d c.desc b = true →
      (masksOverlap d c.desc = false →
        ∃ u, exec (.segmentStart t b) s = .next u ∧
          (strandOf u.dev (if b then .segB else .segA)).on = true ∧
          (strandOf u.dev (if b then .segB else .segA)).spc = segStart d c.desc b ∧
          (strandOf u.dev (if b then .segB else .segA)).loops = [] ∧
          u.dev.seq.confl = some (if b then { c with b := .running } else { c with a := .running }) ∧
          u.dev.seq.main = d.seq.main ∧ keepsBut [.seq, .gov] d u.dev ∧ keepsRegs (fun _ => false) d u.dev) ∧
      (masksOverlap d c.desc = true → (if b then c.a else c.b) = .running →
        exec (.segmentStart t b) s = .next { s with dev := d })) ∧
    (ctlReady d .main → ∀ c, d.seq.confl = some c →
      (c.a = .ended → c.b = .ended →
        ∃ u, exec (.join t .main) s = .next u ∧ u.dev.seq.confl = none ∧
          u.dev.seq.main.spc = (advance d.seq.main.spc d.seq.main.loops).1 ∧ keepsBut [.seq, .gov] d u.dev ∧
          keepsRegs isCounter d u.dev) ∧
      (c.a ≠ .ended ∨ c.b ≠ .ended →
        ∃ u, exec (.join t .main) s = .next u ∧ u.dev.seq.confl = some c ∧ u.dev.seq.main.held.isSome = true ∧
          u.dev.seq.main.spc = d.seq.main.spc ∧ keepsBut [.seq] d u.dev ∧ keepsRegs (fun _ => false) d u.dev))

/-- PAGE in any strand, for a page inside the image. PAGE_PREFETCH: in a half that does not hold the page, the page is on
its way or waits for a frame. PAGE_PIN and PAGE_UNPIN of a page that a half holds or is receiving: one frame more is
pinned where fewer than 24 are and this one is not, and one fewer where it is. -/
def Obligations.PagesArePrefetchedPinnedAndUnpinned : Prop :=
  ∀ (t : Nat) (x : StrandId) (page : BitVec 17) (h : Nat) (s : State), let d := observe s.dev t
    let p := pagerOf d h
    ctlReady d x → page.toNat < imgPageBound d → h < 2 →
    (pageIn p page.toNat = false →
      ∃ u, exec (.pagePrefetch t x page) s = .next u ∧
        (pageComing (pagerOf u.dev h) page.toNat = true ∨ page.toNat ∈ (pagerOf u.dev h).prefetch ∨
          page.toNat ∈ (pagerOf u.dev h).demand) ∧
        keepsBut [.seq, .gov] d u.dev ∧ keepsRegs isCounter d u.dev) ∧
    (∀ i, frameOf p page.toNat = some i → pinnedCount p < 24 → (p.frames.getD i Frame.init).pinned = false →
      ∃ u, exec (.pagePin t x page) s = .next u ∧ pinnedCount (pagerOf u.dev h) = pinnedCount p + 1 ∧
        keepsBut [.seq, .gov, .hst] d u.dev ∧ keepsRegs (fun a => isReport a || a == A.SEQ_STS 0) d u.dev) ∧
    (∀ i, frameOf p page.toNat = some i → (p.frames.getD i Frame.init).pinned = true →
      ∃ u, exec (.pageUnpin t x page) s = .next u ∧ pinnedCount (pagerOf u.dev h) + 1 = pinnedCount p ∧
        keepsBut [.seq, .gov] d u.dev ∧ keepsRegs isCounter d u.dev)

/-- TRAP and HALT. A TRAP without STOP posts its exception and the strand moves on; a TRAP with STOP, and a HALT, stop the
sequencers: EN is cleared, the pair drains, every strand is off, and SEQ_STS.CODE holds the op's code. -/
def Obligations.TrapsReportAndHaltsStop : Prop :=
  ∀ (t : Nat) (x : StrandId) (h : Half) (code : BitVec 16) (s : State), let d := observe s.dev t
    let stops := fun (c : Instr) => ∃ u, exec c s = .next u ∧ blkState u.dev .seq = 2 ∧
      fget u.dev (A.SEQ_CTL 0) F.EN = 0 ∧ fget u.dev (A.SEQ_STS 0) F.SEQ_STS_CODE = code.toNat ∧
      fget u.dev (A.SEQ_STS 0) F.SEQ_STS_EXC = 0x31 ∧ (∀ y, (strandOf u.dev y).on = false) ∧
      keepsBut [.seq, .gov, .hst, .drain] d u.dev ∧
      keepsRegs (fun a => isReport a || these [A.SEQ_STS 0, A.SEQ_CTL 0, A.TST_CAPSTS] a) d u.dev
    ctlReady d x →
    (∃ u, exec (.trap t x h 0#1 code) s = .next u ∧ fget u.dev (A.SEQ_STS 0) F.SEQ_STS_EXC = 0x30 ∧
      (strandOf u.dev x).spc = (advance (strandOf d x).spc (strandOf d x).loops).1 ∧ blkState u.dev .seq = 1 ∧
      keepsBut [.seq, .gov, .hst] d u.dev ∧ keepsRegs (fun a => isReport a || a == A.SEQ_STS 0) d u.dev) ∧
    stops (.trap t x h 1#1 code) ∧
    (x = .main → d.seq.confl = none → stops (.halt t .main code))

/-- BUNDLE_ISSUE and PAGE_ARRIVAL. A bundle of no-ops in the main strand, its page observed as resident in both halves,
issues and the strand goes to the next bundle. Any sound bundle of a strand that is due is tried as its two half-words
say. A bundle whose page is not observed as resident does not issue. A page that is on its way lands: it becomes resident
with the bytes of the image in memory, and both sequencers observe it 25 sequencer cycles later. -/
def Obligations.BundlesIssueFromResidentPages : Prop :=
  ∀ (t : Nat) (s : State), let d := observe s.dev t
    (flowReady d → pageObserved d d.seq.main.spc = true →
      halfWordIn d.seq.pagerA d.seq.main.spc = some 0 → halfWordIn d.seq.pagerB d.seq.main.spc = some 0 →
      pageComing d.seq.pagerA (pageOf d.seq.main.spc) = false → pageComing d.seq.pagerB (pageOf d.seq.main.spc) = false →
      ∃ u, exec (.bundleIssue t .main []) s = .next u ∧
        u.dev.seq.main.spc = (advance d.seq.main.spc d.seq.main.loops).1 ∧ u.dev.seq.main.lastIssue = d.now ∧
        keepsBut [.seq, .gov] d u.dev ∧ keepsRegs isCounter d u.dev) ∧
    (∀ (x : StrandId) (ecc : List Ecc) (wa wb : Nat), strandDue d x = true → (strandOf d x).spc < imgBound d →
      pageObserved d (strandOf d x).spc = true → halfWordIn d.seq.pagerA (strandOf d x).spc = some wa →
      halfWordIn d.seq.pagerB (strandOf d x).spc = some wb →
      pageComing d.seq.pagerA (pageOf (strandOf d x).spc) = false →
      pageComing d.seq.pagerB (pageOf (strandOf d x).spc) = false → parityOk wa = true → parityOk wb = true →
      exec (.bundleIssue t x ecc) s = .next { s with dev := tryBundle d x ecc wa wb }) ∧
    (∀ (x : StrandId) (ecc : List Ecc), strandDue d x = true → (strandOf d x).spc < imgBound d →
      pageObserved d (strandOf d x).spc = false →
      ∃ u, exec (.bundleIssue t x ecc) s = .next u ∧ strandOf u.dev x = strandOf d x ∧ keepsBut [.seq, .gov] d u.dev ∧
        keepsRegs (fun _ => false) d u.dev) ∧
    (∀ (h : Half) (page : BitVec 17), let p := pagerOf d (hn h)
      pageComing p page.toNat = true → p.demand = [] → p.prefetch = [] → p.refetched = [] →
      d.pend.all (fun e => match e.key with | .resident _ _ => false | _ => true) = true →
      ∃ u, exec (.pageArrival t h page) s = .next u ∧ pageIn (pagerOf u.dev (hn h)) page.toNat = true ∧
        u.dev.pend = d.pend ++ [⟨d.now + 50, .resident (hn h) page.toNat, 1⟩] ∧
        (∃ f, f ∈ (pagerOf u.dev (hn h)).frames ∧ f.page = some page.toNat ∧
          f.data = pageBytes d.mem (imgBase d (hn h) + page.toNat * 2 ^ 18)) ∧
        keepsBut [.seq, .gov] d u.dev ∧ keepsRegs (fun _ => false) d u.dev)

/-- WAIT_TIMEOUT and UNWIND_RESUME. A strand held for more than LIMIT µs, gap time not counted, raises WAIT_TIMEOUT: the
first time in a step it aborts the step and the sequencers go on, the second time it stops them. An unwind whose
channels and contexts are done resumes at the address of the step's STEPB with no step open. -/
def Obligations.WatchdogAndResumption : Prop :=
  ∀ (t : Nat) (x : StrandId) (s : State), let d := observe s.dev t
    (∀ since gaps, (strandOf d x).held = some (since, gaps) → canIssue d = true → (strandOf d x).on = true →
      fget d (A.SEQ_WDOG 0) F.SEQ_WDOG_LIMIT ≠ 0 →
      since + (d.seq.gapTotal - gaps) + us (fget d (A.SEQ_WDOG 0) F.SEQ_WDOG_LIMIT) < d.now →
      (d.seq.wdogStep ≠ some (curStep d) →
        ∃ u, exec (.waitTimeout t x) s = .next u ∧ fget u.dev (A.SEQ_STS 0) F.SEQ_STS_EXC = 0x20 ∧
          u.dev.mach.abortStep = some (curStep d) ∧ blkState u.dev .seq = 1 ∧ u.dev.seq.wdogStep = some (curStep d) ∧
          (strandOf u.dev x).spc = (strandOf d x).spc ∧ keepsBut [.seq, .gov, .hst, .mach] d u.dev ∧
          keepsRegs (fun a => isReport a || a == A.SEQ_STS 0) d u.dev) ∧
      (d.seq.wdogStep = some (curStep d) →
        ∃ u, exec (.waitTimeout t x) s = .next u ∧ fget u.dev (A.SEQ_STS 0) F.SEQ_STS_EXC = 0x20 ∧
          blkState u.dev .seq = 2 ∧ fget u.dev (A.SEQ_CTL 0) F.EN = 0 ∧ (∀ y, (strandOf u.dev y).on = false))) ∧
    (blkState d .seq = 1 → d.seq.unwind = .resume → d.ril.unwinding = [] → aqdUnwound d = (d, true) →
      ∃ u, exec (.unwindResume t) s = .next u ∧ u.dev.seq.unwind = .no ∧ u.dev.seq.stepOpen = false ∧
        u.dev.seq.main.on = true ∧ u.dev.seq.main.spc = fget d (A.SEQ_STEP 0) F.SEQ_STEP_ADDR ∧
        u.dev.cas = d.cas ∧ u.dev.jet = d.jet ∧ u.dev.mem = d.mem)

/-! ### The cascade (04, 05) -/

/-- BCTL with OPEN, CLOSE, LOPEN and FINISH, when its tests pass. OPEN makes every tile it names OPEN and all zero. CLOSE
makes them CLOSED and leaves their contents. LOPEN makes all four tiles of a unit LADDER and all zero, with an empty
ladder of NLEV (at most 13) and BASE as in force. FINISH ends the ladder: all four tiles OPEN, tiles 1 to 3 zero. Tiles of
units and numbers it does not name keep state and, but for FINISH, contents. -/
def Obligations.BctlChangesTileStates : Prop :=
  ∀ (iss : Issue) (terr : BitVec 3) (umask : BitVec 8) (tmask : BitVec 4) (s : State), let d := settle (tick s.dev iss.t)
    let named := fun (k : Nat) => (maskUnits umask.toNat 8).any (fun u =>
      (maskUnits tmask.toNat 4).any (fun b => k == 4 * unitOf iss terr u + b))
    casReady d iss terr → umask ≠ 0 →
    ((∀ k, named k = true → tileState d k ≠ 2) →
      (∃ u, exec (.bctlOpen iss terr umask tmask) s = .next u ∧
        (∀ k, tileState u.dev k = if named k then 1 else tileState d k) ∧
        (∀ k x y, x < 128 → y < 128 → sget 0 (elemKey k x y) u.dev.cas.elems =
          if named k then 0 else sget 0 (elemKey k x y) d.cas.elems) ∧
        keepsBut [.cas] d u.dev ∧ keepsRegs isCounter d u.dev) ∧
      (∃ u, exec (.bctlClose iss terr umask tmask) s = .next u ∧
        (∀ k, tileState u.dev k = if named k then 0 else tileState d k) ∧ u.dev.cas.elems = d.cas.elems ∧
        keepsBut [.cas] d u.dev ∧ keepsRegs isCounter d u.dev)) ∧
    (tmask = 15#4 → (∀ u, u ∈ maskUnits umask.toNat 8 → (ladRegion d (unitOf iss terr u)).1 = 0 ∨
        inRes (8 * hn iss.half + terr.toNat % 8) (ladRegion d (unitOf iss terr u)).2
          ((ladRegion d (unitOf iss terr u)).1 * 0x20000) = true) →
      ∃ v, exec (.bctlLopen iss terr umask tmask) s = .next v ∧
        (∀ k, tileState v.dev k = if named k then 2 else tileState d k) ∧
        (∀ u, u ∈ maskUnits umask.toNat 8 → ladderOf v.dev (unitOf iss terr u) =
          some ⟨(ladRegion d (unitOf iss terr u)).1, (ladRegion d (unitOf iss terr u)).2, [], [], false⟩) ∧
        keepsBut [.cas] d v.dev ∧ keepsRegs isCounter d v.dev) ∧
    ((∀ u, u ∈ maskUnits umask.toNat 8 → (ladderOf d (unitOf iss terr u)).isSome = true) →
      ∃ v, exec (.bctlFinish iss terr umask tmask) s = .next v ∧
        (∀ u, u ∈ maskUnits umask.toNat 8 → ladderOf v.dev (unitOf iss terr u) = none ∧
          (∀ b, b < 4 → tileState v.dev (4 * unitOf iss terr u + b) = 1) ∧
          (∀ b x y, 1 ≤ b → b < 4 → x < 128 → y < 128 →
            sget 0 (elemKey (4 * unitOf iss terr u + b) x y) v.dev.cas.elems = 0)))

/-- LDS of a data base as the CAT entry gives it, its tests passed and no bank conflict: each unit's stationary buffer
holds the tile's elements, stored columns as rows with TR = 0 and stored rows as they stand with TR = 1; the buffer is in
use until Tload after the issue, with the entry's valid lengths. Memory stays as it is. -/
def Obligations.LdsLoadsStationaryBuffers : Prop :=
  ∀ (iss : Issue) (terr : BitVec 3) (umask : BitVec 8) (desc : BitVec 10) (buf : BitVec 1) (s : State)
    (e : TileEntry) (tile : Nat → TileAt), let d := settle (tick s.dev iss.t)
    let c := casCtx d iss terr (.lds umask desc buf 0#1)
    let us := maskUnits umask.toNat 8
    casReady d iss terr → umask ≠ 0 → casEntry d c desc.toNat = .ok e → (fmtWidth e.fmt).isSome = true →
    (isMx e.fmt = true → e.tr = false) →
    (∀ u, u ∈ us → sget 0 (c.uid u) d.cas.loadFree ≤ iss.t ∧ casOperand d c e e.base u u = .ok (tile u) ∧
      (∀ m, sfind (2 * c.uid u + buf.toNat) d.cas.sb = some m → m.readEnd ≤ iss.t)) →
    (rvrTimed d c.T (spread iss.t (tload e.fmt) (linesOf c.T ((us.map (fun u => tileRuns (tile u))).flatten)))).2 = [] →
      ∃ v, exec (.lds iss terr umask desc buf 0#1) s = .next v ∧
        (∀ u, u ∈ us → sfind (2 * c.uid u + buf.toNat) v.dev.cas.sb =
          some ⟨iss.t, iss.t + tload e.fmt, 0, e.fmt, e.klen, e.nlen⟩ ∧
          sget 0 (c.uid u) v.dev.cas.loadFree = iss.t + tload e.fmt ∧
          ∀ k n, k < 128 → n < 128 → sbElem v.dev (2 * c.uid u + buf.toNat) k n =
            tileElem d.mem (tile u) (if (tile u).tr then k * 128 + n else n * 128 + k)) ∧
        (∀ a, memGet v.dev.mem a = memGet d.mem a) ∧ v.dev.cas.elems = d.cas.elems ∧ v.dev.jet = d.jet

/-- MM, its tests passed and no bank conflict: every unit it names has one pass row for each streamed row, due 184 array
cycles after the issue and then at its rate, of the pass values over the valid contraction positions, +0 beyond NLEN. -/
def Obligations.MmQueuesItsPassRows : Prop :=
  ∀ (iss : Issue) (terr : BitVec 3) (umask : BitVec 8) (desc : BitVec 10) (rowsm1 : BitVec 7) (buf : BitVec 1)
    (bt acm : BitVec 2) (cmp gp : BitVec 1) (s : State) (e : TileEntry) (tile : Nat → TileAt) (sbm : Nat → SbMeta)
    (w : Nat), let d := settle (tick s.dev iss.t)
    let c := casCtx d iss terr (.mm umask desc rowsm1 buf bt acm cmp gp 0#1)
    let us := maskUnits umask.toNat 8
    let D := ((rowsm1.toNat + 1) * rate2 w false (cmp == 1#1) + 1) / 2
    casReady d iss terr → umask ≠ 0 → casEntry d c desc.toNat = .ok e → acm ≠ 3#2 → (isMx e.fmt = true → e.tr = false) →
    (∀ u, u ∈ us → casBuffer d c u buf.toNat = .ok (sbm u) ∧ casStream d c u = .ok () ∧
      casTarget d c u bt.toNat acm.toNat (cmp == 1#1) = .ok () ∧ casOperand d c e e.base u u = .ok (tile u)) →
    widthClass (e.fmt :: us.map (fun u => (sbm u).fmt)) = some w →
    (rvrTimed d c.T (spread iss.t D (linesOf c.T ((us.map (fun u =>
      rowRuns (tile u) (rowsm1.toNat + 1))).flatten)))).2 = [] →
      ∃ v, exec (.mm iss terr umask desc rowsm1 buf bt acm cmp gp 0#1) s = .next v ∧
        (∀ u x, u ∈ us → x ≤ rowsm1.toNat → ∃ r, r ∈ v.dev.cas.rows ∧ r.uid = c.uid u ∧ r.row = x ∧
          r.bt = bt.toNat ∧ r.acm = acm.toNat ∧ r.due = iss.t + 184 + x * rate2 w false (cmp == 1#1) / 2 ∧
          r.vals = (List.range 128).map (fun n => if n < (sbm u).nlen + 1 then
            pass w (cmp == 1#1) (products (fun k => decide (k ≤ e.klen) && decide (k ≤ (sbm u).klen))
              (operandElem d.mem (tile u) x) (sbElem d (2 * c.uid u + buf.toNat) · n)) else plain fzero)) ∧
        (∀ u, u ∈ us → sget 0 (c.uid u) v.dev.cas.streamFree = iss.t + D) ∧
        (∀ a, memGet v.dev.mem a = memGet d.mem a) ∧ v.dev.cas.elems = d.cas.elems

/-- OPA and TWF, their tests passed and no bank conflict. OPA: every unit it names has 128 outer-product rows, due from 56
array cycles after its stream ends. TWF: the even unit of every pair it names has one inner row for each streamed row, the
odd unit 128 outer-product rows. -/
def Obligations.OuterProductsQueueTheirRows : Prop :=
  (∀ (iss : Issue) (terr : BitVec 3) (umask : BitVec 8) (adesc bdesc : BitVec 10) (rowsm1 : BitVec 7)
    (bt acm : BitVec 2) (cmp gp : BitVec 1) (s : State) (ea eb : TileEntry) (ta tb : Nat → TileAt) (w : Nat),
    let d := settle (tick s.dev iss.t)
    let c := casCtx d iss terr (.opa umask adesc bdesc rowsm1 bt acm cmp gp 0#1)
    let us := maskUnits umask.toNat 8
    let D := ((rowsm1.toNat + 1) * rate2 w false (cmp == 1#1) + 1) / 2
    casReady d iss terr → umask ≠ 0 → casEntry d c adesc.toNat = .ok ea → casEntry d c bdesc.toNat = .ok eb →
    acm ≠ 3#2 → (isMx ea.fmt = true → ea.tr = true) → (isMx eb.fmt = true → eb.tr = true) →
    widthClass [ea.fmt, eb.fmt] = some w →
    (∀ u, u ∈ us → casStream d c u = .ok () ∧ casTarget d c u bt.toNat acm.toNat (cmp == 1#1) = .ok () ∧
      casOperand d c ea ea.base u u = .ok (ta u) ∧ casOperand d c eb eb.base u u = .ok (tb u)) →
    (rvrTimed d c.T (spread iss.t D (linesOf c.T ((us.map (fun u => rowRuns (ta u) (rowsm1.toNat + 1) ++
      rowRuns (tb u) (rowsm1.toNat + 1))).flatten)))).2 = [] →
      ∃ v, exec (.opa iss terr umask adesc bdesc rowsm1 bt acm cmp gp 0#1) s = .next v ∧
        (∀ u x, u ∈ us → x < 128 → ∃ r, r ∈ v.dev.cas.rows ∧ r.uid = c.uid u ∧ r.row = x ∧ r.bt = bt.toNat ∧
          r.acm = acm.toNat ∧ r.due = iss.t + 56 + D + x ∧
          r.vals = (List.range 128).map (fun y => pass w (cmp == 1#1)
            (products (fun k => decide (k < rowsm1.toNat + 1) && decide (k ≤ ea.klen) && decide (k ≤ eb.klen))
              (fun k => operandElem d.mem (ta u) k x) (fun k => operandElem d.mem (tb u) k y)))) ∧
        (∀ a, memGet v.dev.mem a = memGet d.mem a) ∧ v.dev.cas.elems = d.cas.elems) ∧
  (∀ (iss : Issue) (terr : BitVec 3) (pmask : BitVec 4) (gdesc xdesc : BitVec 10) (rowsm1 : BitVec 7) (buf : BitVec 1)
    (ebt eacm obt oacm : BitVec 2) (cmp : BitVec 1) (s : State) (eg ex : TileEntry) (tg tx : Nat → TileAt)
    (sbm : Nat → SbMeta) (w : Nat), let d := settle (tick s.dev iss.t)
    let c := casCtx d iss terr (.twf pmask gdesc xdesc rowsm1 buf ebt eacm obt oacm cmp)
    let ps := maskUnits pmask.toNat 4
    let D := ((rowsm1.toNat + 1) * rate2 w false (cmp == 1#1) + 1) / 2
    casReady d iss terr → pmask ≠ 0 → casEntry d c gdesc.toNat = .ok eg → casEntry d c xdesc.toNat = .ok ex →
    eacm ≠ 3#2 → oacm ≠ 3#2 → isMx eg.fmt = false → eg.tr = false → (isMx ex.fmt = true → ex.tr = true) →
    (∀ p, p ∈ ps → casBuffer d c (2 * p) buf.toNat = .ok (sbm p) ∧ casStream d c (2 * p) = .ok () ∧
      casStream d c (2 * p + 1) = .ok () ∧ casTarget d c (2 * p) ebt.toNat eacm.toNat (cmp == 1#1) = .ok () ∧
      casTarget d c (2 * p + 1) obt.toNat oacm.toNat (cmp == 1#1) = .ok () ∧
      casOperand d c eg eg.base p (2 * p) = .ok (tg p) ∧ casOperand d c ex ex.base p (2 * p + 1) = .ok (tx p)) →
    widthClass (eg.fmt :: ex.fmt :: ps.map (fun p => (sbm p).fmt)) = some w →
    (rvrTimed d c.T (spread iss.t D (linesOf c.T ((ps.map (fun p => rowRuns (tg p) (rowsm1.toNat + 1) ++
      rowRuns (tx p) (rowsm1.toNat + 1))).flatten)))).2 = [] →
      ∃ v, exec (.twf iss terr pmask gdesc xdesc rowsm1 buf ebt eacm obt oacm cmp) s = .next v ∧
        (∀ p x, p ∈ ps → x ≤ rowsm1.toNat → ∃ r, r ∈ v.dev.cas.rows ∧ r.uid = c.uid (2 * p) ∧ r.row = x ∧
          r.bt = ebt.toNat ∧ r.acm = eacm.toNat ∧ r.due = iss.t + 184 + x * rate2 w false (cmp == 1#1) / 2) ∧
        (∀ p x, p ∈ ps → x < 128 → ∃ r, r ∈ v.dev.cas.rows ∧ r.uid = c.uid (2 * p + 1) ∧ r.row = x ∧
          r.bt = obt.toNat ∧ r.acm = oacm.toNat ∧ r.due = iss.t + 56 + D + x) ∧
        (∀ a, memGet v.dev.mem a = memGet d.mem a) ∧ v.dev.cas.elems = d.cas.elems)

/-- BIN and BOUT. BIN queues for each row of each unit the tile's elements as A40 values, due 64 array cycles after the
issue and one cycle apart, added where ADD or a ladder asks for it. BOUT on one unit with no row on its way stores the
rows of the tile converted to the entry's format, in order, through the same row function the transfer uses, and nothing
else in memory. -/
def Obligations.BasinTransfersMoveRows : Prop :=
  ∀ (iss : Issue) (terr : BitVec 3) (desc : BitVec 10) (bt : BitVec 2) (s : State) (e : TileEntry) (tile : Nat → TileAt),
    let d := settle (tick s.dev iss.t)
    (∀ (umask : BitVec 8) (add : BitVec 1), let c := casCtx d iss terr (.bin umask desc bt add)
      let us := maskUnits umask.toNat 8
      casReady d iss terr → umask ≠ 0 → casEntry d c desc.toNat = .ok e → isIntFmt e.fmt = false →
      (isMx e.fmt = true → e.tr = false) → (∀ u, u ∈ us → binTest d c e bt.toNat u = .ok (tile u)) →
      (rvrTimed d c.T (basinAcc c.T (iss.t + 64) (us.map tile))).2 = [] →
        ∃ v, exec (.bin iss terr umask desc bt add) s = .next v ∧
          (∀ u x, u ∈ us → x < 128 → ∃ r, r ∈ v.dev.cas.rows ∧ r.uid = c.uid u ∧ r.row = x ∧ r.bt = bt.toNat ∧
            r.due = iss.t + 64 + x ∧ r.acm = (if (ladderOf d (c.uid u)).isSome then 2 else add.toNat) ∧
            r.vals = (List.range 128).map (fun y => plain (a40 (operandElem d.mem (tile u) x y)))) ∧
          (∀ a, memGet v.dev.mem a = memGet d.mem a) ∧ v.dev.cas.elems = d.cas.elems) ∧
    (∀ (u : Nat) (rnd : BitVec 2) (nfm gp : BitVec 1), u < 8 →
      let c := casCtx d iss terr (.bout (BitVec.ofNat 8 (2 ^ u)) desc bt rnd nfm gp)
      let row := fun (x : Nat) => convRow e.fmt (rndOf rnd.toNat) (nfm == 1#1) (basinRow d (4 * c.uid u + bt.toNat) x)
      casReady d iss terr → casEntry d c desc.toNat = .ok e → rnd.toNat < 2 → isIntFmt e.fmt = false →
      (isMx e.fmt = true → e.tr = false) → casOperand d c e e.base u u = .ok (tile u) →
      d.cas.rows.all (fun r => r.uid != c.uid u) = true →
      (rvrTimed d c.T (basinAcc c.T (iss.t + 24) [tile u])).2 = [] →
        ∃ v, exec (.bout iss terr (BitVec.ofNat 8 (2 ^ u)) desc bt rnd nfm gp) s = .next v ∧
          v.dev.mem = (List.range 128).foldl (fun m x => storeRow m (tile u) x (row x).1 (row x).2.1) d.mem ∧
          v.dev.cas.elems = d.cas.elems ∧ v.dev.jet = d.jet)

/-- ROOT and ROOT_COMPLETE. A ROOT whose operands lie in the terrace's reservoir, on CLOSED basins, is under way until
the time its NT, PC and NIT give, and reads its matrix then. Its completion ends it, stores the status, and leaves the
terrace's basins CLOSED and zero and its ladders and stationary buffers gone; other terraces keep theirs. -/
def Obligations.RootRunsAndClearsItsTerrace : Prop :=
  (∀ (iss : Issue) (terr : BitVec 3) (desc : BitVec 10) (nt pc : BitVec 2) (nit : BitVec 5) (gp : BitVec 1) (s : State)
    (e : TileEntry), let d := settle (tick s.dev iss.t)
    let c := casCtx d iss terr (.root 255#8 desc nt pc nit gp)
    let at' := (tileAt e e.base (tileM d c.s e 0)).data
    let n := 128 * (nt.toNat + 1)
    let ptr := fun (k : Nat) => bits (memNat d.mem (at'.toNat + 8 * k) 8) 41 0
    casReady d iss terr → casEntry d c desc.toNat = .ok e → pc ≠ 3#2 → at' % 64 = 0 → inResAt c.T at' 64 = true →
    inRes c.T (ptr 0) (4 * n * n) = true → inRes c.T (ptr 1) (4 * n * n) = true →
    inRes c.T (ptr 2) (12 * n * n) = true → inRes c.T (ptr 3) 32 = true →
    (∀ k, k < 32 → tileState d (4 * c.uid 0 + k) = 0) →
      ∃ v, exec (.root iss terr 255#8 desc nt pc nit gp) s = .next v ∧
        (∃ r, sfind c.T v.dev.cas.roots = some r ∧ r.issued = iss.t ∧
          r.ends = iss.t + rootTime nt.toNat pc.toNat nit.toNat ∧ r.aaddr = ptr 0 ∧ r.oaddr = ptr 1 ∧ r.saddr = ptr 3 ∧
          r.input = (List.range (n * n)).map (fun i => memNat d.mem (ptr 0 + 4 * i) 4)) ∧
        (∀ a, memGet v.dev.mem a = memGet d.mem a) ∧ v.dev.cas.elems = d.cas.elems) ∧
  (∀ (half : Half) (terr : BitVec 3) (s : State) (r : RootRun), let T := 8 * hn half + terr.toNat
    sfind T s.dev.cas.roots = some r → r.saddr % 8 = 0 →
      ∃ v, exec (.rootComplete half terr) s = .next v ∧ sfind T v.dev.cas.roots = none ∧
        v.dev.now = max s.dev.now r.ends ∧
        (∀ k, k < 32 → tileState v.dev (32 * T + k) = 0) ∧
        (∀ k x y, k < 32 → x < 128 → y < 128 → sget 0 (elemKey (32 * T + k) x y) v.dev.cas.elems = 0) ∧
        (∀ u, u < 8 → ladderOf v.dev (8 * T + u) = none ∧ sfind (2 * (8 * T + u)) v.dev.cas.sb = none ∧
          sfind (2 * (8 * T + u) + 1) v.dev.cas.sb = none) ∧
        (∀ k, k / 32 ≠ T → tileState v.dev k = tileState s.dev k) ∧ v.dev.jet = s.dev.jet ∧
        bits (memNat v.dev.mem r.saddr 8) 11 8 = (rootCompute r).1 % 16)

/-- BASIN_ROW_APPLY and BASIN_WINDOW_WRITE. A WRITE row that reaches its OPEN tile replaces the tile's row by its values
in A40; one that reaches a tile in another state is discarded. A byte written through the window into a CLOSED tile is
read back in bytes 0 to 4 of an element; in any other tile nothing is stored and BASIN_BUSY is raised. -/
def Obligations.BasinsTakeRowsAndWindowWrites : Prop :=
  (∀ (uid : BitVec 7) (s : State) (r : RowApp), s.dev.cas.rows = [r] → r.uid = uid.toNat → r.bt < 4 → r.row < 128 →
    r.vals.length = 128 → r.acm = 0 → r.pdt = [] →
    (tileState s.dev (4 * r.uid + r.bt) = 1 →
      ∃ v, exec (.basinRowApply uid) s = .next v ∧ v.dev.cas.rows = [] ∧ v.dev.now = max s.dev.now r.due ∧
        (∀ y (h : y < r.vals.length), sget 0 (elemKey (4 * r.uid + r.bt) r.row y) v.dev.cas.elems =
          encA40 (pairOut r.comp r.vals[y])) ∧
        (∀ k, k / 128 ≠ (4 * r.uid + r.bt) * 128 + r.row → sget 0 k v.dev.cas.elems = sget 0 k s.dev.cas.elems) ∧
        keepsBut [.clock, .cas] s.dev v.dev ∧ keepsRegs isClock s.dev v.dev) ∧
    (tileState s.dev (4 * r.uid + r.bt) ≠ 1 →
      ∃ v, exec (.basinRowApply uid) s = .next v ∧ v.dev.cas.rows = [] ∧ v.dev.cas.elems = s.dev.cas.elems ∧
        keepsBut [.clock, .cas] s.dev v.dev ∧ keepsRegs isClock s.dev v.dev)) ∧
  (∀ (off : BitVec 26) (b : Byte) (s : State), let a := 0x3FC00000000 + off.toNat
    let k := off.toNat / 0x20000
    s.dev.cas.rows = [] →
    (tileState s.dev k = 0 →
      ∃ v, exec (.basinWindowWrite off [b]) s = .next v ∧
        windowByte v.dev a = (if off.toNat % 8 < 5 then b else windowByte s.dev a) ∧
        (∀ o, o < 2 ^ 26 → o ≠ off.toNat → o % 8 < 5 →
          windowByte v.dev (0x3FC00000000 + o) = windowByte s.dev (0x3FC00000000 + o)) ∧
        keepsBut [.cas] s.dev v.dev ∧ keepsRegs (fun _ => false) s.dev v.dev) ∧
    (tileState s.dev k ≠ 0 →
      ∃ v, exec (.basinWindowWrite off [b]) s = .next v ∧ v.dev.cas = s.dev.cas ∧
        fget v.dev (A.CAS_STS (k / 256)) F.CAS_STS_EXC = 0x48 ∧
        fget v.dev (A.CAS_STS (k / 256)) F.CAS_STS_UNIT = k / 4 % 8 ∧
        keepsBut [.hst] s.dev v.dev ∧
        keepsRegs (fun x => isReport x || x == A.CAS_STS (k / 256)) s.dev v.dev))

/-! ### The jets (06) -/

/-- ALU, CVT, TAB, DER and RSR, RUNNING and with legal fields: the register named takes, at the time the op's duration
gives, the value of each lane computed from the registers, tables or row states at issue; until then the register bytes
stay as they are. Memory, row states and tables are left alone. -/
def Obligations.JetOpsDeliverTheirRegister : Prop :=
  ∀ (iss : Issue) (terr : BitVec 3) (s : State), let d := settle (tick s.dev iss.t)
    let T := 8 * hn iss.half + terr.toNat % 8
    let lands := fun (c : Instr) (vd due : Nat) (bs : List Byte) => ∃ u, exec c s = .next u ∧
      u.dev.jet.lands = d.jet.lands ++ [⟨due, some (32 * T + vd, bs), none, []⟩] ∧ u.dev.jet.bytes = d.jet.bytes ∧
      u.dev.jet.rows = d.jet.rows ∧ u.dev.jet.kinds = d.jet.kinds ∧ u.dev.jet.tables = d.jet.tables ∧
      keepsBut [.jet, .mach, .hst] d u.dev ∧ keepsRegs (jetReports iss.half) d u.dev
    running d (.jet iss.half) = true → iss.ecc = [] →
    (∀ vd va vb vc fn w gp, aluLegal fn.toNat w.toNat = true →
      lands (.alu iss terr vd va vb vc fn w gp) vd.toNat (iss.t + if fn = 6#4 ∨ fn = 7#4 then 40 else 12)
        (codesBytes w.toNat (((vecCodes d T va.toNat w.toNat).zip ((vecCodes d T vb.toNat w.toNat).zip
          (vecCodes d T vc.toNat w.toNat))).map (fun p => aluLane fn.toNat w.toNat p.1 p.2.1 p.2.2)))) ∧
    (∀ vd va ws wd rnd nfm gp, rnd.toNat < 2 →
      let n := min (laneCount ws.toNat) (laneCount wd.toNat)
      lands (.cvt iss terr vd va ws wd rnd nfm gp) vd.toNat (iss.t + 12)
        (codesBytes wd.toNat (((vecVals d T va.toNat ws.toNat).take n).map
          (fun v => (convTo (laneFmt wd.toNat) (rndOf rnd.toNat) (nfm == 1#1) v).code) ++
          List.replicate (laneCount wd.toNat - n) 0))) ∧
    (∀ vd va tsel gp, tsel ≠ 2#3 → tsel ≠ 3#3 →
      lands (.tab iss terr vd va tsel gp) vd.toNat (iss.t + 24)
        (codesBytes 0 ((vecVals d T va.toNat 0).map (fun x => enc32 (tabLane d T tsel.toNat x))))) ∧
    (∀ vd vx vg, lands (.der iss terr vd vx vg) vd.toNat (iss.t + 24)
        (codesBytes 0 (((vecVals d T vx.toNat 0).zip (vecVals d T vg.toNat 0)).map
          (fun p => enc32 (f32 (fmul (tabEval (loadedTable d T 1) p.1) p.2)))))) ∧
    (∀ vd bank rg what, lands (.rsr iss terr vd bank rg what) vd.toNat (iss.t + 60)
        (codesBytes 0 (((List.range 16).map (fun i => let p := rowState d T bank.toNat (16 * rg.toNat + i)
          List.replicate 128 (enc32 (f32 (if what = 0#1 then p.1 else p.2))))).flatten)))

/-- RED and RSLD, RUNNING and with legal fields, give the sixteen rows of the group their new states and the group its
kind, from the empty state with INIT = 1 and from the states in force otherwise (RSLD: with MRG = 1 merged into them);
every other row and the registers stay as they are. A RED or a merge into a group of another kind changes no row and is
reported as JET_STATE. -/
def Obligations.RowStatesAreReducedLoadedAndMerged : Prop :=
  ∀ (iss : Issue) (terr : BitVec 3) (bank : BitVec 2) (rg : BitVec 3) (rk : BitVec 2) (gp : BitVec 1) (s : State),
    let d := settle (tick s.dev iss.t)
    let T := 8 * hn iss.half + terr.toNat % 8
    let r0 := fun (i : Nat) => rowKey T bank.toNat (16 * rg.toNat + i)
    let rowsAre := fun (u : State) (q : Nat → FVal × FVal) =>
      (∀ i, i < 16 → sget 0 (r0 i) u.dev.jet.rows = encA40 (q i).1 ∧ sget 0 (r0 i + 1) u.dev.jet.rows = encA40 (q i).2) ∧
      (∀ k, k < r0 0 ∨ r0 0 + 32 ≤ k → sget 0 k u.dev.jet.rows = sget 0 k d.jet.rows) ∧
      groupKind u.dev T bank.toNat rg.toNat = rk.toNat + 1 ∧ u.dev.jet.bytes = d.jet.bytes ∧
      u.dev.jet.lands = d.jet.lands ∧ u.dev.jet.tables = d.jet.tables ∧
      keepsBut [.jet, .mach, .hst, .rvrUse] d u.dev ∧ keepsRegs (jetReports iss.half) d u.dev
    running d (.jet iss.half) = true → iss.ecc = [] → rk ≠ 3#2 →
    (∀ (va vb : BitVec 5) (init : BitVec 1), (init = 1#1 ∨ groupKind d T bank.toNat rg.toNat = rk.toNat + 1) →
      ∃ u, exec (.red iss terr va vb bank rg rk init gp) s = .next u ∧ rowsAre u (fun i =>
        (redRow rk.toNat (if init = 1#1 then emptyRow rk.toNat else rowState d T bank.toNat (16 * rg.toNat + i))
          ((chunks 128 16 (vecVals d T va.toNat 0)).getD i []) ((chunks 128 16 (vecVals d T vb.toNat 0)).getD i [])).1)) ∧
    (∀ (va vb : BitVec 5), groupKind d T bank.toNat rg.toNat ≠ rk.toNat + 1 →
      ∃ u, exec (.red iss terr va vb bank rg rk 0#1 gp) s = .next u ∧ u.dev.jet = d.jet ∧ u.dev.mem = d.mem ∧
        fget u.dev (A.JET_STS (hn iss.half)) F.JET_STS_EXC = 0x53) ∧
    (∀ (desc : BitVec 10) (mrg : BitVec 1) (a : Nat),
      rowEntry d (jetCtx d iss terr.toNat (encodeJet (.rsld bank rg desc rk mrg gp)).toNat) desc.toNat rg.toNat = .ok a →
      (mrg = 0#1 ∨ groupKind d T bank.toNat rg.toNat = rk.toNat + 1) → sget 0 T d.jet.portFree ≤ iss.t →
      (rvrTimed d T (spread iss.t 2 (linesOf T ([(a, 256)].filter (fun r => inRes T r.1 r.2))))).2 = [] →
      let v := fun (k : Nat) => decA40 (leNat ((range' (a + 8 * k) 8).map (jetByte d d.mem)))
      ∃ u, exec (.rsld iss terr bank rg desc rk mrg gp) s = .next u ∧ rowsAre u (fun i =>
        if mrg = 1#1 then mergeRow rk.toNat (rowState d T bank.toNat (16 * rg.toNat + i)) (v (2 * i), v (2 * i + 1))
        else (v (2 * i), v (2 * i + 1))))

/-- JLD, TSUM and TLD read memory and JST and RSST store to it: with their tests passed, the port free and no bank
conflict, the result is under way to land after the op's duration, computed from the memory and registers at issue: a
register for JLD and TSUM, a function table for TLD, byte runs at the addresses that the entry gives for JST and RSST.
Memory does not change before the landing. -/
def Obligations.JetMemoryOpsDeliverTheirResults : Prop :=
  ∀ (iss : Issue) (terr : BitVec 3) (desc : BitVec 10) (s : State) (e : TileEntry), let d := settle (tick s.dev iss.t)
    let T := 8 * hn iss.half + terr.toNat % 8
    let cx := fun (op : JetOp) => jetCtx d iss terr.toNat (encodeJet op).toNat
    let clear := fun (hold : Nat) (runs : List (Nat × Nat)) => sget 0 T d.jet.portFree ≤ iss.t ∧
      (rvrTimed d T (spread iss.t hold (linesOf T (runs.filter (fun r => inRes T r.1 r.2))))).2 = []
    let lands := fun (c : Instr) (hold : Nat) (l : JetLand) => ∃ u, exec c s = .next u ∧
      u.dev.jet.lands = d.jet.lands ++ [l] ∧ u.dev.jet.bytes = d.jet.bytes ∧ u.dev.jet.rows = d.jet.rows ∧
      u.dev.jet.kinds = d.jet.kinds ∧ u.dev.jet.tables = d.jet.tables ∧ sget 0 T u.dev.jet.portFree = iss.t + hold ∧
      keepsBut [.jet, .mach, .hst, .rvrUse] d u.dev ∧ keepsRegs (jetReports iss.half) d u.dev
    running d (.jet iss.half) = true → iss.ecc = [] →
    (∀ vd rg w rnd nfm t, let n := laneSegs w.toNat
      jetEntry d (cx (.jld vd desc rg w rnd nfm)) desc.toNat = .ok e → rnd.toNat < 2 → rgOk w.toNat rg.toNat = true →
      widthFits e.fmt w.toNat = true → jetTile d (cx (.jld vd desc rg w rnd nfm)) e e.base n rg.toNat = .ok t →
      clear (portHold e.fmt) (groupRuns e t.data.toNat t.scale.toNat n rg.toNat) →
      lands (.jld iss terr vd desc rg w rnd nfm) (portHold e.fmt) ⟨iss.t + 32, some (32 * T + vd.toNat,
        codesBytes w.toNat ((groupVals d d.mem e t n rg.toNat).map
          (fun v => (convTo (laneFmt w.toNat) (rndOf rnd.toNat) (nfm == 1#1) v).code))), none, []⟩) ∧
    (∀ vs rg w rnd nfm gp t, let n := laneSegs w.toNat
      jetEntry d (cx (.jst vs desc rg w rnd nfm gp)) desc.toNat = .ok e → rnd.toNat < 2 → rgOk w.toNat rg.toNat = true →
      widthFits e.fmt w.toNat = true → jetTile d (cx (.jst vs desc rg w rnd nfm gp)) e e.base n rg.toNat = .ok t →
      clear (portHold e.fmt) (groupRuns e t.data.toNat t.scale.toNat n rg.toNat) →
      lands (.jst iss terr vs desc rg w rnd nfm gp) (portHold e.fmt) ⟨iss.t + 32, none, none, storeRuns e t n rg.toNat
        ((chunks 128 n (vecVals d T vs.toNat w.toNat)).map (fun r =>
          let q := convRow e.fmt (rndOf rnd.toNat) (nfm == 1#1) r
          (q.1, q.2.1)))⟩) ∧
    (∀ bank rg a, rowEntry d (cx (.rsst bank rg desc)) desc.toNat rg.toNat = .ok a → clear 2 [(a, 256)] →
      lands (.rsst iss terr bank rg desc) 2 ⟨iss.t + 64, none, none, [(a, ((List.range 16).map (fun i =>
        let p := rowState d T bank.toNat (16 * rg.toNat + i)
        leBytes 8 (encA40 p.1) ++ leBytes 8 (encA40 p.2))).flatten)]⟩) ∧
    (∀ (tgt : BitVec 1) a, jetEntry d (cx (.tld tgt desc)) desc.toNat = .ok e → e.fmt = 0 → e.bc = false → e.tr = false →
      jetAt d (cx (.tld tgt desc)) e 1024 0 16448 = .ok a →
      (let b := (range' a 64).map (jetByte d d.mem)
       ¬ signed 8 (leAt b 4 1) < -126 ∧ signed 8 (leAt b 4 1) ≤ 100 ∧ leAt b 5 3 = 0 ∧ leAt b 28 36 = 0) →
      clear 6 [(a, 16448)] →
      lands (.tld iss terr tgt desc) 6
        ⟨iss.t + 48, none, some (2 * T + tgt.toNat, (range' a 16448).map (jetByte d d.mem)), []⟩) ∧
    (∀ vd rg (nb : BitVec 4) gp (ts : List TileAt), let n := nb.toNat + 1
      jetEntry d (cx (.tsum vd desc rg nb gp)) desc.toNat = .ok e → nb ≠ 0 → isMx e.fmt = false → e.bc = false →
      ts.length = n → (∀ b (h : b < ts.length), jetTile d (cx (.tsum vd desc rg nb gp)) e
        ((e.base : Int) + (b : Int) * e.bstr * (unitBytes e.fmt : Int)) 16 rg.toNat = .ok ts[b]) →
      clear (n * portHold e.fmt) ((ts.map (fun t => groupRuns e t.data.toNat t.scale.toNat 16 rg.toNat)).flatten) →
      lands (.tsum iss terr vd desc rg nb gp) (n * portHold e.fmt) ⟨iss.t + 32 + n * portHold e.fmt,
        some (32 * T + vd.toNat, codesBytes 0 ((List.range 2048).map (fun i => enc32 (f32 (tree false (padLog n)
          ((ts.map (fun t => plain ((groupVals d d.mem e t 16 rg.toNat).getD i fzero))) ++
            List.replicate (2 ^ padLog n - n) (plain fzero))).h)))), none, []⟩)
/-! ### The rills (07) -/

/-- COMMIT, RELEASE and SEND with a header of their own, on a RUNNING context of the right kind, with nothing waiting at
the command ports and their tests passed. COMMIT stores the 64-byte header of slab DONE and counts it issued, done and
produced; to a ring of the other half it is issued, and the header, PROD and DONE follow 24 sc later. RELEASE counts slabs consumed and freed, and an RX context sends its peer the credit. SEND reads its source and
sends header and slab to the peer. SLABNEXT follows the slab, MBNEXT counts on with LAST. -/
def Obligations.RillCommandsTakeEffect : Prop :=
  (∀ (iss : Issue) (port : BitVec 1) (rill : BitVec 12) (s : State), let d := landCommits (settle (tick s.dev iss.t))
    let n := rill.toNat
    let q := 2 * hn iss.half + port.toNat
    let p := liveGet d (A.RIL_PEER n) F.RIL_PEER_PORT
    let x := portOf d p
    rilIdle d → running d (.ril n) = true → d.ms.marks = [] → quiet d →
    (∀ (first last : BitVec 1), let hdr := headerAt d n (rilDone d n)
      let slab := if first = 1#1 then 0 else fget d (A.RIL_GEN n) F.RIL_GEN_SLABNEXT
      rilKind d n = 0 → rilPortOk d q n false = true → signed 32 (sub32 (rilDone d n) (rilFreed d n)) < rilSlots d n →
      cltEntry d d.mach.armed = none → ringHalf d n = hn iss.half → inOneMemory d hdr 64 = true →
      ∃ u, exec (.commit iss port rill 0#12 1#1 first last) s = .next u ∧
        rilProd u.dev n = (rilProd d n + 1) % 2 ^ 32 ∧ rilIssued u.dev n = (rilIssued d n + 1) % 2 ^ 32 ∧
        rilDone u.dev n = (rilDone d n + 1) % 2 ^ 32 ∧ rilFreed u.dev n = rilFreed d n ∧
        fget u.dev (A.RIL_GEN n) F.RIL_GEN_SLABNEXT = (slab + 1) % 2 ^ 16 ∧
        fget u.dev (A.RIL_GEN n) F.RIL_GEN_MBNEXT =
          (fget d (A.RIL_GEN n) F.RIL_GEN_MBNEXT + if last = 1#1 then 1 else 0) % 2 ^ 24 ∧
        memRead u.dev.mem hdr 64 = makeHeader d n (first == 1#1) (last == 1#1)
          (fget d (A.RIL_GEN n) F.RIL_GEN_MBNEXT + curStep d <<< 32) (newTag d) slab ∧
        (∀ a, a < hdr ∨ hdr + 64 ≤ a → memGet u.dev.mem a = memGet d.mem a) ∧
        keepsBut [.mem, .ms, .ril, .gov] d u.dev ∧ keepsRegs (isRill n) d u.dev) ∧
    (∀ (first last : BitVec 1), let slab := if first = 1#1 then 0 else fget d (A.RIL_GEN n) F.RIL_GEN_SLABNEXT
      rilKind d n = 0 → rilPortOk d q n false = true → signed 32 (sub32 (rilDone d n) (rilFreed d n)) < rilSlots d n →
      cltEntry d d.mach.armed = none → ringHalf d n ≠ hn iss.half →
      ∃ u, exec (.commit iss port rill 0#12 1#1 first last) s = .next u ∧
        u.dev.ril.cross = [⟨d.now + 48, n, makeHeader d n (first == 1#1) (last == 1#1)
          (fget d (A.RIL_GEN n) F.RIL_GEN_MBNEXT + curStep d <<< 32) (newTag d) slab⟩] ∧
        rilProd u.dev n = rilProd d n ∧ rilIssued u.dev n = (rilIssued d n + 1) % 2 ^ 32 ∧ rilDone u.dev n = rilDone d n ∧
        fget u.dev (A.RIL_GEN n) F.RIL_GEN_SLABNEXT = (slab + 1) % 2 ^ 16 ∧
        keepsBut [.ril, .gov] d u.dev ∧ keepsRegs (isRill n) d u.dev) ∧
    (∀ (cnt : BitVec 8), let k := cnt.toNat + 1
      rilKind d n ≤ 1 → rilPortOk d q n true = true → (k : Int) ≤ signed 32 (sub32 (rilProd d n) (rilFreed d n)) →
      (rilKind d n = 1 → carries d p 0 = true) →
      ∃ u, exec (.release iss port rill cnt) s = .next u ∧
        rilCons u.dev n = (rilCons d n + k) % 2 ^ 32 ∧ rilFreed u.dev n = (rilFreed d n + k) % 2 ^ 32 ∧
        rilProd u.dev n = rilProd d n ∧ rilIssued u.dev n = rilIssued d n ∧
        (portOf u.dev p).queue = (if rilKind d n = 1 then
          x.queue ++ [⟨x.nextId, rilMsg d n 1 (rilRungen d n) k [], 0, some n⟩] else x.queue) ∧
        keepsBut [.ports, .ril, .gov] d u.dev ∧ keepsRegs (isRill n) d u.dev) ∧
    (∀ (desc : BitVec 10) (first last : BitVec 1) (a : Nat),
      let slab := if first = 1#1 then 0 else fget d (A.RIL_GEN n) F.RIL_GEN_SLABNEXT
      let op : RilOp := .send rill desc 0#12 1#1 first last
      rilKind d n = 2 → rilPortOk d q n false = true →
      sendSource d (hn iss.half) n ⟨encodeRil op, (strandOf d iss.strand).lastSpc, strandCode iss.strand, true,
        rilRungen d n, rilStride d (hn iss.half) iss.strand desc.toNat, 0, newTag d, curStep d⟩ = .ok a →
      1 ≤ signed 32 (sub32 (rilGrant d n) (sget 0 n d.ril.started)) →
      (d.ril.sends.filter (fun e => e.2 == q)).length < 8 → carries d p 0 = true →
      ∃ u, exec (.send iss port rill desc 0#12 1#1 first last) s = .next u ∧
        rilIssued u.dev n = (rilIssued d n + 1) % 2 ^ 32 ∧ rilGrant u.dev n = rilGrant d n ∧
        u.dev.ril.sends = d.ril.sends ++ [(n, q)] ∧
        (portOf u.dev p).queue = x.queue ++ [⟨x.nextId, rilMsg d n 0 (rilEpoch d n) 0
          (makeHeader d n (first == 1#1) (last == 1#1) (fget d (A.RIL_GEN n) F.RIL_GEN_MBNEXT + curStep d <<< 32)
            (newTag d) slab ++ memRead d.mem a (rilSize d n)), 0, some n⟩] ∧
        fget u.dev (A.RIL_GEN n) F.RIL_GEN_SLABNEXT = (slab + 1) % 2 ^ 16 ∧
        keepsBut [.ports, .ms, .ril, .gov] d u.dev ∧ keepsRegs (isRill n) d u.dev)) ∧
  (∀ (t : Nat) (s : State) (e : RilCross), let d := tick s.dev t
    let n := e.ctx
    let hdr := headerAt d n (rilDone d n)
    n < 4096 → d.ril.cross = [e] → e.due ≤ d.now → e.header.length = 64 → inOneMemory d hdr 64 = true → d.ms.marks = [] →
    d.now < e.due + 50 → d.pend = [] →
    ∃ u, exec (.stateObservation t) s = .next u ∧ u.dev.ril.cross = [] ∧ rilProd u.dev n = (rilProd d n + 1) % 2 ^ 32 ∧
      rilDone u.dev n = (rilDone d n + 1) % 2 ^ 32 ∧ memRead u.dev.mem hdr 64 = e.header ∧
      (∀ a, a < hdr ∨ hdr + 64 ≤ a → memGet u.dev.mem a = memGet d.mem a) ∧ u.dev.obs = d.obs ∧
      keepsBut [.mem, .ms, .ril, .gov] d u.dev ∧ keepsRegs (isRill n) d u.dev)

/-- SLAB, CRED and OPEN that reach a RUNNING context of the right kind with the epoch it expects, SEND_DONE and RIL_STALL,
with nothing waiting at the command ports but the head that stalls. A slab from the peer is stored with its header in slot
PROD, which counts on. A CRED adds to GRANT. An OPEN of the same geometry gives its epoch and a whole ring of credits, and
binds the context. A SEND with no flit left counts as done. A head that has waited longer than STALL is reported once and
aborts the step. -/
def Obligations.RillMessagesMoveTheCounts : Prop :=
  ∀ (t : Nat) (s : State), let d := observe s.dev t
    d.ms.marks = [] →
    (∀ (port : BitVec 3) (m : Msg), let n := bits m.w1 11 0
      let frame := fun (u : State) => keepsBut [.mem, .ports, .ms, .ril, .gov] d u.dev ∧
        keepsRegs (fun a => isRill n a || isVc port.toNat a || a == A.RIL_CSTS n) d u.dev
      rilIdle d → running d (.ril n) = true →
      (arrives d port.toNat { m with mtype := 0 } → let k := rilProd d n
        let src := leAt m.data 16 8
        rilKind d n = 1 → bits m.w1 47 32 = rilRungen d n →
        bits src 13 0 = liveGet d (A.RIL_PEER n) F.RIL_PEER_CHIP →
        bits src 27 16 = liveGet d (A.RIL_PEER n) F.RIL_PEER_RILL →
        sub32 k (rilFreed d n) ≠ rilSlots d n → m.data.length = 64 + rilSize d n →
        inOneMemory d (slabAt d n k) (rilSize d n) = true → inOneMemory d (headerAt d n k) 64 = true →
        ∃ u, exec (.slabArrival t port m) s = .next u ∧ rilProd u.dev n = (k + 1) % 2 ^ 32 ∧
          memRead u.dev.mem (slabAt d n k) (rilSize d n) = m.data.drop 64 ∧
          memRead u.dev.mem (headerAt d n k) 64 = m.data.take 64 ∧
          (∀ a, (a < slabAt d n k ∨ slabAt d n k + rilSize d n ≤ a) → (a < headerAt d n k ∨ headerAt d n k + 64 ≤ a) →
            memGet u.dev.mem a = memGet d.mem a) ∧ rilCons u.dev n = rilCons d n ∧ frame u) ∧
      (arrives d port.toNat { m with mtype := 1 } → rilKind d n = 2 → bits m.w1 47 32 = rilEpoch d n →
        fget d (A.RIL_CSTS n) F.RIL_CSTS_BOUND = 1 →
        ∃ u, exec (.credArrival t port m) s = .next u ∧ rilGrant u.dev n = (rilGrant d n + bits m.w2 8 0) % 2 ^ 32 ∧
          (∀ a, memGet u.dev.mem a = memGet d.mem a) ∧ frame u) ∧
      (arrives d port.toNat { m with mtype := 2 } → rilKind d n = 2 → bits m.w1 47 32 ≠ rilEpoch d n →
        fget d (A.RIL_CSTS n) F.RIL_CSTS_BOUND = 0 → bits m.w2 3 0 = liveGet d (A.RIL_CCTL n) F.RIL_CCTL_LOGN →
        bits m.w2 12 8 = liveGet d (A.RIL_CCTL n) F.RIL_CCTL_LOGSZ →
        ∃ u, exec (.openArrival t port m) s = .next u ∧ rilEpoch u.dev n = bits m.w1 47 32 ∧
          rilGrant u.dev n = rilSlots d n ∧ fget u.dev (A.RIL_CSTS n) F.RIL_CSTS_BOUND = 1 ∧
          (∀ a, memGet u.dev.mem a = memGet d.mem a) ∧ frame u)) ∧
    (∀ (ctx : BitVec 12) (q : Nat), rilIdle d → d.ril.sends = [(ctx.toNat, q)] →
      (∀ p, p < 9 → (portOf d p).queue.all (fun o => o.ctx != some ctx.toNat) = true) →
      ∃ u, exec (.sendDone t ctx) s = .next u ∧ u.dev.ril.sends = [] ∧
        rilDone u.dev ctx.toNat = (rilDone d ctx.toNat + 1) % 2 ^ 32 ∧ rilIssued u.dev ctx.toNat = rilIssued d ctx.toNat ∧
        keepsBut [.ril, .gov] d u.dev ∧ keepsRegs (these [A.RIL_CNTC ctx.toNat]) d u.dev) ∧
    (∀ (half : Half) (port : BitVec 1) (c : RilCmd) (rest : List RilCmd) (w : Nat), let q := 2 * hn half + port.toNat
      rilQueue d q = c :: rest → sget 0 q d.ril.waits = w + 1 → sget 0 q d.ril.said = 0 →
      w + us (fget d A.RIL_TMO F.RIL_TMO_STALL) < d.now →
      ∃ u, exec (.rilStall t half port) s = .next u ∧ fget u.dev A.RIL_STS F.RIL_STS_EXC = 0x6B ∧
        fget u.dev A.RIL_STS F.RIL_STS_CTX = rcRill c ∧ sget 0 q u.dev.ril.said = 1 ∧
        u.dev.mach.abortStep = some (curStep d) ∧ rilQueue u.dev q = c :: rest ∧
        keepsBut [.ril, .mach, .hst, .gov] d u.dev ∧
        keepsRegs (fun a => isReport a || these [A.RIL_STS, A.RIL_CSTS (rcRill c)] a) d u.dev)
/-! ### The ephemeris (08) -/

/-- RES, HOLD, DROP, LAG and FLOOR with the ephemeris RUNNING. A resolution gives the base of the slot it found to the ops
of its half-word, HOLD adds one to the slot's count and DROP takes one; counts of other slots stay. A failing one gives no
base, changes no slot and is reported. LAG and FLOOR of half A set LAG and the pending floor, and leave the floor. -/
def Obligations.EphemerisResolvesAndCounts : Prop :=
  ∀ (iss : Issue) (desc : BitVec 10) (s : State), let d := landCommits (settle (tick s.dev iss.t))
    let h := hn iss.half
    running d .eph = true →
    (∀ r, ephResolve d h iss.strand desc.toNat = .ok r →
      let gives := fun (c : Instr) (rc : Nat) => ∃ u, exec c s = .next u ∧
        sfind h u.dev.ephRes = some ⟨iss.t, some (slotBase d r.k), false⟩ ∧ slotRc u.dev r.k = rc ∧
        (∀ k, k < 16384 → k ≠ r.k → slotRc u.dev k = slotRc d k) ∧
        (∀ k, k < 16384 → slotTag u.dev k = slotTag d k) ∧ keepsBut [.ephRes] d u.dev ∧
        keepsRegs (fun a => isSlot a || these [A.EPH_HOLDS, A.EPH_DROPS] a) d u.dev
      gives (.res iss desc) (slotRc d r.k) ∧
      (slotRc d r.k < 65535 → gives (.hold iss desc) (slotRc d r.k + 1)) ∧
      (0 < slotRc d r.k → gives (.drop iss desc) (slotRc d r.k - 1))) ∧
    (∀ f, ephResolve d h iss.strand desc.toNat = .error f → ∀ c, (c = .res iss desc ∨ c = .hold iss desc ∨ c = .drop iss desc) →
      ∃ u, exec c s = .next u ∧ sfind h u.dev.ephRes = some ⟨iss.t, none, true⟩ ∧
        fget u.dev A.EPH_STS F.EPH_STS_EXC = f.number ∧ (∀ k, k < 16384 → regGet u.dev (A.EPH_SLOT k) = regGet d (A.EPH_SLOT k)) ∧
        (∀ a, memGet u.dev.mem a = memGet d.mem a)) ∧
    (∀ (arg : BitVec 3), iss.half = .A → arg.toNat ≤ ephSmax d →
      ∃ u, exec (.lag iss arg) s = .next u ∧ fget u.dev A.EPH_TAG F.EPH_TAG_LAG = arg.toNat ∧
        fget u.dev A.EPH_TAG F.EPH_TAG_FTAG = fget d A.EPH_TAG F.EPH_TAG_FTAG ∧
        fget u.dev A.EPH_TAG F.EPH_TAG_PFTAG = fget d A.EPH_TAG F.EPH_TAG_PFTAG ∧
        keepsBut [.ephRes] d u.dev ∧ keepsRegs (these [A.EPH_TAG]) d u.dev) ∧
    (∀ (k : BitVec 3), iss.half = .A → let floor := (curStep d + 1 + 65536 - k.toNat) % 65536
      ∃ u, exec (.floor iss k) s = .next u ∧ fget u.dev A.EPH_TAG F.EPH_TAG_PFV = 1 ∧
        fget u.dev A.EPH_TAG F.EPH_TAG_PFTAG = (if fget d A.EPH_TAG F.EPH_TAG_PFV = 0 ∨
          tagOlder (fget d A.EPH_TAG F.EPH_TAG_PFTAG) floor = true then floor else fget d A.EPH_TAG F.EPH_TAG_PFTAG) ∧
        fget u.dev A.EPH_TAG F.EPH_TAG_FTAG = fget d A.EPH_TAG F.EPH_TAG_FTAG ∧
        fget u.dev A.EPH_TAG F.EPH_TAG_LAG = fget d A.EPH_TAG F.EPH_TAG_LAG ∧
        keepsBut [.ephRes] d u.dev ∧ keepsRegs (these [A.EPH_TAG]) d u.dev)

/-! ### The weirs (09) -/

/-- UPD and CLRM with every weir free and no step open, of an entry that passes the tests and spans one group. In STAT
layout each element's s1 takes the recurrence's value, where the element and its result are finite, and stays otherwise.
In every dense layout memory becomes what the group's work gives, in the build slot that the ephemeris grants where the
layout has a narrow copy; without one the weir waits. CLRM makes the gradients of a touched row zero and clears TOUCHED. A
stopped half discards the command as WEI_OFF, a draining one keeps it in its queue. -/
def Obligations.WeirsUpdateAndClear : Prop :=
  ∀ (iss : Issue) (weir : BitVec 2) (desc : BitVec 10) (sel : BitVec 4) (span0 : BitVec 12) (s : State),
    let d := settle (tick s.dev iss.t)
    let h := hn iss.half
    let w := 4 * h + weir.toNat
    let upd := weiTaken d iss (.upd weir desc sel span0)
    let clr := weiTaken d iss (.clrm weir desc sel span0)
    weiIdle d → d.ms.marks = [] →
    (∀ words, stOf d (A.WEI_STS h) = 1 → snapHolds d upd.step = false → d.seq.stepOpen = false →
      selDefined sel.toNat = true → wstWords d h desc.toNat = some words →
      let j := jobOf d w { upd with ent := words }
      let jc := jobOf d w { clr with ent := words }
      (weiEncBad j = false → j.e.sg = 1 → j.e.sparse = false →
        let t := (j.c.pstep + 2 ^ 32 - j.e.torg + 1) % 2 ^ 32
        let ra := j.e.rbase + j.g0 * 1024
        (j.r.layout = 1 → weiAddrBad d j 0 = none →
          ∃ u c, exec (.upd iss weir desc sel span0) s = .next u ∧ (weirOf u.dev w).cur = some c ∧ c.next = 1 ∧
            (∀ i (hi : i < (weiElems d j j.g0 t).length), memRead u.dev.mem (ra + 4 * i) 4 =
              if (weiElems d j j.g0 t)[i].kept then memRead d.mem (ra + 4 * i) 4
              else leBytes 4 (enc32 (weiElems d j j.g0 t)[i].new.s1)) ∧
            (∀ a, a < ra ∨ ra + 1024 ≤ a → memGet u.dev.mem a = memGet d.mem a) ∧
            keepsBut [.mem, .ms, .gov, .wei, .ast, .mach, .hst] d u.dev ∧ keepsRegs (weiReports h) d u.dev) ∧
        (∀ d1 k, j.narrow = true → ephRequest d j.e.entry j.c.pstep = .ok (d1, some k) → weiAddrBad d1 j k = none →
          ∃ u c, exec (.upd iss weir desc sel span0) s = .next u ∧ (weirOf u.dev w).cur = some c ∧ c.next = 1 ∧
            c.slot = some k ∧
            u.dev.mem = (weiWorkGroup d1 (jobOf d w { upd with ent := words, slot := some k }) j.g0 t none false).1.mem ∧
            u.dev.cas = d.cas ∧ u.dev.jet = d.jet ∧ u.dev.seq = d.seq) ∧
        (j.narrow = true → (weirOf d w).waitAt = 0 → ephRequest d j.e.entry j.c.pstep = .ok (d, none) →
          ∃ u c, exec (.upd iss weir desc sel span0) s = .next u ∧ (weirOf u.dev w).cur = some c ∧ c.ent = [] ∧
            (weirOf u.dev w).waitAt = d.now + 1 ∧ keepsBut [.wei, .gov] d u.dev ∧ keepsRegs (weiReports h) d u.dev)) ∧
      (weiEncBad jc = false → weiAddrBad d jc 0 = none → jc.e.sg = 1 → jc.e.rowg = 1 →
        let row := jc.g0
        let ga := jc.e.gbase + jc.g0 * 256 * jc.gb
        (rowBits d jc.e row).testBit 0 = true → inWindow ga 1 = false →
        ∃ u, exec (.clrm iss weir desc sel span0) s = .next u ∧
          memRead u.dev.mem ga (256 * jc.gb) = List.replicate (256 * jc.gb) 0 ∧
          (rowBits u.dev jc.e row).testBit 0 = false ∧
          (∀ a, (a < ga ∨ ga + 256 * jc.gb ≤ a) → (a < jc.e.mbase + 8 * (row / 32) ∨ jc.e.mbase + 8 * (row / 32) + 8 ≤ a) →
            memGet u.dev.mem a = memGet d.mem a) ∧
          keepsBut [.mem, .ms, .gov, .wei] d u.dev ∧ keepsRegs (weiReports h) d u.dev)) ∧
    (∀ c k, (c = .upd iss weir desc sel span0 ∧ k = upd ∨ c = .clrm iss weir desc sel span0 ∧ k = clr) →
      (stOf d (A.WEI_STS h) = 0 → ∃ u, exec c s = .next u ∧ fget u.dev (A.WEI_STS h) F.WEI_STS_EXC = 0x82 ∧
        sget 0 (8 * w + 3) u.dev.wei.counts = sget 0 (8 * w + 3) d.wei.counts + 1 ∧ u.dev.mem = d.mem ∧
        u.dev.wei.weirs = d.wei.weirs) ∧
      (stOf d (A.WEI_STS h) = 2 → ∃ u, exec c s = .next u ∧ weiQueue u.dev h = [k] ∧
        u.dev.wei.weirs = d.wei.weirs ∧ keepsBut [.wei, .gov] d u.dev ∧ keepsRegs (fun _ => false) d u.dev))

/-- WEIR_COMMAND_COMPLETE, WEI_NOSLOT and ROLLBACK_COMPLETE. A command that has worked its whole span ends and counts as
completed; one with a narrow copy counts one more span of its entry, and the last span makes the slot BUILT, or LIVE where
its step is committed. A weir that waits too long for a slot says so once and aborts the command's step. A rollback whose
weirs are done gives back what the ring's entry holds, and leaves every ring empty. -/
def Obligations.WeirCommandsEndAndRollBack : Prop :=
  (∀ (half : Half) (weir : BitVec 2) (s : State) (c : WeiCmd), let d := s.dev
    let w := 4 * hn half + weir.toNat
    let j := jobOf d w c
    let a := A.WEI_BUILD j.e.entry
    (weirOf d w).cur = some c → (weirOf d w).queue = [] → c.ent ≠ [] → j.e.sg ≤ c.next → d.eph.condemned = [] →
    weiQueue d 0 = [] → weiQueue d 1 = [] → (∀ v, v < 8 → v ≠ w → (weirOf d v).cur = none ∧ (weirOf d v).queue = []) →
    (j.narrow = true → fget d a F.WEI_BUILD_COUNT ≤ liveGet d a F.WEI_BUILD_NSPAN) →
      ∃ u, exec (.weirCommandComplete half weir) s = .next u ∧ (weirOf u.dev w).cur = none ∧
        sget 0 (8 * w + 2) u.dev.wei.counts = sget 0 (8 * w + 2) d.wei.counts + 1 ∧
        fget u.dev a F.WEI_BUILD_COUNT = fget d a F.WEI_BUILD_COUNT + (if j.narrow then 1 else 0) ∧
        (∀ k, j.narrow = true → fget d a F.WEI_BUILD_COUNT = liveGet d a F.WEI_BUILD_NSPAN → c.slot = some k → k < 16384 →
          (slotState d k = 1 → slotState u.dev k = 2) ∧
          (slotState d k = 3 → (∀ i, i ∈ entrySlots (k / 8) → slotState d i ≠ 4) → slotState u.dev k = 4)) ∧
        keepsBut [.wei] d u.dev ∧
        keepsRegs (fun x => isSlot x || these [A.WEI_WSTS (hn half) weir.toNat, a] x) d u.dev) ∧
  (∀ (t : Nat) (half : Half) (weir : BitVec 2) (s : State) (c : WeiCmd) (w0 : Nat), let d := tick s.dev t
    let w := 4 * hn half + weir.toNat
    let x := weirOf d w
    x.cur = some c → x.waitAt = w0 + 1 → x.waitRing = false → x.waitSaid = false →
    w0 + us (fget d (A.WEI_TMO (hn half)) F.WEI_TMO_SLOT) < d.now →
      ∃ u, exec (.weiNoslot t half weir) s = .next u ∧ fget u.dev (A.WEI_STS (hn half)) F.WEI_STS_EXC = 0x88 ∧
        u.dev.mach.abortStep = some c.step ∧ weirOf u.dev w = { x with waitSaid := true } ∧
        keepsBut [.wei, .mach, .hst, .gov] d u.dev ∧ keepsRegs (weiReports (hn half)) d u.dev) ∧
  (∀ s : State, let d := s.dev
    (rollbackReady d = true →
      ∃ u, exec .rollbackComplete s = .next u ∧ govNow u.dev .rollback = 1 ∧
        (∀ w, w < 8 → (weirOf u.dev w).rolling = none) ∧
        (∀ w st pos len, w < 8 → (weirOf d w).rolling = some st → (weirOf d w).log = [(pos, len)] →
          (∀ v, v < 8 → v ≠ w → (weirOf d v).log = []) →
          let hd := ringRead d.mem (weirOf d w) pos 64
          let a := leAt hd 0 8
          let n := 256 * recordSize (bits a 43 42)
          entryOk d w st none hd = true → bit a 44 = false →
          memRead u.dev.mem (bits a 41 0) n = ringRead d.mem (weirOf d w) (pos + 64) n ∧
          (∀ x, x < bits a 41 0 ∨ bits a 41 0 + n ≤ x → memGet u.dev.mem x = memGet d.mem x) ∧
          (weirOf u.dev w).log = [] ∧ fget u.dev (A.WEI_BWUSED (w / 4) (w % 4)) F.WEI_BWUSED_USED = 0)) ∧
    (rollbackReady d = false → exec .rollbackComplete s = .next s))

/-! ### The astrolabe (10) -/

/-- SNAP, SNAP_EMIT, GNOPEN, GNWR, GNREC, SFORCE, SHADOW_COMPARE and CNT_CLEAR. SNAP claims the bank of the step before
the current one in both halves; its emission, once that step's weir commands are done, zeroes the bank and takes its tag.
GNOPEN clears an accumulator, GNWR has its four words on the way to the reservoir, GNREC posts its record or keeps it for
its ring. SFORCE marks the terrace. A comparison within the tolerance counts and clears CONSEC. A clear makes the block's
counters zero. -/
def Obligations.AstrolabeSnapsNormsAndCounters : Prop :=
  (∀ (iss : Issue) (s : State), let d := settle (tick s.dev iss.t)
    let L := (curStep d + 2 ^ 32 - 1) % 2 ^ 32
    running d (.ast iss.half) = true →
    (iss.half = .A → (∀ h, h < 2 → bankTagged d h L = true ∧ bankTag d h L = L ∧ bankPend d h L = false ∧
        bankEmit d h L = false) →
      ∃ u, exec (.snap iss) s = .next u ∧ bankPend u.dev 0 L = true ∧ bankPend u.dev 1 L = true ∧
        bankTag u.dev 0 L = L ∧ bankTag u.dev 1 L = L ∧ u.dev.ast.sums = d.ast.sums ∧ keepsBut [.ast, .live] d u.dev ∧
        keepsRegs (these [bankReg 0 L, bankReg 1 L]) d u.dev) ∧
    (∀ acc : BitVec 4, iss.half = .A → let a := liveGet d A.AST_GNOUT F.AST_GNOUT_BASE * 16 + 16 * acc.toNat
      let g := gnGet d acc.toNat
      let n := routeOf d true 0
      (∃ u, exec (.gnopen iss acc) s = .next u ∧ gnGet u.dev acc.toNat = GnAcc.init ∧
        (∀ k, k ≠ acc.toNat → gnGet u.dev k = gnGet d k) ∧ keepsBut [.ast] d u.dev ∧
        keepsRegs (fun _ => false) d u.dev) ∧
      (∀ T, resTerrace a = some T → inRes T a 16 = true → (rvrTimed d T [((a - resBase T) / 128, iss.t + 32)]).2 = [] →
        ∃ u, exec (.gnwr iss acc) s = .next u ∧ u.dev.jet.lands = d.jet.lands ++ [⟨iss.t + 32, none, none,
          [(a, leBytes 4 (sum32 g.loc) ++ leBytes 4 (sum32 g.red) ++ leBytes 4 g.nloc ++ leBytes 4 g.nred)]⟩] ∧
          keepsBut [.jet, .rvrUse] d u.dev ∧ keepsRegs isCounter d u.dev) ∧
      (∃ u, exec (.gnrec iss acc) s = .next u ∧ u.dev.hst.rseq = (d.hst.rseq + 1) % 2 ^ 32 ∧
        (ringTakes d n = false → ∃ r, u.dev.hst.statWait = d.hst.statWait ++ [(n, r)] ∧ r.number = 0xA2 ∧ r.stat = true ∧
          r.payload.head? = some (sum32 g.loc + (sum32 g.red) <<< 32)) ∧
        (ringTakes d n = true → d.hst.statWait = [] → fget u.dev (A.HST_RIDX n) F.HST_RIDX_DEVIDX =
          (fget d (A.HST_RIDX n) F.HST_RIDX_DEVIDX + 1) % 2 ^ 32) ∧
        keepsBut [.hst] d u.dev ∧ keepsRegs isReport d u.dev)) ∧
    (∀ terr : BitVec 3, ∃ u, exec (.sforce iss terr) s = .next u ∧
      sget 0 (8 * hn iss.half + terr.toNat) u.dev.ast.forced = iss.t + 1 ∧ keepsBut [.ast] d u.dev ∧
      keepsRegs (fun _ => false) d u.dev)) ∧
  (∀ (s : State) (b : Nat), let L := bankTag s.dev 0 b
    weiIdle s.dev → b < 2 → bankPend s.dev 0 b = true → (b = 1 → bankPend s.dev 0 0 = false) → L % 2 = b →
    snapWaits s.dev L = false →
      ∃ u, exec .snapEmit s = .next u ∧ (∀ h, h < 2 → bankPend u.dev h b = false ∧ bankTagged u.dev h b = false ∧
          bankHolds u.dev h b = false) ∧
        keepsBut [.hst, .ast] s.dev u.dev ∧ keepsRegs (fun a => isReport a || these [bankReg 0 b, bankReg 1 b] a) s.dev u.dev) ∧
  (∀ (half : Half) (s : State) (x : Shadow), let h := hn half
    let d := settle (tick s.dev x.ends)
    sfind h s.dev.ast.shadow = some x → sfind h d.ast.shadow = some x →
    flt (dec32 (liveGet d (A.AST_SHD h) F.AST_SHD_TOL)) (dec32 x.metric) = false →
      ∃ u, exec (.shadowCompare half) s = .next u ∧ sfind h u.dev.ast.shadow = none ∧
        fget u.dev (A.SHD_CNT h) F.SHD_CNT_COMPARED = (fget d (A.SHD_CNT h) F.SHD_CNT_COMPARED + 1) % 2 ^ 32 ∧
        fget u.dev (A.SHD_STS h) F.SHD_STS_BUSY = 0 ∧ fget u.dev (A.SHD_STS h) F.SHD_STS_LASTERR = x.metric % 2 ^ 32 ∧
        fget u.dev (A.SHD_STS h) F.SHD_STS_CONSEC = 0 ∧ keepsBut [.ast, .hst] d u.dev ∧
        keepsRegs (fun a => isReport a || these [A.SHD_STS h, A.SHD_CNT h, A.SHD_MIS h, A.AST_STS h, A.AST_BANK0 h,
          A.AST_BANK1 h] a) d u.dev) ∧
  (∀ (half : Half) (s : State),
    (∃ u, exec (.cntClear (some half)) s = .next u ∧ (∀ n, n < 64 → regGet u.dev (A.CNT_VAL (hn half) n) = 0) ∧
      keepsBut [] s.dev u.dev ∧ keepsRegs (fun a => decide (A.CNT_VAL (hn half) 0 ≤ a) && decide (a < A.CNT_VAL (hn half) 64))
        s.dev u.dev) ∧
    (∃ u, exec (.cntClear none) s = .next u ∧ (∀ n, n < 32 → regGet u.dev (A.GCNT_VAL n) = 0) ∧
      keepsBut [] s.dev u.dev ∧ keepsRegs (fun a => decide (A.GCNT_VAL 0 ≤ a) && decide (a < A.GCNT_VAL 32)) s.dev u.dev))
/-! ### Registers and the local map (01, 11) -/

/-- REGISTER_WRITE by the package, 8 bytes at the offset of a register without an action of its own: every RW bit takes the
data, every W1C bit written 1 is cleared, every other bit stays, and no other register changes. At an offset that no block
defines nothing changes. A write with bit 0 set to the control register of a jet, cascade or astrolabe half that is STOPPED
starts it. A write that the host makes without a link is lost; one of a size that R5 does not allow is refused. -/
def Obligations.RegisterWritesFollowAccessCodes : Prop :=
  ∀ (t off : Nat) (data : List Byte) (s : State), let d := observe s.dev t
    (∀ r, off < 0x4000000 → off % 8 = 0 → data.length = 8 → sharedReg off = off → regRow off = some r → actsOnWrite off = false →
      ∃ u, exec (.registerWrite t false off data) s = .next u ∧
        (∀ k, k < 64 → (regGet u.dev off).toNat.testBit k = (if r.rw.testBit k then (leNat data).testBit k
          else if r.w1c.testBit k && (leNat data).testBit k then false else (regGet (settle d) off).toNat.testBit k)) ∧
        keepsBut [.ms] (settle d) u.dev ∧ keepsRegs (these [off]) (settle d) u.dev) ∧
    (off < 0x4000000 → off % 8 = 0 → data.length = 8 → sharedReg off = off → regRow off = none →
      ∃ u, exec (.registerWrite t false off data) s = .next u ∧ keepsBut [.ms] (settle d) u.dev ∧
        keepsRegs (fun _ => false) (settle d) u.dev) ∧
    (∀ b w, (match b with | .cas _ | .jet _ | .ast _ => true | _ => false) = true → off = ctlAddr b → data = leBytes 8 w →
      w % 2 = 1 → pstate (settle d) = 0 → blkState (settle d) b = 0 →
      ∃ u, exec (.registerWrite t false off data) s = .next u ∧ blkState u.dev b = 1 ∧ fget u.dev (ctlAddr b) F.EN = 1) ∧
    (hostReaches d = false → ∃ u, exec (.registerWrite t true off data) s = .next u ∧ u.dev.hst.cpl = .none ∧
      keepsBut [.hst] d u.dev ∧ keepsRegs (fun _ => false) d u.dev) ∧
    (hostReaches d = true → sizeOk off data.length = false → ∃ u, exec (.registerWrite t true off data) s = .next u ∧
      u.dev.hst.cpl = .unsupportedRequest ∧ keepsBut [.hst] d u.dev ∧ keepsRegs (fun _ => false) d u.dev)

/-- MEMORY_ACCESS and BAR4_ACCESS without soft errors and without marked units. A read of stacks or of one reservoir answers
the bytes that stand there, a write stores its bytes and nothing else; the NV window is read and takes no write; an unmapped
address answers an error and changes nothing. BAR4 reaches the stacks through GLB_DBGWIN in Run, and a read of anything
else, or while the stacks are asleep, is a completer abort. -/
def Obligations.MemoryAccessesReachTheLocalMap : Prop :=
  (∀ (t : Nat) (addr : BitVec 42) (s : State), let d := settle (observe s.dev t)
    let a := addr.toNat
    let mem := fun (u : State) => ∀ x, memGet u.dev.mem x = memGet d.mem x
    d.ms.marks = [] →
    (∀ n, 0 < n → plainMem d a n → ∃ u, exec (.memoryAccess t addr (.read n) []) s = .next u ∧
      u.dev.ms.resp = some (memRead d.mem a n) ∧ keepsBut [.ms] d u.dev ∧ keepsRegs isAccess d u.dev) ∧
    (∀ bs, bs ≠ [] → plainMem d a bs.length → ∃ u, exec (.memoryAccess t addr (.write bs) []) s = .next u ∧
      u.dev.ms.resp = some [] ∧ memRead u.dev.mem a bs.length = bs ∧
      (∀ x, x < a ∨ a + bs.length ≤ x → memGet u.dev.mem x = memGet d.mem x) ∧ keepsBut [.mem, .ms] d u.dev ∧
      keepsRegs isAccess d u.dev) ∧
    (∀ n, 0 < n → inNv a n = true → ∃ u, exec (.memoryAccess t addr (.read n) []) s = .next u ∧
      u.dev.ms.resp = some (memRead d.nv (a - 0x3FD00000000) n) ∧ mem u) ∧
    (∀ bs, bs ≠ [] → inNv a bs.length = true → ∃ u, exec (.memoryAccess t addr (.write bs) []) s = .next u ∧
      u.dev.ms.resp = none ∧ keepsBut [.ms] d u.dev ∧ keepsRegs (fun _ => false) d u.dev) ∧
    (∀ n, 0 < n → inRegs a = false → inStacks d a n = false → inAnyRes a n = false → inWindow a n = false →
      inNv a n = false → ∃ u, exec (.memoryAccess t addr (.read n) []) s = .next u ∧ u.dev.ms.resp = none ∧
      keepsBut [.ms] d u.dev ∧ keepsRegs (fun _ => false) d u.dev)) ∧
  (∀ (t : Nat) (off : BitVec 28) (s : State), let d := settle (observe s.dev t)
    let a := fget d A.GLB_DBGWIN F.GLB_DBGWIN_BASE * 2 ^ 28 + off.toNat
    d.ms.marks = [] →
    (∀ n en, hostReaches d = true → d.tst.up = true → d.pwr.asleep = false → inStacks d a n = true →
      ∃ u, exec (.bar4Access t off (.read n) en []) s = .next u ∧ u.dev.hst.cpl = .success ∧
        u.dev.ms.resp = some (memRead d.mem a n) ∧ keepsBut [.ms, .hst] d u.dev ∧ keepsRegs isAccess d u.dev) ∧
    (∀ n en, hostReaches d = true → d.tst.up = true → (d.pwr.asleep = true ∨ inStacks d a n = false) →
      ∃ u, exec (.bar4Access t off (.read n) en []) s = .next u ∧ u.dev.hst.cpl = .completerAbort ∧
        keepsBut [.hst] d u.dev ∧ keepsRegs (fun _ => false) d u.dev) ∧
    (∀ bs, bs ≠ [] → hostReaches d = true → d.tst.up = true → d.pwr.asleep = false → inStacks d a bs.length = true →
      ∃ u, exec (.bar4Access t off (.write bs) [] []) s = .next u ∧ u.dev.hst.cpl = .success ∧
        memRead u.dev.mem a bs.length = bs ∧ (∀ x, x < a ∨ a + bs.length ≤ x → memGet u.dev.mem x = memGet d.mem x)) ∧
    (∀ r en, hostReaches d = false → ∃ u, exec (.bar4Access t off r en []) s = .next u ∧ u.dev.hst.cpl = .none ∧
      keepsBut [.hst] d u.dev ∧ keepsRegs (fun _ => false) d u.dev))

/-- POOL_ATOMIC, POL_WB, POL_INV and WRITE_BACK_COMPLETE. An atomic on an aligned run of the stacks replaces every element by
the function of it and its operand; any other answers an error and changes nothing. WB and INV make BUSY 1; the write-back
ends with no dirty line, BUSY 0 and every byte of memory as it reads, and an invalidate leaves the pool empty. -/
def Obligations.PoolAtomicsAndWriteBack : Prop :=
  (∀ (t : Nat) (addr : BitVec 42) (atop : BitVec 4) (data : List Byte) (gp : Bool) (s : State),
    let d := settle (tick s.dev t)
    let a := addr.toNat
    d.ms.marks = [] →
    (∀ k, atomSize atop.toNat = some k → a % k = 0 → data.length % k = 0 → data ≠ [] → inStacks d a data.length = true →
      ∃ u, exec (.poolAtomic t addr atop data gp) s = .next u ∧ u.dev.ms.resp = some [] ∧
        u.dev.mem = memWrite d.mem a ((List.range (data.length / k)).map (fun i =>
          leBytes k (atomElem atop.toNat (memNat d.mem (a + k * i) k) (leAt data (k * i) k)).1)).flatten ∧
        keepsBut [.mem, .ms, .mach, .hst] d u.dev ∧
        keepsRegs (fun x => jetReports .A x || jetReports .B x || isAccess x) d u.dev) ∧
    ((atomSize atop.toNat = none ∨ inStacks d a data.length = false) →
      ∃ u, exec (.poolAtomic t addr atop data gp) s = .next u ∧ u.dev.ms.resp = none ∧ keepsBut [.ms] d u.dev ∧
        keepsRegs (fun _ => false) d u.dev)) ∧
  (∀ (half : Half) (s : State), let d := s.dev
    let h := hn half
    (∃ u, exec (.polWb half) s = .next u ∧ fget u.dev (A.POL_STS h) F.POL_STS_BUSY = 1 ∧
      (poolOf u.dev h).lines = (poolOf d h).lines ∧ (poolOf u.dev h).ask = max (poolOf d h).ask 1 ∧
      keepsBut [.ms] d u.dev ∧ keepsRegs (these [A.POL_STS h]) d u.dev) ∧
    (∃ u, exec (.polInv half) s = .next u ∧ fget u.dev (A.POL_STS h) F.POL_STS_BUSY = 1 ∧
      (poolOf u.dev h).lines = (poolOf d h).lines ∧ (poolOf u.dev h).ask = max (poolOf d h).ask 2 ∧
      keepsBut [.ms] d u.dev ∧ keepsRegs (these [A.POL_STS h]) d u.dev) ∧
    (fget d (A.POL_STS h) F.POL_STS_BUSY = 1 →
      ∃ u, exec (.writeBackComplete half) s = .next u ∧ fget u.dev (A.POL_STS h) F.POL_STS_BUSY = 0 ∧
        fget u.dev (A.POL_STS h) F.POL_STS_DIRTY = 0 ∧ (poolOf u.dev h).lines.all (fun l => !l.2.dirty) = true ∧
        ((poolOf d h).ask = 2 → (poolOf u.dev h).lines = []) ∧ keepsBut [.ms] d u.dev ∧ keepsRegs isAccess d u.dev) ∧
    (fget d (A.POL_STS h) F.POL_STS_BUSY = 0 → exec (.writeBackComplete half) s = .next s))

/-- PATROL_SCRUB, ROW_REMAP, CHANNEL_TRAINING_LOSS and BRIDGE_FLIT_RECEIVE. A scrub that has lasted its period starts anew
and forgets the half's row counts; an uncorrectable error it finds marks its unit and is reported. A candidate is remapped
only while no step is open, with a spare and LIVE; otherwise it waits for the next reset. A channel that loses training is
noted as failed once. A bad flit is retried and counted; a third bad attempt stops the bridge. -/
def Obligations.StacksScrubRemapAndBridgeRetries : Prop :=
  (∀ (t : Nat) (half : Half) (s : State), let d := tick s.dev t
    let h := hn half
    fget d (A.STK_SCRUB h) F.STK_SCRUB_ON = 1 →
    sget 0 h d.ms.scrubAt + hour * max (fget d (A.STK_SCRUB h) F.STK_SCRUB_PERIOD) 1 ≤ d.now →
    (∃ u, exec (.patrolScrub t half []) s = .next u ∧ sget 0 h u.dev.ms.scrubAt = d.now ∧
      u.dev.ms.marks = d.ms.marks ∧ (∀ e, e ∈ u.dev.ms.rowCe → e.1 / 2 ^ 25 / 128 ≠ h) ∧ keepsBut [.ms] d u.dev ∧
      keepsRegs (fun _ => false) d u.dev) ∧
    (∀ e : Ecc, e.ue = true → inStackByte d e.addr = true → homeHalf e.addr = h →
      ∃ u, exec (.patrolScrub t half [e]) s = .next u ∧ sfind (e.addr / 64) u.dev.ms.marks = some (1 + e.row % 2 ^ 25) ∧
        fget u.dev (A.STK_ERR (channelOf d e.addr / 128)) F.STK_ERR_EXC = 0xBD ∧
        (∀ a, memGet u.dev.mem a = memGet d.mem a) ∧ u.dev.seq = d.seq)) ∧
  (∀ (t : Nat) (half : Half) (fits : Bool) (s : State), let d := tick s.dev t
    let h := hn half
    (d.seq.stepOpen = true → exec (.rowRemap t half fits) s = .next { s with dev := d }) ∧
    (∀ row, d.seq.stepOpen = false → d.ms.cand.find? (fun r => r / 2 ^ 25 / 128 == h) = some row →
      let b := bankOfRow row
      let a := A.STK_RMPSTS h (row / 2 ^ 25 / 32 % 4)
      let ok := fits = true ∧ fget d (A.STK_RMP h) F.STK_RMP_LIVE = 1 ∧ 0 < sget 0 b d.ms.spares
      ∃ u, exec (.rowRemap t half fits) s = .next u ∧ u.dev.ms.cand = d.ms.cand.erase row ∧
        (ok → sget 0 b u.dev.ms.spares = sget 0 b d.ms.spares - 1 ∧
          fget u.dev a F.STK_RMPSTS_DONE = min (fget d a F.STK_RMPSTS_DONE + 1) 65535) ∧
        (¬ ok → u.dev.ms.spares = d.ms.spares ∧
          fget u.dev a F.STK_RMPSTS_PEND = min (fget d a F.STK_RMPSTS_PEND + 1) 65535) ∧
        keepsBut [.ms, .nv, .hst] d u.dev ∧ keepsRegs (fun x => isReport x || x == a) d u.dev)) ∧
  (∀ (stack : BitVec 3) (ch : BitVec 5) (s : State), let d := s.dev
    let c := 32 * stack.toNat + ch.toNat
    (c ∈ d.ms.badCh → exec (.channelTrainingLoss stack ch) s = .next s) ∧
    (c ∉ d.ms.badCh → ∃ u, exec (.channelTrainingLoss stack ch) s = .next u ∧ u.dev.ms.badCh = c :: d.ms.badCh ∧
      fget u.dev (A.STK_ERR (stack.toNat / 4)) F.STK_ERR_EXC = 0xB4 ∧
      fget u.dev (A.STK_ERR (stack.toNat / 4)) F.STK_ERR_CH = ch.toNat ∧ u.dev.mem = d.mem)) ∧
  (∀ (t : Nat) (dir : BitVec 1) (lane : BitVec 7) (s : State), let d := tick s.dev t
    let k := 128 * dir.toNat + lane.toNat
    let x := sget BrgLane.init k d.ms.lanes
    fget d A.BRG_STS F.BRG_STS_UP = 1 →
    (∃ u, exec (.bridgeFlitReceive t dir lane true) s = .next u ∧ (sget BrgLane.init k u.dev.ms.lanes).tries = 0 ∧
      fget u.dev A.BRG_CNT F.BRG_CNT_RETRY = fget d A.BRG_CNT F.BRG_CNT_RETRY ∧ keepsBut [.ms] d u.dev ∧
      keepsRegs (fun a => isCounter a || a == A.BRG_CNT) d u.dev) ∧
    (x.tries < 2 → (if x.ms = d.now / ms 1 then x.retries + 1 else 1) ≤ fget d A.BRG_CFG F.BRG_CFG_RLIM →
      ∃ u, exec (.bridgeFlitReceive t dir lane false) s = .next u ∧
        (sget BrgLane.init k u.dev.ms.lanes).tries = x.tries + 1 ∧ fget u.dev A.BRG_STS F.BRG_STS_UP = 1 ∧
        fget u.dev A.BRG_CNT F.BRG_CNT_RETRY = min (fget d A.BRG_CNT F.BRG_CNT_RETRY + 1) (2 ^ 32 - 1) ∧
        fget u.dev A.BRG_STS F.BRG_STS_EXC = 0xC0 ∧ keepsBut [.ms, .hst] d u.dev ∧
        keepsRegs (fun a => isReport a || these [A.BRG_CNT, A.BRG_STS] a) d u.dev) ∧
    (2 ≤ x.tries →
      ∃ u, exec (.bridgeFlitReceive t dir lane false) s = .next u ∧ fget u.dev A.BRG_STS F.BRG_STS_UP = 0 ∧
        fget u.dev A.BRG_STS F.BRG_STS_FATAL = 1 ∧ fget u.dev A.BRG_STS F.BRG_STS_EXC = 0xC1 ∧
        (fget u.dev A.GLB_ERRSUM F.GLB_ERRSUM_SEV).testBit 4 = true ∧ seqState u.dev ≠ 1))

/-! ### The aqueduct (12) -/

/-- XFER, BURST_START and TRANSFER_COMPLETE with nothing else of the aqueduct at work. A sound XFER without a resolution joins
its RUNNING channel with the entry and step of its issue, and counts as issued; one whose descriptor is missing is reported
as an illegal encoding, and one for a stopped channel is discarded as AQD_OFF. A burst of a LOCAL copy stores at the
destination the bytes that stood at the source. A transfer with nothing left to come leaves its channel and counts as
completed. -/
def Obligations.AqueductMovesBytes : Prop :=
  (∀ (iss : Issue) (chan : BitVec 5) (desc : BitVec 10) (gp note : BitVec 1) (s : State), let d := settle (tick s.dev iss.t)
    let h := hn iss.half
    let c := chan.toNat
    let port := BitVec.ofNat 1 (c / 16)
    let op : Instr := .xfer iss port chan desc 0#1 0#1 gp note
    let counts := fun (u : State) (disc : Nat) =>
      fget u.dev (A.AQD_CHCNTA h c) F.AQD_CHCNTA_ISSUED = (fget d (A.AQD_CHCNTA h c) F.AQD_CHCNTA_ISSUED + 1) % 2 ^ 32 ∧
      fget u.dev (A.AQD_CHCNTB h c) F.AQD_CHCNTB_DISCARDED =
        (fget d (A.AQD_CHCNTB h c) F.AQD_CHCNTB_DISCARDED + disc) % 2 ^ 32
    aqdIdle d →
    (∀ e, adtEntry d h desc.toNat = some e → adtBad d e false = false →
      (running d (.aqd iss.half c) = true →
        ∃ u x, exec op s = .next u ∧ chanOf u.dev h c = [x] ∧ x.ent = e ∧ xChan x = c ∧ x.bursts = 0 ∧ x.row = 0 ∧
          x.dead = false ∧
          x.step = (if d.seq.stepOpen then curStep d else (curStep d + 2 ^ 32 - 1) % 2 ^ 32) ∧ counts u 0 ∧
          keepsBut [.aqd, .gov] d u.dev ∧
          keepsRegs (these [A.AQD_CHCNTA h c, A.AQD_CHSTS h c]) d u.dev) ∧
      (running d (.aqd iss.half c) = false →
        ∃ u, exec op s = .next u ∧ chanOf u.dev h c = [] ∧ counts u 1 ∧
          fget u.dev (A.AQD_STS h) F.AQD_STS_EXC = 0xD2 ∧ (∀ a, memGet u.dev.mem a = memGet d.mem a))) ∧
    (adtEntry d h desc.toNat = none →
      ∃ u, exec op s = .next u ∧ u.dev.aqd = d.aqd ∧ fget u.dev (A.AQD_STS h) F.AQD_STS_EXC = 0xD0 ∧
        (∀ a, memGet u.dev.mem a = memGet d.mem a))) ∧
  (∀ (t : Nat) (half : Half) (chan : BitVec 5) (s : State) (x : Xfer), let d := settle (tick s.dev t)
    let h := hn half
    let c := chan.toNat
    let n := adLen x.ent
    aqdOnly d h c x → d.ms.marks = [] → quiet d →
    (∀ src dst, running d (.aqd half c) = true → sget 0 h d.aqd.lastBurst = 0 → x.row = 0 → x.pos = 0 →
      adKind x.ent = 0 → adAtom x.ent = false → adTouch x.ent = false → xSspace x = 0 → xDspace x = 0 → xSwrap x = 0 →
      xDwrap x = 0 → 0 < n → addrOf ((xSbase x : Int) + 64 * x.ms) = some src → addrOf ((xDbase x : Int) + 64 * x.md) = some dst →
      plainMem d src n → plainMem d dst n → n ≤ 4096 - (64 * x.md % 4096).toNat →
        ∃ u y, exec (.burstStart t half none) s = .next u ∧ memRead u.dev.mem dst n = memRead d.mem src n ∧
          (∀ a, a < dst ∨ dst + n ≤ a → memGet u.dev.mem a = memGet d.mem a) ∧
          xferOf u.dev h c x.serial = some y ∧ y.row = 1 ∧ y.bursts = x.bursts + 1 ∧ keepsBut [.mem, .ms, .aqd] d u.dev ∧
          keepsRegs isAccess d u.dev) ∧
    (xStarted x = true → (xDspace x = 1 → x.readBack = 2) → xHost x = false → xNote x = false →
      ∃ u, exec (.transferComplete t half chan) s = .next u ∧ chanOf u.dev h c = [] ∧
        fget u.dev (A.AQD_CHCNTA h c) F.AQD_CHCNTA_COMPLETED =
          (fget d (A.AQD_CHCNTA h c) F.AQD_CHCNTA_COMPLETED + 1) % 2 ^ 32 ∧ keepsBut [.ms, .aqd, .gov] d u.dev ∧
        keepsRegs (fun a => isAccess a || these [A.AQD_CHCNTA h c, A.AQD_CHSTS h c] a) d u.dev))

/-! ### Hermen ports (13) -/

/-- LINK_ON, LINK_OFF, RETRAIN, RESET_RECEIVE and TRAINFAIL_RESET of a port that holds no messages. A request takes the port
to RESET with a new epoch, its cause, no credits and an empty replay buffer; inside RWIN of the last reset only the cause
is kept. LINK follows its command, a port in OFF goes to RESET with LINK_ON alone, and a failed training enters its new
reset 1 ms later. -/
def Obligations.LinkRequestsEnterReset : Prop :=
  ∀ (t : Nat) (port : BitVec 3) (s : State), let d := tick s.dev t
    let p := port.toNat
    let x := portOf d p
    let link := fget d (A.HRM_PCTL p) F.HRM_PCTL_LINK
    let later := x.resetAt + us (liveGet d (A.HRM_CFG p) F.HRM_CFG_RWIN) < d.now
    let round := fun (u : State) (cause : Nat) => lstate u.dev p = 1 ∧ epochOf u.dev p = (epochOf d p + 1) % 2 ^ 16 ∧
      fget u.dev (A.HRM_PSTS p) F.HRM_PSTS_CAUSE = cause ∧ (portOf u.dev p).resetAt = d.now ∧ portEmpty u.dev p ∧
      (∀ v, v < 6 → regGet u.dev (A.HRM_VCCRED p v) = 0) ∧ regGet u.dev (A.HRM_RPL p) = 0 ∧
      keepsBut [.clock, .live, .gov, .ports, .mach, .hst] d u.dev ∧
      keepsRegs (fun a => machReports a || isPort p a) d u.dev
    let held := fun (u : State) (cause : Nat) => fget u.dev (A.HRM_PSTS p) F.HRM_PSTS_CAUSE = cause ∧
      lstate u.dev p = lstate d p ∧ keepsBut [] d u.dev ∧
      keepsRegs (these [A.HRM_PCTL p, A.HRM_PSTS p]) d u.dev
    portEmpty d p → quiet d →
    (link = 0 → (lstate d p = 0 ∨ later) → ∃ u, exec (.linkOn t port) s = .next u ∧
      fget u.dev (A.HRM_PCTL p) F.HRM_PCTL_LINK = 1 ∧ round u 0) ∧
    (link = 0 → lstate d p ≠ 0 → ¬ later → ∃ u, exec (.linkOn t port) s = .next u ∧
      fget u.dev (A.HRM_PCTL p) F.HRM_PCTL_LINK = 1 ∧ held u 0) ∧
    (link = 1 → exec (.linkOn t port) s = .next { s with dev := d }) ∧
    (link = 1 → lstate d p ≠ 0 → later → ∃ u, exec (.linkOff t port) s = .next u ∧
      fget u.dev (A.HRM_PCTL p) F.HRM_PCTL_LINK = 0 ∧ round u 0) ∧
    (link = 0 → exec (.linkOff t port) s = .next { s with dev := d }) ∧
    (link = 1 → lstate d p ≠ 0 → later → ∃ u, exec (.retrain t port) s = .next u ∧
      fget u.dev (A.HRM_PCTL p) F.HRM_PCTL_LINK = 1 ∧ round u 0) ∧
    (link = 1 → lstate d p ≠ 0 → ¬ later → ∃ u, exec (.retrain t port) s = .next u ∧ held u 0) ∧
    (lstate d p ≠ 0 → later → ∃ u, exec (.resetReceive t port) s = .next u ∧ round u 1) ∧
    (lstate d p ≠ 0 → ¬ later → ∃ u, exec (.resetReceive t port) s = .next u ∧ held u 1) ∧
    (lstate d p = 0 → exec (.resetReceive t port) s = .next { s with dev := d }) ∧
    (x.failAt ≠ 0 → x.failAt - 1 + ms 1 ≤ d.now → ∃ u, exec (.trainfailReset t port) s = .next u ∧ round u 5) ∧
    (x.failAt = 0 → exec (.trainfailReset t port) s = .next { s with dev := d })

/-- QUIET_END, DETECT_DONE, EQ_DONE, TEST_END, DECIDE_DONE, LOCK_DONE and TRAINING_TIMEOUT in the state each belongs to. After
1 µs RESET gives way to DETECT, or with LINK 0 to OFF. DETECT adopts the later epoch and notes the peer. The phases of
training follow one another: TEST after 100 µs with the lanes that passed, DECIDE with the width and the group chosen, or a
failed training where no group passes. LOCK gives IDENT, the VC5 buffer granted and the first IDENT queued. -/
def Obligations.LinksTrainPhaseByPhase : Prop :=
  ∀ (t : Nat) (port : BitVec 3) (s : State), let d := tick s.dev t
    let p := port.toNat
    let x := portOf d p
    let sts := A.HRM_PSTS p
    let only := fun (u : State) (ps : List Piece) (as : List Nat) => keepsBut ps d u.dev ∧ keepsRegs (these as) d u.dev
    let failed := fun (u : State) => (portOf u.dev p).failAt = d.now + 1 ∧ lstate u.dev p = 3 ∧
      fget u.dev sts F.HRM_PSTS_EXC = 0xEA ∧ keepsBut [.ports, .hst] d u.dev ∧
      keepsRegs (fun a => isReport a || these [sts, A.HRM_LANE p] a) d u.dev
    (lstate d p = 1 → x.resetAt + us 1 ≤ d.now →
      (fget d (A.HRM_PCTL p) F.HRM_PCTL_LINK = 1 → x.resetCfg = false →
        ∃ u, exec (.quietEnd t port) s = .next u ∧ lstate u.dev p = 2 ∧ only u [] [sts]) ∧
      (fget d (A.HRM_PCTL p) F.HRM_PCTL_LINK = 0 →
        ∃ u, exec (.quietEnd t port) s = .next u ∧ lstate u.dev p = 0)) ∧
    (∀ (chip : BitVec 14) (nonce epoch : BitVec 16) (rw : BitVec 2) (excl : BitVec 16), lstate d p = 2 →
      (chip.toNat ≠ ownChip d ∨ nonce.toNat ≠ x.nonce) →
      ∃ u, exec (.detectDone t port chip nonce epoch rw excl) s = .next u ∧ lstate u.dev p = 3 ∧
        (portOf u.dev p).phase = 1 ∧ (portOf u.dev p).trainAt = d.now ∧
        (portOf u.dev p).peer = ⟨chip.toNat, nonce.toNat, epoch.toNat, rw.toNat, excl.toNat⟩ ∧
        fget u.dev (A.HRM_PEERB p) F.HRM_PEERB_CHIP = chip.toNat ∧
        epochOf u.dev p = (if tagOlder (epochOf d p) epoch.toNat then epoch.toNat else epochOf d p) ∧
        only u [.ports] [sts, A.HRM_EPOCH p, A.HRM_PEERB p]) ∧
    (inPhase d p 1 = true → ∃ u, exec (.eqDone t port) s = .next u ∧ (portOf u.dev p).phase = 2 ∧
      (portOf u.dev p).phaseAt = d.now ∧ only u [.ports] []) ∧
    (∀ lanes : List (Option Nat), inPhase d p 2 = true → x.phaseAt + us 100 ≤ d.now →
      ∃ u, exec (.testEnd t port lanes) s = .next u ∧ (portOf u.dev p).phase = 3 ∧
        (∀ l, l < 16 → (portOf u.dev p).passOwn.testBit l =
          (!(liveGet d (A.HRM_LANE p) F.HRM_LANE_EXCL).testBit l &&
            match lanes[l]? with
            | some (some n) => decide (n ≤ 112)
            | _ => false)) ∧ only u [.ports] []) ∧
    (∀ (pass : BitVec 16) (width lgrp : BitVec 2), inPhase d p 3 = true →
      let both := x.passOwn &&& pass.toNat &&& (0xFFFF - x.peer.excl % 2 ^ 16)
      let chosen := fun (u : State) (w g : Nat) => fget u.dev sts F.HRM_PSTS_WIDTH = w ∧
        fget u.dev sts F.HRM_PSTS_LGRP = g ∧ fget u.dev (A.HRM_LANE p) F.HRM_LANE_PASS = both ∧
        (portOf u.dev p).phase = 4 ∧ only u [.ports] [sts, A.HRM_LANE p]
      (∀ w g, x.master = true → w < 4 → g < 4 →
        chooseWidth (liveGet d (A.HRM_PCTL p) F.HRM_PCTL_RW) x.peer.rw both = some (w, g) →
        ∃ u, exec (.decideDone t port pass width lgrp) s = .next u ∧ chosen u w g) ∧
      (x.master = false → (chooseWidth 0 0 both).isSome = true →
        ∃ u, exec (.decideDone t port pass width lgrp) s = .next u ∧ chosen u width.toNat lgrp.toNat) ∧
      ((chooseWidth 0 0 both).isSome = false →
        ∃ u, exec (.decideDone t port pass width lgrp) s = .next u ∧ failed u)) ∧
    (inPhase d p 4 = true → ∃ u, exec (.lockDone t port) s = .next u ∧ lstate u.dev p = 4 ∧
      (portOf u.dev p).queue = x.queue ++ [⟨x.nextId, identMsg d p 0, 0, none⟩] ∧
      fget u.dev (A.HRM_VCCRED p 5) F.HRM_VCCRED_RXBUF = vcBuf d p 5 ∧
      sget 0 5 (portOf u.dev p).owed = sget 0 5 x.owed + vcBuf d p 5 ∧ only u [.ports] [sts, A.HRM_VCCRED p 5]) ∧
    (lstate d p = 3 → x.failAt = 0 → x.trainAt + us (liveGet d (A.HRM_CFG p) F.HRM_CFG_TRAIN) ≤ d.now →
      ∃ u, exec (.trainingTimeout t port) s = .next u ∧ failed u)

/-- IDENT and MESSAGE_FORWARD. The first IDENT of a link gives the peer's registers and this end's finding, which goes out
with the answer; the second takes the link to the state of the larger RES, and one that comes UP grants the buffers of
the data channels. A message for another chip leaves by the port of its route with TTL one less; a stale one, one for this
chip and one that has no TTL left go no further. -/
def Obligations.IdentifiedLinksForward : Prop :=
  ∀ (t : Nat) (port : BitVec 3) (m : Msg) (s : State), let d := tick s.dev t
    let p := port.toNat
    let x := portOf d p
    m.vc < 6 → quiet d →
    (lstate d p = 4 → x.ident = [] → let own := identFinding d p m
      ∃ u, exec (.ident t port m) s = .next u ∧ lstate u.dev p = 4 ∧ (portOf u.dev p).ident = [bits m.w2 43 42] ∧
        (portOf u.dev p).ownRes = own ∧
        (portOf u.dev p).queue = x.queue ++ [⟨x.nextId, identMsg d p own, 0, none⟩] ∧
        regGet u.dev (A.HRM_PEERA p) = BitVec.ofNat 64 m.w1 ∧
        fget u.dev (A.HRM_PEERB p) F.HRM_PEERB_CHIP = bits m.w2 13 0 ∧ fget u.dev (A.HRM_PEERB p) F.HRM_PEERB_PORT = bits m.w2 16 14 ∧
        fget u.dev (A.HRM_PSTS p) F.HRM_PSTS_MINOR = min (bits m.w2 31 24) 1 ∧ keepsBut [.ports, .hst] d u.dev ∧
        keepsRegs (fun a => isReport a || isPort p a) d u.dev) ∧
    (lstate d p = 4 → x.ident ≠ [] → x.ownRes ≤ 3 →
      ∃ u, exec (.ident t port m) s = .next u ∧ lstate u.dev p = 4 + max x.ownRes (max (bits m.w2 43 42) 1) ∧
        fget u.dev (A.HRM_LANE p) F.HRM_LANE_PARFAIL = 0 ∧
        (max x.ownRes (max (bits m.w2 43 42) 1) = 1 → ∀ v, v < 5 →
          fget u.dev (A.HRM_VCCRED p v) F.HRM_VCCRED_RXBUF = vcBuf d p v)) ∧
    (m.dchip ≠ ownChip d → m.schip ≠ ownChip d → m.lepoch = epochOf d p → (m.vc = 5 ∨ dataRuns d p = true) → p < 6 →
      fget d (A.HRM_PSTS p) F.HRM_PSTS_MINOR ≠ 0 →
      (∀ q, m.ttl ≠ 0 → routeTo d m.dchip = some q → carries d q m.vc = true →
        ∃ u, exec (.messageForward t port m) s = .next u ∧
          (portOf u.dev q).queue = (portOf d q).queue ++ [⟨(portOf d q).nextId, { m with ttl := m.ttl - 1 }, 0, none⟩] ∧
          keepsBut [.ports] d u.dev ∧ keepsRegs (fun a => isCounter a || isVc p a) d u.dev) ∧
      (m.ttl = 0 → m.mtype ≤ 3 → ∃ u, exec (.messageForward t port m) s = .next u ∧
        fget u.dev (A.HRM_PSTS p) F.HRM_PSTS_EXC = 0xE1 ∧ (∀ q, (portOf u.dev q).queue = (portOf d q).queue) ∧
        keepsBut [.ports, .gov, .mach, .hst] d u.dev ∧
        keepsRegs (fun a => isReport a || isVc p a || a == A.HRM_PSTS p) d u.dev)) ∧
    (m.dchip ≠ ownChip d → m.lepoch ≠ epochOf d p → ∃ u, exec (.messageForward t port m) s = .next u ∧
      fget u.dev (A.HRM_DROPCNT p) F.HRM_DROPCNT_STALE = min (fget d (A.HRM_DROPCNT p) F.HRM_DROPCNT_STALE + 1) 65535 ∧
      (∀ q, (portOf u.dev q).queue = (portOf d q).queue) ∧ keepsBut [.ports, .hst] d u.dev ∧
      keepsRegs (fun a => isReport a || these [A.HRM_DROPCNT p, A.HRM_PSTS p] a) d u.dev) ∧
    (m.dchip = ownChip d → ∃ u, exec (.messageForward t port m) s = .next u ∧
      (∀ q, (portOf u.dev q).queue = (portOf d q).queue) ∧ keepsBut [.ports] d u.dev ∧ keepsRegs (isVc p) d u.dev)

/-- FRAME_RECEIVE, FLIT_RECEIVE, FLIT_SEND, IDLE_SEND and IDLE_RECEIVE at a port in IDENT or beyond. A decoded frame gives its
flits and counts its corrections. A flit whose length or CRC is wrong calls for a NAK and nothing else; the flit expected
is accepted, and a message it holds whole waits to be delivered. A message of one flit that VC0 may send leaves with the
next sequence number, takes a credit and is kept for replay. An IDLE sent takes no sequence number; one received gives the
peer's time and slice. -/
def Obligations.FramesFlitsAndIdlesPass : Prop :=
  ∀ (t : Nat) (port : BitVec 3) (s : State), let d := tick s.dev t
    let p := port.toNat
    let x := portOf d p
    let rpl := A.HRM_RPL p
    let seq := fget d rpl F.HRM_RPL_NEXTSEQ
    4 ≤ lstate d p →
    (∀ syms : List Nat, let f := frameDecode (linkLanes d p) syms
      lstate d p = 4 → f.failed = 0 → x.frameNo = none →
      ∃ u, exec (.frameReceive t port syms) s = .next u ∧ (portOf u.dev p).rx = f.flits ∧
        (portOf u.dev p).frameNo = some f.no ∧ (portOf u.dev p).badFrames = 0 ∧
        fget u.dev (A.HRM_ERRCNT p) F.HRM_ERRCNT_FECCORR =
          min (fget d (A.HRM_ERRCNT p) F.HRM_ERRCNT_FECCORR + f.corrected) (2 ^ 32 - 1) ∧
        keepsBut [.ports] d u.dev ∧ keepsRegs (fun a => isCounter a || a == A.HRM_ERRCNT p) d u.dev) ∧
    (∀ b : List Byte, (b.length ≠ 256 ∨ leAt b 252 4 ≠ crc32c (b.take 252)) → x.nakAt = 0 →
      ∃ u, exec (.flitReceive t port b) s = .next u ∧ (portOf u.dev p).nak = true ∧ (portOf u.dev p).expect = x.expect ∧
        (portOf u.dev p).inbox = x.inbox ∧ keepsBut [.ports] d u.dev ∧ keepsRegs isCounter d u.dev) ∧
    (∀ b : List Byte, let h := leAt b 0 8
      let v := bits h 6 4
      let payload := (b.drop 8).take 244
      let m := msgOf payload v
      b.length = 256 → leAt b 252 4 = crc32c (b.take 252) → x.frameBad = false → bits h 3 0 = 5 → v ≤ 5 →
      bits h 19 8 = x.expect → x.replay = [] → bit h 32 = false → bits h 48 45 = 0 → bits h 44 36 = 0 →
      protoBad m (leAt payload 0 8) = false →
      ∃ u, exec (.flitReceive t port b) s = .next u ∧ (portOf u.dev p).inbox = x.inbox ++ [m] ∧
        (portOf u.dev p).expect = (x.expect + 1) % 4096 ∧ (portOf u.dev p).accepted = true ∧
        fget u.dev (A.HRM_VCCRED p v) F.HRM_VCCRED_RXOCC =
          (fget d (A.HRM_VCCRED p v) F.HRM_VCCRED_RXOCC + 1) % 2 ^ 16 ∧
        keepsBut [.ports] d u.dev ∧ keepsRegs (fun a => isCounter a || a == A.HRM_VCCRED p v) d u.dev) ∧
    (∀ o : Out, idleDue d p = false → x.resend = none → nextOut d p 0 = some o → o.sent = 0 → o.msg.data.length ≤ 212 →
      x.owed = [] → let payload := msgHeader d p o.msg ++ o.msg.data
      ∃ u, exec (.flitSend t port) s = .next u ∧ (portOf u.dev p).replay = x.replay ++ [⟨seq, 5, payload, 0, o⟩] ∧
        (portOf u.dev p).queue = x.queue.filter (fun q => q.id != o.id) ∧
        (portOf u.dev p).tx = flitBytes d p 5 0 seq 0 0 payload ∧
        fget u.dev rpl F.HRM_RPL_NEXTSEQ = (seq + 1) % 4096 ∧
        fget u.dev (A.HRM_VCCRED p 0) F.HRM_VCCRED_SCRED + 1 = fget d (A.HRM_VCCRED p 0) F.HRM_VCCRED_SCRED ∧
        keepsBut [.ports] d u.dev ∧ keepsRegs (fun a => isCounter a || these [rpl, A.HRM_VCCRED p 0] a) d u.dev) ∧
    (x.owed = [] → ∃ u, exec (.idleSend t port) s = .next u ∧
      (portOf u.dev p).tx = flitBytes d p 0 0 seq 0 0 (idleContent d p) ∧ (portOf u.dev p).idleAt = sidNow d + 1 ∧
      (portOf u.dev p).newContent = false ∧ keepsBut [.ports] d u.dev ∧ keepsRegs isCounter d u.dev) ∧
    (∀ content : List Byte, ∃ u, exec (.idleReceive t port content) s = .next u ∧
      (portOf u.dev p).echo = some (leAt content 0 8, sidNow d) ∧ (portOf u.dev p).peerSlice = leAt content 22 2 ∧
      (portOf u.dev p).peerState = leAt content 20 1 % 4 ∧ (portOf u.dev p).peerHops = leAt content 20 1 / 4 ∧
      u.dev.cas = d.cas ∧ u.dev.jet = d.jet ∧ u.dev.ril = d.ril)

/-- RDREQ, WRREQ, RDRSP, WRACK and RESPONSE_TIMEOUT. A request of a member is performed on memory and answered with the bytes
read or with nothing, one of a chip outside the membership is answered with an error and touches nothing, and a scrub takes
none. A response completes the request that its TAG, port and epoch name, a late one is counted, and a request without a
response for longer than RSP ends. -/
def Obligations.RemoteRequestsAreAnswered : Prop :=
  (∀ (t : Nat) (port : BitVec 3) (m : Msg) (s : State) (q : Nat), let d := observe s.dev t
    let p := port.toNat
    let a := bits m.w1 41 0
    let n := bits m.w1 53 42 + 1
    let answer := fun (e : Dev) (u : State) (write : Bool) (status : Nat) (data : List Byte) =>
      (portOf u.dev q).queue = (portOf e q).queue ++ [⟨(portOf e q).nextId,
        { synthetic e write m.schip m.w2 status 0 0 with w2 := 0, data := data }, 0, none⟩]
    d.ms.marks = [] → scrubbing d = false → m.schip ≠ ownChip d → routeTo d m.schip = some q → carries d q 3 = true →
    (arrives d p { m with mtype := 4 } → let e := settle (countPkg (takeInbox d p { m with mtype := 4 }) 0xC05 0 1 true)
      isMember d m.schip = true → e.ms.marks = [] → plainMem e a n →
      ∃ u, exec (.rdreq t port m []) s = .next u ∧ answer e u false 0 (memRead e.mem a n) ∧
        keepsBut [.ports, .ms] e u.dev ∧ keepsRegs isAccess e u.dev) ∧
    (arrives d p { m with mtype := 5 } → let e := settle (countPkg (takeInbox d p { m with mtype := 5 }) 0xC05 0 1 true)
      let bs := (m.data ++ List.replicate n 0).take n
      isMember d m.schip = true → e.ms.marks = [] → bit m.w2 48 = false → plainMem e a n →
      ∃ u, exec (.wrreq t port m []) s = .next u ∧ answer e u true 0 [] ∧ memRead u.dev.mem a n = bs ∧
        (∀ x, x < a ∨ a + n ≤ x → memGet u.dev.mem x = memGet e.mem x) ∧ keepsBut [.ports, .mem, .ms] e u.dev ∧
        keepsRegs isAccess e u.dev) ∧
    (arrives d p { m with mtype := 4 } → isMember d m.schip = false → let e := takeInbox d p { m with mtype := 4 }
      ∃ u, exec (.rdreq t port m []) s = .next u ∧ answer e u false 1 [] ∧ keepsBut [.ports, .mach, .hst] e u.dev ∧
        keepsRegs machReports e u.dev)) ∧
  (∀ (t : Nat) (port : BitVec 3) (m : Msg) (ecc : List Ecc) (s : State), let d := observe s.dev t
    scrubbing d = true → exec (.rdreq t port m ecc) s = .next { s with dev := d } ∧
      exec (.wrreq t port m ecc) s = .next { s with dev := d }) ∧
  (∀ (t : Nat) (port : BitVec 3) (m : Msg) (s : State), let d := observe s.dev t
    let p := port.toNat
    let m6 : Msg := { m with mtype := 6 }
    let m7 : Msg := { m with mtype := 7 }
    let req := reqOf d (bits m.w1 15 0) (bits m.w1 18 16) (bits m.w1 47 32)
    let runs := fun (e : Dev) (r : Req) => r.rungen = fget e (A.AQD_CHSTS r.half r.chan) F.RUNGEN
    aqdWaits d →
    (∀ r, arrives d p m6 → let e := settle (takeInbox d p m6)
      req = some r → runs e r → bits m.w1 51 48 = 0 → r.owner = 0 → e.aqd = d.aqd →
      ∃ u, exec (.rdrsp t port m) s = .next u ∧
        u.dev.aqd.reqs = d.aqd.reqs.map (fun y => if y.tag = r.tag then
          { y with data := some ((m.data ++ List.replicate r.len 0).take r.len) } else y) ∧ keepsBut [.aqd] e u.dev ∧
        keepsRegs (fun _ => false) e u.dev) ∧
    (arrives d p m6 → req = none → let e := takeInbox d p m6
      let o := bits m.w1 18 16
      ∃ u, exec (.rdrsp t port m) s = .next u ∧ fget u.dev (A.HRM_DROPCNT o) F.HRM_DROPCNT_STALE =
        min (fget d (A.HRM_DROPCNT o) F.HRM_DROPCNT_STALE + 1) 65535 ∧ keepsBut [.ports, .hst] e u.dev ∧
        keepsRegs (fun x => isReport x || these [A.HRM_DROPCNT o, A.HRM_PSTS o] x) e u.dev) ∧
    (∀ r, arrives d p m7 → let e := settle (takeInbox d p m7)
      bits m.w1 15 0 ≠ 0 → req = some r → runs e r → bits m.w1 51 48 = 0 → r.owner = 1 → e.aqd = d.aqd →
      ∃ u, exec (.wrack t port m) s = .next u ∧ u.dev.aqd.reqs = d.aqd.reqs.filter (fun y => y.tag != r.tag) ∧
        keepsBut [.aqd] e u.dev ∧ keepsRegs (fun _ => false) e u.dev) ∧
    (arrives d p m7 → bits m.w1 15 0 = 0 → bits m.w1 51 48 = 0 → d.mach.perm.run = true → let e := takeInbox d p m7
      ∃ u, exec (.wrack t port m) s = .next u ∧ u.dev.mach.perm.unacked = d.mach.perm.unacked - 1 ∧
        keepsBut [.mach] e u.dev ∧ keepsRegs (fun _ => false) e u.dev)) ∧
  (∀ (t : Nat) (s : State), let d := tick s.dev t
    let due := d.aqd.reqs.find? (fun r => r.owner != 4 && r.data.isNone
      && decide (r.at' + us (fget d (A.HRM_CFG r.oport) F.HRM_CFG_RSP) < d.now))
    aqdWaits d →
    (due = none → exec (.responseTimeout t) s = .next { s with dev := d }) ∧
    (∀ r, due = some r → ∃ u, exec (.responseTimeout t) s = .next u ∧
      u.dev.aqd.reqs = d.aqd.reqs.filter (fun y => y.tag != r.tag) ∧
      (r.rungen = fget d (A.AQD_CHSTS r.half r.chan) F.RUNGEN → fget u.dev (A.HRM_DROPCNT r.oport) F.HRM_DROPCNT_TMO =
        min (fget d (A.HRM_DROPCNT r.oport) F.HRM_DROPCNT_TMO + 1) 65535) ∧ keepsBut [.aqd] d u.dev ∧
      keepsRegs (fun a => isCounter a || these [A.HRM_DROPCNT r.oport, A.AQD_CHCNTB r.half r.chan] a) d u.dev))

/-! ### Sidereal time, notices, verdicts (14) -/

/-- SID_SET, PPS_PULSE, REFERENCE_LOSS, MEASUREMENT_TIMEOUT, HOLDOVER_LIMIT and PPS_OUT. A master in UNSYNC or ACQUIRE takes the
value written. The first pulse of ACQUIRE steps the counter to the nearest second; later ones within PPSWIN are counted and
the fourth good one in a row locks, one outside it loses the reference. A lost reference or upstream gives HOLDOVER with its
record; a follower's HOLDOVER that lasts too long is chip-fatal. A new second drives SID_PPS_OUT for 1 µs. -/
def Obligations.SiderealTimeFollowsItsReference : Prop :=
  (∀ (value : BitVec 64) (s : State), let d := s.dev
    (isMaster d = true → sidState d ≤ 1 → ∃ u, exec (.sidSet value) s = .next u ∧ sidNow u.dev = value.toNat ∧
      sidState u.dev = 1 ∧ keepsBut [.mach] d u.dev ∧ keepsRegs (these [A.SID_TIME, A.SID_STS]) d u.dev) ∧
    ((isMaster d = false ∨ 2 ≤ sidState d) → exec (.sidSet value) s = .next s)) ∧
  (∀ (t high : Nat) (s : State), let d := tick s.dev t
    let sec := (nearSecond (sidNow d)).1
    let off := (nearSecond (sidNow d)).2.natAbs
    let win := fget d A.SID_CFG F.SID_CFG_PPSWIN
    ((isMaster d = false ∨ sidState d = 0 ∨ high < 100 ∨ 500000000 < high) →
      exec (.ppsPulse t high) s = .next { s with dev := d }) ∧
    (isMaster d = true → 100 ≤ high → high ≤ 500000000 →
      (sidState d = 1 → d.mach.sidStepped = false → ∃ u, exec (.ppsPulse t high) s = .next u ∧
        sidNow u.dev = sec % 2 ^ 64 ∧ u.dev.mach.sidStepped = true ∧ fget u.dev A.SID_STS F.SID_STS_REFOK = 1 ∧
        sidState u.dev = 1 ∧ keepsBut [.mach] d u.dev ∧ keepsRegs (these [A.SID_TIME, A.SID_STS]) d u.dev) ∧
      (sidState d ≠ 0 → (sidState d = 1 → d.mach.sidStepped = true) → off ≤ win →
        d.mach.ppsIn ≠ sec / 1000000000 + 1 →
        let good := if sidState d = 3 ∨ off ≤ 1 then d.mach.sidGood + 1 else 0
        ∃ u, exec (.ppsPulse t high) s = .next u ∧ u.dev.mach.sidGood = good ∧
          sidState u.dev = (if 4 ≤ good then 2 else sidState d) ∧ fget u.dev A.SID_STS F.SID_STS_REFOK = 1 ∧
          u.dev.mach.sidAt = d.now ∧ keepsBut [.mach] d u.dev ∧
          keepsRegs (fun a => isCounter a || a == A.SID_STS) d u.dev) ∧
      ((sidState d = 2 ∨ (sidState d = 1 ∧ d.mach.sidStepped = true)) →
        (win < off ∨ d.mach.ppsIn = sec / 1000000000 + 1) → ∃ u, exec (.ppsPulse t high) s = .next u ∧
        sidState u.dev = 3 ∧ fget u.dev A.SID_STS F.SID_STS_REFOK = 0 ∧ fget u.dev A.SID_STS F.SID_STS_EXC = 0xFA ∧
        u.dev.mach.holdoverAt = d.now ∧ keepsBut [.mach, .hst] d u.dev ∧ keepsRegs machReports d u.dev))) ∧
  (∀ (t : Nat) (edge : Bool) (s : State), let d := tick s.dev t
    (isMaster d = false → exec (.referenceLoss t edge) s = .next { s with dev := d }) ∧
    (isMaster d = true → (edge = true ∨ d.mach.sidAt + ms 3000 ≤ d.now) → (sidState d = 1 ∨ sidState d = 2) →
      ∃ u, exec (.referenceLoss t edge) s = .next u ∧ sidState u.dev = 3 ∧ fget u.dev A.SID_STS F.SID_STS_REFOK = 0 ∧
        fget u.dev A.SID_STS F.SID_STS_EXC = 0xFA ∧ u.dev.mach.holdoverAt = d.now ∧ keepsBut [.mach, .hst] d u.dev ∧
        keepsRegs machReports d u.dev)) ∧
  (∀ (t : Nat) (s : State), let d := tick s.dev t
    (d.now < d.mach.sidAt + us 10 → exec (.measurementTimeout t) s = .next { s with dev := d }) ∧
    (isMaster d = false → d.mach.sidAt + us 10 ≤ d.now → (sidState d = 1 ∨ sidState d = 2) →
      ∃ u, exec (.measurementTimeout t) s = .next u ∧ sidState u.dev = 3 ∧ fget u.dev A.SID_STS F.SID_STS_EXC = 0xFB ∧
        u.dev.mach.holdoverAt = d.now ∧ keepsBut [.mach, .hst] d u.dev ∧ keepsRegs machReports d u.dev) ∧
    (isMaster d = false → sidState d = 3 →
      d.mach.holdoverAt + us (fget d A.SID_CFG F.SID_CFG_HOLDMAX) < d.now → ∃ u, exec (.holdoverLimit t) s = .next u ∧
        sidState u.dev = 0 ∧ fget u.dev A.SID_STS F.SID_STS_EXC = 0xF1 ∧ seqState u.dev ≠ 1 ∧
        (fget u.dev A.GLB_ERRSUM F.GLB_ERRSUM_SEV).testBit 3 = true ∧ u.dev.mem = d.mem) ∧
    (sidState d ≠ 3 → exec (.holdoverLimit t) s = .next { s with dev := d }) ∧
    (2 ≤ sidState d → sidNow d / 1000000000 ≠ d.mach.ppsMark → ∃ u, exec (.ppsOut t) s = .next u ∧
      u.dev.mach.ppsMark = sidNow d / 1000000000 ∧ u.dev.mach.ppsUntil = d.now + us 1 ∧ keepsBut [.mach] d u.dev ∧
      keepsRegs (fun _ => false) d u.dev) ∧
    (sidState d < 2 → exec (.ppsOut t) s = .next { s with dev := d }))

/-- RECLAIM_ORIGINATE, RECLAIM_CLEAR, HOLD_NOTICE_ORIGINATE, HOLD_NOTICE_CLEAR, DRILL_CLOSE and BANK_SWITCH. A notice carries the
counter's value; an older one that is held stands. Clearing forgets it and remembers its time. At T_N + CLOSE a step still
open is aborted. The banks change over only while the collective engine and every port are STOPPED. -/
def Obligations.NoticesAndBanksFollowTheHost : Prop :=
  (∀ (fields : BitVec 64) (s : State), let d := s.dev
    let r := A.SID_RCLM
    let fresh := fun (n : Notice) => n.time = 0 ∧ sidNow d ≠ 0 ∧ sidNow d ≠ n.cleared
    (fresh d.mach.reclaim → ∃ u, exec (.reclaimOriginate fields) s = .next u ∧ u.dev.mach.reclaim.time = sidNow d ∧
      (regGet u.dev A.SID_RCLMT).toNat = sidNow d ∧ fget u.dev r F.SID_RCLM_ACTIVE = 1 ∧
      fget u.dev r F.SID_RCLM_ORIGIN = F.SID_RCLM_ORIGIN.of fields ∧ fget u.dev r F.SID_RCLM_EX = F.SID_RCLM_EX.of fields ∧
      fget u.dev r F.SID_RCLM_EY = F.SID_RCLM_EY.of fields ∧ fget u.dev r F.SID_RCLM_EZ = F.SID_RCLM_EZ.of fields ∧
      fget u.dev r F.SID_RCLM_DEADLINE = min (F.SID_RCLM_DEADLINE.of fields) 60 ∧ govNow u.dev .reclaim = 1 ∧
      keepsBut [.gov, .ports, .mach] d u.dev ∧ keepsRegs (these [r, A.SID_RCLMT]) d u.dev) ∧
    (d.mach.reclaim.time ≠ 0 → d.mach.reclaim.time < sidNow d → ∃ u, exec (.reclaimOriginate fields) s = .next u ∧
      u.dev.mach.reclaim.time = d.mach.reclaim.time ∧ keepsBut [.mach] d u.dev ∧
      keepsRegs (fun a => isCounter a || a == r) d u.dev) ∧
    (d.mach.reclaim.time ≠ 0 → ∃ u, exec .reclaimClear s = .next u ∧
      u.dev.mach.reclaim = { d.mach.reclaim with time := 0, cleared := d.mach.reclaim.time } ∧
      fget u.dev r F.SID_RCLM_ACTIVE = 0 ∧ regGet u.dev A.SID_RCLMT = 0 ∧ govNow u.dev .reclaim = 0 ∧
      keepsBut [.gov, .ports, .mach] d u.dev ∧ keepsRegs (these [r, A.SID_RCLMT]) d u.dev) ∧
    (d.mach.reclaim.time = 0 → exec .reclaimClear s = .next s) ∧
    (fresh d.mach.hold → ∃ u, exec .holdNoticeOriginate s = .next u ∧ u.dev.mach.hold.time = sidNow d ∧
      fget u.dev A.SID_HOLDN F.SID_HOLDN_ACTIVE = 1 ∧ fget u.dev A.SID_HOLDN F.SID_HOLDN_TIME = sidNow d % 2 ^ 56 ∧
      govNow u.dev .hold = 1 ∧ keepsBut [.gov, .ports, .mach] d u.dev ∧ keepsRegs (these [A.SID_HOLDN]) d u.dev) ∧
    (d.mach.hold.time ≠ 0 → ∃ u, exec .holdNoticeClear s = .next u ∧
      u.dev.mach.hold = { d.mach.hold with time := 0, cleared := d.mach.hold.time } ∧
      fget u.dev A.SID_HOLDN F.SID_HOLDN_ACTIVE = 0 ∧ govNow u.dev .hold = 0 ∧
      keepsBut [.gov, .ports, .mach] d u.dev ∧ keepsRegs (these [A.SID_HOLDN]) d u.dev) ∧
    (d.mach.hold.time = 0 → exec .holdNoticeClear s = .next s) ∧
    (blkState d .col = 0 → (∀ p, p < 8 → stOf d (A.HRM_PSTS p) = 0) → ∃ u, exec .bankSwitch s = .next u ∧
      actBank u.dev = 1 - actBank d ∧ keepsBut [.mach] d u.dev ∧ keepsRegs (these [A.SID_RBANK]) d u.dev) ∧
    ((blkState d .col ≠ 0 ∨ ∃ p, p < 8 ∧ stOf d (A.HRM_PSTS p) ≠ 0) → exec .bankSwitch s = .next s)) ∧
  (∀ (t : Nat) (s : State), let d := tick s.dev t
    let n := d.mach.reclaim.time
    let close := stSec (fget d A.SID_RCFG F.SID_RCFG_CLOSE)
    ((n = 0 ∨ sidNow d < n + close) → exec (.drillClose t) s = .next { s with dev := d }) ∧
    (n ≠ 0 → n ≠ d.mach.closed → n + close ≤ sidNow d →
      (d.seq.stepOpen = true → ∃ u, exec (.drillClose t) s = .next u ∧ u.dev.mach.closed = n ∧
        u.dev.mach.abortStep = some (curStep d) ∧ govNow u.dev .abort = curStep d ∧
        fget u.dev A.SID_STS F.SID_STS_EXC = 0xF9 ∧ keepsBut [.gov, .mach, .hst] d u.dev ∧
        keepsRegs machReports d u.dev) ∧
      (d.seq.stepOpen = false → ∃ u, exec (.drillClose t) s = .next u ∧ u.dev.mach.closed = n ∧
        keepsBut [.mach] d u.dev ∧ keepsRegs (fun _ => false) d u.dev)))

/-- REPORT_RECEIVE, VERDICT_RECEIVE and CHILD_TIMEOUT. A node forms its report once its own input and every child's are there:
the worst of them, which the root makes the verdict and any other node sends to its parent. A verdict stands in SID_VSTS,
ends the flags of its step and travels on; a permutation verdict of CLEAN changes prepared banks over. A child that stays
silent counts as ABORT and is reported. -/
def Obligations.ReportsBecomeVerdicts : Prop :=
  (∀ (t : Nat) (port : BitVec 3) (step : BitVec 32) (val : BitVec 2) (s : State), let d := tick s.dev t
    let p := port.toNat
    let tr := d.mach.tree
    (∀ perm, p ∉ treeChildren d → exec (.reportReceive t port step val perm) s = .next { s with dev := d }) ∧
    (p ∈ treeChildren d → seqState d = 1 → tr.own = none →
      ∃ u, exec (.reportReceive t port step val false) s = .next u ∧
        sfind p u.dev.mach.tree.child = some (step.toNat, val.toNat) ∧ keepsBut [.mach] d u.dev ∧
        keepsRegs (fun _ => false) d u.dev) ∧
    (∀ v, v ≠ 0 → v < 4 → treeChildren d = [p] → seqState d = 1 → tr.own = some (step.toNat, v) → val ≠ 0#2 →
      tr.sent.map Prod.fst ≠ some step.toNat → lstate d p = 5 → p ∉ tr.silent → quiet d →
      (treeRoot d = true → ∃ u, exec (.reportReceive t port step val false) s = .next u ∧
        fget u.dev A.SID_VSTS F.SID_VSTS_VSTEP = step.toNat ∧
        fget u.dev A.SID_VSTS F.SID_VSTS_VERDICT = max v val.toNat ∧
        govNow u.dev .verdict = 4 * step.toNat + max v val.toNat ∧
        u.dev.mach.contentDown = ⟨step.toNat, 2, max v val.toNat, false⟩ ∧
        u.dev.mach.abortStep ≠ some step.toNat ∧ u.dev.mach.poisonStep ≠ some step.toNat ∧
        keepsBut [.gov, .ports, .mach] d u.dev ∧ keepsRegs (fun a => isCounter a || a == A.SID_VSTS) d u.dev) ∧
      (treeRoot d = false → ∃ u, exec (.reportReceive t port step val false) s = .next u ∧
        u.dev.mach.tree.sent = some (step.toNat, max v val.toNat) ∧
        u.dev.mach.content = ⟨step.toNat, 1, max v val.toNat, false⟩ ∧
        (portOf u.dev (treeParent d)).newContent = true ∧ keepsBut [.ports, .mach] d u.dev ∧
        keepsRegs (fun _ => false) d u.dev))) ∧
  (∀ (t : Nat) (step : BitVec 32) (val : BitVec 2) (perm : Bool) (s : State), let d := tick s.dev t
    ((treeRoot d = true ∨ val = 0#2) → exec (.verdictReceive t step val perm) s = .next { s with dev := d }) ∧
    (treeRoot d = false → val ≠ 0#2 → quiet d → ∃ u, exec (.verdictReceive t step val perm) s = .next u ∧
      (perm = false → fget u.dev A.SID_VSTS F.SID_VSTS_VSTEP = step.toNat ∧
        fget u.dev A.SID_VSTS F.SID_VSTS_VERDICT = val.toNat ∧ govNow u.dev .verdict = 4 * step.toNat + val.toNat ∧
        u.dev.mach.contentDown = ⟨step.toNat, 2, val.toNat, false⟩ ∧
        u.dev.mach.abortStep ≠ some step.toNat ∧ u.dev.mach.poisonStep ≠ some step.toNat) ∧
      (perm = true → fget u.dev A.SID_VSTS F.SID_VSTS_PERMV = val.toNat ∧
        actBank u.dev = (if val = 1#2 ∧ fget d A.SID_RBANK F.SID_RBANK_PREP = 1 then 1 - actBank d else actBank d)) ∧
      keepsBut [.gov, .ports, .mach, .hst] d u.dev ∧ keepsRegs machReports d u.dev)) ∧
  (∀ (t : Nat) (port : BitVec 3) (s : State), let d := tick s.dev t
    let p := port.toNat
    let tr := d.mach.tree
    let tmo := fget d (vtree d) F.SID_VTREE_CHILDTMO
    ((tmo = 0 ∨ tr.own = none ∨ d.now < tr.ownAt + us tmo) → exec (.childTimeout t port) s = .next { s with dev := d }) ∧
    (∀ n v, tmo ≠ 0 → tr.own = some (n, v) → n < 2 ^ 32 → v ≠ 0 → v < 4 → tr.ownAt + us tmo ≤ d.now →
      treeChildren d = [p] → childInput d false n p = none → tr.sent.map Prod.fst ≠ some n → seqState d = 1 →
      treeRoot d = true → quiet d → ∃ u, exec (.childTimeout t port) s = .next u ∧
        fget u.dev A.SID_VSTS F.SID_VSTS_VSTEP = n ∧ fget u.dev A.SID_VSTS F.SID_VSTS_VERDICT = 3 ∧
        govNow u.dev .verdict = 4 * n + 3 ∧ fget u.dev A.SID_STS F.SID_STS_EXC = 0xFC ∧
        keepsBut [.gov, .ports, .mach, .hst] d u.dev ∧ keepsRegs machReports d u.dev))

/-! ### The collective engine (14) -/

/-- COLLECTIVE_LAUNCH, COLL_READY, COLL_ADD, COLL_WRITE, COLL_ACK, PHASE_LANDED, COLLECTIVE_COMPLETE and COLLECTIVE_TIMEOUT. The
next armed entry whose trigger count has come launches and tells its predecessor that it is ready; its successor's READY
sends the first phase. WRITE stores its bytes, ADD adds them element by element, and both count for their phase; a message
of another slice, step or attempt is discarded. A phase landed is acknowledged, a complete collective leaves the engine and
its channel counts it, and one that lasts longer than TMO aborts the step. -/
def Obligations.CollectivesRunTheirPhases : Prop :=
  (∀ (t : Nat) (s : State), let d := landCommits (settle (tick s.dev t))
    let k := d.mach.launched
    ((d.mach.armed ≤ k ∨ d.mach.ended = 1 ∨ running d .col = false ∨ cltEntry d k = none) →
      exec (.collectiveLaunch t) s = .next { s with dev := d }) ∧
    (∀ e q, cltEntry d k = some e → k < d.mach.armed → d.mach.ended ≠ 1 → ceTcount e ≤ trigProd d (ceTrill e) →
      d.mach.colls.length < 16 → running d .col = true → ceTapL e = false → 2 ≤ cltNm e →
      d.mach.keptReady.contains (k, curStep d * 256 + attemptNow d) = false → collOf d k = none → quiet d →
      let chip := cltPeer d e (cltIdx e + cltNm e - 1)
      chip ≠ ownChip d → routeTo d chip = some q → carries d q (ceVc e) = true →
      ∃ u, exec (.collectiveLaunch t) s = .next u ∧ u.dev.mach.launched = k + 1 ∧
        u.dev.mach.colls = d.mach.colls ++ [⟨k, e, curStep d, attemptNow d, d.now, false, ceFirst e, ceFirst e, [],
          ceFirst e, false⟩] ∧
        fget u.dev A.COL_STS F.COL_STS_RUN = d.mach.colls.length + 1 ∧
        (portOf u.dev q).queue = (portOf d q).queue ++ [⟨(portOf d q).nextId,
          collMsg d chip (ceVc e) 2 k (attemptNow d) 0 (curStep d) 0 (cltFmt e) false [], 0, none⟩] ∧
        keepsBut [.ports, .mach] d u.dev ∧ keepsRegs (these [A.COL_STS]) d u.dev)) ∧
  (∀ (port : BitVec 3) (m : Msg) (s : State) (c : Coll), let d := s.dev
    let p := port.toNat
    let e := c.ent
    let a := cltBuf e + bits m.w2 41 0
    let n := m.data.length
    let ph := phaseNear c.landed (bits m.w1 31 24)
    let now := fun (u : State) (c' : Coll) => u.dev.mach.colls = d.mach.colls.map (fun x => if x.cid = c.cid then c' else x)
    let mine := fun (u : State) (ps : List Piece) => keepsBut ([.ports, .mach] ++ ps) d u.dev ∧
      keepsRegs (fun x => isAccess x || isVc p x || x == A.COL_STS) d u.dev
    arrives d p m → d.ms.marks = [] → collOf d (bits m.w1 13 4) = some c →
    (collCurrent d m = false →
      (∀ op : Instr, (op = .collAdd port m ∨ op = .collWrite port m ∨ op = .collReady port m ∨ op = .collAck port m) →
        ∃ u, exec op s = .next u ∧ keepsBut [.ports] d u.dev ∧
          keepsRegs (fun x => isCounter x || isVc p x) d u.dev)) ∧
    (collCurrent d m = true →
      (bits m.w2 41 0 + n ≤ cltLen e → m.data ≠ [] → plainMem d a n → ceTapR e = false →
        ∃ u, exec (.collWrite port m) s = .next u ∧ memRead u.dev.mem a n = m.data ∧
          (∀ x, x < a ∨ a + n ≤ x → memGet u.dev.mem x = memGet d.mem x) ∧
          now u { c with bytes := sset 0 ph (sget 0 ph c.bytes + n) c.bytes } ∧ mine u [.mem, .ms]) ∧
      (∀ k, bits m.w2 41 0 + n ≤ cltLen e → m.data ≠ [] → inStacks d a n = true → atomSize (cltFmt e) = some k →
        a % k = 0 → n % k = 0 → a % 128 + n ≤ 128 → ∃ u, exec (.collAdd port m) s = .next u ∧
          u.dev.mem = memWrite d.mem a ((List.range (n / k)).map (fun i => leBytes k
            (atomElem (cltFmt e) (memNat d.mem (a + k * i) k) (leAt m.data (k * i) k)).1)).flatten ∧
          now u { c with bytes := sset 0 ph (sget 0 ph c.bytes + n) c.bytes }) ∧
      (∃ u, exec (.collAck port m) s = .next u ∧ now u { c with acked := min (c.acked + 1) c.next } ∧ mine u []) ∧
      (∀ q, let first := ceFirst e
        let off := ceSends e first * ceChunk e
        let chip := cltPeer d e (cltIdx e + 1)
        c.next = first → c.landed = first → first ≤ ceLast e → (cltOp e = 2 ∨ first < cltNm e - 1) →
        0 < ceChunk e → ceChunk e ≤ 4096 → plainMem d (cltBuf e + off) (ceChunk e) → c.cid = bits m.w1 13 4 →
        chip ≠ ownChip d → routeTo d chip = some q → carries d q (ceVc e) = true →
        ∃ u, exec (.collReady port m) s = .next u ∧ now u { c with ready := true, next := first + 1 } ∧
          (portOf u.dev q).queue = (portOf d q).queue ++ [⟨(portOf d q).nextId,
            collMsg d chip (ceVc e) (if first + 1 < cltNm e then 0 else 1) c.cid c.attempt first c.step off (cltFmt e)
              (ceGp e) (memRead d.mem (cltBuf e + off) (ceChunk e)), 0, none⟩] ∧ mine u [.ms]))) ∧
  (∀ (cid : BitVec 10) (s : State) (c : Coll), let d := s.dev
    let e := c.ent
    let ch := collChan e
    collOf d cid.toNat = some c → c.cid = cid.toNat →
    (∀ q, let chip := cltPeer d e (cltIdx e + cltNm e - 1)
      c.landed ≤ ceLast e → ceChunk e ≤ sget 0 c.landed c.bytes → ceLast e < c.next → (cltOp e = 2 ∨ c.scaled = true) → quiet d →
      chip ≠ ownChip d → routeTo d chip = some q → carries d q (ceVc e) = true →
      ∃ u, exec (.phaseLanded cid) s = .next u ∧
        u.dev.mach.colls = d.mach.colls.map (fun x => if x.cid = c.cid then { c with landed := c.landed + 1 } else x) ∧
        (portOf u.dev q).queue = (portOf d q).queue ++ [⟨(portOf d q).nextId,
          collMsg d chip (ceVc e) 3 c.cid c.attempt c.landed c.step 0 (cltFmt e) false [], 0, none⟩] ∧
        keepsBut [.ports, .mach] d u.dev ∧ keepsRegs (these [A.COL_STS]) d u.dev) ∧
    (c.landed ≤ ceLast e → sget 0 c.landed c.bytes < ceChunk e → exec (.phaseLanded cid) s = .next s) ∧
    (ceLast e < c.next → ceLast e < c.landed → c.next ≤ c.acked → (cltOp e = 2 ∨ c.scaled = true) →
      ∃ u, exec (.collectiveComplete cid) s = .next u ∧
        u.dev.mach.colls = d.mach.colls.filter (fun x => x.cid != cid.toNat) ∧ u.dev.mach.done = d.mach.done + 1 ∧
        fget u.dev (A.AQD_CHCNTA ch.1 ch.2) F.AQD_CHCNTA_COMPLETED =
          (fget d (A.AQD_CHCNTA ch.1 ch.2) F.AQD_CHCNTA_COMPLETED + 1) % 2 ^ 32 ∧
        keepsBut [.gov, .mach] d u.dev ∧
        keepsRegs (fun a => isCounter a || these [A.COL_STS, A.AQD_CHCNTA ch.1 ch.2, A.AQD_CHSTS ch.1 ch.2] a) d u.dev) ∧
    (c.landed ≤ ceLast e → exec (.collectiveComplete cid) s = .next s)) ∧
  (∀ (t : Nat) (cid : BitVec 10) (s : State) (c : Coll), let d := tick s.dev t
    let ch := collChan c.ent
    collOf d cid.toNat = some c → c.launchedAt + us (fget d A.COL_CFG F.COL_CFG_TMO) < d.now →
    ∃ u, exec (.collectiveTimeout t cid) s = .next u ∧
      u.dev.mach.colls = d.mach.colls.filter (fun x => x.cid != cid.toNat) ∧
      u.dev.mach.abortStep = some (curStep d) ∧ fget u.dev A.COL_STS F.COL_STS_EXC = 0xF8 ∧
      fget u.dev A.COL_STS F.COL_STS_CID = cid.toNat ∧
      fget u.dev (A.AQD_CHCNTB ch.1 ch.2) F.AQD_CHCNTB_DISCARDED =
        (fget d (A.AQD_CHCNTB ch.1 ch.2) F.AQD_CHCNTB_DISCARDED + 1) % 2 ^ 32 ∧
      keepsBut [.gov, .mach, .hst] d u.dev ∧
      keepsRegs (fun a => machReports a || these [A.AQD_CHCNTB ch.1 ch.2, A.AQD_CHSTS ch.1 ch.2] a) d u.dev)

/-- PERMUTATION_LAUNCH, PERMUTATION_COMPLETE, PERMUTATION_BUDGET and PWRITE. At T_N + PSTART an armed permutation sends the bytes
of its table's entries, one that is not armed is reported as failed; it completes when every PWRITE is acknowledged and its
own bytes have landed, and fails at the end of its budget. A PWRITE of the armed pattern is stored, counted and acknowledged;
any other is discarded. -/
def Obligations.PermutationsMoveTheSlice : Prop :=
  (∀ (t : Nat) (s : State), let d := tick s.dev t
    let n := d.mach.reclaim.time
    let start := n + stSec (fget d A.SID_RCFG F.SID_RCFG_PSTART)
    let ch := permChan d
    let patt := fget d A.COL_PRX F.COL_PRX_PATT
    let ends := fun (u : State) => u.dev.mach.perm.run = false ∧ keepsBut [.gov, .ports, .mach, .hst] d u.dev ∧
      keepsRegs (fun a => machReports a || these [A.AQD_CHCNTA ch.1 ch.2, A.AQD_CHCNTB ch.1 ch.2, A.AQD_CHSTS ch.1 ch.2] a)
        d u.dev
    quiet d → d.ms.marks = [] →
    ((n = 0 ∨ d.mach.perm.run = true ∨ sidNow d < start) →
      exec (.permutationLaunch t) s = .next { s with dev := d }) ∧
    (n ≠ 0 → d.mach.perm.run = false → start ≤ sidNow d → d.mach.started ≠ n →
      ((fget d A.COL_PRX F.COL_PRX_ARM = 0 ∨ running d .col = false) →
        ∃ u, exec (.permutationLaunch t) s = .next u ∧ u.dev.mach.started = n ∧ u.dev.mach.perm.patt = patt ∧ ends u) ∧
      (∀ q, let tab := fget d A.COL_PERM F.COL_PERM_BASE * 32
        let w := fun i => leAt (memRead d.mem tab 32) (8 * i) 8
        let src := bits (w 1) 41 0
        let len := bits (w 3) 31 0
        let chip := bits (w 0) 13 0
        let vc := if fget d A.COL_PRX F.COL_PRX_VC = 1 then 4 else 1
        fget d A.COL_PRX F.COL_PRX_ARM = 1 → running d .col = true → fget d A.COL_PERM F.COL_PERM_NPM1 = 0 →
        plainMem d tab 32 → 0 < len → len ≤ 4096 → plainMem d src len → chip ≠ ownChip d → routeTo d chip = some q →
        carries d q vc = true → ∃ u, exec (.permutationLaunch t) s = .next u ∧ u.dev.mach.started = n ∧
          u.dev.mach.perm.run = true ∧ u.dev.mach.perm.unacked = 1 ∧
          fget u.dev (A.AQD_CHCNTA ch.1 ch.2) F.AQD_CHCNTA_ISSUED =
            (fget d (A.AQD_CHCNTA ch.1 ch.2) F.AQD_CHCNTA_ISSUED + 1) % 2 ^ 32 ∧
          (portOf u.dev q).queue = (portOf d q).queue ++ [⟨(portOf d q).nextId,
            collMsg d chip vc 4 0 patt 0 (curStep d) (bits (w 2) 41 0) 0 false (memRead d.mem src len), 0, none⟩])) ∧
    (d.mach.perm.run = true → d.mach.perm.unacked = 0 →
      fget d A.COL_PRX F.COL_PRX_RXBYTES ≤ d.mach.perm.landed → ∃ u, exec (.permutationComplete t) s = .next u ∧
      fget u.dev (A.AQD_CHCNTA ch.1 ch.2) F.AQD_CHCNTA_COMPLETED =
        (fget d (A.AQD_CHCNTA ch.1 ch.2) F.AQD_CHCNTA_COMPLETED + 1) % 2 ^ 32 ∧ ends u) ∧
    (n ≠ 0 → d.mach.perm.run = true →
      n + stSec (fget d A.SID_RCFG F.SID_RCFG_PSTART + fget d A.SID_RCFG F.SID_RCFG_PBUDGET) ≤ sidNow d →
      ∃ u, exec (.permutationBudget t) s = .next u ∧
      fget u.dev (A.AQD_CHCNTB ch.1 ch.2) F.AQD_CHCNTB_DISCARDED =
        (fget d (A.AQD_CHCNTB ch.1 ch.2) F.AQD_CHCNTB_DISCARDED + 1) % 2 ^ 32 ∧ ends u)) ∧
  (∀ (port : BitVec 3) (m : Msg) (s : State), let d := s.dev
    let p := port.toNat
    let a := bits m.w2 41 0
    let taken := fget d A.COL_PRX F.COL_PRX_ARM = 1 ∧ bits m.w1 23 16 = fget d A.COL_PRX F.COL_PRX_PATT ∧
      bits m.w2 61 46 = fget d A.SID_SLICE F.SID_SLICE_SLICE ∧ bits m.w1 63 32 = curStep d
    arrives d p m → d.ms.marks = [] →
    (¬ taken → ∃ u, exec (.pwrite port m) s = .next u ∧ keepsBut [.ports] d u.dev ∧
      keepsRegs (fun x => isCounter x || isVc p x) d u.dev) ∧
    (∀ q, taken → m.data ≠ [] → plainMem d a m.data.length → m.schip ≠ ownChip d → routeTo d m.schip = some q →
      carries d q 3 = true → ∃ u, exec (.pwrite port m) s = .next u ∧ memRead u.dev.mem a m.data.length = m.data ∧
        (∀ x, x < a ∨ a + m.data.length ≤ x → memGet u.dev.mem x = memGet d.mem x) ∧
        u.dev.mach.perm.landed = d.mach.perm.landed + m.data.length ∧
        (portOf u.dev q).queue = (portOf d q).queue ++ [⟨(portOf d q).nextId,
          { synthetic d true m.schip 0 0 p (epochOf d p) with w2 := 0 }, 0, none⟩] ∧
        keepsBut [.ports, .mem, .ms, .mach] d u.dev ∧ keepsRegs (fun x => isAccess x || isVc p x) d u.dev))

/-! ### The host's side, the scrub and management (15) -/

/-- DOORBELL, DESCRIPTOR_FETCH, DATA_DESCRIPTOR_FETCH, DATA_WAIT_TIMEOUT, OVERFLOW_RECORD_WRITE, MSIX_MODERATION, FLR,
SCRUB_GO and SCRUB_COMPLETE. A
doorbell that its ring allows moves the host's index, any other write to BAR2 changes nothing of it. A command descriptor is
stored in its slot and counted, one of an unknown type stops the ring and the chip; a data descriptor joins its ring, and a
transfer that waits for one longer than DWAIT stops and aborts the step. A record held goes out as soon as its ring takes it; records not signalled are signalled after MODT. An FLR with every block
STOPPED leaves the HST block reset, and a scrub leaves every byte of memory zero. -/
def Obligations.HostRingsRunAndClear : Prop :=
  (∀ (off : BitVec 20) (data : List Byte) (s : State), let d := s.dev
    let n := off.toNat / 0x1000
    ((off.toNat % 0x1000 ≠ 0 ∨ data.length ≠ 4) → exec (.doorbell off data) s = .next s) ∧
    (off.toNat % 0x1000 = 0 → data.length = 4 → bellBad d n (leNat data) = false →
      ∃ u, exec (.doorbell off data) s = .next u ∧ fget u.dev (A.HST_RIDX n) F.HST_RIDX_HOSTIDX = leNat data ∧
        (ringH u.dev n).bell = true ∧ keepsBut [.hst] d u.dev ∧
        keepsRegs (fun a => isReport a || a == A.HST_RIDX n) d u.dev) ∧
    (off.toNat % 0x1000 = 0 → data.length = 4 → bellBad d n (leNat data) = true → d.hst.evovf = none →
      ∃ u, exec (.doorbell off data) s = .next u ∧
        fget u.dev (A.HST_RIDX n) F.HST_RIDX_HOSTIDX = fget d (A.HST_RIDX n) F.HST_RIDX_HOSTIDX ∧
        fget u.dev A.HST_STS F.HST_STS_EXC = 0xA8 ∧ keepsBut [.hst] d u.dev ∧ keepsRegs isReport d u.dev)) ∧
  (∀ (t : Nat) (ring : BitVec 8) (s : State), let d := tick s.dev t
    let n := ring.toNat
    let k := (ringH d n).fetched
    quiet d → ringFetches d n true = true →
    (∀ desc, 2 ≤ pstate d → exec (.descriptorFetch t ring desc) s = .next { s with dev := d }) ∧
    (∀ desc, pstate d < 2 → (k = fget d (A.HST_RIDX n) F.HST_RIDX_HOSTIDX ∨ slotFree d n = false) →
      ∃ u, exec (.descriptorFetch t ring desc) s = .next u ∧ (ringH u.dev n).fetched = k ∧ keepsBut [.hst] d u.dev ∧
        keepsRegs (fun _ => false) d u.dev) ∧
    (pstate d < 2 → k ≠ fget d (A.HST_RIDX n) F.HST_RIDX_HOSTIDX → slotFree d n = true →
      (∀ bs : List Byte, ((bs.headD 0).toNat = 1 ∨ (bs.headD 0).toNat = 2) → plainMem d (slotAt d n k) 64 →
        d.ms.marks = [] → ∃ u, exec (.descriptorFetch t ring (some bs)) s = .next u ∧
          (ringH u.dev n).fetched = (k + 1) % 2 ^ 32 ∧
          memRead u.dev.mem (slotAt d n k) 64 = (bs ++ List.replicate 64 0).take 64 ∧
          (∀ a, a < slotAt d n k ∨ slotAt d n k + 64 ≤ a → memGet u.dev.mem a = memGet d.mem a) ∧
          govNow u.dev (.ringArr n) = (k + 1) % 2 ^ 32 ∧ keepsBut [.mem, .ms, .gov, .hst] d u.dev ∧
          keepsRegs isAccess d u.dev) ∧
      (∀ bs : List Byte, (bs.headD 0).toNat ≠ 1 → (bs.headD 0).toNat ≠ 2 →
        ∃ u, exec (.descriptorFetch t ring (some bs)) s = .next u ∧ (ringH u.dev n).stopped = true ∧
          (fget u.dev A.GLB_ERRSUM F.GLB_ERRSUM_SEV).testBit 3 = true ∧ seqState u.dev ≠ 1 ∧ u.dev.mem = d.mem) ∧
      (∃ u, exec (.descriptorFetch t ring none) s = .next u ∧
        (fget u.dev A.GLB_ERRSUM F.GLB_ERRSUM_SEV).testBit 3 = true ∧ seqState u.dev ≠ 1 ∧ u.dev.mem = d.mem))) ∧
  (∀ (t : Nat) (ring : BitVec 8) (bs : List Byte) (s : State), let d := settle (tick s.dev t)
    let n := ring.toNat
    let r := ringH d n
    quiet d → ringFetches d n false = true → r.fetched ≠ fget d (A.HST_RIDX n) F.HST_RIDX_HOSTIDX →
    sub32 r.fetched r.head ≤ 4 → aqdWaits d →
    ∃ u, exec (.dataDescriptorFetch t ring (some bs)) s = .next u ∧ (ringH u.dev n).fetched = (r.fetched + 1) % 2 ^ 32 ∧
      sfind r.fetched (ringH u.dev n).descs = some ⟨leAt bs 0 8, leAt bs 8 4⟩ ∧ keepsBut [.hst] d u.dev ∧
      keepsRegs isCounter d u.dev) ∧
  (∀ (t : Nat) (half : Half) (chan : BitVec 5) (s : State), let d := aqdRun (tick s.dev t)
    let h := hn half
    let c := chan.toNat
    (nextXfer d h c = none → exec (.dataWaitTimeout t half chan) s = .next { s with dev := d }) ∧
    (∀ x, (∀ q, q < 4 → aqdQueue d q = []) → d.aqd.chans = [(32 * h + c, [x])] → d.aqd.reqs = [] → d.aqd.since = [] →
      d.aqd.ready = [] → nextXfer d h c = some x → x.waitHost ≠ 0 →
      x.waitHost - 1 + us (fget d A.HST_CFG F.HST_CFG_DWAIT) < d.now →
      ∃ u, exec (.dataWaitTimeout t half chan) s = .next u ∧ chanOf u.dev h c = [] ∧
        u.dev.mach.abortStep = some (curStep d) ∧ fget u.dev (A.AQD_CHCNTB h c) F.AQD_CHCNTB_DISCARDED =
          (fget d (A.AQD_CHCNTB h c) F.AQD_CHCNTB_DISCARDED + 1) % 2 ^ 32 ∧ keepsBut [.aqd, .gov, .mach, .hst] d u.dev ∧
        keepsRegs (fun a => isReport a || these [A.AQD_CHCNTB h c, A.AQD_CHSTS h c] a) d u.dev)) ∧
  (∀ (s : State), let d := s.dev
    d.hst.statWait = [] → d.hst.evovf = none →
    (firstTaken d [] d.hst.ovf = none → exec .overflowRecordWrite s = .next s) ∧
    (∀ n r, firstTaken d [] d.hst.ovf = some (n, r) → n < 256 → ∃ u, exec .overflowRecordWrite s = .next u ∧
      u.dev.hst.ovf = d.hst.ovf.erase (n, r) ∧
      fget u.dev (A.HST_RIDX n) F.HST_RIDX_DEVIDX = (fget d (A.HST_RIDX n) F.HST_RIDX_DEVIDX + 1) % 2 ^ 32 ∧
      keepsBut [.hst] d u.dev ∧ keepsRegs isReport d u.dev)) ∧
  (∀ (t : Nat) (ring : BitVec 8) (s : State), let d := tick s.dev t
    let r := ringH d ring.toNat
    (r.unsig = 0 → exec (.msixModeration t ring) s = .next { s with dev := d }) ∧
    (r.unsig ≠ 0 → r.unsigAt + us (fget d A.HST_CFG F.HST_CFG_MODT) ≤ d.now →
      ∃ u, exec (.msixModeration t ring) s = .next u ∧
        u.dev.hst.msix = liveGet d (A.HST_RCFG ring.toNat) F.HST_RCFG_VEC :: d.hst.msix ∧
        (ringH u.dev ring.toNat).unsig = 0 ∧ keepsBut [.hst] d u.dev ∧ keepsRegs isCounter d u.dev)) ∧
  (∀ (t : Nat) (s : State), let d := observe s.dev t
    (blocksActive d = [] → (∀ b, b ∈ allBlocks d → blkState d b = 0) → ∃ u, exec (.flr t) s = .next u ∧
      u.dev.hst.rings = [] ∧ u.dev.hst.ovf = [] ∧ u.dev.hst.flr = false ∧
      (∀ a, 0x100000 ≤ a → a < 0x200000 → regGet u.dev a = regReset a) ∧
      (∀ b, b ∈ [Blk.seq, .eph, .col] → fget u.dev (ctlAddr b) F.EN = 0) ∧ u.dev.mem = d.mem ∧ u.dev.cas = d.cas) ∧
    (scrubbing d = true → exec (.scrubGo t) s = .next { s with dev := d }) ∧
    (scrubbing d = false → pstate d = 0 → blocksActive d = [] → ∃ u, exec (.scrubGo t) s = .next u ∧
      fget u.dev A.GLB_SCRUB F.GLB_SCRUB_STATE = 1 ∧ fget u.dev A.GLB_SCRUB F.GLB_SCRUB_PROG = 0 ∧
      keepsBut [] d u.dev ∧ keepsRegs (these [A.GLB_SCRUB]) d u.dev) ∧
    (scrubbing d = false → (pstate d ≠ 0 ∨ blocksActive d ≠ []) → ∃ u, exec (.scrubGo t) s = .next u ∧
      fget u.dev A.GLB_SCRUB F.GLB_SCRUB_STATE = 3 ∧ keepsBut [] d u.dev ∧ keepsRegs (these [A.GLB_SCRUB]) d u.dev) ∧
    (scrubbing d = false → exec (.scrubComplete t) s = .next { s with dev := d }) ∧
    (scrubbing d = true → d.pwr.heldEn = [] → ∃ u, exec (.scrubComplete t) s = .next u ∧
      (∀ a, memGet u.dev.mem a = 0) ∧ fget u.dev A.GLB_SCRUB F.GLB_SCRUB_STATE = 2 ∧ u.dev.cas.elems = [] ∧
      u.dev.jet.bytes = [] ∧ u.dev.eph = Eph.init ∧ (∀ i, i < 512 → regGet u.dev (A.SID_MEMB i) = 0) ∧
      (∀ a, memGet u.dev.nv a = memGet d.nv a) ∧ u.dev.ports = d.ports ∧ u.dev.pwr = d.pwr))

/-- MGMT, MCTP_PACKET, PLDM_FIRMWARE_UPDATE and PLDM_STATE_CHANGE. A MGMT message of a good KIND and length, and an SMBus write
to the controller with a right PEC, hand over their packet; others are dropped. A firmware update never touches the active
slot, and ends refused in Cold, and where it is guarded, too long or its check fails; a whole one that checks changes ACTIVE. State
changes act as their registers do, and COLD outside Hold is refused. -/
def Obligations.ControllerTakesPacketsAndUpdates : Prop :=
  (∀ (t : Nat) (port : BitVec 3) (m : Msg) (s : State), let d := observe s.dev t
    let p := port.toNat
    let good := bits m.w1 7 0 = 1 ∧ 4 ≤ m.data.length ∧ m.data.length ≤ 1024
    linkStale d p { m with mtype := 8 } = false → m.vc < 6 →
    (good → pldmRequest m.data = false → ∃ u, exec (.mgmt t port m) s = .next u ∧
      u.dev.mgt.packets = (m.schip, m.data) :: d.mgt.packets ∧ u.dev.mgt.discarded = d.mgt.discarded ∧
      keepsBut [.ports, .mgt] d u.dev ∧ keepsRegs (isVc p) d u.dev) ∧
    (¬ good → ∃ u, exec (.mgmt t port m) s = .next u ∧ u.dev.mgt.packets = d.mgt.packets ∧
      u.dev.mgt.discarded = d.mgt.discarded + 1 ∧ keepsBut [.ports, .mgt] d u.dev ∧ keepsRegs (isVc p) d u.dev)) ∧
  (∀ (t : Nat) (addr : BitVec 7) (data : List Byte) (s : State), let d := tick s.dev t
    let mine := d.pwr.vaux = true ∧ addr.toNat = 0x4C + d.pwr.smb ∧
      crc8 (BitVec.ofNat 8 (2 * addr.toNat) :: data) = 0 ∧ data.headD 0 = 0x0F ∧
      data.length = (data.getD 1 0).toNat + 3 ∧ 5 ≤ (data.getD 1 0).toNat
    (¬ mine → exec (.mctpPacket t addr data) s = .next { s with dev := d }) ∧
    (mine → ∃ u, exec (.mctpPacket t addr data) s = .next u ∧ u.dev.mgt.packets =
      ((data.getD 2 0).toNat / 2, (data.drop 3).take ((data.getD 1 0).toNat - 1)) :: d.mgt.packets ∧
      keepsBut [.mgt] d u.dev ∧ keepsRegs (fun _ => false) d u.dev)) ∧
  (∀ (t : Nat) (image : List Byte) (whole : Bool) (s : State), let d := tick s.dev t
    let later := nvLater (nvWrite d stagingBase image)
    let active := bootBase (dirActive later)
    (d.pwr.vaux = false → exec (.pldmFirmwareUpdate t image whole) s = .next { s with dev := d }) ∧
    (d.pwr.vaux = true → (d.pwr.wpLow = true ∨ pstate d = 4 ∨ 0xF00000 < image.length) →
      ∃ u, exec (.pldmFirmwareUpdate t image whole) s = .next u ∧ u.dev.mgt.refused = true ∧ keepsBut [.mgt] d u.dev ∧
        keepsRegs (fun _ => false) d u.dev) ∧
    (d.pwr.vaux = true → d.pwr.wpLow = false → pstate d ≠ 4 → image.length ≤ 0xF00000 →
      ∃ u, exec (.pldmFirmwareUpdate t image whole) s = .next u ∧
        (∀ k, k < 0xF00000 → memGet u.dev.nvNext (active + k) = memGet d.nvNext (active + k)) ∧
        (whole = true → u.dev.mgt.refused = decide (slotReason later stagingBase ≠ 0)) ∧
        (whole = true → slotReason later stagingBase = 0 →
          dirActive (nvLater u.dev) = !dirActive (nvLater d)) ∧
        ((whole = false ∨ slotReason later stagingBase ≠ 0) → ∀ k, k < stagingBase →
          memGet u.dev.nvNext k = memGet d.nvNext k) ∧
        keepsBut [.nv, .mgt] d u.dev ∧ keepsRegs (fun _ => false) d u.dev)) ∧
  (∀ (t : Nat) (boot : BootIn) (s : State), let d := observe s.dev t
    (d.pwr.vaux = false → ∀ req, exec (.pldmStateChange t req boot) s = .next { s with dev := d }) ∧
    (d.pwr.vaux = true → pstate d = 0 → ∃ u, exec (.pldmStateChange t .hold boot) s = .next u ∧ pstate u.dev = 1 ∧
      u.dev.mgt.refused = false) ∧
    (d.pwr.vaux = true → pstate d = 2 → ∃ u, exec (.pldmStateChange t .wake boot) s = .next u ∧ pstate u.dev = 3 ∧
      fget u.dev A.PWR_WAKE F.PWR_WAKE_SRC = 2) ∧
    (d.pwr.vaux = true → pstate d ≠ 2 → ∃ u, exec (.pldmStateChange t .cold boot) s = .next u ∧
      u.dev.mgt.refused = true ∧ keepsBut [.mgt] d u.dev ∧ keepsRegs (fun _ => false) d u.dev) ∧
    (d.pwr.vaux = true → ∃ u, exec (.pldmStateChange t .clear boot) s = .next u ∧
      fget u.dev A.PWR_THR F.PWR_THR_STUCK = 0 ∧ u.dev.mgt.refused = false))

/-! ### Power (16) -/

/-- CURRENT_INTERVAL, THROTTLE_SAMPLE, THROTTLE_STUCK, THROTTLE_CLEAR, THERMAL_FLOOR and POWER_CAP_INTERVAL. Each sets its own
floor: the smallest gap under the ramp's ceiling, GAP while throttled or stuck, TGAP or 15 by temperature, one step by the
power cap. The floor in force is the largest of the four, and THROT stands while any but the ramp's is above 0. -/
def Obligations.FloorsFollowTheirSources : Prop :=
  let settled := fun (d : Dev) (u : State) =>
    let f := fun (x : Fld) => fget u.dev A.PWR_FLOOR x
    f F.PWR_FLOOR_EFF = max (max (f F.PWR_FLOOR_LIM) (f F.PWR_FLOOR_THR)) (max (f F.PWR_FLOOR_THERM) (f F.PWR_FLOOR_CAP)) ∧
    fget u.dev A.PWR_STS F.PWR_STS_THROT =
      (if f F.PWR_FLOOR_THR = 0 ∧ f F.PWR_FLOOR_THERM = 0 ∧ f F.PWR_FLOOR_CAP = 0 then 0 else 1) ∧
    keepsBut [.gov, .pwr, .hst] d u.dev ∧ keepsRegs (fun a => isReport a ||
      these [A.PWR_FLOOR, A.PWR_STS, A.PWR_THR, A.PWR_MON, A.SEQ_GAP 0, A.SEQ_GAP 1] a) d u.dev
  let thr := fun (d : Dev) (filt stuck : Nat) => if filt = 1 ∨ stuck = 1 then fget d A.PWR_THR F.PWR_THR_GAP else 0
  (∀ (t : Nat) (s : State), let d := tick s.dev t
    let filt := fget d A.PWR_THR F.PWR_THR_FILT
    let stuck := fget d A.PWR_THR F.PWR_THR_STUCK
    let warn := fget d A.PWR_THR F.PWR_THR_TWARN
    (∀ (ia ib : BitVec 16) (est : List (Nat × Nat)), ∃ u, exec (.currentInterval t ia ib est) s = .next u ∧
      fget u.dev A.PWR_FLOOR F.PWR_FLOOR_LIM = limFloor d est ∧ fget u.dev A.PWR_MON F.PWR_MON_IA = ia.toNat ∧
      fget u.dev A.PWR_MON F.PWR_MON_IB = ib.toNat ∧ settled d u) ∧
    (∀ on : Bool, b2n on = filt → ∃ u, exec (.throttleSample t on) s = .next u ∧
      fget u.dev A.PWR_THR F.PWR_THR_RAW = b2n on ∧ u.dev.pwr.samples = 0 ∧ keepsBut [.pwr] d u.dev ∧
      keepsRegs (these [A.PWR_THR]) d u.dev) ∧
    (∀ on : Bool, b2n on ≠ filt → d.pwr.samples < 3 → ∃ u, exec (.throttleSample t on) s = .next u ∧
      fget u.dev A.PWR_THR F.PWR_THR_FILT = filt ∧ u.dev.pwr.samples = d.pwr.samples + 1 ∧ keepsBut [.pwr] d u.dev ∧
      keepsRegs (these [A.PWR_THR]) d u.dev) ∧
    (∀ on : Bool, b2n on ≠ filt → 3 ≤ d.pwr.samples → ∃ u, exec (.throttleSample t on) s = .next u ∧
      fget u.dev A.PWR_THR F.PWR_THR_FILT = b2n on ∧ u.dev.pwr.samples = 0 ∧
      fget u.dev A.PWR_FLOOR F.PWR_FLOOR_THR = thr d (b2n on) stuck ∧ settled d u) ∧
    (filt = 0 → exec (.throttleStuck t) s = .next { s with dev := d }) ∧
    (filt = 1 → stuck = 0 → d.pwr.filtAt + ms 10000 < d.now → ∃ u, exec (.throttleStuck t) s = .next u ∧
      fget u.dev A.PWR_THR F.PWR_THR_STUCK = 1 ∧ fget u.dev A.PWR_FLOOR F.PWR_FLOOR_THR = thr d 1 1 ∧ settled d u) ∧
    (∀ temp, (105 ≤ temp → ∃ u, exec (.thermalFloor t temp) s = .next u ∧
        fget u.dev A.PWR_FLOOR F.PWR_FLOOR_THERM = 15 ∧ settled d u) ∧
      (temp < 105 → warn ≤ temp → ∃ u, exec (.thermalFloor t temp) s = .next u ∧
        fget u.dev A.PWR_FLOOR F.PWR_FLOOR_THERM = fget d A.PWR_THR F.PWR_THR_TGAP ∧ settled d u) ∧
      (temp < 105 → temp < warn → warn ≤ temp + 3 → ∃ u, exec (.thermalFloor t temp) s = .next u ∧
        u.dev.pwr.coolAt = 0 ∧ keepsBut [.pwr] d u.dev ∧ keepsRegs (fun _ => false) d u.dev) ∧
      (temp < 105 → temp + 3 < warn → d.pwr.coolAt = 0 → ∃ u, exec (.thermalFloor t temp) s = .next u ∧
        u.dev.pwr.coolAt = d.now + 1 ∧ keepsBut [.pwr] d u.dev ∧ keepsRegs (fun _ => false) d u.dev) ∧
      (temp < 105 → temp + 3 < warn → d.pwr.coolAt ≠ 0 → d.pwr.coolAt - 1 + ms 1 ≤ d.now →
        ∃ u, exec (.thermalFloor t temp) s = .next u ∧ fget u.dev A.PWR_FLOOR F.PWR_FLOOR_THERM = 0 ∧ settled d u)) ∧
    (∀ watts, let cap := fget d A.PWR_THR F.PWR_THR_CAP
      let v := fget d A.PWR_FLOOR F.PWR_FLOOR_CAP
      ∃ u, exec (.powerCapInterval t watts) s = .next u ∧ fget u.dev A.PWR_FLOOR F.PWR_FLOOR_CAP =
        (if cap < watts then min (v + 1) 15 else if 100 * watts < 95 * cap then v - 1 else v) ∧ settled d u)) ∧
  (∀ s : State, let d := s.dev
    ∃ u, exec .throttleClear s = .next u ∧ fget u.dev A.PWR_THR F.PWR_THR_STUCK = 0 ∧
      fget u.dev A.PWR_FLOOR F.PWR_FLOOR_THR = thr d (fget d A.PWR_THR F.PWR_THR_FILT) 0 ∧ u.dev.pwr.filtAt = d.now ∧
      settled d u)

/-- PWR_RAILWARN, PWR_RAILFAULT, RAIL_RECOVERY, THERMTRIP, CLK_LOSS, REFCLK_SERDES_LOSS, REFCLK_PCIE_LOSS, PWR_NVGUARD,
NV_GUARD_RELEASE and NV_WP_N. A rail shows its state, its warning is posted once in a millisecond, and its fault is
package-fatal unless Cold has taken the rail away. AUXLOW, a core rail out of range and NV_WP_N hold NV writes back; what
waited is written when none of them stands. THERMTRIP and the loss of REFCLK_CORE stop the clocks and the chip; the loss of
a SerDes clock resets its four ports, that of the PCIe clock takes the link down. -/
def Obligations.RailsGuardAndClocks : Prop :=
  (∀ (t : Nat) (s : State), let d := tick s.dev t
    let sup := A.PWR_SUP
    let block := fun (e : Dev) => fget e sup F.PWR_SUP_NVBLOCK
    let nvwp := fun (e : Dev) => fget e A.PWR_STS F.PWR_STS_NVWP
    let exc := fun (u : State) => fget u.dev A.PWR_STS F.PWR_STS_EXC
    let dies := fun (u : State) => (fget u.dev A.GLB_ERRSUM F.GLB_ERRSUM_SEV).testBit 4 = true ∧ seqState u.dev ≠ 1 ∧
      u.dev.mem = d.mem
    (∀ (rail : BitVec 4) (mv : BitVec 16), let r := min rail.toNat 8
      (∃ u, exec (.pwrRailwarn t rail mv) s = .next u ∧ railState u.dev r = 1 ∧ (r ≤ 1 → block u.dev = 1) ∧
        (sget 0 r d.pwr.railMs ≠ d.now / ms 1 + 1 → exc u = 0xCA) ∧ keepsBut [.pwr, .hst] d u.dev ∧
        keepsRegs (fun a => isReport a || these [sup, A.PWR_STS] a) d u.dev) ∧
      (∀ absent : Bool,
        let v := if absent then 3 else 2
        (r < 8 → pstate d = 4 → ∃ u, exec (.pwrRailfault t rail mv absent) s = .next u ∧ railState u.dev r = v ∧
          keepsBut [] d u.dev ∧ keepsRegs (these [sup]) d u.dev) ∧
        ((r = 8 ∨ pstate d ≠ 4) → d.pwr.pwrok = true → ∃ u, exec (.pwrRailfault t rail mv absent) s = .next u ∧
          railState u.dev r = v ∧ exc u = 0xC8 ∧ dies u)) ∧
      (∃ u, exec (.railRecovery t rail) s = .next u ∧ railState u.dev r = 0 ∧ keepsBut [.nv, .tst] d u.dev ∧
        keepsRegs (these [sup, A.PWR_STS]) d u.dev)) ∧
    (∃ u, exec (.thermtrip t) s = .next u ∧ u.dev.pwr.thermtrip = true ∧ u.dev.pwr.clocksOff = true ∧ exc u = 0xC9 ∧
      dies u) ∧
    (∃ u, exec (.clkLoss t) s = .next u ∧ u.dev.pwr.clocksOff = true ∧ exc u = 0xC4 ∧ dies u) ∧
    (∀ clock : BitVec 1, (∀ p, p < 8 → portEmpty d p) → ∃ u, exec (.refclkSerdesLoss t clock) s = .next u ∧
      (∀ p, p / 4 = clock.toNat → (lstate d p = 0 → lstate u.dev p = 0) ∧
        (lstate d p ≠ 0 → (portOf d p).resetAt + us (liveGet d (A.HRM_CFG p) F.HRM_CFG_RWIN) < d.now →
          lstate u.dev p = 1 ∧ fget u.dev (A.HRM_PSTS p) F.HRM_PSTS_CAUSE = 4)) ∧
      (∀ p, p < 8 → p / 4 ≠ clock.toNat → lstate u.dev p = lstate d p)) ∧
    (∃ u, exec (.pwrNvguard t true) s = .next u ∧ u.dev.pwr.auxLow = true ∧ block u.dev = 1 ∧
      (block d = 0 → nvwp u.dev = 1 ∧ exc u = 0xCF) ∧ keepsBut [.pwr, .hst] d u.dev ∧
      keepsRegs (fun a => isReport a || these [sup, A.PWR_STS] a) d u.dev) ∧
    (railState d 0 = 0 → railState d 1 = 0 → pstate d ≠ 4 → d.pwr.wpLow = false →
      (nvwp d = 0 ∨ d.pwr.wpAt = 0 ∨ d.pwr.wpAt + ms 10 ≤ d.now) → ∃ u, exec (.nvGuardRelease t) s = .next u ∧
      u.dev.pwr.auxLow = false ∧ block u.dev = 0 ∧ nvwp u.dev = 0 ∧ u.dev.nv = d.nvNext ∧
      keepsBut [.nv, .pwr, .tst] d u.dev ∧ keepsRegs (these [sup, A.PWR_STS]) d u.dev) ∧
    (∃ u, exec (.nvWpN t true) s = .next u ∧ u.dev.pwr.wpLow = true ∧ nvwp u.dev = 1 ∧ keepsBut [.pwr] d u.dev ∧
      keepsRegs (these [A.PWR_STS]) d u.dev) ∧
    (d.pwr.wpLow = true → nvwp d = 1 → d.now ≠ 0 → ∃ u, exec (.nvWpN t false) s = .next u ∧ u.dev.pwr.wpLow = false ∧
      u.dev.pwr.wpAt = d.now ∧ nvwp u.dev = 1 ∧ keepsBut [.pwr] d u.dev ∧ keepsRegs (these [sup]) d u.dev)) ∧
  (∀ s : State, let d := s.dev
    ∃ u, exec .refclkPcieLoss s = .next u ∧ u.dev.pwr.pcieUp = false ∧ keepsBut [.pwr] d u.dev ∧
      keepsRegs (fun _ => false) d u.dev)

/-- HOLD_REQUEST, HOLD_ANSWER, HOLD_ANSWER_TIMEOUT, QUIESCE_DONE, HOLD_SAVE_DONE, WAKE, WAKE_TIMER, HOLD_EXIT_DONE and COLD_ENTRY.
A request in Run asks every block; each accepts, delays or refuses by its state. The last acceptance ends the phase, a
refusal or a missing answer ends the entry with its reason, a pending wake abandons it at the next abort point, and AP3
commits it. Saved, the package is in Hold; a wake starts the exit, which leads back to Run; Cold follows Hold only. -/
def Obligations.HoldIsAskedEnteredAndLeft : Prop :=
  (∀ (t : Nat) (s : State), let d := observe s.dev t
    let phase := fun (u : State) => fget u.dev A.PWR_HSTS F.PWR_HSTS_PHASE
    let swap := fun (code inst : Nat) (c : HoldBlk) =>
      d.pwr.blocks.map (fun x => if x.code = code ∧ x.inst = inst then c else x)
    let ended := fun (u : State) (outcome : Nat) => pstate u.dev = 0 ∧ phase u = 0 ∧
      fget u.dev A.PWR_HSTS F.PWR_HSTS_OUTCOME = outcome ∧ u.dev.pwr.blocks = [] ∧
      keepsRegs (fun a => isReport a || these [A.PWR_STS, A.PWR_HSTS, A.PWR_WAKE, A.PWR_ACCT, A.TST_AUDSTS, A.TST_STS] a)
        d u.dev
    (pstate d ≠ 0 → exec (.holdRequest t) s = .next { s with dev := d }) ∧
    (pstate d = 0 → ∃ u, exec (.holdRequest t) s = .next u ∧ pstate u.dev = 1 ∧ phase u = 1 ∧
      u.dev.pwr.blocks = holdAsked.map (fun b => ⟨b.1, b.2, 0, d.now, 0⟩) ∧ u.dev.pwr.committed = false ∧
      keepsBut [.pwr, .ms] d u.dev ∧
      keepsRegs (these [A.PWR_STS, A.PWR_HSTS, A.POL_STS 0, A.POL_STS 1]) d u.dev) ∧
    (∀ (code : BitVec 4) (inst : BitVec 3), let c := code.toNat
      let i := inst.toNat
      (holdWaits d c i = none → exec (.holdAnswer t code inst) s = .next { s with dev := d } ∧
        exec (.holdAnswerTimeout t code inst) s = .next { s with dev := d }) ∧
      (∀ b, holdWaits d c i = some b →
        (wakePending d = false → d.now ≤ answerBy b →
          (holdAnswer d c i = .accept → ∃ u, exec (.holdAnswer t code inst) s = .next u ∧
            u.dev.pwr.blocks = swap c i { b with ans := 1 } ∧ pstate u.dev = 1 ∧
            phase u = (if (swap c i { b with ans := 1 }).all (fun x => x.ans == 1) then 3 else 2) ∧
            keepsBut [.pwr] d u.dev ∧ keepsRegs (these [A.PWR_HSTS]) d u.dev) ∧
          (holdAnswer d c i = .delay → b.delays ≠ 3 → ∃ u, exec (.holdAnswer t code inst) s = .next u ∧
            u.dev.pwr.blocks = swap c i { b with ans := 2, since := d.now, delays := b.delays + 1 } ∧
            pstate u.dev = 1 ∧ phase u = 2 ∧ fget u.dev A.PWR_HSTS F.PWR_HSTS_DELAYS =
              min (fget d A.PWR_HSTS F.PWR_HSTS_DELAYS + 1) 255 ∧ keepsBut [.pwr] d u.dev ∧
            keepsRegs (these [A.PWR_HSTS]) d u.dev) ∧
          (∀ r, holdAnswer d c i = .refuse r → d.pwr.heldEn = [] → ∃ u, exec (.holdAnswer t code inst) s = .next u ∧
            fget u.dev A.PWR_HSTS F.PWR_HSTS_BLOCK = c ∧ fget u.dev A.PWR_HSTS F.PWR_HSTS_INST = i ∧
            fget u.dev A.PWR_HSTS F.PWR_HSTS_REASON = r ∧ ended u 1 ∧ keepsBut [.pwr, .hst] d u.dev)) ∧
        (answerBy b < d.now → d.pwr.heldEn = [] → ∃ u, exec (.holdAnswerTimeout t code inst) s = .next u ∧
          fget u.dev A.PWR_HSTS F.PWR_HSTS_REASON = 4 ∧ fget u.dev A.PWR_HSTS F.PWR_HSTS_BLOCK = c ∧ ended u 1 ∧
          keepsBut [.pwr, .hst] d u.dev))) ∧
    (pstate d = 1 → fget d A.PWR_HSTS F.PWR_HSTS_PHASE = 3 →
      (wakePending d = false → ∃ u, exec (.quiesceDone t) s = .next u ∧ u.dev.pwr.committed = true ∧ phase u = 4 ∧
        pstate u.dev = 1 ∧ keepsBut [.pwr, .hst, .tst] d u.dev ∧
        keepsRegs (fun a => isReport a || these [A.PWR_HSTS, A.TST_AUDSTS, A.TST_STS] a) d u.dev) ∧
      (wakePending d = true → d.pwr.heldEn = [] → ∃ u, exec (.quiesceDone t) s = .next u ∧
        fget u.dev A.PWR_HSTS F.PWR_HSTS_AP = 3 ∧ ended u 2 ∧ keepsBut [.pwr, .hst, .tst] d u.dev)) ∧
    (pstate d = 1 → d.pwr.committed = true → ∃ u, exec (.holdSaveDone t) s = .next u ∧
      pstate u.dev = (if d.pwr.wakeAfter then 3 else 2) ∧ u.dev.pwr.asleep = true ∧
      u.dev.pwr.image.hold = saveRows d (holdRows 0 ++ holdRows 1) ∧
      fget u.dev A.PWR_SUP F.PWR_SUP_IMGVALID = 1 - fget d A.PWR_SUP F.PWR_SUP_BROWNOUT ∧
      keepsBut [.pwr, .hst] d u.dev ∧
      keepsRegs (fun a => isReport a || these [A.PWR_STS, A.PWR_HSTS, A.PWR_SUP] a) d u.dev) ∧
    ((pstate d ≠ 1 ∨ d.pwr.committed = false) → exec (.holdSaveDone t) s = .next { s with dev := d })) ∧
  (∀ s : State, let d := s.dev
    let frame := fun (u : State) => keepsBut [.pwr] d u.dev ∧ keepsRegs (these [A.PWR_WAKE, A.PWR_STS]) d u.dev
    (pstate d = 0 → exec .wake s = .next s) ∧
    (pstate d = 1 → d.pwr.committed = false → ∃ u, exec .wake s = .next u ∧ fget u.dev A.PWR_WAKE F.PWR_WAKE_PEND = 1 ∧
      fget u.dev A.PWR_WAKE F.PWR_WAKE_SRC = 1 ∧ pstate u.dev = 1 ∧ frame u) ∧
    (pstate d = 1 → d.pwr.committed = true → ∃ u, exec .wake s = .next u ∧ u.dev.pwr.wakeAfter = true ∧
      pstate u.dev = 1 ∧ frame u) ∧
    (pstate d = 2 → ∃ u, exec .wake s = .next u ∧ pstate u.dev = 3 ∧ fget u.dev A.PWR_WAKE F.PWR_WAKE_SRC = 1 ∧
      frame u)) ∧
  (∀ (t : Nat) (s : State), let d := tick s.dev t
    (fget d A.PWR_WAKET F.PWR_WAKET_EN = 0 → exec (.wakeTimer t) s = .next { s with dev := d }) ∧
    (fget d A.PWR_WAKET F.PWR_WAKET_EN = 1 → (pastSida (sidNow d) (fget d A.PWR_WAKET F.PWR_WAKET_TIME)).isSome = true →
      pstate d = 2 → ∃ u, exec (.wakeTimer t) s = .next u ∧ pstate u.dev = 3 ∧
      fget u.dev A.PWR_WAKE F.PWR_WAKE_SRC = 4 ∧ keepsBut [.pwr] d u.dev ∧
      keepsRegs (these [A.PWR_WAKE, A.PWR_STS]) d u.dev) ∧
    (pstate d ≠ 3 → exec (.holdExitDone t) s = .next { s with dev := d }) ∧
    (pstate d = 3 → d.pwr.heldEn = [] → ∃ u, exec (.holdExitDone t) s = .next u ∧ pstate u.dev = 0 ∧
      u.dev.pwr.asleep = false ∧ u.dev.cas = Cas.init ∧ u.dev.jet = Jet.init ∧ u.dev.mem = d.mem ∧
      u.dev.ports = d.ports ∧ u.dev.hst = d.hst) ∧
    (pstate d ≠ 2 → exec (.coldEntry t) s = .next { s with dev := d }) ∧
    (pstate d = 2 → ∃ u, exec (.coldEntry t) s = .next u ∧ pstate u.dev = 4 ∧
      fget u.dev A.PWR_STS F.PWR_STS_COLDRDY = 1 ∧ fget u.dev A.PWR_SUP F.PWR_SUP_IMGCOLD = 1 ∧
      fget u.dev A.PWR_SUP F.PWR_SUP_NVBLOCK = 1 ∧ u.dev.pwr.pcieUp = false ∧
      u.dev.pwr.image.cold = saveRows d coldRows ∧ ∀ p, p < 8 → lstate u.dev p = 0))

/-- PKG_PWROK_RISE, PKG_PWROK_FALL, PKG_RST_N_ASSERT, PKG_RST_N_RELEASE, BRINGUP_COMPLETE, PERST_N, PERST_N_RELEASE, TRST_N,
VAUX_LOSS, VAUX_RISE and PWR_BROWNOUT. A falling PWROK and an assertion of RST_N reset everything outside the always-on
domain and keep the NV store; RST_N alone ends replay mode and INTRUSIVE. Bring-up begins when the last of the pins allows
it; bad fuses end it in phase 1, and its end opens the machine with the counter at 0. Without VAUX only NV store and fuses
remain, and a brown-out latches BROWNOUT and loses the image. -/
def Obligations.ResetsKeepWhatTheirDomainKeeps : Prop :=
  (∀ (t : Nat) (s : State), let d := tick s.dev t
    let cleared := fun (u : State) => (∀ a, memGet u.dev.mem a = 0) ∧ u.dev.nv = d.nv ∧ u.dev.nvNext = d.nvNext ∧
      u.dev.seq = Seq.init ∧ u.dev.cas = Cas.init ∧ u.dev.ports = [] ∧ u.dev.mach = Mach.init ∧ u.dev.tst.up = false ∧
      (∀ a, alwaysOn a = false → a ≠ A.SEQ_GAP 0 → a ≠ A.SEQ_GAP 1 → regGet u.dev a = regReset a) ∧
      pstate u.dev = (if pstate d = 4 then 4 else 0) ∧ u.dev.tst.fuseA = d.tst.fuseA ∧ u.dev.tst.fuseB = d.tst.fuseB
    let begun := fun (u : State) => u.dev.tst.up = false ∧ (∀ a, memGet u.dev.mem a = 0) ∧
      (fuseBad d = true → pstate d ≠ 4 → u.dev.tst.failed = true ∧ fget u.dev A.TST_BOOT F.TST_BOOT_PHASE = 1) ∧
      (u.dev.tst.failed = false → fget u.dev A.TST_BOOT F.TST_BOOT_PHASE = 7)
    let pinOnly := fun (u : State) => keepsBut [.pwr] d u.dev ∧ keepsRegs (fun _ => false) d u.dev
    (∃ u, exec (.pkgPwrokFall t) s = .next u ∧ u.dev.pwr.pwrok = false ∧ cleared u) ∧
    (d.pwr.pwrok = true → ∃ u, exec (.pkgRstNAssert t) s = .next u ∧ u.dev.pwr.rstN = false ∧
      fget u.dev A.TST_RPL F.TST_RPL_MODE = 0 ∧ fget u.dev A.TST_STS F.TST_STS_INTRUSIVE = 0 ∧ cleared u) ∧
    (d.pwr.pwrok = false → ∃ u, exec (.pkgRstNAssert t) s = .next u ∧ u.dev.pwr.rstN = false ∧
      fget u.dev A.TST_RPL F.TST_RPL_MODE = 0 ∧ keepsBut [.pwr] d u.dev ∧
      keepsRegs (these [A.TST_RPL, A.TST_STS]) d u.dev) ∧
    (∀ boot : BootIn,
      (d.pwr.pwrok = true → exec (.pkgPwrokRise t boot) s = .next { s with dev := d }) ∧
      (d.pwr.pwrok = false → d.pwr.rstN = false → ∃ u, exec (.pkgPwrokRise t boot) s = .next u ∧
        u.dev.pwr.pwrok = true ∧ pinOnly u) ∧
      (d.pwr.pwrok = false → d.pwr.rstN = true → d.pwr.vaux = true → ∃ u, exec (.pkgPwrokRise t boot) s = .next u ∧
        u.dev.pwr.pwrok = true ∧ begun u) ∧
      (d.pwr.rstN = true → exec (.pkgRstNRelease t boot) s = .next { s with dev := d }) ∧
      (d.pwr.rstN = false → d.pwr.pwrok = false → ∃ u, exec (.pkgRstNRelease t boot) s = .next u ∧
        u.dev.pwr.rstN = true ∧ pinOnly u) ∧
      (d.pwr.rstN = false → d.pwr.pwrok = true → d.pwr.vaux = true → ∃ u, exec (.pkgRstNRelease t boot) s = .next u ∧
        u.dev.pwr.rstN = true ∧ begun u) ∧
      (d.pwr.vaux = true → exec (.vauxRise t boot) s = .next { s with dev := d }) ∧
      (d.pwr.vaux = false → d.pwr.pwrok = false → ∃ u, exec (.vauxRise t boot) s = .next u ∧ u.dev.pwr.vaux = true ∧
        keepsBut [.pwr, .hst] d u.dev ∧ keepsRegs (fun a => isReport a || a == A.PWR_STS) d u.dev)) ∧
    (d.tst.up = false → d.tst.failed = false → fget d A.TST_BOOT F.TST_BOOT_PHASE = 7 → d.pwr.pwrok = true →
      d.pwr.rstN = true → ∃ u, exec (.bringupComplete t) s = .next u ∧ u.dev.tst.up = true ∧ sidNow u.dev = 0 ∧
      fget u.dev A.TST_BOOT F.TST_BOOT_PHASE = 15 ∧ fget u.dev A.TST_STS F.TST_STS_EXC = 0x5B ∧
      keepsBut [.clock, .hst, .tst] d u.dev ∧
      keepsRegs (fun a => isReport a || these [A.TST_BOOT, A.TST_STS, A.SID_TIME] a) d u.dev) ∧
    (d.tst.up = true → exec (.bringupComplete t) s = .next { s with dev := d }) ∧
    (∃ u, exec (.vauxLoss t) s = .next u ∧ u.dev.pwr.vaux = false ∧ (∀ a, memGet u.dev.mem a = 0) ∧
      u.dev.nv = d.nv ∧ u.dev.nvNext = d.nv ∧ (∀ a, regGet u.dev a = regReset a) ∧ u.dev.tst.fuseA = d.tst.fuseA ∧
      u.dev.tst.fuseB = d.tst.fuseB ∧ u.dev.ports = []) ∧
    (∃ u, exec (.pwrBrownout t) s = .next u ∧ fget u.dev A.PWR_SUP F.PWR_SUP_BROWNOUT = 1 ∧
      fget u.dev A.PWR_SUP F.PWR_SUP_IMGVALID = 0 ∧ pstate u.dev = pstate d ∧ u.dev.pwr.brownStart = true ∧
      keepsBut [.live, .pwr, .tst, .mgt] d u.dev ∧ keepsRegs alwaysOn d u.dev)) ∧
  (∀ (t : Nat) (s : State), let d := observe s.dev t
    ∃ u, exec (.perstN t) s = .next u ∧ u.dev.pwr.perst = true ∧ u.dev.pwr.pcieUp = false ∧
      (pstate d = 2 → pstate u.dev = 3 ∧ fget u.dev A.PWR_WAKE F.PWR_WAKE_SRC = 5)) ∧
  (∀ s : State, let d := s.dev
    (∃ u, exec .perstNRelease s = .next u ∧ u.dev.pwr.perst = false ∧ u.dev.pwr.pcieUp = decide (pstate d ≠ 4) ∧
      keepsBut [.pwr] d u.dev ∧ keepsRegs (fun _ => false) d u.dev) ∧
    (∃ u, exec .trstN s = .next u ∧ u.dev.tst.tap = 2 ∧ u.dev.tst.sib = 0 ∧ keepsBut [.tst] d u.dev ∧
      keepsRegs (fun _ => false) d u.dev))

/-! ### Test (17) -/

/-- AUDIT_RUN, AUDIT_COMPARE, PAIR_CHECK, CAPTURE_ARM, CAPTURE_BASE_DONE, REPLAY_GO, REPLAY_DELIVER and the TAP instructions. An
audit takes its snapshot in Hold and counts every identity that fails; a pair check answers in PAIRRES. A capture is armed,
cancelled, and given its base; a replay restores the base or ends where a region does not match, and delivers the log entry
by entry to its end. IDCODE, BYPASS and SAMPLE/PRELOAD select their registers; the diagnostic instructions act as BYPASS
unless STRAP_DIAG was high, and set INTRUSIVE where they do act. -/
def Obligations.AuditsCapturesReplaysAndTap : Prop :=
  (∀ s : State, let d := s.dev
    (pstate d ≠ 2 → exec .auditRun s = .next s) ∧
    (pstate d = 2 → d.tst.audit = none → ∃ u, exec .auditRun s = .next u ∧ u.dev.tst.audit.isSome = true ∧
      u.dev.tst.auditAt = d.now ∧ fget u.dev A.TST_AUDSTS F.TST_AUDSTS_BUSY = 1 ∧ keepsBut [.tst] d u.dev ∧
      keepsRegs (these [A.TST_AUDSTS]) d u.dev) ∧
    (∀ (kind : BitVec 2) (index : BitVec 12) (value : BitVec 32),
      let res := fun (u : State) (v : Nat) =>
        fget u.dev A.TST_AUDSTS F.TST_AUDSTS_PAIRRES = v ∧ keepsBut [] d u.dev ∧ keepsRegs (these [A.TST_AUDSTS]) d u.dev
      (pstate d ≠ 2 → ∃ u, exec (.pairCheck kind index value) s = .next u ∧ res u 2) ∧
      (pstate d = 2 → kind = 0#2 → rilKind d index.toNat = 2 →
        rilGrant d index.toNat = (value.toNat + rilSlots d index.toNat) % 2 ^ 32 →
        ∃ u, exec (.pairCheck kind index value) s = .next u ∧ res u 0) ∧
      (pstate d = 2 → kind = 1#2 → index.toNat < 64 → index.toNat % 8 ≤ 4 →
        fget d (A.HRM_VCCRED (index.toNat / 8) (index.toNat % 8)) F.HRM_VCCRED_SCRED ≠ value.toNat →
        ∃ u, exec (.pairCheck kind index value) s = .next u ∧ fget u.dev A.TST_AUDSTS F.TST_AUDSTS_PAIRRES = 1 ∧
          fget u.dev (A.HRM_PSTS (index.toNat / 8)) F.HRM_PSTS_EXC = 0xE3)) ∧
    (∃ u, exec .idcode s = .next u ∧ u.dev.tst.tap = 2 ∧ u.dev.tst.dr = idcodeWord ∧ keepsBut [.tst] d u.dev ∧
      keepsRegs (fun _ => false) d u.dev) ∧
    (∃ u, exec .bypass s = .next u ∧ u.dev.tst.tap = 0xFF ∧ u.dev.tst.dr = 0 ∧ keepsBut [.tst] d u.dev ∧
      keepsRegs (fun _ => false) d u.dev) ∧
    (∃ u, exec .samplePreload s = .next u ∧ u.dev.tst.tap = 1 ∧ u.dev.tst.dr = Config.boundary d.fresh ∧
      keepsBut [.clock, .tst] d u.dev ∧ keepsRegs (fun _ => false) d u.dev)) ∧
  (∀ (t : Nat) (s : State), let d := tick s.dev t
    let diag := fget d A.TST_STS F.TST_STS_DIAG
    (d.tst.audit = none → exec (.auditCompare t) s = .next { s with dev := d }) ∧
    (∀ fs, d.tst.audit = some fs → ∃ u, exec (.auditCompare t) s = .next u ∧ u.dev.tst.audit = none ∧
      fget u.dev A.TST_AUDSTS F.TST_AUDSTS_BUSY = 0 ∧ fget u.dev A.TST_AUDSTS F.TST_AUDSTS_DIFFS =
        min (fget d A.TST_AUDSTS F.TST_AUDSTS_DIFFS + fs.length) 65535) ∧
    (∀ op k, (op, k) ∈ [(Instr.extest t, 0x00), (.clamp t, 0x03), (.highz t, 0x04), (.extestPulse t, 0x05),
        (.extestTrain t, 0x06)] →
      (diag = 0 → ∃ u, exec op s = .next u ∧ u.dev.tst.tap = 0xFF ∧ keepsBut [.tst] d u.dev ∧
        keepsRegs (fun _ => false) d u.dev) ∧
      (diag = 1 → ∃ u, exec op s = .next u ∧ u.dev.tst.tap = k ∧ fget u.dev A.TST_STS F.TST_STS_INTRUSIVE = 1 ∧
        fget u.dev A.TST_STS F.TST_STS_EXC = 0x5C ∧ keepsBut [.clock, .hst, .tst] d u.dev ∧
        keepsRegs (fun a => isReport a || a == A.TST_STS) d u.dev)) ∧
    (∀ (sibs : BitVec 13) (intr : Bool),
      (diag = 0 → ∃ u, exec (.ijtag t sibs intr) s = .next u ∧ u.dev.tst.tap = 0xFF ∧ keepsBut [.tst] d u.dev ∧
        keepsRegs (fun _ => false) d u.dev) ∧
      (diag = 1 → ∃ u, exec (.ijtag t sibs intr) s = .next u ∧ u.dev.tst.tap = 0x10 ∧ u.dev.tst.sib = sibs.toNat ∧
        (intr = true → fget u.dev A.TST_STS F.TST_STS_INTRUSIVE = 1) ∧ keepsBut [.hst, .tst] d u.dev ∧
        keepsRegs (fun a => isReport a || a == A.TST_STS) d u.dev))) ∧
  (∀ (t : Nat) (s : State), let d := observe s.dev t
    let st := fget d A.TST_CAPSTS F.TST_CAPSTS_STATE
    let cap := capDesc d
    (∀ desc : BitVec 36,
      ((st = 1 ∨ st = 2) → exec (.captureArm t true desc) s = .next { s with dev := d }) ∧
      (st ≠ 1 → st ≠ 2 → ∃ u, exec (.captureArm t true desc) s = .next u ∧ fget u.dev A.TST_CAP F.TST_CAP_ARM = 1 ∧
        fget u.dev A.TST_CAP F.TST_CAP_DESC = desc.toNat ∧ fget u.dev A.TST_CAPSTS F.TST_CAPSTS_STATE = 1 ∧
        keepsBut [] d u.dev ∧ keepsRegs (these [A.TST_CAP, A.TST_CAPSTS]) d u.dev) ∧
      ((st = 1 ∨ st = 2) → ∃ u, exec (.captureArm t false desc) s = .next u ∧
        fget u.dev A.TST_CAPSTS F.TST_CAPSTS_STATE = 3 ∧ fget u.dev A.TST_CAPSTS F.TST_CAPSTS_END = 2 ∧
        fget u.dev A.TST_CAP F.TST_CAP_ARM = 0 ∧ u.dev.seq.stepbHeld = false ∧ u.dev.mem = d.mem)) ∧
    (d.seq.stepbHeld = false → exec (.captureBaseDone t) s = .next { s with dev := d }) ∧
    (∀ e n, d.seq.stepbHeld = true → d.seq.reclaimSeen = false → d.seq.holdSeen = false →
      baseWrite (settle d) cap = (e, some n) → ∃ u, exec (.captureBaseDone t) s = .next u ∧
        u.dev.tst.cap.base = cap.base ∧ u.dev.tst.cap.start = n) ∧
    ((replayMode d = false ∨ blocksActive d ≠ []) → exec (.replayGo t) s = .next { s with dev := d }) ∧
    (replayMode d = true → blocksActive d = [] →
      let e := fset (fset d A.TST_RPL F.TST_RPL_STATE 1) A.TST_RPL F.TST_RPL_DIVERGE 0
      ∃ u, exec (.replayGo t) s = .next u ∧ fget u.dev A.TST_RPL F.TST_RPL_STATE = (if (baseRead e cap).2 then 2 else 3) ∧
        ((baseRead e cap).2 = false → u.dev.mem = d.mem ∧ fget u.dev A.TST_STS F.TST_STS_EXC = 0x5F) ∧
        ((baseRead e cap).2 = true → u.dev.mem = (baseRead e cap).1.mem ∧ sidState u.dev = 0 ∧
          u.dev.tst.cap.base = cap.base)) ∧
    (replaying d = false → exec (.replayDeliver t) s = .next { s with dev := d }) ∧
    (replaying d = true → nextInput d (logBound d) d.tst.cap.pos d.tst.cap.num = none →
      ∃ u, exec (.replayDeliver t) s = .next u ∧ fget u.dev A.TST_RPL F.TST_RPL_STATE = 3 ∧ keepsBut [] d u.dev ∧
        keepsRegs (these [A.TST_RPL]) d u.dev) ∧
    (∀ num e, replaying d = true → nextInput d (logBound d) d.tst.cap.pos d.tst.cap.num = some (num, e) →
      (deliverable d e = false → exec (.replayDeliver t) s = .next { s with dev := d }) ∧
      (e.kind = 0x0B → bits (leAt e.data 0 8) 33 32 = 2 → ∃ u, exec (.replayDeliver t) s = .next u ∧
        u.dev.tst.cap.pos = e.next ∧ u.dev.tst.cap.num = num + 1 ∧
        u.dev.mach.abortStep = some (bits (leAt e.data 0 8) 31 0) ∧ keepsBut [.gov, .mach, .tst] d u.dev ∧
        keepsRegs (fun _ => false) d u.dev)))
end

