-- ==== Sys2Proof/Laws/Maps.lean ====
section
/-! SUPPORT. What the sparse maps, and the byte memories built on them, read as after a write, and that every operation
on them keeps the canonical form. -/

namespace Sys2Proof.Machine

variable {α : Type}

/-! ### Reading after writing -/

@[simp] theorem sfind_sput_self (k : Nat) (v : α) (m : List (Nat × α)) : sfind k (sput k v m) = some v := by
  induction m with
  | nil => simp [sput, sfind]
  | cons e r ih =>
    obtain ⟨j, w⟩ := e
    simp only [sput]
    split
    · simp [sfind]
    · split
      · simp [sfind]
      · simp_all [sfind]

theorem sfind_sput_ne {j k : Nat} (h : j ≠ k) (v : α) (m : List (Nat × α)) :
    sfind j (sput k v m) = sfind j m := by
  have h' : k ≠ j := fun e => h e.symm
  induction m with
  | nil => simp [sput, sfind, h']
  | cons e r ih =>
    obtain ⟨i, w⟩ := e
    simp only [sput]
    split
    · simp [sfind, h']
    · split
      · subst_vars; simp [sfind, h']
      · simp [sfind, ih]

theorem sfind_sdel (j k : Nat) (m : List (Nat × α)) :
    sfind j (sdel k m) = if j = k then none else sfind j m := by
  induction m with
  | nil => simp [sdel, sfind]
  | cons e r ih =>
    obtain ⟨i, w⟩ := e
    simp only [sdel] at ih
    by_cases hi : i = k
    · subst hi
      simp only [sdel, sfind, List.filter, ne_eq, not_true_eq_false, decide_false, ih]
      split
      · rfl
      · next h => rw [if_neg (fun e => h e.symm)]
    · simp only [sdel, sfind, List.filter, ne_eq, hi, not_false_eq_true, decide_true, ih]
      by_cases hj : i = j
      · subst hj; simp [hi]
      · simp [hj]

/-- What a map reads as at `j` after `v` is stored at `k`. -/
theorem sget_sset [DecidableEq α] (d : α) (j k : Nat) (v : α) (m : List (Nat × α)) :
    sget d j (sset d k v m) = if j = k then v else sget d j m := by
  unfold sget sset
  split
  · next h => rw [sfind_sdel]; split <;> simp [h]
  · split
    · next h => subst h; simp
    · next h => rw [sfind_sput_ne h]

@[simp] theorem sget_sset_self [DecidableEq α] (d : α) (k : Nat) (v : α) (m : List (Nat × α)) :
    sget d k (sset d k v m) = v := by simp [sget_sset]

theorem sget_sset_ne [DecidableEq α] (d : α) {j k : Nat} (h : j ≠ k) (v : α) (m : List (Nat × α)) :
    sget d j (sset d k v m) = sget d j m := by simp [sget_sset, h]

/-- Storing at `k` does not disturb `j`, even where the two defaults differ. -/
theorem sget_sset_ne' [DecidableEq α] (d e : α) {j k : Nat} (h : j ≠ k) (v : α) (m : List (Nat × α)) :
    sget d j (sset e k v m) = sget d j m := by
  unfold sget sset
  split
  · rw [sfind_sdel, if_neg h]
  · rw [sfind_sput_ne h]

/-! ### The canonical form -/

theorem risesFrom_weaken {k : Nat} {m : List (Nat × α)} (h : risesFrom (some k) m = true) :
    risesFrom none m = true := by
  cases m with
  | nil => rfl
  | cons e r => simp_all [risesFrom]

theorem risesFrom_some_of {i k : Nat} {m : List (Nat × α)} (h : risesFrom (some k) m = true) (hik : i ≤ k) :
    risesFrom (some i) m = true := by
  cases m with
  | nil => rfl
  | cons e r => simp_all [risesFrom]; omega

theorem risesFrom_sput {b : Option Nat} (k : Nat) (v : α) (m : List (Nat × α))
    (hb : ∀ i, b = some i → i < k) (h : risesFrom b m = true) : risesFrom b (sput k v m) = true := by
  induction m generalizing b with
  | nil => cases b <;> simp_all [sput, risesFrom]
  | cons e r ih =>
    obtain ⟨j, w⟩ := e
    have hr : risesFrom (some j) r = true := by cases b <;> simp_all [risesFrom]
    simp only [sput]
    split
    · cases b <;> simp_all [risesFrom]
    · split
      · cases b <;> simp_all [risesFrom]
      · next h1 h2 =>
        have := ih (b := some j) (by rintro i ⟨⟩; omega) hr
        cases b <;> simp_all [risesFrom]

theorem risesFrom_filter {b : Option Nat} (p : Nat × α → Bool) (m : List (Nat × α)) (h : risesFrom b m = true) :
    risesFrom b (m.filter p) = true := by
  induction m generalizing b with
  | nil => exact h
  | cons e r ih =>
    obtain ⟨j, w⟩ := e
    have hr : risesFrom (some j) r = true := by cases b <;> simp_all [risesFrom]
    simp only [List.filter]
    split
    · cases b <;> simp_all [risesFrom]
    · have := ih hr
      cases b with
      | none => exact risesFrom_weaken this
      | some i =>
        simp only [risesFrom, Bool.and_eq_true, decide_eq_true_eq] at h
        exact risesFrom_some_of this (Nat.le_of_lt h.1)

theorem mem_sput {k : Nat} {v : α} {m : List (Nat × α)} {e : Nat × α} (h : e ∈ sput k v m) :
    e = (k, v) ∨ e ∈ m := by
  induction m with
  | nil => simp_all [sput]
  | cons f r ih =>
    obtain ⟨j, w⟩ := f
    simp only [sput] at h
    split at h
    · simpa using h
    · split at h
      · simp only [List.mem_cons] at h ⊢; tauto
      · simp only [List.mem_cons] at h ⊢; tauto

/-- Storing a value keeps the canonical form. -/
theorem swf_sset [DecidableEq α] (d : α) (k : Nat) (v : α) (m : List (Nat × α)) (h : swf d m = true) :
    swf d (sset d k v m) = true := by
  simp only [swf, Bool.and_eq_true, List.all_eq_true, decide_eq_true_eq, ne_eq] at h ⊢
  unfold sset
  split
  · exact ⟨risesFrom_filter _ m h.1, fun e he => h.2 e (List.mem_of_mem_filter he)⟩
  · next hv =>
    refine ⟨risesFrom_sput k v m (by simp) h.1, fun e he => ?_⟩
    rcases mem_sput he with rfl | he
    · exact hv
    · exact h.2 e he

/-! ### Memory bytes -/

/-- A byte just stored is read back; every other byte reads as before. -/
theorem memGet_memSet (m : List Host.Cell) (a b : Nat) (v : Byte) :
    memGet (memSet m b v) a = if a = b then v else memGet m a := sget_sset 0 a b v m

/-- Bytes outside a stored run read as before. -/
theorem memGet_memWrite_out (m : List Host.Cell) (a b : Nat) (bs : List Byte) (h : a < b ∨ b + bs.length ≤ a) :
    memGet (memWrite m b bs) a = memGet m a := by
  induction bs generalizing m b with
  | nil => rfl
  | cons v r ih =>
    simp only [memWrite, List.length_cons] at h ⊢
    rw [ih _ _ (by omega), memGet_memSet, if_neg (by omega)]

/-- A byte inside a stored run reads as the run says. -/
theorem memGet_memWrite_in (m : List Host.Cell) (b i : Nat) (bs : List Byte) (h : i < bs.length) :
    memGet (memWrite m b bs) (b + i) = bs[i] := by
  induction bs generalizing m b i with
  | nil => simp at h
  | cons v r ih =>
    simp only [memWrite]
    cases i with
    | zero => rw [Nat.add_zero, memGet_memWrite_out _ _ _ _ (by omega), memGet_memSet]; simp
    | succ i =>
      have := ih (memSet m b v) (b + 1) i (by simpa using h)
      rw [show b + (i + 1) = b + 1 + i by omega, this]; simp

theorem memRead_congr {m n : List Host.Cell} {a k : Nat} (h : ∀ i, i < k → memGet m (a + i) = memGet n (a + i)) :
    memRead m a k = memRead n a k := by
  induction k generalizing a with
  | zero => rfl
  | succ k ih =>
    simp only [memRead]
    rw [show memGet m a = memGet n a from h 0 (by omega),
      ih (fun i hi => by have := h (i + 1) (by omega); rwa [show a + (i + 1) = a + 1 + i by omega] at this)]

/-- A run of bytes just stored is read back. -/
@[simp] theorem memRead_memWrite (m : List Host.Cell) (a : Nat) (bs : List Byte) :
    memRead (memWrite m a bs) a bs.length = bs := by
  induction bs generalizing m a with
  | nil => rfl
  | cons v r ih =>
    simp only [List.length_cons, memRead, memWrite]
    rw [ih, memGet_memWrite_out _ _ _ _ (by omega), memGet_memSet, if_pos rfl]

theorem memSet_wf (m : List Host.Cell) (a : Nat) (v : Byte) (h : Memory.wf m = true) :
    Memory.wf (memSet m a v) = true := swf_sset 0 a v m h

theorem memWrite_wf (m : List Host.Cell) (a : Nat) (bs : List Byte) (h : Memory.wf m = true) :
    Memory.wf (memWrite m a bs) = true := by
  induction bs generalizing m a with
  | nil => exact h
  | cons v r ih => exact ih _ _ (memSet_wf m a v h)

theorem memPut_wf (m : List Host.Cell) (a k n : Nat) (h : Memory.wf m = true) :
    Memory.wf (memPut m a k n) = true := memWrite_wf m a _ h

/-- At reset every memory is canonical. -/
theorem reset_memories_wf : Memory.wf State.reset.dev.mem = true ∧ Memory.wf State.reset.dev.nv = true ∧
    Memory.wf State.reset.dev.nvNext = true ∧ Memory.wf State.reset.dev.hst.hostMem = true := by decide

@[simp] theorem leBytes_length (k n : Nat) : (leBytes k n).length = k := by
  induction k generalizing n with
  | zero => rfl
  | succ k ih => simp [leBytes, ih]

/-- The bytes of a number read back as the number, modulo their width. -/
theorem leNat_leBytes (k n : Nat) : leNat (leBytes k n) = n % 256 ^ k := by
  induction k generalizing n with
  | zero => simp [leBytes, leNat, Nat.mod_one]
  | succ k ih =>
    have h := Nat.mod_mul (x := n) (a := 256) (b := 256 ^ k)
    rw [leBytes, leNat, ih, BitVec.toNat_ofNat, pow_succ' 256 k, h]

/-- A number just stored is read back, modulo its width. -/
theorem memNat_memPut (m : List Host.Cell) (a k n : Nat) : memNat (memPut m a k n) a k = n % 256 ^ k := by
  have := memRead_memWrite m a (leBytes k n)
  rw [leBytes_length] at this
  rw [memNat, memPut, this, leNat_leBytes]

end Sys2Proof.Machine
end

