-- ==== Sys2Proof/Laws/State.lean ====
section
/-! SUPPORT. What each update of one field of the package, and each named update built on one, leaves alone: one lemma
per field, true by unfolding one record update, so that no later proof unfolds one. -/

namespace Sys2Proof.Machine

@[simp] theorem withNow_now (d : Dev) (v : Nat) : (d.withNow v).now = v := rfl
@[simp] theorem withNow_fresh (d : Dev) (v : Nat) : (d.withNow v).fresh = d.fresh := rfl
@[simp] theorem withNow_sidPrev (d : Dev) (v : Nat) : (d.withNow v).sidPrev = d.sidPrev := rfl
@[simp] theorem withNow_regs (d : Dev) (v : Nat) : (d.withNow v).regs = d.regs := rfl
@[simp] theorem withNow_live (d : Dev) (v : Nat) : (d.withNow v).live = d.live := rfl
@[simp] theorem withNow_roleLocked (d : Dev) (v : Nat) : (d.withNow v).roleLocked = d.roleLocked := rfl
@[simp] theorem withNow_mem (d : Dev) (v : Nat) : (d.withNow v).mem = d.mem := rfl
@[simp] theorem withNow_nv (d : Dev) (v : Nat) : (d.withNow v).nv = d.nv := rfl
@[simp] theorem withNow_nvNext (d : Dev) (v : Nat) : (d.withNow v).nvNext = d.nvNext := rfl
@[simp] theorem withNow_pend (d : Dev) (v : Nat) : (d.withNow v).pend = d.pend := rfl
@[simp] theorem withNow_obs (d : Dev) (v : Nat) : (d.withNow v).obs = d.obs := rfl
@[simp] theorem withNow_seq (d : Dev) (v : Nat) : (d.withNow v).seq = d.seq := rfl
@[simp] theorem withNow_tables (d : Dev) (v : Nat) : (d.withNow v).tables = d.tables := rfl
@[simp] theorem withNow_cas (d : Dev) (v : Nat) : (d.withNow v).cas = d.cas := rfl
@[simp] theorem withNow_jet (d : Dev) (v : Nat) : (d.withNow v).jet = d.jet := rfl
@[simp] theorem withNow_ast (d : Dev) (v : Nat) : (d.withNow v).ast = d.ast := rfl
@[simp] theorem withNow_ephRes (d : Dev) (v : Nat) : (d.withNow v).ephRes = d.ephRes := rfl
@[simp] theorem withNow_rvrUse (d : Dev) (v : Nat) : (d.withNow v).rvrUse = d.rvrUse := rfl
@[simp] theorem withNow_eph (d : Dev) (v : Nat) : (d.withNow v).eph = d.eph := rfl
@[simp] theorem withNow_ril (d : Dev) (v : Nat) : (d.withNow v).ril = d.ril := rfl
@[simp] theorem withNow_wei (d : Dev) (v : Nat) : (d.withNow v).wei = d.wei := rfl
@[simp] theorem withNow_aqd (d : Dev) (v : Nat) : (d.withNow v).aqd = d.aqd := rfl
@[simp] theorem withNow_drainAt (d : Dev) (v : Nat) : (d.withNow v).drainAt = d.drainAt := rfl
@[simp] theorem withNow_ports (d : Dev) (v : Nat) : (d.withNow v).ports = d.ports := rfl
@[simp] theorem withNow_mach (d : Dev) (v : Nat) : (d.withNow v).mach = d.mach := rfl
@[simp] theorem withNow_hst (d : Dev) (v : Nat) : (d.withNow v).hst = d.hst := rfl
@[simp] theorem withNow_ms (d : Dev) (v : Nat) : (d.withNow v).ms = d.ms := rfl
@[simp] theorem withNow_pwr (d : Dev) (v : Nat) : (d.withNow v).pwr = d.pwr := rfl
@[simp] theorem withNow_tst (d : Dev) (v : Nat) : (d.withNow v).tst = d.tst := rfl
@[simp] theorem withNow_mgt (d : Dev) (v : Nat) : (d.withNow v).mgt = d.mgt := rfl

@[simp] theorem withFresh_now (d : Dev) (v : Nat) : (d.withFresh v).now = d.now := rfl
@[simp] theorem withFresh_fresh (d : Dev) (v : Nat) : (d.withFresh v).fresh = v := rfl
@[simp] theorem withFresh_sidPrev (d : Dev) (v : Nat) : (d.withFresh v).sidPrev = d.sidPrev := rfl
@[simp] theorem withFresh_regs (d : Dev) (v : Nat) : (d.withFresh v).regs = d.regs := rfl
@[simp] theorem withFresh_live (d : Dev) (v : Nat) : (d.withFresh v).live = d.live := rfl
@[simp] theorem withFresh_roleLocked (d : Dev) (v : Nat) : (d.withFresh v).roleLocked = d.roleLocked := rfl
@[simp] theorem withFresh_mem (d : Dev) (v : Nat) : (d.withFresh v).mem = d.mem := rfl
@[simp] theorem withFresh_nv (d : Dev) (v : Nat) : (d.withFresh v).nv = d.nv := rfl
@[simp] theorem withFresh_nvNext (d : Dev) (v : Nat) : (d.withFresh v).nvNext = d.nvNext := rfl
@[simp] theorem withFresh_pend (d : Dev) (v : Nat) : (d.withFresh v).pend = d.pend := rfl
@[simp] theorem withFresh_obs (d : Dev) (v : Nat) : (d.withFresh v).obs = d.obs := rfl
@[simp] theorem withFresh_seq (d : Dev) (v : Nat) : (d.withFresh v).seq = d.seq := rfl
@[simp] theorem withFresh_tables (d : Dev) (v : Nat) : (d.withFresh v).tables = d.tables := rfl
@[simp] theorem withFresh_cas (d : Dev) (v : Nat) : (d.withFresh v).cas = d.cas := rfl
@[simp] theorem withFresh_jet (d : Dev) (v : Nat) : (d.withFresh v).jet = d.jet := rfl
@[simp] theorem withFresh_ast (d : Dev) (v : Nat) : (d.withFresh v).ast = d.ast := rfl
@[simp] theorem withFresh_ephRes (d : Dev) (v : Nat) : (d.withFresh v).ephRes = d.ephRes := rfl
@[simp] theorem withFresh_rvrUse (d : Dev) (v : Nat) : (d.withFresh v).rvrUse = d.rvrUse := rfl
@[simp] theorem withFresh_eph (d : Dev) (v : Nat) : (d.withFresh v).eph = d.eph := rfl
@[simp] theorem withFresh_ril (d : Dev) (v : Nat) : (d.withFresh v).ril = d.ril := rfl
@[simp] theorem withFresh_wei (d : Dev) (v : Nat) : (d.withFresh v).wei = d.wei := rfl
@[simp] theorem withFresh_aqd (d : Dev) (v : Nat) : (d.withFresh v).aqd = d.aqd := rfl
@[simp] theorem withFresh_drainAt (d : Dev) (v : Nat) : (d.withFresh v).drainAt = d.drainAt := rfl
@[simp] theorem withFresh_ports (d : Dev) (v : Nat) : (d.withFresh v).ports = d.ports := rfl
@[simp] theorem withFresh_mach (d : Dev) (v : Nat) : (d.withFresh v).mach = d.mach := rfl
@[simp] theorem withFresh_hst (d : Dev) (v : Nat) : (d.withFresh v).hst = d.hst := rfl
@[simp] theorem withFresh_ms (d : Dev) (v : Nat) : (d.withFresh v).ms = d.ms := rfl
@[simp] theorem withFresh_pwr (d : Dev) (v : Nat) : (d.withFresh v).pwr = d.pwr := rfl
@[simp] theorem withFresh_tst (d : Dev) (v : Nat) : (d.withFresh v).tst = d.tst := rfl
@[simp] theorem withFresh_mgt (d : Dev) (v : Nat) : (d.withFresh v).mgt = d.mgt := rfl

@[simp] theorem withSidPrev_now (d : Dev) (v : Nat) : (d.withSidPrev v).now = d.now := rfl
@[simp] theorem withSidPrev_fresh (d : Dev) (v : Nat) : (d.withSidPrev v).fresh = d.fresh := rfl
@[simp] theorem withSidPrev_sidPrev (d : Dev) (v : Nat) : (d.withSidPrev v).sidPrev = v := rfl
@[simp] theorem withSidPrev_regs (d : Dev) (v : Nat) : (d.withSidPrev v).regs = d.regs := rfl
@[simp] theorem withSidPrev_live (d : Dev) (v : Nat) : (d.withSidPrev v).live = d.live := rfl
@[simp] theorem withSidPrev_roleLocked (d : Dev) (v : Nat) : (d.withSidPrev v).roleLocked = d.roleLocked := rfl
@[simp] theorem withSidPrev_mem (d : Dev) (v : Nat) : (d.withSidPrev v).mem = d.mem := rfl
@[simp] theorem withSidPrev_nv (d : Dev) (v : Nat) : (d.withSidPrev v).nv = d.nv := rfl
@[simp] theorem withSidPrev_nvNext (d : Dev) (v : Nat) : (d.withSidPrev v).nvNext = d.nvNext := rfl
@[simp] theorem withSidPrev_pend (d : Dev) (v : Nat) : (d.withSidPrev v).pend = d.pend := rfl
@[simp] theorem withSidPrev_obs (d : Dev) (v : Nat) : (d.withSidPrev v).obs = d.obs := rfl
@[simp] theorem withSidPrev_seq (d : Dev) (v : Nat) : (d.withSidPrev v).seq = d.seq := rfl
@[simp] theorem withSidPrev_tables (d : Dev) (v : Nat) : (d.withSidPrev v).tables = d.tables := rfl
@[simp] theorem withSidPrev_cas (d : Dev) (v : Nat) : (d.withSidPrev v).cas = d.cas := rfl
@[simp] theorem withSidPrev_jet (d : Dev) (v : Nat) : (d.withSidPrev v).jet = d.jet := rfl
@[simp] theorem withSidPrev_ast (d : Dev) (v : Nat) : (d.withSidPrev v).ast = d.ast := rfl
@[simp] theorem withSidPrev_ephRes (d : Dev) (v : Nat) : (d.withSidPrev v).ephRes = d.ephRes := rfl
@[simp] theorem withSidPrev_rvrUse (d : Dev) (v : Nat) : (d.withSidPrev v).rvrUse = d.rvrUse := rfl
@[simp] theorem withSidPrev_eph (d : Dev) (v : Nat) : (d.withSidPrev v).eph = d.eph := rfl
@[simp] theorem withSidPrev_ril (d : Dev) (v : Nat) : (d.withSidPrev v).ril = d.ril := rfl
@[simp] theorem withSidPrev_wei (d : Dev) (v : Nat) : (d.withSidPrev v).wei = d.wei := rfl
@[simp] theorem withSidPrev_aqd (d : Dev) (v : Nat) : (d.withSidPrev v).aqd = d.aqd := rfl
@[simp] theorem withSidPrev_drainAt (d : Dev) (v : Nat) : (d.withSidPrev v).drainAt = d.drainAt := rfl
@[simp] theorem withSidPrev_ports (d : Dev) (v : Nat) : (d.withSidPrev v).ports = d.ports := rfl
@[simp] theorem withSidPrev_mach (d : Dev) (v : Nat) : (d.withSidPrev v).mach = d.mach := rfl
@[simp] theorem withSidPrev_hst (d : Dev) (v : Nat) : (d.withSidPrev v).hst = d.hst := rfl
@[simp] theorem withSidPrev_ms (d : Dev) (v : Nat) : (d.withSidPrev v).ms = d.ms := rfl
@[simp] theorem withSidPrev_pwr (d : Dev) (v : Nat) : (d.withSidPrev v).pwr = d.pwr := rfl
@[simp] theorem withSidPrev_tst (d : Dev) (v : Nat) : (d.withSidPrev v).tst = d.tst := rfl
@[simp] theorem withSidPrev_mgt (d : Dev) (v : Nat) : (d.withSidPrev v).mgt = d.mgt := rfl

@[simp] theorem withRegs_now (d : Dev) (v : List (Nat × W64)) : (d.withRegs v).now = d.now := rfl
@[simp] theorem withRegs_fresh (d : Dev) (v : List (Nat × W64)) : (d.withRegs v).fresh = d.fresh := rfl
@[simp] theorem withRegs_sidPrev (d : Dev) (v : List (Nat × W64)) : (d.withRegs v).sidPrev = d.sidPrev := rfl
@[simp] theorem withRegs_regs (d : Dev) (v : List (Nat × W64)) : (d.withRegs v).regs = v := rfl
@[simp] theorem withRegs_live (d : Dev) (v : List (Nat × W64)) : (d.withRegs v).live = d.live := rfl
@[simp] theorem withRegs_roleLocked (d : Dev) (v : List (Nat × W64)) : (d.withRegs v).roleLocked = d.roleLocked := rfl
@[simp] theorem withRegs_mem (d : Dev) (v : List (Nat × W64)) : (d.withRegs v).mem = d.mem := rfl
@[simp] theorem withRegs_nv (d : Dev) (v : List (Nat × W64)) : (d.withRegs v).nv = d.nv := rfl
@[simp] theorem withRegs_nvNext (d : Dev) (v : List (Nat × W64)) : (d.withRegs v).nvNext = d.nvNext := rfl
@[simp] theorem withRegs_pend (d : Dev) (v : List (Nat × W64)) : (d.withRegs v).pend = d.pend := rfl
@[simp] theorem withRegs_obs (d : Dev) (v : List (Nat × W64)) : (d.withRegs v).obs = d.obs := rfl
@[simp] theorem withRegs_seq (d : Dev) (v : List (Nat × W64)) : (d.withRegs v).seq = d.seq := rfl
@[simp] theorem withRegs_tables (d : Dev) (v : List (Nat × W64)) : (d.withRegs v).tables = d.tables := rfl
@[simp] theorem withRegs_cas (d : Dev) (v : List (Nat × W64)) : (d.withRegs v).cas = d.cas := rfl
@[simp] theorem withRegs_jet (d : Dev) (v : List (Nat × W64)) : (d.withRegs v).jet = d.jet := rfl
@[simp] theorem withRegs_ast (d : Dev) (v : List (Nat × W64)) : (d.withRegs v).ast = d.ast := rfl
@[simp] theorem withRegs_ephRes (d : Dev) (v : List (Nat × W64)) : (d.withRegs v).ephRes = d.ephRes := rfl
@[simp] theorem withRegs_rvrUse (d : Dev) (v : List (Nat × W64)) : (d.withRegs v).rvrUse = d.rvrUse := rfl
@[simp] theorem withRegs_eph (d : Dev) (v : List (Nat × W64)) : (d.withRegs v).eph = d.eph := rfl
@[simp] theorem withRegs_ril (d : Dev) (v : List (Nat × W64)) : (d.withRegs v).ril = d.ril := rfl
@[simp] theorem withRegs_wei (d : Dev) (v : List (Nat × W64)) : (d.withRegs v).wei = d.wei := rfl
@[simp] theorem withRegs_aqd (d : Dev) (v : List (Nat × W64)) : (d.withRegs v).aqd = d.aqd := rfl
@[simp] theorem withRegs_drainAt (d : Dev) (v : List (Nat × W64)) : (d.withRegs v).drainAt = d.drainAt := rfl
@[simp] theorem withRegs_ports (d : Dev) (v : List (Nat × W64)) : (d.withRegs v).ports = d.ports := rfl
@[simp] theorem withRegs_mach (d : Dev) (v : List (Nat × W64)) : (d.withRegs v).mach = d.mach := rfl
@[simp] theorem withRegs_hst (d : Dev) (v : List (Nat × W64)) : (d.withRegs v).hst = d.hst := rfl
@[simp] theorem withRegs_ms (d : Dev) (v : List (Nat × W64)) : (d.withRegs v).ms = d.ms := rfl
@[simp] theorem withRegs_pwr (d : Dev) (v : List (Nat × W64)) : (d.withRegs v).pwr = d.pwr := rfl
@[simp] theorem withRegs_tst (d : Dev) (v : List (Nat × W64)) : (d.withRegs v).tst = d.tst := rfl
@[simp] theorem withRegs_mgt (d : Dev) (v : List (Nat × W64)) : (d.withRegs v).mgt = d.mgt := rfl

@[simp] theorem withLive_now (d : Dev) (v : List (Nat × W64)) : (d.withLive v).now = d.now := rfl
@[simp] theorem withLive_fresh (d : Dev) (v : List (Nat × W64)) : (d.withLive v).fresh = d.fresh := rfl
@[simp] theorem withLive_sidPrev (d : Dev) (v : List (Nat × W64)) : (d.withLive v).sidPrev = d.sidPrev := rfl
@[simp] theorem withLive_regs (d : Dev) (v : List (Nat × W64)) : (d.withLive v).regs = d.regs := rfl
@[simp] theorem withLive_live (d : Dev) (v : List (Nat × W64)) : (d.withLive v).live = v := rfl
@[simp] theorem withLive_roleLocked (d : Dev) (v : List (Nat × W64)) : (d.withLive v).roleLocked = d.roleLocked := rfl
@[simp] theorem withLive_mem (d : Dev) (v : List (Nat × W64)) : (d.withLive v).mem = d.mem := rfl
@[simp] theorem withLive_nv (d : Dev) (v : List (Nat × W64)) : (d.withLive v).nv = d.nv := rfl
@[simp] theorem withLive_nvNext (d : Dev) (v : List (Nat × W64)) : (d.withLive v).nvNext = d.nvNext := rfl
@[simp] theorem withLive_pend (d : Dev) (v : List (Nat × W64)) : (d.withLive v).pend = d.pend := rfl
@[simp] theorem withLive_obs (d : Dev) (v : List (Nat × W64)) : (d.withLive v).obs = d.obs := rfl
@[simp] theorem withLive_seq (d : Dev) (v : List (Nat × W64)) : (d.withLive v).seq = d.seq := rfl
@[simp] theorem withLive_tables (d : Dev) (v : List (Nat × W64)) : (d.withLive v).tables = d.tables := rfl
@[simp] theorem withLive_cas (d : Dev) (v : List (Nat × W64)) : (d.withLive v).cas = d.cas := rfl
@[simp] theorem withLive_jet (d : Dev) (v : List (Nat × W64)) : (d.withLive v).jet = d.jet := rfl
@[simp] theorem withLive_ast (d : Dev) (v : List (Nat × W64)) : (d.withLive v).ast = d.ast := rfl
@[simp] theorem withLive_ephRes (d : Dev) (v : List (Nat × W64)) : (d.withLive v).ephRes = d.ephRes := rfl
@[simp] theorem withLive_rvrUse (d : Dev) (v : List (Nat × W64)) : (d.withLive v).rvrUse = d.rvrUse := rfl
@[simp] theorem withLive_eph (d : Dev) (v : List (Nat × W64)) : (d.withLive v).eph = d.eph := rfl
@[simp] theorem withLive_ril (d : Dev) (v : List (Nat × W64)) : (d.withLive v).ril = d.ril := rfl
@[simp] theorem withLive_wei (d : Dev) (v : List (Nat × W64)) : (d.withLive v).wei = d.wei := rfl
@[simp] theorem withLive_aqd (d : Dev) (v : List (Nat × W64)) : (d.withLive v).aqd = d.aqd := rfl
@[simp] theorem withLive_drainAt (d : Dev) (v : List (Nat × W64)) : (d.withLive v).drainAt = d.drainAt := rfl
@[simp] theorem withLive_ports (d : Dev) (v : List (Nat × W64)) : (d.withLive v).ports = d.ports := rfl
@[simp] theorem withLive_mach (d : Dev) (v : List (Nat × W64)) : (d.withLive v).mach = d.mach := rfl
@[simp] theorem withLive_hst (d : Dev) (v : List (Nat × W64)) : (d.withLive v).hst = d.hst := rfl
@[simp] theorem withLive_ms (d : Dev) (v : List (Nat × W64)) : (d.withLive v).ms = d.ms := rfl
@[simp] theorem withLive_pwr (d : Dev) (v : List (Nat × W64)) : (d.withLive v).pwr = d.pwr := rfl
@[simp] theorem withLive_tst (d : Dev) (v : List (Nat × W64)) : (d.withLive v).tst = d.tst := rfl
@[simp] theorem withLive_mgt (d : Dev) (v : List (Nat × W64)) : (d.withLive v).mgt = d.mgt := rfl

@[simp] theorem withRoleLocked_now (d : Dev) (v : Bool) : (d.withRoleLocked v).now = d.now := rfl
@[simp] theorem withRoleLocked_fresh (d : Dev) (v : Bool) : (d.withRoleLocked v).fresh = d.fresh := rfl
@[simp] theorem withRoleLocked_sidPrev (d : Dev) (v : Bool) : (d.withRoleLocked v).sidPrev = d.sidPrev := rfl
@[simp] theorem withRoleLocked_regs (d : Dev) (v : Bool) : (d.withRoleLocked v).regs = d.regs := rfl
@[simp] theorem withRoleLocked_live (d : Dev) (v : Bool) : (d.withRoleLocked v).live = d.live := rfl
@[simp] theorem withRoleLocked_roleLocked (d : Dev) (v : Bool) : (d.withRoleLocked v).roleLocked = v := rfl
@[simp] theorem withRoleLocked_mem (d : Dev) (v : Bool) : (d.withRoleLocked v).mem = d.mem := rfl
@[simp] theorem withRoleLocked_nv (d : Dev) (v : Bool) : (d.withRoleLocked v).nv = d.nv := rfl
@[simp] theorem withRoleLocked_nvNext (d : Dev) (v : Bool) : (d.withRoleLocked v).nvNext = d.nvNext := rfl
@[simp] theorem withRoleLocked_pend (d : Dev) (v : Bool) : (d.withRoleLocked v).pend = d.pend := rfl
@[simp] theorem withRoleLocked_obs (d : Dev) (v : Bool) : (d.withRoleLocked v).obs = d.obs := rfl
@[simp] theorem withRoleLocked_seq (d : Dev) (v : Bool) : (d.withRoleLocked v).seq = d.seq := rfl
@[simp] theorem withRoleLocked_tables (d : Dev) (v : Bool) : (d.withRoleLocked v).tables = d.tables := rfl
@[simp] theorem withRoleLocked_cas (d : Dev) (v : Bool) : (d.withRoleLocked v).cas = d.cas := rfl
@[simp] theorem withRoleLocked_jet (d : Dev) (v : Bool) : (d.withRoleLocked v).jet = d.jet := rfl
@[simp] theorem withRoleLocked_ast (d : Dev) (v : Bool) : (d.withRoleLocked v).ast = d.ast := rfl
@[simp] theorem withRoleLocked_ephRes (d : Dev) (v : Bool) : (d.withRoleLocked v).ephRes = d.ephRes := rfl
@[simp] theorem withRoleLocked_rvrUse (d : Dev) (v : Bool) : (d.withRoleLocked v).rvrUse = d.rvrUse := rfl
@[simp] theorem withRoleLocked_eph (d : Dev) (v : Bool) : (d.withRoleLocked v).eph = d.eph := rfl
@[simp] theorem withRoleLocked_ril (d : Dev) (v : Bool) : (d.withRoleLocked v).ril = d.ril := rfl
@[simp] theorem withRoleLocked_wei (d : Dev) (v : Bool) : (d.withRoleLocked v).wei = d.wei := rfl
@[simp] theorem withRoleLocked_aqd (d : Dev) (v : Bool) : (d.withRoleLocked v).aqd = d.aqd := rfl
@[simp] theorem withRoleLocked_drainAt (d : Dev) (v : Bool) : (d.withRoleLocked v).drainAt = d.drainAt := rfl
@[simp] theorem withRoleLocked_ports (d : Dev) (v : Bool) : (d.withRoleLocked v).ports = d.ports := rfl
@[simp] theorem withRoleLocked_mach (d : Dev) (v : Bool) : (d.withRoleLocked v).mach = d.mach := rfl
@[simp] theorem withRoleLocked_hst (d : Dev) (v : Bool) : (d.withRoleLocked v).hst = d.hst := rfl
@[simp] theorem withRoleLocked_ms (d : Dev) (v : Bool) : (d.withRoleLocked v).ms = d.ms := rfl
@[simp] theorem withRoleLocked_pwr (d : Dev) (v : Bool) : (d.withRoleLocked v).pwr = d.pwr := rfl
@[simp] theorem withRoleLocked_tst (d : Dev) (v : Bool) : (d.withRoleLocked v).tst = d.tst := rfl
@[simp] theorem withRoleLocked_mgt (d : Dev) (v : Bool) : (d.withRoleLocked v).mgt = d.mgt := rfl

@[simp] theorem withMem_now (d : Dev) (v : List Host.Cell) : (d.withMem v).now = d.now := rfl
@[simp] theorem withMem_fresh (d : Dev) (v : List Host.Cell) : (d.withMem v).fresh = d.fresh := rfl
@[simp] theorem withMem_sidPrev (d : Dev) (v : List Host.Cell) : (d.withMem v).sidPrev = d.sidPrev := rfl
@[simp] theorem withMem_regs (d : Dev) (v : List Host.Cell) : (d.withMem v).regs = d.regs := rfl
@[simp] theorem withMem_live (d : Dev) (v : List Host.Cell) : (d.withMem v).live = d.live := rfl
@[simp] theorem withMem_roleLocked (d : Dev) (v : List Host.Cell) : (d.withMem v).roleLocked = d.roleLocked := rfl
@[simp] theorem withMem_mem (d : Dev) (v : List Host.Cell) : (d.withMem v).mem = v := rfl
@[simp] theorem withMem_nv (d : Dev) (v : List Host.Cell) : (d.withMem v).nv = d.nv := rfl
@[simp] theorem withMem_nvNext (d : Dev) (v : List Host.Cell) : (d.withMem v).nvNext = d.nvNext := rfl
@[simp] theorem withMem_pend (d : Dev) (v : List Host.Cell) : (d.withMem v).pend = d.pend := rfl
@[simp] theorem withMem_obs (d : Dev) (v : List Host.Cell) : (d.withMem v).obs = d.obs := rfl
@[simp] theorem withMem_seq (d : Dev) (v : List Host.Cell) : (d.withMem v).seq = d.seq := rfl
@[simp] theorem withMem_tables (d : Dev) (v : List Host.Cell) : (d.withMem v).tables = d.tables := rfl
@[simp] theorem withMem_cas (d : Dev) (v : List Host.Cell) : (d.withMem v).cas = d.cas := rfl
@[simp] theorem withMem_jet (d : Dev) (v : List Host.Cell) : (d.withMem v).jet = d.jet := rfl
@[simp] theorem withMem_ast (d : Dev) (v : List Host.Cell) : (d.withMem v).ast = d.ast := rfl
@[simp] theorem withMem_ephRes (d : Dev) (v : List Host.Cell) : (d.withMem v).ephRes = d.ephRes := rfl
@[simp] theorem withMem_rvrUse (d : Dev) (v : List Host.Cell) : (d.withMem v).rvrUse = d.rvrUse := rfl
@[simp] theorem withMem_eph (d : Dev) (v : List Host.Cell) : (d.withMem v).eph = d.eph := rfl
@[simp] theorem withMem_ril (d : Dev) (v : List Host.Cell) : (d.withMem v).ril = d.ril := rfl
@[simp] theorem withMem_wei (d : Dev) (v : List Host.Cell) : (d.withMem v).wei = d.wei := rfl
@[simp] theorem withMem_aqd (d : Dev) (v : List Host.Cell) : (d.withMem v).aqd = d.aqd := rfl
@[simp] theorem withMem_drainAt (d : Dev) (v : List Host.Cell) : (d.withMem v).drainAt = d.drainAt := rfl
@[simp] theorem withMem_ports (d : Dev) (v : List Host.Cell) : (d.withMem v).ports = d.ports := rfl
@[simp] theorem withMem_mach (d : Dev) (v : List Host.Cell) : (d.withMem v).mach = d.mach := rfl
@[simp] theorem withMem_hst (d : Dev) (v : List Host.Cell) : (d.withMem v).hst = d.hst := rfl
@[simp] theorem withMem_ms (d : Dev) (v : List Host.Cell) : (d.withMem v).ms = d.ms := rfl
@[simp] theorem withMem_pwr (d : Dev) (v : List Host.Cell) : (d.withMem v).pwr = d.pwr := rfl
@[simp] theorem withMem_tst (d : Dev) (v : List Host.Cell) : (d.withMem v).tst = d.tst := rfl
@[simp] theorem withMem_mgt (d : Dev) (v : List Host.Cell) : (d.withMem v).mgt = d.mgt := rfl

@[simp] theorem withNv_now (d : Dev) (v : List Host.Cell) : (d.withNv v).now = d.now := rfl
@[simp] theorem withNv_fresh (d : Dev) (v : List Host.Cell) : (d.withNv v).fresh = d.fresh := rfl
@[simp] theorem withNv_sidPrev (d : Dev) (v : List Host.Cell) : (d.withNv v).sidPrev = d.sidPrev := rfl
@[simp] theorem withNv_regs (d : Dev) (v : List Host.Cell) : (d.withNv v).regs = d.regs := rfl
@[simp] theorem withNv_live (d : Dev) (v : List Host.Cell) : (d.withNv v).live = d.live := rfl
@[simp] theorem withNv_roleLocked (d : Dev) (v : List Host.Cell) : (d.withNv v).roleLocked = d.roleLocked := rfl
@[simp] theorem withNv_mem (d : Dev) (v : List Host.Cell) : (d.withNv v).mem = d.mem := rfl
@[simp] theorem withNv_nv (d : Dev) (v : List Host.Cell) : (d.withNv v).nv = v := rfl
@[simp] theorem withNv_nvNext (d : Dev) (v : List Host.Cell) : (d.withNv v).nvNext = d.nvNext := rfl
@[simp] theorem withNv_pend (d : Dev) (v : List Host.Cell) : (d.withNv v).pend = d.pend := rfl
@[simp] theorem withNv_obs (d : Dev) (v : List Host.Cell) : (d.withNv v).obs = d.obs := rfl
@[simp] theorem withNv_seq (d : Dev) (v : List Host.Cell) : (d.withNv v).seq = d.seq := rfl
@[simp] theorem withNv_tables (d : Dev) (v : List Host.Cell) : (d.withNv v).tables = d.tables := rfl
@[simp] theorem withNv_cas (d : Dev) (v : List Host.Cell) : (d.withNv v).cas = d.cas := rfl
@[simp] theorem withNv_jet (d : Dev) (v : List Host.Cell) : (d.withNv v).jet = d.jet := rfl
@[simp] theorem withNv_ast (d : Dev) (v : List Host.Cell) : (d.withNv v).ast = d.ast := rfl
@[simp] theorem withNv_ephRes (d : Dev) (v : List Host.Cell) : (d.withNv v).ephRes = d.ephRes := rfl
@[simp] theorem withNv_rvrUse (d : Dev) (v : List Host.Cell) : (d.withNv v).rvrUse = d.rvrUse := rfl
@[simp] theorem withNv_eph (d : Dev) (v : List Host.Cell) : (d.withNv v).eph = d.eph := rfl
@[simp] theorem withNv_ril (d : Dev) (v : List Host.Cell) : (d.withNv v).ril = d.ril := rfl
@[simp] theorem withNv_wei (d : Dev) (v : List Host.Cell) : (d.withNv v).wei = d.wei := rfl
@[simp] theorem withNv_aqd (d : Dev) (v : List Host.Cell) : (d.withNv v).aqd = d.aqd := rfl
@[simp] theorem withNv_drainAt (d : Dev) (v : List Host.Cell) : (d.withNv v).drainAt = d.drainAt := rfl
@[simp] theorem withNv_ports (d : Dev) (v : List Host.Cell) : (d.withNv v).ports = d.ports := rfl
@[simp] theorem withNv_mach (d : Dev) (v : List Host.Cell) : (d.withNv v).mach = d.mach := rfl
@[simp] theorem withNv_hst (d : Dev) (v : List Host.Cell) : (d.withNv v).hst = d.hst := rfl
@[simp] theorem withNv_ms (d : Dev) (v : List Host.Cell) : (d.withNv v).ms = d.ms := rfl
@[simp] theorem withNv_pwr (d : Dev) (v : List Host.Cell) : (d.withNv v).pwr = d.pwr := rfl
@[simp] theorem withNv_tst (d : Dev) (v : List Host.Cell) : (d.withNv v).tst = d.tst := rfl
@[simp] theorem withNv_mgt (d : Dev) (v : List Host.Cell) : (d.withNv v).mgt = d.mgt := rfl

@[simp] theorem withNvNext_now (d : Dev) (v : List Host.Cell) : (d.withNvNext v).now = d.now := rfl
@[simp] theorem withNvNext_fresh (d : Dev) (v : List Host.Cell) : (d.withNvNext v).fresh = d.fresh := rfl
@[simp] theorem withNvNext_sidPrev (d : Dev) (v : List Host.Cell) : (d.withNvNext v).sidPrev = d.sidPrev := rfl
@[simp] theorem withNvNext_regs (d : Dev) (v : List Host.Cell) : (d.withNvNext v).regs = d.regs := rfl
@[simp] theorem withNvNext_live (d : Dev) (v : List Host.Cell) : (d.withNvNext v).live = d.live := rfl
@[simp] theorem withNvNext_roleLocked (d : Dev) (v : List Host.Cell) : (d.withNvNext v).roleLocked = d.roleLocked := rfl
@[simp] theorem withNvNext_mem (d : Dev) (v : List Host.Cell) : (d.withNvNext v).mem = d.mem := rfl
@[simp] theorem withNvNext_nv (d : Dev) (v : List Host.Cell) : (d.withNvNext v).nv = d.nv := rfl
@[simp] theorem withNvNext_nvNext (d : Dev) (v : List Host.Cell) : (d.withNvNext v).nvNext = v := rfl
@[simp] theorem withNvNext_pend (d : Dev) (v : List Host.Cell) : (d.withNvNext v).pend = d.pend := rfl
@[simp] theorem withNvNext_obs (d : Dev) (v : List Host.Cell) : (d.withNvNext v).obs = d.obs := rfl
@[simp] theorem withNvNext_seq (d : Dev) (v : List Host.Cell) : (d.withNvNext v).seq = d.seq := rfl
@[simp] theorem withNvNext_tables (d : Dev) (v : List Host.Cell) : (d.withNvNext v).tables = d.tables := rfl
@[simp] theorem withNvNext_cas (d : Dev) (v : List Host.Cell) : (d.withNvNext v).cas = d.cas := rfl
@[simp] theorem withNvNext_jet (d : Dev) (v : List Host.Cell) : (d.withNvNext v).jet = d.jet := rfl
@[simp] theorem withNvNext_ast (d : Dev) (v : List Host.Cell) : (d.withNvNext v).ast = d.ast := rfl
@[simp] theorem withNvNext_ephRes (d : Dev) (v : List Host.Cell) : (d.withNvNext v).ephRes = d.ephRes := rfl
@[simp] theorem withNvNext_rvrUse (d : Dev) (v : List Host.Cell) : (d.withNvNext v).rvrUse = d.rvrUse := rfl
@[simp] theorem withNvNext_eph (d : Dev) (v : List Host.Cell) : (d.withNvNext v).eph = d.eph := rfl
@[simp] theorem withNvNext_ril (d : Dev) (v : List Host.Cell) : (d.withNvNext v).ril = d.ril := rfl
@[simp] theorem withNvNext_wei (d : Dev) (v : List Host.Cell) : (d.withNvNext v).wei = d.wei := rfl
@[simp] theorem withNvNext_aqd (d : Dev) (v : List Host.Cell) : (d.withNvNext v).aqd = d.aqd := rfl
@[simp] theorem withNvNext_drainAt (d : Dev) (v : List Host.Cell) : (d.withNvNext v).drainAt = d.drainAt := rfl
@[simp] theorem withNvNext_ports (d : Dev) (v : List Host.Cell) : (d.withNvNext v).ports = d.ports := rfl
@[simp] theorem withNvNext_mach (d : Dev) (v : List Host.Cell) : (d.withNvNext v).mach = d.mach := rfl
@[simp] theorem withNvNext_hst (d : Dev) (v : List Host.Cell) : (d.withNvNext v).hst = d.hst := rfl
@[simp] theorem withNvNext_ms (d : Dev) (v : List Host.Cell) : (d.withNvNext v).ms = d.ms := rfl
@[simp] theorem withNvNext_pwr (d : Dev) (v : List Host.Cell) : (d.withNvNext v).pwr = d.pwr := rfl
@[simp] theorem withNvNext_tst (d : Dev) (v : List Host.Cell) : (d.withNvNext v).tst = d.tst := rfl
@[simp] theorem withNvNext_mgt (d : Dev) (v : List Host.Cell) : (d.withNvNext v).mgt = d.mgt := rfl

@[simp] theorem withPend_now (d : Dev) (v : List GovEvent) : (d.withPend v).now = d.now := rfl
@[simp] theorem withPend_fresh (d : Dev) (v : List GovEvent) : (d.withPend v).fresh = d.fresh := rfl
@[simp] theorem withPend_sidPrev (d : Dev) (v : List GovEvent) : (d.withPend v).sidPrev = d.sidPrev := rfl
@[simp] theorem withPend_regs (d : Dev) (v : List GovEvent) : (d.withPend v).regs = d.regs := rfl
@[simp] theorem withPend_live (d : Dev) (v : List GovEvent) : (d.withPend v).live = d.live := rfl
@[simp] theorem withPend_roleLocked (d : Dev) (v : List GovEvent) : (d.withPend v).roleLocked = d.roleLocked := rfl
@[simp] theorem withPend_mem (d : Dev) (v : List GovEvent) : (d.withPend v).mem = d.mem := rfl
@[simp] theorem withPend_nv (d : Dev) (v : List GovEvent) : (d.withPend v).nv = d.nv := rfl
@[simp] theorem withPend_nvNext (d : Dev) (v : List GovEvent) : (d.withPend v).nvNext = d.nvNext := rfl
@[simp] theorem withPend_pend (d : Dev) (v : List GovEvent) : (d.withPend v).pend = v := rfl
@[simp] theorem withPend_obs (d : Dev) (v : List GovEvent) : (d.withPend v).obs = d.obs := rfl
@[simp] theorem withPend_seq (d : Dev) (v : List GovEvent) : (d.withPend v).seq = d.seq := rfl
@[simp] theorem withPend_tables (d : Dev) (v : List GovEvent) : (d.withPend v).tables = d.tables := rfl
@[simp] theorem withPend_cas (d : Dev) (v : List GovEvent) : (d.withPend v).cas = d.cas := rfl
@[simp] theorem withPend_jet (d : Dev) (v : List GovEvent) : (d.withPend v).jet = d.jet := rfl
@[simp] theorem withPend_ast (d : Dev) (v : List GovEvent) : (d.withPend v).ast = d.ast := rfl
@[simp] theorem withPend_ephRes (d : Dev) (v : List GovEvent) : (d.withPend v).ephRes = d.ephRes := rfl
@[simp] theorem withPend_rvrUse (d : Dev) (v : List GovEvent) : (d.withPend v).rvrUse = d.rvrUse := rfl
@[simp] theorem withPend_eph (d : Dev) (v : List GovEvent) : (d.withPend v).eph = d.eph := rfl
@[simp] theorem withPend_ril (d : Dev) (v : List GovEvent) : (d.withPend v).ril = d.ril := rfl
@[simp] theorem withPend_wei (d : Dev) (v : List GovEvent) : (d.withPend v).wei = d.wei := rfl
@[simp] theorem withPend_aqd (d : Dev) (v : List GovEvent) : (d.withPend v).aqd = d.aqd := rfl
@[simp] theorem withPend_drainAt (d : Dev) (v : List GovEvent) : (d.withPend v).drainAt = d.drainAt := rfl
@[simp] theorem withPend_ports (d : Dev) (v : List GovEvent) : (d.withPend v).ports = d.ports := rfl
@[simp] theorem withPend_mach (d : Dev) (v : List GovEvent) : (d.withPend v).mach = d.mach := rfl
@[simp] theorem withPend_hst (d : Dev) (v : List GovEvent) : (d.withPend v).hst = d.hst := rfl
@[simp] theorem withPend_ms (d : Dev) (v : List GovEvent) : (d.withPend v).ms = d.ms := rfl
@[simp] theorem withPend_pwr (d : Dev) (v : List GovEvent) : (d.withPend v).pwr = d.pwr := rfl
@[simp] theorem withPend_tst (d : Dev) (v : List GovEvent) : (d.withPend v).tst = d.tst := rfl
@[simp] theorem withPend_mgt (d : Dev) (v : List GovEvent) : (d.withPend v).mgt = d.mgt := rfl

@[simp] theorem withObs_now (d : Dev) (v : List (GovKey × Nat)) : (d.withObs v).now = d.now := rfl
@[simp] theorem withObs_fresh (d : Dev) (v : List (GovKey × Nat)) : (d.withObs v).fresh = d.fresh := rfl
@[simp] theorem withObs_sidPrev (d : Dev) (v : List (GovKey × Nat)) : (d.withObs v).sidPrev = d.sidPrev := rfl
@[simp] theorem withObs_regs (d : Dev) (v : List (GovKey × Nat)) : (d.withObs v).regs = d.regs := rfl
@[simp] theorem withObs_live (d : Dev) (v : List (GovKey × Nat)) : (d.withObs v).live = d.live := rfl
@[simp] theorem withObs_roleLocked (d : Dev) (v : List (GovKey × Nat)) : (d.withObs v).roleLocked = d.roleLocked := rfl
@[simp] theorem withObs_mem (d : Dev) (v : List (GovKey × Nat)) : (d.withObs v).mem = d.mem := rfl
@[simp] theorem withObs_nv (d : Dev) (v : List (GovKey × Nat)) : (d.withObs v).nv = d.nv := rfl
@[simp] theorem withObs_nvNext (d : Dev) (v : List (GovKey × Nat)) : (d.withObs v).nvNext = d.nvNext := rfl
@[simp] theorem withObs_pend (d : Dev) (v : List (GovKey × Nat)) : (d.withObs v).pend = d.pend := rfl
@[simp] theorem withObs_obs (d : Dev) (v : List (GovKey × Nat)) : (d.withObs v).obs = v := rfl
@[simp] theorem withObs_seq (d : Dev) (v : List (GovKey × Nat)) : (d.withObs v).seq = d.seq := rfl
@[simp] theorem withObs_tables (d : Dev) (v : List (GovKey × Nat)) : (d.withObs v).tables = d.tables := rfl
@[simp] theorem withObs_cas (d : Dev) (v : List (GovKey × Nat)) : (d.withObs v).cas = d.cas := rfl
@[simp] theorem withObs_jet (d : Dev) (v : List (GovKey × Nat)) : (d.withObs v).jet = d.jet := rfl
@[simp] theorem withObs_ast (d : Dev) (v : List (GovKey × Nat)) : (d.withObs v).ast = d.ast := rfl
@[simp] theorem withObs_ephRes (d : Dev) (v : List (GovKey × Nat)) : (d.withObs v).ephRes = d.ephRes := rfl
@[simp] theorem withObs_rvrUse (d : Dev) (v : List (GovKey × Nat)) : (d.withObs v).rvrUse = d.rvrUse := rfl
@[simp] theorem withObs_eph (d : Dev) (v : List (GovKey × Nat)) : (d.withObs v).eph = d.eph := rfl
@[simp] theorem withObs_ril (d : Dev) (v : List (GovKey × Nat)) : (d.withObs v).ril = d.ril := rfl
@[simp] theorem withObs_wei (d : Dev) (v : List (GovKey × Nat)) : (d.withObs v).wei = d.wei := rfl
@[simp] theorem withObs_aqd (d : Dev) (v : List (GovKey × Nat)) : (d.withObs v).aqd = d.aqd := rfl
@[simp] theorem withObs_drainAt (d : Dev) (v : List (GovKey × Nat)) : (d.withObs v).drainAt = d.drainAt := rfl
@[simp] theorem withObs_ports (d : Dev) (v : List (GovKey × Nat)) : (d.withObs v).ports = d.ports := rfl
@[simp] theorem withObs_mach (d : Dev) (v : List (GovKey × Nat)) : (d.withObs v).mach = d.mach := rfl
@[simp] theorem withObs_hst (d : Dev) (v : List (GovKey × Nat)) : (d.withObs v).hst = d.hst := rfl
@[simp] theorem withObs_ms (d : Dev) (v : List (GovKey × Nat)) : (d.withObs v).ms = d.ms := rfl
@[simp] theorem withObs_pwr (d : Dev) (v : List (GovKey × Nat)) : (d.withObs v).pwr = d.pwr := rfl
@[simp] theorem withObs_tst (d : Dev) (v : List (GovKey × Nat)) : (d.withObs v).tst = d.tst := rfl
@[simp] theorem withObs_mgt (d : Dev) (v : List (GovKey × Nat)) : (d.withObs v).mgt = d.mgt := rfl

@[simp] theorem withSeq_now (d : Dev) (v : Seq) : (d.withSeq v).now = d.now := rfl
@[simp] theorem withSeq_fresh (d : Dev) (v : Seq) : (d.withSeq v).fresh = d.fresh := rfl
@[simp] theorem withSeq_sidPrev (d : Dev) (v : Seq) : (d.withSeq v).sidPrev = d.sidPrev := rfl
@[simp] theorem withSeq_regs (d : Dev) (v : Seq) : (d.withSeq v).regs = d.regs := rfl
@[simp] theorem withSeq_live (d : Dev) (v : Seq) : (d.withSeq v).live = d.live := rfl
@[simp] theorem withSeq_roleLocked (d : Dev) (v : Seq) : (d.withSeq v).roleLocked = d.roleLocked := rfl
@[simp] theorem withSeq_mem (d : Dev) (v : Seq) : (d.withSeq v).mem = d.mem := rfl
@[simp] theorem withSeq_nv (d : Dev) (v : Seq) : (d.withSeq v).nv = d.nv := rfl
@[simp] theorem withSeq_nvNext (d : Dev) (v : Seq) : (d.withSeq v).nvNext = d.nvNext := rfl
@[simp] theorem withSeq_pend (d : Dev) (v : Seq) : (d.withSeq v).pend = d.pend := rfl
@[simp] theorem withSeq_obs (d : Dev) (v : Seq) : (d.withSeq v).obs = d.obs := rfl
@[simp] theorem withSeq_seq (d : Dev) (v : Seq) : (d.withSeq v).seq = v := rfl
@[simp] theorem withSeq_tables (d : Dev) (v : Seq) : (d.withSeq v).tables = d.tables := rfl
@[simp] theorem withSeq_cas (d : Dev) (v : Seq) : (d.withSeq v).cas = d.cas := rfl
@[simp] theorem withSeq_jet (d : Dev) (v : Seq) : (d.withSeq v).jet = d.jet := rfl
@[simp] theorem withSeq_ast (d : Dev) (v : Seq) : (d.withSeq v).ast = d.ast := rfl
@[simp] theorem withSeq_ephRes (d : Dev) (v : Seq) : (d.withSeq v).ephRes = d.ephRes := rfl
@[simp] theorem withSeq_rvrUse (d : Dev) (v : Seq) : (d.withSeq v).rvrUse = d.rvrUse := rfl
@[simp] theorem withSeq_eph (d : Dev) (v : Seq) : (d.withSeq v).eph = d.eph := rfl
@[simp] theorem withSeq_ril (d : Dev) (v : Seq) : (d.withSeq v).ril = d.ril := rfl
@[simp] theorem withSeq_wei (d : Dev) (v : Seq) : (d.withSeq v).wei = d.wei := rfl
@[simp] theorem withSeq_aqd (d : Dev) (v : Seq) : (d.withSeq v).aqd = d.aqd := rfl
@[simp] theorem withSeq_drainAt (d : Dev) (v : Seq) : (d.withSeq v).drainAt = d.drainAt := rfl
@[simp] theorem withSeq_ports (d : Dev) (v : Seq) : (d.withSeq v).ports = d.ports := rfl
@[simp] theorem withSeq_mach (d : Dev) (v : Seq) : (d.withSeq v).mach = d.mach := rfl
@[simp] theorem withSeq_hst (d : Dev) (v : Seq) : (d.withSeq v).hst = d.hst := rfl
@[simp] theorem withSeq_ms (d : Dev) (v : Seq) : (d.withSeq v).ms = d.ms := rfl
@[simp] theorem withSeq_pwr (d : Dev) (v : Seq) : (d.withSeq v).pwr = d.pwr := rfl
@[simp] theorem withSeq_tst (d : Dev) (v : Seq) : (d.withSeq v).tst = d.tst := rfl
@[simp] theorem withSeq_mgt (d : Dev) (v : Seq) : (d.withSeq v).mgt = d.mgt := rfl

@[simp] theorem withTables_now (d : Dev) (v : Tables) : (d.withTables v).now = d.now := rfl
@[simp] theorem withTables_fresh (d : Dev) (v : Tables) : (d.withTables v).fresh = d.fresh := rfl
@[simp] theorem withTables_sidPrev (d : Dev) (v : Tables) : (d.withTables v).sidPrev = d.sidPrev := rfl
@[simp] theorem withTables_regs (d : Dev) (v : Tables) : (d.withTables v).regs = d.regs := rfl
@[simp] theorem withTables_live (d : Dev) (v : Tables) : (d.withTables v).live = d.live := rfl
@[simp] theorem withTables_roleLocked (d : Dev) (v : Tables) : (d.withTables v).roleLocked = d.roleLocked := rfl
@[simp] theorem withTables_mem (d : Dev) (v : Tables) : (d.withTables v).mem = d.mem := rfl
@[simp] theorem withTables_nv (d : Dev) (v : Tables) : (d.withTables v).nv = d.nv := rfl
@[simp] theorem withTables_nvNext (d : Dev) (v : Tables) : (d.withTables v).nvNext = d.nvNext := rfl
@[simp] theorem withTables_pend (d : Dev) (v : Tables) : (d.withTables v).pend = d.pend := rfl
@[simp] theorem withTables_obs (d : Dev) (v : Tables) : (d.withTables v).obs = d.obs := rfl
@[simp] theorem withTables_seq (d : Dev) (v : Tables) : (d.withTables v).seq = d.seq := rfl
@[simp] theorem withTables_tables (d : Dev) (v : Tables) : (d.withTables v).tables = v := rfl
@[simp] theorem withTables_cas (d : Dev) (v : Tables) : (d.withTables v).cas = d.cas := rfl
@[simp] theorem withTables_jet (d : Dev) (v : Tables) : (d.withTables v).jet = d.jet := rfl
@[simp] theorem withTables_ast (d : Dev) (v : Tables) : (d.withTables v).ast = d.ast := rfl
@[simp] theorem withTables_ephRes (d : Dev) (v : Tables) : (d.withTables v).ephRes = d.ephRes := rfl
@[simp] theorem withTables_rvrUse (d : Dev) (v : Tables) : (d.withTables v).rvrUse = d.rvrUse := rfl
@[simp] theorem withTables_eph (d : Dev) (v : Tables) : (d.withTables v).eph = d.eph := rfl
@[simp] theorem withTables_ril (d : Dev) (v : Tables) : (d.withTables v).ril = d.ril := rfl
@[simp] theorem withTables_wei (d : Dev) (v : Tables) : (d.withTables v).wei = d.wei := rfl
@[simp] theorem withTables_aqd (d : Dev) (v : Tables) : (d.withTables v).aqd = d.aqd := rfl
@[simp] theorem withTables_drainAt (d : Dev) (v : Tables) : (d.withTables v).drainAt = d.drainAt := rfl
@[simp] theorem withTables_ports (d : Dev) (v : Tables) : (d.withTables v).ports = d.ports := rfl
@[simp] theorem withTables_mach (d : Dev) (v : Tables) : (d.withTables v).mach = d.mach := rfl
@[simp] theorem withTables_hst (d : Dev) (v : Tables) : (d.withTables v).hst = d.hst := rfl
@[simp] theorem withTables_ms (d : Dev) (v : Tables) : (d.withTables v).ms = d.ms := rfl
@[simp] theorem withTables_pwr (d : Dev) (v : Tables) : (d.withTables v).pwr = d.pwr := rfl
@[simp] theorem withTables_tst (d : Dev) (v : Tables) : (d.withTables v).tst = d.tst := rfl
@[simp] theorem withTables_mgt (d : Dev) (v : Tables) : (d.withTables v).mgt = d.mgt := rfl

@[simp] theorem withCas_now (d : Dev) (v : Cas) : (d.withCas v).now = d.now := rfl
@[simp] theorem withCas_fresh (d : Dev) (v : Cas) : (d.withCas v).fresh = d.fresh := rfl
@[simp] theorem withCas_sidPrev (d : Dev) (v : Cas) : (d.withCas v).sidPrev = d.sidPrev := rfl
@[simp] theorem withCas_regs (d : Dev) (v : Cas) : (d.withCas v).regs = d.regs := rfl
@[simp] theorem withCas_live (d : Dev) (v : Cas) : (d.withCas v).live = d.live := rfl
@[simp] theorem withCas_roleLocked (d : Dev) (v : Cas) : (d.withCas v).roleLocked = d.roleLocked := rfl
@[simp] theorem withCas_mem (d : Dev) (v : Cas) : (d.withCas v).mem = d.mem := rfl
@[simp] theorem withCas_nv (d : Dev) (v : Cas) : (d.withCas v).nv = d.nv := rfl
@[simp] theorem withCas_nvNext (d : Dev) (v : Cas) : (d.withCas v).nvNext = d.nvNext := rfl
@[simp] theorem withCas_pend (d : Dev) (v : Cas) : (d.withCas v).pend = d.pend := rfl
@[simp] theorem withCas_obs (d : Dev) (v : Cas) : (d.withCas v).obs = d.obs := rfl
@[simp] theorem withCas_seq (d : Dev) (v : Cas) : (d.withCas v).seq = d.seq := rfl
@[simp] theorem withCas_tables (d : Dev) (v : Cas) : (d.withCas v).tables = d.tables := rfl
@[simp] theorem withCas_cas (d : Dev) (v : Cas) : (d.withCas v).cas = v := rfl
@[simp] theorem withCas_jet (d : Dev) (v : Cas) : (d.withCas v).jet = d.jet := rfl
@[simp] theorem withCas_ast (d : Dev) (v : Cas) : (d.withCas v).ast = d.ast := rfl
@[simp] theorem withCas_ephRes (d : Dev) (v : Cas) : (d.withCas v).ephRes = d.ephRes := rfl
@[simp] theorem withCas_rvrUse (d : Dev) (v : Cas) : (d.withCas v).rvrUse = d.rvrUse := rfl
@[simp] theorem withCas_eph (d : Dev) (v : Cas) : (d.withCas v).eph = d.eph := rfl
@[simp] theorem withCas_ril (d : Dev) (v : Cas) : (d.withCas v).ril = d.ril := rfl
@[simp] theorem withCas_wei (d : Dev) (v : Cas) : (d.withCas v).wei = d.wei := rfl
@[simp] theorem withCas_aqd (d : Dev) (v : Cas) : (d.withCas v).aqd = d.aqd := rfl
@[simp] theorem withCas_drainAt (d : Dev) (v : Cas) : (d.withCas v).drainAt = d.drainAt := rfl
@[simp] theorem withCas_ports (d : Dev) (v : Cas) : (d.withCas v).ports = d.ports := rfl
@[simp] theorem withCas_mach (d : Dev) (v : Cas) : (d.withCas v).mach = d.mach := rfl
@[simp] theorem withCas_hst (d : Dev) (v : Cas) : (d.withCas v).hst = d.hst := rfl
@[simp] theorem withCas_ms (d : Dev) (v : Cas) : (d.withCas v).ms = d.ms := rfl
@[simp] theorem withCas_pwr (d : Dev) (v : Cas) : (d.withCas v).pwr = d.pwr := rfl
@[simp] theorem withCas_tst (d : Dev) (v : Cas) : (d.withCas v).tst = d.tst := rfl
@[simp] theorem withCas_mgt (d : Dev) (v : Cas) : (d.withCas v).mgt = d.mgt := rfl

@[simp] theorem withJet_now (d : Dev) (v : Jet) : (d.withJet v).now = d.now := rfl
@[simp] theorem withJet_fresh (d : Dev) (v : Jet) : (d.withJet v).fresh = d.fresh := rfl
@[simp] theorem withJet_sidPrev (d : Dev) (v : Jet) : (d.withJet v).sidPrev = d.sidPrev := rfl
@[simp] theorem withJet_regs (d : Dev) (v : Jet) : (d.withJet v).regs = d.regs := rfl
@[simp] theorem withJet_live (d : Dev) (v : Jet) : (d.withJet v).live = d.live := rfl
@[simp] theorem withJet_roleLocked (d : Dev) (v : Jet) : (d.withJet v).roleLocked = d.roleLocked := rfl
@[simp] theorem withJet_mem (d : Dev) (v : Jet) : (d.withJet v).mem = d.mem := rfl
@[simp] theorem withJet_nv (d : Dev) (v : Jet) : (d.withJet v).nv = d.nv := rfl
@[simp] theorem withJet_nvNext (d : Dev) (v : Jet) : (d.withJet v).nvNext = d.nvNext := rfl
@[simp] theorem withJet_pend (d : Dev) (v : Jet) : (d.withJet v).pend = d.pend := rfl
@[simp] theorem withJet_obs (d : Dev) (v : Jet) : (d.withJet v).obs = d.obs := rfl
@[simp] theorem withJet_seq (d : Dev) (v : Jet) : (d.withJet v).seq = d.seq := rfl
@[simp] theorem withJet_tables (d : Dev) (v : Jet) : (d.withJet v).tables = d.tables := rfl
@[simp] theorem withJet_cas (d : Dev) (v : Jet) : (d.withJet v).cas = d.cas := rfl
@[simp] theorem withJet_jet (d : Dev) (v : Jet) : (d.withJet v).jet = v := rfl
@[simp] theorem withJet_ast (d : Dev) (v : Jet) : (d.withJet v).ast = d.ast := rfl
@[simp] theorem withJet_ephRes (d : Dev) (v : Jet) : (d.withJet v).ephRes = d.ephRes := rfl
@[simp] theorem withJet_rvrUse (d : Dev) (v : Jet) : (d.withJet v).rvrUse = d.rvrUse := rfl
@[simp] theorem withJet_eph (d : Dev) (v : Jet) : (d.withJet v).eph = d.eph := rfl
@[simp] theorem withJet_ril (d : Dev) (v : Jet) : (d.withJet v).ril = d.ril := rfl
@[simp] theorem withJet_wei (d : Dev) (v : Jet) : (d.withJet v).wei = d.wei := rfl
@[simp] theorem withJet_aqd (d : Dev) (v : Jet) : (d.withJet v).aqd = d.aqd := rfl
@[simp] theorem withJet_drainAt (d : Dev) (v : Jet) : (d.withJet v).drainAt = d.drainAt := rfl
@[simp] theorem withJet_ports (d : Dev) (v : Jet) : (d.withJet v).ports = d.ports := rfl
@[simp] theorem withJet_mach (d : Dev) (v : Jet) : (d.withJet v).mach = d.mach := rfl
@[simp] theorem withJet_hst (d : Dev) (v : Jet) : (d.withJet v).hst = d.hst := rfl
@[simp] theorem withJet_ms (d : Dev) (v : Jet) : (d.withJet v).ms = d.ms := rfl
@[simp] theorem withJet_pwr (d : Dev) (v : Jet) : (d.withJet v).pwr = d.pwr := rfl
@[simp] theorem withJet_tst (d : Dev) (v : Jet) : (d.withJet v).tst = d.tst := rfl
@[simp] theorem withJet_mgt (d : Dev) (v : Jet) : (d.withJet v).mgt = d.mgt := rfl

@[simp] theorem withAst_now (d : Dev) (v : Ast) : (d.withAst v).now = d.now := rfl
@[simp] theorem withAst_fresh (d : Dev) (v : Ast) : (d.withAst v).fresh = d.fresh := rfl
@[simp] theorem withAst_sidPrev (d : Dev) (v : Ast) : (d.withAst v).sidPrev = d.sidPrev := rfl
@[simp] theorem withAst_regs (d : Dev) (v : Ast) : (d.withAst v).regs = d.regs := rfl
@[simp] theorem withAst_live (d : Dev) (v : Ast) : (d.withAst v).live = d.live := rfl
@[simp] theorem withAst_roleLocked (d : Dev) (v : Ast) : (d.withAst v).roleLocked = d.roleLocked := rfl
@[simp] theorem withAst_mem (d : Dev) (v : Ast) : (d.withAst v).mem = d.mem := rfl
@[simp] theorem withAst_nv (d : Dev) (v : Ast) : (d.withAst v).nv = d.nv := rfl
@[simp] theorem withAst_nvNext (d : Dev) (v : Ast) : (d.withAst v).nvNext = d.nvNext := rfl
@[simp] theorem withAst_pend (d : Dev) (v : Ast) : (d.withAst v).pend = d.pend := rfl
@[simp] theorem withAst_obs (d : Dev) (v : Ast) : (d.withAst v).obs = d.obs := rfl
@[simp] theorem withAst_seq (d : Dev) (v : Ast) : (d.withAst v).seq = d.seq := rfl
@[simp] theorem withAst_tables (d : Dev) (v : Ast) : (d.withAst v).tables = d.tables := rfl
@[simp] theorem withAst_cas (d : Dev) (v : Ast) : (d.withAst v).cas = d.cas := rfl
@[simp] theorem withAst_jet (d : Dev) (v : Ast) : (d.withAst v).jet = d.jet := rfl
@[simp] theorem withAst_ast (d : Dev) (v : Ast) : (d.withAst v).ast = v := rfl
@[simp] theorem withAst_ephRes (d : Dev) (v : Ast) : (d.withAst v).ephRes = d.ephRes := rfl
@[simp] theorem withAst_rvrUse (d : Dev) (v : Ast) : (d.withAst v).rvrUse = d.rvrUse := rfl
@[simp] theorem withAst_eph (d : Dev) (v : Ast) : (d.withAst v).eph = d.eph := rfl
@[simp] theorem withAst_ril (d : Dev) (v : Ast) : (d.withAst v).ril = d.ril := rfl
@[simp] theorem withAst_wei (d : Dev) (v : Ast) : (d.withAst v).wei = d.wei := rfl
@[simp] theorem withAst_aqd (d : Dev) (v : Ast) : (d.withAst v).aqd = d.aqd := rfl
@[simp] theorem withAst_drainAt (d : Dev) (v : Ast) : (d.withAst v).drainAt = d.drainAt := rfl
@[simp] theorem withAst_ports (d : Dev) (v : Ast) : (d.withAst v).ports = d.ports := rfl
@[simp] theorem withAst_mach (d : Dev) (v : Ast) : (d.withAst v).mach = d.mach := rfl
@[simp] theorem withAst_hst (d : Dev) (v : Ast) : (d.withAst v).hst = d.hst := rfl
@[simp] theorem withAst_ms (d : Dev) (v : Ast) : (d.withAst v).ms = d.ms := rfl
@[simp] theorem withAst_pwr (d : Dev) (v : Ast) : (d.withAst v).pwr = d.pwr := rfl
@[simp] theorem withAst_tst (d : Dev) (v : Ast) : (d.withAst v).tst = d.tst := rfl
@[simp] theorem withAst_mgt (d : Dev) (v : Ast) : (d.withAst v).mgt = d.mgt := rfl

@[simp] theorem withEphRes_now (d : Dev) (v : List (Nat × EphRes)) : (d.withEphRes v).now = d.now := rfl
@[simp] theorem withEphRes_fresh (d : Dev) (v : List (Nat × EphRes)) : (d.withEphRes v).fresh = d.fresh := rfl
@[simp] theorem withEphRes_sidPrev (d : Dev) (v : List (Nat × EphRes)) : (d.withEphRes v).sidPrev = d.sidPrev := rfl
@[simp] theorem withEphRes_regs (d : Dev) (v : List (Nat × EphRes)) : (d.withEphRes v).regs = d.regs := rfl
@[simp] theorem withEphRes_live (d : Dev) (v : List (Nat × EphRes)) : (d.withEphRes v).live = d.live := rfl
@[simp] theorem withEphRes_roleLocked (d : Dev) (v : List (Nat × EphRes)) : (d.withEphRes v).roleLocked = d.roleLocked := rfl
@[simp] theorem withEphRes_mem (d : Dev) (v : List (Nat × EphRes)) : (d.withEphRes v).mem = d.mem := rfl
@[simp] theorem withEphRes_nv (d : Dev) (v : List (Nat × EphRes)) : (d.withEphRes v).nv = d.nv := rfl
@[simp] theorem withEphRes_nvNext (d : Dev) (v : List (Nat × EphRes)) : (d.withEphRes v).nvNext = d.nvNext := rfl
@[simp] theorem withEphRes_pend (d : Dev) (v : List (Nat × EphRes)) : (d.withEphRes v).pend = d.pend := rfl
@[simp] theorem withEphRes_obs (d : Dev) (v : List (Nat × EphRes)) : (d.withEphRes v).obs = d.obs := rfl
@[simp] theorem withEphRes_seq (d : Dev) (v : List (Nat × EphRes)) : (d.withEphRes v).seq = d.seq := rfl
@[simp] theorem withEphRes_tables (d : Dev) (v : List (Nat × EphRes)) : (d.withEphRes v).tables = d.tables := rfl
@[simp] theorem withEphRes_cas (d : Dev) (v : List (Nat × EphRes)) : (d.withEphRes v).cas = d.cas := rfl
@[simp] theorem withEphRes_jet (d : Dev) (v : List (Nat × EphRes)) : (d.withEphRes v).jet = d.jet := rfl
@[simp] theorem withEphRes_ast (d : Dev) (v : List (Nat × EphRes)) : (d.withEphRes v).ast = d.ast := rfl
@[simp] theorem withEphRes_ephRes (d : Dev) (v : List (Nat × EphRes)) : (d.withEphRes v).ephRes = v := rfl
@[simp] theorem withEphRes_rvrUse (d : Dev) (v : List (Nat × EphRes)) : (d.withEphRes v).rvrUse = d.rvrUse := rfl
@[simp] theorem withEphRes_eph (d : Dev) (v : List (Nat × EphRes)) : (d.withEphRes v).eph = d.eph := rfl
@[simp] theorem withEphRes_ril (d : Dev) (v : List (Nat × EphRes)) : (d.withEphRes v).ril = d.ril := rfl
@[simp] theorem withEphRes_wei (d : Dev) (v : List (Nat × EphRes)) : (d.withEphRes v).wei = d.wei := rfl
@[simp] theorem withEphRes_aqd (d : Dev) (v : List (Nat × EphRes)) : (d.withEphRes v).aqd = d.aqd := rfl
@[simp] theorem withEphRes_drainAt (d : Dev) (v : List (Nat × EphRes)) : (d.withEphRes v).drainAt = d.drainAt := rfl
@[simp] theorem withEphRes_ports (d : Dev) (v : List (Nat × EphRes)) : (d.withEphRes v).ports = d.ports := rfl
@[simp] theorem withEphRes_mach (d : Dev) (v : List (Nat × EphRes)) : (d.withEphRes v).mach = d.mach := rfl
@[simp] theorem withEphRes_hst (d : Dev) (v : List (Nat × EphRes)) : (d.withEphRes v).hst = d.hst := rfl
@[simp] theorem withEphRes_ms (d : Dev) (v : List (Nat × EphRes)) : (d.withEphRes v).ms = d.ms := rfl
@[simp] theorem withEphRes_pwr (d : Dev) (v : List (Nat × EphRes)) : (d.withEphRes v).pwr = d.pwr := rfl
@[simp] theorem withEphRes_tst (d : Dev) (v : List (Nat × EphRes)) : (d.withEphRes v).tst = d.tst := rfl
@[simp] theorem withEphRes_mgt (d : Dev) (v : List (Nat × EphRes)) : (d.withEphRes v).mgt = d.mgt := rfl

@[simp] theorem withRvrUse_now (d : Dev) (v : List (Nat × Nat)) : (d.withRvrUse v).now = d.now := rfl
@[simp] theorem withRvrUse_fresh (d : Dev) (v : List (Nat × Nat)) : (d.withRvrUse v).fresh = d.fresh := rfl
@[simp] theorem withRvrUse_sidPrev (d : Dev) (v : List (Nat × Nat)) : (d.withRvrUse v).sidPrev = d.sidPrev := rfl
@[simp] theorem withRvrUse_regs (d : Dev) (v : List (Nat × Nat)) : (d.withRvrUse v).regs = d.regs := rfl
@[simp] theorem withRvrUse_live (d : Dev) (v : List (Nat × Nat)) : (d.withRvrUse v).live = d.live := rfl
@[simp] theorem withRvrUse_roleLocked (d : Dev) (v : List (Nat × Nat)) : (d.withRvrUse v).roleLocked = d.roleLocked := rfl
@[simp] theorem withRvrUse_mem (d : Dev) (v : List (Nat × Nat)) : (d.withRvrUse v).mem = d.mem := rfl
@[simp] theorem withRvrUse_nv (d : Dev) (v : List (Nat × Nat)) : (d.withRvrUse v).nv = d.nv := rfl
@[simp] theorem withRvrUse_nvNext (d : Dev) (v : List (Nat × Nat)) : (d.withRvrUse v).nvNext = d.nvNext := rfl
@[simp] theorem withRvrUse_pend (d : Dev) (v : List (Nat × Nat)) : (d.withRvrUse v).pend = d.pend := rfl
@[simp] theorem withRvrUse_obs (d : Dev) (v : List (Nat × Nat)) : (d.withRvrUse v).obs = d.obs := rfl
@[simp] theorem withRvrUse_seq (d : Dev) (v : List (Nat × Nat)) : (d.withRvrUse v).seq = d.seq := rfl
@[simp] theorem withRvrUse_tables (d : Dev) (v : List (Nat × Nat)) : (d.withRvrUse v).tables = d.tables := rfl
@[simp] theorem withRvrUse_cas (d : Dev) (v : List (Nat × Nat)) : (d.withRvrUse v).cas = d.cas := rfl
@[simp] theorem withRvrUse_jet (d : Dev) (v : List (Nat × Nat)) : (d.withRvrUse v).jet = d.jet := rfl
@[simp] theorem withRvrUse_ast (d : Dev) (v : List (Nat × Nat)) : (d.withRvrUse v).ast = d.ast := rfl
@[simp] theorem withRvrUse_ephRes (d : Dev) (v : List (Nat × Nat)) : (d.withRvrUse v).ephRes = d.ephRes := rfl
@[simp] theorem withRvrUse_rvrUse (d : Dev) (v : List (Nat × Nat)) : (d.withRvrUse v).rvrUse = v := rfl
@[simp] theorem withRvrUse_eph (d : Dev) (v : List (Nat × Nat)) : (d.withRvrUse v).eph = d.eph := rfl
@[simp] theorem withRvrUse_ril (d : Dev) (v : List (Nat × Nat)) : (d.withRvrUse v).ril = d.ril := rfl
@[simp] theorem withRvrUse_wei (d : Dev) (v : List (Nat × Nat)) : (d.withRvrUse v).wei = d.wei := rfl
@[simp] theorem withRvrUse_aqd (d : Dev) (v : List (Nat × Nat)) : (d.withRvrUse v).aqd = d.aqd := rfl
@[simp] theorem withRvrUse_drainAt (d : Dev) (v : List (Nat × Nat)) : (d.withRvrUse v).drainAt = d.drainAt := rfl
@[simp] theorem withRvrUse_ports (d : Dev) (v : List (Nat × Nat)) : (d.withRvrUse v).ports = d.ports := rfl
@[simp] theorem withRvrUse_mach (d : Dev) (v : List (Nat × Nat)) : (d.withRvrUse v).mach = d.mach := rfl
@[simp] theorem withRvrUse_hst (d : Dev) (v : List (Nat × Nat)) : (d.withRvrUse v).hst = d.hst := rfl
@[simp] theorem withRvrUse_ms (d : Dev) (v : List (Nat × Nat)) : (d.withRvrUse v).ms = d.ms := rfl
@[simp] theorem withRvrUse_pwr (d : Dev) (v : List (Nat × Nat)) : (d.withRvrUse v).pwr = d.pwr := rfl
@[simp] theorem withRvrUse_tst (d : Dev) (v : List (Nat × Nat)) : (d.withRvrUse v).tst = d.tst := rfl
@[simp] theorem withRvrUse_mgt (d : Dev) (v : List (Nat × Nat)) : (d.withRvrUse v).mgt = d.mgt := rfl

@[simp] theorem withEph_now (d : Dev) (v : Eph) : (d.withEph v).now = d.now := rfl
@[simp] theorem withEph_fresh (d : Dev) (v : Eph) : (d.withEph v).fresh = d.fresh := rfl
@[simp] theorem withEph_sidPrev (d : Dev) (v : Eph) : (d.withEph v).sidPrev = d.sidPrev := rfl
@[simp] theorem withEph_regs (d : Dev) (v : Eph) : (d.withEph v).regs = d.regs := rfl
@[simp] theorem withEph_live (d : Dev) (v : Eph) : (d.withEph v).live = d.live := rfl
@[simp] theorem withEph_roleLocked (d : Dev) (v : Eph) : (d.withEph v).roleLocked = d.roleLocked := rfl
@[simp] theorem withEph_mem (d : Dev) (v : Eph) : (d.withEph v).mem = d.mem := rfl
@[simp] theorem withEph_nv (d : Dev) (v : Eph) : (d.withEph v).nv = d.nv := rfl
@[simp] theorem withEph_nvNext (d : Dev) (v : Eph) : (d.withEph v).nvNext = d.nvNext := rfl
@[simp] theorem withEph_pend (d : Dev) (v : Eph) : (d.withEph v).pend = d.pend := rfl
@[simp] theorem withEph_obs (d : Dev) (v : Eph) : (d.withEph v).obs = d.obs := rfl
@[simp] theorem withEph_seq (d : Dev) (v : Eph) : (d.withEph v).seq = d.seq := rfl
@[simp] theorem withEph_tables (d : Dev) (v : Eph) : (d.withEph v).tables = d.tables := rfl
@[simp] theorem withEph_cas (d : Dev) (v : Eph) : (d.withEph v).cas = d.cas := rfl
@[simp] theorem withEph_jet (d : Dev) (v : Eph) : (d.withEph v).jet = d.jet := rfl
@[simp] theorem withEph_ast (d : Dev) (v : Eph) : (d.withEph v).ast = d.ast := rfl
@[simp] theorem withEph_ephRes (d : Dev) (v : Eph) : (d.withEph v).ephRes = d.ephRes := rfl
@[simp] theorem withEph_rvrUse (d : Dev) (v : Eph) : (d.withEph v).rvrUse = d.rvrUse := rfl
@[simp] theorem withEph_eph (d : Dev) (v : Eph) : (d.withEph v).eph = v := rfl
@[simp] theorem withEph_ril (d : Dev) (v : Eph) : (d.withEph v).ril = d.ril := rfl
@[simp] theorem withEph_wei (d : Dev) (v : Eph) : (d.withEph v).wei = d.wei := rfl
@[simp] theorem withEph_aqd (d : Dev) (v : Eph) : (d.withEph v).aqd = d.aqd := rfl
@[simp] theorem withEph_drainAt (d : Dev) (v : Eph) : (d.withEph v).drainAt = d.drainAt := rfl
@[simp] theorem withEph_ports (d : Dev) (v : Eph) : (d.withEph v).ports = d.ports := rfl
@[simp] theorem withEph_mach (d : Dev) (v : Eph) : (d.withEph v).mach = d.mach := rfl
@[simp] theorem withEph_hst (d : Dev) (v : Eph) : (d.withEph v).hst = d.hst := rfl
@[simp] theorem withEph_ms (d : Dev) (v : Eph) : (d.withEph v).ms = d.ms := rfl
@[simp] theorem withEph_pwr (d : Dev) (v : Eph) : (d.withEph v).pwr = d.pwr := rfl
@[simp] theorem withEph_tst (d : Dev) (v : Eph) : (d.withEph v).tst = d.tst := rfl
@[simp] theorem withEph_mgt (d : Dev) (v : Eph) : (d.withEph v).mgt = d.mgt := rfl

@[simp] theorem withRil_now (d : Dev) (v : Ril) : (d.withRil v).now = d.now := rfl
@[simp] theorem withRil_fresh (d : Dev) (v : Ril) : (d.withRil v).fresh = d.fresh := rfl
@[simp] theorem withRil_sidPrev (d : Dev) (v : Ril) : (d.withRil v).sidPrev = d.sidPrev := rfl
@[simp] theorem withRil_regs (d : Dev) (v : Ril) : (d.withRil v).regs = d.regs := rfl
@[simp] theorem withRil_live (d : Dev) (v : Ril) : (d.withRil v).live = d.live := rfl
@[simp] theorem withRil_roleLocked (d : Dev) (v : Ril) : (d.withRil v).roleLocked = d.roleLocked := rfl
@[simp] theorem withRil_mem (d : Dev) (v : Ril) : (d.withRil v).mem = d.mem := rfl
@[simp] theorem withRil_nv (d : Dev) (v : Ril) : (d.withRil v).nv = d.nv := rfl
@[simp] theorem withRil_nvNext (d : Dev) (v : Ril) : (d.withRil v).nvNext = d.nvNext := rfl
@[simp] theorem withRil_pend (d : Dev) (v : Ril) : (d.withRil v).pend = d.pend := rfl
@[simp] theorem withRil_obs (d : Dev) (v : Ril) : (d.withRil v).obs = d.obs := rfl
@[simp] theorem withRil_seq (d : Dev) (v : Ril) : (d.withRil v).seq = d.seq := rfl
@[simp] theorem withRil_tables (d : Dev) (v : Ril) : (d.withRil v).tables = d.tables := rfl
@[simp] theorem withRil_cas (d : Dev) (v : Ril) : (d.withRil v).cas = d.cas := rfl
@[simp] theorem withRil_jet (d : Dev) (v : Ril) : (d.withRil v).jet = d.jet := rfl
@[simp] theorem withRil_ast (d : Dev) (v : Ril) : (d.withRil v).ast = d.ast := rfl
@[simp] theorem withRil_ephRes (d : Dev) (v : Ril) : (d.withRil v).ephRes = d.ephRes := rfl
@[simp] theorem withRil_rvrUse (d : Dev) (v : Ril) : (d.withRil v).rvrUse = d.rvrUse := rfl
@[simp] theorem withRil_eph (d : Dev) (v : Ril) : (d.withRil v).eph = d.eph := rfl
@[simp] theorem withRil_ril (d : Dev) (v : Ril) : (d.withRil v).ril = v := rfl
@[simp] theorem withRil_wei (d : Dev) (v : Ril) : (d.withRil v).wei = d.wei := rfl
@[simp] theorem withRil_aqd (d : Dev) (v : Ril) : (d.withRil v).aqd = d.aqd := rfl
@[simp] theorem withRil_drainAt (d : Dev) (v : Ril) : (d.withRil v).drainAt = d.drainAt := rfl
@[simp] theorem withRil_ports (d : Dev) (v : Ril) : (d.withRil v).ports = d.ports := rfl
@[simp] theorem withRil_mach (d : Dev) (v : Ril) : (d.withRil v).mach = d.mach := rfl
@[simp] theorem withRil_hst (d : Dev) (v : Ril) : (d.withRil v).hst = d.hst := rfl
@[simp] theorem withRil_ms (d : Dev) (v : Ril) : (d.withRil v).ms = d.ms := rfl
@[simp] theorem withRil_pwr (d : Dev) (v : Ril) : (d.withRil v).pwr = d.pwr := rfl
@[simp] theorem withRil_tst (d : Dev) (v : Ril) : (d.withRil v).tst = d.tst := rfl
@[simp] theorem withRil_mgt (d : Dev) (v : Ril) : (d.withRil v).mgt = d.mgt := rfl

@[simp] theorem withWei_now (d : Dev) (v : Wei) : (d.withWei v).now = d.now := rfl
@[simp] theorem withWei_fresh (d : Dev) (v : Wei) : (d.withWei v).fresh = d.fresh := rfl
@[simp] theorem withWei_sidPrev (d : Dev) (v : Wei) : (d.withWei v).sidPrev = d.sidPrev := rfl
@[simp] theorem withWei_regs (d : Dev) (v : Wei) : (d.withWei v).regs = d.regs := rfl
@[simp] theorem withWei_live (d : Dev) (v : Wei) : (d.withWei v).live = d.live := rfl
@[simp] theorem withWei_roleLocked (d : Dev) (v : Wei) : (d.withWei v).roleLocked = d.roleLocked := rfl
@[simp] theorem withWei_mem (d : Dev) (v : Wei) : (d.withWei v).mem = d.mem := rfl
@[simp] theorem withWei_nv (d : Dev) (v : Wei) : (d.withWei v).nv = d.nv := rfl
@[simp] theorem withWei_nvNext (d : Dev) (v : Wei) : (d.withWei v).nvNext = d.nvNext := rfl
@[simp] theorem withWei_pend (d : Dev) (v : Wei) : (d.withWei v).pend = d.pend := rfl
@[simp] theorem withWei_obs (d : Dev) (v : Wei) : (d.withWei v).obs = d.obs := rfl
@[simp] theorem withWei_seq (d : Dev) (v : Wei) : (d.withWei v).seq = d.seq := rfl
@[simp] theorem withWei_tables (d : Dev) (v : Wei) : (d.withWei v).tables = d.tables := rfl
@[simp] theorem withWei_cas (d : Dev) (v : Wei) : (d.withWei v).cas = d.cas := rfl
@[simp] theorem withWei_jet (d : Dev) (v : Wei) : (d.withWei v).jet = d.jet := rfl
@[simp] theorem withWei_ast (d : Dev) (v : Wei) : (d.withWei v).ast = d.ast := rfl
@[simp] theorem withWei_ephRes (d : Dev) (v : Wei) : (d.withWei v).ephRes = d.ephRes := rfl
@[simp] theorem withWei_rvrUse (d : Dev) (v : Wei) : (d.withWei v).rvrUse = d.rvrUse := rfl
@[simp] theorem withWei_eph (d : Dev) (v : Wei) : (d.withWei v).eph = d.eph := rfl
@[simp] theorem withWei_ril (d : Dev) (v : Wei) : (d.withWei v).ril = d.ril := rfl
@[simp] theorem withWei_wei (d : Dev) (v : Wei) : (d.withWei v).wei = v := rfl
@[simp] theorem withWei_aqd (d : Dev) (v : Wei) : (d.withWei v).aqd = d.aqd := rfl
@[simp] theorem withWei_drainAt (d : Dev) (v : Wei) : (d.withWei v).drainAt = d.drainAt := rfl
@[simp] theorem withWei_ports (d : Dev) (v : Wei) : (d.withWei v).ports = d.ports := rfl
@[simp] theorem withWei_mach (d : Dev) (v : Wei) : (d.withWei v).mach = d.mach := rfl
@[simp] theorem withWei_hst (d : Dev) (v : Wei) : (d.withWei v).hst = d.hst := rfl
@[simp] theorem withWei_ms (d : Dev) (v : Wei) : (d.withWei v).ms = d.ms := rfl
@[simp] theorem withWei_pwr (d : Dev) (v : Wei) : (d.withWei v).pwr = d.pwr := rfl
@[simp] theorem withWei_tst (d : Dev) (v : Wei) : (d.withWei v).tst = d.tst := rfl
@[simp] theorem withWei_mgt (d : Dev) (v : Wei) : (d.withWei v).mgt = d.mgt := rfl

@[simp] theorem withAqd_now (d : Dev) (v : Aqd) : (d.withAqd v).now = d.now := rfl
@[simp] theorem withAqd_fresh (d : Dev) (v : Aqd) : (d.withAqd v).fresh = d.fresh := rfl
@[simp] theorem withAqd_sidPrev (d : Dev) (v : Aqd) : (d.withAqd v).sidPrev = d.sidPrev := rfl
@[simp] theorem withAqd_regs (d : Dev) (v : Aqd) : (d.withAqd v).regs = d.regs := rfl
@[simp] theorem withAqd_live (d : Dev) (v : Aqd) : (d.withAqd v).live = d.live := rfl
@[simp] theorem withAqd_roleLocked (d : Dev) (v : Aqd) : (d.withAqd v).roleLocked = d.roleLocked := rfl
@[simp] theorem withAqd_mem (d : Dev) (v : Aqd) : (d.withAqd v).mem = d.mem := rfl
@[simp] theorem withAqd_nv (d : Dev) (v : Aqd) : (d.withAqd v).nv = d.nv := rfl
@[simp] theorem withAqd_nvNext (d : Dev) (v : Aqd) : (d.withAqd v).nvNext = d.nvNext := rfl
@[simp] theorem withAqd_pend (d : Dev) (v : Aqd) : (d.withAqd v).pend = d.pend := rfl
@[simp] theorem withAqd_obs (d : Dev) (v : Aqd) : (d.withAqd v).obs = d.obs := rfl
@[simp] theorem withAqd_seq (d : Dev) (v : Aqd) : (d.withAqd v).seq = d.seq := rfl
@[simp] theorem withAqd_tables (d : Dev) (v : Aqd) : (d.withAqd v).tables = d.tables := rfl
@[simp] theorem withAqd_cas (d : Dev) (v : Aqd) : (d.withAqd v).cas = d.cas := rfl
@[simp] theorem withAqd_jet (d : Dev) (v : Aqd) : (d.withAqd v).jet = d.jet := rfl
@[simp] theorem withAqd_ast (d : Dev) (v : Aqd) : (d.withAqd v).ast = d.ast := rfl
@[simp] theorem withAqd_ephRes (d : Dev) (v : Aqd) : (d.withAqd v).ephRes = d.ephRes := rfl
@[simp] theorem withAqd_rvrUse (d : Dev) (v : Aqd) : (d.withAqd v).rvrUse = d.rvrUse := rfl
@[simp] theorem withAqd_eph (d : Dev) (v : Aqd) : (d.withAqd v).eph = d.eph := rfl
@[simp] theorem withAqd_ril (d : Dev) (v : Aqd) : (d.withAqd v).ril = d.ril := rfl
@[simp] theorem withAqd_wei (d : Dev) (v : Aqd) : (d.withAqd v).wei = d.wei := rfl
@[simp] theorem withAqd_aqd (d : Dev) (v : Aqd) : (d.withAqd v).aqd = v := rfl
@[simp] theorem withAqd_drainAt (d : Dev) (v : Aqd) : (d.withAqd v).drainAt = d.drainAt := rfl
@[simp] theorem withAqd_ports (d : Dev) (v : Aqd) : (d.withAqd v).ports = d.ports := rfl
@[simp] theorem withAqd_mach (d : Dev) (v : Aqd) : (d.withAqd v).mach = d.mach := rfl
@[simp] theorem withAqd_hst (d : Dev) (v : Aqd) : (d.withAqd v).hst = d.hst := rfl
@[simp] theorem withAqd_ms (d : Dev) (v : Aqd) : (d.withAqd v).ms = d.ms := rfl
@[simp] theorem withAqd_pwr (d : Dev) (v : Aqd) : (d.withAqd v).pwr = d.pwr := rfl
@[simp] theorem withAqd_tst (d : Dev) (v : Aqd) : (d.withAqd v).tst = d.tst := rfl
@[simp] theorem withAqd_mgt (d : Dev) (v : Aqd) : (d.withAqd v).mgt = d.mgt := rfl

@[simp] theorem withDrainAt_now (d : Dev) (v : List (Nat × Nat)) : (d.withDrainAt v).now = d.now := rfl
@[simp] theorem withDrainAt_fresh (d : Dev) (v : List (Nat × Nat)) : (d.withDrainAt v).fresh = d.fresh := rfl
@[simp] theorem withDrainAt_sidPrev (d : Dev) (v : List (Nat × Nat)) : (d.withDrainAt v).sidPrev = d.sidPrev := rfl
@[simp] theorem withDrainAt_regs (d : Dev) (v : List (Nat × Nat)) : (d.withDrainAt v).regs = d.regs := rfl
@[simp] theorem withDrainAt_live (d : Dev) (v : List (Nat × Nat)) : (d.withDrainAt v).live = d.live := rfl
@[simp] theorem withDrainAt_roleLocked (d : Dev) (v : List (Nat × Nat)) : (d.withDrainAt v).roleLocked = d.roleLocked := rfl
@[simp] theorem withDrainAt_mem (d : Dev) (v : List (Nat × Nat)) : (d.withDrainAt v).mem = d.mem := rfl
@[simp] theorem withDrainAt_nv (d : Dev) (v : List (Nat × Nat)) : (d.withDrainAt v).nv = d.nv := rfl
@[simp] theorem withDrainAt_nvNext (d : Dev) (v : List (Nat × Nat)) : (d.withDrainAt v).nvNext = d.nvNext := rfl
@[simp] theorem withDrainAt_pend (d : Dev) (v : List (Nat × Nat)) : (d.withDrainAt v).pend = d.pend := rfl
@[simp] theorem withDrainAt_obs (d : Dev) (v : List (Nat × Nat)) : (d.withDrainAt v).obs = d.obs := rfl
@[simp] theorem withDrainAt_seq (d : Dev) (v : List (Nat × Nat)) : (d.withDrainAt v).seq = d.seq := rfl
@[simp] theorem withDrainAt_tables (d : Dev) (v : List (Nat × Nat)) : (d.withDrainAt v).tables = d.tables := rfl
@[simp] theorem withDrainAt_cas (d : Dev) (v : List (Nat × Nat)) : (d.withDrainAt v).cas = d.cas := rfl
@[simp] theorem withDrainAt_jet (d : Dev) (v : List (Nat × Nat)) : (d.withDrainAt v).jet = d.jet := rfl
@[simp] theorem withDrainAt_ast (d : Dev) (v : List (Nat × Nat)) : (d.withDrainAt v).ast = d.ast := rfl
@[simp] theorem withDrainAt_ephRes (d : Dev) (v : List (Nat × Nat)) : (d.withDrainAt v).ephRes = d.ephRes := rfl
@[simp] theorem withDrainAt_rvrUse (d : Dev) (v : List (Nat × Nat)) : (d.withDrainAt v).rvrUse = d.rvrUse := rfl
@[simp] theorem withDrainAt_eph (d : Dev) (v : List (Nat × Nat)) : (d.withDrainAt v).eph = d.eph := rfl
@[simp] theorem withDrainAt_ril (d : Dev) (v : List (Nat × Nat)) : (d.withDrainAt v).ril = d.ril := rfl
@[simp] theorem withDrainAt_wei (d : Dev) (v : List (Nat × Nat)) : (d.withDrainAt v).wei = d.wei := rfl
@[simp] theorem withDrainAt_aqd (d : Dev) (v : List (Nat × Nat)) : (d.withDrainAt v).aqd = d.aqd := rfl
@[simp] theorem withDrainAt_drainAt (d : Dev) (v : List (Nat × Nat)) : (d.withDrainAt v).drainAt = v := rfl
@[simp] theorem withDrainAt_ports (d : Dev) (v : List (Nat × Nat)) : (d.withDrainAt v).ports = d.ports := rfl
@[simp] theorem withDrainAt_mach (d : Dev) (v : List (Nat × Nat)) : (d.withDrainAt v).mach = d.mach := rfl
@[simp] theorem withDrainAt_hst (d : Dev) (v : List (Nat × Nat)) : (d.withDrainAt v).hst = d.hst := rfl
@[simp] theorem withDrainAt_ms (d : Dev) (v : List (Nat × Nat)) : (d.withDrainAt v).ms = d.ms := rfl
@[simp] theorem withDrainAt_pwr (d : Dev) (v : List (Nat × Nat)) : (d.withDrainAt v).pwr = d.pwr := rfl
@[simp] theorem withDrainAt_tst (d : Dev) (v : List (Nat × Nat)) : (d.withDrainAt v).tst = d.tst := rfl
@[simp] theorem withDrainAt_mgt (d : Dev) (v : List (Nat × Nat)) : (d.withDrainAt v).mgt = d.mgt := rfl

@[simp] theorem withPorts_now (d : Dev) (v : List (Nat × Port)) : (d.withPorts v).now = d.now := rfl
@[simp] theorem withPorts_fresh (d : Dev) (v : List (Nat × Port)) : (d.withPorts v).fresh = d.fresh := rfl
@[simp] theorem withPorts_sidPrev (d : Dev) (v : List (Nat × Port)) : (d.withPorts v).sidPrev = d.sidPrev := rfl
@[simp] theorem withPorts_regs (d : Dev) (v : List (Nat × Port)) : (d.withPorts v).regs = d.regs := rfl
@[simp] theorem withPorts_live (d : Dev) (v : List (Nat × Port)) : (d.withPorts v).live = d.live := rfl
@[simp] theorem withPorts_roleLocked (d : Dev) (v : List (Nat × Port)) : (d.withPorts v).roleLocked = d.roleLocked := rfl
@[simp] theorem withPorts_mem (d : Dev) (v : List (Nat × Port)) : (d.withPorts v).mem = d.mem := rfl
@[simp] theorem withPorts_nv (d : Dev) (v : List (Nat × Port)) : (d.withPorts v).nv = d.nv := rfl
@[simp] theorem withPorts_nvNext (d : Dev) (v : List (Nat × Port)) : (d.withPorts v).nvNext = d.nvNext := rfl
@[simp] theorem withPorts_pend (d : Dev) (v : List (Nat × Port)) : (d.withPorts v).pend = d.pend := rfl
@[simp] theorem withPorts_obs (d : Dev) (v : List (Nat × Port)) : (d.withPorts v).obs = d.obs := rfl
@[simp] theorem withPorts_seq (d : Dev) (v : List (Nat × Port)) : (d.withPorts v).seq = d.seq := rfl
@[simp] theorem withPorts_tables (d : Dev) (v : List (Nat × Port)) : (d.withPorts v).tables = d.tables := rfl
@[simp] theorem withPorts_cas (d : Dev) (v : List (Nat × Port)) : (d.withPorts v).cas = d.cas := rfl
@[simp] theorem withPorts_jet (d : Dev) (v : List (Nat × Port)) : (d.withPorts v).jet = d.jet := rfl
@[simp] theorem withPorts_ast (d : Dev) (v : List (Nat × Port)) : (d.withPorts v).ast = d.ast := rfl
@[simp] theorem withPorts_ephRes (d : Dev) (v : List (Nat × Port)) : (d.withPorts v).ephRes = d.ephRes := rfl
@[simp] theorem withPorts_rvrUse (d : Dev) (v : List (Nat × Port)) : (d.withPorts v).rvrUse = d.rvrUse := rfl
@[simp] theorem withPorts_eph (d : Dev) (v : List (Nat × Port)) : (d.withPorts v).eph = d.eph := rfl
@[simp] theorem withPorts_ril (d : Dev) (v : List (Nat × Port)) : (d.withPorts v).ril = d.ril := rfl
@[simp] theorem withPorts_wei (d : Dev) (v : List (Nat × Port)) : (d.withPorts v).wei = d.wei := rfl
@[simp] theorem withPorts_aqd (d : Dev) (v : List (Nat × Port)) : (d.withPorts v).aqd = d.aqd := rfl
@[simp] theorem withPorts_drainAt (d : Dev) (v : List (Nat × Port)) : (d.withPorts v).drainAt = d.drainAt := rfl
@[simp] theorem withPorts_ports (d : Dev) (v : List (Nat × Port)) : (d.withPorts v).ports = v := rfl
@[simp] theorem withPorts_mach (d : Dev) (v : List (Nat × Port)) : (d.withPorts v).mach = d.mach := rfl
@[simp] theorem withPorts_hst (d : Dev) (v : List (Nat × Port)) : (d.withPorts v).hst = d.hst := rfl
@[simp] theorem withPorts_ms (d : Dev) (v : List (Nat × Port)) : (d.withPorts v).ms = d.ms := rfl
@[simp] theorem withPorts_pwr (d : Dev) (v : List (Nat × Port)) : (d.withPorts v).pwr = d.pwr := rfl
@[simp] theorem withPorts_tst (d : Dev) (v : List (Nat × Port)) : (d.withPorts v).tst = d.tst := rfl
@[simp] theorem withPorts_mgt (d : Dev) (v : List (Nat × Port)) : (d.withPorts v).mgt = d.mgt := rfl

@[simp] theorem withMach_now (d : Dev) (v : Mach) : (d.withMach v).now = d.now := rfl
@[simp] theorem withMach_fresh (d : Dev) (v : Mach) : (d.withMach v).fresh = d.fresh := rfl
@[simp] theorem withMach_sidPrev (d : Dev) (v : Mach) : (d.withMach v).sidPrev = d.sidPrev := rfl
@[simp] theorem withMach_regs (d : Dev) (v : Mach) : (d.withMach v).regs = d.regs := rfl
@[simp] theorem withMach_live (d : Dev) (v : Mach) : (d.withMach v).live = d.live := rfl
@[simp] theorem withMach_roleLocked (d : Dev) (v : Mach) : (d.withMach v).roleLocked = d.roleLocked := rfl
@[simp] theorem withMach_mem (d : Dev) (v : Mach) : (d.withMach v).mem = d.mem := rfl
@[simp] theorem withMach_nv (d : Dev) (v : Mach) : (d.withMach v).nv = d.nv := rfl
@[simp] theorem withMach_nvNext (d : Dev) (v : Mach) : (d.withMach v).nvNext = d.nvNext := rfl
@[simp] theorem withMach_pend (d : Dev) (v : Mach) : (d.withMach v).pend = d.pend := rfl
@[simp] theorem withMach_obs (d : Dev) (v : Mach) : (d.withMach v).obs = d.obs := rfl
@[simp] theorem withMach_seq (d : Dev) (v : Mach) : (d.withMach v).seq = d.seq := rfl
@[simp] theorem withMach_tables (d : Dev) (v : Mach) : (d.withMach v).tables = d.tables := rfl
@[simp] theorem withMach_cas (d : Dev) (v : Mach) : (d.withMach v).cas = d.cas := rfl
@[simp] theorem withMach_jet (d : Dev) (v : Mach) : (d.withMach v).jet = d.jet := rfl
@[simp] theorem withMach_ast (d : Dev) (v : Mach) : (d.withMach v).ast = d.ast := rfl
@[simp] theorem withMach_ephRes (d : Dev) (v : Mach) : (d.withMach v).ephRes = d.ephRes := rfl
@[simp] theorem withMach_rvrUse (d : Dev) (v : Mach) : (d.withMach v).rvrUse = d.rvrUse := rfl
@[simp] theorem withMach_eph (d : Dev) (v : Mach) : (d.withMach v).eph = d.eph := rfl
@[simp] theorem withMach_ril (d : Dev) (v : Mach) : (d.withMach v).ril = d.ril := rfl
@[simp] theorem withMach_wei (d : Dev) (v : Mach) : (d.withMach v).wei = d.wei := rfl
@[simp] theorem withMach_aqd (d : Dev) (v : Mach) : (d.withMach v).aqd = d.aqd := rfl
@[simp] theorem withMach_drainAt (d : Dev) (v : Mach) : (d.withMach v).drainAt = d.drainAt := rfl
@[simp] theorem withMach_ports (d : Dev) (v : Mach) : (d.withMach v).ports = d.ports := rfl
@[simp] theorem withMach_mach (d : Dev) (v : Mach) : (d.withMach v).mach = v := rfl
@[simp] theorem withMach_hst (d : Dev) (v : Mach) : (d.withMach v).hst = d.hst := rfl
@[simp] theorem withMach_ms (d : Dev) (v : Mach) : (d.withMach v).ms = d.ms := rfl
@[simp] theorem withMach_pwr (d : Dev) (v : Mach) : (d.withMach v).pwr = d.pwr := rfl
@[simp] theorem withMach_tst (d : Dev) (v : Mach) : (d.withMach v).tst = d.tst := rfl
@[simp] theorem withMach_mgt (d : Dev) (v : Mach) : (d.withMach v).mgt = d.mgt := rfl

@[simp] theorem withHst_now (d : Dev) (v : Hst) : (d.withHst v).now = d.now := rfl
@[simp] theorem withHst_fresh (d : Dev) (v : Hst) : (d.withHst v).fresh = d.fresh := rfl
@[simp] theorem withHst_sidPrev (d : Dev) (v : Hst) : (d.withHst v).sidPrev = d.sidPrev := rfl
@[simp] theorem withHst_regs (d : Dev) (v : Hst) : (d.withHst v).regs = d.regs := rfl
@[simp] theorem withHst_live (d : Dev) (v : Hst) : (d.withHst v).live = d.live := rfl
@[simp] theorem withHst_roleLocked (d : Dev) (v : Hst) : (d.withHst v).roleLocked = d.roleLocked := rfl
@[simp] theorem withHst_mem (d : Dev) (v : Hst) : (d.withHst v).mem = d.mem := rfl
@[simp] theorem withHst_nv (d : Dev) (v : Hst) : (d.withHst v).nv = d.nv := rfl
@[simp] theorem withHst_nvNext (d : Dev) (v : Hst) : (d.withHst v).nvNext = d.nvNext := rfl
@[simp] theorem withHst_pend (d : Dev) (v : Hst) : (d.withHst v).pend = d.pend := rfl
@[simp] theorem withHst_obs (d : Dev) (v : Hst) : (d.withHst v).obs = d.obs := rfl
@[simp] theorem withHst_seq (d : Dev) (v : Hst) : (d.withHst v).seq = d.seq := rfl
@[simp] theorem withHst_tables (d : Dev) (v : Hst) : (d.withHst v).tables = d.tables := rfl
@[simp] theorem withHst_cas (d : Dev) (v : Hst) : (d.withHst v).cas = d.cas := rfl
@[simp] theorem withHst_jet (d : Dev) (v : Hst) : (d.withHst v).jet = d.jet := rfl
@[simp] theorem withHst_ast (d : Dev) (v : Hst) : (d.withHst v).ast = d.ast := rfl
@[simp] theorem withHst_ephRes (d : Dev) (v : Hst) : (d.withHst v).ephRes = d.ephRes := rfl
@[simp] theorem withHst_rvrUse (d : Dev) (v : Hst) : (d.withHst v).rvrUse = d.rvrUse := rfl
@[simp] theorem withHst_eph (d : Dev) (v : Hst) : (d.withHst v).eph = d.eph := rfl
@[simp] theorem withHst_ril (d : Dev) (v : Hst) : (d.withHst v).ril = d.ril := rfl
@[simp] theorem withHst_wei (d : Dev) (v : Hst) : (d.withHst v).wei = d.wei := rfl
@[simp] theorem withHst_aqd (d : Dev) (v : Hst) : (d.withHst v).aqd = d.aqd := rfl
@[simp] theorem withHst_drainAt (d : Dev) (v : Hst) : (d.withHst v).drainAt = d.drainAt := rfl
@[simp] theorem withHst_ports (d : Dev) (v : Hst) : (d.withHst v).ports = d.ports := rfl
@[simp] theorem withHst_mach (d : Dev) (v : Hst) : (d.withHst v).mach = d.mach := rfl
@[simp] theorem withHst_hst (d : Dev) (v : Hst) : (d.withHst v).hst = v := rfl
@[simp] theorem withHst_ms (d : Dev) (v : Hst) : (d.withHst v).ms = d.ms := rfl
@[simp] theorem withHst_pwr (d : Dev) (v : Hst) : (d.withHst v).pwr = d.pwr := rfl
@[simp] theorem withHst_tst (d : Dev) (v : Hst) : (d.withHst v).tst = d.tst := rfl
@[simp] theorem withHst_mgt (d : Dev) (v : Hst) : (d.withHst v).mgt = d.mgt := rfl

@[simp] theorem withMs_now (d : Dev) (v : MemSys) : (d.withMs v).now = d.now := rfl
@[simp] theorem withMs_fresh (d : Dev) (v : MemSys) : (d.withMs v).fresh = d.fresh := rfl
@[simp] theorem withMs_sidPrev (d : Dev) (v : MemSys) : (d.withMs v).sidPrev = d.sidPrev := rfl
@[simp] theorem withMs_regs (d : Dev) (v : MemSys) : (d.withMs v).regs = d.regs := rfl
@[simp] theorem withMs_live (d : Dev) (v : MemSys) : (d.withMs v).live = d.live := rfl
@[simp] theorem withMs_roleLocked (d : Dev) (v : MemSys) : (d.withMs v).roleLocked = d.roleLocked := rfl
@[simp] theorem withMs_mem (d : Dev) (v : MemSys) : (d.withMs v).mem = d.mem := rfl
@[simp] theorem withMs_nv (d : Dev) (v : MemSys) : (d.withMs v).nv = d.nv := rfl
@[simp] theorem withMs_nvNext (d : Dev) (v : MemSys) : (d.withMs v).nvNext = d.nvNext := rfl
@[simp] theorem withMs_pend (d : Dev) (v : MemSys) : (d.withMs v).pend = d.pend := rfl
@[simp] theorem withMs_obs (d : Dev) (v : MemSys) : (d.withMs v).obs = d.obs := rfl
@[simp] theorem withMs_seq (d : Dev) (v : MemSys) : (d.withMs v).seq = d.seq := rfl
@[simp] theorem withMs_tables (d : Dev) (v : MemSys) : (d.withMs v).tables = d.tables := rfl
@[simp] theorem withMs_cas (d : Dev) (v : MemSys) : (d.withMs v).cas = d.cas := rfl
@[simp] theorem withMs_jet (d : Dev) (v : MemSys) : (d.withMs v).jet = d.jet := rfl
@[simp] theorem withMs_ast (d : Dev) (v : MemSys) : (d.withMs v).ast = d.ast := rfl
@[simp] theorem withMs_ephRes (d : Dev) (v : MemSys) : (d.withMs v).ephRes = d.ephRes := rfl
@[simp] theorem withMs_rvrUse (d : Dev) (v : MemSys) : (d.withMs v).rvrUse = d.rvrUse := rfl
@[simp] theorem withMs_eph (d : Dev) (v : MemSys) : (d.withMs v).eph = d.eph := rfl
@[simp] theorem withMs_ril (d : Dev) (v : MemSys) : (d.withMs v).ril = d.ril := rfl
@[simp] theorem withMs_wei (d : Dev) (v : MemSys) : (d.withMs v).wei = d.wei := rfl
@[simp] theorem withMs_aqd (d : Dev) (v : MemSys) : (d.withMs v).aqd = d.aqd := rfl
@[simp] theorem withMs_drainAt (d : Dev) (v : MemSys) : (d.withMs v).drainAt = d.drainAt := rfl
@[simp] theorem withMs_ports (d : Dev) (v : MemSys) : (d.withMs v).ports = d.ports := rfl
@[simp] theorem withMs_mach (d : Dev) (v : MemSys) : (d.withMs v).mach = d.mach := rfl
@[simp] theorem withMs_hst (d : Dev) (v : MemSys) : (d.withMs v).hst = d.hst := rfl
@[simp] theorem withMs_ms (d : Dev) (v : MemSys) : (d.withMs v).ms = v := rfl
@[simp] theorem withMs_pwr (d : Dev) (v : MemSys) : (d.withMs v).pwr = d.pwr := rfl
@[simp] theorem withMs_tst (d : Dev) (v : MemSys) : (d.withMs v).tst = d.tst := rfl
@[simp] theorem withMs_mgt (d : Dev) (v : MemSys) : (d.withMs v).mgt = d.mgt := rfl

@[simp] theorem withPwr_now (d : Dev) (v : Pwr) : (d.withPwr v).now = d.now := rfl
@[simp] theorem withPwr_fresh (d : Dev) (v : Pwr) : (d.withPwr v).fresh = d.fresh := rfl
@[simp] theorem withPwr_sidPrev (d : Dev) (v : Pwr) : (d.withPwr v).sidPrev = d.sidPrev := rfl
@[simp] theorem withPwr_regs (d : Dev) (v : Pwr) : (d.withPwr v).regs = d.regs := rfl
@[simp] theorem withPwr_live (d : Dev) (v : Pwr) : (d.withPwr v).live = d.live := rfl
@[simp] theorem withPwr_roleLocked (d : Dev) (v : Pwr) : (d.withPwr v).roleLocked = d.roleLocked := rfl
@[simp] theorem withPwr_mem (d : Dev) (v : Pwr) : (d.withPwr v).mem = d.mem := rfl
@[simp] theorem withPwr_nv (d : Dev) (v : Pwr) : (d.withPwr v).nv = d.nv := rfl
@[simp] theorem withPwr_nvNext (d : Dev) (v : Pwr) : (d.withPwr v).nvNext = d.nvNext := rfl
@[simp] theorem withPwr_pend (d : Dev) (v : Pwr) : (d.withPwr v).pend = d.pend := rfl
@[simp] theorem withPwr_obs (d : Dev) (v : Pwr) : (d.withPwr v).obs = d.obs := rfl
@[simp] theorem withPwr_seq (d : Dev) (v : Pwr) : (d.withPwr v).seq = d.seq := rfl
@[simp] theorem withPwr_tables (d : Dev) (v : Pwr) : (d.withPwr v).tables = d.tables := rfl
@[simp] theorem withPwr_cas (d : Dev) (v : Pwr) : (d.withPwr v).cas = d.cas := rfl
@[simp] theorem withPwr_jet (d : Dev) (v : Pwr) : (d.withPwr v).jet = d.jet := rfl
@[simp] theorem withPwr_ast (d : Dev) (v : Pwr) : (d.withPwr v).ast = d.ast := rfl
@[simp] theorem withPwr_ephRes (d : Dev) (v : Pwr) : (d.withPwr v).ephRes = d.ephRes := rfl
@[simp] theorem withPwr_rvrUse (d : Dev) (v : Pwr) : (d.withPwr v).rvrUse = d.rvrUse := rfl
@[simp] theorem withPwr_eph (d : Dev) (v : Pwr) : (d.withPwr v).eph = d.eph := rfl
@[simp] theorem withPwr_ril (d : Dev) (v : Pwr) : (d.withPwr v).ril = d.ril := rfl
@[simp] theorem withPwr_wei (d : Dev) (v : Pwr) : (d.withPwr v).wei = d.wei := rfl
@[simp] theorem withPwr_aqd (d : Dev) (v : Pwr) : (d.withPwr v).aqd = d.aqd := rfl
@[simp] theorem withPwr_drainAt (d : Dev) (v : Pwr) : (d.withPwr v).drainAt = d.drainAt := rfl
@[simp] theorem withPwr_ports (d : Dev) (v : Pwr) : (d.withPwr v).ports = d.ports := rfl
@[simp] theorem withPwr_mach (d : Dev) (v : Pwr) : (d.withPwr v).mach = d.mach := rfl
@[simp] theorem withPwr_hst (d : Dev) (v : Pwr) : (d.withPwr v).hst = d.hst := rfl
@[simp] theorem withPwr_ms (d : Dev) (v : Pwr) : (d.withPwr v).ms = d.ms := rfl
@[simp] theorem withPwr_pwr (d : Dev) (v : Pwr) : (d.withPwr v).pwr = v := rfl
@[simp] theorem withPwr_tst (d : Dev) (v : Pwr) : (d.withPwr v).tst = d.tst := rfl
@[simp] theorem withPwr_mgt (d : Dev) (v : Pwr) : (d.withPwr v).mgt = d.mgt := rfl

@[simp] theorem withTst_now (d : Dev) (v : Tst) : (d.withTst v).now = d.now := rfl
@[simp] theorem withTst_fresh (d : Dev) (v : Tst) : (d.withTst v).fresh = d.fresh := rfl
@[simp] theorem withTst_sidPrev (d : Dev) (v : Tst) : (d.withTst v).sidPrev = d.sidPrev := rfl
@[simp] theorem withTst_regs (d : Dev) (v : Tst) : (d.withTst v).regs = d.regs := rfl
@[simp] theorem withTst_live (d : Dev) (v : Tst) : (d.withTst v).live = d.live := rfl
@[simp] theorem withTst_roleLocked (d : Dev) (v : Tst) : (d.withTst v).roleLocked = d.roleLocked := rfl
@[simp] theorem withTst_mem (d : Dev) (v : Tst) : (d.withTst v).mem = d.mem := rfl
@[simp] theorem withTst_nv (d : Dev) (v : Tst) : (d.withTst v).nv = d.nv := rfl
@[simp] theorem withTst_nvNext (d : Dev) (v : Tst) : (d.withTst v).nvNext = d.nvNext := rfl
@[simp] theorem withTst_pend (d : Dev) (v : Tst) : (d.withTst v).pend = d.pend := rfl
@[simp] theorem withTst_obs (d : Dev) (v : Tst) : (d.withTst v).obs = d.obs := rfl
@[simp] theorem withTst_seq (d : Dev) (v : Tst) : (d.withTst v).seq = d.seq := rfl
@[simp] theorem withTst_tables (d : Dev) (v : Tst) : (d.withTst v).tables = d.tables := rfl
@[simp] theorem withTst_cas (d : Dev) (v : Tst) : (d.withTst v).cas = d.cas := rfl
@[simp] theorem withTst_jet (d : Dev) (v : Tst) : (d.withTst v).jet = d.jet := rfl
@[simp] theorem withTst_ast (d : Dev) (v : Tst) : (d.withTst v).ast = d.ast := rfl
@[simp] theorem withTst_ephRes (d : Dev) (v : Tst) : (d.withTst v).ephRes = d.ephRes := rfl
@[simp] theorem withTst_rvrUse (d : Dev) (v : Tst) : (d.withTst v).rvrUse = d.rvrUse := rfl
@[simp] theorem withTst_eph (d : Dev) (v : Tst) : (d.withTst v).eph = d.eph := rfl
@[simp] theorem withTst_ril (d : Dev) (v : Tst) : (d.withTst v).ril = d.ril := rfl
@[simp] theorem withTst_wei (d : Dev) (v : Tst) : (d.withTst v).wei = d.wei := rfl
@[simp] theorem withTst_aqd (d : Dev) (v : Tst) : (d.withTst v).aqd = d.aqd := rfl
@[simp] theorem withTst_drainAt (d : Dev) (v : Tst) : (d.withTst v).drainAt = d.drainAt := rfl
@[simp] theorem withTst_ports (d : Dev) (v : Tst) : (d.withTst v).ports = d.ports := rfl
@[simp] theorem withTst_mach (d : Dev) (v : Tst) : (d.withTst v).mach = d.mach := rfl
@[simp] theorem withTst_hst (d : Dev) (v : Tst) : (d.withTst v).hst = d.hst := rfl
@[simp] theorem withTst_ms (d : Dev) (v : Tst) : (d.withTst v).ms = d.ms := rfl
@[simp] theorem withTst_pwr (d : Dev) (v : Tst) : (d.withTst v).pwr = d.pwr := rfl
@[simp] theorem withTst_tst (d : Dev) (v : Tst) : (d.withTst v).tst = v := rfl
@[simp] theorem withTst_mgt (d : Dev) (v : Tst) : (d.withTst v).mgt = d.mgt := rfl

@[simp] theorem withMgt_now (d : Dev) (v : Mgt) : (d.withMgt v).now = d.now := rfl
@[simp] theorem withMgt_fresh (d : Dev) (v : Mgt) : (d.withMgt v).fresh = d.fresh := rfl
@[simp] theorem withMgt_sidPrev (d : Dev) (v : Mgt) : (d.withMgt v).sidPrev = d.sidPrev := rfl
@[simp] theorem withMgt_regs (d : Dev) (v : Mgt) : (d.withMgt v).regs = d.regs := rfl
@[simp] theorem withMgt_live (d : Dev) (v : Mgt) : (d.withMgt v).live = d.live := rfl
@[simp] theorem withMgt_roleLocked (d : Dev) (v : Mgt) : (d.withMgt v).roleLocked = d.roleLocked := rfl
@[simp] theorem withMgt_mem (d : Dev) (v : Mgt) : (d.withMgt v).mem = d.mem := rfl
@[simp] theorem withMgt_nv (d : Dev) (v : Mgt) : (d.withMgt v).nv = d.nv := rfl
@[simp] theorem withMgt_nvNext (d : Dev) (v : Mgt) : (d.withMgt v).nvNext = d.nvNext := rfl
@[simp] theorem withMgt_pend (d : Dev) (v : Mgt) : (d.withMgt v).pend = d.pend := rfl
@[simp] theorem withMgt_obs (d : Dev) (v : Mgt) : (d.withMgt v).obs = d.obs := rfl
@[simp] theorem withMgt_seq (d : Dev) (v : Mgt) : (d.withMgt v).seq = d.seq := rfl
@[simp] theorem withMgt_tables (d : Dev) (v : Mgt) : (d.withMgt v).tables = d.tables := rfl
@[simp] theorem withMgt_cas (d : Dev) (v : Mgt) : (d.withMgt v).cas = d.cas := rfl
@[simp] theorem withMgt_jet (d : Dev) (v : Mgt) : (d.withMgt v).jet = d.jet := rfl
@[simp] theorem withMgt_ast (d : Dev) (v : Mgt) : (d.withMgt v).ast = d.ast := rfl
@[simp] theorem withMgt_ephRes (d : Dev) (v : Mgt) : (d.withMgt v).ephRes = d.ephRes := rfl
@[simp] theorem withMgt_rvrUse (d : Dev) (v : Mgt) : (d.withMgt v).rvrUse = d.rvrUse := rfl
@[simp] theorem withMgt_eph (d : Dev) (v : Mgt) : (d.withMgt v).eph = d.eph := rfl
@[simp] theorem withMgt_ril (d : Dev) (v : Mgt) : (d.withMgt v).ril = d.ril := rfl
@[simp] theorem withMgt_wei (d : Dev) (v : Mgt) : (d.withMgt v).wei = d.wei := rfl
@[simp] theorem withMgt_aqd (d : Dev) (v : Mgt) : (d.withMgt v).aqd = d.aqd := rfl
@[simp] theorem withMgt_drainAt (d : Dev) (v : Mgt) : (d.withMgt v).drainAt = d.drainAt := rfl
@[simp] theorem withMgt_ports (d : Dev) (v : Mgt) : (d.withMgt v).ports = d.ports := rfl
@[simp] theorem withMgt_mach (d : Dev) (v : Mgt) : (d.withMgt v).mach = d.mach := rfl
@[simp] theorem withMgt_hst (d : Dev) (v : Mgt) : (d.withMgt v).hst = d.hst := rfl
@[simp] theorem withMgt_ms (d : Dev) (v : Mgt) : (d.withMgt v).ms = d.ms := rfl
@[simp] theorem withMgt_pwr (d : Dev) (v : Mgt) : (d.withMgt v).pwr = d.pwr := rfl
@[simp] theorem withMgt_tst (d : Dev) (v : Mgt) : (d.withMgt v).tst = d.tst := rfl
@[simp] theorem withMgt_mgt (d : Dev) (v : Mgt) : (d.withMgt v).mgt = v := rfl

/-! #### regSet -/
@[simp] theorem regSet_now (d : Dev) (a : Nat) (v : W64) : (regSet d a v).now = d.now := rfl
@[simp] theorem regSet_fresh (d : Dev) (a : Nat) (v : W64) : (regSet d a v).fresh = d.fresh := rfl
@[simp] theorem regSet_sidPrev (d : Dev) (a : Nat) (v : W64) : (regSet d a v).sidPrev = d.sidPrev := rfl
@[simp] theorem regSet_live (d : Dev) (a : Nat) (v : W64) : (regSet d a v).live = d.live := rfl
@[simp] theorem regSet_roleLocked (d : Dev) (a : Nat) (v : W64) : (regSet d a v).roleLocked = d.roleLocked := rfl
@[simp] theorem regSet_mem (d : Dev) (a : Nat) (v : W64) : (regSet d a v).mem = d.mem := rfl
@[simp] theorem regSet_nv (d : Dev) (a : Nat) (v : W64) : (regSet d a v).nv = d.nv := rfl
@[simp] theorem regSet_nvNext (d : Dev) (a : Nat) (v : W64) : (regSet d a v).nvNext = d.nvNext := rfl
@[simp] theorem regSet_pend (d : Dev) (a : Nat) (v : W64) : (regSet d a v).pend = d.pend := rfl
@[simp] theorem regSet_obs (d : Dev) (a : Nat) (v : W64) : (regSet d a v).obs = d.obs := rfl
@[simp] theorem regSet_seq (d : Dev) (a : Nat) (v : W64) : (regSet d a v).seq = d.seq := rfl
@[simp] theorem regSet_tables (d : Dev) (a : Nat) (v : W64) : (regSet d a v).tables = d.tables := rfl
@[simp] theorem regSet_cas (d : Dev) (a : Nat) (v : W64) : (regSet d a v).cas = d.cas := rfl
@[simp] theorem regSet_jet (d : Dev) (a : Nat) (v : W64) : (regSet d a v).jet = d.jet := rfl
@[simp] theorem regSet_ast (d : Dev) (a : Nat) (v : W64) : (regSet d a v).ast = d.ast := rfl
@[simp] theorem regSet_ephRes (d : Dev) (a : Nat) (v : W64) : (regSet d a v).ephRes = d.ephRes := rfl
@[simp] theorem regSet_rvrUse (d : Dev) (a : Nat) (v : W64) : (regSet d a v).rvrUse = d.rvrUse := rfl
@[simp] theorem regSet_eph (d : Dev) (a : Nat) (v : W64) : (regSet d a v).eph = d.eph := rfl
@[simp] theorem regSet_ril (d : Dev) (a : Nat) (v : W64) : (regSet d a v).ril = d.ril := rfl
@[simp] theorem regSet_wei (d : Dev) (a : Nat) (v : W64) : (regSet d a v).wei = d.wei := rfl
@[simp] theorem regSet_aqd (d : Dev) (a : Nat) (v : W64) : (regSet d a v).aqd = d.aqd := rfl
@[simp] theorem regSet_drainAt (d : Dev) (a : Nat) (v : W64) : (regSet d a v).drainAt = d.drainAt := rfl
@[simp] theorem regSet_ports (d : Dev) (a : Nat) (v : W64) : (regSet d a v).ports = d.ports := rfl
@[simp] theorem regSet_mach (d : Dev) (a : Nat) (v : W64) : (regSet d a v).mach = d.mach := rfl
@[simp] theorem regSet_hst (d : Dev) (a : Nat) (v : W64) : (regSet d a v).hst = d.hst := rfl
@[simp] theorem regSet_ms (d : Dev) (a : Nat) (v : W64) : (regSet d a v).ms = d.ms := rfl
@[simp] theorem regSet_pwr (d : Dev) (a : Nat) (v : W64) : (regSet d a v).pwr = d.pwr := rfl
@[simp] theorem regSet_tst (d : Dev) (a : Nat) (v : W64) : (regSet d a v).tst = d.tst := rfl
@[simp] theorem regSet_mgt (d : Dev) (a : Nat) (v : W64) : (regSet d a v).mgt = d.mgt := rfl

/-! #### fset -/
@[simp] theorem fset_now (d : Dev) (a : Nat) (f : Fld) (v : Nat) : (fset d a f v).now = d.now := rfl
@[simp] theorem fset_fresh (d : Dev) (a : Nat) (f : Fld) (v : Nat) : (fset d a f v).fresh = d.fresh := rfl
@[simp] theorem fset_sidPrev (d : Dev) (a : Nat) (f : Fld) (v : Nat) : (fset d a f v).sidPrev = d.sidPrev := rfl
@[simp] theorem fset_live (d : Dev) (a : Nat) (f : Fld) (v : Nat) : (fset d a f v).live = d.live := rfl
@[simp] theorem fset_roleLocked (d : Dev) (a : Nat) (f : Fld) (v : Nat) : (fset d a f v).roleLocked = d.roleLocked := rfl
@[simp] theorem fset_mem (d : Dev) (a : Nat) (f : Fld) (v : Nat) : (fset d a f v).mem = d.mem := rfl
@[simp] theorem fset_nv (d : Dev) (a : Nat) (f : Fld) (v : Nat) : (fset d a f v).nv = d.nv := rfl
@[simp] theorem fset_nvNext (d : Dev) (a : Nat) (f : Fld) (v : Nat) : (fset d a f v).nvNext = d.nvNext := rfl
@[simp] theorem fset_pend (d : Dev) (a : Nat) (f : Fld) (v : Nat) : (fset d a f v).pend = d.pend := rfl
@[simp] theorem fset_obs (d : Dev) (a : Nat) (f : Fld) (v : Nat) : (fset d a f v).obs = d.obs := rfl
@[simp] theorem fset_seq (d : Dev) (a : Nat) (f : Fld) (v : Nat) : (fset d a f v).seq = d.seq := rfl
@[simp] theorem fset_tables (d : Dev) (a : Nat) (f : Fld) (v : Nat) : (fset d a f v).tables = d.tables := rfl
@[simp] theorem fset_cas (d : Dev) (a : Nat) (f : Fld) (v : Nat) : (fset d a f v).cas = d.cas := rfl
@[simp] theorem fset_jet (d : Dev) (a : Nat) (f : Fld) (v : Nat) : (fset d a f v).jet = d.jet := rfl
@[simp] theorem fset_ast (d : Dev) (a : Nat) (f : Fld) (v : Nat) : (fset d a f v).ast = d.ast := rfl
@[simp] theorem fset_ephRes (d : Dev) (a : Nat) (f : Fld) (v : Nat) : (fset d a f v).ephRes = d.ephRes := rfl
@[simp] theorem fset_rvrUse (d : Dev) (a : Nat) (f : Fld) (v : Nat) : (fset d a f v).rvrUse = d.rvrUse := rfl
@[simp] theorem fset_eph (d : Dev) (a : Nat) (f : Fld) (v : Nat) : (fset d a f v).eph = d.eph := rfl
@[simp] theorem fset_ril (d : Dev) (a : Nat) (f : Fld) (v : Nat) : (fset d a f v).ril = d.ril := rfl
@[simp] theorem fset_wei (d : Dev) (a : Nat) (f : Fld) (v : Nat) : (fset d a f v).wei = d.wei := rfl
@[simp] theorem fset_aqd (d : Dev) (a : Nat) (f : Fld) (v : Nat) : (fset d a f v).aqd = d.aqd := rfl
@[simp] theorem fset_drainAt (d : Dev) (a : Nat) (f : Fld) (v : Nat) : (fset d a f v).drainAt = d.drainAt := rfl
@[simp] theorem fset_ports (d : Dev) (a : Nat) (f : Fld) (v : Nat) : (fset d a f v).ports = d.ports := rfl
@[simp] theorem fset_mach (d : Dev) (a : Nat) (f : Fld) (v : Nat) : (fset d a f v).mach = d.mach := rfl
@[simp] theorem fset_hst (d : Dev) (a : Nat) (f : Fld) (v : Nat) : (fset d a f v).hst = d.hst := rfl
@[simp] theorem fset_ms (d : Dev) (a : Nat) (f : Fld) (v : Nat) : (fset d a f v).ms = d.ms := rfl
@[simp] theorem fset_pwr (d : Dev) (a : Nat) (f : Fld) (v : Nat) : (fset d a f v).pwr = d.pwr := rfl
@[simp] theorem fset_tst (d : Dev) (a : Nat) (f : Fld) (v : Nat) : (fset d a f v).tst = d.tst := rfl
@[simp] theorem fset_mgt (d : Dev) (a : Nat) (f : Fld) (v : Nat) : (fset d a f v).mgt = d.mgt := rfl

/-! #### finc -/
@[simp] theorem finc_now (d : Dev) (a : Nat) (f : Fld) (k : Nat) : (finc d a f k).now = d.now := rfl
@[simp] theorem finc_fresh (d : Dev) (a : Nat) (f : Fld) (k : Nat) : (finc d a f k).fresh = d.fresh := rfl
@[simp] theorem finc_sidPrev (d : Dev) (a : Nat) (f : Fld) (k : Nat) : (finc d a f k).sidPrev = d.sidPrev := rfl
@[simp] theorem finc_live (d : Dev) (a : Nat) (f : Fld) (k : Nat) : (finc d a f k).live = d.live := rfl
@[simp] theorem finc_roleLocked (d : Dev) (a : Nat) (f : Fld) (k : Nat) : (finc d a f k).roleLocked = d.roleLocked := rfl
@[simp] theorem finc_mem (d : Dev) (a : Nat) (f : Fld) (k : Nat) : (finc d a f k).mem = d.mem := rfl
@[simp] theorem finc_nv (d : Dev) (a : Nat) (f : Fld) (k : Nat) : (finc d a f k).nv = d.nv := rfl
@[simp] theorem finc_nvNext (d : Dev) (a : Nat) (f : Fld) (k : Nat) : (finc d a f k).nvNext = d.nvNext := rfl
@[simp] theorem finc_pend (d : Dev) (a : Nat) (f : Fld) (k : Nat) : (finc d a f k).pend = d.pend := rfl
@[simp] theorem finc_obs (d : Dev) (a : Nat) (f : Fld) (k : Nat) : (finc d a f k).obs = d.obs := rfl
@[simp] theorem finc_seq (d : Dev) (a : Nat) (f : Fld) (k : Nat) : (finc d a f k).seq = d.seq := rfl
@[simp] theorem finc_tables (d : Dev) (a : Nat) (f : Fld) (k : Nat) : (finc d a f k).tables = d.tables := rfl
@[simp] theorem finc_cas (d : Dev) (a : Nat) (f : Fld) (k : Nat) : (finc d a f k).cas = d.cas := rfl
@[simp] theorem finc_jet (d : Dev) (a : Nat) (f : Fld) (k : Nat) : (finc d a f k).jet = d.jet := rfl
@[simp] theorem finc_ast (d : Dev) (a : Nat) (f : Fld) (k : Nat) : (finc d a f k).ast = d.ast := rfl
@[simp] theorem finc_ephRes (d : Dev) (a : Nat) (f : Fld) (k : Nat) : (finc d a f k).ephRes = d.ephRes := rfl
@[simp] theorem finc_rvrUse (d : Dev) (a : Nat) (f : Fld) (k : Nat) : (finc d a f k).rvrUse = d.rvrUse := rfl
@[simp] theorem finc_eph (d : Dev) (a : Nat) (f : Fld) (k : Nat) : (finc d a f k).eph = d.eph := rfl
@[simp] theorem finc_ril (d : Dev) (a : Nat) (f : Fld) (k : Nat) : (finc d a f k).ril = d.ril := rfl
@[simp] theorem finc_wei (d : Dev) (a : Nat) (f : Fld) (k : Nat) : (finc d a f k).wei = d.wei := rfl
@[simp] theorem finc_aqd (d : Dev) (a : Nat) (f : Fld) (k : Nat) : (finc d a f k).aqd = d.aqd := rfl
@[simp] theorem finc_drainAt (d : Dev) (a : Nat) (f : Fld) (k : Nat) : (finc d a f k).drainAt = d.drainAt := rfl
@[simp] theorem finc_ports (d : Dev) (a : Nat) (f : Fld) (k : Nat) : (finc d a f k).ports = d.ports := rfl
@[simp] theorem finc_mach (d : Dev) (a : Nat) (f : Fld) (k : Nat) : (finc d a f k).mach = d.mach := rfl
@[simp] theorem finc_hst (d : Dev) (a : Nat) (f : Fld) (k : Nat) : (finc d a f k).hst = d.hst := rfl
@[simp] theorem finc_ms (d : Dev) (a : Nat) (f : Fld) (k : Nat) : (finc d a f k).ms = d.ms := rfl
@[simp] theorem finc_pwr (d : Dev) (a : Nat) (f : Fld) (k : Nat) : (finc d a f k).pwr = d.pwr := rfl
@[simp] theorem finc_tst (d : Dev) (a : Nat) (f : Fld) (k : Nat) : (finc d a f k).tst = d.tst := rfl
@[simp] theorem finc_mgt (d : Dev) (a : Nat) (f : Fld) (k : Nat) : (finc d a f k).mgt = d.mgt := rfl

/-! #### fincSat -/
@[simp] theorem fincSat_now (d : Dev) (a : Nat) (f : Fld) (k : Nat) : (fincSat d a f k).now = d.now := rfl
@[simp] theorem fincSat_fresh (d : Dev) (a : Nat) (f : Fld) (k : Nat) : (fincSat d a f k).fresh = d.fresh := rfl
@[simp] theorem fincSat_sidPrev (d : Dev) (a : Nat) (f : Fld) (k : Nat) : (fincSat d a f k).sidPrev = d.sidPrev := rfl
@[simp] theorem fincSat_live (d : Dev) (a : Nat) (f : Fld) (k : Nat) : (fincSat d a f k).live = d.live := rfl
@[simp] theorem fincSat_roleLocked (d : Dev) (a : Nat) (f : Fld) (k : Nat) : (fincSat d a f k).roleLocked = d.roleLocked := rfl
@[simp] theorem fincSat_mem (d : Dev) (a : Nat) (f : Fld) (k : Nat) : (fincSat d a f k).mem = d.mem := rfl
@[simp] theorem fincSat_nv (d : Dev) (a : Nat) (f : Fld) (k : Nat) : (fincSat d a f k).nv = d.nv := rfl
@[simp] theorem fincSat_nvNext (d : Dev) (a : Nat) (f : Fld) (k : Nat) : (fincSat d a f k).nvNext = d.nvNext := rfl
@[simp] theorem fincSat_pend (d : Dev) (a : Nat) (f : Fld) (k : Nat) : (fincSat d a f k).pend = d.pend := rfl
@[simp] theorem fincSat_obs (d : Dev) (a : Nat) (f : Fld) (k : Nat) : (fincSat d a f k).obs = d.obs := rfl
@[simp] theorem fincSat_seq (d : Dev) (a : Nat) (f : Fld) (k : Nat) : (fincSat d a f k).seq = d.seq := rfl
@[simp] theorem fincSat_tables (d : Dev) (a : Nat) (f : Fld) (k : Nat) : (fincSat d a f k).tables = d.tables := rfl
@[simp] theorem fincSat_cas (d : Dev) (a : Nat) (f : Fld) (k : Nat) : (fincSat d a f k).cas = d.cas := rfl
@[simp] theorem fincSat_jet (d : Dev) (a : Nat) (f : Fld) (k : Nat) : (fincSat d a f k).jet = d.jet := rfl
@[simp] theorem fincSat_ast (d : Dev) (a : Nat) (f : Fld) (k : Nat) : (fincSat d a f k).ast = d.ast := rfl
@[simp] theorem fincSat_ephRes (d : Dev) (a : Nat) (f : Fld) (k : Nat) : (fincSat d a f k).ephRes = d.ephRes := rfl
@[simp] theorem fincSat_rvrUse (d : Dev) (a : Nat) (f : Fld) (k : Nat) : (fincSat d a f k).rvrUse = d.rvrUse := rfl
@[simp] theorem fincSat_eph (d : Dev) (a : Nat) (f : Fld) (k : Nat) : (fincSat d a f k).eph = d.eph := rfl
@[simp] theorem fincSat_ril (d : Dev) (a : Nat) (f : Fld) (k : Nat) : (fincSat d a f k).ril = d.ril := rfl
@[simp] theorem fincSat_wei (d : Dev) (a : Nat) (f : Fld) (k : Nat) : (fincSat d a f k).wei = d.wei := rfl
@[simp] theorem fincSat_aqd (d : Dev) (a : Nat) (f : Fld) (k : Nat) : (fincSat d a f k).aqd = d.aqd := rfl
@[simp] theorem fincSat_drainAt (d : Dev) (a : Nat) (f : Fld) (k : Nat) : (fincSat d a f k).drainAt = d.drainAt := rfl
@[simp] theorem fincSat_ports (d : Dev) (a : Nat) (f : Fld) (k : Nat) : (fincSat d a f k).ports = d.ports := rfl
@[simp] theorem fincSat_mach (d : Dev) (a : Nat) (f : Fld) (k : Nat) : (fincSat d a f k).mach = d.mach := rfl
@[simp] theorem fincSat_hst (d : Dev) (a : Nat) (f : Fld) (k : Nat) : (fincSat d a f k).hst = d.hst := rfl
@[simp] theorem fincSat_ms (d : Dev) (a : Nat) (f : Fld) (k : Nat) : (fincSat d a f k).ms = d.ms := rfl
@[simp] theorem fincSat_pwr (d : Dev) (a : Nat) (f : Fld) (k : Nat) : (fincSat d a f k).pwr = d.pwr := rfl
@[simp] theorem fincSat_tst (d : Dev) (a : Nat) (f : Fld) (k : Nat) : (fincSat d a f k).tst = d.tst := rfl
@[simp] theorem fincSat_mgt (d : Dev) (a : Nat) (f : Fld) (k : Nat) : (fincSat d a f k).mgt = d.mgt := rfl

/-! #### drawn -/
@[simp] theorem drawn_now (d : Dev) : (drawn d).now = d.now := rfl
@[simp] theorem drawn_sidPrev (d : Dev) : (drawn d).sidPrev = d.sidPrev := rfl
@[simp] theorem drawn_regs (d : Dev) : (drawn d).regs = d.regs := rfl
@[simp] theorem drawn_live (d : Dev) : (drawn d).live = d.live := rfl
@[simp] theorem drawn_roleLocked (d : Dev) : (drawn d).roleLocked = d.roleLocked := rfl
@[simp] theorem drawn_mem (d : Dev) : (drawn d).mem = d.mem := rfl
@[simp] theorem drawn_nv (d : Dev) : (drawn d).nv = d.nv := rfl
@[simp] theorem drawn_nvNext (d : Dev) : (drawn d).nvNext = d.nvNext := rfl
@[simp] theorem drawn_pend (d : Dev) : (drawn d).pend = d.pend := rfl
@[simp] theorem drawn_obs (d : Dev) : (drawn d).obs = d.obs := rfl
@[simp] theorem drawn_seq (d : Dev) : (drawn d).seq = d.seq := rfl
@[simp] theorem drawn_tables (d : Dev) : (drawn d).tables = d.tables := rfl
@[simp] theorem drawn_cas (d : Dev) : (drawn d).cas = d.cas := rfl
@[simp] theorem drawn_jet (d : Dev) : (drawn d).jet = d.jet := rfl
@[simp] theorem drawn_ast (d : Dev) : (drawn d).ast = d.ast := rfl
@[simp] theorem drawn_ephRes (d : Dev) : (drawn d).ephRes = d.ephRes := rfl
@[simp] theorem drawn_rvrUse (d : Dev) : (drawn d).rvrUse = d.rvrUse := rfl
@[simp] theorem drawn_eph (d : Dev) : (drawn d).eph = d.eph := rfl
@[simp] theorem drawn_ril (d : Dev) : (drawn d).ril = d.ril := rfl
@[simp] theorem drawn_wei (d : Dev) : (drawn d).wei = d.wei := rfl
@[simp] theorem drawn_aqd (d : Dev) : (drawn d).aqd = d.aqd := rfl
@[simp] theorem drawn_drainAt (d : Dev) : (drawn d).drainAt = d.drainAt := rfl
@[simp] theorem drawn_ports (d : Dev) : (drawn d).ports = d.ports := rfl
@[simp] theorem drawn_mach (d : Dev) : (drawn d).mach = d.mach := rfl
@[simp] theorem drawn_hst (d : Dev) : (drawn d).hst = d.hst := rfl
@[simp] theorem drawn_ms (d : Dev) : (drawn d).ms = d.ms := rfl
@[simp] theorem drawn_pwr (d : Dev) : (drawn d).pwr = d.pwr := rfl
@[simp] theorem drawn_tst (d : Dev) : (drawn d).tst = d.tst := rfl
@[simp] theorem drawn_mgt (d : Dev) : (drawn d).mgt = d.mgt := rfl

/-! #### latch -/
@[simp] theorem latch_now (d : Dev) (as : List Nat) : (latch d as).now = d.now := rfl
@[simp] theorem latch_fresh (d : Dev) (as : List Nat) : (latch d as).fresh = d.fresh := rfl
@[simp] theorem latch_sidPrev (d : Dev) (as : List Nat) : (latch d as).sidPrev = d.sidPrev := rfl
@[simp] theorem latch_regs (d : Dev) (as : List Nat) : (latch d as).regs = d.regs := rfl
@[simp] theorem latch_roleLocked (d : Dev) (as : List Nat) : (latch d as).roleLocked = d.roleLocked := rfl
@[simp] theorem latch_mem (d : Dev) (as : List Nat) : (latch d as).mem = d.mem := rfl
@[simp] theorem latch_nv (d : Dev) (as : List Nat) : (latch d as).nv = d.nv := rfl
@[simp] theorem latch_nvNext (d : Dev) (as : List Nat) : (latch d as).nvNext = d.nvNext := rfl
@[simp] theorem latch_pend (d : Dev) (as : List Nat) : (latch d as).pend = d.pend := rfl
@[simp] theorem latch_obs (d : Dev) (as : List Nat) : (latch d as).obs = d.obs := rfl
@[simp] theorem latch_seq (d : Dev) (as : List Nat) : (latch d as).seq = d.seq := rfl
@[simp] theorem latch_tables (d : Dev) (as : List Nat) : (latch d as).tables = d.tables := rfl
@[simp] theorem latch_cas (d : Dev) (as : List Nat) : (latch d as).cas = d.cas := rfl
@[simp] theorem latch_jet (d : Dev) (as : List Nat) : (latch d as).jet = d.jet := rfl
@[simp] theorem latch_ast (d : Dev) (as : List Nat) : (latch d as).ast = d.ast := rfl
@[simp] theorem latch_ephRes (d : Dev) (as : List Nat) : (latch d as).ephRes = d.ephRes := rfl
@[simp] theorem latch_rvrUse (d : Dev) (as : List Nat) : (latch d as).rvrUse = d.rvrUse := rfl
@[simp] theorem latch_eph (d : Dev) (as : List Nat) : (latch d as).eph = d.eph := rfl
@[simp] theorem latch_ril (d : Dev) (as : List Nat) : (latch d as).ril = d.ril := rfl
@[simp] theorem latch_wei (d : Dev) (as : List Nat) : (latch d as).wei = d.wei := rfl
@[simp] theorem latch_aqd (d : Dev) (as : List Nat) : (latch d as).aqd = d.aqd := rfl
@[simp] theorem latch_drainAt (d : Dev) (as : List Nat) : (latch d as).drainAt = d.drainAt := rfl
@[simp] theorem latch_ports (d : Dev) (as : List Nat) : (latch d as).ports = d.ports := rfl
@[simp] theorem latch_mach (d : Dev) (as : List Nat) : (latch d as).mach = d.mach := rfl
@[simp] theorem latch_hst (d : Dev) (as : List Nat) : (latch d as).hst = d.hst := rfl
@[simp] theorem latch_ms (d : Dev) (as : List Nat) : (latch d as).ms = d.ms := rfl
@[simp] theorem latch_pwr (d : Dev) (as : List Nat) : (latch d as).pwr = d.pwr := rfl
@[simp] theorem latch_tst (d : Dev) (as : List Nat) : (latch d as).tst = d.tst := rfl
@[simp] theorem latch_mgt (d : Dev) (as : List Nat) : (latch d as).mgt = d.mgt := rfl

/-! #### latchRange -/
@[simp] theorem latchRange_now (d : Dev) (lo hi : Nat) : (latchRange d lo hi).now = d.now := rfl
@[simp] theorem latchRange_fresh (d : Dev) (lo hi : Nat) : (latchRange d lo hi).fresh = d.fresh := rfl
@[simp] theorem latchRange_sidPrev (d : Dev) (lo hi : Nat) : (latchRange d lo hi).sidPrev = d.sidPrev := rfl
@[simp] theorem latchRange_regs (d : Dev) (lo hi : Nat) : (latchRange d lo hi).regs = d.regs := rfl
@[simp] theorem latchRange_roleLocked (d : Dev) (lo hi : Nat) : (latchRange d lo hi).roleLocked = d.roleLocked := rfl
@[simp] theorem latchRange_mem (d : Dev) (lo hi : Nat) : (latchRange d lo hi).mem = d.mem := rfl
@[simp] theorem latchRange_nv (d : Dev) (lo hi : Nat) : (latchRange d lo hi).nv = d.nv := rfl
@[simp] theorem latchRange_nvNext (d : Dev) (lo hi : Nat) : (latchRange d lo hi).nvNext = d.nvNext := rfl
@[simp] theorem latchRange_pend (d : Dev) (lo hi : Nat) : (latchRange d lo hi).pend = d.pend := rfl
@[simp] theorem latchRange_obs (d : Dev) (lo hi : Nat) : (latchRange d lo hi).obs = d.obs := rfl
@[simp] theorem latchRange_seq (d : Dev) (lo hi : Nat) : (latchRange d lo hi).seq = d.seq := rfl
@[simp] theorem latchRange_tables (d : Dev) (lo hi : Nat) : (latchRange d lo hi).tables = d.tables := rfl
@[simp] theorem latchRange_cas (d : Dev) (lo hi : Nat) : (latchRange d lo hi).cas = d.cas := rfl
@[simp] theorem latchRange_jet (d : Dev) (lo hi : Nat) : (latchRange d lo hi).jet = d.jet := rfl
@[simp] theorem latchRange_ast (d : Dev) (lo hi : Nat) : (latchRange d lo hi).ast = d.ast := rfl
@[simp] theorem latchRange_ephRes (d : Dev) (lo hi : Nat) : (latchRange d lo hi).ephRes = d.ephRes := rfl
@[simp] theorem latchRange_rvrUse (d : Dev) (lo hi : Nat) : (latchRange d lo hi).rvrUse = d.rvrUse := rfl
@[simp] theorem latchRange_eph (d : Dev) (lo hi : Nat) : (latchRange d lo hi).eph = d.eph := rfl
@[simp] theorem latchRange_ril (d : Dev) (lo hi : Nat) : (latchRange d lo hi).ril = d.ril := rfl
@[simp] theorem latchRange_wei (d : Dev) (lo hi : Nat) : (latchRange d lo hi).wei = d.wei := rfl
@[simp] theorem latchRange_aqd (d : Dev) (lo hi : Nat) : (latchRange d lo hi).aqd = d.aqd := rfl
@[simp] theorem latchRange_drainAt (d : Dev) (lo hi : Nat) : (latchRange d lo hi).drainAt = d.drainAt := rfl
@[simp] theorem latchRange_ports (d : Dev) (lo hi : Nat) : (latchRange d lo hi).ports = d.ports := rfl
@[simp] theorem latchRange_mach (d : Dev) (lo hi : Nat) : (latchRange d lo hi).mach = d.mach := rfl
@[simp] theorem latchRange_hst (d : Dev) (lo hi : Nat) : (latchRange d lo hi).hst = d.hst := rfl
@[simp] theorem latchRange_ms (d : Dev) (lo hi : Nat) : (latchRange d lo hi).ms = d.ms := rfl
@[simp] theorem latchRange_pwr (d : Dev) (lo hi : Nat) : (latchRange d lo hi).pwr = d.pwr := rfl
@[simp] theorem latchRange_tst (d : Dev) (lo hi : Nat) : (latchRange d lo hi).tst = d.tst := rfl
@[simp] theorem latchRange_mgt (d : Dev) (lo hi : Nat) : (latchRange d lo hi).mgt = d.mgt := rfl

/-! #### govSet -/
@[simp] theorem govSet_now (d : Dev) (k : GovKey) (v : Nat) : (govSet d k v).now = d.now := rfl
@[simp] theorem govSet_fresh (d : Dev) (k : GovKey) (v : Nat) : (govSet d k v).fresh = d.fresh := rfl
@[simp] theorem govSet_sidPrev (d : Dev) (k : GovKey) (v : Nat) : (govSet d k v).sidPrev = d.sidPrev := rfl
@[simp] theorem govSet_regs (d : Dev) (k : GovKey) (v : Nat) : (govSet d k v).regs = d.regs := rfl
@[simp] theorem govSet_live (d : Dev) (k : GovKey) (v : Nat) : (govSet d k v).live = d.live := rfl
@[simp] theorem govSet_roleLocked (d : Dev) (k : GovKey) (v : Nat) : (govSet d k v).roleLocked = d.roleLocked := rfl
@[simp] theorem govSet_mem (d : Dev) (k : GovKey) (v : Nat) : (govSet d k v).mem = d.mem := rfl
@[simp] theorem govSet_nv (d : Dev) (k : GovKey) (v : Nat) : (govSet d k v).nv = d.nv := rfl
@[simp] theorem govSet_nvNext (d : Dev) (k : GovKey) (v : Nat) : (govSet d k v).nvNext = d.nvNext := rfl
@[simp] theorem govSet_obs (d : Dev) (k : GovKey) (v : Nat) : (govSet d k v).obs = d.obs := rfl
@[simp] theorem govSet_seq (d : Dev) (k : GovKey) (v : Nat) : (govSet d k v).seq = d.seq := rfl
@[simp] theorem govSet_tables (d : Dev) (k : GovKey) (v : Nat) : (govSet d k v).tables = d.tables := rfl
@[simp] theorem govSet_cas (d : Dev) (k : GovKey) (v : Nat) : (govSet d k v).cas = d.cas := rfl
@[simp] theorem govSet_jet (d : Dev) (k : GovKey) (v : Nat) : (govSet d k v).jet = d.jet := rfl
@[simp] theorem govSet_ast (d : Dev) (k : GovKey) (v : Nat) : (govSet d k v).ast = d.ast := rfl
@[simp] theorem govSet_ephRes (d : Dev) (k : GovKey) (v : Nat) : (govSet d k v).ephRes = d.ephRes := rfl
@[simp] theorem govSet_rvrUse (d : Dev) (k : GovKey) (v : Nat) : (govSet d k v).rvrUse = d.rvrUse := rfl
@[simp] theorem govSet_eph (d : Dev) (k : GovKey) (v : Nat) : (govSet d k v).eph = d.eph := rfl
@[simp] theorem govSet_ril (d : Dev) (k : GovKey) (v : Nat) : (govSet d k v).ril = d.ril := rfl
@[simp] theorem govSet_wei (d : Dev) (k : GovKey) (v : Nat) : (govSet d k v).wei = d.wei := rfl
@[simp] theorem govSet_aqd (d : Dev) (k : GovKey) (v : Nat) : (govSet d k v).aqd = d.aqd := rfl
@[simp] theorem govSet_drainAt (d : Dev) (k : GovKey) (v : Nat) : (govSet d k v).drainAt = d.drainAt := rfl
@[simp] theorem govSet_ports (d : Dev) (k : GovKey) (v : Nat) : (govSet d k v).ports = d.ports := rfl
@[simp] theorem govSet_mach (d : Dev) (k : GovKey) (v : Nat) : (govSet d k v).mach = d.mach := rfl
@[simp] theorem govSet_hst (d : Dev) (k : GovKey) (v : Nat) : (govSet d k v).hst = d.hst := rfl
@[simp] theorem govSet_ms (d : Dev) (k : GovKey) (v : Nat) : (govSet d k v).ms = d.ms := rfl
@[simp] theorem govSet_pwr (d : Dev) (k : GovKey) (v : Nat) : (govSet d k v).pwr = d.pwr := rfl
@[simp] theorem govSet_tst (d : Dev) (k : GovKey) (v : Nat) : (govSet d k v).tst = d.tst := rfl
@[simp] theorem govSet_mgt (d : Dev) (k : GovKey) (v : Nat) : (govSet d k v).mgt = d.mgt := rfl

/-! #### setRingH -/
@[simp] theorem setRingH_now (d : Dev) (n : Nat) (r : RingH) : (setRingH d n r).now = d.now := rfl
@[simp] theorem setRingH_fresh (d : Dev) (n : Nat) (r : RingH) : (setRingH d n r).fresh = d.fresh := rfl
@[simp] theorem setRingH_sidPrev (d : Dev) (n : Nat) (r : RingH) : (setRingH d n r).sidPrev = d.sidPrev := rfl
@[simp] theorem setRingH_regs (d : Dev) (n : Nat) (r : RingH) : (setRingH d n r).regs = d.regs := rfl
@[simp] theorem setRingH_live (d : Dev) (n : Nat) (r : RingH) : (setRingH d n r).live = d.live := rfl
@[simp] theorem setRingH_roleLocked (d : Dev) (n : Nat) (r : RingH) : (setRingH d n r).roleLocked = d.roleLocked := rfl
@[simp] theorem setRingH_mem (d : Dev) (n : Nat) (r : RingH) : (setRingH d n r).mem = d.mem := rfl
@[simp] theorem setRingH_nv (d : Dev) (n : Nat) (r : RingH) : (setRingH d n r).nv = d.nv := rfl
@[simp] theorem setRingH_nvNext (d : Dev) (n : Nat) (r : RingH) : (setRingH d n r).nvNext = d.nvNext := rfl
@[simp] theorem setRingH_pend (d : Dev) (n : Nat) (r : RingH) : (setRingH d n r).pend = d.pend := rfl
@[simp] theorem setRingH_obs (d : Dev) (n : Nat) (r : RingH) : (setRingH d n r).obs = d.obs := rfl
@[simp] theorem setRingH_seq (d : Dev) (n : Nat) (r : RingH) : (setRingH d n r).seq = d.seq := rfl
@[simp] theorem setRingH_tables (d : Dev) (n : Nat) (r : RingH) : (setRingH d n r).tables = d.tables := rfl
@[simp] theorem setRingH_cas (d : Dev) (n : Nat) (r : RingH) : (setRingH d n r).cas = d.cas := rfl
@[simp] theorem setRingH_jet (d : Dev) (n : Nat) (r : RingH) : (setRingH d n r).jet = d.jet := rfl
@[simp] theorem setRingH_ast (d : Dev) (n : Nat) (r : RingH) : (setRingH d n r).ast = d.ast := rfl
@[simp] theorem setRingH_ephRes (d : Dev) (n : Nat) (r : RingH) : (setRingH d n r).ephRes = d.ephRes := rfl
@[simp] theorem setRingH_rvrUse (d : Dev) (n : Nat) (r : RingH) : (setRingH d n r).rvrUse = d.rvrUse := rfl
@[simp] theorem setRingH_eph (d : Dev) (n : Nat) (r : RingH) : (setRingH d n r).eph = d.eph := rfl
@[simp] theorem setRingH_ril (d : Dev) (n : Nat) (r : RingH) : (setRingH d n r).ril = d.ril := rfl
@[simp] theorem setRingH_wei (d : Dev) (n : Nat) (r : RingH) : (setRingH d n r).wei = d.wei := rfl
@[simp] theorem setRingH_aqd (d : Dev) (n : Nat) (r : RingH) : (setRingH d n r).aqd = d.aqd := rfl
@[simp] theorem setRingH_drainAt (d : Dev) (n : Nat) (r : RingH) : (setRingH d n r).drainAt = d.drainAt := rfl
@[simp] theorem setRingH_ports (d : Dev) (n : Nat) (r : RingH) : (setRingH d n r).ports = d.ports := rfl
@[simp] theorem setRingH_mach (d : Dev) (n : Nat) (r : RingH) : (setRingH d n r).mach = d.mach := rfl
@[simp] theorem setRingH_ms (d : Dev) (n : Nat) (r : RingH) : (setRingH d n r).ms = d.ms := rfl
@[simp] theorem setRingH_pwr (d : Dev) (n : Nat) (r : RingH) : (setRingH d n r).pwr = d.pwr := rfl
@[simp] theorem setRingH_tst (d : Dev) (n : Nat) (r : RingH) : (setRingH d n r).tst = d.tst := rfl
@[simp] theorem setRingH_mgt (d : Dev) (n : Nat) (r : RingH) : (setRingH d n r).mgt = d.mgt := rfl

/-! #### hostWrite -/
@[simp] theorem hostWrite_now (d : Dev) (a : Nat) (bs : List Byte) : (hostWrite d a bs).now = d.now := rfl
@[simp] theorem hostWrite_fresh (d : Dev) (a : Nat) (bs : List Byte) : (hostWrite d a bs).fresh = d.fresh := rfl
@[simp] theorem hostWrite_sidPrev (d : Dev) (a : Nat) (bs : List Byte) : (hostWrite d a bs).sidPrev = d.sidPrev := rfl
@[simp] theorem hostWrite_regs (d : Dev) (a : Nat) (bs : List Byte) : (hostWrite d a bs).regs = d.regs := rfl
@[simp] theorem hostWrite_live (d : Dev) (a : Nat) (bs : List Byte) : (hostWrite d a bs).live = d.live := rfl
@[simp] theorem hostWrite_roleLocked (d : Dev) (a : Nat) (bs : List Byte) : (hostWrite d a bs).roleLocked = d.roleLocked := rfl
@[simp] theorem hostWrite_mem (d : Dev) (a : Nat) (bs : List Byte) : (hostWrite d a bs).mem = d.mem := rfl
@[simp] theorem hostWrite_nv (d : Dev) (a : Nat) (bs : List Byte) : (hostWrite d a bs).nv = d.nv := rfl
@[simp] theorem hostWrite_nvNext (d : Dev) (a : Nat) (bs : List Byte) : (hostWrite d a bs).nvNext = d.nvNext := rfl
@[simp] theorem hostWrite_pend (d : Dev) (a : Nat) (bs : List Byte) : (hostWrite d a bs).pend = d.pend := rfl
@[simp] theorem hostWrite_obs (d : Dev) (a : Nat) (bs : List Byte) : (hostWrite d a bs).obs = d.obs := rfl
@[simp] theorem hostWrite_seq (d : Dev) (a : Nat) (bs : List Byte) : (hostWrite d a bs).seq = d.seq := rfl
@[simp] theorem hostWrite_tables (d : Dev) (a : Nat) (bs : List Byte) : (hostWrite d a bs).tables = d.tables := rfl
@[simp] theorem hostWrite_cas (d : Dev) (a : Nat) (bs : List Byte) : (hostWrite d a bs).cas = d.cas := rfl
@[simp] theorem hostWrite_jet (d : Dev) (a : Nat) (bs : List Byte) : (hostWrite d a bs).jet = d.jet := rfl
@[simp] theorem hostWrite_ast (d : Dev) (a : Nat) (bs : List Byte) : (hostWrite d a bs).ast = d.ast := rfl
@[simp] theorem hostWrite_ephRes (d : Dev) (a : Nat) (bs : List Byte) : (hostWrite d a bs).ephRes = d.ephRes := rfl
@[simp] theorem hostWrite_rvrUse (d : Dev) (a : Nat) (bs : List Byte) : (hostWrite d a bs).rvrUse = d.rvrUse := rfl
@[simp] theorem hostWrite_eph (d : Dev) (a : Nat) (bs : List Byte) : (hostWrite d a bs).eph = d.eph := rfl
@[simp] theorem hostWrite_ril (d : Dev) (a : Nat) (bs : List Byte) : (hostWrite d a bs).ril = d.ril := rfl
@[simp] theorem hostWrite_wei (d : Dev) (a : Nat) (bs : List Byte) : (hostWrite d a bs).wei = d.wei := rfl
@[simp] theorem hostWrite_aqd (d : Dev) (a : Nat) (bs : List Byte) : (hostWrite d a bs).aqd = d.aqd := rfl
@[simp] theorem hostWrite_drainAt (d : Dev) (a : Nat) (bs : List Byte) : (hostWrite d a bs).drainAt = d.drainAt := rfl
@[simp] theorem hostWrite_ports (d : Dev) (a : Nat) (bs : List Byte) : (hostWrite d a bs).ports = d.ports := rfl
@[simp] theorem hostWrite_mach (d : Dev) (a : Nat) (bs : List Byte) : (hostWrite d a bs).mach = d.mach := rfl
@[simp] theorem hostWrite_ms (d : Dev) (a : Nat) (bs : List Byte) : (hostWrite d a bs).ms = d.ms := rfl
@[simp] theorem hostWrite_pwr (d : Dev) (a : Nat) (bs : List Byte) : (hostWrite d a bs).pwr = d.pwr := rfl
@[simp] theorem hostWrite_tst (d : Dev) (a : Nat) (bs : List Byte) : (hostWrite d a bs).tst = d.tst := rfl
@[simp] theorem hostWrite_mgt (d : Dev) (a : Nat) (bs : List Byte) : (hostWrite d a bs).mgt = d.mgt := rfl

/-! #### setOvf -/
@[simp] theorem setOvf_now (d : Dev) (l : List (Nat × Record)) : (setOvf d l).now = d.now := rfl
@[simp] theorem setOvf_fresh (d : Dev) (l : List (Nat × Record)) : (setOvf d l).fresh = d.fresh := rfl
@[simp] theorem setOvf_sidPrev (d : Dev) (l : List (Nat × Record)) : (setOvf d l).sidPrev = d.sidPrev := rfl
@[simp] theorem setOvf_live (d : Dev) (l : List (Nat × Record)) : (setOvf d l).live = d.live := rfl
@[simp] theorem setOvf_roleLocked (d : Dev) (l : List (Nat × Record)) : (setOvf d l).roleLocked = d.roleLocked := rfl
@[simp] theorem setOvf_mem (d : Dev) (l : List (Nat × Record)) : (setOvf d l).mem = d.mem := rfl
@[simp] theorem setOvf_nv (d : Dev) (l : List (Nat × Record)) : (setOvf d l).nv = d.nv := rfl
@[simp] theorem setOvf_nvNext (d : Dev) (l : List (Nat × Record)) : (setOvf d l).nvNext = d.nvNext := rfl
@[simp] theorem setOvf_pend (d : Dev) (l : List (Nat × Record)) : (setOvf d l).pend = d.pend := rfl
@[simp] theorem setOvf_obs (d : Dev) (l : List (Nat × Record)) : (setOvf d l).obs = d.obs := rfl
@[simp] theorem setOvf_seq (d : Dev) (l : List (Nat × Record)) : (setOvf d l).seq = d.seq := rfl
@[simp] theorem setOvf_tables (d : Dev) (l : List (Nat × Record)) : (setOvf d l).tables = d.tables := rfl
@[simp] theorem setOvf_cas (d : Dev) (l : List (Nat × Record)) : (setOvf d l).cas = d.cas := rfl
@[simp] theorem setOvf_jet (d : Dev) (l : List (Nat × Record)) : (setOvf d l).jet = d.jet := rfl
@[simp] theorem setOvf_ast (d : Dev) (l : List (Nat × Record)) : (setOvf d l).ast = d.ast := rfl
@[simp] theorem setOvf_ephRes (d : Dev) (l : List (Nat × Record)) : (setOvf d l).ephRes = d.ephRes := rfl
@[simp] theorem setOvf_rvrUse (d : Dev) (l : List (Nat × Record)) : (setOvf d l).rvrUse = d.rvrUse := rfl
@[simp] theorem setOvf_eph (d : Dev) (l : List (Nat × Record)) : (setOvf d l).eph = d.eph := rfl
@[simp] theorem setOvf_ril (d : Dev) (l : List (Nat × Record)) : (setOvf d l).ril = d.ril := rfl
@[simp] theorem setOvf_wei (d : Dev) (l : List (Nat × Record)) : (setOvf d l).wei = d.wei := rfl
@[simp] theorem setOvf_aqd (d : Dev) (l : List (Nat × Record)) : (setOvf d l).aqd = d.aqd := rfl
@[simp] theorem setOvf_drainAt (d : Dev) (l : List (Nat × Record)) : (setOvf d l).drainAt = d.drainAt := rfl
@[simp] theorem setOvf_ports (d : Dev) (l : List (Nat × Record)) : (setOvf d l).ports = d.ports := rfl
@[simp] theorem setOvf_mach (d : Dev) (l : List (Nat × Record)) : (setOvf d l).mach = d.mach := rfl
@[simp] theorem setOvf_ms (d : Dev) (l : List (Nat × Record)) : (setOvf d l).ms = d.ms := rfl
@[simp] theorem setOvf_pwr (d : Dev) (l : List (Nat × Record)) : (setOvf d l).pwr = d.pwr := rfl
@[simp] theorem setOvf_tst (d : Dev) (l : List (Nat × Record)) : (setOvf d l).tst = d.tst := rfl
@[simp] theorem setOvf_mgt (d : Dev) (l : List (Nat × Record)) : (setOvf d l).mgt = d.mgt := rfl

/-! #### nextRseq -/
@[simp] theorem nextRseq_now (d : Dev) : (nextRseq d).now = d.now := rfl
@[simp] theorem nextRseq_fresh (d : Dev) : (nextRseq d).fresh = d.fresh := rfl
@[simp] theorem nextRseq_sidPrev (d : Dev) : (nextRseq d).sidPrev = d.sidPrev := rfl
@[simp] theorem nextRseq_regs (d : Dev) : (nextRseq d).regs = d.regs := rfl
@[simp] theorem nextRseq_live (d : Dev) : (nextRseq d).live = d.live := rfl
@[simp] theorem nextRseq_roleLocked (d : Dev) : (nextRseq d).roleLocked = d.roleLocked := rfl
@[simp] theorem nextRseq_mem (d : Dev) : (nextRseq d).mem = d.mem := rfl
@[simp] theorem nextRseq_nv (d : Dev) : (nextRseq d).nv = d.nv := rfl
@[simp] theorem nextRseq_nvNext (d : Dev) : (nextRseq d).nvNext = d.nvNext := rfl
@[simp] theorem nextRseq_pend (d : Dev) : (nextRseq d).pend = d.pend := rfl
@[simp] theorem nextRseq_obs (d : Dev) : (nextRseq d).obs = d.obs := rfl
@[simp] theorem nextRseq_seq (d : Dev) : (nextRseq d).seq = d.seq := rfl
@[simp] theorem nextRseq_tables (d : Dev) : (nextRseq d).tables = d.tables := rfl
@[simp] theorem nextRseq_cas (d : Dev) : (nextRseq d).cas = d.cas := rfl
@[simp] theorem nextRseq_jet (d : Dev) : (nextRseq d).jet = d.jet := rfl
@[simp] theorem nextRseq_ast (d : Dev) : (nextRseq d).ast = d.ast := rfl
@[simp] theorem nextRseq_ephRes (d : Dev) : (nextRseq d).ephRes = d.ephRes := rfl
@[simp] theorem nextRseq_rvrUse (d : Dev) : (nextRseq d).rvrUse = d.rvrUse := rfl
@[simp] theorem nextRseq_eph (d : Dev) : (nextRseq d).eph = d.eph := rfl
@[simp] theorem nextRseq_ril (d : Dev) : (nextRseq d).ril = d.ril := rfl
@[simp] theorem nextRseq_wei (d : Dev) : (nextRseq d).wei = d.wei := rfl
@[simp] theorem nextRseq_aqd (d : Dev) : (nextRseq d).aqd = d.aqd := rfl
@[simp] theorem nextRseq_drainAt (d : Dev) : (nextRseq d).drainAt = d.drainAt := rfl
@[simp] theorem nextRseq_ports (d : Dev) : (nextRseq d).ports = d.ports := rfl
@[simp] theorem nextRseq_mach (d : Dev) : (nextRseq d).mach = d.mach := rfl
@[simp] theorem nextRseq_ms (d : Dev) : (nextRseq d).ms = d.ms := rfl
@[simp] theorem nextRseq_pwr (d : Dev) : (nextRseq d).pwr = d.pwr := rfl
@[simp] theorem nextRseq_tst (d : Dev) : (nextRseq d).tst = d.tst := rfl
@[simp] theorem nextRseq_mgt (d : Dev) : (nextRseq d).mgt = d.mgt := rfl

/-! #### raiseAbort -/
@[simp] theorem raiseAbort_now (d : Dev) (k : Nat) : (raiseAbort d k).now = d.now := rfl
@[simp] theorem raiseAbort_fresh (d : Dev) (k : Nat) : (raiseAbort d k).fresh = d.fresh := rfl
@[simp] theorem raiseAbort_sidPrev (d : Dev) (k : Nat) : (raiseAbort d k).sidPrev = d.sidPrev := rfl
@[simp] theorem raiseAbort_regs (d : Dev) (k : Nat) : (raiseAbort d k).regs = d.regs := rfl
@[simp] theorem raiseAbort_live (d : Dev) (k : Nat) : (raiseAbort d k).live = d.live := rfl
@[simp] theorem raiseAbort_roleLocked (d : Dev) (k : Nat) : (raiseAbort d k).roleLocked = d.roleLocked := rfl
@[simp] theorem raiseAbort_mem (d : Dev) (k : Nat) : (raiseAbort d k).mem = d.mem := rfl
@[simp] theorem raiseAbort_nv (d : Dev) (k : Nat) : (raiseAbort d k).nv = d.nv := rfl
@[simp] theorem raiseAbort_nvNext (d : Dev) (k : Nat) : (raiseAbort d k).nvNext = d.nvNext := rfl
@[simp] theorem raiseAbort_obs (d : Dev) (k : Nat) : (raiseAbort d k).obs = d.obs := rfl
@[simp] theorem raiseAbort_seq (d : Dev) (k : Nat) : (raiseAbort d k).seq = d.seq := rfl
@[simp] theorem raiseAbort_tables (d : Dev) (k : Nat) : (raiseAbort d k).tables = d.tables := rfl
@[simp] theorem raiseAbort_cas (d : Dev) (k : Nat) : (raiseAbort d k).cas = d.cas := rfl
@[simp] theorem raiseAbort_jet (d : Dev) (k : Nat) : (raiseAbort d k).jet = d.jet := rfl
@[simp] theorem raiseAbort_ast (d : Dev) (k : Nat) : (raiseAbort d k).ast = d.ast := rfl
@[simp] theorem raiseAbort_ephRes (d : Dev) (k : Nat) : (raiseAbort d k).ephRes = d.ephRes := rfl
@[simp] theorem raiseAbort_rvrUse (d : Dev) (k : Nat) : (raiseAbort d k).rvrUse = d.rvrUse := rfl
@[simp] theorem raiseAbort_eph (d : Dev) (k : Nat) : (raiseAbort d k).eph = d.eph := rfl
@[simp] theorem raiseAbort_ril (d : Dev) (k : Nat) : (raiseAbort d k).ril = d.ril := rfl
@[simp] theorem raiseAbort_wei (d : Dev) (k : Nat) : (raiseAbort d k).wei = d.wei := rfl
@[simp] theorem raiseAbort_aqd (d : Dev) (k : Nat) : (raiseAbort d k).aqd = d.aqd := rfl
@[simp] theorem raiseAbort_drainAt (d : Dev) (k : Nat) : (raiseAbort d k).drainAt = d.drainAt := rfl
@[simp] theorem raiseAbort_ports (d : Dev) (k : Nat) : (raiseAbort d k).ports = d.ports := rfl
@[simp] theorem raiseAbort_hst (d : Dev) (k : Nat) : (raiseAbort d k).hst = d.hst := rfl
@[simp] theorem raiseAbort_ms (d : Dev) (k : Nat) : (raiseAbort d k).ms = d.ms := rfl
@[simp] theorem raiseAbort_pwr (d : Dev) (k : Nat) : (raiseAbort d k).pwr = d.pwr := rfl
@[simp] theorem raiseAbort_tst (d : Dev) (k : Nat) : (raiseAbort d k).tst = d.tst := rfl
@[simp] theorem raiseAbort_mgt (d : Dev) (k : Nat) : (raiseAbort d k).mgt = d.mgt := rfl

/-! #### drainBegins -/
@[simp] theorem drainBegins_now (d : Dev) (a : Nat) : (drainBegins d a).now = d.now := rfl
@[simp] theorem drainBegins_fresh (d : Dev) (a : Nat) : (drainBegins d a).fresh = d.fresh := rfl
@[simp] theorem drainBegins_sidPrev (d : Dev) (a : Nat) : (drainBegins d a).sidPrev = d.sidPrev := rfl
@[simp] theorem drainBegins_live (d : Dev) (a : Nat) : (drainBegins d a).live = d.live := rfl
@[simp] theorem drainBegins_roleLocked (d : Dev) (a : Nat) : (drainBegins d a).roleLocked = d.roleLocked := rfl
@[simp] theorem drainBegins_mem (d : Dev) (a : Nat) : (drainBegins d a).mem = d.mem := rfl
@[simp] theorem drainBegins_nv (d : Dev) (a : Nat) : (drainBegins d a).nv = d.nv := rfl
@[simp] theorem drainBegins_nvNext (d : Dev) (a : Nat) : (drainBegins d a).nvNext = d.nvNext := rfl
@[simp] theorem drainBegins_pend (d : Dev) (a : Nat) : (drainBegins d a).pend = d.pend := rfl
@[simp] theorem drainBegins_obs (d : Dev) (a : Nat) : (drainBegins d a).obs = d.obs := rfl
@[simp] theorem drainBegins_seq (d : Dev) (a : Nat) : (drainBegins d a).seq = d.seq := rfl
@[simp] theorem drainBegins_tables (d : Dev) (a : Nat) : (drainBegins d a).tables = d.tables := rfl
@[simp] theorem drainBegins_cas (d : Dev) (a : Nat) : (drainBegins d a).cas = d.cas := rfl
@[simp] theorem drainBegins_jet (d : Dev) (a : Nat) : (drainBegins d a).jet = d.jet := rfl
@[simp] theorem drainBegins_ast (d : Dev) (a : Nat) : (drainBegins d a).ast = d.ast := rfl
@[simp] theorem drainBegins_ephRes (d : Dev) (a : Nat) : (drainBegins d a).ephRes = d.ephRes := rfl
@[simp] theorem drainBegins_rvrUse (d : Dev) (a : Nat) : (drainBegins d a).rvrUse = d.rvrUse := rfl
@[simp] theorem drainBegins_eph (d : Dev) (a : Nat) : (drainBegins d a).eph = d.eph := rfl
@[simp] theorem drainBegins_ril (d : Dev) (a : Nat) : (drainBegins d a).ril = d.ril := rfl
@[simp] theorem drainBegins_wei (d : Dev) (a : Nat) : (drainBegins d a).wei = d.wei := rfl
@[simp] theorem drainBegins_aqd (d : Dev) (a : Nat) : (drainBegins d a).aqd = d.aqd := rfl
@[simp] theorem drainBegins_ports (d : Dev) (a : Nat) : (drainBegins d a).ports = d.ports := rfl
@[simp] theorem drainBegins_mach (d : Dev) (a : Nat) : (drainBegins d a).mach = d.mach := rfl
@[simp] theorem drainBegins_hst (d : Dev) (a : Nat) : (drainBegins d a).hst = d.hst := rfl
@[simp] theorem drainBegins_ms (d : Dev) (a : Nat) : (drainBegins d a).ms = d.ms := rfl
@[simp] theorem drainBegins_pwr (d : Dev) (a : Nat) : (drainBegins d a).pwr = d.pwr := rfl
@[simp] theorem drainBegins_tst (d : Dev) (a : Nat) : (drainBegins d a).tst = d.tst := rfl
@[simp] theorem drainBegins_mgt (d : Dev) (a : Nat) : (drainBegins d a).mgt = d.mgt := rfl

/-! #### startCommon -/
@[simp] theorem startCommon_now (d : Dev) (b : Blk) : (startCommon d b).now = d.now := by
  simp only [startCommon, fset_now, finc_now]
@[simp] theorem startCommon_fresh (d : Dev) (b : Blk) : (startCommon d b).fresh = d.fresh := by
  simp only [startCommon, fset_fresh, finc_fresh]
@[simp] theorem startCommon_sidPrev (d : Dev) (b : Blk) : (startCommon d b).sidPrev = d.sidPrev := by
  simp only [startCommon, fset_sidPrev, finc_sidPrev]
@[simp] theorem startCommon_live (d : Dev) (b : Blk) : (startCommon d b).live = d.live := by
  simp only [startCommon, fset_live, finc_live]
@[simp] theorem startCommon_roleLocked (d : Dev) (b : Blk) : (startCommon d b).roleLocked = d.roleLocked := by
  simp only [startCommon, fset_roleLocked, finc_roleLocked]
@[simp] theorem startCommon_mem (d : Dev) (b : Blk) : (startCommon d b).mem = d.mem := by
  simp only [startCommon, fset_mem, finc_mem]
@[simp] theorem startCommon_nv (d : Dev) (b : Blk) : (startCommon d b).nv = d.nv := by
  simp only [startCommon, fset_nv, finc_nv]
@[simp] theorem startCommon_nvNext (d : Dev) (b : Blk) : (startCommon d b).nvNext = d.nvNext := by
  simp only [startCommon, fset_nvNext, finc_nvNext]
@[simp] theorem startCommon_pend (d : Dev) (b : Blk) : (startCommon d b).pend = d.pend := by
  simp only [startCommon, fset_pend, finc_pend]
@[simp] theorem startCommon_obs (d : Dev) (b : Blk) : (startCommon d b).obs = d.obs := by
  simp only [startCommon, fset_obs, finc_obs]
@[simp] theorem startCommon_seq (d : Dev) (b : Blk) : (startCommon d b).seq = d.seq := by
  simp only [startCommon, fset_seq, finc_seq]
@[simp] theorem startCommon_tables (d : Dev) (b : Blk) : (startCommon d b).tables = d.tables := by
  simp only [startCommon, fset_tables, finc_tables]
@[simp] theorem startCommon_cas (d : Dev) (b : Blk) : (startCommon d b).cas = d.cas := by
  simp only [startCommon, fset_cas, finc_cas]
@[simp] theorem startCommon_jet (d : Dev) (b : Blk) : (startCommon d b).jet = d.jet := by
  simp only [startCommon, fset_jet, finc_jet]
@[simp] theorem startCommon_ast (d : Dev) (b : Blk) : (startCommon d b).ast = d.ast := by
  simp only [startCommon, fset_ast, finc_ast]
@[simp] theorem startCommon_ephRes (d : Dev) (b : Blk) : (startCommon d b).ephRes = d.ephRes := by
  simp only [startCommon, fset_ephRes, finc_ephRes]
@[simp] theorem startCommon_rvrUse (d : Dev) (b : Blk) : (startCommon d b).rvrUse = d.rvrUse := by
  simp only [startCommon, fset_rvrUse, finc_rvrUse]
@[simp] theorem startCommon_eph (d : Dev) (b : Blk) : (startCommon d b).eph = d.eph := by
  simp only [startCommon, fset_eph, finc_eph]
@[simp] theorem startCommon_ril (d : Dev) (b : Blk) : (startCommon d b).ril = d.ril := by
  simp only [startCommon, fset_ril, finc_ril]
@[simp] theorem startCommon_wei (d : Dev) (b : Blk) : (startCommon d b).wei = d.wei := by
  simp only [startCommon, fset_wei, finc_wei]
@[simp] theorem startCommon_aqd (d : Dev) (b : Blk) : (startCommon d b).aqd = d.aqd := by
  simp only [startCommon, fset_aqd, finc_aqd]
@[simp] theorem startCommon_drainAt (d : Dev) (b : Blk) : (startCommon d b).drainAt = d.drainAt := by
  simp only [startCommon, fset_drainAt, finc_drainAt]
@[simp] theorem startCommon_ports (d : Dev) (b : Blk) : (startCommon d b).ports = d.ports := by
  simp only [startCommon, fset_ports, finc_ports]
@[simp] theorem startCommon_mach (d : Dev) (b : Blk) : (startCommon d b).mach = d.mach := by
  simp only [startCommon, fset_mach, finc_mach]
@[simp] theorem startCommon_hst (d : Dev) (b : Blk) : (startCommon d b).hst = d.hst := by
  simp only [startCommon, fset_hst, finc_hst]
@[simp] theorem startCommon_ms (d : Dev) (b : Blk) : (startCommon d b).ms = d.ms := by
  simp only [startCommon, fset_ms, finc_ms]
@[simp] theorem startCommon_pwr (d : Dev) (b : Blk) : (startCommon d b).pwr = d.pwr := by
  simp only [startCommon, fset_pwr, finc_pwr]
@[simp] theorem startCommon_tst (d : Dev) (b : Blk) : (startCommon d b).tst = d.tst := by
  simp only [startCommon, fset_tst, finc_tst]
@[simp] theorem startCommon_mgt (d : Dev) (b : Blk) : (startCommon d b).mgt = d.mgt := by
  simp only [startCommon, fset_mgt, finc_mgt]

/-! #### drainedCommon -/
@[simp] theorem drainedCommon_now (d : Dev) (b : Blk) : (drainedCommon d b).now = d.now := by
  simp only [drainedCommon, fset_now]
@[simp] theorem drainedCommon_fresh (d : Dev) (b : Blk) : (drainedCommon d b).fresh = d.fresh := by
  simp only [drainedCommon, fset_fresh]
@[simp] theorem drainedCommon_sidPrev (d : Dev) (b : Blk) : (drainedCommon d b).sidPrev = d.sidPrev := by
  simp only [drainedCommon, fset_sidPrev]
@[simp] theorem drainedCommon_live (d : Dev) (b : Blk) : (drainedCommon d b).live = d.live := by
  simp only [drainedCommon, fset_live]
@[simp] theorem drainedCommon_roleLocked (d : Dev) (b : Blk) : (drainedCommon d b).roleLocked = d.roleLocked := by
  simp only [drainedCommon, fset_roleLocked]
@[simp] theorem drainedCommon_mem (d : Dev) (b : Blk) : (drainedCommon d b).mem = d.mem := by
  simp only [drainedCommon, fset_mem]
@[simp] theorem drainedCommon_nv (d : Dev) (b : Blk) : (drainedCommon d b).nv = d.nv := by
  simp only [drainedCommon, fset_nv]
@[simp] theorem drainedCommon_nvNext (d : Dev) (b : Blk) : (drainedCommon d b).nvNext = d.nvNext := by
  simp only [drainedCommon, fset_nvNext]
@[simp] theorem drainedCommon_pend (d : Dev) (b : Blk) : (drainedCommon d b).pend = d.pend := by
  simp only [drainedCommon, fset_pend]
@[simp] theorem drainedCommon_obs (d : Dev) (b : Blk) : (drainedCommon d b).obs = d.obs := by
  simp only [drainedCommon, fset_obs]
@[simp] theorem drainedCommon_seq (d : Dev) (b : Blk) : (drainedCommon d b).seq = d.seq := by
  simp only [drainedCommon, fset_seq]
@[simp] theorem drainedCommon_tables (d : Dev) (b : Blk) : (drainedCommon d b).tables = d.tables := by
  simp only [drainedCommon, fset_tables]
@[simp] theorem drainedCommon_cas (d : Dev) (b : Blk) : (drainedCommon d b).cas = d.cas := by
  simp only [drainedCommon, fset_cas]
@[simp] theorem drainedCommon_jet (d : Dev) (b : Blk) : (drainedCommon d b).jet = d.jet := by
  simp only [drainedCommon, fset_jet]
@[simp] theorem drainedCommon_ast (d : Dev) (b : Blk) : (drainedCommon d b).ast = d.ast := by
  simp only [drainedCommon, fset_ast]
@[simp] theorem drainedCommon_ephRes (d : Dev) (b : Blk) : (drainedCommon d b).ephRes = d.ephRes := by
  simp only [drainedCommon, fset_ephRes]
@[simp] theorem drainedCommon_rvrUse (d : Dev) (b : Blk) : (drainedCommon d b).rvrUse = d.rvrUse := by
  simp only [drainedCommon, fset_rvrUse]
@[simp] theorem drainedCommon_eph (d : Dev) (b : Blk) : (drainedCommon d b).eph = d.eph := by
  simp only [drainedCommon, fset_eph]
@[simp] theorem drainedCommon_ril (d : Dev) (b : Blk) : (drainedCommon d b).ril = d.ril := by
  simp only [drainedCommon, fset_ril]
@[simp] theorem drainedCommon_wei (d : Dev) (b : Blk) : (drainedCommon d b).wei = d.wei := by
  simp only [drainedCommon, fset_wei]
@[simp] theorem drainedCommon_aqd (d : Dev) (b : Blk) : (drainedCommon d b).aqd = d.aqd := by
  simp only [drainedCommon, fset_aqd]
@[simp] theorem drainedCommon_drainAt (d : Dev) (b : Blk) : (drainedCommon d b).drainAt = d.drainAt := by
  simp only [drainedCommon, fset_drainAt]
@[simp] theorem drainedCommon_ports (d : Dev) (b : Blk) : (drainedCommon d b).ports = d.ports := by
  simp only [drainedCommon, fset_ports]
@[simp] theorem drainedCommon_mach (d : Dev) (b : Blk) : (drainedCommon d b).mach = d.mach := by
  simp only [drainedCommon, fset_mach]
@[simp] theorem drainedCommon_hst (d : Dev) (b : Blk) : (drainedCommon d b).hst = d.hst := by
  simp only [drainedCommon, fset_hst]
@[simp] theorem drainedCommon_ms (d : Dev) (b : Blk) : (drainedCommon d b).ms = d.ms := by
  simp only [drainedCommon, fset_ms]
@[simp] theorem drainedCommon_pwr (d : Dev) (b : Blk) : (drainedCommon d b).pwr = d.pwr := by
  simp only [drainedCommon, fset_pwr]
@[simp] theorem drainedCommon_tst (d : Dev) (b : Blk) : (drainedCommon d b).tst = d.tst := by
  simp only [drainedCommon, fset_tst]
@[simp] theorem drainedCommon_mgt (d : Dev) (b : Blk) : (drainedCommon d b).mgt = d.mgt := by
  simp only [drainedCommon, fset_mgt]

/-! #### Fields that an update writes -/
@[simp] theorem hostWrite_hostMem (d : Dev) (a : Nat) (bs : List Byte) :
    (hostWrite d a bs).hst.hostMem = memWrite d.hst.hostMem a bs := rfl
@[simp] theorem setRingH_hostMem (d : Dev) (n : Nat) (r : RingH) : (setRingH d n r).hst.hostMem = d.hst.hostMem := rfl
@[simp] theorem drawn_fresh (d : Dev) : (drawn d).fresh = d.fresh + 1 := rfl
@[simp] theorem nextRseq_hostMem (d : Dev) : (nextRseq d).hst.hostMem = d.hst.hostMem := rfl
@[simp] theorem raiseAbort_abortStep (d : Dev) (k : Nat) : (raiseAbort d k).mach.abortStep = some k := rfl

end Sys2Proof.Machine
end

