-- ==== Sys2Proof/Laws/Regs.lean ====
section
/-! SUPPORT. What a register and a field of a register read as after a write of another or of the same. -/

namespace Sys2Proof.Machine

/-! ### Bit fields -/

theorem bits_lt (n hi lo : Nat) : bits n hi lo < 2 ^ (hi + 1 - lo) := Nat.mod_lt _ (by positivity)

theorem testBit_bits (n hi lo i : Nat) :
    (bits n hi lo).testBit i = (decide (i < hi + 1 - lo) && n.testBit (lo + i)) := by
  rw [bits, Nat.testBit_mod_two_pow, Nat.testBit_shiftRight]

/-- A number with its bits `hi:lo` cleared, as a sum of what is above and what is below them. -/
theorem clear_bits (n hi lo : Nat) (h : lo ≤ hi + 1) :
    n - (bits n hi lo) <<< lo = 2 ^ (hi + 1) * (n / 2 ^ (hi + 1)) + n % 2 ^ lo := by
  have h1 := Nat.div_add_mod n (2 ^ lo)
  have h2 := Nat.div_add_mod (n / 2 ^ lo) (2 ^ (hi + 1 - lo))
  rw [Nat.div_div_eq_div_mul, ← pow_add, show lo + (hi + 1 - lo) = hi + 1 by omega] at h2
  have h3 : 2 ^ (hi + 1) = 2 ^ lo * 2 ^ (hi + 1 - lo) := by rw [← pow_add]; congr 1; omega
  rw [bits, Nat.shiftRight_eq_div_pow, Nat.shiftLeft_eq]
  rw [← h2, Nat.mul_add, ← Nat.mul_assoc, ← h3] at h1
  rw [Nat.mul_comm _ (2 ^ lo)]
  omega

/-- Bit `i` of a number whose bits `hi:lo` were replaced. -/
theorem testBit_putBits (n hi lo v i : Nat) (h : lo ≤ hi + 1) :
    (putBits n hi lo v).testBit i
      = if lo ≤ i ∧ i ≤ hi then v.testBit (i - lo) else n.testBit i := by
  rw [putBits, clear_bits n hi lo h]
  have hv : v % 2 ^ (hi + 1 - lo) < 2 ^ (hi + 1 - lo) := Nat.mod_lt _ (by positivity)
  have hn : n % 2 ^ lo < 2 ^ lo := Nat.mod_lt _ (by positivity)
  have h3 : 2 ^ (hi + 1) = 2 ^ lo * 2 ^ (hi + 1 - lo) := by rw [← pow_add]; congr 1; omega
  have hlow : n % 2 ^ lo + (v % 2 ^ (hi + 1 - lo)) <<< lo < 2 ^ (hi + 1) := by
    rw [Nat.shiftLeft_eq, h3]
    have h4 := Nat.mul_le_mul_left (2 ^ lo) (Nat.succ_le_of_lt hv)
    rw [Nat.succ_eq_add_one, Nat.mul_add, Nat.mul_one, Nat.mul_comm (2 ^ lo) (v % 2 ^ (hi + 1 - lo))] at h4
    omega
  rw [Nat.add_assoc, Nat.testBit_two_pow_mul_add _ hlow]
  have hsum : n % 2 ^ lo + (v % 2 ^ (hi + 1 - lo)) <<< lo
      = 2 ^ lo * (v % 2 ^ (hi + 1 - lo)) + n % 2 ^ lo := by rw [Nat.shiftLeft_eq]; ring
  rw [hsum, Nat.testBit_two_pow_mul_add _ hn, Nat.testBit_mod_two_pow, Nat.testBit_mod_two_pow,
    Nat.testBit_div_two_pow]
  by_cases h1 : i < hi + 1
  · by_cases h2 : i < lo
    · rw [if_pos h1, if_pos h2, if_neg (by omega)]; simp [h2]
    · rw [if_pos h1, if_neg h2, if_pos (by omega)]
      have : i - lo < hi + 1 - lo := by omega
      simp [this]
  · rw [if_neg h1, if_neg (by omega)]
    congr 1; omega

/-- The bits just replaced read as the new value, modulo their width. -/
theorem bits_putBits_self (n hi lo v : Nat) (h : lo ≤ hi + 1) :
    bits (putBits n hi lo v) hi lo = v % 2 ^ (hi + 1 - lo) := by
  apply Nat.eq_of_testBit_eq
  intro i
  rw [testBit_bits, testBit_putBits _ _ _ _ _ h, Nat.testBit_mod_two_pow]
  by_cases h1 : i < hi + 1 - lo
  · rw [if_pos (by omega)]; simp [h1]
  · simp [h1]

/-- Bits that do not meet the replaced ones read as before. -/
theorem bits_putBits_ne (n hi lo v hi' lo' : Nat) (h : lo ≤ hi + 1) (hd : hi < lo' ∨ hi' < lo) :
    bits (putBits n hi lo v) hi' lo' = bits n hi' lo' := by
  apply Nat.eq_of_testBit_eq
  intro i
  rw [testBit_bits, testBit_bits, testBit_putBits _ _ _ _ _ h]
  by_cases h1 : i < hi' + 1 - lo'
  · rw [if_neg (by omega)]
  · simp [h1]

/-! ### Fields -/

/-- A field lies inside a register. -/
def Fld.ok (f : Fld) : Bool := decide (f.lo ≤ f.hi) && decide (f.hi < 64)

/-- Two fields do not meet. -/
def Fld.apart (f g : Fld) : Bool := decide (f.hi < g.lo) || decide (g.hi < f.lo)

theorem bits_mod_64 (n hi lo : Nat) (h : hi < 64) : bits (n % 2 ^ 64) hi lo = bits n hi lo := by
  apply Nat.eq_of_testBit_eq
  intro i
  rw [testBit_bits, testBit_bits, Nat.testBit_mod_two_pow]
  by_cases h1 : i < hi + 1 - lo
  · simp [h1]; intro; omega
  · simp [h1]

theorem Fld.of_put_self (f : Fld) (w : W64) (v : Nat) (hf : f.ok = true) :
    f.of (f.put w v) = v % 2 ^ (f.hi + 1 - f.lo) := by
  simp only [Fld.ok, Bool.and_eq_true, decide_eq_true_eq] at hf
  rw [Fld.of, Fld.put, BitVec.toNat_ofNat, bits_mod_64 _ _ _ hf.2, bits_putBits_self _ _ _ _ (by omega)]

theorem Fld.of_put_ne (f g : Fld) (w : W64) (v : Nat) (hf : f.ok = true) (hg : g.ok = true)
    (h : f.apart g = true) : g.of (f.put w v) = g.of w := by
  simp only [Fld.ok, Fld.apart, Bool.and_eq_true, Bool.or_eq_true, decide_eq_true_eq] at hf hg h
  rw [Fld.of, Fld.of, Fld.put, BitVec.toNat_ofNat, bits_mod_64 _ _ _ hg.2, bits_putBits_ne _ _ _ _ _ _ (by omega) h]

/-! ### Registers -/

theorem regGet_regSet (d : Dev) (a b : Nat) (v : W64) :
    regGet (regSet d a v) b = if b = a then v else regGet d b := by
  unfold regGet regSet
  by_cases h : b = a
  · subst h; simp
  · simp only [h, if_false]; exact sget_sset_ne' _ _ h v d.regs

@[simp] theorem regGet_regSet_self (d : Dev) (a : Nat) (v : W64) : regGet (regSet d a v) a = v := by
  simp [regGet_regSet]

theorem regGet_regSet_ne (d : Dev) {a b : Nat} (h : b ≠ a) (v : W64) : regGet (regSet d a v) b = regGet d b := by
  simp [regGet_regSet, h]

/-- Registers other than the one a field is written in read as before. -/
theorem regGet_fset_ne (d : Dev) {a b : Nat} (h : b ≠ a) (f : Fld) (v : Nat) :
    regGet (fset d a f v) b = regGet d b := regGet_regSet_ne d h _

theorem fget_fset_self (d : Dev) (a : Nat) (f : Fld) (v : Nat) (hf : f.ok = true) :
    fget (fset d a f v) a f = v % 2 ^ (f.hi + 1 - f.lo) := by
  rw [fget, fset, regGet_regSet_self, Fld.of_put_self _ _ _ hf]

/-- A field of another register reads as before. -/
theorem fget_fset_ne (d : Dev) {a b : Nat} (h : b ≠ a) (f g : Fld) (v : Nat) :
    fget (fset d a f v) b g = fget d b g := by
  rw [fget, fget, regGet_fset_ne d h]

/-- A field that does not meet the written one reads as before, in any register. -/
theorem fget_fset_apart (d : Dev) (a b : Nat) (f g : Fld) (v : Nat) (hf : f.ok = true) (hg : g.ok = true)
    (h : f.apart g = true) : fget (fset d a f v) b g = fget d b g := by
  by_cases hb : b = a
  · subst hb; rw [fget, fget, fset, regGet_regSet_self, Fld.of_put_ne _ _ _ _ hf hg h]
  · exact fget_fset_ne d hb f g v

theorem fget_regSet_self (d : Dev) (a : Nat) (v : W64) (f : Fld) : fget (regSet d a v) a f = f.of v := by
  rw [fget, regGet_regSet_self]

theorem fget_regSet_ne (d : Dev) {a b : Nat} (h : b ≠ a) (v : W64) (f : Fld) :
    fget (regSet d a v) b f = fget d b f := by rw [fget, fget, regGet_regSet_ne d h]

/-- Reading registers depends on the registers alone. -/
theorem regGet_congr {d e : Dev} (h : e.regs = d.regs) (a : Nat) : regGet e a = regGet d a := by
  rw [regGet, regGet, h]

theorem fget_congr {d e : Dev} (h : e.regs = d.regs) (a : Nat) (f : Fld) : fget e a f = fget d a f := by
  rw [fget, fget, regGet_congr h]

end Sys2Proof.Machine
end

