-- ==== Sys2Proof/Laws/Frames.lean ====
section
/-! SUPPORT. Everything that counting, posting, raising and the passing of time can do, said once: which fields they
write and which registers they leave alone. -/

namespace Sys2Proof.Machine

/-! ### The vocabulary -/

theorem keepsRegs.refl (p : Nat → Bool) (d : Dev) : keepsRegs p d d := fun _ _ => rfl

theorem keepsRegs.trans {p : Nat → Bool} {d e f : Dev} (h : keepsRegs p d e) (g : keepsRegs p e f) :
    keepsRegs p d f := fun a ha => (g a ha).trans (h a ha)

theorem keepsRegs.weaken {p q : Nat → Bool} {d e : Dev} (h : keepsRegs p d e) (hpq : ∀ a, q a = false → p a = false) :
    keepsRegs q d e := fun a ha => h a (hpq a ha)

theorem keepsRegs_of_regs {p : Nat → Bool} {d e : Dev} (h : e.regs = d.regs) : keepsRegs p d e :=
  fun a _ => regGet_congr h a

theorem keepsRegs_regSet {p : Nat → Bool} (d : Dev) (a : Nat) (v : W64) (h : p a = true) :
    keepsRegs p d (regSet d a v) := fun b hb => regGet_regSet_ne d (fun e => by simp_all) v

theorem keepsRegs_fset {p : Nat → Bool} (d : Dev) (a : Nat) (f : Fld) (v : Nat) (h : p a = true) :
    keepsRegs p d (fset d a f v) := keepsRegs_regSet d a _ h

/-- A frame over registers says that every field of a register outside it reads as before. -/
theorem keepsRegs.fget {p : Nat → Bool} {d e : Dev} (h : keepsRegs p d e) {a : Nat} (ha : p a = false) (f : Fld) :
    Machine.fget e a f = Machine.fget d a f := by rw [Machine.fget, Machine.fget, h a ha]

theorem fget_lt (d : Dev) (a : Nat) (f : Fld) : fget d a f < 2 ^ (f.hi + 1 - f.lo) := bits_lt _ _ _

/-! ### What each operation writes -/

/-- `e` is `d` with other registers, and of those only such as `p` marks. -/
def OnlyRegs (p : Nat → Bool) (d e : Dev) : Prop := (∃ r, e = { d with regs := r }) ∧ keepsRegs p d e

/-- `e` is `d` with another host interface and other registers, and of those only such as `p` marks. -/
def OnlyHst (p : Nat → Bool) (d e : Dev) : Prop := (∃ r h, e = { d with regs := r, hst := h }) ∧ keepsRegs p d e

theorem OnlyRegs.refl (p : Nat → Bool) (d : Dev) : OnlyRegs p d d := ⟨⟨d.regs, rfl⟩, keepsRegs.refl p d⟩

theorem OnlyRegs.trans {p : Nat → Bool} {d e f : Dev} (h : OnlyRegs p d e) (g : OnlyRegs p e f) : OnlyRegs p d f := by
  obtain ⟨⟨r, rfl⟩, h⟩ := h
  obtain ⟨⟨r', rfl⟩, g⟩ := g
  exact ⟨⟨r', rfl⟩, h.trans g⟩

theorem OnlyRegs.weaken {p q : Nat → Bool} {d e : Dev} (h : OnlyRegs p d e) (hpq : ∀ a, q a = false → p a = false) :
    OnlyRegs q d e := ⟨h.1, h.2.weaken hpq⟩

theorem OnlyRegs.hst {p : Nat → Bool} {d e : Dev} (h : OnlyRegs p d e) : OnlyHst p d e := by
  obtain ⟨⟨r, rfl⟩, h⟩ := h
  exact ⟨⟨r, d.hst, rfl⟩, h⟩

theorem OnlyHst.refl (p : Nat → Bool) (d : Dev) : OnlyHst p d d := (OnlyRegs.refl p d).hst

theorem OnlyHst.trans {p : Nat → Bool} {d e f : Dev} (h : OnlyHst p d e) (g : OnlyHst p e f) : OnlyHst p d f := by
  obtain ⟨⟨r, x, rfl⟩, h⟩ := h
  obtain ⟨⟨r', x', rfl⟩, g⟩ := g
  exact ⟨⟨r', x', rfl⟩, h.trans g⟩

theorem onlyRegs_regSet {p : Nat → Bool} (d : Dev) (a : Nat) (v : W64) (h : p a = true) : OnlyRegs p d (regSet d a v) :=
  ⟨⟨_, rfl⟩, keepsRegs_regSet d a v h⟩

theorem onlyRegs_fset {p : Nat → Bool} (d : Dev) (a : Nat) (f : Fld) (v : Nat) (h : p a = true) :
    OnlyRegs p d (fset d a f v) := onlyRegs_regSet d a _ h

theorem onlyRegs_finc {p : Nat → Bool} (d : Dev) (a : Nat) (f : Fld) (k : Nat) (h : p a = true) :
    OnlyRegs p d (finc d a f k) := onlyRegs_fset d a f _ h

theorem onlyHst_hst {p : Nat → Bool} (d : Dev) (h : Hst) : OnlyHst p d { d with hst := h } :=
  ⟨⟨d.regs, h, rfl⟩, keepsRegs_of_regs rfl⟩

theorem onlyHst_setRingH {p : Nat → Bool} (d : Dev) (n : Nat) (r : RingH) : OnlyHst p d (setRingH d n r) :=
  onlyHst_hst d _

theorem onlyHst_hostWrite {p : Nat → Bool} (d : Dev) (a : Nat) (bs : List Byte) : OnlyHst p d (hostWrite d a bs) :=
  onlyHst_hst d _

/-- The addresses a list names, as a proposition. -/
@[simp] theorem these_iff (as : List Nat) (a : Nat) : these as a = true ↔ a ∈ as := by simp [these]

theorem isCounter_iff (a : Nat) : isCounter a = true ↔
    (0x1900400 ≤ a ∧ a < 0x1900600) ∨ (0x2900400 ≤ a ∧ a < 0x2900600) ∨ (0x8400 ≤ a ∧ a < 0x8600) := by
  simp [isCounter, A.CNT_CTL, A.GCNT_CTL]

theorem isReport_iff (a : Nat) : isReport a = true ↔
    isCounter a = true ∨ (a = 0x18 ∨ a = 0x100000 ∨ a = 0x100018) ∨ (0x40 ≤ a ∧ a < 0x80) ∨
      (0x110000 ≤ a ∧ a < 0x114000 ∧ (a % 0x40 = 0x20 ∨ a % 0x40 = 0x28)) := by
  simp [isReport, A.GLB_ERRSUM, A.HST_STS, A.HST_OVF, or_assoc, and_assoc]

/-! ### Counting -/

theorem selectedCounters_lt {d : Dev} {base n k : Nat} (h : k ∈ selectedCounters d base n) : k < n := by
  simp only [selectedCounters, List.mem_map, List.mem_filter, Bool.and_eq_true, decide_eq_true_eq] at h
  obtain ⟨e, ⟨_, h1, h2⟩, rfl⟩ := h
  omega

theorem onlyRegs_foldl {p : Nat → Bool} {β : Type} (g : Dev → β → Dev) (l : List β)
    (hg : ∀ d b, b ∈ l → OnlyRegs p d (g d b)) (d : Dev) : OnlyRegs p d (l.foldl g d) := by
  induction l generalizing d with
  | nil => exact OnlyRegs.refl p d
  | cons b r ih =>
    exact (hg d b (by simp)).trans (ih (fun d c hc => hg d c (by simp [hc])) _)

theorem onlyHst_foldl {p : Nat → Bool} {β : Type} (g : Dev → β → Dev) (l : List β)
    (hg : ∀ d b, b ∈ l → OnlyHst p d (g d b)) (d : Dev) : OnlyHst p d (l.foldl g d) := by
  induction l generalizing d with
  | nil => exact OnlyHst.refl p d
  | cons b r ih =>
    exact (hg d b (by simp)).trans (ih (fun d c hc => hg d c (by simp [hc])) _)

theorem onlyRegs_countIn {p : Nat → Bool} (src inst k : Nat) (single : Bool) (base n : Nat) (d : Dev)
    (h : p (base + 0x400 + 8 * n) = true) : OnlyRegs p d (countIn src inst k single base n d) := by
  simp only [countIn]
  split
  · exact OnlyRegs.refl _ _
  · split
    · exact onlyRegs_finc _ _ _ _ h
    · exact OnlyRegs.refl _ _

/-- Counting an event moves counter values and nothing else (R364). -/
theorem onlyRegs_count (d : Dev) (h src inst k : Nat) (single : Bool) (hh : h < 2) :
    OnlyRegs isCounter d (count d h src inst k single) := by
  refine onlyRegs_foldl _ _ (fun e n hn => onlyRegs_countIn _ _ _ _ _ _ _ ?_) d
  have := selectedCounters_lt hn
  obtain rfl | rfl : h = 0 ∨ h = 1 := by omega
  all_goals rw [isCounter_iff]; simp only [A.CNT_CTL]; omega

theorem onlyRegs_countPkg (d : Dev) (src inst k : Nat) (single : Bool) :
    OnlyRegs isCounter d (countPkg d src inst k single) := by
  refine onlyRegs_foldl _ _ (fun e n hn => onlyRegs_countIn _ _ _ _ _ _ _ ?_) d
  have := selectedCounters_lt hn
  rw [isCounter_iff]; simp only [A.GCNT_CTL]; omega

theorem onlyRegs_countBoth (d : Dev) (src k : Nat) : OnlyRegs isCounter d (countBoth d src k) :=
  (onlyRegs_count _ _ _ _ _ _ (by omega)).trans (onlyRegs_count _ _ _ _ _ _ (by omega))

theorem onlyRegs_countStarved (d old : Dev) (n : Nat) : OnlyRegs isCounter d (countStarved d old n) :=
  onlyRegs_foldl _ _ (fun _ _ _ => onlyRegs_countPkg _ _ _ _ _) d

theorem isReport_of_isCounter {a : Nat} (h : isReport a = false) : isCounter a = false := by
  by_contra hc
  rw [(isReport_iff a).2 (.inl (by simpa using hc))] at h
  cases h

/-! ### Posting (R564 to R569) -/

theorem onlyHst_msixSend (d : Dev) (vec : Nat) : OnlyHst isReport d (msixSend d vec) :=
  (onlyHst_hst d _).trans ((onlyRegs_countPkg _ _ _ _ _).weaken fun _ => isReport_of_isCounter).hst

theorem isReport_ridx {n : Nat} (h : n < 256) : isReport (A.HST_RIDX n) = true := by
  rw [isReport_iff, A.HST_RIDX]; omega

theorem isReport_rsts {n : Nat} (h : n < 256) : isReport (A.HST_RSTS n) = true := by
  rw [isReport_iff, A.HST_RSTS]; omega

theorem onlyHst_ringPut (d : Dev) (n : Nat) (r : Record) (h : n < 256) : OnlyHst isReport d (ringPut d n r) := by
  simp only [ringPut]
  have h1 := @onlyHst_hostWrite isReport
  have h2 := @onlyHst_setRingH isReport
  have h3 : ∀ d, OnlyHst isReport d (countPkg d 0xE03 0 1 true) :=
    fun d => ((onlyRegs_countPkg d _ _ _ _).weaken fun _ => isReport_of_isCounter).hst
  have h4 : ∀ d k, OnlyHst isReport d (finc d (A.HST_RIDX n) F.HST_RIDX_DEVIDX k) :=
    fun d k => (onlyRegs_finc d _ _ _ (isReport_ridx h)).hst
  split
  · exact ((((h1 _ _ _).trans (h4 _ _)).trans (h1 _ _ _)).trans (h3 _)).trans ((h2 _ _ _).trans (onlyHst_msixSend _ _))
  · exact ((((h1 _ _ _).trans (h4 _ _)).trans (h1 _ _ _)).trans (h3 _)).trans (h2 _ _ _)

theorem onlyHst_setOvf (d : Dev) (l : List (Nat × Record)) : OnlyHst isReport d (setOvf d l) :=
  (onlyHst_hst d _).trans (onlyRegs_fset _ _ _ _ (by decide)).hst

theorem onlyHst_deliver (d : Dev) (n : Nat) (r : Record) (h : n < 256) : OnlyHst isReport d (deliver d n r).1 := by
  simp only [deliver]
  split
  · exact onlyHst_ringPut d n r h
  · split
    · exact onlyHst_setOvf d _
    · dsimp only
      refine OnlyHst.trans ?_ ((onlyRegs_countPkg _ _ _ _ _).weaken fun _ => isReport_of_isCounter).hst
      refine OnlyHst.trans ?_ (onlyHst_setRingH _ _ _)
      exact (onlyRegs_finc d A.HST_OVF F.HST_OVF_DROPPED 1 (by decide)).hst

theorem onlyHst_hstNote (d : Dev) (number ring : Nat) : OnlyHst isReport d (hstNote d number ring) :=
  (((onlyRegs_fset d _ _ _ (by decide)).trans (onlyRegs_fset _ _ _ _ (by decide))).trans
    (onlyRegs_fset _ _ _ _ (isReport_rsts (Nat.mod_lt _ (by decide))))).hst

theorem routeOf_lt (d : Dev) (stat : Bool) (sev : Nat) : routeOf d stat sev < 256 := by
  unfold routeOf
  split
  · exact fget_lt _ _ F.HST_EVROUTE_STAT
  · split
    · exact fget_lt _ _ F.HST_EVROUTE_INFO
    · exact fget_lt _ _ F.HST_EVROUTE_CORR
    · exact fget_lt _ _ F.HST_EVROUTE_STEP
    · exact fget_lt _ _ F.HST_EVROUTE_CHIP
    · exact fget_lt _ _ F.HST_EVROUTE_PKG

theorem onlyHst_nextRseq (d : Dev) : OnlyHst isReport d (nextRseq d) := onlyHst_hst d _

theorem onlyHst_reportDrops (d : Dev) : OnlyHst isReport d (reportDrops d) := by
  simp only [reportDrops]
  split
  · split
    · exact ((((onlyHst_nextRseq d).trans (onlyRegs_fset _ _ _ _ (by decide)).hst).trans (onlyHst_hst _ _)).trans
        (onlyHst_hstNote _ _ _)).trans (onlyHst_deliver _ _ _ (routeOf_lt _ _ _))
    · exact OnlyHst.refl _ _
  · exact OnlyHst.refl _ _

theorem chunks_length_le {β : Type} (k n : Nat) (l : List β) : (chunks k n l).length ≤ n := by
  induction n generalizing l with
  | zero => simp [chunks]
  | succ n ih => simp [chunks, ih]

theorem onlyHst_sumRecord (d : Dev) (r : Record) : OnlyHst isReport d (sumRecord d r) := by
  simp only [sumRecord]
  have h1 : OnlyHst isReport d (fset d A.GLB_ERRSUM F.GLB_ERRSUM_SEV (fget d A.GLB_ERRSUM F.GLB_ERRSUM_SEV ||| 2 ^ r.sev)) :=
    (onlyRegs_fset _ _ _ _ (by decide)).hst
  split
  · have h2 : ∀ d, OnlyHst isReport d
        (((chunks 8 8 (recordBytes r 0 0)).zipIdx).foldl
          (fun d p => regSet d (A.GLB_FATAL p.2) (BitVec.ofNat 64 (leNat p.1))) d) := by
      intro d
      refine (onlyRegs_foldl _ _ (fun e b hb => onlyRegs_regSet _ _ _ ?_) d).hst
      have h3 := List.snd_lt_of_mem_zipIdx hb
      have h4 := chunks_length_le 8 8 (recordBytes r 0 0)
      rw [isReport_iff, A.GLB_FATAL]; omega
    split
    · refine OnlyHst.trans ?_ (onlyHst_hst _ _)
      refine OnlyHst.trans ?_ (onlyHst_hst _ _)
      exact h1.trans (h2 _)
    · refine OnlyHst.trans ?_ (onlyHst_hst _ _)
      exact h1.trans (h2 _)
  · exact h1

/-- Posting a record writes the host interface and reporting registers, and nothing else. -/
theorem onlyHst_post (d : Dev) (number sev src : Nat) (payload : List Nat) :
    OnlyHst isReport d (post d number sev src payload) := by
  simp only [post]
  have h := ((onlyHst_nextRseq d).trans (onlyHst_sumRecord _ (mkRecord d number sev false src payload))).trans
    (onlyHst_deliver _ (routeOf d false sev) (mkRecord d number sev false src payload) (routeOf_lt _ _ _))
  split
  · exact h.trans (onlyHst_reportDrops _)
  · exact (h.trans (onlyHst_hst _ _)).trans (onlyHst_reportDrops _)

theorem onlyHst_postStat (d : Dev) (number src : Nat) (payload : List Nat) :
    OnlyHst isReport d (postStat d number src payload) := by
  simp only [postStat]
  split
  · exact (onlyHst_nextRseq d).trans (onlyHst_ringPut _ _ _ (routeOf_lt _ _ _))
  · exact (onlyHst_nextRseq d).trans (onlyHst_hst _ _)

end Sys2Proof.Machine
end

