-- ==== Sys2Proof/Laws/Fields.lean ====
section
/-! SUPPORT. The fields that counting, posting, raising and the passing of time leave alone, one lemma per field. -/

namespace Sys2Proof.Machine

theorem OnlyRegs.eq {p : Nat → Bool} {d e : Dev} (h : OnlyRegs p d e) : e = d.withRegs e.regs := by
  obtain ⟨⟨r, rfl⟩, -⟩ := h; rfl

theorem OnlyHst.eq {p : Nat → Bool} {d e : Dev} (h : OnlyHst p d e) : e = (d.withRegs e.regs).withHst e.hst := by
  obtain ⟨⟨r, x, rfl⟩, -⟩ := h; rfl

theorem onlyRegs_count' (d : Dev) (h src inst k : Nat) (single : Bool) :
    OnlyRegs (fun _ => true) d (count d h src inst k single) :=
  onlyRegs_foldl _ _ (fun _ _ _ => onlyRegs_countIn _ _ _ _ _ _ _ rfl) d

/-! #### count -/
@[simp] theorem count_now (d : Dev) (h src inst k : Nat) (single : Bool) : (count d h src inst k single).now = d.now := by
  rw [(onlyRegs_count' d h src inst k single).eq]; simp only [withRegs_now]
@[simp] theorem count_fresh (d : Dev) (h src inst k : Nat) (single : Bool) : (count d h src inst k single).fresh = d.fresh := by
  rw [(onlyRegs_count' d h src inst k single).eq]; simp only [withRegs_fresh]
@[simp] theorem count_sidPrev (d : Dev) (h src inst k : Nat) (single : Bool) : (count d h src inst k single).sidPrev = d.sidPrev := by
  rw [(onlyRegs_count' d h src inst k single).eq]; simp only [withRegs_sidPrev]
@[simp] theorem count_live (d : Dev) (h src inst k : Nat) (single : Bool) : (count d h src inst k single).live = d.live := by
  rw [(onlyRegs_count' d h src inst k single).eq]; simp only [withRegs_live]
@[simp] theorem count_roleLocked (d : Dev) (h src inst k : Nat) (single : Bool) : (count d h src inst k single).roleLocked = d.roleLocked := by
  rw [(onlyRegs_count' d h src inst k single).eq]; simp only [withRegs_roleLocked]
@[simp] theorem count_mem (d : Dev) (h src inst k : Nat) (single : Bool) : (count d h src inst k single).mem = d.mem := by
  rw [(onlyRegs_count' d h src inst k single).eq]; simp only [withRegs_mem]
@[simp] theorem count_nv (d : Dev) (h src inst k : Nat) (single : Bool) : (count d h src inst k single).nv = d.nv := by
  rw [(onlyRegs_count' d h src inst k single).eq]; simp only [withRegs_nv]
@[simp] theorem count_nvNext (d : Dev) (h src inst k : Nat) (single : Bool) : (count d h src inst k single).nvNext = d.nvNext := by
  rw [(onlyRegs_count' d h src inst k single).eq]; simp only [withRegs_nvNext]
@[simp] theorem count_pend (d : Dev) (h src inst k : Nat) (single : Bool) : (count d h src inst k single).pend = d.pend := by
  rw [(onlyRegs_count' d h src inst k single).eq]; simp only [withRegs_pend]
@[simp] theorem count_obs (d : Dev) (h src inst k : Nat) (single : Bool) : (count d h src inst k single).obs = d.obs := by
  rw [(onlyRegs_count' d h src inst k single).eq]; simp only [withRegs_obs]
@[simp] theorem count_seq (d : Dev) (h src inst k : Nat) (single : Bool) : (count d h src inst k single).seq = d.seq := by
  rw [(onlyRegs_count' d h src inst k single).eq]; simp only [withRegs_seq]
@[simp] theorem count_tables (d : Dev) (h src inst k : Nat) (single : Bool) : (count d h src inst k single).tables = d.tables := by
  rw [(onlyRegs_count' d h src inst k single).eq]; simp only [withRegs_tables]
@[simp] theorem count_cas (d : Dev) (h src inst k : Nat) (single : Bool) : (count d h src inst k single).cas = d.cas := by
  rw [(onlyRegs_count' d h src inst k single).eq]; simp only [withRegs_cas]
@[simp] theorem count_jet (d : Dev) (h src inst k : Nat) (single : Bool) : (count d h src inst k single).jet = d.jet := by
  rw [(onlyRegs_count' d h src inst k single).eq]; simp only [withRegs_jet]
@[simp] theorem count_ast (d : Dev) (h src inst k : Nat) (single : Bool) : (count d h src inst k single).ast = d.ast := by
  rw [(onlyRegs_count' d h src inst k single).eq]; simp only [withRegs_ast]
@[simp] theorem count_ephRes (d : Dev) (h src inst k : Nat) (single : Bool) : (count d h src inst k single).ephRes = d.ephRes := by
  rw [(onlyRegs_count' d h src inst k single).eq]; simp only [withRegs_ephRes]
@[simp] theorem count_rvrUse (d : Dev) (h src inst k : Nat) (single : Bool) : (count d h src inst k single).rvrUse = d.rvrUse := by
  rw [(onlyRegs_count' d h src inst k single).eq]; simp only [withRegs_rvrUse]
@[simp] theorem count_eph (d : Dev) (h src inst k : Nat) (single : Bool) : (count d h src inst k single).eph = d.eph := by
  rw [(onlyRegs_count' d h src inst k single).eq]; simp only [withRegs_eph]
@[simp] theorem count_ril (d : Dev) (h src inst k : Nat) (single : Bool) : (count d h src inst k single).ril = d.ril := by
  rw [(onlyRegs_count' d h src inst k single).eq]; simp only [withRegs_ril]
@[simp] theorem count_wei (d : Dev) (h src inst k : Nat) (single : Bool) : (count d h src inst k single).wei = d.wei := by
  rw [(onlyRegs_count' d h src inst k single).eq]; simp only [withRegs_wei]
@[simp] theorem count_aqd (d : Dev) (h src inst k : Nat) (single : Bool) : (count d h src inst k single).aqd = d.aqd := by
  rw [(onlyRegs_count' d h src inst k single).eq]; simp only [withRegs_aqd]
@[simp] theorem count_drainAt (d : Dev) (h src inst k : Nat) (single : Bool) : (count d h src inst k single).drainAt = d.drainAt := by
  rw [(onlyRegs_count' d h src inst k single).eq]; simp only [withRegs_drainAt]
@[simp] theorem count_ports (d : Dev) (h src inst k : Nat) (single : Bool) : (count d h src inst k single).ports = d.ports := by
  rw [(onlyRegs_count' d h src inst k single).eq]; simp only [withRegs_ports]
@[simp] theorem count_mach (d : Dev) (h src inst k : Nat) (single : Bool) : (count d h src inst k single).mach = d.mach := by
  rw [(onlyRegs_count' d h src inst k single).eq]; simp only [withRegs_mach]
@[simp] theorem count_hst (d : Dev) (h src inst k : Nat) (single : Bool) : (count d h src inst k single).hst = d.hst := by
  rw [(onlyRegs_count' d h src inst k single).eq]; simp only [withRegs_hst]
@[simp] theorem count_ms (d : Dev) (h src inst k : Nat) (single : Bool) : (count d h src inst k single).ms = d.ms := by
  rw [(onlyRegs_count' d h src inst k single).eq]; simp only [withRegs_ms]
@[simp] theorem count_pwr (d : Dev) (h src inst k : Nat) (single : Bool) : (count d h src inst k single).pwr = d.pwr := by
  rw [(onlyRegs_count' d h src inst k single).eq]; simp only [withRegs_pwr]
@[simp] theorem count_tst (d : Dev) (h src inst k : Nat) (single : Bool) : (count d h src inst k single).tst = d.tst := by
  rw [(onlyRegs_count' d h src inst k single).eq]; simp only [withRegs_tst]
@[simp] theorem count_mgt (d : Dev) (h src inst k : Nat) (single : Bool) : (count d h src inst k single).mgt = d.mgt := by
  rw [(onlyRegs_count' d h src inst k single).eq]; simp only [withRegs_mgt]

/-! #### countPkg -/
@[simp] theorem countPkg_now (d : Dev) (src inst k : Nat) (single : Bool) : (countPkg d src inst k single).now = d.now := by
  rw [(onlyRegs_countPkg d src inst k single).eq]; simp only [withRegs_now]
@[simp] theorem countPkg_fresh (d : Dev) (src inst k : Nat) (single : Bool) : (countPkg d src inst k single).fresh = d.fresh := by
  rw [(onlyRegs_countPkg d src inst k single).eq]; simp only [withRegs_fresh]
@[simp] theorem countPkg_sidPrev (d : Dev) (src inst k : Nat) (single : Bool) : (countPkg d src inst k single).sidPrev = d.sidPrev := by
  rw [(onlyRegs_countPkg d src inst k single).eq]; simp only [withRegs_sidPrev]
@[simp] theorem countPkg_live (d : Dev) (src inst k : Nat) (single : Bool) : (countPkg d src inst k single).live = d.live := by
  rw [(onlyRegs_countPkg d src inst k single).eq]; simp only [withRegs_live]
@[simp] theorem countPkg_roleLocked (d : Dev) (src inst k : Nat) (single : Bool) : (countPkg d src inst k single).roleLocked = d.roleLocked := by
  rw [(onlyRegs_countPkg d src inst k single).eq]; simp only [withRegs_roleLocked]
@[simp] theorem countPkg_mem (d : Dev) (src inst k : Nat) (single : Bool) : (countPkg d src inst k single).mem = d.mem := by
  rw [(onlyRegs_countPkg d src inst k single).eq]; simp only [withRegs_mem]
@[simp] theorem countPkg_nv (d : Dev) (src inst k : Nat) (single : Bool) : (countPkg d src inst k single).nv = d.nv := by
  rw [(onlyRegs_countPkg d src inst k single).eq]; simp only [withRegs_nv]
@[simp] theorem countPkg_nvNext (d : Dev) (src inst k : Nat) (single : Bool) : (countPkg d src inst k single).nvNext = d.nvNext := by
  rw [(onlyRegs_countPkg d src inst k single).eq]; simp only [withRegs_nvNext]
@[simp] theorem countPkg_pend (d : Dev) (src inst k : Nat) (single : Bool) : (countPkg d src inst k single).pend = d.pend := by
  rw [(onlyRegs_countPkg d src inst k single).eq]; simp only [withRegs_pend]
@[simp] theorem countPkg_obs (d : Dev) (src inst k : Nat) (single : Bool) : (countPkg d src inst k single).obs = d.obs := by
  rw [(onlyRegs_countPkg d src inst k single).eq]; simp only [withRegs_obs]
@[simp] theorem countPkg_seq (d : Dev) (src inst k : Nat) (single : Bool) : (countPkg d src inst k single).seq = d.seq := by
  rw [(onlyRegs_countPkg d src inst k single).eq]; simp only [withRegs_seq]
@[simp] theorem countPkg_tables (d : Dev) (src inst k : Nat) (single : Bool) : (countPkg d src inst k single).tables = d.tables := by
  rw [(onlyRegs_countPkg d src inst k single).eq]; simp only [withRegs_tables]
@[simp] theorem countPkg_cas (d : Dev) (src inst k : Nat) (single : Bool) : (countPkg d src inst k single).cas = d.cas := by
  rw [(onlyRegs_countPkg d src inst k single).eq]; simp only [withRegs_cas]
@[simp] theorem countPkg_jet (d : Dev) (src inst k : Nat) (single : Bool) : (countPkg d src inst k single).jet = d.jet := by
  rw [(onlyRegs_countPkg d src inst k single).eq]; simp only [withRegs_jet]
@[simp] theorem countPkg_ast (d : Dev) (src inst k : Nat) (single : Bool) : (countPkg d src inst k single).ast = d.ast := by
  rw [(onlyRegs_countPkg d src inst k single).eq]; simp only [withRegs_ast]
@[simp] theorem countPkg_ephRes (d : Dev) (src inst k : Nat) (single : Bool) : (countPkg d src inst k single).ephRes = d.ephRes := by
  rw [(onlyRegs_countPkg d src inst k single).eq]; simp only [withRegs_ephRes]
@[simp] theorem countPkg_rvrUse (d : Dev) (src inst k : Nat) (single : Bool) : (countPkg d src inst k single).rvrUse = d.rvrUse := by
  rw [(onlyRegs_countPkg d src inst k single).eq]; simp only [withRegs_rvrUse]
@[simp] theorem countPkg_eph (d : Dev) (src inst k : Nat) (single : Bool) : (countPkg d src inst k single).eph = d.eph := by
  rw [(onlyRegs_countPkg d src inst k single).eq]; simp only [withRegs_eph]
@[simp] theorem countPkg_ril (d : Dev) (src inst k : Nat) (single : Bool) : (countPkg d src inst k single).ril = d.ril := by
  rw [(onlyRegs_countPkg d src inst k single).eq]; simp only [withRegs_ril]
@[simp] theorem countPkg_wei (d : Dev) (src inst k : Nat) (single : Bool) : (countPkg d src inst k single).wei = d.wei := by
  rw [(onlyRegs_countPkg d src inst k single).eq]; simp only [withRegs_wei]
@[simp] theorem countPkg_aqd (d : Dev) (src inst k : Nat) (single : Bool) : (countPkg d src inst k single).aqd = d.aqd := by
  rw [(onlyRegs_countPkg d src inst k single).eq]; simp only [withRegs_aqd]
@[simp] theorem countPkg_drainAt (d : Dev) (src inst k : Nat) (single : Bool) : (countPkg d src inst k single).drainAt = d.drainAt := by
  rw [(onlyRegs_countPkg d src inst k single).eq]; simp only [withRegs_drainAt]
@[simp] theorem countPkg_ports (d : Dev) (src inst k : Nat) (single : Bool) : (countPkg d src inst k single).ports = d.ports := by
  rw [(onlyRegs_countPkg d src inst k single).eq]; simp only [withRegs_ports]
@[simp] theorem countPkg_mach (d : Dev) (src inst k : Nat) (single : Bool) : (countPkg d src inst k single).mach = d.mach := by
  rw [(onlyRegs_countPkg d src inst k single).eq]; simp only [withRegs_mach]
@[simp] theorem countPkg_hst (d : Dev) (src inst k : Nat) (single : Bool) : (countPkg d src inst k single).hst = d.hst := by
  rw [(onlyRegs_countPkg d src inst k single).eq]; simp only [withRegs_hst]
@[simp] theorem countPkg_ms (d : Dev) (src inst k : Nat) (single : Bool) : (countPkg d src inst k single).ms = d.ms := by
  rw [(onlyRegs_countPkg d src inst k single).eq]; simp only [withRegs_ms]
@[simp] theorem countPkg_pwr (d : Dev) (src inst k : Nat) (single : Bool) : (countPkg d src inst k single).pwr = d.pwr := by
  rw [(onlyRegs_countPkg d src inst k single).eq]; simp only [withRegs_pwr]
@[simp] theorem countPkg_tst (d : Dev) (src inst k : Nat) (single : Bool) : (countPkg d src inst k single).tst = d.tst := by
  rw [(onlyRegs_countPkg d src inst k single).eq]; simp only [withRegs_tst]
@[simp] theorem countPkg_mgt (d : Dev) (src inst k : Nat) (single : Bool) : (countPkg d src inst k single).mgt = d.mgt := by
  rw [(onlyRegs_countPkg d src inst k single).eq]; simp only [withRegs_mgt]

/-! #### countBoth -/
@[simp] theorem countBoth_now (d : Dev) (src k : Nat) : (countBoth d src k).now = d.now := by
  rw [(onlyRegs_countBoth d src k).eq]; simp only [withRegs_now]
@[simp] theorem countBoth_fresh (d : Dev) (src k : Nat) : (countBoth d src k).fresh = d.fresh := by
  rw [(onlyRegs_countBoth d src k).eq]; simp only [withRegs_fresh]
@[simp] theorem countBoth_sidPrev (d : Dev) (src k : Nat) : (countBoth d src k).sidPrev = d.sidPrev := by
  rw [(onlyRegs_countBoth d src k).eq]; simp only [withRegs_sidPrev]
@[simp] theorem countBoth_live (d : Dev) (src k : Nat) : (countBoth d src k).live = d.live := by
  rw [(onlyRegs_countBoth d src k).eq]; simp only [withRegs_live]
@[simp] theorem countBoth_roleLocked (d : Dev) (src k : Nat) : (countBoth d src k).roleLocked = d.roleLocked := by
  rw [(onlyRegs_countBoth d src k).eq]; simp only [withRegs_roleLocked]
@[simp] theorem countBoth_mem (d : Dev) (src k : Nat) : (countBoth d src k).mem = d.mem := by
  rw [(onlyRegs_countBoth d src k).eq]; simp only [withRegs_mem]
@[simp] theorem countBoth_nv (d : Dev) (src k : Nat) : (countBoth d src k).nv = d.nv := by
  rw [(onlyRegs_countBoth d src k).eq]; simp only [withRegs_nv]
@[simp] theorem countBoth_nvNext (d : Dev) (src k : Nat) : (countBoth d src k).nvNext = d.nvNext := by
  rw [(onlyRegs_countBoth d src k).eq]; simp only [withRegs_nvNext]
@[simp] theorem countBoth_pend (d : Dev) (src k : Nat) : (countBoth d src k).pend = d.pend := by
  rw [(onlyRegs_countBoth d src k).eq]; simp only [withRegs_pend]
@[simp] theorem countBoth_obs (d : Dev) (src k : Nat) : (countBoth d src k).obs = d.obs := by
  rw [(onlyRegs_countBoth d src k).eq]; simp only [withRegs_obs]
@[simp] theorem countBoth_seq (d : Dev) (src k : Nat) : (countBoth d src k).seq = d.seq := by
  rw [(onlyRegs_countBoth d src k).eq]; simp only [withRegs_seq]
@[simp] theorem countBoth_tables (d : Dev) (src k : Nat) : (countBoth d src k).tables = d.tables := by
  rw [(onlyRegs_countBoth d src k).eq]; simp only [withRegs_tables]
@[simp] theorem countBoth_cas (d : Dev) (src k : Nat) : (countBoth d src k).cas = d.cas := by
  rw [(onlyRegs_countBoth d src k).eq]; simp only [withRegs_cas]
@[simp] theorem countBoth_jet (d : Dev) (src k : Nat) : (countBoth d src k).jet = d.jet := by
  rw [(onlyRegs_countBoth d src k).eq]; simp only [withRegs_jet]
@[simp] theorem countBoth_ast (d : Dev) (src k : Nat) : (countBoth d src k).ast = d.ast := by
  rw [(onlyRegs_countBoth d src k).eq]; simp only [withRegs_ast]
@[simp] theorem countBoth_ephRes (d : Dev) (src k : Nat) : (countBoth d src k).ephRes = d.ephRes := by
  rw [(onlyRegs_countBoth d src k).eq]; simp only [withRegs_ephRes]
@[simp] theorem countBoth_rvrUse (d : Dev) (src k : Nat) : (countBoth d src k).rvrUse = d.rvrUse := by
  rw [(onlyRegs_countBoth d src k).eq]; simp only [withRegs_rvrUse]
@[simp] theorem countBoth_eph (d : Dev) (src k : Nat) : (countBoth d src k).eph = d.eph := by
  rw [(onlyRegs_countBoth d src k).eq]; simp only [withRegs_eph]
@[simp] theorem countBoth_ril (d : Dev) (src k : Nat) : (countBoth d src k).ril = d.ril := by
  rw [(onlyRegs_countBoth d src k).eq]; simp only [withRegs_ril]
@[simp] theorem countBoth_wei (d : Dev) (src k : Nat) : (countBoth d src k).wei = d.wei := by
  rw [(onlyRegs_countBoth d src k).eq]; simp only [withRegs_wei]
@[simp] theorem countBoth_aqd (d : Dev) (src k : Nat) : (countBoth d src k).aqd = d.aqd := by
  rw [(onlyRegs_countBoth d src k).eq]; simp only [withRegs_aqd]
@[simp] theorem countBoth_drainAt (d : Dev) (src k : Nat) : (countBoth d src k).drainAt = d.drainAt := by
  rw [(onlyRegs_countBoth d src k).eq]; simp only [withRegs_drainAt]
@[simp] theorem countBoth_ports (d : Dev) (src k : Nat) : (countBoth d src k).ports = d.ports := by
  rw [(onlyRegs_countBoth d src k).eq]; simp only [withRegs_ports]
@[simp] theorem countBoth_mach (d : Dev) (src k : Nat) : (countBoth d src k).mach = d.mach := by
  rw [(onlyRegs_countBoth d src k).eq]; simp only [withRegs_mach]
@[simp] theorem countBoth_hst (d : Dev) (src k : Nat) : (countBoth d src k).hst = d.hst := by
  rw [(onlyRegs_countBoth d src k).eq]; simp only [withRegs_hst]
@[simp] theorem countBoth_ms (d : Dev) (src k : Nat) : (countBoth d src k).ms = d.ms := by
  rw [(onlyRegs_countBoth d src k).eq]; simp only [withRegs_ms]
@[simp] theorem countBoth_pwr (d : Dev) (src k : Nat) : (countBoth d src k).pwr = d.pwr := by
  rw [(onlyRegs_countBoth d src k).eq]; simp only [withRegs_pwr]
@[simp] theorem countBoth_tst (d : Dev) (src k : Nat) : (countBoth d src k).tst = d.tst := by
  rw [(onlyRegs_countBoth d src k).eq]; simp only [withRegs_tst]
@[simp] theorem countBoth_mgt (d : Dev) (src k : Nat) : (countBoth d src k).mgt = d.mgt := by
  rw [(onlyRegs_countBoth d src k).eq]; simp only [withRegs_mgt]

/-! #### countStarved -/
@[simp] theorem countStarved_now (d : Dev) (old : Dev) (n : Nat) : (countStarved d old n).now = d.now := by
  rw [(onlyRegs_countStarved d old n).eq]; simp only [withRegs_now]
@[simp] theorem countStarved_fresh (d : Dev) (old : Dev) (n : Nat) : (countStarved d old n).fresh = d.fresh := by
  rw [(onlyRegs_countStarved d old n).eq]; simp only [withRegs_fresh]
@[simp] theorem countStarved_sidPrev (d : Dev) (old : Dev) (n : Nat) : (countStarved d old n).sidPrev = d.sidPrev := by
  rw [(onlyRegs_countStarved d old n).eq]; simp only [withRegs_sidPrev]
@[simp] theorem countStarved_live (d : Dev) (old : Dev) (n : Nat) : (countStarved d old n).live = d.live := by
  rw [(onlyRegs_countStarved d old n).eq]; simp only [withRegs_live]
@[simp] theorem countStarved_roleLocked (d : Dev) (old : Dev) (n : Nat) : (countStarved d old n).roleLocked = d.roleLocked := by
  rw [(onlyRegs_countStarved d old n).eq]; simp only [withRegs_roleLocked]
@[simp] theorem countStarved_mem (d : Dev) (old : Dev) (n : Nat) : (countStarved d old n).mem = d.mem := by
  rw [(onlyRegs_countStarved d old n).eq]; simp only [withRegs_mem]
@[simp] theorem countStarved_nv (d : Dev) (old : Dev) (n : Nat) : (countStarved d old n).nv = d.nv := by
  rw [(onlyRegs_countStarved d old n).eq]; simp only [withRegs_nv]
@[simp] theorem countStarved_nvNext (d : Dev) (old : Dev) (n : Nat) : (countStarved d old n).nvNext = d.nvNext := by
  rw [(onlyRegs_countStarved d old n).eq]; simp only [withRegs_nvNext]
@[simp] theorem countStarved_pend (d : Dev) (old : Dev) (n : Nat) : (countStarved d old n).pend = d.pend := by
  rw [(onlyRegs_countStarved d old n).eq]; simp only [withRegs_pend]
@[simp] theorem countStarved_obs (d : Dev) (old : Dev) (n : Nat) : (countStarved d old n).obs = d.obs := by
  rw [(onlyRegs_countStarved d old n).eq]; simp only [withRegs_obs]
@[simp] theorem countStarved_seq (d : Dev) (old : Dev) (n : Nat) : (countStarved d old n).seq = d.seq := by
  rw [(onlyRegs_countStarved d old n).eq]; simp only [withRegs_seq]
@[simp] theorem countStarved_tables (d : Dev) (old : Dev) (n : Nat) : (countStarved d old n).tables = d.tables := by
  rw [(onlyRegs_countStarved d old n).eq]; simp only [withRegs_tables]
@[simp] theorem countStarved_cas (d : Dev) (old : Dev) (n : Nat) : (countStarved d old n).cas = d.cas := by
  rw [(onlyRegs_countStarved d old n).eq]; simp only [withRegs_cas]
@[simp] theorem countStarved_jet (d : Dev) (old : Dev) (n : Nat) : (countStarved d old n).jet = d.jet := by
  rw [(onlyRegs_countStarved d old n).eq]; simp only [withRegs_jet]
@[simp] theorem countStarved_ast (d : Dev) (old : Dev) (n : Nat) : (countStarved d old n).ast = d.ast := by
  rw [(onlyRegs_countStarved d old n).eq]; simp only [withRegs_ast]
@[simp] theorem countStarved_ephRes (d : Dev) (old : Dev) (n : Nat) : (countStarved d old n).ephRes = d.ephRes := by
  rw [(onlyRegs_countStarved d old n).eq]; simp only [withRegs_ephRes]
@[simp] theorem countStarved_rvrUse (d : Dev) (old : Dev) (n : Nat) : (countStarved d old n).rvrUse = d.rvrUse := by
  rw [(onlyRegs_countStarved d old n).eq]; simp only [withRegs_rvrUse]
@[simp] theorem countStarved_eph (d : Dev) (old : Dev) (n : Nat) : (countStarved d old n).eph = d.eph := by
  rw [(onlyRegs_countStarved d old n).eq]; simp only [withRegs_eph]
@[simp] theorem countStarved_ril (d : Dev) (old : Dev) (n : Nat) : (countStarved d old n).ril = d.ril := by
  rw [(onlyRegs_countStarved d old n).eq]; simp only [withRegs_ril]
@[simp] theorem countStarved_wei (d : Dev) (old : Dev) (n : Nat) : (countStarved d old n).wei = d.wei := by
  rw [(onlyRegs_countStarved d old n).eq]; simp only [withRegs_wei]
@[simp] theorem countStarved_aqd (d : Dev) (old : Dev) (n : Nat) : (countStarved d old n).aqd = d.aqd := by
  rw [(onlyRegs_countStarved d old n).eq]; simp only [withRegs_aqd]
@[simp] theorem countStarved_drainAt (d : Dev) (old : Dev) (n : Nat) : (countStarved d old n).drainAt = d.drainAt := by
  rw [(onlyRegs_countStarved d old n).eq]; simp only [withRegs_drainAt]
@[simp] theorem countStarved_ports (d : Dev) (old : Dev) (n : Nat) : (countStarved d old n).ports = d.ports := by
  rw [(onlyRegs_countStarved d old n).eq]; simp only [withRegs_ports]
@[simp] theorem countStarved_mach (d : Dev) (old : Dev) (n : Nat) : (countStarved d old n).mach = d.mach := by
  rw [(onlyRegs_countStarved d old n).eq]; simp only [withRegs_mach]
@[simp] theorem countStarved_hst (d : Dev) (old : Dev) (n : Nat) : (countStarved d old n).hst = d.hst := by
  rw [(onlyRegs_countStarved d old n).eq]; simp only [withRegs_hst]
@[simp] theorem countStarved_ms (d : Dev) (old : Dev) (n : Nat) : (countStarved d old n).ms = d.ms := by
  rw [(onlyRegs_countStarved d old n).eq]; simp only [withRegs_ms]
@[simp] theorem countStarved_pwr (d : Dev) (old : Dev) (n : Nat) : (countStarved d old n).pwr = d.pwr := by
  rw [(onlyRegs_countStarved d old n).eq]; simp only [withRegs_pwr]
@[simp] theorem countStarved_tst (d : Dev) (old : Dev) (n : Nat) : (countStarved d old n).tst = d.tst := by
  rw [(onlyRegs_countStarved d old n).eq]; simp only [withRegs_tst]
@[simp] theorem countStarved_mgt (d : Dev) (old : Dev) (n : Nat) : (countStarved d old n).mgt = d.mgt := by
  rw [(onlyRegs_countStarved d old n).eq]; simp only [withRegs_mgt]

/-! #### hstNote -/
@[simp] theorem hstNote_now (d : Dev) (number ring : Nat) : (hstNote d number ring).now = d.now := by
  rw [(onlyHst_hstNote d number ring).eq]; simp only [withRegs_now, withHst_now]
@[simp] theorem hstNote_fresh (d : Dev) (number ring : Nat) : (hstNote d number ring).fresh = d.fresh := by
  rw [(onlyHst_hstNote d number ring).eq]; simp only [withRegs_fresh, withHst_fresh]
@[simp] theorem hstNote_sidPrev (d : Dev) (number ring : Nat) : (hstNote d number ring).sidPrev = d.sidPrev := by
  rw [(onlyHst_hstNote d number ring).eq]; simp only [withRegs_sidPrev, withHst_sidPrev]
@[simp] theorem hstNote_live (d : Dev) (number ring : Nat) : (hstNote d number ring).live = d.live := by
  rw [(onlyHst_hstNote d number ring).eq]; simp only [withRegs_live, withHst_live]
@[simp] theorem hstNote_roleLocked (d : Dev) (number ring : Nat) : (hstNote d number ring).roleLocked = d.roleLocked := by
  rw [(onlyHst_hstNote d number ring).eq]; simp only [withRegs_roleLocked, withHst_roleLocked]
@[simp] theorem hstNote_mem (d : Dev) (number ring : Nat) : (hstNote d number ring).mem = d.mem := by
  rw [(onlyHst_hstNote d number ring).eq]; simp only [withRegs_mem, withHst_mem]
@[simp] theorem hstNote_nv (d : Dev) (number ring : Nat) : (hstNote d number ring).nv = d.nv := by
  rw [(onlyHst_hstNote d number ring).eq]; simp only [withRegs_nv, withHst_nv]
@[simp] theorem hstNote_nvNext (d : Dev) (number ring : Nat) : (hstNote d number ring).nvNext = d.nvNext := by
  rw [(onlyHst_hstNote d number ring).eq]; simp only [withRegs_nvNext, withHst_nvNext]
@[simp] theorem hstNote_pend (d : Dev) (number ring : Nat) : (hstNote d number ring).pend = d.pend := by
  rw [(onlyHst_hstNote d number ring).eq]; simp only [withRegs_pend, withHst_pend]
@[simp] theorem hstNote_obs (d : Dev) (number ring : Nat) : (hstNote d number ring).obs = d.obs := by
  rw [(onlyHst_hstNote d number ring).eq]; simp only [withRegs_obs, withHst_obs]
@[simp] theorem hstNote_seq (d : Dev) (number ring : Nat) : (hstNote d number ring).seq = d.seq := by
  rw [(onlyHst_hstNote d number ring).eq]; simp only [withRegs_seq, withHst_seq]
@[simp] theorem hstNote_tables (d : Dev) (number ring : Nat) : (hstNote d number ring).tables = d.tables := by
  rw [(onlyHst_hstNote d number ring).eq]; simp only [withRegs_tables, withHst_tables]
@[simp] theorem hstNote_cas (d : Dev) (number ring : Nat) : (hstNote d number ring).cas = d.cas := by
  rw [(onlyHst_hstNote d number ring).eq]; simp only [withRegs_cas, withHst_cas]
@[simp] theorem hstNote_jet (d : Dev) (number ring : Nat) : (hstNote d number ring).jet = d.jet := by
  rw [(onlyHst_hstNote d number ring).eq]; simp only [withRegs_jet, withHst_jet]
@[simp] theorem hstNote_ast (d : Dev) (number ring : Nat) : (hstNote d number ring).ast = d.ast := by
  rw [(onlyHst_hstNote d number ring).eq]; simp only [withRegs_ast, withHst_ast]
@[simp] theorem hstNote_ephRes (d : Dev) (number ring : Nat) : (hstNote d number ring).ephRes = d.ephRes := by
  rw [(onlyHst_hstNote d number ring).eq]; simp only [withRegs_ephRes, withHst_ephRes]
@[simp] theorem hstNote_rvrUse (d : Dev) (number ring : Nat) : (hstNote d number ring).rvrUse = d.rvrUse := by
  rw [(onlyHst_hstNote d number ring).eq]; simp only [withRegs_rvrUse, withHst_rvrUse]
@[simp] theorem hstNote_eph (d : Dev) (number ring : Nat) : (hstNote d number ring).eph = d.eph := by
  rw [(onlyHst_hstNote d number ring).eq]; simp only [withRegs_eph, withHst_eph]
@[simp] theorem hstNote_ril (d : Dev) (number ring : Nat) : (hstNote d number ring).ril = d.ril := by
  rw [(onlyHst_hstNote d number ring).eq]; simp only [withRegs_ril, withHst_ril]
@[simp] theorem hstNote_wei (d : Dev) (number ring : Nat) : (hstNote d number ring).wei = d.wei := by
  rw [(onlyHst_hstNote d number ring).eq]; simp only [withRegs_wei, withHst_wei]
@[simp] theorem hstNote_aqd (d : Dev) (number ring : Nat) : (hstNote d number ring).aqd = d.aqd := by
  rw [(onlyHst_hstNote d number ring).eq]; simp only [withRegs_aqd, withHst_aqd]
@[simp] theorem hstNote_drainAt (d : Dev) (number ring : Nat) : (hstNote d number ring).drainAt = d.drainAt := by
  rw [(onlyHst_hstNote d number ring).eq]; simp only [withRegs_drainAt, withHst_drainAt]
@[simp] theorem hstNote_ports (d : Dev) (number ring : Nat) : (hstNote d number ring).ports = d.ports := by
  rw [(onlyHst_hstNote d number ring).eq]; simp only [withRegs_ports, withHst_ports]
@[simp] theorem hstNote_mach (d : Dev) (number ring : Nat) : (hstNote d number ring).mach = d.mach := by
  rw [(onlyHst_hstNote d number ring).eq]; simp only [withRegs_mach, withHst_mach]
@[simp] theorem hstNote_ms (d : Dev) (number ring : Nat) : (hstNote d number ring).ms = d.ms := by
  rw [(onlyHst_hstNote d number ring).eq]; simp only [withRegs_ms, withHst_ms]
@[simp] theorem hstNote_pwr (d : Dev) (number ring : Nat) : (hstNote d number ring).pwr = d.pwr := by
  rw [(onlyHst_hstNote d number ring).eq]; simp only [withRegs_pwr, withHst_pwr]
@[simp] theorem hstNote_tst (d : Dev) (number ring : Nat) : (hstNote d number ring).tst = d.tst := by
  rw [(onlyHst_hstNote d number ring).eq]; simp only [withRegs_tst, withHst_tst]
@[simp] theorem hstNote_mgt (d : Dev) (number ring : Nat) : (hstNote d number ring).mgt = d.mgt := by
  rw [(onlyHst_hstNote d number ring).eq]; simp only [withRegs_mgt, withHst_mgt]

/-! #### post -/
@[simp] theorem post_now (d : Dev) (number sev src : Nat) (payload : List Nat) : (post d number sev src payload).now = d.now := by
  rw [(onlyHst_post d number sev src payload).eq]; simp only [withRegs_now, withHst_now]
@[simp] theorem post_fresh (d : Dev) (number sev src : Nat) (payload : List Nat) : (post d number sev src payload).fresh = d.fresh := by
  rw [(onlyHst_post d number sev src payload).eq]; simp only [withRegs_fresh, withHst_fresh]
@[simp] theorem post_sidPrev (d : Dev) (number sev src : Nat) (payload : List Nat) : (post d number sev src payload).sidPrev = d.sidPrev := by
  rw [(onlyHst_post d number sev src payload).eq]; simp only [withRegs_sidPrev, withHst_sidPrev]
@[simp] theorem post_live (d : Dev) (number sev src : Nat) (payload : List Nat) : (post d number sev src payload).live = d.live := by
  rw [(onlyHst_post d number sev src payload).eq]; simp only [withRegs_live, withHst_live]
@[simp] theorem post_roleLocked (d : Dev) (number sev src : Nat) (payload : List Nat) : (post d number sev src payload).roleLocked = d.roleLocked := by
  rw [(onlyHst_post d number sev src payload).eq]; simp only [withRegs_roleLocked, withHst_roleLocked]
@[simp] theorem post_mem (d : Dev) (number sev src : Nat) (payload : List Nat) : (post d number sev src payload).mem = d.mem := by
  rw [(onlyHst_post d number sev src payload).eq]; simp only [withRegs_mem, withHst_mem]
@[simp] theorem post_nv (d : Dev) (number sev src : Nat) (payload : List Nat) : (post d number sev src payload).nv = d.nv := by
  rw [(onlyHst_post d number sev src payload).eq]; simp only [withRegs_nv, withHst_nv]
@[simp] theorem post_nvNext (d : Dev) (number sev src : Nat) (payload : List Nat) : (post d number sev src payload).nvNext = d.nvNext := by
  rw [(onlyHst_post d number sev src payload).eq]; simp only [withRegs_nvNext, withHst_nvNext]
@[simp] theorem post_pend (d : Dev) (number sev src : Nat) (payload : List Nat) : (post d number sev src payload).pend = d.pend := by
  rw [(onlyHst_post d number sev src payload).eq]; simp only [withRegs_pend, withHst_pend]
@[simp] theorem post_obs (d : Dev) (number sev src : Nat) (payload : List Nat) : (post d number sev src payload).obs = d.obs := by
  rw [(onlyHst_post d number sev src payload).eq]; simp only [withRegs_obs, withHst_obs]
@[simp] theorem post_seq (d : Dev) (number sev src : Nat) (payload : List Nat) : (post d number sev src payload).seq = d.seq := by
  rw [(onlyHst_post d number sev src payload).eq]; simp only [withRegs_seq, withHst_seq]
@[simp] theorem post_tables (d : Dev) (number sev src : Nat) (payload : List Nat) : (post d number sev src payload).tables = d.tables := by
  rw [(onlyHst_post d number sev src payload).eq]; simp only [withRegs_tables, withHst_tables]
@[simp] theorem post_cas (d : Dev) (number sev src : Nat) (payload : List Nat) : (post d number sev src payload).cas = d.cas := by
  rw [(onlyHst_post d number sev src payload).eq]; simp only [withRegs_cas, withHst_cas]
@[simp] theorem post_jet (d : Dev) (number sev src : Nat) (payload : List Nat) : (post d number sev src payload).jet = d.jet := by
  rw [(onlyHst_post d number sev src payload).eq]; simp only [withRegs_jet, withHst_jet]
@[simp] theorem post_ast (d : Dev) (number sev src : Nat) (payload : List Nat) : (post d number sev src payload).ast = d.ast := by
  rw [(onlyHst_post d number sev src payload).eq]; simp only [withRegs_ast, withHst_ast]
@[simp] theorem post_ephRes (d : Dev) (number sev src : Nat) (payload : List Nat) : (post d number sev src payload).ephRes = d.ephRes := by
  rw [(onlyHst_post d number sev src payload).eq]; simp only [withRegs_ephRes, withHst_ephRes]
@[simp] theorem post_rvrUse (d : Dev) (number sev src : Nat) (payload : List Nat) : (post d number sev src payload).rvrUse = d.rvrUse := by
  rw [(onlyHst_post d number sev src payload).eq]; simp only [withRegs_rvrUse, withHst_rvrUse]
@[simp] theorem post_eph (d : Dev) (number sev src : Nat) (payload : List Nat) : (post d number sev src payload).eph = d.eph := by
  rw [(onlyHst_post d number sev src payload).eq]; simp only [withRegs_eph, withHst_eph]
@[simp] theorem post_ril (d : Dev) (number sev src : Nat) (payload : List Nat) : (post d number sev src payload).ril = d.ril := by
  rw [(onlyHst_post d number sev src payload).eq]; simp only [withRegs_ril, withHst_ril]
@[simp] theorem post_wei (d : Dev) (number sev src : Nat) (payload : List Nat) : (post d number sev src payload).wei = d.wei := by
  rw [(onlyHst_post d number sev src payload).eq]; simp only [withRegs_wei, withHst_wei]
@[simp] theorem post_aqd (d : Dev) (number sev src : Nat) (payload : List Nat) : (post d number sev src payload).aqd = d.aqd := by
  rw [(onlyHst_post d number sev src payload).eq]; simp only [withRegs_aqd, withHst_aqd]
@[simp] theorem post_drainAt (d : Dev) (number sev src : Nat) (payload : List Nat) : (post d number sev src payload).drainAt = d.drainAt := by
  rw [(onlyHst_post d number sev src payload).eq]; simp only [withRegs_drainAt, withHst_drainAt]
@[simp] theorem post_ports (d : Dev) (number sev src : Nat) (payload : List Nat) : (post d number sev src payload).ports = d.ports := by
  rw [(onlyHst_post d number sev src payload).eq]; simp only [withRegs_ports, withHst_ports]
@[simp] theorem post_mach (d : Dev) (number sev src : Nat) (payload : List Nat) : (post d number sev src payload).mach = d.mach := by
  rw [(onlyHst_post d number sev src payload).eq]; simp only [withRegs_mach, withHst_mach]
@[simp] theorem post_ms (d : Dev) (number sev src : Nat) (payload : List Nat) : (post d number sev src payload).ms = d.ms := by
  rw [(onlyHst_post d number sev src payload).eq]; simp only [withRegs_ms, withHst_ms]
@[simp] theorem post_pwr (d : Dev) (number sev src : Nat) (payload : List Nat) : (post d number sev src payload).pwr = d.pwr := by
  rw [(onlyHst_post d number sev src payload).eq]; simp only [withRegs_pwr, withHst_pwr]
@[simp] theorem post_tst (d : Dev) (number sev src : Nat) (payload : List Nat) : (post d number sev src payload).tst = d.tst := by
  rw [(onlyHst_post d number sev src payload).eq]; simp only [withRegs_tst, withHst_tst]
@[simp] theorem post_mgt (d : Dev) (number sev src : Nat) (payload : List Nat) : (post d number sev src payload).mgt = d.mgt := by
  rw [(onlyHst_post d number sev src payload).eq]; simp only [withRegs_mgt, withHst_mgt]

/-! #### postStat -/
@[simp] theorem postStat_now (d : Dev) (number src : Nat) (payload : List Nat) : (postStat d number src payload).now = d.now := by
  rw [(onlyHst_postStat d number src payload).eq]; simp only [withRegs_now, withHst_now]
@[simp] theorem postStat_fresh (d : Dev) (number src : Nat) (payload : List Nat) : (postStat d number src payload).fresh = d.fresh := by
  rw [(onlyHst_postStat d number src payload).eq]; simp only [withRegs_fresh, withHst_fresh]
@[simp] theorem postStat_sidPrev (d : Dev) (number src : Nat) (payload : List Nat) : (postStat d number src payload).sidPrev = d.sidPrev := by
  rw [(onlyHst_postStat d number src payload).eq]; simp only [withRegs_sidPrev, withHst_sidPrev]
@[simp] theorem postStat_live (d : Dev) (number src : Nat) (payload : List Nat) : (postStat d number src payload).live = d.live := by
  rw [(onlyHst_postStat d number src payload).eq]; simp only [withRegs_live, withHst_live]
@[simp] theorem postStat_roleLocked (d : Dev) (number src : Nat) (payload : List Nat) : (postStat d number src payload).roleLocked = d.roleLocked := by
  rw [(onlyHst_postStat d number src payload).eq]; simp only [withRegs_roleLocked, withHst_roleLocked]
@[simp] theorem postStat_mem (d : Dev) (number src : Nat) (payload : List Nat) : (postStat d number src payload).mem = d.mem := by
  rw [(onlyHst_postStat d number src payload).eq]; simp only [withRegs_mem, withHst_mem]
@[simp] theorem postStat_nv (d : Dev) (number src : Nat) (payload : List Nat) : (postStat d number src payload).nv = d.nv := by
  rw [(onlyHst_postStat d number src payload).eq]; simp only [withRegs_nv, withHst_nv]
@[simp] theorem postStat_nvNext (d : Dev) (number src : Nat) (payload : List Nat) : (postStat d number src payload).nvNext = d.nvNext := by
  rw [(onlyHst_postStat d number src payload).eq]; simp only [withRegs_nvNext, withHst_nvNext]
@[simp] theorem postStat_pend (d : Dev) (number src : Nat) (payload : List Nat) : (postStat d number src payload).pend = d.pend := by
  rw [(onlyHst_postStat d number src payload).eq]; simp only [withRegs_pend, withHst_pend]
@[simp] theorem postStat_obs (d : Dev) (number src : Nat) (payload : List Nat) : (postStat d number src payload).obs = d.obs := by
  rw [(onlyHst_postStat d number src payload).eq]; simp only [withRegs_obs, withHst_obs]
@[simp] theorem postStat_seq (d : Dev) (number src : Nat) (payload : List Nat) : (postStat d number src payload).seq = d.seq := by
  rw [(onlyHst_postStat d number src payload).eq]; simp only [withRegs_seq, withHst_seq]
@[simp] theorem postStat_tables (d : Dev) (number src : Nat) (payload : List Nat) : (postStat d number src payload).tables = d.tables := by
  rw [(onlyHst_postStat d number src payload).eq]; simp only [withRegs_tables, withHst_tables]
@[simp] theorem postStat_cas (d : Dev) (number src : Nat) (payload : List Nat) : (postStat d number src payload).cas = d.cas := by
  rw [(onlyHst_postStat d number src payload).eq]; simp only [withRegs_cas, withHst_cas]
@[simp] theorem postStat_jet (d : Dev) (number src : Nat) (payload : List Nat) : (postStat d number src payload).jet = d.jet := by
  rw [(onlyHst_postStat d number src payload).eq]; simp only [withRegs_jet, withHst_jet]
@[simp] theorem postStat_ast (d : Dev) (number src : Nat) (payload : List Nat) : (postStat d number src payload).ast = d.ast := by
  rw [(onlyHst_postStat d number src payload).eq]; simp only [withRegs_ast, withHst_ast]
@[simp] theorem postStat_ephRes (d : Dev) (number src : Nat) (payload : List Nat) : (postStat d number src payload).ephRes = d.ephRes := by
  rw [(onlyHst_postStat d number src payload).eq]; simp only [withRegs_ephRes, withHst_ephRes]
@[simp] theorem postStat_rvrUse (d : Dev) (number src : Nat) (payload : List Nat) : (postStat d number src payload).rvrUse = d.rvrUse := by
  rw [(onlyHst_postStat d number src payload).eq]; simp only [withRegs_rvrUse, withHst_rvrUse]
@[simp] theorem postStat_eph (d : Dev) (number src : Nat) (payload : List Nat) : (postStat d number src payload).eph = d.eph := by
  rw [(onlyHst_postStat d number src payload).eq]; simp only [withRegs_eph, withHst_eph]
@[simp] theorem postStat_ril (d : Dev) (number src : Nat) (payload : List Nat) : (postStat d number src payload).ril = d.ril := by
  rw [(onlyHst_postStat d number src payload).eq]; simp only [withRegs_ril, withHst_ril]
@[simp] theorem postStat_wei (d : Dev) (number src : Nat) (payload : List Nat) : (postStat d number src payload).wei = d.wei := by
  rw [(onlyHst_postStat d number src payload).eq]; simp only [withRegs_wei, withHst_wei]
@[simp] theorem postStat_aqd (d : Dev) (number src : Nat) (payload : List Nat) : (postStat d number src payload).aqd = d.aqd := by
  rw [(onlyHst_postStat d number src payload).eq]; simp only [withRegs_aqd, withHst_aqd]
@[simp] theorem postStat_drainAt (d : Dev) (number src : Nat) (payload : List Nat) : (postStat d number src payload).drainAt = d.drainAt := by
  rw [(onlyHst_postStat d number src payload).eq]; simp only [withRegs_drainAt, withHst_drainAt]
@[simp] theorem postStat_ports (d : Dev) (number src : Nat) (payload : List Nat) : (postStat d number src payload).ports = d.ports := by
  rw [(onlyHst_postStat d number src payload).eq]; simp only [withRegs_ports, withHst_ports]
@[simp] theorem postStat_mach (d : Dev) (number src : Nat) (payload : List Nat) : (postStat d number src payload).mach = d.mach := by
  rw [(onlyHst_postStat d number src payload).eq]; simp only [withRegs_mach, withHst_mach]
@[simp] theorem postStat_ms (d : Dev) (number src : Nat) (payload : List Nat) : (postStat d number src payload).ms = d.ms := by
  rw [(onlyHst_postStat d number src payload).eq]; simp only [withRegs_ms, withHst_ms]
@[simp] theorem postStat_pwr (d : Dev) (number src : Nat) (payload : List Nat) : (postStat d number src payload).pwr = d.pwr := by
  rw [(onlyHst_postStat d number src payload).eq]; simp only [withRegs_pwr, withHst_pwr]
@[simp] theorem postStat_tst (d : Dev) (number src : Nat) (payload : List Nat) : (postStat d number src payload).tst = d.tst := by
  rw [(onlyHst_postStat d number src payload).eq]; simp only [withRegs_tst, withHst_tst]
@[simp] theorem postStat_mgt (d : Dev) (number src : Nat) (payload : List Nat) : (postStat d number src payload).mgt = d.mgt := by
  rw [(onlyHst_postStat d number src payload).eq]; simp only [withRegs_mgt, withHst_mgt]

/-! ### Time -/

@[simp] theorem tickTo_live (d : Dev) (t : Nat) : (tickTo d t).live = d.live := by
  simp only [tickTo]
  repeat' split
  all_goals simp only [countPkg_live, countStarved_live, countBoth_live, drawn_live, withSidPrev_live, withNow_live, regSet_live]
@[simp] theorem tick_live (d : Dev) (t : Nat) : (tick d t).live = d.live := by simp only [tick, tickTo_live]
@[simp] theorem tickTo_roleLocked (d : Dev) (t : Nat) : (tickTo d t).roleLocked = d.roleLocked := by
  simp only [tickTo]
  repeat' split
  all_goals simp only [countPkg_roleLocked, countStarved_roleLocked, countBoth_roleLocked, drawn_roleLocked, withSidPrev_roleLocked, withNow_roleLocked, regSet_roleLocked]
@[simp] theorem tick_roleLocked (d : Dev) (t : Nat) : (tick d t).roleLocked = d.roleLocked := by simp only [tick, tickTo_roleLocked]
@[simp] theorem tickTo_mem (d : Dev) (t : Nat) : (tickTo d t).mem = d.mem := by
  simp only [tickTo]
  repeat' split
  all_goals simp only [countPkg_mem, countStarved_mem, countBoth_mem, drawn_mem, withSidPrev_mem, withNow_mem, regSet_mem]
@[simp] theorem tick_mem (d : Dev) (t : Nat) : (tick d t).mem = d.mem := by simp only [tick, tickTo_mem]
@[simp] theorem tickTo_nv (d : Dev) (t : Nat) : (tickTo d t).nv = d.nv := by
  simp only [tickTo]
  repeat' split
  all_goals simp only [countPkg_nv, countStarved_nv, countBoth_nv, drawn_nv, withSidPrev_nv, withNow_nv, regSet_nv]
@[simp] theorem tick_nv (d : Dev) (t : Nat) : (tick d t).nv = d.nv := by simp only [tick, tickTo_nv]
@[simp] theorem tickTo_nvNext (d : Dev) (t : Nat) : (tickTo d t).nvNext = d.nvNext := by
  simp only [tickTo]
  repeat' split
  all_goals simp only [countPkg_nvNext, countStarved_nvNext, countBoth_nvNext, drawn_nvNext, withSidPrev_nvNext, withNow_nvNext, regSet_nvNext]
@[simp] theorem tick_nvNext (d : Dev) (t : Nat) : (tick d t).nvNext = d.nvNext := by simp only [tick, tickTo_nvNext]
@[simp] theorem tickTo_pend (d : Dev) (t : Nat) : (tickTo d t).pend = d.pend := by
  simp only [tickTo]
  repeat' split
  all_goals simp only [countPkg_pend, countStarved_pend, countBoth_pend, drawn_pend, withSidPrev_pend, withNow_pend, regSet_pend]
@[simp] theorem tick_pend (d : Dev) (t : Nat) : (tick d t).pend = d.pend := by simp only [tick, tickTo_pend]
@[simp] theorem tickTo_obs (d : Dev) (t : Nat) : (tickTo d t).obs = d.obs := by
  simp only [tickTo]
  repeat' split
  all_goals simp only [countPkg_obs, countStarved_obs, countBoth_obs, drawn_obs, withSidPrev_obs, withNow_obs, regSet_obs]
@[simp] theorem tick_obs (d : Dev) (t : Nat) : (tick d t).obs = d.obs := by simp only [tick, tickTo_obs]
@[simp] theorem tickTo_seq (d : Dev) (t : Nat) : (tickTo d t).seq = d.seq := by
  simp only [tickTo]
  repeat' split
  all_goals simp only [countPkg_seq, countStarved_seq, countBoth_seq, drawn_seq, withSidPrev_seq, withNow_seq, regSet_seq]
@[simp] theorem tick_seq (d : Dev) (t : Nat) : (tick d t).seq = d.seq := by simp only [tick, tickTo_seq]
@[simp] theorem tickTo_tables (d : Dev) (t : Nat) : (tickTo d t).tables = d.tables := by
  simp only [tickTo]
  repeat' split
  all_goals simp only [countPkg_tables, countStarved_tables, countBoth_tables, drawn_tables, withSidPrev_tables, withNow_tables, regSet_tables]
@[simp] theorem tick_tables (d : Dev) (t : Nat) : (tick d t).tables = d.tables := by simp only [tick, tickTo_tables]
@[simp] theorem tickTo_cas (d : Dev) (t : Nat) : (tickTo d t).cas = d.cas := by
  simp only [tickTo]
  repeat' split
  all_goals simp only [countPkg_cas, countStarved_cas, countBoth_cas, drawn_cas, withSidPrev_cas, withNow_cas, regSet_cas]
@[simp] theorem tick_cas (d : Dev) (t : Nat) : (tick d t).cas = d.cas := by simp only [tick, tickTo_cas]
@[simp] theorem tickTo_jet (d : Dev) (t : Nat) : (tickTo d t).jet = d.jet := by
  simp only [tickTo]
  repeat' split
  all_goals simp only [countPkg_jet, countStarved_jet, countBoth_jet, drawn_jet, withSidPrev_jet, withNow_jet, regSet_jet]
@[simp] theorem tick_jet (d : Dev) (t : Nat) : (tick d t).jet = d.jet := by simp only [tick, tickTo_jet]
@[simp] theorem tickTo_ast (d : Dev) (t : Nat) : (tickTo d t).ast = d.ast := by
  simp only [tickTo]
  repeat' split
  all_goals simp only [countPkg_ast, countStarved_ast, countBoth_ast, drawn_ast, withSidPrev_ast, withNow_ast, regSet_ast]
@[simp] theorem tick_ast (d : Dev) (t : Nat) : (tick d t).ast = d.ast := by simp only [tick, tickTo_ast]
@[simp] theorem tickTo_ephRes (d : Dev) (t : Nat) : (tickTo d t).ephRes = d.ephRes := by
  simp only [tickTo]
  repeat' split
  all_goals simp only [countPkg_ephRes, countStarved_ephRes, countBoth_ephRes, drawn_ephRes, withSidPrev_ephRes, withNow_ephRes, regSet_ephRes]
@[simp] theorem tick_ephRes (d : Dev) (t : Nat) : (tick d t).ephRes = d.ephRes := by simp only [tick, tickTo_ephRes]
@[simp] theorem tickTo_rvrUse (d : Dev) (t : Nat) : (tickTo d t).rvrUse = d.rvrUse := by
  simp only [tickTo]
  repeat' split
  all_goals simp only [countPkg_rvrUse, countStarved_rvrUse, countBoth_rvrUse, drawn_rvrUse, withSidPrev_rvrUse, withNow_rvrUse, regSet_rvrUse]
@[simp] theorem tick_rvrUse (d : Dev) (t : Nat) : (tick d t).rvrUse = d.rvrUse := by simp only [tick, tickTo_rvrUse]
@[simp] theorem tickTo_eph (d : Dev) (t : Nat) : (tickTo d t).eph = d.eph := by
  simp only [tickTo]
  repeat' split
  all_goals simp only [countPkg_eph, countStarved_eph, countBoth_eph, drawn_eph, withSidPrev_eph, withNow_eph, regSet_eph]
@[simp] theorem tick_eph (d : Dev) (t : Nat) : (tick d t).eph = d.eph := by simp only [tick, tickTo_eph]
@[simp] theorem tickTo_ril (d : Dev) (t : Nat) : (tickTo d t).ril = d.ril := by
  simp only [tickTo]
  repeat' split
  all_goals simp only [countPkg_ril, countStarved_ril, countBoth_ril, drawn_ril, withSidPrev_ril, withNow_ril, regSet_ril]
@[simp] theorem tick_ril (d : Dev) (t : Nat) : (tick d t).ril = d.ril := by simp only [tick, tickTo_ril]
@[simp] theorem tickTo_wei (d : Dev) (t : Nat) : (tickTo d t).wei = d.wei := by
  simp only [tickTo]
  repeat' split
  all_goals simp only [countPkg_wei, countStarved_wei, countBoth_wei, drawn_wei, withSidPrev_wei, withNow_wei, regSet_wei]
@[simp] theorem tick_wei (d : Dev) (t : Nat) : (tick d t).wei = d.wei := by simp only [tick, tickTo_wei]
@[simp] theorem tickTo_aqd (d : Dev) (t : Nat) : (tickTo d t).aqd = d.aqd := by
  simp only [tickTo]
  repeat' split
  all_goals simp only [countPkg_aqd, countStarved_aqd, countBoth_aqd, drawn_aqd, withSidPrev_aqd, withNow_aqd, regSet_aqd]
@[simp] theorem tick_aqd (d : Dev) (t : Nat) : (tick d t).aqd = d.aqd := by simp only [tick, tickTo_aqd]
@[simp] theorem tickTo_drainAt (d : Dev) (t : Nat) : (tickTo d t).drainAt = d.drainAt := by
  simp only [tickTo]
  repeat' split
  all_goals simp only [countPkg_drainAt, countStarved_drainAt, countBoth_drainAt, drawn_drainAt, withSidPrev_drainAt, withNow_drainAt, regSet_drainAt]
@[simp] theorem tick_drainAt (d : Dev) (t : Nat) : (tick d t).drainAt = d.drainAt := by simp only [tick, tickTo_drainAt]
@[simp] theorem tickTo_ports (d : Dev) (t : Nat) : (tickTo d t).ports = d.ports := by
  simp only [tickTo]
  repeat' split
  all_goals simp only [countPkg_ports, countStarved_ports, countBoth_ports, drawn_ports, withSidPrev_ports, withNow_ports, regSet_ports]
@[simp] theorem tick_ports (d : Dev) (t : Nat) : (tick d t).ports = d.ports := by simp only [tick, tickTo_ports]
@[simp] theorem tickTo_mach (d : Dev) (t : Nat) : (tickTo d t).mach = d.mach := by
  simp only [tickTo]
  repeat' split
  all_goals simp only [countPkg_mach, countStarved_mach, countBoth_mach, drawn_mach, withSidPrev_mach, withNow_mach, regSet_mach]
@[simp] theorem tick_mach (d : Dev) (t : Nat) : (tick d t).mach = d.mach := by simp only [tick, tickTo_mach]
@[simp] theorem tickTo_hst (d : Dev) (t : Nat) : (tickTo d t).hst = d.hst := by
  simp only [tickTo]
  repeat' split
  all_goals simp only [countPkg_hst, countStarved_hst, countBoth_hst, drawn_hst, withSidPrev_hst, withNow_hst, regSet_hst]
@[simp] theorem tick_hst (d : Dev) (t : Nat) : (tick d t).hst = d.hst := by simp only [tick, tickTo_hst]
@[simp] theorem tickTo_ms (d : Dev) (t : Nat) : (tickTo d t).ms = d.ms := by
  simp only [tickTo]
  repeat' split
  all_goals simp only [countPkg_ms, countStarved_ms, countBoth_ms, drawn_ms, withSidPrev_ms, withNow_ms, regSet_ms]
@[simp] theorem tick_ms (d : Dev) (t : Nat) : (tick d t).ms = d.ms := by simp only [tick, tickTo_ms]
@[simp] theorem tickTo_pwr (d : Dev) (t : Nat) : (tickTo d t).pwr = d.pwr := by
  simp only [tickTo]
  repeat' split
  all_goals simp only [countPkg_pwr, countStarved_pwr, countBoth_pwr, drawn_pwr, withSidPrev_pwr, withNow_pwr, regSet_pwr]
@[simp] theorem tick_pwr (d : Dev) (t : Nat) : (tick d t).pwr = d.pwr := by simp only [tick, tickTo_pwr]
@[simp] theorem tickTo_tst (d : Dev) (t : Nat) : (tickTo d t).tst = d.tst := by
  simp only [tickTo]
  repeat' split
  all_goals simp only [countPkg_tst, countStarved_tst, countBoth_tst, drawn_tst, withSidPrev_tst, withNow_tst, regSet_tst]
@[simp] theorem tick_tst (d : Dev) (t : Nat) : (tick d t).tst = d.tst := by simp only [tick, tickTo_tst]
@[simp] theorem tickTo_mgt (d : Dev) (t : Nat) : (tickTo d t).mgt = d.mgt := by
  simp only [tickTo]
  repeat' split
  all_goals simp only [countPkg_mgt, countStarved_mgt, countBoth_mgt, drawn_mgt, withSidPrev_mgt, withNow_mgt, regSet_mgt]
@[simp] theorem tick_mgt (d : Dev) (t : Nat) : (tick d t).mgt = d.mgt := by simp only [tick, tickTo_mgt]

/-- Time moves, of the registers, the counters and SID_TIME (R505). -/
theorem keepsRegs_tickTo (d : Dev) (t : Nat) : keepsRegs isClock d (tickTo d t) := by
  have hw : ∀ a, isClock a = false → isCounter a = false := fun a h => by
    simp only [isClock, Bool.or_eq_false_iff] at h; exact h.1
  have hb : ∀ (e : Dev) (k n : Nat), keepsRegs isClock e (countBoth e k n) :=
    fun e k n => (onlyRegs_countBoth e k n).2.weaken hw
  have hp : ∀ (e : Dev) (k i n : Nat) (b : Bool), keepsRegs isClock e (countPkg e k i n b) :=
    fun e k i n b => (onlyRegs_countPkg e k i n b).2.weaken hw
  have hr : ∀ (e : Dev) (v : W64), keepsRegs isClock e (regSet e A.SID_TIME v) :=
    fun e v => keepsRegs_regSet e _ v (by decide)
  have hn : ∀ (e : Dev) (t s : Nat), keepsRegs isClock e (drawn ((e.withNow t).withSidPrev s)) :=
    fun e t s => keepsRegs_of_regs rfl
  have hif : ∀ (c : Prop) [Decidable c] (e : Dev) (k n : Nat), keepsRegs isClock d e →
      keepsRegs isClock d (if c then countBoth e k n else e) := by
    intro c _ e k n he
    split
    · exact he.trans (hb e k n)
    · exact he
  have h0 : ∀ v t s k n, keepsRegs isClock d
      (countBoth (drawn (((regSet d A.SID_TIME v).withNow t).withSidPrev s)) k n) :=
    fun v t s k n => ((hr d v).trans (hn _ t s)).trans (hb _ k n)
  have hs : ∀ (e f : Dev) (n : Nat), keepsRegs isClock e (countStarved e f n) :=
    fun e f n => (onlyRegs_countStarved e f n).2.weaken hw
  simp only [tickTo]
  split
  · exact keepsRegs.refl _ _
  · split
    · exact (hif _ _ _ _ (hif _ _ _ _ ((h0 _ _ _ _ _).trans (hs _ _ _)))).trans (hp _ _ _ _ _)
    · exact hif _ _ _ _ (hif _ _ _ _ ((h0 _ _ _ _ _).trans (hs _ _ _)))

/-- The clock ends at `t`, or stays where it is when it is past `t`. -/
theorem tickTo_now (d : Dev) (t : Nat) : (tickTo d t).now = max d.now t := by
  simp only [tickTo]
  repeat' split
  all_goals try simp only [countPkg_now, countStarved_now, countBoth_now, drawn_now, withSidPrev_now, withNow_now]
  all_goals omega

@[simp] theorem tick_now (d : Dev) (t : Nat) : (tick d t).now = max d.now t := by
  simp only [tick, tickTo_now]; omega

theorem keepsRegs_tick (d : Dev) (t : Nat) : keepsRegs isClock d (tick d t) :=
  (keepsRegs_tickTo d (t - 2)).trans (keepsRegs_tickTo _ t)

/-! ### Raising -/

@[simp] theorem stopStrands_now (d : Dev) : (stopStrands d).now = d.now := by
  rw [stopStrands, withSeq_now]; split
  · rw [fset_now]
  · rfl
@[simp] theorem seqSelfStop_now (d : Dev) : (seqSelfStop d).now = d.now := by
  rw [seqSelfStop]; split
  · rw [fset_now, drainBegins_now, stopStrands_now]
  · rfl
@[simp] theorem chipFatal_now (d : Dev) : (chipFatal d).now = d.now := by
  rw [chipFatal, seqSelfStop_now]; split
  · rw [raiseAbort_now]
  · rfl
@[simp] theorem consequence_now (d : Dev) (sev : Nat) : (consequence d sev).now = d.now := by
  unfold consequence; split
  · rw [stepFatal, raiseAbort_now]
  · rw [chipFatal_now]
  · exact chipFatal_now d
  · rfl
@[simp] theorem raise_now (d : Dev) (number sev src : Nat) (payload : List Nat) : (raise d number sev src payload).now = d.now := by
  simp only [raise, consequence_now, post_now]
@[simp] theorem stopStrands_fresh (d : Dev) : (stopStrands d).fresh = d.fresh := by
  rw [stopStrands, withSeq_fresh]; split
  · rw [fset_fresh]
  · rfl
@[simp] theorem seqSelfStop_fresh (d : Dev) : (seqSelfStop d).fresh = d.fresh := by
  rw [seqSelfStop]; split
  · rw [fset_fresh, drainBegins_fresh, stopStrands_fresh]
  · rfl
@[simp] theorem chipFatal_fresh (d : Dev) : (chipFatal d).fresh = d.fresh := by
  rw [chipFatal, seqSelfStop_fresh]; split
  · rw [raiseAbort_fresh]
  · rfl
@[simp] theorem consequence_fresh (d : Dev) (sev : Nat) : (consequence d sev).fresh = d.fresh := by
  unfold consequence; split
  · rw [stepFatal, raiseAbort_fresh]
  · rw [chipFatal_fresh]
  · exact chipFatal_fresh d
  · rfl
@[simp] theorem raise_fresh (d : Dev) (number sev src : Nat) (payload : List Nat) : (raise d number sev src payload).fresh = d.fresh := by
  simp only [raise, consequence_fresh, post_fresh]
@[simp] theorem stopStrands_sidPrev (d : Dev) : (stopStrands d).sidPrev = d.sidPrev := by
  rw [stopStrands, withSeq_sidPrev]; split
  · rw [fset_sidPrev]
  · rfl
@[simp] theorem seqSelfStop_sidPrev (d : Dev) : (seqSelfStop d).sidPrev = d.sidPrev := by
  rw [seqSelfStop]; split
  · rw [fset_sidPrev, drainBegins_sidPrev, stopStrands_sidPrev]
  · rfl
@[simp] theorem chipFatal_sidPrev (d : Dev) : (chipFatal d).sidPrev = d.sidPrev := by
  rw [chipFatal, seqSelfStop_sidPrev]; split
  · rw [raiseAbort_sidPrev]
  · rfl
@[simp] theorem consequence_sidPrev (d : Dev) (sev : Nat) : (consequence d sev).sidPrev = d.sidPrev := by
  unfold consequence; split
  · rw [stepFatal, raiseAbort_sidPrev]
  · rw [chipFatal_sidPrev]
  · exact chipFatal_sidPrev d
  · rfl
@[simp] theorem raise_sidPrev (d : Dev) (number sev src : Nat) (payload : List Nat) : (raise d number sev src payload).sidPrev = d.sidPrev := by
  simp only [raise, consequence_sidPrev, post_sidPrev]
@[simp] theorem stopStrands_live (d : Dev) : (stopStrands d).live = d.live := by
  rw [stopStrands, withSeq_live]; split
  · rw [fset_live]
  · rfl
@[simp] theorem seqSelfStop_live (d : Dev) : (seqSelfStop d).live = d.live := by
  rw [seqSelfStop]; split
  · rw [fset_live, drainBegins_live, stopStrands_live]
  · rfl
@[simp] theorem chipFatal_live (d : Dev) : (chipFatal d).live = d.live := by
  rw [chipFatal, seqSelfStop_live]; split
  · rw [raiseAbort_live]
  · rfl
@[simp] theorem consequence_live (d : Dev) (sev : Nat) : (consequence d sev).live = d.live := by
  unfold consequence; split
  · rw [stepFatal, raiseAbort_live]
  · rw [chipFatal_live]
  · exact chipFatal_live d
  · rfl
@[simp] theorem raise_live (d : Dev) (number sev src : Nat) (payload : List Nat) : (raise d number sev src payload).live = d.live := by
  simp only [raise, consequence_live, post_live]
@[simp] theorem stopStrands_roleLocked (d : Dev) : (stopStrands d).roleLocked = d.roleLocked := by
  rw [stopStrands, withSeq_roleLocked]; split
  · rw [fset_roleLocked]
  · rfl
@[simp] theorem seqSelfStop_roleLocked (d : Dev) : (seqSelfStop d).roleLocked = d.roleLocked := by
  rw [seqSelfStop]; split
  · rw [fset_roleLocked, drainBegins_roleLocked, stopStrands_roleLocked]
  · rfl
@[simp] theorem chipFatal_roleLocked (d : Dev) : (chipFatal d).roleLocked = d.roleLocked := by
  rw [chipFatal, seqSelfStop_roleLocked]; split
  · rw [raiseAbort_roleLocked]
  · rfl
@[simp] theorem consequence_roleLocked (d : Dev) (sev : Nat) : (consequence d sev).roleLocked = d.roleLocked := by
  unfold consequence; split
  · rw [stepFatal, raiseAbort_roleLocked]
  · rw [chipFatal_roleLocked]
  · exact chipFatal_roleLocked d
  · rfl
@[simp] theorem raise_roleLocked (d : Dev) (number sev src : Nat) (payload : List Nat) : (raise d number sev src payload).roleLocked = d.roleLocked := by
  simp only [raise, consequence_roleLocked, post_roleLocked]
@[simp] theorem stopStrands_mem (d : Dev) : (stopStrands d).mem = d.mem := by
  rw [stopStrands, withSeq_mem]; split
  · rw [fset_mem]
  · rfl
@[simp] theorem seqSelfStop_mem (d : Dev) : (seqSelfStop d).mem = d.mem := by
  rw [seqSelfStop]; split
  · rw [fset_mem, drainBegins_mem, stopStrands_mem]
  · rfl
@[simp] theorem chipFatal_mem (d : Dev) : (chipFatal d).mem = d.mem := by
  rw [chipFatal, seqSelfStop_mem]; split
  · rw [raiseAbort_mem]
  · rfl
@[simp] theorem consequence_mem (d : Dev) (sev : Nat) : (consequence d sev).mem = d.mem := by
  unfold consequence; split
  · rw [stepFatal, raiseAbort_mem]
  · rw [chipFatal_mem]
  · exact chipFatal_mem d
  · rfl
@[simp] theorem raise_mem (d : Dev) (number sev src : Nat) (payload : List Nat) : (raise d number sev src payload).mem = d.mem := by
  simp only [raise, consequence_mem, post_mem]
@[simp] theorem stopStrands_nv (d : Dev) : (stopStrands d).nv = d.nv := by
  rw [stopStrands, withSeq_nv]; split
  · rw [fset_nv]
  · rfl
@[simp] theorem seqSelfStop_nv (d : Dev) : (seqSelfStop d).nv = d.nv := by
  rw [seqSelfStop]; split
  · rw [fset_nv, drainBegins_nv, stopStrands_nv]
  · rfl
@[simp] theorem chipFatal_nv (d : Dev) : (chipFatal d).nv = d.nv := by
  rw [chipFatal, seqSelfStop_nv]; split
  · rw [raiseAbort_nv]
  · rfl
@[simp] theorem consequence_nv (d : Dev) (sev : Nat) : (consequence d sev).nv = d.nv := by
  unfold consequence; split
  · rw [stepFatal, raiseAbort_nv]
  · rw [chipFatal_nv]
  · exact chipFatal_nv d
  · rfl
@[simp] theorem raise_nv (d : Dev) (number sev src : Nat) (payload : List Nat) : (raise d number sev src payload).nv = d.nv := by
  simp only [raise, consequence_nv, post_nv]
@[simp] theorem stopStrands_nvNext (d : Dev) : (stopStrands d).nvNext = d.nvNext := by
  rw [stopStrands, withSeq_nvNext]; split
  · rw [fset_nvNext]
  · rfl
@[simp] theorem seqSelfStop_nvNext (d : Dev) : (seqSelfStop d).nvNext = d.nvNext := by
  rw [seqSelfStop]; split
  · rw [fset_nvNext, drainBegins_nvNext, stopStrands_nvNext]
  · rfl
@[simp] theorem chipFatal_nvNext (d : Dev) : (chipFatal d).nvNext = d.nvNext := by
  rw [chipFatal, seqSelfStop_nvNext]; split
  · rw [raiseAbort_nvNext]
  · rfl
@[simp] theorem consequence_nvNext (d : Dev) (sev : Nat) : (consequence d sev).nvNext = d.nvNext := by
  unfold consequence; split
  · rw [stepFatal, raiseAbort_nvNext]
  · rw [chipFatal_nvNext]
  · exact chipFatal_nvNext d
  · rfl
@[simp] theorem raise_nvNext (d : Dev) (number sev src : Nat) (payload : List Nat) : (raise d number sev src payload).nvNext = d.nvNext := by
  simp only [raise, consequence_nvNext, post_nvNext]
@[simp] theorem stopStrands_obs (d : Dev) : (stopStrands d).obs = d.obs := by
  rw [stopStrands, withSeq_obs]; split
  · rw [fset_obs]
  · rfl
@[simp] theorem seqSelfStop_obs (d : Dev) : (seqSelfStop d).obs = d.obs := by
  rw [seqSelfStop]; split
  · rw [fset_obs, drainBegins_obs, stopStrands_obs]
  · rfl
@[simp] theorem chipFatal_obs (d : Dev) : (chipFatal d).obs = d.obs := by
  rw [chipFatal, seqSelfStop_obs]; split
  · rw [raiseAbort_obs]
  · rfl
@[simp] theorem consequence_obs (d : Dev) (sev : Nat) : (consequence d sev).obs = d.obs := by
  unfold consequence; split
  · rw [stepFatal, raiseAbort_obs]
  · rw [chipFatal_obs]
  · exact chipFatal_obs d
  · rfl
@[simp] theorem raise_obs (d : Dev) (number sev src : Nat) (payload : List Nat) : (raise d number sev src payload).obs = d.obs := by
  simp only [raise, consequence_obs, post_obs]
@[simp] theorem stopStrands_tables (d : Dev) : (stopStrands d).tables = d.tables := by
  rw [stopStrands, withSeq_tables]; split
  · rw [fset_tables]
  · rfl
@[simp] theorem seqSelfStop_tables (d : Dev) : (seqSelfStop d).tables = d.tables := by
  rw [seqSelfStop]; split
  · rw [fset_tables, drainBegins_tables, stopStrands_tables]
  · rfl
@[simp] theorem chipFatal_tables (d : Dev) : (chipFatal d).tables = d.tables := by
  rw [chipFatal, seqSelfStop_tables]; split
  · rw [raiseAbort_tables]
  · rfl
@[simp] theorem consequence_tables (d : Dev) (sev : Nat) : (consequence d sev).tables = d.tables := by
  unfold consequence; split
  · rw [stepFatal, raiseAbort_tables]
  · rw [chipFatal_tables]
  · exact chipFatal_tables d
  · rfl
@[simp] theorem raise_tables (d : Dev) (number sev src : Nat) (payload : List Nat) : (raise d number sev src payload).tables = d.tables := by
  simp only [raise, consequence_tables, post_tables]
@[simp] theorem stopStrands_cas (d : Dev) : (stopStrands d).cas = d.cas := by
  rw [stopStrands, withSeq_cas]; split
  · rw [fset_cas]
  · rfl
@[simp] theorem seqSelfStop_cas (d : Dev) : (seqSelfStop d).cas = d.cas := by
  rw [seqSelfStop]; split
  · rw [fset_cas, drainBegins_cas, stopStrands_cas]
  · rfl
@[simp] theorem chipFatal_cas (d : Dev) : (chipFatal d).cas = d.cas := by
  rw [chipFatal, seqSelfStop_cas]; split
  · rw [raiseAbort_cas]
  · rfl
@[simp] theorem consequence_cas (d : Dev) (sev : Nat) : (consequence d sev).cas = d.cas := by
  unfold consequence; split
  · rw [stepFatal, raiseAbort_cas]
  · rw [chipFatal_cas]
  · exact chipFatal_cas d
  · rfl
@[simp] theorem raise_cas (d : Dev) (number sev src : Nat) (payload : List Nat) : (raise d number sev src payload).cas = d.cas := by
  simp only [raise, consequence_cas, post_cas]
@[simp] theorem stopStrands_jet (d : Dev) : (stopStrands d).jet = d.jet := by
  rw [stopStrands, withSeq_jet]; split
  · rw [fset_jet]
  · rfl
@[simp] theorem seqSelfStop_jet (d : Dev) : (seqSelfStop d).jet = d.jet := by
  rw [seqSelfStop]; split
  · rw [fset_jet, drainBegins_jet, stopStrands_jet]
  · rfl
@[simp] theorem chipFatal_jet (d : Dev) : (chipFatal d).jet = d.jet := by
  rw [chipFatal, seqSelfStop_jet]; split
  · rw [raiseAbort_jet]
  · rfl
@[simp] theorem consequence_jet (d : Dev) (sev : Nat) : (consequence d sev).jet = d.jet := by
  unfold consequence; split
  · rw [stepFatal, raiseAbort_jet]
  · rw [chipFatal_jet]
  · exact chipFatal_jet d
  · rfl
@[simp] theorem raise_jet (d : Dev) (number sev src : Nat) (payload : List Nat) : (raise d number sev src payload).jet = d.jet := by
  simp only [raise, consequence_jet, post_jet]
@[simp] theorem stopStrands_ast (d : Dev) : (stopStrands d).ast = d.ast := by
  rw [stopStrands, withSeq_ast]; split
  · rw [fset_ast]
  · rfl
@[simp] theorem seqSelfStop_ast (d : Dev) : (seqSelfStop d).ast = d.ast := by
  rw [seqSelfStop]; split
  · rw [fset_ast, drainBegins_ast, stopStrands_ast]
  · rfl
@[simp] theorem chipFatal_ast (d : Dev) : (chipFatal d).ast = d.ast := by
  rw [chipFatal, seqSelfStop_ast]; split
  · rw [raiseAbort_ast]
  · rfl
@[simp] theorem consequence_ast (d : Dev) (sev : Nat) : (consequence d sev).ast = d.ast := by
  unfold consequence; split
  · rw [stepFatal, raiseAbort_ast]
  · rw [chipFatal_ast]
  · exact chipFatal_ast d
  · rfl
@[simp] theorem raise_ast (d : Dev) (number sev src : Nat) (payload : List Nat) : (raise d number sev src payload).ast = d.ast := by
  simp only [raise, consequence_ast, post_ast]
@[simp] theorem stopStrands_ephRes (d : Dev) : (stopStrands d).ephRes = d.ephRes := by
  rw [stopStrands, withSeq_ephRes]; split
  · rw [fset_ephRes]
  · rfl
@[simp] theorem seqSelfStop_ephRes (d : Dev) : (seqSelfStop d).ephRes = d.ephRes := by
  rw [seqSelfStop]; split
  · rw [fset_ephRes, drainBegins_ephRes, stopStrands_ephRes]
  · rfl
@[simp] theorem chipFatal_ephRes (d : Dev) : (chipFatal d).ephRes = d.ephRes := by
  rw [chipFatal, seqSelfStop_ephRes]; split
  · rw [raiseAbort_ephRes]
  · rfl
@[simp] theorem consequence_ephRes (d : Dev) (sev : Nat) : (consequence d sev).ephRes = d.ephRes := by
  unfold consequence; split
  · rw [stepFatal, raiseAbort_ephRes]
  · rw [chipFatal_ephRes]
  · exact chipFatal_ephRes d
  · rfl
@[simp] theorem raise_ephRes (d : Dev) (number sev src : Nat) (payload : List Nat) : (raise d number sev src payload).ephRes = d.ephRes := by
  simp only [raise, consequence_ephRes, post_ephRes]
@[simp] theorem stopStrands_rvrUse (d : Dev) : (stopStrands d).rvrUse = d.rvrUse := by
  rw [stopStrands, withSeq_rvrUse]; split
  · rw [fset_rvrUse]
  · rfl
@[simp] theorem seqSelfStop_rvrUse (d : Dev) : (seqSelfStop d).rvrUse = d.rvrUse := by
  rw [seqSelfStop]; split
  · rw [fset_rvrUse, drainBegins_rvrUse, stopStrands_rvrUse]
  · rfl
@[simp] theorem chipFatal_rvrUse (d : Dev) : (chipFatal d).rvrUse = d.rvrUse := by
  rw [chipFatal, seqSelfStop_rvrUse]; split
  · rw [raiseAbort_rvrUse]
  · rfl
@[simp] theorem consequence_rvrUse (d : Dev) (sev : Nat) : (consequence d sev).rvrUse = d.rvrUse := by
  unfold consequence; split
  · rw [stepFatal, raiseAbort_rvrUse]
  · rw [chipFatal_rvrUse]
  · exact chipFatal_rvrUse d
  · rfl
@[simp] theorem raise_rvrUse (d : Dev) (number sev src : Nat) (payload : List Nat) : (raise d number sev src payload).rvrUse = d.rvrUse := by
  simp only [raise, consequence_rvrUse, post_rvrUse]
@[simp] theorem stopStrands_eph (d : Dev) : (stopStrands d).eph = d.eph := by
  rw [stopStrands, withSeq_eph]; split
  · rw [fset_eph]
  · rfl
@[simp] theorem seqSelfStop_eph (d : Dev) : (seqSelfStop d).eph = d.eph := by
  rw [seqSelfStop]; split
  · rw [fset_eph, drainBegins_eph, stopStrands_eph]
  · rfl
@[simp] theorem chipFatal_eph (d : Dev) : (chipFatal d).eph = d.eph := by
  rw [chipFatal, seqSelfStop_eph]; split
  · rw [raiseAbort_eph]
  · rfl
@[simp] theorem consequence_eph (d : Dev) (sev : Nat) : (consequence d sev).eph = d.eph := by
  unfold consequence; split
  · rw [stepFatal, raiseAbort_eph]
  · rw [chipFatal_eph]
  · exact chipFatal_eph d
  · rfl
@[simp] theorem raise_eph (d : Dev) (number sev src : Nat) (payload : List Nat) : (raise d number sev src payload).eph = d.eph := by
  simp only [raise, consequence_eph, post_eph]
@[simp] theorem stopStrands_ril (d : Dev) : (stopStrands d).ril = d.ril := by
  rw [stopStrands, withSeq_ril]; split
  · rw [fset_ril]
  · rfl
@[simp] theorem seqSelfStop_ril (d : Dev) : (seqSelfStop d).ril = d.ril := by
  rw [seqSelfStop]; split
  · rw [fset_ril, drainBegins_ril, stopStrands_ril]
  · rfl
@[simp] theorem chipFatal_ril (d : Dev) : (chipFatal d).ril = d.ril := by
  rw [chipFatal, seqSelfStop_ril]; split
  · rw [raiseAbort_ril]
  · rfl
@[simp] theorem consequence_ril (d : Dev) (sev : Nat) : (consequence d sev).ril = d.ril := by
  unfold consequence; split
  · rw [stepFatal, raiseAbort_ril]
  · rw [chipFatal_ril]
  · exact chipFatal_ril d
  · rfl
@[simp] theorem raise_ril (d : Dev) (number sev src : Nat) (payload : List Nat) : (raise d number sev src payload).ril = d.ril := by
  simp only [raise, consequence_ril, post_ril]
@[simp] theorem stopStrands_wei (d : Dev) : (stopStrands d).wei = d.wei := by
  rw [stopStrands, withSeq_wei]; split
  · rw [fset_wei]
  · rfl
@[simp] theorem seqSelfStop_wei (d : Dev) : (seqSelfStop d).wei = d.wei := by
  rw [seqSelfStop]; split
  · rw [fset_wei, drainBegins_wei, stopStrands_wei]
  · rfl
@[simp] theorem chipFatal_wei (d : Dev) : (chipFatal d).wei = d.wei := by
  rw [chipFatal, seqSelfStop_wei]; split
  · rw [raiseAbort_wei]
  · rfl
@[simp] theorem consequence_wei (d : Dev) (sev : Nat) : (consequence d sev).wei = d.wei := by
  unfold consequence; split
  · rw [stepFatal, raiseAbort_wei]
  · rw [chipFatal_wei]
  · exact chipFatal_wei d
  · rfl
@[simp] theorem raise_wei (d : Dev) (number sev src : Nat) (payload : List Nat) : (raise d number sev src payload).wei = d.wei := by
  simp only [raise, consequence_wei, post_wei]
@[simp] theorem stopStrands_aqd (d : Dev) : (stopStrands d).aqd = d.aqd := by
  rw [stopStrands, withSeq_aqd]; split
  · rw [fset_aqd]
  · rfl
@[simp] theorem seqSelfStop_aqd (d : Dev) : (seqSelfStop d).aqd = d.aqd := by
  rw [seqSelfStop]; split
  · rw [fset_aqd, drainBegins_aqd, stopStrands_aqd]
  · rfl
@[simp] theorem chipFatal_aqd (d : Dev) : (chipFatal d).aqd = d.aqd := by
  rw [chipFatal, seqSelfStop_aqd]; split
  · rw [raiseAbort_aqd]
  · rfl
@[simp] theorem consequence_aqd (d : Dev) (sev : Nat) : (consequence d sev).aqd = d.aqd := by
  unfold consequence; split
  · rw [stepFatal, raiseAbort_aqd]
  · rw [chipFatal_aqd]
  · exact chipFatal_aqd d
  · rfl
@[simp] theorem raise_aqd (d : Dev) (number sev src : Nat) (payload : List Nat) : (raise d number sev src payload).aqd = d.aqd := by
  simp only [raise, consequence_aqd, post_aqd]
@[simp] theorem stopStrands_ports (d : Dev) : (stopStrands d).ports = d.ports := by
  rw [stopStrands, withSeq_ports]; split
  · rw [fset_ports]
  · rfl
@[simp] theorem seqSelfStop_ports (d : Dev) : (seqSelfStop d).ports = d.ports := by
  rw [seqSelfStop]; split
  · rw [fset_ports, drainBegins_ports, stopStrands_ports]
  · rfl
@[simp] theorem chipFatal_ports (d : Dev) : (chipFatal d).ports = d.ports := by
  rw [chipFatal, seqSelfStop_ports]; split
  · rw [raiseAbort_ports]
  · rfl
@[simp] theorem consequence_ports (d : Dev) (sev : Nat) : (consequence d sev).ports = d.ports := by
  unfold consequence; split
  · rw [stepFatal, raiseAbort_ports]
  · rw [chipFatal_ports]
  · exact chipFatal_ports d
  · rfl
@[simp] theorem raise_ports (d : Dev) (number sev src : Nat) (payload : List Nat) : (raise d number sev src payload).ports = d.ports := by
  simp only [raise, consequence_ports, post_ports]
@[simp] theorem stopStrands_ms (d : Dev) : (stopStrands d).ms = d.ms := by
  rw [stopStrands, withSeq_ms]; split
  · rw [fset_ms]
  · rfl
@[simp] theorem seqSelfStop_ms (d : Dev) : (seqSelfStop d).ms = d.ms := by
  rw [seqSelfStop]; split
  · rw [fset_ms, drainBegins_ms, stopStrands_ms]
  · rfl
@[simp] theorem chipFatal_ms (d : Dev) : (chipFatal d).ms = d.ms := by
  rw [chipFatal, seqSelfStop_ms]; split
  · rw [raiseAbort_ms]
  · rfl
@[simp] theorem consequence_ms (d : Dev) (sev : Nat) : (consequence d sev).ms = d.ms := by
  unfold consequence; split
  · rw [stepFatal, raiseAbort_ms]
  · rw [chipFatal_ms]
  · exact chipFatal_ms d
  · rfl
@[simp] theorem raise_ms (d : Dev) (number sev src : Nat) (payload : List Nat) : (raise d number sev src payload).ms = d.ms := by
  simp only [raise, consequence_ms, post_ms]
@[simp] theorem stopStrands_pwr (d : Dev) : (stopStrands d).pwr = d.pwr := by
  rw [stopStrands, withSeq_pwr]; split
  · rw [fset_pwr]
  · rfl
@[simp] theorem seqSelfStop_pwr (d : Dev) : (seqSelfStop d).pwr = d.pwr := by
  rw [seqSelfStop]; split
  · rw [fset_pwr, drainBegins_pwr, stopStrands_pwr]
  · rfl
@[simp] theorem chipFatal_pwr (d : Dev) : (chipFatal d).pwr = d.pwr := by
  rw [chipFatal, seqSelfStop_pwr]; split
  · rw [raiseAbort_pwr]
  · rfl
@[simp] theorem consequence_pwr (d : Dev) (sev : Nat) : (consequence d sev).pwr = d.pwr := by
  unfold consequence; split
  · rw [stepFatal, raiseAbort_pwr]
  · rw [chipFatal_pwr]
  · exact chipFatal_pwr d
  · rfl
@[simp] theorem raise_pwr (d : Dev) (number sev src : Nat) (payload : List Nat) : (raise d number sev src payload).pwr = d.pwr := by
  simp only [raise, consequence_pwr, post_pwr]
@[simp] theorem stopStrands_tst (d : Dev) : (stopStrands d).tst = d.tst := by
  rw [stopStrands, withSeq_tst]; split
  · rw [fset_tst]
  · rfl
@[simp] theorem seqSelfStop_tst (d : Dev) : (seqSelfStop d).tst = d.tst := by
  rw [seqSelfStop]; split
  · rw [fset_tst, drainBegins_tst, stopStrands_tst]
  · rfl
@[simp] theorem chipFatal_tst (d : Dev) : (chipFatal d).tst = d.tst := by
  rw [chipFatal, seqSelfStop_tst]; split
  · rw [raiseAbort_tst]
  · rfl
@[simp] theorem consequence_tst (d : Dev) (sev : Nat) : (consequence d sev).tst = d.tst := by
  unfold consequence; split
  · rw [stepFatal, raiseAbort_tst]
  · rw [chipFatal_tst]
  · exact chipFatal_tst d
  · rfl
@[simp] theorem raise_tst (d : Dev) (number sev src : Nat) (payload : List Nat) : (raise d number sev src payload).tst = d.tst := by
  simp only [raise, consequence_tst, post_tst]
@[simp] theorem stopStrands_mgt (d : Dev) : (stopStrands d).mgt = d.mgt := by
  rw [stopStrands, withSeq_mgt]; split
  · rw [fset_mgt]
  · rfl
@[simp] theorem seqSelfStop_mgt (d : Dev) : (seqSelfStop d).mgt = d.mgt := by
  rw [seqSelfStop]; split
  · rw [fset_mgt, drainBegins_mgt, stopStrands_mgt]
  · rfl
@[simp] theorem chipFatal_mgt (d : Dev) : (chipFatal d).mgt = d.mgt := by
  rw [chipFatal, seqSelfStop_mgt]; split
  · rw [raiseAbort_mgt]
  · rfl
@[simp] theorem consequence_mgt (d : Dev) (sev : Nat) : (consequence d sev).mgt = d.mgt := by
  unfold consequence; split
  · rw [stepFatal, raiseAbort_mgt]
  · rw [chipFatal_mgt]
  · exact chipFatal_mgt d
  · rfl
@[simp] theorem raise_mgt (d : Dev) (number sev src : Nat) (payload : List Nat) : (raise d number sev src payload).mgt = d.mgt := by
  simp only [raise, consequence_mgt, post_mgt]

/-- Raising a record changes, of the registers, only reporting ones and those of the sequencers and the capture, which a
fatal severity stops (R79, R86, R565). -/
def isRaise (a : Nat) : Bool := isReport a || these [A.SEQ_STS 0, A.SEQ_CTL 0, A.TST_CAPSTS] a

theorem isRaise_of {a : Nat} (h : isRaise a = false) : isReport a = false := by
  simp only [isRaise, Bool.or_eq_false_iff] at h; exact h.1

theorem keepsRegs_stopStrands (d : Dev) : keepsRegs isRaise d (stopStrands d) := by
  have h : keepsRegs isRaise d (if d.seq.stepbHeld then fset d A.TST_CAPSTS F.TST_CAPSTS_STATE 1 else d) := by
    split
    · exact keepsRegs_fset _ _ _ _ (by decide)
    · exact keepsRegs.refl _ _
  exact h.trans (keepsRegs_of_regs rfl)

theorem keepsRegs_seqSelfStop (d : Dev) : keepsRegs isRaise d (seqSelfStop d) := by
  simp only [seqSelfStop]
  split
  · refine keepsRegs.trans ?_ (keepsRegs_fset _ _ _ _ (by decide))
    refine (keepsRegs_stopStrands d).trans ?_
    exact (keepsRegs_of_regs rfl).trans (keepsRegs_fset _ _ _ _ (by decide))
  · exact keepsRegs.refl _ _

theorem keepsRegs_consequence (d : Dev) (sev : Nat) : keepsRegs isRaise d (consequence d sev) := by
  unfold consequence; split
  · exact keepsRegs_of_regs rfl
  · rw [chipFatal]; split
    · exact keepsRegs.trans (keepsRegs_of_regs rfl) (keepsRegs_seqSelfStop _)
    · exact keepsRegs_seqSelfStop _
  · split
    · exact keepsRegs.trans (keepsRegs_of_regs rfl) (keepsRegs_seqSelfStop _)
    · exact keepsRegs_seqSelfStop _
  · exact keepsRegs.refl _ _

theorem keepsRegs_raise (d : Dev) (number sev src : Nat) (payload : List Nat) :
    keepsRegs isRaise d (raise d number sev src payload) :=
  ((onlyHst_post d number sev src payload).2.weaken fun _ => isRaise_of).trans (keepsRegs_consequence _ _)

/-- Below step-fatal a record has no further consequence (R565). -/
theorem raise_minor (d : Dev) (number sev src : Nat) (payload : List Nat) (h : sev < 2) :
    raise d number sev src payload = post d number sev src payload := by
  simp only [raise, consequence]
  split <;> first | rfl | omega

end Sys2Proof.Machine
end

