-- ==== Sys2Proof/Laws/Flow.lean ====
section
/-! SUPPORT. A bundle that holds one CTL op and nothing else: what its half-words read as, and that its other slots do
nothing. -/

namespace Sys2Proof.Machine

theorem bits_of_testBit_false {n hi lo : Nat} (h : ∀ i, lo ≤ i → i ≤ hi → n.testBit i = false) : bits n hi lo = 0 := by
  apply Nat.eq_of_testBit_eq
  intro i
  rw [testBit_bits, Nat.zero_testBit]
  by_cases hi' : i < hi + 1 - lo
  · rw [h (lo + i) (by omega) (by omega)]; simp
  · simp [hi']

/-- The bits of a 64-bit word with a number put above bit `k`. -/
theorem testBit_above (w : BitVec 64) (c k i : Nat) (hk : 64 ≤ k) :
    (w.toNat + c <<< k).testBit i = if i < 64 then w.toNat.testBit i else decide (k ≤ i) && c.testBit (i - k) := by
  have hc : w.toNat < 2 ^ k := lt_of_lt_of_le w.isLt (Nat.pow_le_pow_right (by omega) hk)
  rw [Nat.shiftLeft_eq, Nat.mul_comm, Nat.add_comm, Nat.testBit_two_pow_mul_add _ hc]
  by_cases h1 : i < 64
  · rw [if_pos (by omega), if_pos h1]
  · have h0 : w.toNat.testBit i = false :=
      Nat.testBit_lt_two_pow (lt_of_lt_of_le w.isLt (Nat.pow_le_pow_right (by omega) (by omega)))
    rw [if_neg h1]
    by_cases h2 : i < k
    · rw [if_pos h2, h0]; simp; omega
    · rw [if_neg h2]; simp; omega

/-- The bits of a half-word that holds a CTL op and a class. -/
theorem testBit_ctlOnly (s : StrandId) (op : CtlOp) (i : Nat) :
    (ctlOnly s op).testBit i
      = if i < 64 then (encodeCtl op).toNat.testBit i else decide (i = 1016) && decide (s ≠ .main) := by
  have h1 : ∀ j, Nat.testBit 1 j = decide (j = 0) := fun j => by cases j <;> simp [Nat.testBit_succ]
  unfold ctlOnly
  generalize hk : (1016 : Nat) = k
  have hk' : 64 ≤ k := by omega
  rw [testBit_above _ _ _ _ hk']
  by_cases h : i < 64
  · rw [if_pos h, if_pos h]
  · rw [if_neg h, if_neg h]
    cases s
    · simp only [Nat.zero_testBit, Bool.and_false, ne_eq, not_true_eq_false, decide_false]
    · simp only [h1, ne_eq, reduceCtorEq, not_false_eq_true, decide_true, Bool.and_true]
      rw [← Bool.decide_and]; exact decide_eq_decide.2 (by omega)
    · simp only [h1, ne_eq, reduceCtorEq, not_false_eq_true, decide_true, Bool.and_true]
      rw [← Bool.decide_and]; exact decide_eq_decide.2 (by omega)

theorem ctlOnly_slot (s : StrandId) (op : CtlOp) (hi lo : Nat) (h1 : 64 ≤ lo) (h2 : hi < 1016) :
    bits (ctlOnly s op) hi lo = 0 := by
  apply bits_of_testBit_false
  intro i hl hh
  rw [testBit_ctlOnly, if_neg (by omega)]
  have : i ≠ 1016 := by omega
  simp [this]

@[simp] theorem hwCtl_ctlOnly (s : StrandId) (op : CtlOp) : hwCtl (ctlOnly s op) = (encodeCtl op).toNat := by
  apply Nat.eq_of_testBit_eq
  intro i
  rw [hwCtl, testBit_bits, Nat.zero_add, testBit_ctlOnly]
  by_cases h : i < 64
  · simp [h]
  · have : (encodeCtl op).toNat.testBit i = false :=
      Nat.testBit_lt_two_pow (lt_of_lt_of_le (encodeCtl op).isLt (Nat.pow_le_pow_right (by omega) (by omega)))
    simp [h, this]

@[simp] theorem hwRepeat_ctlOnly (s : StrandId) (op : CtlOp) : hwRepeat (ctlOnly s op) = 0 :=
  ctlOnly_slot s op _ _ (by omega) (by omega)

@[simp] theorem hwClass_ctlOnly (s : StrandId) (op : CtlOp) : hwClass (ctlOnly s op) = if s = .main then 0 else 1 := by
  apply Nat.eq_of_testBit_eq
  intro i
  rw [hwClass, testBit_bits, testBit_ctlOnly, if_neg (by omega)]
  by_cases hi : i = 0
  · subst hi; cases s <;> rfl
  · have h1 : ¬ 1016 + i = 1016 := by omega
    obtain ⟨j, rfl⟩ : ∃ j, i = j + 1 := ⟨i - 1, by omega⟩
    cases s <;> simp [Nat.testBit_succ]

@[simp] theorem hwCas_ctlOnly (s : StrandId) (op : CtlOp) {t : Nat} (h : t < 8) : hwCas (ctlOnly s op) t = 0 :=
  ctlOnly_slot s op _ _ (by omega) (by omega)
@[simp] theorem hwJet_ctlOnly (s : StrandId) (op : CtlOp) {t : Nat} (h : t < 8) : hwJet (ctlOnly s op) t = 0 :=
  ctlOnly_slot s op _ _ (by omega) (by omega)
@[simp] theorem hwRil_ctlOnly (s : StrandId) (op : CtlOp) {p : Nat} (h : p < 2) : hwRil (ctlOnly s op) p = 0 :=
  ctlOnly_slot s op _ _ (by omega) (by omega)
@[simp] theorem hwAqd_ctlOnly (s : StrandId) (op : CtlOp) {p : Nat} (h : p < 2) : hwAqd (ctlOnly s op) p = 0 :=
  ctlOnly_slot s op _ _ (by omega) (by omega)
@[simp] theorem hwWei_ctlOnly (s : StrandId) (op : CtlOp) : hwWei (ctlOnly s op) = 0 :=
  ctlOnly_slot s op _ _ (by omega) (by omega)
@[simp] theorem hwEph_ctlOnly (s : StrandId) (op : CtlOp) : hwEph (ctlOnly s op) = 0 :=
  ctlOnly_slot s op _ _ (by omega) (by omega)
@[simp] theorem hwAst_ctlOnly (s : StrandId) (op : CtlOp) : hwAst (ctlOnly s op) = 0 :=
  ctlOnly_slot s op _ _ (by omega) (by omega)

theorem extract_append_lo {n m : Nat} (x : BitVec n) (y : BitVec m) (s l : Nat) (h : s + l ≤ m) :
    (x ++ y).extractLsb' s l = y.extractLsb' s l := by
  apply BitVec.eq_of_getLsbD_eq
  intro i hi
  simp only [BitVec.getLsbD_extractLsb', BitVec.getLsbD_append]
  rw [if_pos (by omega)]

theorem extract_append_hi {n m : Nat} (x : BitVec n) (y : BitVec m) (s l : Nat) (h : m ≤ s) :
    (x ++ y).extractLsb' s l = x.extractLsb' (s - m) l := by
  apply BitVec.eq_of_getLsbD_eq
  intro i hi
  simp only [BitVec.getLsbD_extractLsb', BitVec.getLsbD_append]
  rw [if_neg (by omega), show s + i - m = s - m + i by omega]

theorem extract_all {n : Nat} (x : BitVec n) : x.extractLsb' 0 n = x := by simp

/-- A CTL word spells the op it was made from (R48). -/
theorem decode_encode_ctl (op : CtlOp) : decodeCtl (encodeCtl op) = some op := by
  cases op
  all_goals
    simp (disch := omega) only [encodeCtl, decodeCtl, extract_append_lo, extract_append_hi, extract_all,
      BitVec.toNat_ofNat, Nat.reduceMod, Nat.reducePow, Nat.reduceSub, Nat.sub_self, and_self, if_true]
    try rfl
@[simp] theorem ctlOf_ctlOnly (s : StrandId) (op : CtlOp) : ctlOf (ctlOnly s op) = some op := by
  rw [ctlOf, hwCtl_ctlOnly, BitVec.ofNat_toNat, BitVec.setWidth_eq, decode_encode_ctl]

theorem foldl_id {β : Type} (l : List β) (g : Dev → β → Dev) (h : ∀ d b, b ∈ l → g d b = d) (d : Dev) :
    l.foldl g d = d := by
  induction l with
  | nil => rfl
  | cons b r ih => rw [List.foldl_cons, h d b (by simp), ih (fun d c hc => h d c (by simp [hc]))]

/-- The slots of a bundle that holds CTL ops alone do nothing. -/
theorem issueSlots_ctlOnly (d : Dev) (s : StrandId) (ecc : List Ecc) (oa ob : CtlOp) :
    issueSlots d s ecc (ctlOnly s oa) (ctlOnly s ob) = d := by
  have hh : ∀ (d : Dev) (iss : Issue) (op : CtlOp), halfSlots d iss (ctlOnly s op) = d := by
    intro d iss op
    have h1 := foldl_id (List.range 8) (fun d t => slotCas d iss t (hwCas (ctlOnly s op) t))
      (fun d t ht => by simp [slotCas, hwCas_ctlOnly s op (List.mem_range.1 ht)])
    have h2 := foldl_id (List.range 8) (fun d t => slotJet d (if hwCas (ctlOnly s op) t = 0 then iss else
        { iss with ecc := [] }) t (hwJet (ctlOnly s op) t))
      (fun d t ht => by simp [slotJet, hwJet_ctlOnly s op (List.mem_range.1 ht)])
    simp only [halfSlots, h1, h2]
    simp [slotAst, slotRil, slotAqd, slotWei]
  simp only [issueSlots, hh]
  simp [slotEph]

/-- Nothing is queued by it, so no queue holds it back (R40). -/
@[simp] theorem queuesOk_ctlOnly (d : Dev) (h : Nat) (s : StrandId) (op : CtlOp) : queuesOk d h (ctlOnly s op) = true := by
  simp [queuesOk]

end Sys2Proof.Machine
end

