-- ==== Sys2Proof/Tests/Slice0.lean ====
section
/-! SUPPORT. Tests of one step on small states, and for every statement with hypotheses a state and operands that meet
them together. Expected values come from the spec's text and its examples, or from hand calculation. -/

namespace Sys2Proof.Tests
set_option Elab.async false
open Sys2Proof Sys2Proof.Machine

/-! ### Well-formed commands: one ill-formed term for each check -/

def msg0 : Msg := ⟨0, 0, 0, 0, 0, false, 0, 0, 0, 0, []⟩
def boot0 : BootIn := ⟨false, 0#2, true, [], [], false, false⟩

theorem test_wf_write_empty : (Instr.registerWrite 0 true 0 []).wf = false := by decide
theorem test_wf_write : (Instr.registerWrite 0 true 0 [1#8, 0#8, 0#8, 0#8]).wf = true := by decide
theorem test_wf_block_ril : (Instr.blockEnable 0 (.ril 4096)).wf = false ∧ (Instr.blockEnable 0 (.ril 4095)).wf = true := by
  decide
theorem test_wf_block_aqd : (Instr.blockDisable 0 (.aqd .A 32)).wf = false := by decide
theorem test_wf_block_hrm : (Instr.drainComplete 0 (.hrm 8)).wf = false := by decide
theorem test_wf_block_ring : (Instr.drainTimeout 0 (.ring 256)).wf = false := by decide
theorem test_wf_window_empty : (Instr.basinWindowWrite 0 []).wf = false := by decide
theorem test_wf_msg : (Instr.slabArrival 0 0 msg0).wf = true ∧ (Instr.slabArrival 0 0 { msg0 with vc := 6 }).wf = false ∧
    (Instr.credArrival 0 0 { msg0 with dchip := 16384 }).wf = false ∧
    (Instr.openArrival 0 0 { msg0 with schip := 16384 }).wf = false ∧
    (Instr.ident 0 0 { msg0 with mtype := 16 }).wf = false ∧
    (Instr.messageForward 0 0 { msg0 with lepoch := 65536 }).wf = false ∧
    (Instr.rdreq 0 0 { msg0 with ttl := 256 } []).wf = false ∧
    (Instr.wrreq 0 0 { msg0 with w1 := 2 ^ 64 } []).wf = false ∧
    (Instr.rdrsp 0 0 { msg0 with w2 := 2 ^ 64 }).wf = false ∧
    (Instr.wrack 0 0 { msg0 with hi := 2 ^ 32 }).wf = false := by decide
theorem test_wf_request : (Instr.memoryAccess 0 0 (.read 0) []).wf = false ∧
    (Instr.memoryAccess 0 0 (.write []) []).wf = false ∧ (Instr.bar4Access 0 0 (.read 0) [] []).wf = false := by decide
theorem test_wf_atomic : (Instr.poolAtomic 0 0 0 [] false).wf = false ∧
    (Instr.poolAtomic 0 0 0 (List.replicate 129 0) false).wf = false ∧
    (Instr.poolAtomic 0 0 0 (List.replicate 128 0) false).wf = true := by decide +kernel
theorem test_wf_lanes : (Instr.testEnd 0 0 (List.replicate 17 none)).wf = false := by decide
theorem test_wf_flit : (Instr.flitReceive 0 0 [0#8]).wf = false := by decide
theorem test_wf_frame : (Instr.frameReceive 0 0 [0]).wf = false := by decide
theorem test_wf_idle : (Instr.idleReceive 0 0 [0#8]).wf = false := by decide
theorem test_wf_boot : (Instr.vauxRise 0 { boot0 with spares := [(8192, 1)] }).wf = false ∧
    (Instr.vauxRise 0 { boot0 with spares := [(8191, 1)] }).wf = true := by decide
theorem test_wf_descriptor : (Instr.dataDescriptorFetch 0 0 (some [0#8])).wf = false := by decide

/-! ### States to test on -/

/-- The package right after reset, and at the time of a command that reaches it at array cycle 0. -/
def r0 : Dev := Dev.reset
def ob (d : Dev) : Dev := observe d 0
def tk (d : Dev) : Dev := tick d 0
def st (d : Dev) : Dev := settle (tick d 0)
def so (d : Dev) : Dev := settle (observe d 0)
def lc (d : Dev) : Dev := landCommits (settle (tick d 0))

/-- A state around a package. -/
def mk (d : Dev) : State := ⟨d, []⟩

/-- The package at a later array cycle. -/
def later (n : Nat) (d : Dev) : Dev := { d with now := n }

/-- The package with a block RUNNING. -/
def runs (b : Blk) (d : Dev) : Dev := fset d (stsAddr b) F.STATE 1

/-- The package with a block DRAINING. -/
def drains (b : Blk) (d : Dev) : Dev := fset d (stsAddr b) F.STATE 2

/-- The package of an outcome. -/
def devOf : Host.Outcome State Fault Refusal → Dev
  | .next s => s.dev
  | _ => r0

/-- The package after one command. -/
def after (c : Instr) (d : Dev) : Dev := devOf (exec c (mk d))

theorem test_wf_msg_data : ({ msg0 with data := List.replicate (2 ^ 32) 0 } : Msg).wf = false := by
  simp [Msg.wf, -List.reduceReplicate]

/-- A ready machine is sound, and so is the one right after reset. -/
theorem witness_sound : (mk r0).wf = true := by decide

/-! ### Blocks (R23 to R29): states that meet the statements' hypotheses -/

theorem witness_enable : pstate (ob r0) = 0 ∧ blkState (ob r0) (.cas .A) = 0 ∧ blkState (ob (drains (.jet .B) r0)) (.jet .B) = 2 ∧
    blkState (ob (runs (.ring 255) r0)) (.ring 255) = 1 ∧ pstate (ob (fset r0 A.PWR_STS F.PWR_STS_PSTATE 2)) ≠ 0 ∧
    (Blk.ring 255).wf = true := by decide

theorem witness_disable : blkState (ob (runs .eph r0)) .eph = 1 ∧ blkState (ob (drains (.ril 4095) r0)) (.ril 4095) = 2 ∧
    blkState (ob (runs .seq r0)) .seq = 1 ∧ blkState (ob r0) .col = 0 := by decide

/-- The ephemeris drains within one sequencer cycle, which at time 0 is not over and at array cycle 2 is. -/
theorem witness_drain : blkState (ob (drains .eph r0)) .eph = 2 ∧ fget (ob (drains .eph r0)) (stsAddr .eph) F.PEND = 0 ∧
    (ob (drains .eph r0)).hst.flr = false ∧ drained (ob (drains .eph r0)) .eph = false ∧
    drained (ob (later 2 (drains .eph r0))) .eph = true ∧
    sget 0 (stsAddr .eph) (ob (later 2 (drains .eph r0))).drainAt + drainBound (ob (later 2 (drains .eph r0))) .eph
      ≤ (ob (later 2 (drains .eph r0))).now := by decide

def casPend : Dev := fset (drains (.cas .A) r0) (stsAddr (.cas .A)) F.PEND 1
theorem witness_pending_start : blkState (ob casPend) (.cas .A) = 2 ∧ fget (ob casPend) (stsAddr (.cas .A)) F.PEND = 1 ∧
    drained (ob casPend) (.cas .A) = true ∧ (ob casPend).hst.flr = false := by decide

theorem test_enable_starts : blkState (after (.blockEnable 0 (.ast .B)) r0) (.ast .B) = 1 ∧
    fget (after (.blockEnable 0 (.ast .B)) r0) (stsAddr (.ast .B)) F.RUNGEN = 1 := by decide
theorem test_pending_start : blkState (after (.drainComplete 0 (.cas .A)) casPend) (.cas .A) = 1 ∧
    fget (after (.drainComplete 0 (.cas .A)) casPend) (stsAddr (.cas .A)) F.DRAINED = 1 := by decide

/-! ### The sequencers (02) -/

/-- An event on its way: due at once, and due later. -/
theorem witness_observation : ({ r0 with pend := [⟨0, .rillOcc 3, 7⟩] } : Dev).pend = [⟨0, .rillOcc 3, 7⟩] ∧
    (0 : Nat) ≤ max ({ r0 with pend := [⟨0, .rillOcc 3, 7⟩] } : Dev).now 0 ∧
    max ({ r0 with pend := [⟨1, .rillOcc 3, 7⟩] } : Dev).now 0 < 1 := by decide

/-- The pair RUNNING, its main strand at bundle 5 of an image of one page. -/
def seqAt (n : Nat) : Dev := setSeq (runs .seq r0) (fun q => { q with main := { q.main with on := true, spc := n } })
def flow : Dev := seqAt 5

/-- A stack range of 32 usable channels a stack, so that images and tables lie inside it. -/
def allCh (d : Dev) : Dev :=
  [(0, 0), (0, 1), (0, 2), (0, 3), (1, 0), (1, 1), (1, 2), (1, 3)].foldl
    (fun d e => fset d (A.STK_CAP e.1 e.2) F.STK_CAP_NCH 32) d

theorem witness_seq_start : pstate (ob (allCh r0)) = 0 ∧ blkState (ob (allCh r0)) .seq = 0 ∧
    scrubbing (ob (allCh r0)) = false ∧ fget (ob (allCh r0)) A.TST_STS F.TST_STS_INTRUSIVE = 0 ∧
    (ob (allCh r0)).ms.marks = [] ∧ badImages (ob (allCh r0)) = [] ∧
    (startTables (ob (allCh r0))).all (fun e => inStacks (ob (allCh r0)) e.1 e.2) = true := by decide

theorem witness_ctl_ready : ctlReady (ob flow) .main := by unfold ctlReady; decide
theorem witness_flow_ready : flowReady (ob flow) := ⟨witness_ctl_ready, by decide⟩
theorem witness_flow_ops : (ob flow).seq.main.loops.length < 8 ∧
    (ob flow).seq.main.spc + 1 + (BitVec.ofNat 20 2041).toNat < imgBound (ob flow) ∧
    (2047 : Nat) < imgBound (ob flow) ∧ targetInScope (ob flow) .main 2047 = true ∧ (ob flow).seq.calls.length < 8 := by
  decide

/-- One call deep. -/
def called : Dev := setSeq flow (fun q => { q with calls := [(9, 0)] })
theorem witness_ret : (ob called).seq.calls = (9, (ob called).seq.main.loops.length) :: [] := by decide
theorem witness_ret_ready : flowReady (ob called) := by unfold flowReady ctlReady; decide
theorem test_loop : (after (.loop 0 .main 3#24 2#20) flow).seq.main.loops = [⟨6, 2, 3, 0⟩] := by decide
theorem test_brc_not_taken : (after (.brc 0 .main 0#3 0#2 1#24 100#28) flow).seq.main.spc = 6 := by decide
theorem test_ret : (after (.ret 0 .main) called).seq.main.spc = 9 := by decide

/-- A wait that is satisfied and one that is not. -/
theorem witness_waits : waitOk (ob flow) 0 .main (.awaitr 0#1 0#12 0#16) = true ∧
    waitOk (ob flow) 0 .main (.awaitr 0#1 0#12 1#16) = false ∧
    waitOk (ob flow) 1 .main (.awaita 0#5 0#8) = true ∧ waitOk (ob flow) 0 .main (.sida 0#56) = true ∧
    waitOk (ob flow) 0 .main (.sida 1#56) = false ∧ waitOk (ob flow) 0 .main (.sidr 1#32) = false ∧
    waitOk (ob flow) 0 .main (.delay 0#24) = true ∧ waitOk (ob flow) 0 .main (.delay 1#24) = false := by decide
def segRuns : Dev := setSeq (runs .seq r0) (fun q => { q with segB := { q.segB with on := true } })
theorem witness_ctl_ready_segment : ctlReady (ob segRuns) .segB := by unfold ctlReady; decide
theorem test_delay_holds : (after (.delay 0 .main .A 1#24) flow).seq.main.held = some (0, 0) := by decide

/-- A descriptor shown as arrived on ring 7. -/
def arrived : Dev := { flow with obs := [(.ringArr 7, 1)] }
theorem witness_awaitq : liveGet (ob arrived) (A.HST_RCFG 7) F.HST_RCFG_KIND = 0 ∧ ringHolds (ob arrived) 7 = true ∧
    ringHolds (ob arrived) 8 = false := by decide
theorem witness_awaitq_ready : ctlReady (ob arrived) .main := by unfold ctlReady; decide
theorem test_awaitq : fget (after (.awaitq 0 .main 7#8) arrived) (A.HST_RIDX 7) F.HST_RIDX_DEVIDX = 1 := by decide

theorem witness_stepb : (ob flow).seq.main.loops = [] ∧ (ob flow).seq.calls = [] ∧ (ob flow).seq.stepOpen = false ∧
    (ob flow).seq.reclaimSeen = false ∧ (ob flow).seq.holdSeen = false ∧ (ob flow).seq.stepbHeld = false ∧
    fget (ob flow) A.TST_CAPSTS F.TST_CAPSTS_STATE ≠ 1 ∧ (ob flow).seq.abortNext ≠ some (curStep (ob flow)) := by decide
def sidaDone : Dev := setSeq flow (fun q => { q with sidaTime := some 77 })
theorem witness_stepb_sida : (ob sidaDone).seq.sidaTime.isSome = true := by decide

/-- Step 0 open and reported, without and with its clear verdict. -/
def opened : Dev := setSeq flow (fun q => { q with stepOpen := true, report := some 1 })
def cleared : Dev := { opened with obs := [(.verdict, 1)] }
theorem witness_verd : (ob opened).seq.stepOpen = true ∧ (ob opened).seq.report.isSome = true ∧
    obsGet (ob opened) .verdict ≠ 4 * curStep (ob opened) + 1 ∧ obsGet (ob cleared) .verdict = 4 * curStep (ob cleared) + 1 ∧
    (ob cleared).seq.stepOpen = true ∧ (ob cleared).seq.report.isSome = true := by decide
theorem witness_verd_ready : flowReady (ob opened) ∧ flowReady (ob cleared) := by unfold flowReady ctlReady; decide
theorem test_verd_closes : (after (.verd 0 .main) cleared).seq.stepOpen = false ∧ curStep (after (.verd 0 .main) cleared) = 1 := by
  decide
theorem test_stepb_t0 : regGet (after (.stepb 0 .main 1#1) sidaDone) (A.SEQ_T0 0) = 77#64 := by decide +kernel

/-- A fork descriptor whose masks are empty, and one whose masks overlap. -/
def forkable : Dev := { flow with tables := { flow.tables with fdt := [0, 0, 0, 0, 0, 0, 0, 0, 0, 0, 1, 1, 0, 0, 0, 0] } }
theorem witness_fork : fdescBad (ob forkable) 0 = false := by decide
theorem witness_fork_ready : flowReady (ob forkable) := by unfold flowReady ctlReady; decide
def forked (n : Nat) (a b : SegPhase) : Dev := later 2 (setSeq forkable (fun q => { q with confl := some ⟨n, a, b, 0⟩ }))
theorem witness_segment : canIssue (ob (forked 0 .pending .pending)) = true ∧ (ob (forked 0 .pending .pending)).now % 2 = 0 ∧
    (ob (forked 0 .pending .pending)).seq.confl = some ⟨0, .pending, .pending, 0⟩ ∧
    segReady (ob (forked 0 .pending .pending)) 0 true = true ∧ masksOverlap (ob (forked 0 .pending .pending)) 0 = false ∧
    (ob (forked 1 .pending .running)).seq.confl = some ⟨1, .pending, .running, 0⟩ ∧
    segReady (ob (forked 1 .pending .running)) 1 false = true ∧ masksOverlap (ob (forked 1 .pending .running)) 1 = true := by decide
theorem witness_join : ctlReady (ob (forked 0 .ended .ended)) .main ∧ ctlReady (ob (forked 0 .ended .running)) .main ∧
    (ob (forked 0 .ended .ended)).seq.confl = some ⟨0, .ended, .ended, 0⟩ ∧
    (ob (forked 0 .ended .running)).seq.confl = some ⟨0, .ended, .running, 0⟩ := by unfold ctlReady; decide
theorem test_segment_waits : (after (.segmentStart 2 false) (forked 1 .pending .running)).seq.segA.on = false ∧
    (after (.segmentStart 2 true) (forked 0 .pending .pending)).seq.segB.on = true := by decide

/-- Frame 0 of half A holds page 0, unpinned or pinned. -/
def holds (pin : Bool) (d : Dev) : Dev :=
  setSeq d (fun q => { q with pagerA := { q.pagerA with frames := q.pagerA.frames.set 0 ⟨some 0, [], true, none, pin, 0⟩ },
                              pagerB := { q.pagerB with frames := q.pagerB.frames.set 0 ⟨some 0, [], true, none, pin, 0⟩ } })
theorem witness_page : 0 < imgPageBound (ob flow) ∧ pageIn (pagerOf (ob flow) 1) 0 = false ∧
    frameOf (pagerOf (ob (holds false flow)) 0) 0 = some 0 ∧ pinnedCount (pagerOf (ob (holds false flow)) 0) < 24 ∧
    ((pagerOf (ob (holds false flow)) 0).frames.getD 0 Frame.init).pinned = false ∧
    frameOf (pagerOf (ob (holds true flow)) 1) 0 = some 0 ∧
    ((pagerOf (ob (holds true flow)) 1).frames.getD 0 Frame.init).pinned = true := by decide
theorem witness_page_ready : ctlReady (ob (holds false flow)) .main ∧ ctlReady (ob (holds true flow)) .main := by
  unfold ctlReady; decide
theorem witness_halt : (ob flow).seq.confl = none := by decide
theorem test_halt : fget (after (.halt 0 .main 0x1234#16) flow) (A.SEQ_STS 0) F.SEQ_STS_CODE = 0x1234 := by decide

/-- Page 0 observed as resident in both halves, its bytes zero: every bundle of it is a no-op. -/
def resident : Dev := { holds false flow with obs := [(.resident 0 0, 1), (.resident 1 0, 1)] }
theorem witness_bundle : pageObserved (ob resident) 5 = true ∧ halfWordIn (ob resident).seq.pagerA 5 = some 0 ∧
    halfWordIn (ob resident).seq.pagerB 5 = some 0 ∧ pageComing (ob resident).seq.pagerA (pageOf 5) = false ∧
    pageComing (ob resident).seq.pagerB (pageOf 5) = false ∧ parityOk 0 = true ∧ strandDue (ob resident) .main = true ∧
    5 < imgBound (ob resident) ∧ pageObserved (ob flow) 5 = false ∧ strandDue (ob flow) .main = true := by decide +kernel
theorem witness_bundle_ready : flowReady (ob resident) := by unfold flowReady ctlReady; decide
def coming : Dev := setSeq flow (fun q => { q with pagerB := { q.pagerB with frames := q.pagerB.frames.set 3 ⟨none, [], false, some 0, false, 0⟩ } })
theorem witness_page_arrival : pageComing (pagerOf (ob coming) 1) 0 = true ∧ (pagerOf (ob coming) 1).demand = [] ∧
    (pagerOf (ob coming) 1).prefetch = [] ∧ (pagerOf (ob coming) 1).refetched = [] ∧
    (ob coming).pend.all (fun e => match e.key with | .resident _ _ => false | _ => true) = true := by decide
theorem test_bundle_of_noops : (after (.bundleIssue 0 .main []) resident).seq.main.spc = 6 := by decide +kernel

/-- A strand held since time 0, 2 µs ago, under a limit of 1 µs; without and with an earlier timeout of step 0. -/
def stuck (w : Option Nat) : Dev :=
  fset (setSeq (later 3201 flow) (fun q => { q with main := { q.main with held := some (0, 0) }, wdogStep := w })) (A.SEQ_WDOG 0) F.SEQ_WDOG_LIMIT 1
theorem witness_watchdog : (strandOf (ob (stuck none)) .main).held = some (0, 0) ∧ canIssue (ob (stuck none)) = true ∧
    (strandOf (ob (stuck none)) .main).on = true ∧ fget (ob (stuck none)) (A.SEQ_WDOG 0) F.SEQ_WDOG_LIMIT ≠ 0 ∧
    0 + ((ob (stuck none)).seq.gapTotal - 0) + us (fget (ob (stuck none)) (A.SEQ_WDOG 0) F.SEQ_WDOG_LIMIT) < (ob (stuck none)).now ∧
    (ob (stuck none)).seq.wdogStep ≠ some (curStep (ob (stuck none))) ∧
    (ob (stuck (some 0))).seq.wdogStep = some (curStep (ob (stuck (some 0)))) := by decide
def unwound : Dev := setSeq flow (fun q => { q with unwind := .resume })
theorem witness_resume : blkState (ob unwound) .seq = 1 ∧ (ob unwound).seq.unwind = .resume ∧ (ob unwound).ril.unwinding = [] ∧
    aqdUnwound (ob unwound) = (ob unwound, true) := by decide
theorem test_watchdog_twice : blkState (after (.waitTimeout 0 .main) (stuck none)) .seq = 1 ∧
    blkState (after (.waitTimeout 0 .main) (stuck (some 0))) .seq = 2 := by decide

/-! ### The cascade (04, 05) -/

/-- An issue from the main strand in half A at array cycle 0. -/
def issA : Issue := ⟨0, .A, .main, []⟩

/-- One table entry: format `fmt`, transposed or not, at the first byte of terrace 0's reservoir, KLEN and NLEN 127. -/
def entW (fmt tr : Nat) : List Nat := [resBase 0 + fmt * 2 ^ 42 + tr * 2 ^ 46, 0, 0, 127 * 2 ^ 16 + 127 * 2 ^ 24]
def entOf (fmt tr : Nat) : TileEntry := tileFields (entW fmt tr)

/-- Half A's cascade RUNNING with that entry as its CAT, and with tile 0 of unit 0 in a state. -/
def casD (fmt : Nat) : Dev :=
  let d := runs (.cas .A) r0
  { d with tables := { d.tables with a := { d.tables.a with cat := entW fmt 0 } } }
def tiles (n : Nat) (d : Dev) : Dev := { d with cas := { d.cas with tstate := if n = 0 then [] else [(0, n)] } }

/-- Both stationary buffers of units 0 and 1 loaded long ago in a format. -/
def loaded (fmt : Nat) (d : Dev) : Dev :=
  { d with cas := { d.cas with sb := [(0, ⟨0, 0, 0, fmt, 127, 127⟩), (2, ⟨0, 0, 0, fmt, 127, 127⟩)],
                               tstate := [(0, 1), (4, 1)] } }

theorem witness_cas_ready : casReady (st (casD 3)) issA 0 := by unfold casReady; decide
theorem witness_bctl : (∀ k, k < 8 → tileState (st (casD 3)) k ≠ 2) ∧ (ladRegion (st (casD 3)) 0).1 = 0 ∧
    tileState (st (tiles 1 (casD 3))) 0 = 1 := by decide
theorem test_bctl_open : tileState (after (.bctlOpen issA 0 1#8 5#4) (casD 3)) 0 = 1 ∧
    tileState (after (.bctlOpen issA 0 1#8 5#4) (casD 3)) 1 = 0 ∧
    tileState (after (.bctlOpen issA 0 1#8 5#4) (casD 3)) 2 = 1 := by decide
theorem test_bctl_lopen : tileState (after (.bctlLopen issA 0 1#8 15#4) (casD 3)) 3 = 2 := by decide
theorem witness_finish : (ladderOf (st (after (.bctlLopen issA 0 1#8 15#4) (casD 3))) 0).isSome = true := by decide

theorem witness_lds : casEntry (st (casD 3)) (casCtx (st (casD 3)) issA 0 (.lds 1 0 0 0)) 0 = .ok (entOf 3 0) ∧
    (fmtWidth (entOf 3 0).fmt).isSome = true ∧ (isMx (entOf 3 0).fmt = true → (entOf 3 0).tr = false) ∧
    sget 0 0 (st (casD 3)).cas.loadFree ≤ 0 ∧
    casOperand (st (casD 3)) (casCtx (st (casD 3)) issA 0 (.lds 1 0 0 0)) (entOf 3 0) (entOf 3 0).base 0 0
      = .ok ⟨resBase 0, 0, 3, false⟩ ∧ sfind 0 (st (casD 3)).cas.sb = none := by decide
theorem witness_lds_banks : (rvrTimed (st (casD 3)) 0 (spread 0 (tload 3) (linesOf 0
    (([(⟨resBase 0, 0, 3, false⟩ : TileAt)].map tileRuns).flatten)))).2 = [] := by decide +kernel

theorem witness_mm : casBuffer (st (loaded 3 (casD 3))) (casCtx (st (loaded 3 (casD 3))) issA 0 (.mm 1 0 0 0 0 0 0 0 0)) 0 0
      = .ok ⟨0, 0, 0, 3, 127, 127⟩ ∧
    casStream (st (loaded 3 (casD 3))) (casCtx (st (loaded 3 (casD 3))) issA 0 (.mm 1 0 0 0 0 0 0 0 0)) 0 = .ok () ∧
    casTarget (st (loaded 3 (casD 3))) (casCtx (st (loaded 3 (casD 3))) issA 0 (.mm 1 0 0 0 0 0 0 0 0)) 0 0 0 false = .ok () ∧
    widthClass [3, 3] = some 8 := by decide
theorem witness_mm_banks : (rvrTimed (st (loaded 3 (casD 3))) 0 (spread 0 1 (linesOf 0
    (rowRuns ⟨resBase 0, 0, 3, false⟩ 1)))).2 = [] := by decide
theorem witness_opa_banks : (rvrTimed (st (loaded 3 (casD 3))) 0 (spread 0 1 (linesOf 0
    (rowRuns ⟨resBase 0, 0, 3, false⟩ 1 ++ rowRuns ⟨resBase 0, 0, 3, false⟩ 1)))).2 = [] := by decide
theorem witness_twf : casStream (st (loaded 3 (casD 3))) (casCtx (st (loaded 3 (casD 3))) issA 0 (.twf 1 0 0 0 0 0 0 0 0 0)) 1 = .ok () ∧
    casTarget (st (loaded 3 (casD 3))) (casCtx (st (loaded 3 (casD 3))) issA 0 (.twf 1 0 0 0 0 0 0 0 0 0)) 1 0 0 false = .ok () ∧
    casBuffer (st (loaded 3 (casD 3))) (casCtx (st (loaded 3 (casD 3))) issA 0 (.twf 1 0 0 0 0 0 0 0 0 0)) 0 0
      = .ok ⟨0, 0, 0, 3, 127, 127⟩ ∧ widthClass [3, 3, 3] = some 8 ∧ isMx 3 = false := by decide

theorem witness_bin : isIntFmt (entOf 3 0).fmt = false ∧
    binTest (st (tiles 1 (casD 3))) (casCtx (st (tiles 1 (casD 3))) issA 0 (.bin 1 0 0 0)) (entOf 3 0) 0 0
      = .ok ⟨resBase 0, 0, 3, false⟩ ∧ (st (tiles 1 (casD 3))).cas.rows.all (fun r => r.uid != 0) = true := by decide
theorem witness_bin_banks : (rvrTimed (st (tiles 1 (casD 3))) 0 (basinAcc 0 64 [⟨resBase 0, 0, 3, false⟩])).2 = [] ∧
    (rvrTimed (st (casD 3)) 0 (basinAcc 0 24 [⟨resBase 0, 0, 3, false⟩])).2 = [] := by decide +kernel

/-- A ROOT's pointers: the matrix at offset 0x10000 of the reservoir, the result, the save area and the status after it.
The entry names the pointer block at the first byte. -/
def ptrs : List Host.Cell :=
  memPut (memPut (memPut (memPut [] (resBase 0) 8 (resBase 0 + 0x10000)) (resBase 0 + 8) 8 (resBase 0 + 0x20000))
    (resBase 0 + 16) 8 (resBase 0 + 0x40000)) (resBase 0 + 24) 8 (resBase 0 + 0x80000)
def rootD : Dev := { casD 0 with mem := ptrs }
theorem witness_root : casEntry (st rootD) (casCtx (st rootD) issA 0 (.root 255 0 0 0 0 0)) 0 = .ok (entOf 0 0) ∧
    (tileAt (entOf 0 0) (entOf 0 0).base (tileM (st rootD) .main (entOf 0 0) 0)).data % 64 = 0 ∧
    inResAt 0 (resBase 0) 64 = true ∧ inRes 0 (resBase 0 + 0x10000) (4 * 128 * 128) = true ∧
    inRes 0 (resBase 0 + 0x20000) (4 * 128 * 128) = true ∧ inRes 0 (resBase 0 + 0x40000) (12 * 128 * 128) = true ∧
    inRes 0 (resBase 0 + 0x80000) 32 = true ∧ bits (memNat (st rootD).mem (resBase 0 + 24) 8) 41 0 = resBase 0 + 0x80000 ∧
    (∀ k, k < 32 → tileState (st rootD) k = 0) := by decide
theorem witness_root_ready : casReady (st rootD) issA 0 := by unfold casReady; decide
def rootRun : RootRun := ⟨0, 10, 0, 0, 0, 0, 0, resBase 0 + 0x80000, 0, 0, 0, 0, 0, false, 0, []⟩
theorem witness_root_complete : sfind 0 ({ r0 with cas := { r0.cas with roots := [(0, rootRun)] } } : Dev).cas.roots = some rootRun ∧
    rootRun.saddr % 8 = 0 := by decide

/-- One WRITE row of ones on its way to row 5 of tile 0 of unit 0. -/
def onRow : RowApp := ⟨0, 0, 0, 5, List.replicate 128 (plain (.fin false 1 0)), 0, false, [], false, 0, 0⟩
def rowD (n : Nat) : Dev := tiles n { r0 with cas := { r0.cas with rows := [onRow] } }
theorem witness_row_apply : (rowD 1).cas.rows = [onRow] ∧ onRow.uid = (0#7).toNat ∧ onRow.bt < 4 ∧ onRow.row < 128 ∧
    onRow.vals.length = 128 ∧ onRow.acm = 0 ∧ onRow.pdt = [] ∧ tileState (rowD 1) 0 = 1 ∧ tileState (rowD 0) 0 ≠ 1 := by decide +kernel
theorem witness_window : r0.cas.rows = [] ∧ tileState r0 0 = 0 ∧ tileState (tiles 1 r0) 0 ≠ 0 := by decide
theorem test_window_busy : fget (after (.basinWindowWrite 0#26 [1#8]) (tiles 1 r0)) (A.CAS_STS 0) F.CAS_STS_EXC = 0x48 := by decide
theorem test_window_reads_back : windowByte (after (.basinWindowWrite 3#26 [7#8]) r0) 0x3FC00000003 = 7#8 := by decide

/-! ### The spec's worked examples (03, 04, 05, 09, 11) -/

/-- 03, "one MXFP8 block with E4M3 elements": scale byte 0x7F, elements 0x7E (a saturation), 0x79, 0x05 and 0x80. -/
theorem test_mxfp8_block : (convMx 5 (List.replicate 4 .rne) false
    [.fin false 470 0, .fin false 300 0, dec32 0x3C23D70A, dec32 0x80000000]) = (0x7F, [0x7E, 0x79, 0x05, 0x80], ⟨1, 0, 0⟩) := by
  decide
/-- 03, "a master weight rounded to BF16". -/
theorem test_bf16_rounding : (convTo 1 (.sr 0xF1A2) false (dec32 0x3F490FDB)).code = 0x3F4A ∧
    (convTo 1 (.sr 0x3C10) false (dec32 0x3F490FDB)).code = 0x3F49 ∧
    (convTo 1 .rne false (dec32 0x3F490FDB)).code = 0x3F49 := by decide
/-- 03, "one dot product in both modes": +0 in conformance mode, 2 in the native BF16 class. -/
theorem test_dot_product : pdtAcc fzero (([0x4B80, 0x3F80, 0x3F80, 0xCB80].map (decF fmtBF16)).map (fun a => (a, fone))) = fzero ∧
    enc32 (pass 16 false ([0x4B80, 0x3F80, 0x3F80, 0xCB80].map (decF fmtBF16) ++ List.replicate 124 fzero)).h = 0x40000000 := by
  decide
/-- 05, "cancellation inside one pass": plain +0, compensated 1.75. -/
def cancelling (k : Nat) : FVal :=
  if k = 0 then .fin false 3288334336 0 else if k = 127 then .fin true 3288334336 0
  else if k % 32 < 8 then (if k / 32 = 0 then .fin false 1 (-4) else if k % 32 = 7 then fzero else .fin false 1 (-4)) else fzero
theorem test_cancellation : encA40 (pairOut false (pass 8 false ((List.range 128).map cancelling))) = 0 ∧
    (pairOut true (pass 8 true ((List.range 128).map cancelling))) = a40 (.fin false 7 (-2)) := by decide +kernel
/-- 09, "the first Adam update of one element": w = 0.2498975 to seven digits. -/
def adam : Rule :=
  { a1 := dec32 0x3F666666, b1 := dec32 0x3DCCCCCD, a2 := dec32 0x3F7FBE77, b2 := dec32 0x3A83126F, c0 := fzero, k1 := fone,
    bb1 := dec32 0x3F666666, k2 := fone, bb2 := dec32 0x3F7FBE77, eps := dec32 0x322BCC77, tau := fzero, etam := fone, lamm := fone,
    bc1 := true, bc2 := true, layout := 0, psi := 1, rnd := 0 }
theorem test_adam : 0x3E7FE51F ≤ enc32 (weiElem adam (biasFactor adam.k1 adam.bb1 true 1) (biasFactor adam.k2 adam.bb2 true 1)
      (dec32 0x38D1B717) (dec32 0x3DCCCCCD) (dec32 0x3A800000) ⟨dec32 0x3E800000, fzero, fzero⟩ (dec32 0x3F000000)).1.w ∧
    enc32 (weiElem adam (biasFactor adam.k1 adam.bb1 true 1) (biasFactor adam.k2 adam.bb2 true 1)
      (dec32 0x38D1B717) (dec32 0x3DCCCCCD) (dec32 0x3A800000) ⟨dec32 0x3E800000, fzero, fzero⟩ (dec32 0x3F000000)).1.w ≤ 0x3E7FE526 := by
  decide +kernel
/-- 11, "an address in a stack with one channel mapped out": channel 19 of stack 2, the range ending at 0x03B_5FFF_FFFF. -/
def mapped : Dev := fset (fset r0 (A.STK_CAP 0 2) F.STK_CAP_MAP 0xFFFFFFDF) (A.STK_CAP 0 2) F.STK_CAP_NCH 31
theorem test_interleave : channelOf mapped 0x02800010A40 = 32 * 2 + 19 ∧ inStackByte mapped 0x03B5FFFFFFF = true ∧
    inStackByte mapped 0x03B60000000 = false := by decide

/-! ### The jets (06) -/

/-- Half A's jets RUNNING, with one entry as their JAT. -/
def jetD (fmt : Nat) : Dev :=
  let d := runs (.jet .A) r0
  { d with tables := { d.tables with a := { d.tables.a with jat := entW fmt 0 } } }
def jc (fmt : Nat) (op : JetOp) : CasCtx := jetCtx (st (jetD fmt)) issA 0 (encodeJet op).toNat

theorem witness_jet : running (st (jetD 0)) (.jet .A) = true ∧ issA.ecc = [] ∧ aluLegal 6 0 = true ∧ aluLegal 13 3 = true ∧
    (1#2 : BitVec 2).toNat < 2 := by decide
theorem witness_red : groupKind (after (.red issA 0 0 0 0 7#3 1#2 1#1 0) (jetD 0)) 0 0 7 = 2 ∧
    groupKind (st (jetD 0)) 0 0 7 ≠ 2 := by decide
theorem witness_rsld : rowEntry (st (jetD 10)) (jc 10 (.rsld 3 7 0 1 0 0)) 0 7 = .ok (resBase 0 + 256 * 7) ∧
    sget 0 0 (st (jetD 10)).jet.portFree ≤ 0 ∧ (rvrTimed (st (jetD 10)) 0 (spread 0 2 (linesOf 0
      ([(resBase 0 + 256 * 7, 256)].filter (fun r => inRes 0 r.1 r.2))))).2 = [] := by decide
theorem witness_jld : jetEntry (st (jetD 1)) (jc 1 (.jld 0 0 3 1 1 0)) 0 = .ok (entOf 1 0) ∧ rgOk 1 3 = true ∧ rgOk 0 7 = true ∧
    widthFits 1 1 = true ∧
    jetTile (st (jetD 1)) (jc 1 (.jld 0 0 3 1 1 0)) (entOf 1 0) (entOf 1 0).base 32 3 = .ok ⟨resBase 0, 0, 1, false⟩ ∧
    (rvrTimed (st (jetD 1)) 0 (spread 0 2 (linesOf 0 ((groupRuns (entOf 1 0) (resBase 0) 0 32 3).filter
      (fun r => inRes 0 r.1 r.2))))).2 = [] := by decide +kernel
theorem witness_jst : jetEntry (st (jetD 0)) (jc 0 (.jst 0 0 7 0 0 0 0)) 0 = .ok (entOf 0 0) ∧
    jetTile (st (jetD 0)) (jc 0 (.jst 0 0 7 0 0 0 0)) (entOf 0 0) (entOf 0 0).base 16 7 = .ok ⟨resBase 0, 0, 0, false⟩ := by
  decide
theorem witness_tld : jetAt (st (jetD 0)) (jc 0 (.tld 1 0)) (entOf 0 0) 1024 0 16448 = .ok (resBase 0) ∧
    (let b := (range' (resBase 0) 64).map (jetByte (st (jetD 0)) (st (jetD 0)).mem)
     ¬ signed 8 (leAt b 4 1) < -126 ∧ signed 8 (leAt b 4 1) ≤ 100 ∧ leAt b 5 3 = 0 ∧ leAt b 28 36 = 0) ∧
    (rvrTimed (st (jetD 0)) 0 (spread 0 6 (linesOf 0 ([(resBase 0, 16448)].filter (fun r => inRes 0 r.1 r.2))))).2 = [] := by
  decide +kernel

/-- Two tiles of BF16 one after the other, as TSUM's NB = 1 reads them with BSTR = 64 (64 units of 512 bytes). -/
def sumE : TileEntry := { entOf 1 0 with bstr := 64 }
def sumD : Dev :=
  let d := runs (.jet .A) r0
  { d with tables := { d.tables with a := { d.tables.a with
      jat := [resBase 0 + 2 ^ 42, 0, 0, 127 * 2 ^ 16 + 127 * 2 ^ 24 + 64 * 2 ^ 48] } } }
def sumC : CasCtx := jetCtx (st sumD) issA 0 (encodeJet (.tsum 0 0 0 1 0)).toNat
def sumT (b : Nat) : TileAt := ⟨resBase 0 + 32768 * b, 0, 1, false⟩
theorem witness_tsum : jetEntry (st sumD) sumC 0 = .ok sumE ∧ isMx sumE.fmt = false ∧ sumE.bc = false ∧
    jetTile (st sumD) sumC sumE (sumE.base : Int) 16 0 = .ok (sumT 0) ∧
    jetTile (st sumD) sumC sumE ((sumE.base : Int) + 1 * sumE.bstr * (unitBytes sumE.fmt : Int)) 16 0 = .ok (sumT 1) ∧
    (rvrTimed (st sumD) 0 (spread 0 4 (linesOf 0 (((groupRuns sumE (resBase 0) 0 16 0) ++
      groupRuns sumE (resBase 0 + 32768) 0 16 0).filter (fun r => inRes 0 r.1 r.2))))).2 = [] := by decide +kernel



/-! ### The rills (07) -/

/-- Context 0 RUNNING: a ring of one slab of 64 bytes at address 0 of the stacks, with its peer at port 0, which is UP. -/
def rillD (kind : Nat) : Dev :=
  let d := fset (fset (runs (.ril 0) (allCh r0)) (A.RIL_CCTL 0) F.RIL_CCTL_KIND kind) (A.RIL_CCTL 0) F.RIL_CCTL_LOGSZ 6
  latch (fset (runs (.hrm 0) d) (A.HRM_PSTS 0) F.HRM_PSTS_LSTATE 5) [A.RIL_CCTL 0, A.RIL_RING 0, A.RIL_PEER 0]
/-- One slab produced, and one credit granted. -/
def rillP (kind : Nat) : Dev := fset (fset (rillD kind) (A.RIL_CNTA 0) F.RIL_CNTA_PROD 1) (A.RIL_CNTC 0) F.RIL_CNTC_GRANT 1

theorem witness_rill_idle : rilIdle (lc (rillP 0)) ∧ quiet (lc (rillP 0)) ∧ running (lc (rillP 0)) (.ril 0) = true ∧
    (lc (rillP 0)).ms.marks = [] := by unfold rilIdle quiet; decide +kernel
theorem witness_commit : rilKind (lc (rillP 0)) 0 = 0 ∧ rilPortOk (lc (rillP 0)) 3 0 false = true ∧
    signed 32 (sub32 (rilDone (lc (rillP 0)) 0) (rilFreed (lc (rillP 0)) 0)) < rilSlots (lc (rillP 0)) 0 ∧
    cltEntry (lc (rillP 0)) (lc (rillP 0)).mach.armed = none ∧ inOneMemory (lc (rillP 0)) (headerAt (lc (rillP 0)) 0 0) 64 = true ∧
    ringHalf (lc (rillP 0)) 0 = 0 := by decide +kernel
/-- The ring at the start of stack 4, in half B; a COMMIT to it takes 24 sc more. -/
def farD : Dev := latch (fset (rillP 0) (A.RIL_RING 0) F.RIL_RING_BASE (4 * stackStride / 64)) [A.RIL_RING 0]
theorem witness_commit_far : rilIdle (lc farD) ∧ rilKind (lc farD) 0 = 0 ∧ ringHalf (lc farD) 0 ≠ hn .A := by
  unfold rilIdle; decide +kernel
theorem test_commit_far : ((after (.commit issA 0 0 0 1 1 1) farD).ril.cross.map (fun e => e.due)) = [48] ∧
    rilDone (after (.commit issA 0 0 0 1 1 1) farD) 0 = 0 := by decide +kernel
def landD : Dev := { rillP 0 with ril := { (rillP 0).ril with cross := [⟨0, 0, List.replicate 64 0⟩] } }
theorem witness_commit_lands : (tk landD).ril.cross = [⟨0, 0, List.replicate 64 0⟩] ∧ (tk landD).now < 0 + 50 ∧
    (tk landD).pend = [] ∧ (tk landD).ms.marks = [] ∧ inOneMemory (tk landD) (headerAt (tk landD) 0 (rilDone (tk landD) 0)) 64 = true := by
  decide +kernel
theorem test_commit_lands : rilDone (after (.stateObservation 0) landD) 0 = 1 := by decide +kernel
theorem witness_release : rilKind (lc (rillP 1)) 0 ≤ 1 ∧ rilPortOk (lc (rillP 1)) 0 0 true = true ∧
    ((1 : Nat) : Int) ≤ signed 32 (sub32 (rilProd (lc (rillP 1)) 0) (rilFreed (lc (rillP 1)) 0)) ∧
    carries (lc (rillP 1)) 0 0 = true := by decide +kernel

/-- A RAT of one entry: the source is address 0 of the stacks. -/
def sendD : Dev := { rillP 2 with tables := { r0.tables with a := { r0.tables.a with rat := [0, 0, 0, 0] } } }
theorem witness_send : rilKind (lc sendD) 0 = 2 ∧ sendSource (lc sendD) 0 0 ⟨encodeRil (.send 0 0 0 1 0 0), 0, 0, true, 0,
      rilStride (lc sendD) 0 .main 0, 0, newTag (lc sendD), curStep (lc sendD)⟩ = .ok 0 ∧
    1 ≤ signed 32 (sub32 (rilGrant (lc sendD) 0) (sget 0 0 (lc sendD).ril.started)) ∧
    ((lc sendD).ril.sends.filter (fun e => e.2 == 0)).length < 8 ∧ carries (lc sendD) 0 0 = true := by decide +kernel

/-- A slab of 64 bytes with its header, from rill 0 of chip 0. -/
def slabM : Msg := { msg0 with data := List.replicate 128 0 }
theorem witness_slab : rilKind (ob (rillD 1)) 0 = 1 ∧ bits slabM.w1 47 32 = rilRungen (ob (rillD 1)) 0 ∧
    bits (leAt slabM.data 16 8) 13 0 = liveGet (ob (rillD 1)) (A.RIL_PEER 0) F.RIL_PEER_CHIP ∧
    bits (leAt slabM.data 16 8) 27 16 = liveGet (ob (rillD 1)) (A.RIL_PEER 0) F.RIL_PEER_RILL ∧
    sub32 (rilProd (ob (rillD 1)) 0) (rilFreed (ob (rillD 1)) 0) ≠ rilSlots (ob (rillD 1)) 0 ∧
    slabM.data.length = 64 + rilSize (ob (rillD 1)) 0 ∧ inOneMemory (ob (rillD 1)) (slabAt (ob (rillD 1)) 0 0) 64 = true ∧
    inOneMemory (ob (rillD 1)) (headerAt (ob (rillD 1)) 0 0) 64 = true := by decide +kernel
theorem witness_slab_arrives : arrives (ob (rillD 1)) 0 { slabM with mtype := 0 } ∧ rilIdle (ob (rillD 1)) := by
  unfold arrives quiet rilIdle; decide +kernel
theorem test_slab_counts : rilProd (after (.slabArrival 0 0 slabM) (rillD 1)) 0 = 1 := by decide +kernel
def boundD : Dev := fset (rillD 2) (A.RIL_CSTS 0) F.RIL_CSTS_BOUND 1
theorem witness_cred : arrives (ob boundD) 0 { msg0 with mtype := 1 } ∧ rilKind (ob boundD) 0 = 2 ∧
    bits msg0.w1 47 32 = rilEpoch (ob boundD) 0 ∧ fget (ob boundD) (A.RIL_CSTS 0) F.RIL_CSTS_BOUND = 1 := by
  unfold arrives quiet; decide +kernel
def openM : Msg := { msg0 with w1 := 2 ^ 32, w2 := 6 * 2 ^ 8 }
theorem witness_open : arrives (ob (rillD 2)) 0 { openM with mtype := 2 } ∧ bits openM.w1 47 32 ≠ rilEpoch (ob (rillD 2)) 0 ∧
    fget (ob (rillD 2)) (A.RIL_CSTS 0) F.RIL_CSTS_BOUND = 0 ∧
    bits openM.w2 3 0 = liveGet (ob (rillD 2)) (A.RIL_CCTL 0) F.RIL_CCTL_LOGN ∧
    bits openM.w2 12 8 = liveGet (ob (rillD 2)) (A.RIL_CCTL 0) F.RIL_CCTL_LOGSZ := by unfold arrives quiet; decide +kernel
theorem test_open_grants : rilGrant (after (.openArrival 0 0 openM) (rillD 2)) 0 = 1 := by decide +kernel
def sentD : Dev := { r0 with ril := { r0.ril with sends := [(4095, 3)] } }
theorem witness_send_done : (ob sentD).ril.sends = [((4095#12).toNat, 3)] ∧
    (∀ p, p < 9 → (portOf (ob sentD) p).queue.all (fun o => o.ctx != some 4095) = true) := by decide
def stallD : Dev :=
  later (us (2 ^ 20) + 2) { r0 with ril := { r0.ril with queues := [(1, [⟨0, 0, 0, true, 0, 0, 0, 0, 0⟩])], waits := [(1, 1)] } }
theorem witness_stall : rilQueue (ob stallD) 1 = [⟨0, 0, 0, true, 0, 0, 0, 0, 0⟩] ∧ sget 0 1 (ob stallD).ril.waits = 0 + 1 ∧
    sget 0 1 (ob stallD).ril.said = 0 ∧ 0 + us (fget (ob stallD) A.RIL_TMO F.RIL_TMO_STALL) < (ob stallD).now := by decide

/-! ### The ephemeris (08) -/

/-- Entry 0 valid with slot 0 LIVE under tag 0; both halves' ERT name entry 0 with NEWTAG. -/
def ephD (rc : Nat) : Dev :=
  let d := fset (runs .eph r0) (A.EPH_ENT 0) F.EPH_ENT_VALID 1
  let d := fset (fset d (A.EPH_SLOT 0) F.EPH_SLOT_STATE 4) (A.EPH_SLOT 0) F.EPH_SLOT_RC rc
  { d with tables := { d.tables with a := { d.tables.a with ert := [2 ^ 56] } } }
theorem witness_eph : running (lc (ephD 1)) .eph = true ∧ ephResolve (lc (ephD 1)) 0 .main 0 = .ok ⟨0, 0, 0⟩ ∧
    slotRc (lc (ephD 1)) 0 < 65535 ∧ 0 < slotRc (lc (ephD 1)) 0 ∧
    ephResolve (lc (ephD 1)) 0 .main 1 = .error ⟨0x71, 0, 0, 0, 0, 0⟩ ∧ (0#3 : BitVec 3).toNat ≤ ephSmax (lc (ephD 1)) := by decide
theorem test_drop : slotRc (after (.drop issA 0) (ephD 1)) 0 = 0 ∧ slotRc (after (.hold issA 0) (ephD 1)) 0 = 2 := by decide
/-- A DROP at zero holds is EPH_RC, and the count stays. -/
theorem test_drop_at_zero : fget (after (.drop issA 0) (ephD 0)) A.EPH_STS F.EPH_STS_EXC = 0x74 := by decide

/-! ### The weirs (09) -/

/-- Half A's weirs RUNNING with rule 0 of a layout, and a table of one entry of one group: records at 0, gradients at
0x100000, the row map at 0x200000. -/
def weiD (layout sparse : Nat) : Dev :=
  let d := latch (fset (runs (.wei .A) (allCh r0)) (A.WEI_RULE7 0 0) F.WEI_RULE_LAYOUT layout) [A.WEI_RULE7 0 0]
  { d with tables := { d.tables with a := { d.tables.a with
      wst := [0, 0x100000, 0x200000, 0x300000, sparse * 2 ^ 16, 2 ^ 32, 0, 0] } } }
def weiJ (d : Dev) (op : WeiOp) : WeiJob :=
  jobOf (st d) 0 { weiTaken (st d) issA op with ent := (wstWords (st d) 0 0).getD [] }
theorem witness_weir_idle : weiIdle (st (weiD 1 0)) ∧ weiIdle (st (weiD 0 1)) := by unfold weiIdle; decide
theorem witness_upd_stat : stOf (st (weiD 1 0)) (A.WEI_STS 0) = 1 ∧
    snapHolds (st (weiD 1 0)) (weiTaken (st (weiD 1 0)) issA (.upd 0 0 0 0)).step = false ∧
    (st (weiD 1 0)).seq.stepOpen = false ∧ selDefined 0 = true ∧ (wstWords (st (weiD 1 0)) 0 0).isSome = true ∧
    weiEncBad (weiJ (weiD 1 0) (.upd 0 0 0 0)) = false ∧ (weiJ (weiD 1 0) (.upd 0 0 0 0)).e.sg = 1 ∧
    (weiJ (weiD 1 0) (.upd 0 0 0 0)).e.sparse = false ∧ (weiJ (weiD 1 0) (.upd 0 0 0 0)).r.layout = 1 ∧
    weiAddrBad (st (weiD 1 0)) (weiJ (weiD 1 0) (.upd 0 0 0 0)) 0 = none := by decide +kernel
/-- The narrow layouts: a free build slot, and none while the ephemeris is STOPPED. -/
def weiE : Dev := fset (runs .eph (weiD 0 0)) (A.EPH_ENT 0) F.EPH_ENT_VALID 1
def granted : Dev := match ephRequest (st weiE) 0 0 with
  | .ok (d, _) => d
  | .error _ => r0
theorem witness_upd_narrow : (weiJ weiE (.upd 0 0 0 0)).narrow = true ∧
    ephRequest (st weiE) (weiJ weiE (.upd 0 0 0 0)).e.entry (weiJ weiE (.upd 0 0 0 0)).c.pstep = .ok (granted, some 0) ∧
    weiAddrBad granted (weiJ weiE (.upd 0 0 0 0)) 0 = none ∧ weiEncBad (weiJ weiE (.upd 0 0 0 0)) = false := by decide +kernel
theorem witness_upd_waits : (weiJ (weiD 0 0) (.upd 0 0 0 0)).narrow = true ∧ (weirOf (st (weiD 0 0)) 0).waitAt = 0 ∧
    ephRequest (st (weiD 0 0)) 0 0 = .ok (st (weiD 0 0), none) := by decide +kernel
/-- Row 0 TOUCHED. -/
def clrmD : Dev := { weiD 0 1 with mem := [(0x200000, 1#8)] }
theorem witness_clrm : weiEncBad (weiJ clrmD (.clrm 0 0 0 0)) = false ∧ weiAddrBad (st clrmD) (weiJ clrmD (.clrm 0 0 0 0)) 0 = none ∧
    (weiJ clrmD (.clrm 0 0 0 0)).e.sg = 1 ∧ (weiJ clrmD (.clrm 0 0 0 0)).e.rowg = 1 ∧
    (rowBits (st clrmD) (weiJ clrmD (.clrm 0 0 0 0)).e (weiJ clrmD (.clrm 0 0 0 0)).g0).testBit 0 = true ∧
    inWindow ((weiJ clrmD (.clrm 0 0 0 0)).e.gbase) 1 = false := by decide +kernel
theorem witness_weir_off : stOf (st r0) (A.WEI_STS 1) = 0 ∧ stOf (st (drains (.wei .B) r0)) (A.WEI_STS 1) = 2 := by decide
theorem witness_weir_off_idle : weiIdle (st r0) ∧ weiIdle (st (drains (.wei .B) r0)) := by unfold weiIdle; decide

/-- A dense command with a narrow copy that has worked its one group; NSPAN 1 of entry 0. -/
def doneC : WeiCmd := { weiTaken (st (weiD 0 0)) issA (.upd 0 0 0 0) with
  ent := (wstWords (st (weiD 0 0)) 0 0).getD [], next := 1, slot := some 0 }
def doneD : Dev :=
  { weiD 0 0 with wei := { r0.wei with weirs := [(0, { Weir.init with cur := some doneC, waitAt := 0 })] } }
theorem witness_weir_complete : (weirOf doneD 0).cur = some doneC ∧ (weirOf doneD 0).queue = [] ∧ doneC.ent ≠ [] ∧
    (jobOf doneD 0 doneC).e.sg ≤ doneC.next ∧ doneD.eph.condemned = [] ∧ weiQueue doneD 0 = [] ∧ weiQueue doneD 1 = [] ∧
    (∀ v, v < 8 → v ≠ 0 → (weirOf doneD v).cur = none ∧ (weirOf doneD v).queue = []) ∧
    fget doneD (A.WEI_BUILD 0) F.WEI_BUILD_COUNT ≤ liveGet doneD (A.WEI_BUILD 0) F.WEI_BUILD_NSPAN := by decide +kernel
def noslotD : Dev :=
  later (us (2 ^ 20) + 2) { r0 with wei := { r0.wei with weirs := [(7, { Weir.init with cur := some doneC, waitAt := 1 })] } }
theorem witness_noslot : (weirOf (tk noslotD) 7).cur = some doneC ∧ (weirOf (tk noslotD) 7).waitAt = 0 + 1 ∧
    (weirOf (tk noslotD) 7).waitRing = false ∧ (weirOf (tk noslotD) 7).waitSaid = false ∧
    0 + us (fget (tk noslotD) (A.WEI_TMO 1) F.WEI_TMO_SLOT) < (tk noslotD).now := by decide +kernel
/-- Weir 0 rolls step 5 back: one STAT record of zeros for address 0x1000, logged at the start of a ring at 1 MiB. -/
def rollD : Dev :=
  { allCh r0 with
    mem := memWrite [] 0x100000 (leBytes 8 (0x1000 + 1 * 2 ^ 42) ++ leBytes 8 0 ++ leBytes 4 0 ++ leBytes 4 5),
    wei := { r0.wei with weirs := [(0, { Weir.init with rolling := some 5, log := [(0, 1088)], cfg := 2 ^ 20 + 1 })] } }
theorem witness_rollback : rollbackReady rollD = true ∧ (weirOf rollD 0).rolling = some 5 ∧ (weirOf rollD 0).log = [(0, 1088)] ∧
    entryOk rollD 0 5 none (ringRead rollD.mem (weirOf rollD 0) 0 64) = true ∧
    bit (leAt (ringRead rollD.mem (weirOf rollD 0) 0 64) 0 8) 44 = false ∧ rollbackReady r0 = false := by decide +kernel

/-! ### The astrolabe (10) -/

/-- Both banks of the step before step 0, 0xFFFF_FFFF, tagged. -/
def snapD : Dev :=
  let L := 2 ^ 32 - 1
  [0, 1].foldl (fun d h => fset (fset d (bankReg h L) F.AST_BANK0_TAGGED 1) (bankReg h L) F.AST_BANK0_TAG L) (runs (.ast .A) r0)
theorem witness_snap : running (st snapD) (.ast .A) = true ∧ (∀ h, h < 2 → bankTagged (st snapD) h (2 ^ 32 - 1) = true ∧
    bankTag (st snapD) h (2 ^ 32 - 1) = 2 ^ 32 - 1 ∧ bankPend (st snapD) h (2 ^ 32 - 1) = false ∧
    bankEmit (st snapD) h (2 ^ 32 - 1) = false) := by decide
/-- GNOUT at the first byte of terrace 0's reservoir. -/
def gnD : Dev := latch (fset (runs (.ast .A) r0) A.AST_GNOUT F.AST_GNOUT_BASE (resBase 0 / 16)) [A.AST_GNOUT]
theorem witness_gnwr : liveGet (st gnD) A.AST_GNOUT F.AST_GNOUT_BASE * 16 + 16 * 15 = resBase 0 + 240 ∧
    resTerrace (resBase 0 + 240) = some 0 ∧ inRes 0 (resBase 0 + 240) 16 = true ∧
    (rvrTimed (st gnD) 0 [((resBase 0 + 240 - resBase 0) / 128, 32)]).2 = [] ∧ (st gnD).hst.statWait = [] ∧
    ringTakes (st gnD) (routeOf (st gnD) true 0) = false := by decide
def pendD : Dev := fset (fset r0 (A.AST_BANK0 0) F.AST_BANK0_PEND 1) (A.AST_BANK0 0) F.AST_BANK0_TAGGED 1
theorem witness_snap_emit : bankPend pendD 0 0 = true ∧ bankTag pendD 0 0 % 2 = 0 ∧ snapWaits pendD (bankTag pendD 0 0) = false := by
  decide
theorem witness_snap_emit_idle : weiIdle pendD := by unfold weiIdle; decide
def shadowD : Dev := { r0 with ast := { r0.ast with shadow := [(1, ⟨0, 0, 0, false, 0, 0, 0, 0, 0, 0, 0, 0, 0⟩)] } }
theorem witness_shadow : sfind 1 shadowD.ast.shadow = some ⟨0, 0, 0, false, 0, 0, 0, 0, 0, 0, 0, 0, 0⟩ ∧
    sfind 1 (st shadowD).ast.shadow = some ⟨0, 0, 0, false, 0, 0, 0, 0, 0, 0, 0, 0, 0⟩ ∧
    flt (dec32 (liveGet (st shadowD) (A.AST_SHD 1) F.AST_SHD_TOL)) (dec32 0) = false := by decide

/-! ### Registers and memory (01, 11) -/

theorem witness_register_write : sharedReg (A.SEQ_ENTRY 0) = A.SEQ_ENTRY 0 ∧ (regRow (A.SEQ_ENTRY 0)).isSome = true ∧
    actsOnWrite (A.SEQ_ENTRY 0) = false ∧ A.SEQ_ENTRY 0 < 0x4000000 ∧ A.SEQ_ENTRY 0 % 8 = 0 ∧
    sharedReg 0x3FFFFF8 = 0x3FFFFF8 ∧ regRow 0x3FFFFF8 = none ∧ pstate (so r0) = 0 ∧ blkState (so r0) (.cas .A) = 0 ∧
    hostReaches (ob r0) = false := by decide
/-- The PCIe link up and bring-up ended. -/
def hostD : Dev := { allCh r0 with pwr := { r0.pwr with pcieUp := true }, tst := { r0.tst with up := true } }
theorem witness_register_size : hostReaches (ob hostD) = true ∧ sizeOk 4 8 = false ∧ sizeOk 0 8 = true ∧ sizeOk 4 4 = true := by
  decide
theorem test_register_write : regGet (after (.registerWrite 0 false (A.SEQ_ENTRY 0) (leBytes 8 (2 ^ 64 - 1))) r0) (A.SEQ_ENTRY 0)
    = 0xFFFFFFF#64 := by decide

theorem witness_memory : plainMem (so hostD) 0 8 ∧ plainMem (so hostD) (resBase 15) 8 := by unfold plainMem; decide +kernel
theorem witness_memory_map : (so hostD).ms.marks = [] ∧ inNv 0x3FD03FFFFFF 1 = true ∧ inRegs 0x3FF00000000 = false ∧
    inStacks (so hostD) 0x3FF00000000 8 = false ∧ inAnyRes 0x3FF00000000 8 = false ∧ inWindow 0x3FF00000000 8 = false ∧
    inNv 0x3FF00000000 8 = false := by decide
theorem witness_bar4 : hostReaches (so hostD) = true ∧ (so hostD).tst.up = true ∧ (so hostD).pwr.asleep = false ∧
    inStacks (so hostD) (fget (so hostD) A.GLB_DBGWIN F.GLB_DBGWIN_BASE * 2 ^ 28 + 0xFFFFFFF) 1 = true ∧
    inStacks (so r0) 0 1 = false ∧ hostReaches (so r0) = false := by decide
theorem test_memory_write : memRead (after (.memoryAccess 0 0x100#42 (.write [1, 2, 3]) []) hostD).mem 0x100 3 = [1, 2, 3] := by
  decide +kernel

theorem witness_atomic : atomSize 11 = some 8 ∧ inStacks (st hostD) 8 8 = true ∧ atomSize 12 = none ∧
    inStacks (st r0) 8 8 = false := by decide +kernel
/-- ATOP 9 and its neighbours: an element sum of two FP32 ones is 2.0. -/
theorem test_atomic_fp32_add : memNat (after (.poolAtomic 0 0#42 0#4 (leBytes 4 0x3F800000) false)
    { hostD with mem := memPut [] 0 4 0x3F800000 }).mem 0 4 = 0x40000000 := by decide +kernel
theorem witness_write_back : fget (fset r0 (A.POL_STS 1) F.POL_STS_BUSY 1) (A.POL_STS 1) F.POL_STS_BUSY = 1 ∧
    fget r0 (A.POL_STS 0) F.POL_STS_BUSY = 0 := by decide

/-- Half B's patrol scrub on, one period of an hour after time 0. -/
def patrolD : Dev := later (hour * 255) (fset (fset (allCh r0) (A.STK_SCRUB 1) F.STK_SCRUB_ON 1) (A.STK_SCRUB 1) F.STK_SCRUB_PERIOD 1)
theorem witness_patrol : fget (tk patrolD) (A.STK_SCRUB 1) F.STK_SCRUB_ON = 1 ∧
    sget 0 1 (tk patrolD).ms.scrubAt + hour * max (fget (tk patrolD) (A.STK_SCRUB 1) F.STK_SCRUB_PERIOD) 1 ≤ (tk patrolD).now ∧
    inStackByte (tk patrolD) (4 * stackStride) = true ∧ homeHalf (4 * stackStride) = 1 := by decide +kernel
def remapD : Dev := { fset r0 (A.STK_RMP 0) F.STK_RMP_LIVE 1 with ms := { r0.ms with cand := [64], spares := [(0, 1)] } }
theorem witness_remap : (tk (setSeq r0 (fun q => { q with stepOpen := true }))).seq.stepOpen = true ∧
    (tk remapD).seq.stepOpen = false ∧ (tk remapD).ms.cand.find? (fun r => r / 2 ^ 25 / 128 == 0) = some 64 ∧
    fget (tk remapD) (A.STK_RMP 0) F.STK_RMP_LIVE = 1 ∧ 0 < sget 0 (bankOfRow 64) (tk remapD).ms.spares := by decide
theorem witness_channel_loss : 255 ∈ ({ r0 with ms := { r0.ms with badCh := [255] } } : Dev).ms.badCh ∧ 255 ∉ r0.ms.badCh := by decide
def brgD (tries : Nat) : Dev :=
  { fset (fset r0 A.BRG_STS F.BRG_STS_UP 1) A.BRG_CFG F.BRG_CFG_RLIM 1 with ms := { r0.ms with lanes := [(128, ⟨tries, 0, 0⟩)] } }
theorem witness_bridge : fget (tk (brgD 1)) A.BRG_STS F.BRG_STS_UP = 1 ∧ (sget BrgLane.init 128 (tk (brgD 1)).ms.lanes).tries < 2 ∧
    (if (sget BrgLane.init 128 (tk (brgD 1)).ms.lanes).ms = (tk (brgD 1)).now / ms 1 then
      (sget BrgLane.init 128 (tk (brgD 1)).ms.lanes).retries + 1 else 1) ≤ fget (tk (brgD 1)) A.BRG_CFG F.BRG_CFG_RLIM ∧
    2 ≤ (sget BrgLane.init 128 (tk (brgD 2)).ms.lanes).tries := by decide

/-! ### The aqueduct (12) -/

/-- A table of one entry: a LOCAL copy of 64 bytes from address 0 to 0x1000; channel 0 of half A RUNNING. -/
def copyE : List Nat := [0, 0x1000, 0, 0, 0, 64, 0, 0]
def aqdD : Dev :=
  let d := runs (.aqd .A 0) (allCh r0)
  { d with tables := { d.tables with a := { d.tables.a with adt := copyE } } }
theorem witness_xfer_idle : aqdIdle (st aqdD) := by unfold aqdIdle; decide
theorem witness_xfer : adtEntry (st aqdD) 0 0 = some copyE ∧ adtBad (st aqdD) copyE false = false ∧
    running (st aqdD) (.aqd .A 0) = true ∧ running (st aqdD) (.aqd .A 31) = false ∧ adtEntry (st aqdD) 0 1 = none := by decide +kernel
/-- That transfer in channel 0: before its burst, and with everything stored. -/
def copyX (row : Nat) : Xfer := ⟨0, 0, 0, 0, 0, copyE, 0, 0, none, none, 0, row, 0, row, none, 0, 0, 0, false⟩
def burstD (row : Nat) : Dev := { aqdD with aqd := { aqdD.aqd with chans := [(0, [copyX row])] } }
theorem witness_burst_only : aqdOnly (st (burstD 0)) 0 0 (copyX 0) ∧ quiet (st (burstD 0)) ∧ plainMem (st (burstD 0)) 0 64 ∧
    plainMem (st (burstD 0)) 0x1000 64 ∧ aqdOnly (st (burstD 1)) 0 0 (copyX 1) := by
  unfold aqdOnly quiet plainMem; decide +kernel
theorem witness_burst : adKind copyE = 0 ∧ adAtom copyE = false ∧ adTouch copyE = false ∧ xSspace (copyX 0) = 0 ∧
    xDspace (copyX 0) = 0 ∧ xSwrap (copyX 0) = 0 ∧ xDwrap (copyX 0) = 0 ∧ adLen copyE = 64 ∧
    addrOf ((xSbase (copyX 0) : Int) + 64 * (copyX 0).ms) = some 0 ∧
    addrOf ((xDbase (copyX 0) : Int) + 64 * (copyX 0).md) = some 0x1000 ∧
    64 ≤ 4096 - (64 * (copyX 0).md % 4096).toNat ∧ sget 0 0 (st (burstD 0)).aqd.lastBurst = 0 ∧
    xStarted (copyX 1) = true ∧ xDspace (copyX 1) = 0 ∧ xHost (copyX 1) = false ∧ xNote (copyX 1) = false := by decide
/-! ### Links (13) -/

/-- Port 0 in a link state, with LINK as commanded, its last reset at time 0. -/
def linkD (state link : Nat) : Dev := fset (fset r0 (A.HRM_PSTS 0) F.HRM_PSTS_LSTATE state) (A.HRM_PCTL 0) F.HRM_PCTL_LINK link
def linkLate (state link : Nat) : Dev := later (us (2 ^ 17)) (linkD state link)
theorem witness_link_quiet : portEmpty (tk (linkLate 3 1)) 0 ∧ quiet (tk (linkLate 3 1)) := by unfold portEmpty quiet; decide
theorem witness_link : fget (tk (linkD 0 0)) (A.HRM_PCTL 0) F.HRM_PCTL_LINK = 0 ∧ lstate (tk (linkD 0 0)) 0 = 0 ∧
    fget (tk (linkLate 3 1)) (A.HRM_PCTL 0) F.HRM_PCTL_LINK = 1 ∧ lstate (tk (linkLate 3 1)) 0 ≠ 0 ∧
    (portOf (tk (linkLate 3 1)) 0).resetAt + us (liveGet (tk (linkLate 3 1)) (A.HRM_CFG 0) F.HRM_CFG_RWIN) < (tk (linkLate 3 1)).now ∧
    ¬ (portOf (tk (linkD 3 0)) 0).resetAt + us (liveGet (tk (linkD 3 0)) (A.HRM_CFG 0) F.HRM_CFG_RWIN) < (tk (linkD 3 0)).now ∧
    lstate (tk (linkD 3 0)) 0 ≠ 0 ∧ (portOf (tk (linkD 3 0)) 0).failAt = 0 := by decide
def portWith (x : Port) (d : Dev) : Dev := { d with ports := [(0, x)] }
theorem witness_train_fail : (portOf (tk (portWith { Port.init with failAt := 1 } (linkLate 3 1))) 0).failAt ≠ 0 ∧
    (portOf (tk (portWith { Port.init with failAt := 1 } (linkLate 3 1))) 0).failAt - 1 + ms 1
      ≤ (tk (portWith { Port.init with failAt := 1 } (linkLate 3 1))).now := by decide
/-- Training at port 0: in RESET, in DETECT, and in each phase of TRAIN. -/
def phaseD (ph : Nat) : Dev := portWith { Port.init with phase := ph, passOwn := 0xFFFF, master := true } (linkLate 3 1)
theorem witness_training : lstate (tk (linkLate 1 1)) 0 = 1 ∧ (portOf (tk (linkLate 1 1)) 0).resetAt + us 1 ≤ (tk (linkLate 1 1)).now ∧
    (portOf (tk (linkLate 1 1)) 0).resetCfg = false ∧ fget (tk (linkLate 1 0)) (A.HRM_PCTL 0) F.HRM_PCTL_LINK = 0 ∧
    lstate (tk (linkLate 1 0)) 0 = 1 ∧ lstate (tk (linkD 2 1)) 0 = 2 ∧ (1#14 : BitVec 14).toNat ≠ ownChip (tk (linkD 2 1)) ∧
    inPhase (tk (phaseD 1)) 0 1 = true ∧ inPhase (tk (phaseD 2)) 0 2 = true ∧
    (portOf (tk (phaseD 2)) 0).phaseAt + us 100 ≤ (tk (phaseD 2)).now ∧ inPhase (tk (phaseD 3)) 0 3 = true ∧
    (portOf (tk (phaseD 3)) 0).master = true ∧
    chooseWidth (liveGet (tk (phaseD 3)) (A.HRM_PCTL 0) F.HRM_PCTL_RW) (portOf (tk (phaseD 3)) 0).peer.rw
      ((portOf (tk (phaseD 3)) 0).passOwn &&& 0xFFFF &&& (0xFFFF - (portOf (tk (phaseD 3)) 0).peer.excl % 2 ^ 16)) = some (0, 0) ∧
    chooseWidth 0 0 0xFFFE = some (1, 1) ∧ (chooseWidth 0 0 0).isSome = false ∧ inPhase (tk (phaseD 4)) 0 4 = true ∧
    lstate (tk (phaseD 4)) 0 = 3 ∧ (portOf (tk (phaseD 4)) 0).failAt = 0 ∧
    (portOf (tk (phaseD 4)) 0).trainAt + us (liveGet (tk (phaseD 4)) (A.HRM_CFG 0) F.HRM_CFG_TRAIN) ≤ (tk (phaseD 4)).now := by decide

/-- Port 0 UP and RUNNING, its links of minor version 1; and in IDENT with an IDENT taken. -/
def upD : Dev := fset (runs (.hrm 0) (linkD 5 1)) (A.HRM_PSTS 0) F.HRM_PSTS_MINOR 1
theorem witness_ident : lstate (tk (linkD 4 1)) 0 = 4 ∧ (portOf (tk (linkD 4 1)) 0).ident = [] ∧ quiet (tk (linkD 4 1)) ∧
    (portOf (tk (portWith { Port.init with ident := [1], ownRes := 3 } (linkD 4 1))) 0).ident ≠ [] ∧
    (portOf (tk (portWith { Port.init with ident := [1], ownRes := 3 } (linkD 4 1))) 0).ownRes ≤ 3 := by unfold quiet; decide
def farM : Msg := { msg0 with dchip := 1, schip := 2, ttl := 3 }
theorem witness_forward : farM.dchip ≠ ownChip (tk upD) ∧ farM.schip ≠ ownChip (tk upD) ∧ farM.lepoch = epochOf (tk upD) 0 ∧
    dataRuns (tk upD) 0 = true ∧ fget (tk upD) (A.HRM_PSTS 0) F.HRM_PSTS_MINOR ≠ 0 ∧ farM.ttl ≠ 0 ∧
    routeTo (tk upD) farM.dchip = some 0 ∧ carries (tk upD) 0 farM.vc = true ∧ { farM with ttl := 0 }.mtype ≤ 3 ∧
    { farM with lepoch := 1 }.lepoch ≠ epochOf (tk upD) 0 ∧ msg0.dchip = ownChip (tk upD) := by decide
theorem test_forward_ttl : (portOf (after (.messageForward 0 0 farM) upD) 0).queue.map (fun o => o.msg.ttl) = [2] := by decide

/-- A HEAD flit on VC0 that holds a whole message, and its CRC; a frame of zeros. -/
def headFlit : List Byte := leBytes 8 5 ++ List.replicate 244 0
def goodFlit : List Byte := headFlit ++ leBytes 4 (crc32c headFlit)
theorem witness_flit : goodFlit.length = 256 ∧ leAt goodFlit 252 4 = crc32c (goodFlit.take 252) ∧
    bits (leAt goodFlit 0 8) 3 0 = 5 ∧ bits (leAt goodFlit 0 8) 6 4 ≤ 5 ∧
    bits (leAt goodFlit 0 8) 19 8 = (portOf (tk upD) 0).expect ∧ bit (leAt goodFlit 0 8) 32 = false ∧
    bits (leAt goodFlit 0 8) 48 45 = 0 ∧ bits (leAt goodFlit 0 8) 44 36 = 0 ∧
    protoBad (msgOf ((goodFlit.drop 8).take 244) 0) (leAt ((goodFlit.drop 8).take 244) 0 8) = false := by decide +kernel
theorem witness_flit_port : 4 ≤ lstate (tk upD) 0 ∧ (portOf (tk upD) 0).frameBad = false ∧ (portOf (tk upD) 0).replay = [] ∧
    (portOf (tk upD) 0).nakAt = 0 ∧ (portOf (tk upD) 0).frameNo = none ∧ (portOf (tk upD) 0).owed = [] ∧
    lstate (tk (linkD 4 1)) 0 = 4 := by decide
def frame0 : List Nat := List.replicate 2176 0
theorem gf_zero (x : Nat) : gfMul 0 x = 0 := by simp [gfMul, List.range, List.range.loop]
theorem fold_zero (x : Nat) (w : List Nat) (h : ∀ s ∈ w, s = 0) : w.foldl (fun acc s => gfMul acc x ^^^ s) 0 = 0 := by
  induction w with
  | nil => rfl
  | cons a w ih => simp [List.foldl_cons, gf_zero, h a (by simp), ih (fun s hs => h s (by simp [hs]))]
theorem decode_zero (w : List Nat) (h : ∀ s ∈ w, s = 0) : rsDecode w = some (w, 0) := by
  simp [rsDecode, rsSyndromes, fold_zero _ w h]
theorem every_zero (k : Nat) (s : Nat) (h : s ∈ everyNth 4 frame0 k) : s = 0 := by
  simp only [everyNth, List.mem_map, List.mem_filter] at h
  obtain ⟨⟨a, i⟩, ⟨h, -⟩, rfl⟩ := h
  have := (List.mem_zipIdx h).2.2
  simp [this, frame0, -List.reduceReplicate, List.getElem_replicate]
theorem witness_frame : (frameDecode 16 frame0).failed = 0 := by
  simp only [frameDecode, List.map_map, List.length_eq_zero_iff, List.filter_eq_nil_iff, List.mem_map]
  rintro o ⟨k, -, rfl⟩
  simp [decode_zero _ (every_zero k)]
/-- One message queued on VC0 with one credit, after an IDLE. -/
def outD : Dev := portWith { Port.init with queue := [⟨0, farM, 0, none⟩], idleAt := 1 } (fset upD (A.HRM_VCCRED 0 0) F.HRM_VCCRED_SCRED 1)
theorem witness_flit_send : idleDue (tk outD) 0 = false ∧ (portOf (tk outD) 0).resend = none ∧
    nextOut (tk outD) 0 0 = some ⟨0, farM, 0, none⟩ ∧ farM.data.length ≤ 212 ∧ (portOf (tk outD) 0).owed = [] := by decide
/-- 13: CRC-32C of the ASCII digits 1 to 9 is 0xE306_9283. -/
theorem test_crc32c : crc32c [0x31, 0x32, 0x33, 0x34, 0x35, 0x36, 0x37, 0x38, 0x39] = 0xE3069283 := by decide +kernel

/-- A request for address 0 of one byte, from chip 1, a member; and one from chip 2, which is not. -/
def rdM (chip : Nat) : Msg := { msg0 with schip := chip, vc := 2 }
def memberD : Dev := fset (regSet (allCh upD) (A.SID_MEMB 0) 2#64) A.GLB_CHIP F.GLB_CHIP_CHIP 3
theorem witness_remote : scrubbing (ob memberD) = false ∧ (rdM 1).schip ≠ ownChip (ob memberD) ∧
    routeTo (ob memberD) 1 = some 0 ∧ carries (ob memberD) 0 3 = true ∧ isMember (ob memberD) 1 = true ∧
    isMember (ob memberD) 2 = false ∧ routeTo (ob memberD) 2 = some 0 ∧ (ob memberD).ms.marks = [] ∧ bit (rdM 1).w2 48 = false := by decide +kernel
theorem witness_remote_arrives : arrives (ob memberD) 0 { rdM 1 with mtype := 4 } ∧ arrives (ob memberD) 0 { rdM 1 with mtype := 5 } ∧
    arrives (ob memberD) 0 { rdM 2 with mtype := 4 } ∧
    plainMem (settle (countPkg (takeInbox (ob memberD) 0 { rdM 1 with mtype := 4 }) 0xC05 0 1 true)) 0 1 := by
  unfold arrives quiet plainMem; decide +kernel
theorem witness_remote_scrub : scrubbing (ob (fset r0 A.GLB_SCRUB F.GLB_SCRUB_STATE 1)) = true := by decide

/-- One outstanding request: a read (owner 0) or a write (owner 1) of TAG 1 by port 0. -/
def reqR (owner : Nat) : Req := ⟨1, 0, 0, 0, owner, 0, 0, 0, 0, 0, 0, 1, 0, 0, 4, none⟩
def reqD (owner : Nat) : Dev := { upD with aqd := { upD.aqd with reqs := [reqR owner] } }
def rspM : Msg := { msg0 with schip := 1, w1 := 1, vc := 3 }
theorem witness_response : aqdWaits (ob (reqD 0)) ∧ arrives (ob (reqD 0)) 0 { rspM with mtype := 6 } ∧
    reqOf (ob (reqD 0)) 1 0 0 = some (reqR 0) ∧
    (reqR 0).rungen = fget (settle (takeInbox (ob (reqD 0)) 0 { rspM with mtype := 6 })) (A.AQD_CHSTS 0 0) F.RUNGEN ∧
    bits rspM.w1 51 48 = 0 ∧ (settle (takeInbox (ob (reqD 0)) 0 { rspM with mtype := 6 })).aqd = (ob (reqD 0)).aqd ∧
    reqOf (ob upD) 1 0 0 = none := by unfold aqdWaits arrives quiet; decide
theorem witness_response_write : aqdWaits (ob (reqD 1)) ∧ arrives (ob (reqD 1)) 0 { rspM with mtype := 7 } ∧
    reqOf (ob (reqD 1)) 1 0 0 = some (reqR 1) ∧ bits rspM.w1 15 0 ≠ 0 ∧ bits msg0.w1 15 0 = 0 ∧
    (ob { upD with mach := { upD.mach with perm := { upD.mach.perm with run := true } } }).mach.perm.run = true := by
  unfold aqdWaits arrives quiet; decide
theorem witness_response_timeout : aqdWaits (tk (later (us (2 ^ 20)) (reqD 0))) ∧
    (tk (later (us (2 ^ 20)) (reqD 0))).aqd.reqs.find? (fun r => r.owner != 4 && r.data.isNone
      && decide (r.at' + us (fget (tk (later (us (2 ^ 20)) (reqD 0))) (A.HRM_CFG r.oport) F.HRM_CFG_RSP)
        < (tk (later (us (2 ^ 20)) (reqD 0))).now)) = some (reqR 0) := by unfold aqdWaits; decide

/-! ### Sidereal time, notices, verdicts (14) -/

/-- A chip in a sidereal state with its counter at a value, as follower or as master. -/
def sidD (st time : Nat) : Dev := regSet (fset (fset r0 A.SID_STS F.SID_STS_STATE st) A.SID_CFG F.SID_CFG_PPSWIN 1000) A.SID_TIME (BitVec.ofNat 64 time)
def masterD (st time : Nat) : Dev := fset (sidD st time) A.SID_CTL F.SID_CTL_ROLE 1
def machD (f : Mach → Mach) (d : Dev) : Dev := { d with mach := f d.mach }
theorem witness_sid_set : isMaster (masterD 1 0) = true ∧ sidState (masterD 1 0) ≤ 1 ∧ isMaster r0 = false ∧
    2 ≤ sidState (masterD 2 0) := by decide +kernel
theorem witness_pps_idle : isMaster (tk r0) = false ∧ sidState (tk (masterD 0 0)) = 0 ∧
    isMaster (tk (masterD 1 500)) = true ∧ (100 : Nat) ≤ 100 ∧ (500000000 : Nat) ≤ 500000000 ∧
    (99 : Nat) < 100 ∧ 500000000 < 500000001 := by decide +kernel
def steppedD (st time ppsIn : Nat) : Dev := machD (fun m => { m with sidStepped := true, ppsIn := ppsIn, sidGood := 3 }) (masterD st time)
theorem witness_pps_step : sidState (tk (masterD 1 500)) = 1 ∧ (tk (masterD 1 500)).mach.sidStepped = false := by decide +kernel
theorem witness_pps_good : sidState (tk (steppedD 1 1000 0)) ≠ 0 ∧ (tk (steppedD 1 1000 0)).mach.sidStepped = true ∧
    (nearSecond (sidNow (tk (steppedD 1 1000 0)))).2.natAbs ≤ fget (tk (steppedD 1 1000 0)) A.SID_CFG F.SID_CFG_PPSWIN ∧
    (tk (steppedD 1 1000 0)).mach.ppsIn ≠ (nearSecond (sidNow (tk (steppedD 1 1000 0)))).1 / 1000000000 + 1 := by decide +kernel
theorem witness_pps_bad : sidState (tk (steppedD 2 1001 0)) = 2 ∧
    fget (tk (steppedD 2 1001 0)) A.SID_CFG F.SID_CFG_PPSWIN < (nearSecond (sidNow (tk (steppedD 2 1001 0)))).2.natAbs ∧
    (tk (steppedD 2 1000 1)).mach.ppsIn = (nearSecond (sidNow (tk (steppedD 2 1000 1)))).1 / 1000000000 + 1 := by decide +kernel
theorem test_pps_locks : sidState (after (.ppsPulse 0 100) (steppedD 3 1000 0)) = 2 ∧
    sidState (after (.ppsPulse 0 100) (steppedD 2 1001 0)) = 3 := by decide +kernel
theorem witness_reference_loss : isMaster (tk (masterD 2 0)) = true ∧ sidState (tk (masterD 2 0)) = 2 ∧
    (tk (later (ms 3000) (masterD 1 0))).mach.sidAt + ms 3000 ≤ (tk (later (ms 3000) (masterD 1 0))).now ∧
    sidState (tk (later (ms 3000) (masterD 1 0))) = 1 ∧ isMaster (tk (later (ms 3000) (masterD 1 0))) = true ∧
    isMaster (tk (sidD 2 0)) = false := by decide +kernel
theorem witness_measurement : (tk r0).now < (tk r0).mach.sidAt + us 10 ∧
    isMaster (tk (later (us 10) (sidD 1 0))) = false ∧
    (tk (later (us 10) (sidD 1 0))).mach.sidAt + us 10 ≤ (tk (later (us 10) (sidD 1 0))).now ∧
    sidState (tk (later (us 10) (sidD 1 0))) = 1 ∧ sidState (tk (later (us 10) (sidD 2 0))) = 2 := by decide +kernel
def heldOver : Dev := later (us 2) (fset (sidD 3 0) A.SID_CFG F.SID_CFG_HOLDMAX 1)
theorem witness_holdover : isMaster (tk heldOver) = false ∧ sidState (tk heldOver) = 3 ∧
    (tk heldOver).mach.holdoverAt + us (fget (tk heldOver) A.SID_CFG F.SID_CFG_HOLDMAX) < (tk heldOver).now ∧
    sidState (tk (sidD 2 0)) ≠ 3 := by decide +kernel
theorem witness_pps_out : 2 ≤ sidState (tk (sidD 2 1000000000)) ∧
    sidNow (tk (sidD 2 1000000000)) / 1000000000 ≠ (tk (sidD 2 1000000000)).mach.ppsMark ∧ sidState (tk (sidD 1 0)) < 2 := by
  decide +kernel

/-- A notice of time `n` is held for the reclaim and the hold notice, at sidereal time `time`. -/
def noticed (n time : Nat) : Dev := machD (fun m => { m with reclaim := ⟨n, 0, []⟩, hold := ⟨n, 0, []⟩ }) (sidD 2 time)
theorem witness_notices : (sidD 2 5).mach.reclaim.time = 0 ∧ sidNow (sidD 2 5) ≠ 0 ∧ sidNow (sidD 2 5) ≠ (sidD 2 5).mach.reclaim.cleared ∧
    (sidD 2 5).mach.hold.time = 0 ∧ sidNow (sidD 2 5) ≠ (sidD 2 5).mach.hold.cleared ∧
    (noticed 3 5).mach.reclaim.time ≠ 0 ∧ (noticed 3 5).mach.reclaim.time < sidNow (noticed 3 5) ∧
    (noticed 3 5).mach.hold.time ≠ 0 := by decide +kernel
theorem witness_bank_switch : blkState r0 .col = 0 ∧ (∀ p, p < 8 → stOf r0 (A.HRM_PSTS p) = 0) ∧ blkState (runs .col r0) .col ≠ 0 ∧
    stOf (runs (.hrm 7) r0) (A.HRM_PSTS 7) ≠ 0 := by decide +kernel
def closing (isOpen : Bool) : Dev := setSeq (noticed 3 (2 ^ 63)) (fun q => { q with stepOpen := isOpen })
theorem witness_drill_close : (tk r0).mach.reclaim.time = 0 ∧ (tk (closing true)).mach.reclaim.time ≠ 0 ∧
    (tk (closing true)).mach.reclaim.time ≠ (tk (closing true)).mach.closed ∧
    (tk (closing true)).mach.reclaim.time + stSec (fget (tk (closing true)) A.SID_RCFG F.SID_RCFG_CLOSE) ≤ sidNow (tk (closing true)) ∧
    (tk (closing true)).seq.stepOpen = true ∧ (tk (closing false)).seq.stepOpen = false ∧
    sidNow (tk (fset (noticed 3 3) A.SID_RCFG F.SID_RCFG_CLOSE 1)) <
      3 + stSec (fget (tk (fset (noticed 3 3) A.SID_RCFG F.SID_RCFG_CLOSE 1)) A.SID_RCFG F.SID_RCFG_CLOSE) := by decide +kernel
theorem test_notice_clear : fget (after .reclaimClear (noticed 3 5)) A.SID_RCLM F.SID_RCLM_ACTIVE = 0 ∧
    (after .reclaimClear (noticed 3 5)).mach.reclaim.cleared = 3 := by decide +kernel

/-- A node of one child at port 0, root or not, its sequencers RUNNING, with its own report for step 5 made or not. -/
def nodeD (root : Nat) (own : Option (Nat × Nat)) : Dev :=
  let d := fset (fset (runs .seq (linkD 5 1)) (A.SID_VTREE 0) F.SID_VTREE_CHILD 1) (A.SID_VTREE 0) F.SID_VTREE_ROOT root
  machD (fun m => { m with tree := { m.tree with own := own } }) (fset d (A.SID_VTREE 0) F.SID_VTREE_CHILDTMO 1)
theorem witness_report : 0 ∈ treeChildren (tk (nodeD 1 none)) ∧ 1 ∉ treeChildren (tk (nodeD 1 none)) ∧
    seqState (tk (nodeD 1 none)) = 1 ∧ (tk (nodeD 1 none)).mach.tree.own = none ∧
    treeChildren (tk (nodeD 1 (some (5, 1)))) = [0] ∧ seqState (tk (nodeD 1 (some (5, 1)))) = 1 ∧
    (tk (nodeD 1 (some (5, 1)))).mach.tree.own = some (5, 1) ∧
    (tk (nodeD 1 (some (5, 1)))).mach.tree.sent.map Prod.fst ≠ some 5 ∧ lstate (tk (nodeD 1 (some (5, 1)))) 0 = 5 ∧
    0 ∉ (tk (nodeD 1 (some (5, 1)))).mach.tree.silent ∧ treeRoot (tk (nodeD 1 (some (5, 1)))) = true ∧
    treeRoot (tk (nodeD 0 (some (5, 1)))) = false := by decide +kernel
theorem witness_report_quiet : quiet (tk (nodeD 1 (some (5, 1)))) ∧ quiet (tk (nodeD 0 (some (5, 1)))) := by unfold quiet; decide +kernel
def silentD : Dev := later (us 1) (nodeD 1 (some (5, 1)))
theorem witness_child_timeout : fget (tk silentD) (vtree (tk silentD)) F.SID_VTREE_CHILDTMO ≠ 0 ∧
    (tk silentD).mach.tree.own = some (5, 1) ∧
    (tk silentD).mach.tree.ownAt + us (fget (tk silentD) (vtree (tk silentD)) F.SID_VTREE_CHILDTMO) ≤ (tk silentD).now ∧
    treeChildren (tk silentD) = [0] ∧ childInput (tk silentD) false 5 0 = none ∧
    (tk silentD).mach.tree.sent.map Prod.fst ≠ some 5 ∧ seqState (tk silentD) = 1 ∧ treeRoot (tk silentD) = true := by decide +kernel
theorem witness_child_timeout_quiet : quiet (tk silentD) := by unfold quiet; decide +kernel
theorem test_report_poison : fget (after (.reportReceive 0 0 5 2 false) (nodeD 1 (some (5, 1)))) A.SID_VSTS F.SID_VSTS_VERDICT = 2 := by
  decide +kernel

/-! ### The collective engine (14) -/

/-- An all-reduce of 256 bytes at address 0 between chips 3 (this one) and 1; the engine runs, its entry is armed. -/
def cltE : List Nat := [0, 0x1000 + 2 ^ 42, 256, 0, 0, 0, 0, 0]
def colD (armed : Nat) : Dev :=
  let d := runs .col memberD
  machD (fun m => { m with armed := armed, ended := 0 })
    { d with mem := memPut [] 0x1000 4 0x10003, tables := { d.tables with clt := cltE } }
theorem witness_launch : cltEntry (lc (colD 1)) 0 = some cltE ∧ (0 : Nat) < (lc (colD 1)).mach.armed ∧ (lc (colD 1)).mach.ended ≠ 1 ∧
    (lc (colD 1)).mach.launched = 0 ∧ ceTcount cltE ≤ trigProd (lc (colD 1)) (ceTrill cltE) ∧ (lc (colD 1)).mach.colls.length < 16 ∧
    running (lc (colD 1)) .col = true ∧ ceTapL cltE = false ∧ 2 ≤ cltNm cltE ∧
    (lc (colD 1)).mach.keptReady.contains (0, curStep (lc (colD 1)) * 256 + attemptNow (lc (colD 1))) = false ∧
    collOf (lc (colD 1)) 0 = none ∧ cltPeer (lc (colD 1)) cltE (cltIdx cltE + cltNm cltE - 1) = 1 ∧ ownChip (lc (colD 1)) = 3 ∧
    routeTo (lc (colD 1)) 1 = some 0 ∧ carries (lc (colD 1)) 0 (ceVc cltE) = true ∧ (lc (colD 0)).mach.armed ≤ (lc (colD 0)).mach.launched := by
  decide +kernel
theorem witness_launch_quiet : quiet (lc (colD 1)) := by unfold quiet; decide +kernel

/-- That collective as it runs: the next phase to send and to land, phases acknowledged, bytes landed of phase 0. -/
def collX (next landed acked got : Nat) : Coll := ⟨0, cltE, 0, 0, 0, false, next, acked, [(0, got)], landed, true⟩
def inColl (c : Coll) : Dev := machD (fun m => { m with colls := [c] }) (colD 1)
def colM (step : Nat) : Msg := { msg0 with schip := 1, vc := 1, mtype := 3, w1 := step * 2 ^ 32, data := [1, 2, 3, 4] }
theorem witness_coll_arrives : arrives (inColl (collX 0 0 0 0)) 0 (colM 0) ∧ arrives (inColl (collX 0 0 0 0)) 0 (colM 1) ∧
    plainMem (inColl (collX 0 0 0 0)) 0 4 ∧ plainMem (inColl (collX 0 0 0 0)) (cltBuf cltE + ceSends cltE 0 * ceChunk cltE) (ceChunk cltE) := by
  unfold arrives quiet plainMem; decide +kernel
theorem witness_coll_message : (inColl (collX 0 0 0 0)).ms.marks = [] ∧ bits (colM 0).w1 13 4 = 0 ∧
    collOf (inColl (collX 0 0 0 0)) 0 = some (collX 0 0 0 0) ∧ collCurrent (inColl (collX 0 0 0 0)) (colM 0) = true ∧
    collCurrent (inColl (collX 0 0 0 0)) (colM 1) = false ∧ bits (colM 0).w2 41 0 + 4 ≤ cltLen cltE ∧ ceTapR cltE = false ∧
    atomSize (cltFmt cltE) = some 4 ∧ inStacks (inColl (collX 0 0 0 0)) 0 4 = true ∧ ceFirst cltE = 0 ∧ (0 : Nat) ≤ ceLast cltE ∧
    ceFirst cltE < cltNm cltE - 1 ∧ 0 < ceChunk cltE ∧ ceChunk cltE ≤ 4096 ∧
    cltPeer (inColl (collX 0 0 0 0)) cltE (cltIdx cltE + 1) = 1 ∧ ownChip (inColl (collX 0 0 0 0)) = 3 ∧
    routeTo (inColl (collX 0 0 0 0)) 1 = some 0 ∧ carries (inColl (collX 0 0 0 0)) 0 (ceVc cltE) = true := by decide +kernel
theorem witness_phase_landed : collOf (inColl (collX 2 0 0 128)) 0 = some (collX 2 0 0 128) ∧ (0 : Nat) ≤ ceLast cltE ∧
    ceChunk cltE ≤ sget 0 0 (collX 2 0 0 128).bytes ∧ ceLast cltE < 2 ∧ (collX 2 0 0 128).scaled = true ∧
    cltPeer (inColl (collX 2 0 0 128)) cltE (cltIdx cltE + cltNm cltE - 1) = 1 ∧
    sget 0 0 (collX 2 0 0 127).bytes < ceChunk cltE ∧ ceLast cltE < (collX 2 2 2 0).landed ∧ (collX 2 2 2 0).next ≤ (collX 2 2 2 0).acked := by
  decide +kernel
theorem witness_phase_quiet : quiet (inColl (collX 2 0 0 128)) := by unfold quiet; decide +kernel
def lateColl : Dev := later (us (2 ^ 33)) (inColl (collX 0 0 0 0))
theorem witness_coll_timeout : collOf (tk lateColl) 0 = some (collX 0 0 0 0) ∧
    (collX 0 0 0 0).launchedAt + us (fget (tk lateColl) A.COL_CFG F.COL_CFG_TMO) < (tk lateColl).now := by decide +kernel
/-- R527: an ADD of 1.0 to 1.0 leaves 2.0. -/
theorem test_coll_add : memNat (after (.collAdd 0 { colM 0 with data := leBytes 4 0x3F800000 })
    { inColl (collX 0 0 0 0) with mem := memPut [] 0 4 0x3F800000 }).mem 0 4 = 0x40000000 := by decide +kernel

/-- A permutation of one entry: 4 bytes from address 64 to chip 1; ARM as given. -/
def permD (arm : Nat) (run : Bool) : Dev :=
  let d := fset (runs .col memberD) A.COL_PRX F.COL_PRX_ARM arm
  machD (fun m => { m with reclaim := ⟨3, 0, []⟩, perm := { m.perm with run := run } })
    { regSet d A.SID_TIME (BitVec.ofNat 64 (2 ^ 63)) with mem := memPut (memPut (memPut [] 0 8 1) 8 8 64) 24 8 4 }
theorem witness_perm_quiet : quiet (tk (permD 1 false)) ∧ quiet (tk (permD 0 false)) ∧ quiet (tk (permD 1 true)) ∧
    plainMem (tk (permD 1 false)) 0 32 ∧ plainMem (tk (permD 1 false)) 64 4 := by unfold quiet plainMem; decide +kernel
theorem witness_perm : (tk (permD 1 false)).ms.marks = [] ∧ (tk (permD 1 false)).mach.reclaim.time = 3 ∧
    (tk (permD 1 false)).mach.perm.run = false ∧
    3 + stSec (fget (tk (permD 1 false)) A.SID_RCFG F.SID_RCFG_PSTART) ≤ sidNow (tk (permD 1 false)) ∧
    (tk (permD 1 false)).mach.started ≠ 3 ∧ fget (tk (permD 0 false)) A.COL_PRX F.COL_PRX_ARM = 0 ∧
    fget (tk (permD 1 false)) A.COL_PRX F.COL_PRX_ARM = 1 ∧ running (tk (permD 1 false)) .col = true ∧
    fget (tk (permD 1 false)) A.COL_PERM F.COL_PERM_NPM1 = 0 ∧ fget (tk (permD 1 false)) A.COL_PERM F.COL_PERM_BASE = 0 ∧
    bits (leAt (memRead (tk (permD 1 false)).mem 0 32) 8 8) 41 0 = 64 ∧ bits (leAt (memRead (tk (permD 1 false)).mem 0 32) 24 8) 31 0 = 4 ∧
    bits (leAt (memRead (tk (permD 1 false)).mem 0 32) 0 8) 13 0 = 1 ∧ ownChip (tk (permD 1 false)) ≠ 1 ∧
    routeTo (tk (permD 1 false)) 1 = some 0 ∧ fget (tk (permD 1 false)) A.COL_PRX F.COL_PRX_VC = 1 ∧
    carries (tk (permD 1 false)) 0 4 = true := by decide +kernel
theorem witness_perm_ends : (tk (permD 1 true)).mach.perm.run = true ∧ (tk (permD 1 true)).mach.perm.unacked = 0 ∧
    fget (tk (permD 1 true)) A.COL_PRX F.COL_PRX_RXBYTES ≤ (tk (permD 1 true)).mach.perm.landed ∧
    3 + stSec (fget (tk (permD 1 true)) A.SID_RCFG F.SID_RCFG_PSTART + fget (tk (permD 1 true)) A.SID_RCFG F.SID_RCFG_PBUDGET)
      ≤ sidNow (tk (permD 1 true)) := by decide +kernel
theorem witness_pwrite : bits (colM 0).w1 23 16 = fget (permD 1 true) A.COL_PRX F.COL_PRX_PATT ∧
    bits (colM 0).w2 61 46 = fget (permD 1 true) A.SID_SLICE F.SID_SLICE_SLICE ∧ bits (colM 0).w1 63 32 = curStep (permD 1 true) ∧
    bits (colM 1).w1 63 32 ≠ curStep (permD 1 true) ∧ routeTo (permD 1 true) (colM 0).schip = some 0 ∧
    carries (permD 1 true) 0 3 = true ∧ (colM 0).schip ≠ ownChip (permD 1 true) ∧ (permD 1 true).ms.marks = [] := by decide +kernel
theorem witness_pwrite_arrives : arrives (permD 1 true) 0 (colM 0) ∧ arrives (permD 1 true) 0 (colM 1) ∧ plainMem (permD 1 true) 0 4 := by
  unfold arrives quiet plainMem; decide +kernel
theorem test_pwrite : (after (.pwrite 0 (colM 0)) (permD 1 true)).mach.perm.landed = 4 ∧
    (after (.pwrite 0 (colM 1)) (permD 1 true)).mach.perm.landed = 0 := by decide +kernel

/-! ### The host's side, the scrub and management (15) -/

/-- A ring RUNNING, of a kind, with 8 delivery slots and 256 entries, the host's index at 1. -/
def ringD (kind : Nat) : Dev :=
  let a := A.HST_RCFG 0
  let d := fset (fset (fset (allCh r0) a F.HST_RCFG_KIND kind) a F.HST_RCFG_DLOG 3) a F.HST_RCFG_LOGN 8
  fset (runs (.ring 0) (latch d [a])) (A.HST_RIDX 0) F.HST_RIDX_HOSTIDX 1
theorem witness_doorbell : (4#20 : BitVec 20).toNat % 0x1000 ≠ 0 ∧ (0x1000#20 : BitVec 20).toNat % 0x1000 = 0 ∧
    bellBad r0 1 (leNat (leBytes 4 0)) = false ∧ bellBad r0 1 (leNat (leBytes 4 (2 ^ 31))) = true ∧ r0.hst.evovf = none := by decide +kernel
theorem witness_fetch : ringFetches (tk (ringD 0)) 0 true = true ∧ pstate (tk (ringD 0)) < 2 ∧
    (ringH (tk (ringD 0)) 0).fetched ≠ fget (tk (ringD 0)) (A.HST_RIDX 0) F.HST_RIDX_HOSTIDX ∧ slotFree (tk (ringD 0)) 0 = true ∧
    slotAt (tk (ringD 0)) 0 0 = 0 ∧ (tk (ringD 0)).ms.marks = [] ∧ ((leBytes 64 1).headD 0).toNat = 1 ∧
    ringFetches (tk (fset (ringD 0) A.PWR_STS F.PWR_STS_PSTATE 2)) 0 true = true ∧
    2 ≤ pstate (tk (fset (ringD 0) A.PWR_STS F.PWR_STS_PSTATE 2)) ∧
    (ringH (tk (fset (ringD 0) (A.HST_RIDX 0) F.HST_RIDX_HOSTIDX 0)) 0).fetched =
      fget (tk (fset (ringD 0) (A.HST_RIDX 0) F.HST_RIDX_HOSTIDX 0)) (A.HST_RIDX 0) F.HST_RIDX_HOSTIDX := by decide +kernel
theorem witness_fetch_quiet : quiet (tk (ringD 0)) ∧ plainMem (tk (ringD 0)) 0 64 ∧
    quiet (tk (fset (ringD 0) A.PWR_STS F.PWR_STS_PSTATE 2)) ∧ quiet (tk (fset (ringD 0) (A.HST_RIDX 0) F.HST_RIDX_HOSTIDX 0)) := by
  unfold quiet plainMem; decide +kernel
theorem test_descriptor_type : (ringH (after (.descriptorFetch 0 0 (some (leBytes 64 3))) (ringD 0)) 0).stopped = true ∧
    (ringH (after (.descriptorFetch 0 0 (some (leBytes 64 2))) (ringD 0)) 0).fetched = 1 := by decide +kernel
theorem witness_data_fetch : ringFetches (st (ringD 2)) 0 false = true ∧
    (ringH (st (ringD 2)) 0).fetched ≠ fget (st (ringD 2)) (A.HST_RIDX 0) F.HST_RIDX_HOSTIDX ∧
    sub32 (ringH (st (ringD 2)) 0).fetched (ringH (st (ringD 2)) 0).head ≤ 4 := by decide +kernel
theorem witness_data_fetch_quiet : quiet (st (ringD 2)) ∧ aqdWaits (st (ringD 2)) := by unfold quiet aqdWaits; decide +kernel
/-- A transfer whose source is HOST, waiting since time 0 for a descriptor of ring 0. -/
def hostX : Xfer := { copyX 0 with ent := [2 ^ 43, 0x1000, 0, 0, 0, 64, 0, 0], waitHost := 1 }
def waitD : Dev := later (us (2 ^ 33)) { aqdD with aqd := { aqdD.aqd with chans := [(0, [hostX])] } }
theorem witness_data_wait : nextXfer (aqdRun (tk aqdD)) 0 0 = none ∧ (∀ q, q < 4 → aqdQueue (aqdRun (tk waitD)) q = []) ∧
    (aqdRun (tk waitD)).aqd.chans = [(32 * 0 + 0, [hostX])] ∧ (aqdRun (tk waitD)).aqd.reqs = [] ∧ (aqdRun (tk waitD)).aqd.since = [] ∧
    (aqdRun (tk waitD)).aqd.ready = [] ∧ nextXfer (aqdRun (tk waitD)) 0 0 = some hostX ∧ hostX.waitHost ≠ 0 ∧
    hostX.waitHost - 1 + us (fget (aqdRun (tk waitD)) A.HST_CFG F.HST_CFG_DWAIT) < (aqdRun (tk waitD)).now := by decide +kernel
def rec0 : Record := ⟨0xA8, 1, false, 11, 0, 0, 0, 0, 0, 0, [0, 0, 0, 0]⟩
def ovfD : Dev := let d := fset (ringD 1) (A.HST_RIDX 0) F.HST_RIDX_HOSTIDX 0; { d with hst := { d.hst with ovf := [(0, rec0)] } }
theorem witness_overflow : firstTaken ovfD [] ovfD.hst.ovf = some (0, rec0) ∧ ovfD.hst.statWait = [] ∧ ovfD.hst.evovf = none ∧
    firstTaken r0 [] r0.hst.ovf = none := by decide +kernel
def unsigD : Dev := let d := ringD 1; later (us (2 ^ 33)) { d with hst := { d.hst with rings := [(0, { RingH.init with unsig := 1 })] } }
theorem witness_moderation : (ringH (tk (ringD 1)) 0).unsig = 0 ∧ (ringH (tk unsigD) 0).unsig ≠ 0 ∧
    (ringH (tk unsigD) 0).unsigAt + us (fget (tk unsigD) A.HST_CFG F.HST_CFG_MODT) ≤ (tk unsigD).now := by decide +kernel
theorem witness_flr : blocksActive (ob r0) = [] ∧ (∀ b, b ∈ allBlocks (ob r0) → blkState (ob r0) b = 0) := by decide +kernel
theorem witness_scrub : scrubbing (ob r0) = false ∧ pstate (ob r0) = 0 ∧ blocksActive (ob (runs .eph r0)) ≠ [] ∧
    scrubbing (ob (runs .eph r0)) = false ∧ scrubbing (ob (fset r0 A.GLB_SCRUB F.GLB_SCRUB_STATE 1)) = true ∧
    (ob (fset r0 A.GLB_SCRUB F.GLB_SCRUB_STATE 1)).pwr.heldEn = [] := by decide +kernel

def mgmtM (n : Nat) : Msg := { msg0 with w1 := 1, data := List.replicate n 0 }
theorem witness_mgmt : linkStale (ob upD) 0 { mgmtM 4 with mtype := 8 } = false ∧ linkStale (ob upD) 0 { mgmtM 3 with mtype := 8 } = false ∧
    (mgmtM 4).vc < 6 ∧ bits (mgmtM 4).w1 7 0 = 1 ∧ 4 ≤ (mgmtM 4).data.length ∧ (mgmtM 1024).data.length ≤ 1024 ∧
    pldmRequest (mgmtM 4).data = false ∧ (mgmtM 3).data.length < 4 := by decide +kernel
/-- An SMBus write to address 0x4C with its PEC: x^8 + x^2 + x + 1 over the address byte 0x98 and the rest. -/
def smbBytes : List Byte := [0x0F, 5, 0, 1, 2, 3, 4, 135]
theorem witness_mctp : (tk r0).pwr.vaux = true ∧ (0x4C#7 : BitVec 7).toNat = 0x4C + (tk r0).pwr.smb ∧
    crc8 (BitVec.ofNat 8 (2 * (0x4C#7 : BitVec 7).toNat) :: smbBytes) = 0 ∧ smbBytes.headD 0 = 0x0F ∧
    smbBytes.length = (smbBytes.getD 1 0).toNat + 3 ∧ 5 ≤ (smbBytes.getD 1 0).toNat ∧
    crc8 (BitVec.ofNat 8 (2 * (0x4C#7 : BitVec 7).toNat) :: (smbBytes ++ [1])) ≠ 0 := by decide +kernel
def noAux (d : Dev) : Dev := { d with pwr := { d.pwr with vaux := false } }
def wpD : Dev := { r0 with pwr := { r0.pwr with wpLow := true } }
theorem witness_firmware : (tk (noAux r0)).pwr.vaux = false ∧ (tk r0).pwr.vaux = true ∧ (tk r0).pwr.wpLow = false ∧ pstate (tk r0) ≠ 4 ∧
    (tk wpD).pwr.wpLow = true ∧ (tk wpD).pwr.vaux = true ∧ ([] : List Byte).length ≤ 0xF00000 ∧
    slotReason (nvLater (nvWrite (tk r0) stagingBase [])) stagingBase ≠ 0 := by decide +kernel
def pst (n : Nat) (d : Dev) : Dev := fset d A.PWR_STS F.PWR_STS_PSTATE n
theorem witness_pldm_state : (ob (noAux r0)).pwr.vaux = false ∧ (ob r0).pwr.vaux = true ∧ pstate (ob r0) = 0 ∧
    pstate (ob (pst 2 r0)) = 2 ∧ (ob (pst 2 r0)).pwr.vaux = true := by decide +kernel

/-! ### Power (16) -/

/-- A half throttled for long, and one whose samples are away from the filtered level. -/
def filtD (samples : Nat) : Dev := later (ms 10001) (fset { r0 with pwr := { r0.pwr with samples := samples } } A.PWR_THR F.PWR_THR_FILT 1)
theorem witness_throttle : b2n false = fget (tk r0) A.PWR_THR F.PWR_THR_FILT ∧ b2n true ≠ fget (tk r0) A.PWR_THR F.PWR_THR_FILT ∧
    (tk r0).pwr.samples < 3 ∧ b2n false ≠ fget (tk (filtD 3)) A.PWR_THR F.PWR_THR_FILT ∧ 3 ≤ (tk (filtD 3)).pwr.samples ∧
    fget (tk r0) A.PWR_THR F.PWR_THR_FILT = 0 ∧ fget (tk (filtD 0)) A.PWR_THR F.PWR_THR_FILT = 1 ∧
    fget (tk (filtD 0)) A.PWR_THR F.PWR_THR_STUCK = 0 ∧ (tk (filtD 0)).pwr.filtAt + ms 10000 < (tk (filtD 0)).now := by decide +kernel
def warmD (coolAt : Nat) : Dev := later (ms 1) (fset { r0 with pwr := { r0.pwr with coolAt := coolAt } } A.PWR_THR F.PWR_THR_TWARN 95)
theorem witness_thermal : (95 : Nat) < 105 ∧ fget (tk (warmD 0)) A.PWR_THR F.PWR_THR_TWARN ≤ 95 ∧
    94 < fget (tk (warmD 0)) A.PWR_THR F.PWR_THR_TWARN ∧ fget (tk (warmD 0)) A.PWR_THR F.PWR_THR_TWARN ≤ 92 + 3 ∧
    91 + 3 < fget (tk (warmD 0)) A.PWR_THR F.PWR_THR_TWARN ∧ (tk (warmD 0)).pwr.coolAt = 0 ∧ (tk (warmD 1)).pwr.coolAt ≠ 0 ∧
    (tk (warmD 1)).pwr.coolAt - 1 + ms 1 ≤ (tk (warmD 1)).now := by decide +kernel
theorem test_thermal : fget (after (.thermalFloor 0 105) (warmD 0)) A.PWR_FLOOR F.PWR_FLOOR_EFF = 15 := by decide +kernel

theorem witness_rails : sget 0 (min (8#4 : BitVec 4).toNat 8) (tk r0).pwr.railMs ≠ (tk r0).now / ms 1 + 1 ∧
    min (15#4 : BitVec 4).toNat 8 = 8 ∧ pstate (tk (pst 4 r0)) = 4 ∧ pstate (tk r0) ≠ 4 ∧
    (tk { r0 with pwr := { r0.pwr with pwrok := true } }).pwr.pwrok = true ∧
    pstate (tk { r0 with pwr := { r0.pwr with pwrok := true } }) ≠ 4 := by decide +kernel
def allEmpty (d : Dev) : Prop := ∀ p, p < 8 → portEmpty d p
theorem witness_serdes : allEmpty (tk (linkLate 5 1)) := by unfold allEmpty portEmpty; decide +kernel
theorem witness_serdes_port : lstate (tk (linkLate 5 1)) 0 ≠ 0 ∧ lstate (tk (linkLate 5 1)) 1 = 0 ∧ 3 / 4 = (0#1 : BitVec 1).toNat ∧
    4 / 4 ≠ (0#1 : BitVec 1).toNat ∧ (portOf (tk (linkLate 5 1)) 0).resetAt +
      us (liveGet (tk (linkLate 5 1)) (A.HRM_CFG 0) F.HRM_CFG_RWIN) < (tk (linkLate 5 1)).now := by decide +kernel
def wpHeld : Dev := later 2 (fset wpD A.PWR_STS F.PWR_STS_NVWP 1)
theorem witness_guard : fget (tk r0) A.PWR_SUP F.PWR_SUP_NVBLOCK = 0 ∧ railState (tk r0) 0 = 0 ∧ railState (tk r0) 1 = 0 ∧
    pstate (tk r0) ≠ 4 ∧ (tk r0).pwr.wpLow = false ∧ fget (tk r0) A.PWR_STS F.PWR_STS_NVWP = 0 ∧ (tk wpHeld).pwr.wpLow = true ∧
    fget (tk wpHeld) A.PWR_STS F.PWR_STS_NVWP = 1 ∧ (tk wpHeld).now ≠ 0 := by decide +kernel

/-- An entry in progress: the sequencers (code 1, half 0) have not answered since time 0, or are in their n-th delay. -/
def entryD (ans delays : Nat) (d : Dev) : Dev :=
  { pst 1 (fset d A.PWR_HSTS F.PWR_HSTS_PHASE 1) with pwr := { d.pwr with blocks := [⟨1, 0, ans, 0, delays⟩] } }
theorem witness_hold : pstate (ob (pst 2 r0)) ≠ 0 ∧ pstate (ob r0) = 0 ∧ holdWaits (ob r0) 1 0 = none ∧
    holdWaits (ob (entryD 0 0 r0)) 1 0 = some ⟨1, 0, 0, 0, 0⟩ ∧ wakePending (ob (entryD 0 0 r0)) = false ∧
    (ob (entryD 0 0 r0)).now ≤ answerBy ⟨1, 0, 0, 0, 0⟩ ∧ holdAnswer (ob (entryD 0 0 r0)) 1 0 = .accept ∧
    holdAnswer (ob (entryD 2 2 (drains .seq r0))) 1 0 = .delay ∧
    holdWaits (ob (entryD 2 2 (drains .seq r0))) 1 0 = some ⟨1, 0, 2, 0, 2⟩ ∧
    holdAnswer (ob (entryD 0 0 (runs .seq r0))) 1 0 = .refuse 1 ∧ (ob (entryD 0 0 (runs .seq r0))).pwr.heldEn = [] ∧
    wakePending (ob (entryD 0 0 (runs .seq r0))) = false ∧
    holdWaits (ob (later (us 11) (entryD 0 0 r0))) 1 0 = some ⟨1, 0, 0, 0, 0⟩ ∧
    answerBy ⟨1, 0, 0, 0, 0⟩ < (ob (later (us 11) (entryD 0 0 r0))).now := by decide +kernel
def quiesceD (wake : Nat) : Dev := fset (pst 1 (fset r0 A.PWR_HSTS F.PWR_HSTS_PHASE 3)) A.PWR_WAKE F.PWR_WAKE_PEND wake
def savingD : Dev := let d := pst 1 r0; { d with pwr := { d.pwr with committed := true } }
theorem witness_quiesce : pstate (ob (quiesceD 0)) = 1 ∧ fget (ob (quiesceD 0)) A.PWR_HSTS F.PWR_HSTS_PHASE = 3 ∧
    wakePending (ob (quiesceD 0)) = false ∧ wakePending (ob (quiesceD 1)) = true ∧ (ob (quiesceD 1)).pwr.heldEn = [] ∧
    pstate (ob savingD) = 1 ∧ (ob savingD).pwr.committed = true ∧ (quiesceD 0).pwr.committed = false := by decide +kernel
def timerD : Dev := pst 2 (fset r0 A.PWR_WAKET F.PWR_WAKET_EN 1)
theorem witness_wake_timer : fget (tk r0) A.PWR_WAKET F.PWR_WAKET_EN = 0 ∧ fget (tk timerD) A.PWR_WAKET F.PWR_WAKET_EN = 1 ∧
    (pastSida (sidNow (tk timerD)) (fget (tk timerD) A.PWR_WAKET F.PWR_WAKET_TIME)).isSome = true ∧ pstate (tk timerD) = 2 ∧
    pstate (tk (pst 3 r0)) = 3 ∧ (tk (pst 3 r0)).pwr.heldEn = [] := by decide +kernel
theorem test_hold_refused : fget (after (.holdAnswer 0 1 0) (entryD 0 0 (runs .seq r0))) A.PWR_HSTS F.PWR_HSTS_REASON = 1 ∧
    pstate (after (.holdAnswer 0 1 0) (entryD 0 0 (runs .seq r0))) = 0 := by decide +kernel

/-- The pins PKG_PWROK and PKG_RST_N at given levels, VAUX present. -/
def pins (ok rst : Bool) : Dev := { r0 with pwr := { r0.pwr with pwrok := ok, rstN := rst } }
def badFuse (d : Dev) : Dev := { d with tst := { d.tst with fuseA := { d.tst.fuseA with olkey := ⟨none, none⟩ } } }
theorem witness_pins : (tk (pins true false)).pwr.pwrok = true ∧ (tk (pins false false)).pwr.pwrok = false ∧
    (tk (pins false false)).pwr.rstN = false ∧ (tk (pins false true)).pwr.rstN = true ∧ (tk (pins false true)).pwr.vaux = true ∧
    fuseBad (tk (badFuse (pins false true))) = true ∧ pstate (tk (badFuse (pins false true))) ≠ 4 ∧ fuseBad (tk r0) = false := by decide +kernel
def bootingD : Dev := fset (pins true true) A.TST_BOOT F.TST_BOOT_PHASE 7
theorem witness_bringup : (tk bootingD).tst.up = false ∧ (tk bootingD).tst.failed = false ∧
    fget (tk bootingD) A.TST_BOOT F.TST_BOOT_PHASE = 7 ∧ (tk bootingD).pwr.pwrok = true ∧ (tk bootingD).pwr.rstN = true ∧
    (tk hostD).tst.up = true := by decide +kernel
theorem test_bringup : fget (after (.bringupComplete 0) bootingD) A.TST_BOOT F.TST_BOOT_PHASE = 15 := by decide +kernel

/-! ### Test (17) -/

theorem witness_audit : pstate r0 ≠ 2 ∧ pstate (pst 2 r0) = 2 ∧ (pst 2 r0).tst.audit = none ∧ (tk r0).tst.audit = none ∧
    (tk { r0 with tst := { r0.tst with audit := some [⟨0xE3, 0⟩] } }).tst.audit = some [⟨0xE3, 0⟩] := by decide +kernel
def pairD : Dev := pst 2 (latch (fset r0 (A.RIL_CCTL 4095) F.RIL_CCTL_KIND 2) [A.RIL_CCTL 4095])
theorem witness_pair : rilKind pairD (4095#12 : BitVec 12).toNat = 2 ∧ pstate pairD = 2 ∧
    rilGrant pairD 4095 = ((2 ^ 32 - 1) + rilSlots pairD 4095) % 2 ^ 32 ∧ (60#12 : BitVec 12).toNat % 8 ≤ 4 ∧
    fget pairD (A.HRM_VCCRED (60 / 8) (60 % 8)) F.HRM_VCCRED_SCRED ≠ 1 := by decide +kernel
theorem witness_diag : fget (tk r0) A.TST_STS F.TST_STS_DIAG = 0 ∧
    fget (tk (fset r0 A.TST_STS F.TST_STS_DIAG 1)) A.TST_STS F.TST_STS_DIAG = 1 := by decide +kernel
theorem test_extest_bypass : (after (.extest 0) r0).tst.tap = 0xFF ∧
    (after (.extest 0) (fset r0 A.TST_STS F.TST_STS_DIAG 1)).tst.tap = 0 := by decide +kernel
def capD (st : Nat) : Dev := fset (setSeq r0 (fun q => { q with stepbHeld := true })) A.TST_CAPSTS F.TST_CAPSTS_STATE st
theorem witness_capture : fget (ob (capD 1)) A.TST_CAPSTS F.TST_CAPSTS_STATE = 1 ∧ fget (ob (capD 3)) A.TST_CAPSTS F.TST_CAPSTS_STATE ≠ 1 ∧
    fget (ob (capD 3)) A.TST_CAPSTS F.TST_CAPSTS_STATE ≠ 2 ∧ (ob r0).seq.stepbHeld = false := by decide +kernel
/-- A descriptor at address 0 of a buffer of 2^40 bytes. -/
def roomD : Dev := { capD 1 with mem := memPut [] 8 8 (2 ^ 40) }
theorem witness_base : (ob roomD).seq.stepbHeld = true ∧ (ob roomD).seq.reclaimSeen = false ∧ (ob roomD).seq.holdSeen = false ∧
    (baseWrite (settle (ob roomD)) (capDesc (ob roomD))).2.isSome = true := by decide +kernel
def rplD (state : Nat) : Dev := fset (fset r0 A.TST_RPL F.TST_RPL_MODE 1) A.TST_RPL F.TST_RPL_STATE state
theorem witness_replay_go : replayMode (ob r0) = false ∧ replayMode (ob (rplD 0)) = true ∧ blocksActive (ob (rplD 0)) = [] := by decide +kernel
theorem witness_replay_end : replaying (ob r0) = false ∧ replaying (ob (rplD 2)) = true ∧
    nextInput (ob (rplD 2)) (logBound (ob (rplD 2))) (ob (rplD 2)).tst.cap.pos (ob (rplD 2)).tst.cap.num = none := by decide +kernel
/-- A log of one entry: 8 bytes, an abort flag for step 7, or a RDRSP that nothing asked for. -/
def logD (kind : Nat) : Dev :=
  { rplD 2 with mem := memPut (memPut (memPut [] 0 1 kind) 4 4 8) 32 8 (7 + 2 * 2 ^ 32),
                tst := { r0.tst with cap := ⟨0, 64, 0, 0, 0, []⟩ } }
def entry0 (kind : Nat) : LogEntry := ⟨kind, 0, 0, leBytes 8 (7 + 2 * 2 ^ 32), 64⟩
theorem witness_replay : replaying (ob (logD 0x0B)) = true ∧
    nextInput (ob (logD 0x0B)) (logBound (ob (logD 0x0B))) (ob (logD 0x0B)).tst.cap.pos (ob (logD 0x0B)).tst.cap.num = some (0, entry0 0x0B) ∧
    bits (leAt (entry0 0x0B).data 0 8) 33 32 = 2 ∧ replaying (ob (logD 7)) = true ∧
    nextInput (ob (logD 7)) (logBound (ob (logD 7))) (ob (logD 7)).tst.cap.pos (ob (logD 7)).tst.cap.num = some (0, entry0 7) ∧
    deliverable (ob (logD 7)) (entry0 7) = false := by decide +kernel
theorem test_replay_abort : (after (.replayDeliver 0) (logD 0x0B)).mach.abortStep = some 7 := by decide +kernel
end Sys2Proof.Tests
end

section
/-! PROOFS. The frame of a command as one relation, what paging, counting an issue and moving a strand write, and how a
bundle that holds nothing but plain CTL ops issues or is held (02). -/

namespace Sys2Proof.Machine

/-! ### Frames over parts and registers -/

/-- Of `d`, only the parts `ps` and the registers that `p` marks may differ in `e`. -/
def Leaves (ps : List Piece) (p : Nat → Bool) (d e : Dev) : Prop := keepsBut ps d e ∧ keepsRegs p d e

theorem Piece.same_refl (d : Dev) (x : Piece) : x.same d d := by cases x <;> simp [Piece.same]

theorem Piece.same_trans {d e f : Dev} {x : Piece} (h : x.same d e) (g : x.same e f) : x.same d f := by
  cases x <;> simp_all [Piece.same]

theorem Leaves.refl (ps : List Piece) (p : Nat → Bool) (d : Dev) : Leaves ps p d d :=
  ⟨fun x _ => x.same_refl d, keepsRegs.refl p d⟩

theorem Leaves.trans {ps : List Piece} {p : Nat → Bool} {d e f : Dev} (h : Leaves ps p d e) (g : Leaves ps p e f) :
    Leaves ps p d f :=
  ⟨fun x hx => Piece.same_trans (h.1 x hx) (g.1 x hx), h.2.trans g.2⟩

theorem Leaves.weaken {ps qs : List Piece} {p q : Nat → Bool} {d e : Dev} (h : Leaves ps p d e) (hps : ps ⊆ qs)
    (hpq : ∀ a, q a = false → p a = false) : Leaves qs q d e :=
  ⟨fun x hx => h.1 x fun hm => hx (hps hm), h.2.weaken hpq⟩

theorem Leaves.widen {ps qs : List Piece} {p : Nat → Bool} {d e : Dev} (h : Leaves ps p d e) (hps : ps ⊆ qs) :
    Leaves qs p d e := h.weaken hps fun _ => id

theorem leaves_withSeq {p : Nat → Bool} (d : Dev) (q : Seq) : Leaves [.seq] p d (d.withSeq q) :=
  ⟨fun x hx => by cases x <;> simp_all [Piece.same], keepsRegs_of_regs rfl⟩

theorem leaves_withPend {p : Nat → Bool} (d : Dev) (l : List GovEvent) : Leaves [.gov] p d (d.withPend l) :=
  ⟨fun x hx => by cases x <;> simp_all [Piece.same], keepsRegs_of_regs rfl⟩

theorem OnlyRegs.leaves {p : Nat → Bool} {d e : Dev} (h : OnlyRegs p d e) : Leaves [] p d e :=
  ⟨fun x _ => by rw [h.eq]; cases x <;> simp [Piece.same], h.2⟩

theorem OnlyHst.leaves {p : Nat → Bool} {d e : Dev} (h : OnlyHst p d e) : Leaves [.hst] p d e :=
  ⟨fun x hx => by rw [h.eq]; cases x <;> simp_all [Piece.same], h.2⟩

theorem Leaves.now {ps : List Piece} {p : Nat → Bool} {d e : Dev} (h : Leaves ps p d e) (hc : .clock ∉ ps) :
    e.now = d.now := (h.1 .clock hc).1

theorem Leaves.pwr {ps : List Piece} {p : Nat → Bool} {d e : Dev} (h : Leaves ps p d e) (hc : .pwr ∉ ps) :
    e.pwr = d.pwr := h.1 .pwr hc

/-! ### Strands -/

@[simp] theorem strandOf_setStrand_self (d : Dev) (s : StrandId) (x : Strand) : strandOf (setStrand d s x) s = x := by
  cases s <;> rfl

@[simp] theorem setStrand_calls (d : Dev) (s : StrandId) (x : Strand) : (setStrand d s x).seq.calls = d.seq.calls := by
  cases s <;> rfl

theorem leaves_setStrand {p : Nat → Bool} (d : Dev) (s : StrandId) (x : Strand) : Leaves [.seq] p d (setStrand d s x) := by
  cases s <;> exact leaves_withSeq d _

theorem strandOf_congr {d e : Dev} (h : e.seq = d.seq) (s : StrandId) : strandOf e s = strandOf d s := by
  cases s <;> simp only [strandOf, h]

/-- The pair may issue as long as its state, its unwind and the power of the half logic are the same. -/
theorem canIssue_congr {d e : Dev} (hs : seqState e = seqState d) (hu : e.seq.unwind = d.seq.unwind)
    (hp : e.pwr = d.pwr) : canIssue e = canIssue d := by simp only [canIssue, hs, hu, hp]

theorem canIssue_of_strandDue {d : Dev} {s : StrandId} (h : strandDue d s = true) : canIssue d = true := by
  simp only [strandDue, Bool.and_eq_true] at h
  obtain ⟨⟨⟨hcan, -⟩, -⟩, -⟩ := h
  exact hcan

/-- A hold begins unless the strand is held already; the strand stays where it is, and nothing else changes (R87). -/
theorem holdStrand_holds (d : Dev) (s : StrandId) :
    (strandOf (holdStrand d s) s).held.isSome = true ∧ (strandOf (holdStrand d s) s).spc = (strandOf d s).spc ∧
      Leaves [.seq] (fun _ => false) d (holdStrand d s) := by
  simp only [holdStrand]
  split
  · next hheld => exact ⟨by rw [hheld]; rfl, rfl, Leaves.refl _ _ d⟩
  · exact ⟨by simp, by simp, leaves_setStrand d s _⟩

/-! ### Paging (R44, R45) -/

/-- `e` is `d` with other page frames and waiting fetches, and other changes on their way to the sequencers. -/
def OnlyPaging (d e : Dev) : Prop :=
  ∃ a b l, e = (d.withSeq { d.seq with pagerA := a, pagerB := b }).withPend l

theorem OnlyPaging.refl (d : Dev) : OnlyPaging d d := ⟨d.seq.pagerA, d.seq.pagerB, d.pend, rfl⟩

theorem OnlyPaging.trans {d e f : Dev} (h : OnlyPaging d e) (g : OnlyPaging e f) : OnlyPaging d f := by
  obtain ⟨a, b, l, rfl⟩ := h
  obtain ⟨a', b', l', rfl⟩ := g
  exact ⟨a', b', l', rfl⟩

theorem OnlyPaging.strandOf {d e : Dev} (h : OnlyPaging d e) (s : StrandId) :
    Machine.strandOf e s = Machine.strandOf d s := by
  obtain ⟨a, b, l, rfl⟩ := h
  cases s <;> rfl

theorem OnlyPaging.calls {d e : Dev} (h : OnlyPaging d e) : e.seq.calls = d.seq.calls := by
  obtain ⟨a, b, l, rfl⟩ := h
  rfl

theorem OnlyPaging.leaves {p : Nat → Bool} {d e : Dev} (h : OnlyPaging d e) : Leaves [.seq, .gov] p d e := by
  obtain ⟨a, b, l, rfl⟩ := h
  exact ((leaves_withSeq d _).widen (by simp)).trans ((leaves_withPend _ l).widen (by simp))

theorem onlyPaging_foldl {β : Type} (g : Dev → β → Dev) (hg : ∀ d b, OnlyPaging d (g d b)) (l : List β) (d : Dev) :
    OnlyPaging d (l.foldl g d) := by
  induction l generalizing d with
  | nil => exact OnlyPaging.refl d
  | cons b r ih => exact (hg d b).trans (ih _)

theorem onlyPaging_setPager (d : Dev) (h : Nat) (p : Pager) : OnlyPaging d (setPager d h p) := by
  unfold setPager
  split
  · exact ⟨p, d.seq.pagerB, d.pend, rfl⟩
  · exact ⟨d.seq.pagerA, p, d.pend, rfl⟩

theorem onlyPaging_govSet (d : Dev) (k : GovKey) (v : Nat) : OnlyPaging d (govSet d k v) :=
  ⟨d.seq.pagerA, d.seq.pagerB, _, rfl⟩

theorem onlyPaging_startFetch (d : Dev) (h i page : Nat) (pin : Bool) : OnlyPaging d (startFetch d h i page pin) := by
  unfold startFetch
  refine OnlyPaging.trans ?_ (onlyPaging_setPager _ _ _)
  split
  · split
    · exact onlyPaging_govSet _ _ _
    · exact OnlyPaging.refl _
  · exact OnlyPaging.refl _

theorem onlyPaging_fetchPage (d : Dev) (h page : Nat) (demand : Bool) : OnlyPaging d (fetchPage d h page demand) := by
  have later : ∀ (c : Bool) (p : Pager), OnlyPaging d (if c then d else setPager d h p) := by
    intro c p
    split
    · exact OnlyPaging.refl _
    · exact onlyPaging_setPager _ _ _
  simp only [fetchPage]
  split
  · exact OnlyPaging.refl _
  · split
    · exact onlyPaging_startFetch _ _ _ _ _
    · split
      · exact later _ _
      · exact later _ _

theorem onlyPaging_serveFetches (d : Dev) (h : Nat) : OnlyPaging d (serveFetches d h) :=
  ((onlyPaging_setPager _ _ _).trans (onlyPaging_foldl _ (fun _ _ => onlyPaging_fetchPage _ _ _ _) _ _)).trans
    (onlyPaging_foldl _ (fun _ _ => onlyPaging_fetchPage _ _ _ _) _ _)

theorem onlyPaging_prefetchAhead (d : Dev) (page : Nat) : OnlyPaging d (prefetchAhead d page) :=
  onlyPaging_foldl _ (fun _ _ => onlyPaging_foldl _ (fun _ _ => onlyPaging_fetchPage _ _ _ _) _ _) _ _

/-- A strand that enters a page has it fetched and the pages after it prefetched; then the waiting fetches are served. -/
theorem onlyPaging_enterPage (d : Dev) (enters : Bool) (page : Nat) :
    OnlyPaging d ([0, 1].foldl (fun d h => serveFetches d h)
      (if enters then prefetchAhead ([0, 1].foldl (fun d h => fetchPage d h page true) d) page else d)) := by
  refine OnlyPaging.trans ?_ (onlyPaging_foldl _ (fun _ _ => onlyPaging_serveFetches _ _) _ _)
  split
  · exact (onlyPaging_foldl _ (fun _ _ => onlyPaging_fetchPage _ _ _ _) _ _).trans (onlyPaging_prefetchAhead _ _)
  · exact OnlyPaging.refl _

/-! ### A strand moves (R51, R70) -/

/-- The strand at address `a` with those loops, before any page moves and before a segment's end is noted. -/
def placeAt (d : Dev) (s : StrandId) (a : Nat) (loops : List LoopFrame) : Dev :=
  setStrand d s { strandOf d s with spc := a, rep := 0, loops := loops, held := none }

/-- All that `goTo` can do: the strand is placed, a segment may end there, and pages move (R44, R70). -/
theorem goTo_cases (d : Dev) (s : StrandId) (a : Nat) (loops : List LoopFrame) :
    ∃ e, OnlyPaging e (goTo d s a loops) ∧
      (e = placeAt d s a loops ∨ s ≠ .main ∧ ∃ c, e = endSegment (placeAt d s a loops) s c) := by
  refine ⟨_, onlyPaging_enterPage _ _ _, ?_⟩
  split
  · split
    · exact .inl rfl
    · exact .inr ⟨by simp, _, rfl⟩
  · split
    · exact .inl rfl
    · exact .inr ⟨by simp, _, rfl⟩
  · exact .inl rfl

theorem leaves_endSegment {p : Nat → Bool} (d : Dev) (s : StrandId) (c : Confluence) :
    Leaves [.seq] p d (endSegment d s c) := (leaves_setStrand d s _).trans (leaves_withSeq _ _)

theorem leaves_goTo {p : Nat → Bool} (d : Dev) (s : StrandId) (a : Nat) (loops : List LoopFrame) :
    Leaves [.seq, .gov] p d (goTo d s a loops) := by
  obtain ⟨e, hpage, he⟩ := goTo_cases d s a loops
  have hplace : Leaves [.seq] p d (placeAt d s a loops) := leaves_setStrand d s _
  have hseq : Leaves [.seq] p d e := by
    obtain rfl | ⟨-, c, rfl⟩ := he
    · exact hplace
    · exact hplace.trans (leaves_endSegment _ s c)
  exact (hseq.widen (by simp)).trans hpage.leaves

@[simp] theorem goTo_spc (d : Dev) (s : StrandId) (a : Nat) (loops : List LoopFrame) :
    (strandOf (goTo d s a loops) s).spc = a := by
  obtain ⟨e, hpage, rfl | ⟨-, c, rfl⟩⟩ := goTo_cases d s a loops
  · rw [hpage.strandOf, placeAt, strandOf_setStrand_self]
  · rw [hpage.strandOf]; cases s <;> rfl

@[simp] theorem goTo_lastIssue (d : Dev) (s : StrandId) (a : Nat) (loops : List LoopFrame) :
    (strandOf (goTo d s a loops) s).lastIssue = (strandOf d s).lastIssue := by
  obtain ⟨e, hpage, rfl | ⟨-, c, rfl⟩⟩ := goTo_cases d s a loops
  · rw [hpage.strandOf, placeAt, strandOf_setStrand_self]
  · rw [hpage.strandOf]; cases s <;> rfl

@[simp] theorem goTo_main_loops (d : Dev) (a : Nat) (loops : List LoopFrame) :
    (strandOf (goTo d .main a loops) .main).loops = loops := by
  obtain ⟨e, hpage, rfl | ⟨hne, -⟩⟩ := goTo_cases d .main a loops
  · rw [hpage.strandOf, placeAt, strandOf_setStrand_self]
  · exact absurd rfl hne

@[simp] theorem goTo_calls (d : Dev) (s : StrandId) (a : Nat) (loops : List LoopFrame) :
    (goTo d s a loops).seq.calls = d.seq.calls := by
  obtain ⟨e, hpage, rfl | ⟨-, c, rfl⟩⟩ := goTo_cases d s a loops
  · rw [hpage.calls, placeAt, setStrand_calls]
  · rw [hpage.calls]; cases s <;> rfl

/-! ### An issue is noted (R37, R62, R75, R83) -/

theorem leaves_noteIssue (d : Dev) (s : StrandId) : Leaves [.seq] isCounter d (noteIssue d s) := by
  have hs : ∀ x q, Leaves [.seq] isCounter d ((setStrand d s x).withSeq q) :=
    fun x q => (leaves_setStrand d s x).trans (leaves_withSeq _ q)
  have hc : ∀ e src k, Leaves [.seq] isCounter e (countBoth e src k) :=
    fun e src k => (onlyRegs_countBoth e src k).leaves.widen (by simp)
  simp only [noteIssue]
  split
  · exact hs _ _
  · exact (((hs _ _).trans (leaves_withSeq _ _)).trans (hc _ _ _)).trans (hc _ _ _)

/-- What a strand keeps of an issue at this moment. -/
theorem noteIssue_strand (d : Dev) (s : StrandId) :
    strandOf (noteIssue d s) s = { strandOf d s with
      lastIssue := d.now, lastSpc := (strandOf d s).spc, rep := (strandOf d s).rep + 1, held := none,
      cycle := d.now + 1 } := by
  simp only [noteIssue]
  split
  · cases s <;> rfl
  · rw [strandOf_congr ((countBoth_seq _ _ _).trans (countBoth_seq _ _ _))]
    cases s <;> rfl

@[simp] theorem noteIssue_unwind (d : Dev) (s : StrandId) : (noteIssue d s).seq.unwind = d.seq.unwind := by
  simp only [noteIssue]
  split
  · cases s <;> rfl
  · rw [(countBoth_seq _ _ _).trans (countBoth_seq _ _ _)]
    cases s <;> rfl

/-- What a late issue may change of the registers: those of a report, and the status of the sequencers. -/
def isLateReport (a : Nat) : Bool := isReport a || a == A.SEQ_STS 0

theorem isReport_of_isLateReport {a : Nat} (h : isLateReport a = false) : isReport a = false := by
  simp only [isLateReport, Bool.or_eq_false_iff] at h
  exact h.1

/-- A sequencer record below step-fatal changes nothing of the strands: SEQ_STS.EXC takes its number, and it is posted. -/
theorem onlyHst_seqFault (d : Dev) (s : StrandId) (h w number code late : Nat) (hsev : seqSev number < 2) :
    OnlyHst isLateReport d (seqFault d s h w number code late) := by
  rw [seqFault, seqRaise, seqRaiseSev, raise_minor _ _ _ _ _ hsev]
  exact (onlyRegs_fset d _ _ _ (by decide)).hst.trans
    ⟨(onlyHst_post _ _ _ _ _).1, (onlyHst_post _ _ _ _ _).2.weaken fun _ => isReport_of_isLateReport⟩

theorem seqState_seqFault (d : Dev) (s : StrandId) (h w number code late : Nat) (hsev : seqSev number < 2) :
    seqState (seqFault d s h w number code late) = seqState d := by
  rw [seqFault, seqRaise, seqRaiseSev, raise_minor _ _ _ _ _ hsev, seqState, stOf, seqState, stOf,
    (onlyHst_post _ _ _ _ _).2.fget (by decide),
    fget_fset_apart _ _ _ _ _ _ (by decide) (by decide) (by decide)]

/-- What the lateness of a sidereal wait may leave behind: a count, and a record. -/
structure LateNoted (d e : Dev) : Prop where
  leaves : Leaves [.seq, .hst] isLateReport d e
  state : seqState e = seqState d
  unwind : e.seq.unwind = d.seq.unwind
  strand : ∀ s, strandOf e s = strandOf d s

theorem LateNoted.refl (d : Dev) : LateNoted d d := ⟨Leaves.refl _ _ d, rfl, rfl, fun _ => rfl⟩

theorem LateNoted.trans {d e f : Dev} (h : LateNoted d e) (g : LateNoted e f) : LateNoted d f :=
  ⟨h.leaves.trans g.leaves, g.state.trans h.state, g.unwind.trans h.unwind, fun s => (g.strand s).trans (h.strand s)⟩

theorem lateNoted_late (d : Dev) (n : Nat) : LateNoted d (d.withSeq { d.seq with late := n }) :=
  ⟨(leaves_withSeq d _).widen (by simp), rfl, rfl, fun s => by cases s <;> rfl⟩

theorem lateNoted_sidaTime (d : Dev) (n : Option Nat) : LateNoted d (d.withSeq { d.seq with sidaTime := n }) :=
  ⟨(leaves_withSeq d _).widen (by simp), rfl, rfl, fun s => by cases s <;> rfl⟩

theorem lateNoted_countBoth (d : Dev) (src k : Nat) : LateNoted d (countBoth d src k) where
  leaves := (onlyRegs_countBoth d src k).leaves.weaken (by simp)
    fun _ h => isReport_of_isCounter (isReport_of_isLateReport h)
  state := (onlyRegs_countBoth d src k).2.fget (by decide) _
  unwind := by rw [countBoth_seq]
  strand := strandOf_congr (countBoth_seq d src k)

theorem lateNoted_seqFault (d : Dev) (s : StrandId) (h w number code late : Nat) (hsev : seqSev number < 2) :
    LateNoted d (seqFault d s h w number code late) :=
  have hseq : (seqFault d s h w number code late).seq = d.seq := by
    rw [(onlyHst_seqFault d s h w number code late hsev).eq, withHst_seq, withRegs_seq]
  { leaves := (onlyHst_seqFault d s h w number code late hsev).leaves.widen (by simp)
    state := seqState_seqFault d s h w number code late hsev
    unwind := by rw [hseq]
    strand := strandOf_congr hseq }

theorem lateNoted_noteLate (d : Dev) (s : StrandId) (wa wb : Nat) (oa ob : CtlOp) :
    LateNoted d (noteLate d s wa wb oa ob) := by
  have noted : ∀ (e : Dev) (c : Prop) [Decidable c] (h w late : Nat), LateNoted d e →
      LateNoted d (if c then seqFault e s h w 0x21 0 late else e) := by
    intro e c _ h w late he
    split
    · exact he.trans (lateNoted_seqFault e s h w 0x21 0 late (by decide))
    · exact he
  simp only [noteLate]
  split
  · exact LateNoted.refl d
  · refine noted _ _ _ _ _ ?_
    split
    · exact (lateNoted_late d _).trans (lateNoted_countBoth _ _ _)
    · exact LateNoted.refl d

theorem lateNoted_noteSida (d : Dev) (oa ob : CtlOp) : LateNoted d (noteSida d oa ob) := by
  unfold noteSida
  split
  · exact lateNoted_sidaTime d _
  · exact lateNoted_sidaTime d _
  · exact LateNoted.refl d

/-! ### Plain CTL ops -/

/-- The ops whose whole effect is where the strand goes and when (R51 to R57, R58, R60, R61). -/
def isPlain : CtlOp → Bool
  | .nop | .loop .. | .br .. | .brc .. | .call .. | .ret | .awaitr .. | .awaita .. | .sida .. | .sidr .. | .delay .. => true
  | _ => false

/-- The package once a bundle of two ops alone has been noted as issued. -/
def issued (d : Dev) (s : StrandId) (oa ob : CtlOp) : Dev :=
  noteIssue (noteSida (noteLate d s (ctlOnly s oa) (ctlOnly s ob) oa ob) oa ob) s

section
variable {d : Dev} {s : StrandId} {oa ob : CtlOp}

theorem lateNoted_beforeIssue : LateNoted d (noteSida (noteLate d s (ctlOnly s oa) (ctlOnly s ob) oa ob) oa ob) :=
  (lateNoted_noteLate _ _ _ _ _ _).trans (lateNoted_noteSida _ _ _)

theorem leaves_issued : Leaves [.seq, .hst] isLateReport d (issued d s oa ob) :=
  lateNoted_beforeIssue.leaves.trans ((leaves_noteIssue _ s).weaken (by simp)
    fun _ h => isReport_of_isCounter (isReport_of_isLateReport h))

theorem issued_rep : (strandOf (issued d s oa ob) s).rep = (strandOf d s).rep + 1 := by
  rw [issued, noteIssue_strand, lateNoted_beforeIssue.strand]

theorem issued_lastIssue : (strandOf (issued d s oa ob) s).lastIssue = d.now := by
  rw [issued, noteIssue_strand, lateNoted_beforeIssue.leaves.now (by simp)]

theorem canIssue_issued : canIssue (issued d s oa ob) = canIssue d :=
  canIssue_congr (((leaves_noteIssue _ s).2.fget (by decide) _).trans lateNoted_beforeIssue.state)
    ((noteIssue_unwind _ s).trans lateNoted_beforeIssue.unwind) (leaves_issued.pwr (by simp))

theorem ctlEffect_plain (e : Dev) (w : Nat) (h : isPlain oa = true) : ctlEffect e s w oa = e := by
  cases oa
  case awaitq | stepb | verd | fork | join | page => exact absurd h Bool.false_ne_true
  all_goals rfl

theorem trapNote_plain (e : Dev) (half w : Nat) (h : isPlain oa = true) : trapNote e s half w oa = e := by
  cases oa
  case trap => exact absurd h Bool.false_ne_true
  all_goals rfl

theorem stopsAfter_plain (wa wb : Nat) (ha : isPlain oa = true) (hb : isPlain ob = true) :
    stopsAfter wa wb oa ob = none := by
  cases oa
  case halt | trap => exact absurd ha Bool.false_ne_true
  all_goals
    cases ob
    case trap => exact absurd hb Bool.false_ne_true
    all_goals rfl

theorem stepGate_plain (w : Nat) (h : isPlain oa = true) : stepGate d s w oa = none := by
  cases oa
  case stepb | verd | join => exact absurd h Bool.false_ne_true
  all_goals rfl

theorem isPage_plain (h : isPlain oa = true) : isPage oa = false := by
  cases oa
  case page => exact absurd h Bool.false_ne_true
  all_goals rfl

/-- A bundle of two plain ops that issues for the first time is noted, and its strand goes where its flow leads. -/
theorem issueBundle_plain (go : Flow) (ha : isPlain oa = true) (hb : isPlain ob = true)
    (hrep : (strandOf d s).rep = 0) (hcan : canIssue d = true) :
    issueBundle d s [] (ctlOnly s oa) (ctlOnly s ob) oa ob go
      = goTo (setSeq (issued d s oa ob) fun q => { q with calls := go.calls }) s go.addr go.loops := by
  unfold issueBundle
  extract_lets x first audited late noted effA effB slots trapped stopped moved
  have hfirst : first = true := by simp [first, x, hrep]
  have haudited : audited = d := by
    simp only [audited]
    split
    · exact absurd ha Bool.false_ne_true
    · rfl
  have hnoted : noted = issued d s oa ob := by simp only [noted, late, hfirst, haudited, if_true, issued]
  have heffects : effB = noted := by
    simp only [effB, effA, isPage_plain hb, ctlEffect_plain _ _ ha, Bool.false_and, Bool.false_eq_true, if_false, ite_self]
  have htrapped : trapped = noted := by
    simp only [trapped, slots, issueSlots_ctlOnly, trapNote_plain _ _ _ ha, trapNote_plain _ _ _ hb, ite_self, heffects]
  have hstopped : stopped = issued d s oa ob := by
    simp only [stopped, stopsAfter_plain _ _ ha hb, ite_self, htrapped, hnoted]
  have hmoved : moved = goTo (setSeq (issued d s oa ob) fun q => { q with calls := go.calls }) s go.addr go.loops := by
    simp only [moved, hstopped, issued_rep, hrep, hwRepeat_ctlOnly]
    rfl
  rw [hstopped, canIssue_issued, hcan, hmoved]
  simp only [Bool.not_true, Bool.false_eq_true, if_false]
  split
  · exact absurd ha Bool.false_ne_true
  · rfl

/-- Every slot of such a half-word is empty. -/
@[simp] theorem hwUsed_ctlOnly (s : StrandId) (op : CtlOp) : hwUsed (ctlOnly s op) = 0 := by
  simp [hwUsed, show List.range 8 = [0, 1, 2, 3, 4, 5, 6, 7] from rfl, b2n]

/-- Two plain ops pass every test at issue, where a flow op stands in both half-words and the strand allows both ops (R35, R36, R49, R50, R59, R72, R73, R75). -/
theorem bundleFault_plain (ha : isPlain oa = true) (hb : isPlain ob = true)
    (hshare : (isFlow oa || isFlow ob) = true → oa = ob)
    (hseg : s ≠ .main → segAllows oa = true ∧ segAllows ob = true)
    (hfork : s = .main → d.seq.confl.isSome = true → forkAllows oa = true ∧ forkAllows ob = true) :
    bundleFault d s (ctlOnly s oa) (ctlOnly s ob) = none := by
  unfold bundleFault
  extract_lets cls pageBad both place
  have hpage : ∀ o, isPlain o = true → pageBad o = false := by
    intro o ho
    cases o
    case page => exact absurd ho Bool.false_ne_true
    all_goals rfl
  have hboth : ∀ o, isPlain o = true → both o = isFlow o := by
    intro o ho
    cases o
    case awaitq => exact absurd ho Bool.false_ne_true
    all_goals rfl
  have hjoin : oa ≠ .join := by rintro rfl; exact absurd ha Bool.false_ne_true
  simp -zeta only [hwClass_ctlOnly, hwRepeat_ctlOnly, ctlOf_ctlOnly]
  extract_lets slotBad
  have hslot : ∀ h o, slotBad h (ctlOnly s o) = false := by
    intro h o
    simp only [slotBad]
    split
    · rfl
    · cases s <;> simp
  have hsame : ¬ ((both oa || both ob) && hwCtl (ctlOnly s oa) != hwCtl (ctlOnly s ob)) = true := by
    rw [hboth oa ha, hboth ob hb, Bool.and_eq_true]
    rintro ⟨h, hne⟩
    simp [hshare h] at hne
  have hsegment : ¬ (s ≠ .main ∧ (segAllows oa = false ∨ segAllows ob = false)) := by
    rintro ⟨hs, h⟩
    simp [hseg hs] at h
  have hbetween : ¬ (s = .main ∧ d.seq.confl.isSome = true ∧ (forkAllows oa = false ∨ forkAllows ob = false)) := by
    rintro ⟨hs, hc, h⟩
    simp [hfork hs hc] at h
  rw [if_neg (by simp), if_neg (by cases s <;> simp [cls]), if_neg (by cases s <;> simp [cls]),
    if_neg (by simp [hpage oa ha]), if_neg (by simp [hpage ob hb]), if_neg hsame, if_neg (by simp), if_neg hsegment,
    if_neg hbetween, if_neg (fun h => hjoin h.2), if_neg (by simp [hslot]), if_neg (by simp [hslot])]
  cases oa
  case stepb | verd | awaitq => exact absurd ha Bool.false_ne_true
  all_goals rfl

/-- A bundle of plain ops of a ready strand is held while a wait in it is not satisfied (R58). -/
theorem tryBundle_waits (hr : ctlReady d s) (hf : bundleFault d s (ctlOnly s oa) (ctlOnly s ob) = none)
    (hw : (waitOk d 0 s oa && waitOk d 1 s ob) = false) :
    tryBundle d s [] (ctlOnly s oa) (ctlOnly s ob) = holdStrand d s := by
  obtain ⟨-, -, hrep, -⟩ := hr
  simp [tryBundle, hrep, hf, hw]

/-- A bundle of plain ops of a ready strand whose waits are satisfied is noted as issued, and its strand goes where its
flow leads. -/
theorem tryBundle_issues {go : Flow} (hr : ctlReady d s) (ha : isPlain oa = true) (hb : isPlain ob = true)
    (hf : bundleFault d s (ctlOnly s oa) (ctlOnly s ob) = none) (hwa : waitOk d 0 s oa = true)
    (hwb : waitOk d 1 s ob = true) (hgo : flowOf d s oa = .ok go) :
    tryBundle d s [] (ctlOnly s oa) (ctlOnly s ob)
      = goTo (setSeq (issued d s oa ob) fun q => { q with calls := go.calls }) s go.addr go.loops := by
  obtain ⟨hdue, -, hrep, hgap⟩ := hr
  have hgapped : (decide (d.seq.lastCycle ≠ some d.now) && decide (d.now < d.seq.gapEnd)) = false := by
    obtain h | h := hgap
    · simp [h]
    · simp [Nat.not_lt.2 h]
  rw [← issueBundle_plain go ha hb hrep (canIssue_of_strandDue hdue)]
  simp only [tryBundle, hf, hgapped, ctlOf_ctlOnly]
  simp [hrep, hwa, hwb, stepGate_plain _ ha, hgo]

theorem ctlIssue_eq {op : CtlOp} (hr : ctlReady d s) :
    ctlIssue d s op = tryBundle d s [] (ctlOnly s op) (ctlOnly s op) := by
  obtain ⟨hdue, hspc, -, -⟩ := hr
  simp [ctlIssue, hdue, Nat.not_le.2 hspc]

/-- What half `k` issues when an op stands in half `h` alone (R36). -/
def inHalf (h k : Half) (op : CtlOp) : CtlOp := if h = k then op else .nop

theorem ctlIssueIn_eq {h : Half} {op : CtlOp} (hr : ctlReady d s) :
    ctlIssueIn d s (hn h) op = tryBundle d s [] (ctlOnly s (inHalf h .A op)) (ctlOnly s (inHalf h .B op)) := by
  obtain ⟨hdue, hspc, -, -⟩ := hr
  cases h <;> simp [ctlIssueIn, hdue, Nat.not_le.2 hspc, hn, inHalf]

/-! ### Where a bundle leads (R51 to R56) -/

/-- The flow of a bundle that leads nowhere else: the next address, with the loops advanced (R51). -/
def onward (d : Dev) (s : StrandId) : Flow :=
  ⟨(advance (strandOf d s).spc (strandOf d s).loops).1, (advance (strandOf d s).spc (strandOf d s).loops).2, d.seq.calls⟩

theorem flowOf_loop {count : BitVec 24} {len : BitVec 20} (hdepth : d.seq.main.loops.length < 8)
    (hend : d.seq.main.spc + 1 + len.toNat < imgBound d) : flowOf d .main (.loop count len)
      = .ok ⟨d.seq.main.spc + 1, ⟨d.seq.main.spc + 1, len.toNat, count.toNat, 0⟩ :: d.seq.main.loops, d.seq.calls⟩ := by
  simp [flowOf, strandOf, Nat.not_le.2 hdepth, Nat.not_le.2 hend]

theorem branchFault_none {target : Nat} (hend : target < imgBound d) (hscope : targetInScope d s target = true) :
    branchFault d s target = none := by
  simp [branchFault, Nat.not_le.2 hend, hscope]

theorem flowOf_br {target : BitVec 28} (h : branchFault d .main target.toNat = none) :
    flowOf d .main (.br target) = .ok ⟨target.toNat, d.seq.main.loops, d.seq.calls⟩ := by
  simp [flowOf, strandOf, h]

/-- Where a conditional branch of the main strand leads: to its target, or on (R54). -/
def brcFlow (d : Dev) (taken : Bool) (target : Nat) : Flow :=
  if taken then ⟨target, d.seq.main.loops, d.seq.calls⟩ else onward d .main

theorem brcFlow_addr (d : Dev) (taken : Bool) (target : Nat) : (brcFlow d taken target).addr
    = if taken then target else (advance d.seq.main.spc d.seq.main.loops).1 := by
  cases taken <;> rfl

theorem brcFlow_calls (d : Dev) (taken : Bool) (target : Nat) : (brcFlow d taken target).calls = d.seq.calls := by
  cases taken <;> rfl

theorem flowOf_brc {ix : BitVec 3} {cmp : BitVec 2} {imm : BitVec 24} {target : BitVec 28}
    (h : branchFault d .main target.toNat = none) : flowOf d .main (.brc ix cmp imm target)
      = .ok (brcFlow d (brcTakes cmp.toNat (loopIter d.seq.main.loops ix.toNat) imm.toNat) target.toNat) := by
  cases htaken : brcTakes cmp.toNat (loopIter d.seq.main.loops ix.toNat) imm.toNat
  all_goals simp [flowOf, strandOf, brcFlow, onward, h, htaken]

theorem flowOf_call {target : BitVec 28} (hdepth : d.seq.calls.length < 8) (hend : target.toNat < imgBound d) :
    flowOf d .main (.call target) = .ok ⟨target.toNat, d.seq.main.loops,
      (d.seq.main.spc + 1, d.seq.main.loops.length) :: d.seq.calls⟩ := by
  simp [flowOf, strandOf, Nat.not_le.2 hdepth, Nat.not_le.2 hend]

theorem flowOf_ret {r : Nat} {rest : List (Nat × Nat)} (h : d.seq.calls = (r, d.seq.main.loops.length) :: rest) :
    flowOf d .main .ret
      = .ok ⟨(advance (r - 1) d.seq.main.loops).1, (advance (r - 1) d.seq.main.loops).2, rest⟩ := by
  simp [flowOf, strandOf, h]

/-! ### Flow ops (R51 to R56) -/

/-- The ops that lead the main strand elsewhere and do nothing else. -/
def isJump : CtlOp → Bool
  | .loop .. | .br .. | .brc .. | .call .. | .ret => true
  | _ => false

theorem isPlain_of_isJump {op : CtlOp} (h : isJump op = true) : isPlain op = true := by
  cases op
  case loop | br | brc | call | ret => rfl
  all_goals exact absurd h Bool.false_ne_true

theorem waitOk_of_isJump {op : CtlOp} (half : Nat) (h : isJump op = true) : waitOk d half s op = true := by
  cases op
  case loop | br | brc | call | ret => rfl
  all_goals exact absurd h Bool.false_ne_true

theorem issued_of_isJump {op : CtlOp} (h : isJump op = true) : issued d s op op = noteIssue d s := by
  cases op
  case loop | br | brc | call | ret => rfl
  all_goals exact absurd h Bool.false_ne_true

/-- What a jump of the main strand leaves, and where it leads the strand. -/
structure Jumped (d u : Dev) (go : Flow) : Prop where
  spc : u.seq.main.spc = go.addr
  loops : u.seq.main.loops = go.loops
  calls : u.seq.calls = go.calls
  parts : keepsBut [.seq, .gov] d u
  regs : keepsRegs isCounter d u

/-- A jump whose test passes leads the main strand where `flowOf` says (R51 to R56). -/
theorem jumped_ctlIssue {op : CtlOp} {go : Flow} (hr : flowReady d) (hop : isJump op = true)
    (hgo : flowOf d .main op = .ok go) : Jumped d (ctlIssue d .main op) go := by
  obtain ⟨hready, hconfl⟩ := hr
  have hplain := isPlain_of_isJump hop
  have hfault : bundleFault d .main (ctlOnly .main op) (ctlOnly .main op) = none :=
    bundleFault_plain hplain hplain (fun _ => rfl) (fun h => absurd rfl h) (by simp [hconfl])
  rw [ctlIssue_eq hready, tryBundle_issues hready hplain hplain hfault (waitOk_of_isJump _ hop)
    (waitOk_of_isJump _ hop) hgo, issued_of_isJump hop]
  have hleaves : Leaves [.seq, .gov] isCounter d
      (goTo (setSeq (noteIssue d .main) fun q => { q with calls := go.calls }) .main go.addr go.loops) :=
    (((leaves_noteIssue d .main).trans (leaves_withSeq _ _)).widen (by simp)).trans (leaves_goTo _ _ _ _)
  exact ⟨goTo_spc _ .main _ _, goTo_main_loops _ _ _, goTo_calls _ _ _ _, hleaves.1, hleaves.2⟩

/-! ### Waits (R57, R58, R60, R61) -/

/-- The wait ops that a half may issue alone. -/
def isHalfWait : CtlOp → Bool
  | .awaitr .. | .awaita .. | .sida .. | .sidr .. | .delay .. => true
  | _ => false

section
variable {h : Half} {op : CtlOp} (hop : isHalfWait op = true)
include hop

/-- Such an op, and the no-op beside it, is plain and allowed in every strand (R73). -/
theorem inHalf_allowed (k : Half) : isPlain (inHalf h k op) = true ∧ isFlow (inHalf h k op) = false ∧
    segAllows (inHalf h k op) = true ∧ forkAllows (inHalf h k op) = true := by
  unfold inHalf
  split
  · cases op
    case awaitr | awaita | sida | sidr | delay => exact ⟨rfl, rfl, rfl, rfl⟩
    all_goals exact absurd hop Bool.false_ne_true
  · exact ⟨rfl, rfl, rfl, rfl⟩

theorem bundleFault_inHalf : bundleFault d s (ctlOnly s (inHalf h .A op)) (ctlOnly s (inHalf h .B op)) = none := by
  obtain ⟨hplainA, hflowA, hsegA, hforkA⟩ := inHalf_allowed (h := h) hop .A
  obtain ⟨hplainB, hflowB, hsegB, hforkB⟩ := inHalf_allowed (h := h) hop .B
  exact bundleFault_plain hplainA hplainB (by simp [hflowA, hflowB]) (fun _ => ⟨hsegA, hsegB⟩)
    (fun _ _ => ⟨hforkA, hforkB⟩)

theorem flowOf_inHalf (k : Half) : flowOf d s (inHalf h k op) = .ok (onward d s) := by
  unfold inHalf
  split
  · cases op
    case awaitr | awaita | sida | sidr | delay => rfl
    all_goals exact absurd hop Bool.false_ne_true
  · rfl

end

theorem waitOk_inHalf (d : Dev) (s : StrandId) (h : Half) (op : CtlOp) :
    (waitOk d 0 s (inHalf h .A op) && waitOk d 1 s (inHalf h .B op)) = waitOk d (hn h) s op := by
  have hnop : ∀ k, waitOk d k s .nop = true := fun _ => rfl
  cases h <;> simp [inHalf, hn, hnop]

/-- The bundle of a strand has issued: the strand is at the next bundle, and beside the sequencers only records of a late
issue may differ (R62). -/
def Passed (d u : Dev) (s : StrandId) : Prop :=
  (strandOf u s).lastIssue = d.now ∧ (strandOf u s).spc = (advance (strandOf d s).spc (strandOf d s).loops).1 ∧
    (∀ a, memGet u.mem a = memGet d.mem a) ∧ keepsBut [.seq, .gov, .hst] d u ∧
    keepsRegs isLateReport d u

/-- The strand is held where it is, and beside the sequencers nothing differs. -/
def Held (d u : Dev) (s : StrandId) : Prop :=
  (strandOf u s).held.isSome = true ∧ (strandOf u s).spc = (strandOf d s).spc ∧ keepsBut [.seq] d u ∧
    keepsRegs (fun _ => false) d u

theorem passed_ctlIssueIn {h : Half} {op : CtlOp} (hr : ctlReady d s) (hop : isHalfWait op = true)
    (hw : waitOk d (hn h) s op = true) : Passed d (ctlIssueIn d s (hn h) op) s := by
  obtain ⟨hwa, hwb⟩ := Bool.and_eq_true_iff.1 ((waitOk_inHalf d s h op).trans hw)
  obtain ⟨hplainA, -⟩ := inHalf_allowed (h := h) hop .A
  obtain ⟨hplainB, -⟩ := inHalf_allowed (h := h) hop .B
  rw [ctlIssueIn_eq hr, tryBundle_issues hr hplainA hplainB (bundleFault_inHalf hop) hwa hwb (flowOf_inHalf hop _)]
  have hleaves : ∀ a l q, Leaves [.seq, .gov, .hst] isLateReport d
      (goTo ((issued d s (inHalf h .A op) (inHalf h .B op)).withSeq q) s a l) := fun a l q =>
    (leaves_issued.trans ((leaves_withSeq _ q).widen (by simp))).widen (by simp) |>.trans
      ((leaves_goTo _ s a l).widen (by simp))
  obtain ⟨hparts, hregs⟩ := hleaves _ _ _
  refine ⟨(goTo_lastIssue _ _ _ _).trans ?_, goTo_spc _ _ _ _, hparts .mem (by simp), hparts, hregs⟩
  rw [← issued_lastIssue (s := s) (oa := inHalf h .A op) (ob := inHalf h .B op)]
  cases s <;> rfl

theorem held_ctlIssueIn {h : Half} {op : CtlOp} (hr : ctlReady d s) (hop : isHalfWait op = true)
    (hw : waitOk d (hn h) s op = false) : Held d (ctlIssueIn d s (hn h) op) s := by
  rw [ctlIssueIn_eq hr, tryBundle_waits hr (bundleFault_inHalf hop) ((waitOk_inHalf d s h op).trans hw)]
  obtain ⟨hheld, hspc, hparts, hregs⟩ := holdStrand_holds d s
  exact ⟨hheld, hspc, hparts, hregs⟩

/-- A command that issues a wait op in one half: the bundle passes where the wait is satisfied, and is held where it is
not. -/
theorem wait_passes_or_holds {h : Half} {op : CtlOp} {st : State} {c : Instr} (hr : ctlReady d s)
    (hop : isHalfWait op = true) (hc : exec c st = .next { st with dev := ctlIssueIn d s (hn h) op }) :
    if waitOk d (hn h) s op then ∃ u, exec c st = .next u ∧ Passed d u.dev s
    else ∃ u, exec c st = .next u ∧ Held d u.dev s := by
  split
  · next hw => exact ⟨_, hc, passed_ctlIssueIn hr hop hw⟩
  · next hw => exact ⟨_, hc, held_ctlIssueIn hr hop (by simpa using hw)⟩

end

/-! ### The statements -/

/-- Settles O14: each op's test passes, so `flowOf` gives the flow the statement names, and the strand follows it. -/
theorem flowOpsMoveTheMainStrand : Obligations.FlowOpsMoveTheMainStrand := by
  intro t s d m hr
  refine ⟨fun count len hdepth hend => ?_, fun target hend hscope => ?_, fun ix cmp imm target hend hscope => ?_,
    fun target hdepth hend => ?_, fun r rest hcalls => ?_⟩
  · obtain ⟨hspc, hloops, hcalls, hparts, hregs⟩ := jumped_ctlIssue hr rfl (flowOf_loop (count := count) hdepth hend)
    exact ⟨_, rfl, hspc, hloops, hcalls, hparts, hregs⟩
  · obtain ⟨hspc, hloops, hcalls, hparts, hregs⟩ := jumped_ctlIssue hr rfl (flowOf_br (branchFault_none hend hscope))
    exact ⟨_, rfl, hspc, hloops, hcalls, hparts, hregs⟩
  · obtain ⟨hspc, -, hcalls, hparts, hregs⟩ := jumped_ctlIssue hr rfl
      (flowOf_brc (ix := ix) (cmp := cmp) (imm := imm) (branchFault_none hend hscope))
    exact ⟨_, rfl, hspc.trans (brcFlow_addr _ _ _), hcalls.trans (brcFlow_calls _ _ _), hparts, hregs⟩
  · obtain ⟨hspc, hloops, hcalls, hparts, hregs⟩ := jumped_ctlIssue hr rfl (flowOf_call hdepth hend)
    exact ⟨_, rfl, hspc, hcalls, hloops, hparts, hregs⟩
  · obtain ⟨hspc, hloops, hcalls, hparts, hregs⟩ := jumped_ctlIssue hr rfl (flowOf_ret hcalls)
    exact ⟨_, rfl, hspc, hloops, hcalls, hparts, hregs⟩

/-- Settles O15: each wait op stands alone in its half beside a no-op, which is allowed in every strand with or without a
confluence open, and the bundle issues or is held as `waitOk` says. -/
theorem waitsHoldUntilSatisfied : Obligations.WaitsHoldUntilSatisfied := by
  intro t x h s d moves held hr
  exact ⟨fun _ _ _ => wait_passes_or_holds hr rfl rfl, fun _ _ => wait_passes_or_holds hr rfl rfl,
    fun _ => wait_passes_or_holds hr rfl rfl, fun _ => wait_passes_or_holds hr rfl rfl,
    fun _ => wait_passes_or_holds hr rfl rfl⟩

end Sys2Proof.Machine
end

section
/-! PROOFS. What a record leaves in GLB_ERRSUM, and how sidereal time follows its reference, holds over and drives
SID_PPS_OUT (14, R505 to R513). -/

namespace Sys2Proof.Machine

/-! ### A record's severity stands in GLB_ERRSUM (R569) -/

/-- The severities noted in GLB_ERRSUM. -/
def sevs (d : Dev) : Nat := fget d A.GLB_ERRSUM F.GLB_ERRSUM_SEV

theorem sevs_of_keepsRegs {p : Nat → Bool} {d e : Dev} (h : keepsRegs p d e) (hp : p A.GLB_ERRSUM = false) :
    sevs e = sevs d := h.fget hp _

theorem sevs_fset (d : Dev) {a : Nat} (f : Fld) (v : Nat) (h : A.GLB_ERRSUM ≠ a) : sevs (fset d a f v) = sevs d :=
  fget_fset_ne d h f _ v

@[simp] theorem sevs_withHst (d : Dev) (v : Hst) : sevs (d.withHst v) = sevs d := rfl
@[simp] theorem sevs_withSeq (d : Dev) (v : Seq) : sevs (d.withSeq v) = sevs d := rfl
@[simp] theorem sevs_hostWrite (d : Dev) (a : Nat) (bs : List Byte) : sevs (hostWrite d a bs) = sevs d := rfl
@[simp] theorem sevs_ringWb (d : Dev) (n v : Nat) : sevs (ringWb d n v) = sevs d := rfl
@[simp] theorem sevs_setRingH (d : Dev) (n : Nat) (r : RingH) : sevs (setRingH d n r) = sevs d := rfl
@[simp] theorem sevs_raiseAbort (d : Dev) (k : Nat) : sevs (raiseAbort d k) = sevs d := rfl

@[simp] theorem sevs_countPkg (d : Dev) (src inst k : Nat) (single : Bool) :
    sevs (countPkg d src inst k single) = sevs d :=
  sevs_of_keepsRegs (onlyRegs_countPkg d src inst k single).2 (by decide)

@[simp] theorem sevs_msixSend (d : Dev) (vec : Nat) : sevs (msixSend d vec) = sevs d := by simp [msixSend]

@[simp] theorem sevs_setOvf (d : Dev) (l : List (Nat × Record)) : sevs (setOvf d l) = sevs d := by
  rw [setOvf, sevs_fset _ _ _ (by decide), sevs_withHst]

@[simp] theorem sevs_fset_ridx (d : Dev) (n : Nat) (f : Fld) (v : Nat) : sevs (fset d (A.HST_RIDX n) f v) = sevs d :=
  sevs_fset d f v (by simp only [A.GLB_ERRSUM, A.HST_RIDX]; omega)

@[simp] theorem sevs_fset_rsts (d : Dev) (n : Nat) (f : Fld) (v : Nat) : sevs (fset d (A.HST_RSTS n) f v) = sevs d :=
  sevs_fset d f v (by simp only [A.GLB_ERRSUM, A.HST_RSTS]; omega)

@[simp] theorem sevs_regSet_fatal (d : Dev) (n : Nat) (v : W64) : sevs (regSet d (A.GLB_FATAL n) v) = sevs d :=
  fget_regSet_ne d (by simp only [A.GLB_ERRSUM, A.GLB_FATAL]; omega) v _

@[simp] theorem sevs_ringPut (d : Dev) (n : Nat) (r : Record) : sevs (ringPut d n r) = sevs d := by
  simp only [ringPut]
  split
  · simp [finc]
  · simp [finc]

@[simp] theorem sevs_deliver (d : Dev) (n : Nat) (r : Record) : sevs (deliver d n r).1 = sevs d := by
  simp only [deliver]
  split
  · exact sevs_ringPut d n r
  · split
    · exact sevs_setOvf d _
    · rw [sevs_countPkg, sevs_setRingH, finc, sevs_fset _ _ _ (by decide)]

@[simp] theorem sevs_hstNote (d : Dev) (number ring : Nat) : sevs (hstNote d number ring) = sevs d := by
  rw [hstNote, sevs_fset_rsts, sevs_fset _ _ _ (by decide), sevs_fset _ _ _ (by decide)]

@[simp] theorem sevs_stopStrands (d : Dev) : sevs (stopStrands d) = sevs d := by
  rw [stopStrands, sevs_withSeq]
  split
  · exact sevs_fset d _ _ (by decide)
  · rfl

@[simp] theorem sevs_seqSelfStop (d : Dev) : sevs (seqSelfStop d) = sevs d := by
  unfold seqSelfStop
  split
  · rw [sevs_fset _ _ _ (by decide), drainBegins, sevs_fset _ _ _ (by decide)]
    exact sevs_stopStrands d
  · rfl

/-- What a fatal exception does to the step and the sequencers does not touch GLB_ERRSUM. -/
@[simp] theorem sevs_consequence (d : Dev) (sev : Nat) : sevs (consequence d sev) = sevs d := by
  have hfatal : sevs (seqSelfStop (if d.seq.stepOpen then raiseAbort d (curStep d) else d)) = sevs d := by
    rw [sevs_seqSelfStop]
    split
    · exact sevs_raiseAbort d _
    · rfl
  unfold consequence
  split
  · exact sevs_raiseAbort d _
  · exact hfatal
  · exact hfatal
  · rfl

/-- Setting bits in GLB_ERRSUM leaves those noted before. -/
theorem testBit_sevs_or (d : Dev) (x : Nat) {k : Nat} (hk : k < 5)
    (h : (sevs d).testBit k = true ∨ x.testBit k = true) :
    (sevs (fset d A.GLB_ERRSUM F.GLB_ERRSUM_SEV (sevs d ||| x))).testBit k = true := by
  rw [sevs, fget_fset_self _ _ _ _ (by decide), Nat.testBit_mod_two_pow, Nat.testBit_or, Bool.and_eq_true,
    Bool.or_eq_true, decide_eq_true_eq]
  exact ⟨hk, h⟩

theorem sevs_foldl_fatal (l : List (List Byte × Nat)) (d : Dev) :
    sevs (l.foldl (fun d p => regSet d (A.GLB_FATAL p.2) (BitVec.ofNat 64 (leNat p.1))) d) = sevs d := by
  induction l generalizing d with
  | nil => rfl
  | cons b r ih => rw [List.foldl_cons, ih, sevs_regSet_fatal]

theorem testBit_sevs_sumRecord (d : Dev) (r : Record) (h : r.sev < 5) : (sevs (sumRecord d r)).testBit r.sev = true := by
  have hset := testBit_sevs_or d (2 ^ r.sev) h (.inr Nat.testBit_two_pow_self)
  simp only [sumRecord]
  split
  · split
    · rwa [sevs_withHst, sevs_withHst, sevs_foldl_fatal]
    · rwa [sevs_withHst, sevs_foldl_fatal]
  · exact hset

theorem testBit_sevs_reportDrops {d : Dev} {k : Nat} (hk : k < 5) (h : (sevs d).testBit k = true) :
    (sevs (reportDrops d)).testBit k = true := by
  simp only [reportDrops]
  split
  · split
    · rw [sevs_deliver, sevs_hstNote, sevs_withHst]
      exact testBit_sevs_or (nextRseq d) 1 hk (.inl h)
    · exact h
  · exact h

theorem testBit_sevs_post (d : Dev) (number src : Nat) (payload : List Nat) {sev : Nat} (h : sev < 5) :
    (sevs (post d number sev src payload)).testBit sev = true := by
  have hsum : (sevs (sumRecord (nextRseq d) (mkRecord d number sev false src payload))).testBit sev = true :=
    testBit_sevs_sumRecord (nextRseq d) (mkRecord d number sev false src payload) h
  simp only [post]
  split
  · exact testBit_sevs_reportDrops h (by rwa [sevs_deliver])
  · exact testBit_sevs_reportDrops h (by rwa [sevs_withHst, sevs_deliver])

/-- Whatever it does further, raising a record notes its severity. -/
theorem testBit_sevs_raise (d : Dev) (number src : Nat) (payload : List Nat) {sev : Nat} (h : sev < 5) :
    (sevs (raise d number sev src payload)).testBit sev = true := by
  rw [raise, sevs_consequence]
  exact testBit_sevs_post d number src payload h

/-! ### The sequencers after a fatal exception (R29, R86) -/

theorem seqState_seqSelfStop (d : Dev) : seqState (seqSelfStop d) ≠ 1 := by
  unfold seqSelfStop
  split
  · rw [seqState, stOf, fget_fset_ne _ (by decide), drainBegins, fget_fset_self _ _ _ _ (by decide)]
    decide
  · assumption

theorem seqState_chipFatal (d : Dev) : seqState (chipFatal d) ≠ 1 := seqState_seqSelfStop _

/-! ### The machine's own state and the sidereal status -/

theorem leaves_setMach {p : Nat → Bool} (d : Dev) (f : Mach → Mach) : Leaves [.mach] p d (setMach d f) :=
  ⟨fun x hx => by cases x <;> simp_all [Piece.same, setMach], keepsRegs_of_regs rfl⟩

@[simp] theorem setMach_mach (d : Dev) (f : Mach → Mach) : (setMach d f).mach = f d.mach := rfl
@[simp] theorem setMach_now (d : Dev) (f : Mach → Mach) : (setMach d f).now = d.now := rfl
@[simp] theorem sidState_setMach (d : Dev) (f : Mach → Mach) : sidState (setMach d f) = sidState d := rfl
@[simp] theorem sidNow_setMach (d : Dev) (f : Mach → Mach) : sidNow (setMach d f) = sidNow d := rfl
@[simp] theorem fget_setMach (d : Dev) (f : Mach → Mach) (a : Nat) (g : Fld) :
    fget (setMach d f) a g = fget d a g := rfl

theorem leaves_fset {p : Nat → Bool} (d : Dev) (a : Nat) (f : Fld) (v : Nat) (h : p a = true) :
    Leaves [] p d (fset d a f v) := (onlyRegs_fset d a f v h).leaves

theorem leaves_regSet {p : Nat → Bool} (d : Dev) (a : Nat) (v : W64) (h : p a = true) :
    Leaves [] p d (regSet d a v) := (onlyRegs_regSet d a v h).leaves

theorem sidNow_regSet (d : Dev) (n : Nat) : sidNow (regSet d A.SID_TIME (BitVec.ofNat 64 n)) = n % 2 ^ 64 := by
  rw [sidNow, regGet_regSet_self, BitVec.toNat_ofNat]

/-- The counter stands in a register of its own. -/
theorem sidNow_fset_sts (d : Dev) (f : Fld) (v : Nat) : sidNow (fset d A.SID_STS f v) = sidNow d := by
  rw [sidNow, regGet_fset_ne d (by decide), sidNow]

theorem sidState_fset_state (d : Dev) (v : Nat) : sidState (fset d A.SID_STS F.SID_STS_STATE v) = v % 4 :=
  fget_fset_self _ _ _ _ (by decide)

theorem sidState_fset_refok (d : Dev) (v : Nat) : sidState (fset d A.SID_STS F.SID_STS_REFOK v) = sidState d :=
  fget_fset_apart _ _ _ _ _ _ (by decide) (by decide) (by decide)

theorem sidState_countPkg (d : Dev) (src inst k : Nat) (single : Bool) :
    sidState (countPkg d src inst k single) = sidState d :=
  (onlyRegs_countPkg d src inst k single).2.fget (by decide) _

/-- A new sidereal state moves SID_STS.STATE and the machine's own counts, and nothing else. -/
theorem leaves_sidEnter {p : Nat → Bool} (d : Dev) (st : Nat) (h : p A.SID_STS = true) :
    Leaves [.mach] p d (sidEnter d st) :=
  ((leaves_fset d _ _ _ h).widen (by simp)).trans (leaves_setMach _ _)

@[simp] theorem sidState_sidEnter (d : Dev) (st : Nat) : sidState (sidEnter d st) = st % 4 := sidState_fset_state d st

theorem fget_sidEnter_refok (d : Dev) (st : Nat) :
    fget (sidEnter d st) A.SID_STS F.SID_STS_REFOK = fget d A.SID_STS F.SID_STS_REFOK :=
  fget_fset_apart d _ _ _ _ _ (by decide) (by decide) (by decide)

theorem leaves_enterHoldover {p : Nat → Bool} (d : Dev) (h : p A.SID_STS = true) :
    Leaves [.mach] p d (enterHoldover d) := (leaves_sidEnter d 3 h).trans (leaves_setMach _ _)

@[simp] theorem sidState_enterHoldover (d : Dev) : sidState (enterHoldover d) = 3 := sidState_sidEnter d 3
@[simp] theorem enterHoldover_at (d : Dev) : (enterHoldover d).mach.holdoverAt = d.now := rfl

theorem fget_enterHoldover_refok (d : Dev) :
    fget (enterHoldover d) A.SID_STS F.SID_STS_REFOK = fget d A.SID_STS F.SID_STS_REFOK := fget_sidEnter_refok d 3

/-! ### Machine records (R540, R541) -/

section
variable (d : Dev) (number sev port detail : Nat)

/-- SID_STS.EXC takes the record's number. -/
theorem machRaise_exc (h : number < 256) :
    fget (machRaise d number sev port detail) A.SID_STS F.SID_STS_EXC = number := by
  rw [machRaise, (keepsRegs_raise _ _ _ _ _).fget (by decide), fget_fset_self _ _ _ _ (by decide)]
  exact Nat.mod_eq_of_lt h

/-- Every other field of SID_STS stays. -/
theorem machRaise_sts {f : Fld} (hf : f.ok = true) (h : F.SID_STS_EXC.apart f = true) :
    fget (machRaise d number sev port detail) A.SID_STS f = fget d A.SID_STS f := by
  rw [machRaise, (keepsRegs_raise _ _ _ _ _).fget (by decide), fget_fset_apart _ _ _ _ _ _ (by decide) hf h]

@[simp] theorem sidState_machRaise : sidState (machRaise d number sev port detail) = sidState d :=
  machRaise_sts _ _ _ _ _ (by decide) (by decide)

@[simp] theorem machRaise_mem : (machRaise d number sev port detail).mem = d.mem := by
  rw [machRaise, raise_mem, fset_mem]

end

theorem machReports_of_isReport {a : Nat} (h : machReports a = false) : isReport a = false := by
  simp only [machReports, Bool.or_eq_false_iff] at h
  exact h.1

/-- An informational record is posted, and changes nothing beyond the host interface and the registers of reports and of
the machine. -/
theorem leaves_machRaise_info (d : Dev) (number port detail : Nat) :
    Leaves [.hst] machReports d (machRaise d number 0 port detail) := by
  rw [machRaise, raise_minor _ _ _ _ _ (by decide)]
  exact ((leaves_fset d _ _ _ (by decide)).widen (by simp)).trans
    ((onlyHst_post _ _ _ _ _).leaves.weaken (by simp) fun _ => machReports_of_isReport)

@[simp] theorem machRaise_info_mach (d : Dev) (number port detail : Nat) :
    (machRaise d number 0 port detail).mach = d.mach :=
  (leaves_machRaise_info d number port detail).1 .mach (by simp)

/-! ### HOLDOVER (R508, R512) -/

/-- HOLDOVER has been entered at this moment, and a record of that number posted. -/
structure HoldsOver (number : Nat) (d e : Dev) : Prop where
  state : sidState e = 3
  exc : fget e A.SID_STS F.SID_STS_EXC = number
  since : e.mach.holdoverAt = d.now
  leaves : Leaves [.mach, .hst] machReports d e

theorem holdsOver_enter (d : Dev) (port detail : Nat) {number : Nat} (h : number < 256) :
    HoldsOver number d (machRaise (enterHoldover d) number 0 port detail) where
  state := by simp
  exc := machRaise_exc _ _ _ _ _ h
  since := by simp
  leaves := ((leaves_enterHoldover d (by decide)).widen (by simp)).trans
    ((leaves_machRaise_info _ _ _ _).widen (by simp))

/-- What happened before within the same bounds belongs to the same frame. -/
theorem HoldsOver.after {number : Nat} {c d e : Dev} (h : HoldsOver number d e)
    (hc : Leaves [.mach, .hst] machReports c d) : HoldsOver number c e :=
  ⟨h.state, h.exc, h.since.trans (hc.now (by simp)), hc.trans h.leaves⟩

/-- A change of the upstream port in use is no change of the sidereal state. -/
theorem HoldsOver.fset_upin {number : Nat} {d e : Dev} (h : HoldsOver number d e) (q : Nat) :
    HoldsOver number d (fset e A.SID_STS F.SID_STS_UPIN q) where
  state := (fget_fset_apart e _ _ _ _ _ (by decide) (by decide) (by decide)).trans h.state
  exc := (fget_fset_apart e _ _ _ _ _ (by decide) (by decide) (by decide)).trans h.exc
  since := h.since
  leaves := h.leaves.trans ((leaves_fset e _ _ _ (by decide)).widen (by simp))

/-- A follower in ACQUIRE or LOCKED that loses its upstream holds over, whether or not it finds another port (R512). -/
theorem holdsOver_sidHoldover {d : Dev} (hm : isMaster d = false) (hs : sidState d = 1 ∨ sidState d = 2) :
    HoldsOver 0xFB d (sidHoldover d) := by
  have hgo : (isMaster d || !(sidState d == 1 || sidState d == 2)) = false := by
    obtain h | h := hs
    · simp [hm, h]
    · simp [hm, h]
  have henter := holdsOver_enter d (upIn d % 8) (lastTheta d) (number := 0xFB) (by decide)
  simp only [sidHoldover, hgo]
  split
  · contradiction
  · split
    · exact henter.fset_upin _
    · exact henter

/-- A master in ACQUIRE or LOCKED that loses its reference holds over, and REFOK falls (R508). -/
theorem refLost_holds {d : Dev} (hs : sidState d = 1 ∨ sidState d = 2) :
    HoldsOver 0xFA d (refLost d) ∧ fget (refLost d) A.SID_STS F.SID_STS_REFOK = 0 := by
  simp only [refLost, sidState_fset_refok, if_pos hs]
  constructor
  · exact (holdsOver_enter _ _ _ (by decide)).after ((leaves_fset d _ _ _ (by decide)).widen (by simp))
  · rw [machRaise_sts _ _ _ _ _ (by decide) (by decide), fget_enterHoldover_refok,
      fget_fset_self _ _ _ _ (by decide), Nat.zero_mod]

/-! ### SID_SET (R507) -/

theorem sidSet_sets {d : Dev} (v : Nat) (hm : isMaster d = true) (hs : sidState d ≤ 1) : sidSet d v
    = setMach (sidEnter (regSet d A.SID_TIME (BitVec.ofNat 64 v)) 1)
        (fun m => { m with sidStepped := false, sidAt := d.now }) := by
  simp [sidSet, hm, hs]

theorem sidNow_sidSet {d : Dev} (v : BitVec 64) (hm : isMaster d = true) (hs : sidState d ≤ 1) :
    sidNow (sidSet d v.toNat) = v.toNat := by
  rw [sidSet_sets _ hm hs, sidNow_setMach, sidEnter, sidNow_setMach, sidNow_fset_sts, sidNow_regSet,
    Nat.mod_eq_of_lt v.isLt]

theorem sidState_sidSet {d : Dev} (v : Nat) (hm : isMaster d = true) (hs : sidState d ≤ 1) :
    sidState (sidSet d v) = 1 := by
  rw [sidSet_sets _ hm hs, sidState_setMach, sidState_sidEnter]

theorem leaves_sidSet {d : Dev} (v : Nat) (hm : isMaster d = true) (hs : sidState d ≤ 1) :
    Leaves [.mach] (these [A.SID_TIME, A.SID_STS]) d (sidSet d v) := by
  rw [sidSet_sets _ hm hs]
  exact (((leaves_regSet d _ _ (by decide)).widen (by simp)).trans (leaves_sidEnter _ 1 (by decide))).trans
    (leaves_setMach _ _)

theorem sidSet_ignored {d : Dev} (v : Nat) (h : isMaster d = false ∨ 2 ≤ sidState d) : sidSet d v = d := by
  obtain hm | hs := h
  · simp [sidSet, hm]
  · simp [sidSet, show ¬ sidState d ≤ 1 by omega]

/-! ### Pulses (R507, R508, R663) -/

/-- The second a pulse belongs to: the nearest one. -/
def pulseSecond (d : Dev) : Nat := (nearSecond (sidNow d)).1 / 1000000000

/-- How far the counter is from that second. -/
def pulseOff (d : Dev) : Nat := (nearSecond (sidNow d)).2.natAbs

/-- The second of a pulse is noted, so that another one in it is known. -/
def pulseSeen (d : Dev) : Dev := setMach d (fun m => { m with ppsIn := pulseSecond d + 1 })

/-- The good pulses in a row, this one included: in HOLDOVER every accepted one is good. -/
def goodPulses (d : Dev) : Nat := if sidState d = 3 ∨ pulseOff d ≤ 1 then d.mach.sidGood + 1 else 0

/-- A pulse inside the window counts, before the state follows from it. -/
def pulseCounted (d : Dev) : Dev :=
  setMach (countPkg (fset (pulseSeen d) A.SID_STS F.SID_STS_REFOK 1) 0xC0B 0 (pulseOff d) true)
    (fun m => { m with sidGood := goodPulses d, sidAt := d.now })

@[simp] theorem sidState_pulseCounted (d : Dev) : sidState (pulseCounted d) = sidState d := by
  rw [pulseCounted, sidState_setMach, sidState_countPkg, sidState_fset_refok, pulseSeen, sidState_setMach]

/-- LOCKED, with the good pulses still counted. -/
def lockNow (d : Dev) (good : Nat) : Dev :=
  setMach (fset d A.SID_STS F.SID_STS_STATE 2) (fun m => { m with sidGood := good })

/-- The one step of ACQUIRE: the counter takes the nearest second. -/
def pulseStep (d : Dev) : Dev :=
  setMach (fset (regSet (pulseSeen d) A.SID_TIME (BitVec.ofNat 64 (nearSecond (sidNow d)).1)) A.SID_STS
    F.SID_STS_REFOK 1) (fun m => { m with sidStepped := true, sidAt := d.now })

/-- A pulse inside the window is accepted: the fourth good one in a row locks. -/
def pulseAccepted (d : Dev) : Dev :=
  if 4 ≤ goodPulses d ∧ sidState d ≠ 2 then lockNow (pulseCounted d) (goodPulses d) else pulseCounted d

theorem ppsPulse_ignored {d : Dev} {high : Nat}
    (h : isMaster d = false ∨ sidState d = 0 ∨ high < 100 ∨ 500000000 < high) : ppsPulse d high = d := by
  have : (!isMaster d || sidState d == 0 || decide (high < 100) || decide (500000000 < high)) = true := by
    simpa [or_assoc] using h
  simp only [ppsPulse, this, if_true]

section
variable {d : Dev} {high : Nat} (hm : isMaster d = true) (hs : sidState d ≠ 0) (hlo : 100 ≤ high)
  (hhi : high ≤ 500000000)
include hm hs hlo hhi

/-- All that a pulse of the right length can do at a master past UNSYNC. -/
theorem ppsPulse_taken : ppsPulse d high =
    if sidState d = 1 ∧ d.mach.sidStepped = false then pulseStep d
    else if d.mach.ppsIn = pulseSecond d + 1 ∨ fget d A.SID_CFG F.SID_CFG_PPSWIN < pulseOff d then
      refLost (pulseSeen d)
    else pulseAccepted d := by
  have htaken : (!isMaster d || sidState d == 0 || decide (high < 100) || decide (500000000 < high)) = false := by
    simp [hm, hs, Nat.not_lt.2 hlo, Nat.not_lt.2 hhi]
  obtain ⟨n, diff, hnear⟩ : ∃ n diff, nearSecond (sidNow d) = (n, diff) := ⟨_, _, rfl⟩
  simp only [ppsPulse, htaken, hnear, pulseStep, pulseAccepted, lockNow, pulseCounted, goodPulses, pulseSeen,
    pulseSecond, pulseOff, Bool.false_eq_true, if_false, decide_eq_true_eq, sidState_setMach, sidState_countPkg,
    sidState_fset_refok, fget_setMach, setMach_mach, setMach_now, countPkg_now, fset_now, regSet_now]

theorem ppsPulse_steps (hacq : sidState d = 1) (hst : d.mach.sidStepped = false) : ppsPulse d high = pulseStep d := by
  rw [ppsPulse_taken hm hs hlo hhi, if_pos ⟨hacq, hst⟩]

theorem ppsPulse_loses (hst : sidState d = 1 → d.mach.sidStepped = true)
    (hbad : fget d A.SID_CFG F.SID_CFG_PPSWIN < pulseOff d ∨ d.mach.ppsIn = pulseSecond d + 1) :
    ppsPulse d high = refLost (pulseSeen d) := by
  rw [ppsPulse_taken hm hs hlo hhi, if_neg (fun h => by simp [hst h.1] at h), if_pos hbad.symm]

theorem ppsPulse_accepts (hst : sidState d = 1 → d.mach.sidStepped = true)
    (hin : pulseOff d ≤ fget d A.SID_CFG F.SID_CFG_PPSWIN) (hnew : d.mach.ppsIn ≠ pulseSecond d + 1) :
    ppsPulse d high = pulseAccepted d := by
  rw [ppsPulse_taken hm hs hlo hhi, if_neg (fun h => by simp [hst h.1] at h), if_neg (by omega)]

end

theorem leaves_pulseSeen {p : Nat → Bool} (d : Dev) : Leaves [.mach] p d (pulseSeen d) := leaves_setMach d _

theorem sidNow_pulseStep (d : Dev) : sidNow (pulseStep d) = (nearSecond (sidNow d)).1 % 2 ^ 64 := by
  rw [pulseStep, sidNow_setMach, sidNow_fset_sts, sidNow_regSet]

theorem sidState_pulseStep (d : Dev) : sidState (pulseStep d) = sidState d := by
  rw [pulseStep, sidState_setMach, sidState_fset_refok, sidState, fget_regSet_ne _ (by decide), pulseSeen, fget_setMach,
    sidState]

theorem refok_pulseStep (d : Dev) : fget (pulseStep d) A.SID_STS F.SID_STS_REFOK = 1 := by
  rw [pulseStep, fget_setMach, fget_fset_self _ _ _ _ (by decide)]
  rfl

theorem leaves_pulseStep (d : Dev) : Leaves [.mach] (these [A.SID_TIME, A.SID_STS]) d (pulseStep d) :=
  (leaves_pulseSeen d).trans (((leaves_regSet _ _ _ (by decide)).trans (leaves_fset _ _ _ _ (by decide))).widen
    (by simp) |>.trans (leaves_setMach _ _))

/-- What an accepted pulse may change of the registers: a counter and the sidereal status. -/
def isPulseReg (a : Nat) : Bool := isCounter a || a == A.SID_STS

theorem isCounter_of_isPulseReg {a : Nat} (h : isPulseReg a = false) : isCounter a = false := by
  simp only [isPulseReg, Bool.or_eq_false_iff] at h
  exact h.1

theorem leaves_pulseCounted (d : Dev) : Leaves [.mach] isPulseReg d (pulseCounted d) := by
  have hcount : ∀ e src inst k single, Leaves [.mach] isPulseReg e (countPkg e src inst k single) :=
    fun e src inst k single =>
      (onlyRegs_countPkg e src inst k single).leaves.weaken (by simp) fun _ => isCounter_of_isPulseReg
  exact (((leaves_pulseSeen d).trans ((leaves_fset _ _ _ _ (by decide)).widen (by simp))).trans
    (hcount _ _ _ _ _)).trans (leaves_setMach _ _)

theorem refok_pulseCounted (d : Dev) : fget (pulseCounted d) A.SID_STS F.SID_STS_REFOK = 1 := by
  rw [pulseCounted, fget_setMach, (onlyRegs_countPkg _ _ _ _ _).2.fget (by decide), fget_fset_self _ _ _ _ (by decide)]
  rfl

/-- What an accepted pulse leaves behind. -/
structure Accepted (d e : Dev) : Prop where
  good : e.mach.sidGood = goodPulses d
  state : sidState e = if 4 ≤ goodPulses d then 2 else sidState d
  refok : fget e A.SID_STS F.SID_STS_REFOK = 1
  since : e.mach.sidAt = d.now
  leaves : Leaves [.mach] isPulseReg d e

theorem accepted_pulseAccepted (d : Dev) : Accepted d (pulseAccepted d) := by
  rw [pulseAccepted]
  split
  · next h =>
    refine ⟨rfl, ?_, ?_, rfl, ?_⟩
    · rw [if_pos h.1, lockNow, sidState_setMach, sidState_fset_state]
    · rw [lockNow, fget_setMach, fget_fset_apart _ _ _ _ _ _ (by decide) (by decide) (by decide), refok_pulseCounted]
    · exact (leaves_pulseCounted d).trans
        (((leaves_fset _ _ _ _ (by decide)).widen (by simp)).trans (leaves_setMach _ _))
  · next h =>
    refine ⟨rfl, ?_, refok_pulseCounted d, rfl, leaves_pulseCounted d⟩
    rw [sidState_pulseCounted]
    split
    · omega
    · rfl

/-! ### Loss of the reference or of measurements, and the end of HOLDOVER (R508, R512) -/

theorem referenceLoss_ignored {d : Dev} (edge : Bool) (h : isMaster d = false) : referenceLoss d edge = d := by
  simp [referenceLoss, h]

theorem referenceLoss_loses {d : Dev} {edge : Bool} (hm : isMaster d = true)
    (h : edge = true ∨ d.mach.sidAt + ms 3000 ≤ d.now) : referenceLoss d edge = refLost d := by
  simp [referenceLoss, hm, h]

theorem measurementTimeout_early {d : Dev} (h : d.now < d.mach.sidAt + us 10) : measurementTimeout d = d :=
  if_neg (Nat.not_le.2 h)

theorem measurementTimeout_late {d : Dev} (h : d.mach.sidAt + us 10 ≤ d.now) : measurementTimeout d = sidHoldover d :=
  if_pos h

theorem holdoverLimit_ignored {d : Dev} (h : sidState d ≠ 3) : holdoverLimit d = d := if_neg fun hc => h hc.1

theorem holdoverLimit_expires {d : Dev} (hm : isMaster d = false) (hs : sidState d = 3)
    (ht : d.mach.holdoverAt + us (fget d A.SID_CFG F.SID_CFG_HOLDMAX) < d.now) :
    holdoverLimit d = machRaise (sidEnter d 0) 0xF1 3 (upIn d % 8) (lastTheta d) := if_pos ⟨hs, hm, ht⟩

/-- A chip-fatal machine record stops the sequencers and is noted in GLB_ERRSUM (R86, R569). -/
theorem machRaise_chipFatal (d : Dev) (number port detail : Nat) :
    seqState (machRaise d number 3 port detail) ≠ 1 ∧ (sevs (machRaise d number 3 port detail)).testBit 3 = true :=
  ⟨seqState_chipFatal _, testBit_sevs_raise _ _ _ _ (by decide)⟩

/-! ### SID_PPS_OUT (R513) -/

theorem ppsOut_drives {d : Dev} (hs : 2 ≤ sidState d) (hn : sidNow d / 1000000000 ≠ d.mach.ppsMark) : ppsOut d
    = setMach d (fun m => { m with ppsMark := sidNow d / 1000000000, ppsUntil := d.now + us 1 }) := if_pos ⟨hs, hn⟩

theorem ppsOut_ignored {d : Dev} (hs : sidState d < 2) : ppsOut d = d := if_neg fun h => Nat.not_le.2 hs h.1

/-! ### The statement -/

/-- A command that leads to package `d` leads to `e`, where they are the same. -/
theorem next_congr {c : Instr} {s : State} {d e : Dev} (hc : exec c s = .next { s with dev := d }) (h : d = e) :
    exec c s = .next { s with dev := e } := by
  rw [hc, h]

/-- Settles O49: each command is one function of the package at the moment of the event, whose branches are the cases
of the statement; every loss enters HOLDOVER through the same record. -/
theorem siderealTimeFollowsItsReference : Obligations.SiderealTimeFollowsItsReference := by
  refine ⟨fun value s => ⟨fun hm hs => ?_, fun h => next_congr rfl (sidSet_ignored _ h)⟩, fun t high s => ?_,
    fun t edge s => ?_, fun t s => ?_⟩
  · obtain ⟨hparts, hregs⟩ := leaves_sidSet value.toNat hm hs
    exact ⟨_, rfl, sidNow_sidSet value hm hs, sidState_sidSet _ hm hs, hparts, hregs⟩
  · refine ⟨fun h => next_congr rfl (ppsPulse_ignored h), fun hm hlo hhi =>
      ⟨fun hs hst => ?_, fun hs hst hin hnew => ?_, fun hs hbad => ?_⟩⟩
    · obtain ⟨hparts, hregs⟩ := leaves_pulseStep (tick s.dev t)
      exact ⟨_, next_congr rfl (ppsPulse_steps hm (by omega) hlo hhi hs hst), sidNow_pulseStep _, rfl,
        refok_pulseStep _, (sidState_pulseStep _).trans hs, hparts, hregs⟩
    · obtain ⟨hgood, hstate, hrefok, hat, hparts, hregs⟩ := accepted_pulseAccepted (tick s.dev t)
      exact ⟨_, next_congr rfl (ppsPulse_accepts hm hs hlo hhi hst hin hnew), hgood, hstate, hrefok, hat, hparts,
        hregs⟩
    · have hpast : sidState (tick s.dev t) ≠ 0 := by omega
      have hst : sidState (tick s.dev t) = 1 → (tick s.dev t).mach.sidStepped = true := fun h1 =>
        hs.elim (fun h2 => by omega) And.right
      have hsync : sidState (pulseSeen (tick s.dev t)) = 1 ∨ sidState (pulseSeen (tick s.dev t)) = 2 :=
        hs.symm.imp_left And.left
      obtain ⟨hholds, hrefok⟩ := refLost_holds hsync
      obtain ⟨hstate, hexc, hsince, hparts, hregs⟩ := hholds.after ((leaves_pulseSeen _).widen (by simp))
      exact ⟨_, next_congr rfl (ppsPulse_loses hm hpast hlo hhi hst hbad), hstate, hrefok, hexc, hsince, hparts,
        hregs⟩
  · refine ⟨fun h => next_congr rfl (referenceLoss_ignored edge h), fun hm hlost hs => ?_⟩
    obtain ⟨⟨hstate, hexc, hsince, hparts, hregs⟩, hrefok⟩ := refLost_holds hs
    exact ⟨_, next_congr rfl (referenceLoss_loses hm hlost), hstate, hrefok, hexc, hsince, hparts, hregs⟩
  · refine ⟨fun h => next_congr rfl (measurementTimeout_early h), fun hm hlate hs => ?_, fun hm hs hlong => ?_,
      fun h => next_congr rfl (holdoverLimit_ignored h), fun hs hnew => ?_,
      fun h => next_congr rfl (ppsOut_ignored h)⟩
    · obtain ⟨hstate, hexc, hsince, hparts, hregs⟩ := holdsOver_sidHoldover hm hs
      exact ⟨_, next_congr rfl (measurementTimeout_late hlate), hstate, hexc, hsince, hparts, hregs⟩
    · obtain ⟨hstopped, hsev⟩ := machRaise_chipFatal (sidEnter (tick s.dev t) 0) 0xF1 (upIn (tick s.dev t) % 8)
        (lastTheta (tick s.dev t))
      exact ⟨_, next_congr rfl (holdoverLimit_expires hm hs hlong), by simp, machRaise_exc _ _ _ _ _ (by decide),
        hstopped, hsev, machRaise_mem _ _ _ _ _⟩
    · obtain ⟨hparts, hregs⟩ := leaves_setMach (p := fun _ => false) (tick s.dev t) fun m =>
        { m with ppsMark := sidNow (tick s.dev t) / 1000000000, ppsUntil := (tick s.dev t).now + us 1 }
      exact ⟨_, next_congr rfl (ppsOut_drives hs hnew), rfl, rfl, hparts, hregs⟩

end Sys2Proof.Machine
end

section
/-! PROOFS. The controller as an MCTP endpoint (R583, R586), firmware update (R585, R609, R660) and the state changes
that the board management controller asks for (R596). -/

namespace Sys2Proof.Machine

/-! ### What each update leaves alone -/

theorem leaves_withMgt {q : Nat → Bool} (d : Dev) (g : Mgt) : Leaves [.mgt] q d (d.withMgt g) :=
  ⟨fun x hx => by cases x <;> simp_all [Piece.same], keepsRegs_of_regs rfl⟩

theorem leaves_setPort {q : Nat → Bool} (d : Dev) (p : Nat) (x : Port) : Leaves [.ports] q d (setPort d p x) :=
  ⟨fun y hy => by cases y <;> simp_all [Piece.same, setPort], keepsRegs_of_regs rfl⟩

theorem leaves_nvWrite {q : Nat → Bool} (d : Dev) (off : Nat) (bs : List Byte) :
    Leaves [.nv] q d (nvWrite d off bs) := by
  rw [nvWrite]
  split
  · exact ⟨fun x hx => by cases x <;> simp_all [Piece.same], keepsRegs_of_regs rfl⟩
  · exact ⟨fun x hx => by cases x <;> simp_all [Piece.same], keepsRegs_of_regs rfl⟩

/-- What the controller answers to the last request: refused or not. -/
def noteRefused (d : Dev) (bad : Bool) : Dev := d.withMgt { d.mgt with refused := bad }

@[simp] theorem noteRefused_refused (d : Dev) (bad : Bool) : (noteRefused d bad).mgt.refused = bad := rfl
@[simp] theorem noteRefused_nvNext (d : Dev) (bad : Bool) : (noteRefused d bad).nvNext = d.nvNext := rfl
@[simp] theorem fget_noteRefused (d : Dev) (bad : Bool) (a : Nat) (f : Fld) :
    fget (noteRefused d bad) a f = fget d a f := rfl
@[simp] theorem pstate_noteRefused (d : Dev) (bad : Bool) : pstate (noteRefused d bad) = pstate d := rfl

theorem leaves_noteRefused {q : Nat → Bool} (d : Dev) (bad : Bool) : Leaves [.mgt] q d (noteRefused d bad) :=
  leaves_withMgt d _

/-! ### A message taken from its inbox (R460, R462) -/

theorem isVc_vccred (p : Nat) {v : Nat} (h : v < 6) : isVc p (A.HRM_VCCRED p v) = true := by
  simp only [isVc, List.any_eq_true, List.mem_range, beq_iff_eq]
  exact ⟨v, h, rfl⟩

theorem leaves_freeFlits (d : Dev) (p n : Nat) {v : Nat} (h : v < 6) :
    Leaves [.ports] (isVc p) d (freeFlits d p v n) :=
  ((leaves_fset d _ _ _ (isVc_vccred p h)).widen (by simp)).trans (leaves_setPort _ p _)

/-- Taking a message moves only the ports and the buffer register of its virtual channel. -/
theorem leaves_takeInbox (d : Dev) (p : Nat) {m : Msg} (h : m.vc < 6) :
    Leaves [.ports] (isVc p) d (takeInbox d p m) := by
  simp only [takeInbox]
  split
  · split
    · exact (leaves_setPort d p _).trans (leaves_freeFlits _ p _ h)
    · exact leaves_setPort d p _
  · exact leaves_setPort d 8 _

/-! ### MGMT messages (R586) -/

theorem leaves_mctpTake {q : Nat → Bool} (d : Dev) (phys : Nat) (pkt : List Byte) :
    Leaves [.mgt] q d (mctpTake d phys pkt) := leaves_withMgt d _

@[simp] theorem mctpTake_packets (d : Dev) (phys : Nat) (pkt : List Byte) :
    (mctpTake d phys pkt).mgt.packets = (phys, pkt) :: d.mgt.packets := rfl

@[simp] theorem mctpTake_discarded (d : Dev) (phys : Nat) (pkt : List Byte) :
    (mctpTake d phys pkt).mgt.discarded = d.mgt.discarded := rfl

/-- A MGMT message of KIND 1 that holds 4 to 1024 bytes. -/
def mgmtGood (m : Msg) : Prop := bits m.w1 7 0 = 1 ∧ 4 ≤ m.data.length ∧ m.data.length ≤ 1024

/-- A message is counted as discarded. -/
def mgmtDrop (d : Dev) : Dev := d.withMgt { d.mgt with discarded := d.mgt.discarded + 1 }

@[simp] theorem mgmtDrop_packets (d : Dev) : (mgmtDrop d).mgt.packets = d.mgt.packets := rfl
@[simp] theorem mgmtDrop_discarded (d : Dev) : (mgmtDrop d).mgt.discarded = d.mgt.discarded + 1 := rfl
theorem leaves_mgmtDrop {q : Nat → Bool} (d : Dev) : Leaves [.mgt] q d (mgmtDrop d) := leaves_withMgt d _

section
variable {d : Dev} {p : Nat} {m : Msg} (hs : linkStale d p m = false)
include hs

/-- Only a PLDM request does more than hand over its packet: it is a wake event. -/
theorem mgmtTake_good (hg : mgmtGood m) (hr : pldmRequest m.data = false) :
    mgmtTake d p m = mctpTake (takeInbox d p m) m.schip m.data := by
  obtain ⟨hkind, hmin, hmax⟩ := hg
  simp [mgmtTake, hs, hr, hkind, Nat.not_lt.2 hmin, Nat.not_lt.2 hmax]

theorem mgmtTake_bad (hg : ¬ mgmtGood m) : mgmtTake d p m = mgmtDrop (takeInbox d p m) := by
  have hbad : bits m.w1 7 0 ≠ 1 ∨ m.data.length < 4 ∨ 1024 < m.data.length := by
    by_contra hc
    exact hg ⟨by omega, by omega, by omega⟩
  simp [mgmtTake, mgmtDrop, hs, if_pos hbad]

variable (hvc : m.vc < 6)
include hvc

theorem mgmtTake_hands_over (hg : mgmtGood m) (hr : pldmRequest m.data = false) :
    (mgmtTake d p m).mgt.packets = (m.schip, m.data) :: d.mgt.packets ∧
      (mgmtTake d p m).mgt.discarded = d.mgt.discarded ∧ Leaves [.ports, .mgt] (isVc p) d (mgmtTake d p m) := by
  have htake := leaves_takeInbox d p hvc
  rw [mgmtTake_good hs hg hr, mctpTake_packets, mctpTake_discarded, htake.1 .mgt (by simp)]
  exact ⟨rfl, rfl, (htake.widen (by simp)).trans ((leaves_mctpTake _ _ _).widen (by simp))⟩

theorem mgmtTake_drops (hg : ¬ mgmtGood m) : (mgmtTake d p m).mgt.packets = d.mgt.packets ∧
    (mgmtTake d p m).mgt.discarded = d.mgt.discarded + 1 ∧ Leaves [.ports, .mgt] (isVc p) d (mgmtTake d p m) := by
  have htake := leaves_takeInbox d p hvc
  rw [mgmtTake_bad hs hg, mgmtDrop_packets, mgmtDrop_discarded, htake.1 .mgt (by simp)]
  exact ⟨rfl, rfl, (htake.widen (by simp)).trans ((leaves_mgmtDrop _).widen (by simp))⟩

end

/-! ### SMBus writes (R583) -/

/-- A write to the controller with a right PEC, command 0x0F and the length it names. -/
def isMctpWrite (d : Dev) (addr : Nat) (bs : List Byte) : Prop :=
  d.pwr.vaux = true ∧ addr = 0x4C + d.pwr.smb ∧ crc8 (BitVec.ofNat 8 (2 * addr) :: bs) = 0 ∧ bs.headD 0 = 0x0F ∧
    bs.length = (bs.getD 1 0).toNat + 3 ∧ 5 ≤ (bs.getD 1 0).toNat

/-- The guard of `smbusWrite` is the negation of `isMctpWrite`, factor by factor. -/
theorem smbusWrite_guard (d : Dev) (addr : Nat) (bs : List Byte) :
    (!d.pwr.vaux || !decide (addr = 0x4C + d.pwr.smb) || !decide (crc8 (BitVec.ofNat 8 (2 * addr) :: bs) = 0)
      || bs.headD 0 != 0x0F || decide (bs.length ≠ (bs.getD 1 0).toNat + 3) || decide ((bs.getD 1 0).toNat < 5)) = false
      ↔ isMctpWrite d addr bs := by
  simp only [isMctpWrite, Bool.or_eq_false_iff, Bool.not_eq_false', decide_eq_true_eq, bne_eq_false_iff_eq,
    decide_eq_false_iff_not, ne_eq, not_not, Nat.not_lt, and_assoc]

theorem smbusWrite_takes {d : Dev} {addr : Nat} {bs : List Byte} (h : isMctpWrite d addr bs) :
    smbusWrite d addr bs
      = mctpTake d ((bs.getD 2 0).toNat / 2) ((bs.drop 3).take ((bs.getD 1 0).toNat - 1)) := by
  simp only [smbusWrite, (smbusWrite_guard d addr bs).2 h, Bool.false_eq_true, if_false]

theorem smbusWrite_dropped {d : Dev} {addr : Nat} {bs : List Byte} (h : ¬ isMctpWrite d addr bs) :
    smbusWrite d addr bs = d := by
  simp only [smbusWrite, Bool.eq_true_of_not_eq_false (mt (smbusWrite_guard d addr bs).1 h), if_true]

/-! ### The NV store while a guard may hold its writes back (R609, R611) -/

@[simp] theorem nvWrite_nvNext (d : Dev) (off : Nat) (bs : List Byte) :
    (nvWrite d off bs).nvNext = memWrite d.nvNext off bs := by
  rw [nvWrite]
  split
  · rfl
  · rfl

theorem memGet_nvWrite_out (d : Dev) {off k : Nat} {bs : List Byte} (h : k < off ∨ off + bs.length ≤ k) :
    memGet (nvWrite d off bs).nvNext k = memGet d.nvNext k := by
  rw [nvWrite_nvNext, memGet_memWrite_out _ _ _ _ h]

@[simp] theorem memRead_length (m : List Host.Cell) (a n : Nat) : (memRead m a n).length = n := by
  induction n generalizing a with
  | zero => rfl
  | succ n ih => rw [memRead, List.length_cons, ih]

/-! ### The directory (R401, R585) -/

/-- ACTIVE stands in bit 0 of the directory's byte 16. -/
theorem dirActive_nvLater (d : Dev) : dirActive (nvLater d) = (memGet d.nvNext 16).toNat.testBit 0 := by
  rw [dirActive, nvLater, withNv_nv, memNat, memRead, memRead, leNat, leNat, Nat.mul_zero, Nat.add_zero]

/-- The 60 bytes that the directory's CRC covers, with another ACTIVE slot. -/
def dirHead (d : Dev) (b : Bool) : List Byte :=
  memRead d.nvNext 0 16 ++ leBytes 1 (memNat d.nvNext 16 1 / 2 * 2 + b2n b) ++ memRead d.nvNext 17 43

@[simp] theorem dirHead_length (d : Dev) (b : Bool) : (dirHead d b).length = 60 := by simp [dirHead]

theorem dirSet_nvNext (d : Dev) (b : Bool) : (dirSet d b).nvNext
    = memWrite d.nvNext 0 (dirHead d b ++ leBytes 4 (crc32c (dirHead d b))) := nvWrite_nvNext _ _ _

theorem memGet_dirSet_out (d : Dev) (b : Bool) {k : Nat} (h : 64 ≤ k) :
    memGet (dirSet d b).nvNext k = memGet d.nvNext k := by
  rw [dirSet_nvNext, memGet_memWrite_out _ _ _ _ (by simp; omega)]

theorem dirHead_active (d : Dev) (b : Bool) (h : 16 < (dirHead d b).length) :
    (dirHead d b)[16] = BitVec.ofNat 8 (memNat d.nvNext 16 1 / 2 * 2 + b2n b) := by
  simp [dirHead, leBytes]

theorem dirActive_dirSet (d : Dev) (b : Bool) : dirActive (nvLater (dirSet d b)) = b := by
  have hread : memGet (dirSet d b).nvNext 16 = BitVec.ofNat 8 (memNat d.nvNext 16 1 / 2 * 2 + b2n b) := by
    have hin := memGet_memWrite_in d.nvNext 0 16 (dirHead d b ++ leBytes 4 (crc32c (dirHead d b))) (by simp)
    rw [Nat.zero_add] at hin
    rw [dirSet_nvNext, hin, List.getElem_append_left (by simp), dirHead_active]
  rw [dirActive_nvLater, hread, BitVec.toNat_ofNat, Nat.testBit_zero]
  cases b
  · simp [b2n]
  · simp [b2n]

theorem leaves_dirSet {q : Nat → Bool} (d : Dev) (b : Bool) : Leaves [.nv] q d (dirSet d b) := leaves_nvWrite d _ _

/-! ### Firmware update (R585, R609, R660) -/

/-- The image is copied to the slot that is not active, which the directory then names. -/
def switchSlot (d : Dev) (image : List Byte) : Dev :=
  let b := !dirActive (nvLater d)
  dirSet (nvWrite d (bootBase b) image) b

/-- The whole image has come and the check of the staging area finds nothing wrong. -/
def imageGood (d : Dev) (image : List Byte) (whole : Bool) : Prop :=
  whole = true ∧ slotReason (nvLater (nvWrite d stagingBase image)) stagingBase = 0

section
variable {d : Dev} {image : List Byte} {whole : Bool}

theorem slotReason_of_not_imageGood (hw : whole = true) (hg : ¬ imageGood d image whole) :
    slotReason (nvLater (nvWrite d stagingBase image)) stagingBase ≠ 0 := fun hok => hg ⟨hw, hok⟩

theorem firmwareUpdate_unpowered (h : d.pwr.vaux = false) : firmwareUpdate d image whole = d := by
  simp [firmwareUpdate, h]

theorem firmwareUpdate_refused (h : d.pwr.vaux = true)
    (hbad : d.pwr.wpLow = true ∨ pstate d = 4 ∨ 0xF00000 < image.length) :
    firmwareUpdate d image whole = noteRefused d true := by
  have hguard : (d.pwr.wpLow || decide (pstate d = 4) || decide (0x100000 * 15 < image.length)) = true := by
    simpa [or_assoc] using hbad
  simp [firmwareUpdate, h, hguard, noteRefused]

section
variable (h : d.pwr.vaux = true) (hwp : d.pwr.wpLow = false) (hcold : pstate d ≠ 4) (hlen : image.length ≤ 0xF00000)
include h hwp hcold hlen

/-- An image that passes its check is staged and then installed. -/
theorem firmwareUpdate_installs (hg : imageGood d image whole) :
    firmwareUpdate d image whole = noteRefused (switchSlot (nvWrite d stagingBase image) image) false := by
  obtain ⟨hw, hok⟩ := hg
  simp [firmwareUpdate, h, hwp, hcold, Nat.not_lt.2 hlen, hw, hok, noteRefused, switchSlot]

/-- Any other image stays in the staging area; a whole one is refused. -/
theorem firmwareUpdate_stages (hg : ¬ imageGood d image whole) :
    firmwareUpdate d image whole = noteRefused (nvWrite d stagingBase image) whole := by
  cases whole
  · simp [firmwareUpdate, h, hwp, hcold, Nat.not_lt.2 hlen, noteRefused]
  · simp [firmwareUpdate, h, hwp, hcold, Nat.not_lt.2 hlen, slotReason_of_not_imageGood rfl hg, noteRefused]

end
end

/-- The slots and the directory stand below the staging area. -/
theorem memGet_staged (d : Dev) (image : List Byte) {k : Nat} (h : k < stagingBase) :
    memGet (nvWrite d stagingBase image).nvNext k = memGet d.nvNext k := memGet_nvWrite_out d (.inl h)

theorem dirActive_staged (d : Dev) (image : List Byte) :
    dirActive (nvLater (nvWrite d stagingBase image)) = dirActive (nvLater d) := by
  rw [dirActive_nvLater, dirActive_nvLater, memGet_staged _ _ (by decide)]

/-- A slot lies above the directory and below the staging area. -/
theorem bootBase_bounds (b : Bool) {k : Nat} (h : k < 0xF00000) :
    64 ≤ bootBase b + k ∧ bootBase b + k < stagingBase := by
  cases b
  · simp only [bootBase, stagingBase, Bool.false_eq_true, if_false]; omega
  · simp only [bootBase, stagingBase, if_true]; omega

/-- The two slots do not meet. -/
theorem bootBase_apart (b : Bool) {k n : Nat} (hk : k < 0xF00000) (hn : n ≤ 0xF00000) :
    bootBase b + k < bootBase (!b) ∨ bootBase (!b) + n ≤ bootBase b + k := by
  cases b
  · left; simp only [bootBase, Bool.not_false, Bool.false_eq_true, if_true, if_false]; omega
  · right; simp only [bootBase, Bool.not_true, Bool.false_eq_true, if_true, if_false]; omega

/-- Installing an image leaves the active slot alone. -/
theorem memGet_switchSlot_active (d : Dev) {image : List Byte} {k : Nat} (hk : k < 0xF00000)
    (hlen : image.length ≤ 0xF00000) : memGet (switchSlot d image).nvNext (bootBase (dirActive (nvLater d)) + k)
      = memGet d.nvNext (bootBase (dirActive (nvLater d)) + k) := by
  obtain ⟨hdir, -⟩ := bootBase_bounds (dirActive (nvLater d)) hk
  rw [switchSlot, memGet_dirSet_out _ _ hdir, memGet_nvWrite_out _ (bootBase_apart _ hk hlen)]

theorem dirActive_switchSlot (d : Dev) (image : List Byte) :
    dirActive (nvLater (switchSlot d image)) = !dirActive (nvLater d) := dirActive_dirSet _ _

theorem leaves_switchSlot {q : Nat → Bool} (d : Dev) (image : List Byte) : Leaves [.nv] q d (switchSlot d image) :=
  (leaves_nvWrite d _ _).trans (leaves_dirSet _ _)

theorem leaves_nv_noteRefused {q : Nat → Bool} {d e : Dev} (h : Leaves [.nv] q d e) (bad : Bool) :
    Leaves [.nv, .mgt] q d (noteRefused e bad) :=
  (h.widen (by simp)).trans ((leaves_noteRefused e bad).widen (by simp))

/-! ### State changes (R596, R597, R605, R608, R615) -/

theorem pstate_fset_ne (d : Dev) {a : Nat} (h : A.PWR_STS ≠ a) (f : Fld) (v : Nat) : pstate (fset d a f v) = pstate d :=
  fget_fset_ne d h f _ v

theorem pstate_setPwr (d : Dev) (f : Pwr → Pwr) : pstate (setPwr d f) = pstate d := rfl

theorem fget_setPwr (d : Dev) (f : Pwr → Pwr) (a : Nat) (g : Fld) : fget (setPwr d f) a g = fget d a g := rfl

theorem keepsRegs_setPwr {q : Nat → Bool} (d : Dev) (f : Pwr → Pwr) : keepsRegs q d (setPwr d f) :=
  keepsRegs_of_regs rfl

@[simp] theorem pstate_setPstate (d : Dev) (n : Nat) : pstate (setPstate d n) = n % 8 :=
  fget_fset_self _ _ _ _ (by decide)

theorem pstate_poolAsk (d : Dev) (ask : Nat) {h : Nat} (hh : A.PWR_STS ≠ A.POL_STS h) :
    pstate (poolAsk d h ask) = pstate d := by
  rw [poolAsk, pstate_fset_ne _ hh, setPool, pstate_fset_ne _ hh]
  rfl

/-- A Hold request in Run begins the entry. -/
theorem pstate_holdRequest {d : Dev} (h : pstate d = 0) : pstate (holdRequest d) = 1 := by
  have hregs : pstate (setPhaseHold (regSet (setPstate d 1) A.PWR_HSTS 0) 1) = 1 := by
    rw [setPhaseHold, pstate_fset_ne _ (by decide), pstate, fget_regSet_ne _ (by decide)]
    exact pstate_setPstate d 1
  rw [holdRequest, if_neg (not_not.2 h), pstate_poolAsk _ _ (by decide), pstate_poolAsk _ _ (by decide), pstate_setPwr,
    hregs]

/-- A wake event in Hold starts the exit and names its source. -/
theorem wakeEvent_hold {d : Dev} (h : pstate d = 2) {src : Nat} (hsrc : src < 16) :
    pstate (wakeEvent d src) = 3 ∧ fget (wakeEvent d src) A.PWR_WAKE F.PWR_WAKE_SRC = src := by
  simp only [wakeEvent, h]
  constructor
  · exact fget_fset_self _ _ _ _ (by decide)
  · rw [fget_fset_ne _ (by decide), fget_fset_apart _ _ _ _ _ _ (by decide) (by decide) (by decide),
      fget_fset_apart _ _ _ _ _ _ (by decide) (by decide) (by decide), fget_fset_self _ _ _ _ (by decide)]
    exact Nat.mod_eq_of_lt hsrc

theorem coldEntry_outside {d : Dev} (h : pstate d ≠ 2) : coldEntry d = d := if_pos h

/-- What setting a floor in force may change of the registers. -/
def isFloorReg (a : Nat) : Bool := isRaise a || these [A.PWR_STS, A.PWR_FLOOR, A.SEQ_GAP 0, A.SEQ_GAP 1] a

theorem isRaise_of_isFloorReg {a : Nat} (h : isFloorReg a = false) : isRaise a = false := by
  simp only [isFloorReg, Bool.or_eq_false_iff] at h
  exact h.1

theorem keepsRegs_pwrRaise (d : Dev) (number sev detail : Nat) :
    keepsRegs isFloorReg d (pwrRaise d number sev detail) :=
  (keepsRegs_fset d _ _ _ (by decide)).trans ((keepsRegs_raise _ _ _ _ _).weaken fun _ => isRaise_of_isFloorReg)

/-- The floor in force becomes `eff`, and with it the sequencers' gaps (R613). -/
def floorMove (d : Dev) (eff : Nat) : Dev :=
  if eff = fget d A.PWR_FLOOR F.PWR_FLOOR_EFF then d
  else [0, 1].foldl (fun d h => govSet (fset d (A.SEQ_GAP h) F.SEQ_GAP_PWR eff) (.gapPwr h) eff)
    (fset d A.PWR_FLOOR F.PWR_FLOOR_EFF eff)

/-- The start or the end of throttling is recorded (R618). -/
def throtNote (d : Dev) (cause : Nat) : Dev :=
  let was := fget d A.PWR_STS F.PWR_STS_THROT
  if cause ≠ 0 ∧ was = 0 then
    pwrRaise (setPwr (fset d A.PWR_STS F.PWR_STS_THROT 1) (fun p => { p with throtAt := d.now, cause := cause })) 0xCB 0
      cause
  else if cause = 0 ∧ was = 1 then
    pwrRaise (fset d A.PWR_STS F.PWR_STS_THROT 0) 0xCB 0 (d.pwr.cause + 8 + ((d.now - d.pwr.throtAt) / us 1) <<< 8)
  else d

theorem floorsApply_eq (d : Dev) : ∃ eff cause, floorsApply d = throtNote (floorMove d eff) cause := ⟨_, _, rfl⟩

theorem keepsRegs_floorMove (d : Dev) (eff : Nat) : keepsRegs isFloorReg d (floorMove d eff) := by
  have hgap : ∀ (e : Dev) (h : Nat), isFloorReg (A.SEQ_GAP h) = true →
      keepsRegs isFloorReg e (govSet (fset e (A.SEQ_GAP h) F.SEQ_GAP_PWR eff) (.gapPwr h) eff) :=
    fun e h hh => (keepsRegs_fset e _ _ _ hh).trans (keepsRegs_of_regs (govSet_regs _ _ _))
  rw [floorMove]
  split
  · exact keepsRegs.refl _ _
  · exact ((keepsRegs_fset d _ _ _ (by decide)).trans (hgap _ 0 (by decide))).trans (hgap _ 1 (by decide))

theorem keepsRegs_throtNote (d : Dev) (cause : Nat) : keepsRegs isFloorReg d (throtNote d cause) := by
  have hthrot : ∀ v, keepsRegs isFloorReg d (fset d A.PWR_STS F.PWR_STS_THROT v) :=
    fun v => keepsRegs_fset d _ _ v (by decide)
  simp only [throtNote]
  split
  · exact ((hthrot 1).trans (keepsRegs_setPwr _ _)).trans (keepsRegs_pwrRaise _ _ _ _)
  · split
    · exact (hthrot 0).trans (keepsRegs_pwrRaise _ _ _ _)
    · exact keepsRegs.refl _ _

theorem keepsRegs_floorsApply (d : Dev) : keepsRegs isFloorReg d (floorsApply d) := by
  obtain ⟨eff, cause, heq⟩ := floorsApply_eq d
  rw [heq]
  exact (keepsRegs_floorMove d eff).trans (keepsRegs_throtNote _ cause)

theorem fget_throttleClear_stuck (d : Dev) : fget (throttleClear d) A.PWR_THR F.PWR_THR_STUCK = 0 := by
  rw [throttleClear, thrApply, (keepsRegs_floorsApply _).fget (by decide), fget_fset_ne _ (by decide), fget_setPwr,
    fget_fset_self _ _ _ _ (by decide), Nat.zero_mod]

section
variable {d : Dev} (i : BootIn)

theorem pldmChange_unpowered (h : d.pwr.vaux = false) (req : PldmReq) : pldmChange d req i = d := by
  simp [pldmChange, h]

variable (h : d.pwr.vaux = true)
include h

theorem pldmChange_hold : pldmChange d .hold i = noteRefused (holdRequest d) false := by
  simp [pldmChange, h, noteRefused]

theorem pldmChange_wake : pldmChange d .wake i = noteRefused (wakeEvent d 2) false := by
  simp [pldmChange, h, noteRefused]

theorem pldmChange_clear : pldmChange d .clear i = noteRefused (throttleClear d) false := by
  simp [pldmChange, h, noteRefused]

theorem pldmChange_cold_outside (hp : pstate d ≠ 2) : pldmChange d .cold i = noteRefused d true := by
  simp [pldmChange, h, hp, coldEntry_outside hp, noteRefused]

end

/-! ### The statement -/

/-- Settles O55: a message leaves its inbox and then is handed over or dropped; an image is staged, and installed only
where its check finds nothing wrong, in the slot that is not active; a state change is the action of its register. -/
theorem controllerTakesPacketsAndUpdates : Obligations.ControllerTakesPacketsAndUpdates := by
  refine ⟨fun t port m s hstale hvc => ⟨fun hgood hreq => ?_, fun hbad => ?_⟩,
    fun t addr data s => ⟨fun h => next_congr rfl (smbusWrite_dropped h), fun h => ?_⟩,
    fun t image whole s => ⟨fun h => next_congr rfl (firmwareUpdate_unpowered h), fun h hbad => ?_,
      fun h hwp hcold hlen => ?_⟩,
    fun t boot s => ⟨fun h req => next_congr rfl (pldmChange_unpowered boot h req), fun h hp => ?_, fun h hp => ?_,
      fun h hp => ?_, fun h => ?_⟩⟩
  · obtain ⟨hpackets, hdiscarded, hparts, hregs⟩ := mgmtTake_hands_over hstale hvc hgood hreq
    exact ⟨_, rfl, hpackets, hdiscarded, hparts, hregs⟩
  · obtain ⟨hpackets, hdiscarded, hparts, hregs⟩ := mgmtTake_drops hstale hvc hbad
    exact ⟨_, rfl, hpackets, hdiscarded, hparts, hregs⟩
  · obtain ⟨hparts, hregs⟩ := leaves_mctpTake (tick s.dev t) _ _
    exact ⟨_, next_congr rfl (smbusWrite_takes h), mctpTake_packets _ _ _, hparts, hregs⟩
  · obtain ⟨hparts, hregs⟩ := leaves_noteRefused (tick s.dev t) true
    exact ⟨_, next_congr rfl (firmwareUpdate_refused h hbad), rfl, hparts, hregs⟩
  · have hbelow : ∀ k, k < 0xF00000 → bootBase (dirActive (nvLater (nvWrite (tick s.dev t) stagingBase image))) + k
        < stagingBase := fun k hk => (bootBase_bounds _ hk).2
    by_cases hgood : imageGood (tick s.dev t) image whole
    · obtain ⟨hwhole, hok⟩ := hgood
      obtain ⟨hparts, hregs⟩ := leaves_nv_noteRefused
        ((leaves_nvWrite (tick s.dev t) stagingBase image).trans (leaves_switchSlot _ image)) false
      refine ⟨_, next_congr rfl (firmwareUpdate_installs h hwp hcold hlen ⟨hwhole, hok⟩), fun k hk => ?_, fun _ => ?_,
        fun _ _ => ?_, fun hc => ?_, hparts, hregs⟩
      · exact (memGet_switchSlot_active _ hk hlen).trans (memGet_staged _ _ (hbelow k hk))
      · simp [hok]
      · exact (dirActive_switchSlot _ _).trans (congrArg _ (dirActive_staged _ _))
      · simp [hwhole, hok] at hc
    · obtain ⟨hparts, hregs⟩ := leaves_nv_noteRefused (leaves_nvWrite (tick s.dev t) stagingBase image) whole
      refine ⟨_, next_congr rfl (firmwareUpdate_stages h hwp hcold hlen hgood), fun k hk => ?_, fun hwhole => ?_,
        fun hwhole hok => absurd ⟨hwhole, hok⟩ hgood, fun _ k hk => memGet_staged _ _ hk, hparts, hregs⟩
      · exact memGet_staged _ _ (hbelow k hk)
      · rw [noteRefused_refused, hwhole]
        exact (decide_eq_true (slotReason_of_not_imageGood hwhole hgood)).symm
  · exact ⟨_, next_congr rfl (pldmChange_hold boot h), (pstate_noteRefused _ _).trans (pstate_holdRequest hp),
      noteRefused_refused _ _⟩
  · obtain ⟨hstate, hsource⟩ := wakeEvent_hold hp (src := 2) (by decide)
    exact ⟨_, next_congr rfl (pldmChange_wake boot h), (pstate_noteRefused _ _).trans hstate,
      (fget_noteRefused _ _ _ _).trans hsource⟩
  · obtain ⟨hparts, hregs⟩ := leaves_noteRefused (observe s.dev t) true
    exact ⟨_, next_congr rfl (pldmChange_cold_outside boot h hp), rfl, hparts, hregs⟩
  · exact ⟨_, next_congr rfl (pldmChange_clear boot h), (fget_noteRefused _ _ _ _).trans (fget_throttleClear_stuck _),
      noteRefused_refused _ _⟩

/-! ### An image that is accepted

A signature (r, s) whose r, s and digest are one number verifies under the key R − G, where R is a point of the curve
with that number as its x. -/

/-- The header of an image without payload, of version 0. -/
def signedHeader : List Byte :=
  ([0x5A, 0x54, 0x58, 0x32, 0x42, 0x4F, 0x4F, 0x54] : List (BitVec 8)) ++ List.replicate 10 0 ++ [6] ++
    List.replicate 45 0

/-- SHA-384 of the header, as a number. -/
def signedDigest : Nat :=
  0x34D5CEE039D38995102B6FB342E5FB890E961D41D425CABA21A5375D85B3B7A6BCA68A578D48B0BDCEABDE7C83FD0551

def signedImage : List Byte :=
  signedHeader ++ beBytes 48 signedDigest ++ leBytes 48 signedDigest ++ leBytes 48 signedDigest

/-- The key as OLKEY holds it. -/
def signedKey : Nat :=
  0x598F6406FF2D7309C4A7C7EEA41D4AE1800227618D834BFB86CBB2959AB239EC9A0CF7E797EF5A97F14DE8A89D213F17 +
    0xE08E9E7F987C8566A050901C9953B196DE9B6E1AFF8F84AC6A34927C900B777C76CAABD2C1D1AFFAE241E993F1A733D0 <<< 384

/-- The package at reset, with that key in its fuses. -/
def signedState : State :=
  let tst := Dev.reset.tst
  ⟨Dev.reset.withTst { tst with fuseA := { tst.fuseA with olkey := ⟨some signedKey, none⟩ } }, []⟩

theorem imageGood_signed : imageGood (tick signedState.dev 0) signedImage true := by
  unfold imageGood
  decide +kernel

/-- The clause on images that check is met: this one makes slot B active. -/
theorem signedImage_installs : ∃ u, exec (.pldmFirmwareUpdate 0 signedImage true) signedState = .next u ∧
    u.dev.mgt.refused = false ∧ dirActive (nvLater u.dev) = true := by
  obtain ⟨-, -, hupdate, -⟩ := controllerTakesPacketsAndUpdates
  obtain ⟨-, -, htaken⟩ := hupdate 0 signedImage true signedState
  obtain ⟨u, hexec, -, hrefused, hactive, -⟩ := htaken (by decide +kernel) (by decide +kernel) (by decide +kernel)
    (by decide +kernel)
  obtain ⟨hwhole, hok⟩ := imageGood_signed
  have hbefore : dirActive (nvLater (tick signedState.dev 0)) = false := by decide +kernel
  exact ⟨u, hexec, (hrefused hwhole).trans (by simp [hok]), (hactive hwhole hok).trans (by rw [hbefore]; rfl)⟩

end Sys2Proof.Machine
end

section
/-! PROOFS. The four floors under the issue gap, the one in force, and the throttling that follows from them (16, R591,
R613 to R618). -/

namespace Sys2Proof.Machine

/-! ### What each update leaves alone -/

/-- What a floor and its sources may change of the registers. -/
def isGapReg (a : Nat) : Bool :=
  isReport a || these [A.PWR_FLOOR, A.PWR_STS, A.PWR_THR, A.PWR_MON, A.SEQ_GAP 0, A.SEQ_GAP 1] a

/-- What the start or the end of throttling may change of the registers. -/
def isThrotReg (a : Nat) : Bool := isReport a || a == A.PWR_STS

theorem isReport_of_isThrotReg {a : Nat} (h : isThrotReg a = false) : isReport a = false := by
  simp only [isThrotReg, Bool.or_eq_false_iff] at h
  exact h.1

theorem isThrotReg_of_isGapReg {a : Nat} (h : isGapReg a = false) : isThrotReg a = false := by
  simp only [isGapReg, Bool.or_eq_false_iff] at h
  obtain ⟨hreport, hthese⟩ := h
  have hsts : a ≠ A.PWR_STS := by
    rintro rfl
    exact absurd hthese (by decide)
  simp [isThrotReg, hreport, hsts]

theorem leaves_setPwr {p : Nat → Bool} (d : Dev) (f : Pwr → Pwr) : Leaves [.pwr] p d (setPwr d f) :=
  ⟨fun x hx => by cases x <;> simp_all [Piece.same, setPwr], keepsRegs_setPwr d f⟩

theorem leaves_govSet {p : Nat → Bool} (d : Dev) (k : GovKey) (v : Nat) : Leaves [.gov] p d (govSet d k v) :=
  leaves_withPend d _

theorem leaves_pwrRaise_info (d : Dev) (number detail : Nat) :
    Leaves [.hst] isThrotReg d (pwrRaise d number 0 detail) := by
  rw [pwrRaise, raise_minor _ _ _ _ _ (by decide)]
  exact ((leaves_fset d _ _ _ (by decide)).widen (by simp)).trans
    ((onlyHst_post _ _ _ _ _).leaves.weaken (by simp) fun _ => isReport_of_isThrotReg)

/-- The number of a record stands beside THROT. -/
theorem fget_pwrRaise_throt (d : Dev) (number sev detail : Nat) :
    fget (pwrRaise d number sev detail) A.PWR_STS F.PWR_STS_THROT = fget d A.PWR_STS F.PWR_STS_THROT := by
  rw [pwrRaise, (keepsRegs_raise _ _ _ _ _).fget (by decide),
    fget_fset_apart _ _ _ _ _ _ (by decide) (by decide) (by decide)]

@[simp] theorem pwrRaise_pwr (d : Dev) (number sev detail : Nat) : (pwrRaise d number sev detail).pwr = d.pwr := by
  rw [pwrRaise, raise_pwr, fset_pwr]

/-! ### The floor in force (R613) -/

/-- The largest of the four floors. -/
def largestFloor (d : Dev) : Nat :=
  max (max (fget d A.PWR_FLOOR F.PWR_FLOOR_LIM) (fget d A.PWR_FLOOR F.PWR_FLOOR_THR))
    (max (fget d A.PWR_FLOOR F.PWR_FLOOR_THERM) (fget d A.PWR_FLOOR F.PWR_FLOOR_CAP))

theorem largestFloor_lt (d : Dev) : largestFloor d < 16 := by
  have hlim := fget_lt d A.PWR_FLOOR F.PWR_FLOOR_LIM
  have hthr := fget_lt d A.PWR_FLOOR F.PWR_FLOOR_THR
  have htherm := fget_lt d A.PWR_FLOOR F.PWR_FLOOR_THERM
  have hcap := fget_lt d A.PWR_FLOOR F.PWR_FLOOR_CAP
  exact max_lt (max_lt hlim hthr) (max_lt htherm hcap)

/-- The gap reaches the registers of both halves, and from there the sequencers (R83). -/
def gapMove (d : Dev) (eff : Nat) : Dev :=
  [0, 1].foldl (fun d h => govSet (fset d (A.SEQ_GAP h) F.SEQ_GAP_PWR eff) (.gapPwr h) eff) d

theorem floorMove_eq (d : Dev) (eff : Nat) : floorMove d eff =
    if eff = fget d A.PWR_FLOOR F.PWR_FLOOR_EFF then d else gapMove (fset d A.PWR_FLOOR F.PWR_FLOOR_EFF eff) eff := rfl

theorem leaves_gapMove {p : Nat → Bool} (d : Dev) (eff : Nat) (hA : p (A.SEQ_GAP 0) = true)
    (hB : p (A.SEQ_GAP 1) = true) : Leaves [.gov] p d (gapMove d eff) := by
  have hgap : ∀ (e : Dev) (h : Nat), p (A.SEQ_GAP h) = true →
      Leaves [.gov] p e (govSet (fset e (A.SEQ_GAP h) F.SEQ_GAP_PWR eff) (.gapPwr h) eff) :=
    fun e h hh => ((leaves_fset e _ _ _ hh).widen (by simp)).trans (leaves_govSet _ _ _)
  exact (hgap d 0 hA).trans (hgap _ 1 hB)

theorem fget_gapMove_floor (d : Dev) (eff : Nat) (f : Fld) :
    fget (gapMove d eff) A.PWR_FLOOR f = fget d A.PWR_FLOOR f :=
  (leaves_gapMove (p := these [A.SEQ_GAP 0, A.SEQ_GAP 1]) d eff (by decide) (by decide)).2.fget (by decide) f

theorem leaves_floorMove (d : Dev) (eff : Nat) : Leaves [.gov] isGapReg d (floorMove d eff) := by
  rw [floorMove_eq]
  split
  · exact Leaves.refl _ _ d
  · exact ((leaves_fset d _ _ _ (by decide)).widen (by simp)).trans (leaves_gapMove _ _ (by decide) (by decide))

theorem fget_floorMove_eff (d : Dev) {eff : Nat} (h : eff < 16) :
    fget (floorMove d eff) A.PWR_FLOOR F.PWR_FLOOR_EFF = eff := by
  rw [floorMove_eq]
  split
  · next heq => exact heq.symm
  · rw [fget_gapMove_floor, fget_fset_self _ _ _ _ (by decide)]
    exact Nat.mod_eq_of_lt h

/-- The floors themselves stay. -/
theorem fget_floorMove_floor (d : Dev) (eff : Nat) {f : Fld} (hf : f.ok = true)
    (h : F.PWR_FLOOR_EFF.apart f = true) : fget (floorMove d eff) A.PWR_FLOOR f = fget d A.PWR_FLOOR f := by
  rw [floorMove_eq]
  split
  · rfl
  · rw [fget_gapMove_floor, fget_fset_apart _ _ _ _ _ _ (by decide) hf h]

/-! ### Throttling (R618) -/

/-- The cause bits of throttling. -/
def throtCause (d : Dev) : Nat :=
  b2n (fget d A.PWR_FLOOR F.PWR_FLOOR_THR != 0) + 2 * b2n (fget d A.PWR_FLOOR F.PWR_FLOOR_THERM != 0) +
    4 * b2n (fget d A.PWR_FLOOR F.PWR_FLOOR_CAP != 0)

theorem b2n_eq_zero_iff (b : Bool) : b2n b = 0 ↔ b = false := by cases b <;> simp [b2n]

theorem throtCause_eq_zero_iff (d : Dev) : throtCause d = 0 ↔ fget d A.PWR_FLOOR F.PWR_FLOOR_THR = 0 ∧
    fget d A.PWR_FLOOR F.PWR_FLOOR_THERM = 0 ∧ fget d A.PWR_FLOOR F.PWR_FLOOR_CAP = 0 := by
  simp [throtCause, b2n_eq_zero_iff, and_assoc]

theorem leaves_throtNote (d : Dev) (cause : Nat) : Leaves [.pwr, .hst] isThrotReg d (throtNote d cause) := by
  have hthrot : ∀ v, Leaves [.pwr, .hst] isThrotReg d (fset d A.PWR_STS F.PWR_STS_THROT v) :=
    fun v => (leaves_fset d _ _ v (by decide)).widen (by simp)
  have hraise : ∀ e detail, Leaves [.pwr, .hst] isThrotReg e (pwrRaise e 0xCB 0 detail) :=
    fun e detail => (leaves_pwrRaise_info e _ detail).widen (by simp)
  simp only [throtNote]
  split
  · exact ((hthrot 1).trans ((leaves_setPwr _ _).widen (by simp))).trans (hraise _ _)
  · split
    · exact (hthrot 0).trans (hraise _ _)
    · exact Leaves.refl _ _ d

/-- After it THROT stands exactly while there is a cause. -/
theorem fget_throtNote_throt (d : Dev) (cause : Nat) :
    fget (throtNote d cause) A.PWR_STS F.PWR_STS_THROT = if cause = 0 then 0 else 1 := by
  have hbit : fget d A.PWR_STS F.PWR_STS_THROT < 2 := fget_lt d A.PWR_STS F.PWR_STS_THROT
  simp only [throtNote]
  split
  · next h =>
    rw [fget_pwrRaise_throt, fget_setPwr, fget_fset_self _ _ _ _ (by decide), if_neg h.1]
    rfl
  · split
    · next h =>
      rw [fget_pwrRaise_throt, fget_fset_self _ _ _ _ (by decide), if_pos h.1]
      rfl
    · split <;> omega

/-- Of the power controller's own state, throttling writes its time and its cause. -/
theorem throtNote_pwr (d : Dev) (cause : Nat) : (throtNote d cause).pwr.samples = d.pwr.samples ∧
    (throtNote d cause).pwr.filtAt = d.pwr.filtAt := by
  simp only [throtNote]
  split
  · rw [pwrRaise_pwr]
    exact ⟨rfl, rfl⟩
  · split
    · rw [pwrRaise_pwr, fset_pwr]
      exact ⟨rfl, rfl⟩
    · exact ⟨rfl, rfl⟩

/-! ### The floors applied -/

theorem floorsApply_moves (d : Dev) :
    floorsApply d = throtNote (floorMove d (largestFloor d)) (throtCause d) := rfl

theorem leaves_floorsApply (d : Dev) : Leaves [.gov, .pwr, .hst] isGapReg d (floorsApply d) := by
  rw [floorsApply_moves]
  exact ((leaves_floorMove d _).widen (by simp)).trans
    ((leaves_throtNote _ _).weaken (by simp) fun _ => isThrotReg_of_isGapReg)

theorem fget_floorsApply_floor (d : Dev) {f : Fld} (hf : f.ok = true) (h : F.PWR_FLOOR_EFF.apart f = true) :
    fget (floorsApply d) A.PWR_FLOOR f = fget d A.PWR_FLOOR f := by
  rw [floorsApply_moves, (leaves_throtNote _ _).2.fget (by decide), fget_floorMove_floor _ _ hf h]

theorem largestFloor_floorsApply (d : Dev) : largestFloor (floorsApply d) = largestFloor d := by
  simp (disch := decide) only [largestFloor, fget_floorsApply_floor]

theorem throtCause_floorsApply (d : Dev) : throtCause (floorsApply d) = throtCause d := by
  simp (disch := decide) only [throtCause, fget_floorsApply_floor]

theorem fget_floorsApply_eff (d : Dev) : fget (floorsApply d) A.PWR_FLOOR F.PWR_FLOOR_EFF = largestFloor d := by
  rw [floorsApply_moves, (leaves_throtNote _ _).2.fget (by decide), fget_floorMove_eff _ (largestFloor_lt d)]

theorem fget_floorsApply_throt (d : Dev) :
    fget (floorsApply d) A.PWR_STS F.PWR_STS_THROT = if throtCause d = 0 then 0 else 1 :=
  fget_throtNote_throt _ _

theorem floorsApply_pwr (d : Dev) : (floorsApply d).pwr.samples = d.pwr.samples ∧
    (floorsApply d).pwr.filtAt = d.pwr.filtAt := by
  rw [floorsApply_moves, (leaves_floorMove d _).pwr (by simp) |>.symm]
  exact throtNote_pwr _ _

/-- The floors of `u`, reached from `d`, are applied: the largest is in force, THROT follows the other three than the
ramp's, and beside them only their sources may differ from `d`. -/
def Settled (d u : Dev) : Prop :=
  fget u A.PWR_FLOOR F.PWR_FLOOR_EFF = largestFloor u ∧
    fget u A.PWR_STS F.PWR_STS_THROT = (if fget u A.PWR_FLOOR F.PWR_FLOOR_THR = 0 ∧
      fget u A.PWR_FLOOR F.PWR_FLOOR_THERM = 0 ∧ fget u A.PWR_FLOOR F.PWR_FLOOR_CAP = 0 then 0 else 1) ∧
    Leaves [.gov, .pwr, .hst] isGapReg d u

theorem settled_floorsApply {d e : Dev} (h : Leaves [.gov, .pwr, .hst] isGapReg d e) : Settled d (floorsApply e) := by
  refine ⟨?_, ?_, h.trans (leaves_floorsApply e)⟩
  · rw [fget_floorsApply_eff, largestFloor_floorsApply]
  · simp only [← throtCause_eq_zero_iff]
    rw [fget_floorsApply_throt, throtCause_floorsApply]

/-! ### One floor set -/

/-- A floor takes a value and the floors are applied. -/
def setFloor (d : Dev) (f : Fld) (v : Nat) : Dev := floorsApply (fset d A.PWR_FLOOR f v)

theorem settled_setFloor {d e : Dev} (h : Leaves [.gov, .pwr, .hst] isGapReg d e) (f : Fld) (v : Nat) :
    Settled d (setFloor e f v) :=
  settled_floorsApply (h.trans ((leaves_fset e _ f v (by decide)).widen (by simp)))

theorem fget_setFloor_self (d : Dev) {f : Fld} {v : Nat} (hf : f.ok = true) (h : F.PWR_FLOOR_EFF.apart f = true)
    (hv : v < 2 ^ (f.hi + 1 - f.lo)) : fget (setFloor d f v) A.PWR_FLOOR f = v := by
  rw [setFloor, fget_floorsApply_floor _ hf h, fget_fset_self _ _ _ _ hf, Nat.mod_eq_of_lt hv]

/-- The registers of the sources read as before. -/
theorem fget_setFloor_ne (d : Dev) (f : Fld) (v : Nat) {a : Nat} (h : isFloorReg a = false) (g : Fld) :
    fget (setFloor d f v) a g = fget d a g :=
  ((keepsRegs_fset d A.PWR_FLOOR f v (by decide)).trans (keepsRegs_floorsApply _)).fget h g

theorem setFloor_pwr (d : Dev) (f : Fld) (v : Nat) : (setFloor d f v).pwr.samples = d.pwr.samples ∧
    (setFloor d f v).pwr.filtAt = d.pwr.filtAt := floorsApply_pwr _

/-! ### LIM: the ramp (R591, R592) -/

theorem limFloor_lt (d : Dev) (est : List (Nat × Nat)) : limFloor d est < 16 := by
  simp only [limFloor]
  cases hfound : (est.take 16).findIdx? _ with
  | none => decide
  | some i =>
    obtain ⟨hlt, -⟩ := List.findIdx?_eq_some_iff_getElem.1 hfound
    exact lt_of_lt_of_le hlt (List.length_take_le _ _)

theorem leaves_spill (d : Dev) (h i : Nat) (fi fs : Fld) : Leaves [.pwr] isGapReg d (spill d h i fi fs) := by
  simp only [spill]
  exact (leaves_setPwr d _).trans
    (((leaves_fset _ _ _ _ (by decide)).trans (leaves_fset _ _ _ _ (by decide))).widen (by simp))

/-- A half's spillway stores the estimate. -/
theorem fget_spill_self (d : Dev) (h : Nat) {i : Nat} {fi fs : Fld} (hfi : fi.ok = true) (hfs : fs.ok = true)
    (hapart : fs.apart fi = true) (hi : i < 2 ^ (fi.hi + 1 - fi.lo)) : fget (spill d h i fi fs) A.PWR_MON fi = i := by
  simp only [spill]
  rw [fget_fset_apart _ _ _ _ _ _ hfs hfi hapart, fget_fset_self _ _ _ _ hfi, Nat.mod_eq_of_lt hi]

/-- The other half's estimate stays. -/
theorem fget_spill_apart (d : Dev) (h i : Nat) {fi fs g : Fld} (hfi : fi.ok = true) (hfs : fs.ok = true)
    (hg : g.ok = true) (hi : fi.apart g = true) (hs : fs.apart g = true) :
    fget (spill d h i fi fs) A.PWR_MON g = fget d A.PWR_MON g := by
  simp only [spill]
  rw [fget_fset_apart _ _ _ _ _ _ hfs hg hs, fget_fset_apart _ _ _ _ _ _ hfi hg hi, fget_setPwr]

/-- Both spillways follow the estimates of the interval. -/
def spilled (d : Dev) (ia ib : Nat) : Dev :=
  spill (spill d 0 ia F.PWR_MON_IA F.PWR_MON_SPILLA) 1 ib F.PWR_MON_IB F.PWR_MON_SPILLB

theorem currentInterval_eq (d : Dev) (ia ib : Nat) (est : List (Nat × Nat)) :
    currentInterval d ia ib est = setFloor (spilled d ia ib) F.PWR_FLOOR_LIM (limFloor d est) := rfl

theorem leaves_spilled (d : Dev) (ia ib : Nat) : Leaves [.pwr] isGapReg d (spilled d ia ib) :=
  (leaves_spill d _ _ _ _).trans (leaves_spill _ _ _ _ _)

theorem fget_spilled (d : Dev) {ia ib : Nat} (ha : ia < 2 ^ 16) (hb : ib < 2 ^ 16) :
    fget (spilled d ia ib) A.PWR_MON F.PWR_MON_IA = ia ∧ fget (spilled d ia ib) A.PWR_MON F.PWR_MON_IB = ib := by
  rw [spilled]
  constructor
  · rw [fget_spill_apart _ _ _ (by decide) (by decide) (by decide) (by decide) (by decide)]
    exact fget_spill_self d 0 (by decide) (by decide) (by decide) ha
  · exact fget_spill_self _ 1 (by decide) (by decide) (by decide) hb

/-- The limiter's floor is in force and the monitor shows the estimates. -/
theorem currentInterval_sets (d : Dev) (ia ib : BitVec 16) (est : List (Nat × Nat)) :
    fget (currentInterval d ia.toNat ib.toNat est) A.PWR_FLOOR F.PWR_FLOOR_LIM = limFloor d est ∧
      fget (currentInterval d ia.toNat ib.toNat est) A.PWR_MON F.PWR_MON_IA = ia.toNat ∧
      fget (currentInterval d ia.toNat ib.toNat est) A.PWR_MON F.PWR_MON_IB = ib.toNat ∧
      Settled d (currentInterval d ia.toNat ib.toNat est) := by
  obtain ⟨hia, hib⟩ := fget_spilled d ia.isLt ib.isLt
  rw [currentInterval_eq]
  exact ⟨fget_setFloor_self _ (by decide) (by decide) (limFloor_lt d est),
    (fget_setFloor_ne _ _ _ (by decide) _).trans hia, (fget_setFloor_ne _ _ _ (by decide) _).trans hib,
    settled_setFloor ((leaves_spilled d _ _).widen (by simp)) _ _⟩

/-! ### THR: THROTTLE_N and its stuck fault (R614, R615) -/

/-- THR by the filtered level and the latched fault. -/
def thrFloor (d : Dev) (filt stuck : Nat) : Nat := if filt = 1 ∨ stuck = 1 then fget d A.PWR_THR F.PWR_THR_GAP else 0

theorem thrFloor_lt (d : Dev) (filt stuck : Nat) : thrFloor d filt stuck < 16 := by
  unfold thrFloor
  split
  · exact fget_lt d A.PWR_THR F.PWR_THR_GAP
  · decide

theorem thrApply_eq (d : Dev) : thrApply d = setFloor d F.PWR_FLOOR_THR
    (thrFloor d (fget d A.PWR_THR F.PWR_THR_FILT) (fget d A.PWR_THR F.PWR_THR_STUCK)) := rfl

theorem settled_thrApply {d e : Dev} (h : Leaves [.gov, .pwr, .hst] isGapReg d e) : Settled d (thrApply e) :=
  settled_setFloor h _ _

theorem thrApply_pwr (d : Dev) : (thrApply d).pwr.samples = d.pwr.samples ∧ (thrApply d).pwr.filtAt = d.pwr.filtAt :=
  setFloor_pwr _ _ _

theorem fget_thrApply_sts (d : Dev) (f : Fld) : fget (thrApply d) A.PWR_THR f = fget d A.PWR_THR f :=
  fget_setFloor_ne _ _ _ (by decide) f

/-- THR follows where GAP is that of `d`. -/
theorem fget_thrApply_thr {d e : Dev} {filt stuck : Nat}
    (hgap : fget e A.PWR_THR F.PWR_THR_GAP = fget d A.PWR_THR F.PWR_THR_GAP)
    (hfilt : fget e A.PWR_THR F.PWR_THR_FILT = filt) (hstuck : fget e A.PWR_THR F.PWR_THR_STUCK = stuck) :
    fget (thrApply e) A.PWR_FLOOR F.PWR_FLOOR_THR = thrFloor d filt stuck := by
  rw [thrApply_eq, fget_setFloor_self _ (by decide) (by decide) (thrFloor_lt _ _ _), hfilt, hstuck, thrFloor, thrFloor,
    hgap]

/-- The sample stands in RAW. -/
def sampled (d : Dev) (on : Bool) : Dev := fset d A.PWR_THR F.PWR_THR_RAW (b2n on)

theorem b2n_lt (b : Bool) : b2n b < 2 := by cases b <;> decide

theorem fget_sampled_raw (d : Dev) (on : Bool) : fget (sampled d on) A.PWR_THR F.PWR_THR_RAW = b2n on := by
  rw [sampled, fget_fset_self _ _ _ _ (by decide)]
  exact Nat.mod_eq_of_lt (b2n_lt on)

theorem fget_sampled (d : Dev) (on : Bool) {f : Fld} (hf : f.ok = true) (h : F.PWR_THR_RAW.apart f = true) :
    fget (sampled d on) A.PWR_THR f = fget d A.PWR_THR f := fget_fset_apart _ _ _ _ _ _ (by decide) hf h

theorem leaves_sampled {p : Nat → Bool} (d : Dev) (on : Bool) (h : p A.PWR_THR = true) :
    Leaves [] p d (sampled d on) := leaves_fset d _ _ _ h

/-- The filtered level changes at this moment. -/
def filtered (d : Dev) (on : Bool) : Dev :=
  setPwr (fset (sampled d on) A.PWR_THR F.PWR_THR_FILT (b2n on)) (fun p => { p with samples := 0, filtAt := d.now })

theorem throttleSample_steady {d : Dev} {on : Bool} (h : b2n on = fget d A.PWR_THR F.PWR_THR_FILT) :
    throttleSample d on = setPwr (sampled d on) (fun p => { p with samples := 0 }) := by
  rw [← fget_sampled d on (by decide) (by decide)] at h
  exact if_pos h

/-- A sample away from the filtered level counts, and the fourth in a row changes the level. -/
theorem throttleSample_away {d : Dev} {on : Bool} (h : b2n on ≠ fget d A.PWR_THR F.PWR_THR_FILT) :
    throttleSample d on =
      if d.pwr.samples < 3 then setPwr (sampled d on) (fun p => { p with samples := p.samples + 1 })
      else thrApply (filtered d on) := by
  have hsamples : d.pwr.samples = (sampled d on).pwr.samples := by rw [sampled, fset_pwr]
  have hnow : d.now = (sampled d on).now := (fset_now _ _ _ _).symm
  rw [← fget_sampled d on (by decide) (by decide)] at h
  rw [filtered, hsamples, hnow]
  exact if_neg h

theorem leaves_sampled_setPwr (d : Dev) (on : Bool) (f : Pwr → Pwr) :
    Leaves [.pwr] (these [A.PWR_THR]) d (setPwr (sampled d on) f) :=
  ((leaves_sampled d on (by decide)).widen (by simp)).trans (leaves_setPwr _ _)

section
variable (d : Dev) (on : Bool)

theorem leaves_filtered : Leaves [.pwr] isGapReg d (filtered d on) :=
  (((leaves_sampled d on (by decide)).trans (leaves_fset _ _ _ _ (by decide))).widen (by simp)).trans
    (leaves_setPwr _ _)

theorem fget_filtered_filt : fget (filtered d on) A.PWR_THR F.PWR_THR_FILT = b2n on := by
  rw [filtered, fget_setPwr, fget_fset_self _ _ _ _ (by decide)]
  exact Nat.mod_eq_of_lt (b2n_lt on)

theorem fget_filtered {f : Fld} (hf : f.ok = true) (hraw : F.PWR_THR_RAW.apart f = true)
    (hfilt : F.PWR_THR_FILT.apart f = true) : fget (filtered d on) A.PWR_THR f = fget d A.PWR_THR f := by
  rw [filtered, fget_setPwr, fget_fset_apart _ _ _ _ _ _ (by decide) hf hfilt, fget_sampled _ _ hf hraw]

end

/-- A change of the filtered level begins a new count and moves THR. -/
theorem thrApply_filtered (d : Dev) (on : Bool) :
    fget (thrApply (filtered d on)) A.PWR_THR F.PWR_THR_FILT = b2n on ∧ (thrApply (filtered d on)).pwr.samples = 0 ∧
      fget (thrApply (filtered d on)) A.PWR_FLOOR F.PWR_FLOOR_THR
        = thrFloor d (b2n on) (fget d A.PWR_THR F.PWR_THR_STUCK) ∧
      Settled d (thrApply (filtered d on)) := by
  obtain ⟨hsamples, -⟩ := thrApply_pwr (filtered d on)
  have hkept : ∀ f : Fld, f.ok = true → F.PWR_THR_RAW.apart f = true → F.PWR_THR_FILT.apart f = true →
      fget (filtered d on) A.PWR_THR f = fget d A.PWR_THR f := fun f => fget_filtered d on
  exact ⟨(fget_thrApply_sts _ _).trans (fget_filtered_filt d on), hsamples,
    fget_thrApply_thr (hkept _ (by decide) (by decide) (by decide)) (fget_filtered_filt d on)
      (hkept _ (by decide) (by decide) (by decide)),
    settled_thrApply ((leaves_filtered d on).widen (by simp))⟩

/-- The fault of a filtered assertion longer than 10 s is latched and recorded. -/
def stuckNoted (d : Dev) : Dev := pwrRaise (fset d A.PWR_THR F.PWR_THR_STUCK 1) 0xCC 0 0

theorem throttleStuck_eq (d : Dev) : throttleStuck d =
    if fget d A.PWR_THR F.PWR_THR_FILT = 1 ∧ fget d A.PWR_THR F.PWR_THR_STUCK = 0 ∧ d.pwr.filtAt + ms 10000 < d.now then
      thrApply (stuckNoted d)
    else d := rfl

theorem leaves_stuckNoted (d : Dev) : Leaves [.hst] isGapReg d (stuckNoted d) :=
  ((leaves_fset d _ _ _ (by decide)).widen (by simp)).trans
    ((leaves_pwrRaise_info _ _ _).weaken (by simp) fun _ => isThrotReg_of_isGapReg)

theorem fget_stuckNoted_stuck (d : Dev) : fget (stuckNoted d) A.PWR_THR F.PWR_THR_STUCK = 1 := by
  rw [stuckNoted, (keepsRegs_pwrRaise _ _ _ _).fget (by decide), fget_fset_self _ _ _ _ (by decide)]
  rfl

theorem fget_stuckNoted (d : Dev) {f : Fld} (hf : f.ok = true) (h : F.PWR_THR_STUCK.apart f = true) :
    fget (stuckNoted d) A.PWR_THR f = fget d A.PWR_THR f := by
  rw [stuckNoted, (keepsRegs_pwrRaise _ _ _ _).fget (by decide), fget_fset_apart _ _ _ _ _ _ (by decide) hf h]

/-- A stuck fault holds THR at GAP. -/
theorem thrApply_stuckNoted {d : Dev} (h : fget d A.PWR_THR F.PWR_THR_FILT = 1) :
    fget (thrApply (stuckNoted d)) A.PWR_THR F.PWR_THR_STUCK = 1 ∧
      fget (thrApply (stuckNoted d)) A.PWR_FLOOR F.PWR_FLOOR_THR = thrFloor d 1 1 ∧
      Settled d (thrApply (stuckNoted d)) :=
  ⟨(fget_thrApply_sts _ _).trans (fget_stuckNoted_stuck d),
    fget_thrApply_thr (fget_stuckNoted d (by decide) (by decide))
      ((fget_stuckNoted d (by decide) (by decide)).trans h) (fget_stuckNoted_stuck d),
    settled_thrApply ((leaves_stuckNoted d).widen (by simp))⟩

/-- The latch is cleared and the 10 s start again. -/
def stuckCleared (d : Dev) : Dev :=
  setPwr (fset d A.PWR_THR F.PWR_THR_STUCK 0) (fun p => { p with filtAt := d.now })

theorem throttleClear_eq (d : Dev) : throttleClear d = thrApply (stuckCleared d) := rfl

theorem leaves_stuckCleared (d : Dev) : Leaves [.pwr] isGapReg d (stuckCleared d) :=
  ((leaves_fset d _ _ _ (by decide)).widen (by simp)).trans (leaves_setPwr _ _)

theorem fget_stuckCleared_stuck (d : Dev) : fget (stuckCleared d) A.PWR_THR F.PWR_THR_STUCK = 0 := by
  rw [stuckCleared, fget_setPwr, fget_fset_self _ _ _ _ (by decide), Nat.zero_mod]

theorem fget_stuckCleared (d : Dev) {f : Fld} (hf : f.ok = true) (h : F.PWR_THR_STUCK.apart f = true) :
    fget (stuckCleared d) A.PWR_THR f = fget d A.PWR_THR f := by
  rw [stuckCleared, fget_setPwr, fget_fset_apart _ _ _ _ _ _ (by decide) hf h]

/-- Without the fault THR follows the filtered level alone. -/
theorem throttleClear_sets (d : Dev) : fget (throttleClear d) A.PWR_FLOOR F.PWR_FLOOR_THR
      = thrFloor d (fget d A.PWR_THR F.PWR_THR_FILT) 0 ∧ (throttleClear d).pwr.filtAt = d.now ∧
      Settled d (throttleClear d) := by
  rw [throttleClear_eq]
  obtain ⟨-, hfiltAt⟩ := thrApply_pwr (stuckCleared d)
  exact ⟨fget_thrApply_thr (fget_stuckCleared d (by decide) (by decide)) (fget_stuckCleared d (by decide) (by decide))
      (fget_stuckCleared_stuck d), hfiltAt, settled_thrApply ((leaves_stuckCleared d).widen (by simp))⟩

/-! ### THERM: the hottest junction (R616) -/

/-- The junction is not below TWARN − 3 °C: cooling has not begun. -/
def warm (d : Dev) : Dev := setPwr d (fun p => { p with coolAt := 0 })

theorem leaves_warm {p : Nat → Bool} (d : Dev) : Leaves [.pwr] p d (warm d) := leaves_setPwr d _

section
variable {d : Dev} {temp : Nat}

theorem thermalFloor_hot (h : 105 ≤ temp) : thermalFloor d temp = setFloor (warm d) F.PWR_FLOOR_THERM 15 := if_pos h

variable (hmax : temp < 105)
include hmax

theorem thermalFloor_warn (h : fget d A.PWR_THR F.PWR_THR_TWARN ≤ temp) :
    thermalFloor d temp = setFloor (warm d) F.PWR_FLOOR_THERM (fget d A.PWR_THR F.PWR_THR_TGAP) := by
  simp only [thermalFloor, if_neg (Nat.not_le.2 hmax), if_pos h]
  rfl

theorem thermalFloor_between (hlo : temp < fget d A.PWR_THR F.PWR_THR_TWARN)
    (h : fget d A.PWR_THR F.PWR_THR_TWARN ≤ temp + 3) : thermalFloor d temp = warm d := by
  simp only [thermalFloor, if_neg (Nat.not_le.2 hmax), if_neg (Nat.not_le.2 hlo), if_pos h]
  rfl

variable (h : temp + 3 < fget d A.PWR_THR F.PWR_THR_TWARN)
include h

/-- Below TWARN − 3 °C the time since cooling began decides. -/
theorem thermalFloor_cool : thermalFloor d temp =
    if d.pwr.coolAt = 0 then setPwr d (fun p => { p with coolAt := d.now + 1 })
    else if d.pwr.coolAt - 1 + ms 1 ≤ d.now then setFloor d F.PWR_FLOOR_THERM 0
    else d := by
  have hlo : ¬ fget d A.PWR_THR F.PWR_THR_TWARN ≤ temp := by omega
  simp only [thermalFloor, if_neg (Nat.not_le.2 hmax), if_neg hlo, if_neg (Nat.not_le.2 h)]
  rfl

theorem thermalFloor_coolBegins (hc : d.pwr.coolAt = 0) :
    thermalFloor d temp = setPwr d (fun p => { p with coolAt := d.now + 1 }) := by
  rw [thermalFloor_cool hmax h, if_pos hc]

theorem thermalFloor_cooled (hc : d.pwr.coolAt ≠ 0) (ht : d.pwr.coolAt - 1 + ms 1 ≤ d.now) :
    thermalFloor d temp = setFloor d F.PWR_FLOOR_THERM 0 := by
  rw [thermalFloor_cool hmax h, if_neg hc, if_pos ht]

end

/-! ### CAP: the power cap (R617) -/

/-- CAP after a millisecond of that power: one step up, one step down, or as it was. -/
def capFloor (d : Dev) (watts : Nat) : Nat :=
  let cap := fget d A.PWR_THR F.PWR_THR_CAP
  let v := fget d A.PWR_FLOOR F.PWR_FLOOR_CAP
  if cap < watts then min (v + 1) 15 else if 100 * watts < 95 * cap then v - 1 else v

theorem powerCapInterval_eq (d : Dev) (watts : Nat) :
    powerCapInterval d watts = setFloor d F.PWR_FLOOR_CAP (capFloor d watts) := rfl

theorem capFloor_lt (d : Dev) (watts : Nat) : capFloor d watts < 16 := by
  have hv : fget d A.PWR_FLOOR F.PWR_FLOOR_CAP < 16 := fget_lt d A.PWR_FLOOR F.PWR_FLOOR_CAP
  simp only [capFloor]
  split
  · omega
  · split
    · omega
    · exact hv

/-! ### The statement -/

/-- Settles O56: each command that moves a floor is `setFloor` of that floor after an update of its source, so the floor
holds its value and the floors are settled; the other events only count or note a time. -/
theorem floorsFollowTheirSources : Obligations.FloorsFollowTheirSources := by
  refine ⟨fun t s => ⟨fun ia ib est => ⟨_, rfl, currentInterval_sets (tick s.dev t) ia ib est⟩, fun on hsame => ?_,
    fun on hnew hfew => ?_, fun on hnew hlast => ?_, fun h => ?_, fun hfilt hstuck hlong => ?_,
    fun temp => ⟨fun hhot => ?_, fun hmax hwarn => ?_, fun hmax hlo hwarn => ?_, fun hmax hcool hc => ?_,
      fun hmax hcool hc ht => ?_⟩,
    fun watts => ?_⟩, fun s => ?_⟩
  · obtain ⟨hparts, hregs⟩ := leaves_sampled_setPwr (tick s.dev t) on fun p => { p with samples := 0 }
    exact ⟨_, next_congr rfl (throttleSample_steady hsame), (fget_setPwr _ _ _ _).trans (fget_sampled_raw _ on), rfl,
      hparts, hregs⟩
  · obtain ⟨hparts, hregs⟩ := leaves_sampled_setPwr (tick s.dev t) on fun p => { p with samples := p.samples + 1 }
    exact ⟨_, next_congr rfl ((throttleSample_away hnew).trans (if_pos hfew)),
      (fget_setPwr _ _ _ _).trans (fget_sampled _ on (by decide) (by decide)), rfl, hparts, hregs⟩
  · exact ⟨_, next_congr rfl ((throttleSample_away hnew).trans (if_neg (Nat.not_lt.2 hlast))),
      thrApply_filtered (tick s.dev t) on⟩
  · exact next_congr rfl ((throttleStuck_eq _).trans (if_neg fun hc => by simp [h] at hc))
  · exact ⟨_, next_congr rfl ((throttleStuck_eq _).trans (if_pos ⟨hfilt, hstuck, hlong⟩)), thrApply_stuckNoted hfilt⟩
  · exact ⟨_, next_congr rfl (thermalFloor_hot hhot), fget_setFloor_self _ (by decide) (by decide) (by decide),
      settled_setFloor ((leaves_warm _).widen (by simp)) _ _⟩
  · exact ⟨_, next_congr rfl (thermalFloor_warn hmax hwarn),
      fget_setFloor_self _ (by decide) (by decide) (fget_lt _ _ F.PWR_THR_TGAP),
      settled_setFloor ((leaves_warm _).widen (by simp)) _ _⟩
  · obtain ⟨hparts, hregs⟩ := leaves_warm (p := fun _ => false) (tick s.dev t)
    exact ⟨_, next_congr rfl (thermalFloor_between hmax hlo hwarn), rfl, hparts, hregs⟩
  · obtain ⟨hparts, hregs⟩ := leaves_setPwr (p := fun _ => false) (tick s.dev t) fun p =>
      { p with coolAt := (tick s.dev t).now + 1 }
    exact ⟨_, next_congr rfl (thermalFloor_coolBegins hmax hcool hc), rfl, hparts, hregs⟩
  · exact ⟨_, next_congr rfl (thermalFloor_cooled hmax hcool hc ht),
      fget_setFloor_self _ (by decide) (by decide) (by decide), settled_setFloor (Leaves.refl _ _ _) _ _⟩
  · exact ⟨_, next_congr rfl (powerCapInterval_eq _ watts),
      fget_setFloor_self _ (by decide) (by decide) (capFloor_lt _ watts), settled_setFloor (Leaves.refl _ _ _) _ _⟩
  · exact ⟨_, rfl, fget_throttleClear_stuck s.dev, throttleClear_sets s.dev⟩

end Sys2Proof.Machine
end

section
/-! PROOFS. Where the capture's buffer lies, and where its log begins, through the issue of a bundle: of everything that
a bundle can do, only a capture's log and a replay's comparison write the capture, and they move neither (R643 to
R645). -/

namespace Sys2Proof.Machine

/-! ### The buffer and what may fail -/

def capBuf (d : Dev) : Nat × Nat := (d.tst.cap.base, d.tst.cap.start)

theorem capBuf_congr {d e : Dev} (h : e.tst = d.tst) : capBuf e = capBuf d := by rw [capBuf, capBuf, h]

@[simp] theorem capBuf_ite (c : Prop) [Decidable c] (d e : Dev) :
    capBuf (if c then d else e) = if c then capBuf d else capBuf e := apply_ite _ _ _ _

@[simp] theorem capBuf_foldl {β : Type} (g : Dev → β → Dev) (hg : ∀ d b, capBuf (g d b) = capBuf d) (l : List β)
    (d : Dev) : capBuf (l.foldl g d) = capBuf d := by
  induction l generalizing d with
  | nil => rfl
  | cons b r ih => rw [List.foldl_cons, ih, hg]

@[simp] theorem capBuf_foldl_fst {β γ : Type} (g : Dev × γ → β → Dev × γ) (hg : ∀ s b, capBuf (g s b).1 = capBuf s.1)
    (l : List β) (s : Dev × γ) : capBuf (l.foldl g s).1 = capBuf s.1 := by
  induction l generalizing s with
  | nil => rfl
  | cons b r ih => rw [List.foldl_cons, ih, hg]

theorem capBuf_of_fst {α : Type} {d e : Dev} {x : α} {p : Dev × α} (hp : capBuf p.1 = capBuf d) (h : p = (e, x)) :
    capBuf e = capBuf d := by
  rw [← hp, h]

/-- An operation that may fail keeps that buffer where it succeeds. -/
def OkBuf {ε : Type} (d : Dev) (r : Except ε Dev) : Prop := ∀ e, r = .ok e → capBuf e = capBuf d

@[simp] theorem okBuf_error {ε : Type} (d : Dev) (f : ε) : OkBuf d (.error f) := fun _ h => nomatch h

@[simp] theorem okBuf_ok {ε : Type} (d e : Dev) : OkBuf (ε := ε) d (.ok e) ↔ capBuf e = capBuf d :=
  ⟨fun h => h e rfl, fun h _ he => by cases he; exact h⟩

/-! ### The shared operations -/

@[simp] theorem capBuf_withNow (d v) : capBuf (Dev.withNow d v) = capBuf d := capBuf_congr rfl
@[simp] theorem capBuf_withMem (d v) : capBuf (Dev.withMem d v) = capBuf d := capBuf_congr rfl
@[simp] theorem capBuf_withNv (d v) : capBuf (Dev.withNv d v) = capBuf d := capBuf_congr rfl
@[simp] theorem capBuf_withNvNext (d v) : capBuf (Dev.withNvNext d v) = capBuf d := capBuf_congr rfl
@[simp] theorem capBuf_withObs (d v) : capBuf (Dev.withObs d v) = capBuf d := capBuf_congr rfl
@[simp] theorem capBuf_withSeq (d v) : capBuf (Dev.withSeq d v) = capBuf d := capBuf_congr rfl
@[simp] theorem capBuf_withCas (d v) : capBuf (Dev.withCas d v) = capBuf d := capBuf_congr rfl
@[simp] theorem capBuf_withJet (d v) : capBuf (Dev.withJet d v) = capBuf d := capBuf_congr rfl
@[simp] theorem capBuf_withAst (d v) : capBuf (Dev.withAst d v) = capBuf d := capBuf_congr rfl
@[simp] theorem capBuf_withEphRes (d v) : capBuf (Dev.withEphRes d v) = capBuf d := capBuf_congr rfl
@[simp] theorem capBuf_withRvrUse (d v) : capBuf (Dev.withRvrUse d v) = capBuf d := capBuf_congr rfl
@[simp] theorem capBuf_withEph (d v) : capBuf (Dev.withEph d v) = capBuf d := capBuf_congr rfl
@[simp] theorem capBuf_withRil (d v) : capBuf (Dev.withRil d v) = capBuf d := capBuf_congr rfl
@[simp] theorem capBuf_withWei (d v) : capBuf (Dev.withWei d v) = capBuf d := capBuf_congr rfl
@[simp] theorem capBuf_withAqd (d v) : capBuf (Dev.withAqd d v) = capBuf d := capBuf_congr rfl
@[simp] theorem capBuf_withPorts (d v) : capBuf (Dev.withPorts d v) = capBuf d := capBuf_congr rfl
@[simp] theorem capBuf_withMach (d v) : capBuf (Dev.withMach d v) = capBuf d := capBuf_congr rfl
@[simp] theorem capBuf_withMs (d v) : capBuf (Dev.withMs d v) = capBuf d := capBuf_congr rfl
@[simp] theorem capBuf_regSet (d a v) : capBuf (regSet d a v) = capBuf d := capBuf_congr (by simp)
@[simp] theorem capBuf_fset (d a f v) : capBuf (fset d a f v) = capBuf d := capBuf_congr (by simp)
@[simp] theorem capBuf_finc (d a f k) : capBuf (finc d a f k) = capBuf d := capBuf_congr (by simp)
@[simp] theorem capBuf_fincSat (d a f k) : capBuf (fincSat d a f k) = capBuf d := capBuf_congr (by simp)
@[simp] theorem capBuf_latch (d as) : capBuf (latch d as) = capBuf d := capBuf_congr (by simp)

@[simp] theorem capBuf_count (d h src inst k single) : capBuf (count d h src inst k single) = capBuf d :=
  capBuf_congr (by simp)

@[simp] theorem capBuf_countPkg (d src inst k single) : capBuf (countPkg d src inst k single) = capBuf d :=
  capBuf_congr (by simp)

@[simp] theorem capBuf_countBoth (d src k) : capBuf (countBoth d src k) = capBuf d := capBuf_congr (by simp)
@[simp] theorem capBuf_tick (d t) : capBuf (tick d t) = capBuf d := capBuf_congr (by simp)
@[simp] theorem capBuf_govSet (d k v) : capBuf (govSet d k v) = capBuf d := capBuf_congr (by simp)
@[simp] theorem capBuf_setRingH (d n r) : capBuf (setRingH d n r) = capBuf d := capBuf_congr (by simp)
@[simp] theorem capBuf_hostWrite (d a bs) : capBuf (hostWrite d a bs) = capBuf d := capBuf_congr (by simp)
@[simp] theorem capBuf_ringWb (d n v) : capBuf (ringWb d n v) = capBuf d := by simp [ringWb]

@[simp] theorem capBuf_post (d number sev src payload) : capBuf (post d number sev src payload) = capBuf d :=
  capBuf_congr (by simp)

@[simp] theorem capBuf_postStat (d number src payload) : capBuf (postStat d number src payload) = capBuf d :=
  capBuf_congr (by simp)

@[simp] theorem capBuf_raiseAbort (d s) : capBuf (raiseAbort d s) = capBuf d := capBuf_congr (by simp)
@[simp] theorem capBuf_drainBegins (d sts) : capBuf (drainBegins d sts) = capBuf d := capBuf_congr (by simp)
@[simp] theorem capBuf_seqSelfStop (d) : capBuf (seqSelfStop d) = capBuf d := capBuf_congr (by simp)
@[simp] theorem capBuf_consequence (d sev) : capBuf (consequence d sev) = capBuf d := capBuf_congr (by simp)

@[simp] theorem capBuf_raise (d number sev src payload) : capBuf (raise d number sev src payload) = capBuf d :=
  capBuf_congr (by simp)

@[simp] theorem capBuf_setStrand (d s x) : capBuf (setStrand d s x) = capBuf d := by
  simp only [setStrand]
  split <;> simp

/-! ### The strands and the pages of their image -/

@[simp] theorem capBuf_seqRaiseSev (d number sev ctl spc strand half code late) :
    capBuf (seqRaiseSev d number sev ctl spc strand half code late) = capBuf d := by simp [seqRaiseSev]

@[simp] theorem capBuf_seqRaise (d number ctl spc strand half code late) :
    capBuf (seqRaise d number ctl spc strand half code late) = capBuf d := by simp [seqRaise]

@[simp] theorem capBuf_setPager (d h p) : capBuf (setPager d h p) = capBuf d := by simp [setPager]

@[simp] theorem capBuf_startFetch (d h i page pin) : capBuf (startFetch d h i page pin) = capBuf d := by
  simp only [startFetch]
  split <;> simp

@[simp] theorem capBuf_fetchPage (d h page demand) : capBuf (fetchPage d h page demand) = capBuf d := by
  simp only [fetchPage]
  repeat' split
  all_goals simp

@[simp] theorem capBuf_serveFetches (d h) : capBuf (serveFetches d h) = capBuf d := by simp [serveFetches]
@[simp] theorem capBuf_prefetchAhead (d page) : capBuf (prefetchAhead d page) = capBuf d := by simp [prefetchAhead]

@[simp] theorem capBuf_pinPage (d h page) : capBuf (pinPage d h page).1 = capBuf d := by
  simp only [pinPage]
  repeat' split
  all_goals simp

@[simp] theorem capBuf_unpinPage (d h page) : capBuf (unpinPage d h page) = capBuf d := by
  simp only [unpinPage]
  split <;> simp

@[simp] theorem capBuf_endSegment (d s c) : capBuf (endSegment d s c) = capBuf d := by simp [endSegment]

@[simp] theorem capBuf_goTo (d s a loops) : capBuf (goTo d s a loops) = capBuf d := by
  unfold goTo
  extract_lets +onlyGivenNames x e u v
  have hu : capBuf u = capBuf d := by
    unfold u
    split
    · split
      · exact capBuf_setStrand ..
      · exact (capBuf_endSegment ..).trans (capBuf_setStrand ..)
    · split
      · exact capBuf_setStrand ..
      · exact (capBuf_endSegment ..).trans (capBuf_setStrand ..)
    · exact capBuf_setStrand ..
  have hv : capBuf v = capBuf d := by simp [v, hu]
  exact (capBuf_foldl _ (fun e h => capBuf_serveFetches ..) _ _).trans hv

@[simp] theorem capBuf_dropFlow (d) : capBuf (dropFlow d) = capBuf d := by simp [dropFlow]

@[simp] theorem capBuf_holdStrand (d s) : capBuf (holdStrand d s) = capBuf d := by
  simp only [holdStrand]
  split <;> simp

@[simp] theorem capBuf_noteIssue (d s) : capBuf (noteIssue d s) = capBuf d := by simp [noteIssue]

/-! ### Poison and events -/

@[simp] theorem capBuf_poisonFor (d h s src ev word next) : capBuf (poisonFor d h s src ev word next) = capBuf d := by
  simp [poisonFor]

@[simp] theorem capBuf_poisonEvent (d h s src ev word) : capBuf (poisonEvent d h s src ev word) = capBuf d := by
  simp [poisonEvent]

@[simp] theorem capBuf_reportEvents (d h gp s src word e) : capBuf (reportEvents d h gp s src word e) = capBuf d := by
  simp [reportEvents]

@[simp] theorem capBuf_astNote (d h number detail) : capBuf (astNote d h number detail) = capBuf d := by simp [astNote]

@[simp] theorem capBuf_bankFor (d h n) : capBuf (bankFor d h n).1 = capBuf d := by
  simp only [bankFor]
  repeat' split
  all_goals simp

@[simp] theorem capBuf_bankSample (d h n kind) : capBuf (bankSample d h n kind) = capBuf d := by
  have hbank := capBuf_bankFor d h n
  unfold bankSample
  split
  · next heq => rwa [heq] at hbank
  · next heq => rw [heq] at hbank; simpa using hbank

/-! ### Cascades -/

@[simp] theorem capBuf_rvrTimed (d T acc) : capBuf (rvrTimed d T acc).1 = capBuf d := by
  rw [rvrTimed, capBuf_foldl_fst]
  · simp
  · intro s a
    dsimp only
    split
    · simp
    · simp

@[simp] theorem capBuf_setBasinRow (d tile x vs) : capBuf (setBasinRow d tile x vs) = capBuf d := by simp [setBasinRow]
@[simp] theorem capBuf_zeroTile (d tile) : capBuf (zeroTile d tile) = capBuf d := by simp [zeroTile]
@[simp] theorem capBuf_setTileState (d tile s) : capBuf (setTileState d tile s) = capBuf d := by simp [setTileState]
@[simp] theorem capBuf_setLadder (d uid l) : capBuf (setLadder d uid l) = capBuf d := by simp [setLadder]

@[simp] theorem capBuf_setLadLevel (d uid l x L ps) : capBuf (setLadLevel d uid l x L ps) = capBuf d := by
  unfold setLadLevel
  extract_lets +onlyGivenNames put T e
  have he : capBuf e = capBuf d := by
    unfold e
    split
    · exact capBuf_setBasinRow ..
    · split
      next hread => exact (capBuf_withMem ..).trans (capBuf_of_fst (capBuf_rvrTimed ..) hread)
  split
  · exact (capBuf_withMem ..).trans he
  · exact he

@[simp] theorem capBuf_ladEnter (uid x n L d l v) : capBuf (ladEnter uid x n L d l v).1 = capBuf d := by
  induction n generalizing L d l v with
  | zero =>
    simp only [ladEnter]
    split
    · split
      · simp
      · simp
    · simp
  | succ n ih =>
    simp only [ladEnter]
    split
    · rw [ih]
      split
      · simp
      · rfl
    · simp

@[simp] theorem capBuf_ladPass (d uid x comp v) : capBuf (ladPass d uid x comp v) = capBuf d := by
  unfold ladPass
  split
  · rfl
  · extract_lets newly l' e v'
    have he : capBuf e = capBuf d := by
      unfold e
      split
      · refine capBuf_foldl _ (fun e L => ?_) _ _
        split
        · exact capBuf_withMem ..
        · rfl
      · rfl
    split
    next hent => exact (capBuf_setLadder ..).trans ((capBuf_of_fst (capBuf_ladEnter ..) hent).trans he)

@[simp] theorem capBuf_ladFinishRow (d uid l x) : capBuf (ladFinishRow d uid l x) = capBuf d := by
  simp only [ladFinishRow]
  split <;> simp

@[simp] theorem capBuf_applyRow (d r) : capBuf (applyRow d r) = capBuf d := by
  simp only [applyRow]
  repeat' split
  all_goals simp

@[simp] theorem capBuf_applyOne (d i) : capBuf (applyOne d i) = capBuf d := by
  simp only [applyOne]
  split <;> simp

@[simp] theorem capBuf_settleRows (p n d) : capBuf (settleRows p n d) = capBuf d := by
  induction n generalizing d with
  | zero => rfl
  | succ n ih =>
    simp only [settleRows]
    split
    · rw [ih, capBuf_applyOne]
    · rfl

@[simp] theorem capBuf_settleDue (d) : capBuf (settleDue d) = capBuf d := by simp [settleDue]
@[simp] theorem capBuf_settleRow (d uid x t) : capBuf (settleRow d uid x t) = capBuf d := by simp [settleRow]
@[simp] theorem capBuf_casRaise (d c f) : capBuf (casRaise d c f) = capBuf d := by simp [casRaise]
@[simp] theorem capBuf_casBusy (d h t) : capBuf (casBusy d h t) = capBuf d := by simp [casBusy]

@[simp] theorem okBuf_ldsIssue (d c umask desc buf epv) : OkBuf d (ldsIssue d c umask desc buf epv) := by
  unfold ldsIssue
  split
  · exact okBuf_error d _
  · extract_lets +onlyGivenNames res resNow base'
    clear_value base'
    split
    · exact okBuf_error d _
    · split
      · exact okBuf_error d _
      · split
        · split
          · exact (okBuf_ok d d).2 rfl
          · exact okBuf_error d _
        · extract_lets +onlyGivenNames us test
          split
          · exact okBuf_error d _
          · extract_lets +onlyGivenNames tl
            split
            next hread =>
            rw [okBuf_ok, capBuf_casBusy, capBuf_foldl _ (fun e p => capBuf_withCas ..),
              capBuf_of_fst (capBuf_rvrTimed ..) hread]

@[simp] theorem capBuf_queueRows (d c u bt acm cmp gp D due p) :
    capBuf (queueRows d c u bt acm cmp gp D due p) = capBuf d := by simp [queueRows]

@[simp] theorem capBuf_holdBuffer (d uid buf till) : capBuf (holdBuffer d uid buf till) = capBuf d := by
  simp only [holdBuffer]
  split <;> simp

@[simp] theorem capBuf_shadowDraw (d c o win) : capBuf (shadowDraw d c o win) = capBuf d := by
  simp only [shadowDraw]
  repeat' split
  all_goals simp

@[simp] theorem okBuf_mmIssue (d c umask desc rowsm1 buf bt acm cmp gp pdt) :
    OkBuf d (mmIssue d c umask desc rowsm1 buf bt acm cmp gp pdt) := by
  simp only [mmIssue]
  repeat' split
  all_goals simp

@[simp] theorem okBuf_opaIssue (d c umask adesc bdesc rowsm1 bt acm cmp gp pdt) :
    OkBuf d (opaIssue d c umask adesc bdesc rowsm1 bt acm cmp gp pdt) := by
  simp only [opaIssue]
  repeat' split
  all_goals simp

@[simp] theorem okBuf_twfIssue (d c pmask gdesc xdesc rowsm1 buf ebt eacm obt oacm cmp) :
    OkBuf d (twfIssue d c pmask gdesc xdesc rowsm1 buf ebt eacm obt oacm cmp) := by
  simp only [twfIssue]
  repeat' split
  all_goals simp

@[simp] theorem capBuf_noteBctl (d uid fn) : capBuf (noteBctl d uid fn) = capBuf d := by simp [noteBctl]

@[simp] theorem capBuf_setTiles (d uid tmask st zero) : capBuf (setTiles d uid tmask st zero) = capBuf d := by
  simp [setTiles]

@[simp] theorem capBuf_bctlUnit (d c fn tmask u) : capBuf (bctlUnit d c fn tmask u) = capBuf d := by
  unfold bctlUnit
  extract_lets +onlyGivenNames uid
  split
  · exact (capBuf_setTiles ..).trans (capBuf_noteBctl ..)
  · exact (capBuf_setTiles ..).trans (capBuf_noteBctl ..)
  · rw [capBuf_setLadder, capBuf_setTiles, capBuf_noteBctl]
  · split
    · rfl
    · rw [capBuf_withCas, capBuf_setTiles, capBuf_foldl _ (fun e b => capBuf_zeroTile ..), capBuf_noteBctl]
      refine capBuf_foldl _ (fun e x => ?_) _ _
      extract_lets e'
      split
      · exact (capBuf_ladFinishRow ..).trans (capBuf_settleRow ..)
      · exact capBuf_settleRow ..

@[simp] theorem okBuf_bctlIssue (d c umask fn tmask) : OkBuf d (bctlIssue d c umask fn tmask) := by
  simp only [bctlIssue]
  repeat' split
  all_goals simp

@[simp] theorem okBuf_binIssue (d c umask desc bt add) : OkBuf d (binIssue d c umask desc bt add) := by
  simp only [binIssue]
  repeat' split
  all_goals simp

@[simp] theorem okBuf_boutIssue (d c umask desc bt rnd nfm gp) : OkBuf d (boutIssue d c umask desc bt rnd nfm gp) := by
  simp only [boutIssue]
  repeat' split
  all_goals simp

@[simp] theorem okBuf_rootIssue (d c umask desc nt pc nit gp) : OkBuf d (rootIssue d c umask desc nt pc nit gp) := by
  simp only [rootIssue]
  repeat' split
  all_goals simp

@[simp] theorem capBuf_rootComplete (d T) : capBuf (rootComplete d T) = capBuf d := by
  simp only [rootComplete]
  split <;> simp

@[simp] theorem capBuf_windowSet (d a v) : capBuf (windowSet d a v) = capBuf d := capBuf_withCas ..
@[simp] theorem capBuf_basinBusy (d a) : capBuf (basinBusy d a) = capBuf d := by simp [basinBusy]
@[simp] theorem capBuf_windowWrite (d a bs) : capBuf (windowWrite d a bs) = capBuf d := by simp [windowWrite]
@[simp] theorem capBuf_jetStore (d a bs) : capBuf (jetStore d a bs) = capBuf d := by simp [jetStore]

@[simp] theorem capBuf_jetLand (d l) : capBuf (jetLand d l) = capBuf d := by
  simp only [jetLand]
  repeat' split
  all_goals simp

@[simp] theorem capBuf_settleLands (n d) : capBuf (settleLands n d) = capBuf d := by
  induction n generalizing d with
  | zero => rfl
  | succ n ih =>
    simp only [settleLands]
    split
    · rfl
    · split
      · rfl
      · rw [ih, capBuf_jetLand, capBuf_withJet]

@[simp] theorem capBuf_settle (d) : capBuf (settle d) = capBuf d := by simp [settle]

@[simp] theorem okBuf_casOp (d c op) : OkBuf d (casOp d c op) := by
  simp only [casOp]
  repeat' split
  all_goals simp

@[simp] theorem capBuf_casIssue (d iss terr op) : capBuf (casIssue d iss terr op) = capBuf d := by
  have h0 : capBuf (settle (tick d iss.t)) = capBuf d := by rw [capBuf_settle, capBuf_tick]
  unfold casIssue
  extract_lets u h c e
  have he : capBuf e = capBuf d := (capBuf_count ..).trans h0
  split
  · rw [capBuf_casRaise, he]
  · split
    · rw [capBuf_casRaise, he]
    · split
      · next hop =>
        rw [okBuf_casOp _ _ _ _ hop]
        split
        · rw [capBuf_rootComplete, he]
        · exact he
      · rw [capBuf_casRaise, he]

@[simp] theorem capBuf_casIllegal (d iss terr word) : capBuf (casIllegal d iss terr word) = capBuf d := by
  simp [casIllegal]

/-! ### Jets -/

@[simp] theorem capBuf_landReg (d T r due bs) : capBuf (landReg d T r due bs) = capBuf d := by simp [landReg]
@[simp] theorem capBuf_jetRaise (d c f) : capBuf (jetRaise d c f) = capBuf d := by simp [jetRaise]
@[simp] theorem capBuf_jetBusy (d h t) : capBuf (jetBusy d h t) = capBuf d := by simp [jetBusy]

@[simp] theorem okBuf_takePort (d c hold) : OkBuf d (takePort d c hold) := by
  simp only [takePort]
  split <;> simp

@[simp] theorem capBuf_jetLines (d c hold runs) : capBuf (jetLines d c hold runs).1 = capBuf d := by simp [jetLines]

/-- `jetLines` under a name that does not unfold; the kernel else evaluates a read of a literal length. -/
theorem exists_jetLines : ∃ lines, jetLines = lines ∧ ∀ d c hold runs, capBuf (lines d c hold runs).1 = capBuf d :=
  ⟨_, rfl, capBuf_jetLines⟩

@[simp] theorem okBuf_jldIssue (d c vd desc rg w rnd nfm) : OkBuf d (jldIssue d c vd desc rg w rnd nfm) := by
  obtain ⟨lines, hg, hlines⟩ := exists_jetLines
  unfold jldIssue
  rw [hg]
  split
  · exact okBuf_error d _
  · split
    · exact okBuf_error d _
    · split
      · exact okBuf_error d _
      · split
        · exact okBuf_error d _
        · next hport =>
          rw [okBuf_ok, capBuf_jetBusy, capBuf_landReg, capBuf_reportEvents, hlines, okBuf_takePort _ _ _ _ hport]

@[simp] theorem okBuf_jstIssue (d c vs desc rg w rnd nfm gp) : OkBuf d (jstIssue d c vs desc rg w rnd nfm gp) := by
  obtain ⟨lines, hg, hlines⟩ := exists_jetLines
  unfold jstIssue
  rw [hg]
  split
  · exact okBuf_error d _
  · split
    · exact okBuf_error d _
    · split
      · exact okBuf_error d _
      · split
        · exact okBuf_error d _
        · next hport =>
          rw [okBuf_ok, capBuf_jetBusy, capBuf_withJet, capBuf_reportEvents, hlines, okBuf_takePort _ _ _ _ hport]

@[simp] theorem okBuf_aluIssue (d c vd va vb vc fn w gp) : OkBuf d (aluIssue d c vd va vb vc fn w gp) := by
  simp only [aluIssue]
  split <;> simp

@[simp] theorem okBuf_cvtIssue (d c vd va ws wd rnd nfm gp) : OkBuf d (cvtIssue d c vd va ws wd rnd nfm gp) := by
  simp only [cvtIssue]
  split <;> simp

@[simp] theorem okBuf_tabIssue (d c vd va tsel gp) : OkBuf d (tabIssue d c vd va tsel gp) := by
  simp only [tabIssue]
  split <;> simp

@[simp] theorem okBuf_derIssue (d c vd vx vg) : OkBuf d (derIssue d c vd vx vg) := by simp [derIssue]

@[simp] theorem okBuf_tldIssue (d c tgt desc) : OkBuf d (tldIssue d c tgt desc) := by
  obtain ⟨lines, hg, hlines⟩ := exists_jetLines
  unfold tldIssue
  rw [hg]
  split
  · exact okBuf_error d _
  · split
    · exact okBuf_error d _
    · split
      · exact okBuf_error d _
      · extract_lets +onlyGivenNames bs0 ex
        split
        · exact okBuf_error d _
        · split
          · exact okBuf_error d _
          · next hport =>
            rw [okBuf_ok, capBuf_jetBusy, capBuf_withJet, hlines, okBuf_takePort _ _ _ _ hport]

@[simp] theorem capBuf_setRowState (d T bank r p) : capBuf (setRowState d T bank r p) = capBuf d := by
  simp [setRowState]

@[simp] theorem capBuf_setGroupKind (d T bank g rk) : capBuf (setGroupKind d T bank g rk) = capBuf d := by
  simp [setGroupKind]

@[simp] theorem okBuf_redIssue (d c va vb bank rg rk init gp) : OkBuf d (redIssue d c va vb bank rg rk init gp) := by
  simp only [redIssue]
  split
  · exact okBuf_error d _
  · split
    · exact okBuf_error d _
    · simp

@[simp] theorem okBuf_rsrIssue (d c vd bank rg what) : OkBuf d (rsrIssue d c vd bank rg what) := by simp [rsrIssue]

@[simp] theorem okBuf_rsldIssue (d c bank rg desc rk mrg gp) : OkBuf d (rsldIssue d c bank rg desc rk mrg gp) := by
  obtain ⟨lines, hg, hlines⟩ := exists_jetLines
  unfold rsldIssue
  rw [hg]
  split
  · exact okBuf_error d _
  · split
    · exact okBuf_error d _
    · split
      · exact okBuf_error d _
      · split
        · exact okBuf_error d _
        · next hport =>
          rw [okBuf_ok, capBuf_jetBusy, capBuf_reportEvents, capBuf_foldl_fst _ (fun x i => by simp),
            capBuf_setGroupKind, hlines, okBuf_takePort _ _ _ _ hport]

@[simp] theorem okBuf_rsstIssue (d c bank rg desc) : OkBuf d (rsstIssue d c bank rg desc) := by
  obtain ⟨lines, hg, hlines⟩ := exists_jetLines
  unfold rsstIssue
  rw [hg]
  split
  · exact okBuf_error d _
  · split
    · exact okBuf_error d _
    · next hport =>
      rw [okBuf_ok, capBuf_jetBusy, capBuf_withJet, hlines, okBuf_takePort _ _ _ _ hport]

@[simp] theorem okBuf_tsumIssue (d c vd desc rg nb gp) : OkBuf d (tsumIssue d c vd desc rg nb gp) := by
  obtain ⟨lines, hg, hlines⟩ := exists_jetLines
  unfold tsumIssue
  rw [hg]
  split
  · exact okBuf_error d _
  · split
    · exact okBuf_error d _
    · extract_lets +onlyGivenNames n
      split
      · exact okBuf_error d _
      · extract_lets +onlyGivenNames hold
        split
        · exact okBuf_error d _
        · next hport =>
          rw [okBuf_ok, capBuf_jetBusy, capBuf_landReg, capBuf_reportEvents, hlines, okBuf_takePort _ _ _ _ hport]

@[simp] theorem okBuf_jetOp (d c op) : OkBuf d (jetOp d c op) := by
  simp only [jetOp]
  split <;> simp

@[simp] theorem capBuf_jetIssue (d iss terr op) : capBuf (jetIssue d iss terr op) = capBuf d := by
  simp only [jetIssue]
  split
  · simp
  · split
    · next hop => rw [okBuf_jetOp _ _ _ _ hop]; simp
    · simp

@[simp] theorem capBuf_jetIllegal (d iss terr word) : capBuf (jetIllegal d iss terr word) = capBuf d := by
  simp [jetIllegal]

/-! ### Stacks, pools and soft errors -/

@[simp] theorem capBuf_memRaise (d number sev half detail) : capBuf (memRaise d number sev half detail) = capBuf d := by
  simp [memRaise]

@[simp] theorem capBuf_memCorrected (d src number half detail) :
    capBuf (memCorrected d src number half detail) = capBuf d := by simp [memCorrected]

@[simp] theorem capBuf_nvWrite (d off bs) : capBuf (nvWrite d off bs) = capBuf d := by simp [nvWrite]
@[simp] theorem capBuf_repairSeal (d) : capBuf (repairSeal d) = capBuf d := by simp [repairSeal]

@[simp] theorem capBuf_repairAppend (d row state) : capBuf (repairAppend d row state) = capBuf d := by
  simp [repairAppend]

@[simp] theorem capBuf_repairBad (d ch) : capBuf (repairBad d ch) = capBuf d := by simp [repairBad]

@[simp] theorem capBuf_stkRaise (d number sev ch a) : capBuf (stkRaise d number sev ch a) = capBuf d := by
  simp [stkRaise]

@[simp] theorem capBuf_stkChfail (d ch) : capBuf (stkChfail d ch) = capBuf d := by simp [stkChfail]
@[simp] theorem capBuf_remapDefer (d row) : capBuf (remapDefer d row) = capBuf d := by simp [remapDefer]
@[simp] theorem capBuf_remapCandidate (d row) : capBuf (remapCandidate d row) = capBuf d := by simp [remapCandidate]

@[simp] theorem capBuf_stkCorrected (d a row) : capBuf (stkCorrected d a row) = capBuf d := by
  unfold stkCorrected
  extract_lets ch s key d1 d2 n _ d3
  have hd : capBuf d3 = capBuf d := by
    rw [capBuf_withMs, capBuf_memCorrected, capBuf_count, capBuf_fincSat]
  clear_value d3 key n
  split
  · exact (capBuf_remapCandidate ..).trans hd
  · exact hd

@[simp] theorem capBuf_stkUe (d a row) : capBuf (stkUe d a row) = capBuf d := by simp [stkUe]
@[simp] theorem capBuf_markTouch (d a n) : capBuf (markTouch d a n) = capBuf d := by simp [markTouch]
@[simp] theorem capBuf_markClear (d a n) : capBuf (markClear d a n) = capBuf d := by simp [markClear]
@[simp] theorem capBuf_setPool (d h p) : capBuf (setPool d h p) = capBuf d := by simp [setPool]
@[simp] theorem capBuf_underClear (d a n) : capBuf (underClear d a n) = capBuf d := by simp [underClear]
@[simp] theorem capBuf_lineBack (d h line) : capBuf (lineBack d h line) = capBuf d := by simp [lineBack]
@[simp] theorem capBuf_evict (d h line) : capBuf (evict d h line) = capBuf d := by simp [evict]

@[simp] theorem capBuf_poolTouch (d line write fill) : capBuf (poolTouch d line write fill) = capBuf d := by
  simp only [poolTouch]
  repeat' split
  all_goals simp

@[simp] theorem capBuf_countQueued (d a n) : capBuf (countQueued d a n) = capBuf d := by
  simp only [countQueued]
  split <;> simp

@[simp] theorem capBuf_poolWrite (d a bs) : capBuf (poolWrite d a bs) = capBuf d := by simp [poolWrite]
@[simp] theorem capBuf_ctlWrite (d a bs) : capBuf (ctlWrite d a bs) = capBuf d := by simp [ctlWrite]
@[simp] theorem capBuf_ctlTouch (d a n) : capBuf (ctlTouch d a n) = capBuf d := by simp [ctlTouch]

@[simp] theorem capBuf_qRead (d a n) : capBuf (qRead d a n).1 = capBuf d := by
  simp only [qRead]
  repeat' split
  all_goals simp

@[simp] theorem capBuf_qWrite (d a bs) : capBuf (qWrite d a bs).1 = capBuf d := by
  simp only [qWrite]
  repeat' split
  all_goals simp

@[simp] theorem capBuf_qGet (d a n) : capBuf (qGet d a n).1 = capBuf d := by simp [qGet]
@[simp] theorem capBuf_qPut (d a bs) : capBuf (qPut d a bs) = capBuf d := by simp [qPut]

@[simp] theorem capBuf_eccApply (d read e) : capBuf (eccApply d read e).1 = capBuf d := by
  unfold eccApply
  split
  · split
    · simp only [capBuf_memCorrected, capBuf_fincSat]
    · simp only [capBuf_memRaise, capBuf_fset, capBuf_fincSat]
  · split
    · rfl
    · split
      · extract_lets +onlyGivenNames h line det p u drop
        have hdrop : ∀ e, capBuf (drop e) = capBuf e := fun e => capBuf_setPool ..
        split
        · rfl
        · split
          · simp only [capBuf_memCorrected, capBuf_fincSat]
          · split
            · simp only [capBuf_memCorrected, capBuf_poolTouch, hdrop, u, capBuf_fincSat]
            · simp only [capBuf_memRaise, capBuf_fset, hdrop, capBuf_underClear, capBuf_withMem, u, capBuf_fincSat]
      · split
        · exact capBuf_stkCorrected ..
        · split
          · exact capBuf_stkUe ..
          · rfl

@[simp] theorem capBuf_poolAtomic (d a atop bs gp step) : capBuf (poolAtomic d a atop bs gp step).1 = capBuf d := by
  simp only [poolAtomic]
  repeat' split
  all_goals simp

@[simp] theorem capBuf_poolAsk (d h ask) : capBuf (poolAsk d h ask) = capBuf d := by simp [poolAsk]

/-! ### What a capture logs and a replay compares -/

@[simp] theorem capBuf_tstRaise (d number sev detail) : capBuf (tstRaise d number sev detail) = capBuf d := by
  simp [tstRaise]

@[simp] theorem capBuf_capEnd (d code) : capBuf (capEnd d code) = capBuf d := by simp [capEnd]

@[simp] theorem capBuf_capLog (d kind src key data) : capBuf (capLog d kind src key data) = capBuf d := by
  simp only [capLog]
  split
  · rfl
  · split
    · simp
    · rw [capBuf_fset]; rfl

@[simp] theorem capBuf_outDiffers (d num) : capBuf (outDiffers d num) = capBuf d := by simp [outDiffers]

@[simp] theorem capBuf_outNote (d dst kind bs) : capBuf (outNote d dst kind bs) = capBuf d := by
  simp only [outNote]
  split
  · split
    · simp
    · split
      · rfl
      · exact capBuf_outDiffers _ _
  · simp

@[simp] theorem capBuf_outMsg (d m) : capBuf (outMsg d m) = capBuf d := by simp [outMsg]

/-! ### Ports and the records of links, rills and channels -/

@[simp] theorem capBuf_setPort (d p x) : capBuf (setPort d p x) = capBuf d := by simp [setPort]
@[simp] theorem capBuf_modPort (d p f) : capBuf (modPort d p f) = capBuf d := by simp [modPort]

@[simp] theorem capBuf_hrmRaise (d p number sev epoch cause mask vc dropped) :
    capBuf (hrmRaise d p number sev epoch cause mask vc dropped) = capBuf d := by simp [hrmRaise]

@[simp] theorem capBuf_dropCount (d p f k) : capBuf (dropCount d p f k) = capBuf d := by simp [dropCount]

@[simp] theorem capBuf_rilRaise (d number sev ctx op spc strand half port value) :
    capBuf (rilRaise d number sev ctx op spc strand half port value) = capBuf d := by simp [rilRaise]

@[simp] theorem capBuf_rilEvent (d number sev ctx value) : capBuf (rilEvent d number sev ctx value) = capBuf d := by
  simp [rilEvent]

@[simp] theorem capBuf_aqdShow (d h c) : capBuf (aqdShow d h c) = capBuf d := by simp [aqdShow]
@[simp] theorem capBuf_aqdIssued (d h c k) : capBuf (aqdIssued d h c k) = capBuf d := by simp [aqdIssued]
@[simp] theorem capBuf_aqdCompleted (d h c k) : capBuf (aqdCompleted d h c k) = capBuf d := by simp [aqdCompleted]
@[simp] theorem capBuf_aqdDiscarded (d h c k) : capBuf (aqdDiscarded d h c k) = capBuf d := by simp [aqdDiscarded]
@[simp] theorem capBuf_setChan (d h c l) : capBuf (setChan d h c l) = capBuf d := by simp [setChan]

@[simp] theorem capBuf_aqdRaise (d number sev h c op spc strand detail) :
    capBuf (aqdRaise d number sev h c op spc strand detail) = capBuf d := by simp [aqdRaise]

@[simp] theorem capBuf_xferStop (d h c serial) : capBuf (xferStop d h c serial) = capBuf d := by simp [xferStop]

@[simp] theorem capBuf_xferFail (d h c serial number sev detail) :
    capBuf (xferFail d h c serial number sev detail) = capBuf d := by
  simp only [xferFail]
  split <;> simp

@[simp] theorem capBuf_colRaise (d number sev cid detail) : capBuf (colRaise d number sev cid detail) = capBuf d := by
  simp [colRaise]

@[simp] theorem capBuf_setColls (d l) : capBuf (setColls d l) = capBuf d := by simp [setColls]

@[simp] theorem capBuf_collFail (d cid low chip) : capBuf (collFail d cid low chip) = capBuf d := by
  simp only [collFail]
  split <;> simp

@[simp] theorem capBuf_permEnd (d val) : capBuf (permEnd d val) = capBuf d := by simp [permEnd]
@[simp] theorem capBuf_reqFail (d r) : capBuf (reqFail d r) = capBuf d := by simp [reqFail]
@[simp] theorem capBuf_enqueue (d p m ctx) : capBuf (enqueue d p m ctx) = capBuf d := by simp [enqueue]

@[simp] theorem capBuf_sendSynthetic (d m) : capBuf (sendSynthetic d m) = capBuf d := by
  simp only [sendSynthetic]
  repeat' split
  all_goals simp

@[simp] theorem capBuf_tellOwner (d p epoch m) : capBuf (tellOwner d p epoch m) = capBuf d := by
  simp only [tellOwner]
  repeat' split
  all_goals simp

@[simp] theorem capBuf_dropAll (d p epoch cause ms) : capBuf (dropAll d p epoch cause ms) = capBuf d := by
  simp [dropAll]

@[simp] theorem capBuf_sendBy (d p m ctx) : capBuf (sendBy d p m ctx) = capBuf d := by simp [sendBy]

@[simp] theorem capBuf_sendMsg (d m) : capBuf (sendMsg d m) = capBuf d := by
  simp only [sendMsg]
  repeat' split
  all_goals simp

/-! ### Rills -/

@[simp] theorem capBuf_rilShow (d n) : capBuf (rilShow d n) = capBuf d := by simp [rilShow]
@[simp] theorem capBuf_noteSlab (d n slab last) : capBuf (noteSlab d n slab last) = capBuf d := by simp [noteSlab]
@[simp] theorem capBuf_endList (d) : capBuf (endList d) = capBuf d := by simp [endList]

@[simp] theorem capBuf_colArm (n d) : capBuf (colArm n d) = capBuf d := by
  induction n generalizing d with
  | zero => rfl
  | succ n ih =>
    simp only [colArm]
    repeat' split
    all_goals simp [ih]

@[simp] theorem capBuf_waitOver (d q) : capBuf (waitOver d q) = capBuf d := by simp [waitOver]
@[simp] theorem capBuf_setRilQueue (d q l) : capBuf (setRilQueue d q l) = capBuf d := by simp [setRilQueue]

@[simp] theorem capBuf_rilFail (d q c number sev value) : capBuf (rilFail d q c number sev value) = capBuf d := by
  simp [rilFail]

@[simp] theorem capBuf_rilSend (d n m) : capBuf (rilSend d n m) = capBuf d := by simp [rilSend]
@[simp] theorem capBuf_landCommit (d e) : capBuf (landCommit d e) = capBuf d := by simp [landCommit]
@[simp] theorem capBuf_landCommits (d) : capBuf (landCommits d) = capBuf d := by simp [landCommits]
@[simp] theorem capBuf_rilFixPort (d q n rel) : capBuf (rilFixPort d q n rel) = capBuf d := by simp [rilFixPort]

/-- A rill command that has been dealt with leaves a package with that buffer. -/
def DoneBuf (d : Dev) (r : RilStep) : Prop := ∀ e, r = .done e → capBuf e = capBuf d

@[simp] theorem doneBuf_waits (d : Dev) : DoneBuf d .waits := fun _ h => nomatch h

@[simp] theorem doneBuf_done (d e : Dev) : DoneBuf d (.done e) ↔ capBuf e = capBuf d :=
  ⟨fun h => h e rfl, fun h _ he => by cases he; exact h⟩

theorem doneBuf_execSendCmd (d q n c) : DoneBuf d (execSendCmd d q n c) := by
  simp only [execSendCmd]
  repeat' split
  all_goals simp

theorem doneBuf_execCommitCmd (d q n c) : DoneBuf d (execCommitCmd d q n c) := by
  simp only [execCommitCmd]
  repeat' split
  all_goals simp

theorem doneBuf_execReleaseCmd (d q n c) : DoneBuf d (execReleaseCmd d q n c) := by
  simp only [execReleaseCmd]
  repeat' split
  all_goals simp

theorem doneBuf_ite {d : Dev} {c : Prop} [Decidable c] {r s : RilStep} (hr : DoneBuf d r) (hs : DoneBuf d s) :
    DoneBuf d (if c then r else s) := by
  split
  · exact hr
  · exact hs

theorem doneBuf_rilHead (d q c) : DoneBuf d (rilHead d q c) := by
  have hfix := capBuf_rilFixPort d q (rcRill c) (rcOp c == 3)
  have hfail (code) : DoneBuf d (.done (rilFail d q c code 3 0)) := (doneBuf_done d _).2 (capBuf_rilFail ..)
  unfold rilHead
  extract_lets +onlyGivenNames n rel kind
  refine doneBuf_ite (hfail _) (doneBuf_ite ((doneBuf_done d _).2 rfl)
    (doneBuf_ite (hfail _) (doneBuf_ite (hfail _) ?_)))
  split
  · exact fun u hu => (doneBuf_execSendCmd _ _ _ _ u hu).trans hfix
  · exact fun u hu => (doneBuf_execCommitCmd _ _ _ _ u hu).trans hfix
  · exact fun u hu => (doneBuf_execReleaseCmd _ _ _ _ u hu).trans hfix

@[simp] theorem capBuf_rilPump (q n d) : capBuf (rilPump q n d) = capBuf d := by
  induction n generalizing d with
  | zero => rfl
  | succ n ih =>
    simp only [rilPump]
    split
    · rfl
    · split
      · split
        · rfl
        · rfl
      · next hhead => rw [ih, capBuf_setRilQueue, capBuf_waitOver, doneBuf_rilHead _ _ _ _ hhead]

@[simp] theorem capBuf_rilPumpAll (n d) : capBuf (rilPumpAll n d) = capBuf d := by
  induction n generalizing d with
  | zero => rfl
  | succ n ih => rw [rilPumpAll, ih]; simp

@[simp] theorem capBuf_rilRun (d) : capBuf (rilRun d) = capBuf d := by simp [rilRun]

@[simp] theorem capBuf_rilIssue (d iss port op) : capBuf (rilIssue d iss port op) = capBuf d := by
  simp only [rilIssue]
  split
  · simp
  · split
    · simp
    · simp only [capBuf_rilRun, capBuf_setRilQueue]
      repeat' split
      all_goals simp

@[simp] theorem capBuf_rilIllegal (d iss port word) : capBuf (rilIllegal d iss port word) = capBuf d := by
  simp [rilIllegal]

@[simp] theorem capBuf_rilDrain (d n) : capBuf (rilDrain d n) = capBuf d := by simp [rilDrain]
@[simp] theorem capBuf_rilStep (d) : capBuf (rilStep d) = capBuf d := by simp [rilStep]
@[simp] theorem capBuf_rilUnwind (d) : capBuf (rilUnwind d) = capBuf d := by simp [rilUnwind]

/-! ### Ephemeris -/

@[simp] theorem capBuf_setSlotState (d k v) : capBuf (setSlotState d k v) = capBuf d := by simp [setSlotState]
@[simp] theorem capBuf_setCondemned (d k v) : capBuf (setCondemned d k v) = capBuf d := by simp [setCondemned]

@[simp] theorem capBuf_ephRaise (d f op spc strand half) : capBuf (ephRaise d f op spc strand half) = capBuf d := by
  simp [ephRaise]

@[simp] theorem capBuf_ephRetire (d) : capBuf (ephRetire d) = capBuf d := by simp [ephRetire]
@[simp] theorem capBuf_raiseFloor (d tag) : capBuf (raiseFloor d tag) = capBuf d := by simp [raiseFloor]
@[simp] theorem capBuf_ephStep (d) : capBuf (ephStep d) = capBuf d := by simp [ephStep]
@[simp] theorem capBuf_ephFloor (d k) : capBuf (ephFloor d k) = capBuf d := by simp [ephFloor]

@[simp] theorem okBuf_ephCount (d up r rill) : OkBuf d (ephCount d up r rill) := by
  simp only [ephCount]
  repeat' split
  all_goals simp

@[simp] theorem capBuf_setRes (d h t base failed) : capBuf (setRes d h t base failed) = capBuf d := by simp [setRes]
@[simp] theorem capBuf_ephFail (d iss word f) : capBuf (ephFail d iss word f) = capBuf d := by simp [ephFail]

@[simp] theorem capBuf_ephOp (d iss word up desc) : capBuf (ephOp d iss word up desc) = capBuf d := by
  unfold ephOp
  extract_lets +onlyGivenNames h
  split
  · exact capBuf_ephFail ..
  · split
    · exact capBuf_ephFail ..
    · next hcount => rw [capBuf_ephRetire, capBuf_setRes, okBuf_ephCount _ _ _ _ _ hcount]

@[simp] theorem capBuf_ephIssue (d iss op) : capBuf (ephIssue d iss op) = capBuf d := by
  simp only [ephIssue]
  repeat' split
  all_goals simp

@[simp] theorem capBuf_ephIllegal (d iss word) : capBuf (ephIllegal d iss word) = capBuf d := by simp [ephIllegal]

theorem capBuf_ephRequest (d e s) : ∀ p, ephRequest d e s = .ok p → capBuf p.1 = capBuf d := by
  simp only [ephRequest]
  repeat' split
  all_goals simp

@[simp] theorem capBuf_freeSlot (d k) : capBuf (freeSlot d k) = capBuf d := by simp [freeSlot]
@[simp] theorem capBuf_freeCondemned (d) : capBuf (freeCondemned d) = capBuf d := by simp [freeCondemned]

/-! ### Astrolabes -/

@[simp] theorem capBuf_normGroup (d h n e full ts) : capBuf (normGroup d h n e full ts) = capBuf d := by
  have hbank := capBuf_bankFor d h n
  unfold normGroup
  split
  · rfl
  · split
    · next heq => rwa [heq] at hbank
    · next heq => rw [heq] at hbank; simpa using hbank

@[simp] theorem capBuf_zeroBank (d h n) : capBuf (zeroBank d h n) = capBuf d := by simp [zeroBank]
@[simp] theorem capBuf_bankStep (d h n) : capBuf (bankStep d h n) = capBuf d := by simp [bankStep]
@[simp] theorem capBuf_cntStep (d) : capBuf (cntStep d) = capBuf d := by simp [cntStep]
@[simp] theorem capBuf_astStep (d) : capBuf (astStep d) = capBuf d := by simp [astStep]
@[simp] theorem capBuf_gnSet (d acc g) : capBuf (gnSet d acc g) = capBuf d := by simp [gnSet]
@[simp] theorem capBuf_astFail (d iss word number) : capBuf (astFail d iss word number) = capBuf d := by simp [astFail]

@[simp] theorem capBuf_gnWrite (d iss word acc) : capBuf (gnWrite d iss word acc) = capBuf d := by
  simp only [gnWrite]
  split <;> simp

@[simp] theorem capBuf_gnRecord (d acc) : capBuf (gnRecord d acc) = capBuf d := by simp [gnRecord]

@[simp] theorem capBuf_snapClaim (d) : capBuf (snapClaim d) = capBuf d := by
  unfold snapClaim
  extract_lets L ok
  split
  · rw [capBuf_latch, capBuf_withAst, capBuf_fset, capBuf_fset]
  · rfl

@[simp] theorem capBuf_astIssue (d iss op) : capBuf (astIssue d iss op) = capBuf d := by
  simp only [astIssue]
  repeat' split
  all_goals simp

@[simp] theorem capBuf_astIllegal (d iss word) : capBuf (astIllegal d iss word) = capBuf d := by simp [astIllegal]

/-! ### Weirs -/

@[simp] theorem capBuf_setWeir (d w x) : capBuf (setWeir d w x) = capBuf d := by simp [setWeir]
@[simp] theorem capBuf_setWeiQueue (d h l) : capBuf (setWeiQueue d h l) = capBuf d := by simp [setWeiQueue]
@[simp] theorem capBuf_weiNote (d w k n) : capBuf (weiNote d w k n) = capBuf d := by simp [weiNote]

@[simp] theorem capBuf_weiRaise (d w number op spc strand step detail) :
    capBuf (weiRaise d w number op spc strand step detail) = capBuf d := by
  simp only [weiRaise]
  split <;> simp

@[simp] theorem capBuf_weiCmdRaise (d w c number detail) : capBuf (weiCmdRaise d w c number detail) = capBuf d := by
  simp [weiCmdRaise]

@[simp] theorem capBuf_ringWrite (d x pos bs) : capBuf (ringWrite d x pos bs) = capBuf d := by simp [ringWrite]
@[simp] theorem capBuf_showRing (d w) : capBuf (showRing d w) = capBuf d := by simp [showRing]

@[simp] theorem capBuf_ringLog (d w c layout raddr cnt old) :
    capBuf (ringLog d w c layout raddr cnt old) = capBuf d := by simp [ringLog]

@[simp] theorem capBuf_localWrite (d a bs) : capBuf (localWrite d a bs) = capBuf d := by simp [localWrite]

@[simp] theorem capBuf_narrowWrite (d j k G rnd ws) : capBuf (narrowWrite d j k G rnd ws).1 = capBuf d := by
  simp [narrowWrite]

@[simp] theorem capBuf_weiNonfin (d w c bad) : capBuf (weiNonfin d w c bad).1 = capBuf d := by
  simp only [weiNonfin]
  split <;> simp

@[simp] theorem capBuf_weiCopyRow (d j k G) : capBuf (weiCopyRow d j k G).1 = capBuf d := by
  simp only [weiCopyRow]
  split <;> simp

@[simp] theorem capBuf_weiWorkGroup (d j G t cnt logged) : capBuf (weiWorkGroup d j G t cnt logged).1 = capBuf d := by
  simp only [weiWorkGroup]
  repeat' split
  all_goals simp

@[simp] theorem capBuf_clrmGroup (d j G) : capBuf (clrmGroup d j G) = capBuf d := by simp [clrmGroup]
@[simp] theorem capBuf_weirWait (d w c ring) : capBuf (weirWait d w c ring) = capBuf d := by simp [weirWait]
@[simp] theorem capBuf_weirGo (d w) : capBuf (weirGo d w) = capBuf d := by simp [weirGo]

theorem capBuf_weiGroup (d j) : ∀ p ∈ weiGroup d j, capBuf p.1 = capBuf d := by
  simp only [weiGroup]
  repeat' split
  all_goals simp

@[simp] theorem capBuf_weiGroups (w n d) : capBuf (weiGroups w n d) = capBuf d := by
  induction n generalizing d with
  | zero => rfl
  | succ n ih =>
    simp only [weiGroups]
    split
    · rfl
    · split
      · rfl
      · split
        · simp
        · next heq => rw [ih, capBuf_setWeir, capBuf_weirGo, capBuf_weiGroup _ _ _ heq]

@[simp] theorem capBuf_weiDiscard (d w) : capBuf (weiDiscard d w) = capBuf d := by simp [weiDiscard]

@[simp] theorem capBuf_weiBegin (d w c) : capBuf (weiBegin d w c) = capBuf d := by
  simp only [weiBegin]
  split
  · simp
  · split
    · simp
    · split
      · repeat' split
        all_goals simp
      · split
        · simp
        · next heq => rw [capBuf_weirWait]; exact capBuf_ephRequest _ _ _ _ heq
        · next heq =>
          have hreq := capBuf_ephRequest _ _ _ _ heq
          repeat' split
          all_goals simpa using hreq

@[simp] theorem capBuf_weiDispatch (h n d) : capBuf (weiDispatch h n d) = capBuf d := by
  induction n generalizing d with
  | zero => rfl
  | succ n ih =>
    simp only [weiDispatch]
    repeat' split
    all_goals simp [ih]

@[simp] theorem capBuf_weirPump (w n d) : capBuf (weirPump w n d) = capBuf d := by
  induction n generalizing d with
  | zero => rfl
  | succ n ih =>
    simp only [weirPump]
    repeat' split
    all_goals simp [ih]

@[simp] theorem capBuf_weiPump (n d) : capBuf (weiPump n d) = capBuf d := by
  induction n generalizing d with
  | zero => rfl
  | succ n ih => rw [weiPump, ih]; simp

@[simp] theorem capBuf_weiRun (d) : capBuf (weiRun d) = capBuf d := by simp [weiRun]

@[simp] theorem capBuf_weiParams (d step eta lambda invls) : capBuf (weiParams d step eta lambda invls) = capBuf d := by
  simp [weiParams]

@[simp] theorem capBuf_weiPush (d iss word) : capBuf (weiPush d iss word) = capBuf d := by
  unfold weiPush
  rw [capBuf_weiRun, capBuf_setWeiQueue, capBuf_weiNote, capBuf_withWei, capBuf_settle, capBuf_tick]

@[simp] theorem capBuf_weiIssue (d iss op) : capBuf (weiIssue d iss op) = capBuf d := by simp [weiIssue]
@[simp] theorem capBuf_weiIllegal (d iss word) : capBuf (weiIllegal d iss word) = capBuf d := by simp [weiIllegal]

@[simp] theorem capBuf_weiDrop (d w p) : capBuf (weiDrop d w p) = capBuf d := by
  simp only [weiDrop]
  split <;> simp

@[simp] theorem capBuf_weiStop (d s) : capBuf (weiStop d s) = capBuf d := by simp [weiStop]

/-! ### Aqueducts -/

@[simp] theorem capBuf_setXfer (d h c x) : capBuf (setXfer d h c x) = capBuf d := by simp [setXfer]
@[simp] theorem capBuf_xAddrFail (d x a host) : capBuf (xAddrFail d x a host) = capBuf d := by simp [xAddrFail]

@[simp] theorem capBuf_aqdRequest (d x owner a dst n bs atop) :
    capBuf (aqdRequest d x owner a dst n bs atop) = capBuf d := by simp [aqdRequest]

@[simp] theorem capBuf_atomLocal (d x atop a bs) : capBuf (atomLocal d x atop a bs).1 = capBuf d := by
  refine capBuf_foldl_fst _ (fun s p => ?_) _ _
  split
  · rfl
  · simp

@[simp] theorem capBuf_writeRun (d x a bs) : capBuf (writeRun d x a bs) = capBuf d := by
  unfold writeRun
  extract_lets +onlyGivenNames h c e
  have he : capBuf e = capBuf d := by
    unfold e
    split
    · exact capBuf_setXfer ..
    · rfl
  extract_lets +onlyGivenNames u
  have hu : capBuf u = capBuf d := (capBuf_count ..).trans he
  clear_value u
  split
  · split
    · exact (capBuf_xAddrFail ..).trans hu
    · split
      · split
        · next hatom => exact (capBuf_of_fst (capBuf_atomLocal ..) hatom).trans hu
        · next hatom => exact (capBuf_xAddrFail ..).trans ((capBuf_of_fst (capBuf_atomLocal ..) hatom).trans hu)
      · split
        · next hwr => exact (capBuf_of_fst (capBuf_qWrite ..) hwr).trans hu
        · next hwr => exact (capBuf_xAddrFail ..).trans ((capBuf_of_fst (capBuf_qWrite ..) hwr).trans hu)
  · split
    · exact (capBuf_foldl _ (fun e p => capBuf_aqdRequest ..) _ _).trans hu
    · exact (capBuf_aqdRequest ..).trans hu
  · split
    · exact hu
    · split
      · exact (capBuf_xAddrFail ..).trans hu
      · extract_lets +onlyGivenNames v
        have hv : capBuf v = capBuf d := (capBuf_outNote ..).trans hu
        split
        · exact hv
        · exact (capBuf_hostWrite ..).trans hv

@[simp] theorem capBuf_touchRow (d x r) : capBuf (touchRow d x r) = capBuf d := by
  unfold touchRow
  extract_lets +onlyGivenNames a bs
  split
  · exact capBuf_aqdRequest ..
  · split
    · next hatom => exact capBuf_of_fst (capBuf_atomLocal ..) hatom
    · next hatom => exact (capBuf_xAddrFail ..).trans (capBuf_of_fst (capBuf_atomLocal ..) hatom)

@[simp] theorem capBuf_listIndex (d x j) : capBuf (listIndex d x j).1 = capBuf d := by
  have hread := capBuf_qRead d (adIbase x.ent + 4 * j) 4
  simp only [listIndex]
  split
  · rfl
  · split
    · next heq => rwa [heq] at hread
    · next heq => rwa [heq] at hread

@[simp] theorem capBuf_rowDone (d h c serial row) : capBuf (rowDone d h c serial row) = capBuf d := by
  unfold rowDone
  split
  · rfl
  · split
    · split
      · next hix =>
        have hd := capBuf_of_fst (capBuf_listIndex ..) hix
        split
        · exact (capBuf_touchRow ..).trans hd
        · exact hd
      · next hix => exact capBuf_of_fst (capBuf_listIndex ..) hix
    · rfl

@[simp] theorem capBuf_aqdFlush (h c n d) : capBuf (aqdFlush h c n d) = capBuf d := by
  induction n generalizing d with
  | zero => rfl
  | succ n ih =>
    simp only [aqdFlush]
    split
    · rfl
    · split
      · rfl
      · rw [ih]
        split
        · simp
        · simp

@[simp] theorem capBuf_buryXfers (d h c) : capBuf (buryXfers d h c) = capBuf d := by simp [buryXfers]

@[simp] theorem capBuf_aqdReadBack (d h c) : capBuf (aqdReadBack d h c) = capBuf d := by
  refine capBuf_foldl _ (fun e x => ?_) _ _
  split
  · split
    · rfl
    · simp
  · rfl

@[simp] theorem capBuf_aqdDiscardEnd (d h c) : capBuf (aqdDiscardEnd d h c) = capBuf d := by simp [aqdDiscardEnd]

@[simp] theorem capBuf_noteHost (d h c) : capBuf (noteHost d h c) = capBuf d := by
  simp only [noteHost]
  split <;> simp

@[simp] theorem capBuf_noteReady (d h c) : capBuf (noteReady d h c) = capBuf d := by simp [noteReady]
@[simp] theorem capBuf_setAqdQueue (d q l) : capBuf (setAqdQueue d q l) = capBuf d := by simp [setAqdQueue]

@[simp] theorem capBuf_aqdMove (q n d) : capBuf (aqdMove q n d) = capBuf d := by
  induction n generalizing d with
  | zero => rfl
  | succ n ih =>
    simp only [aqdMove]
    repeat' split
    all_goals simp [ih]

@[simp] theorem capBuf_chanTidy (d k) : capBuf (chanTidy d k) = capBuf d := by simp [chanTidy]
@[simp] theorem capBuf_aqdRun (d) : capBuf (aqdRun d) = capBuf d := by simp [aqdRun]

@[simp] theorem capBuf_aqdIllegal (d iss _port word) : capBuf (aqdIllegal d iss _port word) = capBuf d := by
  simp [aqdIllegal]

@[simp] theorem capBuf_aqdIssue (d iss port op) : capBuf (aqdIssue d iss port op) = capBuf d := by
  have h0 : capBuf (settle (tick d iss.t)) = capBuf d := by rw [capBuf_settle, capBuf_tick]
  unfold aqdIssue
  extract_lets e h w word c spc bad
  have hbad : ∀ e, capBuf (bad e) = capBuf e := fun e => capBuf_aqdRaise ..
  split
  · rw [hbad, h0]
  · split
    · rw [hbad, h0]
    · split
      · split
        · exact h0
        · rw [hbad, h0]
      · rw [capBuf_aqdRun, capBuf_setAqdQueue, capBuf_aqdIssued, capBuf_withAqd, h0]

@[simp] theorem capBuf_commitHead (d ring) : capBuf (commitHead d ring) = capBuf d := by simp [commitHead]
@[simp] theorem capBuf_aqdDiscard (d h c) : capBuf (aqdDiscard d h c) = capBuf d := by simp [aqdDiscard]
@[simp] theorem capBuf_aqdUnwind (d) : capBuf (aqdUnwind d) = capBuf d := by simp [aqdUnwind]

/-! ### Machine records and verdicts -/

@[simp] theorem capBuf_machRaise (d number sev port detail) :
    capBuf (machRaise d number sev port detail) = capBuf d := by simp [machRaise]

@[simp] theorem capBuf_setMach (d f) : capBuf (setMach d f) = capBuf d := by simp [setMach]
@[simp] theorem capBuf_touchPorts (d ps) : capBuf (touchPorts d ps) = capBuf d := by simp [touchPorts]
@[simp] theorem capBuf_setTree (d perm t) : capBuf (setTree d perm t) = capBuf d := by simp [setTree]
@[simp] theorem capBuf_switchBank (d drill) : capBuf (switchBank d drill) = capBuf d := by simp [switchBank]
@[simp] theorem capBuf_applyVerdict (d s v perm) : capBuf (applyVerdict d s v perm) = capBuf d := by simp [applyVerdict]

@[simp] theorem capBuf_treeRun (d perm) : capBuf (treeRun d perm) = capBuf d := by
  simp only [treeRun]
  repeat' split
  all_goals simp

@[simp] theorem capBuf_ownReport (d s v) : capBuf (ownReport d s v) = capBuf d := by simp [ownReport]

/-! ### Collectives and steps -/

@[simp] theorem capBuf_colAbandon (d) : capBuf (colAbandon d) = capBuf d := by simp [colAbandon]
@[simp] theorem capBuf_colStep (d) : capBuf (colStep d) = capBuf d := by simp [colStep]

/-! ### Rings of the host interface -/

@[simp] theorem capBuf_cmdConsume (d n) : capBuf (cmdConsume d n) = capBuf d := by simp [cmdConsume]
@[simp] theorem capBuf_headsCommit (d) : capBuf (headsCommit d) = capBuf d := by simp [headsCommit]
@[simp] theorem capBuf_headsReturn (d) : capBuf (headsReturn d) = capBuf d := by simp [headsReturn]

theorem capBuf_withTst_skipStep (d : Dev) (n : Nat) : capBuf (d.withTst { d.tst with skipStep := n }) = capBuf d := rfl

theorem capBuf_withTst_audit (d : Dev) (fs : Option (List BookFail)) (t : Nat) :
    capBuf (d.withTst { d.tst with audit := fs, auditAt := t }) = capBuf d := rfl

/-! ### Snapshots of the books -/

@[simp] theorem capBuf_audit (d bs) : capBuf (audit d bs) = capBuf d := by
  unfold audit
  split
  · extract_lets e
    have he : capBuf e = capBuf d := capBuf_fincSat ..
    split
    · exact he
    · rw [capBuf_tstRaise, capBuf_withTst_skipStep, he]
  · rw [capBuf_fset, capBuf_withTst_audit, capBuf_fincSat]

/-! ### Timed ops -/

@[simp] theorem capBuf_timedOp (d iss terr f) (hf : ∀ d, capBuf (f d) = capBuf d) :
    capBuf (timedOp d iss terr f) = capBuf d := by
  simp only [timedOp]
  split
  · exact hf d
  · rw [capBuf_withMem, hf, capBuf_withMem, capBuf_foldl_fst]
    · simp
    · simp

/-! ### The issue of a bundle -/

@[simp] theorem capBuf_setSeq (d f) : capBuf (setSeq d f) = capBuf d := by simp [setSeq]
@[simp] theorem capBuf_closeStep (d) : capBuf (closeStep d) = capBuf d := by simp [closeStep]
@[simp] theorem capBuf_stepReport (d v) : capBuf (stepReport d v) = capBuf d := by simp [stepReport]
@[simp] theorem capBuf_unwindBegin (d) : capBuf (unwindBegin d) = capBuf d := by simp [unwindBegin]

@[simp] theorem capBuf_slotEph (d iss w) : capBuf (slotEph d iss w) = capBuf d := by
  simp only [slotEph]
  repeat' split
  all_goals simp

@[simp] theorem capBuf_slotAst (d iss w) : capBuf (slotAst d iss w) = capBuf d := by
  simp only [slotAst]
  repeat' split
  all_goals simp

@[simp] theorem capBuf_slotCas (d iss t w) : capBuf (slotCas d iss t w) = capBuf d := by
  unfold slotCas
  split
  · rfl
  · refine capBuf_timedOp _ _ _ _ fun e => ?_
    split
    · simp
    · simp

@[simp] theorem capBuf_slotJet (d iss t w) : capBuf (slotJet d iss t w) = capBuf d := by
  unfold slotJet
  split
  · rfl
  · refine capBuf_timedOp _ _ _ _ fun e => ?_
    split
    · simp
    · simp

@[simp] theorem capBuf_slotRil (d iss p w) : capBuf (slotRil d iss p w) = capBuf d := by
  simp only [slotRil]
  repeat' split
  all_goals simp

@[simp] theorem capBuf_slotAqd (d iss p w) : capBuf (slotAqd d iss p w) = capBuf d := by
  simp only [slotAqd]
  repeat' split
  all_goals simp

@[simp] theorem capBuf_slotWei (d iss w) : capBuf (slotWei d iss w) = capBuf d := by
  simp only [slotWei]
  repeat' split
  all_goals simp

@[simp] theorem capBuf_halfSlots (d iss w) : capBuf (halfSlots d iss w) = capBuf d := by simp [halfSlots]
@[simp] theorem capBuf_issueSlots (d s ecc wa wb) : capBuf (issueSlots d s ecc wa wb) = capBuf d := by simp [issueSlots]

@[simp] theorem capBuf_seqFault (d s h w number code late) : capBuf (seqFault d s h w number code late) = capBuf d := by
  simp [seqFault]

@[simp] theorem capBuf_seqHalt (d s h w code) : capBuf (seqHalt d s h w code) = capBuf d := by simp [seqHalt]

@[simp] theorem capBuf_noteLate (d s wa wb oa ob) : capBuf (noteLate d s wa wb oa ob) = capBuf d := by
  simp only [noteLate]
  repeat' split
  all_goals simp

@[simp] theorem capBuf_noteSida (d oa ob) : capBuf (noteSida d oa ob) = capBuf d := by
  simp only [noteSida]
  split <;> simp

@[simp] theorem capBuf_pageOp (d s w mode page) : capBuf (pageOp d s w mode page) = capBuf d := by
  simp only [pageOp]
  repeat' split
  all_goals simp

@[simp] theorem capBuf_openStep (d spc t0src) : capBuf (openStep d spc t0src) = capBuf d := by simp [openStep]

@[simp] theorem capBuf_ctlEffect (d s w op) : capBuf (ctlEffect d s w op) = capBuf d := by
  simp only [ctlEffect]
  split <;> simp

@[simp] theorem capBuf_trapNote (d s h w op) : capBuf (trapNote d s h w op) = capBuf d := by
  simp only [trapNote]
  split <;> simp

@[simp] theorem capBuf_issueBundle (d s ecc wa wb oa ob go) :
    capBuf (issueBundle d s ecc wa wb oa ob go) = capBuf d := by
  unfold issueBundle
  extract_lets +onlyGivenNames x first u1
  have h1 : capBuf u1 = capBuf d := by
    unfold u1
    split
    · exact capBuf_audit ..
    · rfl
  clear_value u1
  extract_lets +onlyGivenNames u2 u3 u4 u5 u6 u7
  have h2 : capBuf u2 = capBuf d := by simp [u2, h1]
  have h4 : capBuf u4 = capBuf d := by simp [u4, u3, h2]
  have h6 : capBuf u6 = capBuf d := by simp [u6, u5, h4]
  have h7 : capBuf u7 = capBuf d := by simp [u7, h6]
  clear_value u7
  extract_lets +onlyGivenNames u8
  have h8 : capBuf u8 = capBuf d := by
    unfold u8
    split
    · exact (capBuf_seqHalt ..).trans h7
    · exact h7
  clear_value u8
  split
  · exact h8
  · extract_lets +onlyGivenNames u9
    have h9 : capBuf u9 = capBuf d := by simp [u9, h8]
    clear_value u9
    split
    · split
      · rw [capBuf_unwindBegin, capBuf_setSeq, h9]
      · exact h9
    · exact h9

theorem capBuf_stepGate (d s w op) : ∀ e ∈ stepGate d s w op, capBuf e = capBuf d := by
  simp only [stepGate]
  repeat' split
  all_goals simp

@[simp] theorem capBuf_tryBundle (d s ecc wa wb) : capBuf (tryBundle d s ecc wa wb) = capBuf d := by
  unfold tryBundle
  extract_lets +onlyGivenNames x first
  split
  · exact capBuf_seqFault ..
  · split
    · exact capBuf_holdStrand ..
    · extract_lets +onlyGivenNames gapped
      split
      · split
        · rfl
        · rfl
        · exact capBuf_setStrand ..
      · have hgate : ∀ oa, ∀ e ∈ (if first then stepGate d s wa oa else none), capBuf e = capBuf d := by
          intro oa e he
          split at he
          · exact capBuf_stepGate _ _ _ _ e he
          · cases he
        split
        · next hg => exact hgate _ _ hg
        · split
          · split
            · exact capBuf_seqFault ..
            · rfl
          · exact capBuf_issueBundle ..
  · rfl

@[simp] theorem capBuf_parityFail (d s h w) : capBuf (parityFail d s h w) = capBuf d := by simp [parityFail]

@[simp] theorem capBuf_bundleIssue (d s ecc) : capBuf (bundleIssue d s ecc) = capBuf d := by
  simp only [bundleIssue]
  repeat' split
  all_goals simp

end Sys2Proof.Machine
end

section
/-! PROOFS. Audits, captures, replays and the instructions of the TAP (R635 to R649). -/

namespace Sys2Proof.Machine

/-! ### What each update leaves alone -/

theorem leaves_withTst {p : Nat → Bool} (d : Dev) (x : Tst) : Leaves [.tst] p d (d.withTst x) :=
  ⟨fun x hx => by cases x <;> simp_all [Piece.same], keepsRegs_of_regs rfl⟩

theorem leaves_withFresh {p : Nat → Bool} (d : Dev) (n : Nat) : Leaves [.clock] p d (d.withFresh n) :=
  ⟨fun x hx => by cases x <;> simp_all [Piece.same], keepsRegs_of_regs rfl⟩

theorem leaves_raiseAbort {p : Nat → Bool} (d : Dev) (k : Nat) : Leaves [.gov, .mach] p d (raiseAbort d k) :=
  ⟨fun x hx => by cases x <;> simp_all [Piece.same], keepsRegs_of_regs rfl⟩

theorem leaves_fincSat {p : Nat → Bool} (d : Dev) (a : Nat) (f : Fld) (k : Nat) (h : p a = true) :
    Leaves [] p d (fincSat d a f k) := leaves_fset d a f _ h

/-! ### Test records (R651, R652) -/

/-- The registers that an informational test record may change. -/
def testReports (a : Nat) : Bool := isReport a || a == A.TST_STS

theorem testReports_eq_false {a : Nat} (h : testReports a = false) : isReport a = false ∧ a ≠ A.TST_STS := by
  simpa [testReports] using h

section
variable (d : Dev) (number detail : Nat)

theorem leaves_tstRaise_info : Leaves [.hst] testReports d (tstRaise d number 0 detail) := by
  rw [tstRaise, raise_minor _ _ _ _ _ (by decide)]
  exact ((leaves_fset d _ _ _ (by decide)).widen (by simp)).trans
    ((onlyHst_post _ _ _ _ _).leaves.weaken (by simp) fun _ h => (testReports_eq_false h).1)

/-- TST_STS.EXC takes the record's number. -/
theorem tstRaise_exc (sev : Nat) (h : number < 256) :
    fget (tstRaise d number sev detail) A.TST_STS F.TST_STS_EXC = number := by
  rw [tstRaise, (keepsRegs_raise _ _ _ _ _).fget (by decide), fget_fset_self _ _ _ _ (by decide)]
  exact Nat.mod_eq_of_lt h

/-- Every other field of TST_STS stays. -/
theorem tstRaise_sts (sev : Nat) {f : Fld} (hf : f.ok = true) (h : F.TST_STS_EXC.apart f = true) :
    fget (tstRaise d number sev detail) A.TST_STS f = fget d A.TST_STS f := by
  rw [tstRaise, (keepsRegs_raise _ _ _ _ _).fget (by decide), fget_fset_apart _ _ _ _ _ _ (by decide) hf h]

@[simp] theorem tstRaise_mem (sev : Nat) : (tstRaise d number sev detail).mem = d.mem := by
  rw [tstRaise, raise_mem, fset_mem]

@[simp] theorem tstRaise_tst (sev : Nat) : (tstRaise d number sev detail).tst = d.tst := by
  rw [tstRaise, raise_tst, fset_tst]

end

/-! ### Audits (R635 to R637) -/

theorem auditRun_outside {d : Dev} (h : pstate d ≠ 2) : auditRun d = d := if_neg h

theorem auditRun_hold {d : Dev} (h : pstate d = 2) : auditRun d = audit d (packageBooks d ++ pwrBooks d) := if_pos h

/-- A snapshot is taken where no comparison runs. -/
theorem audit_takes {d : Dev} (h : d.tst.audit = none) (bs : List Book) :
    (audit d bs).tst.audit.isSome = true ∧ (audit d bs).tst.auditAt = d.now ∧
      fget (audit d bs) A.TST_AUDSTS F.TST_AUDSTS_BUSY = 1 ∧ Leaves [.tst] (these [A.TST_AUDSTS]) d (audit d bs) := by
  simp only [audit, h]
  refine ⟨by simp, by simp, ?_, ?_⟩
  · rw [fget_fset_self _ _ _ _ (by decide)]
    rfl
  · exact ((leaves_fincSat d _ _ _ (by decide)).widen (by simp)).trans
      ((leaves_withTst _ _).trans ((leaves_fset _ _ _ _ (by decide)).widen (by simp)))

/-- The books record of an audit leaves the audit's own state and status alone. -/
structure AuditKept (d e : Dev) : Prop where
  tst : e.tst = d.tst
  sts : regGet e A.TST_AUDSTS = regGet d A.TST_AUDSTS

theorem AuditKept.trans {d e f : Dev} (h : AuditKept d e) (g : AuditKept e f) : AuditKept d f :=
  ⟨g.tst.trans h.tst, g.sts.trans h.sts⟩

theorem auditKept_fset (d : Dev) {a : Nat} (h : A.TST_AUDSTS ≠ a) (f : Fld) (v : Nat) : AuditKept d (fset d a f v) :=
  ⟨fset_tst d a f v, regGet_fset_ne d h f v⟩

theorem auditKept_post (d : Dev) (number sev src : Nat) (payload : List Nat) :
    AuditKept d (post d number sev src payload) :=
  ⟨post_tst .., (onlyHst_post d number sev src payload).2 _ (by decide)⟩

theorem auditKept_consequence (d : Dev) (sev : Nat) : AuditKept d (consequence d sev) :=
  ⟨consequence_tst .., keepsRegs_consequence d sev _ (by decide)⟩

theorem auditKept_raise (d : Dev) (number sev src : Nat) (payload : List Nat) :
    AuditKept d (raise d number sev src payload) :=
  (auditKept_post d number sev src payload).trans (auditKept_consequence _ sev)

theorem auditKept_rilEvent (d : Dev) (number sev ctx value : Nat) : AuditKept d (rilEvent d number sev ctx value) :=
  (((auditKept_fset d (by decide) _ _).trans (auditKept_fset _ (by decide) _ _)).trans
    (auditKept_fset _ (by simp only [A.TST_AUDSTS, A.RIL_CSTS]; omega) _ _)).trans (auditKept_raise ..)

theorem auditKept_ephRaise (d : Dev) (f : EphFail) (op spc strand half : Nat) :
    AuditKept d (ephRaise d f op spc strand half) :=
  (((auditKept_fset d (by decide) _ _).trans (auditKept_fset _ (by decide) _ _)).trans
    (auditKept_fset _ (by decide) _ _)).trans (auditKept_raise ..)

theorem auditKept_weiRaise (d : Dev) (w number op spc strand step detail : Nat) :
    AuditKept d (weiRaise d w number op spc strand step detail) := by
  have ha : A.TST_AUDSTS ≠ A.WEI_STS (w / 4) := by simp only [A.TST_AUDSTS, A.WEI_STS]; omega
  have hpost (payload) : AuditKept d (post (fset (fset d (A.WEI_STS (w / 4)) F.WEI_STS_EXC number) (A.WEI_STS (w / 4))
      F.WEI_STS_WEIR (w % 4)) number (weiSev number) 5 payload) :=
    ((auditKept_fset d ha _ _).trans (auditKept_fset _ ha _ _)).trans (auditKept_post ..)
  unfold weiRaise
  split
  · exact (hpost _).trans ⟨rfl, rfl⟩
  · exact (hpost _).trans (auditKept_consequence ..)

theorem auditKept_aqdRaise (d : Dev) (number sev h c op spc strand detail : Nat) :
    AuditKept d (aqdRaise d number sev h c op spc strand detail) := by
  have ha : A.TST_AUDSTS ≠ A.AQD_STS h := by simp only [A.TST_AUDSTS, A.AQD_STS]; omega
  exact (((auditKept_fset d ha _ _).trans (auditKept_fset _ ha _ _)).trans
    (auditKept_fset _ (by simp only [A.TST_AUDSTS, A.AQD_CHSTS]; omega) _ _)).trans (auditKept_raise ..)

theorem auditKept_hrmNote (d : Dev) (p number sev : Nat) : AuditKept d (hrmNote d p number sev) :=
  (auditKept_fset d (by simp only [A.TST_AUDSTS, A.HRM_PSTS]; omega) _ _).trans (auditKept_raise ..)

theorem auditKept_hstPost (d : Dev) (number sev ring index addr : Nat) :
    AuditKept d (hstPost d number sev ring index addr) :=
  (((auditKept_fset d (by decide) _ _).trans (auditKept_fset _ (by decide) _ _)).trans
    (auditKept_fset _ (by simp only [A.TST_AUDSTS, A.HST_RSTS]; omega) _ _)).trans (auditKept_post ..)

theorem auditKept_pwrRaise (d : Dev) (number sev detail : Nat) : AuditKept d (pwrRaise d number sev detail) :=
  (auditKept_fset d (by decide) _ _).trans (auditKept_raise ..)

theorem auditKept_machRaise (d : Dev) (number sev port detail : Nat) :
    AuditKept d (machRaise d number sev port detail) := (auditKept_fset d (by decide) _ _).trans (auditKept_raise ..)

/-- Whichever chapter's books fail, its record leaves the audit alone. -/
theorem auditKept_bookRaise (d : Dev) (b : BookFail) : AuditKept d (bookRaise d b) := by
  unfold bookRaise
  split
  · exact auditKept_rilEvent ..
  · exact auditKept_ephRaise ..
  · exact auditKept_weiRaise ..
  · exact auditKept_raise ..
  · exact auditKept_aqdRaise ..
  · exact auditKept_hrmNote ..
  · exact (auditKept_hstPost ..).trans (auditKept_consequence ..)
  · exact auditKept_pwrRaise ..
  · exact auditKept_machRaise ..

theorem AuditKept.fget {d e : Dev} (h : AuditKept d e) (f : Fld) :
    Machine.fget e A.TST_AUDSTS f = Machine.fget d A.TST_AUDSTS f := by rw [Machine.fget, Machine.fget, h.sts]

/-- One failure of a comparison: counted, and recorded by its chapter. -/
def bookNoted (d : Dev) (b : BookFail) : Dev := bookRaise (fincSat d A.TST_AUDSTS F.TST_AUDSTS_DIFFS 1) b

theorem bookNoted_tst (d : Dev) (b : BookFail) : (bookNoted d b).tst = d.tst := by
  rw [bookNoted, (auditKept_bookRaise _ b).tst, fincSat_tst]

theorem bookNoted_busy (d : Dev) (b : BookFail) :
    fget (bookNoted d b) A.TST_AUDSTS F.TST_AUDSTS_BUSY = fget d A.TST_AUDSTS F.TST_AUDSTS_BUSY := by
  rw [bookNoted, (auditKept_bookRaise _ b).fget, fincSat,
    fget_fset_apart _ _ _ _ _ _ (by decide) (by decide) (by decide)]

theorem bookNoted_diffs (d : Dev) (b : BookFail) : fget (bookNoted d b) A.TST_AUDSTS F.TST_AUDSTS_DIFFS
    = min (fget d A.TST_AUDSTS F.TST_AUDSTS_DIFFS + 1) 65535 := by
  rw [bookNoted, (auditKept_bookRaise _ b).fget, fincSat, fget_fset_self _ _ _ _ (by decide)]
  exact Nat.mod_eq_of_lt (Nat.lt_succ_of_le (Nat.min_le_right _ _))

/-- The failures of a snapshot are counted one by one, up to what the field holds. -/
theorem foldl_bookNoted (fs : List BookFail) (d : Dev) : (fs.foldl bookNoted d).tst = d.tst ∧
    fget (fs.foldl bookNoted d) A.TST_AUDSTS F.TST_AUDSTS_BUSY = fget d A.TST_AUDSTS F.TST_AUDSTS_BUSY ∧
    fget (fs.foldl bookNoted d) A.TST_AUDSTS F.TST_AUDSTS_DIFFS
      = min (fget d A.TST_AUDSTS F.TST_AUDSTS_DIFFS + fs.length) 65535 := by
  induction fs generalizing d with
  | nil =>
    have hlt : fget d A.TST_AUDSTS F.TST_AUDSTS_DIFFS < 65536 := fget_lt d _ F.TST_AUDSTS_DIFFS
    refine ⟨rfl, rfl, ?_⟩
    simp only [List.foldl_nil, List.length_nil]
    omega
  | cons b fs ih =>
    obtain ⟨htst, hbusy, hdiffs⟩ := ih (bookNoted d b)
    refine ⟨htst.trans (bookNoted_tst d b), hbusy.trans (bookNoted_busy d b), ?_⟩
    rw [List.foldl_cons, hdiffs, bookNoted_diffs, List.length_cons]
    omega

theorem auditCompare_idle {d : Dev} (h : d.tst.audit = none) : auditCompare d = d := by simp only [auditCompare, h]

/-- The comparison ends: nothing runs, and every identity that failed is counted. -/
theorem auditCompare_counts {d : Dev} {fs : List BookFail} (h : d.tst.audit = some fs) :
    (auditCompare d).tst.audit = none ∧ fget (auditCompare d) A.TST_AUDSTS F.TST_AUDSTS_BUSY = 0 ∧
      fget (auditCompare d) A.TST_AUDSTS F.TST_AUDSTS_DIFFS
        = min (fget d A.TST_AUDSTS F.TST_AUDSTS_DIFFS + fs.length) 65535 := by
  have heq : auditCompare d = fs.foldl bookNoted
      (fset (d.withTst { d.tst with audit := none }) A.TST_AUDSTS F.TST_AUDSTS_BUSY 0) := by
    simp only [auditCompare, h]
    rfl
  obtain ⟨htst, hbusy, hdiffs⟩ := foldl_bookNoted fs
    (fset (d.withTst { d.tst with audit := none }) A.TST_AUDSTS F.TST_AUDSTS_BUSY 0)
  rw [heq]
  refine ⟨by rw [htst]; rfl, hbusy.trans (fget_fset_self _ _ _ _ (by decide)), ?_⟩
  rw [hdiffs, fget_fset_apart _ _ _ _ _ _ (by decide) (by decide) (by decide)]
  rfl

/-! ### The cross-chip check (R638) -/

/-- The package with the result of a pair check. -/
def pairResult (d : Dev) (v : Nat) : Dev := fset d A.TST_AUDSTS F.TST_AUDSTS_PAIRRES v

theorem pairResult_result (d : Dev) {v : Nat} (h : v < 4) :
    fget (pairResult d v) A.TST_AUDSTS F.TST_AUDSTS_PAIRRES = v ∧
      Leaves [] (these [A.TST_AUDSTS]) d (pairResult d v) :=
  ⟨(fget_fset_self _ _ _ _ (by decide)).trans (Nat.mod_eq_of_lt h), leaves_fset d _ _ _ (by decide)⟩

theorem pairCheck_outside {d : Dev} (h : pstate d ≠ 2) (kind index value : Nat) :
    pairCheck d kind index value = pairResult d 2 := if_pos h

theorem pairCheck_rill {d : Dev} {index value : Nat} (h : pstate d = 2) (hk : rilKind d index = 2)
    (hg : rilGrant d index = (value + rilSlots d index) % 2 ^ 32) : pairCheck d 0 index value = pairResult d 0 := by
  simp only [pairCheck, h, hk, hg, ne_eq, not_true_eq_false, if_false, if_true]
  rfl

theorem pairCheck_link {d : Dev} {index value : Nat} (h : pstate d = 2) (hp : index < 64) (hv : index % 8 ≤ 4)
    (hc : fget d (A.HRM_VCCRED (index / 8) (index % 8)) F.HRM_VCCRED_SCRED ≠ value) :
    pairCheck d 1 index value = hrmNote (pairResult d 1) (index / 8) 0xE3 3 := by
  simp only [pairCheck, h, hp, hv, hc, ne_eq, not_true_eq_false, if_false, and_self, if_true, one_ne_zero]
  rfl

/-- A link record stands in its port's status. -/
theorem hrmNote_exc (d : Dev) {p number : Nat} (sev : Nat) (hp : p < 8) (hn : number < 256) :
    fget (hrmNote d p number sev) (A.HRM_PSTS p) F.HRM_PSTS_EXC = number := by
  have ha : isRaise (A.HRM_PSTS p) = false := by
    interval_cases p <;> decide
  rw [hrmNote, hrmRaise, (keepsRegs_raise _ _ _ _ _).fget ha, fget_fset_self _ _ _ _ (by decide)]
  exact Nat.mod_eq_of_lt hn

/-! ### The test access port (R639 to R642) -/

theorem leaves_tapSelect {p : Nat → Bool} (d : Dev) (ir dr : Nat) : Leaves [.tst] p d (tapSelect d ir dr) :=
  leaves_withTst d _

theorem leaves_tapBoundary {p : Nat → Bool} (d : Dev) (ir : Nat) : Leaves [.clock, .tst] p d (tapBoundary d ir) :=
  ((leaves_tapSelect d ir _).widen (by simp)).trans ((leaves_withFresh _ _).widen (by simp))

theorem tapDiag_off {d : Dev} (h : fget d A.TST_STS F.TST_STS_DIAG = 0) (f : Dev → Dev) : tapDiag d f = tapBypass d :=
  if_neg (by rw [h]; decide)

theorem tapDiag_on {d : Dev} (h : fget d A.TST_STS F.TST_STS_DIAG = 1) (f : Dev → Dev) : tapDiag d f = f d := if_pos h

/-- INTRUSIVE is set and a record of it posted; the TAP stays. -/
theorem intrusive_sets (d : Dev) : (intrusive d).tst = d.tst ∧
    fget (intrusive d) A.TST_STS F.TST_STS_INTRUSIVE = 1 ∧ fget (intrusive d) A.TST_STS F.TST_STS_EXC = 0x5C ∧
    Leaves [.hst] testReports d (intrusive d) := by
  refine ⟨by rw [intrusive, tstRaise_tst, fset_tst], ?_, tstRaise_exc _ _ _ _ (by decide), ?_⟩
  · rw [intrusive, tstRaise_sts _ _ _ _ (by decide) (by decide), fget_fset_self _ _ _ _ (by decide)]
    rfl
  · exact ((leaves_fset d _ _ _ (by decide)).widen (by simp)).trans (leaves_tstRaise_info _ _ _)

/-- A diagnostic instruction with its instruction code, where `f` puts the instruction in force. -/
theorem intrusive_tap {d : Dev} {f : Dev → Dev} {k : Nat} (hk : (f d).tst.tap = k)
    (hf : Leaves [.clock, .tst] testReports d (f d)) : (intrusive (f d)).tst.tap = k ∧
    fget (intrusive (f d)) A.TST_STS F.TST_STS_INTRUSIVE = 1 ∧
    fget (intrusive (f d)) A.TST_STS F.TST_STS_EXC = 0x5C ∧
    Leaves [.clock, .hst, .tst] testReports d (intrusive (f d)) := by
  obtain ⟨htst, hintr, hexc, hleaves⟩ := intrusive_sets (f d)
  exact ⟨by rw [htst, hk], hintr, hexc, (hf.widen (by simp)).trans (hleaves.widen (by simp))⟩

/-- The instruction that a diagnostic command puts in force, with its code (R639). -/
theorem exec_diag {t : Nat} {op : Instr} {k : Nat} (s : State) (h : (op, k) ∈ [(Instr.extest t, 0x00), (.clamp t, 0x03),
    (.highz t, 0x04), (.extestPulse t, 0x05), (.extestTrain t, 0x06)]) :
    ∃ f : Dev → Dev, exec op s = .next { s with dev := tapDiag (tick s.dev t) fun d => intrusive (f d) } ∧
      ∀ d, (f d).tst.tap = k ∧ Leaves [.clock, .tst] testReports d (f d) := by
  simp only [List.mem_cons, Prod.mk.injEq, List.not_mem_nil, or_false] at h
  rcases h with ⟨rfl, rfl⟩ | ⟨rfl, rfl⟩ | ⟨rfl, rfl⟩ | ⟨rfl, rfl⟩ | ⟨rfl, rfl⟩
  · exact ⟨fun d => tapBoundary d 0x00, rfl, fun d => ⟨rfl, leaves_tapBoundary d _⟩⟩
  · exact ⟨fun d => tapSelect d 0x03 0, rfl, fun d => ⟨rfl, (leaves_tapSelect d _ _).widen (by simp)⟩⟩
  · exact ⟨fun d => tapSelect d 0x04 0, rfl, fun d => ⟨rfl, (leaves_tapSelect d _ _).widen (by simp)⟩⟩
  · exact ⟨fun d => tapBoundary d 0x05, rfl, fun d => ⟨rfl, leaves_tapBoundary d _⟩⟩
  · exact ⟨fun d => tapBoundary d 0x06, rfl, fun d => ⟨rfl, leaves_tapBoundary d _⟩⟩

/-- IJTAG opens its SIBs; an instrument marked intrusive sets INTRUSIVE. -/
theorem tapIjtag_opens (d : Dev) (sibs : Nat) (intr : Bool) : (tapIjtag d sibs intr).tst.tap = 0x10 ∧
    (tapIjtag d sibs intr).tst.sib = sibs ∧
    (intr = true → fget (tapIjtag d sibs intr) A.TST_STS F.TST_STS_INTRUSIVE = 1) ∧
    Leaves [.hst, .tst] testReports d (tapIjtag d sibs intr) := by
  have hsel : Leaves [.hst, .tst] testReports d (tapSelect (d.withTst { d.tst with sib := sibs }) 0x10 0) :=
    ((leaves_withTst d _).trans (leaves_tapSelect _ _ _)).widen (by simp)
  cases intr with
  | false => exact ⟨rfl, rfl, fun h => absurd h (by decide), hsel⟩
  | true =>
    obtain ⟨htst, hintr, -, hleaves⟩ := intrusive_sets (tapSelect (d.withTst { d.tst with sib := sibs }) 0x10 0)
    exact ⟨congrArg Tst.tap htst, congrArg Tst.sib htst, fun _ => hintr, hsel.trans (hleaves.widen (by simp))⟩

/-! ### Captures (R643 to R646) -/

section
variable {d : Dev} (desc : Nat)

theorem captureArm_busy (h : fget d A.TST_CAPSTS F.TST_CAPSTS_STATE = 1 ∨ fget d A.TST_CAPSTS F.TST_CAPSTS_STATE = 2) :
    captureArm d true desc = d := by simp only [captureArm, h, if_true]

/-- The package with a capture armed. -/
def captureArmed (d : Dev) (desc : Nat) : Dev :=
  fset (fset (fset d A.TST_CAP F.TST_CAP_DESC desc) A.TST_CAP F.TST_CAP_ARM 1) A.TST_CAPSTS F.TST_CAPSTS_STATE 1

theorem captureArm_arms (h1 : fget d A.TST_CAPSTS F.TST_CAPSTS_STATE ≠ 1)
    (h2 : fget d A.TST_CAPSTS F.TST_CAPSTS_STATE ≠ 2) : captureArm d true desc = captureArmed d desc := by
  simp only [captureArm, h1, h2, or_self, if_true, if_false]
  rfl

theorem captureArmed_armed (h : desc < 2 ^ 36) : fget (captureArmed d desc) A.TST_CAP F.TST_CAP_ARM = 1 ∧
    fget (captureArmed d desc) A.TST_CAP F.TST_CAP_DESC = desc ∧
    fget (captureArmed d desc) A.TST_CAPSTS F.TST_CAPSTS_STATE = 1 ∧
    Leaves [] (these [A.TST_CAP, A.TST_CAPSTS]) d (captureArmed d desc) := by
  refine ⟨?_, ?_, fget_fset_self _ _ _ _ (by decide), ?_⟩
  · rw [captureArmed, fget_fset_ne _ (by decide), fget_fset_self _ _ _ _ (by decide)]
    rfl
  · rw [captureArmed, fget_fset_ne _ (by decide), fget_fset_apart _ _ _ _ _ _ (by decide) (by decide) (by decide),
      fget_fset_self _ _ _ _ (by decide)]
    exact Nat.mod_eq_of_lt h
  · exact ((leaves_fset d _ _ _ (by decide)).trans (leaves_fset _ _ _ _ (by decide))).trans
      (leaves_fset _ _ _ _ (by decide))

/-- The package with a capture cancelled. -/
def captureCancelled (d : Dev) : Dev := capEnd (setSeq d fun q => { q with stepbHeld := false }) 2

theorem captureArm_cancels
    (h : fget d A.TST_CAPSTS F.TST_CAPSTS_STATE = 1 ∨ fget d A.TST_CAPSTS F.TST_CAPSTS_STATE = 2) :
    captureArm d false desc = captureCancelled d := by
  simp only [captureArm, h, if_true, Bool.false_eq_true, if_false]
  rfl

/-- A capture ends with its code, and is armed no longer. -/
theorem capEnd_ends (d : Dev) {code : Nat} (h : code < 4) :
    fget (capEnd d code) A.TST_CAPSTS F.TST_CAPSTS_STATE = 3 ∧
      fget (capEnd d code) A.TST_CAPSTS F.TST_CAPSTS_END = code ∧ fget (capEnd d code) A.TST_CAP F.TST_CAP_ARM = 0 ∧
      Leaves [.hst] (fun a => testReports a || these [A.TST_CAP, A.TST_CAPSTS] a) d (capEnd d code) := by
  refine ⟨?_, ?_, ?_, ?_⟩
  · rw [capEnd, (leaves_tstRaise_info _ _ _).2.fget (by decide), fget_fset_ne _ (by decide),
      fget_fset_apart _ _ _ _ _ _ (by decide) (by decide) (by decide), fget_fset_self _ _ _ _ (by decide)]
    rfl
  · rw [capEnd, (leaves_tstRaise_info _ _ _).2.fget (by decide), fget_fset_ne _ (by decide),
      fget_fset_self _ _ _ _ (by decide)]
    exact Nat.mod_eq_of_lt h
  · rw [capEnd, (leaves_tstRaise_info _ _ _).2.fget (by decide), fget_fset_self _ _ _ _ (by decide)]
    rfl
  · refine ((((leaves_fset d _ _ _ (by decide)).trans (leaves_fset _ _ _ _ (by decide))).trans
      (leaves_fset _ _ _ _ (by decide))).widen (by simp)).trans ((leaves_tstRaise_info _ _ _).weaken (by simp) ?_)
    intro a ha
    exact (Bool.or_eq_false_iff.1 ha).1

end

theorem captureCancelled_ends (d : Dev) : fget (captureCancelled d) A.TST_CAPSTS F.TST_CAPSTS_STATE = 3 ∧
    fget (captureCancelled d) A.TST_CAPSTS F.TST_CAPSTS_END = 2 ∧
    fget (captureCancelled d) A.TST_CAP F.TST_CAP_ARM = 0 ∧ (captureCancelled d).seq.stepbHeld = false ∧
    (captureCancelled d).mem = d.mem := by
  obtain ⟨hstate, hend, harm, hparts, -⟩ :=
    capEnd_ends (setSeq d fun q => { q with stepbHeld := false }) (code := 2) (by decide)
  have hseq : (captureCancelled d).seq = { d.seq with stepbHeld := false } := hparts .seq (by simp)
  refine ⟨hstate, hend, harm, by rw [hseq], ?_⟩
  rw [captureCancelled, capEnd, tstRaise_mem, fset_mem, fset_mem, fset_mem]
  rfl

theorem capBuf_eq_iff {d : Dev} {a b : Nat} : capBuf d = (a, b) ↔ d.tst.cap.base = a ∧ d.tst.cap.start = b := by
  rw [capBuf, Prod.mk.injEq]

theorem captureBaseDone_notHeld {d : Dev} (h : d.seq.stepbHeld = false) : captureBaseDone d = d := by
  simp only [captureBaseDone, h, Bool.not_false, if_true]

/-- The capture's buffer with the base in it, and the STEPB free. -/
def baseTaken (e : Dev) (c : CapDesc) (n : Nat) : Dev :=
  fset (setSeq (e.withTst { e.tst with cap := ⟨c.base, c.len, n, n, 0, []⟩ }) fun q => { q with stepbHeld := false })
    A.TST_CAPSTS F.TST_CAPSTS_USED (n / 2 ^ 20)

@[simp] theorem capBuf_baseTaken (e : Dev) (c : CapDesc) (n : Nat) : capBuf (baseTaken e c n) = (c.base, n) := by
  rw [baseTaken, capBuf_fset, capBuf_setSeq]
  rfl

theorem captureBaseDone_takes {d e : Dev} {n : Nat} (hheld : d.seq.stepbHeld = true) (hrec : d.seq.reclaimSeen = false)
    (hhold : d.seq.holdSeen = false) (hbase : baseWrite (settle d) (capDesc d) = (e, some n)) :
    captureBaseDone d = bundleIssue (baseTaken e (capDesc d) n) .main [] := by
  simp only [captureBaseDone, hheld, hrec, hhold, hbase, Bool.not_true, Bool.or_self, Bool.false_eq_true, if_false]
  rfl

/-! ### Replays (R647, R648) -/

theorem replayGo_ignored {d : Dev} (h : replayMode d = false ∨ blocksActive d ≠ []) : replayGo d = d := by
  refine if_pos ?_
  rcases h with h | h
  · simp [h]
  · simp [h]

/-- GO has been written: the base is read. -/
def replayBegun (d : Dev) : Dev := fset (fset d A.TST_RPL F.TST_RPL_STATE 1) A.TST_RPL F.TST_RPL_DIVERGE 0

/-- The base has been restored: the log is delivered from here on. -/
def replayRuns (r : Dev) (c : CapDesc) (n : Nat) : Dev :=
  setMach (fset (fset (r.withTst { r.tst with cap := ⟨c.base, c.len, n, n, 0, []⟩ }) A.TST_RPL F.TST_RPL_STATE 2)
    A.SID_STS F.SID_STS_STATE 0) fun m => { m with sidGood := 0 }

/-- A region of the base does not match. -/
def replayFails (d : Dev) : Dev := tstRaise (fset (replayBegun d) A.TST_RPL F.TST_RPL_STATE 3) 0x5F 0 0

theorem replayGo_goes {d : Dev} (hm : replayMode d = true) (hb : blocksActive d = []) : replayGo d =
    if (baseRead (replayBegun d) (capDesc d)).2 then replayRuns (baseRead (replayBegun d) (capDesc d)).1 (capDesc d)
      (baseBytes + ((capDesc d).regions.map regionBytes).foldl (· + ·) 0)
    else replayFails d := by
  have hgo : ¬ (!replayMode d || !(blocksActive d).isEmpty) = true := by simp [hm, hb]
  obtain ⟨read, hread⟩ : ∃ read, baseRead = read := ⟨_, rfl⟩
  rw [replayGo, if_neg hgo, hread]
  extract_lets c u
  change _ = if (read u c).2 then replayRuns (read u c).1 c _ else _
  rcases read u c with ⟨r, ok⟩
  cases ok with
  | false => rfl
  | true => rfl

theorem replayRuns_runs (r : Dev) (c : CapDesc) (n : Nat) : fget (replayRuns r c n) A.TST_RPL F.TST_RPL_STATE = 2 ∧
    (replayRuns r c n).mem = r.mem ∧ sidState (replayRuns r c n) = 0 ∧ (replayRuns r c n).tst.cap.base = c.base := by
  refine ⟨?_, rfl, ?_, rfl⟩
  · rw [replayRuns, fget_setMach, fget_fset_ne _ (by decide), fget_fset_self _ _ _ _ (by decide)]
    rfl
  · rw [replayRuns, sidState_setMach, sidState_fset_state]

theorem replayFails_fails (d : Dev) : fget (replayFails d) A.TST_RPL F.TST_RPL_STATE = 3 ∧
    (replayFails d).mem = d.mem ∧ fget (replayFails d) A.TST_STS F.TST_STS_EXC = 0x5F := by
  refine ⟨?_, ?_, tstRaise_exc _ _ _ _ (by decide)⟩
  · rw [replayFails, (leaves_tstRaise_info _ _ _).2.fget (by decide), fget_fset_self _ _ _ _ (by decide)]
    rfl
  · simp only [replayFails, replayBegun, tstRaise_mem, fset_mem]

/-- The replay runs on the base that was read, or ends with a record where a region does not match. -/
theorem replayGo_outcome {d e : Dev} (hm : replayMode d = true) (hb : blocksActive d = []) (he : e = replayBegun d) :
    fget (replayGo d) A.TST_RPL F.TST_RPL_STATE = (if (baseRead e (capDesc d)).2 then 2 else 3) ∧
      ((baseRead e (capDesc d)).2 = false →
        (replayGo d).mem = d.mem ∧ fget (replayGo d) A.TST_STS F.TST_STS_EXC = 0x5F) ∧
      ((baseRead e (capDesc d)).2 = true → (replayGo d).mem = (baseRead e (capDesc d)).1.mem ∧
        sidState (replayGo d) = 0 ∧ (replayGo d).tst.cap.base = (capDesc d).base) := by
  rw [replayGo_goes hm hb, ← he]
  obtain ⟨⟨r, ok⟩, hread⟩ : ∃ p, baseRead e (capDesc d) = p := ⟨_, rfl⟩
  rw [hread]
  cases ok with
  | false =>
    obtain ⟨hstate, hfails⟩ := replayFails_fails d
    exact ⟨hstate, fun _ => hfails, fun h => absurd h Bool.false_ne_true⟩
  | true =>
    obtain ⟨hstate, hruns⟩ := replayRuns_runs r (capDesc d)
      (baseBytes + ((capDesc d).regions.map regionBytes).foldl (· + ·) 0)
    exact ⟨hstate, fun h => absurd h.symm Bool.false_ne_true, fun _ => hruns⟩

theorem replayDeliver_idle {d : Dev} (h : replaying d = false) : replayDeliver d = d := by
  simp only [replayDeliver, h, Bool.not_false, if_true]

section
variable {d : Dev} (hr : replaying d = true)
include hr

theorem replayDeliver_ends (h : nextInput d (logBound d) d.tst.cap.pos d.tst.cap.num = none) :
    replayDeliver d = replayEnd d := by
  simp only [replayDeliver, hr, h, Bool.not_true, Bool.false_eq_true, if_false]

variable {num : Nat} {e : LogEntry} (h : nextInput d (logBound d) d.tst.cap.pos d.tst.cap.num = some (num, e))
include h

theorem replayDeliver_waits (hd : deliverable d e = false) : replayDeliver d = d := by
  simp only [replayDeliver, hr, h, hd, Bool.not_true, Bool.false_eq_true, if_false]

/-- The package with the log read up to the entry behind `e`. -/
def logAdvanced (d : Dev) (num : Nat) (e : LogEntry) : Dev :=
  d.withTst { d.tst with cap := { d.tst.cap with pos := e.next, num := num + 1 } }

omit hr h in
theorem deliverEntry_abort (hk : e.kind = 0x0B) (hw : bits (leAt e.data 0 8) 33 32 = 2) :
    deliverEntry d e = raiseAbort d (bits (leAt e.data 0 8) 31 0) := by
  simp only [deliverEntry, hk, hw]
  rfl

theorem replayDeliver_abort (hk : e.kind = 0x0B) (hw : bits (leAt e.data 0 8) 33 32 = 2) :
    replayDeliver d = raiseAbort (logAdvanced d num e) (bits (leAt e.data 0 8) 31 0) := by
  have hd : deliverable d e = true := by simp only [deliverable, hk]
  simp only [replayDeliver, hr, h, hd, Bool.not_true, Bool.false_eq_true, if_false, if_true]
  exact deliverEntry_abort hk hw

end

theorem replayEnd_ends (d : Dev) : fget (replayEnd d) A.TST_RPL F.TST_RPL_STATE = 3 ∧
    Leaves [] (these [A.TST_RPL]) d (replayEnd d) :=
  ⟨fget_fset_self _ _ _ _ (by decide), leaves_fset d _ _ _ (by decide)⟩

/-! ### The statement -/

/-- Settles O60: each command is one function of the package, whose branches are the cases of the statement. That the
bundle which the base of a capture sets free leaves the capture's buffer in place is `capBuf_bundleIssue`. -/
theorem auditsCapturesReplaysAndTap : Obligations.AuditsCapturesReplaysAndTap := by
  refine ⟨fun s => ⟨fun h => next_congr rfl (auditRun_outside h), fun h hidle => ?_,
      fun kind index value => ⟨fun h => ?_, fun h hkind hk hg => ?_, fun h hkind hp hv hc => ?_⟩, ?_, ?_, ?_⟩,
    fun t s => ⟨fun h => next_congr rfl (auditCompare_idle h), fun fs h => ⟨_, rfl, auditCompare_counts h⟩,
      fun op k hop => ?_, fun sibs intr => ⟨fun h => ?_, fun h => ?_⟩⟩,
    fun t s => ⟨fun desc => ⟨fun h => next_congr rfl (captureArm_busy _ h), fun h1 h2 => ?_, fun h => ?_⟩,
      fun h => next_congr rfl (captureBaseDone_notHeld h), fun e n hheld hrec hhold hbase => ?_,
      fun h => next_congr rfl (replayGo_ignored h), fun hm hb => ?_, fun h => next_congr rfl (replayDeliver_idle h),
      fun hr h => ?_, fun num e hr h => ⟨fun hd => next_congr rfl (replayDeliver_waits hr h hd), fun hk hw => ?_⟩⟩⟩
  · obtain ⟨hsome, hat, hbusy, hparts, hregs⟩ := audit_takes hidle (packageBooks s.dev ++ pwrBooks s.dev)
    exact ⟨_, next_congr rfl (auditRun_hold h), hsome, hat, hbusy, hparts, hregs⟩
  · exact ⟨_, next_congr rfl (pairCheck_outside h _ _ _), pairResult_result _ (by decide)⟩
  · subst hkind
    exact ⟨_, next_congr rfl (pairCheck_rill h hk hg), pairResult_result _ (by decide)⟩
  · subst hkind
    refine ⟨_, next_congr rfl (pairCheck_link h hp hv hc), ?_, hrmNote_exc _ 3 (by omega) (by decide)⟩
    exact ((auditKept_hrmNote _ _ _ _).fget _).trans (pairResult_result s.dev (by decide)).1
  · obtain ⟨hparts, hregs⟩ := leaves_tapSelect (p := fun _ => false) s.dev 0x02 idcodeWord
    exact ⟨_, rfl, rfl, rfl, hparts, hregs⟩
  · obtain ⟨hparts, hregs⟩ := leaves_tapSelect (p := fun _ => false) s.dev 0xFF 0
    exact ⟨_, rfl, rfl, rfl, hparts, hregs⟩
  · obtain ⟨hparts, hregs⟩ := leaves_tapBoundary (p := fun _ => false) s.dev 0x01
    exact ⟨_, rfl, rfl, rfl, hparts, hregs⟩
  · obtain ⟨f, hexec, hf⟩ := exec_diag s hop
    refine ⟨fun h => ?_, fun h => ?_⟩
    · obtain ⟨hparts, hregs⟩ := leaves_tapSelect (p := fun _ => false) (tick s.dev t) 0xFF 0
      exact ⟨_, next_congr hexec (tapDiag_off h _), rfl, hparts, hregs⟩
    · obtain ⟨htap, hintr, hexc, hparts, hregs⟩ := intrusive_tap (hf (tick s.dev t)).1 (hf (tick s.dev t)).2
      exact ⟨_, next_congr hexec (tapDiag_on h _), htap, hintr, hexc, hparts, hregs⟩
  · obtain ⟨hparts, hregs⟩ := leaves_tapSelect (p := fun _ => false) (tick s.dev t) 0xFF 0
    exact ⟨_, next_congr rfl (tapDiag_off h _), rfl, hparts, hregs⟩
  · obtain ⟨htap, hsib, hintr, hparts, hregs⟩ := tapIjtag_opens (tick s.dev t) sibs.toNat intr
    exact ⟨_, next_congr rfl (tapDiag_on h _), htap, hsib, hintr, hparts, hregs⟩
  · obtain ⟨harm, hdesc, hstate, hparts, hregs⟩ := captureArmed_armed (d := observe s.dev t) desc.toNat desc.isLt
    exact ⟨_, next_congr rfl (captureArm_arms _ h1 h2), harm, hdesc, hstate, hparts, hregs⟩
  · exact ⟨_, next_congr rfl (captureArm_cancels _ h), captureCancelled_ends _⟩
  · exact ⟨_, next_congr rfl (captureBaseDone_takes hheld hrec hhold hbase),
      capBuf_eq_iff.1 ((capBuf_bundleIssue _ _ _).trans (capBuf_baseTaken _ _ _))⟩
  · extract_lets e
    have he : e = replayBegun (observe s.dev t) := rfl
    clear_value e
    exact ⟨{ s with dev := replayGo (observe s.dev t) }, rfl, replayGo_outcome hm hb he⟩
  · obtain ⟨hstate, hparts, hregs⟩ := replayEnd_ends (observe s.dev t)
    exact ⟨_, next_congr rfl (replayDeliver_ends hr h), hstate, hparts, hregs⟩
  · obtain ⟨hparts, hregs⟩ : Leaves [.gov, .mach, .tst] (fun _ => false) (observe s.dev t)
        (raiseAbort (logAdvanced (observe s.dev t) num e) (bits (leAt e.data 0 8) 31 0)) :=
      ((leaves_withTst _ _).widen (by simp)).trans ((leaves_raiseAbort _ _).widen (by simp))
    exact ⟨_, next_congr rfl (replayDeliver_abort hr h hk hw), rfl, rfl, raiseAbort_abortStep _ _, hparts, hregs⟩

end Sys2Proof.Machine
end

section
/-! PROOFS. The queue, the state right after reset, memory, and the words of the slots of a bundle. -/

namespace Sys2Proof.Machine

/-! ### The queue and reset (log 2, R7, R23) -/

/-- Settles O1: `step` is defined by the front of the queue. -/
theorem stepRunsFrontCommand : Obligations.StepRunsFrontCommand := by
  unfold Obligations.StepRunsFrontCommand
  refine ⟨fun c rest s h => ?_, fun s h => ?_⟩
  · rw [step, h]
  · rw [step, h]

/-- Settles O2: every arm of `exec` answers the package changed by one function, with the queue as it was. -/
theorem everyCommandAnswersANextState : Obligations.EveryCommandAnswersANextState := by
  intro c s
  cases c
  all_goals exact ⟨_, rfl, rfl⟩

/-- A register that no row with a reset value other than zero holds is zero at reset (R7, R550). -/
theorem regReset_eq_zero {a : Nat} (h : ∀ r ∈ regRows, r.reset = 0 ∨ r.holds a = false) : regReset a = 0 := by
  unfold regReset
  split
  · next r hr =>
    obtain hz | hout := h r (List.mem_of_find?_eq_some hr)
    · rw [hz]; rfl
    · rw [regRow] at hr
      exact absurd (List.find?_some hr) (by simp [hout])
  · rfl

theorem RegRow.holds_iff (r : RegRow) (a : Nat) :
    r.holds a = true ↔ r.base ≤ a ∧ (a - r.base) % r.stride = 0 ∧ (a - r.base) / r.stride < r.count := by
  simp [RegRow.holds, and_assoc]

/-- A row holds no address beyond its last register, and none between two of its registers. -/
theorem RegRow.holds_of_missed {r : RegRow} {a : Nat} (hs : 0 < r.stride)
    (h : a < r.base ∨ r.base + r.stride * r.count ≤ a ∨ r.base % r.stride ≠ a % r.stride) : r.holds a = false := by
  rw [Bool.eq_false_iff, ne_eq, RegRow.holds_iff]
  rintro ⟨hbase, hmod, hcount⟩
  obtain hlow | hhigh | hres := h
  · omega
  · have := (Nat.div_lt_iff_lt_mul hs).1 hcount
    rw [Nat.mul_comm] at this
    omega
  · exact hres ((Nat.modEq_iff_dvd' hbase).2 (Nat.dvd_of_mod_eq_zero hmod))

/-- The addresses from `lo` up to `hi` that leave the rest `m` modulo `k`. -/
structure Progression where
  lo : Nat
  hi : Nat
  k : Nat
  m : Nat

/-- A row of the register map holds none of these addresses. -/
def RegRow.misses (r : RegRow) (p : Progression) : Prop :=
  0 < r.stride ∧ (p.hi ≤ r.base ∨ r.base + r.stride * r.count ≤ p.lo ∨ r.stride = p.k ∧ r.base % p.k ≠ p.m)

theorem RegRow.misses.holds {r : RegRow} {p : Progression} (h : r.misses p) {a : Nat} (hlo : p.lo ≤ a) (hhi : a < p.hi)
    (hm : a % p.k = p.m) : r.holds a = false := by
  obtain ⟨hs, hout⟩ := h
  refine RegRow.holds_of_missed hs ?_
  obtain hlow | hhigh | ⟨hk, hres⟩ := hout
  · omega
  · omega
  · exact .inr (.inr (by rw [hk, hm]; exact hres))

theorem regReset_eq_zero_of_misses {a : Nat} (p : Progression) (hrows : ∀ r ∈ regRows, r.reset = 0 ∨ r.misses p)
    (hlo : p.lo ≤ a) (hhi : a < p.hi) (hm : a % p.k = p.m) : regReset a = 0 :=
  regReset_eq_zero fun r hr => (hrows r hr).imp_right fun h => h.holds hlo hhi hm

/-- The status register of every block is zero at reset: STOPPED, no start counted (R24, R25). -/
theorem regReset_stsAddr {b : Blk} (hb : b.wf = true) : regReset (stsAddr b) = 0 := by
  cases b
  case seq => decide
  case cas h => cases h <;> decide
  case jet h => cases h <;> decide
  case ril n =>
    have hn : n < 4096 := of_decide_eq_true hb
    refine regReset_eq_zero_of_misses ⟨0x810008, 0x850008, 0x40, 8⟩ (by unfold RegRow.misses; decide +kernel) ?_ ?_ ?_
    all_goals simp only [stsAddr, A.RIL_CSTS]; omega
  case eph => decide
  case wei h => cases h <;> decide
  case ast h => cases h <;> decide
  case aqd h c =>
    have hc : c < 32 := of_decide_eq_true hb
    cases h
    · refine regReset_eq_zero_of_misses ⟨0x1701008, 0x1701408, 0x20, 8⟩ (by unfold RegRow.misses; decide +kernel) ?_ ?_ ?_
      all_goals simp only [stsAddr, A.AQD_CHSTS, hn]; omega
    · refine regReset_eq_zero_of_misses ⟨0x2701008, 0x2701408, 0x20, 8⟩ (by unfold RegRow.misses; decide +kernel) ?_ ?_ ?_
      all_goals simp only [stsAddr, A.AQD_CHSTS, hn]; omega
  case hrm p =>
    have hp : p < 8 := of_decide_eq_true hb
    refine regReset_eq_zero_of_misses ⟨0x600008, 0x700008, 0x20000, 8⟩ (by unfold RegRow.misses; decide +kernel) ?_ ?_ ?_
    all_goals simp only [stsAddr, A.HRM_PSTS]; omega
  case col => decide
  case ring n =>
    have hn : n < 256 := of_decide_eq_true hb
    refine regReset_eq_zero_of_misses ⟨0x110020, 0x114020, 0x40, 0x20⟩ (by unfold RegRow.misses; decide +kernel) ?_ ?_ ?_
    all_goals simp only [stsAddr, A.HST_RSTS]; omega

/-- A register that one row holds, whose reset value every row that may hold it gives (R7). -/
theorem regReset_eq_of_rows {a v : Nat} (p : Progression) (hrows : ∀ r ∈ regRows, r.reset = v ∨ r.misses p)
    (hlo : p.lo ≤ a) (hhi : a < p.hi) (hm : a % p.k = p.m) (hsome : ∃ r ∈ regRows, r.holds a = true) :
    regReset a = BitVec.ofNat 64 v := by
  unfold regReset
  split
  · next r hr =>
    obtain hv | hout := hrows r (List.mem_of_find?_eq_some hr)
    · rw [hv]
    · rw [regRow] at hr
      exact absurd (List.find?_some hr) (by simp [hout.holds hlo hhi hm])
  · next hnone =>
    obtain ⟨r, hr, hholds⟩ := hsome
    exact absurd hholds (List.find?_eq_none.1 hnone r hr)

/-- Every counter of the halves is deselected at reset (R365). -/
theorem regReset_cntSel {h n : Nat} (hh : h < 2) (hn : n < 64) : regReset (A.CNT_SEL h n) = 0xFFF := by
  obtain rfl | rfl : h = 0 ∨ h = 1 := by omega
  · refine regReset_eq_of_rows ⟨0x1900100, 0x1900300, 8, 0⟩ (by unfold RegRow.misses; decide +kernel) ?_ ?_ ?_
      ⟨⟨0x1900100, 0x40, 8, 0xFFF, 0x6FF0FFF, 0⟩, by decide +kernel, (RegRow.holds_iff _ _).2 ?_⟩
    all_goals simp only [A.CNT_SEL]; omega
  · refine regReset_eq_of_rows ⟨0x2900100, 0x2900300, 8, 0⟩ (by unfold RegRow.misses; decide +kernel) ?_ ?_ ?_
      ⟨⟨0x2900100, 0x40, 8, 0xFFF, 0x6FF0FFF, 0⟩, by decide +kernel, (RegRow.holds_iff _ _).2 ?_⟩
    all_goals simp only [A.CNT_SEL]; omega

theorem regGet_reset (a : Nat) : regGet State.reset.dev a = regReset a := rfl

/-- Settles O3: at reset a register reads as its row of the register map says. -/
theorem resetLeavesTheSpecsValues : Obligations.ResetLeavesTheSpecsValues := by
  refine ⟨fun b hb => ?_, fun h n hh hn => ?_, fun s => by cases s <;> rfl, rfl, rfl, rfl⟩
  · simp only [blkState, stOf, fget, regGet_reset, regReset_stsAddr hb]
    decide
  · rw [fget, regGet_reset, regReset_cntSel hh hn]
    decide

/-- Settles O4. -/
theorem resetIsSound : Obligations.ResetIsSound := by
  obtain ⟨hmem, hnv, hnext, hhost⟩ := reset_memories_wf
  simp only [Obligations.ResetIsSound, State.wf, hmem, hnv, hnext, hhost, Bool.and_self]

/-- Settles O6, by the laws of stored runs of bytes. -/
theorem memoryReadsBackWhatWasStored : Obligations.MemoryReadsBackWhatWasStored :=
  fun m a bs => ⟨memRead_memWrite m a bs, fun b hb => memGet_memWrite_out m b a bs hb, memWrite_wf m a bs⟩

end Sys2Proof.Machine
end

section
/-! PROOFS. Slot words and slot ops correspond one to one (R48, R156, R216, R261, R285, R327, R360, R425). -/

namespace Sys2Proof.Machine

/-! ### Every op is spelled by its word -/

theorem decode_encode_cas (op : CasOp) : decodeCas (encodeCas op) = some op := by
  cases op
  all_goals
    simp (disch := omega) only [encodeCas, decodeCas, extract_append_lo, extract_append_hi, extract_all,
      BitVec.toNat_ofNat, Nat.reduceMod, Nat.reducePow, Nat.reduceSub, Nat.sub_self, if_true]

theorem decode_encode_jet (op : JetOp) : decodeJet (encodeJet op) = some op := by
  cases op
  all_goals
    simp (disch := omega) only [encodeJet, decodeJet, extract_append_lo, extract_append_hi, extract_all,
      BitVec.toNat_ofNat, Nat.reduceMod, Nat.reducePow, Nat.reduceSub, Nat.sub_self, if_true]

theorem decode_encode_ril (op : RilOp) : decodeRil (encodeRil op) = some op := by
  cases op
  all_goals
    simp (disch := omega) only [encodeRil, decodeRil, extract_append_lo, extract_append_hi, extract_all,
      BitVec.toNat_ofNat, Nat.reduceMod, Nat.reducePow, Nat.reduceSub, Nat.sub_self, and_self, if_true]

theorem decode_encode_eph (op : EphOp) : decodeEph (encodeEph op) = some op := by
  cases op
  all_goals
    simp (disch := omega) only [encodeEph, decodeEph, extract_append_lo, extract_append_hi, extract_all,
      BitVec.toNat_ofNat, Nat.reduceMod, Nat.reducePow, Nat.reduceSub, Nat.sub_self, if_true]

theorem decode_encode_wei (op : WeiOp) : decodeWei (encodeWei op) = some op := by
  cases op
  all_goals
    simp (disch := omega) only [encodeWei, decodeWei, extract_append_lo, extract_append_hi, extract_all,
      BitVec.toNat_ofNat, Nat.reduceMod, Nat.reducePow, Nat.reduceSub, Nat.sub_self]

theorem decode_encode_ast (op : AstOp) : decodeAst (encodeAst op) = some op := by
  cases op
  all_goals
    simp (disch := omega) only [encodeAst, decodeAst, extract_append_lo, extract_append_hi, extract_all,
      BitVec.toNat_ofNat, Nat.reduceMod, Nat.reducePow, Nat.reduceSub, Nat.sub_self, if_true]

theorem decode_encode_aqd (op : AqdOp) : decodeAqd (encodeAqd op) = some op := by
  cases op
  simp (disch := omega) only [encodeAqd, decodeAqd, extract_append_lo, extract_append_hi, extract_all,
    BitVec.toNat_ofNat, Nat.reduceMod, Nat.reducePow, Nat.reduceSub, Nat.sub_self, if_true]

/-! ### Every word that spells an op is that op's word -/

/-- Two runs of bits of a word that meet make one run. -/
theorem extract_append_extract {n : Nat} (w : BitVec n) (s l k t : Nat) (h : t = s + l) :
    w.extractLsb' t k ++ w.extractLsb' s l = w.extractLsb' s (k + l) := by
  subst h
  apply BitVec.eq_of_getLsbD_eq
  intro i hi
  simp only [BitVec.getLsbD_extractLsb', BitVec.getLsbD_append]
  by_cases h : i < l
  · simp [h, hi]
  · have h1 : i - l < k := by omega
    have h2 : s + l + (i - l) = s + i := by omega
    simp [h, hi, h1, h2]

theorem ofNat_of_toNat_eq {n k : Nat} {x : BitVec n} (h : x.toNat = k) : BitVec.ofNat n k = x := by
  rw [← h, BitVec.ofNat_toNat, BitVec.setWidth_eq]

theorem encode_of_decode_cas {w : BitVec 48} {op : CasOp} (h : decodeCas w = some op) : encodeCas op = w := by
  unfold decodeCas at h
  split at h
  case h_9 => exact nomatch h
  all_goals
    next hop =>
    obtain ⟨hz, ⟨⟩⟩ := Option.ite_none_right_eq_some.1 h
    simp (disch := omega) only [encodeCas, ofNat_of_toNat_eq hop, ← hz, extract_append_extract]
    exact extract_all w

theorem encode_of_decode_jet {w : BitVec 40} {op : JetOp} (h : decodeJet w = some op) : encodeJet op = w := by
  unfold decodeJet at h
  split at h
  case h_13 => exact nomatch h
  all_goals
    next hop =>
    obtain ⟨hz, ⟨⟩⟩ := Option.ite_none_right_eq_some.1 h
    simp (disch := omega) only [encodeJet, ofNat_of_toNat_eq hop, ← hz, extract_append_extract]
    exact extract_all w

theorem encode_of_decode_eph {w : BitVec 16} {op : EphOp} (h : decodeEph w = some op) : encodeEph op = w := by
  unfold decodeEph at h
  split at h
  case h_6 => exact nomatch h
  all_goals
    next hop =>
    obtain ⟨hz, ⟨⟩⟩ := Option.ite_none_right_eq_some.1 h
    simp (disch := omega) only [encodeEph, ofNat_of_toNat_eq hop, ← hz, extract_append_extract]
    exact extract_all w

theorem encode_of_decode_ast {w : BitVec 16} {op : AstOp} (h : decodeAst w = some op) : encodeAst op = w := by
  unfold decodeAst at h
  split at h
  case h_6 => exact nomatch h
  all_goals
    next hop =>
    obtain ⟨hz, ⟨⟩⟩ := Option.ite_none_right_eq_some.1 h
    simp (disch := omega) only [encodeAst, ofNat_of_toNat_eq hop, ← hz, extract_append_extract]
    exact extract_all w

theorem encode_of_decode_aqd {w : BitVec 40} {op : AqdOp} (h : decodeAqd w = some op) : encodeAqd op = w := by
  unfold decodeAqd at h
  split at h
  case h_2 => exact nomatch h
  all_goals
    next hop =>
    obtain ⟨hz, ⟨⟩⟩ := Option.ite_none_right_eq_some.1 h
    simp (disch := omega) only [encodeAqd, ofNat_of_toNat_eq hop, ← hz, extract_append_extract]
    exact extract_all w

theorem encode_of_decode_wei {w : BitVec 32} {op : WeiOp} (h : decodeWei w = some op) : encodeWei op = w := by
  unfold decodeWei at h
  split at h
  case h_3 => exact nomatch h
  all_goals
    next hop =>
    cases h
    simp (disch := omega) only [encodeWei, ofNat_of_toNat_eq hop, extract_append_extract]
    exact extract_all w

theorem encode_of_decode_ril {w : BitVec 48} {op : RilOp} (h : decodeRil w = some op) : encodeRil op = w := by
  unfold decodeRil at h
  split at h
  case h_4 => exact nomatch h
  case h_2 hop =>
    obtain ⟨⟨hmid, hz⟩, ⟨⟩⟩ := Option.ite_none_right_eq_some.1 h
    simp (disch := omega) only [encodeRil, ofNat_of_toNat_eq hop, ← hmid, ← hz, extract_append_extract]
    exact extract_all w
  all_goals
    next hop =>
    obtain ⟨hz, ⟨⟩⟩ := Option.ite_none_right_eq_some.1 h
    simp (disch := omega) only [encodeRil, ofNat_of_toNat_eq hop, ← hz, extract_append_extract]
    exact extract_all w

theorem encode_of_decode_ctl {w : BitVec 64} {op : CtlOp} (h : decodeCtl w = some op) : encodeCtl op = w := by
  unfold decodeCtl at h
  split at h
  case h_20 => exact nomatch h
  case h_1 hop =>
    obtain ⟨hz, ⟨⟩⟩ := Option.ite_none_right_eq_some.1 h
    have hword : 0#6 ++ 0#58 = w := by
      simp (disch := omega) only [ofNat_of_toNat_eq hop, ← hz, extract_append_extract]
      exact extract_all w
    exact hword
  case h_2 hop | h_7 hop | h_8 hop =>
    obtain ⟨⟨hmid, hz⟩, ⟨⟩⟩ := Option.ite_none_right_eq_some.1 h
    simp (disch := omega) only [encodeCtl, ofNat_of_toNat_eq hop, ← hmid, ← hz, extract_append_extract]
    exact extract_all w
  all_goals
    next hop =>
    obtain ⟨hz, ⟨⟩⟩ := Option.ite_none_right_eq_some.1 h
    simp (disch := omega) only [encodeCtl, ofNat_of_toNat_eq hop, ← hz, extract_append_extract]
    exact extract_all w

/-- Settles O7: an op's word spells it, and a word that spells an op is put together again from the fields the op took. -/
theorem slotWordsAndOpsCorrespond : Obligations.SlotWordsAndOpsCorrespond :=
  ⟨fun _ op => ⟨encode_of_decode_ctl, fun h => h ▸ decode_encode_ctl op⟩,
    fun _ op => ⟨encode_of_decode_cas, fun h => h ▸ decode_encode_cas op⟩,
    fun _ op => ⟨encode_of_decode_jet, fun h => h ▸ decode_encode_jet op⟩,
    fun _ op => ⟨encode_of_decode_ril, fun h => h ▸ decode_encode_ril op⟩,
    fun _ op => ⟨encode_of_decode_aqd, fun h => h ▸ decode_encode_aqd op⟩,
    fun _ op => ⟨encode_of_decode_wei, fun h => h ▸ decode_encode_wei op⟩,
    fun _ op => ⟨encode_of_decode_eph, fun h => h ▸ decode_encode_eph op⟩,
    fun _ op => ⟨encode_of_decode_ast, fun h => h ▸ decode_encode_ast op⟩⟩

end Sys2Proof.Machine
end

section
/-! PROOFS. Frames as a calculus: an update inside a frame can be dropped from its right side. Then the enable rule of the
blocks (01, R23 to R29). -/

namespace Sys2Proof.Machine

/-! ### Frames from which updates can be dropped -/

theorem Piece.same_symm {d e : Dev} {x : Piece} (h : x.same d e) : x.same e d := by
  cases x
  case mem => exact fun a => (h a).symm
  case nv => exact fun a => ⟨(h a).1.symm, (h a).2.symm⟩
  case clock => exact ⟨h.1.symm, h.2.1.symm, h.2.2.symm⟩
  case gov => exact ⟨h.1.symm, h.2.symm⟩
  all_goals exact Eq.symm h

theorem Leaves.symm {ps : List Piece} {p : Nat → Bool} {d e : Dev} (h : Leaves ps p d e) : Leaves ps p e d :=
  ⟨fun x hx => Piece.same_symm (h.1 x hx), fun a ha => (h.2 a ha).symm⟩

/-- A step inside a frame makes no difference to it. -/
theorem Leaves.drop {ps qs : List Piece} {p q : Nat → Bool} {d e f : Dev} (h : Leaves qs q e f) (hps : qs ⊆ ps)
    (hpq : ∀ a, p a = false → q a = false) : Leaves ps p d f ↔ Leaves ps p d e :=
  ⟨fun g => g.trans (h.weaken hps hpq).symm, fun g => g.trans (h.weaken hps hpq)⟩

section
variable {ps : List Piece} {p : Nat → Bool} {d e : Dev}

@[simp] theorem leaves_self : Leaves ps p d d := Leaves.refl ps p d

@[simp] theorem leaves_regSet_iff {a : Nat} {v : W64} (h : p a = true) : Leaves ps p d (regSet e a v) ↔ Leaves ps p d e :=
  (leaves_regSet e a v h).drop (by simp) fun _ => id

@[simp] theorem leaves_fset_iff {a : Nat} {f : Fld} {v : Nat} (h : p a = true) :
    Leaves ps p d (fset e a f v) ↔ Leaves ps p d e := leaves_regSet_iff h

@[simp] theorem leaves_finc_iff {a : Nat} {f : Fld} {v : Nat} (h : p a = true) :
    Leaves ps p d (finc e a f v) ↔ Leaves ps p d e := leaves_regSet_iff h

@[simp] theorem leaves_fincSat_iff {a : Nat} {f : Fld} {v : Nat} (h : p a = true) :
    Leaves ps p d (fincSat e a f v) ↔ Leaves ps p d e := leaves_regSet_iff h

/-- A frame speaks of the fields of the package one by one, so an update of one part is inside every frame that names
the part. -/
theorem leaves_part {f : Dev} (x : Piece) (hx : x ∈ ps) (hregs : f.regs = e.regs) (hparts : ∀ y, y ≠ x → y.same e f) :
    Leaves ps p d f ↔ Leaves ps p d e :=
  Leaves.drop (qs := [x]) (q := fun _ => false)
    ⟨fun y hy => hparts y (by simpa using hy), keepsRegs_of_regs hregs⟩ (by simpa using hx) fun _ _ => rfl

@[simp] theorem leaves_withLive_iff {v} (h : Piece.live ∈ ps) : Leaves ps p d (e.withLive v) ↔ Leaves ps p d e :=
  leaves_part .live h rfl fun y hy => by cases y <;> simp_all [Piece.same]

@[simp] theorem leaves_withMem_iff {v} (h : Piece.mem ∈ ps) : Leaves ps p d (e.withMem v) ↔ Leaves ps p d e :=
  leaves_part .mem h rfl fun y hy => by cases y <;> simp_all [Piece.same]

@[simp] theorem leaves_withPend_iff {v} (h : Piece.gov ∈ ps) : Leaves ps p d (e.withPend v) ↔ Leaves ps p d e :=
  leaves_part .gov h rfl fun y hy => by cases y <;> simp_all [Piece.same]

@[simp] theorem leaves_withSeq_iff {v} (h : Piece.seq ∈ ps) : Leaves ps p d (e.withSeq v) ↔ Leaves ps p d e :=
  leaves_part .seq h rfl fun y hy => by cases y <;> simp_all [Piece.same]

@[simp] theorem leaves_withCas_iff {v} (h : Piece.cas ∈ ps) : Leaves ps p d (e.withCas v) ↔ Leaves ps p d e :=
  leaves_part .cas h rfl fun y hy => by cases y <;> simp_all [Piece.same]

@[simp] theorem leaves_withJet_iff {v} (h : Piece.jet ∈ ps) : Leaves ps p d (e.withJet v) ↔ Leaves ps p d e :=
  leaves_part .jet h rfl fun y hy => by cases y <;> simp_all [Piece.same]

@[simp] theorem leaves_withAst_iff {v} (h : Piece.ast ∈ ps) : Leaves ps p d (e.withAst v) ↔ Leaves ps p d e :=
  leaves_part .ast h rfl fun y hy => by cases y <;> simp_all [Piece.same]

@[simp] theorem leaves_withEphRes_iff {v} (h : Piece.ephRes ∈ ps) : Leaves ps p d (e.withEphRes v) ↔ Leaves ps p d e :=
  leaves_part .ephRes h rfl fun y hy => by cases y <;> simp_all [Piece.same]

@[simp] theorem leaves_withRvrUse_iff {v} (h : Piece.rvrUse ∈ ps) : Leaves ps p d (e.withRvrUse v) ↔ Leaves ps p d e :=
  leaves_part .rvrUse h rfl fun y hy => by cases y <;> simp_all [Piece.same]

@[simp] theorem leaves_withEph_iff {v} (h : Piece.eph ∈ ps) : Leaves ps p d (e.withEph v) ↔ Leaves ps p d e :=
  leaves_part .eph h rfl fun y hy => by cases y <;> simp_all [Piece.same]

@[simp] theorem leaves_withRil_iff {v} (h : Piece.ril ∈ ps) : Leaves ps p d (e.withRil v) ↔ Leaves ps p d e :=
  leaves_part .ril h rfl fun y hy => by cases y <;> simp_all [Piece.same]

@[simp] theorem leaves_withWei_iff {v} (h : Piece.wei ∈ ps) : Leaves ps p d (e.withWei v) ↔ Leaves ps p d e :=
  leaves_part .wei h rfl fun y hy => by cases y <;> simp_all [Piece.same]

@[simp] theorem leaves_withAqd_iff {v} (h : Piece.aqd ∈ ps) : Leaves ps p d (e.withAqd v) ↔ Leaves ps p d e :=
  leaves_part .aqd h rfl fun y hy => by cases y <;> simp_all [Piece.same]

@[simp] theorem leaves_withDrainAt_iff {v} (h : Piece.drain ∈ ps) : Leaves ps p d (e.withDrainAt v) ↔ Leaves ps p d e :=
  leaves_part .drain h rfl fun y hy => by cases y <;> simp_all [Piece.same]

@[simp] theorem leaves_withPorts_iff {v} (h : Piece.ports ∈ ps) : Leaves ps p d (e.withPorts v) ↔ Leaves ps p d e :=
  leaves_part .ports h rfl fun y hy => by cases y <;> simp_all [Piece.same]

@[simp] theorem leaves_withMach_iff {v} (h : Piece.mach ∈ ps) : Leaves ps p d (e.withMach v) ↔ Leaves ps p d e :=
  leaves_part .mach h rfl fun y hy => by cases y <;> simp_all [Piece.same]

@[simp] theorem leaves_withHst_iff {v} (h : Piece.hst ∈ ps) : Leaves ps p d (e.withHst v) ↔ Leaves ps p d e :=
  leaves_part .hst h rfl fun y hy => by cases y <;> simp_all [Piece.same]

@[simp] theorem leaves_withMs_iff {v} (h : Piece.ms ∈ ps) : Leaves ps p d (e.withMs v) ↔ Leaves ps p d e :=
  leaves_part .ms h rfl fun y hy => by cases y <;> simp_all [Piece.same]

@[simp] theorem leaves_withPwr_iff {v} (h : Piece.pwr ∈ ps) : Leaves ps p d (e.withPwr v) ↔ Leaves ps p d e :=
  leaves_part .pwr h rfl fun y hy => by cases y <;> simp_all [Piece.same]

@[simp] theorem leaves_withTst_iff {v} (h : Piece.tst ∈ ps) : Leaves ps p d (e.withTst v) ↔ Leaves ps p d e :=
  leaves_part .tst h rfl fun y hy => by cases y <;> simp_all [Piece.same]

@[simp] theorem leaves_setPwr_iff {f : Pwr → Pwr} (h : Piece.pwr ∈ ps) : Leaves ps p d (setPwr e f) ↔ Leaves ps p d e :=
  leaves_withPwr_iff h

@[simp] theorem leaves_setMach_iff {f : Mach → Mach} (h : Piece.mach ∈ ps) :
    Leaves ps p d (setMach e f) ↔ Leaves ps p d e := leaves_withMach_iff h

@[simp] theorem leaves_setSeq_iff {f : Seq → Seq} (h : Piece.seq ∈ ps) : Leaves ps p d (setSeq e f) ↔ Leaves ps p d e :=
  leaves_withSeq_iff h

@[simp] theorem leaves_setStrand_iff {s : StrandId} {x : Strand} (h : Piece.seq ∈ ps) :
    Leaves ps p d (setStrand e s x) ↔ Leaves ps p d e := (leaves_setStrand e s x).drop (by simpa using h) fun _ => id

@[simp] theorem leaves_govSet_iff {k : GovKey} {v : Nat} (h : Piece.gov ∈ ps) :
    Leaves ps p d (govSet e k v) ↔ Leaves ps p d e := (leaves_govSet e k v).drop (by simpa using h) fun _ => id

@[simp] theorem leaves_latch_iff {as : List Nat} (h : Piece.live ∈ ps) : Leaves ps p d (latch e as) ↔ Leaves ps p d e :=
  leaves_withLive_iff h

@[simp] theorem leaves_latchRange_iff {lo hi : Nat} (h : Piece.live ∈ ps) :
    Leaves ps p d (latchRange e lo hi) ↔ Leaves ps p d e := leaves_withLive_iff h

@[simp] theorem leaves_drainBegins_iff {sts : Nat} (hp : p sts = true) (h : Piece.drain ∈ ps) :
    Leaves ps p d (drainBegins e sts) ↔ Leaves ps p d e := by
  rw [drainBegins, leaves_fset_iff hp, leaves_withDrainAt_iff h]

@[simp] theorem leaves_startCommon_iff {b : Blk} (hp : p (stsAddr b) = true) :
    Leaves ps p d (startCommon e b) ↔ Leaves ps p d e := by
  rw [startCommon, leaves_fset_iff hp, leaves_finc_iff hp]

@[simp] theorem leaves_drainedCommon_iff {b : Blk} (hp : p (stsAddr b) = true) :
    Leaves ps p d (drainedCommon e b) ↔ Leaves ps p d e := by
  rw [drainedCommon, leaves_fset_iff hp, leaves_fset_iff hp]

end

/-! ### Registers do not see the other parts -/

@[simp] theorem fget_withNow (d : Dev) (v) (a : Nat) (f : Fld) : fget (d.withNow v) a f = fget d a f := rfl
@[simp] theorem fget_withLive (d : Dev) (v) (a : Nat) (f : Fld) : fget (d.withLive v) a f = fget d a f := rfl
@[simp] theorem fget_withMem (d : Dev) (v) (a : Nat) (f : Fld) : fget (d.withMem v) a f = fget d a f := rfl
@[simp] theorem fget_withNv (d : Dev) (v) (a : Nat) (f : Fld) : fget (d.withNv v) a f = fget d a f := rfl
@[simp] theorem fget_withNvNext (d : Dev) (v) (a : Nat) (f : Fld) : fget (d.withNvNext v) a f = fget d a f := rfl
@[simp] theorem fget_withPend (d : Dev) (v) (a : Nat) (f : Fld) : fget (d.withPend v) a f = fget d a f := rfl
@[simp] theorem fget_withObs (d : Dev) (v) (a : Nat) (f : Fld) : fget (d.withObs v) a f = fget d a f := rfl
@[simp] theorem fget_withSeq (d : Dev) (v) (a : Nat) (f : Fld) : fget (d.withSeq v) a f = fget d a f := rfl
@[simp] theorem fget_withCas (d : Dev) (v) (a : Nat) (f : Fld) : fget (d.withCas v) a f = fget d a f := rfl
@[simp] theorem fget_withJet (d : Dev) (v) (a : Nat) (f : Fld) : fget (d.withJet v) a f = fget d a f := rfl
@[simp] theorem fget_withAst (d : Dev) (v) (a : Nat) (f : Fld) : fget (d.withAst v) a f = fget d a f := rfl
@[simp] theorem fget_withEphRes (d : Dev) (v) (a : Nat) (f : Fld) : fget (d.withEphRes v) a f = fget d a f := rfl
@[simp] theorem fget_withRvrUse (d : Dev) (v) (a : Nat) (f : Fld) : fget (d.withRvrUse v) a f = fget d a f := rfl
@[simp] theorem fget_withEph (d : Dev) (v) (a : Nat) (f : Fld) : fget (d.withEph v) a f = fget d a f := rfl
@[simp] theorem fget_withRil (d : Dev) (v) (a : Nat) (f : Fld) : fget (d.withRil v) a f = fget d a f := rfl
@[simp] theorem fget_withWei (d : Dev) (v) (a : Nat) (f : Fld) : fget (d.withWei v) a f = fget d a f := rfl
@[simp] theorem fget_withAqd (d : Dev) (v) (a : Nat) (f : Fld) : fget (d.withAqd v) a f = fget d a f := rfl
@[simp] theorem fget_withDrainAt (d : Dev) (v) (a : Nat) (f : Fld) : fget (d.withDrainAt v) a f = fget d a f := rfl
@[simp] theorem fget_withPorts (d : Dev) (v) (a : Nat) (f : Fld) : fget (d.withPorts v) a f = fget d a f := rfl
@[simp] theorem fget_withMach (d : Dev) (v) (a : Nat) (f : Fld) : fget (d.withMach v) a f = fget d a f := rfl
@[simp] theorem fget_withHst (d : Dev) (v) (a : Nat) (f : Fld) : fget (d.withHst v) a f = fget d a f := rfl
@[simp] theorem fget_withMs (d : Dev) (v) (a : Nat) (f : Fld) : fget (d.withMs v) a f = fget d a f := rfl
@[simp] theorem fget_withPwr (d : Dev) (v) (a : Nat) (f : Fld) : fget (d.withPwr v) a f = fget d a f := rfl
@[simp] theorem fget_withTst (d : Dev) (v) (a : Nat) (f : Fld) : fget (d.withTst v) a f = fget d a f := rfl
@[simp] theorem fget_withMgt (d : Dev) (v) (a : Nat) (f : Fld) : fget (d.withMgt v) a f = fget d a f := rfl
@[simp] theorem fget_setSeq (d : Dev) (g : Seq → Seq) (a : Nat) (f : Fld) : fget (setSeq d g) a f = fget d a f := rfl
@[simp] theorem fget_latch (d : Dev) (as : List Nat) (a : Nat) (f : Fld) : fget (latch d as) a f = fget d a f := rfl
@[simp] theorem fget_latchRange (d : Dev) (lo hi a : Nat) (f : Fld) : fget (latchRange d lo hi) a f = fget d a f := rfl

/-! ### The enable rule (R25, R26) -/

theorem stsAddr_ne_ctlAddr (b : Blk) : stsAddr b ≠ ctlAddr b := by
  cases b
  case seq | eph | col => decide
  case cas h | jet h | wei h | ast h => cases h <;> decide
  case ril n => simp only [stsAddr, ctlAddr, A.RIL_CSTS, A.RIL_CCTL]; omega
  case aqd h c => simp only [stsAddr, ctlAddr, A.AQD_CHSTS, A.AQD_CHCTL]; omega
  case hrm p => simp only [stsAddr, ctlAddr, A.HRM_PSTS, A.HRM_PCTL]; omega
  case ring n => simp only [stsAddr, ctlAddr, A.HST_RSTS, A.HST_RCFG]; omega

theorem blkState_fset_ctl (d : Dev) (b : Blk) (f : Fld) (v : Nat) :
    blkState (fset d (ctlAddr b) f v) b = blkState d b := fget_fset_ne d (stsAddr_ne_ctlAddr b) f _ v

section
variable (d : Dev) (b : Blk)

@[simp] theorem blkState_startCommon : blkState (startCommon d b) b = 1 := fget_fset_self _ _ _ _ (by decide)

/-- A start counts, and touches no other field than the count and the state (R26). -/
theorem rungen_startCommon :
    fget (startCommon d b) (stsAddr b) F.RUNGEN = (fget d (stsAddr b) F.RUNGEN + 1) % 65536 := by
  rw [startCommon, fget_fset_apart _ _ _ _ _ _ (by decide) (by decide) (by decide), finc,
    fget_fset_self _ _ _ _ (by decide)]
  rfl

theorem fget_startCommon_apart (a : Nat) (f : Fld) (hf : f.ok = true) (hstate : F.STATE.apart f = true)
    (hrungen : F.RUNGEN.apart f = true) : fget (startCommon d b) a f = fget d a f := by
  rw [startCommon, fget_fset_apart _ _ _ _ _ _ (by decide) hf hstate, finc,
    fget_fset_apart _ _ _ _ _ _ (by decide) hf hrungen]

theorem fget_startCommon_ne {a : Nat} (h : a ≠ stsAddr b) (f : Fld) : fget (startCommon d b) a f = fget d a f := by
  rw [startCommon, fget_fset_ne _ h, finc, fget_fset_ne _ h]

@[simp] theorem blkState_drainedCommon : blkState (drainedCommon d b) b = 0 := by
  rw [drainedCommon, blkState, stOf, fget_fset_apart _ _ _ _ _ _ (by decide) (by decide) (by decide),
    fget_fset_self _ _ _ _ (by decide)]
  rfl

@[simp] theorem drained_drainedCommon : fget (drainedCommon d b) (stsAddr b) F.DRAINED = 1 :=
  fget_fset_self _ _ _ _ (by decide)

theorem fget_drainedCommon_apart (a : Nat) (f : Fld) (hf : f.ok = true) (hstate : F.STATE.apart f = true)
    (hdrained : F.DRAINED.apart f = true) : fget (drainedCommon d b) a f = fget d a f := by
  rw [drainedCommon, fget_fset_apart _ _ _ _ _ _ (by decide) hf hdrained,
    fget_fset_apart _ _ _ _ _ _ (by decide) hf hstate]

end

/-- The blocks whose start adds no test of its own. -/
def startsPlainly : Blk → Bool
  | .cas _ | .jet _ | .ast _ | .hrm _ | .col => true
  | _ => false

/-- What a start leaves of a block that adds nothing to it but registers put in force. -/
structure Started (b : Blk) (d e : Dev) : Prop where
  state : blkState e b = 1
  rungen : fget e (stsAddr b) F.RUNGEN = (fget d (stsAddr b) F.RUNGEN + 1) % 65536
  other : ∀ a f, a ≠ stsAddr b → fget e a f = fget d a f
  apart : ∀ f, f.ok = true → F.STATE.apart f = true → F.RUNGEN.apart f = true →
    fget e (stsAddr b) f = fget d (stsAddr b) f
  leaves : ∀ p, p (stsAddr b) = true → Leaves [.live] p d e

theorem Started.hst {b : Blk} {d e : Dev} (h : Started b d e) : e.hst = d.hst :=
  (h.leaves (fun _ => true) rfl).1 .hst (by simp)

theorem started_startCommon (b : Blk) (d : Dev) : Started b d (startCommon d b) where
  state := blkState_startCommon d b
  rungen := rungen_startCommon d b
  other a f ha := fget_startCommon_ne d b ha f
  apart f hf hs hr := fget_startCommon_apart d b _ f hf hs hr
  leaves p hp := by simp [hp]

theorem Started.latch {b : Blk} {d e : Dev} (h : Started b d e) (as : List Nat) : Started b d (latch e as) where
  state := h.state
  rungen := h.rungen
  other := h.other
  apart := h.apart
  leaves p hp := (leaves_latch_iff (by simp)).2 (h.leaves p hp)

theorem Started.of_latchRange {b : Blk} {d e : Dev} {lo hi : Nat} (h : Started b (latchRange d lo hi) e) :
    Started b d e where
  state := h.state
  rungen := h.rungen
  other := h.other
  apart := h.apart
  leaves p hp := ((leaves_latchRange_iff (by simp)).2 leaves_self).trans (h.leaves p hp)

theorem started_startBlock {b : Blk} (h : startsPlainly b = true) (d : Dev) : Started b d (startBlock d b) := by
  cases b
  case cas half => rw [startBlock]; exact (started_startCommon _ _).of_latchRange
  case ast half => rw [startBlock, astStart]; exact (started_startCommon _ _).latch _
  case jet | hrm | col => rw [startBlock]; exact started_startCommon _ _
  all_goals simp [startsPlainly] at h

theorem scrubHolds_plain {b : Blk} (h : startsPlainly b = true) (d : Dev) : scrubHolds d b = false := by
  cases b
  case seq | ring => simp [startsPlainly] at h
  all_goals simp [scrubHolds]

section
variable {d : Dev} {b : Blk} (hrun : pstate d = 0)
include hrun

theorem enableBlock_stopped (h : startsPlainly b = true) (hb : blkState d b = 0) :
    enableBlock d b = startBlock (fset d (ctlAddr b) F.EN 1) b := by
  simp [enableBlock, hrun, enableNow, blkState_fset_ctl, hb, scrubHolds_plain h]

theorem enableBlock_draining (hb : blkState d b = 2) :
    enableBlock d b = fset (fset d (ctlAddr b) F.EN 1) (stsAddr b) F.PEND 1 := by
  simp [enableBlock, hrun, enableNow, blkState_fset_ctl, hb]

theorem enableBlock_running (hb : blkState d b = 1) : enableBlock d b = fset d (ctlAddr b) F.EN 1 := by
  simp [enableBlock, hrun, enableNow, blkState_fset_ctl, hb]

end

/-- A wake event notes itself in the power controller and its wake and status registers (R600). -/
theorem leaves_wakeEvent (d : Dev) (src : Nat) :
    Leaves [.pwr] (these [A.PWR_WAKE, A.PWR_STS]) d (wakeEvent d src) := by
  unfold wakeEvent
  split
  · split
    · simp
    · simp
  · simp
  · simp

theorem wakeEvent_heldEn (d : Dev) (src : Nat) : (wakeEvent d src).pwr.heldEn = d.pwr.heldEn := by
  unfold wakeEvent
  split
  · split
    · rfl
    · rfl
  · rfl
  · rfl

theorem ctl_sts_not_power (b : Blk) :
    these [A.PWR_WAKE, A.PWR_STS] (ctlAddr b) = false ∧ these [A.PWR_WAKE, A.PWR_STS] (stsAddr b) = false := by
  simp only [Bool.eq_false_iff, ne_eq, these_iff, List.mem_cons, List.not_mem_nil, or_false]
  cases b
  case seq | eph | col => decide
  case cas h | jet h | wei h | ast h => cases h <;> decide
  case ril n => simp only [stsAddr, ctlAddr, A.RIL_CSTS, A.RIL_CCTL, A.PWR_WAKE, A.PWR_STS]; omega
  case aqd h c => simp only [stsAddr, ctlAddr, A.AQD_CHSTS, A.AQD_CHCTL, A.PWR_WAKE, A.PWR_STS]; omega
  case hrm p => simp only [stsAddr, ctlAddr, A.HRM_PSTS, A.HRM_PCTL, A.PWR_WAKE, A.PWR_STS]; omega
  case ring n => simp only [stsAddr, ctlAddr, A.HST_RSTS, A.HST_RCFG, A.PWR_WAKE, A.PWR_STS]; omega

/-- Settles O8: EN is 1 in all three states of the block, and the state decides what else happens; out of Run the write
waits in the list that the power controller keeps. -/
theorem enableFollowsTheBlockState : Obligations.EnableFollowsTheBlockState := by
  intro t b s hwf d
  refine ⟨fun hrun hb hplain => ?_, fun hrun hb => ?_, fun hrun hb => ?_, fun hrun => ?_⟩
  · have hstarted := started_startBlock (b := b) hplain (fset d (ctlAddr b) F.EN 1)
    rw [← enableBlock_stopped hrun hplain hb] at hstarted
    have hframe : Leaves [.live] (these [ctlAddr b, stsAddr b]) d (enableBlock d b) :=
      ((leaves_fset_iff (by simp)).2 leaves_self).trans (hstarted.leaves _ (by simp))
    refine ⟨_, rfl, hstarted.state, hstarted.rungen.trans ?_, ?_, hframe.1, hframe.2⟩
    · rw [fget_fset_ne _ (stsAddr_ne_ctlAddr b)]
    · exact (hstarted.other _ _ (stsAddr_ne_ctlAddr b).symm).trans (fget_fset_self _ _ _ _ (by decide))
  · have hframe : Leaves [] (these [ctlAddr b, stsAddr b]) d (enableBlock d b) := by
      rw [enableBlock_draining hrun hb]; simp
    refine ⟨_, rfl, ?_, ?_, ?_, ?_, hframe.1, hframe.2⟩
    all_goals dsimp only; rw [enableBlock_draining hrun hb]
    · rw [blkState, stOf, fget_fset_apart _ _ _ _ _ _ (by decide) (by decide) (by decide)]
      exact (blkState_fset_ctl _ _ _ _).trans hb
    · exact fget_fset_self _ _ _ _ (by decide)
    · rw [fget_fset_apart _ _ _ _ _ _ (by decide) (by decide) (by decide), fget_fset_ne _ (stsAddr_ne_ctlAddr b)]
    · rw [fget_fset_ne _ (stsAddr_ne_ctlAddr b).symm]
      exact fget_fset_self _ _ _ _ (by decide)
  · have hframe : Leaves [] (these [ctlAddr b]) d (enableBlock d b) := by
      rw [enableBlock_running hrun hb]; simp
    refine ⟨_, rfl, ?_, hframe.1, hframe.2⟩
    dsimp only
    rw [enableBlock_running hrun hb]
    exact fget_fset_self _ _ _ _ (by decide)
  · obtain ⟨hctl, hsts⟩ := ctl_sts_not_power b
    have hheld : enableBlock d b = wakeEvent (setPwr d fun p => { p with heldEn := p.heldEn ++ [b] }) 1 := if_neg hrun
    refine ⟨_, rfl, ?_, ?_, ?_⟩
    all_goals dsimp only; rw [hheld]
    · rw [wakeEvent_heldEn]; simp [setPwr]
    · exact (leaves_wakeEvent _ 1).2.fget hsts _
    · exact (leaves_wakeEvent _ 1).2.fget hctl _

/-! ### Disabling (R26, R96) -/

section
variable {d : Dev} {b : Blk}

/-- The package once EN is 0 and no write of EN = 1 is held any more. -/
def cleared (d : Dev) (b : Blk) : Dev :=
  fset (setPwr d fun p => { p with heldEn := p.heldEn.filter (fun x => x != b) }) (ctlAddr b) F.EN 0

theorem blkState_cleared (d : Dev) (b : Blk) : blkState (cleared d b) b = blkState d b := blkState_fset_ctl _ _ _ _

theorem en_cleared (d : Dev) (b : Blk) : fget (cleared d b) (ctlAddr b) F.EN = 0 := fget_fset_self _ _ _ _ (by decide)

theorem leaves_cleared {p : Nat → Bool} (d : Dev) (b : Blk) (h : p (ctlAddr b) = true) :
    Leaves [.pwr] p d (cleared d b) := by simp [cleared, h]

theorem disableBlock_eq (d : Dev) (b : Blk) : disableBlock d b
    = if blkState d b = 1 then drainBlock (disableCommon (cleared d b) b) b else disableCommon (cleared d b) b := rfl

theorem disableBlock_running (hb : blkState d b = 1) :
    disableBlock d b = drainBlock (drainBegins (cleared d b) (stsAddr b)) b := by
  simp [disableBlock_eq, disableCommon, blkState_cleared, hb]

theorem disableBlock_draining (hb : blkState d b = 2) :
    disableBlock d b = fset (cleared d b) (stsAddr b) F.PEND 0 := by
  simp [disableBlock_eq, disableCommon, blkState_cleared, hb]

theorem disableBlock_stopped (hb : blkState d b = 0) : disableBlock d b = cleared d b := by
  simp [disableBlock_eq, disableCommon, blkState_cleared, hb]

end

/-- The blocks that begin their drain with nothing of their own. -/
def drainsPlainly : Blk → Bool
  | .cas _ | .jet _ | .ast _ | .hrm _ | .eph => true
  | _ => false

theorem drainBlock_plain {b : Blk} (h : drainsPlainly b = true) (d : Dev) : drainBlock d b = d := by
  cases b
  case cas | jet | ast | hrm | eph => rw [drainBlock]
  all_goals simp [drainsPlainly] at h

/-- What the beginning of a block's drain leaves. -/
theorem drainBegins_drains (d : Dev) (b : Blk) :
    blkState (drainBegins d (stsAddr b)) b = 2 ∧ sget 0 (stsAddr b) (drainBegins d (stsAddr b)).drainAt = d.now ∧
      ∀ f, fget (drainBegins d (stsAddr b)) (ctlAddr b) f = fget d (ctlAddr b) f :=
  ⟨fget_fset_self _ _ _ _ (by decide), sget_sset_self _ _ _ _,
    fun f => (fget_fset_ne _ (stsAddr_ne_ctlAddr b).symm _ f _).trans rfl⟩

/-- The strands after a stop: all off, and one that was on stands at its last bundle (R96). -/
theorem stopStrands_strands (d : Dev) (x : StrandId) : (strandOf (stopStrands d) x).on = false ∧
    ((strandOf d x).on = true → (strandOf (stopStrands d) x).spc = (strandOf d x).lastSpc) := by
  have hstopped : strandOf (stopStrands d) x = (strandOf d x).stopped := by cases x <;> rfl
  rw [hstopped, Strand.stopped]
  split
  · exact ⟨rfl, fun _ => rfl⟩
  · next hoff => exact ⟨by simpa using hoff, fun hon => absurd hon hoff⟩

theorem leaves_stopStrands {p : Nat → Bool} (d : Dev) (h : p A.TST_CAPSTS = true) :
    Leaves [.seq] p d (stopStrands d) := by
  unfold stopStrands
  split
  · simp [h]
  · simp

/-- Settles O9: EN is 0 in every state of the block, and the state decides what else happens. -/
theorem disableFollowsTheBlockState : Obligations.DisableFollowsTheBlockState := by
  intro t b s hwf d
  refine ⟨fun hb hplain => ?_, fun hb => ?_, fun hb => ?_, fun hb => ?_⟩
  · have heq : disableBlock d b = drainBegins (cleared d b) (stsAddr b) :=
      (disableBlock_running hb).trans (drainBlock_plain hplain _)
    obtain ⟨hstate, hat, hctl⟩ := drainBegins_drains (cleared d b) b
    have hframe : Leaves [.drain, .pwr] (these [ctlAddr b, stsAddr b]) d (disableBlock d b) := by
      rw [heq]
      exact (leaves_drainBegins_iff (by simp) (by simp)).2 ((leaves_cleared d b (by simp)).widen (by simp))
    rw [← heq] at hstate hat hctl
    exact ⟨_, rfl, hstate, hat, (hctl _).trans (en_cleared d b), hframe.1, hframe.2⟩
  · have heq := disableBlock_draining hb
    have hframe : Leaves [.pwr] (these [ctlAddr b, stsAddr b]) d (disableBlock d b) := by
      rw [heq]
      exact (leaves_fset_iff (by simp)).2 (leaves_cleared d b (by simp))
    refine ⟨_, rfl, ?_, ?_, ?_, hframe.1, hframe.2⟩
    all_goals dsimp only; rw [heq]
    · exact (fget_fset_apart _ _ _ _ _ _ (by decide) (by decide) (by decide)).trans ((blkState_cleared d b).trans hb)
    · exact fget_fset_self _ _ _ _ (by decide)
    · exact (fget_fset_ne _ (stsAddr_ne_ctlAddr b).symm _ _ _).trans (en_cleared d b)
  · have heq := disableBlock_stopped hb
    have hframe : Leaves [.pwr] (these [ctlAddr b]) d (disableBlock d b) := by
      rw [heq]
      exact leaves_cleared d b (by simp)
    exact ⟨_, rfl, by dsimp only; rw [heq]; exact en_cleared d b, hframe.1, hframe.2⟩
  · have heq : disableBlock d .seq = stopStrands (drainBegins (cleared d .seq) (stsAddr .seq)) := disableBlock_running hb
    obtain ⟨hstate, -, hctl⟩ := drainBegins_drains (cleared d .seq) .seq
    have hstop := leaves_stopStrands (p := these [A.TST_CAPSTS]) (drainBegins (cleared d .seq) (stsAddr .seq)) (by simp)
    have hframe : Leaves [.drain, .pwr, .seq] (these [A.SEQ_CTL 0, A.SEQ_STS 0, A.TST_CAPSTS]) d (disableBlock d .seq) := by
      rw [heq]
      refine Leaves.trans ?_ (leaves_stopStrands _ (by simp) |>.widen (by simp))
      exact (leaves_drainBegins_iff (by simp [stsAddr]) (by simp)).2
        ((leaves_cleared d .seq (by simp [ctlAddr])).widen (by simp))
    have hstrands := stopStrands_strands (drainBegins (cleared d .seq) (stsAddr .seq))
    have hseq : (drainBegins (cleared d .seq) (stsAddr .seq)).seq = d.seq := by
      rw [drainBegins_seq, cleared, fset_seq, setPwr, withPwr_seq]
    rw [← heq] at hstop hstrands
    exact ⟨_, rfl, (hstop.2.fget (by decide) _).trans hstate,
      (hstop.2.fget (by decide) _).trans ((hctl _).trans (en_cleared d .seq)), fun x => (hstrands x).1,
      fun x hon => ((hstrands x).2 (by rw [strandOf_congr hseq]; exact hon)).trans (by rw [strandOf_congr hseq]), hframe.1, hframe.2⟩

/-! ### Drains end (R26, R27) -/

/-- The units whose drain ends without work of their own. -/
def endsPlainly : Blk → Bool
  | .cas _ | .jet _ | .eph => true
  | _ => false

section
variable {d : Dev} {b : Blk} (hplain : endsPlainly b = true) (hflr : d.hst.flr = false)
include hplain hflr

theorem endDrain_noPending (hpend : fget d (stsAddr b) F.PEND = 0) : endDrain d b = drainedCommon d b := by
  cases b
  case cas | jet | eph => simp [endDrain, hpend, flrCheck, hflr]
  all_goals simp [endsPlainly] at hplain

theorem endDrain_pending (hstart : startsPlainly b = true) (hpend : fget d (stsAddr b) F.PEND = 1) :
    endDrain d b = startBlock (fset (drainedCommon d b) (stsAddr b) F.PEND 0) b := by
  have hkeeps : (startBlock (fset (drainedCommon d b) (stsAddr b) F.PEND 0) b).hst.flr = false := by
    rw [(started_startBlock hstart _).hst, fset_hst, drainedCommon_hst, hflr]
  cases b
  case cas | jet => simp [endDrain, hpend, flrCheck, hkeeps]
  all_goals simp [endsPlainly, startsPlainly] at hplain hstart

end

theorem drainComplete_drained {d : Dev} {b : Blk} (hb : blkState d b = 2) (hdrained : drained d b = true) :
    drainComplete d b = endDrain d b := by simp [drainComplete, hb, hdrained]

theorem drainTimeout_drained {d : Dev} {b : Blk} (hb : blkState d b = 2) 
    (hbound : sget 0 (stsAddr b) d.drainAt + drainBound d b ≤ d.now)
    (hdrained : drained d b = true) : drainTimeout d b = endDrain d b := by
  simp [drainTimeout, hb, Nat.not_lt.2 hbound, hdrained]

/-- Settles O10: such a unit adds nothing to the common end of a drain. -/
theorem drainEndsInStopped : Obligations.DrainEndsInStopped := by
  intro t b s hwf d hplain hb hpend hflr
  have hend := endDrain_noPending hplain hflr hpend
  have hframe : Leaves [] (these [stsAddr b]) d (drainedCommon d b) := by simp
  refine ⟨fun hd => ?_, fun hd => ?_, fun hd hbound => ?_⟩
  · have heq := (drainComplete_drained hb hd).trans hend
    exact ⟨{ s with dev := drainedCommon d b }, next_congr rfl heq, blkState_drainedCommon d b,
      drained_drainedCommon d b, fget_drainedCommon_apart d b _ _ (by decide) (by decide) (by decide), hframe.1, hframe.2⟩
  · exact next_congr rfl (if_neg fun h => by rw [hd] at h; exact absurd h.2 Bool.false_ne_true)
  · have heq := (drainTimeout_drained hb hbound hd).trans hend
    exact ⟨{ s with dev := drainedCommon d b }, next_congr rfl heq, blkState_drainedCommon d b,
      drained_drainedCommon d b, hframe.1, hframe.2⟩

/-- Settles O11: the start that was pending is the start of a STOPPED block. -/
theorem pendingStartFollowsTheDrain : Obligations.PendingStartFollowsTheDrain := by
  intro t b s hwf d hplain hb hpend hd hflr
  have hboth : endsPlainly b = true ∧ startsPlainly b = true := by
    cases b
    case cas | jet => exact ⟨rfl, rfl⟩
    all_goals simp at hplain
  obtain ⟨hends, hstarts⟩ := hboth
  have heq := (drainComplete_drained hb hd).trans (endDrain_pending hends hflr hstarts hpend)
  have hstarted := started_startBlock hstarts (fset (drainedCommon d b) (stsAddr b) F.PEND 0)
  have hframe : Leaves [.live] (these [stsAddr b]) d (startBlock (fset (drainedCommon d b) (stsAddr b) F.PEND 0) b) :=
    Leaves.trans (by simp) (hstarted.leaves _ (by simp))
  refine ⟨_, next_congr rfl heq, hstarted.state, ?_, ?_, ?_, hframe.1, hframe.2⟩
  · exact (hstarted.apart _ (by decide) (by decide) (by decide)).trans (fget_fset_self _ _ _ _ (by decide))
  · exact (hstarted.apart _ (by decide) (by decide) (by decide)).trans
      ((fget_fset_apart _ _ _ _ _ _ (by decide) (by decide) (by decide)).trans (drained_drainedCommon d b))
  · rw [hstarted.rungen, fget_fset_apart _ _ _ _ _ _ (by decide) (by decide) (by decide),
      fget_drainedCommon_apart d b _ _ (by decide) (by decide) (by decide)]

end Sys2Proof.Machine
end

section
/-! PROOFS. Bundles of one CTL op with an effect beside where it leads: how they pass the tests at issue, what their issue
does, and the statements about command rings, confluences and pages (02, R40 to R81). -/

namespace Sys2Proof.Machine

/-! ### The tests at issue (R49 to R76) -/

/-- What the place of an op in the program asks for at its issue (R35, R59, R64, R73 to R76). -/
def opPlaced (d : Dev) (s : StrandId) : CtlOp → Prop
  | .page mode _ => mode ≠ 3#2
  | .join => d.seq.confl.isSome = true
  | .stepb src => s = .main ∧ d.seq.confl = none ∧ d.seq.main.loops = [] ∧ d.seq.calls = [] ∧ d.seq.stepOpen = false ∧
      (src = 1#1 → d.seq.sidaTime.isSome = true)
  | .verd => s = .main ∧ d.seq.confl = none ∧ d.seq.main.loops = [] ∧ d.seq.calls = [] ∧ d.seq.stepOpen = true
  | .awaitq ring => liveGet d (A.HST_RCFG ring.toNat) F.HST_RCFG_KIND = 0
  | _ => True

/-- The ops that both half-words share (R36, R59). -/
def isShared : CtlOp → Bool
  | .awaitq _ => true
  | o => isFlow o

section
variable {d : Dev} {s : StrandId} {oa ob : CtlOp}

/-- Two ops that stand where they may pass every test at issue (R35, R36, R49, R50, R59, R72 to R76). -/
theorem bundleFault_placed (ha : opPlaced d s oa) (hb : opPlaced d s ob)
    (hshare : (isShared oa || isShared ob) = true → oa = ob)
    (hseg : s ≠ .main → segAllows oa = true ∧ segAllows ob = true)
    (hfork : s = .main → d.seq.confl.isSome = true → forkAllows oa = true ∧ forkAllows ob = true) :
    bundleFault d s (ctlOnly s oa) (ctlOnly s ob) = none := by
  unfold bundleFault
  extract_lets cls pageBad both place
  have hpage : ∀ o, opPlaced d s o → pageBad o = false := by
    intro o ho
    cases o
    case page mode page => exact decide_eq_false fun h => ho (BitVec.eq_of_toNat_eq h)
    all_goals rfl
  have hboth : ∀ o, both o = isShared o := by
    intro o
    cases o
    all_goals rfl
  simp -zeta only [hwClass_ctlOnly, hwRepeat_ctlOnly, ctlOf_ctlOnly]
  extract_lets slotBad
  have hslot : ∀ h o, slotBad h (ctlOnly s o) = false := by
    intro h o
    simp only [slotBad]
    split
    · rfl
    · cases s <;> simp
  have hsame : ¬ ((both oa || both ob) && hwCtl (ctlOnly s oa) != hwCtl (ctlOnly s ob)) = true := by
    rw [hboth, hboth, Bool.and_eq_true]
    rintro ⟨h, hne⟩
    simp [hshare h] at hne
  have hsegment : ¬ (s ≠ .main ∧ (segAllows oa = false ∨ segAllows ob = false)) := by
    rintro ⟨hs, h⟩
    simp [hseg hs] at h
  have hbetween : ¬ (s = .main ∧ d.seq.confl.isSome = true ∧ (forkAllows oa = false ∨ forkAllows ob = false)) := by
    rintro ⟨hs, hc, h⟩
    simp [hfork hs hc] at h
  have hjoin : ¬ (d.seq.confl.isNone = true ∧ oa = .join) := by
    intro h
    rw [h.2] at ha
    exact Option.isSome_iff_ne_none.1 ha (Option.isNone_iff_eq_none.1 h.1)
  rw [if_neg (by simp), if_neg (by cases s <;> simp [cls]), if_neg (by cases s <;> simp [cls]),
    if_neg (by simp [hpage oa ha]), if_neg (by simp [hpage ob hb]), if_neg hsame, if_neg (by simp), if_neg hsegment,
    if_neg hbetween, if_neg hjoin, if_neg (by simp [hslot]), if_neg (by simp [hslot])]
  cases oa
  case stepb src =>
    obtain ⟨rfl, hconfl, hloops, hcalls, hopen, hsida⟩ := ha
    have hsrc : (decide (src.toNat = 1) && d.seq.sidaTime.isNone) = false := by
      by_cases h : src = 1#1
      · have := Option.isSome_iff_exists.1 (hsida h)
        obtain ⟨v, hv⟩ := this
        simp [hv]
      · have : src.toNat ≠ 1 := fun hn => h (BitVec.eq_of_toNat_eq hn)
        simp [this]
    simp [place, hconfl, hloops, hcalls, hopen, hsrc]
  case verd =>
    obtain ⟨rfl, hconfl, hloops, hcalls, hopen⟩ := ha
    simp [place, hconfl, hloops, hcalls, hopen]
  case awaitq ring => exact if_neg (not_not.2 ha)
  all_goals rfl

/-- A bundle of a ready strand that passes the tests, whose waits are satisfied and which nothing holds, issues where its
flow leads. -/
theorem tryBundle_reaches {go : Flow} (hr : ctlReady d s)
    (hf : bundleFault d s (ctlOnly s oa) (ctlOnly s ob) = none) (hwa : waitOk d 0 s oa = true)
    (hwb : waitOk d 1 s ob = true) (hgate : stepGate d s (ctlOnly s oa) oa = none) (hgo : flowOf d s oa = .ok go) :
    tryBundle d s [] (ctlOnly s oa) (ctlOnly s ob) = issueBundle d s [] (ctlOnly s oa) (ctlOnly s ob) oa ob go := by
  obtain ⟨hdue, -, hrep, hgap⟩ := hr
  have hgapped : (decide (d.seq.lastCycle ≠ some d.now) && decide (d.now < d.seq.gapEnd)) = false := by
    obtain h | h := hgap
    · simp [h]
    · simp [Nat.not_lt.2 h]
  simp only [tryBundle, hf, hgapped, ctlOf_ctlOnly]
  simp [hrep, hwa, hwb, hgate, hgo]

/-- A bundle of a ready strand that passes the tests and whose waits are satisfied, but which the op's own gate stops. -/
theorem tryBundle_gated {e : Dev} (hr : ctlReady d s)
    (hf : bundleFault d s (ctlOnly s oa) (ctlOnly s ob) = none) (hwa : waitOk d 0 s oa = true)
    (hwb : waitOk d 1 s ob = true) (hgate : stepGate d s (ctlOnly s oa) oa = some e) :
    tryBundle d s [] (ctlOnly s oa) (ctlOnly s ob) = e := by
  obtain ⟨hdue, -, hrep, hgap⟩ := hr
  have hgapped : (decide (d.seq.lastCycle ≠ some d.now) && decide (d.now < d.seq.gapEnd)) = false := by
    obtain h | h := hgap
    · simp [h]
    · simp [Nat.not_lt.2 h]
  simp only [tryBundle, hf, hgapped, ctlOf_ctlOnly]
  simp [hrep, hwa, hwb, hgate]

end

/-! ### The issue of an op with an effect -/

/-- The ops whose issue is their effect and where they lead, with no audit and no stop (R59, R64, R70, R74, R77). -/
def isEffect : CtlOp → Bool
  | .awaitq _ | .verd | .fork _ | .join | .page .. => true
  | _ => false

section
variable {d : Dev} {s : StrandId} {op : CtlOp}

/-- The package after such an op has been noted as issued and has taken its effect. -/
def effected (d : Dev) (s : StrandId) (op : CtlOp) : Dev := ctlEffect (noteIssue d s) s (ctlOnly s op) op

theorem noteIssue_rep (d : Dev) (s : StrandId) : (strandOf (noteIssue d s) s).rep = (strandOf d s).rep + 1 := by
  rw [noteIssue_strand]

theorem canIssue_noteIssue (d : Dev) (s : StrandId) : canIssue (noteIssue d s) = canIssue d :=
  canIssue_congr ((leaves_noteIssue d s).2.fget (by decide) _) (noteIssue_unwind d s) ((leaves_noteIssue d s).pwr (by simp))

theorem issueBundle_effect (go : Flow) (hop : isEffect op = true) (hrep : (strandOf d s).rep = 0)
    (hkeep : (strandOf (effected d s op) s).rep = 1) (hcan : canIssue (effected d s op) = true) :
    issueBundle d s [] (ctlOnly s op) (ctlOnly s op) op op go
      = goTo (setSeq (effected d s op) fun q => { q with calls := go.calls }) s go.addr go.loops := by
  unfold issueBundle
  extract_lets x first audited late noted effA effB slots trapped stopped moved
  have hfirst : first = true := by simp [first, x, hrep]
  have hnoted : noted = noteIssue d s := by
    simp only [noted, late, audited, hfirst, if_true]
    cases op
    case awaitq | verd | fork | join | page => rfl
    all_goals simp [isEffect] at hop
  have heffects : effB = effected d s op := by
    have hpage : (isPage op && !isPage op) = false := by cases isPage op <;> rfl
    simp only [effB, effA, hfirst, hnoted, hpage, Bool.true_or, if_true, Bool.false_eq_true, if_false]
    rfl
  have hstopped : stopped = effected d s op := by
    simp only [stopped, trapped, slots, issueSlots_ctlOnly, hfirst, if_true, heffects]
    cases op
    case awaitq | verd | fork | join | page => rfl
    all_goals simp [isEffect] at hop
  have hmoved : moved = goTo (setSeq (effected d s op) fun q => { q with calls := go.calls }) s go.addr go.loops := by
    simp only [moved, hstopped, hkeep, hwRepeat_ctlOnly]
    rfl
  rw [hstopped, hcan, hmoved]
  simp only [Bool.not_true, Bool.false_eq_true, if_false]
  cases op
  case stepb => simp [isEffect] at hop
  all_goals rfl

theorem waitOk_of_noWait (half : Nat) (h : isWait op = false) : waitOk d half s op = true := by
  cases op
  case awaitr | awaita | awaitq | sida | sidr | delay => simp [isWait] at h
  all_goals rfl

end

/-! ### Where such a bundle leaves its strand -/

section
variable {d : Dev} {s : StrandId} {op : CtlOp}

/-- A shared op alone in both half-words, placed where it may stand: it issues, takes its effect, and the strand follows
its flow. -/
theorem ctlIssue_effect {go : Flow} (hr : ctlReady d s) (hop : isEffect op = true) (hplaced : opPlaced d s op)
    (hseg : s ≠ .main → segAllows op = true) (hfork : s = .main → d.seq.confl.isSome = true → forkAllows op = true)
    (hwait : ∀ h, waitOk d h s op = true) (hgate : stepGate d s (ctlOnly s op) op = none) (hgo : flowOf d s op = .ok go)
    (hkeep : (strandOf (effected d s op) s).rep = 1) (hcan : canIssue (effected d s op) = true) :
    ctlIssue d s op = goTo (setSeq (effected d s op) fun q => { q with calls := go.calls }) s go.addr go.loops := by
  have hfault : bundleFault d s (ctlOnly s op) (ctlOnly s op) = none :=
    bundleFault_placed hplaced hplaced (fun _ => rfl) (fun h => ⟨hseg h, hseg h⟩) fun h h' => ⟨hfork h h', hfork h h'⟩
  rw [ctlIssue_eq hr, tryBundle_reaches hr hfault (hwait 0) (hwait 1) hgate hgo, issueBundle_effect go hop hr.2.2.1 hkeep hcan]

/-- A strand that goes elsewhere moves nothing but the sequencers and what is on its way to them. -/
theorem goTo_eq (d : Dev) (s : StrandId) (a : Nat) (loops : List LoopFrame) :
    ∃ q l, goTo d s a loops = (d.withSeq q).withPend l := by
  obtain ⟨e, ⟨pa, pb, l, hpage⟩, he⟩ := goTo_cases d s a loops
  have hplace : ∃ q, e = d.withSeq q := by
    obtain rfl | ⟨-, c, rfl⟩ := he
    · cases s <;> exact ⟨_, rfl⟩
    · cases s <;> exact ⟨_, rfl⟩
  obtain ⟨q, rfl⟩ := hplace
  exact ⟨_, l, hpage⟩

@[simp] theorem goTo_mem (d : Dev) (s : StrandId) (a : Nat) (loops : List LoopFrame) : (goTo d s a loops).mem = d.mem := by
  obtain ⟨q, l, h⟩ := goTo_eq d s a loops
  rw [h]; rfl

@[simp] theorem noteIssue_mem (d : Dev) (s : StrandId) : (noteIssue d s).mem = d.mem := by
  simp only [noteIssue]
  split
  · cases s <;> rfl
  · rw [countBoth_mem, countBoth_mem]
    cases s <;> rfl

theorem leaves_moved {p : Nat → Bool} {ps : List Piece} {e : Dev} (h : Leaves ps p d e) (hseq : Piece.seq ∈ ps)
    (hgov : Piece.gov ∈ ps) (go : Flow) :
    Leaves ps p d (goTo (setSeq e fun q => { q with calls := go.calls }) s go.addr go.loops) :=
  ((leaves_setSeq_iff hseq).2 h).trans ((leaves_goTo _ _ _ _).widen (by simp [hseq, hgov]))

end

/-! ### Command rings (R59, R557) -/

/-- The registers that consuming a descriptor writes: the ring's consumed count, and the weirs' step parameters. -/
def isConsume (n : Nat) : Nat → Bool :=
  these [A.HST_RIDX n, A.WEI_SPA 0, A.WEI_SPA 1, A.WEI_SPB 0, A.WEI_SPB 1]

theorem leaves_weiParams {p : Nat → Bool} (d : Dev) (step eta lambda invls : Nat)
    (h : ∀ k < 2, p (A.WEI_SPA k) = true ∧ p (A.WEI_SPB k) = true) :
    Leaves [] p d (weiParams d step eta lambda invls) := by
  simp [weiParams, (h 0 (by omega)).1, (h 0 (by omega)).2, (h 1 (by omega)).1, (h 1 (by omega)).2]

theorem withHst_self (d : Dev) : d.withHst d.hst = d := rfl
theorem ringWb_withHst (d : Dev) (n v : Nat) : ∃ h, ringWb d n v = d.withHst h := ⟨_, rfl⟩
theorem setRingH_withHst (d : Dev) (n : Nat) (r : RingH) : ∃ h, setRingH d n r = d.withHst h := ⟨_, rfl⟩
theorem withHst_withHst (d : Dev) (h k : Hst) : (d.withHst h).withHst k = d.withHst k := rfl

/-- A descriptor is taken: DEVIDX counts on, and beside it only the host's copy and the weirs' parameters change. -/
theorem cmdConsume_eq (d : Dev) (n : Nat) : ∃ h e, e = (fset d (A.HST_RIDX n) F.HST_RIDX_DEVIDX
    ((fget d (A.HST_RIDX n) F.HST_RIDX_DEVIDX + 1) % 2 ^ 32)).withHst h ∧
    (cmdConsume d n = e ∨ ∃ a b c k, cmdConsume d n = weiParams e a b c k) := by
  unfold cmdConsume
  extract_lets k k1 r bs d1 d2 d3
  have hd2 : ∃ h, d2 = d1.withHst h := by
    simp only [d2]
    split
    · exact setRingH_withHst _ _ _
    · exact ⟨d1.hst, (withHst_self d1).symm⟩
  have hd3 : ∃ h, d3 = d1.withHst h := by
    obtain ⟨h, hd2⟩ := hd2
    obtain ⟨h', hd3⟩ := ringWb_withHst d2 n k1
    exact ⟨h', by rw [← withHst_withHst d1 h h', ← hd2]; exact hd3⟩
  obtain ⟨h, hd3⟩ := hd3
  refine ⟨h, d3, hd3, ?_⟩
  split
  · exact .inr ⟨_, _, _, _, rfl⟩
  · exact .inl rfl

theorem weiParams_mem (d : Dev) (step eta lambda invls : Nat) : (weiParams d step eta lambda invls).mem = d.mem := by
  simp [weiParams]

theorem cmdConsume_mem (d : Dev) (n : Nat) : (cmdConsume d n).mem = d.mem := by
  obtain ⟨h, e, rfl, heq | ⟨a, b, c, k, heq⟩⟩ := cmdConsume_eq d n
  · rw [heq, withHst_mem, fset_mem]
  · rw [heq, weiParams_mem, withHst_mem, fset_mem]

theorem leaves_cmdConsume (d : Dev) (n : Nat) : Leaves [.hst] (isConsume n) d (cmdConsume d n) := by
  obtain ⟨h, e, rfl, heq⟩ := cmdConsume_eq d n
  have he : Leaves [.hst] (isConsume n) d ((fset d (A.HST_RIDX n) F.HST_RIDX_DEVIDX
      ((fget d (A.HST_RIDX n) F.HST_RIDX_DEVIDX + 1) % 2 ^ 32)).withHst h) := by simp [isConsume]
  obtain heq | ⟨a, b, c, k, heq⟩ := heq
  · rwa [heq]
  · rw [heq]
    refine he.trans ((leaves_weiParams _ a b c k fun k hk => ?_).widen (by simp))
    obtain rfl | rfl : k = 0 ∨ k = 1 := by omega
    · simp [isConsume]
    · simp [isConsume]

/-- The ring's register is none of the weirs'. -/
theorem ridx_not_params {n : Nat} (h : n < 256) :
    these [A.WEI_SPA 0, A.WEI_SPA 1, A.WEI_SPB 0, A.WEI_SPB 1] (A.HST_RIDX n) = false := by
  simp only [Bool.eq_false_iff, ne_eq, these_iff, List.mem_cons, List.not_mem_nil, or_false, A.HST_RIDX, A.WEI_SPA, A.WEI_SPB]
  omega

theorem cmdConsume_ridx (d : Dev) {n : Nat} (h : n < 256) :
    fget (cmdConsume d n) (A.HST_RIDX n) F.HST_RIDX_DEVIDX = (fget d (A.HST_RIDX n) F.HST_RIDX_DEVIDX + 1) % 2 ^ 32 ∧
      fget (cmdConsume d n) (A.HST_RIDX n) F.HST_RIDX_HOSTIDX = fget d (A.HST_RIDX n) F.HST_RIDX_HOSTIDX := by
  obtain ⟨x, e, rfl, heq⟩ := cmdConsume_eq d n
  have hsame : ∀ f, fget (cmdConsume d n) (A.HST_RIDX n) f = fget (fset d (A.HST_RIDX n) F.HST_RIDX_DEVIDX
      ((fget d (A.HST_RIDX n) F.HST_RIDX_DEVIDX + 1) % 2 ^ 32)) (A.HST_RIDX n) f := by
    intro f
    obtain heq | ⟨a, b, c, k, heq⟩ := heq
    · rw [heq, fget_withHst]
    · rw [heq, (leaves_weiParams _ a b c k (p := these [A.WEI_SPA 0, A.WEI_SPA 1, A.WEI_SPB 0, A.WEI_SPB 1]) ?_).2.fget
        (ridx_not_params h), fget_withHst]
      intro k hk
      obtain rfl | rfl : k = 0 ∨ k = 1 := by omega
      · simp
      · simp
  constructor
  · rw [hsame, fget_fset_self _ _ _ _ (by decide)]
    exact Nat.mod_mod _ _
  · rw [hsame, fget_fset_apart _ _ _ _ _ _ (by decide) (by decide) (by decide)]

theorem sts_not_consume (n : Nat) : isConsume n (A.SEQ_STS 0) = false := by
  simp only [isConsume, Bool.eq_false_iff, ne_eq, these_iff, List.mem_cons, List.not_mem_nil, or_false, A.HST_RIDX,
    A.WEI_SPA, A.WEI_SPB, A.SEQ_STS]
  omega

/-- Settles O16: AWAITQ stands in both half-words, is allowed in every strand and beside a confluence, and its effect is
to take one descriptor. -/
theorem awaitqConsumesOneDescriptor : Obligations.AwaitqConsumesOneDescriptor := by
  intro t x ring s d a hr hkind
  have hplaced : opPlaced d x (.awaitq ring) := hkind
  refine ⟨fun hholds => ?_, fun hholds => ?_⟩
  · have hseq : (cmdConsume (noteIssue d x) ring.toNat).seq = (noteIssue d x).seq :=
      (leaves_cmdConsume _ _).1 .seq (by simp)
    have hcan : canIssue (cmdConsume (noteIssue d x) ring.toNat) = true := by
      rw [canIssue_congr ((leaves_cmdConsume (noteIssue d x) ring.toNat).2.fget (sts_not_consume _) _) (by rw [hseq])
        ((leaves_cmdConsume _ _).pwr (by simp)), canIssue_noteIssue]
      exact canIssue_of_strandDue hr.1
    have hrep : (strandOf (cmdConsume (noteIssue d x) ring.toNat) x).rep = 1 := by
      rw [strandOf_congr hseq, noteIssue_rep, hr.2.2.1]
    have heq := ctlIssue_effect (go := onward d x) hr rfl hplaced (fun _ => rfl) (fun _ _ => rfl) (fun _ => hholds) rfl
      rfl hrep hcan
    obtain ⟨hdev, hhost⟩ := cmdConsume_ridx (noteIssue d x) ring.isLt
    have hnote : ∀ f, fget (noteIssue d x) a f = fget d a f := fun f => (leaves_noteIssue d x).2.fget (by
      rw [Bool.eq_false_iff, ne_eq, isCounter_iff]; simp only [a, A.HST_RIDX]; omega) f
    have hgo : ∀ q y l f, fget (goTo (setSeq (cmdConsume (noteIssue d x) ring.toNat) q) x y l) a f
        = fget (cmdConsume (noteIssue d x) ring.toNat) a f :=
      fun q y l f => (leaves_goTo (p := fun _ => false) _ _ _ _).2.fget rfl f
    refine ⟨_, next_congr rfl heq, ?_, ?_, goTo_spc _ _ _ _, ?_⟩
    · exact (hgo _ _ _ _).trans (hdev.trans (by rw [hnote]))
    · exact (hgo _ _ _ _).trans (hhost.trans (hnote _))
    · exact (goTo_mem _ _ _ _).trans ((cmdConsume_mem _ _).trans (noteIssue_mem d x))
  · have hfault : bundleFault d x (ctlOnly x (.awaitq ring)) (ctlOnly x (.awaitq ring)) = none :=
      bundleFault_placed hplaced hplaced (fun _ => rfl) (fun _ => ⟨rfl, rfl⟩) fun _ _ => ⟨rfl, rfl⟩
    have heq : ctlIssue d x (.awaitq ring) = holdStrand d x := by
      rw [ctlIssue_eq hr, tryBundle_waits hr hfault (by simp [waitOk, hholds])]
    obtain ⟨hheld, hspc, hparts, hregs⟩ := holdStrand_holds d x
    exact ⟨_, next_congr rfl heq, hheld, hspc, hparts, hregs⟩

/-! ### Confluences (R64 to R73) -/

/-- The main strand goes elsewhere: its own fields, the pages and what is on its way change, nothing else. -/
theorem goTo_main (d : Dev) (a : Nat) (loops : List LoopFrame) : ∃ x pa pb l,
    goTo d .main a loops = (d.withSeq { d.seq with main := x, pagerA := pa, pagerB := pb }).withPend l := by
  obtain ⟨e, ⟨pa, pb, l, hpage⟩, rfl | ⟨hne, -⟩⟩ := goTo_cases d .main a loops
  · exact ⟨_, pa, pb, l, hpage⟩
  · exact absurd rfl hne

/-- What the issue in the main strand notes in the sequencers. -/
theorem noteIssue_main_seq (d : Dev) : ∃ x pa pb c g k, (noteIssue d .main).seq
    = { d.seq with main := x, pagerA := pa, pagerB := pb, lastCycle := c, gapEnd := g, gapTotal := k } := by
  simp only [noteIssue]
  split
  · exact ⟨_, _, _, _, _, _, rfl⟩
  · rw [(countBoth_seq _ _ _).trans (countBoth_seq _ _ _)]
    exact ⟨_, _, _, _, _, _, rfl⟩

theorem leaves_effected_seq {d : Dev} {op : CtlOp} {f : Seq → Seq} (h : effected d .main op = setSeq (noteIssue d .main) f) :
    Leaves [.seq, .gov] isCounter d (effected d .main op) := by
  rw [h]
  exact (leaves_setSeq_iff (by simp)).2 ((leaves_noteIssue d .main).widen (by simp))

/-- The main strand's FORK or JOIN: the confluence is the one given, the segments are as they were and the strand goes on. -/
theorem ctlIssue_confl {d : Dev} {op : CtlOp} {c : Option Confluence} (hr : ctlReady d .main) (hop : isEffect op = true)
    (hplaced : opPlaced d .main op) (hfork : d.seq.confl.isSome = true → forkAllows op = true)
    (hwait : isWait op = false) (hgate : stepGate d .main (ctlOnly .main op) op = none)
    (hgo : flowOf d .main op = .ok (onward d .main))
    (heff : effected d .main op = setSeq (noteIssue d .main) fun q => { q with confl := c }) :
    (ctlIssue d .main op).seq.confl = c ∧
      (ctlIssue d .main op).seq.main.spc = (advance d.seq.main.spc d.seq.main.loops).1 ∧
      (ctlIssue d .main op).seq.segA = d.seq.segA ∧ (ctlIssue d .main op).seq.segB = d.seq.segB ∧
      Leaves [.seq, .gov] isCounter d (ctlIssue d .main op) := by
  obtain ⟨x, pa, pb, l, g, k, hseq⟩ := noteIssue_main_seq d
  have hcan : canIssue (effected d .main op) = true := by
    rw [canIssue_congr ((leaves_effected_seq heff).2.fget (by decide) _) (by rw [heff]; exact noteIssue_unwind d .main)
      ((leaves_effected_seq heff).pwr (by simp))]
    exact canIssue_of_strandDue hr.1
  have hkeep : (strandOf (effected d .main op) .main).rep = 1 := by
    rw [heff]
    exact (noteIssue_rep d .main).trans (by rw [hr.2.2.1])
  have heq := ctlIssue_effect hr hop hplaced (fun h => absurd rfl h) (fun _ => hfork)
    (fun h => waitOk_of_noWait h hwait) hgate hgo hkeep hcan
  have hspc : (strandOf (ctlIssue d .main op) .main).spc = (advance d.seq.main.spc d.seq.main.loops).1 := by
    rw [heq, goTo_spc]
    rfl
  have hleaves := leaves_moved (s := .main) (leaves_effected_seq heff) (by simp) (by simp) (onward d .main)
  rw [← heq] at hleaves
  refine ⟨?_, hspc, ?_, ?_, hleaves⟩
  all_goals
    rw [heq]
    obtain ⟨y, qa, qb, m, hgo⟩ := goTo_main (setSeq (effected d .main op) fun q => { q with calls := (onward d .main).calls })
      (onward d .main).addr (onward d .main).loops
    rw [hgo, heff]
    simp [setSeq, hseq]

/-- The strand of a segment. -/
def segOf (b : Bool) : StrandId := if b then .segB else .segA

theorem segmentStart_starts {d : Dev} {b : Bool} {c : Confluence} (hcan : canIssue d = true) (hsc : d.now % 2 = 0)
    (hconfl : d.seq.confl = some c) (hat : c.at' < d.now) (hmine : (if b then c.b else c.a) = .pending)
    (hready : segReady d c.desc b = true) (hmask : masksOverlap d c.desc = false) :
    OnlyPaging (setSeq (setStrand d (segOf b) { Strand.init with
        on := true, spc := segStart d c.desc b, lastSpc := segStart d c.desc b, lastIssue := d.now })
      fun q => { q with confl := some (if b then { c with b := .running } else { c with a := .running }) })
      (segmentStart d b) := by
  unfold segmentStart
  rw [hconfl]
  simp only [hcan, hsc, hat, hmine, hready, hmask]
  exact (onlyPaging_foldl _ (fun _ _ => onlyPaging_fetchPage _ _ _ _) _ _).trans (onlyPaging_prefetchAhead _ _)

theorem segmentStart_waits {d : Dev} {b : Bool} {c : Confluence} (hconfl : d.seq.confl = some c)
    (hmask : masksOverlap d c.desc = true) (hother : (if b then c.a else c.b) = .running) : segmentStart d b = d := by
  unfold segmentStart
  rw [hconfl]
  simp [hmask, hother]

/-- Settles O18: FORK and JOIN issue like every op that only moves the sequencers; a JOIN before the ends is held by its own
gate, and SEGMENT_START is its own definition. -/
theorem confluenceForksAndJoins : Obligations.ConfluenceForksAndJoins := by
  intro t s d
  refine ⟨fun ⟨hr, hno⟩ desc hdesc => ?_, fun b c hcan hsc hconfl hat hmine hready => ⟨fun hmask => ?_, fun hmask hother => ?_⟩,
    fun hr c hconfl => ⟨fun ha hb => ?_, fun hend => ?_⟩⟩
  · obtain ⟨hc, hspc, ha, hb, hparts, hregs⟩ := ctlIssue_confl (op := .fork desc)
      (c := some ⟨desc.toNat, .pending, .pending, d.now⟩) hr rfl trivial (by simp [hno]) rfl rfl
      (by simp only [flowOf, hdesc]; rfl) (by rw [← (leaves_noteIssue d .main).now (by simp)]; rfl)
    exact ⟨_, next_congr rfl rfl, hc, hspc, ha, hb, hparts, hregs⟩
  · obtain ⟨pa, pb, l, heq⟩ := segmentStart_starts hcan hsc hconfl hat hmine hready hmask
    have hleaves : Leaves [.seq, .gov] (fun _ => false) d (segmentStart d b) :=
      Leaves.trans ((leaves_setSeq_iff (by simp)).2 ((leaves_setStrand d _ _).widen (by simp)))
        (segmentStart_starts hcan hsc hconfl hat hmine hready hmask).leaves
    refine ⟨_, next_congr rfl heq, ?_, ?_, ?_, ?_, ?_, heq ▸ hleaves⟩
    all_goals cases b <;> rfl
  · exact next_congr rfl (segmentStart_waits hconfl hmask hother)
  · obtain ⟨hc, hspc, -, -, hparts, hregs⟩ := ctlIssue_confl (op := .join) (c := none) hr rfl
      (show d.seq.confl.isSome = true by rw [hconfl]; rfl) (fun _ => rfl) rfl
      (by simp [stepGate, hconfl, ha, hb]) rfl rfl
    exact ⟨_, next_congr rfl rfl, hc, hspc, hparts, hregs⟩
  · have hplaced : opPlaced d .main .join := by show d.seq.confl.isSome = true; rw [hconfl]; rfl
    have hfault := bundleFault_placed hplaced hplaced (fun _ => rfl) (fun h => absurd rfl h) fun _ _ => ⟨rfl, rfl⟩
    have hgate : stepGate d .main (ctlOnly .main .join) .join = some (holdStrand d .main) := by
      simp only [stepGate, hconfl]
      exact if_neg fun ⟨h, h'⟩ => hend.elim (· h) (· h')
    have heq : ctlIssue d .main .join = holdStrand d .main := by
      rw [ctlIssue_eq hr, tryBundle_gated hr hfault rfl rfl hgate]
    obtain ⟨hheld, hspc, hparts, hregs⟩ := holdStrand_holds d .main
    refine ⟨_, next_congr rfl heq, ?_, hheld, hspc, hparts, hregs⟩
    show (holdStrand d .main).seq.confl = some c
    rw [← hconfl]
    simp only [holdStrand]
    split
    · rfl
    · rfl

end Sys2Proof.Machine
end

section
/-! PROOFS. Pages: what a fetch leaves of the frames and of what waits, and the statement about PAGE (02, R43 to R45, R74). -/

namespace Sys2Proof.Machine

/-! ### The pager of a half -/

theorem pagerOf_setPager_self (d : Dev) (h : Nat) (p : Pager) : pagerOf (setPager d h p) h = p := by
  unfold pagerOf setPager
  split
  · rfl
  · rfl

theorem pagerOf_setPager_other (d : Dev) {h k : Nat} (p : Pager) (hk : ¬ (h = 0 ↔ k = 0)) :
    pagerOf (setPager d h p) k = pagerOf d k := by
  unfold pagerOf setPager
  by_cases hh : h = 0
  · have : k ≠ 0 := fun h => hk (by simp [hh, h])
    simp [hh, this]
  · have : k = 0 := by by_contra h; exact hk (by simp [hh, h])
    simp [hh, this]

theorem pagerOf_iff (d : Dev) {h k : Nat} (hk : h = 0 ↔ k = 0) : pagerOf d h = pagerOf d k := by
  simp only [pagerOf, hk]

/-! ### The frame a fetch takes (R44) -/

theorem foldl_best_mem {α : Type} (f : Option Nat → α × Nat → Option Nat)
    (hf : ∀ b p, f b p = some p.2 ∨ f b p = b) (l : List (α × Nat)) (b : Option Nat) (i : Nat)
    (h : l.foldl f b = some i) : b = some i ∨ ∃ x, (x, i) ∈ l := by
  induction l generalizing b with
  | nil => exact .inl h
  | cons p r ih =>
    obtain hb | ⟨x, hx⟩ := ih _ h
    · obtain hp | hp := hf b p
      · refine .inr ⟨p.1, ?_⟩
        have : p.2 = i := Option.some.inj (hp.symm.trans hb)
        simp [← this]
      · exact .inl (hp.symm.trans hb)
    · exact .inr ⟨x, List.mem_cons_of_mem _ hx⟩

/-- The frame chosen is one of the frames, and it is free. -/
theorem chooseFrame_free {used : List Nat} {fs : List Frame} {i : Nat} (h : chooseFrame used fs = some i) :
    ∃ hi : i < fs.length, frameFree used fs[i] = true := by
  obtain hb | ⟨x, hx⟩ := foldl_best_mem _ (fun b p => by
    split
    · exact .inl rfl
    · split
      · exact .inl rfl
      · exact .inr rfl) _ _ _ h
  · cases hb
  · obtain ⟨hmem, hfree⟩ := List.mem_filter.1 hx
    obtain ⟨-, hi, hxi⟩ := List.mem_zipIdx hmem
    simp only [Nat.zero_add, Nat.sub_zero] at hi hxi
    exact ⟨hi, hxi ▸ hfree⟩

theorem not_pinned_of_free {used : List Nat} {f : Frame} (h : frameFree used f = true) : f.pinned = false ∧ f.fetch = none := by
  simp only [frameFree, Bool.and_eq_true, Bool.not_eq_true', Option.isNone_iff_eq_none] at h
  exact h.1

/-! ### What a fetch leaves -/

/-- The page is not in the half but on its way or waiting for a frame. -/
def Awaits (p : Pager) (g : Nat) : Prop :=
  pageIn p g = false ∧ (pageComing p g = true ∨ g ∈ p.prefetch ∨ g ∈ p.demand)

/-- The pager went on by fetches alone: no pin changed, no page became resident, what was awaited still is. -/
structure Refills (p q : Pager) : Prop where
  pinned : pinnedCount q = pinnedCount p
  out : ∀ g, pageIn p g = false → pageIn q g = false
  kept : ∀ g, Awaits p g → Awaits q g

theorem Refills.refl (p : Pager) : Refills p p := ⟨rfl, fun _ h => h, fun _ h => h⟩

theorem Refills.trans {p q r : Pager} (h : Refills p q) (g : Refills q r) : Refills p r :=
  ⟨g.pinned.trans h.pinned, fun x hx => g.out x (h.out x hx), fun x hx => g.kept x (h.kept x hx)⟩

theorem filter_length_set {α : Type} (f : α → Bool) (l : List α) (i : Nat) (hi : i < l.length) (x : α) (h : f x = f l[i]) :
    ((l.set i x).filter f).length = (l.filter f).length := by
  rw [← List.countP_eq_length_filter, ← List.countP_eq_length_filter, List.countP_set hi, h]
  split
  · next hp =>
    have : 0 < l.countP f := List.countP_pos_iff.2 ⟨_, List.getElem_mem hi, hp⟩
    omega
  · omega

/-- A frame taken for a page: its page is no longer resident and the new one is on its way. -/
theorem refills_take {p : Pager} {i page : Nat} (hi : i < p.frames.length) (hpin : p.frames[i].pinned = false)
    (hfetch : p.frames[i].fetch = none) (f : Frame) (hf : f.resident = false ∧ f.fetch = some page ∧ f.pinned = false) :
    Refills p { p with frames := p.frames.set i f } ∧ pageComing { p with frames := p.frames.set i f } page = true := by
  obtain ⟨hres, hcoming, hfp⟩ := hf
  have hout : ∀ g, pageIn p g = false → pageIn { p with frames := p.frames.set i f } g = false := by
    intro g hg
    simp only [pageIn, List.any_eq_false] at hg ⊢
    intro x hx
    obtain hx | rfl := List.mem_or_eq_of_mem_set hx
    · exact hg x hx
    · simp [hres]
  refine ⟨⟨?_, hout, fun g ⟨hg, hw⟩ => ⟨hout g hg, hw.imp_left fun hc => ?_⟩⟩, ?_⟩
  · exact filter_length_set _ _ _ hi _ (hfp.trans hpin.symm)
  · obtain ⟨x, hx, hxf⟩ := List.any_eq_true.1 hc
    obtain ⟨j, hj, rfl⟩ := List.mem_iff_getElem.1 hx
    have hne : i ≠ j := by
      rintro rfl
      simp [hfetch] at hxf
    refine List.any_eq_true.2 ⟨p.frames[j], ?_, hxf⟩
    refine List.mem_iff_getElem.2 ⟨j, by simpa using hj, ?_⟩
    simp [hne]
  · exact List.any_eq_true.2 ⟨f, List.mem_set hi f, by simp [hcoming]⟩

theorem refills_waits {p : Pager} (a b : List Nat) :
    Refills p { p with prefetch := p.prefetch ++ a, demand := p.demand ++ b } :=
  ⟨rfl, fun _ h => h, fun _ ⟨hg, hw⟩ => ⟨hg, hw.imp id fun h =>
    h.imp (fun h => List.mem_append_left _ h) fun h => List.mem_append_left _ h⟩⟩

/-- Frame `i` taken for a page. -/
def taken (p : Pager) (i page : Nat) (pin : Bool) : Frame :=
  { p.frames.getD i Frame.init with resident := false, fetch := some page, pinned := pin }

theorem pagerOf_startFetch (d : Dev) (h i page : Nat) (pin : Bool) : pagerOf (startFetch d h i page pin) h
    = { pagerOf d h with frames := (pagerOf d h).frames.set i (taken (pagerOf d h) i page pin) } := by
  simp only [startFetch, pagerOf_setPager_self]
  rfl

theorem pagerOf_startFetch_other (d : Dev) {h k : Nat} (i page : Nat) (pin : Bool) (hk : ¬ (h = 0 ↔ k = 0)) :
    pagerOf (startFetch d h i page pin) k = pagerOf d k := by
  simp only [startFetch]
  rw [pagerOf_setPager_other _ _ hk]
  split
  · split
    · rfl
    · rfl
  · rfl

theorem pagerOf_fetchPage_other (d : Dev) {h k : Nat} (page : Nat) (demand : Bool) (hk : ¬ (h = 0 ↔ k = 0)) :
    pagerOf (fetchPage d h page demand) k = pagerOf d k := by
  have later : ∀ (c : Bool) (p : Pager), pagerOf (if c then d else setPager d h p) k = pagerOf d k := by
    intro c p
    split
    · rfl
    · exact pagerOf_setPager_other d p hk
  simp only [fetchPage]
  split
  · rfl
  · split
    · exact pagerOf_startFetch_other d _ _ _ hk
    · split
      · exact later _ _
      · exact later _ _

/-- After a fetch of a page that the half does not hold, the page is awaited. -/
theorem fetchPage_self (d : Dev) (h page : Nat) (demand : Bool) :
    Refills (pagerOf d h) (pagerOf (fetchPage d h page demand) h) ∧
      (pageIn (pagerOf d h) page = false → Awaits (pagerOf (fetchPage d h page demand) h) page) := by
  simp only [fetchPage]
  split
  · next hin =>
    refine ⟨Refills.refl _, fun hout => ⟨hout, .inl ?_⟩⟩
    simpa [hout] using hin
  · split
    · next i hi =>
      obtain ⟨hlt, hfree⟩ := chooseFrame_free hi
      obtain ⟨hpin, hfetch⟩ := not_pinned_of_free hfree
      rw [pagerOf_startFetch]
      obtain ⟨hre, hcoming⟩ := refills_take (page := page) hlt hpin hfetch (taken (pagerOf d h) i page false) ⟨rfl, rfl, rfl⟩
      exact ⟨hre, fun hout => ⟨hre.out _ hout, .inl hcoming⟩⟩
    · split
      · split
        · next hmem => exact ⟨Refills.refl _, fun hout => ⟨hout, .inr (.inr (by simpa using hmem))⟩⟩
        · rw [pagerOf_setPager_self]
          have hre := refills_waits (p := pagerOf d h) [] [page]
          rw [List.append_nil] at hre
          exact ⟨hre, fun hout => ⟨hout, .inr (.inr (by simp))⟩⟩
      · split
        · next hmem => exact ⟨Refills.refl _, fun hout => ⟨hout, .inr (.inl (by simpa using hmem))⟩⟩
        · rw [pagerOf_setPager_self]
          have hre := refills_waits (p := pagerOf d h) [page] []
          rw [List.append_nil] at hre
          exact ⟨hre, fun hout => ⟨hout, .inr (.inl (by simp))⟩⟩

/-- Every half's pager goes on by fetches alone. -/
def PagesOn (d e : Dev) : Prop := ∀ h, Refills (pagerOf d h) (pagerOf e h)

theorem PagesOn.refl (d : Dev) : PagesOn d d := fun _ => Refills.refl _

theorem PagesOn.trans {d e f : Dev} (h : PagesOn d e) (g : PagesOn e f) : PagesOn d f := fun k => (h k).trans (g k)

theorem pagesOn_of_pagers {d e : Dev} (h : ∀ k, pagerOf e k = pagerOf d k) : PagesOn d e := fun k => h k ▸ Refills.refl _

theorem pagesOn_foldl {β : Type} (g : Dev → β → Dev) (hg : ∀ d b, PagesOn d (g d b)) (l : List β) (d : Dev) :
    PagesOn d (l.foldl g d) := by
  induction l generalizing d with
  | nil => exact PagesOn.refl d
  | cons b r ih => exact (hg d b).trans (ih _)

theorem pagesOn_fetchPage (d : Dev) (h page : Nat) (demand : Bool) : PagesOn d (fetchPage d h page demand) := by
  intro k
  by_cases hk : h = 0 ↔ k = 0
  · rw [← pagerOf_iff d hk, ← pagerOf_iff (fetchPage d h page demand) hk]
    exact (fetchPage_self d h page demand).1
  · rw [pagerOf_fetchPage_other d page demand hk]
    exact Refills.refl _

/-- Every page of a list that the half does not hold is awaited once all of them are asked for. -/
theorem awaits_fetchAll (h : Nat) (demand : Bool) (l : List Nat) (d : Dev) {g : Nat} (hg : g ∈ l)
    (hout : pageIn (pagerOf d h) g = false) : Awaits (pagerOf (l.foldl (fun d q => fetchPage d h q demand) d) h) g := by
  induction l generalizing d with
  | nil => cases hg
  | cons q r ih =>
    obtain rfl | hg := List.mem_cons.1 hg
    · exact (pagesOn_foldl _ (fun d q => pagesOn_fetchPage d h q demand) r _ h).kept _ ((fetchPage_self d h g demand).2 hout)
    · exact ih _ hg ((fetchPage_self d h q demand).1.out g hout)

theorem pagesOn_serveFetches (d : Dev) (h : Nat) : PagesOn d (serveFetches d h) := by
  simp only [serveFetches]
  set p := pagerOf d h with hp
  set e := setPager d h { p with demand := [], prefetch := [] } with he
  have hfold := fun (b : Bool) (l : List Nat) (d : Dev) => pagesOn_foldl _ (fun d q => pagesOn_fetchPage d h q b) l d
  have hall : PagesOn e _ := (hfold true p.demand e).trans (hfold false p.prefetch _)
  have heh : pagerOf e h = { p with demand := [], prefetch := [] } := pagerOf_setPager_self d h _
  intro k
  by_cases hk : h = 0 ↔ k = 0
  · rw [← pagerOf_iff d hk, ← pagerOf_iff _ hk]
    have hre := hall h
    rw [heh] at hre
    refine ⟨hre.pinned, hre.out, fun g ⟨hout, hw⟩ => ?_⟩
    have houte : pageIn (pagerOf e h) g = false := by rw [heh]; exact hout
    obtain hc | hg | hg := hw
    · exact hre.kept g ⟨hout, .inl hc⟩
    · exact awaits_fetchAll h false _ _ hg ((hfold true p.demand e h).out g houte)
    · exact (hfold false p.prefetch _ h).kept g (awaits_fetchAll h true _ _ hg houte)
  · have := hall k
    rwa [show pagerOf e k = pagerOf d k from pagerOf_setPager_other d _ hk] at this

theorem pagesOn_prefetchAhead (d : Dev) (page : Nat) : PagesOn d (prefetchAhead d page) :=
  pagesOn_foldl _ (fun _ _ => pagesOn_foldl _ (fun _ _ => pagesOn_fetchPage _ _ _ _) _ _) _ _

/-- A strand that goes elsewhere has pages fetched, and the waiting fetches are served. -/
theorem pagesOn_goTo (d : Dev) (s : StrandId) (a : Nat) (loops : List LoopFrame) : PagesOn d (goTo d s a loops) := by
  have hplaced : PagesOn d (placeAt d s a loops) := pagesOn_of_pagers fun k => by cases s <;> rfl
  have hended : ∀ c, PagesOn d (endSegment (placeAt d s a loops) s c) := fun c =>
    pagesOn_of_pagers fun k => by cases s <;> rfl
  refine PagesOn.trans ?_ (pagesOn_foldl _ (fun _ _ => pagesOn_serveFetches _ _) _ _)
  have henter : ∀ (e : Dev) (enters : Bool), PagesOn d e → PagesOn d (if enters then
      prefetchAhead ([0, 1].foldl (fun d h => fetchPage d h (pageOf a) true) e) (pageOf a) else e) := by
    intro e enters he
    split
    · exact he.trans ((pagesOn_foldl _ (fun _ _ => pagesOn_fetchPage _ _ _ _) _ _).trans (pagesOn_prefetchAhead _ _))
    · exact he
  refine henter _ _ ?_
  split
  · split
    · exact hplaced
    · exact hended _
  · split
    · exact hplaced
    · exact hended _
  · exact hplaced

/-! ### The issue touches only when a frame was last used -/

/-- The frame with its time of last use changed. -/
def usedAt (g : Frame → Nat) (f : Frame) : Frame := { f with used := g f }

/-- What an issue notes in a half's frames: the page was used. -/
def touched (d : Dev) (s : StrandId) (p : Pager) : Pager :=
  let used (f : Frame) : Nat := if f.page = some (pageOf (strandOf d s).spc) then d.now else f.used
  { p with frames := p.frames.map (usedAt used), refetched := p.refetched.filter fun q => q != (strandOf d s).spc }

theorem noteIssue_touched (d : Dev) (s : StrandId) (h : Nat) : pagerOf (noteIssue d s) h = touched d s (pagerOf d h) := by
  have hmap : ∀ l : List Frame, l.map (usedAt fun f => if f.page = some (pageOf (strandOf d s).spc) then d.now else f.used)
      = l.map fun f => if f.page = some (pageOf (strandOf d s).spc) then { f with used := d.now } else f := by
    intro l
    refine List.map_congr_left fun f _ => ?_
    simp only [usedAt]
    split
    · rfl
    · rfl
  have hseq : ∀ (e : Dev) (src k src' k' : Nat), pagerOf (countBoth (countBoth e src k) src' k') h = pagerOf e h := by
    intro e src k src' k'
    rw [pagerOf, pagerOf, (countBoth_seq _ _ _).trans (countBoth_seq _ _ _)]
  simp only [noteIssue, touched, hmap]
  rw [apply_ite (pagerOf · h), hseq]
  by_cases hh : h = 0
  · simp only [pagerOf, hh, if_true]
    split
    · cases s <;> rfl
    · cases s <;> rfl
  · simp only [pagerOf, hh, if_false]
    split
    · cases s <;> rfl
    · cases s <;> rfl

theorem noteIssue_pager (d : Dev) (s : StrandId) (h : Nat) : ∃ g r,
    pagerOf (noteIssue d s) h = { pagerOf d h with frames := (pagerOf d h).frames.map (usedAt g), refetched := r } :=
  ⟨_, _, noteIssue_touched d s h⟩

section
variable (p : Pager) (g : Frame → Nat) (r : List Nat) (page : Nat)

theorem pageIn_usedAt : pageIn { p with frames := p.frames.map (usedAt g), refetched := r } page = pageIn p page := by
  simp only [pageIn, List.any_map]
  rfl

theorem frameOf_usedAt : frameOf { p with frames := p.frames.map (usedAt g), refetched := r } page = frameOf p page := by
  simp only [frameOf, List.findIdx?_map]
  rfl

theorem pinnedCount_usedAt : pinnedCount { p with frames := p.frames.map (usedAt g), refetched := r } = pinnedCount p := by
  simp only [pinnedCount, List.filter_map, List.length_map]
  rfl

theorem pinned_usedAt (i : Nat) :
    ((p.frames.map (usedAt g)).getD i Frame.init).pinned = (p.frames.getD i Frame.init).pinned := by
  simp only [List.getD_eq_getElem?_getD, List.getElem?_map]
  cases p.frames[i]? <;> rfl

end

/-! ### Pins -/

theorem pinned_modify {p : Pager} {i : Nat} (hi : i < p.frames.length) (b : Bool) :
    pinnedCount { p with frames := p.frames.modify i fun f => { f with pinned := b } } + (if p.frames[i].pinned then 1 else 0)
      = pinnedCount p + (if b then 1 else 0) := by
  have hpos : p.frames[i].pinned = true → 0 < p.frames.countP (·.pinned) := fun h =>
    List.countP_pos_iff.2 ⟨_, List.getElem_mem hi, h⟩
  simp only [pinnedCount, ← List.countP_eq_length_filter]
  rw [List.modify_eq_set_get _ hi, List.countP_set hi]
  cases hp : p.frames[i].pinned
  · simp
  · have := hpos hp
    simp only [if_true]
    omega

theorem frameOf_lt {p : Pager} {page i : Nat} (h : frameOf p page = some i) : i < p.frames.length := by
  obtain ⟨hi, -⟩ := List.findIdx?_eq_some_iff_getElem.1 h
  exact hi

theorem getD_pinned {p : Pager} {i : Nat} (hi : i < p.frames.length) :
    (p.frames.getD i Frame.init).pinned = p.frames[i].pinned := by
  rw [List.getD_eq_getElem _ _ hi]

theorem onlyPaging_pinPage (d : Dev) (h page : Nat) : OnlyPaging d (pinPage d h page).1 := by
  simp only [pinPage]
  split
  · split
    · exact OnlyPaging.refl d
    · split
      · exact OnlyPaging.refl d
      · exact onlyPaging_setPager _ _ _
  · split
    · exact onlyPaging_fetchPage _ _ _ _
    · split
      · exact onlyPaging_startFetch _ _ _ _ _
      · exact onlyPaging_fetchPage _ _ _ _

theorem onlyPaging_unpinPage (d : Dev) (h page : Nat) : OnlyPaging d (unpinPage d h page) := by
  simp only [unpinPage]
  split
  · exact (onlyPaging_setPager _ _ _).trans (onlyPaging_serveFetches _ _)
  · exact OnlyPaging.refl d

theorem pinPage_other (d : Dev) {h k : Nat} (page : Nat) (hk : ¬ (h = 0 ↔ k = 0)) :
    pagerOf (pinPage d h page).1 k = pagerOf d k := by
  simp only [pinPage]
  split
  · split
    · rfl
    · split
      · rfl
      · exact pagerOf_setPager_other _ _ hk
  · split
    · exact pagerOf_fetchPage_other _ _ _ hk
    · split
      · exact pagerOf_startFetch_other _ _ _ _ hk
      · exact pagerOf_fetchPage_other _ _ _ hk

theorem serveFetches_other (d : Dev) {h k : Nat} (hk : ¬ (h = 0 ↔ k = 0)) :
    pagerOf (serveFetches d h) k = pagerOf d k := by
  have hfold : ∀ (b : Bool) (l : List Nat) (e : Dev),
      pagerOf (l.foldl (fun d q => fetchPage d h q b) e) k = pagerOf e k := by
    intro b l
    induction l with
    | nil => exact fun _ => rfl
    | cons q r ih => exact fun e => (ih _).trans (pagerOf_fetchPage_other _ _ _ hk)
  simp only [serveFetches]
  rw [hfold, hfold, pagerOf_setPager_other _ _ hk]

theorem unpinPage_other (d : Dev) {h k : Nat} (page : Nat) (hk : ¬ (h = 0 ↔ k = 0)) :
    pagerOf (unpinPage d h page) k = pagerOf d k := by
  simp only [unpinPage]
  split
  · rw [serveFetches_other _ hk, pagerOf_setPager_other _ _ hk]
  · rfl

theorem pinPage_pins {d : Dev} {h page i : Nat} (hi : frameOf (pagerOf d h) page = some i)
    (hfew : pinnedCount (pagerOf d h) < 24) (hnot : ((pagerOf d h).frames.getD i Frame.init).pinned = false) :
    pinnedCount (pagerOf (pinPage d h page).1 h) = pinnedCount (pagerOf d h) + 1 := by
  have hlt := frameOf_lt hi
  have hcount := pinned_modify hlt true
  rw [← getD_pinned hlt, hnot] at hcount
  simp only [pinPage, hi, hnot, ge_iff_le, Nat.not_le.2 hfew, pagerOf_setPager_self, Bool.false_eq_true, if_false]
  simpa using hcount

theorem unpinPage_unpins {d : Dev} {h page i : Nat} (hi : frameOf (pagerOf d h) page = some i)
    (hpin : ((pagerOf d h).frames.getD i Frame.init).pinned = true) :
    pinnedCount (pagerOf (unpinPage d h page) h) + 1 = pinnedCount (pagerOf d h) := by
  have hlt := frameOf_lt hi
  have hcount := pinned_modify hlt false
  rw [← getD_pinned hlt, hpin] at hcount
  simp only [unpinPage, hi]
  rw [(pagesOn_serveFetches _ h h).pinned, pagerOf_setPager_self]
  simpa using hcount

/-- What is done to the one half and then to the other, seen in one of them. -/
theorem both_halves {α : Type} {f : Dev → Nat → Dev} {h : Nat} (hh : h < 2) (m : Pager → α) (d : Dev) (a : α)
    (hother : ∀ e (k l : Nat), ¬ (k = 0 ↔ l = 0) → pagerOf (f e k) l = pagerOf e l)
    (hself : ∀ e, pagerOf e h = pagerOf d h → m (pagerOf (f e h) h) = a) : m (pagerOf (f (f d 0) 1) h) = a := by
  obtain rfl | rfl : h = 0 ∨ h = 1 := by omega
  · rw [hother _ 1 0 (by decide)]
    exact hself d rfl
  · exact hself _ (hother _ 0 1 (by decide))

/-! ### PAGE -/

section
variable {d : Dev} {x : StrandId} {mode : BitVec 2} {page : BitVec 17}

/-- A PAGE, whose effect `e` leaves the sequencers able to go on, issues: after it the strand moves on and pages move. -/
theorem ctlIssue_page {ps : List Piece} {p : Nat → Bool} (hr : ctlReady d x) (hmode : mode ≠ 3#2)
    (hstate : seqState (effected d x (.page mode page)) = seqState (noteIssue d x))
    (hunwind : (effected d x (.page mode page)).seq.unwind = (noteIssue d x).seq.unwind)
    (hstrand : strandOf (effected d x (.page mode page)) x = strandOf (noteIssue d x) x)
    (hleaves : Leaves ps p (noteIssue d x) (effected d x (.page mode page)))
    (hps : Piece.seq ∈ ps ∧ Piece.gov ∈ ps ∧ Piece.pwr ∉ ps) (hp : ∀ a, p a = false → isCounter a = false) :
    PagesOn (effected d x (.page mode page)) (ctlIssue d x (.page mode page)) ∧
      (strandOf (ctlIssue d x (.page mode page)) x).spc = (advance (strandOf d x).spc (strandOf d x).loops).1 ∧
      Leaves ps p d (ctlIssue d x (.page mode page)) := by
  obtain ⟨hseq, hgov, hpwr⟩ := hps
  have hcan : canIssue (effected d x (.page mode page)) = true := by
    rw [canIssue_congr hstate hunwind (hleaves.pwr hpwr), canIssue_noteIssue]
    exact canIssue_of_strandDue hr.1
  have hplaced : opPlaced d x (.page mode page) := hmode
  have heq := ctlIssue_effect (go := onward d x) hr rfl hplaced (fun _ => rfl) (fun _ _ => rfl)
    (fun h => waitOk_of_noWait h rfl) rfl rfl (by rw [hstrand, noteIssue_rep, hr.2.2.1]) hcan
  have hnote : Leaves ps p d (noteIssue d x) := (leaves_noteIssue d x).weaken (by simpa using hseq) hp
  have hmoved := leaves_moved (s := x) (hnote.trans hleaves) hseq hgov (onward d x)
  have hpages : PagesOn (effected d x (.page mode page)) _ := PagesOn.trans
    (e := setSeq (effected d x (.page mode page)) fun q => { q with calls := (onward d x).calls })
    (pagesOn_of_pagers fun _ => rfl) (pagesOn_goTo _ x (onward d x).addr (onward d x).loops)
  rw [heq]
  exact ⟨hpages, goTo_spc _ _ _ _, hmoved⟩

end

/-- The pins of a page are asked for in both halves; beside the pages a record may say that there were too many. -/
theorem pageOp_pin (d : Dev) (s : StrandId) (w : Nat) {page : Nat} (hbound : ¬ imgPageBound d ≤ page) :
    ∃ h : Nat, pageOp d s w 1 page = (pinPage (pinPage d 0 page).1 1 page).1 ∨
      pageOp d s w 1 page = seqFault (pinPage (pinPage d 0 page).1 1 page).1 s h w 0x22 0 0 := by
  rw [pageOp, if_neg hbound]
  simp only []
  split
  · exact ⟨_, .inr rfl⟩
  · exact ⟨0, .inl rfl⟩

/-- What a PAGE that only moves pages asks of its issue. -/
theorem ctlIssue_page_of_paging {d : Dev} {x : StrandId} {mode : BitVec 2} {page : BitVec 17} (hr : ctlReady d x)
    (hmode : mode ≠ 3#2) (h : OnlyPaging (noteIssue d x) (effected d x (.page mode page))) :
    PagesOn (effected d x (.page mode page)) (ctlIssue d x (.page mode page)) ∧
      (strandOf (ctlIssue d x (.page mode page)) x).spc = (advance (strandOf d x).spc (strandOf d x).loops).1 ∧
      Leaves [.seq, .gov] isCounter d (ctlIssue d x (.page mode page)) := by
  have hleaves : Leaves [.seq, .gov] isCounter _ _ := h.leaves
  refine ctlIssue_page hr hmode (hleaves.2.fget (by decide) _) ?_ (h.strandOf x) hleaves (by simp) fun _ h => h
  obtain ⟨a, b, l, h⟩ := h
  rw [h]
  rfl

theorem seqFault_seq (d : Dev) (s : StrandId) (h w number code late : Nat) (hsev : seqSev number < 2) :
    (seqFault d s h w number code late).seq = d.seq := by
  rw [(onlyHst_seqFault d s h w number code late hsev).eq, withHst_seq, withRegs_seq]

/-- What a PAGE asks of its issue that moves pages and then reports. -/
theorem ctlIssue_page_of_report {d e : Dev} {x : StrandId} {mode : BitVec 2} {page : BitVec 17} (hr : ctlReady d x)
    (hmode : mode ≠ 3#2) (h : OnlyPaging (noteIssue d x) e) {half w : Nat}
    (heff : effected d x (.page mode page) = seqFault e x half w 0x22 0 0) :
    PagesOn e (ctlIssue d x (.page mode page)) ∧ Leaves [.seq, .gov, .hst] isLateReport d (ctlIssue d x (.page mode page)) := by
  have hpaging : Leaves [.seq, .gov, .hst] isLateReport (noteIssue d x) e := h.leaves.widen (by simp)
  have hreport := (onlyHst_seqFault e x half w 0x22 0 0 (by decide)).leaves.widen (qs := [.seq, .gov, .hst]) (by simp)
  have hseq : (effected d x (.page mode page)).seq = e.seq := heff ▸ seqFault_seq e x half w 0x22 0 0 (by decide)
  have hstate : seqState e = seqState (noteIssue d x) := (h.leaves (p := fun _ => false)).2.fget rfl _
  have hunwind : e.seq.unwind = (noteIssue d x).seq.unwind := by
    obtain ⟨a, b, l, rfl⟩ := h
    rfl
  obtain ⟨hon, -, hleaves⟩ := ctlIssue_page hr hmode
    (heff ▸ (seqState_seqFault e x half w 0x22 0 0 (by decide)).trans hstate) (hseq ▸ hunwind)
    ((strandOf_congr hseq x).trans (h.strandOf x)) (heff ▸ hpaging.trans hreport) (by simp)
    fun _ h => isReport_of_isCounter (isReport_of_isLateReport h)
  exact ⟨PagesOn.trans (pagesOn_of_pagers fun k => by rw [pagerOf, pagerOf, hseq]) hon, hleaves⟩

/-- Settles O19: PAGE stands in both half-words, and its effect moves pages alone, but for the record of a pin too many in
the other half. -/
theorem pagesArePrefetchedPinnedAndUnpinned : Obligations.PagesArePrefetchedPinnedAndUnpinned := by
  intro t x page h s d p hr hbound hh
  obtain ⟨g, r, hnote⟩ := noteIssue_pager d x h
  have hbound' : ¬ imgPageBound (noteIssue d x) ≤ page.toNat := by
    have hlive : (noteIssue d x).live = d.live := (leaves_noteIssue d x).1 .live (by simp)
    rw [show imgPageBound (noteIssue d x) = imgPageBound d by simp only [imgPageBound, imgPages, liveGet, hlive]]
    exact Nat.not_le.2 hbound
  refine ⟨fun hout => ?_, fun i hi hfew hnot => ?_, fun i hi hpin => ?_⟩
  · have heff : effected d x (.page 0 page) = fetchPage (fetchPage (noteIssue d x) 0 page.toNat false) 1 page.toNat false :=
      if_neg hbound'
    have hpaging : OnlyPaging (noteIssue d x) (effected d x (.page 0 page)) :=
      heff ▸ (onlyPaging_fetchPage _ _ _ _).trans (onlyPaging_fetchPage _ _ _ _)
    obtain ⟨hon, -, hparts, hregs⟩ := ctlIssue_page_of_paging hr (by decide) hpaging
    have hawaits : Awaits (pagerOf (effected d x (.page 0 page)) h) page.toNat := by
      rw [heff]
      refine of_eq_true (both_halves (f := fun d h => fetchPage d h page.toNat false) hh (fun p => Awaits p page.toNat)
        (noteIssue d x) True (fun e k l hk => pagerOf_fetchPage_other e _ _ hk) fun e he => eq_true ?_)
      refine (fetchPage_self e h page.toNat false).2 ?_
      rw [he, hnote, pageIn_usedAt]
      exact hout
    exact ⟨_, next_congr rfl rfl, ((hon h).kept _ hawaits).2, hparts, hregs⟩
  · have hcount : pinnedCount (pagerOf (pinPage (pinPage (noteIssue d x) 0 page.toNat).1 1 page.toNat).1 h)
        = pinnedCount p + 1 := by
      refine both_halves (f := fun d h => (pinPage d h page.toNat).1) hh pinnedCount (noteIssue d x) _
        (fun e k l hk => pinPage_other e _ hk) fun e he => ?_
      have hpins := pinPage_pins (d := e) (h := h) (page := page.toNat) (i := i) (by rw [he, hnote, frameOf_usedAt]; exact hi)
        (by rw [he, hnote, pinnedCount_usedAt]; exact hfew) (by rw [he, hnote, pinned_usedAt]; exact hnot)
      rw [hpins, he, hnote, pinnedCount_usedAt]
    have hpaging := (onlyPaging_pinPage (noteIssue d x) 0 page.toNat).trans (onlyPaging_pinPage _ 1 page.toNat)
    obtain ⟨k, heff | heff⟩ := pageOp_pin (noteIssue d x) x (ctlOnly x (.page 1 page)) hbound'
    · obtain ⟨hon, -, hleaves⟩ := ctlIssue_page_of_paging (mode := 1) hr (by decide) (heff.symm ▸ hpaging)
      obtain ⟨hparts, hregs⟩ := hleaves.weaken (qs := [.seq, .gov, .hst]) (q := isLateReport) (by simp)
        fun _ h => isReport_of_isCounter (isReport_of_isLateReport h)
      refine ⟨_, next_congr rfl rfl, ((hon h).pinned.trans ?_), hparts, hregs⟩
      exact (congrArg (fun e => pinnedCount (pagerOf e h)) heff).trans hcount
    · obtain ⟨hon, hparts, hregs⟩ := ctlIssue_page_of_report (mode := 1) hr (by decide) hpaging heff
      exact ⟨_, next_congr rfl rfl, (hon h).pinned.trans hcount, hparts, hregs⟩
  · have heff : effected d x (.page 2 page) = unpinPage (unpinPage (noteIssue d x) 0 page.toNat) 1 page.toNat := if_neg hbound'
    have hpaging : OnlyPaging (noteIssue d x) (effected d x (.page 2 page)) :=
      heff ▸ (onlyPaging_unpinPage _ _ _).trans (onlyPaging_unpinPage _ _ _)
    obtain ⟨hon, -, hparts, hregs⟩ := ctlIssue_page_of_paging hr (by decide) hpaging
    refine ⟨_, next_congr rfl rfl, ?_, hparts, hregs⟩
    rw [(hon h).pinned, heff]
    refine both_halves (f := fun d h => unpinPage d h page.toNat) hh (fun q => pinnedCount q + 1) (noteIssue d x) _
      (fun e k l hk => unpinPage_other e _ hk) fun e he => ?_
    have hunpins := unpinPage_unpins (d := e) (h := h) (page := page.toNat) (i := i)
      (by rw [he, hnote, frameOf_usedAt]; exact hi) (by rw [he, hnote, pinned_usedAt]; exact hpin)
    rw [hunpins, he, hnote, pinnedCount_usedAt]

end Sys2Proof.Machine
end

section
/-! PROOFS. TRAP and HALT: a record of the sequencer, and the sequencers' own stop (02, R42, R77 to R85). -/

namespace Sys2Proof.Machine

/-! ### A record of the sequencer below step-fatal -/

section
variable {d : Dev} {s : StrandId} {h w number code late : Nat}

theorem fget_seqFault (hsev : seqSev number < 2) {f : Fld} (hf : f.ok = true) (hexc : F.SEQ_STS_EXC.apart f = true) :
    fget (seqFault d s h w number code late) (A.SEQ_STS 0) f = fget d (A.SEQ_STS 0) f := by
  rw [seqFault, seqRaise, seqRaiseSev, raise_minor _ _ _ _ _ hsev, (onlyHst_post _ _ _ _ _).2.fget (by decide),
    fget_fset_apart _ _ _ _ _ _ (by decide) hf hexc]

theorem exc_seqFault (hsev : seqSev number < 2) :
    fget (seqFault d s h w number code late) (A.SEQ_STS 0) F.SEQ_STS_EXC = number % 256 := by
  rw [seqFault, seqRaise, seqRaiseSev, raise_minor _ _ _ _ _ hsev, (onlyHst_post _ _ _ _ _).2.fget (by decide),
    fget_fset_self _ _ _ _ (by decide)]
  rfl

end

/-! ### The sequencers stop themselves (R42) -/

/-- The registers that the sequencers' own stop writes. -/
def isStop (a : Nat) : Bool := isReport a || these [A.SEQ_STS 0, A.SEQ_CTL 0, A.TST_CAPSTS] a

theorem seqSelfStop_stops {d : Dev} (hrun : seqState d = 1) :
    blkState (seqSelfStop d) .seq = 2 ∧ fget (seqSelfStop d) (A.SEQ_CTL 0) F.EN = 0 ∧
      (∀ y, (strandOf (seqSelfStop d) y).on = false) ∧
      (∀ f, f.ok = true → F.STATE.apart f = true → fget (seqSelfStop d) (A.SEQ_STS 0) f = fget d (A.SEQ_STS 0) f) ∧
      Leaves [.seq, .drain] isStop d (seqSelfStop d) := by
  have heq : seqSelfStop d = fset (drainBegins (stopStrands d) (A.SEQ_STS 0)) (A.SEQ_CTL 0) F.EN 0 := if_pos hrun
  have hctl : A.SEQ_CTL 0 ≠ A.SEQ_STS 0 := by decide
  have hstop : Leaves [.seq, .drain] isStop d (stopStrands d) := (leaves_stopStrands d (by decide)).widen (by simp)
  have hdrain := drainBegins_drains (stopStrands d) .seq
  rw [heq]
  refine ⟨?_, fget_fset_self _ _ _ _ (by decide), fun y => ?_, fun f hf hapart => ?_, ?_⟩
  · exact (fget_fset_ne _ hctl.symm _ _ _).trans hdrain.1
  · have hy := (stopStrands_strands d y).1
    cases y
    all_goals exact hy
  · rw [fget_fset_ne _ hctl.symm, drainBegins, fget_fset_apart _ _ _ _ _ _ (by decide) hf hapart, fget_withDrainAt]
    exact (leaves_stopStrands (p := these [A.TST_CAPSTS]) d (by decide)).2.fget (by decide) f
  · have hwritten : isStop (A.SEQ_STS 0) = true ∧ isStop (A.SEQ_CTL 0) = true := by decide
    simp [hwritten, hstop]

/-- What a stop by an op leaves: the code of the op, the record's number, and the pair draining. -/
structure Halted (d e : Dev) (code : Nat) : Prop where
  state : blkState e .seq = 2
  en : fget e (A.SEQ_CTL 0) F.EN = 0
  code : fget e (A.SEQ_STS 0) F.SEQ_STS_CODE = code
  exc : fget e (A.SEQ_STS 0) F.SEQ_STS_EXC = 0x31
  off : ∀ y, (strandOf e y).on = false
  leaves : Leaves [.seq, .hst, .drain] isStop d e

theorem halted_seqHalt {d : Dev} {s : StrandId} {h w code : Nat} (hrun : seqState d = 1) (hcode : code < 2 ^ 16) :
    Halted d (seqHalt d s h w code) code := by
  unfold seqHalt
  set c := fset d (A.SEQ_STS 0) F.SEQ_STS_CODE code with hc
  set e := seqFault c s h w 0x31 code 0 with he
  have hstate : seqState e = 1 := by
    rw [he, seqState_seqFault _ _ _ _ _ _ _ (by decide), hc, seqState, stOf,
      fget_fset_apart _ _ _ _ _ _ (by decide) (by decide) (by decide)]
    exact hrun
  obtain ⟨hst, hen, hoff, hsts, hleaves⟩ := seqSelfStop_stops hstate
  refine ⟨hst, hen, ?_, ?_, hoff, ?_⟩
  · rw [hsts _ (by decide) (by decide), he, fget_seqFault (by decide) (by decide) (by decide), hc,
      fget_fset_self _ _ _ _ (by decide)]
    exact Nat.mod_eq_of_lt hcode
  · rw [hsts _ (by decide) (by decide), he, exc_seqFault (by decide)]
  · have hc' : Leaves [.seq, .hst, .drain] isStop d c := by
      rw [hc, leaves_fset_iff (by decide)]
      exact leaves_self
    have he' : Leaves [.seq, .hst, .drain] isStop c e :=
      (onlyHst_seqFault c s h w 0x31 code 0 (by decide)).leaves.weaken (by simp) fun a ha => by
        simp only [isStop, isLateReport, these, Bool.or_eq_false_iff, List.contains_cons] at ha ⊢
        exact ⟨ha.1, ha.2.1⟩
    exact hc'.trans (he'.trans (hleaves.widen (by simp)))

/-! ### The issue of a TRAP or a HALT -/

/-- The ops that note and stop, and no op. -/
def isNote : CtlOp → Bool
  | .trap .. | .halt _ | .nop => true
  | _ => false

section
variable {d : Dev} {s : StrandId} {oa ob : CtlOp}

/-- The package once a bundle of such ops is noted as issued and its traps are reported. -/
def trapped (d : Dev) (s : StrandId) (oa ob : CtlOp) : Dev :=
  trapNote (trapNote (noteIssue d s) s 0 (ctlOnly s oa) oa) s 1 (ctlOnly s ob) ob

/-- Such an op is not late, moves no time and has no effect beside its record. -/
theorem quiet_of_isNote {op : CtlOp} (h : isNote op = true) :
    sidLateness d op = none ∧ isPage op = false ∧ (∀ e w, ctlEffect e s w op = e) ∧ (∀ t, op ≠ .sida t) ∧
      ∀ src, op ≠ .stepb src := by
  cases op
  case trap | halt | nop => exact ⟨rfl, rfl, fun _ _ => rfl, nofun, nofun⟩
  all_goals exact absurd h Bool.false_ne_true

theorem noteLate_quiet {wa wb : Nat} (ha : sidLateness d oa = none) (hb : sidLateness d ob = none) :
    noteLate d s wa wb oa ob = d := by
  simp [noteLate, ha, hb]

theorem noteSida_quiet (ha : ∀ t, oa ≠ .sida t) (hb : ∀ t, ob ≠ .sida t) : noteSida d oa ob = d := by
  unfold noteSida
  split
  · next t => exact absurd rfl (ha t)
  · next t _ => exact absurd rfl (hb t)
  · rfl

/-- The issue of such a bundle: the strand is noted, the traps report, and a stop follows or the strand goes on. -/
theorem issueBundle_note {go : Flow} (ha : isNote oa = true) (hb : isNote ob = true) (hrep : (strandOf d s).rep = 0) {e : Dev}
    (he : e = match stopsAfter (ctlOnly s oa) (ctlOnly s ob) oa ob with
      | some (code, h, w) => seqHalt (trapped d s oa ob) s h w code
      | none => trapped d s oa ob) : issueBundle d s [] (ctlOnly s oa) (ctlOnly s ob) oa ob go
      = if !canIssue e then e else
          if (strandOf e s).rep ≤ 0 then e else goTo (setSeq e fun q => { q with calls := go.calls }) s go.addr go.loops := by
  obtain ⟨hlateA, hpageA, heffA, hsidaA, hstepA⟩ := quiet_of_isNote (d := d) (s := s) ha
  obtain ⟨hlateB, hpageB, heffB, hsidaB, -⟩ := quiet_of_isNote (d := d) (s := s) hb
  unfold issueBundle
  extract_lets x first audited late noted effA effB slots reported stopped moved
  have hfirst : first = true := by simp [first, x, hrep]
  have haudited : audited = d := by
    simp only [audited]
  have hstopped : stopped = e := by
    simp only [stopped, reported, slots, issueSlots_ctlOnly, effB, effA, noted, late, hfirst, haudited, hpageA, hpageB,
      heffA, heffB, Bool.true_or, Bool.not_false, Bool.and_true, Bool.false_eq_true, if_true, if_false]
    rw [noteLate_quiet hlateA hlateB, noteSida_quiet hsidaA hsidaB, he]
    rfl
  rw [← hstopped]
  have hmoved : moved = if (strandOf stopped s).rep ≤ 0 then stopped
      else goTo (setSeq stopped fun q => { q with calls := go.calls }) s go.addr go.loops := by
    simp only [moved, hwRepeat_ctlOnly]
  rw [← hmoved]
  split
  · rfl
  · split
    · exact absurd rfl (hstepA _)
    · rfl

/-- The flow of such an op leads on. -/
theorem flowOf_of_isNote {op : CtlOp} (h : isNote op = true) : flowOf d s op = .ok (onward d s) := by
  cases op
  case trap | halt | nop => rfl
  all_goals exact absurd h Bool.false_ne_true

theorem stepGate_of_isNote {op : CtlOp} {w : Nat} (h : isNote op = true) : stepGate d s w op = none := by
  cases op
  case trap | halt | nop => rfl
  all_goals exact absurd h Bool.false_ne_true

theorem opPlaced_of_isNote {op : CtlOp} (h : isNote op = true) : opPlaced d s op := by
  cases op
  case trap | halt | nop => trivial
  all_goals exact absurd h Bool.false_ne_true

theorem isWait_of_isNote {op : CtlOp} (h : isNote op = true) : isWait op = false := by
  cases op
  case trap | halt | nop => rfl
  all_goals exact absurd h Bool.false_ne_true

/-- A bundle of such ops, allowed where it stands, is issued. -/
theorem tryBundle_note (hr : ctlReady d s) (ha : isNote oa = true) (hb : isNote ob = true)
    (hshare : (isShared oa || isShared ob) = true → oa = ob) (hseg : s ≠ .main → segAllows oa = true ∧ segAllows ob = true)
    (hfork : s = .main → d.seq.confl.isSome = true → forkAllows oa = true ∧ forkAllows ob = true) :
    tryBundle d s [] (ctlOnly s oa) (ctlOnly s ob) = issueBundle d s [] (ctlOnly s oa) (ctlOnly s ob) oa ob (onward d s) :=
  tryBundle_reaches hr (bundleFault_placed (opPlaced_of_isNote ha) (opPlaced_of_isNote hb) hshare hseg hfork)
    (waitOk_of_noWait 0 (isWait_of_isNote ha)) (waitOk_of_noWait 1 (isWait_of_isNote hb)) (stepGate_of_isNote ha)
    (flowOf_of_isNote ha)

theorem seqState_of_strandDue (h : strandDue d s = true) : seqState d = 1 := by
  have hissue := canIssue_of_strandDue h
  simp only [canIssue, Bool.and_eq_true, decide_eq_true_eq] at hissue
  exact hissue.1.1.1

/-- An op that stops does: the pair stops with its code. -/
theorem halted_issueBundle {go : Flow} {code h w : Nat} (hr : ctlReady d s) (ha : isNote oa = true) (hb : isNote ob = true)
    (hstops : stopsAfter (ctlOnly s oa) (ctlOnly s ob) oa ob = some (code, h, w)) (hcode : code < 2 ^ 16)
    (hlate : LateNoted (noteIssue d s) (trapped d s oa ob)) :
    Halted d (issueBundle d s [] (ctlOnly s oa) (ctlOnly s ob) oa ob go) code := by
  have hstate : seqState d = 1 := seqState_of_strandDue hr.1
  have hrun : seqState (trapped d s oa ob) = 1 := by
    rw [hlate.state, seqState, stOf, (leaves_noteIssue d s).2.fget (by decide)]
    exact hstate
  have hhalted := halted_seqHalt (s := s) (h := h) (w := w) hrun hcode
  have hcan : canIssue (seqHalt (trapped d s oa ob) s h w code) = false := by
    have hdrains : seqState (seqHalt (trapped d s oa ob) s h w code) = 2 := hhalted.state
    simp [canIssue, hdrains]
  rw [issueBundle_note ha hb hr.2.2.1 (by rw [hstops]), hcan]
  have hnote : Leaves [.seq, .hst, .drain] isStop d (noteIssue d s) :=
    (leaves_noteIssue d s).weaken (by simp) fun a ha => isReport_of_isCounter (by
      simp only [isStop, Bool.or_eq_false_iff] at ha
      exact ha.1)
  have htrap : Leaves [.seq, .hst, .drain] isStop (noteIssue d s) (trapped d s oa ob) :=
    hlate.leaves.weaken (by simp) fun a ha => by
      simp only [isStop, isLateReport, these, Bool.or_eq_false_iff, List.contains_cons] at ha ⊢
      exact ⟨ha.1, ha.2.1⟩
  exact { hhalted with leaves := (hnote.trans htrap).trans hhalted.leaves }

end

/-- A TRAP alone in half `h` reports there. -/
theorem trapped_inHalf (d : Dev) (s : StrandId) (h : Half) (stop : BitVec 1) (code : BitVec 16) : ∃ w,
    trapped d s (inHalf h .A (.trap stop code)) (inHalf h .B (.trap stop code))
      = seqFault (noteIssue d s) s (hn h) w 0x30 code.toNat 0 := by
  cases h
  all_goals exact ⟨_, rfl⟩

theorem stopsAfter_inHalf (h : Half) (stop : BitVec 1) (code : BitVec 16) (wa wb : Nat) : ∃ w,
    stopsAfter wa wb (inHalf h .A (.trap stop code)) (inHalf h .B (.trap stop code))
      = if stop = 1 then some (code.toNat, hn h, w) else none := by
  cases h
  all_goals exact ⟨_, rfl⟩

theorem isNote_inHalf (h k : Half) (stop : BitVec 1) (code : BitVec 16) : isNote (inHalf h k (.trap stop code)) = true := by
  unfold inHalf
  split
  · rfl
  · rfl

theorem isShared_inHalf (h k : Half) (stop : BitVec 1) (code : BitVec 16) :
    isShared (inHalf h k (.trap stop code)) = false := by
  unfold inHalf
  split
  · rfl
  · rfl

theorem allowed_inHalf (h k : Half) (stop : BitVec 1) (code : BitVec 16) :
    segAllows (inHalf h k (.trap stop code)) = true ∧ forkAllows (inHalf h k (.trap stop code)) = true := by
  unfold inHalf
  split
  · exact ⟨rfl, rfl⟩
  · exact ⟨rfl, rfl⟩

section
variable {d : Dev} {s : StrandId} {h : Half} {stop : BitVec 1} {code : BitVec 16}

theorem ctlIssueIn_trap (hr : ctlReady d s) : ctlIssueIn d s (hn h) (.trap stop code)
    = issueBundle d s [] (ctlOnly s (inHalf h .A (.trap stop code))) (ctlOnly s (inHalf h .B (.trap stop code)))
      (inHalf h .A (.trap stop code)) (inHalf h .B (.trap stop code)) (onward d s) := by
  rw [ctlIssueIn_eq hr]
  exact tryBundle_note hr (isNote_inHalf _ _ _ _) (isNote_inHalf _ _ _ _) (by simp [isShared_inHalf])
    (fun _ => ⟨(allowed_inHalf _ _ _ _).1, (allowed_inHalf _ _ _ _).1⟩)
    fun _ _ => ⟨(allowed_inHalf _ _ _ _).2, (allowed_inHalf _ _ _ _).2⟩

theorem lateNoted_trapped : LateNoted (noteIssue d s)
    (trapped d s (inHalf h .A (.trap stop code)) (inHalf h .B (.trap stop code))) := by
  obtain ⟨w, heq⟩ := trapped_inHalf d s h stop code
  exact heq ▸ lateNoted_seqFault _ _ _ _ _ _ _ (by decide)

end

/-- A bundle whose traps only report goes on. -/
theorem issueBundle_reports {d : Dev} {s : StrandId} {oa ob : CtlOp} {go : Flow} (hr : ctlReady d s) (ha : isNote oa = true)
    (hb : isNote ob = true) (hstops : stopsAfter (ctlOnly s oa) (ctlOnly s ob) oa ob = none)
    (hlate : LateNoted (noteIssue d s) (trapped d s oa ob)) : issueBundle d s [] (ctlOnly s oa) (ctlOnly s ob) oa ob go
      = goTo (setSeq (trapped d s oa ob) fun q => { q with calls := go.calls }) s go.addr go.loops := by
  have hcan : canIssue (trapped d s oa ob) = true := by
    rw [canIssue_congr hlate.state hlate.unwind (hlate.leaves.pwr (by simp)), canIssue_noteIssue]
    exact canIssue_of_strandDue hr.1
  have hrep : (strandOf (trapped d s oa ob) s).rep = 1 := by
    rw [hlate.strand, noteIssue_rep, hr.2.2.1]
  rw [issueBundle_note ha hb hr.2.2.1 (e := trapped d s oa ob) (by rw [hstops]), hcan, hrep]
  rfl

/-- Settles O20: a TRAP stands alone in its half and reports; one with STOP, and a HALT in both halves, halt the pair. -/
theorem trapsReportAndHaltsStop : Obligations.TrapsReportAndHaltsStop := by
  intro t x h code s d stops hr
  have hstopped : ∀ c e, exec c s = .next { s with dev := e } → Halted d e code.toNat → stops c :=
    fun c e hexec ⟨hst, hen, hcode, hexc, hoff, hleaves⟩ =>
      ⟨_, hexec, hst, hen, hcode, hexc, hoff, (hleaves.widen (by simp)).1, hleaves.2⟩
  refine ⟨?_, ?_, fun hmain hconfl => ?_⟩
  · obtain ⟨w, htrap⟩ := trapped_inHalf d x h 0#1 code
    obtain ⟨w', hstops⟩ := stopsAfter_inHalf h 0#1 code (ctlOnly x (inHalf h .A (.trap 0#1 code)))
      (ctlOnly x (inHalf h .B (.trap 0#1 code)))
    have heq := (ctlIssueIn_trap hr).trans (issueBundle_reports (go := onward d x) hr (isNote_inHalf h .A 0#1 code)
      (isNote_inHalf h .B 0#1 code) hstops lateNoted_trapped)
    have hissued := (lateNoted_trapped (d := d) (s := x) (h := h) (stop := 0#1) (code := code)).leaves
    have hleaves : Leaves [.seq, .gov, .hst] isLateReport d (ctlIssueIn d x (hn h) (.trap 0#1 code)) := by
      rw [heq]
      exact leaves_moved (((leaves_noteIssue d x).weaken (by simp) fun a ha =>
        isReport_of_isCounter (isReport_of_isLateReport ha)).trans (hissued.widen (by simp))) (by simp) (by simp) (onward d x)
    have hsts : ∀ f, fget (ctlIssueIn d x (hn h) (.trap 0#1 code)) (A.SEQ_STS 0) f = fget (seqFault (noteIssue d x) x (hn h) w
        0x30 code.toNat 0) (A.SEQ_STS 0) f := by
      intro f
      rw [heq, ← htrap]
      exact (leaves_goTo (p := fun _ => false) _ _ _ _).2.fget rfl f
    refine ⟨_, next_congr rfl rfl, ?_, ?_, ?_, hleaves.1, hleaves.2⟩
    · exact (hsts _).trans (exc_seqFault (by decide))
    · exact (congrArg (fun e => (strandOf e x).spc) heq).trans (goTo_spc _ _ _ _)
    · refine (hsts F.STATE).trans ((seqState_seqFault _ _ _ _ _ _ _ (by decide)).trans ?_)
      exact ((leaves_noteIssue d x).2.fget (by decide) _).trans (seqState_of_strandDue hr.1)
  · obtain ⟨w, hstops⟩ := stopsAfter_inHalf h 1#1 code (ctlOnly x (inHalf h .A (.trap 1#1 code)))
      (ctlOnly x (inHalf h .B (.trap 1#1 code)))
    have hhalted := halted_issueBundle (go := onward d x) hr (isNote_inHalf _ _ _ _) (isNote_inHalf _ _ _ _) hstops code.isLt
      lateNoted_trapped
    exact hstopped _ _ (next_congr rfl (ctlIssueIn_trap hr)) hhalted
  · subst hmain
    have htry : ctlIssue d .main (.halt code) = _ := (ctlIssue_eq hr).trans
      (tryBundle_note hr rfl rfl (fun _ => rfl) (fun h => absurd rfl h) fun _ hc => by simp [hconfl] at hc)
    exact hstopped _ _ (next_congr rfl htry) (halted_issueBundle hr rfl rfl rfl code.isLt (LateNoted.refl _))

end Sys2Proof.Machine
end

section
/-! PROOFS. Steps: what a STEPB opens beside the sequencers, and what a VERD closes (02, R75 to R81). -/

namespace Sys2Proof.Machine

section
variable {ps : List Piece} {p : Nat → Bool} {d e : Dev}

/-- A record posted stays inside every frame that names the host's part and the report's registers. -/
theorem leaves_post_iff {number sev src : Nat} {payload : List Nat} (h : Piece.hst ∈ ps)
    (hp : ∀ a, p a = false → isReport a = false) : Leaves ps p d (post e number sev src payload) ↔ Leaves ps p d e :=
  (onlyHst_post e number sev src payload).leaves.drop (by simpa using h) hp

@[simp] theorem leaves_withObs_iff {v} (h : Piece.gov ∈ ps) : Leaves ps p d (e.withObs v) ↔ Leaves ps p d e :=
  leaves_part .gov h rfl fun y hy => by cases y <;> simp_all [Piece.same]

theorem Leaves.foldl {β : Type} {g : Dev → β → Dev} {l : List β} (hg : ∀ e b, b ∈ l → Leaves ps p d e → Leaves ps p d (g e b))
    (h : Leaves ps p d e) : Leaves ps p d (l.foldl g e) := by
  induction l generalizing e with
  | nil => exact h
  | cons b r ih => exact ih (fun e c hc => hg e c (List.mem_cons_of_mem _ hc)) (hg e b List.mem_cons_self h)

end

/-! ### What the other units do at the start of a step (R75) -/

/-- The registers beside those that a step's start and the state of the pair stand in. -/
def besideStep (a : Nat) : Bool := !these [A.SEQ_STEP 0, A.SEQ_T0 0, A.SEQ_STS 0] a

theorem besideStep_iff (a : Nat) : besideStep a = true ↔ a ≠ 0x1000058 ∧ a ≠ 0x1000060 ∧ a ≠ 0x1000008 := by
  simp [besideStep, these, A.SEQ_STEP, A.SEQ_T0, A.SEQ_STS]

theorem isReport_of_besideStep (a : Nat) (h : besideStep a = false) : isReport a = false := by
  simp only [besideStep, Bool.not_eq_false', these_iff, List.mem_cons, List.not_mem_nil, or_false] at h
  obtain rfl | rfl | rfl := h
  all_goals decide

section
variable {d e : Dev}

/-- The parts in which the other units keep what they hold of a step. -/
def stepParts : List Piece := [.ril, .eph, .ast, .mach, .hst]

theorem leaves_rilStep (h : Leaves stepParts besideStep d e) : Leaves stepParts besideStep d (rilStep e) := by
  simpa [rilStep, stepParts] using h

theorem leaves_ephRetire (h : Leaves stepParts besideStep d e) : Leaves stepParts besideStep d (ephRetire e) := by
  refine h.foldl fun e k hk he => ?_
  obtain ⟨r, hr, rfl⟩ := List.mem_map.1 (List.mem_filter.1 hk).1
  have hslot := (List.mem_filter.1 hr).2
  rw [Bool.and_eq_true, decide_eq_true_eq, decide_eq_true_eq] at hslot
  have hp : besideStep (A.EPH_SLOT ((r.1 - A.EPH_SLOT 0) / 8)) = true := by
    simp only [besideStep_iff, A.EPH_SLOT] at hslot ⊢
    omega
  exact (leaves_fset_iff hp).2 he

theorem leaves_ephStep (h : Leaves stepParts besideStep d e) : Leaves stepParts besideStep d (ephStep e) := by
  have htag : besideStep A.EPH_TAG = true := by decide
  refine leaves_ephRetire ?_
  simp only [raiseFloor]
  split
  · simpa [htag, stepParts] using h
  · simpa [htag, stepParts] using h

theorem bankReg_eq (h b : Nat) : bankReg h b = A.AST_BANK0 h ∨ bankReg h b = A.AST_BANK1 h := by
  unfold bankReg
  split
  · exact .inl rfl
  · exact .inr rfl

theorem besideStep_bankReg (h b : Nat) : besideStep (bankReg h b) = true := by
  rw [besideStep_iff]
  obtain hb | hb := bankReg_eq h b
  · simp only [hb, A.AST_BANK0]; omega
  · simp only [hb, A.AST_BANK1]; omega

theorem besideStep_astSts (h : Nat) : besideStep (A.AST_STS h) = true := by
  simp only [besideStep_iff, A.AST_STS]; omega

theorem leaves_bankStep (h n : Nat) (he : Leaves stepParts besideStep d e) :
    Leaves stepParts besideStep d (bankStep e h n) := by
  have hbank := besideStep_bankReg h n
  have hsts := besideStep_astSts h
  simp only [bankStep]
  split
  · exact he
  · rw [leaves_fset_iff hbank, leaves_fset_iff hbank]
    split
    · rw [astNote, raise_minor _ _ _ _ _ (by decide), leaves_post_iff (by simp [stepParts]) isReport_of_besideStep,
        leaves_fset_iff hsts]
      simpa [zeroBank, stepParts] using he
    · exact he

theorem leaves_astStep (h : Leaves stepParts besideStep d e) : Leaves stepParts besideStep d (astStep e) := by
  refine leaves_bankStep _ _ (leaves_bankStep _ _ ?_)
  simpa [stepParts] using h

theorem leaves_cntStep (h : Leaves stepParts besideStep d e) : Leaves stepParts besideStep d (cntStep e) := by
  have hclear : ∀ (e : Dev) (base n : Nat), Leaves stepParts besideStep d e →
      (∀ k < n, besideStep (base + 0x400 + 8 * k) = true) → Leaves stepParts besideStep d
        ((selectedCounters e base n).foldl (fun d k =>
          if fget d (base + 0x100 + 8 * k) F.CNT_SEL_STEPCLR = 1 then regSet d (base + 0x400 + 8 * k) 0 else d) e) := by
    intro e base n he hbase
    refine he.foldl fun c k hk hc => ?_
    obtain ⟨r, hr, rfl⟩ := List.mem_map.1 hk
    have hrange := (List.mem_filter.1 hr).2
    simp only [Bool.and_eq_true, decide_eq_true_eq] at hrange
    split
    · exact (leaves_regSet_iff (hbase _ (by omega))).2 hc
    · exact hc
  refine hclear _ _ _ (hclear _ _ _ (hclear _ _ _ h ?_) ?_) ?_
  · intro k hk; simp only [besideStep_iff, A.CNT_CTL]; omega
  · intro k hk; simp only [besideStep_iff, A.CNT_CTL]; omega
  · intro k hk; simp only [besideStep_iff, A.GCNT_CTL]; omega

theorem leaves_colStep (h : Leaves stepParts besideStep d e) : Leaves stepParts besideStep d (colStep e) := by
  simpa [colStep, stepParts] using h

theorem leaves_headsCommit (h : Leaves stepParts besideStep d e) : Leaves stepParts besideStep d (headsCommit e) := by
  refine h.foldl fun c n _ hc => ?_
  split
  · exact hc
  · have hridx : besideStep (A.HST_RIDX n) = true := by
      simp only [besideStep_iff, A.HST_RIDX]; omega
    simpa [commitHead, ringWb, hostWrite, hridx, stepParts] using hc

/-- The package with the step's own registers and flags set, before the other units start theirs. -/
def stepOpened (d : Dev) (spc t0 : Nat) : Dev :=
  let d := fset (regSet d (A.SEQ_T0 0) (BitVec.ofNat 64 t0)) (A.SEQ_STEP 0) F.SEQ_STEP_ADDR spc
  let d := setSeq d fun q => { q with stepOpen := true, report := none }
  d.withObs (obsPut d.obs .verdict 0)

theorem openStep_eq (d : Dev) (spc t0src : Nat) :
    openStep d spc t0src = headsCommit (colStep (cntStep (astStep (ephStep (rilStep
      (stepOpened d spc (if t0src = 1 then d.seq.sidaTime.getD 0 else sidNow d))))))) := rfl

theorem leaves_openStep (d : Dev) (spc t0src : Nat) : Leaves stepParts besideStep
    (stepOpened d spc (if t0src = 1 then d.seq.sidaTime.getD 0 else sidNow d)) (openStep d spc t0src) := by
  rw [openStep_eq]
  exact leaves_headsCommit (leaves_colStep (leaves_cntStep (leaves_astStep (leaves_ephStep (leaves_rilStep leaves_self)))))

end

/-! ### STEPB -/

/-- The registers that an audit writes. -/
def isAudit (a : Nat) : Bool := isReport a || these [A.TST_AUDSTS, A.TST_STS] a

theorem leaves_audit (d : Dev) (bs : List Book) : Leaves [.tst, .hst] isAudit d (audit d bs) := by
  have hreport : ∀ a, isAudit a = false → isReport a = false := fun a h => by
    simp only [isAudit, Bool.or_eq_false_iff] at h
    exact h.1
  have haud : isAudit A.TST_AUDSTS = true := by decide
  have hsts : isAudit A.TST_STS = true := by decide
  simp only [audit]
  split
  · split
    · simp [haud]
    · rw [tstRaise, raise_minor _ _ _ _ _ (by decide), leaves_post_iff (by simp) hreport]
      simp [haud, hsts]
  · simp [haud]

section
variable {d : Dev} {src : BitVec 1}

/-- The package as a STEPB of the main strand finds it: the books audited, and the issue noted. -/
def stepNoted (d : Dev) : Dev := noteIssue (audit d (packageBooks d ++ halfBooks d)) .main

theorem leaves_stepNoted (d : Dev) : Leaves [.seq, .tst, .hst] (fun a => isCounter a || isAudit a) d (stepNoted d) :=
  ((leaves_audit d _).weaken (by simp) fun a h => (Bool.or_eq_false_iff.1 h).2).trans
    ((leaves_noteIssue _ _).weaken (by simp) fun a h => (Bool.or_eq_false_iff.1 h).1)

theorem audit_seq (d : Dev) (bs : List Book) : (audit d bs).seq = d.seq := (leaves_audit d bs).1 .seq (by simp)

/-- What the sequencers hold once a STEPB has opened its step. -/
theorem openStep_seq (d : Dev) (spc t0src : Nat) :
    (openStep d spc t0src).seq = { d.seq with stepOpen := true, report := none } :=
  (leaves_openStep d spc t0src).1 .seq (by simp [stepParts])

theorem leaves_stepOpened (d : Dev) (spc t0 : Nat) :
    Leaves [.seq, .gov] (these [A.SEQ_T0 0, A.SEQ_STEP 0]) d (stepOpened d spc t0) := by
  simp [stepOpened]

theorem stepOpened_regs (d : Dev) (spc t0 : Nat) : (stepOpened d spc t0).regs
    = (fset (regSet d (A.SEQ_T0 0) (BitVec.ofNat 64 t0)) (A.SEQ_STEP 0) F.SEQ_STEP_ADDR spc).regs := by
  simp [stepOpened, setSeq]

/-- The step's registers once it is open. -/
theorem openStep_regs (d : Dev) (spc t0src : Nat) :
    regGet (openStep d spc t0src) (A.SEQ_T0 0)
        = BitVec.ofNat 64 (if t0src = 1 then d.seq.sidaTime.getD 0 else sidNow d) ∧
      fget (openStep d spc t0src) (A.SEQ_STEP 0) F.SEQ_STEP_ADDR = spc % 2 ^ 28 ∧
      curStep (openStep d spc t0src) = curStep d ∧ seqState (openStep d spc t0src) = seqState d := by
  have hlater := (leaves_openStep d spc t0src).2
  have hne : A.SEQ_T0 0 ≠ A.SEQ_STEP 0 := by decide
  refine ⟨?_, ?_, ?_, ?_⟩
  · rw [hlater _ (by decide), regGet_congr (stepOpened_regs _ _ _)]
    exact (regGet_regSet_ne _ hne _).trans (regGet_regSet_self _ _ _)
  · rw [hlater.fget (by decide), fget_congr (stepOpened_regs _ _ _)]
    exact fget_fset_self _ _ _ _ (by decide)
  · rw [curStep, hlater.fget (by decide), fget_congr (stepOpened_regs _ _ _)]
    exact (fget_fset_apart _ _ _ _ _ _ (by decide) (by decide) (by decide)).trans (fget_regSet_ne _ hne.symm _ _)
  · rw [seqState, stOf, hlater.fget (by decide)]
    exact (leaves_stepOpened d spc _).2.fget (by decide) _

/-- A STEPB that nothing holds: the step is open, and the strand goes on. -/
theorem issueBundle_stepb {go : Flow} (hrep : (strandOf d .main).rep = 0) {e : Dev}
    (he : e = openStep (stepNoted d) (strandOf (stepNoted d) .main).spc src.toNat)
    (hkeep : (strandOf e .main).rep = 1) (hcan : canIssue e = true)
    (habort : (goTo (setSeq e fun q => { q with calls := go.calls }) .main go.addr go.loops).seq.abortNext
      ≠ some (curStep (goTo (setSeq e fun q => { q with calls := go.calls }) .main go.addr go.loops))) :
    issueBundle d .main [] (ctlOnly .main (.stepb src)) (ctlOnly .main (.stepb src)) (.stepb src) (.stepb src) go
      = goTo (setSeq e fun q => { q with calls := go.calls }) .main go.addr go.loops := by
  unfold issueBundle
  extract_lets x first audited late noted effA effB slots reported stopped moved
  have hfirst : first = true := by simp [first, x, hrep]
  have hnoted : noted = stepNoted d := by
    simp only [noted, late, audited, hfirst, if_true]
    rw [noteLate_quiet rfl rfl, noteSida_quiet (fun _ h => by cases h) (fun _ h => by cases h)]
    rfl
  have hstopped : stopped = e := by
    simp only [stopped, reported, slots, issueSlots_ctlOnly, effB, effA, hfirst, if_true, hnoted]
    exact he.symm
  have hmoved : moved = goTo (setSeq e fun q => { q with calls := go.calls }) .main go.addr go.loops := by
    simp only [moved, hstopped, hkeep, hwRepeat_ctlOnly]
    rfl
  rw [hstopped, hcan, hmoved]
  simp only [Bool.not_true, Bool.false_eq_true, if_false]
  split
  · next n hn => exact if_neg fun h => habort (by rw [hn, h])
  · rfl

theorem stepNoted_seq (d : Dev) : ∃ pa pb c g k, (stepNoted d).seq
    = { d.seq with main := (stepNoted d).seq.main, pagerA := pa, pagerB := pb, lastCycle := c, gapEnd := g, gapTotal := k } := by
  obtain ⟨x, pa, pb, c, g, k, h⟩ := noteIssue_main_seq (audit d (packageBooks d ++ halfBooks d))
  exact ⟨pa, pb, c, g, k, by rw [stepNoted, h, audit_seq]⟩

theorem stepNoted_main (d : Dev) : (stepNoted d).seq.main.spc = d.seq.main.spc ∧
    (stepNoted d).seq.main.rep = d.seq.main.rep + 1 := by
  have h : (stepNoted d).seq.main = _ := noteIssue_strand (audit d (packageBooks d ++ halfBooks d)) .main
  rw [h]
  simp only [strandOf, audit_seq]
  exact ⟨trivial, trivial⟩

/-- What a STEPB of the main strand leaves: its step is open, with the time and the address, and the strand goes on. -/
structure StepOpened (d u : Dev) (t0 : Nat) : Prop where
  isOpen : u.seq.stepOpen = true
  time : regGet u (A.SEQ_T0 0) = BitVec.ofNat 64 t0
  addr : fget u (A.SEQ_STEP 0) F.SEQ_STEP_ADDR = d.seq.main.spc % 2 ^ 28
  step : curStep u = curStep d
  spc : u.seq.main.spc = d.seq.main.spc + 1
  cas : u.cas = d.cas
  jet : u.jet = d.jet

theorem onward_addr (hloops : d.seq.main.loops = []) : (onward d .main).addr = d.seq.main.spc + 1 := by
  simp [onward, strandOf, hloops, advance]

/-- The package with the step open, before the strand goes on. -/
def stepBegun (d : Dev) (src : BitVec 1) : Dev := openStep (stepNoted d) (strandOf (stepNoted d) .main).spc src.toNat

theorem leaves_stepBegun (d : Dev) (src : BitVec 1) :
    Leaves [.seq, .gov, .ril, .eph, .ast, .mach, .hst, .tst] (fun _ => true) d (stepBegun d src) := by
  have hnoted := (leaves_stepNoted d).weaken (qs := [.seq, .gov, .ril, .eph, .ast, .mach, .hst, .tst])
    (q := fun _ => true) (by simp) (by simp)
  have hopened := (leaves_openStep (stepNoted d) (strandOf (stepNoted d) .main).spc src.toNat).weaken
    (qs := [.seq, .gov, .ril, .eph, .ast, .mach, .hst, .tst]) (q := fun _ => true) (by simp [stepParts]) (by simp)
  exact hnoted.trans (((leaves_stepOpened _ _ _).weaken (by simp) (by simp)).trans hopened)

/-- What the start of the step leaves in the sequencers. -/
theorem stepBegun_seq (d : Dev) (src : BitVec 1) : ∃ x pa pb c g k, (stepBegun d src).seq = { d.seq with
      main := x, pagerA := pa, pagerB := pb, lastCycle := c, gapEnd := g, gapTotal := k, stepOpen := true, report := none } ∧
    x.rep = d.seq.main.rep + 1 := by
  obtain ⟨pa, pb, c, g, k, hseq⟩ := stepNoted_seq d
  refine ⟨_, pa, pb, c, g, k, ?_, (stepNoted_main d).2⟩
  rw [stepBegun, openStep_seq, hseq]

theorem stepBegun_regs (d : Dev) (src : BitVec 1) :
    regGet (stepBegun d src) (A.SEQ_T0 0)
        = BitVec.ofNat 64 (if src = 1#1 then d.seq.sidaTime.getD 0 else sidNow d) ∧
      fget (stepBegun d src) (A.SEQ_STEP 0) F.SEQ_STEP_ADDR = d.seq.main.spc % 2 ^ 28 ∧
      curStep (stepBegun d src) = curStep d ∧ seqState (stepBegun d src) = seqState d := by
  have hnregs := (leaves_stepNoted d).2
  obtain ⟨pa, pb, c, g, k, hseq⟩ := stepNoted_seq d
  obtain ⟨ht0, haddr, hcur, hst⟩ := openStep_regs (stepNoted d) (strandOf (stepNoted d) .main).spc src.toNat
  have hsrc : src.toNat = 1 ↔ src = 1#1 := ⟨fun h => BitVec.eq_of_toNat_eq h, fun h => by rw [h]; rfl⟩
  have hsid : sidNow (stepNoted d) = sidNow d := by rw [sidNow, hnregs _ (by decide), sidNow]
  refine ⟨ht0.trans ?_, haddr.trans ?_, hcur.trans (hnregs.fget (by decide) _), hst.trans (hnregs.fget (by decide) _)⟩
  · rw [hseq, hsid]
    simp only [hsrc]
  · rw [strandOf, (stepNoted_main d).1]

theorem stepOpened_ctlIssue (hr : flowReady d) (hloops : d.seq.main.loops = []) (hcalls : d.seq.calls = [])
    (hopen : d.seq.stepOpen = false) (hsida : src = 1#1 → d.seq.sidaTime.isSome = true)
    (hreclaim : d.seq.reclaimSeen = false) (hhold : d.seq.holdSeen = false) (hheld : d.seq.stepbHeld = false)
    (hcap : fget d A.TST_CAPSTS F.TST_CAPSTS_STATE ≠ 1) (habort : d.seq.abortNext ≠ some (curStep d)) :
    StepOpened d (ctlIssue d .main (.stepb src)) (if src = 1#1 then d.seq.sidaTime.getD 0 else sidNow d) := by
  obtain ⟨hready, hconfl⟩ := hr
  have hplaced : opPlaced d .main (.stepb src) := ⟨rfl, hconfl, hloops, hcalls, hopen, hsida⟩
  have hfault := bundleFault_placed hplaced hplaced (fun _ => rfl) (fun h => absurd rfl h) (by simp [hconfl])
  have hgate : stepGate d .main (ctlOnly .main (.stepb src)) (.stepb src) = none := by
    simp [stepGate, hreclaim, hhold, hheld, hcap]
  have hleaves := leaves_stepBegun d src
  obtain ⟨x, pa, pb, c, g, k, hseq, hrep⟩ := stepBegun_seq d src
  obtain ⟨ht0, haddr, hcur, hst⟩ := stepBegun_regs d src
  have he : stepBegun d src = openStep (stepNoted d) (strandOf (stepNoted d) .main).spc src.toNat := rfl
  generalize stepBegun d src = e at hleaves hseq ht0 haddr hcur hst he
  have hcan : canIssue e = true := by
    rw [canIssue_congr hst (by rw [hseq]) (hleaves.pwr (by simp))]
    exact canIssue_of_strandDue hready.1
  have hkeep : (strandOf e .main).rep = 1 := by
    have hzero : d.seq.main.rep = 0 := hready.2.2.1
    rw [strandOf, hseq]
    exact hrep.trans (by rw [hzero])
  set u := goTo (setSeq e fun q => { q with calls := (onward d .main).calls }) .main (onward d .main).addr
    (onward d .main).loops with hu
  obtain ⟨y, qa, qb, l, hgo⟩ := goTo_main (setSeq e fun q => { q with calls := (onward d .main).calls })
    (onward d .main).addr (onward d .main).loops
  have hgone : Leaves [.seq, .gov] (fun _ => false) e u :=
    ((leaves_setSeq_iff (by simp)).2 leaves_self).trans (leaves_goTo _ _ _ _)
  have hcuru : curStep u = curStep d := (hgone.2.fget rfl _).trans hcur
  have heq : ctlIssue d .main (.stepb src) = u := by
    rw [ctlIssue_eq hready, tryBundle_reaches (go := onward d .main) hready hfault rfl rfl hgate rfl]
    refine issueBundle_stepb hready.2.2.1 he hkeep hcan ?_
    rw [← hu, hcuru, hu, hgo]
    simpa [setSeq, hseq] using habort
  have hspc : (strandOf u .main).spc = d.seq.main.spc + 1 := (goTo_spc _ .main _ _).trans (onward_addr hloops)
  rw [heq]
  refine ⟨?_, (hgone.2 _ rfl).trans ht0, (hgone.2.fget rfl _).trans haddr, hcuru, hspc, ?_, ?_⟩
  · rw [hu, hgo]
    simp [setSeq, hseq]
  · exact (hgone.1 .cas (by simp)).trans (hleaves.1 .cas (by simp))
  · exact (hgone.1 .jet (by simp)).trans (hleaves.1 .jet (by simp))

/-! ### VERD -/

/-- The registers that the end of a step writes. -/
def isClose (a : Nat) : Bool := isCounter a || these [A.SEQ_STEP 0, A.SID_STEP] a

theorem isCounter_of_isClose {a : Nat} (h : isClose a = false) : isCounter a = false := (Bool.or_eq_false_iff.1 h).1

theorem leaves_closeStep (d : Dev) : Leaves [.seq] isClose d (closeStep d) := by
  have hstep : isClose (A.SEQ_STEP 0) = true ∧ isClose A.SID_STEP = true := by decide
  exact Leaves.trans (by simp [hstep]) ((onlyRegs_countBoth _ _ _).leaves.weaken (by simp) fun _ => isCounter_of_isClose)

theorem closeStep_regs (d : Dev) : curStep (closeStep d) = (curStep d + 1) % 2 ^ 32 ∧
    fget (closeStep d) A.SID_STEP F.SID_STEP_STEP = (fget d A.SID_STEP F.SID_STEP_STEP + 1) % 2 ^ 32 ∧
    fget (closeStep d) A.SID_STEP F.SID_STEP_ATTEMPT = 0 ∧
    ∀ f, fget (closeStep d) (A.SEQ_STS 0) f = fget d (A.SEQ_STS 0) f := by
  have hcount : ∀ e, keepsRegs isCounter e (countBoth e 0x006 1) := fun e => (onlyRegs_countBoth e _ _).2
  have hne : A.SEQ_STEP 0 ≠ A.SID_STEP := by decide
  unfold closeStep
  refine ⟨?_, ?_, ?_, fun f => ?_⟩
  · rw [curStep, (hcount _).fget (by decide), fget_setSeq, fget_fset_ne _ hne, finc, fget_fset_ne _ hne, finc,
      fget_fset_self _ _ _ _ (by decide)]
    rfl
  · rw [(hcount _).fget (by decide), fget_setSeq, fget_fset_apart _ _ _ _ _ _ (by decide) (by decide) (by decide), finc,
      fget_fset_self _ _ _ _ (by decide), finc, fget_fset_ne _ hne.symm]
    rfl
  · rw [(hcount _).fget (by decide), fget_setSeq, fget_fset_self _ _ _ _ (by decide)]
    rfl
  · rw [(hcount _).fget (by decide), fget_setSeq, fget_fset_ne _ (by decide), finc, fget_fset_ne _ (by decide), finc,
      fget_fset_ne _ (by decide)]

theorem closeStep_seq (d : Dev) : (closeStep d).seq = { d.seq with stepOpen := false, report := none } := by
  rw [closeStep, countBoth_seq]
  simp [setSeq]

theorem opPlaced_verd (hr : flowReady d) (hloops : d.seq.main.loops = []) (hcalls : d.seq.calls = [])
    (hopen : d.seq.stepOpen = true) : opPlaced d .main .verd := ⟨rfl, hr.2, hloops, hcalls, hopen⟩

/-- A VERD with its clear verdict closes the step. -/
theorem ctlIssue_verd (hr : flowReady d) (hloops : d.seq.main.loops = []) (hcalls : d.seq.calls = [])
    (hopen : d.seq.stepOpen = true) (hreport : d.seq.report.isSome = true) (hverdict : obsGet d .verdict = 4 * curStep d + 1) :
    ctlIssue d .main .verd = goTo (setSeq (closeStep (noteIssue d .main)) fun q => { q with calls := (onward d .main).calls })
      .main (onward d .main).addr (onward d .main).loops := by
  obtain ⟨hready, hconfl⟩ := hr
  have hgate : stepGate d .main (ctlOnly .main .verd) .verd = none := by
    simp only [stepGate]
    exact if_pos ⟨hreport, hverdict⟩
  have hrep : (strandOf (closeStep (noteIssue d .main)) .main).rep = 1 := by
    rw [strandOf, closeStep_seq]
    exact (noteIssue_rep d .main).trans (by rw [hready.2.2.1])
  have hcan : canIssue (closeStep (noteIssue d .main)) = true := by
    rw [canIssue_congr ((closeStep_regs _).2.2.2 F.STATE) (by rw [closeStep_seq]) ((leaves_closeStep _).pwr (by simp)),
      canIssue_noteIssue]
    exact canIssue_of_strandDue hready.1
  exact ctlIssue_effect hready rfl (opPlaced_verd ⟨hready, hconfl⟩ hloops hcalls hopen) (fun h => absurd rfl h)
    (by simp [hconfl]) (fun _ => rfl) hgate rfl hrep hcan

/-- What such a VERD leaves. -/
structure StepClosed (d u : Dev) : Prop where
  isClosed : u.seq.stepOpen = false
  step : curStep u = (curStep d + 1) % 2 ^ 32
  slice : fget u A.SID_STEP F.SID_STEP_STEP = (fget d A.SID_STEP F.SID_STEP_STEP + 1) % 2 ^ 32
  attempt : fget u A.SID_STEP F.SID_STEP_ATTEMPT = 0
  spc : u.seq.main.spc = d.seq.main.spc + 1
  leaves : Leaves [.seq, .gov] isClose d u

theorem stepClosed_ctlIssue (hr : flowReady d) (hloops : d.seq.main.loops = []) (hcalls : d.seq.calls = [])
    (hopen : d.seq.stepOpen = true) (hreport : d.seq.report.isSome = true) (hverdict : obsGet d .verdict = 4 * curStep d + 1) :
    StepClosed d (ctlIssue d .main .verd) := by
  rw [ctlIssue_verd hr hloops hcalls hopen hreport hverdict]
  have hnote := leaves_noteIssue d .main
  have hclose := leaves_closeStep (noteIssue d .main)
  obtain ⟨hcur, hstep, hattempt, -⟩ := closeStep_regs (noteIssue d .main)
  have hseq := closeStep_seq (noteIssue d .main)
  generalize closeStep (noteIssue d .main) = e at *
  have hclosed : Leaves [.seq, .gov] isClose d e :=
    (hnote.weaken (by simp) fun _ => isCounter_of_isClose).trans (hclose.widen (by simp))
  obtain ⟨y, qa, qb, l, hgo⟩ := goTo_main (setSeq e fun q => { q with calls := (onward d .main).calls })
    (onward d .main).addr (onward d .main).loops
  have hregs := (leaves_goTo (p := fun _ => false) (setSeq e fun q => { q with calls := (onward d .main).calls }) .main
    (onward d .main).addr (onward d .main).loops).2
  refine ⟨?_, ?_, ?_, ?_, ?_, leaves_moved hclosed (by simp) (by simp) _⟩
  · rw [hgo]
    simp [setSeq, hseq]
  · rw [curStep, hregs.fget rfl, fget_setSeq, ← curStep, hcur, curStep, hnote.2.fget (by decide), curStep]
  · rw [hregs.fget rfl, fget_setSeq, hstep, hnote.2.fget (by decide)]
  · rw [hregs.fget rfl, fget_setSeq, hattempt]
  · exact (goTo_spc _ .main _ _).trans (onward_addr hloops)

/-- A VERD whose verdict is not there, of a step that is reported, holds its strand. -/
theorem ctlIssue_verd_held (hr : flowReady d) (hloops : d.seq.main.loops = []) (hcalls : d.seq.calls = [])
    (hopen : d.seq.stepOpen = true) (hreport : d.seq.report.isSome = true) (hverdict : obsGet d .verdict ≠ 4 * curStep d + 1) :
    ctlIssue d .main .verd = holdStrand d .main := by
  have hplaced := opPlaced_verd hr hloops hcalls hopen
  obtain ⟨hready, hconfl⟩ := hr
  have hfault := bundleFault_placed hplaced hplaced (fun _ => rfl) (fun h => absurd rfl h) (by simp [hconfl])
  have hgate : stepGate d .main (ctlOnly .main .verd) .verd = some (holdStrand d .main) := by
    simp only [stepGate, stepReport, if_pos hreport]
    exact if_neg fun h => hverdict h.2
  rw [ctlIssue_eq hready, tryBundle_gated hready hfault rfl rfl hgate]

end

/-- Settles O17: STEPB begins its step and goes on, VERD is its closing effect, or is held by its own gate. -/
theorem stepsOpenAndClose : Obligations.StepsOpenAndClose := by
  intro t s d hr hloops hcalls
  refine ⟨fun src hopen hsida hreclaim hhold hheld hcap habort => ?_, fun hopen hreport hverdict => ?_,
    fun hopen hreport hverdict => ?_⟩
  · obtain ⟨ho, ht, ha, hs, hp, hc, hj⟩ :=
      stepOpened_ctlIssue hr hloops hcalls hopen hsida hreclaim hhold hheld hcap habort
    exact ⟨_, next_congr rfl rfl, ho, ht, ha, hs, hp, hc, hj⟩
  · obtain ⟨ho, hs, hl, ha, hp, hparts, hregs⟩ := stepClosed_ctlIssue hr hloops hcalls hopen hreport hverdict
    exact ⟨_, next_congr rfl rfl, ho, hs, hl, ha, hp, hparts, hregs⟩
  · have heq := ctlIssue_verd_held hr hloops hcalls hopen hreport hverdict
    obtain ⟨hheld, hspc, hparts, hregs⟩ := holdStrand_holds d .main
    refine ⟨_, next_congr rfl heq, ?_, hheld, hspc, hparts, hregs⟩
    show (holdStrand d .main).seq.stepOpen = true
    rw [← hopen]
    simp only [holdStrand]
    split
    · rfl
    · rfl

end Sys2Proof.Machine
end

section
/-! PROOFS. The issue of a bundle as the image gives it, and the arrival of a page (02, R43 to R49). -/

namespace Sys2Proof.Machine

section
variable {d : Dev} {s : StrandId} {ecc : List Ecc} {wa wb : Nat}

/-- A sound bundle of a strand that is due, in pages observed as resident, is tried as its half-words say. -/
theorem bundleIssue_tries (hdue : strandDue d s = true) (hspc : (strandOf d s).spc < imgBound d)
    (hseen : pageObserved d (strandOf d s).spc = true) (hwa : halfWordIn d.seq.pagerA (strandOf d s).spc = some wa)
    (hwb : halfWordIn d.seq.pagerB (strandOf d s).spc = some wb)
    (hca : pageComing d.seq.pagerA (pageOf (strandOf d s).spc) = false)
    (hcb : pageComing d.seq.pagerB (pageOf (strandOf d s).spc) = false) (hpa : parityOk wa = true) (hpb : parityOk wb = true) :
    bundleIssue d s ecc = tryBundle d s ecc wa wb := by
  simp [bundleIssue, hdue, Nat.not_le.2 hspc, hseen, hwa, hwb, hca, hcb, hpa, hpb]

/-- A bundle whose page is not observed as resident has the page fetched, and does not issue. -/
theorem bundleIssue_fetches (hdue : strandDue d s = true) (hspc : (strandOf d s).spc < imgBound d)
    (hseen : pageObserved d (strandOf d s).spc = false) :
    OnlyPaging d (bundleIssue d s ecc) := by
  have heq : bundleIssue d s ecc = [0, 1].foldl (fun e h => fetchPage e h (pageOf (strandOf d s).spc) true) d := by
    simp [bundleIssue, hdue, Nat.not_le.2 hspc, hseen]
  exact heq ▸ onlyPaging_foldl _ (fun _ _ => onlyPaging_fetchPage _ _ _ _) _ _

end

/-! ### The arrival of a page (R44, R45) -/

/-- With nothing waiting, the fetches served are none. -/
theorem serveFetches_idle {d : Dev} {h : Nat} (hd : (pagerOf d h).demand = []) (hp : (pagerOf d h).prefetch = []) :
    serveFetches d h = setPager d h { pagerOf d h with demand := [], prefetch := [] } := by
  simp only [serveFetches, hd, hp, List.foldl_nil]

/-- The frame with the page as it lands at time `t`. -/
def landed (f : Frame) (page t : Nat) (data : List (Nat × Byte)) : Frame :=
  { f with page := some page, data := data, resident := true, fetch := none, used := t }

/-- The half's pager once the page stands in frame `i`. -/
def withLanded (d : Dev) (h page i : Nat) : Pager :=
  let f := landed ((pagerOf d h).frames.getD i Frame.init) page d.now (pageBytes d.mem (imgBase d h + page * 2 ^ 18))
  { pagerOf d h with frames := (pagerOf d h).frames.set i f }

theorem pageArrive_lands {d : Dev} {h page : Nat} (hcoming : pageComing (pagerOf d h) page = true)
    (hpend : ∀ e ∈ d.pend, ∀ k q, e.key ≠ .resident k q) : ∃ i, i < (pagerOf d h).frames.length ∧
      pageArrive d h page = serveFetches (govSet (setPager d h (withLanded d h page i)) (.resident h page) 1) h := by
  obtain ⟨i, hi⟩ : ∃ i, (pagerOf d h).frames.findIdx? (fun f => decide (f.fetch = some page)) = some i := by
    rw [← Option.isSome_iff_exists, List.findIdx?_isSome]
    exact hcoming
  refine ⟨i, (List.findIdx?_eq_some_iff_getElem.1 hi).1, ?_⟩
  have hwaiting : ∀ q, d.pend.any (fun e => decide (e.key = .resident h q) && decide (e.val = 0)) = false := by
    intro q
    rw [List.any_eq_false]
    intro e he
    simp [hpend e he h q]
  simp only [pageArrive, hi]
  rw [if_neg]
  · rfl
  · split
    · rw [hwaiting]
      exact Bool.false_ne_true
    · exact Bool.false_ne_true

theorem pagerOf_govSet (d : Dev) (k : GovKey) (v h : Nat) : pagerOf (govSet d k v) h = pagerOf d h := rfl

theorem setPager_pend (d : Dev) (h : Nat) (p : Pager) : (setPager d h p).pend = d.pend := by
  unfold setPager
  split
  · rfl
  · rfl

/-- A page that lands while nothing waits: it stands in its frame, and the sequencers observe it 25 sequencer cycles later. -/
theorem pageArrive_pager {d : Dev} {h page : Nat} (hcoming : pageComing (pagerOf d h) page = true)
    (hpend : ∀ e ∈ d.pend, ∀ k q, e.key ≠ .resident k q) (hdemand : (pagerOf d h).demand = [])
    (hprefetch : (pagerOf d h).prefetch = []) : ∃ i, i < (pagerOf d h).frames.length ∧
      pagerOf (pageArrive d h page) h = withLanded d h page i ∧
      (pageArrive d h page).pend = d.pend ++ [⟨d.now + 50, .resident h page, 1⟩] ∧ OnlyPaging d (pageArrive d h page) := by
  obtain ⟨i, hi, heq⟩ := pageArrive_lands hcoming hpend
  have hpager : pagerOf (govSet (setPager d h (withLanded d h page i)) (.resident h page) 1) h = withLanded d h page i := by
    rw [pagerOf_govSet, pagerOf_setPager_self]
  have hidle := serveFetches_idle (d := govSet (setPager d h (withLanded d h page i)) (.resident h page) 1) (h := h)
    (by rw [hpager]; exact hdemand) (by rw [hpager]; exact hprefetch)
  refine ⟨i, hi, ?_, ?_, ?_⟩
  · rw [heq, hidle, pagerOf_setPager_self, hpager, withLanded, hdemand, hprefetch]
  · rw [heq, hidle, setPager_pend, govSet, withPend_pend, setPager_pend]
    have hnow : (setPager d h (withLanded d h page i)).now = d.now := by unfold setPager; split <;> rfl
    rw [hnow]
    rfl
  · rw [heq]
    exact ((onlyPaging_setPager _ _ _).trans (onlyPaging_govSet _ _ _)).trans (onlyPaging_serveFetches _ _)

theorem parityOk_zero : parityOk 0 = true := by decide +kernel

/-- Settles O21: a bundle is tried only where its page is observed, and an arrival sets its frame. -/
theorem bundlesIssueFromResidentPages : Obligations.BundlesIssueFromResidentPages := by
  intro t s d
  refine ⟨fun ⟨hr, hconfl⟩ hseen hwa hwb hca hcb => ?_, fun x ecc wa wb hdue hspc hseen hwa hwb hca hcb hpa hpb => ?_,
    fun x ecc hdue hspc hseen => ?_, ?_⟩
  · have hfault : bundleFault d .main (ctlOnly .main .nop) (ctlOnly .main .nop) = none :=
      bundleFault_plain rfl rfl (fun _ => rfl) (fun h => absurd rfl h) (by simp [hconfl])
    have hnop : ctlOnly .main .nop = 0 := by decide
    have htry := tryBundle_issues (go := onward d .main) hr (oa := .nop) (ob := .nop) rfl rfl hfault rfl rfl rfl
    have hnoted : issued d .main .nop .nop = noteIssue d .main := rfl
    rw [hnop, hnoted] at htry
    have heq := (bundleIssue_tries (ecc := []) hr.1 hr.2.1 hseen hwa hwb hca hcb parityOk_zero parityOk_zero).trans htry
    have hleaves := leaves_moved (s := .main) ((leaves_noteIssue d .main).widen (qs := [.seq, .gov]) (by simp)) (by simp)
      (by simp) (onward d .main)
    refine ⟨_, next_congr rfl heq, goTo_spc _ .main _ _, ?_, hleaves.1, hleaves.2⟩
    refine (goTo_lastIssue _ .main _ _).trans ?_
    show (strandOf (noteIssue d .main) .main).lastIssue = d.now
    rw [noteIssue_strand]
  · exact next_congr rfl (bundleIssue_tries hdue hspc hseen hwa hwb hca hcb hpa hpb)
  · have hpaging := bundleIssue_fetches (ecc := ecc) hdue hspc hseen
    exact ⟨_, next_congr rfl rfl, hpaging.strandOf x, hpaging.leaves⟩
  · intro h page p hcoming hdemand hprefetch hrefetched hpend
    have hkeys : ∀ e ∈ d.pend, ∀ k q, e.key ≠ .resident k q := by
      intro e he k q hkey
      have := List.all_eq_true.1 hpend e he
      simp [hkey] at this
    obtain ⟨i, hi, hpager, hpends, hpaging⟩ := pageArrive_pager hcoming hkeys hdemand hprefetch
    have heq : pageArrival d (hn h) page.toNat = pageArrive d (hn h) page.toNat := by
      have hbad : (pagerOf (pageArrive d (hn h) page.toNat) (hn h)).refetched = [] := by rw [hpager]; exact hrefetched
      simp only [pageArrival, hbad, List.filter_nil]
    have hmem : landed (p.frames.getD i Frame.init) page.toNat d.now (pageBytes d.mem (imgBase d (hn h) + page.toNat * 2 ^ 18))
        ∈ (pagerOf (pageArrive d (hn h) page.toNat) (hn h)).frames := by
      rw [hpager]
      exact List.mem_set hi _
    refine ⟨_, next_congr rfl heq, ?_, hpends, ⟨_, hmem, rfl, rfl⟩, hpaging.leaves⟩
    exact List.any_eq_true.2 ⟨_, hmem, by simp [landed]⟩

end Sys2Proof.Machine
end

section
/-! PROOFS. The watchdog, the resumption after an unwind, and the start of the sequencers (02, R39, R40, R79 to R83). -/

namespace Sys2Proof.Machine

/-! ### The watchdog (R79, R83) -/

section
variable {d : Dev} {x : StrandId}

/-- The strand's wait begins anew, and the step is noted as one in which the watchdog ran out. -/
def rewatched (d : Dev) (x : StrandId) : Dev :=
  let d := setStrand d x { strandOf d x with held := some (d.now, d.seq.gapTotal) }
  setSeq d fun q => { q with wdogStep := some (curStep d) }

theorem waitTimeout_raises {since gaps : Nat} (hheld : (strandOf d x).held = some (since, gaps)) (hcan : canIssue d = true)
    (hon : (strandOf d x).on = true) (hlimit : fget d (A.SEQ_WDOG 0) F.SEQ_WDOG_LIMIT ≠ 0)
    (hlate : since + (d.seq.gapTotal - gaps) + us (fget d (A.SEQ_WDOG 0) F.SEQ_WDOG_LIMIT) < d.now) :
    ∃ ctl h, waitTimeout d x = seqRaiseSev (rewatched d x) 0x20 (if d.seq.wdogStep == some (curStep d) then 3 else 2) ctl
      (strandOf d x).spc (strandCode x) h 0 0 := by
  obtain ⟨h, w, hw⟩ : ∃ h w, holdingWord d x = (h, w) := ⟨_, _, rfl⟩
  refine ⟨hwCtl w, h, ?_⟩
  simp only [waitTimeout, hheld, hw]
  rw [if_neg (by simpa [hcan, hon, hlimit] using hlate)]
  rfl

theorem leaves_rewatched (d : Dev) (x : StrandId) : Leaves [.seq] (fun _ => false) d (rewatched d x) := by
  simp [rewatched]

theorem rewatched_spc (d : Dev) (x : StrandId) : (strandOf (rewatched d x) x).spc = (strandOf d x).spc := by
  cases x <;> rfl

end

/-- A record of the sequencer as posted, before what its severity does. -/
theorem seqRaiseSev_eq (d : Dev) (number sev ctl spc strand half code late : Nat) :
    ∃ e, seqRaiseSev d number sev ctl spc strand half code late = consequence e sev ∧
      Leaves [.hst] isLateReport d e ∧ fget e (A.SEQ_STS 0) F.SEQ_STS_EXC = number % 256 ∧
      seqState e = seqState d := by
  refine ⟨_, rfl, ?_, ?_, ?_⟩
  · exact (onlyRegs_fset d _ _ _ (by decide)).hst.leaves.trans
      ((onlyHst_post _ _ _ _ _).leaves.weaken (by simp) fun _ => isReport_of_isLateReport)
  · rw [(onlyHst_post _ _ _ _ _).2.fget (by decide), fget_fset_self _ _ _ _ (by decide)]
    rfl
  · rw [seqState, stOf, (onlyHst_post _ _ _ _ _).2.fget (by decide),
      fget_fset_apart _ _ _ _ _ _ (by decide) (by decide) (by decide)]
    rfl

theorem leaves_stepFatal (d : Dev) : Leaves [.gov, .mach] (fun _ => false) d (stepFatal d) :=
  (leaves_raiseAbort d _).weaken (by simp) fun _ h => h

/-- A record severe enough stops the sequencers, and its number stands. -/
theorem chipFatal_stops {d : Dev} (hrun : seqState d = 1) :
    blkState (chipFatal d) .seq = 2 ∧ fget (chipFatal d) (A.SEQ_CTL 0) F.EN = 0 ∧
      (∀ y, (strandOf (chipFatal d) y).on = false) ∧
      fget (chipFatal d) (A.SEQ_STS 0) F.SEQ_STS_EXC = fget d (A.SEQ_STS 0) F.SEQ_STS_EXC := by
  have habort : ∀ e, (e = d ∨ e = raiseAbort d (curStep d)) → ∀ f, fget e (A.SEQ_STS 0) f = fget d (A.SEQ_STS 0) f := by
    rintro e (rfl | rfl) f
    · rfl
    · exact (leaves_raiseAbort (p := fun _ => false) d _).2.fget rfl f
  simp only [chipFatal]
  split
  · obtain ⟨hst, hen, hoff, hsts, -⟩ := seqSelfStop_stops (d := raiseAbort d (curStep d)) ((habort _ (.inr rfl) _).trans hrun)
    exact ⟨hst, hen, hoff, (hsts _ (by decide) (by decide)).trans (habort _ (.inr rfl) _)⟩
  · obtain ⟨hst, hen, hoff, hsts, -⟩ := seqSelfStop_stops hrun
    exact ⟨hst, hen, hoff, hsts _ (by decide) (by decide)⟩

/-! ### The resumption (R79) -/

/-- The main strand stands at the STEPB again, no step open. -/
def resumed (d : Dev) : Dev :=
  let a := fget d (A.SEQ_STEP 0) F.SEQ_STEP_ADDR
  let m : Strand := { Strand.init with on := true, spc := a, lastSpc := a, lastIssue := d.now }
  setSeq d fun q => { q with main := m, unwind := .no, stepOpen := false, report := none }

theorem unwindResume_resumes {d : Dev} (hrun : blkState d .seq = 1) (hunwind : d.seq.unwind = .resume)
    (hril : d.ril.unwinding = []) (haqd : aqdUnwound d = (d, true)) : OnlyPaging (resumed d) (unwindResume d) := by
  have hst : seqState d = 1 := hrun
  simp only [unwindResume, hst, hunwind, hril, haqd]
  exact (onlyPaging_foldl _ (fun _ _ => onlyPaging_fetchPage _ _ _ _) _ _).trans (onlyPaging_prefetchAhead _ _)

theorem OnlyPaging.others {d e : Dev} (h : OnlyPaging d e) : e.seq.unwind = d.seq.unwind ∧ e.seq.stepOpen = d.seq.stepOpen ∧
    e.seq.main = d.seq.main ∧ e.seq.calls = d.seq.calls ∧ e.seq.confl = d.seq.confl ∧ e.mem = d.mem := by
  obtain ⟨a, b, l, rfl⟩ := h
  exact ⟨rfl, rfl, rfl, rfl, rfl, rfl⟩

/-- Settles O22: the watchdog posts with the severity of its first or second time, and the resumption sets the strand. -/
theorem watchdogAndResumption : Obligations.WatchdogAndResumption := by
  intro t x s d
  refine ⟨fun since gaps hheld hcan hon hlimit hlate => ?_, fun hrun hunwind hril haqd => ?_⟩
  · obtain ⟨ctl, h, heq⟩ := waitTimeout_raises hheld hcan hon hlimit hlate
    have hrun : seqState d = 1 := by
      simp only [canIssue, Bool.and_eq_true, decide_eq_true_eq] at hcan
      exact hcan.1.1.1
    obtain ⟨e, hsev, hleaves, hexc, hstate⟩ := seqRaiseSev_eq (rewatched d x) 0x20
      (if d.seq.wdogStep == some (curStep d) then 3 else 2) ctl (strandOf d x).spc (strandCode x) h 0 0
    rw [hsev] at heq
    have hwatch := leaves_rewatched d x
    have hre : seqState e = 1 := by
      rw [hstate, seqState, stOf, hwatch.2.fget rfl]
      exact hrun
    refine ⟨fun hfirst => ?_, fun hagain => ?_⟩
    · have hsev2 : (d.seq.wdogStep == some (curStep d)) = false := by simpa using hfirst
      rw [hsev2] at heq
      have hfatal := leaves_stepFatal e
      have hseq : (stepFatal e).seq = (rewatched d x).seq := (hfatal.1 .seq (by simp)).trans (hleaves.1 .seq (by simp))
      have hall : Leaves [.seq, .gov, .hst, .mach] isLateReport d (stepFatal e) :=
        (hwatch.weaken (by simp) fun _ _ => rfl).trans
          ((hleaves.widen (by simp)).trans (hfatal.weaken (by simp) fun _ _ => rfl))
      have hcur : curStep e = curStep d := by
        rw [curStep, hleaves.2.fget (by decide), hwatch.2.fget rfl, curStep]
      refine ⟨_, next_congr rfl heq, ?_, ?_, ?_, ?_, ?_, hall.1, hall.2⟩
      · exact (hfatal.2.fget rfl _).trans hexc
      · exact congrArg some hcur
      · exact (hfatal.2.fget rfl _).trans hre
      · exact (congrArg Seq.wdogStep hseq).trans (by cases x <;> rfl)
      · exact (congrArg Strand.spc (strandOf_congr hseq x)).trans (rewatched_spc d x)
    · have hsev3 : (d.seq.wdogStep == some (curStep d)) = true := by simpa using hagain
      rw [hsev3] at heq
      obtain ⟨hst, hen, hoff, hsts⟩ := chipFatal_stops hre
      exact ⟨_, next_congr rfl heq, hsts.trans hexc, hst, hen, hoff⟩
  · have hpaging := unwindResume_resumes hrun hunwind hril haqd
    obtain ⟨hu, ho, hm, -, -, hmem⟩ := hpaging.others
    have hleaves : Leaves [.seq, .gov] (fun _ => false) d (unwindResume d) :=
      ((leaves_setSeq_iff (by simp)).2 leaves_self).trans hpaging.leaves
    exact ⟨_, next_congr rfl rfl, hu, ho, congrArg Strand.on hm, congrArg Strand.spc hm, hleaves.1 .cas (by simp),
      hleaves.1 .jet (by simp), hmem⟩

/-! ### The start of the sequencers (R39, R40) -/

section
variable {d : Dev}

/-- EN and the channels that are lost stand in registers of their own. -/
theorem inStacks_en (d : Dev) (v a n : Nat) : inStacks (fset d (A.SEQ_CTL 0) F.EN v) a n = inStacks d a n := by
  have hch : ∀ s, stackCh (fset d (A.SEQ_CTL 0) F.EN v) s = stackCh d s := fun s =>
    fget_fset_ne _ (by simp only [A.STK_CAP, A.SEQ_CTL]; omega) _ _ _
  simp only [inStacks, inStackByte, hch]

theorem startTables_en (d : Dev) (v : Nat) : startTables (fset d (A.SEQ_CTL 0) F.EN v) = startTables d := by
  have hne : ∀ a, a ≠ A.SEQ_CTL 0 → ∀ f, fget (fset d (A.SEQ_CTL 0) F.EN v) a f = fget d a f :=
    fun a ha f => fget_fset_ne _ ha _ _ _
  simp only [startTables]
  simp (disch := decide) only [hne]

theorem badImages_en (d : Dev) (v : Nat) : badImages (fset d (A.SEQ_CTL 0) F.EN v) = badImages d := by
  have hne : ∀ h f, fget (fset d (A.SEQ_CTL 0) F.EN v) (A.SEQ_IMG h) f = fget d (A.SEQ_IMG h) f := fun h f =>
    fget_fset_ne _ (by simp only [A.SEQ_IMG, A.SEQ_CTL]; omega) _ _ _
  simp only [badImages, inStacks_en, hne]

theorem firstOutside_none {a n : Nat} (h : inStacks d a n = true) : firstOutside d a n = none := by
  simp [firstOutside, h]

/-- With no unit marked, a touch of memory only counts. -/
theorem leaves_ctlTouch (a n : Nat) (h : d.ms.marks = []) : Leaves [] isCounter d (ctlTouch d a n) ∧
    (ctlTouch d a n).ms.marks = [] ∧ (ctlTouch d a n).seq = d.seq := by
  have hcount : inStackByte d a = true → OnlyRegs isCounter d (count d (homeHalf a) 0x620 (stackOf a % 4) (unitsUnder a n) false) :=
    fun hin => onlyRegs_count _ _ _ _ _ _ (by
      simp only [inStackByte, Bool.and_eq_true, decide_eq_true_eq] at hin
      have := hin.1
      simp only [homeHalf, stackOf]
      omega)
  simp only [ctlTouch]
  split
  · next hin =>
    have hc := hcount hin
    have hmarks : (count d (homeHalf a) 0x620 (stackOf a % 4) (unitsUnder a n) false).ms.marks = [] := by
      rw [hc.leaves.1 .ms (by simp)]
      exact h
    simp only [markTouch, hmarks, List.filter_nil, List.foldl_nil]
    exact ⟨hc.leaves, trivial, hc.leaves.1 .seq (by simp)⟩
  · exact ⟨leaves_self, h, rfl⟩

theorem leaves_withTables_iff {ps : List Piece} {p : Nat → Bool} {d e : Dev} {v} (h : Piece.tables ∈ ps) :
    Leaves ps p d (e.withTables v) ↔ Leaves ps p d e :=
  leaves_part .tables h rfl fun y hy => by cases y <;> simp_all [Piece.same]

theorem leaves_loadTables (h : d.ms.marks = []) : Leaves [.tables] isCounter d (loadTables d) := by
  have hfold : ∀ (l : List (Nat × Nat)) (e : Dev), e.ms.marks = [] →
      Leaves [] isCounter e (l.foldl (fun d t => ctlTouch d t.1 t.2) e) := by
    intro l
    induction l with
    | nil => exact fun e _ => leaves_self
    | cons t r ih =>
      intro e he
      obtain ⟨hl, hm, -⟩ := leaves_ctlTouch (d := e) t.1 t.2 he
      exact hl.trans (ih _ hm)
  exact (leaves_withTables_iff (by simp)).2 ((hfold _ d h).widen (by simp))

/-- The tables and latched registers of the start, and its step number. -/
def seqLoaded (d : Dev) : Dev :=
  let d := startCommon (loadTables d) .seq
  let d := latch d [A.SEQ_IMG 0, A.SEQ_IMG 1, A.SEQ_FDT 0, A.SEQ_ENTRY 0, A.SEQ_PGCTL 0, A.SEQ_PGCTL 1]
  fset d (A.SEQ_STEP 0) F.SEQ_STEP_CUR (fget d A.SID_STEP F.SID_STEP_STEP)

/-- No page that a half held before is observed as resident any longer. -/
def pagesGone (d : Dev) : Dev :=
  let gone (h : Nat) : List Nat := ((pagerOf d h).frames.filterMap (fun f => if f.resident then f.page else none))
  [0, 1].foldl (fun d h => (gone h).foldl (fun d p => govSet d (.resident h p) 0) d) d

/-- The sequencers as they start: the main strand alone, at address `a`. -/
def seqFresh (q : Seq) (a now : Nat) : Seq :=
  { Seq.init with main := { Strand.init with on := true, spc := a, lastSpc := a, lastIssue := now },
                  late := q.late, gapTotal := q.gapTotal, gapEnd := q.gapEnd, lastCycle := q.lastCycle,
                  startAt := now, abortNext := q.abortNext, abortsDiscarded := q.abortsDiscarded,
                  reclaimSeen := q.reclaimSeen, holdSeen := q.holdSeen }

def seqBegun (d : Dev) (q : Seq) (a : Nat) : Dev :=
  let d := setSeq d fun _ => seqFresh q a d.now
  (d.withRvrUse []).withAst { d.ast with draws := [] }

theorem seqStart_begins (hintrusive : fget d A.TST_STS F.TST_STS_INTRUSIVE = 0) (himages : badImages d = [])
    (htables : (startTables d).all (fun e => inStacks d e.1 e.2) = true) :
    OnlyPaging (seqBegun (pagesGone (seqLoaded d)) (seqLoaded d).seq (fget (seqLoaded d) (A.SEQ_ENTRY 0) F.SEQ_ENTRY_ADDR))
      (seqStart d) := by
  have hfind : (startTables d).findSome? (fun t => firstOutside d t.1 t.2) = none := by
    rw [List.findSome?_eq_none_iff]
    exact fun t ht => firstOutside_none (List.all_eq_true.1 htables t ht)
  unfold seqStart
  rw [if_neg (by simp [hintrusive]), if_neg (by simp [himages]), hfind]
  exact (onlyPaging_foldl _ (fun _ _ => onlyPaging_fetchPage _ _ _ _) _ _).trans (onlyPaging_prefetchAhead _ _)

/-- The registers that the start writes. -/
def isSeqStart (a : Nat) : Bool := isCounter a || these [A.SEQ_STS 0, A.SEQ_STEP 0] a

theorem leaves_seqLoaded (h : d.ms.marks = []) : Leaves [.tables, .live] isSeqStart d (seqLoaded d) := by
  have hw : isSeqStart (A.SEQ_STS 0) = true ∧ isSeqStart (A.SEQ_STEP 0) = true := by decide
  have hload := (leaves_loadTables h).weaken (qs := [.tables, .live]) (q := isSeqStart) (by simp)
    fun a ha => (Bool.or_eq_false_iff.1 ha).1
  have hsts : isSeqStart (stsAddr .seq) = true := hw.1
  simp [seqLoaded, hw, hsts, hload]

theorem seqLoaded_regs (h : d.ms.marks = []) : blkState (seqLoaded d) .seq = 1 ∧
    fget (seqLoaded d) (A.SEQ_STS 0) F.RUNGEN = (fget d (A.SEQ_STS 0) F.RUNGEN + 1) % 65536 ∧
    curStep (seqLoaded d) = fget d A.SID_STEP F.SID_STEP_STEP := by
  have hload := (leaves_loadTables h).2
  have hne : A.SEQ_STS 0 ≠ A.SEQ_STEP 0 := by decide
  refine ⟨?_, ?_, ?_⟩
  · rw [blkState, stOf, show stsAddr .seq = A.SEQ_STS 0 from rfl, seqLoaded, fget_fset_ne _ hne, fget_latch]
    exact blkState_startCommon (loadTables d) .seq
  · rw [seqLoaded, fget_fset_ne _ hne, fget_latch]
    exact (rungen_startCommon (loadTables d) .seq).trans (by rw [show stsAddr .seq = A.SEQ_STS 0 from rfl, hload.fget (by decide)])
  · rw [curStep, seqLoaded, fget_fset_self _ _ _ _ (by decide), fget_latch, fget_startCommon_ne _ _ (by decide),
      hload.fget (by decide)]
    exact Nat.mod_eq_of_lt (fget_lt _ _ _)

theorem onlyPaging_pagesGone (d : Dev) : OnlyPaging d (pagesGone d) :=
  onlyPaging_foldl _ (fun _ _ => onlyPaging_foldl _ (fun _ _ => onlyPaging_govSet _ _ _) _ _) _ _

theorem leaves_seqBegun {p : Nat → Bool} (d : Dev) (q : Seq) (a : Nat) : Leaves [.seq, .rvrUse, .ast] p d (seqBegun d q a) := by
  simp [seqBegun]

/-- What the start of the pair leaves. -/
structure PairStarted (d u : Dev) : Prop where
  state : blkState u .seq = 1
  rungen : fget u (A.SEQ_STS 0) F.RUNGEN = (fget d (A.SEQ_STS 0) F.RUNGEN + 1) % 65536
  on : u.seq.main.on = true
  spc : u.seq.main.spc = fget d (A.SEQ_ENTRY 0) F.SEQ_ENTRY_ADDR
  loops : u.seq.main.loops = []
  calls : u.seq.calls = []
  confl : u.seq.confl = none
  closed : u.seq.stepOpen = false
  step : curStep u = fget d A.SID_STEP F.SID_STEP_STEP
  leaves : Leaves [.tables, .live, .seq, .gov, .rvrUse, .ast] isSeqStart d u

theorem pairStarted_seqStart (hintrusive : fget d A.TST_STS F.TST_STS_INTRUSIVE = 0) (himages : badImages d = [])
    (hmarks : d.ms.marks = []) (htables : (startTables d).all (fun e => inStacks d e.1 e.2) = true) :
    PairStarted d (seqStart d) := by
  have hpaging := seqStart_begins hintrusive himages htables
  have hload := leaves_seqLoaded hmarks
  obtain ⟨hst, hrungen, hcur⟩ := seqLoaded_regs hmarks
  have hentry : fget (seqLoaded d) (A.SEQ_ENTRY 0) F.SEQ_ENTRY_ADDR = fget d (A.SEQ_ENTRY 0) F.SEQ_ENTRY_ADDR :=
    hload.2.fget (by decide) _
  generalize seqLoaded d = e at *
  have hgone := (onlyPaging_pagesGone e).leaves (p := fun _ => false)
  have hbegun := leaves_seqBegun (p := fun _ => false) (pagesGone e) e.seq (fget e (A.SEQ_ENTRY 0) F.SEQ_ENTRY_ADDR)
  obtain ⟨-, ho, hm, hc, hconfl, -⟩ := hpaging.others
  have hlater : Leaves [.seq, .rvrUse, .ast, .gov] (fun _ => false) e (seqStart d) :=
    (hgone.widen (by simp)).trans ((hbegun.widen (by simp)).trans (hpaging.leaves.widen (by simp)))
  exact {
    state := (hlater.2.fget rfl _).trans hst
    rungen := (hlater.2.fget rfl _).trans hrungen
    on := congrArg Strand.on hm
    spc := (congrArg Strand.spc hm).trans hentry
    loops := congrArg Strand.loops hm
    calls := hc
    confl := hconfl
    closed := ho
    step := (hlater.2.fget rfl _).trans hcur
    leaves := (hload.widen (by simp)).trans (hlater.weaken (by simp) fun _ _ => rfl) }

theorem enableBlock_seq (hrun : pstate d = 0) (hstopped : blkState d .seq = 0) (hscrub : scrubbing d = false) :
    enableBlock d .seq = seqStart (fset d (A.SEQ_CTL 0) F.EN 1) := by
  have hs : scrubbing (fset d (ctlAddr .seq) F.EN 1) = false := by
    rw [← hscrub, scrubbing, scrubbing, fget_fset_ne _ (by decide)]
  have hb : blkState (fset d (ctlAddr .seq) F.EN 1) .seq = 0 := (blkState_fset_ctl _ _ _ _).trans hstopped
  have hfree : scrubHolds (fset d (ctlAddr .seq) F.EN 1) .seq = false := by simp [scrubHolds, hs]
  rw [enableBlock, if_pos hrun, enableNow, hb]
  exact if_neg (by simp [hfree])

end

/-- Settles O13: the start loads the tables, counts itself and sets the strands anew. -/
theorem sequencerStartsAtItsEntry : Obligations.SequencerStartsAtItsEntry := by
  intro t s d hrun hstopped hscrub hintrusive hmarks himages htables
  have hsame : ∀ a f, a ≠ A.SEQ_CTL 0 → fget (fset d (A.SEQ_CTL 0) F.EN 1) a f = fget d a f :=
    fun a f ha => fget_fset_ne _ ha _ _ _
  have hstart := pairStarted_seqStart (d := fset d (A.SEQ_CTL 0) F.EN 1) ((hsame _ _ (by decide)).trans hintrusive)
    ((badImages_en d 1).trans himages) hmarks (by
      rw [startTables_en]
      simpa only [inStacks_en] using htables)
  have hen : fget (fset d (A.SEQ_CTL 0) F.EN 1) (A.SEQ_CTL 0) F.EN = 1 := fget_fset_self _ _ _ _ (by decide)
  have hfirst : Leaves [] (these [A.SEQ_CTL 0]) d (fset d (A.SEQ_CTL 0) F.EN 1) := by simp
  rw [← enableBlock_seq hrun hstopped hscrub] at hstart
  obtain ⟨hst, hrungen, hon, hspc, hloops, hcalls, hconfl, hclosed, hstep, hleaves⟩ := hstart
  refine ⟨_, next_congr rfl rfl, hst, hrungen.trans ?_, ?_, hon, hspc.trans (hsame _ _ (by decide)), hloops, hcalls, hconfl,
    hclosed, hstep.trans (hsame _ _ (by decide)), ?_, ?_, ?_⟩
  · rw [hsame _ _ (by decide)]
  · exact (hleaves.2.fget (by decide) _).trans hen
  · exact hleaves.1 .mem (by simp)
  · exact hleaves.1 .cas (by simp)
  · exact hleaves.1 .jet (by simp)

end Sys2Proof.Machine
end

section
/-! PROOFS. The issue of a cascade op: what every op does alike, and what it leaves beside the cascade (04, R120 to R146). -/

namespace Sys2Proof.Machine

/-! ### What an op of a half does beside its own block -/

/-- The parts that the reports and samples of an op, and its use of the reservoir, may change. -/
def opSide : List Piece := [.mach, .hst, .ast, .rvrUse]

@[simp] theorem mach_mem_opSide : Piece.mach ∈ opSide := by decide
@[simp] theorem hst_mem_opSide : Piece.hst ∈ opSide := by decide
@[simp] theorem ast_mem_opSide : Piece.ast ∈ opSide := by decide
@[simp] theorem rvrUse_mem_opSide : Piece.rvrUse ∈ opSide := by decide

/-- Any register may change. -/
def anyReg (_ : Nat) : Bool := true

@[simp] theorem anyReg_true (a : Nat) : anyReg a = true := (rfl)

section
variable {ps : List Piece} {d e : Dev}

@[simp] theorem leaves_count_iff {h src inst k : Nat} {single : Bool} :
    Leaves ps anyReg d (count e h src inst k single) ↔ Leaves ps anyReg d e :=
  (onlyRegs_count' e h src inst k single).leaves.drop (by simp) fun _ h => h

theorem leaves_minor_iff {number sev src : Nat} {payload : List Nat} (hsev : sev < 2) (h : Piece.hst ∈ ps) :
    Leaves ps anyReg d (raise e number sev src payload) ↔ Leaves ps anyReg d e := by
  rw [raise_minor _ _ _ _ _ hsev]
  exact leaves_post_iff h fun _ h => (Bool.false_ne_true h.symm).elim

theorem leaves_poisonFor (h : Leaves opSide anyReg d e) (half s src ev word : Nat) (next : Bool) :
    Leaves opSide anyReg d (poisonFor e half s src ev word next) := by
  unfold poisonFor
  extract_lets f first d1 d2 d3 m d4
  have h1 : Leaves opSide anyReg d d1 := by simpa [d1] using h
  have h2 : Leaves opSide anyReg d d2 := by
    simp only [d2]
    split
    · simpa using h1
    · exact h1
  have h4 : Leaves opSide anyReg d d4 := by simpa [d4, d3] using h2
  split
  · exact h
  · rw [leaves_minor_iff (by decide) (by simp)]
    simpa using h4

theorem leaves_poisonEvent (h : Leaves opSide anyReg d e) (half s src ev word : Nat) :
    Leaves opSide anyReg d (poisonEvent e half s src ev word) := by
  unfold poisonEvent
  extract_lets cur late d1 s'
  have h1 : Leaves opSide anyReg d d1 := by
    simp only [d1]
    rw [leaves_minor_iff (by decide) (by simp)]
    simpa using h
  split
  · exact leaves_poisonFor h _ _ _ _ _ _
  · exact leaves_poisonFor h1 _ _ _ _ _ _

theorem leaves_reportEvents (h : Leaves opSide anyReg d e) (half : Nat) (gp : Bool) (s src word : Nat) (ev : Events) :
    Leaves opSide anyReg d (reportEvents e half gp s src word ev) := by
  unfold reportEvents
  extract_lets d1 d2 d3 d4 d5
  have h3 : Leaves opSide anyReg d d3 := by simpa [d3, d2, d1] using h
  have h5 : Leaves opSide anyReg d d5 := by simpa [d5, d4] using h3
  split
  · split
    · exact leaves_poisonEvent h5 _ _ _ _ _
    · split
      · exact leaves_poisonEvent h5 _ _ _ _ _
      · exact h5
  · exact h3

theorem leaves_bankSample (h : Leaves opSide anyReg d e) (half n kind : Nat) :
    Leaves opSide anyReg d (bankSample e half n kind) := by
  have hbank : Leaves opSide anyReg d (bankFor e half n).1 := by
    unfold bankFor
    extract_lets r first a d1
    have h1 : Leaves opSide anyReg d d1 := by simpa [d1] using h
    split
    · simpa using h
    · split
      · exact h
      · show Leaves opSide anyReg d (if first then astNote d1 half 0x9A n else d1)
        split
        · rw [astNote, leaves_minor_iff (by decide) (by simp)]
          simpa using h1
        · exact h1
  unfold bankSample
  split
  · next e' heq =>
    rw [heq] at hbank
    exact hbank
  · next e' heq =>
    rw [heq] at hbank
    simpa using hbank

theorem leaves_shadowDraw (h : Leaves opSide anyReg d e) (c : CasCtx) (o : SampleOp)
    (win : Nat → Bool → Nat → Nat → List (List FVal × FVal)) : Leaves opSide anyReg d (shadowDraw e c o win) := by
  unfold shadowDraw
  extract_lets smp n x a d1 forced d2
  generalize (if c.h = 0 then Half.A else Half.B) = half
  have h1 : Leaves opSide anyReg d d1 := by simpa [d1] using h
  have h2 : Leaves opSide anyReg d d2 := by simpa [d2] using h1
  split
  · exact h
  · split
    · exact h1
    · split
      · split
        · rw [leaves_count_iff, leaves_finc_iff (anyReg_true _)]
          exact leaves_bankSample h2 _ _ _
        · exact h2
      · simpa using h2

end

/-! ### The banks of the reservoir (R105) -/

/-- One access to a bank: counted while the window has room, refused otherwise. -/
def bankAccess (T : Nat) (r : Dev × List Nat) (a : Nat × Nat) : Dev × List Nat :=
  let w := (a.2 - r.1.seq.startAt) / 16
  let k := 1024 * w + 64 * T + rvrBank a.1
  let n := sget 0 k r.1.rvrUse
  if n < 15 then ((r.1.withRvrUse (sset 0 k (n + 1) r.1.rvrUse)), r.2)
  else
    let d := fset (fset r.1 (A.RVR_ERR (T / 8)) F.RVR_ERR_EXC 0xB0) (A.RVR_ERR (T / 8)) F.RVR_ERR_TERR (T % 8)
    let d := fset (fset d (A.RVR_ERR (T / 8)) F.RVR_ERR_BANK (rvrBank a.1)) (A.RVR_ERR (T / 8)) F.RVR_ERR_OFF (a.1 * 128)
    let p := opPayload d 0 0 0 (T / 8) 0xB0 0 0 (memDetail (resBase T + a.1 * 128) (T % 8) 0 (rvrBank a.1) 0 0)
    (raise d 0xB0 3 7 p, r.2 ++ [a.1])

/-- The package as the accesses find it: counted, and the windows gone by forgotten. -/
def rvrFresh (d : Dev) (T n : Nat) : Dev :=
  let e := count d (T / 8) 0x600 (T % 8) n false
  e.withRvrUse (e.rvrUse.filter (fun e' => decide ((d.now - e.seq.startAt) / 16 ≤ e'.1 / 1024)))

theorem rvrTimed_eq (d : Dev) (T : Nat) (acc : List (Nat × Nat)) :
    rvrTimed d T acc = acc.foldl (bankAccess T) (rvrFresh d T acc.length, []) := rfl

/-- An access that adds no refusal only notes its use. -/
theorem bankAccess_clean {T : Nat} {r : Dev × List Nat} {a : Nat × Nat} (h : (bankAccess T r a).2 = []) :
    r.2 = [] ∧ bankAccess T r a = (r.1.withRvrUse (bankAccess T r a).1.rvrUse, []) ∧
      ∀ e, e.rvrUse = r.1.rvrUse → e.seq = r.1.seq →
        bankAccess T (e, []) a = (e.withRvrUse (bankAccess T r a).1.rvrUse, []) := by
  obtain ⟨d, l⟩ := r
  simp only [bankAccess] at h ⊢
  split
  · next hn =>
    rw [if_pos hn] at h
    simp only at h
    subst h
    refine ⟨rfl, rfl, fun e he hs => ?_⟩
    rw [he, hs, if_pos hn]
    rfl
  · next hn =>
    rw [if_neg hn] at h
    simp at h

theorem bankAccesses_clean (T : Nat) (acc : List (Nat × Nat)) (r : Dev × List Nat) (h : (acc.foldl (bankAccess T) r).2 = []) :
    r.2 = [] ∧ ∃ use, acc.foldl (bankAccess T) r = (r.1.withRvrUse use, []) ∧
      ∀ e, e.rvrUse = r.1.rvrUse → e.seq = r.1.seq → acc.foldl (bankAccess T) (e, []) = (e.withRvrUse use, []) := by
  induction acc generalizing r with
  | nil =>
    obtain ⟨d, l⟩ := r
    exact ⟨h, d.rvrUse, by rw [List.foldl_nil, show l = [] from h]; rfl, fun e he _ => by rw [← he]; rfl⟩
  | cons a acc ih =>
    obtain ⟨hl, use, heq, hother⟩ := ih _ h
    obtain ⟨hr, hstep, hstepo⟩ := bankAccess_clean hl
    refine ⟨hr, use, ?_, fun e he hs => ?_⟩
    · rw [List.foldl_cons, heq, hstep]
      rfl
    · rw [List.foldl_cons, hstepo e he hs]
      refine hother (e.withRvrUse (bankAccess T r a).1.rvrUse) rfl ?_
      rw [hstep]
      exact hs

/-- With no bank refused, the accesses change nothing but their own use and counters; and so it is in a package that
differs in its registers alone. -/
theorem rvrTimed_clean {d : Dev} {T : Nat} {acc : List (Nat × Nat)} (h : (rvrTimed d T acc).2 = []) :
    ∃ e, rvrTimed d T acc = (e, []) ∧ e.mem = d.mem ∧ Leaves [.rvrUse] anyReg d e := by
  rw [rvrTimed_eq] at h ⊢
  obtain ⟨-, use, heq, -⟩ := bankAccesses_clean T acc _ h
  refine ⟨_, heq, ?_, ?_⟩
  · simp [rvrFresh]
  · simp [rvrFresh]

theorem rvrTimed_regs {d : Dev} {T : Nat} {acc : List (Nat × Nat)} (r : List (Nat × W64)) (h : (rvrTimed d T acc).2 = []) :
    (rvrTimed (d.withRegs r) T acc).2 = [] := by
  rw [rvrTimed_eq] at h ⊢
  obtain ⟨-, use, -, hother⟩ := bankAccesses_clean T acc _ h
  have hcount : ∀ e : Dev, ∃ r', count e (T / 8) 0x600 (T % 8) acc.length false = e.withRegs r' := fun e =>
    ⟨_, (onlyRegs_count' e _ _ _ _ _).eq⟩
  obtain ⟨r1, h1⟩ := hcount d
  obtain ⟨r2, h2⟩ := hcount (d.withRegs r)
  rw [hother]
  · simp only [rvrFresh, h1, h2]
    rfl
  · simp only [rvrFresh, h1, h2]
    rfl

end Sys2Proof.Machine
end

section
/-! PROOFS. The cascade ops that read and write tiles: LDS, MM, OPA, TWF, BIN, BOUT (04, R120 to R162). -/

namespace Sys2Proof.Machine

/-! ### The issue of an op on a half that is ready -/

/-- The package with the op counted. -/
def casCounted (d : Dev) (iss : Issue) (terr : BitVec 3) : Dev := count d (hn iss.half) 0x100 (terr.toNat % 8) 1 false

theorem casCounted_eq (d : Dev) (iss : Issue) (terr : BitVec 3) : ∃ r, casCounted d iss terr = d.withRegs r :=
  ⟨_, (onlyRegs_count' d _ _ _ _ _).eq⟩

theorem timedOp_plain {d : Dev} {iss : Issue} {terr : Nat} {f : Dev → Dev} (h : iss.ecc = []) : timedOp d iss terr f = f d := by
  simp [timedOp, h]

/-- An op on a RUNNING half, its terrace with no ROOT, is tried by its own tests. -/
theorem casIssue_ready {s d : Dev} {iss : Issue} {terr : BitVec 3} {op : CasOp} (hd : d = settle (tick s iss.t))
    (hr : casReady d iss terr) : timedOp s iss terr.toNat (fun d => casIssue d iss terr.toNat op)
      = match casOp (casCounted d iss terr) (casCtx d iss terr op) op with
        | .ok e => e
        | .error f => casRaise (casCounted d iss terr) (casCtx d iss terr op) f := by
  obtain ⟨hrun, hroots, hecc⟩ := hr
  have hhalf : hn iss.half < 2 := by cases iss.half <;> decide
  have hrun' : running (casCounted d iss terr) (.cas iss.half) = true := by
    rw [← hrun, running, running, blkState, stOf, casCounted, (onlyRegs_count d _ _ _ _ _ hhalf).2.fget]
    · rfl
    · cases iss.half <;> decide
  have hroots' : sfind (casCtx d iss terr op).T (casCounted d iss terr).cas.roots = none := by
    obtain ⟨r, h⟩ := casCounted_eq d iss terr
    rw [h]
    exact hroots
  rw [timedOp_plain hecc]
  simp only [casIssue, ← hd]
  rw [← casCounted, if_neg (by simp [hrun']), show (⟨iss.t, hn iss.half, iss.strand, (strandOf d iss.strand).lastSpc,
    terr.toNat % 8, (encodeCas op).toNat⟩ : CasCtx) = casCtx d iss terr op from rfl, hroots']
  rfl

/-! ### Lists of tests, and folds over units -/

theorem allOk_map {α β : Type} {f : α → Except CasFail β} {g : α → β} {l : List α} (h : ∀ a ∈ l, f a = .ok (g a)) :
    allOk f l = .ok (l.map g) := by
  induction l with
  | nil => rfl
  | cons a r ih =>
    have hr := ih fun b hb => h b (List.mem_cons_of_mem _ hb)
    simp [allOk, h a List.mem_cons_self, hr]

/-- A fold whose every step keeps an invariant, gives its own fact and keeps the facts of the others, gives all of them. -/
theorem foldl_each {β : Type} {g : Dev → β → Dev} {I : Dev → Prop} {P : β → Dev → Prop} (l : List β) {d : Dev} (hI : I d)
    (hown : ∀ d b, b ∈ l → I d → I (g d b) ∧ P b (g d b))
    (hkeep : ∀ d b c, b ∈ l → c ∈ l → b ≠ c → I d → P c d → P c (g d b)) :
    I (l.foldl g d) ∧ ∀ b ∈ l, P b (l.foldl g d) := by
  suffices h : ∀ (r : List β) (d : Dev) (done : List β), r ⊆ l → done ⊆ l → I d → (∀ b ∈ done, P b d) →
      I (r.foldl g d) ∧ ∀ b, b ∈ done ∨ b ∈ r → P b (r.foldl g d) by
    obtain ⟨hi, hp⟩ := h l d [] (fun _ h => h) (by simp) hI (by simp)
    exact ⟨hi, fun b hb => hp b (.inr hb)⟩
  intro r
  induction r with
  | nil => exact fun d done _ _ hI hdone => ⟨hI, fun b hb => hdone b (by simpa using hb)⟩
  | cons a r ih =>
    intro d done hr hd hI hdone
    have ha : a ∈ l := hr List.mem_cons_self
    obtain ⟨hi, hp⟩ := hown d a ha hI
    have hall : ∀ b ∈ a :: done, P b (g d a) := by
      intro b hb
      by_cases hba : a = b
      · exact hba ▸ hp
      · have hbd : b ∈ done := by simpa [Ne.symm hba] using hb
        exact hkeep d a b ha (hd hbd) hba hI (hdone b hbd)
    obtain ⟨hi', hp'⟩ := ih (g d a) (a :: done) (fun b hb => hr (List.mem_cons_of_mem _ hb))
      (List.cons_subset.2 ⟨ha, hd⟩) hi hall
    refine ⟨hi', fun b hb => hp' b ?_⟩
    obtain hb | hb := hb
    · exact .inl (List.mem_cons_of_mem _ hb)
    · obtain rfl | hb := List.mem_cons.1 hb
      · exact .inl List.mem_cons_self
      · exact .inr hb

/-! ### Tables of a block of keys -/

theorem sfind_filter {α : Type} (q : Nat → Bool) (k : Nat) (l : List (Nat × α)) :
    sfind k (l.filter fun x => q x.1) = if q k then sfind k l else none := by
  induction l with
  | nil => simp [sfind]
  | cons x r ih =>
    obtain ⟨j, v⟩ := x
    by_cases hj : q j = true
    · rw [List.filter_cons_of_pos (p := fun x : Nat × α => q x.1) hj, sfind, sfind, ih]
      by_cases hk : j = k
      · simp [hk, hk ▸ hj]
      · simp [hk]
    · rw [List.filter_cons_of_neg (p := fun x : Nat × α => q x.1) hj, ih, sfind]
      by_cases hk : j = k
      · simp [hk ▸ hj]
      · simp [hk]

theorem sget_filter {α : Type} (a : α) (q : Nat → Bool) (k : Nat) (l : List (Nat × α)) :
    sget a k (l.filter fun x => q x.1) = if q k then sget a k l else a := by
  rw [sget, sfind_filter]
  split
  · rfl
  · rfl

/-- A block of keys from `b` on, set one after the other. -/
def setBlock {α : Type} [DecidableEq α] (a : α) (b n : Nat) (f : Nat → α) (l : List (Nat × α)) : List (Nat × α) :=
  ((List.range n).map fun i => (b + i, f i)).foldl (fun l v => sset a v.1 v.2 l) l

theorem sget_setBlock {α : Type} [DecidableEq α] (a : α) (b n : Nat) (f : Nat → α) (l : List (Nat × α)) (k : Nat) :
    sget a k (setBlock a b n f l) = if b ≤ k ∧ k < b + n then f (k - b) else sget a k l := by
  induction n with
  | zero =>
    rw [if_neg (by omega)]
    rfl
  | succ n ih =>
    simp only [setBlock, List.range_succ, List.map_append, List.foldl_append, List.map_cons, List.map_nil, List.foldl_cons,
      List.foldl_nil] at ih ⊢
    by_cases hk : k = b + n
    · subst hk
      rw [sget_sset_self, if_pos (by omega)]
      congr 1
      omega
    · rw [sget_sset_ne _ hk, ih]
      by_cases hin : b ≤ k ∧ k < b + n
      · rw [if_pos hin, if_pos (by omega)]
      · rw [if_neg hin, if_neg (by omega)]

/-! ### LDS (R142) -/

section
variable {d : Dev} {c : CasCtx} {e : TileEntry} {umask desc buf : Nat} {tile : Nat → TileAt}

/-- Element `i` of the stationary buffer, by rows, of a tile. -/
def bufElem (m : List Host.Cell) (t : TileAt) (i : Nat) : FVal :=
  if t.tr then tileElem m t (i / 128 * 128 + i % 128) else tileElem m t (i % 128 * 128 + i / 128)

/-- The elements of all buffers once buffer `b` is loaded. -/
def loadedElems (m : List Host.Cell) (t : TileAt) (b : Nat) (l : List (Nat × FVal)) : List (Nat × FVal) :=
  setBlock fzero (b * 16384) 16384 (bufElem m t) (l.filter (fun x => x.1 / 16384 != b))

/-- A unit's stationary buffer loaded from its tile. -/
def ldsLoad (m : List Host.Cell) (c : CasCtx) (e : TileEntry) (buf : Nat) (d : Dev) (p : Nat × TileAt) : Dev :=
  let uid := c.uid p.1
  let b := 2 * uid + buf
  d.withCas { d.cas with
    sbElems := loadedElems m p.2 b d.cas.sbElems,
    sb := sput b ⟨c.t, c.t + tload e.fmt, 0, e.fmt, e.klen, e.nlen⟩ d.cas.sb,
    loadFree := sset 0 uid (c.t + tload e.fmt) d.cas.loadFree }

theorem maskLines_nil (m : List Host.Cell) (T : Nat) : maskLines m T [] = m := rfl

theorem zip_map_self {α β : Type} (f : α → β) (l : List α) : l.zip (l.map f) = l.map fun a => (a, f a) := by
  simpa using List.zip_map' (f := id) (g := f) (l := l)

theorem ldsIssue_eq (he : casEntry d c desc = .ok e) (hw : (fmtWidth e.fmt).isSome = true) (hmx : isMx e.fmt = true → e.tr = false)
    (ht : ∀ u ∈ maskUnits umask 8, sget 0 (c.uid u) d.cas.loadFree ≤ c.t ∧ casOperand d c e e.base u u = .ok (tile u) ∧
      ∀ m, sfind (2 * c.uid u + buf) d.cas.sb = some m → m.readEnd ≤ c.t)
    {v : Dev} (hv : rvrTimed d c.T (spread c.t (tload e.fmt)
      (linesOf c.T (((maskUnits umask 8).map fun u => tileRuns (tile u)).flatten))) = (v, [])) :
    ldsIssue d c umask desc buf 0 = .ok (casBusy (((maskUnits umask 8).map fun u => (u, tile u)).foldl
      (ldsLoad v.mem c e buf) v) c.h (c.t + tload e.fmt)) := by
  have htest : ∀ u ∈ maskUnits umask 8, (if c.t < sget 0 (c.uid u) d.cas.loadFree ∨
      c.t < ((sfind (2 * c.uid u + buf) d.cas.sb).map (·.readEnd)).getD 0 then Except.error ((0x42, u, 0) : CasFail)
      else casOperand d c e e.base u u) = .ok (tile u) := by
    intro u hu
    obtain ⟨hfree, hop, hread⟩ := ht u hu
    rw [if_neg, hop]
    rintro (h | h)
    · omega
    · cases hs : sfind (2 * c.uid u + buf) d.cas.sb with
      | none => simp [hs] at h
      | some m =>
        have := hread m hs
        simp only [hs, Option.map_some, Option.getD_some] at h
        omega
  have hbad : ¬ ((fmtWidth e.fmt).isNone = true ∨ isMx e.fmt = true ∧ e.tr = true) := by
    rintro (h | ⟨h, h'⟩)
    · rw [Option.isNone_iff_eq_none] at h
      simp [h] at hw
    · simp [hmx h] at h'
  simp only [ldsIssue, he]
  rw [if_neg (by omega), if_neg hbad, if_neg (by omega)]
  simp only [allOk_map htest, List.map_map, Function.comp_def, hv, maskLines_nil, zip_map_self]
  rfl

theorem bufferOf_ne {u w : Nat} (h : u ≠ w) : 2 * c.uid u + buf ≠ 2 * c.uid w + buf := by
  simp only [CasCtx.uid]
  omega

/-- What a unit's load leaves: its buffer's entry, the time its port is free, and the elements. -/
structure Loaded (m : List Host.Cell) (c : CasCtx) (e : TileEntry) (buf : Nat) (p : Nat × TileAt) (v : Dev) : Prop where
  entry : sfind (2 * c.uid p.1 + buf) v.cas.sb = some ⟨c.t, c.t + tload e.fmt, 0, e.fmt, e.klen, e.nlen⟩
  free : sget 0 (c.uid p.1) v.cas.loadFree = c.t + tload e.fmt
  elem : ∀ k n, k < 128 → n < 128 → sbElem v (2 * c.uid p.1 + buf) k n =
    tileElem m p.2 (if p.2.tr then k * 128 + n else n * 128 + k)

theorem ldsLoad_elems (m : List Host.Cell) (v : Dev) (p : Nat × TileAt) :
    (ldsLoad m c e buf v p).cas.sbElems = loadedElems m p.2 (2 * c.uid p.1 + buf) v.cas.sbElems := by
  simp only [ldsLoad, withCas_cas]

theorem ldsLoad_keeps (m : List Host.Cell) (v : Dev) (p : Nat × TileAt) : (ldsLoad m c e buf v p).mem = v.mem ∧
    (ldsLoad m c e buf v p).cas.elems = v.cas.elems ∧ (ldsLoad m c e buf v p).jet = v.jet := by
  simp [ldsLoad]

theorem loaded_ldsLoad (m : List Host.Cell) (v : Dev) (p : Nat × TileAt) : Loaded m c e buf p (ldsLoad m c e buf v p) where
  entry := sfind_sput_self _ _ _
  free := sget_sset_self _ _ _ _
  elem k n hk hn := by
    rw [sbElem, ldsLoad_elems, loadedElems, sget_setBlock, if_pos (by omega), bufElem]
    have hi : (2 * c.uid p.1 + buf) * 16384 + k * 128 + n - (2 * c.uid p.1 + buf) * 16384 = k * 128 + n := by omega
    have hd : (k * 128 + n) / 128 = k := by omega
    have hm : (k * 128 + n) % 128 = n := by omega
    rw [hi, hd, hm]
    split
    · rfl
    · rfl

theorem Loaded.keep {m : List Host.Cell} {v : Dev} {p q : Nat × TileAt} (h : Loaded m c e buf q v) (hne : p.1 ≠ q.1) :
    Loaded m c e buf q (ldsLoad m c e buf v p) where
  entry := (sfind_sput_ne (bufferOf_ne (Ne.symm hne)) _ _).trans h.entry
  free := (sget_sset_ne _ (by simp only [CasCtx.uid]; omega) _ _).trans h.free
  elem k n hk hn := by
    have hkey := bufferOf_ne (c := c) (buf := buf) hne
    rw [← h.elem k n hk hn, sbElem, sbElem, ldsLoad_elems, loadedElems, sget_setBlock, if_neg (by omega)]
    refine (sget_filter _ (fun x => x / 16384 != 2 * c.uid p.1 + buf) _ _).trans ?_
    exact if_pos (by simp only [bne_iff_ne]; omega)

theorem Loaded.busy {m : List Host.Cell} {v : Dev} {p : Nat × TileAt} (h : Loaded m c e buf p v) (half t : Nat) :
    Loaded m c e buf p (casBusy v half t) := ⟨h.entry, h.free, h.elem⟩

/-- LDS of a sound entry whose tests pass. -/
theorem ldsIssue_loads (he : casEntry d c desc = .ok e) (hw : (fmtWidth e.fmt).isSome = true)
    (hmx : isMx e.fmt = true → e.tr = false)
    (ht : ∀ u ∈ maskUnits umask 8, sget 0 (c.uid u) d.cas.loadFree ≤ c.t ∧ casOperand d c e e.base u u = .ok (tile u) ∧
      ∀ m, sfind (2 * c.uid u + buf) d.cas.sb = some m → m.readEnd ≤ c.t)
    (hbanks : (rvrTimed d c.T (spread c.t (tload e.fmt)
      (linesOf c.T (((maskUnits umask 8).map fun u => tileRuns (tile u)).flatten)))).2 = []) :
    ∃ v, ldsIssue d c umask desc buf 0 = .ok v ∧ (∀ u ∈ maskUnits umask 8, Loaded d.mem c e buf (u, tile u) v) ∧
      v.mem = d.mem ∧ v.cas.elems = d.cas.elems ∧ v.jet = d.jet := by
  obtain ⟨v, hv, hmem, hleaves⟩ := rvrTimed_clean hbanks
  have hfold := foldl_each (g := ldsLoad v.mem c e buf) (P := fun p v' => Loaded v.mem c e buf p v')
    (I := fun v' => v'.mem = d.mem ∧ v'.cas.elems = d.cas.elems ∧ v'.jet = d.jet)
    ((maskUnits umask 8).map fun u => (u, tile u)) (d := v)
    ⟨hmem, congrArg Cas.elems (hleaves.1 .cas (by simp)), hleaves.1 .jet (by simp)⟩
    (fun v' p _ ⟨hm, he, hj⟩ =>
      have ⟨hm', he', hj'⟩ := ldsLoad_keeps v.mem v' p
      ⟨⟨hm'.trans hm, he'.trans he, hj'.trans hj⟩, loaded_ldsLoad _ _ _⟩)
    (fun v' p q hp hq hne _ h => h.keep (fun heq => hne (by
      obtain ⟨u, -, rfl⟩ := List.mem_map.1 hp
      obtain ⟨w, -, rfl⟩ := List.mem_map.1 hq
      rw [show u = w from heq])))
  obtain ⟨hI, hP⟩ := hfold
  refine ⟨_, ldsIssue_eq he hw hmx ht hv, fun u hu => ?_, hI⟩
  rw [← hmem]
  exact (hP _ (List.mem_map_of_mem hu)).busy _ _

end

/-- Settles O24: the op passes its tests on the counted package, which differs from the settled one in counters alone. -/
theorem ldsLoadsStationaryBuffers : Obligations.LdsLoadsStationaryBuffers := by
  intro iss terr umask desc buf s e tile d c us hr hmask hentry hw hmx ht hbanks
  obtain ⟨r, hcounted⟩ := casCounted_eq d iss terr
  obtain ⟨v, hv, hloaded, hmem, helems, hjet⟩ := ldsIssue_loads (d := d.withRegs r) (c := c) (umask := umask.toNat)
    (desc := desc.toNat) (buf := buf.toNat) (tile := tile) hentry hw hmx (fun u hu => by
      obtain ⟨hfree, hop, hread⟩ := ht u hu
      exact ⟨hfree, hop, hread⟩) (rvrTimed_regs r hbanks)
  have hop : casOp (casCounted d iss terr) c (.lds umask desc buf 0#1) = .ok v := by
    rw [hcounted]
    exact (if_neg hmask).trans hv
  have heq := casIssue_ready (op := .lds umask desc buf 0#1) rfl hr
  rw [hop] at heq
  refine ⟨_, next_congr rfl heq, fun u hu => ?_, fun a => ?_, helems, hjet⟩
  · obtain ⟨hent, hfree, helem⟩ := hloaded u hu
    exact ⟨hent, hfree, helem⟩
  · exact congrArg (memGet · a) hmem

end Sys2Proof.Machine
end

section
/-! PROOFS. The matrix ops: MM, OPA and TWF queue their pass rows (04, R145 to R152; 05, R163). -/

namespace Sys2Proof.Machine

/-! ### Rows queued -/

/-- Memory and the tiles stand, and no row is lost. -/
structure RowsOn (d e : Dev) : Prop where
  mem : ∀ a, memGet e.mem a = memGet d.mem a
  elems : e.cas.elems = d.cas.elems
  rows : d.cas.rows ⊆ e.cas.rows

theorem RowsOn.refl (d : Dev) : RowsOn d d := ⟨fun _ => rfl, rfl, fun _ h => h⟩

theorem RowsOn.trans {d e f : Dev} (h : RowsOn d e) (g : RowsOn e f) : RowsOn d f :=
  ⟨fun a => (g.mem a).trans (h.mem a), g.elems.trans h.elems, fun _ hr => g.rows (h.rows hr)⟩

theorem RowsOn.of_side {d e : Dev} (h : Leaves opSide anyReg d e) : RowsOn d e ∧ e.cas = d.cas :=
  have hcas : e.cas = d.cas := h.1 .cas (by decide)
  ⟨⟨h.1 .mem (by decide), congrArg Cas.elems hcas, hcas ▸ fun _ h => h⟩, hcas⟩

/-- A row that waits for its time: whose it is, where it goes and what it holds. -/
structure RowIs (r : RowApp) (uid x bt acm due : Nat) (vals : List Pair) : Prop where
  uid : r.uid = uid
  row : r.row = x
  bt : r.bt = bt
  acm : r.acm = acm
  due : r.due = due
  vals : r.vals = vals

section
variable {d : Dev} {c : CasCtx} {u bt acm D : Nat} {cm gp : Bool} {due : Nat → Nat} {p : PassRows}

theorem queueRows_eq (d : Dev) (c : CasCtx) (u bt acm : Nat) (cm gp : Bool) (D : Nat) (due : Nat → Nat) (p : PassRows) :
    Leaves [.cas] anyReg d (queueRows d c u bt acm cm gp D due p) ∧
      (queueRows d c u bt acm cm gp D due p).cas.elems = d.cas.elems ∧
      (queueRows d c u bt acm cm gp D due p).cas.sb = d.cas.sb ∧
      (queueRows d c u bt acm cm gp D due p).cas.streamFree = sset 0 (c.uid u) (c.t + D) d.cas.streamFree ∧
      ∃ new, (queueRows d c u bt acm cm gp D due p).cas.rows = d.cas.rows ++ new ∧
        ∀ x (h : x < p.rows.length), ∃ r ∈ new, RowIs r (c.uid u) x bt acm (due x) p.rows[x] := by
  refine ⟨?_, ?_, ?_, ?_, ?_⟩
  · simp [queueRows, casBusy]
  · simp [queueRows, casBusy]
  · simp [queueRows, casBusy]
  · simp [queueRows, casBusy]
  · refine ⟨_, by simp only [queueRows, casBusy, count_cas, withCas_cas]; rfl, fun x hx => ?_⟩
    refine ⟨_, List.mem_map.2 ⟨(p.rows[x], x), ?_, rfl⟩, rfl, rfl, rfl, rfl, rfl, rfl⟩
    rw [List.mem_zipIdx_iff_getElem?]
    simp [hx]

theorem rowsOn_queueRows : RowsOn d (queueRows d c u bt acm cm gp D due p) := by
  obtain ⟨hleaves, helems, -, -, new, hrows, -⟩ := queueRows_eq d c u bt acm cm gp D due p
  exact ⟨hleaves.1 .mem (by decide), helems, by rw [hrows]; exact List.subset_append_left _ _⟩

theorem mem_queueRows {x : Nat} (h : x < p.rows.length) :
    ∃ r ∈ (queueRows d c u bt acm cm gp D due p).cas.rows, RowIs r (c.uid u) x bt acm (due x) p.rows[x] := by
  obtain ⟨-, -, -, -, new, hrows, hnew⟩ := queueRows_eq d c u bt acm cm gp D due p
  obtain ⟨r, hr, his⟩ := hnew x h
  exact ⟨r, by rw [hrows]; exact List.mem_append_right _ hr, his⟩

theorem holdBuffer_eq (d : Dev) (uid buf till : Nat) : ∃ sb, holdBuffer d uid buf till = d.withCas { d.cas with sb := sb } := by
  unfold holdBuffer
  split
  · exact ⟨_, rfl⟩
  · exact ⟨d.cas.sb, rfl⟩

theorem rowsOn_holdBuffer (d : Dev) (uid buf till : Nat) : RowsOn d (holdBuffer d uid buf till) ∧
    (holdBuffer d uid buf till).cas.streamFree = d.cas.streamFree := by
  obtain ⟨sb, h⟩ := holdBuffer_eq d uid buf till
  rw [h]
  exact ⟨⟨fun _ => rfl, rfl, fun _ h => h⟩, rfl⟩

end

/-- Row `x` of a pass without PDT. -/
theorem passRows_getElem {w nrows ncol : Nat} {cm : Bool} {valid : Nat → Bool} {a b : Nat → Nat → Nat → FVal} {x : Nat}
    (h : x < nrows) : ∃ h' : x < (passRows w cm false nrows ncol valid a b).rows.length,
      (passRows w cm false nrows ncol valid a b).rows[x] = (List.range 128).map fun n =>
        if n < ncol then pass w cm (products valid (a x n) (b x n)) else plain fzero := by
  refine ⟨by simpa [passRows] using h, ?_⟩
  simp [passRows]

/-! ### MM (R145) -/

section
variable {d v : Dev} {c : CasCtx} {e : TileEntry} {umask desc rows1 buf bt acm cmp gp w : Nat} {tile : Nat → TileAt}
  {sbm : Nat → SbMeta}

/-- The rows of a unit's pass. -/
def mmRows (v : Dev) (c : CasCtx) (e : TileEntry) (buf rows w : Nat) (cm : Bool) (sbm : Nat → SbMeta) (tile : Nat → TileAt)
    (u : Nat) : PassRows :=
  passRows w cm false rows ((sbm u).nlen + 1) (fun k => decide (k ≤ e.klen) && decide (k ≤ (sbm u).klen))
    (fun t _ k => operandElem v.mem (tile u) t k) (fun _ n k => sbElem v (2 * c.uid u + buf) k n)

/-- A unit's pass: its rows queued, its buffer held, its events reported. -/
def queuePass (c : CasCtx) (bt acm : Nat) (cm gp : Bool) (D : Nat) (due : Nat → Nat) (buf : Nat) (d : Dev) (u : Nat)
    (p : PassRows) : Dev :=
  let d := queueRows d c u bt acm cm gp D due p
  let d := holdBuffer d (c.uid u) buf (c.t + D)
  reportEvents d c.h gp (opStep d) srcCAS c.word p.ev

theorem queuePass_eq (c : CasCtx) (bt acm : Nat) (cm gp : Bool) (D : Nat) (due : Nat → Nat) (buf : Nat) (d : Dev) (u : Nat)
    (p : PassRows) : RowsOn d (queuePass c bt acm cm gp D due buf d u p) ∧
      (queuePass c bt acm cm gp D due buf d u p).cas.streamFree = sset 0 (c.uid u) (c.t + D) d.cas.streamFree ∧
      ∀ x (h : x < p.rows.length), ∃ r ∈ (queuePass c bt acm cm gp D due buf d u p).cas.rows,
        RowIs r (c.uid u) x bt acm (due x) p.rows[x] := by
  obtain ⟨-, -, -, hfree, -⟩ := queueRows_eq d c u bt acm cm gp D due p
  obtain ⟨hheld, hheldFree⟩ := rowsOn_holdBuffer (queueRows d c u bt acm cm gp D due p) (c.uid u) buf (c.t + D)
  unfold queuePass
  extract_lets d1 d2
  obtain ⟨hrep, hcas⟩ := RowsOn.of_side (leaves_reportEvents (d := d2) leaves_self c.h gp (opStep d2) srcCAS c.word p.ev)
  refine ⟨(rowsOn_queueRows.trans hheld).trans hrep, ?_, fun x hx => ?_⟩
  · rw [hcas]
    exact hheldFree.trans hfree
  · obtain ⟨r, hr, his⟩ := mem_queueRows (d := d) (c := c) (u := u) (bt := bt) (acm := acm) (cm := cm) (gp := gp) (D := D)
      (due := due) hx
    exact ⟨r, hrep.rows (hheld.rows hr), his⟩

/-- The rows of a unit are queued and its port is held. -/
def PassQueued (c : CasCtx) (bt acm D : Nat) (due : Nat → Nat) (rows : Nat → PassRows) (u : Nat) (d : Dev) : Prop :=
  sget 0 (c.uid u) d.cas.streamFree = c.t + D ∧
    ∀ x (h : x < (rows u).rows.length), ∃ r ∈ d.cas.rows, RowIs r (c.uid u) x bt acm (due x) (rows u).rows[x]

/-- All units' passes are queued, one after the other, and stay so whatever the shadow sampling does after. -/
theorem passesQueued (c : CasCtx) (bt acm : Nat) (cm gp : Bool) (D : Nat) (due : Nat → Nat) (buf : Nat) (v : Dev)
    (us : List Nat) (rows : Nat → PassRows) (o : SampleOp) (win : Nat → Bool → Nat → Nat → List (List FVal × FVal)) :
    let e := shadowDraw (us.foldl (fun d u => queuePass c bt acm cm gp D due buf d u (rows u)) v) c o win
    RowsOn v e ∧ ∀ u ∈ us, PassQueued c bt acm D due rows u e := by
  intro e
  obtain ⟨hon, hall⟩ := foldl_each (g := fun d u => queuePass c bt acm cm gp D due buf d u (rows u)) (I := RowsOn v)
    (P := PassQueued c bt acm D due rows) us (d := v) (RowsOn.refl v)
    (fun d u _ h => by
      obtain ⟨hon, hfree, hrows⟩ := queuePass_eq c bt acm cm gp D due buf d u (rows u)
      exact ⟨h.trans hon, by rw [hfree, sget_sset_self], hrows⟩)
    (fun d u w _ _ hne _ ⟨hfree, hrows⟩ => by
      obtain ⟨hon, hfree', -⟩ := queuePass_eq c bt acm cm gp D due buf d u (rows u)
      refine ⟨?_, fun x hx => ?_⟩
      · rw [hfree', sget_sset_ne _ (by simp only [CasCtx.uid]; omega), hfree]
      · obtain ⟨r, hr, his⟩ := hrows x hx
        exact ⟨r, hon.rows hr, his⟩)
  obtain ⟨hside, hcas⟩ := RowsOn.of_side (leaves_shadowDraw
    (d := us.foldl (fun d u => queuePass c bt acm cm gp D due buf d u (rows u)) v) leaves_self c o win)
  refine ⟨hon.trans hside, fun u hu => ?_⟩
  obtain ⟨hfree, hrows⟩ := hall u hu
  refine ⟨by rw [hcas, hfree], fun x hx => ?_⟩
  obtain ⟨r, hr, his⟩ := hrows x hx
  exact ⟨r, hside.rows hr, his⟩

theorem mmIssue_eq (he : casEntry d c desc = .ok e) (hacm : acm ≠ 3) (hmx : isMx e.fmt = true → e.tr = false)
    (ht : ∀ u ∈ maskUnits umask 8, casBuffer d c u buf = .ok (sbm u) ∧ casStream d c u = .ok () ∧
      casTarget d c u bt acm (cmp == 1) = .ok () ∧ casOperand d c e e.base u u = .ok (tile u))
    (hw : widthClass (e.fmt :: (maskUnits umask 8).map fun u => (sbm u).fmt) = some w)
    (hv : rvrTimed d c.T (spread c.t (((rows1 + 1) * rate2 w false (cmp == 1) + 1) / 2)
      (linesOf c.T (((maskUnits umask 8).map fun u => rowRuns (tile u) (rows1 + 1)).flatten))) = (v, [])) :
    ∃ o win, mmIssue d c umask desc rows1 buf bt acm cmp gp 0 = .ok (shadowDraw ((maskUnits umask 8).foldl (fun d u =>
      queuePass c bt acm (cmp == 1) (gp == 1) (((rows1 + 1) * rate2 w false (cmp == 1) + 1) / 2)
        (fun t => c.t + 184 + t * rate2 w false (cmp == 1) / 2) buf d u
        (mmRows v c e buf (rows1 + 1) w (cmp == 1) sbm tile u)) v) c o win) := by
  have hbad : ¬ (acm = 3 ∨ ((0 == 1) = true ∧ acm = 2) ∨ ((0 == 1) = true ∧ (cmp == 1) = true) ∨
      (isMx e.fmt = true ∧ e.tr = true)) := by
    rintro (h | ⟨h, -⟩ | ⟨h, -⟩ | ⟨h, h'⟩)
    · exact hacm h
    · cases h
    · cases h
    · simp [hmx h] at h'
  have hbuffer : ∀ u ∈ maskUnits umask 8, casBuffer d c u buf = .ok (sbm u) := fun u hu => (ht u hu).1
  have hw' : widthClass (e.fmt :: ((maskUnits umask 8).map sbm).map (·.fmt)) = some w := by
    rw [List.map_map]; exact hw
  simp only [mmIssue, he]
  rw [if_neg hbad, allOk_map hbuffer]
  simp only [hw']
  rw [if_neg (by rintro ⟨h, -⟩; cases h)]
  have hpdt : ((0 : Nat) == 1) = false := rfl
  rw [allOk_map (g := tile)]
  · simp only [hpdt, List.map_map, Function.comp_def, hv, maskLines_nil, zip_map_self, List.zip_map', List.foldl_map]
    exact ⟨_, _, rfl⟩
  · intro u hu
    obtain ⟨-, hs, htg, ho⟩ := ht u hu
    simp only [hs, htg, ho]

end

theorem bit_beq (b : BitVec 1) : (b.toNat == 1) = (b == 1#1) := by
  revert b
  decide

theorem toNat_ne_three {b : BitVec 2} (h : b ≠ 3#2) : b.toNat ≠ 3 := fun h' => h (BitVec.eq_of_toNat_eq h')

/-- Settles O25: MM queues the pass of every unit on the counted package. -/
theorem mmQueuesItsPassRows : Obligations.MmQueuesItsPassRows := by
  intro iss terr umask desc rowsm1 buf bt acm cmp gp s e tile sbm w d c us D hr hmask hentry hacm hmx ht hw hbanks
  obtain ⟨r, hcounted⟩ := casCounted_eq d iss terr
  obtain ⟨v, hv, hmem, hleaves⟩ := rvrTimed_clean (rvrTimed_regs r hbanks)
  have hcas : v.cas = d.cas := hleaves.1 .cas (by simp)
  obtain ⟨o, win, hissue⟩ := mmIssue_eq (d := d.withRegs r) (c := c) (v := v) (umask := umask.toNat) (desc := desc.toNat)
    (rows1 := rowsm1.toNat) (buf := buf.toNat) (bt := bt.toNat) (acm := acm.toNat) (cmp := cmp.toNat) (gp := gp.toNat)
    (tile := tile) (sbm := sbm) (w := w) hentry (toNat_ne_three hacm) hmx (fun u hu => by
      obtain ⟨hb, hs, htg, ho⟩ := ht u hu
      exact ⟨hb, hs, bit_beq cmp ▸ htg, ho⟩) hw (bit_beq cmp ▸ hv)
  obtain ⟨hon, hqueued⟩ := passesQueued c bt.toNat acm.toNat (cmp.toNat == 1) (gp.toNat == 1)
    (((rowsm1.toNat + 1) * rate2 w false (cmp.toNat == 1) + 1) / 2)
    (fun t => c.t + 184 + t * rate2 w false (cmp.toNat == 1) / 2) buf.toNat v us
    (mmRows v c e buf.toNat (rowsm1.toNat + 1) w (cmp.toNat == 1) sbm tile) o win
  have hop : casOp (d.withRegs r) c (.mm umask desc rowsm1 buf bt acm cmp gp 0#1) = _ := (if_neg hmask).trans hissue
  rw [← hcounted] at hop
  have heq := casIssue_ready (op := .mm umask desc rowsm1 buf bt acm cmp gp 0#1) rfl hr
  rw [hop] at heq
  refine ⟨_, next_congr rfl heq, fun u x hu hx => ?_, fun u hu => ?_, fun a => ?_, ?_⟩
  · obtain ⟨hlen, hvals⟩ := passRows_getElem (w := w) (nrows := rowsm1.toNat + 1) (ncol := (sbm u).nlen + 1)
      (cm := cmp.toNat == 1) (valid := fun k => decide (k ≤ e.klen) && decide (k ≤ (sbm u).klen))
      (a := fun t _ k => operandElem v.mem (tile u) t k) (b := fun _ n k => sbElem v (2 * c.uid u + buf.toNat) k n)
      (x := x) (by omega)
    obtain ⟨q, hq, huid, hrow, hbt, hacm', hdue, hqv⟩ := (hqueued u hu).2 x hlen
    refine ⟨q, hq, huid, hrow, hbt, hacm', ?_, ?_⟩
    · rw [hdue, bit_beq]
      rfl
    · have hsb : ∀ b k n, sbElem v b k n = sbElem d b k n := fun b k n => by rw [sbElem, hcas, sbElem]
      rw [hqv]
      refine hvals.trans ?_
      rw [bit_beq, hmem]
      simp only [hsb]
      rfl
  · rw [(hqueued u hu).1, bit_beq]
    rfl
  · exact (hon.mem a).trans (congrArg (memGet · a) hmem)
  · exact hon.elems.trans (congrArg Cas.elems hcas)

/-! ### OPA and TWF (R145, R150) -/

/-- Rows that each unit of a list queues are there once all have, whatever the shadow sampling does after. -/
theorem rowsQueued {ι : Type} {g : Dev → Nat → Dev} {is : Nat → ι → RowApp → Prop}
    (hg : ∀ d u, RowsOn d (g d u) ∧ ∀ i, ∃ r ∈ (g d u).cas.rows, is u i r) (v : Dev) (us : List Nat) (c : CasCtx) (o : SampleOp)
    (win : Nat → Bool → Nat → Nat → List (List FVal × FVal)) :
    RowsOn v (shadowDraw (us.foldl g v) c o win) ∧
      ∀ u ∈ us, ∀ i, ∃ r ∈ (shadowDraw (us.foldl g v) c o win).cas.rows, is u i r := by
  obtain ⟨hon, hall⟩ := foldl_each (g := g) (I := RowsOn v) (P := fun u d => ∀ i, ∃ r ∈ d.cas.rows, is u i r) us (d := v)
    (RowsOn.refl v) (fun d u _ h => ⟨h.trans (hg d u).1, (hg d u).2⟩)
    (fun d u w _ _ _ _ h i => by
      obtain ⟨r, hr, his⟩ := h i
      exact ⟨r, (hg d u).1.rows hr, his⟩)
  obtain ⟨hside, -⟩ := RowsOn.of_side (leaves_shadowDraw (d := us.foldl g v) leaves_self c o win)
  refine ⟨hon.trans hside, fun u hu i => ?_⟩
  obtain ⟨r, hr, his⟩ := hall u hu i
  exact ⟨r, hside.rows hr, his⟩

/-- The values of row `x` of an outer product. -/
def outerVals (m : List Host.Cell) (w : Nat) (cm : Bool) (rows ka kb : Nat) (a b : TileAt) (x : Nat) : List Pair :=
  (List.range 128).map fun y => pass w cm (products (fun k => decide (k < rows) && decide (k ≤ ka) && decide (k ≤ kb))
    (fun k => operandElem m a k x) (fun k => operandElem m b k y))

theorem outerRows_getElem {m : List Host.Cell} {w rows ka kb : Nat} {cm : Bool} {a b : TileAt} {x : Nat} (h : x < 128) :
    ∃ h' : x < (outerRows m w cm false rows ka kb a b).1.rows.length,
      (outerRows m w cm false rows ka kb a b).1.rows[x] = outerVals m w cm rows ka kb a b x := by
  obtain ⟨hlen, hvals⟩ := passRows_getElem (w := w) (nrows := 128) (ncol := 128) (cm := cm)
    (valid := fun t => decide (t < rows) && decide (t ≤ ka) && decide (t ≤ kb))
    (a := fun i _ t => operandElem m a t i) (b := fun _ j t => operandElem m b t j) h
  refine ⟨hlen, hvals.trans (List.map_congr_left fun n hn => ?_)⟩
  rw [if_pos (List.mem_range.1 hn)]

section
variable {d v : Dev} {c : CasCtx} {ea eb : TileEntry} {umask adesc bdesc rows1 bt acm cmp gp w : Nat} {ta tb : Nat → TileAt}

/-- A unit's outer product: its rows queued and its events reported. -/
def opaUnit (v : Dev) (c : CasCtx) (bt acm : Nat) (cm gp : Bool) (D rows w : Nat) (ea eb : TileEntry) (ta tb : Nat → TileAt)
    (d : Dev) (u : Nat) : Dev :=
  let p := (outerRows v.mem w cm false rows ea.klen eb.klen (ta u) (tb u)).1
  let d := queueRows d c u bt acm cm gp D (fun i => c.t + 56 + D + i) p
  reportEvents d c.h gp (opStep d) srcCAS c.word p.ev

theorem opaUnit_eq (cm gp : Bool) (D rows : Nat) (d : Dev) (u : Nat) :
    RowsOn d (opaUnit v c bt acm cm gp D rows w ea eb ta tb d u) ∧
      ∀ i : Fin 128, ∃ r ∈ (opaUnit v c bt acm cm gp D rows w ea eb ta tb d u).cas.rows,
        RowIs r (c.uid u) i bt acm (c.t + 56 + D + i) (outerVals v.mem w cm rows ea.klen eb.klen (ta u) (tb u) i) := by
  unfold opaUnit
  extract_lets p d1
  obtain ⟨hrep, -⟩ := RowsOn.of_side (leaves_reportEvents (d := d1) leaves_self c.h gp (opStep d1) srcCAS c.word p.ev)
  refine ⟨rowsOn_queueRows.trans hrep, fun i => ?_⟩
  obtain ⟨hlen, hvals⟩ := outerRows_getElem (m := v.mem) (w := w) (rows := rows) (ka := ea.klen) (kb := eb.klen) (cm := cm)
    (a := ta u) (b := tb u) i.isLt
  obtain ⟨r, hr, his⟩ := mem_queueRows (d := d) (c := c) (u := u) (bt := bt) (acm := acm) (cm := cm) (gp := gp) (D := D)
    (due := fun i => c.t + 56 + D + i) hlen
  exact ⟨r, hrep.rows hr, hvals ▸ his⟩

theorem opaIssue_eq (ha : casEntry d c adesc = .ok ea) (hb : casEntry d c bdesc = .ok eb) (hacm : acm ≠ 3)
    (hmxa : isMx ea.fmt = true → ea.tr = true) (hmxb : isMx eb.fmt = true → eb.tr = true)
    (hw : widthClass [ea.fmt, eb.fmt] = some w)
    (ht : ∀ u ∈ maskUnits umask 8, casStream d c u = .ok () ∧ casTarget d c u bt acm (cmp == 1) = .ok () ∧
      casOperand d c ea ea.base u u = .ok (ta u) ∧ casOperand d c eb eb.base u u = .ok (tb u))
    (hv : rvrTimed d c.T (spread c.t (((rows1 + 1) * rate2 w false (cmp == 1) + 1) / 2)
      (linesOf c.T (((maskUnits umask 8).map fun u => rowRuns (ta u) (rows1 + 1) ++ rowRuns (tb u) (rows1 + 1)).flatten)))
        = (v, [])) :
    ∃ o win, opaIssue d c umask adesc bdesc rows1 bt acm cmp gp 0 = .ok (shadowDraw ((maskUnits umask 8).foldl
      (opaUnit v c bt acm (cmp == 1) (gp == 1) (((rows1 + 1) * rate2 w false (cmp == 1) + 1) / 2) (rows1 + 1) w ea eb ta tb) v)
      c o win) := by
  have hbad : ¬ (acm = 3 ∨ ((0 == 1) = true ∧ acm = 2) ∨ ((0 == 1) = true ∧ (cmp == 1) = true) ∨
      (isMx ea.fmt && !ea.tr) = true ∨ (isMx eb.fmt && !eb.tr) = true) := by
    rintro (h | ⟨h, -⟩ | ⟨h, -⟩ | h | h)
    · exact hacm h
    · cases h
    · cases h
    · simp only [Bool.and_eq_true] at h
      simp [hmxa h.1] at h
    · simp only [Bool.and_eq_true] at h
      simp [hmxb h.1] at h
  have hpdt : ((0 : Nat) == 1) = false := rfl
  simp only [opaIssue, ha, hb]
  rw [if_neg hbad]
  simp only [hw]
  rw [if_neg (by rintro ⟨h, -⟩; cases h), allOk_map (g := fun u => (ta u, tb u))]
  · simp only [hpdt, List.map_map, Function.comp_def, hv, maskLines_nil, zip_map_self, List.foldl_map]
    exact ⟨_, _, rfl⟩
  · intro u hu
    obtain ⟨hs, htg, hoa, hob⟩ := ht u hu
    simp only [hs, htg, hoa, hob]

end

section
variable {d v : Dev} {c : CasCtx} {eg ex : TileEntry} {pmask gdesc xdesc rows1 buf ebt eacm obt oacm cmp w : Nat}
  {tg tx : Nat → TileAt} {sbm : Nat → SbMeta}

/-- A pair's twin-fall: the even unit's pass and the odd unit's outer product queued. -/
def twfPair (v : Dev) (c : CasCtx) (ebt eacm obt oacm buf : Nat) (cm : Bool) (D rows w : Nat) (eg ex : TileEntry)
    (tg tx : Nat → TileAt) (sbm : Nat → SbMeta) (d : Dev) (p : Nat) : Dev :=
  let inner := passRows w cm false rows ((sbm p).nlen + 1) (fun k => decide (k ≤ eg.klen) && decide (k ≤ (sbm p).klen))
    (fun t _ k => operandElem v.mem (tg p) t k) (fun _ n k => sbElem v (2 * c.uid (2 * p) + buf) k n)
  let outer := (outerRows v.mem w cm false rows ex.klen eg.klen (tx p) (tg p)).1
  let d := queueRows d c (2 * p) ebt eacm cm true D (fun t => c.t + 184 + t * rate2 w false cm / 2) inner
  let d := queueRows d c (2 * p + 1) obt oacm cm true D (fun i => c.t + 56 + D + i) outer
  let d := holdBuffer d (c.uid (2 * p)) buf (c.t + D)
  reportEvents d c.h true (opStep d) srcCAS c.word (inner.ev.add outer.ev)

theorem twfPair_eq (cm : Bool) (D rows : Nat) (d : Dev) (p : Nat) :
    RowsOn d (twfPair v c ebt eacm obt oacm buf cm D rows w eg ex tg tx sbm d p) ∧
      (∀ i : Fin rows, ∃ r ∈ (twfPair v c ebt eacm obt oacm buf cm D rows w eg ex tg tx sbm d p).cas.rows,
        ∃ vals, RowIs r (c.uid (2 * p)) i ebt eacm (c.t + 184 + i * rate2 w false cm / 2) vals) ∧
      ∀ i : Fin 128, ∃ r ∈ (twfPair v c ebt eacm obt oacm buf cm D rows w eg ex tg tx sbm d p).cas.rows,
        ∃ vals, RowIs r (c.uid (2 * p + 1)) i obt oacm (c.t + 56 + D + i) vals := by
  unfold twfPair
  extract_lets inner outer d1 d2 d3
  obtain ⟨hheld, -⟩ := rowsOn_holdBuffer d2 (c.uid (2 * p)) buf (c.t + D)
  obtain ⟨hrep, -⟩ := RowsOn.of_side (leaves_reportEvents (d := d3) leaves_self c.h true (opStep d3) srcCAS c.word
    (inner.ev.add outer.ev))
  have hafter := hheld.trans hrep
  have hsecond : RowsOn d1 d2 := rowsOn_queueRows
  refine ⟨(rowsOn_queueRows.trans hsecond).trans hafter, fun i => ?_, fun i => ?_⟩
  · obtain ⟨hlen, -⟩ := passRows_getElem (w := w) (nrows := rows) (ncol := (sbm p).nlen + 1) (cm := cm)
      (valid := fun k => decide (k ≤ eg.klen) && decide (k ≤ (sbm p).klen))
      (a := fun t _ k => operandElem v.mem (tg p) t k) (b := fun _ n k => sbElem v (2 * c.uid (2 * p) + buf) k n) i.isLt
    obtain ⟨r, hr, his⟩ := mem_queueRows (d := d) (c := c) (u := 2 * p) (bt := ebt) (acm := eacm) (cm := cm) (gp := true)
      (D := D) (due := fun t => c.t + 184 + t * rate2 w false cm / 2) hlen
    exact ⟨r, hafter.rows (hsecond.rows hr), _, his⟩
  · obtain ⟨hlen, -⟩ := outerRows_getElem (m := v.mem) (w := w) (rows := rows) (ka := ex.klen) (kb := eg.klen) (cm := cm)
      (a := tx p) (b := tg p) i.isLt
    obtain ⟨r, hr, his⟩ := mem_queueRows (d := d1) (c := c) (u := 2 * p + 1) (bt := obt) (acm := oacm) (cm := cm) (gp := true)
      (D := D) (due := fun i => c.t + 56 + D + i) hlen
    exact ⟨r, hafter.rows hr, _, his⟩

theorem twfIssue_eq (hg : casEntry d c gdesc = .ok eg) (hx : casEntry d c xdesc = .ok ex) (heacm : eacm ≠ 3)
    (hoacm : oacm ≠ 3) (hmxg : isMx eg.fmt = false) (htrg : eg.tr = false) (hmxx : isMx ex.fmt = true → ex.tr = true)
    (ht : ∀ p ∈ maskUnits pmask 4, casBuffer d c (2 * p) buf = .ok (sbm p) ∧ casStream d c (2 * p) = .ok () ∧
      casStream d c (2 * p + 1) = .ok () ∧ casTarget d c (2 * p) ebt eacm (cmp == 1) = .ok () ∧
      casTarget d c (2 * p + 1) obt oacm (cmp == 1) = .ok () ∧
      casOperand d c eg eg.base p (2 * p) = .ok (tg p) ∧ casOperand d c ex ex.base p (2 * p + 1) = .ok (tx p))
    (hw : widthClass (eg.fmt :: ex.fmt :: (maskUnits pmask 4).map fun p => (sbm p).fmt) = some w)
    (hv : rvrTimed d c.T (spread c.t (((rows1 + 1) * rate2 w false (cmp == 1) + 1) / 2)
      (linesOf c.T (((maskUnits pmask 4).map fun p => rowRuns (tg p) (rows1 + 1) ++ rowRuns (tx p) (rows1 + 1)).flatten)))
        = (v, [])) :
    ∃ o win, twfIssue d c pmask gdesc xdesc rows1 buf ebt eacm obt oacm cmp = .ok (shadowDraw ((maskUnits pmask 4).foldl
      (twfPair v c ebt eacm obt oacm buf (cmp == 1) (((rows1 + 1) * rate2 w false (cmp == 1) + 1) / 2) (rows1 + 1) w eg ex
        tg tx sbm) v) c o win) := by
  have hbad : ¬ (eacm = 3 ∨ oacm = 3 ∨ isMx eg.fmt = true ∨ eg.tr = true ∨ (isMx ex.fmt = true ∧ ex.tr = false)) := by
    rintro (h | h | h | h | ⟨h, h'⟩)
    · exact heacm h
    · exact hoacm h
    · simp [hmxg] at h
    · simp [htrg] at h
    · simp [hmxx h] at h'
  have hw' : widthClass (eg.fmt :: ex.fmt :: ((maskUnits pmask 4).map sbm).map (·.fmt)) = some w := by
    rw [List.map_map]; exact hw
  simp only [twfIssue, hg, hx]
  rw [if_neg hbad, allOk_map (g := sbm) fun p hp => (ht p hp).1]
  simp only [hw']
  rw [allOk_map (g := fun p => (tg p, tx p))]
  · simp only [List.map_map, Function.comp_def, hv, maskLines_nil, zip_map_self, List.zip_map', List.foldl_map]
    exact ⟨_, _, rfl⟩
  · intro p hp
    obtain ⟨-, hs, hs', htg, htg', hoa, hob⟩ := ht p hp
    simp only [hs, hs', htg, htg', hoa, hob]

end

/-- Settles O26: OPA and TWF queue the rows of every unit and pair on the counted package. -/
theorem outerProductsQueueTheirRows : Obligations.OuterProductsQueueTheirRows := by
  refine ⟨?_, ?_⟩
  · intro iss terr umask adesc bdesc rowsm1 bt acm cmp gp s ea eb ta tb w d c us D hr hmask ha hb hacm hmxa hmxb hw ht hbanks
    obtain ⟨r, hcounted⟩ := casCounted_eq d iss terr
    obtain ⟨v, hv, hmem, hleaves⟩ := rvrTimed_clean (rvrTimed_regs r hbanks)
    have hcas : v.cas = d.cas := hleaves.1 .cas (by simp)
    obtain ⟨o, win, hissue⟩ := opaIssue_eq (d := d.withRegs r) (c := c) (v := v) (umask := umask.toNat) (adesc := adesc.toNat)
      (bdesc := bdesc.toNat) (rows1 := rowsm1.toNat) (bt := bt.toNat) (acm := acm.toNat) (cmp := cmp.toNat) (gp := gp.toNat)
      (ta := ta) (tb := tb) (w := w) ha hb (toNat_ne_three hacm) hmxa hmxb hw (fun u hu => by
        obtain ⟨hs, htg, hoa, hob⟩ := ht u hu
        exact ⟨hs, bit_beq cmp ▸ htg, hoa, hob⟩) (bit_beq cmp ▸ hv)
    have hop : casOp (d.withRegs r) c (.opa umask adesc bdesc rowsm1 bt acm cmp gp 0#1) = _ := (if_neg hmask).trans hissue
    rw [← hcounted] at hop
    have heq := casIssue_ready (op := .opa umask adesc bdesc rowsm1 bt acm cmp gp 0#1) rfl hr
    rw [hop] at heq
    obtain ⟨hon, hrows⟩ := rowsQueued (opaUnit_eq (v := v) (c := c) (bt := bt.toNat) (acm := acm.toNat) (w := w) (ea := ea)
      (eb := eb) (ta := ta) (tb := tb) (cmp.toNat == 1) (gp.toNat == 1)
      (((rowsm1.toNat + 1) * rate2 w false (cmp.toNat == 1) + 1) / 2) (rowsm1.toNat + 1)) v us c o win
    refine ⟨_, next_congr rfl heq, fun u x hu hx => ?_, fun a => ?_, ?_⟩
    · obtain ⟨q, hq, huid, hrow, hbt, hacm', hdue, hqv⟩ := hrows u hu ⟨x, hx⟩
      refine ⟨q, hq, huid, hrow, hbt, hacm', ?_, ?_⟩
      · rw [hdue, bit_beq]
        rfl
      · rw [hqv, bit_beq, hmem]
        rfl
    · exact (hon.mem a).trans (congrArg (memGet · a) hmem)
    · exact hon.elems.trans (congrArg Cas.elems hcas)
  · intro iss terr pmask gdesc xdesc rowsm1 buf ebt eacm obt oacm cmp s eg ex tg tx sbm w d c ps D hr hmask hg hx heacm hoacm
      hmxg htrg hmxx ht hw hbanks
    obtain ⟨r, hcounted⟩ := casCounted_eq d iss terr
    obtain ⟨v, hv, hmem, hleaves⟩ := rvrTimed_clean (rvrTimed_regs r hbanks)
    have hcas : v.cas = d.cas := hleaves.1 .cas (by simp)
    obtain ⟨o, win, hissue⟩ := twfIssue_eq (d := d.withRegs r) (c := c) (v := v) (pmask := pmask.toNat) (gdesc := gdesc.toNat)
      (xdesc := xdesc.toNat) (rows1 := rowsm1.toNat) (buf := buf.toNat) (ebt := ebt.toNat) (eacm := eacm.toNat)
      (obt := obt.toNat) (oacm := oacm.toNat) (cmp := cmp.toNat) (tg := tg) (tx := tx) (sbm := sbm) (w := w) hg hx
      (toNat_ne_three heacm) (toNat_ne_three hoacm) hmxg htrg hmxx (fun p hp => by
        obtain ⟨hb, hs, hs', htg, htg', hoa, hob⟩ := ht p hp
        exact ⟨hb, hs, hs', bit_beq cmp ▸ htg, bit_beq cmp ▸ htg', hoa, hob⟩) hw (bit_beq cmp ▸ hv)
    have hop : casOp (d.withRegs r) c (.twf pmask gdesc xdesc rowsm1 buf ebt eacm obt oacm cmp) = _ :=
      (if_neg hmask).trans hissue
    rw [← hcounted] at hop
    have heq := casIssue_ready (op := .twf pmask gdesc xdesc rowsm1 buf ebt eacm obt oacm cmp) rfl hr
    rw [hop] at heq
    have hpair := twfPair_eq (v := v) (c := c) (ebt := ebt.toNat) (eacm := eacm.toNat) (obt := obt.toNat) (oacm := oacm.toNat)
      (buf := buf.toNat) (w := w) (eg := eg) (ex := ex) (tg := tg) (tx := tx) (sbm := sbm) (cmp.toNat == 1)
      (((rowsm1.toNat + 1) * rate2 w false (cmp.toNat == 1) + 1) / 2) (rowsm1.toNat + 1)
    obtain ⟨hon, hinner⟩ := rowsQueued (fun d p => ⟨(hpair d p).1, (hpair d p).2.1⟩) v ps c o win
    obtain ⟨-, houter⟩ := rowsQueued (fun d p => ⟨(hpair d p).1, (hpair d p).2.2⟩) v ps c o win
    refine ⟨_, next_congr rfl heq, fun p x hp hx => ?_, fun p x hp hx => ?_, fun a => ?_, ?_⟩
    · obtain ⟨q, hq, vals, huid, hrow, hbt, hacm', hdue, -⟩ := hinner p hp ⟨x, by omega⟩
      exact ⟨q, hq, huid, hrow, hbt, hacm', by rw [hdue, bit_beq]; rfl⟩
    · obtain ⟨q, hq, vals, huid, hrow, hbt, hacm', hdue, -⟩ := houter p hp ⟨x, hx⟩
      exact ⟨q, hq, huid, hrow, hbt, hacm', by rw [hdue, bit_beq]; rfl⟩
    · exact (hon.mem a).trans (congrArg (memGet · a) hmem)
    · exact hon.elems.trans (congrArg Cas.elems hcas)

end Sys2Proof.Machine
end

section
/-! PROOFS. BIN and BOUT: rows between the basin and the reservoir (04, R153 to R156). -/

namespace Sys2Proof.Machine

/-! ### BIN -/

section
variable {d v : Dev} {c : CasCtx} {e : TileEntry} {umask desc bt add : Nat} {tile : Nat → TileAt}

/-- A row of a tile on its way into the basin. -/
def binRow (m : List Host.Cell) (c : CasCtx) (bt add : Nat) (p : Nat × TileAt) (d : Dev) (x : Nat) : RowApp :=
  { due := c.t + 64 + x, uid := c.uid p.1, bt := bt, row := x,
    vals := ((List.range 128).map fun y => operandElem m p.2 x y).map fun v => plain (a40 v),
    acm := if (ladderOf d (c.uid p.1)).isSome then 2 else add, comp := false, pdt := [], gp := false,
    serial := sget 0 (c.uid p.1) d.cas.bctls, step := opStep d }

/-- The events of a row reported, and the row queued. -/
def binStep (m : List Host.Cell) (c : CasCtx) (bt add : Nat) (p : Nat × TileAt) (d : Dev) (x : Nat) : Dev :=
  let nf := (((List.range 128).map fun y => operandElem m p.2 x y).filter fun v => !v.isFinite).length
  let d := reportEvents d c.h false (opStep d) srcCAS c.word ⟨0, nf, nf⟩
  d.withCas { d.cas with rows := d.cas.rows ++ [binRow m c bt add p d x] }

/-- All rows of a tile. -/
def binUnit (m : List Host.Cell) (c : CasCtx) (bt add : Nat) (d : Dev) (p : Nat × TileAt) : Dev :=
  (List.range 128).foldl (binStep m c bt add p) d

theorem binIssue_eq (he : casEntry d c desc = .ok e) (hint : isIntFmt e.fmt = false) (hmx : isMx e.fmt = true → e.tr = false)
    (ht : ∀ u ∈ maskUnits umask 8, binTest d c e bt u = .ok (tile u))
    (hv : rvrTimed d c.T (basinAcc c.T (c.t + 64) ((maskUnits umask 8).map tile)) = (v, [])) :
    binIssue d c umask desc bt add = .ok (casBusy (((maskUnits umask 8).map fun u => (u, tile u)).foldl
      (binUnit v.mem c bt add) v) c.h (c.t + 192)) := by
  have hbad : ¬ (isIntFmt e.fmt = true ∨ (isMx e.fmt = true ∧ e.tr = true)) := by
    rintro (h | ⟨h, h'⟩)
    · simp [hint] at h
    · simp [hmx h] at h'
  simp only [binIssue, he]
  rw [if_neg hbad, allOk_map ht]
  simp only [hv, maskLines_nil, zip_map_self]
  rfl

/-- The rows queued and the ladders as they were. -/
structure BinOn (d e : Dev) : Prop where
  rows : RowsOn d e
  ladders : e.cas.ladders = d.cas.ladders

theorem BinOn.trans {d e f : Dev} (h : BinOn d e) (g : BinOn e f) : BinOn d f :=
  ⟨h.rows.trans g.rows, g.ladders.trans h.ladders⟩

/-- The row as BIN queues it for unit and tile `p`. -/
def BinRowIs (m : List Host.Cell) (c : CasCtx) (bt add : Nat) (ladders : List (Nat × Ladder)) (p : Nat × TileAt) (x : Nat)
    (r : RowApp) : Prop :=
  RowIs r (c.uid p.1) x bt (if (sfind (c.uid p.1) ladders).isSome then 2 else add) (c.t + 64 + x)
    ((List.range 128).map fun y => plain (a40 (operandElem m p.2 x y)))

theorem binStep_eq (m : List Host.Cell) (p : Nat × TileAt) (d : Dev) (x : Nat) : BinOn d (binStep m c bt add p d x) ∧
    ∃ r ∈ (binStep m c bt add p d x).cas.rows, BinRowIs m c bt add d.cas.ladders p x r := by
  unfold binStep
  extract_lets nf d1
  obtain ⟨hrep, hcas⟩ := RowsOn.of_side (leaves_reportEvents (d := d) leaves_self c.h false (opStep d) srcCAS c.word
    ⟨0, nf, nf⟩)
  have hadd : BinOn d1 (d1.withCas { d1.cas with rows := d1.cas.rows ++ [binRow m c bt add p d1 x] }) :=
    ⟨⟨fun _ => rfl, rfl, List.subset_append_left _ _⟩, rfl⟩
  have hfirst : BinOn d d1 := ⟨hrep, congrArg Cas.ladders hcas⟩
  refine ⟨hfirst.trans hadd, binRow m c bt add p d1 x, List.mem_append_right _ (List.mem_singleton.2 rfl), ?_⟩
  refine ⟨rfl, rfl, rfl, ?_, rfl, ?_⟩
  · rw [← hfirst.ladders]
    rfl
  · rw [binRow, List.map_map]
    rfl

/-- Rows that each step of a fold queues are there at its end. -/
theorem binOn_foldl {β ι : Type} {g : Dev → β → Dev} {is : List (Nat × Ladder) → β → ι → RowApp → Prop}
    (hg : ∀ d b, BinOn d (g d b) ∧ ∀ i, ∃ r ∈ (g d b).cas.rows, is d.cas.ladders b i r) (l : List β) (d : Dev) :
    BinOn d (l.foldl g d) ∧ ∀ b ∈ l, ∀ i, ∃ r ∈ (l.foldl g d).cas.rows, is d.cas.ladders b i r :=
  foldl_each (g := g) (I := BinOn d) (P := fun b e => ∀ i, ∃ r ∈ e.cas.rows, is d.cas.ladders b i r) l (d := d)
    ⟨RowsOn.refl d, rfl⟩
    (fun e b _ h => by
      obtain ⟨hon, hrow⟩ := hg e b
      rw [h.ladders] at hrow
      exact ⟨h.trans hon, hrow⟩)
    (fun e b _ _ _ _ _ h i => by
      obtain ⟨r, hr, his⟩ := h i
      exact ⟨r, (hg e b).1.rows.rows hr, his⟩)

/-- All rows of a tile queued. -/
theorem binUnit_eq (m : List Host.Cell) (d : Dev) (p : Nat × TileAt) : BinOn d (binUnit m c bt add d p) ∧
    ∀ x : Fin 128, ∃ r ∈ (binUnit m c bt add d p).cas.rows, BinRowIs m c bt add d.cas.ladders p x r := by
  obtain ⟨hon, hall⟩ := binOn_foldl (ι := Unit) (g := binStep m c bt add p)
    (is := fun l x _ r => BinRowIs m c bt add l p x r)
    (fun d x => ⟨(binStep_eq m p d x).1, fun _ => (binStep_eq m p d x).2⟩) (List.range 128) d
  rw [binUnit]
  exact ⟨hon, fun x => hall x (List.mem_range.2 x.isLt) ()⟩

end

/-! ### BOUT -/

theorem poisonFor_mem (d : Dev) (h s src ev word : Nat) (next : Bool) : (poisonFor d h s src ev word next).mem = d.mem := by
  have hmem : ∀ (e : Dev) (c : Prop) [Decidable c] (a : Nat) (f g f' : Fld) (v w v' : Nat),
      (if c then fset (fset (fset e a f v) a g w) a f' v' else fset e a f v).mem = e.mem := by
    intro e c _ a f g f' v w v'
    split
    · rw [fset_mem, fset_mem, fset_mem]
    · rw [fset_mem]
  simp only [poisonFor]
  rw [apply_ite Dev.mem, raise_mem, fset_mem, withMach_mem, count_mem, hmem, ite_self]

theorem poisonEvent_mem (d : Dev) (h s src ev word : Nat) : (poisonEvent d h s src ev word).mem = d.mem := by
  simp only [poisonEvent]
  split
  · exact poisonFor_mem _ _ _ _ _ _ _
  · rw [poisonFor_mem, raise_mem, fset_mem]

theorem reportEvents_mem (d : Dev) (h : Nat) (gp : Bool) (s src word : Nat) (e : Events) :
    (reportEvents d h gp s src word e).mem = d.mem := by
  simp only [reportEvents]
  split
  · split
    · rw [poisonEvent_mem]; simp
    · split
      · rw [poisonEvent_mem]; simp
      · simp
  · simp

theorem nextRow_none {rs : List RowApp} {p : RowApp → Bool} (h : ∀ r ∈ rs, p r = false) : nextRow rs p = none := by
  have hnone : rs.zipIdx.filter (fun e => p e.1) = [] := by
    rw [List.filter_eq_nil_iff]
    intro e he
    simp [h e.1 (List.fst_mem_of_mem_zipIdx he)]
  simp [nextRow, hnone]

theorem settleRows_none {p : RowApp → Bool} {n : Nat} {d : Dev} (h : ∀ r ∈ d.cas.rows, p r = false) : settleRows p n d = d := by
  cases n with
  | zero => rfl
  | succ n => simp [settleRows, nextRow_none h]

section
variable {d v : Dev} {c : CasCtx} {e : TileEntry} {desc bt rnd nfm gp : Nat} {t : TileAt}

theorem keepLines_nil (m n : List Host.Cell) (T : Nat) : keepLines m n T [] = n := rfl

theorem withMem_self (d : Dev) : d.withMem d.mem = d := rfl

/-- A row of the basin stored where the tile has it. -/
def boutStep (c : CasCtx) (e : TileEntry) (bt rnd nfm gp u : Nat) (t : TileAt) (d : Dev) (x : Nat) : Dev :=
  let d := settleRow d (c.uid u) x (c.t + 24 + x)
  let r := convRow e.fmt (rndOf rnd) (nfm == 1) (basinRow d (4 * c.uid u + bt) x)
  let d := d.withMem (storeRow d.mem t x r.1 r.2.1)
  reportEvents d c.h (gp == 1) (opStep d) srcCAS c.word r.2.2

theorem boutIssue_eq {umask u : Nat} (hu : maskUnits umask 8 = [u]) (he : casEntry d c desc = .ok e) (hrnd : rnd < 2)
    (hint : isIntFmt e.fmt = false) (hmx : isMx e.fmt = true → e.tr = false) (ht : casOperand d c e e.base u u = .ok t)
    (hv : rvrTimed d c.T (basinAcc c.T (c.t + 24) [t]) = (v, [])) :
    ∃ w, boutIssue d c umask desc bt rnd nfm gp = .ok (casBusy w c.h (c.t + 192)) ∧
      w = (List.range 128).foldl (boutStep c e bt rnd nfm gp u t) v := by
  have hbad : ¬ (rnd ≥ 2 ∨ isIntFmt e.fmt = true ∨ (isMx e.fmt = true ∧ e.tr = true)) := by
    rintro (h | h | ⟨h, h'⟩)
    · omega
    · simp [hint] at h
    · simp [hmx h] at h'
  refine ⟨_, ?_, rfl⟩
  simp only [boutIssue, he]
  rw [if_neg hbad, hu, allOk_map (g := fun _ => t)]
  · simp only [List.map_cons, List.map_nil, hv, List.zip_cons_cons, List.zip_nil_right, List.foldl_cons, List.foldl_nil,
      keepLines_nil, withMem_self]
    rfl
  · intro w hw
    rw [List.mem_singleton.1 hw]
    exact ht

theorem boutStep_eq {u : Nat} (d : Dev) (x : Nat) (hrows : ∀ r ∈ d.cas.rows, r.uid ≠ c.uid u) :
    (boutStep c e bt rnd nfm gp u t d x).mem = (storeRow d.mem t x
        (convRow e.fmt (rndOf rnd) (nfm == 1) (basinRow d (4 * c.uid u + bt) x)).1
        (convRow e.fmt (rndOf rnd) (nfm == 1) (basinRow d (4 * c.uid u + bt) x)).2.1) ∧
      (boutStep c e bt rnd nfm gp u t d x).cas = d.cas ∧ (boutStep c e bt rnd nfm gp u t d x).jet = d.jet := by
  have hsettled : settleRow d (c.uid u) x (c.t + 24 + x) = d := settleRows_none fun r hr => by simp [hrows r hr]
  simp only [boutStep, hsettled]
  refine ⟨reportEvents_mem _ _ _ _ _ _ _, ?_, ?_⟩
  · exact (leaves_reportEvents leaves_self _ _ _ _ _ _).1 .cas (by decide)
  · exact (leaves_reportEvents leaves_self _ _ _ _ _ _).1 .jet (by decide)

theorem maskUnits_one {u : Nat} (hu : u < 8) : maskUnits (BitVec.ofNat 8 (2 ^ u)).toNat 8 = [u] ∧ BitVec.ofNat 8 (2 ^ u) ≠ 0 := by
  revert u
  decide

/-- With no row of the unit on its way, the rows of its tile are stored in order, and nothing else changes in memory. -/
theorem boutSteps_eq {u : Nat} (xs : List Nat) (d : Dev) (hrows : ∀ r ∈ d.cas.rows, r.uid ≠ c.uid u) :
    (xs.foldl (boutStep c e bt rnd nfm gp u t) d).mem = xs.foldl (fun m x =>
        let r := convRow e.fmt (rndOf rnd) (nfm == 1) (basinRow d (4 * c.uid u + bt) x)
        storeRow m t x r.1 r.2.1) d.mem ∧
      (xs.foldl (boutStep c e bt rnd nfm gp u t) d).cas = d.cas ∧ (xs.foldl (boutStep c e bt rnd nfm gp u t) d).jet = d.jet := by
  induction xs generalizing d with
  | nil => exact ⟨rfl, rfl, rfl⟩
  | cons x xs ih =>
    obtain ⟨hmem, hcas, hjet⟩ := boutStep_eq (c := c) (e := e) (bt := bt) (rnd := rnd) (nfm := nfm) (gp := gp) (t := t) d x hrows
    obtain ⟨ihmem, ihcas, ihjet⟩ := ih _ (hcas ▸ hrows)
    have hrow : ∀ k y, basinRow (boutStep c e bt rnd nfm gp u t d x) k y = basinRow d k y := fun k y => by
      rw [basinRow, hcas, basinRow]
    simp only [List.foldl_cons]
    refine ⟨?_, ihcas.trans hcas, ihjet.trans hjet⟩
    rw [ihmem, hmem]
    simp only [hrow]

end

/-- Settles O27: BIN queues every row of its tiles; BOUT on one unit finds no row to settle and stores the tile's rows. -/
theorem basinTransfersMoveRows : Obligations.BasinTransfersMoveRows := by
  intro iss terr desc bt s e tile d
  refine ⟨?_, ?_⟩
  · intro umask add c us hr hmask he hint hmx ht hbanks
    obtain ⟨r, hcounted⟩ := casCounted_eq d iss terr
    obtain ⟨v, hv, hmem, hleaves⟩ := rvrTimed_clean (rvrTimed_regs r hbanks)
    have hcas : v.cas = d.cas := hleaves.1 .cas (by simp)
    have hissue := binIssue_eq (d := d.withRegs r) (c := c) (v := v) (umask := umask.toNat) (desc := desc.toNat)
      (bt := bt.toNat) (add := add.toNat) (tile := tile) he hint hmx ht hv
    have hop : casOp (d.withRegs r) c (.bin umask desc bt add) = _ := (if_neg hmask).trans hissue
    rw [← hcounted] at hop
    have heq := casIssue_ready (op := .bin umask desc bt add) rfl hr
    rw [hop] at heq
    obtain ⟨hon, hrows⟩ := binOn_foldl (is := fun l p (x : Fin 128) r => BinRowIs v.mem c bt.toNat add.toNat l p x r)
      (binUnit_eq (c := c) (bt := bt.toNat) (add := add.toNat) v.mem) (us.map fun u => (u, tile u)) v
    refine ⟨_, next_congr rfl heq, fun u x hu hx => ?_, fun a => ?_, ?_⟩
    · obtain ⟨q, hq, huid, hrow, hbt, hacm, hdue, hvals⟩ := hrows _ (List.mem_map_of_mem hu) ⟨x, hx⟩
      refine ⟨q, hq, huid, hrow, hbt, hdue, ?_, ?_⟩
      · rw [hacm, hcas]
        rfl
      · rw [hvals, hmem]
        rfl
    · exact (hon.rows.mem a).trans (congrArg (memGet · a) hmem)
    · exact hon.rows.elems.trans (congrArg Cas.elems hcas)
  · intro u rnd nfm gp hu c row hr he hrnd hint hmx ht hrows hbanks
    obtain ⟨r, hcounted⟩ := casCounted_eq d iss terr
    obtain ⟨v, hv, hmem, hleaves⟩ := rvrTimed_clean (rvrTimed_regs r hbanks)
    have hcas : v.cas = d.cas := hleaves.1 .cas (by simp)
    have hjet : v.jet = d.jet := hleaves.1 .jet (by simp)
    obtain ⟨hone, hne⟩ := maskUnits_one hu
    obtain ⟨w, hissue, hw⟩ := boutIssue_eq (d := d.withRegs r) (c := c) (v := v) (desc := desc.toNat)
      (bt := bt.toNat) (rnd := rnd.toNat) (nfm := nfm.toNat) (gp := gp.toNat) hone he hrnd hint hmx ht hv
    have hop : casOp (d.withRegs r) c (.bout (BitVec.ofNat 8 (2 ^ u)) desc bt rnd nfm gp) = _ := (if_neg hne).trans hissue
    rw [← hcounted] at hop
    have heq := casIssue_ready (op := .bout (BitVec.ofNat 8 (2 ^ u)) desc bt rnd nfm gp) rfl hr
    rw [hop] at heq
    obtain ⟨hwmem, hwcas, hwjet⟩ := boutSteps_eq (c := c) (e := e) (bt := bt.toNat) (rnd := rnd.toNat) (nfm := nfm.toNat)
      (gp := gp.toNat) (t := tile u) (u := u) (List.range 128) v (fun q hq => by
        rw [hcas] at hq
        simpa using List.all_eq_true.1 hrows q hq)
    rw [← hw] at hwmem hwcas hwjet
    refine ⟨_, next_congr rfl heq, ?_, ?_, hwjet.trans hjet⟩
    · refine hwmem.trans ?_
      have hrow : ∀ k x, basinRow v k x = basinRow d k x := fun k x => by rw [basinRow, hcas, basinRow]
      rw [hmem, bit_beq]
      simp only [hrow]
      rfl
    · exact (congrArg Cas.elems hwcas).trans (congrArg Cas.elems hcas)

end Sys2Proof.Machine
end

section
/-! PROOFS. ROOT: its start and its completion (04, R157 to R162). -/

namespace Sys2Proof.Machine

/-! ### The start -/

section
variable {d : Dev} {c : CasCtx} {e : TileEntry} {desc nt pc nit gp : Nat}

/-- The package with the ROOT noted, its events reported. -/
def rootBegun (d : Dev) (c : CasCtx) (run : RootRun) (gp : Bool) (nin t : Nat) : Dev :=
  let d : Dev := d.withCas { d.cas with roots := sput c.T run d.cas.roots }
  casBusy (reportEvents d c.h gp (opStep d) srcCAS c.word ⟨0, nin, 0⟩) c.h t

/-- The run that a ROOT notes: its four addresses and its two parameters are read at `a`. -/
def rootRunOf (d : Dev) (c : CasCtx) (a nt pc nit gp : Nat) : RootRun :=
  { issued := c.t, ends := c.t + rootTime nt pc nit, op := BitVec.ofNat 48 c.word, spc := c.spc,
    strand := strandCode c.s, aaddr := bits (memNat d.mem a 8) 41 0, oaddr := bits (memNat d.mem (a + 8) 8) 41 0,
    saddr := bits (memNat d.mem (a + 24) 8) 41 0, delta := memNat d.mem (a + 32) 4, tol := memNat d.mem (a + 36) 4,
    nt := nt, pc := pc, nit := nit, gp := gp == 1, step := opStep d,
    input := (List.range (128 * (nt + 1) * (128 * (nt + 1)))).map
      (fun i => memNat d.mem (bits (memNat d.mem a 8) 41 0 + 4 * i) 4) }

theorem rootRunOf_reads {a nt pc nit gp : Nat} : let r := rootRunOf d c a nt pc nit gp
    let ptr := fun (k : Nat) => bits (memNat d.mem (a + 8 * k) 8) 41 0
    r.issued = c.t ∧ r.ends = c.t + rootTime nt pc nit ∧ r.aaddr = ptr 0 ∧ r.oaddr = ptr 1 ∧ r.saddr = ptr 3 ∧
      r.input = (List.range (128 * (nt + 1) * (128 * (nt + 1)))).map (fun i => memNat d.mem (ptr 0 + 4 * i) 4) :=
  ⟨rfl, rfl, rfl, rfl, rfl, rfl⟩

theorem leaves_casBusy (h t : Nat) : Leaves [.cas] anyReg d (casBusy d h t) := by
  unfold casBusy
  simp

theorem casBusy_cas (h t : Nat) : (casBusy d h t).cas.roots = d.cas.roots ∧
    (casBusy d h t).cas.elems = d.cas.elems := by
  unfold casBusy
  exact ⟨rfl, rfl⟩

theorem rootBegun_holds (run : RootRun) (g : Bool) (nin t : Nat) :
    sfind c.T (rootBegun d c run g nin t).cas.roots = some run ∧
    (rootBegun d c run g nin t).cas.elems = d.cas.elems ∧
    ∀ a, memGet (rootBegun d c run g nin t).mem a = memGet d.mem a := by
  unfold rootBegun
  extract_lets cas d1
  have hrep := leaves_reportEvents (d := d1) leaves_self c.h g (opStep d1) srcCAS c.word ⟨0, nin, 0⟩
  obtain ⟨hroots, helems⟩ := casBusy_cas (d := reportEvents d1 c.h g (opStep d1) srcCAS c.word ⟨0, nin, 0⟩) c.h t
  have hcas := hrep.1 .cas (by decide)
  refine ⟨?_, ?_, fun a => ?_⟩
  · rw [hroots, show (reportEvents d1 c.h g (opStep d1) srcCAS c.word ⟨0, nin, 0⟩).cas = d1.cas from hcas]
    exact sfind_sput_self ..
  · rw [helems, show (reportEvents d1 c.h g (opStep d1) srcCAS c.word ⟨0, nin, 0⟩).cas = d1.cas from hcas]
    rfl
  · exact (((leaves_casBusy c.h t).1 .mem (by decide) a).trans (hrep.1 .mem (by decide) a))

theorem rootIssue_starts (he : casEntry d c desc = .ok e) (hpc : pc ≠ 3)
    (halign : (tileAt e e.base (tileM d c.s e 0)).data % 64 = 0)
    (hres : inResAt c.T (tileAt e e.base (tileM d c.s e 0)).data 64 = true)
    (hptr : ∀ k, k < 4 → inRes c.T (bits (memNat d.mem ((tileAt e e.base (tileM d c.s e 0)).data.toNat + 8 * k) 8) 41 0)
      (if k = 2 then 12 * (128 * (nt + 1)) * (128 * (nt + 1)) else if k = 3 then 32
        else 4 * (128 * (nt + 1)) * (128 * (nt + 1))) = true)
    (hclosed : ∀ k, k < 32 → tileState d (4 * c.uid 0 + k) = 0) :
    ∃ nin, rootIssue d c 255 desc nt pc nit gp =
      .ok (rootBegun d c (rootRunOf d c (tileAt e e.base (tileM d c.s e 0)).data.toNat nt pc nit gp) (gp == 1) nin
        (c.t + rootTime nt pc nit)) := by
  have hany : (List.range 32).any (fun k => tileState d (4 * c.uid 0 + k) != 0) = false := by
    rw [List.any_eq_false]
    intro k hk
    simp [hclosed k (List.mem_range.1 hk)]
  simp only [rootIssue, he]
  rw [if_neg (by simp [hpc])]
  rw [if_neg (by simp [halign, hres])]
  rw [if_neg (by simpa using hptr 0 (by decide)), if_neg (by simpa using hptr 1 (by decide)),
    if_neg (by simpa using hptr 2 (by decide)), if_neg (by simpa using hptr 3 (by decide)), if_neg (by simp [hany])]
  exact ⟨_, rfl⟩

end

/-! ### The completion -/

theorem memNat_memWrite_append (m : List Host.Cell) (a : Nat) (xs ys : List Byte) :
    memNat (memWrite m a (xs ++ ys)) a xs.length = leNat xs := by
  have hread : ∀ (zs : List Byte) (b : Nat), (∀ i (h : i < zs.length), memGet (memWrite m a (xs ++ ys)) (b + i) = zs[i]) →
      memRead (memWrite m a (xs ++ ys)) b zs.length = zs := by
    intro zs
    induction zs with
    | nil => exact fun _ _ => rfl
    | cons z zs ih =>
      intro b h
      have h0 : memGet (memWrite m a (xs ++ ys)) b = z := h 0 (by simp)
      have hr := ih (b + 1) fun i hi => by
        have := h (i + 1) (by simpa using hi)
        rw [show b + 1 + i = b + (i + 1) by omega, this, List.getElem_cons_succ]
      simp only [List.length_cons, memRead, h0, hr]
  rw [memNat, hread xs a fun i hi => by
    rw [memGet_memWrite_in _ _ _ _ (by rw [List.length_append]; omega), List.getElem_append_left hi]]

/-- The status word of a completion: its reason stands in bits 11:8. -/
theorem rootStatus_reason (valid result reason iters sing : Nat) (hv : valid < 16) (hr : result < 16) :
    bits ((valid + result <<< 4 + reason <<< 8 + iters <<< 16 + sing <<< 32) % 256 ^ 8) 11 8 = reason % 16 := by
  simp only [bits, Nat.shiftLeft_eq, Nat.shiftRight_eq_div_pow]
  omega

/-- What a terrace holds after its ROOT: nothing of its own tiles, ladders and buffers. -/
def terraceCleared (cas : Cas) (T : Nat) : Cas :=
  let u0 := 8 * T
  { cas with
    elems := cas.elems.filter (fun e => decide (e.1 / 16384 / 4 < u0) || decide (u0 + 8 ≤ e.1 / 16384 / 4)),
    tstate := cas.tstate.filter (fun e => decide (e.1 / 4 < u0) || decide (u0 + 8 ≤ e.1 / 4)),
    ladders := cas.ladders.filter (fun e => decide (e.1 < u0) || decide (u0 + 8 ≤ e.1)),
    sb := cas.sb.filter (fun e => decide (e.1 / 2 < u0) || decide (u0 + 8 ≤ e.1 / 2)),
    sbElems := cas.sbElems.filter (fun e => decide (e.1 / 16384 / 2 < u0) || decide (u0 + 8 ≤ e.1 / 16384 / 2)),
    roots := sdel T cas.roots }

section
variable (cas : Cas) {T k u b x y : Nat}

theorem terraceCleared_tstate_in (hk : k < 32) : sget 0 (32 * T + k) (terraceCleared cas T).tstate = 0 := by
  refine (sget_filter 0 (fun i => decide (i / 4 < 8 * T) || decide (8 * T + 8 ≤ i / 4)) _ _).trans (if_neg ?_)
  simp only [Bool.or_eq_true, decide_eq_true_eq]
  omega

theorem terraceCleared_tstate_out (hk : k / 32 ≠ T) : sget 0 k (terraceCleared cas T).tstate = sget 0 k cas.tstate := by
  refine (sget_filter 0 (fun i => decide (i / 4 < 8 * T) || decide (8 * T + 8 ≤ i / 4)) _ _).trans (if_pos ?_)
  simp only [Bool.or_eq_true, decide_eq_true_eq]
  omega

theorem terraceCleared_elems (hk : k < 32) (hx : x < 128) (hy : y < 128) :
    sget 0 (elemKey (32 * T + k) x y) (terraceCleared cas T).elems = 0 := by
  have htile : elemKey (32 * T + k) x y / 16384 = 32 * T + k := by
    rw [elemKey]
    omega
  refine (sget_filter 0 (fun i => decide (i / 16384 / 4 < 8 * T) || decide (8 * T + 8 ≤ i / 16384 / 4)) _ _).trans
    (if_neg ?_)
  simp only [htile, Bool.or_eq_true, decide_eq_true_eq]
  omega

theorem terraceCleared_ladders (hu : u < 8) : sfind (8 * T + u) (terraceCleared cas T).ladders = none := by
  refine (sfind_filter (fun i => decide (i < 8 * T) || decide (8 * T + 8 ≤ i)) _ _).trans (if_neg ?_)
  simp only [Bool.or_eq_true, decide_eq_true_eq]
  omega

theorem terraceCleared_sb (hu : u < 8) (hb : b < 2) : sfind (2 * (8 * T + u) + b) (terraceCleared cas T).sb = none := by
  refine (sfind_filter (fun i => decide (i / 2 < 8 * T) || decide (8 * T + 8 ≤ i / 2)) _ _).trans (if_neg ?_)
  simp only [Bool.or_eq_true, decide_eq_true_eq]
  omega

end

theorem casRaise_keeps (d : Dev) (c : CasCtx) (f : CasFail) : (casRaise d c f).cas = d.cas ∧
    (casRaise d c f).jet = d.jet ∧ (casRaise d c f).mem = d.mem ∧ (casRaise d c f).now = d.now := by
  unfold casRaise
  refine ⟨?_, ?_, ?_, ?_⟩
  · rw [raise_cas, fset_cas, fset_cas, fset_cas]
  · rw [raise_jet, fset_jet, fset_jet, fset_jet]
  · rw [raise_mem, fset_mem, fset_mem, fset_mem]
  · rw [raise_now, fset_now, fset_now, fset_now]

/-- The status word that a completion stores (R162). -/
def rootStatus (valid result reason iters sing : Nat) : Nat :=
  valid + result <<< 4 + reason <<< 8 + iters <<< 16 + sing <<< 32

/-- The package with the terrace's ROOT ended and its results stored. -/
def rootEnded (d : Dev) (T : Nat) (m : List Host.Cell) : Dev := (d.withMem m).withCas (terraceCleared d.cas T)

/-- What reports a ROOT that gave no result. -/
def rootReported (d : Dev) (T : Nat) (r : RootRun) (reason iters : Nat) : Dev :=
  if reason = 0 then d
  else casRaise (count d (T / 8) 0x103 (T % 8) 1 false) ⟨r.issued, T / 8, .main, r.spc, T % 8, r.op.toNat⟩
    (0x4A, 0, reason + iters <<< 4)

theorem rootReported_keeps (d : Dev) (T : Nat) (r : RootRun) (reason iters : Nat) :
    (rootReported d T r reason iters).cas = d.cas ∧ (rootReported d T r reason iters).jet = d.jet ∧
      (rootReported d T r reason iters).mem = d.mem ∧ (rootReported d T r reason iters).now = d.now := by
  unfold rootReported
  split
  · exact ⟨rfl, rfl, rfl, rfl⟩
  · obtain ⟨hcas, hjet, hmem, hnow⟩ := casRaise_keeps (count d (T / 8) 0x103 (T % 8) 1 false)
      ⟨r.issued, T / 8, .main, r.spc, T % 8, r.op.toNat⟩ (0x4A, 0, reason + iters <<< 4)
    exact ⟨hcas.trans (count_cas ..), hjet.trans (count_jet ..), hmem.trans (count_mem ..), hnow.trans (count_now ..)⟩

theorem rootComplete_stores {d : Dev} {T : Nat} {r : RootRun} (h : sfind T d.cas.roots = some r) :
    ∃ valid result iters sing m rest, valid < 16 ∧ result < 16 ∧
      rootComplete d T = rootReported (rootEnded (tick d r.ends) T
        (memWrite m r.saddr (leBytes 8 (rootStatus valid result (rootCompute r).1 iters sing) ++ rest)))
          T r (rootCompute r).1 iters := by
  rcases hc : rootCompute r with ⟨reason, x, resid, iters, sv⟩
  rw [rootComplete, h]
  simp only [hc, List.append_assoc]
  cases x with
  | some x => exact ⟨1, 0, iters, _, _, _, by decide, by decide, rfl⟩
  | none =>
    by_cases hv : bit (memNat (tick d r.ends).mem r.saddr 8) 0 = true
    · simp only [if_pos hv]
      exact ⟨1, 1, iters, _, _, _, by decide, by decide, rfl⟩
    · simp only [if_neg hv]
      exact ⟨1, 2, iters, _, _, _, by decide, by decide, rfl⟩

theorem rootComplete_eq {d : Dev} {T : Nat} {r : RootRun} (h : sfind T d.cas.roots = some r) :
    bits (memNat (rootComplete d T).mem r.saddr 8) 11 8 = (rootCompute r).1 % 16 ∧
      (rootComplete d T).cas = terraceCleared d.cas T ∧
      (rootComplete d T).jet = d.jet ∧ (rootComplete d T).now = max d.now r.ends := by
  obtain ⟨valid, result, iters, sing, m, rest, hvalid, hresult, heq⟩ := rootComplete_stores h
  obtain ⟨hcas, hjet, hmem, hnow⟩ := rootReported_keeps (rootEnded (tick d r.ends) T
    (memWrite m r.saddr (leBytes 8 (rootStatus valid result (rootCompute r).1 iters sing) ++ rest))) T r (rootCompute r).1 iters
  rw [heq, hcas, hjet, hmem, hnow]
  refine ⟨?_, ?_, ?_, ?_⟩
  · have hread := memNat_memWrite_append m r.saddr (leBytes 8 (rootStatus valid result (rootCompute r).1 iters sing)) rest
    rw [leBytes_length, leNat_leBytes] at hread
    rw [rootEnded, withCas_mem, withMem_mem, hread]
    exact rootStatus_reason valid result (rootCompute r).1 iters sing hvalid hresult
  · rw [rootEnded, withCas_cas, tick_cas]
  · rw [rootEnded, withCas_jet, withMem_jet, tick_jet]
  · rw [rootEnded, withCas_now, withMem_now, tick_now]

/-- Settles O28: a ROOT is noted with its addresses and its matrix; its completion clears the terrace. -/
theorem rootRunsAndClearsItsTerrace : Obligations.RootRunsAndClearsItsTerrace := by
  refine ⟨?_, ?_⟩
  · intro iss terr desc nt pc nit gp s e d c at' n ptr hr he hpc halign hres h0 h1 h2 h3 hclosed
    obtain ⟨r, hcounted⟩ := casCounted_eq d iss terr
    obtain ⟨nin, hissue⟩ := rootIssue_starts (d := d.withRegs r) (c := c) (gp := gp.toNat) (nit := nit.toNat) he
      (pc := pc.toNat) (fun h => hpc (BitVec.eq_of_toNat_eq h)) halign hres (nt := nt.toNat) (by
        intro k hk
        obtain rfl | rfl | rfl | rfl : k = 0 ∨ k = 1 ∨ k = 2 ∨ k = 3 := by omega
        · exact h0
        · exact h1
        · exact h2
        · exact h3) hclosed
    have hop : casOp (d.withRegs r) c (.root 255#8 desc nt pc nit gp) = _ := hissue
    have heq := casIssue_ready (op := .root 255#8 desc nt pc nit gp) rfl hr
    rw [hcounted] at heq
    rw [show casOp _ (casCtx (settle (tick s.dev iss.t)) iss terr _) _ = _ from hop] at heq
    obtain ⟨hroot, helems, hmem⟩ := rootBegun_holds (d := d.withRegs r) (c := c)
      (rootRunOf (d.withRegs r) c at'.toNat nt.toNat pc.toNat nit.toNat gp.toNat) (gp.toNat == 1) nin
      (c.t + rootTime nt.toNat pc.toNat nit.toNat)
    obtain ⟨hissued, hends, haaddr, hoaddr, hsaddr, hinput⟩ := rootRunOf_reads (d := d.withRegs r) (c := c)
      (a := at'.toNat) (nt := nt.toNat) (pc := pc.toNat) (nit := nit.toNat) (gp := gp.toNat)
    exact ⟨_, next_congr rfl heq, ⟨_, hroot, hissued, hends, haaddr, hoaddr, hsaddr, hinput⟩, hmem, helems⟩
  · intro half terr s r T hroot hsaddr
    obtain ⟨hstatus, hcas, hjet, hnow⟩ := rootComplete_eq hroot
    refine ⟨_, rfl, ?_, hnow, ?_, ?_, ?_, ?_, hjet, hstatus⟩
    · exact (congrArg (fun c : Cas => sfind T c.roots) hcas).trans (by simp [terraceCleared, sfind_sdel])
    · intro k hk
      exact (congrArg (fun c : Cas => sget 0 (32 * T + k) c.tstate) hcas).trans (terraceCleared_tstate_in _ hk)
    · intro k x y hk hx hy
      exact (congrArg (fun c : Cas => sget 0 (elemKey (32 * T + k) x y) c.elems) hcas).trans
        (terraceCleared_elems _ hk hx hy)
    · intro u hu
      refine ⟨?_, ?_, ?_⟩
      · exact (congrArg (fun c : Cas => sfind (8 * T + u) c.ladders) hcas).trans (terraceCleared_ladders _ hu)
      · exact (congrArg (fun c : Cas => sfind (2 * (8 * T + u)) c.sb) hcas).trans
          (terraceCleared_sb _ hu (b := 0) (by decide))
      · exact (congrArg (fun c : Cas => sfind (2 * (8 * T + u) + 1) c.sb) hcas).trans
          (terraceCleared_sb _ hu (b := 1) (by decide))
    · intro k hk
      exact (congrArg (fun c : Cas => sget 0 k c.tstate) hcas).trans (terraceCleared_tstate_out _ hk)

end Sys2Proof.Machine
end

section
/-! PROOFS. The basin window: what a write of a padding byte does to a container (04, R101, R143). -/

namespace Sys2Proof.Machine

/-- A package whose first container of the first tile holds a bit beyond its 40 value bits. -/
def wideContainer : Dev := { Dev.reset with cas := { Dev.reset.cas with elems := [(0, 2 ^ 40)] } }

/-- Refutes O29: no premise bounds the containers to 40 bits. Byte 5 of a container 2^40 reads 1, and a write of that byte,
which the statement says leaves it, stores the container with its upper bits cleared, so that it reads 0. -/
theorem not_basinsTakeRowsAndWindowWrites : ¬ Obligations.BasinsTakeRowsAndWindowWrites := by
  intro h
  obtain ⟨-, hwindow⟩ := h
  obtain ⟨hclosed, -⟩ := hwindow 5#26 0#8 ⟨wideContainer, []⟩ rfl
  obtain ⟨v, hv, hread, -⟩ := hclosed (by decide)
  obtain rfl : v = ⟨windowWrite wideContainer 0x3FC00000005 [0#8], []⟩ := by
    injection hv with hv
    exact hv.symm
  exact absurd hread (by decide)

end Sys2Proof.Machine
end

section
/-! PROOFS. The issue of a jet op, and the ops that deliver a register (06, R192 to R217). -/

namespace Sys2Proof.Machine

/-! ### What every jet op does beside the jets -/

section
variable {ps : List Piece} {half : Half} {d e : Dev}

theorem jetReports_of_isReport {a : Nat} (h : jetReports half a = false) : isReport a = false := by
  simp only [jetReports, Bool.or_eq_false_iff] at h
  exact h.1

theorem jetReports_psn : jetReports half (A.AST_PSN (hn half)) = true := by
  cases half <;> decide

theorem jetReports_sts : jetReports half (A.AST_STS (hn half)) = true := by
  cases half <;> decide

theorem hn_lt_two (half : Half) : hn half < 2 := by
  cases half <;> decide

theorem leavesJet_count {h src inst k : Nat} {single : Bool} (hh : h < 2) :
    Leaves ps (jetReports half) d (count e h src inst k single) ↔ Leaves ps (jetReports half) d e :=
  (onlyRegs_count e h src inst k single hh).leaves.drop (by simp) fun _ h =>
    isReport_of_isCounter (jetReports_of_isReport h)

theorem leavesJet_minor {number sev src : Nat} {payload : List Nat} (hsev : sev < 2) (h : Piece.hst ∈ ps) :
    Leaves ps (jetReports half) d (raise e number sev src payload) ↔ Leaves ps (jetReports half) d e := by
  rw [raise_minor _ _ _ _ _ hsev]
  exact leaves_post_iff h fun _ => jetReports_of_isReport

variable (hmach : Piece.mach ∈ ps) (hhst : Piece.hst ∈ ps)
include hmach hhst

theorem leavesJet_poisonFor (h : Leaves ps (jetReports half) d e) (s src ev word : Nat) (next : Bool) :
    Leaves ps (jetReports half) d (poisonFor e (hn half) s src ev word next) := by
  unfold poisonFor
  extract_lets f first d1 d2 d3 m d4
  have h1 : Leaves ps (jetReports half) d d1 := (leaves_fset_iff jetReports_psn).2 h
  have h2 : Leaves ps (jetReports half) d d2 := by
    simp only [d2]
    split
    · exact (leaves_fset_iff jetReports_psn).2 ((leaves_fset_iff jetReports_psn).2 h1)
    · exact h1
  have h4 : Leaves ps (jetReports half) d d4 := (leaves_withMach_iff hmach).2 ((leavesJet_count (hn_lt_two half)).2 h2)
  split
  · exact h
  · exact (leavesJet_minor (by decide) hhst).2 ((leaves_fset_iff jetReports_sts).2 h4)

theorem leavesJet_poisonEvent (h : Leaves ps (jetReports half) d e) (s src ev word : Nat) :
    Leaves ps (jetReports half) d (poisonEvent e (hn half) s src ev word) := by
  unfold poisonEvent
  extract_lets cur late d1 s'
  have h1 : Leaves ps (jetReports half) d d1 := (leavesJet_minor (by decide) hhst).2 ((leaves_fset_iff jetReports_sts).2 h)
  split
  · exact leavesJet_poisonFor hmach hhst h _ _ _ _ _
  · exact leavesJet_poisonFor hmach hhst h1 _ _ _ _ _

theorem leavesJet_reportEvents (h : Leaves ps (jetReports half) d e) (gp : Bool) (s src word : Nat) (ev : Events) :
    Leaves ps (jetReports half) d (reportEvents e (hn half) gp s src word ev) := by
  unfold reportEvents
  extract_lets d1 d2 d3 d4 d5
  have hcount : ∀ {x : Dev} {src k : Nat}, Leaves ps (jetReports half) d x →
      Leaves ps (jetReports half) d (count x (hn half) src 0 k true) := (leavesJet_count (hn_lt_two half)).2
  have h3 : Leaves ps (jetReports half) d d3 := hcount (hcount (hcount h))
  have h5 : Leaves ps (jetReports half) d d5 := hcount (hcount h3)
  split
  · split
    · exact leavesJet_poisonEvent hmach hhst h5 _ _ _ _
    · split
      · exact leavesJet_poisonEvent hmach hhst h5 _ _ _ _
      · exact h5
  · exact h3

end

/-! ### The issue -/

/-- The package with the op counted. -/
def jetCounted (d : Dev) (iss : Issue) (terr : BitVec 3) : Dev := count d (hn iss.half) 0x300 (terr.toNat % 8) 1 false

theorem jetCounted_eq (d : Dev) (iss : Issue) (terr : BitVec 3) :
    ∃ r, jetCounted d iss terr = d.withRegs r ∧ Leaves [] (jetReports iss.half) d (d.withRegs r) := by
  have heq := (onlyRegs_count' d (hn iss.half) 0x300 (terr.toNat % 8) 1 false).eq
  refine ⟨_, heq, ?_⟩
  rw [← heq]
  exact (leavesJet_count (hn_lt_two _)).2 leaves_self

/-- An op on a half whose jets are RUNNING is tried by its own tests. -/
theorem jetIssue_running {s d : Dev} {iss : Issue} {terr : BitVec 3} {op : JetOp} (hd : d = settle (tick s iss.t))
    (hrun : running d (.jet iss.half) = true) (hecc : iss.ecc = []) :
    timedOp s iss terr.toNat (fun d => jetIssue d iss terr.toNat op)
      = match jetOp (jetCounted d iss terr) (jetCtx d iss terr.toNat (encodeJet op).toNat) op with
        | .ok e => e
        | .error f => jetRaise (jetCounted d iss terr) (jetCtx d iss terr.toNat (encodeJet op).toNat) f := by
  have hrun' : running (jetCounted d iss terr) (.jet iss.half) = true := by
    rw [← hrun, running, running, blkState, stOf, jetCounted, (onlyRegs_count d _ _ _ _ _ (hn_lt_two _)).2.fget]
    · rfl
    · cases iss.half <;> decide
  rw [timedOp_plain hecc]
  simp only [jetIssue, ← hd]
  rw [show count d (jetCtx d iss terr.toNat (encodeJet op).toNat).h 768 (jetCtx d iss terr.toNat (encodeJet op).toNat).terr 1
    false = jetCounted d iss terr from rfl, if_neg (by simp [hrun'])] <;> rfl

/-! ### Results on their way -/

/-- The jets of `u` are those of `d` with one result more on its way. -/
structure ResultAdded (d u : Dev) (l : JetLand) : Prop where
  lands : u.jet.lands = d.jet.lands ++ [l]
  bytes : u.jet.bytes = d.jet.bytes
  rows : u.jet.rows = d.jet.rows
  kinds : u.jet.kinds = d.jet.kinds
  tables : u.jet.tables = d.jet.tables

/-- A register delivered by an op that changed no jet. -/
theorem resultAdded_landReg {d e : Dev} (h : e.jet = d.jet) (T r due k t : Nat) (bs : List Byte) :
    ResultAdded d (jetBusy (landReg e T r due bs) k t) ⟨due, some (32 * T + r, bs), none, []⟩ := by
  unfold jetBusy landReg
  constructor <;> simp only [withJet_jet, h]

theorem leavesJet_landReg {ps : List Piece} {p : Nat → Bool} {d e : Dev} (hjet : Piece.jet ∈ ps) (T r due k t : Nat)
    (bs : List Byte) : Leaves ps p d (jetBusy (landReg e T r due bs) k t) ↔ Leaves ps p d e := by
  unfold jetBusy landReg
  rw [leaves_withJet_iff hjet, leaves_withJet_iff hjet]

/-- The outcome of an op that delivers a register: its result on its way, and beside the jets only reports changed. -/
theorem jetOp_delivers {s d D : Dev} {iss : Issue} {terr : BitVec 3} {op : JetOp} {ps : List Piece} {r due T : Nat}
    {bs : List Byte} (hps : Piece.jet ∈ ps) (hd : d = settle (tick s iss.t)) (hrun : running d (.jet iss.half) = true)
    (hecc : iss.ecc = []) (hop : jetOp (jetCounted d iss terr) (jetCtx d iss terr.toNat (encodeJet op).toNat) op =
      .ok (jetBusy (landReg D T r due bs) (hn iss.half) due))
    (hjet : D.jet = d.jet) (hside : Leaves ps (jetReports iss.half) d D) :
    ResultAdded d (timedOp s iss terr.toNat fun d => jetIssue d iss terr.toNat op) ⟨due, some (32 * T + r, bs), none, []⟩ ∧
      Leaves ps (jetReports iss.half) d (timedOp s iss terr.toNat fun d => jetIssue d iss terr.toNat op) := by
  rw [jetIssue_running hd hrun hecc, hop]
  exact ⟨resultAdded_landReg hjet _ _ _ _ _ _, (leavesJet_landReg hps _ _ _ _ _ _).2 hside⟩

/-! ### ALU, CVT, TAB, DER and RSR -/

section
variable {d : Dev} {c : CasCtx} {vd gp : Nat}

theorem derIssue_eq (vx vg : Nat) : ∃ ev, derIssue d c vd vx vg = .ok (jetBusy (landReg (reportEvents d c.h true (opStep d)
    srcJET c.word ev) c.T vd (c.t + 24) (codesBytes 0 (((vecVals d c.T vx 0).zip (vecVals d c.T vg 0)).map
      fun p => enc32 (f32 (fmul (tabEval (loadedTable d c.T 1) p.1) p.2))))) c.h (c.t + 24)) := by
  rw [derIssue, List.map_map]
  exact ⟨_, rfl⟩

theorem rsrIssue_eq (bank rg what : Nat) : ∃ ev, rsrIssue d c vd bank rg what = .ok (jetBusy (landReg (reportEvents d c.h
    false (opStep d) srcJET c.word ev) c.T vd (c.t + 60) (codesBytes 0 (((List.range 16).map (fun i =>
      let p := rowState d c.T bank (16 * rg + i)
      List.replicate 128 (enc32 (f32 (if what = 0 then p.1 else p.2))))).flatten))) c.h (c.t + 60)) := by
  rw [rsrIssue, List.map_map]
  exact ⟨_, rfl⟩

theorem tabIssue_eq (va : Nat) {tsel : Nat} (h : ¬(tsel = 2 ∨ tsel = 3)) : ∃ ev, tabIssue d c vd va tsel gp = .ok (jetBusy
    (landReg (if gp = 1 then reportEvents d c.h true (opStep d) srcJET c.word ev else d) c.T vd (c.t + 24)
      (codesBytes 0 ((vecVals d c.T va 0).map fun x => enc32 (tabLane d c.T tsel x)))) c.h (c.t + 24)) := by
  simp only [tabIssue, if_neg h, List.map_map]
  exact ⟨_, rfl⟩

theorem cvtIssue_eq (va ws wd nfm : Nat) {rnd : Nat} (h : rnd < 2) : ∃ ev, cvtIssue d c vd va ws wd rnd nfm gp = .ok (jetBusy
    (landReg (reportEvents d c.h (gp == 1) (opStep d) srcJET c.word ev) c.T vd (c.t + 12)
      (codesBytes wd (((vecVals d c.T va ws).take (min (laneCount ws) (laneCount wd))).map
          (fun v => (convTo (laneFmt wd) (rndOf rnd) (nfm == 1) v).code) ++
        List.replicate (laneCount wd - min (laneCount ws) (laneCount wd)) 0))) c.h (c.t + 12)) := by
  simp only [cvtIssue, if_neg (show ¬ rnd ≥ 2 by omega), List.map_map]
  exact ⟨_, rfl⟩

theorem aluIssue_eq (va vb vc : Nat) {fn w : Nat} (h : aluLegal fn w = true) : ∃ ev, aluIssue d c vd va vb vc fn w gp =
    .ok (jetBusy (landReg (if gp = 1 ∧ fn ≤ 7 ∧ w ≠ 3 then reportEvents d c.h true (opStep d) srcJET c.word ev else d) c.T vd
      (c.t + if fn = 6 ∨ fn = 7 then 40 else 12)
      (codesBytes w (((vecCodes d c.T va w).zip ((vecCodes d c.T vb w).zip (vecCodes d c.T vc w))).map
        fun p => aluLane fn w p.1 p.2.1 p.2.2))) c.h (c.t + if fn = 6 ∨ fn = 7 then 40 else 12)) := by
  rw [aluIssue, if_neg (by simp [h])]
  exact ⟨_, rfl⟩

end

/-- Settles O30: each op's lanes are computed from the jets at issue, and its register is on its way. -/
theorem jetOpsDeliverTheirRegister : Obligations.JetOpsDeliverTheirRegister := by
  intro iss terr s d T lands hrun hecc
  obtain ⟨r, hr, hside⟩ := jetCounted_eq d iss terr
  have hwide : Leaves [.jet, .mach, .hst] (jetReports iss.half) d (d.withRegs r) := hside.widen (by simp)
  have hevents : ∀ gp st src word ev, Leaves [.jet, .mach, .hst] (jetReports iss.half) d
      (reportEvents (d.withRegs r) (hn iss.half) gp st src word ev) := fun gp st src word ev =>
    leavesJet_reportEvents (by simp) (by simp) hwide gp st src word ev
  have hjet : ∀ gp st src word ev, (reportEvents (d.withRegs r) (hn iss.half) gp st src word ev).jet = d.jet :=
    fun gp st src word ev => (leavesJet_reportEvents (ps := [.mach, .hst]) (by simp) (by simp)
      (hside.widen (by simp)) gp st src word ev).1 .jet (by simp)
  have hlands : ∀ {c : Instr} {op : JetOp} {vd due : Nat} {bs : List Byte} {D : Dev},
      exec c s = act (fun d => timedOp d iss terr.toNat fun d => jetIssue d iss terr.toNat op) s →
      jetOp (d.withRegs r) (jetCtx d iss terr.toNat (encodeJet op).toNat) op =
        .ok (jetBusy (landReg D T vd due bs) (hn iss.half) due) →
      D.jet = d.jet → Leaves [.jet, .mach, .hst] (jetReports iss.half) d D → lands c vd due bs := by
    intro c op vd due bs D hc hop hjet hD
    rw [← hr] at hop
    obtain ⟨⟨hl, hb, hrows, hk, ht⟩, hleaves⟩ := jetOp_delivers (by simp) rfl hrun hecc hop hjet hD
    exact ⟨_, hc, hl, hb, hrows, hk, ht, hleaves.1, hleaves.2⟩
  have hmaybe : ∀ (q : Prop) [Decidable q] (st word : Nat) (ev : Events),
      (if q then reportEvents (d.withRegs r) (hn iss.half) true st srcJET word ev else d.withRegs r).jet = d.jet ∧
      Leaves [.jet, .mach, .hst] (jetReports iss.half) d
        (if q then reportEvents (d.withRegs r) (hn iss.half) true st srcJET word ev else d.withRegs r) := by
    intro q _ st word ev
    split
    · exact ⟨hjet .., hevents ..⟩
    · exact ⟨rfl, hwide⟩
  refine ⟨?_, ?_, ?_, ?_, ?_⟩
  · intro vd va vb vc fn w gp hlegal
    obtain ⟨ev, heq⟩ := aluIssue_eq (d := d.withRegs r) (vd := vd.toNat) (gp := gp.toNat)
      (c := jetCtx d iss terr.toNat (encodeJet (.alu vd va vb vc fn w gp)).toNat) va.toNat vb.toNat vc.toNat hlegal
    have hfn : (fn.toNat = 6 ∨ fn.toNat = 7) = (fn = 6#4 ∨ fn = 7#4) := by
      rw [← BitVec.toNat_inj, ← BitVec.toNat_inj]
      rfl
    simp only [hfn] at heq
    obtain ⟨hj, hl⟩ := hmaybe (gp.toNat = 1 ∧ fn.toNat ≤ 7 ∧ w.toNat ≠ 3) _ _ ev
    exact hlands rfl heq hj hl
  · intro vd va ws wd rnd nfm gp hrnd n
    obtain ⟨ev, heq⟩ := cvtIssue_eq (d := d.withRegs r) (vd := vd.toNat) (gp := gp.toNat)
      (c := jetCtx d iss terr.toNat (encodeJet (.cvt vd va ws wd rnd nfm gp)).toNat) va.toNat ws.toNat wd.toNat nfm.toNat hrnd
    simp only [bit_beq] at heq
    exact hlands (op := .cvt vd va ws wd rnd nfm gp) rfl heq (hjet ..) (hevents ..)
  · intro vd va tsel gp h2 h3
    have htsel : ¬(tsel.toNat = 2 ∨ tsel.toNat = 3) := by
      rintro (h | h)
      · exact h2 (BitVec.eq_of_toNat_eq h)
      · exact h3 (BitVec.eq_of_toNat_eq h)
    obtain ⟨ev, heq⟩ := tabIssue_eq (d := d.withRegs r) (vd := vd.toNat) (gp := gp.toNat)
      (c := jetCtx d iss terr.toNat (encodeJet (.tab vd va tsel gp)).toNat) va.toNat htsel
    obtain ⟨hj, hl⟩ := hmaybe (gp.toNat = 1) _ _ ev
    exact hlands (op := .tab vd va tsel gp) rfl heq hj hl
  · intro vd vx vg
    obtain ⟨ev, heq⟩ := derIssue_eq (d := d.withRegs r) (vd := vd.toNat)
      (c := jetCtx d iss terr.toNat (encodeJet (.der vd vx vg)).toNat) vx.toNat vg.toNat
    exact hlands (op := .der vd vx vg) rfl heq (hjet ..) (hevents ..)
  · intro vd bank rg what
    obtain ⟨ev, heq⟩ := rsrIssue_eq (d := d.withRegs r) (vd := vd.toNat)
      (c := jetCtx d iss terr.toNat (encodeJet (.rsr vd bank rg what)).toNat) bank.toNat rg.toNat what.toNat
    have hwhat : (what.toNat = 0) = (what = 0#1) := by
      rw [← BitVec.toNat_inj]
      rfl
    simp only [hwhat] at heq
    exact hlands (op := .rsr vd bank rg what) rfl heq (hjet ..) (hevents ..)

end Sys2Proof.Machine
end

section
/-! PROOFS. Row states of the jets: reduced, loaded and merged (06, R205 to R210). -/

namespace Sys2Proof.Machine

/-! ### The port and the lines of an op that reads memory (R195, R378) -/

/-- The package with the terrace's port taken for `hold` cycles. -/
def portTaken (d : Dev) (c : CasCtx) (hold : Nat) : Dev :=
  count (d.withJet { d.jet with portFree := sset 0 c.T (c.t + hold) d.jet.portFree }) c.h 0x301 c.terr hold false

theorem takePort_free {d : Dev} {c : CasCtx} (hold : Nat) (h : sget 0 c.T d.jet.portFree ≤ c.t) :
    takePort d c hold = .ok (portTaken d c hold) := by
  rw [takePort, if_neg (by omega), portTaken]

theorem portTaken_jet (d : Dev) (c : CasCtx) (hold : Nat) :
    (portTaken d c hold).jet = { d.jet with portFree := sset 0 c.T (c.t + hold) d.jet.portFree } := by
  rw [portTaken, count_jet, withJet_jet]

theorem leaves_portTaken {half : Half} {d e : Dev} {c : CasCtx} {ps : List Piece} (hjet : Piece.jet ∈ ps) (hc : c.h < 2)
    (hold : Nat) (h : Leaves ps (jetReports half) d e) : Leaves ps (jetReports half) d (portTaken e c hold) :=
  (leavesJet_count hc).2 ((leaves_withJet_iff hjet).2 h)

/-- What the accesses of an op meet is decided by the windows' use and the time alone: none refused in `d` is none refused
in a package that agrees with it in these, and they then change nothing but their own use and counters. -/
theorem rvrTimed_quiet {half : Half} {d e : Dev} {T : Nat} {acc : List (Nat × Nat)} (h : (rvrTimed d T acc).2 = [])
    (hT : T / 8 < 2) (huse : e.rvrUse = d.rvrUse) (hseq : e.seq = d.seq) (hnow : e.now = d.now) :
    ∃ use, (rvrTimed e T acc) = ((count e (T / 8) 0x600 (T % 8) acc.length false).withRvrUse use, []) ∧
      Leaves [.rvrUse] (jetReports half) e ((count e (T / 8) 0x600 (T % 8) acc.length false).withRvrUse use) := by
  rw [rvrTimed_eq] at h ⊢
  obtain ⟨-, use, -, hother⟩ := bankAccesses_clean T acc _ h
  refine ⟨use, ?_, ?_⟩
  · rw [hother]
    · rfl
    · simp only [rvrFresh, withRvrUse_rvrUse, count_rvrUse, count_seq, huse, hseq, hnow]
    · simp only [rvrFresh, withRvrUse_seq, count_seq, hseq]
  · exact (leaves_withRvrUse_iff (by simp)).2 ((leavesJet_count hT).2 leaves_self)

theorem terrace_half (half : Half) (terr : BitVec 3) : (8 * hn half + terr.toNat % 8) / 8 < 2 := by
  have := hn_lt_two half
  omega

/-- The package in which an op that reads memory works, its port free and no bank refused: its port taken, its accesses
noted. -/
theorem jetLines_quiet {d e : Dev} {iss : Issue} {terr : BitVec 3} {c : CasCtx} {hold : Nat} {runs : List (Nat × Nat)}
    {ps : List Piece} (hjet : Piece.jet ∈ ps) (huse : Piece.rvrUse ∈ ps)
    (hT : c.T = 8 * hn iss.half + terr.toNat % 8) (hh : c.h = hn iss.half) (ht : c.t = iss.t)
    (hclear : (rvrTimed d (8 * hn iss.half + terr.toNat % 8) (spread iss.t hold (linesOf (8 * hn iss.half + terr.toNat % 8)
      (runs.filter fun r => inRes (8 * hn iss.half + terr.toNat % 8) r.1 r.2)))).2 = [])
    (he : Leaves [] (jetReports iss.half) d e) (hmem : e.mem = d.mem) :
    ∃ D, jetLines (portTaken e c hold) c hold runs = (D, []) ∧ D.mem = d.mem ∧ D.cas = d.cas ∧
      D.jet = { d.jet with portFree := sset 0 c.T (iss.t + hold) d.jet.portFree } ∧
      Leaves ps (jetReports iss.half) d D := by
  have hpre : Leaves [.jet] (jetReports iss.half) d (portTaken e c hold) :=
    leaves_portTaken (by simp) (by rw [hh]; exact hn_lt_two _) hold (he.widen (by simp))
  obtain ⟨use, heq, hleaves⟩ := rvrTimed_quiet (half := iss.half) (e := portTaken e c hold) hclear (terrace_half _ _)
    (hpre.1 .rvrUse (by simp)) (hpre.1 .seq (by simp)) (hpre.1 .clock (by simp)).1
  have hall := (hpre.widen (qs := [.jet, .rvrUse]) (by simp)).trans (hleaves.widen (by simp))
  refine ⟨_, ?_, ?_, hall.1 .cas (by simp), ?_, hall.widen (by simp [hjet, huse])⟩
  · rw [jetLines, hT, ht]
    exact heq
  · rw [withRvrUse_mem, count_mem, portTaken, count_mem, withJet_mem, hmem]
  · rw [withRvrUse_jet, count_jet, portTaken_jet, he.1 .jet (by simp), ht]

theorem jetByte_congr {d e : Dev} (h : e.cas = d.cas) (m : List Host.Cell) (a : Nat) : jetByte e m a = jetByte d m a := by
  rw [jetByte, jetByte, windowByte, windowByte, h]

/-- A fact that holds whatever stands in a place: the kernel then does not look at what stands there. -/
theorem forEvery {α : Sort*} {motive : α → Prop} (x : α) (h : ∀ y, motive y) : motive x := h x

/-! ### The rows of a group (R205) -/

theorem rowKey_add (T bank rg i : Nat) : rowKey T bank (16 * rg + i) = rowKey T bank (16 * rg + 0) + 2 * i := by
  rw [rowKey, rowKey]
  omega

/-- Rows of a group set one after the other, each from its own state: the rows set are what `F` gives, the others stand. -/
theorem rowFold {d : Dev} {T bank rg : Nat} {F : FVal × FVal → Nat → FVal × FVal} {G : Dev × Events → Nat → Dev × Events}
    (hG : ∀ x i, (G x i).1 = setRowState x.1 T bank (16 * rg + i) (F (rowState x.1 T bank (16 * rg + i)) i)) (n : Nat) :
    ∃ rows, (((List.range n).foldl G (d, noEvents)).1 = d.withJet { d.jet with rows := rows }) ∧
      (∀ i, i < n → sget 0 (rowKey T bank (16 * rg + i)) rows = encA40 (F (rowState d T bank (16 * rg + i)) i).1 ∧
        sget 0 (rowKey T bank (16 * rg + i) + 1) rows = encA40 (F (rowState d T bank (16 * rg + i)) i).2) ∧
      ∀ k, k < rowKey T bank (16 * rg + 0) ∨ rowKey T bank (16 * rg + 0) + 2 * n ≤ k → sget 0 k rows = sget 0 k d.jet.rows := by
  induction n with
  | zero => exact ⟨d.jet.rows, rfl, fun i hi => absurd hi (Nat.not_lt_zero i), fun k _ => rfl⟩
  | succ n ih =>
    obtain ⟨rows, heq, hrows, hothers⟩ := ih
    have hkey := rowKey_add T bank rg
    have hstate : rowState ((List.range n).foldl G (d, noEvents)).1 T bank (16 * rg + n) = rowState d T bank (16 * rg + n) := by
      rw [heq, rowState, rowState, withJet_jet, hothers _ (.inr (by rw [hkey n])), hothers _ (.inr (by rw [hkey n]; omega))]
    rw [List.range_succ, List.foldl_append, List.foldl_cons, List.foldl_nil, hG, hstate, heq]
    refine ⟨_, rfl, fun i hi => ?_, fun k hk => ?_⟩
    · simp only [withJet_jet]
      by_cases hin : i = n
      · subst hin
        rw [sget_sset_self, sget_sset_ne _ (by omega), sget_sset_self]
        exact ⟨rfl, rfl⟩
      · rw [sget_sset_ne _ (by rw [hkey i, hkey n]; omega), sget_sset_ne _ (by rw [hkey i, hkey n]; omega),
          sget_sset_ne _ (by rw [hkey i, hkey n]; omega), sget_sset_ne _ (by rw [hkey i, hkey n]; omega)]
        exact hrows i (by omega)
    · simp only [withJet_jet]
      rw [sget_sset_ne _ (by rw [hkey n]; omega), sget_sset_ne _ (by rw [hkey n]; omega)]
      exact hothers k (by omega)

/-- A group of rows set, and its kind with them. -/
structure GroupSet (d u : Dev) (T bank rg rk : Nat) (q : Nat → FVal × FVal) : Prop where
  rows : ∀ i, i < 16 → sget 0 (rowKey T bank (16 * rg + i)) u.jet.rows = encA40 (q i).1 ∧
    sget 0 (rowKey T bank (16 * rg + i) + 1) u.jet.rows = encA40 (q i).2
  others : ∀ k, k < rowKey T bank (16 * rg + 0) ∨ rowKey T bank (16 * rg + 0) + 32 ≤ k →
    sget 0 k u.jet.rows = sget 0 k d.jet.rows
  kind : groupKind u T bank rg = rk + 1
  bytes : u.jet.bytes = d.jet.bytes
  lands : u.jet.lands = d.jet.lands
  tables : u.jet.tables = d.jet.tables

/-- The sixteen rows of a group set from a package `e` whose rows are those of `d`, reported, and the jets busy. -/
theorem groupSet_of_fold {d e u : Dev} {half : Half} {T bank rg rk t s w : Nat} {F : FVal × FVal → Nat → FVal × FVal}
    {G : Dev × Events → Nat → Dev × Events} {gp : Bool} {ev : Events} {p : List (Nat × Nat)} {ps : List Piece}
    (hjet : Piece.jet ∈ ps) (hmach : Piece.mach ∈ ps) (hhst : Piece.hst ∈ ps)
    (hG : ∀ x i, (G x i).1 = setRowState x.1 T bank (16 * rg + i) (F (rowState x.1 T bank (16 * rg + i)) i))
    {x : Dev × Events} (hx : (List.range 16).foldl G (setGroupKind e T bank rg rk, noEvents) = x)
    (hu : u = jetBusy (reportEvents x.1 (hn half) gp s srcJET w ev) (hn half) t)
    (he : e.jet = { d.jet with portFree := p }) (hside : Leaves ps (jetReports half) d e) :
    GroupSet d u T bank rg rk (fun i => F (rowState d T bank (16 * rg + i)) i) ∧ Leaves ps (jetReports half) d u := by
  obtain ⟨rows, heq, hrows, hothers⟩ := rowFold (d := setGroupKind e T bank rg rk) hG 16
  have hstate : ∀ r, rowState (setGroupKind e T bank rg rk) T bank r = rowState d T bank r := fun r => by
    rw [rowState, rowState, setGroupKind, withJet_jet, he]
  rw [← hx, heq] at hu
  clear hx
  generalize hx : (setGroupKind e T bank rg rk).withJet { (setGroupKind e T bank rg rk).jet with rows := rows } = x at hu
  have hxjet : x.jet = { (setGroupKind e T bank rg rk).jet with rows := rows } := by rw [← hx, withJet_jet]
  have hxside : Leaves ps (jetReports half) d x := by
    rw [← hx, setGroupKind, leaves_withJet_iff hjet, leaves_withJet_iff hjet]
    exact hside
  have hrep : (reportEvents x (hn half) gp s srcJET w ev).jet = x.jet :=
    (leavesJet_reportEvents (ps := [.mach, .hst]) (half := half) (by simp) (by simp) leaves_self gp s srcJET w ev).1 .jet (by simp)
  have hujet : u.jet = { x.jet with busy := u.jet.busy } := by
    rw [hu, jetBusy, withJet_jet, hrep]
  rw [hxjet, setGroupKind, withJet_jet, he] at hujet
  refine ⟨⟨fun i hi => ?_, fun k hk => ?_, ?_, ?_, ?_, ?_⟩, ?_⟩
  · rw [hujet, ← hstate]
    exact hrows i hi
  · rw [hujet]
    refine (hothers k hk).trans ?_
    rw [setGroupKind, withJet_jet, he]
  · rw [groupKind, hujet]
    show sget 0 (groupKey T bank rg) (sset 0 (groupKey T bank rg) (rk + 1) d.jet.kinds) = _
    rw [sget_sset_self]
  · rw [hujet]
  · rw [hujet]
  · rw [hujet]
  · rw [hu, jetBusy, leaves_withJet_iff hjet]
    exact leavesJet_reportEvents hmach hhst hxside gp s srcJET w ev

/-! ### RED, RSLD and their failures -/

/-- The row that a segment updates: the empty state or the one in force, and the segment's operands. -/
def redRows (init rk : Nat) (as bs : List (List FVal)) (p : FVal × FVal) (i : Nat) : FVal × FVal :=
  (redRow rk (if init = 1 then emptyRow rk else p) (as.getD i []) (bs.getD i [])).1

/-- The row that a load gives: the stored state, or the one in force merged with it. -/
def loadRows (mrg rk : Nat) (v : Nat → FVal) (p : FVal × FVal) (i : Nat) : FVal × FVal :=
  if mrg = 1 then mergeRow rk p (v (2 * i), v (2 * i + 1)) else (v (2 * i), v (2 * i + 1))

section
variable {d : Dev} {c : CasCtx} {bank rg rk : Nat}

theorem redIssue_eq (va vb gp : Nat) {init : Nat} (hrk : rk ≠ 3) (hkind : ¬(init = 0 ∧ groupKind d c.T bank rg ≠ rk + 1)) :
    ∃ G x s, (List.range 16).foldl G (setGroupKind d c.T bank rg rk, noEvents) = x ∧
      redIssue d c va vb bank rg rk init gp =
        .ok (jetBusy (reportEvents x.1 c.h (gp == 1) s srcJET c.word x.2) c.h (c.t + 2)) ∧
      ∀ x i, (G x i).1 = setRowState x.1 c.T bank (16 * rg + i) (redRows init rk (chunks 128 16 (vecVals d c.T va 0))
        (chunks 128 16 (vecVals d c.T vb 0)) (rowState x.1 c.T bank (16 * rg + i)) i) := by
  rw [redIssue, if_neg hrk, if_neg hkind]
  extract_lets as bs d'
  generalize hx : List.foldl _ _ _ = x
  obtain ⟨D, ev⟩ := x
  exact ⟨_, _, _, hx, rfl, fun _ _ => rfl⟩

theorem redIssue_refused (va vb gp : Nat) {init : Nat} (hinit : init = 0) (hrk : rk ≠ 3)
    (hkind : groupKind d c.T bank rg ≠ rk + 1) :
    redIssue d c va vb bank rg rk init gp = .error (0x53, stateDetail bank rg) := by
  rw [redIssue, if_neg hrk, if_pos ⟨hinit, hkind⟩]

/-- The values that a load reads. -/
def loadVals (d : Dev) (m : List Host.Cell) (a k : Nat) : FVal := decA40 (leNat ((range' (a + 8 * k) 8).map (jetByte d m)))

theorem rsldIssue_eq {D : Dev} {a desc mrg : Nat} (gp : Nat) (hrk : rk ≠ 3) (hentry : rowEntry d c desc rg = .ok a)
    (hkind : ¬(mrg = 1 ∧ groupKind d c.T bank rg ≠ rk + 1)) (hfree : sget 0 c.T d.jet.portFree ≤ c.t)
    (hlines : jetLines (portTaken d c 2) c 2 [(a, 256)] = (D, [])) :
    ∃ G x s, (List.range 16).foldl G (setGroupKind D c.T bank rg rk, noEvents) = x ∧
      rsldIssue d c bank rg desc rk mrg gp =
        .ok (jetBusy (reportEvents x.1 c.h (gp == 1) s srcJET c.word x.2) c.h (c.t + 2)) ∧
      ∀ x i, (G x i).1 = setRowState x.1 c.T bank (16 * rg + i) (loadRows mrg rk
        (loadVals (setGroupKind D c.T bank rg rk) D.mem a) (rowState x.1 c.T bank (16 * rg + i)) i) := by
  rw [rsldIssue, if_neg hrk]
  generalize jetLines = lines at hlines ⊢
  induction lines using forEvery with
  | h lines =>
    simp only [hentry, if_neg hkind, takePort_free 2 hfree, hlines, maskLines_nil]
    exact ⟨_, _, _, rfl, rfl, fun _ _ => rfl⟩

end

theorem isRaise_jetSts (half : Half) : isRaise (A.JET_STS (hn half)) = false := by
  cases half <;> decide

/-- A failing op leaves jets and memory, and shows its exception. -/
theorem jetRaise_shows (d : Dev) (c : CasCtx) (half : Half) (hh : c.h = hn half) (f : JetFail) :
    (jetRaise d c f).jet = d.jet ∧ (jetRaise d c f).mem = d.mem ∧
      fget (jetRaise d c f) (A.JET_STS (hn half)) F.JET_STS_EXC = f.1 % 256 := by
  unfold jetRaise
  rw [hh]
  refine ⟨?_, ?_, ?_⟩
  · rw [raise_jet, fset_jet, fset_jet]
  · rw [raise_mem, fset_mem, fset_mem]
  · rw [(keepsRegs_raise _ _ _ _ _).fget (isRaise_jetSts half),
      fget_fset_apart _ _ _ _ _ _ (by decide) (by decide) (by decide), fget_fset_self _ _ _ _ (by decide)]
    rfl

/-- Settles O31: the rows of the group are set one after the other, each from its own state; a group of another kind refuses. -/
theorem rowStatesAreReducedLoadedAndMerged : Obligations.RowStatesAreReducedLoadedAndMerged := by
  intro iss terr bank rg rk gp s d T r0 rowsAre hrun hecc hrk
  obtain ⟨r, hr, hside⟩ := jetCounted_eq d iss terr
  have hwide : Leaves [.jet, .mach, .hst, .rvrUse] (jetReports iss.half) d (d.withRegs r) := hside.widen (by simp)
  have hrk' : rk.toNat ≠ 3 := toNat_ne_three hrk
  have hdone : ∀ {c : Instr} {u : Dev} {q q' : Nat → FVal × FVal}, exec c s = .next { s with dev := u } →
      GroupSet d u T bank.toNat rg.toNat rk.toNat q → Leaves [.jet, .mach, .hst, .rvrUse] (jetReports iss.half) d u →
      (∀ i, q i = q' i) → ∃ v, exec c s = .next v ∧ rowsAre v q' := by
    rintro c u q q' hc ⟨hrows, hothers, hkind, hbytes, hlands, htables⟩ hleaves hq
    obtain rfl : q = q' := funext hq
    exact ⟨_, hc, hrows, hothers, hkind, hbytes, hlands, htables, hleaves.1, hleaves.2⟩
  refine ⟨?_, ?_, ?_⟩
  · intro va vb init hinit
    let c := jetCtx d iss terr.toNat (encodeJet (.red va vb bank rg rk init gp)).toNat
    have hone : (init.toNat = 1) = (init = 1#1) := by
      rw [← BitVec.toNat_inj]
      rfl
    obtain ⟨G, x, st, hx, heq, hG⟩ := redIssue_eq (d := d.withRegs r) (c := c) (bank := bank.toNat) (rg := rg.toNat)
      (init := init.toNat) va.toNat vb.toNat gp.toNat hrk' (by
        rintro ⟨h0, hk⟩
        obtain h1 | h1 := hinit
        · rw [h1] at h0
          exact absurd h0 (by decide)
        · exact hk h1)
    have hissue := jetIssue_running (terr := terr) (op := .red va vb bank rg rk init gp) rfl hrun hecc
    rw [hr] at hissue
    rw [show jetOp (d.withRegs r) _ (.red va vb bank rg rk init gp) = _ from heq] at hissue
    obtain ⟨hset, hleaves⟩ := groupSet_of_fold (half := iss.half) (by simp) (by simp) (by simp) hG hx hissue
      (d := d) (p := d.jet.portFree) rfl hwide
    refine hdone rfl hset hleaves fun i => ?_
    simp only [redRows, hone]
    rfl
  · intro va vb hkind
    have hissue := jetIssue_running (terr := terr) (op := .red va vb bank rg rk 0#1 gp) rfl hrun hecc
    have hop := redIssue_refused (d := d.withRegs r) (c := jetCtx d iss terr.toNat (encodeJet (.red va vb bank rg rk 0#1 gp)).toNat)
      (bank := bank.toNat) (rg := rg.toNat) va.toNat vb.toNat gp.toNat (init := (0#1).toNat) rfl hrk' hkind
    rw [hr, show jetOp (d.withRegs r) _ (.red va vb bank rg rk 0#1 gp) = _ from hop] at hissue
    obtain ⟨hjet, hmem, hexc⟩ := jetRaise_shows (d.withRegs r)
      (jetCtx d iss terr.toNat (encodeJet (.red va vb bank rg rk 0#1 gp)).toNat) iss.half rfl
      (0x53, stateDetail bank.toNat rg.toNat)
    exact ⟨_, next_congr rfl hissue, hjet, hmem, hexc⟩
  · intro desc mrg a hentry hmrg hfree hclear v
    let c := jetCtx d iss terr.toNat (encodeJet (.rsld bank rg desc rk mrg gp)).toNat
    have hone : (mrg.toNat = 1) = (mrg = 1#1) := by
      rw [← BitVec.toNat_inj]
      rfl
    obtain ⟨D, hlines, hDmem, hDcas, hDjet, hDside⟩ := jetLines_quiet (ps := [.jet, .mach, .hst, .rvrUse]) (c := c)
      (e := d.withRegs r) (by simp) (by simp) rfl rfl rfl hclear hside rfl
    obtain ⟨G, x, st, hx, heq, hG⟩ := rsldIssue_eq (d := d.withRegs r) (c := c) (bank := bank.toNat) (rg := rg.toNat)
      (mrg := mrg.toNat) gp.toNat hrk' hentry (by
        rintro ⟨h1, hk⟩
        obtain h0 | h0 := hmrg
        · rw [h0] at h1
          exact absurd h1 (by decide)
        · exact hk h0) hfree hlines
    have hissue := jetIssue_running (terr := terr) (op := .rsld bank rg desc rk mrg gp) rfl hrun hecc
    rw [hr] at hissue
    rw [show jetOp (d.withRegs r) _ (.rsld bank rg desc rk mrg gp) = _ from heq] at hissue
    obtain ⟨hset, hleaves⟩ := groupSet_of_fold (half := iss.half) (by simp) (by simp) (by simp) hG hx hissue
      (d := d) hDjet hDside
    refine hdone (next_congr rfl rfl) hset hleaves fun i => ?_
    have hbyte : ∀ k, jetByte (setGroupKind D c.T bank.toNat rg.toNat rk.toNat) D.mem k = jetByte d d.mem k := fun k => by
      rw [hDmem, jetByte_congr (d := d) (by rw [setGroupKind, withJet_cas, hDcas])]
    simp only [loadRows, loadVals, hone, funext hbyte, v]
    rfl

end Sys2Proof.Machine
end

section
/-! PROOFS. Jet loads, stores, the tie-sum and table loads (06, R192 to R195, R203, R209, R211). -/

namespace Sys2Proof.Machine

/-! ### What each op puts on its way -/

/-- A package with one result more on its way, and the half's jets busy with it. -/
def resultSent (d : Dev) (h t : Nat) (l : JetLand) : Dev :=
  jetBusy (d.withJet { d.jet with lands := d.jet.lands ++ [l] }) h t

theorem resultSent_adds {d D E : Dev} {p : List (Nat × Nat)} (hE : E.jet = D.jet) (hD : D.jet = { d.jet with portFree := p })
    (h t : Nat) (l : JetLand) : ResultAdded d (resultSent E h t l) l ∧ (resultSent E h t l).jet.portFree = p := by
  unfold resultSent jetBusy
  refine ⟨?_, ?_⟩
  · constructor <;> simp only [withJet_jet, hE, hD]
  · simp only [withJet_jet, hE, hD]

theorem leaves_resultSent {ps : List Piece} {p : Nat → Bool} {d e : Dev} (hjet : Piece.jet ∈ ps) (h t : Nat) (l : JetLand) :
    Leaves ps p d (resultSent e h t l) ↔ Leaves ps p d e := by
  unfold resultSent jetBusy
  rw [leaves_withJet_iff hjet, leaves_withJet_iff hjet]

theorem groupVals_congr {d D : Dev} (hcas : D.cas = d.cas) (m : List Host.Cell) (e : TileEntry) (t : TileAt) (segs g : Nat) :
    groupVals D m e t segs g = groupVals d m e t segs g := by
  have hbyte : jetByte D m = jetByte d m := funext (jetByte_congr hcas m)
  have helem : jetElem D m t = jetElem d m t := by
    funext i
    simp only [jetElem, jetCode, hbyte]
  rw [groupVals, groupVals, helem]

theorem collect_ok {α : Type} {f : Nat → Except JetFail α} {l : List α} (h : ∀ b (hb : b < l.length), f b = .ok l[b]) :
    collect ((List.range l.length).map f) = .ok l := by
  induction l generalizing f with
  | nil => rfl
  | cons a l ih =>
    have hrest := ih (f := fun b => f (b + 1)) fun b hb => h (b + 1) (by simpa using hb)
    rw [List.length_cons, List.range_succ_eq_map, List.map_cons, List.map_map]
    simp only [collect, h 0 (by simp), List.getElem_cons_zero]
    rw [show collect (List.map (f ∘ Nat.succ) (List.range l.length)) = .ok l from hrest]

section
variable {d D : Dev} {c : CasCtx} {e : TileEntry} {desc : Nat}

theorem jldIssue_eq {vd rg w rnd nfm : Nat} {t : TileAt} (he : jetEntry d c desc = .ok e) (hrnd : rnd < 2)
    (hrg : rgOk w rg = true) (hw : widthFits e.fmt w = true) (ht : jetTile d c e e.base (laneSegs w) rg = .ok t)
    (hfree : sget 0 c.T d.jet.portFree ≤ c.t)
    (hlines : jetLines (portTaken d c (portHold e.fmt)) c (portHold e.fmt)
      (groupRuns e t.data.toNat t.scale.toNat (laneSegs w) rg) = (D, [])) :
    ∃ ev, jldIssue d c vd desc rg w rnd nfm = .ok (resultSent (reportEvents D c.h false (opStep D) srcJET c.word ev) c.h
      (c.t + 32) ⟨c.t + 32, some (32 * c.T + vd, codesBytes w ((groupVals D D.mem e t (laneSegs w) rg).map
        fun v => (convTo (laneFmt w) (rndOf rnd) (nfm == 1) v).code)), none, []⟩) := by
  rw [jldIssue]
  generalize jetLines = lines at hlines ⊢
  induction lines using forEvery with
  | h lines =>
    simp only [he, hrg, hw, show ¬ rnd ≥ 2 by omega, ht, takePort_free _ hfree, hlines, maskLines_nil, List.map_map,
      Bool.true_eq_false, or_self, if_false]
    exact ⟨_, rfl⟩

theorem jstIssue_eq {vs rg w rnd nfm gp : Nat} {t : TileAt} (he : jetEntry d c desc = .ok e) (hrnd : rnd < 2)
    (hrg : rgOk w rg = true) (hw : widthFits e.fmt w = true) (ht : jetTile d c e e.base (laneSegs w) rg = .ok t)
    (hfree : sget 0 c.T d.jet.portFree ≤ c.t)
    (hlines : jetLines (portTaken d c (portHold e.fmt)) c (portHold e.fmt)
      (groupRuns e t.data.toNat t.scale.toNat (laneSegs w) rg) = (D, [])) :
    ∃ ev, jstIssue d c vs desc rg w rnd nfm gp = .ok (resultSent (reportEvents D c.h (gp == 1) (opStep D) srcJET c.word ev)
      c.h (c.t + 32) ⟨c.t + 32, none, none, storeRuns e t (laneSegs w) rg ((chunks 128 (laneSegs w) (vecVals D c.T vs w)).map
        fun r => ((convRow e.fmt (rndOf rnd) (nfm == 1) r).1, (convRow e.fmt (rndOf rnd) (nfm == 1) r).2.1))⟩) := by
  rw [jstIssue]
  generalize jetLines = lines at hlines ⊢
  induction lines using forEvery with
  | h lines =>
    simp only [he, hrg, hw, show ¬ rnd ≥ 2 by omega, ht, takePort_free _ hfree, hlines, List.map_map,
      Bool.true_eq_false, or_self, if_false]
    exact ⟨_, rfl⟩

theorem rsstIssue_eq {bank rg a : Nat} (he : rowEntry d c desc rg = .ok a) (hfree : sget 0 c.T d.jet.portFree ≤ c.t)
    (hlines : jetLines (portTaken d c 2) c 2 [(a, 256)] = (D, [])) :
    rsstIssue d c bank rg desc = .ok (resultSent D c.h (c.t + 64) ⟨c.t + 64, none, none, [(a, ((List.range 16).map (fun i =>
      let p := rowState D c.T bank (16 * rg + i)
      leBytes 8 (encA40 p.1) ++ leBytes 8 (encA40 p.2))).flatten)]⟩) := by
  rw [rsstIssue]
  generalize jetLines = lines at hlines ⊢
  induction lines using forEvery with
  | h lines =>
    simp only [he, takePort_free _ hfree, hlines]
    rfl

theorem tldIssue_eq {tgt a : Nat} (he : jetEntry d c desc = .ok e) (hfmt : e.fmt = 0) (hbc : e.bc = false) (htr : e.tr = false)
    (ha : jetAt d c e 1024 0 16448 = .ok a)
    (hhead : ¬(signed 8 (leAt ((range' a 64).map (jetByte d d.mem)) 4 1) < -126 ∨
      signed 8 (leAt ((range' a 64).map (jetByte d d.mem)) 4 1) > 100 ∨ leAt ((range' a 64).map (jetByte d d.mem)) 5 3 ≠ 0 ∨
      leAt ((range' a 64).map (jetByte d d.mem)) 28 36 ≠ 0))
    (hfree : sget 0 c.T d.jet.portFree ≤ c.t) (hlines : jetLines (portTaken d c 6) c 6 [(a, 16448)] = (D, [])) :
    tldIssue d c tgt desc = .ok (resultSent D c.h (c.t + 48)
      ⟨c.t + 48, none, some (2 * c.T + tgt, (range' a 16448).map (jetByte D D.mem)), []⟩) := by
  rw [tldIssue]
  generalize jetLines = lines at hlines ⊢
  induction lines using forEvery with
  | h lines =>
    simp only [he, hfmt, hbc, htr, ha, if_neg hhead, takePort_free _ hfree, hlines, maskLines_nil, ne_eq, not_true_eq_false,
      Bool.false_eq_true, or_self, if_false]
    rfl

theorem tsumIssue_eq {vd rg nb gp : Nat} {ts : List TileAt} (he : jetEntry d c desc = .ok e) (hnb : nb ≠ 0)
    (hmx : isMx e.fmt = false) (hbc : e.bc = false) (hlen : ts.length = nb + 1)
    (hts : ∀ b (h : b < ts.length), jetTile d c e ((e.base : Int) + (b : Int) * e.bstr * (unitBytes e.fmt : Int)) 16 rg
      = .ok ts[b])
    (hfree : sget 0 c.T d.jet.portFree ≤ c.t)
    (hlines : jetLines (portTaken d c ((nb + 1) * portHold e.fmt)) c ((nb + 1) * portHold e.fmt)
      ((ts.map (fun t => groupRuns e t.data.toNat t.scale.toNat 16 rg)).flatten) = (D, [])) :
    ∃ ev, tsumIssue d c vd desc rg nb gp = .ok (resultSent (reportEvents D c.h (gp == 1) (opStep D) srcJET c.word ev) c.h
      (c.t + 32 + (nb + 1) * portHold e.fmt) ⟨c.t + 32 + (nb + 1) * portHold e.fmt, some (32 * c.T + vd, codesBytes 0
        ((List.range 2048).map (fun i => enc32 (f32 (tree false (padLog (nb + 1))
          ((ts.map (fun t => plain ((groupVals D D.mem e t 16 rg).getD i fzero))) ++
            List.replicate (2 ^ padLog (nb + 1) - (nb + 1)) (plain fzero))).h)))), none, []⟩) := by
  have hcollect := collect_ok hts
  rw [hlen] at hcollect
  rw [tsumIssue]
  generalize jetLines = lines at hlines ⊢
  induction lines using forEvery with
  | h lines =>
    simp only [he, hnb, hmx, hbc, hcollect, takePort_free _ hfree, hlines, maskLines_nil, List.map_map, Function.comp_def,
      Bool.false_eq_true, or_self, if_false]
    exact ⟨_, rfl⟩

end

/-! ### The ops -/

/-- The outcome of an op that read or stores memory: its result on its way, its port held, and nothing else but reports and
the use of the reservoir changed. -/
theorem memOp_sends {s d D E : Dev} {iss : Issue} {terr : BitVec 3} {op : JetOp} {hold t : Nat} {l : JetLand}
    (hd : d = settle (tick s iss.t)) (hrun : running d (.jet iss.half) = true) (hecc : iss.ecc = [])
    (hop : jetOp (jetCounted d iss terr) (jetCtx d iss terr.toNat (encodeJet op).toNat) op =
      .ok (resultSent E (hn iss.half) t l))
    (hjet : D.jet = { d.jet with portFree := sset 0 (8 * hn iss.half + terr.toNat % 8) (iss.t + hold) d.jet.portFree })
    (hD : Leaves [.jet, .mach, .hst, .rvrUse] (jetReports iss.half) d D) (hE : E.jet = D.jet)
    (hDE : Leaves [.jet, .mach, .hst, .rvrUse] (jetReports iss.half) D E) :
    ∃ u, timedOp s iss terr.toNat (fun d => jetIssue d iss terr.toNat op) = u ∧ ResultAdded d u l ∧
      sget 0 (8 * hn iss.half + terr.toNat % 8) u.jet.portFree = iss.t + hold ∧
      Leaves [.jet, .mach, .hst, .rvrUse] (jetReports iss.half) d u := by
  refine ⟨_, jetIssue_running hd hrun hecc, ?_⟩
  rw [hop]
  obtain ⟨hadded, hport⟩ := resultSent_adds (d := d) hE hjet (hn iss.half) t l
  refine ⟨hadded, ?_, (leaves_resultSent (by simp) _ _ _).2 (hD.trans hDE)⟩
  simp only [hport, sget_sset_self]

/-- Settles O32: each op works on the memory and the registers at issue, and its result is on its way. -/
theorem jetMemoryOpsDeliverTheirResults : Obligations.JetMemoryOpsDeliverTheirResults := by
  intro iss terr desc s e d T cx clear lands hrun hecc
  obtain ⟨r, hr, hside⟩ := jetCounted_eq d iss terr
  have hevents : ∀ {D : Dev} (gp st src word ev), (reportEvents D (hn iss.half) gp st src word ev).jet = D.jet ∧
      Leaves [.jet, .mach, .hst, .rvrUse] (jetReports iss.half) D (reportEvents D (hn iss.half) gp st src word ev) :=
    fun gp st src word ev =>
      ⟨(leavesJet_reportEvents (ps := [.mach, .hst]) (half := iss.half) (by simp) (by simp) leaves_self gp st src word ev).1
        .jet (by simp), leavesJet_reportEvents (by simp) (by simp) leaves_self gp st src word ev⟩
  have hlines : ∀ (op : JetOp) {hold : Nat} {runs : List (Nat × Nat)}, clear hold runs →
      ∃ D, jetLines (portTaken (d.withRegs r) (cx op) hold) (cx op) hold runs = (D, []) ∧ D.mem = d.mem ∧ D.cas = d.cas ∧
        D.jet = { d.jet with portFree := sset 0 T (iss.t + hold) d.jet.portFree } ∧
        Leaves [.jet, .mach, .hst, .rvrUse] (jetReports iss.half) d D := fun op hold runs h =>
    jetLines_quiet (c := cx op) (by simp) (by simp) rfl rfl rfl h.2 hside rfl
  have hlands : ∀ {c : Instr} {op : JetOp} {hold t : Nat} {l : JetLand} {D E : Dev},
      exec c s = act (fun d => timedOp d iss terr.toNat fun d => jetIssue d iss terr.toNat op) s →
      jetOp (d.withRegs r) (cx op) op = .ok (resultSent E (hn iss.half) t l) →
      D.jet = { d.jet with portFree := sset 0 T (iss.t + hold) d.jet.portFree } →
      Leaves [.jet, .mach, .hst, .rvrUse] (jetReports iss.half) d D →
      E.jet = D.jet ∧ Leaves [.jet, .mach, .hst, .rvrUse] (jetReports iss.half) D E → lands c hold l := by
    intro c op hold t l D E hc hop hjet hD hE
    rw [← hr] at hop
    obtain ⟨u, hu, ⟨hl, hb, hrows, hk, ht⟩, hport, hleaves⟩ := memOp_sends rfl hrun hecc hop hjet hD hE.1 hE.2
    rw [act, hu] at hc
    exact ⟨_, hc, hl, hb, hrows, hk, ht, hport, hleaves.1, hleaves.2⟩
  refine ⟨?_, ?_, ?_, ?_, ?_⟩
  · intro vd rg w rnd nfm t n he hrnd hrg hw ht hclear
    obtain ⟨D, hl, hmem, hcas, hjet, hD⟩ := hlines (.jld vd desc rg w rnd nfm) hclear
    obtain ⟨ev, heq⟩ := jldIssue_eq (d := d.withRegs r) (vd := vd.toNat) (nfm := nfm.toNat) he hrnd hrg hw ht hclear.1 hl
    rw [hmem, groupVals_congr hcas] at heq
    simp only [bit_beq] at heq
    exact hlands (op := .jld vd desc rg w rnd nfm) rfl heq hjet hD (hevents ..)
  · intro vs rg w rnd nfm gp t n he hrnd hrg hw ht hclear
    obtain ⟨D, hl, hmem, hcas, hjet, hD⟩ := hlines (.jst vs desc rg w rnd nfm gp) hclear
    obtain ⟨ev, heq⟩ := jstIssue_eq (d := d.withRegs r) (vs := vs.toNat) (nfm := nfm.toNat) (gp := gp.toNat)
      he hrnd hrg hw ht hclear.1 hl
    have hvals : vecVals D (cx (.jst vs desc rg w rnd nfm gp)).T vs.toNat w.toNat = vecVals d T vs.toNat w.toNat := by
      rw [vecVals, vecVals, vecCodes, vecCodes, vecBytes, vecBytes, hjet]
      rfl
    rw [hvals] at heq
    simp only [bit_beq] at heq
    exact hlands (op := .jst vs desc rg w rnd nfm gp) rfl heq hjet hD (hevents ..)
  · intro bank rg a he hclear
    obtain ⟨D, hl, hmem, hcas, hjet, hD⟩ := hlines (.rsst bank rg desc) hclear
    have heq := rsstIssue_eq (d := d.withRegs r) he (bank := bank.toNat) (rg := rg.toNat) hclear.1 hl
    have hrows : ∀ i, rowState D (cx (.rsst bank rg desc)).T bank.toNat i = rowState d T bank.toNat i := fun i => by
      rw [rowState, rowState, hjet]
      rfl
    simp only [hrows] at heq
    exact hlands (op := .rsst bank rg desc) rfl heq hjet hD ⟨rfl, leaves_self⟩
  · intro tgt a he hfmt hbc htr ha hhead hclear
    obtain ⟨D, hl, hmem, hcas, hjet, hD⟩ := hlines (.tld tgt desc) hclear
    obtain ⟨h1, h2, h3, h4⟩ := hhead
    have heq := tldIssue_eq (d := d.withRegs r) (tgt := tgt.toNat) he hfmt hbc htr ha (by
      rintro (h | h | h | h)
      · exact h1 h
      · exact absurd h2 (Int.not_le.2 h)
      · exact h h3
      · exact h h4) hclear.1 hl
    rw [hmem, show jetByte D d.mem = jetByte d d.mem from funext (jetByte_congr hcas _)] at heq
    exact hlands (op := .tld tgt desc) rfl heq hjet hD ⟨rfl, leaves_self⟩
  · intro vd rg nb gp ts n he hnb hmx hbc hlen hts hclear
    obtain ⟨D, hl, hmem, hcas, hjet, hD⟩ := hlines (.tsum vd desc rg nb gp) hclear
    obtain ⟨ev, heq⟩ := tsumIssue_eq (d := d.withRegs r) (vd := vd.toNat) (gp := gp.toNat) (nb := nb.toNat) he
      (fun h => hnb (BitVec.eq_of_toNat_eq h)) hmx hbc hlen hts hclear.1 hl
    simp only [hmem, groupVals_congr hcas] at heq
    exact hlands (op := .tsum vd desc rg nb gp) rfl heq hjet hD (hevents ..)

end Sys2Proof.Machine
end

section
/-! PROOFS. The ephemeris: resolution, the counts of holds and drops, LAG and the floor (08, R271 to R278). -/

namespace Sys2Proof.Machine

section
variable {d : Dev}

/-! ### What resolution answers (R274) -/

/-- A resolution that succeeds names a slot; one that fails names an exception number of the ephemeris. -/
theorem ephResolve_answers {h : Nat} {st : StrandId} {desc : Nat} :
    (∀ r, ephResolve d h st desc = .ok r → r.k < 16384) ∧ (∀ f, ephResolve d h st desc = .error f → f.number < 256) := by
  unfold ephResolve
  split
  · exact ⟨fun _ h => (nomatch h), fun _ h => by cases h; simp⟩
  · extract_lets rill i e tag?
    clear_value tag?
    split
    · exact ⟨fun _ h => (nomatch h), fun _ h => by cases h; simp⟩
    · split
      · exact ⟨fun _ h => (nomatch h), fun _ h => by cases h; simp⟩
      · next hi =>
        split
        · exact ⟨fun _ h => (nomatch h), fun _ h => by cases h; simp⟩
        · split
          · exact ⟨fun _ h => (nomatch h), fun _ h => by cases h; simp⟩
          · split
            · next k hk =>
              refine ⟨fun _ h => ?_, fun _ h => (nomatch h)⟩
              cases h
              have hmem := List.mem_of_find?_eq_some hk
              obtain ⟨m, hm, rfl⟩ := List.mem_map.1 hmem
              have hm := List.mem_range.1 hm
              simp only [e]
              omega
            · split
              · exact ⟨fun _ h => (nomatch h), fun _ h => by cases h; simp⟩
              · exact ⟨fun _ h => (nomatch h), fun _ h => by cases h; simp⟩

/-! ### Slots, and what retirement leaves of them (R278) -/

theorem isSlot_slot {k : Nat} (h : k < 16384) : isSlot (A.EPH_SLOT k) = true := by
  rw [isSlot, Bool.and_eq_true, decide_eq_true_eq, decide_eq_true_eq]
  simp only [A.EPH_SLOT]
  omega

theorem slot_injective {j k : Nat} (h : j ≠ k) : A.EPH_SLOT j ≠ A.EPH_SLOT k := by
  simp only [A.EPH_SLOT]
  omega

theorem slot_ne_of_lt {a : Nat} (k : Nat) (h : a < 0xA20000) : A.EPH_SLOT k ≠ a := by
  simp only [A.EPH_SLOT]
  omega

theorem retired_is_slot {k : Nat} (hk : k ∈ (ephSlots d).filter (retires d)) : k < 16384 := by
  obtain ⟨r, hr, rfl⟩ := List.mem_map.1 (List.mem_filter.1 hk).1
  have hslot := (List.mem_filter.1 hr).2
  rw [Bool.and_eq_true, decide_eq_true_eq, decide_eq_true_eq] at hslot
  simp only [A.EPH_SLOT] at hslot ⊢
  omega

theorem leaves_retired {ps : List Piece} {p : Nat → Bool} {e : Dev} (hp : ∀ a, isSlot a = true → p a = true)
    (h : Leaves ps p d e) : Leaves ps p d (ephRetire e) :=
  h.foldl fun _ _ hk he => (leaves_fset_iff (hp _ (isSlot_slot (retired_is_slot hk)))).2 he

/-- Retirement changes nothing of a slot but its state. -/
theorem fget_ephRetire {a : Nat} {f : Fld} (hf : f.ok = true) (hstate : F.EPH_SLOT_STATE.apart f = true) :
    fget (ephRetire d) a f = fget d a f := by
  have hfold : ∀ (l : List Nat) (e : Dev), fget (l.foldl (fun d k => setSlotState d k 0) e) a f = fget e a f := by
    intro l
    induction l with
    | nil => exact fun _ => rfl
    | cons k l ih =>
      intro e
      rw [List.foldl_cons, ih, setSlotState, fget_fset_apart _ _ _ _ _ _ (by decide) hf hstate]
  rw [ephRetire]
  exact hfold _ d

theorem slotRc_ephRetire (k : Nat) : slotRc (ephRetire d) k = slotRc d k := fget_ephRetire (by decide) (by decide)
theorem slotTag_ephRetire (k : Nat) : slotTag (ephRetire d) k = slotTag d k := fget_ephRetire (by decide) (by decide)

/-! ### The counts of an op that resolves -/

/-- The registers that RES, HOLD and DROP may change. -/
def isHeld (a : Nat) : Bool := isSlot a || these [A.EPH_HOLDS, A.EPH_DROPS] a

theorem isHeld_of_isSlot {a : Nat} (h : isSlot a = true) : isHeld a = true := by
  rw [isHeld, h, Bool.true_or]

/-- An op on slot `k` that leaves `rc` holds there. -/
structure Counted (d e : Dev) (k rc : Nat) : Prop where
  own : slotRc e k = rc
  others : ∀ j, j < 16384 → j ≠ k → slotRc e j = slotRc d j
  tags : ∀ j, j < 16384 → slotTag e j = slotTag d j
  leaves : Leaves [.ephRes] isHeld d e

theorem ephCount_res {r : Resolved} (rill : Nat) : ∃ e, ephCount d 0 r rill = .ok e ∧ Counted d e r.k (slotRc d r.k) :=
  ⟨d, rfl, rfl, fun _ _ _ => rfl, fun _ _ => rfl, leaves_self⟩

/-- The count of a slot set, and a counter of the ephemeris counted on. -/
theorem counted_set {k rc a : Nat} {f : Fld} (hk : k < 16384) (hrc : rc < 65536) (ha : a = A.EPH_HOLDS ∨ a = A.EPH_DROPS) :
    Counted d (finc (fset d (A.EPH_SLOT k) F.EPH_SLOT_RC rc) a f 1) k rc := by
  have hlow : a < 0xA20000 := by
    obtain rfl | rfl := ha <;> decide
  have hheld : isHeld a = true := by
    obtain rfl | rfl := ha <;> decide
  have hother : ∀ (e : Dev) (j : Nat) (g : Fld), fget (finc e a f 1) (A.EPH_SLOT j) g = fget e (A.EPH_SLOT j) g :=
    fun e j g => fget_fset_ne _ (slot_ne_of_lt _ hlow) _ _ _
  refine ⟨?_, fun j _ hj => ?_, fun j _ => ?_, ?_⟩
  · rw [slotRc, hother, fget_fset_self _ _ _ _ (by decide)]
    exact Nat.mod_eq_of_lt hrc
  · rw [slotRc, hother, fget_fset_ne _ (slot_injective hj)]
    rfl
  · rw [slotTag, hother, fget_fset_apart _ _ _ _ _ _ (by decide) (by decide) (by decide)]
    rfl
  · rw [leaves_finc_iff hheld, leaves_fset_iff (isHeld_of_isSlot (isSlot_slot hk))]
    exact leaves_self

theorem ephCount_hold {r : Resolved} (rill : Nat) (hk : r.k < 16384) (h : slotRc d r.k < 65535) :
    ∃ e, ephCount d 1 r rill = .ok e ∧ Counted d e r.k (slotRc d r.k + 1) :=
  ⟨_, if_neg (by omega), counted_set hk (by omega) (.inl rfl)⟩

theorem ephCount_drop {r : Resolved} (rill : Nat) (hk : r.k < 16384) (h : 0 < slotRc d r.k) :
    ∃ e, ephCount d 2 r rill = .ok e ∧ Counted d e r.k (slotRc d r.k - 1) :=
  ⟨_, if_neg (by omega), counted_set hk (by have : slotRc d r.k < 65536 := fget_lt ..; omega) (.inr rfl)⟩

theorem slotBase_counted {e : Dev} {k rc : Nat} (h : Counted d e k rc) (j : Nat) (hj : j < 16384) :
    slotBase e j = slotBase d j := by
  have hent : isHeld (A.EPH_ENT (j / 8)) = false := by
    rw [Bool.eq_false_iff, isHeld, Ne, Bool.or_eq_true, isSlot, Bool.and_eq_true, decide_eq_true_eq, decide_eq_true_eq,
      these_iff]
    simp only [A.EPH_ENT, A.EPH_SLOT, A.EPH_HOLDS, A.EPH_DROPS, List.mem_cons, List.not_mem_nil, or_false]
    omega
  rw [slotBase, slotBase, h.leaves.2.fget hent, h.leaves.2.fget hent]

/-- An op that resolves and counts keeps its base for the ops of its half-word, and retirement follows. -/
theorem ephOp_counts {e : Dev} {iss : Issue} {word up desc rc : Nat} {r : Resolved}
    (hr : ephResolve d (hn iss.half) iss.strand desc = .ok r) (hk : r.k < 16384)
    (he : ephCount d up r (ertRill d (hn iss.half) desc) = .ok e) (hc : Counted d e r.k rc) :
    sfind (hn iss.half) (ephOp d iss word up desc).ephRes = some ⟨iss.t, some (slotBase d r.k), false⟩ ∧
      Counted d (ephOp d iss word up desc) r.k rc := by
  have hop : ephOp d iss word up desc = ephRetire (setRes e (hn iss.half) iss.t (some (slotBase e r.k)) false) := by
    simp only [ephOp, hr, he]
  have hres : Leaves [] isSlot (setRes e (hn iss.half) iss.t (some (slotBase e r.k)) false) (ephOp d iss word up desc) := by
    rw [hop]
    exact leaves_retired (fun _ h => h) leaves_self
  refine ⟨?_, ?_, fun j hj hne => ?_, fun j hj => ?_, ?_⟩
  · rw [show (ephOp d iss word up desc).ephRes = _ from hres.1 .ephRes (by simp), setRes, withEphRes_ephRes, sfind_sput_self,
      slotBase_counted hc r.k hk]
  · rw [hop, slotRc_ephRetire]
    exact hc.own
  · rw [hop, slotRc_ephRetire]
    exact hc.others j hj hne
  · rw [hop, slotTag_ephRetire]
    exact hc.tags j hj
  · refine Leaves.trans ?_ (hres.weaken (by simp) fun a h => ?_)
    · rw [setRes, leaves_withEphRes_iff (by simp)]
      exact hc.leaves
    · rw [isHeld, Bool.or_eq_false_iff] at h
      exact h.1

/-! ### Failures, LAG and FLOOR -/

theorem isRaise_ephSts : isRaise A.EPH_STS = false := by decide

theorem isRaise_slot {k : Nat} (hk : k < 16384) : isRaise (A.EPH_SLOT k) = false := by
  rw [Bool.eq_false_iff, isRaise, Ne, Bool.or_eq_true, isReport_iff, isCounter_iff, these_iff]
  simp only [A.EPH_SLOT, A.SEQ_STS, A.SEQ_CTL, A.TST_CAPSTS, List.mem_cons, List.not_mem_nil, or_false]
  omega

/-- A failing op gives no base, shows its exception, and leaves slots and memory. -/
theorem ephFail_shows {iss : Issue} {word : Nat} {f : EphFail} (hf : f.number < 256) :
    sfind (hn iss.half) (ephFail d iss word f).ephRes = some ⟨iss.t, none, true⟩ ∧
      fget (ephFail d iss word f) A.EPH_STS F.EPH_STS_EXC = f.number ∧
      (∀ k, k < 16384 → regGet (ephFail d iss word f) (A.EPH_SLOT k) = regGet d (A.EPH_SLOT k)) ∧
      ∀ a, memGet (ephFail d iss word f).mem a = memGet d.mem a := by
  unfold ephFail ephRaise setRes
  refine ⟨?_, ?_, fun k hk => ?_, fun a => ?_⟩
  · rw [raise_ephRes, fset_ephRes, fset_ephRes, fset_ephRes, withEphRes_ephRes, sfind_sput_self]
  · rw [(keepsRegs_raise _ _ _ _ _).fget isRaise_ephSts, fget_fset_apart _ _ _ _ _ _ (by decide) (by decide) (by decide),
      fget_fset_apart _ _ _ _ _ _ (by decide) (by decide) (by decide), fget_fset_self _ _ _ _ (by decide)]
    exact Nat.mod_eq_of_lt hf
  · rw [keepsRegs_raise _ _ _ _ _ _ (isRaise_slot hk), regGet_fset_ne _ (slot_ne_of_lt k (by decide)),
      regGet_fset_ne _ (slot_ne_of_lt k (by decide)), regGet_fset_ne _ (slot_ne_of_lt k (by decide))]
    rfl
  · rw [raise_mem, fset_mem, fset_mem, fset_mem, withEphRes_mem]

theorem ephOp_fails {iss : Issue} {word up desc : Nat} {f : EphFail}
    (hf : ephResolve d (hn iss.half) iss.strand desc = .error f) : ephOp d iss word up desc = ephFail d iss word f := by
  rw [ephOp, hf]

/-- The floor that FLOOR asks for is pending; the floor in force and LAG stand. -/
theorem ephFloor_pends (k : Nat) : let floor := (curStep d + 1 + 65536 - k) % 65536
    fget (ephFloor d k) A.EPH_TAG F.EPH_TAG_PFV = 1 ∧
      fget (ephFloor d k) A.EPH_TAG F.EPH_TAG_PFTAG = (if fget d A.EPH_TAG F.EPH_TAG_PFV = 0 ∨
        tagOlder (fget d A.EPH_TAG F.EPH_TAG_PFTAG) floor = true then floor else fget d A.EPH_TAG F.EPH_TAG_PFTAG) ∧
      fget (ephFloor d k) A.EPH_TAG F.EPH_TAG_FTAG = fget d A.EPH_TAG F.EPH_TAG_FTAG ∧
      fget (ephFloor d k) A.EPH_TAG F.EPH_TAG_LAG = fget d A.EPH_TAG F.EPH_TAG_LAG ∧
      Leaves [] (these [A.EPH_TAG]) d (ephFloor d k) := by
  intro floor
  have htag : these [A.EPH_TAG] A.EPH_TAG = true := by decide
  have hfloor : floor < 65536 := Nat.mod_lt _ (by decide)
  have hcond : (fget d A.EPH_TAG F.EPH_TAG_PFV = 0 || tagOlder (fget d A.EPH_TAG F.EPH_TAG_PFTAG) floor) = true ↔
      (fget d A.EPH_TAG F.EPH_TAG_PFV = 0 ∨ tagOlder (fget d A.EPH_TAG F.EPH_TAG_PFTAG) floor = true) := by
    simp
  unfold ephFloor
  rw [fget_fset_self _ _ _ _ (by decide)]
  simp only [fget_fset_apart _ _ _ _ _ _ (show F.EPH_TAG_PFV.ok = true by decide) (show F.EPH_TAG_PFTAG.ok = true by decide)
      (by decide), fget_fset_apart _ _ _ _ _ _ (show F.EPH_TAG_PFV.ok = true by decide)
      (show F.EPH_TAG_FTAG.ok = true by decide) (by decide), fget_fset_apart _ _ _ _ _ _
      (show F.EPH_TAG_PFV.ok = true by decide) (show F.EPH_TAG_LAG.ok = true by decide) (by decide), leaves_fset_iff htag]
  by_cases h : fget d A.EPH_TAG F.EPH_TAG_PFV = 0 ∨ tagOlder (fget d A.EPH_TAG F.EPH_TAG_PFTAG) floor = true
  · rw [if_pos (hcond.2 h), if_pos h, fget_fset_self _ _ _ _ (by decide),
      fget_fset_apart _ _ _ _ _ _ (by decide) (by decide) (by decide),
      fget_fset_apart _ _ _ _ _ _ (by decide) (by decide) (by decide), leaves_fset_iff htag]
    exact ⟨rfl, Nat.mod_eq_of_lt hfloor, rfl, rfl, leaves_self⟩
  · rw [if_neg (mt hcond.1 h), if_neg h]
    exact ⟨rfl, rfl, rfl, rfl, leaves_self⟩

end

/-! ### The ops -/

theorem ephIssue_running {s d : Dev} {iss : Issue} {op : EphOp} (hd : d = landCommits (settle (tick s iss.t)))
    (hrun : running d .eph = true) : ephIssue s iss op = match op with
      | .res desc => ephOp d iss (encodeEph op).toNat 0 desc.toNat
      | .hold desc => ephOp d iss (encodeEph op).toNat 1 desc.toNat
      | .drop desc => ephOp d iss (encodeEph op).toNat 2 desc.toNat
      | .lag arg =>
        if iss.half = .B ∨ ephSmax d < arg.toNat then ephFail d iss (encodeEph op).toNat ⟨0x70, 0, 0, 0, 0, 0⟩
        else setRes (fset d A.EPH_TAG F.EPH_TAG_LAG arg.toNat) (hn iss.half) iss.t none false
      | .floor k =>
        if iss.half = .B then ephFail d iss (encodeEph op).toNat ⟨0x70, 0, 0, 0, 0, 0⟩
        else setRes (ephFloor d k.toNat) (hn iss.half) iss.t none false := by
  simp only [ephIssue, ← hd]
  rw [if_neg (by simp [hrun])] <;> rfl

/-- Settles O35: the three cases of a resolution, its failure, and the two ops of half A. -/
theorem ephemerisResolvesAndCounts : Obligations.EphemerisResolvesAndCounts := by
  intro iss desc s d h hrun
  refine ⟨?_, ?_, ?_, ?_⟩
  · intro r hr gives
    have hk : r.k < 16384 := ephResolve_answers.1 r hr
    have hgives : ∀ {c : Instr} {word up rc : Nat} {e : Dev}, exec c s = .next { s with dev := ephOp d iss word up desc.toNat } →
        ephCount d up r (ertRill d h desc.toNat) = .ok e → Counted d e r.k rc → gives c rc := by
      intro c word up rc e hc he hcount
      obtain ⟨hfind, hown, hothers, htags, hleaves⟩ := ephOp_counts (word := word) hr hk he hcount
      exact ⟨_, hc, hfind, hown, hothers, htags, hleaves.1, hleaves.2⟩
    refine ⟨?_, fun hlt => ?_, fun hpos => ?_⟩
    · obtain ⟨e, he, hcount⟩ := ephCount_res (d := d) (r := r) (ertRill d h desc.toNat)
      exact hgives (next_congr rfl (ephIssue_running (op := .res desc) rfl hrun)) he hcount
    · obtain ⟨e, he, hcount⟩ := ephCount_hold (d := d) (r := r) (ertRill d h desc.toNat) hk hlt
      exact hgives (next_congr rfl (ephIssue_running (op := .hold desc) rfl hrun)) he hcount
    · obtain ⟨e, he, hcount⟩ := ephCount_drop (d := d) (r := r) (ertRill d h desc.toNat) hk hpos
      exact hgives (next_congr rfl (ephIssue_running (op := .drop desc) rfl hrun)) he hcount
  · intro f hf c hc
    have hshows := fun word => ephFail_shows (d := d) (iss := iss) (word := word) (ephResolve_answers.2 f hf)
    obtain rfl | rfl | rfl := hc
    · exact ⟨_, next_congr rfl ((ephIssue_running (op := .res desc) rfl hrun).trans (ephOp_fails hf)), hshows _⟩
    · exact ⟨_, next_congr rfl ((ephIssue_running (op := .hold desc) rfl hrun).trans (ephOp_fails hf)), hshows _⟩
    · exact ⟨_, next_congr rfl ((ephIssue_running (op := .drop desc) rfl hrun).trans (ephOp_fails hf)), hshows _⟩
  · intro arg hA hle
    have hissue := (ephIssue_running (op := .lag arg) rfl hrun).trans (if_neg (by
      rintro (h | h)
      · rw [hA] at h
        cases h
      · exact absurd hle (Nat.not_le.2 h)))
    have htag : these [A.EPH_TAG] A.EPH_TAG = true := by decide
    have hleaves : Leaves [.ephRes] (these [A.EPH_TAG]) d
        (setRes (fset d A.EPH_TAG F.EPH_TAG_LAG arg.toNat) (hn iss.half) iss.t none false) := by
      rw [setRes, leaves_withEphRes_iff (by simp), leaves_fset_iff htag]
      exact leaves_self
    refine ⟨_, next_congr rfl hissue, ?_, ?_, ?_, hleaves.1, hleaves.2⟩
    · rw [setRes, fget_withEphRes]
      refine (fget_fset_self _ _ _ _ (by decide)).trans ?_
      exact Nat.mod_eq_of_lt arg.isLt
    · rw [setRes, fget_withEphRes]
      exact fget_fset_apart _ _ _ _ _ _ (by decide) (by decide) (by decide)
    · rw [setRes, fget_withEphRes]
      exact fget_fset_apart _ _ _ _ _ _ (by decide) (by decide) (by decide)
  · intro k hA floor
    have hissue := (ephIssue_running (op := .floor k) rfl hrun).trans (if_neg (by rw [hA]; simp))
    obtain ⟨hpfv, hpf, hft, hlag, hfloor⟩ := ephFloor_pends (d := d) k.toNat
    have hleaves : Leaves [.ephRes] (these [A.EPH_TAG]) d (setRes (ephFloor d k.toNat) (hn iss.half) iss.t none false) := by
      rw [setRes, leaves_withEphRes_iff (by simp)]
      exact hfloor.widen (by simp)
    refine ⟨_, next_congr rfl hissue, ?_, ?_, ?_, ?_, hleaves.1, hleaves.2⟩
    · exact (fget_withEphRes ..).trans hpfv
    · exact (fget_withEphRes ..).trans hpf
    · exact (fget_withEphRes ..).trans hft
    · exact (fget_withEphRes ..).trans hlag

end Sys2Proof.Machine
end

section
/-! PROOFS. Queued accesses by local offset (11, R375 to R389): with no unit marked by the scrub, a read moves the pools
alone and answers the bytes that stand, and a write stores its bytes and nothing else. -/

namespace Sys2Proof.Machine

section
variable {d e f : Dev}

/-- A step that moves pools, queues and their counters, and no byte of memory. -/
structure OnlyPools (d e : Dev) : Prop where
  leaves : Leaves [.ms] isAccess d e
  mem : e.mem = d.mem
  marks : e.ms.marks = d.ms.marks

/-- A step that stores bytes from an address on, and otherwise moves pools, queues and their counters. -/
structure StoresOnly (d e : Dev) (a : Nat) (bs : List Byte) : Prop where
  leaves : Leaves [.mem, .ms] isAccess d e
  mem : e.mem = memWrite d.mem a bs
  marks : e.ms.marks = d.ms.marks

theorem OnlyPools.refl (d : Dev) : OnlyPools d d := ⟨Leaves.refl _ _ _, rfl, rfl⟩

theorem OnlyPools.trans (h : OnlyPools d e) (k : OnlyPools e f) : OnlyPools d f :=
  ⟨h.leaves.trans k.leaves, k.mem.trans h.mem, k.marks.trans h.marks⟩

theorem isAccess_of_isCounter {a : Nat} (h : isAccess a = false) : isCounter a = false := (Bool.or_eq_false_iff.1 h).1

theorem isAccess_polSts {h : Nat} (hh : h < 2) : isAccess (A.POL_STS h) = true := by
  obtain rfl | rfl : h = 0 ∨ h = 1 := by omega
  · decide
  · decide

theorem onlyPools_count {h : Nat} (hh : h < 2) (d : Dev) (src inst k : Nat) (single : Bool) :
    OnlyPools d (count d h src inst k single) :=
  ⟨(onlyRegs_count d h src inst k single hh).leaves.weaken (by simp) fun _ => isAccess_of_isCounter, count_mem .., by
    rw [count_ms]⟩

theorem onlyPools_withMs (d : Dev) (m : MemSys) (h : m.marks = d.ms.marks) : OnlyPools d (d.withMs m) :=
  ⟨(leaves_withMs_iff (by simp)).2 (Leaves.refl _ _ _), rfl, h⟩

theorem onlyPools_fset {h : Nat} (hh : h < 2) (d : Dev) (f : Fld) (v : Nat) : OnlyPools d (fset d (A.POL_STS h) f v) :=
  ⟨(leaves_fset_iff (isAccess_polSts hh)).2 (Leaves.refl _ _ _), fset_mem .., by rw [fset_ms]⟩

theorem onlyPools_setPool {h : Nat} (hh : h < 2) (d : Dev) (p : Pool) : OnlyPools d (setPool d h p) :=
  (onlyPools_withMs d { d.ms with pools := sset Pool.init h p d.ms.pools } rfl).trans (onlyPools_fset hh _ _ _)

theorem onlyPools_foldl {β : Type} {g : Dev → β → Dev} {l : List β} (hg : ∀ e b, b ∈ l → e.ms.marks = d.ms.marks → OnlyPools e (g e b)) :
    OnlyPools d (l.foldl g d) := by
  suffices h : ∀ e, OnlyPools d e → OnlyPools d (l.foldl g e) from h d (OnlyPools.refl d)
  induction l with
  | nil => exact fun e he => he
  | cons b l ih =>
    exact fun e he => ih (fun e b hb => hg e b (by simp [hb])) _ (he.trans (hg e b (by simp) he.marks))

theorem onlyPools_lineBack {h : Nat} (hh : h < 2) (line : Nat) (hmarks : d.ms.marks = []) : OnlyPools d (lineBack d h line) := by
  have hcount := (onlyPools_count hh d 0x612 0 1 true).trans (onlyPools_count hh _ 0x621 (stackOf (128 * line) % 4) 2 false)
  have hclear (e : Dev) (he : e.ms.marks = []) (a n : Nat) : OnlyPools e (markClear (underClear e a n) a n) := by
    refine OnlyPools.trans (e := underClear e a n) (onlyPools_withMs e _ rfl) (onlyPools_withMs _ _ ?_)
    simp [underClear, he]
  exact hcount.trans (hclear _ (hcount.marks.trans hmarks) _ _)

theorem onlyPools_evict {h : Nat} (hh : h < 2) (line : Nat) (hmarks : d.ms.marks = []) : OnlyPools d (evict d h line) := by
  have hback (dirty : Bool) : OnlyPools d (if dirty then lineBack d h line else d) := by
    split
    · exact onlyPools_lineBack hh line hmarks
    · exact OnlyPools.refl d
  exact (hback _).trans (onlyPools_setPool hh _ _)

theorem markTouch_unmarked (hmarks : d.ms.marks = []) (a n : Nat) : markTouch d a n = d := by simp [markTouch, hmarks]

theorem onlyPools_poolTouch {line : Nat} (hline : homeHalf (128 * line) < 2) (hmarks : d.ms.marks = []) (write fill : Bool) :
    OnlyPools d (poolTouch d line write fill) := by
  have htouch (e : Dev) (p : Pool) (src : Nat) : OnlyPools e (count (setPool e (homeHalf (128 * line)) p) (homeHalf (128 * line))
      src 0 1 true) := (onlyPools_setPool hline _ _).trans (onlyPools_count hline _ _ _ _ _)
  simp only [poolTouch]
  split
  · exact htouch _ _ _
  · have hroom : ∀ v : Option Nat, OnlyPools d (match v with
        | some v => evict d (homeHalf (128 * line)) v
        | none => d)
      | some v => onlyPools_evict hline v hmarks
      | none => OnlyPools.refl d
    have hfill (e : Dev) (he : e.ms.marks = []) : OnlyPools e (if fill then
        markTouch (count e (homeHalf (128 * line)) 0x620 (stackOf (128 * line) % 4) 2 false) (128 * line) 128 else e) := by
      split
      · rw [markTouch_unmarked (by rw [count_ms, he])]
        exact onlyPools_count hline _ _ _ _ _
      · exact OnlyPools.refl e
    have hv := hroom (victim (poolOf d (homeHalf (128 * line))) line)
    exact (hv.trans (hfill _ (hv.marks.trans hmarks))).trans (htouch _ _ _)

/-- A line under bytes that lie in the stacks has its home in one of the two halves. -/
theorem homeHalf_linesUnder {a n line : Nat} (h : inStacks d a n = true) (hline : line ∈ linesUnder a n) :
    homeHalf (128 * line) < 2 := by
  have hn : n ≠ 0 := by rintro rfl; simp [linesUnder] at hline
  rw [linesUnder, if_neg hn] at hline
  obtain ⟨i, hi, rfl⟩ := List.mem_map.1 hline
  rw [List.mem_range] at hi
  rw [inStacks, if_neg hn, Bool.and_eq_true, Bool.and_eq_true] at h
  have hlast : (a + n - 1) / stackStride < 8 := by
    have := h.1.2
    rw [inStackByte, Bool.and_eq_true, decide_eq_true_eq] at this
    exact this.1
  have hle : 128 * (a / 128 + i) ≤ a + n - 1 := by omega
  have : 128 * (a / 128 + i) / stackStride ≤ (a + n - 1) / stackStride := Nat.div_le_div_right hle
  unfold homeHalf stackOf
  omega

theorem onlyPools_poolTouches {a n : Nat} (h : inStacks d a n = true) (hmarks : d.ms.marks = []) (write : Bool)
    (fill : Nat → Bool) : OnlyPools d ((linesUnder a n).foldl (fun e l => poolTouch e l write (fill l)) d) :=
  onlyPools_foldl fun _ _ hl hm => onlyPools_poolTouch (homeHalf_linesUnder h hl) (hm.trans hmarks) _ _

theorem resTerrace_lt {a T : Nat} (h : resTerrace a = some T) : T < 16 := by
  rw [resTerrace] at h
  split at h
  next hc => cases h; exact hc.2.1
  next => cases h

theorem onlyPools_countQueued (d : Dev) (a n : Nat) : OnlyPools d (countQueued d a n) := by
  unfold countQueued
  split
  next T hT =>
    have hh : T / 8 < 2 := by have := resTerrace_lt hT; omega
    exact (onlyPools_withMs d { d.ms with draws := d.ms.draws + 1 } rfl).trans
      ((onlyPools_count hh _ _ _ _ _).trans (onlyPools_count hh _ _ _ _ _))
  next => exact OnlyPools.refl d

theorem storesOnly_poolWrite {a : Nat} {bs : List Byte} (h : inStacks d a bs.length = true) (hmarks : d.ms.marks = []) :
    StoresOnly d (poolWrite d a bs) a bs := by
  have hp := onlyPools_poolTouches h hmarks true (fun l => !coversLine a bs.length l)
  unfold poolWrite
  generalize hE : (linesUnder a bs.length).foldl (fun d l => poolTouch d l true (!coversLine a bs.length l)) d = E
  rw [hE] at hp
  refine ⟨?_, ?_, hp.marks⟩
  · exact (leaves_withMs_iff (by simp)).2 ((leaves_withMem_iff (by simp)).2 (hp.leaves.weaken (by simp) fun _ => id))
  · show memWrite E.mem a bs = _
    rw [hp.mem]

theorem OnlyPools.storesOnly {a : Nat} {bs : List Byte} (h : OnlyPools (d.withMem (memWrite d.mem a bs)) e) :
    StoresOnly d e a bs :=
  ⟨((leaves_withMem_iff (by simp)).2 (Leaves.refl _ _ _)).trans (h.leaves.weaken (by simp) fun _ => id), h.mem, h.marks⟩

theorem qRead_plain {a n : Nat} (h : plainMem d a n) (hmarks : d.ms.marks = []) :
    (qRead d a n).2 = some (memRead d.mem a n) ∧ OnlyPools d (qRead d a n).1 := by
  unfold qRead
  split
  next hn => subst hn; exact ⟨rfl, OnlyPools.refl d⟩
  next hn =>
    split
    next hs =>
      have hp := onlyPools_poolTouches hs hmarks false (fun _ => true)
      exact ⟨congrArg (fun m => some (memRead m a n)) hp.mem, hp⟩
    next hs =>
      rw [if_pos (h.resolve_left hs)]
      exact ⟨rfl, onlyPools_countQueued d a n⟩

theorem qWrite_plain {a : Nat} {bs : List Byte} (h : plainMem d a bs.length) (hmarks : d.ms.marks = []) :
    (qWrite d a bs).2 = true ∧ StoresOnly d (qWrite d a bs).1 a bs := by
  unfold qWrite
  split
  next hn =>
    rw [List.isEmpty_iff] at hn
    subst hn
    exact ⟨rfl, Leaves.refl _ _ _, rfl, rfl⟩
  next hn =>
    split
    next hs => exact ⟨rfl, storesOnly_poolWrite hs hmarks⟩
    next hs =>
      rw [if_pos (h.resolve_left hs)]
      exact ⟨rfl, (onlyPools_countQueued _ a bs.length).storesOnly⟩

/-- What memory there is in the stacks follows their channels. -/
theorem inStacks_of_stackCh {a n : Nat} (hch : ∀ s, s < 8 → stackCh e s = stackCh d s) : inStacks e a n = inStacks d a n := by
  have hbyte (b : Nat) : inStackByte e b = inStackByte d b := by
    unfold inStackByte
    by_cases hb : b / stackStride < 8
    · rw [hch _ hb]
    · simp [hb]
  unfold inStacks
  rw [hbyte, hbyte]
  by_cases hn : n = 0
  · rw [if_pos hn, if_pos hn]
  by_cases hlast : (a + n - 1) / stackStride < 8
  · have hle : a / stackStride ≤ (a + n - 1) / stackStride := Nat.div_le_div_right (by omega)
    congr 2
    rw [Bool.eq_iff_iff, List.all_eq_true, List.all_eq_true]
    refine forall₂_congr fun s hs => ?_
    obtain ⟨i, hi, rfl⟩ := List.mem_map.1 hs
    rw [List.mem_range] at hi
    rw [hch _ (by omega)]
  · simp [inStackByte, hlast]

theorem plainMem_of_stackCh {a n : Nat} (hch : ∀ s, s < 8 → stackCh e s = stackCh d s) : plainMem e a n ↔ plainMem d a n := by
  rw [plainMem, plainMem, inStacks_of_stackCh hch]

theorem OnlyPools.plainMem_iff {a n : Nat} (h : OnlyPools d e) : plainMem e a n ↔ plainMem d a n :=
  plainMem_of_stackCh fun s hs => h.leaves.2.fget (by interval_cases s <;> decide) _

/-! ### Requests of queued clients without soft errors (R375, R549) -/

theorem eccAll_nil (d : Dev) (read : Bool) (a n : Nat) : eccAll d read a n [] = (d, []) := rfl

theorem map_zipIdx_fst (bs : List Byte) (a : Nat) :
    bs.zipIdx.map (fun p => if ([] : List Nat).contains (a + p.2) then 0 else p.1) = bs := by
  simp

theorem memRequest_read (d : Dev) (a n : Nat) : memRequest d a (.read n) [] =
    match (qRead d a n).2 with
    | none => ((qRead d a n).1, none)
    | some _ => ((qRead d a n).1, (qRead (qRead d a n).1 a n).2) := by
  obtain ⟨D, o, hq⟩ : ∃ D o, qRead d a n = (D, o) := ⟨_, _, rfl⟩
  simp only [memRequest, hq]
  cases o with
  | none => rfl
  | some bs =>
    refine Prod.ext rfl ?_
    show (qRead D a n).2.map (fun bs => bs.zipIdx.map (fun p => if ([] : List Nat).contains (a + p.2) then 0 else p.1)) =
      (qRead D a n).2
    cases (qRead D a n).2 with
    | none => rfl
    | some bs => rw [Option.map_some, map_zipIdx_fst]

theorem memRequest_write (d : Dev) (a : Nat) (bs : List Byte) : memRequest d a (.write bs) [] =
    ((qWrite d a bs).1, if (qWrite d a bs).2 then some [] else none) := by
  simp only [memRequest, eccAll_nil]
  rcases qWrite d a bs with ⟨u, b⟩
  cases b <;> rfl

theorem memRequest_read_plain {a n : Nat} (h : plainMem d a n) (hmarks : d.ms.marks = []) :
    (memRequest d a (.read n) []).2 = some (memRead d.mem a n) ∧ OnlyPools d (memRequest d a (.read n) []).1 := by
  obtain ⟨hr, hp⟩ := qRead_plain h hmarks
  obtain ⟨hr', -⟩ := qRead_plain (hp.plainMem_iff.2 h) (hp.marks.trans hmarks)
  rw [memRequest_read, hr]
  exact ⟨by rw [hr', hp.mem], hp⟩

theorem memRequest_write_plain {a : Nat} {bs : List Byte} (h : plainMem d a bs.length) (hmarks : d.ms.marks = []) :
    (memRequest d a (.write bs) []).2 = some [] ∧ StoresOnly d (memRequest d a (.write bs) []).1 a bs := by
  obtain ⟨hw, hp⟩ := qWrite_plain h hmarks
  rw [memRequest_write, hw]
  exact ⟨rfl, hp⟩

theorem StoresOnly.read {a : Nat} {bs : List Byte} (h : StoresOnly d e a bs) : memRead e.mem a bs.length = bs := by
  rw [h.mem, memRead_memWrite]

theorem StoresOnly.apart {a : Nat} {bs : List Byte} (h : StoresOnly d e a bs) (x : Nat) (hx : x < a ∨ a + bs.length ≤ x) :
    memGet e.mem x = memGet d.mem x := by
  rw [h.mem, memGet_memWrite_out _ _ _ _ hx]

/-- What answers a request: the answer is kept, and no register changes. -/
def answered (d : Dev) (o : Option (List Byte)) : Dev := d.withMs { d.ms with resp := o }

theorem answered_resp (d : Dev) (o : Option (List Byte)) : (answered d o).ms.resp = o := rfl

theorem answered_mem (d : Dev) (o : Option (List Byte)) : (answered d o).mem = d.mem := rfl

theorem complete_cpl (d : Dev) (c : Completion) : (complete d c).hst.cpl = c := rfl

theorem leaves_answered {ps : List Piece} {p : Nat → Bool} (h : Piece.ms ∈ ps) (o : Option (List Byte)) :
    Leaves ps p d (answered e o) ↔ Leaves ps p d e := leaves_withMs_iff h

/-! The ranges of the local map lie apart (R372). -/

theorem inStacks_lt {a n : Nat} (hn : 0 < n) (h : inStacks d a n = true) : a < 0xA000000000 := by
  rw [inStacks, if_neg (by omega), Bool.and_eq_true, Bool.and_eq_true, inStackByte, Bool.and_eq_true, decide_eq_true_eq,
    stackStride] at h
  have := h.1.1.1
  omega

theorem inAnyRes_range {a n : Nat} (h : inAnyRes a n = true) : 0x3F000000000 ≤ a ∧ a < 0x3F020000000 := by
  unfold inAnyRes at h
  split at h
  next T hT =>
    rw [resTerrace] at hT
    split at hT
    next hc => obtain ⟨h1, h2, -⟩ := hc; omega
    next => cases hT
  next => cases h

theorem inNv_range {a n : Nat} (h : inNv a n = true) : 0x3FD00000000 ≤ a ∧ a + n ≤ 0x3FD04000000 := by
  rw [inNv, Bool.and_eq_true, decide_eq_true_eq, decide_eq_true_eq] at h
  exact h

theorem inRegs_false {a : Nat} (h : a < 0x3FE00000000) : inRegs a = false := by
  rw [inRegs, Bool.and_eq_false_iff, decide_eq_false_iff_not]
  omega

theorem inRegs_plain {a n : Nat} (hn : 0 < n) (h : plainMem d a n) : inRegs a = false := by
  refine inRegs_false ?_
  obtain h | h := h
  · have := inStacks_lt hn h; omega
  · have := inAnyRes_range h; omega

theorem inNv_apart {a n : Nat} (hn : 0 < n) (h : inNv a n = true) :
    inRegs a = false ∧ inStacks d a n = false ∧ inAnyRes a n = false ∧ inWindow a n = false := by
  have := inNv_range h
  refine ⟨inRegs_false (by omega), ?_, ?_, ?_⟩
  · rw [Bool.eq_false_iff]
    exact fun hs => by have := inStacks_lt hn hs; omega
  · rw [Bool.eq_false_iff]
    exact fun hs => by have := inAnyRes_range hs; omega
  · rw [inWindow, Bool.and_eq_false_iff, decide_eq_false_iff_not, decide_eq_false_iff_not]
    omega

theorem memoryAccess_memory {a : Nat} {r : MemReq} {es : List Ecc} (h : inRegs a = false) :
    memoryAccess d a r es = answered (memRequest (settle d) a r es).1 (memRequest (settle d) a r es).2 := by
  simp only [memoryAccess, localAccess, h, Bool.false_eq_true, if_false]
  rfl

theorem memoryAccess_read_plain {a n : Nat} (hn : 0 < n) (h : plainMem (settle d) a n) (hmarks : (settle d).ms.marks = []) :
    (memoryAccess d a (.read n) []).ms.resp = some (memRead (settle d).mem a n) ∧
      Leaves [.ms] isAccess (settle d) (memoryAccess d a (.read n) []) := by
  obtain ⟨hr, hp⟩ := memRequest_read_plain h hmarks
  rw [memoryAccess_memory (inRegs_plain hn h)]
  exact ⟨hr, (leaves_answered (by simp) _).2 hp.leaves⟩

theorem memoryAccess_write_plain {a : Nat} {bs : List Byte} (hbs : bs ≠ []) (h : plainMem (settle d) a bs.length)
    (hmarks : (settle d).ms.marks = []) : (memoryAccess d a (.write bs) []).ms.resp = some [] ∧
      memRead (memoryAccess d a (.write bs) []).mem a bs.length = bs ∧
      (∀ x, x < a ∨ a + bs.length ≤ x → memGet (memoryAccess d a (.write bs) []).mem x = memGet (settle d).mem x) ∧
      Leaves [.mem, .ms] isAccess (settle d) (memoryAccess d a (.write bs) []) := by
  obtain ⟨hr, hp⟩ := memRequest_write_plain h hmarks
  rw [memoryAccess_memory (inRegs_plain (List.length_pos_iff.2 hbs) h)]
  exact ⟨hr, hp.read, hp.apart, (leaves_answered (by simp) _).2 hp.leaves⟩

theorem memoryAccess_read_nv {a n : Nat} (hn : 0 < n) (h : inNv a n = true) :
    memoryAccess d a (.read n) [] = answered (settle d) (some (memRead (settle d).nv (a - 0x3FD00000000) n)) := by
  obtain ⟨hreg, hst, hres, hwin⟩ := inNv_apart (d := settle d) hn h
  have hq : qRead (settle d) a n = (settle d, some (memRead (settle d).nv (a - 0x3FD00000000) n)) := by
    simp only [qRead, if_neg (Nat.ne_of_gt hn), hst, hres, hwin, h, Bool.false_eq_true, if_false, if_true]
  rw [memoryAccess_memory hreg, memRequest_read, hq]
  simp only [hq]

theorem memoryAccess_write_nv {a : Nat} {bs : List Byte} (hbs : bs ≠ []) (h : inNv a bs.length = true) :
    memoryAccess d a (.write bs) [] = answered (settle d) none := by
  obtain ⟨hreg, hst, hres, hwin⟩ := inNv_apart (d := settle d) (List.length_pos_iff.2 hbs) h
  have hempty : bs.isEmpty = false := by simpa using hbs
  rw [memoryAccess_memory hreg, memRequest_write, qWrite]
  simp only [hempty, hst, hres, hwin, Bool.false_eq_true, if_false]

theorem memoryAccess_unmapped {a n : Nat} (hn : 0 < n) (hreg : inRegs a = false) (hst : inStacks (settle d) a n = false)
    (hres : inAnyRes a n = false) (hwin : inWindow a n = false) (hnv : inNv a n = false) :
    memoryAccess d a (.read n) [] = answered (settle d) none := by
  have hq : qRead (settle d) a n = (settle d, none) := by
    simp only [qRead, if_neg (Nat.ne_of_gt hn), hst, hres, hwin, hnv, Bool.false_eq_true, if_false]
  rw [memoryAccess_memory hreg, memRequest_read, hq]

theorem leaves_answered_self (d : Dev) (o : Option (List Byte)) : Leaves [.ms] (fun _ => false) d (answered d o) :=
  (leaves_answered (by simp) o).2 leaves_self

theorem leaves_complete_self (d : Dev) (c : Completion) : Leaves [.hst] (fun _ => false) d (complete d c) :=
  (leaves_withHst_iff (by simp)).2 leaves_self

/-! Accesses through BAR4 (R549). -/

section
variable {off : Nat} (hhost : hostReaches d = true) (hup : d.tst.up = true)
include hhost hup

theorem bar4Access_read {n : Nat} {en : List Bool} (hawake : d.pwr.asleep = false)
    (h : inStacks d (fget d A.GLB_DBGWIN F.GLB_DBGWIN_BASE * 2 ^ 28 + off) n = true) (hmarks : d.ms.marks = []) :
    (bar4Access d off (.read n) en []).hst.cpl = .success ∧ (bar4Access d off (.read n) en []).ms.resp =
        some (memRead d.mem (fget d A.GLB_DBGWIN F.GLB_DBGWIN_BASE * 2 ^ 28 + off) n) ∧
      Leaves [.ms, .hst] isAccess d (bar4Access d off (.read n) en []) := by
  obtain ⟨hr, hp⟩ := memRequest_read_plain (.inl h) hmarks
  simp only [bar4Access, hhost, hup, hawake, h, Bool.not_true, Bool.or_false, Bool.false_eq_true, if_false]
  exact ⟨rfl, hr, (leaves_withHst_iff (by simp)).2 ((leaves_answered (by simp) _).2 (hp.leaves.weaken (by simp) fun _ => id))⟩

theorem bar4Access_aborts {n : Nat} {en : List Bool} {es : List Ecc} (h : d.pwr.asleep = true ∨
    inStacks d (fget d A.GLB_DBGWIN F.GLB_DBGWIN_BASE * 2 ^ 28 + off) n = false) :
    bar4Access d off (.read n) en es = complete d .completerAbort := by
  have hbad : (d.pwr.asleep || !inStacks d (fget d A.GLB_DBGWIN F.GLB_DBGWIN_BASE * 2 ^ 28 + off) n) = true := by
    rw [Bool.or_eq_true, Bool.not_eq_true']
    exact h
  simp only [bar4Access, hhost, hup, hbad, Bool.not_true, Bool.false_eq_true, if_false, if_true]

theorem bar4Access_write {bs : List Byte} (hawake : d.pwr.asleep = false)
    (h : inStacks d (fget d A.GLB_DBGWIN F.GLB_DBGWIN_BASE * 2 ^ 28 + off) bs.length = true) (hmarks : d.ms.marks = []) :
    (bar4Access d off (.write bs) [] []).hst.cpl = .success ∧
      StoresOnly d (memRequest d (fget d A.GLB_DBGWIN F.GLB_DBGWIN_BASE * 2 ^ 28 + off) (.write bs) []).1
        (fget d A.GLB_DBGWIN F.GLB_DBGWIN_BASE * 2 ^ 28 + off) bs ∧ (bar4Access d off (.write bs) [] []).mem =
        (memRequest d (fget d A.GLB_DBGWIN F.GLB_DBGWIN_BASE * 2 ^ 28 + off) (.write bs) []).1.mem := by
  obtain ⟨-, hp⟩ := memRequest_write_plain (.inl h) hmarks
  simp only [bar4Access, hhost, hup, hawake, h, Bool.not_true, Bool.or_false, Bool.false_eq_true, if_false, List.all_nil,
    if_true]
  exact ⟨rfl, hp, rfl⟩

end

end

/-- Settles O40: each range of the local map is tried in turn, and only the one that holds the bytes answers. -/
theorem memoryAccessesReachTheLocalMap : Obligations.MemoryAccessesReachTheLocalMap := by
  unfold Obligations.MemoryAccessesReachTheLocalMap
  refine ⟨fun t addr s hmarks => ⟨?_, ?_, ?_, ?_, ?_⟩, fun t off s hmarks => ⟨?_, ?_, ?_, ?_⟩⟩
  · intro n hn hplain
    obtain ⟨hr, hl⟩ := memoryAccess_read_plain hn hplain hmarks
    exact ⟨_, rfl, hr, hl.1, hl.2⟩
  · intro bs hbs hplain
    obtain ⟨hr, hread, hapart, hl⟩ := memoryAccess_write_plain hbs hplain hmarks
    exact ⟨_, rfl, hr, hread, hapart, hl.1, hl.2⟩
  · intro n hn hnv
    exact ⟨_, next_congr rfl (memoryAccess_read_nv hn hnv), answered_resp _ _,
      fun x => congrArg (memGet · x) (answered_mem _ _)⟩
  · intro bs hbs hnv
    have hl := leaves_answered_self (settle (observe s.dev t)) none
    exact ⟨_, next_congr rfl (memoryAccess_write_nv hbs hnv), answered_resp _ _, hl.1, hl.2⟩
  · intro n hn hreg hst hres hwin hnv
    have hl := leaves_answered_self (settle (observe s.dev t)) none
    exact ⟨_, next_congr rfl (memoryAccess_unmapped hn hreg hst hres hwin hnv), answered_resp _ _, hl.1, hl.2⟩
  · intro n en hhost hup hawake hin
    obtain ⟨hc, hr, hl⟩ := bar4Access_read (en := en) hhost hup hawake hin hmarks
    exact ⟨_, rfl, hc, hr, hl.1, hl.2⟩
  · intro n en hhost hup hbad
    have hl := leaves_complete_self (settle (observe s.dev t)) .completerAbort
    exact ⟨_, next_congr rfl (bar4Access_aborts hhost hup hbad), complete_cpl _ _, hl.1, hl.2⟩
  · intro bs hbs hhost hup hawake hin
    obtain ⟨hc, hp, hm⟩ := bar4Access_write hhost hup hawake hin hmarks
    refine ⟨_, rfl, hc, ?_, fun x hx => ?_⟩
    · exact (congrArg (fun m => memRead m _ _) hm).trans hp.read
    · exact (congrArg (fun m => memGet m x) hm).trans (hp.apart x hx)
  · intro r en hhost
    have hl := leaves_complete_self (settle (observe s.dev t)) .none
    refine ⟨_, next_congr rfl (e := complete (settle (observe s.dev t)) .none) ?_, complete_cpl _ _, hl.1, hl.2⟩
    simp only [bar4Access, hhost, Bool.not_false, if_true]

end Sys2Proof.Machine
end

section
/-! PROOFS. Stack errors, the patrol scrub, row remap, lost channels, and the retries of the die bridge (11, R393 to R407). -/

namespace Sys2Proof.Machine

section
variable {ps : List Piece} {p : Nat → Bool} {d e : Dev}

@[simp] theorem leaves_withNv_iff {v} (h : Piece.nv ∈ ps) : Leaves ps p d (e.withNv v) ↔ Leaves ps p d e :=
  leaves_part .nv h rfl fun y hy => by cases y <;> simp_all [Piece.same]

@[simp] theorem leaves_withNvNext_iff {v} (h : Piece.nv ∈ ps) : Leaves ps p d (e.withNvNext v) ↔ Leaves ps p d e :=
  leaves_part .nv h rfl fun y hy => by cases y <;> simp_all [Piece.same]

/-- A field of a saturating count after it has gone up. -/
theorem fget_fincSat_self (d : Dev) (a : Nat) (f : Fld) (k : Nat) (hf : f.ok = true) :
    fget (fincSat d a f k) a f = min (fget d a f + k) (2 ^ (f.hi + 1 - f.lo) - 1) := by
  rw [fincSat, fget_fset_self _ _ _ _ hf, Nat.mod_eq_of_lt]
  have : 0 < 2 ^ (f.hi + 1 - f.lo) := Nat.two_pow_pos _
  omega

/-! ### Records of the memory system (R409 to R411) -/

theorem leaves_memRaise_iff {number sev half detail : Nat} (hsev : sev < 2) (h : Piece.hst ∈ ps)
    (hp : ∀ a, p a = false → isReport a = false) : Leaves ps p d (memRaise e number sev half detail) ↔ Leaves ps p d e := by
  rw [memRaise, raise_minor _ _ _ _ _ hsev]
  exact leaves_post_iff h hp

theorem memRaise_ms (d : Dev) (number sev half detail : Nat) : (memRaise d number sev half detail).ms = d.ms := raise_ms ..

theorem memRaise_mem (d : Dev) (number sev half detail : Nat) : (memRaise d number sev half detail).mem = d.mem := raise_mem ..

theorem leaves_memCorrected_iff {src number half detail : Nat} (hms : Piece.ms ∈ ps) (h : Piece.hst ∈ ps)
    (hp : ∀ a, p a = false → isReport a = false) :
    Leaves ps p d (memCorrected e src number half detail) ↔ Leaves ps p d e := by
  simp only [memCorrected]
  split
  · rfl
  · rw [leaves_memRaise_iff (by decide) h hp, leaves_withMs_iff hms]

theorem memCorrected_ms (d : Dev) (src number half detail : Nat) :
    ∃ c, (memCorrected d src number half detail).ms = { d.ms with corrMs := c } := by
  simp only [memCorrected]
  split
  · exact ⟨_, rfl⟩
  · exact ⟨_, memRaise_ms ..⟩

/-! ### The repair record (R402) -/

theorem leaves_nvWrite_iff {off : Nat} {bs : List Byte} (h : Piece.nv ∈ ps) :
    Leaves ps p d (nvWrite e off bs) ↔ Leaves ps p d e := by
  unfold nvWrite
  split
  · exact leaves_withNvNext_iff h
  · rw [leaves_withNvNext_iff h, leaves_withNv_iff h]

theorem nvWrite_ms (d : Dev) (off : Nat) (bs : List Byte) : (nvWrite d off bs).ms = d.ms := by
  unfold nvWrite
  split <;> rfl

theorem nvWrite_mem (d : Dev) (off : Nat) (bs : List Byte) : (nvWrite d off bs).mem = d.mem := by
  unfold nvWrite
  split <;> rfl

theorem leaves_repairSeal_iff (h : Piece.nv ∈ ps) : Leaves ps p d (repairSeal e) ↔ Leaves ps p d e := leaves_nvWrite_iff h

/-- The register that counts the rows of a channel that wait for a repair. -/
def repairSts (row : Nat) : Nat := A.STK_RMPSTS (row / 2 ^ 25 / 32 / 4) (row / 2 ^ 25 / 32 % 4)

/-- What the repair record holds after a row is appended, before the registers show it. -/
def repairNoted (d : Dev) (row state : Nat) : Dev :=
  let n := memNat d.nvNext 0x20020 4
  let ch := row / 2 ^ 25
  let w := ch / 32 + (ch % 32) <<< 3 + (row % 2) <<< 8 + (row / 2 % 16) <<< 12 + (row / 32 % 2 ^ 20) <<< 16 + state <<< 36
  let d := nvWrite d (0x20040 + 16 * n) (leBytes 8 w ++ leBytes 8 (sidNow d))
  repairSeal (nvWrite d 0x20020 (leBytes 4 (n + 1)))

theorem repairAppend_eq (d : Dev) (row state : Nat) : repairAppend d row state =
    if state = 0 then fincSat (repairNoted d row state) (repairSts row) F.STK_RMPSTS_PEND 1 else repairNoted d row state := rfl

theorem leaves_repairNoted (d : Dev) (row state : Nat) : Leaves [.nv] (fun _ => false) d (repairNoted d row state) := by
  have h : Piece.nv ∈ [Piece.nv] := by simp
  exact (leaves_repairSeal_iff h).2 ((leaves_nvWrite_iff h).2 ((leaves_nvWrite_iff h).2 leaves_self))

theorem repairNoted_ms (d : Dev) (row state : Nat) : (repairNoted d row state).ms = d.ms :=
  (leaves_repairNoted d row state).1 .ms (by simp)

theorem leaves_repairAppend_iff {row state : Nat} (h : Piece.nv ∈ ps) (hp : p (repairSts row) = true) :
    Leaves ps p d (repairAppend e row state) ↔ Leaves ps p d e := by
  have hnoted : Leaves ps p d (repairNoted e row state) ↔ Leaves ps p d e :=
    (leaves_repairNoted e row state).drop (by simpa using h) fun _ _ => rfl
  rw [repairAppend_eq]
  split
  · rw [leaves_fincSat_iff hp, hnoted]
  · exact hnoted

theorem repairAppend_ms (d : Dev) (row state : Nat) : (repairAppend d row state).ms = d.ms := by
  rw [repairAppend_eq]
  split
  · rw [fincSat_ms, repairNoted_ms]
  · exact repairNoted_ms ..

theorem fget_repairNoted (d : Dev) (row state a : Nat) (f : Fld) : fget (repairNoted d row state) a f = fget d a f :=
  (leaves_repairNoted d row state).2.fget rfl _

theorem repairAppend_pend (d : Dev) (row : Nat) : fget (repairAppend d row 0) (repairSts row) F.STK_RMPSTS_PEND =
    min (fget d (repairSts row) F.STK_RMPSTS_PEND + 1) 65535 := by
  rw [repairAppend_eq, if_pos rfl, fget_fincSat_self _ _ _ _ (by decide), fget_repairNoted]
  rfl

/-! ### The registers of a stack error (R393) -/

theorem isReport_stkErr (h : Nat) : isReport (A.STK_ERR h) = false := by
  rw [Bool.eq_false_iff, ne_eq, isReport_iff, isCounter_iff]
  simp only [A.STK_ERR]
  omega

theorem isReport_repairSts (row : Nat) : isReport (repairSts row) = false := by
  rw [Bool.eq_false_iff, ne_eq, isReport_iff, isCounter_iff]
  simp only [repairSts, A.STK_RMPSTS]
  omega

theorem stkErr_ne_repairSts (h row : Nat) : A.STK_ERR h ≠ repairSts row := by
  simp only [repairSts, A.STK_RMPSTS, A.STK_ERR]
  omega

/-- STK_ERR as a stack error leaves it. -/
def stkNoted (d : Dev) (number ch a : Nat) : Dev :=
  let e := A.STK_ERR (ch / 128)
  let d := fset (fset d e F.STK_ERR_STACK (ch / 32 % 4)) e F.STK_ERR_CH (ch % 32)
  fset (fset d e F.STK_ERR_EXC number) e F.STK_ERR_ADDR a

theorem stkRaise_eq (d : Dev) (number sev ch a : Nat) :
    stkRaise d number sev ch a = memRaise (stkNoted d number ch a) number sev (ch / 128) (stkDetail ch a) := rfl

theorem leaves_stkNoted_iff {number ch a : Nat} (h : p (A.STK_ERR (ch / 128)) = true) :
    Leaves ps p d (stkNoted e number ch a) ↔ Leaves ps p d e := by
  simp only [stkNoted]
  rw [leaves_fset_iff h, leaves_fset_iff h, leaves_fset_iff h, leaves_fset_iff h]

theorem leaves_stkNoted (d : Dev) (number ch a : Nat) : Leaves [] (fun _ => true) d (stkNoted d number ch a) :=
  (leaves_stkNoted_iff rfl).2 leaves_self

theorem leaves_stkRaise_iff {number sev ch a : Nat} (hsev : sev < 2) (h : Piece.hst ∈ ps)
    (hp : ∀ x, p x = false → isReport x = false) (hs : p (A.STK_ERR (ch / 128)) = true) :
    Leaves ps p d (stkRaise e number sev ch a) ↔ Leaves ps p d e := by
  rw [stkRaise_eq, leaves_memRaise_iff hsev h hp, leaves_stkNoted_iff hs]

theorem stkNoted_exc (d : Dev) {number : Nat} (hn : number < 256) (ch a : Nat) :
    fget (stkNoted d number ch a) (A.STK_ERR (ch / 128)) F.STK_ERR_EXC = number := by
  simp only [stkNoted]
  rw [fget_fset_apart _ _ _ _ _ _ (by decide) (by decide) (by decide), fget_fset_self _ _ _ _ (by decide)]
  exact Nat.mod_eq_of_lt hn

theorem stkNoted_ch (d : Dev) (number ch a : Nat) :
    fget (stkNoted d number ch a) (A.STK_ERR (ch / 128)) F.STK_ERR_CH = ch % 32 := by
  simp only [stkNoted]
  rw [fget_fset_apart _ _ _ _ _ _ (by decide) (by decide) (by decide),
    fget_fset_apart _ _ _ _ _ _ (by decide) (by decide) (by decide), fget_fset_self _ _ _ _ (by decide)]
  exact Nat.mod_eq_of_lt (Nat.mod_lt _ (by decide))

theorem isRaise_stkErr (h : Nat) : isRaise (A.STK_ERR h) = false := by
  rw [isRaise, Bool.or_eq_false_iff]
  refine ⟨isReport_stkErr h, ?_⟩
  rw [Bool.eq_false_iff, ne_eq, these_iff]
  simp only [A.STK_ERR, A.SEQ_STS, A.SEQ_CTL, A.TST_CAPSTS, List.mem_cons, List.not_mem_nil, or_false]
  omega

/-- A record leaves the registers of the stack error, whatever it does further. -/
theorem stkRaise_shows (d : Dev) (number sev ch a : Nat) (f : Fld) :
    fget (stkRaise d number sev ch a) (A.STK_ERR (ch / 128)) f = fget (stkNoted d number ch a) (A.STK_ERR (ch / 128)) f := by
  rw [stkRaise_eq]
  exact (keepsRegs_raise _ _ _ _ _).fget (isRaise_stkErr _) f

theorem stkRaise_ms (d : Dev) (number sev ch a : Nat) : (stkRaise d number sev ch a).ms = d.ms := by
  rw [stkRaise_eq, memRaise_ms]
  exact (leaves_stkNoted ..).1 .ms (by simp)

theorem stkNoted_mem (d : Dev) (number ch a : Nat) : (stkNoted d number ch a).mem = d.mem :=
  (fset_mem ..).trans ((fset_mem ..).trans ((fset_mem ..).trans (fset_mem ..)))

theorem stkRaise_mem (d : Dev) (number sev ch a : Nat) : (stkRaise d number sev ch a).mem = d.mem := by
  rw [stkRaise_eq, memRaise_mem, stkNoted_mem]

/-! ### The patrol scrub (R395) -/

/-- An uncorrectable error that the scrub finds: its unit is marked, the record tells of it, its row waits for repair. -/
def scrubMarks (d : Dev) (e : Ecc) : Dev :=
  let ch := channelOf d e.addr
  let d := stkRaise (fincSat d (A.STK_ECC (ch / 32 / 4) (ch / 32 % 4)) F.STK_ECC_SCRUBUE 1) 0xBD 0 ch (e.addr / 64 * 64)
  repairAppend (d.withMs { d.ms with marks := sput (e.addr / 64) (1 + e.row % 2 ^ 25) d.ms.marks })
    (ch * 2 ^ 25 + e.row % 2 ^ 25) 0

/-- A scrub period of a half begins. -/
def scrubBegins (d : Dev) (h now : Nat) : Dev :=
  d.withMs { d.ms with rowCe := d.ms.rowCe.filter (fun e => e.1 / 2 ^ 25 / 128 != h),
                       scrubAt := sset 0 h now d.ms.scrubAt }

theorem scrubBegins_mem (d : Dev) (h now : Nat) : (scrubBegins d h now).mem = d.mem := rfl

theorem scrubBegins_seq (d : Dev) (h now : Nat) : (scrubBegins d h now).seq = d.seq := rfl

theorem scrubBegins_marks (d : Dev) (h now : Nat) : (scrubBegins d h now).ms.marks = d.ms.marks := rfl

section
variable {h : Nat} (hon : fget d (A.STK_SCRUB h) F.STK_SCRUB_ON = 1)
  (hdue : sget 0 h d.ms.scrubAt + hour * max (fget d (A.STK_SCRUB h) F.STK_SCRUB_PERIOD) 1 ≤ d.now)
include hon hdue

theorem patrolScrub_clean : patrolScrub d h [] = scrubBegins d h d.now := by
  simp only [patrolScrub]
  rw [if_neg (by rw [hon]; omega)]
  rfl

theorem patrolScrub_marks {e : Ecc} (hue : e.ue = true) (hin : inStackByte d e.addr = true) (hhalf : homeHalf e.addr = h) :
    patrolScrub d h [e] = scrubBegins (scrubMarks d e) h (scrubMarks d e).now := by
  simp only [patrolScrub]
  rw [if_neg (by rw [hon]; omega)]
  simp only [List.filter_cons, hin, hhalf, beq_self_eq_true, Bool.and_self, if_true, List.filter_nil, List.foldl_cons,
    List.foldl_nil, hue, Bool.not_true, Bool.false_eq_true, if_false]
  rfl

end

theorem scrubMarks_marks (d : Dev) (e : Ecc) : (scrubMarks d e).ms.marks = sput (e.addr / 64) (1 + e.row % 2 ^ 25) d.ms.marks := by
  simp only [scrubMarks]
  rw [repairAppend_ms]
  show sput _ _ (stkRaise _ _ _ _ _).ms.marks = _
  rw [stkRaise_ms, fincSat_ms]

theorem scrubMarks_exc (d : Dev) (e : Ecc) :
    fget (scrubMarks d e) (A.STK_ERR (channelOf d e.addr / 128)) F.STK_ERR_EXC = 0xBD := by
  simp only [scrubMarks]
  rw [((leaves_repairAppend_iff (ps := [.nv]) (p := (repairSts (channelOf d e.addr * 2 ^ 25 + e.row % 2 ^ 25) == ·)) (by simp)
    (by simp)).2 leaves_self).2.fget (by simpa using (stkErr_ne_repairSts _ _).symm), fget_withMs, stkRaise_shows,
    stkNoted_exc _ (by decide)]

theorem leaves_scrubMarks (d : Dev) (e : Ecc) : Leaves [.ms, .nv, .hst] (fun _ => true) d (scrubMarks d e) := by
  simp only [scrubMarks]
  rw [leaves_repairAppend_iff (by simp) rfl, leaves_withMs_iff (by simp),
    leaves_stkRaise_iff (by decide) (by simp) (fun _ h => by cases h) rfl, leaves_fincSat_iff rfl]
  exact leaves_self

/-! ### Row remap (R396, R397) -/

section
variable {h row : Nat} {fits : Bool}

/-- The candidate leaves the queue. -/
def candTaken (d : Dev) (row : Nat) : Dev := d.withMs { d.ms with cand := d.ms.cand.erase row }

theorem rowRemap_open (hopen : d.seq.stepOpen = true) : rowRemap d h fits = d := by
  simp only [rowRemap, hopen, if_true]

variable (hopen : d.seq.stepOpen = false) (hcand : d.ms.cand.find? (fun r => r / 2 ^ 25 / 128 == h) = some row)
include hopen hcand

theorem rowRemap_defers (hbad : ¬ (fits = true ∧ fget d (A.STK_RMP h) F.STK_RMP_LIVE = 1 ∧
    0 < sget 0 (bankOfRow row) d.ms.spares)) : rowRemap d h fits = remapDefer (candTaken d row) row := by
  simp only [rowRemap, hopen, hcand, Bool.false_eq_true, if_false]
  exact if_neg (by rw [Bool.and_eq_true, Bool.and_eq_true, decide_eq_true_eq, decide_eq_true_eq, and_assoc]; exact hbad)

/-- A remapped row takes a spare of its bank. -/
def spareTaken (d : Dev) (h row : Nat) : Dev :=
  let held := min (Config.waited d.ms.draws) (fget d (A.STK_RMP h) F.STK_RMP_HOLD * 800)
  let d := count (d.withMs { d.ms with draws := d.ms.draws + 1 }) h 0x623 (row / 2 ^ 25 / 32 % 4) held false
  d.withMs { d.ms with spares := sset 0 (bankOfRow row) (sget 0 (bankOfRow row) d.ms.spares - 1) d.ms.spares }

omit hopen hcand in
theorem spareTaken_spares (d : Dev) (h row : Nat) : (spareTaken d h row).ms.spares =
    sset 0 (bankOfRow row) (sget 0 (bankOfRow row) d.ms.spares - 1) d.ms.spares := by
  simp only [spareTaken, withMs_ms, count_ms]

omit hopen hcand in
theorem spareTaken_cand (d : Dev) (h row : Nat) : (spareTaken d h row).ms.cand = d.ms.cand := by
  simp only [spareTaken, withMs_ms, count_ms]

omit hopen hcand in
theorem leaves_spareTaken (hh : h < 2) : Leaves [.ms] isCounter d (spareTaken d h row) := by
  simp only [spareTaken]
  rw [leaves_withMs_iff (by simp)]
  exact ((leaves_withMs_iff (by simp)).2 leaves_self).trans ((onlyRegs_count _ _ _ _ _ _ hh).leaves.weaken (by simp) fun _ => id)

theorem rowRemap_remaps (hok : fits = true ∧ fget d (A.STK_RMP h) F.STK_RMP_LIVE = 1 ∧
    0 < sget 0 (bankOfRow row) d.ms.spares) : ∃ v, rowRemap d h fits =
      memRaise (repairAppend (fincSat (fset (spareTaken (candTaken d row) h row) (A.STK_RMPSTS h (row / 2 ^ 25 / 32 % 4))
        F.STK_RMPSTS_SPARE v) (A.STK_RMPSTS h (row / 2 ^ 25 / 32 % 4)) F.STK_RMPSTS_DONE 1) row 1) 0xBB 0 h
        (stkDetail (row / 2 ^ 25) 0) := by
  simp only [rowRemap, hopen, hcand, Bool.false_eq_true, if_false]
  rw [if_pos (by rw [Bool.and_eq_true, Bool.and_eq_true, decide_eq_true_eq, decide_eq_true_eq, and_assoc]; exact hok)]
  exact ⟨_, rfl⟩

end

/-! ### The die bridge (R404 to R407) -/

section
variable {dir lane : Nat}

/-- A lane of the bridge replaced. -/
def laneSet (d : Dev) (k : Nat) (y : BrgLane) : Dev := d.withMs { d.ms with lanes := sset BrgLane.init k y d.ms.lanes }

theorem laneSet_lane (d : Dev) (k : Nat) (y : BrgLane) : sget BrgLane.init k (laneSet d k y).ms.lanes = y :=
  sget_sset_self ..

/-- The bridge notes the lane of a bad flit. -/
def brgSeen (d : Dev) (dir lane : Nat) : Dev := fset (fset d A.BRG_STS F.BRG_STS_LANE lane) A.BRG_STS F.BRG_STS_DIR dir

/-- A retry is counted, in the package and in its half, and shown. -/
def brgRetried (d : Dev) (dir : Nat) : Dev :=
  fset (count (fincSat d A.BRG_CNT F.BRG_CNT_RETRY 1) dir 0x631 0 1 true) A.BRG_STS F.BRG_STS_EXC 0xC0

/-- The registers that a retry changes. -/
def isBridge (a : Nat) : Bool := isReport a || these [A.BRG_CNT, A.BRG_STS] a

theorem isReport_of_isBridge {a : Nat} (h : isBridge a = false) : isReport a = false := (Bool.or_eq_false_iff.1 h).1

theorem leaves_brgSeen_iff (h : p A.BRG_STS = true) : Leaves ps p d (brgSeen e dir lane) ↔ Leaves ps p d e := by
  rw [brgSeen, leaves_fset_iff h, leaves_fset_iff h]

variable (hup : fget d A.BRG_STS F.BRG_STS_UP = 1)
include hup

theorem brgFlit_good {x : BrgLane} (hx : sget BrgLane.init (128 * dir + lane) d.ms.lanes = x) :
    brgFlit d dir lane true = let e := count (laneSet d (128 * dir + lane) { x with tries := 0 }) dir 0x630 0 1 true
      if x.tries = 2 then fincSat e A.BRG_CNT F.BRG_CNT_RETRY2 1 else e := by
  simp only [brgFlit, hup, hx, Nat.one_ne_zero, if_false, if_true]
  rfl

theorem brgFlit_fatal {x : BrgLane} (hx : sget BrgLane.init (128 * dir + lane) d.ms.lanes = x) (htries : 2 ≤ x.tries) :
    brgFlit d dir lane false = brgFatal (laneSet (brgSeen d dir lane) (128 * dir + lane) { x with tries := 0 }) dir lane := by
  simp only [brgFlit, hup, hx, Nat.one_ne_zero, if_false, Bool.false_eq_true]
  exact if_pos htries

theorem brgFlit_retry {x : BrgLane} (hx : sget BrgLane.init (128 * dir + lane) d.ms.lanes = x) (htries : x.tries < 2)
    {m n : Nat} (hm : (brgSeen d dir lane).now / ms 1 = m) (hn : (if x.ms = m then x.retries + 1 else 1) = n) {e : Dev}
    (he : memCorrected (brgRetried (laneSet (brgSeen d dir lane) (128 * dir + lane) ⟨x.tries + 1, m, n⟩) dir)
      (512 + (128 * dir + lane)) 0xC0 0 (memDetail 0 0 0 0 lane dir) = e) (hlim : n ≤ fget e A.BRG_CFG F.BRG_CFG_RLIM) :
    brgFlit d dir lane false = e := by
  rw [brgSeen] at hm he
  simp only [brgRetried, laneSet] at he
  simp only [brgFlit, hup, hx, Nat.one_ne_zero, if_false, Bool.false_eq_true]
  rw [if_neg (by omega), hm, hn, he, if_neg (by omega)]

omit hup

theorem brgSeen_now (d : Dev) (dir lane : Nat) : (brgSeen d dir lane).now = d.now := (fset_now ..).trans (fset_now ..)

theorem brgSeen_up (d : Dev) (dir lane : Nat) :
    fget (brgSeen d dir lane) A.BRG_STS F.BRG_STS_UP = fget d A.BRG_STS F.BRG_STS_UP := by
  rw [brgSeen, fget_fset_apart _ _ _ _ _ _ (by decide) (by decide) (by decide),
    fget_fset_apart _ _ _ _ _ _ (by decide) (by decide) (by decide)]

theorem leaves_memCorrected (d : Dev) (src number half detail : Nat) :
    Leaves [.ms, .hst] isReport d (memCorrected d src number half detail) :=
  (leaves_memCorrected_iff (by simp) (by simp) fun _ => id).2 leaves_self

theorem brgRetried_ms (d : Dev) (dir : Nat) : (brgRetried d dir).ms = d.ms := by
  rw [brgRetried, fset_ms, count_ms, fincSat_ms]

theorem leaves_brgRetried (hdir : dir < 2) (hp : ∀ a, p a = false → isBridge a = false) :
    Leaves ps p d (brgRetried d dir) := by
  have hreg (a : Nat) (ha : isBridge a = true) : p a = true := by
    by_contra h
    rw [hp a (by simpa using h)] at ha
    cases ha
  rw [brgRetried, leaves_fset_iff (hreg _ (by decide))]
  exact ((leaves_fincSat_iff (hreg _ (by decide))).2 leaves_self).trans
    ((onlyRegs_count _ _ _ _ _ _ hdir).leaves.weaken (by simp)
      fun a ha => isReport_of_isCounter (isReport_of_isBridge (hp a ha)))

theorem brgRetried_fields (d : Dev) (hdir : dir < 2) :
    fget (brgRetried d dir) A.BRG_STS F.BRG_STS_EXC = 0xC0 ∧
      fget (brgRetried d dir) A.BRG_STS F.BRG_STS_UP = fget d A.BRG_STS F.BRG_STS_UP ∧
      fget (brgRetried d dir) A.BRG_CNT F.BRG_CNT_RETRY = min (fget d A.BRG_CNT F.BRG_CNT_RETRY + 1) (2 ^ 32 - 1) := by
  have hcount (e : Dev) (a : Nat) (f : Fld) (ha : isCounter a = false) : fget (count e dir 0x631 0 1 true) a f = fget e a f :=
    (onlyRegs_count e dir 0x631 0 1 true hdir).2.fget ha f
  refine ⟨?_, ?_, ?_⟩
  · rw [brgRetried, fget_fset_self _ _ _ _ (by decide)]
    rfl
  · rw [brgRetried, fget_fset_apart _ _ _ _ _ _ (by decide) (by decide) (by decide), hcount _ _ _ (by decide), fincSat,
      fget_fset_ne _ (by decide)]
  · rw [brgRetried, fget_fset_ne _ (by decide), hcount _ _ _ (by decide), fget_fincSat_self _ _ _ _ (by decide)]
    rfl

/-- What a fatal error of the bridge leaves (R407). -/
theorem brgFatal_stops (d : Dev) (dir lane : Nat) : fget (brgFatal d dir lane) A.BRG_STS F.BRG_STS_UP = 0 ∧
    fget (brgFatal d dir lane) A.BRG_STS F.BRG_STS_FATAL = 1 ∧ fget (brgFatal d dir lane) A.BRG_STS F.BRG_STS_EXC = 0xC1 ∧
    (sevs (brgFatal d dir lane)).testBit 4 = true ∧ seqState (brgFatal d dir lane) ≠ 1 := by
  have hkeep (f : Fld) (e : Dev) : fget (memRaise e 0xC1 4 0 (memDetail 0 0 0 0 lane dir)) A.BRG_STS f = fget e A.BRG_STS f :=
    (keepsRegs_raise _ _ _ _ _).fget (by decide) f
  refine ⟨?_, ?_, ?_, testBit_sevs_raise _ _ _ _ (by decide), seqState_seqSelfStop _⟩
  · rw [brgFatal, hkeep, fget_fset_self _ _ _ _ (by decide)]
    rfl
  · rw [brgFatal, hkeep, fget_fset_apart _ _ _ _ _ _ (by decide) (by decide) (by decide), fget_fset_self _ _ _ _ (by decide)]
    rfl
  · rw [brgFatal, hkeep, fget_fset_apart _ _ _ _ _ _ (by decide) (by decide) (by decide),
      fget_fset_apart _ _ _ _ _ _ (by decide) (by decide) (by decide), fget_fset_self _ _ _ _ (by decide)]
    rfl

end

theorem patrolScrub_effect (d : Dev) (h : Nat) (hon : fget d (A.STK_SCRUB h) F.STK_SCRUB_ON = 1)
    (hdue : sget 0 h d.ms.scrubAt + hour * max (fget d (A.STK_SCRUB h) F.STK_SCRUB_PERIOD) 1 ≤ d.now) :
    sget 0 h (patrolScrub d h []).ms.scrubAt = d.now ∧ (patrolScrub d h []).ms.marks = d.ms.marks ∧
      (∀ e, e ∈ (patrolScrub d h []).ms.rowCe → e.1 / 2 ^ 25 / 128 ≠ h) ∧
      Leaves [.ms] (fun _ => false) d (patrolScrub d h []) := by
  rw [patrolScrub_clean hon hdue]
  refine ⟨sget_sset_self .., rfl, fun e he => ?_, (leaves_withMs_iff (by simp)).2 leaves_self⟩
  have := (List.mem_filter.1 he).2
  simpa using this

theorem patrolScrub_finds (d : Dev) (h : Nat) (hon : fget d (A.STK_SCRUB h) F.STK_SCRUB_ON = 1)
    (hdue : sget 0 h d.ms.scrubAt + hour * max (fget d (A.STK_SCRUB h) F.STK_SCRUB_PERIOD) 1 ≤ d.now) (e : Ecc)
    (hue : e.ue = true) (hin : inStackByte d e.addr = true) (hhalf : homeHalf e.addr = h) :
    sfind (e.addr / 64) (patrolScrub d h [e]).ms.marks = some (1 + e.row % 2 ^ 25) ∧
      fget (patrolScrub d h [e]) (A.STK_ERR (channelOf d e.addr / 128)) F.STK_ERR_EXC = 0xBD ∧
      (∀ a, memGet (patrolScrub d h [e]).mem a = memGet d.mem a) ∧ (patrolScrub d h [e]).seq = d.seq := by
  rw [patrolScrub_marks hon hdue hue hin hhalf]
  have hframe := leaves_scrubMarks d e
  refine ⟨?_, (fget_withMs ..).trans (scrubMarks_exc d e), fun a => ?_, (scrubBegins_seq ..).trans (hframe.1 .seq (by simp))⟩
  · rw [scrubBegins_marks, scrubMarks_marks, sfind_sput_self]
  · rw [scrubBegins_mem, hframe.1 .mem (by simp) a]

theorem rowRemap_effect (d : Dev) {h row : Nat} {fits : Bool} (hh : h < 2) (hopen : d.seq.stepOpen = false)
    (hcand : d.ms.cand.find? (fun r => r / 2 ^ 25 / 128 == h) = some row) :
    let a := A.STK_RMPSTS h (row / 2 ^ 25 / 32 % 4)
    let b := bankOfRow row
    let ok := fits = true ∧ fget d (A.STK_RMP h) F.STK_RMP_LIVE = 1 ∧ 0 < sget 0 b d.ms.spares
    (rowRemap d h fits).ms.cand = d.ms.cand.erase row ∧
      (ok → sget 0 b (rowRemap d h fits).ms.spares = sget 0 b d.ms.spares - 1 ∧
        fget (rowRemap d h fits) a F.STK_RMPSTS_DONE = min (fget d a F.STK_RMPSTS_DONE + 1) 65535) ∧
      (¬ ok → (rowRemap d h fits).ms.spares = d.ms.spares ∧
        fget (rowRemap d h fits) a F.STK_RMPSTS_PEND = min (fget d a F.STK_RMPSTS_PEND + 1) 65535) ∧
      Leaves [.ms, .nv, .hst] (fun x => isReport x || x == a) d (rowRemap d h fits) := by
  intro a b ok
  have hrow : row / 2 ^ 25 / 128 = h := by simpa using List.find?_some hcand
  have ha : repairSts row = a := by
    simp only [a, repairSts, ← hrow]
    congr 1
    omega
  have hreport (x : Nat) (hx : (isReport x || x == a) = false) : isReport x = false := (Bool.or_eq_false_iff.1 hx).1
  have hself : (isReport a || a == a) = true := by simp
  have hself' : (isReport (repairSts row) || repairSts row == a) = true := by rw [ha]; exact hself
  have hreport_a : isReport a = false := ha ▸ isReport_repairSts row
  have hraise (e : Dev) (number half detail : Nat) (f : Fld) :
      fget (memRaise e number 0 half detail) a f = fget e a f := by
    exact ((leaves_memRaise_iff (ps := [.hst]) (p := isReport) (by decide) (by simp) fun _ => id).2
      (leaves_self (d := e))).2.fget hreport_a f
  by_cases hok : ok
  · obtain ⟨v, hv⟩ := rowRemap_remaps hopen hcand hok
    have hspare (f : Fld) : fget (spareTaken (candTaken d row) h row) a f = fget d a f :=
      (leaves_spareTaken hh).2.fget (isReport_of_isCounter hreport_a) f
    rw [hv]
    refine ⟨?_, fun _ => ⟨?_, ?_⟩, fun h => absurd hok h, ?_⟩
    · rw [memRaise_ms, repairAppend_ms, fincSat_ms, fset_ms, spareTaken_cand]
      rfl
    · rw [memRaise_ms, repairAppend_ms, fincSat_ms, fset_ms, spareTaken_spares, sget_sset_self]
      rfl
    · rw [hraise, repairAppend_eq, if_neg (by decide), fget_repairNoted, fget_fincSat_self _ _ _ _ (by decide),
        fget_fset_apart _ _ _ _ _ _ (by decide) (by decide) (by decide), hspare]
      rfl
    · rw [leaves_memRaise_iff (by decide) (by simp) hreport, leaves_repairAppend_iff (by simp) hself',
        leaves_fincSat_iff hself, leaves_fset_iff hself]
      exact ((leaves_withMs_iff (by simp)).2 leaves_self).trans
        ((leaves_spareTaken hh).weaken (by simp) fun x hx => isReport_of_isCounter (hreport x hx))
  · rw [rowRemap_defers hopen hcand hok]
    refine ⟨?_, fun h => absurd h hok, fun _ => ⟨?_, ?_⟩, ?_⟩
    · rw [remapDefer, memRaise_ms, repairAppend_ms]
      rfl
    · rw [remapDefer, memRaise_ms, repairAppend_ms]
      rfl
    · rw [remapDefer, hraise, ← ha, repairAppend_pend]
      rfl
    · rw [remapDefer, leaves_memRaise_iff (by decide) (by simp) hreport, leaves_repairAppend_iff (by simp) hself',
        candTaken, leaves_withMs_iff (by simp)]
      exact leaves_self

/-- A channel that has failed is noted, recorded as bad and reported. -/
theorem stkChfail_effect (d : Dev) (ch : Nat) (hnew : ch ∉ d.ms.badCh) : (stkChfail d ch).ms.badCh = ch :: d.ms.badCh ∧
    fget (stkChfail d ch) (A.STK_ERR (ch / 128)) F.STK_ERR_EXC = 0xB4 ∧
    fget (stkChfail d ch) (A.STK_ERR (ch / 128)) F.STK_ERR_CH = ch % 32 ∧ (stkChfail d ch).mem = d.mem := by
  have heq : stkChfail d ch = stkRaise (repairBad (d.withMs { d.ms with badCh := ch :: d.ms.badCh }) ch) 0xB4 3 ch 0 :=
    if_neg (by simpa using hnew)
  have hbad (e : Dev) : (repairBad e ch).ms = e.ms ∧ (repairBad e ch).mem = e.mem :=
    ⟨(nvWrite_ms ..).trans (nvWrite_ms ..), (nvWrite_mem ..).trans (nvWrite_mem ..)⟩
  rw [heq]
  refine ⟨?_, ?_, ?_, ?_⟩
  · rw [stkRaise_ms, (hbad _).1]
    rfl
  · rw [stkRaise_shows, stkNoted_exc _ (by decide)]
  · rw [stkRaise_shows, stkNoted_ch]
  · rw [stkRaise_mem, (hbad _).2]
    rfl

/-- A good flit ends the retries of its lane. -/
theorem brgFlit_good_effect (d : Dev) {dir lane : Nat} (hdir : dir < 2) (hup : fget d A.BRG_STS F.BRG_STS_UP = 1) :
    (sget BrgLane.init (128 * dir + lane) (brgFlit d dir lane true).ms.lanes).tries = 0 ∧
      fget (brgFlit d dir lane true) A.BRG_CNT F.BRG_CNT_RETRY = fget d A.BRG_CNT F.BRG_CNT_RETRY ∧
      Leaves [.ms] (fun a => isCounter a || a == A.BRG_CNT) d (brgFlit d dir lane true) := by
  obtain ⟨x, hx⟩ : ∃ x, sget BrgLane.init (128 * dir + lane) d.ms.lanes = x := ⟨_, rfl⟩
  obtain ⟨e, he⟩ : ∃ e, count (laneSet d (128 * dir + lane) { x with tries := 0 }) dir 0x630 0 1 true = e := ⟨_, rfl⟩
  have hcount : Leaves [.ms] isCounter d e := by
    rw [← he]
    exact ((leaves_withMs_iff (by simp)).2 leaves_self).trans ((onlyRegs_count _ _ _ _ _ _ hdir).leaves.weaken (by simp) fun _ => id)
  have hlane : (sget BrgLane.init (128 * dir + lane) e.ms.lanes).tries = 0 := by rw [← he, count_ms, laneSet_lane]
  have hregs : fget e A.BRG_CNT F.BRG_CNT_RETRY = fget d A.BRG_CNT F.BRG_CNT_RETRY := hcount.2.fget (by decide) _
  have hwide : Leaves [.ms] (fun a => isCounter a || a == A.BRG_CNT) d e :=
    hcount.weaken (by simp) fun a ha => (Bool.or_eq_false_iff.1 ha).1
  rw [brgFlit_good hup hx, he]
  simp only
  split
  · refine ⟨by rw [fincSat_ms]; exact hlane, ?_, (leaves_fincSat_iff (by decide)).2 hwide⟩
    rw [fincSat, fget_fset_apart _ _ _ _ _ _ (by decide) (by decide) (by decide), hregs]
  · exact ⟨hlane, hregs, hwide⟩

/-- A bad flit within its retries is asked for again. -/
theorem brgFlit_retry_effect (d : Dev) {dir lane : Nat} (hdir : dir < 2) (hup : fget d A.BRG_STS F.BRG_STS_UP = 1) {x : BrgLane}
    (hx : sget BrgLane.init (128 * dir + lane) d.ms.lanes = x) (htries : x.tries < 2)
    (hlim : (if x.ms = d.now / ms 1 then x.retries + 1 else 1) ≤ fget d A.BRG_CFG F.BRG_CFG_RLIM) :
    (sget BrgLane.init (128 * dir + lane) (brgFlit d dir lane false).ms.lanes).tries = x.tries + 1 ∧
      fget (brgFlit d dir lane false) A.BRG_STS F.BRG_STS_UP = 1 ∧
      fget (brgFlit d dir lane false) A.BRG_CNT F.BRG_CNT_RETRY = min (fget d A.BRG_CNT F.BRG_CNT_RETRY + 1) (2 ^ 32 - 1) ∧
      fget (brgFlit d dir lane false) A.BRG_STS F.BRG_STS_EXC = 0xC0 ∧
      Leaves [.ms, .hst] isBridge d (brgFlit d dir lane false) := by
  obtain ⟨n, hn⟩ : ∃ n, (if x.ms = d.now / ms 1 then x.retries + 1 else 1) = n := ⟨_, rfl⟩
  obtain ⟨L, hL⟩ : ∃ L, laneSet (brgSeen d dir lane) (128 * dir + lane) ⟨x.tries + 1, d.now / ms 1, n⟩ = L := ⟨_, rfl⟩
  obtain ⟨e, he⟩ : ∃ e, memCorrected (brgRetried L dir) (512 + (128 * dir + lane)) 0xC0 0 (memDetail 0 0 0 0 lane dir) = e :=
    ⟨_, rfl⟩
  have hseen : Leaves [.ms] isBridge d L := by
    rw [← hL, laneSet, leaves_withMs_iff (by simp), leaves_brgSeen_iff (by decide)]
    exact leaves_self
  have hcnt : fget L A.BRG_CNT F.BRG_CNT_RETRY = fget d A.BRG_CNT F.BRG_CNT_RETRY := by
    rw [← hL, laneSet, fget_withMs, brgSeen, fget_fset_ne _ (by decide), fget_fset_ne _ (by decide)]
  have hupL : fget L A.BRG_STS F.BRG_STS_UP = 1 := by rw [← hL, laneSet, fget_withMs, brgSeen_up, hup]
  have hraised := leaves_memCorrected (brgRetried L dir) (512 + (128 * dir + lane)) 0xC0 0 (memDetail 0 0 0 0 lane dir)
  rw [he] at hraised
  have hframe : Leaves [.ms, .hst] isBridge d e := (hseen.weaken (by simp) fun _ => id).trans
    ((leaves_brgRetried hdir fun _ => id).trans (hraised.weaken (by simp) fun _ => isReport_of_isBridge))
  obtain ⟨hexc, hup', hretry⟩ := brgRetried_fields L hdir
  have heq := brgFlit_retry hup hx htries (congrArg (· / ms 1) (brgSeen_now d dir lane)) hn (hL ▸ he)
    (by rw [hframe.2.fget (by decide), ← hn]; exact hlim)
  rw [heq]
  refine ⟨?_, ?_, ?_, ?_, hframe⟩
  · obtain ⟨c, hc⟩ := memCorrected_ms (brgRetried L dir) (512 + (128 * dir + lane)) 0xC0 0 (memDetail 0 0 0 0 lane dir)
    rw [he, brgRetried_ms] at hc
    rw [hc, ← hL, laneSet_lane]
  · rw [hraised.2.fget (by decide), hup', hupL]
  · rw [hraised.2.fget (by decide), hretry, hcnt]
  · rw [hraised.2.fget (by decide), hexc]

end

/-- Settles O42: each command of the memory system is one branch of its function, and its record leaves every register but
its own as it was. -/
theorem stacksScrubRemapAndBridgeRetries : Obligations.StacksScrubRemapAndBridgeRetries := by
  unfold Obligations.StacksScrubRemapAndBridgeRetries
  refine ⟨fun t half s hon hdue => ⟨?_, ?_⟩, fun t half fits s => ⟨?_, ?_⟩, fun stack ch s => ⟨?_, ?_⟩,
    fun t dir lane s hup => ⟨?_, ?_, ?_⟩⟩
  · obtain ⟨hat, hmarks, hrows, hl⟩ := patrolScrub_effect _ _ hon hdue
    exact ⟨_, rfl, hat, hmarks, hrows, hl.1, hl.2⟩
  · intro e hue hin hhalf
    exact ⟨_, rfl, patrolScrub_finds _ _ hon hdue e hue hin hhalf⟩
  · exact fun hopen => next_congr rfl (rowRemap_open hopen)
  · intro row hopen hcand
    obtain ⟨hc, hok, hbad, hl⟩ := rowRemap_effect (tick s.dev t) (fits := fits) (hn_lt_two half) hopen hcand
    exact ⟨_, rfl, hc, hok, hbad, hl.1, hl.2⟩
  · exact fun hbad => next_congr rfl (if_pos (by simpa using hbad))
  · intro hnew
    obtain ⟨hbad, hexc, hch, hmem⟩ := stkChfail_effect s.dev _ hnew
    have hhalf : (32 * stack.toNat + ch.toNat) / 128 = stack.toNat / 4 := by have := ch.isLt; omega
    have hmod : (32 * stack.toNat + ch.toNat) % 32 = ch.toNat := by have := ch.isLt; omega
    rw [hhalf] at hexc hch
    rw [hmod] at hch
    exact ⟨_, rfl, hbad, hexc, hch, hmem⟩
  · obtain ⟨htries, hcnt, hl⟩ := brgFlit_good_effect (tick s.dev t) (lane := lane.toNat) dir.isLt hup
    exact ⟨_, rfl, htries, hcnt, hl.1, hl.2⟩
  · intro htries hlim
    obtain ⟨ht, hup', hcnt, hexc, hl⟩ := brgFlit_retry_effect (tick s.dev t) dir.isLt hup rfl htries hlim
    exact ⟨_, rfl, ht, hup', hcnt, hexc, hl.1, hl.2⟩
  · intro htries
    exact ⟨_, next_congr rfl (brgFlit_fatal hup rfl htries), brgFatal_stops _ _ _⟩

end Sys2Proof.Machine
end

section
/-! PROOFS. A register write of the package's own: the bits that its access codes allow, and the action of the register
(00, R5 to R9). -/

namespace Sys2Proof.Machine

section
variable {d : Dev} {off : Nat} {data : List Byte}

/-- An aligned write of eight bytes in the register range is one register write of all 64 bits. -/
theorem memoryAccess_register (hoff : off < 0x4000000) (halign : off % 8 = 0) (hlen : data.length = 8) :
    memoryAccess d (0x3FE00000000 + off % 0x4000000) (.write data) [] =
      answered (regWrite (settle d) off (2 ^ 64 - 1) (leNat data)) (some []) := by
  have hreg : inRegs (0x3FE00000000 + off) = true := by
    rw [inRegs, Bool.and_eq_true, decide_eq_true_eq, decide_eq_true_eq]
    omega
  have hsize : sizeOk off data.length = true := by simp [sizeOk, hlen, halign]
  have hbytes : regWriteBytes (settle d) off data = regWrite (settle d) off (2 ^ 64 - 1) (leNat data) := by
    have h8 : off / 8 * 8 = off := by omega
    rw [regWriteBytes, h8, halign, hlen]
    rfl
  rw [Nat.mod_eq_of_lt hoff]
  simp only [memoryAccess, localAccess, hreg, if_true, Nat.add_sub_cancel_left, hsize, hbytes]
  rfl

/-- Registers whose bits written 1 act, beside those of the blocks. -/
def hasAction (a : Nat) : Bool :=
  these [A.SEQ_CTL 1, A.CNT_CTL 0, A.CNT_CTL 1, A.GCNT_CTL, A.POL_CTL 0, A.POL_CTL 1, A.SID_CTL,
    A.SID_SET, A.SID_RCLM, A.SID_HOLDN, A.SID_RBANK, A.COL_PRX, A.GLB_SCRUB, A.PWR_HCTL, A.PWR_THR, A.TST_AUDCTL,
    A.TST_PAIR, A.TST_CAP, A.TST_RPL] a || (List.range 8).any (fun p => a == A.HRM_PCTL p)

theorem actsOnWrite_eq (a : Nat) : actsOnWrite a = ((blkAt a).isSome || hasAction a) := Bool.or_assoc _ _ _

theorem regActions_none (h : hasAction off = false) (mask w : Nat) : regActions d off mask w = d := by
  simp only [hasAction, Bool.or_eq_false_iff, List.any_eq_false, List.mem_range, beq_iff_eq] at h
  obtain ⟨hlist, hports⟩ := h
  have hne (x : Nat) (hx : x ∈ [A.SEQ_CTL 1, A.CNT_CTL 0, A.CNT_CTL 1, A.GCNT_CTL, A.POL_CTL 0, A.POL_CTL 1, A.SID_CTL,
      A.SID_SET, A.SID_RCLM, A.SID_HOLDN, A.SID_RBANK, A.COL_PRX, A.GLB_SCRUB, A.PWR_HCTL, A.PWR_THR, A.TST_AUDCTL,
      A.TST_PAIR, A.TST_CAP, A.TST_RPL]) : off ≠ x := by
    rintro rfl
    rw [(these_iff _ _).2 hx] at hlist
    cases hlist
  have hport : ¬ (off = A.HRM_PCTL ((off - A.HRM_PCTL 0) / 0x20000) ∧ (off - A.HRM_PCTL 0) / 0x20000 < 8) :=
    fun h => hports _ h.2 h.1
  simp only [regActions]
  rw [if_neg (hne _ (by simp)), if_neg (hne _ (by simp)), if_neg (hne _ (by simp)), if_neg (hne _ (by simp)),
    if_neg (hne _ (by simp)), if_neg hport, if_neg (hne _ (by simp)), if_neg (hne _ (by simp)), if_neg (hne _ (by simp)),
    if_neg (hne _ (by simp)), if_neg (hne _ (by simp)), if_neg (hne _ (by simp)), if_neg (hne _ (by simp)),
    if_neg (hne _ (by simp)), if_neg (hne _ (by simp)), if_neg (hne _ (by simp)), if_neg (hne _ (by simp)),
    if_neg (hne _ (by simp)), if_neg (hne _ (by simp))]

theorem leaves_storeBits {p : Nat → Bool} (h : p off = true) (mask w : Nat) : Leaves [] p d (storeBits d off mask w) := by
  simp only [storeBits]
  split
  · exact leaves_self
  · exact (leaves_regSet_iff h).2 leaves_self

/-- One bit of a register after a write of all its bits (R7). -/
theorem testBit_storeBits {r : RegRow} (hr : regRow off = some r) {w k : Nat} (hk : k < 64) :
    (regGet (storeBits d off (2 ^ 64 - 1) w) off).toNat.testBit k = (if r.rw.testBit k then w.testBit k
      else if r.w1c.testBit k && w.testBit k then false else (regGet d off).toNat.testBit k) := by
  simp only [storeBits, hr, regGet_regSet_self, BitVec.toNat_ofNat, Nat.testBit_mod_two_pow, Nat.testBit_or, Nat.testBit_xor,
    Nat.testBit_and, Nat.testBit_two_pow_sub_one, hk, decide_true, Bool.and_true, Bool.true_and]
  cases r.rw.testBit k <;> cases r.w1c.testBit k <;> cases w.testBit k <;> cases (regGet d off).toNat.testBit k <;> rfl

theorem regWrite_undefined (hshared : sharedReg off = off) (hr : regRow off = none) (mask w : Nat) : regWrite d off mask w = d := by
  simp only [regWrite, hshared, hr, Option.isNone_none, if_true]

theorem actionBits_none (hact : actsOnWrite off = false) : actionBits d off = 0 := by
  rw [actsOnWrite_eq, Bool.or_eq_false_iff] at hact
  obtain ⟨hblk, hact⟩ := hact
  have hne (x : Nat) (hx : hasAction x = true) : off ≠ x := by
    rintro rfl
    rw [hx] at hact
    cases hact
  have hports : ¬ (A.HRM_PCTL 0 ≤ off ∧ off < A.HRM_PCTL 8 ∧ (off - A.HRM_PCTL 0) % 0x20000 = 0) := by
    rintro ⟨hlo, hhi, hmod⟩
    refine hne (A.HRM_PCTL ((off - A.HRM_PCTL 0) / 0x20000)) ?_ ?_
    · rw [hasAction, Bool.or_eq_true, List.any_eq_true]
      refine .inr ⟨_, List.mem_range.2 ?_, beq_self_eq_true _⟩
      simp only [A.HRM_PCTL] at hlo hhi ⊢
      omega
    · simp only [A.HRM_PCTL] at hlo hhi hmod ⊢
      omega
  rw [actionBits, if_neg hports, if_neg (by rw [hblk]; exact fun h => h.elim (by simp) (hne _ (by decide))),
    if_neg (hne _ (by decide)), if_neg fun h => hne _ (by decide) h.1]

theorem regWrite_plain {r : RegRow} (hshared : sharedReg off = off) (hr : regRow off = some r) (hact : actsOnWrite off = false)
    {w : Nat} (hw : w < 2 ^ 64) : regWrite d off (2 ^ 64 - 1) w = storeBits d off (2 ^ 64 - 1) w := by
  have hskip := actionBits_none (d := d) hact
  rw [actsOnWrite_eq, Bool.or_eq_false_iff, Option.isSome_eq_false_iff, Option.isNone_iff_eq_none] at hact
  simp only [regWrite, hshared, hr, hskip, Option.isNone_some, Bool.false_eq_true, if_false, Nat.and_zero, Nat.xor_zero,
    regActions_none hact.2, hact.1, Nat.and_two_pow_sub_one_eq_mod, Nat.mod_eq_of_lt hw]

end

/-- The blocks of which a half has one, and whose start adds no test. -/
def isHalfBlock (b : Blk) : Bool :=
  match b with
  | .cas _ | .jet _ | .ast _ => true
  | _ => false

theorem ctlAddr_halfBlock {b : Blk} (h : isHalfBlock b = true) : ctlAddr b < 0x4000000 ∧ ctlAddr b % 8 = 0 ∧
    sharedReg (ctlAddr b) = ctlAddr b ∧ (regRow (ctlAddr b)).isNone = false ∧ hasAction (ctlAddr b) = false ∧
    blkAt (ctlAddr b) = some b := by
  cases b
  case cas half | jet half | ast half => cases half <;> decide +kernel
  all_goals simp [isHalfBlock] at h

theorem startsPlainly_halfBlock {b : Blk} (h : isHalfBlock b = true) : startsPlainly b = true := by
  cases b <;> simp_all [isHalfBlock, startsPlainly]

theorem stsAddr_ne_pwrSts (b : Blk) (h : isHalfBlock b = true) : A.PWR_STS ≠ ctlAddr b ∧ ctlAddr b ≠ stsAddr b := by
  refine ⟨?_, (stsAddr_ne_ctlAddr b).symm⟩
  cases b
  case cas half | jet half | ast half => cases half <;> decide
  all_goals simp [isHalfBlock] at h

/-- A write with bit 0 set to the control register of a STOPPED block starts it. -/
theorem regWrite_starts {d : Dev} {b : Blk} (h : isHalfBlock b = true) {w : Nat} (hw : w % 2 = 1) (hrun : pstate d = 0)
    (hb : blkState d b = 0) : ∃ e, regWrite d (ctlAddr b) (2 ^ 64 - 1) w = e ∧ blkState e b = 1 ∧ fget e (ctlAddr b) F.EN = 1 := by
  obtain ⟨-, -, hshared, hrow, hact, hblk⟩ := ctlAddr_halfBlock h
  obtain ⟨hpwr, hsts⟩ := stsAddr_ne_pwrSts b h
  obtain ⟨D, hD⟩ : ∃ D, storeBits d (ctlAddr b) ((2 ^ 64 - 1) ^^^ ((2 ^ 64 - 1) &&& actionBits d (ctlAddr b)))
      (w &&& (2 ^ 64 - 1)) = D := ⟨_, rfl⟩
  have hl : Leaves [] (· == ctlAddr b) d D := hD ▸ leaves_storeBits (by simp) _ _
  have hrunD : pstate D = 0 := (hl.2.fget (by simpa using hpwr) _).trans hrun
  have hbD : blkState D b = 0 := (hl.2.fget (by simpa using hsts.symm) _).trans hb
  have hbit : (w &&& (2 ^ 64 - 1)).testBit 0 = true := by
    rw [Nat.testBit_and, Nat.testBit_zero, hw]
    decide
  have heq : regWrite d (ctlAddr b) (2 ^ 64 - 1) w = enableBlock D b := by
    simp only [regWrite, hshared, hrow, Bool.false_eq_true, if_false, regActions_none hact, hblk, hD, hbit, if_true]
    exact if_pos (by decide)
  have hplain := startsPlainly_halfBlock h
  have hs := started_startBlock hplain (fset D (ctlAddr b) F.EN 1)
  refine ⟨_, heq, ?_, ?_⟩
  · rw [enableBlock_stopped hrunD hplain hbD]
    exact hs.state
  · rw [enableBlock_stopped hrunD hplain hbD, hs.other _ _ hsts, fget_fset_self _ _ _ _ (by decide)]
    rfl

theorem leNat_lt (bs : List Byte) : leNat bs < 256 ^ bs.length := by
  induction bs with
  | nil => decide
  | cons b bs ih =>
    have := b.isLt
    rw [leNat, List.length_cons, Nat.pow_succ]
    omega

/-- Settles O39: the plain store follows the access codes bit by bit, and only a block's EN acts at its control register. -/
theorem registerWritesFollowAccessCodes : Obligations.RegisterWritesFollowAccessCodes := by
  unfold Obligations.RegisterWritesFollowAccessCodes
  intro t off data s
  refine ⟨?_, ?_, ?_, ?_, ?_⟩
  · intro r hoff halign hlen hshared hr hact
    have hw : leNat data < 2 ^ 64 := by simpa [hlen] using leNat_lt data
    have heq : memoryAccess (observe s.dev t) (0x3FE00000000 + off % 0x4000000) (.write data) [] =
        answered (storeBits (settle (observe s.dev t)) off (2 ^ 64 - 1) (leNat data)) (some []) := by
      rw [memoryAccess_register hoff halign hlen, regWrite_plain hshared hr hact hw]
    have hl : Leaves [.ms] (these [off]) (settle (observe s.dev t))
        (answered (storeBits (settle (observe s.dev t)) off (2 ^ 64 - 1) (leNat data)) (some [])) :=
      (leaves_answered (by simp) _).2 ((leaves_storeBits (by simp) _ _).weaken (by simp) fun _ => id)
    exact ⟨_, next_congr rfl heq, fun k hk => testBit_storeBits hr hk, hl.1, hl.2⟩
  · intro hoff halign hlen hshared hr
    have hl := leaves_answered_self (settle (observe s.dev t)) (some [])
    refine ⟨_, next_congr rfl (e := answered (settle (observe s.dev t)) (some [])) ?_, hl.1, hl.2⟩
    exact (memoryAccess_register hoff halign hlen).trans (by rw [regWrite_undefined hshared hr])
  · intro b w hb hoff hdata hw hrun hstop
    obtain ⟨hlt, halign, -⟩ := ctlAddr_halfBlock hb
    have hodd : leNat data % 2 = 1 := by rw [hdata, leNat_leBytes]; omega
    obtain ⟨e, he, hstate, hen⟩ := regWrite_starts hb hodd hrun hstop
    rw [← hoff] at he hlt halign hen
    refine ⟨_, next_congr rfl (e := answered e (some [])) ?_, hstate, hoff ▸ hen⟩
    exact (memoryAccess_register hlt halign (by rw [hdata, leBytes_length])).trans (by rw [he])
  · intro hhost
    have hl := leaves_complete_self (observe s.dev t) .none
    refine ⟨_, next_congr rfl (e := complete (observe s.dev t) .none) ?_, complete_cpl _ _, hl.1, hl.2⟩
    simp only [hostWriteReg, if_true, hhost, Bool.not_false]
  · intro hhost hsize
    have hl := leaves_complete_self (observe s.dev t) .unsupportedRequest
    refine ⟨_, next_congr rfl (e := complete (observe s.dev t) .unsupportedRequest) ?_, complete_cpl _ _, hl.1, hl.2⟩
    simp only [hostWriteReg, if_true, hhost, hsize, Bool.not_true, Bool.not_false, Bool.false_eq_true, if_false, Bool.true_or]

end Sys2Proof.Machine
end

section
/-! PROOFS. Notices, the change of banks and the close of the drill (14, R500, R517, R535, R536). -/

namespace Sys2Proof.Machine

section
variable {ps : List Piece} {p : Nat → Bool} {d e : Dev}

/-! ### What is told to the neighbours -/

@[simp] theorem leaves_modPort_iff {q : Nat} {f : Port → Port} (h : Piece.ports ∈ ps) :
    Leaves ps p d (modPort e q f) ↔ Leaves ps p d e := leaves_withPorts_iff h

@[simp] theorem leaves_setPort_iff {q : Nat} {x : Port} (h : Piece.ports ∈ ps) :
    Leaves ps p d (setPort e q x) ↔ Leaves ps p d e := leaves_withPorts_iff h

theorem leaves_touchPorts_iff {qs : List Nat} (h : Piece.ports ∈ ps) :
    Leaves ps p d (touchPorts e qs) ↔ Leaves ps p d e := by
  unfold touchPorts
  induction qs generalizing e with
  | nil => rfl
  | cons q qs ih => rw [List.foldl_cons, ih, leaves_modPort_iff h]

/-- Only the ports differ. -/
theorem leaves_touchPorts (d : Dev) (qs : List Nat) : Leaves [.ports] (fun _ => false) d (touchPorts d qs) :=
  (leaves_touchPorts_iff (by simp)).2 leaves_self

theorem touchPorts_mach (d : Dev) (qs : List Nat) : (touchPorts d qs).mach = d.mach :=
  (leaves_touchPorts d qs).1 .mach (by simp)

/-- A change of governing state is in force for what reads it once it has arrived. -/
theorem govNow_govSet (d : Dev) (k : GovKey) (v : Nat) : govNow (govSet d k v) k = v := by
  simp [govNow, govSet, List.filter_append]

theorem fget_govSet (d : Dev) (k : GovKey) (v a : Nat) (f : Fld) : fget (govSet d k v) a f = fget d a f := rfl

theorem regGet_setMach (d : Dev) (f : Mach → Mach) (a : Nat) : regGet (setMach d f) a = regGet d a := rfl

/-- What the neighbours and the sequencers learn of a notice. -/
def noticeTold (d : Dev) (k : GovKey) (v : Nat) : Dev := govSet (touchPorts d (List.range 8)) k v

theorem noticeTold_mach (d : Dev) (k : GovKey) (v : Nat) : (noticeTold d k v).mach = d.mach :=
  (govSet_mach ..).trans (touchPorts_mach ..)

theorem leaves_noticeTold (d : Dev) (k : GovKey) (v : Nat) : Leaves [.gov, .ports] (fun _ => false) d (noticeTold d k v) :=
  (leaves_govSet_iff (by simp)).2 ((leaves_touchPorts_iff (by simp)).2 leaves_self)

theorem leaves_noticeTold_iff {k : GovKey} {v : Nat} (hg : Piece.gov ∈ ps) (hp : Piece.ports ∈ ps) :
    Leaves ps p d (noticeTold e k v) ↔ Leaves ps p d e := by
  rw [noticeTold, leaves_govSet_iff hg, leaves_touchPorts_iff hp]

theorem regGet_noticeTold (d : Dev) (k : GovKey) (v a : Nat) : regGet (noticeTold d k v) a = regGet d a :=
  (leaves_noticeTold d k v).2 a rfl

theorem fget_noticeTold (d : Dev) (k : GovKey) (v a : Nat) (f : Fld) : fget (noticeTold d k v) a f = fget d a f :=
  (leaves_noticeTold d k v).2.fget rfl f

theorem govNow_noticeTold (d : Dev) (k : GovKey) (v : Nat) : govNow (noticeTold d k v) k = v := govNow_govSet ..

/-! ### Reclaim notices (R517, R535) -/

/-- A notice that nothing stands against. -/
theorem noticeFate_fresh {n : Notice} {t rorig held : Nat} (htime : n.time = 0) (ht : t ≠ 0) (hc : t ≠ n.cleared) :
    noticeFate n t rorig held = .adopted := by
  rw [noticeFate, if_neg (by simp [ht, hc]), if_pos htime]

/-- An older notice that is held stands. -/
theorem noticeFate_later {n : Notice} {t rorig held : Nat} (htime : n.time ≠ 0) (ht : n.time < t) :
    noticeFate n t rorig held = .lost ∨ noticeFate n t rorig held = .repeated := by
  rw [noticeFate, if_neg htime]
  split
  · exact .inr rfl
  · rw [if_neg (by omega), if_neg (by omega)]
    exact .inl rfl

theorem leaves_noticeLost (d : Dev) (n : Notice) (t : Nat) : Leaves [] isCounter d (noticeLost d n t).1 := by
  unfold noticeLost
  split
  · exact leaves_self
  · exact (onlyRegs_countPkg _ _ _ _ _).leaves

theorem noticeLost_time (d : Dev) (n : Notice) (t : Nat) : (noticeLost d n t).2.time = n.time := by
  unfold noticeLost
  split <;> rfl

/-- The block and the deadline of a notice, as SID_RCLM shows them. -/
def reclaimShown (d : Dev) (origin ex ey ez dl : Nat) : Dev :=
  let r := A.SID_RCLM
  let d := fset (fset (fset d r F.SID_RCLM_ORIGIN origin) r F.SID_RCLM_EX ex) r F.SID_RCLM_EY ey
  fset (fset (fset d r F.SID_RCLM_EZ ez) r F.SID_RCLM_DEADLINE dl) r F.SID_RCLM_ACTIVE 1

/-- The time of a notice, as it is held. -/
def reclaimTimed (d : Dev) (t : Nat) : Dev :=
  setMach (regSet d A.SID_RCLMT (BitVec.ofNat 64 t)) (fun m => { m with reclaim := { m.reclaim with time := t } })

theorem holdReclaim_eq (d : Dev) (t origin ex ey ez dl : Nat) :
    holdReclaim d t origin ex ey ez dl = noticeTold (reclaimTimed (reclaimShown d origin ex ey ez dl) t) .reclaim 1 := rfl

theorem reclaimShown_fields (d : Dev) (origin ex ey ez dl : Nat) :
    fget (reclaimShown d origin ex ey ez dl) A.SID_RCLM F.SID_RCLM_ACTIVE = 1 ∧
    fget (reclaimShown d origin ex ey ez dl) A.SID_RCLM F.SID_RCLM_ORIGIN = origin % 2 ^ 14 ∧
    fget (reclaimShown d origin ex ey ez dl) A.SID_RCLM F.SID_RCLM_EX = ex % 2 ^ 5 ∧
    fget (reclaimShown d origin ex ey ez dl) A.SID_RCLM F.SID_RCLM_EY = ey % 2 ^ 5 ∧
    fget (reclaimShown d origin ex ey ez dl) A.SID_RCLM F.SID_RCLM_EZ = ez % 2 ^ 4 ∧
    fget (reclaimShown d origin ex ey ez dl) A.SID_RCLM F.SID_RCLM_DEADLINE = dl % 2 ^ 6 := by
  have hapart (e : Dev) (f g : Fld) (v : Nat) (hf : f.ok = true) (hg : g.ok = true) (h : f.apart g = true) :
      fget (fset e A.SID_RCLM f v) A.SID_RCLM g = fget e A.SID_RCLM g := fget_fset_apart _ _ _ _ _ _ hf hg h
  simp only [reclaimShown]
  refine ⟨?_, ?_, ?_, ?_, ?_, ?_⟩
  · rw [fget_fset_self _ _ _ _ (by decide)]
    rfl
  · rw [hapart _ _ _ _ (by decide) (by decide) (by decide), hapart _ _ _ _ (by decide) (by decide) (by decide),
      hapart _ _ _ _ (by decide) (by decide) (by decide), hapart _ _ _ _ (by decide) (by decide) (by decide),
      hapart _ _ _ _ (by decide) (by decide) (by decide), fget_fset_self _ _ _ _ (by decide)]
    rfl
  · rw [hapart _ _ _ _ (by decide) (by decide) (by decide), hapart _ _ _ _ (by decide) (by decide) (by decide),
      hapart _ _ _ _ (by decide) (by decide) (by decide), hapart _ _ _ _ (by decide) (by decide) (by decide),
      fget_fset_self _ _ _ _ (by decide)]
    rfl
  · rw [hapart _ _ _ _ (by decide) (by decide) (by decide), hapart _ _ _ _ (by decide) (by decide) (by decide),
      hapart _ _ _ _ (by decide) (by decide) (by decide), fget_fset_self _ _ _ _ (by decide)]
    rfl
  · rw [hapart _ _ _ _ (by decide) (by decide) (by decide), hapart _ _ _ _ (by decide) (by decide) (by decide),
      fget_fset_self _ _ _ _ (by decide)]
    rfl
  · rw [hapart _ _ _ _ (by decide) (by decide) (by decide), fget_fset_self _ _ _ _ (by decide)]
    rfl

theorem leaves_reclaimShown_iff {origin ex ey ez dl : Nat} (h : p A.SID_RCLM = true) :
    Leaves ps p d (reclaimShown e origin ex ey ez dl) ↔ Leaves ps p d e := by
  simp only [reclaimShown]
  rw [leaves_fset_iff h, leaves_fset_iff h, leaves_fset_iff h, leaves_fset_iff h, leaves_fset_iff h, leaves_fset_iff h]

theorem leaves_reclaimTimed_iff {t : Nat} (h : p A.SID_RCLMT = true) (hm : Piece.mach ∈ ps) :
    Leaves ps p d (reclaimTimed e t) ↔ Leaves ps p d e := by
  rw [reclaimTimed, leaves_setMach_iff hm, leaves_regSet_iff h]

theorem reclaimTimed_time (d : Dev) (t : Nat) : (reclaimTimed d t).mach.reclaim.time = t ∧
    (regGet (reclaimTimed d t) A.SID_RCLMT).toNat = t % 2 ^ 64 := by
  refine ⟨rfl, ?_⟩
  show (regGet (regSet d A.SID_RCLMT (BitVec.ofNat 64 t)) A.SID_RCLMT).toNat = _
  rw [regGet_regSet_self, BitVec.toNat_ofNat]

theorem fget_reclaimTimed (d : Dev) (t : Nat) (f : Fld) : fget (reclaimTimed d t) A.SID_RCLM f = fget d A.SID_RCLM f :=
  ((leaves_reclaimTimed_iff (ps := [.mach]) (p := these [A.SID_RCLMT]) (by decide) (by simp)).2 (leaves_self (d := d))).2.fget
    (by decide) f

/-- The fields of a written SID_RCLM, before the notice is originated. -/
def reclaimFields (d : Dev) (w : BitVec 64) : Dev :=
  [F.SID_RCLM_DEADLINE, F.SID_RCLM_EZ, F.SID_RCLM_EY, F.SID_RCLM_EX, F.SID_RCLM_ORIGIN].foldl
    (fun d f => fset d A.SID_RCLM f (f.of w)) d

theorem leaves_reclaimFields_iff {w : BitVec 64} (h : p A.SID_RCLM = true) :
    Leaves ps p d (reclaimFields e w) ↔ Leaves ps p d e := by
  simp only [reclaimFields, List.foldl_cons, List.foldl_nil]
  rw [leaves_fset_iff h, leaves_fset_iff h, leaves_fset_iff h, leaves_fset_iff h, leaves_fset_iff h]

theorem fld_of_mod (f : Fld) (w : W64) : f.of w % 2 ^ (f.hi + 1 - f.lo) = f.of w := Nat.mod_eq_of_lt (bits_lt _ _ _)

theorem reclaimFields_fields (d : Dev) (w : BitVec 64) :
    fget (reclaimFields d w) A.SID_RCLM F.SID_RCLM_ORIGIN = F.SID_RCLM_ORIGIN.of w ∧
    fget (reclaimFields d w) A.SID_RCLM F.SID_RCLM_EX = F.SID_RCLM_EX.of w ∧
    fget (reclaimFields d w) A.SID_RCLM F.SID_RCLM_EY = F.SID_RCLM_EY.of w ∧
    fget (reclaimFields d w) A.SID_RCLM F.SID_RCLM_EZ = F.SID_RCLM_EZ.of w ∧
    fget (reclaimFields d w) A.SID_RCLM F.SID_RCLM_DEADLINE = F.SID_RCLM_DEADLINE.of w := by
  have hapart (e : Dev) (f g : Fld) (v : Nat) (hf : f.ok = true) (hg : g.ok = true) (h : f.apart g = true) :
      fget (fset e A.SID_RCLM f v) A.SID_RCLM g = fget e A.SID_RCLM g := fget_fset_apart _ _ _ _ _ _ hf hg h
  simp only [reclaimFields, List.foldl_cons, List.foldl_nil]
  refine ⟨?_, ?_, ?_, ?_, ?_⟩
  · rw [fget_fset_self _ _ _ _ (by decide), fld_of_mod]
  · rw [hapart _ _ _ _ (by decide) (by decide) (by decide), fget_fset_self _ _ _ _ (by decide), fld_of_mod]
  · rw [hapart _ _ _ _ (by decide) (by decide) (by decide), hapart _ _ _ _ (by decide) (by decide) (by decide),
      fget_fset_self _ _ _ _ (by decide), fld_of_mod]
  · rw [hapart _ _ _ _ (by decide) (by decide) (by decide), hapart _ _ _ _ (by decide) (by decide) (by decide),
      hapart _ _ _ _ (by decide) (by decide) (by decide), fget_fset_self _ _ _ _ (by decide), fld_of_mod]
  · rw [hapart _ _ _ _ (by decide) (by decide) (by decide), hapart _ _ _ _ (by decide) (by decide) (by decide),
      hapart _ _ _ _ (by decide) (by decide) (by decide), hapart _ _ _ _ (by decide) (by decide) (by decide),
      fget_fset_self _ _ _ _ (by decide), fld_of_mod]

theorem leaves_reclaimFields (d : Dev) (w : BitVec 64) : Leaves [] (these [A.SID_RCLM]) d (reclaimFields d w) :=
  (leaves_reclaimFields_iff (by decide)).2 leaves_self

/-- A fresh notice of this chip is adopted, with its block and a deadline of at most 60. -/
theorem reclaimOriginate_adopts {d : Dev} (htime : d.mach.reclaim.time = 0) (ht : sidNow d ≠ 0)
    (hc : sidNow d ≠ d.mach.reclaim.cleared) : reclaimOriginate d =
      holdReclaim d (sidNow d) (fget d A.SID_RCLM F.SID_RCLM_ORIGIN) (fget d A.SID_RCLM F.SID_RCLM_EX)
        (fget d A.SID_RCLM F.SID_RCLM_EY) (fget d A.SID_RCLM F.SID_RCLM_EZ) (min (fget d A.SID_RCLM F.SID_RCLM_DEADLINE) 60) := by
  simp only [reclaimOriginate, noticeFate_fresh htime ht hc]

/-- A later notice leaves the one that is held. -/
theorem reclaimOriginate_stands {d : Dev} (htime : d.mach.reclaim.time ≠ 0) (ht : d.mach.reclaim.time < sidNow d) :
    (reclaimOriginate d).mach.reclaim.time = d.mach.reclaim.time ∧ Leaves [.mach] isCounter d (reclaimOriginate d) := by
  obtain h | h := noticeFate_later (rorig := fget d A.SID_RCLM F.SID_RCLM_ORIGIN)
    (held := fget d A.SID_RCLM F.SID_RCLM_ORIGIN) htime ht
  · simp only [reclaimOriginate, h]
    exact ⟨noticeLost_time _ _ _, (leaves_setMach_iff (by simp)).2 ((leaves_noticeLost _ _ _).weaken (by simp) fun _ => id)⟩
  · have heq : reclaimOriginate d = d := by simp only [reclaimOriginate, h]
    rw [heq]
    exact ⟨rfl, leaves_self⟩

/-- The notice is no longer held; its time is remembered. -/
def reclaimGone (d : Dev) : Dev :=
  setMach (regSet (fset d A.SID_RCLM F.SID_RCLM_ACTIVE 0) A.SID_RCLMT 0)
    (fun m => { m with reclaim := { m.reclaim with time := 0, cleared := m.reclaim.time } })

theorem reclaimClear_eq {d : Dev} (h : d.mach.reclaim.time ≠ 0) :
    reclaimClear d = noticeTold (reclaimGone d) .reclaim 0 := if_neg h

theorem leaves_reclaimGone (d : Dev) : Leaves [.mach] (these [A.SID_RCLM, A.SID_RCLMT]) d (reclaimGone d) := by
  rw [reclaimGone, leaves_setMach_iff (by simp), leaves_regSet_iff (by decide), leaves_fset_iff (by decide)]
  exact leaves_self

theorem reclaimGone_regs (d : Dev) : fget (reclaimGone d) A.SID_RCLM F.SID_RCLM_ACTIVE = 0 ∧
    regGet (reclaimGone d) A.SID_RCLMT = 0 := by
  refine ⟨?_, (regGet_setMach ..).trans (regGet_regSet_self ..)⟩
  rw [reclaimGone, fget_setMach, fget_regSet_ne _ (by decide), fget_fset_self _ _ _ _ (by decide)]
  rfl

/-! ### Hold notices (R517) -/

/-- A hold notice as it is held. -/
def holdShown (d : Dev) (t : Nat) : Dev :=
  setMach (fset (fset d A.SID_HOLDN F.SID_HOLDN_TIME t) A.SID_HOLDN F.SID_HOLDN_ACTIVE 1)
    (fun m => { m with hold := { m.hold with time := t } })

theorem leaves_holdShown (d : Dev) (t : Nat) : Leaves [.mach] (these [A.SID_HOLDN]) d (holdShown d t) := by
  rw [holdShown, leaves_setMach_iff (by simp), leaves_fset_iff (by decide), leaves_fset_iff (by decide)]
  exact leaves_self

theorem holdShown_fields (d : Dev) (t : Nat) : fget (holdShown d t) A.SID_HOLDN F.SID_HOLDN_ACTIVE = 1 ∧
    fget (holdShown d t) A.SID_HOLDN F.SID_HOLDN_TIME = t % 2 ^ 56 := by
  refine ⟨?_, ?_⟩
  · rw [holdShown, fget_setMach, fget_fset_self _ _ _ _ (by decide)]
    rfl
  · rw [holdShown, fget_setMach, fget_fset_apart _ _ _ _ _ _ (by decide) (by decide) (by decide),
      fget_fset_self _ _ _ _ (by decide)]
    rfl

theorem holdOriginate_adopts {d : Dev} (htime : d.mach.hold.time = 0) (ht : sidNow d ≠ 0) (hc : sidNow d ≠ d.mach.hold.cleared) :
    holdOriginate d = noticeTold (holdShown d (sidNow d)) .hold 1 := by
  simp only [holdOriginate, noticeFate_fresh htime ht hc]
  rfl

/-- The hold notice is no longer held; its time is remembered. -/
def holdGone (d : Dev) : Dev :=
  setMach (fset (fset d A.SID_HOLDN F.SID_HOLDN_ACTIVE 0) A.SID_HOLDN F.SID_HOLDN_TIME 0)
    (fun m => { m with hold := { m.hold with time := 0, cleared := m.hold.time } })

theorem holdClear_eq {d : Dev} (h : d.mach.hold.time ≠ 0) : holdClear d = noticeTold (holdGone d) .hold 0 := if_neg h

theorem leaves_holdGone (d : Dev) : Leaves [.mach] (these [A.SID_HOLDN]) d (holdGone d) := by
  rw [holdGone, leaves_setMach_iff (by simp), leaves_fset_iff (by decide), leaves_fset_iff (by decide)]
  exact leaves_self

theorem holdGone_active (d : Dev) : fget (holdGone d) A.SID_HOLDN F.SID_HOLDN_ACTIVE = 0 := by
  rw [holdGone, fget_setMach, fget_fset_apart _ _ _ _ _ _ (by decide) (by decide) (by decide),
    fget_fset_self _ _ _ _ (by decide)]
  rfl

/-! ### The banks (R500) -/

theorem actBank_lt (d : Dev) : actBank d < 2 := fget_lt d _ F.SID_RBANK_ACT

/-- The other bank is active. -/
def bankTurned (d : Dev) : Dev := fset d A.SID_RBANK F.SID_RBANK_ACT (1 - actBank d)

/-- The membership of the bank that becomes active is empty. -/
def bankEmpty (d : Dev) : Bool :=
  (List.range 256).all (fun w => regGet (bankTurned d) (A.SID_MEMB (256 * (1 - actBank d) + w)) == 0)

/-- Whether the change of banks leaves this chip outside. -/
def bankCut (d : Dev) (drill : Bool) : Dev :=
  setMach (bankTurned d) (fun m => { m with cutOut := bankEmpty d && (drill || m.cutOut) })

theorem switchBank_eq (d : Dev) (drill : Bool) : switchBank d drill =
    if bankEmpty d && drill then fset (bankCut d drill) A.SID_SLICE F.SID_SLICE_SLICE 0 else bankCut d drill := rfl

theorem actBank_bankCut (d : Dev) (drill : Bool) : actBank (bankCut d drill) = 1 - actBank d := by
  rw [actBank, bankCut, fget_setMach, bankTurned, fget_fset_self _ _ _ _ (by decide)]
  refine Nat.mod_eq_of_lt ?_
  show 1 - actBank d < 2
  omega

theorem leaves_bankCut_iff {drill : Bool} (h : p A.SID_RBANK = true) (hm : Piece.mach ∈ ps) :
    Leaves ps p d (bankCut e drill) ↔ Leaves ps p d e := by
  rw [bankCut, leaves_setMach_iff hm, bankTurned, leaves_fset_iff h]

/-- By request of the host the banks change over, and nothing follows for the slice. -/
theorem switchBank_host (d : Dev) : actBank (switchBank d false) = 1 - actBank d ∧
    Leaves [.mach] (these [A.SID_RBANK]) d (switchBank d false) := by
  rw [switchBank_eq, Bool.and_false, if_neg Bool.false_ne_true]
  exact ⟨actBank_bankCut d false, (leaves_bankCut_iff (by decide) (by simp)).2 leaves_self⟩

theorem bankSwitch_idle {d : Dev} (hcol : blkState d .col = 0) (hports : ∀ p, p < 8 → stOf d (A.HRM_PSTS p) = 0) :
    bankSwitch d = switchBank d false := by
  refine if_pos ⟨hcol, List.all_eq_true.2 fun p hp => ?_⟩
  rw [beq_iff_eq]
  exact hports p (List.mem_range.1 hp)

theorem bankSwitch_busy {d : Dev} (h : blkState d .col ≠ 0 ∨ ∃ p, p < 8 ∧ stOf d (A.HRM_PSTS p) ≠ 0) : bankSwitch d = d := by
  refine if_neg fun hidle => ?_
  obtain hcol | ⟨p, hp, hst⟩ := h
  · exact hcol hidle.1
  · have := List.all_eq_true.1 hidle.2 p (List.mem_range.2 hp)
    rw [beq_iff_eq] at this
    exact hst this

/-! ### The drill's close (R536) -/

theorem drillClose_early {d : Dev} (h : d.mach.reclaim.time = 0 ∨
    sidNow d < d.mach.reclaim.time + stSec (fget d A.SID_RCFG F.SID_RCFG_CLOSE)) : drillClose d = d :=
  if_pos (h.imp_right .inr)

/-- The close of the notice held is acted on. -/
def drillNoted (d : Dev) : Dev := setMach d (fun m => { m with closed := d.mach.reclaim.time })

theorem drillClose_due {d : Dev} (h0 : d.mach.reclaim.time ≠ 0) (hnew : d.mach.reclaim.time ≠ d.mach.closed)
    (hdue : d.mach.reclaim.time + stSec (fget d A.SID_RCFG F.SID_RCFG_CLOSE) ≤ sidNow d) :
    drillClose d = if d.seq.stepOpen then machRaise (drillNoted d) 0xF9 2 0 0 else drillNoted d := by
  simp only [drillClose]
  rw [if_neg (by omega)]
  rfl

/-- A step-fatal machine record aborts the current step and is shown. -/
theorem machRaise_stepFatal (d : Dev) (number port detail : Nat) :
    (machRaise d number 2 port detail).mach = { d.mach with abortStep := some (curStep d) } ∧
      govNow (machRaise d number 2 port detail) .abort = curStep d ∧
      Leaves [.gov, .mach, .hst] machReports d (machRaise d number 2 port detail) := by
  obtain ⟨e, he⟩ : ∃ e, post (fset d A.SID_STS F.SID_STS_EXC number) number 2 10
    [0, (number % 256) <<< 32 + (port % 8) <<< 40, detail, sidNow d] = e := ⟨_, rfl⟩
  have hraise : machRaise d number 2 port detail = raiseAbort e (curStep e) := by rw [← he]; rfl
  have hl : Leaves [.hst] machReports d e := by
    rw [← he]
    exact ((leaves_fset d _ _ _ (by decide)).widen (by simp)).trans
      ((onlyHst_post _ _ _ _ _).leaves.weaken (by simp) fun _ => machReports_of_isReport)
  have hstep : curStep e = curStep d := by
    rw [← he, curStep, (onlyHst_post _ _ _ _ _).2.fget (by decide), fget_fset_ne _ (by decide)]
    rfl
  rw [hraise, hstep]
  refine ⟨?_, govNow_govSet .., (hl.weaken (by simp) fun _ => id).trans
    ((leaves_raiseAbort e _).weaken (by simp) fun _ => id)⟩
  show { e.mach with abortStep := some (curStep d) } = _
  rw [hl.1 .mach (by simp)]

end

/-- Settles O50: a notice, its clearing and a change of banks each write their own registers and tell the neighbours and the
sequencers; the close of a drill aborts through the record it posts. -/
theorem noticesAndBanksFollowTheHost : Obligations.NoticesAndBanksFollowTheHost := by
  unfold Obligations.NoticesAndBanksFollowTheHost
  refine ⟨fun fields s => ⟨?_, ?_, ?_, fun h => next_congr rfl (if_pos h), ?_, ?_, fun h => next_congr rfl (if_pos h), ?_,
    fun h => next_congr rfl (bankSwitch_busy h)⟩, fun t s => ⟨fun h => next_congr rfl (drillClose_early h), ?_⟩⟩
  · rintro ⟨htime, hnow, hcleared⟩
    obtain ⟨horigin, hex, hey, hez, hdl⟩ := reclaimFields_fields s.dev fields
    have hl := leaves_reclaimFields s.dev fields
    have hmach : (reclaimFields s.dev fields).mach = s.dev.mach := hl.1 .mach (by simp)
    have hsid : sidNow (reclaimFields s.dev fields) = sidNow s.dev := congrArg BitVec.toNat (hl.2 _ (by decide))
    have heq := (reclaimOriginate_adopts (d := reclaimFields s.dev fields) (by rw [hmach, htime]) (by rwa [hsid])
      (by rwa [hsid, hmach])).trans (holdReclaim_eq ..)
    rw [hsid, horigin, hex, hey, hez, hdl] at heq
    obtain ⟨E, hE⟩ : ∃ E, reclaimShown (reclaimFields s.dev fields) (F.SID_RCLM_ORIGIN.of fields) (F.SID_RCLM_EX.of fields)
      (F.SID_RCLM_EY.of fields) (F.SID_RCLM_EZ.of fields) (min (F.SID_RCLM_DEADLINE.of fields) 60) = E := ⟨_, rfl⟩
    obtain ⟨factive, forigin, fex, fey, fez, fdl⟩ := reclaimShown_fields (reclaimFields s.dev fields)
      (F.SID_RCLM_ORIGIN.of fields) (F.SID_RCLM_EX.of fields) (F.SID_RCLM_EY.of fields) (F.SID_RCLM_EZ.of fields)
      (min (F.SID_RCLM_DEADLINE.of fields) 60)
    have hframe : Leaves [.gov, .ports, .mach] (these [A.SID_RCLM, A.SID_RCLMT]) s.dev
        (noticeTold (reclaimTimed E (sidNow s.dev)) .reclaim 1) := by
      rw [leaves_noticeTold_iff (by simp) (by simp), leaves_reclaimTimed_iff (by decide) (by simp), ← hE,
        leaves_reclaimShown_iff (by decide), leaves_reclaimFields_iff (by decide)]
      exact leaves_self
    rw [hE] at heq factive forigin fex fey fez fdl
    have hfld (f : Fld) : fget (noticeTold (reclaimTimed E (sidNow s.dev)) .reclaim 1) A.SID_RCLM f = fget E A.SID_RCLM f :=
      (fget_noticeTold ..).trans (fget_reclaimTimed ..)
    obtain ⟨hrt, hrr⟩ := reclaimTimed_time E (sidNow s.dev)
    refine ⟨_, next_congr rfl heq, ?_, ?_, ?_, ?_, ?_, ?_, ?_, ?_, govNow_noticeTold .., hframe.1, hframe.2⟩
    · rw [noticeTold_mach, hrt]
    · rw [regGet_noticeTold, hrr]
      exact Nat.mod_eq_of_lt (BitVec.isLt _)
    · rw [hfld, factive]
    · rw [hfld, forigin]
      exact fld_of_mod F.SID_RCLM_ORIGIN fields
    · rw [hfld, fex]
      exact fld_of_mod F.SID_RCLM_EX fields
    · rw [hfld, fey]
      exact fld_of_mod F.SID_RCLM_EY fields
    · rw [hfld, fez]
      exact fld_of_mod F.SID_RCLM_EZ fields
    · rw [hfld, fdl]
      omega
  · intro htime hlt
    have hl := leaves_reclaimFields s.dev fields
    have hmach : (reclaimFields s.dev fields).mach = s.dev.mach := hl.1 .mach (by simp)
    have hsid : sidNow (reclaimFields s.dev fields) = sidNow s.dev := congrArg BitVec.toNat (hl.2 _ (by decide))
    obtain ⟨hstands, hframe⟩ := reclaimOriginate_stands (d := reclaimFields s.dev fields) (by rwa [hmach]) (by rwa [hmach, hsid])
    have hall : Leaves [.mach] (fun a => isCounter a || a == A.SID_RCLM) s.dev (reclaimOriginate (reclaimFields s.dev fields)) :=
      (hl.weaken (by simp) fun a ha => by simpa [these] using (Bool.or_eq_false_iff.1 ha).2).trans
        (hframe.weaken (by simp) fun a ha => (Bool.or_eq_false_iff.1 ha).1)
    exact ⟨_, rfl, hstands.trans (by rw [hmach]), hall.1, hall.2⟩
  · intro htime
    obtain ⟨hactive, hrclmt⟩ := reclaimGone_regs s.dev
    have hframe : Leaves [.gov, .ports, .mach] (these [A.SID_RCLM, A.SID_RCLMT]) s.dev (noticeTold (reclaimGone s.dev) .reclaim 0) :=
      (leaves_noticeTold_iff (by simp) (by simp)).2 ((leaves_reclaimGone _).weaken (by simp) fun _ => id)
    exact ⟨_, next_congr rfl (reclaimClear_eq htime), congrArg Mach.reclaim (noticeTold_mach ..),
      (fget_noticeTold ..).trans hactive, (regGet_noticeTold ..).trans hrclmt, govNow_noticeTold .., hframe.1, hframe.2⟩
  · rintro ⟨htime, hnow, hcleared⟩
    obtain ⟨hactive, ht⟩ := holdShown_fields s.dev (sidNow s.dev)
    have hframe : Leaves [.gov, .ports, .mach] (these [A.SID_HOLDN]) s.dev (noticeTold (holdShown s.dev (sidNow s.dev)) .hold 1) :=
      (leaves_noticeTold_iff (by simp) (by simp)).2 ((leaves_holdShown _ _).weaken (by simp) fun _ => id)
    exact ⟨_, next_congr rfl (holdOriginate_adopts htime hnow hcleared), congrArg (fun m => m.hold.time) (noticeTold_mach ..),
      (fget_noticeTold ..).trans hactive, (fget_noticeTold ..).trans ht, govNow_noticeTold .., hframe.1, hframe.2⟩
  · intro htime
    have hframe : Leaves [.gov, .ports, .mach] (these [A.SID_HOLDN]) s.dev (noticeTold (holdGone s.dev) .hold 0) :=
      (leaves_noticeTold_iff (by simp) (by simp)).2 ((leaves_holdGone _).weaken (by simp) fun _ => id)
    exact ⟨_, next_congr rfl (holdClear_eq htime), congrArg Mach.hold (noticeTold_mach ..),
      (fget_noticeTold ..).trans (holdGone_active _), govNow_noticeTold .., hframe.1, hframe.2⟩
  · intro hcol hports
    obtain ⟨hact, hframe⟩ := switchBank_host s.dev
    exact ⟨_, next_congr rfl (bankSwitch_idle hcol hports), hact, hframe.1, hframe.2⟩
  · intro h0 hnew hdue
    have heq := drillClose_due h0 hnew hdue
    have hnoted : Leaves [.mach] (fun _ => false) (tick s.dev t) (drillNoted (tick s.dev t)) :=
      (leaves_setMach_iff (by simp)).2 leaves_self
    refine ⟨fun hopen => ?_, fun hopen => ?_⟩
    · rw [if_pos hopen] at heq
      obtain ⟨hm, habort, hframe⟩ := machRaise_stepFatal (drillNoted (tick s.dev t)) 0xF9 0 0
      have hall : Leaves [.gov, .mach, .hst] machReports (tick s.dev t) (machRaise (drillNoted (tick s.dev t)) 0xF9 2 0 0) :=
        (hnoted.weaken (by simp) fun _ _ => rfl).trans hframe
      have hstep : curStep (drillNoted (tick s.dev t)) = curStep (tick s.dev t) := rfl
      exact ⟨_, next_congr rfl heq, congrArg Mach.closed hm, (congrArg Mach.abortStep hm).trans (by rw [hstep]),
        habort.trans hstep, machRaise_exc _ _ _ _ _ (by decide), hall.1, hall.2⟩
    · rw [if_neg (by rw [hopen]; decide)] at heq
      exact ⟨_, next_congr rfl heq, rfl, hnoted.1, hnoted.2⟩

end Sys2Proof.Machine
end

section
/-! PROOFS. The verdict tree (14, R519 to R523): a node's report, the verdict it takes, and what they leave alone. -/

namespace Sys2Proof.Machine

/-! ### With neither a capture nor a replay at work nothing is logged -/

section
variable {ps : List Piece} {p : Nat → Bool} {d e : Dev}

theorem quiet_of_leaves (hq : quiet d) (hc : p A.TST_CAPSTS = false) (hr : p A.TST_RPL = false) (h : Leaves ps p d e) :
    quiet e := by
  rw [quiet, replayMode, h.2.fget hc, h.2.fget hr]
  exact hq

theorem capturing_quiet (hq : quiet d) : capturing d = false := by
  rw [capturing, Bool.and_eq_false_iff, decide_eq_false_iff_not]
  exact .inl hq.1

theorem capLog_quiet (hq : quiet d) (kind src key : Nat) (data : List Byte) : capLog d kind src key data = d := by
  rw [capLog, capturing_quiet hq]
  rfl

/-! ### What a verdict moves -/

/-- The parts and registers that verdicts and records of the machine may move. -/
structure TreeFrame (ps : List Piece) (p : Nat → Bool) : Prop where
  gov : Piece.gov ∈ ps
  ports : Piece.ports ∈ ps
  mach : Piece.mach ∈ ps
  hst : Piece.hst ∈ ps
  regs : ∀ a, p a = false → machReports a = false

theorem TreeFrame.reg (hF : TreeFrame ps p) {a : Nat} (h : machReports a = true) : p a = true := by
  by_contra hp
  rw [hF.regs a (by simpa using hp)] at h
  cases h

theorem TreeFrame.info_iff (hF : TreeFrame ps p) {number port detail : Nat} :
    Leaves ps p d (machRaise e number 0 port detail) ↔ Leaves ps p d e :=
  (leaves_machRaise_info e number port detail).drop (by simpa using hF.hst) hF.regs

theorem leaves_setTree_iff (h : Piece.mach ∈ ps) {perm : Bool} {t : Tree} :
    Leaves ps p d (setTree e perm t) ↔ Leaves ps p d e := leaves_setMach_iff h

theorem TreeFrame.switchBank_iff (hF : TreeFrame ps p) {drill : Bool} :
    Leaves ps p d (switchBank e drill) ↔ Leaves ps p d e := by
  rw [switchBank_eq]
  split
  · rw [leaves_fset_iff (hF.reg (by decide)), leaves_bankCut_iff (hF.reg (by decide)) hF.mach]
  · exact leaves_bankCut_iff (hF.reg (by decide)) hF.mach

/-- A tree whose step a verdict has ended. -/
def treeCleared (d : Dev) (perm : Bool) : Dev :=
  setTree d perm { Tree.init with child := (treeOf d perm).child.filter (fun e => e.2.2 == 0) }

/-- The verdict as the children of this node will be told it. -/
def verdictTold (d : Dev) (s v : Nat) (perm : Bool) : Dev :=
  let d := setMach (treeCleared d perm) (fun m =>
    { m with contentDown := ⟨s, 2, v, perm⟩, content := if m.content.perm = perm then Content.none else m.content })
  touchPorts d (treeChildren d)

/-- A permutation's verdict: its value, and the change of prepared banks. -/
def permVerdict (d : Dev) (v : Nat) : Dev :=
  let d := setMach (fset d A.SID_VSTS F.SID_VSTS_PERMV v) (fun m => { m with perm := { m.perm with ended := none, retry := decide (v ≠ 1) } })
  if v = 1 ∧ fget d A.SID_RBANK F.SID_RBANK_PREP = 1 then
    machRaise (switchBank d true) 0xFE 0 0 (v + (fget d A.COL_PRX F.COL_PRX_PATT) <<< 8)
  else d

/-- A step's verdict as SID_VSTS shows it, and counted. -/
def stepVerdictShown (d : Dev) (s v : Nat) : Dev :=
  let d := fset (fset d A.SID_VSTS F.SID_VSTS_VSTEP s) A.SID_VSTS F.SID_VSTS_VERDICT v
  countPkg (countPkg d (0xC00 + (v - 1)) 0 1 true) 0xC03 0 (sidNow d - d.mach.reportSid) true

/-- The flags of a step end with its verdict. -/
def flagsEnded (m : Mach) (s v : Nat) : Mach :=
  { m with abortStep := if m.abortStep = some s then none else m.abortStep,
           poisonStep := if m.poisonStep = some s then none else m.poisonStep,
           verdicts := if v = 1 then s :: m.verdicts else m.verdicts }

/-- A step's verdict in force. -/
def stepVerdict (d : Dev) (s v : Nat) : Dev :=
  govSet (setMach (stepVerdictShown d s v) (fun m => flagsEnded m s v)) .verdict (4 * s + v)

/-- What a capture keeps of a verdict. -/
def verdictLogged (d : Dev) (s v : Nat) (perm : Bool) : Dev :=
  let d := capLog d 0x0C 0 0 (leBytes 8 (s + v <<< 32 + (b2n perm) <<< 36))
  if capturing d && !perm && s == fget d A.TST_CAPSTS F.TST_CAPSTS_STEP then capEnd d 0 else d

theorem verdictLogged_quiet (hq : quiet d) (s v : Nat) (perm : Bool) : verdictLogged d s v perm = d := by
  have hc : (capturing d && !perm && s == fget d A.TST_CAPSTS F.TST_CAPSTS_STEP) = false := by rw [capturing_quiet hq]; rfl
  simp only [verdictLogged, capLog_quiet hq, hc, Bool.false_eq_true, if_false]

theorem applyVerdict_eq (d : Dev) (s v : Nat) (perm : Bool) : applyVerdict d s v perm =
    if perm then permVerdict (verdictTold (verdictLogged d s v perm) s v perm) v
    else stepVerdict (verdictTold (verdictLogged d s v perm) s v perm) s v := by
  cases perm <;> rfl

theorem applyVerdict_quiet (hq : quiet d) (s v : Nat) (perm : Bool) : applyVerdict d s v perm =
    if perm then permVerdict (verdictTold d s v perm) v else stepVerdict (verdictTold d s v perm) s v := by
  rw [applyVerdict_eq, verdictLogged_quiet hq]

theorem leaves_verdictTold_iff (hm : Piece.mach ∈ ps) (hp : Piece.ports ∈ ps) {s v : Nat} {perm : Bool} :
    Leaves ps p d (verdictTold e s v perm) ↔ Leaves ps p d e := by
  rw [verdictTold, leaves_touchPorts_iff hp, leaves_setMach_iff hm, treeCleared, leaves_setTree_iff hm]

theorem TreeFrame.permVerdict_iff (hF : TreeFrame ps p) {v : Nat} : Leaves ps p d (permVerdict e v) ↔ Leaves ps p d e := by
  have hshown {f : Mach → Mach} : Leaves ps p d (setMach (fset e A.SID_VSTS F.SID_VSTS_PERMV v) f) ↔ Leaves ps p d e := by
    rw [leaves_setMach_iff hF.mach, leaves_fset_iff (hF.reg (by decide))]
  simp only [permVerdict]
  split
  · rw [hF.info_iff, hF.switchBank_iff, hshown]
  · exact hshown

theorem leaves_countPkg_iff {src inst k : Nat} {single : Bool} (hc : ∀ a, p a = false → isCounter a = false) :
    Leaves ps p d (countPkg e src inst k single) ↔ Leaves ps p d e :=
  (onlyRegs_countPkg e src inst k single).leaves.drop (by simp) hc

theorem leaves_stepVerdict_iff (hg : Piece.gov ∈ ps) (hm : Piece.mach ∈ ps) (hc : ∀ a, p a = false → isCounter a = false)
    (hv : p A.SID_VSTS = true) {s v : Nat} : Leaves ps p d (stepVerdict e s v) ↔ Leaves ps p d e := by
  simp only [stepVerdict, stepVerdictShown]
  rw [leaves_govSet_iff hg, leaves_setMach_iff hm, leaves_countPkg_iff hc, leaves_countPkg_iff hc, leaves_fset_iff hv,
    leaves_fset_iff hv]

theorem TreeFrame.stepVerdict_iff (hF : TreeFrame ps p) {s v : Nat} : Leaves ps p d (stepVerdict e s v) ↔ Leaves ps p d e :=
  leaves_stepVerdict_iff hF.gov hF.mach (fun a h => isReport_of_isCounter (machReports_of_isReport (hF.regs a h)))
    (hF.reg (by decide))

theorem TreeFrame.applyVerdict_of (hF : TreeFrame ps p) {s v : Nat} {perm : Bool}
    (hlog : Leaves ps p e (verdictLogged e s v perm)) : Leaves ps p d (applyVerdict e s v perm) ↔ Leaves ps p d e := by
  have hlogged : Leaves ps p d (verdictLogged e s v perm) ↔ Leaves ps p d e := hlog.drop (fun _ => id) fun _ => id
  rw [applyVerdict_eq]
  split
  · rw [hF.permVerdict_iff, leaves_verdictTold_iff hF.mach hF.ports, hlogged]
  · rw [hF.stepVerdict_iff, leaves_verdictTold_iff hF.mach hF.ports, hlogged]

theorem TreeFrame.applyVerdict_iff (hF : TreeFrame ps p) (hq : quiet e) {s v : Nat} {perm : Bool} :
    Leaves ps p d (applyVerdict e s v perm) ↔ Leaves ps p d e :=
  hF.applyVerdict_of (by rw [verdictLogged_quiet hq]; exact leaves_self)

/-! ### What a node does with its inputs (R520) -/

/-- The report that a node makes to its parent. -/
def treePut (d : Dev) (perm : Bool) (s v : Nat) : Dev :=
  touchPorts (setMach (setTree d perm { treeOf d perm with sent := some (s, v) })
    (fun m => { m with content := ⟨s, 1, v, perm⟩ })) [treeParent (setTree d perm { treeOf d perm with sent := some (s, v) })]

/-- The children that stay silent are reported. -/
def goneNoted (d : Dev) (gone : List Nat) : Dev := gone.foldl (fun d p => machRaise d 0xFC 0 p 0) d

/-- A value is taken at the root as the verdict, and sent on by any other node. -/
def treeTake (d : Dev) (perm : Bool) (s v : Nat) (gone : List Nat) : Dev :=
  let d := goneNoted d gone
  if treeRoot d then (if replayMode d then d else applyVerdict d s v perm) else treePut d perm s v

theorem treeRun_cases (d : Dev) (perm : Bool) : treeRun d perm = d ∨ treeRun d perm = treePut d perm 0 0 ∨
    ∃ s v gone, treeForm d perm = some (s, v, gone) ∧ treeRun d perm = treeTake d perm s v gone := by
  simp only [treeRun]
  split
  · split
    · exact .inl rfl
    · exact .inr (.inl rfl)
  · split
    · exact .inl rfl
    next s v gone hform =>
      split
      · exact .inl rfl
      · exact .inr (.inr ⟨s, v, gone, hform, rfl⟩)

theorem leaves_treePut_iff (hm : Piece.mach ∈ ps) (hp : Piece.ports ∈ ps) {s v : Nat} {perm : Bool} :
    Leaves ps p d (treePut e perm s v) ↔ Leaves ps p d e := by
  rw [treePut, leaves_touchPorts_iff hp, leaves_setMach_iff hm, leaves_setTree_iff hm]

theorem TreeFrame.goneNoted_iff (hF : TreeFrame ps p) {gone : List Nat} :
    Leaves ps p d (goneNoted e gone) ↔ Leaves ps p d e := by
  unfold goneNoted
  induction gone generalizing e with
  | nil => rfl
  | cons q qs ih => rw [List.foldl_cons, ih, hF.info_iff]

theorem goneNoted_one (d : Dev) (q : Nat) : goneNoted d [q] = machRaise d 0xFC 0 q 0 := rfl

theorem leaves_goneNoted (d : Dev) (gone : List Nat) : Leaves [.hst] machReports d (goneNoted d gone) := by
  unfold goneNoted
  exact Leaves.foldl (fun e b _ h => h.trans (leaves_machRaise_info e 0xFC b 0)) leaves_self

theorem quiet_goneNoted (hq : quiet d) (gone : List Nat) : quiet (goneNoted d gone) :=
  quiet_of_leaves hq (by decide) (by decide) (leaves_goneNoted d gone)

theorem TreeFrame.treeRun_of (hF : TreeFrame ps p) {perm : Bool}
    (hlog : ∀ gone s v, Leaves ps p (goneNoted e gone) (verdictLogged (goneNoted e gone) s v perm)) :
    Leaves ps p d (treeRun e perm) ↔ Leaves ps p d e := by
  obtain h | h | ⟨s, v, gone, -, h⟩ := treeRun_cases e perm
  · rw [h]
  · rw [h, leaves_treePut_iff hF.mach hF.ports]
  · rw [h]
    simp only [treeTake]
    split
    · split
      · exact hF.goneNoted_iff
      · rw [hF.applyVerdict_of (hlog gone s v), hF.goneNoted_iff]
    · rw [leaves_treePut_iff hF.mach hF.ports, hF.goneNoted_iff]

theorem TreeFrame.treeRun_iff (hF : TreeFrame ps p) (hq : quiet e) {perm : Bool} :
    Leaves ps p d (treeRun e perm) ↔ Leaves ps p d e :=
  hF.treeRun_of fun gone s v => by rw [verdictLogged_quiet (quiet_goneNoted hq gone)]; exact leaves_self

theorem treeFrame_reports : TreeFrame [.gov, .ports, .mach, .hst] machReports := ⟨by simp, by simp, by simp, by simp, fun _ h => h⟩

theorem quiet_treeRun (hq : quiet d) (perm : Bool) : quiet (treeRun d perm) :=
  quiet_of_leaves hq (by decide) (by decide) ((treeFrame_reports.treeRun_iff hq).2 leaves_self)

theorem TreeFrame.trees_iff (hF : TreeFrame ps p) (hq : quiet e) : Leaves ps p d (trees e) ↔ Leaves ps p d e := by
  rw [trees, hF.treeRun_iff (quiet_treeRun hq false), hF.treeRun_iff hq]

/-! ### A step's verdict (R516, R520) -/

/-- A step's verdict in force: shown, told to the children and the sequencers, its flags ended. -/
structure VerdictIn (e : Dev) (s v : Nat) : Prop where
  vstep : fget e A.SID_VSTS F.SID_VSTS_VSTEP = s % 2 ^ 32
  verdict : fget e A.SID_VSTS F.SID_VSTS_VERDICT = v % 4
  gov : govNow e .verdict = 4 * s + v
  told : e.mach.contentDown = ⟨s, 2, v, false⟩
  abort : e.mach.abortStep ≠ some s
  poison : e.mach.poisonStep ≠ some s

theorem verdictTold_mach (d : Dev) (s v : Nat) (perm : Bool) : (verdictTold d s v perm).mach.contentDown = ⟨s, 2, v, perm⟩ ∧
    (verdictTold d s v perm).mach.perm = d.mach.perm := by
  rw [verdictTold, touchPorts_mach]
  cases perm <;> exact ⟨rfl, rfl⟩

theorem stepVerdictShown_mach (d : Dev) (s v : Nat) : (stepVerdictShown d s v).mach = d.mach := by
  have h := onlyRegs_countPkg (countPkg (fset (fset d A.SID_VSTS F.SID_VSTS_VSTEP s) A.SID_VSTS F.SID_VSTS_VERDICT v)
    (0xC00 + (v - 1)) 0 1 true) 0xC03 0
  have hc (e : Dev) (src k : Nat) : (countPkg e src 0 k true).mach = e.mach :=
    (onlyRegs_countPkg e src 0 k true).leaves.1 .mach (by simp)
  simp only [stepVerdictShown]
  rw [hc, hc, fset_mach, fset_mach]

theorem stepVerdictShown_fields (d : Dev) (s v : Nat) :
    fget (stepVerdictShown d s v) A.SID_VSTS F.SID_VSTS_VSTEP = s % 2 ^ 32 ∧
    fget (stepVerdictShown d s v) A.SID_VSTS F.SID_VSTS_VERDICT = v % 4 ∧
    fget (stepVerdictShown d s v) A.SID_VSTS F.SID_VSTS_PERMV = fget d A.SID_VSTS F.SID_VSTS_PERMV := by
  have hc (e : Dev) (src k : Nat) (f : Fld) : fget (countPkg e src 0 k true) A.SID_VSTS f = fget e A.SID_VSTS f :=
    (onlyRegs_countPkg e src 0 k true).2.fget (by decide) f
  simp only [stepVerdictShown]
  refine ⟨?_, ?_, ?_⟩
  · rw [hc, hc, fget_fset_apart _ _ _ _ _ _ (by decide) (by decide) (by decide), fget_fset_self _ _ _ _ (by decide)]
    rfl
  · rw [hc, hc, fget_fset_self _ _ _ _ (by decide)]
    rfl
  · rw [hc, hc, fget_fset_apart _ _ _ _ _ _ (by decide) (by decide) (by decide),
      fget_fset_apart _ _ _ _ _ _ (by decide) (by decide) (by decide)]

theorem stepVerdict_mach (d : Dev) (s v : Nat) : (stepVerdict d s v).mach = flagsEnded d.mach s v := by
  show flagsEnded (stepVerdictShown d s v).mach s v = _
  rw [stepVerdictShown_mach]

theorem fget_stepVerdict (d : Dev) (s v a : Nat) (f : Fld) : fget (stepVerdict d s v) a f = fget (stepVerdictShown d s v) a f :=
  (fget_govSet ..).trans (fget_setMach ..)

theorem verdictIn_stepVerdict {d : Dev} {s v : Nat} (htold : d.mach.contentDown = ⟨s, 2, v, false⟩) :
    VerdictIn (stepVerdict d s v) s v := by
  obtain ⟨hstep, hv, -⟩ := stepVerdictShown_fields d s v
  refine ⟨(fget_stepVerdict ..).trans hstep, (fget_stepVerdict ..).trans hv, govNow_govSet .., ?_, ?_, ?_⟩
  · rw [stepVerdict_mach]
    exact htold
  · rw [stepVerdict_mach]
    show (if d.mach.abortStep = some s then none else d.mach.abortStep) ≠ some s
    split
    · simp
    · assumption
  · rw [stepVerdict_mach]
    show (if d.mach.poisonStep = some s then none else d.mach.poisonStep) ≠ some s
    split
    · simp
    · assumption

/-- What a step's verdict may change of the registers. -/
def isVerdictReg (a : Nat) : Bool := isCounter a || a == A.SID_VSTS

theorem isCounter_of_isVerdictReg {a : Nat} (h : isVerdictReg a = false) : isCounter a = false := (Bool.or_eq_false_iff.1 h).1

theorem applyVerdict_step (hq : quiet d) (s v : Nat) : VerdictIn (applyVerdict d s v false) s v ∧
    Leaves [.gov, .ports, .mach] isVerdictReg d (applyVerdict d s v false) := by
  rw [applyVerdict_quiet hq, if_neg Bool.false_ne_true]
  refine ⟨verdictIn_stepVerdict (verdictTold_mach ..).1, ?_⟩
  rw [leaves_stepVerdict_iff (by simp) (by simp) (fun _ => isCounter_of_isVerdictReg) (by decide),
    leaves_verdictTold_iff (by simp) (by simp)]
  exact leaves_self

/-! ### Nodes below the root (R520) -/

theorem treeRoot_of_leaves (h : Leaves ps p d e) (hb : p A.SID_RBANK = false) (hv : ∀ n, n < 2 → p (A.SID_VTREE n) = false) :
    treeRoot e = treeRoot d := by
  have hbank : actBank e = actBank d := h.2.fget hb _
  rw [treeRoot, treeRoot, vtree, vtree, hbank, h.2.fget (hv _ (actBank_lt d))]

/-- The registers of records, and the machine's own status. -/
def isNodeReg (a : Nat) : Bool := isReport a || a == A.SID_STS

/-- What a node does on its way to its parent: it reports and posts records, and leaves every verdict. -/
structure ReportsUp (d e : Dev) : Prop where
  leaves : Leaves [.ports, .mach, .hst] isNodeReg d e
  told : e.mach.contentDown = d.mach.contentDown
  abort : e.mach.abortStep = d.mach.abortStep
  poison : e.mach.poisonStep = d.mach.poisonStep
  perm : e.mach.perm = d.mach.perm

theorem ReportsUp.refl (d : Dev) : ReportsUp d d := ⟨leaves_self, rfl, rfl, rfl, rfl⟩

theorem ReportsUp.trans {f : Dev} (h : ReportsUp d e) (k : ReportsUp e f) : ReportsUp d f :=
  ⟨h.leaves.trans k.leaves, k.told.trans h.told, k.abort.trans h.abort, k.poison.trans h.poison, k.perm.trans h.perm⟩

theorem ReportsUp.root (h : ReportsUp d e) : treeRoot e = treeRoot d :=
  treeRoot_of_leaves h.leaves (by decide) fun n hn => by interval_cases n <;> decide

theorem ReportsUp.govNow (h : ReportsUp d e) (k : GovKey) : govNow e k = govNow d k := by
  obtain ⟨hpend, hobs⟩ := h.leaves.1 .gov (by simp)
  simp only [Sys2Proof.Machine.govNow, obsGet, hpend, hobs]

theorem reportsUp_goneNoted (d : Dev) (gone : List Nat) : ReportsUp d (goneNoted d gone) := by
  have hm : (goneNoted d gone).mach = d.mach := (leaves_goneNoted d gone).1 .mach (by simp)
  refine ⟨?_, by rw [hm], by rw [hm], by rw [hm], by rw [hm]⟩
  unfold goneNoted
  refine Leaves.foldl (fun e b _ h => h.trans ?_) leaves_self
  rw [machRaise, raise_minor _ _ _ _ _ (by decide)]
  exact ((leaves_fset e _ _ _ (by decide)).widen (by simp)).trans
    ((onlyHst_post _ _ _ _ _).leaves.weaken (by simp) fun _ h => (Bool.or_eq_false_iff.1 h).1)

theorem setTree_mach (d : Dev) (perm : Bool) (t : Tree) : (setTree d perm t).mach =
    if perm then { d.mach with ptree := t } else { d.mach with tree := t } := rfl

theorem treePut_mach (d : Dev) (perm : Bool) (s v : Nat) : (treePut d perm s v).mach =
    { (setTree d perm { treeOf d perm with sent := some (s, v) }).mach with content := ⟨s, 1, v, perm⟩ } := by
  rw [treePut, touchPorts_mach]
  rfl

theorem reportsUp_treePut (d : Dev) (perm : Bool) (s v : Nat) : ReportsUp d (treePut d perm s v) := by
  refine ⟨(leaves_treePut_iff (by simp) (by simp)).2 leaves_self, ?_, ?_, ?_, ?_⟩
  all_goals rw [treePut_mach, setTree_mach]; cases perm <;> rfl

/-- Below the root a node takes no verdict of its own. -/
theorem reportsUp_treeRun (hroot : treeRoot d = false) (perm : Bool) : ReportsUp d (treeRun d perm) := by
  obtain h | h | ⟨s, v, gone, -, h⟩ := treeRun_cases d perm
  · rw [h]
    exact ReportsUp.refl d
  · rw [h]
    exact reportsUp_treePut d perm 0 0
  · have hgone := reportsUp_goneNoted d gone
    rw [h]
    simp only [treeTake]
    rw [hgone.root, hroot, if_neg Bool.false_ne_true]
    exact hgone.trans (reportsUp_treePut _ perm s v)

theorem reportsUp_trees (hroot : treeRoot d = false) : ReportsUp d (trees d) := by
  have h := reportsUp_treeRun hroot false
  exact h.trans (reportsUp_treeRun (h.root.trans hroot) true)

theorem VerdictIn.reportsUp {s v : Nat} (h : VerdictIn d s v) (k : ReportsUp d e) : VerdictIn e s v where
  vstep := (k.leaves.2.fget (by decide) _).trans h.vstep
  verdict := (k.leaves.2.fget (by decide) _).trans h.verdict
  gov := (k.govNow _).trans h.gov
  told := k.told.trans h.told
  abort := k.abort ▸ h.abort
  poison := k.poison ▸ h.poison

/-! ### A permutation's verdict (R536) -/

/-- A permutation's verdict in force, in the bank that is then active. -/
structure PermVerdictIn (e : Dev) (v bank : Nat) : Prop where
  permv : fget e A.SID_VSTS F.SID_VSTS_PERMV = v % 4
  bank : actBank e = bank
  ended : e.mach.perm.ended = none

theorem permVerdict_in (d : Dev) (v : Nat) : PermVerdictIn (permVerdict d v) v
    (if v = 1 ∧ fget d A.SID_RBANK F.SID_RBANK_PREP = 1 then 1 - actBank d else actBank d) := by
  obtain ⟨E, hE⟩ : ∃ E, setMach (fset d A.SID_VSTS F.SID_VSTS_PERMV v)
    (fun m => { m with perm := { m.perm with ended := none, retry := decide (v ≠ 1) } }) = E := ⟨_, rfl⟩
  have hpermv : fget E A.SID_VSTS F.SID_VSTS_PERMV = v % 4 := by
    rw [← hE, fget_setMach, fget_fset_self _ _ _ _ (by decide)]
    rfl
  have hbank (f : Fld) : fget E A.SID_RBANK f = fget d A.SID_RBANK f := by
    rw [← hE, fget_setMach, fget_fset_ne _ (by decide)]
  have hended : E.mach.perm.ended = none := by rw [← hE]; rfl
  simp only [permVerdict, hE]
  rw [hbank]
  split
  next hc =>
    have hraise (x : Dev) (detail : Nat) : Leaves [.hst] isNodeReg x (machRaise x 0xFE 0 0 detail) := by
      rw [machRaise, raise_minor _ _ _ _ _ (by decide)]
      exact ((leaves_fset x _ _ _ (by decide)).widen (by simp)).trans
        ((onlyHst_post _ _ _ _ _).leaves.weaken (by simp) fun _ h => (Bool.or_eq_false_iff.1 h).1)
    have hcut : Leaves [.mach] (these [A.SID_RBANK, A.SID_SLICE]) E (switchBank E true) := by
      rw [switchBank_eq]
      split
      · rw [leaves_fset_iff (by decide), leaves_bankCut_iff (by decide) (by simp)]
        exact leaves_self
      · exact (leaves_bankCut_iff (by decide) (by simp)).2 leaves_self
    have hact : actBank (switchBank E true) = 1 - actBank d := by
      rw [switchBank_eq]
      split
      · rw [actBank, fget_fset_ne _ (by decide)]
        exact (actBank_bankCut E true).trans (congrArg (1 - ·) (hbank _))
      · exact (actBank_bankCut E true).trans (congrArg (1 - ·) (hbank _))
    have hkept : (switchBank E true).mach.perm = E.mach.perm := by
      rw [switchBank_eq]
      split <;> rfl
    refine ⟨?_, ?_, ?_⟩
    · rw [(hraise _ _).2.fget (by decide), hcut.2.fget (by decide), hpermv]
    · rw [actBank, (hraise _ _).2.fget (by decide)]
      exact hact
    · rw [(hraise _ _).1 .mach (by simp), hkept, hended]
  next hc => exact ⟨hpermv, hbank _, hended⟩

/-- Without an ended permutation its tree has no input. -/
theorem treeRun_perm_idle (h : d.mach.perm.ended = none) : treeRun d true = d := by
  simp [treeRun, treeForm, ownInput, h]

/-- A step's verdict leaves the permutation's and the banks. -/
theorem PermVerdictIn.treeRun {v bank : Nat} (h : PermVerdictIn d v bank) (hq : quiet d) :
    PermVerdictIn (treeRun d false) v bank := by
  have hup (e : Dev) (k : ReportsUp d e) : PermVerdictIn e v bank :=
    ⟨(k.leaves.2.fget (by decide) _).trans h.permv, (k.leaves.2.fget (by decide) _).trans h.bank, by rw [k.perm, h.ended]⟩
  obtain hr | hr | ⟨s, x, gone, -, hr⟩ := treeRun_cases d false
  · rw [hr]
    exact h
  · rw [hr]
    exact hup _ (reportsUp_treePut d false 0 0)
  · have hgone := reportsUp_goneNoted d gone
    have hg := hup _ hgone
    rw [hr]
    simp only [treeTake]
    split
    · split
      · exact hg
      · have hqg := quiet_goneNoted hq gone
        have hframe := (applyVerdict_step hqg s x).2
        rw [applyVerdict_quiet hqg, if_neg Bool.false_ne_true] at hframe ⊢
        refine ⟨?_, (hframe.2.fget (by decide) _).trans hg.bank, ?_⟩
        · rw [fget_stepVerdict, (stepVerdictShown_fields _ _ _).2.2,
            ((leaves_verdictTold_iff (ps := [.ports, .mach]) (p := fun _ => false) (by simp) (by simp)).2
              (leaves_self (d := goneNoted d gone))).2.fget rfl, hg.permv]
        · rw [stepVerdict_mach]
          show (verdictTold (goneNoted d gone) s x false).mach.perm.ended = none
          rw [(verdictTold_mach _ _ _ _).2, hg.ended]
    · exact hup _ (hgone.trans (reportsUp_treePut _ false s x))

theorem permVerdictIn_trees (hq : quiet d) {v bank : Nat} (h : PermVerdictIn d v bank) : PermVerdictIn (trees d) v bank := by
  have hstep := h.treeRun hq
  rw [trees, treeRun_perm_idle hstep.ended]
  exact hstep

/-- A permutation's verdict from the parent. -/
theorem applyVerdict_perm (hq : quiet d) (s v : Nat) : PermVerdictIn (trees (applyVerdict d s v true)) v
    (if v = 1 ∧ fget d A.SID_RBANK F.SID_RBANK_PREP = 1 then 1 - actBank d else actBank d) := by
  have htold : Leaves [.ports, .mach] (fun _ => false) d (verdictTold d s v true) :=
    (leaves_verdictTold_iff (by simp) (by simp)).2 leaves_self
  have hq' : quiet (applyVerdict d s v true) := quiet_of_leaves (p := machReports) (ps := [.gov, .ports, .mach, .hst]) hq
    (by decide) (by decide) ((treeFrame_reports.applyVerdict_iff hq).2 leaves_self)
  refine permVerdictIn_trees hq' ?_
  rw [applyVerdict_quiet hq, if_pos rfl]
  have h := permVerdict_in (verdictTold d s v true) v
  rw [htold.2.fget rfl, actBank, htold.2.fget rfl] at h
  exact h

/-! ### The inputs of a node with one child (R520, R521) -/

/-- A report whose own input and whose child's are there for one step. -/
theorem treeForm_one {q s v w : Nat} (hown : ownInput d false = some (s, v)) (hv : v ≠ 0) (hchildren : treeChildren d = [q])
    (hchild : childInput d false s q = some w) : treeForm d false = some (s, max v w, [q].filter (childGone d false)) := by
  simp [treeForm, hown, hv, hchildren, hchild]

/-- With its inputs complete a node takes the worst of them. -/
theorem treeRun_takes {s v w : Nat} {gone : List Nat} (hform : treeForm d false = some (s, w, gone))
    (hown : ownInput d false = some (s, v)) (hv : v ≠ 0) (hnew : d.mach.tree.sent.map Prod.fst ≠ some s) :
    treeRun d false = treeTake d false s w gone := by
  have hstop : (!false && ownInput d false == some (0, 0)
      && (treeChildren d).all (fun p => !childGone d false p && ((sfind p (treeOf d false).child).map Prod.snd) == some 0)) = false := by
    rw [hown]
    simp [hv]
  simp only [treeRun, hstop, Bool.false_eq_true, if_false, hform]
  rw [if_neg fun h => hnew h.1]
  rfl

theorem treeRun_idle (h : ownInput d false = none) : treeRun d false = d := by
  simp [treeRun, treeForm, h]

/-- At the root the value taken is the verdict. -/
theorem treeTake_root (hq : quiet d) (hroot : treeRoot d = true) (s v : Nat) (gone : List Nat) :
    treeTake d false s v gone = applyVerdict (goneNoted d gone) s v false := by
  simp only [treeTake]
  rw [(reportsUp_goneNoted d gone).root, hroot, if_pos rfl, (quiet_goneNoted hq gone).2, if_neg Bool.false_ne_true]

theorem treeTake_below (hroot : treeRoot d = false) (s v : Nat) : treeTake d false s v [] = treePut d false s v := by
  simp only [treeTake]
  rw [(reportsUp_goneNoted d []).root, hroot, if_neg Bool.false_ne_true]
  rfl

/-! ### A child's report and its timeout -/

/-- The report of a child as the node keeps it. -/
def childKept (d : Dev) (q s v : Nat) : Dev :=
  setTree d false { d.mach.tree with child := sput q (s, v) d.mach.tree.child, silent := d.mach.tree.silent.erase q }

/-- A child that is taken as silent from now on. -/
def childSilent (d : Dev) (q : Nat) : Dev := setTree d false { d.mach.tree with silent := q :: d.mach.tree.silent }

theorem leaves_childKept (d : Dev) (q s v : Nat) : Leaves [.mach] (fun _ => false) d (childKept d q s v) :=
  (leaves_setTree_iff (by simp)).2 leaves_self

theorem leaves_childSilent (d : Dev) (q : Nat) : Leaves [.mach] (fun _ => false) d (childSilent d q) :=
  (leaves_setTree_iff (by simp)).2 leaves_self

theorem childReport_stranger {q : Nat} (h : q ∉ treeChildren d) (s v : Nat) (perm : Bool) : childReport d q s v perm = d :=
  if_pos (by simpa using h)

theorem childReport_child {q : Nat} (h : q ∈ treeChildren d) (s v : Nat) : childReport d q s v false = treeRun (childKept d q s v) false :=
  if_neg (by simpa using h)

theorem childInput_kept {q s v : Nat} (hup : lstate d q = 5) (hheard : q ∉ d.mach.tree.silent) (hv : v ≠ 0) :
    childInput (childKept d q s v) false s q = some v ∧ childGone (childKept d q s v) false q = false := by
  have hl : lstate (childKept d q s v) q = 5 := hup
  have hs : ((treeOf (childKept d q s v) false).silent.contains q) = false := by
    show (d.mach.tree.silent.erase q).contains q = false
    rw [List.erase_of_not_mem hheard]
    simpa using hheard
  have hgone : childGone (childKept d q s v) false q = false := by
    rw [childGone, hl, hs]
    rfl
  refine ⟨?_, hgone⟩
  have hfind : sfind q (treeOf (childKept d q s v) false).child = some (s, v) := sfind_sput_self ..
  simp [childInput, hgone, hfind, hv]

theorem childInput_silent (q s : Nat) : childInput (childSilent d q) false s q = some 3 ∧ childGone (childSilent d q) false q = true := by
  have hs : ((treeOf (childSilent d q) false).silent.contains q) = true := by
    show (q :: d.mach.tree.silent).contains q = true
    simp
  have hgone : childGone (childSilent d q) false q = true := by rw [childGone, hs, Bool.or_true]
  exact ⟨if_pos hgone, hgone⟩

section
variable {q s v : Nat} (hown : d.mach.tree.own = some (s, v)) (hseq : seqState d = 1) (hv0 : v ≠ 0)
  (hchildren : treeChildren d = [q]) (hsent : d.mach.tree.sent.map Prod.fst ≠ some s)
include hown hseq hv0 hchildren hsent

/-- The report of the only child, with the node's own already made. -/
theorem treeRun_childKept {w : Nat} (hup : lstate d q = 5) (hheard : q ∉ d.mach.tree.silent) (hw : w ≠ 0) :
    treeRun (childKept d q s w) false = treeTake (childKept d q s w) false s (max v w) [] := by
  obtain ⟨hinput, hgone⟩ := childInput_kept (s := s) hup hheard hw
  have hownD : ownInput (childKept d q s w) false = some (s, v) := by
    have : seqState (childKept d q s w) = 1 := hseq
    simp only [ownInput, this, Bool.false_eq_true, if_false, ne_eq, not_true_eq_false]
    exact hown
  have hform := treeForm_one hownD hv0 (q := q) hchildren hinput
  rw [List.filter_cons, hgone] at hform
  exact treeRun_takes hform hownD hv0 hsent

/-- The only child's silence, with the node's own report already made. -/
theorem treeRun_childSilent (hv : v < 4) :
    treeRun (childSilent d q) false = treeTake (childSilent d q) false s 3 [q] := by
  obtain ⟨hinput, hgone⟩ := childInput_silent (d := d) q s
  have hownD : ownInput (childSilent d q) false = some (s, v) := by
    have : seqState (childSilent d q) = 1 := hseq
    simp only [ownInput, this, Bool.false_eq_true, if_false, ne_eq, not_true_eq_false]
    exact hown
  have hform := treeForm_one hownD hv0 (q := q) hchildren hinput
  rw [List.filter_cons, hgone, if_pos rfl, List.filter_nil, show max v 3 = 3 by omega] at hform
  exact treeRun_takes hform hownD hv0 hsent

end

theorem childTimeout_waits {q : Nat} (h : fget d (vtree d) F.SID_VTREE_CHILDTMO = 0 ∨ d.mach.tree.own = none ∨
    d.now < d.mach.tree.ownAt + us (fget d (vtree d) F.SID_VTREE_CHILDTMO)) : childTimeout d q = d := by
  simp only [childTimeout]
  obtain h | h | h := h
  · split
    · rfl
    · exact if_pos (.inl h)
  · rw [h]
  · split
    · rfl
    · exact if_pos (.inr (.inl h))

theorem childTimeout_expires {q s v : Nat} (h0 : fget d (vtree d) F.SID_VTREE_CHILDTMO ≠ 0) (hown : d.mach.tree.own = some (s, v))
    (hdue : d.mach.tree.ownAt + us (fget d (vtree d) F.SID_VTREE_CHILDTMO) ≤ d.now) (hchildren : treeChildren d = [q])
    (hnone : childInput d false s q = none) : childTimeout d q = treeRun (childSilent d q) false := by
  simp only [childTimeout]
  split
  next h => rw [hown] at h; cases h
  next s' v' h =>
    rw [hown] at h
    cases h
    refine if_neg ?_
    rintro (h | h | h | h)
    · exact h0 h
    · exact Nat.not_lt.2 hdue h
    · simp [hchildren] at h
    · rw [hnone] at h
      cases h

/-! ### The three ways to a verdict -/

theorem modPort_port (d : Dev) (q : Nat) (f : Port → Port) : portOf (modPort d q f) q = f (portOf d q) := sget_sset_self ..

theorem touchPorts_one (d : Dev) (q : Nat) : (portOf (touchPorts d [q]) q).newContent = true :=
  congrArg Port.newContent (modPort_port d q fun x => { x with newContent := true })

section
variable {q s v : Nat} (hq : quiet d) (hown : d.mach.tree.own = some (s, v)) (hseq : seqState d = 1) (hv0 : v ≠ 0)
  (hchildren : treeChildren d = [q]) (hsent : d.mach.tree.sent.map Prod.fst ≠ some s)
include hq hown hseq hv0 hchildren hsent

/-- At the root the report of the only child completes the verdict. -/
theorem childReport_root {w : Nat} (hup : lstate d q = 5) (hheard : q ∉ d.mach.tree.silent) (hw : w ≠ 0)
    (hroot : treeRoot d = true) : VerdictIn (childReport d q s w false) s (max v w) ∧
      Leaves [.gov, .ports, .mach] isVerdictReg d (childReport d q s w false) := by
  have hkept := leaves_childKept d q s w
  have hqk : quiet (childKept d q s w) := quiet_of_leaves hq rfl rfl hkept
  have hrootk : treeRoot (childKept d q s w) = true := hroot
  rw [childReport_child (by rw [hchildren]; simp), treeRun_childKept hown hseq hv0 hchildren hsent hup hheard hw,
    treeTake_root hqk hrootk]
  obtain ⟨hin, hframe⟩ := applyVerdict_step hqk s (max v w)
  exact ⟨hin, (hkept.weaken (by simp) fun _ _ => rfl).trans hframe⟩

omit hq in
/-- Below the root it completes this node's report to its parent. -/
theorem childReport_below {w : Nat} (hup : lstate d q = 5) (hheard : q ∉ d.mach.tree.silent) (hw : w ≠ 0)
    (hroot : treeRoot d = false) : (childReport d q s w false).mach.tree.sent = some (s, max v w) ∧
      (childReport d q s w false).mach.content = ⟨s, 1, max v w, false⟩ ∧
      (portOf (childReport d q s w false) (treeParent d)).newContent = true ∧
      Leaves [.ports, .mach] (fun _ => false) d (childReport d q s w false) := by
  have hkept := leaves_childKept d q s w
  have hrootk : treeRoot (childKept d q s w) = false := hroot
  rw [childReport_child (by rw [hchildren]; simp), treeRun_childKept hown hseq hv0 hchildren hsent hup hheard hw,
    treeTake_below hrootk]
  refine ⟨?_, ?_, touchPorts_one _ _, (leaves_treePut_iff (by simp) (by simp)).2 (hkept.weaken (by simp) fun _ => id)⟩
  · rw [treePut_mach]
    rfl
  · rw [treePut_mach]

/-- At the root the silence of the only child completes the verdict ABORT. -/
theorem childTimeout_root (h0 : fget d (vtree d) F.SID_VTREE_CHILDTMO ≠ 0) (hv : v < 4)
    (hdue : d.mach.tree.ownAt + us (fget d (vtree d) F.SID_VTREE_CHILDTMO) ≤ d.now) (hnone : childInput d false s q = none)
    (hroot : treeRoot d = true) : VerdictIn (childTimeout d q) s 3 ∧
      fget (childTimeout d q) A.SID_STS F.SID_STS_EXC = 0xFC ∧
      Leaves [.gov, .ports, .mach, .hst] machReports d (childTimeout d q) := by
  have hsilent := leaves_childSilent d q
  have hqs : quiet (childSilent d q) := quiet_of_leaves hq rfl rfl hsilent
  have hrooti : treeRoot (childSilent d q) = true := hroot
  rw [childTimeout_expires h0 hown hdue hchildren hnone, treeRun_childSilent hown hseq hv0 hchildren hsent hv,
    treeTake_root hqs hrooti]
  have hqg := quiet_goneNoted hqs [q]
  obtain ⟨hin, hframe⟩ := applyVerdict_step hqg s 3
  refine ⟨hin, ?_, (treeFrame_reports.applyVerdict_iff hqg).2 (treeFrame_reports.goneNoted_iff.2
    (hsilent.weaken (by simp) fun _ _ => rfl))⟩
  rw [hframe.2.fget (by decide), goneNoted_one]
  exact machRaise_exc _ _ _ _ _ (by decide)

end

/-- A verdict from the parent is taken, and the node's own inputs change none of it. -/
theorem parentVerdict_eq {s v : Nat} {perm : Bool} (hroot : treeRoot d = false) (hv : v ≠ 0) :
    parentVerdict d s v perm = trees (applyVerdict d s v perm) := if_neg (by simp [hroot, hv])

theorem quiet_applyVerdict (hq : quiet d) (s v : Nat) (perm : Bool) : quiet (applyVerdict d s v perm) :=
  quiet_of_leaves (p := machReports) (ps := [.gov, .ports, .mach, .hst]) hq (by decide) (by decide)
    ((treeFrame_reports.applyVerdict_iff hq).2 leaves_self)

theorem parentVerdict_frame (hq : quiet d) {s v : Nat} {perm : Bool} (hroot : treeRoot d = false) (hv : v ≠ 0) :
    Leaves [.gov, .ports, .mach, .hst] machReports d (parentVerdict d s v perm) := by
  rw [parentVerdict_eq hroot hv]
  exact (treeFrame_reports.trees_iff (quiet_applyVerdict hq s v perm)).2 ((treeFrame_reports.applyVerdict_iff hq).2 leaves_self)

theorem parentVerdict_step (hq : quiet d) {s v : Nat} (hroot : treeRoot d = false) (hv : v ≠ 0) :
    VerdictIn (parentVerdict d s v false) s v := by
  obtain ⟨hin, hframe⟩ := applyVerdict_step hq s v
  rw [parentVerdict_eq hroot hv]
  exact hin.reportsUp (reportsUp_trees ((treeRoot_of_leaves hframe (by decide)
    fun n hn => by interval_cases n <;> decide).trans hroot))

end

/-- Settles O51: a node acts once its own input and every child's are there; the root takes the worst of them as the verdict,
and a verdict taken stands in SID_VSTS whatever the node does next. -/
theorem reportsBecomeVerdicts : Obligations.ReportsBecomeVerdicts := by
  unfold Obligations.ReportsBecomeVerdicts
  refine ⟨fun t port step val s => ⟨fun perm h => next_congr rfl (childReport_stranger h _ _ _), ?_, ?_⟩,
    fun t step val perm s => ⟨?_, ?_⟩, fun t port s => ⟨fun h => next_congr rfl (childTimeout_waits h), ?_⟩⟩
  · intro hchild hseq hown
    have hidle : ownInput (childKept (tick s.dev t) port.toNat step.toNat val.toNat) false = none := by
      have : seqState (childKept (tick s.dev t) port.toNat step.toNat val.toNat) = 1 := hseq
      simp only [ownInput, this, Bool.false_eq_true, if_false, ne_eq, not_true_eq_false]
      exact hown
    have hframe := leaves_childKept (tick s.dev t) port.toNat step.toNat val.toNat
    exact ⟨_, next_congr rfl ((childReport_child hchild _ _).trans (treeRun_idle hidle)), sfind_sput_self .., hframe.1, hframe.2⟩
  · intro v hv0 hv hchildren hseq hown hval hsent hup hheard hq
    have hw0 : val.toNat ≠ 0 := fun h => hval (by rw [← BitVec.toNat_inj, h]; rfl)
    have hw := val.isLt
    refine ⟨fun hroot => ?_, fun hroot => ?_⟩
    · obtain ⟨hin, hall⟩ := childReport_root hq hown hseq hv0 hchildren hsent hup hheard hw0 hroot
      exact ⟨_, rfl, hin.vstep.trans (Nat.mod_eq_of_lt step.isLt), hin.verdict.trans (Nat.mod_eq_of_lt (by omega)), hin.gov,
        hin.told, hin.abort, hin.poison, hall.1, hall.2⟩
    · obtain ⟨hs, hc, hn, hall⟩ := childReport_below hown hseq hv0 hchildren hsent hup hheard hw0 hroot
      exact ⟨_, rfl, hs, hc, hn, hall.1, hall.2⟩
  · intro h
    refine next_congr rfl (if_pos ?_)
    rw [Bool.or_eq_true, beq_iff_eq]
    exact h.imp_right fun h => by rw [h]; rfl
  · intro hroot hval hq
    have hv0 : val.toNat ≠ 0 := fun h => hval (by rw [← BitVec.toNat_inj, h]; rfl)
    have hall := parentVerdict_frame (s := step.toNat) (perm := perm) hq hroot hv0
    refine ⟨_, rfl, ?_, ?_, hall.1, hall.2⟩
    · rintro rfl
      have hin := parentVerdict_step (s := step.toNat) hq hroot hv0
      exact ⟨hin.vstep.trans (Nat.mod_eq_of_lt step.isLt), hin.verdict.trans (Nat.mod_eq_of_lt val.isLt), hin.gov,
        hin.told, hin.abort, hin.poison⟩
    · rintro rfl
      have hin := applyVerdict_perm hq step.toNat val.toNat
      rw [← parentVerdict_eq hroot hv0] at hin
      refine ⟨hin.permv.trans (Nat.mod_eq_of_lt val.isLt), hin.bank.trans ?_⟩
      have hone : val.toNat = 1 ↔ val = 1#2 := by rw [← BitVec.toNat_inj]; rfl
      simp only [hone]
  · intro n v h0 hown hn hv0 hv hdue hchildren hnone hsent hseq hroot hq
    obtain ⟨hin, hexc, hall⟩ := childTimeout_root hq hown hseq hv0 hchildren hsent h0 hv hdue hnone hroot
    exact ⟨_, rfl, hin.vstep.trans (Nat.mod_eq_of_lt hn), hin.verdict, hin.gov, hexc, hall.1, hall.2⟩

end Sys2Proof.Machine
end

section
/-! PROOFS. Resets of a link, and the phases of its training (13, R468 to R482). -/

namespace Sys2Proof.Machine

section
variable {ps : List Piece} {p : Nat → Bool} {d e f : Dev}

/-! ### What verdicts and records do to the ports -/

/-- Every port is as before, but for what it has to tell. -/
def SamePorts (d e : Dev) : Prop := ∀ q, ∃ b, portOf e q = { portOf d q with newContent := b }

theorem SamePorts.refl (d : Dev) : SamePorts d d := fun _ => ⟨_, rfl⟩

theorem SamePorts.of_ports (h : e.ports = d.ports) : SamePorts d e := fun q => ⟨(portOf d q).newContent, by rw [portOf, h]; rfl⟩

theorem SamePorts.trans (h : SamePorts d e) (k : SamePorts e f) : SamePorts d f := fun q => by
  obtain ⟨b, hb⟩ := k q
  obtain ⟨c, hc⟩ := h q
  exact ⟨b, by rw [hb, hc]⟩

theorem modPort_other (d : Dev) {q r : Nat} (h : r ≠ q) (g : Port → Port) : portOf (modPort d q g) r = portOf d r :=
  sget_sset_ne _ h _ _

theorem samePorts_touchPorts (d : Dev) (qs : List Nat) : SamePorts d (touchPorts d qs) := by
  unfold touchPorts
  induction qs generalizing d with
  | nil => exact SamePorts.refl d
  | cons q qs ih =>
    refine SamePorts.trans (fun r => ?_) (ih _)
    by_cases h : r = q
    · subst h
      exact ⟨true, modPort_port d r _⟩
    · exact ⟨_, modPort_other d h _⟩

theorem samePorts_treePut (d : Dev) (perm : Bool) (s v : Nat) : SamePorts d (treePut d perm s v) :=
  SamePorts.trans (SamePorts.of_ports rfl) (samePorts_touchPorts _ _)

theorem samePorts_verdictTold (d : Dev) (s v : Nat) (perm : Bool) : SamePorts d (verdictTold d s v perm) :=
  SamePorts.trans (SamePorts.of_ports rfl) (samePorts_touchPorts _ _)

theorem samePorts_permVerdict (d : Dev) (v : Nat) : SamePorts d (permVerdict d v) := by
  have hbank (x : Dev) : Leaves [.mach, .hst] (fun _ => true) x (switchBank x true) := by
    rw [switchBank_eq]
    split
    · rw [leaves_fset_iff rfl, leaves_bankCut_iff rfl (by simp)]
      exact leaves_self
    · exact (leaves_bankCut_iff rfl (by simp)).2 leaves_self
  have h : Leaves [.mach, .hst] (fun _ => true) d (permVerdict d v) := by
    have hshown {g : Mach → Mach} : Leaves [.mach, .hst] (fun _ => true) d (setMach (fset d A.SID_VSTS F.SID_VSTS_PERMV v) g) := by
      rw [leaves_setMach_iff (by simp), leaves_fset_iff rfl]
      exact leaves_self
    simp only [permVerdict]
    split
    · exact hshown.trans ((hbank _).trans ((leaves_machRaise_info _ _ _ _).weaken (by simp) fun _ h => by cases h))
    · exact hshown
  exact SamePorts.of_ports (h.1 .ports (by simp))

theorem samePorts_stepVerdict (d : Dev) (s v : Nat) : SamePorts d (stepVerdict d s v) := by
  have h : Leaves [.gov, .mach] (fun _ => true) d (stepVerdict d s v) :=
    (leaves_stepVerdict_iff (by simp) (by simp) (fun _ h => by cases h) rfl).2 leaves_self
  exact SamePorts.of_ports (h.1 .ports (by simp))

theorem samePorts_applyVerdict (hlog : SamePorts d (verdictLogged d s v perm)) : SamePorts d (applyVerdict d s v perm) := by
  rw [applyVerdict_eq]
  split
  · exact (hlog.trans (samePorts_verdictTold _ _ _ _)).trans (samePorts_permVerdict _ _)
  · exact (hlog.trans (samePorts_verdictTold _ _ _ _)).trans (samePorts_stepVerdict _ _ _)

theorem samePorts_goneNoted (d : Dev) (gone : List Nat) : SamePorts d (goneNoted d gone) :=
  SamePorts.of_ports ((leaves_goneNoted d gone).1 .ports (by simp))

/-! ### What a capture keeps (R645) -/

/-- The registers that a capture shows itself in. -/
def isCapture (a : Nat) : Bool := isReport a || these [A.TST_CAPSTS, A.TST_CAP, A.TST_STS] a

theorem isReport_of_isCapture {a : Nat} (h : isCapture a = false) : isReport a = false := (Bool.or_eq_false_iff.1 h).1

theorem leaves_capEnd (d : Dev) (code : Nat) : Leaves [.hst] isCapture d (capEnd d code) := by
  rw [capEnd, tstRaise, raise_minor _ _ _ _ _ (by decide), leaves_post_iff (by simp) (fun _ => isReport_of_isCapture),
    leaves_fset_iff (by decide), leaves_fset_iff (by decide), leaves_fset_iff (by decide), leaves_fset_iff (by decide)]
  exact leaves_self

theorem leaves_ctlWrite (d : Dev) (a : Nat) (bs : List Byte) : Leaves [.mem, .ms] isCounter d (ctlWrite d a bs) := by
  have hms (e : Dev) (m : MemSys) : Leaves [.mem, .ms] isCounter e (e.withMs m) := (leaves_withMs_iff (by simp)).2 leaves_self
  have hmem (e : Dev) : Leaves [.mem, .ms] isCounter e (e.withMem (memWrite e.mem a bs)) :=
    (leaves_withMem_iff (by simp)).2 leaves_self
  have hcount : Leaves [.mem, .ms] isCounter d (if inStackByte d a then
      count d (homeHalf a) 0x621 (stackOf a % 4) (unitsUnder a bs.length) false else d) := by
    split
    next h =>
      rw [inStackByte, Bool.and_eq_true, decide_eq_true_eq] at h
      refine (onlyRegs_count _ _ _ _ _ _ ?_).leaves.weaken (by simp) fun _ => id
      unfold homeHalf stackOf
      omega
    next => exact leaves_self
  exact ((hcount.trans (hmem _)).trans (hms _ _)).trans (hms _ _)

theorem leaves_capLog (d : Dev) (kind src key : Nat) (data : List Byte) :
    Leaves [.mem, .ms, .tst, .hst] isCapture d (capLog d kind src key data) := by
  simp only [capLog]
  split
  · exact leaves_self
  · split
    · exact (leaves_capEnd d 1).weaken (by simp) fun _ => id
    · rw [leaves_fset_iff (by decide), leaves_withTst_iff (by simp)]
      exact (leaves_ctlWrite _ _ _).weaken (by simp) fun a h => isReport_of_isCounter (isReport_of_isCapture h)

theorem leaves_verdictLogged (d : Dev) (s v : Nat) (perm : Bool) :
    Leaves [.mem, .ms, .tst, .hst] isCapture d (verdictLogged d s v perm) := by
  have hlog := leaves_capLog d 0x0C 0 0 (leBytes 8 (s + v <<< 32 + (b2n perm) <<< 36))
  simp only [verdictLogged]
  split
  · exact hlog.trans ((leaves_capEnd _ _).weaken (by simp) fun _ => id)
  · exact hlog

theorem samePorts_treeRun (d : Dev) (perm : Bool) : SamePorts d (treeRun d perm) := by
  obtain h | h | ⟨s, v, gone, -, h⟩ := treeRun_cases d perm
  · rw [h]
    exact SamePorts.refl d
  · rw [h]
    exact samePorts_treePut d perm 0 0
  · rw [h]
    simp only [treeTake]
    refine (samePorts_goneNoted d gone).trans ?_
    split
    · split
      · exact SamePorts.refl _
      · exact samePorts_applyVerdict (SamePorts.of_ports ((leaves_verdictLogged _ _ _ _).1 .ports (by simp)))
    · exact samePorts_treePut _ perm s v

theorem samePorts_trees (d : Dev) : SamePorts d (trees d) := (samePorts_treeRun d false).trans (samePorts_treeRun _ true)

/-- What the trees may move when a capture is at work. -/
def treeParts : List Piece := [.gov, .ports, .mach, .hst, .mem, .ms, .tst]

/-- What the trees may write when a capture is at work. -/
def isTreeReg (a : Nat) : Bool := machReports a || isCapture a

theorem treeFrame_logged : TreeFrame treeParts isTreeReg :=
  ⟨by decide, by decide, by decide, by decide, fun _ h => (Bool.or_eq_false_iff.1 h).1⟩

theorem leaves_treeRun (d : Dev) (perm : Bool) : Leaves treeParts isTreeReg d (treeRun d perm) :=
  (treeFrame_logged.treeRun_of fun _ s v => (leaves_verdictLogged _ s v perm).weaken (by decide)
    fun _ h => (Bool.or_eq_false_iff.1 h).2).2 leaves_self

theorem leaves_trees (d : Dev) : Leaves treeParts isTreeReg d (trees d) := (leaves_treeRun d false).trans (leaves_treeRun _ true)

/-! ### A change of a link's state (R512) -/

theorem leaves_sidHoldover (d : Dev) : Leaves [.mach, .hst] machReports d (sidHoldover d) := by
  by_cases hgo : (isMaster d || !(sidState d == 1 || sidState d == 2)) = true
  · rw [sidHoldover, if_pos hgo]
    exact leaves_self
  · rw [Bool.not_eq_true, Bool.or_eq_false_iff, Bool.not_eq_false', Bool.or_eq_true, beq_iff_eq, beq_iff_eq] at hgo
    exact (holdsOver_sidHoldover hgo.1 hgo.2).leaves

theorem leaves_sidPort (d : Dev) (q : Nat) : Leaves [.mach, .hst] machReports d (sidPort d q) := by
  unfold sidPort
  split
  · exact leaves_sidHoldover d
  · exact leaves_self

theorem samePorts_linkChanged (d : Dev) (q : Nat) : SamePorts d (linkChanged d q) :=
  (SamePorts.of_ports ((leaves_sidPort d q).1 .ports (by simp))).trans (samePorts_trees _)

theorem leaves_linkChanged (d : Dev) (q : Nat) : Leaves treeParts isTreeReg d (linkChanged d q) :=
  ((leaves_sidPort d q).weaken (by decide) fun _ h => (Bool.or_eq_false_iff.1 h).1).trans (leaves_trees _)

theorem leaves_linkChanged_quiet (hq : quiet d) (q : Nat) : Leaves [.gov, .ports, .mach, .hst] machReports d (linkChanged d q) := by
  have h := leaves_sidPort d q
  rw [linkChanged, treeFrame_reports.trees_iff (quiet_of_leaves hq (by decide) (by decide) h)]
  exact h.weaken (by simp) fun _ => id

/-! ### The registers of a port -/

theorem isPort_iff (q a : Nat) : isPort q a = true ↔ 0x600000 + 0x20000 * q ≤ a ∧ a < 0x600000 + 0x20000 * (q + 1) := by
  rw [isPort, Bool.and_eq_true, decide_eq_true_eq, decide_eq_true_eq]
  rfl

theorem not_machReports_port {q a : Nat} (hq : q < 8) (h : isPort q a = true) : isTreeReg a = false := by
  rw [isPort_iff] at h
  rw [isTreeReg, isCapture, machReports, isMachReg, Bool.eq_false_iff, ne_eq, Bool.or_eq_true, Bool.or_eq_true, Bool.or_eq_true,
    isReport_iff, isCounter_iff, these_iff, Bool.and_eq_true, decide_eq_true_eq, decide_eq_true_eq]
  simp only [A.SID_CTL, A.SID_MEMB, A.TST_CAPSTS, A.TST_CAP, A.TST_STS, List.mem_cons, List.not_mem_nil, or_false]
  omega

theorem isPort_psts (q : Nat) : isPort q (A.HRM_PSTS q) = true := by rw [isPort_iff, A.HRM_PSTS]; omega
theorem isPort_pctl (q : Nat) : isPort q (A.HRM_PCTL q) = true := by rw [isPort_iff, A.HRM_PCTL]; omega
theorem isPort_epoch (q : Nat) : isPort q (A.HRM_EPOCH q) = true := by rw [isPort_iff, A.HRM_EPOCH]; omega
theorem isPort_rpl (q : Nat) : isPort q (A.HRM_RPL q) = true := by rw [isPort_iff, A.HRM_RPL]; omega
theorem isPort_vccred {q v : Nat} (hv : v < 6) : isPort q (A.HRM_VCCRED q v) = true := by rw [isPort_iff, A.HRM_VCCRED]; omega

theorem not_isReport_port {q a : Nat} (hq : q < 8) (h : isPort q a = true) : isReport a = false := by
  have := not_machReports_port hq h
  rw [isTreeReg, Bool.or_eq_false_iff] at this
  exact machReports_of_isReport this.1

theorem not_isCounter_port {q a : Nat} (hq : q < 8) (h : isPort q a = true) : isCounter a = false :=
  isReport_of_isCounter (not_isReport_port hq h)

/-! ### Records of a link (R490) -/

/-- What a record of a link of less than step-fatal severity writes. -/
def isLinkNote (q a : Nat) : Bool := isReport a || a == A.HRM_PSTS q

theorem leaves_hrmRaise_iff {q number sev epoch cause mask vc dropped : Nat} (hsev : sev < 2) (hh : Piece.hst ∈ ps)
    (hr : ∀ a, p a = false → isReport a = false) (hs : p (A.HRM_PSTS q) = true) :
    Leaves ps p d (hrmRaise e q number sev epoch cause mask vc dropped) ↔ Leaves ps p d e := by
  rw [hrmRaise, raise_minor _ _ _ _ _ hsev, leaves_post_iff hh hr, leaves_fset_iff hs]

theorem leaves_hrmRaise {q number sev epoch cause mask vc dropped : Nat} (hsev : sev < 2) (d : Dev) :
    Leaves [.hst] (isLinkNote q) d (hrmRaise d q number sev epoch cause mask vc dropped) :=
  (leaves_hrmRaise_iff hsev (by simp) (fun _ h => (Bool.or_eq_false_iff.1 h).1) (by simp)).2 leaves_self

theorem isRaise_psts {q : Nat} (hq : q < 8) : isRaise (A.HRM_PSTS q) = false := by
  rw [isRaise, Bool.or_eq_false_iff]
  refine ⟨not_isReport_port hq (isPort_psts q), ?_⟩
  rw [Bool.eq_false_iff, ne_eq, these_iff]
  simp only [A.HRM_PSTS, A.SEQ_STS, A.SEQ_CTL, A.TST_CAPSTS, List.mem_cons, List.not_mem_nil, or_false]
  omega

/-- A record of a link shows its number and leaves the other fields of the port's status. -/
theorem hrmRaise_psts {q : Nat} (hq : q < 8) (d : Dev) (number sev epoch cause mask vc dropped : Nat) :
    (number < 256 → fget (hrmRaise d q number sev epoch cause mask vc dropped) (A.HRM_PSTS q) F.HRM_PSTS_EXC = number) ∧
    (∀ f : Fld, f.ok = true → F.HRM_PSTS_EXC.apart f = true →
      fget (hrmRaise d q number sev epoch cause mask vc dropped) (A.HRM_PSTS q) f = fget d (A.HRM_PSTS q) f) := by
  refine ⟨fun hn => ?_, fun f hf ha => ?_⟩
  · rw [hrmRaise, (keepsRegs_raise _ _ _ _ _).fget (isRaise_psts hq), fget_fset_self _ _ _ _ (by decide)]
    exact Nat.mod_eq_of_lt hn
  · rw [hrmRaise, (keepsRegs_raise _ _ _ _ _).fget (isRaise_psts hq), fget_fset_apart _ _ _ _ _ _ (by decide) hf ha]

/-! ### Entering RESET (R470) -/

/-- The credits of a port are gone. -/
def creditsCleared (d : Dev) (q : Nat) : Dev := (List.range 6).foldl (fun d v => regSet d (A.HRM_VCCRED q v) 0) d

theorem regGet_foldl_zero (g : Nat → Nat) (l : List Nat) (d : Dev) (a : Nat) :
    regGet (l.foldl (fun d v => regSet d (g v) 0) d) a = if a ∈ l.map g then 0 else regGet d a := by
  induction l generalizing d with
  | nil => rfl
  | cons v l ih =>
    rw [List.foldl_cons, ih]
    by_cases h : a = g v
    · subst h
      simp [regGet_regSet_self]
    · simp [regGet_regSet_ne _ h, h]

theorem creditsCleared_zero (d : Dev) (q : Nat) {v : Nat} (hv : v < 6) : regGet (creditsCleared d q) (A.HRM_VCCRED q v) = 0 := by
  rw [creditsCleared, regGet_foldl_zero, if_pos]
  exact List.mem_map.2 ⟨v, List.mem_range.2 hv, rfl⟩

theorem leaves_creditsCleared_iff {q : Nat} (h : ∀ v, v < 6 → p (A.HRM_VCCRED q v) = true) :
    Leaves ps p d (creditsCleared e q) ↔ Leaves ps p d e := by
  refine Leaves.drop (qs := []) (q := p) ?_ (by simp) fun _ => id
  exact Leaves.foldl (fun x v hv hx => (leaves_regSet_iff (h v (List.mem_range.1 hv))).2 hx) leaves_self

/-- The registers of a port that enters RESET. -/
def resetRegs (d : Dev) (q cause : Nat) : Dev :=
  let old := epochOf d q
  let d := latch d [A.HRM_PCTL q, A.HRM_CFG q, A.HRM_VCBUF q, A.HRM_PARB q, A.HRM_LANE q]
  let d := fincSat (fset d (A.HRM_EPOCH q) F.HRM_EPOCH_EPOCH (old + 1)) (A.HRM_EPOCH q) F.HRM_EPOCH_RESETS 1
  let d := countPkg d 0x808 q 1 false
  let d := setLstate (fset d (A.HRM_PSTS q) F.HRM_PSTS_CAUSE cause) q 1
  regSet (creditsCleared d q) (A.HRM_RPL q) 0

/-- What a port that enters RESET keeps. -/
def resetPort (d : Dev) (q : Nat) (x : Port) : Port :=
  { Port.init with nextId := x.nextId, inbox := x.inbox, resetAt := d.now, resetCfg := vcBufBad d q,
                   nonce := Config.nonce q d.fresh % 2 ^ 16, peerSlice := x.peerSlice, peerState := x.peerState,
                   peerHops := x.peerHops, idleAt := x.idleAt, replayMs := x.replayMs, tx := x.tx,
                   rx := x.rx }

/-- The port in RESET, before anything tells of it. -/
def resetEntered (d : Dev) (q cause : Nat) : Dev :=
  drawn (setPort (resetRegs d q cause) q (resetPort (resetRegs d q cause) q (portOf d q)))

/-- The records of a reset. -/
def resetTold (d : Dev) (q old cause : Nat) : Dev :=
  let d := hrmRaise d q 0xE8 0 old cause 0 0 0
  if vcBufBad d q then hrmNote d q 0xEE 0 else d

theorem heldMessages_empty {x : Port} (hq : x.queue = []) (hr : x.replay = []) : heldMessages x = [] := by
  simp [heldMessages, hq, hr]

theorem dropAll_nil (d : Dev) (q epoch cause : Nat) : dropAll d q epoch cause [] = d := by simp [dropAll]

/-- The reset of a port that holds no messages. -/
theorem linkReset_empty {q : Nat} (h : portEmpty d q) (cause : Nat) :
    linkReset d q cause = linkChanged (resetTold (resetEntered d q cause) q (epochOf d q) cause) q := by
  have hms := heldMessages_empty h.1 h.2
  simp only [linkReset, hms, dropAll_nil, List.length_nil]
  rfl

/-- What a reset moves of the package. -/
def resetParts : List Piece := [.clock, .live, .gov, .ports, .mach, .hst]

/-- What a reset of a port writes. -/
def isResetReg (q a : Nat) : Bool := machReports a || isPort q a

theorem isReport_of_isResetReg {q a : Nat} (h : isResetReg q a = false) : isReport a = false :=
  machReports_of_isReport (Bool.or_eq_false_iff.1 h).1

theorem isResetReg_port {q a : Nat} (h : isPort q a = true) : isResetReg q a = true := by rw [isResetReg, h, Bool.or_true]

theorem leaves_resetRegs_iff {q cause : Nat} (hl : Piece.live ∈ ps) (hc : ∀ a, p a = false → isCounter a = false)
    (hp : ∀ a, isPort q a = true → p a = true) : Leaves ps p d (resetRegs e q cause) ↔ Leaves ps p d e := by
  simp only [resetRegs, setLstate]
  rw [leaves_regSet_iff (hp _ (isPort_rpl q)), leaves_creditsCleared_iff fun v hv => hp _ (isPort_vccred hv),
    leaves_fset_iff (hp _ (isPort_psts q)), leaves_fset_iff (hp _ (isPort_psts q)), leaves_countPkg_iff hc,
    leaves_fincSat_iff (hp _ (isPort_epoch q)), leaves_fset_iff (hp _ (isPort_epoch q)), leaves_latch_iff hl]

section
variable {q cause : Nat} (hq : q < 8)
include hq

omit hq in
theorem resetRegs_psts (d : Dev) (hcause : cause < 16) : lstate (resetRegs d q cause) q = 1 ∧
    fget (resetRegs d q cause) (A.HRM_PSTS q) F.HRM_PSTS_CAUSE = cause := by
  have hlast (e : Dev) (f : Fld) : fget (regSet (creditsCleared e q) (A.HRM_RPL q) 0) (A.HRM_PSTS q) f = fget e (A.HRM_PSTS q) f := by
    rw [fget_regSet_ne _ (by simp only [A.HRM_PSTS, A.HRM_RPL]; omega), fget, creditsCleared, regGet_foldl_zero, if_neg]
    · rfl
    · rw [List.mem_map]
      rintro ⟨v, -, h⟩
      simp only [A.HRM_PSTS, A.HRM_VCCRED] at h
      omega
  refine ⟨?_, ?_⟩
  · rw [lstate, resetRegs, hlast, setLstate, fget_fset_self _ _ _ _ (by decide)]
    rfl
  · rw [resetRegs, hlast, setLstate, fget_fset_apart _ _ _ _ _ _ (by decide) (by decide) (by decide),
      fget_fset_self _ _ _ _ (by decide)]
    exact Nat.mod_eq_of_lt hcause

theorem resetRegs_epoch (d : Dev) (cause : Nat) : epochOf (resetRegs d q cause) q = (epochOf d q + 1) % 2 ^ 16 := by
  rw [epochOf, resetRegs, fget_regSet_ne _ (by simp only [A.HRM_EPOCH, A.HRM_RPL]; omega), fget, creditsCleared,
    regGet_foldl_zero, if_neg]
  · rw [← fget, setLstate, fget_fset_ne _ (by simp only [A.HRM_EPOCH, A.HRM_PSTS]; omega),
      fget_fset_ne _ (by simp only [A.HRM_EPOCH, A.HRM_PSTS]; omega),
      (onlyRegs_countPkg _ _ _ _ _).2.fget (not_isCounter_port hq (isPort_epoch q)), fincSat,
      fget_fset_apart _ _ _ _ _ _ (by decide) (by decide) (by decide), fget_fset_self _ _ _ _ (by decide)]
    rfl
  · rw [List.mem_map]
    rintro ⟨v, -, h⟩
    simp only [A.HRM_EPOCH, A.HRM_VCCRED] at h
    omega

theorem resetRegs_pctl (d : Dev) (cause : Nat) (f : Fld) :
    fget (resetRegs d q cause) (A.HRM_PCTL q) f = fget d (A.HRM_PCTL q) f := by
  rw [resetRegs, fget_regSet_ne _ (by simp only [A.HRM_PCTL, A.HRM_RPL]; omega), fget, creditsCleared,
    regGet_foldl_zero, if_neg]
  · rw [← fget, setLstate, fget_fset_ne _ (by simp only [A.HRM_PCTL, A.HRM_PSTS]; omega),
      fget_fset_ne _ (by simp only [A.HRM_PCTL, A.HRM_PSTS]; omega),
      (onlyRegs_countPkg _ _ _ _ _).2.fget (not_isCounter_port hq (isPort_pctl q)), fincSat,
      fget_fset_ne _ (by simp only [A.HRM_PCTL, A.HRM_EPOCH]; omega),
      fget_fset_ne _ (by simp only [A.HRM_PCTL, A.HRM_EPOCH]; omega), fget_latch]
  · rw [List.mem_map]
    rintro ⟨v, -, h⟩
    simp only [A.HRM_PCTL, A.HRM_VCCRED] at h
    omega

omit hq in
theorem resetRegs_credits (d : Dev) (q cause : Nat) : (∀ v, v < 6 → regGet (resetRegs d q cause) (A.HRM_VCCRED q v) = 0) ∧
    regGet (resetRegs d q cause) (A.HRM_RPL q) = 0 := by
  refine ⟨fun v hv => ?_, regGet_regSet_self ..⟩
  rw [resetRegs, regGet_regSet_ne _ (by simp only [A.HRM_VCCRED, A.HRM_RPL]; omega), creditsCleared_zero _ _ hv]

end

/-- A link's round: RESET entered with a new epoch and its cause, and nothing left of what the port held. -/
structure Round (d u : Dev) (q cause : Nat) : Prop where
  state : lstate u q = 1
  epoch : epochOf u q = (epochOf d q + 1) % 2 ^ 16
  cause : fget u (A.HRM_PSTS q) F.HRM_PSTS_CAUSE = cause
  since : (portOf u q).resetAt = d.now
  empty : portEmpty u q
  credits : ∀ v, v < 6 → regGet u (A.HRM_VCCRED q v) = 0
  replay : regGet u (A.HRM_RPL q) = 0
  link : fget u (A.HRM_PCTL q) F.HRM_PCTL_LINK = fget d (A.HRM_PCTL q) F.HRM_PCTL_LINK
  leaves : Leaves resetParts (isResetReg q) d u

theorem setPort_regs (d : Dev) (q : Nat) (x : Port) : (setPort d q x).regs = d.regs := rfl

theorem leaves_drawn_iff (h : Piece.clock ∈ ps) : Leaves ps p d (drawn e) ↔ Leaves ps p d e :=
  leaves_part .clock h rfl fun y hy => by cases y <;> simp_all [Piece.same, drawn]

theorem regGet_resetEntered (d : Dev) (q cause a : Nat) : regGet (resetEntered d q cause) a = regGet (resetRegs d q cause) a :=
  congrArg (sget (regReset a) a) ((drawn_regs _).trans (setPort_regs ..))

theorem fget_resetEntered (d : Dev) (q cause a : Nat) (f : Fld) :
    fget (resetEntered d q cause) a f = fget (resetRegs d q cause) a f := congrArg f.of (regGet_resetEntered ..)

theorem resetEntered_port (d : Dev) (q cause : Nat) :
    portOf (resetEntered d q cause) q = resetPort (resetRegs d q cause) q (portOf d q) := sget_sset_self ..

theorem leaves_resetEntered (d : Dev) (q cause : Nat) : Leaves resetParts (isResetReg q) d (resetEntered d q cause) := by
  rw [resetEntered, leaves_drawn_iff (by decide), leaves_setPort_iff (by decide), leaves_resetRegs_iff (by decide)
    (fun _ h => isReport_of_isCounter (isReport_of_isResetReg h)) fun _ => isResetReg_port]
  exact leaves_self

theorem leaves_resetTold (d : Dev) (q old cause : Nat) : Leaves [.hst] (isLinkNote q) d (resetTold d q old cause) := by
  simp only [resetTold]
  split
  · exact (leaves_hrmRaise (by decide) d).trans (leaves_hrmRaise (by decide) _)
  · exact leaves_hrmRaise (by decide) d

theorem resetTold_psts {q : Nat} (hq : q < 8) (d : Dev) (old cause : Nat) (f : Fld) (hf : f.ok = true)
    (ha : F.HRM_PSTS_EXC.apart f = true) : fget (resetTold d q old cause) (A.HRM_PSTS q) f = fget d (A.HRM_PSTS q) f := by
  simp only [resetTold]
  split
  · rw [hrmNote, (hrmRaise_psts hq _ _ _ _ _ _ _ _).2 f hf ha, (hrmRaise_psts hq _ _ _ _ _ _ _ _).2 f hf ha]
  · exact (hrmRaise_psts hq _ _ _ _ _ _ _ _).2 f hf ha

theorem isResetReg_of_linkNote {q a : Nat} (h : isResetReg q a = false) : isLinkNote q a = false := by
  rw [isLinkNote, Bool.or_eq_false_iff, beq_eq_false_iff_ne]
  refine ⟨isReport_of_isResetReg h, ?_⟩
  rintro rfl
  rw [isResetReg_port (isPort_psts q)] at h
  cases h

theorem quiet_of_reset {q : Nat} (hquiet : quiet d) (h : Leaves ps (isResetReg q) d e) : quiet e := by
  refine quiet_of_leaves hquiet ?_ ?_ h
  all_goals
    rw [isResetReg, Bool.or_eq_false_iff]
    refine ⟨by decide, ?_⟩
    rw [Bool.eq_false_iff, ne_eq, isPort_iff]
    simp only [A.TST_CAPSTS, A.TST_RPL]
    omega

theorem resetRegs_now (d : Dev) (q cause : Nat) : (resetRegs d q cause).now = d.now := by
  have h : Leaves [.live] (fun _ => true) d (resetRegs d q cause) :=
    (leaves_resetRegs_iff (by simp) (fun _ h => by cases h) fun _ _ => rfl).2 leaves_self
  exact (h.1 .clock (by simp)).1

theorem resetPort_since (d : Dev) (q : Nat) (x : Port) (b : Bool) :
    ({ resetPort d q x with newContent := b } : Port).resetAt = d.now := rfl

theorem resetPort_empty (d : Dev) (q : Nat) (x : Port) (b : Bool) :
    ({ resetPort d q x with newContent := b } : Port).queue = [] ∧
      ({ resetPort d q x with newContent := b } : Port).replay = [] := ⟨rfl, rfl⟩

theorem round_linkReset {q cause : Nat} (hq : q < 8) (hcause : cause < 16) (hempty : portEmpty d q) (hquiet : quiet d) :
    Round d (linkReset d q cause) q cause := by
  obtain ⟨E, hE⟩ : ∃ E, resetEntered d q cause = E := ⟨_, rfl⟩
  obtain ⟨T, hT⟩ : ∃ T, resetTold E q (epochOf d q) cause = T := ⟨_, rfl⟩
  have hEl : Leaves resetParts (isResetReg q) d E := hE ▸ leaves_resetEntered d q cause
  have hTl : Leaves [.hst] (isLinkNote q) E T := hT ▸ leaves_resetTold E q _ cause
  have hdT : Leaves resetParts (isResetReg q) d T := hEl.trans (hTl.weaken (by decide) fun _ => isResetReg_of_linkNote)
  have hu := leaves_linkChanged_quiet (quiet_of_reset hquiet hdT) q
  rw [linkReset_empty hempty, hE, hT]
  have hport {a : Nat} (ha : isPort q a = true) : machReports a = false := by
    have := not_machReports_port hq ha
    rw [isTreeReg, Bool.or_eq_false_iff] at this
    exact this.1
  have hnote {a : Nat} (ha : isPort q a = true) (hne : a ≠ A.HRM_PSTS q) : isLinkNote q a = false := by
    rw [isLinkNote, not_isReport_port hq ha, Bool.false_or, beq_eq_false_iff_ne]
    exact hne
  have hregs {a : Nat} (ha : isPort q a = true) (hne : a ≠ A.HRM_PSTS q) :
      regGet (linkChanged T q) a = regGet (resetRegs d q cause) a := by
    rw [hu.2 a (hport ha), hTl.2 a (hnote ha hne), ← hE, regGet_resetEntered]
  have hfld (f : Fld) (hf : f.ok = true) (ha : F.HRM_PSTS_EXC.apart f = true) :
      fget (linkChanged T q) (A.HRM_PSTS q) f = fget (resetRegs d q cause) (A.HRM_PSTS q) f := by
    rw [hu.2.fget (hport (isPort_psts q)), ← hT, resetTold_psts hq _ _ _ _ hf ha, ← hE, fget_resetEntered]
  obtain ⟨hstate, hc⟩ := resetRegs_psts (q := q) d hcause
  obtain ⟨hcred, hrpl⟩ := resetRegs_credits d q cause
  obtain ⟨b, hb⟩ := samePorts_linkChanged T q q
  have hTp : portOf T q = resetPort (resetRegs d q cause) q (portOf d q) := by
    rw [portOf, hTl.1 .ports (by simp), ← hE]
    exact resetEntered_port d q cause
  rw [hTp] at hb
  refine ⟨?_, ?_, ?_, ?_, ?_, ?_, ?_, ?_, ?_⟩
  · exact (hfld _ (by decide) (by decide)).trans hstate
  · exact (congrArg F.HRM_EPOCH_EPOCH.of (hregs (isPort_epoch q) (by simp only [A.HRM_EPOCH, A.HRM_PSTS]; omega))).trans
      (resetRegs_epoch hq d cause)
  · exact (hfld _ (by decide) (by decide)).trans hc
  · rw [hb, resetPort_since, resetRegs_now]
  · rw [portEmpty, hb]
    exact resetPort_empty _ _ _ _
  · intro v hv
    rw [hregs (isPort_vccred hv) (by simp only [A.HRM_VCCRED, A.HRM_PSTS]; omega), hcred v hv]
  · rw [hregs (isPort_rpl q) (by simp only [A.HRM_RPL, A.HRM_PSTS]; omega), hrpl]
  · exact (congrArg F.HRM_PCTL_LINK.of (hregs (isPort_pctl q) (by simp only [A.HRM_PCTL, A.HRM_PSTS]; omega))).trans
      (resetRegs_pctl hq d cause _)
  · exact hdT.trans (hu.weaken (by decide) fun a ha => (Bool.or_eq_false_iff.1 ha).1)

/-! ### Requests for a reset (R470) -/

/-- What a request inside RWIN of the last reset leaves: its cause alone is kept. -/
structure CauseHeld (d u : Dev) (q cause : Nat) : Prop where
  cause : fget u (A.HRM_PSTS q) F.HRM_PSTS_CAUSE = cause
  state : lstate u q = lstate d q
  leaves : Leaves [] (these [A.HRM_PCTL q, A.HRM_PSTS q]) d u

theorem resetRequest_off {q : Nat} (h : lstate d q = 0) (cause : Nat) : resetRequest d q cause = d := by rw [resetRequest, if_pos h]

theorem resetRequest_late {q : Nat} (h : lstate d q ≠ 0) (hl : (portOf d q).resetAt + us (liveGet d (A.HRM_CFG q) F.HRM_CFG_RWIN) < d.now)
    (cause : Nat) : resetRequest d q cause = linkReset d q cause := by
  rw [resetRequest, if_neg h, if_neg (by omega)]

theorem resetRequest_early {q : Nat} (h : lstate d q ≠ 0)
    (hl : ¬ (portOf d q).resetAt + us (liveGet d (A.HRM_CFG q) F.HRM_CFG_RWIN) < d.now) (cause : Nat) :
    resetRequest d q cause = fset d (A.HRM_PSTS q) F.HRM_PSTS_CAUSE cause := by
  rw [resetRequest, if_neg h, if_pos (by omega)]

/-- LINK takes its command. -/
def linkSet (d : Dev) (q v : Nat) : Dev := fset d (A.HRM_PCTL q) F.HRM_PCTL_LINK v

theorem lstate_linkSet (d : Dev) (q v : Nat) : lstate (linkSet d q v) q = lstate d q :=
  fget_fset_ne _ (by simp only [A.HRM_PSTS, A.HRM_PCTL]; omega) _ _ _

theorem link_linkSet (d : Dev) (q : Nat) {v : Nat} (hv : v < 2) : fget (linkSet d q v) (A.HRM_PCTL q) F.HRM_PCTL_LINK = v :=
  (fget_fset_self _ _ _ _ (by decide)).trans (Nat.mod_eq_of_lt hv)

theorem leaves_linkSet (h : p (A.HRM_PCTL q) = true) (v : Nat) : Leaves ps p d (linkSet d q v) :=
  (leaves_fset_iff h).2 leaves_self

theorem epochOf_linkSet (d : Dev) (q v : Nat) : epochOf (linkSet d q v) q = epochOf d q :=
  fget_fset_ne _ (by simp only [A.HRM_EPOCH, A.HRM_PCTL]; omega) _ _ _

theorem quiet_linkSet (h : quiet d) (q v : Nat) : quiet (linkSet d q v) :=
  quiet_of_reset (ps := []) h (leaves_linkSet (isResetReg_port (isPort_pctl q)) v)

/-- A round that begins with a write of LINK is a round. -/
theorem Round.of_linkSet {u : Dev} {q v cause : Nat} (h : Round (linkSet d q v) u q cause) (hv : v < 2) :
    fget u (A.HRM_PCTL q) F.HRM_PCTL_LINK = v ∧ lstate u q = 1 ∧ epochOf u q = (epochOf d q + 1) % 2 ^ 16 ∧
      fget u (A.HRM_PSTS q) F.HRM_PSTS_CAUSE = cause ∧ (portOf u q).resetAt = d.now ∧ portEmpty u q ∧
      (∀ v, v < 6 → regGet u (A.HRM_VCCRED q v) = 0) ∧ regGet u (A.HRM_RPL q) = 0 ∧
      Leaves resetParts (isResetReg q) d u :=
  ⟨h.link.trans (link_linkSet d q hv), h.state, h.epoch.trans (congrArg (fun n => (n + 1) % 2 ^ 16) (epochOf_linkSet d q v)), h.cause,
    h.since, h.empty, h.credits, h.replay, (leaves_linkSet (isResetReg_port (isPort_pctl q)) v).trans h.leaves⟩

theorem causeHeld_fset {q cause : Nat} (hcause : cause < 16) (d : Dev) :
    CauseHeld d (fset d (A.HRM_PSTS q) F.HRM_PSTS_CAUSE cause) q cause :=
  ⟨(fget_fset_self _ _ _ _ (by decide)).trans (Nat.mod_eq_of_lt hcause),
    fget_fset_apart _ _ _ _ _ _ (by decide) (by decide) (by decide), (leaves_fset_iff (by simp [these])).2 leaves_self⟩

theorem CauseHeld.of_linkSet {u : Dev} {q v cause : Nat} (h : CauseHeld (linkSet d q v) u q cause) : CauseHeld d u q cause :=
  ⟨h.cause, h.state.trans (lstate_linkSet d q v), (leaves_linkSet (by simp [these]) v).trans h.leaves⟩

/-- A reset taken by LINK 0 goes no further: RESET is neither trained nor beyond. -/
theorem linkOff_late {q : Nat} (hlink : fget d (A.HRM_PCTL q) F.HRM_PCTL_LINK = 1) (hst : lstate d q ≠ 0)
    (hl : (portOf d q).resetAt + us (liveGet d (A.HRM_CFG q) F.HRM_CFG_RWIN) < d.now)
    (hround : lstate (linkReset (linkSet d q 0) q 0) q = 1) : linkOff d q = linkReset (linkSet d q 0) q 0 := by
  have hreq : resetRequest (fset d (A.HRM_PCTL q) F.HRM_PCTL_LINK 0) q 0 = linkReset (linkSet d q 0) q 0 :=
    resetRequest_late (d := linkSet d q 0) (by rw [lstate_linkSet]; exact hst) hl 0
  rw [linkOff, if_neg (by rw [hlink]; decide), hreq]
  simp only [hround]
  rw [if_neg (by decide), if_neg (by decide)]

/-- Settles O44: a request resets the port once RWIN is past, and keeps its cause alone inside it. -/
theorem linkRequestsEnterReset : Obligations.LinkRequestsEnterReset := by
  intro t port s d q x link later round held hempty hquiet
  have hq : q < 8 := port.isLt
  have hset (v : Nat) {cause : Nat} (hc : cause < 16) : Round (linkSet d q v) (linkReset (linkSet d q v) q cause) q cause :=
    round_linkReset hq hc hempty (quiet_linkSet hquiet q v)
  have hplain {cause : Nat} (hc : cause < 16) : Round d (linkReset d q cause) q cause := round_linkReset hq hc hempty hquiet
  have hround {u : Dev} {cause : Nat} (h : Round d u q cause) : round { s with dev := u } cause :=
    ⟨h.state, h.epoch, h.cause, h.since, h.empty, h.credits, h.replay, h.leaves.1, h.leaves.2⟩
  have hheld {u : Dev} {cause : Nat} (h : CauseHeld d u q cause) : held { s with dev := u } cause :=
    ⟨h.cause, h.state, h.leaves.1, h.leaves.2⟩
  have hlinked {u : Dev} {v cause : Nat} (hv : v < 2) (h : Round (linkSet d q v) u q cause) :
      fget u (A.HRM_PCTL q) F.HRM_PCTL_LINK = v ∧ round { s with dev := u } cause := by
    obtain ⟨hl, h1, h2, h3, h4, h5, h6, h7, h8, h9⟩ := h.of_linkSet hv
    exact ⟨hl, h1, h2, h3, h4, h5, h6, h7, h8, h9⟩
  refine ⟨fun hl hor => ?_, fun hl hst hlt => ?_, fun hl => next_congr rfl (if_pos hl), fun hl hst hlt => ?_,
    fun hl => next_congr rfl (if_pos hl), fun hl hst hlt => ?_, fun hl hst hlt => ?_, fun hst hlt => ?_, fun hst hlt => ?_,
    fun hst => next_congr rfl (resetRequest_off hst 1), fun hf hf' => ?_, fun hf => ?_⟩
  · have hon : linkOn d q = linkReset (linkSet d q 1) q 0 := by
      rw [linkOn, if_neg (by rw [show fget d (A.HRM_PCTL q) F.HRM_PCTL_LINK = 0 from hl]; decide)]
      obtain h | h := Decidable.em (lstate d q = 0)
      · exact if_pos ((lstate_linkSet d q 1).trans h)
      · exact (if_neg (by rw [← linkSet, lstate_linkSet]; exact h)).trans
          (resetRequest_late (d := linkSet d q 1) (by rw [lstate_linkSet]; exact h) (hor.resolve_left h) 0)
    exact ⟨_, next_congr rfl hon, hlinked (by decide) (hset 1 (by decide))⟩
  · have hon : linkOn d q = fset (linkSet d q 1) (A.HRM_PSTS q) F.HRM_PSTS_CAUSE 0 := by
      rw [linkOn, if_neg (by rw [show fget d (A.HRM_PCTL q) F.HRM_PCTL_LINK = 0 from hl]; decide)]
      exact (if_neg (by rw [← linkSet, lstate_linkSet]; exact hst)).trans
        (resetRequest_early (d := linkSet d q 1) (by rw [lstate_linkSet]; exact hst) hlt 0)
    have hpctl : fget (fset (linkSet d q 1) (A.HRM_PSTS q) F.HRM_PSTS_CAUSE 0) (A.HRM_PCTL q) F.HRM_PCTL_LINK = 1 := by
      rw [fget_fset_ne _ (by simp only [A.HRM_PSTS, A.HRM_PCTL]; omega), link_linkSet d q (by decide)]
    exact ⟨_, next_congr rfl hon, hpctl, hheld (causeHeld_fset (by decide) _).of_linkSet⟩
  · exact ⟨_, next_congr rfl (linkOff_late hl hst hlt (hset 0 (by decide)).state), hlinked (by decide) (hset 0 (by decide))⟩
  · have hret : retrain d q = linkReset d q 0 := by
      rw [retrain, if_neg (by rw [show fget d (A.HRM_PCTL q) F.HRM_PCTL_LINK = 1 from hl]; decide), resetRequest_late hst hlt]
    exact ⟨_, next_congr rfl hret, (hplain (by decide)).link.trans hl, hround (hplain (by decide))⟩
  · have hret : retrain d q = fset d (A.HRM_PSTS q) F.HRM_PSTS_CAUSE 0 := by
      rw [retrain, if_neg (by rw [show fget d (A.HRM_PCTL q) F.HRM_PCTL_LINK = 1 from hl]; decide), resetRequest_early hst hlt]
    exact ⟨_, next_congr rfl hret, hheld (causeHeld_fset (by decide) d)⟩
  · exact ⟨_, next_congr rfl (resetRequest_late hst hlt 1), hround (hplain (by decide))⟩
  · exact ⟨_, next_congr rfl (resetRequest_early hst hlt 1), hheld (causeHeld_fset (by decide) d)⟩
  · exact ⟨_, next_congr rfl (if_pos ⟨hf, hf'⟩), hround (hplain (by decide))⟩
  · exact next_congr rfl (if_neg fun h => h.1 hf)

/-! ### The phases of training (R472 to R480) -/

theorem lstate_linkChanged {q : Nat} (hq : q < 8) (d : Dev) : lstate (linkChanged d q) q = lstate d q :=
  (leaves_linkChanged d q).2.fget (not_machReports_port hq (isPort_psts q)) _

theorem lstate_setLstate (d : Dev) (q : Nat) {v : Nat} (hv : v < 8) : lstate (setLstate d q v) q = v :=
  (fget_fset_self _ _ _ _ (by decide)).trans (Nat.mod_eq_of_lt hv)

/-- The set of the numbers of a growing list has each of them as a bit. -/
theorem testBit_sum_powers (l : List (Option Nat × Nat)) (i a : Nat) (hd : l.Pairwise (·.2 < ·.2)) (ha : ∀ x ∈ l, a < 2 ^ x.2) :
    (l.foldl (fun a x => a + 2 ^ x.2) a).testBit i = (a.testBit i || decide (∃ x ∈ l, x.2 = i)) := by
  induction l generalizing a with
  | nil => simp
  | cons x l ih =>
    obtain ⟨hx, hl⟩ := List.pairwise_cons.1 hd
    have hadd : a + 2 ^ x.2 = 2 ^ x.2 ||| a := by
      have := Nat.two_pow_add_eq_or_of_lt (ha x (by simp)) 1
      rw [Nat.mul_one] at this
      omega
    have hgrown (y) (hy : y ∈ l) : a + 2 ^ x.2 < 2 ^ y.2 := by
      have h1 := ha x (by simp)
      have h2 : 2 ^ (x.2 + 1) ≤ 2 ^ y.2 := Nat.pow_le_pow_right (by decide) (hx y hy)
      rw [pow_succ] at h2
      omega
    rw [List.foldl_cons, ih _ hl hgrown, hadd, Nat.testBit_or, Nat.testBit_two_pow]
    by_cases hi : x.2 = i <;> simp only [List.exists_mem_cons_iff, hi] <;> simp

/-- A lane of the training list passes where it is not left out and saw few errors. -/
theorem lanesPassing_testBit (d : Dev) (q : Nat) (lanes : List (Option Nat)) {l : Nat} (hl : l < 16) :
    (lanesPassing d q lanes).testBit l = (!(liveGet d (A.HRM_LANE q) F.HRM_LANE_EXCL).testBit l &&
      match lanes[l]? with
      | some (some n) => decide (n ≤ 112)
      | _ => false) := by
  have hgrow : lanes.zipIdx.Pairwise (·.2 < ·.2) := by
    rw [← List.pairwise_map (f := Prod.snd) (R := (· < ·)), List.zipIdx_map_snd]
    exact List.pairwise_lt_range'
  rw [lanesPassing, testBit_sum_powers _ _ _ (hgrow.sublist List.filter_sublist) (by simp), Bool.eq_iff_iff]
  simp only [Nat.zero_testBit, Bool.false_or, decide_eq_true_eq, List.mem_filter, Prod.exists, exists_eq_right, List.mem_zipIdx_iff_getElem?,
    hl, Bool.and_eq_true]
  cases lanes[l]? with
  | none => simp
  | some o => cases o <;> simp

theorem chooseWidth_isSome (own peer pass : Nat) (h : (chooseWidth own peer pass).isSome = true) :
    (chooseWidth 0 0 pass).isSome = true := by
  simp only [chooseWidth] at h ⊢
  split at h
  · cases h
  next w hw =>
    obtain ⟨g, hg, hp⟩ := List.any_eq_true.1 (List.find?_some (p := fun w => (List.range (2 ^ w)).any (groupPasses pass w)) hw)
    simpa [List.find?_isSome] using ⟨g, List.mem_range.1 hg, hp⟩

theorem leaves_setPhase (h : Piece.ports ∈ ps) (d : Dev) (q ph : Nat) : Leaves ps p d (setPhase d q ph) :=
  (leaves_modPort_iff h).2 leaves_self

theorem setPhase_port (d : Dev) (q ph : Nat) : (portOf (setPhase d q ph) q).phase = ph ∧ (portOf (setPhase d q ph) q).phaseAt = d.now := by
  rw [setPhase, modPort_port]
  exact ⟨rfl, rfl⟩

/-- A failed training is reported and waits for its reset. -/
theorem trainFail_shown {q : Nat} (hq : q < 8) (d : Dev) (pass : Nat) : (portOf (trainFail d q pass) q).failAt = d.now + 1 ∧
    lstate (trainFail d q pass) q = lstate d q ∧ fget (trainFail d q pass) (A.HRM_PSTS q) F.HRM_PSTS_EXC = 0xEA ∧
    Leaves [.ports, .hst] (isLinkNote q) d (trainFail d q pass) := by
  obtain ⟨epoch, cause, hr⟩ : ∃ epoch cause, trainFail d q pass =
      hrmRaise (modPort d q (fun x => { x with failAt := d.now + 1 })) q 0xEA 0 epoch cause pass 0 0 := ⟨_, _, rfl⟩
  obtain ⟨M, hM⟩ : ∃ M, modPort d q (fun x => { x with failAt := d.now + 1 }) = M := ⟨_, rfl⟩
  have hp : (portOf M q).failAt = d.now + 1 := by rw [← hM, modPort_port]
  have hl : Leaves [.ports] (fun _ => false) d M := hM ▸ (leaves_modPort_iff (by simp)).2 leaves_self
  have hn : Leaves [.hst] (isLinkNote q) M (hrmRaise M q 0xEA 0 epoch cause pass 0 0) := leaves_hrmRaise (by decide) M
  obtain ⟨he, hf⟩ := hrmRaise_psts hq M 0xEA 0 epoch cause pass 0 0
  rw [hr, hM]
  exact ⟨by rw [portOf, hn.1 .ports (by simp)]; exact hp, (hf _ (by decide) (by decide)).trans (hl.2.fget rfl _), he (by decide),
    (hl.weaken (by simp) fun _ _ => rfl).trans (hn.weaken (by simp) fun _ => id)⟩

theorem vcBuf_lt (d : Dev) (q : Nat) {v : Nat} : vcBuf d q v ≤ 4080 := by
  have : Fld.of ⟨8 * v + 7, 8 * v⟩ (sget (regReset (A.HRM_VCBUF q)) (A.HRM_VCBUF q) d.live) < 2 ^ (8 * v + 7 + 1 - 8 * v) := bits_lt ..
  rw [vcBuf, liveGet]
  have h8 : 8 * v + 7 + 1 - 8 * v = 8 := by omega
  rw [h8] at this
  omega
/-- The IDENT of a port is made of identity, configuration and the peer's name. -/
theorem identMsg_congr (h : Leaves [.ports] (isPort q) d e) (hq : q < 8) (hpeer : (portOf e q).peer = (portOf d q).peer) (res : Nat) :
    identMsg e q res = identMsg d q res := by
  have hreg {a : Nat} (ha : a < 0x600000) (f : Fld) : fget e a f = fget d a f := by
    refine h.2.fget ?_ f
    rw [Bool.eq_false_iff, ne_eq, isPort_iff]
    omega
  have hlive : liveGet e (A.HRM_PCTL q) F.HRM_PCTL_CLASS = liveGet d (A.HRM_PCTL q) F.HRM_PCTL_CLASS := by
    rw [liveGet, show e.live = d.live from (h.1 .live (by simp))]
    rfl
  have hnv : instMachine e = instMachine d := by
    rw [instMachine, memNat, memRead_congr fun i _ => (h.1 .nv (by simp) _).1]
    rfl
  rw [identMsg, hpeer, hlive, hnv, ownChip, initTtl, hreg (by decide), hreg (by decide), hreg (by decide), hreg (by decide)]
  rfl

/-- The port of a link that has locked, before anything is sent. -/
def lockedPort (x : Port) : Port := { x with phase := 0, ident := [], frameNo := none, badFrames := 0 }

/-- The package of a link that has locked, before anything is sent. -/
def lockedDev (d : Dev) (q : Nat) : Dev := setLstate (modPort d q lockedPort) q 4

theorem portOf_fset (d : Dev) (a : Nat) (f : Fld) (v q : Nat) : portOf (fset d a f v) q = portOf d q := rfl

theorem lockedDev_port (d : Dev) (q : Nat) : portOf (lockedDev d q) q = lockedPort (portOf d q) :=
  (portOf_fset ..).trans (modPort_port d q lockedPort)

theorem leaves_lockedDev (h : p (A.HRM_PSTS q) = true) (d : Dev) : Leaves [.ports] p d (lockedDev d q) := by
  rw [lockedDev, setLstate, leaves_fset_iff h, leaves_modPort_iff (by simp)]
  exact leaves_self

theorem vcBuf_lockedDev (d : Dev) (q v : Nat) : vcBuf (lockedDev d q) q v = vcBuf d q v := by
  rw [vcBuf, liveGet, show (lockedDev d q).live = d.live from (leaves_lockedDev (p := fun _ => true) rfl d).1 .live (by simp)]
  rfl

theorem lockDone_eq (h : inPhase d q 4 = true) (hq : q < 8) :
    lockDone d q = enqueue (grantVc (lockedDev d q) q 5) q (identMsg d q 0) none := by
  have hid := identMsg_congr (leaves_lockedDev (isPort_psts q) d) hq (by rw [lockedDev_port]; rfl) 0
  rw [lockDone, h, ← hid]
  rfl

theorem enqueue_port (d : Dev) (q : Nat) (m : Msg) (ctx : Option Nat) : portOf (enqueue d q m ctx) q =
    { portOf d q with queue := (portOf d q).queue ++ [⟨(portOf d q).nextId, m, 0, ctx⟩], nextId := (portOf d q).nextId + 1 } :=
  modPort_port ..

theorem vcBuf_fset (d : Dev) (a : Nat) (f : Fld) (n q v : Nat) : vcBuf (fset d a f n) q v = vcBuf d q v := rfl

/-- The credits owed with one buffer more. -/
def owedMore (x : Port) (v n : Nat) : Port := { x with owed := sset 0 v (sget 0 v x.owed + n) x.owed }

theorem grantVc_port (d : Dev) (q v : Nat) : portOf (grantVc d q v) q = owedMore (portOf d q) v (vcBuf d q v) := by
  rw [grantVc, modPort_port, portOf_fset, vcBuf_fset]
  rfl

theorem regGet_modPort (d : Dev) (q a : Nat) (g : Port → Port) : regGet (modPort d q g) a = regGet d a := rfl

theorem regGet_enqueue (d : Dev) (q : Nat) (m : Msg) (ctx : Option Nat) (a : Nat) : regGet (enqueue d q m ctx) a = regGet d a :=
  regGet_modPort ..

theorem regGet_grantVc (d : Dev) (q v a : Nat) :
    regGet (grantVc d q v) a = regGet (fset d (A.HRM_VCCRED q v) F.HRM_VCCRED_RXBUF (vcBuf d q v)) a :=
  regGet_modPort ..

/-- The port of a link in IDENT with one message waiting and one buffer granted. -/
theorem lockDone_shown (h : inPhase d q 4 = true) (hq : q < 8) : lstate (lockDone d q) q = 4 ∧
    (portOf (lockDone d q) q).queue = (portOf d q).queue ++ [⟨(portOf d q).nextId, identMsg d q 0, 0, none⟩] ∧
    fget (lockDone d q) (A.HRM_VCCRED q 5) F.HRM_VCCRED_RXBUF = vcBuf d q 5 ∧
    sget 0 5 (portOf (lockDone d q) q).owed = sget 0 5 (portOf d q).owed + vcBuf d q 5 ∧
    Leaves [.ports] (these [A.HRM_PSTS q, A.HRM_VCCRED q 5]) d (lockDone d q) := by
  have hreg (a : Nat) : regGet (lockDone d q) a = regGet (fset (lockedDev d q) (A.HRM_VCCRED q 5) F.HRM_VCCRED_RXBUF (vcBuf d q 5)) a := by
    rw [lockDone_eq h hq, regGet_enqueue, regGet_grantVc, vcBuf_lockedDev]
  have hbl : vcBuf d q 5 < 2 ^ 16 := (vcBuf_lt d q).trans_lt (by decide)
  refine ⟨?_, ?_, ?_, ?_, ?_⟩
  · refine (congrArg F.HRM_PSTS_LSTATE.of (hreg _)).trans ((fget_fset_ne _ (by simp only [A.HRM_PSTS, A.HRM_VCCRED]; omega) _ _ _).trans ?_)
    exact lstate_setLstate _ q (by decide)
  · rw [lockDone_eq h hq, enqueue_port, grantVc_port, lockedDev_port]
    rfl
  · exact (congrArg F.HRM_VCCRED_RXBUF.of (hreg _)).trans ((fget_fset_self _ _ _ _ (by decide)).trans (Nat.mod_eq_of_lt hbl))
  · rw [lockDone_eq h hq, enqueue_port, grantVc_port, lockedDev_port, vcBuf_lockedDev]
    exact sget_sset_self ..
  · rw [lockDone_eq h hq, enqueue, grantVc, leaves_modPort_iff (by simp), leaves_modPort_iff (by simp), leaves_fset_iff (by simp [these])]
    exact leaves_lockedDev (by simp [these]) d

/-- A port whose training begins. -/
def trainPort (x : Port) (peer : Peer) (master : Bool) (now : Nat) : Port :=
  { x with peer := peer, master := master, phase := 1, phaseAt := now, trainAt := now }

/-- Which end of a link decides for both (R473). -/
def isLinkMaster (d : Dev) (q : Nat) (peer : Peer) : Bool :=
  decide (ownChip d < peer.chip) || (ownChip d == peer.chip && decide ((portOf d q).nonce < peer.nonce))

/-- The later of a port's epoch and its peer's. -/
def laterEpoch (d : Dev) (q : Nat) (peer : Peer) : Nat := if tagOlder (epochOf d q) peer.epoch then peer.epoch else epochOf d q

theorem detectDone_eq (h : lstate d q = 2) {peer : Peer} (hne : peer.chip ≠ ownChip d ∨ peer.nonce ≠ (portOf d q).nonce) :
    detectDone d q peer = setLstate (fset (setPort (fset d (A.HRM_EPOCH q) F.HRM_EPOCH_EPOCH (laterEpoch d q peer)) q
      (trainPort (portOf d q) peer (isLinkMaster d q peer) d.now)) (A.HRM_PEERB q) F.HRM_PEERB_CHIP peer.chip) q 3 := by
  rw [detectDone, if_neg (not_not.2 h), if_neg (by omega)]
  rfl

theorem setPort_port (d : Dev) (q : Nat) (x : Port) : portOf (setPort d q x) q = x := sget_sset_self ..

theorem fget_setPort (d : Dev) (q : Nat) (x : Port) (a : Nat) (f : Fld) : fget (setPort d q x) a f = fget d a f := rfl

/-- A peer that answers with another name is noted, and training begins. -/
theorem detectDone_shown (h : lstate d q = 2) (peer : Peer) (hne : peer.chip ≠ ownChip d ∨ peer.nonce ≠ (portOf d q).nonce)
    (hchip : peer.chip < 2 ^ 14) (hepoch : peer.epoch < 2 ^ 16) : lstate (detectDone d q peer) q = 3 ∧
    portOf (detectDone d q peer) q = trainPort (portOf d q) peer (isLinkMaster d q peer) d.now ∧
    fget (detectDone d q peer) (A.HRM_PEERB q) F.HRM_PEERB_CHIP = peer.chip ∧
    epochOf (detectDone d q peer) q = laterEpoch d q peer ∧
    Leaves [.ports] (these [A.HRM_PSTS q, A.HRM_EPOCH q, A.HRM_PEERB q]) d (detectDone d q peer) := by
  have he16 : laterEpoch d q peer < 2 ^ 16 := by
    rw [laterEpoch]
    split
    · exact hepoch
    · exact fget_lt _ _ _
  rw [detectDone_eq h hne]
  refine ⟨lstate_setLstate _ q (by decide), ?_, ?_, ?_, ?_⟩
  · rw [setLstate, portOf_fset, portOf_fset, setPort_port]
  · rw [setLstate, fget_fset_ne _ (by simp only [A.HRM_PEERB, A.HRM_PSTS]; omega), fget_fset_self _ _ _ _ (by decide)]
    exact Nat.mod_eq_of_lt hchip
  · rw [epochOf, setLstate, fget_fset_ne _ (by simp only [A.HRM_EPOCH, A.HRM_PSTS]; omega),
      fget_fset_ne _ (by simp only [A.HRM_EPOCH, A.HRM_PEERB]; omega), fget_setPort, fget_fset_self _ _ _ _ (by decide)]
    exact Nat.mod_eq_of_lt he16
  · rw [setLstate, leaves_fset_iff (by simp [these]), leaves_fset_iff (by simp [these]), leaves_setPort_iff (by simp),
      leaves_fset_iff (by simp [these])]
    exact leaves_self

/-- The lanes that pass at both ends and that the peer does not leave out. -/
def lanesBoth (x : Port) (pass : Nat) : Nat := x.passOwn &&& pass &&& (0xFFFF - x.peer.excl % 2 ^ 16)

theorem lanesBoth_lt (x : Port) (pass : BitVec 16) : lanesBoth x pass.toNat < 2 ^ 16 :=
  Nat.lt_of_le_of_lt (Nat.and_le_left.trans Nat.and_le_right) pass.isLt

/-- The width a port decides on: its own choice for the link's master, what it is told otherwise. -/
def widthChosen (d : Dev) (q both width lgrp : Nat) : Option (Nat × Nat) :=
  if (portOf d q).master then chooseWidth (liveGet d (A.HRM_PCTL q) F.HRM_PCTL_RW) (portOf d q).peer.rw both
  else if (chooseWidth 0 0 both).isSome then some (width, lgrp) else none

theorem decideDone_some (h : inPhase d q 3 = true) {pass width lgrp w g : Nat}
    (hc : widthChosen d q (lanesBoth (portOf d q) pass) width lgrp = some (w, g)) : decideDone d q pass width lgrp =
      setPhase (fset (fset (fset d (A.HRM_LANE q) F.HRM_LANE_PASS (lanesBoth (portOf d q) pass)) (A.HRM_PSTS q) F.HRM_PSTS_WIDTH w)
        (A.HRM_PSTS q) F.HRM_PSTS_LGRP g) q 4 := by
  unfold widthChosen lanesBoth at hc
  unfold liveGet at hc
  simp only [decideDone, h, liveGet, fset_live]
  rw [hc]
  rfl

theorem decideDone_none (h : inPhase d q 3 = true) {pass width lgrp : Nat}
    (hc : widthChosen d q (lanesBoth (portOf d q) pass) width lgrp = none) : decideDone d q pass width lgrp =
      trainFail (fset d (A.HRM_LANE q) F.HRM_LANE_PASS (lanesBoth (portOf d q) pass)) q (lanesBoth (portOf d q) pass) := by
  unfold widthChosen lanesBoth at hc
  unfold liveGet at hc
  simp only [decideDone, h, liveGet, fset_live]
  rw [hc]
  rfl

theorem inPhase_iff {n : Nat} : inPhase d q n = true ↔ lstate d q = 3 ∧ (portOf d q).phase = n ∧ (portOf d q).failAt = 0 := by
  rw [inPhase, Bool.and_eq_true, Bool.and_eq_true, decide_eq_true_eq, beq_iff_eq, beq_iff_eq, and_assoc]

/-- The registers of a link whose width is decided. -/
theorem widthShown (d : Dev) (q : Nat) {both w g : Nat} (hb : both < 2 ^ 16) (hw : w < 4) (hg : g < 4) :
    let u := setPhase (fset (fset (fset d (A.HRM_LANE q) F.HRM_LANE_PASS both) (A.HRM_PSTS q) F.HRM_PSTS_WIDTH w)
      (A.HRM_PSTS q) F.HRM_PSTS_LGRP g) q 4
    fget u (A.HRM_PSTS q) F.HRM_PSTS_WIDTH = w ∧ fget u (A.HRM_PSTS q) F.HRM_PSTS_LGRP = g ∧
      fget u (A.HRM_LANE q) F.HRM_LANE_PASS = both ∧ (portOf u q).phase = 4 ∧
      Leaves [.ports] (these [A.HRM_PSTS q, A.HRM_LANE q]) d u := by
  have hphase (e : Dev) (a : Nat) (f : Fld) : fget (setPhase e q 4) a f = fget e a f := congrArg f.of (regGet_modPort ..)
  have hne : A.HRM_LANE q ≠ A.HRM_PSTS q := by simp only [A.HRM_LANE, A.HRM_PSTS]; omega
  refine ⟨?_, ?_, ?_, (setPhase_port _ q 4).1, ?_⟩
  · rw [hphase, fget_fset_apart _ _ _ _ _ _ (by decide) (by decide) (by decide), fget_fset_self _ _ _ _ (by decide)]
    exact Nat.mod_eq_of_lt hw
  · rw [hphase, fget_fset_self _ _ _ _ (by decide)]
    exact Nat.mod_eq_of_lt hg
  · rw [hphase, fget_fset_ne _ hne, fget_fset_ne _ hne, fget_fset_self _ _ _ _ (by decide)]
    exact Nat.mod_eq_of_lt hb
  · rw [setPhase, leaves_modPort_iff (by simp), leaves_fset_iff (by simp [these]), leaves_fset_iff (by simp [these]),
      leaves_fset_iff (by simp [these])]
    exact leaves_self

/-- Settles O45: each phase of training leads to the next, in the state it belongs to. -/
theorem linksTrainPhaseByPhase : Obligations.LinksTrainPhaseByPhase := by
  intro t port s d q x sts only failed
  have hq : q < 8 := port.isLt
  have hfail {y : Dev} {pass : Nat} (hy : Leaves [] (these [A.HRM_LANE q]) d y) (hst : lstate d q = 3) :
      failed { s with dev := trainFail y q pass } := by
    obtain ⟨h1, h2, h3, h4⟩ := trainFail_shown hq y pass
    have hl : Leaves [.ports, .hst] (fun a => isReport a || these [sts, A.HRM_LANE q] a) d (trainFail y q pass) := by
      refine (hy.weaken (by simp) fun a ha => ?_).trans (h4.weaken (by simp) fun a ha => ?_)
      · simp only [these, List.contains_cons, List.contains_nil, Bool.or_false, Bool.or_eq_false_iff] at ha ⊢
        exact ha.2.2
      · simp only [these, List.contains_cons, List.contains_nil, Bool.or_false, Bool.or_eq_false_iff] at ha
        rw [isLinkNote, Bool.or_eq_false_iff]
        exact ⟨ha.1, ha.2.1⟩
    have hstate : lstate y q = lstate d q := hy.2.fget (by simp [these, A.HRM_PSTS, A.HRM_LANE]) _
    have hnow : y.now = d.now := (hy.1 .clock (by simp)).1
    exact ⟨h1.trans (congrArg (· + 1) hnow), h2.trans (hstate.trans hst), h3, hl.1, hl.2⟩
  refine ⟨fun hst hat => ⟨fun hlink hcfg => ?_, fun hlink => ?_⟩, fun chip nonce epoch rw' excl hst hne => ?_, fun hph => ?_,
    fun lanes hph hat => ?_, ?_, fun hph => ?_, fun hst hf hat => ?_⟩
  · have hrun : quietEnd d q = setLstate d q 2 := by
      rw [quietEnd, if_pos ⟨hst, hat⟩, if_neg (by rw [hlink]; decide), if_neg (by rw [show (portOf d q).resetCfg = false from hcfg]; decide)]
    have hl : Leaves [] (these [sts]) d (setLstate d q 2) := (leaves_fset_iff (by simp [these, sts])).2 leaves_self
    exact ⟨_, next_congr rfl hrun, lstate_setLstate d q (by decide), hl.1, hl.2⟩
  · have hrun : quietEnd d q = linkChanged (setLstate d q 0) q := by rw [quietEnd, if_pos ⟨hst, hat⟩, if_pos hlink]
    exact ⟨_, next_congr rfl hrun, (lstate_linkChanged hq _).trans (lstate_setLstate d q (by decide))⟩
  · obtain ⟨h1, h2, h3, h4, h5⟩ := detectDone_shown hst ⟨chip.toNat, nonce.toNat, epoch.toNat, rw'.toNat, excl.toNat⟩ hne chip.isLt epoch.isLt
    exact ⟨_, rfl, h1, congrArg Port.phase h2, congrArg Port.trainAt h2, congrArg Port.peer h2, h3, h4, h5.1, h5.2⟩
  · have hrun : eqDone d q = setPhase d q 2 := by rw [eqDone, if_pos hph]
    obtain ⟨h1, h2⟩ := setPhase_port d q 2
    have hl : Leaves [.ports] (these []) d (setPhase d q 2) := leaves_setPhase (by simp) d q 2
    exact ⟨_, next_congr rfl hrun, h1, h2, hl.1, hl.2⟩
  · obtain ⟨M, hM⟩ : ∃ M, modPort d q (fun x => { x with passOwn := lanesPassing d q lanes }) = M := ⟨_, rfl⟩
    have hrun : testEnd d q lanes = setPhase M q 3 := by rw [testEnd, hph, decide_eq_true hat, ← hM]; rfl
    have hl : Leaves [.ports] (these []) d (setPhase M q 3) := by
      rw [← hM, setPhase, leaves_modPort_iff (by simp), leaves_modPort_iff (by simp)]
      exact leaves_self
    have hp : (portOf (setPhase M q 3) q).passOwn = lanesPassing d q lanes := by rw [setPhase, modPort_port, ← hM, modPort_port]
    exact ⟨_, next_congr rfl hrun, (setPhase_port M q 3).1, fun l hl => (congrArg (·.testBit l) hp).trans (lanesPassing_testBit d q lanes hl),
      hl.1, hl.2⟩
  · intro pass width lgrp hph both chosen
    have hlane : Leaves [] (these [A.HRM_LANE q]) d (fset d (A.HRM_LANE q) F.HRM_LANE_PASS both) :=
      (leaves_fset_iff (by simp [these])).2 leaves_self
    have hchosen {w g : Nat} (hw : w < 4) (hg : g < 4) (hc : widthChosen d q both width.toNat lgrp.toNat = some (w, g)) :
        ∃ u, exec (.decideDone t port pass width lgrp) s = .next u ∧ chosen u w g := by
      obtain ⟨h1, h2, h3, h4, h5⟩ := widthShown d q (lanesBoth_lt x pass) hw hg
      exact ⟨_, next_congr rfl (decideDone_some hph hc), h1, h2, h3, h4, h5.1, h5.2⟩
    refine ⟨fun w g hm hw hg hc => hchosen hw hg ?_, fun hm hc => hchosen width.isLt lgrp.isLt ?_, fun hc => ?_⟩
    · rw [widthChosen, if_pos hm]
      exact hc
    · rw [widthChosen, if_neg (Bool.eq_false_iff.1 hm), if_pos hc]
    · have hnone : widthChosen d q both width.toNat lgrp.toNat = none := by
        rw [widthChosen]
        split
        · rw [← Option.not_isSome_iff_eq_none]
          exact fun h => Bool.eq_false_iff.1 hc (chooseWidth_isSome _ _ _ h)
        · exact if_neg (Bool.eq_false_iff.1 hc)
      exact ⟨_, next_congr rfl (decideDone_none hph hnone), hfail hlane (inPhase_iff.1 hph).1⟩
  · obtain ⟨h1, h2, h3, h4, h5⟩ := lockDone_shown hph hq
    exact ⟨_, rfl, h1, h2, h3, h4, h5.1, h5.2⟩
  · have hrun : trainingTimeout d q = trainFail d q (fget d (A.HRM_LANE q) F.HRM_LANE_PASS) := if_pos ⟨hst, hf, hat⟩
    exact ⟨_, next_congr rfl hrun, hfail leaves_self hst⟩

end

end Sys2Proof.Machine
end

section
/-! PROOFS. Forwarding: a chip number beyond the route table (13, R458, R498). -/

namespace Sys2Proof.Machine

/-- A message for a chip number that no chip has: its entry of the route table lies where the VC5 credits of port 0 stand. -/
def strayMsg : Msg :=
  { dchip := 1966356, schip := 1, mtype := 9, lepoch := 0, ttl := 5, gp := false, w1 := 0, w2 := 0, hi := 0, vc := 5, data := [] }

/-- A package whose port 0 has taken in the stray message: one VC5 flit of its buffer is occupied. -/
def strayDev : Dev :=
  let d := fset (fset Dev.reset (A.HRM_PSTS 0) F.HRM_PSTS_LSTATE 4) (A.HRM_PSTS 0) F.HRM_PSTS_MINOR 1
  setPort (fset (fset d (A.HRM_PSTS 1) F.HRM_PSTS_LSTATE 4) (A.HRM_VCCRED 0 5) F.HRM_VCCRED_RXOCC 1) 0
    { Port.init with inbox := [strayMsg] }

/-- Refutes O46: no premise bounds a message's chip number to 14 bits. The route of chip 1966356 is read from the count of
occupied flits of port 0, which the message leaves as it is taken: it goes out by port 0, not by port 1, which the route
named before. -/
theorem not_identifiedLinksForward : ¬ Obligations.IdentifiedLinksForward := by
  intro h
  obtain ⟨-, -, hforward, -⟩ := h 0 0#3 strayMsg ⟨strayDev, []⟩ (by decide) (by unfold quiet; decide)
  obtain ⟨hroute, -⟩ := hforward (by decide) (by decide) (by decide) (.inl rfl) (by decide) (by decide)
  obtain ⟨v, hv, hqueue, -⟩ := hroute 1 (by decide) (by decide) (by decide)
  obtain rfl : v = ⟨messageForward (tick strayDev 0) 0 strayMsg, []⟩ := by
    injection hv with hv
    exact hv.symm
  exact absurd hqueue (by decide)

end Sys2Proof.Machine
end

section
/-! PROOFS. Remote memory: a requester beyond the route table (14, R498, R528). -/

namespace Sys2Proof.Machine

/-- A read request of a chip number that no chip has: its entry of the route table lies where the VC5 credits of port 0
stand. -/
def strayRequest : Msg := { strayMsg with schip := 1966356, mtype := 4 }

/-- A package whose port 0 has taken in the stray request, with two ports that carry its answer. -/
def askedDev : Dev :=
  let d := fset (fset Dev.reset (A.HRM_PSTS 0) F.HRM_PSTS_LSTATE 5) (A.HRM_PSTS 0) F.STATE 1
  let d := fset (fset d (A.HRM_PSTS 1) F.HRM_PSTS_LSTATE 5) (A.HRM_PSTS 1) F.STATE 1
  setPort (fset d (A.HRM_VCCRED 0 5) F.HRM_VCCRED_RXOCC 1) 0 { Port.init with inbox := [strayRequest] }

/-- Refutes O48: no premise bounds the requester's chip number to 14 bits. The route to chip 1966356 is read from the count
of occupied flits of port 0, which the request leaves as it is taken: its answer goes out by port 0, not by port 1, which
the route named before. -/
theorem not_remoteRequestsAreAnswered : ¬ Obligations.RemoteRequestsAreAnswered := by
  intro h
  obtain ⟨hserve, -⟩ := h
  obtain ⟨-, -, hreject⟩ := hserve 0 0#3 strayRequest ⟨askedDev, []⟩ 1 (by decide) (by decide) (by decide) (by decide) (by decide)
  obtain ⟨v, hv, hqueue, -⟩ := hreject (by unfold arrives quiet; decide) (by decide)
  obtain rfl : v = ⟨remoteRequest (observe askedDev 0) 0 strayRequest [], []⟩ := by
    injection hv with hv
    exact hv.symm
  exact absurd hqueue (by decide)

end Sys2Proof.Machine
end

section
/-! PROOFS. The permutation: a PWRITE of a chip beyond the route table (14, R498, R529, R532). -/

namespace Sys2Proof.Machine

/-- A PWRITE of a chip number that no chip has: its entry of the route table lies where the VC5 credits of port 0 stand. -/
def strayPwrite : Msg := { strayMsg with schip := 1966356, mtype := 3, w2 := 0x3F000000000, data := [0#8] }

/-- A package whose port 0 has taken in the stray PWRITE, armed for it, with two ports that carry its acknowledgement. -/
def writtenDev : Dev :=
  let d := fset (fset Dev.reset (A.HRM_PSTS 0) F.HRM_PSTS_LSTATE 5) (A.HRM_PSTS 0) F.STATE 1
  let d := fset (fset d (A.HRM_PSTS 1) F.HRM_PSTS_LSTATE 5) (A.HRM_PSTS 1) F.STATE 1
  setPort (fset (fset d A.COL_PRX F.COL_PRX_ARM 1) (A.HRM_VCCRED 0 5) F.HRM_VCCRED_RXOCC 1) 0
    { Port.init with inbox := [strayPwrite] }

/-- Refutes O53: no premise bounds the sender's chip number to 14 bits. The route to chip 1966356 is read from the count of
occupied flits of port 0, which the PWRITE leaves as it is taken: its acknowledgement goes out by port 0, not by port 1,
which the route named before. -/
theorem not_permutationsMoveTheSlice : ¬ Obligations.PermutationsMoveTheSlice := by
  intro h
  obtain ⟨-, hpwrite⟩ := h
  obtain ⟨-, htaken⟩ := hpwrite 0#3 strayPwrite ⟨writtenDev, []⟩ (by unfold arrives quiet; decide) (by decide)
  obtain ⟨v, hv, -, -, -, hqueue, -⟩ := htaken 1 (by decide) (by decide) (by unfold plainMem; decide) (by decide) (by decide) (by decide)
  obtain rfl : v = ⟨arrival writtenDev 0 strayPwrite (fun d => pwrite d 0 strayPwrite), []⟩ := by
    injection hv with hv
    exact hv.symm
  exact absurd hqueue (by decide)

end Sys2Proof.Machine
end

section
/-! PROOFS. Weir commands: a build slot beyond the slot registers (09, R307). -/

namespace Sys2Proof.Machine

/-- An UPD that has worked its whole span, with a build slot that no entry has. -/
def straySpan : WeiCmd :=
  { op := 0x10000000#32, spc := 0, strand := 0, span := 0, pstep := 0, eta := 0, lambda := 0, invls := 0, spec := false,
    step := 0, serial := 0, ent := [0], slot := some 16384, next := 1, rowT := none, nonfin := false }

/-- A package whose weir 0 holds that command; the word where a register of slot 16384 would stand reads BUILDING. -/
def straySlotDev : Dev :=
  let d := fset Dev.reset 0xA40000 F.EPH_SLOT_STATE 1
  d.withWei { d.wei with weirs := [(0, { Weir.init with cur := some straySpan })] }

/-- Refutes O37: no premise bounds the build slot of a command to the 16,384 slots. A command with slot 16384 that ends the
last span of its entry writes BUILT where that slot's register would stand, beyond the registers that the statement names. -/
theorem not_weirCommandsEndAndRollBack : ¬ Obligations.WeirCommandsEndAndRollBack := by
  intro h
  obtain ⟨hcomplete, -⟩ := h
  obtain ⟨v, hv, -, -, -, -, -, hregs⟩ := hcomplete .A 0#2 ⟨straySlotDev, []⟩ straySpan (by decide) (by decide) (by decide) (by decide)
    (by decide) (by decide) (by decide) (by decide) (by decide)
  obtain rfl : v = ⟨weiComplete straySlotDev 0, []⟩ := by
    injection hv with hv
    exact hv.symm
  exact absurd (hregs 0xA40000 (by decide)) (by decide)

end Sys2Proof.Machine
end

section
/-! PROOFS. Rails, the NV write guard and lost clocks (16, R589, R611, R619, R660, R666). -/

namespace Sys2Proof.Machine

section
variable {ps : List Piece} {p : Nat → Bool} {d e : Dev}

/-! ### Records of the power controller (R621) -/

theorem isRaise_pwrSts : isRaise A.PWR_STS = false := by decide

/-- A power record shows its number and leaves the other fields of PWR_STS. -/
theorem pwrRaise_sts (d : Dev) (number sev detail : Nat) :
    (number < 256 → fget (pwrRaise d number sev detail) A.PWR_STS F.PWR_STS_EXC = number) ∧
    (∀ f : Fld, f.ok = true → F.PWR_STS_EXC.apart f = true →
      fget (pwrRaise d number sev detail) A.PWR_STS f = fget d A.PWR_STS f) := by
  refine ⟨fun hn => ?_, fun f hf ha => ?_⟩
  · rw [pwrRaise, (keepsRegs_raise _ _ _ _ _).fget isRaise_pwrSts, fget_fset_self _ _ _ _ (by decide)]
    exact Nat.mod_eq_of_lt hn
  · rw [pwrRaise, (keepsRegs_raise _ _ _ _ _).fget isRaise_pwrSts, fget_fset_apart _ _ _ _ _ _ (by decide) hf ha]

theorem leaves_pwrRaise_minor_iff {number sev detail : Nat} (hsev : sev < 2) (hh : Piece.hst ∈ ps)
    (hr : ∀ a, p a = false → isReport a = false) (hs : p A.PWR_STS = true) :
    Leaves ps p d (pwrRaise e number sev detail) ↔ Leaves ps p d e := by
  rw [pwrRaise, raise_minor _ _ _ _ _ hsev, leaves_post_iff hh hr, leaves_fset_iff hs]

/-- A record that is fatal to the package stops the sequencers and is noted; memory and the pins stand. -/
theorem pwrRaise_fatal (d : Dev) (number detail : Nat) : (sevs (pwrRaise d number 4 detail)).testBit 4 = true ∧
    seqState (pwrRaise d number 4 detail) ≠ 1 ∧ (pwrRaise d number 4 detail).mem = d.mem ∧
    (pwrRaise d number 4 detail).pwr = d.pwr :=
  ⟨testBit_sevs_raise _ _ _ _ (by decide), seqState_chipFatal _, by rw [pwrRaise, raise_mem, fset_mem],
    by rw [pwrRaise, raise_pwr, fset_pwr]⟩

theorem pwrRaise_mem (d : Dev) (number sev detail : Nat) : (pwrRaise d number sev detail).mem = d.mem :=
  (raise_mem ..).trans (fset_mem ..)

theorem fget_pwrRaise_sup (d : Dev) (number sev detail : Nat) (f : Fld) :
    fget (pwrRaise d number sev detail) A.PWR_SUP f = fget d A.PWR_SUP f :=
  (keepsRegs_pwrRaise d number sev detail).fget (by decide) f

/-! ### The rails -/

/-- The bits of PWR_SUP that show a rail. -/
def railFld (r : Nat) : Fld := ⟨2 * r + 1, 2 * r⟩

theorem railFld_ok {r : Nat} (h : r ≤ 8) : (railFld r).ok = true ∧ (railFld r).apart F.PWR_SUP_NVBLOCK = true ∧
    F.PWR_SUP_NVBLOCK.apart (railFld r) = true := by
  interval_cases r <;> decide

theorem railState_setRail {r v : Nat} (h : r ≤ 8) (hv : v < 4) (d : Dev) : railState (setRail d r v) r = v := by
  refine (fget_fset_self _ _ (railFld r) _ (railFld_ok h).1).trans ?_
  have : 2 * r + 1 + 1 - 2 * r = 2 := by omega
  rw [railFld, this]
  exact Nat.mod_eq_of_lt hv

theorem leaves_setRail_iff {r v : Nat} (h : p A.PWR_SUP = true) : Leaves ps p d (setRail e r v) ↔ Leaves ps p d e :=
  leaves_fset_iff h

/-! ### The NV write guard (R611) -/

theorem nvConditions_rail {r : Nat} (hr : r ≤ 1) (h : railState d r ≠ 0) : nvConditions d ≠ 0 := by
  have : (railState d 0 != 0 || railState d 1 != 0) = true := by
    rw [Bool.or_eq_true, bne_iff_ne, bne_iff_ne]
    interval_cases r
    · exact .inl h
    · exact .inr h
  rw [nvConditions, this]
  change b2n d.pwr.auxLow + 2 * 1 + 4 * b2n (pstate d == 4) ≠ 0
  omega

theorem nvBlock_lt (d : Dev) : fget d A.PWR_SUP F.PWR_SUP_NVBLOCK < 2 := fget_lt _ _ _

/-- The stop of NV writes, begun. -/
def nvStopped (d : Dev) : Dev := fset (fset d A.PWR_SUP F.PWR_SUP_NVBLOCK 1) A.PWR_STS F.PWR_STS_NVWP 1

theorem nvStop_idle (h : nvConditions d = 0 ∨ fget d A.PWR_SUP F.PWR_SUP_NVBLOCK = 1) : nvStop d = d := if_pos h

theorem nvStop_begins (hc : nvConditions d ≠ 0) (hb : fget d A.PWR_SUP F.PWR_SUP_NVBLOCK = 0) :
    nvStop d = pwrRaise (nvStopped d) 0xCF 0 (nvConditions d) := if_neg (by omega)

/-- What a stop of NV writes may change. -/
def isGuard (a : Nat) : Bool := isReport a || these [A.PWR_SUP, A.PWR_STS] a

theorem isReport_of_isGuard {a : Nat} (h : isGuard a = false) : isReport a = false := (Bool.or_eq_false_iff.1 h).1

theorem leaves_nvStop (d : Dev) : Leaves [.hst] isGuard d (nvStop d) := by
  unfold nvStop
  simp only
  split
  · exact leaves_self
  · rw [leaves_pwrRaise_minor_iff (by decide) (by simp) (fun _ => isReport_of_isGuard) (by decide), leaves_fset_iff (by decide),
      leaves_fset_iff (by decide)]
    exact leaves_self

theorem nvStop_sup (d : Dev) (f : Fld) (hf : f.ok = true) (ha : F.PWR_SUP_NVBLOCK.apart f = true) :
    fget (nvStop d) A.PWR_SUP f = fget d A.PWR_SUP f := by
  unfold nvStop
  simp only
  split
  · rfl
  · rw [fget_pwrRaise_sup, fget_fset_ne _ (by decide), fget_fset_apart _ _ _ _ _ _ (by decide) hf ha]

theorem nvStop_blocks (hc : nvConditions d ≠ 0) : fget (nvStop d) A.PWR_SUP F.PWR_SUP_NVBLOCK = 1 := by
  obtain hb | hb : fget d A.PWR_SUP F.PWR_SUP_NVBLOCK = 0 ∨ fget d A.PWR_SUP F.PWR_SUP_NVBLOCK = 1 := by
    have := nvBlock_lt d
    omega
  · rw [nvStop_begins hc hb, fget_pwrRaise_sup, nvStopped, fget_fset_ne _ (by decide), fget_fset_self _ _ _ _ (by decide)]
    rfl
  · rw [nvStop_idle (.inr hb), hb]

theorem nvStop_notes (hc : nvConditions d ≠ 0) (hb : fget d A.PWR_SUP F.PWR_SUP_NVBLOCK = 0) :
    fget (nvStop d) A.PWR_STS F.PWR_STS_NVWP = 1 ∧ fget (nvStop d) A.PWR_STS F.PWR_STS_EXC = 0xCF := by
  rw [nvStop_begins hc hb]
  obtain ⟨hexc, hkeep⟩ := pwrRaise_sts (nvStopped d) 0xCF 0 (nvConditions d)
  refine ⟨?_, hexc (by decide)⟩
  rw [hkeep _ (by decide) (by decide), nvStopped, fget_fset_self _ _ _ _ (by decide)]
  rfl

theorem nvStop_pwr (d : Dev) : (nvStop d).pwr = d.pwr := (leaves_nvStop d).1 .pwr (by simp)

theorem nvStop_now (d : Dev) : (nvStop d).now = d.now := ((leaves_nvStop d).1 .clock (by simp)).1

theorem nvStop_mem (d : Dev) : (nvStop d).mem = d.mem := by
  unfold nvStop
  simp only
  split
  · rfl
  · exact (pwrRaise_mem ..).trans ((fset_mem ..).trans (fset_mem ..))

/-! ### NV writes resume (R611, R660) -/

theorem leaves_secverBlow (d : Dev) : Leaves [.tst] p d (secverBlow d) := by
  simp only [secverBlow]
  split
  · exact leaves_self
  · exact (leaves_withTst_iff (by simp)).2 leaves_self

/-- The block of NV writes is lifted where no condition stands. -/
def nvLifted (d : Dev) : Dev := if nvConditions d = 0 then fset d A.PWR_SUP F.PWR_SUP_NVBLOCK 0 else d

theorem nvResume_eq (d : Dev) : nvResume d =
    if fget (nvLifted d) A.PWR_SUP F.PWR_SUP_NVBLOCK = 1 ∨ (nvLifted d).pwr.wpLow = true
      ∨ (fget (nvLifted d) A.PWR_STS F.PWR_STS_NVWP = 1 ∧ (nvLifted d).pwr.wpAt ≠ 0 ∧ (nvLifted d).now < (nvLifted d).pwr.wpAt + ms 10)
    then nvLifted d else secverBlow (fset ((nvLifted d).withNv (nvLifted d).nvNext) A.PWR_STS F.PWR_STS_NVWP 0) := rfl

theorem leaves_nvLifted (d : Dev) : Leaves [] (these [A.PWR_SUP]) d (nvLifted d) := by
  unfold nvLifted
  split
  · exact (leaves_fset_iff (by simp [these])).2 leaves_self
  · exact leaves_self

theorem nvLifted_sup (d : Dev) (f : Fld) (hf : f.ok = true) (ha : F.PWR_SUP_NVBLOCK.apart f = true) :
    fget (nvLifted d) A.PWR_SUP f = fget d A.PWR_SUP f := by
  unfold nvLifted
  split
  · exact fget_fset_apart _ _ _ _ _ _ (by decide) hf ha
  · rfl

theorem nvLifted_pwr (d : Dev) : (nvLifted d).pwr = d.pwr := (leaves_nvLifted d).1 .pwr (by simp)

theorem nvLifted_now (d : Dev) : (nvLifted d).now = d.now := ((leaves_nvLifted d).1 .clock (by simp)).1

theorem nvLifted_sts (d : Dev) (f : Fld) : fget (nvLifted d) A.PWR_STS f = fget d A.PWR_STS f :=
  (leaves_nvLifted d).2.fget (by decide) f

theorem nvLifted_nvNext (d : Dev) : (nvLifted d).nvNext = d.nvNext := by
  unfold nvLifted
  split
  · exact fset_nvNext ..
  · rfl

theorem leaves_nvResume (d : Dev) : Leaves [.nv, .tst] (these [A.PWR_SUP, A.PWR_STS]) d (nvResume d) := by
  have hl : Leaves [.nv, .tst] (these [A.PWR_SUP, A.PWR_STS]) d (nvLifted d) :=
    (leaves_nvLifted d).weaken (by simp) fun a h => by
      simp only [these, List.contains_cons, List.contains_nil, Bool.or_false, Bool.or_eq_false_iff] at h ⊢
      exact h.1
  rw [nvResume_eq]
  split
  · exact hl
  · refine Leaves.trans ?_ ((leaves_secverBlow _).weaken (by simp) fun _ => id)
    rw [leaves_fset_iff (by decide), leaves_withNv_iff (by simp)]
    exact hl

theorem nvResume_sup (d : Dev) (f : Fld) : fget (nvResume d) A.PWR_SUP f = fget (nvLifted d) A.PWR_SUP f := by
  rw [nvResume_eq]
  split
  · rfl
  · rw [(leaves_secverBlow (p := fun _ => false) _).2.fget rfl, fget_fset_ne _ (by decide)]
    rfl

/-- Where nothing forbids it any more, what waited is written. -/
theorem nvResume_written (hc : nvConditions d = 0) (hw : d.pwr.wpLow = false)
    (ht : fget d A.PWR_STS F.PWR_STS_NVWP = 0 ∨ d.pwr.wpAt = 0 ∨ d.pwr.wpAt + ms 10 ≤ d.now) :
    fget (nvResume d) A.PWR_SUP F.PWR_SUP_NVBLOCK = 0 ∧ fget (nvResume d) A.PWR_STS F.PWR_STS_NVWP = 0 ∧
      (nvResume d).nv = d.nvNext := by
  have hblock : fget (nvLifted d) A.PWR_SUP F.PWR_SUP_NVBLOCK = 0 := by
    rw [nvLifted, if_pos hc, fget_fset_self _ _ _ _ (by decide)]
    rfl
  refine ⟨(nvResume_sup d _).trans hblock, ?_⟩
  rw [nvResume_eq, if_neg]
  · refine ⟨?_, ?_⟩
    · rw [(leaves_secverBlow (p := fun _ => false) _).2.fget rfl, fget_fset_self _ _ _ _ (by decide)]
      rfl
    · refine Eq.trans ?_ (nvLifted_nvNext d)
      unfold secverBlow
      simp only
      split <;> rfl
  · rw [hblock, nvLifted_pwr, hw, nvLifted_sts, nvLifted_now]
    simp only [Bool.false_eq_true, false_or, not_or]
    omega

/-- For 10 ms after NV_WP_N has risen nothing is written. -/
theorem nvResume_waits (ha : d.pwr.wpAt ≠ 0) (ht : d.now < d.pwr.wpAt + ms 10) (hn : fget d A.PWR_STS F.PWR_STS_NVWP = 1) :
    nvResume d = nvLifted d := by
  rw [nvResume_eq, if_pos]
  rw [nvLifted_pwr, nvLifted_sts, nvLifted_now]
  exact .inr (.inr ⟨hn, ha, ht⟩)

/-! ### A lost SerDes clock (R449, R666) -/

/-- What a reset of port `q` leaves of every other port. -/
structure OtherPorts (q : Nat) (d u : Dev) : Prop where
  port : ∀ r, r ≠ q → ∃ b, portOf u r = { portOf d r with newContent := b }
  psts : ∀ r, r < 8 → r ≠ q → ∀ f, fget u (A.HRM_PSTS r) f = fget d (A.HRM_PSTS r) f
  cfg : ∀ r, r ≠ q → ∀ f, liveGet u (A.HRM_CFG r) f = liveGet d (A.HRM_CFG r) f
  now : u.now = d.now

theorem OtherPorts.refl (q : Nat) (d : Dev) : OtherPorts q d d := ⟨fun _ _ => ⟨_, rfl⟩, fun _ _ _ _ => rfl, fun _ _ _ => rfl, rfl⟩

/-- A latch of some registers leaves the others as they are in force. -/
theorem liveGet_latch_ne (d : Dev) (as : List Nat) {a : Nat} (h : a ∉ as) (f : Fld) : liveGet (latch d as) a f = liveGet d a f := by
  have hfold (as : List Nat) (h : a ∉ as) (l : List (Nat × W64)) :
      sget (regReset a) a (as.foldl (fun l b => sset (regReset b) b (regGet d b) l) l) = sget (regReset a) a l := by
    induction as generalizing l with
    | nil => rfl
    | cons b as ih =>
      rw [List.mem_cons, not_or] at h
      rw [List.foldl_cons, ih h.2, sget_sset_ne' _ _ h.1]
  exact congrArg f.of (hfold as h d.live)

theorem liveGet_of_live (h : e.live = d.live) (a : Nat) (f : Fld) : liveGet e a f = liveGet d a f := by rw [liveGet, h]; rfl

theorem liveGet_resetRegs (d : Dev) {q r : Nat} (h : r ≠ q) (cause : Nat) (f : Fld) :
    liveGet (resetRegs d q cause) (A.HRM_CFG r) f = liveGet d (A.HRM_CFG r) f := by
  obtain ⟨L, hL⟩ : ∃ L, latch d [A.HRM_PCTL q, A.HRM_CFG q, A.HRM_VCBUF q, A.HRM_PARB q, A.HRM_LANE q] = L := ⟨_, rfl⟩
  have hl : Leaves [] (fun _ => true) L (resetRegs d q cause) := by
    simp only [resetRegs, setLstate, hL]
    rw [leaves_regSet_iff rfl, leaves_creditsCleared_iff fun _ _ => rfl, leaves_fset_iff rfl, leaves_fset_iff rfl,
      leaves_countPkg_iff (fun _ h => by cases h), leaves_fincSat_iff rfl, leaves_fset_iff rfl]
    exact leaves_self
  rw [liveGet_of_live (hl.1 .live (by simp)), ← hL, liveGet_latch_ne]
  simp only [A.HRM_CFG, A.HRM_PCTL, A.HRM_VCBUF, A.HRM_PARB, A.HRM_LANE, List.mem_cons, List.not_mem_nil, or_false]
  omega

theorem isPort_apart {q r a : Nat} (hne : r ≠ q) (h : isPort r a = true) : isPort q a = false := by
  rw [Bool.eq_false_iff, ne_eq]
  rw [isPort_iff] at h ⊢
  omega

theorem otherPorts_fset {q a : Nat} (h : isPort q a = true) (d : Dev) (f : Fld) (v : Nat) : OtherPorts q d (fset d a f v) := by
  refine ⟨fun r _ => ⟨_, portOf_fset ..⟩, fun r hr hne g => fget_fset_ne _ ?_ _ _ _, fun _ _ _ => rfl, rfl⟩
  rintro rfl
  exact absurd h (by rw [isPort_apart hne (isPort_psts r)]; decide)

theorem drawn_setPort_other (d : Dev) {q r : Nat} (h : r ≠ q) (x : Port) : portOf (drawn (setPort d q x)) r = portOf d r :=
  sget_sset_ne _ h _ _

theorem drawn_setPort_now (d : Dev) (q : Nat) (x : Port) : (drawn (setPort d q x)).now = d.now := rfl

theorem drawn_setPort_live (d : Dev) (q : Nat) (x : Port) : (drawn (setPort d q x)).live = d.live := rfl

theorem resetRegs_portOf (d : Dev) (q cause r : Nat) : portOf (resetRegs d q cause) r = portOf d r := by
  have h : Leaves [.live] (fun _ => true) d (resetRegs d q cause) :=
    (leaves_resetRegs_iff (by simp) (fun _ h => by cases h) fun _ _ => rfl).2 leaves_self
  rw [portOf, h.1 .ports (by simp)]
  rfl

theorem resetEntered_other (d : Dev) {q r : Nat} (h : r ≠ q) (cause : Nat) : portOf (resetEntered d q cause) r = portOf d r :=
  (drawn_setPort_other _ h _).trans (resetRegs_portOf d q cause r)

theorem resetEntered_now (d : Dev) (q cause : Nat) : (resetEntered d q cause).now = d.now :=
  (drawn_setPort_now _ _ _).trans (resetRegs_now d q cause)

theorem resetEntered_cfg (d : Dev) {q r : Nat} (h : r ≠ q) (cause : Nat) (f : Fld) :
    liveGet (resetEntered d q cause) (A.HRM_CFG r) f = liveGet d (A.HRM_CFG r) f :=
  (liveGet_of_live (drawn_setPort_live _ _ _) _ _).trans (liveGet_resetRegs d h cause f)

/-- A reset of a port that holds no messages moves that port alone. -/
theorem otherPorts_linkReset {q : Nat} (hempty : portEmpty d q) (cause : Nat) : OtherPorts q d (linkReset d q cause) := by
  obtain ⟨E, hE⟩ : ∃ E, resetEntered d q cause = E := ⟨_, rfl⟩
  obtain ⟨T, hT⟩ : ∃ T, resetTold E q (epochOf d q) cause = T := ⟨_, rfl⟩
  have hEl : Leaves resetParts (isResetReg q) d E := hE ▸ leaves_resetEntered d q cause
  have hTl : Leaves [.hst] (isLinkNote q) E T := hT ▸ leaves_resetTold E q _ cause
  have hu := leaves_linkChanged T q
  rw [linkReset_empty hempty, hE, hT]
  refine ⟨fun r hr => ?_, fun r hr8 hr f => ?_, fun r hr f => ?_, ?_⟩
  · obtain ⟨b, hb⟩ := samePorts_linkChanged T q r
    refine ⟨b, hb.trans ?_⟩
    have hp : portOf T r = portOf d r := by
      rw [portOf, hTl.1 .ports (by simp)]
      exact (congrArg (portOf · r) hE).symm.trans (resetEntered_other d hr cause)
    rw [hp]
  · have hport := isPort_apart hr (isPort_psts r)
    have htree := not_machReports_port hr8 (isPort_psts r)
    have hmach : machReports (A.HRM_PSTS r) = false := (Bool.or_eq_false_iff.1 htree).1
    have hreset : isResetReg q (A.HRM_PSTS r) = false := by rw [isResetReg, hport, hmach]; rfl
    rw [hu.2.fget htree, hTl.2.fget (isResetReg_of_linkNote hreset), hEl.2.fget hreset]
  · rw [liveGet_of_live (hu.1 .live (by decide)), liveGet_of_live (hTl.1 .live (by simp)), ← hE]
    exact resetEntered_cfg d hr cause f
  · rw [(hu.1 .clock (by decide)).1, (hTl.1 .clock (by simp)).1, ← hE]
    exact resetEntered_now d q cause

/-- A reset of a port that holds no messages leaves it in RESET with its cause, still without messages. -/
theorem linkReset_state {q cause : Nat} (hq : q < 8) (hcause : cause < 16) (hempty : portEmpty d q) :
    lstate (linkReset d q cause) q = 1 ∧ fget (linkReset d q cause) (A.HRM_PSTS q) F.HRM_PSTS_CAUSE = cause ∧
      portEmpty (linkReset d q cause) q := by
  obtain ⟨E, hE⟩ : ∃ E, resetEntered d q cause = E := ⟨_, rfl⟩
  obtain ⟨T, hT⟩ : ∃ T, resetTold E q (epochOf d q) cause = T := ⟨_, rfl⟩
  have hu := leaves_linkChanged T q
  rw [linkReset_empty hempty, hE, hT]
  have hfld (f : Fld) (hf : f.ok = true) (ha : F.HRM_PSTS_EXC.apart f = true) :
      fget (linkChanged T q) (A.HRM_PSTS q) f = fget (resetRegs d q cause) (A.HRM_PSTS q) f := by
    rw [hu.2.fget (not_machReports_port hq (isPort_psts q)), ← hT, resetTold_psts hq _ _ _ _ hf ha, ← hE, fget_resetEntered]
  obtain ⟨hstate, hc⟩ := resetRegs_psts (q := q) d hcause
  obtain ⟨b, hb⟩ := samePorts_linkChanged T q q
  have hTp : portOf T q = resetPort (resetRegs d q cause) q (portOf d q) := by
    rw [portOf, (hT ▸ leaves_resetTold E q _ cause : Leaves [.hst] (isLinkNote q) E T).1 .ports (by simp), ← hE]
    exact resetEntered_port d q cause
  rw [hTp] at hb
  refine ⟨(hfld _ (by decide) (by decide)).trans hstate, (hfld _ (by decide) (by decide)).trans hc, ?_⟩
  rw [portEmpty, hb]
  exact resetPort_empty _ _ _ _

/-- What a request for a reset for cause `cause` makes of its own port. -/
structure Requested (q cause : Nat) (d u : Dev) : Prop where
  off : lstate d q = 0 → lstate u q = 0
  late : lstate d q ≠ 0 → (portOf d q).resetAt + us (liveGet d (A.HRM_CFG q) F.HRM_CFG_RWIN) < d.now →
    lstate u q = 1 ∧ fget u (A.HRM_PSTS q) F.HRM_PSTS_CAUSE = cause

theorem resetRequest_asks {q cause : Nat} (hq : q < 8) (hcause : cause < 16) (hempty : portEmpty d q) :
    Requested q cause d (resetRequest d q cause) ∧ OtherPorts q d (resetRequest d q cause) ∧
      portEmpty (resetRequest d q cause) q := by
  by_cases h0 : lstate d q = 0
  · rw [resetRequest_off h0]
    exact ⟨⟨fun _ => h0, fun h => absurd h0 h⟩, OtherPorts.refl q d, hempty⟩
  · by_cases hl : (portOf d q).resetAt + us (liveGet d (A.HRM_CFG q) F.HRM_CFG_RWIN) < d.now
    · rw [resetRequest_late h0 hl]
      obtain ⟨h1, h2, h3⟩ := linkReset_state hq hcause hempty
      exact ⟨⟨fun h => absurd h h0, fun _ _ => ⟨h1, h2⟩⟩, otherPorts_linkReset hempty cause, h3⟩
    · rw [resetRequest_early h0 hl]
      refine ⟨⟨fun h => ?_, fun _ h => absurd h hl⟩, otherPorts_fset (isPort_psts q) d _ _, ?_⟩
      · exact absurd h h0
      · rwa [portEmpty, portOf_fset]

theorem OtherPorts.empty {q : Nat} {u : Dev} (h : OtherPorts q d u) {r : Nat} (hr : r ≠ q) (he : portEmpty d r) : portEmpty u r := by
  obtain ⟨b, hb⟩ := h.port r hr
  rw [portEmpty, hb]
  exact he

/-- What befell a port before leaves its request as it is. -/
theorem Requested.of_other {q r cause : Nat} {u v : Dev} (h : Requested r cause u v) (hr : r ≠ q) (hr8 : r < 8)
    (ho : OtherPorts q d u) : Requested r cause d v := by
  have hst : lstate u r = lstate d r := ho.psts r hr8 hr _
  obtain ⟨b, hb⟩ := ho.port r hr
  refine ⟨fun h0 => h.off (hst.trans h0), fun h0 hl => h.late (by rwa [hst]) ?_⟩
  rw [ho.cfg r hr, ho.now, hb]
  exact hl

/-- Requests for the ports of a list, one after the other. -/
theorem resetRequests {cause : Nat} (hcause : cause < 16) (l : List Nat) (hl : l.Nodup) (h8 : ∀ q ∈ l, q < 8)
    (he : ∀ q ∈ l, portEmpty d q) : (∀ q ∈ l, Requested q cause d (l.foldl (fun d p => resetRequest d p cause) d)) ∧
      ∀ r, r < 8 → r ∉ l → ∀ f, fget (l.foldl (fun d p => resetRequest d p cause) d) (A.HRM_PSTS r) f = fget d (A.HRM_PSTS r) f := by
  induction l generalizing d with
  | nil => exact ⟨fun q h => absurd h List.not_mem_nil, fun _ _ _ _ => rfl⟩
  | cons q l ih =>
    obtain ⟨hq, hl⟩ := List.nodup_cons.1 hl
    have hq8 := h8 q (by simp)
    obtain ⟨hask, hother, -⟩ := resetRequest_asks hq8 hcause (he q (by simp))
    have hne {r : Nat} (h : r ∈ l) : r ≠ q := fun h' => hq (h' ▸ h)
    obtain ⟨hin, hout⟩ := ih hl (fun r h => h8 r (by simp [h])) fun r h => hother.empty (hne h) (he r (by simp [h]))
    rw [List.foldl_cons]
    refine ⟨fun r hr => ?_, fun r hr8 hr f => ?_⟩
    · obtain rfl | hr := List.mem_cons.1 hr
      · exact ⟨fun h0 => (hout r hq8 hq _).trans (hask.off h0), fun h0 hlate => by
          obtain ⟨h1, h2⟩ := hask.late h0 hlate
          exact ⟨(hout r hq8 hq _).trans h1, (hout r hq8 hq _).trans h2⟩⟩
      · exact (hin r hr).of_other (hne hr) (h8 r (by simp [hr])) hother
    · rw [List.mem_cons, not_or] at hr
      rw [hout r hr8 hr.2, hother.psts r hr8 hr.1]

/-! ### What each event does -/

theorem nvConditions_auxLow (h : d.pwr.auxLow = true) : nvConditions d ≠ 0 := by
  rw [nvConditions, h]
  change 1 + _ + _ ≠ 0
  omega

theorem nvConditions_none (ha : d.pwr.auxLow = false) (h0 : railState d 0 = 0) (h1 : railState d 1 = 0) (hp : pstate d ≠ 4) :
    nvConditions d = 0 := by
  rw [nvConditions, ha, h0, h1, beq_false_of_ne hp]
  rfl

theorem leaves_railWarn (d : Dev) (r mv : Nat) : Leaves [.pwr, .hst] isGuard d (railWarn d r mv) := by
  have h : Leaves [.pwr, .hst] isGuard d (nvStop (setRail d r 1)) :=
    Leaves.trans ((leaves_setRail_iff (by decide)).2 leaves_self) ((leaves_nvStop _).weaken (by simp) fun _ => id)
  unfold railWarn
  simp only
  generalize nvStop (setRail d r 1) = e at h ⊢
  split
  · exact h
  · rw [leaves_pwrRaise_minor_iff (by decide) (by simp) (fun _ => isReport_of_isGuard) (by decide), leaves_setPwr_iff (by simp)]
    exact h

theorem railWarn_sup (d : Dev) (r mv : Nat) (f : Fld) :
    fget (railWarn d r mv) A.PWR_SUP f = fget (nvStop (setRail d r 1)) A.PWR_SUP f := by
  have h (e : Dev) (k v : Nat) (x : Pwr → Pwr) :
      fget (if sget 0 r e.pwr.railMs = k then e else pwrRaise (setPwr e x) 0xCA 1 v) A.PWR_SUP f = fget e A.PWR_SUP f := by
    split
    · rfl
    · exact fget_pwrRaise_sup ..
  exact h _ _ _ _

theorem railWarn_state {r : Nat} (hr : r ≤ 8) (d : Dev) (mv : Nat) : railState (railWarn d r mv) r = 1 := by
  have hf := railFld_ok hr
  refine (railWarn_sup d r mv (railFld r)).trans ((nvStop_sup _ _ hf.1 hf.2.2).trans ?_)
  exact railState_setRail hr (by decide) d

theorem railWarn_blocks {r : Nat} (hr : r ≤ 1) (d : Dev) (mv : Nat) :
    fget (railWarn d r mv) A.PWR_SUP F.PWR_SUP_NVBLOCK = 1 := by
  refine (railWarn_sup d r mv _).trans (nvStop_blocks (nvConditions_rail hr ?_))
  rw [railState_setRail (by omega) (by decide)]
  decide

theorem railWarn_told {r : Nat} (h : sget 0 r d.pwr.railMs ≠ d.now / ms 1 + 1) (mv : Nat) :
    fget (railWarn d r mv) A.PWR_STS F.PWR_STS_EXC = 0xCA := by
  unfold railWarn
  simp only
  rw [nvStop_pwr, nvStop_now, if_neg]
  · exact (pwrRaise_sts _ _ _ _).1 (by decide)
  · exact h

/-- In Cold a rail that the package has taken away is only shown. -/
theorem railFault_cold {r : Nat} (hr : r < 8) (hc : pstate d = 4) (mv : Nat) (absent : Bool) :
    railFault d r mv absent = setRail d r (if absent then 3 else 2) := by
  rw [railFault]
  refine if_pos ⟨hr, ?_⟩
  rwa [pstate, setRail, fget_fset_ne _ (by decide)]

/-- A rail with a fault, and the NV writes that it stops. -/
def railDown (d : Dev) (r : Nat) (absent : Bool) : Dev := nvStop (setRail d r (if absent then 3 else 2))

theorem railFault_fatal {r : Nat} (h : r = 8 ∨ pstate d ≠ 4) (hok : d.pwr.pwrok = true) (mv : Nat) (absent : Bool) :
    railFault d r mv absent = pwrRaise (railDown d r absent) 0xC8 4 (r + mv <<< 16) := by
  have hp : pstate (setRail d r (if absent then 3 else 2)) = pstate d := by rw [pstate, setRail, fget_fset_ne _ (by decide)]; rfl
  rw [railFault, hp, if_neg (by omega)]
  refine if_pos ?_
  rw [nvStop_pwr]
  exact hok

theorem railDown_state {r : Nat} (hr : r ≤ 8) (d : Dev) (absent : Bool) :
    railState (railDown d r absent) r = if absent then 3 else 2 := by
  have hf := railFld_ok hr
  exact (nvStop_sup _ (railFld r) hf.1 hf.2.2).trans (railState_setRail hr (by split <;> decide) d)

theorem railDown_mem (d : Dev) (r : Nat) (absent : Bool) : (railDown d r absent).mem = d.mem :=
  (nvStop_mem _).trans (fset_mem ..)

theorem railRecovery_state {r : Nat} (hr : r ≤ 8) (d : Dev) : railState (railRecovery d r) r = 0 := by
  have hf := railFld_ok hr
  exact (nvResume_sup _ (railFld r)).trans ((nvLifted_sup _ _ hf.1 hf.2.2).trans (railState_setRail hr (by decide) d))

theorem leaves_railRecovery (d : Dev) (r : Nat) : Leaves [.nv, .tst] (these [A.PWR_SUP, A.PWR_STS]) d (railRecovery d r) :=
  Leaves.trans ((leaves_setRail_iff (by decide)).2 leaves_self) (leaves_nvResume _)

/-- What ends the package: the record of number `n`, with the clocks stopped and memory as in `d`. -/
structure Dies (n : Nat) (d u : Dev) : Prop where
  clocks : u.pwr.clocksOff = true
  exc : fget u A.PWR_STS F.PWR_STS_EXC = n
  sev : (sevs u).testBit 4 = true
  seq : seqState u ≠ 1
  mem : u.mem = d.mem

theorem dies_pwrRaise {n : Nat} (hn : n < 256) (hc : e.pwr.clocksOff = true) (hm : e.mem = d.mem) : Dies n d (pwrRaise e n 4 0) := by
  obtain ⟨hsev, hseq, hmem, hpwr⟩ := pwrRaise_fatal e n 0
  exact ⟨(congrArg Pwr.clocksOff hpwr).trans hc, (pwrRaise_sts _ _ _ _).1 hn, hsev, hseq, hmem.trans hm⟩

theorem thermTrip_dies (d : Dev) : Dies 0xC9 d (thermTrip d) ∧ (thermTrip d).pwr.thermtrip = true := by
  refine ⟨dies_pwrRaise (by decide) rfl rfl, ?_⟩
  exact (congrArg Pwr.thermtrip (pwrRaise_fatal _ 0xC9 0).2.2.2).trans rfl

theorem clkLoss_dies (d : Dev) : Dies 0xC4 d (clkLoss d) := dies_pwrRaise (by decide) rfl rfl

/-- The ports of a SerDes clock whose ports hold no messages: each asks for a reset. -/
theorem serdesLoss_ports {n : Nat} (hn : n < 2) (he : ∀ q, q < 8 → portEmpty d q) :
    (∀ q, q / 4 = n → Requested q 4 d (serdesLoss d n)) ∧
      ∀ q, q < 8 → q / 4 ≠ n → lstate (serdesLoss d n) q = lstate d q := by
  have hmem (q : Nat) : q ∈ range' (4 * n) 4 ↔ q / 4 = n := by
    simp only [range', List.mem_map, List.mem_range]
    exact ⟨by rintro ⟨i, hi, rfl⟩; omega, fun h => ⟨q - 4 * n, by omega, by omega⟩⟩
  have hnodup : (range' (4 * n) 4).Nodup := List.nodup_range.map fun _ _ => Nat.add_left_cancel
  obtain ⟨hin, hout⟩ := resetRequests (d := d) (cause := 4) (by decide) (range' (4 * n) 4) hnodup
    (fun q h => by rw [hmem] at h; omega) fun q h => he q (by rw [hmem] at h; omega)
  exact ⟨fun q h => hin q ((hmem q).2 h), fun q h8 h => hout q h8 (fun hq => h ((hmem q).1 hq)) _⟩

theorem leaves_nvGuard (d : Dev) (low : Bool) : Leaves [.pwr, .hst] isGuard d (nvGuard d low) :=
  Leaves.trans ((leaves_setPwr_iff (by simp)).2 leaves_self) ((leaves_nvStop _).weaken (by simp) fun _ => id)

theorem nvGuard_auxLow (d : Dev) : (nvGuard d true).pwr.auxLow = true := by
  rw [nvGuard, nvStop_pwr]
  exact Bool.or_true _

theorem nvConditions_guard (d : Dev) : nvConditions (setPwr d fun p => { p with auxLow := p.auxLow || true }) ≠ 0 :=
  nvConditions_auxLow (Bool.or_true _)

theorem leaves_nvRelease (d : Dev) : Leaves [.nv, .pwr, .tst] (these [A.PWR_SUP, A.PWR_STS]) d (nvRelease d) :=
  Leaves.trans ((leaves_setPwr_iff (by simp)).2 leaves_self) ((leaves_nvResume _).weaken (by simp) fun _ => id)

theorem nvRelease_auxLow (d : Dev) : (nvRelease d).pwr.auxLow = false := by
  rw [nvRelease, (leaves_nvResume _).1 .pwr (by simp)]
  rfl

/-- NV_WP_N rises: nothing is written for 10 ms. -/
theorem nvWp_rises (hw : d.pwr.wpLow = true) (hn : fget d A.PWR_STS F.PWR_STS_NVWP = 1) (hnow : d.now ≠ 0) :
    nvWp d false = nvLifted (setPwr d fun p => { p with wpLow := false, wpAt := if p.wpLow then d.now else p.wpAt }) ∧
      (nvWp d false).pwr.wpLow = false ∧ (nvWp d false).pwr.wpAt = d.now := by
  obtain ⟨E, hE⟩ : ∃ E, (setPwr d fun p => { p with wpLow := false, wpAt := if p.wpLow then d.now else p.wpAt }) = E := ⟨_, rfl⟩
  have hat : E.pwr.wpAt = d.now := by rw [← hE]; exact if_pos hw
  have hlow : E.pwr.wpLow = false := by rw [← hE]; rfl
  have hEnow : E.now = d.now := by rw [← hE]; rfl
  have hEn : fget E A.PWR_STS F.PWR_STS_NVWP = 1 := by rw [← hE]; exact hn
  have heq : nvWp d false = nvLifted E := by
    refine Eq.trans ?_ (nvResume_waits (d := E) (by rwa [hat]) ?_ hEn)
    · rw [← hE]
      rfl
    · rw [hat, hEnow]
      exact Nat.lt_add_of_pos_right (by decide)
  rw [heq, hE, nvLifted_pwr]
  exact ⟨rfl, hlow, hat⟩

end

/-- Settles O57: a fault ends in a record fatal to the package, the write guard's stop and release are the two lemmas about
`nvStop` and `nvResume`, and a lost SerDes clock is a request for a reset at each of its four ports. -/
theorem railsGuardAndClocks : Obligations.RailsGuardAndClocks := by
  unfold Obligations.RailsGuardAndClocks
  refine ⟨fun t s => ⟨fun rail mv => ⟨?_, fun absent => ⟨fun hr hc => ?_, fun h hok => ?_⟩, ?_⟩, ?_, ?_, fun clock he => ?_, ?_,
    fun h0 h1 hp hw ht => ?_, ?_, fun hw hn hnow => ?_⟩, fun s => ?_⟩
  · have hr : min rail.toNat 8 ≤ 8 := Nat.min_le_right _ _
    have hstate := railWarn_state hr (tick s.dev t) mv.toNat
    have hblock (hr : min rail.toNat 8 ≤ 1) := railWarn_blocks hr (tick s.dev t) mv.toNat
    have htold (hk : sget 0 (min rail.toNat 8) (tick s.dev t).pwr.railMs ≠ (tick s.dev t).now / ms 1 + 1) :=
      railWarn_told hk mv.toNat
    have hl := leaves_railWarn (tick s.dev t) (min rail.toNat 8) mv.toNat
    generalize he : railWarn (tick s.dev t) (min rail.toNat 8) mv.toNat = e at hstate hblock htold hl
    exact ⟨_, next_congr rfl he, hstate, hblock, htold, hl⟩
  · refine ⟨_, next_congr rfl (railFault_cold hr hc mv.toNat absent), railState_setRail (by omega) (by split <;> decide) _, ?_⟩
    exact (leaves_setRail_iff (by decide)).2 leaves_self
  · have heq := railFault_fatal h hok mv.toNat absent
    obtain ⟨hsev, hseq, hmem, -⟩ := pwrRaise_fatal (railDown (tick s.dev t) (min rail.toNat 8) absent) 0xC8
      (min rail.toNat 8 + mv.toNat <<< 16)
    exact ⟨_, next_congr rfl heq, (fget_pwrRaise_sup _ _ _ _ (railFld _)).trans (railDown_state (by omega) _ _),
      (pwrRaise_sts _ _ _ _).1 (by decide), hsev, hseq, hmem.trans (railDown_mem ..)⟩
  · have hstate := railRecovery_state (Nat.min_le_right rail.toNat 8) (tick s.dev t)
    have hl := leaves_railRecovery (tick s.dev t) (min rail.toNat 8)
    generalize he : railRecovery (tick s.dev t) (min rail.toNat 8) = e at hstate hl
    exact ⟨_, next_congr rfl he, hstate, hl⟩
  · obtain ⟨hd, htrip⟩ := thermTrip_dies (tick s.dev t)
    exact ⟨_, rfl, htrip, hd.clocks, hd.exc, hd.sev, hd.seq, hd.mem⟩
  · have hd := clkLoss_dies (tick s.dev t)
    exact ⟨_, rfl, hd.clocks, hd.exc, hd.sev, hd.seq, hd.mem⟩
  · obtain ⟨hin, hout⟩ := serdesLoss_ports clock.isLt he
    exact ⟨_, rfl, fun q hq => ⟨(hin q hq).off, (hin q hq).late⟩, hout⟩
  · have hc := nvConditions_guard (tick s.dev t)
    exact ⟨_, rfl, nvGuard_auxLow _, nvStop_blocks hc, nvStop_notes hc, leaves_nvGuard (tick s.dev t) true⟩
  · obtain ⟨hblock, hnvwp, hnv⟩ := nvResume_written (d := setPwr (tick s.dev t) fun p => { p with auxLow := false })
      (nvConditions_none rfl h0 h1 hp) hw ht
    exact ⟨_, rfl, nvRelease_auxLow _, hblock, hnvwp, hnv, leaves_nvRelease (tick s.dev t)⟩
  · refine ⟨_, rfl, rfl, fget_fset_self _ _ _ _ (by decide), ?_⟩
    exact (leaves_fset_iff (by decide)).2 ((leaves_setPwr_iff (by simp)).2 leaves_self)
  · obtain ⟨heq, hlow, hat⟩ := nvWp_rises hw hn hnow
    have hl : Leaves [.pwr] (these [A.PWR_SUP]) (tick s.dev t) (nvWp (tick s.dev t) false) := by
      rw [heq]
      exact Leaves.trans ((leaves_setPwr_iff (by simp)).2 leaves_self) ((leaves_nvLifted _).weaken (by simp) fun _ => id)
    exact ⟨_, rfl, hlow, hat, (hl.2.fget (by decide) _).trans hn, hl⟩
  · exact ⟨_, rfl, rfl, (leaves_setPwr_iff (p := fun _ => false) (by simp)).2 leaves_self⟩

end Sys2Proof.Machine
end

section
/-! PROOFS. Snapshots, gradient norms, shadow comparisons and counters (10). -/

namespace Sys2Proof.Machine

section
variable {ps : List Piece} {p : Nat → Bool} {d e : Dev}

/-! ### Shared layer: statistics records, banks of the reservoir -/

theorem leaves_postStat_iff {number src : Nat} {pl : List Nat} (hh : Piece.hst ∈ ps) (hr : ∀ a, p a = false → isReport a = false) :
    Leaves ps p d (postStat e number src pl) ↔ Leaves ps p d e :=
  Leaves.drop (onlyHst_postStat e number src pl).leaves (by simpa using hh) hr

theorem fget_finc_self {a : Nat} {f : Fld} (d : Dev) (k : Nat) (hf : f.ok = true) :
    fget (finc d a f k) a f = (fget d a f + k) % 2 ^ (f.hi + 1 - f.lo) := fget_fset_self _ _ _ _ hf

/-- The package with the bytes of a record written and counted. -/
def ringWritten (d : Dev) (n : Nat) (r : Record) : Dev :=
  let k := fget d (A.HST_RIDX n) F.HST_RIDX_DEVIDX
  let phase := 1 - (k >>> liveGet d (A.HST_RCFG n) F.HST_RCFG_LOGN) % 2
  let at' := liveGet d (A.HST_RBASE n) F.HST_RBASE_ADDR * 64 + 64 * (k % ringSize d n)
  ringWb (finc (hostWrite d at' (recordBytes r phase (ringH d n).dropped)) (A.HST_RIDX n) F.HST_RIDX_DEVIDX 1) n (k + 1)

theorem ringPut_written (d : Dev) (n : Nat) (r : Record) : ∃ x, ringPut d n r = setRingH (countPkg (ringWritten d n r) 0xE03 0 1 true) n x ∨
    ∃ v, ringPut d n r = msixSend (setRingH (countPkg (ringWritten d n r) 0xE03 0 1 true) n x) v := by
  unfold ringPut
  extract_lets k h phase at' d1 d2 d3 d4 u
  split
  · exact ⟨_, .inr ⟨_, rfl⟩⟩
  · exact ⟨_, .inl rfl⟩

theorem nextRseq_rseq (d : Dev) : (nextRseq d).hst.rseq = (d.hst.rseq + 1) % 2 ^ 32 := rfl

theorem countPkg_rseq (d : Dev) (c i k : Nat) (b : Bool) : (countPkg d c i k b).hst.rseq = d.hst.rseq :=
  congrArg Hst.rseq (countPkg_hst ..)

theorem setRingH_rseq (d : Dev) (n : Nat) (x : RingH) : (setRingH d n x).hst.rseq = d.hst.rseq := rfl

theorem msixSend_rseq (d : Dev) (v : Nat) : (msixSend d v).hst.rseq = d.hst.rseq := countPkg_rseq ..

theorem ringWritten_rseq (d : Dev) (n : Nat) (r : Record) : (ringWritten d n r).hst.rseq = d.hst.rseq := rfl

theorem ringPut_rseq (d : Dev) (n : Nat) (r : Record) : (ringPut d n r).hst.rseq = d.hst.rseq := by
  obtain ⟨x, h | ⟨v, h⟩⟩ := ringPut_written d n r
  · rw [h, setRingH_rseq, countPkg_rseq, ringWritten_rseq]
  · rw [h, msixSend_rseq, setRingH_rseq, countPkg_rseq, ringWritten_rseq]

theorem ridx_count (d : Dev) {n : Nat} (hn : n < 256) (c i k : Nat) (b : Bool) (f : Fld) :
    fget (countPkg d c i k b) (A.HST_RIDX n) f = fget d (A.HST_RIDX n) f := by
  refine (onlyRegs_countPkg d c i k b).leaves.2.fget ?_ f
  rw [Bool.eq_false_iff, ne_eq, isCounter_iff]
  simp only [A.HST_RIDX]
  omega

theorem ridx_setRingH (d : Dev) (n : Nat) (x : RingH) (f : Fld) :
    fget (setRingH d n x) (A.HST_RIDX n) f = fget d (A.HST_RIDX n) f := rfl

theorem ridx_msixSend (d : Dev) {n : Nat} (hn : n < 256) (v : Nat) (f : Fld) :
    fget (msixSend d v) (A.HST_RIDX n) f = fget d (A.HST_RIDX n) f := ridx_count _ hn ..

theorem ridx_ringWritten (d : Dev) (n : Nat) (r : Record) : fget (ringWritten d n r) (A.HST_RIDX n) F.HST_RIDX_DEVIDX =
    (fget d (A.HST_RIDX n) F.HST_RIDX_DEVIDX + 1) % 2 ^ 32 := by
  rw [ringWritten, ringWb, fget_congr (hostWrite_regs _ _ _), fget_finc_self _ _ (by decide), fget_congr (hostWrite_regs _ _ _)]
  rfl

/-- A record put into its ring counts it as produced. -/
theorem ringPut_produced (d : Dev) {n : Nat} (hn : n < 256) (r : Record) :
    fget (ringPut d n r) (A.HST_RIDX n) F.HST_RIDX_DEVIDX = (fget d (A.HST_RIDX n) F.HST_RIDX_DEVIDX + 1) % 2 ^ 32 := by
  obtain ⟨x, h | ⟨v, h⟩⟩ := ringPut_written d n r
  · rw [h, ridx_setRingH, ridx_count _ hn, ridx_ringWritten]
  · rw [h, ridx_msixSend _ hn, ridx_setRingH, ridx_count _ hn, ridx_ringWritten]

/-- What a statistics record makes of its ring, or of the records that wait for it. -/
theorem postStat_sent (d : Dev) (number src : Nat) (pl : List Nat) :
    (postStat d number src pl).hst.rseq = (d.hst.rseq + 1) % 2 ^ 32 ∧
    (ringTakes d (routeOf d true 0) = false → (postStat d number src pl).hst.statWait =
      d.hst.statWait ++ [(routeOf d true 0, mkRecord d number 0 true src pl)]) ∧
    (ringTakes d (routeOf d true 0) = true → d.hst.statWait = [] →
      fget (postStat d number src pl) (A.HST_RIDX (routeOf d true 0)) F.HST_RIDX_DEVIDX =
        (fget d (A.HST_RIDX (routeOf d true 0)) F.HST_RIDX_DEVIDX + 1) % 2 ^ 32) := by
  refine ⟨?_, fun h => ?_, fun h hw => ?_⟩
  · unfold postStat
    simp only
    split
    · rw [ringPut_rseq, nextRseq_rseq]
    · rfl
  · rw [postStat, h]
    rfl
  · rw [postStat, h, hw]
    exact ringPut_produced (nextRseq d) (routeOf_lt _ _ _) _

/-- Accesses that no bank refuses move counters alone. -/
theorem rvrTimed_counts {T : Nat} {acc : List (Nat × Nat)} (hT : T / 8 < 2) (h : (rvrTimed d T acc).2 = []) :
    ∃ e, rvrTimed d T acc = (e, []) ∧ Leaves [.rvrUse] isCounter d e := by
  rw [rvrTimed_eq] at h ⊢
  obtain ⟨-, use, heq, -⟩ := bankAccesses_clean T acc _ h
  refine ⟨_, heq, ?_⟩
  simp only [rvrFresh]
  rw [leaves_withRvrUse_iff (by simp), leaves_withRvrUse_iff (by simp)]
  exact (onlyRegs_count d _ _ _ _ _ hT).leaves.weaken (by simp) fun _ => id

/-! ### The banks of the astrolabe (R345) -/

theorem bankReg_half (h b : Nat) : bankReg h b = (h + 1) * 0x1000000 + 0x800038 + 8 * (b % 2) := by
  unfold bankReg
  split <;> simp only [A.AST_BANK0, A.AST_BANK1] <;> omega

/-! ### The AST slot (R360, R361) -/

/-- A terrace marked for a forced sample at `t`. -/
def forcedAt (d : Dev) (k t : Nat) : Dev := d.withAst { d.ast with forced := sset 0 k t d.ast.forced }

theorem forced_forcedAt (d : Dev) (k t : Nat) : sget 0 k (forcedAt d k t).ast.forced = t := sget_sset_self ..

theorem leaves_forcedAt (d : Dev) (k t : Nat) : Leaves [.ast] (fun _ => false) d (forcedAt d k t) :=
  (leaves_withAst_iff (by simp)).2 leaves_self

/-- An op that its half may issue, with the astrolabe running, does its work on the settled package. -/
theorem astIssue_running {iss : Issue} {op : AstOp} (hd : settle (tick e iss.t) = d) (hrun : running d (.ast iss.half) = true)
    (hown : iss.half = .A ∨ ∃ terr, op = .sforce terr) : astIssue e iss op = match op with
      | .snap => snapClaim d
      | .gnopen acc => gnSet d acc.toNat GnAcc.init
      | .gnwr acc => gnWrite d iss (encodeAst (.gnwr acc)).toNat acc.toNat
      | .gnrec acc => gnRecord d acc.toNat
      | .sforce terr => forcedAt d (8 * hn iss.half + terr.toNat) (iss.t + 1) := by
  simp only [astIssue, hd, hrun]
  obtain hA | ⟨terr, rfl⟩ := hown
  · cases op <;> simp [hA, forcedAt]
  · rfl

theorem bankReg_lt_ne (b : Nat) : bankReg 1 b ≠ bankReg 0 b := by
  rw [bankReg_half, bankReg_half]
  omega

/-- Both banks of a step, claimed. -/
def bothClaimed (d : Dev) (L : Nat) : Dev := fset (fset d (bankReg 0 L) F.AST_BANK0_PEND 1) (bankReg 1 L) F.AST_BANK0_PEND 1

theorem bothClaimed_pend (d : Dev) (L : Nat) : bankPend (bothClaimed d L) 0 L = true ∧ bankPend (bothClaimed d L) 1 L = true := by
  constructor
  · rw [bankPend, bothClaimed, fget_fset_ne _ (bankReg_lt_ne L).symm, fget_fset_self _ _ _ _ (by decide)]
    rfl
  · rw [bankPend, bothClaimed, fget_fset_self _ _ _ _ (by decide)]
    rfl

theorem bothClaimed_tag (d : Dev) (L h : Nat) : bankTag (bothClaimed d L) h L = bankTag d h L := by
  rw [bankTag, bothClaimed, fget_fset_apart _ _ _ _ _ _ (by decide) (by decide) (by decide),
    fget_fset_apart _ _ _ _ _ _ (by decide) (by decide) (by decide)]
  rfl

theorem leaves_bothClaimed (d : Dev) (L : Nat) : Leaves [] (these [bankReg 0 L, bankReg 1 L]) d (bothClaimed d L) := by
  rw [bothClaimed, leaves_fset_iff (by simp), leaves_fset_iff (by simp)]
  exact leaves_self

/-- The package with a SNAP's place among the WEI commands noted. -/
def snapNoted (d : Dev) : Dev := latch (d.withAst { d.ast with snapSerial := weiSerial d }) [A.AST_CTL 0]

theorem leaves_snapNoted (d : Dev) : Leaves [.ast, .live] (fun _ => false) d (snapNoted d) :=
  (leaves_latch_iff (by simp)).2 ((leaves_withAst_iff (by simp)).2 leaves_self)

theorem snapNoted_sums (d : Dev) : (snapNoted d).ast.sums = d.ast.sums := rfl

theorem bankPend_snapNoted (d : Dev) (h L : Nat) : bankPend (snapNoted d) h L = bankPend d h L := rfl

theorem bankTag_snapNoted (d : Dev) (h L : Nat) : bankTag (snapNoted d) h L = bankTag d h L := rfl

/-- The package once a SNAP has claimed both banks. -/
theorem snapClaim_ok {L : Nat} (hL : (curStep d + 2 ^ 32 - 1) % 2 ^ 32 = L)
    (h : ∀ h, h < 2 → bankTagged d h L = true ∧ bankTag d h L = L ∧ bankPend d h L = false ∧ bankEmit d h L = false) :
    snapClaim d = snapNoted (bothClaimed d L) := by
  obtain ⟨ht0, hg0, hp0, he0⟩ := h 0 (by decide)
  obtain ⟨ht1, hg1, hp1, he1⟩ := h 1 (by decide)
  rw [snapClaim, hL]
  refine if_pos ?_
  beta_reduce
  rw [ht0, hg0, hp0, he0, ht1, hg1, hp1, he1, decide_eq_true rfl]
  rfl

theorem gnGet_gnSet (d : Dev) (k acc : Nat) (g : GnAcc) : gnGet (gnSet d acc g) k = if k = acc then g else gnGet d k := by
  split
  · next h => rw [h]; exact sget_sset_self ..
  · next h => exact sget_sset_ne _ h _ _

/-- A GNWR that passes its tests has its four words on the way. -/
theorem gnWrite_ok {iss : Issue} {word acc T a : Nat} (ha : liveGet d A.AST_GNOUT F.AST_GNOUT_BASE * 16 + 16 * acc = a)
    (hT : resTerrace a = some T) (hin : inRes T a 16 = true)
    (hbanks : (rvrTimed d T [((a - resBase T) / 128, iss.t + 32)]).2 = []) :
    (gnWrite d iss word acc).jet.lands = d.jet.lands ++ [⟨iss.t + 32, none, none, [(a, leBytes 4 (sum32 (gnGet d acc).loc) ++
      leBytes 4 (sum32 (gnGet d acc).red) ++ leBytes 4 (gnGet d acc).nloc ++ leBytes 4 (gnGet d acc).nred)]⟩] ∧
      Leaves [.jet, .rvrUse] isCounter d (gnWrite d iss word acc) := by
  obtain ⟨e, he, hl⟩ := rvrTimed_counts (Nat.div_lt_of_lt_mul (resTerrace_lt hT)) hbanks
  have heq : gnWrite d iss word acc = e.withJet { e.jet with lands := e.jet.lands ++ [⟨iss.t + 32, none, none, [(a,
      leBytes 4 (sum32 (gnGet d acc).loc) ++ leBytes 4 (sum32 (gnGet d acc).red) ++ leBytes 4 (gnGet d acc).nloc ++
        leBytes 4 (gnGet d acc).nred)]⟩] } := by
    simp only [gnWrite, ha, hT, hin, he]
    rfl
  rw [heq]
  refine ⟨?_, (leaves_withJet_iff (by simp)).2 (hl.weaken (by simp) fun _ => id)⟩
  rw [← show e.jet = d.jet from hl.1 .jet (by simp)]
  rfl

theorem leaves_gnSet (d : Dev) (acc : Nat) (g : GnAcc) : Leaves [.ast] (fun _ => false) d (gnSet d acc g) :=
  (leaves_withAst_iff (by simp)).2 leaves_self

/-- The record of an accumulator is posted, or waits for its ring. -/
theorem gnRecord_sent (d : Dev) (acc : Nat) : Leaves [.hst] isReport d (gnRecord d acc) ∧
    (gnRecord d acc).hst.rseq = (d.hst.rseq + 1) % 2 ^ 32 ∧
    (ringTakes d (routeOf d true 0) = false → ∃ r, (gnRecord d acc).hst.statWait = d.hst.statWait ++ [(routeOf d true 0, r)] ∧
      r.number = 0xA2 ∧ r.stat = true ∧ r.payload.head? = some (sum32 (gnGet d acc).loc + (sum32 (gnGet d acc).red) <<< 32)) ∧
    (ringTakes d (routeOf d true 0) = true → d.hst.statWait = [] →
      fget (gnRecord d acc) (A.HST_RIDX (routeOf d true 0)) F.HST_RIDX_DEVIDX =
        (fget d (A.HST_RIDX (routeOf d true 0)) F.HST_RIDX_DEVIDX + 1) % 2 ^ 32) := by
  unfold gnRecord
  extract_lets g range
  obtain ⟨hseq, hwait, hput⟩ := postStat_sent d 0xA2 6 [sum32 g.loc + (sum32 g.red) <<< 32,
    g.nloc % 2 ^ 32 + (g.nred % 2 ^ 32) <<< 32, curStep d + (acc % 16) <<< 32 + (b2n range) <<< 36 + (b2n g.nf) <<< 37, sidNow d]
  exact ⟨(leaves_postStat_iff (by simp) fun _ => id).2 leaves_self, hseq, fun h => ⟨_, hwait h, rfl, rfl, rfl⟩, hput⟩

/-! ### The emission (R348) -/

/-- With nothing to work on, the weirs leave the package as it is. -/
theorem weirPump_idle {w : Nat} (hc : (weirOf d w).cur = none) (hq : (weirOf d w).queue = []) (n : Nat) : weirPump w n d = d := by
  cases n with
  | zero => rfl
  | succ n => simp only [weirPump, hc, hq]

theorem weiPump_idle (h : weiIdle d) (n : Nat) : weiPump n d = d := by
  obtain ⟨h0, h1, hw⟩ := h
  induction n with
  | zero => rfl
  | succ n ih =>
    have hfold (l : List Nat) (hl : ∀ w ∈ l, w < 8) :
        l.foldl (fun d w => weirPump w (2 * (weirOf d w).queue.length + 2) d) d = d := by
      induction l with
      | nil => rfl
      | cons w l ih =>
        obtain ⟨hc, hq⟩ := hw w (hl w (by simp))
        rw [List.foldl_cons, weirPump_idle hc hq]
        exact ih fun w h => hl w (by simp [h])
    simp only [weiPump, h0, h1, List.length_nil, weiDispatch]
    rw [hfold _ fun w h => List.mem_range.1 h]
    exact ih

theorem weiRun_idle (h : weiIdle d) : weiRun d = d := weiPump_idle h _

theorem weiIdle_of_wei (hw : e.wei = d.wei) (h : weiIdle d) : weiIdle e := by
  unfold weiIdle weiQueue weirOf at h ⊢
  rwa [hw]

theorem leaves_zeroBank_iff {h n : Nat} (ha : Piece.ast ∈ ps) : Leaves ps p d (zeroBank e h n) ↔ Leaves ps p d e :=
  leaves_withAst_iff ha

theorem any_filter_bank (l : List (Nat × Nat)) (k b : Nat) : (l.filter fun e => e.1 / k != b).any (fun e => e.1 / k == b) = false := by
  rw [List.any_eq_false]
  intro e he
  have := (List.mem_filter.1 he).2
  simpa [bne] using this

theorem any_filter_of_any {l : List (Nat × Nat)} {q : Nat × Nat → Bool} (h : l.any q = false) (r : Nat × Nat → Bool) :
    (l.filter r).any q = false := by
  rw [List.any_eq_false] at h ⊢
  exact fun e he => h e (List.mem_filter.1 he).1

theorem bankHolds_zeroBank (d : Dev) (h n : Nat) : bankHolds (zeroBank d h n) h n = false := by
  simp only [bankHolds, zeroBank, withAst_ast, any_filter_bank]
  rfl

theorem bankHolds_zeroBank_of {h n : Nat} (hd : bankHolds d h n = false) (h' n' : Nat) : bankHolds (zeroBank d h' n') h n = false := by
  simp only [bankHolds, Bool.or_eq_false_iff] at hd ⊢
  obtain ⟨⟨hs, hn⟩, hm⟩ := hd
  exact ⟨⟨any_filter_of_any hs _, any_filter_of_any hn _⟩, any_filter_of_any hm _⟩

/-- A bank's register, its tag withdrawn. -/
def bankFreed (d : Dev) (h L v : Nat) : Dev :=
  fset (fset (fset (fset d (bankReg h L) F.AST_BANK0_TAG 0) (bankReg h L) F.AST_BANK0_TAGGED 0) (bankReg h L) F.AST_BANK0_PEND 0)
    (bankReg h L) F.AST_BANK0_EMIT v

theorem bankFreed_own (d : Dev) (h L v : Nat) :
    bankPend (bankFreed d h L v) h L = false ∧ bankTagged (bankFreed d h L v) h L = false := by
  constructor
  · rw [bankPend, bankFreed, fget_fset_apart _ _ _ _ _ _ (by decide) (by decide) (by decide), fget_fset_self _ _ _ _ (by decide)]
    rfl
  · rw [bankTagged, bankFreed, fget_fset_apart _ _ _ _ _ _ (by decide) (by decide) (by decide),
      fget_fset_apart _ _ _ _ _ _ (by decide) (by decide) (by decide), fget_fset_self _ _ _ _ (by decide)]
    rfl

theorem leaves_bankFreed_iff {h L v : Nat} (hp : p (bankReg h L) = true) : Leaves ps p d (bankFreed e h L v) ↔ Leaves ps p d e := by
  rw [bankFreed, leaves_fset_iff hp, leaves_fset_iff hp, leaves_fset_iff hp, leaves_fset_iff hp]

/-- What an emission has read out and emptied. -/
structure Emitted (L : Nat) (d u : Dev) : Prop where
  leaves : Leaves [.hst, .ast] (fun a => isReport a || these [bankReg 0 L, bankReg 1 L] a) d u
  free : ∀ h, h < 2 → bankPend u h L = false ∧ bankTagged u h L = false ∧ bankHolds u h L = false

/-- Both banks of a step freed, EMIT as the records still to be written say. -/
def bothFreed (d : Dev) (L : Nat) : Dev :=
  let e := bankFreed d 0 L (b2n (emitWaits d))
  bankFreed e 1 L (b2n (emitWaits e))

theorem bankEmission_records (d : Dev) (L : Nat) : ∃ P, bankEmission d L = bothFreed (zeroBank (zeroBank P 0 L) 1 L) L ∧
    Leaves [.hst] isReport d P := by
  unfold bankEmission
  extract_lets nrec ns out smp hi lo last D
  refine ⟨postStat D 0xA1 6 last, rfl, (leaves_postStat_iff (by simp) fun _ => id).2 ?_⟩
  exact Leaves.foldl (fun e q _ he => (leaves_postStat_iff (by simp) fun _ => id).2 he) leaves_self

theorem bankHolds_bankFreed (e : Dev) (h n v L : Nat) : bankHolds (bankFreed e n L v) h L = bankHolds e h L := by
  have hl : (bankFreed e n L v).ast = e.ast :=
    ((leaves_bankFreed_iff (ps := []) (p := fun _ => true) rfl).2 leaves_self).1 .ast (by simp)
  unfold bankHolds
  rw [hl]

theorem bankFreed_other (e : Dev) (L v : Nat) (f : Fld) : fget (bankFreed e 1 L v) (bankReg 0 L) f = fget e (bankReg 0 L) f :=
  ((leaves_bankFreed_iff (ps := []) (p := these [bankReg 1 L]) (by simp)).2 leaves_self).2.fget
    (by simpa [these] using (bankReg_lt_ne L).symm) f

/-- Banks that hold nothing are freed. -/
theorem bothFreed_free (Z : Dev) (L : Nat) (h0 : bankHolds Z 0 L = false) (h1 : bankHolds Z 1 L = false) {h : Nat} (hh : h < 2) :
    bankPend (bothFreed Z L) h L = false ∧ bankTagged (bothFreed Z L) h L = false ∧ bankHolds (bothFreed Z L) h L = false := by
  obtain ⟨w, v, hB⟩ : ∃ w v, bothFreed Z L = bankFreed (bankFreed Z 0 L w) 1 L v := ⟨_, _, rfl⟩
  obtain ⟨hpend0, htag0⟩ := bankFreed_own Z 0 L w
  have hhold (h : Nat) : bankHolds (bankFreed Z 0 L w) h L = bankHolds Z h L := bankHolds_bankFreed ..
  rw [hB]
  generalize bankFreed Z 0 L w = e at hpend0 htag0 hhold
  obtain ⟨hpend1, htag1⟩ := bankFreed_own e 1 L v
  interval_cases h
  · rw [bankHolds_bankFreed, hhold]
    refine ⟨?_, ?_, h0⟩
    · rw [bankPend, bankFreed_other]
      exact hpend0
    · rw [bankTagged, bankFreed_other]
      exact htag0
  · rw [bankHolds_bankFreed, hhold]
    exact ⟨hpend1, htag1, h1⟩

theorem emitted_bankEmission (d : Dev) (L : Nat) : Emitted L d (bankEmission d L) := by
  obtain ⟨P, hP, hl⟩ := bankEmission_records d L
  rw [hP]
  refine ⟨?_, fun h hh => bothFreed_free _ L (bankHolds_zeroBank_of (bankHolds_zeroBank _ 0 L) _ _) (bankHolds_zeroBank _ 1 L) hh⟩
  rw [bothFreed, leaves_bankFreed_iff (by simp), leaves_bankFreed_iff (by simp), leaves_zeroBank_iff (by simp),
    leaves_zeroBank_iff (by simp)]
  exact hl.weaken (by simp) fun a ha => (Bool.or_eq_false_iff.1 ha).1

theorem snapEmit_first {b L : Nat} (hL : bankTag d 0 b = L) (hb : b < 2) (hp : bankPend d 0 b = true)
    (hfirst : b = 1 → bankPend d 0 0 = false) (hw : snapWaits d L = false) : snapEmit d = bankEmission d L := by
  have hfind : [0, 1].find? (fun b => bankPend d 0 b) = some b := by
    interval_cases b
    · simp [List.find?, hp]
    · simp [List.find?, hp, hfirst rfl]
  simp only [snapEmit, hfind, hL, hw]
  rfl

theorem bankReg_step {L b h : Nat} (hL : L % 2 = b) : bankReg h L = bankReg h b := by
  rw [bankReg_half, bankReg_half]
  omega

/-! ### Counters (R366) -/

theorem regGet_filtered (d : Dev) (q : Nat × W64 → Bool) (c : Nat → Bool) (hq : ∀ e, q e = !c e.1) (a : Nat) :
    regGet (d.withRegs (d.regs.filter q)) a = if c a then regReset a else regGet d a := by
  change sget (regReset a) a (d.regs.filter q) = _
  unfold regGet sget
  induction d.regs with
  | nil => split <;> rfl
  | cons e l ih =>
    rw [List.filter_cons]
    obtain ⟨k, v⟩ := e
    by_cases hk : k = a
    · subst hk
      cases hc : c k
      · simp [hq, hc, sfind]
      · simpa [hq, hc] using ih
    · cases hc : c k
      · simpa [hq, hc, sfind, hk] using ih
      · simpa [hq, hc, sfind, hk] using ih

theorem regReset_counter : (∀ h, h < 2 → ∀ n, n < 64 → regReset (A.CNT_VAL h n) = 0) ∧ ∀ n, n < 32 → regReset (A.GCNT_VAL n) = 0 := by
  decide +kernel

/-- The values of the counters of a block of `n` counters. -/
def inBlock (base n a : Nat) : Bool := decide (base + 0x400 ≤ a) && decide (a < base + 0x400 + 8 * n)

theorem inBlock_iff (base n a : Nat) : inBlock base n a = true ↔ base + 0x400 ≤ a ∧ a < base + 0x400 + 8 * n := by
  rw [inBlock, Bool.and_eq_true, decide_eq_true_eq, decide_eq_true_eq]

/-- The package with a block's counters back at their reset values. -/
def blockCleared (d : Dev) (base n : Nat) : Dev := d.withRegs (d.regs.filter fun e => !inBlock base n e.1)

theorem regGet_blockCleared (d : Dev) (base n a : Nat) :
    regGet (blockCleared d base n) a = if inBlock base n a then regReset a else regGet d a :=
  regGet_filtered d _ (inBlock base n) (fun _ => rfl) a

theorem onlyRegs_blockCleared {base n : Nat} (h : ∀ a, p a = false → inBlock base n a = false) :
    OnlyRegs p d (blockCleared d base n) :=
  ⟨⟨_, rfl⟩, fun a ha => (regGet_blockCleared ..).trans (if_neg (by rw [h a ha]; decide))⟩

theorem cntClear_half (d : Dev) (h : Half) : cntClear d (some h) = blockCleared d (A.CNT_CTL (hn h)) 64 := rfl

theorem cntClear_package (d : Dev) : cntClear d none = blockCleared d A.GCNT_CTL 32 := rfl

theorem cntVal_inBlock {h n : Nat} (hn : n < 64) : inBlock (A.CNT_CTL h) 64 (A.CNT_VAL h n) = true := by
  rw [inBlock_iff]
  simp only [A.CNT_CTL, A.CNT_VAL]
  omega

theorem gcntVal_inBlock {n : Nat} (hn : n < 32) : inBlock A.GCNT_CTL 32 (A.GCNT_VAL n) = true := by
  rw [inBlock_iff]
  simp only [A.GCNT_CTL, A.GCNT_VAL]
  omega

/-! ### Comparisons (R356 to R358) -/

/-- What a contribution to a bank may change. -/
def isBankNote (h a : Nat) : Bool := isReport a || these [A.AST_STS h, A.AST_BANK0 h, A.AST_BANK1 h] a

theorem isReport_of_isBankNote {h a : Nat} (ha : isBankNote h a = false) : isReport a = false := (Bool.or_eq_false_iff.1 ha).1

theorem isBankNote_bankReg (h b : Nat) : isBankNote h (bankReg h b) = true := by
  rw [isBankNote, bankReg]
  split <;> simp

theorem leaves_astNote_iff {h number detail : Nat} (hh : Piece.hst ∈ ps) (hr : ∀ a, p a = false → isReport a = false)
    (hs : p (A.AST_STS h) = true) : Leaves ps p d (astNote e h number detail) ↔ Leaves ps p d e := by
  rw [astNote, raise_minor _ _ _ _ _ (by decide), leaves_post_iff hh hr, leaves_fset_iff hs]

theorem astNote_ast (d : Dev) (h number detail : Nat) : (astNote d h number detail).ast = d.ast :=
  ((leaves_astNote_iff (ps := [.hst]) (p := fun a => isReport a || these [A.AST_STS h] a) (by simp)
    (fun _ ha => (Bool.or_eq_false_iff.1 ha).1) (by simp)).2 leaves_self).1 .ast (by simp)

/-- A contribution takes or finds its bank, or is discarded with a note. -/
theorem bankFor_leaves (d : Dev) (h n : Nat) :
    Leaves [.ast, .hst] (isBankNote h) d (bankFor d h n).1 ∧ (bankFor d h n).1.ast.shadow = d.ast.shadow := by
  unfold bankFor
  simp only
  split
  · refine ⟨?_, rfl⟩
    rw [leaves_fset_iff (isBankNote_bankReg h n), leaves_fset_iff (isBankNote_bankReg h n)]
    exact leaves_self
  · split
    · exact ⟨leaves_self, rfl⟩
    · generalize hE : d.withAst _ = E
      have hl : Leaves [.ast, .hst] (isBankNote h) d E := hE ▸ (leaves_withAst_iff (by simp)).2 leaves_self
      have hs : E.ast.shadow = d.ast.shadow := by rw [← hE]; rfl
      split
      · refine ⟨(leaves_astNote_iff (by simp) (fun _ => isReport_of_isBankNote) ?_).2 hl, ?_⟩
        · simp [isBankNote]
        · exact (congrArg Ast.shadow (astNote_ast ..)).trans hs
      · exact ⟨hl, hs⟩

/-- The sample of a comparison, in its bank. -/
def shadowSampled (d : Dev) (h : Nat) (x : Shadow) : Dev :=
  match bankFor d h x.step with
  | (d, false) => d
  | (d, true) =>
    let k := (2 * h + x.step % 2) * 4
    let sm := sset 0 k (sget 0 k d.ast.samples + 1) d.ast.samples
    d.withAst { d.ast with samples := sset 0 (k + 3) (maxCode32 (sget 0 (k + 3) sm) x.metric) sm }

theorem shadowSampled_leaves (d : Dev) (h : Nat) (x : Shadow) :
    Leaves [.ast, .hst] (isBankNote h) d (shadowSampled d h x) ∧ (shadowSampled d h x).ast.shadow = d.ast.shadow := by
  obtain ⟨hl, hs⟩ := bankFor_leaves d h x.step
  unfold shadowSampled
  split
  · next hb => rw [hb] at hl hs; exact ⟨hl, hs⟩
  · next hb => rw [hb] at hl hs; exact ⟨(leaves_withAst_iff (by simp)).2 hl, hs⟩

/-- The comparison's registers and counters. -/
def shadowNoted (d : Dev) (h : Nat) (x : Shadow) : Dev :=
  let d : Dev := d.withAst { d.ast with shadow := sdel h d.ast.shadow }
  let d := fset (fset d (A.SHD_STS h) F.SHD_STS_BUSY 0) (A.SHD_STS h) F.SHD_STS_LASTERR x.metric
  let d := finc d (A.SHD_CNT h) F.SHD_CNT_COMPARED 1
  let d := fset d (A.SHD_MIS h) F.SHD_MIS_MAXERR (maxCode32 (fget d (A.SHD_MIS h) F.SHD_MIS_MAXERR) x.metric)
  count (count d h 0x501 0 1 true) h 0x503 0 x.excluded true

/-- What a comparison may change. -/
def isShadowNote (h a : Nat) : Bool :=
  isReport a || these [A.SHD_STS h, A.SHD_CNT h, A.SHD_MIS h, A.AST_STS h, A.AST_BANK0 h, A.AST_BANK1 h] a

theorem isBankNote_of_isShadowNote {h a : Nat} (ha : isShadowNote h a = false) : isBankNote h a = false := by
  simp only [isShadowNote, isBankNote, these, List.contains_cons, List.contains_nil, Bool.or_false, Bool.or_eq_false_iff] at ha ⊢
  exact ⟨ha.1, ha.2.2.2.2⟩

/-- The verdict on a sampled window. -/
def shadowJudged (d : Dev) (h : Nat) (x : Shadow) : Dev :=
  if flt (dec32 (liveGet d (A.AST_SHD h) F.AST_SHD_TOL)) (dec32 x.metric) then shdMismatch d h x
  else fset d (A.SHD_STS h) F.SHD_STS_CONSEC 0

theorem shadowCompare_some {h : Nat} {x : Shadow} (h0 : sfind h e.ast.shadow = some x) :
    shadowCompare e h = shadowJudged (shadowSampled (shadowNoted (settle (tick e x.ends)) h x) h x) h x := by
  obtain ⟨X, hX⟩ : ∃ X, shadowNoted (settle (tick e x.ends)) h x = X := ⟨_, rfl⟩
  unfold shadowCompare
  rw [h0, hX]
  simp only [shadowNoted] at hX
  simp only [hX, shadowSampled, shadowJudged]
  obtain ⟨⟨v, b⟩, hb⟩ : ∃ r, bankFor X h x.step = r := ⟨_, rfl⟩
  clear hX
  cases b <;> simp only [hb]

theorem leaves_countIn_iff {h c i k : Nat} {b : Bool} (hh : h < 2) (hr : ∀ a, p a = false → isCounter a = false) :
    Leaves ps p d (count e h c i k b) ↔ Leaves ps p d e :=
  Leaves.drop (onlyRegs_count e h c i k b hh).leaves (by simp) hr

theorem isReport_shadow {h a : Nat} (hh : h < 2) (ha : a ∈ [A.SHD_STS h, A.SHD_CNT h]) : isBankNote h a = false ∧ isCounter a = false := by
  interval_cases h <;> fin_cases ha <;> decide

theorem leaves_shadowNoted (d : Dev) {h : Nat} (hh : h < 2) (x : Shadow) : Leaves [.ast, .hst] (isShadowNote h) d (shadowNoted d h x) := by
  have hc (a : Nat) (ha : isShadowNote h a = false) : isCounter a = false := isReport_of_isCounter (Bool.or_eq_false_iff.1 ha).1
  rw [shadowNoted, leaves_countIn_iff hh hc, leaves_countIn_iff hh hc, leaves_fset_iff (by simp [isShadowNote]),
    leaves_finc_iff (by simp [isShadowNote]), leaves_fset_iff (by simp [isShadowNote]), leaves_fset_iff (by simp [isShadowNote]),
    leaves_withAst_iff (by simp)]
  exact leaves_self

/-- What a comparison within the tolerance shows. -/
structure Compared (h : Nat) (x : Shadow) (d u : Dev) : Prop where
  shadow : sfind h u.ast.shadow = none
  compared : fget u (A.SHD_CNT h) F.SHD_CNT_COMPARED = (fget d (A.SHD_CNT h) F.SHD_CNT_COMPARED + 1) % 2 ^ 32
  busy : fget u (A.SHD_STS h) F.SHD_STS_BUSY = 0
  lasterr : fget u (A.SHD_STS h) F.SHD_STS_LASTERR = x.metric % 2 ^ 32

theorem compared_shadowNoted (d : Dev) {h : Nat} (hh : h < 2) (x : Shadow) : Compared h x d (shadowNoted d h x) := by
  obtain ⟨-, hsts⟩ := isReport_shadow hh (a := A.SHD_STS h) (by simp)
  obtain ⟨-, hcnt⟩ := isReport_shadow hh (a := A.SHD_CNT h) (by simp)
  have hne : A.SHD_CNT h ≠ A.SHD_STS h ∧ A.SHD_MIS h ≠ A.SHD_STS h ∧ A.SHD_MIS h ≠ A.SHD_CNT h := by
    simp only [A.SHD_CNT, A.SHD_STS, A.SHD_MIS]
    omega
  have hf (e : Dev) (c i k : Nat) (b : Bool) {a : Nat} (ha : isCounter a = false) (f : Fld) : fget (count e h c i k b) a f = fget e a f :=
    (onlyRegs_count e h c i k b hh).leaves.2.fget ha f
  refine ⟨?_, ?_, ?_, ?_⟩
  · rw [shadowNoted, count_ast, count_ast]
    exact (sfind_sdel h h d.ast.shadow).trans (if_pos rfl)
  · rw [shadowNoted, hf _ _ _ _ _ hcnt, hf _ _ _ _ _ hcnt, fget_fset_ne _ hne.2.2.symm, fget_finc_self _ _ (by decide),
      fget_fset_ne _ hne.1, fget_fset_ne _ hne.1]
    rfl
  · rw [shadowNoted, hf _ _ _ _ _ hsts, hf _ _ _ _ _ hsts, fget_fset_ne _ hne.2.1.symm, finc, fget_fset_ne _ hne.1.symm,
      fget_fset_apart _ _ _ _ _ _ (by decide) (by decide) (by decide), fget_fset_self _ _ _ _ (by decide)]
    rfl
  · rw [shadowNoted, hf _ _ _ _ _ hsts, hf _ _ _ _ _ hsts, fget_fset_ne _ hne.2.1.symm, finc, fget_fset_ne _ hne.1.symm,
      fget_fset_self _ _ _ _ (by decide)]
    rfl

theorem Compared.sampled {h : Nat} {x : Shadow} {u v : Dev} (hc : Compared h x d u) (hh : h < 2) (hs : v.ast.shadow = u.ast.shadow)
    (hl : Leaves ps (isBankNote h) u v) : Compared h x d (fset v (A.SHD_STS h) F.SHD_STS_CONSEC 0) := by
  have hne : A.SHD_CNT h ≠ A.SHD_STS h := by
    simp only [A.SHD_CNT, A.SHD_STS]
    omega
  obtain ⟨hsts, -⟩ := isReport_shadow hh (a := A.SHD_STS h) (by simp)
  obtain ⟨hcnt, -⟩ := isReport_shadow hh (a := A.SHD_CNT h) (by simp)
  refine ⟨?_, ?_, ?_, ?_⟩
  · rw [fset_ast, hs]
    exact hc.shadow
  · rw [fget_fset_ne _ hne, hl.2.fget hcnt]
    exact hc.compared
  · rw [fget_fset_apart _ _ _ _ _ _ (by decide) (by decide) (by decide), hl.2.fget hsts]
    exact hc.busy
  · rw [fget_fset_apart _ _ _ _ _ _ (by decide) (by decide) (by decide), hl.2.fget hsts]
    exact hc.lasterr

theorem liveGet_of_leaves {q : Nat → Bool} {u : Dev} (hl : Leaves ps q d u) (h : Piece.live ∉ ps) (a : Nat) (f : Fld) :
    liveGet u a f = liveGet d a f := liveGet_of_live (hl.1 .live h) a f

/-- A comparison within the tolerance. -/
theorem shadowCompare_counts {h : Nat} (hh : h < 2) {x : Shadow} (h0 : sfind h e.ast.shadow = some x)
    (hd : settle (tick e x.ends) = d) (hflt : flt (dec32 (liveGet d (A.AST_SHD h) F.AST_SHD_TOL)) (dec32 x.metric) = false) :
    Compared h x d (shadowCompare e h) ∧ fget (shadowCompare e h) (A.SHD_STS h) F.SHD_STS_CONSEC = 0 ∧
      Leaves [.ast, .hst] (isShadowNote h) d (shadowCompare e h) := by
  have hnoted := leaves_shadowNoted d hh x
  have hcompared := compared_shadowNoted d hh x
  obtain ⟨hsampled, hs⟩ := shadowSampled_leaves (shadowNoted d h x) h x
  have heq := shadowCompare_some h0
  rw [hd] at heq
  generalize shadowNoted d h x = X at *
  generalize shadowSampled X h x = Y at *
  have hl := hnoted.trans (hsampled.weaken (by simp) fun a => isBankNote_of_isShadowNote)
  rw [shadowJudged, liveGet_of_leaves hl (by decide), hflt] at heq
  rw [heq]
  refine ⟨hcompared.sampled hh hs hsampled, fget_fset_self _ _ _ _ (by decide), ?_⟩
  exact (leaves_fset_iff (by simp [isShadowNote])).2 hl

end

/-- Settles O38: the AST ops by their own equations, the emission by what it leaves of a bank, the comparison by the chain of
what it notes, samples and judges, and the clear by the counters that it filters out. -/
theorem astrolabeSnapsNormsAndCounters : Obligations.AstrolabeSnapsNormsAndCounters := by
  unfold Obligations.AstrolabeSnapsNormsAndCounters
  refine ⟨?_, ?_, ?_, ?_⟩
  · intro iss s d L hrun
    have hissue (op : AstOp) := astIssue_running (op := op) (iss := iss) (e := s.dev) (d := d) rfl hrun
    refine ⟨fun hA hbanks => ?_, fun acc hA => ?_, fun terr => ?_⟩
    · have heq := (hissue .snap (.inl hA)).trans (snapClaim_ok rfl hbanks)
      obtain ⟨hp0, hp1⟩ := bothClaimed_pend d L
      have ht (h : Nat) (hh : h < 2) :=
        (bankTag_snapNoted (bothClaimed d L) h L).trans ((bothClaimed_tag d L h).trans (hbanks h hh).2.1)
      have hl := leaves_bothClaimed d L
      have hast : (bothClaimed d L).ast.sums = d.ast.sums := congrArg Ast.sums (hl.1 .ast (by simp))
      have hs : Leaves [.ast, .live] (these [bankReg 0 L, bankReg 1 L]) d (snapNoted (bothClaimed d L)) :=
        (hl.weaken (by simp) fun _ => id).trans ((leaves_snapNoted _).weaken (by simp) fun _ _ => rfl)
      rw [← bankPend_snapNoted] at hp0 hp1
      rw [← snapNoted_sums] at hast
      generalize snapNoted (bothClaimed d L) = B at *
      exact ⟨_, next_congr rfl heq, hp0, hp1, ht 0 (by decide), ht 1 (by decide), hast, hs⟩
    · intro a g n
      refine ⟨⟨_, next_congr rfl (hissue (.gnopen acc) (.inl hA)), ?_, fun k hk => ?_, ?_⟩, fun T hT hin hbanks => ?_, ?_⟩
      · exact (gnGet_gnSet ..).trans (if_pos rfl)
      · exact (gnGet_gnSet ..).trans (if_neg hk)
      · exact leaves_gnSet ..
      · obtain ⟨hlands, hl⟩ := gnWrite_ok (word := (encodeAst (.gnwr acc)).toNat) rfl hT hin hbanks
        exact ⟨_, next_congr rfl (hissue (.gnwr acc) (.inl hA)), hlands, hl⟩
      · obtain ⟨hl, hseq, hwait, hput⟩ := gnRecord_sent d acc.toNat
        exact ⟨_, next_congr rfl (hissue (.gnrec acc) (.inl hA)), hseq, hwait, hput, hl⟩
    · exact ⟨_, next_congr rfl (hissue (.sforce terr) (.inr ⟨terr, rfl⟩)), forced_forcedAt .., leaves_forcedAt ..⟩
  · intro s b L hidle hb hpend hfirst hL hwaits
    obtain ⟨hl, hfree⟩ := emitted_bankEmission s.dev L
    have heq : weiRun (snapEmit s.dev) = bankEmission s.dev L := by
      rw [snapEmit_first rfl hb hpend hfirst hwaits]
      exact weiRun_idle (weiIdle_of_wei (hl.1 .wei (by simp)) hidle)
    generalize bankEmission s.dev L = u at *
    simp only [bankReg_step hL] at hl
    refine ⟨_, next_congr rfl heq, fun h hh => ?_, hl⟩
    obtain ⟨hp, ht, hm⟩ := hfree h hh
    simp only [bankPend, bankTagged, bankHolds, bankReg_step hL, hL] at hp ht hm ⊢
    rw [Nat.mod_eq_of_lt hb]
    exact ⟨hp, ht, hm⟩
  · intro half s x h d h0 _ hflt
    obtain ⟨hc, hconsec, hl⟩ := shadowCompare_counts (hn_lt_two half) h0 rfl hflt
    exact ⟨_, rfl, hc.shadow, hc.compared, hc.busy, hc.lasterr, hconsec, hl⟩
  · intro half s
    refine ⟨⟨_, next_congr rfl (cntClear_half s.dev half), fun n hn' => ?_, (onlyRegs_blockCleared fun a ha => ?_).leaves⟩,
      ⟨_, next_congr rfl (cntClear_package s.dev), fun n hn' => ?_, (onlyRegs_blockCleared fun a ha => ?_).leaves⟩⟩
    · rw [regGet_blockCleared, if_pos (cntVal_inBlock hn')]
      exact regReset_counter.1 _ (hn_lt_two half) n hn'
    · exact ha
    · rw [regGet_blockCleared, if_pos (gcntVal_inBlock hn')]
      exact regReset_counter.2 n hn'
    · exact ha

end Sys2Proof.Machine
end

section
/-! PROOFS. Rills: messages of a pair, the end of a SEND and a stalled command port (07). -/

namespace Sys2Proof.Machine

section
variable {ps : List Piece} {p : Nat → Bool} {d e : Dev}

/-! ### Shared layer: what the engines leave alone -/

theorem leaves_rilShow_iff {n : Nat} (h : Piece.gov ∈ ps) : Leaves ps p d (rilShow e n) ↔ Leaves ps p d e := by
  unfold rilShow
  simp only
  split <;> split <;> simp only [leaves_govSet_iff h]

theorem rilShow_mem (d : Dev) (n : Nat) : (rilShow d n).mem = d.mem := by
  unfold rilShow
  simp only
  split <;> split <;> rfl

theorem leaves_rilShow (d : Dev) (n : Nat) : Leaves [.gov] (fun _ => false) d (rilShow d n) :=
  (leaves_rilShow_iff (by simp)).2 leaves_self

theorem rilPump_empty {q n : Nat} (h : rilQueue d q = []) : rilPump q n d = d := by
  cases n with
  | zero => rfl
  | succ n => rw [rilPump, h]

/-- With no command waiting, the engines have nothing to go on with. -/
theorem rilRun_empty (h : ∀ q, q < 4 → rilQueue d q = []) : rilRun d = d := by
  have hall (n : Nat) : rilPumpAll n d = d := by
    induction n with
    | zero => rfl
    | succ n ih =>
      rw [rilPumpAll, List.foldl_cons, rilPump_empty (h 0 (by decide)), List.foldl_cons, rilPump_empty (h 1 (by decide)),
        List.foldl_cons, rilPump_empty (h 2 (by decide)), List.foldl_cons, rilPump_empty (h 3 (by decide))]
      exact ih
  exact hall _

theorem rilQueue_of_queues (h : e.ril.queues = d.ril.queues) (q : Nat) : rilQueue e q = rilQueue d q := by
  rw [rilQueue, h]
  rfl

/-- The engines after counts have been shown, with no command waiting. -/
theorem rilRun_shown {n : Nat} (hr : e.ril.queues = d.ril.queues) (h : ∀ q, q < 4 → rilQueue d q = []) :
    rilRun (rilShow e n) = rilShow e n :=
  rilRun_empty fun q hq => (rilQueue_of_queues (congrArg Ril.queues ((leaves_rilShow e n).1 .ril (by simp))) q).trans
    ((rilQueue_of_queues hr q).trans (h q hq))

theorem inOneMemory_plain {a n : Nat} (h : inOneMemory d a n = true) : plainMem d a n := by
  unfold inOneMemory at h
  obtain h | h := Bool.or_eq_true_iff.1 h
  · exact .inl (Bool.and_eq_true_iff.1 h).1
  · exact .inr h

theorem qPut_plain {a : Nat} {bs : List Byte} (h : plainMem d a bs.length) (hm : d.ms.marks = []) : StoresOnly d (qPut d a bs) a bs :=
  (qWrite_plain h hm).2

theorem StoresOnly.plainMem_iff {a b n : Nat} {bs : List Byte} (h : StoresOnly d e b bs) : plainMem e a n ↔ plainMem d a n := by
  have hpools : OnlyPools (d.withMem e.mem) e := by
    refine ⟨⟨fun x hx => ?_, h.leaves.2⟩, rfl, h.marks⟩
    by_cases hmem : x = .mem
    · subst hmem
      exact fun _ => rfl
    · exact (Leaves.trans ((leaves_withMem_iff (ps := [.mem, .ms]) (by simp)).2 leaves_self).symm h.leaves).1 x (by simp_all)
  exact hpools.plainMem_iff

theorem isAccess_of_isRill {n a : Nat} (h : isRill n a = false) : isAccess a = false := by
  rw [isRill, Bool.or_eq_false_iff] at h
  rw [isAccess, Bool.or_eq_false_iff]
  refine ⟨h.1, ?_⟩
  simp only [these, List.contains_cons, List.contains_nil, Bool.or_false, Bool.or_eq_false_iff] at h ⊢
  exact h.2.2.2.2.2

/-! ### A context's configuration and counts -/

section live
variable (h : e.live = d.live)
include h

theorem rilKind_of_live (n : Nat) : rilKind e n = rilKind d n := liveGet_of_live h ..

theorem rilSize_of_live (n : Nat) : rilSize e n = rilSize d n := congrArg (2 ^ ·) (liveGet_of_live h ..)

theorem rilSlots_of_live (n : Nat) : rilSlots e n = rilSlots d n := congrArg (2 ^ ·) (liveGet_of_live h ..)

theorem rilBase_of_live (n : Nat) : rilBase e n = rilBase d n := congrArg (· * 64) (liveGet_of_live h ..)

theorem slabAt_of_live (n k : Nat) : slabAt e n k = slabAt d n k := by
  rw [slabAt, rilBase_of_live h, rilSlots_of_live h, rilSize_of_live h]
  rfl

theorem headerAt_of_live (n k : Nat) : headerAt e n k = headerAt d n k := by
  rw [headerAt, rilBase_of_live h, rilSlots_of_live h, rilSize_of_live h]
  rfl

end live

/-- A slab ends before the headers begin. -/
theorem slab_before_header (d : Dev) (n k : Nat) : slabAt d n k + rilSize d n ≤ headerAt d n k := by
  have hk : k % rilSlots d n + 1 ≤ rilSlots d n := Nat.mod_lt _ (Nat.two_pow_pos _)
  have := Nat.mul_le_mul_right (rilSize d n) hk
  rw [Nat.add_mul, Nat.one_mul] at this
  simp only [slabAt, headerAt]
  omega

theorem isRill_counts (n : Nat) : isRill n (A.RIL_CNTA n) = true ∧ isRill n (A.RIL_CNTB n) = true ∧
    isRill n (A.RIL_CNTC n) = true ∧ isRill n (A.RIL_GEN n) = true := by
  simp [isRill]

/-- Registers of the rills lie above the ports'. -/
theorem isVc_high {q a : Nat} (hq : q < 8) (ha : 0x800000 ≤ a) : isVc q a = false := by
  rw [isVc, List.any_eq_false]
  intro v hv
  rw [List.mem_range] at hv
  simp only [A.HRM_VCCRED, beq_iff_eq]
  omega

theorem isAccess_rill {n a : Nat} (hn : n < 4096) (ha : 0x810000 + 0x40 * n ≤ a) (hb : a < 0x810040 + 0x40 * n) :
    isAccess a = false := by
  rw [Bool.eq_false_iff, ne_eq, isAccess, Bool.or_eq_true, isCounter_iff, these_iff]
  simp only [A.POL_STS, List.mem_cons, List.not_mem_nil, or_false]
  omega

/-! ### Messages from the peer (R247 to R249) -/

theorem capMsg_quiet (h : quiet d) (q : Nat) (m : Msg) : capMsg d q m = d := by
  unfold capMsg
  split
  · rfl
  · exact capLog_quiet h ..

/-- A message that may be delivered, taken from its inbox: it is neither dropped, stale nor logged. -/
structure Taken (q : Nat) (m : Msg) (d T : Dev) : Prop where
  leaves : Leaves [.ports] (isVc q) d T
  mem : ∀ a, memGet T.mem a = memGet d.mem a
  marks : T.ms.marks = d.ms.marks
  quiet : quiet T

theorem taken_takeInbox {q : Nat} {m : Msg} (hq : q < 8) (h : arrives d q m) : Taken q m d (takeInbox d q m) := by
  obtain ⟨-, -, hvc, hquiet⟩ := h
  have hl := leaves_takeInbox d q hvc
  refine ⟨hl, hl.1 .mem (by simp), by rw [hl.1 .ms (by simp)], ?_⟩
  refine quiet_of_leaves hquiet ?_ ?_ hl
  · interval_cases q <;> decide
  · interval_cases q <;> decide

/-- What a message of a pair may change. -/
def isPair (n q a : Nat) : Bool := isRill n a || isVc q a || a == A.RIL_CSTS n

theorem isRill_of_isPair {n q a : Nat} (h : isPair n q a = false) : isRill n a = false :=
  (Bool.or_eq_false_iff.1 (Bool.or_eq_false_iff.1 h).1).1

theorem isVc_of_isPair {n q a : Nat} (h : isPair n q a = false) : isVc q a = false :=
  (Bool.or_eq_false_iff.1 (Bool.or_eq_false_iff.1 h).1).2

theorem Taken.frame {q n : Nat} {m : Msg} {T : Dev} (h : Taken q m d T) :
    Leaves [.mem, .ports, .ms, .ril, .gov] (isPair n q) d T :=
  h.leaves.weaken (by simp) fun _ => isVc_of_isPair

theorem Taken.live {q : Nat} {m : Msg} {T : Dev} (h : Taken q m d T) : T.live = d.live := h.leaves.1 .live (by simp)

theorem Taken.ril {q : Nat} {m : Msg} {T : Dev} (h : Taken q m d T) : T.ril = d.ril := h.leaves.1 .ril (by simp)

theorem Taken.fget {q a : Nat} {m : Msg} {T : Dev} (h : Taken q m d T) (hq : q < 8) (ha : 0x800000 ≤ a) (f : Fld) :
    fget T a f = fget d a f := h.leaves.2.fget (isVc_high hq ha) f

theorem ril_high (n : Nat) : 0x800000 ≤ A.RIL_CSTS n ∧ 0x800000 ≤ A.RIL_CNTA n ∧ 0x800000 ≤ A.RIL_CNTB n ∧
    0x800000 ≤ A.RIL_CNTC n ∧ 0x800000 ≤ A.RIL_GEN n := by
  simp only [A.RIL_CSTS, A.RIL_CNTA, A.RIL_CNTB, A.RIL_CNTC, A.RIL_GEN]
  omega

/-- A slab and its header stored in slot PROD, which counts on. -/
def slabStored (T : Dev) (n : Nat) (data : List Byte) : Dev :=
  let k := rilProd T n
  finc (qPut (qPut T (slabAt T n k) ((data.drop 64).take (rilSize T n))) (headerAt T n k) (data.take 64)) (A.RIL_CNTA n) F.RIL_CNTA_PROD 1

/-- What a slab's arrival makes of a context. -/
structure SlabStored (n : Nat) (data : List Byte) (d u : Dev) : Prop where
  leaves : Leaves [.mem, .ms] (isRill n) d u
  prod : rilProd u n = (rilProd d n + 1) % 2 ^ 32
  cons : rilCons u n = rilCons d n
  slab : memRead u.mem (slabAt d n (rilProd d n)) (rilSize d n) = data.drop 64
  header : memRead u.mem (headerAt d n (rilProd d n)) 64 = data.take 64
  apart : ∀ a, (a < slabAt d n (rilProd d n) ∨ slabAt d n (rilProd d n) + rilSize d n ≤ a) →
    (a < headerAt d n (rilProd d n) ∨ headerAt d n (rilProd d n) + 64 ≤ a) → memGet u.mem a = memGet d.mem a

theorem finc_memGet (d : Dev) (a : Nat) (f : Fld) (k b : Nat) : memGet (finc d a f k).mem b = memGet d.mem b := rfl

theorem slabStored_stored {n : Nat} {data : List Byte} (hn : n < 4096) (hlen : data.length = 64 + rilSize d n) (hm : d.ms.marks = [])
    (hs : plainMem d (slabAt d n (rilProd d n)) (rilSize d n)) (hh : plainMem d (headerAt d n (rilProd d n)) 64) :
    SlabStored n data d (slabStored d n data) := by
  have hdrop : (data.drop 64).take (rilSize d n) = data.drop 64 := List.take_of_length_le (by rw [List.length_drop]; omega)
  have hl1 : (data.drop 64).length = rilSize d n := by rw [List.length_drop]; omega
  have hl2 : (data.take 64).length = 64 := by rw [List.length_take]; omega
  have horder := slab_before_header d n (rilProd d n)
  have h1 : StoresOnly d (qPut d (slabAt d n (rilProd d n)) (data.drop 64)) (slabAt d n (rilProd d n)) (data.drop 64) :=
    qPut_plain (by rwa [hl1]) hm
  rw [slabStored, hdrop]
  generalize qPut d (slabAt d n (rilProd d n)) (data.drop 64) = S at h1 ⊢
  have h2 : StoresOnly S (qPut S (headerAt d n (rilProd d n)) (data.take 64)) (headerAt d n (rilProd d n)) (data.take 64) :=
    qPut_plain (by rw [hl2]; exact h1.plainMem_iff.2 hh) (h1.marks.trans hm)
  generalize qPut S (headerAt d n (rilProd d n)) (data.take 64) = U at h2 ⊢
  have hU : Leaves [.mem, .ms] isAccess d U := h1.leaves.trans h2.leaves
  have hcnta : isAccess (A.RIL_CNTA n) = false := isAccess_rill hn (by simp only [A.RIL_CNTA]; omega) (by simp only [A.RIL_CNTA]; omega)
  refine ⟨(leaves_finc_iff (isRill_counts n).1).2 (hU.weaken (by simp) fun _ => isAccess_of_isRill), ?_, ?_, ?_, ?_, fun a ha hb => ?_⟩
  · rw [rilProd, fget_finc_self _ _ (by decide), hU.2.fget hcnta]
    rfl
  · rw [rilCons, finc, fget_fset_apart _ _ _ _ _ _ (by decide) (by decide) (by decide), hU.2.fget hcnta]
    rfl
  · have := h1.read
    rw [hl1] at this
    rw [← this]
    refine memRead_congr fun i hi => ?_
    rw [finc_memGet]
    exact h2.apart _ (.inl (by omega))
  · have := h2.read
    rwa [hl2] at this
  · rw [finc_memGet, h2.apart a (by rw [hl2]; omega), h1.apart a (by rw [hl1]; omega)]

section arrivals
variable {q n : Nat} {m : Msg} {T : Dev} (ha : arrives d q m) (hT : takeInbox d q m = T) (hquiet : quiet T) (hn : bits m.w1 11 0 = n)

section
include ha

theorem arrives_alive : (portDead d q m || (!fromSelf d q m && replayMode d)) = false := by
  obtain ⟨hdead, -, -, hq⟩ := ha
  rw [hdead, hq.2, Bool.and_false]
  rfl

end

section
include hT hquiet

theorem captured_quiet (b : Bool) : (if b = true then takeInbox d q m else capMsg (takeInbox d q m) q m) = T := by
  rw [hT, capMsg_quiet hquiet, ite_self]

end

include ha hT hquiet hn

theorem slabArrive_taken (hrun : running T (.ril n) = true) (hkind : rilKind T n = 1) (hepoch : bits m.w1 47 32 = rilRungen T n)
    (hchip : bits (leAt m.data 16 8) 13 0 = liveGet T (A.RIL_PEER n) F.RIL_PEER_CHIP)
    (hrill : bits (leAt m.data 16 8) 27 16 = liveGet T (A.RIL_PEER n) F.RIL_PEER_RILL)
    (hroom : sub32 (rilProd T n) (rilFreed T n) ≠ rilSlots T n) :
    slabArrive d q m = rilRun (rilShow (slabStored T n m.data) n) := by
  have hdead := arrives_alive ha
  have hold := ha.2.1
  unfold slabArrive
  simp only [hdead, hold, captured_quiet hT hquiet, hn]
  rw [if_neg (by decide), if_neg (by simp [hrun, hkind, hepoch]), if_neg (by simp [hchip, hrill]), if_neg hroom]
  rfl

theorem credArrive_taken (hrun : running T (.ril n) = true) (hkind : rilKind T n = 2) (hepoch : bits m.w1 47 32 = rilEpoch T n)
    (hbound : fget T (A.RIL_CSTS n) F.RIL_CSTS_BOUND = 1) :
    credArrive d q m = rilRun (rilShow (finc T (A.RIL_CNTC n) F.RIL_CNTC_GRANT (bits m.w2 8 0)) n) := by
  have hdead := arrives_alive ha
  have hold := ha.2.1
  unfold credArrive
  simp only [hdead, hold, captured_quiet hT hquiet, hn]
  rw [if_neg (by decide), if_neg (by simp [hrun, hkind, hepoch, hbound])]

/-- A context bound to the epoch that an OPEN gives, with a whole ring of credits. -/
def rilBound (d : Dev) (n epoch : Nat) : Dev :=
  fset (fset (fset d (A.RIL_GEN n) F.RIL_GEN_REPOCH epoch) (A.RIL_CNTC n) F.RIL_CNTC_GRANT (rilSlots d n))
    (A.RIL_CSTS n) F.RIL_CSTS_BOUND 1

theorem openArrive_taken (hrun : running T (.ril n) = true) (hkind : rilKind T n = 2) (hepoch : bits m.w1 47 32 ≠ rilEpoch T n)
    (hbound : fget T (A.RIL_CSTS n) F.RIL_CSTS_BOUND = 0) (hlogn : bits m.w2 3 0 = liveGet T (A.RIL_CCTL n) F.RIL_CCTL_LOGN)
    (hlogsz : bits m.w2 12 8 = liveGet T (A.RIL_CCTL n) F.RIL_CCTL_LOGSZ) :
    openArrive d q m = rilRun (rilShow (rilBound T n (bits m.w1 47 32)) n) := by
  have hdead := arrives_alive ha
  have hbits : bits m.w2 3 0 < 256 := (bits_lt _ _ _).trans (by decide)
  unfold openArrive
  simp only [hdead, captured_quiet hT hquiet, hn]
  rw [if_neg (by decide), if_pos hrun, if_neg (by simp [hkind]), if_neg (by rw [hbound]; decide), if_neg hepoch]
  unfold rilAdopt
  simp only
  rw [if_neg (by rw [← hlogn, ← hlogsz]; omega)]
  rfl

end arrivals

theorem rilBound_bound (d : Dev) (n : Nat) {epoch : Nat} (he : epoch < 2 ^ 16) (hs : rilSlots d n < 2 ^ 32) :
    rilEpoch (rilBound d n epoch) n = epoch ∧ rilGrant (rilBound d n epoch) n = rilSlots d n ∧
      fget (rilBound d n epoch) (A.RIL_CSTS n) F.RIL_CSTS_BOUND = 1 := by
  have hne : A.RIL_GEN n ≠ A.RIL_CSTS n ∧ A.RIL_GEN n ≠ A.RIL_CNTC n ∧ A.RIL_CNTC n ≠ A.RIL_CSTS n := by
    simp only [A.RIL_GEN, A.RIL_CSTS, A.RIL_CNTC]
    omega
  refine ⟨?_, ?_, ?_⟩
  · rw [rilEpoch, rilBound, fget_fset_ne _ hne.1, fget_fset_ne _ hne.2.1, fget_fset_self _ _ _ _ (by decide)]
    exact Nat.mod_eq_of_lt he
  · rw [rilGrant, rilBound, fget_fset_ne _ hne.2.2, fget_fset_self _ _ _ _ (by decide)]
    exact Nat.mod_eq_of_lt hs
  · rw [rilBound, fget_fset_self _ _ _ _ (by decide)]
    rfl

theorem leaves_rilBound (d : Dev) (n q epoch : Nat) : Leaves [] (isPair n q) d (rilBound d n epoch) := by
  rw [rilBound, leaves_fset_iff (by simp [isPair]), leaves_fset_iff (by simp [isPair, isRill]), leaves_fset_iff (by simp [isPair, isRill])]
  exact leaves_self

theorem rilSlots_lt (d : Dev) (n : Nat) : rilSlots d n < 2 ^ 32 := by
  have : liveGet d (A.RIL_CCTL n) F.RIL_CCTL_LOGN < 2 ^ 4 := bits_lt _ _ _
  exact Nat.pow_lt_pow_right (by decide) (by omega)

/-! ### The end of a SEND (R233, R240) -/

/-- The only SEND in progress, read whole: no flit of it remains in any port. -/
theorem sendDone_last {n q : Nat} (hs : d.ril.sends = [(n, q)])
    (hflits : ∀ r, r < 9 → (portOf d r).queue.all (fun o => o.ctx != some n) = true) :
    sendDone d n = rilRun (rilShow (finc (d.withRil { d.ril with sends := [] }) (A.RIL_CNTC n) F.RIL_CNTC_DONE 1) n) := by
  have hnone (r : Nat) (hr : r < 9) :
      ((portOf d r).queue.filter (fun o => o.ctx == some n && o.msg.mtype == 0)).length = 0 := by
    rw [List.length_eq_zero_iff, List.filter_eq_nil_iff]
    intro o ho
    have := List.all_eq_true.1 (hflits r hr) o ho
    simp only [bne_iff_ne, ne_eq] at this
    simp [this]
  have hleft : ((List.range 9).map (fun p =>
      ((portOf d p).queue.filter (fun o => o.ctx == some n && o.msg.mtype == 0)).length)).foldl (· + ·) 0 = 0 := by
    rw [List.map_congr_left (g := fun _ => 0) fun r hr => hnone r (List.mem_range.1 hr)]
    decide
  have hmine : ([(n, q)].filter fun e => e.1 == n).length = 1 := by simp
  have hfind : [(n, q)].find? (fun e => e.1 == n) = some (n, q) := by simp
  simp only [sendDone, hleft, hs, hmine, hfind]
  rw [if_neg (by decide), List.erase_cons_head]

/-! ### A head that stalls (R245) -/

/-- A step-fatal rill record aborts the current step and is shown. -/
theorem rilRaise_stepFatal {number ctx : Nat} (hnum : number < 256) (hctx : ctx < 4096) (d : Dev) (op spc strand half port value : Nat) :
    (rilRaise d number 2 ctx op spc strand half port value).mach.abortStep = some (curStep d) ∧
      fget (rilRaise d number 2 ctx op spc strand half port value) A.RIL_STS F.RIL_STS_EXC = number ∧
      fget (rilRaise d number 2 ctx op spc strand half port value) A.RIL_STS F.RIL_STS_CTX = ctx ∧
      Leaves [.gov, .mach, .hst] (fun a => isReport a || these [A.RIL_STS, A.RIL_CSTS ctx] a) d
        (rilRaise d number 2 ctx op spc strand half port value) := by
  obtain ⟨E, hE⟩ : ∃ E, fset (fset (fset d A.RIL_STS F.RIL_STS_EXC number) A.RIL_STS F.RIL_STS_CTX ctx) (A.RIL_CSTS ctx) F.RIL_CSTS_EXC number = E :=
    ⟨_, rfl⟩
  obtain ⟨P, hP⟩ : ∃ P, post E number 2 3 (opPayload E op spc strand half number 0 0
      (ctx % 2 ^ 12 + ((2 * half + port) % 4) <<< 12 + (value % 2 ^ 32) <<< 16)) = P := ⟨_, rfl⟩
  have hraise : rilRaise d number 2 ctx op spc strand half port value = raiseAbort P (curStep P) := by rw [← hP, ← hE]; rfl
  have hEl : Leaves [.gov, .mach, .hst] (fun a => isReport a || these [A.RIL_STS, A.RIL_CSTS ctx] a) d E := by
    rw [← hE, leaves_fset_iff (by simp), leaves_fset_iff (by simp), leaves_fset_iff (by simp)]
    exact leaves_self
  have hPl : Leaves [.hst] isReport E P := hP ▸ (onlyHst_post E number 2 3 _).leaves
  have hstep : curStep P = curStep d := by
    have hne : A.SEQ_STEP 0 ≠ A.RIL_CSTS ctx := by simp only [A.SEQ_STEP, A.RIL_CSTS]; omega
    rw [curStep, hPl.2.fget (by decide), ← hE, fget_fset_ne _ hne, fget_fset_ne _ (by decide), fget_fset_ne _ (by decide)]
    rfl
  have hne : A.RIL_STS ≠ A.RIL_CSTS ctx := by simp only [A.RIL_STS, A.RIL_CSTS]; omega
  have hsts (f : Fld) : fget (raiseAbort P (curStep P)) A.RIL_STS f = fget E A.RIL_STS f :=
    (fget_govSet ..).trans (hPl.2.fget (by decide) f)
  rw [hraise]
  refine ⟨congrArg some hstep, ?_, ?_, ?_⟩
  · rw [hsts, ← hE, fget_fset_ne _ hne, fget_fset_apart _ _ _ _ _ _ (by decide) (by decide) (by decide),
      fget_fset_self _ _ _ _ (by decide)]
    exact Nat.mod_eq_of_lt hnum
  · rw [hsts, ← hE, fget_fset_ne _ hne, fget_fset_self _ _ _ _ (by decide)]
    exact Nat.mod_eq_of_lt hctx
  · exact (hEl.trans (hPl.weaken (by simp) fun a ha => (Bool.or_eq_false_iff.1 ha).1)).trans
      ((leaves_raiseAbort P _).weaken (by simp) fun _ => id)

theorem rilStall_due {q w : Nat} {c : RilCmd} {rest : List RilCmd} (hq : rilQueue d q = c :: rest) (hw : sget 0 q d.ril.waits = w + 1)
    (hsaid : sget 0 q d.ril.said = 0) (hdue : w + us (fget d A.RIL_TMO F.RIL_TMO_STALL) < d.now) :
    rilStall d q = rilFail (d.withRil { d.ril with said := sset 0 q 1 d.ril.said }) q c 0x6B 2 0 := by
  simp only [rilStall, hq, hw]
  rw [if_neg (by omega)]

theorem leaves_slabStored {n q : Nat} {data : List Byte} {T : Dev} (h : SlabStored n data d T) :
    Leaves [.mem, .ports, .ms, .ril, .gov] (isPair n q) d T :=
  h.leaves.weaken (by simp) fun _ => isRill_of_isPair

/-- What a message leaves of the package once the engines have gone on. -/
theorem rilRun_delivered {q n : Nat} {m : Msg} {T U : Dev} (hidle : rilIdle d) (hT : Taken q m d T)
    (hU : Leaves [.mem, .ports, .ms, .ril, .gov] (isPair n q) T U) (hr : U.ril = T.ril) :
    rilRun (rilShow U n) = rilShow U n ∧ Leaves [.mem, .ports, .ms, .ril, .gov] (isPair n q) d (rilShow U n) :=
  ⟨rilRun_shown (congrArg Ril.queues (hr.trans hT.ril)) hidle.1, (leaves_rilShow_iff (by simp)).2 (hT.frame.trans hU)⟩

theorem fget_rilShow (d : Dev) (n a : Nat) (f : Fld) : fget (rilShow d n) a f = fget d a f := (leaves_rilShow d n).2.fget rfl f

theorem Taken.running {q n : Nat} {m : Msg} {T : Dev} (h : Taken q m d T) (hq : q < 8) (hr : running d (.ril n) = true) :
    running T (.ril n) = true :=
  (congrArg (fun x => decide (x = 1)) (h.fget hq (ril_high n).1 F.STATE)).trans hr

theorem Taken.plainMem_iff {q a n : Nat} {m : Msg} {T : Dev} (h : Taken q m d T) (hq : q < 8) : plainMem T a n ↔ plainMem d a n :=
  plainMem_of_stackCh fun s hs => h.fget hq (by simp only [A.STK_CAP]; omega) _

theorem rilBound_ril (d : Dev) (n v : Nat) : (rilBound d n v).ril = d.ril := (leaves_rilBound d n 0 v).1 .ril (by simp)

end

/-- Settles O34: a message taken from its inbox finds its context as it stands, the engines have nothing waiting, and a stall is a
step-fatal record. -/
theorem rillMessagesMoveTheCounts : Obligations.RillMessagesMoveTheCounts := by
  unfold Obligations.RillMessagesMoveTheCounts
  intro t s d hm
  refine ⟨fun port m => ?_, fun ctx q hidle hsends hflits => ?_, ?_⟩
  · intro n frame hidle hrun
    have hn : n < 4096 := bits_lt _ _ _
    have hport : port.toNat < 8 := port.isLt
    obtain ⟨hcsts, hcnta, hcntb, hcntc, hgen⟩ := ril_high n
    refine ⟨?_, ?_, ?_⟩
    · intro ha k src hkind hepoch hchip hrill hroom hlen hslab hhdr
      obtain ⟨T, hTeq⟩ : ∃ T, takeInbox d port.toNat { m with mtype := 0 } = T := ⟨_, rfl⟩
      have hT := taken_takeInbox hport ha
      rw [hTeq] at hT
      have hl := hT.live
      have hk : rilProd T n = k := hT.fget hport hcnta _
      have heq := slabArrive_taken ha hTeq hT.quiet (n := n) rfl (hT.running hport hrun) ((rilKind_of_live hl n).trans hkind)
        (hepoch.trans (hT.fget hport hcsts _).symm) (hchip.trans (liveGet_of_live hl ..).symm)
        (hrill.trans (liveGet_of_live hl ..).symm) (by
          rw [rilSlots_of_live hl, hk, rilFreed, hT.fget hport hcntb]
          exact hroom)
      have hS := slabStored_stored (d := T) (data := m.data) hn (by rw [rilSize_of_live hl]; exact hlen) (hT.marks.trans hm)
        (by rw [slabAt_of_live hl, rilSize_of_live hl, hk, hT.plainMem_iff hport]; exact inOneMemory_plain hslab)
        (by rw [headerAt_of_live hl, hk, hT.plainMem_iff hport]; exact inOneMemory_plain hhdr)
      obtain ⟨hrun', hfr⟩ := rilRun_delivered hidle hT (leaves_slabStored hS) (hS.leaves.1 .ril (by simp))
      obtain ⟨-, hprod, hcons, hmslab, hmhdr, hout⟩ := hS
      simp only [slabAt_of_live hl, headerAt_of_live hl, rilSize_of_live hl, hk] at hprod hmslab hmhdr hout
      have hcons' : rilCons (slabStored T n m.data) n = rilCons d n := hcons.trans (hT.fget hport hcnta _)
      generalize slabStored T n m.data = U at *
      rw [← rilShow_mem U n] at hmslab hmhdr hout
      have hprod' : rilProd (rilShow U n) n = (k + 1) % 2 ^ 32 := (fget_rilShow ..).trans hprod
      have hcons' : rilCons (rilShow U n) n = rilCons d n := (fget_rilShow ..).trans hcons'
      have heq' := heq.trans hrun'
      generalize rilShow U n = u at *
      exact ⟨_, next_congr rfl heq', hprod', hmslab, hmhdr, fun a ha hb => (hout a ha hb).trans (hT.mem a), hcons', hfr⟩
    · intro ha hkind hepoch hbound
      obtain ⟨T, hTeq⟩ : ∃ T, takeInbox d port.toNat { m with mtype := 1 } = T := ⟨_, rfl⟩
      have hT := taken_takeInbox hport ha
      rw [hTeq] at hT
      have heq := credArrive_taken ha hTeq hT.quiet (n := n) rfl (hT.running hport hrun) ((rilKind_of_live hT.live n).trans hkind)
        (hepoch.trans (hT.fget hport hgen _).symm) ((hT.fget hport hcsts _).trans hbound)
      have hU : Leaves [.mem, .ports, .ms, .ril, .gov] (isPair n port.toNat) T
          (finc T (A.RIL_CNTC n) F.RIL_CNTC_GRANT (bits m.w2 8 0)) :=
        (leaves_finc_iff (by simp [isPair, isRill])).2 leaves_self
      obtain ⟨hrun', hfr⟩ := rilRun_delivered hidle hT hU (finc_ril T (A.RIL_CNTC n) F.RIL_CNTC_GRANT (bits m.w2 8 0))
      have hmem (a : Nat) : memGet (rilShow (finc T (A.RIL_CNTC n) F.RIL_CNTC_GRANT (bits m.w2 8 0)) n).mem a = memGet d.mem a := by
        rw [rilShow_mem, finc_mem]
        exact hT.mem a
      have hgrant : rilGrant (rilShow (finc T (A.RIL_CNTC n) F.RIL_CNTC_GRANT (bits m.w2 8 0)) n) n =
          (rilGrant d n + bits m.w2 8 0) % 2 ^ 32 := by
        rw [rilGrant, fget_rilShow, fget_finc_self _ _ (by decide), hT.fget hport hcntc]
        rfl
      have heq' := heq.trans hrun'
      generalize rilShow (finc T (A.RIL_CNTC n) F.RIL_CNTC_GRANT (bits m.w2 8 0)) n = u at *
      exact ⟨_, next_congr rfl heq', hgrant, hmem, hfr⟩
    · intro ha hkind hepoch hbound hlogn hlogsz
      obtain ⟨T, hTeq⟩ : ∃ T, takeInbox d port.toNat { m with mtype := 2 } = T := ⟨_, rfl⟩
      have hT := taken_takeInbox hport ha
      rw [hTeq] at hT
      have hl := hT.live
      have heq := openArrive_taken ha hTeq hT.quiet (n := n) rfl (hT.running hport hrun) ((rilKind_of_live hl n).trans hkind)
        (by rw [rilEpoch, hT.fget hport hgen]; exact hepoch) ((hT.fget hport hcsts _).trans hbound)
        (hlogn.trans (liveGet_of_live hl ..).symm) (hlogsz.trans (liveGet_of_live hl ..).symm)
      obtain ⟨hbe, hbg, hbb⟩ := rilBound_bound T n (epoch := bits m.w1 47 32) (bits_lt _ _ _) (rilSlots_lt T n)
      have hlB := leaves_rilBound T n port.toNat (bits m.w1 47 32)
      obtain ⟨hrun', hfr⟩ := rilRun_delivered hidle hT (hlB.weaken (by simp) fun _ => id) (rilBound_ril T n _)
      have hBmem := hlB.1 .mem (by simp)
      generalize rilBound T n (bits m.w1 47 32) = B at *
      have hmem (a : Nat) : memGet (rilShow B n).mem a = memGet d.mem a := by
        rw [rilShow_mem]
        exact (hBmem a).trans (hT.mem a)
      rw [← fget_rilShow B n] at hbb
      have hbe' : rilEpoch (rilShow B n) n = bits m.w1 47 32 := (fget_rilShow ..).trans hbe
      have hbg' : rilGrant (rilShow B n) n = rilSlots d n := (fget_rilShow ..).trans (hbg.trans (rilSlots_of_live hl n))
      have heq' := heq.trans hrun'
      generalize rilShow B n = u at *
      exact ⟨_, next_congr rfl heq', hbe', hbg', hbb, hmem, hfr⟩
  · obtain ⟨E, hE⟩ : ∃ E, finc (d.withRil { d.ril with sends := [] }) (A.RIL_CNTC ctx.toNat) F.RIL_CNTC_DONE 1 = E := ⟨_, rfl⟩
    have heq := sendDone_last hsends hflits
    rw [hE] at heq
    have hEq : E.ril.queues = d.ril.queues := by rw [← hE]; rfl
    have hEs : E.ril.sends = [] := by rw [← hE]; rfl
    have hEl : Leaves [.ril, .gov] (these [A.RIL_CNTC ctx.toNat]) d E := by
      rw [← hE, leaves_finc_iff (by simp), leaves_withRil_iff (by simp)]
      exact leaves_self
    have hdone : rilDone E ctx.toNat = (rilDone d ctx.toNat + 1) % 2 ^ 32 := by
      rw [rilDone, ← hE, fget_finc_self _ _ (by decide)]
      rfl
    have hissued : rilIssued E ctx.toNat = rilIssued d ctx.toNat :=
      hEl.2.fget (by simp only [these, A.RIL_CNTB, A.RIL_CNTC, List.contains_cons, List.contains_nil, Bool.or_false,
        beq_eq_false_iff_ne]; omega) _
    have heq' := heq.trans (rilRun_shown hEq hidle.1)
    have hl := (leaves_rilShow_iff (n := ctx.toNat) (by simp)).2 hEl
    have hsends' : (rilShow E ctx.toNat).ril.sends = [] :=
      (congrArg Ril.sends ((leaves_rilShow E ctx.toNat).1 .ril (by simp))).trans hEs
    have hdone' := (fget_rilShow E ctx.toNat (A.RIL_CNTC ctx.toNat) F.RIL_CNTC_DONE).trans hdone
    have hissued' := (fget_rilShow E ctx.toNat (A.RIL_CNTB ctx.toNat) F.RIL_CNTB_ISSUED).trans hissued
    generalize rilShow E ctx.toNat = u at *
    exact ⟨_, next_congr rfl heq', hsends', hdone', hissued', hl⟩
  · intro half port c rest w q hq hw hsaid hdue
    have heq := rilStall_due hq hw hsaid hdue
    obtain ⟨E, hE⟩ : ∃ E, d.withRil { d.ril with said := sset 0 q 1 d.ril.said } = E := ⟨_, rfl⟩
    have hEq : E.ril.queues = d.ril.queues := by rw [← hE]; rfl
    have hEs : E.ril.said = sset 0 q 1 d.ril.said := by rw [← hE]; rfl
    have hEl : Leaves [.ril, .mach, .hst, .gov] (fun a => isReport a || these [A.RIL_STS, A.RIL_CSTS (rcRill c)] a) d E := by
      rw [← hE]
      exact (leaves_withRil_iff (by simp)).2 leaves_self
    have hstep : curStep E = curStep d := by rw [← hE]; rfl
    rw [hE, rilFail] at heq
    obtain ⟨habort, hexc, hctx, hl⟩ := rilRaise_stepFatal (number := 0x6B) (ctx := rcRill c) (by decide) (bits_lt _ _ _) E c.op.toNat
      c.spc c.strand (q / 2) (q % 2) 0
    generalize rilRaise E 0x6B 2 (rcRill c) c.op.toNat c.spc c.strand (q / 2) (q % 2) 0 = u at *
    have hur : u.ril = E.ril := hl.1 .ril (by simp)
    refine ⟨_, next_congr rfl heq, hexc, hctx, ?_, habort.trans (congrArg some hstep), ?_,
      hEl.trans (hl.weaken (by simp) fun _ => id)⟩
    · rw [hur, hEs]
      exact sget_sset_self ..
    · exact (rilQueue_of_queues ((congrArg Ril.queues hur).trans hEq) q).trans hq

end Sys2Proof.Machine
end

section
/-! PROOFS. Rills: the command ports, and the words of their commands (07, R238 to R245). -/

namespace Sys2Proof.Machine

section
variable {ps : List Piece} {p : Nat → Bool} {d e : Dev}

/-! ### Fields of a slot word -/

theorem bits_toNat {w : Nat} (x : BitVec w) (hi lo : Nat) : bits x.toNat hi lo = (x.extractLsb' lo (hi + 1 - lo)).toNat :=
  (BitVec.extractLsb'_toNat ..).symm

theorem bit_toNat {w : Nat} (x : BitVec w) (k : Nat) : bit x.toNat k = (x.extractLsb' k 1 == 1#1) := by
  rw [bit, BitVec.testBit_toNat, Bool.eq_iff_iff, beq_iff_eq, ← BitVec.toNat_inj, BitVec.extractLsb'_toNat, Nat.shiftRight_eq_div_pow,
    ← BitVec.testBit_toNat, Nat.testBit_eq_decide_div_mod_eq, decide_eq_true_eq]
  rfl

variable {c : RilCmd} {rill : BitVec 12}

/-- What the word of a COMMIT with a header of its own says. -/
theorem commit_fields {first last : BitVec 1} (hc : c.op = encodeRil (.commit rill 0#12 1#1 first last)) :
    rcRill c = rill.toNat ∧ rcOp c = 2 ∧ rcNew c = true ∧ rcHsrc c = 0 ∧ rcFirst c = (first == 1#1) ∧ rcLast c = (last == 1#1) := by
  simp only [rcRill, rcOp, rcNew, rcHsrc, rcFirst, rcLast, hc, bits_toNat, bit_toNat]
  simp (disch := omega) only [encodeRil, extract_append_lo, extract_append_hi]
  simp

theorem send_fields {desc : BitVec 10} {first last : BitVec 1} (hc : c.op = encodeRil (.send rill desc 0#12 1#1 first last)) :
    rcRill c = rill.toNat ∧ rcOp c = 1 ∧ rcNew c = true ∧ rcHsrc c = 0 ∧ rcFirst c = (first == 1#1) ∧ rcLast c = (last == 1#1) ∧
      rcDesc c = desc.toNat := by
  simp only [rcRill, rcOp, rcNew, rcHsrc, rcFirst, rcLast, rcDesc, hc, bits_toNat, bit_toNat]
  simp (disch := omega) only [encodeRil, extract_append_lo, extract_append_hi]
  simp

theorem release_fields {cnt : BitVec 8} (hc : c.op = encodeRil (.release rill cnt)) :
    rcRill c = rill.toNat ∧ rcOp c = 3 ∧ rcCount c = cnt.toNat + 1 := by
  simp only [rcRill, rcOp, rcCount, hc, bits_toNat]
  simp (disch := omega) only [encodeRil, extract_append_lo, extract_append_hi]
  simp

/-! ### A command port with one command (R238, R239) -/

theorem setRilQueue_same (d : Dev) (q : Nat) (l : List RilCmd) : rilQueue (setRilQueue d q l) q = l := by
  have h (x : Dev) (m : Nat) (k : GovKey) : rilQueue (if m = l.length then x else govSet x k l.length) q = rilQueue x q := by
    split <;> rfl
  exact (h _ _ _).trans (sget_sset_self ..)

theorem waitOver_queues (d : Dev) (q : Nat) : (waitOver d q).ril.queues = d.ril.queues := rfl

/-- The rill state but its queues and their waits. -/
structure SameRil (d e : Dev) : Prop where
  cross : e.ril.cross = d.ril.cross
  sends : e.ril.sends = d.ril.sends
  started : e.ril.started = d.ril.started
  sendPort : e.ril.sendPort = d.ril.sendPort
  relPort : e.ril.relPort = d.ril.relPort

theorem SameRil.of_ril (h : e.ril = d.ril) : SameRil d e := by
  constructor <;> rw [h]

theorem SameRil.trans {u : Dev} (h : SameRil d e) (k : SameRil e u) : SameRil d u :=
  ⟨k.cross.trans h.cross, k.sends.trans h.sends, k.started.trans h.started, k.sendPort.trans h.sendPort, k.relPort.trans h.relPort⟩

theorem sameRil_waitOver (d : Dev) (q : Nat) : SameRil d (waitOver d q) := ⟨rfl, rfl, rfl, rfl, rfl⟩

theorem leaves_waitOver (d : Dev) (q : Nat) : Leaves [.ril] p d (waitOver d q) := (leaves_withRil_iff (by simp)).2 leaves_self

/-- What a new queue at a command port leaves alone. -/
theorem setRilQueue_leaves (d : Dev) (q : Nat) (l : List RilCmd) : Leaves [.ril, .gov] p d (setRilQueue d q l) ∧
    SameRil d (setRilQueue d q l) ∧ ∀ r, r ≠ q → rilQueue (setRilQueue d q l) r = rilQueue d r := by
  obtain ⟨x, hx, hl, hs, hr⟩ : ∃ x, (if (rilQueue d q).head? = l.head? then d else waitOver d q) = x ∧
      Leaves [.ril, .gov] p d x ∧ SameRil d x ∧ x.ril.queues = d.ril.queues := by
    refine ⟨_, rfl, ?_⟩
    split
    · exact ⟨leaves_self, SameRil.of_ril rfl, rfl⟩
    · exact ⟨(leaves_waitOver d q).widen (by simp), sameRil_waitOver d q, rfl⟩
  simp only [setRilQueue, hx]
  obtain ⟨y, hy⟩ : ∃ y, x.withRil { x.ril with queues := sset [] q l x.ril.queues } = y := ⟨_, rfl⟩
  have hyl : Leaves [.ril, .gov] p d y := by
    rw [← hy]
    exact (leaves_withRil_iff (by simp)).2 hl
  have hys : SameRil x y := by
    rw [← hy]
    exact ⟨rfl, rfl, rfl, rfl, rfl⟩
  have hyq (r : Nat) (hne : r ≠ q) : rilQueue y r = rilQueue d r := by
    rw [← hy, ← rilQueue_of_queues hr r]
    exact sget_sset_ne _ hne _ _
  rw [hy]
  split
  · exact ⟨hyl, hs.trans hys, hyq⟩
  · exact ⟨(leaves_govSet_iff (by simp)).2 hyl, (hs.trans hys).trans (SameRil.of_ril rfl), hyq⟩

/-- A port whose only command is done, over and over. -/
theorem foldPump_one {q : Nat} {X Z : Dev} (hpump : rilPump q (rilQueue X q).length X = Z) (l : List Nat) (hl : q ∈ l)
    (hX : ∀ r ∈ l, r ≠ q → rilQueue X r = []) (hZ : ∀ r ∈ l, rilQueue Z r = []) :
    l.foldl (fun d q => rilPump q (rilQueue d q).length d) X = Z := by
  have hstay (l : List Nat) (hZ : ∀ r ∈ l, rilQueue Z r = []) : l.foldl (fun d q => rilPump q (rilQueue d q).length d) Z = Z := by
    induction l with
    | nil => rfl
    | cons r l ih =>
      rw [List.foldl_cons, rilPump_empty (hZ r (by simp))]
      exact ih fun r h => hZ r (by simp [h])
  induction l with
  | nil => cases hl
  | cons r l ih =>
    rw [List.foldl_cons]
    by_cases hr : r = q
    · subst hr
      rw [hpump]
      exact hstay l fun r h => hZ r (by simp [h])
    · rw [rilPump_empty (hX r (by simp) hr)]
      obtain rfl | hl := List.mem_cons.1 hl
      · exact absurd rfl hr
      · exact ih hl (fun r h => hX r (by simp [h])) fun r h => hZ r (by simp [h])

/-- The engines with one command at one port, which is done at once. -/
theorem rilRun_one {q : Nat} {X Y : Dev} {c : RilCmd} (hq : q < 4) (hX : ∀ r, r < 4 → r ≠ q → rilQueue X r = [])
    (hXq : rilQueue X q = [c]) (hhead : rilHead X q c = .done Y) (hY : Y.ril.queues = X.ril.queues) :
    rilRun X = setRilQueue (waitOver Y q) q [] := by
  obtain ⟨Z, hZ⟩ : ∃ Z, setRilQueue (waitOver Y q) q [] = Z := ⟨_, rfl⟩
  have hpump : rilPump q (rilQueue X q).length X = Z := by
    rw [hXq]
    simp only [List.length_singleton, rilPump, hXq, hhead]
    exact hZ
  have hZq (r : Nat) (hr : r < 4) : rilQueue Z r = [] := by
    rw [← hZ]
    by_cases h : r = q
    · subst h
      exact setRilQueue_same ..
    · rw [(setRilQueue_leaves (p := fun _ => false) _ q []).2.2 r h, rilQueue_of_queues (waitOver_queues Y q), rilQueue_of_queues hY]
      exact hX r hr h
  obtain ⟨n, hn⟩ : ∃ n, ([0, 1, 2, 3].map (fun q => (rilQueue X q).length)).foldl (· + ·) 1 = n + 1 := by
    simp only [List.map_cons, List.map_nil, List.foldl_cons, List.foldl_nil]
    exact ⟨(rilQueue X 0).length + (rilQueue X 1).length + (rilQueue X 2).length + (rilQueue X 3).length, by omega⟩
  have hmem (r : Nat) : r ∈ [0, 1, 2, 3] ↔ r < 4 := by
    simp only [List.mem_cons, List.not_mem_nil, or_false]
    omega
  rw [hZ, rilRun, hn, rilPumpAll, foldPump_one hpump _ ((hmem q).2 hq) (fun r hr => hX r ((hmem r).1 hr)) fun r hr => hZq r ((hmem r).1 hr)]
  have hall (n : Nat) : rilPumpAll n Z = Z := by
    induction n with
    | zero => rfl
    | succ n ih =>
      rw [rilPumpAll, foldPump_one (q := 0) (by rw [hZq 0 (by decide)]; rfl) _ (by simp) (fun r hr _ => hZq r ((hmem r).1 hr))
        fun r hr => hZq r ((hmem r).1 hr)]
      exact ih
  exact hall n

/-! ### Issue (R231, R233, R261) -/

/-- What a running context's op notes at its issue; `m` is a SEND's stride sum. -/
def rilTaken (d : Dev) (iss : Issue) (op : RilOp) (n : Nat) (m : Int) : RilCmd :=
  ⟨encodeRil op, (strandOf d iss.strand).lastSpc, strandCode iss.strand, true, rilRungen d n, m, 0, newTag d, curStep d⟩

/-- A package with a count of a context moved and shown. -/
def rilCounted (d : Dev) (n a : Nat) (f : Fld) (k : Nat) : Dev := rilShow (finc d a f k) n

theorem colArm_none (h : cltEntry d d.mach.armed = none) (n : Nat) : colArm n d = d := by
  cases n with
  | zero => rfl
  | succ n =>
    rw [colArm, h]
    exact ite_self d

theorem leaves_rilCounted_iff {n a : Nat} {f : Fld} {k : Nat} (hg : Piece.gov ∈ ps) (ha : p a = true) :
    Leaves ps p d (rilCounted e n a f k) ↔ Leaves ps p d e := by
  rw [rilCounted, leaves_rilShow_iff hg, leaves_finc_iff ha]

theorem leaves_rilCounted (d : Dev) (n a : Nat) (f : Fld) (k : Nat) : Leaves [.gov] (these [a]) d (rilCounted d n a f k) :=
  (leaves_rilCounted_iff (by simp) (by simp)).2 leaves_self

theorem rilCounted_ril (d : Dev) (n a : Nat) (f : Fld) (k : Nat) : (rilCounted d n a f k).ril = d.ril :=
  (leaves_rilCounted d n a f k).1 .ril (by simp)

section issue
variable {iss : Issue} {port rill : Nat} {op : RilOp} {c0 : RilCmd}
  (hd : landCommits (settle (tick e iss.t)) = d)
  (hq : rilQueue d (2 * hn iss.half + port % 2) = [])
include hd hq

theorem rilIssue_commit {rill : BitVec 12} {first last : BitVec 1} (hrun : running d (.ril rill.toNat) = true)
    (hkind : rilKind d rill.toNat = 0) (hclt : cltEntry d d.mach.armed = none) :
    rilIssue e iss port (.commit rill 0#12 1#1 first last) =
      rilRun (setRilQueue (rilCounted d rill.toNat (A.RIL_CNTB rill.toNat) F.RIL_CNTB_ISSUED 1) (2 * hn iss.half + port % 2)
        [rilTaken d iss (.commit rill 0#12 1#1 first last) rill.toNat 0]) := by
  obtain ⟨hrill, hop, hnew, hsrc, -, -⟩ := commit_fields (first := first) (last := last) (rill := rill)
    (c := ⟨encodeRil (.commit rill 0#12 1#1 first last), (strandOf d iss.strand).lastSpc, strandCode iss.strand, false, 0, 0, 0, 0, 0⟩) rfl
  have harm : colArm (rilCounted d rill.toNat (A.RIL_CNTB rill.toNat) F.RIL_CNTB_ISSUED 1).tables.clt.length
      (rilCounted d rill.toNat (A.RIL_CNTB rill.toNat) F.RIL_CNTB_ISSUED 1) =
        rilCounted d rill.toNat (A.RIL_CNTB rill.toNat) F.RIL_CNTB_ISSUED 1 := by
    refine colArm_none ?_ _
    have hl := leaves_rilCounted d rill.toNat (A.RIL_CNTB rill.toNat) F.RIL_CNTB_ISSUED 1
    unfold cltEntry at hclt ⊢
    rwa [hl.1 .tables (by simp), hl.1 .mach (by simp)]
  have hqueue := (rilQueue_of_queues (congrArg Ril.queues (rilCounted_ril d rill.toNat (A.RIL_CNTB rill.toNat) F.RIL_CNTB_ISSUED 1))
    (2 * hn iss.half + port % 2)).trans hq
  unfold rilCounted at harm hqueue
  simp only [rilIssue, hd, hrill, hop, hnew, hsrc, hrun, hkind]
  simp [harm, hqueue, rilTaken, rilCounted]

theorem rilIssue_send {rill : BitVec 12} {desc : BitVec 10} {first last : BitVec 1} (hrun : running d (.ril rill.toNat) = true)
    (hkind : rilKind d rill.toNat = 2) :
    rilIssue e iss port (.send rill desc 0#12 1#1 first last) =
      rilRun (setRilQueue (rilCounted d rill.toNat (A.RIL_CNTB rill.toNat) F.RIL_CNTB_ISSUED 1) (2 * hn iss.half + port % 2)
        [rilTaken d iss (.send rill desc 0#12 1#1 first last) rill.toNat (rilStride d (hn iss.half) iss.strand desc.toNat)]) := by
  obtain ⟨hrill, hop, hnew, hsrc, -, -, hdesc⟩ := send_fields (first := first) (last := last) (rill := rill) (desc := desc)
    (c := ⟨encodeRil (.send rill desc 0#12 1#1 first last), (strandOf d iss.strand).lastSpc, strandCode iss.strand, false, 0, 0, 0, 0, 0⟩) rfl
  have hqueue := (rilQueue_of_queues (congrArg Ril.queues (rilCounted_ril d rill.toNat (A.RIL_CNTB rill.toNat) F.RIL_CNTB_ISSUED 1))
    (2 * hn iss.half + port % 2)).trans hq
  unfold rilCounted at hqueue
  simp only [rilIssue, hd, hrill, hop, hnew, hsrc, hrun, hkind, hdesc]
  simp [hqueue, rilTaken, rilCounted]

theorem rilIssue_release {rill : BitVec 12} {cnt : BitVec 8} (hrun : running d (.ril rill.toNat) = true)
    (hkind : rilKind d rill.toNat ≤ 1) :
    rilIssue e iss port (.release rill cnt) =
      rilRun (setRilQueue (rilCounted d rill.toNat (A.RIL_CNTA rill.toNat) F.RIL_CNTA_CONS (cnt.toNat + 1)) (2 * hn iss.half + port % 2)
        [rilTaken d iss (.release rill cnt) rill.toNat 0]) := by
  obtain ⟨hrill, hop, hcount⟩ := release_fields (rill := rill) (cnt := cnt)
    (c := ⟨encodeRil (.release rill cnt), (strandOf d iss.strand).lastSpc, strandCode iss.strand, false, 0, 0, 0, 0, 0⟩) rfl
  have hqueue := (rilQueue_of_queues (congrArg Ril.queues (rilCounted_ril d rill.toNat (A.RIL_CNTA rill.toNat) F.RIL_CNTA_CONS
    (cnt.toNat + 1))) (2 * hn iss.half + port % 2)).trans hq
  unfold rilCounted at hqueue
  simp only [rilIssue, hd, hrill, hop, hrun, hcount]
  simp [hkind, hqueue, rilTaken, rilCounted]

end issue

/-! ### The head of a command port (R238, R257) -/

/-- A command whose context still runs as at its issue, of the kind and at the port it needs, goes to its engine. -/
theorem rilHead_runs {X : Dev} {q n : Nat} {c : RilCmd} (hc : c.running = true) (hrill : rcRill c = n)
    (hrun : running X (.ril n) = true) (hgen : rilRungen X n = c.rungen) :
    (rcOp c = 1 → rilKind X n = 2 → rilPortOk X q n false = true → rilHead X q c = execSendCmd (rilFixPort X q n false) q n c) ∧
    (rcOp c = 2 → rilKind X n = 0 → rilPortOk X q n false = true → rilHead X q c = execCommitCmd (rilFixPort X q n false) q n c) ∧
    (rcOp c = 3 → rilKind X n ≤ 1 → rilPortOk X q n true = true → rilHead X q c = execReleaseCmd (rilFixPort X q n true) q n c) := by
  refine ⟨fun hop hk hp => ?_, fun hop hk hp => ?_, fun hop hk hp => ?_⟩ <;>
    simp [rilHead, hc, hrill, hrun, hgen, hop, hk, hp]

/-- The package with a command at the head of its port, about to be executed. -/
structure AtHead (n q a : Nat) (c : RilCmd) (d F : Dev) : Prop where
  leaves : Leaves [.ril, .gov] (these [a]) d F
  cross : F.ril.cross = d.ril.cross
  sends : F.ril.sends = d.ril.sends
  started : F.ril.started = d.ril.started
  empty : ∀ r, r < 4 → r ≠ q → rilQueue F r = []
  head : rilQueue F q = [c]

theorem rilFixPort_leaves (d : Dev) (q n : Nat) (rel : Bool) : Leaves [.ril] p d (rilFixPort d q n rel) ∧
    (rilFixPort d q n rel).ril.cross = d.ril.cross ∧ (rilFixPort d q n rel).ril.sends = d.ril.sends ∧
    (rilFixPort d q n rel).ril.started = d.ril.started ∧ (rilFixPort d q n rel).ril.queues = d.ril.queues := by
  cases rel
  · exact ⟨(leaves_withRil_iff (by simp)).2 leaves_self, rfl, rfl, rfl, rfl⟩
  · exact ⟨(leaves_withRil_iff (by simp)).2 leaves_self, rfl, rfl, rfl, rfl⟩

/-- A counted command put at the head of an empty port whose port is then fixed. -/
theorem atHead_queued {n q a k : Nat} {f : Fld} {c : RilCmd} (hidle : rilIdle d) (rel : Bool) :
    AtHead n q a c d (rilFixPort (setRilQueue (rilCounted d n a f k) q [c]) q n rel) := by
  have hcl := leaves_rilCounted d n a f k
  have hcr := rilCounted_ril d n a f k
  generalize rilCounted d n a f k = D at *
  obtain ⟨hsl, hss, hsq⟩ := setRilQueue_leaves (p := these [a]) D q [c]
  have hsame := setRilQueue_same D q [c]
  generalize setRilQueue D q [c] = X at *
  obtain ⟨hfl, hfc, hfs, hft, hfq⟩ := rilFixPort_leaves (p := these [a]) X q n rel
  refine ⟨(hcl.weaken (by simp) fun _ => id).trans (hsl.trans (hfl.weaken (by simp) fun _ => id)), ?_, ?_, ?_, fun r hr hne => ?_, ?_⟩
  · rw [hfc, hss.cross, hcr]
  · rw [hfs, hss.sends, hcr]
  · rw [hft, hss.started, hcr]
  · rw [rilQueue_of_queues hfq, hsq r hne, rilQueue_of_queues (congrArg Ril.queues hcr)]
    exact hidle.1 r hr
  · rw [rilQueue_of_queues hfq, hsame]

/-! ### Headers and slab counts (R231, R232) -/

theorem makeHeader_of_leaves {F : Dev} {q : Nat → Bool} {n : Nat} (h : Leaves ps q d F) (hlive : Piece.live ∉ ps)
    (hg : q (A.RIL_GEN n) = false) (hc : q A.GLB_CHIP = false) (ht : q A.SID_TIME = false) (first last : Bool) (w0 tag slab : Nat) :
    makeHeader F n first last w0 tag slab = makeHeader d n first last w0 tag slab := by
  have hepoch : rilEpoch F n = rilEpoch d n := h.2.fget hg _
  have hown : ownChip F = ownChip d := h.2.fget hc _
  have htime : sidNow F = sidNow d := congrArg BitVec.toNat (h.2 _ ht)
  simp only [makeHeader, liveGet_of_leaves h hlive, hepoch, hown, htime]

theorem makeHeader_length (d : Dev) (n : Nat) (first last : Bool) (w0 tag slab : Nat) :
    (makeHeader d n first last w0 tag slab).length = 64 := by
  simp [makeHeader, leBytes_length]

theorem leaves_noteSlab_iff {n slab : Nat} {last : Bool} (h : p (A.RIL_GEN n) = true) :
    Leaves ps p d (noteSlab e n slab last) ↔ Leaves ps p d e := by
  unfold noteSlab
  simp only
  split
  · rw [leaves_finc_iff h, leaves_fset_iff h]
  · rw [leaves_fset_iff h]

theorem noteSlab_counts (d : Dev) (n slab : Nat) (last : Bool) :
    fget (noteSlab d n slab last) (A.RIL_GEN n) F.RIL_GEN_SLABNEXT = (slab + 1) % 2 ^ 16 ∧
    fget (noteSlab d n slab last) (A.RIL_GEN n) F.RIL_GEN_MBNEXT =
      (fget d (A.RIL_GEN n) F.RIL_GEN_MBNEXT + if last = true then 1 else 0) % 2 ^ 24 := by
  have hmb : fget (fset d (A.RIL_GEN n) F.RIL_GEN_SLABNEXT (slab + 1)) (A.RIL_GEN n) F.RIL_GEN_MBNEXT =
      fget d (A.RIL_GEN n) F.RIL_GEN_MBNEXT := fget_fset_apart _ _ _ _ _ _ (by decide) (by decide) (by decide)
  cases last
  · refine ⟨fget_fset_self _ _ _ _ (by decide), hmb.trans ?_⟩
    exact (Nat.mod_eq_of_lt (fget_lt _ _ _)).symm
  · refine ⟨?_, ?_⟩
    · rw [noteSlab, if_pos rfl, finc, fget_fset_apart _ _ _ _ _ _ (by decide) (by decide) (by decide),
        fget_fset_self _ _ _ _ (by decide)]
      rfl
    · rw [noteSlab, if_pos rfl, fget_finc_self _ _ (by decide), hmb]
      rfl

/-- A header stored in slot DONE of a ring, and counted as produced and done. -/
def rilLanded (d : Dev) (n : Nat) (hdr : List Byte) : Dev :=
  finc (finc (qPut d (headerAt d n (rilDone d n)) hdr) (A.RIL_CNTA n) F.RIL_CNTA_PROD 1) (A.RIL_CNTC n) F.RIL_CNTC_DONE 1

/-- What a COMMIT that reaches its ring makes of its context. -/
structure Landed (n : Nat) (hdr : List Byte) (d u : Dev) : Prop where
  leaves : Leaves [.mem, .ms] (fun a => isAccess a || these [A.RIL_CNTA n, A.RIL_CNTC n] a) d u
  prod : rilProd u n = (rilProd d n + 1) % 2 ^ 32
  done : rilDone u n = (rilDone d n + 1) % 2 ^ 32
  header : memRead u.mem (headerAt d n (rilDone d n)) 64 = hdr
  apart : ∀ a, (a < headerAt d n (rilDone d n) ∨ headerAt d n (rilDone d n) + 64 ≤ a) → memGet u.mem a = memGet d.mem a

theorem landed_rilLanded {n : Nat} {hdr : List Byte} (hn : n < 4096) (hlen : hdr.length = 64) (hm : d.ms.marks = [])
    (hh : plainMem d (headerAt d n (rilDone d n)) 64) : Landed n hdr d (rilLanded d n hdr) := by
  have h1 : StoresOnly d (qPut d (headerAt d n (rilDone d n)) hdr) (headerAt d n (rilDone d n)) hdr := qPut_plain (by rwa [hlen]) hm
  have hne : A.RIL_CNTA n ≠ A.RIL_CNTC n := by simp only [A.RIL_CNTA, A.RIL_CNTC]; omega
  have hcnta : isAccess (A.RIL_CNTA n) = false := isAccess_rill hn (by simp only [A.RIL_CNTA]; omega) (by simp only [A.RIL_CNTA]; omega)
  have hcntc : isAccess (A.RIL_CNTC n) = false := isAccess_rill hn (by simp only [A.RIL_CNTC]; omega) (by simp only [A.RIL_CNTC]; omega)
  rw [rilLanded]
  generalize qPut d (headerAt d n (rilDone d n)) hdr = S at h1 ⊢
  refine ⟨?_, ?_, ?_, ?_, fun a ha => h1.apart a (by rwa [hlen])⟩
  · rw [leaves_finc_iff (by simp), leaves_finc_iff (by simp)]
    exact h1.leaves.weaken (by simp) fun a ha => (Bool.or_eq_false_iff.1 ha).1
  · rw [rilProd, finc, fget_fset_ne _ hne, fget_finc_self _ _ (by decide), h1.leaves.2.fget hcnta]
    rfl
  · rw [rilDone, fget_finc_self _ _ (by decide), finc, fget_fset_ne _ hne.symm, h1.leaves.2.fget hcntc]
    rfl
  · have := h1.read
    rwa [hlen] at this

/-! ### COMMIT (R242) -/

theorem rcSource_new {n : Nat} {c : RilCmd} (h : rcNew c = true) :
    rcSource d n c = some (fget d (A.RIL_GEN n) F.RIL_GEN_MBNEXT + (c.step % 2 ^ 32) <<< 32, c.tag) := by
  rw [rcSource, h]
  rfl

/-- The header that a command with one of its own writes. -/
def ownHeader (d : Dev) (n : Nat) (c : RilCmd) : List Byte :=
  makeHeader d n (rcFirst c) (rcLast c) (fget d (A.RIL_GEN n) F.RIL_GEN_MBNEXT + (c.step % 2 ^ 32) <<< 32) c.tag (rcSlab d n c)

theorem rilFlight_none {n : Nat} (h : d.ril.cross = []) : rilFlight d n = 0 := by
  rw [rilFlight, h]
  rfl

/-- A COMMIT on a ring of its own half. -/
theorem execCommitCmd_lands {q n : Nat} {c : RilCmd} (hnew : rcNew c = true) (hx : d.ril.cross = [])
    (hroom : signed 32 (sub32 (rilDone d n) (rilFreed d n)) < rilSlots d n) (hhalf : ringHalf d n = q / 2) :
    execCommitCmd d q n c = .done (rilShow (noteSlab (rilLanded d n (ownHeader d n c)) n (rcSlab d n c) (rcLast c)) n) := by
  have hk : (rilDone d n + rilFlight d n) % 2 ^ 32 = rilDone d n := by
    rw [rilFlight_none hx]
    exact Nat.mod_eq_of_lt (fget_lt _ _ _)
  simp only [execCommitCmd, hk, rcSource_new hnew, hhalf]
  rw [if_neg (by omega), if_neg (by simp)]
  rfl

/-- A COMMIT on its way to a ring of the other half. -/
def rilCrossing (d : Dev) (n : Nat) (hdr : List Byte) : Dev :=
  d.withRil { d.ril with cross := d.ril.cross ++ [⟨d.now + sc 24, n, hdr⟩] }

theorem execCommitCmd_crosses {q n : Nat} {c : RilCmd} (hnew : rcNew c = true) (hx : d.ril.cross = [])
    (hroom : signed 32 (sub32 (rilDone d n) (rilFreed d n)) < rilSlots d n) (hhalf : ringHalf d n ≠ q / 2) :
    execCommitCmd d q n c = .done (noteSlab (rilCrossing d n (ownHeader d n c)) n (rcSlab d n c) (rcLast c)) := by
  have hk : (rilDone d n + rilFlight d n) % 2 ^ 32 = rilDone d n := by
    rw [rilFlight_none hx]
    exact Nat.mod_eq_of_lt (fget_lt _ _ _)
  simp only [execCommitCmd, hk, rcSource_new hnew]
  rw [if_neg (by omega), if_pos hhalf]
  rfl

/-! ### RELEASE and SEND (R240, R243) -/

theorem outMsg_quiet (h : quiet d) (m : Msg) : outMsg d m = d := by
  unfold outMsg
  split
  · rfl
  · have hr : replaying d = false := by rw [replaying, h.2]; rfl
    simp only [outNote, hr, capturing_quiet h]
    rfl

/-- A message that its port carries joins the port's queue. -/
theorem sendBy_carried {q : Nat} {m : Msg} {ctx : Option Nat} (hq : quiet d) (hc : carries d q m.vc = true) :
    sendBy d q m ctx = enqueue d q m ctx := by
  simp only [sendBy, outMsg_quiet hq, ite_self, hq.2, hc]
  rfl

/-- A context that owes its peer a credit. -/
def credNoted (d : Dev) (n : Nat) : Dev := d.withRil { d.ril with credSent := sset 0 n 1 d.ril.credSent }

theorem execReleaseCmd_frees {q n : Nat} {c : RilCmd} (h : (rcCount c : Int) ≤ signed 32 (sub32 (rilProd d n) (rilFreed d n)))
    {u : Dev} (hu : rilCounted d n (A.RIL_CNTB n) F.RIL_CNTB_FREED (rcCount c) = u) :
    execReleaseCmd d q n c = if rilKind u n = 1 then
        .done (rilSend (credNoted u n) n (rilMsg (credNoted u n) n 1 (rilRungen (credNoted u n) n) (rcCount c) [])) else .done u := by
  simp only [execReleaseCmd]
  rw [if_neg (by omega), ← hu]
  rfl

/-- A SEND in progress. -/
def sendNoted (d : Dev) (n q : Nat) : Dev :=
  d.withRil { d.ril with started := sset 0 n ((sget 0 n d.ril.started + 1) % 2 ^ 32) d.ril.started, sends := d.ril.sends ++ [(n, q)] }

/-- A SEND with credit and room, a header of its own and a source that can be read. -/
theorem execSendCmd_sends {q n a : Nat} {c : RilCmd} {R : Dev} {src : List Byte} (hsrc : sendSource d (q / 2) n c = .ok a)
    (hcred : 1 ≤ signed 32 (sub32 (rilGrant d n) (sget 0 n d.ril.started)))
    (hroom : (d.ril.sends.filter (fun e => e.2 == q)).length < 8) (hnew : rcNew c = true) (hread : qGet d a (rilSize d n) = (R, src))
    (hstarted : R.ril.started = d.ril.started) :
    execSendCmd d q n c = .done (rilSend (noteSlab (sendNoted R n q) n (rcSlab d n c) (rcLast c)) n (rilMsg (sendNoted R n q) n 0
      (rilEpoch (sendNoted R n q) n) 0 (makeHeader R n (rcFirst c) (rcLast c)
        (fget d (A.RIL_GEN n) F.RIL_GEN_MBNEXT + (c.step % 2 ^ 32) <<< 32) c.tag (rcSlab d n c) ++ src))) := by
  simp only [execSendCmd, hsrc, rcSource_new hnew, hread]
  rw [if_neg (by omega), sendNoted, hstarted]

theorem sendSource_plain {h n a : Nat} {c : RilCmd} (hs : sendSource d h n c = .ok a) : plainMem d a (rilSize d n) := by
  unfold sendSource at hs
  split at hs
  · cases hs
  · simp only at hs
    split at hs
    · cases hs
    · split at hs
      · cases hs
      · split at hs
        · cases hs
        · split at hs
          · next hin =>
            cases hs
            exact inOneMemory_plain hin
          · cases hs

theorem inOneMemory_of_stackCh (hch : ∀ s, s < 8 → stackCh e s = stackCh d s) (a n : Nat) : inOneMemory e a n = inOneMemory d a n := by
  unfold inOneMemory
  rw [inStacks_of_stackCh hch]

theorem sendSource_congr (htab : e.tables = d.tables) (hl : e.live = d.live) (hch : ∀ s, s < 8 → stackCh e s = stackCh d s)
    (h n : Nat) (c : RilCmd) : sendSource e h n c = sendSource d h n c := by
  unfold sendSource halfTables
  simp only [htab, rilSize_of_live hl, inOneMemory_of_stackCh hch]

/-! ### A command from its issue to its end -/

/-- The package with a counted command queued. -/
def rilQueued (d : Dev) (n a : Nat) (f : Fld) (k q : Nat) (c : RilCmd) : Dev := setRilQueue (rilCounted d n a f k) q [c]

/-- The package with a command about to be executed, its port fixed. -/
def rilReady (d : Dev) (n a : Nat) (f : Fld) (k q : Nat) (c : RilCmd) (rel : Bool) : Dev := rilFixPort (rilQueued d n a f k q c) q n rel

theorem rilQueued_leaves (d : Dev) (n a : Nat) (f : Fld) (k q : Nat) (c : RilCmd) :
    Leaves [.ril, .gov] (these [a]) d (rilQueued d n a f k q c) ∧ SameRil d (rilQueued d n a f k q c) := by
  have hcl := leaves_rilCounted d n a f k
  have hcr := rilCounted_ril d n a f k
  unfold rilQueued
  generalize rilCounted d n a f k = D at *
  obtain ⟨hsl, hss, -⟩ := setRilQueue_leaves (p := these [a]) D q [c]
  exact ⟨(hcl.weaken (by simp) fun _ => id).trans hsl, (SameRil.of_ril hcr).trans hss⟩

theorem rilReady_atHead {n q a k : Nat} {f : Fld} {c : RilCmd} (hidle : rilIdle d) (rel : Bool) :
    AtHead n q a c d (rilReady d n a f k q c rel) := atHead_queued hidle rel

/-- How a context of another register looks with the command queued. -/
theorem rilHead_ready {n q a k : Nat} {f : Fld} {c : RilCmd} (ha : a ∈ [A.RIL_CNTA n, A.RIL_CNTB n]) (hc : c.running = true)
    (hrill : rcRill c = n) (hrun : running d (.ril n) = true) (hgen : c.rungen = rilRungen d n) :
    (rcOp c = 1 → rilKind d n = 2 → rilPortOk d q n false = true →
      rilHead (rilQueued d n a f k q c) q c = execSendCmd (rilReady d n a f k q c false) q n c) ∧
    (rcOp c = 2 → rilKind d n = 0 → rilPortOk d q n false = true →
      rilHead (rilQueued d n a f k q c) q c = execCommitCmd (rilReady d n a f k q c false) q n c) ∧
    (rcOp c = 3 → rilKind d n ≤ 1 → rilPortOk d q n true = true →
      rilHead (rilQueued d n a f k q c) q c = execReleaseCmd (rilReady d n a f k q c true) q n c) := by
  obtain ⟨hl, hs⟩ := rilQueued_leaves d n a f k q c
  unfold rilReady
  generalize rilQueued d n a f k q c = X at *
  have hcsts : these [a] (A.RIL_CSTS n) = false := by
    simp only [List.mem_cons, List.not_mem_nil, or_false] at ha
    simp only [these, List.contains_cons, List.contains_nil, Bool.or_false, beq_eq_false_iff_ne, A.RIL_CSTS, A.RIL_CNTA, A.RIL_CNTB] at ha ⊢
    omega
  have hrunX : running X (.ril n) = true := (congrArg (fun x => decide (x = 1)) (hl.2.fget hcsts F.STATE)).trans hrun
  have hkind : rilKind X n = rilKind d n := rilKind_of_live (hl.1 .live (by simp)) n
  have hport (rel : Bool) : rilPortOk X q n rel = rilPortOk d q n rel := by
    unfold rilPortOk
    rw [hs.relPort, hs.sendPort]
  have h := rilHead_runs (q := q) hc hrill hrunX ((hl.2.fget hcsts F.RUNGEN).trans hgen.symm)
  simpa only [hkind, hport] using h

/-- What is left once a command is done: its port's queue is empty and nothing else has changed. -/
structure Ended (Y u : Dev) : Prop where
  leaves : Leaves [.ril, .gov] (fun _ => false) Y u
  cross : u.ril.cross = Y.ril.cross
  sends : u.ril.sends = Y.ril.sends

theorem Ended.fget {Y u : Dev} (h : Ended Y u) (a : Nat) (f : Fld) : fget u a f = fget Y a f := h.leaves.2.fget rfl f

theorem Ended.mem {Y u : Dev} (h : Ended Y u) (a : Nat) : memGet u.mem a = memGet Y.mem a := h.leaves.1 .mem (by simp) a

/-- The engines do the only command there is. -/
theorem rilRun_queued {n q a k : Nat} {f : Fld} {c : RilCmd} {rel : Bool} {Y : Dev} (hidle : rilIdle d) (hq : q < 4)
    (hhead : rilHead (rilQueued d n a f k q c) q c = .done Y) (hY : Y.ril.queues = (rilReady d n a f k q c rel).ril.queues) :
    Ended Y (rilRun (rilQueued d n a f k q c)) := by
  have hF := rilReady_atHead (n := n) (a := a) (k := k) (f := f) (c := c) (q := q) hidle rel
  have hFq : (rilReady d n a f k q c rel).ril.queues = (rilQueued d n a f k q c).ril.queues :=
    (rilFixPort_leaves (p := fun _ => false) _ q n rel).2.2.2.2
  rw [rilRun_one hq (fun r hr hne => (rilQueue_of_queues hFq r).symm.trans (hF.empty r hr hne))
    ((rilQueue_of_queues hFq q).symm.trans hF.head) hhead (hY.trans hFq)]
  obtain ⟨hl, hs, -⟩ := setRilQueue_leaves (p := fun _ => false) (waitOver Y q) q []
  exact ⟨((leaves_waitOver Y q).widen (by simp)).trans hl, hs.cross, hs.sends⟩

theorem isRill_of_access {n a : Nat} (h : isRill n a = false) : isAccess a = false ∧ these [A.RIL_CNTA n] a = false ∧
    these [A.RIL_CNTB n] a = false ∧ these [A.RIL_CNTC n] a = false ∧ these [A.RIL_GEN n] a = false := by
  refine ⟨isAccess_of_isRill h, ?_⟩
  rw [isRill, Bool.or_eq_false_iff] at h
  simp only [these, List.contains_cons, List.contains_nil, Bool.or_false, Bool.or_eq_false_iff] at h ⊢
  exact ⟨h.2.1, h.2.2.1, h.2.2.2.1, h.2.2.2.2.1⟩

end

end Sys2Proof.Machine
end

section
/-! PROOFS. COMMIT, RELEASE and SEND from their issue on, and COMMITs that cross the bridge (07, R227, R240 to R243). -/

namespace Sys2Proof.Machine

section
variable {ps : List Piece} {p : Nat → Bool} {d e G : Dev} {n a : Nat}

theorem these_apart {a b : Nat} (h : b ≠ a) : these [a] b = false := by simpa [these] using h

/-- The other registers of a rill context than the one counted at issue. -/
theorem gen_apart (ha : a ∈ [A.RIL_CNTA n, A.RIL_CNTB n]) : these [a] (A.RIL_GEN n) = false ∧ these [a] (A.RIL_CNTC n) = false ∧
    these [a] A.GLB_CHIP = false ∧ these [a] A.SID_TIME = false := by
  simp only [List.mem_cons, List.not_mem_nil, or_false] at ha
  refine ⟨these_apart ?_, these_apart ?_, these_apart ?_, these_apart ?_⟩ <;>
    simp only [A.RIL_GEN, A.RIL_CNTA, A.RIL_CNTB, A.RIL_CNTC, A.GLB_CHIP, A.SID_TIME] at ha ⊢ <;> omega

theorem rcSlab_ready (hl : Leaves [.ril, .gov] (these [a]) d G) (ha : a ∈ [A.RIL_CNTA n, A.RIL_CNTB n]) {c : RilCmd} {first : BitVec 1}
    (hf : rcFirst c = (first == 1#1)) :
    rcSlab G n c = if first = 1#1 then 0 else fget d (A.RIL_GEN n) F.RIL_GEN_SLABNEXT := by
  rw [rcSlab, hf, hl.2.fget (gen_apart ha).1]
  simp only [beq_iff_eq]

/-- The header of a command taken at `d` and executed at once. -/
theorem makeHeader_ready {q : Nat → Bool} (hl : Leaves ps q d G) (hlive : Piece.live ∉ ps)
    (hq : q (A.RIL_GEN n) = false ∧ q (A.RIL_CNTC n) = false ∧ q A.GLB_CHIP = false ∧ q A.SID_TIME = false)
    {c : RilCmd} {first last : BitVec 1} {slab : Nat} (hf : rcFirst c = (first == 1#1)) (hla : rcLast c = (last == 1#1)) (hstep : c.step = curStep d)
    (htag : c.tag = newTag d) {mb : Nat} (hmb : mb = fget d (A.RIL_GEN n) F.RIL_GEN_MBNEXT) :
    makeHeader G n (rcFirst c) (rcLast c) (mb + (c.step % 2 ^ 32) <<< 32) c.tag slab =
      makeHeader d n (first == 1#1) (last == 1#1) (fget d (A.RIL_GEN n) F.RIL_GEN_MBNEXT + curStep d <<< 32) (newTag d) slab := by
  obtain ⟨hg, -, hc, ht⟩ := hq
  have hcur : curStep d % 2 ^ 32 = curStep d := Nat.mod_eq_of_lt (fget_lt _ _ _)
  rw [makeHeader_of_leaves hl hlive hg hc ht, hf, hla, hstep, htag, hmb, hcur]

theorem isRill_of_these {b : Nat} (ha : a ∈ [A.RIL_CNTA n, A.RIL_CNTB n]) (h : isRill n b = false) : these [a] b = false := by
  obtain ⟨-, hA, hB, -, -⟩ := isRill_of_access h
  simp only [List.mem_cons, List.not_mem_nil, or_false] at ha
  obtain rfl | rfl := ha
  · exact hA
  · exact hB

/-! ### COMMIT to a ring of its own half -/

section commit
variable {iss : Issue} {port rill : Nat} {c : RilCmd} {first last : BitVec 1} {q k : Nat} {f : Fld}

/-- What a COMMIT on its own half leaves once its context is counted at issue. -/
structure CommitDone (n : Nat) (hdr : List Byte) (slab : Nat) (last : Bool) (G u : Dev) : Prop where
  leaves : Leaves [.mem, .ms, .ril, .gov] (isRill n) G u
  prod : rilProd u n = (rilProd G n + 1) % 2 ^ 32
  issued : rilIssued u n = rilIssued G n
  done : rilDone u n = (rilDone G n + 1) % 2 ^ 32
  freed : rilFreed u n = rilFreed G n
  slabnext : fget u (A.RIL_GEN n) F.RIL_GEN_SLABNEXT = (slab + 1) % 2 ^ 16
  mbnext : fget u (A.RIL_GEN n) F.RIL_GEN_MBNEXT = (fget G (A.RIL_GEN n) F.RIL_GEN_MBNEXT + if last = true then 1 else 0) % 2 ^ 24
  header : memRead u.mem (headerAt G n (rilDone G n)) 64 = hdr
  apart : ∀ b, (b < headerAt G n (rilDone G n) ∨ headerAt G n (rilDone G n) + 64 ≤ b) → memGet u.mem b = memGet G.mem b

theorem commitDone_ended {G Y u : Dev} {hdr : List Byte} {slab : Nat} {last : Bool} (hn : n < 4096)
    (hY : Y = rilShow (noteSlab (rilLanded G n hdr) n slab last) n) (hlen : hdr.length = 64) (hm : G.ms.marks = [])
    (hh : plainMem G (headerAt G n (rilDone G n)) 64) (hu : Ended Y u) : CommitDone n hdr slab last G u := by
  have hL := landed_rilLanded hn hlen hm hh
  generalize rilLanded G n hdr = L at *
  have hne : A.RIL_CNTA n ≠ A.RIL_GEN n ∧ A.RIL_CNTB n ≠ A.RIL_GEN n ∧ A.RIL_CNTC n ≠ A.RIL_GEN n ∧ A.RIL_CNTB n ≠ A.RIL_CNTA n ∧
      A.RIL_CNTB n ≠ A.RIL_CNTC n ∧ A.RIL_GEN n ≠ A.RIL_CNTA n ∧ A.RIL_GEN n ≠ A.RIL_CNTC n := by
    simp only [A.RIL_CNTA, A.RIL_GEN, A.RIL_CNTB, A.RIL_CNTC]
    omega
  have hsl : Leaves [] (these [A.RIL_GEN n]) L (noteSlab L n slab last) := (leaves_noteSlab_iff (by simp)).2 leaves_self
  have hf {b : Nat} (hb : b ≠ A.RIL_GEN n) (g : Fld) : fget u b g = fget L b g := by
    rw [hu.fget, hY, fget_rilShow, hsl.2.fget (these_apart hb)]
  have hgen (g : Fld) : fget u (A.RIL_GEN n) g = fget (noteSlab L n slab last) (A.RIL_GEN n) g := by
    rw [hu.fget, hY, fget_rilShow]
  have hmem (b : Nat) : memGet u.mem b = memGet L.mem b := by
    rw [hu.mem, hY, rilShow_mem]
    exact hsl.1 .mem (by simp) b
  have hout {b : Nat} (h1 : A.RIL_CNTB n = b ∨ A.RIL_GEN n = b) (g : Fld) : fget L b g = fget G b g := by
    refine hL.leaves.2.fget ?_ g
    rw [Bool.or_eq_false_iff]
    refine ⟨isAccess_rill hn ?_ ?_, ?_⟩
    · obtain rfl | rfl := h1 <;> simp only [A.RIL_CNTB, A.RIL_GEN] <;> omega
    · obtain rfl | rfl := h1 <;> simp only [A.RIL_CNTB, A.RIL_GEN] <;> omega
    · obtain rfl | rfl := h1
      · simp [these, hne.2.2.2.1, hne.2.2.2.2.1]
      · simp [these, hne.2.2.2.2.2.1, hne.2.2.2.2.2.2]
  obtain ⟨hslab, hmb⟩ := noteSlab_counts L n slab last
  refine ⟨?_, (hf hne.1 _).trans hL.prod, (hf hne.2.1 _).trans (hout (.inl rfl) _), (hf hne.2.2.1 _).trans hL.done,
    (hf hne.2.1 _).trans (hout (.inl rfl) _), (hgen _).trans hslab, ?_, ?_, fun b hb => (hmem b).trans (hL.apart b hb)⟩
  · have h1 : Leaves [.mem, .ms, .ril, .gov] (isRill n) G L := hL.leaves.weaken (by simp) fun b hb => by
      obtain ⟨h1, h2, h3, h4, h5⟩ := isRill_of_access hb
      rw [h1]
      simp only [these, List.contains_cons, List.contains_nil, Bool.or_false, Bool.false_or] at h2 h4 ⊢
      rw [h2, h4]
      rfl
    have h2 : Leaves [.mem, .ms, .ril, .gov] (isRill n) G Y := by
      rw [hY, leaves_rilShow_iff (by simp), leaves_noteSlab_iff (isRill_counts n).2.2.2]
      exact h1
    exact h2.trans (hu.leaves.weaken (by simp) fun _ _ => rfl)
  · rw [hgen, hmb, hout (.inr rfl)]
  · rw [← hL.header]
    exact memRead_congr fun i _ => hmem _

end commit

theorem rilReady_fget (d : Dev) (n a : Nat) (f : Fld) (k q : Nat) (c : RilCmd) (rel : Bool) (b : Nat) (g : Fld) :
    fget (rilReady d n a f k q c rel) b g = fget (finc d a f k) b g := by
  rw [rilReady, (rilFixPort_leaves (p := fun _ => false) _ q n rel).1.2.fget rfl, rilQueued,
    (setRilQueue_leaves (p := fun _ => false) _ q [c]).1.2.fget rfl, rilCounted, fget_rilShow]

/-- A command taken at `d`, at the head of its port in `G`. -/
structure Headed (n q a : Nat) (f : Fld) (k : Nat) (c : RilCmd) (d G : Dev) : Prop where
  head : AtHead n q a c d G
  count : ∀ b g, fget G b g = fget (finc d a f k) b g

theorem Headed.self {q k : Nat} {f : Fld} {c : RilCmd} {G : Dev} (h : Headed n q a f k c d G) (hf : f.ok = true) :
    fget G a f = (fget d a f + k) % 2 ^ (f.hi + 1 - f.lo) := (h.count a f).trans (fget_finc_self _ _ hf)

theorem Headed.beside {q k : Nat} {f g : Fld} {c : RilCmd} {G : Dev} (h : Headed n q a f k c d G) (hf : f.ok = true) (hg : g.ok = true)
    (hfg : f.apart g = true) : fget G a g = fget d a g := (h.count a g).trans (fget_fset_apart _ _ _ _ _ _ hf hg hfg)

theorem Headed.live {q k : Nat} {f : Fld} {c : RilCmd} {G : Dev} (h : Headed n q a f k c d G) : G.live = d.live :=
  h.head.leaves.1 .live (by simp)

/-- The one command there is, from its issue on: its engine finds it at the head of its port, and what the engine makes of it ends it. -/
theorem issue_headed {q k : Nat} {f : Fld} {c : RilCmd} {rel : Bool} {step : Dev → RilStep} {r : Dev} (hidle : rilIdle d) (hq : q < 4)
    (hissue : r = rilRun (rilQueued d n a f k q c))
    (hhead : rilHead (rilQueued d n a f k q c) q c = step (rilReady d n a f k q c rel)) :
    ∃ G, Headed n q a f k c d G ∧ ∀ Y, step G = .done Y → Y.ril.queues = G.ril.queues → Ended Y r := by
  refine ⟨rilReady d n a f k q c rel, ⟨rilReady_atHead hidle rel, rilReady_fget d n a f k q c rel⟩, fun Y hY hqs => ?_⟩
  rw [hissue]
  exact rilRun_queued hidle hq (hhead.trans hY) hqs

theorem commit_ril (G : Dev) (n slab : Nat) (hdr : List Byte) (last : Bool) (hn : n < 4096) (hlen : hdr.length = 64)
    (hm : G.ms.marks = []) (hh : plainMem G (headerAt G n (rilDone G n)) 64) :
    (rilShow (noteSlab (rilLanded G n hdr) n slab last) n).ril = G.ril := by
  have hL := (landed_rilLanded hn hlen hm hh).leaves
  have : Leaves [.mem, .ms, .gov] (fun _ => true) G (rilShow (noteSlab (rilLanded G n hdr) n slab last) n) := by
    rw [leaves_rilShow_iff (by simp), leaves_noteSlab_iff rfl]
    exact hL.weaken (by simp) fun _ h => by cases h
  exact this.1 .ril (by simp)

theorem ringHalf_of_live (h : e.live = d.live) (n : Nat) : ringHalf e n = ringHalf d n := by
  unfold ringHalf
  rw [rilBase_of_live h]

/-- What the word of a COMMIT or SEND with a header of its own notes at its issue. -/
structure OwnHeader (first last : BitVec 1) (d : Dev) (c : RilCmd) : Prop where
  new : rcNew c = true
  first : rcFirst c = (first == 1#1)
  last : rcLast c = (last == 1#1)
  step : c.step = curStep d
  tag : c.tag = newTag d

section commit
variable {iss : Issue} {port : Nat} {rill : BitVec 12} {first last : BitVec 1}
  (hd : landCommits (settle (tick e iss.t)) = d) (hport : port < 2) (hidle : rilIdle d) (hrun : running d (.ril rill.toNat) = true)
  (hkind : rilKind d rill.toNat = 0) (hok : rilPortOk d (2 * hn iss.half + port) rill.toNat false = true)
  (hroom : signed 32 (sub32 (rilDone d rill.toNat) (rilFreed d rill.toNat)) < rilSlots d rill.toNat)
  (hclt : cltEntry d d.mach.armed = none)
include hd hport hidle hrun hkind hok hclt

theorem commit_headed : ∃ c G, OwnHeader first last d c ∧
    Headed rill.toNat (2 * hn iss.half + port) (A.RIL_CNTB rill.toNat) F.RIL_CNTB_ISSUED 1 c d G ∧
    ∀ Y, execCommitCmd G (2 * hn iss.half + port) rill.toNat c = .done Y → Y.ril.queues = G.ril.queues →
      Ended Y (rilIssue e iss port (.commit rill 0#12 1#1 first last)) := by
  have hq : 2 * hn iss.half + port < 4 := by have := hn_lt_two iss.half; omega
  have hmod : port % 2 = port := Nat.mod_eq_of_lt hport
  obtain ⟨hrill, hop, hnew, -, hfirst, hlast⟩ := commit_fields (c := rilTaken d iss (.commit rill 0#12 1#1 first last) rill.toNat 0) rfl
  have hissue := rilIssue_commit (first := first) (last := last) (port := port) hd (by rw [hmod]; exact hidle.1 _ hq) hrun hkind hclt
  rw [hmod] at hissue
  have hhead := (rilHead_ready (q := 2 * hn iss.half + port) (k := 1) (f := F.RIL_CNTB_ISSUED) (a := A.RIL_CNTB rill.toNat) (by simp) rfl
    hrill hrun rfl).2.1 hop hkind hok
  obtain ⟨G, hG, hend⟩ := issue_headed (rel := false) (step := fun G => execCommitCmd G (2 * hn iss.half + port) rill.toNat _) hidle hq hissue hhead
  exact ⟨_, G, ⟨hnew, hfirst, hlast, rfl, rfl⟩, hG, hend⟩

include hroom

/-- A COMMIT whose ring lies in its own half. -/
theorem commit_lands (hm : d.ms.marks = []) (hhalf : ringHalf d rill.toNat = hn iss.half)
    (hone : inOneMemory d (headerAt d rill.toNat (rilDone d rill.toNat)) 64 = true) :
    ∃ G slab, CommitDone rill.toNat (makeHeader d rill.toNat (first == 1#1) (last == 1#1)
      (fget d (A.RIL_GEN rill.toNat) F.RIL_GEN_MBNEXT + curStep d <<< 32) (newTag d) slab) slab (last == 1#1) G
        (rilIssue e iss port (.commit rill 0#12 1#1 first last)) ∧
      slab = (if first = 1#1 then 0 else fget d (A.RIL_GEN rill.toNat) F.RIL_GEN_SLABNEXT) ∧
      Leaves [.ril, .gov] (these [A.RIL_CNTB rill.toNat]) d G ∧ rilIssued G rill.toNat = (rilIssued d rill.toNat + 1) % 2 ^ 32 ∧
      rilFreed G rill.toNat = rilFreed d rill.toNat := by
  have ha : A.RIL_CNTB rill.toNat ∈ [A.RIL_CNTA rill.toNat, A.RIL_CNTB rill.toNat] := by simp
  obtain ⟨c, G, hc, hG, hend⟩ := commit_headed (first := first) (last := last) hd hport hidle hrun hkind hok hclt
  have hl := hG.head.leaves
  have hlive := hG.live
  have hissued : rilIssued G rill.toNat = (rilIssued d rill.toNat + 1) % 2 ^ 32 := hG.self (by decide)
  have hfreed : rilFreed G rill.toNat = rilFreed d rill.toNat := hG.beside (by decide) (by decide) (by decide)
  have hdone : rilDone G rill.toNat = rilDone d rill.toNat := hl.2.fget (gen_apart ha).2.1 _
  have hmG : G.ms.marks = [] := by rw [hl.1 .ms (by simp)]; exact hm
  have hplain : plainMem G (headerAt G rill.toNat (rilDone G rill.toNat)) 64 := by
    rw [headerAt_of_live hlive, hdone, plainMem_of_stackCh (d := d) fun s hs => hl.2.fget (these_apart (by
      simp only [A.STK_CAP, A.RIL_CNTB]; omega)) _]
    exact inOneMemory_plain hone
  have hexec := execCommitCmd_lands (d := G) (q := 2 * hn iss.half + port) (n := rill.toNat) hc.new
    (by rw [hG.head.cross]; exact hidle.2) (by rw [hdone, hfreed, rilSlots_of_live hlive]; exact hroom)
    (by rw [ringHalf_of_live hlive, hhalf]; omega)
  have hhdr : ownHeader G rill.toNat c = makeHeader d rill.toNat (first == 1#1) (last == 1#1)
      (fget d (A.RIL_GEN rill.toNat) F.RIL_GEN_MBNEXT + curStep d <<< 32) (newTag d) (rcSlab G rill.toNat c) :=
    makeHeader_ready hl (by simp) (gen_apart ha) hc.first hc.last hc.step hc.tag (hl.2.fget (gen_apart ha).1 _)
  have hlen : (ownHeader G rill.toNat c).length = 64 := makeHeader_length ..
  have hdoneAll := commitDone_ended rill.isLt rfl hlen hmG hplain
    (hend _ hexec (congrArg Ril.queues (commit_ril G rill.toNat _ _ _ rill.isLt hlen hmG hplain)))
  rw [hhdr, hc.last] at hdoneAll
  exact ⟨G, rcSlab G rill.toNat c, hdoneAll, rcSlab_ready hl ha hc.first, hl, hissued, hfreed⟩

/-- What a COMMIT to a ring of the other half leaves. -/
structure CommitCrosses (n slab : Nat) (last : Bool) (hdr : List Byte) (d u : Dev) : Prop where
  leaves : Leaves [.ril, .gov] (isRill n) d u
  cross : u.ril.cross = [⟨d.now + sc 24, n, hdr⟩]
  prod : rilProd u n = rilProd d n
  issued : rilIssued u n = (rilIssued d n + 1) % 2 ^ 32
  done : rilDone u n = rilDone d n
  slabnext : fget u (A.RIL_GEN n) F.RIL_GEN_SLABNEXT = (slab + 1) % 2 ^ 16

theorem commit_crosses (hhalf : ringHalf d rill.toNat ≠ hn iss.half) :
    ∃ slab, slab = (if first = 1#1 then 0 else fget d (A.RIL_GEN rill.toNat) F.RIL_GEN_SLABNEXT) ∧
      CommitCrosses rill.toNat slab (last == 1#1) (makeHeader d rill.toNat (first == 1#1) (last == 1#1)
        (fget d (A.RIL_GEN rill.toNat) F.RIL_GEN_MBNEXT + curStep d <<< 32) (newTag d) slab) d
        (rilIssue e iss port (.commit rill 0#12 1#1 first last)) := by
  have ha : A.RIL_CNTB rill.toNat ∈ [A.RIL_CNTA rill.toNat, A.RIL_CNTB rill.toNat] := by simp
  obtain ⟨c, G, hc, hG, hend⟩ := commit_headed (first := first) (last := last) hd hport hidle hrun hkind hok hclt
  have hl := hG.head.leaves
  have hlive := hG.live
  have hissued : rilIssued G rill.toNat = (rilIssued d rill.toNat + 1) % 2 ^ 32 := hG.self (by decide)
  have hfreed : rilFreed G rill.toNat = rilFreed d rill.toNat := hG.beside (by decide) (by decide) (by decide)
  have hdone : rilDone G rill.toNat = rilDone d rill.toNat := hl.2.fget (gen_apart ha).2.1 _
  have hexec := execCommitCmd_crosses (d := G) (q := 2 * hn iss.half + port) (n := rill.toNat) hc.new
    (by rw [hG.head.cross]; exact hidle.2) (by rw [hdone, hfreed, rilSlots_of_live hlive]; exact hroom)
    (by rw [ringHalf_of_live hlive]; omega)
  have hhdr : ownHeader G rill.toNat c = makeHeader d rill.toNat (first == 1#1) (last == 1#1)
      (fget d (A.RIL_GEN rill.toNat) F.RIL_GEN_MBNEXT + curStep d <<< 32) (newTag d) (rcSlab G rill.toNat c) :=
    makeHeader_ready hl (by simp) (gen_apart ha) hc.first hc.last hc.step hc.tag (hl.2.fget (gen_apart ha).1 _)
  rw [hhdr, hc.last] at hexec
  obtain ⟨slab, hslab⟩ : ∃ slab, rcSlab G rill.toNat c = slab := ⟨_, rfl⟩
  rw [hslab] at hexec
  obtain ⟨hdr, hhdr'⟩ : ∃ hdr, makeHeader d rill.toNat (first == 1#1) (last == 1#1)
      (fget d (A.RIL_GEN rill.toNat) F.RIL_GEN_MBNEXT + curStep d <<< 32) (newTag d) slab = hdr := ⟨_, rfl⟩
  rw [hhdr'] at hexec
  obtain ⟨C, hC⟩ : ∃ C, rilCrossing G rill.toNat hdr = C := ⟨_, rfl⟩
  have hCl : Leaves [.ril] (fun _ => false) G C := by
    rw [← hC]
    exact (leaves_withRil_iff (by simp)).2 leaves_self
  have hCx : C.ril.cross = [⟨d.now + sc 24, rill.toNat, hdr⟩] := by
    have hx : G.ril.cross = [] := hG.head.cross.trans hidle.2
    have hnow : G.now = d.now := (hl.1 .clock (by simp)).1
    rw [← hC, ← hnow]
    change G.ril.cross ++ _ = _
    rw [hx]
    rfl
  have hCq : C.ril.queues = G.ril.queues := by rw [← hC]; rfl
  rw [hC] at hexec
  have hsl : Leaves [] (these [A.RIL_GEN rill.toNat]) C (noteSlab C rill.toNat slab (last == 1#1)) :=
    (leaves_noteSlab_iff (by simp)).2 leaves_self
  have hu := hend _ hexec ((congrArg Ril.queues (hsl.1 .ril (by simp))).trans hCq)
  have hf {b : Nat} (hb : b ≠ A.RIL_GEN rill.toNat) (g : Fld) :
      fget (rilIssue e iss port (.commit rill 0#12 1#1 first last)) b g = fget G b g := by
    rw [hu.fget, hsl.2.fget (these_apart hb), hCl.2.fget rfl]
  have hne : A.RIL_CNTA rill.toNat ≠ A.RIL_GEN rill.toNat ∧ A.RIL_CNTB rill.toNat ≠ A.RIL_GEN rill.toNat ∧
      A.RIL_CNTC rill.toNat ≠ A.RIL_GEN rill.toNat ∧ A.RIL_CNTA rill.toNat ≠ A.RIL_CNTB rill.toNat := by
    simp only [A.RIL_CNTA, A.RIL_GEN, A.RIL_CNTB, A.RIL_CNTC]
    omega
  refine ⟨slab, hslab ▸ rcSlab_ready hl ha hc.first, ?_⟩
  rw [hhdr']
  refine ⟨?_, ?_, (hf hne.1 _).trans (hl.2.fget (these_apart hne.2.2.2) _), (hf hne.2.1 _).trans hissued, (hf hne.2.2.1 _).trans hdone,
    (hu.fget _ _).trans (noteSlab_counts ..).1⟩
  · have h1 : Leaves [.ril, .gov] (isRill rill.toNat) d G := hl.weaken (by simp) fun b hb => isRill_of_these ha hb
    have h2 : Leaves [.ril, .gov] (isRill rill.toNat) C (noteSlab C rill.toNat slab (last == 1#1)) :=
      (leaves_noteSlab_iff (isRill_counts _).2.2.2).2 leaves_self
    exact h1.trans ((hCl.weaken (by simp) fun _ _ => rfl).trans (h2.trans (hu.leaves.weaken (by simp) fun _ _ => rfl)))
  · rw [hu.cross, hsl.1 .ril (by simp)]
    exact hCx

end commit

/-! ### Messages to the peer (R240, R246) -/

theorem isRill_low {b : Nat} (hb : b < 0x800000) (hc : isCounter b = false) : isRill n b = false := by
  rw [isRill, hc, Bool.false_or, Bool.eq_false_iff, ne_eq, these_iff]
  simp only [A.RIL_CNTA, A.RIL_CNTB, A.RIL_CNTC, A.RIL_GEN, A.POL_STS, List.mem_cons, List.not_mem_nil, or_false]
  omega

section peer
variable {D : Dev} (hl : Leaves [.ms, .ril, .gov] (isRill n) d D)
include hl

theorem rilMsg_of_leaves (mtype epoch w2 : Nat) (data : List Byte) : rilMsg D n mtype epoch w2 data = rilMsg d n mtype epoch w2 data := by
  have hown : ownChip D = ownChip d := hl.2.fget (isRill_low (by decide) (by decide)) _
  have httl : initTtl D = initTtl d := congrArg (max · 1) (hl.2.fget (isRill_low (by decide) (by decide)) _)
  simp only [rilMsg, liveGet_of_leaves hl (by simp), hown, httl]

theorem carries_of_leaves {q : Nat} (hq : q < 8) (v : Nat) : carries D q v = carries d q v := by
  have hpsts (f : Fld) : fget D (A.HRM_PSTS q) f = fget d (A.HRM_PSTS q) f :=
    hl.2.fget (isRill_low (by simp only [A.HRM_PSTS]; omega) (not_isCounter_port hq (isPort_psts q))) f
  have hst : lstate D q = lstate d q := hpsts _
  have hrun : dataRuns D q = dataRuns d q := congrArg (fun x => decide (x = 1)) (hpsts _)
  rw [carries, carries, hst, hrun, hl.1 .mach (by simp)]

/-- A message to the peer of a context, whose port carries it. -/
theorem rilSend_carried {m : Msg} {q : Nat} (hq : liveGet d (A.RIL_PEER n) F.RIL_PEER_PORT = q) (hquiet : quiet d)
    (hc : carries d q m.vc = true) : rilSend D n m = enqueue D q m (some n) := by
  have hq8 : q < 8 := hq ▸ bits_lt _ _ _
  rw [rilSend, liveGet_of_leaves hl (by simp), hq]
  exact sendBy_carried (quiet_of_leaves hquiet (isRill_low (by decide) (by decide)) (isRill_low (by decide) (by decide)) hl)
    ((carries_of_leaves hl hq8 _).trans hc)

/-- The queue of a port that a message has joined. -/
theorem enqueue_queue (m : Msg) (ctx : Option Nat) (q : Nat) :
    (portOf (enqueue D q m ctx) q).queue = (portOf d q).queue ++ [⟨(portOf d q).nextId, m, 0, ctx⟩] := by
  have hx : portOf D q = portOf d q := by rw [portOf, hl.1 .ports (by simp)]; rfl
  rw [enqueue_port, hx]

end peer

theorem leaves_enqueue (d : Dev) (q : Nat) (m : Msg) (ctx : Option Nat) : Leaves [.ports] p d (enqueue d q m ctx) :=
  (leaves_modPort_iff (by simp)).2 leaves_self

theorem Ended.port {Y u : Dev} (h : Ended Y u) (q : Nat) : portOf u q = portOf Y q := by
  rw [portOf, h.leaves.1 .ports (by simp)]
  rfl

/-! ### RELEASE -/

section release
variable {iss : Issue} {port : Nat} {rill : BitVec 12} {cnt : BitVec 8}
  (hd : landCommits (settle (tick e iss.t)) = d) (hport : port < 2) (hidle : rilIdle d) (hrun : running d (.ril rill.toNat) = true)
  (hkind : rilKind d rill.toNat ≤ 1) (hok : rilPortOk d (2 * hn iss.half + port) rill.toNat true = true)
include hd hport hidle hrun hkind hok

theorem release_headed : ∃ c G, rcCount c = cnt.toNat + 1 ∧
    Headed rill.toNat (2 * hn iss.half + port) (A.RIL_CNTA rill.toNat) F.RIL_CNTA_CONS (cnt.toNat + 1) c d G ∧
    ∀ Y, execReleaseCmd G (2 * hn iss.half + port) rill.toNat c = .done Y → Y.ril.queues = G.ril.queues →
      Ended Y (rilIssue e iss port (.release rill cnt)) := by
  have hq : 2 * hn iss.half + port < 4 := by have := hn_lt_two iss.half; omega
  have hmod : port % 2 = port := Nat.mod_eq_of_lt hport
  obtain ⟨hrill, hop, hcount⟩ := release_fields (c := rilTaken d iss (.release rill cnt) rill.toNat 0) rfl
  have hissue := rilIssue_release (cnt := cnt) (port := port) hd (by rw [hmod]; exact hidle.1 _ hq) hrun hkind
  rw [hmod] at hissue
  have hhead := (rilHead_ready (q := 2 * hn iss.half + port) (k := cnt.toNat + 1) (f := F.RIL_CNTA_CONS) (a := A.RIL_CNTA rill.toNat)
    (by simp) rfl hrill hrun rfl).2.2 hop hkind hok
  obtain ⟨G, hG, hend⟩ := issue_headed (rel := true) (step := fun G => execReleaseCmd G (2 * hn iss.half + port) rill.toNat _) hidle hq
    hissue hhead
  exact ⟨_, G, hcount, hG, hend⟩

/-- What a RELEASE of `k` slabs leaves. -/
structure Released (n k : Nat) (d u : Dev) : Prop where
  leaves : Leaves [.ports, .ril, .gov] (isRill n) d u
  cons : rilCons u n = (rilCons d n + k) % 2 ^ 32
  freed : rilFreed u n = (rilFreed d n + k) % 2 ^ 32
  prod : rilProd u n = rilProd d n
  issued : rilIssued u n = rilIssued d n

theorem release_frees {q : Nat} (hq : liveGet d (A.RIL_PEER rill.toNat) F.RIL_PEER_PORT = q) (hquiet : quiet d)
    (hheld : ((cnt.toNat + 1 : Nat) : Int) ≤ signed 32 (sub32 (rilProd d rill.toNat) (rilFreed d rill.toNat)))
    (hc : rilKind d rill.toNat = 1 → carries d q 0 = true) :
    Released rill.toNat (cnt.toNat + 1) d (rilIssue e iss port (.release rill cnt)) ∧
      (portOf (rilIssue e iss port (.release rill cnt)) q).queue = if rilKind d rill.toNat = 1 then
        (portOf d q).queue ++ [⟨(portOf d q).nextId, rilMsg d rill.toNat 1 (rilRungen d rill.toNat) (cnt.toNat + 1) [], 0, some rill.toNat⟩]
      else (portOf d q).queue := by
  have ha : A.RIL_CNTA rill.toNat ∈ [A.RIL_CNTA rill.toNat, A.RIL_CNTB rill.toNat] := by simp
  obtain ⟨c, G, hcount, hG, hend⟩ := release_headed (cnt := cnt) hd hport hidle hrun hkind hok
  generalize rilIssue e iss port (.release rill cnt) = r at *
  have hne : A.RIL_CNTB rill.toNat ≠ A.RIL_CNTA rill.toNat := by simp only [A.RIL_CNTA, A.RIL_CNTB]; omega
  have hl := hG.head.leaves
  have hprod : rilProd G rill.toNat = rilProd d rill.toNat := hG.beside (by decide) (by decide) (by decide)
  have hcons : rilCons G rill.toNat = (rilCons d rill.toNat + (cnt.toNat + 1)) % 2 ^ 32 := hG.self (by decide)
  have hb (f : Fld) : fget G (A.RIL_CNTB rill.toNat) f = fget d (A.RIL_CNTB rill.toNat) f := hl.2.fget (these_apart hne) f
  obtain ⟨U, hU⟩ : ∃ U, rilCounted G rill.toNat (A.RIL_CNTB rill.toNat) F.RIL_CNTB_FREED (rcCount c) = U := ⟨_, rfl⟩
  have hexec := execReleaseCmd_frees (q := 2 * hn iss.half + port) (by rw [hcount, hprod, rilFreed, hb]; exact hheld) hU
  have hUl : Leaves [.gov] (these [A.RIL_CNTB rill.toNat]) G U := hU ▸ leaves_rilCounted ..
  have hUr : U.ril = G.ril := hUl.1 .ril (by simp)
  have hfreed : rilFreed U rill.toNat = (rilFreed d rill.toNat + (cnt.toNat + 1)) % 2 ^ 32 := by
    rw [rilFreed, ← hU, rilCounted, fget_rilShow, fget_finc_self _ _ (by decide), hb, hcount]
    rfl
  have hissued : rilIssued U rill.toNat = rilIssued d rill.toNat := by
    rw [rilIssued, ← hU, rilCounted, fget_rilShow, finc, fget_fset_apart _ _ _ _ _ _ (by decide) (by decide) (by decide), hb]
    rfl
  have hUa (f : Fld) : fget U (A.RIL_CNTA rill.toNat) f = fget G (A.RIL_CNTA rill.toNat) f := hUl.2.fget (these_apart hne.symm) f
  have hdU : Leaves [.ms, .ril, .gov] (isRill rill.toNat) d U :=
    (hl.weaken (by simp) fun b hb => isRill_of_these ha hb).trans
      (hUl.weaken (by simp) fun b hb => (isRill_of_access hb).2.2.1)
  have hdU' : Leaves [.ports, .ril, .gov] (isRill rill.toNat) d U :=
    (hl.weaken (by simp) fun b hb => isRill_of_these ha hb).trans
      (hUl.weaken (by simp) fun b hb => (isRill_of_access hb).2.2.1)
  rw [rilKind_of_live ((hUl.1 .live (by simp)).trans hG.live)] at hexec
  have hrel {Y : Dev} (hY : Leaves [.ports, .ril] (fun _ => false) U Y) (hu : Ended Y r) : Released rill.toNat (cnt.toNat + 1) d r := by
    have hf (b : Nat) (f : Fld) : fget r b f = fget U b f := (hu.fget b f).trans (hY.2.fget rfl f)
    exact ⟨hdU'.trans ((hY.weaken (by simp) fun _ _ => rfl).trans (hu.leaves.weaken (by simp) fun _ _ => rfl)),
      (hf _ _).trans ((hUa _).trans hcons), (hf _ _).trans hfreed, (hf _ _).trans ((hUa _).trans hprod), (hf _ _).trans hissued⟩
  by_cases hk : rilKind d rill.toNat = 1
  · rw [if_pos hk] at hexec ⊢
    obtain ⟨C, hC⟩ : ∃ C, credNoted U rill.toNat = C := ⟨_, rfl⟩
    rw [hC] at hexec
    have hCl : Leaves [.ril] (fun _ => false) U C := by
      rw [← hC]
      exact (leaves_withRil_iff (by simp)).2 leaves_self
    have hCq : C.ril.queues = U.ril.queues := by rw [← hC]; rfl
    have hdC : Leaves [.ms, .ril, .gov] (isRill rill.toNat) d C := hdU.trans (hCl.weaken (by simp) fun _ _ => rfl)
    have hrun : rilRungen C rill.toNat = rilRungen d rill.toNat := by
      refine (hCl.2.fget rfl _).trans ((hUl.2.fget (these_apart ?_) _).trans (hl.2.fget (these_apart ?_) _)) <;>
        simp only [A.RIL_CSTS, A.RIL_CNTA, A.RIL_CNTB] <;> omega
    rw [hrun, hcount, rilMsg_of_leaves hdC, rilSend_carried hdC hq hquiet (hc hk)] at hexec
    have hel := leaves_enqueue (p := fun _ => false) C q (rilMsg d rill.toNat 1 (rilRungen d rill.toNat) (cnt.toNat + 1) []) (some rill.toNat)
    have hu := hend _ hexec ((congrArg Ril.queues (hel.1 .ril (by simp))).trans (hCq.trans (congrArg Ril.queues hUr)))
    refine ⟨hrel ((hCl.widen (by simp)).trans (hel.widen (by simp))) hu, ?_⟩
    rw [hu.port]
    exact enqueue_queue hdC _ _ _
  · rw [if_neg hk] at hexec ⊢
    have hu := hend _ hexec (congrArg Ril.queues hUr)
    refine ⟨hrel leaves_self hu, ?_⟩
    rw [hu.port, portOf, hdU.1 .ports (by simp)]
    rfl

end release

/-! ### SEND -/

section send
variable {iss : Issue} {port : Nat} {rill : BitVec 12} {desc : BitVec 10} {first last : BitVec 1}
  (hd : landCommits (settle (tick e iss.t)) = d) (hport : port < 2) (hidle : rilIdle d) (hrun : running d (.ril rill.toNat) = true)
  (hkind : rilKind d rill.toNat = 2) (hok : rilPortOk d (2 * hn iss.half + port) rill.toNat false = true)
include hd hport hidle hrun hkind hok

theorem send_headed : ∃ c G, c = rilTaken d iss (.send rill desc 0#12 1#1 first last) rill.toNat
      (rilStride d (hn iss.half) iss.strand desc.toNat) ∧ OwnHeader first last d c ∧
    Headed rill.toNat (2 * hn iss.half + port) (A.RIL_CNTB rill.toNat) F.RIL_CNTB_ISSUED 1 c d G ∧
    ∀ Y, execSendCmd G (2 * hn iss.half + port) rill.toNat c = .done Y → Y.ril.queues = G.ril.queues →
      Ended Y (rilIssue e iss port (.send rill desc 0#12 1#1 first last)) := by
  have hq : 2 * hn iss.half + port < 4 := by have := hn_lt_two iss.half; omega
  have hmod : port % 2 = port := Nat.mod_eq_of_lt hport
  obtain ⟨hrill, hop, hnew, -, hfirst, hlast, -⟩ := send_fields (c := rilTaken d iss (.send rill desc 0#12 1#1 first last) rill.toNat
    (rilStride d (hn iss.half) iss.strand desc.toNat)) rfl
  have hissue := rilIssue_send (desc := desc) (first := first) (last := last) (port := port) hd (by rw [hmod]; exact hidle.1 _ hq) hrun hkind
  rw [hmod] at hissue
  have hhead := (rilHead_ready (q := 2 * hn iss.half + port) (k := 1) (f := F.RIL_CNTB_ISSUED) (a := A.RIL_CNTB rill.toNat) (by simp) rfl
    hrill hrun rfl).1 hop hkind hok
  obtain ⟨G, hG, hend⟩ := issue_headed (rel := false) (step := fun G => execSendCmd G (2 * hn iss.half + port) rill.toNat _) hidle hq hissue hhead
  exact ⟨_, G, rfl, ⟨hnew, hfirst, hlast, rfl, rfl⟩, hG, hend⟩

/-- What a SEND that starts leaves. -/
structure SendStarted (n q slab : Nat) (d u : Dev) : Prop where
  leaves : Leaves [.ports, .ms, .ril, .gov] (isRill n) d u
  issued : rilIssued u n = (rilIssued d n + 1) % 2 ^ 32
  grant : rilGrant u n = rilGrant d n
  sends : u.ril.sends = d.ril.sends ++ [(n, q)]
  slabnext : fget u (A.RIL_GEN n) F.RIL_GEN_SLABNEXT = (slab + 1) % 2 ^ 16

theorem send_starts {q a : Nat} (hq : liveGet d (A.RIL_PEER rill.toNat) F.RIL_PEER_PORT = q) (hquiet : quiet d) (hm : d.ms.marks = [])
    (hsrc : sendSource d (hn iss.half) rill.toNat (rilTaken d iss (.send rill desc 0#12 1#1 first last) rill.toNat
      (rilStride d (hn iss.half) iss.strand desc.toNat)) = .ok a)
    (hcred : 1 ≤ signed 32 (sub32 (rilGrant d rill.toNat) (sget 0 rill.toNat d.ril.started)))
    (hroom : (d.ril.sends.filter (fun e => e.2 == 2 * hn iss.half + port)).length < 8) (hc : carries d q 0 = true) :
    ∃ slab, slab = (if first = 1#1 then 0 else fget d (A.RIL_GEN rill.toNat) F.RIL_GEN_SLABNEXT) ∧
      SendStarted rill.toNat (2 * hn iss.half + port) slab d (rilIssue e iss port (.send rill desc 0#12 1#1 first last)) ∧
      (portOf (rilIssue e iss port (.send rill desc 0#12 1#1 first last)) q).queue = (portOf d q).queue ++ [⟨(portOf d q).nextId,
        rilMsg d rill.toNat 0 (rilEpoch d rill.toNat) 0 (makeHeader d rill.toNat (first == 1#1) (last == 1#1)
          (fget d (A.RIL_GEN rill.toNat) F.RIL_GEN_MBNEXT + curStep d <<< 32) (newTag d) slab ++ memRead d.mem a (rilSize d rill.toNat)),
        0, some rill.toNat⟩] := by
  have ha : A.RIL_CNTB rill.toNat ∈ [A.RIL_CNTA rill.toNat, A.RIL_CNTB rill.toNat] := by simp
  obtain ⟨c, G, hceq, hown, hG, hend⟩ := send_headed (desc := desc) (first := first) (last := last) hd hport hidle hrun hkind hok
  rw [← hceq] at hsrc
  generalize rilIssue e iss port (.send rill desc 0#12 1#1 first last) = r at *
  have hl := hG.head.leaves
  have hlive := hG.live
  have hissued : rilIssued G rill.toNat = (rilIssued d rill.toNat + 1) % 2 ^ 32 := hG.self (by decide)
  have hgrant : rilGrant G rill.toNat = rilGrant d rill.toNat := hl.2.fget (gen_apart ha).2.1 _
  have hch (s : Nat) (hs : s < 8) : stackCh G s = stackCh d s :=
    hl.2.fget (these_apart (by simp only [A.STK_CAP, A.RIL_CNTB]; omega)) _
  have hhalf : (2 * hn iss.half + port) / 2 = hn iss.half := by omega
  have hsrcG : sendSource G ((2 * hn iss.half + port) / 2) rill.toNat c = .ok a := by
    rw [hhalf, sendSource_congr (hl.1 .tables (by simp)) hlive hch]
    exact hsrc
  obtain ⟨hbytes, hpools⟩ := qRead_plain (sendSource_plain hsrcG) (by rw [hl.1 .ms (by simp)]; exact hm)
  obtain ⟨R, hR⟩ : ∃ R, (qRead G a (rilSize G rill.toNat)).1 = R := ⟨_, rfl⟩
  rw [hR] at hpools
  have hsrcbytes : memRead G.mem a (rilSize G rill.toNat) = memRead d.mem a (rilSize d rill.toNat) := by
    rw [rilSize_of_live hlive]
    exact memRead_congr fun i _ => hl.1 .mem (by simp) _
  have hread : qGet G a (rilSize G rill.toNat) = (R, memRead d.mem a (rilSize d rill.toNat)) := by
    rw [qGet, hbytes, hR, hsrcbytes]
    rfl
  have hRl : Leaves [.ms] isAccess G R := hpools.leaves
  have hRr : R.ril = G.ril := hRl.1 .ril (by simp)
  have hexec := execSendCmd_sends (q := 2 * hn iss.half + port) hsrcG (by rw [hgrant, hG.head.started]; exact hcred)
    (by rw [hG.head.sends]; exact hroom) hown.new hread (by rw [hRr])
  have hdR : Leaves [.ms, .ril, .gov] (isRill rill.toNat) d R :=
    (hl.weaken (by simp) fun b hb => isRill_of_these ha hb).trans (hRl.weaken (by simp) fun b hb => isAccess_of_isRill hb)
  have hRc (b : Nat) (h1 : 0x810000 + 0x40 * rill.toNat ≤ b) (h2 : b < 0x810040 + 0x40 * rill.toNat) (f : Fld) : fget R b f = fget G b f :=
    hRl.2.fget (isAccess_rill rill.isLt h1 h2) f
  have hlR : Leaves [.ms, .ril, .gov] (fun b => isAccess b || these [A.RIL_CNTB rill.toNat] b) d R :=
    (hl.weaken (by simp) fun b hb => (Bool.or_eq_false_iff.1 hb).2).trans (hRl.weaken (by simp) fun b hb => (Bool.or_eq_false_iff.1 hb).1)
  obtain ⟨hg1, hg2, hg3, hg4⟩ := gen_apart ha
  have hgen : isAccess (A.RIL_GEN rill.toNat) = false := isAccess_rill rill.isLt (by simp only [A.RIL_GEN]; omega) (by simp only [A.RIL_GEN]; omega)
  have hcntc : isAccess (A.RIL_CNTC rill.toNat) = false := isAccess_rill rill.isLt (by simp only [A.RIL_CNTC]; omega) (by simp only [A.RIL_CNTC]; omega)
  have hhdr := makeHeader_ready (slab := rcSlab G rill.toNat c) hlR (by simp) ⟨by rw [hgen, hg1]; rfl, by rw [hcntc, hg2]; rfl, by rw [hg3]; decide, by rw [hg4]; decide⟩
    hown.first hown.last hown.step hown.tag (mb := fget G (A.RIL_GEN rill.toNat) F.RIL_GEN_MBNEXT) (hl.2.fget hg1 _)
  rw [hhdr, hown.last] at hexec
  obtain ⟨slab, hslab⟩ : ∃ slab, rcSlab G rill.toNat c = slab := ⟨_, rfl⟩
  rw [hslab] at hexec
  obtain ⟨C, hC⟩ : ∃ C, sendNoted R rill.toNat (2 * hn iss.half + port) = C := ⟨_, rfl⟩
  have hCl : Leaves [.ril] (fun _ => false) R C := by
    rw [← hC]
    exact (leaves_withRil_iff (by simp)).2 leaves_self
  have hCq : C.ril.queues = R.ril.queues := by rw [← hC]; rfl
  have hCs : C.ril.sends = d.ril.sends ++ [(rill.toNat, 2 * hn iss.half + port)] := by
    rw [← hG.head.sends, ← hRr, ← hC]
    rfl
  have hdC : Leaves [.ms, .ril, .gov] (isRill rill.toNat) d C := hdR.trans (hCl.weaken (by simp) fun _ _ => rfl)
  have hepoch : rilEpoch C rill.toNat = rilEpoch d rill.toNat :=
    (hCl.2.fget rfl _).trans ((hRl.2.fget hgen _).trans (hl.2.fget hg1 _))
  have hsl : Leaves [] (these [A.RIL_GEN rill.toNat]) C (noteSlab C rill.toNat slab (last == 1#1)) :=
    (leaves_noteSlab_iff (by simp)).2 leaves_self
  have hdS : Leaves [.ms, .ril, .gov] (isRill rill.toNat) d (noteSlab C rill.toNat slab (last == 1#1)) :=
    (leaves_noteSlab_iff (isRill_counts _).2.2.2).2 hdC
  rw [hC, hepoch, rilMsg_of_leaves hdC, rilSend_carried hdS hq hquiet hc] at hexec
  obtain ⟨hslabnext, -⟩ := noteSlab_counts C rill.toNat slab (last == 1#1)
  generalize noteSlab C rill.toNat slab (last == 1#1) = S at *
  have hel (m : Msg) := leaves_enqueue (p := fun _ => false) S q m (some rill.toNat)
  have hu := hend _ hexec ((congrArg Ril.queues ((hel _).1 .ril (by simp))).trans
    ((congrArg Ril.queues (hsl.1 .ril (by simp))).trans (hCq.trans (congrArg Ril.queues hRr))))
  have hS (b : Nat) (f : Fld) : fget r b f = fget S b f := (hu.fget b f).trans ((hel _).2.fget rfl f)
  have hne : A.RIL_CNTB rill.toNat ≠ A.RIL_GEN rill.toNat ∧ A.RIL_CNTC rill.toNat ≠ A.RIL_GEN rill.toNat := by
    simp only [A.RIL_GEN, A.RIL_CNTB, A.RIL_CNTC]
    omega
  refine ⟨slab, hslab ▸ rcSlab_ready hl ha hown.first, ⟨?_, ?_, ?_, ?_, (hS _ _).trans hslabnext⟩, ?_⟩
  · exact (hdS.widen (by simp)).trans (((hel _).weaken (by simp) fun _ _ => rfl).trans (hu.leaves.weaken (by simp) fun _ _ => rfl))
  · rw [rilIssued, hS, hsl.2.fget (these_apart hne.1), hCl.2.fget rfl,
      hRc _ (by simp only [A.RIL_CNTB]; omega) (by simp only [A.RIL_CNTB]; omega)]
    exact hissued
  · rw [rilGrant, hS, hsl.2.fget (these_apart hne.2), hCl.2.fget rfl,
      hRc _ (by simp only [A.RIL_CNTC]; omega) (by simp only [A.RIL_CNTC]; omega)]
    exact hgrant
  · rw [hu.sends, (hel _).1 .ril (by simp), hsl.1 .ril (by simp)]
    exact hCs
  · rw [hu.port]
    exact enqueue_queue hdS _ _ _

end send

/-! ### COMMITs that cross the bridge (R227) -/

theorem leaves_withNow_iff {t : Nat} (h : Piece.clock ∈ ps) : Leaves ps p d (e.withNow t) ↔ Leaves ps p d e :=
  leaves_part .clock h rfl fun y hy => by cases y <;> simp_all [Piece.same]

/-- The package at the moment a COMMIT lands, with none under way. -/
def landingAt (d : Dev) (t : Nat) : Dev := (d.withRil { d.ril with cross := [] }).withNow t

theorem leaves_landingAt (d : Dev) (t : Nat) : Leaves [.clock, .ril] p d (landingAt d t) :=
  (leaves_withNow_iff (by simp)).2 ((leaves_withRil_iff (by simp)).2 leaves_self)

/-- The package once a COMMIT has landed, its change on the way to the sequencers. -/
def landedAt (d : Dev) (e : RilCross) : Dev := rilShow (rilLanded (landingAt d e.due) e.ctx e.header) e.ctx

theorem landCommits_one {x : RilCross} (hx : d.ril.cross = [x]) (hdue : x.due ≤ d.now) : landCommits d = (landedAt d x).withNow d.now := by
  have h1 : [x].filter (fun e => decide (e.due ≤ d.now)) = [x] := by simp [hdue]
  have h2 : [x].filter (fun e => decide (d.now < e.due)) = [] := by simp [Nat.not_lt.2 hdue]
  unfold landCommits
  rw [hx, h1, h2]
  rfl

/-- What has been shown reaches the sequencers 25 sc later. -/
theorem rilShow_pend (d : Dev) (n : Nat) {x : GovEvent} (hx : x ∈ (rilShow d n).pend) : x ∈ d.pend ∨ x.due = d.now + sc 25 := by
  have h (e : Dev) (k : GovKey) (v w : Nat) (hx : x ∈ (if w = v then e else govSet e k v).pend) :
      x ∈ e.pend ∨ x.due = e.now + sc 25 := by
    split at hx
    · exact .inl hx
    · change x ∈ e.pend ++ [_] at hx
      obtain hx | hx := List.mem_append.1 hx
      · exact .inl hx
      · rw [List.mem_singleton.1 hx]
        exact .inr rfl
  have hnow (e : Dev) (k : GovKey) (v w : Nat) : (if w = v then e else govSet e k v).now = e.now := by split <;> rfl
  unfold rilShow at hx
  obtain hx | hx := h _ _ _ _ hx
  · exact h _ _ _ _ hx
  · exact .inr (hx.trans (congrArg (· + sc 25) (hnow ..)))

theorem observeAll_none (h : ∀ x ∈ d.pend, d.now < x.due) (m : Nat) : observeAll m d = d := by
  cases m with
  | zero => rfl
  | succ m =>
    rw [observeAll, List.find?_eq_none.2]
    intro x hx
    simpa using h x hx

/-- A frame that excepts the clock, where the clock stands as before. -/
theorem Leaves.clock {u : Dev} (h : Leaves (.clock :: ps) p d u) (hnow : u.now = d.now) (hfresh : u.fresh = d.fresh)
    (hsid : u.sidPrev = d.sidPrev) : Leaves ps p d u := by
  refine ⟨fun x hx => ?_, h.2⟩
  by_cases hc : x = .clock
  · subst hc
    exact ⟨hnow, hfresh, hsid⟩
  · exact h.1 x (by simp [hc, hx])

/-- What a COMMIT that lands leaves of the package it was under way in. -/
structure Crossed (x : RilCross) (d u : Dev) : Prop where
  leaves : Leaves [.mem, .ms, .ril, .gov] (isRill x.ctx) d u
  cross : u.ril.cross = []
  prod : rilProd u x.ctx = (rilProd d x.ctx + 1) % 2 ^ 32
  done : rilDone u x.ctx = (rilDone d x.ctx + 1) % 2 ^ 32
  header : memRead u.mem (headerAt d x.ctx (rilDone d x.ctx)) 64 = x.header
  apart : ∀ b, (b < headerAt d x.ctx (rilDone d x.ctx) ∨ headerAt d x.ctx (rilDone d x.ctx) + 64 ≤ b) →
    memGet u.mem b = memGet d.mem b
  obs : u.obs = d.obs
  pend : ∀ g ∈ u.pend, g ∈ d.pend ∨ g.due = x.due + sc 25

theorem withNow_fget (d : Dev) (t a : Nat) (f : Fld) : fget (d.withNow t) a f = fget d a f := rfl

theorem withNow_same (d : Dev) (t : Nat) : (d.withNow t).ril = d.ril ∧ (d.withNow t).mem = d.mem ∧ (d.withNow t).obs = d.obs ∧
    (d.withNow t).pend = d.pend := ⟨rfl, rfl, rfl, rfl⟩

theorem rilShow_obs (d : Dev) (n : Nat) : (rilShow d n).obs = d.obs := by
  unfold rilShow
  simp only
  split <;> split <;> rfl

theorem crossed_landCommits {x : RilCross} (hn : x.ctx < 4096) (hx : d.ril.cross = [x]) (hdue : x.due ≤ d.now) (hlen : x.header.length = 64)
    (hm : d.ms.marks = []) (hone : inOneMemory d (headerAt d x.ctx (rilDone d x.ctx)) 64 = true) : Crossed x d (landCommits d) := by
  rw [landCommits_one hx hdue, landedAt]
  have hBl := leaves_landingAt (p := fun _ => false) d x.due
  have hBr : (landingAt d x.due).ril.cross = [] := rfl
  have hBnow : (landingAt d x.due).now = x.due := rfl
  have hBsame : (landingAt d x.due).pend = d.pend ∧ (landingAt d x.due).obs = d.obs := ⟨rfl, rfl⟩
  have hBfresh : (landingAt d x.due).fresh = d.fresh ∧ (landingAt d x.due).sidPrev = d.sidPrev := ⟨rfl, rfl⟩
  generalize landingAt d x.due = B at *
  have hlive : B.live = d.live := hBl.1 .live (by simp)
  have hdone : rilDone B x.ctx = rilDone d x.ctx := hBl.2.fget rfl _
  have hhdr : headerAt B x.ctx (rilDone B x.ctx) = headerAt d x.ctx (rilDone d x.ctx) := by rw [headerAt_of_live hlive, hdone]
  have hL := landed_rilLanded hn hlen (d := B) (by rw [hBl.1 .ms (by simp)]; exact hm) (by
    rw [hhdr, plainMem_of_stackCh (d := d) fun s _ => hBl.2.fget rfl _]
    exact inOneMemory_plain hone)
  generalize rilLanded B x.ctx x.header = L at *
  obtain ⟨hLl, hprod, hdone', hread, hapart⟩ := hL
  rw [hhdr] at hread hapart
  obtain ⟨hUr, hUm, hUo, hUp⟩ := withNow_same (rilShow L x.ctx) d.now
  have hf (a : Nat) (f : Fld) : fget ((rilShow L x.ctx).withNow d.now) a f = fget L a f := (withNow_fget ..).trans (fget_rilShow ..)
  have hLg : L.pend = B.pend ∧ L.obs = B.obs := hLl.1 .gov (by simp)
  refine ⟨?_, ?_, (hf _ _).trans (hprod.trans (congrArg (fun v => (v + 1) % 2 ^ 32) (hBl.2.fget rfl _))),
    (hf _ _).trans (hdone'.trans (by rw [hdone])), ?_, fun b hb => ?_, ?_, fun g hg => ?_⟩
  · have hL' : Leaves [.clock, .mem, .ms, .ril, .gov] (isRill x.ctx) d ((rilShow L x.ctx).withNow d.now) := by
      rw [leaves_withNow_iff (by simp), leaves_rilShow_iff (by simp)]
      refine (hBl.weaken (by simp) fun _ _ => rfl).trans (hLl.weaken (by simp) fun b hb => ?_)
      obtain ⟨h1, h2, -, h4, -⟩ := isRill_of_access hb
      simp only [these, List.contains_cons, List.contains_nil, Bool.or_false] at h1 h2 h4 ⊢
      rw [h1, h2, h4]
      rfl
    obtain ⟨-, hSf, hSs⟩ := (leaves_rilShow L x.ctx).1 .clock (by simp)
    obtain ⟨-, hLf, hLs⟩ := hLl.1 .clock (by simp)
    exact hL'.clock rfl (hSf.trans (hLf.trans hBfresh.1)) (hSs.trans (hLs.trans hBfresh.2))
  · rw [hUr, (leaves_rilShow L x.ctx).1 .ril (by simp), hLl.1 .ril (by simp)]
    exact hBr
  · rw [hUm, rilShow_mem]
    exact hread
  · rw [hUm, rilShow_mem]
    exact (hapart b hb).trans (hBl.1 .mem (by simp) b)
  · rw [hUo, rilShow_obs, hLg.2, hBsame.2]
  · rw [hUp] at hg
    obtain hg | hg := rilShow_pend L x.ctx hg
    · exact .inl (by rwa [hLg.1, hBsame.1] at hg)
    · exact .inr (hg.trans (congrArg (· + sc 25) (((hLl.1 .clock (by simp)).1).trans hBnow)))

end

/-- Settles O33: every command is followed from its issue to the head of its port and through its engine, and a COMMIT that has
crossed the bridge lands before anything that it shows is observed. -/
theorem rillCommandsTakeEffect : Obligations.RillCommandsTakeEffect := by
  unfold Obligations.RillCommandsTakeEffect
  refine ⟨?_, ?_⟩
  · intro iss port rill s d n q p x hidle hrun hm hquiet
    have hport : port.toNat < 2 := port.isLt
    refine ⟨?_, ?_, ?_, ?_⟩
    · intro first last hdr slab hkind hok hroom hclt hhalf hone
      obtain ⟨G, slab', hc, hslab, hl, hissued, hfreed⟩ := commit_lands (e := s.dev) (first := first) (last := last) rfl hport hidle hrun
        hkind hok hroom hclt hm hhalf hone
      have ha : A.RIL_CNTB n ∈ [A.RIL_CNTA n, A.RIL_CNTB n] := by simp
      have hdone : rilDone G n = rilDone d n := hl.2.fget (gen_apart ha).2.1 _
      have hhdr : headerAt G n (rilDone G n) = hdr := by rw [headerAt_of_live (hl.1 .live (by simp)), hdone]
      have hprod : rilProd G n = rilProd d n := hl.2.fget (these_apart (by simp only [A.RIL_CNTA, A.RIL_CNTB]; omega)) _
      have hmb : fget G (A.RIL_GEN n) F.RIL_GEN_MBNEXT = fget d (A.RIL_GEN n) F.RIL_GEN_MBNEXT := hl.2.fget (gen_apart ha).1 _
      have hframe := (hl.weaken (by simp) fun b hb => isRill_of_these ha hb).trans hc.leaves
      have hheader := hc.header
      have hapart := hc.apart
      have hmbnext := hc.mbnext
      rw [hhdr] at hheader hapart
      rw [hmb] at hmbnext
      simp only [beq_iff_eq] at hmbnext
      subst hslab
      exact ⟨_, rfl, hc.prod.trans (by rw [hprod]), hc.issued.trans hissued, hc.done.trans (by rw [hdone]), hc.freed.trans hfreed,
        hc.slabnext, hmbnext, hheader, fun b hb => (hapart b hb).trans (hl.1 .mem (by simp) b), hframe⟩
    · intro first last slab hkind hok hroom hclt hhalf
      obtain ⟨slab', hslab, hc⟩ := commit_crosses (e := s.dev) (first := first) (last := last) rfl hport hidle hrun hkind hok hroom hclt hhalf
      subst hslab
      exact ⟨_, rfl, hc.cross, hc.prod, hc.issued, hc.done, hc.slabnext, hc.leaves⟩
    · intro cnt k hkind hok hheld hcar
      obtain ⟨hr, hqueue⟩ := release_frees (e := s.dev) (cnt := cnt) rfl hport hidle hrun hkind hok rfl hquiet hheld hcar
      exact ⟨_, rfl, hr.cons, hr.freed, hr.prod, hr.issued, hqueue, hr.leaves⟩
    · intro desc first last a slab op hkind hok hsrc hcred hroom hcar
      obtain ⟨slab', hslab, hs, hqueue⟩ := send_starts (e := s.dev) (desc := desc) (first := first) (last := last) rfl hport hidle hrun
        hkind hok rfl hquiet hm hsrc hcred hroom hcar
      subst hslab
      exact ⟨_, rfl, hs.issued, hs.grant, hs.sends, hqueue, hs.slabnext, hs.leaves⟩
  · intro t s x d n hdr hn hx hdue hlen hone hm hearly hpend
    have hc := crossed_landCommits hn hx hdue hlen hm hone
    have heq : observe s.dev t = landCommits d := observeAll_none (fun g hg => ?_) _
    · exact ⟨_, next_congr rfl heq, hc.cross, hc.prod, hc.done, hc.header, hc.apart, hc.obs, hc.leaves⟩
    · have hnow : (landCommits d).now = d.now := (hc.leaves.1 .clock (by simp)).1
      obtain hg | hg := hc.pend g hg
      · rw [hpend] at hg
        cases hg
      · rw [hnow, hg]
        exact hearly

end Sys2Proof.Machine
end

section
/-! PROOFS. The aqueduct: transfers join their channel, move their bytes and complete (12, R427 to R436). -/

namespace Sys2Proof.Machine

section
variable {ps : List Piece} {p : Nat → Bool} {d e : Dev} {h c k q : Nat}

/-! ### What goes on without a command -/

/-- A change of the times from which bursts are ready, and of nothing else. -/
def ReadyOnly (d e : Dev) : Prop := ∃ r, e = d.withAqd { d.aqd with ready := r }

theorem ReadyOnly.refl (d : Dev) : ReadyOnly d d := ⟨d.aqd.ready, rfl⟩

theorem ReadyOnly.trans {u : Dev} (h : ReadyOnly d e) (g : ReadyOnly e u) : ReadyOnly d u := by
  obtain ⟨r, rfl⟩ := h
  obtain ⟨r', rfl⟩ := g
  exact ⟨r', rfl⟩

theorem ReadyOnly.leaves (h : ReadyOnly d e) : Leaves [.aqd] p d e := by
  obtain ⟨r, rfl⟩ := h
  exact (leaves_withAqd_iff (by simp)).2 leaves_self

theorem readyOnly_noteReady (d : Dev) (h c : Nat) : ReadyOnly d (noteReady d h c) := by
  unfold noteReady
  simp only
  split
  · exact ⟨_, rfl⟩
  · split
    · exact ⟨_, rfl⟩
    · exact ReadyOnly.refl d

theorem ReadyOnly.chanOf (h : ReadyOnly d e) (a c : Nat) : chanOf e a c = chanOf d a c := by
  obtain ⟨r, rfl⟩ := h
  rfl

theorem ReadyOnly.aqd (h : ReadyOnly d e) : e.aqd.chans = d.aqd.chans ∧ e.aqd.queues = d.aqd.queues ∧ e.aqd.reqs = d.aqd.reqs ∧
    e.aqd.since = d.aqd.since ∧ e.aqd.lastBurst = d.aqd.lastBurst := by
  obtain ⟨r, rfl⟩ := h
  exact ⟨rfl, rfl, rfl, rfl, rfl⟩

/-- A transfer for which nothing is left to be done until its next burst or its completion. -/
structure XferSettled (x : Xfer) : Prop where
  alive : x.dead = false
  back : xStarted x = true → xDspace x = 1 → x.readBack ≠ 0
  host : xHost x = false
  waits : x.waitHost = 0

/-- An aqueduct without queued commands, requests or discards. -/
structure Calm (d : Dev) : Prop where
  queues : ∀ q, q < 4 → aqdQueue d q = []
  reqs : d.aqd.reqs = []
  since : d.aqd.since = []

theorem Calm.of_ready (h : Calm d) (hr : ReadyOnly d e) : Calm e := by
  obtain ⟨-, hq, hreqs, hsince, -⟩ := hr.aqd
  refine ⟨fun q hq4 => ?_, hreqs.trans h.reqs, hsince.trans h.since⟩
  rw [aqdQueue, hq]
  exact h.queues q hq4

theorem aqdMove_empty {n : Nat} (hq : aqdQueue d q = []) : aqdMove q n d = d := by
  cases n with
  | zero => rfl
  | succ n => rw [aqdMove, hq]

theorem inFlight_calm (h : Calm d) (s : Nat) : inFlight d s = false := by
  rw [inFlight, h.reqs]
  rfl

theorem buryXfers_alive (ha : ∀ x ∈ chanOf d h c, x.dead = false) : buryXfers d h c = d := by
  have hall : (chanOf d h c).filter (fun x => !(x.dead && !inFlight d x.serial)) = chanOf d h c :=
    List.filter_eq_self.2 fun x hx => by rw [ha x hx]; rfl
  simp only [buryXfers, hall]
  rfl

theorem aqdReadBack_none (hb : ∀ x ∈ chanOf d h c, xStarted x = true → xDspace x = 1 → x.readBack ≠ 0) : aqdReadBack d h c = d := by
  rw [aqdReadBack]
  generalize chanOf d h c = l at hb ⊢
  induction l with
  | nil => rfl
  | cons x l ih =>
    rw [List.foldl_cons, if_neg]
    · exact ih fun y hy => hb y (by simp [hy])
    · rintro hx
      simp only [Bool.and_eq_true, beq_iff_eq] at hx
      exact hb x (by simp) hx.1.1.1.2 hx.1.2 hx.1.1.2

/-- What is left of the tidying of a channel without requests or discards. -/
theorem chanTidy_calm (hcalm : Calm d) (hx : ∀ x ∈ chanOf d (k / 32) (k % 32), x.dead = false ∧
    (xStarted x = true → xDspace x = 1 → x.readBack ≠ 0)) :
    chanTidy d k = noteReady (noteHost d (k / 32) (k % 32)) (k / 32) (k % 32) := by
  have hsince : sget 0 k d.aqd.since = 0 := by rw [hcalm.since]; rfl
  simp only [chanTidy, hcalm.reqs, List.length_nil, aqdFlush, buryXfers_alive fun x h => (hx x h).1, aqdReadBack_none fun x h => (hx x h).2]
  rw [if_neg (by simp [hsince])]

theorem noteHost_settled (hx : ∀ x ∈ chanOf d h c, XferSettled x) : noteHost d h c = d := by
  unfold noteHost
  split
  · rfl
  · next x hn =>
    have hs := hx x (List.mem_of_find?_eq_some hn)
    simp [hs.host, hs.waits]

theorem chanTidy_settled (hcalm : Calm d) (hx : ∀ h c, ∀ x ∈ chanOf d h c, XferSettled x) : ReadyOnly d (chanTidy d k) := by
  rw [chanTidy_calm hcalm fun x h => ⟨(hx _ _ x h).alive, (hx _ _ x h).back⟩, noteHost_settled (hx _ _)]
  exact readyOnly_noteReady ..

theorem foldl_chanTidy_settled (hcalm : Calm d) (hx : ∀ h c, ∀ x ∈ chanOf d h c, XferSettled x) (l : List Nat) :
    ReadyOnly d (l.foldl chanTidy d) := by
  induction l generalizing d with
  | nil => exact ReadyOnly.refl d
  | cons k l ih =>
    rw [List.foldl_cons]
    have hstep : ReadyOnly d (chanTidy d k) := chanTidy_settled hcalm hx
    generalize chanTidy d k = e at hstep
    exact hstep.trans (ih (hcalm.of_ready hstep) fun h c x hmem => hx h c x (hstep.chanOf h c ▸ hmem))

/-- What `aqdRun` goes on with once the queues are empty. -/
theorem aqdRun_empty (hq : ∀ q, q < 4 → aqdQueue d q = []) : aqdRun d =
    ((d.aqd.chans.map Prod.fst ++ d.aqd.since.map Prod.fst ++ d.aqd.ready.map Prod.fst).eraseDups).foldl chanTidy d := by
  have hmoves : [0, 1, 2, 3].foldl (fun d q => aqdMove q (aqdQueue d q).length d) d = d := by
    simp only [List.foldl_cons, List.foldl_nil, aqdMove_empty (hq 0 (by decide)), aqdMove_empty (hq 1 (by decide)),
      aqdMove_empty (hq 2 (by decide)), aqdMove_empty (hq 3 (by decide))]
  simp only [aqdRun, hmoves]

/-- With nothing queued, requested or discarded, and every transfer settled, the aqueduct has nothing to go on with. -/
theorem aqdRun_settled (hcalm : Calm d) (hx : ∀ h c, ∀ x ∈ chanOf d h c, XferSettled x) : ReadyOnly d (aqdRun d) :=
  aqdRun_empty hcalm.queues ▸ foldl_chanTidy_settled hcalm hx _


/-! ### Once every land and row that is due has been settled, nothing is due any more -/

/-- The rows under way to the basins, and the time. -/
def rowsAt (d : Dev) : List RowApp × Nat := (d.cas.rows, d.now)

theorem rowsAt_congr (hc : e.cas = d.cas) (hn : e.now = d.now) : rowsAt e = rowsAt d := by rw [rowsAt, rowsAt, hc, hn]

theorem rowsAt_foldl {β : Type} {g : Dev → β → Dev} (hg : ∀ e b, rowsAt (g e b) = rowsAt e) (l : List β) (d : Dev) :
    rowsAt (l.foldl g d) = rowsAt d := by
  induction l generalizing d with
  | nil => rfl
  | cons b l ih => rw [List.foldl_cons, ih, hg]

theorem rowsAt_reportEvents (d : Dev) (half : Nat) (gp : Bool) (s src word : Nat) (ev : Events) :
    rowsAt (reportEvents d half gp s src word ev) = rowsAt d := by
  have h := leaves_reportEvents (d := d) leaves_self half gp s src word ev
  exact rowsAt_congr (h.1 .cas (by simp [opSide])) (h.1 .clock (by simp [opSide])).1

theorem rowsAt_setBasinRow (d : Dev) (tile x : Nat) (vs : List FVal) : rowsAt (setBasinRow d tile x vs) = rowsAt d := rfl

theorem rowsAt_setLadder (d : Dev) (uid : Nat) (l : Ladder) : rowsAt (setLadder d uid l) = rowsAt d := rfl

theorem rowsAt_withMem (d : Dev) (m : List Host.Cell) : rowsAt (d.withMem m) = rowsAt d := rfl

theorem rowsAt_raise (d : Dev) (number sev src : Nat) (pay : List Nat) : rowsAt (raise d number sev src pay) = rowsAt d :=
  rowsAt_congr (by simp) (by simp)

theorem rowsAt_fset (d : Dev) (a : Nat) (f : Fld) (v : Nat) : rowsAt (fset d a f v) = rowsAt d := rowsAt_congr (by simp) (by simp)

theorem rowsAt_count (d : Dev) (h src inst k : Nat) (single : Bool) : rowsAt (count d h src inst k single) = rowsAt d :=
  rowsAt_congr (by simp) (by simp)

theorem rowsAt_rvrTimed (d : Dev) (T : Nat) (acc : List (Nat × Nat)) : rowsAt (rvrTimed d T acc).1 = rowsAt d := by
  rw [rvrTimed_eq]
  have hfold (r : Dev × List Nat) : rowsAt (acc.foldl (bankAccess T) r).1 = rowsAt r.1 := by
    induction acc generalizing r with
    | nil => rfl
    | cons a acc ih =>
      rw [List.foldl_cons, ih]
      unfold bankAccess
      simp only
      split
      · rfl
      · simp only [rowsAt_raise, rowsAt_fset]
  rw [hfold]
  exact (rowsAt_congr rfl rfl).trans (rowsAt_count ..)

theorem rowsAt_setLadLevel (d : Dev) (uid : Nat) (l : Ladder) (x L : Nat) (v : List Pair) :
    rowsAt (setLadLevel d uid l x L v) = rowsAt d := by
  unfold setLadLevel
  extract_lets +onlyGivenNames put T e
  have he : rowsAt e = rowsAt d := by
    unfold e
    split
    · exact rowsAt_setBasinRow ..
    · split
      next f bad hread =>
        have hf : rowsAt f = rowsAt d := by rw [← rowsAt_rvrTimed d (uid / 8) (ladAcc l (uid / 8) (L - 4) x d.now), hread]
        exact (rowsAt_withMem ..).trans hf
  split
  · exact (rowsAt_withMem ..).trans he
  · exact he

theorem rowsAt_ladEnter (uid x n L : Nat) (d : Dev) (l : Ladder) (v : List Pair) :
    rowsAt (ladEnter uid x n L d l v).1 = rowsAt d := by
  induction n generalizing L d l v with
  | zero =>
    simp only [ladEnter]
    split
    · split
      · rw [rowsAt_count, rowsAt_setLadLevel]
      · rw [rowsAt_raise, rowsAt_fset, rowsAt_count, rowsAt_setLadLevel]
    · exact rowsAt_setLadLevel ..
  | succ n ih =>
    simp only [ladEnter]
    split
    · rw [ih]
      split
      · exact rowsAt_setBasinRow ..
      · rfl
    · exact rowsAt_setLadLevel ..

theorem rowsAt_ladPass (d : Dev) (uid x : Nat) (comp : Bool) (v : List Pair) : rowsAt (ladPass d uid x comp v) = rowsAt d := by
  unfold ladPass
  split
  · rfl
  · refine (rowsAt_setLadder ..).trans ((rowsAt_ladEnter ..).trans ?_)
    split
    · refine rowsAt_foldl (fun e L => ?_) _ _
      split
      · exact rowsAt_withMem ..
      · rfl
    · rfl

theorem rowsAt_applyRow (d : Dev) (r : RowApp) : rowsAt (applyRow d r) = rowsAt d := by
  simp only [applyRow]
  split
  · split
    · exact rowsAt_setBasinRow ..
    · exact rowsAt_ladPass ..
    · rfl
    · exact rowsAt_ladPass ..
  · split
    · rfl
    · split
      · exact (rowsAt_reportEvents ..).trans (rowsAt_setBasinRow ..)
      · exact rowsAt_setBasinRow ..

/-- Applying a row takes it off the list. -/
theorem rowsAt_applyOne {i : Nat} (h : i < d.cas.rows.length) : rowsAt (applyOne d i) = (d.cas.rows.eraseIdx i, d.now) := by
  rw [applyOne, List.getElem?_eq_getElem h]
  exact rowsAt_applyRow ..

/-- The earlier of the row chosen so far and one more. -/
def earlierRow (rs : List RowApp) (best : Option Nat) (e : RowApp × Nat) : Option Nat :=
  match best with
  | none => some e.2
  | some i => if e.1.due < (rs.getD i e.1).due then some e.2 else some i

theorem nextRow_eq (rs : List RowApp) (f : RowApp → Bool) :
    nextRow rs f = (rs.zipIdx.filter fun e => f e.1).foldl (earlierRow rs) none := rfl

theorem earlierRow_cases (rs : List RowApp) (b : Option Nat) (e : RowApp × Nat) :
    earlierRow rs b e = some e.2 ∨ ∃ i, b = some i ∧ earlierRow rs b e = some i := by
  cases b with
  | none => exact .inl rfl
  | some i =>
    simp only [earlierRow]
    split
    · exact .inl rfl
    · exact .inr ⟨i, rfl, rfl⟩

theorem foldl_earlierRow (rs : List RowApp) (l : List (RowApp × Nat)) (b : Option Nat) :
    (l.foldl (earlierRow rs) b = none → l = [] ∧ b = none) ∧
      ∀ i, l.foldl (earlierRow rs) b = some i → b = some i ∨ ∃ e ∈ l, e.2 = i := by
  induction l generalizing b with
  | nil => exact ⟨fun h => ⟨rfl, h⟩, fun i h => .inl h⟩
  | cons e l ih =>
    obtain ⟨hnone, hsome⟩ := ih (earlierRow rs b e)
    have hcases := earlierRow_cases rs b e
    refine ⟨fun h => ?_, fun i h => ?_⟩
    · rw [(hnone h).2] at hcases
      simp at hcases
    · obtain hi | ⟨e', he', rfl⟩ := hsome i h
      · obtain he | ⟨j, rfl, hj⟩ := hcases
        · exact .inr ⟨e, by simp, Option.some.inj (he.symm.trans hi)⟩
        · exact .inl (hj.symm.trans hi)
      · exact .inr ⟨e', by simp [he'], rfl⟩

theorem nextRow_lt {rs : List RowApp} {f : RowApp → Bool} {i : Nat} (h : nextRow rs f = some i) : i < rs.length := by
  rw [nextRow_eq] at h
  obtain hi | ⟨e, he, rfl⟩ := (foldl_earlierRow _ _ _).2 i h
  · cases hi
  · exact (List.mem_zipIdx' (List.mem_filter.1 he).1).1

theorem rows_of_nextRow_none {rs : List RowApp} {f : RowApp → Bool} (h : nextRow rs f = none) : ∀ r ∈ rs, f r = false := by
  rw [nextRow_eq] at h
  have hnil := (foldl_earlierRow _ _ _).1 h |>.1
  rw [List.filter_eq_nil_iff] at hnil
  intro r hr
  obtain ⟨i, hi⟩ := List.mem_iff_getElem?.1 hr
  simpa using hnil (r, i) (List.mk_mem_zipIdx_iff_getElem?.2 hi)

/-- With as many rounds as rows, no row stays that is to be applied, and the time stands. -/
theorem settleRows_leaves_none (f : RowApp → Bool) (n : Nat) (h : d.cas.rows.length ≤ n) :
    (∀ r ∈ (settleRows f n d).cas.rows, f r = false) ∧ (settleRows f n d).now = d.now := by
  induction n generalizing d with
  | zero => simp [settleRows, List.length_eq_zero_iff.1 (Nat.le_zero.1 h)]
  | succ n ih =>
    rw [settleRows]
    split
    · next i hi =>
      have hlt := nextRow_lt hi
      obtain ⟨hrows, hnow⟩ := Prod.mk.inj (rowsAt_applyOne hlt)
      rw [← hnow]
      exact ih (by rw [hrows, List.length_eraseIdx_of_lt hlt]; omega)
    · next hi => exact ⟨rows_of_nextRow_none hi, rfl⟩

/-- No row under way to a basin is due. -/
def NoneDue (d : Dev) : Prop := ∀ r ∈ d.cas.rows, ¬ r.due ≤ d.now

theorem NoneDue.settleDue (h : NoneDue d) : settleDue d = d := settleRows_none fun r hr => by simpa using h r hr

theorem NoneDue.of_rowsAt (h : NoneDue d) (he : rowsAt e = rowsAt d) : NoneDue e := by
  obtain ⟨hrows, hnow⟩ := Prod.mk.inj he
  rw [NoneDue, hrows, hnow]
  exact h

theorem noneDue_settle (d : Dev) : NoneDue (settle d) := by
  unfold settle
  simp only
  generalize settleLands d.jet.lands.length (settleDue d) = e
  obtain ⟨hnone, hnow⟩ := settleRows_leaves_none (d := e) (fun r => decide (r.due ≤ e.now)) _ le_rfl
  intro r hr
  simpa [Machine.settleDue, hnow] using hnone r hr

/-- A read of any local address moves the pools alone, where no row is due. -/
theorem onlyPools_qRead (hdue : NoneDue d) (hmarks : d.ms.marks = []) (a n : Nat) : OnlyPools d (qRead d a n).1 := by
  unfold qRead
  split
  · exact OnlyPools.refl d
  · split
    · next h => exact onlyPools_poolTouches h hmarks _ _
    · split
      · exact onlyPools_countQueued ..
      · split
        · rw [hdue.settleDue]
          exact OnlyPools.refl d
        · split
          · exact OnlyPools.refl d
          · exact OnlyPools.refl d

/-! ### Counts -/

theorem leaves_aqdShow_iff (hp : p (A.AQD_CHSTS h c) = true) (hg : Piece.gov ∈ ps) : Leaves ps p d (aqdShow e h c) ↔ Leaves ps p d e := by
  unfold aqdShow
  simp only
  split
  · exact leaves_fset_iff hp
  · rw [leaves_govSet_iff hg, leaves_fset_iff hp]

theorem leaves_aqdCompleted_iff {n : Nat} (ha : p (A.AQD_CHCNTA h c) = true) (hp : p (A.AQD_CHSTS h c) = true) (hg : Piece.gov ∈ ps) :
    Leaves ps p d (aqdCompleted e h c n) ↔ Leaves ps p d e := by
  rw [aqdCompleted, leaves_aqdShow_iff hp hg, leaves_finc_iff ha]

theorem leaves_aqdIssued_iff {n : Nat} (ha : p (A.AQD_CHCNTA h c) = true) (hp : p (A.AQD_CHSTS h c) = true) (hg : Piece.gov ∈ ps) :
    Leaves ps p d (aqdIssued e h c n) ↔ Leaves ps p d e := by
  rw [aqdIssued, leaves_aqdShow_iff hp hg, leaves_finc_iff ha]

theorem leaves_aqdDiscarded_iff {n : Nat} (hb : p (A.AQD_CHCNTB h c) = true) (hp : p (A.AQD_CHSTS h c) = true) (hg : Piece.gov ∈ ps) :
    Leaves ps p d (aqdDiscarded e h c n) ↔ Leaves ps p d e := by
  rw [aqdDiscarded, leaves_aqdShow_iff hp hg, leaves_finc_iff hb]

theorem fget_aqdShow {a : Nat} (ha : A.AQD_CHSTS h c ≠ a) (f : Fld) : fget (aqdShow d h c) a f = fget d a f := by
  have hl : Leaves [.gov] (these [A.AQD_CHSTS h c]) d (aqdShow d h c) := (leaves_aqdShow_iff (by simp) (by simp)).2 leaves_self
  exact hl.2.fget (these_apart ha.symm) f

theorem chan_regs_apart (h c : Nat) : A.AQD_CHSTS h c ≠ A.AQD_CHCNTA h c ∧ A.AQD_CHSTS h c ≠ A.AQD_CHCNTB h c ∧
    A.AQD_CHCNTA h c ≠ A.AQD_CHCNTB h c := by
  simp only [A.AQD_CHSTS, A.AQD_CHCNTA, A.AQD_CHCNTB]
  omega

/-- The registers of a channel are no counters of the event blocks and no registers of the pools. -/
theorem chan_regs_access {h c a : Nat} (hh : h < 2) (hc : c < 32)
    (ha : a ∈ [A.AQD_CHCTL h c, A.AQD_CHSTS h c, A.AQD_CHCNTA h c, A.AQD_CHCNTB h c]) : isAccess a = false := by
  have hb : a < 0x1900400 ∨ (0x2000000 ≤ a ∧ a < 0x2900400) := by
    simp only [A.AQD_CHCTL, A.AQD_CHSTS, A.AQD_CHCNTA, A.AQD_CHCNTB, List.mem_cons, List.not_mem_nil, or_false] at ha
    omega
  have hl : 0x1700000 ≤ a ∧ a ≠ A.POL_STS 0 ∧ a ≠ A.POL_STS 1 := by
    simp only [A.AQD_CHCTL, A.AQD_CHSTS, A.AQD_CHCNTA, A.AQD_CHCNTB, A.POL_STS, List.mem_cons, List.not_mem_nil, or_false] at ha ⊢
    omega
  rw [Bool.eq_false_iff, ne_eq, isAccess, Bool.or_eq_true, isCounter_iff, these_iff]
  simp only [List.mem_cons, List.not_mem_nil, or_false]
  omega

theorem completed_aqdCompleted (d : Dev) (h c : Nat) : fget (aqdCompleted d h c 1) (A.AQD_CHCNTA h c) F.AQD_CHCNTA_COMPLETED =
    (fget d (A.AQD_CHCNTA h c) F.AQD_CHCNTA_COMPLETED + 1) % 2 ^ 32 := by
  rw [aqdCompleted, fget_aqdShow (chan_regs_apart h c).1, fget_finc_self _ _ rfl]
  rfl

/-! ### A channel with one transfer -/

theorem calm_of_only {x : Xfer} (h : aqdOnly d h c x) : Calm d := by
  obtain ⟨hq, -, hr, hs, -⟩ := h
  exact ⟨hq, hr, hs⟩

theorem chanOf_only {x : Xfer} (hx : d.aqd.chans = [(32 * h + c, [x])]) : chanOf d h c = [x] := by simp [chanOf, hx, sget, sfind]

theorem mem_chanOf_only {x y : Xfer} {k a b : Nat} (h : d.aqd.chans = [(k, [x])]) (hy : y ∈ chanOf d a b) : y = x := by
  rw [chanOf, h] at hy
  simp only [sget, sfind] at hy
  split at hy
  · simpa using hy
  · simp at hy

theorem calm_of_aqd (h : Calm d) (ha : e.aqd.queues = d.aqd.queues) (hr : e.aqd.reqs = d.aqd.reqs) (hs : e.aqd.since = d.aqd.since) :
    Calm e := by
  refine ⟨fun q hq => ?_, hr.trans h.reqs, hs.trans h.since⟩
  rw [aqdQueue, ha]
  exact h.queues q hq

/-! ### Completion (R430) -/

/-- What the completion of a transfer leaves alone. -/
def isChan (h c a : Nat) : Bool := isAccess a || these [A.AQD_CHCNTA h c, A.AQD_CHSTS h c] a

/-- The transfer at the front completes: it leaves its channel and is counted. -/
theorem transferComplete_front {x : Xfer} (hx : aqdOnly d h c x) (hdue : NoneDue d) (hmarks : d.ms.marks = [])
    (hst : xStarted x = true) (hback : xDspace x = 1 → x.readBack = 2) (hhost : xHost x = false) (hnote : xNote x = false) :
    ∃ e v, ReadyOnly d e ∧ OnlyPools e v ∧
      transferComplete d h c = aqdRun (count (aqdCompleted (setChan v h c []) h c 1) h 0x700 c 1 false) := by
  have hcalm := calm_of_only hx
  obtain ⟨-, hchans, -, -, halive, hwait, -, -⟩ := hx
  have hrun : ReadyOnly d (aqdRun d) := aqdRun_settled hcalm fun a b y hy => by
    obtain rfl := mem_chanOf_only hchans hy
    exact ⟨halive, fun _ h1 h0 => by simp [hback h1] at h0, hhost, hwait⟩
  unfold transferComplete
  simp only
  generalize aqdRun d = e at hrun
  have hfly := inFlight_calm (hcalm.of_ready hrun) x.serial
  rw [hrun.chanOf, chanOf_only hchans]
  simp only
  rw [if_neg (by
    simp only [halive, hst, hfly, Bool.not_true, Bool.false_or, Bool.and_eq_true, beq_iff_eq, bne_iff_ne]
    exact fun h1 => h1.2 (hback h1.1.1))]
  simp only [hhost, hnote, Bool.false_eq_true, if_false]
  have hrows : rowsAt e = rowsAt d := by
    obtain ⟨r, rfl⟩ := hrun
    rfl
  have hm : e.ms.marks = [] := by
    rw [hrun.leaves (p := isAccess) |>.1 .ms (by simp)]
    exact hmarks
  split
  · exact ⟨e, _, hrun, onlyPools_qRead (hdue.of_rowsAt hrows) hm _ _, rfl⟩
  · exact ⟨e, _, hrun, OnlyPools.refl e, rfl⟩

theorem transferComplete_done {x : Xfer} (hh : h < 2) (hc : c < 32) (hx : aqdOnly d h c x) (hdue : NoneDue d) (hmarks : d.ms.marks = [])
    (hst : xStarted x = true) (hback : xDspace x = 1 → x.readBack = 2) (hhost : xHost x = false) (hnote : xNote x = false) :
    chanOf (transferComplete d h c) h c = [] ∧
      fget (transferComplete d h c) (A.AQD_CHCNTA h c) F.AQD_CHCNTA_COMPLETED =
        (fget d (A.AQD_CHCNTA h c) F.AQD_CHCNTA_COMPLETED + 1) % 2 ^ 32 ∧
      Leaves [.ms, .aqd, .gov] (isChan h c) d (transferComplete d h c) := by
  obtain ⟨e, v, hrun, hread, heq⟩ := transferComplete_front hx hdue hmarks hst hback hhost hnote
  have hva : v.aqd = e.aqd := hread.leaves.1 .aqd (by simp)
  have hacc {a : Nat} (ha : a ∈ [A.AQD_CHCTL h c, A.AQD_CHSTS h c, A.AQD_CHCNTA h c, A.AQD_CHCNTB h c]) := chan_regs_access hh hc ha
  have hcount := (onlyPools_count hh (aqdCompleted (setChan v h c []) h c 1) 0x700 c 1 false).leaves
  have hdone : Leaves [.gov] (these [A.AQD_CHCNTA h c, A.AQD_CHSTS h c]) (setChan v h c []) (aqdCompleted (setChan v h c []) h c 1) :=
    (leaves_aqdCompleted_iff (by simp) (by simp) (by simp)).2 leaves_self
  have hval := completed_aqdCompleted (setChan v h c []) h c
  rw [heq]
  generalize aqdCompleted (setChan v h c []) h c 1 = f at hcount hdone hval ⊢
  generalize count f h 0x700 c 1 false = g at hcount ⊢
  have haqd : g.aqd = { e.aqd with chans := [] } := by
    rw [hcount.1 .aqd (by simp), hdone.1 .aqd (by simp), ← hva]
    simp [setChan, Dev.withAqd, hva, hrun.aqd.1, hx.2.1, sset, sdel]
  have hgc : Calm g := calm_of_aqd ((calm_of_only hx).of_ready hrun) (by rw [haqd]) (by rw [haqd]) (by rw [haqd])
  have hnil (a b : Nat) : chanOf g a b = [] := by
    rw [chanOf, haqd]
    rfl
  have hrest : ReadyOnly g (aqdRun g) := aqdRun_settled hgc fun a b y hy => by simp [hnil] at hy
  generalize aqdRun g = u at hrest
  have hout (a : Nat) (ha : isChan h c a = false) := Bool.or_eq_false_iff.1 ha
  have hset {p : Nat → Bool} : Leaves [.aqd] p v (setChan v h c []) := (leaves_withAqd_iff (by simp)).2 leaves_self
  refine ⟨(hrest.chanOf h c).trans (hnil h c), ?_, ?_⟩
  · rw [hrest.leaves (p := isAccess) |>.2.fget (hacc (by simp)), hcount.2.fget (hacc (by simp)), hval,
      hset (p := isAccess) |>.2.fget (hacc (by simp)), hread.leaves.2.fget (hacc (by simp)),
      hrun.leaves (p := isAccess) |>.2.fget (hacc (by simp))]
  · exact (hrun.leaves.weaken (by simp) fun _ h => h).trans <| (hread.leaves.weaken (by simp) fun a ha => (hout a ha).1).trans <|
      (hset.weaken (by simp) fun _ h => h).trans <| (hdone.weaken (by simp) fun a ha => (hout a ha).2).trans <|
      (hcount.weaken (by simp) fun a ha => (hout a ha).1).trans (hrest.leaves.weaken (by simp) fun _ h => h)

end

end Sys2Proof.Machine
end

section
/-! PROOFS. The issue of an XFER and the bursts of a LOCAL copy (12, R425 to R429). -/

namespace Sys2Proof.Machine

section
variable {ps : List Piece} {p : Nat → Bool} {d e : Dev} {h c q : Nat} {x : Xfer}

/-- What the word of an XFER without resolutions says. -/
theorem xfer_fields {chan : BitVec 5} {desc : BitVec 10} {gp note : BitVec 1} :
    bits (encodeAqd (.xfer chan desc 0#1 0#1 gp note)).toNat 35 31 = chan.toNat ∧
      bits (encodeAqd (.xfer chan desc 0#1 0#1 gp note)).toNat 30 21 = desc.toNat ∧
      bit (encodeAqd (.xfer chan desc 0#1 0#1 gp note)).toNat 20 = false ∧
      bit (encodeAqd (.xfer chan desc 0#1 0#1 gp note)).toNat 19 = false := by
  simp only [bits_toNat, bit_toNat]
  simp (disch := omega) only [encodeAqd, extract_append_lo, extract_append_hi]
  simp

/-! ### Queues -/

theorem aqd_setAqdQueue (d : Dev) (q : Nat) (l : List Xfer) :
    (setAqdQueue d q l).aqd = { d.aqd with queues := sset [] q l d.aqd.queues } := by
  unfold setAqdQueue
  simp only
  split
  · rfl
  · rfl

theorem leaves_setAqdQueue (d : Dev) (q : Nat) (l : List Xfer) : Leaves [.aqd, .gov] p d (setAqdQueue d q l) := by
  unfold setAqdQueue
  simp only
  split
  · exact (leaves_withAqd_iff (by simp)).2 leaves_self
  · exact (leaves_govSet_iff (by simp)).2 ((leaves_withAqd_iff (by simp)).2 leaves_self)

theorem setAqdQueue_same (d : Dev) (q : Nat) (l : List Xfer) : aqdQueue (setAqdQueue d q l) q = l := by
  rw [aqdQueue, aqd_setAqdQueue]
  exact sget_sset_self ..

theorem setAqdQueue_ne (d : Dev) (l : List Xfer) {r : Nat} (hr : r ≠ q) : aqdQueue (setAqdQueue d q l) r = aqdQueue d r := by
  rw [aqdQueue, aqd_setAqdQueue]
  exact sget_sset_ne _ hr ..

/-- The moves of one queued transfer, over and over. -/
theorem foldMove_one {X Z : Dev} (hmove : aqdMove q (aqdQueue X q).length X = Z) (l : List Nat) (hl : q ∈ l)
    (hX : ∀ r ∈ l, r ≠ q → aqdQueue X r = []) (hZ : ∀ r ∈ l, aqdQueue Z r = []) :
    l.foldl (fun d q => aqdMove q (aqdQueue d q).length d) X = Z := by
  have hstay (l : List Nat) (hZ : ∀ r ∈ l, aqdQueue Z r = []) : l.foldl (fun d q => aqdMove q (aqdQueue d q).length d) Z = Z := by
    induction l with
    | nil => rfl
    | cons r l ih =>
      rw [List.foldl_cons, aqdMove_empty (hZ r (by simp))]
      exact ih fun r h => hZ r (by simp [h])
  induction l with
  | nil => cases hl
  | cons r l ih =>
    rw [List.foldl_cons]
    by_cases hr : r = q
    · subst hr
      rw [hmove]
      exact hstay l fun r h => hZ r (by simp [h])
    · rw [aqdMove_empty (hX r (by simp) hr)]
      obtain rfl | hl := List.mem_cons.1 hl
      · exact absurd rfl hr
      · exact ih hl (fun r h => hX r (by simp [h])) fun r h => hZ r (by simp [h])

/-- The aqueduct with one queued transfer, which leaves its queue at once. -/
theorem aqdRun_one {X Z : Dev} (hq : q < 4) (hmove : aqdMove q (aqdQueue X q).length X = Z) (hX : ∀ r, r < 4 → r ≠ q → aqdQueue X r = [])
    (hZ : ∀ r, r < 4 → aqdQueue Z r = []) : aqdRun X = aqdRun Z := by
  have hlt (r : Nat) (hr : r ∈ [0, 1, 2, 3]) : r < 4 := by
    simp only [List.mem_cons, List.not_mem_nil, or_false] at hr
    omega
  rw [aqdRun_empty hZ, aqdRun, foldMove_one hmove _ (by
    simp only [List.mem_cons, List.not_mem_nil, or_false]
    omega) (fun r hr => hX r (hlt r hr)) fun r hr => hZ r (hlt r hr)]

/-- A field that does not meet OUT stands while the counts are shown. -/
theorem fget_aqdShow_apart (d : Dev) (h c a : Nat) {f : Fld} (hf : f.ok = true) (ho : F.AQD_CHSTS_OUT.apart f = true) :
    fget (aqdShow d h c) a f = fget d a f := by
  have hset : fget (fset d (A.AQD_CHSTS h c) F.AQD_CHSTS_OUT (min (aqdOutOf d h c) 255)) a f = fget d a f :=
    fget_fset_apart _ _ _ _ _ _ rfl hf ho
  unfold aqdShow
  simp only
  generalize fset d (A.AQD_CHSTS h c) F.AQD_CHSTS_OUT (min (aqdOutOf d h c) 255) = e at hset ⊢
  split
  · exact hset
  · rw [fget_govSet, hset]

/-! ### Issue (R426, R427, R431) -/

/-- The transfer that a sound XFER without resolutions issues. -/
def issuedXfer (d : Dev) (iss : Issue) (w : BitVec 40) (e : List Nat) : Xfer :=
  let ix (i : Nat) : Int := (idxSel d iss.strand (adSel e i) : Int)
  { serial := d.aqd.nextSerial, op := w, half := hn iss.half, spc := (strandOf d iss.strand).lastSpc, strand := strandCode iss.strand,
    ent := e, ms := adSstr e 0 * ix 0 + adSstr e 1 * ix 1, md := adDstr e 0 * ix 0 + adDstr e 1 * ix 1, sres := none, dres := none,
    step := if d.seq.stepOpen then curStep d else (curStep d + 2 ^ 32 - 1) % 2 ^ 32, row := 0, pos := 0, bursts := 0, last := none,
    readBack := 0, ackAt := 0, waitHost := 0, dead := false }

/-- A transfer counted as issued and put in a queue. -/
def xferQueued (d : Dev) (h c : Nat) (x : Xfer) : Dev :=
  setAqdQueue (aqdIssued (d.withAqd { d.aqd with nextSerial := d.aqd.nextSerial + 1 }) h c 1) (2 * h + c / 16)
    (aqdQueue d (2 * h + c / 16) ++ [x])

variable {iss : Issue} {chan : BitVec 5} {desc : BitVec 10} {gp note : BitVec 1} {ent : List Nat}

theorem aqdIssue_sound {port : Nat} (hport : chan.toNat / 16 = port % 2) (hd : settle (tick e iss.t) = d)
    (he : adtEntry d (hn iss.half) desc.toNat = some ent) (hgood : adtBad d ent false = false) :
    aqdIssue e iss port (.xfer chan desc 0#1 0#1 gp note) =
      aqdRun (xferQueued d (hn iss.half) chan.toNat (issuedXfer d iss (encodeAqd (.xfer chan desc 0#1 0#1 gp note)) ent)) := by
  obtain ⟨hc, hdesc, heps, hepd⟩ := xfer_fields (chan := chan) (desc := desc) (gp := gp) (note := note)
  simp only [aqdIssue, hd, hc, hdesc, heps, hepd, he, hgood, hport, Bool.or_self, Bool.false_eq_true, ne_eq, not_true_eq_false,
    false_and, or_self, if_false]
  rw [xferQueued, hport]
  rfl

theorem aqdIssue_missing {port : Nat} (hd : settle (tick e iss.t) = d) (he : adtEntry d (hn iss.half) desc.toNat = none) :
    aqdIssue e iss port (.xfer chan desc 0#1 0#1 gp note) =
      aqdRaise d 0xD0 3 (hn iss.half) chan.toNat (encodeAqd (.xfer chan desc 0#1 0#1 gp note)).toNat
        (strandOf d iss.strand).lastSpc (strandCode iss.strand) 0 := by
  obtain ⟨hc, hdesc, -, -⟩ := xfer_fields (chan := chan) (desc := desc) (gp := gp) (note := note)
  simp only [aqdIssue, hd, hc, hdesc, he]

theorem xChan_issuedXfer : xChan (issuedXfer d iss (encodeAqd (.xfer chan desc 0#1 0#1 gp note)) ent) = chan.toNat :=
  (xfer_fields (chan := chan) (desc := desc) (gp := gp) (note := note)).1

/-- The queued transfer is counted, and nothing else of the aqueduct changes but its queue and the next serial number. -/
theorem xferQueued_aqd (d : Dev) (h c : Nat) (x : Xfer) : (xferQueued d h c x).aqd =
    { d.aqd with queues := sset [] (2 * h + c / 16) (aqdQueue d (2 * h + c / 16) ++ [x]) d.aqd.queues, nextSerial := d.aqd.nextSerial + 1 } := by
  have hi (e : Dev) : (aqdIssued e h c 1).aqd = e.aqd :=
    ((leaves_aqdIssued_iff (ps := [.gov]) (p := these [A.AQD_CHCNTA h c, A.AQD_CHSTS h c]) (by simp) (by simp) (by simp)).2
      leaves_self : Leaves _ _ e _).1 .aqd (by simp)
  rw [xferQueued, aqd_setAqdQueue, hi]
  rfl

theorem leaves_xferQueued (d : Dev) (h c : Nat) (x : Xfer) :
    Leaves [.aqd, .gov] (these [A.AQD_CHCNTA h c, A.AQD_CHSTS h c]) d (xferQueued d h c x) := by
  refine Leaves.trans ?_ (leaves_setAqdQueue _ _ _)
  rw [leaves_aqdIssued_iff (by simp) (by simp) (by simp)]
  exact (leaves_withAqd_iff (by simp)).2 leaves_self

theorem fget_setAqdQueue (d : Dev) (q : Nat) (l : List Xfer) (a : Nat) (f : Fld) : fget (setAqdQueue d q l) a f = fget d a f :=
  (leaves_setAqdQueue (p := fun _ => false) d q l).2.fget rfl f

theorem xferQueued_issued (d : Dev) (h c : Nat) (x : Xfer) : fget (xferQueued d h c x) (A.AQD_CHCNTA h c) F.AQD_CHCNTA_ISSUED =
    (fget d (A.AQD_CHCNTA h c) F.AQD_CHCNTA_ISSUED + 1) % 2 ^ 32 := by
  rw [xferQueued, fget_setAqdQueue, aqdIssued, fget_aqdShow (chan_regs_apart h c).1, fget_finc_self _ _ rfl]
  rfl

theorem xferQueued_running (d : Dev) (h c : Nat) (x : Xfer) (half : Half) (c' : Nat) :
    running (xferQueued d h c x) (.aqd half c') = running d (.aqd half c') := by
  have hcnt : A.AQD_CHSTS (hn half) c' ≠ A.AQD_CHCNTA h c := by
    simp only [A.AQD_CHSTS, A.AQD_CHCNTA]
    omega
  refine congrArg (fun n => decide (n = 1)) ?_
  simp only [blkState, stOf, xferQueued]
  rw [fget_setAqdQueue, aqdIssued, fget_aqdShow_apart _ _ _ _ rfl rfl]
  exact (fget_fset_ne _ hcnt _ _ _).trans rfl

/-- The two halves as blocks name them. -/
theorem half_of_hn (half : Half) : (if hn half = 0 then Half.A else Half.B) = half := by cases half <;> rfl

/-- The move of a transfer to its RUNNING channel. -/
theorem aqdMove_running {half : Half} (hq : q / 2 = hn half) (hx : aqdQueue d q = [x]) (hrun : running d (.aqd half (xChan x)) = true)
    (hnil : chanOf d (hn half) (xChan x) = []) :
    aqdMove q (aqdQueue d q).length d = setChan (setAqdQueue d q []) (hn half) (xChan x) [x] := by
  have hheld : heldXfers d (hn half) (xChan x) < 32 := by
    rw [heldXfers, hnil]
    decide
  rw [hx, List.length_singleton, aqdMove, hx]
  simp only [hq, half_of_hn, hrun, Bool.not_true, Bool.false_eq_true, if_false, if_pos hheld, aqdMove, hnil, List.nil_append]

/-- The move of a transfer whose channel is not RUNNING: it is counted as discarded and raises AQD_OFF. -/
theorem aqdMove_off {half : Half} (hq : q / 2 = hn half) (hx : aqdQueue d q = [x]) (hrun : running d (.aqd half (xChan x)) = false) :
    aqdMove q (aqdQueue d q).length d = aqdRaise (aqdDiscarded (setAqdQueue d q []) (hn half) (xChan x) 1) 0xD2 3 (hn half) (xChan x)
      x.op.toNat x.spc x.strand 0 := by
  rw [hx, List.length_singleton, aqdMove, hx]
  simp only [hq, half_of_hn, hrun, Bool.not_false, if_true, aqdMove]

theorem chanOf_setChan (d : Dev) (h c : Nat) (l : List Xfer) : chanOf (setChan d h c l) h c = l := sget_sset_self (α := List Xfer) ..

/-- A transfer that has come to its idle channel: at most its wait for a host descriptor begins. -/
theorem aqdRun_front (hc : c < 32) (hcalm : Calm d) (hready : d.aqd.ready = []) (hchans : d.aqd.chans = [(32 * h + c, [x])])
    (halive : x.dead = false) (hback : xStarted x = true → xDspace x = 1 → x.readBack ≠ 0) :
    ∃ w, chanOf (aqdRun d) h c = [{ x with waitHost := w }] ∧ Leaves [.aqd] (fun _ => false) d (aqdRun d) := by
  have hk : (32 * h + c) / 32 = h ∧ (32 * h + c) % 32 = c := by omega
  rw [aqdRun_empty hcalm.queues, hchans, hcalm.since, hready]
  have hone : chanOf d h c = [x] := chanOf_only hchans
  have hhost : ∃ w, chanOf (noteHost d h c) h c = [{ x with waitHost := w }] ∧ Leaves [.aqd] (fun _ => false) d (noteHost d h c) := by
    have hset (w : Nat) : chanOf (setXfer d h c { x with waitHost := w }) h c = [{ x with waitHost := w }] ∧
        Leaves [.aqd] (fun _ => false) d (setXfer d h c { x with waitHost := w }) := by
      refine ⟨?_, (leaves_withAqd_iff (by simp)).2 leaves_self⟩
      rw [setXfer, hone, chanOf_setChan]
      simp
    unfold noteHost
    split
    · exact ⟨x.waitHost, hone, leaves_self⟩
    · next y hy =>
      obtain rfl : y = x := by
        have := List.mem_of_find?_eq_some hy
        rwa [hone, List.mem_singleton] at this
      simp only
      split
      · exact ⟨_, hset _⟩
      · split
        · exact ⟨_, hset _⟩
        · exact ⟨y.waitHost, hone, leaves_self⟩
  obtain ⟨w, hw, hl⟩ := hhost
  have htidy : chanTidy d (32 * h + c) = noteReady (noteHost d h c) h c := by
    rw [chanTidy_calm hcalm fun y hy => by
      obtain rfl := mem_chanOf_only hchans hy
      exact ⟨halive, hback⟩]
    rw [hk.1, hk.2]
  simp only [List.map_cons, List.map_nil, List.append_nil, List.eraseDups_cons, List.filter_nil, List.eraseDups_nil, List.foldl_cons,
    List.foldl_nil]
  rw [htidy]
  have hr := readyOnly_noteReady (noteHost d h c) h c
  exact ⟨w, (hr.chanOf h c).trans hw, hl.trans hr.leaves⟩

/-- The package once the XFER of a RUNNING channel has issued. -/
structure Issued (d u : Dev) (h c : Nat) (x : Xfer) : Prop where
  chan : ∃ w, chanOf u h c = [{ x with waitHost := w }]
  issued : fget u (A.AQD_CHCNTA h c) F.AQD_CHCNTA_ISSUED = (fget d (A.AQD_CHCNTA h c) F.AQD_CHCNTA_ISSUED + 1) % 2 ^ 32
  leaves : Leaves [.aqd, .gov] (these [A.AQD_CHCNTA h c, A.AQD_CHSTS h c]) d u

theorem xferQueued_only (hidle : aqdIdle d) {r : Nat} (hr : r < 4) (hne : r ≠ 2 * h + c / 16) : aqdQueue (xferQueued d h c x) r = [] := by
  rw [aqdQueue, xferQueued_aqd]
  exact (sget_sset_ne (α := List Xfer) _ hne ..).trans (hidle.1 r hr)

theorem xferQueued_queue (hidle : aqdIdle d) (hh : h < 2) (hc : c < 32) : aqdQueue (xferQueued d h c x) (2 * h + c / 16) = [x] := by
  rw [aqdQueue, xferQueued_aqd, hidle.1 (2 * h + c / 16) (by omega)]
  simp only [List.nil_append, sget_sset_self]

theorem issued_running {half : Half} (hc : c < 32) (hidle : aqdIdle d) (hrun : running d (.aqd half c) = true) (hx : xChan x = c)
    (hrow : x.row = 0) (halive : x.dead = false) : Issued d (aqdRun (xferQueued d (hn half) c x)) (hn half) c x := by
  have hh := hn_lt_two half
  have hq : (2 * hn half + c / 16) / 2 = hn half ∧ 2 * hn half + c / 16 < 4 := by omega
  have haqd := xferQueued_aqd d (hn half) c x
  have hqueue := xferQueued_queue (x := x) hidle hh hc
  have hothers {r : Nat} (hr : r < 4) (hne : r ≠ 2 * hn half + c / 16) := xferQueued_only (x := x) hidle hr hne
  have hiss := xferQueued_issued d (hn half) c x
  have hleaves := leaves_xferQueued d (hn half) c x
  have hrun' := (xferQueued_running d (hn half) c x half c).trans hrun
  generalize xferQueued d (hn half) c x = X at *
  obtain ⟨-, hchans, hreqs, hsince, hready⟩ := hidle
  have hmove := aqdMove_running hq.1 hqueue (hx ▸ hrun') (by rw [chanOf, haqd]; simp [hchans, sget, sfind])
  rw [hx] at hmove
  have hZ : ∀ e, e = setChan (setAqdQueue X (2 * hn half + c / 16) []) (hn half) c [x] →
      Calm e ∧ e.aqd.ready = [] ∧ e.aqd.chans = [(32 * hn half + c, [x])] := by
    rintro e rfl
    have hq' (r : Nat) (hr : r < 4) : aqdQueue (setAqdQueue X (2 * hn half + c / 16) []) r = [] := by
      by_cases hne : r = 2 * hn half + c / 16
      · rw [hne, setAqdQueue_same]
      · rw [setAqdQueue_ne _ _ hne, hothers hr hne]
    have ha := aqd_setAqdQueue X (2 * hn half + c / 16) []
    generalize setAqdQueue X (2 * hn half + c / 16) [] = Y at hq' ha
    refine ⟨⟨hq', ?_, ?_⟩, ?_, ?_⟩
    · exact (congrArg Aqd.reqs ha).trans ((congrArg Aqd.reqs haqd).trans hreqs)
    · exact (congrArg Aqd.since ha).trans ((congrArg Aqd.since haqd).trans hsince)
    · exact (congrArg Aqd.ready ha).trans ((congrArg Aqd.ready haqd).trans hready)
    · have hc0 : Y.aqd.chans = [] := (congrArg Aqd.chans ha).trans ((congrArg Aqd.chans haqd).trans hchans)
      simp [setChan, Dev.withAqd, hc0, sset, sput]
  have hl : Leaves [.aqd, .gov] (fun _ => false) X (setChan (setAqdQueue X (2 * hn half + c / 16) []) (hn half) c [x]) :=
    (leaves_withAqd_iff (by simp)).2 (leaves_setAqdQueue ..)
  generalize setChan (setAqdQueue X (2 * hn half + c / 16) []) (hn half) c [x] = Z at hmove hZ hl
  obtain ⟨hcalm, hzready, hzchans⟩ := hZ Z rfl
  rw [aqdRun_one hq.2 hmove (fun r hr hne => hothers hr hne) hcalm.queues]
  obtain ⟨w, hw, hlast⟩ := aqdRun_front hc hcalm hzready hzchans halive (fun hs => by simp [xStarted, hrow] at hs)
  generalize aqdRun Z = u at hw hlast
  have hrest : Leaves [.aqd, .gov] (fun _ => false) X u := hl.trans (hlast.weaken (by simp) fun _ h => h)
  exact ⟨⟨w, hw⟩, (hrest.2.fget rfl _).trans hiss, hleaves.trans (hrest.weaken (by simp) fun _ _ => rfl)⟩

/-! ### Discarded and illegal commands (R425, R427) -/

theorem aqdRun_idle (h : aqdIdle d) : aqdRun d = d := by
  obtain ⟨hq, hchans, -, hsince, hready⟩ := h
  rw [aqdRun_empty hq, hchans, hsince, hready]
  rfl

theorem isRaise_aqd {h c a : Nat} (hc : c < 32)
    (ha : a ∈ [A.AQD_STS h, A.AQD_CHSTS h c, A.AQD_CHCNTA h c, A.AQD_CHCNTB h c]) : isRaise a = false := by
  simp only [A.AQD_STS, A.AQD_CHSTS, A.AQD_CHCNTA, A.AQD_CHCNTB, List.mem_cons, List.not_mem_nil, or_false] at ha
  rw [Bool.eq_false_iff, ne_eq, isRaise, Bool.or_eq_true, isReport_iff, isCounter_iff, these_iff]
  simp only [A.SEQ_STS, A.SEQ_CTL, A.TST_CAPSTS, List.mem_cons, List.not_mem_nil, or_false]
  omega

/-- The number of a record noted at the aqueduct and at its channel (R437). -/
def aqdNoted (d : Dev) (number h c : Nat) : Dev :=
  fset (fset (fset d (A.AQD_STS h) F.AQD_STS_EXC number) (A.AQD_STS h) F.AQD_STS_CHAN c) (A.AQD_CHSTS h c) F.AQD_CHSTS_EXC number

theorem aqdRaise_eq (d : Dev) (number sev h c op spc strand detail : Nat) : ∃ pay,
    aqdRaise d number sev h c op spc strand detail = raise (aqdNoted d number h c) number sev 8 pay := ⟨_, rfl⟩

theorem leaves_aqdNoted (d : Dev) (number h c : Nat) : Leaves [] (these [A.AQD_STS h, A.AQD_CHSTS h c]) d (aqdNoted d number h c) := by
  rw [aqdNoted, leaves_fset_iff (by simp), leaves_fset_iff (by simp), leaves_fset_iff (by simp)]
  exact leaves_self

theorem aqdNoted_exc {number : Nat} (d : Dev) (h c : Nat) (hn : number < 256) :
    fget (aqdNoted d number h c) (A.AQD_STS h) F.AQD_STS_EXC = number := by
  have hne : A.AQD_STS h ≠ A.AQD_CHSTS h c := by
    simp only [A.AQD_STS, A.AQD_CHSTS]
    omega
  rw [aqdNoted, fget_fset_ne _ hne, fget_fset_apart _ _ _ _ _ _ rfl rfl rfl, fget_fset_self _ _ _ _ rfl]
  exact Nat.mod_eq_of_lt hn

theorem fget_raise {a number sev src : Nat} {pay : List Nat} (ha : isRaise a = false) (f : Fld) :
    fget (raise d number sev src pay) a f = fget d a f := congrArg (fun w => f.of w) (keepsRegs_raise d number sev src pay a ha)

section
variable {number op spc strand detail : Nat}

theorem aqdRaise_aqd : (aqdRaise d number 3 h c op spc strand detail).aqd = d.aqd := by
  obtain ⟨pay, h'⟩ := aqdRaise_eq d number 3 h c op spc strand detail
  rw [h', raise_aqd, (leaves_aqdNoted d number h c).1 .aqd (by simp)]

theorem aqdRaise_mem (a : Nat) : memGet (aqdRaise d number 3 h c op spc strand detail).mem a = memGet d.mem a := by
  obtain ⟨pay, h'⟩ := aqdRaise_eq d number 3 h c op spc strand detail
  rw [h', raise_mem, (leaves_aqdNoted d number h c).1 .mem (by simp)]

theorem aqdRaise_exc (hc : c < 32) (hn : number < 256) :
    fget (aqdRaise d number 3 h c op spc strand detail) (A.AQD_STS h) F.AQD_STS_EXC = number := by
  obtain ⟨pay, h'⟩ := aqdRaise_eq d number 3 h c op spc strand detail
  rw [h', fget_raise (isRaise_aqd (h := h) hc (by simp)), aqdNoted_exc d h c hn]

theorem aqdRaise_count (hc : c < 32) {a : Nat} (ha : a ∈ [A.AQD_CHCNTA h c, A.AQD_CHCNTB h c]) (f : Fld) :
    fget (aqdRaise d number 3 h c op spc strand detail) a f = fget d a f := by
  obtain ⟨pay, h'⟩ := aqdRaise_eq d number 3 h c op spc strand detail
  have hraise : isRaise a = false := isRaise_aqd (h := h) hc (List.mem_cons_of_mem _ (List.mem_cons_of_mem _ ha))
  rw [h', fget_raise hraise, (leaves_aqdNoted d number h c).2.fget ?_]
  rw [Bool.eq_false_iff, ne_eq, these_iff]
  simp only [A.AQD_STS, A.AQD_CHSTS, A.AQD_CHCNTA, A.AQD_CHCNTB, List.mem_cons, List.not_mem_nil, or_false] at ha ⊢
  omega

end

/-- The package once the XFER of a channel that is not RUNNING has been discarded. -/
structure Discarded (d u : Dev) (h c : Nat) : Prop where
  chan : chanOf u h c = []
  issued : fget u (A.AQD_CHCNTA h c) F.AQD_CHCNTA_ISSUED = (fget d (A.AQD_CHCNTA h c) F.AQD_CHCNTA_ISSUED + 1) % 2 ^ 32
  discarded : fget u (A.AQD_CHCNTB h c) F.AQD_CHCNTB_DISCARDED = (fget d (A.AQD_CHCNTB h c) F.AQD_CHCNTB_DISCARDED + 1) % 2 ^ 32
  exc : fget u (A.AQD_STS h) F.AQD_STS_EXC = 0xD2
  mem : ∀ a, memGet u.mem a = memGet d.mem a

theorem issued_off {half : Half} (hc : c < 32) (hidle : aqdIdle d) (hrun : running d (.aqd half c) = false) (hx : xChan x = c) :
    Discarded d (aqdRun (xferQueued d (hn half) c x)) (hn half) c := by
  have hh := hn_lt_two half
  have hq : (2 * hn half + c / 16) / 2 = hn half ∧ 2 * hn half + c / 16 < 4 := by omega
  have haqd := xferQueued_aqd d (hn half) c x
  have hqueue := xferQueued_queue (x := x) hidle hh hc
  have hothers {r : Nat} (hr : r < 4) (hne : r ≠ 2 * hn half + c / 16) := xferQueued_only (x := x) hidle hr hne
  have hiss := xferQueued_issued d (hn half) c x
  have hleaves := leaves_xferQueued d (hn half) c x
  have hrun' := (xferQueued_running d (hn half) c x half c).trans hrun
  generalize xferQueued d (hn half) c x = X at *
  obtain ⟨-, hchans, hreqs, hsince, hready⟩ := hidle
  obtain ⟨hab, hbs, hcab⟩ := chan_regs_apart (hn half) c
  have hmove := aqdMove_off hq.1 hqueue (hx ▸ hrun')
  rw [hx] at hmove
  have haY := aqd_setAqdQueue X (2 * hn half + c / 16) []
  have hqY (r : Nat) (hr : r < 4) : aqdQueue (setAqdQueue X (2 * hn half + c / 16) []) r = [] := by
    by_cases hne : r = 2 * hn half + c / 16
    · rw [hne, setAqdQueue_same]
    · rw [setAqdQueue_ne _ _ hne, hothers hr hne]
  have hlY : Leaves [.aqd, .gov] (fun _ => false) X (setAqdQueue X (2 * hn half + c / 16) []) := leaves_setAqdQueue ..
  generalize setAqdQueue X (2 * hn half + c / 16) [] = Y at hmove haY hqY hlY
  have hlW : Leaves [.gov] (these [A.AQD_CHCNTB (hn half) c, A.AQD_CHSTS (hn half) c]) Y (aqdDiscarded Y (hn half) c 1) :=
    (leaves_aqdDiscarded_iff (by simp) (by simp) (by simp)).2 leaves_self
  have hdW : fget (aqdDiscarded Y (hn half) c 1) (A.AQD_CHCNTB (hn half) c) F.AQD_CHCNTB_DISCARDED =
      (fget Y (A.AQD_CHCNTB (hn half) c) F.AQD_CHCNTB_DISCARDED + 1) % 2 ^ 32 := by
    rw [aqdDiscarded, fget_aqdShow hbs, fget_finc_self _ _ rfl]
    rfl
  generalize aqdDiscarded Y (hn half) c 1 = W at hmove hlW hdW
  obtain ⟨Z, hZ⟩ : ∃ Z, aqdRaise W 0xD2 3 (hn half) c x.op.toNat x.spc x.strand 0 = Z := ⟨_, rfl⟩
  have haZ : Z.aqd = W.aqd := hZ ▸ aqdRaise_aqd
  have hmZ (a : Nat) : memGet Z.mem a = memGet W.mem a := hZ ▸ aqdRaise_mem a
  have heZ : fget Z (A.AQD_STS (hn half)) F.AQD_STS_EXC = 0xD2 := hZ ▸ aqdRaise_exc hc (by decide)
  have hcZ {a : Nat} (ha : a ∈ [A.AQD_CHCNTA (hn half) c, A.AQD_CHCNTB (hn half) c]) (f : Fld) : fget Z a f = fget W a f :=
    hZ ▸ aqdRaise_count hc ha f
  rw [hZ] at hmove
  have haW : Z.aqd = Y.aqd := haZ.trans (hlW.1 .aqd (by simp))
  have hidleZ : aqdIdle Z := by
    refine ⟨fun r hr => ?_, ?_, ?_, ?_, ?_⟩
    · rw [aqdQueue, haW]
      exact hqY r hr
    · exact (congrArg Aqd.chans (haW.trans haY)).trans ((congrArg Aqd.chans haqd).trans hchans)
    · exact (congrArg Aqd.reqs (haW.trans haY)).trans ((congrArg Aqd.reqs haqd).trans hreqs)
    · exact (congrArg Aqd.since (haW.trans haY)).trans ((congrArg Aqd.since haqd).trans hsince)
    · exact (congrArg Aqd.ready (haW.trans haY)).trans ((congrArg Aqd.ready haqd).trans hready)
  rw [aqdRun_one hq.2 hmove (fun r hr hne => hothers hr hne) hidleZ.1, aqdRun_idle hidleZ]
  refine ⟨?_, ?_, ?_, heZ, fun a => ?_⟩
  · rw [chanOf, hidleZ.2.1]
    rfl
  · rw [hcZ (by simp), hlW.2.fget (by simp [these, hcab, hab.symm]), hlY.2.fget rfl, hiss]
  · rw [hcZ (by simp), hdW, hlY.2.fget rfl, hleaves.2.fget (by simp [these, hcab.symm, hbs.symm])]
  · rw [hmZ, hlW.1 .mem (by simp), hlY.1 .mem (by simp), hleaves.1 .mem (by simp)]

end

end Sys2Proof.Machine
end

section
/-! PROOFS. The bursts of a LOCAL copy, and the aqueduct's statement (12, R427 to R429). -/

namespace Sys2Proof.Machine

section
variable {ps : List Piece} {p : Nat → Bool} {d e : Dev} {h c q n src dst : Nat} {x y : Xfer}

theorem plainMem_of_keeps {a : Nat} (hk : keepsRegs isAccess d e) : plainMem e a n ↔ plainMem d a n :=
  plainMem_of_stackCh fun s hs => hk.fget (by interval_cases s <;> decide) _

/-- A LOCAL copy that may start its first burst, which is its only one of its row (R421, R428). -/
structure FirstBurst (x : Xfer) (h c n src dst : Nat) : Prop where
  half : x.half = h
  chan : xChan x = c
  alive : x.dead = false
  nowait : x.waitHost = 0
  row : x.row = 0
  pos : x.pos = 0
  copy : adKind x.ent = 0
  plain : adAtom x.ent = false
  touch : adTouch x.ent = false
  sspace : xSspace x = 0
  dspace : xDspace x = 0
  swrap : xSwrap x = 0
  dwrap : xDwrap x = 0
  len : adLen x.ent = n
  fits : n ≤ 4096 - (64 * x.md % 4096).toNat
  source : addrOf ((xSbase x : Int) + 64 * x.ms) = some src
  dest : addrOf ((xDbase x : Int) + 64 * x.md) = some dst

/-- The transfer once its first row has been copied. -/
def afterBurst (x : Xfer) : Xfer := { x with row := 1, pos := 0, bursts := x.bursts + 1 }

/-- The transfer as the bytes of its burst see it: moved on, in the row that they belong to. -/
def burstRow (x : Xfer) : Xfer := { afterBurst x with row := 0 }

/-- The transfer with the last byte that it wrote. -/
def withLast (x : Xfer) (a : Nat) : Xfer := { x with last := some a }

theorem setXfer_only (hd : d.aqd.chans = [(32 * h + c, [x])]) (hs : y.serial = x.serial) :
    (setXfer d h c y).aqd = { d.aqd with chans := [(32 * h + c, [y])] } := by
  rw [setXfer, chanOf_only hd]
  simp [setChan, Dev.withAqd, hd, hs, sset, sput]

theorem leaves_setXfer (d : Dev) (h c : Nat) (x : Xfer) : Leaves [.aqd] p d (setXfer d h c x) :=
  (leaves_withAqd_iff (by simp)).2 leaves_self

theorem xferOf_only (hd : d.aqd.chans = [(32 * h + c, [x])]) {s : Nat} (hs : x.serial = s) : xferOf d h c s = some x := by
  rw [xferOf, chanOf_only hd]
  simp [hs]

/-- What a burst leaves behind: the bytes at their destination, and its transfer moved on. -/
structure Copied (d e : Dev) (h c dst : Nat) (bs : List Byte) (y : Xfer) : Prop where
  leaves : Leaves [.mem, .ms, .aqd] isAccess d e
  mem : e.mem = memWrite d.mem dst bs
  aqd : e.aqd = { d.aqd with chans := [(32 * h + c, [y])] }

/-- A run of a LOCAL copy stored at its destination. -/
theorem writeRun_local {bs : List Byte} {a : Int} (hh : h < 2) (hx : x.half = h) (hc : xChan x = c) (hs : xDspace x = 0)
    (hatom : adAtom x.ent = false) (ha : addrOf a = some dst) (hd : d.aqd.chans = [(32 * h + c, [y])]) (hser : y.serial = x.serial)
    (hplain : plainMem d dst bs.length) (hmarks : d.ms.marks = []) :
    ∃ l, Copied d (writeRun d x a bs) h c dst bs (withLast y l) := by
  unfold writeRun
  simp only [hx, hc, xferOf_only hd hser, hs, ha, hatom, Bool.false_eq_true, if_false]
  obtain ⟨l, hl⟩ : ∃ l, ((a + bs.length - 1) % (2 ^ 42 : Int)).toNat = l := ⟨_, rfl⟩
  rw [hl]
  refine ⟨l, ?_⟩
  have haqd := setXfer_only (y := withLast y l) hd rfl
  have hlv {p : Nat → Bool} : Leaves [.aqd] p d (setXfer d h c (withLast y l)) := leaves_setXfer ..
  have hmem : (setXfer d h c (withLast y l)).mem = d.mem := rfl
  have hms : (setXfer d h c (withLast y l)).ms = d.ms := rfl
  change Copied d (match qWrite (count (setXfer d h c (withLast y l)) h 0x702 c _ false) dst bs with
    | (d, true) => d
    | (d, false) => xAddrFail d x a false) h c dst bs _
  generalize setXfer d h c (withLast y l) = v at haqd hlv hmem hms
  have hcnt := onlyPools_count hh v 0x702 c (unitsUnder (a % (2 ^ 42 : Int)).toNat bs.length) false
  generalize count v h 0x702 c (unitsUnder (a % (2 ^ 42 : Int)).toNat bs.length) false = w at hcnt
  have hpl : plainMem w dst bs.length := hcnt.plainMem_iff.2 ((plainMem_of_keeps hlv.2).2 hplain)
  obtain ⟨hok, hst⟩ := qWrite_plain hpl (hcnt.marks.trans (hms ▸ hmarks))
  obtain ⟨⟨u, b⟩, hu⟩ : ∃ r, qWrite w dst bs = r := ⟨_, rfl⟩
  rw [hu] at hok hst ⊢
  cases hok
  refine ⟨?_, ?_, ?_⟩
  · exact ((hlv.weaken (by simp) fun _ h => h).trans (hcnt.leaves.weaken (by simp) fun _ h => h)).trans
      (hst.leaves.weaken (by simp) fun _ h => h)
  · exact hst.mem.trans (by rw [hcnt.mem, hmem])
  · exact (hst.leaves.1 .aqd (by simp)).trans ((hcnt.leaves.1 .aqd (by simp)).trans haqd)

theorem readRuns_one {a : Int} (ha : addrOf a = some src) (hplain : plainMem d src n) (hmarks : d.ms.marks = []) :
    ∃ e, readRuns d [(a, n)] = (e, .ok (memRead d.mem src n)) ∧ OnlyPools d e := by
  obtain ⟨hr, hp⟩ := qRead_plain hplain hmarks
  simp only [readRuns, ha]
  obtain ⟨⟨e, o⟩, he⟩ : ∃ r, qRead d src n = r := ⟨_, rfl⟩
  rw [he] at hr hp ⊢
  cases hr
  exact ⟨e, by simp, hp⟩

/-- The bytes of a LOCAL copy behind no read that is still out. -/
theorem putBurst_local {bs : List Byte} {a : Int} {row : Nat} (hh : h < 2) (hx : x.half = h) (hc : xChan x = c) (hs : xDspace x = 0)
    (hatom : adAtom x.ent = false) (ha : addrOf a = some dst) (hd : d.aqd.chans = [(32 * h + c, [y])]) (hser : y.serial = x.serial)
    (hyent : y.ent = x.ent) (htouch : adTouch x.ent = false) (halive : y.dead = false) (hreqs : d.aqd.reqs = [])
    (hplain : plainMem d dst bs.length) (hmarks : d.ms.marks = []) :
    ∃ l, Copied d (putBurst d x row [(a, bs.length)] bs) h c dst bs (withLast y l) := by
  obtain ⟨l, hw⟩ := writeRun_local hh hx hc hs hatom ha hd hser hplain hmarks
  refine ⟨l, ?_⟩
  unfold putBurst
  simp only [hx, hc, hreqs, List.any_nil, Bool.false_eq_true, if_false, List.foldl_cons, List.foldl_nil, xferOf_only hd hser, halive,
    List.take_length]
  generalize writeRun d x a bs = u at hw
  have hrow : rowDone u h c x.serial row = u := by
    have hser' : (withLast y l).serial = x.serial := hser
    rw [rowDone, xferOf_only (congrArg Aqd.chans hw.aqd) hser']
    simp [withLast, hyent, htouch]
  rw [hrow]
  exact hw

theorem xDo_first (x : Xfer) : xDo x 0 0 0 = 64 * x.md := by simp [xDo]
theorem xSo_first (x : Xfer) : xSo x 0 0 0 = 64 * x.ms := by simp [xSo]

/-- The only burst of a row of a LOCAL copy. -/
theorem runBurst_local (hh : h < 2) (hx : FirstBurst x h c n src dst) (hd : d.aqd.chans = [(32 * h + c, [x])]) (hreqs : d.aqd.reqs = [])
    (hsrc : plainMem d src n) (hdst : plainMem d dst n) (hmarks : d.ms.marks = []) :
    ∃ l, Copied d (runBurst d x 0 0 none) h c dst (memRead d.mem src n) (withLast (afterBurst x) l) := by
  have hlen : min (adLen x.ent - 0) (4096 - (64 * x.md % 4096).toNat) = n := by
    rw [hx.len]
    exact min_eq_left hx.fits
  have hends : decide (adLen x.ent ≤ 0 + n) = true := by simp [hx.len]
  have hsp (r q b : Nat) : xSspace { x with row := r, pos := q, bursts := b } = 0 := hx.sspace
  have hdp (r q b : Nat) : xDspace { x with row := r, pos := q, bursts := b } = 0 := hx.dspace
  unfold runBurst
  simp only [hx.row, hx.pos, hx.swrap, hx.dwrap, if_true, xDo_first, xSo_first, hlen, hends, wrapRuns, hsp, hdp]
  change ∃ l, Copied d (match readRuns (setXfer d x.half (xChan x) (afterBurst x)) [((xSbase x : Int) + 64 * x.ms, n)] with
    | (d, .error a) => xAddrFail d (afterBurst x) a false
    | (d, .ok bs) => if 0 = 2 ∧ _ ∧ replayMode d = false then _ else
        putBurst d (burstRow x) 0 [((xDbase x : Int) + 64 * x.md, n)] bs) h c dst _ _
  rw [hx.half, hx.chan]
  have haqd := setXfer_only (y := afterBurst x) hd rfl
  have hl {p : Nat → Bool} : Leaves [.aqd] p d (setXfer d h c (afterBurst x)) := leaves_setXfer ..
  have hmem : (setXfer d h c (afterBurst x)).mem = d.mem := rfl
  have hms : (setXfer d h c (afterBurst x)).ms = d.ms := rfl
  generalize setXfer d h c (afterBurst x) = v at haqd hl hmem hms
  obtain ⟨w, hw, hp⟩ := readRuns_one hx.source ((plainMem_of_keeps hl.2).2 hsrc) (hms ▸ hmarks)
  rw [hw]
  simp only [OfNat.zero_ne_ofNat, false_and, if_false]
  have hwa : w.aqd = v.aqd := hp.leaves.1 .aqd (by simp)
  have hbs : (memRead v.mem src n).length = n := memRead_length ..
  obtain ⟨l, hput⟩ := putBurst_local (d := w) (x := burstRow x) (y := afterBurst x) (row := 0)
    (bs := memRead v.mem src n) hh hx.half hx.chan hx.dspace hx.plain hx.dest (by rw [hwa, haqd]) rfl rfl hx.touch hx.alive
    (by rw [hwa, haqd]; exact hreqs) (by rw [hbs]; exact hp.plainMem_iff.2 ((plainMem_of_keeps hl.2).2 hdst)) (hp.marks.trans (hms ▸ hmarks))
  rw [hbs] at hput
  rw [hmem] at hput ⊢
  refine ⟨l, ?_, ?_, ?_⟩
  · exact ((hl.weaken (by simp) fun _ h => h).trans (hp.leaves.weaken (by simp) fun _ h => h)).trans hput.leaves
  · rw [hput.mem, hp.mem, hmem]
  · rw [hput.aqd, hwa, haqd]

/-! ### The half picks the channel (R428) -/

theorem burstsFlying_none (hr : d.aqd.reqs = []) (h : Nat) (o : Option Nat) : burstsFlying d h o = 0 := by
  rw [burstsFlying, hr]
  rfl

theorem nextXfer_first (hx : FirstBurst x h c n src dst) (hd : d.aqd.chans = [(32 * h + c, [x])]) : nextXfer d h c = some x := by
  rw [nextXfer, chanOf_only hd]
  simp [hx.alive, xStarted, hx.row]

theorem burstReady_first {half : Half} (hx : FirstBurst x (hn half) c n src dst) (hd : d.aqd.chans = [(32 * hn half + c, [x])])
    (hr : d.aqd.reqs = []) (hrun : running d (.aqd half c) = true) : burstReady d (hn half) c = true := by
  simp [burstReady, half_of_hn, hrun, burstsFlying_none hr, nextXfer_first hx hd, xHost, hx.sspace, hx.dspace]

theorem pickChan_first {half : Half} (hc : c < 32) (hx : FirstBurst x (hn half) c n src dst)
    (hd : d.aqd.chans = [(32 * hn half + c, [x])]) (hr : d.aqd.reqs = []) (hrun : running d (.aqd half c) = true) :
    ∃ pri, pickChan d (hn half) = some (pri, c) := by
  have hk : (32 * hn half + c) / 32 = hn half ∧ (32 * hn half + c) % 32 = c := by omega
  have hhost : readsHost d (hn half) c = none := by
    rw [readsHost, nextXfer_first hx hd]
    simp [hx.sspace]
  exact ⟨_, by simp [pickChan, hd, hk.1, hk.2, burstReady_first hx hd hr hrun, hhost]; rfl⟩

theorem settled_first (hx : FirstBurst x h c n src dst) : XferSettled x :=
  ⟨hx.alive, fun _ hd => by simp [hx.dspace] at hd, by simp [xHost, hx.sspace, hx.dspace], hx.nowait⟩

/-- The burst that a channel with one LOCAL copy starts. -/
theorem burstOf_first {level : Nat} (hx : FirstBurst x h c n src dst) (hd : d.aqd.chans = [(32 * h + c, [x])]) :
    ∃ a b, burstOf d h level c none = aqdRun (runBurst ((count (count d h 0x701 c 1 false) h 0x703 c a false).withAqd
      { d.aqd with rr := b, lastBurst := sset 0 h (d.now + 1) d.aqd.lastBurst, ready := sset 0 (32 * h + c) 0 d.aqd.ready }) x 0 0 none) := by
  refine ⟨(d.now + 1 - sget 0 (32 * h + c) d.aqd.ready) / 2, sset 0 (4 * h + level) (c + 1) d.aqd.rr, ?_⟩
  unfold burstOf
  simp only [nextXfer_first hx hd, hx.row, findRow, listIndex, hx.copy, if_true, Nat.sub_zero]
  simp

/-- The transfer that has moved on is settled as before. -/
theorem settled_moved (hx : FirstBurst x h c n src dst) (l : Nat) : XferSettled (withLast (afterBurst x) l) :=
  ⟨hx.alive, fun _ hd => absurd (hx.dspace.symm.trans hd) (by decide), (settled_first hx).host, hx.nowait⟩

/-- The package once the first burst of a LOCAL copy has started. -/
structure Started1 (d u : Dev) (h c dst : Nat) (bs : List Byte) (x : Xfer) : Prop where
  leaves : Leaves [.mem, .ms, .aqd] isAccess d u
  mem : u.mem = memWrite d.mem dst bs
  chan : ∃ y, xferOf u h c x.serial = some y ∧ y.row = 1 ∧ y.bursts = x.bursts + 1

theorem burstStart_local {half : Half} (hc : c < 32) (honly : aqdOnly d (hn half) c x) (hx : FirstBurst x (hn half) c n src dst)
    (hrun : running d (.aqd half c) = true) (hlast : sget 0 (hn half) d.aqd.lastBurst = 0) (hsrc : plainMem d src n)
    (hdst : plainMem d dst n) (hmarks : d.ms.marks = []) :
    Started1 d (burstStart d (hn half) none) (hn half) c dst (memRead d.mem src n) x := by
  have hh := hn_lt_two half
  have hcalm := calm_of_only honly
  have hchans := honly.2.1
  have hrun1 : ReadyOnly d (aqdRun d) := aqdRun_settled hcalm fun a b y hy => by
    obtain rfl := mem_chanOf_only hchans hy
    exact settled_first hx
  unfold burstStart
  simp only
  generalize aqdRun d = e at hrun1
  have hle {p : Nat → Bool} : Leaves [.aqd] p d e := hrun1.leaves
  obtain ⟨hech, hequ, hereq, hesince, helast⟩ := hrun1.aqd
  rw [helast, hlast, burstsFlying_none (hereq.trans hcalm.reqs), if_neg (by simp)]
  obtain ⟨pri, hpick⟩ := pickChan_first hc hx (hech.trans hchans) (hereq.trans hcalm.reqs) (by
    rw [← hrun]
    exact congrArg (fun n => decide (n = 1)) (hle.2.fget (p := fun _ => false) rfl _))
  rw [hpick]
  simp only
  obtain ⟨a, b, hburst⟩ := burstOf_first (level := pri) hx (hech.trans hchans)
  rw [hburst]
  obtain ⟨f, hf⟩ : ∃ f, (count (count e (hn half) 0x701 c 1 false) (hn half) 0x703 c a false).withAqd
      { e.aqd with rr := b, lastBurst := sset 0 (hn half) (e.now + 1) e.aqd.lastBurst, ready := sset 0 (32 * hn half + c) 0 e.aqd.ready } = f := ⟨_, rfl⟩
  have hcnt : OnlyPools e (count (count e (hn half) 0x701 c 1 false) (hn half) 0x703 c a false) :=
    (onlyPools_count hh ..).trans (onlyPools_count hh ..)
  have hfl : Leaves [.ms, .aqd] isAccess e f := hf ▸ (leaves_withAqd_iff (by simp)).2 (hcnt.leaves.weaken (by simp) fun _ h => h)
  have hfm : f.mem = e.mem ∧ f.ms.marks = e.ms.marks := by
    rw [← hf]
    exact ⟨hcnt.mem, hcnt.marks⟩
  have hfa : f.aqd.queues = e.aqd.queues ∧ f.aqd.chans = e.aqd.chans ∧ f.aqd.reqs = e.aqd.reqs ∧ f.aqd.since = e.aqd.since := by
    rw [← hf]
    exact ⟨rfl, rfl, rfl, rfl⟩
  rw [hf]
  obtain ⟨hfq, hfc, hfr, hfs⟩ := hfa
  have hdf : Leaves [.ms, .aqd] isAccess d f := (hle.weaken (by simp) fun _ h => h).trans hfl
  have hdm : f.mem = d.mem := hfm.1.trans (by obtain ⟨r, rfl⟩ := hrun1; rfl)
  have hmf : f.ms.marks = [] := by rw [hfm.2, (hle (p := isAccess)).1 .ms (by simp), hmarks]
  obtain ⟨l, hcopy⟩ := runBurst_local hh hx (hfc.trans (hech.trans hchans)) (hfr.trans (hereq.trans hcalm.reqs))
    ((plainMem_of_keeps hdf.2).2 hsrc) ((plainMem_of_keeps hdf.2).2 hdst) hmf
  generalize runBurst f x 0 0 none = g at hcopy
  have hgc : Calm g := calm_of_aqd hcalm (by rw [hcopy.aqd]; exact hfq.trans hequ) (by rw [hcopy.aqd]; exact hfr.trans hereq)
    (by rw [hcopy.aqd]; exact hfs.trans hesince)
  have hgch : g.aqd.chans = [(32 * hn half + c, [withLast (afterBurst x) l])] := by rw [hcopy.aqd]
  have hrest : ReadyOnly g (aqdRun g) := aqdRun_settled hgc fun a b y hy => by
    obtain rfl := mem_chanOf_only hgch hy
    exact settled_moved hx l
  generalize aqdRun g = u at hrest
  refine ⟨?_, ?_, withLast (afterBurst x) l, ?_, rfl, rfl⟩
  · exact ((hdf.weaken (by simp) fun _ h => h).trans hcopy.leaves).trans (hrest.leaves.weaken (by simp) fun _ h => h)
  · obtain ⟨r, rfl⟩ := hrest
    exact hcopy.mem.trans (by rw [hdm])
  · exact xferOf_only (hrest.aqd.1.trans hgch) rfl

end

/-- Settles O43: the aqueduct with nothing else at work, by the commands in turn. An issued transfer leaves its queue for
its channel at once; the bytes of a LOCAL burst are read and stored at its start. -/
theorem aqueductMovesBytes : Obligations.AqueductMovesBytes := by
  unfold Obligations.AqueductMovesBytes
  refine ⟨?_, ?_⟩
  · intro iss chan desc gp note s d h c port op counts hidle
    have hc : c < 32 := chan.isLt
    have hh : h < 2 := hn_lt_two _
    have hport : chan.toNat / 16 = port.toNat % 2 := by
      change c / 16 = (BitVec.ofNat 1 (c / 16)).toNat % 2
      rw [BitVec.toNat_ofNat]
      omega
    have hapart : these [A.AQD_CHCNTA h c, A.AQD_CHSTS h c] (A.AQD_CHCNTB h c) = false := by
      obtain ⟨-, h2, h3⟩ := chan_regs_apart h c
      simp [these, h2.symm, h3.symm]
    refine ⟨fun e he hgood => ⟨fun hrun => ?_, fun hrun => ?_⟩, fun he => ?_⟩
    · have hu := issued_running hc hidle hrun
        (x := issuedXfer d iss (encodeAqd (.xfer chan desc 0#1 0#1 gp note)) e) xChan_issuedXfer rfl rfl
      have heq := aqdIssue_sound (gp := gp) (note := note) (e := s.dev) hport (d := d) rfl he hgood
      generalize aqdRun (xferQueued d h c (issuedXfer d iss (encodeAqd (.xfer chan desc 0#1 0#1 gp note)) e)) = u at hu heq
      obtain ⟨w, hw⟩ := hu.chan
      refine ⟨_, _, next_congr rfl heq, hw, rfl, xChan_issuedXfer (d := d) (iss := iss) (ent := e), rfl, rfl, rfl, rfl, ⟨hu.issued, ?_⟩, hu.leaves⟩
      rw [hu.leaves.2.fget hapart, Nat.add_zero]
      exact (Nat.mod_eq_of_lt (fget_lt ..)).symm
    · have hu := issued_off hc hidle hrun
        (x := issuedXfer d iss (encodeAqd (.xfer chan desc 0#1 0#1 gp note)) e) xChan_issuedXfer
      have heq := aqdIssue_sound (gp := gp) (note := note) (e := s.dev) hport (d := d) rfl he hgood
      generalize aqdRun (xferQueued d h c (issuedXfer d iss (encodeAqd (.xfer chan desc 0#1 0#1 gp note)) e)) = u at hu heq
      exact ⟨_, next_congr rfl heq, hu.chan, ⟨hu.issued, hu.discarded⟩, hu.exc, hu.mem⟩
    · have heq := aqdIssue_missing (chan := chan) (gp := gp) (note := note) (e := s.dev) (port := port.toNat) (d := d) rfl he
      exact ⟨_, next_congr rfl heq, aqdRaise_aqd, aqdRaise_exc hc (by decide), aqdRaise_mem⟩
  · intro t half chan s x d h c n honly hmarks _
    have hc : c < 32 := chan.isLt
    refine ⟨?_, ?_⟩
    · intro src dst hrun hlast hrow hpos hkind hatom htouch hss hds hsw hdw _ hsrc hdst hps hpd hfits
      have hx : FirstBurst x h c n src dst := by
        obtain ⟨-, -, -, -, halive, hwait, hhalf, hchan⟩ := honly
        exact ⟨hhalf, hchan, halive, hwait, hrow, hpos, hkind, hatom, htouch, hss, hds, hsw, hdw, rfl, hfits, hsrc, hdst⟩
      have hu := burstStart_local hc honly hx hrun hlast hps hpd hmarks
      obtain ⟨u, he⟩ : ∃ u, burstStart (settle (tick s.dev t)) (hn half) none = u := ⟨_, rfl⟩
      have hu' : Started1 d u h c dst (memRead d.mem src n) x := he ▸ hu
      obtain ⟨y, hy, hy1, hy2⟩ := hu'.chan
      have hlen : (memRead d.mem src n).length = n := memRead_length ..
      refine ⟨_, y, next_congr rfl he, ?_, fun a ha => ?_, hy, hy1, hy2, hu'.leaves⟩
      · have := memRead_memWrite d.mem dst (memRead d.mem src n)
        rwa [hlen, ← hu'.mem] at this
      · rw [hu'.mem, memGet_memWrite_out _ _ _ _ (by rwa [hlen])]
    · intro hst hback hhost hnote
      have hu := transferComplete_done (hn_lt_two half) hc honly (noneDue_settle _) hmarks hst hback hhost hnote
      obtain ⟨u, he⟩ : ∃ u, transferComplete (settle (tick s.dev t)) (hn half) chan.toNat = u := ⟨_, rfl⟩
      have hu' : chanOf u h c = [] ∧ fget u (A.AQD_CHCNTA h c) F.AQD_CHCNTA_COMPLETED =
        (fget d (A.AQD_CHCNTA h c) F.AQD_CHCNTA_COMPLETED + 1) % 2 ^ 32 ∧ Leaves [.ms, .aqd, .gov] (isChan h c) d u := he ▸ hu
      obtain ⟨h1, h2, h3⟩ := hu'
      exact ⟨_, next_congr rfl he, h1, h2, h3⟩

end Sys2Proof.Machine
end

section
/-! PROOFS. Frames, flits and IDLEs at a port (13, R449 to R465; 14, R514 to R520). -/

namespace Sys2Proof.Machine

section
variable {ps : List Piece} {p : Nat → Bool} {d e f : Dev} {q : Nat}

/-! ### What an IDLE leaves alone -/

/-- Every port is as before but for what it has to tell, and the cascades, jets and engines stand. -/
structure ToldOnly (d e : Dev) : Prop where
  ports : SamePorts d e
  cas : e.cas = d.cas
  jet : e.jet = d.jet
  ril : e.ril = d.ril

theorem ToldOnly.refl (d : Dev) : ToldOnly d d := ⟨SamePorts.refl d, rfl, rfl, rfl⟩

theorem ToldOnly.trans (h : ToldOnly d e) (k : ToldOnly e f) : ToldOnly d f :=
  ⟨h.ports.trans k.ports, k.cas.trans h.cas, k.jet.trans h.jet, k.ril.trans h.ril⟩

theorem ToldOnly.of_leaves (hp : SamePorts d e) (h : Leaves treeParts p d e) : ToldOnly d e :=
  ⟨hp, h.1 .cas (by simp [treeParts]), h.1 .jet (by simp [treeParts]), h.1 .ril (by simp [treeParts])⟩

/-- Pieces that an IDLE may touch and that hold no port. -/
def idleParts : List Piece := [.gov, .mach, .hst, .mem, .ms, .tst]

theorem ToldOnly.of_portless (h : Leaves idleParts p d e) : ToldOnly d e :=
  .of_leaves (SamePorts.of_ports (h.1 .ports (by simp [idleParts]))) (h.weaken (by simp [idleParts, treeParts]) fun _ h => h)

theorem leaves_sidMeasure (d : Dev) (q txtime echo holdt sstate hops : Nat) :
    Leaves [.mach] anyReg d (sidMeasure d q txtime echo holdt sstate hops) := by
  have hc {e : Dev} {src inst k : Nat} {single : Bool} : Leaves [.mach] anyReg d (countPkg e src inst k single) ↔
      Leaves [.mach] anyReg d e := leaves_countPkg_iff (by simp)
  have hif {e e' : Dev} {c : Prop} [Decidable c] : Leaves [.mach] anyReg d (if c then e else e') ↔
      if c then Leaves [.mach] anyReg d e else Leaves [.mach] anyReg d e' := by rw [apply_ite (Leaves [.mach] anyReg d)]
  simp only [sidMeasure]
  split
  · exact leaves_self
  · simp [hif, hc, sidEnter]

theorem leaves_sidIdle (d : Dev) (q txtime echo holdt sstate hops : Nat) :
    Leaves [.mach, .hst] anyReg d (sidIdle d q txtime echo holdt sstate hops) := by
  have hmeas (e : Dev) : Leaves [.mach, .hst] anyReg e (sidMeasure e q txtime echo holdt sstate hops) :=
    (leaves_sidMeasure ..).weaken (by simp) fun _ h => h
  have hhold (e : Dev) : Leaves [.mach, .hst] anyReg e (sidHoldover e) := (leaves_sidHoldover e).weaken (by simp) (by simp)
  have hset (e : Dev) (v : Nat) : Leaves [.mach, .hst] anyReg e (fset e A.SID_STS F.SID_STS_UPIN v) := (leaves_fset_iff rfl).2 leaves_self
  unfold sidIdle
  split
  · exact leaves_self
  · extract_lets ups e u
    have he : Leaves [.mach, .hst] anyReg d e := by
      unfold e
      split
      · exact hset d _
      · split
        · exact (leaves_setMach_iff (by simp)).2 (hset d _)
        · exact leaves_self
    split
    · exact he
    · have hu : Leaves [.mach, .hst] anyReg d u := by
        unfold u
        split
        · exact he.trans (hhold e)
        · exact he
      split
      · exact hu.trans (hmeas u)
      · exact hu

theorem toldOnly_touched (h : Leaves idleParts p d e) (qs : List Nat) : ToldOnly d (touchPorts e qs) :=
  (ToldOnly.of_portless h).trans (.of_leaves (samePorts_touchPorts e qs) ((leaves_touchPorts e qs).widen (by simp [treeParts])))

theorem toldOnly_treeRun (d : Dev) (perm : Bool) : ToldOnly d (treeRun d perm) := .of_leaves (samePorts_treeRun d perm) (leaves_treeRun d perm)

theorem toldOnly_trees (d : Dev) : ToldOnly d (trees d) := (toldOnly_treeRun d false).trans (toldOnly_treeRun _ true)

theorem toldOnly_setMach (d : Dev) (g : Mach → Mach) : ToldOnly d (setMach d g) :=
  .of_portless (p := fun _ => false) ((leaves_setMach_iff (by simp [idleParts])).2 leaves_self)

theorem toldOnly_applyVerdict (d : Dev) (s v : Nat) (perm : Bool) : ToldOnly d (applyVerdict d s v perm) :=
  .of_leaves (samePorts_applyVerdict (SamePorts.of_ports ((leaves_verdictLogged d s v perm).1 .ports (by simp))))
    ((treeFrame_logged.applyVerdict_of ((leaves_verdictLogged d s v perm).weaken (by simp [treeParts])
      fun a h => (Bool.or_eq_false_iff.1 h).2)).2 leaves_self)

theorem toldOnly_childReport (d : Dev) (q s v : Nat) (perm : Bool) : ToldOnly d (childReport d q s v perm) := by
  unfold childReport
  split
  · exact ToldOnly.refl d
  · exact (toldOnly_setMach d _).trans (toldOnly_treeRun _ perm)

theorem toldOnly_parentVerdict (d : Dev) (s v : Nat) (perm : Bool) : ToldOnly d (parentVerdict d s v perm) := by
  unfold parentVerdict
  split
  · exact ToldOnly.refl d
  · exact (toldOnly_applyVerdict d s v perm).trans (toldOnly_trees _)

theorem toldOnly_capLog (d : Dev) (kind src key : Nat) (data : List Byte) : ToldOnly d (capLog d kind src key data) :=
  .of_portless ((leaves_capLog d kind src key data).weaken (by simp [idleParts]) fun _ h => h)

theorem toldOnly_machRaise (d : Dev) (number port detail : Nat) : ToldOnly d (machRaise d number 0 port detail) :=
  .of_portless ((leaves_machRaise_info d number port detail).weaken (by simp [idleParts]) fun _ h => h)

theorem toldOnly_govSet (d : Dev) (k : GovKey) (v : Nat) : ToldOnly d (govSet d k v) :=
  .of_portless (p := fun _ => false) ((leaves_govSet_iff (by simp [idleParts])).2 leaves_self)

theorem toldOnly_holdReclaim (d : Dev) (t origin ex ey ez dl : Nat) : ToldOnly d (holdReclaim d t origin ex ey ez dl) := by
  unfold holdReclaim
  refine (toldOnly_touched (p := anyReg) ?_ _).trans (toldOnly_govSet ..)
  simp [idleParts]

theorem toldOnly_adoptReclaim (d : Dev) (q w t : Nat) : ToldOnly d (adoptReclaim d q w t) := by
  have hlost : ∀ n, ToldOnly d (noticeLost d n t).1 := fun n =>
    .of_portless ((leaves_noticeLost d n t).weaken (by simp [idleParts]) fun _ h => h)
  simp only [adoptReclaim]
  split
  · exact ToldOnly.refl d
  · exact (hlost _).trans (toldOnly_setMach ..)
  · exact (toldOnly_capLog ..).trans ((toldOnly_holdReclaim ..).trans (toldOnly_machRaise ..))

theorem toldOnly_adoptHold (d : Dev) (q t : Nat) : ToldOnly d (adoptHold d q t) := by
  have hlost : ∀ n, ToldOnly d (noticeLost d n t).1 := fun n =>
    .of_portless ((leaves_noticeLost d n t).weaken (by simp [idleParts]) fun _ h => h)
  have hheld (e : Dev) : ToldOnly e (holdHold e t) := by
    unfold holdHold
    refine (toldOnly_touched (p := anyReg) ?_ _).trans (toldOnly_govSet ..)
    simp [idleParts]
  simp only [adoptHold]
  split
  · exact ToldOnly.refl d
  · exact (hlost _).trans (toldOnly_setMach ..)
  · exact (toldOnly_capLog ..).trans (hheld _)

/-- The port once an IDLE's times and states have been taken (R514). -/
def idleTaken (d : Dev) (b : List Byte) (x : Port) : Port :=
  { x with echo := some (leAt b 0 8, sidNow d), peerSlice := leAt b 22 2, peerState := leAt b 20 1 % 4, peerHops := leAt b 20 1 / 4 }

/-- What a port keeps of the last IDLE. -/
structure IdleKept (x y : Port) : Prop where
  echo : y.echo = x.echo
  slice : y.peerSlice = x.peerSlice
  state : y.peerState = x.peerState
  hops : y.peerHops = x.peerHops

theorem IdleKept.of_told (h : ToldOnly d e) (q : Nat) : IdleKept (portOf d q) (portOf e q) := by
  obtain ⟨b, hb⟩ := h.ports q
  rw [hb]
  exact ⟨rfl, rfl, rfl, rfl⟩

theorem IdleKept.trans {x y z : Port} (h : IdleKept x y) (k : IdleKept y z) : IdleKept x z :=
  ⟨k.echo.trans h.echo, k.slice.trans h.slice, k.state.trans h.state, k.hops.trans h.hops⟩

/-- The content of an IDLE: seen at its port, and told to the tree. -/
theorem takeContent_kept (d : Dev) (q : Nat) (c : Content) : IdleKept (portOf d q) (portOf (takeContent d q c) q) ∧
    (takeContent d q c).cas = d.cas ∧ (takeContent d q c).jet = d.jet ∧ (takeContent d q c).ril = d.ril := by
  have hrest (e : Dev) (h : ToldOnly (modPort d q fun x => { x with seen := c }) e) :
      IdleKept (portOf d q) (portOf e q) ∧ e.cas = d.cas ∧ e.jet = d.jet ∧ e.ril = d.ril := by
    refine ⟨IdleKept.trans ?_ (IdleKept.of_told h q), h.cas, h.jet, h.ril⟩
    rw [modPort_port]
    exact ⟨rfl, rfl, rfl, rfl⟩
  unfold takeContent
  split
  · exact ⟨⟨rfl, rfl, rfl, rfl⟩, rfl, rfl, rfl⟩
  · simp only
    split
    · exact hrest _ (toldOnly_childReport ..)
    · split
      · exact hrest _ (toldOnly_parentVerdict ..)
      · exact hrest _ (ToldOnly.refl _)

theorem idleTake_kept (d : Dev) (q : Nat) (b : List Byte) : IdleKept (idleTaken d b (portOf d q)) (portOf (idleTake d q b) q) ∧
    (idleTake d q b).cas = d.cas ∧ (idleTake d q b).jet = d.jet ∧ (idleTake d q b).ril = d.ril := by
  unfold idleTake
  extract_lets tx s28 w e f g
  have he : portOf e q = idleTaken d b (portOf d q) ∧ e.cas = d.cas ∧ e.jet = d.jet ∧ e.ril = d.ril :=
    ⟨modPort_port .., rfl, rfl, rfl⟩
  have hf : ToldOnly e f := .of_portless ((leaves_sidIdle ..).weaken (by simp [idleParts]) fun _ h => h)
  have hg : ToldOnly f g := by
    unfold g
    split
    · exact (toldOnly_adoptReclaim ..).trans (toldOnly_adoptHold ..)
    · exact ToldOnly.refl f
  obtain ⟨hk, hc, hj, hr⟩ := takeContent_kept g q ⟨bits w 31 0, bits w 33 32, bits w 35 34, bit w 36⟩
  generalize takeContent g q ⟨bits w 31 0, bits w 33 32, bits w 35 34, bit w 36⟩ = u at hk hc hj hr
  have hall := hf.trans hg
  refine ⟨?_, hc.trans (hall.cas.trans he.2.1), hj.trans (hall.jet.trans he.2.2.1), hr.trans (hall.ril.trans he.2.2.2)⟩
  rw [← he.1]
  exact (IdleKept.of_told hall q).trans hk

/-! ### Flits out -/

/-- The port once a flit has left that returns no credits. -/
def sentPort (x : Port) (b : List Byte) : Port := { x with tx := b, nak := false, owed := x.owed }

theorem flitOut_plain (howed : (portOf d q).owed = []) (kind vc seq : Nat) (payload : List Byte) :
    flitOut d q kind vc seq payload = setPort d q (sentPort (portOf d q) (flitBytes d q kind vc seq 0 0 payload)) := by
  unfold flitOut
  simp only [howed, if_true, sentPort]

theorem portOf_countPkg (d : Dev) (src inst k : Nat) (single : Bool) (q : Nat) : portOf (countPkg d src inst k single) q = portOf d q := by
  simp only [portOf, countPkg_ports]

theorem leaves_countPkg (d : Dev) (src inst k : Nat) (single : Bool) : Leaves ps isCounter d (countPkg d src inst k single) :=
  (leaves_countPkg_iff fun _ h => h).2 leaves_self

theorem sendIdle_plain (howed : (portOf d q).owed = []) :
    (portOf (sendIdle d q) q).tx = flitBytes d q 0 0 (fget d (A.HRM_RPL q) F.HRM_RPL_NEXTSEQ) 0 0 (idleContent d q) ∧
      (portOf (sendIdle d q) q).idleAt = sidNow d + 1 ∧ (portOf (sendIdle d q) q).newContent = false ∧
      Leaves [.ports] isCounter d (sendIdle d q) := by
  have hport : portOf (sendIdle d q) q = { sentPort (portOf d q) (flitBytes d q 0 0 (fget d (A.HRM_RPL q) F.HRM_RPL_NEXTSEQ) 0 0
      (idleContent d q)) with idleAt := sidNow d + 1, newContent := false } := by
    simp only [sendIdle, flitOut_plain howed]
    rw [portOf_countPkg, modPort_port, setPort_port]
    rfl
  have hl : Leaves [.ports] isCounter d (sendIdle d q) := by
    simp only [sendIdle, flitOut_plain howed]
    exact ((leaves_setPort d q _).trans (leaves_setPort ..)).trans (leaves_countPkg ..)
  exact ⟨by rw [hport]; rfl, by rw [hport], by rw [hport], hl⟩

/-- The port once a message of one flit has left it. -/
def messageSent (x : Port) (seq : Nat) (payload : List Byte) (o : Out) : Port :=
  { x with replay := x.replay ++ [⟨seq, 5, payload, 0, o⟩], queue := x.queue.filter fun r => r.id != o.id }

/-- The registers of a port once a flit has taken a sequence number and a credit of VC0 (R462, R464). -/
def numbered (d : Dev) (q seq : Nat) : Dev :=
  fset (finc (fset d (A.HRM_RPL q) F.HRM_RPL_NEXTSEQ (seq + 1)) (A.HRM_RPL q) F.HRM_RPL_OCC 1) (A.HRM_VCCRED q 0) F.HRM_VCCRED_SCRED
    (creditOf (finc (fset d (A.HRM_RPL q) F.HRM_RPL_NEXTSEQ (seq + 1)) (A.HRM_RPL q) F.HRM_RPL_OCC 1) q 0 - 1)

theorem rpl_ne_vccred (q v : Nat) (hv : v < 6) : A.HRM_RPL q ≠ A.HRM_VCCRED q v := by
  simp only [A.HRM_RPL, A.HRM_VCCRED]
  omega

theorem leaves_numbered (d : Dev) (q seq : Nat) : Leaves ps (these [A.HRM_RPL q, A.HRM_VCCRED q 0]) d (numbered d q seq) := by
  rw [numbered, leaves_fset_iff (by simp), leaves_finc_iff (by simp), leaves_fset_iff (by simp)]
  exact leaves_self

theorem numbered_next (d : Dev) (q seq : Nat) : fget (numbered d q seq) (A.HRM_RPL q) F.HRM_RPL_NEXTSEQ = (seq + 1) % 4096 := by
  rw [numbered, fget_fset_ne _ (rpl_ne_vccred q 0 (by omega)), finc, fget_fset_apart _ _ _ _ _ _ rfl rfl rfl, fget_fset_self _ _ _ _ rfl]
  rfl

theorem numbered_credit (d : Dev) (q seq : Nat) (h : creditOf d q 0 ≠ 0) :
    fget (numbered d q seq) (A.HRM_VCCRED q 0) F.HRM_VCCRED_SCRED + 1 = creditOf d q 0 := by
  have hne := (rpl_ne_vccred q 0 (by omega)).symm
  have hsame : creditOf (finc (fset d (A.HRM_RPL q) F.HRM_RPL_NEXTSEQ (seq + 1)) (A.HRM_RPL q) F.HRM_RPL_OCC 1) q 0 = creditOf d q 0 := by
    rw [creditOf, finc, fget_fset_ne _ hne, fget_fset_ne _ hne]
    rfl
  have hlt : creditOf d q 0 < 2 ^ 16 := fget_lt d (A.HRM_VCCRED q 0) F.HRM_VCCRED_SCRED
  rw [numbered, fget_fset_self _ _ _ _ rfl, hsame]
  change (creditOf d q 0 - 1) % 2 ^ 16 + 1 = _
  omega

/-- What a message of one flit on VC0 does as it leaves. -/
def sentData (d : Dev) (q seq : Nat) (payload : List Byte) (o : Out) : Dev :=
  numbered (modPort (setPort d q (sentPort (portOf d q) (flitBytes d q 5 0 seq 0 0 payload))) q fun x => messageSent x seq payload o) q seq

theorem sendData_single {o : Out} (howed : (portOf d q).owed = []) (hsent : o.sent = 0) (hlen : o.msg.data.length ≤ 212)
    (hvc : o.msg.vc = 0) : sendData d q o = countPkg (countPkg (sentData d q (fget d (A.HRM_RPL q) F.HRM_RPL_NEXTSEQ)
      (msgHeader d q o.msg ++ o.msg.data) o) 0x800 q 1 false) 0x810 q 1 false := by
  have hflits : flitsOf o.msg = 1 := by
    rw [flitsOf]
    omega
  unfold sendData
  simp only [hsent, hflits, hvc, Nat.zero_add, decide_true, if_true, List.take_of_length_le hlen, flitOut_plain howed]
  rfl

theorem sentData_shown (d : Dev) {seq : Nat} {payload : List Byte} {o : Out} (hcred : creditOf d q 0 ≠ 0) :
    portOf (sentData d q seq payload o) q = messageSent (sentPort (portOf d q) (flitBytes d q 5 0 seq 0 0 payload)) seq payload o ∧
      fget (sentData d q seq payload o) (A.HRM_RPL q) F.HRM_RPL_NEXTSEQ = (seq + 1) % 4096 ∧
      fget (sentData d q seq payload o) (A.HRM_VCCRED q 0) F.HRM_VCCRED_SCRED + 1 = fget d (A.HRM_VCCRED q 0) F.HRM_VCCRED_SCRED ∧
      Leaves [.ports] (these [A.HRM_RPL q, A.HRM_VCCRED q 0]) d (sentData d q seq payload o) := by
  unfold sentData
  have hport : portOf (modPort (setPort d q (sentPort (portOf d q) (flitBytes d q 5 0 seq 0 0 payload))) q fun x => messageSent x seq payload o) q =
      messageSent (sentPort (portOf d q) (flitBytes d q 5 0 seq 0 0 payload)) seq payload o := by rw [modPort_port, setPort_port]
  have hl {p : Nat → Bool} : Leaves [.ports] p d (modPort (setPort d q (sentPort (portOf d q) (flitBytes d q 5 0 seq 0 0 payload))) q
      fun x => messageSent x seq payload o) := (leaves_setPort d q _).trans (leaves_setPort ..)
  generalize modPort (setPort d q (sentPort (portOf d q) (flitBytes d q 5 0 seq 0 0 payload))) q (fun x => messageSent x seq payload o) = e at hport hl
  have hcr : creditOf e q 0 = creditOf d q 0 := (hl (p := fun _ => false)).2.fget rfl _
  refine ⟨?_, numbered_next e q seq, ?_, hl.trans (leaves_numbered e q seq)⟩
  · rw [portOf, (leaves_numbered (ps := []) e q seq).1 .ports (by simp)]
    exact hport
  · rw [numbered_credit e q seq (by rwa [hcr])]
    exact hcr

/-! ### Flits in -/

theorem adoptFlags_none (d : Dev) (q sstep : Nat) : adoptFlags d q 0 sstep = d := by simp [adoptFlags]

theorem takeAck_empty (h : (portOf d q).replay = []) (ack : Nat) : takeAck d q ack = d := by simp [takeAck, h]

theorem takeCredits_none (d : Dev) (q cvc : Nat) : takeCredits d q cvc 0 = d := by simp [takeCredits]

/-- The port once a flit has been accepted. -/
def acceptedPort (x : Port) : Port := { x with expect := (x.expect + 1) % 4096, accepted := true }

/-- The port with no part of a message left on a virtual channel. -/
def partless (x : Port) (v : Nat) : Port := { x with parts := sdel v x.parts }

/-- The port with one more message that waits to be delivered. -/
def inboxPort (x : Port) (m : Msg) : Port := { x with inbox := x.inbox ++ [m] }

/-- A place of a buffer taken. -/
def placeTaken (d : Dev) (q v : Nat) : Dev :=
  fset d (A.HRM_VCCRED q v) F.HRM_VCCRED_RXOCC (fget d (A.HRM_VCCRED q v) F.HRM_VCCRED_RXOCC + 1)

/-- A flit that holds its message whole: it takes a place of the buffer and waits in the inbox. -/
theorem flitTake_whole {payload : List Byte} {v : Nat} (hbad : protoBad (msgOf payload v) (leAt payload 0 8) = false) :
    flitTake d q 5 v payload = modPort (modPort (placeTaken d q v) q fun x => partless x v) q fun x => inboxPort x (msgOf payload v) := by
  have hwhole (e : Dev) : msgWhole e q (msgOf payload v) (leAt payload 0 8) = modPort e q fun x => inboxPort x (msgOf payload v) := by
    rw [msgWhole, hbad]
    rfl
  unfold flitTake
  simp only [show (5 : Nat) < 6 by decide, if_true, show 5 % 2 = 1 from rfl]
  exact hwhole _

/-- A flit that is the next expected and holds a message whole, with nothing else to tell. -/
theorem flitReceive_whole {b : List Byte} (hst : 4 ≤ lstate d q) (hlen : b.length = 256) (hcrc : leAt b 252 4 = crc32c (b.take 252))
    (hframe : (portOf d q).frameBad = false) (hkind : bits (leAt b 0 8) 3 0 = 5) (hv : bits (leAt b 0 8) 6 4 ≤ 5)
    (hseq : bits (leAt b 0 8) 19 8 = (portOf d q).expect) (hreplay : (portOf d q).replay = []) (hnak : bit (leAt b 0 8) 32 = false)
    (hflags : bits (leAt b 0 8) 48 45 = 0) (hcred : bits (leAt b 0 8) 44 36 = 0) :
    flitReceive d q b = flitTake (countPkg (modPort d q acceptedPort) 0x801 q 1 false) q 5 (bits (leAt b 0 8) 6 4) ((b.drop 8).take 244) := by
  have hst' : ¬ lstate d q < 4 := by omega
  unfold flitReceive
  simp only [if_neg hst', hlen, hcrc, hframe, hkind, hv, hflags, hcred, hnak, hseq, adoptFlags_none, takeCredits_none]
  simp [hst', takeAck_empty hreplay]
  rfl

/-- A flit whose length or CRC is wrong calls for a NAK. -/
theorem flitReceive_bad {b : List Byte} (hst : 4 ≤ lstate d q) (hbad : b.length ≠ 256 ∨ leAt b 252 4 ≠ crc32c (b.take 252))
    (hnak : (portOf d q).nakAt = 0) :
    flitReceive d q b = setPort (countPkg d 0x803 q 1 false) q
      { portOf d q with nak := true, nakAt := (countPkg d 0x803 q 1 false).now + 1 } := by
  have hst' : ¬ lstate d q < 4 := by omega
  have hnok (x y : Bool) : (decide (b.length = 256) && leAt b 252 4 == crc32c (b.take 252) && x && y && decide (bits (leAt b 0 8) 6 4 ≤ 5)) = false := by
    obtain h | h := hbad
    · simp [h]
    · simp [h]
  unfold flitReceive
  simp only [if_neg hst', hnok, Bool.not_false, if_true, nakNow, portOf_countPkg, hnak, ne_eq, not_true_eq_false, false_and, if_false]

/-- What the acceptance of a flit with a whole message leaves. -/
theorem flitTake_shown {v : Nat} {payload : List Byte} (hq : q < 8) (hv : v < 6)
    (hbad : protoBad (msgOf payload v) (leAt payload 0 8) = false) :
    let u := flitTake (countPkg (modPort d q acceptedPort) 0x801 q 1 false) q 5 v payload
    portOf u q = inboxPort (partless (acceptedPort (portOf d q)) v) (msgOf payload v) ∧
      fget u (A.HRM_VCCRED q v) F.HRM_VCCRED_RXOCC = (fget d (A.HRM_VCCRED q v) F.HRM_VCCRED_RXOCC + 1) % 2 ^ 16 ∧
      Leaves [.ports] (fun a => isCounter a || a == A.HRM_VCCRED q v) d u := by
  intro u
  have hu : u = modPort (modPort (placeTaken (countPkg (modPort d q acceptedPort) 0x801 q 1 false) q v) q fun x => partless x v) q
      fun x => inboxPort x (msgOf payload v) := flitTake_whole hbad
  have hcr : isCounter (A.HRM_VCCRED q v) = false := not_isCounter_port hq (isPort_vccred hv)
  have hl : Leaves [.ports] isCounter d (countPkg (modPort d q acceptedPort) 0x801 q 1 false) :=
    (leaves_setPort d q _).trans (leaves_countPkg ..)
  have hp : portOf (countPkg (modPort d q acceptedPort) 0x801 q 1 false) q = acceptedPort (portOf d q) := by
    rw [portOf_countPkg, modPort_port]
  generalize countPkg (modPort d q acceptedPort) 0x801 q 1 false = e at hu hl hp
  have hplace : fget (placeTaken e q v) (A.HRM_VCCRED q v) F.HRM_VCCRED_RXOCC = (fget d (A.HRM_VCCRED q v) F.HRM_VCCRED_RXOCC + 1) % 2 ^ 16 := by
    rw [placeTaken, fget_fset_self _ _ _ _ rfl, hl.2.fget hcr]
    rfl
  have hpl : Leaves [.ports] (fun a => isCounter a || a == A.HRM_VCCRED q v) d (placeTaken e q v) := by
    rw [placeTaken, leaves_fset_iff (by simp)]
    exact hl.weaken (fun _ h => h) fun a h => (Bool.or_eq_false_iff.1 h).1
  have hpp : portOf (placeTaken e q v) q = acceptedPort (portOf d q) := (portOf_fset ..).trans hp
  generalize placeTaken e q v = f at hu hplace hpl hpp
  rw [hu]
  refine ⟨?_, ?_, hpl.trans ((leaves_setPort ..).trans (leaves_setPort ..))⟩
  · rw [modPort_port, modPort_port, hpp]
  · exact (fget_setPort ..).trans ((fget_setPort ..).trans hplace)

/-! ### Frames -/

/-- The corrections of a frame without failures counted. -/
def corrected (d : Dev) (q n : Nat) : Dev :=
  fincSat (countPkg (fincSat (countPkg d 0x805 q n false) (A.HRM_ERRCNT q) F.HRM_ERRCNT_FECCORR n) 0x806 q 0 false) (A.HRM_ERRCNT q)
    F.HRM_ERRCNT_FECUNC 0

/-- The port once its first frame has been decoded. -/
def framedPort (x : Port) (f : FrameIn) (par : List Nat) : Port :=
  { x with badFrames := 0, frameNo := some f.no, frameBad := false, rx := f.flits, parRaw := par }

theorem leaves_corrected (d : Dev) (q n : Nat) : Leaves ps (fun a => isCounter a || a == A.HRM_ERRCNT q) d (corrected d q n) := by
  have hc {e : Dev} {src k : Nat} : Leaves ps (fun a => isCounter a || a == A.HRM_ERRCNT q) d (countPkg e src q k false) ↔
      Leaves ps (fun a => isCounter a || a == A.HRM_ERRCNT q) d e := leaves_countPkg_iff fun a h => (Bool.or_eq_false_iff.1 h).1
  rw [corrected, leaves_fincSat_iff (by simp), hc, leaves_fincSat_iff (by simp), hc]
  exact leaves_self

theorem isCounter_errcnt (hq : q < 8) : isCounter (A.HRM_ERRCNT q) = false :=
  not_isCounter_port hq (by rw [isPort_iff, A.HRM_ERRCNT]; omega)

theorem fget_countPkg {a : Nat} (ha : isCounter a = false) (src inst k : Nat) (single : Bool) (f : Fld) :
    fget (countPkg d src inst k single) a f = fget d a f := (leaves_countPkg (ps := []) d src inst k single).2.fget ha f

theorem corrected_count (hq : q < 8) (n : Nat) : fget (corrected d q n) (A.HRM_ERRCNT q) F.HRM_ERRCNT_FECCORR =
    min (fget d (A.HRM_ERRCNT q) F.HRM_ERRCNT_FECCORR + n) (2 ^ 32 - 1) := by
  have hc := isCounter_errcnt hq
  rw [corrected, fincSat, fget_fset_apart _ _ _ _ _ _ rfl rfl rfl, fget_countPkg hc, fincSat, fget_fset_self _ _ _ _ rfl, fget_countPkg hc]
  refine Nat.mod_eq_of_lt ?_
  change min _ (2 ^ 32 - 1) < 2 ^ 32
  omega

theorem lstate_corrected (hq : q < 8) (n : Nat) : lstate (corrected d q n) q = lstate d q := by
  refine (leaves_corrected (ps := []) d q n).2.fget ?_ _
  rw [not_isCounter_port hq (isPort_psts q), Bool.false_or]
  simp [A.HRM_PSTS, A.HRM_ERRCNT]

theorem frameReceive_first {syms : List Nat} (hst : lstate d q = 4) (hfail : (frameDecode (linkLanes d q) syms).failed = 0)
    (hno : (portOf d q).frameNo = none) (hq : q < 8) :
    frameReceive d q syms = setPort (corrected d q (frameDecode (linkLanes d q) syms).corrected) q
      (framedPort (portOf d q) (frameDecode (linkLanes d q) syms) (laneParity (linkLanes d q) syms)) := by
  simp only [frameReceive]
  generalize linkLanes d q = w at hfail ⊢
  generalize frameDecode w syms = f at hfail ⊢
  have hcorr : fincSat (countPkg (fincSat (countPkg d 0x805 q f.corrected false) (A.HRM_ERRCNT q) F.HRM_ERRCNT_FECCORR f.corrected) 0x806 q
      0 false) (A.HRM_ERRCNT q) F.HRM_ERRCNT_FECUNC 0 = corrected d q f.corrected := rfl
  have hport : portOf (corrected d q f.corrected) q = portOf d q := by
    rw [portOf, (leaves_corrected (ps := []) d q f.corrected).1 .ports (by simp)]
    rfl
  have hl := lstate_corrected (d := d) hq f.corrected
  simp only [hst, hcorr, hport, hno, hfail]
  generalize corrected d q f.corrected = e at hl hport
  have hl4 (x : Port) : lstate (setPort e q x) q = 4 := hl.trans hst
  simp [hl4, framedPort]

theorem nextOut_some {v : Nat} {o : Out} (h : nextOut d q v = some o) : creditOf d q v ≠ 0 ∧ o.msg.vc = v := by
  simp only [nextOut] at h
  split at h
  · cases h
  · next hno =>
    refine ⟨fun h0 => hno (.inl h0), ?_⟩
    split at h
    · cases h
    · next o' hfind =>
      split at h
      · cases h
        simpa using List.find?_some hfind
      · cases h

theorem flitSend_next {o : Out} (hst : 4 ≤ lstate d q) (hidle : idleDue d q = false) (hresend : (portOf d q).resend = none)
    (hnext : nextOut d q 0 = some o) : flitSend d q = sendData d q o := by
  have hst' : ¬ lstate d q < 4 := by omega
  simp only [flitSend, if_neg hst', hidle, Bool.false_eq_true, if_false, hresend, Option.bind_none, hnext]

end

/-- Settles O47: what each kind of frame, flit and IDLE does at its port, and what it leaves alone. -/
theorem framesFlitsAndIdlesPass : Obligations.FramesFlitsAndIdlesPass := by
  unfold Obligations.FramesFlitsAndIdlesPass
  intro t port s d q x rpl seq hst
  have hq : q < 8 := port.isLt
  refine ⟨?_, ?_, ?_, ?_, ?_, ?_⟩
  · intro syms f h4 hfail hno
    have he := frameReceive_first (syms := syms) h4 hfail hno hq
    have hcount := corrected_count (d := d) hq f.corrected
    have hl : Leaves [.ports] (fun a => isCounter a || a == A.HRM_ERRCNT q) d (corrected d q f.corrected) := leaves_corrected ..
    generalize corrected d q (frameDecode (linkLanes d q) syms).corrected = e at he hcount hl
    refine ⟨_, next_congr rfl he, ?_, ?_, ?_, hcount, hl.trans ((leaves_setPort_iff (by simp)).2 leaves_self)⟩
    · rw [setPort_port]
      rfl
    · rw [setPort_port]
      rfl
    · rw [setPort_port]
      rfl
  · intro b hbad hnak
    have he := flitReceive_bad (q := q) hst hbad hnak
    have hl : Leaves [.ports] isCounter d (countPkg d 0x803 q 1 false) := leaves_countPkg ..
    generalize countPkg d 0x803 q 1 false = e at he hl
    refine ⟨_, next_congr rfl he, ?_, ?_, ?_, hl.trans ((leaves_setPort_iff (by simp)).2 leaves_self)⟩
    · rw [setPort_port]
    · rw [setPort_port]
    · rw [setPort_port]
  · intro b h v payload m hlen hcrc hframe hkind hv hseq hreplay hnak hcred hflags hproto
    have he := flitReceive_whole hst hlen hcrc hframe hkind hv hseq hreplay hnak hcred hflags
    obtain ⟨hport, hocc, hl⟩ := flitTake_shown (d := d) hq (Nat.lt_succ_of_le hv) hproto
    change flitReceive d q b = flitTake (countPkg (modPort d q acceptedPort) 0x801 q 1 false) q 5 v payload at he
    generalize flitTake (countPkg (modPort d q acceptedPort) 0x801 q 1 false) q 5 v payload = u at he hport hocc hl
    refine ⟨_, next_congr rfl he, ?_, ?_, ?_, hocc, hl⟩
    · rw [hport]
      rfl
    · rw [hport]
      rfl
    · rw [hport]
      rfl
  · intro o hidle hresend hnext hsent hlen howed payload
    obtain ⟨hcred, hvc⟩ := nextOut_some hnext
    have he := flitSend_next hst hidle hresend hnext
    rw [sendData_single howed hsent hlen hvc] at he
    obtain ⟨hport, hnum, hc, hl⟩ := sentData_shown d (seq := seq) (payload := payload) (o := o) hcred
    change flitSend d q = countPkg (countPkg (sentData d q seq payload o) 0x800 q 1 false) 0x810 q 1 false at he
    generalize sentData d q seq payload o = e at he hport hnum hc hl
    have hrpl : isCounter rpl = false := not_isCounter_port hq (isPort_rpl q)
    have hcr : isCounter (A.HRM_VCCRED q 0) = false := not_isCounter_port hq (isPort_vccred (by omega))
    refine ⟨_, next_congr rfl he, ?_, ?_, ?_, ?_, ?_, ?_⟩
    · rw [portOf_countPkg, portOf_countPkg, hport]
      rfl
    · rw [portOf_countPkg, portOf_countPkg, hport]
      rfl
    · rw [portOf_countPkg, portOf_countPkg, hport]
      rfl
    · rw [fget_countPkg hrpl, fget_countPkg hrpl, hnum]
    · rw [fget_countPkg hcr, fget_countPkg hcr, hc]
    · have hcount : Leaves [.ports] isCounter e (countPkg (countPkg e 0x800 q 1 false) 0x810 q 1 false) :=
        (leaves_countPkg ..).trans (leaves_countPkg ..)
      exact (hl.weaken (fun _ h => h) fun a h => (Bool.or_eq_false_iff.1 h).2).trans
        (hcount.weaken (fun _ h => h) fun a h => (Bool.or_eq_false_iff.1 h).1)
  · intro howed
    obtain ⟨htx, hat, hnew, hl⟩ := sendIdle_plain (d := d) (q := q) howed
    obtain ⟨u, hu⟩ : ∃ u, sendIdle d q = u := ⟨_, rfl⟩
    have he : (if lstate d q < 4 then d else sendIdle d q) = u := by rw [if_neg (by omega), hu]
    rw [hu] at htx hat hnew hl
    exact ⟨_, next_congr rfl he, htx, hat, hnew, hl⟩
  · intro content
    obtain ⟨hk, hc, hj, hr⟩ := idleTake_kept d q content
    obtain ⟨u, hu⟩ : ∃ u, idleTake d q content = u := ⟨_, rfl⟩
    rw [hu] at hk hc hj hr
    exact ⟨_, next_congr rfl hu, hk.echo, hk.slice, hk.state, hk.hops, hc, hj, hr⟩

end Sys2Proof.Machine
end

section
/-! PROOFS. What resets and drains keep of the power domain: its pins, its registers, and the states of the links (16,
R590 to R608; 17, R626). Of everything that the loss of a link or the drain of a block can do, nothing touches them. -/

namespace Sys2Proof.Machine

section
variable {ps : List Piece} {p : Nat → Bool} {d e : Dev}

/-! ### The power domain's view of the package -/

/-- Registers that belong to the power domain or show the state of a link. -/
def powerReg (a : Nat) : Bool :=
  decide (0x200000 ≤ a) && decide (a < 0x300000) || decide (0x600000 ≤ a) && decide (a < 0x700000) && a % 0x20000 == 8

/-- The pins, the registers of the power domain and the states of the links. -/
def power (d : Dev) : Pwr × (Nat → W64) × (Nat → Nat) :=
  (d.pwr, fun a => if 0x200000 ≤ a ∧ a < 0x300000 then regGet d a else 0, fun q => if q < 8 then lstate d q else 0)

theorem power_ext (hp : e.pwr = d.pwr) (hr : ∀ a, 0x200000 ≤ a → a < 0x300000 → regGet e a = regGet d a)
    (hl : ∀ q, q < 8 → lstate e q = lstate d q) : power e = power d := by
  refine Prod.ext hp (Prod.ext ?_ ?_)
  · funext a
    simp only [power]
    split
    · next h => exact hr a h.1 h.2
    · rfl
  · funext q
    simp only [power]
    split
    · next h => exact hl q h
    · rfl

theorem pwr_of_power (h : power e = power d) : e.pwr = d.pwr := congrArg Prod.fst h

theorem regGet_of_power (h : power e = power d) {a : Nat} (h1 : 0x200000 ≤ a) (h2 : a < 0x300000) : regGet e a = regGet d a := by
  have := congrFun (congrArg (fun x => x.2.1) h) a
  simpa [power, h1, h2] using this

theorem lstate_of_power (h : power e = power d) {q : Nat} (hq : q < 8) : lstate e q = lstate d q := by
  have := congrFun (congrArg (fun x => x.2.2) h) q
  simpa [power, hq] using this

theorem power_of_keeps (hp : e.pwr = d.pwr) (hk : keepsRegs (fun a => !powerReg a) d e) : power e = power d := by
  refine power_ext hp (fun a h1 h2 => hk a ?_) fun q hq => hk.fget ?_ _
  · simp [powerReg, h1, h2]
  · have h1 : 0x600000 ≤ A.HRM_PSTS q ∧ A.HRM_PSTS q < 0x700000 ∧ A.HRM_PSTS q % 0x20000 = 8 := by
      simp only [A.HRM_PSTS]
      omega
    simp [powerReg, h1]

theorem power_of_leaves (h : Leaves ps p d e) (hp : Piece.pwr ∉ ps) (hr : ∀ a, p a = true → powerReg a = false) : power e = power d :=
  power_of_keeps (h.1 .pwr hp) fun a ha => h.2 a (by
    rw [Bool.eq_false_iff]
    intro hpa
    simp [hr a hpa] at ha)

theorem power_congr (hp : e.pwr = d.pwr) (hr : e.regs = d.regs) : power e = power d :=
  power_of_keeps hp fun a _ => by rw [regGet, regGet, hr]

@[simp] theorem power_ite (c : Prop) [Decidable c] (d e : Dev) : power (if c then d else e) = if c then power d else power e := apply_ite _ _ _ _

theorem power_foldl {β : Type} {g : Dev → β → Dev} (hg : ∀ d b, power (g d b) = power d) (l : List β) (d : Dev) :
    power (l.foldl g d) = power d := by
  induction l generalizing d with
  | nil => rfl
  | cons b r ih => rw [List.foldl_cons, ih, hg]

theorem power_foldl_fst {β γ : Type} {g : Dev × γ → β → Dev × γ} (hg : ∀ s b, power (g s b).1 = power s.1) (l : List β) (s : Dev × γ) :
    power (l.foldl g s).1 = power s.1 := by
  induction l generalizing s with
  | nil => rfl
  | cons b r ih => rw [List.foldl_cons, ih, hg]

theorem power_of_fst {α : Type} {x : α} {r : Dev × α} (hr : power r.1 = power d) (h : r = (e, x)) : power e = power d := by
  subst h
  exact hr

@[simp] theorem power_regSet {a : Nat} (h : powerReg a = false) (v : W64) : power (regSet d a v) = power d :=
  power_of_keeps rfl fun b hb => regGet_regSet_ne _ (by rintro rfl; simp [h] at hb) _

@[simp] theorem power_fset {a : Nat} (h : powerReg a = false) (f : Fld) (v : Nat) : power (fset d a f v) = power d := power_regSet h _
@[simp] theorem power_finc {a : Nat} (h : powerReg a = false) (f : Fld) (v : Nat) : power (finc d a f v) = power d := power_regSet h _
@[simp] theorem power_fincSat {a : Nat} (h : powerReg a = false) (f : Fld) (v : Nat) : power (fincSat d a f v) = power d := power_regSet h _

/-- A field of a link's status that is not its state. -/
theorem power_fset_link {q : Nat} {f : Fld} (hf : f.ok = true) (ha : f.apart F.HRM_PSTS_LSTATE = true) (v : Nat) :
    power (fset d (A.HRM_PSTS q) f v) = power d := by
  refine power_ext (fset_pwr ..) (fun a h1 h2 => ?_) fun q' _ => fget_fset_apart _ _ _ _ _ _ hf rfl ha
  refine regGet_regSet_ne _ ?_ _
  simp only [A.HRM_PSTS]
  omega

@[simp] theorem power_setPort (d : Dev) (q : Nat) (x : Port) : power (setPort d q x) = power d := power_congr rfl rfl
@[simp] theorem power_modPort (d : Dev) (q : Nat) (g : Port → Port) : power (modPort d q g) = power d := power_congr rfl rfl
@[simp] theorem power_setMach (d : Dev) (g : Mach → Mach) : power (setMach d g) = power d := power_congr rfl rfl
@[simp] theorem power_govSet (d : Dev) (k : GovKey) (v : Nat) : power (govSet d k v) = power d := power_congr rfl rfl

@[simp] theorem power_withNow (d : Dev) (v : Nat) : power (d.withNow v) = power d := power_congr rfl rfl
@[simp] theorem power_withFresh (d : Dev) (v : Nat) : power (d.withFresh v) = power d := power_congr rfl rfl
@[simp] theorem power_withSidPrev (d : Dev) (v : Nat) : power (d.withSidPrev v) = power d := power_congr rfl rfl
@[simp] theorem power_withLive (d : Dev) (v : List (Nat × W64)) : power (d.withLive v) = power d := power_congr rfl rfl
@[simp] theorem power_withRoleLocked (d : Dev) (v : Bool) : power (d.withRoleLocked v) = power d := power_congr rfl rfl
@[simp] theorem power_withMem (d : Dev) (v : List Host.Cell) : power (d.withMem v) = power d := power_congr rfl rfl
@[simp] theorem power_withNv (d : Dev) (v : List Host.Cell) : power (d.withNv v) = power d := power_congr rfl rfl
@[simp] theorem power_withNvNext (d : Dev) (v : List Host.Cell) : power (d.withNvNext v) = power d := power_congr rfl rfl
@[simp] theorem power_withPend (d : Dev) (v : List GovEvent) : power (d.withPend v) = power d := power_congr rfl rfl
@[simp] theorem power_withObs (d : Dev) (v : List (GovKey × Nat)) : power (d.withObs v) = power d := power_congr rfl rfl
@[simp] theorem power_withSeq (d : Dev) (v : Seq) : power (d.withSeq v) = power d := power_congr rfl rfl
@[simp] theorem power_withTables (d : Dev) (v : Tables) : power (d.withTables v) = power d := power_congr rfl rfl
@[simp] theorem power_withCas (d : Dev) (v : Cas) : power (d.withCas v) = power d := power_congr rfl rfl
@[simp] theorem power_withJet (d : Dev) (v : Jet) : power (d.withJet v) = power d := power_congr rfl rfl
@[simp] theorem power_withAst (d : Dev) (v : Ast) : power (d.withAst v) = power d := power_congr rfl rfl
@[simp] theorem power_withEphRes (d : Dev) (v : List (Nat × EphRes)) : power (d.withEphRes v) = power d := power_congr rfl rfl
@[simp] theorem power_withRvrUse (d : Dev) (v : List (Nat × Nat)) : power (d.withRvrUse v) = power d := power_congr rfl rfl
@[simp] theorem power_withEph (d : Dev) (v : Eph) : power (d.withEph v) = power d := power_congr rfl rfl
@[simp] theorem power_withRil (d : Dev) (v : Ril) : power (d.withRil v) = power d := power_congr rfl rfl
@[simp] theorem power_withWei (d : Dev) (v : Wei) : power (d.withWei v) = power d := power_congr rfl rfl
@[simp] theorem power_withAqd (d : Dev) (v : Aqd) : power (d.withAqd v) = power d := power_congr rfl rfl
@[simp] theorem power_withDrainAt (d : Dev) (v : List (Nat × Nat)) : power (d.withDrainAt v) = power d := power_congr rfl rfl
@[simp] theorem power_withPorts (d : Dev) (v : List (Nat × Port)) : power (d.withPorts v) = power d := power_congr rfl rfl
@[simp] theorem power_withMach (d : Dev) (v : Mach) : power (d.withMach v) = power d := power_congr rfl rfl
@[simp] theorem power_withHst (d : Dev) (v : Hst) : power (d.withHst v) = power d := power_congr rfl rfl
@[simp] theorem power_withMs (d : Dev) (v : MemSys) : power (d.withMs v) = power d := power_congr rfl rfl
@[simp] theorem power_withTst (d : Dev) (v : Tst) : power (d.withTst v) = power d := power_congr rfl rfl
@[simp] theorem power_withMgt (d : Dev) (v : Mgt) : power (d.withMgt v) = power d := power_congr rfl rfl

/-! ### Registers outside -/

theorem powerReg_high {a : Nat} (h : 0x700000 ≤ a) : powerReg a = false := by
  have h1 : ¬ a < 0x300000 := by omega
  have h2 : ¬ a < 0x700000 := by omega
  simp [powerReg, h1, h2]

theorem powerReg_port {a : Nat} (h : 0x600000 ≤ a) (h8 : a % 0x20000 ≠ 8) : powerReg a = false := by
  have h1 : ¬ a < 0x300000 := by omega
  simp [powerReg, h1, h8]

@[simp] theorem powerReg_AQD_CHCNTA (h n : Nat) : powerReg (A.AQD_CHCNTA h n) = false := powerReg_high (by simp only [A.AQD_CHCNTA]; omega)
@[simp] theorem powerReg_AQD_CHCNTB (h n : Nat) : powerReg (A.AQD_CHCNTB h n) = false := powerReg_high (by simp only [A.AQD_CHCNTB]; omega)
@[simp] theorem powerReg_AQD_CHSTS (h n : Nat) : powerReg (A.AQD_CHSTS h n) = false := powerReg_high (by simp only [A.AQD_CHSTS]; omega)
@[simp] theorem powerReg_AQD_STS (h : Nat) : powerReg (A.AQD_STS h) = false := powerReg_high (by simp only [A.AQD_STS]; omega)
@[simp] theorem powerReg_AST_PSN (h : Nat) : powerReg (A.AST_PSN h) = false := powerReg_high (by simp only [A.AST_PSN]; omega)
@[simp] theorem powerReg_AST_STS (h : Nat) : powerReg (A.AST_STS h) = false := powerReg_high (by simp only [A.AST_STS]; omega)
@[simp] theorem powerReg_CAS_STS (h : Nat) : powerReg (A.CAS_STS h) = false := powerReg_high (by simp only [A.CAS_STS]; omega)
@[simp] theorem powerReg_COL_STS : powerReg (A.COL_STS) = false := by decide
@[simp] theorem powerReg_EPH_SLOT (n : Nat) : powerReg (A.EPH_SLOT n) = false := powerReg_high (by simp only [A.EPH_SLOT]; omega)
@[simp] theorem powerReg_GLB_ERRSUM : powerReg (A.GLB_ERRSUM) = false := by decide
@[simp] theorem powerReg_HRM_DROPCNT (n : Nat) : powerReg (A.HRM_DROPCNT n) = false :=
  powerReg_port (by simp only [A.HRM_DROPCNT]; omega) (by simp only [A.HRM_DROPCNT]; omega)
@[simp] theorem powerReg_HRM_PCTL (n : Nat) : powerReg (A.HRM_PCTL n) = false :=
  powerReg_port (by simp only [A.HRM_PCTL]; omega) (by simp only [A.HRM_PCTL]; omega)
@[simp] theorem powerReg_HRM_RPL (n : Nat) : powerReg (A.HRM_RPL n) = false :=
  powerReg_port (by simp only [A.HRM_RPL]; omega) (by simp only [A.HRM_RPL]; omega)
@[simp] theorem powerReg_HST_OVF : powerReg (A.HST_OVF) = false := by decide
@[simp] theorem powerReg_HST_STS : powerReg (A.HST_STS) = false := by decide
@[simp] theorem powerReg_POL_STS (h : Nat) : powerReg (A.POL_STS h) = false := powerReg_high (by simp only [A.POL_STS]; omega)
@[simp] theorem powerReg_RIL_CNTA (n : Nat) : powerReg (A.RIL_CNTA n) = false := powerReg_high (by simp only [A.RIL_CNTA]; omega)
@[simp] theorem powerReg_RIL_CNTB (n : Nat) : powerReg (A.RIL_CNTB n) = false := powerReg_high (by simp only [A.RIL_CNTB]; omega)
@[simp] theorem powerReg_RIL_CNTC (n : Nat) : powerReg (A.RIL_CNTC n) = false := powerReg_high (by simp only [A.RIL_CNTC]; omega)
@[simp] theorem powerReg_RIL_CSTS (n : Nat) : powerReg (A.RIL_CSTS n) = false := powerReg_high (by simp only [A.RIL_CSTS]; omega)
@[simp] theorem powerReg_RIL_GEN (n : Nat) : powerReg (A.RIL_GEN n) = false := powerReg_high (by simp only [A.RIL_GEN]; omega)
@[simp] theorem powerReg_RIL_STS : powerReg (A.RIL_STS) = false := by decide
@[simp] theorem powerReg_RVR_ERR (h : Nat) : powerReg (A.RVR_ERR h) = false := powerReg_high (by simp only [A.RVR_ERR]; omega)
@[simp] theorem powerReg_SEQ_CTL (h : Nat) : powerReg (A.SEQ_CTL h) = false := powerReg_high (by simp only [A.SEQ_CTL]; omega)
@[simp] theorem powerReg_SEQ_STS (h : Nat) : powerReg (A.SEQ_STS h) = false := powerReg_high (by simp only [A.SEQ_STS]; omega)
@[simp] theorem powerReg_SID_RBANK : powerReg (A.SID_RBANK) = false := by decide
@[simp] theorem powerReg_SID_SLICE : powerReg (A.SID_SLICE) = false := by decide
@[simp] theorem powerReg_SID_STS : powerReg (A.SID_STS) = false := by decide
@[simp] theorem powerReg_SID_VSTS : powerReg (A.SID_VSTS) = false := by decide
@[simp] theorem powerReg_STK_ECC (h n : Nat) : powerReg (A.STK_ECC h n) = false := powerReg_high (by simp only [A.STK_ECC]; omega)
@[simp] theorem powerReg_STK_RMPSTS (h n : Nat) : powerReg (A.STK_RMPSTS h n) = false := powerReg_high (by simp only [A.STK_RMPSTS]; omega)
@[simp] theorem powerReg_STK_ERR (h : Nat) : powerReg (A.STK_ERR h) = false := powerReg_high (by simp only [A.STK_ERR]; omega)
@[simp] theorem powerReg_TST_CAP : powerReg (A.TST_CAP) = false := by decide
@[simp] theorem powerReg_TST_CAPSTS : powerReg (A.TST_CAPSTS) = false := by decide
@[simp] theorem powerReg_TST_RPL : powerReg (A.TST_RPL) = false := by decide
@[simp] theorem powerReg_TST_STS : powerReg (A.TST_STS) = false := by decide
@[simp] theorem powerReg_WEI_BUILD (n : Nat) : powerReg (A.WEI_BUILD n) = false := powerReg_high (by simp only [A.WEI_BUILD]; omega)
@[simp] theorem powerReg_WEI_STS (h : Nat) : powerReg (A.WEI_STS h) = false := powerReg_high (by simp only [A.WEI_STS]; omega)
@[simp] theorem powerReg_WEI_WSTS (h n : Nat) : powerReg (A.WEI_WSTS h n) = false := powerReg_high (by simp only [A.WEI_WSTS]; omega)
end

end Sys2Proof.Machine
end

section
/-! PROOFS. The drains of the blocks and the loss of a link, function by function: the power domain stands (16, 17). -/

namespace Sys2Proof.Machine

section
variable {d e : Dev}

@[simp] theorem power_aqdShow (d : Dev) (h c : Nat) : power (aqdShow d h c) = power d := by
  simp only [aqdShow]
  repeat' split
  all_goals simp

@[simp] theorem power_aqdDiscarded (d : Dev) (h c k : Nat) : power (aqdDiscarded d h c k) = power d := by
  simp [aqdDiscarded]

@[simp] theorem power_setChan (d : Dev) (h c : Nat) (l : List Xfer) : power (setChan d h c l) = power d := by
  simp [setChan]

@[simp] theorem power_aqdDiscardEnd (d : Dev) (h c : Nat) : power (aqdDiscardEnd d h c) = power d := by
  simp [aqdDiscardEnd]

@[simp] theorem power_count (d : Dev) (h src inst k : Nat) (single : Bool) : power (count d h src inst k single) = power d := by
  refine power_foldl (fun e n => ?_) _ _
  unfold countIn
  simp only
  split
  · rfl
  · split
    · exact power_finc (powerReg_high (by simp only [A.CNT_CTL]; omega)) _ _
    · rfl

@[simp] theorem power_countQueued (d : Dev) (a n : Nat) : power (countQueued d a n) = power d := by
  simp only [countQueued]
  repeat' split
  all_goals simp

@[simp] theorem power_markClear (d : Dev) (a n : Nat) : power (markClear d a n) = power d := by
  simp [markClear]

@[simp] theorem power_underClear (d : Dev) (a n : Nat) : power (underClear d a n) = power d := by
  simp [underClear]

@[simp] theorem power_lineBack (d : Dev) (h line : Nat) : power (lineBack d h line) = power d := by
  simp [lineBack]

@[simp] theorem power_setPool (d : Dev) (h : Nat) (p : Pool) : power (setPool d h p) = power d := by
  simp [setPool]

@[simp] theorem power_evict (d : Dev) (h line : Nat) : power (evict d h line) = power d := by
  simp only [evict]
  repeat' split
  all_goals simp

@[simp] theorem power_nvWrite (d : Dev) (off : Nat) (bs : List Byte) : power (nvWrite d off bs) = power d := by
  simp only [nvWrite]
  repeat' split
  all_goals simp

@[simp] theorem power_repairSeal (d : Dev) : power (repairSeal d) = power d := by
  simp [repairSeal]

@[simp] theorem power_repairAppend (d : Dev) (row state : Nat) : power (repairAppend d row state) = power d := by
  simp only [repairAppend]
  repeat' split
  all_goals simp

@[simp] theorem power_repairBad (d : Dev) (ch : Nat) : power (repairBad d ch) = power d := by
  simp [repairBad]

@[simp] theorem power_raiseAbort (d : Dev) (s : Nat) : power (raiseAbort d s) = power d := by
  simp [raiseAbort]

@[simp] theorem power_countPkg (d : Dev) (src inst k : Nat) (single : Bool) : power (countPkg d src inst k single) = power d :=
  power_of_leaves (ps := []) (leaves_countPkg d src inst k single) (by simp) fun a ha => by
    rw [isCounter_iff] at ha
    by_cases h : 0x700000 ≤ a
    · exact powerReg_high h
    · have h1 : ¬ 0x200000 ≤ a := by omega
      have h2 : ¬ 0x600000 ≤ a := by omega
      simp [powerReg, h1, h2]

theorem powerReg_isRaise {a : Nat} (h : isRaise a = true) : powerReg a = false := by
  rw [isRaise, Bool.or_eq_true, isReport_iff, isCounter_iff, these_iff] at h
  simp only [A.SEQ_STS, A.SEQ_CTL, A.TST_CAPSTS, List.mem_cons, List.not_mem_nil, or_false] at h
  by_cases h7 : 0x700000 ≤ a
  · exact powerReg_high h7
  · have h1 : ¬ (0x200000 ≤ a ∧ a < 0x300000) := by omega
    have h2 : ¬ 0x600000 ≤ a := by omega
    rw [not_and] at h1
    by_cases h3 : 0x200000 ≤ a
    · simp [powerReg, h1 h3, h2]
    · simp [powerReg, h3, h2]

@[simp] theorem power_post (d : Dev) (number sev src : Nat) (payload : List Nat) : power (post d number sev src payload) = power d := by
  have h := onlyHst_post d number sev src payload
  exact power_of_leaves h.leaves (by simp) fun a ha => powerReg_isRaise (by rw [isRaise, ha, Bool.true_or])

@[simp] theorem power_raise (d : Dev) (number sev src : Nat) (payload : List Nat) : power (raise d number sev src payload) = power d :=
  power_of_keeps (raise_pwr ..) fun a ha => keepsRegs_raise d number sev src payload a (by
    rw [Bool.eq_false_iff]
    intro hr
    simp [powerReg_isRaise hr] at ha)

@[simp] theorem power_memRaise (d : Dev) (number sev half detail : Nat) : power (memRaise d number sev half detail) = power d := by
  simp [memRaise]

@[simp] theorem power_stkRaise (d : Dev) (number sev ch a : Nat) : power (stkRaise d number sev ch a) = power d := by
  simp [stkRaise]

@[simp] theorem power_stkChfail (d : Dev) (ch : Nat) : power (stkChfail d ch) = power d := by
  simp only [stkChfail]
  repeat' split
  all_goals simp

@[simp] theorem power_stkUe (d : Dev) (a row : Nat) : power (stkUe d a row) = power d := by
  simp only [stkUe]
  repeat' split
  all_goals simp

@[simp] theorem power_markTouch (d : Dev) (a n : Nat) : power (markTouch d a n) = power d := by
  unfold markTouch
  exact power_foldl (fun e u => (power_stkUe ..).trans (power_withMem ..)) _ _

@[simp] theorem power_poolTouch (d : Dev) (line : Nat) (write fill : Bool) : power (poolTouch d line write fill) = power d := by
  simp only [poolTouch]
  repeat' split
  all_goals simp

@[simp] theorem power_setBasinRow (d : Dev) (tile x : Nat) (vs : List FVal) : power (setBasinRow d tile x vs) = power d := by
  simp [setBasinRow]

@[simp] theorem power_rvrTimed (d : Dev) (T : Nat) (acc : List (Nat × Nat)) : power (rvrTimed d T acc).1 = power d := by
  rw [rvrTimed_eq, power_foldl_fst]
  · exact (power_congr rfl rfl).trans (power_count ..)
  · intro r a
    unfold bankAccess
    simp only
    split
    · simp
    · simp

@[simp] theorem power_setLadLevel (d : Dev) (uid : Nat) (l : Ladder) (x L : Nat) (ps : List Pair) : power (setLadLevel d uid l x L ps) = power d := by
  unfold setLadLevel
  extract_lets +onlyGivenNames put T f
  have hf : power f = power d := by
    unfold f
    split
    · exact power_setBasinRow ..
    · split
      next hread => exact (power_withMem ..).trans (power_of_fst (power_rvrTimed ..) hread)
  split
  · exact (power_withMem ..).trans hf
  · exact hf

-- TODO ladEnter : Nat → Nat → Dev → Ladder → List Pair → Dev × Ladder

@[simp] theorem power_setLadder (d : Dev) (uid : Nat) (l : Ladder) : power (setLadder d uid l) = power d := by
  simp [setLadder]

theorem power_ladEnter (uid x n L : Nat) (d : Dev) (l : Ladder) (v : List Pair) : power (ladEnter uid x n L d l v).1 = power d := by
  induction n generalizing L d l v with
  | zero =>
    simp only [ladEnter]
    split
    · split
      · simp
      · simp
    · simp
  | succ n ih =>
    simp only [ladEnter]
    split
    · rw [ih]
      split
      · simp
      · rfl
    · simp

@[simp] theorem power_ladPass (d : Dev) (uid x : Nat) (comp : Bool) (v : List Pair) : power (ladPass d uid x comp v) = power d := by
  unfold ladPass
  split
  · rfl
  · refine (power_setLadder ..).trans ((power_ladEnter ..).trans ?_)
    split
    · refine power_foldl (fun e L => ?_) _ _
      split
      · exact power_withMem ..
      · rfl
    · rfl

@[simp] theorem power_poisonFor (d : Dev) (h s src ev word : Nat) (next : Bool) : power (poisonFor d h s src ev word next) = power d := by
  unfold poisonFor
  extract_lets f first d1 d2 d3 mach d4
  have h2 : power d2 = power d := by
    unfold d2 d1
    split
    all_goals simp
  have h4 : power d4 = power d := by
    rw [show power d4 = power d3 from power_withMach .., show power d3 = power d2 from power_count .., h2]
  split
  · rfl
  · rw [power_raise, power_fset (by simp), h4]

@[simp] theorem power_poisonEvent (d : Dev) (h s src ev word : Nat) : power (poisonEvent d h s src ev word) = power d := by
  simp only [poisonEvent]
  repeat' split
  all_goals simp

@[simp] theorem power_reportEvents (d : Dev) (h : Nat) (gp : Bool) (s src word : Nat) (e : Events) : power (reportEvents d h gp s src word e) = power d := by
  simp only [reportEvents]
  repeat' split
  all_goals simp

@[simp] theorem power_applyRow (d : Dev) (r : RowApp) : power (applyRow d r) = power d := by
  simp only [applyRow]
  repeat' split
  all_goals simp

@[simp] theorem power_applyOne (d : Dev) (i : Nat) : power (applyOne d i) = power d := by
  simp only [applyOne]
  repeat' split
  all_goals simp

-- TODO settleRows : Nat → Dev → Dev

theorem power_settleRows (f : RowApp → Bool) (n : Nat) (d : Dev) : power (settleRows f n d) = power d := by
  induction n generalizing d with
  | zero => rfl
  | succ n ih =>
    rw [settleRows]
    split
    · rw [ih, power_applyOne]
    · rfl

@[simp] theorem power_settleDue (d : Dev) : power (settleDue d) = power d := power_settleRows ..

@[simp] theorem power_qRead (d : Dev) (a n : Nat) : power (qRead d a n).1 = power d := by
  unfold qRead
  split
  · rfl
  · split
    · exact power_foldl (fun e l => power_poolTouch ..) _ _
    · split
      · exact power_countQueued ..
      · split
        · exact power_settleDue d
        · split
          · rfl
          · rfl

@[simp] theorem power_listIndex (d : Dev) (x : Xfer) (j : Nat) : power (listIndex d x j).1 = power d := by
  unfold listIndex
  split
  · rfl
  · split
    · next h => exact power_of_fst (power_qRead ..) h
    · next h => exact power_of_fst (power_qRead ..) h

@[simp] theorem power_hrmRaise (d : Dev) (p number sev epoch cause mask vc dropped : Nat) : power (hrmRaise d p number sev epoch cause mask vc dropped) = power d := by
  rw [hrmRaise, power_raise, power_fset_link rfl rfl]

@[simp] theorem power_xferStop (d : Dev) (h c serial : Nat) : power (xferStop d h c serial) = power d := by
  simp only [xferStop]
  repeat' split
  all_goals simp

@[simp] theorem power_xferFail (d : Dev) (h c serial number sev detail : Nat) : power (xferFail d h c serial number sev detail) = power d := by
  simp only [xferFail]
  repeat' split
  all_goals simp

@[simp] theorem power_reqFail (d : Dev) (r : Req) : power (reqFail d r) = power d := by
  simp [reqFail]

@[simp] theorem power_rilRaise (d : Dev) (number sev ctx : Nat) (op spc strand half port value : Nat) : power (rilRaise d number sev ctx op spc strand half port value) = power d := by
  simp [rilRaise]

@[simp] theorem power_rilEvent (d : Dev) (number sev ctx value : Nat) : power (rilEvent d number sev ctx value) = power d := by
  simp [rilEvent]

@[simp] theorem power_colRaise (d : Dev) (number sev cid detail : Nat) : power (colRaise d number sev cid detail) = power d := by
  simp [colRaise]

@[simp] theorem power_setColls (d : Dev) (l : List Coll) : power (setColls d l) = power d := by
  simp [setColls]

@[simp] theorem power_collFail (d : Dev) (cid low chip : Nat) : power (collFail d cid low chip) = power d := by
  simp only [collFail]
  repeat' split
  all_goals simp

@[simp] theorem power_dropCount (d : Dev) (p : Nat) (f : Fld) (k : Nat) : power (dropCount d p f k) = power d := by
  simp [dropCount]

@[simp] theorem power_aqdCompleted (d : Dev) (h c k : Nat) : power (aqdCompleted d h c k) = power d := by
  simp [aqdCompleted]

@[simp] theorem power_permEnd (d : Dev) (val : Nat) : power (permEnd d val) = power d := by
  simp only [permEnd]
  repeat' split
  all_goals simp

@[simp] theorem power_enqueue (d : Dev) (p : Nat) (m : Msg) (ctx : Option Nat) : power (enqueue d p m ctx) = power d := by
  simp [enqueue]

@[simp] theorem power_tstRaise (d : Dev) (number sev detail : Nat) : power (tstRaise d number sev detail) = power d := by
  simp [tstRaise]

@[simp] theorem power_capEnd (d : Dev) (code : Nat) : power (capEnd d code) = power d := by
  simp [capEnd]

@[simp] theorem power_ctlWrite (d : Dev) (a : Nat) (bs : List Byte) : power (ctlWrite d a bs) = power d := by
  simp only [ctlWrite]
  repeat' split
  all_goals simp

@[simp] theorem power_capLog (d : Dev) (kind src key : Nat) (data : List Byte) : power (capLog d kind src key data) = power d := by
  simp only [capLog]
  repeat' split
  all_goals simp

@[simp] theorem power_hostWrite (d : Dev) (a : Nat) (bs : List Byte) : power (hostWrite d a bs) = power d := by
  simp [hostWrite]

@[simp] theorem power_outDiffers (d : Dev) (num : Nat) : power (outDiffers d num) = power d := by
  simp only [outDiffers]
  repeat' split
  all_goals simp

@[simp] theorem power_outNote (d : Dev) (dst kind : Nat) (bs : List Byte) : power (outNote d dst kind bs) = power d := by
  simp only [outNote]
  repeat' split
  all_goals simp

@[simp] theorem power_outMsg (d : Dev) (m : Msg) : power (outMsg d m) = power d := by
  simp only [outMsg]
  repeat' split
  all_goals simp

@[simp] theorem power_sendSynthetic (d : Dev) (m : Msg) : power (sendSynthetic d m) = power d := by
  simp only [sendSynthetic]
  repeat' split
  all_goals simp

@[simp] theorem power_tellOwner (d : Dev) (p epoch : Nat) (m : Msg) : power (tellOwner d p epoch m) = power d := by
  simp only [tellOwner]
  repeat' split
  all_goals simp

@[simp] theorem power_dropAll (d : Dev) (p epoch cause : Nat) (ms : List (Msg × Option Nat)) : power (dropAll d p epoch cause ms) = power d := by
  unfold dropAll
  simp only
  have htold : power ((ms.filterMap (droppedCtx d)).eraseDups.foldl (fun d c => rilEvent d 0x6A 2 c 0)
      (ms.foldl (fun d m => tellOwner d p epoch m.1) d)) = power d := by
    rw [power_foldl fun e c => power_rilEvent .., power_foldl fun e m => power_tellOwner ..]
  split
  · exact (power_hrmRaise ..).trans htold
  · exact htold

@[simp] theorem power_sendBy (d : Dev) (p : Nat) (m : Msg) (ctx : Option Nat) : power (sendBy d p m ctx) = power d := by
  simp only [sendBy]
  repeat' split
  all_goals simp

@[simp] theorem power_sendMsg (d : Dev) (m : Msg) : power (sendMsg d m) = power d := by
  simp only [sendMsg]
  repeat' split
  all_goals simp

@[simp] theorem power_aqdRequest (d : Dev) (x : Xfer) (owner : Nat) (a dst : Int) (n : Nat) (bs : List Byte) (atop : Option Nat) : power (aqdRequest d x owner a dst n bs atop) = power d := by
  simp only [aqdRequest]
  repeat' split
  all_goals simp

@[simp] theorem power_poolWrite (d : Dev) (a : Nat) (bs : List Byte) : power (poolWrite d a bs) = power d := by
  unfold poolWrite
  exact (power_congr rfl rfl).trans (power_foldl (fun e l => power_poolTouch ..) _ _)

@[simp] theorem power_poolAtomic (d : Dev) (a atop : Nat) (bs : List Byte) (gp : Bool) (step : Nat) : power (poolAtomic d a atop bs gp step).1 = power d := by
  unfold poolAtomic
  split
  · rfl
  · split
    · rfl
    · simp only
      rw [power_reportEvents, power_count, power_poolWrite, power_foldl fun e l => power_poolTouch ..]

@[simp] theorem power_atomLocal (d : Dev) (x : Xfer) (atop : Nat) (a : Nat) (bs : List Byte) : power (atomLocal d x atop a bs).1 = power d := by
  unfold atomLocal
  rw [power_foldl_fst]
  intro r a
  split
  · rfl
  · exact power_poolAtomic ..

@[simp] theorem power_xAddrFail (d : Dev) (x : Xfer) (a : Int) (host : Bool) : power (xAddrFail d x a host) = power d := by
  simp [xAddrFail]

@[simp] theorem power_touchRow (d : Dev) (x : Xfer) (r : Nat) : power (touchRow d x r) = power d := by
  unfold touchRow
  simp only
  split
  · exact power_aqdRequest ..
  · split
    · next h => exact power_of_fst (power_atomLocal ..) h
    · next h => exact (power_xAddrFail ..).trans (power_of_fst (power_atomLocal ..) h)

@[simp] theorem power_rowDone (d : Dev) (h c serial row : Nat) : power (rowDone d h c serial row) = power d := by
  unfold rowDone
  split
  · rfl
  · split
    · split
      · next h =>
        have hl := power_of_fst (power_listIndex ..) h
        split
        · exact (power_touchRow ..).trans hl
        · exact hl
      · next h => exact power_of_fst (power_listIndex ..) h
    · rfl

@[simp] theorem power_basinBusy (d : Dev) (a : Nat) : power (basinBusy d a) = power d := by
  simp [basinBusy]

@[simp] theorem power_windowSet (d : Dev) (a : Nat) (v : Byte) : power (windowSet d a v) = power d := by
  simp [windowSet]

@[simp] theorem power_windowWrite (d : Dev) (a : Nat) (bs : List Byte) : power (windowWrite d a bs) = power d := by
  have hset (e : Dev) (busy : List Nat) (l : List (Byte × Nat)) : power (l.foldl (fun d b =>
      if busy.contains (windowAt (a + b.2)).1 then d else windowSet d (a + b.2) b.1) e) = power e := by
    refine power_foldl (fun e b => ?_) _ _
    split
    · rfl
    · exact power_windowSet ..
  unfold windowWrite
  extract_lets f tiles busy g
  have hg : power g = power d := (hset _ _ _).trans (power_settleDue d)
  exact (power_foldl (fun e t => power_basinBusy ..) _ _).trans hg

@[simp] theorem power_qWrite (d : Dev) (a : Nat) (bs : List Byte) : power (qWrite d a bs).1 = power d := by
  unfold qWrite
  split
  · rfl
  · split
    · exact power_poolWrite ..
    · split
      · exact (power_countQueued ..).trans (power_withMem ..)
      · split
        · exact power_windowWrite ..
        · rfl

@[simp] theorem power_setXfer (d : Dev) (h c : Nat) (x : Xfer) : power (setXfer d h c x) = power d := by
  simp [setXfer]

@[simp] theorem power_writeRun (d : Dev) (x : Xfer) (a : Int) (bs : List Byte) : power (writeRun d x a bs) = power d := by
  unfold writeRun
  extract_lets h c f g
  have hf : power f = power d := by
    unfold f
    split
    · exact power_setXfer ..
    · rfl
  have hg : power g = power d := (power_count ..).trans hf
  have hstep {u : Dev} (hu : power u = power g) : power u = power d := hu.trans hg
  split
  · split
    · exact hstep (power_xAddrFail ..)
    · split
      · split
        · next h => exact hstep (power_of_fst (power_atomLocal ..) h)
        · next h => exact hstep ((power_xAddrFail ..).trans (power_of_fst (power_atomLocal ..) h))
      · split
        · next h => exact hstep (power_of_fst (power_qWrite ..) h)
        · next h => exact hstep ((power_xAddrFail ..).trans (power_of_fst (power_qWrite ..) h))
  · split
    · exact hstep (power_foldl (fun e b => power_aqdRequest ..) _ _)
    · exact hstep (power_aqdRequest ..)
  · split
    · exact hg
    · split
      · exact hstep (power_xAddrFail ..)
      · split
        · exact hstep (power_outNote ..)
        · exact hstep ((power_hostWrite ..).trans (power_outNote ..))

@[simp] theorem power_aqdFlush (h c n : Nat) (d : Dev) : power (aqdFlush h c n d) = power d := by
  induction n generalizing d with
  | zero => rfl
  | succ n ih =>
    rw [aqdFlush]
    split
    · rfl
    · split
      · rfl
      · simp only
        rw [ih]
        split
        · rw [power_rowDone, power_writeRun, power_withAqd]
        · rw [power_withAqd]

@[simp] theorem power_aqdReadBack (d : Dev) (h c : Nat) : power (aqdReadBack d h c) = power d := by
  unfold aqdReadBack
  refine power_foldl (fun e x => ?_) _ _
  split
  · split
    · rfl
    · exact (power_aqdRequest ..).trans (power_setXfer ..)
  · rfl

@[simp] theorem power_buryXfers (d : Dev) (h c : Nat) : power (buryXfers d h c) = power d := by
  simp only [buryXfers]
  repeat' split
  all_goals simp

@[simp] theorem power_noteHost (d : Dev) (h c : Nat) : power (noteHost d h c) = power d := by
  simp only [noteHost]
  repeat' split
  all_goals simp

@[simp] theorem power_noteReady (d : Dev) (h c : Nat) : power (noteReady d h c) = power d := by
  simp only [noteReady]
  repeat' split
  all_goals simp

@[simp] theorem power_chanTidy (d : Dev) (k : Nat) : power (chanTidy d k) = power d := by
  simp only [chanTidy]
  repeat' split
  all_goals simp

@[simp] theorem power_setAqdQueue (d : Dev) (q : Nat) (l : List Xfer) : power (setAqdQueue d q l) = power d := by
  simp only [setAqdQueue]
  repeat' split
  all_goals simp

@[simp] theorem power_aqdDiscard (d : Dev) (h c : Nat) : power (aqdDiscard d h c) = power d := by
  simp [aqdDiscard]

@[simp] theorem power_endList (d : Dev) : power (endList d) = power d := by
  simp [endList]

@[simp] theorem power_colAbandon (d : Dev) : power (colAbandon d) = power d := by
  unfold colAbandon
  extract_lets chans n f g
  have hf : power f = power d := power_foldl (fun e x => power_aqdDiscarded ..) _ _
  have hg : power g = power d := (power_foldl (fun e x => power_modPort ..) _ _).trans hf
  rw [power_endList, power_setMach, power_setColls, hg]

@[simp] theorem power_colDrain (d : Dev) : power (colDrain d) = power d := by
  simp [colDrain]

@[simp] theorem power_noteSlab (d : Dev) (n slab : Nat) (last : Bool) : power (noteSlab d n slab last) = power d := by
  simp only [noteSlab]
  repeat' split
  all_goals simp

@[simp] theorem power_stopStrands (d : Dev) : power (stopStrands d) = power d := by
  unfold stopStrands
  split
  · exact (power_withSeq ..).trans (power_fset (by simp) _ _)
  · exact power_withSeq ..

@[simp] theorem power_qPut (d : Dev) (a : Nat) (bs : List Byte) : power (qPut d a bs) = power d := by
  simp [qPut]

@[simp] theorem power_rilFail (d : Dev) (q : Nat) (c : RilCmd) (number sev value : Nat) : power (rilFail d q c number sev value) = power d := by
  simp [rilFail]

@[simp] theorem power_rilShow (d : Dev) (n : Nat) : power (rilShow d n) = power d := by
  simp only [rilShow]
  repeat' split
  all_goals simp

/-- What a command that is done leaves of the power domain. -/
theorem power_execCommitCmd {q n : Nat} {c : RilCmd} (h : execCommitCmd d q n c = .done e) : power e = power d := by
  simp only [execCommitCmd] at h
  split at h
  · cases h
  · split at h
    · cases h
      exact power_rilFail ..
    · split at h
      · cases h
        exact (power_noteSlab ..).trans (power_withRil ..)
      · cases h
        rw [power_rilShow, power_noteSlab, power_finc (by simp), power_finc (by simp), power_qPut]

@[simp] theorem power_rilSend (d : Dev) (n : Nat) (m : Msg) : power (rilSend d n m) = power d := by
  simp [rilSend]

theorem power_execReleaseCmd {q n : Nat} {c : RilCmd} (h : execReleaseCmd d q n c = .done e) : power e = power d := by
  simp only [execReleaseCmd] at h
  split at h
  · cases h
    exact power_rilFail ..
  · split at h
    · cases h
      rw [power_rilSend, power_withRil, power_rilShow, power_finc (by simp)]
    · cases h
      rw [power_rilShow, power_finc (by simp)]

@[simp] theorem power_qGet (d : Dev) (a n : Nat) : power (qGet d a n).1 = power d := by
  simp [qGet]

theorem power_execSendCmd {q n : Nat} {c : RilCmd} (h : execSendCmd d q n c = .done e) : power e = power d := by
  simp only [execSendCmd] at h
  split at h
  · cases h
    exact power_rilFail ..
  · split at h
    · cases h
    · split at h
      · cases h
        exact power_rilFail ..
      · cases h
        rw [power_rilSend, power_noteSlab, power_withRil, power_qGet]

@[simp] theorem power_rilFixPort (d : Dev) (q n : Nat) (rel : Bool) : power (rilFixPort d q n rel) = power d := by
  simp only [rilFixPort]
  repeat' split
  all_goals simp

/-- A head that ends in the first alternative, or goes on to the others. -/
theorem done_of_ite {c : Prop} [Decidable c] {a : Dev} {x : RilStep} (h : (if c then .done a else x) = RilStep.done e) : a = e ∨ x = .done e := by
  split at h
  · exact .inl (RilStep.done.inj h)
  · exact .inr h

theorem power_rilHead {q : Nat} {c : RilCmd} (h : rilHead d q c = .done e) : power e = power d := by
  unfold rilHead at h
  obtain rfl | h := done_of_ite h
  · exact power_rilFail ..
  obtain rfl | h := done_of_ite h
  · rfl
  obtain rfl | h := done_of_ite h
  · exact power_rilFail ..
  obtain rfl | h := done_of_ite h
  · exact power_rilFail ..
  simp only at h
  split at h
  · exact (power_execSendCmd h).trans (power_rilFixPort ..)
  · exact (power_execCommitCmd h).trans (power_rilFixPort ..)
  · exact (power_execReleaseCmd h).trans (power_rilFixPort ..)

@[simp] theorem power_waitOver (d : Dev) (q : Nat) : power (waitOver d q) = power d := by
  simp [waitOver]

@[simp] theorem power_setRilQueue (d : Dev) (q : Nat) (l : List RilCmd) : power (setRilQueue d q l) = power d := by
  simp only [setRilQueue]
  repeat' split
  all_goals simp

theorem power_rilPump (q n : Nat) (d : Dev) : power (rilPump q n d) = power d := by
  induction n generalizing d with
  | zero => rfl
  | succ n ih =>
    rw [rilPump]
    split
    · rfl
    · split
      · split
        · exact power_withRil ..
        · rfl
      · next h => rw [ih, power_setRilQueue, power_waitOver, power_rilHead h]

theorem power_rilPumpAll (n : Nat) (d : Dev) : power (rilPumpAll n d) = power d := by
  induction n generalizing d with
  | zero => rfl
  | succ n ih => rw [rilPumpAll, ih, power_foldl fun _ _ => power_rilPump ..]

@[simp] theorem power_rilRun (d : Dev) : power (rilRun d) = power d := power_rilPumpAll ..

@[simp] theorem power_rilDrain (d : Dev) (n : Nat) : power (rilDrain d n) = power d :=
  (power_rilRun _).trans (power_foldl (fun _ _ => power_setRilQueue ..) _ _)

@[simp] theorem power_ringDrain (d : Dev) (n : Nat) : power (ringDrain d n) = power d := by
  unfold ringDrain
  extract_lets r i
  split
  · exact (power_govSet ..).trans (power_withHst ..)
  · rfl
  · exact power_withHst ..

@[simp] theorem power_seqDrain (d : Dev) : power (seqDrain d) = power d := power_stopStrands d

@[simp] theorem power_setWeir (d : Dev) (w : Nat) (x : Weir) : power (setWeir d w x) = power d := by
  simp [setWeir]

@[simp] theorem power_setCondemned (d : Dev) (k v : Nat) : power (setCondemned d k v) = power d := by
  simp [setCondemned]

@[simp] theorem power_setSlotState (d : Dev) (k v : Nat) : power (setSlotState d k v) = power d := by
  simp [setSlotState]

@[simp] theorem power_freeSlot (d : Dev) (k : Nat) : power (freeSlot d k) = power d := by
  simp [freeSlot]

@[simp] theorem power_freeCondemned (d : Dev) : power (freeCondemned d) = power d := by
  refine power_foldl (fun e k => ?_) _ _
  split
  · rfl
  · exact power_freeSlot ..

@[simp] theorem power_weiNote (d : Dev) (w k n : Nat) : power (weiNote d w k n) = power d := by
  simp [weiNote]

@[simp] theorem power_weirGo (d : Dev) (w : Nat) : power (weirGo d w) = power d := by
  unfold weirGo
  extract_lets x
  split
  · rfl
  · exact (power_setWeir ..).trans (power_count ..)

@[simp] theorem power_weiDiscard (d : Dev) (w : Nat) : power (weiDiscard d w) = power d := by
  rw [weiDiscard, power_freeCondemned, power_weiNote, power_setWeir, power_weirGo]

@[simp] theorem power_weiRaise (d : Dev) (w number : Nat) (op spc strand step detail : Nat) : power (weiRaise d w number op spc strand step detail) = power d := by
  unfold weiRaise
  extract_lets hf dset dpost
  have hset : power dset = power d := by simp [dset]
  split
  · rw [power_raiseAbort, show power dpost = power dset from power_post .., hset]
  · exact (power_raise dset number (weiSev number) 5 _).trans hset

@[simp] theorem power_weiDrain (d : Dev) (h : Nat) : power (weiDrain d h) = power d := by
  unfold weiDrain
  refine power_foldl (fun e w => ?_) _ _
  simp only
  split
  · rfl
  · rw [power_weiRaise]
    split
    · rw [power_weiDiscard, power_weiNote, power_setWeir]
    · rw [power_weiNote, power_setWeir]

@[simp] theorem power_drainBlock (d : Dev) (b : Blk) : power (drainBlock d b) = power d := by
  simp only [drainBlock]
  repeat' split
  all_goals simp

@[simp] theorem power_sidEnter (d : Dev) (st : Nat) : power (sidEnter d st) = power d := by
  simp [sidEnter]

@[simp] theorem power_enterHoldover (d : Dev) : power (enterHoldover d) = power d := by
  simp [enterHoldover]

@[simp] theorem power_machRaise (d : Dev) (number sev port detail : Nat) : power (machRaise d number sev port detail) = power d := by
  simp [machRaise]

@[simp] theorem power_sidHoldover (d : Dev) : power (sidHoldover d) = power d := by
  simp only [sidHoldover]
  repeat' split
  all_goals simp

@[simp] theorem power_sidPort (d : Dev) (p : Nat) : power (sidPort d p) = power d := by
  simp only [sidPort]
  repeat' split
  all_goals simp

@[simp] theorem power_setTree (d : Dev) (perm : Bool) (t : Tree) : power (setTree d perm t) = power d := by
  simp only [setTree]
  repeat' split
  all_goals simp

@[simp] theorem power_switchBank (d : Dev) (drill : Bool) : power (switchBank d drill) = power d := by
  simp only [switchBank]
  repeat' split
  all_goals simp

@[simp] theorem power_touchPorts (d : Dev) (ps : List Nat) : power (touchPorts d ps) = power d := power_foldl (fun _ _ => power_modPort ..) _ _

/-- The registers that trees and captures show themselves in lie outside the power domain. -/
theorem powerReg_isTreeReg {a : Nat} (h : isTreeReg a = true) : powerReg a = false := by
  rw [isTreeReg, isCapture, machReports, isMachReg, Bool.or_eq_true, Bool.or_eq_true, Bool.or_eq_true, isReport_iff, isCounter_iff,
    Bool.and_eq_true, decide_eq_true_eq, decide_eq_true_eq, these_iff] at h
  simp only [A.SID_CTL, A.SID_MEMB, A.TST_CAPSTS, A.TST_CAP, A.TST_STS, List.mem_cons, List.not_mem_nil, or_false] at h
  have h1 : ¬ (0x200000 ≤ a ∧ a < 0x300000) := by omega
  have h2 : ¬ (0x600000 ≤ a ∧ a < 0x700000) := by omega
  rw [not_and_or] at h1 h2
  rcases h1 with h1 | h1 <;> rcases h2 with h2 | h2 <;> simp [powerReg, h1, h2]

@[simp] theorem power_treeRun (d : Dev) (perm : Bool) : power (treeRun d perm) = power d :=
  power_of_leaves (leaves_treeRun d perm) (by simp [treeParts]) fun a => powerReg_isTreeReg

@[simp] theorem power_trees (d : Dev) : power (trees d) = power d := (power_treeRun _ true).trans (power_treeRun d false)

@[simp] theorem power_linkChanged (d : Dev) (p : Nat) : power (linkChanged d p) = power d := by
  simp [linkChanged]

@[simp] theorem power_drawn (d : Dev) : power (drawn d) = power d := by
  simp [drawn]

@[simp] theorem power_hrmNote (d : Dev) (p number sev : Nat) : power (hrmNote d p number sev) = power d := by
  simp [hrmNote]

@[simp] theorem power_latch (d : Dev) (as : List Nat) : power (latch d as) = power d := by
  simp [latch]

end

end Sys2Proof.Machine
end

section
/-! PROOFS. A Function Level Reset and a link taken down keep the power domain (16, R590, R605; 13, R456). -/

namespace Sys2Proof.Machine

section
variable {d e : Dev}

/-! ### A Function Level Reset -/

/-- The power domain, apart from the blocks that Hold is to start again. -/
def powered (d : Dev) : Pwr × (Nat → W64) × (Nat → Nat) := power (setPwr d (fun p => { p with heldEn := [] }))

theorem regGet_setPwr (d : Dev) (f : Pwr → Pwr) (a : Nat) : regGet (setPwr d f) a = regGet d a := rfl

theorem powered_congr (h : power e = power d) : powered e = powered d :=
  power_ext (congrArg (fun p : Pwr => { p with heldEn := [] }) (pwr_of_power h)) (fun _ => regGet_of_power h) fun _ => lstate_of_power h

theorem pwr_of_powered (h : powered e = powered d) : { e.pwr with heldEn := [] } = { d.pwr with heldEn := [] } := congrArg Prod.fst h

theorem fget_of_powered (h : powered e = powered d) {a : Nat} (h1 : 0x200000 ≤ a) (h2 : a < 0x300000) (f : Fld) :
    fget e a f = fget d a f := by
  have hr := regGet_of_power h h1 h2
  rw [regGet_setPwr, regGet_setPwr] at hr
  rw [fget, fget, hr]

/-- A ring that exists (R552). -/
def ringExists : Blk → Prop
  | .ring n => n < 256
  | _ => True

theorem powerReg_ctlAddr {b : Blk} (hb : ringExists b) : powerReg (ctlAddr b) = false := by
  cases b
  case hrm q => exact powerReg_HRM_PCTL q
  case ring n =>
    have hn : n < 256 := hb
    have h1 : ¬ 0x200000 ≤ A.HST_RCFG n := by simp only [A.HST_RCFG]; omega
    have h2 : ¬ 0x600000 ≤ A.HST_RCFG n := by omega
    simp [ctlAddr, powerReg, h1, h2]
  case col => decide
  all_goals exact powerReg_high (by simp only [ctlAddr, A.SEQ_CTL, A.CAS_CTL, A.JET_CTL, A.RIL_CCTL, A.EPH_CTL, A.WEI_CTL, A.AST_CTL, A.AQD_CHCTL]; omega)

theorem power_fset_sts {b : Blk} (hb : ringExists b) {f : Fld} (hf : f.ok = true) (ha : f.apart F.HRM_PSTS_LSTATE = true) (v : Nat) :
    power (fset d (stsAddr b) f v) = power d := by
  cases b
  case hrm q => exact power_fset_link hf ha v
  case ring n =>
    have hn : n < 256 := hb
    have h1 : ¬ 0x200000 ≤ A.HST_RSTS n := by simp only [A.HST_RSTS]; omega
    have h2 : ¬ 0x600000 ≤ A.HST_RSTS n := by omega
    exact power_fset (by simp [stsAddr, powerReg, h1, h2]) _ _
  case col => exact power_fset powerReg_COL_STS _ _
  all_goals exact power_fset (powerReg_high (by simp only [stsAddr, A.SEQ_STS, A.CAS_STS, A.JET_STS, A.RIL_CSTS, A.EPH_STS, A.WEI_STS, A.AST_STS, A.AQD_CHSTS]; omega)) _ _

theorem power_disableCommon {b : Blk} (hb : ringExists b) (d : Dev) : power (disableCommon d b) = power d := by
  unfold disableCommon
  split
  · exact (power_fset_sts hb (by decide) (by decide) _).trans (power_withDrainAt ..)
  · exact power_fset_sts hb (by decide) (by decide) _
  · rfl

theorem powered_disableBlock {b : Blk} (hb : ringExists b) (d : Dev) : powered (disableBlock d b) = powered d := by
  have hlet : powered (setPwr d (fun p => { p with heldEn := p.heldEn.filter (fun x => x != b) })) = powered d :=
    power_ext rfl (fun a _ _ => rfl) fun q _ => rfl
  unfold disableBlock
  extract_lets was e
  have he : powered (disableCommon (fset e (ctlAddr b) F.EN 0) b) = powered d :=
    (powered_congr ((power_disableCommon hb _).trans (power_fset (powerReg_ctlAddr hb) _ _))).trans hlet
  split
  · exact (powered_congr (power_drainBlock ..)).trans he
  · exact he

theorem powered_disableAll {l : List Blk} (hl : ∀ b ∈ l, ringExists b) (d : Dev) : powered (l.foldl disableBlock d) = powered d := by
  induction l generalizing d with
  | nil => rfl
  | cons b r ih =>
    rw [List.foldl_cons, ih (fun c hc => hl c (List.mem_cons_of_mem _ hc)), powered_disableBlock (hl b (List.mem_cons_self ..))]

theorem ringExists_of_mem {b : Blk} (h : b ∈ allBlocks d) : ringExists b := by
  cases b
  case ring n =>
    simp [allBlocks, A.HST_RCFG] at h
    simp only [ringExists]
    omega
  all_goals exact trivial

theorem power_resetRange {lo hi : Nat} (h : hi ≤ 0x200000) (d : Dev) : power (resetRange d lo hi) = power d :=
  power_of_keeps rfl fun a ha => by
    have ha' : ¬ (lo ≤ a ∧ a < hi) := by
      have : 0x200000 ≤ a := by
        simp [powerReg] at ha
        omega
      omega
    refine (regGet_filtered d _ (fun a => decide (lo ≤ a ∧ a < hi)) (fun x => ?_) a).trans (if_neg (by simpa using ha'))
    by_cases h1 : x.1 < lo <;> by_cases h2 : hi ≤ x.1 <;> simp [h1, h2]; omega

theorem power_hstReset (d : Dev) : power (hstReset d) = power d := by
  unfold hstReset
  extract_lets ns e
  have he : power e = power d := (power_foldl (fun _ _ => power_govSet ..) _ _).trans (power_resetRange (by decide) d)
  exact (power_withHst ..).trans he

theorem power_flrCheck (d : Dev) : power (flrCheck d) = power d := by
  unfold flrCheck
  split
  · exact power_hstReset d
  · rfl

theorem powered_flr (d : Dev) : powered (flr d) = powered d :=
  (powered_congr ((power_flrCheck _).trans (power_withHst ..))).trans (powered_disableAll (fun _ => ringExists_of_mem) d)

/-! ### A link taken down -/

theorem power_foldl_mem {β : Type} {g : Dev → β → Dev} {l : List β} (hg : ∀ d, ∀ b ∈ l, power (g d b) = power d) (d : Dev) :
    power (l.foldl g d) = power d := by
  induction l generalizing d with
  | nil => rfl
  | cons b r ih =>
    rw [List.foldl_cons, ih fun d c hc => hg d c (List.mem_cons_of_mem _ hc), hg d b (List.mem_cons_self ..)]

/-- The power domain, apart from the state of one link. -/
def powerApart (q : Nat) (d : Dev) : Pwr × (Nat → W64) × (Nat → Nat) := power (setLstate d q 0)

theorem lstate_setLstate_ne {q q' : Nat} (h : q' ≠ q) (v : Nat) : lstate (setLstate d q v) q' = lstate d q' :=
  fget_fset_ne _ (by simp only [A.HRM_PSTS]; omega) _ _ _

theorem regGet_setLstate {a : Nat} (h : a < 0x600000) (q v : Nat) : regGet (setLstate d q v) a = regGet d a :=
  regGet_regSet_ne _ (by simp only [A.HRM_PSTS]; omega) _

theorem setLstate_pwr (d : Dev) (q v : Nat) : (setLstate d q v).pwr = d.pwr := fset_pwr ..

theorem power_setLstate_congr {q v w : Nat} (h : power e = power d) (hv : lstate (setLstate e q v) q = lstate (setLstate d q w) q) :
    power (setLstate e q v) = power (setLstate d q w) := by
  refine power_ext ?_ (fun a h1 h2 => ?_) fun q' hq' => ?_
  · rw [setLstate_pwr, setLstate_pwr, pwr_of_power h]
  · rw [regGet_setLstate (by omega), regGet_setLstate (by omega), regGet_of_power h h1 h2]
  · by_cases hq : q' = q
    · rw [hq, hv]
    · rw [lstate_setLstate_ne hq, lstate_setLstate_ne hq, lstate_of_power h hq']

theorem powerApart_congr {q : Nat} (h : power e = power d) : powerApart q e = powerApart q d :=
  power_setLstate_congr h (by rw [lstate_setLstate _ _ (by decide), lstate_setLstate _ _ (by decide)])

theorem powerApart_setLstate (d : Dev) (q v : Nat) : powerApart q (setLstate d q v) = powerApart q d := by
  refine power_ext ?_ (fun a h1 h2 => ?_) fun q' hq' => ?_
  · rw [setLstate_pwr, setLstate_pwr, setLstate_pwr]
  · rw [regGet_setLstate (by omega), regGet_setLstate (by omega), regGet_setLstate (by omega)]
  · by_cases hq : q' = q
    · rw [hq, lstate_setLstate _ _ (by decide), lstate_setLstate _ _ (by decide)]
    · rw [lstate_setLstate_ne hq, lstate_setLstate_ne hq, lstate_setLstate_ne hq]

theorem powerApart_linkReset (d : Dev) (q cause : Nat) : powerApart q (linkReset d q cause) = powerApart q d := by
  have hepoch : powerReg (A.HRM_EPOCH q) = false :=
    powerReg_port (by simp only [A.HRM_EPOCH]; omega) (by simp only [A.HRM_EPOCH]; omega)
  unfold linkReset
  extract_lets x old ms d1 e1 d2 d3 d4 d5 d6 x7 d7 d8 d9
  have h3 : power (fset d3 (A.HRM_PSTS q) F.HRM_PSTS_CAUSE cause) = power d := by
    rw [power_fset_link (by decide) (by decide), show power d3 = power d2 from power_countPkg ..]
    simp [d2, d1, e1, hepoch]
  have h4 : powerApart q d4 = powerApart q d := (powerApart_setLstate ..).trans (powerApart_congr h3)
  have h5 : power d5 = power d4 := power_foldl_mem (fun u v hv => power_regSet (powerReg_port ?_ ?_) _) _
  rotate_left
  · simp only [A.HRM_VCCRED]; omega
  · have := List.mem_range.mp hv
    simp only [A.HRM_VCCRED]; omega
  have h7 : power d7 = power d5 := by
    rw [show power d7 = power (setPort _ _ _) from power_drawn .., power_setPort, show power d6 = power d5 from power_regSet (by simp) _]
  have h9 : power d9 = power d7 := by
    have h8 : power d8 = power d7 := power_hrmRaise ..
    unfold d9
    split
    · exact (power_hrmNote ..).trans h8
    · exact h8
  rw [powerApart_congr (power_linkChanged ..), powerApart_congr (power_dropAll ..), powerApart_congr (h9.trans (h7.trans h5)), h4]

theorem powerApart_resetRequest (d : Dev) (q cause : Nat) : powerApart q (resetRequest d q cause) = powerApart q d := by
  unfold resetRequest
  split
  · rfl
  · split
    · exact powerApart_congr (power_fset_link (by decide) (by decide) _)
    · exact powerApart_linkReset ..

theorem powerApart_linkOff (d : Dev) (q : Nat) : powerApart q (linkOff d q) = powerApart q d := by
  unfold linkOff
  split
  · rfl
  · extract_lets e
    have he : powerApart q e = powerApart q d := (powerApart_resetRequest ..).trans (powerApart_congr (power_fset (by simp) _ _))
    split
    · exact (powerApart_linkReset ..).trans he
    · split
      · exact (powerApart_congr (power_linkChanged ..)).trans ((powerApart_setLstate ..).trans he)
      · exact he

/-- Links taken down one after the other leave the power domain as if only their states were cleared. -/
theorem power_linksOff (l : List Nat) (h : power e = power d) :
    power (l.foldl (fun d q => setLstate (linkOff d q) q 0) e) = power (l.foldl (fun d q => setLstate d q 0) d) := by
  induction l generalizing d e with
  | nil => exact h
  | cons q r ih =>
    rw [List.foldl_cons, List.foldl_cons]
    exact ih ((powerApart_linkOff e q).trans (powerApart_congr h))

/-- `e` is `d` with the states of the links in `l` cleared. -/
def LinksCleared (l : List Nat) (d e : Dev) : Prop :=
  e.pwr = d.pwr ∧ (∀ a, a < 0x600000 → regGet e a = regGet d a) ∧ ∀ q, lstate e q = if q ∈ l then 0 else lstate d q

theorem links_cleared (l : List Nat) (d : Dev) : LinksCleared l d (l.foldl (fun d q => setLstate d q 0) d) := by
  induction l generalizing d with
  | nil => exact ⟨rfl, fun _ _ => rfl, fun _ => rfl⟩
  | cons q r ih =>
    obtain ⟨hp, hr, hl⟩ := ih (setLstate d q 0)
    rw [List.foldl_cons]
    refine ⟨hp.trans (setLstate_pwr d q 0), fun a ha => (hr a ha).trans (regGet_setLstate ha ..), fun q' => (hl q').trans ?_⟩
    by_cases hq : q' = q
    · simp [hq, lstate_setLstate]
    · simp [hq, lstate_setLstate_ne]

/-- All links taken down: the pins and the registers of the power domain stand, and every link is OFF. -/
theorem linksOff (d : Dev) : let e := (List.range 8).foldl (fun d q => setLstate (linkOff d q) q 0) d
    e.pwr = d.pwr ∧ (∀ a, 0x200000 ≤ a → a < 0x300000 → regGet e a = regGet d a) ∧ ∀ q, q < 8 → lstate e q = 0 := by
  have h := power_linksOff (List.range 8) (rfl : power d = power d)
  obtain ⟨hp, hr, hl⟩ := links_cleared (List.range 8) d
  refine ⟨(pwr_of_power h).trans hp, fun a h1 h2 => (regGet_of_power h h1 h2).trans (hr a (by omega)), fun q hq => ?_⟩
  rw [lstate_of_power h hq, hl, if_pos (List.mem_range.mpr hq)]

end

end Sys2Proof.Machine
end

section
/-! PROOFS. Hold: the request, the answers of the blocks, the commit, the image, the wake events and Cold (16, R596 to
R608). -/

namespace Sys2Proof.Machine

section
variable {ps : List Piece} {p : Nat → Bool} {d e : Dev}

/-! ### The request -/

theorem holdRequest_outside (h : pstate d ≠ 0) : holdRequest d = d := if_pos h

/-- What the power controller notes of a request (R597). -/
def holdAsking (d : Dev) : Dev :=
  setPwr (setPhaseHold (regSet (setPstate d 1) A.PWR_HSTS 0) 1) (fun p =>
    { p with blocks := holdAsked.map (fun b => ⟨b.1, b.2, 0, d.now, 0⟩), reqAt := d.now, committed := false, wakeAfter := false })

theorem holdRequest_run (h : pstate d = 0) : holdRequest d = poolAsk (poolAsk (holdAsking d) 0 1) 1 1 := by
  rw [holdRequest, if_neg (not_not.2 h)]
  rfl

theorem leaves_setPool_iff {h : Nat} {x : Pool} (hms : Piece.ms ∈ ps) (hp : p (A.POL_STS h) = true) :
    Leaves ps p d (setPool e h x) ↔ Leaves ps p d e := by
  rw [setPool, leaves_fset_iff hp, leaves_withMs_iff hms]

theorem leaves_poolAsk_iff {h ask : Nat} (hms : Piece.ms ∈ ps) (hp : p (A.POL_STS h) = true) :
    Leaves ps p d (poolAsk e h ask) ↔ Leaves ps p d e := by
  rw [poolAsk, leaves_fset_iff hp, leaves_setPool_iff hms hp]

theorem leaves_poolAsk (d : Dev) {h : Nat} (hh : h < 2) (ask : Nat) : Leaves [.ms] (these [A.POL_STS 0, A.POL_STS 1]) d (poolAsk d h ask) := by
  have : these [A.POL_STS 0, A.POL_STS 1] (A.POL_STS h) = true := by interval_cases h <;> decide
  rw [leaves_poolAsk_iff (by simp) this]
  exact leaves_self

theorem leaves_poolsAsk (d : Dev) : Leaves [.ms] (these [A.POL_STS 0, A.POL_STS 1]) d (poolAsk (poolAsk d 0 1) 1 1) :=
  (leaves_poolAsk d (by decide) 1).trans (leaves_poolAsk _ (by decide) 1)

theorem leaves_holdAsking (d : Dev) : Leaves [.pwr] (these [A.PWR_STS, A.PWR_HSTS]) d (holdAsking d) := by
  simp [holdAsking, setPhaseHold, setPstate]

/-! ### What the blocks answer -/

theorem filter_sdel {α : Type} {q : Nat × α → Bool} {k : Nat} (h : ∀ v, q (k, v) = false) (m : List (Nat × α)) :
    (sdel k m).filter q = m.filter q := by
  rw [sdel, List.filter_filter]
  refine List.filter_congr fun x _ => ?_
  by_cases hx : x.1 = k
  · obtain ⟨j, w⟩ := x
    cases hx
    rw [h w, Bool.false_and]
  · simp [hx]

theorem filter_sput {α : Type} {q : Nat × α → Bool} {k : Nat} (h : ∀ v, q (k, v) = false) (v : α) (m : List (Nat × α)) :
    (sput k v m).filter q = m.filter q := by
  induction m with
  | nil => simp [sput, h]
  | cons x r ih =>
    obtain ⟨j, w⟩ := x
    rw [sput]
    split
    · simp [h]
    · split
      · next hj =>
        subst hj
        simp [h]
      · rw [List.filter_cons, List.filter_cons, ih]

/-- A part of the registers does not see a write outside it. -/
theorem regs_filter_regSet {q : Nat × W64 → Bool} {a : Nat} (h : ∀ v, q (a, v) = false) (d : Dev) (v : W64) :
    (regSet d a v).regs.filter q = d.regs.filter q := by
  change (sset (regReset a) a v d.regs).filter q = _
  rw [sset]
  split
  · exact filter_sdel h _
  · exact filter_sput h _ _

theorem stOf_setPhaseHold {a : Nat} (h : a ≠ A.PWR_HSTS) (d : Dev) (n : Nat) : stOf (setPhaseHold d n) a = stOf d a := by
  rw [stOf, setPhaseHold, fget_fset_ne _ h, ← stOf]

theorem rilActive_setPhaseHold (d : Dev) (n : Nat) : rilActive (setPhaseHold d n) = rilActive d := by
  unfold rilActive
  rw [setPhaseHold, fset, regs_filter_regSet fun v => by simp [A.PWR_HSTS, A.RIL_CSTS]]
  refine List.filter_congr fun n _ => ?_
  rw [← fset, ← setPhaseHold, stOf_setPhaseHold (by simp only [A.PWR_HSTS, A.RIL_CSTS]; omega)]

/-- No block looks at the phase of the entry for its answer (R598). -/
theorem holdAnswer_setPhaseHold (d : Dev) (n code inst : Nat) : holdAnswer (setPhaseHold d n) code inst = holdAnswer d code inst := by
  have hst {a : Nat} (h : 0x300000 ≤ a) : stOf (setPhaseHold d n) a = stOf d a := stOf_setPhaseHold (by simp only [A.PWR_HSTS]; omega) d n
  unfold holdAnswer
  split
  · exact congrArg byState (hst (by decide))
  · exact congrArg byState (hst (by simp only [A.CAS_STS]; omega))
  · exact congrArg byState (hst (by simp only [A.JET_STS]; omega))
  · rw [rilActive_setPhaseHold]
    exact congrArg byStates (List.map_congr_left fun n _ => hst (by simp only [A.RIL_CSTS]; omega))
  · exact congrArg byState (hst (by decide))
  · rw [hst (by simp only [A.WEI_STS]; omega)]
    rfl
  · exact congrArg byState (hst (by simp only [A.AST_STS]; omega))
  · exact congrArg byStates (List.map_congr_left fun n _ => hst (by simp only [A.AQD_CHSTS]; omega))
  · exact congrArg byState (hst (by simp only [A.HRM_PSTS]; omega))
  · exact congrArg byState (hst (by decide))
  · rw [show fget (setPhaseHold d n) (A.POL_STS inst) F.POL_STS_DIRTY = fget d (A.POL_STS inst) F.POL_STS_DIRTY from
      fget_fset_ne _ (by simp only [A.PWR_HSTS, A.POL_STS]; omega) _ _ _]
    rfl
  · rfl

theorem wakePending_setPhaseHold (d : Dev) (n : Nat) : wakePending (setPhaseHold d n) = wakePending d := by
  rw [wakePending, setPhaseHold, fget_fset_ne _ (by decide), ← wakePending]

/-- A refusal names one of the reasons that a block has by itself. -/
theorem refuse_lt {code inst r : Nat} (h : holdAnswer d code inst = .refuse r) : r < 16 := by
  have hstate (st : Nat) (h : byState st = .refuse r) : r < 16 := by
    unfold byState at h
    split at h <;> cases h
    decide
  have hstates (l : List Nat) (h : byStates l = .refuse r) : r < 16 := by
    unfold byStates at h
    split at h
    · cases h
    · split at h <;> cases h
      decide
  unfold holdAnswer at h
  split at h
  case h_6 =>
    simp only at h
    split at h
    · cases h
    · split at h
      · cases h
        decide
      · split at h <;> cases h
        decide
  case h_11 => split at h <;> cases h
  case h_12 => cases h
  case h_4 | h_8 => exact hstates _ h
  all_goals exact hstate _ h

/-! ### The end of an entry -/

theorem heldEnables_none (h : d.pwr.heldEn = []) : heldEnables d = setPwr d (fun p => { p with heldEn := [] }) := by
  rw [heldEnables, h]
  rfl

/-- The registers that show the end of an entry. -/
def isEntry (a : Nat) : Bool :=
  isReport a || these [A.PWR_STS, A.PWR_HSTS, A.PWR_WAKE, A.PWR_ACCT, A.TST_AUDSTS, A.TST_STS] a

theorem isReport_of_isEntry {a : Nat} (h : isEntry a = false) : isReport a = false := (Bool.or_eq_false_iff.1 h).1

/-- The entry has ended without Hold: in Run, no block held, the outcome and what goes with it recorded. -/
structure HoldEnded (d e : Dev) : Prop where
  run : pstate e = 0
  phase : fget e A.PWR_HSTS F.PWR_HSTS_PHASE = 0
  blocks : e.pwr.blocks = []
  kept : ∀ f : Fld, f.ok = true → F.PWR_HSTS_PHASE.apart f = true → fget e A.PWR_HSTS f = fget d A.PWR_HSTS f

theorem fget_pwrRaise_hsts (d : Dev) (number sev detail : Nat) (f : Fld) :
    fget (pwrRaise d number sev detail) A.PWR_HSTS f = fget d A.PWR_HSTS f :=
  (keepsRegs_pwrRaise d number sev detail).fget (by decide) f

/-- An entry that ends, before the outcome is posted. -/
def holdReleased (d : Dev) : Dev :=
  setPwr (fset (setPstate (setPhaseHold d 0) 0) A.PWR_WAKE F.PWR_WAKE_PEND 0) (fun p =>
    { p with blocks := [], committed := false, wakeAfter := false })

theorem holdRelease_eq (h : d.pwr.heldEn = []) : ∃ v, holdRelease d = setPwr (pwrRaise (holdReleased d) 0xCD 0 v) (fun p => { p with heldEn := [] }) := by
  refine ⟨_, heldEnables_none ?_⟩
  rw [pwrRaise, raise_pwr, fset_pwr]
  exact h

theorem holdRelease_ended (h : d.pwr.heldEn = []) : HoldEnded d (holdRelease d) := by
  obtain ⟨v, he⟩ := holdRelease_eq h
  rw [he]
  refine ⟨?_, ?_, ?_, fun f hf ha => ?_⟩
  · rw [pstate_setPwr, pstate, (pwrRaise_sts _ _ _ _).2 _ (by decide) (by decide), ← pstate, holdReleased, pstate_setPwr,
      pstate_fset_ne _ (by decide)]
    exact pstate_setPstate _ 0
  · rw [fget_setPwr, fget_pwrRaise_hsts, holdReleased, fget_setPwr, fget_fset_ne _ (by decide), setPstate, fget_fset_ne _ (by decide),
      setPhaseHold, fget_fset_self _ _ _ _ (by decide)]
    rfl
  · change (pwrRaise _ _ _ _).pwr.blocks = []
    rw [pwrRaise, raise_pwr, fset_pwr]
    rfl
  · rw [fget_setPwr, fget_pwrRaise_hsts, holdReleased, fget_setPwr, fget_fset_ne _ (by decide), setPstate, fget_fset_ne _ (by decide),
      setPhaseHold, fget_fset_apart _ _ _ _ _ _ (by decide) hf ha]

theorem leaves_holdRelease (h : d.pwr.heldEn = []) : Leaves [.pwr, .hst] isEntry d (holdRelease d) := by
  obtain ⟨v, he⟩ := holdRelease_eq h
  have h1 : isEntry A.PWR_STS = true := by decide
  have h2 : isEntry A.PWR_HSTS = true := by decide
  have h3 : isEntry A.PWR_WAKE = true := by decide
  rw [he, leaves_setPwr_iff (by simp), leaves_pwrRaise_minor_iff (by decide) (by simp) (fun a => isReport_of_isEntry) h1]
  simp [holdReleased, setPstate, setPhaseHold, h1, h2, h3]

/-- What a refusal records in PWR_HSTS and PWR_ACCT (R606). -/
def refusalNoted (d : Dev) (code inst reason : Nat) : Dev :=
  fset (fset (fset (fset d A.PWR_HSTS F.PWR_HSTS_OUTCOME 1) A.PWR_HSTS F.PWR_HSTS_BLOCK code) A.PWR_HSTS F.PWR_HSTS_INST inst)
    A.PWR_HSTS F.PWR_HSTS_REASON reason

def refusalCounted (d : Dev) (code inst reason : Nat) : Dev :=
  if fget d A.PWR_ACCT F.PWR_ACCT_MODE = 0 then d
  else fset (fset (fset (fincSat d A.PWR_ACCT F.PWR_ACCT_REFUSED 1) A.PWR_ACCT F.PWR_ACCT_LBLOCK code) A.PWR_ACCT F.PWR_ACCT_LINST inst)
    A.PWR_ACCT F.PWR_ACCT_LREASON reason

theorem leaves_refusalNoted (d : Dev) (code inst reason : Nat) : Leaves [] (these [A.PWR_HSTS]) d (refusalNoted d code inst reason) := by
  simp [refusalNoted]

theorem leaves_refusalCounted (d : Dev) (code inst reason : Nat) : Leaves [] (these [A.PWR_ACCT]) d (refusalCounted d code inst reason) := by
  unfold refusalCounted
  split
  · exact leaves_self
  · simp

theorem leaves_entry {as : List Nat} (h : Leaves [] (these as) d e) (hq : ∀ a ∈ as, isEntry a = true) : Leaves [.pwr, .hst] isEntry d e :=
  h.weaken (by simp) fun a ha => by
    rw [Bool.eq_false_iff, ne_eq, these_iff]
    intro hqa
    simp [hq a hqa] at ha

/-- A refused entry: its outcome, the block and the reason stand in PWR_HSTS (R598, R606). -/
theorem holdRefuse_ended {code inst reason : Nat} (h : d.pwr.heldEn = []) (hc : code < 16) (hi : inst < 8) (hr : reason < 16) :
    let e := holdRefuse d code inst reason
    pstate e = 0 ∧ fget e A.PWR_HSTS F.PWR_HSTS_PHASE = 0 ∧ fget e A.PWR_HSTS F.PWR_HSTS_OUTCOME = 1 ∧ e.pwr.blocks = [] ∧
    fget e A.PWR_HSTS F.PWR_HSTS_BLOCK = code ∧ fget e A.PWR_HSTS F.PWR_HSTS_INST = inst ∧
    fget e A.PWR_HSTS F.PWR_HSTS_REASON = reason ∧ Leaves [.pwr, .hst] isEntry d e := by
  intro e
  have h1 := leaves_refusalNoted d code inst reason
  have h2 := leaves_refusalCounted (refusalNoted d code inst reason) code inst reason
  have hheld : (refusalCounted (refusalNoted d code inst reason) code inst reason).pwr.heldEn = [] := by
    rw [h2.1 .pwr (by simp), h1.1 .pwr (by simp), h]
  have hend := holdRelease_ended hheld
  have hkeep (f : Fld) (hf : f.ok = true) (ha : F.PWR_HSTS_PHASE.apart f = true) :
      fget e A.PWR_HSTS f = fget (refusalNoted d code inst reason) A.PWR_HSTS f :=
    (hend.kept f hf ha).trans (h2.2.fget (by decide) f)
  refine ⟨hend.run, hend.phase, ?_, hend.blocks, ?_, ?_, ?_, ?_⟩
  · rw [hkeep _ (by decide) (by decide), refusalNoted, fget_fset_apart _ _ _ _ _ _ (by decide) (by decide) (by decide),
      fget_fset_apart _ _ _ _ _ _ (by decide) (by decide) (by decide),
      fget_fset_apart _ _ _ _ _ _ (by decide) (by decide) (by decide), fget_fset_self _ _ _ _ (by decide)]
    rfl
  · rw [hkeep _ (by decide) (by decide), refusalNoted, fget_fset_apart _ _ _ _ _ _ (by decide) (by decide) (by decide),
      fget_fset_apart _ _ _ _ _ _ (by decide) (by decide) (by decide), fget_fset_self _ _ _ _ (by decide)]
    exact Nat.mod_eq_of_lt (show code < 256 by omega)
  · rw [hkeep _ (by decide) (by decide), refusalNoted, fget_fset_apart _ _ _ _ _ _ (by decide) (by decide) (by decide),
      fget_fset_self _ _ _ _ (by decide)]
    exact Nat.mod_eq_of_lt (show inst < 16 by omega)
  · rw [hkeep _ (by decide) (by decide), refusalNoted, fget_fset_self _ _ _ _ (by decide)]
    exact Nat.mod_eq_of_lt hr
  · have hacct : Leaves [.pwr, .hst] isEntry (refusalNoted d code inst reason) (refusalCounted (refusalNoted d code inst reason) code inst reason) :=
      leaves_entry h2 (by decide)
    exact ((leaves_entry h1 (by decide)).trans hacct).trans (leaves_holdRelease hheld)

end

end Sys2Proof.Machine
end

section
/-! PROOFS. Hold, continued: answers, the commit, the image, wake events, the exit and Cold (16, R596 to R608). -/

namespace Sys2Proof.Machine

section
variable {ps : List Piece} {p : Nat → Bool} {d e : Dev}

/-! ### Answers -/

section
variable {c i : Nat} {b : HoldBlk} (hw : holdWaits d c i = some b)
include hw

theorem holdWaits_some : pstate d = 1 ∧ b.code = c ∧ b.inst = i := by
  unfold holdWaits at hw
  split at hw
  · cases hw
  · next h =>
    have hb := List.find?_some hw
    simp only [Bool.and_eq_true, beq_iff_eq, bne_iff_ne] at hb
    exact ⟨by omega, hb.1.1, hb.1.2⟩

theorem holdTimeout_late (ht : answerBy b < d.now) : holdTimeout d c i = holdRefuse d c i 4 := by
  unfold holdTimeout
  rw [hw]
  exact if_pos ht

variable (hwake : wakePending d = false) (ht : d.now ≤ answerBy b)
include hwake ht

/-- A block that waits and is in time: its answer decides (R598). -/
theorem holdAnswered_eq : holdAnswered d c i = match holdAnswer d c i with
    | .refuse r => holdRefuse (setPhaseHold d 2) c i r
    | .delay =>
      if b.delays = 3 then holdRefuse (setPhaseHold d 2) c i 3
      else setHoldBlk (fincSat (setPhaseHold d 2) A.PWR_HSTS F.PWR_HSTS_DELAYS 1) { b with ans := 2, since := d.now, delays := b.delays + 1 }
    | .accept =>
      if (setHoldBlk (setPhaseHold d 2) { b with ans := 1 }).pwr.blocks.all (fun x => x.ans == 1) then
        setPhaseHold (setHoldBlk (setPhaseHold d 2) { b with ans := 1 }) 3
      else setHoldBlk (setPhaseHold d 2) { b with ans := 1 } := by
  have hnow : (setPhaseHold d 2).now = d.now := fset_now ..
  have hwake' : wakePending (setHoldBlk (setPhaseHold d 2) { b with ans := 1 }) = false := (wakePending_setPhaseHold d 2).trans hwake
  simp only [holdAnswered, hw]
  rw [if_neg (by simp [hwake]), if_neg (by rw [hnow]; omega), holdAnswer_setPhaseHold, hnow, hwake']
  rfl

end

/-- The blocks asked, with the one that answers replaced. -/
theorem setHoldBlk_blocks (d : Dev) (b : HoldBlk) :
    (setHoldBlk d b).pwr.blocks = d.pwr.blocks.map (fun x => if x.code = b.code ∧ x.inst = b.inst then b else x) := rfl

theorem fget_setHoldBlk (d : Dev) (b : HoldBlk) (a : Nat) (f : Fld) : fget (setHoldBlk d b) a f = fget d a f := rfl

theorem pstate_setPhaseHold (d : Dev) (n : Nat) : pstate (setPhaseHold d n) = pstate d := pstate_fset_ne _ (by decide) _ _

theorem phase_setPhaseHold (d : Dev) (n : Nat) : fget (setPhaseHold d n) A.PWR_HSTS F.PWR_HSTS_PHASE = n % 8 :=
  fget_fset_self _ _ _ _ (by decide)

theorem setPhaseHold_pwr (d : Dev) (n : Nat) : (setPhaseHold d n).pwr = d.pwr := fset_pwr ..

theorem leaves_setPhaseHold_iff {n : Nat} (h : p A.PWR_HSTS = true) : Leaves ps p d (setPhaseHold e n) ↔ Leaves ps p d e := leaves_fset_iff h

theorem leaves_setHoldBlk_iff {b : HoldBlk} (h : Piece.pwr ∈ ps) : Leaves ps p d (setHoldBlk e b) ↔ Leaves ps p d e := leaves_setPwr_iff h

section
variable {c i : Nat} {b : HoldBlk} (hw : holdWaits d c i = some b) (hwake : wakePending d = false) (ht : d.now ≤ answerBy b)
include hw hwake ht

theorem holdAnswered_accept (ha : holdAnswer d c i = .accept) : let e := holdAnswered d c i
    let bs := d.pwr.blocks.map (fun x => if x.code = c ∧ x.inst = i then { b with ans := 1 } else x)
    e.pwr.blocks = bs ∧ pstate e = 1 ∧
    fget e A.PWR_HSTS F.PWR_HSTS_PHASE = (if bs.all (fun x => x.ans == 1) then 3 else 2) ∧ Leaves [.pwr] (these [A.PWR_HSTS]) d e := by
  obtain ⟨hp, rfl, rfl⟩ := holdWaits_some hw
  have hbs := setHoldBlk_blocks (setPhaseHold d 2) { b with ans := 1 }
  rw [setPhaseHold_pwr] at hbs
  have hpst : pstate (setHoldBlk (setPhaseHold d 2) { b with ans := 1 }) = 1 := (pstate_setPhaseHold d 2).trans hp
  rw [holdAnswered_eq hw hwake ht, ha]
  simp only
  rw [hbs]
  split
  · refine ⟨(congrArg Pwr.blocks (setPhaseHold_pwr _ _)).trans hbs, (pstate_setPhaseHold _ _).trans hpst, phase_setPhaseHold _ _, ?_⟩
    rw [leaves_setPhaseHold_iff (by decide), leaves_setHoldBlk_iff (by simp), leaves_setPhaseHold_iff (by decide)]
    exact leaves_self
  · refine ⟨hbs, hpst, (fget_setHoldBlk ..).trans (phase_setPhaseHold _ _), ?_⟩
    rw [leaves_setHoldBlk_iff (by simp), leaves_setPhaseHold_iff (by decide)]
    exact leaves_self

theorem holdAnswered_delay (ha : holdAnswer d c i = .delay) (h3 : b.delays ≠ 3) : let e := holdAnswered d c i
    e.pwr.blocks = d.pwr.blocks.map (fun x => if x.code = c ∧ x.inst = i then { b with ans := 2, since := d.now, delays := b.delays + 1 } else x) ∧
    pstate e = 1 ∧ fget e A.PWR_HSTS F.PWR_HSTS_PHASE = 2 ∧
    fget e A.PWR_HSTS F.PWR_HSTS_DELAYS = min (fget d A.PWR_HSTS F.PWR_HSTS_DELAYS + 1) 255 ∧
    Leaves [.pwr] (these [A.PWR_HSTS]) d e := by
  obtain ⟨hp, rfl, rfl⟩ := holdWaits_some hw
  rw [holdAnswered_eq hw hwake ht, ha]
  simp only
  rw [if_neg h3]
  refine ⟨?_, ?_, ?_, ?_, ?_⟩
  · rw [setHoldBlk_blocks, fincSat, fset_pwr, setPhaseHold_pwr]
  · rw [setHoldBlk, pstate_setPwr, fincSat, pstate_fset_ne _ (by decide), pstate_setPhaseHold, hp]
  · rw [fget_setHoldBlk, fincSat, fget_fset_apart _ _ _ _ _ _ (by decide) (by decide) (by decide), phase_setPhaseHold]
  · rw [fget_setHoldBlk, fincSat, fget_fset_self _ _ _ _ (by decide), setPhaseHold, fget_fset_apart _ _ _ _ _ _ (by decide) (by decide) (by decide)]
    change min (fget d A.PWR_HSTS F.PWR_HSTS_DELAYS + 1) 255 % 256 = _
    omega
  · rw [leaves_setHoldBlk_iff (by simp), leaves_fincSat_iff (by decide), leaves_setPhaseHold_iff (by decide)]
    exact leaves_self

theorem holdAnswered_refuse {r : Nat} (ha : holdAnswer d c i = .refuse r) : holdAnswered d c i = holdRefuse (setPhaseHold d 2) c i r := by
  rw [holdAnswered_eq hw hwake ht, ha]

end

theorem leaves_phase (d : Dev) (n : Nat) : Leaves [.pwr, .hst] isEntry d (setPhaseHold d n) := by
  rw [leaves_setPhaseHold_iff (by decide)]
  exact leaves_self

/-! ### The commit (R599, R600) -/

theorem not_these_of_subset {as bs : List Nat} {a : Nat} (h : as ⊆ bs) (hb : these bs a = false) : these as a = false := by
  rw [Bool.eq_false_iff, ne_eq, these_iff] at hb ⊢
  exact fun ha => hb (h ha)

theorem leaves_entry_audit (d : Dev) (bs : List Book) :
    Leaves [.pwr, .hst, .tst] (fun a => isReport a || these [A.PWR_HSTS, A.TST_AUDSTS, A.TST_STS] a) d (audit d bs) :=
  (leaves_audit d bs).weaken (by simp) fun a ha => by
    obtain ⟨hrep, hthese⟩ := Bool.or_eq_false_iff.1 ha
    exact Bool.or_eq_false_iff.2 ⟨hrep, not_these_of_subset (by simp) hthese⟩

/-- The package at AP3, its books audited (R635). -/
def audited (d : Dev) : Dev := audit d (packageBooks d ++ halfBooks d ++ pwrBooks d)

theorem fget_audited (d : Dev) {a : Nat} (h : isAudit a = false) (f : Fld) : fget (audited d) a f = fget d a f := (leaves_audit d _).2.fget h f

theorem wakePending_audited (d : Dev) : wakePending (audited d) = wakePending d := by
  rw [wakePending, fget_audited _ (by decide), ← wakePending]

section
variable (hp : pstate d = 1) (h3 : fget d A.PWR_HSTS F.PWR_HSTS_PHASE = 3)
include hp h3

theorem quiesceDone_eq : quiesceDone d = if wakePending d then holdAbandon (audited d) 3
    else setPhaseHold (setPwr (audited d) (fun p => { p with committed := true })) 4 := by
  unfold quiesceDone
  rw [if_neg (by omega)]
  extract_lets e
  rw [show wakePending e = wakePending d from wakePending_audited d]
  rfl

theorem quiesceDone_commits (hwake : wakePending d = false) : let e := quiesceDone d
    e.pwr.committed = true ∧ fget e A.PWR_HSTS F.PWR_HSTS_PHASE = 4 ∧ pstate e = 1 ∧
    Leaves [.pwr, .hst, .tst] (fun a => isReport a || these [A.PWR_HSTS, A.TST_AUDSTS, A.TST_STS] a) d e := by
  rw [quiesceDone_eq hp h3, hwake]
  refine ⟨congrArg Pwr.committed (setPhaseHold_pwr _ _), phase_setPhaseHold _ _, ?_, ?_⟩
  · exact (pstate_setPhaseHold _ _).trans ((fget_audited d (by decide) _).trans hp)
  · change Leaves _ _ d (setPhaseHold _ 4)
    rw [leaves_setPhaseHold_iff (by decide), leaves_setPwr_iff (by simp)]
    exact leaves_entry_audit d _

end

/-- What an entry abandoned at an abort point records (R600, R606). -/
def abandonNoted (d : Dev) (ap : Nat) : Dev := fset (fset d A.PWR_HSTS F.PWR_HSTS_OUTCOME 2) A.PWR_HSTS F.PWR_HSTS_AP ap

def abandonCounted (d : Dev) : Dev :=
  if fget d A.PWR_ACCT F.PWR_ACCT_MODE = 0 then d else fincSat d A.PWR_ACCT F.PWR_ACCT_ABANDONED 1

theorem leaves_abandonNoted (d : Dev) (ap : Nat) : Leaves [] (these [A.PWR_HSTS]) d (abandonNoted d ap) := by simp [abandonNoted]

theorem leaves_abandonCounted (d : Dev) : Leaves [] (these [A.PWR_ACCT]) d (abandonCounted d) := by
  unfold abandonCounted
  split
  · exact leaves_self
  · simp

theorem holdAbandon_ended {ap : Nat} (h : d.pwr.heldEn = []) (hap : ap < 4) : let e := holdAbandon d ap
    pstate e = 0 ∧ fget e A.PWR_HSTS F.PWR_HSTS_PHASE = 0 ∧ fget e A.PWR_HSTS F.PWR_HSTS_OUTCOME = 2 ∧ e.pwr.blocks = [] ∧
    fget e A.PWR_HSTS F.PWR_HSTS_AP = ap ∧ Leaves [.pwr, .hst] isEntry d e := by
  intro e
  have h1 := leaves_abandonNoted d ap
  have h2 := leaves_abandonCounted (abandonNoted d ap)
  have hheld : (abandonCounted (abandonNoted d ap)).pwr.heldEn = [] := by rw [h2.1 .pwr (by simp), h1.1 .pwr (by simp), h]
  have hend := holdRelease_ended hheld
  have hkeep (f : Fld) (hf : f.ok = true) (ha : F.PWR_HSTS_PHASE.apart f = true) :
      fget e A.PWR_HSTS f = fget (abandonNoted d ap) A.PWR_HSTS f :=
    (hend.kept f hf ha).trans (h2.2.fget (by decide) f)
  have hcounted : Leaves [.pwr, .hst] isEntry (abandonNoted d ap) (abandonCounted (abandonNoted d ap)) := leaves_entry h2 (by decide)
  refine ⟨hend.run, hend.phase, ?_, hend.blocks, ?_, ((leaves_entry h1 (by decide)).trans hcounted).trans (leaves_holdRelease hheld)⟩
  · rw [hkeep _ (by decide) (by decide), abandonNoted, fget_fset_apart _ _ _ _ _ _ (by decide) (by decide) (by decide),
      fget_fset_self _ _ _ _ (by decide)]
    rfl
  · rw [hkeep _ (by decide) (by decide), abandonNoted, fget_fset_self _ _ _ _ (by decide)]
    exact Nat.mod_eq_of_lt hap

theorem quiesceDone_abandons (hp : pstate d = 1) (h3 : fget d A.PWR_HSTS F.PWR_HSTS_PHASE = 3) (hwake : wakePending d = true)
    (hheld : d.pwr.heldEn = []) : let e := quiesceDone d
    pstate e = 0 ∧ fget e A.PWR_HSTS F.PWR_HSTS_PHASE = 0 ∧ fget e A.PWR_HSTS F.PWR_HSTS_OUTCOME = 2 ∧ e.pwr.blocks = [] ∧
    fget e A.PWR_HSTS F.PWR_HSTS_AP = 3 ∧ Leaves [.pwr, .hst, .tst] isEntry d e := by
  have haud : Leaves [.tst, .hst] isAudit d (audited d) := leaves_audit d _
  have hheld' : (audited d).pwr.heldEn = [] := by rw [haud.1 .pwr (by simp), hheld]
  obtain ⟨hrun, hphase, hout, hblocks, hap, hframe⟩ := holdAbandon_ended (ap := 3) hheld' (by decide)
  have haud' : Leaves [.pwr, .hst, .tst] isEntry d (audited d) := haud.weaken (by simp) fun a ha => by
    obtain ⟨hrep, hthese⟩ := Bool.or_eq_false_iff.1 ha
    exact Bool.or_eq_false_iff.2 ⟨hrep, not_these_of_subset (by simp) hthese⟩
  rw [quiesceDone_eq hp h3, if_pos hwake]
  exact ⟨hrun, hphase, hout, hblocks, hap, haud'.trans (hframe.weaken (by simp) fun _ => id)⟩

/-! ### The image (R602) -/

theorem holdSaved_outside (h : pstate d ≠ 1 ∨ d.pwr.committed = false) : holdSaved d = d := if_pos h

/-- The image written and the halves power-gated, before PSTATE shows it. -/
def imageWritten (d : Dev) : Dev :=
  setPhaseHold (fset (fset (fset (setPwr d fun p =>
    { p with image := ⟨saveRows d (holdRows 0 ++ holdRows 1), []⟩, asleep := true, blocks := [], committed := false, wakeAfter := false })
    A.PWR_SUP F.PWR_SUP_IMGVALID (1 - fget d A.PWR_SUP F.PWR_SUP_BROWNOUT)) A.PWR_SUP F.PWR_SUP_IMGCOLD 0) A.PWR_HSTS F.PWR_HSTS_OUTCOME 0) 0

def isImage (a : Nat) : Bool := isReport a || these [A.PWR_STS, A.PWR_HSTS, A.PWR_SUP] a

theorem isReport_of_isImage {a : Nat} (h : isImage a = false) : isReport a = false := (Bool.or_eq_false_iff.1 h).1

theorem holdSaved_eq (hp : pstate d = 1) (hc : d.pwr.committed = true) : ∃ v, holdSaved d =
    if d.pwr.wakeAfter then setPstate (pwrRaise (setPstate (imageWritten d) 2) 0xCD 0 v) 3
    else pwrRaise (setPstate (imageWritten d) 2) 0xCD 0 v := ⟨_, if_neg (by simp [hp, hc])⟩

theorem imageWritten_pwr (d : Dev) : (imageWritten d).pwr.asleep = true ∧ (imageWritten d).pwr.image.hold = saveRows d (holdRows 0 ++ holdRows 1) := by
  rw [imageWritten, setPhaseHold_pwr, fset_pwr, fset_pwr, fset_pwr]
  exact ⟨rfl, rfl⟩

theorem holdSaved_done (hp : pstate d = 1) (hc : d.pwr.committed = true) : let e := holdSaved d
    pstate e = (if d.pwr.wakeAfter then 3 else 2) ∧ e.pwr.asleep = true ∧
    e.pwr.image.hold = saveRows d (holdRows 0 ++ holdRows 1) ∧
    fget e A.PWR_SUP F.PWR_SUP_IMGVALID = 1 - fget d A.PWR_SUP F.PWR_SUP_BROWNOUT ∧ Leaves [.pwr, .hst] isImage d e := by
  obtain ⟨v, he⟩ := holdSaved_eq hp hc
  have hsts : isImage A.PWR_STS = true := by decide
  have hhsts : isImage A.PWR_HSTS = true := by decide
  have hsup : isImage A.PWR_SUP = true := by decide
  have hwritten : Leaves [.pwr, .hst] isImage d (imageWritten d) := by simp [imageWritten, setPhaseHold, hhsts, hsup]
  obtain ⟨hasleep, himage⟩ := imageWritten_pwr d
  generalize hu : pwrRaise (setPstate (imageWritten d) 2) 0xCD 0 v = u at he
  have hframe : Leaves [.pwr, .hst] isImage d u := by
    rw [← hu, leaves_pwrRaise_minor_iff (by decide) (by simp) (fun a => isReport_of_isImage) hsts, setPstate, leaves_fset_iff hsts]
    exact hwritten
  have hpst : pstate u = 2 := by
    rw [← hu, pstate, (pwrRaise_sts _ _ _ _).2 _ (by decide) (by decide), ← pstate]
    exact pstate_setPstate _ 2
  have hpwr : u.pwr = (imageWritten d).pwr := by rw [← hu, pwrRaise, raise_pwr, fset_pwr, setPstate, fset_pwr]
  have hvalid : fget u A.PWR_SUP F.PWR_SUP_IMGVALID = 1 - fget d A.PWR_SUP F.PWR_SUP_BROWNOUT := by
    rw [← hu, fget_pwrRaise_sup, setPstate, fget_fset_ne _ (by decide), imageWritten, setPhaseHold, fget_fset_ne _ (by decide),
      fget_fset_ne _ (by decide), fget_fset_apart _ _ _ _ _ _ (by decide) (by decide) (by decide), fget_fset_self _ _ _ _ (by decide)]
    change (1 - _) % 2 = _
    omega
  rw [he]
  split
  · refine ⟨pstate_setPstate _ 3, ?_, ?_, ?_, ?_⟩
    · rw [setPstate, fset_pwr, hpwr, hasleep]
    · rw [setPstate, fset_pwr, hpwr, himage]
    · rw [setPstate, fget_fset_ne _ (by decide), hvalid]
    · rw [setPstate, leaves_fset_iff hsts]
      exact hframe
  · exact ⟨hpst, by rw [hpwr, hasleep], by rw [hpwr, himage], hvalid, hframe⟩

/-! ### Wake events (R600, R605) -/

theorem wakeEvent_run (h : pstate d = 0) (src : Nat) : wakeEvent d src = d := by
  simp [wakeEvent, h]

theorem wakeEvent_pending (h : pstate d = 1) (hc : d.pwr.committed = false) {src : Nat} (hsrc : src < 16) :
    fget (wakeEvent d src) A.PWR_WAKE F.PWR_WAKE_PEND = 1 ∧ fget (wakeEvent d src) A.PWR_WAKE F.PWR_WAKE_SRC = src ∧
    pstate (wakeEvent d src) = 1 := by
  simp only [wakeEvent, h, hc]
  refine ⟨fget_fset_self _ _ _ _ (by decide), ?_, ?_⟩
  · change fget (fset _ _ _ _) _ _ = _
    rw [fget_fset_apart _ _ _ _ _ _ (by decide) (by decide) (by decide),
      fget_fset_apart _ _ _ _ _ _ (by decide) (by decide) (by decide), fget_fset_self _ _ _ _ (by decide)]
    exact Nat.mod_eq_of_lt hsrc
  · change pstate (fset _ _ _ _) = _
    rw [pstate_fset_ne _ (by decide), pstate_fset_ne _ (by decide), pstate_fset_ne _ (by decide), h]

theorem wakeEvent_committed (h : pstate d = 1) (hc : d.pwr.committed = true) (src : Nat) :
    (wakeEvent d src).pwr.wakeAfter = true ∧ pstate (wakeEvent d src) = 1 := by
  simp only [wakeEvent, h, hc, if_true]
  refine ⟨rfl, ?_⟩
  rw [pstate_setPwr, pstate_fset_ne _ (by decide), pstate_fset_ne _ (by decide), pstate_fset_ne _ (by decide), h]

/-! ### The exit and Cold (R603, R608) -/

theorem holdExitDone_outside (h : pstate d ≠ 3) : holdExitDone d = d := if_pos h

theorem leaves_restoreRows (d : Dev) (l : List (Nat × W64)) : Leaves [] (fun _ => true) d (restoreRows d l) := by
  induction l generalizing d with
  | nil => exact leaves_self
  | cons r l ih => exact ((leaves_regSet d r.1 r.2 rfl).widen (by simp)).trans (ih (regSet d r.1 r.2))

theorem restoreRows_mem (d : Dev) (l : List (Nat × W64)) : (restoreRows d l).mem = d.mem := by
  induction l generalizing d with
  | nil => rfl
  | cons r l ih => exact (ih (regSet d r.1 r.2)).trans rfl

/-- The gap in force reaches one sequencer. -/
def gapShown (eff : Nat) (d : Dev) (h : Nat) : Dev :=
  (fset d (A.SEQ_GAP h) F.SEQ_GAP_PWR eff).withObs (obsPut (fset d (A.SEQ_GAP h) F.SEQ_GAP_PWR eff).obs (.gapPwr h) eff)

theorem gapApply_eq (d : Dev) : gapApply d =
    gapShown (fget d A.PWR_FLOOR F.PWR_FLOOR_EFF) (gapShown (fget d A.PWR_FLOOR F.PWR_FLOOR_EFF) d 0) 1 := rfl

theorem leaves_gapShown (d : Dev) (eff : Nat) {h : Nat} (hh : h < 2) : Leaves [.gov] (these [A.SEQ_GAP 0, A.SEQ_GAP 1]) d (gapShown eff d h) := by
  rw [gapShown, leaves_withObs_iff (by simp), leaves_fset_iff (by interval_cases h <;> decide)]
  exact leaves_self

theorem gapShown_mem (d : Dev) (eff h : Nat) : (gapShown eff d h).mem = d.mem := by
  rw [gapShown, withObs_mem, fset_mem]

theorem leaves_gapApply (d : Dev) : Leaves [.gov] (these [A.SEQ_GAP 0, A.SEQ_GAP 1]) d (gapApply d) := by
  rw [gapApply_eq]
  exact (leaves_gapShown d _ (by decide)).trans (leaves_gapShown _ _ (by decide))

theorem gapApply_mem (d : Dev) : (gapApply d).mem = d.mem := by rw [gapApply_eq, gapShown_mem, gapShown_mem]

theorem leaves_resetRange (d : Dev) (lo hi : Nat) : Leaves [.live] (fun _ => true) d (resetRange d lo hi) := by
  unfold resetRange
  extract_lets out
  rw [leaves_withLive_iff (by simp)]
  have h : OnlyRegs (fun _ => true) d (d.withRegs (d.regs.filter out)) := ⟨⟨_, rfl⟩, fun a h => by cases h⟩
  exact h.leaves.widen (by simp)

theorem resetRange_mem (d : Dev) (lo hi : Nat) : (resetRange d lo hi).mem = d.mem := rfl

/-- The half logic comes up empty; memory, ports, host and pins stand (R595, R603). -/
theorem halvesReset_parts (d : Dev) : (halvesReset d).cas = Cas.init ∧ (halvesReset d).jet = Jet.init ∧ (halvesReset d).mem = d.mem ∧
    (halvesReset d).ports = d.ports ∧ (halvesReset d).hst = d.hst ∧ (halvesReset d).pwr = d.pwr := by
  unfold halvesReset
  extract_lets found kept e pager
  have he : Leaves [.live] (fun _ => true) d e := (leaves_resetRange d _ _).trans ((leaves_restoreRows _ kept).widen (by simp))
  have hm : e.mem = d.mem := by
    rw [show e.mem = (resetRange d 0x1000000 0x3000000).mem from restoreRows_mem _ kept, resetRange_mem]
  have hports : e.ports = d.ports := he.1 .ports (by simp)
  have hhst : e.hst = d.hst := he.1 .hst (by simp)
  have hpwr : e.pwr = d.pwr := he.1 .pwr (by simp)
  clear_value e
  simp [hm, hports, hhst, hpwr]

/-- The halves with the Hold part restored. -/
def halvesRestored (d : Dev) : Dev := gapApply (restoreRows (halvesReset d) d.pwr.image.hold)

theorem leaves_halvesRestored (d : Dev) : Leaves [.gov] (fun _ => true) (halvesReset d) (halvesRestored d) :=
  ((leaves_restoreRows _ _).widen (by simp)).trans ((leaves_gapApply _).weaken (by simp) fun a h => by cases h)

theorem holdExitDone_eq (h : pstate d = 3) (hheld : d.pwr.heldEn = []) : holdExitDone d =
    setPwr (setPstate (setPwr (halvesRestored d) (fun p => { p with asleep := false })) 0) (fun p => { p with heldEn := [] }) := by
  rw [holdExitDone, if_neg (not_not.2 h)]
  refine heldEnables_none ?_
  rw [setPstate, fset_pwr]
  change (halvesRestored d).pwr.heldEn = []
  rw [(leaves_halvesRestored d).1 .pwr (by simp), (halvesReset_parts d).2.2.2.2.2, hheld]

theorem holdExitDone_done (h : pstate d = 3) (hheld : d.pwr.heldEn = []) : let e := holdExitDone d
    pstate e = 0 ∧ e.pwr.asleep = false ∧ e.cas = Cas.init ∧ e.jet = Jet.init ∧ e.mem = d.mem ∧ e.ports = d.ports ∧ e.hst = d.hst := by
  obtain ⟨hcas, hjet, hmem, hports, hhst, -⟩ := halvesReset_parts d
  have hr := leaves_halvesRestored d
  have hm : (halvesRestored d).mem = d.mem := (gapApply_mem _).trans ((restoreRows_mem _ _).trans hmem)
  rw [holdExitDone_eq h hheld]
  generalize halvesRestored d = u at hr hm
  refine ⟨pstate_setPstate _ 0, ?_, (hr.1 .cas (by simp)).trans hcas, (hr.1 .jet (by simp)).trans hjet, hm,
    (hr.1 .ports (by simp)).trans hports, (hr.1 .hst (by simp)).trans hhst⟩
  change (setPstate _ 0).pwr.asleep = false
  rw [setPstate, fset_pwr]
  rfl

/-- The Cold part of the image written and the links taken down (R608). -/
def coldSaved (d : Dev) : Dev :=
  fset (setPwr d fun p => { p with image := { p.image with cold := saveRows d coldRows }, heldEn := [] }) A.PWR_SUP F.PWR_SUP_IMGCOLD 1

def linksDown (d : Dev) : Dev := (List.range 8).foldl (fun d p => setLstate (linkOff d p) p 0) d

theorem linksDown_off (d : Dev) : (linksDown d).pwr = d.pwr ∧
    (∀ a, 0x200000 ≤ a → a < 0x300000 → regGet (linksDown d) a = regGet d a) ∧ ∀ q, q < 8 → lstate (linksDown d) q = 0 := linksOff d

/-- The package shows Cold: the PCIe link gone, PSTATE and COLDRDY. -/
def coldShown (d : Dev) : Dev :=
  fset (setPstate (setPwr d fun p => { p with pcieUp := false }) 4) A.PWR_STS F.PWR_STS_COLDRDY 1

theorem coldEntry_eq (h : pstate d = 2) : coldEntry d = nvStop (coldShown (linksDown (coldSaved d))) := by
  rw [coldEntry, if_neg (not_not.2 h)]
  rfl

theorem coldSaved_image (d : Dev) : (coldSaved d).pwr.image.cold = saveRows d coldRows ∧ fget (coldSaved d) A.PWR_SUP F.PWR_SUP_IMGCOLD = 1 := by
  constructor
  · rw [coldSaved, fset_pwr]
    rfl
  · exact fget_fset_self _ _ _ _ (by decide)

theorem linksDown_image (d : Dev) : (linksDown (coldSaved d)).pwr.image.cold = saveRows d coldRows ∧
    fget (linksDown (coldSaved d)) A.PWR_SUP F.PWR_SUP_IMGCOLD = 1 ∧ ∀ q, q < 8 → lstate (linksDown (coldSaved d)) q = 0 := by
  obtain ⟨hpwr, hregs, hlinks⟩ := linksDown_off (coldSaved d)
  obtain ⟨himage, hsup⟩ := coldSaved_image d
  refine ⟨by rw [hpwr, himage], ?_, hlinks⟩
  rw [fget, hregs _ (by decide) (by decide), ← fget, hsup]

theorem coldShown_sts (d : Dev) : pstate (coldShown d) = 4 ∧ fget (coldShown d) A.PWR_STS F.PWR_STS_COLDRDY = 1 := by
  constructor
  · rw [coldShown, pstate, fget_fset_apart _ _ _ _ _ _ (by decide) (by decide) (by decide), ← pstate, pstate_setPstate]
  · exact fget_fset_self _ _ _ _ (by decide)

theorem coldShown_pwr (d : Dev) : (coldShown d).pwr.pcieUp = false ∧ (coldShown d).pwr.image = d.pwr.image := by
  rw [coldShown, fset_pwr, setPstate, fset_pwr]
  exact ⟨rfl, rfl⟩

theorem fget_coldShown (d : Dev) {a : Nat} (h : a ≠ A.PWR_STS) (f : Fld) : fget (coldShown d) a f = fget d a f := by
  rw [coldShown, fget_fset_ne _ h, setPstate, fget_fset_ne _ h, fget_setPwr]

theorem nvStop_sts (d : Dev) {f : Fld} (hf : f.ok = true) (h1 : F.PWR_STS_EXC.apart f = true) (h2 : F.PWR_STS_NVWP.apart f = true) :
    fget (nvStop d) A.PWR_STS f = fget d A.PWR_STS f := by
  unfold nvStop
  simp only
  split
  · rfl
  · rw [(pwrRaise_sts _ _ _ _).2 f hf h1, fget_fset_apart _ _ _ _ _ _ (by decide) hf h2, fget_fset_ne _ (by decide)]

theorem lstate_nvStop (d : Dev) {q : Nat} (hq : q < 8) : lstate (nvStop d) q = lstate d q :=
  (leaves_nvStop d).2.fget (by interval_cases q <;> decide) _

theorem coldEntry_done (h : pstate d = 2) : let e := coldEntry d
    pstate e = 4 ∧ fget e A.PWR_STS F.PWR_STS_COLDRDY = 1 ∧ fget e A.PWR_SUP F.PWR_SUP_IMGCOLD = 1 ∧
    fget e A.PWR_SUP F.PWR_SUP_NVBLOCK = 1 ∧ e.pwr.pcieUp = false ∧ e.pwr.image.cold = saveRows d coldRows ∧
    ∀ p, p < 8 → lstate e p = 0 := by
  obtain ⟨hcold, hsup, hl⟩ := linksDown_image d
  rw [coldEntry_eq h]
  generalize linksDown (coldSaved d) = u at hcold hsup hl
  obtain ⟨hpst, hrdy⟩ := coldShown_sts u
  obtain ⟨hup, himage⟩ := coldShown_pwr u
  have hconds : nvConditions (coldShown u) ≠ 0 := by
    rw [nvConditions, hpst]
    change _ + _ + 4 * 1 ≠ 0
    omega
  refine ⟨(nvStop_sts _ (by decide) (by decide) (by decide)).trans hpst, ?_, ?_, nvStop_blocks hconds, ?_, ?_, fun q hq => ?_⟩
  · rw [nvStop_sts _ (by decide) (by decide) (by decide), hrdy]
  · rw [nvStop_sup _ _ (by decide) (by decide), fget_coldShown _ (by decide), hsup]
  · rw [nvStop_pwr, hup]
  · rw [nvStop_pwr, himage, hcold]
  · rw [lstate_nvStop _ hq, lstate, fget_coldShown _ (by simp only [A.HRM_PSTS, A.PWR_STS]; omega), ← lstate, hl q hq]

/-- A wake event that the package notes (R600, R605). -/
theorem wakeEvent_frame (d : Dev) (src : Nat) : keepsBut [.pwr] d (wakeEvent d src) ∧ keepsRegs (these [A.PWR_WAKE, A.PWR_STS]) d (wakeEvent d src) :=
  leaves_wakeEvent d src

theorem wakeTimer_off (h : fget d A.PWR_WAKET F.PWR_WAKET_EN = 0) : wakeTimer d = d := if_neg (by omega)

theorem wakeTimer_due (h : fget d A.PWR_WAKET F.PWR_WAKET_EN = 1)
    (ht : (pastSida (sidNow d) (fget d A.PWR_WAKET F.PWR_WAKET_TIME)).isSome = true) : wakeTimer d = wakeEvent d 4 := if_pos ⟨h, ht⟩

/-! ### The entry, as the obligation states it -/

theorem holdAsking_blocks (d : Dev) : (holdAsking d).pwr.blocks = holdAsked.map (fun b => ⟨b.1, b.2, 0, d.now, 0⟩) := rfl
theorem holdAsking_committed (d : Dev) : (holdAsking d).pwr.committed = false := rfl
theorem holdAsking_phase (d : Dev) : fget (holdAsking d) A.PWR_HSTS F.PWR_HSTS_PHASE = 1 := by
  rw [holdAsking, fget_setPwr, phase_setPhaseHold]

theorem holdRequest_done (h : pstate d = 0) : let e := holdRequest d
    pstate e = 1 ∧ fget e A.PWR_HSTS F.PWR_HSTS_PHASE = 1 ∧ e.pwr.blocks = holdAsked.map (fun b => ⟨b.1, b.2, 0, d.now, 0⟩) ∧
    e.pwr.committed = false ∧ Leaves [.pwr, .ms] (these [A.PWR_STS, A.PWR_HSTS, A.POL_STS 0, A.POL_STS 1]) d e := by
  have hpst := pstate_holdRequest h
  have h1 := leaves_holdAsking d
  have h2 := leaves_poolsAsk (holdAsking d)
  have hphase := holdAsking_phase d
  have hblocks := holdAsking_blocks d
  have hcommitted := holdAsking_committed d
  rw [holdRequest_run h] at hpst ⊢
  generalize poolAsk (poolAsk (holdAsking d) 0 1) 1 1 = u at *
  generalize holdAsking d = e at *
  have hpwr : u.pwr = e.pwr := h2.1 .pwr (by simp)
  exact ⟨hpst, (h2.2.fget (by decide) _).trans hphase, by rw [hpwr, hblocks], by rw [hpwr, hcommitted],
    (h1.weaken (by simp) fun a => not_these_of_subset (by simp)).trans (h2.weaken (by simp) fun a => not_these_of_subset (by simp))⟩

/-- Settles O58: the request, each kind of answer, the commit at AP3, the image, wake events in every state of the
entry, the exit back to Run, and Cold from Hold with the links down. -/
theorem holdIsAskedEnteredAndLeft : Obligations.HoldIsAskedEnteredAndLeft := by
  refine ⟨fun t s => ?_, fun s => ?_, fun t s => ?_⟩
  · intro d phase swap ended
    refine ⟨fun h => next_congr rfl (holdRequest_outside h), fun h => ?_, fun code inst => ?_, fun hp h3 => ?_, fun hp hc => ?_,
      fun h => next_congr rfl (holdSaved_outside h)⟩
    · obtain ⟨hpst, hphase, hblocks, hcommitted, hframe⟩ := holdRequest_done h
      exact ⟨_, next_congr rfl rfl, hpst, hphase, hblocks, hcommitted, hframe⟩
    · intro c i
      have hc : c < 16 := code.isLt
      have hi : i < 8 := inst.isLt
      refine ⟨fun h => ⟨next_congr rfl ?_, next_congr rfl ?_⟩, fun b hw => ⟨fun hwake ht => ⟨fun ha => ?_, fun ha h3 => ?_, fun r ha hheld => ?_⟩, fun ht hheld => ?_⟩⟩
      · simp only [holdAnswered]
        rw [h]
      · simp only [holdTimeout]
        rw [h]
      · obtain ⟨hblocks, hpst, hphase, hframe⟩ := holdAnswered_accept hw hwake ht ha
        exact ⟨_, next_congr rfl rfl, hblocks, hpst, hphase, hframe⟩
      · obtain ⟨hblocks, hpst, hphase, hdelays, hframe⟩ := holdAnswered_delay hw hwake ht ha h3
        exact ⟨_, next_congr rfl rfl, hblocks, hpst, hphase, hdelays, hframe⟩
      · have hheld' : (setPhaseHold d 2).pwr.heldEn = [] := by rw [setPhaseHold_pwr, hheld]
        obtain ⟨hrun, hphase, hout, hblocks, hblock, hinst, hreason, hframe⟩ := holdRefuse_ended hheld' hc hi (refuse_lt ha)
        have hf := (leaves_phase d 2).trans hframe
        exact ⟨_, next_congr rfl (holdAnswered_refuse hw hwake ht ha), hblock, hinst, hreason, ⟨hrun, hphase, hout, hblocks, hf.2⟩, hf.1⟩
      · obtain ⟨hrun, hphase, hout, hblocks, hblock, hinst, hreason, hframe⟩ := holdRefuse_ended (reason := 4) hheld hc hi (by decide)
        exact ⟨_, next_congr rfl (holdTimeout_late hw ht), hreason, hblock, ⟨hrun, hphase, hout, hblocks, hframe.2⟩, hframe.1⟩
    · refine ⟨fun hwake => ?_, fun hwake hheld => ?_⟩
      · obtain ⟨hcommitted, hphase, hpst, hframe⟩ := quiesceDone_commits hp h3 hwake
        exact ⟨_, next_congr rfl rfl, hcommitted, hphase, hpst, hframe⟩
      · obtain ⟨hrun, hphase, hout, hblocks, hap, hframe⟩ := quiesceDone_abandons hp h3 hwake hheld
        exact ⟨_, next_congr rfl rfl, hap, ⟨hrun, hphase, hout, hblocks, hframe.2⟩, hframe.1⟩
    · obtain ⟨hpst, hasleep, himage, hvalid, hframe⟩ := holdSaved_done hp hc
      exact ⟨_, next_congr rfl rfl, hpst, hasleep, himage, hvalid, hframe⟩
  · intro d frame
    refine ⟨fun h => next_congr rfl (wakeEvent_run h 1), fun h hc => ?_, fun h hc => ?_, fun h => ?_⟩
    · obtain ⟨hpend, hsrc, hpst⟩ := wakeEvent_pending h hc (src := 1) (by decide)
      exact ⟨_, next_congr rfl rfl, hpend, hsrc, hpst, wakeEvent_frame ..⟩
    · obtain ⟨hafter, hpst⟩ := wakeEvent_committed h hc 1
      exact ⟨_, next_congr rfl rfl, hafter, hpst, wakeEvent_frame ..⟩
    · obtain ⟨hpst, hsrc⟩ := wakeEvent_hold h (src := 1) (by decide)
      exact ⟨_, next_congr rfl rfl, hpst, hsrc, wakeEvent_frame ..⟩
  · intro d
    refine ⟨fun h => next_congr rfl (wakeTimer_off h), fun h ht hp => ?_, fun h => next_congr rfl (holdExitDone_outside h), fun h hheld => ?_,
      fun h => next_congr rfl (coldEntry_outside h), fun h => ?_⟩
    · obtain ⟨hpst, hsrc⟩ := wakeEvent_hold hp (src := 4) (by decide)
      exact ⟨_, next_congr rfl (wakeTimer_due h ht), hpst, hsrc, wakeEvent_frame ..⟩
    · exact ⟨_, next_congr rfl rfl, holdExitDone_done h hheld⟩
    · exact ⟨_, next_congr rfl rfl, coldEntry_done h⟩

end

end Sys2Proof.Machine
end

section
/-! PROOFS. What each reset keeps and what bring-up starts from (17, R626 to R634; 16, R590, R609, R610). -/

namespace Sys2Proof.Machine

section
variable {ps : List Piece} {p : Nat → Bool} {d e : Dev}

/-! ### The reset of the package (R590, R626) -/

/-- The package with everything outside the always-on domain reset, before PSTATE follows. -/
def packageBase (d : Dev) : Dev :=
  { Dev.reset with
    now := d.now, fresh := d.fresh, regs := d.regs.filter (fun e => alwaysOn e.1), live := d.live.filter (fun e => alwaysOn e.1)
    nv := d.nv, nvNext := d.nvNext
    hst := { Hst.init with hostMem := d.hst.hostMem, msix := d.hst.msix, cpl := d.hst.cpl, errlog := d.hst.errlog, pldmEvents := d.hst.pldmEvents }
    pwr := { d.pwr with blocks := [], heldEn := [], committed := false, wakeAfter := false, asleep := false, clocksOff := d.pwr.thermtrip, pcieUp := d.pwr.pcieUp }
    tst := { d.tst with up := false, failed := false, commit := 0 }, mgt := d.mgt }

/-- PSTATE after a reset: Cold stays, every other state becomes Run. -/
def pstateReset (d : Dev) : Dev :=
  if pstate d = 4 then d else setPhaseHold (setPstate (fset d A.PWR_WAKE F.PWR_WAKE_PEND 0) 0) 0

theorem packageReset_eq (d : Dev) : packageReset d = gapApply (pstateReset (packageBase d)) := rfl

theorem regGet_packageBase (d : Dev) (a : Nat) : regGet (packageBase d) a = if alwaysOn a then regGet d a else regReset a := by
  have h := regGet_filtered d (fun e => alwaysOn e.1) (fun a => !alwaysOn a) (fun _ => (Bool.not_not _).symm) a
  change regGet (packageBase d) a = _ at h
  rw [h]
  cases alwaysOn a <;> rfl

theorem leaves_pstateReset (d : Dev) : Leaves [] (these [A.PWR_WAKE, A.PWR_STS, A.PWR_HSTS]) d (pstateReset d) := by
  unfold pstateReset
  split
  · exact leaves_self
  · simp [setPhaseHold, setPstate]

/-- What a reset of the package moves after it has cleared everything. -/
theorem leaves_packageReset (d : Dev) :
    Leaves [.gov] (these [A.SEQ_GAP 0, A.SEQ_GAP 1, A.PWR_WAKE, A.PWR_STS, A.PWR_HSTS]) (packageBase d) (packageReset d) :=
  ((leaves_pstateReset _).weaken (by simp) fun _ => not_these_of_subset (by simp)).trans
    ((leaves_gapApply _).weaken (by simp) fun _ => not_these_of_subset (by simp))

theorem pstate_packageReset (d : Dev) : pstate (packageReset d) = if pstate d = 4 then 4 else 0 := by
  have hbase : pstate (packageBase d) = pstate d := by
    rw [pstate, fget, regGet_packageBase]
    rfl
  rw [packageReset_eq, pstate, (leaves_gapApply _).2.fget (by decide), ← pstate, pstateReset, hbase]
  split
  · next h => exact hbase.trans h
  · rw [pstate_setPhaseHold, pstate_setPstate]

/-- What a reset of the package leaves: NV store, fuses, pins and the always-on domain (R590). -/
structure PackageCleared (d e : Dev) : Prop where
  mem : ∀ a, memGet e.mem a = 0
  nv : e.nv = d.nv
  nvNext : e.nvNext = d.nvNext
  seq : e.seq = Seq.init
  cas : e.cas = Cas.init
  ports : e.ports = []
  mach : e.mach = Mach.init
  up : e.tst.up = false
  failed : e.tst.failed = false
  regs : ∀ a, alwaysOn a = false → a ≠ A.SEQ_GAP 0 → a ≠ A.SEQ_GAP 1 → regGet e a = regReset a
  pstate : pstate e = if pstate d = 4 then 4 else 0
  fuseA : e.tst.fuseA = d.tst.fuseA
  fuseB : e.tst.fuseB = d.tst.fuseB
  pwrok : e.pwr.pwrok = d.pwr.pwrok
  rstN : e.pwr.rstN = d.pwr.rstN

theorem packageReset_nv (d : Dev) : (packageReset d).nv = d.nv ∧ (packageReset d).nvNext = d.nvNext := by
  rw [packageReset_eq, gapApply_eq]
  simp only [gapShown, withObs_nv, withObs_nvNext, fset_nv, fset_nvNext, pstateReset]
  split
  · exact ⟨rfl, rfl⟩
  · simp only [setPhaseHold, setPstate, fset_nv, fset_nvNext]
    exact ⟨rfl, rfl⟩

theorem packageReset_cleared (d : Dev) : PackageCleared d (packageReset d) := by
  have h := leaves_packageReset d
  have hpst := pstate_packageReset d
  obtain ⟨hnv, hnext⟩ := packageReset_nv d
  have hreg := regGet_packageBase d
  generalize packageReset d = e at *
  have htst : e.tst = { d.tst with up := false, failed := false, commit := 0 } := h.1 .tst (by simp)
  have hpwr : e.pwr = (packageBase d).pwr := h.1 .pwr (by simp)
  refine ⟨h.1 .mem (by simp), hnv, hnext, h.1 .seq (by simp), h.1 .cas (by simp), h.1 .ports (by simp), h.1 .mach (by simp),
    by rw [htst], by rw [htst], fun a ha h0 h1 => ?_, hpst, by rw [htst], by rw [htst], by rw [hpwr]; rfl, by rw [hpwr]; rfl⟩
  rw [h.2 a, hreg, ha]
  · rfl
  · rw [Bool.eq_false_iff, ne_eq, these_iff]
    simp only [List.mem_cons, List.not_mem_nil, or_false, h0, h1, false_or]
    rintro (rfl | rfl | rfl) <;> exact absurd ha (by decide)

/-- Clearing the replay mode and INTRUSIVE keeps what a reset has cleared. -/
theorem leaves_rstClears (d : Dev) : Leaves [] (these [A.TST_RPL, A.TST_STS]) d (rstClears d) := by simp [rstClears]

theorem rstClears_modes (d : Dev) : fget (rstClears d) A.TST_RPL F.TST_RPL_MODE = 0 ∧ fget (rstClears d) A.TST_STS F.TST_STS_INTRUSIVE = 0 := by
  constructor
  · rw [rstClears, fget_fset_ne _ (by decide), fget_fset_self _ _ _ _ (by decide)]
    rfl
  · exact fget_fset_self _ _ _ _ (by decide)

theorem rstClears_nv (d : Dev) : (rstClears d).nv = d.nv ∧ (rstClears d).nvNext = d.nvNext := by
  simp only [rstClears, fset_nv, fset_nvNext, and_self]

theorem PackageCleared.rstClears (h : PackageCleared d e) : PackageCleared d (rstClears e) := by
  have hl := leaves_rstClears e
  obtain ⟨hnv, hnext⟩ := rstClears_nv e
  generalize Machine.rstClears e = f at *
  have htst : f.tst = e.tst := hl.1 .tst (by simp)
  have hpwr : f.pwr = e.pwr := hl.1 .pwr (by simp)
  refine ⟨fun a => (hl.1 .mem (by simp) a).trans (h.mem a), hnv.trans h.nv, hnext.trans h.nvNext, (hl.1 .seq (by simp)).trans h.seq,
    (hl.1 .cas (by simp)).trans h.cas, (hl.1 .ports (by simp)).trans h.ports, (hl.1 .mach (by simp)).trans h.mach,
    (congrArg Tst.up htst).trans h.up, (congrArg Tst.failed htst).trans h.failed, fun a ha h0 h1 => ?_, (hl.2.fget (by decide) _).trans h.pstate, (congrArg Tst.fuseA htst).trans h.fuseA,
    (congrArg Tst.fuseB htst).trans h.fuseB, (congrArg Pwr.pwrok hpwr).trans h.pwrok, (congrArg Pwr.rstN hpwr).trans h.rstN⟩
  rw [hl.2 a, h.regs a ha h0 h1]
  rw [Bool.eq_false_iff, ne_eq, these_iff]
  simp only [List.mem_cons, List.not_mem_nil, or_false]
  rintro (rfl | rfl) <;> exact absurd ha (by decide)

theorem rstAssert_on (h : d.pwr.pwrok = true) : rstAssert d = rstClears (packageReset (setPwr d fun p => { p with rstN := false })) := if_pos h
theorem rstAssert_off (h : d.pwr.pwrok = false) : rstAssert d = rstClears (setPwr d fun p => { p with rstN := false }) :=
  if_neg (by
    change ¬ d.pwr.pwrok = true
    simp [h])

/-! ### Links that come up at bring-up (R610, R628) -/

/-- No node of the verdict tree has anything to report. -/
def NoTrees (m : Mach) : Prop := m.tree.own = none ∧ m.tree.child = [] ∧ m.perm.ended = none

theorem treeForm_none (h : NoTrees d.mach) (perm : Bool) : treeForm d perm = none := by
  obtain ⟨hown, hchild, hended⟩ := h
  unfold treeForm
  cases perm with
  | true =>
    rw [show ownInput d true = none by simp [ownInput, hended]]
  | false =>
    by_cases hs : seqState d = 1
    · rw [show ownInput d false = none by simp [ownInput, hs, hown]]
    · rw [show ownInput d false = some (0, 0) by simp [ownInput, hs]]
      simp [treeOf, hchild, sfind]

theorem treeRun_none (h : NoTrees d.mach) (perm : Bool) : treeRun d perm = d ∨ treeRun d perm = treePut d perm 0 0 := by
  obtain h' | h' | ⟨s, v, gone, hf, -⟩ := treeRun_cases d perm
  · exact .inl h'
  · exact .inr h'
  · rw [treeForm_none h] at hf
    cases hf

theorem noTrees_treePut (h : NoTrees d.mach) (perm : Bool) (s v : Nat) : NoTrees (treePut d perm s v).mach := by
  rw [treePut_mach, setTree_mach]
  cases perm
  · exact h
  · exact h

/-- The package while it comes up: memory zero, not in service, its trees and its ports with nothing to send. -/
structure Booting (d : Dev) : Prop where
  mem : ∀ a, memGet d.mem a = 0
  up : d.tst.up = false
  trees : NoTrees d.mach
  empty : ∀ q, portEmpty d q

theorem Booting.keep (h : Booting d) (hmem : ∀ a, memGet e.mem a = memGet d.mem a) (htst : e.tst = d.tst) (hmach : NoTrees e.mach)
    (hports : SamePorts d e) : Booting e :=
  ⟨fun a => (hmem a).trans (h.mem a), by rw [htst, h.up], hmach, fun q => by
    obtain ⟨b, hb⟩ := hports q
    rw [portEmpty, hb]
    exact h.empty q⟩

theorem Booting.leaves (h : Booting d) (hl : Leaves ps p d e) (hps : ∀ x ∈ [Piece.mem, .tst, .mach, .ports], x ∉ ps) : Booting e :=
  h.keep (hl.1 .mem (hps _ (by simp))) (hl.1 .tst (hps _ (by simp))) (by rw [hl.1 .mach (hps _ (by simp))]; exact h.trees)
    (SamePorts.of_ports (hl.1 .ports (hps _ (by simp))))

theorem Booting.treeRun (h : Booting d) (perm : Bool) : Booting (treeRun d perm) := by
  have hput (s v : Nat) : Leaves [.mach, .ports] (fun _ => false) d (treePut d perm s v) := (leaves_treePut_iff (by simp) (by simp)).2 leaves_self
  obtain ht | ht := treeRun_none h.trees perm
  · rw [ht]
    exact h
  · rw [ht]
    exact h.keep ((hput 0 0).1 .mem (by simp)) ((hput 0 0).1 .tst (by simp)) (noTrees_treePut h.trees perm 0 0) (samePorts_treePut d perm 0 0)

theorem noTrees_sidPort (h : NoTrees d.mach) (q : Nat) : NoTrees (sidPort d q).mach := by
  unfold sidPort sidHoldover
  split
  · split
    · exact h
    · have hm : NoTrees (machRaise (enterHoldover d) 0xFB 0 (upIn d % 8) (lastTheta d)).mach := by
        rw [machRaise, raise_minor _ _ _ _ _ (by decide), (onlyHst_post _ _ _ _ _).leaves.1 .mach (by simp), fset_mach]
        exact h
      simp only
      split
      · rw [fset_mach]
        exact hm
      · exact hm
  · exact h

theorem Booting.linkChanged (h : Booting d) (q : Nat) : Booting (linkChanged d q) := by
  have hs := leaves_sidPort d q
  exact ((h.keep (hs.1 .mem (by simp)) (hs.1 .tst (by simp)) (noTrees_sidPort h.trees q)
    (SamePorts.of_ports (hs.1 .ports (by simp)))).treeRun false).treeRun true

theorem leaves_resetEntered_parts (d : Dev) (q cause : Nat) :
    Leaves [.clock, .live, .ports] (fun _ => true) d (resetEntered d q cause) := by
  rw [resetEntered, leaves_drawn_iff (by decide), leaves_setPort_iff (by decide), leaves_resetRegs_iff (by decide)
    (fun _ h => by cases h) fun _ _ => rfl]
  exact leaves_self

theorem Booting.resetEntered (h : Booting d) (q cause : Nat) : Booting (resetEntered d q cause) := by
  have hl := leaves_resetEntered_parts d q cause
  have hmach : (Machine.resetEntered d q cause).mach = d.mach := hl.1 .mach (by simp)
  refine ⟨fun a => (hl.1 .mem (by simp) a).trans (h.mem a), ?_, by rw [hmach]; exact h.trees, fun r => ?_⟩
  · rw [hl.1 .tst (by simp), h.up]
  · by_cases hr : r = q
    · subst hr
      rw [portEmpty, resetEntered_port]
      exact ⟨rfl, rfl⟩
    · rw [portEmpty, resetEntered_other d hr]
      exact h.empty r

theorem Booting.linkReset (h : Booting d) (q cause : Nat) : Booting (linkReset d q cause) := by
  rw [linkReset_empty (h.empty q)]
  exact ((h.resetEntered q cause).leaves (leaves_resetTold ..) (by simp)).linkChanged q

theorem Booting.fset (h : Booting d) (a : Nat) (f : Fld) (v : Nat) : Booting (fset d a f v) :=
  h.leaves ((leaves_fset_iff (ps := []) (p := fun _ => true) rfl).2 leaves_self) (by simp)

theorem Booting.resetRequest (h : Booting d) (q cause : Nat) : Booting (resetRequest d q cause) := by
  unfold Machine.resetRequest
  split
  · exact h
  · split
    · exact h.fset ..
    · exact h.linkReset q cause

theorem Booting.linkOn (h : Booting d) (q : Nat) : Booting (linkOn d q) := by
  unfold Machine.linkOn
  split
  · exact h
  · simp only
    split
    · exact (h.fset ..).linkReset q 0
    · exact (h.fset ..).resetRequest q 0

/-- Links that come up one after the other. -/
theorem Booting.linksOn (h : Booting d) (l : List Nat) :
    Booting (l.foldl (fun d q => Machine.linkOn (Machine.fset d (A.HRM_PCTL q) F.HRM_PCTL_LINK 0) q) d) := by
  induction l generalizing d with
  | nil => exact h
  | cons q r ih => exact ih ((h.fset ..).linkOn q)

/-- A link that comes up leaves the pins. -/
theorem pwr_linkReset (d : Dev) (q cause : Nat) : (linkReset d q cause).pwr = d.pwr := by
  have h := pwr_of_power (powerApart_linkReset d q cause)
  rwa [setLstate_pwr, setLstate_pwr] at h

theorem pwr_resetRequest (d : Dev) (q cause : Nat) : (resetRequest d q cause).pwr = d.pwr := by
  have h := pwr_of_power (powerApart_resetRequest d q cause)
  rwa [setLstate_pwr, setLstate_pwr] at h

theorem pwr_linkOn (d : Dev) (q : Nat) : (linkOn d q).pwr = d.pwr := by
  unfold linkOn
  split
  · rfl
  · simp only
    split
    · rw [pwr_linkReset, fset_pwr]
    · rw [pwr_resetRequest, fset_pwr]

theorem pwr_linksOn (l : List Nat) (d : Dev) :
    (l.foldl (fun d q => linkOn (fset d (A.HRM_PCTL q) F.HRM_PCTL_LINK 0) q) d).pwr = d.pwr := by
  induction l generalizing d with
  | nil => rfl
  | cons q r ih => rw [List.foldl_cons, ih, pwr_linkOn, fset_pwr]

end

end Sys2Proof.Machine
end

section
/-! PROOFS. Bring-up, the pins and the supplies (17, R626 to R634; 16, R590, R609). -/

namespace Sys2Proof.Machine

section
variable {ps : List Piece} {p : Nat → Bool} {d e : Dev} {a b : Bool}

/-! ### The package on its way up -/

/-- The package in bring-up: memory zero, not in service, the pins as given, and, unless bring-up has ended early, nothing
to send. -/
structure Coming (a b : Bool) (d : Dev) : Prop where
  mem : ∀ a, memGet d.mem a = 0
  up : d.tst.up = false
  pwrok : d.pwr.pwrok = a
  rstN : d.pwr.rstN = b
  ready : d.tst.failed = false → NoTrees d.mach ∧ ∀ q, portEmpty d q

theorem Coming.keep (h : Coming a b d) (hmem : ∀ a, memGet e.mem a = memGet d.mem a) (hup : e.tst.up = d.tst.up)
    (hfailed : e.tst.failed = d.tst.failed) (hpwrok : e.pwr.pwrok = d.pwr.pwrok) (hrstN : e.pwr.rstN = d.pwr.rstN) (hmach : e.mach = d.mach)
    (hports : e.ports = d.ports) : Coming a b e :=
  ⟨fun a => (hmem a).trans (h.mem a), hup.trans h.up, hpwrok.trans h.pwrok, hrstN.trans h.rstN, fun hf => by
    obtain ⟨ht, he⟩ := h.ready (hfailed.symm.trans hf)
    refine ⟨by rw [hmach]; exact ht, fun q => ?_⟩
    rw [portEmpty, portOf, hports]
    exact he q⟩

theorem Coming.leaves (h : Coming a b d) (hl : Leaves ps p d e) (hps : ∀ x ∈ [Piece.mem, .tst, .pwr, .mach, .ports], x ∉ ps) : Coming a b e := by
  have htst := hl.1 .tst (hps _ (by simp))
  have hpwr := hl.1 .pwr (hps _ (by simp))
  exact h.keep (hl.1 .mem (hps _ (by simp))) (congrArg Tst.up htst) (congrArg Tst.failed htst) (congrArg Pwr.pwrok hpwr)
    (congrArg Pwr.rstN hpwr) (hl.1 .mach (hps _ (by simp))) (hl.1 .ports (hps _ (by simp)))

theorem Coming.fset (h : Coming a b d) (r : Nat) (f : Fld) (v : Nat) : Coming a b (fset d r f v) :=
  h.leaves ((leaves_fset_iff (ps := []) (p := fun _ => true) rfl).2 leaves_self) (by simp)

theorem Coming.setBoot (h : Coming a b d) (f : Fld) (v : Nat) : Coming a b (setBoot d f v) := h.fset ..

/-- A record that informs. -/
theorem leaves_bootRaise (d : Dev) (number : Nat) : Leaves [.hst] (fun _ => true) d (bootRaise d number 0) := by
  rw [bootRaise, tstRaise, raise_minor _ _ _ _ _ (by decide), leaves_post_iff (by simp) (fun _ h => by cases h), leaves_fset_iff rfl]
  exact leaves_self

theorem Coming.fails (h : Coming a b d) (hmem : e.mem = d.mem) (htst : e.tst = d.tst) (hpwr : e.pwr = d.pwr) : Coming a b (bootFails e) := by
  refine ⟨fun a => (congrArg (fun m => memGet m a) hmem).trans (h.mem a), (congrArg Tst.up htst).trans h.up, (congrArg Pwr.pwrok hpwr).trans h.pwrok,
    (congrArg Pwr.rstN hpwr).trans h.rstN, fun hf => ?_⟩
  cases hf

theorem bootRaise_parts (d : Dev) (number sev : Nat) : (bootRaise d number sev).mem = d.mem ∧ (bootRaise d number sev).tst = d.tst ∧
    (bootRaise d number sev).pwr = d.pwr :=
  ⟨tstRaise_mem .., tstRaise_tst .., by rw [bootRaise, tstRaise, raise_pwr, fset_pwr]⟩

theorem Coming.bootFatal (h : Coming a b d) (number : Nat) : Coming a b (bootFails (bootRaise d number 4)) := by
  obtain ⟨hmem, htst, hpwr⟩ := bootRaise_parts d number 4
  exact h.fails hmem htst hpwr

/-! ### The phases (R628) -/

theorem leaves_controllerStart (d : Dev) : Leaves [.pwr, .hst] (fun a => isReport a || a == A.PWR_STS) d (controllerStart d) := by
  unfold controllerStart
  split
  · rw [leaves_pwrRaise_minor_iff (by decide) (by simp) (fun _ h => (Bool.or_eq_false_iff.1 h).1) (by decide), leaves_setPwr_iff (by simp)]
    exact leaves_self
  · exact leaves_self

theorem controllerStart_pins (d : Dev) : (controllerStart d).pwr.pwrok = d.pwr.pwrok ∧ (controllerStart d).pwr.rstN = d.pwr.rstN ∧
    (controllerStart d).pwr.vaux = d.pwr.vaux := by
  unfold controllerStart
  split
  · rw [pwrRaise, raise_pwr, fset_pwr]
    exact ⟨rfl, rfl, rfl⟩
  · exact ⟨rfl, rfl, rfl⟩

/-- The straps, read by the controller. -/
def strapsRead (d : Dev) (i : BootIn) : Dev := setPwr (controllerStart d) (fun p => { p with diag := i.diag, smb := i.smb.toNat })

theorem leaves_bootRom (d : Dev) (i : BootIn) : Leaves [.pwr, .hst] (fun _ => true) d (bootRom d i) := by
  have h : Leaves [.pwr, .hst] (fun _ => true) d (strapsRead d i) :=
    (leaves_setPwr_iff (by simp)).2 ((leaves_controllerStart d).weaken (by simp) fun _ h => by cases h)
  exact (leaves_fset_iff rfl).2 ((leaves_fset_iff rfl).2 ((leaves_regSet_iff rfl).2 h))

theorem bootRom_pins (d : Dev) (i : BootIn) : (bootRom d i).pwr.pwrok = d.pwr.pwrok ∧ (bootRom d i).pwr.rstN = d.pwr.rstN := by
  obtain ⟨hpwrok, hrstN, -⟩ := controllerStart_pins d
  have h : (bootRom d i).pwr = (strapsRead d i).pwr := by
    simp only [bootRom, fset_pwr]
    rfl
  rw [h]
  exact ⟨hpwrok, hrstN⟩

theorem Coming.bootRom (h : Coming a b d) (i : BootIn) : Coming a b (bootRom d i) := by
  have hl := leaves_bootRom d i
  have htst := hl.1 .tst (by simp)
  obtain ⟨hpwrok, hrstN⟩ := bootRom_pins d i
  exact h.keep (hl.1 .mem (by simp)) (congrArg Tst.up htst) (congrArg Tst.failed htst) hpwrok hrstN (hl.1 .mach (by simp)) (hl.1 .ports (by simp))

theorem Coming.bootFuse (h : Coming a b d) : Coming a b (bootFuse d) := by
  unfold Machine.bootFuse
  simp only
  split
  · exact (h.setBoot ..).bootFatal 0x58
  · exact (h.setBoot ..).setBoot ..

theorem Coming.commit (h : Coming a b d) (c : Nat) : Coming a b (d.withTst { d.tst with commit := c }) :=
  h.keep (fun _ => rfl) rfl rfl rfl rfl rfl rfl

theorem bootSlot_eq (d : Dev) (slot : Bool) : ∃ v c, bootSlot d slot =
    let e := Machine.fset (Machine.setBoot (Machine.setBoot d F.TST_BOOT_SLOT (b2n slot)) F.TST_BOOT_BUILD v) A.GLB_ID F.GLB_ID_BUILD v
    e.withTst { e.tst with commit := c } := ⟨_, _, rfl⟩

theorem Coming.bootSlot (h : Coming a b d) (slot : Bool) : Coming a b (bootSlot d slot) := by
  obtain ⟨v, c, he⟩ := bootSlot_eq d slot
  rw [he]
  exact (((h.setBoot ..).setBoot ..).fset ..).commit c

theorem Coming.bootRecovery (h : Coming a b d) : Coming a b (bootRecovery d) := (h.setBoot ..).bootFatal 0x59

theorem Coming.bootImage (h : Coming a b d) (i : BootIn) : Coming a b (bootImage d i) := by
  unfold Machine.bootImage
  extract_lets e reas act r f r'
  have he : Coming a b e := h.setBoot ..
  have hf : Coming a b f := he.setBoot ..
  split
  · exact he.bootRecovery
  · split
    · exact he.bootSlot _
    · split
      · exact (hf.bootSlot _).leaves (leaves_bootRaise ..) (by simp)
      · exact (hf.setBoot ..).bootRecovery

theorem brgFatal_parts (d : Dev) (dir lane : Nat) : (brgFatal d dir lane).mem = d.mem ∧ (brgFatal d dir lane).tst = d.tst ∧
    (brgFatal d dir lane).pwr = d.pwr := by
  refine ⟨?_, ?_, ?_⟩
  · rw [brgFatal, memRaise, raise_mem, fset_mem, fset_mem, fset_mem]
  · rw [brgFatal, memRaise, raise_tst, fset_tst, fset_tst, fset_tst]
  · rw [brgFatal, memRaise, raise_pwr, fset_pwr, fset_pwr, fset_pwr]

theorem Coming.bootCore (h : Coming a b d) (i : BootIn) : Coming a b (bootCore d i) := by
  unfold Machine.bootCore
  simp only
  split
  · exact (h.setBoot ..).fset ..
  · obtain ⟨hmem, htst, hpwr⟩ := brgFatal_parts (Machine.setBoot d F.TST_BOOT_PHASE 3) 0 0
    exact (h.setBoot F.TST_BOOT_PHASE 3).fails hmem htst hpwr

theorem leaves_stkRaise_info (d : Dev) (number ch r : Nat) : Leaves [.hst] (fun _ => true) d (stkRaise d number 0 ch r) := by
  rw [stkRaise, memRaise, raise_minor _ _ _ _ _ (by decide), leaves_post_iff (by simp) (fun _ h => by cases h), leaves_fset_iff rfl, leaves_fset_iff rfl,
    leaves_fset_iff rfl, leaves_fset_iff rfl]
  exact leaves_self

theorem leaves_bootStack (d : Dev) (i : BootIn) (s : Nat) : Leaves [.ms, .hst] (fun _ => true) d (bootStack d i s) := by
  unfold bootStack
  extract_lets bad good r e f g own m u w
  have he : Leaves [.ms, .hst] (fun _ => true) d e := (leaves_fset_iff rfl).2 ((leaves_fset_iff rfl).2 leaves_self)
  have hf : Leaves [.ms, .hst] (fun _ => true) d f := (leaves_fincSat_iff rfl).2 he
  have hg : Leaves [.ms, .hst] (fun _ => true) d g := (leaves_finc_iff rfl).2 hf
  have hu : Leaves [.ms, .hst] (fun _ => true) d u := (leaves_withMs_iff (by simp)).2 hg
  have hw : Leaves [.ms, .hst] (fun _ => true) d w := (leaves_fset_iff rfl).2 hu
  exact hw.trans (Leaves.foldl (fun x c _ hx => hx.trans ((leaves_stkRaise_info x _ _ _).widen (by simp))) leaves_self)

theorem leaves_hardRepair (d : Dev) : Leaves [.nv] (fun _ => true) d (hardRepair d) := by
  unfold hardRepair
  extract_lets n r pending
  split
  · exact leaves_self
  · exact (Leaves.foldl (fun x k _ hx => hx.trans (leaves_nvWrite ..)) leaves_self).trans (leaves_nvWrite ..)

theorem stkRaise_parts (d : Dev) (number sev ch r : Nat) : (stkRaise d number sev ch r).mem = d.mem ∧
    (stkRaise d number sev ch r).tst = d.tst ∧ (stkRaise d number sev ch r).pwr = d.pwr := by
  refine ⟨?_, ?_, ?_⟩
  · rw [stkRaise, memRaise, raise_mem, fset_mem, fset_mem, fset_mem, fset_mem]
  · rw [stkRaise, memRaise, raise_tst, fset_tst, fset_tst, fset_tst, fset_tst]
  · rw [stkRaise, memRaise, raise_pwr, fset_pwr, fset_pwr, fset_pwr, fset_pwr]

/-- The records of stacks that are unfit. -/
def stacksUnfit (l : List Nat) (d : Dev) : Dev := l.foldl (fun d s => stkRaise d 0xC2 4 (32 * s) 0) d

theorem stacksUnfit_parts (l : List Nat) (d : Dev) :
    (stacksUnfit l d).mem = d.mem ∧ (stacksUnfit l d).tst = d.tst ∧ (stacksUnfit l d).pwr = d.pwr := by
  induction l generalizing d with
  | nil => exact ⟨rfl, rfl, rfl⟩
  | cons s r ih =>
    obtain ⟨hmem, htst, hpwr⟩ := ih (stkRaise d 0xC2 4 (32 * s) 0)
    obtain ⟨hmem', htst', hpwr'⟩ := stkRaise_parts d 0xC2 4 (32 * s) 0
    exact ⟨hmem.trans hmem', htst.trans htst', hpwr.trans hpwr'⟩

theorem Coming.unfit (h : Coming a b d) (l : List Nat) : Coming a b (bootFails (stacksUnfit l d)) := by
  obtain ⟨hmem, htst, hpwr⟩ := stacksUnfit_parts l d
  exact h.fails hmem htst hpwr

theorem Coming.bootStacks (h : Coming a b d) (i : BootIn) : Coming a b (bootStacks d i) := by
  unfold Machine.bootStacks
  extract_lets e f
  have he : Coming a b e := (h.setBoot ..).leaves (leaves_hardRepair ..) (by simp)
  have hf : Coming a b f := he.leaves (Leaves.foldl (fun x s _ hx => hx.trans (leaves_bootStack x i s)) leaves_self) (by simp)
  split
  · exact hf
  · exact hf.unfit _

theorem Coming.linksOn (h : Coming a b d) (l : List Nat) (hf : d.tst.failed = false) :
    Coming a b (l.foldl (fun d q => linkOn (Machine.fset d (A.HRM_PCTL q) F.HRM_PCTL_LINK 0) q) d) := by
  obtain ⟨ht, he⟩ := h.ready hf
  obtain ⟨hmem, hup, htrees, hempty⟩ := Booting.linksOn ⟨h.mem, h.up, ht, he⟩ l
  have hpwr := pwr_linksOn l d
  exact ⟨hmem, hup, (congrArg Pwr.pwrok hpwr).trans h.pwrok, (congrArg Pwr.rstN hpwr).trans h.rstN, fun _ => ⟨htrees, hempty⟩⟩

/-- Chip number and cable classes, as phase 6 reads them. -/
def classesRead (d : Dev) : Dev :=
  let d := setBoot d F.TST_BOOT_PHASE 6
  let w := memNat d.nv 0x10008 8
  let d := if bit w 63 then fset (fset d A.GLB_CHIP F.GLB_CHIP_CHIP (bits w 13 0)) A.GLB_CHIP F.GLB_CHIP_VALID 1 else d
  (List.range 8).foldl (fun d p => fset d (A.HRM_PCTL p) F.HRM_PCTL_CLASS (bits (memNat d.nv (0x10010 + 8 * p) 8) 41 40)) d

theorem leaves_classesRead (d : Dev) : Leaves [] (fun _ => true) d (classesRead d) := by
  have hboot : Leaves [] (fun _ => true) d (setBoot d F.TST_BOOT_PHASE 6) := (leaves_fset_iff rfl).2 leaves_self
  have hfold (x : Dev) : Leaves [] (fun _ => true) x ((List.range 8).foldl (fun d p =>
      fset d (A.HRM_PCTL p) F.HRM_PCTL_CLASS (bits (memNat d.nv (0x10010 + 8 * p) 8) 41 40)) x) :=
    Leaves.foldl (fun y q _ hy => (leaves_fset_iff rfl).2 hy) leaves_self
  unfold classesRead
  simp only
  split
  · exact ((leaves_fset_iff rfl).2 ((leaves_fset_iff rfl).2 hboot)).trans (hfold _)
  · exact hboot.trans (hfold _)

/-- The image restored, as phase 6 does after Cold. -/
def imageRestored (d : Dev) : Dev := gapApply (restoreRows (restoreRows d d.pwr.image.hold) d.pwr.image.cold)

theorem leaves_imageRestored (d : Dev) : Leaves [.gov] (fun _ => true) d (imageRestored d) :=
  (((leaves_restoreRows d _).trans (leaves_restoreRows _ _)).widen (by simp)).trans
    ((leaves_gapApply _).weaken (by simp) fun _ h => by cases h)

theorem bootConfig_eq (d : Dev) (cold : Bool) : bootConfig d cold = classesRead d ∨
    ∃ l : List Nat, bootConfig d cold = l.foldl (fun d q => linkOn (fset d (A.HRM_PCTL q) F.HRM_PCTL_LINK 0) q) (imageRestored (classesRead d)) := by
  have h : bootConfig d cold = if !(cold && decide (fget (classesRead d) A.PWR_SUP F.PWR_SUP_IMGVALID = 1) &&
      decide (fget (classesRead d) A.PWR_SUP F.PWR_SUP_IMGCOLD = 1)) then classesRead d else
      ((List.range 8).filter (fun q => fget (imageRestored (classesRead d)) (A.HRM_PCTL q) F.HRM_PCTL_LINK == 1)).foldl
        (fun d q => linkOn (fset d (A.HRM_PCTL q) F.HRM_PCTL_LINK 0) q) (imageRestored (classesRead d)) := rfl
  rw [h]
  split
  · exact .inl rfl
  · exact .inr ⟨_, rfl⟩

theorem Coming.bootConfig (h : Coming a b d) (hf : d.tst.failed = false) (cold : Bool) : Coming a b (bootConfig d cold) := by
  have hl := leaves_classesRead d
  have hi := leaves_imageRestored (classesRead d)
  have hc : Coming a b (classesRead d) := h.leaves hl (by simp)
  have hif : (imageRestored (classesRead d)).tst.failed = false := by rw [hi.1 .tst (by simp), hl.1 .tst (by simp), hf]
  obtain he | ⟨l, he⟩ := bootConfig_eq d cold
  · rw [he]
    exact hc
  · rw [he]
    exact (hc.leaves hi (by simp)).linksOn l hif

/-! ### Bring-up as a whole (R628) -/

/-- A phase is entered unless bring-up has ended. -/
def goOn (d : Dev) (f : Dev → Dev) : Dev := if d.tst.failed then d else f d

theorem goOn_failed (h : d.tst.failed = true) (f : Dev → Dev) : goOn d f = d := if_pos h

theorem Coming.goOn (h : Coming a b d) {f : Dev → Dev} (hf : d.tst.failed = false → Coming a b (f d)) : Coming a b (goOn d f) := by
  unfold Machine.goOn
  split
  · exact h
  · next hn => exact hf (by simpa using hn)

/-- The package before its phases. -/
def bootStart (d : Dev) : Dev :=
  if pstate d = 4 then packageReset (coldExit (setPstate d 0))
  else fset (fset (packageReset d) A.PWR_SUP F.PWR_SUP_IMGVALID 0) A.PWR_SUP F.PWR_SUP_IMGCOLD 0

/-- The phases after the fuses. -/
def bootRest (d : Dev) (i : BootIn) (cold : Bool) : Dev :=
  goOn (goOn (goOn (goOn (goOn d fun d => bootImage d i) fun d => bootCore d i) fun d => bootStacks d i) fun d => bootConfig d cold)
    fun d => setBoot d F.TST_BOOT_PHASE 7

theorem bringUp_eq (d : Dev) (i : BootIn) : bringUp d i = bootRest (goOn (bootRom (bootStart d) i) bootFuse) i (decide (pstate d = 4)) := by
  unfold bringUp bootStart
  by_cases h : pstate d = 4
  · simp only [h, decide_true, if_true]
    rfl
  · simp only [h, decide_false, if_false]
    rfl

theorem PackageCleared.coming (h : PackageCleared d e) : Coming d.pwr.pwrok d.pwr.rstN e :=
  ⟨h.mem, h.up, h.pwrok, h.rstN, fun _ => ⟨by rw [h.mach]; exact ⟨rfl, rfl, rfl⟩, fun q => by rw [portEmpty, portOf, h.ports]; exact ⟨rfl, rfl⟩⟩⟩

theorem secverBlow_pwr (d : Dev) : (secverBlow d).pwr = d.pwr := by
  unfold secverBlow
  extract_lets v w blow
  split <;> rfl

theorem nvResume_pwr (d : Dev) : (nvResume d).pwr = d.pwr := by
  unfold nvResume
  extract_lets e
  have he : e.pwr = d.pwr := by
    unfold e
    split
    · rw [fset_pwr]
    · rfl
  split
  · exact he
  · rw [secverBlow_pwr, fset_pwr, withNv_pwr, he]

/-- The registers of the always-on domain at Cold exit. -/
def coldRegs (d : Dev) : Dev :=
  fset (regSet (fset (resetRange (resetRange d 0x200000 0x300000) 0x400000 0x500000) A.TST_STS F.TST_STS_INTRUSIVE
    (fget d A.TST_STS F.TST_STS_INTRUSIVE)) A.PWR_SUP (regGet d A.PWR_SUP)) A.PWR_STS F.PWR_STS_NVWP (fget d A.PWR_STS F.PWR_STS_NVWP)

theorem leaves_coldRegs (d : Dev) : Leaves [.live] (fun _ => true) d (coldRegs d) :=
  (leaves_fset_iff rfl).2 ((leaves_regSet_iff rfl).2 ((leaves_fset_iff rfl).2 ((leaves_resetRange d _ _).trans (leaves_resetRange _ _ _))))

theorem coldExit_pwr (d : Dev) : (coldExit d).pwr = d.pwr :=
  (nvResume_pwr (coldRegs d)).trans ((leaves_coldRegs d).1 .pwr (by simp))

theorem coming_bootStart (d : Dev) : Coming d.pwr.pwrok d.pwr.rstN (bootStart d) := by
  unfold bootStart
  split
  · have h := (packageReset_cleared (coldExit (setPstate d 0))).coming
    rwa [coldExit_pwr, setPstate, fset_pwr] at h
  · exact ((packageReset_cleared d).coming.fset ..).fset ..

theorem Coming.bootRest (h : Coming a b d) (i : BootIn) (cold : Bool) : Coming a b (bootRest d i cold) := by
  have himage := h.goOn (f := fun d => Machine.bootImage d i) fun _ => h.bootImage i
  have hcore := himage.goOn (f := fun d => Machine.bootCore d i) fun _ => himage.bootCore i
  have hstacks := hcore.goOn (f := fun d => Machine.bootStacks d i) fun _ => hcore.bootStacks i
  have hconfig := hstacks.goOn (f := fun d => Machine.bootConfig d cold) fun hf => hstacks.bootConfig hf cold
  exact hconfig.goOn fun _ => hconfig.setBoot ..

theorem bootRest_phase (d : Dev) (i : BootIn) (cold : Bool) (h : (bootRest d i cold).tst.failed = false) :
    fget (bootRest d i cold) A.TST_BOOT F.TST_BOOT_PHASE = 7 := by
  unfold bootRest at h ⊢
  generalize goOn (goOn (goOn (goOn d fun d => bootImage d i) fun d => bootCore d i) fun d => bootStacks d i) (fun d => bootConfig d cold) = u at h ⊢
  unfold goOn at h ⊢
  split at h
  · next hu => simp [hu] at h
  · next hu =>
    rw [if_neg hu]
    exact fget_fset_self _ _ _ _ (by decide)

end

end Sys2Proof.Machine
end

section
/-! PROOFS. Resets, pins, bring-up and supplies as the obligation states them (17, R626 to R634; 16, R590, R609). -/

namespace Sys2Proof.Machine

section
variable {ps : List Piece} {p : Nat → Bool} {d e : Dev}

/-! ### Bad fuses (R629, R630) -/

theorem fuseBad_congr (hA : e.tst.fuseA = d.tst.fuseA) (hB : e.tst.fuseB = d.tst.fuseB) : fuseBad e = fuseBad d := by
  rw [fuseBad, fuseBad, hA, hB]

theorem bootFuse_bad (h : fuseBad d = true) : bootFuse d = bootFails (bootRaise (setBoot d F.TST_BOOT_PHASE 1) 0x58 4) := by
  have htst : (setBoot d F.TST_BOOT_PHASE 1).tst = d.tst := fset_tst ..
  exact if_pos ((fuseBad_congr (congrArg Tst.fuseA htst) (congrArg Tst.fuseB htst)).trans h)

theorem bootFails_failed (d : Dev) : (bootFails d).tst.failed = true := rfl

theorem fget_bootRaise_boot (d : Dev) (number sev : Nat) (f : Fld) :
    fget (bootRaise d number sev) A.TST_BOOT f = fget d A.TST_BOOT f := by
  rw [bootRaise, tstRaise, (keepsRegs_raise _ _ _ _ _).fget (by decide), fget_fset_ne _ (by decide)]

theorem bootFuse_bad_phase (h : fuseBad d = true) : (bootFuse d).tst.failed = true ∧ fget (bootFuse d) A.TST_BOOT F.TST_BOOT_PHASE = 1 := by
  rw [bootFuse_bad h]
  refine ⟨bootFails_failed _, ?_⟩
  change fget (bootRaise _ _ _) A.TST_BOOT F.TST_BOOT_PHASE = 1
  rw [fget_bootRaise_boot, setBoot, fget_fset_self _ _ _ _ (by decide)]
  rfl

theorem bootRest_failed (h : d.tst.failed = true) (i : BootIn) (cold : Bool) : bootRest d i cold = d := by
  simp only [bootRest, goOn_failed h]

theorem bootRom_fuses (d : Dev) (i : BootIn) (hp : pstate d ≠ 4) : (bootRom (bootStart d) i).tst.failed = false ∧
    fuseBad (bootRom (bootStart d) i) = fuseBad d := by
  have hc := packageReset_cleared d
  have hstart : (bootStart d).tst = (packageReset d).tst := by rw [bootStart, if_neg hp, fset_tst, fset_tst]
  have htst : (bootRom (bootStart d) i).tst = (packageReset d).tst := ((leaves_bootRom (bootStart d) i).1 .tst (by simp)).trans hstart
  exact ⟨(congrArg Tst.failed htst).trans hc.failed,
    fuseBad_congr ((congrArg Tst.fuseA htst).trans hc.fuseA) ((congrArg Tst.fuseB htst).trans hc.fuseB)⟩

theorem bringUp_badFuses (i : BootIn) (hp : pstate d ≠ 4) (h : fuseBad d = true) : (bringUp d i).tst.failed = true ∧
    fget (bringUp d i) A.TST_BOOT F.TST_BOOT_PHASE = 1 := by
  obtain ⟨hfailed, hfuses⟩ := bootRom_fuses d i hp
  obtain ⟨hend, hphase⟩ := bootFuse_bad_phase (hfuses.trans h)
  rw [bringUp_eq, goOn, hfailed, if_neg Bool.false_ne_true, bootRest_failed hend]
  exact ⟨hend, hphase⟩

theorem bringUp_coming (d : Dev) (i : BootIn) : Coming d.pwr.pwrok d.pwr.rstN (bringUp d i) := by
  rw [bringUp_eq]
  exact Coming.bootRest (((coming_bootStart d).bootRom i).goOn fun _ => ((coming_bootStart d).bootRom i).bootFuse) i _

theorem bringUp_phase (i : BootIn) (h : (bringUp d i).tst.failed = false) : fget (bringUp d i) A.TST_BOOT F.TST_BOOT_PHASE = 7 := by
  rw [bringUp_eq] at h ⊢
  exact bootRest_phase _ _ _ h

/-- What bring-up has reached: memory zero, not in service, and its phase as the fuses allow. -/
theorem bringUp_begun (d : Dev) (i : BootIn) : (bringUp d i).tst.up = false ∧ (∀ a, memGet (bringUp d i).mem a = 0) ∧
    (fuseBad d = true → pstate d ≠ 4 → (bringUp d i).tst.failed = true ∧ fget (bringUp d i) A.TST_BOOT F.TST_BOOT_PHASE = 1) ∧
    ((bringUp d i).tst.failed = false → fget (bringUp d i) A.TST_BOOT F.TST_BOOT_PHASE = 7) :=
  ⟨(bringUp_coming d i).up, (bringUp_coming d i).mem, fun hf hp => bringUp_badFuses i hp hf, bringUp_phase i⟩

/-! ### The pins (R626) -/

theorem bringUpIf_waits (i : BootIn) (h : (d.pwr.vaux && d.pwr.pwrok && d.pwr.rstN) = false) : bringUpIf d i = d := if_neg (by simp [h])

theorem bringUpIf_goes (i : BootIn) (h1 : d.pwr.vaux = true) (h2 : d.pwr.pwrok = true) (h3 : d.pwr.rstN = true) : bringUpIf d i = bringUp d i :=
  if_pos (by simp [h1, h2, h3])

/-- A pin set, as the power controller sees it. -/
def pwrokSet (d : Dev) : Dev := setPwr d (fun p => { p with pwrok := true })
def rstNSet (d : Dev) : Dev := setPwr d (fun p => { p with rstN := true })
def vauxSet (d : Dev) : Dev := setPwr d (fun p => { p with vaux := true })

theorem pin_frame (d : Dev) (f : Pwr → Pwr) : keepsBut [.pwr] d (setPwr d f) ∧ keepsRegs (fun _ => false) d (setPwr d f) :=
  (leaves_setPwr_iff (by simp)).2 leaves_self

theorem pwrokRise_high (i : BootIn) (h : d.pwr.pwrok = true) : pwrokRise d i = d := if_pos h
theorem rstRelease_high (i : BootIn) (h : d.pwr.rstN = true) : rstRelease d i = d := if_pos h
theorem vauxRise_high (i : BootIn) (h : d.pwr.vaux = true) : vauxRise d i = d := if_pos h

theorem pwrokRise_low (i : BootIn) (h : d.pwr.pwrok = false) : pwrokRise d i = bringUpIf (pwrokSet d) i := if_neg (by simp [h])
theorem rstRelease_low (i : BootIn) (h : d.pwr.rstN = false) : rstRelease d i = bringUpIf (rstNSet d) i := if_neg (by simp [h])
theorem vauxRise_low (i : BootIn) (h : d.pwr.vaux = false) : vauxRise d i = bringUpIf (controllerStart (vauxSet d)) i := if_neg (by simp [h])

theorem controllerStart_vauxSet (d : Dev) : (controllerStart (vauxSet d)).pwr.vaux = true ∧
    (controllerStart (vauxSet d)).pwr.pwrok = d.pwr.pwrok ∧
    Leaves [.pwr, .hst] (fun a => isReport a || a == A.PWR_STS) d (controllerStart (vauxSet d)) := by
  obtain ⟨hpwrok, -, hvaux⟩ := controllerStart_pins (vauxSet d)
  exact ⟨hvaux, hpwrok, ((leaves_setPwr_iff (by simp)).2 leaves_self).trans (leaves_controllerStart (vauxSet d))⟩

/-! ### The end of bring-up (R628, R675) -/

theorem leaves_withSidPrev_iff {v : Nat} (h : Piece.clock ∈ ps) : Leaves ps p d (e.withSidPrev v) ↔ Leaves ps p d e :=
  leaves_part .clock h rfl fun y hy => by cases y <;> simp_all [Piece.same]

/-- Phase 15, in service, with the counter at 0. -/
def bootDone (d : Dev) : Dev :=
  regSet (setBoot ((d.withSidPrev 0).withTst { d.tst with up := true }) F.TST_BOOT_PHASE 15) A.SID_TIME 0

theorem bringupComplete_eq (hup : d.tst.up = false) (hf : d.tst.failed = false) (hph : fget d A.TST_BOOT F.TST_BOOT_PHASE = 7)
    (h1 : d.pwr.pwrok = true) (h2 : d.pwr.rstN = true) : bringupComplete d = secverBlow (bootRaise (bootDone d) 0x5B 0) :=
  if_neg (by simp [hup, hf, hph, h1, h2])

theorem bringupComplete_up (h : d.tst.up = true) : bringupComplete d = d := if_pos (.inl h)

/-- The blow of the version fuses touches the fuses only. -/
theorem secverBlow_only (d : Dev) : (secverBlow d).regs = d.regs ∧ (secverBlow d).tst.up = d.tst.up ∧
    Leaves [.tst] (fun _ => false) d (secverBlow d) := by
  unfold secverBlow
  extract_lets v w blow
  split
  · exact ⟨rfl, rfl, leaves_self⟩
  · exact ⟨rfl, rfl, (leaves_withTst_iff (by simp)).2 leaves_self⟩

theorem bootDone_parts (d : Dev) : (bootDone d).tst.up = true ∧ sidNow (bootDone d) = 0 ∧
    fget (bootDone d) A.TST_BOOT F.TST_BOOT_PHASE = 15 ∧
    Leaves [.clock, .tst] (these [A.TST_BOOT, A.SID_TIME]) d (bootDone d) := by
  refine ⟨?_, ?_, ?_, ?_⟩
  · rw [bootDone, regSet_tst, setBoot, fset_tst]
    rfl
  · rw [sidNow, bootDone, regGet_regSet_self]
    rfl
  · rw [bootDone, fget_regSet_ne _ (by decide), setBoot, fget_fset_self _ _ _ _ (by decide)]
    rfl
  · simp only [bootDone, setBoot]
    rw [leaves_regSet_iff (by decide), leaves_fset_iff (by decide), leaves_withTst_iff (by simp), leaves_withSidPrev_iff (by simp)]
    exact leaves_self

theorem leaves_bootInfo (d : Dev) (number : Nat) : Leaves [.hst] (fun a => isReport a || a == A.TST_STS) d (bootRaise d number 0) := by
  rw [bootRaise, tstRaise, raise_minor _ _ _ _ _ (by decide), leaves_post_iff (by simp) (fun _ h => (Bool.or_eq_false_iff.1 h).1),
    leaves_fset_iff (by decide)]
  exact leaves_self

theorem bringupComplete_done (hup : d.tst.up = false) (hf : d.tst.failed = false) (hph : fget d A.TST_BOOT F.TST_BOOT_PHASE = 7)
    (h1 : d.pwr.pwrok = true) (h2 : d.pwr.rstN = true) : let e := bringupComplete d
    e.tst.up = true ∧ sidNow e = 0 ∧ fget e A.TST_BOOT F.TST_BOOT_PHASE = 15 ∧ fget e A.TST_STS F.TST_STS_EXC = 0x5B ∧
    Leaves [.clock, .hst, .tst] (fun a => isReport a || these [A.TST_BOOT, A.TST_STS, A.SID_TIME] a) d e := by
  obtain ⟨hdup, hsid, hphase, hdone⟩ := bootDone_parts d
  have hinfo := leaves_bootInfo (bootDone d) 0x5B
  have hexc : fget (bootRaise (bootDone d) 0x5B 0) A.TST_STS F.TST_STS_EXC = 0x5B := tstRaise_exc _ _ _ 0 (by decide)
  obtain ⟨hregs, htup, hblow⟩ := secverBlow_only (bootRaise (bootDone d) 0x5B 0)
  have hfget (a : Nat) (f : Fld) : fget (secverBlow (bootRaise (bootDone d) 0x5B 0)) a f = fget (bootRaise (bootDone d) 0x5B 0) a f := by
    rw [fget, fget, regGet, regGet, hregs]
  have hkept : Leaves [.clock, .hst, .tst] (fun a => isReport a || these [A.TST_BOOT, A.TST_STS, A.SID_TIME] a) d (bootRaise (bootDone d) 0x5B 0) :=
    (hdone.weaken (by simp) fun a ha => not_these_of_subset (by simp) (Bool.or_eq_false_iff.1 ha).2).trans
      (hinfo.weaken (by simp) fun a ha => by
        obtain ⟨hrep, hthese⟩ := Bool.or_eq_false_iff.1 ha
        have h := not_these_of_subset (as := [A.TST_STS]) (by simp) hthese
        rw [Bool.or_eq_false_iff]
        exact ⟨hrep, by simpa [these] using h⟩)
  rw [bringupComplete_eq hup hf hph h1 h2]
  refine ⟨?_, ?_, ?_, ?_, hkept.trans (hblow.weaken (by simp) fun _ _ => rfl)⟩
  · rw [htup, hinfo.1 .tst (by simp), hdup]
  · rw [sidNow, regGet, hregs, ← regGet, hinfo.2 _ (by decide), ← sidNow, hsid]
  · rw [hfget, fget_bootRaise_boot, hphase]
  · rw [hfget, hexc]

/-! ### The supplies (R590, R609) -/

theorem vauxLoss_regs (d : Dev) (a : Nat) : regGet (vauxLoss d) a = regReset a := rfl

/-- The registers of the always-on domain after a brown-out. -/
def brownRegs (d : Dev) : Dev :=
  restoreRows (fset (fset (setPstate (resetRange (resetRange d 0x200000 0x300000) 0x400000 0x500000) (pstate d)) A.PWR_SUP F.PWR_SUP_RAIL
    (fget d A.PWR_SUP F.PWR_SUP_RAIL)) A.PWR_SUP F.PWR_SUP_BROWNOUT 1) [(A.TST_STS, regGet d A.TST_STS), (A.TST_BOOT, regGet d A.TST_BOOT)]

theorem brownOut_eq (d : Dev) : ∃ p t m, brownOut d = (((brownRegs d).withPwr p).withTst t).withMgt m ∧ p.brownStart = true := ⟨_, _, _, rfl, rfl⟩

theorem regGet_resetRange (d : Dev) (lo hi a : Nat) : regGet (resetRange d lo hi) a = if lo ≤ a ∧ a < hi then regReset a else regGet d a := by
  have h := regGet_filtered d (fun x => decide (x.1 < lo) || decide (hi ≤ x.1)) (fun a => decide (lo ≤ a ∧ a < hi)) (fun x => by
    by_cases h1 : x.1 < lo <;> by_cases h2 : hi ≤ x.1 <;> simp [h1, h2]; omega) a
  rw [show regGet (resetRange d lo hi) a = _ from h]
  simp only [decide_eq_true_eq]

theorem regGet_resetTwo (d : Dev) (a : Nat) : regGet (resetRange (resetRange d 0x200000 0x300000) 0x400000 0x500000) a =
    if 0x400000 ≤ a ∧ a < 0x500000 ∨ 0x200000 ≤ a ∧ a < 0x300000 then regReset a else regGet d a := by
  rw [regGet_resetRange, regGet_resetRange]
  by_cases h1 : 0x400000 ≤ a ∧ a < 0x500000 <;> by_cases h2 : 0x200000 ≤ a ∧ a < 0x300000 <;> simp [h1, h2]

theorem brownRegs_eq (d : Dev) : brownRegs d = regSet (regSet (fset (fset (setPstate (resetRange (resetRange d 0x200000 0x300000) 0x400000 0x500000)
    (pstate d)) A.PWR_SUP F.PWR_SUP_RAIL (fget d A.PWR_SUP F.PWR_SUP_RAIL)) A.PWR_SUP F.PWR_SUP_BROWNOUT 1) A.TST_STS (regGet d A.TST_STS))
    A.TST_BOOT (regGet d A.TST_BOOT) := rfl

theorem leaves_brownRegs (d : Dev) : Leaves [.live] alwaysOn d (brownRegs d) := by
  have hrange : Leaves [.live] alwaysOn d (resetRange (resetRange d 0x200000 0x300000) 0x400000 0x500000) := by
    refine ⟨((leaves_resetRange d _ _).trans (leaves_resetRange _ _ _)).1, fun a ha => ?_⟩
    rw [regGet_resetTwo, if_neg]
    simp only [alwaysOn, Bool.and_eq_false_iff, decide_eq_false_iff_not] at ha
    omega
  rw [brownRegs_eq, leaves_regSet_iff (by decide), leaves_regSet_iff (by decide), leaves_fset_iff (by decide), leaves_fset_iff (by decide),
    setPstate, leaves_fset_iff (by decide)]
  exact hrange

theorem brownRegs_sup (d : Dev) : fget (brownRegs d) A.PWR_SUP F.PWR_SUP_BROWNOUT = 1 ∧ fget (brownRegs d) A.PWR_SUP F.PWR_SUP_IMGVALID = 0 ∧
    pstate (brownRegs d) = pstate d := by
  rw [brownRegs_eq]
  refine ⟨?_, ?_, ?_⟩
  · rw [fget_regSet_ne _ (by decide), fget_regSet_ne _ (by decide), fget_fset_self _ _ _ _ (by decide)]
    rfl
  · rw [fget_regSet_ne _ (by decide), fget_regSet_ne _ (by decide), fget_fset_apart _ _ _ _ _ _ (by decide) (by decide) (by decide),
      fget_fset_apart _ _ _ _ _ _ (by decide) (by decide) (by decide), setPstate, fget_fset_ne _ (by decide), fget, regGet_resetTwo,
      if_pos (by decide)]
    decide
  · rw [pstate, fget_regSet_ne _ (by decide), fget_regSet_ne _ (by decide), fget_fset_ne _ (by decide), fget_fset_ne _ (by decide), ← pstate,
      pstate_setPstate]
    exact Nat.mod_eq_of_lt (fget_lt _ _ _)

theorem leaves_withMgt_iff {m : Mgt} (h : Piece.mgt ∈ ps) : Leaves ps p d (e.withMgt m) ↔ Leaves ps p d e :=
  leaves_part .mgt h rfl fun y hy => by cases y <;> simp_all [Piece.same]

/-- Parts of the package replaced after a brown-out. -/
theorem brown_kept (d : Dev) (x : Pwr) (t : Tst) (m : Mgt) : let e := ((d.withPwr x).withTst t).withMgt m
    (∀ a f, fget e a f = fget d a f) ∧ e.pwr = x ∧ Leaves [.pwr, .tst, .mgt] (fun _ => false) d e := by
  refine ⟨fun a f => ?_, ?_, ?_⟩
  · rw [fget_withMgt, fget_withTst, fget_withPwr]
  · rw [withMgt_pwr, withTst_pwr, withPwr_pwr]
  · rw [leaves_withMgt_iff (by simp), leaves_withTst_iff (by simp), leaves_withPwr_iff (by simp)]
    exact leaves_self

theorem brownOut_done (d : Dev) : let e := brownOut d
    fget e A.PWR_SUP F.PWR_SUP_BROWNOUT = 1 ∧ fget e A.PWR_SUP F.PWR_SUP_IMGVALID = 0 ∧ pstate e = pstate d ∧ e.pwr.brownStart = true ∧
    Leaves [.live, .pwr, .tst, .mgt] alwaysOn d e := by
  obtain ⟨x, t, m, he, hb⟩ := brownOut_eq d
  obtain ⟨h1, h2, h3⟩ := brownRegs_sup d
  obtain ⟨hf, hpwr, hk⟩ := brown_kept (brownRegs d) x t m
  rw [← he] at hf hpwr hk
  exact ⟨(hf _ _).trans h1, (hf _ _).trans h2, (hf _ _).trans h3, (congrArg Pwr.brownStart hpwr).trans hb,
    ((leaves_brownRegs d).widen (by simp)).trans (hk.weaken (by simp) fun _ _ => rfl)⟩

/-! ### PERST_N (R605, R626) -/

/-- PERST_N as the power controller sees it. -/
def perstSet (d : Dev) : Dev := setPwr d (fun p => { p with perst := true, pcieUp := false })

theorem wakeEvent_perst (d : Dev) (src : Nat) : (wakeEvent d src).pwr.perst = d.pwr.perst ∧ (wakeEvent d src).pwr.pcieUp = d.pwr.pcieUp := by
  unfold wakeEvent
  split
  · split
    · exact ⟨rfl, rfl⟩
    · exact ⟨rfl, rfl⟩
  · exact ⟨rfl, rfl⟩
  · exact ⟨rfl, rfl⟩

theorem perstAssert_done (d : Dev) : let e := perstAssert d
    e.pwr.perst = true ∧ e.pwr.pcieUp = false ∧ (pstate d = 2 → pstate e = 3 ∧ fget e A.PWR_WAKE F.PWR_WAKE_SRC = 5) := by
  have h := powered_flr (wakeEvent (perstSet d) 5)
  obtain ⟨hperst, hup⟩ := wakeEvent_perst (perstSet d) 5
  have hpwr := pwr_of_powered h
  refine ⟨(congrArg Pwr.perst hpwr).trans hperst, (congrArg Pwr.pcieUp hpwr).trans hup, fun hp => ?_⟩
  obtain ⟨hpst, hsrc⟩ := wakeEvent_hold (d := perstSet d) hp (src := 5) (by decide)
  exact ⟨(fget_of_powered h (by decide) (by decide) _).trans hpst, (fget_of_powered h (by decide) (by decide) _).trans hsrc⟩

theorem perstRelease_done (d : Dev) : let e := perstRelease d
    e.pwr.perst = false ∧ e.pwr.pcieUp = decide (pstate d ≠ 4) ∧ keepsBut [.pwr] d e ∧ keepsRegs (fun _ => false) d e :=
  ⟨rfl, rfl, pin_frame d _⟩

/-- The test port reset. -/
def tapReset (d : Dev) : Dev := d.withTst { d.tst with tap := 2, sib := 0 }

theorem tapReset_done (d : Dev) : (tapReset d).tst.tap = 2 ∧ (tapReset d).tst.sib = 0 ∧ Leaves [.tst] (fun _ => false) d (tapReset d) :=
  ⟨rfl, rfl, (leaves_withTst_iff (by simp)).2 leaves_self⟩

/-! ### The falls of PKG_PWROK and PKG_RST_N -/

/-- The pins low, as the power controller sees them. -/
def pwrokLow (d : Dev) : Dev := setPwr d (fun p => { p with pwrok := false, thermtrip := false })
def rstNLow (d : Dev) : Dev := setPwr d (fun p => { p with rstN := false })

theorem pwrokFall_eq (d : Dev) : pwrokFall d = packageReset (pwrokLow d) := rfl

/-- What the obligation says of a package that has been reset. -/
def resetTo (d e : Dev) : Prop := (∀ a, memGet e.mem a = 0) ∧ e.nv = d.nv ∧ e.nvNext = d.nvNext ∧ e.seq = Seq.init ∧ e.cas = Cas.init ∧
  e.ports = [] ∧ e.mach = Mach.init ∧ e.tst.up = false ∧
  (∀ a, alwaysOn a = false → a ≠ A.SEQ_GAP 0 → a ≠ A.SEQ_GAP 1 → regGet e a = regReset a) ∧
  pstate e = (if pstate d = 4 then 4 else 0) ∧ e.tst.fuseA = d.tst.fuseA ∧ e.tst.fuseB = d.tst.fuseB

theorem PackageCleared.resetTo {f : Pwr → Pwr} (h : PackageCleared (setPwr d f) e) : resetTo d e :=
  ⟨h.mem, h.nv, h.nvNext, h.seq, h.cas, h.ports, h.mach, h.up, h.regs, h.pstate, h.fuseA, h.fuseB⟩

theorem pwrokFall_done (d : Dev) : (pwrokFall d).pwr.pwrok = false ∧ resetTo d (pwrokFall d) := by
  have h := packageReset_cleared (pwrokLow d)
  rw [pwrokFall_eq]
  exact ⟨h.pwrok, h.resetTo⟩

theorem rstAssert_resets (h : d.pwr.pwrok = true) : let e := rstAssert d
    e.pwr.rstN = false ∧ fget e A.TST_RPL F.TST_RPL_MODE = 0 ∧ fget e A.TST_STS F.TST_STS_INTRUSIVE = 0 ∧ resetTo d e := by
  have hc := (packageReset_cleared (rstNLow d)).rstClears
  obtain ⟨hmode, hintr⟩ := rstClears_modes (packageReset (rstNLow d))
  rw [rstAssert_on h]
  exact ⟨hc.rstN, hmode, hintr, hc.resetTo⟩

theorem rstAssert_waits (h : d.pwr.pwrok = false) : let e := rstAssert d
    e.pwr.rstN = false ∧ fget e A.TST_RPL F.TST_RPL_MODE = 0 ∧ Leaves [.pwr] (these [A.TST_RPL, A.TST_STS]) d e := by
  have hl := leaves_rstClears (rstNLow d)
  have hpin : Leaves [.pwr] (these [A.TST_RPL, A.TST_STS]) d (rstNLow d) := (leaves_setPwr_iff (by simp)).2 leaves_self
  rw [rstAssert_off h]
  exact ⟨congrArg Pwr.rstN (hl.1 .pwr (by simp)), (rstClears_modes _).1, hpin.trans (hl.widen (by simp))⟩

/-! ### The rises, and bring-up -/

/-- What the obligation says of bring-up that has begun. -/
def begunFrom (d e : Dev) : Prop := e.tst.up = false ∧ (∀ a, memGet e.mem a = 0) ∧
  (fuseBad d = true → pstate d ≠ 4 → e.tst.failed = true ∧ fget e A.TST_BOOT F.TST_BOOT_PHASE = 1) ∧
  (e.tst.failed = false → fget e A.TST_BOOT F.TST_BOOT_PHASE = 7)

theorem pwrokRise_begins (i : BootIn) (h : d.pwr.pwrok = false) (h2 : d.pwr.rstN = true) (hv : d.pwr.vaux = true) :
    (pwrokRise d i).pwr.pwrok = true ∧ begunFrom d (pwrokRise d i) := by
  rw [pwrokRise_low i h, bringUpIf_goes i (show (pwrokSet d).pwr.vaux = true from hv) rfl (show (pwrokSet d).pwr.rstN = true from h2)]
  exact ⟨(bringUp_coming (pwrokSet d) i).pwrok, bringUp_begun (pwrokSet d) i⟩

theorem rstRelease_begins (i : BootIn) (h : d.pwr.rstN = false) (h2 : d.pwr.pwrok = true) (hv : d.pwr.vaux = true) :
    (rstRelease d i).pwr.rstN = true ∧ begunFrom d (rstRelease d i) := by
  rw [rstRelease_low i h, bringUpIf_goes i (show (rstNSet d).pwr.vaux = true from hv) (show (rstNSet d).pwr.pwrok = true from h2) rfl]
  exact ⟨(bringUp_coming (rstNSet d) i).rstN, bringUp_begun (rstNSet d) i⟩

theorem pwrokRise_waits (i : BootIn) (h : d.pwr.pwrok = false) (h2 : d.pwr.rstN = false) : pwrokRise d i = pwrokSet d := by
  rw [pwrokRise_low i h, bringUpIf_waits]
  rw [show (pwrokSet d).pwr.rstN = false from h2, Bool.and_false]

theorem rstRelease_waits (i : BootIn) (h : d.pwr.rstN = false) (h2 : d.pwr.pwrok = false) : rstRelease d i = rstNSet d := by
  rw [rstRelease_low i h, bringUpIf_waits]
  rw [show (rstNSet d).pwr.pwrok = false from h2, Bool.and_false, Bool.false_and]

theorem vauxRise_waits (i : BootIn) (h : d.pwr.vaux = false) (h2 : d.pwr.pwrok = false) : let e := vauxRise d i
    e.pwr.vaux = true ∧ Leaves [.pwr, .hst] (fun a => isReport a || a == A.PWR_STS) d e := by
  obtain ⟨hvaux, hpwrok, hl⟩ := controllerStart_vauxSet d
  rw [vauxRise_low i h, bringUpIf_waits i (by rw [hpwrok, h2, Bool.and_false, Bool.false_and])]
  exact ⟨hvaux, hl⟩

/-- The package without its standby supply. -/
theorem vauxLoss_done (d : Dev) : let e := vauxLoss d
    e.pwr.vaux = false ∧ (∀ a, memGet e.mem a = 0) ∧ e.nv = d.nv ∧ e.nvNext = d.nv ∧ (∀ a, regGet e a = regReset a) ∧
    e.tst.fuseA = d.tst.fuseA ∧ e.tst.fuseB = d.tst.fuseB ∧ e.ports = [] :=
  ⟨rfl, fun _ => rfl, rfl, rfl, vauxLoss_regs d, rfl, rfl, rfl⟩

end

/-- Settles O59: what PKG_PWROK and PKG_RST_N reset and keep, bring-up from its start to service, the loss of VAUX, a
brown-out, PERST_N and TRST_N. -/
theorem resetsKeepWhatTheirDomainKeeps : Obligations.ResetsKeepWhatTheirDomainKeeps := by
  refine ⟨fun t s => ?_, fun t s => ?_, fun s => ?_⟩
  · intro d cleared begun pinOnly
    refine ⟨⟨_, next_congr rfl rfl, pwrokFall_done d⟩, fun h => ⟨_, next_congr rfl rfl, rstAssert_resets h⟩,
      fun h => ⟨_, next_congr rfl rfl, rstAssert_waits h⟩, fun boot => ⟨fun h => next_congr rfl (pwrokRise_high boot h), fun h h2 => ?_,
      fun h h2 hv => ⟨_, next_congr rfl rfl, pwrokRise_begins boot h h2 hv⟩, fun h => next_congr rfl (rstRelease_high boot h),
      fun h h2 => ?_, fun h h2 hv => ⟨_, next_congr rfl rfl, rstRelease_begins boot h h2 hv⟩, fun h => next_congr rfl (vauxRise_high boot h),
      fun h h2 => ⟨_, next_congr rfl rfl, vauxRise_waits boot h h2⟩⟩,
      fun hup hf hph h1 h2 => ⟨_, next_congr rfl rfl, bringupComplete_done hup hf hph h1 h2⟩,
      fun h => next_congr rfl (bringupComplete_up h), ⟨_, next_congr rfl rfl, vauxLoss_done d⟩, ⟨_, next_congr rfl rfl, brownOut_done d⟩⟩
    · exact ⟨_, next_congr rfl (pwrokRise_waits boot h h2), rfl, pin_frame d _⟩
    · exact ⟨_, next_congr rfl (rstRelease_waits boot h h2), rfl, pin_frame d _⟩
  · intro d
    obtain ⟨e, he⟩ : ∃ e, perstAssert d = e := ⟨_, rfl⟩
    have h := perstAssert_done d
    rw [he] at h
    exact ⟨_, next_congr rfl he, h⟩
  · intro d
    exact ⟨⟨{ s with dev := perstRelease d }, rfl, perstRelease_done d⟩, ⟨{ s with dev := tapReset d }, rfl, tapReset_done d⟩⟩

end Sys2Proof.Machine
end

section
/-! PROOFS. The canonical form of the memories: what it means for a package, the writers of a memory that keep it, and
the rules for the updates of the package, its folds and its branches. -/
namespace Sys2Proof.Machine

/-- Every memory of the package stands in canonical form. -/
structure Sound (d : Dev) : Prop where
  mem : Memory.wf d.mem = true
  nv : Memory.wf d.nv = true
  nvNext : Memory.wf d.nvNext = true
  hostMem : Memory.wf d.hst.hostMem = true

theorem wf_iff_sound (s : State) : s.wf = true ↔ Sound s.dev := by
  unfold State.wf
  constructor
  · intro h
    simp only [Bool.and_eq_true] at h
    obtain ⟨⟨⟨hm, hn⟩, hx⟩, hh⟩ := h
    exact ⟨hm, hn, hx, hh⟩
  · intro h
    simp [h.mem, h.nv, h.nvNext, h.hostMem]

/-! A memory that is written byte by byte, or of which some cells are dropped, stays canonical. -/

theorem wf_nil : Memory.wf [] = true := rfl

theorem foldl_wf {β : Type} {g : List Host.Cell → β → List Host.Cell} (l : List β) {m : List Host.Cell}
    (hg : ∀ m x, Memory.wf m = true → Memory.wf (g m x) = true) (h : Memory.wf m = true) :
    Memory.wf (l.foldl g m) = true := by
  induction l generalizing m with
  | nil => exact h
  | cons x l ih => exact ih (hg m x h)

theorem foldl_memSet_wf {β : Type} {a : β → Nat} {v : List Host.Cell → β → Byte} (l : List β) {m : List Host.Cell}
    (h : Memory.wf m = true) : Memory.wf (l.foldl (fun m x => memSet m (a x) (v m x)) m) = true :=
  foldl_wf l (fun m _ hm => memSet_wf m _ _ hm) h

theorem filter_wf {m : List Host.Cell} (p : Host.Cell → Bool) (h : Memory.wf m = true) :
    Memory.wf (m.filter p) = true := by
  simp only [Memory.wf, swf, Bool.and_eq_true, List.all_eq_true] at h ⊢
  exact ⟨risesFrom_filter p m h.1, fun e he => h.2 e (List.mem_of_mem_filter he)⟩

theorem keepLines_wf {old new : List Host.Cell} (T : Nat) (ls : List Nat) (h : Memory.wf new = true) :
    Memory.wf (keepLines old new T ls) = true := by
  simp only [keepLines]
  split
  · exact h
  · exact foldl_memSet_wf _ (filter_wf _ h)

theorem putCells_wf {m : List Host.Cell} (lo n : Nat) (l : List Host.Cell) (h : Memory.wf m = true) :
    Memory.wf (putCells m lo n l) = true :=
  foldl_memSet_wf _ (filter_wf _ h)

theorem foldl_putCells_wf {σ β : Type} {g : List Host.Cell × σ → β → List Host.Cell × σ} (l : List β)
    {s : List Host.Cell × σ} (hg : ∀ s x, Memory.wf s.1 = true → Memory.wf (g s x).1 = true)
    (h : Memory.wf s.1 = true) : Memory.wf (l.foldl g s).1 = true := by
  induction l generalizing s with
  | nil => exact h
  | cons x l ih => exact ih (hg s x h)

theorem codePut_wf {m : List Host.Cell} (a i w v : Nat) (h : Memory.wf m = true) :
    Memory.wf (codePut m a i w v) = true :=
  memPut_wf m _ _ _ h

theorem codesPut_wf {m : List Host.Cell} (a w i : Nat) (l : List Nat) (h : Memory.wf m = true) :
    Memory.wf (codesPut m a w i l) = true := by
  induction l generalizing m i with
  | nil => exact h
  | cons c l ih => exact ih _ (codePut_wf a _ w c h)

theorem storeRow_wf {m : List Host.Cell} (t : TileAt) (x : Nat) (codes scales : List Nat) (h : Memory.wf m = true) :
    Memory.wf (storeRow m t x codes scales) = true := by
  simp only [storeRow]
  refine foldl_memSet_wf _ ?_
  split
  · exact foldl_wf _ (fun _ _ hm => codePut_wf _ _ _ _ hm) h
  · exact codesPut_wf _ _ _ _ h

theorem matStore_wf {m : List Host.Cell} (a : Nat) (x : Mat) (h : Memory.wf m = true) :
    Memory.wf (matStore m a x) = true :=
  memWrite_wf m a _ h

section
variable {d : Dev}

/-! An update of a piece that is no memory. -/

theorem sound_withNow {v : Nat} (h : Sound d) : Sound (d.withNow v) :=
  ⟨h.mem, h.nv, h.nvNext, h.hostMem⟩

theorem sound_withFresh {v : Nat} (h : Sound d) : Sound (d.withFresh v) :=
  ⟨h.mem, h.nv, h.nvNext, h.hostMem⟩

theorem sound_withSidPrev {v : Nat} (h : Sound d) : Sound (d.withSidPrev v) :=
  ⟨h.mem, h.nv, h.nvNext, h.hostMem⟩

theorem sound_withRegs {v : List (Nat × W64)} (h : Sound d) : Sound (d.withRegs v) :=
  ⟨h.mem, h.nv, h.nvNext, h.hostMem⟩

theorem sound_withLive {v : List (Nat × W64)} (h : Sound d) : Sound (d.withLive v) :=
  ⟨h.mem, h.nv, h.nvNext, h.hostMem⟩

theorem sound_withRoleLocked {v : Bool} (h : Sound d) : Sound (d.withRoleLocked v) :=
  ⟨h.mem, h.nv, h.nvNext, h.hostMem⟩

theorem sound_withPend {v : List GovEvent} (h : Sound d) : Sound (d.withPend v) :=
  ⟨h.mem, h.nv, h.nvNext, h.hostMem⟩

theorem sound_withObs {v : List (GovKey × Nat)} (h : Sound d) : Sound (d.withObs v) :=
  ⟨h.mem, h.nv, h.nvNext, h.hostMem⟩

theorem sound_withSeq {v : Seq} (h : Sound d) : Sound (d.withSeq v) :=
  ⟨h.mem, h.nv, h.nvNext, h.hostMem⟩

theorem sound_withTables {v : Tables} (h : Sound d) : Sound (d.withTables v) :=
  ⟨h.mem, h.nv, h.nvNext, h.hostMem⟩

theorem sound_withCas {v : Cas} (h : Sound d) : Sound (d.withCas v) :=
  ⟨h.mem, h.nv, h.nvNext, h.hostMem⟩

theorem sound_withJet {v : Jet} (h : Sound d) : Sound (d.withJet v) :=
  ⟨h.mem, h.nv, h.nvNext, h.hostMem⟩

theorem sound_withAst {v : Ast} (h : Sound d) : Sound (d.withAst v) :=
  ⟨h.mem, h.nv, h.nvNext, h.hostMem⟩

theorem sound_withEphRes {v : List (Nat × EphRes)} (h : Sound d) : Sound (d.withEphRes v) :=
  ⟨h.mem, h.nv, h.nvNext, h.hostMem⟩

theorem sound_withRvrUse {v : List (Nat × Nat)} (h : Sound d) : Sound (d.withRvrUse v) :=
  ⟨h.mem, h.nv, h.nvNext, h.hostMem⟩

theorem sound_withEph {v : Eph} (h : Sound d) : Sound (d.withEph v) :=
  ⟨h.mem, h.nv, h.nvNext, h.hostMem⟩

theorem sound_withRil {v : Ril} (h : Sound d) : Sound (d.withRil v) :=
  ⟨h.mem, h.nv, h.nvNext, h.hostMem⟩

theorem sound_withWei {v : Wei} (h : Sound d) : Sound (d.withWei v) :=
  ⟨h.mem, h.nv, h.nvNext, h.hostMem⟩

theorem sound_withAqd {v : Aqd} (h : Sound d) : Sound (d.withAqd v) :=
  ⟨h.mem, h.nv, h.nvNext, h.hostMem⟩

theorem sound_withDrainAt {v : List (Nat × Nat)} (h : Sound d) : Sound (d.withDrainAt v) :=
  ⟨h.mem, h.nv, h.nvNext, h.hostMem⟩

theorem sound_withPorts {v : List (Nat × Port)} (h : Sound d) : Sound (d.withPorts v) :=
  ⟨h.mem, h.nv, h.nvNext, h.hostMem⟩

theorem sound_withMach {v : Mach} (h : Sound d) : Sound (d.withMach v) :=
  ⟨h.mem, h.nv, h.nvNext, h.hostMem⟩

theorem sound_withMs {v : MemSys} (h : Sound d) : Sound (d.withMs v) :=
  ⟨h.mem, h.nv, h.nvNext, h.hostMem⟩

theorem sound_withPwr {v : Pwr} (h : Sound d) : Sound (d.withPwr v) :=
  ⟨h.mem, h.nv, h.nvNext, h.hostMem⟩

theorem sound_withTst {v : Tst} (h : Sound d) : Sound (d.withTst v) :=
  ⟨h.mem, h.nv, h.nvNext, h.hostMem⟩

theorem sound_withMgt {v : Mgt} (h : Sound d) : Sound (d.withMgt v) :=
  ⟨h.mem, h.nv, h.nvNext, h.hostMem⟩

/-! An update of a memory. -/

theorem sound_withMem {v : List Host.Cell} (h : Sound d) (hv : Memory.wf v = true) : Sound (d.withMem v) :=
  ⟨hv, h.nv, h.nvNext, h.hostMem⟩

theorem sound_withNv {v : List Host.Cell} (h : Sound d) (hv : Memory.wf v = true) : Sound (d.withNv v) :=
  ⟨h.mem, hv, h.nvNext, h.hostMem⟩

theorem sound_withNvNext {v : List Host.Cell} (h : Sound d) (hv : Memory.wf v = true) : Sound (d.withNvNext v) :=
  ⟨h.mem, h.nv, hv, h.hostMem⟩

/-- The host's side of the package moves and host memory stays. -/
theorem sound_withHst {v : Hst} (h : Sound d) (hv : v.hostMem = d.hst.hostMem) : Sound (d.withHst v) :=
  ⟨h.mem, h.nv, h.nvNext, by rw [withHst_hst, hv]; exact h.hostMem⟩

/-! Folds, branches and results. -/

theorem sound_foldl {β : Type} {g : Dev → β → Dev} {l : List β} (h : Sound d)
    (hg : ∀ d b, Sound d → Sound (g d b)) : Sound (l.foldl g d) := by
  induction l generalizing d with
  | nil => exact h
  | cons b l ih => exact ih (hg d b h)

theorem sound_foldl_fst {β γ : Type} {g : Dev × γ → β → Dev × γ} {l : List β} {s : Dev × γ} (h : Sound s.1)
    (hg : ∀ s b, Sound s.1 → Sound (g s b).1) : Sound (l.foldl g s).1 := by
  induction l generalizing s with
  | nil => exact h
  | cons b l ih => exact ih (hg s b h)

theorem sound_ite {c : Prop} [Decidable c] {a b : Dev} (ha : Sound a) (hb : Sound b) :
    Sound (if c then a else b) := by
  split
  · exact ha
  · exact hb

end

theorem sound_fst {α : Type} {x : Dev × α} {e : Dev} {y : α} (hx : x = (e, y)) (h : Sound x.1) : Sound e := by
  rw [hx] at h
  exact h

/-- A result that is a package, if there is one, is sound. -/
def SoundOk {ε : Type} : Except ε Dev → Prop
  | .ok e => Sound e
  | .error _ => True

/-- As `SoundOk`, for a package with something beside it. -/
def SoundOkFst {ε α : Type} : Except ε (Dev × α) → Prop
  | .ok e => Sound e.1
  | .error _ => True

/-- The package found, if there is one, is sound. -/
def SoundSome : Option Dev → Prop
  | some e => Sound e
  | none => True

/-- As `SoundSome`, for a package with something beside it. -/
def SoundSomeFst {α : Type} : Option (Dev × α) → Prop
  | some e => Sound e.1
  | none => True

/-- The package after a RIL command that is done is sound. -/
def SoundDone : RilStep → Prop
  | .done e => Sound e
  | .waits => True

theorem sound_ok {ε : Type} {x : Except ε Dev} {e : Dev} (hx : x = .ok e) (h : SoundOk x) : Sound e := by
  rw [hx] at h
  exact h

theorem sound_okFst {ε α : Type} {x : Except ε (Dev × α)} {e : Dev} {y : α} (hx : x = .ok (e, y))
    (h : SoundOkFst x) : Sound e := by
  rw [hx] at h
  exact h

theorem sound_some {x : Option Dev} {e : Dev} (hx : x = some e) (h : SoundSome x) : Sound e := by
  rw [hx] at h
  exact h

theorem sound_someFst {α : Type} {x : Option (Dev × α)} {e : Dev} {y : α} (hx : x = some (e, y))
    (h : SoundSomeFst x) : Sound e := by
  rw [hx] at h
  exact h

theorem sound_done {x : RilStep} {e : Dev} (hx : x = .done e) (h : SoundDone x) : Sound e := by
  rw [hx] at h
  exact h

end Sys2Proof.Machine
end

section
/-! PROOFS. The memories stay canonical: the state operations, the sequencers, the cascade units and the jets. -/

namespace Sys2Proof.Machine

section
variable {d : Dev}

/-! ### Registers, counters, records and exceptions -/

theorem sound_regSet {a : Nat} {v : W64} (hd : Sound d) : Sound (regSet d a v) :=
  sound_withRegs hd

theorem sound_fset {a : Nat} {f : Fld} {v : Nat} (hd : Sound d) : Sound (fset d a f v) :=
  sound_regSet hd

theorem sound_finc {a : Nat} {f : Fld} {k : Nat} (hd : Sound d) : Sound (finc d a f k) :=
  sound_fset hd

theorem sound_fincSat {a : Nat} {f : Fld} {k : Nat} (hd : Sound d) : Sound (fincSat d a f k) :=
  sound_fset hd

theorem sound_latch {as : List Nat} (hd : Sound d) : Sound (latch d as) :=
  sound_withLive hd

theorem sound_latchRange {lo hi : Nat} (hd : Sound d) : Sound (latchRange d lo hi) :=
  sound_withLive hd

theorem sound_drawn (hd : Sound d) : Sound (drawn d) :=
  sound_withFresh hd

theorem sound_countIn {src inst k : Nat} {single : Bool} {base n : Nat} (hd : Sound d) :
    Sound (countIn src inst k single base n d) :=
  sound_ite hd (sound_ite (sound_finc hd) hd)

theorem sound_count {h src inst k : Nat} {single : Bool} (hd : Sound d) : Sound (count d h src inst k single) :=
  sound_foldl hd (fun _ _ hs => sound_countIn hs)

theorem sound_countPkg {src inst k : Nat} {single : Bool} (hd : Sound d) : Sound (countPkg d src inst k single) :=
  sound_foldl hd (fun _ _ hs => sound_countIn hs)

theorem sound_countBoth {src k : Nat} (hd : Sound d) : Sound (countBoth d src k) :=
  sound_count (sound_count hd)

theorem sound_countStarved {n : Nat} (hd : Sound d) : Sound (countStarved d old n) :=
  sound_foldl hd (fun _ _ hs => sound_countPkg hs)

theorem sound_tickTo {t : Nat} (hd : Sound d) : Sound (tickTo d t) := by
  unfold tickTo
  extract_lets s0 move n e1 e2 e3 strands e4 e5
  have h3 : Sound e3 := sound_countStarved (sound_countBoth (sound_drawn (sound_withSidPrev (sound_withNow
    (sound_regSet hd)))))
  have h4 : Sound e4 := sound_ite (sound_countBoth h3) h3
  have h5 : Sound e5 := sound_ite (sound_countBoth h4) h4
  exact sound_ite hd (sound_ite (sound_countPkg h5) h5)

theorem sound_tick {t : Nat} (hd : Sound d) : Sound (tick d t) :=
  sound_tickTo (sound_tickTo hd)

theorem sound_govSet {k : GovKey} {v : Nat} (hd : Sound d) : Sound (govSet d k v) :=
  sound_withPend hd

theorem sound_setRingH {n : Nat} {r : RingH} (hd : Sound d) : Sound (setRingH d n r) :=
  sound_withHst hd rfl

theorem sound_hostWrite {a : Nat} {bs : List Byte} (hd : Sound d) : Sound (hostWrite d a bs) :=
  ⟨hd.mem, hd.nv, hd.nvNext, by rw [hostWrite_hostMem]; exact memWrite_wf _ _ _ hd.hostMem⟩

theorem sound_ringWb {n v : Nat} (hd : Sound d) : Sound (ringWb d n v) :=
  sound_hostWrite hd

theorem sound_msixSend {vec : Nat} (hd : Sound d) : Sound (msixSend d vec) :=
  sound_countPkg (sound_withHst hd rfl)

theorem sound_ringPut {n : Nat} {r : Record} (hd : Sound d) : Sound (ringPut d n r) :=
  sound_ite (sound_msixSend (sound_setRingH (sound_countPkg (sound_ringWb (sound_finc (sound_hostWrite hd))))))
    (sound_setRingH (sound_countPkg (sound_ringWb (sound_finc (sound_hostWrite hd)))))

theorem sound_setOvf {l : List (Nat × Record)} (hd : Sound d) : Sound (setOvf d l) :=
  sound_fset (sound_withHst hd rfl)

theorem sound_deliver {n : Nat} {r : Record} (hd : Sound d) : Sound (deliver d n r).1 := by
  unfold deliver
  split
  · exact sound_ringPut hd
  · split
    · exact sound_setOvf hd
    · dsimp only
      exact sound_countPkg (sound_setRingH (sound_finc hd))

theorem sound_nextRseq (hd : Sound d) : Sound (nextRseq d) :=
  sound_withHst hd rfl

theorem sound_hstNote {number ring : Nat} (hd : Sound d) : Sound (hstNote d number ring) :=
  sound_fset (sound_fset (sound_fset hd))

theorem sound_reportDrops (hd : Sound d) : Sound (reportDrops d) := by
  simp only [reportDrops]
  split
  · exact sound_ite (sound_deliver (sound_hstNote (sound_withHst (sound_fset (sound_nextRseq hd)) rfl))) hd
  · exact hd

theorem sound_sumRecord {r : Record} (hd : Sound d) : Sound (sumRecord d r) :=
  sound_ite (sound_ite (sound_withHst (sound_withHst (sound_foldl (sound_fset hd)
    (fun _ _ hs1 => sound_regSet hs1)) rfl) rfl) (sound_withHst (sound_foldl (sound_fset hd)
    (fun _ _ hs2 => sound_regSet hs2)) rfl)) (sound_fset hd)

theorem sound_post {number sev src : Nat} {payload : List Nat} (hd : Sound d) :
    Sound (post d number sev src payload) :=
  sound_ite (sound_reportDrops (sound_deliver (sound_sumRecord (sound_nextRseq hd)))) (sound_reportDrops
    (sound_withHst (sound_deliver (sound_sumRecord (sound_nextRseq hd))) rfl))

theorem sound_postStat {number src : Nat} {payload : List Nat} (hd : Sound d) :
    Sound (postStat d number src payload) :=
  sound_ite (sound_ringPut (sound_nextRseq hd)) (sound_withHst (sound_nextRseq hd) rfl)

theorem sound_raiseAbort {s : Nat} (hd : Sound d) : Sound (raiseAbort d s) :=
  sound_govSet (sound_withMach hd)

theorem sound_stepFatal (hd : Sound d) : Sound (stepFatal d) :=
  sound_raiseAbort hd

theorem sound_stopStrands (hd : Sound d) : Sound (stopStrands d) :=
  sound_withSeq (sound_ite (sound_fset hd) hd)

theorem sound_drainBegins {sts : Nat} (hd : Sound d) : Sound (drainBegins d sts) :=
  sound_fset (sound_withDrainAt hd)

theorem sound_seqSelfStop (hd : Sound d) : Sound (seqSelfStop d) :=
  sound_ite (sound_fset (sound_drainBegins (sound_stopStrands hd))) hd

theorem sound_chipFatal (hd : Sound d) : Sound (chipFatal d) :=
  sound_seqSelfStop (sound_ite (sound_raiseAbort hd) hd)

theorem sound_consequence {sev : Nat} (hd : Sound d) : Sound (consequence d sev) := by
  unfold consequence
  split
  · exact sound_stepFatal hd
  · exact sound_chipFatal hd
  · exact sound_seqSelfStop (sound_ite (sound_raiseAbort hd) hd)
  · exact hd

theorem sound_raise {number sev src : Nat} {payload : List Nat} (hd : Sound d) :
    Sound (raise d number sev src payload) :=
  sound_consequence (sound_post hd)

theorem sound_setStrand {s : StrandId} {x : Strand} (hd : Sound d) : Sound (setStrand d s x) := by
  simp only [setStrand]
  split
  · exact sound_withSeq hd
  · exact sound_withSeq hd
  · exact sound_withSeq hd

theorem sound_startCommon {b : Blk} (hd : Sound d) : Sound (startCommon d b) :=
  sound_fset (sound_finc hd)

theorem sound_disableCommon {b : Blk} (hd : Sound d) : Sound (disableCommon d b) := by
  unfold disableCommon
  split
  · exact sound_drainBegins hd
  · exact sound_fset hd
  · exact hd

theorem sound_drainedCommon {b : Blk} (hd : Sound d) : Sound (drainedCommon d b) :=
  sound_fset (sound_fset hd)

/-! ### The sequencers -/

theorem sound_seqRaiseSev {number sev : Nat} {ctl spc strand half code late : Nat} (hd : Sound d) :
    Sound (seqRaiseSev d number sev ctl spc strand half code late) :=
  sound_raise (sound_fset hd)

theorem sound_seqRaise {number : Nat} {ctl spc strand half code late : Nat} (hd : Sound d) :
    Sound (seqRaise d number ctl spc strand half code late) :=
  sound_seqRaiseSev hd

theorem sound_setPager {h : Nat} {p : Pager} (hd : Sound d) : Sound (setPager d h p) :=
  sound_ite (sound_withSeq hd) (sound_withSeq hd)

theorem sound_startFetch {h i page : Nat} {pin : Bool} (hd : Sound d) : Sound (startFetch d h i page pin) := by
  simp only [startFetch]
  refine sound_setPager ?_
  split
  · exact sound_ite (sound_govSet hd) hd
  · exact hd

theorem sound_fetchPage {h page : Nat} {demand : Bool} (hd : Sound d) : Sound (fetchPage d h page demand) := by
  simp only [fetchPage]
  split
  · exact hd
  · split
    · exact sound_startFetch hd
    · exact sound_ite (sound_ite hd (sound_setPager hd)) (sound_ite hd (sound_setPager hd))

theorem sound_serveFetches {h : Nat} (hd : Sound d) : Sound (serveFetches d h) :=
  sound_foldl (sound_foldl (sound_setPager hd) (fun _ _ hs1 => sound_fetchPage hs1))
    (fun _ _ hs2 => sound_fetchPage hs2)

theorem sound_prefetchAhead {page : Nat} (hd : Sound d) : Sound (prefetchAhead d page) :=
  sound_foldl hd (fun _ _ hs1 => sound_foldl hs1 (fun _ _ hs2 => sound_fetchPage hs2))

theorem sound_pinPage {h page : Nat} (hd : Sound d) : Sound (pinPage d h page).1 := by
  simp only [pinPage]
  split
  · split
    · exact hd
    · split
      · exact hd
      · exact sound_setPager hd
  · split
    · exact sound_fetchPage hd
    · split
      · exact sound_startFetch hd
      · exact sound_fetchPage hd

theorem sound_unpinPage {h page : Nat} (hd : Sound d) : Sound (unpinPage d h page) := by
  simp only [unpinPage]
  split
  · exact sound_serveFetches (sound_setPager hd)
  · exact hd

theorem sound_pageArrive {h page : Nat} (hd : Sound d) : Sound (pageArrive d h page) := by
  simp only [pageArrive]
  split
  · exact hd
  · exact sound_ite hd (sound_serveFetches (sound_govSet (sound_setPager hd)))

theorem sound_endSegment {s : StrandId} {c : Confluence} (hd : Sound d) : Sound (endSegment d s c) :=
  sound_withSeq (sound_setStrand hd)

theorem sound_goTo {s : StrandId} {a : Nat} {loops : List LoopFrame} (hd : Sound d) : Sound (goTo d s a loops) := by
  unfold goTo
  extract_lets x e1 e2 e3
  have h1 : Sound e1 := sound_setStrand hd
  have h2 : Sound e2 := by
    unfold e2
    split
    · exact sound_ite h1 (sound_endSegment h1)
    · exact sound_ite h1 (sound_endSegment h1)
    · exact h1
  have h3 : Sound e3 := sound_ite (sound_prefetchAhead (sound_foldl h2 fun _ _ he => sound_fetchPage he)) h2
  exact sound_foldl h3 fun _ _ he => sound_serveFetches he

theorem sound_dropFlow (hd : Sound d) : Sound (dropFlow d) :=
  sound_withSeq hd

theorem sound_holdStrand {s : StrandId} (hd : Sound d) : Sound (holdStrand d s) := by
  simp only [holdStrand]
  split
  · exact hd
  · exact sound_setStrand hd

theorem sound_noteIssue {s : StrandId} (hd : Sound d) : Sound (noteIssue d s) :=
  sound_ite (sound_withSeq (sound_setStrand hd)) (sound_countBoth (sound_countBoth (sound_withSeq (sound_withSeq
    (sound_setStrand hd)))))

/-! ### Operands -/

/-! ### Flags -/

theorem sound_poisonFor {h s src ev word : Nat} {next : Bool} (hd : Sound d) :
    Sound (poisonFor d h s src ev word next) :=
  sound_ite hd (sound_raise (sound_fset (sound_withMach (sound_count (sound_ite (sound_fset (sound_fset
    (sound_fset hd))) (sound_fset hd))))))

theorem sound_poisonEvent {h s src ev word : Nat} (hd : Sound d) : Sound (poisonEvent d h s src ev word) :=
  sound_ite (sound_poisonFor hd) (sound_poisonFor (sound_raise (sound_fset hd)))

theorem sound_reportEvents {h : Nat} {gp : Bool} {s src word : Nat} {e : Events} (hd : Sound d) :
    Sound (reportEvents d h gp s src word e) := by
  unfold reportEvents
  extract_lets e1 e2 e3 e4 e5
  have h3 : Sound e3 := sound_count (sound_count (sound_count hd))
  have h5 : Sound e5 := sound_count (sound_count h3)
  exact sound_ite (sound_ite (sound_poisonEvent h5) (sound_ite (sound_poisonEvent h5) h5)) h3

theorem sound_astNote {h number detail : Nat} (hd : Sound d) : Sound (astNote d h number detail) :=
  sound_raise (sound_fset hd)

theorem sound_bankFor {h n : Nat} (hd : Sound d) : Sound (bankFor d h n).1 := by
  simp only [bankFor]
  split
  · exact sound_fset (sound_fset hd)
  · split
    · exact hd
    · exact sound_ite (sound_astNote (sound_withAst hd)) (sound_withAst hd)

theorem sound_bankSample {h n kind : Nat} (hd : Sound d) : Sound (bankSample d h n kind) := by
  simp only [bankSample]
  split
  · next ha =>
      exact sound_fst ha (sound_bankFor hd)
  · next hb =>
      exact sound_withAst (sound_fst hb (sound_bankFor hd))

/-! ### The cascade units -/

theorem sound_rvrTimed {T : Nat} {acc : List (Nat × Nat)} (hd : Sound d) : Sound (rvrTimed d T acc).1 := by
  unfold rvrTimed
  refine sound_foldl_fst (sound_withRvrUse (sound_count hd)) fun s a hs => ?_
  extract_lets
  split
  · exact sound_withRvrUse hs
  · dsimp only
    exact sound_raise (sound_fset (sound_fset (sound_fset (sound_fset hs))))

theorem sound_setBasinRow {tile x : Nat} {vs : List FVal} (hd : Sound d) : Sound (setBasinRow d tile x vs) :=
  sound_withCas hd

theorem sound_zeroTile {tile : Nat} (hd : Sound d) : Sound (zeroTile d tile) :=
  sound_withCas hd

theorem sound_setTileState {tile s : Nat} (hd : Sound d) : Sound (setTileState d tile s) :=
  sound_withCas hd

theorem sound_setLadder {uid : Nat} {l : Ladder} (hd : Sound d) : Sound (setLadder d uid l) :=
  sound_withCas hd

theorem sound_setLadLevel {uid : Nat} {l : Ladder} {x L : Nat} {ps : List Pair} (hd : Sound d) :
    Sound (setLadLevel d uid l x L ps) := by
  unfold setLadLevel
  extract_lets put T e
  have he : Sound e := by
    unfold e
    split
    · exact sound_setBasinRow hd
    · split
      next f bad hf =>
        have hs : Sound f := sound_fst hf (sound_rvrTimed hd)
        exact sound_withMem hs (keepLines_wf _ _ (memWrite_wf _ _ _ hs.mem))
  exact sound_ite (sound_withMem he (memWrite_wf _ _ _ he.mem)) he

theorem sound_ladEnter {uid x n L : Nat} {l : Ladder} {v : List Pair} (hd : Sound d) :
    Sound (ladEnter uid x n L d l v).1 := by
  induction n generalizing d L l v with
  | zero =>
    simp only [ladEnter]
    split
    · exact sound_ite (sound_count (sound_setLadLevel hd))
        (sound_raise (sound_fset (sound_count (sound_setLadLevel hd))))
    · exact sound_setLadLevel hd
  | succ n ih =>
    simp only [ladEnter]
    split
    · exact ih (sound_ite (sound_setBasinRow hd) hd)
    · exact sound_setLadLevel hd

theorem sound_ladPass {uid x : Nat} {comp : Bool} {v : List Pair} (hd : Sound d) :
    Sound (ladPass d uid x comp v) := by
  unfold ladPass
  split
  · exact hd
  · exact sound_setLadder (sound_ladEnter (sound_ite
      (sound_foldl hd fun _ _ he => sound_ite (sound_withMem he (memWrite_wf _ _ _ he.mem)) he) hd))

theorem sound_ladFinishRow {uid : Nat} {l : Ladder} {x : Nat} (hd : Sound d) : Sound (ladFinishRow d uid l x) := by
  simp only [ladFinishRow]
  split
  · exact sound_setBasinRow hd
  · exact sound_setBasinRow hd

theorem sound_applyRow {r : RowApp} (hd : Sound d) : Sound (applyRow d r) := by
  simp only [applyRow]
  split
  · split
    · exact sound_setBasinRow hd
    · exact sound_ladPass hd
    · exact hd
    · exact sound_ladPass hd
  · exact sound_ite hd (sound_ite (sound_reportEvents (sound_setBasinRow hd)) (sound_setBasinRow hd))

theorem sound_applyOne {i : Nat} (hd : Sound d) : Sound (applyOne d i) := by
  simp only [applyOne]
  split
  · exact sound_applyRow (sound_withCas hd)
  · exact hd

theorem sound_settleRows {p : RowApp → Bool} {n : Nat} (hd : Sound d) : Sound (settleRows p n d) := by
  induction n generalizing d with
  | zero => exact hd
  | succ n ih =>
    simp only [settleRows]
    split
    · exact ih (sound_applyOne hd)
    · exact hd

theorem sound_settleDue (hd : Sound d) : Sound (settleDue d) :=
  sound_settleRows hd

theorem sound_settleRow {uid x t : Nat} (hd : Sound d) : Sound (settleRow d uid x t) :=
  sound_settleRows hd

theorem sound_casRaise {c : CasCtx} {f : CasFail} (hd : Sound d) : Sound (casRaise d c f) :=
  sound_raise (sound_fset (sound_fset (sound_fset hd)))

theorem sound_casBusy {h t : Nat} (hd : Sound d) : Sound (casBusy d h t) :=
  sound_withCas hd

theorem sound_ldsIssue {c : CasCtx} {umask desc buf epv : Nat} (hd : Sound d) :
    SoundOk (ldsIssue d c umask desc buf epv) := by
  unfold ldsIssue
  split
  · trivial
  · extract_lets res resNow base us tl
    clear_value base
    split
    · trivial
    · split
      · trivial
      · split
        · split
          · exact hd
          · trivial
        · extract_lets test
          split
          · trivial
          · exact sound_casBusy (sound_foldl (sound_rvrTimed hd) fun _ _ he => sound_withCas he)

theorem sound_queueRows {c : CasCtx} {u bt acm : Nat} {cmp gp : Bool} {D : Nat} {due : Nat → Nat} {p : PassRows}
    (hd : Sound d) :
    Sound (queueRows d c u bt acm cmp gp D due p) :=
  sound_count (sound_casBusy (sound_withCas hd))

theorem sound_holdBuffer {uid buf till : Nat} (hd : Sound d) : Sound (holdBuffer d uid buf till) := by
  simp only [holdBuffer]
  split
  · exact sound_withCas hd
  · exact hd

theorem sound_shadowDraw {c : CasCtx} {o : SampleOp} {win : Nat → Bool → Nat → Nat → List (List FVal × FVal)}
    (hd : Sound d) : Sound (shadowDraw d c o win) := by
  unfold shadowDraw
  extract_lets smp n x ast e1 forced e2
  have h1 : Sound e1 := sound_withAst hd
  have h2 : Sound e2 := sound_count h1
  refine sound_ite hd (sound_ite h1 ?_)
  split
  · exact sound_ite (sound_count (sound_finc (sound_bankSample h2))) h2
  · exact sound_fset (sound_withAst h2)

theorem sound_mmIssue {c : CasCtx} {umask desc rowsm1 buf bt acm cmp gp pdt : Nat} (hd : Sound d) :
    SoundOk (mmIssue d c umask desc rowsm1 buf bt acm cmp gp pdt) := by
  simp only [mmIssue]
  split
  · exact trivial
  · split
    · exact trivial
    · split
      · exact trivial
      · split
        · exact trivial
        · split
          · exact trivial
          · split
            · exact trivial
            · exact sound_shadowDraw (sound_foldl (sound_rvrTimed hd) (fun _ _ hs => sound_reportEvents
                (sound_holdBuffer (sound_queueRows hs))))

theorem sound_opaIssue {c : CasCtx} {umask adesc bdesc rowsm1 bt acm cmp gp pdt : Nat} (hd : Sound d) :
    SoundOk (opaIssue d c umask adesc bdesc rowsm1 bt acm cmp gp pdt) := by
  simp only [opaIssue]
  split
  · exact trivial
  · exact trivial
  · split
    · exact trivial
    · split
      · exact trivial
      · split
        · exact trivial
        · split
          · exact trivial
          · exact sound_shadowDraw (sound_foldl (sound_rvrTimed hd) (fun _ _ hs => sound_reportEvents
              (sound_queueRows hs)))

theorem sound_twfIssue {c : CasCtx} {pmask gdesc xdesc rowsm1 buf ebt eacm obt oacm cmp : Nat} (hd : Sound d) :
    SoundOk (twfIssue d c pmask gdesc xdesc rowsm1 buf ebt eacm obt oacm cmp) := by
  simp only [twfIssue]
  split
  · exact trivial
  · exact trivial
  · split
    · exact trivial
    · split
      · exact trivial
      · split
        · exact trivial
        · split
          · exact trivial
          · exact sound_shadowDraw (sound_foldl (sound_rvrTimed hd) (fun _ _ hs => sound_reportEvents
              (sound_holdBuffer (sound_queueRows (sound_queueRows hs)))))

theorem sound_noteBctl {uid fn : Nat} (hd : Sound d) : Sound (noteBctl d uid fn) :=
  sound_withCas hd

theorem sound_setTiles {uid tmask st : Nat} {zero : Bool} (hd : Sound d) : Sound (setTiles d uid tmask st zero) :=
  sound_foldl hd (fun _ _ hs => sound_setTileState (sound_ite (sound_zeroTile hs) hs))

theorem sound_bctlUnit {c : CasCtx} {fn tmask u : Nat} (hd : Sound d) : Sound (bctlUnit d c fn tmask u) := by
  simp only [bctlUnit]
  split
  · exact sound_setTiles (sound_noteBctl hd)
  · exact sound_setTiles (sound_noteBctl hd)
  · exact sound_setLadder (sound_setTiles (sound_noteBctl hd))
  · split
    · exact hd
    · refine sound_withCas ?_
      refine sound_setTiles ?_
      refine sound_foldl ?_ (fun _ _ hs => sound_zeroTile hs)
      refine sound_noteBctl ?_
      refine sound_foldl hd ?_
      intro _ _ hs
      split
      · exact sound_ladFinishRow (sound_settleRow hs)
      · exact sound_settleRow hs

theorem sound_bctlIssue {c : CasCtx} {umask fn tmask : Nat} (hd : Sound d) :
    SoundOk (bctlIssue d c umask fn tmask) := by
  simp only [bctlIssue]
  split
  · exact trivial
  · split
    · exact trivial
    · exact sound_casBusy (sound_foldl hd (fun _ _ hs => sound_bctlUnit hs))

theorem sound_binIssue {c : CasCtx} {umask desc bt add : Nat} (hd : Sound d) :
    SoundOk (binIssue d c umask desc bt add) := by
  simp only [binIssue]
  split
  · exact trivial
  · split
    · exact trivial
    · split
      · exact trivial
      · exact sound_casBusy (sound_foldl (sound_rvrTimed hd) (fun _ _ hs1 => sound_foldl hs1
          (fun _ _ hs2 => sound_withCas (sound_reportEvents hs2))))

theorem sound_boutIssue {c : CasCtx} {umask desc bt rnd nfm gp : Nat} (hd : Sound d) :
    SoundOk (boutIssue d c umask desc bt rnd nfm gp) := by
  simp only [boutIssue]
  split
  · trivial
  next e _ =>
    split
    · trivial
    · split
      · trivial
      next ats _ =>
        have hkeep : ∀ {s : Dev × List Nat} {g : Dev → Nat × TileAt → Dev} {l : List (Nat × TileAt)}
            {old : List Host.Cell},
            Sound s.1 → (∀ d b, Sound d → Sound (g d b)) →
            Sound ((l.foldl g s.1).withMem (keepLines old (l.foldl g s.1).mem c.T s.2)) :=
          fun hs hg => sound_withMem (sound_foldl hs hg) (keepLines_wf _ _ (sound_foldl hs hg).mem)
        exact sound_casBusy (hkeep (sound_rvrTimed hd) fun _ p he => sound_foldl he fun _ x he =>
          sound_reportEvents (sound_withMem (sound_settleRow he) (storeRow_wf _ _ _ _ (sound_settleRow he).mem)))

theorem sound_rootIssue {c : CasCtx} {umask desc nt pc nit gp : Nat} (hd : Sound d) :
    SoundOk (rootIssue d c umask desc nt pc nit gp) := by
  simp only [rootIssue]
  split
  · exact trivial
  · split
    · exact trivial
    · split
      · exact trivial
      · split
        · exact trivial
        · split
          · exact trivial
          · split
            · exact trivial
            · split
              · exact trivial
              · split
                · exact trivial
                · exact sound_casBusy (sound_reportEvents (sound_withCas hd))

theorem sound_rootComplete {T : Nat} (hd : Sound d) : Sound (rootComplete d T) := by
  unfold rootComplete
  split
  · exact hd
  next run _ =>
    have ht : Sound (tick d run.ends) := sound_tick hd
    simp only []
    split
    · refine sound_withCas (sound_withMem ht (memWrite_wf _ _ _ ?_))
      split
      · exact matStore_wf _ _ ht.mem
      · exact ht.mem
    · refine sound_casRaise (sound_count (sound_withCas (sound_withMem ht (memWrite_wf _ _ _ ?_))))
      split
      · exact matStore_wf _ _ ht.mem
      · exact ht.mem

theorem sound_windowSet {a : Nat} {v : Byte} (hd : Sound d) : Sound (windowSet d a v) :=
  sound_withCas hd

theorem sound_basinBusy {a : Nat} (hd : Sound d) : Sound (basinBusy d a) :=
  sound_raise (sound_fset (sound_fset (sound_fset hd)))

theorem sound_windowWrite {a : Nat} {bs : List Byte} (hd : Sound d) : Sound (windowWrite d a bs) :=
  sound_foldl (sound_foldl (sound_settleDue hd) (fun _ _ hs1 => sound_ite hs1 (sound_windowSet hs1)))
    (fun _ _ hs2 => sound_basinBusy hs2)

theorem sound_jetStore {a : Nat} {bs : List Byte} (hd : Sound d) : Sound (jetStore d a bs) :=
  sound_ite (sound_windowWrite hd) (sound_withMem hd (memWrite_wf _ _ _ hd.mem))

theorem sound_jetLand {l : JetLand} (hd : Sound d) : Sound (jetLand d l) := by
  simp only [jetLand]
  refine sound_foldl ?_ (fun _ _ hs => sound_jetStore hs)
  split
  · refine sound_fset ?_
    refine sound_withJet ?_
    split
    · exact sound_withJet hd
    · exact hd
  · split
    · exact sound_withJet hd
    · exact hd

theorem sound_settleLands {n : Nat} (hd : Sound d) : Sound (settleLands n d) := by
  induction n generalizing d with
  | zero => exact hd
  | succ n ih =>
    simp only [settleLands]
    split
    · exact hd
    · split
      · exact hd
      · exact ih (sound_jetLand (sound_withJet hd))

theorem sound_settle (hd : Sound d) : Sound (settle d) :=
  sound_settleDue (sound_settleLands (sound_settleDue hd))

theorem sound_casOp {c : CasCtx} {op : CasOp} (hd : Sound d) : SoundOk (casOp d c op) := by
  unfold casOp
  split
  · split
    · exact trivial
    · exact sound_ldsIssue hd
  · split
    · exact trivial
    · exact sound_mmIssue hd
  · split
    · exact trivial
    · exact sound_opaIssue hd
  · split
    · exact trivial
    · exact sound_twfIssue hd
  · split
    · exact trivial
    · exact sound_bctlIssue hd
  · split
    · exact trivial
    · exact sound_binIssue hd
  · split
    · exact trivial
    · exact sound_boutIssue hd
  · split
    · exact trivial
    · exact sound_rootIssue hd

theorem sound_casIssue {iss : Issue} {terr : Nat} {op : CasOp} (hd : Sound d) : Sound (casIssue d iss terr op) := by
  unfold casIssue
  extract_lets e1 h c e2 rooted
  have h2 : Sound e2 := sound_count (sound_settle (sound_tick hd))
  refine sound_ite (sound_casRaise h2) (sound_ite (sound_casRaise h2) ?_)
  split
  next e he => exact sound_ok he (sound_casOp (sound_ite (sound_rootComplete h2) h2))
  next f _ => exact sound_casRaise h2

theorem sound_casIllegal {iss : Issue} {terr word : Nat} (hd : Sound d) : Sound (casIllegal d iss terr word) :=
  sound_casRaise (sound_tick hd)

theorem sound_rowApply {uid : Nat} (hd : Sound d) : Sound (rowApply d uid) := by
  unfold rowApply
  split
  · exact hd
  · exact sound_applyOne (sound_tick hd)

/-! ### The jets -/

theorem sound_landReg {T r due : Nat} {bs : List Byte} (hd : Sound d) : Sound (landReg d T r due bs) :=
  sound_withJet hd

theorem sound_jetRaise {c : CasCtx} {f : JetFail} (hd : Sound d) : Sound (jetRaise d c f) :=
  sound_raise (sound_fset (sound_fset hd))

theorem sound_jetBusy {h t : Nat} (hd : Sound d) : Sound (jetBusy d h t) :=
  sound_withJet hd

theorem sound_takePort {c : CasCtx} {hold : Nat} (hd : Sound d) : SoundOk (takePort d c hold) := by
  simp only [takePort]
  split
  · exact trivial
  · exact sound_count (sound_withJet hd)

theorem sound_jetLines {c : CasCtx} {hold : Nat} {runs : List (Nat × Nat)} (hd : Sound d) :
    Sound (jetLines d c hold runs).1 :=
  sound_rvrTimed hd

theorem sound_jldIssue {c : CasCtx} {vd desc rg w rnd nfm : Nat} (hd : Sound d) :
    SoundOk (jldIssue d c vd desc rg w rnd nfm) := by
  simp only [jldIssue]
  split
  · exact trivial
  · split
    · exact trivial
    · split
      · exact trivial
      · split
        · exact trivial
        · next ha =>
            exact sound_jetBusy (sound_landReg (sound_reportEvents (sound_jetLines (sound_ok ha
              (sound_takePort hd)))))

theorem sound_jstIssue {c : CasCtx} {vs desc rg w rnd nfm gp : Nat} (hd : Sound d) :
    SoundOk (jstIssue d c vs desc rg w rnd nfm gp) := by
  simp only [jstIssue]
  split
  · exact trivial
  · split
    · exact trivial
    · split
      · exact trivial
      · split
        · exact trivial
        · next ha =>
            exact sound_jetBusy (sound_withJet (sound_reportEvents (sound_jetLines (sound_ok ha
              (sound_takePort hd)))))

theorem sound_aluIssue {c : CasCtx} {vd va vb vc fn w gp : Nat} (hd : Sound d) :
    SoundOk (aluIssue d c vd va vb vc fn w gp) := by
  simp only [aluIssue]
  split
  · exact trivial
  · exact sound_jetBusy (sound_landReg (sound_ite (sound_reportEvents hd) hd))

theorem sound_cvtIssue {c : CasCtx} {vd va ws wd rnd nfm gp : Nat} (hd : Sound d) :
    SoundOk (cvtIssue d c vd va ws wd rnd nfm gp) := by
  simp only [cvtIssue]
  split
  · exact trivial
  · exact sound_jetBusy (sound_landReg (sound_reportEvents hd))

theorem sound_tabIssue {c : CasCtx} {vd va tsel gp : Nat} (hd : Sound d) :
    SoundOk (tabIssue d c vd va tsel gp) := by
  simp only [tabIssue]
  split
  · exact trivial
  · exact sound_jetBusy (sound_landReg (sound_ite (sound_reportEvents hd) hd))

theorem sound_derIssue {c : CasCtx} {vd vx vg : Nat} (hd : Sound d) : SoundOk (derIssue d c vd vx vg) :=
  sound_jetBusy (sound_landReg (sound_reportEvents hd))

theorem sound_tldIssue {c : CasCtx} {tgt desc : Nat} (hd : Sound d) : SoundOk (tldIssue d c tgt desc) := by
  have hl : ∀ e runs, Sound e → Sound (jetLines e c 6 runs).1 := fun _ _ h => sound_jetLines h
  rw [tldIssue]
  generalize jetLines = lines at hl ⊢
  induction lines using forEvery with
  | h lines =>
    split
    · trivial
    · split
      · trivial
      · split
        · trivial
        next a _ =>
          extract_lets bs0 ex
          split
          · trivial
          · split
            · trivial
            next e he =>
              split
              next f bad hf =>
                exact sound_jetBusy (sound_withJet (sound_fst hf (hl _ _ (sound_ok he (sound_takePort hd)))))

theorem sound_setRowState {T bank r : Nat} {p : FVal × FVal} (hd : Sound d) : Sound (setRowState d T bank r p) :=
  sound_withJet hd

theorem sound_setGroupKind {T bank g rk : Nat} (hd : Sound d) : Sound (setGroupKind d T bank g rk) :=
  sound_withJet hd

theorem sound_redIssue {c : CasCtx} {va vb bank rg rk init gp : Nat} (hd : Sound d) :
    SoundOk (redIssue d c va vb bank rg rk init gp) := by
  unfold redIssue
  split
  · trivial
  · split
    · trivial
    · extract_lets as bs e
      split
      next f ev hf =>
        have hs : Sound f := sound_fst hf (sound_foldl_fst (sound_setGroupKind hd) fun _ _ hs => sound_setRowState hs)
        exact sound_jetBusy (sound_reportEvents hs)

theorem sound_rsrIssue {c : CasCtx} {vd bank rg what : Nat} (hd : Sound d) :
    SoundOk (rsrIssue d c vd bank rg what) :=
  sound_jetBusy (sound_landReg (sound_reportEvents hd))

theorem sound_rsldIssue {c : CasCtx} {bank rg desc rk mrg gp : Nat} (hd : Sound d) :
    SoundOk (rsldIssue d c bank rg desc rk mrg gp) := by
  have hl : ∀ e runs, Sound e → Sound (jetLines e c 2 runs).1 := fun _ _ h => sound_jetLines h
  rw [rsldIssue]
  generalize jetLines = lines at hl ⊢
  induction lines using forEvery with
  | h lines =>
    split
    · trivial
    · split
      · trivial
      · split
        · trivial
        · split
          · trivial
          next e he =>
            have hp : Sound e := sound_ok he (sound_takePort hd)
            split
            next f bad hf =>
              have hs : Sound f := sound_fst hf (hl e _ hp)
              extract_lets m g v
              split
              next k ev hk =>
                have hr : Sound k := sound_fst hk (sound_foldl_fst (sound_setGroupKind hs)
                  fun _ _ hs => sound_setRowState hs)
                exact sound_jetBusy (sound_reportEvents hr)

theorem sound_rsstIssue {c : CasCtx} {bank rg desc : Nat} (hd : Sound d) : SoundOk (rsstIssue d c bank rg desc) := by
  have hl : ∀ e runs, Sound e → Sound (jetLines e c 2 runs).1 := fun _ _ h => sound_jetLines h
  rw [rsstIssue]
  generalize jetLines = lines at hl ⊢
  induction lines using forEvery with
  | h lines =>
    split
    · trivial
    · split
      · trivial
      next e he =>
        split
        next f bad hf =>
          exact sound_jetBusy (sound_withJet (sound_fst hf (hl _ _ (sound_ok he (sound_takePort hd)))))

theorem sound_tsumIssue {c : CasCtx} {vd desc rg nb gp : Nat} (hd : Sound d) :
    SoundOk (tsumIssue d c vd desc rg nb gp) := by
  simp only [tsumIssue]
  split
  · exact trivial
  · split
    · exact trivial
    · split
      · exact trivial
      · split
        · exact trivial
        · next ha =>
            exact sound_jetBusy (sound_landReg (sound_reportEvents (sound_jetLines (sound_ok ha
              (sound_takePort hd)))))

theorem sound_jetOp {c : CasCtx} {op : JetOp} (hd : Sound d) : SoundOk (jetOp d c op) := by
  unfold jetOp
  split
  · exact sound_jldIssue hd
  · exact sound_jstIssue hd
  · exact sound_aluIssue hd
  · exact sound_cvtIssue hd
  · exact sound_tabIssue hd
  · exact sound_derIssue hd
  · exact sound_redIssue hd
  · exact sound_rsrIssue hd
  · exact sound_rsldIssue hd
  · exact sound_rsstIssue hd
  · exact sound_tldIssue hd
  · exact sound_tsumIssue hd

theorem sound_jetIssue {iss : Issue} {terr : Nat} {op : JetOp} (hd : Sound d) : Sound (jetIssue d iss terr op) := by
  simp only [jetIssue]
  split
  · exact sound_jetRaise (sound_count (sound_settle (sound_tick hd)))
  · split
    · next ha =>
        exact sound_ok ha (sound_jetOp (sound_count (sound_settle (sound_tick hd))))
    · exact sound_jetRaise (sound_count (sound_settle (sound_tick hd)))

theorem sound_jetIllegal {iss : Issue} {terr word : Nat} (hd : Sound d) : Sound (jetIllegal d iss terr word) :=
  sound_jetRaise (sound_tick hd)

end

end Sys2Proof.Machine
end

section
/-! PROOFS. The memories stay canonical: memory, capture, links as seen from the units, and the rills. -/

namespace Sys2Proof.Machine

section
variable {d : Dev}

/-! ### Memory and pools -/

theorem sound_memRaise {number sev half detail : Nat} (hd : Sound d) : Sound (memRaise d number sev half detail) :=
  sound_raise hd

theorem sound_memCorrected {src number half detail : Nat} (hd : Sound d) :
    Sound (memCorrected d src number half detail) :=
  sound_ite hd (sound_memRaise (sound_withMs hd))

theorem sound_nvWrite {off : Nat} {bs : List Byte} (hd : Sound d) : Sound (nvWrite d off bs) := by
  have hw := memWrite_wf d.nvNext off bs hd.nvNext
  exact sound_ite (sound_withNvNext hd hw) (sound_withNvNext (sound_withNv hd hw) hw)

theorem sound_repairSeal (hd : Sound d) : Sound (repairSeal d) :=
  sound_nvWrite hd

theorem sound_repairAppend {row state : Nat} (hd : Sound d) : Sound (repairAppend d row state) :=
  sound_ite (sound_fincSat (sound_repairSeal (sound_nvWrite (sound_nvWrite hd)))) (sound_repairSeal (sound_nvWrite
    (sound_nvWrite hd)))

theorem sound_repairBad {ch : Nat} (hd : Sound d) : Sound (repairBad d ch) :=
  sound_repairSeal (sound_nvWrite hd)

theorem sound_stkRaise {number sev ch a : Nat} (hd : Sound d) : Sound (stkRaise d number sev ch a) :=
  sound_memRaise (sound_fset (sound_fset (sound_fset (sound_fset hd))))

theorem sound_stkChfail {ch : Nat} (hd : Sound d) : Sound (stkChfail d ch) :=
  sound_ite hd (sound_stkRaise (sound_repairBad (sound_withMs hd)))

theorem sound_remapDefer {row : Nat} (hd : Sound d) : Sound (remapDefer d row) :=
  sound_memRaise (sound_repairAppend hd)

theorem sound_remapCandidate {row : Nat} (hd : Sound d) : Sound (remapCandidate d row) :=
  sound_ite hd (sound_ite (sound_withMs hd) (sound_remapDefer hd))

theorem sound_stkCorrected {a row : Nat} (hd : Sound d) : Sound (stkCorrected d a row) :=
  sound_ite (sound_remapCandidate (sound_withMs (sound_memCorrected (sound_count (sound_fincSat hd)))))
    (sound_withMs (sound_memCorrected (sound_count (sound_fincSat hd))))

theorem sound_stkUe {a row : Nat} (hd : Sound d) : Sound (stkUe d a row) :=
  sound_ite (sound_stkRaise (sound_fincSat hd)) (sound_ite (sound_stkChfail (sound_repairAppend (sound_withMs
    (sound_stkRaise (sound_fincSat hd))))) (sound_repairAppend (sound_withMs (sound_stkRaise (sound_fincSat hd)))))

theorem sound_markTouch {a n : Nat} (hd : Sound d) : Sound (markTouch d a n) :=
  sound_foldl hd fun _ _ he => sound_stkUe (sound_withMem he (memWrite_wf _ _ _ he.mem))

theorem sound_markClear {a n : Nat} (hd : Sound d) : Sound (markClear d a n) :=
  sound_withMs hd

theorem sound_setPool {h : Nat} {p : Pool} (hd : Sound d) : Sound (setPool d h p) :=
  sound_fset (sound_withMs hd)

theorem sound_underClear {a n : Nat} (hd : Sound d) : Sound (underClear d a n) :=
  sound_withMs hd

theorem sound_lineBack {h line : Nat} (hd : Sound d) : Sound (lineBack d h line) :=
  sound_markClear (sound_underClear (sound_count (sound_count hd)))

theorem sound_evict {h line : Nat} (hd : Sound d) : Sound (evict d h line) :=
  sound_setPool (sound_ite (sound_lineBack hd) hd)

theorem sound_poolTouch {line : Nat} {write fill : Bool} (hd : Sound d) : Sound (poolTouch d line write fill) := by
  simp only [poolTouch]
  split
  · exact sound_count (sound_setPool hd)
  · refine sound_count ?_
    refine sound_setPool ?_
    split
    · refine sound_markTouch ?_
      refine sound_count ?_
      split
      · exact sound_evict hd
      · exact hd
    · split
      · exact sound_evict hd
      · exact hd

theorem sound_countQueued {a n : Nat} (hd : Sound d) : Sound (countQueued d a n) := by
  simp only [countQueued]
  split
  · exact sound_count (sound_count (sound_withMs hd))
  · exact hd

theorem sound_poolWrite {a : Nat} {bs : List Byte} (hd : Sound d) : Sound (poolWrite d a bs) := by
  unfold poolWrite
  extract_lets e under
  have he : Sound e := sound_foldl hd fun _ _ he => sound_poolTouch he
  exact sound_withMs (sound_withMem he (memWrite_wf _ _ _ he.mem))

theorem sound_ctlWrite {a : Nat} {bs : List Byte} (hd : Sound d) : Sound (ctlWrite d a bs) := by
  unfold ctlWrite
  extract_lets e
  have he : Sound e := sound_ite (sound_count hd) hd
  exact sound_markClear (sound_underClear (sound_withMem he (memWrite_wf _ _ _ he.mem)))

theorem sound_ctlTouch {a n : Nat} (hd : Sound d) : Sound (ctlTouch d a n) :=
  sound_ite (sound_markTouch (sound_count hd)) hd

theorem sound_qRead {a n : Nat} (hd : Sound d) : Sound (qRead d a n).1 := by
  simp only [qRead]
  split
  · exact hd
  · split
    · exact sound_foldl hd (fun _ _ hs => sound_poolTouch hs)
    · split
      · exact sound_countQueued hd
      · split
        · exact sound_settleDue hd
        · split
          · exact hd
          · exact hd

theorem sound_qWrite {a : Nat} {bs : List Byte} (hd : Sound d) : Sound (qWrite d a bs).1 := by
  unfold qWrite
  split
  · exact hd
  · split
    · exact sound_poolWrite hd
    · split
      · exact sound_countQueued (sound_withMem hd (memWrite_wf _ _ _ hd.mem))
      · split
        · exact sound_windowWrite hd
        · exact hd

theorem sound_qGet {a n : Nat} (hd : Sound d) : Sound (qGet d a n).1 :=
  sound_qRead hd

theorem sound_qPut {a : Nat} {bs : List Byte} (hd : Sound d) : Sound (qPut d a bs) :=
  sound_qWrite hd

theorem sound_eccApply {read : Bool} {e : Ecc} (hd : Sound d) : Sound (eccApply d read e).1 := by
  unfold eccApply
  split
  · extract_lets
    split
    · exact sound_memCorrected (sound_fincSat hd)
    · dsimp only
      exact sound_memRaise (sound_fset (sound_fset (sound_fset (sound_fset (sound_fincSat hd)))))
  · split
    · exact hd
    · split
      · extract_lets
        split
        · exact hd
        · split
          · exact sound_memCorrected (sound_fincSat hd)
          · have hp : ∀ a f k, Sound (fincSat d a f k) := fun a f k => sound_fincSat hd
            split
            · exact sound_memCorrected (sound_poolTouch (sound_setPool (hp _ _ _)))
            · dsimp only
              exact sound_memRaise (sound_fset (sound_fset (sound_setPool
                (sound_underClear (sound_withMem (hp _ _ _) (foldl_memSet_wf _ (hp _ _ _).mem))))))
      · split
        · exact sound_stkCorrected hd
        · split
          · exact sound_stkUe hd
          · exact hd

theorem sound_eccAll {read : Bool} {a n : Nat} {es : List Ecc} (hd : Sound d) : Sound (eccAll d read a n es).1 :=
  sound_foldl_fst hd fun _ _ hs => sound_eccApply hs

theorem sound_memRequest {a : Nat} {r : MemReq} {es : List Ecc} (hd : Sound d) : Sound (memRequest d a r es).1 := by
  unfold memRequest
  split
  · split
    · next ha =>
        exact sound_fst ha (sound_qRead hd)
    · next hb =>
        split
        · next hc =>
            exact sound_fst hc (sound_eccAll (sound_fst hb (sound_qRead hd)))
  · split
    · next he =>
        split
        · next hf =>
            exact sound_fst hf (sound_qWrite (sound_fst he (sound_eccAll hd)))
        · next hg =>
            exact sound_fst hg (sound_qWrite (sound_fst he (sound_eccAll hd)))

theorem sound_poolAtomic {a atop : Nat} {bs : List Byte} {gp : Bool} {step : Nat} (hd : Sound d) :
    Sound (poolAtomic d a atop bs gp step).1 := by
  simp only [poolAtomic]
  split
  · exact hd
  · split
    · exact hd
    · exact sound_reportEvents (sound_count (sound_poolWrite (sound_foldl hd (fun _ _ hs => sound_poolTouch hs))))

theorem sound_poolAsk {h ask : Nat} (hd : Sound d) : Sound (poolAsk d h ask) :=
  sound_fset (sound_setPool hd)

theorem sound_poolBack {h : Nat} (hd : Sound d) : Sound (poolBack d h) :=
  sound_ite hd (sound_fset (sound_setPool (sound_foldl hd (fun _ _ hs => sound_lineBack hs))))

theorem sound_patrolScrub {h : Nat} {found : List Ecc} (hd : Sound d) : Sound (patrolScrub d h found) :=
  sound_ite hd (sound_withMs (sound_foldl hd (fun _ _ hs => sound_ite (sound_stkCorrected hs) (sound_repairAppend
    (sound_withMs (sound_stkRaise (sound_fincSat hs)))))))

theorem sound_rowRemap {h : Nat} {fits : Bool} (hd : Sound d) : Sound (rowRemap d h fits) := by
  simp only [rowRemap]
  split
  · exact hd
  · split
    · exact hd
    · exact sound_ite (sound_memRaise (sound_repairAppend (sound_fincSat (sound_fset (sound_withMs (sound_count
        (sound_withMs (sound_withMs hd)))))))) (sound_remapDefer (sound_withMs hd))

theorem sound_brgFatal {dir lane : Nat} (hd : Sound d) : Sound (brgFatal d dir lane) :=
  sound_memRaise (sound_fset (sound_fset (sound_fset hd)))

theorem sound_brgFlit {dir lane : Nat} {good : Bool} (hd : Sound d) : Sound (brgFlit d dir lane good) := by
  unfold brgFlit
  extract_lets k x put e1 e2 m n e3 e4 e5
  have h1 : Sound e1 := sound_count (sound_withMs hd)
  have h2 : Sound e2 := sound_fset (sound_fset hd)
  have h5 : Sound e5 := sound_memCorrected (sound_fset (sound_count (sound_fincSat (sound_withMs h2))))
  exact sound_ite hd (sound_ite (sound_ite (sound_fincSat h1) h1)
    (sound_ite (sound_brgFatal (sound_withMs h2)) (sound_ite (sound_brgFatal h5) h5)))

/-! ### Capture -/

theorem sound_tstRaise {number sev detail : Nat} (hd : Sound d) : Sound (tstRaise d number sev detail) :=
  sound_raise (sound_fset hd)

theorem sound_capEnd {code : Nat} (hd : Sound d) : Sound (capEnd d code) :=
  sound_tstRaise (sound_fset (sound_fset (sound_fset hd)))

theorem sound_capLog {kind src key : Nat} {data : List Byte} (hd : Sound d) : Sound (capLog d kind src key data) :=
  sound_ite hd (sound_ite (sound_capEnd hd) (sound_fset (sound_withTst (sound_ctlWrite hd))))

theorem sound_capMsg {p : Nat} {m : Msg} (hd : Sound d) : Sound (capMsg d p m) :=
  sound_ite hd (sound_capLog hd)

theorem sound_outDiffers {num : Nat} (hd : Sound d) : Sound (outDiffers d num) :=
  sound_ite (sound_tstRaise (sound_fincSat hd)) (sound_fincSat hd)

theorem sound_outNote {dst kind : Nat} {bs : List Byte} (hd : Sound d) : Sound (outNote d dst kind bs) := by
  simp only [outNote]
  split
  · split
    · exact sound_outDiffers hd
    · exact sound_ite (sound_withTst hd) (sound_outDiffers (sound_withTst hd))
  · exact sound_ite (sound_capLog hd) hd

theorem sound_outMsg {m : Msg} (hd : Sound d) : Sound (outMsg d m) :=
  sound_ite hd (sound_outNote hd)

/-! ### Links -/

theorem sound_setPort {p : Nat} {x : Port} (hd : Sound d) : Sound (setPort d p x) :=
  sound_withPorts hd

theorem sound_modPort {p : Nat} {f : Port → Port} (hd : Sound d) : Sound (modPort d p f) :=
  sound_setPort hd

theorem sound_hrmRaise {p number sev epoch cause mask vc dropped : Nat} (hd : Sound d) :
    Sound (hrmRaise d p number sev epoch cause mask vc dropped) :=
  sound_raise (sound_fset hd)

theorem sound_hrmNote {p number sev : Nat} (hd : Sound d) : Sound (hrmNote d p number sev) :=
  sound_hrmRaise hd

theorem sound_dropCount {p : Nat} {f : Fld} {k : Nat} (hd : Sound d) : Sound (dropCount d p f k) :=
  sound_fincSat hd

theorem sound_rilRaise {number sev ctx : Nat} {op spc strand half port value : Nat} (hd : Sound d) :
    Sound (rilRaise d number sev ctx op spc strand half port value) :=
  sound_raise (sound_fset (sound_fset (sound_fset hd)))

theorem sound_rilEvent {number sev ctx value : Nat} (hd : Sound d) : Sound (rilEvent d number sev ctx value) :=
  sound_rilRaise hd

theorem sound_aqdShow {h c : Nat} (hd : Sound d) : Sound (aqdShow d h c) :=
  sound_ite (sound_fset hd) (sound_govSet (sound_fset hd))

theorem sound_aqdIssued {h c k : Nat} (hd : Sound d) : Sound (aqdIssued d h c k) :=
  sound_aqdShow (sound_finc hd)

theorem sound_aqdCompleted {h c k : Nat} (hd : Sound d) : Sound (aqdCompleted d h c k) :=
  sound_aqdShow (sound_finc hd)

theorem sound_aqdDiscarded {h c k : Nat} (hd : Sound d) : Sound (aqdDiscarded d h c k) :=
  sound_aqdShow (sound_finc hd)

theorem sound_setChan {h c : Nat} {l : List Xfer} (hd : Sound d) : Sound (setChan d h c l) :=
  sound_withAqd hd

theorem sound_aqdRaise {number sev h c : Nat} {op spc strand detail : Nat} (hd : Sound d) :
    Sound (aqdRaise d number sev h c op spc strand detail) :=
  sound_raise (sound_fset (sound_fset (sound_fset hd)))

theorem sound_xferStop {h c serial : Nat} (hd : Sound d) : Sound (xferStop d h c serial) :=
  sound_aqdDiscarded (sound_ite (sound_setChan hd) (sound_setChan hd))

theorem sound_xferFail {h c serial number sev detail : Nat} (hd : Sound d) :
    Sound (xferFail d h c serial number sev detail) := by
  simp only [xferFail]
  split
  · exact hd
  · exact sound_ite (sound_raiseAbort (sound_post (sound_fset (sound_fset (sound_fset (sound_xferStop hd))))))
      (sound_raise (sound_fset (sound_fset (sound_fset (sound_xferStop hd)))))

theorem sound_colRaise {number sev cid detail : Nat} (hd : Sound d) : Sound (colRaise d number sev cid detail) :=
  sound_raise (sound_fset (sound_fset hd))

theorem sound_setColls {l : List Coll} (hd : Sound d) : Sound (setColls d l) :=
  sound_fset (sound_withMach hd)

theorem sound_collFail {cid low chip : Nat} (hd : Sound d) : Sound (collFail d cid low chip) := by
  simp only [collFail]
  split
  · exact hd
  · exact sound_colRaise (sound_countPkg (sound_aqdDiscarded (sound_withMach (sound_setColls hd))))

theorem sound_permEnd {val : Nat} (hd : Sound d) : Sound (permEnd d val) :=
  sound_ite (sound_ite (sound_countPkg (sound_aqdCompleted (sound_withMach hd))) (sound_countPkg
    (sound_aqdDiscarded (sound_withMach hd)))) hd

theorem sound_reqFail {r : Req} (hd : Sound d) : Sound (reqFail d r) :=
  sound_xferFail (sound_withAqd hd)

theorem sound_enqueue {p : Nat} {m : Msg} {ctx : Option Nat} (hd : Sound d) : Sound (enqueue d p m ctx) :=
  sound_modPort hd

theorem sound_sendSynthetic {m : Msg} (hd : Sound d) : Sound (sendSynthetic d m) := by
  simp only [sendSynthetic]
  split
  · exact sound_ite hd (sound_modPort hd)
  · split
    · exact sound_outMsg hd
    · split
      · exact sound_modPort (sound_outMsg hd)
      · split
        · exact sound_dropCount (sound_outMsg hd)
        · exact sound_ite (sound_enqueue (sound_outMsg hd)) (sound_dropCount (sound_outMsg hd))

theorem sound_tellOwner {p epoch : Nat} {m : Msg} (hd : Sound d) : Sound (tellOwner d p epoch m) := by
  simp only [tellOwner]
  split
  · exact sound_ite (sound_ite (sound_permEnd (sound_dropCount hd)) (sound_collFail (sound_dropCount hd)))
      (sound_dropCount hd)
  · split
    · split
      · exact sound_reqFail (sound_dropCount hd)
      · exact sound_dropCount hd
    · exact sound_sendSynthetic (sound_dropCount hd)
  · split
    · split
      · exact sound_reqFail (sound_dropCount hd)
      · exact sound_dropCount hd
    · exact sound_sendSynthetic (sound_dropCount hd)
  · exact sound_sendSynthetic (sound_dropCount hd)
  · exact sound_sendSynthetic (sound_dropCount hd)
  · exact sound_dropCount hd

theorem sound_dropAll {p epoch cause : Nat} {ms : List (Msg × Option Nat)} (hd : Sound d) :
    Sound (dropAll d p epoch cause ms) :=
  sound_ite (sound_hrmRaise (sound_foldl (sound_foldl hd (fun _ _ hs1 => sound_tellOwner hs1))
    (fun _ _ hs2 => sound_rilEvent hs2))) (sound_foldl (sound_foldl hd (fun _ _ hs3 => sound_tellOwner hs3))
    (fun _ _ hs4 => sound_rilEvent hs4))

theorem sound_sendBy {p : Nat} {m : Msg} {ctx : Option Nat} (hd : Sound d) : Sound (sendBy d p m ctx) :=
  sound_ite (sound_ite (sound_outMsg hd) hd) (sound_ite (sound_enqueue (sound_ite (sound_outMsg hd) hd))
    (sound_dropAll (sound_ite (sound_outMsg hd) hd)))

theorem sound_sendMsg {m : Msg} (hd : Sound d) : Sound (sendMsg d m) := by
  simp only [sendMsg]
  split
  · exact sound_modPort hd
  · split
    · exact sound_sendBy hd
    · split
      · split
        · exact sound_reqFail (sound_hrmRaise hd)
        · exact sound_hrmRaise hd
      · exact sound_hrmRaise hd

theorem sound_freeFlits {p vc n : Nat} (hd : Sound d) : Sound (freeFlits d p vc n) := by
  simp only [freeFlits]
  exact sound_modPort (sound_fset hd)

theorem sound_takeInbox {p : Nat} {m : Msg} (hd : Sound d) : Sound (takeInbox d p m) :=
  sound_ite (sound_ite (sound_freeFlits (sound_setPort hd)) (sound_setPort hd)) (sound_modPort hd)

theorem sound_staleNote {p : Nat} (hd : Sound d) : Sound (staleNote d p) := by
  simp only [staleNote]
  exact sound_ite (sound_countPkg (sound_dropCount hd)) (sound_hrmNote (sound_modPort (sound_countPkg
    (sound_dropCount hd))))

/-! ### The rills -/

theorem sound_rilShow {n : Nat} (hd : Sound d) : Sound (rilShow d n) :=
  sound_ite (sound_ite hd (sound_govSet hd)) (sound_govSet (sound_ite hd (sound_govSet hd)))

theorem sound_noteSlab {n slab : Nat} {last : Bool} (hd : Sound d) : Sound (noteSlab d n slab last) :=
  sound_ite (sound_finc (sound_fset hd)) (sound_fset hd)

theorem sound_endList (hd : Sound d) : Sound (endList d) :=
  sound_withMach hd

theorem sound_colArm {n : Nat} (hd : Sound d) : Sound (colArm n d) := by
  induction n generalizing d with
  | zero => exact hd
  | succ n ih =>
    simp only [colArm]
    split
    · exact hd
    · split
      · exact hd
      · exact sound_ite hd (sound_ite (sound_colRaise (sound_endList hd)) (sound_ite (sound_colRaise
          (sound_endList hd)) (ih (sound_aqdIssued (sound_withMach hd)))))

theorem sound_waitOver {q : Nat} (hd : Sound d) : Sound (waitOver d q) :=
  sound_withRil hd

theorem sound_setRilQueue {q : Nat} {l : List RilCmd} (hd : Sound d) : Sound (setRilQueue d q l) :=
  sound_ite (sound_withRil (sound_ite hd (sound_waitOver hd))) (sound_govSet (sound_withRil (sound_ite hd
    (sound_waitOver hd))))

theorem sound_rilFail {q : Nat} {c : RilCmd} {number sev value : Nat} (hd : Sound d) :
    Sound (rilFail d q c number sev value) :=
  sound_rilRaise hd

theorem sound_rilSend {n : Nat} {m : Msg} (hd : Sound d) : Sound (rilSend d n m) :=
  sound_sendBy hd

theorem sound_execSendCmd {q n : Nat} {c : RilCmd} (hd : Sound d) : SoundDone (execSendCmd d q n c) := by
  simp only [execSendCmd]
  split
  · exact sound_rilFail hd
  · split
    · exact trivial
    · split
      · exact sound_rilFail hd
      · exact sound_rilSend (sound_noteSlab (sound_withRil (sound_qGet hd)))

theorem sound_landCommit {e : RilCross} (hd : Sound d) : Sound (landCommit d e) :=
  sound_withNow (sound_rilShow (sound_finc (sound_finc (sound_qPut (sound_withNow hd)))))

theorem sound_landCommits (hd : Sound d) : Sound (landCommits d) :=
  sound_foldl (sound_withRil hd) (fun _ _ hs => sound_landCommit hs)

theorem sound_execCommitCmd {q n : Nat} {c : RilCmd} (hd : Sound d) : SoundDone (execCommitCmd d q n c) := by
  simp only [execCommitCmd]
  split
  · exact trivial
  · split
    · exact sound_rilFail hd
    · split
      · exact sound_noteSlab (sound_withRil hd)
      · exact sound_rilShow (sound_noteSlab (sound_finc (sound_finc (sound_qPut hd))))

theorem sound_execReleaseCmd {q n : Nat} {c : RilCmd} (hd : Sound d) : SoundDone (execReleaseCmd d q n c) := by
  simp only [execReleaseCmd]
  split
  · exact sound_rilFail hd
  · split
    · exact sound_rilSend (sound_withRil (sound_rilShow (sound_finc hd)))
    · exact sound_rilShow (sound_finc hd)

theorem sound_rilFixPort {q n : Nat} {rel : Bool} (hd : Sound d) : Sound (rilFixPort d q n rel) :=
  sound_ite (sound_withRil hd) (sound_withRil hd)

theorem sound_rilHead {q : Nat} {c : RilCmd} (hd : Sound d) : SoundDone (rilHead d q c) := by
  simp only [rilHead]
  split
  · exact sound_rilFail hd
  · split
    · exact hd
    · split
      · split
        · exact sound_rilFail hd
        · split
          · exact sound_rilFail hd
          · exact sound_execSendCmd (sound_rilFixPort hd)
      · split
        · exact sound_rilFail hd
        · split
          · exact sound_rilFail hd
          · exact sound_execCommitCmd (sound_rilFixPort hd)
      · split
        · exact sound_rilFail hd
        · split
          · exact sound_rilFail hd
          · exact sound_execReleaseCmd (sound_rilFixPort hd)

theorem sound_rilPump {q : Nat} {n : Nat} (hd : Sound d) : Sound (rilPump q n d) := by
  induction n generalizing d with
  | zero => exact hd
  | succ n ih =>
    simp only [rilPump]
    split
    · exact hd
    · split
      · exact sound_ite (sound_withRil hd) hd
      · next ha =>
          exact ih (sound_setRilQueue (sound_waitOver (sound_done ha (sound_rilHead hd))))

theorem sound_rilPumpAll {n : Nat} (hd : Sound d) : Sound (rilPumpAll n d) := by
  induction n generalizing d with
  | zero => exact hd
  | succ n ih =>
    simp only [rilPumpAll]
    exact ih (sound_foldl hd (fun _ _ hs => sound_rilPump hs))

theorem sound_rilRun (hd : Sound d) : Sound (rilRun d) :=
  sound_rilPumpAll hd

theorem sound_rilIssue {iss : Issue} {port : Nat} {op : RilOp} (hd : Sound d) : Sound (rilIssue d iss port op) := by
  unfold rilIssue
  extract_lets e1 h q spc word c0 n copies enc runs c kind e2 e3
  have h1 : Sound e1 := sound_landCommits (sound_settle (sound_tick hd))
  have h2 : Sound e2 := sound_ite h1 (sound_ite (sound_ite (sound_rilShow (sound_finc h1)) h1)
    (sound_ite (sound_rilShow (sound_finc h1)) h1))
  have h3 : Sound e3 := sound_ite (sound_colArm h2) h2
  exact sound_ite (sound_rilFail h1) (sound_ite (sound_rilFail h1) (sound_rilRun (sound_setRilQueue h3)))

theorem sound_rilIllegal {iss : Issue} {port word : Nat} (hd : Sound d) : Sound (rilIllegal d iss port word) :=
  sound_rilRaise (sound_tick hd)

theorem sound_sendDone {n : Nat} (hd : Sound d) : Sound (sendDone d n) := by
  simp only [sendDone]
  split
  · exact hd
  · split
    · exact hd
    · exact sound_rilRun (sound_rilShow (sound_finc (sound_withRil hd)))

theorem sound_rilStall {q : Nat} (hd : Sound d) : Sound (rilStall d q) := by
  simp only [rilStall]
  split
  · exact sound_ite hd (sound_rilFail (sound_withRil hd))
  · exact hd

theorem sound_rilStale {n epoch : Nat} (hd : Sound d) : Sound (rilStale d n epoch) :=
  sound_ite (sound_rilEvent (sound_fincSat hd)) (sound_fincSat hd)

theorem sound_slabArrive {p : Nat} {m : Msg} (hd : Sound d) : Sound (slabArrive d p m) := by
  unfold slabArrive
  extract_lets own dead old e1 e2 n epoch src k e3
  have h2 : Sound e2 := sound_ite (sound_takeInbox hd) (sound_capMsg (sound_takeInbox hd))
  exact sound_ite (sound_dropCount h2) (sound_ite (sound_rilStale h2) (sound_ite (sound_rilEvent h2)
    (sound_ite (sound_rilEvent h2) (sound_rilRun (sound_rilShow (sound_finc (sound_qPut (sound_qPut h2))))))))

theorem sound_credArrive {p : Nat} {m : Msg} (hd : Sound d) : Sound (credArrive d p m) := by
  unfold credArrive
  extract_lets own dead old e1 e2 n epoch
  have h2 : Sound e2 := sound_ite (sound_takeInbox hd) (sound_capMsg (sound_takeInbox hd))
  exact sound_ite (sound_dropCount h2) (sound_ite (sound_rilStale h2) (sound_rilRun (sound_rilShow (sound_finc h2))))

theorem sound_rilAdopt {n rungen geom : Nat} (hd : Sound d) : Sound (rilAdopt d n rungen geom) :=
  sound_ite (sound_rilEvent hd) (sound_rilRun (sound_rilShow (sound_fset (sound_fset (sound_fset hd)))))

theorem sound_rilHold {n rungen geom : Nat} (hd : Sound d) : Sound (rilHold d n rungen geom) :=
  sound_fset (sound_withRil hd)

theorem sound_openArrive {p : Nat} {m : Msg} (hd : Sound d) : Sound (openArrive d p m) := by
  unfold openArrive
  extract_lets own dead e1 e2 n rungen geom
  have h2 : Sound e2 := sound_ite (sound_takeInbox hd) (sound_capMsg (sound_takeInbox hd))
  exact sound_ite (sound_dropCount h2) (sound_ite (sound_ite h2 (sound_ite (sound_rilHold h2)
    (sound_ite h2 (sound_rilAdopt h2)))) (sound_ite (sound_rilHold h2) h2))

theorem sound_rilOpen {n : Nat} (hd : Sound d) : Sound (rilOpen d n) :=
  sound_rilSend hd

theorem sound_rilStart {n : Nat} (hd : Sound d) : Sound (rilStart d n) := by
  unfold rilStart
  extract_lets e1 e2 e3 e4 r e5 e6 e7
  have h5 : Sound e5 := sound_withRil (sound_fset (sound_fset (sound_fset (sound_regSet (sound_regSet
    (sound_regSet (sound_latch hd)))))))
  have h7 : Sound e7 := sound_rilShow (sound_ite h5 (sound_fset h5))
  split
  · exact sound_rilOpen h7
  · split
    · exact h7
    · exact sound_ite (sound_fset (sound_withRil h7)) (sound_rilAdopt (sound_fset (sound_withRil h7)))
  · exact h7

theorem sound_rilReopen {p : Nat} (hd : Sound d) : Sound (rilReopen d p) :=
  sound_foldl hd (fun _ _ hs => sound_ite (sound_rilOpen hs) hs)

theorem sound_rilDrain {n : Nat} (hd : Sound d) : Sound (rilDrain d n) :=
  sound_rilRun (sound_foldl hd (fun _ _ hs => sound_setRilQueue hs))

theorem sound_rilDiscard {n : Nat} (hd : Sound d) : Sound (rilDiscard d n) :=
  sound_rilEvent (sound_withRil (sound_foldl hd (fun _ _ hs => sound_modPort hs)))

theorem sound_rilStep (hd : Sound d) : Sound (rilStep d) :=
  sound_withRil hd

theorem sound_rilUnwind (hd : Sound d) : Sound (rilUnwind d) :=
  sound_foldl hd (fun _ _ hs => sound_ite (sound_rilDrain (sound_fset (sound_withRil (sound_drainBegins
    (sound_fset hs))))) hs)

end

end Sys2Proof.Machine
end

section
/-! PROOFS. The memories stay canonical: the ephemeris, the astrolabes, the weirs and the aqueduct. -/

namespace Sys2Proof.Machine

section
variable {d : Dev}

/-! ### The ephemeris -/

theorem sound_setSlotState {k v : Nat} (hd : Sound d) : Sound (setSlotState d k v) :=
  sound_fset hd

theorem sound_setCondemned {k v : Nat} (hd : Sound d) : Sound (setCondemned d k v) :=
  sound_withEph hd

theorem sound_ephRaise {f : EphFail} {op spc strand half : Nat} (hd : Sound d) :
    Sound (ephRaise d f op spc strand half) :=
  sound_raise (sound_fset (sound_fset (sound_fset hd)))

theorem sound_ephRetire (hd : Sound d) : Sound (ephRetire d) :=
  sound_foldl hd (fun _ _ hs => sound_setSlotState hs)

theorem sound_raiseFloor {tag : Nat} (hd : Sound d) : Sound (raiseFloor d tag) :=
  sound_ite (sound_fset hd) hd

theorem sound_ephStep (hd : Sound d) : Sound (ephStep d) :=
  sound_ephRetire (sound_raiseFloor (sound_withEph (sound_fset hd)))

theorem sound_ephFloor {k : Nat} (hd : Sound d) : Sound (ephFloor d k) :=
  sound_fset (sound_ite (sound_fset hd) hd)

theorem sound_ephCount {up : Nat} {r : Resolved} {rill : Nat} (hd : Sound d) : SoundOk (ephCount d up r rill) := by
  simp only [ephCount]
  split
  · exact hd
  · split
    · exact trivial
    · exact sound_finc (sound_fset hd)
  · split
    · exact trivial
    · exact sound_finc (sound_fset hd)

theorem sound_setRes {h t : Nat} {base : Option Nat} {failed : Bool} (hd : Sound d) :
    Sound (setRes d h t base failed) :=
  sound_withEphRes hd

theorem sound_ephFail {iss : Issue} {word : Nat} {f : EphFail} (hd : Sound d) : Sound (ephFail d iss word f) :=
  sound_ephRaise (sound_setRes hd)

theorem sound_ephOp {iss : Issue} {word up desc : Nat} (hd : Sound d) : Sound (ephOp d iss word up desc) := by
  simp only [ephOp]
  split
  · exact sound_ephFail hd
  · split
    · exact sound_ephFail hd
    · next ha =>
        exact sound_ephRetire (sound_setRes (sound_ok ha (sound_ephCount hd)))

theorem sound_ephIssue {iss : Issue} {op : EphOp} (hd : Sound d) : Sound (ephIssue d iss op) := by
  simp only [ephIssue]
  split
  · exact sound_ephFail (sound_landCommits (sound_settle (sound_tick hd)))
  · split
    · exact sound_ephOp (sound_landCommits (sound_settle (sound_tick hd)))
    · exact sound_ephOp (sound_landCommits (sound_settle (sound_tick hd)))
    · exact sound_ephOp (sound_landCommits (sound_settle (sound_tick hd)))
    · exact sound_ite (sound_ephFail (sound_landCommits (sound_settle (sound_tick hd)))) (sound_setRes (sound_fset
        (sound_landCommits (sound_settle (sound_tick hd)))))
    · exact sound_ite (sound_ephFail (sound_landCommits (sound_settle (sound_tick hd)))) (sound_setRes
        (sound_ephFloor (sound_landCommits (sound_settle (sound_tick hd)))))

theorem sound_ephIllegal {iss : Issue} {word : Nat} (hd : Sound d) : Sound (ephIllegal d iss word) :=
  sound_ephFail (sound_tick hd)

theorem sound_ephRequest {e s : Nat} (hd : Sound d) : SoundOkFst (ephRequest d e s) := by
  simp only [ephRequest]
  split
  · exact hd
  · split
    · exact trivial
    · split
      · exact trivial
      · split
        · exact hd
        · split
          · exact hd
          · split
            · exact trivial
            · split
              · split
                · exact hd
                · exact sound_fset (sound_setSlotState (sound_fset (sound_fset hd)))
              · exact hd

theorem sound_ephBuilt {k : Nat} (hd : Sound d) : Sound (ephBuilt d k) := by
  unfold ephBuilt
  split
  · exact sound_setSlotState hd
  · exact sound_ephRetire (sound_setSlotState hd)
  · exact hd

theorem sound_freeSlot {k : Nat} (hd : Sound d) : Sound (freeSlot d k) :=
  sound_fset (sound_setCondemned (sound_setSlotState hd))

theorem sound_freeCondemned (hd : Sound d) : Sound (freeCondemned d) :=
  sound_foldl hd (fun _ _ hs => sound_ite hs (sound_freeSlot hs))

theorem sound_ephClear {s : Nat} (hd : Sound d) : Sound (ephClear d s) := by
  unfold ephClear
  extract_lets t e1 e2
  have h1 : Sound e1 := by
    refine sound_foldl hd fun e k he => ?_
    split
    · exact sound_setSlotState he
    · exact sound_setSlotState he
    · exact he
  exact sound_ephRetire (sound_fset (sound_ite (sound_raiseFloor h1) h1))

theorem sound_ephBad {s : Nat} (hd : Sound d) : Sound (ephBad d s) := by
  simp only [ephBad]
  refine sound_ephRetire ?_
  refine sound_fset ?_
  refine sound_fset ?_
  refine sound_finc ?_
  refine sound_foldl ?_ (fun _ _ hs => sound_fset hs)
  refine sound_foldl hd ?_
  intro _ _ hs
  split
  · exact sound_ite (sound_setCondemned hs) (sound_freeSlot hs)
  · exact sound_freeSlot hs
  · exact hs

theorem sound_ephStart (hd : Sound d) : Sound (ephStart d) :=
  sound_ephRetire (sound_latch hd)

/-! ### The astrolabes -/

theorem sound_normGroup {h n e : Nat} {full : Bool} {ts : List NormTerm} (hd : Sound d) :
    Sound (normGroup d h n e full ts) := by
  simp only [normGroup]
  split
  · exact hd
  · split
    · next ha =>
        exact sound_fst ha (sound_bankFor hd)
    · next hb =>
        exact sound_withAst (sound_fst hb (sound_bankFor hd))

theorem sound_zeroBank {h n : Nat} (hd : Sound d) : Sound (zeroBank d h n) :=
  sound_withAst hd

theorem sound_bankStep {h n : Nat} (hd : Sound d) : Sound (bankStep d h n) :=
  sound_ite hd (sound_fset (sound_fset (sound_ite (sound_astNote (sound_zeroBank hd)) hd)))

theorem sound_cntStep (hd : Sound d) : Sound (cntStep d) :=
  sound_foldl (sound_foldl (sound_foldl hd (fun _ _ hs1 => sound_ite (sound_regSet hs1) hs1))
    (fun _ _ hs2 => sound_ite (sound_regSet hs2) hs2)) (fun _ _ hs3 => sound_ite (sound_regSet hs3) hs3)

theorem sound_astStep (hd : Sound d) : Sound (astStep d) :=
  sound_bankStep (sound_bankStep (sound_withAst hd))

theorem sound_psnVerdict {clear : Bool} (hd : Sound d) : Sound (psnVerdict d clear) :=
  sound_foldl hd (fun _ _ hs => sound_fset (sound_fset hs))

theorem sound_astRollback {s : Nat} (hd : Sound d) : Sound (astRollback d s) :=
  sound_foldl hd (fun _ _ hs => sound_ite (sound_zeroBank hs) hs)

theorem sound_astStart {h : Nat} (hd : Sound d) : Sound (astStart d h) :=
  sound_latch hd

theorem sound_shdRaise {h : Nat} {s : Shadow} {number sev : Nat} (hd : Sound d) :
    Sound (shdRaise d h s number sev) :=
  sound_raise (sound_fset hd)

theorem sound_shdMismatch {h : Nat} {s : Shadow} (hd : Sound d) : Sound (shdMismatch d h s) := by
  unfold shdMismatch
  extract_lets e1 n ast e2 e3 e4 e5 limit
  have h2 : Sound e2 := sound_bankSample (sound_withAst (sound_count (sound_finc hd)))
  have h3 : Sound e3 := sound_ite (sound_shdRaise h2) h2
  have h4 : Sound e4 := sound_ite (sound_poisonEvent h3) h3
  exact sound_ite (sound_shdRaise (sound_fincSat h4)) (sound_fincSat h4)

theorem sound_shadowCompare {h : Nat} (hd : Sound d) : Sound (shadowCompare d h) := by
  have hb : ∀ e h s, Sound e → Sound (bankFor e h s).1 := fun _ _ _ he => sound_bankFor he
  rw [shadowCompare]
  generalize bankFor = bank at hb ⊢
  induction bank using forEvery with
  | h bank =>
    split
    · exact hd
    · extract_lets e1 ast e2 e3 e4 e5 e6 k e7
      have h6 : Sound e6 := sound_count (sound_count (sound_fset (sound_finc (sound_fset (sound_fset (sound_withAst
        (sound_settle (sound_tick hd))))))))
      have h7 : Sound e7 := by
        unfold e7
        split
        next e he => exact sound_fst he (hb _ _ _ h6)
        next e he => exact sound_withAst (sound_fst he (hb _ _ _ h6))
      exact sound_ite (sound_shdMismatch h7) (sound_fset h7)

theorem sound_gnSet {acc : Nat} {g : GnAcc} (hd : Sound d) : Sound (gnSet d acc g) :=
  sound_withAst hd

theorem sound_gnTap {acc : Nat} {red : Bool} {vs : List FVal} (hd : Sound d) : Sound (gnTap d acc red vs) :=
  sound_ite hd (sound_gnSet hd)

theorem sound_astFail {iss : Issue} {word number : Nat} (hd : Sound d) : Sound (astFail d iss word number) :=
  sound_raise (sound_fset hd)

theorem sound_gnWrite {iss : Issue} {word acc : Nat} (hd : Sound d) : Sound (gnWrite d iss word acc) := by
  simp only [gnWrite]
  split
  · exact sound_astFail hd
  · exact sound_ite (sound_astFail hd) (sound_ite (sound_withJet (sound_rvrTimed hd)) (sound_rvrTimed hd))

theorem sound_gnRecord {acc : Nat} (hd : Sound d) : Sound (gnRecord d acc) :=
  sound_postStat hd

theorem sound_snapClaim (hd : Sound d) : Sound (snapClaim d) :=
  sound_ite (sound_latch (sound_withAst (sound_fset (sound_fset hd)))) hd

theorem sound_normRecord {L e : Nat} {n : Norm} (hd : Sound d) : Sound (normRecord d L e n) :=
  sound_postStat hd

theorem sound_emitEnd (hd : Sound d) : Sound (emitEnd d) :=
  sound_ite hd (sound_foldl hd (fun _ _ hs => sound_fset hs))

theorem sound_bankEmission {L : Nat} (hd : Sound d) : Sound (bankEmission d L) :=
  sound_foldl (sound_zeroBank (sound_zeroBank (sound_postStat (sound_foldl hd
    (fun _ _ hs1 => sound_normRecord hs1))))) (fun _ _ hs2 => sound_fset (sound_fset (sound_fset (sound_fset hs2))))

theorem sound_snapEmit (hd : Sound d) : Sound (snapEmit d) := by
  simp only [snapEmit]
  split
  · exact hd
  · exact sound_ite hd (sound_bankEmission hd)

theorem sound_astIssue {iss : Issue} {op : AstOp} (hd : Sound d) : Sound (astIssue d iss op) := by
  unfold astIssue
  extract_lets e1 word own
  have h1 : Sound e1 := sound_settle (sound_tick hd)
  refine sound_ite (sound_astFail h1) (sound_ite (sound_astFail h1) ?_)
  split
  · exact sound_snapClaim h1
  · exact sound_gnSet h1
  · exact sound_gnWrite h1
  · exact sound_gnRecord h1
  · exact sound_withAst h1

theorem sound_astIllegal {iss : Issue} {word : Nat} (hd : Sound d) : Sound (astIllegal d iss word) :=
  sound_astFail (sound_tick hd)

theorem sound_cntClear {blk : Option Half} (hd : Sound d) : Sound (cntClear d blk) := by
  unfold cntClear
  split
  · exact sound_withRegs hd

/-! ### The weirs -/

theorem sound_setWeir {w : Nat} {x : Weir} (hd : Sound d) : Sound (setWeir d w x) :=
  sound_fset (sound_fset (sound_withWei hd))

theorem sound_setWeiQueue {h : Nat} {l : List WeiCmd} (hd : Sound d) : Sound (setWeiQueue d h l) :=
  sound_ite (sound_withWei hd) (sound_govSet (sound_withWei hd))

theorem sound_weiNote {w k n : Nat} (hd : Sound d) : Sound (weiNote d w k n) :=
  sound_withWei hd

theorem sound_weiRaise {w number : Nat} {op spc strand step detail : Nat} (hd : Sound d) :
    Sound (weiRaise d w number op spc strand step detail) := by
  simp only [weiRaise]
  split
  · exact sound_raiseAbort (sound_post (sound_fset (sound_fset hd)))
  · exact sound_consequence (sound_post (sound_fset (sound_fset hd)))

theorem sound_weiCmdRaise {w : Nat} {c : WeiCmd} {number detail : Nat} (hd : Sound d) :
    Sound (weiCmdRaise d w c number detail) :=
  sound_weiRaise hd

theorem sound_ringWrite {x : Weir} {pos : Nat} {bs : List Byte} (hd : Sound d) : Sound (ringWrite d x pos bs) :=
  sound_ctlWrite (sound_ctlWrite hd)

theorem sound_showRing {w : Nat} (hd : Sound d) : Sound (showRing d w) :=
  sound_fset (sound_fset hd)

theorem sound_ringLog {w : Nat} {c : WeiCmd} {layout raddr : Nat} {cnt : Option (Nat × Nat)} {old : List Byte}
    (hd : Sound d) :
    Sound (ringLog d w c layout raddr cnt old) :=
  sound_showRing (sound_setWeir (sound_ringWrite hd))

theorem sound_ringEmpty {w : Nat} (hd : Sound d) : Sound (ringEmpty d w) :=
  sound_showRing (sound_setWeir hd)

theorem sound_localWrite {a : Nat} {bs : List Byte} (hd : Sound d) : Sound (localWrite d a bs) :=
  sound_ite (sound_windowWrite hd) (sound_ctlWrite hd)

theorem sound_narrowWrite {j : WeiJob} {k G rnd : Nat} {ws : List FVal} (hd : Sound d) :
    Sound (narrowWrite d j k G rnd ws).1 :=
  sound_ite (sound_ctlWrite (sound_ctlWrite hd)) (sound_ctlWrite hd)

theorem sound_weiNonfin {w : Nat} {c : WeiCmd} {bad : Bool} (hd : Sound d) : Sound (weiNonfin d w c bad).1 := by
  unfold weiNonfin
  split
  · dsimp only
    exact sound_weiCmdRaise hd
  · exact hd

theorem sound_weiCopyRow {j : WeiJob} {k G : Nat} (hd : Sound d) : Sound (weiCopyRow d j k G).1 := by
  simp only [weiCopyRow]
  split
  · exact sound_ctlWrite (sound_ctlTouch hd)
  · exact sound_weiNonfin (sound_reportEvents (sound_narrowWrite hd))

theorem sound_weiWorkGroup {j : WeiJob} {G t : Nat} {cnt : Option (Nat × Nat)} {logged : Bool} (hd : Sound d) :
    Sound (weiWorkGroup d j G t cnt logged).1 := by
  unfold weiWorkGroup
  extract_lets r rb ra e1 xs e2 e3 out e4 h
  have h2 : Sound e2 := sound_ite (sound_ringLog (sound_ctlTouch (sound_ctlTouch hd))) (sound_ctlTouch (sound_ctlTouch hd))
  have h3 : Sound e3 := by
    unfold e3
    split
    · exact sound_ctlWrite h2
    · exact h2
  have h4 : Sound e4 := sound_ite h3 (sound_ctlWrite h3)
  have hn : ∀ {p : Dev × Events}, (match j.c.slot with
      | some k => if j.narrow then narrowWrite e4 j k G r.rnd (xs.map (fun x : ElemOut => x.new.w)) else (e4, noEvents)
      | none => (e4, noEvents)) = p → Sound p.1 := by
    rintro p rfl
    split
    · split
      · exact sound_narrowWrite h4
      · exact h4
    · exact h4
  split
  next f ev hf =>
    have hs : Sound f := hn hf
    exact sound_weiNonfin (sound_ite (sound_count (sound_count (sound_normGroup (sound_reportEvents hs))))
      (sound_count (sound_normGroup (sound_reportEvents hs))))

theorem sound_clrmGroup {j : WeiJob} {G : Nat} (hd : Sound d) : Sound (clrmGroup d j G) :=
  sound_ite (sound_ctlWrite (sound_localWrite hd)) hd

theorem sound_weirWait {w : Nat} {c : WeiCmd} {ring : Bool} (hd : Sound d) : Sound (weirWait d w c ring) :=
  sound_ite (sound_weiCmdRaise (sound_setWeir (sound_setWeir hd))) (sound_setWeir hd)

theorem sound_weirGo {w : Nat} (hd : Sound d) : Sound (weirGo d w) :=
  sound_ite hd (sound_setWeir (sound_count hd))

theorem sound_weiGroup {j : WeiJob} (hd : Sound d) : SoundSomeFst (weiGroup d j) := by
  unfold weiGroup
  extract_lets c G next logged x room row head ca cnt rowT
  have hnext : ∀ {q : Dev × WeiCmd}, Sound q.1 → SoundSomeFst (next q) := fun h => h
  clear_value next rowT
  split
  · exact hnext (sound_clrmGroup hd)
  · split
    · split
      · trivial
      · exact hnext (sound_weiWorkGroup hd)
    · split
      · exact hnext (sound_weiCopyRow hd)
      · split
        · trivial
        · exact hnext (sound_weiWorkGroup hd)

theorem sound_weiGroups {w : Nat} {n : Nat} (hd : Sound d) : Sound (weiGroups w n d) := by
  induction n generalizing d with
  | zero => exact hd
  | succ n ih =>
    simp only [weiGroups]
    split
    · exact hd
    · split
      · exact hd
      · split
        · exact sound_weirWait hd
        · next ha =>
            exact ih (sound_setWeir (sound_weirGo (sound_someFst ha (sound_weiGroup hd))))

theorem sound_weiDiscard {w : Nat} (hd : Sound d) : Sound (weiDiscard d w) :=
  sound_freeCondemned (sound_weiNote (sound_setWeir (sound_weirGo hd)))

theorem sound_weiBegin {w : Nat} {c : WeiCmd} (hd : Sound d) : Sound (weiBegin d w c) := by
  simp only [weiBegin]
  split
  · exact sound_weiCmdRaise (sound_weiDiscard hd)
  · split
    · exact sound_weiCmdRaise (sound_weiDiscard hd)
    · split
      · split
        · exact sound_weiCmdRaise (sound_weiDiscard hd)
        · split
          · exact sound_weiCmdRaise (sound_weiDiscard hd)
          · exact sound_weiGroups (sound_setWeir (sound_weirGo hd))
      · split
        · exact sound_ephRaise (sound_weiDiscard hd)
        · next ha =>
            exact sound_weirWait (sound_okFst ha (sound_ephRequest hd))
        · next hb =>
            split
            · exact sound_weiCmdRaise (sound_weiDiscard (sound_okFst hb (sound_ephRequest hd)))
            · split
              · exact sound_weiCmdRaise (sound_weiDiscard (sound_okFst hb (sound_ephRequest hd)))
              · exact sound_weiGroups (sound_setWeir (sound_weirGo (sound_okFst hb (sound_ephRequest hd))))

theorem sound_weiDispatch {h : Nat} {n : Nat} (hd : Sound d) : Sound (weiDispatch h n d) := by
  induction n generalizing d with
  | zero => exact hd
  | succ n ih =>
    simp only [weiDispatch]
    split
    · exact hd
    · exact sound_ite hd (sound_ite (ih (sound_weiCmdRaise (sound_weiNote (sound_weiNote (sound_setWeiQueue hd)))))
        (sound_ite hd (ih (sound_setWeir (sound_weiNote (sound_setWeiQueue hd))))))

theorem sound_weirPump {w : Nat} {n : Nat} (hd : Sound d) : Sound (weirPump w n d) := by
  induction n generalizing d with
  | zero => exact hd
  | succ n ih =>
    simp only [weirPump]
    split
    · exact sound_ite (sound_ite (ih (sound_weiBegin hd)) (sound_weiBegin hd)) (sound_weiGroups hd)
    · split
      · exact hd
      · exact sound_ite hd (ih (sound_setWeir hd))

theorem sound_weiPump {n : Nat} (hd : Sound d) : Sound (weiPump n d) := by
  induction n generalizing d with
  | zero => exact hd
  | succ n ih =>
    simp only [weiPump]
    exact ih (sound_foldl (sound_weiDispatch (sound_weiDispatch hd)) (fun _ _ hs => sound_weirPump hs))

theorem sound_weiRun (hd : Sound d) : Sound (weiRun d) :=
  sound_weiPump hd

theorem sound_weiParams {step eta lambda invls : Nat} (hd : Sound d) : Sound (weiParams d step eta lambda invls) :=
  sound_foldl hd (fun _ _ hs => sound_fset (sound_fset (sound_fset (sound_fset hs))))

theorem sound_weiPush {iss : Issue} {word : BitVec 32} (hd : Sound d) : Sound (weiPush d iss word) :=
  sound_weiRun (sound_setWeiQueue (sound_weiNote (sound_withWei (sound_settle (sound_tick hd)))))

theorem sound_weiIssue {iss : Issue} {op : WeiOp} (hd : Sound d) : Sound (weiIssue d iss op) :=
  sound_weiPush hd

theorem sound_weiIllegal {iss : Issue} {word : Nat} (hd : Sound d) : Sound (weiIllegal d iss word) :=
  sound_weiPush hd

theorem sound_weiComplete {w : Nat} (hd : Sound d) : Sound (weiComplete d w) := by
  simp only [weiComplete]
  split
  · exact hd
  · split
    · exact hd
    · refine sound_weiRun ?_
      refine sound_freeCondemned ?_
      split
      · split
        · exact sound_weiCmdRaise (sound_weiNote (sound_setWeir hd))
        · split
          · split
            · exact sound_ephBuilt (sound_fset (sound_weiNote (sound_setWeir hd)))
            · exact sound_fset (sound_weiNote (sound_setWeir hd))
          · exact sound_fset (sound_weiNote (sound_setWeir hd))
      · exact sound_weiNote (sound_setWeir hd)

theorem sound_weiNoslot {w : Nat} (hd : Sound d) : Sound (weiNoslot d w) := by
  simp only [weiNoslot]
  split
  · exact hd
  · exact sound_ite hd (sound_weiCmdRaise (sound_setWeir hd))

theorem sound_weiClear {s : Nat} (hd : Sound d) : Sound (weiClear d s) :=
  sound_weiRun (sound_foldl (sound_withWei hd) (fun _ _ hs => sound_ringEmpty hs))

theorem sound_weiDrop {w : Nat} {p : WeiCmd → Bool} (hd : Sound d) : Sound (weiDrop d w p) := by
  simp only [weiDrop]
  split
  · exact sound_ite (sound_weiDiscard (sound_weiNote (sound_setWeir (sound_weiNote (sound_weiNote
      (sound_setWeiQueue hd)))))) (sound_weiNote (sound_setWeir (sound_weiNote (sound_weiNote
      (sound_setWeiQueue hd)))))
  · exact sound_weiNote (sound_setWeir (sound_weiNote (sound_weiNote (sound_setWeiQueue hd))))

theorem sound_weiStop {s : Nat} (hd : Sound d) : Sound (weiStop d s) :=
  sound_weiRun (sound_foldl hd (fun _ _ hs => sound_weiDrop hs))

theorem sound_weiRollback {s : Nat} (hd : Sound d) : Sound (weiRollback d s) :=
  sound_foldl hd (fun _ _ hs => sound_setWeir hs)

theorem sound_ringRestore {w s : Nat} {prev : Option Nat} {l : List (Nat × Nat)} (hd : Sound d) :
    Sound (ringRestore w s prev l d) := by
  induction l generalizing d prev with
  | nil => exact hd
  | cons e l ih =>
    unfold ringRestore
    extract_lets x h a e1 e2
    have h2 : Sound e2 := sound_ite (sound_ctlWrite (sound_ctlWrite hd)) (sound_ctlWrite hd)
    split
    · exact sound_weiRaise hd
    · exact ih h2

theorem sound_weirRestore {w : Nat} (hd : Sound d) : Sound (weirRestore d w) := by
  simp only [weirRestore]
  split
  · exact hd
  · exact sound_setWeir (sound_ringEmpty (sound_ite (sound_ringRestore hd) (sound_count (sound_finc
      (sound_ringRestore hd)))))

theorem sound_rollbackComplete (hd : Sound d) : Sound (rollbackComplete d) :=
  sound_ite (sound_govSet (sound_withDrainAt (sound_foldl hd (fun _ _ hs => sound_weirRestore hs)))) hd

theorem sound_weiStart {h : Nat} (hd : Sound d) : Sound (weiStart d h) :=
  sound_weiRun (sound_foldl (sound_ite (sound_latchRange (sound_latch (sound_latchRange hd))) (sound_latch
    (sound_latchRange hd))) (fun _ _ hs => sound_ite (sound_ringEmpty hs) hs))

theorem sound_weiDrain {h : Nat} (hd : Sound d) : Sound (weiDrain d h) :=
  sound_foldl hd (fun _ _ hs => sound_ite hs (sound_weiRaise (sound_ite (sound_weiDiscard (sound_weiNote
    (sound_setWeir hs))) (sound_weiNote (sound_setWeir hs)))))

theorem sound_weiDropQueue {h : Nat} (hd : Sound d) : Sound (weiDropQueue d h) :=
  sound_foldl (sound_setWeiQueue hd) (fun _ _ hs => sound_weiNote (sound_weiNote hs))

/-! ### The aqueduct -/

theorem sound_setXfer {h c : Nat} {x : Xfer} (hd : Sound d) : Sound (setXfer d h c x) :=
  sound_setChan hd

theorem sound_xAddrFail {x : Xfer} {a : Int} {host : Bool} (hd : Sound d) : Sound (xAddrFail d x a host) :=
  sound_xferFail hd

theorem sound_hstPost {number sev ring index addr : Nat} (hd : Sound d) :
    Sound (hstPost d number sev ring index addr) :=
  sound_post (sound_hstNote hd)

theorem sound_aqdRequest {x : Xfer} {owner : Nat} {a dst : Int} {n : Nat} {bs : List Byte} {atop : Option Nat}
    (hd : Sound d) :
    Sound (aqdRequest d x owner a dst n bs atop) :=
  sound_sendMsg (sound_count (sound_withAqd hd))

theorem sound_atomLocal {x : Xfer} {atop a : Nat} {bs : List Byte} (hd : Sound d) :
    Sound (atomLocal d x atop a bs).1 := by
  refine sound_foldl_fst hd fun s p hs => ?_
  split
  · exact hs
  · exact sound_poolAtomic hs

theorem sound_writeRun {x : Xfer} {a : Int} {bs : List Byte} (hd : Sound d) : Sound (writeRun d x a bs) := by
  unfold writeRun
  extract_lets h c e1 e2
  have h2 : Sound e2 := by
    refine sound_count ?_
    unfold e1
    split
    · exact sound_setXfer hd
    · exact hd
  split
  · split
    · exact sound_xAddrFail h2
    · split
      · split
        next e he => exact sound_fst he (sound_atomLocal h2)
        next e b he => exact sound_xAddrFail (sound_fst he (sound_atomLocal h2))
      · split
        next e he => exact sound_fst he (sound_qWrite h2)
        next e he => exact sound_xAddrFail (sound_fst he (sound_qWrite h2))
  · exact sound_ite (sound_foldl h2 fun _ _ he => sound_aqdRequest he) (sound_aqdRequest h2)
  · split
    · exact h2
    · exact sound_ite (sound_xAddrFail h2) (sound_ite (sound_outNote h2) (sound_hostWrite (sound_outNote h2)))

theorem sound_touchRow {x : Xfer} {r : Nat} (hd : Sound d) : Sound (touchRow d x r) := by
  simp only [touchRow]
  split
  · exact sound_aqdRequest hd
  · split
    · next ha =>
        exact sound_fst ha (sound_atomLocal hd)
    · next hb =>
        exact sound_xAddrFail (sound_fst hb (sound_atomLocal hd))

theorem sound_listIndex {x : Xfer} {j : Nat} (hd : Sound d) : Sound (listIndex d x j).1 := by
  unfold listIndex
  split
  · exact hd
  · split
    · next ha =>
        exact sound_fst ha (sound_qRead hd)
    · next hb =>
        exact sound_fst hb (sound_qRead hd)

theorem sound_rowDone {h c serial row : Nat} (hd : Sound d) : Sound (rowDone d h c serial row) := by
  unfold rowDone
  split
  · exact hd
  · split
    · split
      · next ha =>
          exact sound_ite (sound_touchRow (sound_fst ha (sound_listIndex hd))) (sound_fst ha (sound_listIndex hd))
      · next hb =>
          exact sound_fst hb (sound_listIndex hd)
    · exact hd

theorem sound_aqdFlush {h c : Nat} {n : Nat} (hd : Sound d) : Sound (aqdFlush h c n d) := by
  induction n generalizing d with
  | zero => exact hd
  | succ n ih =>
    simp only [aqdFlush]
    split
    · exact hd
    · split
      · exact hd
      · refine ih ?_
        split
        · exact sound_rowDone (sound_writeRun (sound_withAqd hd))
        · exact sound_withAqd hd

theorem sound_buryXfers {h c : Nat} (hd : Sound d) : Sound (buryXfers d h c) :=
  sound_ite hd (sound_setChan hd)

theorem sound_aqdReadBack {h c : Nat} (hd : Sound d) : Sound (aqdReadBack d h c) := by
  simp only [aqdReadBack]
  refine sound_foldl hd ?_
  intro _ _ hs
  split
  · split
    · exact hs
    · exact sound_aqdRequest (sound_setXfer hs)
  · exact hs

theorem sound_aqdDiscardEnd {h c : Nat} (hd : Sound d) : Sound (aqdDiscardEnd d h c) :=
  sound_aqdDiscarded (sound_withAqd (sound_setChan hd))

theorem sound_noteHost {h c : Nat} (hd : Sound d) : Sound (noteHost d h c) := by
  simp only [noteHost]
  split
  · exact hd
  · exact sound_ite (sound_setXfer hd) (sound_ite (sound_setXfer hd) hd)

theorem sound_noteReady {h c : Nat} (hd : Sound d) : Sound (noteReady d h c) :=
  sound_ite (sound_withAqd hd) (sound_ite (sound_withAqd hd) hd)

theorem sound_setAqdQueue {q : Nat} {l : List Xfer} (hd : Sound d) : Sound (setAqdQueue d q l) :=
  sound_ite (sound_withAqd hd) (sound_govSet (sound_withAqd hd))

theorem sound_aqdMove {q : Nat} {n : Nat} (hd : Sound d) : Sound (aqdMove q n d) := by
  induction n generalizing d with
  | zero => exact hd
  | succ n ih =>
    simp only [aqdMove]
    split
    · exact hd
    · exact sound_ite (ih (sound_aqdRaise (sound_aqdDiscarded (sound_setAqdQueue hd)))) (sound_ite (ih
        (sound_setChan (sound_setAqdQueue hd))) hd)

theorem sound_chanTidy {k : Nat} (hd : Sound d) : Sound (chanTidy d k) := by
  simp only [chanTidy]
  exact sound_noteReady (sound_noteHost (sound_ite (sound_aqdDiscardEnd (sound_aqdReadBack (sound_buryXfers
    (sound_aqdFlush hd)))) (sound_aqdReadBack (sound_buryXfers (sound_aqdFlush hd)))))

theorem sound_aqdRun (hd : Sound d) : Sound (aqdRun d) :=
  sound_foldl (sound_foldl hd (fun _ _ hs1 => sound_aqdMove hs1)) (fun _ _ hs2 => sound_chanTidy hs2)

theorem sound_aqdIllegal {iss : Issue} {_port word : Nat} (hd : Sound d) : Sound (aqdIllegal d iss _port word) :=
  sound_aqdRaise (sound_tick hd)

theorem sound_aqdIssue {iss : Issue} {port : Nat} {op : AqdOp} (hd : Sound d) : Sound (aqdIssue d iss port op) := by
  simp only [aqdIssue]
  split
  · exact sound_aqdRaise (sound_settle (sound_tick hd))
  · exact sound_ite (sound_aqdRaise (sound_settle (sound_tick hd))) (sound_ite (sound_ite (sound_settle
      (sound_tick hd)) (sound_aqdRaise (sound_settle (sound_tick hd)))) (sound_aqdRun (sound_setAqdQueue
      (sound_aqdIssued (sound_withAqd (sound_settle (sound_tick hd)))))))

theorem sound_findRow {x : Xfer} {n j : Nat} (hd : Sound d) : Sound (findRow x n d j).1 := by
  induction n generalizing d j with
  | zero => exact hd
  | succ n ih =>
    unfold findRow
    split
    next e he => exact sound_fst he (sound_listIndex hd)
    next e ix he =>
      split
      · exact sound_fst he (sound_listIndex hd)
      · exact ih (sound_fst he (sound_listIndex hd))

theorem sound_readRuns {l : List (Int × Nat)} (hd : Sound d) : Sound (readRuns d l).1 := by
  induction l generalizing d with
  | nil => exact hd
  | cons a l ih =>
    unfold readRuns
    split
    · exact hd
    · split
      next e he => exact sound_fst he (sound_qRead hd)
      next e bs he =>
        have hr := ih (sound_fst he (sound_qRead hd))
        split
        next f rest hf => exact sound_fst hf hr
        next f o hf => exact sound_fst hf hr

theorem sound_putBurst {x : Xfer} {row : Nat} {dst : List (Int × Nat)} {bs : List Byte} (hd : Sound d) :
    Sound (putBurst d x row dst bs) := by
  refine sound_rowDone (sound_foldl_fst hd fun s run hs => ?_)
  extract_lets part rest r
  split
  · exact sound_withAqd hs
  · split
    next y _ =>
      split
      · exact hs
      · exact sound_writeRun hs
    · exact hs

theorem sound_runBurst {x : Xfer} {row : Nat} {ix : Int} {host : Option (List Byte)} (hd : Sound d) :
    Sound (runBurst d x row ix host) := by
  simp only [runBurst]
  split
  · split
    · next ha =>
        exact sound_xAddrFail (sound_fst ha (sound_readRuns (sound_setXfer hd)))
    · next hb =>
        exact sound_ite (sound_xAddrFail (sound_fst hb (sound_readRuns (sound_setXfer hd)))) (sound_putBurst
          (sound_fst hb (sound_readRuns (sound_setXfer hd))))
  · exact sound_foldl (sound_setXfer hd) (fun _ _ hs => sound_aqdRequest hs)
  · split
    · exact sound_xAddrFail (sound_setXfer hd)
    · split
      · exact sound_xAddrFail (sound_setXfer hd)
      · exact sound_putBurst (sound_capLog (sound_setXfer hd))

theorem sound_burstOf {h level c : Nat} {host : Option (List Byte)} (hd : Sound d) :
    Sound (burstOf d h level c host) := by
  simp only [burstOf]
  split
  · exact hd
  · split
    · next ha =>
        exact sound_aqdRun (sound_xAddrFail (sound_fst ha (sound_findRow hd)))
    · next hb =>
        exact sound_ite (sound_aqdRun (sound_setXfer (sound_fst hb (sound_findRow hd)))) (sound_aqdRun
          (sound_runBurst (sound_withAqd (sound_count (sound_count (sound_fst hb (sound_findRow hd)))))))

theorem sound_burstStart {h : Nat} {host : Option (List Byte)} (hd : Sound d) : Sound (burstStart d h host) := by
  simp only [burstStart]
  split
  · exact sound_aqdRun hd
  · split
    · exact sound_aqdRun hd
    · exact sound_burstOf (sound_aqdRun hd)

theorem sound_aqdAnswer {r : Req} {ok : Bool} {bs : List Byte} (hd : Sound d) : Sound (aqdAnswer d r ok bs) := by
  simp only [aqdAnswer]
  split
  · exact sound_aqdRun (sound_fincSat (sound_withAqd hd))
  · split
    · exact sound_aqdRun (sound_reqFail hd)
    · split
      · exact sound_aqdRun (sound_withAqd hd)
      · refine sound_aqdRun ?_
        split
        · exact sound_count (sound_setXfer (sound_withAqd hd))
        · exact sound_withAqd hd
      · exact sound_aqdRun (sound_withAqd hd)

theorem sound_commitHead {ring : Nat} (hd : Sound d) : Sound (commitHead d ring) :=
  sound_ringWb (sound_fset hd)

theorem sound_headAdvance {ring : Nat} (hd : Sound d) : Sound (headAdvance d ring) :=
  sound_ite (sound_setRingH hd) (sound_ite (sound_setRingH hd) (sound_commitHead (sound_setRingH hd)))

theorem sound_transferComplete {h c : Nat} (hd : Sound d) : Sound (transferComplete d h c) := by
  unfold transferComplete
  extract_lets e1
  have h1 : Sound e1 := sound_aqdRun hd
  split
  · exact h1
  · extract_lets e2 e3 e4 e5
    have h2 : Sound e2 := by
      unfold e2
      split
      · exact sound_qRead h1
      · exact h1
    have h3 : Sound e3 := sound_count (sound_aqdCompleted (sound_setChan h2))
    have h4 : Sound e4 := sound_ite (sound_headAdvance h3) h3
    exact sound_ite h1 (sound_aqdRun (sound_ite (sound_aqdRaise h4) h4))

theorem sound_dataWaitTimeout {h c : Nat} (hd : Sound d) : Sound (dataWaitTimeout d h c) := by
  simp only [dataWaitTimeout]
  split
  · exact hd
  · exact sound_ite hd (sound_aqdRun (sound_stepFatal (sound_hstPost (sound_xferStop hd))))

theorem sound_aqdStart {h c : Nat} (hd : Sound d) : Sound (aqdStart d h c) :=
  sound_aqdShow (sound_regSet (sound_regSet hd))

theorem sound_aqdDiscard {h c : Nat} (hd : Sound d) : Sound (aqdDiscard d h c) := by
  simp only [aqdDiscard]
  exact sound_chanTidy (sound_withAqd (sound_setChan (sound_setAqdQueue hd)))

theorem sound_aqdUnwind (hd : Sound d) : Sound (aqdUnwind d) :=
  sound_foldl hd (fun _ _ hs => sound_ite (sound_aqdDiscard hs) hs)

theorem sound_aqdUnwound (hd : Sound d) : Sound (aqdUnwound d).1 :=
  sound_foldl hd (fun _ _ hs => sound_ite (sound_aqdDiscardEnd hs) hs)

theorem sound_aqdDropQueue {q : Nat} (hd : Sound d) : Sound (aqdDropQueue d q) :=
  sound_foldl (sound_setAqdQueue hd) (fun _ _ hs => sound_aqdDiscarded hs)

end

end Sys2Proof.Machine
end

section
/-! PROOFS. The memories stay canonical: the slice, the Hermen links, the collectives and the host. -/

namespace Sys2Proof.Machine

section
variable {d : Dev}

/-! ### The slice and its time -/

theorem sound_machRaise {number sev port detail : Nat} (hd : Sound d) :
    Sound (machRaise d number sev port detail) :=
  sound_raise (sound_fset hd)

theorem sound_setMach {f : Mach → Mach} (hd : Sound d) : Sound (setMach d f) :=
  sound_withMach hd

theorem sound_sidEnter {st : Nat} (hd : Sound d) : Sound (sidEnter d st) :=
  sound_setMach (sound_fset hd)

theorem sound_enterHoldover (hd : Sound d) : Sound (enterHoldover d) :=
  sound_setMach (sound_sidEnter hd)

theorem sound_sidHoldover (hd : Sound d) : Sound (sidHoldover d) := by
  simp only [sidHoldover]
  split
  · exact hd
  · split
    · exact sound_fset (sound_machRaise (sound_enterHoldover hd))
    · exact sound_machRaise (sound_enterHoldover hd)

theorem sound_sidPort {p : Nat} (hd : Sound d) : Sound (sidPort d p) :=
  sound_ite (sound_sidHoldover hd) hd

theorem sound_sidSet {v : Nat} (hd : Sound d) : Sound (sidSet d v) :=
  sound_ite (sound_setMach (sound_sidEnter (sound_regSet hd))) hd

theorem sound_refLost (hd : Sound d) : Sound (refLost d) :=
  sound_ite (sound_machRaise (sound_enterHoldover (sound_fset hd))) (sound_setMach (sound_fset hd))

theorem sound_ppsPulse {high : Nat} (hd : Sound d) : Sound (ppsPulse d high) := by
  unfold ppsPulse
  refine sound_ite hd ?_
  split
  extract_lets again e1 e2 good e3 e4
  have h1 : Sound e1 := sound_setMach hd
  have h4 : Sound e4 := sound_setMach (sound_countPkg (sound_fset h1))
  exact sound_ite (sound_setMach (sound_fset (sound_regSet h1)))
    (sound_ite (sound_refLost h1) (sound_ite (sound_setMach (sound_fset h4)) h4))

theorem sound_referenceLoss {edge : Bool} (hd : Sound d) : Sound (referenceLoss d edge) :=
  sound_ite hd (sound_ite (sound_refLost hd) hd)

theorem sound_sidMeasure {p txtime echo holdt sstate hops : Nat} (hd : Sound d) :
    Sound (sidMeasure d p txtime echo holdt sstate hops) := by
  unfold sidMeasure
  extract_lets valid t2 delay theta e1 e2 e3 good e4
  have h2 : Sound e2 := sound_setMach (sound_countPkg (sound_fset (sound_fset hd)))
  have h4 : Sound e4 := sound_setMach (sound_countPkg h2)
  exact sound_ite hd (sound_ite (sound_setMach (sound_sidEnter (sound_regSet h2)))
    (sound_ite (sound_fset h4) (sound_ite (sound_fset (sound_fset h4)) h4)))

theorem sound_sidIdle {p txtime echo holdt sstate hops : Nat} (hd : Sound d) :
    Sound (sidIdle d p txtime echo holdt sstate hops) := by
  unfold sidIdle
  extract_lets ups e1 e2
  have h1 : Sound e1 := sound_ite (sound_fset hd) (sound_ite (sound_setMach (sound_fset hd)) hd)
  have h2 : Sound e2 := sound_ite (sound_sidHoldover h1) h1
  exact sound_ite hd (sound_ite h1 (sound_ite (sound_sidMeasure h2) h2))

theorem sound_measurementTimeout (hd : Sound d) : Sound (measurementTimeout d) :=
  sound_ite (sound_sidHoldover hd) hd

theorem sound_holdoverLimit (hd : Sound d) : Sound (holdoverLimit d) :=
  sound_ite (sound_machRaise (sound_sidEnter hd)) hd

theorem sound_ppsOut (hd : Sound d) : Sound (ppsOut d) :=
  sound_ite (sound_setMach hd) hd

theorem sound_touchPorts {ps : List Nat} (hd : Sound d) : Sound (touchPorts d ps) :=
  sound_foldl hd (fun _ _ hs => sound_modPort hs)

theorem sound_adoptFlags {p sflag sstep : Nat} (hd : Sound d) : Sound (adoptFlags d p sflag sstep) :=
  sound_ite hd (sound_ite (sound_ite (sound_withSeq (sound_ite (sound_setMach (sound_capLog hd)) hd))
    (sound_raiseAbort (sound_capLog (sound_ite (sound_setMach (sound_capLog hd)) hd)))) (sound_ite (sound_setMach
    (sound_capLog hd)) hd))

theorem sound_noticeLost {n : Notice} {t : Nat} (hd : Sound d) : Sound (noticeLost d n t).1 := by
  unfold noticeLost
  split
  · exact hd
  · exact sound_countPkg hd

theorem sound_holdReclaim {t origin ex ey ez dl : Nat} (hd : Sound d) :
    Sound (holdReclaim d t origin ex ey ez dl) :=
  sound_govSet (sound_touchPorts (sound_setMach (sound_regSet (sound_fset (sound_fset (sound_fset (sound_fset
    (sound_fset (sound_fset hd)))))))))

theorem sound_adoptReclaim {p w t : Nat} (hd : Sound d) : Sound (adoptReclaim d p w t) := by
  simp only [adoptReclaim]
  split
  · exact hd
  · exact sound_setMach (sound_noticeLost hd)
  · exact sound_machRaise (sound_holdReclaim (sound_capLog hd))

theorem sound_holdHold {t : Nat} (hd : Sound d) : Sound (holdHold d t) :=
  sound_govSet (sound_touchPorts (sound_setMach (sound_fset (sound_fset hd))))

theorem sound_adoptHold {p t : Nat} (hd : Sound d) : Sound (adoptHold d p t) := by
  simp only [adoptHold]
  split
  · exact hd
  · exact sound_setMach (sound_noticeLost hd)
  · exact sound_holdHold (sound_capLog hd)

theorem sound_reclaimOriginate (hd : Sound d) : Sound (reclaimOriginate d) := by
  simp only [reclaimOriginate]
  split
  · exact sound_holdReclaim hd
  · exact sound_setMach (sound_noticeLost hd)
  · exact hd

theorem sound_reclaimClear (hd : Sound d) : Sound (reclaimClear d) :=
  sound_ite hd (sound_govSet (sound_touchPorts (sound_setMach (sound_regSet (sound_fset hd)))))

theorem sound_holdOriginate (hd : Sound d) : Sound (holdOriginate d) := by
  unfold holdOriginate
  split
  · exact sound_holdHold hd
  · split
    · next ha =>
        exact sound_setMach (sound_fst ha (sound_noticeLost hd))
  · exact hd

theorem sound_holdClear (hd : Sound d) : Sound (holdClear d) :=
  sound_ite hd (sound_govSet (sound_touchPorts (sound_setMach (sound_fset (sound_fset hd)))))

theorem sound_setTree {perm : Bool} {t : Tree} (hd : Sound d) : Sound (setTree d perm t) :=
  sound_setMach hd

theorem sound_switchBank {drill : Bool} (hd : Sound d) : Sound (switchBank d drill) :=
  sound_ite (sound_fset (sound_setMach (sound_fset hd))) (sound_setMach (sound_fset hd))

theorem sound_applyVerdict {s v : Nat} {perm : Bool} (hd : Sound d) : Sound (applyVerdict d s v perm) := by
  unfold applyVerdict
  extract_lets e1 e2 t tree e3 e4 e5 e6 e7 e8 e9 e10
  have h2 : Sound e2 := sound_ite (sound_capEnd (sound_capLog hd)) (sound_capLog hd)
  have h5 : Sound e5 := sound_touchPorts (sound_setMach (sound_setTree h2))
  have h7 : Sound e7 := sound_setMach (sound_fset h5)
  exact sound_ite (sound_ite (sound_machRaise (sound_switchBank h7)) h7)
    (sound_govSet (sound_setMach (sound_countPkg (sound_countPkg (sound_fset (sound_fset h5))))))

theorem sound_treeRun {perm : Bool} (hd : Sound d) : Sound (treeRun d perm) := by
  unfold treeRun
  extract_lets t put stopped
  have hput : ∀ e s v, Sound e → Sound (put e s v) := fun _ _ _ he =>
    sound_touchPorts (sound_setMach (sound_setTree he))
  split
  · exact sound_ite hd (hput _ _ _ hd)
  · split
    · exact hd
    · refine sound_ite hd ?_
      extract_lets e1
      have h1 : Sound e1 := sound_foldl hd fun _ _ he => sound_machRaise he
      exact sound_ite (sound_ite h1 (sound_applyVerdict h1)) (hput _ _ _ h1)

theorem sound_trees (hd : Sound d) : Sound (trees d) :=
  sound_treeRun (sound_treeRun hd)

theorem sound_ownReport {s v : Nat} (hd : Sound d) : Sound (ownReport d s v) :=
  sound_treeRun (sound_setMach (sound_setTree hd))

theorem sound_childReport {p s v : Nat} {perm : Bool} (hd : Sound d) : Sound (childReport d p s v perm) :=
  sound_ite hd (sound_treeRun (sound_setTree hd))

theorem sound_parentVerdict {s v : Nat} {perm : Bool} (hd : Sound d) : Sound (parentVerdict d s v perm) :=
  sound_ite hd (sound_trees (sound_applyVerdict hd))

theorem sound_childTimeout {p : Nat} (hd : Sound d) : Sound (childTimeout d p) := by
  simp only [childTimeout]
  split
  · exact hd
  · exact sound_ite hd (sound_treeRun (sound_setTree hd))

theorem sound_takeContent {p : Nat} {c : Content} (hd : Sound d) : Sound (takeContent d p c) :=
  sound_ite hd (sound_ite (sound_childReport (sound_modPort hd)) (sound_ite (sound_parentVerdict
    (sound_modPort hd)) (sound_modPort hd)))

theorem sound_idleTake {p : Nat} {b : List Byte} (hd : Sound d) : Sound (idleTake d p b) :=
  sound_takeContent (sound_ite (sound_adoptHold (sound_adoptReclaim (sound_sidIdle (sound_modPort hd))))
    (sound_sidIdle (sound_modPort hd)))

theorem sound_drillClose (hd : Sound d) : Sound (drillClose d) :=
  sound_ite hd (sound_ite (sound_machRaise (sound_setMach hd)) (sound_setMach hd))

theorem sound_bankSwitch (hd : Sound d) : Sound (bankSwitch d) :=
  sound_ite (sound_switchBank hd) hd

/-! ### Hermen ports -/

theorem sound_setLstate {p st : Nat} (hd : Sound d) : Sound (setLstate d p st) :=
  sound_fset hd

theorem sound_linkChanged {p : Nat} (hd : Sound d) : Sound (linkChanged d p) :=
  sound_trees (sound_sidPort hd)

theorem sound_linkReset {p cause : Nat} (hd : Sound d) : Sound (linkReset d p cause) := by
  unfold linkReset
  extract_lets x old ms e1 e e2 e3 e4 e5 e6 port e7 e8 e9
  have h4 : Sound e4 := sound_setLstate (sound_fset (sound_countPkg (sound_fincSat (sound_fset (sound_latch hd)))))
  have h5 : Sound e5 := sound_foldl h4 fun _ _ he => sound_regSet he
  have h8 : Sound e8 := sound_hrmRaise (sound_drawn (sound_setPort (sound_regSet h5)))
  have h9 : Sound e9 := sound_ite (sound_hrmNote h8) h8
  exact sound_linkChanged (sound_dropAll h9)

theorem sound_resetRequest {p cause : Nat} (hd : Sound d) : Sound (resetRequest d p cause) :=
  sound_ite hd (sound_ite (sound_fset hd) (sound_linkReset hd))

theorem sound_linkOn {p : Nat} (hd : Sound d) : Sound (linkOn d p) :=
  sound_ite hd (sound_ite (sound_linkReset (sound_fset hd)) (sound_resetRequest (sound_fset hd)))

theorem sound_linkOff {p : Nat} (hd : Sound d) : Sound (linkOff d p) :=
  sound_ite hd (sound_ite (sound_linkReset (sound_resetRequest (sound_fset hd))) (sound_ite (sound_linkChanged
    (sound_setLstate (sound_resetRequest (sound_fset hd)))) (sound_resetRequest (sound_fset hd))))

theorem sound_retrain {p : Nat} (hd : Sound d) : Sound (retrain d p) :=
  sound_ite hd (sound_resetRequest hd)

theorem sound_quietEnd {p : Nat} (hd : Sound d) : Sound (quietEnd d p) :=
  sound_ite (sound_ite (sound_linkChanged (sound_setLstate hd)) (sound_ite hd (sound_setLstate hd))) hd

theorem sound_setPhase {p ph : Nat} (hd : Sound d) : Sound (setPhase d p ph) :=
  sound_modPort hd

theorem sound_detectDone {p : Nat} {peer : Peer} (hd : Sound d) : Sound (detectDone d p peer) :=
  sound_ite hd (sound_ite (sound_linkReset hd) (sound_setLstate (sound_fset (sound_setPort (sound_fset hd)))))

theorem sound_eqDone {p : Nat} (hd : Sound d) : Sound (eqDone d p) :=
  sound_ite (sound_setPhase hd) hd

theorem sound_testEnd {p : Nat} {lanes : List (Option Nat)} (hd : Sound d) : Sound (testEnd d p lanes) :=
  sound_ite (sound_setPhase (sound_modPort hd)) hd

theorem sound_trainFail {p pass : Nat} (hd : Sound d) : Sound (trainFail d p pass) :=
  sound_hrmRaise (sound_modPort hd)

theorem sound_decideDone {p peerPass width lgrp : Nat} (hd : Sound d) :
    Sound (decideDone d p peerPass width lgrp) := by
  simp only [decideDone]
  split
  · exact hd
  · split
    · exact sound_trainFail (sound_fset hd)
    · exact sound_setPhase (sound_fset (sound_fset (sound_fset hd)))

theorem sound_grantVc {p v : Nat} (hd : Sound d) : Sound (grantVc d p v) := by
  simp only [grantVc]
  exact sound_modPort (sound_fset hd)

theorem sound_lockDone {p : Nat} (hd : Sound d) : Sound (lockDone d p) :=
  sound_ite hd (sound_enqueue (sound_grantVc (sound_setLstate (sound_modPort hd))))

theorem sound_trainingTimeout {p : Nat} (hd : Sound d) : Sound (trainingTimeout d p) :=
  sound_ite (sound_trainFail hd) hd

theorem sound_trainfailReset {p : Nat} (hd : Sound d) : Sound (trainfailReset d p) :=
  sound_ite (sound_linkReset hd) hd

theorem sound_linkCame {p res : Nat} (hd : Sound d) : Sound (linkCame d p res) :=
  sound_linkChanged (sound_ite (sound_rilReopen (sound_foldl (sound_touchPorts (sound_fset (sound_setLstate hd)))
    (fun _ _ hs => sound_grantVc hs))) (sound_touchPorts (sound_fset (sound_setLstate hd))))

theorem sound_identTake {p : Nat} {m : Msg} (hd : Sound d) : Sound (identTake d p m) := by
  unfold identTake
  extract_lets e1 x res b e2 e3 e4 e5 own e6 e7 e8
  have h1 : Sound e1 := sound_takeInbox hd
  have h5 : Sound e5 := sound_fset (sound_fset (sound_fset (sound_fset (sound_fset (sound_regSet (sound_regSet h1))))))
  have h7 : Sound e7 := sound_modPort (sound_fset h5)
  have h8 : Sound e8 := sound_ite (sound_hrmNote h7) (sound_ite (sound_hrmNote h7) h7)
  exact sound_ite h1 (sound_ite (sound_enqueue h8) (sound_linkCame (sound_modPort h5)))

theorem sound_laneMismatch {p lane : Nat} (hd : Sound d) : Sound (laneMismatch d p lane) :=
  sound_ite (sound_resetRequest (sound_hrmRaise (sound_fset (sound_setPort (sound_fset (sound_countPkg hd))))))
    (sound_setPort (sound_fset (sound_countPkg hd)))

theorem sound_frameReceive {p : Nat} {syms : List Nat} (hd : Sound d) : Sound (frameReceive d p syms) := by
  unfold frameReceive
  refine sound_ite hd ?_
  extract_lets w f e e1 e2 x odd bad n no e3 base
  have h3 : Sound e3 := sound_setPort (sound_fincSat (sound_countPkg (sound_fincSat (sound_countPkg hd))))
  exact sound_ite (sound_resetRequest (sound_modPort h3))
    (sound_ite (sound_foldl h3 fun _ _ he => sound_laneMismatch he) h3)

theorem sound_flitOut {p kind vc seq : Nat} {payload : List Byte} (hd : Sound d) :
    Sound (flitOut d p kind vc seq payload) :=
  sound_setPort hd

theorem sound_sendData {p : Nat} {o : Out} (hd : Sound d) : Sound (sendData d p o) :=
  sound_countPkg (sound_countPkg (sound_fset (sound_finc (sound_fset (sound_modPort (sound_flitOut hd))))))

theorem sound_sendIdle {p : Nat} (hd : Sound d) : Sound (sendIdle d p) :=
  sound_countPkg (sound_modPort (sound_flitOut hd))

theorem sound_weighted {p : Nat} (hd : Sound d) : SoundSomeFst (weighted d p) := by
  simp only [weighted]
  split
  · trivial
  · split
    · trivial
    next v _ =>
      cases nextOut d p v with
      | none => trivial
      | some o => exact sound_setPort hd

theorem sound_flitSend {p : Nat} (hd : Sound d) : Sound (flitSend d p) := by
  simp only [flitSend]
  split
  · exact hd
  · split
    · exact sound_sendIdle hd
    · split
      · exact sound_countPkg (sound_countPkg (sound_modPort (sound_flitOut hd)))
      · split
        · exact sound_sendData hd
        · split
          · exact sound_sendData hd
          · split
            · next ha =>
                exact sound_sendData (sound_someFst ha (sound_weighted hd))
            · exact sound_sendIdle hd

theorem sound_takeAck {p ack : Nat} (hd : Sound d) : Sound (takeAck d p ack) := by
  simp only [takeAck]
  split
  · exact hd
  · exact sound_fset (sound_fset (sound_setPort hd))

theorem sound_takeNak {p : Nat} (hd : Sound d) : Sound (takeNak d p) := by
  simp only [takeNak]
  split
  · exact hd
  · exact sound_ite (sound_resetRequest hd) (sound_ite (sound_fincSat (sound_countPkg (sound_setPort hd)))
      (sound_hrmNote (sound_fincSat (sound_countPkg (sound_setPort hd)))))

theorem sound_takeCredits {p cvc n : Nat} (hd : Sound d) : Sound (takeCredits d p cvc n) :=
  sound_ite hd (sound_fset (sound_fset hd))

theorem sound_nakNow {p : Nat} (hd : Sound d) : Sound (nakNow d p) :=
  sound_ite hd (sound_setPort hd)

theorem sound_msgWhole {p : Nat} {m : Msg} {w0 : Nat} (hd : Sound d) : Sound (msgWhole d p m w0) :=
  sound_ite (sound_hrmRaise (sound_freeFlits hd)) (sound_modPort hd)

theorem sound_flitTake {p kind vc : Nat} {payload : List Byte} (hd : Sound d) :
    Sound (flitTake d p kind vc payload) := by
  simp only [flitTake]
  split
  · exact sound_freeFlits (sound_fset hd)
  · exact sound_ite (sound_msgWhole (sound_modPort (sound_fset hd))) (sound_modPort (sound_fset hd))

theorem sound_flitReceive {p : Nat} {b : List Byte} (hd : Sound d) : Sound (flitReceive d p b) := by
  unfold flitReceive
  refine sound_ite hd ?_
  extract_lets h kind vc seq x good payload e1 e2 e3 e4 e5
  have h3 : Sound e3 := sound_takeCredits (sound_takeAck (sound_adoptFlags (sound_ite (sound_modPort hd) hd)))
  have h4 : Sound e4 := sound_ite (sound_takeNak h3) h3
  refine sound_ite (sound_nakNow (sound_countPkg hd)) (sound_ite (sound_ite h4 (sound_ite (sound_idleTake h4) ?_)) ?_)
  · exact sound_flitTake (sound_countPkg (sound_modPort h4))
  · exact sound_ite h3 (sound_nakNow h3)

theorem sound_noRoute {p : Nat} {m : Msg} (hd : Sound d) : Sound (noRoute d p m) :=
  sound_ite (sound_sendSynthetic (sound_hrmRaise hd)) (sound_ite (sound_dropCount (sound_hrmRaise hd))
    (sound_hrmRaise hd))

theorem sound_messageForward {p : Nat} {m : Msg} (hd : Sound d) : Sound (messageForward d p m) := by
  simp only [messageForward]
  split
  · exact sound_takeInbox hd
  · split
    · exact sound_staleNote (sound_takeInbox hd)
    · split
      · exact sound_dropCount (sound_takeInbox hd)
      · split
        · exact sound_noRoute (sound_takeInbox hd)
        · split
          · exact sound_noRoute (sound_takeInbox hd)
          · exact sound_sendBy (sound_countPkg (sound_takeInbox hd))

theorem sound_responseTimeout (hd : Sound d) : Sound (responseTimeout d) := by
  unfold responseTimeout
  split
  · exact hd
  · exact sound_aqdAnswer (sound_countPkg (sound_dropCount hd))

theorem sound_hrmDiscard {p : Nat} (hd : Sound d) : Sound (hrmDiscard d p) :=
  sound_dropAll (sound_setPort hd)

/-! ### Collectives and the permutation -/

theorem sound_setColl {c : Coll} (hd : Sound d) : Sound (setColl d c) :=
  sound_setColls hd

theorem sound_sendPhase {c : Coll} (hd : Sound d) : Sound (sendPhase d c) :=
  sound_foldl (sound_qGet hd) (fun _ _ hs => sound_sendMsg hs)

theorem sound_scaleChunk {c : Coll} (hd : Sound d) : Sound (scaleChunk d c) := by
  unfold scaleChunk
  extract_lets e a
  split
  next f bs hf =>
    extract_lets vs e1 e2
    have h1 : Sound e1 := sound_ite (sound_fst hf (sound_qGet hd)) (sound_qPut (sound_fst hf (sound_qGet hd)))
    have h2 : Sound e2 := sound_ite h1 (sound_reportEvents h1)
    exact sound_ite (sound_gnTap h2) h2

theorem sound_collGo {cid : Nat} {n : Nat} (hd : Sound d) : Sound (collGo cid n d) := by
  induction n generalizing d with
  | zero => exact hd
  | succ n ih =>
    simp only [collGo]
    split
    · exact hd
    · exact sound_ite (ih (sound_scaleChunk (sound_setColl hd))) (sound_ite (ih (sound_sendPhase
        (sound_setColl hd))) hd)

theorem sound_collRun {cid : Nat} (hd : Sound d) : Sound (collRun d cid) := by
  unfold collRun
  split
  · exact hd
  · exact sound_collGo hd

theorem sound_collLaunch (hd : Sound d) : Sound (collLaunch d) := by
  simp only [collLaunch]
  split
  · exact hd
  · exact sound_ite hd (sound_collRun (sound_sendMsg (sound_ite (sound_gnTap (sound_qGet (sound_setColls
      (sound_setMach hd)))) (sound_setColls (sound_setMach hd)))))

theorem sound_collStale (hd : Sound d) : Sound (collStale d) :=
  sound_countPkg hd

theorem sound_arrival {p : Nat} {m : Msg} {f : Dev → Dev} (hd : Sound d) (hf : ∀ d, Sound d → Sound (f d)) :
    Sound (arrival d p m f) :=
  sound_ite (sound_dropCount (sound_takeInbox hd)) (sound_ite (sound_staleNote (sound_takeInbox hd)) (hf _
    (sound_ite (sound_takeInbox hd) (sound_capMsg (sound_takeInbox hd)))))

theorem sound_collData {m : Msg} {add : Bool} (hd : Sound d) : Sound (collData d m add) := by
  simp only [collData]
  split
  · exact sound_collStale hd
  · exact sound_ite (sound_collStale hd) (sound_setColl (sound_ite (sound_foldl hd
      (fun _ _ hs => sound_poolAtomic hs)) (sound_ite (sound_gnTap (sound_qPut hd)) (sound_qPut hd))))

theorem sound_phaseLanded {cid : Nat} (hd : Sound d) : Sound (phaseLanded d cid) := by
  simp only [phaseLanded]
  split
  · exact hd
  · exact sound_ite hd (sound_collRun (sound_sendMsg (sound_setColl hd)))

theorem sound_collReady {m : Msg} (hd : Sound d) : Sound (collReady d m) := by
  simp only [collReady]
  split
  · exact sound_collStale hd
  · split
    · exact sound_collRun (sound_setColl hd)
    · exact sound_ite (sound_setMach hd) (sound_collStale hd)

theorem sound_collAck {m : Msg} (hd : Sound d) : Sound (collAck d m) := by
  unfold collAck
  split
  · exact sound_collStale hd
  · exact sound_ite (sound_setColl hd) (sound_collStale hd)

theorem sound_collComplete {cid : Nat} (hd : Sound d) : Sound (collComplete d cid) := by
  simp only [collComplete]
  split
  · exact hd
  · exact sound_ite hd (sound_countPkg (sound_aqdCompleted (sound_setMach (sound_setColls hd))))

theorem sound_collTimeout {cid : Nat} (hd : Sound d) : Sound (collTimeout d cid) := by
  unfold collTimeout
  split
  · exact hd
  · exact sound_ite (sound_collFail hd) hd

theorem sound_colAbandon (hd : Sound d) : Sound (colAbandon d) :=
  sound_endList (sound_setMach (sound_setColls (sound_foldl (sound_foldl hd
    (fun _ _ hs1 => sound_aqdDiscarded hs1)) (fun _ _ hs2 => sound_modPort hs2))))

theorem sound_colStep (hd : Sound d) : Sound (colStep d) := by
  simp only [colStep]
  exact sound_setMach hd

theorem sound_colDrain (hd : Sound d) : Sound (colDrain d) :=
  sound_colAbandon hd

theorem sound_colDiscard (hd : Sound d) : Sound (colDiscard d) :=
  sound_foldl hd (fun _ _ hs => sound_modPort hs)

theorem sound_permTable (hd : Sound d) : Sound (permTable d).1 := by
  simp only [permTable]
  split
  · next ha =>
      exact sound_fst ha (sound_qRead hd)
  · next hb =>
      exact sound_fst hb (sound_qRead hd)

theorem sound_permEntry {w : List Nat} (hd : Sound d) : Sound (permEntry d w) := by
  simp only [permEntry]
  split
  · exact hd
  · split
    · next ha =>
        exact sound_permEnd (sound_fst ha (sound_qRead hd))
    · next hb =>
        exact sound_foldl (sound_fst hb (sound_qRead hd)) (fun _ _ hs => sound_sendMsg (sound_setMach hs))

theorem sound_permStart (hd : Sound d) : Sound (permStart d) := by
  simp only [permStart]
  split
  · exact sound_trees (sound_setMach (sound_setMach hd))
  · split
    · next ha =>
        exact sound_trees (sound_permEnd (sound_fst ha (sound_permTable (sound_aqdIssued (sound_setMach hd)))))
    · next hb =>
        exact sound_trees (sound_foldl (sound_fst hb (sound_permTable (sound_aqdIssued (sound_setMach hd))))
          (fun _ _ hs => sound_permEntry hs))

theorem sound_permLaunch (hd : Sound d) : Sound (permLaunch d) :=
  sound_ite hd (sound_ite (sound_permStart (sound_setMach hd)) (sound_ite (sound_permStart hd) hd))

theorem sound_permComplete (hd : Sound d) : Sound (permComplete d) :=
  sound_ite (sound_trees (sound_permEnd hd)) (sound_trees hd)

theorem sound_permBudget (hd : Sound d) : Sound (permBudget d) :=
  sound_ite (sound_trees (sound_permEnd hd)) (sound_trees hd)

theorem sound_pwrite {p : Nat} {m : Msg} (hd : Sound d) : Sound (pwrite d p m) :=
  sound_ite (sound_collStale hd) (sound_sendSynthetic (sound_ite (sound_setMach (sound_qWrite hd))
    (sound_qWrite hd)))

theorem sound_permAck {ok : Bool} (hd : Sound d) : Sound (permAck d ok) :=
  sound_ite hd (sound_ite (sound_trees (sound_permEnd hd)) (sound_setMach hd))

/-! ### The host -/

theorem sound_doorbell {off : Nat} {bs : List Byte} (hd : Sound d) : Sound (doorbell d off bs) :=
  sound_ite hd (sound_ite (sound_hstPost hd) (sound_reportDrops (sound_ite (sound_countPkg (sound_countPkg
    (sound_setRingH (sound_fset hd)))) (sound_countPkg (sound_setRingH (sound_fset hd))))))

theorem sound_cmdDeliver {n : Nat} {bs : List Byte} (hd : Sound d) : Sound (cmdDeliver d n bs) :=
  sound_ite (sound_consequence (sound_hstPost (sound_setRingH (sound_capLog hd)))) (sound_govSet (sound_countPkg
    (sound_qPut (sound_setRingH (sound_capLog hd)))))

theorem sound_pcieFail {n k : Nat} (hd : Sound d) : Sound (pcieFail d n k) :=
  sound_consequence (sound_hstPost hd)

theorem sound_bellDone {n : Nat} (hd : Sound d) : Sound (bellDone d n) :=
  sound_setRingH hd

theorem sound_descriptorFetch {n : Nat} {desc : Option (List Byte)} (hd : Sound d) :
    Sound (descriptorFetch d n desc) := by
  simp only [descriptorFetch]
  split
  · exact hd
  · split
    · exact sound_bellDone hd
    · split
      · exact sound_pcieFail (sound_bellDone hd)
      · exact sound_cmdDeliver (sound_bellDone hd)

theorem sound_cmdConsume {n : Nat} (hd : Sound d) : Sound (cmdConsume d n) :=
  sound_ite (sound_weiParams (sound_ringWb (sound_ite (sound_setRingH (sound_fset hd)) (sound_fset hd))))
    (sound_ringWb (sound_ite (sound_setRingH (sound_fset hd)) (sound_fset hd)))

theorem sound_dataDeliver {n : Nat} {bs : List Byte} (hd : Sound d) : Sound (dataDeliver d n bs) := by
  simp only [dataDeliver]
  exact sound_aqdRun (sound_countPkg (sound_setRingH hd))

theorem sound_dataFetch {n : Nat} {desc : Option (List Byte)} (hd : Sound d) : Sound (dataFetch d n desc) := by
  simp only [dataFetch]
  split
  · exact hd
  · split
    · exact sound_bellDone hd
    · split
      · exact sound_pcieFail (sound_bellDone hd)
      · exact sound_dataDeliver (sound_bellDone hd)

theorem sound_headsCommit (hd : Sound d) : Sound (headsCommit d) :=
  sound_foldl hd (fun _ _ hs => sound_ite hs (sound_commitHead hs))

theorem sound_headsReturn (hd : Sound d) : Sound (headsReturn d) :=
  sound_foldl hd (fun _ _ hs => sound_ite (sound_setRingH hs) (sound_setRingH hs))

theorem sound_ringStart {n : Nat} (hd : Sound d) : Sound (ringStart d n) :=
  sound_ite (sound_reportDrops (sound_setRingH (sound_latch hd))) (sound_setRingH (sound_latch hd))

theorem sound_ringDrain {n : Nat} (hd : Sound d) : Sound (ringDrain d n) := by
  simp only [ringDrain]
  split
  · exact sound_govSet (sound_setRingH hd)
  · exact hd
  · exact sound_setRingH hd

theorem sound_overflowWrite (hd : Sound d) : Sound (overflowWrite d) := by
  simp only [overflowWrite]
  split
  · exact sound_reportDrops (sound_emitEnd (sound_ringPut (sound_withHst hd rfl)))
  · split
    · exact sound_reportDrops (sound_ringPut (sound_setOvf hd))
    · exact hd

theorem sound_msixModeration {n : Nat} (hd : Sound d) : Sound (msixModeration d n) :=
  sound_ite (sound_msixSend (sound_setRingH hd)) hd

theorem sound_resetRange {lo hi : Nat} (hd : Sound d) : Sound (resetRange d lo hi) :=
  sound_withLive (sound_withRegs hd)

theorem sound_hstReset (hd : Sound d) : Sound (hstReset d) :=
  sound_withHst (sound_foldl (sound_resetRange hd) (fun _ _ hs => sound_govSet hs)) rfl

end

end Sys2Proof.Machine
end

section
/-! PROOFS. The memories stay canonical: power, books, the stream and the blocks. -/

namespace Sys2Proof.Machine

section
variable {d : Dev}

/-! ### Power -/

theorem sound_pwrRaise {number sev detail : Nat} (hd : Sound d) : Sound (pwrRaise d number sev detail) :=
  sound_raise (sound_fset hd)

theorem sound_setPwr {f : Pwr → Pwr} (hd : Sound d) : Sound (setPwr d f) :=
  sound_withPwr hd

theorem sound_setRail {r v : Nat} (hd : Sound d) : Sound (setRail d r v) :=
  sound_fset hd

theorem sound_nvStop (hd : Sound d) : Sound (nvStop d) :=
  sound_ite hd (sound_pwrRaise (sound_fset (sound_fset hd)))

theorem sound_secverBlow (hd : Sound d) : Sound (secverBlow d) :=
  sound_ite hd (sound_withTst hd)

theorem sound_nvResume (hd : Sound d) : Sound (nvResume d) := by
  unfold nvResume
  extract_lets e
  have he : Sound e := sound_ite (sound_fset hd) hd
  exact sound_ite he (sound_secverBlow (sound_fset (sound_withNv he he.nvNext)))

theorem sound_nvGuard {auxLow : Bool} (hd : Sound d) : Sound (nvGuard d auxLow) :=
  sound_nvStop (sound_setPwr hd)

theorem sound_nvRelease (hd : Sound d) : Sound (nvRelease d) :=
  sound_nvResume (sound_setPwr hd)

theorem sound_nvWp {low : Bool} (hd : Sound d) : Sound (nvWp d low) :=
  sound_ite (sound_fset (sound_setPwr hd)) (sound_nvResume (sound_setPwr hd))

theorem sound_railWarn {r mv : Nat} (hd : Sound d) : Sound (railWarn d r mv) :=
  sound_ite (sound_nvStop (sound_setRail hd)) (sound_pwrRaise (sound_setPwr (sound_nvStop (sound_setRail hd))))

theorem sound_railFault {r mv : Nat} {absent : Bool} (hd : Sound d) : Sound (railFault d r mv absent) :=
  sound_ite (sound_setRail hd) (sound_ite (sound_pwrRaise (sound_nvStop (sound_setRail hd))) (sound_nvStop
    (sound_setRail hd)))

theorem sound_railRecovery {r : Nat} (hd : Sound d) : Sound (railRecovery d r) :=
  sound_nvResume (sound_setRail hd)

theorem sound_floorsApply (hd : Sound d) : Sound (floorsApply d) := by
  unfold floorsApply
  extract_lets f eff cause e1 was
  have h1 : Sound e1 := sound_ite hd (sound_foldl (sound_fset hd) fun _ _ he => sound_govSet (sound_fset he))
  exact sound_ite (sound_pwrRaise (sound_setPwr (sound_fset h1))) (sound_ite (sound_pwrRaise (sound_fset h1)) h1)

theorem sound_thrApply (hd : Sound d) : Sound (thrApply d) :=
  sound_floorsApply (sound_fset hd)

theorem sound_throttleSample {on : Bool} (hd : Sound d) : Sound (throttleSample d on) :=
  sound_ite (sound_setPwr (sound_fset hd)) (sound_ite (sound_setPwr (sound_fset hd)) (sound_thrApply (sound_setPwr
    (sound_fset (sound_fset hd)))))

theorem sound_throttleStuck (hd : Sound d) : Sound (throttleStuck d) :=
  sound_ite (sound_thrApply (sound_pwrRaise (sound_fset hd))) hd

theorem sound_throttleClear (hd : Sound d) : Sound (throttleClear d) :=
  sound_thrApply (sound_setPwr (sound_fset hd))

theorem sound_thermalFloor {temp : Nat} (hd : Sound d) : Sound (thermalFloor d temp) :=
  sound_ite (sound_floorsApply (sound_fset (sound_setPwr hd))) (sound_ite (sound_floorsApply (sound_fset
    (sound_setPwr hd))) (sound_ite (sound_setPwr hd) (sound_ite (sound_setPwr hd) (sound_ite (sound_floorsApply
    (sound_fset hd)) hd))))

theorem sound_powerCapInterval {watts : Nat} (hd : Sound d) : Sound (powerCapInterval d watts) :=
  sound_floorsApply (sound_fset hd)

theorem sound_spill {h i : Nat} {fi fs : Fld} (hd : Sound d) : Sound (spill d h i fi fs) :=
  sound_fset (sound_fset (sound_setPwr hd))

theorem sound_currentInterval {ia ib : Nat} {est : List (Nat × Nat)} (hd : Sound d) :
    Sound (currentInterval d ia ib est) :=
  sound_floorsApply (sound_fset (sound_spill (sound_spill hd)))

theorem sound_clocksStop (hd : Sound d) : Sound (clocksStop d) :=
  sound_setPwr hd

theorem sound_thermTrip (hd : Sound d) : Sound (thermTrip d) :=
  sound_pwrRaise (sound_clocksStop (sound_setPwr hd))

theorem sound_clkLoss (hd : Sound d) : Sound (clkLoss d) :=
  sound_pwrRaise (sound_clocksStop hd)

theorem sound_serdesLoss {n : Nat} (hd : Sound d) : Sound (serdesLoss d n) :=
  sound_foldl hd (fun _ _ hs => sound_resetRequest hs)

theorem sound_wakeEvent {src : Nat} (hd : Sound d) : Sound (wakeEvent d src) := by
  simp only [wakeEvent]
  split
  · exact sound_ite (sound_setPwr (sound_fset (sound_fset (sound_fset hd)))) (sound_fset (sound_fset
      (sound_fset hd)))
  · exact sound_fset (sound_fset (sound_fset (sound_fset hd)))
  · exact hd

theorem sound_wakeTimer (hd : Sound d) : Sound (wakeTimer d) :=
  sound_ite (sound_wakeEvent hd) hd

/-! ### Books and audits -/

theorem sound_audit {bs : List Book} (hd : Sound d) : Sound (audit d bs) := by
  simp only [audit]
  split
  · exact sound_ite (sound_fincSat hd) (sound_tstRaise (sound_withTst (sound_fincSat hd)))
  · exact sound_fset (sound_withTst (sound_fincSat hd))

theorem sound_bookRaise {b : BookFail} (hd : Sound d) : Sound (bookRaise d b) := by
  unfold bookRaise
  split
  · exact sound_rilEvent hd
  · exact sound_ephRaise hd
  · exact sound_weiRaise hd
  · exact sound_memRaise hd
  · exact sound_aqdRaise hd
  · exact sound_hrmNote hd
  · exact sound_consequence (sound_hstPost hd)
  · exact sound_pwrRaise hd
  · exact sound_machRaise hd

theorem sound_auditCompare (hd : Sound d) : Sound (auditCompare d) := by
  simp only [auditCompare]
  split
  · exact hd
  · exact sound_foldl (sound_fset (sound_withTst hd)) (fun _ _ hs => sound_bookRaise (sound_fincSat hs))

theorem sound_auditRun (hd : Sound d) : Sound (auditRun d) :=
  sound_ite (sound_audit hd) hd

theorem sound_pairCheck {kind index value : Nat} (hd : Sound d) : Sound (pairCheck d kind index value) :=
  sound_ite (sound_fset hd) (sound_ite (sound_ite (sound_fset hd) (sound_ite (sound_fset hd) (sound_rilEvent
    (sound_fset hd)))) (sound_ite (sound_ite (sound_fset hd) (sound_hrmNote (sound_fset hd))) (sound_fset hd)))

/-! ### Soft errors -/

theorem sound_timedOp {iss : Issue} {terr : Nat} {f : Dev → Dev} (hd : Sound d)
    (hf : ∀ d, Sound d → Sound (f d)) : Sound (timedOp d iss terr f) := by
  unfold timedOp
  extract_lets es
  split
  · exact hf d hd
  · split
    next e zeros he =>
      have hs : Sound e := sound_fst he (sound_foldl_fst (sound_tick hd) fun _ _ hs => sound_eccApply hs)
      extract_lets m e'
      have hs' : Sound e' := hf _ (sound_withMem hs (foldl_memSet_wf _ hs.mem))
      refine sound_withMem hs' (foldl_wf _ (fun n a hn => ?_) hs'.mem)
      split
      · exact memSet_wf _ _ _ hn
      · exact hn

/-! ### The instruction stream -/

theorem sound_setSeq {f : Seq → Seq} (hd : Sound d) : Sound (setSeq d f) :=
  sound_withSeq hd

theorem sound_closeStep (hd : Sound d) : Sound (closeStep d) :=
  sound_countBoth (sound_setSeq (sound_fset (sound_finc (sound_finc hd))))

theorem sound_stepReport {v : Nat} (hd : Sound d) : Sound (stepReport d v) :=
  sound_ite hd (sound_ownReport (sound_setSeq hd))

theorem sound_unwindBegin (hd : Sound d) : Sound (unwindBegin d) :=
  sound_stepReport (sound_finc (sound_headsReturn (sound_colAbandon (sound_weiStop (sound_aqdUnwind
    (sound_rilUnwind (sound_countBoth (sound_setSeq (sound_dropFlow hd)))))))))

theorem sound_abortSeen {s : Nat} (hd : Sound d) : Sound (abortSeen d s) :=
  sound_ite (sound_setSeq hd) (sound_ite (sound_ite (sound_unwindBegin hd) hd) (sound_setSeq hd))

theorem sound_verdictClear {s : Nat} (hd : Sound d) : Sound (verdictClear d s) := by
  unfold verdictClear
  extract_lets e1 e2 own e3
  have h2 : Sound e2 := sound_foldl (sound_weiClear (sound_ephClear (sound_psnVerdict hd)))
    fun _ _ he => sound_commitHead he
  have h3 : Sound e3 := sound_ite (sound_closeStep h2) h2
  exact sound_ite (sound_setSeq h3) h3

theorem sound_verdictBad {s : Nat} (hd : Sound d) : Sound (verdictBad d s) := by
  unfold verdictBad
  extract_lets own e1 e2
  have h1 : Sound e1 := sound_ite (sound_unwindBegin (sound_setSeq hd)) (sound_weiStop hd)
  have h2 : Sound e2 := sound_psnVerdict (sound_astRollback (sound_weiRollback (sound_ephBad h1)))
  exact sound_ite (sound_setSeq h2) (sound_ite (sound_setSeq h2) h2)

theorem sound_observeOne {e : GovEvent} (hd : Sound d) : Sound (observeOne d e) := by
  simp only [observeOne]
  split
  · exact sound_abortSeen (sound_withPend (sound_withObs hd))
  · exact sound_ite (sound_verdictClear (sound_withPend (sound_withObs hd))) (sound_verdictBad (sound_withPend
      (sound_withObs hd)))
  · exact sound_setSeq (sound_withPend (sound_withObs hd))
  · exact sound_setSeq (sound_withPend (sound_withObs hd))
  · exact sound_setSeq (sound_withPend (sound_withObs hd))
  · exact sound_withPend (sound_withObs hd)

theorem sound_observeAll {n : Nat} (hd : Sound d) : Sound (observeAll n d) := by
  induction n generalizing d with
  | zero => exact hd
  | succ n ih =>
    simp only [observeAll]
    split
    · exact hd
    · exact ih (sound_observeOne hd)

theorem sound_observe {t : Nat} (hd : Sound d) : Sound (observe d t) :=
  sound_observeAll (sound_landCommits (sound_tick hd))

theorem sound_slotEph {iss : Issue} {w : Nat} (hd : Sound d) : Sound (slotEph d iss w) := by
  unfold slotEph
  split
  · exact hd
  · split
    · exact sound_ephIssue hd
    · exact sound_ephIllegal hd

theorem sound_slotAst {iss : Issue} {w : Nat} (hd : Sound d) : Sound (slotAst d iss w) := by
  unfold slotAst
  split
  · exact hd
  · split
    · exact sound_astIssue hd
    · exact sound_astIllegal hd

theorem sound_slotCas {iss : Issue} {t w : Nat} (hd : Sound d) : Sound (slotCas d iss t w) := by
  unfold slotCas
  split
  · exact hd
  · refine sound_timedOp hd ?_
    intro _ hs
    split
    · exact sound_casIssue hs
    · exact sound_casIllegal hs

theorem sound_slotJet {iss : Issue} {t w : Nat} (hd : Sound d) : Sound (slotJet d iss t w) := by
  unfold slotJet
  split
  · exact hd
  · refine sound_timedOp hd ?_
    intro _ hs
    split
    · exact sound_jetIssue hs
    · exact sound_jetIllegal hs

theorem sound_slotRil {iss : Issue} {p w : Nat} (hd : Sound d) : Sound (slotRil d iss p w) := by
  unfold slotRil
  split
  · exact hd
  · split
    · exact sound_rilIssue hd
    · exact sound_rilIllegal hd

theorem sound_slotAqd {iss : Issue} {p w : Nat} (hd : Sound d) : Sound (slotAqd d iss p w) := by
  unfold slotAqd
  split
  · exact hd
  · split
    · exact sound_aqdIssue hd
    · exact sound_aqdIllegal hd

theorem sound_slotWei {iss : Issue} {w : Nat} (hd : Sound d) : Sound (slotWei d iss w) := by
  unfold slotWei
  split
  · exact hd
  · split
    · exact sound_weiIssue hd
    · exact sound_weiIllegal hd

theorem sound_halfSlots {iss : Issue} {w : Nat} (hd : Sound d) : Sound (halfSlots d iss w) :=
  sound_slotWei (sound_slotAqd (sound_slotAqd (sound_slotRil (sound_slotRil (sound_foldl (sound_foldl
    (sound_slotAst hd) (fun _ _ hs1 => sound_slotCas hs1)) (fun _ _ hs2 => sound_slotJet hs2))))))

theorem sound_issueSlots {s : StrandId} {ecc : List Ecc} {wa wb : Nat} (hd : Sound d) :
    Sound (issueSlots d s ecc wa wb) :=
  sound_halfSlots (sound_halfSlots (sound_slotEph (sound_slotEph hd)))

theorem sound_seqFault {s : StrandId} {h w number code late : Nat} (hd : Sound d) :
    Sound (seqFault d s h w number code late) :=
  sound_seqRaise hd

theorem sound_seqHalt {s : StrandId} {h w code : Nat} (hd : Sound d) : Sound (seqHalt d s h w code) :=
  sound_seqSelfStop (sound_seqFault (sound_fset hd))

theorem sound_noteLate {s : StrandId} {wa wb : Nat} {oa ob : CtlOp} (hd : Sound d) :
    Sound (noteLate d s wa wb oa ob) := by
  simp only [noteLate]
  split
  · exact hd
  · exact sound_ite (sound_seqFault (sound_ite (sound_countBoth (sound_setSeq hd)) hd)) (sound_ite (sound_countBoth
      (sound_setSeq hd)) hd)

theorem sound_noteSida {oa ob : CtlOp} (hd : Sound d) : Sound (noteSida d oa ob) := by
  unfold noteSida
  split
  · exact sound_setSeq hd
  · exact sound_setSeq hd
  · exact hd

theorem sound_pageOp {s : StrandId} {w mode page : Nat} (hd : Sound d) : Sound (pageOp d s w mode page) := by
  unfold pageOp
  split
  · exact hd
  · split
    · exact sound_foldl hd (fun _ _ hs => sound_fetchPage hs)
    · split
      · next ha =>
          split
          · next hb =>
              exact sound_ite (sound_seqFault (sound_fst hb (sound_pinPage (sound_fst ha (sound_pinPage hd)))))
                (sound_fst hb (sound_pinPage (sound_fst ha (sound_pinPage hd))))
    · exact sound_foldl hd (fun _ _ hs => sound_unpinPage hs)

theorem sound_openStep {spc t0src : Nat} (hd : Sound d) : Sound (openStep d spc t0src) :=
  sound_headsCommit (sound_colStep (sound_cntStep (sound_astStep (sound_ephStep (sound_rilStep (sound_withObs
    (sound_setSeq (sound_fset (sound_regSet hd)))))))))

theorem sound_ctlEffect {s : StrandId} {w : Nat} {op : CtlOp} (hd : Sound d) : Sound (ctlEffect d s w op) := by
  unfold ctlEffect
  split
  · exact sound_openStep hd
  · exact sound_closeStep hd
  · exact sound_cmdConsume hd
  · exact sound_setSeq hd
  · exact sound_setSeq hd
  · exact sound_pageOp hd
  · exact hd

theorem sound_trapNote {s : StrandId} {h w : Nat} {op : CtlOp} (hd : Sound d) : Sound (trapNote d s h w op) := by
  unfold trapNote
  split
  · exact sound_seqFault hd
  · exact hd

theorem sound_issueBundle {s : StrandId} {ecc : List Ecc} {wa wb : Nat} {oa ob : CtlOp} {go : Flow}
    (hd : Sound d) : Sound (issueBundle d s ecc wa wb oa ob go) := by
  unfold issueBundle
  extract_lets x first e1 e2 e3 e4 e5 e6 e7 e8 e9
  have h1 : Sound e1 := by
    unfold e1
    split
    · exact sound_audit hd
    · exact hd
  have h2 : Sound e2 := sound_ite (sound_noteSida (sound_noteLate h1)) h1
  have h4 : Sound e4 := sound_ite (sound_ctlEffect (sound_noteIssue h2)) (sound_noteIssue h2)
  have h5 : Sound e5 := sound_ite (sound_ctlEffect h4) h4
  have h7 : Sound e7 := sound_ite (sound_trapNote (sound_trapNote (sound_issueSlots h5))) (sound_issueSlots h5)
  have h8 : Sound e8 := by
    unfold e8
    split
    · exact sound_seqHalt h7
    · exact h7
  have h9 : Sound e9 := sound_ite h8 (sound_goTo (sound_setSeq h8))
  split
  · exact h8
  · split
    · exact sound_ite (sound_unwindBegin (sound_setSeq h9)) h9
    · exact h9

theorem sound_stepGate {s : StrandId} {w : Nat} {op : CtlOp} (hd : Sound d) : SoundSome (stepGate d s w op) := by
  simp only [stepGate]
  split
  · split
    · exact trivial
    · exact sound_holdStrand (sound_stepReport hd)
  · split
    · exact sound_seqHalt (sound_ite (sound_capEnd (sound_setSeq hd)) hd)
    · split
      · exact hd
      · split
        · exact sound_poolAsk (sound_poolAsk (sound_setSeq (sound_fset hd)))
        · exact trivial
  · split
    · split
      · exact trivial
      · exact sound_holdStrand hd
    · exact trivial
  · exact trivial

theorem sound_tryBundle {s : StrandId} {ecc : List Ecc} {wa wb : Nat} (hd : Sound d) :
    Sound (tryBundle d s ecc wa wb) := by
  simp only [tryBundle]
  split
  · exact sound_seqFault hd
  · split
    · exact sound_holdStrand hd
    · split
      · split
        · exact hd
        · exact hd
        · exact sound_setStrand hd
      · split
        · next ha =>
            refine sound_some ha ?_
            split
            · exact sound_stepGate hd
            · exact trivial
        · split
          · exact sound_ite (sound_seqFault hd) hd
          · exact sound_issueBundle hd
  · exact hd

theorem sound_parityFail {s : StrandId} {h w : Nat} (hd : Sound d) : Sound (parityFail d s h w) :=
  sound_ite (sound_seqFault hd) (sound_govSet (sound_setPager (sound_seqFault hd)))

theorem sound_bundleIssue {s : StrandId} {ecc : List Ecc} (hd : Sound d) : Sound (bundleIssue d s ecc) := by
  simp only [bundleIssue]
  split
  · exact hd
  · split
    · exact sound_seqFault hd
    · split
      · exact sound_foldl hd (fun _ _ hs => sound_fetchPage hs)
      · split
        · exact sound_ite hd (sound_ite (sound_ite (sound_ite hd (sound_parityFail hd)) (sound_parityFail
            (sound_ite hd (sound_parityFail hd)))) (sound_tryBundle hd))
        · exact hd

theorem sound_ctlIssue {s : StrandId} {op : CtlOp} (hd : Sound d) : Sound (ctlIssue d s op) :=
  sound_ite hd (sound_ite (sound_seqFault hd) (sound_tryBundle hd))

theorem sound_ctlIssueIn {s : StrandId} {h : Nat} {op : CtlOp} (hd : Sound d) : Sound (ctlIssueIn d s h op) :=
  sound_ite hd (sound_ite (sound_seqFault hd) (sound_ite (sound_tryBundle hd) (sound_tryBundle hd)))

theorem sound_pageArrival {h page : Nat} (hd : Sound d) : Sound (pageArrival d h page) := by
  simp only [pageArrival]
  split
  · exact sound_pageArrive hd
  · exact sound_seqRaise (sound_pageArrive hd)

theorem sound_segmentStart {b : Bool} (hd : Sound d) : Sound (segmentStart d b) := by
  simp only [segmentStart]
  split
  · exact hd
  · exact sound_ite (sound_prefetchAhead (sound_foldl (sound_setSeq (sound_setStrand hd))
      (fun _ _ hs => sound_fetchPage hs))) hd

theorem sound_waitTimeout {s : StrandId} (hd : Sound d) : Sound (waitTimeout d s) := by
  simp only [waitTimeout]
  split
  · exact hd
  · exact sound_ite hd (sound_seqRaiseSev (sound_setSeq (sound_setStrand hd)))

theorem sound_unwindResume (hd : Sound d) : Sound (unwindResume d) :=
  sound_ite (sound_ite (sound_aqdUnwound hd) (sound_prefetchAhead (sound_foldl (sound_setSeq (sound_aqdUnwound hd))
    (fun _ _ hs => sound_fetchPage hs)))) hd

theorem sound_loadTables (hd : Sound d) : Sound (loadTables d) :=
  sound_withTables (sound_foldl hd (fun _ _ hs => sound_ctlTouch hs))

theorem sound_startFails {number ctl half : Nat} (hd : Sound d) : Sound (startFails d number ctl half) :=
  sound_seqRaise (sound_fset hd)

theorem sound_seqStart (hd : Sound d) : Sound (seqStart d) := by
  unfold seqStart
  split
  · exact hd
  · split
    · exact sound_foldl hd fun _ _ he => sound_startFails he
    · split
      · exact sound_startFails hd
      · extract_lets e1 e2 e3 a q gone e4 seq strand e5 ast e6
        have h3 : Sound e3 := sound_fset (sound_latch (sound_startCommon (sound_loadTables hd)))
        have h4 : Sound e4 := sound_foldl h3 fun _ _ he => sound_foldl he fun _ _ hs => sound_govSet hs
        have h6 : Sound e6 := sound_withAst (sound_withRvrUse (sound_setSeq h4))
        exact sound_prefetchAhead (sound_foldl h6 fun _ _ he => sound_fetchPage he)

theorem sound_seqDrain (hd : Sound d) : Sound (seqDrain d) :=
  sound_stopStrands hd

theorem sound_seqDropQueues (hd : Sound d) : Sound (seqDropQueues d) :=
  sound_weiDropQueue (sound_weiDropQueue (sound_foldl hd (fun _ _ hs => sound_aqdDropQueue (sound_setRilQueue hs))))

/-! ### Blocks -/

theorem sound_startBlock {b : Blk} (hd : Sound d) : Sound (startBlock d b) := by
  unfold startBlock
  split
  · exact sound_seqStart hd
  · exact sound_startCommon (sound_latchRange hd)
  · exact sound_startCommon hd
  · exact sound_startCommon hd
  · exact sound_startCommon hd
  · exact sound_ite (sound_rilStart (sound_startCommon hd)) (sound_rilEvent (sound_fset hd))
  · exact sound_ite (sound_ephStart (sound_startCommon hd)) (sound_ephRaise hd)
  · exact sound_ite (sound_weiStart (sound_startCommon hd)) (sound_weiRaise hd)
  · exact sound_astStart (sound_startCommon hd)
  · exact sound_aqdStart (sound_startCommon hd)
  · exact sound_ite (sound_ringStart (sound_startCommon hd)) (sound_hstPost (sound_fset hd))

theorem sound_drainBlock {b : Blk} (hd : Sound d) : Sound (drainBlock d b) := by
  unfold drainBlock
  split
  · exact sound_seqDrain hd
  · exact sound_rilDrain hd
  · exact sound_weiDrain hd
  · exact sound_aqdDiscard hd
  · exact sound_colDrain hd
  · exact sound_ringDrain hd
  · exact hd
  · exact hd
  · exact hd
  · exact hd
  · exact hd

theorem sound_astDiscard {h : Nat} (hd : Sound d) : Sound (astDiscard d h) :=
  sound_raise (sound_fset (sound_fset (sound_emitEnd (sound_withAst (sound_withHst hd rfl)))))

theorem sound_discardBlock {b : Blk} (hd : Sound d) : Sound (discardBlock d b) := by
  unfold discardBlock
  split
  · exact sound_seqDropQueues hd
  · exact sound_rilDiscard hd
  · exact sound_astDiscard hd
  · exact sound_aqdRaise hd
  · exact sound_hrmDiscard hd
  · exact sound_colDiscard hd
  · exact hd
  · exact hd
  · exact hd
  · exact hd
  · exact hd

theorem sound_flrCheck (hd : Sound d) : Sound (flrCheck d) :=
  sound_ite (sound_hstReset hd) hd

theorem sound_endDrain {b : Blk} (hd : Sound d) : Sound (endDrain d b) := by
  unfold endDrain
  extract_lets pend e1 e2 e3 e4 ril e5
  have h2 : Sound e2 := by
    refine sound_drainedCommon ?_
    unfold e1
    split
    · exact sound_aqdDiscardEnd hd
    · exact hd
  have h4 : Sound e4 := by
    refine sound_ite (sound_startBlock ?_) h2
    split
    · exact sound_weiDropQueue (sound_fset h2)
    · exact sound_fset h2
  have h5 : Sound e5 := by
    unfold e5
    split
    · exact sound_withRil h4
    · exact h4
  exact sound_flrCheck h5

theorem sound_enableNow {b : Blk} (hd : Sound d) : Sound (enableNow d b) := by
  simp only [enableNow]
  split
  · exact sound_ite (sound_setPwr (sound_fset hd)) (sound_startBlock (sound_fset hd))
  · exact sound_fset (sound_fset hd)
  · exact sound_fset hd

theorem sound_enableBlock {b : Blk} (hd : Sound d) : Sound (enableBlock d b) :=
  sound_ite (sound_enableNow hd) (sound_wakeEvent (sound_setPwr hd))

theorem sound_heldEnables (hd : Sound d) : Sound (heldEnables d) :=
  sound_foldl (sound_setPwr hd) (fun _ _ hs => sound_enableNow hs)

theorem sound_disableBlock {b : Blk} (hd : Sound d) : Sound (disableBlock d b) :=
  sound_ite (sound_drainBlock (sound_disableCommon (sound_fset (sound_setPwr hd)))) (sound_disableCommon
    (sound_fset (sound_setPwr hd)))

theorem sound_drainComplete {b : Blk} (hd : Sound d) : Sound (drainComplete d b) :=
  sound_ite (sound_endDrain hd) hd

theorem sound_drainTimeout {b : Blk} (hd : Sound d) : Sound (drainTimeout d b) := by
  unfold drainTimeout
  split
  · exact hd
  · split
    · exact sound_endDrain hd
    · split
      · exact hd
      · exact hd
      · exact hd
      · exact sound_endDrain (sound_discardBlock hd)

end

end Sys2Proof.Machine
end

section
/-! PROOFS. The memories stay canonical: bring-up and states, accesses, test and management. -/

namespace Sys2Proof.Machine

section
variable {d : Dev}

/-! ### Bring-up -/

theorem sound_dirSet {b : Bool} (hd : Sound d) : Sound (dirSet d b) :=
  sound_nvWrite hd

/-! ### Package states and resets -/

theorem sound_flr (hd : Sound d) : Sound (flr d) :=
  sound_flrCheck (sound_withHst (sound_foldl hd (fun _ _ hs => sound_disableBlock hs)) rfl)

theorem sound_scrubGo (hd : Sound d) : Sound (scrubGo d) :=
  sound_ite hd (sound_ite (sound_fset hd) (sound_fset (sound_fset hd)))

theorem sound_resetArray {base n : Nat} (hd : Sound d) : Sound (resetArray d base n) :=
  sound_resetRange hd

theorem sound_scrubHalf {h : Nat} (hd : Sound d) : Sound (scrubHalf d h) :=
  sound_resetArray (sound_resetRange (sound_resetRange (sound_resetRange (sound_resetRange (sound_setPool
    (sound_resetRange (sound_resetArray hd)))))))

theorem sound_scrubComplete (hd : Sound d) : Sound (scrubComplete d) := by
  unfold scrubComplete
  split
  · exact hd
  · refine sound_heldEnables (sound_post (sound_fset (sound_fset (sound_fset ?_))))
    refine sound_resetRange (sound_resetRange (sound_resetRange (sound_resetArray ?_)))
    refine sound_resetRange (sound_resetRange (sound_resetRange ?_))
    exact sound_withMs (sound_withSeq (sound_withAst (sound_withWei (sound_withEphRes (sound_withEph
      (sound_withJet (sound_withCas (sound_withMem (sound_scrubHalf (sound_scrubHalf hd)) wf_nil))))))))

theorem sound_restoreRows {l : List (Nat × W64)} (hd : Sound d) : Sound (restoreRows d l) :=
  sound_foldl hd (fun _ _ hs => sound_regSet hs)

theorem sound_gapApply (hd : Sound d) : Sound (gapApply d) :=
  sound_foldl hd (fun _ _ hs => sound_withObs (sound_fset hs))

theorem sound_setPhaseHold {n : Nat} (hd : Sound d) : Sound (setPhaseHold d n) :=
  sound_fset hd

theorem sound_setPstate {n : Nat} (hd : Sound d) : Sound (setPstate d n) :=
  sound_fset hd

theorem sound_holdRequest (hd : Sound d) : Sound (holdRequest d) :=
  sound_ite hd (sound_poolAsk (sound_poolAsk (sound_setPwr (sound_setPhaseHold (sound_regSet
    (sound_setPstate hd))))))

theorem sound_holdRelease (hd : Sound d) : Sound (holdRelease d) :=
  sound_heldEnables (sound_pwrRaise (sound_setPwr (sound_fset (sound_setPstate (sound_setPhaseHold hd)))))

theorem sound_holdRefuse {code inst reason : Nat} (hd : Sound d) : Sound (holdRefuse d code inst reason) :=
  sound_holdRelease (sound_ite (sound_fset (sound_fset (sound_fset (sound_fset hd)))) (sound_fset (sound_fset
    (sound_fset (sound_fincSat (sound_fset (sound_fset (sound_fset (sound_fset hd)))))))))

theorem sound_holdAbandon {ap : Nat} (hd : Sound d) : Sound (holdAbandon d ap) :=
  sound_holdRelease (sound_ite (sound_fset (sound_fset hd)) (sound_fincSat (sound_fset (sound_fset hd))))

theorem sound_setHoldBlk {b : HoldBlk} (hd : Sound d) : Sound (setHoldBlk d b) :=
  sound_setPwr hd

theorem sound_holdAnswered {code inst : Nat} (hd : Sound d) : Sound (holdAnswered d code inst) := by
  simp only [holdAnswered]
  split
  · exact hd
  · split
    · exact sound_holdAbandon hd
    · split
      · exact sound_holdRefuse (sound_setPhaseHold hd)
      · split
        · exact sound_holdRefuse (sound_setPhaseHold hd)
        · exact sound_ite (sound_holdRefuse (sound_setPhaseHold hd)) (sound_setHoldBlk (sound_fincSat
            (sound_setPhaseHold hd)))
        · exact sound_ite (sound_ite (sound_holdAbandon (sound_setHoldBlk (sound_setPhaseHold hd)))
            (sound_setPhaseHold (sound_setHoldBlk (sound_setPhaseHold hd)))) (sound_setHoldBlk
            (sound_setPhaseHold hd))

theorem sound_holdTimeout {code inst : Nat} (hd : Sound d) : Sound (holdTimeout d code inst) := by
  unfold holdTimeout
  split
  · exact hd
  · exact sound_ite (sound_holdRefuse hd) (sound_ite (sound_holdRefuse hd) hd)

theorem sound_quiesceDone (hd : Sound d) : Sound (quiesceDone d) :=
  sound_ite hd (sound_ite (sound_holdAbandon (sound_audit hd)) (sound_setPhaseHold (sound_setPwr (sound_audit hd))))

theorem sound_holdSaved (hd : Sound d) : Sound (holdSaved d) := by
  unfold holdSaved
  extract_lets wake valid e1 e2 e3 e4
  have h3 : Sound e3 := sound_setPhaseHold (sound_fset (sound_fset (sound_fset (sound_setPwr hd))))
  have h4 : Sound e4 := sound_pwrRaise (sound_setPstate h3)
  exact sound_ite hd (sound_ite (sound_setPstate h4) h4)

theorem sound_halvesReset (hd : Sound d) : Sound (halvesReset d) :=
  sound_withObs (sound_withPend (sound_withAqd (sound_withWei (sound_withRvrUse (sound_withEphRes (sound_withAst
    (sound_withJet (sound_withCas (sound_withTables (sound_withSeq (sound_restoreRows
    (sound_resetRange hd))))))))))))

theorem sound_holdExitDone (hd : Sound d) : Sound (holdExitDone d) :=
  sound_ite hd (sound_heldEnables (sound_setPstate (sound_setPwr (sound_gapApply (sound_restoreRows
    (sound_halvesReset hd))))))

theorem sound_coldEntry (hd : Sound d) : Sound (coldEntry d) :=
  sound_ite hd (sound_nvStop (sound_fset (sound_setPstate (sound_setPwr (sound_foldl (sound_fset (sound_setPwr hd))
    (fun _ _ hs => sound_setLstate (sound_linkOff hs)))))))

theorem sound_packageReset (hd : Sound d) : Sound (packageReset d) := by
  have hb : Sound (packageBase d) := ⟨wf_nil, hd.nv, hd.nvNext, hd.hostMem⟩
  rw [packageReset_eq, pstateReset]
  exact sound_gapApply (sound_ite hb (sound_setPhaseHold (sound_setPstate (sound_fset hb))))

theorem sound_rstClears (hd : Sound d) : Sound (rstClears d) :=
  sound_fset (sound_fset hd)

theorem sound_controllerStart (hd : Sound d) : Sound (controllerStart d) :=
  sound_ite (sound_pwrRaise (sound_setPwr hd)) hd

theorem sound_coldExit (hd : Sound d) : Sound (coldExit d) :=
  sound_nvResume (sound_fset (sound_regSet (sound_fset (sound_resetRange (sound_resetRange hd)))))

theorem sound_setBoot {f : Fld} {v : Nat} (hd : Sound d) : Sound (setBoot d f v) :=
  sound_fset hd

theorem sound_bootRaise {number sev : Nat} (hd : Sound d) : Sound (bootRaise d number sev) :=
  sound_tstRaise hd

theorem sound_bootFails (hd : Sound d) : Sound (bootFails d) :=
  sound_withTst hd

theorem sound_bootRom {i : BootIn} (hd : Sound d) : Sound (bootRom d i) :=
  sound_fset (sound_fset (sound_regSet (sound_setPwr (sound_controllerStart hd))))

theorem sound_bootFuse (hd : Sound d) : Sound (bootFuse d) :=
  sound_ite (sound_bootFails (sound_bootRaise (sound_setBoot hd))) (sound_setBoot (sound_setBoot hd))

theorem sound_bootSlot {b : Bool} (hd : Sound d) : Sound (bootSlot d b) :=
  sound_withTst (sound_fset (sound_setBoot (sound_setBoot hd)))

theorem sound_bootRecovery (hd : Sound d) : Sound (bootRecovery d) :=
  sound_bootFails (sound_bootRaise (sound_setBoot hd))

theorem sound_bootImage {i : BootIn} (hd : Sound d) : Sound (bootImage d i) :=
  sound_ite (sound_bootRecovery (sound_setBoot hd)) (sound_ite (sound_bootSlot (sound_setBoot hd)) (sound_ite
    (sound_bootRaise (sound_bootSlot (sound_setBoot (sound_setBoot hd)))) (sound_bootRecovery (sound_setBoot
    (sound_setBoot (sound_setBoot hd))))))

theorem sound_bootCore {i : BootIn} (hd : Sound d) : Sound (bootCore d i) :=
  sound_ite (sound_fset (sound_setBoot hd)) (sound_bootFails (sound_brgFatal (sound_setBoot hd)))

theorem sound_bootStack {i : BootIn} {s : Nat} (hd : Sound d) : Sound (bootStack d i s) :=
  sound_foldl (sound_fset (sound_withMs (sound_finc (sound_fincSat (sound_fset (sound_fset hd))))))
    (fun _ _ hs => sound_stkRaise hs)

theorem sound_hardRepair (hd : Sound d) : Sound (hardRepair d) :=
  sound_ite hd (sound_repairSeal (sound_foldl hd (fun _ _ hs => sound_nvWrite hs)))

theorem sound_bootStacks {i : BootIn} (hd : Sound d) : Sound (bootStacks d i) := by
  simp only [bootStacks]
  split
  · exact sound_foldl (sound_hardRepair (sound_setBoot hd)) (fun _ _ hs1 => sound_bootStack hs1)
  · exact sound_bootFails (sound_foldl (sound_foldl (sound_hardRepair (sound_setBoot hd))
      (fun _ _ hs2 => sound_bootStack hs2)) (fun _ _ hs3 => sound_stkRaise hs3))

theorem sound_bootConfig {cold : Bool} (hd : Sound d) : Sound (bootConfig d cold) := by
  unfold bootConfig
  extract_lets e1 w e2 e3 ok e4 on
  have h1 : Sound e1 := sound_setBoot hd
  have h3 : Sound e3 := sound_foldl (sound_ite (sound_fset (sound_fset h1)) h1) fun _ _ he => sound_fset he
  have h4 : Sound e4 := sound_gapApply (sound_restoreRows (sound_restoreRows h3))
  exact sound_ite h3 (sound_foldl h4 fun _ _ he => sound_linkOn (sound_fset he))

theorem sound_goOn {f : Dev → Dev} (hd : Sound d) (hf : ∀ d, Sound d → Sound (f d)) : Sound (goOn d f) :=
  sound_ite hd (hf d hd)

theorem sound_bringUp {i : BootIn} (hd : Sound d) : Sound (bringUp d i) := by
  have hs : Sound (bootStart d) := sound_ite (sound_packageReset (sound_coldExit (sound_setPstate hd)))
    (sound_fset (sound_fset (sound_packageReset hd)))
  rw [bringUp_eq, bootRest]
  exact sound_goOn (sound_goOn (sound_goOn (sound_goOn (sound_goOn (sound_goOn (sound_bootRom hs)
    fun _ => sound_bootFuse) fun _ => sound_bootImage) fun _ => sound_bootCore) fun _ => sound_bootStacks)
    fun _ => sound_bootConfig) fun _ => sound_setBoot

theorem sound_bringupComplete (hd : Sound d) : Sound (bringupComplete d) :=
  sound_ite hd (sound_secverBlow (sound_bootRaise (sound_regSet (sound_setBoot (sound_withTst
    (sound_withSidPrev hd))))))

theorem sound_bringUpIf {i : BootIn} (hd : Sound d) : Sound (bringUpIf d i) :=
  sound_ite (sound_bringUp hd) hd

theorem sound_pwrokRise {i : BootIn} (hd : Sound d) : Sound (pwrokRise d i) :=
  sound_ite hd (sound_bringUpIf (sound_setPwr hd))

theorem sound_pwrokFall (hd : Sound d) : Sound (pwrokFall d) :=
  sound_packageReset (sound_setPwr hd)

theorem sound_rstAssert (hd : Sound d) : Sound (rstAssert d) :=
  sound_ite (sound_rstClears (sound_packageReset (sound_setPwr hd))) (sound_rstClears (sound_setPwr hd))

theorem sound_rstRelease {i : BootIn} (hd : Sound d) : Sound (rstRelease d i) :=
  sound_ite hd (sound_bringUpIf (sound_setPwr hd))

theorem sound_perstAssert (hd : Sound d) : Sound (perstAssert d) :=
  sound_flr (sound_wakeEvent (sound_setPwr hd))

theorem sound_perstRelease (hd : Sound d) : Sound (perstRelease d) :=
  sound_setPwr hd

theorem sound_vauxLoss (hd : Sound d) : Sound (vauxLoss d) :=
  ⟨wf_nil, hd.nv, hd.nv, hd.hostMem⟩

theorem sound_vauxRise {i : BootIn} (hd : Sound d) : Sound (vauxRise d i) :=
  sound_ite hd (sound_bringUpIf (sound_controllerStart (sound_setPwr hd)))

theorem sound_brownOut (hd : Sound d) : Sound (brownOut d) :=
  sound_withMgt (sound_withTst (sound_withPwr (sound_restoreRows (sound_fset (sound_fset (sound_setPstate
    (sound_resetRange (sound_resetRange hd))))))))

/-! ### Accesses -/

theorem sound_storeBits {a mask data : Nat} (hd : Sound d) : Sound (storeBits d a mask data) := by
  simp only [storeBits]
  split
  · exact hd
  · exact sound_regSet hd

theorem sound_captureArm {arm : Bool} {desc : Nat} (hd : Sound d) : Sound (captureArm d arm desc) :=
  sound_ite (sound_ite hd (sound_fset (sound_fset (sound_fset hd)))) (sound_ite (sound_capEnd (sound_setSeq hd))
    (sound_fset (sound_fset hd)))

theorem sound_baseWrite {c : CapDesc} (hd : Sound d) : Sound (baseWrite d c).1 := by
  have hb : Sound (poolBack (poolBack d 0) 1) := sound_poolBack (sound_poolBack hd)
  simp only [baseWrite]
  split
  · exact hb
  · exact sound_withMem hb (foldl_putCells_wf _ (fun _ _ h => putCells_wf _ _ _ (putCells_wf _ _ _ h))
      (foldl_putCells_wf _ (fun _ _ h => putCells_wf _ _ _ h)
        (foldl_putCells_wf _ (fun _ _ h => putCells_wf _ _ _ h) hb.mem)))

theorem sound_captureBaseDone (hd : Sound d) : Sound (captureBaseDone d) := by
  simp only [captureBaseDone]
  split
  · exact hd
  · split
    · exact sound_bundleIssue hd
    · split
      · next ha =>
          exact sound_bundleIssue (sound_capEnd (sound_setSeq (sound_fst ha (sound_baseWrite (sound_settle hd)))))
      · next hb =>
          exact sound_bundleIssue (sound_fset (sound_setSeq (sound_withTst (sound_fst hb (sound_baseWrite
            (sound_settle hd))))))

theorem sound_planesTake {ms : List (List (Nat × Nat))} (hd : Sound d) : Sound (planesTake d ms) :=
  sound_withAqd (sound_withEph (sound_withRil (sound_withCas (sound_withJet (sound_latchRange (sound_latchRange
    (sound_foldl (sound_withRegs hd) (fun _ _ hs => sound_regSet hs))))))))

theorem sound_baseRead {c : CapDesc} (hd : Sound d) : Sound (baseRead d c).1 := by
  unfold baseRead
  exact sound_withMs (sound_withMem (sound_planesTake hd) (foldl_putCells_wf _ (fun _ _ h => putCells_wf _ _ _ h)
    (foldl_putCells_wf _ (fun _ _ h => putCells_wf _ _ _ h) hd.mem)))

theorem sound_replayGo (hd : Sound d) : Sound (replayGo d) :=
  sound_ite hd (sound_ite (sound_tstRaise (sound_fset (sound_fset (sound_fset hd)))) (sound_setMach (sound_fset
    (sound_fset (sound_withTst (sound_baseRead (sound_fset (sound_fset hd))))))))

theorem sound_regActions {a mask w : Nat} (hd : Sound d) : Sound (regActions d a mask w) := by
  unfold regActions
  extract_lets hit also p e1
  have halso : ∀ {k : Nat} {f : Dev → Dev} {e : Dev}, Sound e → (∀ e, Sound e → Sound (f e)) →
      Sound (also e k f) :=
    fun he hf => sound_ite (hf _ he) he
  have h1 : Sound e1 := sound_ite (sound_ite (sound_linkOn hd) (sound_linkOff hd)) hd
  clear_value also
  refine sound_ite (halso hd fun _ => sound_cntClear) ?_
  refine sound_ite (halso hd fun _ => sound_cntClear) ?_
  refine sound_ite (halso hd fun _ => sound_cntClear) ?_
  refine sound_ite (halso (halso hd fun _ => sound_poolAsk) fun _ => sound_poolAsk) ?_
  refine sound_ite (halso (halso hd fun _ => sound_poolAsk) fun _ => sound_poolAsk) ?_
  refine sound_ite (halso h1 fun _ => sound_retrain) ?_
  refine sound_ite (sound_ite (sound_fset (sound_withRoleLocked hd)) hd) ?_
  refine sound_ite (sound_sidSet hd) ?_
  refine sound_ite (halso (halso hd fun _ => sound_reclaimClear) fun _ => sound_reclaimOriginate) ?_
  refine sound_ite (halso (halso hd fun _ => sound_holdClear) fun _ => sound_holdOriginate) ?_
  refine sound_ite (halso hd fun _ => sound_bankSwitch) ?_
  refine sound_ite (halso hd fun _ he => sound_permLaunch (sound_setMach he)) ?_
  refine sound_ite (halso hd fun _ => sound_scrubGo) ?_
  refine sound_ite (halso (halso (halso hd fun _ => sound_holdRequest) fun _ => sound_wakeEvent)
    fun _ => sound_coldEntry) ?_
  refine sound_ite (sound_thrApply (halso hd fun _ => sound_throttleClear)) ?_
  refine sound_ite (halso hd fun _ => sound_auditRun) ?_
  refine sound_ite (sound_pairCheck hd) ?_
  refine sound_ite (sound_captureArm hd) ?_
  exact sound_ite (halso hd fun _ => sound_replayGo) hd

theorem sound_regWrite {a0 mask data : Nat} (hd : Sound d) : Sound (regWrite d a0 mask data) := by
  simp only [regWrite]
  split
  · exact hd
  · split
    · exact sound_ite (sound_ite (sound_enableBlock (sound_regActions (sound_storeBits hd))) (sound_disableBlock
        (sound_regActions (sound_storeBits hd)))) (sound_regActions (sound_storeBits hd))
    · exact sound_regActions (sound_storeBits hd)

theorem sound_regWriteBytes {off : Nat} {bs : List Byte} (hd : Sound d) : Sound (regWriteBytes d off bs) :=
  sound_regWrite hd

theorem sound_complete {c : Completion} (hd : Sound d) : Sound (complete d c) :=
  sound_withHst hd rfl

theorem sound_hostWriteReg {off : Nat} {bs : List Byte} (hd : Sound d) : Sound (hostWriteReg d off bs) :=
  sound_ite (sound_complete hd) (sound_ite (sound_complete hd) (sound_complete (sound_regWriteBytes hd)))

theorem sound_bar4Access {off : Nat} {r : MemReq} {en : List Bool} {es : List Ecc} (hd : Sound d) :
    Sound (bar4Access d off r en es) := by
  simp only [bar4Access]
  split
  · exact sound_complete hd
  · split
    · exact sound_complete hd
    · split
      · exact sound_ite (sound_complete hd) (sound_complete (sound_withMs (sound_memRequest hd)))
      · exact sound_ite (sound_complete hd) (sound_ite (sound_complete (sound_memRequest hd)) (sound_complete
          (sound_foldl hd (fun _ _ hs => sound_memRequest hs))))

theorem sound_localAccess {a : Nat} {r : MemReq} {es : List Ecc} (hd : Sound d) :
    Sound (localAccess d a r es).1 := by
  simp only [localAccess]
  split
  · split
    · split
      · exact hd
      · exact hd
    · split
      · exact sound_regWriteBytes hd
      · exact hd
  · exact sound_memRequest hd

theorem sound_memoryAccess {a : Nat} {r : MemReq} {es : List Ecc} (hd : Sound d) : Sound (memoryAccess d a r es) :=
  sound_withMs (sound_localAccess (sound_settle hd))

theorem sound_respond {m : Msg} {status : Nat} {bs : List Byte} (hd : Sound d) : Sound (respond d m status bs) :=
  sound_sendSynthetic hd

theorem sound_remoteReject {m : Msg} (hd : Sound d) : Sound (remoteReject d m) :=
  sound_ite (sound_respond (sound_countPkg hd)) (sound_machRaise (sound_setMach (sound_respond
    (sound_countPkg hd))))

theorem sound_remoteServe {m : Msg} {es : List Ecc} (hd : Sound d) : Sound (remoteServe d m es) := by
  simp only [remoteServe]
  split
  · split
    · next ha =>
        exact sound_respond (sound_fst ha (sound_localAccess (sound_settle (sound_countPkg hd))))
    · next hb =>
        exact sound_respond (sound_fst hb (sound_localAccess (sound_settle (sound_countPkg hd))))
  · split
    · exact sound_respond (sound_poolAtomic (sound_settle (sound_countPkg hd)))
    · split
      · next hc =>
          exact sound_respond (sound_fst hc (sound_localAccess (sound_settle (sound_countPkg hd))))
      · next he =>
          exact sound_respond (sound_fst he (sound_localAccess (sound_settle (sound_countPkg hd))))

theorem sound_remoteRequest {p : Nat} {m : Msg} {es : List Ecc} (hd : Sound d) : Sound (remoteRequest d p m es) :=
  sound_ite hd (sound_arrival hd (fun _ hs => sound_ite (sound_remoteServe hs) (sound_remoteReject hs)))

theorem sound_remoteResponse {p : Nat} {m : Msg} (hd : Sound d) : Sound (remoteResponse d p m) := by
  simp only [remoteResponse]
  refine sound_arrival hd ?_
  intro _ hs
  split
  · exact sound_permAck hs
  · split
    · exact sound_staleNote hs
    · exact sound_aqdAnswer (sound_settle hs)

/-! ### Test access -/

theorem sound_collTake {p : Nat} {m : Msg} (hd : Sound d) : Sound (collTake d p m) := by
  unfold collTake
  refine sound_arrival hd ?_
  intro _ hs
  split
  · exact sound_collData hs
  · exact sound_collData hs
  · exact sound_collReady hs
  · exact sound_collAck hs
  · exact sound_pwrite hs

theorem sound_replayMsg {p : Nat} {m : Msg} (hd : Sound d) : Sound (replayMsg d p m) := by
  simp only [replayMsg]
  split
  · exact sound_slabArrive (sound_modPort hd)
  · exact sound_credArrive (sound_modPort hd)
  · exact sound_openArrive (sound_modPort hd)
  · exact sound_collTake (sound_modPort hd)
  · exact sound_remoteRequest (sound_modPort hd)
  · exact sound_remoteRequest (sound_modPort hd)
  · split
    · exact sound_aqdAnswer (sound_settle hd)
    · exact sound_permAck hd

theorem sound_replayEnd (hd : Sound d) : Sound (replayEnd d) :=
  sound_fset hd

theorem sound_deliverEntry {e : LogEntry} (hd : Sound d) : Sound (deliverEntry d e) := by
  simp only [deliverEntry]
  split
  · exact sound_cmdDeliver hd
  · split
    · exact sound_burstOf hd
    · exact hd
  · exact sound_ite (sound_setMach hd) (sound_raiseAbort hd)
  · exact sound_ite (sound_applyVerdict hd) (sound_replayEnd (sound_applyVerdict hd))
  · exact sound_ite (sound_adoptReclaim hd) (sound_adoptHold hd)
  · exact sound_replayMsg hd

theorem sound_replayDeliver (hd : Sound d) : Sound (replayDeliver d) := by
  simp only [replayDeliver]
  split
  · exact hd
  · split
    · exact sound_replayEnd hd
    · exact sound_ite (sound_deliverEntry (sound_withTst hd)) hd

theorem sound_tapSelect {ir dr : Nat} (hd : Sound d) : Sound (tapSelect d ir dr) :=
  sound_withTst hd

theorem sound_tapBypass (hd : Sound d) : Sound (tapBypass d) :=
  sound_tapSelect hd

theorem sound_tapBoundary {ir : Nat} (hd : Sound d) : Sound (tapBoundary d ir) :=
  sound_withFresh (sound_tapSelect hd)

theorem sound_intrusive (hd : Sound d) : Sound (intrusive d) :=
  sound_tstRaise (sound_fset hd)

theorem sound_tapDiag {f : Dev → Dev} (hd : Sound d) (hf : ∀ d, Sound d → Sound (f d)) : Sound (tapDiag d f) :=
  sound_ite (hf _ hd) (sound_tapBypass hd)

theorem sound_tapIjtag {sibs : Nat} {intr : Bool} (hd : Sound d) : Sound (tapIjtag d sibs intr) :=
  sound_ite (sound_intrusive (sound_tapSelect (sound_withTst hd))) (sound_tapSelect (sound_withTst hd))

/-! ### Management -/

theorem sound_mctpTake {phys : Nat} {pkt : List Byte} (hd : Sound d) : Sound (mctpTake d phys pkt) :=
  sound_withMgt hd

theorem sound_smbusWrite {addr : Nat} {bs : List Byte} (hd : Sound d) : Sound (smbusWrite d addr bs) :=
  sound_ite hd (sound_mctpTake hd)

theorem sound_mgmtTake {p : Nat} {m : Msg} (hd : Sound d) : Sound (mgmtTake d p m) :=
  sound_ite (sound_staleNote (sound_takeInbox hd)) (sound_ite (sound_withMgt (sound_takeInbox hd)) (sound_ite
    (sound_wakeEvent (sound_mctpTake (sound_takeInbox hd))) (sound_mctpTake (sound_takeInbox hd))))

theorem sound_firmwareUpdate {image : List Byte} {whole : Bool} (hd : Sound d) :
    Sound (firmwareUpdate d image whole) :=
  sound_ite hd (sound_ite (sound_withMgt hd) (sound_ite (sound_withMgt (sound_nvWrite hd)) (sound_ite
    (sound_withMgt (sound_nvWrite hd)) (sound_withMgt (sound_dirSet (sound_nvWrite (sound_nvWrite hd)))))))

theorem sound_pldmChange {req : PldmReq} {i : BootIn} (hd : Sound d) : Sound (pldmChange d req i) := by
  simp only [pldmChange]
  split
  · exact hd
  · split
    · exact sound_withMgt (sound_holdRequest hd)
    · exact sound_withMgt (sound_wakeEvent hd)
    · exact sound_withMgt (sound_coldEntry hd)
    · exact sound_ite (sound_ite (sound_bringUpIf (sound_withMgt hd)) (sound_withMgt hd)) (sound_withMgt
        (sound_wakeEvent hd))
    · exact sound_withMgt (sound_throttleClear hd)

end

end Sys2Proof.Machine
end

section
/-! PROOFS. Every command, and with it every step, keeps the memories in canonical form. -/

namespace Sys2Proof.Machine

theorem sound_act {f : Dev → Dev} {s u : State} (h : act f s = .next u) (hf : ∀ d, Sound d → Sound (f d))
    (hs : Sound s.dev) : Sound u.dev := by
  cases h
  exact hf s.dev hs

theorem sound_exec (i : Instr) {s u : State} (hs : Sound s.dev) (h : exec i s = .next u) : Sound u.dev := by
  unfold exec at h
  cases i with
  | registerWrite =>
    exact sound_act h (fun _ hd => sound_ite (sound_hostWriteReg (sound_observe hd)) (sound_memoryAccess
      (sound_observe hd))) hs
  | blockEnable | seqStart => exact sound_act h (fun _ hd => sound_enableBlock (sound_observe hd)) hs
  | blockDisable | seqStop => exact sound_act h (fun _ hd => sound_disableBlock (sound_observe hd)) hs
  | drainComplete => exact sound_act h (fun _ hd => sound_drainComplete (sound_observe hd)) hs
  | drainTimeout => exact sound_act h (fun _ hd => sound_drainTimeout (sound_observe hd)) hs
  | stateObservation => exact sound_act h (fun _ => sound_observe) hs
  | bundleIssue => exact sound_act h (fun _ hd => sound_bundleIssue (sound_observe hd)) hs
  | pageArrival => exact sound_act h (fun _ hd => sound_pageArrival (sound_observe hd)) hs
  | loop | br | brc | call | ret | awaitq | stepb | verd | fork | join | pagePrefetch | pagePin | pageUnpin | halt =>
    exact sound_act h (fun _ hd => sound_ctlIssue (sound_observe hd)) hs
  | awaitr | awaita | sida | sidr | delay | trap =>
    exact sound_act h (fun _ hd => sound_ctlIssueIn (sound_observe hd)) hs
  | segmentStart => exact sound_act h (fun _ hd => sound_segmentStart (sound_observe hd)) hs
  | waitTimeout => exact sound_act h (fun _ hd => sound_waitTimeout (sound_observe hd)) hs
  | unwindResume => exact sound_act h (fun _ hd => sound_unwindResume (sound_observe hd)) hs
  | lds | mm | opa | twf | bctlOpen | bctlClose | bctlLopen | bctlFinish | bin | bout | root =>
    exact sound_act h (fun _ hd => sound_timedOp hd (fun _ hs => sound_casIssue hs)) hs
  | rootComplete => exact sound_act h (fun _ => sound_rootComplete) hs
  | basinRowApply => exact sound_act h (fun _ => sound_rowApply) hs
  | basinWindowWrite => exact sound_act h (fun _ => sound_windowWrite) hs
  | shadowCompare => exact sound_act h (fun _ => sound_shadowCompare) hs
  | jld | jst | alu | cvt | tab | der | red | rsr | rsld | rsst | tld | tsum =>
    exact sound_act h (fun _ hd => sound_timedOp hd (fun _ hs => sound_jetIssue hs)) hs
  | send | commit | release => exact sound_act h (fun _ => sound_rilIssue) hs
  | sendDone => exact sound_act h (fun _ hd => sound_sendDone (sound_observe hd)) hs
  | slabArrival => exact sound_act h (fun _ hd => sound_slabArrive (sound_observe hd)) hs
  | credArrival => exact sound_act h (fun _ hd => sound_credArrive (sound_observe hd)) hs
  | openArrival => exact sound_act h (fun _ hd => sound_openArrive (sound_observe hd)) hs
  | rilStall => exact sound_act h (fun _ hd => sound_rilStall (sound_observe hd)) hs
  | res | hold | drop | lag | floor => exact sound_act h (fun _ => sound_ephIssue) hs
  | upd | clrm => exact sound_act h (fun _ => sound_weiIssue) hs
  | weirCommandComplete => exact sound_act h (fun _ => sound_weiComplete) hs
  | weiNoslot => exact sound_act h (fun _ hd => sound_weiNoslot (sound_tick hd)) hs
  | rollbackComplete => exact sound_act h (fun _ => sound_rollbackComplete) hs
  | snap | gnopen | gnwr | gnrec | sforce => exact sound_act h (fun _ => sound_astIssue) hs
  | snapEmit => exact sound_act h (fun _ hd => sound_weiRun (sound_snapEmit hd)) hs
  | cntClear => exact sound_act h (fun _ => sound_cntClear) hs
  | memoryAccess => exact sound_act h (fun _ hd => sound_memoryAccess (sound_observe hd)) hs
  | poolAtomic => exact sound_act h (fun _ hd => sound_withMs (sound_poolAtomic (sound_settle (sound_tick hd)))) hs
  | polWb | polInv => exact sound_act h (fun _ => sound_poolAsk) hs
  | writeBackComplete => exact sound_act h (fun _ => sound_poolBack) hs
  | patrolScrub => exact sound_act h (fun _ hd => sound_patrolScrub (sound_tick hd)) hs
  | rowRemap => exact sound_act h (fun _ hd => sound_rowRemap (sound_tick hd)) hs
  | bridgeFlitReceive => exact sound_act h (fun _ hd => sound_brgFlit (sound_tick hd)) hs
  | bar4Access => exact sound_act h (fun _ hd => sound_bar4Access (sound_settle (sound_observe hd))) hs
  | xfer => exact sound_act h (fun _ => sound_aqdIssue) hs
  | burstStart => exact sound_act h (fun _ hd => sound_burstStart (sound_settle (sound_tick hd))) hs
  | transferComplete => exact sound_act h (fun _ hd => sound_transferComplete (sound_settle (sound_tick hd))) hs
  | linkOn => exact sound_act h (fun _ hd => sound_linkOn (sound_tick hd)) hs
  | linkOff => exact sound_act h (fun _ hd => sound_linkOff (sound_tick hd)) hs
  | retrain => exact sound_act h (fun _ hd => sound_retrain (sound_tick hd)) hs
  | resetReceive => exact sound_act h (fun _ hd => sound_resetRequest (sound_tick hd)) hs
  | quietEnd => exact sound_act h (fun _ hd => sound_quietEnd (sound_tick hd)) hs
  | detectDone => exact sound_act h (fun _ hd => sound_detectDone (sound_tick hd)) hs
  | eqDone => exact sound_act h (fun _ hd => sound_eqDone (sound_tick hd)) hs
  | testEnd => exact sound_act h (fun _ hd => sound_testEnd (sound_tick hd)) hs
  | decideDone => exact sound_act h (fun _ hd => sound_decideDone (sound_tick hd)) hs
  | lockDone => exact sound_act h (fun _ hd => sound_lockDone (sound_tick hd)) hs
  | ident => exact sound_act h (fun _ hd => sound_identTake (sound_tick hd)) hs
  | trainingTimeout => exact sound_act h (fun _ hd => sound_trainingTimeout (sound_tick hd)) hs
  | trainfailReset => exact sound_act h (fun _ hd => sound_trainfailReset (sound_tick hd)) hs
  | frameReceive => exact sound_act h (fun _ hd => sound_frameReceive (sound_tick hd)) hs
  | flitReceive => exact sound_act h (fun _ hd => sound_flitReceive (sound_tick hd)) hs
  | idleSend => exact sound_act h (fun _ hd => sound_ite (sound_tick hd) (sound_sendIdle (sound_tick hd))) hs
  | idleReceive => exact sound_act h (fun _ hd => sound_idleTake (sound_tick hd)) hs
  | messageForward => exact sound_act h (fun _ hd => sound_messageForward (sound_tick hd)) hs
  | rdreq | wrreq => exact sound_act h (fun _ hd => sound_remoteRequest (sound_observe hd)) hs
  | rdrsp | wrack => exact sound_act h (fun _ hd => sound_remoteResponse (sound_observe hd)) hs
  | responseTimeout => exact sound_act h (fun _ hd => sound_responseTimeout (sound_tick hd)) hs
  | mgmt => exact sound_act h (fun _ hd => sound_mgmtTake (sound_observe hd)) hs
  | sidSet => exact sound_act h (fun _ => sound_sidSet) hs
  | ppsPulse => exact sound_act h (fun _ hd => sound_ppsPulse (sound_tick hd)) hs
  | referenceLoss => exact sound_act h (fun _ hd => sound_referenceLoss (sound_tick hd)) hs
  | measurementTimeout => exact sound_act h (fun _ hd => sound_measurementTimeout (sound_tick hd)) hs
  | holdoverLimit => exact sound_act h (fun _ hd => sound_holdoverLimit (sound_tick hd)) hs
  | ppsOut => exact sound_act h (fun _ hd => sound_ppsOut (sound_tick hd)) hs
  | reclaimOriginate =>
    exact sound_act h (fun _ hd => sound_reclaimOriginate (sound_foldl hd fun _ _ he => sound_fset he)) hs
  | reclaimClear => exact sound_act h (fun _ => sound_reclaimClear) hs
  | holdNoticeOriginate => exact sound_act h (fun _ => sound_holdOriginate) hs
  | holdNoticeClear => exact sound_act h (fun _ => sound_holdClear) hs
  | drillClose => exact sound_act h (fun _ hd => sound_drillClose (sound_tick hd)) hs
  | permutationLaunch => exact sound_act h (fun _ hd => sound_permLaunch (sound_tick hd)) hs
  | permutationComplete => exact sound_act h (fun _ hd => sound_permComplete (sound_tick hd)) hs
  | permutationBudget => exact sound_act h (fun _ hd => sound_permBudget (sound_tick hd)) hs
  | bankSwitch => exact sound_act h (fun _ => sound_bankSwitch) hs
  | reportReceive => exact sound_act h (fun _ hd => sound_childReport (sound_tick hd)) hs
  | verdictReceive => exact sound_act h (fun _ hd => sound_parentVerdict (sound_tick hd)) hs
  | childTimeout => exact sound_act h (fun _ hd => sound_childTimeout (sound_tick hd)) hs
  | collectiveLaunch =>
    exact sound_act h (fun _ hd => sound_collLaunch (sound_landCommits (sound_settle (sound_tick hd)))) hs
  | collAdd | collWrite => exact sound_act h (fun _ hd => sound_arrival hd (fun _ hs => sound_collData hs)) hs
  | collReady => exact sound_act h (fun _ hd => sound_arrival hd (fun _ hs => sound_collReady hs)) hs
  | collAck => exact sound_act h (fun _ hd => sound_arrival hd (fun _ hs => sound_collAck hs)) hs
  | pwrite => exact sound_act h (fun _ hd => sound_arrival hd (fun _ hs => sound_pwrite hs)) hs
  | phaseLanded => exact sound_act h (fun _ => sound_phaseLanded) hs
  | collectiveComplete => exact sound_act h (fun _ => sound_collComplete) hs
  | collectiveTimeout => exact sound_act h (fun _ hd => sound_collTimeout (sound_tick hd)) hs
  | doorbell => exact sound_act h (fun _ => sound_doorbell) hs
  | descriptorFetch => exact sound_act h (fun _ hd => sound_descriptorFetch (sound_tick hd)) hs
  | overflowRecordWrite => exact sound_act h (fun _ => sound_overflowWrite) hs
  | msixModeration => exact sound_act h (fun _ hd => sound_msixModeration (sound_tick hd)) hs
  | dataWaitTimeout => exact sound_act h (fun _ hd => sound_dataWaitTimeout (sound_aqdRun (sound_tick hd))) hs
  | flr => exact sound_act h (fun _ hd => sound_flr (sound_observe hd)) hs
  | scrubGo => exact sound_act h (fun _ hd => sound_scrubGo (sound_observe hd)) hs
  | scrubComplete => exact sound_act h (fun _ hd => sound_scrubComplete (sound_observe hd)) hs
  | mctpPacket => exact sound_act h (fun _ hd => sound_smbusWrite (sound_tick hd)) hs
  | pldmFirmwareUpdate => exact sound_act h (fun _ hd => sound_firmwareUpdate (sound_tick hd)) hs
  | pldmStateChange => exact sound_act h (fun _ hd => sound_pldmChange (sound_observe hd)) hs
  | pkgPwrokRise => exact sound_act h (fun _ hd => sound_pwrokRise (sound_tick hd)) hs
  | pkgPwrokFall => exact sound_act h (fun _ hd => sound_pwrokFall (sound_tick hd)) hs
  | pkgRstNAssert => exact sound_act h (fun _ hd => sound_rstAssert (sound_tick hd)) hs
  | pkgRstNRelease => exact sound_act h (fun _ hd => sound_rstRelease (sound_tick hd)) hs
  | bringupComplete => exact sound_act h (fun _ hd => sound_bringupComplete (sound_tick hd)) hs
  | perstN => exact sound_act h (fun _ hd => sound_perstAssert (sound_observe hd)) hs
  | trstN => exact sound_act h (fun _ => sound_withTst) hs
  | vauxLoss => exact sound_act h (fun _ hd => sound_vauxLoss (sound_tick hd)) hs
  | pwrRailwarn => exact sound_act h (fun _ hd => sound_railWarn (sound_tick hd)) hs
  | pwrRailfault => exact sound_act h (fun _ hd => sound_railFault (sound_tick hd)) hs
  | currentInterval => exact sound_act h (fun _ hd => sound_currentInterval (sound_tick hd)) hs
  | throttleSample => exact sound_act h (fun _ hd => sound_throttleSample (sound_tick hd)) hs
  | throttleStuck => exact sound_act h (fun _ hd => sound_throttleStuck (sound_tick hd)) hs
  | throttleClear => exact sound_act h (fun _ => sound_throttleClear) hs
  | thermalFloor => exact sound_act h (fun _ hd => sound_thermalFloor (sound_tick hd)) hs
  | powerCapInterval => exact sound_act h (fun _ hd => sound_powerCapInterval (sound_tick hd)) hs
  | thermtrip => exact sound_act h (fun _ hd => sound_thermTrip (sound_tick hd)) hs
  | clkLoss => exact sound_act h (fun _ hd => sound_clkLoss (sound_tick hd)) hs
  | holdRequest => exact sound_act h (fun _ hd => sound_holdRequest (sound_observe hd)) hs
  | holdAnswer => exact sound_act h (fun _ hd => sound_holdAnswered (sound_observe hd)) hs
  | holdAnswerTimeout => exact sound_act h (fun _ hd => sound_holdTimeout (sound_observe hd)) hs
  | quiesceDone => exact sound_act h (fun _ hd => sound_quiesceDone (sound_observe hd)) hs
  | holdSaveDone => exact sound_act h (fun _ hd => sound_holdSaved (sound_observe hd)) hs
  | wake => exact sound_act h (fun _ => sound_wakeEvent) hs
  | wakeTimer => exact sound_act h (fun _ hd => sound_wakeTimer (sound_tick hd)) hs
  | holdExitDone => exact sound_act h (fun _ hd => sound_holdExitDone (sound_tick hd)) hs
  | coldEntry => exact sound_act h (fun _ hd => sound_coldEntry (sound_tick hd)) hs
  | pwrBrownout => exact sound_act h (fun _ hd => sound_brownOut (sound_tick hd)) hs
  | pwrNvguard => exact sound_act h (fun _ hd => sound_nvGuard (sound_tick hd)) hs
  | nvGuardRelease => exact sound_act h (fun _ hd => sound_nvRelease (sound_tick hd)) hs
  | nvWpN => exact sound_act h (fun _ hd => sound_nvWp (sound_tick hd)) hs
  | auditCompare => exact sound_act h (fun _ hd => sound_auditCompare (sound_tick hd)) hs
  | auditRun => exact sound_act h (fun _ => sound_auditRun) hs
  | pairCheck => exact sound_act h (fun _ => sound_pairCheck) hs
  | captureArm => exact sound_act h (fun _ hd => sound_captureArm (sound_observe hd)) hs
  | captureBaseDone => exact sound_act h (fun _ hd => sound_captureBaseDone (sound_observe hd)) hs
  | replayGo => exact sound_act h (fun _ hd => sound_replayGo (sound_observe hd)) hs
  | replayDeliver => exact sound_act h (fun _ hd => sound_replayDeliver (sound_observe hd)) hs
  | extest | extestPulse | extestTrain =>
    exact sound_act h (fun _ hd => sound_tapDiag (sound_tick hd) (fun _ hs => sound_intrusive
      (sound_tapBoundary hs))) hs
  | samplePreload => exact sound_act h (fun _ => sound_tapBoundary) hs
  | idcode => exact sound_act h (fun _ => sound_tapSelect) hs
  | clamp | highz =>
    exact sound_act h (fun _ hd => sound_tapDiag (sound_tick hd) (fun _ hs => sound_intrusive
      (sound_tapSelect hs))) hs
  | ijtag => exact sound_act h (fun _ hd => sound_tapDiag (sound_tick hd) (fun _ hs => sound_tapIjtag hs)) hs
  | bypass => exact sound_act h (fun _ => sound_tapBypass) hs
  | flitSend => exact sound_act h (fun _ hd => sound_flitSend (sound_tick hd)) hs
  | dataDescriptorFetch => exact sound_act h (fun _ hd => sound_dataFetch (sound_settle (sound_tick hd))) hs
  | channelTrainingLoss => exact sound_act h (fun _ => sound_stkChfail) hs
  | vauxRise => exact sound_act h (fun _ hd => sound_vauxRise (sound_tick hd)) hs
  | railRecovery => exact sound_act h (fun _ hd => sound_railRecovery (sound_tick hd)) hs
  | perstNRelease => exact sound_act h (fun _ => sound_perstRelease) hs
  | refclkSerdesLoss => exact sound_act h (fun _ hd => sound_serdesLoss (sound_tick hd)) hs
  | refclkPcieLoss => exact sound_act h (fun _ => sound_setPwr) hs

/-- Settles O5: each function that a command calls keeps the memories canonical, down to the single stored byte. -/
theorem stepKeepsMemoriesCanonical : Obligations.StepKeepsMemoriesCanonical := by
  intro s u hs h
  rw [wf_iff_sound] at hs ⊢
  unfold step at h
  split at h
  · cases h
    exact hs
  next c rest _ => exact sound_exec c (s := { dev := s.dev, pending := rest }) hs h

end Sys2Proof.Machine
end

section
/-! PROOFS. The weirs' state: their queues, the weirs themselves and their books, and what each change of them leaves
(09, R325 to R328, R335). -/

namespace Sys2Proof.Machine

section
variable {ps : List Piece} {p : Nat → Bool} {d e : Dev} {w v h j n : Nat} {x : Weir} {l : List WeiCmd}

/-! ### A weir replaced -/

theorem setWeir_wei (d : Dev) (w : Nat) (x : Weir) :
    (setWeir d w x).wei = { d.wei with weirs := sset Weir.init w x d.wei.weirs } := by
  rw [setWeir, fset_wei, fset_wei, withWei_wei]

theorem setWeir_mem (d : Dev) (w : Nat) (x : Weir) : (setWeir d w x).mem = d.mem := by
  rw [setWeir, fset_mem, fset_mem, withWei_mem]

theorem weirOf_setWeir_self (d : Dev) (w : Nat) (x : Weir) : weirOf (setWeir d w x) w = x := by
  rw [weirOf, setWeir_wei, sget_sset_self]

theorem weirOf_setWeir_ne (hv : v ≠ w) : weirOf (setWeir d w x) v = weirOf d v := by
  rw [weirOf, setWeir_wei, sget_sset_ne _ hv, weirOf]

theorem weiQueue_setWeir (d : Dev) (w : Nat) (x : Weir) : weiQueue (setWeir d w x) j = weiQueue d j := by
  rw [weiQueue, setWeir_wei, weiQueue]

theorem leaves_setWeir_iff (hw : Piece.wei ∈ ps) (hr : p (A.WEI_WSTS (w / 4) (w % 4)) = true) :
    Leaves ps p d (setWeir e w x) ↔ Leaves ps p d e := by
  rw [setWeir, leaves_fset_iff hr, leaves_fset_iff hr, leaves_withWei_iff hw]

/-! ### A half's queue replaced -/

theorem setWeiQueue_wei (d : Dev) (h : Nat) (l : List WeiCmd) :
    (setWeiQueue d h l).wei = { d.wei with queues := sset [] h l d.wei.queues } := by
  unfold setWeiQueue
  extract_lets n e
  split
  · exact withWei_wei ..
  · rw [govSet_wei]
    exact withWei_wei ..

theorem setWeiQueue_mem (d : Dev) (h : Nat) (l : List WeiCmd) : (setWeiQueue d h l).mem = d.mem := by
  unfold setWeiQueue
  extract_lets n e
  split
  · exact withWei_mem ..
  · rw [govSet_mem]
    exact withWei_mem ..

theorem weiQueue_setWeiQueue_self (d : Dev) (h : Nat) (l : List WeiCmd) : weiQueue (setWeiQueue d h l) h = l := by
  rw [weiQueue, setWeiQueue_wei, sget_sset_self]

theorem weiQueue_setWeiQueue_ne (hj : j ≠ h) : weiQueue (setWeiQueue d h l) j = weiQueue d j := by
  rw [weiQueue, setWeiQueue_wei, sget_sset_ne _ hj, weiQueue]

theorem weirOf_setWeiQueue (d : Dev) (h : Nat) (l : List WeiCmd) : weirOf (setWeiQueue d h l) w = weirOf d w := by
  rw [weirOf, setWeiQueue_wei, weirOf]

theorem leaves_setWeiQueue_iff (hw : Piece.wei ∈ ps) (hg : Piece.gov ∈ ps) :
    Leaves ps p d (setWeiQueue e h l) ↔ Leaves ps p d e := by
  unfold setWeiQueue
  extract_lets n wei f
  have hf : Leaves ps p d f ↔ Leaves ps p d e := leaves_withWei_iff hw
  split
  · exact hf
  · rw [leaves_govSet_iff hg, hf]

/-! ### The books (R325) -/

theorem weiQueue_weiNote (d : Dev) (w k n : Nat) : weiQueue (weiNote d w k n) j = weiQueue d j := rfl

theorem weirOf_weiNote (d : Dev) (w k n : Nat) : weirOf (weiNote d w k n) v = weirOf d v := rfl

theorem weiNote_mem (d : Dev) (w k n : Nat) : (weiNote d w k n).mem = d.mem := rfl

theorem leaves_weiNote_iff {k : Nat} (hw : Piece.wei ∈ ps) : Leaves ps p d (weiNote e w k n) ↔ Leaves ps p d e :=
  leaves_withWei_iff hw

/-! ### What the weirs report -/

section
variable {half : Half}

theorem jetReports_of_weiReports {a : Nat} (ha : weiReports (hn half) a = false) : jetReports half a = false := by
  rw [weiReports, Bool.or_eq_false_iff, Bool.or_eq_false_iff] at ha
  cases half
  · exact ha.1.1
  · exact ha.1.1

theorem isReport_of_weiReports {a : Nat} (ha : weiReports (hn half) a = false) : isReport a = false :=
  jetReports_of_isReport (jetReports_of_weiReports ha)

theorem isCounter_of_weiReports {a : Nat} (ha : weiReports (hn half) a = false) : isCounter a = false :=
  isReport_of_isCounter (isReport_of_weiReports ha)

theorem weiReports_wsts (hw : w / 4 = hn half) : weiReports (hn half) (A.WEI_WSTS (w / 4) (w % 4)) = true := by
  rw [weiReports, Bool.or_eq_true, List.any_eq_true]
  exact .inr ⟨w % 4, List.mem_range.2 (Nat.mod_lt _ (by decide)), by rw [hw]; exact beq_self_eq_true _⟩

theorem weiReports_sts : weiReports (hn half) (A.WEI_STS (hn half)) = true := by
  cases half <;> decide

theorem isBankNote_of_weiReports {a : Nat} (ha : weiReports (hn half) a = false) : isBankNote (hn half) a = false := by
  have hrep := isReport_of_weiReports ha
  have hjet := jetReports_of_weiReports ha
  rw [weiReports, Bool.or_eq_false_iff, Bool.or_eq_false_iff] at ha
  rw [jetReports, Bool.or_eq_false_iff] at hjet
  obtain ⟨⟨_, hthese⟩, _⟩ := ha
  simp only [these, List.contains_cons, List.contains_nil, Bool.or_false, Bool.or_eq_false_iff, beq_eq_false_iff_ne] at hthese hjet
  simp [isBankNote, these, hrep, hthese.2.1, hthese.2.2, hjet.2.2]

/-! ### A wait that is over -/

theorem weirGo_wei (hw : w / 4 = hn half) (d : Dev) :
    Leaves [.wei] (weiReports (hn half)) d (weirGo d w) ∧ (weirGo d w).mem = d.mem ∧
      (∃ r s, weirOf (weirGo d w) w = { weirOf d w with waitAt := 0, waitRing := r, waitSaid := s }) ∧
      (∀ v, v ≠ w → weirOf (weirGo d w) v = weirOf d v) ∧ ∀ j, weiQueue (weirGo d w) j = weiQueue d j := by
  unfold weirGo
  extract_lets x
  split
  next hx =>
    refine ⟨leaves_self, rfl, ⟨x.waitRing, x.waitSaid, ?_⟩, fun _ _ => rfl, fun _ => rfl⟩
    rw [← hx]
  next =>
    have hc : OnlyRegs isCounter d (count d (w / 4) 0x402 (w % 4) ((d.now - (x.waitAt - 1)) / 2) false) :=
      onlyRegs_count _ _ _ _ _ _ (hw ▸ hn_lt_two half)
    have hwei := hc.leaves.1 .wei (by simp)
    refine ⟨(leaves_setWeir_iff (by simp) (weiReports_wsts hw)).2 (hc.leaves.weaken (by simp) fun _ => isCounter_of_weiReports),
      ?_, ⟨false, false, weirOf_setWeir_self ..⟩, fun v hv => ?_, fun j => ?_⟩
    · rw [setWeir_mem, count_mem]
    · rw [weirOf_setWeir_ne hv, weirOf, hwei, weirOf]
    · rw [weiQueue_setWeir, weiQueue, hwei, weiQueue]

theorem weirGo_of_not_waiting (h : (weirOf d w).waitAt = 0) : weirGo d w = d := if_pos h

end

end

end Sys2Proof.Machine
end

section
/-! PROOFS. One weir at work: how its command comes from the half's queue to its begin, and when the weirs rest again
(09, R326). -/

namespace Sys2Proof.Machine

section
variable {d e : Dev} {w v h j n : Nat} {c : WeiCmd} {half : Half}

/-- Nothing waits for a weir other than `w`. -/
def OnlyWeir (w : Nat) (d : Dev) : Prop :=
  weiQueue d 0 = [] ∧ weiQueue d 1 = [] ∧ ∀ v, v < 8 → v ≠ w → (weirOf d v).cur = none ∧ (weirOf d v).queue = []

theorem OnlyWeir.congr (hd : OnlyWeir w d) (hq : ∀ j, weiQueue e j = weiQueue d j)
    (hv : ∀ v, v ≠ w → weirOf e v = weirOf d v) : OnlyWeir w e := by
  refine ⟨by rw [hq]; exact hd.1, by rw [hq]; exact hd.2.1, fun v hv8 hne => ?_⟩
  rw [hv v hne]
  exact hd.2.2 v hv8 hne

theorem OnlyWeir.of_wei (hd : OnlyWeir w d) (hw : e.wei = d.wei) : OnlyWeir w e :=
  hd.congr (fun j => by rw [weiQueue, hw, weiQueue]) fun v _ => by rw [weirOf, hw, weirOf]

theorem OnlyWeir.setWeir (hd : OnlyWeir w d) (x : Weir) : OnlyWeir w (setWeir d w x) :=
  hd.congr (fun _ => weiQueue_setWeir ..) fun _ hv => weirOf_setWeir_ne hv

theorem OnlyWeir.weirGo (hd : OnlyWeir w d) (hw : w / 4 = hn half) : OnlyWeir w (weirGo d w) := by
  obtain ⟨_, _, _, hv, hq⟩ := weirGo_wei hw d
  exact hd.congr hq hv

/-! ### A round of the weirs -/

/-- The weirs but one rest, so a round is that weir's. -/
theorem round_eq {P : Dev → Prop} (hP : ∀ e, P e → OnlyWeir w e ∧ ∀ n, P (weirPump w (n + 1) e)) (hd : P d)
    (l : List Nat) (hl : ∀ v ∈ l, v < 8) :
    P (l.foldl (fun d v => weirPump v (2 * (weirOf d v).queue.length + 2) d) d) := by
  induction l generalizing d with
  | nil => exact hd
  | cons v l ih =>
    rw [List.foldl_cons]
    refine ih ?_ fun u hu => hl u (by simp [hu])
    by_cases hv : v = w
    · rw [hv]
      exact (hP d hd).2 _
    · obtain ⟨hc, hq⟩ := (hP d hd).1.2.2 v (hl v (by simp)) hv
      rw [weirPump_idle hc hq]
      exact hd

theorem round_fst (hd : OnlyWeir w d) (hw : w < 8) {P : Dev → Prop}
    (hP : ∀ e, P e → OnlyWeir w e ∧ ∀ n, P (weirPump w (n + 1) e))
    (hfst : P (weirPump w (2 * (weirOf d w).queue.length + 2) d)) :
    P ((List.range 8).foldl (fun d v => weirPump v (2 * (weirOf d v).queue.length + 2) d) d) := by
  have hsplit : List.range 8 = List.range w ++ w :: List.range' (w + 1) (7 - w) := by
    interval_cases w <;> rfl
  have hbefore (l : List Nat) (hl : ∀ v ∈ l, v < 8 ∧ v ≠ w) :
      l.foldl (fun d v => weirPump v (2 * (weirOf d v).queue.length + 2) d) d = d := by
    induction l with
    | nil => rfl
    | cons v l ih =>
      obtain ⟨hv8, hvw⟩ := hl v (by simp)
      obtain ⟨hc, hq⟩ := hd.2.2 v hv8 hvw
      rw [List.foldl_cons, weirPump_idle hc hq]
      exact ih fun u hu => hl u (by simp [hu])
  rw [hsplit, List.foldl_append, hbefore _ fun v hv => by have := List.mem_range.1 hv; omega, List.foldl_cons]
  refine round_eq hP hfst _ fun v hv => ?_
  have := List.mem_range'_1.1 hv
  omega

/-- What a weir's own rounds keep holds when the weirs rest. -/
theorem weiPump_keeps {P : Dev → Prop} (hP : ∀ e, P e → OnlyWeir w e ∧ ∀ n, P (weirPump w (n + 1) e)) (hd : P d) (n : Nat) :
    P (weiPump n d) := by
  induction n generalizing d with
  | zero => exact hd
  | succ n ih =>
    obtain ⟨h0, h1, _⟩ := (hP d hd).1
    simp only [weiPump, h0, h1, List.length_nil, weiDispatch]
    exact ih (round_eq hP hd _ fun v hv => List.mem_range.1 hv)

/-! ### A command issues (R326 to R328) -/

/-- The package with a command of weir `w` counted as issued. -/
def weiCounted (d : Dev) (w : Nat) : Dev :=
  weiNote (d.withWei { d.wei with issued := sset 0 w (sget 0 w d.wei.issued + 1) d.wei.issued }) w 0 1

/-- The package with the command in the half's queue. -/
def weiJoined (d : Dev) (h w : Nat) (c : WeiCmd) : Dev := setWeiQueue (weiCounted d w) h [c]

theorem weiQueue_weiCounted (d : Dev) (w : Nat) : weiQueue (weiCounted d w) j = weiQueue d j := rfl

theorem weirOf_weiCounted (d : Dev) (w : Nat) : weirOf (weiCounted d w) v = weirOf d v := rfl

/-- What the word of an UPD says. -/
theorem upd_fields {c : WeiCmd} {weir : BitVec 2} {desc : BitVec 10} {sel : BitVec 4} {span0 : BitVec 12}
    (hc : c.op = encodeWei (.upd weir desc sel span0)) :
    wcWeir c.op.toNat = weir.toNat ∧ wcOp c.op.toNat = 1 ∧ wcDesc c.op.toNat = desc.toNat ∧ wcSel c.op.toNat = sel.toNat := by
  simp only [wcWeir, wcOp, wcDesc, wcSel, hc, bits_toNat]
  simp (disch := omega) only [encodeWei, extract_append_lo, extract_append_hi]
  simp

theorem clrm_fields {c : WeiCmd} {weir : BitVec 2} {desc : BitVec 10} {sel : BitVec 4} {span0 : BitVec 12}
    (hc : c.op = encodeWei (.clrm weir desc sel span0)) :
    wcWeir c.op.toNat = weir.toNat ∧ wcOp c.op.toNat = 2 ∧ wcDesc c.op.toNat = desc.toNat ∧ wcSel c.op.toNat = sel.toNat := by
  simp only [wcWeir, wcOp, wcDesc, wcSel, hc, bits_toNat]
  simp (disch := omega) only [encodeWei, extract_append_lo, extract_append_hi]
  simp

theorem weiIssue_eq {s : Dev} {iss : Issue} (hd : d = settle (tick s iss.t)) (hidle : weiIdle d) (op : WeiOp)
    (hw : wcWeir (encodeWei op).toNat = w) :
    weiIssue s iss op = weiRun (weiJoined d (hn iss.half) (4 * hn iss.half + w) (weiTaken d iss op)) := by
  have hq : ∀ x, weiQueue (weiCounted d x) (hn iss.half) = [] := fun x => by
    cases iss.half
    · exact hidle.1
    · exact hidle.2.1
  have hjoin : weiIssue s iss op = weiRun (setWeiQueue (weiCounted d (4 * hn iss.half + w)) (hn iss.half)
      (weiQueue (weiCounted d (4 * hn iss.half + w)) (hn iss.half) ++ [weiTaken d iss op])) := by
    rw [hd, ← hw]
    rfl
  rw [hjoin, hq, List.nil_append, weiJoined]

/-! ### A half that runs hands the command over -/

/-- The package with the command handed over to its weir. -/
def weiHanded (d : Dev) (h w : Nat) (c : WeiCmd) : Dev :=
  setWeir (weiNote (setWeiQueue (weiJoined d h w c) h []) w 1 1) w { weirOf d w with queue := [c] }

/-- The package with the command taken by its weir. -/
def weiTook (d : Dev) (h w : Nat) (c : WeiCmd) : Dev :=
  setWeir (weiHanded d h w c) w { weirOf d w with cur := some c, queue := [] }

theorem weirOf_weiJoined (d : Dev) (h w : Nat) (c : WeiCmd) : weirOf (weiJoined d h w c) v = weirOf d v := by
  rw [weiJoined, weirOf_setWeiQueue, weirOf_weiCounted]

theorem weiQueue_weiJoined_self (d : Dev) (h w : Nat) (c : WeiCmd) : weiQueue (weiJoined d h w c) h = [c] :=
  weiQueue_setWeiQueue_self ..

theorem weiQueue_weiJoined_ne (hj : j ≠ h) : weiQueue (weiJoined d h w c) j = weiQueue d j := by
  rw [weiJoined, weiQueue_setWeiQueue_ne hj, weiQueue_weiCounted]

theorem leaves_weiJoined (d : Dev) (h w : Nat) (c : WeiCmd) : Leaves [.wei, .gov] (fun _ => false) d (weiJoined d h w c) := by
  rw [weiJoined, leaves_setWeiQueue_iff (by simp) (by simp), weiCounted, leaves_weiNote_iff (by simp), leaves_withWei_iff (by simp)]
  exact leaves_self

theorem leaves_weiHanded (d : Dev) (h w : Nat) (c : WeiCmd) :
    Leaves [.wei, .gov] (these [A.WEI_WSTS (w / 4) (w % 4)]) d (weiHanded d h w c) := by
  rw [weiHanded, leaves_setWeir_iff (by simp) (by simp), leaves_weiNote_iff (by simp), leaves_setWeiQueue_iff (by simp) (by simp)]
  exact (leaves_weiJoined d h w c).weaken (by simp) fun _ _ => rfl

theorem leaves_weiTook (d : Dev) (h w : Nat) (c : WeiCmd) :
    Leaves [.wei, .gov] (these [A.WEI_WSTS (w / 4) (w % 4)]) d (weiTook d h w c) := by
  rw [weiTook, leaves_setWeir_iff (by simp) (by simp)]
  exact leaves_weiHanded d h w c

theorem weiTook_mem (d : Dev) (h w : Nat) (c : WeiCmd) : (weiTook d h w c).mem = d.mem := by
  rw [weiTook, setWeir_mem, weiHanded, setWeir_mem, weiNote_mem, setWeiQueue_mem, weiJoined, setWeiQueue_mem, weiCounted,
    weiNote_mem, withWei_mem]

theorem weirOf_weiTook (d : Dev) (h w : Nat) (c : WeiCmd) :
    weirOf (weiTook d h w c) w = { weirOf d w with cur := some c, queue := [] } := weirOf_setWeir_self ..

theorem weiTook_verdict (d : Dev) (h w : Nat) (c : WeiCmd) : (weiTook d h w c).wei.verdict = d.wei.verdict := by
  rw [weiTook, setWeir_wei, weiHanded, setWeir_wei]
  change (setWeiQueue _ h []).wei.verdict = _
  rw [setWeiQueue_wei, weiJoined, setWeiQueue_wei]
  rfl

theorem onlyWeir_weiHanded (hidle : weiIdle d) (half : Half) : OnlyWeir w (weiHanded d (hn half) w c) := by
  refine OnlyWeir.setWeir ?_ _
  have hq : ∀ j, j < 2 → weiQueue (setWeiQueue (weiJoined d (hn half) w c) (hn half) []) j = [] := fun j hj => by
    by_cases hjh : j = hn half
    · rw [hjh, weiQueue_setWeiQueue_self]
    · rw [weiQueue_setWeiQueue_ne hjh, weiQueue_weiJoined_ne hjh]
      obtain rfl | rfl : j = 0 ∨ j = 1 := by omega
      · exact hidle.1
      · exact hidle.2.1
  refine ⟨by rw [weiQueue_weiNote, hq 0 (by decide)], by rw [weiQueue_weiNote, hq 1 (by decide)], fun v hv hne => ?_⟩
  rw [weirOf_weiNote, weirOf_setWeiQueue, weirOf_weiJoined]
  exact hidle.2.2 v hv

theorem onlyWeir_weiTook (hidle : weiIdle d) (half : Half) : OnlyWeir w (weiTook d (hn half) w c) :=
  (onlyWeir_weiHanded hidle half).setWeir _

/-- With one command in one half's queue, the halves hand over what that half does. -/
theorem dispatch_joined (hidle : weiIdle d) (half : Half) :
    weiDispatch 1 (weiQueue (weiJoined d (hn half) w c) 1).length
        (weiDispatch 0 (weiQueue (weiJoined d (hn half) w c) 0).length (weiJoined d (hn half) w c)) =
      weiDispatch (hn half) 1 (weiJoined d (hn half) w c) := by
  cases half
  · rw [show hn Half.A = 0 from rfl, weiQueue_weiJoined_self, weiQueue_weiJoined_ne (by decide), hidle.2.1]
    rfl
  · rw [show hn Half.B = 1 from rfl, weiQueue_weiJoined_self, weiQueue_weiJoined_ne (by decide), hidle.1]
    rfl

theorem stOf_weiJoined (d : Dev) (h w : Nat) (c : WeiCmd) (a : Nat) : stOf (weiJoined d h w c) a = stOf d a := by
  rw [stOf, (leaves_weiJoined d h w c).2.fget rfl, stOf]

theorem dispatch_running (hidle : weiIdle d) (hw : 4 * hn half + wcWeir c.op.toNat = w) (hw8 : w < 8)
    (hrun : stOf d (A.WEI_STS (hn half)) = 1) :
    weiDispatch (hn half) 1 (weiJoined d (hn half) w c) = weiHanded d (hn half) w c := by
  have hx : weirOf (weiNote (setWeiQueue (weiJoined d (hn half) w c) (hn half) []) w 1 1) w = weirOf d w := by
    rw [weirOf_weiNote, weirOf_setWeiQueue, weirOf_weiJoined]
  simp only [weiDispatch, weiQueue_weiJoined_self, hw, stOf_weiJoined, hrun, weirOf_weiJoined, hx,
    (hidle.2.2 w hw8).2, List.nil_append]
  rfl

theorem snapHolds_weiHanded (hw : w < 8) {n : Nat} : snapHolds (weiHanded d h w c) n = snapHolds d n := by
  have hbank : bankReg 0 n ≠ A.WEI_WSTS (w / 4) (w % 4) := by
    rw [bankReg]
    split <;> (interval_cases w <;> decide)
  have hreg : these [A.WEI_WSTS (w / 4) (w % 4)] (bankReg 0 n) = false := these_apart hbank
  rw [snapHolds, bankPend, bankEmit, (leaves_weiHanded d h w c).2.fget hreg, (leaves_weiHanded d h w c).2.fget hreg, snapHolds,
    bankPend, bankEmit]

theorem weirPump_weiHanded (hw : w < 8) (hx : (weirOf d w).cur = none) (hheld : snapHolds d c.step = false) (n : Nat) :
    weirPump w (n + 1) (weiHanded d h w c) = weirPump w n (weiTook d h w c) := by
  have hq : weirOf (weiHanded d h w c) w = { weirOf d w with queue := [c] } := weirOf_setWeir_self ..
  have hfree : weiHeld (weiHanded d h w c) c = false := by
    rw [weiHeld, snapHolds_weiHanded hw, hheld, Bool.false_and]
  rw [weiTook]
  generalize weiHanded d h w c = e at hq hfree
  rw [weirPump]
  simp only [hq, hx, hfree, Bool.false_eq_true, if_false]

/-- A command that nothing holds is taken by its weir; what the weir's rounds keep from then on holds at the end. -/
theorem weiRun_joined (hidle : weiIdle d) (hw : 4 * hn half + wcWeir c.op.toNat = w) (hw8 : w < 8)
    (hrun : stOf d (A.WEI_STS (hn half)) = 1) (hheld : snapHolds d c.step = false) {P : Dev → Prop}
    (hP : ∀ e, P e → OnlyWeir w e ∧ ∀ n, P (weirPump w (n + 1) e)) (hfst : P (weirPump w 3 (weiTook d (hn half) w c))) :
    P (weiRun (weiJoined d (hn half) w c)) := by
  have hlen : 2 * (weirOf (weiHanded d (hn half) w c) w).queue.length + 2 = 3 + 1 := by
    rw [show weirOf (weiHanded d (hn half) w c) w = { weirOf d w with queue := [c] } from weirOf_setWeir_self ..]
    rfl
  rw [weiRun]
  generalize (weiQueue (weiJoined d (hn half) w c) 0).length + (weiQueue (weiJoined d (hn half) w c) 1).length + 1 = n
  rw [weiPump, dispatch_joined hidle, dispatch_running hidle hw hw8 hrun]
  refine weiPump_keeps hP (round_fst (onlyWeir_weiHanded hidle half) hw8 hP ?_) _
  rw [hlen, weirPump_weiHanded hw8 (hidle.2.2 w hw8).1 hheld]
  exact hfst

end

end Sys2Proof.Machine
end

section
/-! PROOFS. The request for a build slot (08, R287 to R290): it turns on what the ephemeris holds and touches only the slot
that it grants. -/

namespace Sys2Proof.Machine

section
variable {ps : List Piece} {p : Nat → Bool} {d d1 u : Dev} {e s t w k n : Nat}

/-- The slots of an entry that hold a tag. -/
def ephMine (d : Dev) (e t : Nat) : List Nat :=
  (entrySlots e).filter (fun k => decide (slotTag d k = t) && decide (slotState d k ≠ 0))

/-- What a request decides where it does not fail: no slot, a slot of its step, or a slot that it takes afresh. -/
def ephChoice (d : Dev) (e s : Nat) : Option (Option (Nat × Bool)) :=
  let t := (s + 1) % 65536
  if !running d .eph then some none
  else if e > 2047 ∨ fget d (A.EPH_ENT e) F.EPH_ENT_VALID = 0 then none
  else if fget d (A.EPH_ENT e) F.EPH_ENT_MX = 1 ∧ (ephMode d ≠ 0 ∨ stepCommitted d s = false) then none
  else if (ephMine d e t).any (condemned d) then some none
  else match (ephMine d e t).find? (fun k => decide (slotState d k ≤ 3)) with
  | some k => some (some (k, false))
  | none =>
    match (ephMine d e t).find? (fun k => decide (slotState d k = 4)) with
    | some _ => none
    | none =>
      if ((entrySlots e).filter (fun k => decide (slotState d k ≠ 0))).length < modeCap (ephMode d) then
        some (((entrySlots e).find? (fun k => decide (slotState d k = 0))).map (·, true))
      else some none

/-- The package with a slot tagged for the build of step `s`. -/
def ephTagged (d : Dev) (s k : Nat) : Dev :=
  fset (fset d (A.EPH_SLOT k) F.EPH_SLOT_TAG ((s + 1) % 65536)) (A.EPH_SLOT k) F.EPH_SLOT_RC 0

/-- The package with a slot taken afresh. -/
def ephTake (d : Dev) (e s k : Nat) : Dev :=
  fset (setSlotState (ephTagged d s k) k (if stepCommitted (ephTagged d s k) s then 3 else 1)) (A.WEI_BUILD e) F.WEI_BUILD_COUNT 0

/-- The package and the slot that a decision gives. -/
def ephAnswer (d : Dev) (e s : Nat) : Option (Nat × Bool) → Dev × Option Nat
  | none => (d, none)
  | some (k, false) => (d, some k)
  | some (k, true) => (ephTake d e s k, some k)

theorem ephRequest_eq (d : Dev) (e s : Nat) : (ephRequest d e s).toOption = (ephChoice d e s).map (ephAnswer d e s) := by
  unfold ephRequest ephChoice ephMine
  dsimp only
  split
  · rfl
  split
  · rfl
  split
  · rfl
  split
  · rfl
  generalize (entrySlots e).filter (fun k => decide (slotTag d k = (s + 1) % 65536) && decide (slotState d k ≠ 0)) = mine
  generalize mine.find? (fun k => decide (slotState d k ≤ 3)) = built
  generalize mine.find? (fun k => decide (slotState d k = 4)) = live
  generalize (entrySlots e).find? (fun k => decide (slotState d k = 0)) = free
  cases built with
  | some k => rfl
  | none =>
    cases live with
    | some k => rfl
    | none =>
      dsimp only
      split
      · cases free <;> rfl
      · rfl

theorem ephRequest_ok_iff {r : Dev × Option Nat} : ephRequest d e s = .ok r ↔ (ephChoice d e s).map (ephAnswer d e s) = some r := by
  rw [← ephRequest_eq]
  cases ephRequest d e s <;> simp [Except.toOption]

/-- The package has changed in the state of the weirs and in weir `w`'s own register alone, and no verdict came in. -/
structure SameButWeir (w : Nat) (d u : Dev) : Prop where
  leaves : Leaves [.wei, .gov] (these [A.WEI_WSTS (w / 4) (w % 4)]) d u
  mem : u.mem = d.mem
  verdict : u.wei.verdict = d.wei.verdict

namespace SameButWeir

theorem trans {v : Dev} (h : SameButWeir w d u) (h' : SameButWeir w u v) : SameButWeir w d v :=
  ⟨h.leaves.trans h'.leaves, h'.mem.trans h.mem, h'.verdict.trans h.verdict⟩

theorem fget (h : SameButWeir w d u) {a : Nat} (ha : a ≠ A.WEI_WSTS (w / 4) (w % 4)) (f : Fld) : fget u a f = fget d a f :=
  h.leaves.2.fget (these_apart ha) f

theorem liveGet (h : SameButWeir w d u) (a : Nat) (f : Fld) : liveGet u a f = liveGet d a f :=
  liveGet_of_leaves h.leaves (by decide) a f

theorem ent_ne (he : e ≤ 2047) : A.EPH_ENT e ≠ A.WEI_WSTS (w / 4) (w % 4) := by
  simp only [A.EPH_ENT, A.WEI_WSTS]
  omega

theorem slot_ne (hk : k ≤ 16383) : A.EPH_SLOT k ≠ A.WEI_WSTS (w / 4) (w % 4) := by
  simp only [A.EPH_SLOT, A.WEI_WSTS]
  omega

theorem slot_le (he : e ≤ 2047) (hk : k ∈ entrySlots e) : k ≤ 16383 := by
  have := List.mem_range'_1.1 (show k ∈ List.range' (8 * e) 8 from hk)
  omega

theorem stepCommitted (h : SameButWeir w d u) (hw : w < 8) (s : Nat) : stepCommitted u s = stepCommitted d s := by
  have hstep : A.SEQ_STEP 0 ≠ A.WEI_WSTS (w / 4) (w % 4) := by interval_cases w <;> decide
  rw [Machine.stepCommitted, curStep, h.fget hstep, h.verdict, Machine.stepCommitted, curStep]

theorem ephChoice (h : SameButWeir w d u) (hw : w < 8) (e s : Nat) : ephChoice u e s = ephChoice d e s := by
  have hrun : running u .eph = running d .eph := by
    rw [running, blkState, stOf, h.fget (by interval_cases w <;> decide), running, blkState, stOf]
  unfold Machine.ephChoice
  rw [hrun]
  by_cases he : e > 2047
  · simp only [he, true_or, if_true]
  · have he : e ≤ 2047 := by omega
    have hslot (k) (hk : k ∈ entrySlots e) (f : Fld) : Machine.fget u (A.EPH_SLOT k) f = Machine.fget d (A.EPH_SLOT k) f :=
      h.fget (slot_ne (slot_le he hk)) f
    have hmine (t) : ephMine u e t = ephMine d e t := List.filter_congr fun k hk => by
      rw [slotTag, slotState, hslot k hk, hslot k hk, slotTag, slotState]
    have hsub (t k) (hk : k ∈ ephMine d e t) : k ∈ entrySlots e := (List.mem_filter.1 hk).1
    have hcond : condemned u = condemned d := by
      funext k
      rw [condemned, h.leaves.1 .eph (by decide), condemned]
    have hmode : ephMode u = ephMode d := h.liveGet ..
    have hfind (t n) : (ephMine d e t).find? (fun k => decide (slotState u k ≤ n)) =
        (ephMine d e t).find? (fun k => decide (slotState d k ≤ n)) :=
      List.find?_congr fun k hk => by rw [slotState, hslot k (hsub t k hk), slotState]
    have hlive (t n) : (ephMine d e t).find? (fun k => decide (slotState u k = n)) =
        (ephMine d e t).find? (fun k => decide (slotState d k = n)) :=
      List.find?_congr fun k hk => by rw [slotState, hslot k (hsub t k hk), slotState]
    have hfree : (entrySlots e).find? (fun k => decide (slotState u k = 0)) = (entrySlots e).find? (fun k => decide (slotState d k = 0)) :=
      List.find?_congr fun k hk => by rw [slotState, hslot k hk, slotState]
    have hused : (entrySlots e).filter (fun k => decide (slotState u k ≠ 0)) = (entrySlots e).filter (fun k => decide (slotState d k ≠ 0)) :=
      List.filter_congr fun k hk => by rw [slotState, hslot k hk, slotState]
    simp only [hmine, hcond, hfind, hlive, hfree, hused, h.fget (ent_ne he), hmode, h.stepCommitted hw]

theorem fset (h : SameButWeir w d u) (a : Nat) (f : Fld) (v : Nat) : SameButWeir w (fset d a f v) (fset u a f v) := by
  refine ⟨⟨fun q hq => ?_, fun b hb => ?_⟩, by rw [fset_mem, fset_mem, h.mem], by rw [fset_wei, fset_wei, h.verdict]⟩
  · have hq := h.leaves.1 q hq
    cases q <;> exact hq
  · rw [Machine.fset, Machine.fset, regGet_regSet, regGet_regSet, h.leaves.2 b hb]
    split
    next hba => rw [← hba, h.leaves.2 b hb]
    next => rfl

theorem ephTake (h : SameButWeir w d u) (hw : w < 8) (e s k : Nat) : SameButWeir w (ephTake d e s k) (ephTake u e s k) := by
  have htag : SameButWeir w (ephTagged d s k) (ephTagged u s k) := (h.fset ..).fset ..
  rw [Machine.ephTake, Machine.ephTake, htag.stepCommitted hw]
  exact (htag.fset ..).fset ..

theorem ephAnswer (h : SameButWeir w d u) (hw : w < 8) (e s : Nat) (r : Option (Nat × Bool)) :
    SameButWeir w (ephAnswer d e s r).1 (ephAnswer u e s r).1 ∧ (ephAnswer u e s r).2 = (ephAnswer d e s r).2 := by
  match r with
  | none => exact ⟨h, rfl⟩
  | some (k, false) => exact ⟨h, rfl⟩
  | some (k, true) => exact ⟨h.ephTake hw e s k, rfl⟩

/-- A request gives the same to a package that differs in a weir alone. -/
theorem ephRequest (h : SameButWeir w d u) (hw : w < 8) {k : Option Nat} (hd : ephRequest d e s = .ok (d1, k)) :
    ∃ u1, ephRequest u e s = .ok (u1, k) ∧ SameButWeir w d1 u1 := by
  obtain ⟨r, hr, hd1⟩ := Option.map_eq_some_iff.1 (ephRequest_ok_iff.1 hd)
  obtain ⟨hsame, hk⟩ := h.ephAnswer hw e s r
  rw [hd1] at hsame hk
  refine ⟨(Machine.ephAnswer u e s r).1, ephRequest_ok_iff.2 ?_, hsame⟩
  rw [h.ephChoice hw, hr]
  exact congrArg some (Prod.ext rfl hk)

/-- A request that gives none leaves the package. -/
theorem ephRequest_none (h : SameButWeir w d u) (hw : w < 8) (hd : Machine.ephRequest d e s = .ok (d1, none)) :
    Machine.ephRequest u e s = .ok (u, none) := by
  obtain ⟨r, hr, hd1⟩ := Option.map_eq_some_iff.1 (ephRequest_ok_iff.1 hd)
  match r with
  | none => exact ephRequest_ok_iff.2 (by rw [h.ephChoice hw, hr]; rfl)
  | some (k, true) => cases hd1
  | some (k, false) => cases hd1

end SameButWeir

theorem leaves_ephTake (d : Dev) (e s k : Nat) : Leaves [] (these [A.EPH_SLOT k, A.WEI_BUILD e]) d (ephTake d e s k) := by
  rw [ephTake, setSlotState, leaves_fset_iff (by simp), leaves_fset_iff (by simp), ephTagged, leaves_fset_iff (by simp),
    leaves_fset_iff (by simp)]
  exact leaves_self

/-- A request changes no more than the registers of slots and builds. -/
theorem leaves_ephRequest {k : Option Nat} (hd : ephRequest d e s = .ok (d1, k)) : Leaves [] (fun _ => true) d d1 := by
  obtain ⟨r, -, hd1⟩ := Option.map_eq_some_iff.1 (ephRequest_ok_iff.1 hd)
  have hd1 : d1 = (ephAnswer d e s r).1 := by rw [hd1]
  subst hd1
  match r with
  | none => exact leaves_self
  | some (k, false) => exact leaves_self
  | some (k, true) => exact (leaves_ephTake d e s k).weaken (by simp) fun _ ha => by cases ha

end

end Sys2Proof.Machine
end

section
/-! PROOFS. The work of one group that is not logged: the bytes that it stores, and what else it changes (09, R299 to R310,
R318, R323). -/

namespace Sys2Proof.Machine

section
variable {ps : List Piece} {p : Nat → Bool} {d e u : Dev} {j : WeiJob} {w k n t G : Nat} {half : Half}

/-! ### Memory under the stores of a weir -/

theorem ctlWrite_mem (d : Dev) (a : Nat) (bs : List Byte) : (ctlWrite d a bs).mem = memWrite d.mem a bs := by
  simp only [ctlWrite, markClear, underClear, withMs_mem, withMem_mem]
  split <;> simp only [count_mem]

theorem ctlTouch_mem (hm : d.ms.marks = []) (a n : Nat) : (ctlTouch d a n).mem = d.mem := by
  have hmarks : (count d (homeHalf a) 0x620 (stackOf a % 4) (unitsUnder a n) false).ms.marks = [] := by rw [count_ms, hm]
  unfold ctlTouch
  split
  · rw [markTouch, hmarks, List.filter_nil, List.foldl_nil, count_mem]
  · rfl

theorem bankFor_mem (d : Dev) (h n : Nat) : (bankFor d h n).1.mem = d.mem := by
  unfold bankFor
  extract_lets r first x f
  split
  · rw [fset_mem, fset_mem]
  · split
    · rfl
    · have hf : f.mem = d.mem := withAst_mem ..
      dsimp only
      split
      · rw [astNote, raise_mem, fset_mem, hf]
      · exact hf

theorem normGroup_leaves (d : Dev) (half : Half) (n e : Nat) (full : Bool) (ts : List NormTerm) :
    Leaves [.ast, .hst] (weiReports (hn half)) d (normGroup d (hn half) n e full ts) ∧
      (normGroup d (hn half) n e full ts).mem = d.mem := by
  have hbank : Leaves [.ast, .hst] (weiReports (hn half)) d (bankFor d (hn half) n).1 :=
    (bankFor_leaves d (hn half) n).1.weaken (by simp) fun _ => isBankNote_of_weiReports
  have hmem := bankFor_mem d (hn half) n
  unfold normGroup
  split
  · exact ⟨leaves_self, rfl⟩
  · split
    next f hf => exact ⟨by simpa [hf] using hbank, by simpa [hf] using hmem⟩
    next f hf =>
      rw [hf] at hbank hmem
      exact ⟨(leaves_withAst_iff (by simp)).2 hbank, by rw [withAst_mem]; exact hmem⟩

theorem weiCmdRaise_minor (d : Dev) (w : Nat) (c : WeiCmd) {number : Nat} (detail : Nat) (hsev : weiSev number = 0) :
    weiCmdRaise d w c number detail =
      post (fset (fset d (A.WEI_STS (w / 4)) F.WEI_STS_EXC number) (A.WEI_STS (w / 4)) F.WEI_STS_WEIR (w % 4)) number 0 5
        (opPayload (fset (fset d (A.WEI_STS (w / 4)) F.WEI_STS_EXC number) (A.WEI_STS (w / 4)) F.WEI_STS_WEIR (w % 4))
          c.op.toNat c.spc c.strand (w / 4) number (w % 4) 0 detail) := by
  unfold weiCmdRaise weiRaise
  rw [hsev]
  rfl

/-- A record of a non-finite element aborts nothing. -/
theorem weiNonfin_leaves (hhst : Piece.hst ∈ ps) (hw : w / 4 = hn half) (d : Dev) (c : WeiCmd) (bad : Bool) :
    Leaves ps (weiReports (hn half)) d (weiNonfin d w c bad).1 ∧ (weiNonfin d w c bad).1.mem = d.mem ∧
      ∃ b, (weiNonfin d w c bad).2 = { c with nonfin := b } := by
  unfold weiNonfin
  split
  · refine ⟨?_, ?_, true, rfl⟩
    · dsimp only
      rw [weiCmdRaise_minor (number := 0x89) _ _ _ _ rfl, leaves_post_iff hhst fun _ => isReport_of_weiReports, hw,
        leaves_fset_iff weiReports_sts, leaves_fset_iff weiReports_sts]
      exact leaves_self
    · dsimp only
      rw [weiCmdRaise_minor (number := 0x89) _ _ _ _ rfl, post_mem, fset_mem, fset_mem]
  · exact ⟨leaves_self, rfl, c.nonfin, rfl⟩

theorem leaves_weiReports_reportEvents (d : Dev) (gp : Bool) (s src word : Nat) (ev : Events) :
    Leaves [.mach, .hst] (weiReports (hn half)) d (reportEvents d (hn half) gp s src word ev) :=
  (leavesJet_reportEvents (ps := [.mach, .hst]) (by simp) (by simp) leaves_self gp s src word ev).weaken (by simp) fun _ => jetReports_of_weiReports

/-! ### The steps of a group's work -/

/-- The address of a group's records. -/
def WeiJob.recordsAt (j : WeiJob) (G : Nat) : Nat := j.e.rbase + G * 256 * recordSize j.r.layout

/-- The record bytes of a worked group. -/
def weiOut (m : List Host.Cell) (j : WeiJob) (G : Nat) (xs : List ElemOut) : List Byte :=
  (xs.zipIdx.map (fun p => if p.1.kept then memRead m (j.recordsAt G + recordSize j.r.layout * p.2) (recordSize j.r.layout)
    else elemBytes j.r.layout p.1.new)).flatten

/-- The package with the group's records and gradients read. -/
def weiTouched (d : Dev) (j : WeiJob) (G : Nat) : Dev :=
  ctlTouch (ctlTouch d (j.recordsAt G) (256 * recordSize j.r.layout)) (j.e.gbase + G * 256 * j.gb)
    (if j.r.layout = 2 then 0 else 256 * j.gb)

/-- The package with the group's records stored. -/
def weiStored (d : Dev) (j : WeiJob) (G t : Nat) : Dev :=
  if j.r.layout = 2 then weiTouched d j G
  else ctlWrite (weiTouched d j G) (j.recordsAt G) (weiOut (weiTouched d j G).mem j G (weiElems (weiTouched d j G) j G t))

/-- The package with the group's narrow copy stored, where it has one. -/
def weiNarrowed (d : Dev) (j : WeiJob) (G : Nat) (xs : List ElemOut) : Dev × Events :=
  match j.c.slot with
  | some k => if j.narrow then narrowWrite d j k G j.r.rnd (xs.map (fun x : ElemOut => x.new.w)) else (d, noEvents)
  | none => (d, noEvents)

/-- The events, the statistics and the count of a worked group. -/
def weiBooked (d : Dev) (j : WeiJob) (xs : List ElemOut) (ev : Events) : Dev :=
  let f := reportEvents d (j.w / 4) true j.c.step srcWEI j.c.op.toNat
    ((xs.foldl (fun (a : Events) x => a.add x.ev) noEvents).add ev)
  count (normGroup f (j.w / 4) j.c.step j.e.entry (decide (j.r.layout = 0)) (weiTerms j.r.layout xs)) (j.w / 4) 0x400
    (j.w % 4) 1 false

theorem weiWorkGroup_eq (d : Dev) (j : WeiJob) (G t : Nat) :
    weiWorkGroup d j G t none false =
      let xs := weiElems (weiTouched d j G) j G t
      let N := weiNarrowed (weiStored d j G t) j G xs
      weiNonfin (weiBooked N.1 j xs N.2) j.w j.c (xs.any (·.kept)) := by
  unfold weiWorkGroup
  extract_lets r rb ra d1 xs d2 d3 out d4 h xs' N
  have hd2 : d2 = d1 := if_neg Bool.false_ne_true
  have hd3 : d3 = d1 := hd2
  have hd4 : d4 = weiStored d j G t := by
    simp only [d4, out, hd3]
    rfl
  have hN : N = weiNarrowed d4 j G xs := by
    rw [hd4]
    rfl
  clear_value d2 d3 d4
  clear hd2 hd3 out hd4
  split
  next f ev hfe =>
    have hfe : N = (f, ev) := hN.trans hfe
    rw [hfe]
    dsimp only
    rw [if_neg Bool.false_ne_true]
    rfl

/-! ### What the work reads -/

/-- Two packages agree in what the work of a group for ephemeris entry `n` reads. -/
structure WorkAgrees (n : Nat) (d u : Dev) : Prop where
  mem : u.mem = d.mem
  cas : u.cas = d.cas
  live : u.live = d.live
  ent : ∀ f, fget u (A.EPH_ENT n) f = fget d (A.EPH_ENT n) f

theorem workAgrees_of_leaves (h : Leaves ps p d u) (hmem : u.mem = d.mem) (hcas : Piece.cas ∉ ps) (hlive : Piece.live ∉ ps)
    (hn : p (A.EPH_ENT n) = false) : WorkAgrees n d u :=
  ⟨hmem, h.1 .cas hcas, h.1 .live hlive, fun _ => h.2.fget hn _⟩

namespace WorkAgrees

theorem localByte (h : WorkAgrees n d u) (a : Nat) : localByte u a = localByte d a := by
  rw [Machine.localByte, h.mem, windowByte, h.cas, Machine.localByte, windowByte]

theorem weiElems (h : WorkAgrees n d u) (j : WeiJob) (G t : Nat) : weiElems u j G t = weiElems d j G t := by
  have hgrad : localNat u = localNat d := by
    funext a k
    simp only [localNat, h.localByte]
  rw [Machine.weiElems, h.mem, hgrad, Machine.weiElems]

theorem slotBase (h : WorkAgrees n d u) (hk : k / 8 = n) : slotBase u k = slotBase d k := by
  rw [Machine.slotBase, hk, h.ent, h.ent, Machine.slotBase, hk]

theorem narrowRnd (h : WorkAgrees n d u) (hj : j.e.entry = n) (rnd i0 : Nat) : narrowRnd u j rnd i0 = narrowRnd d j rnd i0 := by
  rw [Machine.narrowRnd, hj, h.ent, liveGet_of_live h.live, Machine.narrowRnd, hj]

end WorkAgrees

/-! ### The memory after the work -/

/-- Memory with a group's narrow copy in slot `k`. -/
def narrowMem (d : Dev) (m : List Host.Cell) (j : WeiJob) (k G rnd : Nat) (ws : List FVal) : List Host.Cell :=
  let i0 := 256 * (j.e.gidx0 + G)
  let o := narrowCodes j.e.nfmt (narrowRnd d j rnd i0) ws
  let m := memWrite m (slotBase d k + i0 * elemBits j.e.nfmt / 8) o.1
  if isMx j.e.nfmt then memWrite m (j.e.scbase + i0 / 32) o.2.1 else m

theorem narrowWrite_mem (d : Dev) (j : WeiJob) (k G rnd : Nat) (ws : List FVal) :
    (narrowWrite d j k G rnd ws).1.mem = narrowMem d d.mem j k G rnd ws := by
  simp only [narrowWrite, narrowMem]
  split
  · rw [ctlWrite_mem, ctlWrite_mem]
  · rw [ctlWrite_mem]

/-- Memory with the records of a group stored. -/
def storedMem (d : Dev) (j : WeiJob) (G t : Nat) : List Host.Cell :=
  if j.r.layout = 2 then d.mem else memWrite d.mem (j.recordsAt G) (weiOut d.mem j G (weiElems d j G t))

/-- Memory after a group's work. -/
def workMem (d : Dev) (j : WeiJob) (G t : Nat) : List Host.Cell :=
  match j.c.slot with
  | some k =>
    if j.narrow then narrowMem d (storedMem d j G t) j k G j.r.rnd ((weiElems d j G t).map (fun x : ElemOut => x.new.w))
    else storedMem d j G t
  | none => storedMem d j G t

theorem WorkAgrees.storedMem (h : WorkAgrees n d u) (j : WeiJob) (G t : Nat) : storedMem u j G t = storedMem d j G t := by
  rw [Machine.storedMem, h.mem, h.weiElems, Machine.storedMem]

theorem WorkAgrees.narrowMem (h : WorkAgrees n d u) (hj : j.e.entry = n) (hk : k / 8 = n) (m : List Host.Cell) (rnd : Nat)
    (ws : List FVal) : narrowMem u m j k G rnd ws = narrowMem d m j k G rnd ws := by
  rw [Machine.narrowMem, h.narrowRnd hj, h.slotBase hk, Machine.narrowMem]

theorem WorkAgrees.workMem (h : WorkAgrees n d u) (hj : j.e.entry = n) (hk : ∀ k, j.c.slot = some k → k / 8 = n) :
    workMem u j G t = workMem d j G t := by
  unfold Machine.workMem
  rw [h.storedMem, h.weiElems]
  split
  next k hs => rw [h.narrowMem hj (hk k hs)]
  next => rfl

theorem isCounter_ent (hn : n ≤ 2047) : isCounter (A.EPH_ENT n) = false := by
  rw [← Bool.not_eq_true, isCounter_iff]
  simp only [A.EPH_ENT]
  omega

theorem leaves_weiTouched (hm : d.ms.marks = []) (j : WeiJob) (G : Nat) :
    Leaves [] isCounter d (weiTouched d j G) ∧ (weiTouched d j G).mem = d.mem := by
  obtain ⟨h1, hm1, -⟩ := leaves_ctlTouch (j.recordsAt G) (256 * recordSize j.r.layout) hm
  obtain ⟨h2, -, -⟩ := leaves_ctlTouch (j.e.gbase + G * 256 * j.gb) (if j.r.layout = 2 then 0 else 256 * j.gb) hm1
  exact ⟨h1.trans h2, by rw [weiTouched, ctlTouch_mem hm1, ctlTouch_mem hm]⟩

theorem workAgrees_weiTouched (hm : d.ms.marks = []) (j : WeiJob) (G : Nat) (hn : n ≤ 2047) : WorkAgrees n d (weiTouched d j G) :=
  workAgrees_of_leaves (leaves_weiTouched hm j G).1 (leaves_weiTouched hm j G).2 (by simp) (by simp) (isCounter_ent hn)

theorem leaves_weiStored (hm : d.ms.marks = []) (j : WeiJob) (G t : Nat) :
    Leaves [.mem, .ms] isCounter d (weiStored d j G t) ∧ (weiStored d j G t).mem = storedMem d j G t := by
  have ht : Leaves [.mem, .ms] isCounter d (weiTouched d j G) := (leaves_weiTouched hm j G).1.weaken (by simp) fun _ => id
  have hmem := (leaves_weiTouched hm j G).2
  unfold weiStored storedMem
  split
  · exact ⟨ht, hmem⟩
  · refine ⟨ht.trans (leaves_ctlWrite ..), ?_⟩
    rw [ctlWrite_mem, (workAgrees_weiTouched (n := 0) hm j G (by decide)).weiElems, hmem]

theorem leaves_narrowWrite (d : Dev) (j : WeiJob) (k G rnd : Nat) (ws : List FVal) :
    Leaves [.mem, .ms] isCounter d (narrowWrite d j k G rnd ws).1 := by
  simp only [narrowWrite]
  split
  · exact (leaves_ctlWrite ..).trans (leaves_ctlWrite ..)
  · exact leaves_ctlWrite ..

theorem leaves_weiNarrowed (d : Dev) (j : WeiJob) (G : Nat) (xs : List ElemOut) :
    Leaves [.mem, .ms] isCounter d (weiNarrowed d j G xs).1 := by
  unfold weiNarrowed
  split
  · split
    · exact leaves_narrowWrite ..
    · exact leaves_self
  · exact leaves_self

theorem weiNarrowed_mem (hm : d.ms.marks = []) (he : j.e.entry ≤ 2047) (hk : ∀ k, j.c.slot = some k → k / 8 = j.e.entry) :
    (weiNarrowed (weiStored d j G t) j G (weiElems (weiTouched d j G) j G t)).1.mem = workMem d j G t := by
  obtain ⟨hl, hmem⟩ := leaves_weiStored hm j G t
  have hcnt := isCounter_ent he
  have hent : ∀ f, fget (weiStored d j G t) (A.EPH_ENT j.e.entry) f = fget d (A.EPH_ENT j.e.entry) f := fun f => hl.2.fget hcnt f
  have hlive := liveGet_of_leaves hl (by decide)
  rw [(workAgrees_weiTouched (n := 0) hm j G (by decide)).weiElems]
  unfold weiNarrowed workMem
  split
  next k hs =>
    split
    · rw [narrowWrite_mem, hmem]
      simp only [narrowMem, narrowRnd, slotBase, hk k hs, hent, hlive]
    · exact hmem
  next => exact hmem

theorem leaves_weiBooked (hw : j.w / 4 = hn half) (d : Dev) (xs : List ElemOut) (ev : Events) :
    Leaves [.ast, .mach, .hst] (weiReports (hn half)) d (weiBooked d j xs ev) ∧ (weiBooked d j xs ev).mem = d.mem := by
  unfold weiBooked
  extract_lets f
  have hf : Leaves [.ast, .mach, .hst] (weiReports (hn half)) d f := by
    simp only [f, hw]
    exact (leaves_weiReports_reportEvents ..).weaken (by simp) fun _ => id
  have hfm : f.mem = d.mem := reportEvents_mem ..
  obtain ⟨hn, hnm⟩ := normGroup_leaves f half j.c.step j.e.entry (decide (j.r.layout = 0)) (weiTerms j.r.layout xs)
  rw [hw]
  refine ⟨(hf.trans (hn.weaken (by simp) fun _ => id)).trans
    ((onlyRegs_count _ _ _ _ _ _ (hn_lt_two half)).leaves.weaken (by simp) fun _ => isCounter_of_weiReports), ?_⟩
  rw [count_mem, hnm, hfm]

/-- The work of one group that is not logged. -/
theorem weiWorkGroup_work (hm : d.ms.marks = []) (hw : j.w / 4 = hn half) :
    Leaves [.mem, .ms, .ast, .mach, .hst] (weiReports (hn half)) d (weiWorkGroup d j G t none false).1 ∧
      ∃ b, (weiWorkGroup d j G t none false).2 = { j.c with nonfin := b } := by
  rw [weiWorkGroup_eq]
  extract_lets xs N
  obtain ⟨h4, -, hb⟩ := weiNonfin_leaves (ps := [.hst]) (by simp) hw (weiBooked N.1 j xs N.2) j.c (xs.any (·.kept))
  have h1 : Leaves [.mem, .ms, .ast, .mach, .hst] (weiReports (hn half)) d (weiStored d j G t) :=
    (leaves_weiStored hm j G t).1.weaken (by simp) fun _ => isCounter_of_weiReports
  have h2 : Leaves [.mem, .ms, .ast, .mach, .hst] (weiReports (hn half)) (weiStored d j G t) N.1 :=
    (leaves_weiNarrowed ..).weaken (by simp) fun _ => isCounter_of_weiReports
  have h3 := (leaves_weiBooked hw N.1 xs N.2).1
  exact ⟨((h1.trans h2).trans (h3.weaken (by simp) fun _ => id)).trans (h4.weaken (by simp) fun _ => id), hb⟩

theorem weiWorkGroup_mem (hm : d.ms.marks = []) (hw : j.w / 4 = hn half) (he : j.e.entry ≤ 2047)
    (hk : ∀ k, j.c.slot = some k → k / 8 = j.e.entry) : (weiWorkGroup d j G t none false).1.mem = workMem d j G t := by
  rw [weiWorkGroup_eq]
  extract_lets xs N
  rw [(weiNonfin_leaves (ps := [.hst]) (by simp) hw _ _ _).2.1, (leaves_weiBooked hw ..).2]
  exact weiNarrowed_mem hm he hk

end

end Sys2Proof.Machine
end

section
/-! PROOFS. A weir that takes its command begins it and works its one group (09, R298, R304, R306). -/

namespace Sys2Proof.Machine

section
variable {ps : List Piece} {p : Nat → Bool} {d d1 e u F : Dev} {j : WeiJob} {w k n : Nat} {c c2 c3 : WeiCmd} {words : List Nat}
  {half : Half}

theorem jobOf_of_live (h : u.live = d.live) (w : Nat) (c : WeiCmd) : jobOf u w c = jobOf d w c := by
  rw [jobOf, ruleOf, funext fun a => funext fun f => liveGet_of_live h a f, jobOf, ruleOf]

/-! ### A command begins -/

/-- The package with the command begun: the wait of its weir is over. -/
def weiBegun (d : Dev) (w : Nat) (c : WeiCmd) : Dev := setWeir (weirGo d w) w { weirOf (weirGo d w) w with cur := some c }

theorem wordDefined (hop : wcOp c.op.toNat = 1 ∨ wcOp c.op.toNat = 2) (hsel : selDefined (wcSel c.op.toNat) = true) :
    ¬((wcOp c.op.toNat ≠ 1 ∧ wcOp c.op.toNat ≠ 2) ∨ selDefined (wcSel c.op.toNat) = false) := by
  rintro (⟨h1, h2⟩ | h)
  · exact hop.elim h1 h2
  · rw [hsel] at h
    exact Bool.noConfusion h

section
variable (hop : wcOp c.op.toNat = 1 ∨ wcOp c.op.toNat = 2) (hsel : selDefined (wcSel c.op.toNat) = true)
  (hwords : wstWords d (w / 4) (wcDesc c.op.toNat) = some words)
include hop hsel hwords

theorem weiBegin_plain (hnarrow : (jobOf d w { c with ent := words }).narrow = false)
    (henc : weiEncBad (jobOf d w { c with ent := words }) = false)
    (haddr : weiAddrBad d (jobOf d w { c with ent := words }) 0 = none) :
    weiBegin d w c = weiGroups w (wstFields words).sg (weiBegun d w { c with ent := words }) := by
  unfold weiBegin
  dsimp only
  rw [if_neg (wordDefined hop hsel), hwords]
  dsimp only
  rw [hnarrow, henc, haddr]
  rfl

theorem weiBegin_slot (hnarrow : (jobOf d w { c with ent := words }).narrow = true)
    (heph : ephRequest d (wstFields words).entry c.pstep = .ok (d1, some k))
    (henc : weiEncBad (jobOf d1 w { c with ent := words, slot := some k }) = false)
    (haddr : weiAddrBad d1 (jobOf d1 w { c with ent := words, slot := some k }) k = none) :
    weiBegin d w c = weiGroups w (wstFields words).sg (weiBegun d1 w { c with ent := words, slot := some k }) := by
  have heph : ephRequest d (jobOf d w { c with ent := words }).e.entry c.pstep = .ok (d1, some k) := heph
  unfold weiBegin
  dsimp only
  rw [if_neg (wordDefined hop hsel), hwords]
  dsimp only
  rw [hnarrow, heph]
  dsimp only
  rw [henc, haddr]
  rfl

theorem weiBegin_waits (hnarrow : (jobOf d w { c with ent := words }).narrow = true)
    (heph : ephRequest d (wstFields words).entry c.pstep = .ok (d1, none)) :
    weiBegin d w c = weirWait d1 w { c with ent := [] } false := by
  have heph : ephRequest d (jobOf d w { c with ent := words }).e.entry c.pstep = .ok (d1, none) := heph
  unfold weiBegin
  dsimp only
  rw [if_neg (wordDefined hop hsel), hwords]
  dsimp only
  rw [hnarrow, heph]
  rfl

end

/-! ### The rounds of a weir that is done -/

theorem weirPump_done (hcur : (weirOf e w).cur = some c) (hent : c.ent ≠ []) (hsg : (wstFields c.ent).sg ≤ c.next) (n : Nat) :
    weirPump w (n + 1) e = e := by
  have hent : c.ent.isEmpty = false := by rw [← Bool.not_eq_true, List.isEmpty_iff]; exact hent
  rw [weirPump]
  simp only [hcur, hent, Bool.false_eq_true, if_false]
  generalize hg : (wstFields c.ent).sg = g at hsg
  cases g with
  | zero => rfl
  | succ g =>
    have hj : (jobOf e w c).e.sg ≤ c.next := by
      rw [show (jobOf e w c).e.sg = (wstFields c.ent).sg from rfl, hg]
      exact hsg
    rw [weiGroups]
    simp only [hcur, if_pos hj]

theorem weirPump_begins (hcur : (weirOf e w).cur = some c) (hent : c.ent = []) (hb : (weirOf (weiBegin e w c) w).cur.isNone = false)
    (n : Nat) : weirPump w (n + 1) e = weiBegin e w c := by
  rw [weirPump]
  simp only [hcur, hent, List.isEmpty_nil, if_true, hb, Bool.false_eq_true, if_false]

/-- A command that its weir begins and works to its last group at once. -/
theorem weiRun_done (hidle : weiIdle d) (hw : 4 * hn half + wcWeir c.op.toNat = w) (hw8 : w < 8)
    (hrun : stOf d (A.WEI_STS (hn half)) = 1) (hheld : snapHolds d c.step = false) (hent : c.ent = [])
    (he : weiBegin (weiTook d (hn half) w c) w c = e) (hcur : (weirOf e w).cur = some c3) (hent3 : c3.ent ≠ [])
    (hsg : (wstFields c3.ent).sg ≤ c3.next) (honly : OnlyWeir w e) : weiRun (weiJoined d (hn half) w c) = e := by
  refine weiRun_joined (P := (· = e)) hidle hw hw8 hrun hheld ?_ ?_
  · rintro _ rfl
    exact ⟨honly, fun n => weirPump_done hcur hent3 hsg n⟩
  · rw [weirPump_begins (by rw [weirOf_weiTook]) hent (by rw [he, hcur]; rfl), he]

/-! ### One group -/

theorem weiGroups_one (hcur : (weirOf d w).cur = some c) (hnext : c.next = 0) (hsg : (wstFields c.ent).sg = 1)
    (hg : weiGroup d (jobOf d w c) = some (F, c3)) (hwait : (weirOf F w).waitAt = 0) :
    weiGroups w 1 d = setWeir F w { weirOf F w with cur := some c3 } := by
  have hj : ¬(jobOf d w c).e.sg ≤ c.next := by
    rw [show (jobOf d w c).e.sg = (wstFields c.ent).sg from rfl, hsg, hnext]
    decide
  rw [weiGroups]
  simp only [hcur, if_neg hj, hg, weirGo_of_not_waiting hwait]
  rfl

theorem weirOf_weiBegun (hw : w / 4 = hn half) (d : Dev) (c : WeiCmd) :
    (weirOf (weiBegun d w c) w).cur = some c ∧ (weirOf (weiBegun d w c) w).waitAt = 0 := by
  obtain ⟨_, _, ⟨r, s, hx⟩, _⟩ := weirGo_wei hw d
  rw [weiBegun, weirOf_setWeir_self, hx]
  exact ⟨rfl, rfl⟩

theorem leaves_weiBegun (hw : w / 4 = hn half) (d : Dev) (c : WeiCmd) :
    Leaves [.wei] (weiReports (hn half)) d (weiBegun d w c) ∧ (weiBegun d w c).mem = d.mem := by
  obtain ⟨hl, hm, _⟩ := weirGo_wei hw d
  exact ⟨(leaves_setWeir_iff (by simp) (weiReports_wsts hw)).2 hl, by rw [weiBegun, setWeir_mem, hm]⟩

theorem onlyWeir_weiBegun (hw : w / 4 = hn half) (hd : OnlyWeir w d) (c : WeiCmd) : OnlyWeir w (weiBegun d w c) :=
  (hd.weirGo hw).setWeir _

/-- What a begun command's one group leaves, when its work is `F`. -/
theorem weiGroups_begun (hw : w / 4 = hn half) (hd : OnlyWeir w d) (hnext : c.next = 0) (hsg : (wstFields c.ent).sg = 1)
    (hg : weiGroup (weiBegun d w c) (jobOf d w c) = some (F, c3)) (hF : F.wei = (weiBegun d w c).wei) :
    (weirOf (weiGroups w 1 (weiBegun d w c)) w).cur = some c3 ∧ OnlyWeir w (weiGroups w 1 (weiBegun d w c)) ∧
      (weiGroups w 1 (weiBegun d w c)).mem = F.mem ∧ Leaves [.wei] (weiReports (hn half)) F (weiGroups w 1 (weiBegun d w c)) := by
  obtain ⟨hcur, hwait⟩ := weirOf_weiBegun hw d c
  have hwF : weirOf F w = weirOf (weiBegun d w c) w := by rw [weirOf, hF, weirOf]
  rw [← jobOf_of_live ((leaves_weiBegun hw d c).1.1 .live (by simp))] at hg
  rw [weiGroups_one hcur hnext hsg hg (by rw [hwF, hwait])]
  exact ⟨by rw [weirOf_setWeir_self], ((onlyWeir_weiBegun hw hd c).of_wei hF).setWeir _, setWeir_mem .., 
    (leaves_setWeir_iff (by simp) (weiReports_wsts hw)).2 leaves_self⟩

/-! ### The group of an update -/

theorem weiReports_ent (hn' : n ≤ 2047) : weiReports (hn half) (A.EPH_ENT n) = false := by
  have hge : 0xA10000 ≤ A.EPH_ENT n := by simp [A.EPH_ENT]
  have hlt : A.EPH_ENT n < 0xA20000 := by simp only [A.EPH_ENT]; omega
  generalize A.EPH_ENT n = a at hge hlt
  rw [← Bool.not_eq_true]
  cases half <;>
    simp only [weiReports, jetReports, isReport, isCounter, these, hn, Bool.or_eq_true, Bool.and_eq_true, List.any_eq_true,
      List.contains_iff_mem, List.mem_cons, List.mem_range, decide_eq_true_eq, beq_iff_eq, A.CNT_CTL, A.GCNT_CTL, A.GLB_ERRSUM,
      A.HST_STS, A.HST_OVF, A.AST_PSN, A.AST_STS, A.WEI_STS, A.AST_BANK0, A.AST_BANK1, A.WEI_WSTS, List.not_mem_nil, or_false,
      exists_eq_or_imp] <;>
    rintro (((((⟨h, h'⟩ | h) | h) | h) | h) | ⟨k, h, h'⟩) <;> omega

/-- The count t of R302 of an update that is not sparse. -/
def WeiJob.count (j : WeiJob) : Nat := (j.c.pstep + 2 ^ 32 - j.e.torg + 1) % 2 ^ 32

theorem weiGroup_update (hclrm : j.clrm = false) (hspec : j.c.spec = false) (hsparse : j.e.sparse = false) (hnext : j.c.next = 0) :
    weiGroup d j = some ((weiWorkGroup d j j.g0 j.count none false).1,
      { (weiWorkGroup d j j.g0 j.count none false).2 with next := (weiWorkGroup d j j.g0 j.count none false).2.next + 1 }) := by
  have hlog : mustLog d j = false := by rw [mustLog, hspec, Bool.and_false, Bool.false_and, Bool.false_and]
  unfold weiGroup
  dsimp only
  rw [hclrm, hsparse, hlog, hnext]
  rfl

/-- An update of one group, from the package at which its command begins. -/
theorem weiBegun_update (hw : w / 4 = hn half) (hd : OnlyWeir w d) (hm : d.ms.marks = []) (hclrm : wcOp c.op.toNat ≠ 2)
    (hspec : c.spec = false) (hsparse : (wstFields c.ent).sparse = false) (hnext : c.next = 0) (hsg : (wstFields c.ent).sg = 1)
    (he : (wstFields c.ent).entry ≤ 2047) (hk : ∀ k, c.slot = some k → k / 8 = (wstFields c.ent).entry) :
    (∃ b, (weirOf (weiGroups w 1 (weiBegun d w c)) w).cur = some { c with nonfin := b, next := 1 }) ∧
      OnlyWeir w (weiGroups w 1 (weiBegun d w c)) ∧
      (weiGroups w 1 (weiBegun d w c)).mem = workMem d (jobOf d w c) (jobOf d w c).g0 (jobOf d w c).count ∧
      Leaves [.mem, .ms, .ast, .mach, .hst, .wei] (weiReports (hn half)) d (weiGroups w 1 (weiBegun d w c)) := by
  obtain ⟨hl, hmem⟩ := leaves_weiBegun hw d c
  have hmB : (weiBegun d w c).ms.marks = [] := by rw [hl.1 .ms (by simp), hm]
  have hg := weiGroup_update (d := weiBegun d w c) (j := jobOf d w c) (decide_eq_false hclrm) hspec hsparse hnext
  obtain ⟨hwl, b, hc3⟩ := weiWorkGroup_work (d := weiBegun d w c) (j := jobOf d w c) (G := (jobOf d w c).g0)
    (t := (jobOf d w c).count) (half := half) hmB hw
  have hwm := weiWorkGroup_mem (d := weiBegun d w c) (j := jobOf d w c) (G := (jobOf d w c).g0)
    (t := (jobOf d w c).count) (half := half) hmB hw he hk
  have hent : weiReports (hn half) (A.EPH_ENT (wstFields c.ent).entry) = false := weiReports_ent he
  have hagree : WorkAgrees (wstFields c.ent).entry d (weiBegun d w c) := workAgrees_of_leaves hl hmem (by simp) (by simp) hent
  rw [hagree.workMem rfl hk] at hwm
  rw [hc3] at hg
  obtain ⟨hcur, honly, hmemF, hlF⟩ := weiGroups_begun hw hd hnext hsg hg (hwl.1 .wei (by simp))
  refine ⟨⟨b, ?_⟩, honly, hmemF.trans hwm, ?_⟩
  · rw [hcur, show (jobOf d w c).c = c from rfl, hnext]
  · exact ((hl.weaken (by simp) fun _ => id).trans (hwl.weaken (by simp) fun _ => id)).trans (hlF.weaken (by simp) fun _ => id)

end

end Sys2Proof.Machine
end

section
/-! PROOFS. An update that nothing holds: what its command finds at its weir, and the package after its one group (09, R298,
R299, R304). -/

namespace Sys2Proof.Machine

section
variable {d d1 u e' : Dev} {j : WeiJob} {w k n e s : Nat} {c c2 c3 : WeiCmd} {words : List Nat} {half : Half}

theorem sameButWeir_weiTook (d : Dev) (h w : Nat) (c : WeiCmd) : SameButWeir w d (weiTook d h w c) :=
  ⟨leaves_weiTook d h w c, weiTook_mem d h w c, weiTook_verdict d h w c⟩

/-! ### The tests of a command do not turn on its weir -/

namespace SameButWeir

theorem stackCh (h : SameButWeir w d u) (s : Nat) : stackCh u s = stackCh d s :=
  h.fget (by simp only [A.STK_CAP, A.WEI_WSTS]; omega) _

theorem inStacks (h : SameButWeir w d u) (a n : Nat) : inStacks u a n = inStacks d a n := by
  simp only [Machine.inStacks, inStackByte, h.stackCh]

theorem inOwnStack (h : SameButWeir w d u) (v a n : Nat) : inOwnStack u v a n = inOwnStack d v a n := by
  rw [Machine.inOwnStack, h.stackCh, Machine.inOwnStack]

theorem slotBase (h : SameButWeir w d u) (hk : k / 8 ≤ 2047) : slotBase u k = slotBase d k := by
  rw [Machine.slotBase, h.fget (ent_ne hk), h.fget (ent_ne hk), Machine.slotBase]

theorem weiAddrBad (h : SameButWeir w d u) (hk : k / 8 ≤ 2047) (j : WeiJob) : weiAddrBad u j k = weiAddrBad d j k := by
  have hgroup : weiGroupBad u j k = weiGroupBad d j k := by
    funext G
    simp only [weiGroupBad, rowBits, h.mem, h.inOwnStack, h.inStacks, h.slotBase hk]
    rfl
  rw [Machine.weiAddrBad, hgroup, Machine.weiAddrBad]

theorem wstWords (h : SameButWeir w d u) (b n : Nat) : wstWords u b n = wstWords d b n := by
  rw [Machine.wstWords, halfTables, h.leaves.1 .tables (by decide), Machine.wstWords, halfTables]

theorem jobOf (h : SameButWeir w d u) (v : Nat) (c : WeiCmd) : jobOf u v c = jobOf d v c :=
  jobOf_of_live (h.leaves.1 .live (by decide)) v c

end SameButWeir

/-- A granted slot is one of its entry. -/
theorem ephRequest_slot (h : ephRequest d e s = .ok (d1, some k)) : k / 8 = e := by
  have hmem (hk : k ∈ entrySlots e) : k / 8 = e := by
    have := List.mem_range'_1.1 (show k ∈ List.range' (8 * e) 8 from hk)
    omega
  obtain ⟨r, hr, ha⟩ := Option.map_eq_some_iff.1 (ephRequest_ok_iff.1 h)
  have hrk : ∃ b, r = some (k, b) := by
    match r with
    | none => cases ha
    | some (k', true) => cases ha; exact ⟨_, rfl⟩
    | some (k', false) => cases ha; exact ⟨_, rfl⟩
  obtain ⟨b, rfl⟩ := hrk
  unfold ephChoice at hr
  dsimp only at hr
  split at hr
  · cases hr
  split at hr
  · cases hr
  split at hr
  · cases hr
  split at hr
  · cases hr
  split at hr
  next hf =>
    cases hr
    exact hmem (List.mem_filter.1 (List.mem_of_find?_eq_some hf)).1
  split at hr
  · cases hr
  split at hr
  · obtain ⟨x, hf, hx⟩ := Option.map_eq_some_iff.1 (Option.some.inj hr)
    cases hx
    exact hmem (List.mem_of_find?_eq_some hf)
  · cases hr

theorem wst_entry_le (l : List Nat) : (wstFields l).entry ≤ 2047 := by
  have : bits (l.getD 4 0) 10 0 < 2 ^ 11 := Nat.mod_lt _ (by decide)
  exact Nat.le_of_lt_succ this

theorem wstWords_ne_nil {b : Nat} (h : wstWords d b n = some words) : words ≠ [] := by
  unfold wstWords at h
  dsimp only at h
  split at h
  next hlt =>
    cases h
    intro hnil
    have := congrArg List.length hnil
    simp only [List.length_take, List.length_drop, List.length_nil] at this
    omega
  next => cases h

/-! ### A command of one group, from its issue -/

/-- A command at its issue reaches weir `w`, which is free to begin it with the entry `words` of its half's table. -/
structure Reaches (d : Dev) (half : Half) (w : Nat) (c : WeiCmd) (words : List Nat) : Prop where
  idle : weiIdle d
  weir : 4 * hn half + wcWeir c.op.toNat = w
  runs : stOf d (A.WEI_STS (hn half)) = 1
  free : snapHolds d c.step = false
  ent : c.ent = []
  next : c.next = 0
  slot : c.slot = none
  sel : selDefined (wcSel c.op.toNat) = true
  words : wstWords d (hn half) (wcDesc c.op.toNat) = some words

namespace Reaches

theorem ofHalf (h : Reaches d half w c words) : w / 4 = hn half := by
  have hlt : wcWeir c.op.toNat < 4 := Nat.mod_lt _ (by decide)
  have := h.weir
  omega

theorem lt (h : Reaches d half w c words) : w < 8 := by
  have := h.ofHalf
  have := hn_lt_two half
  omega

theorem took_words (h : Reaches d half w c words) :
    wstWords (weiTook d (hn half) w c) (w / 4) (wcDesc c.op.toNat) = some words := by
  rw [h.ofHalf, (sameButWeir_weiTook ..).wstWords, h.words]

/-- The command ends where its begin and its group take it. -/
theorem done (h : Reaches d half w c words) (hbegin : weiBegin (weiTook d (hn half) w c) w c = e')
    (hcur : (weirOf e' w).cur = some c3) (hent : c3.ent = words) (hsg : (wstFields words).sg ≤ c3.next) (honly : OnlyWeir w e') :
    weiRun (weiJoined d (hn half) w c) = e' :=
  weiRun_done h.idle h.weir h.lt h.runs h.free h.ent hbegin hcur (hent ▸ wstWords_ne_nil h.words) (hent ▸ hsg) honly

end Reaches

theorem these_of_weiReports (hw : w / 4 = hn half) {a : Nat} (ha : weiReports (hn half) a = false) :
    these [A.WEI_WSTS (w / 4) (w % 4)] a = false :=
  these_apart fun h => by
    rw [h, weiReports_wsts hw] at ha
    cases ha

section
variable (h : Reaches d half w c words) (hop : wcOp c.op.toNat = 1) (hspec : c.spec = false) (hsg : (wstFields words).sg = 1)
  (hsparse : (wstFields words).sparse = false) (hm : d.ms.marks = [])
include h hop hspec hsg hsparse hm

/-- An update whose command begins on `d1`, with `c2` as its command. -/
theorem weiRun_update (hc2 : c2 = { c with ent := words, slot := c2.slot })
    (hbegin : weiBegin (weiTook d (hn half) w c) w c = weiGroups w (wstFields words).sg (weiBegun u w c2))
    (hsame : SameButWeir w d1 u) (honly : OnlyWeir w u) (hms : d1.ms = d.ms)
    (hk : ∀ k, c2.slot = some k → k / 8 = (wstFields words).entry) :
    ∃ f b, weiRun (weiJoined d (hn half) w c) = f ∧ (weirOf f w).cur = some { c2 with nonfin := b, next := 1 } ∧
      f.mem = workMem d1 (jobOf d1 w c2) (jobOf d1 w c2).g0 (jobOf d1 w c2).count ∧
      Leaves [.mem, .ms, .ast, .mach, .hst, .wei, .gov] (weiReports (hn half)) d1 f := by
  have hent2 : c2.ent = words := by rw [hc2]
  have hop2 : wcOp c2.op.toNat ≠ 2 := by rw [hc2, hop]; decide
  have hspec2 : c2.spec = false := by rw [hc2]; exact hspec
  have hnext2 : c2.next = 0 := by rw [hc2]; exact h.next
  have hmu : u.ms.marks = [] := by rw [hsame.leaves.1 .ms (by decide), hms, hm]
  obtain ⟨⟨b, hcur⟩, hdone, hmem, hl⟩ := weiBegun_update (c := c2) (d := u) h.ofHalf honly hmu hop2 hspec2 (hent2 ▸ hsparse) hnext2
    (hent2 ▸ hsg) (wst_entry_le _) (hent2 ▸ hk)
  rw [hsg] at hbegin
  have hends := h.done hbegin hcur hent2 (by rw [hsg]) hdone
  have hagree : WorkAgrees (wstFields words).entry d1 u := workAgrees_of_leaves hsame.leaves hsame.mem (by decide) (by decide)
    (these_apart (SameButWeir.ent_ne (wst_entry_le _)))
  rw [hsame.jobOf, hagree.workMem (by rw [← hent2]; rfl) hk] at hmem
  exact ⟨_, b, hends, hcur, hmem, (hsame.leaves.weaken (by simp) fun _ => these_of_weiReports h.ofHalf).trans (hl.weaken (by simp) fun _ => id)⟩

/-- An update of a layout without a narrow copy. -/
theorem weiRun_update_plain (hnarrow : (jobOf d w { c with ent := words }).narrow = false)
    (henc : weiEncBad (jobOf d w { c with ent := words }) = false)
    (haddr : weiAddrBad d (jobOf d w { c with ent := words }) 0 = none) :
    ∃ f b, weiRun (weiJoined d (hn half) w c) = f ∧ (weirOf f w).cur = some { c with ent := words, nonfin := b, next := 1 } ∧
      f.mem = workMem d (jobOf d w { c with ent := words }) (jobOf d w { c with ent := words }).g0
        (jobOf d w { c with ent := words }).count ∧
      Leaves [.mem, .ms, .ast, .mach, .hst, .wei, .gov] (weiReports (hn half)) d f := by
  have hsame := sameButWeir_weiTook d (hn half) w c
  refine weiRun_update (c2 := { c with ent := words }) h hop hspec hsg hsparse hm
    rfl (weiBegin_plain (.inl hop) h.sel ?_ ?_ ?_ ?_) hsame (onlyWeir_weiTook h.idle half) rfl ?_
  · exact h.took_words
  · rw [hsame.jobOf, hnarrow]
  · rw [hsame.jobOf, henc]
  · rw [hsame.jobOf, hsame.weiAddrBad (by decide), haddr]
  · intro k hk
    rw [show ({ c with ent := words } : WeiCmd).slot = c.slot from rfl, h.slot] at hk
    cases hk

/-- An update that the ephemeris grants a build slot. -/
theorem weiRun_update_slot (hnarrow : (jobOf d w { c with ent := words }).narrow = true)
    (heph : ephRequest d (wstFields words).entry c.pstep = .ok (d1, some k))
    (henc : weiEncBad (jobOf d w { c with ent := words }) = false)
    (haddr : weiAddrBad d1 (jobOf d w { c with ent := words }) k = none) :
    ∃ f b, weiRun (weiJoined d (hn half) w c) = f ∧
      (weirOf f w).cur = some { c with ent := words, slot := some k, nonfin := b, next := 1 } ∧
      f.mem = workMem d1 (jobOf d w { c with ent := words, slot := some k }) (jobOf d w { c with ent := words }).g0
        (jobOf d w { c with ent := words }).count ∧
      Leaves [.mem, .ms, .ast, .mach, .hst, .wei, .gov] (weiReports (hn half)) d1 f := by
  have hsame := sameButWeir_weiTook d (hn half) w c
  obtain ⟨u, hu, hsame1⟩ := hsame.ephRequest h.lt heph
  have hlu := leaves_ephRequest hu
  have hld := leaves_ephRequest heph
  have hjob1 (c3) : jobOf d1 w c3 = jobOf d w c3 := jobOf_of_live (hld.1 .live (by simp)) w c3
  have hslot := ephRequest_slot heph
  have hrun := weiRun_update (c2 := { c with ent := words, slot := some k }) h hop
    hspec hsg hsparse hm rfl (weiBegin_slot (.inl hop) h.sel ?_ ?_ hu ?_ ?_) hsame1
    ((onlyWeir_weiTook h.idle half).of_wei (hlu.1 .wei (by simp))) (hld.1 .ms (by simp)) ?_
  · rw [hjob1] at hrun
    exact hrun
  · exact h.took_words
  · rw [hsame.jobOf, hnarrow]
  · rw [hsame1.jobOf, hjob1]
    exact henc
  · rw [hsame1.jobOf, hjob1, hsame1.weiAddrBad (hslot ▸ wst_entry_le words)]
    exact haddr
  · rintro _ ⟨⟩
    exact hslot

end

end

end Sys2Proof.Machine
end

section
/-! PROOFS. An update without a slot waits at its weir, and a CLRM clears its group (09, R304, R310). -/

namespace Sys2Proof.Machine

section
variable {d d1 u e f : Dev} {j : WeiJob} {w k n a b : Nat} {c c3 : WeiCmd} {words : List Nat} {half : Half} {m : List Host.Cell}

/-! ### A weir waits for a slot -/

theorem weirWait_slot (d : Dev) (w : Nat) (c : WeiCmd) : weirWait d w c false =
    setWeir d w { weirOf d w with cur := some c, waitAt := if (weirOf d w).waitAt = 0 then d.now + 1 else (weirOf d w).waitAt,
                                  waitRing := false } := rfl

theorem SameButWeir.setWeir (h : SameButWeir w d u) (x : Weir) : SameButWeir w d (setWeir u w x) :=
  ⟨(leaves_setWeir_iff (by simp) (by simp)).2 h.leaves, by rw [setWeir_mem, h.mem], by rw [setWeir_wei]; exact h.verdict⟩

/-- The weir `w` waits with the command `c` since the time of `d`. -/
structure WaitsFrom (d : Dev) (w : Nat) (c : WeiCmd) (e : Dev) : Prop where
  only : OnlyWeir w e
  same : SameButWeir w d e
  cur : (weirOf e w).cur = some c
  since : (weirOf e w).waitAt = d.now + 1

section
variable (h : Reaches d half w c words) (hop : wcOp c.op.toNat = 1)
  (hnarrow : (jobOf d w { c with ent := words }).narrow = true)
  (heph : ephRequest d (wstFields words).entry c.pstep = .ok (d, none))
include h hop hnarrow heph

/-- A weir that finds no slot waits, since now or as long as it did. -/
theorem weiBegin_without_slot (hu : SameButWeir w d u) :
    weiBegin u w c = setWeir u w { weirOf u w with
      cur := some c, waitAt := if (weirOf u w).waitAt = 0 then u.now + 1 else (weirOf u w).waitAt, waitRing := false } := by
  have hc : { c with ent := [] } = c := by rw [← h.ent]
  rw [weiBegin_waits (.inl hop) h.sel (by rw [h.ofHalf, hu.wstWords, h.words]) (by rw [hu.jobOf, hnarrow])
    (hu.ephRequest_none h.lt heph), hc, weirWait_slot]

theorem WaitsFrom.pump (he : WaitsFrom d w c e) (n : Nat) : WaitsFrom d w c (weirPump w (n + 1) e) := by
  have hb := weiBegin_without_slot h hop hnarrow heph he.same
  rw [he.since, if_neg (Nat.succ_ne_zero _)] at hb
  rw [weirPump_begins he.cur h.ent (by rw [hb, weirOf_setWeir_self]; rfl), hb]
  exact ⟨he.only.setWeir _, he.same.setWeir _, by rw [weirOf_setWeir_self], by rw [weirOf_setWeir_self]⟩

theorem weiRun_update_waits (hwait : (weirOf d w).waitAt = 0) : WaitsFrom d w c (weiRun (weiJoined d (hn half) w c)) := by
  have hsame := sameButWeir_weiTook d (hn half) w c
  have hb := weiBegin_without_slot h hop hnarrow heph hsame
  have hnow : (weiTook d (hn half) w c).now = d.now := (hsame.leaves.1 .clock (by decide)).1
  rw [show (weirOf (weiTook d (hn half) w c) w).waitAt = 0 by rw [weirOf_weiTook]; exact hwait, if_pos rfl, hnow] at hb
  refine weiRun_joined (P := WaitsFrom d w c) h.idle h.weir h.lt h.runs h.free (fun e he => ⟨he.only, he.pump h hop hnarrow heph⟩) ?_
  rw [weirPump_begins (by rw [weirOf_weiTook]) h.ent (by rw [hb, weirOf_setWeir_self]; rfl), hb]
  exact ⟨(onlyWeir_weiTook h.idle half).setWeir _, hsame.setWeir _, by rw [weirOf_setWeir_self], by rw [weirOf_setWeir_self]⟩

end

/-! ### What a CLRM stores -/

theorem memRead_eq_replicate {v : Byte} (h : ∀ i, i < n → memGet m (a + i) = v) : memRead m a n = List.replicate n v := by
  induction n generalizing a with
  | zero => rfl
  | succ n ih =>
    rw [memRead, List.replicate_succ, ih fun i hi => by
      have := h (i + 1) (by omega)
      rwa [show a + 1 + i = a + (i + 1) by omega], show memGet m a = v from h 0 (by omega)]

/-- Memory with the gradients of a row zero and its TOUCHED bit in the map word at `b` cleared. -/
def clearedMem (m : List Host.Cell) (a n b r : Nat) : List Host.Cell :=
  memWrite (memWrite m a (List.replicate n 0)) b
    (leBytes 8 (putBits (memNat (memWrite m a (List.replicate n 0)) b 8) (2 * r) (2 * r) 0))

theorem clearedMem_frame {r x : Nat} (hx : x < a ∨ a + n ≤ x) (hx' : x < b ∨ b + 8 ≤ x) :
    memGet (clearedMem m a n b r) x = memGet m x := by
  rw [clearedMem, memGet_memWrite_out _ _ _ _ (by rw [leBytes_length]; exact hx'),
    memGet_memWrite_out _ _ _ _ (by rw [List.length_replicate]; exact hx)]

theorem memGet_zeros {i : Nat} (hi : i < n) : memGet (memWrite m a (List.replicate n 0)) (a + i) = 0 := by
  rw [memGet_memWrite_in _ _ _ _ (by rw [List.length_replicate]; exact hi), List.getElem_replicate]

/-- The gradients are zero: a map word among them was zero before its bit was cleared. -/
theorem clearedMem_zeros {r : Nat} (ha : a % 8 = 0) (hn : n % 8 = 0) (hb : b % 8 = 0) :
    memRead (clearedMem m a n b r) a n = List.replicate n 0 := by
  refine memRead_eq_replicate fun i hi => ?_
  by_cases hin : a + i < b ∨ b + 8 ≤ a + i
  · rw [clearedMem, memGet_memWrite_out _ _ _ _ (by rw [leBytes_length]; exact hin), memGet_zeros hi]
  · have hword : memRead (memWrite m a (List.replicate n 0)) b 8 = List.replicate 8 0 := memRead_eq_replicate fun k hk => by
      rw [show b + k = a + (b + k - a) by omega]
      exact memGet_zeros (by omega)
    have hzero : leBytes 8 (putBits (memNat (memWrite m a (List.replicate n 0)) b 8) (2 * r) (2 * r) 0) = List.replicate 8 0 := by
      rw [memNat, hword]
      have hput : putBits (leNat (List.replicate 8 0)) (2 * r) (2 * r) 0 = 0 := by
        simp [putBits, bits, leNat]
      rw [hput]
      rfl
    rw [clearedMem, hzero, show a + i = b + (a + i - b) by omega]
    exact memGet_zeros (by omega)

theorem clearedMem_touched {r : Nat} :
    (bits (memNat (clearedMem m a n b r) b 8) (2 * r + 1) (2 * r)).testBit 0 = false := by
  have hword (x : Nat) : memRead (memWrite (memWrite m a (List.replicate n 0)) b (leBytes 8 x)) b 8 = leBytes 8 x := by
    have := memRead_memWrite (memWrite m a (List.replicate n 0)) b (leBytes 8 x)
    rwa [leBytes_length] at this
  rw [memNat, clearedMem, hword, leNat_leBytes, bits, Nat.testBit_mod_two_pow, Nat.testBit_shiftRight,
    show (256 : Nat) ^ 8 = 2 ^ 64 from rfl, Nat.testBit_mod_two_pow, testBit_putBits _ _ _ _ _ (by omega)]
  simp

end

end Sys2Proof.Machine
end

section
/-! PROOFS. A CLRM from its issue to its end, and the records that an update stores (09, R299, R310). -/

namespace Sys2Proof.Machine

section
variable {d d1 u e f : Dev} {j : WeiJob} {w k n a b G t : Nat} {c c3 : WeiCmd} {words : List Nat} {half : Half}
  {m : List Host.Cell}

/-! ### A CLRM -/

/-- The address of a group's gradients. -/
def WeiJob.gradsAt (j : WeiJob) (G : Nat) : Nat := j.e.gbase + G * 256 * j.gb

theorem clrmGroup_touched (hrowg : j.e.rowg = 1) (ht : (rowBits d j.e G).testBit 0 = true)
    (hwin : inWindow (j.gradsAt G) 1 = false) :
    Leaves [.mem, .ms] isCounter d (clrmGroup d j G) ∧
      (clrmGroup d j G).mem = clearedMem d.mem (j.gradsAt G) (256 * j.gb) (j.e.mbase + 8 * (G / 32)) (G % 32) := by
  have hfirst : G % 1 = 0 ∧ (rowBits d j.e G).testBit 0 = true := ⟨Nat.mod_one G, ht⟩
  rw [WeiJob.gradsAt] at *
  unfold clrmGroup
  simp only [hrowg, Nat.div_one, if_pos hfirst, localWrite, hwin, Bool.false_eq_true, if_false, Nat.one_mul]
  exact ⟨(leaves_ctlWrite ..).trans (leaves_ctlWrite ..), by rw [ctlWrite_mem, ctlWrite_mem]; rfl⟩

/-- The addresses of an entry that passes the tests of a CLRM. -/
theorem weiAddrBad_none_aligned (hs : j.e.sparse = true) (h : weiAddrBad d j k = none) : j.e.gbase % 64 = 0 ∧ j.e.mbase % 8 = 0 := by
  unfold weiAddrBad at h
  dsimp only at h
  split at h
  · cases h
  split at h
  · cases h
  next hg =>
    split at h
    · cases h
    split at h
    · cases h
    next hm =>
      rw [hs, Bool.true_and, decide_eq_true_eq] at hm
      omega

theorem sparse_of_clrm (hc : j.clrm = true) (h : weiEncBad j = false) : j.e.sparse = true := by
  unfold weiEncBad at h
  rw [hc, Bool.true_and, Bool.or_eq_false_iff] at h
  simpa using h.2

/-- A CLRM whose row has been touched. -/
theorem weiRun_clear (h : Reaches d half w c words) (hop : wcOp c.op.toNat = 2) (hsg : (wstFields words).sg = 1)
    (hj : jobOf d w { c with ent := words } = j) (henc : weiEncBad j = false) (haddr : weiAddrBad d j 0 = none)
    (hrowg : j.e.rowg = 1) (ht : (rowBits d j.e j.g0).testBit 0 = true) (hwin : inWindow (j.gradsAt j.g0) 1 = false) :
    Leaves [.mem, .ms, .wei, .gov] (weiReports (hn half)) d (weiRun (weiJoined d (hn half) w c)) ∧
      (weiRun (weiJoined d (hn half) w c)).mem =
        clearedMem d.mem (j.gradsAt j.g0) (256 * j.gb) (j.e.mbase + 8 * (j.g0 / 32)) (j.g0 % 32) := by
  have hsame := sameButWeir_weiTook d (hn half) w c
  have hclrm : j.clrm = true := by
    rw [← hj]
    exact decide_eq_true hop
  have hjT : jobOf (weiTook d (hn half) w c) w { c with ent := words } = j := by rw [hsame.jobOf, hj]
  have hnarrow : j.narrow = false := by rw [WeiJob.narrow, hclrm]; rfl
  have hbegin := weiBegin_plain (.inr hop) h.sel h.took_words (hjT ▸ hnarrow) (hjT ▸ henc)
    (by rw [hjT, hsame.weiAddrBad (by decide)]; exact haddr)
  rw [hsg] at hbegin
  obtain ⟨hlB, hmB⟩ := leaves_weiBegun h.ofHalf (weiTook d (hn half) w c) { c with ent := words }
  have htB : (rowBits (weiBegun (weiTook d (hn half) w c) w { c with ent := words }) j.e j.g0).testBit 0 = true := by
    rw [rowBits, hmB, hsame.mem]
    exact ht
  obtain ⟨hlF, hmF⟩ := clrmGroup_touched hrowg htB hwin
  have hg : weiGroup (weiBegun (weiTook d (hn half) w c) w { c with ent := words })
      (jobOf (weiTook d (hn half) w c) w { c with ent := words }) =
      some (clrmGroup (weiBegun (weiTook d (hn half) w c) w { c with ent := words }) j j.g0,
        { c with ent := words, next := 0 + 1 }) := by
    have hjc : j.c = { c with ent := words } := by rw [← hj]; rfl
    have hjn : j.c.next = 0 := by rw [hjc]; exact h.next
    rw [hjT]
    unfold weiGroup
    dsimp only
    rw [hclrm, hjn, hjc]
    rfl
  obtain ⟨hcur, honly, hmem, hl⟩ := weiGroups_begun (c := { c with ent := words }) h.ofHalf (onlyWeir_weiTook h.idle half) h.next hsg hg (hlF.1 .wei (by simp))
  rw [h.done hbegin hcur rfl (by rw [hsg]) honly]
  refine ⟨?_, by rw [hmem, hmF, hmB, hsame.mem]⟩
  exact (((hsame.leaves.weaken (by simp) fun _ => these_of_weiReports h.ofHalf).trans (hlB.weaken (by simp) fun _ => id)).trans
    (hlF.weaken (by simp) fun _ => isCounter_of_weiReports)).trans (hl.weaken (by simp) fun _ => id)

/-! ### The records of a group in STAT layout -/

theorem memRead_getElem {i : Nat} (hi : i < (memRead m a n).length) : (memRead m a n)[i] = memGet m (a + i) := by
  induction n generalizing a i with
  | zero => simp [memRead] at hi
  | succ n ih =>
    cases i with
    | zero => rfl
    | succ i =>
      simp only [memRead, List.getElem_cons_succ]
      rw [ih, show a + 1 + i = a + (i + 1) by omega]

theorem memRead_memWrite_part {bs : List Byte} (h : b + n ≤ bs.length) : memRead (memWrite m a bs) (a + b) n = (bs.drop b).take n := by
  refine List.ext_getElem (by simp; omega) fun i hi hi' => ?_
  rw [memRead_length] at hi
  rw [memRead_getElem, Nat.add_assoc, memGet_memWrite_in _ _ _ _ (by omega), List.getElem_take, List.getElem_drop]

/-- Pieces of one length, one after the other. -/
theorem flatten_piece {l : List (List Byte)} (hl : ∀ x ∈ l, x.length = k) {i : Nat} (hi : i < l.length) :
    (l.flatten.drop (k * i)).take k = l[i] := by
  induction l generalizing i with
  | nil => simp at hi
  | cons x l ih =>
    have hx : x.length = k := hl x (by simp)
    cases i with
    | zero => rw [List.flatten_cons, Nat.mul_zero, List.drop_zero, ← hx, List.take_left, List.getElem_cons_zero]
    | succ i =>
      rw [List.flatten_cons, Nat.mul_succ, Nat.add_comm, ← List.drop_drop, List.drop_left' hx, List.getElem_cons_succ]
      exact ih (fun y hy => hl y (by simp [hy])) (by simpa using hi)

/-- The bytes of an element's record in STAT layout. -/
def statOut (m : List Host.Cell) (a : Nat) (x : ElemOut) (i : Nat) : List Byte :=
  if x.kept then memRead m (a + 4 * i) 4 else leBytes 4 (enc32 x.new.s1)

theorem statOut_length (m : List Host.Cell) (a : Nat) (x : ElemOut) (i : Nat) : (statOut m a x i).length = 4 := by
  unfold statOut
  split
  · exact memRead_length ..
  · exact leBytes_length ..

theorem recordsAt_stat (hl : j.r.layout = 1) : j.recordsAt G = j.e.rbase + G * 1024 := by
  rw [WeiJob.recordsAt, hl]
  exact congrArg _ (Nat.mul_assoc ..)

theorem weiOut_stat (hl : j.r.layout = 1) (xs : List ElemOut) :
    weiOut m j G xs = (xs.zipIdx.map fun p => statOut m (j.e.rbase + G * 1024) p.1 p.2).flatten := by
  rw [weiOut, recordsAt_stat hl, hl]
  rfl

theorem weiOut_length (hl : j.r.layout = 1) (xs : List ElemOut) : (weiOut m j G xs).length = 4 * xs.length := by
  have hlen : (List.map List.length (xs.zipIdx.map fun p => statOut m (j.e.rbase + G * 1024) p.1 p.2)) = List.replicate xs.length 4 := by
    rw [List.map_map, List.eq_replicate_iff]
    refine ⟨by simp, fun b hb => ?_⟩
    obtain ⟨p, -, rfl⟩ := List.mem_map.1 hb
    exact statOut_length ..
  rw [weiOut_stat hl, List.length_flatten, hlen, List.sum_replicate, smul_eq_mul, Nat.mul_comm]

theorem weiElems_length (d : Dev) (j : WeiJob) (G t : Nat) : (weiElems d j G t).length = 256 := by
  simp [weiElems]

/-- What stands at a record of a group in STAT layout after its work. -/
theorem storedMem_record (hl : j.r.layout = 1) {i : Nat} (hi : i < (weiElems d j G t).length) :
    memRead (storedMem d j G t) (j.e.rbase + G * 1024 + 4 * i) 4 =
      statOut d.mem (j.e.rbase + G * 1024) (weiElems d j G t)[i] i := by
  rw [storedMem, if_neg (by rw [hl]; decide), recordsAt_stat hl, memRead_memWrite_part (by rw [weiOut_length hl]; omega), weiOut_stat hl,
    flatten_piece (i := i) ?_ (by simpa using hi)]
  · simp
  · intro x hx
    obtain ⟨p, -, rfl⟩ := List.mem_map.1 hx
    exact statOut_length ..

theorem storedMem_frame (hl : j.r.layout = 1) (hx : a < j.e.rbase + G * 1024 ∨ j.e.rbase + G * 1024 + 1024 ≤ a) :
    memGet (storedMem d j G t) a = memGet d.mem a := by
  rw [storedMem, if_neg (by rw [hl]; decide), recordsAt_stat hl, memGet_memWrite_out]
  rw [weiOut_length hl, weiElems_length]
  exact hx

end

end Sys2Proof.Machine
end

section
/-! PROOFS. A half whose weirs do not run, and O36 (09, R325, R329, R332). -/

namespace Sys2Proof.Machine

section
variable {d e f X : Dev} {w n : Nat} {c : WeiCmd} {half : Half}

theorem round_idle (hw : ∀ v, v < 8 → (weirOf d v).cur = none ∧ (weirOf d v).queue = []) (l : List Nat) (hl : ∀ v ∈ l, v < 8) :
    l.foldl (fun d v => weirPump v (2 * (weirOf d v).queue.length + 2) d) d = d := by
  induction l with
  | nil => rfl
  | cons v l ih =>
    obtain ⟨hc, hq⟩ := hw v (hl v (by simp))
    rw [List.foldl_cons, weirPump_idle hc hq]
    exact ih fun u hu => hl u (by simp [hu])

theorem round_range (hw : ∀ v, v < 8 → (weirOf d v).cur = none ∧ (weirOf d v).queue = []) :
    (List.range 8).foldl (fun d v => weirPump v (2 * (weirOf d v).queue.length + 2) d) d = d :=
  round_idle hw _ fun _ hv => List.mem_range.1 hv

theorem weirs_weiJoined (d : Dev) (h w : Nat) (c : WeiCmd) : (weiJoined d h w c).wei.weirs = d.wei.weirs := by
  rw [weiJoined, setWeiQueue_wei]
  rfl

/-! ### A half that drains keeps the command in its queue -/

theorem weiRun_draining (hidle : weiIdle d) (hst : stOf d (A.WEI_STS (hn half)) = 2) :
    weiRun (weiJoined d (hn half) w c) = weiJoined d (hn half) w c := by
  have hkept : weiDispatch (hn half) 1 (weiJoined d (hn half) w c) = weiJoined d (hn half) w c := by
    simp only [weiDispatch, weiQueue_weiJoined_self, stOf_weiJoined, if_pos hst]
  have hweirs : ∀ v, v < 8 → (weirOf (weiJoined d (hn half) w c) v).cur = none ∧ (weirOf (weiJoined d (hn half) w c) v).queue = [] :=
    fun v hv => by rw [weirOf_weiJoined]; exact hidle.2.2 v hv
  rw [weiRun]
  generalize (weiQueue (weiJoined d (hn half) w c) 0).length + (weiQueue (weiJoined d (hn half) w c) 1).length + 2 = n
  induction n with
  | zero => rfl
  | succ n ih => rw [weiPump, dispatch_joined hidle, hkept, round_range hweirs, ih]

/-! ### A half that is stopped refuses the command -/

theorem keepsRegs_chipFatal (d : Dev) : keepsRegs isStop d (chipFatal d) := by
  unfold chipFatal
  extract_lets e
  have he : keepsRegs isStop d e := keepsRegs_of_regs (by
    simp only [e]
    split
    · rw [raiseAbort_regs]
    · rfl)
  by_cases hrun : seqState e = 1
  · exact he.trans (seqSelfStop_stops hrun).2.2.2.2.2
  · rw [seqSelfStop, if_neg hrun]
    exact he

/-- The package with the command discarded by its half. -/
def weiRefused (d : Dev) (h w : Nat) (c : WeiCmd) : Dev :=
  weiNote (weiNote (setWeiQueue (weiJoined d h w c) h []) w 1 1) w 3 1

theorem weirs_weiRefused (d : Dev) (h w : Nat) (c : WeiCmd) : (weiRefused d h w c).wei.weirs = d.wei.weirs := by
  change (setWeiQueue (weiJoined d h w c) h []).wei.weirs = _
  rw [setWeiQueue_wei]
  exact weirs_weiJoined ..

theorem counts_weiRefused (d : Dev) (h w : Nat) (c : WeiCmd) :
    sget 0 (8 * w + 3) (weiRefused d h w c).wei.counts = sget 0 (8 * w + 3) d.wei.counts + 1 := by
  have hcounts : (setWeiQueue (weiJoined d h w c) h []).wei.counts = (weiCounted d w).wei.counts := by
    rw [setWeiQueue_wei, weiJoined, setWeiQueue_wei]
  simp only [weiRefused, weiNote, withWei_wei, sget_sset_self, hcounts, weiCounted,
    sget_sset_ne 0 (show 8 * w + 3 ≠ 8 * w + 1 by omega), sget_sset_ne 0 (show 8 * w + 3 ≠ 8 * w + 0 by omega)]

theorem weiIdle_weiRefused (hidle : weiIdle d) (half : Half) : weiIdle (weiRefused d (hn half) w c) := by
  have hq : ∀ j, j < 2 → weiQueue (weiRefused d (hn half) w c) j = [] := fun j hj => by
    rw [weiRefused, weiQueue_weiNote, weiQueue_weiNote]
    by_cases hjh : j = hn half
    · rw [hjh, weiQueue_setWeiQueue_self]
    · rw [weiQueue_setWeiQueue_ne hjh, weiQueue_weiJoined_ne hjh]
      obtain rfl | rfl : j = 0 ∨ j = 1 := by omega
      · exact hidle.1
      · exact hidle.2.1
  refine ⟨hq 0 (by decide), hq 1 (by decide), fun v hv => ?_⟩
  rw [weirOf, weirs_weiRefused]
  exact hidle.2.2 v hv

theorem weiCmdRaise_fatal (d : Dev) (w : Nat) (c : WeiCmd) (detail : Nat) : ∃ payload, weiCmdRaise d w c 0x82 detail =
    consequence (post (fset (fset d (A.WEI_STS (w / 4)) F.WEI_STS_EXC 0x82) (A.WEI_STS (w / 4)) F.WEI_STS_WEIR (w % 4)) 0x82 3 5
      payload) 3 := by
  unfold weiCmdRaise weiRaise
  rw [show weiSev 0x82 = 3 from rfl]
  exact ⟨_, rfl⟩

theorem weiCmdRaise_fatal_leaves (hw : w / 4 = hn half) (d : Dev) (c : WeiCmd) (detail : Nat) :
    (weiCmdRaise d w c 0x82 detail).mem = d.mem ∧ (weiCmdRaise d w c 0x82 detail).wei = d.wei ∧
      fget (weiCmdRaise d w c 0x82 detail) (A.WEI_STS (hn half)) F.WEI_STS_EXC = 0x82 := by
  obtain ⟨payload, h⟩ := weiCmdRaise_fatal d w c detail
  have hstop : isStop (A.WEI_STS (hn half)) = false := by cases half <;> decide
  have hrep : isReport (A.WEI_STS (hn half)) = false := by cases half <;> decide
  rw [h, hw]
  refine ⟨by rw [consequence_mem, post_mem, fset_mem, fset_mem], by rw [consequence_wei, post_wei, fset_wei, fset_wei], ?_⟩
  rw [consequence, (keepsRegs_chipFatal _).fget hstop, (onlyHst_post ..).leaves.2.fget hrep,
    fget_fset_apart _ _ _ _ _ _ (by decide) (by decide) (by decide), fget_fset_self _ _ _ _ (by decide)]
  rfl

theorem weiRun_stopped (hidle : weiIdle d) (hw : 4 * hn half + wcWeir c.op.toNat = w) (hst : stOf d (A.WEI_STS (hn half)) = 0) :
    weiRun (weiJoined d (hn half) w c) =
      weiCmdRaise (weiRefused d (hn half) w c) w c 0x82 (weiDetail c) := by
  have hwh : w / 4 = hn half := by
    have hlt : wcWeir c.op.toNat < 4 := Nat.mod_lt _ (by decide)
    omega
  have hraise : (weiCmdRaise (weiRefused d (hn half) w c) w c 0x82 (weiDetail c)).wei = (weiRefused d (hn half) w c).wei :=
    (weiCmdRaise_fatal_leaves (half := half) hwh ..).2.1
  have hdispatch : weiDispatch (hn half) 1 (weiJoined d (hn half) w c) =
      weiCmdRaise (weiRefused d (hn half) w c) w c 0x82 (weiDetail c) := by
    simp only [weiDispatch, weiQueue_weiJoined_self, stOf_weiJoined, hst, hw]
    rfl
  have hidle' := weiIdle_of_wei hraise (weiIdle_weiRefused hidle half)
  rw [weiRun]
  generalize (weiQueue (weiJoined d (hn half) w c) 0).length + (weiQueue (weiJoined d (hn half) w c) 1).length + 1 = n
  rw [weiPump, dispatch_joined hidle, hdispatch, round_range hidle'.2.2, weiPump_idle hidle']

theorem weiRefused_mem (d : Dev) (h w : Nat) (c : WeiCmd) : (weiRefused d h w c).mem = d.mem := by
  rw [weiRefused, weiNote_mem, weiNote_mem, setWeiQueue_mem, weiJoined, setWeiQueue_mem, weiCounted, weiNote_mem, withWei_mem]

theorem weiRun_refuses (hidle : weiIdle d) (hw : 4 * hn half + wcWeir c.op.toNat = w) (hst : stOf d (A.WEI_STS (hn half)) = 0) :
    fget (weiRun (weiJoined d (hn half) w c)) (A.WEI_STS (hn half)) F.WEI_STS_EXC = 0x82 ∧
      sget 0 (8 * w + 3) (weiRun (weiJoined d (hn half) w c)).wei.counts = sget 0 (8 * w + 3) d.wei.counts + 1 ∧
      (weiRun (weiJoined d (hn half) w c)).mem = d.mem ∧ (weiRun (weiJoined d (hn half) w c)).wei.weirs = d.wei.weirs := by
  have hwh : w / 4 = hn half := by
    have hlt : wcWeir c.op.toNat < 4 := Nat.mod_lt _ (by decide)
    omega
  obtain ⟨hmem, hwei, hexc⟩ := weiCmdRaise_fatal_leaves hwh (weiRefused d (hn half) w c) c (weiDetail c)
  rw [weiRun_stopped hidle hw hst, hwei]
  exact ⟨hexc, counts_weiRefused .., hmem.trans (weiRefused_mem ..), weirs_weiRefused ..⟩

/-! ### The words of the commands -/

theorem weiTaken_op (d : Dev) (iss : Issue) (op : WeiOp) : (weiTaken d iss op).op = encodeWei op := rfl

theorem weiTaken_step (d : Dev) (iss : Issue) (op op' : WeiOp) : (weiTaken d iss op).step = (weiTaken d iss op').step := rfl

theorem reaches_upd {iss : Issue} {weir : BitVec 2} {desc : BitVec 10} {sel : BitVec 4} {span0 : BitVec 12} {words : List Nat}
    (hidle : weiIdle d) (hrun : stOf d (A.WEI_STS (hn iss.half)) = 1)
    (hfree : snapHolds d (weiTaken d iss (.upd weir desc sel span0)).step = false) (hsel : selDefined sel.toNat = true)
    (hwords : wstWords d (hn iss.half) desc.toNat = some words) :
    Reaches d iss.half (4 * hn iss.half + weir.toNat) (weiTaken d iss (.upd weir desc sel span0)) words := by
  obtain ⟨hweir, -, hdesc, hs⟩ := upd_fields (weiTaken_op d iss (.upd weir desc sel span0))
  exact ⟨hidle, by rw [hweir], hrun, hfree, rfl, rfl, rfl, by rw [hs]; exact hsel, by rw [hdesc]; exact hwords⟩

theorem reaches_clrm {iss : Issue} {weir : BitVec 2} {desc : BitVec 10} {sel : BitVec 4} {span0 : BitVec 12} {words : List Nat}
    (hidle : weiIdle d) (hrun : stOf d (A.WEI_STS (hn iss.half)) = 1)
    (hfree : snapHolds d (weiTaken d iss (.clrm weir desc sel span0)).step = false) (hsel : selDefined sel.toNat = true)
    (hwords : wstWords d (hn iss.half) desc.toNat = some words) :
    Reaches d iss.half (4 * hn iss.half + weir.toNat) (weiTaken d iss (.clrm weir desc sel span0)) words := by
  obtain ⟨hweir, -, hdesc, hs⟩ := clrm_fields (weiTaken_op d iss (.clrm weir desc sel span0))
  exact ⟨hidle, by rw [hweir], hrun, hfree, rfl, rfl, rfl, by rw [hs]; exact hsel, by rw [hdesc]; exact hwords⟩

end

theorem slot_none_workMem {j : WeiJob} (hs : j.c.slot = none) (G t : Nat) : workMem d j G t = storedMem d j G t := by
  rw [workMem, hs]

/-- Settles O36: the command goes from the half's queue to its weir, which begins it and works its one group at once, or
waits, while every other weir rests. -/
theorem weirsUpdateAndClear : Obligations.WeirsUpdateAndClear := by
  unfold Obligations.WeirsUpdateAndClear
  intro iss weir desc sel span0 s d h w upd clr hidle hm
  have hupd := weiIssue_eq (s := s.dev) (iss := iss) (d := d) rfl hidle (.upd weir desc sel span0)
    (upd_fields (weiTaken_op d iss (.upd weir desc sel span0))).1
  have hclr := weiIssue_eq (s := s.dev) (iss := iss) (d := d) rfl hidle (.clrm weir desc sel span0)
    (clrm_fields (weiTaken_op d iss (.clrm weir desc sel span0))).1
  refine ⟨fun words hrun hfree hopen hsel hwords => ?_, fun c k hc => ?_⟩
  · intro j jc
    have hr := reaches_upd hidle hrun hfree hsel hwords
    have hop := (upd_fields (weiTaken_op d iss (.upd weir desc sel span0))).2.1
    refine ⟨fun henc hsg hsparse => ?_, fun henc haddr hsg hrowg => ?_⟩
    · intro t ra
      refine ⟨fun hl haddr => ?_, fun d1 k hnarrow heph haddr => ?_, fun hnarrow hwait heph => ?_⟩
      · have hnarrow : j.narrow = false := by rw [WeiJob.narrow, hl]; simp
        obtain ⟨f, b, hf, hcur, hmem, hleft⟩ := weiRun_update_plain hr hop hopen hsg hsparse hm hnarrow henc haddr
        rw [slot_none_workMem rfl] at hmem
        refine ⟨_, _, next_congr rfl (hupd.trans hf), hcur, rfl, fun i hi => ?_, fun a ha => ?_, (hleft.weaken (by simp) fun _ => id).1,
          hleft.2⟩
        · rw [hmem]
          exact storedMem_record hl hi
        · rw [hmem]
          exact storedMem_frame hl ha
      · obtain ⟨f, b, hf, hcur, hmem, hleft⟩ := weiRun_update_slot hr hop hopen hsg hsparse hm hnarrow heph henc haddr
        have hld := leaves_ephRequest heph
        refine ⟨_, _, next_congr rfl (hupd.trans hf), hcur, rfl, rfl, ?_, ?_, ?_, ?_⟩
        · rw [hmem]
          refine (weiWorkGroup_mem (half := iss.half) ?_ hr.ofHalf (wst_entry_le words) ?_).symm
          · rw [hld.1 .ms (by simp)]
            exact hm
          · rintro _ ⟨⟩
            exact ephRequest_slot heph
        · exact (hleft.1 .cas (by simp)).trans (hld.1 .cas (by simp))
        · exact (hleft.1 .jet (by simp)).trans (hld.1 .jet (by simp))
        · exact (hleft.1 .seq (by simp)).trans (hld.1 .seq (by simp))
      · have hwaits := weiRun_update_waits hr hop hnarrow heph hwait
        generalize weiRun (weiJoined d h w upd) = f at hwaits hupd
        exact ⟨_, _, next_congr rfl hupd, hwaits.cur, rfl, hwaits.since, hwaits.same.leaves.1,
          hwaits.same.leaves.2.weaken fun _ => these_of_weiReports hr.ofHalf⟩
    · intro row ga htouched hwin
      have hrc := reaches_clrm (weir := weir) (span0 := span0) hidle hrun ((congrArg _ (weiTaken_step ..)).trans hfree) hsel hwords
      have hopc := (clrm_fields (weiTaken_op d iss (.clrm weir desc sel span0))).2.1
      have hj : jobOf d w { clr with ent := words } = jc := rfl
      have hjc : jc.clrm = true := decide_eq_true hopc
      have hone : (wstFields words).sg = 1 := hsg
      clear_value jc
      obtain ⟨hleft, hmem⟩ := weiRun_clear hrc hopc hone hj henc haddr hrowg htouched hwin
      obtain ⟨hga, hmb⟩ := weiAddrBad_none_aligned (sparse_of_clrm hjc henc) haddr
      generalize weiRun (weiJoined d h w clr) = f at hleft hmem hclr
      refine ⟨_, next_congr rfl hclr, ?_, ?_, fun a ha hb => ?_, (hleft.weaken (by simp) fun _ => id).1, hleft.2⟩
      · rw [hmem]
        exact clearedMem_zeros (by rw [WeiJob.gradsAt, show jc.g0 * 256 * jc.gb = 8 * (32 * jc.g0 * jc.gb) by ring]; omega) (by omega)
          (by omega)
      · rw [rowBits, hmem]
        exact clearedMem_touched
      · rw [hmem]
        exact clearedMem_frame ha hb
  · have hword : wcWeir k.op.toNat = weir.toNat := by
      obtain ⟨-, rfl⟩ | ⟨-, rfl⟩ := hc
      · exact (upd_fields rfl).1
      · exact (clrm_fields rfl).1
    have hexec : ∀ f, weiRun (weiJoined d h w k) = f → exec c s = .next { s with dev := f } := by
      rintro f hf
      obtain ⟨rfl, rfl⟩ | ⟨rfl, rfl⟩ := hc
      · exact next_congr (e := f) rfl (hupd.trans hf)
      · exact next_congr (e := f) rfl (hclr.trans hf)
    refine ⟨fun hst => ?_, fun hst => ?_⟩
    · obtain ⟨hexc, hcount, hmem, hweirs⟩ := weiRun_refuses (w := w) (c := k) hidle (by rw [hword]) hst
      generalize weiRun (weiJoined d h w k) = f at *
      exact ⟨_, hexec f rfl, hexc, hcount, hmem, hweirs⟩
    · exact ⟨_, hexec _ (weiRun_draining hidle hst), weiQueue_weiJoined_self .., weirs_weiJoined .., (leaves_weiJoined ..).1,
        (leaves_weiJoined ..).2⟩

end Sys2Proof.Machine
end

section
/-! PROOFS. The collective engine's state, and the messages that it sends (14, R527 to R530). -/

namespace Sys2Proof.Machine

section
variable {ps : List Piece} {p : Nat → Bool} {d e D T : Dev} {c c' : Coll} {l : List Coll} {cid q port n a : Nat} {m : Msg}

/-! ### The collectives that run -/

/-- The collectives with one of them replaced. -/
def collsWith (l : List Coll) (c : Coll) : List Coll := l.map (fun x => if x.cid = c.cid then c else x)

theorem collsWith_collsWith (h : c'.cid = c.cid) (l : List Coll) : collsWith (collsWith l c) c' = collsWith l c' := by
  rw [collsWith, collsWith, List.map_map, collsWith]
  refine List.map_congr_left fun x _ => ?_
  by_cases hx : x.cid = c.cid
  · simp [Function.comp, hx, h]
  · simp [Function.comp, hx, h]

theorem setColls_mach (d : Dev) (l : List Coll) : (setColls d l).mach = { d.mach with colls := l } := by
  rw [setColls, fset_mach, withMach_mach]

theorem setColls_mem (d : Dev) (l : List Coll) : (setColls d l).mem = d.mem := by
  rw [setColls, fset_mem, withMach_mem]

theorem leaves_setColls_iff (hm : Piece.mach ∈ ps) (hr : p A.COL_STS = true) : Leaves ps p d (setColls e l) ↔ Leaves ps p d e := by
  rw [setColls, leaves_fset_iff hr, leaves_withMach_iff hm]

theorem setColl_mach (d : Dev) (c : Coll) : (setColl d c).mach = { d.mach with colls := collsWith d.mach.colls c } := setColls_mach ..

theorem setColl_colls (d : Dev) (c : Coll) : (setColl d c).mach.colls = collsWith d.mach.colls c := by rw [setColl_mach]

theorem leaves_setColl_iff (hm : Piece.mach ∈ ps) (hr : p A.COL_STS = true) : Leaves ps p d (setColl e c) ↔ Leaves ps p d e :=
  leaves_setColls_iff hm hr

theorem collOf_cid (h : collOf d cid = some c) : c.cid = cid := by
  simpa using List.find?_some h

theorem collOf_of_colls (h : e.mach.colls = d.mach.colls) (cid : Nat) : collOf e cid = collOf d cid := by
  rw [collOf, h, collOf]

theorem collOf_setColl (h : collOf d cid = some c) (hc : c'.cid = c.cid) : collOf (setColl d c') cid = some c' := by
  have hcid := collOf_cid h
  rw [collOf] at h
  rw [collOf, setColl_colls]
  generalize d.mach.colls = l at h
  induction l with
  | nil => cases h
  | cons x l ih =>
    rw [List.find?_cons] at h
    rw [collsWith, List.map_cons, List.find?_cons]
    by_cases hx : x.cid = cid
    · simp [hx, hc, hcid]
    · have hne : (x.cid == cid) = false := by simpa using hx
      rw [hne] at h
      rw [if_neg (by rw [hc, hcid]; exact hx), hne]
      exact ih h

/-! ### Going on -/

/-- Nothing of the collective is to be done. -/
def collRests (c : Coll) : Prop :=
  ¬(cltOp c.ent ≠ 2 ∧ c.scaled = false ∧ cltNm c.ent - 1 ≤ c.landed) ∧
    ¬(c.next ≤ ceLast c.ent ∧ (if c.next = ceFirst c.ent then c.ready else decide (c.next ≤ c.landed)) = true)

theorem collGo_rests (h : collOf d cid = some c) (hr : collRests c) (n : Nat) : collGo cid n d = d := by
  cases n with
  | zero => rfl
  | succ n => simp only [collGo, h, if_neg hr.1, if_neg hr.2]

theorem collRun_rests (h : collOf d cid = some c) (hr : collRests c) : collRun d cid = d := by
  simp only [collRun, h]
  exact collGo_rests h hr _

/-! ### What the engine leaves -/

/-- The registers that a COLL message, or a step of the engine, may change at a port. -/
def isEngine (port a : Nat) : Bool := isAccess a || isVc port a || a == A.COL_STS

theorem isAccess_of_isEngine (h : isEngine port a = false) : isAccess a = false :=
  (Bool.or_eq_false_iff.1 (Bool.or_eq_false_iff.1 h).1).1

theorem isVc_of_isEngine (h : isEngine port a = false) : isVc port a = false :=
  (Bool.or_eq_false_iff.1 (Bool.or_eq_false_iff.1 h).1).2

theorem isEngine_sts : isEngine port A.COL_STS = true := by simp [isEngine]

theorem these_sts_of_isEngine (h : isEngine port a = false) : these [A.COL_STS] a = false := by
  have hne := (Bool.or_eq_false_iff.1 h).2
  exact these_apart (by simpa using hne)

/-- Registers outside of counters, pools, credits and COL_STS. -/
theorem isEngine_low (ha : a < 0x600060) (hc : isCounter a = false) (hs : a ≠ A.COL_STS) : isEngine port a = false := by
  rw [Bool.eq_false_iff, ne_eq, isEngine, Bool.or_eq_true, Bool.or_eq_true, isAccess, hc, Bool.false_or, these_iff, isVc,
    List.any_eq_true, beq_iff_eq]
  rintro ((h | ⟨v, -, h⟩) | h)
  · simp only [A.POL_STS, List.mem_cons, List.not_mem_nil, or_false] at h
    omega
  · rw [beq_iff_eq, A.HRM_VCCRED] at h
    omega
  · exact hs h

/-- What a COLL message reads of the chip, its routes and its ports. -/
structure SameWays (d D : Dev) : Prop where
  own : ownChip D = ownChip d
  ttl : initTtl D = initTtl d
  slice : fget D A.SID_SLICE F.SID_SLICE_SLICE = fget d A.SID_SLICE F.SID_SLICE_SLICE
  route : ∀ chip, chip < 2 ^ 14 → routeTo D chip = routeTo d chip
  carry : ∀ q, q < 8 → ∀ v, carries D q v = carries d q v
  quiet : quiet d → quiet D

theorem isEngine_psts (hq : q < 8) : isEngine port (A.HRM_PSTS q) = false := by
  rw [Bool.eq_false_iff, ne_eq, isEngine, Bool.or_eq_true, Bool.or_eq_true, isAccess, not_isCounter_port hq (isPort_psts q),
    Bool.false_or, these_iff, isVc, List.any_eq_true, beq_iff_eq]
  rintro ((h | ⟨v, hv, h⟩) | h)
  · simp only [A.POL_STS, A.HRM_PSTS, List.mem_cons, List.not_mem_nil, or_false] at h
    omega
  · rw [beq_iff_eq, A.HRM_VCCRED, A.HRM_PSTS] at h
    have := List.mem_range.1 hv
    omega
  · rw [A.HRM_PSTS, A.COL_STS] at h
    omega

theorem sameWays (h : Leaves ps (isEngine port) d D) (hcut : D.mach.cutOut = d.mach.cutOut) : SameWays d D := by
  have hlow {b : Nat} (f : Fld) (hb : b < 0x600060) (hc : isCounter b = false) (hs : b ≠ A.COL_STS) : fget D b f = fget d b f :=
    h.2.fget (isEngine_low hb hc hs) f
  have hown : ownChip D = ownChip d := hlow _ (by decide) (by decide) (by decide)
  refine ⟨hown, congrArg (max · 1) (hlow _ (by decide) (by decide) (by decide)), hlow _ (by decide) (by decide) (by decide),
    fun chip hchip => ?_, fun q hq v => ?_, fun hquiet => ?_⟩
  · have hbank : actBank D = actBank d := hlow _ (by decide) (by decide) (by decide)
    have hb : actBank d < 2 := fget_lt ..
    have hword : regGet D (A.SID_RTAB (1024 * actBank d + chip / 16)) = regGet d (A.SID_RTAB (1024 * actBank d + chip / 16)) := by
      refine h.2 _ (isEngine_low ?_ ?_ ?_)
      · simp only [A.SID_RTAB]
        omega
      · rw [Bool.eq_false_iff, ne_eq, isCounter_iff]
        simp only [A.SID_RTAB]
        omega
      · simp only [A.SID_RTAB, A.COL_STS]
        omega
    rw [routeTo, hbank, hword, hown, routeTo]
  · have hpsts (f : Fld) : fget D (A.HRM_PSTS q) f = fget d (A.HRM_PSTS q) f := h.2.fget (isEngine_psts hq) f
    have hst : lstate D q = lstate d q := hpsts _
    have hrun : dataRuns D q = dataRuns d q := congrArg (fun x => decide (x = 1)) (hpsts _)
    rw [carries, carries, hst, hrun, hcut]
  · exact quiet_of_leaves hquiet (isEngine_low (by decide) (by decide) (by decide)) (isEngine_low (by decide) (by decide) (by decide)) h

/-! ### Messages -/

theorem cltPeer_lt (d : Dev) (e : List Nat) (i : Nat) : cltPeer d e i < 2 ^ 14 := Nat.mod_lt _ (by decide)

theorem cltPeer_of_mem (h : ∀ a, memGet D.mem a = memGet d.mem a) (e : List Nat) (i : Nat) : cltPeer D e i = cltPeer d e i := by
  rw [cltPeer, cltMember, memNat, memRead_congr fun i _ => h _, cltPeer, cltMember, memNat]

theorem routeTo_lt {chip : Nat} (h : routeTo d chip = some q) : q < 8 := by
  unfold routeTo at h
  dsimp only at h
  split at h
  · cases h
  next hle =>
    split at h
    · cases h
    · cases h
      omega

theorem collMsg_same (h : SameWays d D) (dst vc ck cid attempt phase step off fmt : Nat) (gp : Bool) (data : List Byte) :
    collMsg D dst vc ck cid attempt phase step off fmt gp data = collMsg d dst vc ck cid attempt phase step off fmt gp data := by
  rw [collMsg, h.own, h.ttl, h.slice, collMsg]

/-- A message whose port carries it joins the port's queue. -/
theorem sendMsg_carried (h : SameWays d D) (hquiet : quiet d) (hown : m.dchip ≠ ownChip d) (hchip : m.dchip < 2 ^ 14)
    (hr : routeTo d m.dchip = some q) (hc : carries d q m.vc = true) : sendMsg D m = enqueue D q m none := by
  unfold sendMsg
  rw [if_neg (by rw [h.own]; exact hown), h.route _ hchip, hr]
  exact sendBy_carried (h.quiet hquiet) ((h.carry q (routeTo_lt hr) _).trans hc)

theorem enqueue_mach (d : Dev) (q : Nat) (m : Msg) (ctx : Option Nat) : (enqueue d q m ctx).mach = d.mach := by
  rw [enqueue, modPort, setPort, withPorts_mach]

end

end Sys2Proof.Machine
end

section
/-! PROOFS. Collectives launch, land their phases, complete and time out (14, R526, R527, R531). -/

namespace Sys2Proof.Machine

section
variable {ps : List Piece} {p : Nat → Bool} {d D : Dev} {c : Coll} {e : List Nat} {cid k q a : Nat} {m : Msg}

theorem leaves_sts_engine (h : Leaves ps (these [A.COL_STS]) d D) : Leaves ps (isEngine 0) d D :=
  h.weaken (by simp) fun _ => these_sts_of_isEngine

/-- A message to the queue of its port, on a package that only the engine has changed. -/
theorem queue_enqueue (h : D.ports = d.ports) (m : Msg) : (portOf (enqueue D q m none) q).queue =
    (portOf d q).queue ++ [⟨(portOf d q).nextId, m, 0, none⟩] := by
  have hport : portOf D q = portOf d q := by rw [portOf, h, portOf]
  rw [enqueue_port, hport]

/-- A COLL message whose port carries it joins the port's queue. -/
theorem sendColl_carried {dst vc : Nat} (h : SameWays d D) (hquiet : quiet d) (hown : dst ≠ ownChip d) (hdst : dst < 2 ^ 14)
    (hr : routeTo d dst = some q) (hc : carries d q vc = true) (ck cid attempt phase step off fmt : Nat) (gp : Bool) (data : List Byte) :
    sendMsg D (collMsg D dst vc ck cid attempt phase step off fmt gp data) =
      enqueue D q (collMsg d dst vc ck cid attempt phase step off fmt gp data) none := by
  rw [collMsg_same h]
  generalize hm : collMsg d dst vc ck cid attempt phase step off fmt gp data = m
  have hdm : m.dchip = dst := by rw [← hm]; rfl
  have hvm : m.vc = vc := by rw [← hm]; rfl
  exact sendMsg_carried h hquiet (by rw [hdm]; exact hown) (by rw [hdm]; exact hdst) (by rw [hdm]; exact hr) (by rw [hvm]; exact hc)

/-! ### A launch -/

/-- A collective just launched. -/
def collStarted (d : Dev) (k : Nat) (e : List Nat) : Coll :=
  ⟨k, e, curStep d, attemptNow d, d.now, false, ceFirst e, ceFirst e, [], ceFirst e, false⟩

/-- The package with the next entry launched. -/
def collListed (d : Dev) (k : Nat) (e : List Nat) : Dev :=
  setColls (setMach d (fun m => { m with launched := k + 1, keptReady := m.keptReady.erase (k, curStep d * 256 + attemptNow d) }))
    (d.mach.colls ++ [collStarted d k e])

theorem leaves_collListed (d : Dev) (k : Nat) (e : List Nat) : Leaves [.mach] (these [A.COL_STS]) d (collListed d k e) :=
  (leaves_setColls_iff (by simp) (by simp)).2 ((leaves_setMach_iff (by simp)).2 leaves_self)

theorem collListed_mach (d : Dev) (k : Nat) (e : List Nat) : (collListed d k e).mach.launched = k + 1 ∧
    (collListed d k e).mach.colls = d.mach.colls ++ [collStarted d k e] ∧ (collListed d k e).mach.cutOut = d.mach.cutOut := by
  rw [collListed, setColls_mach]
  exact ⟨rfl, rfl, rfl⟩

theorem collListed_run (hroom : d.mach.colls.length < 16) (k : Nat) (e : List Nat) :
    fget (collListed d k e) A.COL_STS F.COL_STS_RUN = d.mach.colls.length + 1 := by
  rw [collListed, setColls, fget_fset_self _ _ _ _ (by decide), List.length_append, List.length_singleton]
  exact Nat.mod_eq_of_lt (by omega : _ < 32)

theorem collRests_started (hm : 2 ≤ cltNm e) (d : Dev) (k : Nat) : collRests (collStarted d k e) := by
  refine ⟨?_, ?_⟩
  · rintro ⟨hop, -, hl⟩
    have hfirst : ceFirst e = 0 := if_neg hop
    have hl : cltNm e - 1 ≤ ceFirst e := hl
    omega
  · rintro ⟨-, hr⟩
    rw [if_pos (show (collStarted d k e).next = ceFirst (collStarted d k e).ent from rfl)] at hr
    cases hr

/-- A launch that may happen. -/
theorem collLaunch_launches (he : cltEntry d d.mach.launched = some e) (hk : d.mach.launched < d.mach.armed)
    (hend : d.mach.ended ≠ 1) (htrig : ceTcount e ≤ trigProd d (ceTrill e)) (hroom : d.mach.colls.length < 16)
    (hrun : running d .col = true) (htap : ceTapL e = false)
    (hkept : d.mach.keptReady.contains (d.mach.launched, curStep d * 256 + attemptNow d) = false) :
    collLaunch d = collRun (sendMsg (collListed d d.mach.launched e) (collMsg (collListed d d.mach.launched e)
      (cltPeer (collListed d d.mach.launched e) e (cltIdx e + cltNm e - 1)) (ceVc e) 2 d.mach.launched (attemptNow d) 0 (curStep d) 0
      (cltFmt e) false [])) d.mach.launched := by
  have hmay : ¬(d.mach.armed ≤ d.mach.launched ∨ d.mach.ended = 1 ∨ trigProd d (ceTrill e) < ceTcount e ∨ 16 ≤ d.mach.colls.length
      ∨ running d .col = false) := by
    rw [hrun]
    rintro (h | h | h | h | h)
    · omega
    · exact hend h
    · omega
    · omega
    · cases h
  unfold collLaunch
  simp only [he, if_neg hmay, hkept, htap]
  rfl

/-- A launch whose READY its port carries. -/
theorem collLaunch_sends (he : cltEntry d d.mach.launched = some e) (hk : d.mach.launched < d.mach.armed)
    (hend : d.mach.ended ≠ 1) (htrig : ceTcount e ≤ trigProd d (ceTrill e)) (hroom : d.mach.colls.length < 16)
    (hrun : running d .col = true) (htap : ceTapL e = false) (hm : 2 ≤ cltNm e)
    (hkept : d.mach.keptReady.contains (d.mach.launched, curStep d * 256 + attemptNow d) = false)
    (hnew : collOf d d.mach.launched = none) (hquiet : quiet d)
    (hown : cltPeer d e (cltIdx e + cltNm e - 1) ≠ ownChip d) (hroute : routeTo d (cltPeer d e (cltIdx e + cltNm e - 1)) = some q)
    (hc : carries d q (ceVc e) = true) :
    collLaunch d = enqueue (collListed d d.mach.launched e) q (collMsg d (cltPeer d e (cltIdx e + cltNm e - 1)) (ceVc e) 2
      d.mach.launched (attemptNow d) 0 (curStep d) 0 (cltFmt e) false []) none := by
  rw [collLaunch_launches he hk hend htrig hroom hrun htap hkept]
  generalize hkk : d.mach.launched = k at *
  have hl := leaves_collListed d k e
  obtain ⟨-, hcolls, hcut⟩ := collListed_mach d k e
  have hways := sameWays (leaves_sts_engine hl) hcut
  have hstands : collOf (enqueue (collListed d k e) q (collMsg d (cltPeer d e (cltIdx e + cltNm e - 1)) (ceVc e) 2 k (attemptNow d) 0
      (curStep d) 0 (cltFmt e) false []) none) k = some (collStarted d k e) := by
    rw [collOf] at hnew
    rw [collOf, enqueue_mach, hcolls, List.find?_append, hnew]
    simp [collStarted]
  rw [cltPeer_of_mem (hl.1 .mem (by simp)), sendColl_carried hways hquiet hown (cltPeer_lt ..) hroute hc,
    collRun_rests hstands (collRests_started hm d k)]

theorem collLaunch_none (h : d.mach.armed ≤ d.mach.launched ∨ d.mach.ended = 1 ∨ running d .col = false ∨
    cltEntry d d.mach.launched = none) : collLaunch d = d := by
  unfold collLaunch
  dsimp only
  split
  · rfl
  next e he =>
    rw [he] at h
    refine if_pos ?_
    obtain h | h | h | h := h
    · exact .inl h
    · exact .inr (.inl h)
    · exact .inr (.inr (.inr (.inr h)))
    · cases h

/-! ### A phase lands -/

theorem phaseLanded_acks (h : collOf d cid = some c) (hl : c.landed ≤ ceLast c.ent) (hb : ceChunk c.ent ≤ sget 0 c.landed c.bytes)
    (hn : ceLast c.ent < c.next) (hs : cltOp c.ent = 2 ∨ c.scaled = true) (hquiet : quiet d)
    (hown : cltPeer d c.ent (cltIdx c.ent + cltNm c.ent - 1) ≠ ownChip d)
    (hroute : routeTo d (cltPeer d c.ent (cltIdx c.ent + cltNm c.ent - 1)) = some q) (hc : carries d q (ceVc c.ent) = true) :
    phaseLanded d cid = enqueue (setColl d { c with landed := c.landed + 1 }) q
      (collMsg d (cltPeer d c.ent (cltIdx c.ent + cltNm c.ent - 1)) (ceVc c.ent) 3 cid c.attempt c.landed c.step 0 (cltFmt c.ent) false [])
      none := by
  have hlD : Leaves [.mach] (these [A.COL_STS]) d (setColl d { c with landed := c.landed + 1 }) :=
    (leaves_setColl_iff (by simp) (by simp)).2 leaves_self
  have hways := sameWays (leaves_sts_engine hlD) (by rw [setColl_mach])
  have hgo : ¬(ceLast c.ent < c.landed ∨ sget 0 c.landed c.bytes < ceChunk c.ent) := by omega
  have hrest : collRests { c with landed := c.landed + 1 } := by
    refine ⟨?_, ?_⟩
    · rintro ⟨hop, hsc, -⟩
      obtain h2 | h2 := hs
      · exact hop h2
      · exact Bool.noConfusion (h2.symm.trans hsc)
    · rintro ⟨hle, -⟩
      exact absurd hle (Nat.not_le.2 hn)
  have hstands := collOf_setColl (c' := { c with landed := c.landed + 1 }) h rfl
  unfold phaseLanded
  simp only [h, if_neg hgo]
  rw [cltPeer_of_mem (hlD.1 .mem (by simp)), sendColl_carried hways hquiet hown (cltPeer_lt ..) hroute hc,
    collRun_rests ((collOf_of_colls (by rw [enqueue_mach]) _).trans hstands) hrest]

theorem phaseLanded_early (h : collOf d cid = some c) (hb : sget 0 c.landed c.bytes < ceChunk c.ent) : phaseLanded d cid = d := by
  unfold phaseLanded
  simp only [h, if_pos (Or.inr hb)]

/-! ### Complete, or failed -/

/-- The package without a collective that has ended. -/
def collGone (d : Dev) (cid : Nat) : Dev :=
  (setColls d (d.mach.colls.filter (fun x => x.cid != cid))).withMach
    { (setColls d (d.mach.colls.filter (fun x => x.cid != cid))).mach with done := d.mach.done + 1 }

theorem collGone_mach (d : Dev) (cid : Nat) : (collGone d cid).mach =
    { d.mach with colls := d.mach.colls.filter (fun x => x.cid != cid), done := d.mach.done + 1 } := by
  rw [collGone, withMach_mach, setColls_mach]

theorem leaves_collGone (hm : Piece.mach ∈ ps) (hr : p A.COL_STS = true) : Leaves ps p d (collGone d cid) :=
  (leaves_withMach_iff hm).2 ((leaves_setColls_iff hm hr).2 leaves_self)

theorem collComplete_eq (h : collOf d cid = some c) (hn : ceLast c.ent < c.next) (hl : ceLast c.ent < c.landed) (ha : c.next ≤ c.acked)
    (hs : cltOp c.ent = 2 ∨ c.scaled = true) : collComplete d cid =
      countPkg (aqdCompleted (collGone d cid) (collChan c.ent).1 (collChan c.ent).2 1) 0xC07 0 1 true := by
  have hend : ¬(c.next ≤ ceLast c.ent ∨ c.landed ≤ ceLast c.ent ∨ c.acked < c.next ∨ (cltOp c.ent ≠ 2 ∧ c.scaled = false)) := by
    rintro (h | h | h | ⟨h, h'⟩)
    · omega
    · omega
    · omega
    · obtain h2 | h2 := hs
      · exact h h2
      · exact Bool.noConfusion (h2.symm.trans h')
  unfold collComplete
  simp only [h, if_neg hend, collGone, setMach, setColls_mach]

theorem collComplete_early (h : collOf d cid = some c) (hl : c.landed ≤ ceLast c.ent) : collComplete d cid = d := by
  unfold collComplete
  simp only [h, if_pos (Or.inr (Or.inl hl))]

/-- The channels of a collective. -/
theorem collChan_lt (e : List Nat) : (collChan e).1 < 2 ∧ (collChan e).2 < 32 := ⟨bits_lt _ _ _, bits_lt _ _ _⟩

theorem isCounter_chan {h c : Nat} (hh : h < 2) (hc : c < 32) (ha : a ∈ [A.AQD_CHCTL h c, A.AQD_CHSTS h c, A.AQD_CHCNTA h c,
    A.AQD_CHCNTB h c]) : isCounter a = false :=
  isAccess_of_isCounter (chan_regs_access hh hc ha)

theorem fget_collGone (hs : a ≠ A.COL_STS) (f : Fld) : fget (collGone d cid) a f = fget d a f :=
  (leaves_collGone (ps := [.mach]) (p := these [A.COL_STS]) (by simp) (by simp)).2.fget (these_apart hs) f

theorem chan_ne_sts {h c : Nat} : A.AQD_CHCNTA h c ≠ A.COL_STS ∧ A.AQD_CHCNTB h c ≠ A.COL_STS := by
  simp only [A.AQD_CHCNTA, A.AQD_CHCNTB, A.COL_STS]
  omega

theorem aqdShow_mach (d : Dev) (h c : Nat) : (aqdShow d h c).mach = d.mach :=
  ((leaves_aqdShow_iff (ps := [.gov]) (p := these [A.AQD_CHSTS h c]) (by simp) (by simp)).2 leaves_self).1 .mach (by simp)

/-- A collective that has completed. -/
structure Completed (d u : Dev) (cid h c : Nat) : Prop where
  colls : u.mach.colls = d.mach.colls.filter (fun x => x.cid != cid)
  done : u.mach.done = d.mach.done + 1
  count : fget u (A.AQD_CHCNTA h c) F.AQD_CHCNTA_COMPLETED = (fget d (A.AQD_CHCNTA h c) F.AQD_CHCNTA_COMPLETED + 1) % 2 ^ 32
  leaves : Leaves [.gov, .mach] (fun a => isCounter a || these [A.COL_STS, A.AQD_CHCNTA h c, A.AQD_CHSTS h c] a) d u

theorem completed_collGone {h c : Nat} (hh : h < 2) (hc : c < 32) :
    Completed d (countPkg (aqdCompleted (collGone d cid) h c 1) 0xC07 0 1 true) cid h c := by
  have hmach : (countPkg (aqdCompleted (collGone d cid) h c 1) 0xC07 0 1 true).mach = (collGone d cid).mach := by
    rw [countPkg_mach, aqdCompleted, aqdShow_mach, finc, fset_mach]
  have hcnt : isCounter (A.AQD_CHCNTA h c) = false := isCounter_chan hh hc (by simp)
  refine ⟨by rw [hmach, collGone_mach], by rw [hmach, collGone_mach], ?_, ?_⟩
  · rw [fget_countPkg hcnt, completed_aqdCompleted, fget_collGone chan_ne_sts.1]
  · rw [leaves_countPkg_iff fun _ ha => (Bool.or_eq_false_iff.1 ha).1, leaves_aqdCompleted_iff (by simp) (by simp) (by simp)]
    exact leaves_collGone (by simp) (by simp)

/-! ### Timeout -/

/-- A collective that has failed. -/
structure Failed (d u : Dev) (cid h c : Nat) : Prop where
  colls : u.mach.colls = d.mach.colls.filter (fun x => x.cid != cid)
  abort : u.mach.abortStep = some (curStep d)
  exc : fget u A.COL_STS F.COL_STS_EXC = 0xF8
  cid : fget u A.COL_STS F.COL_STS_CID = cid
  count : fget u (A.AQD_CHCNTB h c) F.AQD_CHCNTB_DISCARDED = (fget d (A.AQD_CHCNTB h c) F.AQD_CHCNTB_DISCARDED + 1) % 2 ^ 32
  leaves : Leaves [.gov, .mach, .hst] (fun a => machReports a || these [A.AQD_CHCNTB h c, A.AQD_CHSTS h c] a) d u

/-- The failure counted and shown. -/
def collFailed (d : Dev) (cid h c : Nat) : Dev :=
  fset (fset (countPkg (aqdDiscarded (collGone d cid) h c 1) 0xC08 0 1 true) A.COL_STS F.COL_STS_EXC 0xF8) A.COL_STS F.COL_STS_CID cid

theorem collFail_eq (h : collOf d cid = some c) (low chip : Nat) : ∃ payload, collFail d cid low chip =
    raise (collFailed d cid (collChan c.ent).1 (collChan c.ent).2) 0xF8 2 10 payload := by
  have hf : d.mach.colls.find? (fun c => c.cid == cid) = some c := h
  unfold collFail
  simp only [hf, colRaise]
  exact ⟨_, rfl⟩

theorem machReports_sts : machReports A.COL_STS = true := by decide

theorem isCounter_of_machReports (h : machReports a = false) : isCounter a = false :=
  isReport_of_isCounter (machReports_of_isReport h)

theorem leaves_collFailed {h c : Nat} (hm : Piece.mach ∈ ps) (hg : Piece.gov ∈ ps)
    (hp : ∀ a, p a = false → (machReports a || these [A.AQD_CHCNTB h c, A.AQD_CHSTS h c] a) = false) :
    Leaves ps p d (collFailed d cid h c) := by
  have hr {a : Nat} (ha : (machReports a || these [A.AQD_CHCNTB h c, A.AQD_CHSTS h c] a) = true) : p a = true := by
    by_contra hn
    rw [hp a (by simpa using hn)] at ha
    cases ha
  have hsts : p A.COL_STS = true := hr (by rw [machReports_sts]; rfl)
  rw [collFailed, leaves_fset_iff hsts, leaves_fset_iff hsts,
    leaves_countPkg_iff fun a ha => isCounter_of_machReports (Bool.or_eq_false_iff.1 (hp a ha)).1,
    leaves_aqdDiscarded_iff (hr (by simp)) (hr (by simp)) hg]
  exact leaves_collGone hm hsts

theorem raise_stepFatal_mach (d : Dev) (number src : Nat) (payload : List Nat) :
    (raise d number 2 src payload).mach = { d.mach with abortStep := some (curStep (post d number 2 src payload)) } := by
  rw [raise, consequence, stepFatal, raiseAbort, govSet_mach, withMach_mach, post_mach]

theorem collFail_fails (h : collOf d cid = some c) (hcid : cid < 1024) (low chip : Nat) :
    Failed d (collFail d cid low chip) cid (collChan c.ent).1 (collChan c.ent).2 := by
  obtain ⟨payload, hu⟩ := collFail_eq h low chip
  obtain ⟨hh, hc⟩ := collChan_lt c.ent
  rw [hu]
  generalize (collChan c.ent).1 = x at *
  generalize (collChan c.ent).2 = y at *
  have hl : Leaves [.gov, .mach, .hst] (fun a => machReports a || these [A.AQD_CHCNTB x y, A.AQD_CHSTS x y] a) d
      (raise (collFailed d cid x y) 0xF8 2 10 payload) := by
    rw [raise, consequence, stepFatal, raiseAbort, leaves_govSet_iff (by simp), leaves_withMach_iff (by simp),
      leaves_post_iff (by simp) fun a ha => machReports_of_isReport (Bool.or_eq_false_iff.1 ha).1]
    exact leaves_collFailed (by simp) (by simp) fun _ => id
  have hmach : (collFailed d cid x y).mach = (collGone d cid).mach := by
    rw [collFailed, fset_mach, fset_mach, countPkg_mach, aqdDiscarded, aqdShow_mach, finc, fset_mach]
  have hstays {a : Nat} (ha : isReport a = false) (f : Fld) :
      fget (raise (collFailed d cid x y) 0xF8 2 10 payload) a f = fget (collFailed d cid x y) a f := by
    rw [raise, consequence, stepFatal, raiseAbort]
    exact (onlyHst_post ..).leaves.2.fget ha f
  have hB : isReport (A.AQD_CHCNTB x y) = false := by
    rw [Bool.eq_false_iff, ne_eq, isReport_iff, isCounter_iff]
    simp only [A.AQD_CHCNTB]
    omega
  refine ⟨by rw [raise_stepFatal_mach, hmach, collGone_mach], ?_, ?_, ?_, ?_, hl⟩
  · rw [raise_stepFatal_mach]
    have hpost : Leaves [.gov, .mach, .hst] (fun a => machReports a || these [A.AQD_CHCNTB x y, A.AQD_CHSTS x y] a) d
        (post (collFailed d cid x y) 0xF8 2 10 payload) :=
      (leaves_post_iff (by simp) fun a ha => machReports_of_isReport (Bool.or_eq_false_iff.1 ha).1).2
        (leaves_collFailed (by simp) (by simp) fun _ => id)
    have hstep : (machReports (A.SEQ_STEP 0) || these [A.AQD_CHCNTB x y, A.AQD_CHSTS x y] (A.SEQ_STEP 0)) = false := by
      rw [show machReports (A.SEQ_STEP 0) = false by decide, Bool.false_or, Bool.eq_false_iff, ne_eq, these_iff]
      simp only [A.AQD_CHCNTB, A.AQD_CHSTS, A.SEQ_STEP, List.mem_cons, List.not_mem_nil, or_false]
      omega
    exact congrArg some (hpost.2.fget hstep _)
  · rw [hstays (by decide), collFailed, fget_fset_apart _ _ _ _ _ _ (by decide) (by decide) (by decide),
      fget_fset_self _ _ _ _ (by decide)]
    rfl
  · rw [hstays (by decide), collFailed, fget_fset_self _ _ _ _ (by decide)]
    exact Nat.mod_eq_of_lt hcid
  · have hcnt : isCounter (A.AQD_CHCNTB x y) = false := isCounter_chan hh hc (by simp)
    rw [hstays hB, collFailed, fget_fset_ne _ chan_ne_sts.2, fget_fset_ne _ chan_ne_sts.2, fget_countPkg hcnt, aqdDiscarded,
      fget_aqdShow (chan_regs_apart x y).2.1, fget_finc_self _ _ rfl, fget_collGone chan_ne_sts.2]
    rfl

end

end Sys2Proof.Machine
end

section
/-! PROOFS. COLL messages that arrive, and O52 (14, R527 to R530). -/

namespace Sys2Proof.Machine

section
variable {ps : List Piece} {p : Nat → Bool} {d D T : Dev} {c : Coll} {e : List Nat} {cid k q r a n : Nat} {m : Msg}
  {bs : List Byte}

/-! ### A message taken from its inbox -/

theorem arrival_taken (ha : arrives d q m) (hq : q < 8) (f : Dev → Dev) : arrival d q m f = f (takeInbox d q m) := by
  have hdead := arrives_alive ha
  have hold := ha.2.1
  have hquiet := (taken_takeInbox hq ha).quiet
  unfold arrival
  simp only [hdead, hold, Bool.false_eq_true, if_false]
  rw [capMsg_quiet hquiet, ite_self]

/-- A change of a port that leaves its queue. -/
theorem modPort_keepsQueue {f : Port → Port} (hf : ∀ x, (f x).queue = x.queue ∧ (f x).nextId = x.nextId) (d : Dev) (q r : Nat) :
    (portOf (modPort d q f) r).queue = (portOf d r).queue ∧ (portOf (modPort d q f) r).nextId = (portOf d r).nextId := by
  by_cases hr : r = q
  · subst hr
    rw [modPort_port]
    exact hf _
  · have hport : portOf (modPort d q f) r = portOf d r := by
      rw [portOf, modPort, setPort, withPorts_ports, sget_sset_ne _ hr, portOf]
    rw [hport]
    exact ⟨rfl, rfl⟩

theorem modPort_mem (d : Dev) (q : Nat) (f : Port → Port) : (modPort d q f).mem = d.mem := by
  rw [modPort, setPort, withPorts_mem]

/-- A port without a message in its inbox. -/
def Port.without (m : Msg) (x : Port) : Port := { x with inbox := x.inbox.erase m }

/-- A port that owes its peer the flits of a virtual channel. -/
def Port.owing (vc n : Nat) (x : Port) : Port := { x with owed := sset 0 vc (sget 0 vc x.owed + n) x.owed }

theorem takeInbox_eq (d : Dev) (q : Nat) (m : Msg) : takeInbox d q m =
    if (portOf d q).inbox.contains m then
      (if q < 8 ∧ m.lepoch = epochOf (modPort d q (Port.without m)) q then
        freeFlits (modPort d q (Port.without m)) q m.vc (flitsOf m)
      else modPort d q (Port.without m))
    else modPort d 8 (Port.without m) := rfl

theorem freeFlits_eq (d : Dev) (q vc n : Nat) : ∃ v, freeFlits d q vc n =
    modPort (fset d (A.HRM_VCCRED q vc) F.HRM_VCCRED_RXOCC v) q (Port.owing vc n) := ⟨_, rfl⟩

theorem freeFlits_keeps (d : Dev) (q vc n r : Nat) : (freeFlits d q vc n).mem = d.mem ∧
    (portOf (freeFlits d q vc n) r).queue = (portOf d r).queue ∧ (portOf (freeFlits d q vc n) r).nextId = (portOf d r).nextId := by
  obtain ⟨v, h⟩ := freeFlits_eq d q vc n
  have hport := modPort_keepsQueue (f := Port.owing vc n) (fun x => ⟨rfl, rfl⟩) (fset d (A.HRM_VCCRED q vc) F.HRM_VCCRED_RXOCC v) q r
  rw [portOf_fset] at hport
  rw [h]
  exact ⟨by rw [modPort_mem, fset_mem], hport⟩

theorem takeInbox_keeps (d : Dev) (q : Nat) (m : Msg) (r : Nat) : (takeInbox d q m).mem = d.mem ∧
    (portOf (takeInbox d q m) r).queue = (portOf d r).queue ∧ (portOf (takeInbox d q m) r).nextId = (portOf d r).nextId := by
  have hmod (q) := modPort_keepsQueue (f := Port.without m) (fun x => ⟨rfl, rfl⟩) d q r
  rw [takeInbox_eq]
  split
  · split
    · obtain ⟨hmem, hqueue, hid⟩ := freeFlits_keeps (modPort d q (Port.without m)) q m.vc (flitsOf m) r
      exact ⟨hmem.trans (modPort_mem ..), hqueue.trans (hmod q).1, hid.trans (hmod q).2⟩
    · exact ⟨modPort_mem .., hmod q⟩
  · exact ⟨modPort_mem .., hmod 8⟩

/-- A package at a port after an arrival: the engine finds its collectives as they were. -/
structure Arrived (q : Nat) (d T : Dev) : Prop where
  leaves : Leaves [.ports] (isVc q) d T
  mem : T.mem = d.mem
  queue : ∀ r, (portOf T r).queue = (portOf d r).queue ∧ (portOf T r).nextId = (portOf d r).nextId

theorem arrived_takeInbox (hq : q < 8) (ha : arrives d q m) : Arrived q d (takeInbox d q m) :=
  ⟨(taken_takeInbox hq ha).leaves, (takeInbox_keeps d q m 0).1, fun r => (takeInbox_keeps d q m r).2⟩

namespace Arrived

theorem mach (h : Arrived q d T) : T.mach = d.mach := h.leaves.1 .mach (by simp)

theorem marks (h : Arrived q d T) (hm : d.ms.marks = []) : T.ms.marks = [] := by rw [h.leaves.1 .ms (by simp), hm]

theorem collOf (h : Arrived q d T) (cid : Nat) : collOf T cid = collOf d cid := collOf_of_colls (by rw [h.mach]) cid

theorem isVc_sid {b : Nat} (hb : b < 0x600060) : isVc q b = false := by
  rw [isVc, List.any_eq_false]
  intro v _
  simp only [A.HRM_VCCRED, beq_iff_eq]
  omega

theorem plainMem (h : Arrived q d T) (hq : q < 8) (a n : Nat) : plainMem T a n ↔ plainMem d a n :=
  plainMem_of_stackCh fun s hs => h.leaves.2.fget (isVc_high hq (by interval_cases s <;> decide)) _

theorem inStacks (h : Arrived q d T) (hq : q < 8) (a n : Nat) : inStacks T a n = inStacks d a n :=
  inStacks_of_stackCh fun s hs => h.leaves.2.fget (isVc_high hq (by interval_cases s <;> decide)) _

theorem current (h : Arrived q d T) (hq : q < 8) (m : Msg) : collCurrent T m = collCurrent d m := by
  rw [collCurrent, h.leaves.2.fget (isVc_sid (by decide)), curStep, h.leaves.2.fget (isVc_high hq (by decide)), attemptNow,
    h.leaves.2.fget (isVc_sid (by decide)), collCurrent, curStep, attemptNow]

theorem engine (h : Arrived q d T) : Leaves [.ports] (isEngine q) d T := h.leaves.weaken (by simp) fun _ => isVc_of_isEngine

end Arrived

/-! ### What is discarded -/

theorem collStale_leaves (d : Dev) : Leaves [] isCounter d (collStale d) := (onlyRegs_countPkg ..).leaves

/-- Every COLL message but PWRITE that is not current is discarded and counted. -/
theorem coll_not_current (h : collCurrent d m = false) (hc : collOf d (bits m.w1 13 4) = some c) :
    (∀ add, collData d m add = collStale d) ∧ collReady d m = collStale d ∧ collAck d m = collStale d := by
  refine ⟨fun add => ?_, ?_, ?_⟩
  · unfold collData
    simp only [hc, h, Bool.not_false, Bool.true_or, if_true]
  · unfold collReady
    simp only [h, Bool.not_false, if_true]
  · unfold collAck
    simp only [hc, h, Bool.false_eq_true, if_false]

/-! ### The bytes of a chunk -/

/-- The collective with the bytes of a message counted for their phase. -/
def collCounted (c : Coll) (m : Msg) : Coll :=
  { c with
    bytes := sset 0 (phaseNear c.landed (bits m.w1 31 24)) (sget 0 (phaseNear c.landed (bits m.w1 31 24)) c.bytes + m.data.length)
      c.bytes }

section data
variable (hcur : collCurrent d m = true) (hc : collOf d (bits m.w1 13 4) = some c) (hlen : bits m.w2 41 0 + m.data.length ≤ cltLen c.ent)
include hcur hc hlen

theorem collData_write (htap : ceTapR c.ent = false) : collData d m false =
    setColl (qPut d (cltBuf c.ent + bits m.w2 41 0) m.data) (collCounted c m) := by
  have hok : (!collCurrent d m || decide (cltLen c.ent < bits m.w2 41 0 + m.data.length)) = false := by
    rw [hcur, decide_eq_false (by omega)]
    rfl
  unfold collData
  simp only [hc, hok, htap, Bool.false_eq_true, if_false]
  rfl

theorem collData_add : collData d m true =
    setColl ((pieces 128 m.data.length (cltBuf c.ent + bits m.w2 41 0) m.data).foldl
      (fun d p => (poolAtomic d p.1 (cltFmt c.ent) p.2 m.gp c.step).1) d) (collCounted c m) := by
  have hok : (!collCurrent d m || decide (cltLen c.ent < bits m.w2 41 0 + m.data.length)) = false := by
    rw [hcur, decide_eq_false (by omega)]
    rfl
  unfold collData
  simp only [hc, hok, Bool.false_eq_true, if_false, if_true]
  rfl

end data

/-- A run of bytes that one piece holds. -/
theorem pieces_one {M : Nat} (hbs : bs ≠ []) (h : a % M + bs.length ≤ M) : pieces M bs.length a bs = [(a, bs)] := by
  have hpos : 0 < bs.length := List.length_pos_iff.2 hbs
  have hone (f : Nat) : pieces M (f + 1) a bs = [(a, bs)] := by
    have hempty : bs.isEmpty = false := by rw [← Bool.not_eq_true, List.isEmpty_iff]; exact hbs
    have htake : bs.take (M - a % M) = bs := List.take_of_length_le (by omega)
    have hdrop : bs.drop (M - a % M) = [] := List.drop_of_length_le (by omega)
    have hrest : ∀ f b, pieces M f b [] = [] := fun f b => by cases f <;> rfl
    rw [pieces]
    simp only [hempty, Bool.false_eq_true, if_false, htake, hdrop, hrest]
  obtain ⟨f, hf⟩ : ∃ f, bs.length = f + 1 := ⟨bs.length - 1, by omega⟩
  rw [hf]
  exact hone f

theorem poisonFor_colls (d : Dev) (h s src ev word : Nat) (next : Bool) :
    (poisonFor d h s src ev word next).mach.colls = d.mach.colls := by
  unfold poisonFor
  extract_lets f first d1 d2 d3 mm d4
  split
  · rfl
  · have h2 : d2.mach = d.mach := by
      simp only [d2, d1]
      split
      · rw [fset_mach, fset_mach, fset_mach]
      · rw [fset_mach]
    rw [raise_minor _ _ _ _ _ (by decide), post_mach, fset_mach]
    change d3.mach.colls = _
    rw [count_mach, h2]

theorem poisonEvent_colls (d : Dev) (h s src ev word : Nat) : (poisonEvent d h s src ev word).mach.colls = d.mach.colls := by
  unfold poisonEvent
  extract_lets cur late d1 s'
  split
  · exact poisonFor_colls ..
  · rw [poisonFor_colls]
    simp only [d1]
    rw [raise_minor _ _ _ _ _ (by decide), post_mach, fset_mach]

theorem reportEvents_colls (d : Dev) (h : Nat) (gp : Bool) (s src word : Nat) (ev : Events) :
    (reportEvents d h gp s src word ev).mach.colls = d.mach.colls := by
  unfold reportEvents
  extract_lets d1 d2 d3 d4 d5
  have h3 : d3.mach = d.mach := by rw [count_mach, count_mach, count_mach]
  have h5 : d5.mach = d.mach := by rw [count_mach, count_mach, h3]
  split
  · split
    · rw [poisonEvent_colls, h5]
    · split
      · rw [poisonEvent_colls, h5]
      · rw [h5]
  · rw [h3]

/-- An atomic at the pools stores its elements, and no collective changes. -/
theorem poolAtomic_stores (gp : Bool) (step : Nat) {atop : Nat} (hk : atomSize atop = some k) (ha : a % k = 0)
    (hn : bs.length % k = 0) (hbs : bs ≠ []) (hs : inStacks d a bs.length = true) (hm : d.ms.marks = []) :
    (poolAtomic d a atop bs gp step).1.mem = memWrite d.mem a ((List.range (bs.length / k)).map fun i => leBytes k
      (atomElem atop (memNat d.mem (a + k * i) k) (leAt bs (k * i) k)).1).flatten ∧
    (poolAtomic d a atop bs gp step).1.mach.colls = d.mach.colls := by
  have hgo : ¬(a % k ≠ 0 ∨ bs.length % k ≠ 0 ∨ bs.isEmpty = true ∨ inStacks d a bs.length = false) := by
    rw [hs]
    simp [ha, hn, hbs]
  have htouch := onlyPools_poolTouches hs hm true fun _ => true
  unfold poolAtomic
  simp only [hk, if_neg hgo]
  generalize (linesUnder a bs.length).foldl (fun d l => poolTouch d l true true) d = X at htouch ⊢
  have hlen : ((List.map (fun r => leBytes k r.1) ((List.range (bs.length / k)).map fun i =>
      atomElem atop (memNat X.mem (a + k * i) k) (leAt bs (k * i) k))).flatten).length = bs.length := by
    have hl : ∀ l : List (Nat × Bool), ((l.map fun r => leBytes k r.1).flatten).length = k * l.length := fun l => by
      induction l with
      | nil => rfl
      | cons x l ih => simp [ih, Nat.mul_succ, Nat.add_comm]
    rw [hl, List.length_map, List.length_range, Nat.mul_div_cancel' (Nat.dvd_of_mod_eq_zero hn)]
  have hsX : inStacks X a bs.length = true := by
    rw [inStacks_of_stackCh fun s hs => htouch.leaves.2.fget (by interval_cases s <;> decide) _, hs]
  have hw := storesOnly_poolWrite (d := X) (by rw [hlen]; exact hsX) (htouch.marks.trans hm)
  refine ⟨?_, ?_⟩
  · rw [reportEvents_mem, count_mem, hw.mem, htouch.mem, List.map_map]
    rfl
  · rw [reportEvents_colls, count_mach, hw.leaves.1 .mach (by simp), htouch.leaves.1 .mach (by simp)]

end

end Sys2Proof.Machine
end

section
/-! PROOFS. The successor is ready: the first phase is sent; and O52 (14, R527, R529). -/

namespace Sys2Proof.Machine

section
variable {ps : List Piece} {p : Nat → Bool} {d D T : Dev} {c : Coll} {e : List Nat} {cid k q r a n : Nat} {m : Msg}
  {bs : List Byte}

/-- The collective with its successor ready and its next phase sent. -/
def collSent (c : Coll) : Coll := { c with ready := true, next := c.next + 1 }

/-- The message of a phase that one message holds. -/
def phaseMsg (d : Dev) (c : Coll) : Msg :=
  collMsg d (cltPeer d c.ent (cltIdx c.ent + 1)) (ceVc c.ent) (if c.next + 1 < cltNm c.ent then 0 else 1) c.cid c.attempt c.next c.step
    (ceSends c.ent c.next * ceChunk c.ent) (cltFmt c.ent) (ceGp c.ent)
    (memRead d.mem (cltBuf c.ent + ceSends c.ent c.next * ceChunk c.ent) (ceChunk c.ent))

/-- A phase of one message. -/
theorem sendPhase_one (hm : d.ms.marks = []) (hplain : plainMem d (cltBuf c.ent + ceSends c.ent c.next * ceChunk c.ent) (ceChunk c.ent))
    (hpos : 0 < ceChunk c.ent) (hle : ceChunk c.ent ≤ 4096) : ∃ E, OnlyPools d E ∧ sendPhase d c =
      sendMsg E (collMsg E (cltPeer E c.ent (cltIdx c.ent + 1)) (ceVc c.ent) (if c.next + 1 < cltNm c.ent then 0 else 1) c.cid c.attempt
        c.next c.step (ceSends c.ent c.next * ceChunk c.ent) (cltFmt c.ent) (ceGp c.ent)
        (memRead d.mem (cltBuf c.ent + ceSends c.ent c.next * ceChunk c.ent) (ceChunk c.ent))) := by
  obtain ⟨hbs, hE⟩ := qRead_plain hplain hm
  have hread : (qGet d (cltBuf c.ent + ceSends c.ent c.next * ceChunk c.ent) (ceChunk c.ent)).2 =
      memRead d.mem (cltBuf c.ent + ceSends c.ent c.next * ceChunk c.ent) (ceChunk c.ent) := by
    rw [qGet, hbs]
    rfl
  refine ⟨_, hE, ?_⟩
  unfold sendPhase
  dsimp only
  rw [hread]
  generalize hb : memRead d.mem (cltBuf c.ent + ceSends c.ent c.next * ceChunk c.ent) (ceChunk c.ent) = bs
  have hlen : bs.length = ceChunk c.ent := by rw [← hb, memRead_length]
  rw [pieces_one (List.length_pos_iff.1 (by omega)) (by omega)]
  rfl

/-- The collective that waits for its successor alone sends its first phase. -/
theorem collReady_sends (hcur : collCurrent T m = true) (hc : collOf T (bits m.w1 13 4) = some c) (hnext : c.next = ceFirst c.ent)
    (hlanded : c.landed = ceFirst c.ent) (hlast : ceFirst c.ent ≤ ceLast c.ent)
    (hop : cltOp c.ent = 2 ∨ ceFirst c.ent < cltNm c.ent - 1) (hpos : 0 < ceChunk c.ent) (hle : ceChunk c.ent ≤ 4096) (hm : T.ms.marks = [])
    (hplain : plainMem T (cltBuf c.ent + ceSends c.ent c.next * ceChunk c.ent) (ceChunk c.ent)) (hquiet : quiet T)
    (hown : cltPeer T c.ent (cltIdx c.ent + 1) ≠ ownChip T) (hroute : routeTo T (cltPeer T c.ent (cltIdx c.ent + 1)) = some q)
    (hcarry : carries T q (ceVc c.ent) = true) :
    ∃ E, (∀ port, Leaves [.mach, .ms] (isEngine port) T E) ∧ E.mach.colls = collsWith T.mach.colls (collSent c) ∧
      collReady T m = enqueue E q (phaseMsg T c) none := by
  have hready := collOf_setColl (c' := { c with ready := true }) hc rfl
  have hsent := collOf_setColl (d := setColl T { c with ready := true }) (c := { c with ready := true }) (c' := collSent c) hready rfl
  generalize hX : setColl T { c with ready := true } = X at hready hsent
  generalize hY : setColl X (collSent c) = Y at hsent
  have hlX : Leaves [.mach] (these [A.COL_STS]) T X := hX ▸ (leaves_setColl_iff (by simp) (by simp)).2 leaves_self
  have hlY : Leaves [.mach] (these [A.COL_STS]) T Y := hY ▸ (leaves_setColl_iff (by simp) (by simp)).2 hlX
  have hmem : Y.mem = T.mem := by rw [← hY, setColl, setColls_mem, ← hX, setColl, setColls_mem]
  have hcolls : Y.mach.colls = collsWith T.mach.colls (collSent c) := by
    rw [← hY, setColl_colls, ← hX, setColl_colls]
    exact collsWith_collsWith (c := { c with ready := true }) (c' := collSent c) rfl _
  have hcut : Y.mach.cutOut = T.mach.cutOut := by rw [← hY, setColl_mach, ← hX, setColl_mach]
  obtain ⟨E, hE, hphase⟩ := sendPhase_one (d := Y) (c := { c with ready := true }) (by rw [hlY.1 .ms (by simp), hm])
    ((plainMem_of_stackCh fun s hs => hlY.2.fget (these_apart (by interval_cases s <;> decide)) _).2 hplain) hpos hle
  have hlE (port) : Leaves [.mach, .ms] (isEngine port) T E :=
    (hlY.weaken (by simp) fun _ => these_sts_of_isEngine).trans (hE.leaves.weaken (by simp) fun _ => isAccess_of_isEngine)
  have hmachE : E.mach = Y.mach := hE.leaves.1 .mach (by simp)
  have hways := sameWays (hlE 0) (by rw [hmachE, hcut])
  rw [cltPeer_of_mem (d := T) (fun a => by rw [hE.mem, hmem]), sendColl_carried hways hquiet hown (cltPeer_lt ..) hroute hcarry, hmem] at hphase
  refine ⟨E, hlE, by rw [hmachE, hcolls], ?_⟩
  have hfirst : ¬(cltOp c.ent ≠ 2 ∧ c.scaled = false ∧ cltNm c.ent - 1 ≤ c.landed) := by
    rintro ⟨h2, -, h⟩
    obtain h' | h' := hop
    · exact h2 h'
    · omega
  have hgo : c.next ≤ ceLast c.ent ∧ (if c.next = ceFirst c.ent then true else decide (c.next ≤ c.landed)) = true := by
    rw [if_pos hnext, hnext]
    exact ⟨hlast, rfl⟩
  have hrests : collRests (collSent c) := by
    refine ⟨hfirst, ?_⟩
    rintro ⟨-, h⟩
    have hne : (collSent c).next ≠ ceFirst (collSent c).ent := by
      show c.next + 1 ≠ ceFirst c.ent
      omega
    rw [if_neg hne, decide_eq_true_eq] at h
    have h : c.next + 1 ≤ c.landed := h
    omega
  have hstands : collOf (enqueue E q (phaseMsg T c) none) (bits m.w1 13 4) = some (collSent c) := by
    rw [collOf_of_colls (d := Y) (by rw [enqueue_mach, hmachE]), hsent]
  have hrun : collRun X (bits m.w1 13 4) = enqueue E q (phaseMsg T c) none := by
    simp only [collRun, hready, collGo, if_neg hfirst]
    rw [if_pos hgo]
    have hY' : setColl X { c with ready := true, next := c.next + 1 } = Y := hY
    rw [hY', hphase]
    exact collGo_rests hstands hrests _
  unfold collReady
  simp only [hcur, hc, Bool.not_true, Bool.false_eq_true, if_false]
  rw [hX, hrun]

theorem collAck_counts (hcur : collCurrent d m = true) (hc : collOf d (bits m.w1 13 4) = some c) :
    collAck d m = setColl d { c with acked := min (c.acked + 1) c.next } := by
  unfold collAck
  simp only [hc, hcur, if_true]

end

/-! ### The clauses -/

section
variable {d : Dev} {c : Coll} {q r : Nat} {m : Msg}

/-- A command that only counts a COLL message as stale. -/
theorem stale_leaves (hq : q < 8) (ha : arrives d q m) :
    Leaves [.ports] (fun x => isCounter x || isVc q x) d (collStale (takeInbox d q m)) :=
  ((arrived_takeInbox hq ha).leaves.weaken (by simp) fun _ h => (Bool.or_eq_false_iff.1 h).2).trans
    ((collStale_leaves _).weaken (by simp) fun _ h => (Bool.or_eq_false_iff.1 h).1)

/-- What an arrival that stores and counts a chunk's bytes leaves. -/
theorem collWrite_stores (hq : q < 8) (ha : arrives d q m) (hm : d.ms.marks = []) (hc : collOf d (bits m.w1 13 4) = some c)
    (hcur : collCurrent d m = true) (hlen : bits m.w2 41 0 + m.data.length ≤ cltLen c.ent) (htap : ceTapR c.ent = false)
    (hplain : plainMem d (cltBuf c.ent + bits m.w2 41 0) m.data.length) : ∃ u, collData (takeInbox d q m) m false = u ∧
      u.mem = memWrite d.mem (cltBuf c.ent + bits m.w2 41 0) m.data ∧ u.mach.colls = collsWith d.mach.colls (collCounted c m) ∧
      Leaves [.ports, .mach, .mem, .ms] (isEngine q) d u := by
  have hT := arrived_takeInbox hq ha
  have hw := qPut_plain ((hT.plainMem hq _ _).2 hplain) (hT.marks hm)
  refine ⟨_, collData_write (by rw [hT.current hq, hcur]) (by rw [hT.collOf, hc]) hlen htap, ?_, ?_, ?_⟩
  · rw [setColl, setColls_mem, hw.mem, hT.mem]
  · rw [setColl_colls, hw.leaves.1 .mach (by simp), hT.mach]
  · rw [leaves_setColl_iff (by simp) isEngine_sts]
    exact (hT.engine.weaken (by simp) fun _ => id).trans (hw.leaves.weaken (by simp) fun _ => isAccess_of_isEngine)

theorem collAdd_stores {k : Nat} (hq : q < 8) (ha : arrives d q m) (hm : d.ms.marks = []) (hc : collOf d (bits m.w1 13 4) = some c)
    (hcur : collCurrent d m = true) (hlen : bits m.w2 41 0 + m.data.length ≤ cltLen c.ent) (hbs : m.data ≠ [])
    (hs : inStacks d (cltBuf c.ent + bits m.w2 41 0) m.data.length = true) (hk : atomSize (cltFmt c.ent) = some k)
    (hak : (cltBuf c.ent + bits m.w2 41 0) % k = 0) (hnk : m.data.length % k = 0)
    (hline : (cltBuf c.ent + bits m.w2 41 0) % 128 + m.data.length ≤ 128) : ∃ u, collData (takeInbox d q m) m true = u ∧
      u.mem = memWrite d.mem (cltBuf c.ent + bits m.w2 41 0) ((List.range (m.data.length / k)).map fun i => leBytes k
        (atomElem (cltFmt c.ent) (memNat d.mem (cltBuf c.ent + bits m.w2 41 0 + k * i) k) (leAt m.data (k * i) k)).1).flatten ∧
      u.mach.colls = collsWith d.mach.colls (collCounted c m) := by
  have hT := arrived_takeInbox hq ha
  obtain ⟨hmem, hcolls⟩ := poolAtomic_stores m.gp c.step hk hak hnk hbs ((hT.inStacks hq _ _).trans hs) (hT.marks hm)
  refine ⟨_, collData_add (by rw [hT.current hq, hcur]) (by rw [hT.collOf, hc]) hlen, ?_, ?_⟩
  · rw [pieces_one hbs hline, List.foldl_cons, List.foldl_nil, setColl, setColls_mem, hmem, hT.mem]
  · rw [pieces_one hbs hline, List.foldl_cons, List.foldl_nil, setColl_colls, hcolls, hT.mach]

theorem collAck_leaves (hq : q < 8) (ha : arrives d q m) (hc : collOf d (bits m.w1 13 4) = some c) (hcur : collCurrent d m = true) :
    ∃ u, collAck (takeInbox d q m) m = u ∧ u.mach.colls = collsWith d.mach.colls { c with acked := min (c.acked + 1) c.next } ∧
      Leaves [.ports, .mach] (isEngine q) d u := by
  have hT := arrived_takeInbox hq ha
  refine ⟨_, collAck_counts (by rw [hT.current hq, hcur]) (by rw [hT.collOf, hc]), ?_, ?_⟩
  · rw [setColl_colls, hT.mach]
  · rw [leaves_setColl_iff (by simp) isEngine_sts]
    exact hT.engine.weaken (by simp) fun _ => id

theorem collReady_leaves (hq : q < 8) (ha : arrives d q m) (hm : d.ms.marks = []) (hc : collOf d (bits m.w1 13 4) = some c)
    (hcur : collCurrent d m = true) (hnext : c.next = ceFirst c.ent) (hlanded : c.landed = ceFirst c.ent)
    (hlast : ceFirst c.ent ≤ ceLast c.ent) (hop : cltOp c.ent = 2 ∨ ceFirst c.ent < cltNm c.ent - 1) (hpos : 0 < ceChunk c.ent)
    (hle : ceChunk c.ent ≤ 4096) (hplain : plainMem d (cltBuf c.ent + ceSends c.ent c.next * ceChunk c.ent) (ceChunk c.ent))
    (hown : cltPeer d c.ent (cltIdx c.ent + 1) ≠ ownChip d) (hroute : routeTo d (cltPeer d c.ent (cltIdx c.ent + 1)) = some r)
    (hcarry : carries d r (ceVc c.ent) = true) : ∃ u, collReady (takeInbox d q m) m = u ∧
      u.mach.colls = collsWith d.mach.colls (collSent c) ∧
      (portOf u r).queue = (portOf d r).queue ++ [⟨(portOf d r).nextId, phaseMsg d c, 0, none⟩] ∧
      Leaves [.ports, .mach, .ms] (isEngine q) d u := by
  have hT := arrived_takeInbox hq ha
  have hways := sameWays hT.engine (by rw [hT.mach])
  have hpeer : cltPeer (takeInbox d q m) c.ent (cltIdx c.ent + 1) = cltPeer d c.ent (cltIdx c.ent + 1) :=
    cltPeer_of_mem (fun a => by rw [hT.mem]) _ _
  obtain ⟨E, hE, hcolls, hready⟩ := collReady_sends (by rw [hT.current hq, hcur]) (by rw [hT.collOf, hc]) hnext hlanded hlast hop hpos
    hle (hT.marks hm) ((hT.plainMem hq _ _).2 hplain) (hways.quiet ha.2.2.2) (by rw [hpeer, hways.own]; exact hown)
    (by rw [hpeer, hways.route _ (cltPeer_lt ..)]; exact hroute) (by rw [hways.carry _ (routeTo_lt hroute)]; exact hcarry)
  have hmsg : phaseMsg (takeInbox d q m) c = phaseMsg d c := by
    rw [phaseMsg, hpeer, collMsg_same hways, hT.mem, phaseMsg]
  have hport : portOf E r = portOf (takeInbox d q m) r := by rw [portOf, (hE 0).1 .ports (by simp), portOf]
  refine ⟨_, hready, ?_, ?_, ?_⟩
  · rw [enqueue_mach, hcolls, hT.mach]
  · rw [enqueue_port, hport, hmsg, (hT.queue r).1, (hT.queue r).2]
  · exact ((hT.engine.weaken (by simp) fun _ => id).trans ((hE q).weaken (by simp) fun _ => id)).trans
      ((leaves_enqueue ..).weaken (by simp) fun _ => id)

/-- A message that joins a queue on a package that the engine has changed. -/
theorem enqueue_leaves {D : Dev} (h : Leaves [.mach] (these [A.COL_STS]) d D) (q : Nat) (m : Msg) :
    (enqueue D q m none).mach = D.mach ∧
      (portOf (enqueue D q m none) q).queue = (portOf d q).queue ++ [⟨(portOf d q).nextId, m, 0, none⟩] ∧
      Leaves [.ports, .mach] (these [A.COL_STS]) d (enqueue D q m none) :=
  ⟨enqueue_mach .., queue_enqueue (h.1 .ports (by simp)) m,
    (h.weaken (by simp) fun _ => id).trans ((leaves_enqueue ..).weaken (by simp) fun _ => id)⟩

theorem launch_leaves (hroom : d.mach.colls.length < 16) (k : Nat) (e : List Nat) (q : Nat) (m : Msg) :
    ∃ u, enqueue (collListed d k e) q m none = u ∧ u.mach.launched = k + 1 ∧ u.mach.colls = d.mach.colls ++ [collStarted d k e] ∧
      fget u A.COL_STS F.COL_STS_RUN = d.mach.colls.length + 1 ∧
      (portOf u q).queue = (portOf d q).queue ++ [⟨(portOf d q).nextId, m, 0, none⟩] ∧
      Leaves [.ports, .mach] (these [A.COL_STS]) d u := by
  obtain ⟨hlaunched, hcolls, -⟩ := collListed_mach d k e
  obtain ⟨hmach, hqueue, hl⟩ := enqueue_leaves (leaves_collListed d k e) q m
  exact ⟨_, rfl, by rw [hmach, hlaunched], by rw [hmach, hcolls],
    ((leaves_enqueue (p := fun _ => false) ..).2.fget rfl _).trans (collListed_run hroom k e), hqueue, hl⟩

theorem landed_leaves (c : Coll) (q : Nat) (m : Msg) : ∃ u, enqueue (setColl d c) q m none = u ∧
    u.mach.colls = collsWith d.mach.colls c ∧ (portOf u q).queue = (portOf d q).queue ++ [⟨(portOf d q).nextId, m, 0, none⟩] ∧
    Leaves [.ports, .mach] (these [A.COL_STS]) d u := by
  obtain ⟨hmach, hqueue, hl⟩ := enqueue_leaves ((leaves_setColl_iff (c := c) (by simp) (by simp)).2 (leaves_self (d := d))) q m
  exact ⟨_, rfl, by rw [hmach, setColl_colls], hqueue, hl⟩

end

/-- Settles O52: each command is one function of the package at the moment of the event, and each case one path of it. -/
theorem collectivesRunTheirPhases : Obligations.CollectivesRunTheirPhases := by
  unfold Obligations.CollectivesRunTheirPhases
  refine ⟨fun t s => ?_, fun port m s c => ?_, fun cid s c => ?_, fun t cid s c => ?_⟩
  · intro d k
    refine ⟨fun h => next_congr rfl (collLaunch_none h), fun e q he hk hend htrig hroom hrun htap hm hkept hnew hquiet => ?_⟩
    intro chip hown hroute hcarry
    have hlaunch := collLaunch_sends he hk hend htrig hroom hrun htap hm hkept hnew hquiet hown hroute hcarry
    obtain ⟨u, hu, hlaunched, hcolls, hrunning, hqueue, hl⟩ := launch_leaves hroom k e q
      (collMsg d chip (ceVc e) 2 k (attemptNow d) 0 (curStep d) 0 (cltFmt e) false [])
    exact ⟨_, next_congr rfl (hlaunch.trans hu), hlaunched, hcolls, hrunning, hqueue, hl.1, hl.2⟩
  · intro d p e a n ph now mine ha hm hc
    have hp : p < 8 := port.isLt
    refine ⟨fun hcur op hop => ?_, fun hcur => ⟨fun hlen hne hplain htap => ?_, fun k hlen hne hs hk hak hnk hline => ?_, ?_, ?_⟩⟩
    · have hT := arrived_takeInbox hp ha
      obtain ⟨hdata, hready, hack⟩ := coll_not_current ((hT.current hp m).trans hcur) ((hT.collOf _).trans hc)
      have hl := stale_leaves hp ha
      obtain rfl | rfl | rfl | rfl := hop
      · exact ⟨_, next_congr rfl ((arrival_taken ha hp _).trans (hdata true)), hl.1, hl.2⟩
      · exact ⟨_, next_congr rfl ((arrival_taken ha hp _).trans (hdata false)), hl.1, hl.2⟩
      · exact ⟨_, next_congr rfl ((arrival_taken ha hp _).trans hready), hl.1, hl.2⟩
      · exact ⟨_, next_congr rfl ((arrival_taken ha hp _).trans hack), hl.1, hl.2⟩
    · obtain ⟨u, hu, hmem, hcolls, hl⟩ := collWrite_stores hp ha hm hc hcur hlen htap hplain
      refine ⟨_, next_congr rfl ((arrival_taken ha hp _).trans hu), ?_, fun x hx => ?_, hcolls, (hl.weaken (by simp) fun _ => id).1, hl.2⟩
      · rw [hmem]
        exact memRead_memWrite ..
      · rw [hmem]
        exact memGet_memWrite_out _ _ _ _ hx
    · obtain ⟨u, hu, hmem, hcolls⟩ := collAdd_stores hp ha hm hc hcur hlen hne hs hk hak hnk hline
      exact ⟨_, next_congr rfl ((arrival_taken ha hp _).trans hu), hmem, hcolls⟩
    · obtain ⟨u, hu, hcolls, hl⟩ := collAck_leaves hp ha hc hcur
      exact ⟨_, next_congr rfl ((arrival_taken ha hp _).trans hu), hcolls, (hl.weaken (by simp) fun _ => id).1, hl.2⟩
    · intro q first off chip hnext hlanded hlast hop hpos hle hplain hcid hown hroute hcarry
      obtain ⟨u, hu, hcolls, hqueue, hl⟩ := collReady_leaves hp ha hm hc hcur hnext hlanded hlast hop hpos hle (by rw [hnext]; exact hplain)
        hown hroute hcarry
      refine ⟨_, next_congr rfl ((arrival_taken ha hp _).trans hu), ?_, ?_, (hl.weaken (by simp) fun _ => id).1, hl.2⟩
      · rw [show collSent c = { c with ready := true, next := first + 1 } by rw [collSent, hnext]] at hcolls
        exact hcolls
      · rw [hqueue, phaseMsg, hnext]
  · intro d e ch hc hcid
    refine ⟨fun q => ?_, fun _ hb => next_congr rfl (phaseLanded_early hc hb),
      fun hn hl ha hs => ?_, fun hl => next_congr rfl (collComplete_early hc hl)⟩
    · intro chip hl hb hn hs hquiet hown hroute hcarry
      have hacks := phaseLanded_acks hc hl hb hn hs hquiet hown hroute hcarry
      obtain ⟨u, hu, hcolls, hqueue, hleft⟩ := landed_leaves (d := d) { c with landed := c.landed + 1 } q
        (collMsg d chip (ceVc e) 3 cid.toNat c.attempt c.landed c.step 0 (cltFmt e) false [])
      rw [← hcid] at hqueue
      exact ⟨_, next_congr rfl (hacks.trans hu), hcolls, hqueue, hleft.1, hleft.2⟩
    · obtain ⟨hh, hk⟩ := collChan_lt e
      have hdone := completed_collGone (d := d) (cid := cid.toNat) hh hk
      rw [← collComplete_eq hc hn hl ha hs] at hdone
      generalize hu : collComplete d cid.toNat = u at hdone
      exact ⟨_, next_congr rfl hu, hdone.colls, hdone.done, hdone.count, hdone.leaves.1, hdone.leaves.2⟩
  · intro d ch hc htime
    have hfail := collFail_fails hc cid.isLt (max c.landed c.acked) 0
    have hu : collTimeout d cid.toNat = collFail d cid.toNat (max c.landed c.acked) 0 := by
      unfold collTimeout
      simp only [hc, if_pos htime]
    generalize collFail d cid.toNat (max c.landed c.acked) 0 = u at hfail hu
    exact ⟨_, next_congr rfl hu, hfail.colls, hfail.abort, hfail.exc, hfail.cid, hfail.count, hfail.leaves.1, hfail.leaves.2⟩

end Sys2Proof.Machine
end
